-- ==== Sys2Proof/Word.lean ====
section
/-! DEFINITION. Word.lean: the byte and register-word types and the plainest arithmetic over them. -/

namespace Sys2Proof

/-- One byte of memory or of a message. -/
abbrev Byte := BitVec 8

/-- One 64-bit register word as a master writes it. -/
abbrev Word := BitVec 64

/-- The bits `lo + w - 1` down to `lo` of a number. -/
def bitsOf (v lo w : Nat) : Nat := v / 2 ^ lo % 2 ^ w

/-- A little-endian byte list as a number (R8). -/
def leNat : List Byte → Nat
  | [] => 0
  | b :: t => b.toNat + 256 * leNat t

/-- A number as `n` little-endian bytes (R8). -/
def natLe : Nat → Nat → List Byte
  | 0, _ => []
  | n + 1, v => BitVec.ofNat 8 v :: natLe n (v / 256)

/-- `n` bytes of a list from byte `o` on, short lists completed with zero bytes. -/
def sliceB (l : List Byte) (o n : Nat) : List Byte :=
  let t := (l.drop o).take n
  t ++ List.replicate (n - t.length) 0

/-- The little-endian field of `n` bytes at byte `o` of a structure (R8). -/
def fieldLe (l : List Byte) (o n : Nat) : Nat := leNat (sliceB l o n)

/-- Quotient rounded up. -/
def ceilDiv (a b : Nat) : Nat := (a + b - 1) / b

end Sys2Proof
end

