-- ==== Sys2Proof/Syntax.lean ====
section
/-! DEFINITION. Syntax.lean: the commands of the block, one constructor per row of spec/opcode_table.json, with the operands
that the row's rule gives it. The table gives no row any bits. -/

namespace Sys2Proof

/-- The masters of R10 that may write a register: host software, KN40 firmware, the chart (applied by KN40), a compute die
through its port, and the management interface MGMT of R466. -/
inductive Master where
  | host | fw | chart | cdp (p : Fin 4) | mgmt
  deriving DecidableEq, Repr

/-- The flash devices of one channel as READ ID and the parameter page report them (R285): identity, targets, LUNs per channel,
data and spare bytes per page, planes, wordlines per block, blocks per plane, the factory-marked blocks (LUN * 4096 + index), and whether the channel bus
trained (R302). -/
structure FlashPart where
  id        : List Byte
  targets   : Nat
  luns      : Nat
  page      : Nat
  spare     : Nat
  planes    : Nat
  wordlines : Nat
  blocks    : Nat
  bad       : List Nat
  trained   : Bool
  deriving DecidableEq, Repr

/-- A transfer named by its number, with the OAs of the 64-byte accesses of it that the ECC of HBM or of an on-die SRAM finds uncorrectable
(R413; log entry 247). -/
structure Transfer where
  seq : Nat
  bad : List Nat
  deriving DecidableEq, Repr

/-- An access to a BAR0 register (R12, R366): its size in bytes, whether it reads, and whether its address came translated (R376). -/
structure RegAccess where
  size       : Nat
  read       : Bool
  translated : Bool
  deriving DecidableEq, Repr

/-- A plain write of so many bytes. -/
def RegAccess.wr (size : Nat) : RegAccess := ⟨size, false, false⟩

/-- How a read or write came over the host link: as a write, and with a translated or translation-request AT field (R376). -/
structure LinkReq where
  write      : Bool
  translated : Bool
  deriving DecidableEq, Repr

/-- An AtomicOp over the host link (R366): 0 FetchAdd, 1 Swap, 2 compare and swap, and whether its address came translated (R376). -/
structure LinkAtomic where
  code       : Nat
  translated : Bool
  deriving DecidableEq, Repr

/-- An entry of the map memory (R259): the directory entry, or the level-2 entry, that covers an OA. -/
structure MapEntry where
  oa  : BitVec 52
  dir : Bool
  deriving DecidableEq, Repr

/-- The commands, in the table's order. Register-write rows carry the writing master and the 64-bit value written; stream rows
carry the stream context; events carry what the outside world supplies with them. -/
inductive Instr where
  /-- R10: A BAR0 write to a register with no row of its own is applied field by field according to owner, access code and reserved-field rules. -/
  | registerWrite (m : Master) (off : BitVec 24) (acc : RegAccess) (v : BitVec 64)
  /-- R392: At the launch count KN40 takes the start number, seed and R333 values, zeroes the slip, clears launch counters, then casts on or runs a held swatch. -/
  | launchCount
  /-- R16: At a cast-on count KN40 fixes the bind-off count, restores the stream set, opens the ledgers, clears the accumulators and barrier table, and starts plan time. -/
  | castOn
  /-- R28: At bind-off minus 16,384 ticks the commits pending for this bind-off freeze, and later requests target the following bind-off. -/
  | commitDeadline
  /-- R20: At the end of reserve KN40 checks the plan; if any action is unfinished it raises FLAG_OUT, stops the plan streams and logs the remaining work. -/
  | endOfReserve
  /-- R26: At the verdict count KN40 samples FLAG_IN once, deciding whether the step is finite. -/
  | verdictSample (flagIn : Bool)
  /-- R27: At bind-off KN40 atomically commits or discards the step's shadows, releases FLAG_OUT, frees the stash, clears the accumulators, increments the step number and starts agreement. -/
  | bindOff
  /-- R54: At B + (k+1)·G each device samples FLAG_IN as a bit of the agreed variant, stops contending if it is outvoted, and drives its next bit or releases FLAG_OUT. -/
  | agreementRound (flagIn : Bool)
  /-- R432: The comparison of the ledger snapshot taken at bind-off completes by B + 1,024 and records LEDGER_MISMATCH on any imbalance. -/
  | ledgerAudit
  /-- R28: By B + 2,048 the next variant, commits, retirements, mends, stops and swatches are applied, and the STEP and figure registers are written. -/
  | boundaryDecisions
  /-- R31: At B + I a requested swatch begins its forward-only plan in the swatch domain. -/
  | swatchStart
  /-- R32: At the end of a swatch KN40 audits the ledgers again and enters HOLD on a mismatch. -/
  | swatchEnd
  /-- R444: At S − 2,000 ticks each unit whose first use is at S starts its staggered wake sequence. -/
  | unitWake (u : BitVec 16)
  /-- R106: After a unit's last use, when its next use is 6,000 ticks or more away, the unit is power-gated with its buffers retained. -/
  | unitGate (u : BitVec 16)
  /-- R33: Writing STEP_SWATCH.REQ requests a swatch program and fixes its target bind-off by its arrival count and the phase. -/
  | swatchRequest (m : Master) (v : BitVec 64)
  /-- R35: Writing STEP_CTRL.STOP requests that the device enter HOLD after a target bind-off. -/
  | stopRequest (m : Master) (v : BitVec 64)
  /-- R72: Writing CHART_LOAD_CTRL.LOAD starts fetching a chart image from host memory into the staging area, unless the request is refused. -/
  | chartLoad (m : Master) (v : BitVec 64)
  /-- R72: When the image fetch completes, STATE moves from FETCHING to VALIDATING. -/
  | chartFetchDone (image : List Byte)
  /-- R69: The ordered chart checks finish, leaving the image VALID or INVALID with the first failing rule recorded. -/
  | chartValidationDone
  /-- R73: Writing DISCARD returns the staged image to EMPTY, unless the request is refused. -/
  | chartDiscard (m : Master) (v : BitVec 64)
  /-- R73: Writing UNINSTALL in IDLE or HOLD removes the installed chart, its maps and its contexts, and drops held swatches. -/
  | chartUninstall (m : Master) (v : BitVec 64)
  /-- R74: Writing CHART_COMMIT.REQ requests installation of the staged chart at a target bind-off, or at once outside steps. -/
  | chartCommitRequest (m : Master) (v : BitVec 64)
  /-- R76: Writing CHART_COMMIT.WITHDRAW removes the most recent pending chart commit if its deadline has not passed. -/
  | chartCommitWithdraw (m : Master) (v : BitVec 64)
  /-- R74: Writing CHART_VARIANT.REQ requests that a named variant run at a target bind-off or launch. -/
  | variantCommitRequest (m : Master) (v : BitVec 64)
  /-- R76: Writing CHART_VARIANT.WITHDRAW removes the most recent pending variant commit if its deadline has not passed. -/
  | variantCommitWithdraw (m : Master) (v : BitVec 64)
  /-- R79: The staged chart's contexts, programs, schedules, ownership, tier map and port settings are installed, at bind-off, in IDLE or HOLD, or after a drain. -/
  | chartInstall
  /-- R87: At its cluster entry's plan offset, a recompute segment starts on its span of clusters and runs its operations in order. -/
  | segmentStart (e : Nat)
  /-- R90: Exactly WORK_CYCLES after its start, a segment ends and hands its completion to its output streams. -/
  | segmentEnd (e : Nat)
  /-- R315: An update cluster entry starts the AdamW or copy update of one parameter chunk on its span. -/
  | updateChunk (e : Nat) (peers : List Byte)
  /-- R317: A chunk update ends after its fixed UPDATE_CYCLES. -/
  | updateChunkDone (e : Nat)
  /-- R192: A scheduled panel walk checks the blocks of each Cyloth-W panel and writes the start offset of each split-K part to the panel table. -/
  | panelWalk (e : Nat)
  /-- R179: In one encode slot, a skein-engine pipeline carries one block through pass 1, table build, pass 2 and emit. -/
  | skeinEncodeSlot (n : Fin 16384)
  /-- R184: In one decode slot, the pipeline checks and decodes one block and delivers its raw bytes with their marks. -/
  | skeinDecodeSlot (n : Fin 16384)
  /-- R190: An operand expander decodes one K-chunk of a panel into its chunk stage. -/
  | expanderChunk (core : Fin 144) (skein : Nat) (panel : Nat) (chunk : Nat)
  /-- R203: An ARMED plan stream begins at PC 0 at C + START + slip. -/
  | streamStart (n : Fin 16384)
  /-- R205: MOVE starts COUNT blocks of the block list in order, up to INFLIGHT at once, adding AD0 and AD1 where flagged. -/
  | move (n : Fin 16384)
  /-- R207: MOVEX packs raw blocks to skeins, or unpacks skeins to raw blocks, on the stream's skein engine. -/
  | movex (n : Fin 16384)
  /-- R208: INLINE writes up to 192 bytes carried in the program to DST. -/
  | inline (n : Fin 16384)
  /-- R209: LOOP sets its counter to COUNT, or skips the body when COUNT is zero. -/
  | loop (n : Fin 16384)
  /-- R209: ENDLOOP decrements the loop counter and branches back to the body while the counter is not zero. -/
  | endloop (n : Fin 16384)
  /-- R210: WAITPACE waits until PACE_USED + N ≤ PACE_RECV + A, then adds N to PACE_USED. -/
  | waitpace (n : Fin 16384)
  /-- R211: WAITSEM begins waiting for a semaphore word to reach VALUE. -/
  | waitsem (n : Fin 16384)
  /-- R211: When the semaphore word reaches VALUE, the waiting stream passes, subtracting VALUE atomically if CONSUME is set. -/
  | waitsemPass (n : Fin 16384)
  /-- R215: After the stream's earlier writes complete, SIGNAL delivers VALUE to a local or peer semaphore, a die sequencer or an MSI-X vector. -/
  | signal (n : Fin 16384)
  /-- R216: MARK increments MARKS and delivers a half or full completion mark to its target, ordered as SIGNAL is. -/
  | mark (n : Fin 16384)
  /-- R217: FENCE holds later writes of the stream until earlier writes have completed or been issued, with far reads on the host link. -/
  | fence (n : Fin 16384)
  /-- R218: SEAL waits for all blocks, confirms far writes by zero-length reads or KPP fences, fixes the check value, writes the status word and sets SEALED. -/
  | seal (n : Fin 16384)
  /-- R377: Completion of a SEAL or FENCE zero-length read confirms the stream's posted writes, or makes the stream FAR_FAULT. -/
  | farReadCompletion (n : Fin 16384) (far : Nat) (kind : Nat)
  /-- R212: BARRIER registers an arrival at barrier ID and waits for its generation to complete, locally or across the configuration. -/
  | barrier (n : Fin 16384)
  /-- R396: A generation completes when it has completed locally and every other member's announced generation has reached it; waiters pass. -/
  | barrierComplete (id : Fin 4096)
  /-- R396: An arriving peer write records a member's announced generation in the barrier table. -/
  | barrierAnnouncement (j : Fin 64) (id : Fin 4096) (gen : BitVec 64)
  /-- R213: SETREG sets AD0 or AD1, or adds to it modulo 2^48. -/
  | setreg (n : Fin 16384)
  /-- R214: NOP does nothing. -/
  | nop (n : Fin 16384)
  /-- R214: END sets the stream ENDED, making its STATUS final. -/
  | endOp (n : Fin 16384)
  /-- R196: A block in flight completes at its destination and frees its block slot. -/
  | blockComplete (n : Fin 16384) (w : Transfer)
  /-- R252: At the end of every round of plan time, unmet demand of each source is added to the tension counters. -/
  | roundEnd
  /-- R231: At the first round boundary after a failover cause or an overdue SCOPE 1 barrier, plan time stops and slots pass to FW. -/
  | pauseBegin
  /-- R418: At its fixed length, or when the barrier generation completes, a pause ends and plan time resumes with the slip increased. -/
  | pauseEnd
  /-- R268: GO with OP MAP maps unmapped pages of a runtime object from the pools of its class. -/
  | tierMap (m : Master) (v : BitVec 64)
  /-- R268: GO with OP UNMAP returns runtime pages to their pools, abandoning migrations. -/
  | tierUnmap (m : Master) (v : BitVec 64)
  /-- R268: GO with OP RECLASS changes the class and HOSTCACHE of runtime pages and queues migrations they need. -/
  | tierReclass (m : Master) (v : BitVec 64)
  /-- R268: A tier-map command completes, including the zeroing of newly mapped pages, and BUSY clears. -/
  | tierMapDone
  /-- R270: At every bind-off, and every 2^20 ticks in IDLE and HOLD, KN40 queues demotions, promotions and re-classes and halves the counters. -/
  | migrationPass
  /-- R271: When the last granule is copied, the page's entry switches to the target and the source returns to its pool. -/
  | pageMigrationDone (ok : Bool) (data : List Byte)
  /-- R282: A write to TIER_LOOKUP_OA.PAGE translates the page and fills TIER_LOOKUP_ENTRY within 8 ticks. -/
  | tierLookup (m : Master) (v : BitVec 64)
  /-- R281: TIER_BIAS_CMD.GO with TO_HOST 1 requests host bias for a HOSTCACHE page. -/
  | biasToHost (m : Master) (v : BitVec 64)
  /-- R281: TIER_BIAS_CMD.GO with TO_HOST 0 starts back-invalidation of a page's lines toward device bias. -/
  | biasToDevice (m : Master) (v : BitVec 64)
  /-- R281: A bias change takes effect once in-flight blocks complete or the last invalidation is answered, and BUSY clears. -/
  | biasChangeDone
  /-- R277: A write of a host lend entry is checked for overlapping ranges and applies to requests translated after it. -/
  | lendEntryWrite (m : Master) (e : Fin 32) (b : Bool) (v : BitVec 64)
  /-- R277: A peer request at BAR4 is served through the lend entry covering its offset, or is refused. -/
  | peerRequest (req : LinkReq) (addr : BitVec 64) (len : Nat) (data : List Byte) (poison : Bool)
  /-- R259: An uncorrectable map-memory entry makes the pages it covers act as unmapped and sets TABLE_ERR. -/
  | mapMemoryError (at_ : MapEntry)
  /-- R289: FTL_FORMAT.GO in IDLE fixes both flash regions and starts erasing every good block, unless the request is refused. -/
  | ftlFormat (m : Master) (v : BitVec 64)
  /-- R289: A format completes, leaving every unit reading zero and the tier READY. -/
  | ftlFormatDone
  /-- R294: The FTL issues a multi-plane array read of a plan unit ahead of its slot, suspending any background work on the LUN. -/
  | flashArrayRead (unit : Nat)
  /-- R295: A completed read is LDPC-decoded codeword by codeword, and uncorrectable codewords are delivered marked and queued for relocation. -/
  | codewordDecode (unit : Nat) (cw : Fin 16) (outcome : Nat)
  /-- R301: A failed program or erase retires the block and rewrites the buffered data to another unit of the lane. -/
  | flashProgramFail (block : Nat)
  /-- R298: A committed step's flash commit record becomes durable and DURABLE_STEP is updated. -/
  | commitRecordDurable
  /-- R299: Background work moves the valid units of a queued block to free units of the same lane, then retires or frees the block. -/
  | blockRelocation (block : Nat)
  /-- R299: Background work erases a block that holds no valid or shadow unit. -/
  | blockErase (block : Nat)
  /-- R299: When the erase-count spread in a lane exceeds its limit, the least-worn block's valid units are moved. -/
  | wearLevelling (block : Nat)
  /-- R302: A failing LUN is retired, its readable units are relocated, and the channel state is updated. -/
  | lunRetire (ch : Fin 32) (lun : Fin 32) (answers : Bool)
  /-- R305: After READY the FTL rebuilds its map as of the last durable commit, freeing uncommitted shadows. -/
  | ftlRecovery
  /-- R345: A die add-write is checked and its FP32 or BF16 operands are applied in sequence order to accumulator elements, or it is held or discarded. -/
  | addw (p : Fin 4) (w : Transfer) (addr : BitVec 64) (fmt : Nat) (data : List Byte) (marks : List Bool)
  /-- R310: At CLEAR_AT the sequence count of every region of the accumulator is reset to zero. -/
  | accumulatorClear
  /-- R326: Writing STEP_FLAG.HOST_RAISE before the end of reserve raises FLAG_OUT for the step. -/
  | hostRaise (m : Master) (v : BitVec 64)
  /-- R334: Writing STEP_LR_IN sets the learning rate and fixes the step at which it first applies. -/
  | lrWrite (m : Master) (v : BitVec 64)
  /-- R333: A write to STEP_SCALE_SET sets PENDING until the values are loaded at the next launch. -/
  | scaleSetWrite (m : Master) (v : BitVec 64)
  /-- R350: Credits returned in a flit header are added to the sender's credits for each class. -/
  | creditReturn (p : Fin 4) (hdr : Nat) (data : Nat) (addw : Nat)
  /-- R343: A die read is served in the die's slots and answered with an RDR of the same TAG. -/
  | rd (p : Fin 4) (tag : Nat) (addr : BitVec 64) (len : Nat)
  /-- R344: A die write is applied as one unit once all its granules have arrived, or discarded if it breaks ownership. -/
  | wrFromDie (p : Fin 4) (addr : BitVec 64) (data : List Byte) (marks : List Bool)
  /-- R346: A PACE message adds COUNT pace requests to a line, to be counted, held or discarded by its binding. -/
  | pace (p : Fin 4) (line : Nat) (count : Nat)
  /-- R347: A die SIG registers one arrival of the port at a barrier ID. -/
  | sigFromDie (p : Fin 4) (id : Nat)
  /-- R348: A die FENCE is answered with a FACK once earlier writes and add-writes of the port are applied, discarded or held. -/
  | fenceFromDie (p : Fin 4) (tag : Nat)
  /-- R348: A die FACK confirms a SEAL's fence, or makes the stream FAR_FAULT if its status is not OK. -/
  | fackFromDie (p : Fin 4) (tag : Nat) (status : Nat)
  /-- R356: When the adapter reports the port link up, KN40 sends its HELLO. -/
  | ucieLinkUp (p : Fin 4) (rate : Nat) (modules : Nat)
  /-- R356: A received HELLO is checked for role, edition and grants, and brings the port UP or sets HELLO_FAIL. -/
  | hello (p : Fin 4) (role : Nat) (edition : Nat) (crHdr : Nat) (crData : Nat) (crAddw : Nat) (pace : Nat) (dieId : BitVec 64)
  /-- R357: A RESET link-control flit from the die resets the port, discarding partial messages and orphaning bound streams. -/
  | linkControlReset (p : Fin 4)
  /-- R357: A UCIe link going down, or failing to retrain, outside a module failover resets the port. -/
  | ucieLinkDown (p : Fin 4)
  /-- R357: Writing 1 to CDP_CTRL.RESET sends RESET to the die and resets the port. -/
  | cdpReset (m : Master) (p : Fin 4) (v : BitVec 64)
  /-- R361: Setting CDP_CTRL.ENABLE starts training; clearing it resets the port. -/
  | cdpEnable (m : Master) (p : Fin 4) (v : BitVec 64)
  /-- R358: 2,048 ticks after a port reset, or when the link is up if later, KN40 sends its HELLO. -/
  | portHelloTimer (p : Fin 4)
  /-- R337: A module failing beyond lane repair is replaced by the spare; the new map is sent on the sideband and the port retrains. -/
  | moduleFail (p : Fin 4) (k : Fin 9)
  /-- R337: Retraining with the new module map completes and the port returns to UP with its state kept. -/
  | moduleRetrainDone (p : Fin 4)
  /-- R367: A write to HQ_SQ_TAIL makes KN40 fetch the submission entries up to the tail. -/
  | sqDoorbell (m : Master) (q : Fin 64) (v : BitVec 64)
  /-- R371: Advancing HQ_CQ_HEAD frees completion entries and releases a CQ_FULL queue. -/
  | cqHeadWrite (m : Master) (q : Fin 64) (v : BitVec 64)
  /-- R367: Setting HQ_Q_CTRL.ENABLE resets the queue's indices and starts servicing it. -/
  | queueEnable (m : Master) (q : Fin 64) (v : BitVec 64)
  /-- R383: Clearing ENABLE abandons the queue's fetched commands. -/
  | queueDisable (m : Master) (q : Fin 64) (v : BitVec 64)
  /-- R368: A NOP command completes at once. -/
  | cmdNop (q : Fin 64) (entry : List Byte)
  /-- R369: OPEN is checked in order and, if accepted, binds a HOST context to a host stream and starts it or waits for its mover group to wake. -/
  | cmdOpen (q : Fin 64) (entry : List Byte)
  /-- R369: 2,000 ticks after an OPEN on a gated mover group, the stream enters RUN and its completion is written. -/
  | hostStreamStart (n : Fin 16384)
  /-- R224: ABORT stops a running host stream after its in-flight bursts, writes its status word with the residue and raises its vector. -/
  | cmdAbort (q : Fin 64) (entry : List Byte)
  /-- R370: WRITE writes the inline bytes to a HOST-owned destination. -/
  | cmdWrite (q : Fin 64) (entry : List Byte)
  /-- R368: FENCE completes once every earlier command of the queue has its completion written. -/
  | cmdFence (q : Fin 64) (entry : List Byte)
  /-- R368: A reserved opcode completes at once with BAD_ARG. -/
  | cmdReserved (q : Fin 64) (entry : List Byte)
  /-- R366: A BAR2 read or write is translated through HQ_WINDOW and applied as a HOST request. -/
  | bar2Request (req : LinkReq) (off : Nat) (len : Nat) (data : List Byte) (poison : Bool)
  /-- R366: An AtomicOp on BAR2 or BAR4 is applied as one atomic read-modify-write at the word's home. -/
  | barAtomic (bar : Nat) (off : BitVec 64) (op : LinkAtomic) (size : Nat) (operand : BitVec 64) (compare : BitVec 64)
  /-- R375: A CXL.mem request through the HDM decoder reaches its OA as a host request. -/
  | cxlMemRequest (write : Bool) (addr : BitVec 64) (data : List Byte) (poison : Bool)
  /-- R375: Every H2D snoop on CXL.cache is answered with RspIHitI. -/
  | cxlSnoop (addr : BitVec 64)
  /-- R378: A read completion from the host or a peer arrives; poisoned, failed or timed-out reads deliver marked bytes. -/
  | hostReadCompletion (n : Fin 16384) (seq : Nat) (kind : Nat) (data : List Byte)
  /-- R379: HQ_FAR_FAULT.GO reports a failed posted write of a context, making it FAR_FAULT and possibly raising FLAG_OUT. -/
  | farFaultReport (m : Master) (v : BitVec 64)
  /-- R380: A Function Level Reset disables the queues, abandons commands and orphans streams bound to the host link. -/
  | flr
  /-- R381: PERST_N asserted, or the host link going down, acts as an FLR and also resets the HDM decoder, the line directory and the bias. -/
  | perstNAssert (other : Bool)
  /-- R381: The host link trains after PERST_N release, and configuration requests stop receiving RRS once READY. -/
  | hostLinkUp (rate : Nat) (width : Nat) (mps : Nat)
  /-- R380: Setting Bus Master Enable releases the writes to host memory and the status words held while it was clear. -/
  | bmeSet
  /-- R374: Enabling or unmasking a vector sends its pending message. -/
  | msixUnmask (v : Fin 2048)
  /-- R386: A write to SYNC_CONFIG in IDLE with no chart sets the device count, member, LAT and FLAG_RTT, and fixes the coherence mode. -/
  | syncConfigWrite (m : Master) (v : BitVec 64)
  /-- R388: Writing SYNC_CTRL.ARM arms the device for the next RELEASE. -/
  | syncArm (m : Master) (v : BitVec 64)
  /-- R388: On an armed leader, SEND_RELEASE drives an 8-sample RELEASE run on SYNC_OUT. -/
  | sendRelease (m : Master) (v : BitVec 64)
  /-- R388: A RELEASE run is sampled on SYNC_IN; an armed device schedules its load, an unarmed one flags UNEXPECTED. -/
  | releaseSampled
  /-- R388: 64 cycles after the RELEASE, the row counter loads SYNC_LOAD, clock dividers are released and the state becomes RELEASED. -/
  | releaseLoad
  /-- R387: A SYNC_IN run of neither 1 nor 8 samples is ignored and MALFORMED is set. -/
  | syncRunMalformed (len : Nat)
  /-- R389: The leader drives an EPOCH at every row count that is a multiple of 4,096. -/
  | epochEmit
  /-- R389: Each member checks a sampled EPOCH, moving to ALIGNED or raising an EPOCH event. -/
  | epochSampled (offset16 : Int)
  /-- R410: A FREE member whose reference has been clean returns to REFCLK at bind-off + 2,048 ticks. -/
  | freeReturn
  /-- R390: When no EPOCH has been sampled for 8,192 ticks, SYNC_LOST is set and logged. -/
  | syncLost
  /-- R391: A LEADER write takes effect within 100 ticks in IDLE or HOLD, or at the next bind-off otherwise. -/
  | leaderWrite (m : Master) (v : BitVec 64)
  /-- R392: Writing SYNC_LAUNCH.COUNT is checked against the launch conditions and, if accepted, arms the device and clears its barrier table. -/
  | launchWrite (m : Master) (v : BitVec 64)
  /-- R393: CANCEL while ARMED ends the launch, returns the phase and gates woken units. -/
  | launchCancel (m : Master) (v : BitVec 64)
  /-- R405: Four lost REFCLK_AON edges raise a LOSS event. -/
  | clockLoss
  /-- R405: Two REFCLK_AON edges less than 7.5 ns apart raise a GLITCH event and holdover. -/
  | clockGlitch
  /-- R405: A rate error beyond 200 ppm over a 65,536-period window raises a RATE event and holdover. -/
  | clockRate
  /-- R131: GAUGE_CTRL.CLEAR clears GAUGE_CUM at the bind-off, or within 100 ticks outside steps. -/
  | gaugeClear (m : Master) (v : BitVec 64)
  /-- R254: TENSION_CTRL.CLEAR clears TENSION_CUM at the bind-off, or within 100 ticks outside steps. -/
  | tensionClear (m : Master) (v : BitVec 64)
  /-- R404: IDLE_CTRL.CLEAR clears IDLE_CUM, timed as for tension. -/
  | idleClear (m : Master) (v : BitVec 64)
  /-- R417: A unit fault detected in plan time starts a failover: the unit is set failed and a fixed pause is scheduled. -/
  | unitFault (u : BitVec 16)
  /-- R422: A corrected error is counted against its unit, and a unit reaching its threshold becomes retiring. -/
  | correctableError (u : BitVec 16)
  /-- R423: The copy of a retiring HBM channel into the stack's spare completes, so the switch applies at the next bind-off. -/
  | channelCopyDone
  /-- R424: A channel that fails training, refresh or response is lost; its reads are marked and its lost bitmap is set. -/
  | channelLoss (ch : Fin 256)
  /-- R426: A control core failing its own checks leaves its partner to continue alone until the spare joins. -/
  | controlCoreFault (k : Fin 5)
  /-- R426: An unexplained lockstep mismatch restarts the pair's task from its last checkpoint. -/
  | lockstepMismatch (pair : Fin 2)
  /-- R427: FAULT_MEND.GO starts the self-test of a failed unit, unless the request is refused. -/
  | mend (m : Master) (v : BitVec 64)
  /-- R427: A passing self-test makes the mend pending, or applies it in IDLE or HOLD; a failing one records CHECK_FAIL. -/
  | mendSelfTestDone (u : BitVec 16) (pass : Bool)
  /-- R437: When the last supply becomes good with RST_N high, T0 occurs and the always-on domain leaves reset. -/
  | supplyGood (rail : Fin 9)
  /-- R437: Losing any supply puts KN40 in OFF with the effects of supply loss. -/
  | supplyLost (rail : Fin 9)
  /-- R438: RST_N low for 1 µs or more puts KN40 in OFF. -/
  | rstNLow (ns : Nat)
  /-- R437: RST_N rising with every supply good is T0. -/
  | rstNRise
  /-- R455: The image path finishes reading and authenticating a boot slot, and host-link training begins. -/
  | bootImageDone (slotA : List Byte) (slotB : List Byte)
  /-- R450: HBM training and ECC initialisation complete on the training path. -/
  | bootTrainingDone (flash : List FlashPart)
  /-- R441: PWR_CTRL.TO_AON in IDLE with no chart removes power from all but the always-on domain. -/
  | toAon (m : Master) (v : BitVec 64)
  /-- R440: PWR_MGMT.WAKE in AON brings the device back to READY. -/
  | wake (m : Master) (v : BitVec 64)
  /-- R440: PWR_MGMT.RETRY_BOOT after a failed boot boots again from the NOR. -/
  | retryBoot (m : Master) (v : BitVec 64)
  /-- R456: Burns firmware rollback bits up to the running record's ROLLBACK. -/
  | advanceFw (m : Master) (v : BitVec 64)
  /-- R456: Burns device rollback bits up to the running record's ROLLBACK. -/
  | advanceDev (m : Master) (v : BitVec 64)
  /-- R456: Burns the revocation bits of the named firmware key slots, except the running one. -/
  | revokeFw (m : Master) (v : BitVec 64)
  /-- R456: Burns the revocation bits of the named device key slots, except the running one. -/
  | revokeDev (m : Master) (v : BitVec 64)
  /-- R456: A fuse burn completes and BUSY clears. -/
  | fuseBurnDone
  /-- R461: Every 1,000 ticks the 64 sensors are sampled and compared with the trip, emergency and critical thresholds. -/
  | thermalSample (temps : List Int)
  /-- R462: PWR_MGMT.THERM_STOP acts as a thermal trip without setting HOT. -/
  | thermStop
  /-- R447: The idle FCLK PLL locks to the FCLK that the next start needs. -/
  | pllLock
  /-- R447: At S − 2,048 ticks FCLK switches to the locked PLL when the rate differs, as a release. -/
  | fclkSwitch
  /-- R449: Measured VDD reaching or falling below REQ_MV sets or clears PWR_AVS.MET. -/
  | vddMet (mv : Nat)
  /-- R473: A read of PWR_THERM.PEAK_C returns the hottest reading and then clears it. -/
  | peakRead
  /-- R466: An I3C private transfer selects, reads or writes a BAR0 register, with writes limited to fields owned by ANY. -/
  | mgmtAccess (write : Bool) (off : BitVec 24) (data : BitVec 64)
  /-- R37: At forward-end (C + F + slip) the phase moves from FORWARD to BACKWARD. -/
  | forwardEnd
  /-- R37: At backward-end (C + F + W + slip) the phase moves from BACKWARD to TAIL. -/
  | backwardEnd
  /-- R422: At the end of each 2^24-tick window the per-unit correctable-error counts (FAULT_UNIT.CE) restart. -/
  | correctableWindowEnd
  /-- R406: At the end of each 2^24-tick window with REFCLK_AON good, KN40 updates the oscillator calibration in SYNC_CLOCK.CAL. -/
  | oscillatorCalibration (err : Int)
  /-- R404: Outside plan time, at the end of each 32 ticks, counted idle ticks are added to IDLE_CUM. -/
  | idleCumPeriod
  /-- R426: The spare control core joins the pair of a failed core within 100,000 ticks outside a step, and becomes of record when the join completes. -/
  | controlCoreJoin
  /-- R280: The host answers a back-invalidation of a host-held line, letting the waiting host-opened stream access the line and freeing the directory entry. -/
  | backInvalidateAnswer (line : BitVec 64)
  /-- R380: A host configuration write that clears Bus Master Enable or MSI-X Enable, or changes Relaxed Ordering, the completion timeout or Mem_Enable, changes how KN40 issues and accepts traffic. -/
  | configSpaceWrite (kind : Nat) (v : Nat)
  /-- R454: The integrator burns a device key hash into the fuses over JTAG, setting BOOT_FUSES.DEV_KEYS_SET. -/
  | deviceKeyFuseBurn (slot : Nat) (hash : List Byte)
  deriving DecidableEq, Repr

end Sys2Proof
end

