-- ==== Sys2Proof/Decode.lean ====
section
/-! DEFINITION. Decode.lean: the word of a command. No row of spec/opcode_table.json gives its command any bits, so no word spells one. -/

namespace Sys2Proof

/-- The command that a word spells by the table's bits: none, for every word. -/
def decodeTableWord (_nbits _w : Nat) : Option Instr := none

end Sys2Proof
end

