-- ==== Sys2Proof/Machine/Crc.lean ====
section
/-! DEFINITION. Machine/Crc.lean: CRC-32C (R142). -/

namespace Sys2Proof.Machine

/-- One bit of the reflected division by 0x82F6_3B78. -/
def crcBit (c : Nat) : Nat := if c % 2 = 1 then (c / 2) ^^^ 0x82F63B78 else c / 2

/-- One byte. -/
def crcByte (c : Nat) (b : Byte) : Nat :=
  crcBit (crcBit (crcBit (crcBit (crcBit (crcBit (crcBit (crcBit (c ^^^ b.toNat))))))))

/-- The running register over a byte string. -/
def crcRun (c : Nat) (l : List Byte) : Nat := l.foldl crcByte c

/-- CRC-32C continued from a finished value, so that a string may be taken in parts. -/
def crcMore (v : Nat) (l : List Byte) : Nat := crcRun (v ^^^ 0xFFFFFFFF) l ^^^ 0xFFFFFFFF

/-- CRC-32C of a byte string (R142); 0 for no bytes (R218). -/
def crc32c (l : List Byte) : Nat := crcMore 0 l

end Sys2Proof.Machine
end

