-- ==== Sys2Proof/Config.lean ====
section
/-! DEFINITION. Config.lean: what one device fixes and the spec does not state, as constants without a body. Nothing can be
proved about the value of any of them. -/

namespace Sys2Proof

/-- A fresh free value: applied to the counter of the state that the command reads and advances (log entry 1). -/
opaque Config.freeNat : Nat → Nat

/-- A byte of HBM that an uninstall has not preserved (R73): the uninstall's free value and the device address (log entry 1). -/
opaque Config.freeByte : Nat → Nat → Byte

/-- A byte that a refused, failed or missing read delivers marked (R264, R378): the counter of the state and the byte's place (log entry 1). -/
opaque Config.badByte : Nat → Nat → Byte

/-- A byte of a lost channel (R424): the row count of the read and the device address (log entry 1). -/
opaque Config.lostByte : Nat → Nat → Byte

/-- SHA-384 of a byte string, 48 bytes (R453, R454): an outside standard, left uninterpreted (log entry 3). -/
opaque Config.sha384 : List Byte → List Byte

/-- Whether an ECDSA P-384 signature (key, digest, signature) verifies (R453): an outside standard, left uninterpreted (log entry 3). -/
opaque Config.ecdsaP384 : List Byte → List Byte → List Byte → Bool

/-- Byte k of the LDPC parity that KN40 computes over a codeword's data and metadata (R286): the code is not given (log entry 207). -/
opaque Config.ldpcParity : List Byte → Nat → Byte

/-- The doubleword at a byte offset of configuration space that the spec does not lay out (R362; log entry 240). -/
opaque Config.cfgWord : Nat → BitVec 32

/-- The supply voltage in mV that this die needs at an FCLK rate in MHz, held in fuses (R449). -/
opaque Config.needMv : Nat → Nat

/-- Whether a trim identity and value lie within their fused limits (R459). -/
opaque Config.trimOk : Nat → Nat → Bool

/-- The SHA-384 hash of a firmware key slot's public key, fused before shipping (R454). -/
opaque Config.fwKeyHash : Nat → List Byte

/-- The factory map of disabled units, fused before shipping (R458). -/
opaque Config.factoryMap : List Byte

end Sys2Proof
end

