-- ==== Sys2Proof/Machine/Regs.lean ====
section
/-! DEFINITION. Machine/Regs.lean: the registers of the BAR0 control space (R468 to R473), one constant per named field of
every field map of spec/, written from those field maps and from the Register list of R469. A field is one CELL of the
register file: its register's byte offset in BAR0, its lowest bit and its width. An element of an array is named by its index,
taken modulo the array's length. -/

namespace Sys2Proof.Machine

/-- One named field of one BAR0 register: byte offset of the register, lowest bit, width (R9, R469). -/
structure Fld where
  off : Nat
  lo  : Nat
  w   : Nat
  deriving DecidableEq, Repr

/-- The cell of the register file that holds a field: no two fields share an offset and a lowest bit. -/
def Fld.key (f : Fld) : Nat := f.off * 64 + f.lo

/-- Access codes of R9. -/
inductive Acc where
  | rw | ro | wo | w1c | rc
  deriving DecidableEq, Repr

/-- The Owner column of a field map (R10). -/
inductive Own where
  | host | fw | chart | cdp | any
  deriving DecidableEq, Repr

/-- One row of a field map as a BAR0 access sees it. -/
structure FldRow where
  lo  : Nat
  w   : Nat
  acc : Acc
  own : Own
  deriving DecidableEq, Repr

/-- One row of the Register list (R469): first offset, how many elements, their distance, the width in bits, its named fields. -/
structure RegRow where
  base   : Nat
  count  : Nat
  stride : Nat
  width  : Nat
  fields : List FldRow
  deriving DecidableEq, Repr

namespace R
/-! GLB_ID: R5 of 00_scope.md. -/
def GLB_ID_DEVICE : Fld := ⟨0x0, 16, 16⟩
def GLB_ID_STEPPING : Fld := ⟨0x0, 12, 4⟩
def GLB_ID_GRADE : Fld := ⟨0x0, 8, 4⟩
def GLB_ID_LCLUSTERS : Fld := ⟨0x0, 0, 8⟩
/-! GLB_ROW: R470 of 19_register_index.md. -/
def GLB_ROW_COUNT : Fld := ⟨0x8, 0, 64⟩
/-! GLB_STATUS: R470 of 19_register_index.md. -/
def GLB_STATUS_LAST_STATUS : Fld := ⟨0x10, 40, 8⟩
def GLB_STATUS_POWER : Fld := ⟨0x10, 28, 4⟩
def GLB_STATUS_PHASE : Fld := ⟨0x10, 24, 4⟩
def GLB_STATUS_CLOCK : Fld := ⟨0x10, 20, 4⟩
def GLB_STATUS_NO_SPARE : Fld := ⟨0x10, 7, 1⟩
def GLB_STATUS_HOT : Fld := ⟨0x10, 6, 1⟩
def GLB_STATUS_TAINTED : Fld := ⟨0x10, 5, 1⟩
def GLB_STATUS_LOG_PENDING : Fld := ⟨0x10, 4, 1⟩
def GLB_STATUS_FLAG_RAISED : Fld := ⟨0x10, 3, 1⟩
def GLB_STATUS_FLAG_IN : Fld := ⟨0x10, 2, 1⟩
def GLB_STATUS_BOOT_FAILED : Fld := ⟨0x10, 1, 1⟩
def GLB_STATUS_CHART : Fld := ⟨0x10, 0, 1⟩
/-! BOOT_STATUS: R467 of 18_power_clocks_boot.md. -/
def BOOT_STATUS_REASON_A : Fld := ⟨0x10000, 56, 8⟩
def BOOT_STATUS_REASON_B : Fld := ⟨0x10000, 48, 8⟩
def BOOT_STATUS_SLOT : Fld := ⟨0x10000, 40, 8⟩
def BOOT_STATUS_LAST_STATUS : Fld := ⟨0x10000, 24, 8⟩
def BOOT_STATUS_STATE : Fld := ⟨0x10000, 0, 4⟩
/-! BOOT_IMAGE: R467 of 18_power_clocks_boot.md. -/
def BOOT_IMAGE_FW_VERSION : Fld := ⟨0x10008, 32, 32⟩
def BOOT_IMAGE_FW_ROLLBACK : Fld := ⟨0x10008, 24, 8⟩
def BOOT_IMAGE_DEV_ROLLBACK : Fld := ⟨0x10008, 19, 5⟩
def BOOT_IMAGE_FW_KEY_SLOT : Fld := ⟨0x10008, 17, 2⟩
def BOOT_IMAGE_DEV_KEY_SLOT : Fld := ⟨0x10008, 16, 1⟩
def BOOT_IMAGE_DEV_VERSION : Fld := ⟨0x10008, 0, 16⟩
/-! BOOT_FUSES: R467 of 18_power_clocks_boot.md. -/
def BOOT_FUSES_FW_COUNTER : Fld := ⟨0x10010, 56, 8⟩
def BOOT_FUSES_DEV_COUNTER : Fld := ⟨0x10010, 48, 8⟩
def BOOT_FUSES_FW_REVOKED : Fld := ⟨0x10010, 44, 4⟩
def BOOT_FUSES_DEV_REVOKED : Fld := ⟨0x10010, 42, 2⟩
def BOOT_FUSES_DEV_KEYS_SET : Fld := ⟨0x10010, 40, 2⟩
/-! BOOT_ROLLBACK: R467 of 18_power_clocks_boot.md. -/
def BOOT_ROLLBACK_STATUS : Fld := ⟨0x10018, 16, 8⟩
def BOOT_ROLLBACK_BUSY : Fld := ⟨0x10018, 10, 1⟩
def BOOT_ROLLBACK_REVOKE_DEV : Fld := ⟨0x10018, 8, 2⟩
def BOOT_ROLLBACK_REVOKE_FW : Fld := ⟨0x10018, 4, 4⟩
def BOOT_ROLLBACK_ADVANCE_DEV : Fld := ⟨0x10018, 1, 1⟩
def BOOT_ROLLBACK_ADVANCE_FW : Fld := ⟨0x10018, 0, 1⟩
/-! BOOT_TIME: R467 of 18_power_clocks_boot.md. -/
def BOOT_TIME_READY_TICKS : Fld := ⟨0x10020, 32, 32⟩
def BOOT_TIME_AUTH_TICKS : Fld := ⟨0x10020, 0, 32⟩
/-! PWR_STATE: R467 of 18_power_clocks_boot.md. -/
def PWR_STATE_ENTERED_AT : Fld := ⟨0x20000, 32, 32⟩
def PWR_STATE_LAST_CAUSE : Fld := ⟨0x20000, 24, 8⟩
def PWR_STATE_STATE : Fld := ⟨0x20000, 0, 4⟩
/-! PWR_CTRL: R467 of 18_power_clocks_boot.md. -/
def PWR_CTRL_STATUS : Fld := ⟨0x20008, 8, 8⟩
def PWR_CTRL_TO_AON : Fld := ⟨0x20008, 0, 1⟩
/-! PWR_SUPPLY: R467 of 18_power_clocks_boot.md. -/
def PWR_SUPPLY_VDD_MV : Fld := ⟨0x20010, 48, 16⟩
def PWR_SUPPLY_GOOD : Fld := ⟨0x20010, 0, 9⟩
/-! PWR_AVS: R467 of 18_power_clocks_boot.md. -/
def PWR_AVS_REQ_MV : Fld := ⟨0x20018, 48, 16⟩
def PWR_AVS_NEED_MV : Fld := ⟨0x20018, 32, 16⟩
def PWR_AVS_MET : Fld := ⟨0x20018, 0, 1⟩
/-! PWR_CLOCK: R467 of 18_power_clocks_boot.md. -/
def PWR_CLOCK_FCLK_MHZ : Fld := ⟨0x20020, 48, 16⟩
def PWR_CLOCK_NEXT_MHZ : Fld := ⟨0x20020, 32, 16⟩
def PWR_CLOCK_SWITCH_AT : Fld := ⟨0x20020, 0, 32⟩
/-! PWR_THERM: R467 of 18_power_clocks_boot.md. -/
def PWR_THERM_MAX_C : Fld := ⟨0x20028, 56, 8⟩
def PWR_THERM_PEAK_C : Fld := ⟨0x20028, 48, 8⟩
def PWR_THERM_SENSOR : Fld := ⟨0x20028, 40, 8⟩
def PWR_THERM_LAST_EVENT : Fld := ⟨0x20028, 8, 8⟩
def PWR_THERM_CRIT_SEEN : Fld := ⟨0x20028, 2, 1⟩
def PWR_THERM_EMERG : Fld := ⟨0x20028, 1, 1⟩
def PWR_THERM_HOT : Fld := ⟨0x20028, 0, 1⟩
/-! PWR_THERM_CFG: R467 of 18_power_clocks_boot.md. -/
def PWR_THERM_CFG_CRIT_C : Fld := ⟨0x20030, 16, 8⟩
def PWR_THERM_CFG_EMERG_C : Fld := ⟨0x20030, 8, 8⟩
def PWR_THERM_CFG_TRIP_C : Fld := ⟨0x20030, 0, 8⟩
/-! PWR_MGMT: R467 of 18_power_clocks_boot.md. -/
def PWR_MGMT_STATUS : Fld := ⟨0x20038, 8, 8⟩
def PWR_MGMT_THERM_STOP : Fld := ⟨0x20038, 2, 1⟩
def PWR_MGMT_WAKE : Fld := ⟨0x20038, 1, 1⟩
def PWR_MGMT_RETRY_BOOT : Fld := ⟨0x20038, 0, 1⟩
/-! PWR_UNITS: R467 of 18_power_clocks_boot.md. -/
def PWR_UNITS_CLUSTERS_ON : Fld := ⟨0x20040, 48, 16⟩
def PWR_UNITS_ENGINES_ON : Fld := ⟨0x20040, 32, 16⟩
def PWR_UNITS_GROUPS_ON : Fld := ⟨0x20040, 16, 16⟩
def PWR_UNITS_WAKING : Fld := ⟨0x20040, 0, 16⟩
/-! CHART_ACTIVE: R84 of 03_charts.md. -/
def CHART_ACTIVE_EPOCH : Fld := ⟨0x40000, 32, 32⟩
def CHART_ACTIVE_MEMBER : Fld := ⟨0x40000, 24, 8⟩
def CHART_ACTIVE_DEVICES : Fld := ⟨0x40000, 16, 8⟩
def CHART_ACTIVE_NVAR_M1 : Fld := ⟨0x40000, 12, 4⟩
def CHART_ACTIVE_NSWATCH : Fld := ⟨0x40000, 7, 5⟩
def CHART_ACTIVE_VALID : Fld := ⟨0x40000, 0, 1⟩
/-! CHART_ACTIVE_ID: R84 of 03_charts.md. -/
def CHART_ACTIVE_ID_CONFIG_ID : Fld := ⟨0x40008, 0, 64⟩
/-! CHART_STAGED: R84 of 03_charts.md. -/
def CHART_STAGED_EPOCH : Fld := ⟨0x40010, 32, 32⟩
def CHART_STAGED_MEMBER : Fld := ⟨0x40010, 24, 8⟩
def CHART_STAGED_DEVICES : Fld := ⟨0x40010, 16, 8⟩
def CHART_STAGED_NVAR_M1 : Fld := ⟨0x40010, 12, 4⟩
def CHART_STAGED_NSWATCH : Fld := ⟨0x40010, 7, 5⟩
def CHART_STAGED_VALID : Fld := ⟨0x40010, 0, 1⟩
/-! CHART_STAGED_ID: R84 of 03_charts.md. -/
def CHART_STAGED_ID_CONFIG_ID : Fld := ⟨0x40018, 0, 64⟩
/-! CHART_LOAD_SRC: R84 of 03_charts.md. -/
def CHART_LOAD_SRC_ADDR : Fld := ⟨0x40020, 0, 64⟩
/-! CHART_LOAD_CTRL: R84 of 03_charts.md. -/
def CHART_LOAD_CTRL_BYTES : Fld := ⟨0x40028, 32, 32⟩
def CHART_LOAD_CTRL_UNINSTALL : Fld := ⟨0x40028, 2, 1⟩
def CHART_LOAD_CTRL_DISCARD : Fld := ⟨0x40028, 1, 1⟩
def CHART_LOAD_CTRL_LOAD : Fld := ⟨0x40028, 0, 1⟩
/-! CHART_LOAD_STATUS: R84 of 03_charts.md. -/
def CHART_LOAD_STATUS_OFFSET : Fld := ⟨0x40030, 36, 28⟩
def CHART_LOAD_STATUS_SECTION : Fld := ⟨0x40030, 32, 4⟩
def CHART_LOAD_STATUS_RULE : Fld := ⟨0x40030, 16, 16⟩
def CHART_LOAD_STATUS_STATUS : Fld := ⟨0x40030, 8, 8⟩
def CHART_LOAD_STATUS_STATE : Fld := ⟨0x40030, 0, 3⟩
/-! CHART_COMMIT: R84 of 03_charts.md. -/
def CHART_COMMIT_APPLY_AT_STEP : Fld := ⟨0x40038, 32, 32⟩
def CHART_COMMIT_STATUS : Fld := ⟨0x40038, 16, 8⟩
def CHART_COMMIT_OUTCOME : Fld := ⟨0x40038, 10, 2⟩
def CHART_COMMIT_WITHDRAW : Fld := ⟨0x40038, 1, 1⟩
def CHART_COMMIT_REQ : Fld := ⟨0x40038, 0, 1⟩
/-! CHART_VARIANT: R84 of 03_charts.md. -/
def CHART_VARIANT_APPLY_AT_STEP : Fld := ⟨0x40040, 32, 32⟩
def CHART_VARIANT_STATUS : Fld := ⟨0x40040, 16, 8⟩
def CHART_VARIANT_OUTCOME : Fld := ⟨0x40040, 10, 2⟩
def CHART_VARIANT_INDEX : Fld := ⟨0x40040, 4, 4⟩
def CHART_VARIANT_WITHDRAW : Fld := ⟨0x40040, 1, 1⟩
def CHART_VARIANT_REQ : Fld := ⟨0x40040, 0, 1⟩
/-! CHART_DRAIN: R84 of 03_charts.md. -/
def CHART_DRAIN_FIRST_OPEN : Fld := ⟨0x40048, 32, 14⟩
def CHART_DRAIN_OPEN_OLD : Fld := ⟨0x40048, 0, 32⟩
/-! CHART_SEED: R84 of 03_charts.md. -/
def CHART_SEED_SEED : Fld := ⟨0x40050, 0, 64⟩
/-! STEP_STATUS: R37 of 01_step_lifecycle.md. -/
def STEP_STATUS_HOLD_CAUSE : Fld := ⟨0x80000, 24, 4⟩
def STEP_STATUS_VARIANT : Fld := ⟨0x80000, 20, 4⟩
def STEP_STATUS_NEXT_VARIANT : Fld := ⟨0x80000, 16, 4⟩
def STEP_STATUS_LAST_STATUS : Fld := ⟨0x80000, 8, 8⟩
def STEP_STATUS_PHASE : Fld := ⟨0x80000, 0, 4⟩
/-! STEP_NUMBER: R37 of 01_step_lifecycle.md. -/
def STEP_NUMBER_VALUE : Fld := ⟨0x80008, 0, 64⟩
/-! STEP_CASTON: R37 of 01_step_lifecycle.md. -/
def STEP_CASTON_VALUE : Fld := ⟨0x80010, 0, 64⟩
/-! STEP_VERDICT_AT: R37 of 01_step_lifecycle.md. -/
def STEP_VERDICT_AT_VALUE : Fld := ⟨0x80018, 0, 64⟩
/-! STEP_BINDOFF: R37 of 01_step_lifecycle.md. -/
def STEP_BINDOFF_VALUE : Fld := ⟨0x80020, 0, 64⟩
/-! STEP_NEXT_CASTON: R37 of 01_step_lifecycle.md. -/
def STEP_NEXT_CASTON_VALUE : Fld := ⟨0x80028, 0, 64⟩
/-! STEP_START: R37 of 01_step_lifecycle.md. -/
def STEP_START_VALUE : Fld := ⟨0x80030, 0, 64⟩
/-! STEP_SWATCH: R37 of 01_step_lifecycle.md. -/
def STEP_SWATCH_AT_STEP : Fld := ⟨0x80038, 32, 32⟩
def STEP_SWATCH_STATUS : Fld := ⟨0x80038, 16, 8⟩
def STEP_SWATCH_PENDING : Fld := ⟨0x80038, 8, 1⟩
def STEP_SWATCH_PROGRAM : Fld := ⟨0x80038, 4, 4⟩
def STEP_SWATCH_REQ : Fld := ⟨0x80038, 0, 1⟩
/-! STEP_CTRL: R37 of 01_step_lifecycle.md. -/
def STEP_CTRL_STOP_AT_STEP : Fld := ⟨0x80040, 32, 32⟩
def STEP_CTRL_STOP_STATUS : Fld := ⟨0x80040, 8, 8⟩
def STEP_CTRL_STOP_PENDING : Fld := ⟨0x80040, 1, 1⟩
def STEP_CTRL_STOP : Fld := ⟨0x80040, 0, 1⟩
/-! STEP_FLAG: R335 of 13_update_and_masters.md. -/
def STEP_FLAG_RAISE_AT : Fld := ⟨0x80100, 32, 32⟩
def STEP_FLAG_CAUSE : Fld := ⟨0x80100, 16, 8⟩
def STEP_FLAG_MISMATCH : Fld := ⟨0x80100, 3, 1⟩
def STEP_FLAG_HOST_RAISE : Fld := ⟨0x80100, 2, 1⟩
def STEP_FLAG_SAMPLED : Fld := ⟨0x80100, 1, 1⟩
def STEP_FLAG_RAISED : Fld := ⟨0x80100, 0, 1⟩
/-! STEP_SKIP: R335 of 13_update_and_masters.md. -/
def STEP_SKIP_LAST : Fld := ⟨0x80108, 32, 32⟩
def STEP_SKIP_COUNT : Fld := ⟨0x80108, 0, 32⟩
/-! STEP_SCALE: R335 of 13_update_and_masters.md. -/
def STEP_SCALE_LAST_GROWTH : Fld := ⟨0x80110, 32, 32⟩
def STEP_SCALE_EXP : Fld := ⟨0x80110, 0, 8⟩
/-! STEP_SCALE_SET: R335 of 13_update_and_masters.md. -/
def STEP_SCALE_SET_SINCE : Fld := ⟨0x80118, 32, 32⟩
def STEP_SCALE_SET_PENDING : Fld := ⟨0x80118, 16, 1⟩
def STEP_SCALE_SET_EXP : Fld := ⟨0x80118, 8, 8⟩
/-! STEP_SCALE_CFG: R335 of 13_update_and_masters.md. -/
def STEP_SCALE_CFG_GROWTH : Fld := ⟨0x80120, 32, 32⟩
def STEP_SCALE_CFG_MAX : Fld := ⟨0x80120, 8, 8⟩
def STEP_SCALE_CFG_MIN : Fld := ⟨0x80120, 0, 8⟩
/-! STEP_OPT_COUNT: R335 of 13_update_and_masters.md. -/
def STEP_OPT_COUNT_COUNT : Fld := ⟨0x80128, 0, 64⟩
/-! STEP_OPT_SET: R335 of 13_update_and_masters.md. -/
def STEP_OPT_SET_VALUE : Fld := ⟨0x80130, 0, 64⟩
/-! STEP_LR_IN: R335 of 13_update_and_masters.md. -/
def STEP_LR_IN_STATUS : Fld := ⟨0x80138, 32, 8⟩
def STEP_LR_IN_VALUE : Fld := ⟨0x80138, 0, 32⟩
/-! STEP_LR_NOW: R335 of 13_update_and_masters.md. -/
def STEP_LR_NOW_VALUE : Fld := ⟨0x80140, 32, 32⟩
def STEP_LR_NOW_APPLY_AT_STEP : Fld := ⟨0x80140, 0, 32⟩
/-! STEP_UPDATE: R335 of 13_update_and_masters.md. -/
def STEP_UPDATE_OVERFLOWS : Fld := ⟨0x80148, 48, 16⟩
def STEP_UPDATE_REBASED : Fld := ⟨0x80148, 32, 16⟩
def STEP_UPDATE_CHUNKS : Fld := ⟨0x80148, 0, 32⟩
/-! STEP_HANDOFF: R335 of 13_update_and_masters.md. -/
def STEP_HANDOFF_EXPECTED : Fld := ⟨0x80150, 32, 8⟩
def STEP_HANDOFF_SEALED : Fld := ⟨0x80150, 0, 8⟩
/-! STEP_HISTORY: R335 of 13_update_and_masters.md. -/
def STEP_HISTORY_STEP (i : Nat) : Fld := ⟨0x80200 + 0x8 * (i % 64), 32, 32⟩
def STEP_HISTORY_EXP (i : Nat) : Fld := ⟨0x80200 + 0x8 * (i % 64), 0, 8⟩
/-! STEP_STASH_SEL: R58 of 02_stash_decisions.md. -/
def STEP_STASH_SEL_AT_STEP : Fld := ⟨0x80800, 32, 32⟩
def STEP_STASH_SEL_SOURCE : Fld := ⟨0x80800, 24, 2⟩
def STEP_STASH_SEL_MARGIN : Fld := ⟨0x80800, 16, 8⟩
def STEP_STASH_SEL_CLAMPED : Fld := ⟨0x80800, 15, 1⟩
def STEP_STASH_SEL_ROUNDS : Fld := ⟨0x80800, 12, 3⟩
def STEP_STASH_SEL_NVAR_M1 : Fld := ⟨0x80800, 8, 4⟩
def STEP_STASH_SEL_AGREED : Fld := ⟨0x80800, 4, 4⟩
def STEP_STASH_SEL_WISH : Fld := ⟨0x80800, 0, 4⟩
/-! STEP_STASH_EVENTS: R58 of 02_stash_decisions.md. -/
def STEP_STASH_EVENTS_OVERFLOWS : Fld := ⟨0x80808, 32, 32⟩
def STEP_STASH_EVENTS_SPILLS : Fld := ⟨0x80808, 0, 32⟩
/-! STEP_SPILL_BYTES: R58 of 02_stash_decisions.md. -/
def STEP_SPILL_BYTES_VALUE : Fld := ⟨0x80810, 0, 64⟩
/-! STEP_STASH_PEAK_ONDIE: R58 of 02_stash_decisions.md. -/
def STEP_STASH_PEAK_ONDIE_VALUE : Fld := ⟨0x80818, 0, 64⟩
/-! STEP_STASH_PEAK_HBM: R58 of 02_stash_decisions.md. -/
def STEP_STASH_PEAK_HBM_VALUE : Fld := ⟨0x80820, 0, 64⟩
/-! STEP_STASH_PEAK_NEIGHBOUR: R58 of 02_stash_decisions.md. -/
def STEP_STASH_PEAK_NEIGHBOUR_VALUE : Fld := ⟨0x80828, 0, 64⟩
/-! STEP_STASH_PEAK_HOST: R58 of 02_stash_decisions.md. -/
def STEP_STASH_PEAK_HOST_VALUE : Fld := ⟨0x80830, 0, 64⟩
/-! STEP_STASH_SIZE: R58 of 02_stash_decisions.md. -/
def STEP_STASH_SIZE_STATE (i : Nat) : Fld := ⟨0x90000 + 0x8 * (i % 8192), 62, 2⟩
def STEP_STASH_SIZE_MB (i : Nat) : Fld := ⟨0x90000 + 0x8 * (i % 8192), 48, 8⟩
def STEP_STASH_SIZE_SIZE (i : Nat) : Fld := ⟨0x90000 + 0x8 * (i % 8192), 0, 41⟩
/-! STREAM_CTL: R230 of 09_movers_and_nitas.md. -/
def STREAM_CTL_PROGRAM (i : Nat) : Fld := ⟨0x100000 + 0x40 * (i % 16384), 48, 16⟩
def STREAM_CTL_BLOCK_LIST (i : Nat) : Fld := ⟨0x100000 + 0x40 * (i % 16384), 32, 16⟩
def STREAM_CTL_MOVER (i : Nat) : Fld := ⟨0x100000 + 0x40 * (i % 16384), 24, 8⟩
def STREAM_CTL_RUN_AHEAD (i : Nat) : Fld := ⟨0x100000 + 0x40 * (i % 16384), 20, 4⟩
def STREAM_CTL_INFLIGHT (i : Nat) : Fld := ⟨0x100000 + 0x40 * (i % 16384), 17, 3⟩
def STREAM_CTL_CLASS (i : Nat) : Fld := ⟨0x100000 + 0x40 * (i % 16384), 16, 1⟩
def STREAM_CTL_TILE_BURSTS (i : Nat) : Fld := ⟨0x100000 + 0x40 * (i % 16384), 0, 16⟩
/-! STREAM_TIME: R230 of 09_movers_and_nitas.md. -/
def STREAM_TIME_PACE (i : Nat) : Fld := ⟨0x100008 + 0x40 * (i % 16384), 48, 16⟩
def STREAM_TIME_START (i : Nat) : Fld := ⟨0x100008 + 0x40 * (i % 16384), 0, 40⟩
/-! STREAM_BIND: R230 of 09_movers_and_nitas.md. -/
def STREAM_BIND_EPOCH (i : Nat) : Fld := ⟨0x100010 + 0x40 * (i % 16384), 32, 32⟩
def STREAM_BIND_STORE_PAGE (i : Nat) : Fld := ⟨0x100010 + 0x40 * (i % 16384), 0, 31⟩
/-! STREAM_RUN: R230 of 09_movers_and_nitas.md. -/
def STREAM_RUN_STATUS (i : Nat) : Fld := ⟨0x100018 + 0x40 * (i % 16384), 56, 8⟩
def STREAM_RUN_STATE (i : Nat) : Fld := ⟨0x100018 + 0x40 * (i % 16384), 52, 4⟩
def STREAM_RUN_WAIT (i : Nat) : Fld := ⟨0x100018 + 0x40 * (i % 16384), 48, 4⟩
def STREAM_RUN_PC (i : Nat) : Fld := ⟨0x100018 + 0x40 * (i % 16384), 32, 16⟩
def STREAM_RUN_PACE_RECV (i : Nat) : Fld := ⟨0x100018 + 0x40 * (i % 16384), 16, 16⟩
def STREAM_RUN_PACE_USED (i : Nat) : Fld := ⟨0x100018 + 0x40 * (i % 16384), 0, 16⟩
/-! STREAM_LOOP: R230 of 09_movers_and_nitas.md. -/
def STREAM_LOOP_CHECK (i : Nat) : Fld := ⟨0x100020 + 0x40 * (i % 16384), 32, 32⟩
def STREAM_LOOP_LOOP1 (i : Nat) : Fld := ⟨0x100020 + 0x40 * (i % 16384), 16, 16⟩
def STREAM_LOOP_LOOP0 (i : Nat) : Fld := ⟨0x100020 + 0x40 * (i % 16384), 0, 16⟩
/-! STREAM_AD0: R230 of 09_movers_and_nitas.md. -/
def STREAM_AD0_CURSOR (i : Nat) : Fld := ⟨0x100028 + 0x40 * (i % 16384), 48, 16⟩
def STREAM_AD0_AD0 (i : Nat) : Fld := ⟨0x100028 + 0x40 * (i % 16384), 0, 48⟩
/-! STREAM_AD1: R230 of 09_movers_and_nitas.md. -/
def STREAM_AD1_MARKS (i : Nat) : Fld := ⟨0x100030 + 0x40 * (i % 16384), 48, 16⟩
def STREAM_AD1_AD1 (i : Nat) : Fld := ⟨0x100030 + 0x40 * (i % 16384), 0, 48⟩
/-! STREAM_DONE: R230 of 09_movers_and_nitas.md. -/
def STREAM_DONE_BYTES (i : Nat) : Fld := ⟨0x100038 + 0x40 * (i % 16384), 0, 40⟩
/-! HQ_SQ_BASE: R383 of 15_host_coupling.md. -/
def HQ_SQ_BASE_ADDR (i : Nat) : Fld := ⟨0x200000 + 0x40 * (i % 64), 12, 52⟩
/-! HQ_CQ_BASE: R383 of 15_host_coupling.md. -/
def HQ_CQ_BASE_ADDR (i : Nat) : Fld := ⟨0x200008 + 0x40 * (i % 64), 12, 52⟩
/-! HQ_Q_CTRL: R383 of 15_host_coupling.md. -/
def HQ_Q_CTRL_VECTOR (i : Nat) : Fld := ⟨0x200010 + 0x40 * (i % 64), 16, 16⟩
def HQ_Q_CTRL_SQ_LOG2 (i : Nat) : Fld := ⟨0x200010 + 0x40 * (i % 64), 12, 4⟩
def HQ_Q_CTRL_CQ_LOG2 (i : Nat) : Fld := ⟨0x200010 + 0x40 * (i % 64), 8, 4⟩
def HQ_Q_CTRL_ENABLE (i : Nat) : Fld := ⟨0x200010 + 0x40 * (i % 64), 0, 1⟩
/-! HQ_SQ_TAIL: R383 of 15_host_coupling.md. -/
def HQ_SQ_TAIL_TAIL (i : Nat) : Fld := ⟨0x200018 + 0x40 * (i % 64), 0, 16⟩
/-! HQ_CQ_HEAD: R383 of 15_host_coupling.md. -/
def HQ_CQ_HEAD_HEAD (i : Nat) : Fld := ⟨0x200020 + 0x40 * (i % 64), 0, 16⟩
/-! HQ_Q_STATUS: R383 of 15_host_coupling.md. -/
def HQ_Q_STATUS_SQ_HEAD (i : Nat) : Fld := ⟨0x200028 + 0x40 * (i % 64), 48, 16⟩
def HQ_Q_STATUS_CQ_TAIL (i : Nat) : Fld := ⟨0x200028 + 0x40 * (i % 64), 32, 16⟩
def HQ_Q_STATUS_LAST_STATUS (i : Nat) : Fld := ⟨0x200028 + 0x40 * (i % 64), 24, 8⟩
def HQ_Q_STATUS_STATE (i : Nat) : Fld := ⟨0x200028 + 0x40 * (i % 64), 0, 4⟩
/-! HQ_WINDOW: R383 of 15_host_coupling.md. -/
def HQ_WINDOW_BASE : Fld := ⟨0x201000, 21, 31⟩
/-! HQ_HDM: R383 of 15_host_coupling.md. -/
def HQ_HDM_BASE : Fld := ⟨0x201008, 21, 31⟩
/-! HQ_LINK: R383 of 15_host_coupling.md. -/
def HQ_LINK_RATE : Fld := ⟨0x201010, 32, 8⟩
def HQ_LINK_WIDTH : Fld := ⟨0x201010, 24, 8⟩
def HQ_LINK_MPS : Fld := ⟨0x201010, 20, 4⟩
def HQ_LINK_FULL : Fld := ⟨0x201010, 7, 1⟩
def HQ_LINK_CXL_MEM : Fld := ⟨0x201010, 6, 1⟩
def HQ_LINK_HDM_DB : Fld := ⟨0x201010, 5, 1⟩
def HQ_LINK_RO : Fld := ⟨0x201010, 4, 1⟩
def HQ_LINK_BME : Fld := ⟨0x201010, 3, 1⟩
def HQ_LINK_MSIX : Fld := ⟨0x201010, 2, 1⟩
def HQ_LINK_UP : Fld := ⟨0x201010, 0, 1⟩
/-! HQ_FAR_FAULT: R383 of 15_host_coupling.md. -/
def HQ_FAR_FAULT_COUNT : Fld := ⟨0x201018, 32, 32⟩
def HQ_FAR_FAULT_STATUS : Fld := ⟨0x201018, 24, 8⟩
def HQ_FAR_FAULT_GO : Fld := ⟨0x201018, 15, 1⟩
def HQ_FAR_FAULT_CONTEXT : Fld := ⟨0x201018, 0, 14⟩
/-! HQ_ERR: R383 of 15_host_coupling.md. -/
def HQ_ERR_COUNT : Fld := ⟨0x201020, 32, 32⟩
def HQ_ERR_LAST_STATUS : Fld := ⟨0x201020, 24, 8⟩
def HQ_ERR_CPL_TIMEOUT : Fld := ⟨0x201020, 5, 1⟩
def HQ_ERR_CPL_ERROR : Fld := ⟨0x201020, 4, 1⟩
def HQ_ERR_POISON_RX : Fld := ⟨0x201020, 3, 1⟩
def HQ_ERR_REFUSED : Fld := ⟨0x201020, 2, 1⟩
def HQ_ERR_QUEUE : Fld := ⟨0x201020, 1, 1⟩
def HQ_ERR_FAR_FAULT : Fld := ⟨0x201020, 0, 1⟩
/-! HQ_RESET_LOG: R383 of 15_host_coupling.md. -/
def HQ_RESET_LOG_AT : Fld := ⟨0x201028, 32, 32⟩
def HQ_RESET_LOG_COUNT : Fld := ⟨0x201028, 16, 16⟩
def HQ_RESET_LOG_CAUSE : Fld := ⟨0x201028, 8, 8⟩
def HQ_RESET_LOG_ORPHANED : Fld := ⟨0x201028, 0, 8⟩
/-! MSIX_ADDR: R469 of 19_register_index.md. -/
def MSIX_ADDR_ADDR (i : Nat) : Fld := ⟨0x208000 + 0x10 * (i % 2048), 0, 64⟩
/-! MSIX_CTRL: R469 of 19_register_index.md. -/
def MSIX_CTRL_MASK (i : Nat) : Fld := ⟨0x208008 + 0x10 * (i % 2048), 32, 1⟩
def MSIX_CTRL_DATA (i : Nat) : Fld := ⟨0x208008 + 0x10 * (i % 2048), 0, 32⟩
/-! MSIX_PBA: R469 of 19_register_index.md. -/
def MSIX_PBA_BITS (i : Nat) : Fld := ⟨0x210000 + 0x8 * (i % 32), 0, 64⟩
/-! CXL_COMP: R469 of 19_register_index.md. -/
def CXL_COMP_VALUE (i : Nat) : Fld := ⟨0x218000 + 0x8 * (i % 8192), 0, 64⟩
/-! TIER_STATUS: R282 of 11_tiers_and_object_space.md. -/
def TIER_STATUS_TABLES : Fld := ⟨0x300000, 48, 8⟩
def TIER_STATUS_LENDS : Fld := ⟨0x300000, 40, 8⟩
def TIER_STATUS_MODE : Fld := ⟨0x300000, 0, 1⟩
/-! TIER_HOST: R282 of 11_tiers_and_object_space.md. -/
def TIER_HOST_BASE : Fld := ⟨0x300008, 21, 43⟩
/-! TIER_HOST_PAGES: R282 of 11_tiers_and_object_space.md. -/
def TIER_HOST_PAGES_PAGES : Fld := ⟨0x300010, 0, 28⟩
/-! TIER_MAP_OA: R282 of 11_tiers_and_object_space.md. -/
def TIER_MAP_OA_PAGE : Fld := ⟨0x300018, 21, 31⟩
/-! TIER_MAP_CTRL: R282 of 11_tiers_and_object_space.md. -/
def TIER_MAP_CTRL_PAGES : Fld := ⟨0x300020, 32, 32⟩
def TIER_MAP_CTRL_CLASS : Fld := ⟨0x300020, 28, 4⟩
def TIER_MAP_CTRL_OP : Fld := ⟨0x300020, 24, 4⟩
def TIER_MAP_CTRL_SLICE : Fld := ⟨0x300020, 16, 6⟩
def TIER_MAP_CTRL_HOSTCACHE : Fld := ⟨0x300020, 1, 1⟩
def TIER_MAP_CTRL_GO : Fld := ⟨0x300020, 0, 1⟩
/-! TIER_MAP_STATUS: R282 of 11_tiers_and_object_space.md. -/
def TIER_MAP_STATUS_DONE : Fld := ⟨0x300028, 32, 32⟩
def TIER_MAP_STATUS_STATUS : Fld := ⟨0x300028, 16, 8⟩
def TIER_MAP_STATUS_BUSY : Fld := ⟨0x300028, 0, 1⟩
/-! TIER_MIGRATE: R282 of 11_tiers_and_object_space.md. -/
def TIER_MIGRATE_DONE : Fld := ⟨0x300030, 32, 32⟩
def TIER_MIGRATE_QUEUED : Fld := ⟨0x300030, 0, 32⟩
/-! TIER_POOL: R282 of 11_tiers_and_object_space.md. -/
def TIER_POOL_FREE_HBM : Fld := ⟨0x300038, 32, 32⟩
def TIER_POOL_LOW : Fld := ⟨0x300038, 0, 18⟩
/-! TIER_BIAS_CMD: R282 of 11_tiers_and_object_space.md. -/
def TIER_BIAS_CMD_PAGE : Fld := ⟨0x300040, 21, 31⟩
def TIER_BIAS_CMD_STATUS : Fld := ⟨0x300040, 8, 8⟩
def TIER_BIAS_CMD_BUSY : Fld := ⟨0x300040, 2, 1⟩
def TIER_BIAS_CMD_TO_HOST : Fld := ⟨0x300040, 1, 1⟩
def TIER_BIAS_CMD_GO : Fld := ⟨0x300040, 0, 1⟩
/-! TIER_LOOKUP_OA: R282 of 11_tiers_and_object_space.md. -/
def TIER_LOOKUP_OA_PAGE : Fld := ⟨0x300048, 21, 31⟩
/-! TIER_LOOKUP_ENTRY: R282 of 11_tiers_and_object_space.md. -/
def TIER_LOOKUP_ENTRY_STATE : Fld := ⟨0x300050, 62, 2⟩
def TIER_LOOKUP_ENTRY_CLASS : Fld := ⟨0x300050, 58, 4⟩
def TIER_LOOKUP_ENTRY_HOSTCACHE : Fld := ⟨0x300050, 57, 1⟩
def TIER_LOOKUP_ENTRY_BIAS : Fld := ⟨0x300050, 56, 1⟩
def TIER_LOOKUP_ENTRY_LENT : Fld := ⟨0x300050, 55, 1⟩
def TIER_LOOKUP_ENTRY_DA_PAGE : Fld := ⟨0x300050, 0, 30⟩
/-! TIER_ERR: R282 of 11_tiers_and_object_space.md. -/
def TIER_ERR_COUNT : Fld := ⟨0x300058, 32, 32⟩
def TIER_ERR_LAST_STATUS : Fld := ⟨0x300058, 24, 8⟩
def TIER_ERR_PEER_REFUSED : Fld := ⟨0x300058, 3, 1⟩
def TIER_ERR_BIAS_REFUSED : Fld := ⟨0x300058, 2, 1⟩
def TIER_ERR_UNMAPPED : Fld := ⟨0x300058, 1, 1⟩
def TIER_ERR_TABLE_ERR : Fld := ⟨0x300058, 0, 1⟩
/-! TIER_PEER: R282 of 11_tiers_and_object_space.md. -/
def TIER_PEER_BASE (i : Nat) : Fld := ⟨0x301000 + 0x8 * (i % 64), 42, 22⟩
def TIER_PEER_PAGES (i : Nat) : Fld := ⟨0x301000 + 0x8 * (i % 64), 1, 22⟩
def TIER_PEER_VALID (i : Nat) : Fld := ⟨0x301000 + 0x8 * (i % 64), 0, 1⟩
/-! TIER_LEND_A: R282 of 11_tiers_and_object_space.md. -/
def TIER_LEND_A_OA (i : Nat) : Fld := ⟨0x302000 + 0x10 * (i % 32), 21, 31⟩
def TIER_LEND_A_PAGES (i : Nat) : Fld := ⟨0x302000 + 0x10 * (i % 32), 0, 21⟩
/-! TIER_LEND_B: R282 of 11_tiers_and_object_space.md. -/
def TIER_LEND_B_OFF (i : Nat) : Fld := ⟨0x302008 + 0x10 * (i % 32), 21, 21⟩
def TIER_LEND_B_WRITE (i : Nat) : Fld := ⟨0x302008 + 0x10 * (i % 32), 1, 1⟩
def TIER_LEND_B_VALID (i : Nat) : Fld := ⟨0x302008 + 0x10 * (i % 32), 0, 1⟩
/-! TIER_BIAS: R282 of 11_tiers_and_object_space.md. -/
def TIER_BIAS_BIAS (i : Nat) : Fld := ⟨0x310000 + 0x8 * (i % 3968), 0, 64⟩
/-! TIER_DIR: R282 of 11_tiers_and_object_space.md. -/
def TIER_DIR_KIND (i : Nat) : Fld := ⟨0x340000 + 0x8 * (i % 16384), 62, 2⟩
def TIER_DIR_CLASS (i : Nat) : Fld := ⟨0x340000 + 0x8 * (i % 16384), 58, 4⟩
def TIER_DIR_HOSTCACHE (i : Nat) : Fld := ⟨0x340000 + 0x8 * (i % 16384), 57, 1⟩
def TIER_DIR_TARGET (i : Nat) : Fld := ⟨0x340000 + 0x8 * (i % 16384), 0, 13⟩
/-! FTL_STATUS: R307 of 12_flash_tier.md. -/
def FTL_STATUS_CH_FAILED : Fld := ⟨0x380000, 32, 8⟩
def FTL_STATUS_CH_DEGRADED : Fld := ⟨0x380000, 24, 8⟩
def FTL_STATUS_RATE : Fld := ⟨0x380000, 16, 8⟩
def FTL_STATUS_STATE : Fld := ⟨0x380000, 0, 4⟩
/-! FTL_GEOMETRY: R307 of 12_flash_tier.md. -/
def FTL_GEOMETRY_BLOCKS : Fld := ⟨0x380008, 48, 16⟩
def FTL_GEOMETRY_WORDLINES : Fld := ⟨0x380008, 32, 16⟩
def FTL_GEOMETRY_LUNS : Fld := ⟨0x380008, 24, 8⟩
def FTL_GEOMETRY_TARGETS : Fld := ⟨0x380008, 16, 8⟩
/-! FTL_REGION_SLC: R307 of 12_flash_tier.md. -/
def FTL_REGION_SLC_OP : Fld := ⟨0x380010, 56, 8⟩
def FTL_REGION_SLC_UNITS : Fld := ⟨0x380010, 0, 32⟩
/-! FTL_REGION_TLC: R307 of 12_flash_tier.md. -/
def FTL_REGION_TLC_OP : Fld := ⟨0x380018, 56, 8⟩
def FTL_REGION_TLC_UNITS : Fld := ⟨0x380018, 0, 32⟩
/-! FTL_FORMAT: R307 of 12_flash_tier.md. -/
def FTL_FORMAT_STATUS : Fld := ⟨0x380020, 16, 8⟩
def FTL_FORMAT_BUSY : Fld := ⟨0x380020, 3, 1⟩
def FTL_FORMAT_SLOW : Fld := ⟨0x380020, 1, 1⟩
def FTL_FORMAT_GO : Fld := ⟨0x380020, 0, 1⟩
/-! FTL_AREA: R307 of 12_flash_tier.md. -/
def FTL_AREA_PAGES : Fld := ⟨0x380028, 32, 32⟩
def FTL_AREA_FIRST_PAGE : Fld := ⟨0x380028, 0, 18⟩
/-! FTL_COMMIT: R307 of 12_flash_tier.md. -/
def FTL_COMMIT_DURABLE_STEP : Fld := ⟨0x380030, 32, 32⟩
def FTL_COMMIT_COMMITTED_STEP : Fld := ⟨0x380030, 0, 32⟩
/-! FTL_FREE: R307 of 12_flash_tier.md. -/
def FTL_FREE_TLC : Fld := ⟨0x380038, 32, 32⟩
def FTL_FREE_SLC : Fld := ⟨0x380038, 0, 32⟩
/-! FTL_DISTURB: R307 of 12_flash_tier.md. -/
def FTL_DISTURB_TLC_LIMIT_K : Fld := ⟨0x380040, 48, 16⟩
def FTL_DISTURB_SLC_LIMIT_K : Fld := ⟨0x380040, 32, 16⟩
def FTL_DISTURB_QUEUED : Fld := ⟨0x380040, 0, 32⟩
/-! FTL_WEAR_SLC: R307 of 12_flash_tier.md. -/
def FTL_WEAR_SLC_MAX : Fld := ⟨0x380048, 48, 16⟩
def FTL_WEAR_SLC_MIN : Fld := ⟨0x380048, 32, 16⟩
def FTL_WEAR_SLC_MEAN : Fld := ⟨0x380048, 16, 16⟩
def FTL_WEAR_SLC_RATED : Fld := ⟨0x380048, 0, 16⟩
/-! FTL_WEAR_TLC: R307 of 12_flash_tier.md. -/
def FTL_WEAR_TLC_MAX : Fld := ⟨0x380050, 48, 16⟩
def FTL_WEAR_TLC_MIN : Fld := ⟨0x380050, 32, 16⟩
def FTL_WEAR_TLC_MEAN : Fld := ⟨0x380050, 16, 16⟩
def FTL_WEAR_TLC_RATED : Fld := ⟨0x380050, 0, 16⟩
/-! FTL_STEP: R307 of 12_flash_tier.md. -/
def FTL_STEP_SHADOW_UNITS : Fld := ⟨0x380058, 32, 32⟩
def FTL_STEP_RETRIES : Fld := ⟨0x380058, 16, 16⟩
def FTL_STEP_UNCORRECTABLE : Fld := ⟨0x380058, 0, 16⟩
/-! FTL_ERR: R307 of 12_flash_tier.md. -/
def FTL_ERR_COUNT : Fld := ⟨0x380060, 32, 32⟩
def FTL_ERR_LAST_STATUS : Fld := ⟨0x380060, 24, 8⟩
def FTL_ERR_DISTURB_LATE : Fld := ⟨0x380060, 5, 1⟩
def FTL_ERR_NO_SPACE : Fld := ⟨0x380060, 4, 1⟩
def FTL_ERR_LUN_RETIRED : Fld := ⟨0x380060, 3, 1⟩
def FTL_ERR_GROWN_BAD : Fld := ⟨0x380060, 2, 1⟩
def FTL_ERR_UNCORRECTABLE : Fld := ⟨0x380060, 1, 1⟩
def FTL_ERR_WEAR_WARN : Fld := ⟨0x380060, 0, 1⟩
/-! FTL_CH: R307 of 12_flash_tier.md. -/
def FTL_CH_GROWN_BAD (i : Nat) : Fld := ⟨0x381000 + 0x8 * (i % 32), 48, 16⟩
def FTL_CH_LANE_MIN (i : Nat) : Fld := ⟨0x381000 + 0x8 * (i % 32), 32, 8⟩
def FTL_CH_LUNS (i : Nat) : Fld := ⟨0x381000 + 0x8 * (i % 32), 24, 8⟩
def FTL_CH_STATE (i : Nat) : Fld := ⟨0x381000 + 0x8 * (i % 32), 0, 4⟩
/-! CLU_MAP: R108 of 04_recompute_clusters.md. -/
def CLU_MAP_LOGICAL (i : Nat) : Fld := ⟨0x400000 + 0x1000 * (i % 36), 8, 8⟩
def CLU_MAP_STATE (i : Nat) : Fld := ⟨0x400000 + 0x1000 * (i % 36), 0, 4⟩
/-! CLU_POWER: R108 of 04_recompute_clusters.md. -/
def CLU_POWER_WAKE_AT (i : Nat) : Fld := ⟨0x400008 + 0x1000 * (i % 36), 32, 32⟩
def CLU_POWER_STATE (i : Nat) : Fld := ⟨0x400008 + 0x1000 * (i % 36), 0, 2⟩
/-! CLU_SEGMENT: R108 of 04_recompute_clusters.md. -/
def CLU_SEGMENT_PROGRAM (i : Nat) : Fld := ⟨0x400010 + 0x1000 * (i % 36), 48, 16⟩
def CLU_SEGMENT_LIFELINE (i : Nat) : Fld := ⟨0x400010 + 0x1000 * (i % 36), 32, 16⟩
def CLU_SEGMENT_SLICE (i : Nat) : Fld := ⟨0x400010 + 0x1000 * (i % 36), 16, 16⟩
def CLU_SEGMENT_MB (i : Nat) : Fld := ⟨0x400010 + 0x1000 * (i % 36), 8, 8⟩
def CLU_SEGMENT_REPLAY (i : Nat) : Fld := ⟨0x400010 + 0x1000 * (i % 36), 2, 1⟩
def CLU_SEGMENT_LEAD (i : Nat) : Fld := ⟨0x400010 + 0x1000 * (i % 36), 1, 1⟩
def CLU_SEGMENT_BUSY (i : Nat) : Fld := ⟨0x400010 + 0x1000 * (i % 36), 0, 1⟩
/-! CLU_BUSY: R108 of 04_recompute_clusters.md. -/
def CLU_BUSY_CYCLES (i : Nat) : Fld := ⟨0x400018 + 0x1000 * (i % 36), 0, 64⟩
/-! CLU_SEGMENTS: R108 of 04_recompute_clusters.md. -/
def CLU_SEGMENTS_COUNT (i : Nat) : Fld := ⟨0x400020 + 0x1000 * (i % 36), 0, 64⟩
/-! CLU_ERR: R108 of 04_recompute_clusters.md. -/
def CLU_ERR_LAST_STATUS (i : Nat) : Fld := ⟨0x400028 + 0x1000 * (i % 36), 24, 8⟩
def CLU_ERR_REPLAYED (i : Nat) : Fld := ⟨0x400028 + 0x1000 * (i % 36), 2, 1⟩
def CLU_ERR_NONFINITE_OUT (i : Nat) : Fld := ⟨0x400028 + 0x1000 * (i % 36), 1, 1⟩
def CLU_ERR_INPUT_MARKED (i : Nat) : Fld := ⟨0x400028 + 0x1000 * (i % 36), 0, 1⟩
/-! SKEIN_MAP: R194 of 08_skein_engines_and_expanders.md. -/
def SKEIN_MAP_LOGICAL (i : Nat) : Fld := ⟨0x480000 + 0x100 * (i % 72), 8, 8⟩
def SKEIN_MAP_STATE (i : Nat) : Fld := ⟨0x480000 + 0x100 * (i % 72), 0, 4⟩
/-! SKEIN_ENC: R194 of 08_skein_engines_and_expanders.md. -/
def SKEIN_ENC_BYTES (i : Nat) : Fld := ⟨0x480008 + 0x100 * (i % 72), 0, 64⟩
/-! SKEIN_DEC: R194 of 08_skein_engines_and_expanders.md. -/
def SKEIN_DEC_BYTES (i : Nat) : Fld := ⟨0x480010 + 0x100 * (i % 72), 0, 64⟩
/-! SKEIN_CTX: R194 of 08_skein_engines_and_expanders.md. -/
def SKEIN_CTX_DEC_STREAM (i : Nat) : Fld := ⟨0x480018 + 0x100 * (i % 72), 32, 14⟩
def SKEIN_CTX_ENC_STREAM (i : Nat) : Fld := ⟨0x480018 + 0x100 * (i % 72), 16, 14⟩
def SKEIN_CTX_DEC_OPEN (i : Nat) : Fld := ⟨0x480018 + 0x100 * (i % 72), 4, 3⟩
def SKEIN_CTX_ENC_OPEN (i : Nat) : Fld := ⟨0x480018 + 0x100 * (i % 72), 0, 3⟩
/-! SKEIN_ERR: R194 of 08_skein_engines_and_expanders.md. -/
def SKEIN_ERR_CHECK_FAILS (i : Nat) : Fld := ⟨0x480020 + 0x100 * (i % 72), 32, 32⟩
def SKEIN_ERR_LAST_STATUS (i : Nat) : Fld := ⟨0x480020 + 0x100 * (i % 72), 24, 8⟩
def SKEIN_ERR_MARKED_IN (i : Nat) : Fld := ⟨0x480020 + 0x100 * (i % 72), 2, 1⟩
def SKEIN_ERR_HDR_FAIL (i : Nat) : Fld := ⟨0x480020 + 0x100 * (i % 72), 1, 1⟩
def SKEIN_ERR_BLOCK_FAIL (i : Nat) : Fld := ⟨0x480020 + 0x100 * (i % 72), 0, 1⟩
/-! EXP_STAT: R194 of 08_skein_engines_and_expanders.md. -/
def EXP_STAT_CHUNKS (i : Nat) : Fld := ⟨0x488000 + 0x40 * (i % 144), 32, 32⟩
def EXP_STAT_LOGICAL (i : Nat) : Fld := ⟨0x488000 + 0x40 * (i % 144), 8, 8⟩
def EXP_STAT_STATE (i : Nat) : Fld := ⟨0x488000 + 0x40 * (i % 144), 0, 4⟩
/-! EXP_ERR: R194 of 08_skein_engines_and_expanders.md. -/
def EXP_ERR_CHECK_FAILS (i : Nat) : Fld := ⟨0x488008 + 0x40 * (i % 144), 32, 32⟩
def EXP_ERR_LAST_STATUS (i : Nat) : Fld := ⟨0x488008 + 0x40 * (i % 144), 24, 8⟩
def EXP_ERR_REF_REFUSED (i : Nat) : Fld := ⟨0x488008 + 0x40 * (i % 144), 1, 1⟩
def EXP_ERR_BLOCK_FAIL (i : Nat) : Fld := ⟨0x488008 + 0x40 * (i % 144), 0, 1⟩
/-! SKEIN_WALK: R194 of 08_skein_engines_and_expanders.md. -/
def SKEIN_WALK_PARTS_LOST : Fld := ⟨0x48C000, 32, 32⟩
def SKEIN_WALK_PANELS : Fld := ⟨0x48C000, 0, 32⟩
/-! CDP_STATUS: R361 of 14_compute_die_ports.md. -/
def CDP_STATUS_EDITION (i : Nat) : Fld := ⟨0x500000 + 0x1000 * (i % 4), 32, 16⟩
def CDP_STATUS_RATE (i : Nat) : Fld := ⟨0x500000 + 0x1000 * (i % 4), 24, 8⟩
def CDP_STATUS_MODULES (i : Nat) : Fld := ⟨0x500000 + 0x1000 * (i % 4), 16, 8⟩
def CDP_STATUS_STATE (i : Nat) : Fld := ⟨0x500000 + 0x1000 * (i % 4), 0, 4⟩
/-! CDP_PEER_ID: R361 of 14_compute_die_ports.md. -/
def CDP_PEER_ID_DIE_ID (i : Nat) : Fld := ⟨0x500008 + 0x1000 * (i % 4), 0, 64⟩
/-! CDP_CREDIT: R361 of 14_compute_die_ports.md. -/
def CDP_CREDIT_PEER_HDR (i : Nat) : Fld := ⟨0x500010 + 0x1000 * (i % 4), 48, 16⟩
def CDP_CREDIT_PEER_DATA (i : Nat) : Fld := ⟨0x500010 + 0x1000 * (i % 4), 32, 16⟩
def CDP_CREDIT_PACE_CREDITS (i : Nat) : Fld := ⟨0x500010 + 0x1000 * (i % 4), 0, 10⟩
/-! CDP_CTRL: R361 of 14_compute_die_ports.md. -/
def CDP_CTRL_PACE_CREDITS (i : Nat) : Fld := ⟨0x500018 + 0x1000 * (i % 4), 32, 10⟩
def CDP_CTRL_SLOW (i : Nat) : Fld := ⟨0x500018 + 0x1000 * (i % 4), 2, 1⟩
def CDP_CTRL_RESET (i : Nat) : Fld := ⟨0x500018 + 0x1000 * (i % 4), 1, 1⟩
def CDP_CTRL_ENABLE (i : Nat) : Fld := ⟨0x500018 + 0x1000 * (i % 4), 0, 1⟩
/-! CDP_MODMAP: R361 of 14_compute_die_ports.md. -/
def CDP_MODMAP_FAILED (i : Nat) : Fld := ⟨0x500020 + 0x1000 * (i % 4), 32, 4⟩
def CDP_MODMAP_PHYS (i : Nat) : Fld := ⟨0x500020 + 0x1000 * (i % 4), 0, 32⟩
/-! CDP_TRAFFIC_OUT: R361 of 14_compute_die_ports.md. -/
def CDP_TRAFFIC_OUT_GRANULES (i : Nat) : Fld := ⟨0x500028 + 0x1000 * (i % 4), 0, 64⟩
/-! CDP_TRAFFIC_IN: R361 of 14_compute_die_ports.md. -/
def CDP_TRAFFIC_IN_GRANULES (i : Nat) : Fld := ⟨0x500030 + 0x1000 * (i % 4), 0, 64⟩
/-! CDP_RESET_LOG: R361 of 14_compute_die_ports.md. -/
def CDP_RESET_LOG_AT (i : Nat) : Fld := ⟨0x500038 + 0x1000 * (i % 4), 32, 32⟩
def CDP_RESET_LOG_COUNT (i : Nat) : Fld := ⟨0x500038 + 0x1000 * (i % 4), 16, 16⟩
def CDP_RESET_LOG_CAUSE (i : Nat) : Fld := ⟨0x500038 + 0x1000 * (i % 4), 8, 8⟩
def CDP_RESET_LOG_ORPHANED (i : Nat) : Fld := ⟨0x500038 + 0x1000 * (i % 4), 0, 8⟩
/-! CDP_ERR: R361 of 14_compute_die_ports.md. -/
def CDP_ERR_COUNT (i : Nat) : Fld := ⟨0x500040 + 0x1000 * (i % 4), 32, 32⟩
def CDP_ERR_LAST_STATUS (i : Nat) : Fld := ⟨0x500040 + 0x1000 * (i % 4), 24, 8⟩
def CDP_ERR_HELLO_FAIL (i : Nat) : Fld := ⟨0x500040 + 0x1000 * (i % 4), 5, 1⟩
def CDP_ERR_PROTOCOL (i : Nat) : Fld := ⟨0x500040 + 0x1000 * (i % 4), 4, 1⟩
def CDP_ERR_MARKED_IN (i : Nat) : Fld := ⟨0x500040 + 0x1000 * (i % 4), 3, 1⟩
def CDP_ERR_WRITE_REFUSED (i : Nat) : Fld := ⟨0x500040 + 0x1000 * (i % 4), 2, 1⟩
def CDP_ERR_READ_REFUSED (i : Nat) : Fld := ⟨0x500040 + 0x1000 * (i % 4), 1, 1⟩
def CDP_ERR_MODULE_SPARED (i : Nat) : Fld := ⟨0x500040 + 0x1000 * (i % 4), 0, 1⟩
/-! HBM_STACK: R471 of 19_register_index.md. -/
def HBM_STACK_TEMP_C (i : Nat) : Fld := ⟨0x580000 + 0x8 * (i % 8), 56, 8⟩
def HBM_STACK_CE (i : Nat) : Fld := ⟨0x580000 + 0x8 * (i % 8), 32, 16⟩
def HBM_STACK_NO_SPARE (i : Nat) : Fld := ⟨0x580000 + 0x8 * (i % 8), 13, 1⟩
def HBM_STACK_SPARE (i : Nat) : Fld := ⟨0x580000 + 0x8 * (i % 8), 8, 5⟩
def HBM_STACK_STATE (i : Nat) : Fld := ⟨0x580000 + 0x8 * (i % 8), 0, 4⟩
/-! FAULT_STATUS: R435 of 17_faults_spares_ledgers.md. -/
def FAULT_STATUS_FAILOVERS : Fld := ⟨0x600000, 32, 32⟩
def FAULT_STATUS_LAST_STATUS : Fld := ⟨0x600000, 24, 8⟩
def FAULT_STATUS_NO_SPARE : Fld := ⟨0x600000, 16, 6⟩
def FAULT_STATUS_STEP_FAILOVERS : Fld := ⟨0x600000, 8, 8⟩
def FAULT_STATUS_RETIRE_PENDING : Fld := ⟨0x600000, 2, 1⟩
def FAULT_STATUS_COPYING : Fld := ⟨0x600000, 1, 1⟩
def FAULT_STATUS_PAUSED : Fld := ⟨0x600000, 0, 1⟩
/-! FAULT_LAST: R435 of 17_faults_spares_ledgers.md. -/
def FAULT_LAST_AT : Fld := ⟨0x600008, 32, 32⟩
def FAULT_LAST_UNIT : Fld := ⟨0x600008, 16, 16⟩
def FAULT_LAST_SPARE : Fld := ⟨0x600008, 0, 16⟩
/-! FAULT_MEND: R435 of 17_faults_spares_ledgers.md. -/
def FAULT_MEND_APPLY_AT_STEP : Fld := ⟨0x600010, 32, 32⟩
def FAULT_MEND_UNIT : Fld := ⟨0x600010, 16, 16⟩
def FAULT_MEND_STATUS : Fld := ⟨0x600010, 8, 8⟩
def FAULT_MEND_PENDING : Fld := ⟨0x600010, 3, 1⟩
def FAULT_MEND_RESTORE : Fld := ⟨0x600010, 2, 1⟩
def FAULT_MEND_GO : Fld := ⟨0x600010, 0, 1⟩
/-! FAULT_LOG_PTR: R435 of 17_faults_spares_ledgers.md. -/
def FAULT_LOG_PTR_DROPPED : Fld := ⟨0x600018, 32, 32⟩
def FAULT_LOG_PTR_HEAD : Fld := ⟨0x600018, 16, 12⟩
def FAULT_LOG_PTR_TAIL : Fld := ⟨0x600018, 0, 12⟩
/-! FAULT_MARKS: R435 of 17_faults_spares_ledgers.md. -/
def FAULT_MARKS_LIVE_GRANULES : Fld := ⟨0x600020, 32, 32⟩
def FAULT_MARKS_LOST_GRANULES : Fld := ⟨0x600020, 0, 32⟩
/-! LEDGER_LAST: R435 of 17_faults_spares_ledgers.md. -/
def LEDGER_LAST_MOVED (i : Nat) : Fld := ⟨0x600100 + 0x8 * (i % 4), 32, 32⟩
def LEDGER_LAST_DIFF (i : Nat) : Fld := ⟨0x600100 + 0x8 * (i % 4), 0, 32⟩
/-! LEDGER_STATUS: R435 of 17_faults_spares_ledgers.md. -/
def LEDGER_STATUS_AT_STEP : Fld := ⟨0x600140, 32, 32⟩
def LEDGER_STATUS_LAST_STATUS : Fld := ⟨0x600140, 24, 8⟩
def LEDGER_STATUS_MISMATCH : Fld := ⟨0x600140, 4, 4⟩
def LEDGER_STATUS_SWATCH : Fld := ⟨0x600140, 0, 1⟩
/-! FAULT_LOG_W0: R435 of 17_faults_spares_ledgers.md. -/
def FAULT_LOG_W0_ROW (i : Nat) : Fld := ⟨0x640000 + 0x20 * (i % 4096), 0, 64⟩
/-! FAULT_LOG_W1: R435 of 17_faults_spares_ledgers.md. -/
def FAULT_LOG_W1_STEP (i : Nat) : Fld := ⟨0x640008 + 0x20 * (i % 4096), 32, 32⟩
def FAULT_LOG_W1_STATUS (i : Nat) : Fld := ⟨0x640008 + 0x20 * (i % 4096), 24, 8⟩
def FAULT_LOG_W1_SOURCE (i : Nat) : Fld := ⟨0x640008 + 0x20 * (i % 4096), 16, 8⟩
def FAULT_LOG_W1_UNIT (i : Nat) : Fld := ⟨0x640008 + 0x20 * (i % 4096), 0, 16⟩
/-! FAULT_LOG_W2: R435 of 17_faults_spares_ledgers.md. -/
def FAULT_LOG_W2_REPEAT (i : Nat) : Fld := ⟨0x640010 + 0x20 * (i % 4096), 32, 32⟩
def FAULT_LOG_W2_DETAIL (i : Nat) : Fld := ⟨0x640010 + 0x20 * (i % 4096), 0, 32⟩
/-! FAULT_LOG_W3: R435 of 17_faults_spares_ledgers.md. -/
def FAULT_LOG_W3_AUX (i : Nat) : Fld := ⟨0x640018 + 0x20 * (i % 4096), 0, 64⟩
/-! GAUGE_CTRL: R132 of 05_recompute_numerics.md. -/
def GAUGE_CTRL_AT_STEP : Fld := ⟨0x680000, 32, 32⟩
def GAUGE_CTRL_CLEAR_PENDING : Fld := ⟨0x680000, 1, 1⟩
def GAUGE_CTRL_CLEAR : Fld := ⟨0x680000, 0, 1⟩
/-! GAUGE_CUM: R132 of 05_recompute_numerics.md. -/
def GAUGE_CUM_COUNT (i : Nat) : Fld := ⟨0x681000 + 0x8 * (i % 256), 0, 64⟩
/-! GAUGE_LAST: R132 of 05_recompute_numerics.md. -/
def GAUGE_LAST_COUNT (i : Nat) : Fld := ⟨0x682000 + 0x8 * (i % 256), 0, 64⟩
/-! IDLE_CTRL: R412 of 16_multi_device_determinism.md. -/
def IDLE_CTRL_AT_STEP : Fld := ⟨0x700000, 32, 32⟩
def IDLE_CTRL_CLEAR_PENDING : Fld := ⟨0x700000, 1, 1⟩
def IDLE_CTRL_CLEAR : Fld := ⟨0x700000, 0, 1⟩
/-! IDLE_LAST: R412 of 16_multi_device_determinism.md. -/
def IDLE_LAST_TICKS (i : Nat) : Fld := ⟨0x700100 + 0x8 * (i % 8), 0, 64⟩
/-! IDLE_CUM: R412 of 16_multi_device_determinism.md. -/
def IDLE_CUM_TICKS (i : Nat) : Fld := ⟨0x700180 + 0x8 * (i % 8), 0, 64⟩
/-! TENSION_CTRL: R254 of 10_pacing_and_slots.md. -/
def TENSION_CTRL_AT_STEP : Fld := ⟨0x708000, 32, 32⟩
def TENSION_CTRL_CLEAR_PENDING : Fld := ⟨0x708000, 1, 1⟩
def TENSION_CTRL_CLEAR : Fld := ⟨0x708000, 0, 1⟩
/-! TENSION_LAST: R254 of 10_pacing_and_slots.md. -/
def TENSION_LAST_COUNT (i : Nat) : Fld := ⟨0x708100 + 0x8 * (i % 16), 0, 64⟩
/-! TENSION_CUM: R254 of 10_pacing_and_slots.md. -/
def TENSION_CUM_COUNT (i : Nat) : Fld := ⟨0x708180 + 0x8 * (i % 16), 0, 64⟩
/-! TENSION_PEAK: R254 of 10_pacing_and_slots.md. -/
def TENSION_PEAK_ROUND (i : Nat) : Fld := ⟨0x708200 + 0x8 * (i % 16), 32, 32⟩
def TENSION_PEAK_UNMET (i : Nat) : Fld := ⟨0x708200 + 0x8 * (i % 16), 0, 32⟩
/-! SYNC_CONFIG: R412 of 16_multi_device_determinism.md. -/
def SYNC_CONFIG_FLAG_RTT : Fld := ⟨0x780000, 48, 16⟩
def SYNC_CONFIG_LAT : Fld := ⟨0x780000, 32, 4⟩
def SYNC_CONFIG_MEMBER : Fld := ⟨0x780000, 16, 6⟩
def SYNC_CONFIG_DEVICES : Fld := ⟨0x780000, 0, 7⟩
/-! SYNC_CTRL: R412 of 16_multi_device_determinism.md. -/
def SYNC_CTRL_LEADER_PENDING : Fld := ⟨0x780008, 4, 1⟩
def SYNC_CTRL_LEADER : Fld := ⟨0x780008, 3, 1⟩
def SYNC_CTRL_CANCEL : Fld := ⟨0x780008, 2, 1⟩
def SYNC_CTRL_SEND_RELEASE : Fld := ⟨0x780008, 1, 1⟩
def SYNC_CTRL_ARM : Fld := ⟨0x780008, 0, 1⟩
/-! SYNC_LOAD: R412 of 16_multi_device_determinism.md. -/
def SYNC_LOAD_VALUE : Fld := ⟨0x780010, 0, 64⟩
/-! SYNC_LAUNCH: R412 of 16_multi_device_determinism.md. -/
def SYNC_LAUNCH_COUNT : Fld := ⟨0x780018, 0, 64⟩
/-! SYNC_STATUS: R412 of 16_multi_device_determinism.md. -/
def SYNC_STATUS_OFFSET : Fld := ⟨0x780020, 32, 16⟩
def SYNC_STATUS_LAUNCH_STATUS : Fld := ⟨0x780020, 24, 8⟩
def SYNC_STATUS_CLOCK : Fld := ⟨0x780020, 12, 4⟩
def SYNC_STATUS_TAINTED : Fld := ⟨0x780020, 11, 1⟩
def SYNC_STATUS_SYNC_PRESENT : Fld := ⟨0x780020, 10, 1⟩
def SYNC_STATUS_RELEASE_ARMED : Fld := ⟨0x780020, 9, 1⟩
def SYNC_STATUS_EMITTING : Fld := ⟨0x780020, 8, 1⟩
def SYNC_STATUS_STATE : Fld := ⟨0x780020, 0, 4⟩
/-! SYNC_CLOCK: R412 of 16_multi_device_determinism.md. -/
def SYNC_CLOCK_HOLDOVER_AT : Fld := ⟨0x780028, 32, 32⟩
def SYNC_CLOCK_CAL : Fld := ⟨0x780028, 16, 16⟩
def SYNC_CLOCK_GOOD_FOR : Fld := ⟨0x780028, 0, 16⟩
/-! SYNC_BARRIER: R412 of 16_multi_device_determinism.md. -/
def SYNC_BARRIER_LOCAL_PAGE : Fld := ⟨0x780030, 21, 31⟩
def SYNC_BARRIER_APERTURE_PAGE : Fld := ⟨0x780030, 0, 21⟩
/-! SYNC_ERR: R412 of 16_multi_device_determinism.md. -/
def SYNC_ERR_COUNT : Fld := ⟨0x780038, 32, 32⟩
def SYNC_ERR_LAST_STATUS : Fld := ⟨0x780038, 24, 8⟩
def SYNC_ERR_UNEXPECTED : Fld := ⟨0x780038, 6, 1⟩
def SYNC_ERR_MALFORMED : Fld := ⟨0x780038, 5, 1⟩
def SYNC_ERR_SYNC_LOST : Fld := ⟨0x780038, 4, 1⟩
def SYNC_ERR_EPOCH : Fld := ⟨0x780038, 3, 1⟩
def SYNC_ERR_RATE : Fld := ⟨0x780038, 2, 1⟩
def SYNC_ERR_GLITCH : Fld := ⟨0x780038, 1, 1⟩
def SYNC_ERR_LOSS : Fld := ⟨0x780038, 0, 1⟩
/-! FAULT_UNIT: R435 of 17_faults_spares_ledgers.md; the argument is the register's offset. -/
def FAULT_UNIT_CE (o : Nat) : Fld := ⟨o, 48, 16⟩
def FAULT_UNIT_LAST_STATUS (o : Nat) : Fld := ⟨o, 40, 8⟩
def FAULT_UNIT_LOGICAL (o : Nat) : Fld := ⟨o, 16, 16⟩
def FAULT_UNIT_STATE (o : Nat) : Fld := ⟨o, 0, 4⟩
end R

/-- Part 0 of the Register list of R469 with the field maps of its registers. -/
def regRows0 : List RegRow := [
  -- GLB_ID
  ⟨0x0, 1, 0x0, 32, [⟨16, 16, .ro, .fw⟩, ⟨12, 4, .ro, .fw⟩, ⟨8, 4, .ro, .fw⟩, ⟨0, 8, .ro, .fw⟩]⟩,
  -- GLB_ROW
  ⟨0x8, 1, 0x0, 64, [⟨0, 64, .ro, .fw⟩]⟩,
  -- GLB_STATUS
  ⟨0x10, 1, 0x0, 64, [⟨40, 8, .ro, .fw⟩, ⟨28, 4, .ro, .fw⟩, ⟨24, 4, .ro, .fw⟩, ⟨20, 4, .ro, .fw⟩, ⟨7, 1, .ro, .fw⟩, ⟨6, 1, .ro, .fw⟩, ⟨5, 1, .ro, .fw⟩, ⟨4, 1, .ro, .fw⟩, ⟨3, 1, .ro, .fw⟩, ⟨2, 1, .ro, .fw⟩, ⟨1, 1, .ro, .fw⟩, ⟨0, 1, .ro, .fw⟩]⟩,
  -- BOOT_STATUS
  ⟨0x10000, 1, 0x0, 64, [⟨56, 8, .ro, .fw⟩, ⟨48, 8, .ro, .fw⟩, ⟨40, 8, .ro, .fw⟩, ⟨24, 8, .ro, .fw⟩, ⟨0, 4, .ro, .fw⟩]⟩,
  -- BOOT_IMAGE
  ⟨0x10008, 1, 0x0, 64, [⟨32, 32, .ro, .fw⟩, ⟨24, 8, .ro, .fw⟩, ⟨19, 5, .ro, .fw⟩, ⟨17, 2, .ro, .fw⟩, ⟨16, 1, .ro, .fw⟩, ⟨0, 16, .ro, .fw⟩]⟩,
  -- BOOT_FUSES
  ⟨0x10010, 1, 0x0, 64, [⟨56, 8, .ro, .fw⟩, ⟨48, 8, .ro, .fw⟩, ⟨44, 4, .ro, .fw⟩, ⟨42, 2, .ro, .fw⟩, ⟨40, 2, .ro, .fw⟩]⟩,
  -- BOOT_ROLLBACK
  ⟨0x10018, 1, 0x0, 64, [⟨16, 8, .ro, .fw⟩, ⟨10, 1, .ro, .fw⟩, ⟨8, 2, .wo, .host⟩, ⟨4, 4, .wo, .host⟩, ⟨1, 1, .wo, .host⟩, ⟨0, 1, .wo, .host⟩]⟩,
  -- BOOT_TIME
  ⟨0x10020, 1, 0x0, 64, [⟨32, 32, .ro, .fw⟩, ⟨0, 32, .ro, .fw⟩]⟩,
  -- PWR_STATE
  ⟨0x20000, 1, 0x0, 64, [⟨32, 32, .ro, .fw⟩, ⟨24, 8, .ro, .fw⟩, ⟨0, 4, .ro, .fw⟩]⟩,
  -- PWR_CTRL
  ⟨0x20008, 1, 0x0, 64, [⟨8, 8, .ro, .fw⟩, ⟨0, 1, .wo, .host⟩]⟩,
  -- PWR_SUPPLY
  ⟨0x20010, 1, 0x0, 64, [⟨48, 16, .ro, .fw⟩, ⟨0, 9, .ro, .fw⟩]⟩,
  -- PWR_AVS
  ⟨0x20018, 1, 0x0, 64, [⟨48, 16, .ro, .fw⟩, ⟨32, 16, .ro, .fw⟩, ⟨0, 1, .ro, .fw⟩]⟩]

/-- Part 1 of the Register list of R469 with the field maps of its registers. -/
def regRows1 : List RegRow := [
  -- PWR_CLOCK
  ⟨0x20020, 1, 0x0, 64, [⟨48, 16, .ro, .fw⟩, ⟨32, 16, .ro, .fw⟩, ⟨0, 32, .ro, .fw⟩]⟩,
  -- PWR_THERM
  ⟨0x20028, 1, 0x0, 64, [⟨56, 8, .ro, .fw⟩, ⟨48, 8, .rc, .fw⟩, ⟨40, 8, .ro, .fw⟩, ⟨8, 8, .ro, .fw⟩, ⟨2, 1, .ro, .fw⟩, ⟨1, 1, .ro, .fw⟩, ⟨0, 1, .ro, .fw⟩]⟩,
  -- PWR_THERM_CFG
  ⟨0x20030, 1, 0x0, 64, [⟨16, 8, .ro, .fw⟩, ⟨8, 8, .rw, .host⟩, ⟨0, 8, .rw, .host⟩]⟩,
  -- PWR_MGMT
  ⟨0x20038, 1, 0x0, 64, [⟨8, 8, .ro, .fw⟩, ⟨2, 1, .wo, .any⟩, ⟨1, 1, .wo, .any⟩, ⟨0, 1, .wo, .any⟩]⟩,
  -- PWR_UNITS
  ⟨0x20040, 1, 0x0, 64, [⟨48, 16, .ro, .fw⟩, ⟨32, 16, .ro, .fw⟩, ⟨16, 16, .ro, .fw⟩, ⟨0, 16, .ro, .fw⟩]⟩,
  -- CHART_ACTIVE
  ⟨0x40000, 1, 0x0, 64, [⟨32, 32, .ro, .fw⟩, ⟨24, 8, .ro, .fw⟩, ⟨16, 8, .ro, .fw⟩, ⟨12, 4, .ro, .fw⟩, ⟨7, 5, .ro, .fw⟩, ⟨0, 1, .ro, .fw⟩]⟩,
  -- CHART_ACTIVE_ID
  ⟨0x40008, 1, 0x0, 64, [⟨0, 64, .ro, .fw⟩]⟩,
  -- CHART_STAGED
  ⟨0x40010, 1, 0x0, 64, [⟨32, 32, .ro, .fw⟩, ⟨24, 8, .ro, .fw⟩, ⟨16, 8, .ro, .fw⟩, ⟨12, 4, .ro, .fw⟩, ⟨7, 5, .ro, .fw⟩, ⟨0, 1, .ro, .fw⟩]⟩,
  -- CHART_STAGED_ID
  ⟨0x40018, 1, 0x0, 64, [⟨0, 64, .ro, .fw⟩]⟩,
  -- CHART_LOAD_SRC
  ⟨0x40020, 1, 0x0, 64, [⟨0, 64, .rw, .host⟩]⟩,
  -- CHART_LOAD_CTRL
  ⟨0x40028, 1, 0x0, 64, [⟨32, 32, .rw, .host⟩, ⟨2, 1, .wo, .host⟩, ⟨1, 1, .wo, .host⟩, ⟨0, 1, .wo, .host⟩]⟩,
  -- CHART_LOAD_STATUS
  ⟨0x40030, 1, 0x0, 64, [⟨36, 28, .ro, .fw⟩, ⟨32, 4, .ro, .fw⟩, ⟨16, 16, .ro, .fw⟩, ⟨8, 8, .ro, .fw⟩, ⟨0, 3, .ro, .fw⟩]⟩]

/-- Part 2 of the Register list of R469 with the field maps of its registers. -/
def regRows2 : List RegRow := [
  -- CHART_COMMIT
  ⟨0x40038, 1, 0x0, 64, [⟨32, 32, .ro, .fw⟩, ⟨16, 8, .ro, .fw⟩, ⟨10, 2, .ro, .fw⟩, ⟨1, 1, .wo, .host⟩, ⟨0, 1, .wo, .host⟩]⟩,
  -- CHART_VARIANT
  ⟨0x40040, 1, 0x0, 64, [⟨32, 32, .ro, .fw⟩, ⟨16, 8, .ro, .fw⟩, ⟨10, 2, .ro, .fw⟩, ⟨4, 4, .rw, .host⟩, ⟨1, 1, .wo, .host⟩, ⟨0, 1, .wo, .host⟩]⟩,
  -- CHART_DRAIN
  ⟨0x40048, 1, 0x0, 64, [⟨32, 14, .ro, .fw⟩, ⟨0, 32, .ro, .fw⟩]⟩,
  -- CHART_SEED
  ⟨0x40050, 1, 0x0, 64, [⟨0, 64, .rw, .host⟩]⟩,
  -- STEP_STATUS
  ⟨0x80000, 1, 0x0, 32, [⟨24, 4, .ro, .fw⟩, ⟨20, 4, .ro, .fw⟩, ⟨16, 4, .ro, .fw⟩, ⟨8, 8, .ro, .fw⟩, ⟨0, 4, .ro, .fw⟩]⟩,
  -- STEP_NUMBER
  ⟨0x80008, 1, 0x0, 64, [⟨0, 64, .ro, .fw⟩]⟩,
  -- STEP_CASTON
  ⟨0x80010, 1, 0x0, 64, [⟨0, 64, .ro, .fw⟩]⟩,
  -- STEP_VERDICT_AT
  ⟨0x80018, 1, 0x0, 64, [⟨0, 64, .ro, .fw⟩]⟩,
  -- STEP_BINDOFF
  ⟨0x80020, 1, 0x0, 64, [⟨0, 64, .ro, .fw⟩]⟩,
  -- STEP_NEXT_CASTON
  ⟨0x80028, 1, 0x0, 64, [⟨0, 64, .ro, .fw⟩]⟩,
  -- STEP_START
  ⟨0x80030, 1, 0x0, 64, [⟨0, 64, .rw, .host⟩]⟩,
  -- STEP_SWATCH
  ⟨0x80038, 1, 0x0, 64, [⟨32, 32, .ro, .fw⟩, ⟨16, 8, .ro, .fw⟩, ⟨8, 1, .ro, .fw⟩, ⟨4, 4, .rw, .host⟩, ⟨0, 1, .wo, .host⟩]⟩]

/-- Part 3 of the Register list of R469 with the field maps of its registers. -/
def regRows3 : List RegRow := [
  -- STEP_CTRL
  ⟨0x80040, 1, 0x0, 64, [⟨32, 32, .ro, .fw⟩, ⟨8, 8, .ro, .fw⟩, ⟨1, 1, .ro, .fw⟩, ⟨0, 1, .wo, .host⟩]⟩,
  -- STEP_FLAG
  ⟨0x80100, 1, 0x0, 64, [⟨32, 32, .ro, .fw⟩, ⟨16, 8, .ro, .fw⟩, ⟨3, 1, .w1c, .host⟩, ⟨2, 1, .wo, .host⟩, ⟨1, 1, .ro, .fw⟩, ⟨0, 1, .ro, .fw⟩]⟩,
  -- STEP_SKIP
  ⟨0x80108, 1, 0x0, 64, [⟨32, 32, .ro, .fw⟩, ⟨0, 32, .ro, .fw⟩]⟩,
  -- STEP_SCALE
  ⟨0x80110, 1, 0x0, 64, [⟨32, 32, .ro, .fw⟩, ⟨0, 8, .ro, .fw⟩]⟩,
  -- STEP_SCALE_SET
  ⟨0x80118, 1, 0x0, 64, [⟨32, 32, .rw, .host⟩, ⟨16, 1, .ro, .fw⟩, ⟨8, 8, .rw, .host⟩]⟩,
  -- STEP_SCALE_CFG
  ⟨0x80120, 1, 0x0, 64, [⟨32, 32, .rw, .host⟩, ⟨8, 8, .rw, .host⟩, ⟨0, 8, .rw, .host⟩]⟩,
  -- STEP_OPT_COUNT
  ⟨0x80128, 1, 0x0, 64, [⟨0, 64, .ro, .fw⟩]⟩,
  -- STEP_OPT_SET
  ⟨0x80130, 1, 0x0, 64, [⟨0, 64, .rw, .host⟩]⟩,
  -- STEP_LR_IN
  ⟨0x80138, 1, 0x0, 64, [⟨32, 8, .ro, .fw⟩, ⟨0, 32, .rw, .host⟩]⟩,
  -- STEP_LR_NOW
  ⟨0x80140, 1, 0x0, 64, [⟨32, 32, .ro, .fw⟩, ⟨0, 32, .ro, .fw⟩]⟩,
  -- STEP_UPDATE
  ⟨0x80148, 1, 0x0, 64, [⟨48, 16, .ro, .fw⟩, ⟨32, 16, .ro, .fw⟩, ⟨0, 32, .ro, .fw⟩]⟩,
  -- STEP_HANDOFF
  ⟨0x80150, 1, 0x0, 64, [⟨32, 8, .ro, .fw⟩, ⟨0, 8, .ro, .fw⟩]⟩]

/-- Part 4 of the Register list of R469 with the field maps of its registers. -/
def regRows4 : List RegRow := [
  -- STEP_HISTORY
  ⟨0x80200, 64, 0x8, 64, [⟨32, 32, .ro, .fw⟩, ⟨0, 8, .ro, .fw⟩]⟩,
  -- STEP_STASH_SEL
  ⟨0x80800, 1, 0x0, 64, [⟨32, 32, .ro, .fw⟩, ⟨24, 2, .ro, .fw⟩, ⟨16, 8, .ro, .fw⟩, ⟨15, 1, .ro, .fw⟩, ⟨12, 3, .ro, .fw⟩, ⟨8, 4, .ro, .fw⟩, ⟨4, 4, .ro, .fw⟩, ⟨0, 4, .ro, .fw⟩]⟩,
  -- STEP_STASH_EVENTS
  ⟨0x80808, 1, 0x0, 64, [⟨32, 32, .ro, .fw⟩, ⟨0, 32, .ro, .fw⟩]⟩,
  -- STEP_SPILL_BYTES
  ⟨0x80810, 1, 0x0, 64, [⟨0, 64, .ro, .fw⟩]⟩,
  -- STEP_STASH_PEAK_ONDIE
  ⟨0x80818, 1, 0x0, 64, [⟨0, 64, .ro, .fw⟩]⟩,
  -- STEP_STASH_PEAK_HBM
  ⟨0x80820, 1, 0x0, 64, [⟨0, 64, .ro, .fw⟩]⟩,
  -- STEP_STASH_PEAK_NEIGHBOUR
  ⟨0x80828, 1, 0x0, 64, [⟨0, 64, .ro, .fw⟩]⟩,
  -- STEP_STASH_PEAK_HOST
  ⟨0x80830, 1, 0x0, 64, [⟨0, 64, .ro, .fw⟩]⟩,
  -- STEP_STASH_SIZE
  ⟨0x90000, 8192, 0x8, 64, [⟨62, 2, .ro, .fw⟩, ⟨48, 8, .ro, .fw⟩, ⟨0, 41, .ro, .fw⟩]⟩,
  -- STREAM_CTL
  ⟨0x100000, 16384, 0x40, 64, [⟨48, 16, .ro, .chart⟩, ⟨32, 16, .ro, .chart⟩, ⟨24, 8, .ro, .chart⟩, ⟨20, 4, .ro, .chart⟩, ⟨17, 3, .ro, .chart⟩, ⟨16, 1, .ro, .chart⟩, ⟨0, 16, .ro, .chart⟩]⟩,
  -- STREAM_TIME
  ⟨0x100008, 16384, 0x40, 64, [⟨48, 16, .ro, .chart⟩, ⟨0, 40, .ro, .chart⟩]⟩,
  -- STREAM_BIND
  ⟨0x100010, 16384, 0x40, 64, [⟨32, 32, .ro, .chart⟩, ⟨0, 31, .ro, .chart⟩]⟩]

/-- Part 5 of the Register list of R469 with the field maps of its registers. -/
def regRows5 : List RegRow := [
  -- STREAM_RUN
  ⟨0x100018, 16384, 0x40, 64, [⟨56, 8, .ro, .fw⟩, ⟨52, 4, .ro, .fw⟩, ⟨48, 4, .ro, .fw⟩, ⟨32, 16, .ro, .fw⟩, ⟨16, 16, .ro, .fw⟩, ⟨0, 16, .ro, .fw⟩]⟩,
  -- STREAM_LOOP
  ⟨0x100020, 16384, 0x40, 64, [⟨32, 32, .ro, .fw⟩, ⟨16, 16, .ro, .fw⟩, ⟨0, 16, .ro, .fw⟩]⟩,
  -- STREAM_AD0
  ⟨0x100028, 16384, 0x40, 64, [⟨48, 16, .ro, .fw⟩, ⟨0, 48, .ro, .fw⟩]⟩,
  -- STREAM_AD1
  ⟨0x100030, 16384, 0x40, 64, [⟨48, 16, .ro, .fw⟩, ⟨0, 48, .ro, .fw⟩]⟩,
  -- STREAM_DONE
  ⟨0x100038, 16384, 0x40, 64, [⟨0, 40, .ro, .fw⟩]⟩,
  -- HQ_SQ_BASE
  ⟨0x200000, 64, 0x40, 64, [⟨12, 52, .rw, .host⟩]⟩,
  -- HQ_CQ_BASE
  ⟨0x200008, 64, 0x40, 64, [⟨12, 52, .rw, .host⟩]⟩,
  -- HQ_Q_CTRL
  ⟨0x200010, 64, 0x40, 64, [⟨16, 16, .rw, .host⟩, ⟨12, 4, .rw, .host⟩, ⟨8, 4, .rw, .host⟩, ⟨0, 1, .rw, .host⟩]⟩,
  -- HQ_SQ_TAIL
  ⟨0x200018, 64, 0x40, 64, [⟨0, 16, .rw, .host⟩]⟩,
  -- HQ_CQ_HEAD
  ⟨0x200020, 64, 0x40, 64, [⟨0, 16, .rw, .host⟩]⟩,
  -- HQ_Q_STATUS
  ⟨0x200028, 64, 0x40, 64, [⟨48, 16, .ro, .fw⟩, ⟨32, 16, .ro, .fw⟩, ⟨24, 8, .ro, .fw⟩, ⟨0, 4, .ro, .fw⟩]⟩,
  -- HQ_WINDOW
  ⟨0x201000, 1, 0x0, 64, [⟨21, 31, .rw, .host⟩]⟩]

/-- Part 6 of the Register list of R469 with the field maps of its registers. -/
def regRows6 : List RegRow := [
  -- HQ_HDM
  ⟨0x201008, 1, 0x0, 64, [⟨21, 31, .rw, .host⟩]⟩,
  -- HQ_LINK
  ⟨0x201010, 1, 0x0, 64, [⟨32, 8, .ro, .fw⟩, ⟨24, 8, .ro, .fw⟩, ⟨20, 4, .ro, .fw⟩, ⟨7, 1, .ro, .fw⟩, ⟨6, 1, .ro, .fw⟩, ⟨5, 1, .ro, .fw⟩, ⟨4, 1, .ro, .fw⟩, ⟨3, 1, .ro, .fw⟩, ⟨2, 1, .ro, .fw⟩, ⟨0, 1, .ro, .fw⟩]⟩,
  -- HQ_FAR_FAULT
  ⟨0x201018, 1, 0x0, 64, [⟨32, 32, .ro, .fw⟩, ⟨24, 8, .ro, .fw⟩, ⟨15, 1, .wo, .host⟩, ⟨0, 14, .rw, .host⟩]⟩,
  -- HQ_ERR
  ⟨0x201020, 1, 0x0, 64, [⟨32, 32, .ro, .fw⟩, ⟨24, 8, .ro, .fw⟩, ⟨5, 1, .w1c, .host⟩, ⟨4, 1, .w1c, .host⟩, ⟨3, 1, .w1c, .host⟩, ⟨2, 1, .w1c, .host⟩, ⟨1, 1, .w1c, .host⟩, ⟨0, 1, .w1c, .host⟩]⟩,
  -- HQ_RESET_LOG
  ⟨0x201028, 1, 0x0, 64, [⟨32, 32, .ro, .fw⟩, ⟨16, 16, .ro, .fw⟩, ⟨8, 8, .ro, .fw⟩, ⟨0, 8, .ro, .fw⟩]⟩,
  -- MSIX_ADDR
  ⟨0x208000, 2048, 0x10, 64, [⟨0, 64, .rw, .host⟩]⟩,
  -- MSIX_CTRL
  ⟨0x208008, 2048, 0x10, 64, [⟨32, 1, .rw, .host⟩, ⟨0, 32, .rw, .host⟩]⟩,
  -- MSIX_PBA
  ⟨0x210000, 32, 0x8, 64, [⟨0, 64, .ro, .host⟩]⟩,
  -- CXL_COMP
  ⟨0x218000, 8192, 0x8, 64, [⟨0, 64, .rw, .host⟩]⟩,
  -- TIER_STATUS
  ⟨0x300000, 1, 0x0, 64, [⟨48, 8, .ro, .fw⟩, ⟨40, 8, .ro, .fw⟩, ⟨0, 1, .ro, .fw⟩]⟩,
  -- TIER_HOST
  ⟨0x300008, 1, 0x0, 64, [⟨21, 43, .rw, .host⟩]⟩,
  -- TIER_HOST_PAGES
  ⟨0x300010, 1, 0x0, 64, [⟨0, 28, .rw, .host⟩]⟩]

/-- Part 7 of the Register list of R469 with the field maps of its registers. -/
def regRows7 : List RegRow := [
  -- TIER_MAP_OA
  ⟨0x300018, 1, 0x0, 64, [⟨21, 31, .rw, .host⟩]⟩,
  -- TIER_MAP_CTRL
  ⟨0x300020, 1, 0x0, 64, [⟨32, 32, .rw, .host⟩, ⟨28, 4, .rw, .host⟩, ⟨24, 4, .rw, .host⟩, ⟨16, 6, .rw, .host⟩, ⟨1, 1, .rw, .host⟩, ⟨0, 1, .wo, .host⟩]⟩,
  -- TIER_MAP_STATUS
  ⟨0x300028, 1, 0x0, 64, [⟨32, 32, .ro, .fw⟩, ⟨16, 8, .ro, .fw⟩, ⟨0, 1, .ro, .fw⟩]⟩,
  -- TIER_MIGRATE
  ⟨0x300030, 1, 0x0, 64, [⟨32, 32, .ro, .fw⟩, ⟨0, 32, .ro, .fw⟩]⟩,
  -- TIER_POOL
  ⟨0x300038, 1, 0x0, 64, [⟨32, 32, .ro, .fw⟩, ⟨0, 18, .rw, .host⟩]⟩,
  -- TIER_BIAS_CMD
  ⟨0x300040, 1, 0x0, 64, [⟨21, 31, .rw, .host⟩, ⟨8, 8, .ro, .fw⟩, ⟨2, 1, .ro, .fw⟩, ⟨1, 1, .rw, .host⟩, ⟨0, 1, .wo, .host⟩]⟩,
  -- TIER_LOOKUP_OA
  ⟨0x300048, 1, 0x0, 64, [⟨21, 31, .rw, .host⟩]⟩,
  -- TIER_LOOKUP_ENTRY
  ⟨0x300050, 1, 0x0, 64, [⟨62, 2, .ro, .fw⟩, ⟨58, 4, .ro, .fw⟩, ⟨57, 1, .ro, .fw⟩, ⟨56, 1, .ro, .fw⟩, ⟨55, 1, .ro, .fw⟩, ⟨0, 30, .ro, .fw⟩]⟩,
  -- TIER_ERR
  ⟨0x300058, 1, 0x0, 64, [⟨32, 32, .ro, .fw⟩, ⟨24, 8, .ro, .fw⟩, ⟨3, 1, .w1c, .host⟩, ⟨2, 1, .w1c, .host⟩, ⟨1, 1, .w1c, .host⟩, ⟨0, 1, .w1c, .host⟩]⟩,
  -- TIER_PEER
  ⟨0x301000, 64, 0x8, 64, [⟨42, 22, .rw, .host⟩, ⟨1, 22, .rw, .host⟩, ⟨0, 1, .rw, .host⟩]⟩,
  -- TIER_LEND_A
  ⟨0x302000, 32, 0x10, 64, [⟨21, 31, .rw, .host⟩, ⟨0, 21, .rw, .host⟩]⟩,
  -- TIER_LEND_B
  ⟨0x302008, 32, 0x10, 64, [⟨21, 21, .rw, .host⟩, ⟨1, 1, .rw, .host⟩, ⟨0, 1, .rw, .host⟩]⟩]

/-- Part 8 of the Register list of R469 with the field maps of its registers. -/
def regRows8 : List RegRow := [
  -- TIER_BIAS
  ⟨0x310000, 3968, 0x8, 64, [⟨0, 64, .ro, .fw⟩]⟩,
  -- TIER_DIR
  ⟨0x340000, 16384, 0x8, 64, [⟨62, 2, .ro, .fw⟩, ⟨58, 4, .ro, .fw⟩, ⟨57, 1, .ro, .fw⟩, ⟨0, 13, .ro, .fw⟩]⟩,
  -- FTL_STATUS
  ⟨0x380000, 1, 0x0, 64, [⟨32, 8, .ro, .fw⟩, ⟨24, 8, .ro, .fw⟩, ⟨16, 8, .ro, .fw⟩, ⟨0, 4, .ro, .fw⟩]⟩,
  -- FTL_GEOMETRY
  ⟨0x380008, 1, 0x0, 64, [⟨48, 16, .ro, .fw⟩, ⟨32, 16, .ro, .fw⟩, ⟨24, 8, .ro, .fw⟩, ⟨16, 8, .ro, .fw⟩]⟩,
  -- FTL_REGION_SLC
  ⟨0x380010, 1, 0x0, 64, [⟨56, 8, .rw, .host⟩, ⟨0, 32, .rw, .host⟩]⟩,
  -- FTL_REGION_TLC
  ⟨0x380018, 1, 0x0, 64, [⟨56, 8, .rw, .host⟩, ⟨0, 32, .rw, .host⟩]⟩,
  -- FTL_FORMAT
  ⟨0x380020, 1, 0x0, 64, [⟨16, 8, .ro, .fw⟩, ⟨3, 1, .ro, .fw⟩, ⟨1, 1, .rw, .host⟩, ⟨0, 1, .wo, .host⟩]⟩,
  -- FTL_AREA
  ⟨0x380028, 1, 0x0, 64, [⟨32, 32, .ro, .fw⟩, ⟨0, 18, .ro, .fw⟩]⟩,
  -- FTL_COMMIT
  ⟨0x380030, 1, 0x0, 64, [⟨32, 32, .ro, .fw⟩, ⟨0, 32, .ro, .fw⟩]⟩,
  -- FTL_FREE
  ⟨0x380038, 1, 0x0, 64, [⟨32, 32, .ro, .fw⟩, ⟨0, 32, .ro, .fw⟩]⟩,
  -- FTL_DISTURB
  ⟨0x380040, 1, 0x0, 64, [⟨48, 16, .rw, .host⟩, ⟨32, 16, .rw, .host⟩, ⟨0, 32, .ro, .fw⟩]⟩,
  -- FTL_WEAR_SLC
  ⟨0x380048, 1, 0x0, 64, [⟨48, 16, .ro, .fw⟩, ⟨32, 16, .ro, .fw⟩, ⟨16, 16, .ro, .fw⟩, ⟨0, 16, .ro, .fw⟩]⟩]

/-- Part 9 of the Register list of R469 with the field maps of its registers. -/
def regRows9 : List RegRow := [
  -- FTL_WEAR_TLC
  ⟨0x380050, 1, 0x0, 64, [⟨48, 16, .ro, .fw⟩, ⟨32, 16, .ro, .fw⟩, ⟨16, 16, .ro, .fw⟩, ⟨0, 16, .ro, .fw⟩]⟩,
  -- FTL_STEP
  ⟨0x380058, 1, 0x0, 64, [⟨32, 32, .ro, .fw⟩, ⟨16, 16, .ro, .fw⟩, ⟨0, 16, .ro, .fw⟩]⟩,
  -- FTL_ERR
  ⟨0x380060, 1, 0x0, 64, [⟨32, 32, .ro, .fw⟩, ⟨24, 8, .ro, .fw⟩, ⟨5, 1, .w1c, .host⟩, ⟨4, 1, .w1c, .host⟩, ⟨3, 1, .w1c, .host⟩, ⟨2, 1, .w1c, .host⟩, ⟨1, 1, .w1c, .host⟩, ⟨0, 1, .w1c, .host⟩]⟩,
  -- FTL_CH
  ⟨0x381000, 32, 0x8, 64, [⟨48, 16, .ro, .fw⟩, ⟨32, 8, .ro, .fw⟩, ⟨24, 8, .ro, .fw⟩, ⟨0, 4, .ro, .fw⟩]⟩,
  -- CLU_MAP
  ⟨0x400000, 36, 0x1000, 64, [⟨8, 8, .ro, .fw⟩, ⟨0, 4, .ro, .fw⟩]⟩,
  -- CLU_POWER
  ⟨0x400008, 36, 0x1000, 64, [⟨32, 32, .ro, .fw⟩, ⟨0, 2, .ro, .fw⟩]⟩,
  -- CLU_SEGMENT
  ⟨0x400010, 36, 0x1000, 64, [⟨48, 16, .ro, .fw⟩, ⟨32, 16, .ro, .fw⟩, ⟨16, 16, .ro, .fw⟩, ⟨8, 8, .ro, .fw⟩, ⟨2, 1, .ro, .fw⟩, ⟨1, 1, .ro, .fw⟩, ⟨0, 1, .ro, .fw⟩]⟩,
  -- CLU_BUSY
  ⟨0x400018, 36, 0x1000, 64, [⟨0, 64, .ro, .fw⟩]⟩,
  -- CLU_SEGMENTS
  ⟨0x400020, 36, 0x1000, 64, [⟨0, 64, .ro, .fw⟩]⟩,
  -- CLU_ERR
  ⟨0x400028, 36, 0x1000, 64, [⟨24, 8, .ro, .fw⟩, ⟨2, 1, .w1c, .host⟩, ⟨1, 1, .w1c, .host⟩, ⟨0, 1, .w1c, .host⟩]⟩,
  -- SKEIN_MAP
  ⟨0x480000, 72, 0x100, 64, [⟨8, 8, .ro, .fw⟩, ⟨0, 4, .ro, .fw⟩]⟩,
  -- SKEIN_ENC
  ⟨0x480008, 72, 0x100, 64, [⟨0, 64, .ro, .fw⟩]⟩]

/-- Part 10 of the Register list of R469 with the field maps of its registers. -/
def regRows10 : List RegRow := [
  -- SKEIN_DEC
  ⟨0x480010, 72, 0x100, 64, [⟨0, 64, .ro, .fw⟩]⟩,
  -- SKEIN_CTX
  ⟨0x480018, 72, 0x100, 64, [⟨32, 14, .ro, .fw⟩, ⟨16, 14, .ro, .fw⟩, ⟨4, 3, .ro, .fw⟩, ⟨0, 3, .ro, .fw⟩]⟩,
  -- SKEIN_ERR
  ⟨0x480020, 72, 0x100, 64, [⟨32, 32, .ro, .fw⟩, ⟨24, 8, .ro, .fw⟩, ⟨2, 1, .w1c, .host⟩, ⟨1, 1, .w1c, .host⟩, ⟨0, 1, .w1c, .host⟩]⟩,
  -- EXP_STAT
  ⟨0x488000, 144, 0x40, 64, [⟨32, 32, .ro, .fw⟩, ⟨8, 8, .ro, .fw⟩, ⟨0, 4, .ro, .fw⟩]⟩,
  -- EXP_ERR
  ⟨0x488008, 144, 0x40, 64, [⟨32, 32, .ro, .fw⟩, ⟨24, 8, .ro, .fw⟩, ⟨1, 1, .w1c, .host⟩, ⟨0, 1, .w1c, .host⟩]⟩,
  -- SKEIN_WALK
  ⟨0x48C000, 1, 0x0, 64, [⟨32, 32, .ro, .fw⟩, ⟨0, 32, .ro, .fw⟩]⟩,
  -- CDP_STATUS
  ⟨0x500000, 4, 0x1000, 64, [⟨32, 16, .ro, .fw⟩, ⟨24, 8, .ro, .fw⟩, ⟨16, 8, .ro, .fw⟩, ⟨0, 4, .ro, .fw⟩]⟩,
  -- CDP_PEER_ID
  ⟨0x500008, 4, 0x1000, 64, [⟨0, 64, .ro, .fw⟩]⟩,
  -- CDP_CREDIT
  ⟨0x500010, 4, 0x1000, 64, [⟨48, 16, .ro, .fw⟩, ⟨32, 16, .ro, .fw⟩, ⟨0, 10, .ro, .fw⟩]⟩,
  -- CDP_CTRL
  ⟨0x500018, 4, 0x1000, 64, [⟨32, 10, .rw, .host⟩, ⟨2, 1, .rw, .host⟩, ⟨1, 1, .wo, .host⟩, ⟨0, 1, .rw, .host⟩]⟩,
  -- CDP_MODMAP
  ⟨0x500020, 4, 0x1000, 64, [⟨32, 4, .ro, .fw⟩, ⟨0, 32, .ro, .fw⟩]⟩,
  -- CDP_TRAFFIC_OUT
  ⟨0x500028, 4, 0x1000, 64, [⟨0, 64, .ro, .fw⟩]⟩]

/-- Part 11 of the Register list of R469 with the field maps of its registers. -/
def regRows11 : List RegRow := [
  -- CDP_TRAFFIC_IN
  ⟨0x500030, 4, 0x1000, 64, [⟨0, 64, .ro, .fw⟩]⟩,
  -- CDP_RESET_LOG
  ⟨0x500038, 4, 0x1000, 64, [⟨32, 32, .ro, .fw⟩, ⟨16, 16, .ro, .fw⟩, ⟨8, 8, .ro, .fw⟩, ⟨0, 8, .ro, .fw⟩]⟩,
  -- CDP_ERR
  ⟨0x500040, 4, 0x1000, 64, [⟨32, 32, .ro, .fw⟩, ⟨24, 8, .ro, .fw⟩, ⟨5, 1, .w1c, .host⟩, ⟨4, 1, .w1c, .host⟩, ⟨3, 1, .w1c, .host⟩, ⟨2, 1, .w1c, .host⟩, ⟨1, 1, .w1c, .host⟩, ⟨0, 1, .w1c, .host⟩]⟩,
  -- HBM_STACK
  ⟨0x580000, 8, 0x8, 64, [⟨56, 8, .ro, .fw⟩, ⟨32, 16, .ro, .fw⟩, ⟨13, 1, .ro, .fw⟩, ⟨8, 5, .ro, .fw⟩, ⟨0, 4, .ro, .fw⟩]⟩,
  -- FAULT_STATUS
  ⟨0x600000, 1, 0x0, 64, [⟨32, 32, .ro, .fw⟩, ⟨24, 8, .ro, .fw⟩, ⟨16, 6, .ro, .fw⟩, ⟨8, 8, .ro, .fw⟩, ⟨2, 1, .ro, .fw⟩, ⟨1, 1, .ro, .fw⟩, ⟨0, 1, .ro, .fw⟩]⟩,
  -- FAULT_LAST
  ⟨0x600008, 1, 0x0, 64, [⟨32, 32, .ro, .fw⟩, ⟨16, 16, .ro, .fw⟩, ⟨0, 16, .ro, .fw⟩]⟩,
  -- FAULT_MEND
  ⟨0x600010, 1, 0x0, 64, [⟨32, 32, .ro, .fw⟩, ⟨16, 16, .rw, .host⟩, ⟨8, 8, .ro, .fw⟩, ⟨3, 1, .ro, .fw⟩, ⟨2, 1, .rw, .host⟩, ⟨0, 1, .wo, .host⟩]⟩,
  -- FAULT_LOG_PTR
  ⟨0x600018, 1, 0x0, 64, [⟨32, 32, .ro, .fw⟩, ⟨16, 12, .ro, .fw⟩, ⟨0, 12, .rw, .host⟩]⟩,
  -- FAULT_MARKS
  ⟨0x600020, 1, 0x0, 64, [⟨32, 32, .ro, .fw⟩, ⟨0, 32, .ro, .fw⟩]⟩,
  -- LEDGER_LAST
  ⟨0x600100, 4, 0x8, 64, [⟨32, 32, .ro, .fw⟩, ⟨0, 32, .ro, .fw⟩]⟩,
  -- LEDGER_STATUS
  ⟨0x600140, 1, 0x0, 64, [⟨32, 32, .ro, .fw⟩, ⟨24, 8, .ro, .fw⟩, ⟨4, 4, .ro, .fw⟩, ⟨0, 1, .ro, .fw⟩]⟩,
  -- FAULT_UNIT
  ⟨0x610000, 272, 0x8, 64, [⟨48, 16, .ro, .fw⟩, ⟨40, 8, .ro, .fw⟩, ⟨16, 16, .ro, .fw⟩, ⟨0, 4, .ro, .fw⟩]⟩]

/-- Part 12 of the Register list of R469 with the field maps of its registers. -/
def regRows12 : List RegRow := [
  -- FAULT_UNIT
  ⟨0x611000, 256, 0x8, 64, [⟨48, 16, .ro, .fw⟩, ⟨40, 8, .ro, .fw⟩, ⟨16, 16, .ro, .fw⟩, ⟨0, 4, .ro, .fw⟩]⟩,
  -- FAULT_UNIT
  ⟨0x611800, 36, 0x8, 64, [⟨48, 16, .ro, .fw⟩, ⟨40, 8, .ro, .fw⟩, ⟨16, 16, .ro, .fw⟩, ⟨0, 4, .ro, .fw⟩]⟩,
  -- FAULT_UNIT
  ⟨0x611A00, 5, 0x8, 64, [⟨48, 16, .ro, .fw⟩, ⟨40, 8, .ro, .fw⟩, ⟨16, 16, .ro, .fw⟩, ⟨0, 4, .ro, .fw⟩]⟩,
  -- FAULT_LOG_W0
  ⟨0x640000, 4096, 0x20, 64, [⟨0, 64, .ro, .fw⟩]⟩,
  -- FAULT_LOG_W1
  ⟨0x640008, 4096, 0x20, 64, [⟨32, 32, .ro, .fw⟩, ⟨24, 8, .ro, .fw⟩, ⟨16, 8, .ro, .fw⟩, ⟨0, 16, .ro, .fw⟩]⟩,
  -- FAULT_LOG_W2
  ⟨0x640010, 4096, 0x20, 64, [⟨32, 32, .ro, .fw⟩, ⟨0, 32, .ro, .fw⟩]⟩,
  -- FAULT_LOG_W3
  ⟨0x640018, 4096, 0x20, 64, [⟨0, 64, .ro, .fw⟩]⟩,
  -- GAUGE_CTRL
  ⟨0x680000, 1, 0x0, 64, [⟨32, 32, .ro, .fw⟩, ⟨1, 1, .ro, .fw⟩, ⟨0, 1, .wo, .host⟩]⟩,
  -- GAUGE_CUM
  ⟨0x681000, 256, 0x8, 64, [⟨0, 64, .ro, .fw⟩]⟩,
  -- GAUGE_LAST
  ⟨0x682000, 256, 0x8, 64, [⟨0, 64, .ro, .fw⟩]⟩,
  -- IDLE_CTRL
  ⟨0x700000, 1, 0x0, 64, [⟨32, 32, .ro, .fw⟩, ⟨1, 1, .ro, .fw⟩, ⟨0, 1, .wo, .host⟩]⟩,
  -- IDLE_LAST
  ⟨0x700100, 8, 0x8, 64, [⟨0, 64, .ro, .fw⟩]⟩]

/-- Part 13 of the Register list of R469 with the field maps of its registers. -/
def regRows13 : List RegRow := [
  -- IDLE_CUM
  ⟨0x700180, 8, 0x8, 64, [⟨0, 64, .ro, .fw⟩]⟩,
  -- TENSION_CTRL
  ⟨0x708000, 1, 0x0, 64, [⟨32, 32, .ro, .fw⟩, ⟨1, 1, .ro, .fw⟩, ⟨0, 1, .wo, .host⟩]⟩,
  -- TENSION_LAST
  ⟨0x708100, 16, 0x8, 64, [⟨0, 64, .ro, .fw⟩]⟩,
  -- TENSION_CUM
  ⟨0x708180, 16, 0x8, 64, [⟨0, 64, .ro, .fw⟩]⟩,
  -- TENSION_PEAK
  ⟨0x708200, 16, 0x8, 64, [⟨32, 32, .ro, .fw⟩, ⟨0, 32, .ro, .fw⟩]⟩,
  -- SYNC_CONFIG
  ⟨0x780000, 1, 0x0, 64, [⟨48, 16, .rw, .host⟩, ⟨32, 4, .rw, .host⟩, ⟨16, 6, .rw, .host⟩, ⟨0, 7, .rw, .host⟩]⟩,
  -- SYNC_CTRL
  ⟨0x780008, 1, 0x0, 64, [⟨4, 1, .ro, .fw⟩, ⟨3, 1, .rw, .host⟩, ⟨2, 1, .wo, .host⟩, ⟨1, 1, .wo, .host⟩, ⟨0, 1, .wo, .host⟩]⟩,
  -- SYNC_LOAD
  ⟨0x780010, 1, 0x0, 64, [⟨0, 64, .rw, .host⟩]⟩,
  -- SYNC_LAUNCH
  ⟨0x780018, 1, 0x0, 64, [⟨0, 64, .rw, .host⟩]⟩,
  -- SYNC_STATUS
  ⟨0x780020, 1, 0x0, 64, [⟨32, 16, .ro, .fw⟩, ⟨24, 8, .ro, .fw⟩, ⟨12, 4, .ro, .fw⟩, ⟨11, 1, .ro, .fw⟩, ⟨10, 1, .ro, .fw⟩, ⟨9, 1, .ro, .fw⟩, ⟨8, 1, .ro, .fw⟩, ⟨0, 4, .ro, .fw⟩]⟩,
  -- SYNC_CLOCK
  ⟨0x780028, 1, 0x0, 64, [⟨32, 32, .ro, .fw⟩, ⟨16, 16, .ro, .fw⟩, ⟨0, 16, .ro, .fw⟩]⟩,
  -- SYNC_BARRIER
  ⟨0x780030, 1, 0x0, 64, [⟨21, 31, .rw, .host⟩, ⟨0, 21, .rw, .host⟩]⟩]

/-- Part 14 of the Register list of R469 with the field maps of its registers. -/
def regRows14 : List RegRow := [
  -- SYNC_ERR
  ⟨0x780038, 1, 0x0, 64, [⟨32, 32, .ro, .fw⟩, ⟨24, 8, .ro, .fw⟩, ⟨6, 1, .w1c, .host⟩, ⟨5, 1, .w1c, .host⟩, ⟨4, 1, .w1c, .host⟩, ⟨3, 1, .w1c, .host⟩, ⟨2, 1, .w1c, .host⟩, ⟨1, 1, .w1c, .host⟩, ⟨0, 1, .w1c, .host⟩]⟩]

/-- The Register list of R469. An offset that no row covers is reserved (R468). -/
def regRows : List RegRow :=
  regRows0 ++ regRows1 ++ regRows2 ++ regRows3 ++ regRows4 ++ regRows5 ++ regRows6 ++ regRows7 ++ regRows8 ++ regRows9 ++ regRows10 ++ regRows11 ++ regRows12 ++ regRows13 ++ regRows14

/-- Whether a row holds the register at byte offset `off`. -/
def RegRow.holds (r : RegRow) (off : Nat) : Bool :=
  decide (r.base ≤ off) && (if r.stride = 0 then off == r.base
    else (off - r.base) % r.stride == 0 && decide ((off - r.base) / r.stride < r.count))

/-- The register at a byte offset that is a multiple of 8 (R468). -/
def findReg (off : Nat) : Option RegRow := regRows.find? (·.holds off)

/-- Reset values other than zero (R472), by cell. Fused values are those of KN40-F (log entry 2), CRIT_C is fused at 110 (R461), and at T0 every supply is good (R437); the other measured values, boot-image
and profile values read zero until their event writes them (R472). -/
def resetOf (k : Nat) : Nat :=
  if k = 0x0 * 64 + 16 then 19264 -- GLB_ID_DEVICE
  else if k = 0x0 * 64 + 12 then 2 -- GLB_ID_STEPPING
  else if k = 0x0 * 64 + 8 then 1 -- GLB_ID_GRADE
  else if k = 0x0 * 64 + 0 then 32 -- GLB_ID_LCLUSTERS
  else if k = 0x10000 * 64 + 56 then 1 -- BOOT_STATUS_REASON_A
  else if k = 0x10000 * 64 + 48 then 1 -- BOOT_STATUS_REASON_B
  else if k = 0x10000 * 64 + 40 then 15 -- BOOT_STATUS_SLOT
  else if k = 0x20000 * 64 + 0 then 1 -- PWR_STATE_STATE
  else if k = 0x20010 * 64 + 0 then 511 -- PWR_SUPPLY_GOOD
  else if k = 0x20018 * 64 + 48 then 800 -- PWR_AVS_REQ_MV
  else if k = 0x20030 * 64 + 16 then 110 -- PWR_THERM_CFG_CRIT_C
  else if k = 0x80110 * 64 + 0 then 16 -- STEP_SCALE_EXP
  else if k = 0x80118 * 64 + 8 then 16 -- STEP_SCALE_SET_EXP
  else if k = 0x80120 * 64 + 32 then 2000 -- STEP_SCALE_CFG_GROWTH
  else if k = 0x80120 * 64 + 8 then 24 -- STEP_SCALE_CFG_MAX
  else if k = 0x780000 * 64 + 48 then 64 -- SYNC_CONFIG_FLAG_RTT
  else if k = 0x780000 * 64 + 32 then 3 -- SYNC_CONFIG_LAT
  else if k = 0x780000 * 64 + 0 then 1 -- SYNC_CONFIG_DEVICES
  else if 0x200010 * 64 + 16 ≤ k ∧ (k - (0x200010 * 64 + 16)) % (0x40 * 64) = 0 ∧ (k - (0x200010 * 64 + 16)) / (0x40 * 64) < 64 then 65535 -- HQ_Q_CTRL_VECTOR
  else if 0x200010 * 64 + 12 ≤ k ∧ (k - (0x200010 * 64 + 12)) % (0x40 * 64) = 0 ∧ (k - (0x200010 * 64 + 12)) / (0x40 * 64) < 64 then 1 -- HQ_Q_CTRL_SQ_LOG2
  else if 0x200010 * 64 + 8 ≤ k ∧ (k - (0x200010 * 64 + 8)) % (0x40 * 64) = 0 ∧ (k - (0x200010 * 64 + 8)) / (0x40 * 64) < 64 then 1 -- HQ_Q_CTRL_CQ_LOG2
  else if 0x208008 * 64 + 32 ≤ k ∧ (k - (0x208008 * 64 + 32)) % (0x10 * 64) = 0 ∧ (k - (0x208008 * 64 + 32)) / (0x10 * 64) < 2048 then 1 -- MSIX_CTRL_MASK
  else if 0x500010 * 64 + 0 ≤ k ∧ (k - (0x500010 * 64 + 0)) % (0x1000 * 64) = 0 ∧ (k - (0x500010 * 64 + 0)) / (0x1000 * 64) < 4 then 32 -- CDP_CREDIT_PACE_CREDITS
  else if 0x500018 * 64 + 32 ≤ k ∧ (k - (0x500018 * 64 + 32)) % (0x1000 * 64) = 0 ∧ (k - (0x500018 * 64 + 32)) / (0x1000 * 64) < 4 then 32 -- CDP_CTRL_PACE_CREDITS
  else if 0x500018 * 64 + 0 ≤ k ∧ (k - (0x500018 * 64 + 0)) % (0x1000 * 64) = 0 ∧ (k - (0x500018 * 64 + 0)) / (0x1000 * 64) < 4 then 1 -- CDP_CTRL_ENABLE
  else 0

end Sys2Proof.Machine
end

