-- ==== Sys2Proof/Machine/SMap.lean ====
section
/-! DEFINITION. Machine/SMap.lean: sparse maps from numbers to values, as lists of pairs in one canonical form: keys
strictly rising and no pair whose value equals what an unlisted key reads as. -/

namespace Sys2Proof.Machine

variable {α : Type}

/-- The value at a key: the listed one, else the default of that key. -/
def SMap.get (d : Nat → α) : List (Nat × α) → Nat → α
  | [], k => d k
  | (j, v) :: t, k => if j = k then v else SMap.get d t k

/-- The list without a key. -/
def SMap.del (l : List (Nat × α)) (k : Nat) : List (Nat × α) := l.filter (fun p => decide (p.1 ≠ k))

/-- A pair put in front of the first greater key. -/
def SMap.ins (k : Nat) (v : α) : List (Nat × α) → List (Nat × α)
  | [] => [(k, v)]
  | (j, w) :: t => if k < j then (k, v) :: (j, w) :: t else (j, w) :: SMap.ins k v t

/-- The map with one key rewritten; writing the default removes the pair. -/
def SMap.put [DecidableEq α] (d : Nat → α) (l : List (Nat × α)) (k : Nat) (v : α) : List (Nat × α) :=
  if v = d k then SMap.del l k else SMap.ins k v (SMap.del l k)

/-- The canonical form: keys strictly rising, no default listed. -/
def SMap.wf [DecidableEq α] (d : Nat → α) : List (Nat × α) → Bool
  | [] => true
  | [(k, v)] => decide (v ≠ d k)
  | (k, v) :: (j, w) :: t => decide (v ≠ d k) && decide (k < j) && SMap.wf d ((j, w) :: t)

/-- A strictly rising list of numbers as a set: membership put in or taken out. -/
def NSet.ins (k : Nat) : List Nat → List Nat
  | [] => [k]
  | j :: t => if k = j then j :: t else if k < j then k :: j :: t else j :: NSet.ins k t

/-- A number taken out of a rising list. -/
def NSet.del (k : Nat) (l : List Nat) : List Nat := l.filter (fun j => decide (j ≠ k))

end Sys2Proof.Machine
end

