-- ==== Sys2Proof/Machine/State.lean ====
section
/-! DEFINITION. Machine/State.lean: everything the spec gives the block, as plain data. Register fields are the cells of
`regs`; memory, maps, queues and the progress that the spec's rules track but no register shows have fields of their own. -/

namespace Sys2Proof.Machine

/-- Why a command stops the block. -/
inductive Fault where
  /-- Raised by RST_N_LOW for a pulse of 100 ns to 1 us, whose outcome R438 leaves undefined. Safe: the model stops. -/
  | rstPulseUndefined
  deriving DecidableEq, Repr

/-- Why the model refuses a command. -/
inductive Refusal where
  /-- A command whose meaning is not written. Safe: the model stops. -/
  | notModelled (mnemonic : String)
  deriving DecidableEq, Repr

/-- A byte with its mark (R428): `true` when the granule it was taken from is marked bad. -/
abbrev MByte := Byte × Bool

/-- A chart image (R59 to R68): header and directory, the sixteen sections as byte strings, and their directory COUNTs. -/
structure Chart where
  hdr  : List Byte
  secs : List (List Byte)
  cnts : List Nat
  deriving DecidableEq, Repr

/-- A pending chart or variant commit (R74 to R78): its variant index, the step number whose bind-off it targets, `none` for a chart
held in IDLE or HOLD and for a variant of the next launch, and whether it is held NOT_DRAINED. -/
structure PendCommit where
  index  : Nat
  target : Option Nat
  held   : Bool
  deriving DecidableEq, Repr

/-- The chart block beyond its registers: installed and staged charts, the image in the staging area, the length of the load under
way, pending commits of both kinds, oldest request first. -/
structure ChartSt where
  active   : Option Chart
  staged   : Option Chart
  image    : List Byte
  loadBytes : Nat
  commits  : List PendCommit
  variants : List PendCommit
  deriving DecidableEq, Repr

/-- A swatch request (R30 to R36): program and the step number whose bind-off it follows, `none` when it waits for a launch. -/
structure SwatchReq where
  prog   : Nat
  target : Option Nat
  deriving DecidableEq, Repr

/-- The variant agreement of R54: next round, whether this device still contends, the bits agreed so far, its wish, and the rounds and
the flag settle of the step that began it. -/
structure Agreement where
  round   : Nat
  contend : Bool
  agreed  : Nat
  wish    : Nat
  rounds  : Nat
  settle  : Nat
  deriving DecidableEq, Repr

/-- A learning-rate write (R334): the value and the step it first applies to; `relative` counts steps from a launch. -/
structure LrWrite where
  value    : Nat
  step     : Nat
  relative : Bool
  deriving DecidableEq, Repr

/-- The step lifecycle beyond its registers (R16 to R38, R51 to R54, R325 to R334): slip; whether the end of reserve has passed;
whether the sampled verdict is finite; what the boundary still owes (audit, decisions, figures); an imbalance found; the number of the last step; a thermal HOLD
pending; an emergency; swatch requests, the swatch running with its counts, the one that runs next; the step whose bind-off a STOP
targets; the agreement; the phase before ARMED; whether the launch count has passed; whether a chart was installed in this boundary;
whether OPT_SET waits for a launch; the steps of the last skip and growth; the chart seed in force; learning-rate writes; clears
that wait for the bind-off; HOST_PER_32 of the last schedule set that ran (R236). -/
structure StepSt where
  slip        : Nat
  reserveOver : Bool
  finite      : Bool
  auditDue    : Bool
  decideDue   : Bool
  figDue      : Bool
  ledgerBad   : Bool
  lastStep    : Nat
  thermalPend : Bool
  emergency   : Bool
  swatches    : List SwatchReq
  swatchRun   : Option Nat
  swatchStart : Nat
  swatchEnd   : Nat
  swatchNext  : Option Nat
  stopAt      : Option Nat
  agreement   : Option Agreement
  prevPhase   : Nat
  launched    : Bool
  installed   : Bool
  setOpt      : Bool
  lastSkip    : Nat
  lastGrowth  : Nat
  seed        : Nat
  lrs         : List LrWrite
  clearGauge  : Bool
  clearTension : Bool
  clearIdle   : Bool
  hostPer     : Nat
  deriving DecidableEq, Repr

/-- One stash instance as this step left it (R44 to R50): tensor identity, micro-batch, home and spill tiers, bytes stored in each,
encoded length so far, whether the skein header is stored and how many whole blocks, whether blocks now go to spill, whether one
overflowed, whether its encoding finished with clean input, whether its space is released. -/
structure StashInst where
  tid    : Nat
  mb     : Nat
  tier   : Nat
  stier  : Nat
  home   : Nat
  spill  : Nat
  enc    : Nat
  hdr    : Bool
  blocks : Nat
  out    : Bool
  overflow : Bool
  whole  : Bool
  freed  : Bool
  deriving DecidableEq, Repr

/-- The stash of the running step: instances, and per tier the largest bytes held at once, bytes written and bytes released. -/
structure StashSt where
  insts   : List StashInst
  peak    : List Nat
  written : List Nat
  freed   : List Nat
  deriving DecidableEq, Repr

/-- SYNC beyond its registers (R387 to R411): the row at which a sampled release loads the counter, the count it loaded last, the row of the
last EPOCH sampled, a LEADER bit that waits, the count of the last EPOCH driven, the row since which the reference is clean, whether a
bind-off has passed since the last EPOCH, and whether one has passed after 2^20 clean ticks. -/
structure SyncSt where
  loadAt      : Option Nat
  releasedAt  : Nat
  lastEpoch   : Option Int
  leaderNew   : Option Bool
  lastEmit    : Option Nat
  goodSince   : Int
  boundSince  : Bool
  cleanBound  : Bool
  deriving DecidableEq, Repr

/-- A mend under R427: unit, RESTORE, and the step at whose bind-off it applies, `none` until its self-test has ended. -/
structure Mend where
  unit    : Nat
  restore : Bool
  target  : Option Nat
  deriving DecidableEq, Repr

/-- The channel copy of R423: retiring physical channel, the stack's spare, and whether it has finished. -/
structure ChanCopy where
  src  : Nat
  dst  : Nat
  done : Bool
  deriving DecidableEq, Repr

/-- Faults and spares beyond their registers (R413 to R435), units named by their 16-bit code (R416): corrected errors of the window by
unit, units retiring, stand-ins of the step, mends, the last place of each unit, channel copies, channels whose bytes are lost, the
granules of them that a write has mended (channel * 2^20 + place), channels to replace at a bind-off, places unserved, the pause asked
for, the end of the pause under way, whether plan time waits for a member of a barrier, the row at which the pause began, lockstep pairs with
one mismatch, marked granules of live objects that are counted, and control-core places whose spare joins at a bind-off. -/
structure FaultSt where
  ce         : List (Nat × Nat)
  retiring   : List Nat
  standIns   : List Nat
  mends      : List Mend
  lastPlace  : List (Nat × Nat)
  copies     : List ChanCopy
  lost       : List Nat
  lostClear  : List Nat
  lossDue    : List Nat
  unserved   : List Nat
  pauseWant  : Nat
  pauseEnd   : Option Nat
  peerPause  : Bool
  pauseFrom  : Nat
  mismatched : List Nat
  liveMarks  : List Nat
  joins      : List Nat
  deriving DecidableEq, Repr

/-- One pool of a ledger as the snapshot of R432 found it: ledger, pool, items counted, difference. -/
structure Pool where
  ledger : Nat
  pool   : Nat
  moved  : Nat
  diff   : Int
  deriving DecidableEq, Repr

/-- The four ledgers of R431, counted apart from the units: what each pool of items has taken up and given back (die credits by port and
class, pace credits by line, host-link read space, port buffers, ring slots), blocks, skein contexts and held add-writes taken up and
released, streams restored and ended, barrier arrivals registered and applied, spill bytes; the last snapshot. -/
structure LedgerSt where
  took    : List (Nat × Nat)
  gave    : List (Nat × Nat)
  blkIn   : Nat
  blkOut  : Nat
  skIn    : Nat
  skOut   : Nat
  addIn   : Nat
  addOut  : Nat
  strmIn  : Nat
  strmOut : Nat
  barIn   : Nat
  barOut  : Nat
  spill   : Nat
  snap    : List Pool
  deriving DecidableEq, Repr

/-- Power, boot and heat beyond their registers (R436 to R467). `critHold` is the bind-off count up to which an emergency or a critical
cut holds FLAG_OUT raised; runs count consecutive samples at or above a threshold, sensor by sensor. -/
structure PowerSt where
  off        : Bool
  rstLow     : Bool
  badSupply  : List Nat
  booting    : Bool
  bootCause  : Nat
  t0         : Nat
  imageDone  : Bool
  trainDone  : Bool
  fwLoaded   : Bool
  bootMap    : List Byte
  factoryMap : List Byte
  fwKeys     : List (List Byte)
  devKeys    : List (List Byte)
  burns      : List Nat
  tripRun    : List Nat
  emergRun   : List Nat
  critRun    : List Nat
  temps      : List Int
  critHold   : Option Nat
  readyFclk  : Nat
  profile    : List Byte
  identity   : List Byte
  trims      : List Byte
  defPace    : Nat
  awake      : List Nat
  waking     : List Nat
  deriving DecidableEq, Repr

/-- A page in migration (R271): OA page, source and target DA pages, the count at which it started. -/
structure Mig where
  page   : Nat
  src    : Nat
  target : Nat
  row    : Nat
  deriving DecidableEq, Repr

/-- What waits for PEER slots (R278, R396): kind (0 a neighbour's read, 1 write, 2 AtomicOp; 3 a member's announcement, 4 one to member
`op`), aperture offset or, of an announcement, offset in the barrier table, bytes, data of a write and whether it came poisoned, AtomicOp code
and its operands or the generation announced, the tick of plan time by which PEER slots have carried it. -/
structure PeerReq where
  kind    : Nat
  off     : Nat
  len     : Nat
  data    : List Byte
  poison  : Bool
  op      : Nat
  operand : Nat
  compare : Nat
  due     : Option Nat
  deriving DecidableEq, Repr

/-- The tiers beyond their registers (R255 to R283): level-2 entries (table * 131072 + index), map-memory entries in error (a
directory index, or 2^20 + table * 131072 + index), pages of a running TIER_MAP command, request counters, the migration queue (page,
target), the pages in migration, whether a bind-off's pass is due, a bias change and the work of host-opened streams that was in flight
when a change to host bias began (context, place in its order), lines the host holds oldest first,
lines whose back-invalidation is not answered, live pages whose select bit is set, live pages written in the step, requests of
neighbours that wait, oldest first, and what neighbours and migration have taken of their slots in this plan. -/
structure TierSt where
  tables   : List (Nat × Nat)
  badEnt   : List Nat
  cmd      : Option Nat
  counts   : List (Nat × Nat)
  queue    : List (Nat × Nat)
  migTo    : List Mig
  passDue  : Bool
  biasCmd  : Option (Nat × Bool)
  biasOld  : List (Nat × Nat)
  lines    : List Nat
  waitLine : List Nat
  sel      : List Nat
  dirty    : List Nat
  peers    : List PeerReq
  used     : List (Nat × Nat)
  deriving DecidableEq, Repr

/-- A block in flight of a stream (R196, R205, R208): its place in the stream's order, the PC of its instruction, addresses, opcode
(INLINE or MOVE), skein kind; bytes that far tiers have supplied and how many were asked of them; whether its bytes are in hand; bytes
already carried to a port, with their marks; the tick of plan time by which its slots have carried it; the pieces asked of far tiers, by
OA and length, in the order they were asked for. -/
structure Block where
  seq   : Nat
  pc    : Nat
  op    : Nat
  src   : Nat
  dst   : Nat
  len   : Nat
  mb    : Nat
  skein : Bool
  data  : List MByte
  owed  : Nat
  inHand : Bool
  out   : List MByte
  due   : Nat
  asked : List (Nat × Nat)
  deriving DecidableEq, Repr

/-- The skein a MOVEX has in hand (R207): direction (0 pack, 1 unpack), parameters of instruction and entry, next block, coded
bytes so far, header done, what is left lost; Cyloth-A's header word, the groups that its decode store holds marked, the frames its encode
store has taken and decided, and the image of a store that lies neither in HBM nor on-die; engine slots used, and the logical engine on
which its context is open; bytes that far tiers have supplied for the next block and how many they owe; bytes for the check value; its place in the
stream's order; the stash instance it writes or reads; the pieces asked of far tiers for the next block, in the order they were asked
for. -/
structure SkeinCtx where
  dir     : Nat
  profile : Nat
  width   : Nat
  pword   : Nat
  src     : Nat
  dst     : Nat
  len     : Nat
  mb      : Nat
  ref     : Nat
  seq     : Nat
  block   : Nat
  coded   : Nat
  headed  : Bool
  lost    : Bool
  marked  : Bool
  refKind : Nat
  base    : Nat
  bad     : List Nat
  landed  : Nat
  image   : List MByte
  slots   : Nat
  eng     : Option Nat
  have_   : List MByte
  owed    : Nat
  out     : List Byte
  stash   : Option (Nat × Nat)
  asked   : List (Nat × Nat)
  deriving DecidableEq, Repr

/-- A stream context beyond its registers (R195 to R229): a host stream's program and list; blocks in flight; the order of the check
value; the skein in hand; far sides written since the start and since the last FENCE (0 host, 1 + j peer j, 100 + p port p) and
confirmations awaited; barrier arrivals by ID; the status address and vector an OPEN gave; bytes of the last MOVE not yet written and the place of its first block in the order; whether it wrote into a HOST pair; the register cells an OPEN replaced, by their place in the context;
flash units written; what it has taken of the slots of each resource in this plan (R234). -/
structure StreamX where
  prog     : List Byte
  list     : List Byte
  host     : Bool
  ran      : Bool
  blocks   : List Block
  nextSeq  : Nat
  crcSeq   : Nat
  held     : List (Nat × List Byte)
  sk       : Option SkeinCtx
  far      : List (Nat × Nat)
  pend     : List Nat
  confirm  : List Nat
  arrivals : List (Nat × Nat)
  startAt  : Nat
  status   : Nat
  vector   : Nat
  residue  : Nat
  moveSeq  : Nat
  hand     : Bool
  saved    : List (Nat × Nat)
  flash    : List Nat
  used     : List (Nat × Nat)
  deriving DecidableEq, Repr

/-- A context that has never run. -/
def StreamX.fresh : StreamX :=
  ⟨[], [], false, false, [], 0, 0, [], none, [], [], [], [], 0, 0, 0xFFFF, 0, 0, false, [], [], []⟩


/-- What leaves the block: messages on the host link, the ports, MGMT and the SYNC wire, oldest first. -/
inductive Sent where
  /-- An MSI-X write of a vector (R383). -/
  | msix (vec addr data : Nat)
  /-- One posted write to a bus address, host memory or a peer's aperture, with its RO attribute (R372). -/
  | busWrite (addr : Nat) (data : List MByte) (ro : Bool)
  /-- A non-posted read of a bus address for a stream's block; length zero is the confirming read of R218. -/
  | busRead (ctx seq addr len : Nat)
  /-- A message to the compute die on a port: kind code, tag or target, address or value, payload (R338 on). -/
  | kpp (port kind tag addr : Nat) (data : List MByte)
  /-- Eight high samples on SYNC_OUT (R387). -/
  | syncRelease
  /-- One high sample on SYNC_OUT (R387). -/
  | syncEpoch
  /-- An in-band interrupt on MGMT with its data byte (R466). -/
  | inBand (byte : Nat)
  /-- The answer to a read over MGMT, BAR0, BAR2, a lend aperture or CXL.mem. -/
  | answer (data : List MByte)
  /-- A 64-bit FetchAdd to a peer semaphore (R215, R376). -/
  | busAdd (addr val : Nat)
  /-- A request answered as unsupported on the host link. -/
  | unsupported
  /-- A configuration request answered with Request Retry Status (R381). -/
  | retry
  /-- An AtomicOp that is not aligned completes with Completer Abort (R366). -/
  | completerAbort
  /-- Cmp: the answer to a CXL.mem write (R375). -/
  | cmp
  /-- The answer to an H2D snoop (R375). -/
  | snoopMiss
  /-- A back-invalidation of a host-held line (R280). -/
  | backInvalidate (line : Nat)
  deriving DecidableEq, Repr

/-- A command that a queue has given up and whose completion is not yet due (R368, R371): queue, opcode, QTAG, CONTEXT, submission head after it. -/
structure Taken where
  q    : Nat
  op   : Nat
  tag  : Nat
  ctx  : Nat
  head : Nat
  deriving DecidableEq, Repr

/-- A completion that is due and not yet written (R371): queue and the fields QTAG, STATUS, SQ_HEAD and CONTEXT of its entry. -/
structure DueCpl where
  q    : Nat
  tag  : Nat
  st   : Nat
  head : Nat
  ctx  : Nat
  deriving DecidableEq, Repr

/-- The host link beyond its registers (R362 to R383): per queue the PHASE bit of its next completion entry and the submission entry
that is read next; commands taken, in the order they were taken; completions that are due and not written, oldest first; requests held
while Bus Master Enable is clear, oldest first, each with its kind (0 data, 2 + q completion entry of queue q, 66 + n a write of a block of stream n, 16,450 + n its status word); the completion timeout that Device Control 2 sets; the first queue that the turn under way has not yet reached (R367); the bus addresses
that host software has given BAR0, BAR2 and BAR4 (R364); the requests of the host that wait for HOST slots, oldest first, each at its OA (kind 0
a BAR2 read, 1 a BAR2 write, 2 a BAR2 AtomicOp, 3 a CXL.mem read, 4 a CXL.mem write), and what such requests, and host-opened streams behind them,
have taken of the HOST slots of the running plan (R243). -/
structure HostSt where
  phases  : List Nat
  fetched : List Nat
  taken   : List Taken
  waiting : List DueCpl
  heldOut : List (Nat × Sent)
  timeout : Nat
  turn    : Nat
  bars    : List Nat
  reqs    : List PeerReq
  reqUsed : List (Nat × Nat)
  used    : List (Nat × Nat)
  deriving DecidableEq, Repr

/-- A multi-plane flash block (R290, R300, R306): erases since the last format beyond the format's own, reads since its last erase, units programmed. -/
structure FlashBlk where
  erases : Nat
  reads  : Nat
  next   : Nat
  deriving DecidableEq, Repr

/-- What a format fixes (R289): units and over-provisioning of both regions, and the blocks of each LUN that serve them and the map store. -/
structure FlashFmt where
  slcUnits : Nat
  slcOp    : Nat
  tlcUnits : Nat
  tlcOp    : Nat
  slcBlks  : Nat
  tlcBlks  : Nat
  mapBlks  : Nat
  deriving DecidableEq, Repr

/-- The metadata of a physical unit's pages (R286): logical unit number, write sequence number, whether they are map-store pages. A page's
place within its unit is its plane, 0 to 3. -/
structure PageMeta where
  unit  : Nat
  seq   : Nat
  store : Bool
  deriving DecidableEq, Repr

/-- A map entry journalled (R298): unit, physical place, the step that tags a shadow write, `none` for a live write. -/
structure JEntry where
  unit  : Nat
  place : Nat
  step  : Option Nat
  deriving DecidableEq, Repr

/-- A background array operation (R292, R299): the LUN that runs it, the block it programs or erases, the row at which it ends. -/
structure BgWork where
  lun : Nat
  blk : Nat
  due : Nat
  deriving DecidableEq, Repr

/-- An array read issued ahead of its slot (R294): stream, place of the block in the stream's order, unit. -/
structure AheadRead where
  ctx  : Nat
  seq  : Nat
  unit : Nat
  deriving DecidableEq, Repr

/-- A unit's earlier version, kept while the write that replaced it may still be undone by a loss of power (R305). -/
structure FlashUndo where
  unit  : Nat
  cells : List Host.Cell
  marks : List Nat
  place : Option Nat
  deriving DecidableEq, Repr

/-- The flash tier beyond its registers (R284 to R307): the devices found, bytes by logical address, the step's shadow bytes and
units, marked codewords, LUNs retired and channels whose bus failed training, physical places of live and shadow units (place = block * 4096 + page, block = (channel * 32 + LUN) * 4096
+ index), block records, what a loss of power would undo, and the durable step that the last loss of power left; the step that wrote each
shadow, the metadata of programmed units by place and the next write sequence number, background operations, array reads issued ahead, units of the step discarded for want of room,
and of the map store the journal since the last snapshot, that snapshot's live places and the commits since, whether a commit record is not
durable yet, the journalled entries that no map-store page holds yet and the write sequence number of the last snapshot's first page; whether the
format that runs is a SLOW one. -/
structure FlashSt where
  parts    : List FlashPart
  fmt      : Option FlashFmt
  base     : Nat
  cells    : List Host.Cell
  shadow   : List Host.Cell
  shUnits  : List Nat
  cwMarks  : List Nat
  shMarks  : List Nat
  live     : List (Nat × Nat)
  shPlace  : List (Nat × Nat)
  stale    : List Nat
  blks     : List (Nat × FlashBlk)
  queue    : List Nat
  bad      : List Nat
  grown    : List Nat
  lunOut   : List Nat
  chDown   : List Nat
  undo     : List FlashUndo
  hostPend : List FlashUndo
  retries  : Nat
  uncorr   : Nat
  shadowed : Nat
  durable  : Nat
  shStep   : List (Nat × Nat)
  pages    : List (Nat × PageMeta)
  wseq     : Nat
  bg       : List BgWork
  ahead    : List AheadRead
  noRoom   : List Nat
  journal  : List JEntry
  snapshot : List (Nat × Nat)
  commits  : Nat
  record   : Bool
  unwritten : Nat
  snapSeq  : Nat
  slow     : Bool
  deriving DecidableEq, Repr

/-- An add-write held until its sequence comes (R309): port, sequence, accumulator, region, first element, operands with marks. -/
structure HeldAdd where
  port  : Nat
  seq   : Nat
  acc   : Nat
  reg   : Nat
  elem  : Nat
  bytes : Nat
  vals  : List (Nat × Bool)
  stale : Bool
  deriving DecidableEq, Repr

/-- The update beyond its registers (R308 to R324), regions keyed accumulator * 2^18 + region, chunks group * 2^16 + chunk: sequences
completed and elements covered per region, sequence-0 sums not yet visible and which are marked, add-writes held, regions that can no
longer complete, accumulators cleared in the step; rotation pointer and where a commit moves it, chunks that overflowed and near-full chunks, the
step's rebase set, whether no set has been fixed since an install, delta lengths made in the step. The running products p1 and p2 of
R315 are functions of STEP_OPT_COUNT and are computed from it. -/
structure UpdSt where
  counts   : List (Nat × Nat)
  cover    : List (Nat × List Nat)
  first    : List (Nat × Nat)
  firstBad : List Nat
  heldAdds : List HeldAdd
  dead     : List Nat
  cleared  : List Nat
  pointer  : Nat
  overflow : List Nat
  nearFull : List Nat
  rebase   : List Nat
  nextPtr  : Nat
  fresh    : Bool
  lens     : List (Nat × Nat)
  deriving DecidableEq, Repr

/-- A message of the die in the ingress buffer (R352, R354): kind (0 RD, 1 WR, 2 ADDW, 3 SIG, 4 FENCE), its TAG, SEQ or ID, address, bytes
asked for, operand format, granule data and marks, the tick of plan time by which the die's slots have carried it, and whether a reset of
the port has taken its credits back (R358). -/
structure DieReq where
  kind  : Nat
  tag   : Nat
  oa    : Nat
  len   : Nat
  fmt   : Nat
  data  : List Byte
  marks : List Bool
  due   : Nat
  stale : Bool
  deriving DecidableEq, Repr

/-- A compute-die port beyond its registers (R336 to R361): adapter link, HELLOs exchanged, the count at which KN40's HELLO is due,
the die's credits in hand, contexts whose FENCE awaits its FACK, pace credits of a line that the die has spent, requests held for
the next stream set (R247); messages in the ingress buffer, oldest first, and what the die has taken of its slots in this plan (R354);
FACKs that wait for a stream's slots, as context, STATUS and due tick; header, data and add-write credits that protocol errors have
taken for good (R351); header, data and add-write credits and the pace credits by line, longest waiting first, that are due to the die while the
port retrains (R337, R346); the pace credits per line that KN40's HELLO granted; whether the link trains at the diagnostic rate, and whether its
modules retrain (R336, R360). -/
structure PortSt where
  link     : Bool
  sent     : Bool
  got      : Bool
  helloAt  : Option Nat
  hdr      : Nat
  data     : Nat
  fences   : List Nat
  pace     : List (Nat × Nat)
  held     : List (Nat × Nat)
  queue    : List DieReq
  used     : List (Nat × Nat)
  facks    : List (Nat × Nat × Nat)
  lostHdr  : Nat
  lostData : Nat
  lostAddw : Nat
  retHdr   : Nat
  retData  : Nat
  retAddw  : Nat
  paceRet  : List (Nat × Nat)
  grant    : Nat
  slow     : Bool
  retrain  : Bool
  deriving DecidableEq, Repr

/-- Bytes that a stream has put into the input ring of a segment entry (R88): entry, logical cluster, byte in the ring, data. -/
structure RingWrite where
  entry : Nat
  clu   : Nat
  off   : Nat
  data  : List MByte
  deriving DecidableEq, Repr

/-- A slice of an output that a segment has delivered (R95): tensor identity, micro-batch, slice, rows. -/
structure SegOut where
  tid   : Nat
  mb    : Nat
  slice : Nat
  data  : List MByte
  deriving DecidableEq, Repr

/-- Cluster work of the running schedule (R87 to R107): entries not started, entries running with their start count, ring writes,
outputs delivered, the bytes of each output instance (identity * 256 + micro-batch) that its fetch stream has taken, and the gauge counts
of chunk updates under way, by entry, which count only once the chunk is finished (R131). -/
structure CluSt where
  left    : List Nat
  running : List (Nat × Nat)
  rings   : List RingWrite
  outs    : List SegOut
  taken   : List (Nat × Nat)
  counts  : List (Nat × List (Nat × Nat))
  deriving DecidableEq, Repr

/-- Barriers (R212, R396): per ID and generation the arrivals so far, per ID the parties a generation needs and the generations completed, the
IDs whose generations run across the configuration (SCOPE 1), and per port and ID the arrivals of its die. What the members have announced
stands in the barrier table page in memory (R395). -/
structure BarrierSt where
  arrived : List (Nat × Nat)
  parties : List (Nat × Nat)
  done    : List (Nat × Nat)
  scope1  : List Nat
  portArr : List (Nat × Nat)
  deriving DecidableEq, Repr

/-- The whole block. `mem` holds HBM and the on-die buffers, `marks` the marked 64-byte granules, `lostHbm` the free value
that an uninstall has left the HBM with (R73) and `hbmKept` the HBM pages it does not reach, `free` the count of free values taken. -/
structure State where
  pending : List Instr
  row     : Nat
  regs    : List (Nat × Nat)
  mem     : List Host.Cell
  lostHbm : Option Nat
  hbmKept : List Nat
  marks   : List Nat
  sent    : List Sent
  free    : Nat
  flagOut : Bool
  flagIn  : Bool
  idleRun : List (Nat × Nat)
  idleStep : List (Nat × Nat)
  idleFig : List (Nat × Nat)
  tens    : List (Nat × Nat)
  tensPeak : List (Nat × (Nat × Nat))
  paceBad : List Nat
  logRound : Option Nat
  chart   : ChartSt
  step    : StepSt
  stash   : StashSt
  sync    : SyncSt
  fault   : FaultSt
  led     : LedgerSt
  ports   : List PortSt
  pwr     : PowerSt
  tier    : TierSt
  strs    : List (Nat × StreamX)
  bar     : BarrierSt
  host    : HostSt
  ftl     : FlashSt
  upd     : UpdSt
  clu     : CluSt
  gauge   : List (Nat × Nat)
  deriving DecidableEq, Repr

/-! ## Reset -/

/-- A port before its link has trained. -/
def PortSt.down : PortSt := ⟨false, false, false, none, 0, 0, [], [], [], [], [], [], 0, 0, 0, 0, 0, 0, [], 0, false, false⟩

/-- The parts of `State.reset`: no chart, no step, no work in hand, nothing faulty. -/
def ChartSt.reset : ChartSt := ⟨none, none, [], 0, [], []⟩
def StepSt.reset : StepSt where
  slip := 0
  reserveOver := false
  finite := false
  auditDue := false
  decideDue := false
  figDue := false
  ledgerBad := false
  lastStep := 0
  thermalPend := false
  emergency := false
  swatches := []
  swatchRun := none
  swatchStart := 0
  swatchEnd := 0
  swatchNext := none
  stopAt := none
  agreement := none
  prevPhase := 0
  launched := false
  installed := false
  setOpt := false
  lastSkip := 0
  lastGrowth := 0
  seed := 0
  lrs := []
  clearGauge := false
  clearTension := false
  clearIdle := false
  hostPer := 1
def StashSt.reset : StashSt := ⟨[], [0, 0, 0, 0], [0, 0, 0, 0], [0, 0, 0, 0]⟩
def SyncSt.reset : SyncSt := ⟨none, 0, none, none, none, 0, false, false⟩
def FaultSt.reset : FaultSt where
  ce := []
  retiring := []
  standIns := []
  mends := []
  lastPlace := []
  copies := []
  lost := []
  lostClear := []
  lossDue := []
  unserved := []
  pauseWant := 0
  pauseEnd := none
  peerPause := false
  pauseFrom := 0
  mismatched := []
  liveMarks := []
  joins := []
def LedgerSt.reset : LedgerSt where
  took := []
  gave := []
  blkIn := 0
  blkOut := 0
  skIn := 0
  skOut := 0
  addIn := 0
  addOut := 0
  strmIn := 0
  strmOut := 0
  barIn := 0
  barOut := 0
  spill := 0
  snap := []
def TierSt.reset : TierSt := ⟨[], [], none, [], [], [], false, none, [], [], [], [], [], [], []⟩
def BarrierSt.reset : BarrierSt := ⟨[], [], [], [], []⟩
def HostSt.reset : HostSt := ⟨List.replicate 64 1, List.replicate 64 0, [], [], [], 0, 0, [0, 0, 0], [], [], []⟩
def UpdSt.reset : UpdSt := ⟨[], [], [], [], [], [], [], 0, [], [], [], 0, true, []⟩
def CluSt.reset : CluSt := ⟨[], [], [], [], [], []⟩

/-- Power and boot at T0 (R437, R450): in AON with the power-on boot begun; the firmware key hashes and the factory map are fused. -/
def PowerSt.reset : PowerSt where
  off := false
  rstLow := false
  badSupply := []
  booting := true
  bootCause := 1
  t0 := 0
  imageDone := false
  trainDone := false
  fwLoaded := false
  bootMap := []
  factoryMap := Config.factoryMap
  fwKeys := [Config.fwKeyHash 0, Config.fwKeyHash 1, Config.fwKeyHash 2, Config.fwKeyHash 3]
  devKeys := [[], []]
  burns := []
  tripRun := []
  emergRun := []
  critRun := []
  temps := []
  critHold := none
  readyFclk := 0
  profile := []
  identity := []
  trims := []
  defPace := 0
  awake := []
  waking := []

/-- Flash at the first power-on: nothing read from the devices yet, never formatted. -/
def FlashSt.reset : FlashSt where
  parts := []
  fmt := none
  base := 0
  cells := []
  shadow := []
  shUnits := []
  cwMarks := []
  shMarks := []
  live := []
  shPlace := []
  stale := []
  blks := []
  queue := []
  bad := []
  grown := []
  lunOut := []
  chDown := []
  undo := []
  hostPend := []
  retries := 0
  uncorr := 0
  shadowed := 0
  durable := 0
  shStep := []
  pages := []
  wseq := 0
  bg := []
  ahead := []
  noRoom := []
  journal := []
  snapshot := []
  commits := 0
  record := false
  unwritten := 0
  snapSeq := 0
  slow := false

/-- The block right after reset: the moment T0 of a first power-on (R437, R472), in AON with the row count at 0, every register at
its reset value and nothing in memory, in the queues or on the wires. -/
def State.reset : State where
  pending := []
  row := 0
  regs := []
  mem := []
  lostHbm := none
  hbmKept := []
  marks := []
  sent := []
  free := 0
  flagOut := false
  flagIn := false
  idleRun := []
  idleStep := []
  idleFig := []
  tens := []
  tensPeak := []
  paceBad := []
  logRound := none
  chart := ChartSt.reset
  step := StepSt.reset
  stash := StashSt.reset
  sync := SyncSt.reset
  fault := FaultSt.reset
  led := LedgerSt.reset
  ports := [PortSt.down, PortSt.down, PortSt.down, PortSt.down]
  pwr := PowerSt.reset
  tier := TierSt.reset
  strs := []
  bar := BarrierSt.reset
  host := HostSt.reset
  ftl := FlashSt.reset
  upd := UpdSt.reset
  clu := CluSt.reset
  gauge := []

end Sys2Proof.Machine
end

