-- ==== Sys2Proof/Machine/Ops.lean ====
section
/-! DEFINITION. Machine/Ops.lean: the named operations every command is built from: register cells, the error log, FLAG_OUT,
interrupts, and the write of a register field by field (R9 to R12, R325, R374, R433). -/

namespace Sys2Proof.Machine

/-- The outcome of every command that the spec lets go on. -/
abbrev Res := Host.Outcome State Fault Refusal

/-! Status codes of R15. -/
def stOK : Nat := 0
def stSTOPPED : Nat := 1
def stABORTED : Nat := 2
def stORPHANED : Nat := 3
def stNOT_OWNER : Nat := 4
def stBAD_ARG : Nat := 5
def stCHECK_FAIL : Nat := 6
def stPOISON_IN : Nat := 7
def stFAR_FAULT : Nat := 8
def stSPILLED : Nat := 9
def stDEFERRED : Nat := 0xA
def stNOT_DRAINED : Nat := 0xB
def stUNIT_LOST : Nat := 0xC
def stTAINTED_TIME : Nat := 0xD
def stLEDGER_MISMATCH : Nat := 0xE
def stNONFINITE : Nat := 0xF

/-! Phases of `STEP_STATUS.PHASE` (R37). -/
def phIDLE : Nat := 0
def phARMED : Nat := 1
def phFORWARD : Nat := 2
def phBACKWARD : Nat := 3
def phTAIL : Nat := 4
def phRESERVE : Nat := 5
def phSETTLE : Nat := 6
def phBOUNDARY : Nat := 7
def phSWATCH : Nat := 8
def phHOLD : Nat := 9

/-- The value of one register field. -/
def State.rf (s : State) (f : Fld) : Nat := SMap.get resetOf s.regs f.key

/-- One register field written, cut to its width. -/
def State.set (s : State) (f : Fld) (v : Nat) : State :=
  { s with regs := SMap.put resetOf s.regs f.key (v % 2 ^ f.w) }

/-- A counter field raised by one, wrapping at its width. -/
def State.bump (s : State) (f : Fld) : State := s.set f (s.rf f + 1)

/-- A counter field raised, stopping at its largest value. -/
def State.addSat (s : State) (f : Fld) (n : Nat) : State := s.set f (min (s.rf f + n) (2 ^ f.w - 1))

/-- The step phase. -/
def State.phase (s : State) : Nat := s.rf R.STEP_STATUS_PHASE

/-- From cast-on to bind-off (R16). -/
def State.inStep (s : State) : Bool := decide (phFORWARD ≤ s.phase ∧ s.phase ≤ phSETTLE)

/-- The training domain up to the verdict count: where causes of R325 raise FLAG_OUT. -/
def State.training (s : State) : Bool := decide (phFORWARD ≤ s.phase ∧ s.phase ≤ phRESERVE)

/-- IDLE or HOLD. -/
def State.stopped (s : State) : Bool := s.phase == phIDLE || s.phase == phHOLD

/-- C of R231: the cast-on count of the step or the start count of the swatch. -/
def State.planC (s : State) : Nat := if s.phase = phSWATCH then s.step.swatchStart else s.rf R.STEP_CASTON_VALUE

/-- Plan time runs: from cast-on to the end of reserve, and in a swatch (R231). -/
def State.inPlan (s : State) : Bool := (s.training && !s.step.reserveOver) || s.phase == phSWATCH

/-- Plan time stands still in a pause (R231). -/
def State.paused (s : State) : Bool := s.fault.pauseEnd.isSome || s.fault.peerPause

/-- Plan time: ticks since C, slip and the pause under way taken out (R231). -/
def State.planTick (s : State) : Nat := (if s.paused then s.fault.pauseFrom else s.row) - s.planC - s.step.slip

/-- The plan round of 32 ticks (R231); rounds of the row counter outside plan time. -/
def State.planRound (s : State) : Nat := if s.inPlan then s.planTick / 32 else s.row / 32

/-- Whether the entry written last is the same event in the same plan round (R433). -/
def State.sameEvent (s : State) (st src unit detail : Nat) : Bool :=
  let i := (s.rf R.FAULT_LOG_PTR_HEAD + 4095) % 4096
  s.logRound == some s.planRound && s.rf (R.FAULT_LOG_W1_STATUS i) == st && s.rf (R.FAULT_LOG_W1_SOURCE i) == src
    && s.rf (R.FAULT_LOG_W1_UNIT i) == unit && s.rf (R.FAULT_LOG_W2_DETAIL i) == detail

/-- The oldest entry dropped when the ring holds 4,095 unconsumed entries (R433). -/
def State.makeRoom (s : State) : State :=
  if (s.rf R.FAULT_LOG_PTR_HEAD + 1) % 4096 = s.rf R.FAULT_LOG_PTR_TAIL then
    (s.set R.FAULT_LOG_PTR_TAIL ((s.rf R.FAULT_LOG_PTR_TAIL + 1) % 4096)).addSat R.FAULT_LOG_PTR_DROPPED 1
  else s

/-- One event logged (R433): status, source block, unit or context, detail, address. -/
def State.logEv (s : State) (st src unit detail aux : Nat) : State :=
  if s.sameEvent st src (unit % 65536) (detail % 2 ^ 32) then
    s.addSat (R.FAULT_LOG_W2_REPEAT ((s.rf R.FAULT_LOG_PTR_HEAD + 4095) % 4096)) 1
  else
    let s := s.makeRoom
    let i := s.rf R.FAULT_LOG_PTR_HEAD
    let s := s.set (R.FAULT_LOG_W0_ROW i) s.row
    let s := s.set (R.FAULT_LOG_W1_STEP i) (s.rf R.STEP_NUMBER_VALUE)
    let s := s.set (R.FAULT_LOG_W1_STATUS i) st
    let s := s.set (R.FAULT_LOG_W1_SOURCE i) src
    let s := s.set (R.FAULT_LOG_W1_UNIT i) unit
    let s := s.set (R.FAULT_LOG_W2_REPEAT i) 0
    let s := s.set (R.FAULT_LOG_W2_DETAIL i) detail
    let s := s.set (R.FAULT_LOG_W3_AUX i) aux
    { s.set R.FAULT_LOG_PTR_HEAD ((i + 1) % 4096) with logRound := some s.planRound }

/-- Bits 23:16 of a BAR0 offset: the SOURCE of its block (R433). -/
def srcOf (off : Nat) : Nat := off / 65536 % 256

/-- A register write refused: logged with its offset (R10, R11). -/
def State.refuse (s : State) (off st : Nat) : State := s.logEv st (srcOf off) 0 off 0

/-- FLAG_OUT raised with a cause of R325: in the training domain, from cast-on to bind-off, the first cause of the step
is recorded. -/
def State.raiseFlag (s : State) (cause : Nat) : State :=
  if s.inStep && s.rf R.STEP_FLAG_RAISED == 0 then
    { ((s.set R.STEP_FLAG_RAISED 1).set R.STEP_FLAG_CAUSE cause).set R.STEP_FLAG_RAISE_AT s.row with flagOut := true }
  else s

/-- A message sent. -/
def State.emit (s : State) (x : Sent) : State := { s with sent := s.sent ++ [x] }

/-- A write to host memory or to a peer: held while Bus Master Enable is clear (R380). -/
def State.emitHost (s : State) (x : Sent) : State :=
  if s.rf R.HQ_LINK_BME = 1 then s.emit x else { s with host := { s.host with heldOut := s.host.heldOut ++ [(0, x)] } }

/-- The MSI-X message of a vector, from its table entry (R374). -/
def State.msixMsg (s : State) (v : Nat) : Sent := .msix v (s.rf (R.MSIX_ADDR_ADDR v)) (s.rf (R.MSIX_CTRL_DATA v))

/-- The pending bit of a vector. -/
def State.pba (s : State) (v : Nat) : Bool := (s.rf (R.MSIX_PBA_BITS (v / 64))).testBit (v % 64)

/-- The pending bit of a vector written. -/
def State.setPba (s : State) (v : Nat) (b : Bool) : State :=
  let old := s.rf (R.MSIX_PBA_BITS (v / 64))
  s.set (R.MSIX_PBA_BITS (v / 64)) (if old.testBit (v % 64) == b then old else old ^^^ 2 ^ (v % 64))

/-- A vector raised (R374, R380): sent when enabled, unmasked and Bus Master Enable is set, pending otherwise; 0xFFFF and absent vectors raise nothing. -/
def State.raiseVec (s : State) (v : Nat) : State :=
  if 2048 ≤ v then s
  else if s.rf R.HQ_LINK_MSIX = 1 ∧ s.rf R.HQ_LINK_BME = 1 ∧ s.rf (R.MSIX_CTRL_MASK v) = 0 then s.emit (s.msixMsg v)
  else s.setPba v true

/-- A pending vector sent once it is enabled and unmasked. -/
def State.flushVec (s : State) (v : Nat) : State :=
  if s.pba v ∧ s.rf R.HQ_LINK_MSIX = 1 ∧ s.rf R.HQ_LINK_BME = 1 ∧ s.rf (R.MSIX_CTRL_MASK v) = 0
  then (s.setPba v false).emit (s.msixMsg v) else s

/-- A fresh free value (log entry 1) and the state with the counter advanced. -/
def State.fresh (s : State) : Nat × State := (Config.freeNat s.free, { s with free := s.free + 1 })

/-- Bytes that no rule gives a value, marked (R264, R378), and the state with the counter advanced. -/
def State.freeBytes (s : State) (n : Nat) : List MByte × State :=
  ((List.range n).map (fun k => (Config.badByte s.free k, true)), { s with free := s.free + 1 })

/-- Whether a master's access reaches BAR0 (R439, R466; log entry 8): nothing in OFF, MGMT in AON, READY and RUN, host software
in READY and RUN while the link is up, the others in READY and RUN. -/
def State.reach (s : State) (m : Master) : Bool :=
  !s.pwr.off && match m with
    | .mgmt => true
    | .fw => true
    | .host => decide (2 ≤ s.rf R.PWR_STATE_STATE) && s.rf R.HQ_LINK_UP == 1
    | .chart => decide (2 ≤ s.rf R.PWR_STATE_STATE)
    | .cdp _ => decide (2 ≤ s.rf R.PWR_STATE_STATE)

/-- The owner rule of R10 for one field; MGMT reaches only fields of owner ANY (R466). -/
def mayWrite (m : Master) : Own → Bool
  | .host => m == .host
  | .fw => m == .fw
  | .chart => m == .chart
  | .cdp => match m with | .cdp _ => true | _ => false
  | .any => true

/-- A write to one register: the master, the value at its register bit positions, the first bit written and how many. -/
structure Wr where
  m  : Master
  v  : Nat
  lo : Nat
  sz : Nat
  deriving DecidableEq, Repr

/-- A 64-bit write. -/
def Wr.full (m : Master) (v : Nat) : Wr := ⟨m, v, 0, 64⟩

/-- Whether a write covers any bit of a field. -/
def Wr.touches (w : Wr) (lo n : Nat) : Bool := decide (lo < w.lo + w.sz) && decide (w.lo < lo + n)

/-- A field's value after a write of some of its bits. -/
def Wr.merge (w : Wr) (old lo n : Nat) : Nat :=
  if w.lo ≤ lo ∧ lo + n ≤ w.lo + w.sz then bitsOf w.v lo n
  else if w.lo ≤ lo then old / 2 ^ (w.lo + w.sz - lo) * 2 ^ (w.lo + w.sz - lo) + bitsOf w.v lo (w.lo + w.sz - lo)
  else bitsOf w.v w.lo (lo + n - w.lo) * 2 ^ (w.lo - lo) + old % 2 ^ (w.lo - lo)

/-- What a write gives a field of an owner: the bits it places there when it reaches the field and its master owns it, else 0. -/
def Wr.get (w : Wr) (own : Own) (f : Fld) : Nat :=
  if w.touches f.lo f.w && mayWrite w.m own then bitsOf w.v f.lo f.w else 0

/-- Whether a write reaches a field of an owner with effect. -/
def Wr.hits (w : Wr) (own : Own) (f : Fld) : Bool := w.touches f.lo f.w && mayWrite w.m own

/-- One field of a register under a write (R9, R10). -/
def State.writeFld (s : State) (off : Nat) (w : Wr) (f : FldRow) : State :=
  if !w.touches f.lo f.w then s
  else match f.acc with
    | .ro => s
    | .rc => s
    | .wo => if mayWrite w.m f.own then s else s.refuse off stNOT_OWNER
    | .rw =>
      if mayWrite w.m f.own then s.set ⟨off, f.lo, f.w⟩ (w.merge (s.rf ⟨off, f.lo, f.w⟩) f.lo f.w)
      else s.refuse off stNOT_OWNER
    | .w1c =>
      if mayWrite w.m f.own then
        s.set ⟨off, f.lo, f.w⟩ (s.rf ⟨off, f.lo, f.w⟩ - (s.rf ⟨off, f.lo, f.w⟩ &&& bitsOf w.v f.lo f.w))
      else s.refuse off stNOT_OWNER

/-- The bits a write places in reserved fields (R11). -/
def RegRow.reservedBits (r : RegRow) (w : Wr) : Nat :=
  r.fields.foldl (fun a f => a - bitsOf a f.lo f.w * 2 ^ f.lo) (bitsOf w.v w.lo w.sz * 2 ^ w.lo)

/-- Whether a register holds a field that the master may write (R10). -/
def RegRow.writableBy (r : RegRow) (m : Master) : Bool :=
  r.fields.any (fun f => (f.acc == .rw || f.acc == .wo || f.acc == .w1c) && mayWrite m f.own)

/-- A write to the register at a multiple of 8, field by field (R10, R11): what the RW and W1C fields hold after it, with every refusal logged. -/
def State.regWrite (s : State) (off : Nat) (w : Wr) : State :=
  match findReg off with
  | none => s.refuse off stBAD_ARG
  | some r =>
    if !r.writableBy w.m then s.refuse off stNOT_OWNER
    else
      let s := r.fields.foldl (fun s f => s.writeFld off w f) s
      if r.reservedBits w = 0 then s else s.refuse off stBAD_ARG

/-- A write refused as a whole for its arguments: nothing is stored, the refusal is logged. -/
def State.badArg (s : State) (off : Nat) : State := s.refuse off stBAD_ARG

/-- `n` applied to every element of a list of numbers. -/
def State.forEach (s : State) (l : List Nat) (k : State → Nat → State) : State := l.foldl k s

/-- The numbers 0 to n - 1 without building on a library list. -/
def upTo (n : Nat) : List Nat := List.range n

/-- Two's complement: a number of `w` bits as an integer. -/
def signed (w v : Nat) : Int := if v < 2 ^ (w - 1) then (v : Int) else (v : Int) - (2 ^ w : Nat)

/-- An integer as `w` bits. -/
def unsigned (w : Nat) (i : Int) : Nat := (i % (2 ^ w : Nat)).toNat

/-- A stream context's model record. -/
def State.str (s : State) (n : Nat) : StreamX := SMap.get (fun _ => StreamX.fresh) s.strs n

/-- A stream context's model record written. -/
def State.setStr (s : State) (n : Nat) (x : StreamX) : State :=
  { s with strs := SMap.put (fun _ => StreamX.fresh) s.strs n x }

end Sys2Proof.Machine
end

