-- ==== Sys2Proof/Machine/Cyloth.lean ====
section
/-! DEFINITION. Machine/Cyloth.lean: the Cyloth format: container, words, groups, code tables, encoding and decoding of one block
(R133 to R160). -/

namespace Sys2Proof.Machine

/-! ## Headers (R133 to R138) -/

/-- The fields of a skein header that a request fixes. -/
structure SkeinHdr where
  profile : Nat
  width   : Nat
  refKind : Nat
  rawLen  : Nat
  ref     : Nat
  pword   : Nat
  deriving DecidableEq, Repr

/-- The 32 bytes of a skein header (R134). -/
def SkeinHdr.bytes (h : SkeinHdr) : List Byte :=
  let b := natLe 2 0x4B53 ++ natLe 1 1 ++ natLe 1 h.profile ++ natLe 1 h.width ++ natLe 1 h.refKind ++ natLe 2 0 ++ natLe 8 h.rawLen
    ++ natLe 8 h.ref ++ natLe 4 h.pword
  b ++ natLe 4 (crc32c b)

/-- The header fields that 32 bytes hold. -/
def parseHdr (b : List Byte) : SkeinHdr :=
  ⟨fieldLe b 3 1, fieldLe b 4 1, fieldLe b 5 1, fieldLe b 8 8, fieldLe b 16 8, fieldLe b 24 4⟩

/-- Blocks of a raw length (R133). -/
def blockCount (len : Nat) : Nat := ceilDiv len 65536

/-- Raw bytes of block i. -/
def blockRaw (len i : Nat) : Nat := min 65536 (len - 65536 * i)

/-- The bound of R44 and R159. -/
def worst (len : Nat) : Nat := len + 64 * blockCount len

/-- The word width of an element format (R135). -/
def fmtWidth (elem : Nat) : Nat := if elem = 0 then 32 else if elem ≤ 2 then 16 else if elem = 7 then 4 else 8

/-- Whether a header meets *Skein header* for its profile, apart from Cyloth-A's own rules (R134, R141). -/
def hdrFormOk (b : List Byte) : Bool :=
  let h := parseHdr b
  fieldLe b 0 2 == 0x4B53 && fieldLe b 2 1 == 1 && decide (1 ≤ h.profile) && decide (h.profile ≤ 3)
    && (h.width == 4 || h.width == 8 || h.width == 16 || h.width == 32) && fieldLe b 6 2 == 0
    && decide (h.rawLen < 2 ^ 40) && (h.width ≤ 8 || h.rawLen % (h.width / 8) == 0)
    && (if h.profile = 3 then
          decide (h.refKind ≤ 1) && (if h.refKind = 1 then decide (h.ref < 2 ^ 52) && (h.width ≤ 8 || h.ref % (h.width / 8) == 0) else h.ref == 0)
            && h.pword == 0
        else h.refKind == 0 && (h.profile == 1 || (h.ref == 0 && h.pword == 0)))
    && fieldLe b 28 4 == crc32c (b.take 28)

/-- A block header's 32 bytes and payload, with the check value complemented for a poisoned block (R138, R180). -/
def blockBytes (mode raw idx bits : Nat) (payload : List Byte) (poison : Bool) : List Byte :=
  let b := natLe 1 mode ++ natLe 3 0 ++ natLe 4 raw ++ natLe 4 payload.length ++ natLe 4 idx ++ natLe 4 bits ++ natLe 8 0
  let c := crc32c (b ++ payload)
  b ++ natLe 4 (if poison then 0xFFFFFFFF - c else c) ++ payload

/-- consistent(h, i, exp) of R154. -/
def blockConsistent (h : List Byte) (i exp : Nat) : Bool :=
  let mode := fieldLe h 0 1
  let pay := fieldLe h 8 4
  let bits := fieldLe h 16 4
  decide (mode ≤ 2) && fieldLe h 12 4 == i && fieldLe h 4 4 == exp &&
    (if mode = 0 then pay == 0 && bits == 0
     else if mode = 2 then pay == exp && bits == 0
     else decide (1 ≤ bits) && pay == 24 + ceilDiv bits 8 && decide (pay < exp))

/-- Whether a block header's reserved bytes are zero. -/
def blockReservedOk (h : List Byte) : Bool := fieldLe h 1 3 == 0 && fieldLe h 20 8 == 0

/-! ## Words (R143, R144) -/

/-- Word j of a byte array at a width. -/
def wordOf (a : Array Byte) (w j : Nat) : Nat :=
  if w = 4 then (a.getD (j / 2) 0).toNat / 16 ^ (j % 2) % 16
  else leNat ((upTo (w / 8)).map (fun k => a.getD (w / 8 * j + k) 0))

/-- Words as bytes. -/
def wordsBytes (w : Nat) : List Nat → List Byte
  | [] => []
  | a :: t =>
    if w = 4 then match t with
      | b :: u => BitVec.ofNat 8 (a % 16 + 16 * (b % 16)) :: wordsBytes w u
      | [] => [BitVec.ofNat 8 (a % 16)]
    else natLe (w / 8) a ++ wordsBytes w t

/-- Rotation of a w-bit word by one, left and right (R144). -/
def rotl1 (w x : Nat) : Nat := (x * 2 + x / 2 ^ (w - 1)) % 2 ^ w
def rotr1 (w x : Nat) : Nat := x / 2 + x % 2 * 2 ^ (w - 1)

/-- Words, and groups of 16, of a raw length. -/
def nWord (len w : Nat) : Nat := len * 8 / w
def nGroup (len w : Nat) : Nat := ceilDiv (nWord len w) 16

/-- The coded words of a Cyloth-W or Cyloth-P block, padding words zero (R143, R144); an empty base reads zero. -/
def codedWords (raw base : List Byte) (w : Nat) : List Nat :=
  let a := raw.toArray
  let b := base.toArray
  let n := nWord raw.length w
  (upTo (16 * nGroup raw.length w)).map (fun j => if j < n then rotl1 w (wordOf a w j ^^^ wordOf b w j) else 0)

/-! ## Groups and symbols (R146) -/

/-- Bit length of a number. -/
def bitLen (n : Nat) : Nat := if n = 0 then 0 else Nat.log2 n + 1

/-- The groups of 16 of a word list, with fuel. -/
def groups16 : Nat → List Nat → List (List Nat)
  | 0, _ => []
  | n + 1, l => l.take 16 :: groups16 n (l.drop 16)

/-- The significant width of a group. -/
def groupWidth (g : List Nat) : Nat := bitLen (g.foldl (fun a x => a ||| x) 0)

/-- The symbols of a run of r zero groups, with fuel. -/
def runSyms : Nat → Nat → List Nat
  | 0, _ => []
  | n + 1, r =>
    if r = 0 then []
    else if r = 1 then [0]
    else
      let k := min (Nat.log2 r) 15
      (32 + k) :: runSyms n (r - 2 ^ k)

/-- The symbols of a block, each with the words that follow it. -/
def blockSyms : List (List Nat) → Nat → List (Nat × List Nat)
  | [], r => (runSyms (r + 1) r).map (fun s => (s, []))
  | g :: t, r =>
    let b := groupWidth g
    if b = 0 then blockSyms t (r + 1)
    else (runSyms (r + 1) r).map (fun s => (s, [])) ++ (b, g) :: blockSyms t 0

/-! ## Code tables (R148 to R150) -/

/-- A tree node: weight and members. -/
abbrev HNode := Nat × List Nat

/-- The lighter front of the two queues; ties go to leaves. -/
def takeNode : List HNode → List HNode → Option (HNode × List HNode × List HNode)
  | [], [] => none
  | [], y :: b => some (y, [], b)
  | x :: a, [] => some (x, a, [])
  | x :: a, y :: b => if x.1 ≤ y.1 then some (x, a, y :: b) else some (y, x :: a, b)

/-- A list of lengths with some symbols' lengths raised by one. -/
def deepen (len : List Nat) (ms : List Nat) : List Nat :=
  (upTo 48).map (fun s => len.getD s 0 + (if ms.contains s then 1 else 0))

/-- The merges of the construction. -/
def huffGo : Nat → List HNode → List HNode → List Nat → List Nat
  | 0, _, _, len => len
  | n + 1, qa, qb, len =>
    match takeNode qa qb with
    | none => len
    | some (x, qa, qb) =>
      match takeNode qa qb with
      | none => len
      | some (y, qa, qb) =>
        let ms := x.2 ++ y.2
        huffGo n qa (qb ++ [(x.1 + y.1, ms)]) (deepen len ms)

/-- Insertion by weight, then symbol. -/
def insLeaf (x : HNode) : List HNode → List HNode
  | [] => [x]
  | y :: t => if x.1 < y.1 then x :: y :: t else y :: insLeaf x t

/-- The symbol limit() lengthens next: the longest below 15, then the rarest, then the greatest. -/
def limitPick (len freq : List Nat) : Option Nat :=
  (upTo 48).foldl (fun a s =>
    if 0 < len.getD s 0 ∧ len.getD s 0 < 15 then
      match a with
      | none => some s
      | some b =>
        if len.getD b 0 < len.getD s 0 ∨ (len.getD b 0 = len.getD s 0 ∧ freq.getD s 0 ≤ freq.getD b 0) then some s else a
    else a) none

/-- The Kraft sum in 1/32,768. -/
def kraft (len : List Nat) : Nat := len.foldl (fun a l => if 0 < l then a + 2 ^ (15 - l) else a) 0

/-- limit() of R150, with fuel. -/
def limitLens : Nat → List Nat → List Nat → List Nat
  | 0, len, _ => len
  | n + 1, len, freq =>
    if kraft len ≤ 32768 then len
    else match limitPick len freq with
      | none => len
      | some s => limitLens n (len.set s (len.getD s 0 + 1)) freq

/-- Code lengths of a block from its symbol counts (R150). -/
def buildLengths (freq : List Nat) : List Nat :=
  let leaves := (upTo 48).foldl (fun l s => if 0 < freq.getD s 0 then insLeaf (freq.getD s 0, [s]) l else l) []
  let zero := List.replicate 48 0
  match leaves with
  | [] => zero
  | [x] => deepen zero x.2
  | _ =>
    let len := huffGo (leaves.length - 1) leaves [] zero
    if len.any (15 < ·) then limitLens 32768 (len.map (min 15)) freq else len

/-- Canonical codes from lengths (R149). -/
def canonical (len : List Nat) : List Nat :=
  let count := fun l => (len.filter (· == l)).length
  let first := (upTo 15).foldl (fun (a : List Nat × Nat) l => (a.1 ++ [a.2], (a.2 + count (l + 1)) * 2)) ([], 0)
  (upTo 48).map (fun s =>
    let l := len.getD s 0
    if l = 0 then 0 else first.1.getD (l - 1) 0 + ((upTo s).filter (fun r => len.getD r 0 == l)).length)

/-- Whether a code table is well formed at a width (R148). -/
def tableOk (len : List Nat) (w : Nat) : Bool :=
  len.any (0 < ·) && (upTo 48).all (fun s => decide (s ≤ w) || decide (32 < s) || len.getD s 0 == 0) && decide (kraft len ≤ 32768)

/-! ## Bitstreams (R147) -/

/-- The low `n` bits of a number, least significant first, and most significant first. -/
def bitsLsb (n v : Nat) : List Bool := (upTo n).map (fun k => v.testBit k)
def bitsMsb (n v : Nat) : List Bool := (upTo n).map (fun k => v.testBit (n - 1 - k))

/-- Bits packed to bytes, each from its least significant bit, completed with zeros. -/
def packBits : Nat → List Bool → List Byte
  | 0, _ => []
  | n + 1, l =>
    if l.isEmpty then []
    else BitVec.ofNat 8 (((l.take 8).foldr (fun b a => (if b then 1 else 0) + 2 * a) 0)) :: packBits n (l.drop 8)

/-- One block as the encoder leaves it: mode, payload and stream bits. -/
structure Coded where
  mode    : Nat
  payload : List Byte
  bits    : Nat
  deriving DecidableEq, Repr

/-- The table description of R148. -/
def tableBytes (len : List Nat) : List Byte := (upTo 24).map (fun j => BitVec.ofNat 8 (len.getD (2 * j) 0 + 16 * len.getD (2 * j + 1) 0))

/-- One block encoded from its coded words, with Cyloth-A's side-field prefix (R151, R172): ZERO, CODED or STORED by the first rule that applies. -/
def encodeWords (raw : List Byte) (t : List Nat) (pre : List Bool) (zeroFields : Bool) : Coded :=
  if t.all (· == 0) && zeroFields then ⟨0, [], 0⟩
  else
    let syms := blockSyms (groups16 (t.length / 16) t) 0
    let freq := (upTo 48).map (fun s => (syms.filter (fun p => p.1 == s)).length)
    let len := buildLengths freq
    let code := canonical len
    let bits := pre.length + syms.foldl (fun a p => a + len.getD p.1 0 + (if p.1 ≤ 32 then 16 * p.1 else 0)) 0
    if raw.length ≤ 24 + ceilDiv bits 8 then ⟨2, raw, 0⟩
    else
      let stream := pre ++ (syms.map (fun p =>
        bitsMsb (len.getD p.1 0) (code.getD p.1 0) ++ (p.2.map (bitsLsb p.1)).flatten)).flatten
      ⟨1, tableBytes len ++ packBits (bits / 8 + 1) stream, bits⟩

/-- A block of Cyloth-W or Cyloth-P encoded. -/
def encodePlain (raw base : List Byte) (w : Nat) : Coded := encodeWords raw (codedWords raw base w) [] true

/-! ## Decoding (R154 to R156) -/

/-- Bit p of a payload's bitstream. -/
def streamBit (a : Array Byte) (p : Nat) : Bool := (a.getD (24 + p / 8) 0).toNat.testBit (p % 8)

/-- The next symbol: its code's bits, most significant first; `none` when no code matches or the bits run out. -/
def readSym (a : Array Byte) (limit : Nat) (len code : Array Nat) : Nat → Nat → Nat → Nat → Option (Nat × Nat)
  | 0, _, _, _ => none
  | n + 1, p, l, v =>
    if limit ≤ p then none
    else
      let v := 2 * v + (if streamBit a p then 1 else 0)
      match (upTo 48).find? (fun s => len.getD s 0 == l + 1 && code.getD s 0 == v) with
      | some s => some (s, p + 1)
      | none => readSym a limit len code n (p + 1) (l + 1) v

/-- A word of b bits, least significant first. -/
def readBits (a : Array Byte) (p b : Nat) : Nat :=
  (upTo b).foldr (fun k acc => (if streamBit a (p + k) then 1 else 0) + 2 * acc) 0

/-- The groups of a bitstream from bit p on: the coded words in reverse group order, and where reading ended. -/
def readGroups (a : Array Byte) (limit w : Nat) (len code : Array Nat) : Nat → Nat → Nat → List (List Nat) → Option (List (List Nat) × Nat)
  | 0, _, _, _ => none
  | n + 1, left, p, acc =>
    if left = 0 then some (acc, p)
    else match readSym a limit len code 15 p 0 0 with
      | none => none
      | some (s, p) =>
        if s ≤ 32 then
          if w < s ∨ limit < p + 16 * s then none
          else readGroups a limit w len code n (left - 1) (p + 16 * s) ((upTo 16).map (fun j => readBits a (p + s * j) s) :: acc)
        else
          let r := 2 ^ (s - 32)
          if left < r then none
          else readGroups a limit w len code n (left - r) p (List.replicate r (List.replicate 16 0) ++ acc)

/-- The coded words of a CODED payload whose symbols begin at bit `from_`: `none` where R147 or R148 is broken. -/
def decodeCoded (pay : List Byte) (bits from_ w nword ngroup : Nat) : Option (List Nat) :=
  let a := pay.toArray
  let len := (upTo 48).map (fun s => (a.getD (s / 2) 0).toNat / 16 ^ (s % 2) % 16)
  if !tableOk len w then none
  else match readGroups a bits w len.toArray (canonical len).toArray (ngroup + 1) ngroup from_ [] with
    | none => none
    | some (gs, p) =>
      let t := gs.reverse.flatten
      if p ≠ bits ∨ (upTo (8 * (pay.length - 24) - bits)).any (fun k => streamBit a (bits + k)) ∨ (t.drop nword).any (· != 0) then none
      else some t

/-- A Cyloth-W or Cyloth-P block decoded from a header that passed its CRC (R154): `none` is BAD. -/
def decodePlain (h pay base : List Byte) (w i exp : Nat) : Option (List Byte) :=
  if !blockConsistent h i exp || !blockReservedOk h then none
  else
    let mode := fieldLe h 0 1
    let n := nWord exp w
    let t := if mode = 0 then some (List.replicate n 0)
      else if mode = 1 then decodeCoded pay (fieldLe h 16 4) 0 w n (nGroup exp w)
      else none
    if mode = 2 then some (pay.take exp)
    else match t with
      | none => none
      | some t =>
        let b := base.toArray
        some (wordsBytes w ((upTo n).zip t |>.map (fun p => rotr1 w p.2 ^^^ wordOf b w p.1)))

/-- Whether a block header names a mode that reads the base: every mode but STORED (R139). -/
def readsBase (h : List Byte) : Bool := fieldLe h 0 1 != 2

/-- The largest length of a skein (R137, R159). -/
def packMax (n : Nat) : Nat := max (worst n) 32

/-- Marked bytes hold zero (R155). -/
def zeroMarked (l : List MByte) : List MByte := l.map (fun b => if b.2 then (0, true) else b)

/-- Whether a block's CRC matches and none of its stored bytes arrives marked (R155). -/
def blockIntact (h pay : List MByte) : Bool :=
  !h.any (·.2) && !pay.any (·.2) && fieldLe (h.map (·.1)) 28 4 == crc32c ((h.map (·.1)).take 28 ++ pay.map (·.1))

/-- What is left of a walk after a failed block: lost when its header is marked or not consistent (R155, R156). -/
def loses (h : List MByte) (i exp : Nat) : Bool := h.any (·.2) || !blockConsistent (h.map (·.1)) i exp

/-- A skipped block's checks (R156). -/
def skipOk (h pay : List MByte) (i exp : Nat) : Bool :=
  blockIntact h pay && blockConsistent (h.map (·.1)) i exp && blockReservedOk (h.map (·.1))

end Sys2Proof.Machine
end

