-- ==== Sys2Proof/Machine/Arith.lean ====
section
/-! DEFINITION. Machine/Arith.lean: element formats, roundings, the FP32 primitives, sums and trees (R109 to R122). An FP32 value is
its 32-bit pattern as a number; an exact value is a sign and a dyadic magnitude. -/

namespace Sys2Proof.Machine

/-- An exact value: NaN, an infinity, or (-1)^neg * m * 2^e; m = 0 is a signed zero. -/
inductive Val where
  | nan
  | inf (neg : Bool)
  | fin (neg : Bool) (m : Nat) (e : Int)
  deriving DecidableEq, Repr

/-- Position of the highest set bit of a positive number. -/
def log2 (m : Nat) : Int := (Nat.log2 m : Nat)

/-- 2 to an integer power as a shift of a numerator: m * 2^k for k at least zero, else m. -/
def shl (m : Nat) (k : Int) : Nat := m * 2 ^ k.toNat

/-! ## Formats (R109, R112) -/

/-- An element format with a sign, exponent and mantissa: mantissa bits, exponent bits, bias, largest finite as m * 2^e, infinity. -/
structure Fmt where
  mb    : Nat
  eb    : Nat
  bias  : Int
  maxM  : Nat
  maxE  : Int
  inf   : Bool
  deriving DecidableEq, Repr

/-- The formats of *Element formats* that have an exponent, by code. -/
def fmtOf (code : Nat) : Fmt :=
  match code with
  | 0 => ⟨23, 8, 127, 2 ^ 24 - 1, 104, true⟩
  | 1 => ⟨7, 8, 127, 255, 120, true⟩
  | 2 => ⟨10, 5, 15, 2047, 5, true⟩
  | 3 => ⟨3, 4, 7, 14, 5, false⟩
  | 4 => ⟨2, 5, 15, 7, 13, true⟩
  | 5 => ⟨3, 2, 1, 15, -1, false⟩
  | 6 => ⟨2, 3, 3, 7, 2, false⟩
  | _ => ⟨1, 2, 1, 3, 1, false⟩

/-- MX formats carry one scale for 32 elements. -/
def isMx (code : Nat) : Bool := decide (3 ≤ code ∧ code ≤ 8)

/-- Element bits by format code (R109). -/
def elemBits (code : Nat) : Nat :=
  if code = 0 then 32 else if code ≤ 2 then 16 else if code = 5 ∨ code = 6 then 6 else if code = 7 then 4 else 8

/-- Exponent of the largest normal, used by R116. -/
def mxEmax (code : Nat) : Int :=
  if code = 3 then 8 else if code = 4 then 15 else if code = 5 then 2 else if code = 6 then 4 else if code = 7 then 2 else 0

/-- Bytes of `n` elements in a format, scales included (R110): the packed elements and one scale per block of 32. -/
def fmtBytes (code n : Nat) : Nat :=
  let d := if code = 7 then ceilDiv n 2 else if code = 5 ∨ code = 6 then ceilDiv n 4 * 3 else n * elemBits code / 8
  d + (if isMx code then ceilDiv n 32 else 0)

/-- Exponent of the smallest normal. -/
def Fmt.emin (f : Fmt) : Int := 1 - f.bias

/-- An element's exact value, without scale (R112): E4M3 has its one NaN, formats with infinity keep the IEEE specials. -/
def decodeElem (code bits : Nat) : Val :=
  if code = 8 then
    let i := signed 8 (bits % 256)
    .fin (decide (i < 0)) i.natAbs (-6)
  else
    let f := fmtOf code
    let neg := (bits / 2 ^ (f.mb + f.eb)) % 2 == 1
    let x := bits / 2 ^ f.mb % 2 ^ f.eb
    let m := bits % 2 ^ f.mb
    if f.inf ∧ x = 2 ^ f.eb - 1 then (if m = 0 then .inf neg else .nan)
    else if code = 3 ∧ x = 15 ∧ m = 7 then .nan
    else if x = 0 then .fin neg m (f.emin - f.mb)
    else .fin neg (2 ^ f.mb + m) ((x : Int) - f.bias - f.mb)

/-- FP32 decoded. -/
def dec32 (b : Nat) : Val := decodeElem 0 b

/-- A value times a power of two (R113). -/
def Val.scale (v : Val) (k : Int) : Val :=
  match v with
  | .fin n m e => .fin n m (e + k)
  | x => x

/-! ## Rounding (R114, R115, R117) -/

/-- Rounding modes of R114: 0 RNE, 1 RTZ, 2 SR with its 16-bit draw. -/
structure Mode where
  code : Nat
  draw : Nat
  deriving DecidableEq, Repr

/-- Round to nearest even, the primitives' mode. -/
def rne : Mode := ⟨0, 0⟩

/-- A magnitude m * 2^e, with `more` when the exact one lies strictly above it and below the next multiple of 2^e, as a multiple of 2^q. -/
def quant (r : Mode) (m : Nat) (e : Int) (more : Bool) (q : Int) : Nat :=
  if q ≤ e then shl m (e - q)
  else
    let d := 2 ^ (q - e).toNat
    let lo := m / d
    let rem := m % d
    if r.code = 1 then lo
    else if r.code = 2 then (if 65536 ≤ rem * 65536 / d + r.draw then lo + 1 else lo)
    else if d < 2 * rem ∨ (d = 2 * rem ∧ (more ∨ lo % 2 = 1)) then lo + 1
    else lo

/-- The spacing exponent of a format at a magnitude, subnormal spacing below the smallest normal. -/
def Fmt.spacing (f : Fmt) (m : Nat) (e : Int) : Int := max (log2 m + e) f.emin - f.mb

/-- Whether k * 2^q exceeds the largest finite magnitude of a format. -/
def Fmt.above (f : Fmt) (k : Nat) (q : Int) : Bool :=
  let s := min q f.maxE
  decide (shl f.maxM (f.maxE - s) < shl k (q - s))

/-- The bits of a representable magnitude k * 2^q, with its sign. -/
def Fmt.encode (f : Fmt) (neg : Bool) (k : Nat) (q : Int) : Nat :=
  let sgn := if neg then 2 ^ (f.mb + f.eb) else 0
  if k = 0 then sgn
  else
    let l := log2 k + q
    if l < f.emin then sgn + shl k (q - (f.emin - f.mb))
    else
      let frac := if q ≤ l - f.mb then k / 2 ^ (l - f.mb - q).toNat else shl k (q - (l - f.mb))
      sgn + ((l + f.bias).toNat * 2 ^ f.mb + (frac - 2 ^ f.mb))

/-- A written element: its bits and the gauge's view of it (R130). -/
structure Wrote where
  bits : Nat
  overflow : Bool
  vanish : Bool
  nonfin : Bool
  deriving DecidableEq, Repr

/-- The canonical NaN of a format, and its infinity. -/
def Fmt.nan (f : Fmt) : Nat := (2 ^ f.eb - 1) * 2 ^ f.mb + 2 ^ (f.mb - 1)
def Fmt.infBits (f : Fmt) (neg : Bool) : Nat := (if neg then 2 ^ (f.mb + f.eb) else 0) + (2 ^ f.eb - 1) * 2 ^ f.mb

/-- An exact value rounded into a format with an exponent (R115). -/
def roundElem (f : Fmt) (r : Mode) (v : Val) (more : Bool) : Wrote :=
  match v with
  | .nan => ⟨f.nan, false, false, true⟩
  | .inf n => if f.inf then ⟨f.infBits n, false, false, true⟩ else ⟨f.encode n f.maxM f.maxE, false, false, false⟩
  | .fin n m e =>
    if m = 0 ∧ !more then ⟨f.encode n 0 0, false, false, false⟩
    else
      let q := if m = 0 then f.emin - f.mb else f.spacing m e
      let k := quant r m e more q
      if f.above k q then
        (if f.inf && r.code != 1 then ⟨f.infBits n, true, false, true⟩ else ⟨f.encode n f.maxM f.maxE, true, false, false⟩)
      else ⟨f.encode n k q, false, k == 0, false⟩

/-- An exact value rounded to FP32 (R119). -/
def to32 (v : Val) : Nat := (roundElem (fmtOf 0) rne v false).bits

/-! ## FP32 primitives (R119) -/

/-- Exact sum of two values; an exact zero sum of opposite signs is +0 under round to nearest. -/
def Val.add (a b : Val) : Val :=
  match a, b with
  | .nan, _ => .nan
  | _, .nan => .nan
  | .inf x, .inf y => if x = y then .inf x else .nan
  | .inf x, _ => .inf x
  | _, .inf y => .inf y
  | .fin n m e, .fin k l g =>
    let s := min e g
    let x : Int := (if n then -1 else 1) * (shl m (e - s) : Nat)
    let y : Int := (if k then -1 else 1) * (shl l (g - s) : Nat)
    if m = 0 ∧ l = 0 then .fin (n && k) 0 0
    else .fin (decide (x + y < 0)) (x + y).natAbs s

/-- Exact product. -/
def Val.mul (a b : Val) : Val :=
  match a, b with
  | .nan, _ => .nan
  | _, .nan => .nan
  | .inf x, .inf y => .inf (x != y)
  | .inf x, .fin n m _ => if m = 0 then .nan else .inf (x != n)
  | .fin n m _, .inf x => if m = 0 then .nan else .inf (x != n)
  | .fin n m e, .fin k l g => .fin (n != k) (m * l) (e + g)

/-- Sign reversed. -/
def Val.neg (a : Val) : Val :=
  match a with
  | .nan => .nan
  | .inf x => .inf (!x)
  | .fin n m e => .fin (!n) m e

/-- fl(a + b), fl(a - b), fl(a * b), fma(a, b, c) on FP32 patterns. -/
def fAdd (a b : Nat) : Nat := to32 ((dec32 a).add (dec32 b))
def fSub (a b : Nat) : Nat := to32 ((dec32 a).add (dec32 b).neg)
def fMul (a b : Nat) : Nat := to32 ((dec32 a).mul (dec32 b))
def fFma (a b c : Nat) : Nat := to32 (((dec32 a).mul (dec32 b)).add (dec32 c))

/-- fl(a / b). -/
def fDiv (a b : Nat) : Nat :=
  match dec32 a, dec32 b with
  | .nan, _ => (fmtOf 0).nan
  | _, .nan => (fmtOf 0).nan
  | .inf _, .inf _ => (fmtOf 0).nan
  | .inf x, .fin n _ _ => (fmtOf 0).infBits (x != n)
  | .fin n _ _, .inf x => (fmtOf 0).encode (n != x) 0 0
  | .fin n m e, .fin k l g =>
    if l = 0 then (if m = 0 then (fmtOf 0).nan else (fmtOf 0).infBits (n != k))
    else if m = 0 then (fmtOf 0).encode (n != k) 0 0
    else
      let x := m * 2 ^ 64
      (roundElem (fmtOf 0) rne (.fin (n != k) (x / l) (e - g - 64)) (x % l != 0)).bits

/-- fl(sqrt a). -/
def fSqrt (a : Nat) : Nat :=
  match dec32 a with
  | .nan => (fmtOf 0).nan
  | .inf n => if n then (fmtOf 0).nan else (fmtOf 0).infBits false
  | .fin n m e =>
    if m = 0 then (fmtOf 0).encode n 0 0
    else if n then (fmtOf 0).nan
    else
      let k : Int := if e % 2 = 0 then 80 else 81
      let x := shl m k
      let y := Nat.sqrt x
      (roundElem (fmtOf 0) rne (.fin false y ((e - k) / 2)) (y * y != x)).bits

/-- Fraction bits of the fixed-point work behind exp and tanh. -/
def fxBits : Nat := 600

/-- Taylor terms of exp at a fixed-point argument below one, by Horner from term n down. -/
def expTaylor (x : Nat) : Nat → Nat
  | 0 => 2 ^ fxBits
  | n + 1 => 2 ^ fxBits + x * expTaylorAt x n 1 / 2 ^ fxBits
where
  /-- The tail of the series from its k-th term. -/
  expTaylorAt (x : Nat) : Nat → Nat → Nat
    | 0, _ => 2 ^ fxBits
    | n + 1, k => 2 ^ fxBits + x * expTaylorAt x n (k + 1) / 2 ^ fxBits / (k + 1)

/-- A fixed-point number squared n times. -/
def sqTimes : Nat → Nat → Nat
  | 0, x => x
  | n + 1, x => sqTimes n (x * x / 2 ^ fxBits)

/-- exp of a nonnegative fixed-point number below 2^7, to about 500 fraction bits: the argument is halved ten times, the result squared back. -/
def expFx (x : Nat) : Nat := sqTimes 10 (expTaylor (x / 1024) 80)

/-- A dyadic magnitude as a fixed-point number. -/
def toFx (m : Nat) (e : Int) : Nat := if 0 ≤ e + fxBits then shl m (e + fxBits) else m / 2 ^ (-(e + fxBits)).toNat

/-- exp, correctly rounded (R119). -/
def fExp (a : Nat) : Nat :=
  match dec32 a with
  | .nan => (fmtOf 0).nan
  | .inf n => if n then 0 else (fmtOf 0).infBits false
  | .fin n m e =>
    if m = 0 then 0x3F800000
    else if 128 ≤ toFx m e / 2 ^ fxBits then (if n then 0 else (fmtOf 0).infBits false)
    else
      let x := expFx (toFx m e)
      let y := if n then 2 ^ (2 * fxBits) / x else x
      (roundElem (fmtOf 0) rne (.fin false y (-(fxBits : Int))) true).bits

/-- tanh, correctly rounded (R119): below 2^-13 the nearest value is the argument itself, beyond 16 it is one. -/
def fTanh (a : Nat) : Nat :=
  match dec32 a with
  | .nan => (fmtOf 0).nan
  | .inf n => if n then 0xBF800000 else 0x3F800000
  | .fin n m e =>
    if m = 0 ∨ log2 m + e < -13 then a
    else if 4 ≤ log2 m + e then (if n then 0xBF800000 else 0x3F800000)
    else
      let x := expFx (2 * toFx m e)
      let y := (x - 2 ^ fxBits) * 2 ^ fxBits / (x + 2 ^ fxBits)
      (roundElem (fmtOf 0) rne (.fin n y (-(fxBits : Int))) true).bits

/-! ## Order, maximum and minimum (R122) -/

/-- Whether an FP32 pattern is NaN, infinite or finite. -/
def isNan (a : Nat) : Bool := match dec32 a with | .nan => true | _ => false
def isFin32 (a : Nat) : Bool := match dec32 a with | .fin _ _ _ => true | _ => false

/-- An order key in which -0 lies below +0. -/
def f32Key (a : Nat) : Int := if a < 2 ^ 31 then (a : Int) else (2 ^ 31 : Int) - (a : Int) - 1

/-- Maximum and minimum: NaN if either operand is. -/
def fMax (a b : Nat) : Nat :=
  if isNan a || isNan b then (fmtOf 0).nan else if f32Key a < f32Key b then b else a
def fMin (a b : Nat) : Nat :=
  if isNan a || isNan b then (fmtOf 0).nan else if f32Key b < f32Key a then b else a

/-! ## Sums (R121) -/

/-- One level of the fixed tree: neighbours added, an odd leaf carried up. -/
def treeLevel : List Nat → List Nat
  | a :: b :: t => fAdd a b :: treeLevel t
  | l => l

/-- The fixed pairwise tree, with fuel for its levels. -/
def treeGo : Nat → List Nat → Nat
  | 0, l => l.headD 0
  | n + 1, l => match l with
    | [] => 0
    | [a] => a
    | _ => treeGo n (treeLevel l)

/-- The tree over a list. -/
def tree (l : List Nat) : Nat := treeGo 64 l

/-- The 128-element runs of a sequence, with fuel. -/
def runs128 : Nat → List Nat → List (List Nat)
  | 0, _ => []
  | n + 1, l => if l.isEmpty then [] else l.take 128 :: runs128 n (l.drop 128)

/-- The sum of a sequence: run results of the 128-leaf tree, padded with +0, added in ascending order. -/
def fSum (l : List Nat) : Nat :=
  (runs128 (l.length + 1) l).foldl (fun a r => fAdd a (tree (r ++ List.replicate (128 - r.length) 0))) 0

/-! ## Writing (R114 to R118) -/

/-- Round a dyadic value over 2^x to an MXINT8 element (R116): 0x80 is never written. -/
def roundInt8 (r : Mode) (v : Val) : Wrote :=
  match v with
  | .fin n m e =>
    let k := if m = 0 then 0 else quant r m e false (-6)
    let c := min k 127
    ⟨if n ∧ c ≠ 0 then 256 - c else c, decide (127 < k), m != 0 && k == 0, false⟩
  | _ => ⟨0, false, false, true⟩

/-- One block of up to 32 FP32 values in an MX format (R116): its scale byte and elements, with mode and draws. -/
def mxBlock (code mode : Nat) (draws : List Nat) (v : List Nat) : Nat × List Wrote :=
  if v.any (fun a => !isFin32 a) then (0xFF, v.map (fun _ => ⟨0, false, false, true⟩))
  else
    let mag := v.foldl (fun a x => max a (x % 2 ^ 31)) 0
    let x : Int := match dec32 mag with
      | .fin _ m e => if m = 0 then -127 else max (-127) (min 127 (log2 m + e - mxEmax code))
      | _ => 0
    let el := fun i a =>
      let t := (dec32 a).scale (-x)
      let r : Mode := ⟨mode, draws.getD i 0⟩
      if code = 8 then roundInt8 r t else roundElem (fmtOf code) r t false
    ((x + 127).toNat, (upTo v.length).map (fun i => el i (v.getD i 0)))

/-- The 32-element blocks of a row. -/
def blocks32 : Nat → List Nat → List (List Nat)
  | 0, _ => []
  | n + 1, l => if l.isEmpty then [] else l.take 32 :: blocks32 n (l.drop 32)

/-- Elements packed to bytes (R110): FP4 two to a byte, FP6 four to three bytes, completed with zero bits. -/
def packElems (code : Nat) (l : List Nat) : List Byte :=
  let w := elemBits code
  let total := if code = 7 then ceilDiv l.length 2 else if code = 5 ∨ code = 6 then ceilDiv l.length 4 * 3 else l.length * w / 8
  natLe total (l.foldr (fun x a => x + 2 ^ w * a) 0)

/-- A row of FP32 values written in a format: its bytes as R110 stores a row, and what was written of each element. -/
def writeRow (code mode : Nat) (draws : List Nat) (v : List Nat) : List Byte × List Wrote :=
  if isMx code then
    let bs := blocks32 (v.length + 1) v
    let rs := (upTo bs.length).map (fun k => mxBlock code mode (draws.drop (32 * k)) (bs.getD k []))
    let ws := (rs.map (·.2)).flatten
    (packElems code (ws.map (·.bits)) ++ rs.map (fun r => BitVec.ofNat 8 r.1), ws)
  else
    let ws := (upTo v.length).map (fun i =>
      roundElem (fmtOf code) (if code = 0 then rne else ⟨mode, draws.getD i 0⟩) (dec32 (v.getD i 0)) false)
    (packElems code (ws.map (·.bits)), ws)

/-- Element i of packed bytes. -/
def unpackElem (code : Nat) (l : List Byte) (i : Nat) : Nat :=
  let w := elemBits code
  fieldLe l (i * w / 8) ((w + 7) / 8 + 1) / 2 ^ (i * w % 8) % 2 ^ w

/-- An exact element of a row of `n` elements stored as R110 lays it down: element bits and, in an MX format, its block's scale. -/
def rowElem (code n : Nat) (l : List Byte) (i : Nat) : Val :=
  let v := decodeElem code (unpackElem code l i)
  if isMx code then
    let sc := fieldLe l (fmtBytes code n - ceilDiv n 32 + i / 32) 1
    if sc = 0xFF then .nan else v.scale ((sc : Int) - 127)
  else v

/-- The exact elements of a row. -/
def readRow (code n : Nat) (l : List Byte) : List Val := (upTo n).map (rowElem code n l)

end Sys2Proof.Machine
end

