-- ==== Sys2Proof/Machine/CylothA.lean ====
section
/-! DEFINITION. Machine/CylothA.lean: temporal prediction: geometry, pools, refresh, sources, the order map, side fields, the choice
of predictions, and decoding with marks (R161 to R176). -/

namespace Sys2Proof.Machine

/-- The fields of *Cyloth-A header fields* with the frame count (R162). -/
structure AGeo where
  rows   : Nat
  cols   : Nat
  ch     : Nat
  width  : Nat
  depth  : Nat
  stride : Nat
  band   : Nat
  phase  : Nat
  frames : Nat
  deriving DecidableEq, Repr

/-- Bytes of one frame. -/
def AGeo.frameBytes (g : AGeo) : Nat := g.rows * g.cols * g.ch * (g.width / 8)

/-- The geometry a header's REF and PROFILE_WORD give. -/
def aGeo (ref pword width rawLen : Nat) : AGeo :=
  let g : AGeo := ⟨bitsOf ref 0 16, bitsOf ref 16 16, bitsOf ref 32 32, width, bitsOf pword 0 3, bitsOf pword 4 3 + 1, bitsOf pword 8 4,
    bitsOf pword 16 8, 0⟩
  { g with frames := if g.frameBytes = 0 then 0 else rawLen / g.frameBytes }

/-- Whether REF, PROFILE_WORD and RAW_LEN keep R162 and R163. -/
def aFormOk (ref pword width rawLen : Nat) : Bool :=
  let g := aGeo ref pword width rawLen
  (width == 16 || width == 32) && decide (g.depth ≤ 4) && bitsOf pword 3 1 == 0 && bitsOf pword 7 1 == 0 && bitsOf pword 12 4 == 0
    && bitsOf pword 24 8 == 0
    && (rawLen == 0 || (g.rows != 0 && g.cols != 0 && g.ch != 0 && g.ch % 16 == 0 && rawLen % g.frameBytes == 0))

/-! ## Frames, tiles, bands (R165 to R167) -/

/-- Channel blocks, tile rows, tile columns. -/
def AGeo.kb (g : AGeo) : Nat := g.ch / 16
def AGeo.tr (g : AGeo) : Nat := ceilDiv g.rows 16
def AGeo.tc (g : AGeo) : Nat := ceilDiv g.cols 16

/-- A group's place: frame, row, column, band. -/
structure AGrp where
  f : Nat
  r : Nat
  c : Nat
  k : Nat
  deriving DecidableEq, Repr

/-- Group index to place and back. -/
def AGeo.place (g : AGeo) (i : Nat) : AGrp :=
  ⟨i / g.kb / g.cols / g.rows, i / g.kb / g.cols % g.rows, i / g.kb % g.cols, i % g.kb⟩
def AGeo.index (g : AGeo) (p : AGrp) : Nat := ((p.f * g.rows + p.r) * g.cols + p.c) * g.kb + p.k

/-- A tile's place: frame, tile row, tile column, band. -/
structure ATile where
  f : Nat
  m : Nat
  n : Nat
  k : Nat
  deriving DecidableEq, Repr

/-- The tile of a group, and a tile's index in the order f, m, n, k. -/
def AGrp.tile (p : AGrp) : ATile := ⟨p.f, p.r / 16, p.c / 16, p.k⟩
def AGeo.tileIdx (g : AGeo) (t : ATile) : Nat := ((t.f * g.tr + t.m) * g.tc + t.n) * g.kb + t.k

/-- The groups of a tile in raw order. -/
def AGeo.tileGroups (g : AGeo) (t : ATile) : List AGrp :=
  ((upTo (min 16 (g.rows - 16 * t.m))).map (fun r =>
    (upTo (min 16 (g.cols - 16 * t.n))).map (fun c => ⟨t.f, 16 * t.m + r, 16 * t.n + c, t.k⟩))).flatten

/-- The reference pool of frame f: the nearest marked frames before it, nearest first (R166). -/
def AGeo.pool (g : AGeo) (f : Nat) : List Nat :=
  (((upTo f).reverse).filter (fun q => q % g.stride == 0)).take g.depth

/-- Whether a tile is forced intra (R167). -/
def AGeo.forced (g : AGeo) (t : ATile) : Bool :=
  (g.pool t.f).isEmpty || (g.band != 0 &&
    (let nb := ceilDiv g.tc g.band
     t.n / g.band == (t.f + g.phase) % nb))

/-! ## Predictions (R168, R170) -/

/-- A side field: INTRA, or INTER with a pool index and a displacement. -/
inductive AField where
  | intra
  | inter (i : Nat) (dx dy : Int)
  deriving DecidableEq, Repr

/-- The zero field. -/
def AField.zero : AField := .inter 0 0 0

/-- A decision record of R181: MODE, REF, DX, DY in bits 12:0. -/
def AField.record : AField → Nat
  | .intra => 0x1000
  | .inter i dx dy => i * 1024 + unsigned 5 dx * 32 + unsigned 5 dy

/-- A record read. -/
def fieldOf (v : Nat) : AField := if v.testBit 12 then .intra else .inter (bitsOf v 10 2) (signed 5 (bitsOf v 5 5)) (signed 5 (bitsOf v 0 5))

/-- A coordinate moved and held at the frame's edges. -/
def clampTo (x : Nat) (d : Int) (n : Nat) : Nat := min ((x : Int) + d).toNat (n - 1)

/-- The source of a group under a field, `none` for none (R168). -/
def AGeo.source (g : AGeo) (p : AGrp) : AField → Option AGrp
  | .intra =>
    if 16 * (p.c / 16) + 1 ≤ p.c then some { p with c := p.c - 1 }
    else if 16 * (p.r / 16) + 1 ≤ p.r then some { p with r := p.r - 1 }
    else none
  | .inter i dx dy => some ⟨(g.pool p.f).getD i 0, clampTo p.r dy g.rows, clampTo p.c dx g.cols, p.k⟩

/-! ## The transform (R169) -/

/-- The order map and its inverse. -/
def omap (u w : Nat) : Nat := if 2 ^ (w - 1) ≤ u then 2 ^ w - 1 - u else u + 2 ^ (w - 1)
def iomap (m w : Nat) : Nat := if 2 ^ (w - 1) ≤ m then m - 2 ^ (w - 1) else 2 ^ w - 1 - m

/-- Zigzag of a w-bit two's-complement residual and its inverse. -/
def zigzag (s w : Nat) : Nat := if 2 ^ (w - 1) ≤ s then 2 * (2 ^ w - s) - 1 else 2 * s
def unzigzag (t w : Nat) : Nat := if t % 2 = 1 then 2 ^ w - (t + 1) / 2 else t / 2

/-- One coded word: data against a source word, or against the mapped +0. -/
def codeWord (w d : Nat) (src : Option Nat) : Nat :=
  let mp := match src with | none => 2 ^ (w - 1) | some x => omap x w
  zigzag ((omap d w + 2 ^ w - mp) % 2 ^ w) w

/-- One decoded word. -/
def uncodeWord (w t : Nat) (src : Option Nat) : Nat :=
  let mp := match src with | none => 2 ^ (w - 1) | some x => omap x w
  iomap ((mp + unzigzag t w) % 2 ^ w) w

/-- Word j of a group in a raw byte array. -/
def AGeo.word (g : AGeo) (a : Array Byte) (p : AGrp) (j : Nat) : Nat := wordOf a g.width (16 * g.index p + j)

/-- The 16 coded words of a group under a field. -/
def AGeo.codeGroup (g : AGeo) (a : Array Byte) (p : AGrp) (fl : AField) : List Nat :=
  let src := g.source p fl
  (upTo 16).map (fun j => codeWord g.width (g.word a p j) (src.map (fun q => g.word a q j)))

/-! ## Choosing (R173) -/

/-- The cost of a prediction over a whole tile. -/
def AGeo.cost (g : AGeo) (a : Array Byte) (t : ATile) (fl : AField) : Nat :=
  (g.tileGroups t).foldl (fun x p => x + 16 * groupWidth (g.codeGroup a p fl)) 0

/-- The vector that a decided tile offers. -/
def AGeo.offer (g : AGeo) (dec : List Nat) (t : ATile) : List (Int × Int) :=
  if g.forced t then []
  else match fieldOf (dec.getD (g.tileIdx t) 0x1000) with
    | .intra => []
    | .inter _ dx dy => [(dx, dy)]

/-- A list without later duplicates. -/
def dedup (l : List (Int × Int)) : List (Int × Int) := l.foldl (fun a x => if a.contains x then a else a ++ [x]) []

/-- The candidate vectors of a tile, in order. -/
def AGeo.cands (g : AGeo) (dec : List Nat) (t : ATile) : List (Int × Int) :=
  dedup ([(0, 0)]
    ++ (if 0 < t.n then g.offer dec { t with n := t.n - 1 } else [])
    ++ (if 0 < t.m then g.offer dec { t with m := t.m - 1 } else [])
    ++ g.offer dec { t with f := (g.pool t.f).headD 0 })

/-- A running best of strict comparisons. -/
def better (a : Array Byte) (g : AGeo) (t : ATile) (best : Option (AField × Nat)) (fl : AField) : Option (AField × Nat) :=
  let c := g.cost a t fl
  match best with
  | none => some (fl, c)
  | some (b, x) => if c < x then some (fl, c) else some (b, x)

/-- The prediction of a tile that is not forced intra. -/
def AGeo.choose (g : AGeo) (a : Array Byte) (dec : List Nat) (t : ATile) : AField :=
  let first := ((g.cands dec t).map (fun v => (upTo (g.pool t.f).length).map (fun i => AField.inter i v.1 v.2))).flatten
  match first.foldl (better a g t) none with
  | some (.inter i dx dy, c) =>
    let around : List (Int × Int) := (([-1, 0, 1] : List Int).map (fun y => ([-1, 0, 1] : List Int).map (fun x => (dx + x, dy + y)))).flatten
    let ok := around.filter (fun w => decide (w ≠ (dx, dy)) && decide (-16 ≤ w.1) && decide (w.1 ≤ 15) && decide (-16 ≤ w.2) && decide (w.2 ≤ 15))
    match ((ok.map (fun w => AField.inter i w.1 w.2)) ++ [AField.intra]).foldl (better a g t) (some (.inter i dx dy, c)) with
    | some (fl, _) => fl
    | none => .intra
  | _ => .intra

/-- The tiles of one frame in the order m, n, k. -/
def AGeo.frameTiles (g : AGeo) (f : Nat) : List ATile :=
  ((upTo g.tr).map (fun m => ((upTo g.tc).map (fun n => (upTo g.kb).map (fun k => ATile.mk f m n k))).flatten)).flatten

/-- The decision records of one more frame appended (R181). -/
def AGeo.decideFrame (g : AGeo) (a : Array Byte) (dec : List Nat) (f : Nat) : List Nat :=
  (g.frameTiles f).foldl (fun d t => d ++ [if g.forced t then 0x1000 else (g.choose a d t).record]) dec

/-! ## Blocks (R171, R172) -/

/-- Groups of a block: first index and count. -/
def AGeo.groupsOf (g : AGeo) (i rawBytes : Nat) : List AGrp :=
  let per := 65536 / (2 * g.width)
  (upTo (rawBytes / (2 * g.width))).map (fun j => g.place (i * per + j))

/-- The tiles of a block that carry a field, in the order of their first group in it. -/
def AGeo.listTiles (g : AGeo) (ps : List AGrp) : List ATile :=
  ps.foldl (fun l p => if l.contains p.tile || g.forced p.tile then l else l ++ [p.tile]) []

/-- The field of a tile. -/
def AGeo.fieldAt (g : AGeo) (dec : List Nat) (t : ATile) : AField :=
  if g.forced t then .intra else fieldOf (dec.getD (g.tileIdx t) 0x1000)

/-- The bits of the side-field prefix. -/
def prefixBits : AField → List AField → List Bool
  | _, [] => []
  | prev, x :: t =>
    (if x = prev then [true]
     else match x with
       | .intra => [false, true]
       | .inter i dx dy => [false, false] ++ bitsLsb 2 i ++ bitsLsb 5 (unsigned 5 dx) ++ bitsLsb 5 (unsigned 5 dy)) ++ prefixBits x t

/-- A block of a Cyloth-A skein encoded from its coded words and the side fields of its tiles (R171, R172). -/
def encodeA (raw : List Byte) (words : List Nat) (fs : List AField) : Coded :=
  encodeWords raw words (prefixBits .zero fs) (fs.all (· == .zero))

/-- One side field read at bit p; `none` when the bits run out or REF is not below the pool size. -/
def readField (a : Array Byte) (limit pool : Nat) (prev : AField) (p : Nat) : Option (AField × Nat) :=
  if limit ≤ p then none
  else if streamBit a p then some (prev, p + 1)
  else if limit ≤ p + 1 then none
  else if streamBit a (p + 1) then some (.intra, p + 2)
  else if limit < p + 14 then none
  else
    let i := readBits a (p + 2) 2
    if pool ≤ i then none else some (.inter i (signed 5 (readBits a (p + 4) 5)) (signed 5 (readBits a (p + 9) 5)), p + 14)

/-- Whether a field may stand for a tile: a repeated REF must also lie below the tile's own pool. -/
def poolOk (pool : Nat) : AField → Bool
  | .intra => true
  | .inter i _ _ => decide (i < pool)

/-- The side fields of a block: one per tile of its list, and where the symbols begin. -/
def readFields (g : AGeo) (a : Array Byte) (limit : Nat) : List ATile → AField → Nat → Option (List (ATile × AField) × Nat)
  | [], _, p => some ([], p)
  | t :: ts, prev, p =>
    match readField a limit (g.pool t.f).length prev p with
    | none => none
    | some (fl, p) =>
      if !poolOk (g.pool t.f).length fl then none
      else match readFields g a limit ts fl p with
        | none => none
        | some (l, p) => some ((t, fl) :: l, p)

/-- A decoded group appended to the store: its bytes, marked when its source is (R175, R176). -/
def rebuildGroup (g : AGeo) (fld : List (ATile × AField)) (store : Array MByte) (x : AGrp × List Nat) : Array MByte :=
  let p := x.1
  let fl := match fld.find? (fun y => y.1 == p.tile) with | some y => y.2 | none => .intra
  let src := g.source p fl
  let e := g.width / 8
  let at_ := fun (q : AGrp) (j k : Nat) => store.getD ((16 * g.index q + j) * e + k) (0, false)
  let bad := match src with | none => false | some q => (upTo (16 * e)).any (fun k => (at_ q 0 k).2)
  let ws := (upTo 16).map (fun j =>
    uncodeWord g.width (x.2.getD j 0) (src.map (fun q => leNat ((upTo e).map (fun k => (at_ q j k).1)))))
  store ++ ((ws.map (natLe e)).flatten.map (fun b => (b, bad))).toArray

/-- A Cyloth-A block decoded onto the bytes already rebuilt: `none` is BAD (R154, R171, R175). -/
def decodeA (g : AGeo) (store : List MByte) (h pay : List Byte) (i exp : Nat) : Option (List MByte) :=
  if !blockConsistent h i exp || !blockReservedOk h then none
  else
    let mode := fieldLe h 0 1
    let bits := fieldLe h 16 4
    let ps := g.groupsOf i exp
    let n := nWord exp g.width
    let words := fun (t : List Nat) => (upTo ps.length).map (fun k => (ps.getD k ⟨0, 0, 0, 0⟩, (t.drop (16 * k)).take 16))
    let go := fun (fld : List (ATile × AField)) (t : List Nat) =>
      (((words t).foldl (rebuildGroup g fld) store.toArray).toList).drop store.length
    if mode = 2 then some ((pay.take exp).map (fun b => (b, false)))
    else if mode = 0 then some (go ((g.listTiles ps).map (fun t => (t, AField.zero))) (List.replicate n 0))
    else match readFields g pay.toArray bits (g.listTiles ps) .zero 0 with
      | none => none
      | some (fld, p) => match decodeCoded pay bits p g.width n (nGroup exp g.width) with
        | none => none
        | some t => some (go fld t)

/-! ## Working space (R175, R181) -/

/-- Bytes of the encode store of R181 and of the decode store of R175. -/
def AGeo.encStore (g : AGeo) : Nat := (g.depth + 2) * g.frameBytes + 6 * g.tr * g.tc * g.kb
def AGeo.decStore (g : AGeo) : Nat :=
  if g.depth = 0 then 16 * g.cols * g.ch * (g.width / 8) else (g.depth + 1) * g.frameBytes

/-- Bytes of a row of positions, and of a group. -/
def AGeo.rowBytes (g : AGeo) : Nat := g.cols * g.ch * (g.width / 8)
def AGeo.groupBytes (g : AGeo) : Nat := 2 * g.width

/-- Decision records of one frame. -/
def AGeo.tiles (g : AGeo) : Nat := g.tr * g.tc * g.kb

/-- The places that frames 0 to f take in a store of so many, `keep q` naming the frames that it still holds when frame q comes in: each
takes the lowest place that none of those holds (log entry 187). -/
def placesOf (places : Nat) (keep : Nat → List Nat) : Nat → List Nat
  | 0 => [0]
  | f + 1 =>
    let p := placesOf places keep f
    p ++ [((upTo places).find? (fun x => !(keep (f + 1)).any (fun q => p.getD q places == x))).getD 0]

/-- The frames that stay in the encode store when frame f lands: the frame being packed, its pool and that of f (R181). -/
def AGeo.packKeep (g : AGeo) (f : Nat) : List Nat := g.pool (f - 1) ++ g.pool f ++ [f - 1]

/-- The frames whose decision records stay when frame f is decided: the frame being packed and the nearest marked frame (R181). -/
def AGeo.recKeep (g : AGeo) (f : Nat) : List Nat := (f - 1) :: (g.pool f).take 1

/-- Where frame f, and its decision records, begin in the encode store. -/
def AGeo.packOff (g : AGeo) (f : Nat) : Nat := (placesOf (g.depth + 2) g.packKeep f).getD f 0 * g.frameBytes
def AGeo.recOff (g : AGeo) (f : Nat) : Nat :=
  (g.depth + 2) * g.frameBytes + (placesOf 3 g.recKeep f).getD f 0 * (2 * g.tiles)

/-- Where byte t of the tensor lies in the decode store: the frame's place, or with DEPTH 0 its row among the sixteen of a tile row
(R175, R183). -/
def AGeo.decOff (g : AGeo) (t : Nat) : Nat :=
  if g.depth = 0 then t % g.frameBytes / g.rowBytes % 16 * g.rowBytes + t % g.rowBytes
  else (placesOf (g.depth + 1) g.pool (t / g.frameBytes)).getD (t / g.frameBytes) 0 * g.frameBytes + t % g.frameBytes

/-- A range of the tensor cut where the decode store goes on elsewhere: first byte and length of each part. -/
def AGeo.decParts (g : AGeo) (lo hi : Nat) : List (Nat × Nat) :=
  let u := if g.depth = 0 then g.rowBytes else g.frameBytes
  if hi ≤ lo then [] else (upTo ((hi - 1) / u + 1 - lo / u)).map (fun k =>
    let a := max lo ((lo / u + k) * u)
    (a, min hi ((lo / u + k + 1) * u) - a))

/-- What the decode store holds when the tensor is decoded up to a byte: the pool of the frame it lies in and what has come of that frame,
with DEPTH 0 of its tile row (R175). -/
def AGeo.decHeld (g : AGeo) (lo : Nat) : List (Nat × Nat) :=
  let f := lo / g.frameBytes
  if g.depth = 0 then [(f * g.frameBytes + lo % g.frameBytes / g.rowBytes / 16 * 16 * g.rowBytes, lo)]
  else (g.pool f).reverse.map (fun q => (q * g.frameBytes, (q + 1) * g.frameBytes)) ++ [(f * g.frameBytes, lo)]

/-- The frame of the first and of the last group of a block. -/
def AGeo.blockFrame (g : AGeo) (i : Nat) : Nat := 65536 * i / g.frameBytes
def AGeo.blockLast (g : AGeo) (i exp : Nat) : Nat := (65536 * i + exp - 1) / g.frameBytes

/-- Slots that the encode of frame f takes (R182): the larger of its blocks and the time its neighbour's decision takes. -/
def AGeo.frameSlots (g : AGeo) (f : Nat) : Nat :=
  let own := ((upTo (blockCount (g.frames * g.frameBytes))).filter (fun b => g.blockFrame b == f)).length
  let p := if f + 1 < g.frames then (g.pool (f + 1)).length else 0
  let d := if p = 0 then 0 else (upTo g.tr).foldl (fun x m =>
    x + (min 16 (g.rows - 16 * m) + p * (min (16 * m + 30) (g.rows - 1) + 1 - (16 * m - 16))) * g.rowBytes) 0
  max own (ceilDiv (g.frameBytes + d) 524288)

/-- Slots of the frames before f, and of a whole encode (R182). -/
def AGeo.slotsBefore (g : AGeo) (f : Nat) : Nat := (upTo f).foldl (fun a q => a + g.frameSlots q) 0
def AGeo.encodeSlots (g : AGeo) : Nat := g.slotsBefore g.frames

end Sys2Proof.Machine
end

