-- ==== Sys2Proof/Machine/ChartForm.lean ====
section
/-! DEFINITION. Machine/ChartForm.lean: the fields of a chart image, read from its bytes (R59 to R68), and what the installed
chart says of owners (R65). -/

namespace Sys2Proof.Machine

/-- A header field (Chart header, R59). -/
def Chart.hf (c : Chart) (o n : Nat) : Nat := fieldLe c.hdr o n
def Chart.nvar (c : Chart) : Nat := c.hf 0x015 1
def Chart.nswatch (c : Chart) : Nat := c.hf 0x016 1
def Chart.margin (c : Chart) : Nat := c.hf 0x017 1
def Chart.fclk (c : Chart) : Nat := c.hf 0x018 2
def Chart.devices (c : Chart) : Nat := c.hf 0x01A 1
def Chart.member (c : Chart) : Nat := c.hf 0x01B 1
def Chart.portMask (c : Chart) : Nat := c.hf 0x01C 1
def Chart.boundaryVector (c : Chart) : Nat := c.hf 0x01E 2
def Chart.configId (c : Chart) : Nat := c.hf 0x020 8
def Chart.epoch (c : Chart) : Nat := c.hf 0x028 4
def Chart.priorEpoch (c : Chart) : Nat := c.hf 0x02C 4
def Chart.minFw (c : Chart) : Nat := c.hf 0x030 4
def Chart.progOA (c : Chart) : Nat := c.hf 0x038 8
def Chart.progBytes (c : Chart) : Nat := c.hf 0x040 8
def Chart.stageOA (c : Chart) : Nat := c.hf 0x048 8
def Chart.stageBytes (c : Chart) : Nat := c.hf 0x050 8

/-- A section's bytes and its COUNT (R60). -/
def Chart.sec (c : Chart) (i : Nat) : List Byte := c.secs.getD i []
def Chart.cnt (c : Chart) (i : Nat) : Nat := c.cnts.getD i 0

/-- Item k of a section in program form (R61). -/
def Chart.item (c : Chart) (i k : Nat) : Option (List Byte) :=
  if k < c.cnt i then some (sliceB (c.sec i) (fieldLe (c.sec i) (8 * k) 4) (fieldLe (c.sec i) (8 * k + 4) 4)) else none

/-- A field of variant record v (R62). -/
def Chart.vf (c : Chart) (v o n : Nat) : Nat := fieldLe (c.sec 0) (128 * v + o) n
def Chart.vM (c : Chart) (v : Nat) : Nat := c.vf v 0x00 2
def Chart.vE (c : Chart) (v : Nat) : Nat := c.vf v 0x04 4
def Chart.vF (c : Chart) (v : Nat) : Nat := c.vf v 0x08 8
def Chart.vW (c : Chart) (v : Nat) : Nat := c.vf v 0x10 8
def Chart.vT (c : Chart) (v : Nat) : Nat := c.vf v 0x18 4
def Chart.vQ (c : Chart) (v : Nat) : Nat := c.vf v 0x1C 4
def Chart.vG (c : Chart) (v : Nat) : Nat := c.vf v 0x20 2
def Chart.vUPDATE (c : Chart) (v : Nat) : Nat := c.vf v 0x22 2
def Chart.vI (c : Chart) (v : Nat) : Nat := c.vf v 0x24 4
def Chart.vStashFirst (c : Chart) (v : Nat) : Nat := c.vf v 0x28 4
def Chart.vStashCount (c : Chart) (v : Nat) : Nat := c.vf v 0x2C 4
def Chart.vSchedule (c : Chart) (v : Nat) : Nat := c.vf v 0x38 2

/-- Plan-end, end of reserve, verdict count and step length of a variant, from cast-on (Step counts, R17). -/
def Chart.planEnd (c : Chart) (v : Nat) : Nat := c.vF v + c.vW v + c.vT v
def Chart.reserveEnd (c : Chart) (v : Nat) : Nat := c.planEnd v + c.vQ v
def Chart.verdictAt (c : Chart) (v : Nat) : Nat := c.reserveEnd v + c.vG v
def Chart.length (c : Chart) (v : Nat) : Nat := c.verdictAt v + c.vE v

/-- The stash area of a tier in a variant (R62): tier 0 on-die, 1 HBM, 2 neighbour, 3 host. -/
def Chart.area (c : Chart) (v tier : Nat) : Nat × Nat := (c.vf v (0x40 + 16 * tier) 8, c.vf v (0x48 + 16 * tier) 8)

/-- Elements of section 10 from `first`, `count` of them (R63). -/
def Chart.streamSet (c : Chart) (first count : Nat) : List Nat :=
  (upTo count).map (fun k => fieldLe (c.sec 10) (2 * (first + k)) 2)

/-- The stream set of a variant. -/
def Chart.variantSet (c : Chart) (v : Nat) : List Nat := c.streamSet (c.vf v 0x30 4) (c.vf v 0x34 4)

/-- A swatch record's fields (R63). -/
def Chart.swatchS (c : Chart) (p : Nat) : Nat := fieldLe (c.sec 8) (32 * p) 8
def Chart.swatchSchedule (c : Chart) (p : Nat) : Nat := fieldLe (c.sec 8) (32 * p + 8) 2
def Chart.swatchSet (c : Chart) (p : Nat) : List Nat :=
  c.streamSet (fieldLe (c.sec 8) (32 * p + 0x10) 4) (fieldLe (c.sec 8) (32 * p + 0x14) 4)

/-- The image of stream context n in section 3, 64 bytes; none beyond COUNT (R202). -/
def Chart.ctxImage (c : Chart) (n : Nat) : Option (List Byte) :=
  if n < c.cnt 3 then some (sliceB (c.sec 3) (64 * n) 64) else none

/-- Every stream set of the chart, in any variant or swatch. -/
def Chart.allSets (c : Chart) : List Nat :=
  ((upTo c.nvar).map c.variantSet).flatten ++ ((upTo c.nswatch).map c.swatchSet).flatten

/-- One ownership entry covers a resource of its kind (R65). -/
def Chart.ownEntryCovers (c : Chart) (kind idx e : Nat) : Bool :=
  let f := fieldLe (c.sec 11) (16 * e + 4) 4
  let n := fieldLe (c.sec 11) (16 * e + 8) 4
  fieldLe (c.sec 11) (16 * e) 1 == kind && decide (f ≤ idx) && decide (idx < f + n)

/-- The owner code an entry of the ownership map gives a resource: 1 HOST, 2 CHART, 3 CDP (R65). -/
def Chart.ownerOf (c : Chart) (kind idx : Nat) : Option Nat :=
  ((upTo (c.cnt 11)).find? (c.ownEntryCovers kind idx)).map (fun e => fieldLe (c.sec 11) (16 * e + 1) 1)

/-- Owner codes: 0 FW, 1 HOST, 2 CHART, 3 CDP. -/
def State.ownerOf (s : State) (kind idx dflt : Nat) : Nat :=
  match s.chart.active with
  | none => dflt
  | some c => (c.ownerOf kind idx).getD dflt

/-- Default owners (R65): stream contexts FW, queues, pages and vectors HOST. -/
def State.ctxOwner (s : State) (n : Nat) : Nat := s.ownerOf 1 n 0
def State.queueOwner (s : State) (q : Nat) : Nat := s.ownerOf 2 q 1
def State.vecOwner (s : State) (v : Nat) : Nat := s.ownerOf 4 v 1

/-- Whether an OA page lies in the installed chart's staging area, which belongs to FW (R71). -/
def State.inStage (s : State) (page : Nat) : Bool :=
  match s.chart.active with
  | none => false
  | some c => decide (c.stageOA / 2 ^ 21 ≤ page) && decide (page * 2 ^ 21 < c.stageOA + c.stageBytes)

/-- The owner of an OA page of 2 MiB (R65, R71). -/
def State.pageOwner (s : State) (page : Nat) : Nat := if s.inStage page then 0 else s.ownerOf 3 page 1

/-- The variant of the running or last step. -/
def State.variant (s : State) : Nat := s.rf R.STEP_STATUS_VARIANT

/-- Update program u of the installed chart (R311). -/
def Chart.updProg (c : Chart) (u : Nat) : List Byte := if u = 0xFFFF then [] else (c.item 7 u).getD []

/-- Shadow pairs of an update program: live OA, shadow OA, pages, owner (R328). -/
def pairsOf (b : List Byte) : List (Nat × Nat × Nat × Nat) :=
  let o := 64 + 32 * fieldLe b 0 2 + 96 * fieldLe b 2 2
  (upTo (fieldLe b 4 2)).map (fun k =>
    (fieldLe b (o + 32 * k) 8, fieldLe b (o + 32 * k + 8) 8, fieldLe b (o + 32 * k + 16) 4, fieldLe b (o + 32 * k + 20) 1))

/-- The shadow pairs of every update program of the chart. -/
def Chart.pairs (c : Chart) : List (Nat × Nat × Nat × Nat) :=
  ((upTo (c.cnt 7)).map (fun u => pairsOf (c.updProg u))).flatten

/-- The pair whose live range holds an OA page: the shadow page and the pair's owner. -/
def State.pairOf (s : State) (page : Nat) : Option (Nat × Nat) :=
  match s.chart.active with
  | none => none
  | some c =>
    (c.pairs.find? (fun p => decide (p.1 / 2 ^ 21 ≤ page) && decide (page < p.1 / 2 ^ 21 + p.2.2.1))).map
      (fun p => (p.2.1 / 2 ^ 21 + (page - p.1 / 2 ^ 21), p.2.2.2))

end Sys2Proof.Machine
end

