-- ==== Sys2Proof/Machine/FlashMap.lean ====
section
/-! DEFINITION. Machine/FlashMap.lean: where a flash unit lives, and reading and writing units (R286 to R296, R302, R303). -/

namespace Sys2Proof.Machine

/-- What a byte that nothing has written reads as: zero (R289, R450; log entry 4 for the on-die buffers). -/
def memDflt (_ : Nat) : Byte := 0

/-- Channel and lane of a logical flash unit (R291). -/
def flashPlace (u : Nat) : Nat × Nat :=
  let q := u / 32
  let f := (upTo 6).foldl (fun f k => f ^^^ q / 2 ^ (5 * k) % 32) 0
  ((u % 32 + 7 * f) % 32, q % 8)

/-- The region of a unit: 0 pSLC, 1 TLC (R288). -/
def unitRegion (u : Nat) : Nat := if u < 2 ^ 31 then 0 else 1

/-- The format in force, `none` before a format has ended. -/
def State.fmt (s : State) : FlashFmt := s.ftl.fmt.getD ⟨0, 0, 0, 0, 0, 0, 0⟩

/-- Units of a region, its blocks per LUN, its first block index, the units of one block. -/
def State.regionUnits (s : State) (r : Nat) : Nat := if r = 0 then s.fmt.slcUnits else s.fmt.tlcUnits
def State.regionBlks (s : State) (r : Nat) : Nat := if r = 0 then s.fmt.slcBlks else s.fmt.tlcBlks
def State.regionFirst (s : State) (r : Nat) : Nat := if r = 0 then 0 else s.fmt.slcBlks
def State.blkCap (s : State) (r : Nat) : Nat :=
  if r = 0 then s.rf R.FTL_GEOMETRY_WORDLINES else 3 * s.rf R.FTL_GEOMETRY_WORDLINES

/-- The region that a block serves; 2 for blocks of neither. -/
def State.blkRegion (s : State) (b : Nat) : Nat :=
  let i := b % 4096
  if i < s.fmt.slcBlks then 0 else if i < s.fmt.slcBlks + s.fmt.tlcBlks then 1 else 2

/-- Whether a block serves the map store (R289, R298): pSLC blocks outside both regions, after theirs. -/
def State.blkStore (s : State) (b : Nat) : Bool :=
  decide (s.fmt.slcBlks + s.fmt.tlcBlks ≤ b % 4096) && decide (b % 4096 < s.fmt.slcBlks + s.fmt.tlcBlks + s.fmt.mapBlks)

/-- LUN code (channel * 32 + LUN) of a block. -/
def blkLun (b : Nat) : Nat := b / 4096

/-- A block's record. -/
def State.blk (s : State) (b : Nat) : FlashBlk := SMap.get (fun _ => ⟨0, 0, 0⟩) s.ftl.blks b
def State.setBlk (s : State) (b : Nat) (x : FlashBlk) : State :=
  { s with ftl := { s.ftl with blks := SMap.put (fun _ => ⟨0, 0, 0⟩) s.ftl.blks b x } }

/-- Whether the flash tier serves requests. -/
def State.flashUp (s : State) : Bool := s.rf R.FTL_STATUS_STATE == 4 || s.rf R.FTL_STATUS_STATE == 5

/-- Whether a unit is formatted and served (R288). -/
def State.unitMapped (s : State) (u : Nat) : Bool :=
  s.flashUp && (if u < 2 ^ 31 then decide (u < s.fmt.slcUnits) else decide (u - 2 ^ 31 < s.fmt.tlcUnits))

/-- Whether `n` bytes from a logical flash byte are formatted. -/
def State.flashMapped (s : State) (a n : Nat) : Bool := n == 0 || (s.unitMapped (a / 65536) && s.unitMapped ((a + n - 1) / 65536))

/-- The channels whose bus has not trained (R302). -/
def FlashSt.untrained (f : FlashSt) : List Nat := (upTo f.parts.length).filter (fun c => !(f.parts.map (·.trained)).getD c true)

/-- LUNs of a lane in service on a channel (R291, R302). -/
def State.laneLuns (s : State) (ch lane : Nat) : List Nat :=
  if s.ftl.chDown.contains ch then []
  else ((upTo (s.rf R.FTL_GEOMETRY_LUNS)).filter (fun n => n % 8 == lane && !s.ftl.lunOut.contains (ch * 32 + n))).map (ch * 32 + ·)

/-- Whether a channel has failed: some lane has no LUN, or its bus is down (R302). -/
def State.chFailed (s : State) (ch : Nat) : Bool :=
  s.ftl.chDown.contains ch || (upTo 8).any (fun l => (s.laneLuns ch l).isEmpty)

/-- The erases of a LUN. -/
def State.lunErases (s : State) (lun : Nat) : Nat :=
  (s.ftl.blks.filter (fun p => blkLun p.1 == lun)).foldl (fun a p => a + p.2.erases) 0

/-- Good blocks of a region on a LUN, in ascending index. -/
def State.goodBlks (s : State) (r lun : Nat) : List Nat :=
  ((upTo (s.regionBlks r)).map (fun k => lun * 4096 + s.regionFirst r + k)).filter (fun b => !s.ftl.bad.contains b)

/-- The element of a list with the least measure, the first among equals. -/
def leastBy (f : Nat → Nat) : List Nat → Option Nat
  | [] => none
  | x :: t => match leastBy f t with
    | none => some x
    | some y => if f y < f x then some y else some x

/-- The block of a LUN that the next unit of a region goes to: the open one, else the free block with the fewest erases (R292). -/
def State.openBlk (s : State) (r lun : Nat) : Option Nat :=
  let good := (s.goodBlks r lun).filter (fun b => !s.ftl.queue.contains b)
  match good.find? (fun b => decide (0 < (s.blk b).next) && decide ((s.blk b).next < s.blkCap r)) with
  | some b => some b
  | none => leastBy (fun b => (s.blk b).erases) (good.filter (fun b => (s.blk b).next == 0))

/-- The lane of a LUN: channel * 8 + lane. -/
def lunLane (l : Nat) : Nat := l / 32 * 8 + l % 32 % 8

/-- Whether a LUN runs a background array operation now (R292). -/
def State.lunBusy (s : State) (l : Nat) : Bool := s.ftl.bg.any (fun w => w.lun == l && decide (s.row < w.due))

/-- A free physical unit for a logical one, in its lane: on a LUN that runs no background operation, where one of them holds it (R292). -/
def State.freePlace (s : State) (u : Nat) : Option Nat :=
  let r := unitRegion u
  let p := flashPlace u
  let all := (s.laneLuns p.1 p.2).filter (fun l => (s.openBlk r l).isSome)
  let idle := all.filter (fun l => !s.lunBusy l)
  let luns := if idle.isEmpty then all else idle
  match leastBy s.lunErases luns with
  | none => none
  | some l => (s.openBlk r l).map (fun b => b * 4096 + (s.blk b).next)

/-- A region's free count. -/
def freeF (r : Nat) : Fld := if r = 0 then R.FTL_FREE_SLC else R.FTL_FREE_TLC

/-- The pages of a physical unit programmed with their metadata, under the next write sequence number (R286). -/
def State.programPages (s : State) (p u : Nat) (store : Bool) : State :=
  let b := p / 4096
  let x := s.blk b
  let s := s.setBlk b { x with next := x.next + 1 }
  { s with ftl := { s.ftl with
      pages := s.ftl.pages.filter (fun (q : Nat × PageMeta) => q.1 != p) ++ [(p, PageMeta.mk u s.ftl.wseq store)], wseq := s.ftl.wseq + 1 } }

/-- A physical unit programmed with a logical unit. -/
def State.programPlace (s : State) (p u : Nat) : State :=
  let s := s.programPages p u false
  let f := freeF (s.blkRegion (p / 4096))
  s.set f (s.rf f - 1)

/-! ## The map store (R286, R298) -/

/-- The good blocks of the map store on a LUN. -/
def State.storeBlks (s : State) (lun : Nat) : List Nat :=
  ((upTo s.fmt.mapBlks).map (fun k => lun * 4096 + s.fmt.slcBlks + s.fmt.tlcBlks + k)).filter (fun b => !s.ftl.bad.contains b)

/-- Whether a block of the map store holds nothing of the latest snapshot or of the journal behind it. -/
def State.storeFree (s : State) (b : Nat) : Bool :=
  s.blkStore b && s.ftl.pages.all (fun (q : Nat × PageMeta) => q.1 / 4096 != b || decide (q.2.seq < s.ftl.snapSeq))

/-- The physical unit that the map store writes next: in an open block of it, else in its free block with the fewest erases. -/
def State.storePlace (s : State) : Option Nat :=
  let luns := (((upTo 32).map (fun c => ((upTo 8).map (s.laneLuns c)).flatten)).flatten)
  let bs := (luns.map s.storeBlks).flatten
  let cap := s.blkCap 0
  let b := match bs.find? (fun b => decide (0 < (s.blk b).next) && decide ((s.blk b).next < cap)) with
    | some b => some b
    | none => leastBy (fun b => (s.blk b).erases) (bs.filter (fun b => (s.blk b).next == 0))
  b.map (fun b => b * 4096 + (s.blk b).next)

/-- `n` units of the map store written, their pages flagged; the logical unit number in their metadata is a free value, since the spec
gives a map-store page none (log entry 243). -/
def State.writeStorePages (s : State) : Nat → State
  | 0 => s
  | n + 1 =>
    let (v, s) := s.fresh
    (match s.storePlace with
     | none => s
     | some p => s.programPages p (v % 2 ^ 32) true).writeStorePages n

/-! ## Reads counted (R300) -/

/-- Blocks queued for relocation shown. -/
def State.showQueue (s : State) : State := s.set R.FTL_DISTURB_QUEUED s.ftl.queue.length

/-- A block queued for relocation (R299). -/
def State.queueBlk (s : State) (b : Nat) : State :=
  ({ s with ftl := { s.ftl with queue := if s.ftl.queue.contains b then s.ftl.queue else s.ftl.queue ++ [b] } }).showQueue

/-- The disturb limit of a region in reads. -/
def State.disturbLimit (s : State) (r : Nat) : Nat :=
  1000 * (if r = 0 then s.rf R.FTL_DISTURB_SLC_LIMIT_K else s.rf R.FTL_DISTURB_TLC_LIMIT_K)

/-- The live place of a unit. -/
def State.livePlace (s : State) (u : Nat) : Option Nat := (s.ftl.live.find? (fun p => p.1 == u)).map (·.2)

/-- One multi-plane read of a block counted (R300). -/
def State.countRead (s : State) (b : Nat) : State :=
  let x := s.blk b
  let s := s.setBlk b { x with reads := x.reads + 1 }
  let lim := s.disturbLimit (s.blkRegion b)
  if s.blkRegion b = 2 ∨ lim = 0 then s
  else
    let s := if x.reads + 1 = lim then s.queueBlk b else s
    if x.reads + 1 = 2 * lim then s.set R.FTL_ERR_DISTURB_LATE 1 else s

/-- An event of the flash tier: COUNT, LAST_STATUS and the log. -/
def State.flashErr (s : State) (n st detail aux : Nat) : State :=
  ((s.addSat R.FTL_ERR_COUNT n).set R.FTL_ERR_LAST_STATUS st).logEv st 0x38 0 detail aux

/-- A codeword as a page holds it (R286): 4,096 data bytes, the metadata of its page with the page's place within the unit, 496 bytes of
parity over the data. -/
structure Codeword where
  data   : List Byte
  info   : PageMeta
  page   : Nat
  parity : List Byte
  deriving DecidableEq, Repr

/-- Codeword cw, 0 to 15, of the live version of a unit; `none` for a unit that nothing has written since the format. -/
def State.codeword (s : State) (u cw : Nat) : Option Codeword :=
  match s.ftl.live.find? (fun p => p.1 == u) with
  | none => none
  | some p =>
    let data := (upTo 4096).map (fun k => SMap.get memDflt s.ftl.cells (65536 * u + 4096 * cw + k))
    (s.ftl.pages.find? (fun q => q.1 == p.2)).map (fun q => ⟨data, q.2, cw / 4, (upTo 496).map (Config.ldpcParity data)⟩)

/-- One byte of the flash tier (R296): live content, marked when its codeword is (R295) or its channel has failed (R302). -/
def State.flashByte (s : State) (a : Nat) : MByte :=
  (SMap.get memDflt s.ftl.cells a, s.ftl.cwMarks.contains (a / 4096) || s.chFailed (flashPlace (a / 65536)).1)

/-- `n` bytes of the flash tier. -/
def State.readFlash (s : State) (a n : Nat) : List MByte := (upTo n).map (fun k => s.flashByte (a + k))

/-- Bytes written at ascending addresses of a byte map. -/
def putBytes (m : List Host.Cell) (a : Nat) : List Byte → List Host.Cell
  | [] => m
  | b :: t => putBytes (SMap.put memDflt m a b) (a + 1) t

/-- Codeword marks after a write (R428, R429). -/
def cwMark (marks : List Nat) (c a : Nat) (l : List MByte) : List Nat :=
  if ((upTo l.length).any fun k => (a + k) / 4096 == c && (l.getD k (0, false)).2) then NSet.ins c marks
  else if decide (a ≤ 4096 * c) && decide (4096 * c + 4096 ≤ a + l.length) then NSet.del c marks
  else marks

/-- The codewords that `n` bytes from a flash byte touch. -/
def codewords (a n : Nat) : List Nat := if n = 0 then [] else (upTo ((a + n - 1) / 4096 - a / 4096 + 1)).map (a / 4096 + ·)

/-- Bytes and marks of one unit in a byte map. -/
def unitCells (m : List Host.Cell) (u : Nat) : List Host.Cell := m.filter (fun c => c.1 / 65536 == u)
def dropUnit (m : List Host.Cell) (u : Nat) : List Host.Cell := m.filter (fun c => c.1 / 65536 != u)
def unitMarks (m : List Nat) (u : Nat) : List Nat := m.filter (fun c => c / 16 == u)
def dropMarks (m : List Nat) (u : Nat) : List Nat := m.filter (fun c => c / 16 != u)

/-- The live version of a unit as an undo record. -/
def FlashSt.version (f : FlashSt) (u : Nat) : FlashUndo :=
  ⟨u, unitCells f.cells u, unitMarks f.cwMarks u, (f.live.find? (fun p => p.1 == u)).map (·.2)⟩

/-- An undo record added unless the unit has one. -/
def addUndo (l : List FlashUndo) (x : FlashUndo) : List FlashUndo := if l.any (fun y => y.unit == x.unit) then l else l ++ [x]

/-- Whether bytes continue the shadow that a block is writing: a block begins on a unit boundary (R293), and a skein comes in pieces. -/
def State.goesOn (s : State) (u a : Nat) : Bool := a % 65536 != 0 && s.ftl.shUnits.contains u

/-- More bytes of a unit whose shadow is being written. -/
def State.growShadow (s : State) (a : Nat) (l : List MByte) : State :=
  { s with ftl := { s.ftl with
      shadow := putBytes s.ftl.shadow a (l.map (·.1))
      shMarks := (codewords a l.length).foldl (fun m c => cwMark m c a l) s.ftl.shMarks } }

/-- A plan write of a unit in the training domain: a shadow in a new physical unit, completed with zero bytes, journalled with its step;
an earlier shadow of the step is replaced (R293, R296, R298). -/
def State.writeShadow (s : State) (u p a : Nat) (l : List MByte) : State :=
  let s := s.programPlace p u
  { s with ftl := { s.ftl with
      shadow := putBytes (dropUnit s.ftl.shadow u) a (l.map (·.1))
      shadowed := s.ftl.shadowed + (if s.ftl.shUnits.contains u then 0 else 1)
      shUnits := NSet.ins u s.ftl.shUnits
      shMarks := (codewords a l.length).foldl (fun m c => cwMark m c a l) (dropMarks s.ftl.shMarks u)
      shPlace := SMap.put (fun _ => 2 ^ 60) s.ftl.shPlace u p
      shStep := s.ftl.shStep.filter (fun (q : Nat × Nat) => q.1 != u) ++ [(u, s.rf R.STEP_NUMBER_VALUE)]
      journal := s.ftl.journal ++ [JEntry.mk u p (some (s.rf R.STEP_NUMBER_VALUE))], unwritten := s.ftl.unwritten + 1 } }

/-- A live write of a unit, merged with its bytes, which a write of a part of it reads (R293, R300); what it replaces may come back after a
loss of power until the writer seals (R305). -/
def State.writeLive (s : State) (u p a : Nat) (l : List MByte) : State :=
  let s := match if l.length < 65536 then s.livePlace u else none with
    | some q => s.countRead (q / 4096)
    | none => s
  let s := s.programPlace p u
  { s with ftl := { s.ftl with
      journal := s.ftl.journal ++ [JEntry.mk u p none], unwritten := s.ftl.unwritten + 1
      hostPend := addUndo s.ftl.hostPend (s.ftl.version u)
      undo := s.ftl.undo.filter (fun x => x.unit != u)
      cells := putBytes s.ftl.cells a (l.map (·.1))
      cwMarks := (codewords a l.length).foldl (fun m c => cwMark m c a l) s.ftl.cwMarks
      live := SMap.put (fun _ => 2 ^ 60) s.ftl.live u p } }

/-- One unit's part of a flash write: discarded on a failed channel (R302) or where the lane holds no free unit (R303). -/
def State.writeUnit (s : State) (shadow : Bool) (u a : Nat) (l : List MByte) : State :=
  if s.chFailed (flashPlace u).1 then s.flashErr 1 stUNIT_LOST u (65536 * u)
  else if shadow && s.goesOn u a then s.growShadow a l
  else match s.freePlace u with
    | none =>
      if shadow && a % 65536 != 0 && s.ftl.noRoom.contains u then s
      else
        let s := (s.addSat R.FTL_ERR_COUNT 1).set R.FTL_ERR_NO_SPACE 1
        if shadow then ({ s with ftl := { s.ftl with noRoom := NSet.ins u s.ftl.noRoom } }).raiseFlag 0x07 else s
    | some p => if shadow then s.writeShadow u p a l else s.writeLive u p a l

/-- The units that bytes touch: unit, address, bytes. -/
def unitSpans (a : Nat) (l : List MByte) : List (Nat × Nat × List MByte) :=
  if l.isEmpty then []
  else (upTo ((a + l.length - 1) / 65536 - a / 65536 + 1)).map (fun k =>
    let u := a / 65536 + k
    let lo := max a (u * 65536)
    let hi := min (a + l.length) ((u + 1) * 65536)
    (u, lo, (l.drop (lo - a)).take (hi - lo)))

/-- Bytes written to the flash tier, unit by unit. -/
def State.writeFlash (s : State) (shadow : Bool) (a : Nat) (l : List MByte) : State :=
  (unitSpans a l).foldl (fun s x => s.writeUnit shadow x.1 x.2.1 x.2.2) s

/-- The flash shadow of the step made live, unit by unit; what it replaces may come back until the commit is durable (R296, R305). -/
def FlashSt.commit (f : FlashSt) : FlashSt :=
  let inSh := fun a => f.shUnits.contains (a / 65536)
  { f with
    undo := f.shUnits.foldl (fun l u => addUndo l (f.version u)) f.undo
    stale := f.shUnits.foldl (fun l u => match f.live.find? (fun p => p.1 == u) with
      | some p => NSet.ins p.2 l
      | none => l) f.stale
    cells := f.shadow.foldl (fun m c => SMap.put memDflt m c.1 c.2) (f.cells.filter (fun c => !inSh c.1))
    cwMarks := f.shMarks.foldl (fun m c => NSet.ins c m) (f.cwMarks.filter (fun c => !inSh (c * 4096)))
    live := f.shPlace.foldl (fun m p => SMap.put (fun _ => 2 ^ 60) m p.1 p.2) f.live
    commits := f.commits + 1, record := true
    shadow := [], shUnits := [], shMarks := [], shPlace := [], shStep := [], noRoom := [] }

/-- The flash shadows of the step freed (R296). -/
def FlashSt.discard (f : FlashSt) : FlashSt := { f with shadow := [], shUnits := [], shMarks := [], shPlace := [], shStep := [], noRoom := [] }

end Sys2Proof.Machine
end

