-- ==== Sys2Proof/Machine/Mem.lean ====
section
/-! DEFINITION. Machine/Mem.lean: device addresses, the tier map, marks, and reading and writing bytes through OA (R221, R222,
R255 to R277, R328, R424, R428, R429). -/

namespace Sys2Proof.Machine

/-! ## Device addresses (R256, R272 to R274) -/

/-- Tiers of a DA: 0 HBM, 1 on-die, 2 flash, 3 host, 4 neighbour, 5 a reserved range (R256, R274). -/
def tierOf (lclusters da : Nat) : Nat :=
  if da < 0x7C00000000 then 0
  else if da < 0x7C00000000 + lclusters * 0x2000000 then
    (if (da - 0x7C00000000) % 0x2000000 < 0x1800000 then 1 else 5)
  else if da < 2 ^ 48 then 5
  else if da < 2 ^ 49 then 2
  else if da < 2 ^ 50 then 3
  else if da < 2 ^ 50 + 2 ^ 48 then 4
  else 5

/-- The tier of a DA on this device. -/
def State.tierOf (s : State) (da : Nat) : Nat := Machine.tierOf (s.rf R.GLB_ID_LCLUSTERS) da

/-- XOR fold of R272 over the seven 3-bit fields of q. -/
def hbmFold (q : Nat) : Nat := (upTo 7).foldl (fun f k => f ^^^ q / 2 ^ (3 * k) % 8) 0

/-- Logical channel and byte within the channel of an HBM DA (R272). -/
def hbmPlace (da : Nat) : Nat × Nat :=
  let g := da / 2048
  let q := g / 248
  ((g % 248 + 31 * hbmFold q) % 248, q * 2048 + da % 2048)

/-- The physical channel that serves a logical one: the unit whose LOGICAL names it, else the place R273 gives it. -/
def State.physChan (s : State) (lch : Nat) : Nat :=
  match (upTo 32).find? (fun c =>
      s.rf (R.FAULT_UNIT_STATE (0x611000 + 8 * (32 * (lch / 31) + c))) != 0 &&
      s.rf (R.FAULT_UNIT_LOGICAL (0x611000 + 8 * (32 * (lch / 31) + c))) == lch) with
  | some c => 32 * (lch / 31) + c
  | none => 32 * (lch / 31) + (if lch % 31 < s.rf (R.HBM_STACK_SPARE (lch / 31)) then lch % 31 else lch % 31 + 1)

/-- Whether the 2 KiB granule of an HBM DA reads marked because its channel is lost or its lost bit is set (R424). -/
def State.isLost (s : State) (da : Nat) : Bool :=
  if s.fault.lost.isEmpty && s.fault.lossDue.isEmpty then false
  else if decide (0x7C00000000 ≤ da) then false
  else
    let p := s.physChan (hbmPlace da).1
    s.fault.lossDue.contains p ||
      (s.fault.lost.contains p && !s.fault.lostClear.contains (p * 2 ^ 20 + (hbmPlace da).2 / 2048))

/-- Whether writes to an HBM DA are discarded: its channel is lost and not yet replaced (R424). -/
def State.isDead (s : State) (da : Nat) : Bool :=
  if s.fault.lossDue.isEmpty || decide (0x7C00000000 ≤ da) then false
  else s.fault.lossDue.contains (s.physChan (hbmPlace da).1)

/-! ## Bytes and marks of HBM and the on-die buffers (R428, R429) -/

/-- What a byte that memory does not list reads as: zero, or a free byte in HBM that an uninstall has not preserved. -/
def State.dflt (s : State) (da : Nat) : Byte :=
  match s.lostHbm with
  | some k => if da < 0x7C00000000 && !s.hbmKept.contains (da / 2 ^ 21) then Config.freeByte k da else memDflt da
  | none => memDflt da

/-- The canonical form of memory. -/
abbrev Memory.wf (s : State) : Prop := SMap.wf s.dflt s.mem = true

/-- One byte of HBM or on-die memory. -/
def State.byteAt (s : State) (da : Nat) : Byte := SMap.get s.dflt s.mem da

/-- One byte written. -/
def State.setByte (s : State) (da : Nat) (b : Byte) : State := { s with mem := SMap.put s.dflt s.mem da b }

/-- Bytes written at ascending addresses. -/
def State.setBytes (s : State) (da : Nat) : List Byte → State
  | [] => s
  | b :: t => (s.setByte da b).setBytes (da + 1) t

/-- `n` bytes from a DA set to zero and their granules' marks cleared where the range covers them. -/
def State.zeroRange (s : State) (da n : Nat) : State :=
  let s := { s with mem := s.mem.filter (fun (c : Host.Cell) => decide (c.1 < da ∨ da + n ≤ c.1))
                    marks := s.marks.filter (fun g => decide (64 * g < da ∨ da + n < 64 * g + 64)) }
  if s.lostHbm.isSome && decide (da < 0x7C00000000) then
    s.setBytes da (List.replicate n 0) else s

/-- The bytes of an HBM or on-die page dropped: every byte of it reads as zero. -/
def State.dropPage (s : State) (page : Nat) : State :=
  { s with mem := s.mem.filter (fun (c : Host.Cell) => c.1 / 2 ^ 21 != page)
           hbmKept := if s.hbmKept.contains page then s.hbmKept else page :: s.hbmKept }

/-- Whether the 64-byte granule of a DA is marked. -/
def State.marked (s : State) (da : Nat) : Bool := s.marks.contains (da / 64) || s.isLost da

/-- A byte with its granule's mark; one of a lost granule has no value of its own (R424). -/
def State.mbyteAt (s : State) (da : Nat) : MByte :=
  if s.isLost da then (Config.lostByte s.row da, true) else (s.byteAt da, s.marked da)

/-- `n` bytes from a DA of HBM or on-die memory. -/
def State.readMem (s : State) (da n : Nat) : List MByte := (upTo n).map (fun k => s.mbyteAt (da + k))

/-- The marks of a list of granules after a write: a marked byte marks its granule, a write that covers the granule with clean bytes clears it, a narrower one leaves it (R429). -/
def markGranule (marks : List Nat) (g da : Nat) (l : List MByte) : List Nat :=
  if ((upTo 64).any fun k => decide (da ≤ 64 * g + k) && (l.getD (64 * g + k - da) (0, false)).2) then NSet.ins g marks
  else if decide (da ≤ 64 * g) && decide (64 * g + 64 ≤ da + l.length) then NSet.del g marks
  else marks

/-- The granules that `n` bytes from `da` touch. -/
def granules (da n : Nat) : List Nat :=
  if n = 0 then [] else (upTo ((da + n - 1) / 64 - da / 64 + 1)).map (fun k => da / 64 + k)

/-- Lost bits cleared by a write that covers whole 2 KiB granules (R424). -/
def State.clearLost (s : State) (da n : Nat) : State :=
  if s.fault.lost.isEmpty then s
  else
    let gs := (upTo (n / 2048 + 2)).map (fun k => (da / 2048 + k) * 2048)
    s.forEach (gs.filter (fun a => decide (da ≤ a) && decide (a + 2048 ≤ da + n)))
      (fun s a =>
        let p := s.physChan (hbmPlace a).1
        let key := p * 2 ^ 20 + (hbmPlace a).2 / 2048
        if s.fault.lost.contains p && !s.fault.lostClear.contains key then
          ({ s with fault := { s.fault with lostClear := NSet.ins key s.fault.lostClear } }).set R.FAULT_MARKS_LOST_GRANULES
            (s.rf R.FAULT_MARKS_LOST_GRANULES - 1)
        else s)

/-- The count of marked live granules lowered for the granules that a write has rewritten clean (R430). -/
def State.settleLive (s : State) : State :=
  let gone := s.fault.liveMarks.filter (fun g => !s.marked (64 * g))
  if gone.isEmpty then s
  else ({ s with fault := { s.fault with liveMarks := s.fault.liveMarks.filter (fun g => s.marked (64 * g)) } }).set
    R.FAULT_MARKS_LIVE_GRANULES (s.rf R.FAULT_MARKS_LIVE_GRANULES - gone.length)

/-- Bytes with marks written to HBM or on-die memory (R222, R424, R429). -/
def State.writeMem (s : State) (da : Nat) (l : List MByte) : State :=
  if s.isDead da then s
  else
    let s := (s.setBytes da (l.map (·.1))).clearLost da l.length
    let s := { s with marks := (granules da l.length).foldl (fun m g => markGranule m g da l) s.marks }
    if s.fault.liveMarks.isEmpty then s else s.settleLive

/-! ## The tier map (R258 to R260) -/

/-- A page's entry as a translation gives it. -/
structure Ent where
  state : Nat
  cls   : Nat
  cache : Bool
  page  : Nat
  deriving DecidableEq, Repr

/-- A level-2 entry in the layout of the TIER_LOOKUP_ENTRY field map. -/
def Ent.pack (e : Ent) : Nat := e.state * 2 ^ 62 + e.cls * 2 ^ 58 + (if e.cache then 2 ^ 57 else 0) + e.page % 2 ^ 30

/-- A packed level-2 entry read. -/
def Ent.unpack (v : Nat) : Ent := ⟨bitsOf v 62 2, bitsOf v 58 4, v.testBit 57, bitsOf v 0 30⟩

/-- A level-2 entry: table t, index k. -/
def State.l2 (s : State) (t k : Nat) : Nat := SMap.get (fun _ => 0) s.tier.tables (t * 131072 + k)

/-- The map's entry of an OA page, `none` when unmapped or its map-memory entry is bad (R258, R259). -/
def State.entOf (s : State) (page : Nat) : Option Ent :=
  let i := page / 131072
  if s.tier.badEnt.contains i then none
  else
    let kind := s.rf (R.TIER_DIR_KIND i)
    if kind = 2 then
      some ⟨1, s.rf (R.TIER_DIR_CLASS i), s.rf (R.TIER_DIR_HOSTCACHE i) == 1, s.rf (R.TIER_DIR_TARGET i) * 131072 + page % 131072⟩
    else if kind = 1 then
      let t := s.rf (R.TIER_DIR_TARGET i) % 64
      if s.tier.badEnt.contains (2 ^ 20 + t * 131072 + page % 131072) then none
      else
        let e := Ent.unpack (s.l2 t (page % 131072))
        if e.state = 0 then none else some e
    else none

/-- Who makes a request (R257); `hostLate` is a host-opened stream's work that started while a change to host bias was pending (R281). -/
inductive Who where
  | plan | hostStream | hostLate | cluster | die | hostReq | peer
  deriving DecidableEq, Repr

/-- Tiers a requester reaches (R257). -/
def Who.reaches (w : Who) (tier : Nat) : Bool :=
  match w with
  | .plan => decide (tier ≤ 4)
  | .hostStream => decide (tier ≤ 4)
  | .hostLate => decide (tier ≤ 4)
  | _ => decide (tier ≤ 1)

/-- Classes barred to timed traffic (R263). -/
def Who.admits (w : Who) (e : Ent) : Bool :=
  match w with
  | .hostStream => true
  | .hostLate => true
  | .hostReq => true
  | _ => !e.cache && (e.cls == 1 || e.cls == 3 || e.cls == 4 || e.cls == 5 || e.cls == 6 || e.cls == 8)

/-- The bias bit of an HBM DA page. -/
def State.bias (s : State) (daPage : Nat) : Bool := (s.rf (R.TIER_BIAS_BIAS (daPage / 64))).testBit (daPage % 64)

/-- Whether a host-opened stream is barred from a host-bias page in PAGE mode, or its later blocks from a page whose change to host bias
is pending (R281). -/
def State.biasBars (s : State) (w : Who) (page : Nat) (e : Ent) : Bool :=
  (w == .hostStream || w == .hostLate) && e.cache && s.rf R.TIER_STATUS_MODE == 1 && decide (e.page < 253952)
    && (s.bias e.page || (w == .hostLate && s.tier.biasCmd == some (page, true)))

/-- Whether a neighbour DA lies in a valid slice below its page limit (R276). -/
def State.peerOk (s : State) (daPage : Nat) : Bool :=
  let j := (daPage - 2 ^ 29) / 2 ^ 21
  s.rf (R.TIER_PEER_VALID j) == 1 && decide ((daPage - 2 ^ 29) % 2 ^ 21 < s.rf (R.TIER_PEER_PAGES j))

/-- The DA page that a live OA page reaches, with its select bit (R328). -/
def State.selPage (s : State) (page : Nat) (other : Bool) : Nat :=
  match s.pairOf page with
  | none => page
  | some (sh, _) => if (s.tier.sel.contains page) != other then sh else page

/-- Why a request on one page is refused (R264): unmapped, outside its reach or barred, or a host-bias page. -/
inductive Refused where
  | unmapped | barred | biased
  deriving DecidableEq, Repr

/-- A request's page: its entry, or why it is refused; a cluster reaches pages of CHART alone (R93). `other` asks for the page of a pair that is not selected. -/
def State.pageFor (s : State) (w : Who) (page : Nat) (other : Bool) : Except Refused Ent :=
  match s.entOf (s.selPage page other) with
  | none => .error .unmapped
  | some e =>
    let t := s.tierOf (e.page * 2 ^ 21)
    if !w.reaches t || !w.admits e || (w == .cluster && s.pageOwner page != 2) then .error .barred
    else if s.biasBars w page e then .error .biased
    else if t = 4 && !s.peerOk e.page then .error .barred
    else .ok e

/-- A refusal under R264 recorded: TIER_ERR, the log and the count; each refused page part of a request counts, refusals for ownership too
(log entry 202). -/
def State.tierRefuse (s : State) (why : Refused) (st oa : Nat) : State :=
  let s := (s.bump R.TIER_ERR_COUNT).set R.TIER_ERR_LAST_STATUS st
  let s := match why with
    | .unmapped => s.set R.TIER_ERR_UNMAPPED 1
    | .biased => s.set R.TIER_ERR_BIAS_REFUSED 1
    | .barred => s
  s.logEv st 0x30 0 0 oa

/-- The pages that `n` bytes from an OA touch: page, offset in page, bytes. -/
def pageSpans (oa n : Nat) : List (Nat × Nat × Nat) :=
  if n = 0 then []
  else (upTo ((oa + n - 1) / 2 ^ 21 - oa / 2 ^ 21 + 1)).map (fun k =>
    let p := oa / 2 ^ 21 + k
    let lo := max oa (p * 2 ^ 21)
    let hi := min (oa + n) ((p + 1) * 2 ^ 21)
    (p % 2 ^ 31, lo % 2 ^ 21, hi - lo))

/-! ## Requests through OA -/

/-- The host bus address of a host-window or neighbour DA (R275, R276). -/
def State.busAddr (s : State) (da : Nat) : Nat :=
  if da < 2 ^ 50 then s.rf R.TIER_HOST_BASE * 2 ^ 21 + (da - 2 ^ 49)
  else s.rf (R.TIER_PEER_BASE ((da - 2 ^ 50) / 2 ^ 42)) * 2 ^ 42 + (da - 2 ^ 50) % 2 ^ 42

/-- The request counter of a page raised (R270). -/
def State.countPage (s : State) (page : Nat) (cls : Nat) : State :=
  if cls = 2 ∨ cls = 7 then
    { s with tier := { s.tier with
        counts := SMap.put (fun _ => 0) s.tier.counts page (min 65535 (SMap.get (fun _ => 0) s.tier.counts page + 1)) } }
  else s

/-- What a read or a write of bytes has met. -/
structure Got where
  st      : State
  data    : List MByte
  refused : Bool
  /-- Bytes of the data that a far tier must still supply. -/
  far     : List (Nat × Nat)

/-- A page's part of a read that is refused: its bytes have no stated value and are marked bad (R264). -/
def Got.refuse (g : Got) (why : Refused) (sp : Nat × Nat × Nat) : Got :=
  let a := g.st.freeBytes sp.2.2
  ⟨a.2.tierRefuse why stBAD_ARG (sp.1 * 2 ^ 21 + sp.2.1), g.data ++ a.1, true, g.far⟩

/-! ## Accumulators (R308 to R311) -/

/-- The update program of the running variant, empty where there is none (R311). -/
def State.updProg (s : State) : List Byte :=
  match s.chart.active with
  | none => []
  | some c => c.updProg (c.vUPDATE s.variant)

/-- Accumulator descriptors of the running update program: OA, elements, NSEQ, operand format, CLEAR_AT, DONE_SEM (R311). -/
structure AccDesc where
  oa    : Nat
  elems : Nat
  nseq  : Nat
  fmt   : Nat
  clear : Nat
  sem   : Nat
  deriving DecidableEq, Repr

/-- Accumulator descriptor a. -/
def accDesc (b : List Byte) (a : Nat) : AccDesc :=
  ⟨fieldLe b (64 + 32 * a) 8, fieldLe b (64 + 32 * a + 8) 4, fieldLe b (64 + 32 * a + 0xC) 2, fieldLe b (64 + 32 * a + 0xE) 1,
   fieldLe b (64 + 32 * a + 0x10) 8, fieldLe b (64 + 32 * a + 0x18) 8⟩

/-- Regions of 65,536 bytes of an accumulator (R308). -/
def AccDesc.regions (d : AccDesc) : Nat := ceilDiv d.elems 16384

/-- The sequences a region has completed. -/
def State.regCount (s : State) (a r : Nat) : Nat := SMap.get (fun _ => 0) s.upd.counts (a * 2 ^ 18 + r)

/-- The accumulator of the running update program, and the element in it, whose element lies at an OA. -/
def State.accAt (s : State) (oa : Nat) : Option (Nat × Nat) :=
  if !s.inStep then none
  else
    let b := s.updProg
    match (upTo (fieldLe b 0 2)).find? (fun a => decide ((accDesc b a).oa ≤ oa) && decide (oa < (accDesc b a).oa + 4 * (accDesc b a).elems)) with
    | some a => some (a, (oa - (accDesc b a).oa) / 4)
    | none => none

/-- Whether a byte lies in a region of an accumulator whose count is zero. -/
def State.regionEmpty (s : State) (oa : Nat) : Bool :=
  match s.accAt oa with
  | some (a, e) => s.regCount a (e / 16384) == 0
  | none => false

/-- Bytes of HBM or on-die memory as a read from an OA sees them: a region whose count is zero reads as +0, whatever lies there (R310). -/
def State.accView (s : State) (oa : Nat) (l : List MByte) : List MByte :=
  if !s.inStep || fieldLe s.updProg 0 2 == 0 then l
  else l.zipIdx.map (fun x => if s.regionEmpty (oa + x.2) then (0, false) else x.1)

/-! ## Reads and writes -/

/-- One page's part of a read: near tiers answer at once, host and neighbour pages are named with their bus addresses (R264). -/
def State.readSpan (w : Who) (g : Got) (sp : Nat × Nat × Nat) : Got :=
  let s := g.st
  match s.pageFor w sp.1 false with
  | .error why => g.refuse why sp
  | .ok e =>
    let da := e.page * 2 ^ 21 + sp.2.1
    let s := s.countPage sp.1 e.cls
    if s.tierOf da = 2 && !s.flashMapped (da - 2 ^ 48) sp.2.2 then
      Got.refuse ⟨s, g.data, g.refused, g.far⟩ .unmapped sp
    else match s.tierOf da with
    | 0 => ⟨s, g.data ++ s.accView (sp.1 * 2 ^ 21 + sp.2.1) (s.readMem da sp.2.2), g.refused, g.far⟩
    | 1 => ⟨s, g.data ++ s.accView (sp.1 * 2 ^ 21 + sp.2.1) (s.readMem da sp.2.2), g.refused, g.far⟩
    | 2 => ⟨s, g.data ++ s.readFlash (da - 2 ^ 48) sp.2.2, g.refused, g.far⟩
    | _ => ⟨s, g.data ++ List.replicate sp.2.2 (0, false), g.refused, g.far ++ [(s.busAddr da, sp.2.2)]⟩

/-- `n` bytes read from an OA by a requester. -/
def State.readOA (s : State) (w : Who) (oa n : Nat) : Got :=
  (pageSpans oa n).foldl (State.readSpan w) ⟨s, [], false, []⟩

/-- Whether an OA page's bytes now go to the page of its pair that is not selected (R328). -/
def State.redirects (s : State) (page : Nat) : Bool :=
  (s.pairOf page).isSome && s.training && !s.step.reserveOver

/-- A page of a pair is closed to writes from the end of reserve to bind-off (R328). -/
def State.pairClosed (s : State) (page : Nat) : Bool :=
  (s.pairOf page).isSome && s.inStep && (s.step.reserveOver || s.phase == phSETTLE)

/-- The dirty bit of a live page set. -/
def State.setDirty (s : State) (page : Nat) : State :=
  { s with tier := { s.tier with dirty := NSet.ins page s.tier.dirty } }

/-- A range of addresses cut at the multiples of `m`. -/
def cutsAt (m addr n : Nat) : List (Nat × Nat) :=
  if n = 0 then []
  else (upTo ((addr + n - 1) / m - addr / m + 1)).map (fun k =>
    let lo := max addr (m * (addr / m + k))
    (lo, min (addr + n) (m * (addr / m + k + 1)) - lo))

/-- Max_Payload_Size as host software has programmed it: 128, 256 or 512 bytes (R362). -/
def State.maxPayload (s : State) : Nat := 128 * 2 ^ min 2 (s.rf R.HQ_LINK_MPS)

/-- Posted bytes to a bus address, in writes of at most Max_Payload_Size bytes that part at its multiples (R362; log entry 239). -/
def State.postBus (s : State) (addr : Nat) (l : List MByte) : State :=
  (cutsAt s.maxPayload addr l.length).foldl (fun s c => s.emitHost (.busWrite c.1 ((l.drop (c.1 - addr)).take c.2) false)) s

/-- A write with the RO attribute set. -/
def Sent.relaxed : Sent → Sent
  | .busWrite a l _ => .busWrite a l true
  | x => x

/-- Whether a DA page holds, or while an image is fetched will hold, part of an image staged at DA 0: it belongs to FW (R71). -/
def State.stagedAt (s : State) (daPage : Nat) : Bool :=
  s.chart.active.isNone &&
    decide (daPage * 2 ^ 21 < if s.rf R.CHART_LOAD_STATUS_STATE = 1 then s.chart.loadBytes else s.chart.image.length)

/-- Whether an OA page holds part of the staging area (R71). -/
def State.ofStage (s : State) (page : Nat) : Bool :=
  s.inStage page || (match s.entOf page with | some e => s.stagedAt e.page | none => false)

/-- One page's part of a write. `own` is the owner whose pages the writer may write (R200). A page that is both unmapped and another owner's is
refused for its owner (DESIGN CHOICE, log entry 236: the spec does not order the two tests). -/
def State.writeSpan (w : Who) (own : Nat) (g : Got) (sp : Nat × Nat × Nat) : Got :=
  let s := g.st
  let oa := sp.1 * 2 ^ 21 + sp.2.1
  let l := g.data.take sp.2.2
  let rest := g.data.drop sp.2.2
  if s.pageOwner sp.1 ≠ own then
    ⟨((s.bump R.TIER_ERR_COUNT).set R.TIER_ERR_LAST_STATUS stNOT_OWNER).logEv stNOT_OWNER 0x30 0 0 oa, rest, true, g.far⟩
  else if s.pairClosed sp.1 then ⟨s.tierRefuse .barred stBAD_ARG oa, rest, true, g.far⟩
  else
    match s.pageFor w sp.1 (s.redirects sp.1) with
    | .error why => ⟨s.tierRefuse why stBAD_ARG oa, rest, true, g.far⟩
    | .ok e =>
      let da := e.page * 2 ^ 21 + sp.2.1
      if s.stagedAt e.page then
        ⟨((s.bump R.TIER_ERR_COUNT).set R.TIER_ERR_LAST_STATUS stNOT_OWNER).logEv stNOT_OWNER 0x30 0 0 oa, rest, true, g.far⟩
      else
      let s := s.countPage sp.1 e.cls
      let s := if s.redirects sp.1 then s.setDirty sp.1 else s
      if s.tierOf da = 2 && !s.flashMapped (da - 2 ^ 48) sp.2.2 then ⟨s.tierRefuse .unmapped stBAD_ARG oa, rest, true, g.far⟩
      else match s.tierOf da with
      | 0 => ⟨s.writeMem da l, rest, g.refused, g.far⟩
      | 1 => ⟨s.writeMem da l, rest, g.refused, g.far⟩
      | 2 => ⟨s.writeFlash (w == .plan && s.training) (da - 2 ^ 48) l, rest, g.refused, g.far⟩
      | _ => ⟨s.postBus (s.busAddr da) l, rest, g.refused, g.far ++ [(s.busAddr da, sp.2.2)]⟩

/-- Bytes written at an OA by a requester whose pages belong to `own`: the pages that refuse are discarded (R264). -/
def State.writeOA (s : State) (w : Who) (own oa : Nat) (l : List MByte) : Got :=
  (pageSpans oa l.length).foldl (State.writeSpan w own) ⟨s, l, false, []⟩

/-- Bytes without marks. -/
def clean (l : List Byte) : List MByte := l.map (fun b => (b, false))

/-- The 64-bit word at an on-die OA (R211), zero where no page is mapped. -/
def State.semWord (s : State) (oa : Nat) : Nat :=
  match s.entOf (oa / 2 ^ 21 % 2 ^ 31) with
  | some e => leNat ((upTo 8).map (fun k => s.byteAt (e.page * 2 ^ 21 + oa % 2 ^ 21 + k)))
  | none => 0

/-- The 64-bit word at an on-die OA written. -/
def State.setSem (s : State) (oa v : Nat) : State :=
  match s.entOf (oa / 2 ^ 21 % 2 ^ 31) with
  | some e => s.writeMem (e.page * 2 ^ 21 + oa % 2 ^ 21) (clean (natLe 8 v))
  | none => s.tierRefuse .unmapped stBAD_ARG oa

/-- A value added to the semaphore word at an OA, modulo 2^64 (R211, R215). -/
def State.addSem (s : State) (oa v : Nat) : State := s.setSem oa ((s.semWord oa + v) % 2 ^ 64)

end Sys2Proof.Machine
end

