-- ==== Sys2Proof/Machine/StreamBase.lean ====
section
/-! DEFINITION. Machine/StreamBase.lean: stream contexts, their programs and block lists as the rules of Nitas lay them out
(R199 to R204), and what of the plan is unfinished (R20, R22, R310). -/

namespace Sys2Proof.Machine

/-! Stream states and WAIT codes (R203, R230). -/
def ssIDLE : Nat := 0
def ssARMED : Nat := 1
def ssRUN : Nat := 2
def ssWAIT : Nat := 3
def ssSTOPPING : Nat := 4
def ssSEALED : Nat := 5
def ssENDED : Nat := 6
def wtNONE : Nat := 0
def wtSTART : Nat := 1
def wtPACE : Nat := 2
def wtSEM : Nat := 3
def wtBARRIER : Nat := 4
def wtSLOT : Nat := 5
def wtBLOCKS : Nat := 6
def wtFAR : Nat := 7
def wtORDER : Nat := 8

/-- A context's state. -/
def State.sst (s : State) (n : Nat) : Nat := s.rf (R.STREAM_RUN_STATE n)

/-- STATE and WAIT of a context written together. -/
def State.setSst (s : State) (n st wait : Nat) : State :=
  (s.set (R.STREAM_RUN_STATE n) st).set (R.STREAM_RUN_WAIT n) wait

/-- A stream's Nitas program (R204, R368). -/
def State.progOf (s : State) (n : Nat) : List Byte :=
  if (s.str n).host then (s.str n).prog
  else match s.chart.active with
    | none => []
    | some c => (c.item 5 (s.rf (R.STREAM_CTL_PROGRAM n))).getD []

/-- A stream's block list (R199, R368). -/
def State.listOf (s : State) (n : Nat) : List Byte :=
  if (s.str n).host then (s.str n).list
  else match s.chart.active with
    | none => []
    | some c => (c.item 4 (s.rf (R.STREAM_CTL_BLOCK_LIST n))).getD []

/-- Unit `pc` of a program. -/
def unitAt (prog : List Byte) (pc : Nat) : List Byte := sliceB prog (16 * pc) 16

/-- The unit a stream stands at. -/
def State.unit (s : State) (n : Nat) : List Byte := unitAt (s.progOf n) (s.rf (R.STREAM_RUN_PC n))

/-- The fields of a unit (Instruction layouts, R204). -/
def uOp (u : List Byte) : Nat := fieldLe u 0 1
def uFlag (u : List Byte) (k : Nat) : Bool := (fieldLe u 1 1).testBit k

/-- Opcodes (Nitas opcodes). -/
def opMOVE : Nat := 1
def opMOVEX : Nat := 2
def opINLINE : Nat := 3
def opLOOP : Nat := 4
def opENDLOOP : Nat := 5
def opWAITPACE : Nat := 6
def opWAITSEM : Nat := 7
def opSIGNAL : Nat := 8
def opMARK : Nat := 9
def opFENCE : Nat := 0xA
def opSEAL : Nat := 0xB
def opBARRIER : Nat := 0xC
def opSETREG : Nat := 0xD
def opNOP : Nat := 0xE
def opEND : Nat := 0xF

/-- One entry of a block list (R199). -/
structure Entry where
  src  : Nat
  dst  : Nat
  len  : Nat
  mb   : Nat
  kind : Nat
  ref  : Nat
  deriving DecidableEq, Repr

/-- Entry k of a block list. -/
def entryAt (l : List Byte) (k : Nat) : Entry :=
  ⟨fieldLe l (32 * k) 8, fieldLe l (32 * k + 8) 8, fieldLe l (32 * k + 0x10) 5, fieldLe l (32 * k + 0x15) 1,
   fieldLe l (32 * k + 0x16) 1, fieldLe l (32 * k + 0x18) 8⟩

/-- AD0 or AD1 added to an address (R200): sign-extended on an OA, as it stands on a port address. -/
def addOffset (addr ad : Nat) : Nat :=
  if addr / 2 ^ 62 = 1 then addr / 2 ^ 48 * 2 ^ 48 + (addr % 2 ^ 48 + ad) % 2 ^ 48
  else addr / 2 ^ 52 * 2 ^ 52 + unsigned 52 ((addr % 2 ^ 52 : Nat) + signed 48 ad)

/-- Whether an address names a compute-die port, and which (R200). -/
def isPort (addr : Nat) : Bool := addr / 2 ^ 62 == 1
def portOf (addr : Nat) : Nat := bitsOf addr 56 2

/-- The master whose pages a stream may write: CHART for a plan stream, HOST for a host-opened one (R200). -/
def State.strOwner (s : State) (n : Nat) : Nat := if (s.str n).host then 1 else 2

/-- The requester a stream acts as in the work that has place q in its order (R257): while a change to host bias is pending, work of a
host-opened stream that was not in flight when it began is told apart (R281). -/
def State.strWho (s : State) (n q : Nat) : Who :=
  if !(s.str n).host then .plan
  else match s.tier.biasCmd with
    | some (_, true) => if s.tier.biasOld.contains (n, q) then .hostStream else .hostLate
    | _ => .hostStream

/-- The precedence of R226, highest first. -/
def statusRank (st : Nat) : Nat :=
  if st = stORPHANED then 8 else if st = stABORTED then 7 else if st = stSTOPPED then 6 else if st = stFAR_FAULT then 5
  else if st = stBAD_ARG then 4 else if st = stCHECK_FAIL then 3 else if st = stPOISON_IN then 2 else if st = stSPILLED then 1 else 0

/-- A status event of a stream: the one of highest precedence stands (R226). -/
def State.strStatus (s : State) (n st : Nat) : State :=
  if statusRank (s.rf (R.STREAM_RUN_STATUS n)) < statusRank st then s.set (R.STREAM_RUN_STATUS n) st else s

/-- The stream set of the running step or swatch. -/
def State.runSet (s : State) : List Nat :=
  match s.chart.active with
  | none => []
  | some c => match s.step.swatchRun with
    | some p => c.swatchSet p
    | none => c.variantSet s.variant

/-- Whether a stream still has plan work: neither sealed nor ended (R20, R22). -/
def State.strUnfinished (s : State) (n : Nat) : Bool :=
  s.sst n == ssARMED || s.sst n == ssRUN || s.sst n == ssWAIT || s.sst n == ssSTOPPING

/-- Whether every region of every accumulator has completed its sequences (R310). -/
def State.accsDone (s : State) : Bool :=
  let b := s.updProg
  (upTo (fieldLe b 0 2)).all fun a =>
    (upTo (accDesc b a).regions).all fun r => decide ((accDesc b a).nseq ≤ s.regCount a r)

/-- Whether the host hand-off of the step is complete (R324). -/
def State.handoffDone (s : State) : Bool := decide (s.rf R.STEP_HANDOFF_EXPECTED ≤ s.rf R.STEP_HANDOFF_SEALED)

/-- Whether every plan action of the step has completed (R20, R22, R310, R324, R359). -/
def State.planDone (s : State) : Bool :=
  s.runSet.all (fun n => !s.strUnfinished n && s.rf (R.STREAM_RUN_STATUS n) != stORPHANED) && s.clu.left.isEmpty && s.clu.running.isEmpty && s.accsDone && s.handoffDone

/-! ## Lines that the host holds (R280) -/

/-- The host-held lines of a byte range, those being invalidated included. -/
def State.heldLines (s : State) (oa n : Nat) : List Nat :=
  if n = 0 then [] else (s.tier.lines ++ s.tier.waitLine).filter (fun l => decide (oa / 64 ≤ l) && decide (64 * l < oa + n))

/-- Lines back-invalidated at the host; those already under way are not asked for again. -/
def State.invalidate (s : State) (ls : List Nat) : State :=
  let new := ls.filter (fun l => !s.tier.waitLine.contains l)
  { s with
    sent := s.sent ++ new.map Sent.backInvalidate
    tier := { s.tier with lines := s.tier.lines.filter (fun l => !new.contains l), waitLine := s.tier.waitLine ++ new } }

/-- The lines that a host-opened stream must see invalidated before it touches its ranges: none in PAGE mode. -/
def State.linesFor (s : State) (n : Nat) (ranges : List (Nat × Nat)) : List Nat :=
  if (s.str n).host && s.rf R.TIER_STATUS_MODE == 0 then (ranges.map (fun r => s.heldLines r.1 r.2)).flatten else []

end Sys2Proof.Machine
end

