-- ==== Sys2Proof/Machine/Sched.lean ====
section
/-! DEFINITION. Machine/Sched.lean: what the installed chart's objects, stash tables and schedule sets say, read from their bytes (R44,
R87, R199, R237 to R240, R265, R416). -/

namespace Sys2Proof.Machine

/-! ## Names of units (R416) -/

/-- Kind and index of a unit code. -/
def uKind (u : Nat) : Nat := u / 4096
def uIdx (u : Nat) : Nat := u % 4096

/-! ## Byte and page ranges -/

/-- Two ranges of pages share a page. -/
def meets (a n b m : Nat) : Bool := decide (0 < n) && decide (0 < m) && decide (a < b + m) && decide (b < a + n)

/-! ## Objects (R265) -/

/-- One object entry of section 13 (Object entry, R265), in pages. -/
structure Obj where
  page  : Nat
  pages : Nat
  cls   : Nat
  flags : Nat
  da    : Nat
  off   : Nat
  deriving DecidableEq, Repr

/-- Object entry e. -/
def Chart.obj (c : Chart) (e : Nat) : Obj :=
  let b := c.sec 13
  ⟨fieldLe b (32 * e) 8 / 2 ^ 21, fieldLe b (32 * e + 8) 4, fieldLe b (32 * e + 0xC) 1, fieldLe b (32 * e + 0xD) 1,
   fieldLe b (32 * e + 0x10) 8 / 2 ^ 21, fieldLe b (32 * e + 0x18) 4⟩

/-- The objects of a chart that map pages. -/
def Chart.objs (c : Chart) : List Obj := ((upTo (c.cnt 13)).map c.obj).filter (fun o => decide (0 < o.pages))

/-- Whether an object covers an OA page. -/
def Obj.covers (o : Obj) (page : Nat) : Bool := decide (o.page ≤ page) && decide (page < o.page + o.pages)

/-! ## Instructions -/

/-- Units of the instruction at a unit (R204, R208). -/
def unitsOfInstr (u : List Byte) : Nat := if uOp u = opINLINE then 1 + ceilDiv (fieldLe u 2 1) 16 else 1

/-- The instructions of a program in order: their places, data units passed over. -/
def instrPlaces (prog : List Byte) : Nat → Nat → List Nat
  | 0, _ => []
  | fuel + 1, pc => if prog.length ≤ 16 * pc then [] else pc :: instrPlaces prog fuel (pc + unitsOfInstr (unitAt prog pc))

/-- The instructions of a program. -/
def instrsOf (prog : List Byte) : List (List Byte) := (instrPlaces prog (prog.length / 16) 0).map (unitAt prog)

/-! ## Stash tables (R44) -/

/-- Stash entry e of the running variant. -/
structure StashEnt where
  tid    : Nat
  layer  : Nat
  cls    : Nat
  tier   : Nat
  prof   : Nat
  stier  : Nat
  probe  : Bool
  shape  : Nat
  raw    : Nat
  budget : Nat
  allow  : Nat
  home   : Nat
  spill  : Nat
  write  : Nat
  fetch  : Nat
  life   : Nat
  prog   : Nat
  stride : Nat
  slices : Nat
  deriving DecidableEq, Repr

/-- A 64-byte stash entry read (*Stash entry*). -/
def stashEnt (b : List Byte) : StashEnt :=
  let w := fieldLe b 0 8
  let x := fieldLe b 48 8
  let y := fieldLe b 56 8
  ⟨bitsOf w 0 16, bitsOf w 16 16, bitsOf w 32 3, bitsOf w 35 3, bitsOf w 38 2, bitsOf w 40 3, w.testBit 43, bitsOf w 48 16,
   bitsOf (fieldLe b 8 8) 0 40, bitsOf (fieldLe b 16 8) 0 40, bitsOf (fieldLe b 24 8) 0 40, bitsOf (fieldLe b 32 8) 0 52,
   bitsOf (fieldLe b 40 8) 0 52, bitsOf x 0 14, bitsOf x 16 14, bitsOf x 32 16, bitsOf x 48 16, bitsOf y 0 40, bitsOf y 48 16⟩

/-- The stash table of a variant. -/
def Chart.stash (c : Chart) (v : Nat) : List StashEnt :=
  (upTo (c.vStashCount v)).map (fun k => stashEnt (sliceB (c.sec 1) (64 * (c.vStashFirst v + k)) 64))

/-- Whether an entry stores a skein (R51), and whether its size is measured (R50). -/
def StashEnt.packed (e : StashEnt) : Bool := e.cls == 2 || (e.cls == 3 && e.prof != 0)
def StashEnt.measured (e : StashEnt) : Bool := e.packed || (e.probe && e.prof != 0)

/-- Home and spill addresses of instance m (R44). -/
def StashEnt.homeAt (e : StashEnt) (m : Nat) : Nat := e.home + m * e.stride
def StashEnt.spillAt (e : StashEnt) (m : Nat) : Nat := e.spill + m * (ceilDiv e.allow 4096 * 4096)

/-- The stash table that segments look their tensors up in: the running variant's, in a swatch too. -/
def State.segTable (s : State) : List StashEnt :=
  match s.chart.active with
  | none => []
  | some c => c.stash s.variant

/-! ## Schedule sets (R237 to R240) -/

/-- The schedule set of the running step or swatch (R237). -/
def State.schedule (s : State) : List Byte :=
  match s.chart.active with
  | none => []
  | some c => match s.step.swatchRun with
    | some p => (c.item 9 (c.swatchSchedule p)).getD []
    | none => (c.item 9 (c.vSchedule s.variant)).getD []

/-- Counts of a schedule set's header (R237). -/
def schNRES (b : List Byte) : Nat := fieldLe b 0 2
def schNPHASE (b : List Byte) : Nat := fieldLe b 4 4
def schNSEG (b : List Byte) : Nat := fieldLe b 0xC 4
def schNBAR (b : List Byte) : Nat := fieldLe b 0x10 4

/-- One cluster entry (R239). -/
structure CluEntry where
  start   : Nat
  kind    : Nat
  first   : Nat
  mb      : Nat
  tensor  : Nat
  slice   : Nat
  barrier : Nat
  deriving DecidableEq, Repr

/-- Cluster entry e of a schedule set. -/
def cluEntry (b : List Byte) (e : Nat) : CluEntry :=
  let o := 32 + 8 * schNRES b + 16 * schNPHASE b + 16 * e
  ⟨fieldLe b o 5, fieldLe b (o + 5) 1, fieldLe b (o + 6) 1, fieldLe b (o + 7) 1, fieldLe b (o + 8) 2, fieldLe b (o + 0xA) 2,
   fieldLe b (o + 0xC) 2⟩

/-- Barrier entry e of a schedule set: ID, generation, expected plan offset (R240). -/
def barEntry (b : List Byte) (e : Nat) : Nat × Nat × Nat :=
  let o := 32 + 8 * schNRES b + 16 * schNPHASE b + 16 * schNSEG b + 16 * e
  (fieldLe b o 2, fieldLe b (o + 4) 4, fieldLe b (o + 8) 8)

/-- Owner code k of a schedule set, and entry r of its resources: kind, index, phases, first phase. -/
def schOwner (b : List Byte) (k : Nat) : Nat :=
  fieldLe b (32 + 8 * schNRES b + 16 * schNPHASE b + 16 * schNSEG b + 16 * schNBAR b + 2 * k) 2
def schRes (b : List Byte) (r : Nat) : Nat × Nat × Nat × Nat :=
  let v := fieldLe b (32 + 8 * r) 2
  (v / 4096, v % 4096, fieldLe b (34 + 8 * r) 2, fieldLe b (36 + 8 * r) 4)

/-- A phase's start, ring length and first owner code. -/
def schPhase (b : List Byte) (k : Nat) : Nat × Nat × Nat :=
  let o := 32 + 8 * schNRES b + 16 * k
  (fieldLe b o 8, fieldLe b (o + 8) 4, fieldLe b (o + 12) 4)

end Sys2Proof.Machine
end

