-- ==== Sys2Proof/Machine/Late.lean ====
section
/-! DEFINITION. Machine/Late.lean: the oldest unfinished work of the plan and the party that a late tick is attributed to (R403). -/

namespace Sys2Proof.Machine

/-- The device count programmed. -/
def State.devices (s : State) : Nat := s.rf R.SYNC_CONFIG_DEVICES

/-! ## Whose event late work waits for (R403): 0 a peer, 1 the host, 2 flash, 3 a compute die, 6 nobody outside -/

/-- The party behind a far side whose confirmation is awaited: the host, a neighbour, a port (R218, R372). -/
def sideParty (f : Nat) : Nat := if f = 0 then 1 else if f < 100 then 0 else 3

/-- The party behind the tier that an OA lies in. -/
def State.placeParty (s : State) (oa : Nat) : Nat :=
  match s.entOf (oa / 2 ^ 21 % 2 ^ 31) with
  | none => 6
  | some e =>
    let t := s.tierOf (e.page * 2 ^ 21)
    if t = 2 then 2 else if t = 3 then 1 else if t = 4 then 0 else 6

/-- The party for the data a stream moves: that of the bytes it reads next, else the die that is to take its block. -/
def State.dataParty (s : State) (n : Nat) : Nat :=
  match (s.str n).blocks, (s.str n).sk with
  | b :: _, _ => if s.placeParty b.src = 6 ∧ isPort b.dst then 3 else s.placeParty b.src
  | [], some k =>
    let p := s.placeParty (k.src + (if k.dir = 0 then 65536 * k.block else k.coded))
    if p ≠ 6 then p else if k.dir ≠ 0 ∧ k.refKind = 1 then s.placeParty (k.base + 65536 * k.block) else 6
  | [], none => 6

/-- The party for a barrier that a stream waits at (R212): a peer where only the configuration is awaited; before that the die of a port, where
no unfinished stream or cluster entry of the plan names the barrier (log entry 244). -/
def State.barrierParty (s : State) (n : Nat) : Nat :=
  let id := fieldLe (s.unit n) 2 2 % 4096
  let names := fun m => (upTo ((s.progOf m).length / 16)).any (fun k =>
    uOp (unitAt (s.progOf m) k) == opBARRIER && fieldLe (unitAt (s.progOf m) k) 2 2 % 4096 == id)
  if SMap.get (fun _ => 0) s.bar.done id < SMap.get (fun _ => 0) (s.str n).arrivals id then
    if s.runSet.any (fun m => m != n && s.strUnfinished m && names m)
        || (s.clu.left ++ s.clu.running.map (·.1)).any (fun e => (cluEntry s.schedule e).barrier == id) then 6 else 3
  else if uFlag (s.unit n) 0 ∧ 1 < s.devices then 0 else 6

/-- Whether a stream's program signals or marks a local semaphore word (R215, R216). -/
def State.signals (s : State) (m oa : Nat) : Bool :=
  (upTo ((s.progOf m).length / 16)).any (fun k =>
    let u := unitAt (s.progOf m) k
    (uOp u == opSIGNAL || uOp u == opMARK) && fieldLe u 1 1 / 2 % 8 == 0 && fieldLe u 8 8 == oa)

/-- The party for a semaphore that no unfinished stream of this device signals: the compute dies where it is the DONE_SEM of an accumulator
that still lacks sequences (R310), else a neighbour, the one other agent that adds to a word of a chart's page (log entry 244). -/
def State.semParty (s : State) (oa : Nat) : Nat :=
  let b := s.updProg
  if (upTo (fieldLe b 0 2)).any (fun a => (accDesc b a).sem == oa
      && (upTo (accDesc b a).regions).any (fun r => decide (s.regCount a r < (accDesc b a).nseq))) then 3
  else if 1 < s.devices then 0 else 6

/-- The party a stream waits for (R403); semaphore waits are followed to the stream that signals the word. -/
def State.partyOf (s : State) : Nat → Nat → Nat
  | 0, _ => 6
  | fuel + 1, n =>
    let w := s.rf (R.STREAM_RUN_WAIT n)
    let u := s.unit n
    if w = wtPACE then 3
    else if w = wtBARRIER then s.barrierParty n
    else if w = wtSEM then
      (match s.runSet.find? (fun m => s.strUnfinished m && m != n && s.signals m (fieldLe u 8 8)) with
      | some m => s.partyOf fuel m
      | none => s.semParty (fieldLe u 8 8))
    else if w = wtSLOT ∧ (uOp u = opSIGNAL ∨ uOp u = opMARK) then (if fieldLe u 1 1 / 2 % 8 = 2 then 3 else 6)
    else match (s.str n).confirm with
      | f :: _ => sideParty f
      | [] => s.dataParty n

/-- The unfinished work of the plan, each with its planned start: streams by context, cluster entries as `none` (R403). -/
def State.openWork (s : State) : List (Nat × Option Nat) :=
  (s.runSet.filter s.strUnfinished).map (fun n => (s.rf (R.STREAM_TIME_START n), some n))
    ++ (s.clu.left ++ s.clu.running.map (·.1)).map (fun e => ((cluEntry s.schedule e).start, none))

/-- The cause of a late tick (R403): the party of the oldest unfinished plan action, none for cluster work; with none left, the host for a
hand-off that has not returned and the dies for accumulators that lack sequences; FAULT_RECOVERY with no outside party. -/
def State.lateCause (s : State) : Nat :=
  match s.openWork with
  | [] => if !s.handoffDone then 1 else if s.accsDone then 6 else 3
  | x :: t =>
    match (t.foldl (fun (a b : Nat × Option Nat) => if b.1 < a.1 then b else a) x).2 with
    | some n => s.partyOf 8 n
    | none => 6

end Sys2Proof.Machine
end

