-- ==== Sys2Proof/Machine/Time.lean ====
section
/-! DEFINITION. Machine/Time.lean: the row counter, the idle cause of each tick, and the counts of a step (R16 to R19, R403,
R404; log entry 5). -/

namespace Sys2Proof.Machine

/-- A layout figure of the running variant, 0 without a chart. -/
def State.layout (s : State) (f : Chart → Nat → Nat) : Nat :=
  match s.chart.active with
  | none => 0
  | some c => f c s.variant

/-- The count of the scheduled plan-end, slip included (R17, R19). -/
def State.planEndAt (s : State) : Nat := s.rf R.STEP_CASTON_VALUE + s.layout Chart.planEnd + s.step.slip

/-- The count of the end of reserve, which never slips (R17, R19). -/
def State.reserveEndAt (s : State) : Nat := s.rf R.STEP_CASTON_VALUE + s.layout Chart.reserveEnd

/-- The commit deadline of the running step (R17). -/
def State.deadline (s : State) : Nat := s.rf R.STEP_BINDOFF_VALUE - 16384

/-- The idle cause of a tick at the state's count, if any (R403). -/
def State.idleCause (s : State) : Option Nat :=
  let ph := s.phase
  if s.pwr.off then none
  else if (ph = phHOLD ∧ s.rf R.STEP_STATUS_HOLD_CAUSE = 2) ∨ s.step.emergency then some 7
  else if s.fault.pauseEnd.isSome then some 6
  else if s.fault.peerPause then some 0
  else if s.training then
    (if s.step.reserveOver || s.planDone then some 4 else if ph = phRESERVE then some s.lateCause else none)
  else if ph = phBOUNDARY then some 5
  else none

/-- Ticks counted for a cause: toward IDLE_CUM at the end of their round, and in the step's figures (R404). -/
def State.countIdle (s : State) (d : Nat) : State :=
  match s.idleCause with
  | none => s
  | some c =>
    { s with
      idleRun := SMap.put (fun _ => 0) s.idleRun c (SMap.get (fun _ => 0) s.idleRun c + d)
      idleStep := SMap.put (fun _ => 0) s.idleStep c (SMap.get (fun _ => 0) s.idleStep c + d) }

/-- PHASE RESERVE from the scheduled plan-end (R37). -/
def State.enterReserve (s : State) : State :=
  if s.phase = phTAIL ∧ s.planEndAt ≤ s.row ∧ s.paused = false then s.set R.STEP_STATUS_PHASE phRESERVE else s

/-- The row counter moved forward to a count, its ticks counted for one cause. -/
def State.passTo (s : State) (t : Nat) : State :=
  if t ≤ s.row then s else { (s.countIdle (t - s.row)) with row := t }

/-- The row counter moved forward to the count at which an event is due; plan-end is passed on the way. -/
def State.advance (s : State) (t : Nat) : State :=
  if s.phase = phTAIL ∧ s.planEndAt ≤ t ∧ s.paused = false then
    ((s.passTo s.planEndAt).enterReserve).passTo t
  else s.passTo t

/-- The ticks counted since the last round added to IDLE_CUM (R404). -/
def State.flushIdle (s : State) : State :=
  let s' := s.forEach (upTo 8) (fun s c => s.set (R.IDLE_CUM_TICKS c) (s.rf (R.IDLE_CUM_TICKS c) + SMap.get (fun _ => 0) s.idleRun c))
  { s' with idleRun := [] }

/-- One tick of the row counter, modulo 2^64; the count stands still in OFF (log entry 5). -/
def State.tick (s : State) : State :=
  if s.pwr.off then s
  else { ((s.advance (s.row + 1))) with row := (s.row + 1) % 2 ^ 64 }

end Sys2Proof.Machine
end

