-- ==== Sys2Proof/Machine/Phase.lean ====
section
/-! DEFINITION. Machine/Phase.lean: changes of phase and power state that several chapters share (R28 to R36, R392, R393,
R439 to R449, R461 to R463). -/

namespace Sys2Proof.Machine

/-- PWR_STATE moved to a state with its cause (R439, R440); MGMT is told of the change (R466). -/
def State.setPower (s : State) (st cause : Nat) : State :=
  ((((s.set R.PWR_STATE_STATE st).set R.PWR_STATE_LAST_CAUSE cause).set R.PWR_STATE_ENTERED_AT s.row)).emit (.inBand 4)

/-- PWR_UNITS and CLU_POWER as the lists of units on and waking stand (R444): 1 clusters, 2 engines, 7 mover groups. The wake shown of a
cluster whose power changes has begun or is to be planned anew (R108). -/
def State.showUnits (s : State) : State :=
  let s := s.set R.PWR_UNITS_CLUSTERS_ON (s.pwr.awake.filter (fun u => u / 4096 == 1)).length
  let s := s.set R.PWR_UNITS_ENGINES_ON (s.pwr.awake.filter (fun u => u / 4096 == 2)).length
  let s := s.set R.PWR_UNITS_GROUPS_ON (s.pwr.awake.filter (fun u => u / 4096 == 7)).length
  let s := s.set R.PWR_UNITS_WAKING s.pwr.waking.length
  s.forEach (upTo 36) (fun s p =>
    let st := if s.pwr.awake.contains (0x1000 + p) then 2 else if s.pwr.waking.contains (0x1000 + p) then 1 else 0
    let old := s.rf (R.CLU_POWER_STATE p)
    (s.set (R.CLU_POWER_STATE p) st).set (R.CLU_POWER_WAKE_AT p) (if st = old then s.rf (R.CLU_POWER_WAKE_AT p) else 0))

/-- A unit powered on. -/
def State.wakeUnit (s : State) (u : Nat) : State :=
  ({ s with pwr := { s.pwr with awake := NSet.ins u s.pwr.awake, waking := NSet.del u s.pwr.waking } }).showUnits

/-- Units put to use: each is on by its first use (R444). -/
def State.useUnits (s : State) (us : List Nat) : State :=
  if us.all (fun u => s.pwr.awake.contains u) then s
  else ({ s with pwr := { s.pwr with awake := us.foldl (fun l u => NSet.ins u l) s.pwr.awake
                                     waking := us.foldl (fun l u => NSet.del u l) s.pwr.waking } }).showUnits

/-- A unit gated, its buffers retained (R86). -/
def State.gateUnit (s : State) (u : Nat) : State :=
  ({ s with pwr := { s.pwr with awake := NSet.del u s.pwr.awake, waking := NSet.del u s.pwr.waking } }).showUnits

/-- The physical mover that serves a logical one (R4, R195). -/
def State.physMover (s : State) (m : Nat) : Nat :=
  ((upTo 272).find? (fun p => s.rf (R.FAULT_UNIT_LOGICAL (0x610000 + 8 * p)) == m &&
    (s.rf (R.FAULT_UNIT_STATE (0x610000 + 8 * p)) == 2 || s.rf (R.FAULT_UNIT_STATE (0x610000 + 8 * p)) == 5))).getD m

/-- The mover group a stream is on (R443). -/
def State.groupOf (s : State) (n : Nat) : Nat := s.physMover (s.rf (R.STREAM_CTL_MOVER n)) / 16

/-- Whether a context holds a group on: ARMED, RUN, WAIT or STOPPING (R443). -/
def State.holdsGroup (s : State) (g n : Nat) : Bool := s.strUnfinished n && s.groupOf n == g

/-- Contexts that have run or may run, ascending: those with a model record and the set of the running step or swatch. -/
def State.usedCtx (s : State) : List Nat := s.runSet.foldl (fun l n => NSet.ins n l) (s.strs.map (·.1))

/-- Whether a unit serves a host stream: the mover group it is on, the engine that holds its skein context. -/
def State.servesHost (s : State) (u : Nat) : Bool :=
  s.usedCtx.any (fun n => (s.str n).host && ((u / 4096 == 7 && s.holdsGroup (u % 4096) n) || (u / 4096 == 2 &&
    (match (s.str n).sk with | some k => k.eng == some (s.rf (R.SKEIN_MAP_LOGICAL (u % 4096))) | none => false))))

/-- Every cluster, skein engine and mover group that serves no host stream gated (R393, R463). -/
def State.gateAll (s : State) : State :=
  let keep := s.pwr.awake.filter s.servesHost
  ({ s with pwr := { s.pwr with awake := keep, waking := [] } }).showUnits

/-- The next FCLK switch planned for start S: at S - 2,048, when the rate locked for it differs (R447). -/
def State.planSwitch (s : State) (at_ : Nat) : State :=
  if s.rf R.PWR_CLOCK_NEXT_MHZ ≠ 0 ∧ s.rf R.PWR_CLOCK_NEXT_MHZ ≠ s.rf R.PWR_CLOCK_FCLK_MHZ
  then s.set R.PWR_CLOCK_SWITCH_AT (at_ - 2048) else s.set R.PWR_CLOCK_SWITCH_AT 0

/-- The voltage request of R449: the need of the highest of the rates in play; it falls only in IDLE or HOLD. A change tells MGMT. -/
def State.avs (s : State) : State :=
  let run := s.rf R.PWR_CLOCK_FCLK_MHZ
  let act := match s.chart.active with | some c => c.fclk | none => 0
  let stg := match s.chart.staged with | some c => c.fclk | none => 0
  let need := Config.needMv (max (max run act) (max stg s.pwr.readyFclk))
  let s := s.set R.PWR_AVS_NEED_MV (Config.needMv run)
  let old := s.rf R.PWR_AVS_REQ_MV
  let new := if old < need then need else if s.stopped then need else old
  let s := s.set R.PWR_AVS_MET (if new ≤ s.rf R.PWR_SUPPLY_VDD_MV then 1 else 0)
  if new = old then s else (s.set R.PWR_AVS_REQ_MV new).emit (.inBand 1)

/-- No wake of a cluster is scheduled (R108). -/
def State.clearWakes (s : State) : State := s.forEach (upTo 36) (fun s p => s.set (R.CLU_POWER_WAKE_AT p) 0)

/-- A swatch that was to run before the next cast-on is held for the next launch instead (R29, R34, R36): it waits as a request does, in
place of one held already. -/
def State.holdSwatch (s : State) : State :=
  match s.step.swatchNext with
  | none => s
  | some p =>
    ({ s with step := { s.step with
        swatches := s.step.swatches.filter (fun (r : SwatchReq) => r.target.isSome) ++ [SwatchReq.mk p none], swatchNext := none } }).set
      R.STEP_SWATCH_AT_STEP 0xFFFFFFFF

/-- The phase a device falls to when it stops: RUN becomes READY (R440); a swatch that was to run waits (R29); no wake is scheduled any more
(R108); the voltage request may fall (R449). -/
def State.toStopped (s : State) (ph : Nat) : State :=
  let s := ((s.set R.STEP_STATUS_PHASE ph).set R.STEP_NEXT_CASTON_VALUE 0).holdSwatch
  let s := if s.rf R.PWR_STATE_STATE = 3 then s.setPower 2 4 else s
  ((s.set R.PWR_CLOCK_SWITCH_AT 0).clearWakes).avs

/-- Learning-rate writes that named a step of the run that ends here: from now on they name it by its place in the next launch (R334). -/
def State.unaimLrs (s : State) : State :=
  let next := s.rf R.STEP_NUMBER_VALUE + (if s.inStep then 1 else 0)
  { s with step := { s.step with lrs := s.step.lrs.map (fun l => if l.relative then l else { l with step := l.step - next, relative := true }) } }

/-- HOLD entered with its cause (R29). -/
def State.enterHold (s : State) (cause : Nat) : State :=
  (s.unaimLrs.toStopped phHOLD).set R.STEP_STATUS_HOLD_CAUSE cause

/-- The launch cancelled: the device returns to the phase it left and gates what it woke (R393). -/
def State.cancelLaunch (s : State) : State := (s.toStopped s.step.prevPhase).gateAll

/-- Whether the barrier page is mapped and lent as R395 requires: in a LENT object of class PINNED_ONDIE with LEND_WRITE, lent at the aperture page. -/
def State.barrierPageOk (s : State) : Bool :=
  let p := s.rf R.SYNC_BARRIER_LOCAL_PAGE
  let ap := s.rf R.SYNC_BARRIER_APERTURE_PAGE
  match s.chart.active with
  | none => false
  | some c => (s.entOf p).isSome && (upTo (c.cnt 13)).any (fun e =>
      let oa := fieldLe (c.sec 13) (32 * e) 8 / 2 ^ 21
      let pages := fieldLe (c.sec 13) (32 * e + 8) 4
      let fl := fieldLe (c.sec 13) (32 * e + 0xD) 1
      fieldLe (c.sec 13) (32 * e + 0xC) 1 == 8 && fl.testBit 1 && fl.testBit 2 && decide (oa ≤ p) && decide (p < oa + pages)
        && fieldLe (c.sec 13) (32 * e + 0x18) 4 + (p - oa) == ap)

/-- The barrier table cleared, where its page meets R395. -/
def State.clearBarrierTable (s : State) : State :=
  match (if s.barrierPageOk then s.entOf (s.rf R.SYNC_BARRIER_LOCAL_PAGE) else none) with
  | none => s
  | some e => s.zeroRange (e.page * 2 ^ 21) (2 ^ 21)

/-- Agreement rounds after a bind-off (R54): the bits of NVAR - 1, none on a single device or with a chart of one variant. -/
def State.agreeRounds (s : State) : Nat :=
  match s.chart.active with
  | none => 0
  | some c => if s.devices ≤ 1 ∨ c.nvar ≤ 1 then 0 else Nat.log2 (c.nvar - 1) + 1

/-- Whether every agreement round has run. -/
def State.roundsDone (s : State) : Bool :=
  match s.step.agreement with
  | none => true
  | some a => decide (a.rounds ≤ a.round)

/-- The swatch that waits for the launch, if any (R34, R36). -/
def State.heldSwatch (s : State) : Option Nat := (s.step.swatches.find? (fun r => r.target.isNone)).map (·.prog)

/-- The swatch that follows the bind-off of step number n (R33). -/
def State.swatchFor (s : State) (n : Nat) : Option Nat := (s.step.swatches.find? (fun r => r.target == some n)).map (·.prog)

/-- Ticks a swatch program adds between a bind-off or launch and the next cast-on: S + I, nothing when S is 0 (R31). -/
def State.swatchTicks (s : State) (p : Option Nat) (i : Nat) : Nat :=
  match p, s.chart.active with
  | some p, some c => if c.swatchS p = 0 then 0 else c.swatchS p + i
  | _, _ => 0

/-- The variant of the first cast-on after the next launch: 0 unless a variant commit fixes it (R52, R78). -/
def State.launchVariant (s : State) : Nat := ((s.chart.variants.find? (fun v => v.target.isNone)).map (·.index)).getD 0

/-- Whether a chart commit is due at the bind-off of step number n. -/
def State.commitFor (s : State) (n : Nat) : Bool := s.chart.commits.any (fun c => c.target == some n)

/-- STEP_NEXT_CASTON under the requests accepted so far (R28, R31, R37, R79): 0 in IDLE and HOLD. DESIGN CHOICE: in a step in which a stop has
been accepted it shows bind-off + I until the device enters HOLD; the spec does not say (log entry 224). -/
def State.showNext (s : State) : State :=
  match s.chart.active with
  | none => s.set R.STEP_NEXT_CASTON_VALUE 0
  | some c =>
    if s.stopped then s.set R.STEP_NEXT_CASTON_VALUE 0
    else if s.phase = phARMED then
      let i := c.vI s.launchVariant
      s.set R.STEP_NEXT_CASTON_VALUE (s.rf R.SYNC_LAUNCH_COUNT + s.swatchTicks s.heldSwatch i)
    else if s.inStep then
      let n := s.rf R.STEP_NUMBER_VALUE
      match s.chart.staged with
      | some d => if s.commitFor n then s.set R.STEP_NEXT_CASTON_VALUE (s.rf R.STEP_BINDOFF_VALUE + d.vI 0)
        else s.set R.STEP_NEXT_CASTON_VALUE (s.rf R.STEP_BINDOFF_VALUE + c.vI s.variant + s.swatchTicks (s.swatchFor n) (c.vI s.variant))
      | none => s.set R.STEP_NEXT_CASTON_VALUE (s.rf R.STEP_BINDOFF_VALUE + c.vI s.variant + s.swatchTicks (s.swatchFor n) (c.vI s.variant))
    else s

end Sys2Proof.Machine
end

