-- ==== Sys2Proof/Machine/PlanCheck.lean ====
section
/-! DEFINITION. Machine/PlanCheck.lean: what the chart checks count: one run of a program, the slots a schedule set gives an owner, and
the demand of a block on each resource of its path (R198, R200, R213, R222, R232 to R242, R272, R287, R291, R355). -/

namespace Sys2Proof.Machine

/-! ## Objects and owners of a chart under check -/

/-- The object of a chart that covers an OA page. -/
def Chart.objAt (c : Chart) (page : Nat) : Option Obj := c.objs.find? (fun o => o.covers page)

/-- The DA of an OA under a chart's objects. -/
def Chart.daOf (c : Chart) (oa : Nat) : Option Nat :=
  (c.objAt (oa / 2 ^ 21)).map (fun o => (o.da + (oa / 2 ^ 21 - o.page)) * 2 ^ 21 + oa % 2 ^ 21)

/-- OA pages that a byte range touches. -/
def pagesOf (oa n : Nat) : List Nat := if n = 0 then [] else (upTo ((oa + n - 1) / 2 ^ 21 + 1 - oa / 2 ^ 21)).map (oa / 2 ^ 21 + ·)

/-- Whether every page of a byte range lies in an object of one of the classes; an empty list admits every class. -/
def Chart.inClasses (c : Chart) (oa n : Nat) (classes : List Nat) : Bool :=
  (pagesOf oa n).all (fun p => match c.objAt p with
    | some o => classes.isEmpty || classes.contains o.cls
    | none => false)

/-- The owner a chart gives an OA page: HOST where no entry covers it (*Default owners*). -/
def Chart.pageOwner (c : Chart) (p : Nat) : Nat := (c.ownerOf 3 p).getD 1

/-- Whether every page of a byte range has an owner. -/
def Chart.owned (c : Chart) (oa n own : Nat) : Bool := (pagesOf oa n).all (fun p => c.pageOwner p == own)

/-! ## One run of a program -/

/-- An instruction executed once, or one block of a MOVE or MOVEX: opcode, unit, addresses with their offsets added. -/
structure Act where
  op  : Nat
  u   : List Byte
  src : Nat
  dst : Nat
  len : Nat
  mb  : Nat
  ref : Nat
  deriving DecidableEq, Repr

/-- The blocks of a MOVE, MOVEX or INLINE; any other instruction is itself. -/
def actsOf (u list : List Byte) (ad0 ad1 : Nat) : List Act :=
  let dst := fun (d : Nat) => if uFlag u 1 then addOffset d ad1 else d
  if uOp u = opMOVE ∨ uOp u = opMOVEX then
    (upTo (fieldLe u 2 2)).map (fun k =>
      let e := entryAt list (fieldLe u 4 4 + k)
      Act.mk (uOp u) u (if uFlag u 0 then addOffset e.src ad0 else e.src) (dst e.dst) e.len e.mb e.ref)
  else if uOp u = opINLINE then [Act.mk opINLINE u 0 (dst (fieldLe u 8 8)) (fieldLe u 2 1) 0 0]
  else [Act.mk (uOp u) u 0 0 0 0 0]

/-- A well-formed program run once, loops at their counts: where it stands, its open loops, AD0 and AD1. -/
def runActs (prog list : List Byte) : Nat → Nat → List (Nat × Nat) → Nat → Nat → List Act → List Act
  | 0, _, _, _, _, acc => acc.reverse
  | fuel + 1, pc, loops, ad0, ad1, acc =>
    if prog.length ≤ 16 * pc then acc.reverse
    else
      let u := unitAt prog pc
      let next := pc + unitsOfInstr u
      let acc := (actsOf u list ad0 ad1).reverse ++ acc
      if uOp u = opEND then acc.reverse
      else if uOp u = opLOOP then
        if fieldLe u 2 2 = 0 then runActs prog list fuel (pc + 2 + fieldLe u 4 2) loops ad0 ad1 acc
        else runActs prog list fuel next ((pc + 1, fieldLe u 2 2) :: loops) ad0 ad1 acc
      else if uOp u = opENDLOOP then
        match loops with
        | [] => runActs prog list fuel next [] ad0 ad1 acc
        | (b, n) :: t =>
          if 1 < n then runActs prog list fuel b ((b, n - 1) :: t) ad0 ad1 acc else runActs prog list fuel next t ad0 ad1 acc
      else if uOp u = opSETREG then
        let v := fieldLe u 8 6
        let new := fun (old : Nat) => if uFlag u 1 then (old + v) % 2 ^ 48 else v
        if uFlag u 0 then runActs prog list fuel next loops ad0 (new ad1) acc else runActs prog list fuel next loops (new ad0) ad1 acc
      else runActs prog list fuel next loops ad0 ad1 acc

/-- Fields of a context image (R202, R230). -/
def imgProgram (b : List Byte) : Nat := fieldLe b 6 2
def imgList (b : List Byte) : Nat := fieldLe b 4 2
def imgStatus (b : List Byte) : Nat := fieldLe b 31 1
def imgMover (b : List Byte) : Nat := fieldLe b 3 1
def imgRunAhead (b : List Byte) : Nat := bitsOf (fieldLe b 0 8) 20 4
def imgInflight (b : List Byte) : Nat := bitsOf (fieldLe b 0 8) 17 3
def imgTile (b : List Byte) : Nat := fieldLe b 0 2
def imgPace (b : List Byte) : Nat := fieldLe b 14 2
def imgStart (b : List Byte) : Nat := fieldLe b 8 5

/-- A context's image, program and list in a chart. -/
def Chart.img (c : Chart) (n : Nat) : List Byte := (c.ctxImage n).getD []
def Chart.progOf (c : Chart) (n : Nat) : List Byte := (c.item 5 (imgProgram (c.img n))).getD []
def Chart.listOf (c : Chart) (n : Nat) : List Byte := (c.item 4 (imgList (c.img n))).getD []

/-- Everything one run of a context does, in program order. -/
def Chart.acts (c : Chart) (n : Nat) : List Act :=
  runActs (c.progOf n) (c.listOf n) (2 ^ 40) 0 [] (bitsOf (fieldLe (c.img n) 0x28 8) 0 48) (bitsOf (fieldLe (c.img n) 0x30 8) 0 48) []

/-- Whether an act writes bytes, and whether it is a pack or an unpack. -/
def Act.moves (a : Act) : Bool := (a.op == opMOVE || a.op == opMOVEX || a.op == opINLINE) && decide (0 < a.len)
def Act.pack (a : Act) : Bool := a.op == opMOVEX && !uFlag a.u 2
def Act.unpack (a : Act) : Bool := a.op == opMOVEX && uFlag a.u 2

/-! ## A record of the chart: a variant or a swatch -/

/-- What a variant or swatch record gives the checks: its place, its streams, its schedule set, the end of its plan time and, for a
variant, its index. -/
structure PlanRec where
  sec : Nat
  off : Nat
  set : List Nat
  sch : Nat
  fin : Nat
  var : Option Nat
  deriving DecidableEq, Repr

/-- The records of a chart: variants, then swatches. -/
def Chart.recs (c : Chart) : List PlanRec :=
  (upTo c.nvar).map (fun v => PlanRec.mk 0 (128 * v) (c.variantSet v) (c.vSchedule v) (c.planEnd v) (some v)) ++
    (upTo c.nswatch).map (fun p => PlanRec.mk 8 (32 * p) (c.swatchSet p) (c.swatchSchedule p) (c.swatchS p) none)

/-- The stash table of a record: none in a swatch. -/
def Chart.recStash (c : Chart) (r : PlanRec) : List StashEnt := match r.var with | some v => c.stash v | none => []

/-- The stash table in which a record's segments name their tensors: a variant's own; in a swatch any FROG entry of the chart (the
segments look it up in the variant that ran last). -/
def Chart.recFrog (c : Chart) (r : PlanRec) : List StashEnt :=
  (match r.var with | some v => c.stash v | none => ((upTo c.nvar).map c.stash).flatten).filter (fun e => e.cls == 4)

/-- A record's schedule set body. -/
def Chart.recSch (c : Chart) (r : PlanRec) : List Byte := (c.item 9 r.sch).getD []

/-! ## Schedule sets (R237, R238) -/

/-- Resource entry i as its RES code, NPH and FIRST. -/
def schEntry (b : List Byte) (i : Nat) : Nat × Nat × Nat :=
  let e := schRes b i
  (e.1 * 4096 + e.2.1, e.2.2.1, e.2.2.2)

/-- Owner codes of a set. -/
def schNOWNER (b : List Byte) : Nat := fieldLe b 8 4

/-- The ring of a phase. -/
def schRing (b : List Byte) (p : Nat × Nat × Nat) : List Nat := (upTo p.2.1).map (fun k => schOwner b (p.2.2 + k))

/-- HOST_PER_32 and LINK_HOST. -/
def schHost (b : List Byte) : Nat := fieldLe b 2 1
def schLinkHost (b : List Byte) : Nat := fieldLe b 3 1

/-- Phases of a resource with the tick at which each ends. -/
def schPhases (b : List Byte) (res fin : Nat) : List ((Nat × Nat × Nat) × Nat) :=
  match (upTo (schNRES b)).find? (fun i => (schEntry b i).1 == res) with
  | none => []
  | some i =>
    let (_, n, f) := schEntry b i
    (upTo n).map (fun k => (schPhase b (f + k), if k + 1 < n then 32 * (schPhase b (f + k + 1)).1 else fin))

/-- Slots of a kind per tick, as a fraction (*Slot kinds*). -/
def slotRate (kind fclk : Nat) : Nat × Nat :=
  if kind = 2 ∨ kind = 3 then (10, 1) else if kind = 6 then (1, 32) else if 7 ≤ kind then (fclk, 51200) else (10, 32)

/-- Owners of the first x slots of a ring that the test accepts. -/
def ownIn (ring : List Nat) (test : Nat → Bool) (x : Nat) : Nat :=
  if ring.isEmpty then 0
  else x / ring.length * (ring.filter test).length + ((ring.take (x % ring.length)).filter test).length

/-- Slots of a resource that begin at or after tick `t0` and end by tick `t1`, of owners the test accepts. -/
def slotsOf (b : List Byte) (fclk res fin : Nat) (test : Nat → Bool) (t0 t1 : Nat) : Nat :=
  let r := slotRate (res / 4096) fclk
  (schPhases b res fin).foldl (fun a (p : (Nat × Nat × Nat) × Nat) =>
    let j0 := ceilDiv (32 * p.1.1 * r.1) r.2
    let lo := max j0 (ceilDiv (t0 * r.1) r.2)
    let hi := min p.2 t1 * r.1 / r.2
    if hi ≤ lo then a else a + (ownIn (schRing b p.1) test (hi - j0) - ownIn (schRing b p.1) test (lo - j0))) 0

/-- Resource codes that hold phases, and those on which an owner code stands. -/
def schResources (b : List Byte) : List Nat := (upTo (schNRES b)).map (fun i => (schEntry b i).1)
def ownsOn (b : List Byte) (res code : Nat) : Bool := (schPhases b res 0).any (fun p => (schRing b p.1).contains code)

/-- The tick by which the last slot of an owner on some resources has ended, at most the end of plan time. -/
def lastSlotOn (b : List Byte) (ress : List Nat) (fclk fin code : Nat) : Nat :=
  ress.foldl (fun a res =>
    let r := slotRate (res / 4096) fclk
    (schPhases b res fin).foldl (fun a (p : (Nat × Nat × Nat) × Nat) =>
      let ring := schRing b p.1
      let j0 := ceilDiv (32 * p.1.1 * r.1) r.2
      let n := min p.2 fin * r.1 / r.2 - j0
      let own := ring.zipIdx.foldl (fun m (x : Nat × Nat) =>
        if x.1 = code ∧ x.2 < n then max m ((n - 1 - x.2) / ring.length * ring.length + x.2 + 1) else m) 0
      if own = 0 then a else max a (ceilDiv ((j0 + own) * r.2) r.1)) a) 0

/-- The same over every resource of the set. -/
def lastSlot (b : List Byte) (fclk fin code : Nat) : Nat := lastSlotOn b (schResources b) fclk fin code

/-! ## Demand (R198, R222, R242) -/

/-- Bytes that a range is charged: at least 16,384 (R242). -/
def charged (n : Nat) : Nat := max n 16384

/-- Access times that `n` bytes from an OA take on each logical channel under a placement of OAs: one for each granule read, one for each
whole granule written and two for a narrow write (R222, R233, R272). -/
def hbmLoad (place : Nat → Option Nat) (oa n : Nat) (write : Bool) : List (Nat × Nat) :=
  if n = 0 then []
  else
    (upTo ((oa + n - 1) / 2048 + 1 - oa / 2048)).filterMap (fun k =>
      let lo := max oa ((oa / 2048 + k) * 2048)
      let hi := min (oa + n) ((oa / 2048 + k + 1) * 2048)
      match (match place lo with | some da => some da | none => (place oa).map (· + (lo - oa))) with
      | none => none
      | some da =>
        if 0x7C00000000 ≤ da then none
        else
          let n := (hi - 1) / 64 - lo / 64 + 1
          let head := if write && lo % 64 != 0 then 1 else 0
          let tail := if write && hi % 64 != 0 then 1 else 0
          some ((hbmPlace da).1, n + min n (head + tail)))

/-- Flash units that `n` bytes from a DA touch; none where it is no flash DA (R288). -/
def unitsOfDa (lclusters : Nat) (da : Option Nat) (n : Nat) : List Nat :=
  match da with
  | none => []
  | some da => if n = 0 ∨ tierOf lclusters da ≠ 2 then [] else
    (upTo ((da - 2 ^ 48 + n - 1) / 65536 + 1 - (da - 2 ^ 48) / 65536)).map ((da - 2 ^ 48) / 65536 + ·)

/-- Flash units that a range of a chart touches. -/
def Chart.flashUnits (c : Chart) (oa n : Nat) : List Nat := unitsOfDa (c.hf 0x14 1) (c.daOf oa) n

/-- Demand on one resource: its code, then access times, payload bytes, slots or blocks as its kind counts them; messages of a port
stand under kinds 0x2 and 0x3 with granules under the code plus 0x800. -/
abbrev Load := Nat × Nat

/-- Demand of reading or writing `n` bytes of OA, charged as `m`, on the path's resources under a placement of OAs. -/
def rangeLoad (lclusters : Nat) (place : Nat → Option Nat) (oa n m : Nat) (write : Bool) : List Load :=
  if n = 0 then []
  else match (place oa).map (tierOf lclusters) with
    | some 0 => (hbmLoad place oa m write).map (fun p => (0x1000 + p.1, p.2))
    | some 2 => (unitsOfDa lclusters (place oa) n).map (fun u =>
        (0x6000 + (flashPlace u).1, if write && unitRegion u == 1 then 330 else 66))
    | some 3 => [(if write then 0x4000 else 0x5000, m)]
    | some 4 => [(if write then 0x4000 else 0x5000, m)]
    | _ => []

/-- Demand of a chart's range, charged as R242 says. -/
def Chart.oaLoad (c : Chart) (oa n : Nat) (write : Bool) : List Load := rangeLoad (c.hf 0x14 1) c.daOf oa n (charged n) write

/-- Demand of a write of `n` bytes to a compute-die port (R340, R355). -/
def portLoad (dst n : Nat) : List Load :=
  let a := dst % 2 ^ 48
  [(0x2000 + portOf dst, (a + n - 1) / 4096 - a / 4096 + 1), (0x2800 + portOf dst, (a + n - 1) / 64 - a / 64 + 1)]

/-- Demand of one act of a context on its path. -/
def Chart.actLoad (c : Chart) (a : Act) : List Load :=
  let put := fun (dst len : Nat) => if isPort dst then portLoad dst (charged len) else c.oaLoad (dst % 2 ^ 52) len true
  if !a.moves then
    if (a.op = opSIGNAL ∧ fieldLe a.u 1 1 = 2) ∨ (a.op = opMARK ∧ fieldLe a.u 1 1 / 2 = 2) then [(0x2000 + fieldLe a.u 4 4 / 2 ^ 30, 1)]
    else if a.op = opSEAL ∧ uFlag a.u 0 = true then
      let d := fieldLe a.u 8 8
      if isPort d then portLoad d 32 else rangeLoad (c.hf 0x14 1) c.daOf (d % 2 ^ 52) 32 32 true
    else []
  else if a.op = opMOVE then c.oaLoad (a.src % 2 ^ 52) a.len false ++ put a.dst a.len
  else if a.op = opINLINE then put a.dst a.len
  else
    let k := packMax a.len
    if a.pack then
      c.oaLoad (a.src % 2 ^ 52) a.len false ++ c.oaLoad (a.dst % 2 ^ 52) k true
        ++ (if fieldLe a.u 8 1 = 3 ∧ a.ref ≠ 0 then c.oaLoad (a.ref % 2 ^ 52) a.len false else [])
    else c.oaLoad (a.src % 2 ^ 52) k false ++ put a.dst a.len

/-- The sum of a list's demand on one resource. -/
def loadOn (l : List Load) (res : Nat) : Nat := (l.filter (fun p => p.1 == res)).foldl (fun a p => a + p.2) 0

/-- Skein slots that a context needs on its encode or decode pipeline (R178, R182, R186). -/
def skeinSlots (acts : List Act) (decode : Bool) : Nat :=
  (acts.filter (fun a => a.op == opMOVEX && uFlag a.u 2 == decode)).foldl (fun t a =>
    t + (if a.len = 0 then 1
      else if a.pack && fieldLe a.u 8 1 == 1 then (aGeo a.ref (fieldLe a.u 12 4) (fieldLe a.u 9 1) a.len).encodeSlots
      else blockCount a.len)) 0

/-- Mover cycles of one act (*Mover time*). -/
def Act.cycles (a : Act) : Nat :=
  if a.op = opMOVE then (if a.len = 0 then 0 else max 256 ((a.dst % 2 ^ 52 + a.len - 1) / 64 - a.dst % 2 ^ 52 / 64 + 1))
  else if a.op = opMOVEX then 8 * blockCount a.len
  else if a.op = opINLINE then 4 + ceilDiv a.len 64
  else 4

/-- Logical engines on whose pipeline of a kind a context owns slots (R186). -/
def enginesOf (b : List Byte) (kind n : Nat) : List Nat := (upTo 64).filter (fun e => ownsOn b (kind * 4096 + e) n)

/-- The least tick in a range from which on a test holds, the range's end where it holds nowhere before: by halving, with fuel. -/
def leastTick (test : Nat → Bool) : Nat → Nat → Nat → Nat
  | 0, _, hi => hi
  | fuel + 1, lo, hi =>
    if hi ≤ lo then hi
    else if test ((lo + hi) / 2) then leastTick test fuel lo ((lo + hi) / 2) else leastTick test fuel ((lo + hi) / 2 + 1) hi

/-- What one slot of a resource carries for its owner, in the unit of its load: access times, messages or granules, payload bytes, or
the slot itself (R232, R233, R355). -/
def slotUnits (h res : Nat) : Nat :=
  let kind := res / 4096
  if kind = 1 then 31 - h
  else if kind = 2 ∨ kind = 3 then (if res % 4096 / 0x800 = 1 then 48 else if kind = 2 then 31 else 32)
  else if kind = 4 ∨ kind = 5 then 3840
  else 1

/-- The resource on whose slots a load stands. -/
def slotRes (res : Nat) : Nat := if res / 4096 = 2 ∨ res / 4096 = 3 then res / 4096 * 4096 + res % 4 else res

/-- Capacity of the slots of an owner on a resource in a window, in the unit of its load. -/
def Chart.capacity (c : Chart) (r : PlanRec) (res code t0 t1 : Nat) : Nat :=
  slotsOf (c.recSch r) c.fclk (slotRes res) r.fin (· == code) t0 t1 * slotUnits (schHost (c.recSch r)) res

/-- Everything a context demands in one run, with the fence of its SEAL on each port it wrote to and the FACK that answers it (R218, R355). -/
def Chart.loads (c : Chart) (r : PlanRec) (n : Nat) : List Load :=
  let acts := c.acts n
  let ports := (upTo 4).filter (fun p => acts.any (fun a => a.moves && isPort a.dst && portOf a.dst == p))
  (acts.map c.actLoad).flatten ++ (ports.map (fun p => [(0x2000 + p, 1), (0x3000 + p, 1)])).flatten

/-- The sum of each resource's load, one entry for each resource. -/
def sumLoads (l : List Load) : List Load :=
  l.foldl (fun m p => SMap.put (fun _ => 0) m p.1 (SMap.get (fun _ => 0) m p.1 + p.2)) []

/-- The plan offset by which the slots that a context owns from its START have carried everything it demands, the end of plan time
where they do not. -/
def Chart.endsAt (c : Chart) (r : PlanRec) (n : Nat) : Nat :=
  let start := imgStart (c.img n)
  (sumLoads (c.loads r n)).foldl (fun a p => max a (leastTick (fun t => decide (p.2 ≤ c.capacity r p.1 n start t)) 64 start r.fin)) start

/-! ## Group descriptors (R311, R312) -/

/-- A group descriptor. -/
structure UGroup where
  group  : Nat
  rule   : Nat
  mom    : Nat
  wc     : Nat
  mode   : Nat
  acc    : Nat
  tid    : Nat
  chunks : Nat
  delta  : Nat
  momOA  : Nat
  wcOA   : Nat
  peerOA : Nat
  mask   : Nat
  slot   : Nat
  stride : Nat
  beta1  : Nat
  beta2  : Nat
  omb1   : Nat
  omb2   : Nat
  eps    : Nat
  wd     : Nat
  lrs    : Nat
  last   : Nat
  deriving DecidableEq, Repr

/-- Group descriptor i of an update program body. -/
def uGroup (b : List Byte) (i : Nat) : UGroup :=
  let f := fun o n => fieldLe b (64 + 32 * fieldLe b 0 2 + 96 * i + o) n
  ⟨f 0 2, f 2 1, f 3 1, f 4 1, f 6 1, f 8 2, f 0x0A 2, f 0x0C 4, f 0x10 8, f 0x18 8, f 0x20 8, f 0x28 8, f 0x30 8, f 0x38 4, f 0x3C 4,
   f 0x40 4, f 0x44 4, f 0x48 4, f 0x4C 4, f 0x50 4, f 0x54 4, f 0x58 4, f 0x5C 4⟩

/-- Parameters of a full chunk. -/
def chunkN : Nat := 1048576

/-- Parameters of chunk k. -/
def UGroup.params (g : UGroup) (k : Nat) : Nat := if k + 1 = g.chunks then g.last else chunkN

/-- UPDATE_CYCLES of a chunk (R317). -/
def updCycles (span : Nat) (g : UGroup) (k : Nat) : Nat :=
  let t := ceilDiv (g.params k) 16384
  let p := if g.rule = 0 then 0 else (if g.acc = 0xFFFF then 0 else 1) + ((upTo 64).filter (fun j => g.mask.testBit j)).length
  let a := if g.rule = 1 then 768 else 0
  256 + ceilDiv t (4 * span) * (64 * p + a + (1024 + ceilDiv (fmtBytes g.wc 16384) 96))

end Sys2Proof.Machine
end

