-- ==== Sys2Proof/Machine/Wake.lean ====
section
/-! DEFINITION. Machine/Wake.lean: the scheduled waking and gating of clusters, skein engines and mover groups (R86, R106, R108, R189,
R443, R444). Units are named as in Machine/Fault.lean: clusters 0x1, engines 0x2, mover groups 0x7. -/

namespace Sys2Proof.Machine

/-! ## When a unit is used next -/

/-- Plan work that is still to start: the count of plan offset 0, the schedule set, the stash table and the update program that its
cluster entries name, the entries and the streams themselves, and the streams that have started and not ended. -/
structure PlanUse where
  base : Nat
  sch  : List Byte
  tab  : List StashEnt
  upd  : List Byte
  ents : List CluEntry
  set_ : List Nat
  live : List Nat
  deriving DecidableEq, Repr

/-- Logical clusters that an entry takes from its first on (R87, R315). -/
def Chart.spanOf (c : Chart) (p : PlanUse) (ce : CluEntry) : Nat :=
  if ce.kind = 0 then
    ((p.tab.find? (fun e => e.tid == ce.tensor && e.cls == 4)).map (fun e => fieldLe ((c.item 6 e.prog).getD []) 2 1)).getD 0
  else if ce.kind = 1 then fieldLe p.upd 6 1
  else 0

/-- The plan offset at which the next slot of a resource that a context owns begins, from an offset on; `none` when it owns none there. -/
def nextOwned (b : List Byte) (fclk res n t : Nat) : Option Nat :=
  let fin := t + 2 ^ 40
  let r := slotRate (res / 4096) fclk
  let e := leastTick (fun x => decide (0 < slotsOf b fclk res fin (· == n) t x)) 64 t fin
  if e = fin then none else some (e - ceilDiv r.2 r.1)

/-- The counts at which planned work puts a unit to use: a cluster at the START of the entries on it, an engine at the START of its walks
and of the streams that own slots of it and, of a stream that has started, at its next slot there, a mover group at the START of its
streams (R106, R189, R443). -/
def State.usesIn (s : State) (c : Chart) (p : PlanUse) (u : Nat) : List Nat :=
  let starts := if uKind u = 1 then
      let l := s.rf (R.CLU_MAP_LOGICAL (uIdx u))
      (p.ents.filter (fun ce => decide (ce.first ≤ l) && decide (l < ce.first + c.spanOf p ce))).map (·.start)
    else if uKind u = 2 then
      let l := s.rf (R.SKEIN_MAP_LOGICAL (uIdx u))
      (p.ents.filter (fun ce => ce.kind == 2 && ce.first == l)).map (·.start) ++
        (p.set_.filter (fun n => ownsOn p.sch (0x7000 + l) n || ownsOn p.sch (0x8000 + l) n)).map (fun n => imgStart (c.img n)) ++
        (p.live.map (fun n => [0x7000 + l, 0x8000 + l].filterMap (fun res => nextOwned p.sch c.fclk res n (s.row - p.base)))).flatten
    else if uKind u = 7 then
      (p.set_.filter (fun n => s.physMover (imgMover (c.img n)) / 16 == uIdx u)).map (fun n => imgStart (c.img n))
    else []
  starts.map (p.base + ·)

/-- What the running plan has still to start. -/
def State.planNow (s : State) : PlanUse :=
  ⟨s.planC + s.step.slip, s.schedule, s.segTable, s.updProg, s.clu.left.map (cluEntry s.schedule),
    s.runSet.filter (fun n => s.sst n == ssARMED), s.runSet.filter (fun n => s.strUnfinished n && s.sst n != ssARMED)⟩

/-- The swatch that runs before the next cast-on: the one held for the launch, the one of this step's bind-off, or the one that waits in
the boundary; none of length zero (R31, R34). -/
def State.swatchAhead (s : State) (c : Chart) : Option Nat :=
  (if s.phase = phARMED ∧ s.step.launched = false then s.heldSwatch
    else if s.inStep then s.swatchFor (s.rf R.STEP_NUMBER_VALUE)
    else s.step.swatchNext).filter (fun p => c.swatchS p != 0)

/-- The plan that starts next, as STEP_NEXT_CASTON and the requests accepted so far have it: that of the swatch ahead, else of the variant
that casts on next (log entry 178). -/
def State.nextPlan (s : State) (c : Chart) : Option PlanUse :=
  let next := s.rf R.STEP_NEXT_CASTON_VALUE
  if next = 0 then none
  else
    let armed := decide (s.phase = phARMED)
    let v := if armed && !s.step.launched then s.launchVariant else s.rf R.STEP_STATUS_NEXT_VARIANT
    let whole := fun (b : List Byte) => (upTo (schNSEG b)).map (cluEntry b)
    match s.swatchAhead c with
    | some p =>
      let b := (c.item 9 (c.swatchSchedule p)).getD []
      some ⟨next - (c.swatchS p + c.vI (if armed then v else s.variant)), b, s.segTable, [], whole b, c.swatchSet p, []⟩
    | none =>
      let b := (c.item 9 (c.vSchedule v)).getD []
      some ⟨next, b, c.stash v, c.updProg (c.vUPDATE v), whole b, c.variantSet v, []⟩

/-- The least of a list of counts. -/
def leastOf (l : List Nat) : Option Nat :=
  l.foldl (fun a x => some (match a with | none => x | some y => min x y)) none

/-- The count of a unit's next use in the running plan, else in the next one. -/
def State.nextUse (s : State) (u : Nat) : Option Nat :=
  match s.chart.active with
  | none => none
  | some c =>
    match leastOf (if s.inPlan then s.usesIn c s.planNow u else []) with
    | some t => some t
    | none => match s.nextPlan c with
      | none => none
      | some p => leastOf (s.usesIn c p u)

/-! ## Waking and gating -/

/-- The units that can be gated, in the order of R444: clusters, skein engines, mover groups. -/
def gateUnits : List Nat := (upTo 36).map (0x1000 + ·) ++ (upTo 72).map (0x2000 + ·) ++ (upTo 17).map (0x7000 + ·)

/-- A unit's place in that order: clusters and engines by their logical number. -/
def State.wakeKey (s : State) (u : Nat) : Nat :=
  4096 * uKind u + (if uKind u = 1 then s.rf (R.CLU_MAP_LOGICAL (uIdx u)) else if uKind u = 2 then s.rf (R.SKEIN_MAP_LOGICAL (uIdx u)) else uIdx u)

/-- The units that are not on yet, each with the count of its next use. -/
def State.gatedUses (s : State) : List (Nat × Nat) :=
  (gateUnits.filter (fun u => !s.pwr.awake.contains u)).filterMap (fun u => (s.nextUse u).map (fun t => (u, t)))

/-- The count at which a unit whose next use is at t closes its switch: S - 2,000, staggered by its rank among the units that wake for
the same count (R444; log entry 185). -/
def State.wakeAt (s : State) (l : List (Nat × Nat)) (u t : Nat) : Nat :=
  t - 2000 + 4 * min ((l.filter (fun x => x.2 == t && decide (s.wakeKey x.1 < s.wakeKey u))).length) 150

/-- The count at which a cluster entry of a plan ends (R241, R317). -/
def Chart.useEnd (c : Chart) (p : PlanUse) (ce : CluEntry) : Nat :=
  p.base + ce.start + (if ce.kind = 0 then
      ((p.tab.find? (fun e => e.tid == ce.tensor && e.cls == 4)).map (fun e =>
        ceilDiv (fieldLe ((c.item 6 e.prog).getD []) 0xC 4 * 100) c.fclk)).getD 0
    else ceilDiv (updCycles (fieldLe p.upd 6 1) (uGroup p.upd ce.tensor) ce.slice * 100) c.fclk)

/-- The counts from which and to which the entries of a plan take a cluster. -/
def State.intervalsIn (s : State) (c : Chart) (p : PlanUse) (u : Nat) : List (Nat × Nat) :=
  let l := s.rf (R.CLU_MAP_LOGICAL (uIdx u))
  (p.ents.filter (fun ce => decide (ce.first ≤ l) && decide (l < ce.first + c.spanOf p ce))).map (fun ce =>
    (p.base + ce.start, c.useEnd p ce))

/-- The first use of a cluster that is on, among its intervals to come, that lies 6,000 ticks or more after the use before it: there the
cluster, gated in between, wakes again (R106). `t` is the count to which it is in use. -/
def gapAfter (l : List (Nat × Nat)) : Nat → Nat → Option Nat
  | 0, _ => none
  | fuel + 1, t =>
    match leastOf ((l.filter (fun x => decide (t < x.2))).map (·.1)) with
    | none => none
    | some a => if t + 6000 ≤ a then some a else gapAfter l fuel ((l.filter (fun x => decide (x.1 ≤ max a t))).foldl (fun m x => max m x.2) (t + 1))

/-- The use of a cluster for which its next wake is scheduled: of a gated one its next use, of one on or waking the first after a gap. -/
def State.wakeFor (s : State) (u : Nat) : Option Nat :=
  if !s.pwr.awake.contains u && !s.pwr.waking.contains u then s.nextUse u
  else match s.chart.active with
    | none => none
    | some c =>
      let now := { s.planNow with ents := s.planNow.ents ++ s.clu.running.map (fun r => cluEntry s.schedule r.1) }
      let l := (if s.inPlan then s.intervalsIn c now u else []) ++
        (match s.nextPlan c with | some p => s.intervalsIn c p u | none => [])
      gapAfter l (l.length + 1) s.row

/-- CLU_POWER.WAKE_AT of every cluster: where its next scheduled wake begins (R106, R108). -/
def State.showWakes (s : State) : State :=
  let clu := ((upTo 36).map (0x1000 + ·)).filterMap (fun u => (s.wakeFor u).map (fun t => (u, t)))
  let l := clu ++ s.gatedUses.filter (fun x => uKind x.1 != 1)
  let ats := (upTo 36).map (fun p => match clu.find? (fun x => x.1 == 0x1000 + p) with | none => 0 | some x => s.wakeAt l x.1 x.2)
  s.forEach (upTo 36) (fun s p => s.set (R.CLU_POWER_WAKE_AT p) (ats.getD p 0))

/-- STEP_NEXT_CASTON under the requests accepted so far, with the scheduled wakes that follow from it. -/
def State.showAhead (s : State) : State := s.showNext.showWakes

/-- Whether a unit has work in hand: a segment or chunk, an open skein context, a stream that holds its group on (R106, R189, R443). -/
def State.unitBusy (s : State) (u : Nat) : Bool :=
  if uKind u = 1 then s.rf (R.CLU_SEGMENT_BUSY (uIdx u)) != 0
  else if uKind u = 2 then s.rf (R.SKEIN_CTX_DEC_OPEN (uIdx u)) != 0 || s.rf (R.SKEIN_CTX_ENC_OPEN (uIdx u)) != 0
  else s.usedCtx.any (fun n => s.holdsGroup (uIdx u) n)

/-- Whether a unit may be gated: nothing of it in hand and its next use at least 6,000 ticks away (R106, R189, R443). -/
def State.mayGate (s : State) (u : Nat) : Bool :=
  (uKind u == 1 || uKind u == 2 || uKind u == 7) && !s.unitBusy u &&
    (match s.nextUse u with
     | none => true
     | some t => decide (s.row + 6000 ≤ t))

/-- UNIT_WAKE (R106, R189, R443, R444): a gated unit begins its wake sequence 2,000 ticks ahead of its next use, later
by its rank. -/
def execUnitWake (u : BitVec 16) (s : State) : Res :=
  .next (if s.pwr.off ∨ s.rf R.PWR_STATE_STATE < 2 ∨ s.pwr.awake.contains u.toNat then s
    else match s.nextUse u.toNat with
      | none => s
      | some t =>
        let s := s.advance (s.wakeAt s.gatedUses u.toNat t)
        ({ s with pwr := { s.pwr with waking := NSet.ins u.toNat s.pwr.waking } }).showUnits.showWakes)

/-- UNIT_GATE (R106, R189, R443): a unit with no use within 6,000 ticks is power-gated with its buffers retained; its next wake is shown. -/
def execUnitGate (u : BitVec 16) (s : State) : Res :=
  .next (if s.pwr.off || !s.mayGate u.toNat then s else (s.gateUnit u.toNat).showWakes)

/-- At a start: the waking units whose first use it is are on, and the wakes that follow are planned (R106, R444). -/
def State.unitsReady (s : State) : State :=
  (s.useUnits (s.pwr.waking.filter (fun u => match s.nextUse u with | none => true | some t => decide (t ≤ s.row)))).showWakes

end Sys2Proof.Machine
end

