-- ==== Sys2Proof/Machine/Rounds.lean ====
section
/-! DEFINITION. Machine/Rounds.lean: plan rounds, pauses and the tension counters (R231 to R254). -/

namespace Sys2Proof.Machine

/-- The word (ID, j) of the barrier table: the highest generation member j has announced (R395). -/
def State.announced (s : State) (id j : Nat) : Nat :=
  s.semWord (s.rf R.SYNC_BARRIER_LOCAL_PAGE * 2 ^ 21 + 512 * id + 8 * j)

/-- Generations of a barrier completed on this device (R212). -/
def State.localGen (s : State) (id : Nat) : Nat := SMap.get (fun _ => 0) s.bar.done id

/-- Whether generation g of a SCOPE 1 barrier has completed across the configuration (R396). -/
def State.configDone (s : State) (id g : Nat) : Bool :=
  decide (g ≤ s.localGen id) &&
    (s.devices == 1 || (upTo s.devices).all (fun j => j == s.rf R.SYNC_CONFIG_MEMBER || decide (g ≤ s.announced id j)))

/-- Whether the running set uses an ID as a local barrier: its streams name it, and none with SCOPE 1. -/
def State.localBarrier (s : State) (id : Nat) : Bool :=
  let at_ := fun (f : Bool) => s.runSet.any (fun n => (instrsOf (s.progOf n)).any (fun u =>
    uOp u == opBARRIER && fieldLe u 2 2 % 4096 == id && uFlag u 0 == f))
  at_ false && !at_ true

/-- The SCOPE 1 generations of the running schedule that have not completed, with their expected plan offsets (R240, R249); on a device
alone a SCOPE 1 barrier acts as SCOPE 0 and pauses nothing (R396). -/
def State.openBarriers (s : State) : List (Nat × Nat × Nat) :=
  let b := s.schedule
  if s.devices = 1 then []
  else ((upTo (schNBAR b)).map (barEntry b)).filter (fun e => !s.configDone e.1 e.2.1 && !s.localBarrier e.1)

/-- The first count C + 32k at or after a count (R231). -/
def State.roundUp (s : State) (t : Nat) : Nat := s.planC + ceilDiv (t - s.planC) 32 * 32

/-- TENSION_CTRL.CLEAR (R254): pending to the bind-off in a step or while a bind-off's figures are due, else at once. -/
def State.writeTensionCtrl (s : State) (w : Wr) : State :=
  let t := s.regWrite 0x708000 w
  if w.get .host R.TENSION_CTRL_CLEAR = 1 then
    if t.inStep || t.step.figDue then
      ({ t with step := { t.step with clearTension := true } }).set R.TENSION_CTRL_CLEAR_PENDING 1
    else t.forEach (upTo 16) (fun t k => t.set (R.TENSION_CUM_COUNT k) 0)
  else t

/-! ## Commands -/

/-- PAUSE_BEGIN (R231, R249, R417): at the first round boundary at or after its cause, a failover pause begins; without one, the
pause of the SCOPE 1 generation whose expected plan offset has been reached. -/
def execPauseBegin (s : State) : Res :=
  .next (if s.pwr.off || !s.inPlan || s.fault.pauseEnd.isSome || s.fault.peerPause then s
    else if 0 < s.fault.pauseWant then
      let s := s.advance (s.roundUp s.row)
      let len := s.fault.pauseWant
      let s := { s with fault := { s.fault with pauseWant := 0, pauseFrom := s.row, pauseEnd := some (s.row + len) } }
      (s.set R.FAULT_STATUS_PAUSED 1).set R.FAULT_LAST_AT s.row
    else match s.openBarriers with
      | [] => s
      | b :: t =>
        let at_ := t.foldl (fun a e => min a e.2.2) b.2.2
        let s := s.advance (max (s.roundUp s.row) (s.planC + s.step.slip + at_))
        { s with fault := { s.fault with peerPause := true, pauseFrom := s.row } })

/-- Whether the SCOPE 1 generation a pause waits for is still open at the plan offset where plan time stands. -/
def State.peerWaits (s : State) : Bool :=
  s.openBarriers.any (fun e => decide (s.planC + s.step.slip + e.2.2 ≤ s.fault.pauseFrom))

/-- TENSION_CLEAR (R254): a write of TENSION_CTRL with CLEAR set. -/
def execTensionClear (m : Master) (v : BitVec 64) (s : State) : Res :=
  .next (if s.reach m then s.writeTensionCtrl (Wr.full m (v ||| 1).toNat) else s)

end Sys2Proof.Machine
end

