-- ==== Sys2Proof/Machine/Fault.lean ====
section
/-! DEFINITION. Machine/Fault.lean: units, spares, failover, retirement, control cores, mends (R413 to R435). A unit is named by
its 16-bit code: kind in bits 15:12, physical index in bits 11:0 (R416). -/

namespace Sys2Proof.Machine

/-- Physical units of a kind (R415). -/
def kindCount (k : Nat) : Nat :=
  if k = 1 then 36 else if k = 2 then 72 else if k = 3 then 272 else if k = 4 then 256 else if k = 5 then 36 else if k = 6 then 5 else 0

/-- The FAULT_UNIT register of a mover, channel, module or control core (R435). -/
def unitOff (u : Nat) : Nat :=
  let i := uIdx u
  if uKind u = 3 then 0x610000 + 8 * i else if uKind u = 4 then 0x611000 + 8 * i
  else if uKind u = 5 then 0x611800 + 8 * i else 0x611A00 + 8 * i

/-- The STATE and LOGICAL fields of a unit (CLU_MAP, SKEIN_MAP, FAULT_UNIT). -/
def unitStateF (u : Nat) : Fld :=
  if uKind u = 1 then R.CLU_MAP_STATE (uIdx u) else if uKind u = 2 then R.SKEIN_MAP_STATE (uIdx u) else R.FAULT_UNIT_STATE (unitOff u)
def unitLogicalF (u : Nat) : Fld :=
  if uKind u = 1 then R.CLU_MAP_LOGICAL (uIdx u) else if uKind u = 2 then R.SKEIN_MAP_LOGICAL (uIdx u) else R.FAULT_UNIT_LOGICAL (unitOff u)

/-- LOGICAL of a unit that serves no place. -/
def noPlace (u : Nat) : Nat := if uKind u ≤ 2 then 0xFF else 0xFFFF

/-- Unit states (R435). -/
def usDISABLED : Nat := 0
def usSPARE : Nat := 1
def usSERVICE : Nat := 2
def usFAILED : Nat := 3
def usMEND : Nat := 4
def usRETIRING : Nat := 5

/-- The expanders of a cluster follow it (R415, EXP_STAT). -/
def State.showExp (s : State) (u : Nat) : State :=
  if uKind u ≠ 1 then s
  else s.forEach (upTo 4) (fun s j =>
    let q := 4 * uIdx u + j
    let l := s.rf (unitLogicalF u)
    (s.set (R.EXP_STAT_STATE q) (s.rf (unitStateF u))).set (R.EXP_STAT_LOGICAL q) (if l = 0xFF then 0xFF else 4 * l + j))

/-- A unit's state and place written. -/
def State.setUnit (s : State) (u st place : Nat) : State :=
  ((s.set (unitStateF u) st).set (unitLogicalF u) place).showExp u

/-- A unit in service, retiring included. -/
def State.serves (s : State) (u : Nat) : Bool := s.rf (unitStateF u) == usSERVICE || s.rf (unitStateF u) == usRETIRING

/-- Whether two units draw on the same spares: channels of one stack, modules of one port, else the whole kind (R415). -/
def sameSpares (u v : Nat) : Bool :=
  uKind u == uKind v && (if uKind u = 4 then uIdx u / 32 == uIdx v / 32 else if uKind u = 5 then uIdx u / 9 == uIdx v / 9 else true)

/-- The units of a kind by code. -/
def unitsOf (k : Nat) : List Nat := (upTo (kindCount k)).map (fun i => k * 4096 + i)

/-- The lowest-numbered spare allowed to take a unit's place (R416). -/
def State.spareFor (s : State) (u : Nat) : Option Nat :=
  (unitsOf (uKind u)).find? (fun v => sameSpares u v && s.rf (unitStateF v) == usSPARE)

/-- HBM_STACK.SPARE and NO_SPARE as the stack's channels stand (R471). -/
def State.showStack (s : State) (k : Nat) : State :=
  match (upTo 32).find? (fun c => s.rf (unitStateF (0x4000 + 32 * k + c)) == usSPARE) with
  | some c => (s.set (R.HBM_STACK_SPARE k) c).set (R.HBM_STACK_NO_SPARE k) 0
  | none => s.set (R.HBM_STACK_NO_SPARE k) 1

/-- A kind's bit of FAULT_STATUS.NO_SPARE set (R416). -/
def State.setNoSpare (s : State) (k : Nat) : State :=
  s.set R.FAULT_STATUS_NO_SPARE (s.rf R.FAULT_STATUS_NO_SPARE ||| 2 ^ (k - 1))

/-- A kind's bit cleared when a spare of it exists and no place of it stays unserved. -/
def State.settleNoSpare (s : State) (k : Nat) : State :=
  if (unitsOf k).any (fun v => s.rf (unitStateF v) == usSPARE) && !s.fault.unserved.any (fun p => p / 4096 == k) then
    let m := s.rf R.FAULT_STATUS_NO_SPARE
    s.set R.FAULT_STATUS_NO_SPARE (if m.testBit (k - 1) then m - 2 ^ (k - 1) else m)
  else s

/-- FAULT_STATUS.COPYING and RETIRE_PENDING as the copies and retirements stand (R435). -/
def State.showRetire (s : State) : State :=
  (s.set R.FAULT_STATUS_COPYING (if s.fault.copies.any (fun c => !c.done) then 1 else 0)).set
    R.FAULT_STATUS_RETIRE_PENDING (if s.fault.retiring.isEmpty then 0 else 1)

/-- A unit that fails while it is retiring retires no more: its place is settled by the fault (R416, R422). -/
def State.endRetire (s : State) (u : Nat) : State :=
  if s.fault.retiring.contains u then
    ({ s with fault := { s.fault with retiring := NSet.del u s.fault.retiring } }).showRetire
  else s

/-- A failed unit recorded: UNIT_LOST in FAULT_STATUS, its register, the log, and FAULT_LAST, whose AT a pause alone sets (R416, R417,
R435); a retirement of it that waits for the bind-off ends. -/
def State.recordLost (s : State) (u v : Nat) : State :=
  let s := s.endRetire u
  let s := (s.set R.FAULT_STATUS_LAST_STATUS stUNIT_LOST)
  let s := if 3 ≤ uKind u then s.set (R.FAULT_UNIT_LAST_STATUS (unitOff u)) stUNIT_LOST
    else if uKind u = 2 then s.set (R.SKEIN_ERR_LAST_STATUS (uIdx u)) stUNIT_LOST else s
  let s := (s.set R.FAULT_LAST_UNIT u).set R.FAULT_LAST_SPARE v
  s.logEv stUNIT_LOST 0x60 u v 0

/-- A failed unit's place left unserved (R416): NO_SPARE, and FLAG_OUT with cause no spare. -/
def State.leaveUnserved (s : State) (u : Nat) : State :=
  let place := s.rf (unitLogicalF u)
  let s := { s with fault := { s.fault with lastPlace := SMap.put (fun _ => 0x10000) s.fault.lastPlace u place
                                            unserved := NSet.ins (uKind u * 4096 + place) s.fault.unserved } }
  let s := (s.setUnit u usFAILED (noPlace u)).recordLost u 0xFFFF
  (s.setNoSpare (uKind u)).raiseFlag 0x0D

/-- The open contexts of a skein engine go with its place (R188). -/
def State.moveOpen (s : State) (a b : Nat) : State :=
  let s := (s.set (R.SKEIN_CTX_ENC_OPEN b) (s.rf (R.SKEIN_CTX_ENC_OPEN a))).set (R.SKEIN_CTX_DEC_OPEN b) (s.rf (R.SKEIN_CTX_DEC_OPEN a))
  (s.set (R.SKEIN_CTX_ENC_OPEN a) 0).set (R.SKEIN_CTX_DEC_OPEN a) 0

/-- A unit's place handed to another: the old one leaves in the given state, its expander and power follow. -/
def State.takePlace (s : State) (u v leave : Nat) : State :=
  let place := s.rf (unitLogicalF u)
  let s := { s with fault := { s.fault with lastPlace := SMap.put (fun _ => 0x10000) s.fault.lastPlace u place } }
  let s := if uKind u = 2 then s.moveOpen (uIdx u) (uIdx v) else s
  (s.setUnit u leave (noPlace u)).setUnit v usSERVICE place

/-- The clusters that serve the span of the running segment that takes a logical cluster; none in a chunk update (R87). -/
def State.spanMates (s : State) (l : Nat) : List Nat :=
  match s.chart.active with
  | none => []
  | some c =>
    let p := s.planNow
    let takes := fun (ce : CluEntry) (q : Nat) => decide (ce.first ≤ q) && decide (q < ce.first + c.spanOf p ce)
    match (s.clu.running.map (fun r => cluEntry p.sch r.1)).find? (fun ce => ce.kind == 0 && takes ce l) with
    | none => []
    | some ce => (upTo 36).filter (fun q => s.serves (0x1000 + q) && takes ce (s.rf (R.CLU_MAP_LOGICAL q)))

/-- The segment figures of a failed cluster's window move to its stand-in, and the whole span replays the segment (R107); a chunk update
is replayed without them (R419). -/
def State.moveSegment (s : State) (u v : Nat) : State :=
  if uKind u ≠ 1 ∨ s.rf (R.CLU_SEGMENT_BUSY (uIdx u)) = 0 then s
  else
    let a := uIdx u
    let b := uIdx v
    let mates := s.spanMates (s.rf (R.CLU_MAP_LOGICAL a))
    let s := ((s.set (R.CLU_SEGMENT_PROGRAM b) (s.rf (R.CLU_SEGMENT_PROGRAM a))).set (R.CLU_SEGMENT_LIFELINE b)
      (s.rf (R.CLU_SEGMENT_LIFELINE a))).set (R.CLU_SEGMENT_SLICE b) (s.rf (R.CLU_SEGMENT_SLICE a))
    let s := ((s.set (R.CLU_SEGMENT_MB b) (s.rf (R.CLU_SEGMENT_MB a))).set (R.CLU_SEGMENT_LEAD b) (s.rf (R.CLU_SEGMENT_LEAD a)))
    let s := s.forEach (mates.map (fun p => if p = a then b else p)) (fun s p =>
      (s.set (R.CLU_SEGMENT_REPLAY p) 1).set (R.CLU_ERR_REPLAYED p) 1)
    let s := (s.set (R.CLU_SEGMENT_BUSY b) 1).set (R.CLU_SEGMENT_BUSY a) 0
    (s.set (R.CLU_SEGMENT_REPLAY a) 0).set (R.CLU_ERR_LAST_STATUS a) stUNIT_LOST

/-- The fixed length of a failover pause by kind (R418). -/
def pauseLen (k : Nat) : Nat := if k = 1 ∨ k = 3 then 32000 else if k = 2 then 4096 else if k = 5 then 20000 else 0

/-- The pause a failover in plan time costs: a new one wanted, or the running one extended (R417, R421). -/
def State.wantPause (s : State) (len : Nat) : State :=
  if !s.inPlan || len == 0 then s
  else match s.fault.pauseEnd with
    | some t => { s with fault := { s.fault with pauseEnd := some (t + len) } }
    | none => { s with fault := { s.fault with pauseWant := s.fault.pauseWant + len } }

/-- A failover (R4, R417 to R421): the lowest spare takes the place, as its stand-in from cast-on to bind-off and in a swatch; the pause
is taken in plan time, a second one in a step raises FLAG_OUT. -/
def State.failover (s : State) (u v : Nat) : State :=
  let second := s.training && !s.step.reserveOver && decide (1 ≤ s.rf R.FAULT_STATUS_STEP_FAILOVERS)
  let s := s.moveSegment u v
  let s := (s.takePlace u v usFAILED).recordLost u v
  let s := s.bump R.FAULT_STATUS_FAILOVERS
  let s := if s.inStep then s.addSat R.FAULT_STATUS_STEP_FAILOVERS 1 else s
  let s := if s.inStep || s.phase == phSWATCH then { s with fault := { s.fault with standIns := NSet.ins v s.fault.standIns } } else s
  let s := s.wantPause (pauseLen (uKind u))
  let s := if s.pwr.awake.contains u then (s.gateUnit u).wakeUnit v else s
  if second then s.raiseFlag 0x0C else s

/-- A unit fault of a cluster, skein engine, mover or module (R413, R416, R417): a spare that fails only leaves the pool. -/
def State.unitFault (s : State) (u : Nat) : State :=
  if kindCount (uKind u) ≤ uIdx u then s
  else if s.rf (unitStateF u) = usSPARE then (s.setUnit u usFAILED (noPlace u)).recordLost u 0xFFFF
  else if !s.serves u then s
  else match s.spareFor u with
    | some v => s.failover u v
    | none => s.leaveUnserved u

/-- The partner of a control-core place in its lockstep pair (R425). -/
def partner (place : Nat) : Nat := if place % 2 = 0 then place + 1 else place - 1

/-- Whether a control-core place is served. -/
def State.placeServed (s : State) (k place : Nat) : Bool :=
  (unitsOf k).any (fun v => s.serves v && s.rf (unitLogicalF v) == place)

/-- A control-core fault (R416, R426): the partner goes on alone; the spare is to join; with none left NO_SPARE bit 5 is set, and only a pair with both cores failed raises FLAG_OUT. -/
def State.coreFault (s : State) (i : Nat) : State :=
  let u := 0x6000 + i
  if s.rf (unitStateF u) = usSPARE then
    (s.setUnit u usFAILED (noPlace u)).recordLost u 0xFFFF
  else if !s.serves u then s
  else
    let place := s.rf (unitLogicalF u)
    let v := s.spareFor u
    let s := { s with fault := { s.fault with lastPlace := SMap.put (fun _ => 0x10000) s.fault.lastPlace u place } }
    let s := (s.setUnit u usFAILED (noPlace u)).recordLost u (v.getD 0xFFFF)
    match v with
    | some _ => { s with fault := { s.fault with joins := NSet.ins place s.fault.joins } }
    | none =>
      let s := s.setNoSpare 6
      if s.placeServed 6 (partner place) then s
      else ({ s with fault := { s.fault with unserved := NSet.ins (0x6000 + place) s.fault.unserved } }).raiseFlag 0x0D

/-- The spare core joins a pair (R426), which counts as a failover. -/
def State.joinCore (s : State) (place : Nat) : State :=
  let s := { s with fault := { s.fault with joins := NSet.del place s.fault.joins } }
  match s.spareFor 0x6000 with
  | some v => (s.setUnit v usSERVICE place).bump R.FAULT_STATUS_FAILOVERS
  | none => s.setNoSpare 6

/-- The correctable errors of a unit in the current window (R422). -/
def State.ceOf (s : State) (u : Nat) : Nat := SMap.get (fun _ => 0) s.fault.ce u

/-- Retirement thresholds (R422). -/
def ceLimit (k : Nat) : Nat := if k ≤ 3 then 64 else if k = 6 then 16 else if k = 4 then 4096 else 0

/-- The spare that a retiring unit can count on: a channel has none while another channel of its stack is being copied into it (R422, R423). -/
def State.retireTo (s : State) (u : Nat) : Option Nat :=
  (s.spareFor u).filter (fun v => !(uKind u == 4 && s.fault.copies.any (fun c => c.dst == uIdx v)))

/-- A retiring HBM channel begins its copy into the stack's spare (R423). -/
def State.startCopy (s : State) (u : Nat) : State :=
  match s.spareFor u with
  | none => s
  | some v =>
    let s := { s with fault := { s.fault with copies := s.fault.copies ++ [ChanCopy.mk (uIdx u) (uIdx v) false] } }
    (s.set R.FAULT_STATUS_COPYING 1).set (R.HBM_STACK_STATE (uIdx u / 32)) 3

/-- A unit becomes retiring (R422): it serves on until the next bind-off; without a spare it stays in service and is logged. -/
def State.retire (s : State) (u : Nat) : State :=
  match s.retireTo u with
  | none => s.logEv stUNIT_LOST 0x60 u 0xFFFF 0
  | some _ =>
    let s := { s with fault := { s.fault with retiring := NSet.ins u s.fault.retiring } }
    let s := (s.set R.FAULT_STATUS_RETIRE_PENDING 1).logEv stOK 0x60 u 0 0
    let s := if 3 ≤ uKind u then s.set (unitStateF u) usRETIRING else s
    if uKind u = 4 then s.startCopy u else s

/-- A correctable error (R413, R422): counted against its unit; lane repairs of a module are logged and not counted. -/
def State.correctable (s : State) (u : Nat) : State :=
  if kindCount (uKind u) ≤ uIdx u then s
  else if uKind u = 5 then s.logEv stOK 0x60 u 0 0
  else
    let n := s.ceOf u + 1
    let s := { s with fault := { s.fault with ce := SMap.put (fun _ => 0) s.fault.ce u n } }
    let s := if 3 ≤ uKind u then s.set (R.FAULT_UNIT_CE (unitOff u)) (min n 65535) else s
    let s := if uKind u = 4 then s.addSat (R.HBM_STACK_CE (uIdx u / 32)) 1 else s
    if n = ceLimit (uKind u) ∧ s.rf (unitStateF u) = usSERVICE ∧ u ∉ s.fault.retiring then s.retire u else s

/-- The copies from or into a channel given up; a channel whose copy loses its spare stays in service and is logged (R422, R423). -/
def State.dropCopies (s : State) (ch : Nat) : State :=
  let gone := s.fault.copies.filter (fun c => c.src == ch || c.dst == ch)
  if gone.isEmpty then s
  else
    let left := (gone.filter (fun c => c.src != ch)).map (fun c => 0x4000 + c.src)
    let s := { s with fault := { s.fault with
      copies := s.fault.copies.filter (fun c => !(c.src == ch || c.dst == ch))
      retiring := s.fault.retiring.filter (fun u => !left.contains u && u != 0x4000 + ch) } }
    let s := s.forEach left (fun s u => (s.set (unitStateF u) usSERVICE).logEv stUNIT_LOST 0x60 u 0xFFFF 0)
    (s.set (R.HBM_STACK_STATE (ch / 32)) 2).showRetire

/-- Granules of a channel whose lost bit is set (R424). -/
def State.lostOf (s : State) (ch : Nat) : Nat :=
  if s.fault.lost.contains ch then 2 ^ 20 - (s.fault.lostClear.filter (fun k => k / 2 ^ 20 == ch)).length else 0

/-- An HBM channel lost (R424): its reads are marked and its writes discarded until the stack's spare takes its place at a bind-off; a copy
from it or into it ends. -/
def State.loseChannel (s : State) (ch : Nat) : State :=
  let u := 0x4000 + ch
  if s.rf (unitStateF u) = usSPARE then
    (((s.setUnit u usFAILED (noPlace u)).recordLost u 0xFFFF).dropCopies ch).showStack (ch / 32)
  else if !s.serves u then s
  else
    let v := s.spareFor u
    let more := 2 ^ 20 - s.lostOf ch
    let s := s.dropCopies ch
    let s := { s with fault := { s.fault with
      lossDue := NSet.ins ch s.fault.lossDue, lost := NSet.del ch s.fault.lost
      lostClear := s.fault.lostClear.filter (fun k => decide (k / 2 ^ 20 ≠ ch))
      lastPlace := SMap.put (fun _ => 0x10000) s.fault.lastPlace u (s.rf (unitLogicalF u)) } }
    let s := (s.set (unitStateF u) usFAILED).recordLost u (v.getD 0xFFFF)
    let s := s.set R.FAULT_MARKS_LOST_GRANULES (s.rf R.FAULT_MARKS_LOST_GRANULES + more)
    match v with
    | some _ => s
    | none =>
      let s := { s with fault := { s.fault with unserved := NSet.ins (0x4000 + s.rf (unitLogicalF u)) s.fault.unserved } }
      (s.setNoSpare 4).raiseFlag 0x0D

/-! ## Boundary work on units (R422 to R427) -/

/-- The lost bits of a channel copied with its granules to the channel that takes its place (R423, R424, R429). -/
def FaultSt.moveLost (f : FaultSt) (a b : Nat) : FaultSt :=
  if f.lost.contains a then
    { f with lost := NSet.ins b (NSet.del a f.lost)
             lostClear := f.lostClear.foldl (fun l k => if k / 2 ^ 20 = a then NSet.ins (b * 2 ^ 20 + k % 2 ^ 20) (NSet.del k l) else l)
               (f.lostClear.filter (fun k => decide (k / 2 ^ 20 ≠ b))) }
  else { f with lost := NSet.del b f.lost }

/-- A finished channel copy applied: the spare takes the logical place, the retiring channel becomes failed (R423). -/
def State.switchChannel (s : State) (c : ChanCopy) : State :=
  if !c.done then s
  else
    let f := { s.fault with copies := s.fault.copies.filter (· != c), retiring := NSet.del (0x4000 + c.src) s.fault.retiring }
    let s := { s with fault := f.moveLost c.src c.dst }
    (s.takePlace (0x4000 + c.src) (0x4000 + c.dst) usFAILED).showStack (c.src / 32)

/-- A lost channel's place taken by the stack's spare with every lost bit set (R424); the spare may be the lost channel itself, mended. -/
def State.replaceLost (s : State) (ch : Nat) : State :=
  let u := 0x4000 + ch
  match s.spareFor u with
  | none => s
  | some v =>
    let place := s.rf (unitLogicalF u)
    let s := { s with fault := { s.fault with
      lossDue := NSet.del ch s.fault.lossDue, lost := NSet.ins (uIdx v) s.fault.lost
      lostClear := s.fault.lostClear.filter (fun k => decide (k / 2 ^ 20 ≠ uIdx v))
      unserved := NSet.del (0x4000 + place) s.fault.unserved } }
    let s := (s.dropCopies (uIdx v)).set (unitLogicalF u) (noPlace u)
    ((s.setUnit v usSERVICE place).bump R.FAULT_STATUS_FAILOVERS).showStack (ch / 32)

/-- Whether a skein engine has a context open. -/
def State.holdsOpen (s : State) (u : Nat) : Bool :=
  uKind u == 2 && (s.rf (R.SKEIN_CTX_ENC_OPEN (uIdx u)) != 0 || s.rf (R.SKEIN_CTX_DEC_OPEN (uIdx u)) != 0)

/-- A retirement applied: the lowest spare takes the place, the unit becomes failed (R422). A spare that takes over a unit with work in hand
(an engine's open contexts) is on at once, since no such unit is gated (R186, R189). -/
def State.applyRetire (s : State) (u : Nat) : State :=
  if uKind u = 4 then s
  else
    let s := { s with fault := { s.fault with retiring := NSet.del u s.fault.retiring } }
    match s.spareFor u with
    | some v =>
      let t := (s.takePlace u v usFAILED).gateUnit u
      if s.holdsOpen u then t.wakeUnit v else t
    | none => (s.set (unitStateF u) usSERVICE).logEv stUNIT_LOST 0x60 u 0xFFFF 0

/-- The unit that serves a place. -/
def State.serverOf (s : State) (k place : Nat) : Option Nat :=
  (unitsOf k).find? (fun v => s.serves v && s.rf (unitLogicalF v) == place)

/-- A mend that has applied or failed leaves; PENDING reads 1 while another is pending (log entry 216). -/
def State.endMend (s : State) (m : Mend) : State :=
  let s := { s with fault := { s.fault with mends := s.fault.mends.filter (· != m) } }
  s.set R.FAULT_MEND_PENDING (if s.fault.mends.isEmpty then 0 else 1)

/-- A mend applied (R427): the unit becomes a spare, or with RESTORE takes back the place it last served; a lost channel's place stays its
own until the next bind-off gives it to a spare (R424). -/
def State.applyMend (s : State) (m : Mend) : State :=
  let place := SMap.get (fun _ => 0x10000) s.fault.lastPlace m.unit
  let s := s.endMend m
  let s := if m.restore ∧ place < 0x10000 then
      match s.serverOf (uKind m.unit) place with
      | some v =>
        let t := s.takePlace v m.unit usSPARE
        if t.pwr.awake.contains v then (t.gateUnit v).wakeUnit m.unit else t
      | none =>
        ({ s with fault := { s.fault with unserved := NSet.del (uKind m.unit * 4096 + place) s.fault.unserved
                                          joins := if uKind m.unit = 6 then NSet.del place s.fault.joins else s.fault.joins } }).setUnit
          m.unit usSERVICE place
    else if uKind m.unit == 4 && s.fault.lossDue.contains (uIdx m.unit) then s.set (unitStateF m.unit) usSPARE
    else s.setUnit m.unit usSPARE (noPlace m.unit)
  let s := if uKind m.unit = 4 then s.showStack (uIdx m.unit / 32) else s
  s.settleNoSpare (uKind m.unit)

/-- Insertion of a mend by ascending unit code (R427). -/
def insMend (m : Mend) : List Mend → List Mend
  | [] => [m]
  | x :: t => if m.unit ≤ x.unit then m :: x :: t else x :: insMend m t

/-- The units' boundary work after the audit of the bind-off of step n: stand-ins become of record, channel switches, lost channels
and retirements, the spare core joins, then mends in ascending unit code (R417, R422 to R427). -/
def State.unitBoundary (s : State) (n : Nat) : State :=
  let s := { s with fault := { s.fault with standIns := [], mismatched := [] } }
  let s := s.fault.copies.foldl State.switchChannel s
  let s := s.forEach s.fault.lossDue State.replaceLost
  let s := s.forEach s.fault.retiring State.applyRetire
  let s := s.forEach s.fault.joins State.joinCore
  let due := (s.fault.mends.filter (fun m => m.target == some n)).foldr insMend []
  (due.foldl State.applyMend s).showRetire

/-- FLAG_OUT raised again at a cast-on for every place that stays unserved (R416). -/
def State.reraiseUnserved (s : State) : State := if s.fault.unserved.isEmpty then s else s.raiseFlag 0x0D

/-! ## FAULT_MEND (R427) -/

/-- Whether a mend of a unit is accepted. -/
def State.mendOk (s : State) (u : Nat) (restore : Bool) : Bool :=
  decide (uIdx u < kindCount (uKind u)) && s.rf (unitStateF u) == usFAILED && !(restore && (uKind u == 4 || uKind u == 5))
    && !s.fault.mends.any (fun m => m.unit == u)

/-- A write of FAULT_MEND: with GO, the mend is accepted and its self-test begins, or it is refused with BAD_ARG. -/
def State.writeMend (s : State) (w : Wr) : State :=
  let t := s.regWrite 0x600010 w
  if w.get .host R.FAULT_MEND_GO = 1 then
    let u := t.rf R.FAULT_MEND_UNIT
    let r := t.rf R.FAULT_MEND_RESTORE == 1
    if t.mendOk u r then
      let t := { t with fault := { t.fault with mends := t.fault.mends ++ [Mend.mk u r none] } }
      ((t.set R.FAULT_MEND_PENDING 1).set R.FAULT_MEND_STATUS stOK).set R.FAULT_MEND_APPLY_AT_STEP 0xFFFFFFFF
    else (t.set R.FAULT_MEND_STATUS stBAD_ARG).refuse 0x600010 stBAD_ARG
  else t

/-- The step at whose bind-off something that reaches KN40 now applies, and whether it is deferred (R33, R74, R427). -/
def State.targetStep (s : State) : Nat × Bool :=
  if s.inStep then
    (if s.row < s.deadline then (s.rf R.STEP_NUMBER_VALUE, false) else (s.rf R.STEP_NUMBER_VALUE + 1, true))
  else if s.phase = phARMED then (s.rf R.STEP_START_VALUE, false)
  else (s.rf R.STEP_NUMBER_VALUE, false)

/-- The self-test of a pending mend has ended (R427). -/
def State.mendTested (s : State) (m : Mend) (pass : Bool) : State :=
  if !pass then
    let s := (s.endMend m).set R.FAULT_MEND_STATUS stCHECK_FAIL
    let s := if 3 ≤ uKind m.unit then s.set (R.FAULT_UNIT_LAST_STATUS (unitOff m.unit)) stCHECK_FAIL else s
    (s.set R.FAULT_STATUS_LAST_STATUS stCHECK_FAIL).logEv stCHECK_FAIL 0x60 m.unit 0 0
  else
    let s := s.set (unitStateF m.unit) usMEND
    if s.stopped then (s.applyMend m).set R.FAULT_MEND_STATUS stOK
    else
      let (n, late) := s.targetStep
      let s := { s with fault := { s.fault with mends := s.fault.mends.map (fun x => if x == m then { m with target := some n } else x) } }
      (s.set R.FAULT_MEND_APPLY_AT_STEP n).set R.FAULT_MEND_STATUS (if late then stDEFERRED else stOK)

/-- A marked granule of a CHART-owned live page counted when it is first delivered (R430). -/
def State.noteLive (s : State) (page da n : Nat) : State :=
  if s.pageOwner page ≠ 2 then s
  else
    let new := (granules da n).filter (fun g => s.marked (64 * g) && !s.fault.liveMarks.contains g)
    if new.isEmpty then s
    else ({ s with fault := { s.fault with liveMarks := new.foldl (fun l g => NSet.ins g l) s.fault.liveMarks } }).set
      R.FAULT_MARKS_LIVE_GRANULES (s.rf R.FAULT_MARKS_LIVE_GRANULES + new.length)

/-! ## Commands -/

/-- CORRECTABLE_ERROR (R422). -/
def execCorrectableError (u : BitVec 16) (s : State) : Res :=
  .next (if s.pwr.off then s else s.correctable u.toNat)

/-- CORRECTABLE_WINDOW_END (R422): at the end of a window of 2^24 ticks every unit's count restarts. -/
def execCorrectableWindowEnd (s : State) : Res :=
  .next (if s.pwr.off then s
    else
      let s := s.advance ((s.row / 2 ^ 24 + 1) * 2 ^ 24)
      let s := s.forEach (s.fault.ce.map (·.1)) (fun s u =>
        if uKind u = 4 then (s.set (R.FAULT_UNIT_CE (unitOff u)) 0).set (R.HBM_STACK_CE (uIdx u / 32)) 0
        else if 3 ≤ uKind u then s.set (R.FAULT_UNIT_CE (unitOff u)) 0 else s)
      { s with fault := { s.fault with ce := [] } })

/-- CHANNEL_COPY_DONE (R423): the oldest running copy has finished; the switch waits for the next bind-off. -/
def execChannelCopyDone (s : State) : Res :=
  .next (match s.fault.copies.find? (fun c => !c.done) with
    | none => s
    | some c =>
      let s := { s with fault := { s.fault with copies := s.fault.copies.map (fun x => if x == c then { c with done := true } else x) } }
      s.showRetire.set (R.HBM_STACK_STATE (c.src / 32)) 2)

/-- CHANNEL_LOSS (R424). -/
def execChannelLoss (ch : Fin 256) (s : State) : Res := .next (if s.pwr.off then s else s.loseChannel ch.val)

/-- CONTROL_CORE_FAULT (R426). -/
def execControlCoreFault (i : Fin 5) (s : State) : Res := .next (if s.pwr.off then s else s.coreFault i.val)

/-- LOCKSTEP_MISMATCH (R425, R426): in AON one core runs alone; else the pair restarts its task; at a second mismatch within the task the core that fails its self-test, a free value, fails. -/
def execLockstepMismatch (pair : Fin 2) (s : State) : Res :=
  .next (if s.pwr.off ∨ s.rf R.PWR_STATE_STATE < 2 then s
    else if s.fault.mismatched.contains pair.val then
      let (x, s) := s.fresh
      let s := { s with fault := { s.fault with mismatched := NSet.del pair.val s.fault.mismatched } }
      match s.serverOf 6 (2 * pair.val + x % 2) with
      | some u => s.coreFault (uIdx u)
      | none => s
    else { s with fault := { s.fault with mismatched := NSet.ins pair.val s.fault.mismatched } })

/-- CONTROL_CORE_JOIN (R426): outside a step the spare core joins the pair of a failed core and is of record at once. -/
def execControlCoreJoin (s : State) : Res :=
  .next (if s.pwr.off || s.inStep then s
    else match s.fault.joins with
      | [] => s
      | p :: _ => s.joinCore p)

/-- MEND (R427): a write of FAULT_MEND with GO set. -/
def execMend (m : Master) (v : BitVec 64) (s : State) : Res :=
  .next (if s.reach m then s.writeMend (Wr.full m (v ||| 1).toNat) else s)

/-- MEND_SELF_TEST_DONE (R427). -/
def execMendSelfTestDone (u : BitVec 16) (pass : Bool) (s : State) : Res :=
  .next (match s.fault.mends.find? (fun m => m.unit == u.toNat && m.target.isNone) with
    | none => s
    | some m => s.mendTested m pass)

end Sys2Proof.Machine
end

