-- ==== Sys2Proof/Machine/StepOps.lean ====
section
/-! DEFINITION. Machine/StepOps.lean: operations on streams, stash, accumulators and shadows that the step's events share
(R20, R24, R223 to R226, R310, R329, R330). -/

namespace Sys2Proof.Machine

/-! ## Pools of the ledgers (R431) -/

/-- The pools that the ledgers count by number: the die's header and data credits spent at a port, the host link's read space, a port's ingress
buffer, the rings' slots, the pace credits of a line. -/
def poolHdr (p : Nat) : Nat := 2 * p
def poolData (p : Nat) : Nat := 2 * p + 1
def poolRead : Nat := 8
def poolBuf (p : Nat) : Nat := 16 + p
def poolRing : Nat := 20
def poolPace (p line : Nat) : Nat := 0x10000 + 16384 * p + line

/-- The credits that KN40 grants a die: class 0 headers, 1 write data, 2 add-writes (R350). -/
def poolIn (p c : Nat) : Nat := 32 + 4 * p + c

/-- Items that a pool has taken up, and items that it has given back. -/
def State.tookOf (s : State) (k : Nat) : Nat := SMap.get (fun _ => 0) s.led.took k
def State.gaveOf (s : State) (k : Nat) : Nat := SMap.get (fun _ => 0) s.led.gave k
def State.take (s : State) (k n : Nat) : State :=
  { s with led := { s.led with took := SMap.put (fun _ => 0) s.led.took k (s.tookOf k + n) } }
def State.give (s : State) (k n : Nat) : State :=
  { s with led := { s.led with gave := SMap.put (fun _ => 0) s.led.gave k (s.gaveOf k + n) } }

/-- Bytes of completion space that a stream's reads on the host link hold. -/
def StreamX.reads (x : StreamX) : Nat :=
  x.blocks.foldl (fun a b => if b.inHand then a else a + (b.owed - b.data.length)) (match x.sk with | some k => k.owed | none => 0)

/-- A stream reaches ENDED: its wait is over and, for a plan stream, the TOKEN ledger counts it (R214, R431). -/
def State.endStr (s : State) (n : Nat) : State :=
  let x := s.str n
  let s := (s.setSst n ssENDED wtNONE).give poolRead x.reads
  let s := s.setStr n { x with blocks := [], sk := none, confirm := [], pend := [] }
  { s with led := { s.led with
      strmOut := s.led.strmOut + (if x.host then 0 else 1), blkOut := s.led.blkOut + x.blocks.length
      skOut := s.led.skOut + (if x.sk.isSome then 1 else 0) } }

/-- Whether a stream's SEAL has begun: a stop or abort then has no effect on its data (R226). -/
def State.sealing (s : State) (n : Nat) : Bool :=
  s.sst n == ssSEALED || (s.sst n == ssWAIT && uOp (s.unit n) == opSEAL)

/-- A stream stopped at a block boundary with a status (R223, R225): nothing further starts, a wait is abandoned, blocks in flight complete. -/
def State.stopStr (s : State) (n st : Nat) : State :=
  if s.sealing n then (if st = stORPHANED then s.strStatus n st else s)
  else if !s.strUnfinished n then s
  else
    let s := s.strStatus n st
    if (s.str n).blocks.isEmpty && (s.str n).sk.isNone then s.endStr n
    else s.setSst n ssSTOPPING wtNONE

/-- Every plan stream of the running set stopped with STOPPED (R20, R463). -/
def State.stopPlan (s : State) : State := s.forEach s.runSet (fun s n => s.stopStr n stSTOPPED)

/-- Bytes of an OA range of HBM or on-die memory set to zero, marks cleared. -/
def State.zeroOA (s : State) (oa n : Nat) : State :=
  (pageSpans oa n).foldl (fun s sp =>
    match s.entOf sp.1 with
    | none => s
    | some e => s.zeroRange (e.page * 2 ^ 21 + sp.2.1) sp.2.2) s

/-! ## Credits that go back to a die (R337, R339, R350) -/

/-- A port's model record. -/
def State.port (s : State) (p : Nat) : PortSt := s.ports.getD p PortSt.down
def State.setPort (s : State) (p : Nat) (x : PortSt) : State := { s with ports := s.ports.set p x }

/-- Whether a port carries messages (R356). -/
def State.portUp (s : State) (p : Nat) : Bool := s.rf (R.CDP_STATUS_STATE p) == 3

/-- Whether a port's modules retrain: it carries nothing meanwhile and keeps what it owes the die (R337). -/
def State.retraining (s : State) (p : Nat) : Bool := s.rf (R.CDP_STATUS_STATE p) == 5

/-- Credits returned to the die in a flit header: headers, data, add-write; while the port retrains they wait for it to be up again. -/
def State.returnCr (s : State) (p h d a : Nat) : State :=
  if s.portUp p then (((s.emit (.kpp p 0 h (d + 65536 * a) [])).give (poolIn p 0) h).give (poolIn p 1) d).give (poolIn p 2) a
  else if s.retraining p then
    let x := s.port p
    s.setPort p { x with retHdr := x.retHdr + h, retData := x.retData + d, retAddw := x.retAddw + a }
  else s

/-- A held add-write leaves its buffer, and its ADDW credits go back to the die, unless a reset has taken them back (R350, R358). -/
def State.dropHeld (s : State) (h : HeldAdd) : State :=
  let s := { s with led := { s.led with addOut := s.led.addOut + 1 } }
  if h.stale then s else s.returnCr h.port 0 0 (ceilDiv h.bytes 64)

/-- An accumulator emptied: every region's count is zero, its elements read +0 and its held add-writes leave (R24, R310). -/
def State.wipeAcc (s : State) (a : Nat) : State :=
  let d := accDesc s.updProg a
  let s := s.zeroOA d.oa (4 * d.elems)
  let keep := fun k => decide (k / 2 ^ 18 ≠ a)
  let s := (s.upd.heldAdds.filter (fun h => h.acc == a)).foldl State.dropHeld s
  { s with upd := { s.upd with
    counts := s.upd.counts.filter (fun p => keep p.1), cover := s.upd.cover.filter (fun p => keep p.1)
    first := s.upd.first.filter (fun p => decide (p.1 / 2 ^ 32 ≠ a)), firstBad := s.upd.firstBad.filter (fun k => decide (k / 2 ^ 32 ≠ a))
    dead := s.upd.dead.filter keep, heldAdds := s.upd.heldAdds.filter (fun h => h.acc != a) } }

/-- An accumulator cleared at cast-on or at CLEAR_AT (R310): with NSEQ zero its DONE_SEM counts each region at once. -/
def State.clearAcc (s : State) (a : Nat) : State :=
  let d := accDesc s.updProg a
  let s := s.wipeAcc a
  if d.nseq = 0 then s.forEach (upTo d.regions) (fun s _ => s.addSem d.sem 1) else s

/-- Every accumulator of the running update program emptied at the step's end (R24). -/
def State.wipeAccs (s : State) : State := s.forEach (upTo (fieldLe s.updProg 0 2)) State.wipeAcc

/-- Every accumulator of the running update program cleared at cast-on (R310). -/
def State.clearAccs (s : State) : State := s.forEach (upTo (fieldLe s.updProg 0 2)) State.clearAcc

/-- A number added at a place of a list. -/
def addAt (l : List Nat) (k n : Nat) : List Nat := l.set k (l.getD k 0 + n)

/-- One stash instance released: home and spill (R24, R49). -/
def StashSt.free (st : StashSt) (i : StashInst) : StashSt :=
  if i.freed then st else { st with freed := addAt (addAt st.freed i.tier i.home) i.stier i.spill }

/-- The stash fully freed (R24). -/
def State.freeStash (s : State) : State :=
  let st := s.stash.insts.foldl StashSt.free s.stash
  { s with stash := { st with insts := st.insts.map (fun i => { i with freed := true }) } }

/-- The step's shadows discarded: dirty bits and flash shadows (R329, R330). -/
def State.dropShadows (s : State) : State :=
  { s with tier := { s.tier with dirty := [] }, ftl := s.ftl.discard }

/-- A page's select bit flipped. -/
def flipSel (sel : List Nat) (p : Nat) : List Nat := if sel.contains p then NSet.del p sel else NSet.ins p sel

/-- The step's shadows committed as one change: select bits of dirty pages flip, the flash step tag commits (R27, R329). -/
def State.commitShadows (s : State) : State :=
  { s with tier := { s.tier with sel := s.tier.dirty.foldl flipSel s.tier.sel, dirty := [] }, ftl := s.ftl.commit }

/-- Cluster work ended without releasing results or counting what is unfinished (R131, R463). -/
def State.endClusters (s : State) : State :=
  let s := s.forEach (upTo 36) (fun s p => (s.set (R.CLU_SEGMENT_BUSY p) 0).set (R.CLU_SEGMENT_REPLAY p) 0)
  { s with clu := { s.clu with left := [], running := [], counts := [] } }

/-- FLAG_OUT released at bind-off (R26). -/
def State.releaseFlag (s : State) : State := { s.set R.STEP_FLAG_RAISED 0 with flagOut := false }

/-- Plan time has ended: no pause is under way or due any more (R231). -/
def State.endPauses (s : State) : State :=
  ({ s with fault := { s.fault with pauseWant := 0, pauseEnd := none, peerPause := false } }).set R.FAULT_STATUS_PAUSED 0

/-- A swatch ended before its time: its plan streams stop (R462, R463), and its stand-ins become of record (R417). -/
def State.breakSwatch (s : State) : State :=
  let s := s.stopPlan.endClusters.endPauses
  { s with step := { s.step with swatchRun := none }, fault := { s.fault with standIns := [] } }

end Sys2Proof.Machine
end

