-- ==== Sys2Proof/Machine/Power.lean ====
section
/-! DEFINITION. Machine/Power.lean: boot, clocks, voltage, heat, fuses (R436 to R467). What a loss of power
or a cut clears is in Machine/Reset.lean. -/

namespace Sys2Proof.Machine

/-! ## Boot image (R452 to R459) -/

/-- Whether every byte of a slice is zero. -/
def allZero (l : List Byte) (o n : Nat) : Bool := (sliceB l o n).all (· == 0)

/-- Check 2: the slot directory (R452). -/
def slotDirOk (b : List Byte) : Bool :=
  let fo := fieldLe b 8 4
  let fb := fieldLe b 0xC 4
  let d := fieldLe b 0x10 4
  let db := fieldLe b 0x14 4
  fieldLe b 0 4 == 0x49424E4B && fieldLe b 4 2 == 1 && allZero b 6 2 && allZero b 0x18 36
    && fieldLe b 0x3C 4 == crc32c (sliceB b 0 0x3C)
    && fo % 4096 == 0 && d % 4096 == 0 && decide (64 ≤ fo) && decide (64 ≤ d)
    && decide (fo + fb ≤ 0x1000000) && decide (d + db ≤ 0x1000000) && (decide (fo + fb ≤ d) || decide (d + db ≤ fo))

/-- One record of a slot: its offset and length, the kind word, the fused slots, the body and rollback limits. -/
structure RecordSpec where
  off   : Nat
  bytes : Nat
  kind  : Nat
  keys  : List (List Byte)
  revoked : Nat
  maxBody : Nat
  maxRoll : Nat
  counter : Nat

/-- Checks 3 to 5, or 6 to 8, of a record (R453, R455): its reason code, 0 when it passes. A KEY_SLOT that the fuses do not have holds no
key; a ROLLBACK above its range is a layout error (log entry 222). -/
def recordReason (b : List Byte) (r : RecordSpec) : Nat :=
  let h := sliceB b r.off 256
  let body := fieldLe h 0x10 4
  let slot := fieldLe h 6 1
  if fieldLe h 0 4 ≠ r.kind ∨ fieldLe h 4 2 ≠ 1 ∨ !allZero h 7 1 ∨ !allZero h 0xE 2 ∨ !allZero h 0x14 12 ∨ !allZero h 0xE0 32 then 5
  else if r.maxBody < body ∨ r.bytes ≠ 256 + body ∨ r.maxRoll < fieldLe h 0xC 2 then 4
  else if r.keys.length ≤ slot ∨ r.keys.getD slot [] ≠ Config.sha384 (sliceB h 0x20 96) ∨ r.revoked.testBit slot then 5
  else if fieldLe h 0xC 2 < r.counter then 7
  else if Config.ecdsaP384 (sliceB h 0x20 96) (Config.sha384 (sliceB h 0 0x80 ++ sliceB b (r.off + 256) body)) (sliceB h 0x80 96) then 0
  else 6

/-- The device section of a type in a device body (R457): its bytes. -/
def devSection (body : List Byte) (ty : Nat) : Option (List Byte) :=
  ((upTo 8).find? (fun k => fieldLe body (16 * k) 2 == ty)).map
    (fun k => sliceB body (fieldLe body (16 * k + 4) 4) (fieldLe body (16 * k + 8) 4))

/-- Check 9: the section table, CRCs, required sections and their sizes (R457). -/
def devSectionsOk (body : List Byte) : Bool :=
  (upTo 8).all (fun k =>
    let ty := fieldLe body (16 * k) 2
    let o := fieldLe body (16 * k + 4) 4
    let n := fieldLe body (16 * k + 8) 4
    ty == 0 || (decide (ty ≤ 5) && allZero body (16 * k + 2) 2 && o % 16 == 0 && decide (o + n ≤ body.length)
      && fieldLe body (16 * k + 12) 4 == crc32c (sliceB body o n)
      && (upTo k).all (fun j => fieldLe body (16 * j) 2 != ty)))
    && ((devSection body 1).map (·.length)) == some 32 && ((devSection body 2).map (·.length)) == some 80
    && ((devSection body 4).map (·.length)) == some 16

/-- Bit p of a unit-map field, in the image's map or the fused factory map (R458). -/
def mapBit (m f : List Byte) (o p : Nat) : Bool := (fieldLe m (o + p / 8) 1).testBit (p % 8) || (fieldLe f (o + p / 8) 1).testBit (p % 8)

/-- The channel of stack k that serves no place at boot, and whether it is failed: the factory map's where that fails one, else the image's
(R273, R458; log entry 2). -/
def stackOut (m f : List Byte) (k : Nat) : Nat × Bool :=
  let a := fieldLe f (0x40 + k) 1
  let b := fieldLe m (0x40 + k) 1
  if a.testBit 7 then (a % 32, true) else (b % 32, b.testBit 7)

/-- The module of port p that is disabled, if any: the factory map's, else the image's (R337, R458). -/
def portOut (m f : List Byte) (p : Nat) : Option Nat :=
  let a := fieldLe f (0x48 + p) 1 % 16
  let b := fieldLe m (0x48 + p) 1 % 16
  if a < 9 then some a else if b < 9 then some b else none

/-- Whether a unit is disabled by the maps (R458): clusters, engines, movers, channels, modules, control cores by kind. -/
def unitDisabled (m f : List Byte) (u : Nat) : Bool :=
  let i := uIdx u
  if uKind u = 1 then mapBit m f 0 i else if uKind u = 2 then mapBit m f 8 i else if uKind u = 3 then mapBit m f 0x18 i
  else if uKind u = 4 then stackOut m f (i / 32) == (i % 32, true)
  else if uKind u = 5 then portOut m f (i / 9) == some (i % 9)
  else mapBit m f 0x4C i

/-- Logical places of a kind whose spares are shared by the whole kind. -/
def logicalCount (lclusters k : Nat) : Nat := if k = 1 then lclusters else if k = 2 then 64 else if k = 3 then 256 else 4

/-- Check 10: every kind keeps its logical count of good units, every stack 31 channels and every port 8 modules (R458). -/
def unitMapOk (lclusters : Nat) (m f : List Byte) : Bool :=
  [1, 2, 3, 6].all (fun k => decide (logicalCount lclusters k ≤ ((unitsOf k).filter (fun u => !unitDisabled m f u)).length))
    && (upTo 8).all (fun k =>
      let a := fieldLe f (0x40 + k) 1
      let b := fieldLe m (0x40 + k) 1
      !(a.testBit 7 && b.testBit 7) || a % 32 == b % 32)
    && (upTo 4).all (fun p =>
      let a := fieldLe f (0x48 + p) 1 % 16
      let b := fieldLe m (0x48 + p) 1 % 16
      decide (9 ≤ a) || decide (9 ≤ b) || a == b)

/-- The range of a trim by ID (R484): off is allowed where the table says so. -/
def trimRange (id v : Nat) : Bool :=
  if id = 1 then decide (25 ≤ v ∧ v ≤ 50) else if id = 2 then decide (30 ≤ v ∧ v ≤ 60)
  else if id = 3 then decide (v = 0 ∨ (40 ≤ v ∧ v ≤ 150)) else if id = 4 then decide (v = 0 ∨ (50 ≤ v ∧ v ≤ 150))
  else if id = 5 then decide (250 ≤ v ∧ v ≤ 450) else if id = 6 then decide (2 ≤ v ∧ v ≤ 8) else false

/-- Limits of the thermal thresholds (R461). -/
def thermOk (trip emerg : Nat) : Bool := decide (60 ≤ trip) && decide (trip + 3 ≤ emerg) && decide (emerg ≤ 105)

/-- Check 11: identity, trims and defaults (R459). -/
def defaultsOk (body : List Byte) : Bool :=
  let id := (devSection body 1).getD []
  let df := (devSection body 4).getD []
  let tr := (devSection body 3).getD []
  let f := fieldLe df 0 2
  let pc := fieldLe df 4 2
  fieldLe id 0 2 != 0xFFFF && decide (800 ≤ f) && decide (f ≤ 1600) && f % 100 == 0
    && thermOk (fieldLe df 2 1) (fieldLe df 3 1) && decide (1 ≤ pc) && decide (pc ≤ 1023)
    && (upTo (tr.length / 4)).all (fun k =>
      trimRange (fieldLe tr (4 * k) 2) (fieldLe tr (4 * k + 2) 2) && Config.trimOk (fieldLe tr (4 * k) 2) (fieldLe tr (4 * k + 2) 2))

/-- The firmware and device records a slot directory names, with this device's fuses; a device key slot that is not burned serves no
key. -/
def State.fwRecord (s : State) (b : List Byte) : RecordSpec :=
  ⟨fieldLe b 8 4, fieldLe b 0xC 4, 0x57464E4B, s.pwr.fwKeys, s.rf R.BOOT_FUSES_FW_REVOKED, 12 * 2 ^ 20, 64, s.rf R.BOOT_FUSES_FW_COUNTER⟩
def State.devRecord (s : State) (b : List Byte) : RecordSpec :=
  ⟨fieldLe b 0x10 4, fieldLe b 0x14 4, 0x56444E4B, s.pwr.devKeys,
    s.rf R.BOOT_FUSES_DEV_REVOKED ||| (3 - s.rf R.BOOT_FUSES_DEV_KEYS_SET), 2 ^ 20, 16, s.rf R.BOOT_FUSES_DEV_COUNTER⟩

/-- The body of the device record of a slot. -/
def devBody (b : List Byte) : List Byte := sliceB b (fieldLe b 0x10 4 + 256) (fieldLe (sliceB b (fieldLe b 0x10 4) 256) 0x10 4)

/-- The reason code of a slot (R455): the first check that fails, 0 when all pass. An empty slot is a NOR that offers no 8D-8D-8D read. -/
def State.slotReason (s : State) (b : List Byte) : Nat :=
  if b.isEmpty then 2
  else if !slotDirOk b then 3
  else
    let fw := recordReason b (s.fwRecord b)
    if fw ≠ 0 then fw
    else
      let dv := recordReason b (s.devRecord b)
      if dv ≠ 0 then dv
      else if !devSectionsOk (devBody b) then 8
      else if !unitMapOk (s.rf R.GLB_ID_LCLUSTERS) ((devSection (devBody b) 2).getD []) s.pwr.factoryMap then 9
      else if !defaultsOk (devBody b) then 0xA
      else 0

/-! ## Assignment of units (R458) -/

/-- Units of a kind in ascending index: disabled, kept failed, serving place 0, 1, … or spare; places that none serves are
recorded, a control core's only where its partner serves nothing either (R416). -/
def State.assignKind (s : State) (m : List Byte) (k count : Nat) : State :=
  let a := (unitsOf k).foldl (fun (a : State × Nat) u =>
    if unitDisabled m a.1.pwr.factoryMap u then (a.1.setUnit u usDISABLED (noPlace u), a.2)
    else if a.1.rf (unitStateF u) = usFAILED ∨ a.1.rf (unitStateF u) = usMEND then (a.1.setUnit u usFAILED (noPlace u), a.2)
    else if a.2 < count then (a.1.setUnit u usSERVICE a.2, a.2 + 1)
    else (a.1.setUnit u usSPARE (noPlace u), a.2)) (s, 0)
  { a.1 with fault := { a.1.fault with
      unserved := ((upTo count).filter (fun i => decide (a.2 ≤ i) && (k != 6 || decide (a.2 ≤ partner i)))).foldl (fun l i => NSet.ins (k * 4096 + i) l)
        (a.1.fault.unserved.filter (fun p => decide (p / 4096 ≠ k))) } }

/-- Whether a stack or port keeps the assignment that a failure at run time left it with (R434): some unit of it is failed or in a mend. -/
def State.keepsUnits (s : State) (us : List Nat) : Bool :=
  us.any (fun u => s.rf (unitStateF u) == usFAILED || s.rf (unitStateF u) == usMEND)

/-- A kept assignment after a reset: a mend under way is given up. -/
def State.settleKept (s : State) (us : List Nat) : State :=
  s.forEach us (fun s u => if s.rf (unitStateF u) = usMEND then s.setUnit u usFAILED (noPlace u) else if s.rf (unitStateF u) = usRETIRING then s.set (unitStateF u) usSERVICE else s)

/-- Channels of a stack (R273): the spare is the image's, failed when its bit 7 is set. -/
def State.assignStack (s : State) (m : List Byte) (k : Nat) : State :=
  let sp := (stackOut m s.pwr.factoryMap k).1
  let us := (upTo 32).map (fun c => 0x4000 + 32 * k + c)
  if s.keepsUnits us then (s.settleKept us).showStack k
  else
  let s := s.forEach (upTo 32) (fun s c =>
    let u := 0x4000 + 32 * k + c
    if c = sp then s.setUnit u (if unitDisabled m s.pwr.factoryMap u then usDISABLED else usSPARE) 0xFFFF
    else s.setUnit u usSERVICE (31 * k + (if c < sp then c else c - 1)))
  (s.showStack k).set (R.HBM_STACK_SPARE k) sp

/-- Modules of a port (R337): logical modules on the physical ones but the disabled one, else module 8 the spare. -/
def State.assignPort (s : State) (m : List Byte) (p : Nat) : State :=
  let d := (portOut m s.pwr.factoryMap p).getD 9
  let us := (upTo 9).map (fun c => 0x5000 + 9 * p + c)
  if s.keepsUnits us then s.settleKept us
  else
  let out := if d < 9 then d else 8
  let s := s.forEach (upTo 9) (fun s c =>
    let u := 0x5000 + 9 * p + c
    if c = out then s.setUnit u (if d < 9 then usDISABLED else usSPARE) 0xFFFF
    else s.setUnit u usSERVICE (8 * p + (if c < out then c else c - 1)))
  (s.set (R.CDP_MODMAP_FAILED p) (if d < 9 then d else 0xF)).set (R.CDP_MODMAP_PHYS p)
    ((upTo 8).foldl (fun a k => a + (if k < out then k else k + 1) * 16 ^ k) 0)

/-- NO_SPARE for every kind left without a spare at boot (R458). -/
def State.bootNoSpare (s : State) : State :=
  let s := s.set R.FAULT_STATUS_NO_SPARE 0
  s.forEach [1, 2, 3, 6] (fun s k => if (unitsOf k).any (fun u => s.rf (unitStateF u) == usSPARE) then s else s.setNoSpare k)

/-- Logical units assigned to good physical ones (R4, R458). -/
def State.assignUnits (s : State) (m : List Byte) : State :=
  let s := s.forEach [1, 2, 3, 6] (fun s k => s.assignKind m k (logicalCount (s.rf R.GLB_ID_LCLUSTERS) k))
  let s := s.forEach (upTo 8) (fun s k => s.assignStack m k)
  (s.forEach (upTo 4) (fun s p => s.assignPort m p)).bootNoSpare

/-! ## Boot (R450, R460) -/

/-- A slot that passed its checks begins to run: the image's values appear at the end of the image path, the units and the defaults among
them (R450, R467, R472; log entry 222). -/
def State.runImage (s : State) (slot : Nat) (b : List Byte) : State :=
  let fh := sliceB b (fieldLe b 8 4) 256
  let dh := sliceB b (fieldLe b 0x10 4) 256
  let body := devBody b
  let df := (devSection body 4).getD []
  let s := { s with pwr := { s.pwr with
    imageDone := true, fwLoaded := true, bootMap := (devSection body 2).getD [], readyFclk := fieldLe df 0 2
    profile := (devSection body 5).getD [], identity := (devSection body 1).getD [], trims := (devSection body 3).getD []
    defPace := fieldLe df 4 2 } }
  let s := ((s.set R.BOOT_STATUS_SLOT slot).set R.BOOT_STATUS_LAST_STATUS stOK).set R.BOOT_STATUS_STATE 3
  let s := ((s.set R.BOOT_IMAGE_FW_VERSION (fieldLe fh 8 4)).set R.BOOT_IMAGE_FW_ROLLBACK (fieldLe fh 0xC 2)).set
    R.BOOT_IMAGE_DEV_ROLLBACK (fieldLe dh 0xC 2)
  let s := ((s.set R.BOOT_IMAGE_FW_KEY_SLOT (fieldLe fh 6 1)).set R.BOOT_IMAGE_DEV_KEY_SLOT (fieldLe dh 6 1)).set
    R.BOOT_IMAGE_DEV_VERSION (fieldLe dh 8 4)
  let s := s.set R.BOOT_TIME_AUTH_TICKS (s.row - s.pwr.t0)
  let s := (s.set R.PWR_THERM_CFG_TRIP_C (fieldLe df 2 1)).set R.PWR_THERM_CFG_EMERG_C (fieldLe df 3 1)
  let s := s.forEach (upTo 4) (fun s p =>
    (s.set (R.CDP_CTRL_PACE_CREDITS p) s.pwr.defPace).set (R.CDP_CREDIT_PACE_CREDITS p) s.pwr.defPace)
  s.assignUnits s.pwr.bootMap

/-- The values of the flash device profile, at READY (R472). -/
def State.showProfile (s : State) : State :=
  let p := s.pwr.profile
  if p.isEmpty then s
  else
    let s := (s.set R.FTL_WEAR_SLC_RATED (fieldLe p 0x18 4 / 100)).set R.FTL_WEAR_TLC_RATED (fieldLe p 0x1C 4 / 100)
    (s.set R.FTL_DISTURB_SLC_LIMIT_K (fieldLe p 0x20 2)).set R.FTL_DISTURB_TLC_LIMIT_K (fieldLe p 0x22 2)

/-- Whether a channel's devices meet the profile and *Flash device limits* (R285). -/
def flashMatches (p : List Byte) (d : FlashPart) : Bool :=
  decide (d.id = sliceB p 0 8) && d.wordlines == fieldLe p 8 2 && d.blocks == fieldLe p 0xA 2
    && d.page == 16384 && decide (2048 ≤ d.spare) && d.planes == 4 && (d.luns == 16 || d.luns == 32)
    && decide (1 ≤ d.targets) && decide (d.targets ≤ 8)
    && decide (1 ≤ d.wordlines) && decide (d.wordlines ≤ 1024) && decide (1 ≤ d.blocks) && decide (d.blocks ≤ 4096)
    && decide (32 * d.luns * 4 * d.blocks * d.wordlines * 3 * 16384 ≤ 64 * 2 ^ 40)
    && decide (fieldLe p 0xC 2 ≤ 120) && decide (fieldLe p 0xE 2 ≤ 60) && decide (fieldLe p 0x10 2 ≤ 140)
    && decide (fieldLe p 0x12 2 ≤ 40) && decide (fieldLe p 0x14 2 ≤ 2500) && decide (fieldLe p 0x16 2 ≤ 20000)
    && decide (40000 ≤ fieldLe p 0x18 4)

/-- The same device on all 32 channels. -/
def sameParts (l : List FlashPart) : Bool :=
  match l with
  | [] => false
  | d :: t => l.length == 32 && t.all (fun e => decide (e.id = d.id) && e.targets == d.targets && e.luns == d.luns
      && e.page == d.page && e.spare == d.spare && e.planes == d.planes && e.wordlines == d.wordlines && e.blocks == d.blocks)

/-- The channels whose bus failed training are failed (R302): with a formatted tier their units are lost until a format. -/
def State.failChannels (s : State) : State :=
  let down := s.ftl.untrained
  { s with ftl := { s.ftl with chDown := if s.ftl.fmt.isSome then down.foldl (fun l c => NSet.ins c l) s.ftl.chDown else down } }

/-- The flash tier at READY (R285, R305): absent, unformatted, or recovering the map that its store holds. -/
def State.findFlash (s : State) : State :=
  match s.ftl.parts with
  | [] => s
  | d :: _ =>
    if s.pwr.profile.isEmpty || !sameParts s.ftl.parts || !s.ftl.parts.all (flashMatches s.pwr.profile) then s
    else
      let s := s.failChannels
      let s := (s.set R.FTL_STATUS_STATE (if s.ftl.fmt.isSome then 3 else 1)).set R.FTL_STATUS_RATE 0x24
      let s := (s.set R.FTL_GEOMETRY_BLOCKS d.blocks).set R.FTL_GEOMETRY_WORDLINES d.wordlines
      (s.set R.FTL_GEOMETRY_LUNS d.luns).set R.FTL_GEOMETRY_TARGETS d.targets

/-- READY, once both paths have finished (R450): HBM zeroed, map memory and tier map cleared, FCLK at its ready rate. -/
def State.enterReady (s : State) : State :=
  let s := { s with mem := [], lostHbm := none, hbmKept := [], marks := []
                    tier := { s.tier with tables := [], badEnt := [], cmd := none, counts := [], queue := [], migTo := []
                                          passDue := false, biasCmd := none, biasOld := [], lines := [], waitLine := [], sel := []
                                          dirty := [], peers := [], used := [] }
                    fault := { s.fault with lost := [], lostClear := [], liveMarks := [] }
                    pwr := { s.pwr with booting := false, awake := [], waking := [] } }
  let s := (s.set R.FAULT_MARKS_LIVE_GRANULES 0).set R.FAULT_MARKS_LOST_GRANULES (s.fault.lossDue.length * 2 ^ 20)
  let s := s.forEach (upTo 8) (fun s k => s.set (R.HBM_STACK_STATE k) 2)
  let s := s.forEach (upTo 4) (fun s p => if s.rf (R.CDP_CTRL_ENABLE p) = 1 then
      (s.setPort p { s.port p with slow := s.rf (R.CDP_CTRL_SLOW p) == 1 }).set (R.CDP_STATUS_STATE p) 1 else s)
  let s := (s.showProfile.findFlash.set R.BOOT_STATUS_STATE 4).set R.BOOT_TIME_READY_TICKS (s.row - s.pwr.t0)
  let s := (s.setPower 2 s.pwr.bootCause).emit (.inBand 3)
  let s := (s.set R.TIER_POOL_FREE_HBM 253952).set R.FTL_AREA_PAGES 0
  (((s.set R.PWR_CLOCK_FCLK_MHZ s.pwr.readyFclk).set R.PWR_CLOCK_NEXT_MHZ 0).showUnits).avs

/-- READY once the image path and the training path have both finished. -/
def State.tryReady (s : State) : State :=
  if s.pwr.booting && s.pwr.imageDone && s.pwr.trainDone then s.enterReady else s

/-- A boot begins: T0, WAKE or RETRY_BOOT (R440, R450). -/
def State.startBoot (s : State) (cause : Nat) (haveImage : Bool) : State :=
  { s with pwr := { s.pwr with booting := true, bootCause := cause, t0 := s.row, imageDone := haveImage, trainDone := false } }

/-- Both slots failed (R460). -/
def State.bootFailed (s : State) : State :=
  let s := { s with pwr := { s.pwr with booting := false } }
  ((s.set R.BOOT_STATUS_STATE 5).set R.BOOT_STATUS_LAST_STATUS stCHECK_FAIL).emit (.inBand 3)

/-- BOOT_IMAGE_DONE (R450, R452, R455): slot A is tried first, then slot B. -/
def execBootImageDone (slotA slotB : List Byte) (s : State) : Res :=
  .next (if s.pwr.off || !s.pwr.booting || s.pwr.imageDone then s
    else
      let ra := s.slotReason slotA
      let s := (s.set R.BOOT_STATUS_REASON_A ra).set R.BOOT_STATUS_REASON_B 1
      if ra = 0 then (s.runImage 0 slotA).tryReady
      else
        let rb := s.slotReason slotB
        let s := s.set R.BOOT_STATUS_REASON_B rb
        if rb = 0 then (s.runImage 1 slotB).tryReady else (s.set R.BOOT_STATUS_SLOT 0xF).bootFailed)

/-- BOOT_TRAINING_DONE (R285, R450): HBM trained and zeroed; the flash devices have been read, one record per channel. -/
def execBootTrainingDone (flash : List FlashPart) (s : State) : Res :=
  .next (if s.pwr.off || !s.pwr.booting || s.pwr.trainDone then s
    else
      let s := { s with pwr := { s.pwr with trainDone := true }, ftl := { s.ftl with parts := flash } }
      s.tryReady)

/-! ## PWR_MGMT (R440, R441, R462, R467) -/

/-- A write of PWR_MGMT that has no effect in the current state. -/
def State.mgmtNoEffect (s : State) : State := s.set R.PWR_MGMT_STATUS stBAD_ARG

/-- AON without a boot running. -/
def State.idleAon (s : State) : Bool := s.rf R.PWR_STATE_STATE == 1 && !s.pwr.booting

/-- WAKE (R440, R464): leave AON for READY with the firmware loaded; after a critical cut only once every sensor reads below TRIP_C. -/
def State.doWake (s : State) : State :=
  if s.idleAon && s.pwr.fwLoaded && !(s.rf R.PWR_THERM_CRIT_SEEN == 1 &&
      s.pwr.temps.any (fun t => decide ((s.rf R.PWR_THERM_CFG_TRIP_C : Int) ≤ t))) then
    (s.startBoot 2 true).set R.PWR_MGMT_STATUS stOK
  else s.mgmtNoEffect

/-- RETRY_BOOT (R440, R460): boot again in AON after a failed boot. -/
def State.doRetry (s : State) : State :=
  if s.idleAon && s.rf R.BOOT_STATUS_STATE == 5 then
    ((s.startBoot 8 false).set R.BOOT_STATUS_STATE 0).set R.PWR_MGMT_STATUS stOK
  else s.mgmtNoEffect

/-- HOLD at once for heat (R462): a swatch's plan streams stop and nothing casts on. -/
def State.holdNow (s : State) : State :=
  let s := if s.phase = phSWATCH then s.breakSwatch else s
  (s.enterHold 2).logEv stOK 0x02 0 2 0

/-- A trip (R462): at the bind-off of a step, the launch cancelled while ARMED, HOLD at once at any other time in RUN. -/
def State.trip (s : State) (event : Nat) : State :=
  let s := (s.set R.PWR_THERM_LAST_EVENT event).emit (.inBand 2)
  if s.inStep || s.step.decideDue then { s with step := { s.step with thermalPend := true } }
  else if s.phase = phARMED then s.cancelLaunch
  else if s.rf R.PWR_STATE_STATE = 3 then s.holdNow
  else s

/-- THERM_STOP (R462): acts as a trip without setting HOT. -/
def State.doThermStop (s : State) : State :=
  if s.rf R.PWR_STATE_STATE = 3 then (s.trip 4).set R.PWR_MGMT_STATUS stOK else s.mgmtNoEffect

/-- A write of PWR_MGMT: RETRY_BOOT, WAKE and THERM_STOP in this order (log entry 6). -/
def State.writePwrMgmt (s : State) (w : Wr) : State :=
  let t := s.regWrite 0x20038 w
  let t := if w.get .any R.PWR_MGMT_RETRY_BOOT = 1 then t.doRetry else t
  let t := if w.get .any R.PWR_MGMT_WAKE = 1 then t.doWake else t
  if w.get .any R.PWR_MGMT_THERM_STOP = 1 then t.doThermStop else t

/-- WAKE (R440): a write of PWR_MGMT with WAKE set. -/
def execWake (m : Master) (v : BitVec 64) (s : State) : Res :=
  .next (if s.reach m then s.writePwrMgmt (Wr.full m (v ||| 2).toNat) else s)

/-- RETRY_BOOT (R440): a write of PWR_MGMT with RETRY_BOOT set. -/
def execRetryBoot (m : Master) (v : BitVec 64) (s : State) : Res :=
  .next (if s.reach m then s.writePwrMgmt (Wr.full m (v ||| 1).toNat) else s)

/-- PWR_THERM_CFG (R461, R467): a write that breaks the limits is refused with BAD_ARG. -/
def State.writeThermCfg (s : State) (w : Wr) : State :=
  let t := s.regWrite 0x20030 w
  if !mayWrite w.m .host then t
  else if thermOk (t.rf R.PWR_THERM_CFG_TRIP_C) (t.rf R.PWR_THERM_CFG_EMERG_C) then t else s.refuse 0x20030 stBAD_ARG

/-! ## Fuses (R454, R456) -/

/-- Slots of a mask. -/
def maskBits (n m : Nat) : List Nat := (upTo n).filter (fun k => m.testBit k)

/-- A write of BOOT_ROLLBACK (R456): only in IDLE or HOLD, and never the slot that the running record used; burning begins. -/
def State.writeRollback (s : State) (w : Wr) : State :=
  let t := s.regWrite 0x10018 w
  if !mayWrite w.m .host then t
  else
    let fw := maskBits 4 (w.get .host R.BOOT_ROLLBACK_REVOKE_FW)
    let dv := maskBits 2 (w.get .host R.BOOT_ROLLBACK_REVOKE_DEV)
    let af := w.get .host R.BOOT_ROLLBACK_ADVANCE_FW = 1
    let ad := w.get .host R.BOOT_ROLLBACK_ADVANCE_DEV = 1
    if fw.isEmpty ∧ dv.isEmpty ∧ ¬ af ∧ ¬ ad then t
    else if !t.stopped || fw.contains (t.rf R.BOOT_IMAGE_FW_KEY_SLOT) || dv.contains (t.rf R.BOOT_IMAGE_DEV_KEY_SLOT) then
      (t.set R.BOOT_ROLLBACK_STATUS stBAD_ARG).refuse 0x10018 stBAD_ARG
    else
      let new := (if af ∧ t.rf R.BOOT_FUSES_FW_COUNTER < t.rf R.BOOT_IMAGE_FW_ROLLBACK then [0] else [])
        ++ (if ad ∧ t.rf R.BOOT_FUSES_DEV_COUNTER < t.rf R.BOOT_IMAGE_DEV_ROLLBACK then [1] else [])
        ++ fw.map (16 + ·) ++ dv.map (32 + ·)
      let t := { t with pwr := { t.pwr with burns := t.pwr.burns ++ new } }
      (t.set R.BOOT_ROLLBACK_STATUS stOK).set R.BOOT_ROLLBACK_BUSY (if t.pwr.burns.isEmpty then 0 else 1)

/-- One burn done: 0 and 1 advance a counter to the running record's ROLLBACK, 16 and 32 on revoke a key slot. -/
def State.burn (s : State) (b : Nat) : State :=
  if b = 0 then s.set R.BOOT_FUSES_FW_COUNTER (max (s.rf R.BOOT_FUSES_FW_COUNTER) (s.rf R.BOOT_IMAGE_FW_ROLLBACK))
  else if b = 1 then s.set R.BOOT_FUSES_DEV_COUNTER (max (s.rf R.BOOT_FUSES_DEV_COUNTER) (s.rf R.BOOT_IMAGE_DEV_ROLLBACK))
  else if b < 32 then s.set R.BOOT_FUSES_FW_REVOKED (s.rf R.BOOT_FUSES_FW_REVOKED ||| 2 ^ (b - 16))
  else s.set R.BOOT_FUSES_DEV_REVOKED (s.rf R.BOOT_FUSES_DEV_REVOKED ||| 2 ^ (b - 32))

/-- FUSE_BURN_DONE (R456): the burns asked for have been made. -/
def execFuseBurnDone (s : State) : Res :=
  .next (if s.pwr.off then s
    else
      let s := s.pwr.burns.foldl State.burn s
      ({ s with pwr := { s.pwr with burns := [] } }).set R.BOOT_ROLLBACK_BUSY 0)

/-- ADVANCE_FW (R456): a write of BOOT_ROLLBACK with ADVANCE_FW set. -/
def execAdvanceFw (m : Master) (v : BitVec 64) (s : State) : Res :=
  .next (if s.reach m then s.writeRollback (Wr.full m (v ||| 1).toNat) else s)

/-- ADVANCE_DEV (R456): a write of BOOT_ROLLBACK with ADVANCE_DEV set. -/
def execAdvanceDev (m : Master) (v : BitVec 64) (s : State) : Res :=
  .next (if s.reach m then s.writeRollback (Wr.full m (v ||| 2).toNat) else s)

/-- REVOKE_FW (R456): a write of BOOT_ROLLBACK naming firmware key slots. -/
def execRevokeFw (m : Master) (v : BitVec 64) (s : State) : Res :=
  .next (if s.reach m then s.writeRollback (Wr.full m v.toNat) else s)

/-- REVOKE_DEV (R456): a write of BOOT_ROLLBACK naming device key slots; the reserved bits below it must be zero. -/
def execRevokeDev (m : Master) (v : BitVec 64) (s : State) : Res :=
  .next (if s.reach m then s.writeRollback (Wr.full m (v &&& 0xFFFF).toNat) else s)

/-- DEVICE_KEY_FUSE_BURN (R454): the integrator burns the SHA-384 of a device key into an unburned slot over JTAG. -/
def execDeviceKeyFuseBurn (slot : Nat) (hash : List Byte) (s : State) : Res :=
  .next (if 2 ≤ slot ∨ (s.rf R.BOOT_FUSES_DEV_KEYS_SET).testBit slot then s
    else ({ s with pwr := { s.pwr with devKeys := s.pwr.devKeys.set slot hash } }).set R.BOOT_FUSES_DEV_KEYS_SET
      (s.rf R.BOOT_FUSES_DEV_KEYS_SET + 2 ^ slot))

/-! ## Clocks and voltage (R447, R449) -/

/-- The FCLK that the next start will need (R447). -/
def State.nextFclk (s : State) : Nat :=
  match s.chart.staged with
  | some c => c.fclk
  | none => match s.chart.active with
    | some c => c.fclk
    | none => s.pwr.readyFclk

/-- PLL_LOCK (R447): the idle PLL has locked to the FCLK of the next start. -/
def execPllLock (s : State) : Res :=
  .next (if s.pwr.off ∨ s.rf R.PWR_STATE_STATE < 2 then s
    else
      let s := s.set R.PWR_CLOCK_NEXT_MHZ s.nextFclk
      if s.rf R.STEP_NEXT_CASTON_VALUE = 0 then s
      else s.planSwitch (if s.phase = phARMED then s.rf R.SYNC_LAUNCH_COUNT else s.rf R.STEP_NEXT_CASTON_VALUE))

/-- The full count whose low 32 bits a register holds, at or after the state's count. -/
def State.fullCount (s : State) (low : Nat) : Nat := s.row + (low + 2 ^ 32 - s.row % 2 ^ 32) % 2 ^ 32

/-- FCLK_SWITCH (R446, R447): at S - 2,048 the die switches to the locked PLL. -/
def execFclkSwitch (s : State) : Res :=
  .next (if s.pwr.off ∨ s.rf R.PWR_CLOCK_SWITCH_AT = 0 then s
    else
      let s := s.advance (s.fullCount (s.rf R.PWR_CLOCK_SWITCH_AT))
      let s := s.set R.PWR_CLOCK_FCLK_MHZ (s.rf R.PWR_CLOCK_NEXT_MHZ)
      ((s.set R.PWR_CLOCK_NEXT_MHZ 0).set R.PWR_CLOCK_SWITCH_AT 0).avs)

/-- VDD_MET (R449): VDD measured; MET follows. -/
def execVddMet (mv : Nat) (s : State) : Res :=
  .next (if s.pwr.off then s
    else
      let s := s.set R.PWR_SUPPLY_VDD_MV mv
      s.set R.PWR_AVS_MET (if s.rf R.PWR_AVS_REQ_MV ≤ s.rf R.PWR_SUPPLY_VDD_MV then 1 else 0))

/-! ## Heat (R461 to R465) -/

/-- Runs of consecutive samples at or above a threshold; a threshold of zero is not yet loaded. -/
def runsAt (thr : Nat) (runs : List Nat) (temps : List Int) : List Nat :=
  (upTo temps.length).map (fun k => if thr ≠ 0 ∧ (thr : Int) ≤ temps.getD k 0 then runs.getD k 0 + 1 else 0)

/-- The hottest sensor: reading and index. -/
def hottest (temps : List Int) : Int × Nat :=
  (upTo temps.length).foldl (fun (a : Int × Nat) k => if a.1 < temps.getD k 0 then (temps.getD k 0, k) else a) (temps.getD 0 0, 0)

/-- A sample taken: the runs, the hottest sensor, HOT and EMERG (R461, R462). How MAX_C shows a reading below 0 °C is left
open: a free value. -/
def State.takeSample (s : State) (temps : List Int) : State :=
  let trip := s.rf R.PWR_THERM_CFG_TRIP_C
  let s := { s with pwr := { s.pwr with
    temps := temps, tripRun := runsAt trip s.pwr.tripRun temps
    emergRun := runsAt (s.rf R.PWR_THERM_CFG_EMERG_C) s.pwr.emergRun temps
    critRun := runsAt (s.rf R.PWR_THERM_CFG_CRIT_C) s.pwr.critRun temps } }
  let h := hottest temps
  let s := (if h.1 < 0 then let a := s.fresh; a.2.set R.PWR_THERM_MAX_C a.1 else s.set R.PWR_THERM_MAX_C h.1.toNat).set R.PWR_THERM_SENSOR h.2
  let s := s.set R.PWR_THERM_PEAK_C (max (s.rf R.PWR_THERM_PEAK_C) h.1.toNat)
  let s := s.set R.PWR_THERM_EMERG (if s.pwr.emergRun.any (0 < ·) then 1 else 0)
  if s.pwr.tripRun.any (10 ≤ ·) then s.set R.PWR_THERM_HOT 1
  else if temps.all (fun t => decide (t < (trip : Int) - 5)) then s.set R.PWR_THERM_HOT 0
  else s

/-- The clears accepted in a step that ends with no bind-off take effect in the HOLD it ends in, as a clear written there would (R131, R254,
R404; log entry 225). -/
def State.clearsNow (s : State) : State :=
  let s := if s.step.clearGauge then s.forEach (upTo 256) (fun s k => s.set (R.GAUGE_CUM_COUNT k) 0) else s
  let s := if s.step.clearTension then s.forEach (upTo 16) (fun s k => s.set (R.TENSION_CUM_COUNT k) 0) else s
  let s := if s.step.clearIdle then s.forEach (upTo 8) (fun s c => s.set (R.IDLE_CUM_TICKS c) 0) else s
  let s := ((s.set R.GAUGE_CTRL_CLEAR_PENDING 0).set R.TENSION_CTRL_CLEAR_PENDING 0).set R.IDLE_CTRL_CLEAR_PENDING 0
  { s with step := { s.step with clearGauge := false, clearTension := false, clearIdle := false } }

/-- The step ended before its verdict by an emergency (R35, R463): nothing commits and the step's numbers stay. -/
def State.abandonStep (s : State) : State :=
  let s := (((s.dropShadows.freeStash).wipeAccs).endPauses).clearsNow
  { s with pwr := { s.pwr with critHold := some (s.rf R.STEP_BINDOFF_VALUE) } }

/-- An emergency (R463, R465). -/
def State.emergencyStop (s : State) : State :=
  let s := (s.set R.PWR_THERM_LAST_EVENT 2).emit (.inBand 2)
  if s.training then
    let s := (s.raiseFlag 0x0E).stopPlan.endClusters
    let s := (s.abandonStep.gateAll).enterHold 2
    let s := { s with step := { s.step with emergency := true } }
    (s.set R.PWR_STATE_LAST_CAUSE 6).logEv stOK 0x02 0 2 0
  else if s.phase = phSETTLE then
    let s := s.stopPlan.endClusters.gateAll
    { s with step := { s.step with thermalPend := true, emergency := true } }
  else if s.step.decideDue then
    let s := s.gateAll
    { s with step := { s.step with thermalPend := true, emergency := true } }
  else if s.rf R.PWR_STATE_STATE = 3 then
    let s := (if s.phase = phSWATCH then s.breakSwatch else s).gateAll
    let s := s.enterHold 2
    let s := { s with step := { s.step with emergency := true } }
    (s.set R.PWR_STATE_LAST_CAUSE 6).logEv stOK 0x02 0 2 0
  else s

end Sys2Proof.Machine
end

