-- ==== Sys2Proof/Machine/Flash.lean ====
section
/-! DEFINITION. Machine/Flash.lean: format, reads and retries, commits, background work, lost LUNs and recovery of the flash tier
(R284 to R307). -/

namespace Sys2Proof.Machine

/-! ## Figures -/

/-- LUNs of a channel in service. -/
def State.chLuns (s : State) (ch : Nat) : List Nat := ((upTo 8).map (s.laneLuns ch)).flatten

/-- The fewest LUNs in service in a lane of a channel. -/
def State.laneMin (s : State) (ch : Nat) : Nat := (upTo 8).foldl (fun a l => min a (s.laneLuns ch l).length) 32

/-- Channel state of *Channel states* (R302). -/
def State.chState (s : State) (ch : Nat) : Nat := if s.laneMin ch = 0 then 3 else if s.laneMin ch = 1 then 2 else 1

/-- Good capacity of a region in units. -/
def State.goodUnits (s : State) (r : Nat) : Nat :=
  let luns := ((upTo 32).map s.chLuns).flatten
  let bad := (s.ftl.bad.filter (fun b => s.blkRegion b == r && luns.contains (blkLun b))).length
  (luns.length * s.regionBlks r - bad) * s.blkCap r

/-- A region below its units plus one thirty-second is degraded (R303). -/
def State.regionDegraded (s : State) (r : Nat) : Bool :=
  decide (s.goodUnits r < s.regionUnits r + s.regionUnits r / 32)

/-- FTL_CH and FTL_STATUS as the LUNs and blocks stand (R301 to R303). -/
def State.showChannels (s : State) : State :=
  let s := s.forEach (upTo 32) (fun s c =>
    let grown := (s.ftl.grown.filter (fun b => blkLun b / 32 == c && s.ftl.bad.contains b)).length
    (((s.set (R.FTL_CH_STATE c) (s.chState c)).set (R.FTL_CH_LUNS c) (s.chLuns c).length).set (R.FTL_CH_LANE_MIN c) (s.laneMin c)).set
      (R.FTL_CH_GROWN_BAD c) (min 65535 grown))
  let s := s.set R.FTL_STATUS_CH_FAILED ((upTo 32).filter (fun c => s.chState c == 3)).length
  let s := s.set R.FTL_STATUS_CH_DEGRADED ((upTo 32).filter (fun c => s.chState c == 2)).length
  if s.flashUp then
    s.set R.FTL_STATUS_STATE (if (upTo 32).any (fun c => s.chState c != 1) || s.regionDegraded 0 || s.regionDegraded 1 then 5 else 4)
  else s

/-- Free units of a region: unprogrammed units of its good blocks in service. -/
def State.freeUnits (s : State) (r : Nat) : Nat :=
  let used := s.ftl.blks.filter (fun p => s.blkRegion p.1 == r && !s.ftl.bad.contains p.1 &&
    !s.ftl.lunOut.contains (blkLun p.1) && !s.ftl.chDown.contains (blkLun p.1 / 32))
  s.goodUnits r - used.foldl (fun a p => a + p.2.next) 0

/-- FTL_FREE recomputed. -/
def State.showFree (s : State) : State := (s.set R.FTL_FREE_SLC (s.freeUnits 0)).set R.FTL_FREE_TLC (s.freeUnits 1)

/-- Least, mean and greatest erase counts over the good blocks of a region (R306). -/
def State.wear (s : State) (r : Nat) : Nat × Nat × Nat :=
  let n := 32 * s.rf R.FTL_GEOMETRY_LUNS * s.regionBlks r - (s.ftl.bad.filter (fun b => s.blkRegion b == r)).length
  let e := (s.ftl.blks.filter (fun p => s.blkRegion p.1 == r && !s.ftl.bad.contains p.1 && decide (0 < p.2.erases))).map (·.2.erases)
  if n = 0 then (0, 0, 0)
  else (s.ftl.base + (if e.length < n then 0 else e.foldl min (e.headD 0)), s.ftl.base + e.foldl (· + ·) 0 / n, s.ftl.base + e.foldl max 0)

/-- FTL_WEAR written, with WEAR_WARN from 90 % of the rating (R306). -/
def State.showWear (s : State) : State :=
  let a := s.wear 0
  let b := s.wear 1
  let sat := fun n => min n 65535
  let s := ((s.set R.FTL_WEAR_SLC_MIN (sat a.1)).set R.FTL_WEAR_SLC_MEAN (sat a.2.1)).set R.FTL_WEAR_SLC_MAX (sat a.2.2)
  let s := ((s.set R.FTL_WEAR_TLC_MIN (sat b.1)).set R.FTL_WEAR_TLC_MEAN (sat b.2.1)).set R.FTL_WEAR_TLC_MAX (sat b.2.2)
  let hit := fun m o => s.pwr.profile.length != 0 && decide (fieldLe s.pwr.profile o 4 * 9 ≤ m * 10)
  if (0 < s.regionUnits 0 && hit a.2.1 0x18) || (0 < s.regionUnits 1 && hit b.2.1 0x1C) then s.set R.FTL_ERR_WEAR_WARN 1 else s

/-! ## Format (R289, R290) -/

/-- The map of R290 in bytes for unit counts. -/
def State.mapBytes (s : State) (units : Nat) : Nat := 8 * units + 32 * s.rf R.FTL_GEOMETRY_LUNS * 2 ^ 20

/-- The raw need of a format in 1/256 bytes of TLC capacity (R289). -/
def State.rawNeed (s : State) : Nat :=
  let us := s.rf R.FTL_REGION_SLC_UNITS
  let ut := s.rf R.FTL_REGION_TLC_UNITS
  3 * 65536 * us * (256 + s.rf R.FTL_REGION_SLC_OP) + 65536 * ut * (256 + s.rf R.FTL_REGION_TLC_OP) + 256 * (3 * s.mapBytes (us + ut))

/-- The blocks the devices and the FTL have marked bad. -/
def FlashSt.factoryBad (f : FlashSt) : List Nat :=
  ((upTo f.parts.length).map (fun c => ((f.parts.map (·.bad)).getD c []).map (fun b => c * 32 * 4096 + b))).flatten

/-- The LUNs that a format can use: neither retired nor on a channel whose bus is down (R302). -/
def State.goodLuns (s : State) : List Nat :=
  ((upTo 32).map (fun c => (upTo (s.rf R.FTL_GEOMETRY_LUNS)).map (c * 32 + ·))).flatten.filter (fun l =>
    !s.ftl.lunOut.contains l && !s.ftl.untrained.contains (l / 32))

/-- The good raw capacity in bytes of TLC capacity. -/
def State.rawGood (s : State) : Nat :=
  let luns := s.goodLuns
  let bad := ((s.ftl.factoryBad ++ s.ftl.grown.filter (fun b => !s.ftl.factoryBad.contains b)).filter (fun b => luns.contains (blkLun b))).length
  (luns.length * s.rf R.FTL_GEOMETRY_BLOCKS - bad) * 4 * s.rf R.FTL_GEOMETRY_WORDLINES * 3 * 16384

/-- Whether a chart maps a flash object (class FLASH_SLC or FLASH_TLC). -/
def Chart.mapsFlash (c : Chart) : Bool :=
  (upTo (c.cnt 13)).any (fun e => fieldLe (c.sec 13) (32 * e + 0xC) 1 == 4 || fieldLe (c.sec 13) (32 * e + 0xC) 1 == 5)

/-- Whether a format is accepted (R289); one at the diagnostic rate never with a chart installed (R284). -/
def State.formatOk (s : State) : Bool :=
  s.phase == phIDLE && !(match s.chart.active with | some c => c.mapsFlash | none => false)
    && (s.rf R.FTL_FORMAT_SLOW == 0 || s.chart.active.isNone)
    && s.rf R.FTL_STATUS_STATE != 0 && s.rf R.FTL_FORMAT_BUSY == 0
    && (s.rf R.FTL_REGION_SLC_UNITS == 0 || decide (16 ≤ s.rf R.FTL_REGION_SLC_OP))
    && (s.rf R.FTL_REGION_TLC_UNITS == 0 || decide (16 ≤ s.rf R.FTL_REGION_TLC_OP))
    && decide (s.rawNeed ≤ 256 * s.rawGood)

/-- A write of FTL_FORMAT: with GO the format begins, at the rate that SLOW asks for then, or is refused with BAD_ARG. -/
def State.writeFormat (s : State) (w : Wr) : State :=
  let t := s.regWrite 0x380020 w
  if w.get .host R.FTL_FORMAT_GO = 1 then
    if t.formatOk then
      (({ t with ftl := { t.ftl with slow := t.rf R.FTL_FORMAT_SLOW == 1 } }.set R.FTL_FORMAT_STATUS stOK).set R.FTL_FORMAT_BUSY 1).set
        R.FTL_STATUS_STATE 2
    else (t.set R.FTL_FORMAT_STATUS stBAD_ARG).refuse 0x380020 stBAD_ARG
  else t

/-- Writes of the regions: refused while a format runs (R307). -/
def State.writeRegion (s : State) (off : Nat) (w : Wr) : State :=
  if mayWrite w.m .host ∧ s.rf R.FTL_FORMAT_BUSY = 1 then
    (s.set R.FTL_ERR_LAST_STATUS stBAD_ARG).refuse off stBAD_ARG
  else s.regWrite off w

/-- One limit field of FTL_DISTURB after a write: 0 and values above the profile's are refused (R300). -/
def State.keepLimit (t s : State) (f : Fld) (o : Nat) : State :=
  if t.rf f = 0 ∨ fieldLe s.pwr.profile o 2 < t.rf f then (t.set f (s.rf f)).refuse 0x380040 stBAD_ARG else t

/-- Blocks whose count is at or beyond their region's limit, queued; one whose count new limits put at twice its limit sets DISTURB_LATE. -/
def State.queueDisturbed (s was : State) : State :=
  s.forEach (s.ftl.blks.map (·.1)) (fun s b =>
    let r := s.blkRegion b
    let n := (s.blk b).reads
    if r < 2 ∧ 0 < n ∧ s.disturbLimit r ≤ n then
      let s := s.queueBlk b
      if 2 * s.disturbLimit r ≤ n ∧ n < 2 * was.disturbLimit r then s.set R.FTL_ERR_DISTURB_LATE 1 else s
    else s)

/-- A write of FTL_DISTURB (R300). -/
def State.writeDisturb (s : State) (w : Wr) : State :=
  let t := s.regWrite 0x380040 w
  let t := if w.hits .host R.FTL_DISTURB_SLC_LIMIT_K then t.keepLimit s R.FTL_DISTURB_SLC_LIMIT_K 0x20 else t
  let t := if w.hits .host R.FTL_DISTURB_TLC_LIMIT_K then t.keepLimit s R.FTL_DISTURB_TLC_LIMIT_K 0x22 else t
  t.queueDisturbed s

/-- The table area moved to a size, and the HBM pool with it (R290). -/
def State.setArea (s : State) (pages : Nat) : State :=
  let s := s.set R.TIER_POOL_FREE_HBM (s.rf R.TIER_POOL_FREE_HBM + s.rf R.FTL_AREA_PAGES - pages)
  (s.set R.FTL_AREA_PAGES pages).set R.FTL_AREA_FIRST_PAGE (253952 - pages)

/-- Blocks per LUN that give a region its units and spare (R289; log entry 9): whole blocks, the same number on every LUN in service. -/
def State.blksFor (s : State) (units op cap : Nat) : Nat := ceilDiv (units * (256 + op)) (256 * cap * s.goodLuns.length)

/-- The format in the regions' registers: the blocks of both regions, and after them those of the map store, in pSLC (R289, R298). -/
def State.newFormat (s : State) : FlashFmt :=
  let us := s.rf R.FTL_REGION_SLC_UNITS
  let ut := s.rf R.FTL_REGION_TLC_UNITS
  let wl := s.rf R.FTL_GEOMETRY_WORDLINES
  let bs := if us = 0 then 0 else s.blksFor us (s.rf R.FTL_REGION_SLC_OP) wl
  let bm := if us + ut = 0 then 0 else s.blksFor (ceilDiv (s.mapBytes (us + ut)) 65536) 0 wl
  let bt := if ut = 0 then 0 else min (s.blksFor ut (s.rf R.FTL_REGION_TLC_OP) (3 * wl)) (s.rf R.FTL_GEOMETRY_BLOCKS - bs)
  ⟨us, s.rf R.FTL_REGION_SLC_OP, ut, s.rf R.FTL_REGION_TLC_OP, bs, bt, min bm (s.rf R.FTL_GEOMETRY_BLOCKS - bs - bt)⟩

/-- The state after a format: every good block erased, every unit zero. -/
def State.formatted (s : State) : State :=
  let f := s.ftl
  let bad := f.grown.foldl (fun l b => NSet.ins b l) f.factoryBad
  let s := { s with ftl := { f with
    fmt := some s.newFormat, base := f.base + 1, cells := [], shadow := [], shUnits := [], cwMarks := [], shMarks := [], live := []
    shPlace := [], stale := [], queue := [], bad := bad, undo := [], hostPend := [], chDown := f.untrained
    shStep := [], noRoom := [], pages := [], bg := [], ahead := [], journal := [], snapshot := [], commits := 0, record := false
    unwritten := 0, snapSeq := f.wseq
    blks := (f.blks.filter (fun (p : Nat × FlashBlk) => decide (0 < p.2.erases))).map (fun (p : Nat × FlashBlk) => (p.1, FlashBlk.mk p.2.erases 0 0)) } }
  let s := s.setArea (ceilDiv (s.mapBytes (s.fmt.slcUnits + s.fmt.tlcUnits)) 2097152)
  let s := s.set R.FTL_STATUS_STATE 4
  s.showQueue.showFree.showWear.showChannels

/-- FTL_FORMAT_DONE (R289): the tier READY with every unit zero; a SLOW format leaves it UNFORMATTED, at the diagnostic rate while no
chart is installed (R284). -/
def execFtlFormatDone (s : State) : Res :=
  .next (if s.rf R.FTL_FORMAT_BUSY = 0 then s
    else
      let slow := s.ftl.slow
      let s := (s.set R.FTL_FORMAT_BUSY 0).formatted
      if slow then ({ s with ftl := { s.ftl with fmt := none } }).set R.FTL_STATUS_STATE 1
        |>.set R.FTL_STATUS_RATE (if s.chart.active.isNone then 0x10 else 0x24)
      else s.set R.FTL_STATUS_RATE 0x24)

/-- FTL_FORMAT (R289): a write of FTL_FORMAT with GO set. -/
def execFtlFormat (m : Master) (v : BitVec 64) (s : State) : Res :=
  .next (if s.reach m then s.writeFormat (Wr.full m (v ||| 1).toNat) else s)

/-! ## Reads (R294, R295, R300) -/

/-- The flash units that `n` bytes from an OA touch, in order (R293). -/
def State.rangeUnits (s : State) (oa n : Nat) : List Nat :=
  ((pageSpans (oa % 2 ^ 52) n).map (fun sp => match s.entOf sp.1 with
    | none => []
    | some e =>
      let a := e.page * 2 ^ 21 + sp.2.1 - 2 ^ 48
      if s.tierOf (e.page * 2 ^ 21) == 2 then (upTo ((a + sp.2.2 - 1) / 65536 + 1 - a / 65536)).map (a / 65536 + ·) else [])).flatten

/-- The flash units that a block in flight reads. -/
def State.blockUnits (s : State) (b : Block) : List Nat := if b.op = opINLINE then [] else s.rangeUnits b.src b.len

/-- The flash units that the skein in hand has still to read: of a pack the rest of its raw bytes and of its base, of an unpack its next
block, at its longest, and the base's. -/
def State.skUnits (s : State) (k : SkeinCtx) : List Nat :=
  if k.dir = 0 then
    let done := if k.profile = 1 then k.landed * (aGeo k.ref k.pword k.width k.len).frameBytes else 65536 * k.block
    s.rangeUnits (k.src + done) (k.len - done) ++ (if k.profile = 3 ∧ k.ref ≠ 0 then s.rangeUnits (k.ref + done) (k.len - done) else [])
  else s.rangeUnits (k.src + k.coded) (min (64 + blockRaw k.len k.block) (packMax k.len - k.coded))
    ++ (if k.refKind = 1 then s.rangeUnits (k.base + 65536 * k.block) (blockRaw k.len k.block) else [])

/-- The streams that are reading a unit, with blocks in flight or a skein in hand. -/
def State.readersOf (s : State) (u : Nat) : List Nat :=
  s.usedCtx.filter (fun n => (s.str n).blocks.any (fun b => (s.blockUnits b).contains u)
    || (match (s.str n).sk with | some k => (s.skUnits k).contains u | none => false))

/-- An uncorrectable codeword (R295): marked, recorded in the streams that read it, counted; its block is a grown bad block (R301). -/
def State.uncorrectable (s : State) (u cw : Nat) : State :=
  let rs := s.readersOf u
  let s := { s with ftl := { s.ftl with cwMarks := NSet.ins (16 * u + cw) s.ftl.cwMarks, uncorr := s.ftl.uncorr + 1 } }
  let s := (s.set R.FTL_ERR_UNCORRECTABLE 1).flashErr 0 stCHECK_FAIL u (65536 * u + 4096 * cw)
  let s := s.forEach rs (fun s n => s.strStatus n stCHECK_FAIL)
  let s := if rs.any (fun n => !(s.str n).host) then s.raiseFlag 0x07 else s
  match s.livePlace u with
  | none => s
  | some p => ({ s with ftl := { s.ftl with grown := NSet.ins (p / 4096) s.ftl.grown } }).queueBlk (p / 4096)

/-- CODEWORD_DECODE (R295): `outcome` is the read levels tried before the codeword decodes; beyond the profile's retry table it is uncorrectable. -/
def execCodewordDecode (unit : Nat) (cw : Fin 16) (outcome : Nat) (s : State) : Res :=
  .next (if !s.unitMapped unit ∨ outcome = 0 then s
    else
      let n := fieldLe s.pwr.profile 0x25 1
      let s := if n = 0 then s else { s with ftl := { s.ftl with retries := s.ftl.retries + 1 } }
      let s := match s.livePlace unit with
        | none => s
        | some p => s.forEach (upTo (min outcome n)) (fun s _ => s.countRead (p / 4096))
      if n < outcome then s.uncorrectable unit cw.val else s)

/-! ## Moving units (R299, R301, R302) -/

/-- A unit lost (R301): every read is marked until it is written again. -/
def State.loseUnit (s : State) (shadow : Bool) (u : Nat) : State :=
  let all := (upTo 16).map (16 * u + ·)
  let f := s.ftl
  let s := { s with ftl :=
    if shadow then { f with shMarks := all.foldl (fun m c => NSet.ins c m) f.shMarks, shPlace := f.shPlace.filter (fun p => p.1 != u) }
    else { f with cwMarks := all.foldl (fun m c => NSet.ins c m) f.cwMarks, live := f.live.filter (fun p => p.1 != u) } }
  s.flashErr 1 stUNIT_LOST u (65536 * u)

/-- A valid unit's bytes and marks programmed at another place, live ones as live, a shadow as a shadow of the same step (R299). -/
def State.rewriteUnit (s : State) (shadow : Bool) (u p : Nat) : State :=
  let s := s.programPlace p u
  let step := if shadow then (s.ftl.shStep.find? (fun (q : Nat × Nat) => q.1 == u)).map (·.2) else none
  let f := { s.ftl with journal := s.ftl.journal ++ [JEntry.mk u p step], unwritten := s.ftl.unwritten + 1 }
  { s with ftl :=
    if shadow then { f with shPlace := SMap.put (fun _ => 2 ^ 60) f.shPlace u p }
    else { f with live := SMap.put (fun _ => 2 ^ 60) f.live u p } }

/-- Where a valid unit lies. -/
def State.placeOf (s : State) (shadow : Bool) (u : Nat) : Option Nat :=
  if shadow then (s.ftl.shPlace.find? (fun p => p.1 == u)).map (·.2) else s.livePlace u

/-- A valid unit read and moved to a free unit of its lane, with the codewords that no retry reads still marked; it stays where its lane
has no free unit. One that cannot be read at all is lost (R295, R299 to R301). -/
def State.moveUnit (s : State) (readable shadow : Bool) (u : Nat) : State :=
  if !readable || (!shadow && (unitMarks s.ftl.cwMarks u).length == 16) then s.loseUnit shadow u
  else match s.freePlace u, s.placeOf shadow u with
    | some p, some q => (s.countRead (q / 4096)).rewriteUnit shadow u p
    | _, _ => s

/-- The data of a failed program, which the write buffer still holds, programmed again in its lane (R301); where that has no free unit it is
gone, and a shadow's step with it (R303). -/
def State.programAgain (s : State) (shadow : Bool) (u : Nat) : State :=
  match s.freePlace u with
  | some p => s.rewriteUnit shadow u p
  | none =>
    let s := (s.loseUnit shadow u).set R.FTL_ERR_NO_SPACE 1
    if shadow then s.raiseFlag 0x07 else s

/-- An operation on every valid unit, live and then shadow, whose place meets a test. -/
def State.unitsWhere (s : State) (test : Nat → Bool) (f : State → Bool → Nat → State) : State :=
  let lv := (s.ftl.live.filter (fun p => test p.2)).map (·.1)
  let sh := (s.ftl.shPlace.filter (fun p => test p.2)).map (·.1)
  let s := s.forEach lv (fun s u => f s false u)
  s.forEach sh (fun s u => f s true u)

/-- The blocks of a LUN that hold valid units. -/
def State.lunHolds (s : State) (l : Nat) : List Nat :=
  (((s.ftl.live ++ s.ftl.shPlace).map (fun p => p.2 / 4096)).filter (fun b => blkLun b == l)).eraseDups

/-- Every unit of a channel lost (R302): those that were not lost before are counted. -/
def State.loseFlashChannel (s : State) (ch : Nat) : State :=
  let gone := ((s.ftl.cwMarks.map (· / 16)).eraseDups.filter (fun u =>
    (flashPlace u).1 == ch && (s.livePlace u).isNone && (unitMarks s.ftl.cwMarks u).length == 16)).length
  s.addSat R.FTL_ERR_COUNT ((s.fmt.slcUnits + s.fmt.tlcUnits) / 32 - gone)

/-- A LUN retired (R302): its blocks are queued, so that relocation moves its readable units to the other LUNs of its lane; the units of one that
does not answer are lost, and with the last LUN of a lane every unit of the channel. -/
def State.retireLun (s : State) (l : Nat) (answers : Bool) : State :=
  let was := s.chFailed (l / 32)
  let s := ({ s with ftl := { s.ftl with lunOut := NSet.ins l s.ftl.lunOut } }).set R.FTL_ERR_LUN_RETIRED 1
  let s := s.flashErr 0 stUNIT_LOST l 0
  let s := if s.chFailed (l / 32) then (if was then s else s.loseFlashChannel (l / 32))
    else if answers then s.forEach (s.lunHolds l) (fun s b => s.queueBlk b)
    else s.unitsWhere (fun p => p / 4096 / 4096 == l) (fun s shadow u => s.moveUnit false shadow u)
  s.showFree.showWear.showChannels

/-- Whether the grown bad blocks of a LUN exceed one eighth of its blocks (R302). -/
def State.lunWorn (s : State) (l : Nat) : Bool :=
  decide (s.rf R.FTL_GEOMETRY_BLOCKS < 8 * (s.ftl.grown.filter (fun b => blkLun b == l && s.ftl.bad.contains b)).length)

/-- A block taken out of use for good (R301), and its LUN with it when too many of its blocks are (R302). -/
def State.retireBlk (s : State) (b : Nat) : State :=
  let l := blkLun b
  let s := { s with ftl := { s.ftl with bad := NSet.ins b s.ftl.bad } }
  let s := (s.set R.FTL_ERR_GROWN_BAD 1).showFree.showWear.showChannels
  if s.lunWorn l && !s.ftl.lunOut.contains l then s.retireLun l true else s

/-- Whether a block holds a valid or shadow unit, or one that a loss of power could bring back (R298, R299). -/
def State.blkInUse (s : State) (b : Nat) : Bool :=
  s.ftl.live.any (fun p => p.2 / 4096 == b) || s.ftl.shPlace.any (fun p => p.2 / 4096 == b) || s.ftl.stale.any (fun p => p / 4096 == b)
    || s.ftl.hostPend.any (fun x => match x.place with | some p => p / 4096 == b | none => false)

/-- The blocks of a region in a lane of a channel. -/
def State.laneBlks (s : State) (r ch lane : Nat) : List Nat := ((s.laneLuns ch lane).map (s.goodBlks r)).flatten

/-- FLASH_PROGRAM_FAIL (R301): a failed program or erase makes the block a grown bad block, queued to be relocated and retired; the
data of a failed program, the unit last programmed, is written again to another unit of the lane. -/
def execFlashProgramFail (block : Nat) (s : State) : Res :=
  .next (if !s.flashUp || s.blkRegion block == 2 || s.ftl.bad.contains block then s
    else
      let last := block * 4096 + (s.blk block).next - 1
      let s := ({ s with ftl := { s.ftl with grown := NSet.ins block s.ftl.grown } }).queueBlk block
      if (s.blk block).next = 0 then s else s.unitsWhere (fun p => p == last) State.programAgain)

/-- LUN_RETIRE (R302): a LUN that stops answering, or fails a non-array operation. -/
def execLunRetire (ch lun : Fin 32) (answers : Bool) (s : State) : Res :=
  .next (
    let l := ch.val * 32 + lun.val
    if !s.flashUp || decide (s.rf R.FTL_GEOMETRY_LUNS ≤ lun.val) || s.ftl.lunOut.contains l then s else s.retireLun l answers)

/-! ## Commits and recovery (R298, R305) -/

/-- A unit returned to an earlier version. -/
def FlashSt.revert (f : FlashSt) (x : FlashUndo) : FlashSt :=
  { f with cells := x.cells.foldl (fun m c => SMap.put memDflt m c.1 c.2) (dropUnit f.cells x.unit)
           cwMarks := x.marks.foldl (fun m c => NSet.ins c m) (dropMarks f.cwMarks x.unit)
           live := match x.place with
             | some p => SMap.put (fun _ => 2 ^ 60) f.live x.unit p
             | none => f.live.filter (fun q => q.1 != x.unit) }

/-- A write of an unsealed host stream after a loss of power: present or absent by a free value, and its block closed (R305). -/
def State.settleHost (s : State) (x : FlashUndo) : State :=
  let (v, s) := s.fresh
  let s := match s.livePlace x.unit with
    | some p => s.setBlk (p / 4096) { s.blk (p / 4096) with next := s.blkCap (unitRegion x.unit) }
    | none => s
  if v % 2 = 0 then s else { s with ftl := s.ftl.revert x }

/-- The block that a background operation was programming when power was lost is closed (R305). -/
def State.closeBg (s : State) (w : BgWork) : State :=
  if (s.blk w.blk).next = 0 then s else s.setBlk w.blk { s.blk w.blk with next := s.blkCap (s.blkRegion w.blk) }

/-- The block that a shadow of the step cut short by a loss of power was being programmed in is closed: which program was under way is a free
value (R305). -/
def State.closeShadow (s : State) (b : Nat) : State :=
  let (v, s) := s.fresh
  if v % 2 = 0 ∨ (s.blk b).next = 0 then s else s.setBlk b { s.blk b with next := s.blkCap (s.blkRegion b) }

/-- The journal without the entries that no longer stand. -/
def FlashSt.prune (f : FlashSt) : FlashSt :=
  { f with journal := f.journal.filter (fun (j : JEntry) => f.live.any (fun (p : Nat × Nat) => p.1 == j.unit && p.2 == j.place)), bg := [], ahead := [] }

/-- FTL_RECOVERY (R305): the map rebuilt as of the last durable commit. -/
def execFtlRecovery (s : State) : Res :=
  .next (if s.rf R.FTL_STATUS_STATE ≠ 3 then s
    else
      let s := s.forEach (s.ftl.shPlace.map (fun p => p.2 / 4096)).eraseDups State.closeShadow
      let s := { s with ftl := s.ftl.discard }
      let s := s.ftl.hostPend.foldl State.settleHost s
      let s := { s with ftl := { (s.ftl.undo.foldl FlashSt.revert s.ftl) with undo := [], hostPend := [], stale := [], record := false } }
      let s := s.ftl.bg.foldl State.closeBg s
      let s := { s with ftl := s.ftl.prune }
      let s := (s.set R.FTL_REGION_SLC_UNITS s.fmt.slcUnits).set R.FTL_REGION_SLC_OP s.fmt.slcOp
      let s := (s.set R.FTL_REGION_TLC_UNITS s.fmt.tlcUnits).set R.FTL_REGION_TLC_OP s.fmt.tlcOp
      let s := (s.set R.FTL_COMMIT_DURABLE_STEP s.ftl.durable).set R.FTL_COMMIT_COMMITTED_STEP s.ftl.durable
      let s := s.setArea (ceilDiv (s.mapBytes (s.fmt.slcUnits + s.fmt.tlcUnits)) 2097152)
      let s := s.set R.FTL_STATUS_STATE 4
      s.showQueue.showFree.showWear.showChannels)

end Sys2Proof.Machine
end

