-- ==== Sys2Proof/Machine/Queues.lean ====
section
/-! DEFINITION. Machine/Queues.lean: command queues and their completion rings (R367, R371, R380, R383). -/

namespace Sys2Proof.Machine

/-- A vector raised for a raiser with an owner code (R374). -/
def State.raiseOwned (s : State) (own v : Nat) : State := if v < 2048 ∧ s.vecOwner v = own then s.raiseVec v else s

/-- A host-link event counted in HQ_ERR. -/
def State.hqErr (s : State) (st : Nat) (bit : Fld) : State :=
  ((s.bump R.HQ_ERR_COUNT).set R.HQ_ERR_LAST_STATUS st).set bit 1

/-- Entries of the submission and the completion ring of a queue. -/
def State.sqSize (s : State) (q : Nat) : Nat := 2 ^ s.rf (R.HQ_Q_CTRL_SQ_LOG2 q)
def State.cqSize (s : State) (q : Nat) : Nat := 2 ^ s.rf (R.HQ_Q_CTRL_CQ_LOG2 q)

/-- Completion entries written and not consumed (R371). -/
def State.cqUsed (s : State) (q : Nat) : Nat :=
  (s.rf (R.HQ_Q_STATUS_CQ_TAIL q) + s.cqSize q - s.rf (R.HQ_CQ_HEAD_HEAD q) % s.cqSize q) % s.cqSize q

/-- Whether the ring holds size - 1 unconsumed entries (R371). -/
def State.cqFull (s : State) (q : Nat) : Bool := decide (s.cqSize q - 1 ≤ s.cqUsed q)

/-- `HQ_Q_STATUS.STATE`: 0 disabled, 1 running, 2 CQ_FULL, 3 not owned by HOST. -/
def State.queueState (s : State) (q : Nat) : Nat :=
  if s.queueOwner q ≠ 1 then 3 else if s.rf (R.HQ_Q_CTRL_ENABLE q) = 0 then 0 else if s.cqFull q then 2 else 1

/-- A write held or made, tagged so that a reset finds it again: 0 data, 2 + q a completion entry of queue q, 66 + n a block of stream n, 16,450 + n its status word. -/
def State.tagHeld (s : State) (from_ tag : Nat) : State :=
  { s with host := { s.host with
      heldOut := s.host.heldOut.take from_ ++ (s.host.heldOut.drop from_).map (fun (p : Nat × Sent) => (tag, p.2)) } }

/-- The 16 bytes of a completion entry. -/
def State.cplEntry (s : State) (c : DueCpl) : List Byte :=
  natLe 2 c.tag ++ natLe 1 c.st ++ natLe 1 (s.host.phases.getD c.q 1) ++ natLe 2 c.head ++ natLe 2 c.ctx ++ natLe 4 (s.row % 2 ^ 32)
    ++ natLe 4 0

/-- A completion entry written at CQ_TAIL; PHASE flips at the wrap, and the queue's vector is raised (R371). -/
def State.writeCpl (s : State) (c : DueCpl) : State :=
  let t := s.rf (R.HQ_Q_STATUS_CQ_TAIL c.q)
  let n := s.host.heldOut.length
  let bytes := (s.cplEntry c).map (fun b => (b, false))
  let s := (s.emitHost (.busWrite (s.rf (R.HQ_CQ_BASE_ADDR c.q) * 4096 + 16 * t) bytes false)).tagHeld n (2 + c.q)
  let next := (t + 1) % s.cqSize c.q
  let s := (s.set (R.HQ_Q_STATUS_LAST_STATUS c.q) c.st).set (R.HQ_Q_STATUS_CQ_TAIL c.q) next
  let s := if next = 0 then
      { s with host := { s.host with phases := s.host.phases.set c.q (1 - s.host.phases.getD c.q 1) } }
    else s
  s.raiseOwned 1 (s.rf (R.HQ_Q_CTRL_VECTOR c.q))

/-- Completions of a queue written while its ring has room, with fuel. -/
def State.flushCq (s : State) (q : Nat) : Nat → State
  | 0 => s
  | k + 1 =>
    match s.host.waiting.find? (fun c => c.q == q) with
    | none => s
    | some c =>
      if s.cqFull q then s
      else (({ s with host := { s.host with waiting := s.host.waiting.erase c } }).writeCpl c).flushCq q k

/-- A taken command's completion falls due with a status. -/
def State.cplDue (s : State) (t : Taken) (st : Nat) : State :=
  let s := if st = stBAD_ARG ∨ st = stNOT_OWNER then s.hqErr st R.HQ_ERR_QUEUE else s
  let s := { s with host := { s.host with taken := s.host.taken.erase t
                                          waiting := s.host.waiting ++ [(⟨t.q, t.tag, st, t.head, t.ctx⟩ : DueCpl)] } }
  s.flushCq t.q s.host.waiting.length

/-- FENCEs with no earlier command of their queue outstanding complete, with fuel (R368). -/
def State.settleFences (s : State) (q : Nat) : Nat → State
  | 0 => s
  | k + 1 =>
    match s.host.taken.find? (fun t => t.q == q) with
    | none => s
    | some t => if t.op = 4 then (s.cplDue t stOK).settleFences q k else s

/-- A taken command completes, and with it the FENCEs that waited for it. -/
def State.complete (s : State) (t : Taken) (st : Nat) : State :=
  (s.cplDue t st).settleFences t.q s.host.taken.length

/-- Every taken command of an opcode on a context completes with OK. -/
def State.completeOn (s : State) (op n : Nat) : State :=
  (s.host.taken.filter (fun t => t.op == op && t.ctx == n)).foldl (fun s t => s.complete t stOK) s

/-- Submission entries of a queue read up to its tail, with fuel (R367); none while Bus Master Enable is clear (R380). A read of an
entry is named by context 16,385, sequence the queue. -/
def State.fetchSq (s : State) (q : Nat) : Nat → State
  | 0 => s
  | k + 1 =>
    let i := s.host.fetched.getD q 0
    if s.queueOwner q ≠ 1 ∨ s.rf (R.HQ_Q_CTRL_ENABLE q) = 0 ∨ s.rf R.HQ_LINK_BME = 0 ∨ i = s.rf (R.HQ_SQ_TAIL_TAIL q) then s
    else
      let s := s.emit (.busRead 16385 q (s.rf (R.HQ_SQ_BASE_ADDR q) * 4096 + 256 * i) 256)
      ({ s with host := { s.host with fetched := s.host.fetched.set q ((i + 1) % s.sqSize q) } }).fetchSq q k

end Sys2Proof.Machine
end

