-- ==== Sys2Proof/Machine/StreamIO.lean ====
section
/-! DEFINITION. Machine/StreamIO.lean: what every stream instruction is built from: status events, reading a source, writing a
destination, the check value, status words and the ends of a stream (R196, R200, R217, R218, R223 to R227, R253, R338 to R353). -/

namespace Sys2Proof.Machine

/-! ## Status events -/

/-- A status event of a stream; a plan stream in the training domain raises FLAG_OUT with the event's cause (R226, R253, R264, R325). -/
def State.note (s : State) (n st cause : Nat) : State :=
  let s := s.strStatus n st
  if (s.str n).host || cause == 0 then s else s.raiseFlag cause

/-! ## The stash a stream serves (R44, R201) -/

/-- The stash table of the running step; none in a swatch (R52, R58). -/
def State.stashTable (s : State) : List StashEnt :=
  match s.chart.active with
  | none => []
  | some c => if s.step.swatchRun.isSome || !s.inStep then [] else c.stash s.variant

/-! ## Segments of a schedule (R41, R87, R88, R92, R239) -/

/-- A segment entry with what the chart says of it: FROG entry, recompute program, first position and rows of its slice, channels of
its lifeline. -/
structure Seg where
  ce    : CluEntry
  ent   : StashEnt
  prog  : List Byte
  first : Nat
  rows  : Nat
  cin   : Nat
  deriving DecidableEq, Repr

/-- Dimension k of tensor shape i (R64). -/
def Chart.dim (c : Chart) (i k : Nat) : Nat := fieldLe (c.sec 2) (32 * i + 4 * k) 4

/-- Entry e of the running schedule as a segment, `none` when it is no segment or names no FROG tensor. -/
def State.segOf (s : State) (e : Nat) : Option Seg :=
  let ce := cluEntry s.schedule e
  match s.chart.active, s.segTable.find? (fun x => x.tid == ce.tensor && x.cls == 4) with
  | some c, some ent =>
    if ce.kind ≠ 0 then none
    else
      let p := c.dim ent.shape 0 * c.dim ent.shape 1 * c.dim ent.shape 2
      let base := p / ent.slices
      let cin := match s.segTable.find? (fun x => x.tid == ent.life) with | some l => c.dim l.shape 3 | none => 0
      some ⟨ce, ent, (c.item 6 ent.prog).getD [], ce.slice * base, if ce.slice + 1 = ent.slices then p - ce.slice * base else base, cin⟩
  | _, _ => none

/-- Span of a recompute program, and whether a segment occupies a logical cluster (R87). -/
def Seg.span (g : Seg) : Nat := fieldLe g.prog 2 1
def Seg.covers (g : Seg) (l : Nat) : Bool := decide (g.ce.first ≤ l) && decide (l < g.ce.first + g.span)

/-- Bytes of a lifeline row, of a ring slot, and the ring's start and length (R88, R92). -/
def Seg.rowBytes (g : Seg) : Nat := fmtBytes (fieldLe g.prog 0x10 1) g.cin
def Seg.slot (g : Seg) : Nat := 128 * g.rowBytes
def Seg.ringOff (g : Seg) : Nat := fieldLe g.prog 8 4
def Seg.ringBytes (g : Seg) : Nat := fieldLe g.prog 7 1 * g.slot

/-- Bytes that have gone into the ring of an entry in one cluster. -/
def State.ringGot (s : State) (e l : Nat) : Nat :=
  (s.clu.rings.filter (fun r => r.entry == e && r.clu == l)).foldl (fun a r => a + r.data.length) 0

/-- The segment entry whose ring a write to a logical cluster's buffer fills: the running one until its rows are all delivered, else
the next to start there. -/
def State.ringEntry (s : State) (l off : Nat) : Option (Nat × Seg) :=
  let cand := (s.clu.running.map (·.1) ++ s.clu.left).filterMap (fun e => (s.segOf e).map (fun g => (e, g)))
  cand.find? (fun x => x.2.covers l && decide (x.2.ringOff ≤ off) && decide (off < x.2.ringOff + x.2.ringBytes)
    && decide (s.ringGot x.1 l < x.2.rows * x.2.rowBytes))

/-- A ring write joined to those of its segment: until the segment runs, no slot is released, so a write over an earlier one replaces it. -/
def State.addRing (s : State) (x : RingWrite) : State :=
  let kept := if s.clu.running.any (fun r => r.1 == x.entry) then s.clu.rings
    else s.clu.rings.filter (fun r => !(r.entry == x.entry && r.clu == x.clu && decide (x.off ≤ r.off)
      && decide (r.off + r.data.length ≤ x.off + x.data.length)))
  let s := (s.take poolRing 1).give poolRing (s.clu.rings.length - kept.length)
  { s with clu := { s.clu with rings := kept ++ [x] } }

/-- A plan stream's write into an input ring noted for its segment (R88). -/
def State.noteRing (s : State) (oa : Nat) (l : List MByte) : State :=
  if s.clu.left.isEmpty && s.clu.running.isEmpty then s
  else match s.entOf (oa / 2 ^ 21 % 2 ^ 31) with
    | none => s
    | some e =>
      let da := e.page * 2 ^ 21 + oa % 2 ^ 21
      if s.tierOf da ≠ 1 then s
      else
        let c := (da - 0x7C00000000) / 0x2000000
        let off := (da - 0x7C00000000) % 0x2000000
        match s.ringEntry c off with
        | none => s
        | some (k, g) => s.addRing ⟨k, c, off - g.ringOff, l⟩

/-! ## Outputs on their way to a fetch stream (R95) -/

/-- The output rows of an instance in position order, from its first slice on without a gap. -/
def State.outBytes (s : State) (tid mb slices : Nat) : List MByte :=
  ((upTo slices).foldl (fun (a : List MByte × Bool) k =>
    if a.2 then match s.clu.outs.find? (fun o => o.tid == tid && o.mb == mb && o.slice == k) with
      | some o => (a.1 ++ o.data, true)
      | none => (a.1, false)
    else a) ([], true)).1

/-- Bytes of an output instance taken so far by its fetch stream. -/
def State.outTaken (s : State) (tid mb : Nat) : Nat := SMap.get (fun _ => 0) s.clu.taken (tid * 256 + mb)

/-- The FROG entry whose output a plan stream's block carries, if the stream fetches one that is not yet delivered whole (R44, R95). -/
def State.frogOf (s : State) (n mb : Nat) : Option StashEnt :=
  if (s.str n).host then none
  else s.segTable.find? (fun e => e.cls == 4 && e.fetch == n && decide (s.outTaken e.tid mb < e.raw))

/-- The raw entry whose instance MB a MOVE of its write stream fills: of several entries of one context, the one whose instance holds the
address (R44, R46). -/
def State.stashOf (s : State) (n mb addr : Nat) : Option StashEnt :=
  let es := s.stashTable.filter (fun e => e.write == n && (e.cls == 1 || e.cls == 3) && !e.packed)
  match es.find? (fun e => decide (e.homeAt mb ≤ addr) && decide (addr < e.homeAt mb + e.raw)) with
  | some e => some e
  | none => match es with
    | [e] => some e
    | _ => none

/-- The entries whose skeins a context packs, or unpacks (R44, R51). -/
def State.skeinEnts (s : State) (n : Nat) (writing : Bool) : List StashEnt :=
  s.stashTable.filter (fun e => (if writing then e.write else e.fetch) == n && (e.packed || (writing && e.probe)))

/-- The entry whose instance MB a skein at an address is: the one whose home it is; a probe that stores nothing needs no address of its
own (R51, R201). -/
def State.skeinEnt (s : State) (n mb addr : Nat) (writing : Bool) : Option StashEnt :=
  match (s.skeinEnts n writing).find? (fun e => e.packed && e.homeAt mb == addr) with
  | some e => some e
  | none => match (s.skeinEnts n writing).filter (fun e => !e.packed) with
    | [e] => some e
    | es => es.find? (fun e => e.homeAt mb == addr)

/-- An instance's record. -/
def State.instOf (s : State) (tid mb : Nat) : Option StashInst := s.stash.insts.find? (fun i => i.tid == tid && i.mb == mb)

/-- Bytes held in a tier now (R58). -/
def StashSt.heldIn (st : StashSt) (t : Nat) : Nat :=
  st.insts.foldl (fun a i => a + (if i.freed then 0 else (if i.tier = t then i.home else 0) + (if i.stier = t then i.spill else 0))) 0

/-- An instance's record replaced or added, with the peaks and the ledger's count of bytes written. -/
def StashSt.putInst (st : StashSt) (i : StashInst) (dh ds : Nat) : StashSt :=
  let st := { st with insts := st.insts.filter (fun (j : StashInst) => !(j.tid == i.tid && j.mb == i.mb)) ++ [i]
                      written := addAt (addAt st.written i.tier dh) i.stier ds }
  { st with peak := (upTo 4).map (fun t => max (st.peak.getD t 0) (st.heldIn t)) }

/-- A fresh instance record of an entry. -/
def StashEnt.inst (e : StashEnt) (mb : Nat) : StashInst := ⟨e.tid, mb, e.tier, e.stier, 0, 0, 0, false, 0, false, false, false, false⟩

/-- A raw block of an entry stored at home (R46). -/
def State.stashRaw (s : State) (e : StashEnt) (mb n : Nat) : State :=
  let i := (s.instOf e.tid mb).getD (e.inst mb)
  let d := min n (e.raw - i.home)
  { s with stash := s.stash.putInst { i with home := i.home + d } d 0 }

/-- Whether cluster work still reads an instance as a lifeline (R49, R57). -/
def State.lifelineUsed (s : State) (tid mb : Nat) : Bool :=
  let b := s.schedule
  let frogs := (s.stashTable.filter (fun e => e.cls == 4 && e.life == tid)).map (·.tid)
  (s.clu.left ++ s.clu.running.map (·.1)).any (fun k =>
    (cluEntry b k).kind == 0 && (cluEntry b k).mb == mb && frogs.contains (cluEntry b k).tensor)

/-- Whether the last reader of an instance has sealed (R49). -/
def State.stashSealed (s : State) (x : StashInst) : Bool :=
  match s.stashTable.find? (fun (e : StashEnt) => e.tid == x.tid) with
  | none => false
  | some e => (s.sst e.fetch == ssSEALED || s.sst e.fetch == ssENDED) && (s.sst e.write == ssSEALED || s.sst e.write == ssENDED)
      && !s.lifelineUsed x.tid x.mb

/-- An instance released when its last reader has sealed. -/
def State.stashOver (s : State) (x : StashInst) : StashInst :=
  if s.stashSealed x = true then { x with freed := true } else x

/-- Instances whose last reader has sealed released (R49). -/
def State.releaseStash (s : State) : State :=
  let go := s.stash.insts.filter s.stashSealed
  let st := go.foldl StashSt.free s.stash
  { s with stash := { st with insts := st.insts.map s.stashOver } }

/-! ## Reading -/

/-- Bytes with the far parts taken in order from what the far tiers have supplied. -/
def fillFar : List (Bool × Nat) → List MByte → List MByte → List MByte
  | [], _, _ => []
  | (isFar, n) :: t, d, buf =>
    if isFar then buf.take n ++ fillFar t (d.drop n) (buf.drop n) else d.take n ++ fillFar t (d.drop n) buf

/-- Whether a page's part of a read is served by a far tier. -/
def State.farSpan (s : State) (w : Who) (sp : Nat × Nat × Nat) : Bool × Nat :=
  match s.pageFor w sp.1 false with
  | .error _ => (false, sp.2.2)
  | .ok e => (decide (3 ≤ s.tierOf (e.page * 2 ^ 21 + sp.2.1)) && decide (s.tierOf (e.page * 2 ^ 21 + sp.2.1) ≤ 4), sp.2.2)

/-- Bytes of a range that far tiers must supply. -/
def State.farBytes (s : State) (w : Who) (oa n : Nat) : Nat :=
  ((pageSpans oa n).map (s.farSpan w)).foldl (fun a p => if p.1 then a + p.2 else a) 0

/-- Where the bytes of a piece asked of a far tier stand among those that far tiers supply, which come in the order they were asked for. -/
def askedAt (oa n : Nat) : List (Nat × Nat) → Nat → Option Nat
  | [], _ => none
  | p :: t, off => if p.1 = oa ∧ n ≤ p.2 then some off else askedAt oa n t (off + p.2)

/-- The far pieces of a range that have not been asked for, by OA and length. -/
def State.missing (s : State) (w : Who) (asked : List (Nat × Nat)) (oa n : Nat) : List (Nat × Nat) :=
  ((pageSpans oa n).filter (fun sp => (s.farSpan w sp).1 && (askedAt (sp.1 * 2 ^ 21 + sp.2.1) sp.2.2 asked 0).isNone)).map
    (fun sp => (sp.1 * 2 ^ 21 + sp.2.1, sp.2.2))

/-- Read requests of a range on the host link: none is longer than 512 bytes (R362); they part at multiples of 512 (log entry 213). -/
def readCuts (addr n : Nat) : List (Nat × Nat) := cutsAt 512 addr n

/-- Reads of a range issued on the host link for the work of a stream. -/
def State.emitReads (s : State) (n q addr len : Nat) : State := (readCuts addr len).foldl (fun s r => s.emit (.busRead n q r.1 r.2)) s

/-- One piece asked of its far tier for the work of a stream: it is translated here, once, and counts at its page (R260, R270, R283). -/
def State.askPiece (s : State) (n q : Nat) (p : Nat × Nat) : State :=
  let page := p.1 / 2 ^ 21 % 2 ^ 31
  match s.pageFor (s.strWho n q) page false with
  | .error _ => s
  | .ok e => (s.countPage page e.cls).emitReads n q (s.busAddr (e.page * 2 ^ 21 + p.1 % 2 ^ 21)) p.2

/-- Bytes of some pieces. -/
def pieceBytes (l : List (Nat × Nat)) : Nat := l.foldl (fun a p => a + p.2) 0

/-- Pieces asked of far tiers for the work of a stream; their completion space is taken up (R431). -/
def State.askFar (s : State) (n q : Nat) (l : List (Nat × Nat)) : State :=
  l.foldl (fun s p => s.askPiece n q p) (s.take poolRead (pieceBytes l))

/-- Marked live granules of a range noted (R430). -/
def State.noteRange (s : State) (oa n : Nat) : State :=
  (pageSpans oa n).foldl (fun s sp => match s.entOf (s.selPage sp.1 false) with
    | none => s
    | some e => if s.tierOf (e.page * 2 ^ 21) < 2 then s.noteLive sp.1 (e.page * 2 ^ 21 + sp.2.1) sp.2.2 else s) s

/-- One page's part of a stream's read: a piece that was asked of a far tier is what it supplied, whatever its page is now (R260). -/
def State.readPiece (w : Who) (asked : List (Nat × Nat)) (buf : List MByte) (g : Got) (sp : Nat × Nat × Nat) : Got :=
  match askedAt (sp.1 * 2 ^ 21 + sp.2.1) sp.2.2 asked 0 with
  | some o => ⟨g.st, g.data ++ (buf.drop o).take sp.2.2, g.refused, g.far⟩
  | none => State.readSpan w g sp

/-- A range read for the work of a stream, asked pieces from `buf`; refusals and marks make its status (R253, R264). -/
def State.readFor (s : State) (n q oa len : Nat) (asked : List (Nat × Nat)) (buf : List MByte) : Got :=
  let g := (pageSpans oa len).foldl (State.readPiece (s.strWho n q) asked buf) ⟨s, [], false, []⟩
  let s := if g.data.any (·.2) then g.st.noteRange oa len else g.st
  let s := if g.refused then s.note n stBAD_ARG 0x0A else s
  ⟨s, g.data, g.refused, g.far⟩

/-! ## Writing -/

/-- The granules of `n` bytes from an address (R340). -/
def granuleCount (a n : Nat) : Nat := if n = 0 then 0 else (a + n - 1) / 64 - a / 64 + 1

/-- Bursts of at most 4,096 bytes that cross no 4,096-byte boundary (R196), with fuel. -/
def bursts : Nat → Nat → List MByte → List (Nat × List MByte)
  | 0, _, _ => []
  | k + 1, a, l =>
    if l.isEmpty then []
    else
      let n := 4096 - a % 4096
      (a, l.take n) :: bursts k (a + n) (l.drop n)

/-- All bursts of a write. -/
def burstsOf (a : Nat) (l : List MByte) : List (Nat × List MByte) := bursts (l.length + 1) a l

/-- Die credits spent by a message: one header and its granules (R350, R431). -/
def State.spend (s : State) (p gr : Nat) : State :=
  let x := s.port p
  ((s.setPort p { x with hdr := x.hdr - 1, data := x.data - gr }).take (poolHdr p) 1).take (poolData p) gr

/-- Whether a port holds the credits for a message. -/
def State.canSend (s : State) (p gr : Nat) : Bool := s.portUp p && decide (1 ≤ (s.port p).hdr) && decide (gr ≤ (s.port p).data)

/-- KPP message codes (*KPP messages*); 0 stands for a flit that only returns credits. -/
def kRD : Nat := 1
def kRDR : Nat := 2
def kWR : Nat := 3
def kPCRED : Nat := 6
def kSIG : Nat := 7
def kFENCE : Nat := 8
def kFACK : Nat := 9
def kHELLO : Nat := 0x10
def kRESET : Nat := 0x11
def kMODMAP : Nat := 0x12

/-- One WR sent to a die. -/
def State.sendWr (s : State) (p a : Nat) (l : List MByte) : State :=
  let gr := granuleCount a l.length
  let s := s.spend p gr
  (s.set (R.CDP_TRAFFIC_OUT_GRANULES p) (s.rf (R.CDP_TRAFFIC_OUT_GRANULES p) + gr)).emit (.kpp p kWR 0 a l)

/-- The far side that an OA's page lies on: 0 host, 1 + j peer, `none` near. -/
def State.farSide (s : State) (oa : Nat) : Option Nat :=
  match s.entOf (oa / 2 ^ 21 % 2 ^ 31) with
  | none => none
  | some e =>
    let da := e.page * 2 ^ 21
    if s.tierOf da = 3 then some 0 else if s.tierOf da = 4 then some (1 + (da - 2 ^ 50) / 2 ^ 42) else none

/-- A far side recorded for SEAL and FENCE: the first byte of the last block written there (R377). -/
def State.noteFar (s : State) (n side addr : Nat) : State :=
  let x := s.str n
  s.setStr n { x with far := SMap.put (fun _ => 2 ^ 64) x.far side addr, pend := if side < 100 then NSet.ins side x.pend else x.pend }

/-- Flash units that a host stream's write touched, kept until it seals (R305). -/
def State.noteFlash (s : State) (n oa len : Nat) : State :=
  if !(s.str n).host then s
  else (pageSpans oa len).foldl (fun s sp => match s.entOf sp.1 with
    | none => s
    | some e =>
      let da := e.page * 2 ^ 21 + sp.2.1
      if s.tierOf da = 2 then
        let x := s.str n
        let us := (upTo ((da - 2 ^ 48 + sp.2.2 - 1) / 65536 - (da - 2 ^ 48) / 65536 + 1))
        let fl := us.foldl (fun l k => NSet.ins ((da - 2 ^ 48) / 65536 + k) l) x.flash
        s.setStr n { x with flash := fl }
      else s) s

/-- The far sides on which a range lies, each with the first of its bytes there. -/
def State.farSides (s : State) (oa n : Nat) : List (Nat × Nat) :=
  (pageSpans oa n).foldl (fun a sp => match s.farSide (sp.1 * 2 ^ 21) with
    | some f => if a.any (fun x => x.1 == f) then a else a ++ [(f, sp.1 * 2 ^ 21 + sp.2.1)]
    | none => a) []

/-- Bytes written at an OA for the work of a stream: pages that refuse discard theirs and make the status BAD_ARG (R264); every far side
that the bytes lie on is recorded (R377). -/
def State.putRaw (s : State) (n q oa : Nat) (l : List MByte) : State :=
  if l.isEmpty then s
  else
    let sides := s.farSides oa l.length
    let held := s.host.heldOut.length
    let g := s.writeOA (s.strWho n q) (s.strOwner n) oa l
    let s := g.st.tagHeld held (66 + n)
    let s := if (s.str n).host then s else s.noteRing oa l
    let s := s.noteFlash n oa l.length
    let hand := (pageSpans oa l.length).any (fun sp => match s.pairOf sp.1 with | some (_, own) => own == 1 | none => false)
    let s := if hand then s.setStr n { s.str n with hand := true } else s
    let s := if g.refused then s.note n stBAD_ARG 0x0A else s
    sides.foldl (fun s f => s.noteFar n f.1 f.2) s

/-- Block data written at an OA for the work of a stream; while Device Control enables Relaxed Ordering its writes to the host and to peers
carry the RO attribute (R372, R376). -/
def State.putOA (s : State) (n q oa : Nat) (l : List MByte) : State :=
  let t := s.putRaw n q oa l
  if s.rf R.HQ_LINK_RO = 0 then t
  else
    let held := s.host.heldOut.length
    { t with sent := s.sent ++ (t.sent.drop s.sent.length).map Sent.relaxed
             host := { t.host with
               heldOut := t.host.heldOut.take held ++ (t.host.heldOut.drop held).map (fun (p : Nat × Sent) => (p.1, p.2.relaxed)) } }

/-- Bursts to a port sent while its credits last: what is left over. -/
def State.putPort (s : State) (n p : Nat) : List (Nat × List MByte) → State × List (Nat × List MByte)
  | [] => (s, [])
  | (a, l) :: t =>
    if s.canSend p (granuleCount a l.length) then ((s.sendWr p a l).noteFar n (100 + p) a).putPort n p t
    else (s, (a, l) :: t)

/-- Whether a port has credits for all the bursts of a write. -/
def State.portFits (s : State) (p a n : Nat) : Bool :=
  s.portUp p && decide (ceilDiv (a % 4096 + n) 4096 ≤ (s.port p).hdr) && decide (granuleCount a n ≤ (s.port p).data)

/-- A write to any destination that is known to have room. -/
def State.putDst (s : State) (n q dst : Nat) (l : List MByte) : State :=
  if isPort dst then (s.putPort n (portOf dst) (burstsOf (dst % 2 ^ 48) l)).1 else s.putOA n q (dst % 2 ^ 52) l

/-! ## Bytes and check value (R218, R230) -/

/-- Bytes written counted. -/
def State.addBytes (s : State) (n k : Nat) : State := s.set (R.STREAM_DONE_BYTES n) (s.rf (R.STREAM_DONE_BYTES n) + k)

/-- Completed blocks taken into the check value in program order, with fuel. -/
def State.foldCheck (s : State) (n : Nat) : Nat → State
  | 0 => s
  | k + 1 =>
    let x := s.str n
    match x.held.find? (fun h => h.1 == x.crcSeq) with
    | none => s
    | some h =>
      let s := s.set (R.STREAM_LOOP_CHECK n) (crcMore (s.rf (R.STREAM_LOOP_CHECK n)) h.2)
      (s.setStr n { x with crcSeq := x.crcSeq + 1, held := x.held.filter (fun y => y.1 != h.1) }).foldCheck n k

/-- A block of the stream's order completed with the bytes it wrote. -/
def State.doneSeq (s : State) (n seq : Nat) (l : List Byte) : State :=
  let x := s.str n
  let s := s.setStr n { x with held := x.held ++ [(seq, l)] }
  s.foldCheck n (x.held.length + 1)

/-- The next place in a stream's order. -/
def State.takeSeq (s : State) (n : Nat) : Nat × State :=
  let x := s.str n
  (x.nextSeq, s.setStr n { x with nextSeq := x.nextSeq + 1 })

/-! ## Status words and ends (R223 to R227) -/

/-- The tag under which the status word of stream n waits for Bus Master Enable. -/
def tagStatus (n : Nat) : Nat := 66 + 16384 + n

/-- The 32 bytes of a status word. -/
def State.statusWord (s : State) (n st residue : Nat) : List Byte :=
  natLe 1 (s.rf (R.STREAM_RUN_STATUS n)) ++ natLe 1 st ++ natLe 2 n ++ natLe 2 (s.rf (R.STREAM_RUN_PC n))
    ++ natLe 2 (s.rf (R.STREAM_AD0_CURSOR n)) ++ natLe 8 (s.rf (R.STREAM_DONE_BYTES n)) ++ natLe 8 residue
    ++ natLe 4 (s.rf (R.STREAM_LOOP_CHECK n)) ++ natLe 4 (s.row % 2 ^ 32)

/-- Whether a write of stream n, of a block or its status word, still waits to be issued to the host link (R380). -/
def State.holds (s : State) (n : Nat) : Bool := s.host.heldOut.any (fun p => p.1 == 66 + n || p.1 == tagStatus n)

/-- A status word written, with RO clear; one that Bus Master Enable holds back is known as such (R372, R380). -/
def State.putStatus (s : State) (n dst : Nat) (l : List Byte) : State :=
  (if isPort dst then (s.putPort n (portOf dst) (burstsOf (dst % 2 ^ 48) (clean l))).1
   else s.putRaw n (s.str n).nextSeq (dst % 2 ^ 52) (clean l)).tagHeld s.host.heldOut.length (tagStatus n)

/-- Whether a status word to an address must wait for the credits of its port, or for the port's retraining (R226, R350). -/
def State.statusWaits (s : State) (dst : Nat) : Bool :=
  isPort dst && (s.rf (R.CDP_STATUS_STATE (portOf dst)) == 5 || (s.portUp (portOf dst) && !s.canSend (portOf dst) 1))

/-- A stopped stream ends here (R223, R224): a host stream that was aborted or orphaned writes its status word and raises its vector,
and the ABORT commands that wait for it complete. -/
def State.closeStr (s : State) (n : Nat) : State :=
  let x := s.str n
  let st := s.rf (R.STREAM_RUN_STATUS n)
  let s := if x.host && (st == stABORTED || st == stORPHANED) then
      (s.putStatus n x.status (s.statusWord n ssENDED x.residue)).raiseOwned 1 x.vector
    else s
  (s.endStr n).completeOn 2 n

/-- Whether a stopped stream owes a status word that its port cannot take yet. -/
def State.closeWaits (s : State) (n : Nat) : Bool :=
  (s.str n).host && (s.rf (R.STREAM_RUN_STATUS n) == stABORTED || s.rf (R.STREAM_RUN_STATUS n) == stORPHANED)
    && s.statusWaits (s.str n).status

/-- The host-held lines under the status word that a stopped stream owes (R280). -/
def State.closeLines (s : State) (n : Nat) : List Nat :=
  let st := s.rf (R.STREAM_RUN_STATUS n)
  if (st == stABORTED || st == stORPHANED) && !isPort (s.str n).status then s.linesFor n [((s.str n).status % 2 ^ 52, 32)] else []

/-- Whether the status word that a stopped stream owes must wait for writes of the stream that Bus Master Enable holds back: it reports on
them and does not go behind them on the host link (R227, R380). -/
def State.closeHeld (s : State) (n : Nat) : Bool :=
  let st := s.rf (R.STREAM_RUN_STATUS n)
  let dst := (s.str n).status
  (s.str n).host && (st == stABORTED || st == stORPHANED) && s.holds n
    && (isPort dst || (pageSpans (dst % 2 ^ 52) 32).any (fun sp => (s.farSide (sp.1 * 2 ^ 21)).isNone))

/-- A stream in STOPPING with nothing left in flight ends, once no line under its status word is held by the host. -/
def State.tryClose (s : State) (n : Nat) : State :=
  if s.sst n = ssSTOPPING ∧ (s.str n).blocks.isEmpty ∧ (s.str n).sk.isNone ∧ s.closeWaits n = false ∧ s.closeHeld n = false then
    (if (s.closeLines n).isEmpty then s.closeStr n else s.invalidate (s.closeLines n))
  else s

/-- The streams that waited in STOPPING for a port end when they can. -/
def State.closeStopped (s : State) : State :=
  s.forEach (s.usedCtx.filter (fun n => s.sst n == ssSTOPPING)) State.tryClose

/-- A stream stopped with a status (R223 to R226). -/
def State.haltStr (s : State) (n st : Nat) : State :=
  if s.sealing n then (if st = stORPHANED then s.strStatus n st else s)
  else if !s.strUnfinished n then s
  else (((s.strStatus n st).setSst n ssSTOPPING wtNONE).tryClose n)

end Sys2Proof.Machine
end

