-- ==== Sys2Proof/Machine/Recompute.lean ====
section
/-! DEFINITION. Machine/Recompute.lean: the random draws, the gauges' tallies, weight panels through the operand expanders and the
operations of a recompute program (R85 to R104, R120 to R124, R130, R190 to R192). -/

namespace Sys2Proof.Machine

/-! ## Philox4x32-10 (R102, R103) -/

/-- One round on four counter words and a key of two. -/
def philoxRound (c : Nat × Nat × Nat × Nat) (k0 k1 : Nat) : Nat × Nat × Nat × Nat :=
  let p := 0xD2511F53 * c.1
  let q := 0xCD9E8D57 * c.2.2.1
  (q / 2 ^ 32 ^^^ c.2.1 ^^^ k0, q % 2 ^ 32, p / 2 ^ 32 ^^^ c.2.2.2 ^^^ k1, p % 2 ^ 32)

/-- The rounds left, with the key of the next. -/
def philoxGo : Nat → Nat × Nat × Nat × Nat → Nat → Nat → Nat × Nat × Nat × Nat
  | 0, c, _, _ => c
  | n + 1, c, k0, k1 => philoxGo n (philoxRound c k0 k1) ((k0 + 0x9E3779B9) % 2 ^ 32) ((k1 + 0xBB67AE85) % 2 ^ 32)

/-- The four words x0 to x3. -/
def philox (c0 c1 c2 c3 k0 k1 : Nat) : Nat × Nat × Nat × Nat := philoxGo 10 (c0, c1, c2, c3) k0 k1

/-- Word j of four. -/
def word4 (x : Nat × Nat × Nat × Nat) (j : Nat) : Nat :=
  if j = 0 then x.1 else if j = 1 then x.2.1 else if j = 2 then x.2.2.1 else x.2.2.2

/-- What keys a draw beside its element: seed, step number, swatch program when in a swatch, tensor identity, micro-batch, purpose (R102). -/
structure DrawKey where
  seed    : Nat
  step    : Nat
  swatch  : Option Nat
  tid     : Nat
  mb      : Nat
  purpose : Nat
  deriving DecidableEq, Repr

/-- The 16-bit draw of element e. -/
def DrawKey.draw (k : DrawKey) (e : Nat) : Nat :=
  let b := e / 8
  let c1 := bitsOf b 32 5 + (k.swatch.getD 0) % 16 * 2 ^ 5 + k.purpose * 2 ^ 9 + (if k.swatch.isSome then 2 ^ 10 else 0)
    + k.tid % 8192 * 2 ^ 11 + k.mb % 256 * 2 ^ 24
  let c3 := bitsOf k.step 32 32 ^^^ bitsOf b 37 1 * 2 ^ 31
  let x := philox (b % 2 ^ 32) c1 (k.step % 2 ^ 32) c3 (k.seed % 2 ^ 32) (bitsOf k.seed 32 32)
  let w := word4 x (e % 8 / 2)
  if e % 2 = 0 then w % 65536 else w / 65536

/-- The keys of draws made now. -/
def State.drawKey (s : State) (tid mb purpose : Nat) : DrawKey :=
  ⟨s.step.seed, s.rf R.STEP_NUMBER_VALUE, s.step.swatchRun, tid, mb, purpose⟩

/-! ## Gauges (R130, R131) -/

/-- One counter of the running step's figures raised: source, format, counter. -/
def State.tally (s : State) (src fmt k n : Nat) : State :=
  if n = 0 then s
  else
    let key := src * 64 + fmt * 4 + k
    { s with gauge := SMap.put (fun _ => 0) s.gauge key (SMap.get (fun _ => 0) s.gauge key + n) }

/-- Values written counted for a source and a format; a swatch counts nothing. -/
def State.countWrote (s : State) (src fmt : Nat) (l : List Wrote) : State :=
  if s.step.swatchRun.isSome then s
  else
    let s := s.tally src fmt 0 l.length
    let s := s.tally src fmt 1 (l.filter (·.overflow)).length
    let s := s.tally src fmt 2 (l.filter (·.vanish)).length
    s.tally src fmt 3 (l.filter (·.nonfin)).length

/-! ## Marks of elements -/

/-- The bytes of a row of `n` elements with the marks of their elements; a scale byte takes the marks of its block. -/
def markBytes (code n : Nat) (bytes : List Byte) (marks : List Bool) : List MByte :=
  let w := elemBits code
  let body := bytes.length - (if isMx code then ceilDiv n 32 else 0)
  (upTo bytes.length).map (fun k =>
    (bytes.getD k 0,
      if k < body then (upTo (8 / w + 1)).any (fun j => decide ((8 * k) / w + j ≤ (8 * k + 7) / w) && marks.getD ((8 * k) / w + j) false)
      else ((marks.drop (32 * (k - body))).take 32).any id))

/-- Whether an element of a stored row holds a marked byte. -/
def elemMarked (code n : Nat) (l : List MByte) (i : Nat) : Bool :=
  let w := elemBits code
  let body := fmtBytes code n - (if isMx code then ceilDiv n 32 else 0)
  (upTo (w / 8 + 2)).any (fun j => decide (i * w / 8 + j ≤ (i * w + w - 1) / 8) && (l.getD (i * w / 8 + j) (0, false)).2)
    || (isMx code && (l.getD (body + i / 32) (0, false)).2)

/-- Marks of a written row: an MX block shares its scale, so a marked value marks its block. -/
def spreadMx (code : Nat) (marks : List Bool) : List Bool :=
  if isMx code then (upTo marks.length).map (fun i => ((marks.drop (i / 32 * 32)).take 32).any id) else marks

/-! ## Weights (R92, R93, R98, R99, R190 to R192) -/

/-- A weight descriptor. -/
structure WDesc where
  oa    : Nat
  k     : Nat
  n     : Nat
  elem  : Nat
  prof  : Nat
  index : Nat
  deriving DecidableEq, Repr

/-- Weight descriptor w of a program body. -/
def wDesc (b : List Byte) (w : Nat) : WDesc :=
  let o := 32 + 16 * fieldLe b 4 1 + 32 * w
  ⟨fieldLe b o 8, fieldLe b (o + 8) 4, fieldLe b (o + 0xC) 4, fieldLe b (o + 0x10) 1, fieldLe b (o + 0x11) 1, fieldLe b (o + 0x12) 1⟩

/-- Raw bytes of a chunk of `rows` rows and 128 columns (R100, R110). -/
def chunkBytes (elem rows : Nat) : Nat := 128 * fmtBytes elem rows

/-- Raw bytes of a panel before chunk c, and of the whole panel. -/
def WDesc.before (d : WDesc) (c : Nat) : Nat := c * chunkBytes d.elem 512
def WDesc.panelBytes (d : WDesc) : Nat := chunkBytes d.elem 512 * (d.k / 512) + chunkBytes d.elem (d.k % 512)

/-- What an expander has of a panel: the bytes so far, the raw offset of each check that failed, where it stands, whether the rest is
lost. -/
structure ExpRun where
  st    : State
  data  : List MByte
  fails : List Nat
  pos   : Nat
  lost  : Bool

/-- One block of a panel skein (R154 to R156, R190). -/
def ExpRun.block (d : WDesc) (x : ExpRun) (i : Nat) : ExpRun :=
  let exp := blockRaw d.panelBytes i
  let bad := List.replicate exp ((0, true) : MByte)
  if x.lost then { x with data := x.data ++ bad }
  else
    let g := x.st.readOA .cluster (x.pos % 2 ^ 52) 32
    if loses g.data i exp then { x with st := g.st, data := x.data ++ bad, fails := x.fails ++ [65536 * i], lost := true }
    else
      let pl := fieldLe (g.data.map (·.1)) 8 4
      let p := g.st.readOA .cluster ((x.pos + 32) % 2 ^ 52) pl
      let next := x.pos + 32 + pl
      match (if blockIntact g.data p.data then decodePlain (g.data.map (·.1)) (p.data.map (·.1)) [] (fmtWidth d.elem) i exp else none) with
      | none => { x with st := p.st, data := x.data ++ bad, fails := x.fails ++ [65536 * i], pos := next }
      | some l => { x with st := p.st, data := x.data ++ l.map (fun b => (b, false)), pos := next }

/-- The header of a panel skein meets R154 and R191. -/
def panelHeaderOk (d : WDesc) (h : List MByte) : Bool :=
  let p := parseHdr (h.map (·.1))
  !h.any (·.2) && hdrFormOk (h.map (·.1)) && p.rawLen == d.panelBytes && p.profile == 3 && p.width == fmtWidth d.elem && p.refKind == 0

/-- A word of a panel table, and whether it is marked. -/
def State.panelWord (s : State) (d : WDesc) (i : Nat) : Nat × Bool :=
  let g := s.readOA .cluster ((d.oa + 8 * i) % 2 ^ 52) 8
  (leNat (g.data.map (·.1)), g.data.any (·.2))

/-- Bytes that come wholly marked: what a marked table entry leads to (R99). -/
def lostBytes (n : Nat) : List MByte := List.replicate n (0, true)

/-- A panel's raw bytes from chunk c0 on, as the expander of a part delivers them: part 0 starts at the header, a later part at the
block that the panel walk named (R98, R192). `t` is the part, `sk` SPLITK. -/
def State.expandPart (s : State) (d : WDesc) (n t sk c0 : Nat) : ExpRun :=
  let panels := ceilDiv d.n 128
  let skip := min (d.before c0) d.panelBytes
  let w := s.panelWord d n
  let oa := w.1 % 2 ^ 52
  if d.prof = 0 then
    let g := s.readOA .cluster ((oa + skip) % 2 ^ 52) (d.panelBytes - skip)
    ⟨g.st, if w.2 then lostBytes g.data.length else g.data, [], 0, false⟩
  else if t = 0 then
    let g := s.readOA .cluster oa 32
    let ok := !w.2 && panelHeaderOk d g.data
    (upTo (blockCount d.panelBytes)).foldl (ExpRun.block d) ⟨g.st, [], if ok then [] else [0], oa + 32, !ok⟩
  else
    let p := s.panelWord d (panels + n * (sk - 1) + t - 1)
    let i0 := skip / 65536
    ((upTo (blockCount d.panelBytes - i0)).map (i0 + ·)).foldl (ExpRun.block d) ⟨s, [], [], p.1 % 2 ^ 52, p.2 || p.1.testBit 63⟩

/-- One K-chunk of a panel: its raw bytes. One of a panel skein is marked whole, its bytes zero, when any byte of it is (R155, R191). -/
def chunkOf (d : WDesc) (part : List MByte) (c0 c : Nat) : List MByte :=
  let rows := min 512 (d.k - 512 * c)
  let l := (part.drop (d.before c - d.before c0)).take (chunkBytes d.elem rows)
  if d.prof = 1 && l.any (·.2) then lostBytes l.length else l

/-- The exact elements of column j of a chunk of `rows` rows: each column's rows packed, then the columns' scales (R110). -/
def chunkCol (elem rows : Nat) (l : List Byte) (j : Nat) : List Val :=
  let cb := rows * elemBits elem / 8
  (upTo rows).map (fun k =>
    let v := decodeElem elem (unpackElem elem (sliceB l (j * cb) cb) k)
    if isMx elem then
      let sc := fieldLe l (128 * cb + j * (rows / 32) + k / 32) 1
      if sc = 0xFF then .nan else v.scale ((sc : Int) - 127)
    else v)

/-- Whether column j of a chunk of `rows` rows holds a marked byte. -/
def chunkColMarked (elem rows : Nat) (l : List MByte) (j : Nat) : Bool :=
  let cb := rows * elemBits elem / 8
  ((l.drop (j * cb)).take cb).any (·.2) || (isMx elem && ((l.drop (128 * cb + j * (rows / 32))).take (rows / 32)).any (·.2))

/-- A panel ready for a GEMM: the 128 columns' exact elements in ascending K, and which columns hold a marked byte. -/
structure Panel where
  cols  : List (List Val)
  marks : List Bool

/-- Chunks per part (R123). -/
def perPart (d : WDesc) (sk : Nat) : Nat := ceilDiv (ceilDiv d.k 512) sk

/-- Panel n read through the expanders of its parts. -/
def State.panel (s : State) (d : WDesc) (n sk : Nat) : State × Panel :=
  let h := perPart d sk
  let kc := ceilDiv d.k 512
  let r := (upTo sk).foldl (fun (a : State × List (Nat × List MByte)) t =>
    let x := a.1.expandPart d n t sk (t * h)
    (x.st, a.2 ++ ((upTo (min h (kc - t * h))).map (fun c => (t * h + c, chunkOf d x.data (t * h) (t * h + c)))))) (s, [])
  let rows := fun (c : Nat) => min 512 (d.k - 512 * c)
  (r.1, ⟨(upTo 128).map (fun j => (r.2.map (fun c => chunkCol d.elem (rows c.1) (c.2.map (·.1)) j)).flatten),
    (upTo 128).map (fun j => r.2.any (fun c => chunkColMarked d.elem (rows c.1) c.2 j))⟩)

/-! ## GEMM (R98, R123, R124) -/

/-- The exact sum of a block's products, rounded once; an exact zero sum is +0. -/
def blockSum (l : List (Val × Val)) : Nat :=
  match l.foldl (fun (a : Val) p => a.add (p.1.mul p.2)) (Val.fin false 0 0) with
  | .fin n m e => if m = 0 then 0 else to32 (.fin n m e)
  | v => to32 v

/-- The 32-long blocks of a list of products, with fuel. -/
def blocksOf {α : Type} : Nat → List α → List (List α)
  | 0, _ => []
  | n + 1, l => if l.isEmpty then [] else l.take 32 :: blocksOf n (l.drop 32)

/-- A list in the order that a number picks, with fuel: the free order of V operations (R96). -/
def permute {α : Type} : Nat → Nat → List α → List α
  | 0, _, l => l
  | f + 1, x, l =>
    match l[x % l.length]? with
    | none => l
    | some a => a :: permute f (x / l.length) (l.eraseIdx (x % l.length))

/-- One result before SRC_C: the parts' ascending sums, combined by the tree, or in completion order when one is given. -/
def gemmElem (a b : List Val) (k sk h : Nat) (order : Option Nat) : Nat :=
  let bs := blocksOf (k / 32 + 2) ((a.zip b).take k)
  let parts := (upTo sk).map (fun t => ((bs.drop (16 * t * h)).take (16 * h)).foldl (fun s l => fAdd s (blockSum l)) 0)
  match order with
  | none => tree parts
  | some x => match permute sk x parts with
    | [] => 0
    | p :: t => t.foldl fAdd p

/-! ## Vector operations (R120 to R122) -/

def one32 : Nat := 0x3F800000
def half32 : Nat := 0x3F000000

/-- A pattern with its sign reversed. -/
def fNeg (a : Nat) : Nat := if a < 2 ^ 31 then a + 2 ^ 31 else a - 2 ^ 31

def opGelu (a : Nat) : Nat :=
  let u := fMul (fMul a a) a
  let y := fMul 0x3F4C422A (fFma 0x3D372713 u a)
  fMul half32 (fMul a (fAdd one32 (fTanh y)))

def opSilu (a : Nat) : Nat := fMul a (fDiv one32 (fAdd one32 (fExp (fNeg a))))

/-- RMSNORM of a row with its gain; epsilon P0. -/
def opRms (row gain : List Nat) (p0 : Nat) : List Nat :=
  let n := to32 (.fin false row.length 0)
  let d := fSqrt (fAdd (fDiv (fSum (row.map (fun a => fMul a a))) n) p0)
  let r := fDiv one32 d
  (upTo row.length).map (fun i => fMul (fMul (row.getD i 0) r) (gain.getD i one32))

/-- LAYERNORM of a row with its gain and shift; epsilon P0. -/
def opLayer (row gain shift : List Nat) (p0 : Nat) : List Nat :=
  let n := to32 (.fin false row.length 0)
  let mu := fDiv (fSum row) n
  let dl := row.map (fun a => fSub a mu)
  let v := fDiv (fSum (dl.map (fun a => fMul a a))) n
  let r := fDiv one32 (fSqrt (fAdd v p0))
  (upTo row.length).map (fun i => fFma (fMul (dl.getD i 0) r) (gain.getD i one32) (shift.getD i 0))

/-- ROPE of a row with the table row of its position: head width P0, rotated channels P1. -/
def opRope (row tab : List Nat) (p0 p1 : Nat) : List Nat :=
  (upTo row.length).map (fun ch =>
    if p1 ≤ ch then row.getD ch 0
    else
      let i := ch - ch % 2
      let h := i % p0
      let x := row.getD i 0
      let y := row.getD (i + 1) 0
      let c := tab.getD h 0
      let sn := tab.getD (h + 1) 0
      if ch % 2 = 0 then fFma x c (fNeg (fMul y sn)) else fFma x sn (fMul y c))

/-- Softmax of one group. -/
def softGroup (l : List Nat) : List Nat :=
  let m := match l with | [] => 0 | a :: t => t.foldl fMax a
  let e := l.map (fun a => fExp (fSub a m))
  let s := fSum e
  e.map (fun x => fDiv x s)

/-- Groups of `w` of a list, with fuel. -/
def groupsOf {α : Type} (w : Nat) : Nat → List α → List (List α)
  | 0, _ => []
  | n + 1, l => if l.isEmpty then [] else l.take w :: groupsOf w n (l.drop w)

/-- The sum of a row with its run results combined in the order a number picks (SUM_ANY). -/
def sumAny (l : List Nat) (x : Nat) : Nat :=
  let rs := (runs128 (l.length + 1) l).map (fun r => tree (r ++ List.replicate (128 - r.length) 0))
  (permute rs.length x rs).foldl fAdd 0

end Sys2Proof.Machine
end

