-- ==== Sys2Proof/Machine/Slots.lean ====
section
/-! DEFINITION. Machine/Slots.lean: the slots of the running schedule set at work: what an owner has taken of them, when they have carried
what it asks for, and what is left (R231 to R239, R244, R248, R251, R354). -/

namespace Sys2Proof.Machine

/-! ## One owner's slots -/

/-- The running schedule set as its slots are counted: body, FCLK, ticks of plan time, HOST_PER_32, and the trained host link in parts of
2,048 of its rate in service (R363). -/
structure SlotSet where
  body : List Byte
  fclk : Nat
  fin  : Nat
  host : Nat
  link : Nat
  deriving DecidableEq, Repr

/-- A load's resource under its owner's code: the key under which an owner's use of a resource is kept. -/
def slotKey (code res : Nat) : Nat := code * 65536 + res

/-- Loads under an owner's code. -/
def ownedBy (code : Nat) (l : List Load) : List Load := l.map (fun p => (slotKey code p.1, p.2))

/-- The share of a resource's full capacity that the trained host link leaves, in parts of 2,048 (R363). -/
def SlotSet.share (x : SlotSet) (res : Nat) : Nat := if res / 4096 = 4 ∨ res / 4096 = 5 then x.link else 2048

/-- HOST slots of a direction of the host link that end by a tick and lie in rounds which no phase covers: the last LINK_HOST of each 32,
counted from plan round 0, since phases run on from the first of them to the end of plan time (R238). -/
def SlotSet.uncovered (x : SlotSet) (res t : Nat) : Nat :=
  let first := match schPhases x.body res x.fin with | [] => x.fin | p :: _ => 32 * p.1.1
  let n := min first t * 10 / 32
  n / 32 * schLinkHost x.body + (n % 32 - (32 - schLinkHost x.body))

/-- Capacity of HOST by a tick of plan time: its access times of every HBM slot, its slots of the host link (R233, R238, R243). -/
def SlotSet.hostHad (x : SlotSet) (res t : Nat) : Nat :=
  if res / 4096 = 1 then min x.fin t * 10 / 32 * x.host
  else if res / 4096 = 4 ∨ res / 4096 = 5 then
    (slotsOf x.body x.fclk res x.fin (· == 0xFFFE) 0 t + x.uncovered res t) * slotUnits x.host res * x.share res / 2048
  else 0

/-- Capacity, in the unit of its load, of an owner's slots that have ended by a tick of plan time. -/
def SlotSet.had (x : SlotSet) (key t : Nat) : Nat :=
  if key / 65536 = 0xFFFE then x.hostHad (key % 65536) t
  else
    slotsOf x.body x.fclk (slotRes (key % 65536)) x.fin (· == key / 65536) 0 t * slotUnits x.host (key % 65536)
      * x.share (key % 65536) / 2048

/-- One load taken after what the owner has taken there before and after the slots that have passed; `none` when its slots up to the end
of plan time do not carry it. The slot under way counts whole (log entry 195). -/
def SlotSet.take (x : SlotSet) (now : Nat) (a : Option (List (Nat × Nat) × Nat)) (p : Load) : Option (List (Nat × Nat) × Nat) :=
  match a with
  | none => none
  | some (used, due) =>
    let e := max (SMap.get (fun _ => 0) used p.1) (x.had p.1 (now - 1)) + p.2
    if x.had p.1 x.fin < e then none
    else some (SMap.put (fun _ => 0) used p.1 e, max due (leastTick (fun t => decide (e ≤ x.had p.1 t)) 64 now x.fin))

/-- Loads taken together: what the owners have then taken, and the tick by which the last slot has carried them. -/
def SlotSet.claim (x : SlotSet) (used : List (Nat × Nat)) (now : Nat) (loads : List Load) : Option (List (Nat × Nat) × Nat) :=
  ((sumLoads loads).filter (fun p => p.2 != 0)).foldl (x.take now) (some (used, now))

/-- What a range adds to a load as it grows from `a` to `b`. -/
def grown (f : Nat → List Load) (a b : Nat) : List Load :=
  let old := sumLoads (f a)
  (sumLoads (f b)).map (fun p => (p.1, p.2 - SMap.get (fun _ => 0) old p.1))

/-! ## The running set -/

/-- The ticks of plan time that the running plan may take: to the end of reserve, or to the end of a swatch. -/
def State.planFin (s : State) (c : Chart) : Nat :=
  match s.step.swatchRun with
  | some p => c.swatchS p
  | none => c.reserveEnd s.variant

/-- The trained rate and width of the host link in parts of 2,048 of 64 GT/s at x16 (R363); RATE 2 shows 2.5 GT/s. -/
def State.linkShare (s : State) : Nat :=
  (if s.rf R.HQ_LINK_RATE = 2 then 5 else 2 * s.rf R.HQ_LINK_RATE) * s.rf R.HQ_LINK_WIDTH

/-- The slots of the running schedule set. -/
def State.slots (s : State) : SlotSet :=
  match s.chart.active with
  | none => ⟨[], 0, 0, s.step.hostPer, s.linkShare⟩
  | some c => ⟨s.schedule, c.fclk, s.planFin c, s.step.hostPer, s.linkShare⟩

/-- The live DA of an OA as the map has it; slots are counted on the channels of a pair's live page (log entry 196). -/
def State.daOf (s : State) (oa : Nat) : Option Nat := (s.entOf (oa / 2 ^ 21 % 2 ^ 31)).map (fun e => e.page * 2 ^ 21 + oa % 2 ^ 21)

/-- Demand of reading or writing `n` bytes of OA. -/
def State.oaLoad (s : State) (oa n : Nat) (write : Bool) : List Load := rangeLoad (s.rf R.GLB_ID_LCLUSTERS) s.daOf oa n n write

/-- Demand of a write to any destination. -/
def State.putLoad (s : State) (dst n : Nat) : List Load :=
  if n = 0 then [] else if isPort dst then portLoad dst n else s.oaLoad (dst % 2 ^ 52) n true

/-- Whether the plan's last action has completed: from then on FW's slots serve what the dies ask (R236). -/
def State.planOver (s : State) : Bool :=
  match s.step.swatchRun with
  | some _ => s.runSet.all (fun n => !s.strUnfinished n) && s.clu.left.isEmpty && s.clu.running.isEmpty
  | none => s.planDone

/-- Whether the slots of the running set carry what an owner of them moves: in plan time outside a pause (R236). -/
def State.slotTime (s : State) : Bool := s.inPlan && !s.paused

/-! ## Streams -/

/-- Whether a stream moves only in its slots: a plan stream in plan time; what a stopping one still has in flight completes in FW slots. -/
def State.slotBound (s : State) (n : Nat) : Bool := !(s.str n).host && s.slotTime && s.sst n != ssSTOPPING

/-! ## HOST (R233, R236, R243) -/

/-- Loads as HOST carries them: in its access times of HBM and, until the plan's last action has completed, in its slots of the host link,
which is wholly its own from then on (R236). -/
def State.hostLoads (s : State) (loads : List Load) : List Load :=
  (loads.filter (fun p => p.1 % 65536 / 4096 == 1 || ((p.1 % 65536 / 4096 == 4 || p.1 % 65536 / 4096 == 5) && !s.planOver))).map
    (fun p => (slotKey 0xFFFE (p.1 % 65536), p.2))

/-- HOST slots claimed after what has been taken: what is then taken, and the tick of plan time by which they have carried the loads, the end of
plan time where they do not. -/
def State.claimHost (s : State) (used : List (Nat × Nat)) (loads : List Load) : List (Nat × Nat) × Nat :=
  match s.slots.claim used s.planTick (s.hostLoads loads) with
  | some c => c
  | none => (used, s.slots.fin)

/-- What host-opened streams find taken of the HOST slots: what they have themselves, and what requests of the host have, which go first (R243). -/
def State.hostTaken (s : State) : List (Nat × Nat) :=
  s.host.reqUsed.foldl (fun m p => SMap.put (fun _ => 0) m p.1 (max p.2 (SMap.get (fun _ => 0) m p.1))) s.host.used

/-- What a stream has taken of its slots, its own and its spill-flagged ones, with some loads more, and the tick of plan time by which they
are carried; `none` when it has too few slots left (R248). A host-opened stream takes HOST slots and is never without (R243). -/
def State.claimFor (s : State) (n : Nat) (loads : List Load) : Option (List (Nat × Nat) × Nat) :=
  if s.slotBound n then s.slots.claim (s.str n).used s.planTick loads
  else if (s.str n).host && s.slotTime then some (s.claimHost s.hostTaken loads)
  else some (if (s.str n).host then s.host.used else (s.str n).used, 0)

/-- What a stream has taken of its slots noted. -/
def State.useSlots (s : State) (n : Nat) (used : List (Nat × Nat)) : State :=
  if (s.str n).host then { s with host := { s.host with used := used } } else s.setStr n { s.str n with used := used }

/-- Whether a stream's work is carried by slots now: its own, or those of HOST. -/
def State.slotted (s : State) (n : Nat) : Bool := s.slotBound n || ((s.str n).host && s.slotTime)

/-- The stream's slots for a message to a port. -/
def State.claimMsg (s : State) (n p : Nat) : Option (List (Nat × Nat) × Nat) := s.claimFor n (ownedBy n [(0x2000 + p, 1)])

/-- The loads of a block on the path from its source to its destination. -/
def State.blockLoad (s : State) (n src dst len : Nat) : List Load := ownedBy n (s.oaLoad (src % 2 ^ 52) len false ++ s.putLoad dst len)

/-- The row moved on to a tick of plan time. -/
def State.toTick (s : State) (t : Nat) : State := s.advance (s.planC + s.step.slip + t)
end Sys2Proof.Machine
end

