-- ==== Sys2Proof/Machine/Skein.lean ====
section
/-! DEFINITION. Machine/Skein.lean: the skein engines at work for streams: which engine serves a stream, packing and unpacking block by
block, placing a skein home then spill, and what a failed check does (R46, R47, R177 to R187, R201, R207). -/

namespace Sys2Proof.Machine

/-! ## Engines (R186, R237, R369) -/

/-- Whether an owner code stands in any ring of a resource. -/
def schOwns (b : List Byte) (r code : Nat) : Bool :=
  let e := schRes b r
  (upTo e.2.2.1).any (fun k =>
    let ph := schPhase b (e.2.2.2 + k)
    (upTo ph.2.1).any (fun j => schOwner b (ph.2.2 + j) == code))

/-- The logical engine on whose pipeline a stream owns slots: kind 7 encode, 8 decode (R186). -/
def schEngine (b : List Byte) (kind n : Nat) : Option Nat :=
  ((upTo (schNRES b)).find? (fun r => (schRes b r).1 == kind && schOwns b r n)).map (fun r => (schRes b r).2.1)

/-- The physical window of a logical engine; one that no engine serves runs nothing, and its number stands for its window (log entry 188). -/
def State.engineWin (s : State) (l : Nat) : Nat :=
  ((upTo 72).find? (fun p => s.rf (R.SKEIN_MAP_LOGICAL p) == l && (s.rf (R.SKEIN_MAP_STATE p) == 2 || s.rf (R.SKEIN_MAP_STATE p) == 5))).getD l

/-- The count of open contexts of a logical engine's pipeline. -/
def State.openF (s : State) (l dir : Nat) : Fld :=
  if dir = 0 then R.SKEIN_CTX_ENC_OPEN (s.engineWin l) else R.SKEIN_CTX_DEC_OPEN (s.engineWin l)

/-- The engine on which the context of a stream's skein is open. -/
def State.openEng (s : State) (n : Nat) : Option Nat :=
  match (s.str n).sk with
  | some k => k.eng
  | none => none

/-- The engine whose slots a stream's skein may take: by the running schedule set; in IDLE and HOLD every engine in turn for host streams
by ascending context (R369); where it is open, for a stream that is stopping (R223). -/
def State.engineFor (s : State) (n dir : Nat) : Option Nat :=
  let open_ := s.openEng n
  if s.sst n = ssSTOPPING ∧ open_.isSome then open_
  else if (s.str n).host && s.stopped then
    (if open_.isSome then open_
     else
      let r := (s.usedCtx.filter (fun m => decide (m < n) && (s.str m).host && (s.str m).sk.isSome)).length
      ((upTo 64).map (fun i => (r + i) % 64)).find? (fun l => decide (s.rf (s.openF l dir) < 4)))
  else schEngine s.schedule (if dir = 0 then 7 else 8) n

/-- The engine of a stream's MOVEX, when a physical engine serves it (R416) and its pipeline has one of its four contexts for the skein
(R177, R186; log entry 189). -/
def State.engineOf (s : State) (n dir : Nat) : Option Nat :=
  match s.engineFor n dir with
  | none => none
  | some l => if s.fault.unserved.contains (0x2000 + l) || (s.openEng n != some l && decide (4 ≤ s.rf (s.openF l dir))) then none else some l

/-- The window of the engine that serves a stream. -/
def State.skWin (s : State) (n dir : Nat) : Nat :=
  s.engineWin (match s.openEng n with | some l => l | none => (s.engineOf n dir).getD 0)

/-- A context opened on a pipeline of a logical engine, which is then on (R189), or closed there. -/
def State.openCtx (s : State) (l dir : Nat) (opening : Bool) : State :=
  let s := if opening then s.useUnits [0x2000 + s.engineWin l] else s
  let f := if dir = 0 then R.SKEIN_CTX_ENC_OPEN (s.engineWin l) else R.SKEIN_CTX_DEC_OPEN (s.engineWin l)
  s.set f (if opening then s.rf f + 1 else s.rf f - 1)

/-- A failed check or marked input recorded in an engine's window (R187, R194). -/
def State.winErr (s : State) (p st : Nat) (bit : Nat → Fld) : State :=
  let s := (s.set (bit p) 1).set (R.SKEIN_ERR_LAST_STATUS p) st
  if st = stCHECK_FAIL then s.addSat (R.SKEIN_ERR_CHECK_FAILS p) 1 else s

/-- The same at the engine that serves a stream. -/
def State.engineErr (s : State) (n dir st : Nat) (bit : Nat → Fld) : State := s.winErr (s.skWin n dir) st bit

/-- Raw bytes that an engine has encoded (`dir` 0) or decoded counted in its window (R194). -/
def State.winBytes (s : State) (p dir n : Nat) : State :=
  let f := if dir = 0 then R.SKEIN_ENC_BYTES p else R.SKEIN_DEC_BYTES p
  s.set f (s.rf f + n)

/-! ## The skein in hand -/

/-- The skein of a stream written back. -/
def State.setSk (s : State) (n : Nat) (k : SkeinCtx) : State := s.setStr n { s.str n with sk := some k }

/-- The skein's context leaves its engine. -/
def State.leaveEng (s : State) (k : SkeinCtx) : State :=
  match k.eng with
  | some l => s.openCtx l k.dir false
  | none => s

/-- The skein's context open on the engine whose slot it takes, moved there from another (R186). -/
def State.enterEng (s : State) (n : Nat) (k : SkeinCtx) : State × SkeinCtx :=
  match s.engineOf n k.dir with
  | none => (s, k)
  | some l =>
    if k.eng = some l then (s, k)
    else
      let k' := { k with eng := some l }
      (((s.leaveEng k).openCtx l k.dir true).setSk n k', k')

/-- The skein ends: its bytes take their place in the check value, its context closes; a stopping stream ends (R186, R218, R223). -/
def State.closeSk (s : State) (n : Nat) (k : SkeinCtx) : State :=
  let s := (s.leaveEng k).setStr n { s.str n with sk := none }
  let s := { s with led := { s.led with skOut := s.led.skOut + 1 } }
  ((s.doneSeq n k.seq k.out)).tryClose n

/-- A skein given up for a reset: its context leaves its engine, what it has delivered keeps its place in the check value (R225). -/
def State.dropSk (s : State) (n : Nat) (old new : Option SkeinCtx) : State :=
  match old with
  | none => s
  | some k => if new.isSome then s else (s.leaveEng k).doneSeq n k.seq k.out

/-- After a block: the last block or a stop closes the skein. -/
def State.afterSlot (s : State) (n : Nat) (k : SkeinCtx) : State :=
  if blockCount k.len ≤ k.block ∨ s.sst n = ssSTOPPING then s.closeSk n k else s.setSk n k

/-- Whether a slot lacks far bytes of its ranges: some are on their way, or not yet asked for. -/
def State.lacks (s : State) (n : Nat) (k : SkeinCtx) (ranges : List (Nat × Nat)) : Bool :=
  decide (0 < k.owed) || ranges.any (fun r => !(s.missing (s.strWho n k.seq) k.asked r.1 r.2).isEmpty)

/-- A slot that cannot run yet for want of far bytes: they are asked for, unless Bus Master Enable is clear (R380), and the stream waits. -/
def State.waitFar (s : State) (n : Nat) (k : SkeinCtx) (ranges : List (Nat × Nat)) : State :=
  if s.rf R.HQ_LINK_BME = 0 then s
  else
    let l := (ranges.map (fun r => s.missing (s.strWho n k.seq) k.asked r.1 r.2)).flatten
    (s.askFar n k.seq l).setSk n { k with asked := k.asked ++ l, owed := k.owed + pieceBytes l }

/-- Bytes zero and marked. -/
def badBytes (n : Nat) : List MByte := List.replicate n (0, true)

/-- Marks spread to whole 64-byte granules of a block's raw output (R184). -/
def granuleMarks (l : List MByte) : List MByte :=
  (upTo l.length).map (fun i => ((l.getD i (0, false)).1,
    (upTo 64).any (fun j => (l.getD (i / 64 * 64 + j) (0, false)).2)))

/-! ## Packing -/

/-- The header a pack writes (R134, R162, R207). -/
def SkeinCtx.header (k : SkeinCtx) : SkeinHdr :=
  let rk := if k.profile = 3 ∧ k.ref ≠ 0 then 1 else 0
  ⟨k.profile, k.width, rk, k.len, if k.profile = 1 ∨ rk = 1 then k.ref else 0, if k.profile = 1 then k.pword else 0⟩

/-- The tensor geometry of a Cyloth-A pack. -/
def SkeinCtx.geo (k : SkeinCtx) : AGeo := aGeo k.ref k.pword k.width k.len

/-- The raw bytes a slot takes from SRC: offset and length; for Cyloth-A the frames that must land, up to the one after the block's last
(R181). -/
def SkeinCtx.needRaw (k : SkeinCtx) : Nat × Nat :=
  let exp := blockRaw k.len k.block
  if k.profile = 1 then
    let g := k.geo
    let hi := max k.landed (min g.frames (g.blockLast k.block exp + 2))
    (k.landed * g.frameBytes, (hi - k.landed) * g.frameBytes)
  else (65536 * k.block, exp)

/-! ## The working store (R175, R181, R183, R207) -/

/-- The working store of a stream: its OA. -/
def State.storeOA (s : State) (n : Nat) : Nat := s.rf (R.STREAM_BIND_STORE_PAGE n) * 2 ^ 21

/-- Bytes of the skein's working store. -/
def SkeinCtx.storeBytes (k : SkeinCtx) : Nat := if k.dir = 0 then k.geo.encStore else k.geo.decStore

/-- Whether any of a working store lies beyond HBM and the on-die buffers: the engine then works from its own image of it (log entry 190). -/
def State.storeAway (s : State) (n : Nat) (k : SkeinCtx) : Bool :=
  (pageSpans (s.storeOA n) k.storeBytes).any (fun sp => match s.entOf (s.selPage sp.1 false) with
    | some e => decide (2 ≤ s.tierOf (e.page * 2 ^ 21))
    | none => false)

/-- A list with another laid over it from a place on. -/
def overlay (l : List MByte) (off : Nat) (x : List MByte) : List MByte :=
  l.take off ++ List.replicate (off - l.length) (0, false) ++ x ++ l.drop (off + x.length)

/-- Bytes of the working store read through the reference port. -/
def State.readStore (s : State) (n : Nat) (k : SkeinCtx) (off len : Nat) : Got :=
  if s.storeAway n k then ⟨s, (k.image.drop off).take len, false, []⟩
  else s.readFor n k.seq ((s.storeOA n + off) % 2 ^ 52) len [] []

/-- Bytes written to the working store. -/
def State.writeStore (s : State) (n : Nat) (k : SkeinCtx) (off : Nat) (l : List MByte) : State × SkeinCtx :=
  let k' := if s.storeAway n k then { k with image := overlay k.image off l } else k
  let g := s.writeOA (s.strWho n k.seq) (s.strOwner n) ((s.storeOA n + off) % 2 ^ 52) l
  (if g.refused then g.st.note n stBAD_ARG 0x0A else g.st, k')

/-- The tensor as the store holds it up to byte `hi`: the parts it holds are read, zeros stand for the rest. `parts` gives first byte,
length and place in the store, ascending. -/
def State.storeView (s : State) (n : Nat) (k : SkeinCtx) (parts : List (Nat × Nat × Nat)) (hi : Nat) : Got :=
  let g := parts.foldl (fun (g : Got) p =>
    let r := g.st.readStore n k p.2.2 p.2.1
    ⟨r.st, g.data ++ List.replicate (p.1 - g.data.length) (0, false) ++ r.data, g.refused || r.refused, []⟩) ⟨s, [], false, []⟩
  ⟨g.st, g.data ++ List.replicate (hi - g.data.length) (0, false), g.refused, []⟩

/-- What a store view reads of the decode store before a block: first byte, length and place of each part. -/
def AGeo.heldParts (g : AGeo) (lo : Nat) : List (Nat × Nat × Nat) :=
  ((g.decHeld lo).map (fun r => (g.decParts r.1 r.2).map (fun p => (p.1, p.2, g.decOff p.1)))).flatten

/-- The marks of a decode store's bytes: a group's own mark, and a mark that memory brings where no marked group shares the granule
(R176, R185; log entry 191). -/
def AGeo.storeMarks (g : AGeo) (bad : List Nat) (l : List MByte) : List MByte :=
  let dirty := bad.map (fun b => g.decOff (b * g.groupBytes) / 64)
  l.zipIdx.map (fun x => (x.1.1, bad.contains (x.2 / g.groupBytes) || (x.1.2 && !dirty.contains (g.decOff x.2 / 64))))

/-- Bytes of the decode store as they stand before a block, to fill up the granules that the block's rows share: they keep the marks of what
the store still holds (R176). -/
def State.storeFill (s : State) (n : Nat) (k : SkeinCtx) (off len : Nat) : List MByte :=
  let g := k.geo
  let held := g.heldParts (65536 * k.block)
  let dirty := k.bad.map (fun b => g.decOff (b * g.groupBytes) / 64)
  ((s.readStore n k off len).data.zipIdx).map (fun x => (x.1.1,
    match held.find? (fun p => decide (p.2.2 ≤ off + x.2) && decide (off + x.2 < p.2.2 + p.2.1)) with
    | none => false
    | some p => k.bad.contains ((p.1 + (off + x.2 - p.2.2)) / g.groupBytes) || (x.1.2 && !dirty.contains ((off + x.2) / 64))))

/-- Bytes written to the decode store in whole granules, so that no mark of what they replace stays on a granule (R176). -/
def State.writeGranules (s : State) (n : Nat) (k : SkeinCtx) (off : Nat) (l : List MByte) : State × SkeinCtx :=
  let lo := off / 64 * 64
  let hi := min k.storeBytes (ceilDiv (off + l.length) 64 * 64)
  s.writeStore n k lo (s.storeFill n k lo (off - lo) ++ l ++ s.storeFill n k (off + l.length) (hi - (off + l.length)))

/-- A decoded block kept in the store with its groups' marks; groups that the store no longer holds are forgotten. -/
def State.keepDecoded (s : State) (n : Nat) (k : SkeinCtx) (l : List MByte) : State × SkeinCtx :=
  let g := k.geo
  let lo := 65536 * k.block
  let a := (g.decParts lo (lo + l.length)).foldl (fun (a : State × SkeinCtx) p =>
    a.1.writeGranules n a.2 (g.decOff p.1) ((l.drop (p.1 - lo)).take p.2)) (s, k)
  let new := (upTo (l.length / g.groupBytes)).filter (fun j => (l.getD (j * g.groupBytes) (0, false)).2)
  let held := g.decHeld (lo + l.length)
  let bad := (k.bad ++ new.map (· + lo / g.groupBytes)).filter (fun b => held.any (fun r =>
    decide (r.1 ≤ b * g.groupBytes) && decide (b * g.groupBytes < r.2)))
  (a.1, { a.2 with bad := bad })

/-- The decision records of the frames before f that the store holds, those of other frames standing as forced intra. -/
def State.readRecs (s : State) (n : Nat) (k : SkeinCtx) (held : List Nat) (f : Nat) : State × List Nat :=
  let g := k.geo
  (upTo f).foldl (fun (a : State × List Nat) q =>
    if held.contains q then
      let r := a.1.readStore n k (g.recOff q) (2 * g.tiles)
      (r.st, a.2 ++ (upTo g.tiles).map (fun j => leNat (((r.data.drop (2 * j)).take 2).map (·.1))))
    else (a.1, a.2 ++ List.replicate g.tiles 0x1000)) (s, [])

/-- The frames named and frame f as the encode store holds them. -/
def State.packView (s : State) (n : Nat) (k : SkeinCtx) (f : Nat) : Got :=
  let g := k.geo
  s.storeView n k (((g.pool f).reverse ++ [f]).map (fun q => (q * g.frameBytes, g.frameBytes, g.packOff q))) ((f + 1) * g.frameBytes)

/-- A frame landed in the encode store, then decided, its records kept there (R174, R181). -/
def State.landFrame (s : State) (n : Nat) (k : SkeinCtx) (l : List MByte) : State × SkeinCtx :=
  let g := k.geo
  let f := k.landed
  let a := s.writeStore n k (g.packOff f) l
  let v := a.1.packView n a.2 f
  let r := v.st.readRecs n a.2 (g.recKeep f) f
  let dec := (g.decideFrame ((v.data.map (·.1)).toArray) r.2 f).drop r.2.length
  let b := r.1.writeStore n a.2 (g.recOff f) (clean ((dec.map (natLe 2)).flatten))
  (b.1, { b.2 with landed := f + 1 })

/-- A Cyloth-A block on its way through pass 1: the skein, bytes of SRC still to land, raw bytes, coded words and side fields so far. -/
structure PackRun where
  st    : State
  sk    : SkeinCtx
  src   : List MByte
  raw   : List MByte
  words : List Nat
  flds  : List AField

/-- The next frame landed, unless the one after frame f is in the store. -/
def PackRun.land (r : PackRun) (n f : Nat) : PackRun :=
  if min r.sk.geo.frames (f + 2) ≤ r.sk.landed then r
  else
    let a := r.st.landFrame n r.sk (r.src.take r.sk.geo.frameBytes)
    { r with st := a.1, sk := a.2, src := r.src.drop r.sk.geo.frameBytes }

/-- The part of a block that lies in frame f coded from the encode store (R168, R169, R181). -/
def PackRun.frame (r : PackRun) (n f : Nat) : PackRun :=
  let r := (r.land n f).land n f
  let g := r.sk.geo
  let exp := blockRaw r.sk.len r.sk.block
  let lo := max (65536 * r.sk.block) (f * g.frameBytes)
  let hi := min (65536 * r.sk.block + exp) ((f + 1) * g.frameBytes)
  let v := r.st.packView n r.sk f
  let d := v.st.readRecs n r.sk [f] (f + 1)
  let a := (v.data.map (·.1)).toArray
  let ps := (g.groupsOf r.sk.block exp).filter (fun p => p.f == f)
  { r with st := d.1, raw := r.raw ++ (v.data.drop lo).take (hi - lo)
           words := r.words ++ (ps.map (fun p => g.codeGroup a p (g.fieldAt d.2 p.tile))).flatten
           flds := r.flds ++ (g.listTiles ps).map (g.fieldAt d.2) }

/-- Pass 1 of a Cyloth-A block: frame by frame from its first to its last. -/
def State.packA (s : State) (n : Nat) (k : SkeinCtx) (src : List MByte) : PackRun :=
  let g := k.geo
  let f0 := g.blockFrame k.block
  let fs := (upTo (g.blockLast k.block (blockRaw k.len k.block) + 1 - f0)).map (· + f0)
  fs.foldl (fun r f => r.frame n f) ⟨s, k, src, [], [], []⟩

/-! ## Encoding -/

/-- Stored bytes of one block of a stash instance placed: home while whole blocks fit, then spill, then overflow (R46, R47). -/
def State.placeBlock (s : State) (n : Nat) (e : StashEnt) (i : StashInst) (bytes : List Byte) : State × StashInst × Nat :=
  let b := bytes.length
  if i.overflow then (s, i, 0)
  else if !i.out && decide (i.home + b ≤ e.budget) then
    let s := s.putOA n 0 (e.homeAt i.mb + i.home) (clean bytes)
    let j := { i with home := i.home + b, blocks := i.blocks + 1, hdr := true }
    ({ s with stash := s.stash.putInst j b 0 }, j, b)
  else if i.spill + b ≤ e.allow then
    let s := s.putOA n 0 (e.spillAt i.mb + i.spill) (clean bytes)
    let s := s.note n stSPILLED 0
    let j := { i with spill := i.spill + b, blocks := i.blocks + 1, hdr := true, out := true }
    let s := { s with stash := s.stash.putInst j 0 b, led := { s.led with spill := s.led.spill + b } }
    (s, j, b)
  else
    let j := { i with out := true, overflow := true }
    let s := { s with stash := s.stash.putInst j 0 0 }
    let s := (s.raiseFlag 5).logEv stSPILLED 0x08 n (2 ^ 31 + i.mb % 256 * 65536 + i.tid % 8192) (e.homeAt i.mb)
    (s, j, 0)

/-- The bytes of one encoded block go to their destination: a stash instance, nowhere for a probe, or DST. -/
def State.putBlock (s : State) (n : Nat) (k : SkeinCtx) (bytes : List Byte) (last marked : Bool) : State × SkeinCtx :=
  match k.stash with
  | none =>
    let s := (s.putDst n k.seq (k.dst + k.coded) (clean bytes)).addBytes n bytes.length
    (s, { k with coded := k.coded + bytes.length, out := k.out ++ bytes })
  | some (tid, mb) =>
    match s.stashTable.find? (fun e => e.tid == tid) with
    | none => (s, { k with coded := k.coded + bytes.length })
    | some e =>
      let i := (s.instOf tid mb).getD (e.inst mb)
      let a := if e.packed then s.placeBlock n e i bytes else (s, i, 0)
      let j := { a.2.1 with enc := a.2.1.enc + bytes.length, whole := last && !marked }
      let s := { a.1 with stash := a.1.stash.putInst j 0 0 }
      (s.addBytes n a.2.2, { k with coded := k.coded + bytes.length, out := k.out ++ bytes.take a.2.2 })

/-- Whether a slot of a Cyloth-A encode passes idle, since the decision of its next block's frame still takes it: it reads nothing (R182). -/
def SkeinCtx.idles (k : SkeinCtx) : Bool := k.profile == 1 && decide (k.slots < k.geo.slotsBefore (k.geo.blockFrame k.block))

/-- One encode slot (R179 to R182): the next block of the skein, with the header before block 0; a Cyloth-A slot that the decision of the
next frame still takes passes idle. -/
def State.encodeSlot (s : State) (n : Nat) (k : SkeinCtx) : State :=
  let hdr := k.header.bytes
  if k.profile = 1 ∧ !aFormOk k.ref k.pword k.width k.len then (s.note n stBAD_ARG 0x0A).closeSk n k
  else if k.len = 0 then
    let a := s.putBlock n k hdr true false
    a.1.closeSk n { a.2 with headed := true }
  else if k.idles then s.setSk n { k with slots := k.slots + 1 }
  else
    let need := k.needRaw
    let exp := blockRaw k.len k.block
    let src := (k.src + need.1) % 2 ^ 52
    let based := k.header.refKind == 1
    let base := (k.ref + 65536 * k.block) % 2 ^ 52
    let ranges := (src, need.2) :: (if based then [(base, exp)] else [])
    if s.lacks n k ranges then s.waitFar n k ranges
    else
      let g := s.readFor n k.seq src need.2 k.asked k.have_
      let gb := if based then g.st.readFor n k.seq base exp k.asked k.have_ else ⟨g.st, [], false, []⟩
      let k := { k with have_ := [], asked := [] }
      let r := if k.profile = 1 then gb.st.packA n k g.data else ⟨gb.st, k, [], g.data, [], []⟩
      let s := r.st
      let k := r.sk
      let marked := r.raw.any (·.2) || gb.data.any (·.2)
      let bytes := r.raw.map (·.1)
      let cd := if k.profile = 1 then encodeA bytes r.words r.flds else encodePlain bytes (gb.data.map (·.1)) k.width
      let blk := if marked then blockBytes 2 exp k.block 0 bytes true else blockBytes cd.mode exp k.block cd.bits cd.payload false
      let p := s.skWin n 0
      let s := (s.winBytes p 0 exp).set (R.SKEIN_CTX_ENC_STREAM p) n
      let s := if marked then (s.engineErr n 0 stPOISON_IN R.SKEIN_ERR_MARKED_IN).note n stPOISON_IN 4 else s
      let k := { k with marked := k.marked || marked, slots := k.slots + 1 }
      let a := s.putBlock n k ((if k.block = 0 then hdr else []) ++ blk) (k.block + 1 == blockCount k.len) k.marked
      a.1.afterSlot n { a.2 with block := k.block + 1, headed := true }

/-! ## Unpacking -/

/-- Where skein byte `off` of an unpack lies: the home part of a stash instance, its spill part, or SRC (R46, R201). -/
def State.skAddr (s : State) (k : SkeinCtx) (off : Nat) : Nat :=
  match k.stash with
  | none => (k.src + off) % 2 ^ 52
  | some (tid, mb) =>
    match s.stashTable.find? (fun e => e.tid == tid), s.instOf tid mb with
    | some e, some i => if off < i.home then e.homeAt mb + off else e.spillAt mb + (off - i.home)
    | _, _ => k.src

/-- Whether the next block of an unpack was stored this step; data that no stash names always was (R47). -/
def State.wasStored (s : State) (k : SkeinCtx) : Bool :=
  match k.stash with
  | none => true
  | some (tid, mb) => match s.instOf tid mb with
    | none => false
    | some i => i.hdr && decide (k.block < i.blocks)

/-- The shape of a stash tensor in the layout of REF (R161, R163). -/
def State.stashShape (s : State) (k : SkeinCtx) : Option Nat :=
  match k.stash, s.chart.active with
  | some (tid, _), some c =>
    (s.stashTable.find? (fun e => e.tid == tid)).map (fun e =>
      let o := 32 * e.shape
      fieldLe (c.sec 2) (o + 4) 4 % 65536 + fieldLe (c.sec 2) (o + 8) 4 % 65536 * 65536 + fieldLe (c.sec 2) (o + 12) 4 * 2 ^ 32)
  | _, _ => none

/-- The header check of R154 and R163 against the request. -/
def State.headerOk (s : State) (k : SkeinCtx) (h : List MByte) : Bool :=
  let b := h.map (·.1)
  let p := parseHdr b
  !h.any (·.2) && hdrFormOk b && p.rawLen == k.len && p.profile == k.profile && p.width == k.width
    && (k.profile != 1 || (aFormOk p.ref p.pword p.width p.rawLen &&
      (match s.stashShape k with | none => true | some r => p.rawLen == 0 || p.ref == r)))

/-- One block of raw output handed on to an OA or a port: a granule that holds a marked byte is marked whole, and what is marked holds
zero (R155, R184). -/
def State.deliver (s : State) (n : Nat) (k : SkeinCtx) (l : List MByte) : State × SkeinCtx :=
  let l := zeroMarked (granuleMarks l)
  let s := (s.putDst n k.seq (k.dst + 65536 * k.block) l).addBytes n l.length
  let p := s.skWin n 1
  let s := (s.winBytes p 1 l.length).set (R.SKEIN_CTX_DEC_STREAM p) n
  (s, { k with block := k.block + 1, out := k.out ++ l.map (·.1), slots := k.slots + 1 })

/-- A block's rebuilt bytes kept for later predictions where the skein is Cyloth-A with a header that passed, then handed on (R176). -/
def State.keepDeliver (s : State) (n : Nat) (k : SkeinCtx) (l : List MByte) : State × SkeinCtx :=
  if k.profile = 1 ∧ k.geo.frameBytes ≠ 0 then
    let a := s.keepDecoded n k l
    a.1.deliver n a.2 l
  else s.deliver n k l

/-- A failed block or header: its raw length delivered as marked zero bytes, CHECK_FAIL (R155, R187). -/
def State.deliverBad (s : State) (n : Nat) (k : SkeinCtx) (bit : Nat → Fld) (count : Bool) : State :=
  let s := if count then s.engineErr n 1 stCHECK_FAIL bit else s
  let s := s.note n stCHECK_FAIL 4
  let a := s.keepDeliver n k (badBytes (blockRaw k.len k.block))
  a.1.afterSlot n a.2

/-- Bytes of the skein from `off` for an unpack, when those that far tiers supply are in hand. -/
def State.skRead (s : State) (n : Nat) (k : SkeinCtx) (off len : Nat) : Option Got :=
  let a := s.skAddr k off
  if s.lacks n k [(a, len)] then none else some (s.readFor n k.seq a len k.asked k.have_)

/-- A block whose header and payload have been read. -/
def State.decodeBlock (s : State) (n : Nat) (k : SkeinCtx) (h pay : List MByte) (base : List MByte) : State :=
  let exp := blockRaw k.len k.block
  let hb := h.map (·.1)
  let pb := pay.map (·.1)
  let next := { k with coded := k.coded + 32 + pay.length }
  if !blockIntact h pay then s.deliverBad n next R.SKEIN_ERR_BLOCK_FAIL true
  else
    let g := k.geo
    let v := if k.profile = 1 then s.storeView n k (g.heldParts (65536 * k.block)) (65536 * k.block) else ⟨s, [], false, []⟩
    let s := v.st
    let got : Option (List MByte) :=
      if k.profile = 1 then decodeA g (g.storeMarks k.bad v.data) hb pb k.block exp
      else (decodePlain hb pb (base.map (·.1)) k.width k.block exp).map (fun l =>
        (upTo l.length).map (fun j => (l.getD j 0, (base.getD j (0, false)).2)))
    match got with
    | none => s.deliverBad n next R.SKEIN_ERR_BLOCK_FAIL true
    | some l =>
      let s := if base.any (·.2) then s.note n stPOISON_IN 4 else s
      let a := s.keepDeliver n next l
      a.1.afterSlot n a.2

/-- The next block of an unpack whose header has passed (R154, R156, R184). -/
def State.decodeNext (s : State) (n : Nat) (k : SkeinCtx) : State :=
  let exp := blockRaw k.len k.block
  if k.stash.isSome && !s.wasStored k then s.deliverBad n { k with lost := true } R.SKEIN_ERR_BLOCK_FAIL true
  else
    let ha := s.skAddr k k.coded
    match s.skRead n k k.coded 32 with
    | none => s.waitFar n k [(ha, 32)]
    | some g =>
      let hb := g.data.map (·.1)
      if loses g.data k.block exp then
        g.st.deliverBad n { k with lost := true, have_ := [], asked := [] } R.SKEIN_ERR_BLOCK_FAIL true
      else
        let pl := fieldLe hb 8 4
        let pa := s.skAddr k (k.coded + 32)
        let based := k.profile == 3 && k.refKind == 1 && readsBase hb
        let ba := (k.base + 65536 * k.block) % 2 ^ 52
        let ranges := (pa, pl) :: (if based then [(ba, exp)] else [])
        if s.lacks n k ranges then s.waitFar n k ranges
        else
          let gp := g.st.readFor n k.seq pa pl k.asked k.have_
          let gb := if based then gp.st.readFor n k.seq ba exp k.asked k.have_ else ⟨gp.st, [], false, []⟩
          gb.st.decodeBlock n { k with have_ := [], asked := [] } g.data gp.data gb.data

/-- A skein header that arrived for an unpack: checked, then block 0 follows (R154, R187). -/
def State.decodeHeader (s : State) (n : Nat) (k : SkeinCtx) (h : List MByte) : State :=
  let p := parseHdr (h.map (·.1))
  let ok := s.headerOk k h
  let k := { k with headed := true, coded := 32, have_ := [], asked := [] }
  if k.len = 0 then
    let s := if ok then s else (s.engineErr n 1 stCHECK_FAIL R.SKEIN_ERR_HDR_FAIL).note n stCHECK_FAIL 4
    s.closeSk n k
  else if !ok then s.deliverBad n { k with lost := true } R.SKEIN_ERR_HDR_FAIL true
  else
    let k := { k with refKind := p.refKind, base := p.ref, ref := if k.profile = 1 then p.ref else k.ref
                      pword := if k.profile = 1 then p.pword else k.pword }
    (s.setSk n k).decodeNext n k

/-- One decode slot (R154, R156, R184 to R187); a port without credits for the block lets the slot pass idle (R350). -/
def State.decodeSlot (s : State) (n : Nat) (k : SkeinCtx) : State :=
  let exp := blockRaw k.len k.block
  if 0 < k.len ∧ isPort k.dst ∧ !s.portFits (portOf k.dst) ((k.dst + 65536 * k.block) % 2 ^ 48) exp then s
  else if k.lost then s.deliverBad n k R.SKEIN_ERR_BLOCK_FAIL false
  else if k.headed then s.decodeNext n k
  else if k.stash.isSome && !s.wasStored k then
    (if k.len = 0 then s.closeSk n k else s.deliverBad n { k with lost := true } R.SKEIN_ERR_HDR_FAIL true)
  else match s.skRead n k 0 32 with
    | none => s.waitFar n k [(s.skAddr k 0, 32)]
    | some g => g.st.decodeHeader n k g.data

/-! ## Commands -/

/-- Whether a physical mover serves the stream's logical one: no other touches the stream (R195, R416). -/
def State.moverServed (s : State) (n : Nat) : Bool := !s.fault.unserved.contains (0x3000 + s.rf (R.STREAM_CTL_MOVER n))

/-- Whether a stream may step now: a plan stream in plan time outside a pause (R231, R249); anything only in READY and RUN. -/
def State.mayRun (s : State) (n : Nat) : Bool :=
  decide (2 ≤ s.rf R.PWR_STATE_STATE) && s.moverServed n && ((s.str n).host || s.slotTime)

/-- Whether a stream's skein may take a slot: one that is stopping takes its last whenever it comes (R223), one whose SEAL has begun takes
all that are left whatever stops the plan (R226). -/
def State.maySlot (s : State) (n : Nat) : Bool :=
  (s.mayRun n && (s.sst n == ssRUN || s.sst n == ssWAIT))
    || (decide (2 ≤ s.rf R.PWR_STATE_STATE) && (s.sst n == ssSTOPPING || (s.sealing n && s.sst n == ssWAIT && s.moverServed n)))

/-- The host-held lines under the raw and coded ranges of a host stream's skein, its base and its working store (R280). -/
def State.skeinLines (s : State) (n : Nat) (k : SkeinCtx) : List Nat :=
  let raw := fun a => (a, k.len)
  let packed := fun a => (a, packMax k.len)
  let src := if k.dir = 0 then raw k.src else packed k.src
  let dst := if k.dir = 0 then packed (k.dst % 2 ^ 52) else raw (k.dst % 2 ^ 52)
  let base := if k.profile = 3 ∧ k.dir = 0 ∧ k.ref ≠ 0 then [raw k.ref] else if k.profile = 3 ∧ k.dir = 1 ∧ k.refKind = 1 then [raw k.base] else []
  let store := if k.profile = 1 then [(s.storeOA n, k.storeBytes)] else []
  s.linesFor n (src :: (if isPort k.dst then [] else [dst]) ++ base ++ store)

/-- One slot of a skein, by its direction. -/
def State.slotOf (s : State) (n : Nat) (k : SkeinCtx) : State := if k.dir = 0 then s.encodeSlot n k else s.decodeSlot n k

/-- One slot of the pipeline on which a stream's skein is. -/
def State.skeinSlot (s : State) (n : Nat) (k : SkeinCtx) : State :=
  let a := s.enterEng n k
  a.1.slotOf n a.2

/-- Whether a slot of a skein did work: its context has gone on, or has closed. -/
def slotRan (k : SkeinCtx) (after : Option SkeinCtx) : Bool :=
  match after with
  | none => true
  | some x => x.slots != k.slots || x.headed != k.headed

/-- Bytes of an unpack's skein that its next block takes: its header, before block 0 the skein's, and the payload it names. -/
def State.nextCoded (s : State) (n : Nat) (k : SkeinCtx) : Nat :=
  let at_ := if k.headed then k.coded else 32
  (at_ - k.coded) + (if k.len = 0 ∨ k.lost then 0 else match s.skRead n k at_ 32 with
    | none => 32
    | some g => 32 + min (fieldLe (g.data.map (·.1)) 8 4) 65536)

/-- The loads of a slot that has run: one slot of the engine, the raw side and the coded side; what lies in the spill tier travels in
spill-flagged slots (R178, R207, R242, R244). -/
def State.slotLoad (s : State) (n : Nat) (k : SkeinCtx) (after : State) : List Load :=
  let eng := match s.engineOf n k.dir with | some l => [((0x7 + k.dir) * 4096 + l, 1)] | none => []
  let exp := blockRaw k.len k.block
  let wrote := after.rf (R.STREAM_DONE_BYTES n) - s.rf (R.STREAM_DONE_BYTES n)
  let ent : Option (StashEnt × StashInst) := match k.stash with
    | none => none
    | some (tid, mb) => (s.stashTable.find? (fun e => e.tid == tid)).map (fun e => (e, (s.instOf tid mb).getD (e.inst mb)))
  let rd := fun (a lo hi : Nat) => grown (fun m => s.oaLoad (a % 2 ^ 52) m false) lo hi
  let wr := fun (a lo hi : Nat) => grown (fun m => s.putLoad a m) lo hi
  if k.dir = 0 then
    let need := if k.idles then (0, 0) else k.needRaw
    let base := if k.profile = 3 ∧ k.ref ≠ 0 then rd k.ref (65536 * k.block) (65536 * k.block + exp) else []
    let out := match ent with
      | none => ownedBy n (wr k.dst k.coded (k.coded + wrote))
      | some (e, i) =>
        let far := after.led.spill - s.led.spill
        ownedBy n (wr (e.homeAt i.mb) i.home (i.home + (wrote - far))) ++ ownedBy (0x8000 + n) (wr (e.spillAt i.mb) i.spill (i.spill + far))
    ownedBy n (eng ++ rd k.src need.1 (need.1 + need.2) ++ base) ++ out
  else
    let lo := if k.headed then k.coded else 0
    let hi := lo + s.nextCoded n k
    let base := if k.profile = 3 ∧ k.refKind = 1 then rd k.base (65536 * k.block) (65536 * k.block + exp) else []
    let src := match ent with
      | none => ownedBy n (rd k.src lo hi)
      | some (e, i) =>
        ownedBy n (rd (e.homeAt i.mb) (min lo i.home) (min hi i.home))
          ++ ownedBy (0x8000 + n) (rd (e.spillAt i.mb) (lo - i.home) (hi - i.home))
    ownedBy n (eng ++ base ++ wr k.dst (65536 * k.block) (65536 * k.block + wrote)) ++ src

/-- A slot of a skein in the slots that its stream owns: the row moves on to the tick by which they have carried it; with none left on
some resource of its path nothing has moved, and a stream that stands at its MOVEX waits for a slot (R186, R244, R248); one that has gone on
keeps the wait of the instruction at which it stands. -/
def State.runSlot (s : State) (n : Nat) (k : SkeinCtx) : State :=
  let r := s.skeinSlot n k
  if !s.slotted n || !slotRan k (r.str n).sk then r
  else match s.claimFor n (s.slotLoad n k r) with
    | none => if s.sst n = ssWAIT ∧ uOp (s.unit n) = opMOVEX then s.setSst n ssWAIT wtSLOT else s
    | some c => ((s.useSlots n c.1).toTick c.2).skeinSlot n k

/-- SKEIN_ENCODE_SLOT (R179): one encode slot of a stream's skein; without slots the stream waits (R186, R369). -/
def execSkeinEncodeSlot (n : Fin 16384) (s : State) : Res :=
  .next (match (s.str n.val).sk with
    | none => s
    | some k => if k.dir != 0 || !s.maySlot n.val || (s.engineOf n.val 0).isNone then s
      else if !(s.skeinLines n.val k).isEmpty then s.invalidate (s.skeinLines n.val k)
      else s.runSlot n.val k)

/-- SKEIN_DECODE_SLOT (R184). -/
def execSkeinDecodeSlot (n : Fin 16384) (s : State) : Res :=
  .next (match (s.str n.val).sk with
    | none => s
    | some k => if k.dir != 1 || !s.maySlot n.val || (s.engineOf n.val 1).isNone then s
      else if !(s.skeinLines n.val k).isEmpty then s.invalidate (s.skeinLines n.val k)
      else s.runSlot n.val k)

end Sys2Proof.Machine
end

