-- ==== Sys2Proof/Machine/Streams.lean ====
section
/-! DEFINITION. Machine/Streams.lean: the Nitas instructions, block completion, barriers (R195 to R229, R247 to R250, R396). A stream
command runs the unit at the stream's PC when that unit is its instruction and the stream may step. -/

namespace Sys2Proof.Machine

/-! ## Stepping -/

/-- The PC moved past an instruction; a sealed stream stays SEALED (R203). -/
def State.passInstr (s : State) (n : Nat) : State :=
  let s := s.set (R.STREAM_RUN_PC n) (s.rf (R.STREAM_RUN_PC n) + unitsOfInstr (s.unit n))
  s.setSst n (if s.sst n = ssSEALED then ssSEALED else ssRUN) wtNONE

/-- A stream waits with a cause. -/
def State.waitOn (s : State) (n w : Nat) : State := s.setSst n (if s.sst n = ssSEALED then ssSEALED else ssWAIT) w

/-- Whether a stream stands at an instruction and may run it. -/
def State.atOp (s : State) (n op : Nat) : Bool :=
  s.mayRun n && (s.sst n == ssRUN || s.sst n == ssWAIT || s.sst n == ssSEALED)
    && decide (16 * s.rf (R.STREAM_RUN_PC n) < (s.progOf n).length) && uOp (s.unit n) == op

/-- Whether a stream has nothing in flight: no block, no skein, and no posted write that still waits to be issued to the host link (R215,
R217, R380). -/
def State.quiet (s : State) (n : Nat) : Bool :=
  (s.str n).blocks.isEmpty && (s.str n).sk.isNone && !s.holds n

/-- A stream whose program is empty seals and ends at once with STATUS OK and the check value of no bytes (R219), and what its seal
releases is released (R49). -/
def State.runEmpty (s : State) (n : Nat) : State :=
  (((s.set (R.STREAM_RUN_STATUS n) stOK).set (R.STREAM_LOOP_CHECK n) 0).endStr n).releaseStash

/-- A stream enters RUN at PC 0; an empty program ends at once. -/
def State.startStr (s : State) (n : Nat) : State :=
  let s := (s.set (R.STREAM_RUN_PC n) 0).setSst n ssRUN wtNONE
  let s := s.setStr n { s.str n with ran := true }
  if (s.progOf n).isEmpty then s.runEmpty n else s

/-! ## Blocks (R196, R199, R205, R206, R208) -/

/-- Blocks in flight on a logical mover. -/
def State.moverLoad (s : State) (m : Nat) : Nat :=
  (s.usedCtx.filter (fun c => s.rf (R.STREAM_CTL_MOVER c) == m)).foldl
    (fun a c => a + (s.str c).blocks.length + (if (s.str c).sk.isSome then 1 else 0)) 0

/-- Blocks and skein a stream has in flight. -/
def State.inFlight (s : State) (n : Nat) : Nat := (s.str n).blocks.length + (if (s.str n).sk.isSome then 1 else 0)

/-- The destination ranges of a skein: raw bytes at DST; what a pack may write there, for an instance its home and its spill region, for
a probe that stores nothing none (R196, R201). -/
def State.skeinRanges (s : State) (n dir dst len mb : Nat) : List (Nat × Nat) :=
  if dir = 1 then [(dst, len)]
  else match s.skeinEnt n mb dst true with
    | none => [(dst, packMax len)]
    | some e => if e.packed then [(e.homeAt mb, e.budget), (e.spillAt mb, e.allow)] else []

/-- The destination ranges that a stream has in flight. -/
def State.flightRanges (s : State) (n : Nat) : List (Nat × Nat) :=
  (s.str n).blocks.map (fun b => (b.dst, b.len)) ++ (match (s.str n).sk with
    | some k => s.skeinRanges n k.dir k.dst k.len k.mb
    | none => [])

/-- Whether a destination range overlaps one of the stream's own in flight. -/
def State.overlaps (s : State) (n : Nat) (rs : List (Nat × Nat)) : Bool :=
  (s.flightRanges n).any (fun x => rs.any (fun r => decide (x.1 < r.1 + r.2) && decide (r.1 < x.1 + x.2)))

/-- Whether a block may start now (R196). -/
def State.roomFor (s : State) (n : Nat) (rs : List (Nat × Nat)) : Bool :=
  decide (s.inFlight n < s.rf (R.STREAM_CTL_INFLIGHT n)) && decide (s.moverLoad (s.rf (R.STREAM_CTL_MOVER n)) < 6)
    && !s.overlaps n rs

/-- A block put in flight; far parts of its source are asked for, where it is not the output of a segment that it carries. -/
def State.launchBlock (s : State) (n : Nat) (b : Block) : State :=
  let l := if b.inHand || (s.frogOf n b.mb).isSome then [] else s.missing (s.strWho n b.seq) [] b.src b.len
  let s := s.askFar n b.seq l
  let x := s.str n
  let s := s.setStr n { x with blocks := x.blocks ++ [{ b with asked := l, owed := pieceBytes l }] }
  { s with led := { s.led with blkIn := s.led.blkIn + 1 } }

/-- Entry k of a MOVE or MOVEX with its offsets added (R205). -/
def State.moveEntry (s : State) (n k : Nat) : Entry :=
  let u := s.unit n
  let e := entryAt (s.listOf n) (fieldLe u 4 4 + k)
  { e with src := if uFlag u 0 then addOffset e.src (s.rf (R.STREAM_AD0_AD0 n)) else e.src
           dst := if uFlag u 1 then addOffset e.dst (s.rf (R.STREAM_AD1_AD1 n)) else e.dst }

/-- Whether a block of a stream waits for credits of its port: the next burst of the bytes in hand cannot go (R350). -/
def State.lacksCredit (s : State) (n : Nat) : Bool :=
  (s.str n).blocks.any (fun b => b.inHand && isPort b.dst && (match burstsOf (b.dst % 2 ^ 48) b.data with
    | x :: _ => !s.canSend (portOf b.dst) (granuleCount x.1 x.2.length)
    | [] => false))

/-- Blocks of a MOVE started in entry order while there is room, with fuel. -/
def State.moveGo (s : State) (n : Nat) : Nat → State
  | 0 => s
  | fuel + 1 =>
    let c := s.rf (R.STREAM_AD0_CURSOR n)
    if fieldLe (s.unit n) 2 2 ≤ c then s.passInstr n
    else
      let e := s.moveEntry n c
      if e.len = 0 then
        let (q, s) := s.takeSeq n
        ((s.doneSeq n q []).set (R.STREAM_AD0_CURSOR n) (c + 1)).moveGo n fuel
      else if !s.roomFor n [(e.dst, e.len)] then s.waitOn n (if s.lacksCredit n then wtSLOT else wtBLOCKS)
      else if s.rf R.HQ_LINK_BME = 0 ∧ s.missing (s.strWho n (s.str n).nextSeq) [] (e.src % 2 ^ 52) e.len ≠ [] then s.waitOn n wtSLOT
      else match s.claimFor n (s.blockLoad n e.src e.dst e.len) with
        | none => s.waitOn n wtSLOT
        | some c' =>
          let (q, s) := (s.useSlots n c'.1).takeSeq n
          let b : Block := ⟨q, s.rf (R.STREAM_RUN_PC n), opMOVE, e.src % 2 ^ 52, e.dst, e.len, e.mb, e.kind == 1, [], 0, false, [], c'.2, []⟩
          ((s.launchBlock n b).set (R.STREAM_AD0_CURSOR n) (c + 1)).moveGo n fuel

/-- A MOVE or MOVEX begins: CURSOR 0, and the bytes that an abort would leave unwritten. -/
def State.beginMove (s : State) (n : Nat) : State :=
  if s.sst n = ssWAIT then s
  else
    let s := s.set (R.STREAM_AD0_CURSOR n) 0
    let u := s.unit n
    let total := if uOp u = opMOVE then (upTo (fieldLe u 2 2)).foldl (fun a k => a + (entryAt (s.listOf n) (fieldLe u 4 4 + k)).len) 0 else 0
    s.setStr n { s.str n with residue := total, moveSeq := (s.str n).nextSeq }

/-- MOVE (R205). -/
def execMove (n : Fin 16384) (s : State) : Res :=
  .next (if s.atOp n.val opMOVE then (s.beginMove n.val).moveGo n.val 65536 else s)

/-- The next skein of a MOVEX taken in hand (R201, R207); its context opens with the first slot that its engine gives it. -/
def State.openSkein (s : State) (n : Nat) (e : Entry) : State :=
  let u := s.unit n
  let dir := if uFlag u 2 then 1 else 0
  let ent := s.skeinEnt n e.mb (if dir = 0 then e.dst else e.src) (dir == 0)
  let tied := ent.isSome
  let wrong := !tied && !(s.skeinEnts n (dir == 0)).isEmpty
  let (q, s) := s.takeSeq n
  if wrong then (s.note n stBAD_ARG 0x0A).doneSeq n q []
  else if dir = 0 ∧ tied ∧ e.len = 0 then
    let s := match ent with
      | some x => { s with stash := s.stash.putInst { (s.instOf x.tid e.mb).getD (x.inst e.mb) with whole := true } 0 0 }
      | none => s
    s.doneSeq n q []
  else
    let k : SkeinCtx :=
      { dir := dir, profile := fieldLe u 8 1, width := fieldLe u 9 1, pword := fieldLe u 12 4, src := e.src % 2 ^ 52, dst := e.dst
        len := e.len, mb := e.mb, ref := e.ref, seq := q, block := 0, coded := 0, headed := false, lost := false, marked := false
        refKind := 0, base := 0, bad := [], landed := 0, image := [], slots := 0, eng := none, have_ := [], owed := 0, out := []
        stash := ent.map (fun x => (x.tid, e.mb)), asked := [] }
    let s := s.setSk n k
    { s with led := { s.led with skIn := s.led.skIn + 1 } }

/-- Whether a stream's skein has not had its first slot yet: it has no context on an engine. -/
def State.slotless (s : State) (n : Nat) : Bool := (s.str n).sk.isSome && (s.openEng n).isNone

/-- Skeins of a MOVEX opened one after another, with fuel; it passes when its last skein has been started on an engine, and waits for a
slot until then (R186, R205, R207, R369). -/
def State.movexGo (s : State) (n : Nat) : Nat → State
  | 0 => s
  | fuel + 1 =>
    let c := s.rf (R.STREAM_AD0_CURSOR n)
    if fieldLe (s.unit n) 2 2 ≤ c then (if s.slotless n then s.waitOn n wtSLOT else s.passInstr n)
    else
      let e := s.moveEntry n c
      if (s.str n).sk.isSome then s.waitOn n wtSLOT
      else if !s.roomFor n (s.skeinRanges n (if uFlag (s.unit n) 2 then 1 else 0) e.dst e.len e.mb) then s.waitOn n wtBLOCKS
      else ((s.openSkein n e).set (R.STREAM_AD0_CURSOR n) (c + 1)).movexGo n fuel

/-- MOVEX (R207). -/
def execMovex (n : Fin 16384) (s : State) : Res :=
  .next (if s.atOp n.val opMOVEX then (s.beginMove n.val).movexGo n.val 65536 else s)

/-- INLINE (R208). -/
def execInline (n : Fin 16384) (s : State) : Res :=
  .next (if !s.atOp n.val opINLINE then s
    else
      let u := s.unit n.val
      let len := fieldLe u 2 1
      let d := fieldLe u 8 8
      let dst := if uFlag u 1 then addOffset d (s.rf (R.STREAM_AD1_AD1 n.val)) else d
      if len = 0 then
        let (q, s) := s.takeSeq n.val
        (s.doneSeq n.val q []).passInstr n.val
      else if !s.roomFor n.val [(dst, len)] then s.waitOn n.val wtBLOCKS
      else match s.claimFor n.val (ownedBy n.val (s.putLoad dst len)) with
        | none => s.waitOn n.val wtSLOT
        | some c =>
          let (q, s) := (s.useSlots n.val c.1).takeSeq n.val
          let data := clean (sliceB (s.progOf n.val) (16 * (s.rf (R.STREAM_RUN_PC n.val) + 1)) len)
          let b : Block := ⟨q, s.rf (R.STREAM_RUN_PC n.val), opINLINE, 0, dst, len, 0, false, data, 0, true, [], c.2, []⟩
          (s.launchBlock n.val b).passInstr n.val)

/-! ## Completion of a block -/

/-- How far the walk of R206 vouches for a skein held in bytes: the length it finds, or where it stopped. DESIGN CHOICE: a block whose header
is consistent but whose payload runs past the bytes is not vouched for from its header's first byte on, as a block with a bad header is; the
spec does not say from where (log entry 234). -/
def walkSkein (l : List MByte) : Nat → Nat → Nat → Nat → Nat × Bool
  | 0, pos, _, _ => (pos, true)
  | fuel + 1, pos, i, len =>
    if blockCount len ≤ i then (pos, true)
    else
      let h := (l.drop pos).take 32
      let pay := fieldLe (h.map (·.1)) 8 4
      if h.length < 32 ∨ h.any (·.2) ∨ !blockConsistent (h.map (·.1)) i (blockRaw len i) ∨ l.length < pos + 32 + pay then (pos, false)
      else walkSkein l fuel (pos + 32 + pay) (i + 1) len

/-- A skein copied as stored (R206): its bytes, marked from the first that the walk cannot vouch for. -/
def copySkein (l : List MByte) : List MByte × Bool :=
  let h := l.take 32
  if h.length < 32 ∨ h.any (·.2) ∨ !hdrFormOk (h.map (·.1)) then (l.map (fun b => (b.1, true)), false)
  else
    let len := (parseHdr (h.map (·.1))).rawLen
    let w := walkSkein l (blockCount len + 1) 32 0 len
    if w.2 then (l.take w.1, true)
    else ((upTo l.length).map (fun i => let b := l.getD i (0, false); (b.1, b.2 || decide (w.1 ≤ i))), false)

/-- Rows of a segment's output taken by its fetch stream, in position order (R95). -/
def State.takeOut (s : State) (n : Nat) (b : Block) (e : StashEnt) : State × List MByte :=
  let t := s.outTaken e.tid b.mb
  let l := ((s.outBytes e.tid b.mb e.slices).drop t).take b.len
  let s := { s with clu := { s.clu with taken := SMap.put (fun _ => 0) s.clu.taken (e.tid * 256 + b.mb) (t + b.len) } }
  (if l.any (·.2) then s.note n stPOISON_IN 4 else s, l)

/-- Whether a block waits for rows that no segment has delivered yet. -/
def State.outWaits (s : State) (n : Nat) (b : Block) : Bool :=
  b.op == opMOVE && !b.inHand && (match s.frogOf n b.mb with
    | none => false
    | some e => decide ((s.outBytes e.tid b.mb e.slices).length < s.outTaken e.tid b.mb + b.len))

/-- A block's bytes read from where SRC lies, with the status they make (R206, R253). -/
def State.readSource (s : State) (n : Nat) (b : Block) : State × List MByte :=
  if b.skein then
    let raw := s.readFor n b.seq b.src b.len b.asked b.data
    let w := copySkein raw.data
    let g := s.readFor n b.seq b.src w.1.length b.asked b.data
    let s := if w.2 then g.st else g.st.note n stCHECK_FAIL 4
    (if g.data.any (·.2) then s.note n stPOISON_IN 4 else s, w.1)
  else
    let g := s.readFor n b.seq b.src b.len b.asked b.data
    (if g.data.any (·.2) && !g.refused then g.st.note n stPOISON_IN 4 else g.st, g.data)

/-- A block's bytes: the output of a segment for the fetch stream of a FROG entry, else what SRC holds. -/
def State.readBlock (s : State) (n : Nat) (b : Block) : State × List MByte :=
  match s.frogOf n b.mb with
  | some e => s.takeOut n b e
  | none => s.readSource n b

/-- A block leaves the flight with the bytes it wrote. -/
def State.retireBlock (s : State) (n : Nat) (b : Block) (l : List Byte) : State :=
  let x := s.str n
  let s := s.setStr n { x with blocks := x.blocks.filter (fun y => y.seq != b.seq)
                               residue := if b.op = opMOVE ∧ x.moveSeq ≤ b.seq then x.residue - l.length else x.residue }
  let s := { s with led := { s.led with blkOut := s.led.blkOut + 1 } }
  let s := (s.addBytes n l.length).doneSeq n b.seq l
  let s := match (if b.op = opMOVE then s.stashOf n b.mb (b.dst % 2 ^ 52) else none) with
    | some e => s.stashRaw e b.mb l.length
    | none => s
  s.tryClose n

/-- A block of a MOVE that turns out shorter than its LENGTH: the rest of a skein's room is no part of the residue (R206, R224). -/
def State.shorten (s : State) (n : Nat) (b : Block) (len : Nat) : State :=
  let x := s.str n
  if b.op = opMOVE ∧ x.moveSeq ≤ b.seq ∧ len < b.len then s.setStr n { x with residue := x.residue - (b.len - len) } else s

/-- A block cut short by an abort: the bursts written before it are a free value (R224). -/
def State.cutBlock (s : State) (n : Nat) (b : Block) (l : List MByte) : State × List MByte :=
  if (s.str n).host && s.sst n == ssSTOPPING && s.rf (R.STREAM_RUN_STATUS n) == stABORTED then
    let bs := burstsOf (b.dst % 2 ^ 48) l
    let (v, s) := s.fresh
    (s, ((bs.take (v % (bs.length + 1))).map (·.2)).flatten)
  else (s, l)

/-- A block's bytes written: to an OA at once, to a port burst by burst while credits last; a stream that waits for the block then waits for
credits (R350). -/
def State.writeBlock (s : State) (n : Nat) (b : Block) (l : List MByte) : State :=
  if isPort b.dst then
    let a := s.putPort n (portOf b.dst) (burstsOf (b.dst % 2 ^ 48) l)
    let left := (a.2.map (·.2)).flatten
    let sent := l.take (l.length - left.length)
    if left.isEmpty then a.1.retireBlock n b ((b.out ++ sent).map (·.1))
    else
      let dst := b.dst / 2 ^ 48 * 2 ^ 48 + (b.dst % 2 ^ 48 + sent.length) % 2 ^ 48
      let c := a.1.claimFor n (ownedBy n (a.1.putLoad dst left.length))
      let b' := { b with data := left, inHand := true, dst := dst, len := left.length, out := b.out ++ sent
                         due := match c with | some c => c.2 | none => b.due }
      let s := match c with | some c => a.1.useSlots n c.1 | none => a.1
      let x := s.str n
      let s := s.setStr n { x with blocks := x.blocks.map (fun y => if y.seq == b.seq then b' else y) }
      if s.sst n = ssWAIT ∧ s.rf (R.STREAM_RUN_WAIT n) = wtBLOCKS then s.waitOn n wtSLOT else s
  else (s.putOA n b.seq (b.dst % 2 ^ 52) l).retireBlock n b (l.map (·.1))

/-- The row at the tick by which a block's slots have carried it; in a pause it completes in FW slots (R236, R243, R249). -/
def State.carried (s : State) (n : Nat) (b : Block) : State := if s.slotted n then s.toTick b.due else s

/-- Pieces of a block that lie in far tiers and have not been asked for are, unless Bus Master Enable is clear (R228, R260, R380). -/
def State.askMore (s : State) (n : Nat) (b : Block) : State :=
  let l := s.missing (s.strWho n b.seq) b.asked b.src b.len
  if s.rf R.HQ_LINK_BME = 0 ∨ l = [] then s
  else
    let s := s.askFar n b.seq l
    let x := s.str n
    s.setStr n { x with blocks := x.blocks.map (fun c =>
      if c.seq == b.seq then { c with asked := c.asked ++ l, owed := c.owed + pieceBytes l } else c) }

/-- Whether a block still waits for far bytes: some are on their way, or its source has come to lie in a far tier since it was launched. -/
def State.lacksFar (s : State) (n : Nat) (b : Block) : Bool :=
  (s.frogOf n b.mb).isNone && (decide (b.data.length < b.owed) || !(s.missing (s.strWho n b.seq) b.asked b.src b.len).isEmpty)

/-- Data that KN40 finds uncorrectable as it is read (R413): the 64-byte accesses of HBM and on-die memory, named by OA, among those that a
range reads, are marked and flow on (R429); the stored mark stays until it is rewritten (R430). -/
def State.markErrors (s : State) (oas : List Nat) (oa n : Nat) : State :=
  (oas.filter (fun a => decide (oa / 64 * 64 ≤ a) && decide (a < oa + n))).foldl (fun (s : State) a =>
    match s.entOf (s.selPage (a / 2 ^ 21) false) with
    | none => s
    | some e => if s.tierOf (e.page * 2 ^ 21) < 2 then { s with marks := NSet.ins ((e.page * 2 ^ 21 + a % 2 ^ 21) / 64) s.marks } else s) s

/-- BLOCK_COMPLETE (R196, R221 to R223, R234, R253, R413): a block in flight whose far bytes have arrived and whose slots have passed completes
at its destination. The block of a stopping stream that carries the output of segments which were ended with the plan completes with no
bytes: no row of it will come (log entry 233). -/
def execBlockComplete (n : Fin 16384) (w : Transfer) (s : State) : Res :=
  .next (match (s.str n.val).blocks.find? (fun b => b.seq == w.seq) with
    | none => s
    | some b =>
      let ls := s.linesFor n.val ((if b.inHand then [] else [(b.src, b.len)]) ++ (if isPort b.dst then [] else [(b.dst % 2 ^ 52, b.len)]))
      if decide (s.rf R.PWR_STATE_STATE < 2) || (!s.moverServed n.val && s.sst n.val != ssSTOPPING) then s
      else if !ls.isEmpty then s.invalidate ls
      else if b.inHand then
        let a := (s.carried n.val b).cutBlock n.val b b.data
        a.1.writeBlock n.val b a.2
      else if s.outWaits n.val b then
        (if s.sst n.val = ssSTOPPING ∧ s.clu.left.isEmpty ∧ s.clu.running.isEmpty then s.retireBlock n.val b [] else s)
      else if s.lacksFar n.val b then s.askMore n.val b
      else
        let r := ((s.markErrors w.bad (b.src % 2 ^ 52) b.len).carried n.val b).readBlock n.val b
        let a := (r.1.shorten n.val b r.2.length).cutBlock n.val b r.2
        a.1.writeBlock n.val b a.2)

/-! ## Control (R209 to R214) -/

/-- The units that a plan stream puts to use: its mover group and the engines on which it owns slots (R189, R443). -/
def State.unitsOf (s : State) (n : Nat) : List Nat :=
  (0x7000 + s.groupOf n) :: ((upTo 2).filterMap (fun d => (schEngine s.schedule (7 + d) n).map (fun l => 0x2000 + s.engineWin l)))

/-- STREAM_START (R203): an ARMED plan stream begins at C + START + slip. -/
def execStreamStart (n : Fin 16384) (s : State) : Res :=
  .next (if (s.str n.val).host || s.sst n.val != ssARMED || !s.mayRun n.val || !s.runSet.contains n.val then s
    else ((s.advance (s.planC + s.rf (R.STREAM_TIME_START n.val) + s.step.slip)).useUnits (s.unitsOf n.val)).startStr n.val)

/-- Loop depth before a unit: LOOPs less ENDLOOPs among the instructions that begin before it, with fuel. -/
def loopDepth (prog : List Byte) (pc : Nat) : Nat → Nat → Nat → Nat
  | 0, _, d => d
  | fuel + 1, k, d =>
    if pc ≤ k then d
    else
      let u := unitAt prog k
      loopDepth prog pc fuel (k + unitsOfInstr u) (if uOp u = opLOOP then d + 1 else if uOp u = opENDLOOP then d - 1 else d)

/-- The counter of a loop at a nesting depth (R209). -/
def loopF (n depth : Nat) : Fld := if depth = 0 then R.STREAM_LOOP_LOOP0 n else R.STREAM_LOOP_LOOP1 n

/-- The loop depth where a stream stands. -/
def State.depthAt (s : State) (n : Nat) : Nat :=
  loopDepth (s.progOf n) (s.rf (R.STREAM_RUN_PC n)) (s.rf (R.STREAM_RUN_PC n) + 1) 0 0

/-- LOOP (R209). -/
def execLoop (n : Fin 16384) (s : State) : Res :=
  .next (if !s.atOp n.val opLOOP then s
    else
      let u := s.unit n.val
      let pc := s.rf (R.STREAM_RUN_PC n.val)
      if fieldLe u 2 2 = 0 then (s.set (R.STREAM_RUN_PC n.val) (pc + fieldLe u 4 2 + 2)).setSst n.val ssRUN wtNONE
      else (s.set (loopF n.val (s.depthAt n.val)) (fieldLe u 2 2)).passInstr n.val)

/-- ENDLOOP (R209). -/
def execEndloop (n : Fin 16384) (s : State) : Res :=
  .next (if !s.atOp n.val opENDLOOP then s
    else
      let f := loopF n.val (s.depthAt n.val - 1)
      let pc := s.rf (R.STREAM_RUN_PC n.val)
      let c := s.rf f - 1
      let s := s.set f c
      if c = 0 then s.passInstr n.val
      else (s.set (R.STREAM_RUN_PC n.val) (pc - fieldLe (s.unit n.val) 2 2)).setSst n.val ssRUN wtNONE)

/-- PACE_RECV - PACE_USED as a signed 16-bit difference (R210). -/
def State.paceDiff (s : State) (n : Nat) : Int :=
  signed 16 ((s.rf (R.STREAM_RUN_PACE_RECV n) + 65536 - s.rf (R.STREAM_RUN_PACE_USED n)) % 65536)

/-- A count added to that of a line, a new line behind the others. -/
def addRet (l : List (Nat × Nat)) (line k : Nat) : List (Nat × Nat) :=
  if l.any (fun e => e.1 == line) then l.map (fun e => if e.1 = line then (line, e.2 + k) else e) else l ++ [(line, k)]

/-- Pace credits of a line that are due to the die, as far as the die has spent them since the last bring-up: the returns of one line are
combined (R346). -/
def State.gatherPace (s : State) (p line k : Nat) : State :=
  let x := s.port p
  let spent := SMap.get (fun _ => 0) x.pace line
  if min k spent = 0 then s
  else
    (s.setPort p { x with pace := SMap.put (fun _ => 0) x.pace line (spent - k), paceRet := addRet x.paceRet line (min k spent) }).give
      (poolPace p line) (min k spent)

/-- The PCREDs of the lines with credits due, the one that has waited longest first, when the port is up (R346, R354). -/
def State.sendPcreds (s : State) (p : Nat) : State :=
  if s.portUp p then
    let x := s.port p
    x.paceRet.foldl (fun (s : State) (e : Nat × Nat) => s.emit (.kpp p kPCRED e.1 e.2 [])) (s.setPort p { x with paceRet := [] })
  else s

/-- Pace credits of a line returned to the die (R346). -/
def State.returnPace (s : State) (p line k : Nat) : State := (s.gatherPace p line k).sendPcreds p

/-- Pace credits of a stream's line that no request waiting for it carries any more return to the die: the oldest requests are consumed
first, and one held over a bind-off has returned its credit at the restore (R346; log entry 223). -/
def State.settlePace (s : State) (n : Nat) : State :=
  let pace := s.rf (R.STREAM_TIME_PACE n)
  let spent := SMap.get (fun _ => 0) (s.port (pace / 16384)).pace (pace % 16384)
  s.returnPace (pace / 16384) (pace % 16384) (spent - (s.paceDiff n).toNat)

/-- WAITPACE (R210, R346). -/
def execWaitpace (n : Fin 16384) (s : State) : Res :=
  .next (if !s.atOp n.val opWAITPACE then s
    else
      let k := fieldLe (s.unit n.val) 2 2
      let a := s.rf (R.STREAM_CTL_RUN_AHEAD n.val) * s.rf (R.STREAM_CTL_TILE_BURSTS n.val)
      let d := s.paceDiff n.val
      if (k : Int) ≤ d + a then
        ((s.set (R.STREAM_RUN_PACE_USED n.val) (s.rf (R.STREAM_RUN_PACE_USED n.val) + k)).settlePace n.val).passInstr n.val
      else s.waitOn n.val wtPACE)

/-- Why a stream's request to the semaphore word at an OA is refused, if it is (R264). -/
def State.semBad (s : State) (n oa : Nat) : Option Refused :=
  match s.pageFor (s.strWho n (s.str n).nextSeq) (oa / 2 ^ 21 % 2 ^ 31) false with
  | .error why => some why
  | .ok _ => none

/-- A refused request of a stream to one word: TIER_ERR, the log, the stream's STATUS, and FLAG_OUT for a plan stream in the training
domain (R264). -/
def State.semRefuse (s : State) (n : Nat) (why : Refused) (oa : Nat) : State := (s.tierRefuse why stBAD_ARG oa).note n stBAD_ARG 0x0A

/-- Whether a lower-numbered stream waits on the same word with CONSUME and could pass (R211). -/
def State.semTaken (s : State) (n addr : Nat) : Bool :=
  s.usedCtx.any (fun m => decide (m < n) && s.sst m == ssWAIT && s.rf (R.STREAM_RUN_WAIT m) == wtSEM && s.mayRun m
    && uFlag (s.unit m) 0 && fieldLe (s.unit m) 8 8 == addr && decide (fieldLe (s.unit m) 4 4 ≤ s.semWord addr))

/-- Whether a stream's WAITSEM passes now: one of VALUE 0 at once (R219). -/
def State.semPasses (s : State) (n : Nat) : Bool :=
  let u := s.unit n
  fieldLe u 4 4 == 0 || ((s.semBad n (fieldLe u 8 8)).isNone && decide (fieldLe u 4 4 ≤ s.semWord (fieldLe u 8 8))
    && !(uFlag u 0 && s.semTaken n (fieldLe u 8 8)))

/-- A WAITSEM passes, subtracting its VALUE when CONSUME is set; a refused subtraction is discarded (R264). -/
def State.passSem (s : State) (n : Nat) : State :=
  let u := s.unit n
  let oa := fieldLe u 8 8
  let s := if uFlag u 0 && (s.semBad n oa).isNone then s.setSem oa (s.semWord oa - fieldLe u 4 4) else s
  s.passInstr n

/-- WAITSEM (R211): passes at once when the word has reached VALUE, else begins to wait. A word that the stream may not reach reads as zero,
and the refusal is recorded once, as the stream comes to the instruction (R264). -/
def execWaitsem (n : Fin 16384) (s : State) : Res :=
  .next (if !s.atOp n.val opWAITSEM then s
    else
      let oa := fieldLe (s.unit n.val) 8 8
      let s := if s.rf (R.STREAM_RUN_WAIT n.val) = wtSEM then s else
        match s.semBad n.val oa with
        | some why => s.semRefuse n.val why oa
        | none => s
      if s.semPasses n.val then s.passSem n.val else s.waitOn n.val wtSEM)

/-- WAITSEM_PASS (R211): a waiting stream passes once its word has reached VALUE. -/
def execWaitsemPass (n : Fin 16384) (s : State) : Res :=
  .next (if s.atOp n.val opWAITSEM && s.rf (R.STREAM_RUN_WAIT n.val) == wtSEM && s.semPasses n.val then s.passSem n.val else s)

/-- SETREG (R213). -/
def execSetreg (n : Fin 16384) (s : State) : Res :=
  .next (if !s.atOp n.val opSETREG then s
    else
      let u := s.unit n.val
      let f := if uFlag u 0 then R.STREAM_AD1_AD1 n.val else R.STREAM_AD0_AD0 n.val
      let v := fieldLe u 8 6
      (s.set f (if uFlag u 1 then s.rf f + v else v)).passInstr n.val)

/-- NOP (R214). -/
def execNop (n : Fin 16384) (s : State) : Res := .next (if s.atOp n.val opNOP then s.passInstr n.val else s)

/-- END (R214). -/
def execEndOp (n : Fin 16384) (s : State) : Res := .next (if s.atOp n.val opEND then s.endStr n.val else s)

/-! ## Signals, marks, fences, seals (R215 to R218) -/

/-- Whether a port may still carry a message later: it is retraining or short of credits, so its sender waits (R226, R350). -/
def State.portWaits (s : State) (p : Nat) : Bool := s.rf (R.CDP_STATUS_STATE p) == 5 || (s.portUp p && !s.canSend p 0)

/-- A signal or mark delivered to its target (R215), or refused there (R264, R276); one for a port that is down is dropped (R226). -/
def State.deliverSignal (s : State) (n kind target addr semv seqv : Nat) : State :=
  if kind = 0 then
    match s.semBad n (addr % 2 ^ 52) with
    | some why => s.semRefuse n why (addr % 2 ^ 52)
    | none => s.addSem (addr % 2 ^ 52) semv
  else if kind = 1 then
    let da := 2 ^ 50 + target % 64 * 2 ^ 42 + addr
    if s.peerOk (da / 2 ^ 21) then s.emitHost (.busAdd (s.busAddr da) semv) else s.semRefuse n .barred da
  else if kind = 2 then
    let p := target / 2 ^ 30
    if s.canSend p 0 then (s.spend p 0).emit (.kpp p kSIG seqv (target % 2 ^ 30) []) else s
  else s.raiseOwned (s.strOwner n) target

/-- Whether a signal of a kind must wait for its port, or for a slot of it that the stream no longer has (R248, R354). -/
def State.signalWaits (s : State) (n kind target : Nat) : Bool :=
  kind == 2 && (s.portWaits (target / 2 ^ 30) || (s.claimMsg n (target / 2 ^ 30)).isNone)

/-- The stream's slots of a signal to a die taken. -/
def State.takeMsg (s : State) (n kind target : Nat) : State :=
  if kind = 2 then
    (match s.claimMsg n (target / 2 ^ 30) with
     | some c => s.useSlots n c.1
     | none => s)
  else s

/-- SIGNAL (R215): after every earlier write has completed. -/
def execSignal (n : Fin 16384) (s : State) : Res :=
  .next (if !s.atOp n.val opSIGNAL then s
    else
      let u := s.unit n.val
      let kind := fieldLe u 1 1 % 8
      if !s.quiet n.val then s.waitOn n.val wtORDER
      else if s.signalWaits n.val kind (fieldLe u 4 4) then s.waitOn n.val wtSLOT
      else ((s.takeMsg n.val kind (fieldLe u 4 4)).deliverSignal n.val kind (fieldLe u 4 4) (fieldLe u 8 8) (fieldLe u 2 2)
        (fieldLe u 2 2)).passInstr n.val)

/-- MARK (R216). -/
def execMark (n : Fin 16384) (s : State) : Res :=
  .next (if !s.atOp n.val opMARK then s
    else
      let u := s.unit n.val
      let kind := fieldLe u 1 1 / 2 % 8
      if !s.quiet n.val then s.waitOn n.val wtORDER
      else if s.signalWaits n.val kind (fieldLe u 4 4) then s.waitOn n.val wtSLOT
      else
        let s := (s.takeMsg n.val kind (fieldLe u 4 4)).set (R.STREAM_AD1_MARKS n.val) (s.rf (R.STREAM_AD1_MARKS n.val) + 1)
        let v := s.rf (R.STREAM_AD1_MARKS n.val) % 32768 * 2 + (if uFlag u 0 then 1 else 0)
        (s.deliverSignal n.val kind (fieldLe u 4 4) (fieldLe u 8 8) 1 v).passInstr n.val)

/-- A failed confirmation: a far fault detected (R383), FAR_FAULT, with FLAG_OUT for a plan stream before the end of reserve (R218). -/
def State.farFault (s : State) (n : Nat) : State :=
  (s.hqErr stFAR_FAULT R.HQ_ERR_FAR_FAULT).note n stFAR_FAULT (if s.step.reserveOver then 0 else 4)

/-- A far side that cannot be confirmed: its zero-length read is refused. -/
def State.refuseConfirm (s : State) (n side oa : Nat) (why : Refused) : State :=
  let x := s.str n
  ((s.setStr n { x with confirm := x.confirm.filter (· != side) }).tierRefuse why stBAD_ARG oa).farFault n

/-- A zero-length read or a port FENCE issued to one far side (R218, R377). A read of a page that is unmapped by now, or of a slice that no longer
reaches it, is refused (R264, R276): that side cannot be confirmed. -/
def State.askConfirm (s : State) (n side : Nat) : State :=
  if 100 ≤ side then
    let p := side - 100
    let s := ((s.takeMsg n 2 (p * 2 ^ 30)).spend p 0).emit (.kpp p kFENCE n 0 [])
    s.setPort p { s.port p with fences := (s.port p).fences ++ [n] }
  else
    let oa := SMap.get (fun _ => 0) (s.str n).far side
    match s.entOf (oa / 2 ^ 21 % 2 ^ 31) with
    | none => s.refuseConfirm n side oa .unmapped
    | some e =>
      if s.tierOf (e.page * 2 ^ 21) = 4 ∧ s.peerOk e.page = false then s.refuseConfirm n side oa .barred
      else s.emitHost (.busRead n side (s.busAddr (e.page * 2 ^ 21 + oa % 2 ^ 21)) 0)

/-- Confirmations issued to the far sides that are pending, but for a port that is retraining or short of credits, or of whose slots the
stream has none left: that one waits (R218). -/
def State.confirmPend (s : State) (n : Nat) : State :=
  let x := s.str n
  let waits := fun (f : Nat) => decide (100 ≤ f) && (s.portWaits (f - 100) || (s.claimMsg n (f - 100)).isNone)
  let go := x.pend.filter (fun f => !waits f)
  let s := s.setStr n { x with confirm := x.confirm ++ go, pend := x.pend.filter waits }
  s.forEach go (fun s f => s.askConfirm n f)

/-- FENCE (R217, R372). -/
def execFence (n : Fin 16384) (s : State) : Res :=
  .next (if !s.atOp n.val opFENCE then s
    else
      let x := s.str n.val
      if !s.quiet n.val then s.waitOn n.val wtORDER
      else if x.confirm.isEmpty && x.pend.isEmpty then s.passInstr n.val
      else (s.confirmPend n.val).waitOn n.val wtORDER)

/-- A stream's data is sealed: the status word where asked, SEALED, the stash it read released, a hand-off counted (R218, R227, R324). -/
def State.finishSeal (s : State) (n : Nat) : State :=
  let u := s.unit n
  let x := s.str n
  let s := if uFlag u 0 then s.putStatus n (fieldLe u 8 8) (s.statusWord n ssSEALED 0) else s
  let s := { s with ftl := { s.ftl with hostPend := s.ftl.hostPend.filter (fun y => !x.flash.contains y.unit) } }
  let s := s.setStr n { s.str n with flash := [] }
  let s := if x.host && x.hand && s.training && !s.step.reserveOver then s.addSat R.STEP_HANDOFF_SEALED 1 else s
  let s := s.set (R.STREAM_RUN_PC n) (s.rf (R.STREAM_RUN_PC n) + 1)
  (s.setSst n ssSEALED wtNONE).releaseStash

/-- Whether a stream stands at its SEAL and may run it: one that has begun goes on whatever stops the plan (R226). -/
def State.atSeal (s : State) (n : Nat) : Bool :=
  (s.atOp n opSEAL && s.sst n != ssSEALED)
    || (decide (2 ≤ s.rf R.PWR_STATE_STATE) && s.moverServed n && s.sealing n && s.sst n == ssWAIT)

/-- Every far side confirmed: the stream seals, once its status word's port can take it and the stream's slots can carry it (R227, R248). -/
def State.sealNow (s : State) (n : Nat) : State :=
  let dst := fieldLe (s.unit n) 8 8
  if uFlag (s.unit n) 0 then
    match (if s.statusWaits dst then none else s.claimFor n (ownedBy n (s.putLoad dst 32))) with
    | none => if s.rf (R.STREAM_RUN_WAIT n) = wtFAR then s else s.waitOn n wtSLOT
    | some c => (s.useSlots n c.1).finishSeal n
  else s.finishSeal n

/-- The second stage of a SEAL: confirmations go out and come in (R218). -/
def State.sealFar (s : State) (n : Nat) : State :=
  let s := s.confirmPend n
  if (s.str n).confirm.isEmpty && (s.str n).pend.isEmpty then s.sealNow n else s

/-- SEAL (R218): waits for its blocks, then for the confirmation of every far side, then seals. -/
def execSeal (n : Fin 16384) (s : State) : Res :=
  .next (if !s.atSeal n.val then s
    else
      let x := s.str n.val
      let ls := if uFlag (s.unit n.val) 0 && !isPort (fieldLe (s.unit n.val) 8 8) then
        s.linesFor n.val [(fieldLe (s.unit n.val) 8 8 % 2 ^ 52, 32)] else []
      if !s.quiet n.val then s.waitOn n.val wtORDER
      else if !ls.isEmpty then (s.invalidate ls).waitOn n.val wtORDER
      else if s.rf (R.STREAM_RUN_WAIT n.val) = wtFAR then s.sealFar n.val
      else if x.far.isEmpty then s.sealNow n.val
      else ((s.setStr n.val { x with pend := x.far.map (·.1), confirm := [] }).waitOn n.val wtFAR).sealFar n.val)

/-- A confirming read of the host link that failed: kind 2 UR or CA, 3 a timeout (R377). -/
def State.readFault (s : State) (n kind : Nat) : State :=
  (s.set (if kind = 2 then R.HQ_ERR_CPL_ERROR else R.HQ_ERR_CPL_TIMEOUT) 1).farFault n

/-- FAR_READ_COMPLETION (R217, R218, R377): a confirming read of one far side has completed: kind 0 with success, 2 with UR or CA, 3 by
timeout; there is no other. -/
def execFarReadCompletion (n : Fin 16384) (far : Nat) (kind : Nat) (s : State) : Res :=
  .next (
    let x := s.str n.val
    if !x.confirm.contains far || decide (100 ≤ far) || !([0, 2, 3].contains kind) then s
    else
      let s := s.setStr n.val { x with confirm := x.confirm.filter (· != far) }
      if kind = 0 then s else s.readFault n.val kind)

/-! ## Barriers (R212, R249, R396) -/

/-- The key of an arrival count: barrier ID and generation. -/
def barKey (id gen : Nat) : Nat := id * 2 ^ 32 + gen

/-- Arrivals of a generation. -/
def State.barCount (s : State) (id gen : Nat) : Nat := SMap.get (fun _ => 0) s.bar.arrived (barKey id gen)

/-- Where a generation is announced to member j: this member's word of the barrier table that j lends (R396). -/
def State.annDA (s : State) (j id : Nat) : Nat :=
  2 ^ 50 + j * 2 ^ 42 + s.rf R.SYNC_BARRIER_APERTURE_PAGE * 2 ^ 21 + 512 * id + 8 * s.rf R.SYNC_CONFIG_MEMBER

/-- The announcement of a generation to member j: one posted 8-byte write, refused for a slice that is not valid or ends below it (R276, R396). -/
def State.emitAnn (s : State) (j id gen : Nat) : State :=
  let da := s.annDA j id
  if s.peerOk (da / 2 ^ 21) then s.emitHost (.busWrite (s.busAddr da) ((natLe 8 gen).map (fun b => (b, false))) false)
  else s.tierRefuse .barred stBAD_ARG da

/-- What an announcement takes of PEER slots in a direction of the host link: 64 of them fill a slot (R396). -/
def annLoad (res : Nat) : List Load := ownedBy 0xFFF9 [(res, 60)]

/-- One announcement sent: in PEER slots of the host link in plan time, where it waits for a slot behind what waits already; at once in a
pause and outside plan time (R396). -/
def State.sendAnn (s : State) (j id gen : Nat) : State :=
  let wait := fun (due : Option Nat) => s.tier.peers ++ [⟨4, 512 * id, 8, [], false, j, gen, 0, due⟩]
  if !s.slotTime then s.emitAnn j id gen
  else match s.slots.claim s.tier.used s.planTick (annLoad 0x4000) with
    | none => { s with tier := { s.tier with peers := wait none } }
    | some c =>
      if s.tier.peers.isEmpty && decide (c.2 < (s.planTick / 32 + 1) * 32) then
        ({ s with tier := { s.tier with used := c.1 } }).emitAnn j id gen
      else { s with tier := { s.tier with used := c.1, peers := wait (some c.2) } }

/-- A generation announced to every other member, in ascending index (R396). -/
def State.announceGen (s : State) (id gen : Nat) : State :=
  if s.devices ≤ 1 then s
  else s.forEach ((upTo s.devices).filter (· != s.rf R.SYNC_CONFIG_MEMBER)) (fun s j => s.sendAnn j id gen)

/-- Generations of a barrier that have received their arrivals complete locally, with fuel. -/
def State.settleBarrier (s : State) (id : Nat) : Nat → State
  | 0 => s
  | fuel + 1 =>
    let g := s.localGen id + 1
    let need := SMap.get (fun _ => 0) s.bar.parties id
    if 0 < need ∧ need ≤ s.barCount id g then
      let s := { s with bar := { s.bar with done := SMap.put (fun _ => 0) s.bar.done id g } }
      let s := if s.bar.scope1.contains id then s.announceGen id g else s
      s.settleBarrier id fuel
    else s

/-- One arrival registered at a generation and applied to its count (R212, R431). -/
def State.arrive (s : State) (id gen : Nat) : State :=
  let s := { s with bar := { s.bar with arrived := SMap.put (fun _ => 0) s.bar.arrived (barKey id gen) (s.barCount id gen + 1) }
                    led := { s.led with barIn := s.led.barIn + 1, barOut := s.led.barOut + 1 } }
  s.settleBarrier id (s.bar.arrived.length + 1)

/-- The next arrival of a counted party at an ID: port p's n-th SIG, or with p = 4 the n-th cluster entry, belongs to generation n (R249, R347). -/
def State.partyArrives (s : State) (p id : Nat) : State :=
  let n := SMap.get (fun _ => 0) s.bar.portArr (p * 4096 + id) + 1
  let s := { s with bar := { s.bar with portArr := SMap.put (fun _ => 0) s.bar.portArr (p * 4096 + id) n } }
  s.arrive id n

/-- The generation a stream's last arrival at an ID belongs to. -/
def State.streamGen (s : State) (n id : Nat) : Nat := SMap.get (fun _ => 0) (s.str n).arrivals id

/-- Whether the barrier a stream waits at has completed for it. -/
def State.barrierPasses (s : State) (n : Nat) : Bool :=
  let id := fieldLe (s.unit n) 2 2 % 4096
  if uFlag (s.unit n) 0 then s.configDone id (s.streamGen n id) else decide (s.streamGen n id ≤ s.localGen id)

/-- BARRIER (R212): one arrival is registered; the stream waits unless its generation has completed. -/
def execBarrier (n : Fin 16384) (s : State) : Res :=
  .next (if !s.atOp n.val opBARRIER then s
    else
      let u := s.unit n.val
      let id := fieldLe u 2 2 % 4096
      let parties := fieldLe u 4 4
      if parties = 0 then s.passInstr n.val
      else if s.rf (R.STREAM_RUN_WAIT n.val) = wtBARRIER then s
      else
        let x := s.str n.val
        let g := SMap.get (fun _ => 0) x.arrivals id + 1
        let s := s.setStr n.val { x with arrivals := SMap.put (fun _ => 0) x.arrivals id g }
        let s := { s with bar := { s.bar with parties := SMap.put (fun _ => 0) s.bar.parties id parties
                                              scope1 := if uFlag u 0 then NSet.ins id s.bar.scope1 else s.bar.scope1 } }
        let s := s.arrive id g
        if s.barrierPasses n.val then s.passInstr n.val else s.waitOn n.val wtBARRIER)

/-- Whether a stream waits at barrier ID. -/
def State.waitsAt (s : State) (n id : Nat) : Bool :=
  s.atOp n opBARRIER && s.rf (R.STREAM_RUN_WAIT n) == wtBARRIER && fieldLe (s.unit n) 2 2 % 4096 == id

/-- BARRIER_COMPLETE (R212, R396): the streams that wait at a barrier whose generation has completed pass. -/
def execBarrierComplete (id : Fin 4096) (s : State) : Res :=
  .next (s.forEach (s.usedCtx.filter (fun n => s.waitsAt n id.val && s.barrierPasses n)) (fun s n => s.passInstr n))

end Sys2Proof.Machine
end

