-- ==== Sys2Proof/Machine/Clusters.lean ====
section
/-! DEFINITION. Machine/Clusters.lean: recompute segments on their spans, panel walks, operand expanders (R85 to R108, R120 to R131,
R190 to R192, R239). -/

namespace Sys2Proof.Machine

/-! ## The operations of a program (R92 to R97) -/

/-- A stored matrix: element format, channels, and per row its bytes and the marks of its elements. -/
structure Mat where
  code : Nat
  cols : Nat
  rows : List (List Byte × List Bool)

/-- A matrix of a stored region: rows one after another (R110). -/
def matOf (code cols n : Nat) (l : List MByte) : Mat :=
  let w := fmtBytes code cols
  ⟨code, cols, (upTo n).map (fun r =>
    let b := (l.drop (r * w)).take w
    (b.map (·.1), (upTo cols).map (elemMarked code cols b)))⟩

/-- A row as FP32 patterns (R113), and its marks. -/
def Mat.row32 (m : Mat) (r : Nat) : List Nat × List Bool :=
  let x := m.rows.getD r ([], [])
  ((readRow m.code m.cols x.1).map to32, x.2)

/-- A row as exact values. -/
def Mat.rowExact (m : Mat) (r : Nat) : List Val := readRow m.code m.cols (m.rows.getD r ([], [])).1

/-- An operation word (R94). -/
structure OpWord where
  op    : Nat
  scope : Nat
  fmt   : Nat
  dst   : Nat
  a     : Nat
  b     : Nat
  c     : Nat
  mode  : Nat
  p0    : Nat
  p1    : Nat
  p2    : Nat
  p3    : Nat
  sk    : Nat
  deriving DecidableEq, Repr

/-- Operation word i of a program body. -/
def opWord (b : List Byte) (i : Nat) : OpWord :=
  let o := 32 + 16 * fieldLe b 4 1 + 32 * fieldLe b 5 1 + 16 * fieldLe b 6 1 + 32 * i
  ⟨fieldLe b o 1, fieldLe b (o + 1) 1, fieldLe b (o + 2) 1, fieldLe b (o + 3) 1, fieldLe b (o + 4) 1, fieldLe b (o + 5) 1,
   fieldLe b (o + 6) 1, fieldLe b (o + 7) 1, fieldLe b (o + 8) 4, fieldLe b (o + 0xC) 4, fieldLe b (o + 0x10) 4, fieldLe b (o + 0x14) 4,
   fieldLe b (o + 0x18) 1⟩

/-- A buffer descriptor: place, format, offset, rows, channels. -/
structure BDesc where
  place : Nat
  elem  : Nat
  off   : Nat
  rows  : Nat
  cols  : Nat
  deriving DecidableEq, Repr

/-- Buffer descriptor i. -/
def bDesc (b : List Byte) (i : Nat) : BDesc :=
  let o := 32 + 16 * fieldLe b 4 1 + 32 * fieldLe b 5 1 + 16 * i
  ⟨fieldLe b o 1, fieldLe b (o + 1) 1, fieldLe b (o + 4) 4, fieldLe b (o + 8) 4, fieldLe b (o + 0xC) 4⟩

/-- Output descriptor i: tensor identity, format, channels. -/
def oDesc (b : List Byte) (i : Nat) : Nat × Nat × Nat := (fieldLe b (32 + 16 * i) 2, fieldLe b (34 + 16 * i) 1, fieldLe b (36 + 16 * i) 4)

/-- Whether an operand code names a buffer, an output, a weight. -/
def isBuf (c : Nat) : Bool := decide (1 ≤ c ∧ c ≤ 0x20)
def isOut (c : Nat) : Bool := decide (0x41 ≤ c ∧ c ≤ 0x44)
def isWgt (c : Nat) : Bool := decide (0x80 ≤ c ∧ c ≤ 0x87)

/-- Channels of the destination. -/
def dstCols (b : List Byte) (c : Nat) : Nat := if isBuf c then (bDesc b (c - 1)).cols else if isOut c then (oDesc b (c - 0x41)).2.2 else 0

/-- A segment as it runs: the state, the matrices written so far by operand code, one copy for each cluster of the span, whether anything
written was non-finite or anything read marked, a free value for what the program leaves open. -/
structure SegRun where
  st     : State
  env    : List (Nat × List Mat)
  nonfin : Bool
  marked : Bool
  free   : Nat

/-- DA of the cluster buffer and of core buffer j of a logical cluster (R274). -/
def cluBuf (l : Nat) : Nat := 0x7C00000000 + l * 0x2000000
def coreBuf (q : Nat) : Nat := cluBuf (q / 4) + 0x1000000 + q % 4 * 0x200000

/-- Byte `off` of row block m's slot in the ring of cluster i of the span as the segment meets it: the write of its lap, or the last one
there was, else what the buffer holds (R88). -/
def State.ringByte (s : State) (e : Nat) (g : Seg) (i m off : Nat) : MByte :=
  let nb := fieldLe g.prog 7 1
  let p := m % nb * g.slot + off
  let ws := (s.clu.rings.filter (fun r => r.entry == e && r.clu == g.ce.first + i && decide (r.off ≤ p) && decide (p < r.off + r.data.length)))
  match ws[m / nb]? with
  | some r => r.data.getD (p - r.off) (0, false)
  | none => match ws.getLast? with
    | some r => r.data.getD (p - r.off) (0, false)
    | none => s.mbyteAt (cluBuf (g.ce.first + i) + g.ringOff + p)

/-- INPUT in cluster i of the span: the lifeline rows of the slice from its ring (R87, R88). -/
def State.segInput (s : State) (e : Nat) (g : Seg) (i : Nat) : Mat :=
  let w := g.rowBytes
  matOf (fieldLe g.prog 0x10 1) g.cin g.rows ((upTo (g.rows * w)).map (fun k => s.ringByte e g i (k / g.slot) (k % g.slot)))

/-- Cores of an operation (R89): C. -/
def OpWord.cores (o : OpWord) (span : Nat) : Nat := if o.scope = 0 then 4 * span else 4

/-- GEMM and row operations (R89, R96). -/
def OpWord.isGemm (o : OpWord) : Bool := o.op == 0x01 || o.op == 0x1F
def OpWord.isRow (o : OpWord) : Bool := o.op == 0x0A || o.op == 0x0B || o.op == 0x0F || o.op == 0x1E

/-- The cluster of the span in which an operation works on element j of row r: in a SPAN operation that of the core to which the element's
row block or channel block goes; in a CLUSTER operation the cluster i that does the whole of it (R89). -/
def OpWord.seat (o : OpWord) (span i r j : Nat) : Nat :=
  if o.scope ≠ 0 then i else (if o.isRow then r / 128 else j / 128) % (4 * span) / 4

/-- A source matrix as cluster i holds it: written by an earlier operation, INPUT, a cluster buffer as it stands, or a core buffer, whose
bytes before it is written are open. -/
def SegRun.source (x : SegRun) (g : Seg) (c i : Nat) : Mat :=
  match x.env.find? (fun p => p.1 == c) with
  | some p => p.2.getD i ⟨0, 0, []⟩
  | none =>
    let d := bDesc g.prog (c - 1)
    let n := d.rows * fmtBytes d.elem d.cols
    if isBuf c then
      (if d.place = 0 then matOf d.elem d.cols d.rows (x.st.readMem (cluBuf (g.ce.first + i) + d.off) n)
       else matOf d.elem d.cols d.rows ((natLe n (Config.freeNat (x.free + c))).map (fun b => (b, false))))
    else ⟨0, 0, []⟩

/-- A per-channel vector or row of a position-indexed table: raw data of a weight descriptor (R93). -/
def SegRun.weightRow (x : SegRun) (g : Seg) (c row : Nat) : SegRun × List Nat × List Bool :=
  let d := wDesc g.prog (c - 0x80)
  let w := fmtBytes d.elem d.n
  let r := x.st.readOA .cluster ((d.oa + row * w) % 2 ^ 52) w
  let ms := (upTo d.n).map (elemMarked d.elem d.n r.data)
  ({ x with st := r.st, marked := x.marked || ms.any id }, (readRow d.elem d.n (r.data.map (·.1))).map to32, ms)

/-- Row r of an operand as FP32 patterns and marks, each element as the cluster that works on it holds it: a vector is the same for every
row, a one-row buffer too; nothing is empty. -/
def SegRun.operand (x : SegRun) (g : Seg) (o : OpWord) (i c r : Nat) : SegRun × List Nat × List Bool :=
  if isWgt c then x.weightRow g c (if (wDesc g.prog (c - 0x80)).index = 2 then g.first + r else 0)
  else if c = 0 then (x, [], [])
  else
    let row := fun k => let m := x.source g c k; m.row32 (if m.rows.length = 1 then 0 else r)
    let v := if o.scope ≠ 0 then row i
      else
        let all := (upTo g.span).map row
        let n := (all.getD 0 ([], [])).1.length
        ((upTo n).map (fun j => (all.getD (o.seat g.span i r j) ([], [])).1.getD j 0),
          (upTo n).map (fun j => (all.getD (o.seat g.span i r j) ([], [])).2.getD j false))
    ({ x with marked := x.marked || (c == 0x40 && v.2.any id) }, v)

/-- The FP32 results of one row of an operation, with their marks (R120): a result is marked when it reads a marked value (R99). `pos` is
the row's position in the instance. -/
def vecRow (o : OpWord) (key : DrawKey) (dim3 pos cols x : Nat) (a b c : List Nat × List Bool) : List Nat × List Bool :=
  let av := fun i => a.1.getD i 0
  let bv := fun i => b.1.getD i 0
  let each := fun (f : Nat → Nat) =>
    ((upTo cols).map f, (upTo cols).map (fun i => a.2.getD i false || b.2.getD i false || c.2.getD i false))
  let whole := fun (l : List Nat) => (l, (upTo cols).map (fun i => a.2.any id || b.2.getD i false || c.2.getD i false))
  if o.op = 0x02 ∨ o.op = 0x05 then each (fun i => fAdd (av i) (bv i))
  else if o.op = 0x03 then each (fun i => fMul (av i) (bv i))
  else if o.op = 0x04 then each (fun i => fFma (av i) o.p0 o.p1)
  else if o.op = 0x06 then each (fun i => fFma (av i) (fAdd one32 (bv i)) (c.1.getD i 0))
  else if o.op = 0x07 then each (fun i => opGelu (av i))
  else if o.op = 0x08 then each (fun i => opSilu (av i))
  else if o.op = 0x09 then each (fun i => fMul (opSilu (av i)) (bv i))
  else if o.op = 0x0A then whole (opRms a.1 b.1 o.p0)
  else if o.op = 0x0B then whole (opLayer a.1 b.1 c.1 o.p0)
  else if o.op = 0x0C then
    (opRope a.1 b.1 o.p0 o.p1, (upTo cols).map (fun i =>
      if o.p1 ≤ i then a.2.getD i false
      else a.2.getD (i - i % 2) false || a.2.getD (i - i % 2 + 1) false || b.2.getD ((i - i % 2) % o.p0) false
        || b.2.getD ((i - i % 2) % o.p0 + 1) false))
  else if o.op = 0x0D then each (fun i => if key.draw (pos * dim3 + i) < o.p0 % 65536 then 0 else fMul (av i) o.p1)
  else if o.op = 0x0F then
    ((groupsOf o.p0 (cols + 1) a.1).map softGroup |>.flatten,
      (upTo cols).map (fun i => ((a.2.drop (i / o.p0 * o.p0)).take o.p0).any id))
  else if o.op = 0x11 then each (fun i => fMin (fMax (av i) o.p0) o.p1)
  else if o.op = 0x1E then whole (List.replicate cols (sumAny a.1 (Config.freeNat x)))
  else each av

/-- A row of results written to DST: rounded once to FMT (R114), counted by the gauge (R130). The values of a CLUSTER operation, which
every cluster of the span writes, are counted once, in cluster 0 of the span (log entry 179). -/
def SegRun.write (x : SegRun) (o : OpWord) (i : Nat) (draws : List Nat) (v : List Nat) (ms : List Bool) : SegRun × List Byte × List Bool :=
  let r := writeRow o.fmt o.mode draws v
  ({ x with st := if i = 0 then x.st.countWrote 0 o.fmt r.2 else x.st, nonfin := x.nonfin || r.2.any (·.nonfin) }, r.1, spreadMx o.fmt ms)

/-- The draws of an SR write to an output row (R117, R118). -/
def SegRun.srDraws (x : SegRun) (g : Seg) (o : OpWord) (cols pos : Nat) : List Nat :=
  if o.mode = 2 ∧ isOut o.dst then
    let k := x.st.drawKey (oDesc g.prog (o.dst - 0x41)).1 g.ce.mb 1
    (upTo cols).map (fun i => k.draw (pos * cols + i))
  else []

/-- A vector operation over the rows of the slice, as cluster i of the span has it. -/
def SegRun.vecOp (x : SegRun) (g : Seg) (o : OpWord) (i : Nat) : SegRun × Mat :=
  let cols := dstCols g.prog o.dst
  let key := x.st.drawKey (o.p2 % 8192) g.ce.mb 0
  let dim3 := match x.st.chart.active with | some c => c.dim (o.p3 % 65536) 3 | none => 0
  let r := (upTo g.rows).foldl (fun (a : SegRun × List (List Byte × List Bool)) r =>
    let xa := a.1.operand g o i o.a r
    let xb := xa.1.operand g o i o.b r
    let xc := xb.1.operand g o i o.c r
    let v := vecRow o key dim3 (g.first + r) cols (xc.1.free + 64 + r) xa.2 xb.2 xc.2
    let w := xc.1.write o i (xc.1.srDraws g o cols (g.first + r)) v.1 v.2
    (w.1, a.2 ++ [w.2])) (x, [])
  ({ r.1 with free := r.1.free + (if o.op = 0x1E then 64 + g.rows else 0) }, ⟨o.fmt, cols, r.2⟩)

/-- The cluster of the span that computes part t of panel n (R89, R98). -/
def OpWord.partSeat (o : OpWord) (span i n t : Nat) : Nat :=
  if o.scope ≠ 0 then i else (n + t * (4 * span / o.sk)) % (4 * span) / 4

/-- Row r of A as the parts of panel n meet it: exact elements in ascending K, and whether one of them is marked (R98, R99). -/
def SegRun.partRow (x : SegRun) (g : Seg) (o : OpWord) (i n r h : Nat) : List Val × Bool :=
  let ps := (upTo o.sk).map (fun t =>
    let m := x.source g o.a (o.partSeat g.span i n t)
    (((m.rowExact r).drop (512 * h * t)).take (512 * h), (((m.rows.getD r ([], [])).2.drop (512 * h * t)).take (512 * h)).any id))
  ((ps.map (·.1)).flatten, ps.any (·.2))

/-- A GEMM over the rows of the slice, as cluster i of the span has it (R98, R123); with K zero no panel is read (R97). -/
def SegRun.gemmOp (x : SegRun) (g : Seg) (o : OpWord) (i : Nat) : SegRun × Mat :=
  let d := wDesc g.prog (o.b - 0x80)
  let h := perPart d o.sk
  let ps := (upTo (if d.k = 0 then 0 else ceilDiv d.n 128)).foldl (fun (a : State × List Panel) n =>
    let r := a.1.panel d n o.sk
    (r.1, a.2 ++ [r.2])) (x.st, [])
  let x := { x with st := ps.1, marked := x.marked || ps.2.any (fun p => p.marks.any id) }
  let r := (upTo g.rows).foldl (fun (a : SegRun × List (List Byte × List Bool)) r =>
    let xc := a.1.operand g o i o.c r
    let rows := (upTo ps.2.length).map (fun n => xc.1.partRow g o i n r h)
    let v := (upTo d.n).map (fun j =>
      let p := ps.2.getD (j / 128) ⟨[], []⟩
      let order := if o.op = 0x1F then some (Config.freeNat (xc.1.free + 64 + j / 128)) else none
      let e := gemmElem (rows.getD (j / 128) ([], false)).1 (p.cols.getD (j % 128) []) d.k o.sk h order
      if o.c = 0 then e else if d.k = 0 then xc.2.1.getD j 0 else fAdd e (xc.2.1.getD j 0))
    let ms := (upTo d.n).map (fun j =>
      (rows.getD (j / 128) ([], false)).2 || (ps.2.getD (j / 128) ⟨[], []⟩).marks.getD (j % 128) false || xc.2.2.getD j false)
    let w := ({ xc.1 with marked := xc.1.marked || (o.a == 0x40 && rows.any (·.2)) }).write o i
      (xc.1.srDraws g o (dstCols g.prog o.dst) (g.first + r)) v ms
    (w.1, a.2 ++ [w.2])) (x, [])
  ({ r.1 with free := r.1.free + (if o.op = 0x1F then 64 + ceilDiv d.n 128 else 0) }, ⟨o.fmt, dstCols g.prog o.dst, r.2⟩)

/-- Bytes that an operation's work units may fill in one core's buffer (R93). -/
def coreShare (g : Seg) (o : OpWord) (d : BDesc) : Nat :=
  let c := o.cores g.span
  let mt := ceilDiv g.rows 128
  let ct := ceilDiv d.cols 128
  if o.isRow then ceilDiv mt c * (128 * fmtBytes d.elem d.cols)
  else ceilDiv ct (if o.isGemm then c / o.sk else c) * (g.rows * fmtBytes d.elem 128)

/-- A written buffer placed in memory: in every cluster of the span, or, in core buffers, as bytes the spec does not lay out. -/
def SegRun.place (x : SegRun) (g : Seg) (o : OpWord) (ms : List Mat) : SegRun :=
  if !isBuf o.dst then x
  else
    let d := bDesc g.prog (o.dst - 1)
    if d.place = 0 then
      { x with st := x.st.forEach (upTo g.span) (fun s i =>
          let m := ms.getD i ⟨0, 0, []⟩
          s.writeMem (cluBuf (g.ce.first + i) + d.off) ((m.rows.map (fun r => markBytes m.code m.cols r.1 r.2)).flatten)) }
    else
      let n := coreShare g o d
      let q0 := 4 * g.ce.first
      { x with st := x.st.forEach (upTo (4 * g.span)) (fun s q =>
                 s.writeMem (coreBuf (q0 + q) + d.off) (clean (natLe n (Config.freeNat (x.free + q)))))
               free := x.free + 4 * g.span }

/-- Whether an operand code names a buffer of no rows or channels, or a weight of no columns (R97). -/
def codeEmpty (b : List Byte) (c : Nat) : Bool :=
  if isBuf c then (bDesc b (c - 1)).rows == 0 || (bDesc b (c - 1)).cols == 0
  else if isWgt c then (wDesc b (c - 0x80)).n == 0 else false

/-- An operation as cluster i of the span has it. -/
def SegRun.opIn (x : SegRun) (g : Seg) (o : OpWord) (i : Nat) : SegRun × Mat :=
  if o.isGemm then x.gemmOp g o i else x.vecOp g o i

/-- An operation's result in every cluster of the span: one result for SPAN scope, each cluster's own for CLUSTER scope (R89). -/
def SegRun.copies (x : SegRun) (g : Seg) (o : OpWord) : SegRun × List Mat :=
  if o.scope = 0 then
    let r := x.opIn g o 0
    (r.1, List.replicate g.span r.2)
  else (upTo g.span).foldl (fun (a : SegRun × List Mat) i =>
    let r := a.1.opIn g o i
    (r.1, a.2 ++ [r.2])) (x, [])

/-- One operation in program order (R90); over an empty matrix it writes nothing (R97). -/
def SegRun.op (g : Seg) (x : SegRun) (i : Nat) : SegRun :=
  let o := opWord g.prog i
  if g.rows = 0 ∨ [o.dst, o.a, o.b, o.c].any (codeEmpty g.prog) then x
  else
    let r := x.copies g o
    let y := r.1.place g o r.2
    { y with env := (o.dst, r.2) :: y.env.filter (fun p => p.1 != o.dst) }

/-- A whole segment computed (R87 to R99). -/
def State.runSegment (s : State) (e : Nat) (g : Seg) : SegRun :=
  let x : SegRun := ⟨s, [(0x40, (upTo g.span).map (s.segInput e g))], false, false, s.free⟩
  let y := (upTo (fieldLe g.prog 0 2)).foldl (SegRun.op g) x
  { y with st := { y.st with free := max y.st.free (y.free + 64 + 4 * fieldLe g.prog 4 1) } }

/-- The bytes of output k of a segment: from cluster 0 of the span; an output that its operation left unwritten has bytes the spec does
not state, and an empty slice has none (R91, R95, R97; log entry 179). -/
def SegRun.outData (x : SegRun) (g : Seg) (k : Nat) : List MByte :=
  let d := oDesc g.prog k
  match x.env.find? (fun p => p.1 == 0x41 + k) with
  | some p =>
    let m := p.2.getD 0 ⟨0, 0, []⟩
    (m.rows.map (fun r => markBytes m.code m.cols r.1 r.2)).flatten
  | none => clean (natLe (g.rows * fmtBytes d.2.1 d.2.2) (Config.freeNat (x.free + 64 + k)))

/-- The outputs of a segment handed on (R95). -/
def SegRun.outputs (x : SegRun) (g : Seg) : List SegOut :=
  (upTo (fieldLe g.prog 4 1)).map (fun k => SegOut.mk (oDesc g.prog k).1 g.ce.mb g.ce.slice (x.outData g k))

/-- Outputs put where their fetch streams take them. -/
def CluSt.putOuts (c : CluSt) (new : List SegOut) : CluSt :=
  { c with outs := (c.outs.filter (fun (o : SegOut) => !new.any (fun (n : SegOut) => n.tid == o.tid && n.mb == o.mb && n.slice == o.slice))) ++ new }

/-! ## Segments (R87, R90, R91, R107, R239) -/

/-- Plan work may start or go on: plan time runs, no pause, power READY or RUN (R231, R249). -/
def State.planRuns (s : State) : Bool :=
  decide (2 ≤ s.rf R.PWR_STATE_STATE) && s.slotTime

/-- The physical clusters that serve a span, none when a place of it is not served (R416). -/
def State.spanUnits (s : State) (first span : Nat) : Option (List Nat) :=
  let us := (upTo span).filterMap (fun i => s.serverOf 1 (first + i))
  if us.length = span then some (us.map uIdx) else none

/-- The count of a cluster entry's START. -/
def State.cluAt (s : State) (start : Nat) : Nat := s.planC + s.step.slip + start

/-- Ticks of a number of FCLK cycles at the running rate. -/
def State.cycleTicks (s : State) (cycles : Nat) : Nat := ceilDiv (cycles * 100) (s.rf R.PWR_CLOCK_FCLK_MHZ)

/-- An entry leaves those not started and runs. -/
def State.runEntry (s : State) (e : Nat) : State :=
  { s with clu := { s.clu with left := s.clu.left.filter (· != e), running := s.clu.running ++ [(e, s.row)] } }

/-- An entry has ended: its ring writes are forgotten and its completion arrives once at its barrier (R239). -/
def State.endEntry (s : State) (e : Nat) : State :=
  let b := (cluEntry s.schedule e).barrier
  let s := s.give poolRing (s.clu.rings.filter (fun r => r.entry == e)).length
  let s := { s with clu := { s.clu with running := s.clu.running.filter (fun p => p.1 != e)
                                        left := s.clu.left.filter (· != e), rings := s.clu.rings.filter (fun r => r.entry != e) } }
  if b = 0xFFFF then s else s.partyArrives 4 (b % 4096)

/-- SEGMENT_START (R87): an entry of KIND 0 starts on its span at its plan offset; the outputs of an empty slice are complete at once
(R91). -/
def execSegmentStart (e : Nat) (s : State) : Res :=
  .next (match s.segOf e with
    | none => s
    | some g =>
      if !s.planRuns || !s.clu.left.contains e then s
      else match s.spanUnits g.ce.first g.span with
        | none => s
        | some us =>
          let s := ((s.advance (s.cluAt g.ce.start)).runEntry e).useUnits (us.map (0x1000 + ·))
          let s := if g.rows = 0 then { s with clu := s.clu.putOuts ((SegRun.mk s [] false false 0).outputs g) } else s
          s.forEach us (fun s p =>
            let s := ((s.set (R.CLU_SEGMENT_PROGRAM p) g.ent.prog).set (R.CLU_SEGMENT_LIFELINE p) g.ent.life).set (R.CLU_SEGMENT_SLICE p) g.ce.slice
            let s := (s.set (R.CLU_SEGMENT_MB p) g.ce.mb).set (R.CLU_SEGMENT_REPLAY p) 0
            (s.set (R.CLU_SEGMENT_LEAD p) (if some p = us.head? then 1 else 0)).set (R.CLU_SEGMENT_BUSY p) 1))

/-- The registers of a span after work of some cycles: CLU_BUSY and CLU_SEGMENTS (R108). An empty segment's reserved time and the segment
itself count as any other's (log entry 180). -/
def State.countWork (s : State) (us : List Nat) (cycles : Nat) : State :=
  s.forEach us (fun s p =>
    (((s.set (R.CLU_BUSY_CYCLES p) (s.rf (R.CLU_BUSY_CYCLES p) + cycles)).bump (R.CLU_SEGMENTS_COUNT p)).set
      (R.CLU_SEGMENT_BUSY p) 0).set (R.CLU_SEGMENT_REPLAY p) 0)

/-- What a finished segment leaves in CLU_ERR (R108, R128): non-finite results before marked inputs. -/
def State.segStatus (s : State) (us : List Nat) (nonfin marked : Bool) : State :=
  s.forEach us (fun s p =>
    let s := if nonfin then s.set (R.CLU_ERR_NONFINITE_OUT p) 1 else s
    let s := if marked then s.set (R.CLU_ERR_INPUT_MARKED p) 1 else s
    s.set (R.CLU_ERR_LAST_STATUS p) (if nonfin then stNONFINITE else if marked then stPOISON_IN else stOK))

/-- Whether a stream's block list writes to the host tier. -/
def State.toHost (s : State) (n : Nat) : Bool :=
  (upTo ((s.listOf n).length / 32)).any (fun k =>
    let e := entryAt (s.listOf n) k
    !isPort e.dst && s.farSide (e.dst % 2 ^ 52) == some 0)

/-- A non-finite value in a swatch: its output streams to the host carry NONFINITE, where no other status stands (R32, R129). -/
def State.markSwatch (s : State) : State :=
  s.forEach (s.runSet.filter s.toHost) (fun s n => if s.rf (R.STREAM_RUN_STATUS n) = 0 then s.set (R.STREAM_RUN_STATUS n) stNONFINITE else s)

/-- The completion watchdog of R414: the cluster it flags of a span whose fixed-time item, due at a count, is still unfinished 256 FCLK cycles
later; an item that is replayed after a failover is held to no count of its own (R107; log entry 246). -/
def State.overdueUnit (s : State) (us : List Nat) (due : Nat) : Option Nat :=
  if due + s.cycleTicks 256 < s.row ∧ us.all (fun p => s.rf (R.CLU_SEGMENT_REPLAY p) == 0) then us.head?.map (0x1000 + ·) else none

/-- SEGMENT_END (R90, R414): WORK_CYCLES after its start the segment's results stand, and its completion goes to its output streams; one that
the watchdog finds overdue is a unit fault instead. -/
def execSegmentEnd (e : Nat) (s : State) : Res :=
  .next (match s.segOf e with
    | none => s
    | some g =>
      if !s.planRuns || !s.clu.running.any (fun p => p.1 == e) then s
      else match s.spanUnits g.ce.first g.span with
        | none => s
        | some us =>
          let wc := fieldLe g.prog 0xC 4
          let due := s.cluAt g.ce.start + s.cycleTicks wc
          match s.overdueUnit us due with
          | some u => s.unitFault u
          | none =>
            let s := s.advance due
            let x := s.runSegment e g
            let s := { x.st with clu := x.st.clu.putOuts (x.outputs g) }
            let s := (s.countWork us wc).segStatus us x.nonfin x.marked
            let s := if x.nonfin then s.raiseFlag 2 else s
            let s := if x.nonfin && s.step.swatchRun.isSome then s.markSwatch else s
            (s.endEntry e).releaseStash)

/-! ## Operand expanders (R190, R191) -/

/-- SPLITK with which a program reads weight w: the largest of the GEMMs that name it (log entry 181). -/
def splitOf (b : List Byte) (w : Nat) : Nat :=
  (upTo (fieldLe b 0 2)).foldl (fun a i => if (opWord b i).isGemm && (opWord b i).b == 0x80 + w then max a (opWord b i).sk else a) 1

/-- The running segment that a logical core serves. -/
def State.segAt (s : State) (l : Nat) : Option Seg :=
  (s.clu.running.filterMap (fun p => s.segOf p.1)).find? (fun g => g.covers l)

/-- EXPANDER_CHUNK (R190): core q's expander decodes K-chunk `chunk` of panel `panel` of weight descriptor `skein` into its chunk stage,
chunk by chunk into the two buffers in turn (log entry 182). -/
def execExpanderChunk (core : Fin 144) (skein panel chunk : Nat) (s : State) : Res :=
  .next (
    let q := core.val
    let lc := s.rf (R.EXP_STAT_LOGICAL q)
    if !s.planRuns || s.rf (R.EXP_STAT_STATE q) != 2 then s
    else match s.segAt (lc / 4) with
      | none => s
      | some g =>
        let d := wDesc g.prog skein
        let sk := splitOf g.prog skein
        if fieldLe g.prog 5 1 ≤ skein ∨ d.index ≠ 0 ∨ ceilDiv d.n 128 ≤ panel ∨ ceilDiv d.k 512 ≤ chunk then s
        else
          let h := perPart d sk
          let t := chunk / h
          let x := s.expandPart d panel t sk (t * h)
          let l := chunkOf d x.data (t * h) chunk
          let at_ := d.before chunk
          let met := x.fails.filter (fun o => decide (at_ ≤ max o (d.before (t * h))) && decide (max o (d.before (t * h)) < at_ + l.length))
          let hdr := (s.readOA .cluster ((s.panelWord d panel).1 % 2 ^ 52) 32).data
          let refused := chunk == 0 && d.prof == 1 && !hdr.any (·.2) && hdrFormOk (hdr.map (·.1)) && (parseHdr (hdr.map (·.1))).refKind == 1
          let s := x.st.writeMem (coreBuf lc + 0x1C0000 + chunk % 2 * 0x20000) l
          let s := s.bump (R.EXP_STAT_CHUNKS q)
          let s := if refused then s.set (R.EXP_ERR_REF_REFUSED q) 1 else s
          let s := s.addSat (R.EXP_ERR_CHECK_FAILS q) met.length
          if l.any (·.2) then (s.set (R.EXP_ERR_BLOCK_FAIL q) 1).set (R.EXP_ERR_LAST_STATUS q) stCHECK_FAIL else s)

/-! ## Gauges (R131, R132) -/

/-- GAUGE_CTRL.CLEAR: pending to the bind-off in a step or while a bind-off's figures are due, else at once. -/
def State.writeGaugeCtrl (s : State) (w : Wr) : State :=
  let t := s.regWrite 0x680000 w
  if w.get .host R.GAUGE_CTRL_CLEAR = 1 then
    if t.inStep || t.step.figDue then
      ({ t with step := { t.step with clearGauge := true } }).set R.GAUGE_CTRL_CLEAR_PENDING 1
    else t.forEach (upTo 256) (fun t k => t.set (R.GAUGE_CUM_COUNT k) 0)
  else t

/-- GAUGE_CLEAR: a write of GAUGE_CTRL with CLEAR set. -/
def execGaugeClear (m : Master) (v : BitVec 64) (s : State) : Res :=
  .next (if s.reach m then s.writeGaugeCtrl (Wr.full m (v ||| 1).toNat) else s)

/-- The step's figures written to GAUGE_LAST and added to GAUGE_CUM (R131). -/
def State.gaugeBoundary (s : State) : State :=
  let s := s.forEach (upTo 256) (fun s k =>
    let v := SMap.get (fun _ => 0) s.gauge k
    (s.set (R.GAUGE_LAST_COUNT k) v).set (R.GAUGE_CUM_COUNT k) (s.rf (R.GAUGE_CUM_COUNT k) + v))
  let s := ({ s with gauge := [] }).set R.GAUGE_CTRL_AT_STEP s.step.lastStep
  if s.step.clearGauge then
    let s := s.forEach (upTo 256) (fun s k => s.set (R.GAUGE_CUM_COUNT k) 0)
    ({ s with step := { s.step with clearGauge := false } }).set R.GAUGE_CTRL_CLEAR_PENDING 0
  else s

end Sys2Proof.Machine
end

