-- ==== Sys2Proof/Machine/Adds.lean ====
section
/-! DEFINITION. Machine/Adds.lean: add-writes into accumulators, in sequence order, and their clearing (R308 to R310, R345). -/

namespace Sys2Proof.Machine

/-! ## Regions -/

/-- Key of a region, and its elements. -/
def regKey (a r : Nat) : Nat := a * 2 ^ 18 + r
def AccDesc.regElems (d : AccDesc) (r : Nat) : Nat := min 16384 (d.elems - 16384 * r)

/-- Elements of a region that the sequence being applied has covered (R309). -/
def State.covered (s : State) (k : Nat) : List Nat := SMap.get (fun _ => []) s.upd.cover k

/-- Whether an add-write reaches an element its sequence has covered. -/
def State.overlapsCover (s : State) (h : HeldAdd) : Bool :=
  (s.covered (regKey h.acc h.reg)).any (fun e => decide (h.elem ≤ e) && decide (e < h.elem + h.vals.length))

/-- An add-write refused or discarded: logged with BAD_ARG, CDP_ERR.WRITE_REFUSED set (R309, R345). -/
def State.addRefused (s : State) (p oa : Nat) : State :=
  let s := ((s.set (R.CDP_ERR_WRITE_REFUSED p) 1).addSat (R.CDP_ERR_COUNT p) 1).set (R.CDP_ERR_LAST_STATUS p) stBAD_ARG
  s.logEv stBAD_ARG 0x50 p 0 oa

/-! ## Adding (R308, R309, R345) -/

/-- The exact sum of two FP32 patterns rounded once, as the gauge sees it (R125). -/
def addWrote (a x : Nat) : Wrote := roundElem (fmtOf 0) rne ((dec32 a).add (dec32 x)) false

/-- One operand added to an element. Sums of sequence 0 stay out of sight until it has completed (R310). -/
def State.addOne (s : State) (d : AccDesc) (h : HeldAdd) (i : Nat) : State :=
  let v := h.vals.getD i (0, false)
  let e := h.elem + i
  let oa := d.oa + 65536 * h.reg + 4 * e
  let key := h.acc * 2 ^ 32 + 16384 * h.reg + e
  let old := if h.seq = 0 then (0, false) else
    let g := s.readOA .cluster oa 4
    (leNat (g.data.map (·.1)), g.data.any (·.2))
  let w := addWrote old.1 v.1
  let s := s.countWrote 3 0 [w]
  let s := if w.nonfin then s.raiseFlag 1 else s
  if h.seq = 0 then
    { s with upd := { s.upd with first := SMap.put (fun _ => 2 ^ 33) s.upd.first key w.bits
                                 firstBad := if v.2 then NSet.ins key s.upd.firstBad else s.upd.firstBad } }
  else (s.writeOA .cluster 2 oa ((natLe 4 w.bits).map (fun b => (b, v.2 || old.2)))).st

/-- The sums of a completed sequence 0 become visible. -/
def State.showFirst (s : State) (a r : Nat) (d : AccDesc) : State :=
  let mine := fun k => k / 2 ^ 32 == a && k % 2 ^ 32 / 16384 == r
  let s := (s.upd.first.filter (fun p => mine p.1)).foldl (fun s p =>
    (s.writeOA .cluster 2 (d.oa + 4 * (p.1 % 2 ^ 32)) ((natLe 4 p.2).map (fun b => (b, s.upd.firstBad.contains p.1)))).st) s
  { s with upd := { s.upd with first := s.upd.first.filter (fun p => !mine p.1), firstBad := s.upd.firstBad.filter (fun k => !mine k) } }

/-- An add-write of the sequence being applied. -/
def State.applyAdd (s : State) (h : HeldAdd) : State :=
  let d := accDesc s.updProg h.acc
  let k := regKey h.acc h.reg
  if s.overlapsCover h then s.addRefused h.port (d.oa + 65536 * h.reg + 4 * h.elem)
  else
    let s := (upTo h.vals.length).foldl (fun s i => s.addOne d h i) s
    let cov := (upTo h.vals.length).foldl (fun l i => NSet.ins (h.elem + i) l) (s.covered k)
    let s := { s with upd := { s.upd with cover := SMap.put (fun _ => []) s.upd.cover k cov } }
    if cov.length < d.regElems h.reg ∨ s.upd.dead.contains k then s
    else
      let n := s.regCount h.acc h.reg + 1
      let s := if n = 1 then s.showFirst h.acc h.reg d else s
      let s := { s with upd := { s.upd with cover := SMap.put (fun _ => []) s.upd.cover k [], counts := SMap.put (fun _ => 0) s.upd.counts k n } }
      if n = d.nseq then s.addSem d.sem 1 else s

/-- Held add-writes whose sequence has come applied, and those whose sequence the region has completed meanwhile discarded, with fuel. -/
def State.applyHeld (s : State) : Nat → State
  | 0 => s
  | fuel + 1 =>
    match s.upd.heldAdds.find? (fun h => decide (h.seq ≤ s.regCount h.acc h.reg)) with
    | none => s
    | some h =>
      let past := decide (h.seq < s.regCount h.acc h.reg)
      let s := ({ s with upd := { s.upd with heldAdds := s.upd.heldAdds.erase h } }).dropHeld h
      let s := if past then s.addRefused h.port ((accDesc s.updProg h.acc).oa + 65536 * h.reg + 4 * h.elem) else s.applyAdd h
      s.applyHeld fuel

/-- An add-write that meets the conditions of R345: applied, held, or discarded when its sequence is past; a non-finite operand raises
FLAG_OUT as it is delivered (R128). -/
def State.takeAdd (s : State) (h : HeldAdd) (oa : Nat) : State :=
  let n := s.regCount h.acc h.reg
  let s := if n ≤ h.seq ∧ h.vals.any (fun v => !isFin32 v.1) then s.raiseFlag 1 else s
  if h.seq < n then s.addRefused h.port oa
  else if n < h.seq then
    { s with upd := { s.upd with heldAdds := s.upd.heldAdds ++ [h] }, led := { s.led with addIn := s.led.addIn + 1 } }
  else (s.applyAdd h).applyHeld (s.upd.heldAdds.length + 1)

/-- A region that lost an add-write never completes until its next clearing (R345). -/
def State.killRegion (s : State) (oa : Nat) : State :=
  match s.accAt oa with
  | none => s
  | some (a, e) => { s with upd := { s.upd with dead := NSet.ins (regKey a (e / 16384)) s.upd.dead } }

/-- Granules of add-writes that a port holds. -/
def State.heldGranules (s : State) (p : Nat) : Nat :=
  (s.upd.heldAdds.filter (fun h => h.port == p && !h.stale)).foldl (fun a h => a + ceilDiv h.bytes 64) 0

/-- The operands of an add-write as FP32 patterns with the marks of their granules. -/
def addOperands (fmt : Nat) (data : List Byte) (marks : List Bool) : List (Nat × Bool) :=
  let w := if fmt = 0 then 4 else 2
  (upTo (data.length / w)).map (fun i => (fieldLe data (w * i) w * (if fmt = 0 then 1 else 65536), marks.getD (w * i / 64) false))

/-- ACCUMULATOR_CLEAR (R310): the accumulators whose CLEAR_AT comes next are cleared at that plan offset. -/
def execAccumulatorClear (s : State) : Res :=
  .next (
    let b := s.updProg
    let open_ := (upTo (fieldLe b 0 2)).filter (fun a => (accDesc b a).clear != 0 && !s.upd.cleared.contains a)
    match leastBy (fun a => (accDesc b a).clear) open_ with
    | none => s
    | some a =>
      if !s.planRuns || !s.inStep then s
      else
        let t := (accDesc b a).clear
        let s := s.advance (s.cluAt t)
        s.forEach (open_.filter (fun x => (accDesc b x).clear == t)) (fun s x =>
          let s := s.clearAcc x
          { s with upd := { s.upd with cleared := NSet.ins x s.upd.cleared } }))

end Sys2Proof.Machine
end

