-- ==== Sys2Proof/Machine/NitasCheck.lean ====
section
/-! DEFINITION. Machine/NitasCheck.lean: the rules a Nitas program and its block list must meet, in a chart and in an OPEN (R135,
R136, R199, R200, R207 to R220, R245, R420). -/

namespace Sys2Proof.Machine

/-- What the rules need of the chart or of the device: PORT_MASK, DEVICES, the largest block of a MOVE, whether an OA may hold a
semaphore of the stream's owner, the PACE_LINES of a port, and whether the program is judged by itself, with no context's block list and
pace line. -/
structure NitasEnv where
  mask    : Nat
  devices : Nat
  moveMax : Nat
  sem     : Nat → Bool
  lines   : Nat → Nat
  bare    : Bool

/-- Whether an address keeps R200: an OA anywhere, a port address only as a destination on a named port. -/
def NitasEnv.addrOk (v : NitasEnv) (a : Nat) (dest : Bool) : Bool :=
  if a / 2 ^ 62 = 0 then bitsOf a 52 10 == 0
  else dest && a / 2 ^ 62 == 1 && bitsOf a 58 4 == 0 && bitsOf a 48 8 == 0 && v.mask.testBit (bitsOf a 56 2)

/-- Flag bits an opcode names, and its reserved bytes: first and count (*Instruction layouts*); none for an opcode not in the table. -/
def nitasForm (op : Nat) : Option (Nat × Nat × Nat) :=
  match op with
  | 0x1 => some (3, 8, 8)
  | 0x2 => some (7, 10, 2)
  | 0x3 => some (2, 3, 5)
  | 0x4 => some (0, 6, 10)
  | 0x5 => some (0, 4, 12)
  | 0x6 => some (0, 4, 12)
  | 0x7 => some (1, 2, 2)
  | 0x8 => some (7, 0, 0)
  | 0x9 => some (15, 2, 2)
  | 0xA => some (0, 2, 14)
  | 0xB => some (1, 2, 6)
  | 0xC => some (1, 8, 8)
  | 0xD => some (3, 2, 6)
  | 0xE => some (0, 2, 14)
  | 0xF => some (0, 2, 14)
  | _ => none

/-- Rule 1: the opcode is named and every reserved bit and byte is zero. -/
def reservedOk (u : List Byte) : Bool :=
  match nitasForm (uOp u) with
  | none => false
  | some (flags, o, n) => fieldLe u 1 1 - (fieldLe u 1 1 &&& flags) == 0 && fieldLe u o n == 0

/-- Rule 6: a signal's or mark's target (R215). -/
def NitasEnv.targetOk (v : NitasEnv) (kind target addr : Nat) : Bool :=
  match kind with
  | 0 => target == 0 && addr % 8 == 0 && addr / 2 ^ 52 == 0 && v.sem addr
  | 1 => decide (target < v.devices) && decide (target < 64) && addr % 8 == 0 && decide (addr < 2 ^ 42)
  | 2 => v.mask.testBit (target / 2 ^ 30) && addr == 0
  | 3 => decide (target < 2048) && addr == 0
  | _ => false

/-- Whether an entry's REF may stand in a MOVE or MOVEX (R207). -/
def refOk (u : List Byte) (e : Entry) : Bool :=
  let width := fieldLe u 9 1
  if uOp u = opMOVE ∨ uFlag u 2 then e.ref == 0
  else if fieldLe u 8 1 = 1 then aFormOk e.ref (fieldLe u 12 4) width e.len
  else if fieldLe u 8 1 = 2 then e.ref == 0
  else decide (e.ref < 2 ^ 52) && (decide (width < 16) || e.ref % (width / 8) == 0)

/-- PROFILE, WIDTH and PROFILE_WORD of a MOVEX (R135, R161, R207). The address of a skein that R133 does not admit is not refused here: no
rule names a refusal, and a skein is then coded where it is asked to be (log entry 192). -/
def movexOk (u : List Byte) : Bool :=
  let p := fieldLe u 8 1
  let w := fieldLe u 9 1
  [1, 2, 3].contains p && [4, 8, 16, 32].contains w && (p != 1 || decide (16 ≤ w))
    && (fieldLe u 12 4 == 0 || (p == 1 && !uFlag u 2 && aFormOk 0 (fieldLe u 12 4) w 0))

/-- Rules 5 to 7 for one entry that a MOVE or MOVEX names (R136, R207, R420). -/
def NitasEnv.blockOk (v : NitasEnv) (u : List Byte) (e : Entry) : Bool :=
  refOk u e &&
    (if uOp u = opMOVE then decide (e.len ≤ v.moveMax)
     else uFlag u 2 || (e.dst / 2 ^ 62 == 0 && (decide (fieldLe u 9 1 < 16) || e.len % (fieldLe u 9 1 / 8) == 0)))

/-- Rules 1, 3, 5, 6 and 7 for one instruction, its data units following it in the program. -/
def NitasEnv.instrOk (v : NitasEnv) (prog list : List Byte) (pace pc : Nat) : Bool :=
  let u := unitAt prog pc
  let op := uOp u
  reservedOk u &&
    (if op = opMOVE ∨ op = opMOVEX then
      (op == opMOVE || movexOk u) && (v.bare || (decide (32 * (fieldLe u 4 4 + fieldLe u 2 2) ≤ list.length) &&
        (upTo (fieldLe u 2 2)).all (fun k => v.blockOk u (entryAt list (fieldLe u 4 4 + k)))))
    else if op = opINLINE then
      let len := fieldLe u 2 1
      decide (len ≤ 192) && v.addrOk (fieldLe u 8 8) true && decide (16 * (pc + 1 + ceilDiv len 16) ≤ prog.length)
        && fieldLe prog (16 * (pc + 1) + len) (16 * ceilDiv len 16 - len) == 0
    else if op = opWAITPACE then v.bare || decide (pace % 16384 < v.lines (pace / 16384))
    else if op = opWAITSEM then fieldLe u 8 8 % 8 == 0 && decide (fieldLe u 8 8 < 2 ^ 52) && v.sem (fieldLe u 8 8)
    else if op = opSIGNAL then v.targetOk (fieldLe u 1 1) (fieldLe u 4 4) (fieldLe u 8 8)
    else if op = opMARK then v.targetOk (fieldLe u 1 1 / 2) (fieldLe u 4 4) (fieldLe u 8 8)
    else if op = opSEAL then !uFlag u 0 || (fieldLe u 8 8 % 32 == 0 && v.addrOk (fieldLe u 8 8) true)
    else if op = opBARRIER then decide (fieldLe u 2 2 ≤ 4095)
    else if op = opSETREG then decide (fieldLe u 8 8 < 2 ^ 48)
    else true)

/-- Rules 2 and 4 from a unit on: open loops (place of the LOOP, innermost first) and whether a SEAL has passed; every instruction is
tested as it is met. DEDUCED: an END before the SEAL is admitted where the last unit is an END behind it, since rule 4 forbids none; the
sentence after the rules says that every program which runs to its end has sealed (log entry 235). -/
def NitasEnv.walk (v : NitasEnv) (prog list : List Byte) (pace : Nat) : Nat → Nat → List Nat → Bool → Bool
  | 0, _, _, _ => false
  | fuel + 1, pc, loops, sealed =>
    if prog.length ≤ 16 * pc then false
    else
      let u := unitAt prog pc
      let op := uOp u
      if !v.instrOk prog list pace pc then false
      else if sealed && op != opSIGNAL && op != opNOP && op != opEND then false
      else if op = opEND ∧ prog.length = 16 * (pc + 1) then sealed && loops.isEmpty
      else if op = opLOOP then decide (loops.length < 2) && v.walk prog list pace fuel (pc + 1) (pc :: loops) sealed
      else if op = opENDLOOP then
        match loops with
        | [] => false
        | l :: t =>
          let body := fieldLe (unitAt prog l) 4 2
          body == fieldLe u 2 2 && pc == l + 1 + body && v.walk prog list pace fuel (pc + 1) t sealed
      else if op = opSEAL then loops.isEmpty && v.walk prog list pace fuel (pc + 1) loops true
      else if op = opINLINE then v.walk prog list pace fuel (pc + 1 + ceilDiv (fieldLe u 2 1) 16) loops sealed
      else v.walk prog list pace fuel (pc + 1) loops sealed

/-- A program against R220; an empty one ends at once (R219). A program holds at most 65,536 units (R204). -/
def NitasEnv.progOk (v : NitasEnv) (prog list : List Byte) (pace : Nat) : Bool :=
  prog.isEmpty || (prog.length % 16 == 0 && decide (prog.length ≤ 1048576) && v.walk prog list pace (prog.length / 16 + 1) 0 [] false)

/-- A block-list entry's own form (R199, R200). -/
def NitasEnv.entryOk (v : NitasEnv) (list : List Byte) (k : Nat) : Bool :=
  let e := entryAt list k
  fieldLe list (32 * k + 0x17) 1 == 0 && decide (e.kind ≤ 1) && v.addrOk e.src false && v.addrOk e.dst true

/-- MSI-X vectors that a program raises (R215, R216). -/
def vectorsOf (prog : List Byte) : List Nat :=
  ((instrsOf prog).filter (fun u => (uOp u == opSIGNAL && fieldLe u 1 1 == 3) || (uOp u == opMARK && fieldLe u 1 1 / 2 == 3))).map
    (fun u => fieldLe u 4 4)

/-- Whether RUN_AHEAD, TILE_BURSTS and INFLIGHT keep rule 8. -/
def rule8 (inflight runAhead tile : Nat) : Bool :=
  decide (1 ≤ inflight ∧ inflight ≤ 6) && decide (runAhead ≤ 8) && decide (runAhead * tile ≤ 16384)

end Sys2Proof.Machine
end

