-- ==== Sys2Proof/Machine/Ports.lean ====
section
/-! DEFINITION. Machine/Ports.lean: the compute-die ports: messages of the port protocol, credits, bring-up, resets, module failover
(R247, R336 to R361). -/

namespace Sys2Proof.Machine

/-! ## Errors and credits -/

/-- A refused message recorded in CDP_ERR; one that the tiers refused has been logged there (R264). -/
def State.cdpMark (s : State) (p st : Nat) (bit : Nat → Fld) : State :=
  ((s.set (bit p) 1).addSat (R.CDP_ERR_COUNT p) 1).set (R.CDP_ERR_LAST_STATUS p) st

/-- A refused message: CDP_ERR and the log. -/
def State.cdpErr (s : State) (p st : Nat) (bit : Nat → Fld) (aux : Nat) : State := (s.cdpMark p st bit).logEv st 0x50 p 0 aux

/-- A protocol error (R351): the message is discarded and returns no credit. -/
def State.protoErr (s : State) (p : Nat) : State := s.cdpErr p stBAD_ARG R.CDP_ERR_PROTOCOL 0

/-- A message discarded for a protocol error with the credits it took, which do not come back before the next bring-up (R351). -/
def State.dropMsg (s : State) (p d a : Nat) : State :=
  let x := s.port p
  (s.setPort p { x with lostHdr := x.lostHdr + 1, lostData := x.lostData + d, lostAddw := x.lostAddw + a }).protoErr p

/-- The credits that a message of the die has taken: a header, write data, add-writes (R350, R431). -/
def State.arriveMsg (s : State) (p d a : Nat) : State := ((s.take (poolIn p 0) 1).take (poolIn p 1) d).take (poolIn p 2) a

/-- Whether a request may cross no 4,096-byte boundary (R342). -/
def crosses4k (a n : Nat) : Bool := decide (4096 < a % 4096 + n)

/-- A byte's granule marked: marks of bytes spread to aligned granules (R353). -/
def portMarks (a : Nat) (l : List MByte) : List MByte :=
  (upTo l.length).map (fun i =>
    ((l.getD i (0, false)).1, (upTo l.length).any (fun j => (a + j) / 64 == (a + i) / 64 && (l.getD j (0, false)).2)))

/-- Bytes of a message with the marks of the granules they came in. -/
def withMarks (a : Nat) (data : List Byte) (marks : List Bool) : List MByte :=
  (upTo data.length).map (fun i => (data.getD i 0, marks.getD ((a + i) / 64 - a / 64) false))

/-- A marked granule received (R353). -/
def State.markedIn (s : State) (p : Nat) (marks : List Bool) : State :=
  if marks.any id then
    ((s.set (R.CDP_ERR_MARKED_IN p) 1).set (R.CDP_ERR_LAST_STATUS p) stPOISON_IN).raiseFlag 4
  else s

/-- Granules received counted. -/
def State.countIn (s : State) (p g : Nat) : State := s.set (R.CDP_TRAFFIC_IN_GRANULES p) (s.rf (R.CDP_TRAFFIC_IN_GRANULES p) + g)

/-- The port that the ownership map gives an OA page of owner CDP. -/
def State.pagePort (s : State) (page : Nat) : Option Nat :=
  match s.chart.active with
  | none => none
  | some c => ((upTo (c.cnt 11)).find? (c.ownEntryCovers 3 page)).map (fun e => fieldLe (c.sec 11) (16 * e + 2) 1)

/-! ## Reads and writes of the die (R342 to R345, R347, R348) -/

/-- Credits of a message returned as it leaves the ingress buffer or is applied, unless a reset has taken them back (R350, R358). -/
def State.giveBack (s : State) (p : Nat) (r : DieReq) (h d a : Nat) : State :=
  if r.stale then s else s.returnCr p h d a

/-- STATUS of an RDR with the place of its first byte within the first granule: how the model writes down an answer (R340, R343). -/
def rdrWord (st oa : Nat) : Nat := st + 256 * (oa % 64)

/-- A read served (R343): answered with one RDR of the same TAG; a refused read with BAD_ARG and marked granules. -/
def State.serveRd (s : State) (q : Nat) (r : DieReq) : State :=
  if r.len = 0 then (s.emit (.kpp q kRDR r.tag stOK [])).giveBack q r 1 0 0
  else
    let g := s.readOA .die r.oa r.len
    let s := if g.data.any (·.2) then g.st.noteRange r.oa r.len else g.st
    let s := s.set (R.CDP_TRAFFIC_OUT_GRANULES q) (s.rf (R.CDP_TRAFFIC_OUT_GRANULES q) + granuleCount r.oa r.len)
    if g.refused then
      let s := s.cdpMark q stBAD_ARG R.CDP_ERR_READ_REFUSED
      (s.emit (.kpp q kRDR r.tag (rdrWord stBAD_ARG r.oa) (g.data.map (fun b => (b.1, true))))).giveBack q r 1 0 0
    else (s.emit (.kpp q kRDR r.tag (rdrWord stOK r.oa) (portMarks r.oa g.data))).giveBack q r 1 0 0

/-- The first page of a write that R264 refuses to a die, with why. -/
def State.dieRefusal (s : State) (oa n : Nat) : Option (Refused × Nat) :=
  (pageSpans oa n).findSome? (fun sp => match s.pageFor .die sp.1 (s.redirects sp.1) with
    | .error why => some (why, sp.1 * 2 ^ 21 + sp.2.1)
    | .ok _ => if s.pairClosed sp.1 then some (.barred, sp.1 * 2 ^ 21 + sp.2.1) else none)

/-- A write served (R344, R353): applied as one unit, or discarded whole with NOT_OWNER or BAD_ARG. -/
def State.serveWr (s : State) (q : Nat) (r : DieReq) : State :=
  let s := s.giveBack q r 1 (granuleCount r.oa r.data.length) 0
  if (pageSpans r.oa r.data.length).any (fun sp => s.pageOwner sp.1 != 3 || s.pagePort sp.1 != some q) then
    s.cdpErr q stNOT_OWNER R.CDP_ERR_WRITE_REFUSED r.oa
  else match s.dieRefusal r.oa r.data.length with
    | some (why, at_) => (s.tierRefuse why stBAD_ARG at_).cdpMark q stBAD_ARG R.CDP_ERR_WRITE_REFUSED
    | none => (s.writeOA .die 3 r.oa (withMarks r.oa r.data r.marks)).st

/-- An add-write served (R345): checked, then applied in sequence order, held, or discarded. -/
def State.serveAddw (s : State) (q : Nat) (r : DieReq) : State :=
  let g := ceilDiv r.data.length 64
  let w := if r.fmt = 0 then 4 else 2
  let s := s.giveBack q r 1 0 0
  let bad := (s.addRefused q r.oa).killRegion r.oa
  if r.data.isEmpty then s
  else if r.oa % 4 ≠ 0 ∨ r.data.length % w ≠ 0 then bad.giveBack q r 0 0 g
  else match s.accAt r.oa with
    | none => bad.giveBack q r 0 0 g
    | some (a, e) =>
      let d := accDesc s.updProg a
      let n := r.data.length / w
      if d.regElems (e / 16384) < e % 16384 + n ∨ d.nseq ≤ r.tag then bad.giveBack q r 0 0 g
      else
        let h : HeldAdd := ⟨q, r.tag, a, e / 16384, e % 16384, r.data.length, addOperands r.fmt r.data r.marks, r.stale⟩
        let held := decide (s.regCount a (e / 16384) < r.tag)
        let s := s.takeAdd h r.oa
        if held then s else s.giveBack q r 0 0 g

/-- A message of the die served. -/
def State.serveReq (s : State) (p : Nat) (r : DieReq) : State :=
  if r.kind = 0 then s.serveRd p r
  else if r.kind = 1 then s.serveWr p r
  else if r.kind = 2 then s.serveAddw p r
  else if r.kind = 3 then (s.partyArrives p r.tag).giveBack p r 1 0 0
  else (s.emit (.kpp p kFACK r.tag stOK [])).giveBack p r 1 0 0

/-- What a message takes of the die's slots (R354, R355): a header on ingress with its granules, memory, and the answer on egress. -/
def State.dieLoad (s : State) (p : Nat) (r : DieReq) : List Load :=
  let head := (0x3000 + p, 1)
  let n := r.data.length
  ownedBy (0xE000 + p)
    (if r.kind = 0 then head :: s.oaLoad r.oa r.len false ++ [(0x2000 + p, 1), (0x2800 + p, granuleCount r.oa r.len)]
     else if r.kind = 1 then head :: (0x3800 + p, granuleCount r.oa n) :: s.oaLoad r.oa n true
     else if r.kind = 2 then head :: (0x3800 + p, ceilDiv n 64) :: s.oaLoad r.oa (if r.fmt = 0 then n else 2 * n) true
     else if r.kind = 4 then [(0x2000 + p, 1)]
     else [])

/-- Whether what a die asks must wait for its own slots: in plan time until the plan's last action has completed (R236). -/
def State.dieBound (s : State) : Bool := s.inPlan && !s.planOver

/-- The oldest message of a port served when its slots have passed; FW's slots serve it where the die needs none of its own (R236). While the
port retrains its buffer waits, since it could carry no answer (R337, R356). -/
def State.serveNext (s : State) (p : Nat) : State :=
  match (s.port p).queue with
  | [] => s
  | r :: t =>
    if s.retraining p || (s.dieBound && (s.paused || decide (s.planTick < r.due))) then s
    else ((s.give (poolBuf p) 1).setPort p { s.port p with queue := t }).serveReq p r

/-- A stream's confirmation from one far side has come. -/
def State.confirmed (s : State) (n side : Nat) : State :=
  let x := s.str n
  s.setStr n { x with confirm := x.confirm.filter (· != side) }

/-- A FACK taken (R348): it confirms the FENCE of its stream, or makes it FAR_FAULT. -/
def State.takeFack (s : State) (p : Nat) (f : Nat × Nat × Nat) : State :=
  let waits := (s.str f.1).confirm.contains (100 + p)
  let s := s.confirmed f.1 (100 + p)
  if f.2.1 = stOK ∨ waits = false then s else s.farFault f.1

/-- Whether a FACK still waits for its stream's slots. -/
def State.fackWaits (s : State) (f : Nat × Nat × Nat) : Bool := s.slotBound f.1 && decide (s.planTick < f.2.2)

/-- The FACKs of a port whose streams' slots have passed, or that need none of them any more, taken. -/
def State.serveFacks (s : State) (p : Nat) : State :=
  let go := (s.port p).facks.filter (fun f => !s.fackWaits f)
  let s := (s.give (poolBuf p) go.length).setPort p { s.port p with facks := (s.port p).facks.filter s.fackWaits }
  go.foldl (fun s f => s.takeFack p f) s

/-- Every message of a port whose slots have passed served, oldest first. -/
def State.serveDue (s : State) (p : Nat) : State :=
  (s.forEach (upTo (s.port p).queue.length) (fun s _ => s.serveNext p)).serveFacks p

/-- The messages of every port whose slots have passed served. -/
def State.serveDies (s : State) : State := s.forEach (upTo 4) State.serveDue

/-- A message put into a port's ingress buffer, and a FACK that waits there (R354, R431). -/
def State.buffer (s : State) (p : Nat) (r : DieReq) : State :=
  (s.take (poolBuf p) 1).setPort p { s.port p with queue := (s.port p).queue ++ [r] }
def State.bufferFack (s : State) (p tag status due : Nat) : State :=
  (s.take (poolBuf p) 1).setPort p { s.port p with facks := (s.port p).facks ++ [(tag, status, due)] }

/-- A message of the die taken (R354): where FW's slots serve it, at once (log entry 197); in plan time when the die's slots have carried it. One that they carry within the round under way is served here; any other waits in the ingress buffer. -/
def State.takeReq (s : State) (p : Nat) (r : DieReq) : State :=
  let s := s.serveDue p
  let x := s.port p
  if !s.dieBound then s.serveReq p r
  else match s.slots.claim x.used s.planTick (s.dieLoad p r) with
    | none => s.buffer p { r with due := s.slots.fin + 1 }
    | some c =>
      let s := s.setPort p { x with used := c.1 }
      if x.queue.isEmpty && !s.paused && decide (c.2 < (s.planTick / 32 + 1) * 32) then (s.toTick c.2).serveReq p r
      else s.buffer p { r with due := c.2 }

/-- Whether a message comes without the credits it needs (R350, R351): headers of the buffer, granules of writes. -/
def State.overCredit (s : State) (p n : Nat) : Bool :=
  let q := (s.port p).queue.filter (fun r => !r.stale)
  decide (512 ≤ (s.port p).lostHdr + q.length) ||
    (0 < n && decide (4096 < (s.port p).lostData + (q.filter (fun r => r.kind == 1)).foldl (fun a r => a + granuleCount r.oa r.data.length) 0 + n))

/-- Granules of add-writes in the buffer. -/
def State.queuedAdds (s : State) (p : Nat) : Nat :=
  ((s.port p).queue.filter (fun r => r.kind == 2 && !r.stale)).foldl (fun a r => a + ceilDiv r.data.length 64) 0

/-- Whether a read with a tag is outstanding (R343). -/
def State.tagTaken (s : State) (p tag : Nat) : Bool := (s.port p).queue.any (fun r => r.kind == 0 && r.tag == tag)

/-- RD (R343, R354). -/
def execRd (p : Fin 4) (tag : Nat) (addr : BitVec 64) (len : Nat) (s : State) : Res :=
  .next (
    let oa := addr.toNat % 2 ^ 52
    if !s.portUp p.val then s
    else if s.overCredit p.val 0 then s.protoErr p.val
    else if 4096 ≤ tag ∨ 4096 < len ∨ crosses4k oa len ∨ s.tagTaken p.val tag then (s.arriveMsg p.val 0 0).dropMsg p.val 0 0
    else (s.arriveMsg p.val 0 0).takeReq p.val ⟨0, tag, oa, len, 0, [], [], 0, false⟩)

/-- WR_FROM_DIE (R344, R353, R354); more granules than LEN holds break R340. -/
def execWrFromDie (p : Fin 4) (addr : BitVec 64) (data : List Byte) (marks : List Bool) (s : State) : Res :=
  .next (
    let oa := addr.toNat % 2 ^ 52
    let n := granuleCount oa data.length
    if !s.portUp p.val then s
    else if s.overCredit p.val n then s.protoErr p.val
    else if 4096 < data.length ∨ crosses4k oa data.length ∨ n < marks.length then (s.arriveMsg p.val n 0).dropMsg p.val n 0
    else (((s.arriveMsg p.val n 0).countIn p.val n).markedIn p.val (marks.take n)).takeReq p.val ⟨1, 0, oa, 0, 0, data, marks, 0, false⟩)

/-- ADDW (R345, R354, R413). -/
def execAddw (p : Fin 4) (w : Transfer) (addr : BitVec 64) (fmt : Nat) (data : List Byte) (marks : List Bool) (s : State) : Res :=
  .next (
    let g := ceilDiv data.length 64
    let seq := w.seq
    if !s.portUp p.val then s
    else if 4096 < (s.port p.val).lostAddw + s.heldGranules p.val + s.queuedAdds p.val + g ∨ s.overCredit p.val 0 then s.protoErr p.val
    else if 4096 < data.length ∨ 1 < fmt ∨ 65535 < seq then (s.arriveMsg p.val 0 g).dropMsg p.val 0 g
    else ((((s.markErrors w.bad (addr.toNat % 2 ^ 52) ((fmt + 1) * data.length)).arriveMsg p.val 0 g).countIn p.val g).markedIn p.val (marks.take g)).takeReq p.val ⟨2, seq, addr.toNat % 2 ^ 52, 0, fmt, data, marks, 0, false⟩)

/-! ## Pace, signals, fences (R247, R346 to R348) -/

/-- Whether a program holds a WAITPACE. -/
def hasPace (prog : List Byte) : Nat → Nat → Bool
  | 0, _ => false
  | fuel + 1, k =>
    if prog.length ≤ 16 * k then false
    else uOp (unitAt prog k) == opWAITPACE || hasPace prog fuel (k + unitsOfInstr (unitAt prog k))

/-- Whether a context's image binds a line (R245). -/
def Chart.binds (c : Chart) (n line : Nat) : Bool :=
  match c.ctxImage n with
  | none => false
  | some b =>
    let prog := (c.item 5 (fieldLe b 6 2)).getD []
    fieldLe b 14 2 == line && hasPace prog (prog.length / 16 + 1) 0

/-- The context of a stream set that binds a line (bits 15:14 port, 13:0 line). -/
def State.boundIn (s : State) (set : List Nat) (line : Nat) : Option Nat :=
  match s.chart.active with
  | none => none
  | some c => set.find? (fun n => c.binds n line)

/-- The stream set that is restored next: a swatch's after a bind-off that it follows, else the next variant's. -/
def State.nextSet (s : State) : List Nat :=
  match s.chart.active with
  | none => []
  | some c => match s.swatchFor s.step.lastStep with
    | some p => if c.swatchS p = 0 then c.variantSet (s.rf R.STEP_STATUS_NEXT_VARIANT) else c.swatchSet p
    | none => c.variantSet (s.rf R.STEP_STATUS_NEXT_VARIANT)

/-- Requests discarded (R247): their credits return at once, and the line is logged once per step. -/
def State.dropPace (s : State) (p line k : Nat) : State :=
  let key := p * 16384 + line
  let s := s.returnPace p line k
  if s.paceBad.contains key then s
  else ({ s with paceBad := NSet.ins key s.paceBad }).logEv stBAD_ARG 0x50 p line 0

/-- Requests counted by a context: those that run-ahead had already covered return their credits at once (R346). -/
def State.addPace (s : State) (n k : Nat) : State :=
  (s.set (R.STREAM_RUN_PACE_RECV n) (s.rf (R.STREAM_RUN_PACE_RECV n) + k)).settlePace n

/-- PACE (R247, R346): in a step or a swatch by the running set, where a line that only the next set binds has no case of its own and its
requests are discarded (log entry 198); between them held for the set that is restored next (log entry 199). A host-opened stream is in
no stream set and binds no line (log entry 200). -/
def execPace (p : Fin 4) (line count : Nat) (s : State) : Res :=
  .next (
    let q := p.val
    let x := s.port q
    let used := SMap.get (fun _ => 0) x.pace line
    if !s.portUp q then s
    else if 16384 ≤ line ∨ 65535 < count ∨ s.rf (R.CDP_CREDIT_PACE_CREDITS q) < used + count then s.protoErr q
    else if count = 0 then s
    else
      let s := s.setPort q { x with pace := SMap.put (fun _ => 0) x.pace line (used + count) }
      let s := s.take (poolPace q line) count
      let key := q * 16384 + line
      if !s.inStep && s.phase != phSWATCH then
        (match s.boundIn s.nextSet key with
         | some _ => s.setPort q { s.port q with held := SMap.put (fun _ => 0) (s.port q).held line (SMap.get (fun _ => 0) (s.port q).held line + count) }
         | none => s.dropPace q line count)
      else match s.boundIn s.runSet key with
        | none => s.dropPace q line count
        | some n =>
          if s.sst n = ssARMED ∨ s.sst n = ssRUN ∨ s.sst n = ssWAIT then s.addPace n count else s.dropPace q line count)

/-- Whether a write or an add-write stands in a port's buffer. -/
def State.writesQueued (s : State) (p : Nat) : Bool := (s.port p).queue.any (fun r => r.kind == 1 || r.kind == 2)

/-- SIG_FROM_DIE (R347, R352, R354): takes effect on arrival, after the writes that came before it. -/
def execSigFromDie (p : Fin 4) (id : Nat) (s : State) : Res :=
  .next (if !s.portUp p.val then s
    else if s.overCredit p.val 0 then s.protoErr p.val
    else if 4096 ≤ id then (s.arriveMsg p.val 0 0).dropMsg p.val 0 0
    else
      let r : DieReq := ⟨3, id, 0, 0, 0, [], [], 0, false⟩
      let s := (s.arriveMsg p.val 0 0).serveDue p.val
      if s.writesQueued p.val then s.buffer p.val r else s.serveReq p.val r)

/-- FENCE_FROM_DIE (R348, R354): its FACK goes in the die's egress slots once every earlier write and add-write has been applied,
discarded or held. -/
def execFenceFromDie (p : Fin 4) (tag : Nat) (s : State) : Res :=
  .next (if !s.portUp p.val then s
    else if s.overCredit p.val 0 then s.protoErr p.val
    else if 65536 ≤ tag then (s.arriveMsg p.val 0 0).dropMsg p.val 0 0
    else (s.arriveMsg p.val 0 0).takeReq p.val ⟨4, tag, 0, 0, 0, [], [], 0, false⟩)

/-- FACK_FROM_DIE (R348, R354): taken in the ingress slots of the stream whose FENCE it answers; in the buffer until they have come; one that
answers nothing is a protocol error. -/
def execFackFromDie (p : Fin 4) (tag status : Nat) (s : State) : Res :=
  .next (
    let q := p.val
    let x := s.port q
    if !s.portUp q then s
    else if !x.fences.contains tag then s.protoErr q
    else
      let s := s.setPort q { x with fences := x.fences.erase tag }
      match s.claimFor tag (ownedBy tag [(0x3000 + q, 1)]) with
      | none => s.bufferFack q tag status (s.slots.fin + 1)
      | some c =>
        let s := s.useSlots tag c.1
        if !s.slotBound tag then s.takeFack q (tag, status, 0)
        else if c.2 < (s.planTick / 32 + 1) * 32 then (s.toTick c.2).takeFack q (tag, status, 0)
        else s.bufferFack q tag status c.2)

/-- CREDIT_RETURN (R339, R350): credits that the die returns in a flit header. -/
def execCreditReturn (p : Fin 4) (hdr data addw : Nat) (s : State) : Res :=
  .next (if !s.portUp p.val ∨ 65535 < hdr ∨ 65535 < data ∨ 65535 < addw then s
    else
      let x := s.port p.val
      let s := s.setPort p.val { x with hdr := x.hdr + hdr, data := x.data + data }
      ((s.give (poolHdr p.val) hdr).give (poolData p.val) data).closeStopped)

/-! ## Bring-up (R356) -/

/-- Whether the link can carry the port: 64 GT/s and at least eight modules (R336). -/
def State.linkGood (s : State) (p : Nat) : Bool :=
  (s.port p).link && s.rf (R.CDP_STATUS_RATE p) == 0x40 && decide (8 ≤ s.rf (R.CDP_STATUS_MODULES p))

/-- A port is UP once both HELLOs have gone: the pace credits that KN40's granted are in force. -/
def State.tryUp (s : State) (p : Nat) : State :=
  let x := s.port p
  if x.sent && x.got && s.linkGood p then
    let s := (s.set (R.CDP_STATUS_STATE p) 3).set (R.CDP_STATUS_EDITION p) 1
    s.set (R.CDP_CREDIT_PACE_CREDITS p) x.grant
  else s

/-- KN40 sends its HELLO. -/
def State.sendHello (s : State) (p : Nat) : State :=
  let s := s.setPort p { s.port p with sent := true, helloAt := none, grant := s.rf (R.CDP_CTRL_PACE_CREDITS p) }
  let body := natLe 1 1 ++ natLe 1 0 ++ natLe 2 1 ++ natLe 2 512 ++ natLe 2 4096 ++ natLe 2 4096 ++ natLe 2 (s.rf (R.CDP_CTRL_PACE_CREDITS p))
    ++ natLe 4 0 ++ natLe 8 (s.rf R.GLB_ID_DEVICE * 65536 + s.rf R.GLB_ID_STEPPING * 4096 + s.rf R.GLB_ID_GRADE * 256 + s.rf R.GLB_ID_LCLUSTERS)
  ((s.emit (.kpp p kHELLO 0 0 (clean body))).set (R.CDP_STATUS_STATE p) 2).tryUp p

/-- Training of a link begins: at 32 GT/s when CDP_CTRL.SLOW asks for it (R336, R361). -/
def State.startTraining (s : State) (p : Nat) : State := s.setPort p { s.port p with slow := s.rf (R.CDP_CTRL_SLOW p) == 1 }

/-- UCIE_LINK_UP (R336, R356, R358): the adapter reports the link, which a training under SLOW brings to 32 GT/s at most; KN40 sends its HELLO,
after a reset not before its 2,048 ticks. -/
def execUcieLinkUp (p : Fin 4) (rate modules : Nat) (s : State) : Res :=
  .next (
    let q := p.val
    if s.rf R.PWR_STATE_STATE < 2 ∨ s.rf (R.CDP_CTRL_ENABLE q) = 0 ∨ (s.port q).link then s
    else
      let s := (s.set (R.CDP_STATUS_RATE q) (if (s.port q).slow then min rate 0x20 else rate)).set (R.CDP_STATUS_MODULES q) (min modules 9)
      let s := s.setPort q { s.port q with link := true, retrain := false }
      if (s.port q).helloAt.isSome then s else s.sendHello q)

/-- PORT_HELLO_TIMER (R358): 2,048 ticks after a reset; with the link still down the HELLO waits for it. -/
def execPortHelloTimer (p : Fin 4) (s : State) : Res :=
  .next (match (s.port p.val).helloAt with
    | none => s
    | some t =>
      let s := s.advance t
      if (s.port p.val).link then s.sendHello p.val else s.setPort p.val { s.port p.val with helloAt := none })

/-- HELLO (R356): checked for role, edition and the header and data grants; a die grants no add-write credits and PACE_CREDITS of it is
zero, and no condition of R356 reads either. -/
def execHello (p : Fin 4) (role edition crHdr crData _crAddw _pace : Nat) (dieId : BitVec 64) (s : State) : Res :=
  .next (
    let q := p.val
    if !(s.port q).link then s
    else if s.rf (R.CDP_STATUS_STATE q) = 3 ∨ s.rf (R.CDP_STATUS_STATE q) = 5 then s.protoErr q
    else
      let s := s.set (R.CDP_PEER_ID_DIE_ID q) dieId.toNat
      if role = 1 ∧ 1 ≤ edition ∧ 64 ≤ crHdr ∧ 2048 ≤ crData then
        let s := (s.set (R.CDP_CREDIT_PEER_HDR q) crHdr).set (R.CDP_CREDIT_PEER_DATA q) crData
        (s.setPort q { s.port q with got := true, hdr := s.rf (R.CDP_CREDIT_PEER_HDR q), data := s.rf (R.CDP_CREDIT_PEER_DATA q) }).tryUp q
      else s.set (R.CDP_ERR_HELLO_FAIL q) 1)

/-! ## Resets (R357 to R360) -/

/-- Whether a program names a port: an INLINE there, a signal or mark to a sequencer of it, or a wait on one of its pace lines (R225). -/
def progNames (prog : List Byte) (p pace : Nat) : Nat → Nat → Bool
  | 0, _ => false
  | fuel + 1, k =>
    if prog.length ≤ 16 * k then false
    else
      let u := unitAt prog k
      let here :=
        if uOp u = opINLINE then isPort (fieldLe u 8 8) && portOf (fieldLe u 8 8) == p
        else if uOp u = opSIGNAL then fieldLe u 1 1 % 8 == 2 && fieldLe u 4 4 / 2 ^ 30 == p
        else if uOp u = opMARK then fieldLe u 1 1 / 2 % 8 == 2 && fieldLe u 4 4 / 2 ^ 30 == p
        else if uOp u = opSEAL then uFlag u 0 && isPort (fieldLe u 8 8) && portOf (fieldLe u 8 8) == p
        else uOp u == opWAITPACE && pace / 16384 == p
      here || progNames prog p pace fuel (k + unitsOfInstr u)

/-- Whether a stream is bound to a port (R225): by what its program names there, the destinations of its blocks among it. -/
def State.boundTo (s : State) (n p : Nat) : Bool :=
  let prog := s.progOf n
  let l := s.listOf n
  progNames prog p (s.rf (R.STREAM_TIME_PACE n)) (prog.length / 16 + 1) 0
    || (instrsOf prog).any (fun u => (uOp u == opMOVE || uOp u == opMOVEX) && (upTo (fieldLe u 2 2)).any (fun k =>
      let d := (entryAt l (fieldLe u 4 4 + k)).dst
      isPort d && portOf d == p))

/-- A stream bound to a reset port: what it had on its way there is not moved, and it ends ORPHANED (R225, R358). -/
def State.orphan (s : State) (p n : Nat) : State :=
  let x := s.str n
  let gone := x.blocks.filter (fun b => isPort b.dst && portOf b.dst == p)
  let keep := x.blocks.filter (fun b => !(isPort b.dst && portOf b.dst == p))
  let sk := match x.sk with | some k => if isPort k.dst && portOf k.dst == p then none else some k | none => none
  let s := s.setStr n { x with blocks := keep, sk := sk, confirm := x.confirm.filter (· != 100 + p)
                               pend := x.pend.filter (· != 100 + p), far := x.far.filter (fun f => f.1 != 100 + p) }
  let s := s.give poolRead (x.reads - (s.str n).reads)
  let s := s.dropSk n x.sk sk
  let s := s.forEach (gone.map (·.seq)) (fun s q => s.doneSeq n q [])
  let s := { s with led := { s.led with blkOut := s.led.blkOut + gone.length
                                        skOut := s.led.skOut + (if x.sk.isSome && sk.isNone then 1 else 0) } }
  s.haltStr n stORPHANED

/-- What a port reset reclaims counts as given back: credits spent in either direction, pace credits, messages and FACKs dropped (R358, R431). -/
def State.reclaim (s : State) (p : Nat) : State :=
  let x := s.port p
  let s := (s.give (poolHdr p) (s.tookOf (poolHdr p) - s.gaveOf (poolHdr p))).give (poolData p) (s.tookOf (poolData p) - s.gaveOf (poolData p))
  let s := s.give (poolBuf p) (x.queue.filter (fun r => r.kind == 0 || r.kind == 4)).length
  let s := s.forEach [0, 1, 2] (fun s c => s.give (poolIn p c) (s.tookOf (poolIn p c) - s.gaveOf (poolIn p c)))
  x.pace.foldl (fun (s : State) (e : Nat × Nat) => s.give (poolPace p e.1) e.2) s

/-- A port reset of a cause of R357: bound streams orphaned, credits, fences and unanswered reads dropped, whole messages in the buffer, held
add-writes and pace requests kept without their credits; the HELLO due 2,048 ticks later, or when the link is up: one that retrains is not
(R358, R360). -/
def State.portReset (s : State) (p cause : Nat) : State :=
  let s := if (3 ≤ cause) && (s.port p).link then s.emit (.kpp p kRESET 0 0 []) else s
  let hit := s.usedCtx.filter (fun n => (s.strUnfinished n || s.sst n == ssSEALED) && s.boundTo n p)
  let x := s.port p
  let s := s.reclaim p
  let s := s.setPort p { x with sent := false, got := false, helloAt := some (s.row + 2048), hdr := 0, data := 0, fences := []
                                lostHdr := 0, lostData := 0, lostAddw := 0
                                retHdr := 0, retData := 0, retAddw := 0, paceRet := [], pace := []
                                link := x.link && cause != 2 && !s.retraining p
                                queue := (x.queue.filter (fun r => r.kind != 0 && r.kind != 4)).map (fun r => { r with stale := true }) }
  let s := if (s.port p).link then s else s.startTraining p
  let s := { s with upd := { s.upd with heldAdds := s.upd.heldAdds.map (fun (h : HeldAdd) => if h.port = p then { h with stale := true } else h) } }
  let s := ((s.set (R.CDP_STATUS_STATE p) 4).set (R.CDP_STATUS_EDITION p) 0).set (R.CDP_CREDIT_PEER_HDR p) 0
  let s := (s.set (R.CDP_CREDIT_PEER_DATA p) 0).set (R.CDP_RESET_LOG_AT p) s.row
  let s := (s.bump (R.CDP_RESET_LOG_COUNT p)).set (R.CDP_RESET_LOG_CAUSE p) cause
  let s := s.set (R.CDP_RESET_LOG_ORPHANED p) (min 255 hit.length)
  (s.forEach hit (fun s n => s.orphan p n)).closeStopped

/-- LINK_CONTROL_RESET (R357 case 1). -/
def execLinkControlReset (p : Fin 4) (s : State) : Res :=
  .next (if (s.port p.val).link then s.portReset p.val 1 else s)

/-- UCIE_LINK_DOWN (R357 case 2): outside a module failover. -/
def execUcieLinkDown (p : Fin 4) (s : State) : Res :=
  .next (if !(s.port p.val).link ∨ s.rf (R.CDP_STATUS_STATE p.val) = 5 then s
    else ((s.portReset p.val 2).set (R.CDP_STATUS_RATE p.val) 0).set (R.CDP_STATUS_MODULES p.val) 0)

/-- CDP_CTRL (R357, R361): PACE_CREDITS of 0 is refused; RESET resets the port; ENABLE takes it down or starts its training. -/
def State.writeCdpCtrl (s : State) (p : Nat) (w : Wr) : State :=
  let off := 0x500018 + 0x1000 * p
  let t := s.regWrite off w
  let t := if w.hits .host (R.CDP_CTRL_PACE_CREDITS p) && t.rf (R.CDP_CTRL_PACE_CREDITS p) == 0 then
      (t.set (R.CDP_CTRL_PACE_CREDITS p) (s.rf (R.CDP_CTRL_PACE_CREDITS p))).badArg off
    else t
  let was := s.rf (R.CDP_CTRL_ENABLE p)
  let now := t.rf (R.CDP_CTRL_ENABLE p)
  if s.rf R.PWR_STATE_STATE < 2 then t
  else if was = 1 ∧ now = 0 then
    let t := t.portReset p 3
    let t := t.setPort p { t.port p with helloAt := none, link := false, retrain := false }
    ((t.set (R.CDP_STATUS_STATE p) 0).set (R.CDP_STATUS_RATE p) 0).set (R.CDP_STATUS_MODULES p) 0
  else if was = 0 ∧ now = 1 then (t.startTraining p).set (R.CDP_STATUS_STATE p) 1
  else if w.get .host (R.CDP_CTRL_RESET p) = 1 ∧ now = 1 then t.portReset p 3
  else t

/-- CDP_RESET (R357 case 3): a write of CDP_CTRL with RESET set. -/
def execCdpReset (m : Master) (p : Fin 4) (v : BitVec 64) (s : State) : Res :=
  .next (if s.reach m then s.writeCdpCtrl p.val (Wr.full m (v ||| 2).toNat) else s)

/-- CDP_ENABLE (R361): a write of CDP_CTRL. -/
def execCdpEnable (m : Master) (p : Fin 4) (v : BitVec 64) (s : State) : Res :=
  .next (if s.reach m then s.writeCdpCtrl p.val (Wr.full m v.toNat) else s)

/-! ## Modules (R337, R413, R417) -/

/-- CDP_MODMAP as the port's modules stand. -/
def State.showModmap (s : State) (p : Nat) : State :=
  let out := (upTo 9).find? (fun k => !s.serves (0x5000 + 9 * p + k) && s.rf (unitStateF (0x5000 + 9 * p + k)) != usSPARE)
  let phys := (upTo 8).foldl (fun a l =>
    match (upTo 9).find? (fun k => s.serves (0x5000 + 9 * p + k) && s.rf (unitLogicalF (0x5000 + 9 * p + k)) == 8 * p + l) with
    | some k => a + k * 16 ^ l
    | none => a + 0xF * 16 ^ l) 0
  (s.set (R.CDP_MODMAP_FAILED p) (out.getD 0xF)).set (R.CDP_MODMAP_PHYS p) phys

/-- A module beyond lane repair: the spare takes its place, the new map goes on the sideband in two messages and the port retrains;
with no spare left the port cannot be UP again: it resets and reads FAILED (R336, R337). -/
def State.moduleFault (s : State) (p k : Nat) : State :=
  let u := 0x5000 + 9 * p + k
  let inService := s.serves u
  let spare := (s.spareFor u).isSome
  let s := (s.unitFault u).showModmap p
  if !inService then s
  else if spare then
    let m := s.rf (R.CDP_MODMAP_PHYS p)
    let s := (s.set (R.CDP_ERR_MODULE_SPARED p) 1).emit (.kpp p kMODMAP 0 (m % 65536) [])
    let s := s.emit (.kpp p kMODMAP 1 (m / 65536) [])
    if s.portUp p then ((s.setPort p { s.port p with retrain := true }).set (R.CDP_STATUS_STATE p) 5).set (R.CDP_STATUS_EDITION p) 0 else s
  else
    let s := s.portReset p 2
    let n := ((upTo 9).filter (fun j => s.serves (0x5000 + 9 * p + j))).length
    let s := s.setPort p { s.port p with helloAt := none }
    (s.set (R.CDP_STATUS_STATE p) 6).set (R.CDP_STATUS_MODULES p) n

/-- MODULE_FAIL (R337). -/
def execModuleFail (p : Fin 4) (k : Fin 9) (s : State) : Res :=
  .next (if s.pwr.off ∨ s.rf R.PWR_STATE_STATE < 2 then s else s.moduleFault p.val k.val)

/-- What a port owed the die while it retrained goes out: credits in one flit header, pace credits line by line, and the answers of its buffer. -/
def State.settleOwed (s : State) (p : Nat) : State :=
  let x := s.port p
  let s := s.setPort p { x with retHdr := 0, retData := 0, retAddw := 0 }
  let s := if x.retHdr = 0 ∧ x.retData = 0 ∧ x.retAddw = 0 then s else s.returnCr p x.retHdr x.retData x.retAddw
  (s.sendPcreds p).serveDue p

/-- MODULE_RETRAIN_DONE (R337, R360): the port returns to UP with every credit, tag, held burst and pace count kept. After a reset meanwhile the link is
up again, as part of the next bring-up. -/
def execModuleRetrainDone (p : Fin 4) (s : State) : Res :=
  .next (
    let q := p.val
    let x := s.port q
    if s.retraining q then
      let s := (s.setPort q { x with retrain := false }).set (R.CDP_STATUS_STATE q) 3
      ((s.set (R.CDP_STATUS_EDITION q) 1).settleOwed q).closeStopped
    else if x.retrain then
      let s := s.setPort q { x with retrain := false, link := true }
      if x.helloAt.isSome then s else s.sendHello q
    else s)

/-- A block of a stream whose mover has failed, as the spare restarts it (R228): from its first byte, with far bytes to be read again. -/
def Block.restart (b : Block) : Block :=
  if b.inHand then
    { b with data := b.out ++ b.data, out := [], len := b.len + b.out.length
             dst := b.dst / 2 ^ 48 * 2 ^ 48 + (b.dst % 2 ^ 48 + 2 ^ 48 - b.out.length) % 2 ^ 48 }
  else { b with data := [], owed := 0, asked := [] }

/-- The blocks of a stream restarted on the spare, their far reads issued again. -/
def State.restartStr (s : State) (n : Nat) : State :=
  let x := s.str n
  let s := s.setStr n { x with blocks := x.blocks.map Block.restart }
  let s := s.give poolRead (x.reads - (s.str n).reads)
  s.forEach ((x.blocks.filter (fun b => !b.inHand)).map (·.seq)) (fun s q =>
    match (s.str n).blocks.find? (fun b => b.seq == q) with
    | none => s
    | some b => if (s.frogOf n b.mb).isSome then s else s.askMore n b)

/-- A fault of a mover: the streams of its place restart their blocks when a spare has taken it (R228). -/
def State.moverFault (s : State) (u : Nat) : State :=
  let m := s.rf (unitLogicalF u)
  let served := s.serves u
  let s := s.unitFault u
  if served && !s.fault.unserved.contains (0x3000 + m) then
    s.forEach (s.usedCtx.filter (fun n => s.rf (R.STREAM_CTL_MOVER n) == m)) State.restartStr
  else s

/-- UNIT_FAULT (R417): by the unit's kind. -/
def execUnitFault (u : BitVec 16) (s : State) : Res :=
  .next (
    let n := u.toNat
    if s.pwr.off ∨ kindCount (uKind n) ≤ uIdx n then s
    else if uKind n = 4 then s.loseChannel (uIdx n)
    else if uKind n = 5 then s.moduleFault (uIdx n / 9) (uIdx n % 9)
    else if uKind n = 6 then s.coreFault (uIdx n)
    else if uKind n = 3 then s.moverFault n
    else s.unitFault n)

end Sys2Proof.Machine
end

