-- ==== Sys2Proof/Machine/Tiers.lean ====
section
/-! DEFINITION. Machine/Tiers.lean: the tier map as objects and commands change it, migration, lending, bias and the host's lines
(R255 to R283). -/

namespace Sys2Proof.Machine

/-! ## What the map holds (R258, R261, R265) -/

/-- The objects of the installed chart. -/
def State.objs (s : State) : List Obj := match s.chart.active with | none => [] | some c => c.objs

/-- Whether a page belongs to an object of the installed chart. -/
def State.isChartPage (s : State) (page : Nat) : Bool := s.objs.any (fun o => o.covers page)

/-- Directory entries that are not INVALID, by index. -/
def State.dirs (s : State) : List Nat :=
  (s.regs.filter (fun (c : Nat × Nat) => decide (0x340000 * 64 ≤ c.1) && decide (c.1 < 0x360000 * 64) && c.1 % 64 == 62 && c.2 != 0)).map
    (fun (c : Nat × Nat) => (c.1 / 64 - 0x340000) / 8)

/-- Directory indices that are tables. -/
def State.tableDirs (s : State) : List Nat := s.dirs.filter (fun i => s.rf (R.TIER_DIR_KIND i) == 1)

/-- First DA pages of the RUNs. -/
def State.runStarts (s : State) : List Nat :=
  (s.dirs.filter (fun i => s.rf (R.TIER_DIR_KIND i) == 2)).map (fun i => s.rf (R.TIER_DIR_TARGET i) * 131072)

/-- The level-2 entries of the map with their OA pages. -/
def State.entries (s : State) : List (Nat × Ent) :=
  (s.tableDirs.map (fun i =>
    let t := s.rf (R.TIER_DIR_TARGET i) % 64
    (s.tier.tables.filter (fun (c : Nat × Nat) => c.1 / 131072 == t && (Ent.unpack c.2).state != 0)).map
      (fun (c : Nat × Nat) => (i * 131072 + c.1 % 131072, Ent.unpack c.2)))).flatten

/-- The level-2 entries outside the objects of the installed chart: the pages of runtime objects (R268). -/
def State.runtimeEntries (s : State) : List (Nat × Ent) := s.entries.filter (fun (p : Nat × Ent) => !s.isChartPage p.1)

/-- DA pages that some page or the target of a migration holds, RUNs aside. -/
def State.usedDa (s : State) : List Nat :=
  s.entries.map (fun (p : Nat × Ent) => p.2.page) ++ s.tier.migTo.map (fun (m : Mig) => m.target)

/-! ## Pools (R268, R290) -/

/-- Free DA pages of a range in ascending order, at most n of them, with fuel; used pages and RUNs are passed over. -/
def freeFrom (used runs : List Nat) (hi : Nat) : Nat → Nat → Nat → List Nat
  | 0, _, _ => []
  | fuel + 1, p, n =>
    if n = 0 ∨ hi ≤ p then []
    else match runs.find? (fun r => decide (r ≤ p) && decide (p < r + 131072)) with
      | some r => freeFrom used runs hi fuel (r + 131072) n
      | none =>
        if used.contains p then freeFrom used runs hi fuel (p + 1) n
        else p :: freeFrom used runs hi fuel (p + 1) (n - 1)

/-- The DA page ranges of the pools: 0 HBM, 1 host, 2 flash pSLC, 3 flash TLC, 8 + j slice j. -/
def State.poolRange (s : State) (k : Nat) : Nat × Nat :=
  if k = 0 then (0, 253952 - s.rf R.FTL_AREA_PAGES)
  else if k = 1 then (2 ^ 28, 2 ^ 28 + s.rf R.TIER_HOST_PAGES_PAGES)
  else if k = 2 then (2 ^ 27, 2 ^ 27 + (if s.flashUp then s.fmt.slcUnits / 32 else 0))
  else if k = 3 then (2 ^ 27 + 2 ^ 26, 2 ^ 27 + 2 ^ 26 + (if s.flashUp then s.fmt.tlcUnits / 32 else 0))
  else (2 ^ 29 + (k - 8) * 2 ^ 21, 2 ^ 29 + (k - 8) * 2 ^ 21 + s.rf (R.TIER_PEER_PAGES (k - 8)))

/-- The first n free pages of a pool, or all it has. -/
def State.poolTake (s : State) (k n : Nat) : List Nat :=
  let r := s.poolRange k
  freeFrom s.usedDa s.runStarts r.2 (n + s.usedDa.length + s.runStarts.length + 1) r.1 n

/-- Free pages of the HBM pool. -/
def State.freeHbm (s : State) : Nat :=
  let hi := (s.poolRange 0).2
  hi - (s.usedDa.filter (fun p => decide (p < hi))).length - 131072 * (s.runStarts.filter (fun r => decide (r + 131072 ≤ hi))).length

/-! ## Lend entries (R277) -/

/-- A lend entry: first aperture page, first OA page, pages, whether peers may write, whether it comes from the chart. -/
structure Lend where
  off   : Nat
  oa    : Nat
  pages : Nat
  write : Bool
  chart : Bool
  deriving DecidableEq, Repr

/-- Host lend entry e as its registers stand. -/
def State.hostLend (s : State) (e : Nat) : Lend :=
  ⟨s.rf (R.TIER_LEND_B_OFF e), s.rf (R.TIER_LEND_A_OA e), s.rf (R.TIER_LEND_A_PAGES e), s.rf (R.TIER_LEND_B_WRITE e) == 1, false⟩

/-- The lend entries of LENT objects. -/
def State.chartLends (s : State) : List Lend :=
  (s.objs.filter (fun o => o.flags.testBit 1)).map (fun o => ⟨o.off, o.page, o.pages, o.flags.testBit 2, true⟩)

/-- The valid host entries, one left out. -/
def State.hostLends (s : State) (skip : Nat) : List Lend :=
  ((upTo 32).filter (fun e => s.rf (R.TIER_LEND_B_VALID e) == 1 && e != skip)).map s.hostLend

/-- The lend entries in force: those of the chart, then the valid host entries whose ranges meet none of them, 64 at most (R277; log entry 205). -/
def State.lends (s : State) : List Lend :=
  (s.chartLends ++ (s.hostLends 32).filter (fun h => !s.chartLends.any (fun r => meets h.off h.pages r.off r.pages))).take 64

/-- Whether a lend entry covers an OA page. -/
def State.isLent (s : State) (page : Nat) : Bool := s.lends.any (fun l => decide (l.oa ≤ page) && decide (page < l.oa + l.pages))

/-- Counts of the map shown in TIER_STATUS, TIER_POOL and TIER_MIGRATE. -/
def State.showTier (s : State) : State :=
  (((s.set R.TIER_STATUS_TABLES s.tableDirs.length).set R.TIER_STATUS_LENDS s.lends.length).set R.TIER_POOL_FREE_HBM s.freeHbm).set
    R.TIER_MIGRATE_QUEUED s.tier.queue.length

/-! ## Entries written (R258 to R260) -/

/-- A directory entry written. -/
def State.setDir (s : State) (i kind cls cache target : Nat) : State :=
  (((s.set (R.TIER_DIR_KIND i) kind).set (R.TIER_DIR_CLASS i) cls).set (R.TIER_DIR_HOSTCACHE i) cache).set (R.TIER_DIR_TARGET i) target

/-- The lowest level-2 table not in use. -/
def State.freeTable (s : State) : Option Nat :=
  (upTo 64).find? (fun t => !(s.tableDirs.any (fun i => s.rf (R.TIER_DIR_TARGET i) % 64 == t)))

/-- A table given to a directory entry that has none; unchanged when none is left. -/
def State.needTable (s : State) (i : Nat) : State :=
  if s.rf (R.TIER_DIR_KIND i) = 1 then s
  else match s.freeTable with
    | none => s
    | some t => { (s.setDir i 1 0 0 t) with tier := { s.tier with
        badEnt := s.tier.badEnt.filter (fun b => b != i && !(decide (2 ^ 20 ≤ b) && (b - 2 ^ 20) / 131072 == t)) } }

/-- A page's level-2 entry written, its error gone; unchanged where the page has no table. -/
def State.putEnt (s : State) (page : Nat) (e : Ent) : State :=
  let s := s.needTable (page / 131072)
  if s.rf (R.TIER_DIR_KIND (page / 131072)) ≠ 1 then s
  else
    let k := s.rf (R.TIER_DIR_TARGET (page / 131072)) % 64 * 131072 + page % 131072
    { s with tier := { s.tier with tables := SMap.put (fun _ => 0) s.tier.tables k e.pack
                                   badEnt := s.tier.badEnt.filter (fun b => b != 2 ^ 20 + k) } }

/-- A page unmapped: its table leaves use with its last entry. -/
def State.delEnt (s : State) (page : Nat) : State :=
  let i := page / 131072
  if s.rf (R.TIER_DIR_KIND i) ≠ 1 then s
  else
    let t := s.rf (R.TIER_DIR_TARGET i) % 64
    let s := { s with tier := { s.tier with tables := SMap.put (fun _ => 0) s.tier.tables (t * 131072 + page % 131072) 0
                                            counts := s.tier.counts.filter (fun (c : Nat × Nat) => c.1 != page) } }
    if s.tier.tables.any (fun (c : Nat × Nat) => c.1 / 131072 == t) then s else s.setDir i 0 0 0 0

/-- A page's migration, running or queued, abandoned: its target returns to its pool (R271). -/
def State.dropMigration (s : State) (page : Nat) : State :=
  { s with tier := { s.tier with
      migTo := s.tier.migTo.filter (fun (m : Mig) => m.page != page)
      queue := s.tier.queue.filter (fun (q : Nat × Nat) => q.1 != page) } }

/-! ## Starting migrations (R269 to R271) -/

/-- The pool that a DA page belongs to. -/
def State.poolOf (s : State) (da : Nat) : Nat :=
  let t := s.tierOf (da * 2 ^ 21)
  if t = 0 then 0 else if t = 3 then 1 else if t = 4 then 8 + (da - 2 ^ 29) / 2 ^ 21 else 2

/-- The first free page of a valid slice, slices ascending (R270). -/
def State.sliceTarget (s : State) : Option Nat :=
  (upTo 64).findSome? (fun j => if s.rf (R.TIER_PEER_VALID j) = 1 then (s.poolTake (8 + j) 1).head? else none)

/-- A target page for a queue entry, `none` while its pools are empty. -/
def State.migTarget (s : State) (k : Nat) : Option Nat :=
  if k = 1 then (match (s.poolTake 1 1).head? with | some p => some p | none => s.sliceTarget)
  else if k = 4 then s.sliceTarget
  else (s.poolTake k 1).head?

/-- Whether a migration from or to a DA page has slots at some time: the flash tier has none (R269). -/
def State.movable (s : State) (page k : Nat) : Bool :=
  k != 2 && k != 3 && (match s.entOf page with | some e => s.tierOf (e.page * 2 ^ 21) != 2 | none => false)

/-- A queued page starts migrating when its pools have a target and no other page is on its path (R270). -/
def State.startOne (s : State) (q : Nat × Nat) : State :=
  if !s.movable q.1 q.2 then s
  else match s.entOf q.1, s.migTarget q.2 with
    | some e, some t =>
      if s.tier.migTo.any (fun m => m.page == q.1 || (s.poolOf m.src == s.poolOf e.page && s.poolOf m.target == s.poolOf t)) then s
      else { s with tier := { s.tier with migTo := s.tier.migTo ++ [⟨q.1, e.page, t, s.row⟩]
                                          queue := s.tier.queue.filter (fun (x : Nat × Nat) => x.1 != q.1) } }
    | _, _ => s

/-- Queued pages started in queue order, one on each path. -/
def State.startMigration (s : State) : State := s.tier.queue.foldl State.startOne s

/-! ## Bias of newly mapped pages (R281) -/

/-- The bits of bias word i that lie in a range of DA pages cleared. -/
def clearSpan (v i lo n : Nat) : Nat :=
  (upTo 64).foldl (fun a k => if a.testBit k && decide (lo ≤ 64 * i + k) && decide (64 * i + k < lo + n) then a ^^^ 2 ^ k else a) v

/-- Device bias given to a range of DA pages: newly mapped pages have it (R281). -/
def State.clearBias (s : State) (lo n : Nat) : State :=
  s.forEach (((upTo ((lo + n - 1) / 64 + 1 - lo / 64)).map (lo / 64 + ·)).filter (fun i =>
    decide (i < 3968) && s.rf (R.TIER_BIAS_BIAS i) != 0)) (fun s i =>
      s.set (R.TIER_BIAS_BIAS i) (clearSpan (s.rf (R.TIER_BIAS_BIAS i)) i lo n))

/-! ## Rebuild at install (R267) -/

/-- The map emptied. -/
def State.clearMap (s : State) : State :=
  let s := s.forEach s.dirs (fun s i => s.setDir i 0 0 0 0)
  { s with tier := { s.tier with tables := [], badEnt := [] } }

/-- The part of an object in one range of 256 GiB: a RUN when the object covers the range whole onto an aligned DA range, else entries. Its
pages are newly mapped and in device bias (log entry 203). -/
def State.mapRange (o : Obj) (s : State) (i : Nat) : State :=
  let lo := max o.page (i * 131072)
  let hi := min (o.page + o.pages) ((i + 1) * 131072)
  let da := o.da + (lo - o.page)
  let s := s.clearBias da (hi - lo)
  if hi - lo = 131072 ∧ da % 131072 = 0 then s.setDir i 2 o.cls (o.flags % 2) (da / 131072)
  else s.forEach (upTo (hi - lo)) (fun s k => s.putEnt (lo + k) ⟨1, o.cls, o.flags.testBit 0, da + k⟩)

/-- An object mapped. -/
def State.mapObj (s : State) (o : Obj) : State :=
  s.forEach ((upTo ((o.page + o.pages - 1) / 131072 - o.page / 131072 + 1)).map (fun k => o.page / 131072 + k)) (State.mapRange o)

/-- A runtime page kept, or unmapped and logged where a chart object overlaps it or no table is left. -/
def State.keepPage (s : State) (objs : List Obj) (p : Nat × Ent) : State :=
  let met := objs.any (fun o => o.covers p.1)
  let t := if met then s else s.putEnt p.1 p.2
  if !met && t.entOf p.1 == some p.2 then t
  else
    let s := s.dropMigration p.1
    ({ s with tier := { s.tier with counts := s.tier.counts.filter (fun (c : Nat × Nat) => c.1 != p.1) } }).logEv stBAD_ARG 0x30 0 0 (p.1 * 2 ^ 21)

/-- The tier map rebuilt for a successor chart, or for none: its objects, then the runtime pages. The DA pages keep their bytes. -/
def State.rebuildMap (s : State) (new : Option Chart) : State :=
  let keep := s.runtimeEntries
  let objs := match new with | some c => c.objs | none => []
  let s := objs.foldl State.mapObj s.clearMap
  (keep.foldl (fun s p => s.keepPage objs p) s).startMigration

/-! ## Runtime objects (R268) -/

/-- The tiers a class may live in (R261). -/
def classTiers (cls : Nat) : List Nat :=
  if cls = 1 then [0] else if cls = 2 then [0, 3, 4] else if cls = 3 then [3] else if cls = 4 then [2] else if cls = 5 then [2]
  else if cls = 6 then [4] else if cls = 7 then [3, 0, 4] else if cls = 8 then [1] else []

/-- The DA pages a MAP takes, `none` when a pool is short. -/
def State.mapPages (s : State) (cls slice n : Nat) : Option (List Nat) :=
  let k := if cls = 1 then 0 else if cls = 2 then 0 else if cls = 4 then 2 else if cls = 5 then 3 else if cls = 6 then 8 + slice else 1
  let a := s.poolTake k n
  let l := if cls = 2 ∧ a.length < n then a ++ s.poolTake 1 (n - a.length) else a
  if l.length = n then some l else none

/-- A newly mapped page made to read as zero: its bytes and marks, its flash units, or zero bytes posted to its bus address; device bias. -/
def State.zeroPage (s : State) (da : Nat) : State :=
  let lo := da * 2 ^ 21
  let t := s.tierOf lo
  if t < 2 then
    (((s.dropPage da).zeroRange lo (2 ^ 21)).clearLost lo (2 ^ 21)).clearBias da 1
  else if t = 2 then
    let u := (lo - 2 ^ 48) / 65536
    s.forEach ((upTo 32).map (u + ·)) (fun s u =>
      if (s.livePlace u).isSome then s.writeFlash false (65536 * u) (List.replicate 65536 (0, false)) else s)
  else s.postBus (s.busAddr lo) (List.replicate (2 ^ 21) (0, false))

/-- A fresh page mapped. -/
def State.mapPage (s : State) (page : Nat) (e : Ent) : State := (s.putEnt page e).zeroPage e.page

/-- Directory ranges of a command that would need a new level-2 table. -/
def State.newTables (s : State) (page n : Nat) : Nat :=
  ((upTo ((page + n - 1) / 131072 - page / 131072 + 1)).filter (fun k => s.rf (R.TIER_DIR_KIND (page / 131072 + k)) != 1)).length

/-- Why a TIER_MAP command is refused, OK when it is not. R268 does not say for which OP the CLASS is tested: UNMAP, which gives no page a class,
ignores it (DESIGN CHOICE, log entry 237). -/
def State.mapRefusal (s : State) (op page n cls slice : Nat) (cache : Bool) : Nat :=
  let pages := (upTo n).map (page + ·)
  if op = 0 ∨ 3 < op then stBAD_ARG
  else if n = 0 then stOK
  else if 2 ^ 31 < page + n then stBAD_ARG
  else if op ≠ 1 ∧ s.objs.any (fun o => decide (o.page < page + n) && decide (page < o.page + o.pages)) then stBAD_ARG
  else if pages.any (fun p => s.pageOwner p != 1) then stNOT_OWNER
  else if pages.any (fun p => (s.entOf p).isSome == (op == 1)) then stBAD_ARG
  else if op = 2 then stOK
  else if cls = 0 ∨ 8 ≤ cls then stBAD_ARG
  else if cache ∧ cls ≠ 1 ∧ cls ≠ 2 then stBAD_ARG
  else if op = 3 then stOK
  else if 64 < s.tableDirs.length + s.newTables page n then stBAD_ARG
  else if (s.mapPages cls slice n).isNone then stBAD_ARG
  else stOK

/-- An accepted command's change of the map. -/
def State.runMap (s : State) (op page n cls slice : Nat) (cache : Bool) : State :=
  let pages := (upTo n).map (page + ·)
  if op = 1 then
    let das := (s.mapPages cls slice n).getD []
    (pages.zip das).foldl (fun s p => s.mapPage p.1 ⟨1, cls, cache, p.2⟩) s
  else if op = 2 then (pages.foldl (fun s p => (s.dropMigration p).delEnt p) s).startMigration
  else (pages.foldl (fun s p => match s.entOf p with
    | some e =>
      let s := if cache && !e.cache then s.clearBias e.page 1 else s
      (s.dropMigration p).putEnt p { e with cls := cls, cache := cache }
    | none => s) s).startMigration

/-- A write of TIER_MAP_CTRL (R268, R283): with GO the command runs or is refused as a whole. -/
def State.writeMapCtrl (s : State) (w : Wr) : State :=
  let t := s.regWrite 0x300020 w
  if w.get .host R.TIER_MAP_CTRL_GO ≠ 1 then t
  else if s.rf R.TIER_MAP_STATUS_BUSY = 1 then s.refuse 0x300020 stBAD_ARG
  else
    let page := t.rf R.TIER_MAP_OA_PAGE
    let n := t.rf R.TIER_MAP_CTRL_PAGES
    let op := t.rf R.TIER_MAP_CTRL_OP
    let cls := t.rf R.TIER_MAP_CTRL_CLASS
    let slice := t.rf R.TIER_MAP_CTRL_SLICE
    let cache := t.rf R.TIER_MAP_CTRL_HOSTCACHE == 1
    let st := t.mapRefusal op page n cls slice cache
    if st ≠ stOK then ((s.set R.TIER_MAP_STATUS_STATUS st).set R.TIER_MAP_STATUS_DONE 0).refuse 0x300020 st
    else
      let t := ((t.set R.TIER_MAP_STATUS_STATUS stOK).set R.TIER_MAP_STATUS_DONE 0)
      if n = 0 then t
      else
        let t := ((t.runMap op page n cls slice cache).set R.TIER_MAP_STATUS_BUSY 1).showTier
        { t with tier := { t.tier with cmd := some n } }

/-- A write of TIER_HOST: refused while any host page is mapped (R275). -/
def State.writeTierHost (s : State) (w : Wr) : State :=
  if w.hits .host R.TIER_HOST_BASE && (s.entries.any (fun (p : Nat × Ent) => s.tierOf (p.2.page * 2 ^ 21) == 3) ||
      s.runStarts.any (fun r => s.tierOf (r * 2 ^ 21) == 3)) then s.refuse 0x300008 stBAD_ARG
  else s.regWrite 0x300008 w

/-- A write of TIER_HOST_PAGES: refused where it would leave a mapped host page above the limit (R275). -/
def State.writeHostPages (s : State) (w : Wr) : State :=
  let t := s.regWrite 0x300010 w
  let hi := 2 ^ 28 + t.rf R.TIER_HOST_PAGES_PAGES
  if w.hits .host R.TIER_HOST_PAGES_PAGES &&
      (s.entries.any (fun (p : Nat × Ent) => s.tierOf (p.2.page * 2 ^ 21) == 3 && decide (hi ≤ p.2.page)) ||
       s.runStarts.any (fun r => s.tierOf (r * 2 ^ 21) == 3 && decide (hi < r + 131072))) then s.refuse 0x300010 stBAD_ARG
  else t.startMigration.showTier

/-! ## Lookup (R282) -/

/-- A page's entry in the form of a level-2 entry, with the DA page that is selected (R329). -/
def State.lookup (s : State) (page : Nat) : State :=
  let own := (s.entOf page).getD ⟨0, 0, false, 0⟩
  let e : Ent := { own with page := match s.entOf (s.selPage page false) with | some x => x.page | none => own.page }
  let mapped := (s.entOf page).isSome
  let moving := s.tier.migTo.any (fun m => m.page == page)
  let s := s.set R.TIER_LOOKUP_ENTRY_STATE (if !mapped then 0 else if moving then 2 else 1)
  let s := (s.set R.TIER_LOOKUP_ENTRY_CLASS e.cls).set R.TIER_LOOKUP_ENTRY_HOSTCACHE (if e.cache then 1 else 0)
  let s := s.set R.TIER_LOOKUP_ENTRY_BIAS
    (if mapped && s.rf R.TIER_STATUS_MODE == 1 && decide (e.page < 253952) && s.bias e.page then 1 else 0)
  (s.set R.TIER_LOOKUP_ENTRY_LENT (if mapped && s.isLent page then 1 else 0)).set R.TIER_LOOKUP_ENTRY_DA_PAGE e.page

/-- A write of TIER_LOOKUP_OA. -/
def State.writeLookup (s : State) (w : Wr) : State :=
  let t := s.regWrite 0x300048 w
  if w.hits .host R.TIER_LOOKUP_OA_PAGE then t.lookup (t.rf R.TIER_LOOKUP_OA_PAGE) else t

/-! ## Bias and the host's lines (R280, R281) -/

/-- The lines of an OA page. -/
def pageLines (page : Nat) : List Nat := (upTo 32768).map (page * 32768 + ·)

/-- The blocks and skeins that host-opened streams have in flight, by context and place in its order. -/
def State.hostWork (s : State) : List (Nat × Nat) :=
  ((s.usedCtx.filter (fun n => (s.str n).host)).map (fun n =>
    (s.str n).blocks.map (fun b => (n, b.seq)) ++ (match (s.str n).sk with | some k => [(n, k.seq)] | none => []))).flatten

/-- A write of TIER_BIAS_CMD (R281, R283). -/
def State.writeBiasCmd (s : State) (w : Wr) : State :=
  let t := s.regWrite 0x300040 w
  if w.get .host R.TIER_BIAS_CMD_GO ≠ 1 then t
  else if s.rf R.TIER_BIAS_CMD_BUSY = 1 then s.refuse 0x300040 stBAD_ARG
  else
    let page := t.rf R.TIER_BIAS_CMD_PAGE
    let st := match t.entOf page with
      | none => stBAD_ARG
      | some e => if !e.cache then stBAD_ARG else if t.pageOwner page ≠ 1 then stNOT_OWNER else stOK
    if st ≠ stOK then (s.set R.TIER_BIAS_CMD_STATUS st).refuse 0x300040 st
    else
      let up := t.rf R.TIER_BIAS_CMD_TO_HOST == 1
      let t := (t.set R.TIER_BIAS_CMD_STATUS stOK).set R.TIER_BIAS_CMD_BUSY 1
      let t := { t with tier := { t.tier with biasCmd := some (page, up), biasOld := if up then t.hostWork else [] } }
      if up then t else t.invalidate (pageLines page)

/-- Whether a block of a host-opened stream is in flight to an OA page that was in flight when a change to host bias began (R281). -/
def State.hostBlockAt (s : State) (page : Nat) : Bool :=
  let on := fun a n => (pageSpans (a % 2 ^ 52) n).any (fun sp => sp.1 == page)
  let old := fun n q => s.tier.biasOld.contains (n, q)
  s.usedCtx.any (fun n => (s.str n).host &&
    ((s.str n).blocks.any (fun b => old n b.seq && ((!b.inHand && on b.src b.len) || (!isPort b.dst && on b.dst b.len))) ||
     (match (s.str n).sk with
      | some k => old n k.seq && (on k.src (if k.dir = 1 then packMax k.len else k.len)
          || (!isPort k.dst && on k.dst (if k.dir = 0 then packMax k.len else k.len)) || (k.profile == 3 && on (if k.dir = 0 then k.ref else k.base) k.len))
      | none => false)))

/-- A line that the host has read recorded in LINE mode; a full directory first gives up the line recorded longest. -/
def State.recordLine (s : State) (line : Nat) : State :=
  if s.rf R.TIER_STATUS_MODE ≠ 0 ∨ s.tier.lines.contains line then s
  else
    let s := match s.tier.lines with
      | [] => s
      | old :: _ => if s.tier.lines.length < 2 ^ 21 then s else s.invalidate [old]
    { s with tier := { s.tier with lines := s.tier.lines ++ [line] } }

/-! ## Lending (R276 to R278) -/

/-- Whether host entry e, as it stands, breaks the rules of R277. -/
def State.lendBad (s : State) (e : Nat) : Bool :=
  let l := s.hostLend e
  let rest := s.chartLends ++ s.hostLends e
  decide (2 ^ 21 < l.off + l.pages) || decide (2 ^ 31 < l.oa + l.pages) || decide (64 < rest.length + 1)
    || rest.any (fun (r : Lend) => meets l.off l.pages r.off r.pages)

/-- A write of TIER_LEND_A (b false) or TIER_LEND_B (b true) of entry e: refused where a valid entry would break R277. -/
def State.writeLend (s : State) (e : Nat) (b : Bool) (w : Wr) : State :=
  let off := 0x302000 + 16 * e + (if b then 8 else 0)
  let t := s.regWrite off w
  if t.rf (R.TIER_LEND_B_VALID e) = 1 ∧ mayWrite w.m .host ∧ t.lendBad e then s.refuse off stBAD_ARG else t.showTier

/-- The lender's OA page that a lend entry gives an aperture page. -/
def State.lentPage (s : State) (ap : Nat) : Option Nat :=
  (s.lends.find? (fun (l : Lend) => decide (l.off ≤ ap) && decide (ap < l.off + l.pages))).map (fun l => l.oa + (ap - l.off))

/-- Where a peer request on one aperture page goes: the lender's OA page and the owner it must have, or why it is refused (R277). -/
def State.lendPage (s : State) (write : Bool) (ap : Nat) : Option (Nat × Nat) :=
  match s.lends.find? (fun (l : Lend) => decide (l.off ≤ ap) && decide (ap < l.off + l.pages)) with
  | none => none
  | some l =>
    let page := l.oa + (ap - l.off)
    let own := if l.chart then 2 else 1
    if write && (!l.write || s.ofStage page) then none
    else if s.pageOwner page ≠ own then none
    else some (page, own)

/-- The status of a peer request refused for its page: a write to the staging area has NOT_OWNER from any master (R71). -/
def State.lendStatus (s : State) (write : Bool) (ap : Nat) : Nat :=
  match s.lentPage ap with
  | some p => if write && s.ofStage p then stNOT_OWNER else stBAD_ARG
  | none => stBAD_ARG

/-- A peer request refused with a status: TIER_ERR and HQ_ERR, the log; a read is answered with poisoned zero bytes (R277, R366). -/
def State.peerRefuse (s : State) (why : Refused) (st : Nat) (write : Bool) (o len : Nat) : State :=
  let s := ((s.tierRefuse why st o).set R.TIER_ERR_PEER_REFUSED 1).hqErr st R.HQ_ERR_REFUSED
  if write then s else s.emit (.answer (List.replicate len (0, true)))

/-- One page's part of a peer request. -/
def State.peerSpan (s : State) (write : Bool) (o : Nat) (data : List MByte) (len : Nat) : State :=
  match s.lendPage write (o / 2 ^ 21) with
  | none => s.peerRefuse .barred (s.lendStatus write (o / 2 ^ 21)) write o len
  | some (page, own) =>
    match s.pageFor .peer page (write && s.redirects page) with
    | .error why => s.peerRefuse why stBAD_ARG write o len
    | .ok _ =>
      let oa := page * 2 ^ 21 + o % 2 ^ 21
      if write then
        if s.pairClosed page then s.peerRefuse .barred stBAD_ARG write o len else (s.writeOA .peer own oa data).st
      else
        let g := s.readOA .peer oa len
        (if g.data.any (·.2) then g.st.noteRange oa len else g.st).emit (.answer g.data)

/-- Whether requests reach the block over the host link. -/
def State.linkUp (s : State) : Bool := decide (2 ≤ s.rf R.PWR_STATE_STATE) && s.rf R.HQ_LINK_UP == 1

/-! ## Migration (R269 to R271) -/

/-- The request count of a page. -/
def State.pageCount (s : State) (page : Nat) : Nat := SMap.get (fun _ => 0) s.tier.counts page

/-- A list sorted by a strict order of keys. -/
def insertBy (less : α → α → Bool) (x : α) : List α → List α
  | [] => [x]
  | y :: t => if less x y then x :: y :: t else y :: insertBy less x t

/-- The list in order. -/
def sortBy (less : α → α → Bool) (l : List α) : List α := l.foldr (insertBy less) []

/-- Pages to demote, first to go first (R270). -/
def State.demotable (s : State) : List Nat :=
  let l := s.runtimeEntries.filter (fun (p : Nat × Ent) =>
    (p.2.cls == 2 || p.2.cls == 7) && !p.2.cache && s.tierOf (p.2.page * 2 ^ 21) == 0)
  let less := fun (a b : Nat × Ent) =>
    if a.2.cls ≠ b.2.cls then a.2.cls == 7
    else if s.pageCount a.1 ≠ s.pageCount b.1 then decide (s.pageCount a.1 < s.pageCount b.1) else decide (b.1 < a.1)
  (sortBy less l).map (·.1)

/-- Pages to promote, first to go first. -/
def State.promotable (s : State) : List Nat :=
  let l := s.runtimeEntries.filter (fun (p : Nat × Ent) => (p.2.cls == 2 || p.2.cls == 7) && s.tierOf (p.2.page * 2 ^ 21) != 0)
  let less := fun (a b : Nat × Ent) =>
    if a.2.cls ≠ b.2.cls then a.2.cls == 2
    else if s.pageCount a.1 ≠ s.pageCount b.1 then decide (s.pageCount b.1 < s.pageCount a.1) else decide (a.1 < b.1)
  (sortBy less l).map (·.1)

/-- The region of flash a DA page lies in. -/
def flashRegion (da : Nat) : Nat := unitRegion ((da * 2 ^ 21 - 2 ^ 48) / 65536)

/-- Whether a page lies in a tier that its class does not allow. -/
def State.misplaced (s : State) (e : Ent) : Bool :=
  let t := s.tierOf (e.page * 2 ^ 21)
  !(classTiers e.cls).contains t || (t == 2 && flashRegion e.page != (if e.cls = 4 then 0 else 1))

/-- The target of a re-classed page: 0 HBM, 1 the host pool, then slices; 2 and 3 flash; 4 slices. -/
def reclassTo (cls : Nat) : Nat :=
  if cls = 1 ∨ cls = 2 then 0 else if cls = 4 then 2 else if cls = 5 then 3 else if cls = 6 then 4 else 1

/-- A migration pass: demote, promote, re-class, halve (R270). -/
def State.runPass (s : State) : State :=
  let busy := s.tier.migTo.map (fun (m : Mig) => m.page)
  let low := s.rf R.TIER_POOL_LOW
  let free := s.freeHbm
  let no := fun p => !busy.contains p
  let down := if free < low then ((s.demotable.filter no).take (low - free)).map (fun p => (p, 1)) else []
  let up := if low < free then ((s.promotable.filter no).take (free - low)).map (fun p => (p, 0)) else []
  let chosen := (down ++ up).map (·.1)
  let again := (s.runtimeEntries.filter (fun (p : Nat × Ent) => s.misplaced p.2 && no p.1 && !chosen.contains p.1)).map
    (fun (p : Nat × Ent) => (p.1, reclassTo p.2.cls))
  let s := { s with tier := { s.tier with
    queue := down ++ up ++ again, passDue := false
    counts := (s.tier.counts.map (fun (c : Nat × Nat) => (c.1, c.2 / 2))).filter (fun (c : Nat × Nat) => c.2 != 0) } }
  s.startMigration.showTier

/-- Demand of reading or writing a whole DA page. -/
def State.pageLoad (s : State) (da : Nat) (write : Bool) : List Load :=
  rangeLoad (s.rf R.GLB_ID_LCLUSTERS) some (da * 2 ^ 21) (2 ^ 21) (2 ^ 21) write

/-- The slots of a migration, `none` while its path has none (R269): MIGRATE slots of the running schedule set from its start on; in IDLE and
HOLD those of FW and HOST. -/
def State.migClaim (s : State) (m : Mig) : Option (List (Nat × Nat) × Nat) :=
  if s.stopped then some (s.tier.used, 0)
  else if !s.slotTime then none
  else s.slots.claim s.tier.used (m.row - s.planC - s.step.slip) (ownedBy 0xFFFD (s.pageLoad m.src false ++ s.pageLoad m.target true))

/-- What neighbours and migration have taken of their slots noted, and the row moved on to the tick by which they have carried it. -/
def State.useTier (s : State) (c : List (Nat × Nat) × Nat) : State :=
  let s := { s with tier := { s.tier with used := c.1 } }
  if s.inPlan then s.toTick c.2 else s

/-! ## Neighbours' requests (R276 to R278, R362, R366) -/

/-- A request of the host or of a neighbour refused: HQ_ERR with the status just recorded. -/
def State.hostRefused (s : State) : State := s.hqErr (s.rf R.TIER_ERR_LAST_STATUS) R.HQ_ERR_REFUSED

/-- What an AtomicOp leaves: 0 FetchAdd, 1 Swap, 2 compare and swap (R362). -/
def atomicNew (op size old operand compare : Nat) : Nat :=
  (if op = 0 then old + operand else if op = 1 then operand else if old = compare then operand else old) % 2 ^ (8 * size)

/-- A refused AtomicOp: one of a neighbour sets PEER_REFUSED (R277). -/
def State.atomicRefused (s : State) (w : Who) (size : Nat) : State :=
  let s := if w == .peer then s.set R.TIER_ERR_PEER_REFUSED 1 else s
  s.hostRefused.emit (.answer (List.replicate size (0, true)))

/-- An atomic read-modify-write at an OA for a requester whose pages belong to `own`. -/
def State.atomicAt (s : State) (w : Who) (own oa op size operand compare : Nat) : State :=
  let g := s.readOA w oa size
  if g.refused then g.st.atomicRefused w size
  else
    let x := g.st.writeOA w own oa (clean (natLe size (atomicNew op size (leNat (g.data.map (·.1))) operand compare)))
    if x.refused then x.st.atomicRefused w size else x.st.emit (.answer g.data)

/-- An AtomicOp of a neighbour. -/
def State.peerAtomic (s : State) (r : PeerReq) : State :=
  match s.lendPage true (r.off / 2 ^ 21) with
  | none => s.peerRefuse .barred (s.lendStatus true (r.off / 2 ^ 21)) false r.off r.len
  | some (page, own) => s.atomicAt .peer own (page * 2 ^ 21 + r.off % 2 ^ 21) r.op r.len r.operand r.compare

/-- A neighbour's request served, page by page (R277); an announcement that arrives is a write to the lent page that holds the barrier table, one
that leaves is sent (R395, R396). -/
def State.servePeer (s : State) (r : PeerReq) : State :=
  if r.kind = 4 then s.emitAnn r.op (r.off / 512) r.operand
  else if r.kind = 3 then
    s.peerSpan true (s.rf R.SYNC_BARRIER_APERTURE_PAGE * 2 ^ 21 + r.off) (clean (natLe 8 r.operand)) 8
  else if r.kind = 2 then s.peerAtomic r
  else
    let l := r.data.map (fun b => (b, r.poison))
    (pageSpans r.off r.len).foldl (fun s (sp : Nat × Nat × Nat) =>
      let o := sp.1 * 2 ^ 21 + sp.2.1
      s.peerSpan (r.kind == 1) o ((l.drop (o - r.off)).take sp.2.2) sp.2.2) s

/-- What a neighbour's request takes of the PEER slots: memory, and the directions of the host link that carry its data. -/
def State.peerLoad (s : State) (r : PeerReq) : List Load :=
  let mem := fun (write : Bool) => ((pageSpans r.off r.len).map (fun sp => match s.lendPage (r.kind != 0) sp.1 with
    | some (page, _) => s.oaLoad (page * 2 ^ 21 + sp.2.1) sp.2.2 write
    | none => [])).flatten
  if 3 ≤ r.kind then annLoad (if r.kind = 3 then 0x5000 else 0x4000)
  else ownedBy 0xFFF9
    ((if r.kind = 1 then [] else (0x4000, r.len) :: mem false) ++ (if r.kind = 0 then [] else (0x5000, r.len) :: mem true))

/-- Slots claimed for the requests that have none yet, oldest first (R278). -/
def State.claimPeers (s : State) : State :=
  if !s.slotTime then s
  else
    let a := s.tier.peers.foldl (fun (a : List (Nat × Nat) × List PeerReq) r =>
      if r.due.isSome then (a.1, a.2 ++ [r])
      else match s.slots.claim a.1 s.planTick (s.peerLoad r) with
        | none => (a.1, a.2 ++ [r])
        | some c => (c.1, a.2 ++ [{ r with due := some c.2 }])) (s.tier.used, [])
    { s with tier := { s.tier with used := a.1, peers := a.2 } }

/-- Whether a request may be served: in IDLE and HOLD at once, in plan time when its slots have passed (R278). -/
def State.peerDue (s : State) (r : PeerReq) : Bool :=
  s.stopped || (s.slotTime && (match r.due with | some d => decide (d ≤ s.planTick) | none => false))

/-- The oldest request served when it may be. -/
def State.peerNext (s : State) : State :=
  match s.tier.peers with
  | [] => s
  | r :: t => if s.peerDue r then ({ s with tier := { s.tier with peers := t } }).servePeer r else s

/-- The announcements that wait carried by FW's slots, in a pause and outside plan time (R396). -/
def State.serveAnns (s : State) : State :=
  if s.slotTime then s
  else
    let l := s.tier.peers.filter (fun r => decide (3 ≤ r.kind))
    l.foldl State.servePeer { s with tier := { s.tier with peers := s.tier.peers.filter (fun r => decide (r.kind < 3)) } }

/-- Every request served that may be, oldest first. -/
def State.servePeers (s : State) : State :=
  let s := s.serveAnns.claimPeers
  s.forEach (upTo s.tier.peers.length) (fun s _ => s.peerNext)

/-- The tick by which the slots of a lone waiting request pass within the round under way. -/
def State.peerSoon (s : State) : Option Nat :=
  match s.tier.peers with
  | [x] => match x.due with
    | some d => if s.slotTime && decide (d < (s.planTick / 32 + 1) * 32) then some d else none
    | none => none
  | _ => none

/-- A neighbour's request taken: it is served when its slots have carried it, within the round under way here, else it waits (R278). -/
def State.takePeer (s : State) (r : PeerReq) : State :=
  let s := ({ s with tier := { s.tier with peers := s.tier.peers ++ [r] } }).servePeers
  match s.peerSoon with
  | some d => (s.toTick d).servePeers
  | none => s

/-! ## Commands -/

/-- The bits of TIER_MAP_CTRL that a command's own row fixes: GO and OP. -/
def mapWord (v : BitVec 64) (op : Nat) : Nat := ((v &&& ~~~(0xF000001 : BitVec 64)) ||| BitVec.ofNat 64 (op * 2 ^ 24 + 1)).toNat

/-- TIER_MAP (R268): a write of TIER_MAP_CTRL with GO and OP MAP. -/
def execTierMap (m : Master) (v : BitVec 64) (s : State) : Res :=
  .next (if s.reach m then s.writeMapCtrl (Wr.full m (mapWord v 1)) else s)

/-- TIER_UNMAP (R268). -/
def execTierUnmap (m : Master) (v : BitVec 64) (s : State) : Res :=
  .next (if s.reach m then s.writeMapCtrl (Wr.full m (mapWord v 2)) else s)

/-- TIER_RECLASS (R268). -/
def execTierReclass (m : Master) (v : BitVec 64) (s : State) : Res :=
  .next (if s.reach m then s.writeMapCtrl (Wr.full m (mapWord v 3)) else s)

/-- TIER_MAP_DONE (R268): the running command completes with its pages counted. -/
def execTierMapDone (s : State) : Res :=
  .next (match s.tier.cmd with
    | none => s
    | some n =>
      let s := (s.set R.TIER_MAP_STATUS_DONE n).set R.TIER_MAP_STATUS_BUSY 0
      { s with tier := { s.tier with cmd := none } })

/-- MIGRATION_PASS (R270): the pass of a bind-off, or in IDLE and HOLD that of the next multiple of 2^20 ticks. -/
def execMigrationPass (s : State) : Res :=
  .next (if s.rf R.PWR_STATE_STATE < 2 then s
    else if s.tier.passDue then s.runPass
    else if s.stopped then (s.advance ((s.row / 2 ^ 20 + 1) * 2 ^ 20)).runPass
    else s)

/-- The bytes of a page in migration: near tiers from memory, far ones as they were supplied, what is missing marked (R378). -/
def State.pageBytes (s : State) (da : Nat) (data : List Byte) : List MByte × State :=
  if s.tierOf (da * 2 ^ 21) < 2 then (s.readMem (da * 2 ^ 21) (2 ^ 21), s)
  else
    let a := s.freeBytes (2 ^ 21 - data.length)
    (clean (data.take (2 ^ 21)) ++ a.1, a.2)

/-- The bytes of a page placed at a device address, near or far. -/
def State.placePage (s : State) (near : Bool) (da : Nat) (l : List MByte) : State :=
  if near then (s.dropPage (da / 2 ^ 21)).writeMem da l else s.postBus (s.busAddr da) l

/-- A page whose bytes were read: they lie in the target page, whose entry now names it. -/
def State.movePage (s : State) (page tgt : Nat) (e : Ent) (data : List Byte) : State :=
  (((((s.pageBytes e.page data).2.placePage (decide (s.tierOf (tgt * 2 ^ 21) < 2)) (tgt * 2 ^ 21) (s.pageBytes e.page data).1).putEnt page
    { e with page := tgt }).clearBias tgt 1).bump R.TIER_MIGRATE_DONE).startMigration.showTier

/-- A migration that ended: the page moved, or the far side failed and the page stays. -/
def State.migrated (s : State) (m : Mig) (e : Ent) (ok : Bool) (data : List Byte) : State :=
  let s := { s with tier := { s.tier with migTo := s.tier.migTo.filter (fun (x : Mig) => x.page != m.page) } }
  if !ok then
    ((s.hqErr stFAR_FAULT R.HQ_ERR_FAR_FAULT).logEv stFAR_FAULT 0x30 0 0 (m.page * 2 ^ 21)).startMigration.showTier
  else s.movePage m.page m.target e data

/-- The page whose copy ends: the one longest in migration whose slots have come. -/
def State.migNext (s : State) : Option Mig := s.tier.migTo.find? (fun m => (s.migClaim m).isSome && (s.entOf m.page).isSome)

/-- PAGE_MIGRATION_DONE (R271): the copy ends once its slots have passed, and the entry switches to the target; a refused target write
abandons the migration. `data` are the bytes that a far source supplied. -/
def execPageMigrationDone (ok : Bool) (data : List Byte) (s : State) : Res :=
  .next (match s.migNext with
    | none => s
    | some m => match s.migClaim m, s.entOf m.page with
      | some c, some e => (s.useTier c).migrated m e ok data
      | _, _ => s)

/-- TIER_LOOKUP (R282). -/
def execTierLookup (m : Master) (v : BitVec 64) (s : State) : Res :=
  .next (if s.reach m then s.writeLookup (Wr.full m v.toNat) else s)

/-- BIAS_TO_HOST (R281): a write of TIER_BIAS_CMD with GO and TO_HOST. -/
def execBiasToHost (m : Master) (v : BitVec 64) (s : State) : Res :=
  .next (if s.reach m then s.writeBiasCmd (Wr.full m (v ||| 3).toNat) else s)

/-- BIAS_TO_DEVICE (R281): a write of TIER_BIAS_CMD with GO, TO_HOST 0. -/
def execBiasToDevice (m : Master) (v : BitVec 64) (s : State) : Res :=
  .next (if s.reach m then s.writeBiasCmd (Wr.full m ((v &&& ~~~(2 : BitVec 64)) ||| 1).toNat) else s)

/-- BIAS_CHANGE_DONE (R281): the change takes effect once no host block is in flight to the page, or its last line is answered. -/
def execBiasChangeDone (s : State) : Res :=
  .next (match s.tier.biasCmd with
    | none => s
    | some (page, up) =>
      if up && s.hostBlockAt page then s
      else if !up && s.tier.waitLine.any (fun l => l / 32768 == page) then s
      else
        let t := ({ s with tier := { s.tier with biasCmd := none, biasOld := [] } }).set R.TIER_BIAS_CMD_BUSY 0
        match s.entOf page with
        | none => t
        | some e =>
          if s.rf R.TIER_STATUS_MODE = 0 ∨ 253952 ≤ e.page ∨ s.bias e.page = up then t
          else t.set (R.TIER_BIAS_BIAS (e.page / 64)) (s.rf (R.TIER_BIAS_BIAS (e.page / 64)) ^^^ 2 ^ (e.page % 64)))

/-- BACK_INVALIDATE_ANSWER (R280): the line leaves the directory; a stopped stream whose status word waited for it ends. -/
def execBackInvalidateAnswer (line : BitVec 64) (s : State) : Res :=
  .next (if s.tier.waitLine.contains line.toNat then
      ({ s with tier := { s.tier with waitLine := s.tier.waitLine.filter (fun l => l != line.toNat) } }).closeStopped
    else s)

/-- LEND_ENTRY_WRITE (R277): a write of a host lend entry. -/
def execLendEntryWrite (m : Master) (e : Fin 32) (b : Bool) (v : BitVec 64) (s : State) : Res :=
  .next (if s.reach m then s.writeLend e.val b (Wr.full m v.toNat) else s)

/-- PEER_REQUEST (R277, R278, R365): a read or write of BAR4; one with a translated address is unsupported (R376). -/
def execPeerRequest (req : LinkReq) (addr : BitVec 64) (len : Nat) (data : List Byte) (poison : Bool) (s : State) : Res :=
  .next (if !s.linkUp then s
    else if req.translated then s.emit .unsupported
    else
      let s := if req.write && poison then s.hqErr stPOISON_IN R.HQ_ERR_POISON_RX else s
      let n := if req.write then data.length else len
      if 2 ^ 42 < addr.toNat + n then s.emit .unsupported
      else if !req.write && n == 0 then s.emit (.answer [])
      else s.takePeer ⟨if req.write then 1 else 0, addr.toNat, n, if req.write then data else [], poison, 0, 0, 0, none⟩)

/-- BARRIER_ANNOUNCEMENT (R395, R396): a member's posted write of a generation reaches the barrier table, in PEER slots in plan time. -/
def execBarrierAnnouncement (j : Fin 64) (id : Fin 4096) (gen : BitVec 64) (s : State) : Res :=
  .next (if s.rf R.PWR_STATE_STATE < 2 ∨ s.devices ≤ j.val ∨ j.val = s.rf R.SYNC_CONFIG_MEMBER then s
    else s.takePeer ⟨3, 512 * id.val + 8 * j.val, 8, [], false, 0, gen.toNat, 0, none⟩)

/-- MAP_MEMORY_ERROR (R259, R413): the map-memory entry that covers an OA is lost, its pages act as unmapped: with `dir` the directory
entry of its 256 GiB, else the level-2 entry of its page, where the directory entry names a table. -/
def execMapMemoryError (at_ : MapEntry) (s : State) : Res :=
  .next (if s.rf R.PWR_STATE_STATE < 2 then s
    else
      let page := at_.oa.toNat / 2 ^ 21
      let i := page / 131072
      let bad := if !at_.dir && s.rf (R.TIER_DIR_KIND i) == 1 then 2 ^ 20 + s.rf (R.TIER_DIR_TARGET i) % 64 * 131072 + page % 131072 else i
      let s := { s with tier := { s.tier with badEnt := NSet.ins bad s.tier.badEnt } }
      ((s.set R.TIER_ERR_TABLE_ERR 1).set R.TIER_ERR_LAST_STATUS stCHECK_FAIL).logEv stCHECK_FAIL 0x30 0 0 at_.oa.toNat)

end Sys2Proof.Machine
end

