-- ==== Sys2Proof/Machine/Update.lean ====
section
/-! DEFINITION. Machine/Update.lean: parameter chunks: gradient, optimizer, master, delta and working copy, and the rolling rebase
(R311 to R321). -/

namespace Sys2Proof.Machine

/-! ## Groups and chunks (R66, R311, R312) -/

/-- MASTER_OA of a shard-map group (R66). -/
def Chart.masterOA (c : Chart) (group : Nat) : Nat :=
  match (upTo (c.cnt 12)).find? (fun k => fieldLe (c.sec 12) (32 * k) 2 == group) with
  | some k => fieldLe (c.sec 12) (32 * k + 0x18) 8
  | none => 0

/-- EXTENT of a shard-map group: a member that holds none of the group has no update work for it (R66, R67). -/
def Chart.groupExtent (c : Chart) (group : Nat) : Nat :=
  match (upTo (c.cnt 12)).find? (fun k => fieldLe (c.sec 12) (32 * k) 2 == group) with
  | some k => fieldLe (c.sec 12) (32 * k + 0x10) 4
  | none => 0

/-- EXTENT of a group of the installed chart. -/
def State.groupExtent (s : State) (group : Nat) : Nat :=
  match s.chart.active with
  | none => 0
  | some c => c.groupExtent group

/-- MASTER_OA of a group of the installed chart. -/
def State.masterOA (s : State) (group : Nat) : Nat :=
  match s.chart.active with
  | none => 0
  | some c => c.masterOA group

/-- The key of a chunk: group * 2^16 + chunk; the keys of a program in group order. -/
def chunkKey (g k : Nat) : Nat := g * 65536 + k
def chunkKeys (b : List Byte) : List Nat :=
  ((upTo (fieldLe b 2 2)).map (fun i => (upTo (uGroup b i).chunks).map (chunkKey i))).flatten

/-! ## Operands and results -/

/-- What a chunk update has met: whether an operand was marked, whether a write was non-finite. -/
structure UpdRun where
  st     : State
  marked : Bool
  nonfin : Bool

/-- A plan read that the streams of a chunk make: a refusal raises FLAG_OUT, marked live granules are noted (R264, R430). -/
def State.updRead (s : State) (oa n : Nat) : State × List MByte :=
  let g := s.readOA .plan (oa % 2 ^ 52) n
  let s := if g.data.any (·.2) then g.st.noteRange (oa % 2 ^ 52) n else g.st
  (if g.refused then s.raiseFlag 0x0A else s, g.data)

/-- A plan write of a chunk's results (R264). -/
def State.updWrite (s : State) (oa : Nat) (l : List MByte) : State :=
  let g := s.writeOA .plan 2 (oa % 2 ^ 52) l
  if g.refused then g.st.raiseFlag 0x0A else g.st

/-- FP32 word i of a byte list, and whether one of its bytes is marked. -/
def word32 (a : Array MByte) (i : Nat) : Nat × Bool :=
  (leNat ((upTo 4).map (fun k => (a.getD (4 * i + k) (0, false)).1)), (upTo 4).any (fun k => (a.getD (4 * i + k) (0, false)).2))

/-- Moment i of a stored array in FP32 or BF16, decoded to FP32. -/
def moment (fmt : Nat) (a : Array MByte) (i : Nat) : Nat × Bool :=
  if fmt = 0 then word32 a i
  else (65536 * leNat ((upTo 2).map (fun k => (a.getD (2 * i + k) (0, false)).1)), (upTo 2).any (fun k => (a.getD (2 * i + k) (0, false)).2))

/-- A live master as an engine decodes it: bytes so far, where the skein stands, whether the rest is lost. -/
structure DeltaRun where
  st   : State
  data : List MByte
  pos  : Nat
  lost : Bool

/-- What a block of a delta skein delivers, counted at its engine (R155, R194): `none` a failed block, whose bytes are marked zeros. -/
def DeltaRun.deliver (x : DeltaRun) (win exp : Nat) (l : Option (List MByte)) (next : Nat) (lost : Bool) : DeltaRun :=
  let s := x.st.winBytes win 1 exp
  match l with
  | some l => ⟨s, x.data ++ zeroMarked l, next, lost⟩
  | none => ⟨s.winErr win stCHECK_FAIL R.SKEIN_ERR_BLOCK_FAIL, x.data ++ badBytes exp, next, lost⟩

/-- One block of a delta skein (R139, R154, R155, R316) decoded at the engine of a window: `len` bytes of master against the base at `ref`,
which a STORED block does not read. -/
def DeltaRun.block (win len : Nat) (ref : Option Nat) (x : DeltaRun) (i : Nat) : DeltaRun :=
  let exp := blockRaw len i
  if x.lost then { x with st := x.st.winBytes win 1 exp, data := x.data ++ badBytes exp }
  else
    let h := x.st.updRead x.pos 32
    let hb := h.2.map (·.1)
    if loses h.2 i exp then DeltaRun.deliver ⟨h.1, x.data, x.pos, x.lost⟩ win exp none x.pos true
    else
      let pl := fieldLe hb 8 4
      let p := h.1.updRead (x.pos + 32) pl
      let b := match (if readsBase hb then ref else none) with | some r => p.1.updRead (r + 65536 * i) exp | none => (p.1, [])
      let d := if blockIntact h.2 p.2 then decodePlain hb (p.2.map (·.1)) (b.2.map (·.1)) 32 i exp else none
      DeltaRun.deliver ⟨b.1, x.data, x.pos, x.lost⟩ win exp (d.map (fun l => (upTo l.length).map (fun j => (l.getD j 0, (b.2.getD j (0, false)).2)))) (x.pos + 32 + pl) false

/-- A delta skein's header passes R154 for a chunk's bytes. -/
def deltaHdrOk (h : List MByte) (len : Nat) : Bool :=
  let p := parseHdr (h.map (·.1))
  !h.any (·.2) && hdrFormOk (h.map (·.1)) && p.rawLen == len && p.profile == 3 && p.width == 32

/-- The live master of a chunk (R318): its base where the slot begins with 32 zero bytes, else the slot's skein decoded by the engine of a
window, which records a header that fails (R154). -/
def State.liveMaster (s : State) (win base slot len : Nat) : State × List MByte :=
  let h := s.updRead slot 32
  if h.2.all (fun b => b.1 == 0) && !h.2.any (·.2) then h.1.updRead base len
  else
    let p := parseHdr (h.2.map (·.1))
    let ok := deltaHdrOk h.2 len
    let s := if ok then h.1 else h.1.winErr win stCHECK_FAIL R.SKEIN_ERR_HDR_FAIL
    let x := (upTo (blockCount len)).foldl (DeltaRun.block win len (if p.refKind = 1 then some p.ref else none)) ⟨s, [], slot + 32, !ok⟩
    (x.st, x.data)

/-- The window of the skein engine that decodes and encodes a chunk's master: the spec names none, so it is any (log entry 71). -/
def State.masterWin (s : State) : Nat × State :=
  let x := s.fresh
  (x.2.engineWin (x.1 % 64), x.2)

/-- A new master encoded against its base (R152, R180, R318): every block marked at its input is STORED and poisoned. -/
def encodeDelta (raw base : List MByte) (ref : Nat) : List Byte :=
  (SkeinHdr.mk 3 32 1 raw.length ref 0).bytes ++ ((upTo (blockCount raw.length)).map (fun i =>
    let r := (raw.drop (65536 * i)).take 65536
    let b := (base.drop (65536 * i)).take 65536
    if r.any (·.2) || b.any (·.2) then blockBytes 2 r.length i 0 (r.map (·.1)) true
    else
      let c := encodePlain (r.map (·.1)) (b.map (·.1)) 32
      blockBytes c.mode r.length i c.bits c.payload false)).flatten

/-- Where a panel of a Cyloth-W weight is packed from (R157, R312): the sources of the chart's packs whose skein goes to the panel's OA. -/
def Chart.packedFrom (c : Chart) (oa : Nat) : List Nat :=
  ((upTo (c.cnt 3)).map (fun n => ((c.acts n).filter (fun a => a.pack && !isPort a.dst && a.dst % 2 ^ 52 == oa)).map (fun a => a.src % 2 ^ 52))).flatten

/-- The parameter at which each panel of a GEMM weight that lies raw in a group's working copy, or is packed from it, begins, with its rows
K (R93, R110, R312; log entry 186). -/
def State.wcPanels (s : State) (g : UGroup) : List (Nat × Nat) :=
  let unit := fmtBytes g.wc 32
  match s.chart.active with
  | none => []
  | some c => ((upTo (c.cnt 6)).map (fun p =>
      let b := (c.item 6 p).getD []
      let ws := ((upTo (fieldLe b 5 1)).map (wDesc b)).filter (fun d => d.index == 0 && d.elem == g.wc && d.k != 0)
      (ws.map (fun d => ((upTo (ceilDiv d.n 128)).map (fun i =>
        let oa := (s.panelWord d i).1 % 2 ^ 52
        (if d.prof = 0 then [oa] else c.packedFrom oa).filterMap (fun src =>
          let at_ := 32 * ((src - g.wcOA) / unit)
          if g.wcOA ≤ src ∧ (src - g.wcOA) % unit = 0 ∧ at_ < g.chunks * chunkN then some (at_, d.k) else none))).flatten)).flatten)).flatten

/-- Where the K-chunk that holds parameter x begins and ends: at most 512 rows of 128 columns; 65,536 parameters at a time where no weight
tells K. -/
def chunkBounds (panels : List (Nat × Nat)) (x : Nat) : Nat × Nat :=
  match panels.find? (fun p => decide (p.1 ≤ x) && decide (x < p.1 + 128 * p.2)) with
  | some p => (p.1 + 65536 * ((x - p.1) / 65536), p.1 + min (128 * p.2) (65536 * ((x - p.1) / 65536 + 1)))
  | none => (65536 * (x / 65536), 65536 * (x / 65536 + 1))

/-- A run of parameters inside one K-chunk: its first one and its end, and where the K-chunk begins and ends. -/
structure KPiece where
  lo    : Nat
  hi    : Nat
  first : Nat
  last  : Nat
  deriving DecidableEq, Repr

/-- The pieces that parameters x to hi of a copy of `total` fall into, K-chunk by K-chunk, with fuel. -/
def kPieces (panels : List (Nat × Nat)) (total hi : Nat) : Nat → Nat → List KPiece
  | 0, _ => []
  | fuel + 1, x => if hi ≤ x then [] else
      let c := chunkBounds panels x
      KPiece.mk x (min hi c.2) c.1 (min total c.2) :: kPieces panels total hi fuel (min hi c.2)

/-- Where the bytes of one piece of an MX working copy go (R110): its elements behind those of its K-chunk that come before, its scales
behind the elements of the whole K-chunk, which a chunk of 2^20 parameters may cut in two. -/
def KPiece.places (p : KPiece) (fmt at_ : Nat) (l : List MByte) : List (Nat × List MByte) :=
  let elems := l.length - ceilDiv (p.hi - p.lo) 32
  let base := at_ + fmtBytes fmt p.first
  if p.lo = p.first ∧ p.hi = p.last then [(base, l)]
  else [(base + (p.lo - p.first) * elemBits fmt / 8, l.take elems),
    (base + (p.last - p.first) * elemBits fmt / 8 + (p.lo - p.first) / 32, l.drop elems)]

/-- A working copy's bytes written piece by piece; formats without scales in one run (R110, R312). -/
def State.writeCopy (s : State) (fmt at_ first : Nat) (cuts : List KPiece) (l : List MByte) : State :=
  if isMx fmt then
    (cuts.foldl (fun (a : State × List MByte) p =>
      let n := fmtBytes fmt (p.hi - p.lo)
      (((p.places fmt at_ (a.2.take n)).foldl (fun s w => s.updWrite w.1 w.2) a.1), a.2.drop n)) (s, l)).1
  else s.updWrite (at_ + fmtBytes fmt first) l

/-- Values in a format as they are stored, with what the gauge sees of each: an MX format piece by piece, its scales behind the elements
of the piece (R110, R312), with the draws of their writes (R117) and the marks of their operands. -/
def convRows (fmt mode : Nat) (key : DrawKey) (first : Nat) (v : List Nat) (ms : List Bool) (pieces : List Nat) : List MByte × List Wrote :=
  let r := (if isMx fmt then pieces else [v.length]).foldl (fun (a : List MByte × List Wrote × Nat) size =>
    let w := (v.drop a.2.2).take size
    let m := (ms.drop a.2.2).take size
    let draws := if mode = 2 then (upTo w.length).map (fun i => key.draw (first + a.2.2 + i)) else []
    let x := writeRow fmt mode draws w
    (a.1 ++ markBytes fmt w.length x.1 (spreadMx fmt m), a.2.1 ++ x.2, a.2.2 + size)) ([], [], 0)
  (r.1, r.2.1)

/-- Values of a write counted (R130). -/
def UpdRun.count (x : UpdRun) (src fmt : Nat) (l : List Wrote) : UpdRun :=
  ⟨x.st.countWrote src fmt l, x.marked, x.nonfin || l.any (·.nonfin)⟩

/-! ## The arithmetic of one parameter (R314, R315) -/

/-- The running product p[t] of a factor: t steps of fl(p * beta) from 1. -/
def runProd (beta : Nat) : Nat → Nat
  | 0 => one32
  | t + 1 => fMul (runProd beta t) beta

/-- 2^-e as FP32. -/
def twoNeg (e : Nat) : Nat := to32 (.fin false 1 (-(e : Int)))

/-- The constants of one step's ADAMW: unscaling, c1, c2 and lr. -/
structure AdamConst where
  unscale : Nat
  c1      : Nat
  c2      : Nat
  lr      : Nat
  deriving DecidableEq, Repr

/-- The constants of a group at optimizer step t, exponent e and learning rate LR. -/
def UGroup.consts (g : UGroup) (t e lr : Nat) : AdamConst :=
  ⟨twoNeg e, fDiv one32 (fSub one32 (runProd g.beta1 t)), fDiv one32 (fSub one32 (runProd g.beta2 t)), fMul lr g.lrs⟩

/-- One parameter under ADAMW: first moment, second moment, new master. -/
def UGroup.adamw (g : UGroup) (c : AdamConst) (a m v p : Nat) : Nat × Nat × Nat :=
  let gr := fMul a c.unscale
  let m1 := fFma g.beta1 m (fMul g.omb1 gr)
  let v1 := fFma g.beta2 v (fMul g.omb2 (fMul gr gr))
  let u := fDiv (fMul m1 c.c1) (fAdd (fSqrt (fMul v1 c.c2)) g.eps)
  (m1, v1, fSub p (fMul c.lr (fAdd u (fMul g.wd p))))

/-- The summed gradient of one parameter: no partial is +0, one is used as it is, several go through the tree (R121, R314). -/
def gradient (l : List Nat) : Nat := match l with | [] => 0 | [a] => a | _ => tree l

/-- The partials of a chunk, ascending by member: the own accumulator in its own place, a member in PEER_MASK at its offset; the bytes
that a neighbour supplies come with the command, and what does not come arrives marked (R314, R378). DESIGN CHOICE: the own member's bit
in PEER_MASK names no partial, since the spec does not say what it would read (log entry 232). -/
def State.partials (s : State) (b : List Byte) (g : UGroup) (k : Nat) (peers : List Byte) : State × List (Array MByte) :=
  let n := 4 * g.params k
  let me := s.rf R.SYNC_CONFIG_MEMBER
  let r := (upTo 64).foldl (fun (a : State × List (Array MByte) × List Byte) j =>
    let own := j == me && g.acc != 0xFFFF
    if own then
      let x := a.1.updRead ((accDesc b g.acc).oa + 4 * chunkN * k) n
      (x.1, a.2.1 ++ [x.2.toArray], a.2.2)
    else if g.mask.testBit j && j != me then
      let oa := (g.peerOA + j * g.stride * 2 ^ 21 + 4 * chunkN * k) % 2 ^ 52
      let x := a.1.updRead oa n
      let far := a.1.farBytes .plan oa n
      let miss := x.1.freeBytes (far - a.2.2.length)
      let buf := clean (a.2.2.take far) ++ miss.1
      (miss.2, a.2.1 ++ [(fillFar ((pageSpans oa n).map (a.1.farSpan .plan)) x.2 buf).toArray], a.2.2.drop far)
    else a) (s, [], peers)
  (r.1, r.2.1)

/-! ## One chunk (R312 to R320) -/

/-- The skein that a chunk's new master leaves in its delta slot: against the old base, or in the rebase set against itself. -/
def State.deltaOf (s : State) (key base : Nat) (pn old : List MByte) : List Byte :=
  encodeDelta pn (if s.upd.rebase.contains key then pn else old) base

/-- The new master of a chunk stored (R318 to R320): in the rebase set as a new base with the delta of no change, else as a delta. -/
def State.storeMaster (s : State) (g : UGroup) (key base slot : Nat) (pn : List MByte) (sk : List Byte) : State :=
  let s := if s.upd.rebase.contains key then s.updWrite base pn else s
  let s := { s with upd := { s.upd with lens := SMap.put (fun _ => 0) s.upd.lens key sk.length } }
  if g.slot < sk.length then ({ s with upd := { s.upd with overflow := NSet.ins key s.upd.overflow } }).raiseFlag 9
  else s.updWrite slot (clean sk)

/-- Chunk k of group i updated. A value is marked when an operand that it is computed from is (R316). DESIGN CHOICE: the moments and the
working copy of a short last chunk begin where full chunks' bytes would put it (log entry 231). -/
def State.updateChunk (s : State) (b : List Byte) (i k : Nat) (peers : List Byte) : State :=
  let g := uGroup b i
  if s.groupExtent g.group = 0 then s
  else
    let n := g.params k
    let first := chunkN * k
    let base := s.masterOA g.group + 4 * chunkN * k
    let slot := g.delta + g.slot * k
    let win := s.masterWin
    let live := win.2.liveMaster win.1 base slot (4 * n)
    let la := live.2.toArray
    let ps := (upTo n).map (word32 la)
    let msz := if g.mom = 0 then 4 else 2
    let momAt := g.momOA + 2 * msz * chunkN * k
    let draw := fun s mb => State.drawKey s g.tid mb 1
    let cuts := kPieces (s.wcPanels g) (chunkN * (g.chunks - 1) + g.last) (first + n) (n + 1) first
    let sizes := cuts.map (fun p => p.hi - p.lo)
    if g.rule = 0 then
      let ms := ps.map (·.2)
      let wc := convRows g.wc g.mode (draw live.1 0) first (ps.map (·.1)) ms sizes
      let s := if ms.any id then live.1.raiseFlag 4 else live.1
      let x := (UpdRun.mk s (ms.any id) false).count 2 g.wc wc.2
      let s := x.st.writeCopy g.wc g.wcOA first cuts wc.1
      if x.nonfin then s.raiseFlag 3 else s
    else
      let c := g.consts (s.rf R.STEP_OPT_COUNT_COUNT + 1) (s.rf R.STEP_SCALE_EXP) (s.rf R.STEP_LR_NOW_VALUE)
      let parts := live.1.partials b g k peers
      let mo := parts.1.updRead momAt (2 * msz * n)
      let old := mo.1.updRead base (4 * n)
      let ma := mo.2.toArray
      let one := fun j =>
        let a := parts.2.map (fun p => word32 p j)
        let m := moment g.mom ma j
        let v := moment g.mom ma (n + j)
        let p := word32 la j
        (g.adamw c (gradient (a.map (·.1))) m.1 v.1 p.1, a.any (·.2) || m.2, a.any (·.2) || v.2, a.any (·.2) || m.2 || v.2 || p.2)
      let r := (upTo n).map one
      let ms := r.map (·.2.2.2)
      let m1 := convRows g.mom g.mode (draw old.1 1) first (r.map (·.1.1)) (r.map (·.2.1)) []
      let v1 := convRows g.mom g.mode (draw old.1 2) first (r.map (·.1.2.1)) (r.map (·.2.2.1)) []
      let pn := convRows 0 0 (draw old.1 0) first (r.map (·.1.2.2)) ms []
      let wc := convRows g.wc g.mode (draw old.1 0) first (r.map (·.1.2.2)) ms sizes
      let sk := old.1.deltaOf (chunkKey i k) base pn.1 old.2
      let s := (old.1.winBytes win.1 0 (4 * n))
      let s := if (pn.1 ++ old.2).any (·.2) then s.winErr win.1 stPOISON_IN R.SKEIN_ERR_MARKED_IN else s
      let s := if ms.any id then s.raiseFlag 4 else s
      let x := (((UpdRun.mk s (ms.any id) false).count 1 g.mom m1.2).count 1 g.mom v1.2).count 2 g.wc wc.2
      let x := if g.slot < sk.length && !s.upd.rebase.contains (chunkKey i k) then x else x.count 1 0 pn.2
      let s := if x.nonfin then x.st.raiseFlag 3 else x.st
      let s := s.updWrite momAt (m1.1 ++ v1.1)
      let s := s.storeMaster g (chunkKey i k) base slot pn.1 sk
      s.writeCopy g.wc g.wcOA first cuts wc.1

/-- The chunk entry e of the running schedule: its group, its chunk and its cluster entry. -/
def State.chunkEntry (s : State) (e : Nat) : Option CluEntry :=
  let ce := cluEntry s.schedule e
  if ce.kind = 1 ∧ e < schNSEG s.schedule then some ce else none

/-- The chunk of an entry updated, its gauge counts kept apart until the entry ends: unfinished work is not counted (R131). -/
def State.countedChunk (s : State) (e : Nat) (ce : CluEntry) (peers : List Byte) : State :=
  let t := ({ s with gauge := [] }).updateChunk s.updProg ce.tensor ce.slice peers
  { t with gauge := s.gauge, clu := { t.clu with counts := t.clu.counts ++ [(e, t.gauge)] } }

/-- The gauge counts of an entry that ends added to the step's figures. -/
def State.takeCounts (s : State) (e : Nat) : State :=
  let l := ((s.clu.counts.filter (fun x => x.1 == e)).map (·.2)).flatten
  { s with gauge := l.foldl (fun g x => SMap.put (fun _ => 0) g x.1 (SMap.get (fun _ => 0) g x.1 + x.2)) s.gauge
           clu := { s.clu with counts := s.clu.counts.filter (fun x => x.1 != e) } }

/-- UPDATE_CHUNK (R314, R315): an entry of KIND 1 starts on its span at its plan offset; operands are read and results written as the
streams around it carry them. A group of which the member holds nothing has no update work: its entry passes and nothing runs (R67). -/
def execUpdateChunk (e : Nat) (peers : List Byte) (s : State) : Res :=
  .next (match s.chunkEntry e with
    | none => s
    | some ce =>
      let b := s.updProg
      if !s.planRuns || !s.clu.left.contains e then s
      else match s.spanUnits ce.first (fieldLe b 6 1) with
        | none => s
        | some us =>
          let s := (s.advance (s.cluAt ce.start)).runEntry e
          if s.groupExtent (uGroup b ce.tensor).group = 0 then s
          else
            let s := s.useUnits (us.map (0x1000 + ·))
            let s := s.forEach us (fun s p => s.set (R.CLU_SEGMENT_BUSY p) 1)
            s.countedChunk e ce peers)

/-- UPDATE_CHUNK_DONE (R317, R414): UPDATE_CYCLES after its start the chunk's entry ends and is counted; one that the watchdog finds overdue
is a unit fault instead. -/
def execUpdateChunkDone (e : Nat) (s : State) : Res :=
  .next (match s.chunkEntry e with
    | none => s
    | some ce =>
      let b := s.updProg
      if !s.planRuns || !s.clu.running.any (fun p => p.1 == e) then s
      else match s.spanUnits ce.first (fieldLe b 6 1) with
        | none => s
        | some us =>
          let n := updCycles (fieldLe b 6 1) (uGroup b ce.tensor) ce.slice
          let due := s.cluAt ce.start + s.cycleTicks n
          if s.groupExtent (uGroup b ce.tensor).group = 0 then (s.advance due).endEntry e
          else match s.overdueUnit us due with
            | some u => s.unitFault u
            | none => ((((s.advance due).countWork us n).takeCounts e).bump R.STEP_UPDATE_CHUNKS).endEntry e)

/-! ## The rolling rebase (R321) -/

/-- Numbers of a list that are not in another, kept in order. -/
def without (l r : List Nat) : List Nat := l.filter (fun x => !r.contains x)

/-- The keys of the chunks that this member updates: none of a group of which it holds nothing (R67). -/
def State.heldKeys (s : State) (b : List Byte) : List Nat :=
  ((upTo (fieldLe b 2 2)).map (fun i =>
    if s.groupExtent (uGroup b i).group = 0 then [] else (upTo (uGroup b i).chunks).map (chunkKey i))).flatten

/-- The rebase set of the next step fixed for an update program: overflows, near-full chunks, then the rotation. -/
def State.fixRebase (s : State) (b : List Byte) : State :=
  let keys := s.heldKeys b
  let cap := fieldLe b 0x10 4
  let o := s.upd.overflow.filter (fun x => keys.contains x)
  let l := (o ++ without s.upd.nearFull o).filter (fun x => keys.contains x)
  let head := l.take cap
  let p := if keys.isEmpty then 0 else s.upd.pointer % keys.length
  let rot := (without (keys.drop p ++ keys.take p) l).take (cap - head.length)
  let next := match rot.getLast? with
    | some k => (keys.idxOf k + 1) % keys.length
    | none => p
  let set_ := head ++ rot
  ({ s with upd := { s.upd with rebase := set_, pointer := p, nextPtr := next, fresh := false } }).set R.STEP_UPDATE_REBASED set_.length

/-- What a finite bind-off makes of the delta lengths and the pointer (R321): near-full chunks, the pointer past the rotation's chunks. -/
def State.commitRebase (s : State) (b : List Byte) : State :=
  let near := s.upd.lens.filter (fun p => decide (3 * (uGroup b (p.1 / 65536)).slot < 4 * p.2))
  { s with upd := { s.upd with nearFull := near.map (·.1), pointer := s.upd.nextPtr } }

/-- An install, and an uninstall, leave the pointer at the first chunk and empty lists (R321). -/
def State.resetRebase (s : State) : State :=
  { s with upd := { s.upd with pointer := 0, nextPtr := 0, nearFull := [], overflow := [], rebase := [], lens := [], fresh := true } }

/-- The update program of a variant of the installed chart. -/
def State.progOfVariant (s : State) (v : Nat) : List Byte :=
  match s.chart.active with
  | none => []
  | some c => c.updProg (c.vUPDATE v)

/-- The loss-scale exponent written to the SCALE_OA of an update program (R332). -/
def State.writeScale (s : State) (b : List Byte) : State :=
  if b.isEmpty then s else s.setSem (fieldLe b 8 8) (s.rf R.STEP_SCALE_EXP)

end Sys2Proof.Machine
end

