-- ==== Sys2Proof/Machine/ChartOps.lean ====
section
/-! DEFINITION. Machine/ChartOps.lean: loading, committing, installing and removing a chart (R71 to R84, R202, R267). -/

namespace Sys2Proof.Machine

/-! ## The image -/

/-- The chart of an image, read by its header and directory (R59, R60). -/
def Chart.parse (b : List Byte) : Chart :=
  ⟨sliceB b 0 0x200,
   (upTo 16).map (fun i => sliceB b (fieldLe b (0x100 + 16 * i) 4) (fieldLe b (0x104 + 16 * i) 4)),
   (upTo 16).map (fun i => fieldLe b (0x108 + 16 * i) 4)⟩

/-- CHART_STAGED shown for a staged chart, or cleared. -/
def State.showStaged (s : State) (c : Option Chart) : State :=
  let g := fun (f : Chart → Nat) => match c with | some c => f c | none => 0
  let s := (s.set R.CHART_STAGED_EPOCH (g Chart.epoch)).set R.CHART_STAGED_MEMBER (g Chart.member)
  let s := (s.set R.CHART_STAGED_DEVICES (g Chart.devices)).set R.CHART_STAGED_NVAR_M1 (g Chart.nvar - 1)
  let s := (s.set R.CHART_STAGED_NSWATCH (g Chart.nswatch)).set R.CHART_STAGED_VALID (if c.isSome then 1 else 0)
  s.set R.CHART_STAGED_ID_CONFIG_ID (g Chart.configId)

/-- CHART_ACTIVE shown for the installed chart, or cleared. -/
def State.showActive (s : State) : State :=
  let c := s.chart.active
  let g := fun (f : Chart → Nat) => match c with | some c => f c | none => 0
  let s := (s.set R.CHART_ACTIVE_EPOCH (g Chart.epoch)).set R.CHART_ACTIVE_MEMBER (g Chart.member)
  let s := (s.set R.CHART_ACTIVE_DEVICES (g Chart.devices)).set R.CHART_ACTIVE_NVAR_M1 (g Chart.nvar - 1)
  let s := (s.set R.CHART_ACTIVE_NSWATCH (g Chart.nswatch)).set R.CHART_ACTIVE_VALID (if c.isSome then 1 else 0)
  s.set R.CHART_ACTIVE_ID_CONFIG_ID (g Chart.configId)

/-- The staging space (R71): where it begins in HBM and how much it holds. -/
def State.stageSpace (s : State) : Nat × Nat :=
  match s.chart.active with
  | none => (0, 0x10000000)
  | some c => ((match s.entOf (c.stageOA / 2 ^ 21) with | some e => e.page * 2 ^ 21 | none => 0), c.stageBytes)

/-- The staged image dropped. -/
def State.dropStaged (s : State) : State :=
  (({ s with chart := { s.chart with staged := none, image := [] } }).showStaged none).avs

/-! ## Loading (R72, R73, R84) -/

/-- Whether a load is refused (R72). -/
def State.loadRefused (s : State) (bytes : Nat) : Bool :=
  s.rf R.CHART_LOAD_STATUS_STATE == 1 || s.rf R.CHART_LOAD_STATUS_STATE == 2 || !s.chart.commits.isEmpty || bytes == 0
    || (match s.chart.active with | some c => c.stageBytes == 0 | none => false)

/-- A refusal of CHART_LOAD_CTRL. DESIGN CHOICE: a refused DISCARD or UNINSTALL shows in CHART_LOAD_STATUS.STATUS as a refused load does; the
spec does not say whether these count as load requests (log entry 228). -/
def State.refuseLoad (s : State) : State := (s.set R.CHART_LOAD_STATUS_STATUS stBAD_ARG).refuse 0x40028 stBAD_ARG

/-- A LOAD begins to fetch, or is refused. -/
def State.beginLoad (s : State) : State :=
  let n := s.rf R.CHART_LOAD_CTRL_BYTES
  if s.loadRefused n then s.refuseLoad
  else
    let s := s.dropStaged
    let s := { s with chart := { s.chart with loadBytes := n } }
    let s := ((s.set R.CHART_LOAD_STATUS_STATE 1).set R.CHART_LOAD_STATUS_STATUS stOK).set R.CHART_LOAD_STATUS_RULE 0
    let s := (s.set R.CHART_LOAD_STATUS_SECTION 0).set R.CHART_LOAD_STATUS_OFFSET 0
    s.emitHost (.busRead 16384 0 (s.rf R.CHART_LOAD_SRC_ADDR) n)

/-- A DISCARD empties the staging area, or is refused (R73). -/
def State.discardImage (s : State) : State :=
  if !s.chart.commits.isEmpty || s.rf R.CHART_LOAD_STATUS_STATE == 1 then s.refuseLoad
  else (s.dropStaged).set R.CHART_LOAD_STATUS_STATE 0

/-- Pending or held swatch requests dropped with BAD_ARG (R29). -/
def State.dropSwatches (s : State) : State :=
  if s.step.swatches.isEmpty then s
  else
    let s := { s with step := { s.step with swatches := [] } }
    ((s.set R.STEP_SWATCH_PENDING 0).set R.STEP_SWATCH_STATUS stBAD_ARG).logEv stBAD_ARG 0x08 0 0x80038 0

/-- A host context that is still open (R82, R203). -/
def State.hostOpen (s : State) (n : Nat) : Bool := (s.str n).host && (s.strUnfinished n || s.sst n == ssSEALED)

/-- Open host streams of the installed chart's epoch, lowest context first (R82). -/
def State.openHost (s : State) : List Nat :=
  match s.chart.active with
  | none => []
  | some c => s.usedCtx.filter (fun n => s.hostOpen n && s.rf (R.STREAM_BIND_EPOCH n) == c.epoch)

/-- The eight registers of a context set to the words of an image; STATE stands at IDLE (R202). -/
def State.loadImage (s : State) (n : Nat) (b : List Byte) : State :=
  let s := s.forEach (upTo 8) (fun s k =>
    let off := 0x100000 + 64 * (n % 16384) + 8 * (k % 8)
    match findReg off with
    | none => s
    | some r => r.fields.foldl (fun (s : State) f => s.set ⟨off, f.lo, f.w⟩ (bitsOf (fieldLe b (8 * k) 8) f.lo f.w)) s)
  s.set (R.STREAM_RUN_STATE n) ssIDLE

/-- The contexts of a replaced chart cleared: all fields zero, but for those on which a host stream is open; an image of the new chart is
written over what stands there (R79). -/
def State.clearContexts (s : State) (c : Chart) : State :=
  s.forEach ((upTo (c.cnt 3)).filter (fun n => !s.hostOpen n)) (fun s n => (s.loadImage n []).setStr n StreamX.fresh)

/-- The HBM pages of the runtime objects, which an uninstall keeps (R267). -/
def State.runtimeHbm (s : State) : List Nat := (s.runtimeEntries.map (fun p => p.2.page)).filter (fun p => decide (p < 253952))

/-- HBM left to a free value, but for the pages of a list (R73). -/
def State.forget (s : State) (keep : List Nat) : State :=
  let (_, s') := s.fresh
  { s' with
    mem := s.mem.filter (fun (c : Host.Cell) => decide (0x7C00000000 ≤ c.1) || (keep.contains (c.1 / 2 ^ 21) &&
      (s.lostHbm.isNone || s.hbmKept.contains (c.1 / 2 ^ 21))))
    lostHbm := some s.free, hbmKept := keep }

/-- A stream context removed (R73): its fields are zero, and a host stream on it is gone with it; ABORT commands that wait for its end
complete (log entry 177). -/
def State.dropContext (s : State) (n : Nat) : State :=
  let s := s.dropSk n (s.str n).sk none
  let s := if s.hostOpen n then (s.endStr n).completeOn 2 n else s
  (s.loadImage n []).setStr n StreamX.fresh

/-- The installed chart removed (R73): map, ownership, every stream context, swatches; of HBM only the runtime objects stay; phase IDLE.
DESIGN CHOICE: a staged image that is VALID stays so and can be installed; the spec does not say (log entry 227). -/
def State.uninstall (s : State) : State :=
  match s.chart.active with
  | none => s
  | some c =>
    let s := s.rebuildMap none
    let s := s.forget s.runtimeHbm
    let s := s.forEach (s.usedCtx.foldl (fun l n => NSet.ins n l) (upTo (c.cnt 3))) State.dropContext
    let s := s.dropSwatches.resetRebase
    let s := { s with chart := { s.chart with active := none }, tier := { s.tier with sel := [], dirty := [] } }
    let s := { s with step := { s.step with emergency := false } }
    let s := (s.set R.STEP_STATUS_PHASE phIDLE).set R.STEP_STATUS_HOLD_CAUSE 0
    s.showActive.showTier.avs

/-- An UNINSTALL, or its refusal. -/
def State.tryUninstall (s : State) : State :=
  if !s.stopped || !s.chart.commits.isEmpty || !s.chart.variants.isEmpty then s.refuseLoad else s.uninstall

/-- A write of CHART_LOAD_CTRL: LOAD, then DISCARD, then UNINSTALL (log entry 6). -/
def State.writeLoadCtrl (s : State) (w : Wr) : State :=
  let s := s.regWrite 0x40028 w
  let s := if w.get .host R.CHART_LOAD_CTRL_LOAD = 1 then s.beginLoad else s
  let s := if w.get .host R.CHART_LOAD_CTRL_DISCARD = 1 then s.discardImage else s
  if w.get .host R.CHART_LOAD_CTRL_UNINSTALL = 1 then s.tryUninstall else s

/-- A write of CHART_LOAD_SRC: an address that is not a multiple of 4,096 is refused (R84). -/
def State.writeLoadSrc (s : State) (w : Wr) : State :=
  if mayWrite w.m .host ∧ bitsOf (w.v % 2 ^ w.sz * 2 ^ w.lo) 0 12 ≠ 0 then s.refuse 0x40020 stBAD_ARG else s.regWrite 0x40020 w

/-! ## Installing (R69, R79, R81) -/

/-- Check 24 under the conditions in force: the first entry of PORT_MASK whose port is not UP at its edition. -/
def State.badPort (s : State) (c : Chart) : Option Nat :=
  (upTo (c.cnt 14)).find? (fun k =>
    let p := fieldLe (c.sec 14) (16 * k) 1
    c.portMask.testBit p &&
      (!s.portUp p || decide (s.rf (R.CDP_STATUS_EDITION p) < fieldLe (c.sec 14) (16 * k + 2) 2)))

/-- Check 25 (R81). -/
def State.epochOk (s : State) (c : Chart) : Bool :=
  match s.chart.active with
  | none => true
  | some a => if c.epoch = a.epoch then c.sec 12 == a.sec 12 else c.priorEpoch == a.epoch

/-- Rule code of the repeated checks that fail for a chart, 0 when none does (R69). -/
def State.recheck (s : State) (c : Chart) : Nat := if (s.badPort c).isSome then 24 else if !s.epochOk c then 25 else 0

/-- Whether a commit of the staged chart changes the layout epoch (R82). -/
def State.reshards (s : State) : Bool :=
  match s.chart.active, s.chart.staged with
  | some a, some c => a.epoch != c.epoch
  | _, _ => false

/-- Bytes placed through OA by KN40 itself, whoever owns the pages. -/
def State.pokeOA (s : State) (oa : Nat) (l : List Byte) : State :=
  (pageSpans oa l.length).foldl (fun (s : State) sp => match s.entOf sp.1 with
    | none => s
    | some e =>
      let at_ := sp.1 * 2 ^ 21 + sp.2.1 - oa
      s.writeMem (e.page * 2 ^ 21 + sp.2.1) (clean ((l.drop at_).take sp.2.2))) s

/-- The resident sections as they stand in the program area (R61): sections 4 to 7 in order, each that is not empty 64-byte aligned.
DESIGN CHOICE: the padding between them is zero; the spec does not say what it holds (log entry 226). -/
def Chart.resident (c : Chart) : List Byte :=
  [4, 5, 6, 7].foldl (fun l i => if (c.sec i).isEmpty then l else l ++ List.replicate (ceilDiv l.length 64 * 64 - l.length) 0 ++ c.sec i) []

/-- Every pending variant commit superseded (R77, R78). -/
def State.dropVariants (s : State) : State :=
  if s.chart.variants.isEmpty then s
  else ({ s with chart := { s.chart with variants := [] } }).set R.CHART_VARIANT_OUTCOME 3

/-- The flash interface back at its rate in service: the diagnostic rate never stands with a chart installed (R284; log entry 209). -/
def State.fullRate (s : State) : State := if s.rf R.FTL_STATUS_RATE = 0x10 then s.set R.FTL_STATUS_RATE 0x24 else s

/-- The staged chart installed (R79): tier map, contexts, program area, active chart; the requests that name the old chart end. An image is
written to its context whatever stream is open there, and a host stream on it is gone with what it held (log entry 175). -/
def State.installChart (s : State) (c : Chart) : State :=
  let s := s.rebuildMap (some c)
  let s := match s.chart.active with | some a => s.clearContexts a | none => s
  let s := { s with chart := { s.chart with active := some c, staged := none, image := [] } }
  let s := s.forEach (upTo (c.cnt 3)) (fun s n => (s.dropContext n).loadImage n ((c.ctxImage n).getD []))
  let s := s.pokeOA c.progOA c.resident
  let live := c.pairs.map (fun (p : Nat × Nat × Nat × Nat) => (p.1 / 2 ^ 21, p.2.2.1))
  let s := { s with tier := { s.tier with
    sel := s.tier.sel.filter (fun p => live.any (fun r => decide (r.1 ≤ p) && decide (p < r.1 + r.2))), dirty := [] } }
  let s := (s.dropVariants.dropSwatches).resetRebase
  let s := { s with step := { s.step with installed := true } }
  (((s.showStaged none).showActive.set R.CHART_LOAD_STATUS_STATE 0).showTier).fullRate.avs

/-- A due commit carried out: checks 24 and 25 repeated, then the install (R69). A commit that fails them ends without effect. -/
def State.applyCommit (s : State) : State :=
  match s.chart.staged with
  | none => s
  | some c =>
    let rule := s.recheck c
    if rule ≠ 0 then ((s.set R.CHART_COMMIT_STATUS stBAD_ARG).set R.CHART_COMMIT_OUTCOME 3).logEv stBAD_ARG 0x04 0 rule 0
    else
      let s := if s.rf R.CHART_COMMIT_STATUS = stNOT_DRAINED then s.set R.CHART_COMMIT_STATUS stOK else s
      (s.installChart c).set R.CHART_COMMIT_OUTCOME 2

/-- A commit leaves the list. -/
def State.takeCommit (s : State) (p : PendCommit → Bool) : State :=
  { s with chart := { s.chart with commits := s.chart.commits.filter (fun c => !p c) } }

/-! ## Requests (R74 to R78, R82) -/

/-- A request refused. -/
def State.refuseCommit (s : State) (f : Fld) : State := (s.set f stBAD_ARG).refuse f.off stBAD_ARG

/-- A chart commit requested; refused while the voltage request is not met (R449). In HOLD the new request takes the place of any that is still pending, one DEFERRED for a later bind-off too
(log entry 174). -/
def State.requestCommit (s : State) : State :=
  match s.chart.staged with
  | none => s.refuseCommit R.CHART_COMMIT_STATUS
  | some c =>
    if s.rf R.CHART_LOAD_STATUS_STATE ≠ 3 ∨ s.phase = phARMED ∨ s.rf R.PWR_AVS_MET = 0 then s.refuseCommit R.CHART_COMMIT_STATUS
    else if s.recheck c ≠ 0 then (s.set R.CHART_COMMIT_STATUS stBAD_ARG).logEv stBAD_ARG 0x04 0 (s.recheck c) 0
    else if s.stopped then
      let s := (s.takeCommit (fun _ => true)).set R.CHART_COMMIT_APPLY_AT_STEP 0xFFFFFFFF
      if s.reshards && !s.openHost.isEmpty then
        let s := { s with chart := { s.chart with commits := [PendCommit.mk 0 none true] } }
        (s.set R.CHART_COMMIT_STATUS stNOT_DRAINED).set R.CHART_COMMIT_OUTCOME 1
      else (s.set R.CHART_COMMIT_STATUS stOK).applyCommit
    else
      let (n, late) := s.targetStep
      let s := s.takeCommit (fun c => c.target == some n)
      let s := { s with chart := { s.chart with commits := s.chart.commits ++ [PendCommit.mk 0 (some n) false] } }
      let s := (s.set R.CHART_COMMIT_STATUS (if late then stDEFERRED else stOK)).set R.CHART_COMMIT_OUTCOME 1
      (s.set R.CHART_COMMIT_APPLY_AT_STEP n).showAhead

/-- A variant commit replaces the one of its target. -/
def State.putVariant (s : State) (v : PendCommit) : State :=
  { s with chart := { s.chart with variants := s.chart.variants.filter (fun c => c.target != v.target) ++ [v] } }

/-- A variant commit requested with the index in the register. -/
def State.requestVariant (s : State) : State :=
  let i := s.rf R.CHART_VARIANT_INDEX
  match s.chart.active with
  | none => s.refuseCommit R.CHART_VARIANT_STATUS
  | some c =>
    if c.nvar ≤ i then s.refuseCommit R.CHART_VARIANT_STATUS
    else
      let early := s.stopped || (s.phase == phARMED && decide (s.row + 2048 ≤ s.rf R.SYNC_LAUNCH_COUNT))
      let (n, late) := s.targetStep
      let late := late || s.phase == phARMED
      let s := s.set R.CHART_VARIANT_OUTCOME 1
      if early then
        (((s.putVariant ⟨i, none, false⟩).set R.CHART_VARIANT_STATUS stOK).set R.CHART_VARIANT_APPLY_AT_STEP 0xFFFFFFFF).showAhead
      else
        ((s.putVariant ⟨i, some n, false⟩).set R.CHART_VARIANT_STATUS (if late then stDEFERRED else stOK)).set
          R.CHART_VARIANT_APPLY_AT_STEP n

/-- Whether a pending request is frozen: its target's deadline has passed (R76). -/
def State.frozen (s : State) (c : PendCommit) : Bool :=
  match c.target with
  | none => s.phase == phARMED && decide (s.rf R.SYNC_LAUNCH_COUNT < s.row + 2048)
  | some n => (s.inStep && n == s.rf R.STEP_NUMBER_VALUE && decide (s.deadline ≤ s.row)) ||
      (s.step.decideDue && n == s.step.lastStep)

/-- The most recent chart commit withdrawn (R76). -/
def State.withdrawCommit (s : State) : State :=
  match s.chart.commits.getLast? with
  | none => s.set R.CHART_COMMIT_STATUS stOK
  | some c =>
    if s.frozen c then (s.set R.CHART_COMMIT_STATUS stDEFERRED).logEv stDEFERRED 0x04 0 0x40038 0
    else (((s.takeCommit (· == c)).set R.CHART_COMMIT_STATUS stOK).set R.CHART_COMMIT_OUTCOME 3).showAhead

/-- The most recent variant commit withdrawn (R76). -/
def State.withdrawVariant (s : State) : State :=
  match s.chart.variants.getLast? with
  | none => s.set R.CHART_VARIANT_STATUS stOK
  | some c =>
    if s.frozen c then (s.set R.CHART_VARIANT_STATUS stDEFERRED).logEv stDEFERRED 0x04 0 0x40040 0
    else
      let s := { s with chart := { s.chart with variants := s.chart.variants.filter (· != c) } }
      ((s.set R.CHART_VARIANT_STATUS stOK).set R.CHART_VARIANT_OUTCOME 3).showAhead

/-- A write of CHART_COMMIT: REQ, then WITHDRAW (log entry 6). -/
def State.writeCommit (s : State) (w : Wr) : State :=
  let s := s.regWrite 0x40038 w
  let s := if w.get .host R.CHART_COMMIT_REQ = 1 then s.requestCommit else s
  if w.get .host R.CHART_COMMIT_WITHDRAW = 1 then s.withdrawCommit else s

/-- A write of CHART_VARIANT: REQ with the index the write leaves, then WITHDRAW. -/
def State.writeVariant (s : State) (w : Wr) : State :=
  let s := s.regWrite 0x40040 w
  let s := if w.get .host R.CHART_VARIANT_REQ = 1 then s.requestVariant else s
  if w.get .host R.CHART_VARIANT_WITHDRAW = 1 then s.withdrawVariant else s

/-- Old-epoch streams still open while a re-sharding commit is pending (R82). -/
def State.drainList (s : State) : List Nat := if s.reshards && !s.chart.commits.isEmpty then s.openHost else []

/-- A chart commit that is due installs: after the audit and the agreement rounds of the bind-off it targets (R54, R79), or in IDLE and
HOLD once drained. -/
def State.installDue (s : State) : State :=
  let due := fun (c : PendCommit) => (s.step.decideDue && !s.step.auditDue && s.roundsDone && c.target == some s.step.lastStep)
    || (s.stopped && c.target.isNone && s.openHost.isEmpty)
  if s.chart.commits.any due then (s.takeCommit due).applyCommit else s

/-! ## Commands -/

/-- CHART_LOAD (R72): a write of CHART_LOAD_CTRL with LOAD. -/
def execChartLoad (m : Master) (v : BitVec 64) (s : State) : Res :=
  .next (if s.reach m then s.writeLoadCtrl (Wr.full m ((v &&& ~~~(6 : BitVec 64)) ||| 1).toNat) else s)

/-- Whether the read of a chart image waits for Bus Master Enable (R380). -/
def State.fetchHeld (s : State) : Bool :=
  s.host.heldOut.any (fun (p : Nat × Sent) => match p.2 with | .busRead c _ _ _ => c == 16384 | _ => false)

/-- CHART_FETCH_DONE (R71, R72): the image is in the staging area. -/
def execChartFetchDone (image : List Byte) (s : State) : Res :=
  .next (if s.rf R.CHART_LOAD_STATUS_STATE ≠ 1 ∨ s.fetchHeld then s
    else
      let b := sliceB image 0 s.chart.loadBytes
      let sp := s.stageSpace
      let s := { s with chart := { s.chart with image := b } }
      (s.writeMem sp.1 (clean (b.take sp.2))).set R.CHART_LOAD_STATUS_STATE 2)

/-- CHART_DISCARD (R73). -/
def execChartDiscard (m : Master) (v : BitVec 64) (s : State) : Res :=
  .next (if s.reach m then s.writeLoadCtrl (Wr.full m ((v &&& ~~~(5 : BitVec 64)) ||| 2).toNat) else s)

/-- CHART_UNINSTALL (R73). -/
def execChartUninstall (m : Master) (v : BitVec 64) (s : State) : Res :=
  .next (if s.reach m then s.writeLoadCtrl (Wr.full m ((v &&& ~~~(3 : BitVec 64)) ||| 4).toNat) else s)

/-- CHART_COMMIT_REQUEST (R74). -/
def execChartCommitRequest (m : Master) (v : BitVec 64) (s : State) : Res :=
  .next (if s.reach m then s.writeCommit (Wr.full m ((v &&& ~~~(2 : BitVec 64)) ||| 1).toNat) else s)

/-- CHART_COMMIT_WITHDRAW (R76). -/
def execChartCommitWithdraw (m : Master) (v : BitVec 64) (s : State) : Res :=
  .next (if s.reach m then s.writeCommit (Wr.full m ((v &&& ~~~(1 : BitVec 64)) ||| 2).toNat) else s)

/-- VARIANT_COMMIT_REQUEST (R74). -/
def execVariantCommitRequest (m : Master) (v : BitVec 64) (s : State) : Res :=
  .next (if s.reach m then s.writeVariant (Wr.full m ((v &&& ~~~(2 : BitVec 64)) ||| 1).toNat) else s)

/-- VARIANT_COMMIT_WITHDRAW (R76). -/
def execVariantCommitWithdraw (m : Master) (v : BitVec 64) (s : State) : Res :=
  .next (if s.reach m then s.writeVariant (Wr.full m ((v &&& ~~~(1 : BitVec 64)) ||| 2).toNat) else s)

end Sys2Proof.Machine
end

