-- ==== Sys2Proof/Machine/Sync.lean ====
section
/-! DEFINITION. Machine/Sync.lean: agreeing on the time, launching and cancelling, clock failure and holdover, idle counters
(R384 to R393, R403 to R412). -/

namespace Sys2Proof.Machine

/-! CLOCK and STATE codes of SYNC_STATUS (R412). -/
def ckREFCLK : Nat := 0
def ckFREE : Nat := 1
def ckDISCIPLINED : Nat := 2
def ckLOCKED : Nat := 3
def syFREE_RUNNING : Nat := 0
def syRELEASED : Nat := 1
def syALIGNED : Nat := 2
def sySINGLE : Nat := 3

/-- A SYNC or clock event: its SYNC_ERR bit, the count, the last status and the log (R387, R405). -/
def State.syncEvent (s : State) (bit : Fld) (st : Nat) : State :=
  (((s.set bit 1).bump R.SYNC_ERR_COUNT).set R.SYNC_ERR_LAST_STATUS st).logEv st 0x78 0 bit.lo 0

/-- A SYNC request refused: LAST_STATUS and the log. -/
def State.syncRefuse (s : State) (off : Nat) : State := (s.set R.SYNC_ERR_LAST_STATUS stBAD_ARG).refuse off stBAD_ARG

/-- Clean ticks of REFCLK_AON since its last event (R410). -/
def State.cleanTicks (s : State) : Int := s.row - s.sync.goodSince

/-- SYNC_CONFIG (R386, R279, R389): accepted in IDLE with no chart and with its fields in range; the coherence mode and SINGLE follow DEVICES. -/
def State.writeSyncConfig (s : State) (w : Wr) : State :=
  let t := s.regWrite 0x780000 w
  if !mayWrite w.m .host then t
  else if s.phase ≠ phIDLE ∨ s.rf R.CHART_ACTIVE_VALID = 1 ∨ t.devices = 0 ∨ 64 < t.devices
      ∨ t.devices ≤ t.rf R.SYNC_CONFIG_MEMBER ∨ t.rf R.SYNC_CONFIG_LAT = 0 ∨ t.rf R.SYNC_CONFIG_FLAG_RTT = 0 then
    s.syncRefuse 0x780000
  else
    let page := if 8 < t.devices then 1 else 0
    let t := t.set R.TIER_STATUS_MODE page
    let t := if page = 1 then t else t.forEach (upTo 3968) (fun t i => t.set (R.TIER_BIAS_BIAS i) 0)
    let t := t.set R.HQ_LINK_HDM_DB (1 - page)
    if t.devices = 1 then (t.set R.SYNC_STATUS_STATE sySINGLE).set R.SYNC_STATUS_EMITTING 0
    else if t.rf R.SYNC_STATUS_STATE = sySINGLE then t.set R.SYNC_STATUS_STATE syFREE_RUNNING
    else t

/-- LEADER takes effect (R391): a member that ceases to lead stops driving. -/
def State.applyLeader (s : State) : State :=
  match s.sync.leaderNew with
  | none => s
  | some b =>
    let s := ({ s with sync := { s.sync with leaderNew := none } }).set R.SYNC_CTRL_LEADER_PENDING 0
    let s := s.set R.SYNC_CTRL_LEADER (if b then 1 else 0)
    if b then s else s.set R.SYNC_STATUS_EMITTING 0

/-- A write of LEADER (R391): at once in IDLE or HOLD, at the next bind-off in any other phase. -/
def State.writeLeader (s : State) (b : Bool) : State :=
  if (s.rf R.SYNC_CTRL_LEADER = 1) = b then
    ({ s with sync := { s.sync with leaderNew := none } }).set R.SYNC_CTRL_LEADER_PENDING 0
  else
    let s := ({ s with sync := { s.sync with leaderNew := some b } }).set R.SYNC_CTRL_LEADER_PENDING 1
    if s.stopped then s.applyLeader else s

/-- ARM (R388): in IDLE or HOLD, where no launch is pending. -/
def State.armSync (s : State) : State :=
  if s.stopped then s.set R.SYNC_STATUS_RELEASE_ARMED 1 else s.syncRefuse 0x780008

/-- SEND_RELEASE (R388): only on an armed leader. -/
def State.driveRelease (s : State) : State :=
  if s.rf R.SYNC_CTRL_LEADER = 1 ∧ s.rf R.SYNC_STATUS_RELEASE_ARMED = 1 then s.emit .syncRelease else s.syncRefuse 0x780008

/-- CANCEL (R393): while ARMED and before the launch count. -/
def State.cancelWrite (s : State) : State :=
  if s.phase = phARMED ∧ s.row < s.rf R.SYNC_LAUNCH_COUNT then (s.cancelLaunch).set R.SYNC_STATUS_LAUNCH_STATUS stOK
  else s.set R.SYNC_STATUS_LAUNCH_STATUS stBAD_ARG

/-- SYNC_CTRL (R388, R391, R393): the bits of one write act in the order LEADER, ARM, SEND_RELEASE, CANCEL (log entry 6). -/
def State.writeSyncCtrl (s : State) (w : Wr) : State :=
  let old := s.rf R.SYNC_CTRL_LEADER
  let t := (s.regWrite 0x780008 w).set R.SYNC_CTRL_LEADER old
  let t := if w.hits .host R.SYNC_CTRL_LEADER then t.writeLeader (w.get .host R.SYNC_CTRL_LEADER == 1) else t
  let t := if w.get .host R.SYNC_CTRL_ARM = 1 then t.armSync else t
  let t := if w.get .host R.SYNC_CTRL_SEND_RELEASE = 1 then t.driveRelease else t
  if w.get .host R.SYNC_CTRL_CANCEL = 1 then t.cancelWrite else t

/-- SYNC_LOAD and SYNC_BARRIER: refused while ARMED (R412). -/
def State.writeSyncPlain (s : State) (off : Nat) (w : Wr) : State :=
  if mayWrite w.m .host ∧ s.phase = phARMED then s.syncRefuse off else s.regWrite off w

/-- The launch conditions of R392, R449 and R462 for a count. -/
def State.launchOk (s : State) (count : Nat) : Bool :=
  s.rf R.CHART_ACTIVE_VALID == 1 && s.chart.active.isSome
    && !s.chart.commits.any (·.held)
    && s.stopped && s.rf R.SYNC_STATUS_RELEASE_ARMED == 0
    && decide (s.row + 100000 ≤ count)
    && (s.devices == 1 || (s.rf R.SYNC_STATUS_STATE == syALIGNED &&
        (s.rf R.SYNC_STATUS_CLOCK == ckREFCLK || s.rf R.SYNC_STATUS_CLOCK == ckLOCKED)))
    && (s.devices == 1 || s.barrierPageOk)
    && s.rf R.PWR_AVS_MET == 1 && s.rf R.PWR_THERM_HOT == 0 && s.rf R.PWR_THERM_EMERG == 0

/-- SYNC_LAUNCH (R392): an accepted count puts the device in ARMED and RUN and clears the barrier table. -/
def State.writeLaunch (s : State) (w : Wr) : State :=
  let t := s.regWrite 0x780018 w
  if !mayWrite w.m .host then t
  else if s.launchOk (t.rf R.SYNC_LAUNCH_COUNT) then
    let t := t.set R.SYNC_STATUS_LAUNCH_STATUS stOK
    let t := { t with step := { t.step with prevPhase := s.phase } }
    let t := (t.set R.STEP_STATUS_PHASE phARMED).setPower 3 3
    let t := (t.clearBarrierTable).planSwitch (t.rf R.SYNC_LAUNCH_COUNT)
    t.showAhead
  else (s.set R.SYNC_STATUS_LAUNCH_STATUS stBAD_ARG).syncRefuse 0x780018

/-- IDLE_CTRL.CLEAR (R404, as R254): pending to the bind-off in a step, at once in IDLE or HOLD, otherwise not before the last bind-off's figures are added. -/
def State.writeIdleCtrl (s : State) (w : Wr) : State :=
  let t := s.regWrite 0x700000 w
  if w.get .host R.IDLE_CTRL_CLEAR = 1 then
    if t.inStep || t.step.figDue then
      ({ t with step := { t.step with clearIdle := true } }).set R.IDLE_CTRL_CLEAR_PENDING 1
    else t.forEach (upTo 8) (fun t c => t.set (R.IDLE_CUM_TICKS c) 0)
  else t

/-! ## Commands -/

/-- SYNC_CONFIG_WRITE (R386). -/
def execSyncConfigWrite (m : Master) (v : BitVec 64) (s : State) : Res :=
  .next (if s.reach m then s.writeSyncConfig (Wr.full m v.toNat) else s)

/-- SYNC_ARM (R388): a write of SYNC_CTRL with ARM set. -/
def execSyncArm (m : Master) (v : BitVec 64) (s : State) : Res :=
  .next (if s.reach m then s.writeSyncCtrl (Wr.full m (v ||| 1).toNat) else s)

/-- SEND_RELEASE (R388): a write of SYNC_CTRL with SEND_RELEASE set. -/
def execSendRelease (m : Master) (v : BitVec 64) (s : State) : Res :=
  .next (if s.reach m then s.writeSyncCtrl (Wr.full m (v ||| 2).toNat) else s)

/-- LEADER_WRITE (R391): a write of SYNC_CTRL. -/
def execLeaderWrite (m : Master) (v : BitVec 64) (s : State) : Res :=
  .next (if s.reach m then s.writeSyncCtrl (Wr.full m v.toNat) else s)

/-- LAUNCH_CANCEL (R393): a write of SYNC_CTRL with CANCEL set. -/
def execLaunchCancel (m : Master) (v : BitVec 64) (s : State) : Res :=
  .next (if s.reach m then s.writeSyncCtrl (Wr.full m (v ||| 4).toNat) else s)

/-- LAUNCH_WRITE (R392). -/
def execLaunchWrite (m : Master) (v : BitVec 64) (s : State) : Res :=
  .next (if s.reach m then s.writeLaunch (Wr.full m v.toNat) else s)

/-- IDLE_CLEAR (R404): a write of IDLE_CTRL with CLEAR set. -/
def execIdleClear (m : Master) (v : BitVec 64) (s : State) : Res :=
  .next (if s.reach m then s.writeIdleCtrl (Wr.full m (v ||| 1).toNat) else s)

/-- RELEASE_SAMPLED (R388): the first low sample that ends a RELEASE. An armed device loads 64 cycles later; an unarmed one records UNEXPECTED. -/
def execReleaseSampled (s : State) : Res :=
  .next (if s.pwr.off then s
    else if s.rf R.SYNC_STATUS_RELEASE_ARMED = 1 then { s with sync := { s.sync with loadAt := some (s.row + 64) } }
    else s.syncEvent R.SYNC_ERR_UNEXPECTED stBAD_ARG)

/-- The state after the load edge of a RELEASE (R388, R411). -/
def State.loadRelease (s : State) : State :=
  let elapsed := s.cleanTicks
  let v := s.rf R.SYNC_LOAD_VALUE
  let s := { s with row := v
                    sync := { s.sync with loadAt := none, releasedAt := v, lastEmit := none, goodSince := (v : Int) - elapsed
                                          lastEpoch := s.sync.lastEpoch.map (fun e => (v : Int) - ((s.row : Int) - e)) } }
  let s := (s.set R.SYNC_STATUS_RELEASE_ARMED 0).set R.SYNC_STATUS_EMITTING 0
  let s := if s.rf R.SYNC_STATUS_STATE = sySINGLE then s else s.set R.SYNC_STATUS_STATE syRELEASED
  if s.rf R.SYNC_STATUS_CLOCK = ckREFCLK then s.set R.SYNC_STATUS_TAINTED 0
  else (s.set R.SYNC_STATUS_CLOCK ckLOCKED).set R.SYNC_STATUS_TAINTED 0

/-- RELEASE_LOAD (R388): 64 cycles after the RELEASE the armed device sets its row counter to SYNC_LOAD. -/
def execReleaseLoad (s : State) : Res :=
  .next (match s.sync.loadAt with
    | none => s
    | some t => (s.advance t).loadRelease)

/-- SYNC_RUN_MALFORMED (R387): a run of neither 1 nor 8 samples is ignored, recorded and logged. -/
def execSyncRunMalformed (len : Nat) (s : State) : Res :=
  .next (if s.pwr.off ∨ len = 0 ∨ len = 1 ∨ len = 8 then s else s.syncEvent R.SYNC_ERR_MALFORMED stBAD_ARG)

/-- The next count at which the leader drives an EPOCH (R389). -/
def State.nextEmit (s : State) : Nat :=
  let base := max s.row (s.sync.releasedAt + 4096)
  let base := match s.sync.lastEmit with | some e => max base (e + 1) | none => base
  ceilDiv base 4096 * 4096

/-- EPOCH_EMIT (R389): the leader, on REFCLK and RELEASED or ALIGNED, drives an EPOCH at a multiple of 4,096. -/
def execEpochEmit (s : State) : Res :=
  .next (if s.pwr.off ∨ s.rf R.SYNC_CTRL_LEADER = 0 ∨ s.devices = 1 ∨ s.rf R.SYNC_STATUS_CLOCK ≠ ckREFCLK
      ∨ (s.rf R.SYNC_STATUS_STATE ≠ syRELEASED ∧ s.rf R.SYNC_STATUS_STATE ≠ syALIGNED) then s
    else
      let t := s.nextEmit
      let s := s.advance t
      ({ s with sync := { s.sync with lastEmit := some t } }).set R.SYNC_STATUS_EMITTING 1 |>.emit .syncEpoch)

/-- FLAG_OUT for untrusted time in a configuration of more than one device, before the verdict count (R408). -/
def State.raiseTaint (s : State) : State := if 1 < s.devices ∧ s.training = true then s.raiseFlag 0x0B else s

/-- Holdover entered (R406 to R408): a leader stops driving; DISCIPLINED while SYNC is present, else FREE. -/
def State.enterHoldover (s : State) : State :=
  let s := (s.set R.SYNC_STATUS_TAINTED 1).set R.SYNC_CLOCK_HOLDOVER_AT s.row
  let s := ({ s with sync := { s.sync with cleanBound := false } }).set R.SYNC_STATUS_EMITTING 0
  if s.rf R.SYNC_STATUS_SYNC_PRESENT = 1 then s.set R.SYNC_STATUS_CLOCK ckDISCIPLINED
  else (s.set R.SYNC_STATUS_CLOCK ckFREE).raiseTaint

/-- A clock event (R405, R406): recorded and logged as TAINTED_TIME; on REFCLK the device enters holdover. -/
def State.clockEvent (s : State) (bit : Fld) : State :=
  let s := s.syncEvent bit stTAINTED_TIME
  let s := { s with sync := { s.sync with goodSince := max (s.row : Int) s.sync.goodSince, cleanBound := false } }
  if s.rf R.SYNC_STATUS_CLOCK = ckREFCLK then s.enterHoldover else s

/-- REFCLK_AON comes back some ticks after its loss, how many is outside the device and a free value; its clean run begins then (R405, R410,
R412; log entry 245). -/
def State.refclkOut (s : State) : State :=
  let v := s.fresh
  { v.2 with sync := { s.sync with goodSince := s.row + v.1 } }

/-- CLOCK_LOSS (R405). -/
def execClockLoss (s : State) : Res := .next (if s.pwr.off then s else (s.clockEvent R.SYNC_ERR_LOSS).refclkOut)

/-- CLOCK_GLITCH (R405). -/
def execClockGlitch (s : State) : Res := .next (if s.pwr.off then s else s.clockEvent R.SYNC_ERR_GLITCH)

/-- CLOCK_RATE (R405). -/
def execClockRate (s : State) : Res := .next (if s.pwr.off then s else s.clockEvent R.SYNC_ERR_RATE)

/-- An EPOCH event (R405): as a clock event, but the reference itself showed none, so its clean run goes on (R410). -/
def State.epochEvent (s : State) : State :=
  (s.syncEvent R.SYNC_ERR_EPOCH stTAINTED_TIME).enterHoldover

/-- The offset closed: ahead, increments are withheld; behind, the count moves on (R409). -/
def State.closeOffset (s : State) (off16 : Int) : State :=
  { s with row := (s.row + (-(off16 / 16)).toNat) % 2 ^ 64 }

/-- Whether a member may return to REFCLK at this EPOCH: 2^20 clean ticks, and a bind-off since then unless in IDLE, ARMED or HOLD (R410). -/
def State.mayReturn (s : State) : Bool :=
  decide (2 ^ 20 ≤ s.cleanTicks) && (s.stopped || s.phase == phARMED || s.sync.cleanBound)

/-- Whether a member may realign at this EPOCH: any in IDLE, ARMED or HOLD, else the first after a bind-off, which found the member DISCIPLINED
already: a FREE one is DISCIPLINED only from this EPOCH on (R408, R409). -/
def State.mayRealign (s : State) : Bool :=
  s.stopped || s.phase == phARMED || (s.sync.boundSince && s.rf R.SYNC_STATUS_CLOCK != ckFREE)

/-- An EPOCH sampled by a member in holdover with its offset in 1/16 tick, which may realign it (R407, R409, R410). -/
def State.measureEpoch (s : State) (off16 : Int) (may : Bool) : State :=
  let s := s.set R.SYNC_STATUS_OFFSET (unsigned 16 off16)
  let s := if s.rf R.SYNC_STATUS_CLOCK = ckFREE then s.set R.SYNC_STATUS_CLOCK ckDISCIPLINED else s
  let far := decide (128 < off16.natAbs)
  let s := if far then s.raiseFlag 0x0B else s
  if s.mayReturn then
    ((s.closeOffset off16).set R.SYNC_STATUS_CLOCK ckREFCLK).set R.SYNC_STATUS_TAINTED 0
  else if s.rf R.SYNC_STATUS_CLOCK = ckLOCKED then
    (if far then (s.set R.SYNC_STATUS_CLOCK ckDISCIPLINED).set R.SYNC_STATUS_TAINTED 1 else s)
  else if may then
    ((s.closeOffset off16).set R.SYNC_STATUS_CLOCK ckLOCKED).set R.SYNC_STATUS_TAINTED 0
  else s

/-- The count at which an EPOCH of a given offset is sampled: the next count that differs from a multiple of 4,096 by LAT and the offset. -/
def State.epochAt (s : State) (off16 : Int) : Nat :=
  let want := unsigned 12 ((s.rf R.SYNC_CONFIG_LAT : Int) + off16 / 16)
  s.row + (want + 4096 - s.row % 4096) % 4096

/-- An EPOCH noted: SYNC is present, and a bind-off before it counts no longer (R390, R409). -/
def State.noteEpoch (s : State) : State :=
  ({ s with sync := { s.sync with lastEpoch := some s.row, boundSince := false } }).set R.SYNC_STATUS_SYNC_PRESENT 1

/-- A passing check: a RELEASED member is ALIGNED at its first, whatever its clock (R389, R411). -/
def State.passCheck (s : State) : State :=
  if s.rf R.SYNC_STATUS_STATE = syRELEASED then s.set R.SYNC_STATUS_STATE syALIGNED else s

/-- EPOCH_SAMPLED (R389, R390, R407 to R410): the check on REFCLK, the measurement in holdover. -/
def execEpochSampled (offset16 : Int) (s : State) : Res :=
  .next (if s.pwr.off ∨ s.devices = 1 then s
    else
      let s := s.advance (s.epochAt offset16)
      if s.rf R.SYNC_STATUS_CLOCK = ckREFCLK then
        if offset16 / 16 = 0 then s.noteEpoch.passCheck
        else if s.rf R.SYNC_STATUS_STATE = syALIGNED then s.epochEvent
        else s
      else
        let s := if offset16 / 16 = 0 then s.passCheck else s
        s.noteEpoch.measureEpoch offset16 s.mayRealign)

/-- FREE_RETURN (R410): a FREE member whose reference has been clean returns at bind-off + 2,048 ticks, or at once in IDLE, ARMED or HOLD. -/
def execFreeReturn (s : State) : Res :=
  .next (if s.pwr.off ∨ s.rf R.SYNC_STATUS_CLOCK ≠ ckFREE ∨ s.cleanTicks < 2 ^ 20 then s
    else if s.stopped ∨ s.phase = phARMED ∨ (s.sync.cleanBound ∧ s.phase = phBOUNDARY) then
      let s := if s.phase = phBOUNDARY then s.advance (s.rf R.STEP_BINDOFF_VALUE + 2048) else s
      let s := s.set R.SYNC_STATUS_CLOCK ckREFCLK
      if s.devices = 1 then s.set R.SYNC_STATUS_TAINTED 0 else s
    else s)

/-- SYNC_LOST (R390, R408, R409): 8,192 ticks without an EPOCH; a DISCIPLINED or LOCKED member becomes FREE. -/
def execSyncLost (s : State) : Res :=
  .next (match s.sync.lastEpoch with
    | none => s
    | some e =>
      if s.pwr.off ∨ s.rf R.SYNC_STATUS_SYNC_PRESENT = 0 then s
      else
        let s := s.advance (e + 8192).toNat
        let s := (s.set R.SYNC_STATUS_SYNC_PRESENT 0).syncEvent R.SYNC_ERR_SYNC_LOST stBAD_ARG
        if s.rf R.SYNC_STATUS_CLOCK = ckREFCLK ∨ s.rf R.SYNC_STATUS_CLOCK = ckFREE then s
        else ((s.set R.SYNC_STATUS_CLOCK ckFREE).set R.SYNC_STATUS_TAINTED 1).raiseTaint)

/-- OSCILLATOR_CALIBRATION (R405, R412): at the end of a window of 2^24 ticks in which REFCLK_AON was good, the error against it in 1/16 ppm. -/
def execOscillatorCalibration (err : Int) (s : State) : Res :=
  .next (if s.pwr.off then s
    else
      let s := s.advance ((s.row / 2 ^ 24 + 1) * 2 ^ 24)
      if s.cleanTicks < 2 ^ 24 then s else s.set R.SYNC_CLOCK_CAL (unsigned 16 err))

end Sys2Proof.Machine
end

