-- ==== Sys2Proof/Machine/Lifecycle.lean ====
section
/-! DEFINITION. Machine/Lifecycle.lean: launch count, cast-on, the ends of the windows, end of reserve, verdict, and swatches
(R16 to R26, R30 to R36, R203, R247, R326, R333, R334, R392, R431). -/

namespace Sys2Proof.Machine

/-! ## What a launch takes (R34, R84, R108, R194, R333, R334, R392) -/

/-- Requests aimed at the first step of a launch take its number: of each kind the last one made stands. -/
def aimAt (n : Nat) (l : List PendCommit) : List PendCommit :=
  l.filter (fun c => c.target.isNone) ++ ((l.filter (fun c => c.target.isSome)).getLast?.map (fun c => { c with target := some n })).toList

/-- Swatch requests aimed at the first step of a launch. -/
def aimSwatches (n : Nat) (l : List SwatchReq) : List SwatchReq :=
  l.filter (fun c => c.target.isNone) ++ ((l.filter (fun c => c.target.isSome)).getLast?.map (fun c => { c with target := some n })).toList

/-- Every pending request that names a bind-off names that of the first step, and its register shows it. -/
def State.aimRequests (s : State) (n : Nat) : State :=
  let s := { s with
    chart := { s.chart with commits := aimAt n s.chart.commits, variants := aimAt n s.chart.variants }
    step := { s.step with swatches := aimSwatches n s.step.swatches, stopAt := s.step.stopAt.map (fun _ => n) }
    fault := { s.fault with mends := s.fault.mends.map (fun (m : Mend) => { m with target := m.target.map (fun _ => n) }) } }
  let s := if s.chart.commits.any (fun c => c.target.isSome) then s.set R.CHART_COMMIT_APPLY_AT_STEP n else s
  let s := if s.chart.variants.any (fun c => c.target.isSome) then s.set R.CHART_VARIANT_APPLY_AT_STEP n else s
  let s := if s.step.swatches.any (fun c => c.target.isSome) then s.set R.STEP_SWATCH_AT_STEP n else s
  let s := if s.step.stopAt.isSome then s.set R.STEP_CTRL_STOP_AT_STEP n else s
  if s.fault.mends.any (fun m => m.target.isSome) then s.set R.FAULT_MEND_APPLY_AT_STEP n else s

/-- The values that R333 loads: loss scale and its history, optimizer step count. Only a SCALE_SET clamps the exponent here: where MIN or MAX
change alone, it stands as it is until the governor or a SCALE_SET next moves it (DESIGN CHOICE, log entry 238). -/
def State.loadScale (s : State) : State :=
  let s := if s.rf R.STEP_SCALE_SET_PENDING = 0 then s
    else
      let e := max (s.rf R.STEP_SCALE_CFG_MIN) (min (s.rf R.STEP_SCALE_SET_EXP) (s.rf R.STEP_SCALE_CFG_MAX))
      let since := s.rf R.STEP_SCALE_SET_SINCE
      let s := ((s.set R.STEP_SCALE_EXP e).set R.STEP_SKIP_LAST since).set R.STEP_SCALE_LAST_GROWTH since
      { s.set R.STEP_SCALE_SET_PENDING 0 with step := { s.step with lastSkip := since, lastGrowth := since } }
  if s.step.setOpt then
    { s.set R.STEP_OPT_COUNT_COUNT (s.rf R.STEP_OPT_SET_VALUE) with step := { s.step with setOpt := false } }
  else s

/-- Learning-rate writes that wait for a launch named by its first step (R334). -/
def State.loadLrs (s : State) (n : Nat) : State :=
  let s := match s.step.lrs.getLast? with
    | some l => if l.relative then s.set R.STEP_LR_NOW_APPLY_AT_STEP (n + l.step) else s
    | none => s
  { s with step := { s.step with
    lrs := s.step.lrs.map (fun l => if l.relative then { l with step := (n + l.step) % 2 ^ 64, relative := false } else l) } }

/-- The counts that their chapters clear at a launch (R108, R194, R361). -/
def State.clearLaunchCounts (s : State) : State :=
  let s := s.forEach (upTo 36) (fun s p => (s.set (R.CLU_BUSY_CYCLES p) 0).set (R.CLU_SEGMENTS_COUNT p) 0)
  let s := s.forEach (upTo 72) (fun s p =>
    ((s.set (R.SKEIN_ENC_BYTES p) 0).set (R.SKEIN_DEC_BYTES p) 0).set (R.SKEIN_ERR_CHECK_FAILS p) 0)
  let s := s.forEach (upTo 144) (fun s q => (s.set (R.EXP_STAT_CHUNKS q) 0).set (R.EXP_ERR_CHECK_FAILS q) 0)
  let s := (s.set R.SKEIN_WALK_PANELS 0).set R.SKEIN_WALK_PARTS_LOST 0
  s.forEach (upTo 4) (fun s p => (s.set (R.CDP_TRAFFIC_OUT_GRANULES p) 0).set (R.CDP_TRAFFIC_IN_GRANULES p) 0)

/-- STEP_SWATCH.PENDING while a swatch request waits to run. -/
def State.showPending (s : State) : State :=
  s.set R.STEP_SWATCH_PENDING (if s.step.swatches.isEmpty && s.step.swatchNext.isNone then 0 else 1)

/-- The swatch that waited for the launch is to run from it; a program of no length completes (R31, R34). -/
def State.takeHeldSwatch (s : State) (c : Chart) : State :=
  match s.heldSwatch with
  | none => s
  | some p =>
    ({ s with step := { s.step with swatches := s.step.swatches.filter (fun r => r.target.isSome)
                                    swatchNext := if c.swatchS p = 0 then none else some p } }).showPending

/-- The variant commit that waited for the launch leaves its slot (R52, R78). -/
def State.takeLaunchVariant (s : State) : State :=
  let s := s.set R.STEP_STATUS_NEXT_VARIANT s.launchVariant
  if s.chart.variants.any (fun v => v.target.isNone) then
    let s := { s with chart := { s.chart with variants := s.chart.variants.filter (fun v => v.target.isSome) } }
    if s.chart.variants.isEmpty then s.set R.CHART_VARIANT_OUTCOME 2 else s
  else s

/-- LAUNCH_COUNT (R34, R392): at the launch count of an armed device. -/
def execLaunchCount (s : State) : Res :=
  .next (match s.chart.active with
    | none => s
    | some c =>
      if s.phase ≠ phARMED ∨ s.step.launched then s
      else
        let s := s.advance (s.rf R.SYNC_LAUNCH_COUNT)
        let n := s.rf R.STEP_START_VALUE
        let s := s.set R.STEP_NUMBER_VALUE n
        let s := { s with step := { s.step with
          seed := s.rf R.CHART_SEED_SEED, slip := 0, launched := true, installed := false, emergency := false, thermalPend := false
          auditDue := false, decideDue := false, figDue := false, ledgerBad := false, agreement := none }
                          idleStep := [], idleFig := [] }
        let s := ((s.loadScale.loadLrs n).clearLaunchCounts.aimRequests n).set R.STEP_STATUS_HOLD_CAUSE 0
        let i := c.vI s.launchVariant
        let s := s.set R.STEP_NEXT_CASTON_VALUE (s.rf R.SYNC_LAUNCH_COUNT + s.swatchTicks s.heldSwatch i)
        let s := (s.takeHeldSwatch c).takeLaunchVariant
        if s.upd.fresh then s.fixRebase (s.progOfVariant (s.rf R.STEP_STATUS_NEXT_VARIANT)) else s)

/-! ## Restoring a stream set and opening the ledgers (R203, R247, R395, R431) -/

/-- The contexts of a set restored to their images in ARMED; the chart's other contexts held at IDLE; contexts of HOST untouched. -/
def State.restoreSet (s : State) (c : Chart) (set_ : List Nat) : State :=
  let mine := (upTo (c.cnt 3)).filter (fun n => s.ctxOwner n != 1 && !s.hostOpen n)
  s.forEach mine (fun s n =>
    if set_.contains n then
      (((s.dropSk n (s.str n).sk none).loadImage n ((c.ctxImage n).getD [])).setStr n StreamX.fresh).setSst n ssARMED wtSTART
    else
      let s := s.dropSk n (s.str n).sk none
      (s.setStr n { s.str n with blocks := [], sk := none }).setSst n ssIDLE wtNONE)

/-- Blocks and skein contexts that streams hold now. -/
def State.blocksHeld (s : State) : Nat := s.strs.foldl (fun a (x : Nat × StreamX) => a + x.2.blocks.length) 0
def State.skeinsHeld (s : State) : Nat := s.strs.foldl (fun a (x : Nat × StreamX) => a + (if x.2.sk.isSome then 1 else 0)) 0

/-- Completion space on the host link that streams hold now; messages and FACKs in a port's ingress buffer. -/
def State.readsHeld (s : State) : Nat := s.strs.foldl (fun a (x : Nat × StreamX) => a + x.2.reads) 0
def PortSt.buffered (x : PortSt) : Nat := x.queue.length + x.facks.length

/-- Credits of a class that KN40 has granted a die and that messages of it hold: those in the buffer or held back, those due to it, those that
protocol errors took (R350, R351). -/
def State.inUse (s : State) (p c : Nat) : Nat :=
  let x := s.port p
  let q := x.queue.filter (fun r => !r.stale)
  if c = 0 then x.lostHdr + x.retHdr + q.length
  else if c = 1 then x.lostData + x.retData + (q.filter (fun r => r.kind == 1)).foldl (fun a r => a + granuleCount r.oa r.data.length) 0
  else x.lostAddw + x.retAddw + (q.filter (fun r => r.kind == 2)).foldl (fun a r => a + ceilDiv r.data.length 64) 0
    + (s.upd.heldAdds.filter (fun h => h.port == p && !h.stale)).foldl (fun a h => a + ceilDiv h.bytes 64) 0

/-- What the numbered pools hold now (R431): credits spent at a port, ingress buffers, pace credits spent by line, read space, ring slots. -/
def State.poolsHeld (s : State) : List (Nat × Nat) :=
  let ports := (upTo 4).map (fun p =>
    let x := s.port p
    [(poolHdr p, s.rf (R.CDP_CREDIT_PEER_HDR p) - x.hdr), (poolData p, s.rf (R.CDP_CREDIT_PEER_DATA p) - x.data), (poolBuf p, x.buffered)]
      ++ [0, 1, 2].map (fun c => (poolIn p c, s.inUse p c))
      ++ x.pace.map (fun e => (poolPace p e.1, e.2)))
  (ports.flatten ++ [(poolRead, s.readsHeld), (poolRing, s.clu.rings.length)]).foldl (fun m e => SMap.put (fun _ => 0) m e.1 e.2) []

/-- Every ledger opened (R431): what is held now is what has been taken up. -/
def State.openLedgers (s : State) (streams : Nat) : State :=
  { s with led := {
      took := s.poolsHeld, gave := []
      blkIn := s.blocksHeld, blkOut := 0, skIn := s.skeinsHeld, skOut := 0, addIn := s.upd.heldAdds.length, addOut := 0
      strmIn := streams, strmOut := 0, barIn := 0, barOut := 0
      spill := s.stash.insts.foldl (fun a (i : StashInst) => a + i.spill) 0, snap := [] } }

/-- Pace requests held for the set reach the contexts that bind their lines, and their credits return (R247, R346). -/
def State.giveHeldPace (s : State) (set_ : List Nat) : State :=
  s.forEach (upTo 4) (fun s p =>
    let held := (s.port p).held
    let s := s.setPort p { s.port p with held := [] }
    held.foldl (fun (s : State) (e : Nat × Nat) =>
      match s.boundIn set_ (p * 16384 + e.1) with
      | some n => (s.gatherPace p e.1 e.2).addPace n e.2
      | none => s.dropPace p e.1 e.2) s |>.sendPcreds p)

/-- What a cast-on and a swatch start share: the set restored, ledgers and barriers opened, cluster work queued, no slot taken yet. -/
def State.startPlan (s : State) (c : Chart) (set_ : List Nat) : State :=
  let s := s.restoreSet c set_
  let s := { s with
    bar := ⟨[], [], [], [], []⟩, paceBad := [], tens := [], tensPeak := []
    step := { s.step with slip := 0, hostPer := schHost s.schedule }
    tier := { s.tier with used := [], peers := s.tier.peers.map (fun (r : PeerReq) => { r with due := none }) }
    host := { s.host with reqUsed := [], used := [], reqs := s.host.reqs.map (fun (r : PeerReq) => { r with due := none }) }
    fault := { s.fault with pauseWant := 0, pauseEnd := none, peerPause := false }
    clu := ⟨upTo (schNSEG s.schedule), [], [], [], [], []⟩ }
  let s := s.forEach (upTo 4) (fun s p => s.setPort p { s.port p with used := [] })
  let s := s.forEach (s.usedCtx.filter (fun n => (s.str n).host)) (fun s n =>
    s.setStr n { s.str n with blocks := (s.str n).blocks.map (fun b => { b with due := 0 }) })
  ((s.clearBarrierTable.openLedgers set_.length).giveHeldPace set_).unitsReady

/-! ## Cast-on (R16, R24, R28, R310, R334, R416) -/

/-- The learning rate in force at step n (R334). -/
def State.takeLr (s : State) (n : Nat) : State :=
  let now := s.step.lrs.filter (fun l => !l.relative && decide (l.step ≤ n))
  let s := now.foldl (fun (s : State) l => s.set R.STEP_LR_NOW_VALUE l.value) s
  { s with step := { s.step with lrs := s.step.lrs.filter (fun l => l.relative || decide (n < l.step)) } }

/-- Whether the device may cast on: at a launch or in a boundary interval whose decisions are final, with no swatch before it. -/
def State.castOnDue (s : State) : Bool :=
  s.rf R.PWR_STATE_STATE == 3 && s.step.swatchNext.isNone && !s.step.auditDue && !s.step.decideDue
    && ((s.phase == phARMED && s.step.launched) || s.phase == phBOUNDARY) && !s.step.emergency

/-- Figures that count one step begin afresh. -/
def State.clearStepFigures (s : State) (b : List Byte) : State :=
  let s := ((s.set R.STEP_FLAG_RAISE_AT 0).set R.STEP_FLAG_CAUSE 0).set R.STEP_UPDATE_CHUNKS 0
  let s := ((s.set R.STEP_HANDOFF_SEALED 0).set R.STEP_HANDOFF_EXPECTED (fieldLe b 7 1)).set R.FAULT_STATUS_STEP_FAILOVERS 0
  { s with
    gauge := []
    stash := ⟨[], [0, 0, 0, 0], [0, 0, 0, 0], [0, 0, 0, 0]⟩
    ftl := { s.ftl with retries := 0, uncorr := 0, shadowed := 0 }
    upd := { s.upd with cleared := [], overflow := [], lens := [] } }

/-- The step's counts fixed at its cast-on count (R16, R17). -/
def State.fixCounts (s : State) (c : Chart) (at_ v : Nat) : State :=
  let s := (s.set R.STEP_CASTON_VALUE at_).set R.STEP_VERDICT_AT_VALUE (at_ + c.verdictAt v)
  let s := (s.set R.STEP_BINDOFF_VALUE (at_ + c.length v)).set R.STEP_STATUS_VARIANT v
  (s.set R.STEP_STATUS_PHASE phFORWARD).set R.STEP_STATUS_HOLD_CAUSE 0

/-- CAST_ON (R16, R24). -/
def execCastOn (s : State) : Res :=
  .next (match s.chart.active with
    | none => s
    | some c =>
      if !s.castOnDue then s
      else
        let at_ := s.rf R.STEP_NEXT_CASTON_VALUE
        let s := s.advance at_
        let n := s.rf R.STEP_NUMBER_VALUE
        let s := s.fixCounts c at_ (s.rf R.STEP_STATUS_NEXT_VARIANT)
        let s := { s with step := { s.step with
          reserveOver := false, finite := true, launched := false, installed := false, swatchRun := none, ledgerBad := false } }
        let s := s.clearStepFigures s.updProg
        let s := (s.startPlan c (c.variantSet s.variant)).clearAccs
        let s := (s.takeLr n).reraiseUnserved
        let s := if s.rf R.SYNC_STATUS_CLOCK = ckFREE then s.raiseTaint else s
        s.showAhead)

/-! ## Ends of the windows (R20, R22, R37) -/

/-- FORWARD_END (R37). -/
def execForwardEnd (s : State) : Res :=
  .next (if s.phase ≠ phFORWARD ∨ s.step.reserveOver ∨ s.paused then s
    else (s.advance (s.rf R.STEP_CASTON_VALUE + s.layout Chart.vF + s.step.slip)).set R.STEP_STATUS_PHASE phBACKWARD)

/-- BACKWARD_END (R37); a step without a tail goes on to RESERVE. -/
def execBackwardEnd (s : State) : Res :=
  .next (if s.phase ≠ phBACKWARD ∨ s.step.reserveOver ∨ s.paused then s
    else
      let s := s.advance (s.rf R.STEP_CASTON_VALUE + s.layout Chart.vF + s.layout Chart.vW + s.step.slip)
      (s.set R.STEP_STATUS_PHASE phTAIL).enterReserve)

/-- COMMIT_DEADLINE (R28): from this count on requests target the following bind-off, by their row count (R33, R74). -/
def execCommitDeadline (s : State) : Res := .next (if s.inStep then s.advance s.deadline else s)

/-- The plan work that is left, logged (R20): streams one by one, then cluster entries, accumulators and the hand-off. -/
def State.logRemaining (s : State) : State :=
  let s := s.forEach (s.runSet.filter (fun n => s.strUnfinished n || s.rf (R.STREAM_RUN_STATUS n) == stORPHANED)) (fun s n => s.logEv stSTOPPED 0x10 n 0 0)
  let left := s.clu.left.length + s.clu.running.length
  let s := if left = 0 then s else s.logEv stSTOPPED 0x40 0 left 0
  let s := if s.accsDone then s else s.logEv stSTOPPED 0x08 0 1 0
  if s.handoffDone then s else s.logEv stSTOPPED 0x08 0 2 0

/-- END_OF_RESERVE (R20, R22, R236). PHASE shows RESERVE from here on even where the slip exceeds Q and the scheduled plan-end lies later
(log entry 172). -/
def execEndOfReserve (s : State) : Res :=
  .next (if !s.training || s.step.reserveOver then s
    else
      let s := s.advance s.reserveEndAt
      let s := if s.planDone then s else ((s.raiseFlag 6).logRemaining.stopPlan).endClusters
      let s := { s with step := { s.step with reserveOver := true } }
      (s.endPauses.set R.STEP_STATUS_PHASE phRESERVE).serveDies)

/-- VERDICT_SAMPLE (R26, R327): FLAG_IN as the board drives it at the verdict count. -/
def execVerdictSample (flagIn : Bool) (s : State) : Res :=
  .next (if s.phase ≠ phRESERVE ∨ s.step.reserveOver = false then s
    else
      let s := s.advance (s.rf R.STEP_VERDICT_AT_VALUE)
      let s := { s with flagIn := flagIn, step := { s.step with finite := !flagIn } }
      let s := (s.set R.STEP_FLAG_SAMPLED (if flagIn then 1 else 0)).set R.STEP_STATUS_PHASE phSETTLE
      if s.flagOut && !flagIn then (s.set R.STEP_FLAG_MISMATCH 1).logEv stOK 0x08 0 0x80100 0 else s)

/-! ## What ends a step or a swatch for the ledgers and the pace lines (R247, R431, R432) -/

/-- Requests that a set's streams never consumed leave with their credits. -/
def State.returnLeftPace (s : State) (set_ : List Nat) : State :=
  s.forEach set_ (fun s n =>
    let pace := s.rf (R.STREAM_TIME_PACE n)
    let p := pace / 16384
    let line := pace % 16384
    let spent := SMap.get (fun _ => 0) (s.port p).pace line
    if hasPace (s.progOf n) ((s.progOf n).length / 16 + 1) 0 then s.returnPace p line spent else s)

/-- A numbered pool against what it holds, and a die credit class: free + in use against what was granted, while the port is up (R431). -/
def State.heldPool (s : State) (ledger pool k held : Nat) : Pool :=
  ⟨ledger, pool, s.tookOf k + s.gaveOf k, (s.tookOf k : Int) - s.gaveOf k - held⟩
def State.creditPool (s : State) (p k free granted : Nat) : Pool :=
  ⟨0, k, s.tookOf k + s.gaveOf k, if s.portUp p then (free : Int) + (s.tookOf k - s.gaveOf k) - granted else 0⟩

/-- The lines that the ledgers have counted, as numbers of their pools. -/
def State.lines (s : State) : List Nat := (s.led.took.filter (fun e => decide (0x10000 ≤ e.1))).map (·.1)

/-- The pools of every ledger as they stand (R431; log entry 221). -/
def State.pools (s : State) : List Pool :=
  let cred := ((upTo 4).map (fun p =>
      [s.creditPool p (poolHdr p) (s.port p).hdr (s.rf (R.CDP_CREDIT_PEER_HDR p)),
       s.creditPool p (poolData p) (s.port p).data (s.rf (R.CDP_CREDIT_PEER_DATA p))])).flatten
    ++ ((upTo 4).map (fun p => [0, 1, 2].map (fun c => s.heldPool 0 (9 + 3 * p + c) (poolIn p c) (s.inUse p c)))).flatten
    ++ s.lines.map (fun k => s.heldPool 0 (k - 0x10000 + 32) k (SMap.get (fun _ => 0) (s.port ((k - 0x10000) / 16384)).pace ((k - 0x10000) % 16384)))
    ++ [s.heldPool 0 poolRead poolRead s.readsHeld]
  let buf := [Pool.mk 1 0 (s.led.blkIn + s.led.blkOut) ((s.led.blkIn : Int) - s.led.blkOut - s.blocksHeld),
    Pool.mk 1 1 (s.led.skIn + s.led.skOut) ((s.led.skIn : Int) - s.led.skOut - s.skeinsHeld),
    Pool.mk 1 2 (s.led.addIn + s.led.addOut) ((s.led.addIn : Int) - s.led.addOut - s.upd.heldAdds.length)]
    ++ (upTo 4).map (fun p => s.heldPool 1 (3 + p) (poolBuf p) (s.port p).buffered)
    ++ [s.heldPool 1 7 poolRing s.clu.rings.length]
  let spill := s.stash.insts.foldl (fun a (i : StashInst) => a + i.spill) 0
  let st := (upTo 4).map (fun t => Pool.mk 2 t (s.stash.written.getD t 0) ((s.stash.written.getD t 0 : Int) - s.stash.freed.getD t 0))
    ++ [Pool.mk 2 4 s.led.spill ((s.led.spill : Int) - spill)]
  let tok := [Pool.mk 3 0 (s.led.strmIn + s.led.strmOut) ((s.led.strmIn : Int) - s.led.strmOut),
    Pool.mk 3 1 (s.led.barIn + s.led.barOut) ((s.led.barIn : Int) - s.led.barOut)]
    ++ s.lines.map (fun k => s.heldPool 3 (k - 0x10000 + 16) k 0)
  cred ++ buf ++ st ++ tok

/-- The snapshot of every ledger (R432). -/
def State.snapshot (s : State) : State := { s with led := { s.led with snap := s.pools } }

/-! ## Swatches (R30 to R33, R36, R254) -/

/-- SWATCH_START (R31, R34). -/
def execSwatchStart (s : State) : Res :=
  .next (match s.chart.active, s.step.swatchNext with
    | some c, some p =>
      if s.rf R.PWR_STATE_STATE ≠ 3 ∨ s.step.auditDue ∨ s.step.decideDue ∨ s.step.emergency
          ∨ ¬((s.phase = phARMED ∧ s.step.launched) ∨ s.phase = phBOUNDARY) then s
      else
        let i := c.vI (if s.phase = phARMED then s.rf R.STEP_STATUS_NEXT_VARIANT else s.variant)
        let at_ := s.rf R.STEP_NEXT_CASTON_VALUE - (c.swatchS p + i)
        let s := (s.advance at_).set R.STEP_STATUS_PHASE phSWATCH
        let s := { s with step := { s.step with
          swatchRun := some p, swatchNext := none, swatchStart := at_, swatchEnd := at_ + c.swatchS p, launched := false } }
        ((s.showPending).startPlan c (c.swatchSet p)).showWakes
    | _, _ => s)

/-- The tension figures of a swatch added to TENSION_CUM (R254). -/
def State.swatchTension (s : State) : State :=
  { (s.forEach (upTo 10) (fun s k =>
      s.set (R.TENSION_CUM_COUNT k) (s.rf (R.TENSION_CUM_COUNT k) + SMap.get (fun _ => 0) s.tens k))) with tens := [], tensPeak := [] }

/-- SWATCH_END (R31, R32, R417): what has not ended is stopped, and the audit is due. -/
def execSwatchEnd (s : State) : Res :=
  .next (if s.phase ≠ phSWATCH ∨ s.paused then s
    else
      let s := (s.advance s.step.swatchEnd).stopPlan.endClusters
      let s := (s.returnLeftPace s.runSet).swatchTension.snapshot
      let s := s.set R.STEP_NEXT_CASTON_VALUE (s.rf R.STEP_NEXT_CASTON_VALUE + s.step.slip)
      let s := { s with
        step := { s.step with swatchRun := none, auditDue := true, slip := 0 }
        fault := { s.fault with standIns := [] } }
      (s.set R.STEP_STATUS_PHASE phBOUNDARY).serveDies.showWakes)

/-- A swatch request put in place of the one for the same bind-off (R33). -/
def State.putSwatch (s : State) (p : Nat) (t : Option Nat) (st : Nat) : State :=
  let s := { s with step := { s.step with swatches := s.step.swatches.filter (fun (r : SwatchReq) => r.target != t) ++ [SwatchReq.mk p t] } }
  let s := (s.set R.STEP_SWATCH_STATUS st).set R.STEP_SWATCH_AT_STEP (t.getD 0xFFFFFFFF)
  (s.set R.STEP_SWATCH_PENDING 1).showAhead

/-- A swatch requested (R30, R33, R36). -/
def State.requestSwatch (s : State) : State :=
  let p := s.rf R.STEP_SWATCH_PROGRAM
  match s.chart.active with
  | none => (s.set R.STEP_SWATCH_STATUS stBAD_ARG).refuse 0x80038 stBAD_ARG
  | some c =>
    if c.nswatch ≤ p then (s.set R.STEP_SWATCH_STATUS stBAD_ARG).refuse 0x80038 stBAD_ARG
    else if s.stopped then s.putSwatch p none stOK
    else if s.phase = phARMED then
      (if s.row + 2048 ≤ s.rf R.SYNC_LAUNCH_COUNT then s.putSwatch p none stOK
       else s.putSwatch p (some (s.rf R.STEP_START_VALUE)) stDEFERRED)
    else
      let (n, late) := s.targetStep
      s.putSwatch p (some n) (if late then stDEFERRED else stOK)

/-- A write of STEP_SWATCH: REQ with the program the write leaves. -/
def State.writeSwatch (s : State) (w : Wr) : State :=
  let s := s.regWrite 0x80038 w
  if w.get .host R.STEP_SWATCH_REQ = 1 then s.requestSwatch else s

/-- A stop requested (R35, R36): one already accepted stands. -/
def State.requestStop (s : State) : State :=
  if s.stopped then s.set R.STEP_CTRL_STOP_STATUS stOK
  else
    let (n, late) := s.targetStep
    let s := s.set R.STEP_CTRL_STOP_STATUS (if late then stDEFERRED else stOK)
    if s.step.stopAt.isSome then s
    else
      let s := { s with step := { s.step with stopAt := some n } }
      (s.set R.STEP_CTRL_STOP_AT_STEP n).set R.STEP_CTRL_STOP_PENDING 1

/-- A write of STEP_CTRL. -/
def State.writeStepCtrl (s : State) (w : Wr) : State :=
  let s := s.regWrite 0x80040 w
  if w.get .host R.STEP_CTRL_STOP = 1 then s.requestStop else s

/-! ## Verdict, scale and learning-rate registers (R326, R333 to R335) -/

/-- A write of STEP_FLAG: HOST_RAISE before the end of reserve of a step, else refused. -/
def State.writeStepFlag (s : State) (w : Wr) : State :=
  let s := s.regWrite 0x80100 w
  if w.get .host R.STEP_FLAG_HOST_RAISE = 1 then
    (if s.training && !s.step.reserveOver then s.raiseFlag 8 else s.badArg 0x80100)
  else s

/-- A write of STEP_SCALE_SET waits for the next launch. -/
def State.writeScaleSet (s : State) (w : Wr) : State :=
  let t := s.regWrite 0x80118 w
  if w.hits .host R.STEP_SCALE_SET_EXP || w.hits .host R.STEP_SCALE_SET_SINCE then t.set R.STEP_SCALE_SET_PENDING 1 else t

/-- A write of STEP_OPT_SET waits for the next launch. -/
def State.writeOptSet (s : State) (w : Wr) : State :=
  let t := s.regWrite 0x80130 w
  if w.hits .host R.STEP_OPT_SET_VALUE then { t with step := { t.step with setOpt := true } } else t

/-- A write of STEP_SCALE_CFG: in IDLE and HOLD, with MAX at most 0x3F and MIN at most MAX. -/
def State.writeScaleCfg (s : State) (w : Wr) : State :=
  let t := s.regWrite 0x80120 w
  if !mayWrite w.m .host then t
  else if !s.stopped || decide (0x3F < t.rf R.STEP_SCALE_CFG_MAX) || decide (t.rf R.STEP_SCALE_CFG_MAX < t.rf R.STEP_SCALE_CFG_MIN)
  then s.badArg 0x80120 else t

/-- The step a learning-rate write first applies to, counted from a launch when so marked, and whether it is deferred (R334). -/
def State.lrTarget (s : State) : Nat × Bool × Bool :=
  let n := s.rf R.STEP_NUMBER_VALUE
  if s.inStep then (if s.row < s.deadline then (n + 1, false, false) else (n + 2, false, true))
  else if s.phase = phARMED ∧ s.step.launched = false then
    (if s.row + 2048 ≤ s.rf R.SYNC_LAUNCH_COUNT then (0, true, false) else (1, true, true))
  else if s.stopped then (0, true, false)
  else (n, false, false)

/-- A write of STEP_LR_IN. -/
def State.writeLr (s : State) (w : Wr) : State :=
  let t := s.regWrite 0x80138 w
  if w.hits .host R.STEP_LR_IN_VALUE then
    let (k, rel, late) := t.lrTarget
    let t := { t with step := { t.step with lrs := t.step.lrs ++ [LrWrite.mk (t.rf R.STEP_LR_IN_VALUE) k rel] } }
    (t.set R.STEP_LR_IN_STATUS (if late then stDEFERRED else stOK)).set R.STEP_LR_NOW_APPLY_AT_STEP
      (if rel then t.rf R.STEP_START_VALUE + k else k)
  else t

/-! ## Commands that write -/

/-- SWATCH_REQUEST (R33): a write of STEP_SWATCH with REQ set. -/
def execSwatchRequest (m : Master) (v : BitVec 64) (s : State) : Res :=
  .next (if s.reach m then s.writeSwatch (Wr.full m (v ||| 1).toNat) else s)

/-- STOP_REQUEST (R35): a write of STEP_CTRL with STOP set. -/
def execStopRequest (m : Master) (v : BitVec 64) (s : State) : Res :=
  .next (if s.reach m then s.writeStepCtrl (Wr.full m (v ||| 1).toNat) else s)

/-- HOST_RAISE (R326): a write of STEP_FLAG with HOST_RAISE set. -/
def execHostRaise (m : Master) (v : BitVec 64) (s : State) : Res :=
  .next (if s.reach m then s.writeStepFlag (Wr.full m (v ||| 4).toNat) else s)

/-- LR_WRITE (R334). -/
def execLrWrite (m : Master) (v : BitVec 64) (s : State) : Res :=
  .next (if s.reach m then s.writeLr (Wr.full m v.toNat) else s)

/-- SCALE_SET_WRITE (R333). -/
def execScaleSetWrite (m : Master) (v : BitVec 64) (s : State) : Res :=
  .next (if s.reach m then s.writeScaleSet (Wr.full m v.toNat) else s)

end Sys2Proof.Machine
end

