-- ==== Sys2Proof/Machine/Boundary.lean ====
section
/-! DEFINITION. Machine/Boundary.lean: the bind-off and the boundary work after it (R24 to R29, R50 to R54, R77, R82, R131, R254,
R321, R327 to R332, R404, R432). -/

namespace Sys2Proof.Machine

/-! ## Measured sizes and the wish (R50, R51) -/

/-- The measured sizes of an entry's instances by micro-batch: the whole encoded length, or the bound where an instance was not encoded. -/
def State.instSizes (s : State) (e : StashEnt) : List Nat :=
  (upTo (s.layout Chart.vM)).map (fun m => match s.instOf e.tid m with
    | some i => if i.whole then i.enc else worst e.raw
    | none => worst e.raw)

/-- The measured size of each identity that the table of the step's variant measures: identity, size, lowest micro-batch that reached it. -/
def State.sizes (s : State) : List (Nat × Nat × Nat) :=
  let tab := match s.chart.active with | some c => c.stash s.variant | none => []
  (tab.filter StashEnt.measured).map (fun e =>
    let l := s.instSizes e
    let m := l.foldl max 0
    (e.tid, m, l.idxOf m))

/-- Whether an entry's home budget covers its measured size with the margin; an identity that the step measured in no instance counts as
the bound of the entry tested (R50). -/
def budgetCovers (sizes : List (Nat × Nat × Nat)) (margin : Nat) (e : StashEnt) : Bool :=
  let sz := match sizes.find? (fun x => x.1 == e.tid) with | some x => x.2.1 | none => worst e.raw
  decide ((sz * (256 + margin) + 255) / 256 ≤ e.budget)

/-- The measured sizes that the wish uses: of the identities that the step measured in some instance (R50). -/
def State.wishSizes (s : State) : List (Nat × Nat × Nat) :=
  s.sizes.filter (fun x => s.stash.insts.any (fun i => i.tid == x.1 && i.whole))

/-- The wish (R51): the first variant whose packed entries are all covered, else the last. -/
def State.wish (s : State) (c : Chart) : Nat :=
  ((upTo c.nvar).find? (fun v => ((c.stash v).filter StashEnt.packed).all (budgetCovers s.wishSizes c.margin))).getD (c.nvar - 1)

/-! ## The bind-off itself (R24, R26, R27, R329 to R331) -/

/-- The governor at the bind-off of step n (R331). -/
def State.govern (s : State) (n : Nat) : State :=
  let e := s.rf R.STEP_SCALE_EXP
  if s.step.finite then
    let k := s.rf R.STEP_OPT_COUNT_COUNT % 64
    let s := (s.set (R.STEP_HISTORY_STEP k) n).set (R.STEP_HISTORY_EXP k) e
    let g := s.rf R.STEP_SCALE_CFG_GROWTH
    if g ≠ 0 ∧ e < s.rf R.STEP_SCALE_CFG_MAX ∧ g ≤ (n + 2 ^ 64 - max s.step.lastSkip s.step.lastGrowth) % 2 ^ 64 then
      { (s.set R.STEP_SCALE_EXP (e + 1)).set R.STEP_SCALE_LAST_GROWTH n with step := { s.step with lastGrowth := n } }
    else s
  else
    let s := (s.set R.STEP_SCALE_EXP (max (e - 1) (s.rf R.STEP_SCALE_CFG_MIN))).bump R.STEP_SKIP_COUNT
    { s.set R.STEP_SKIP_LAST n with step := { s.step with lastSkip := n } }

/-- The verdict applied (R27, R329, R330): shadows commit and the optimizer step count rises, or they are discarded. -/
def State.applyVerdict (s : State) (n : Nat) : State :=
  let b := s.updProg
  if s.step.finite then
    let s := s.commitShadows.govern n
    let s := s.bump R.STEP_OPT_COUNT_COUNT
    let s := if s.flashUp then s.set R.FTL_COMMIT_COMMITTED_STEP n else s
    (s.set R.STEP_STATUS_LAST_STATUS stOK).commitRebase b
  else (s.dropShadows.govern n).set R.STEP_STATUS_LAST_STATUS stNONFINITE

/-- The drain test of a re-sharding commit due at the bind-off of step n (R82): held, and moved to the next bind-off, or superseded there. -/
def State.drainTest (s : State) (n : Nat) : State :=
  if !(s.commitFor n && s.reshards && !s.openHost.isEmpty) then s
  else if s.commitFor (n + 1) then s.takeCommit (fun c => c.target == some n)
  else
    let s := { s with chart := { s.chart with commits := s.chart.commits.map (fun (c : PendCommit) =>
      if c.target = some n then { c with target := some (n + 1), held := true } else c) } }
    (s.set R.CHART_COMMIT_STATUS stNOT_DRAINED).set R.CHART_COMMIT_APPLY_AT_STEP (n + 1)

/-- The vector that the chart names for its boundary (R28, R374). -/
def State.raiseBoundary (s : State) (c : Chart) : State :=
  if c.boundaryVector = 0xFFFF then s else s.raiseOwned 2 c.boundaryVector

/-- The level a device drives in the round at hand (R54): its wish's bit while it contends, and nothing after the last round. -/
def Agreement.level (a : Agreement) : Bool := decide (a.round < a.rounds) && a.contend && a.wish.testBit (a.rounds - 1 - a.round)

/-- Agreement begins with the rounds and the flag settle of the step just ended (R54): without rounds the wish is the agreed variant. -/
def State.beginRounds (s : State) (wish : Nat) (contend : Bool) : State :=
  let r := s.agreeRounds
  let a : Agreement := ⟨0, contend, if r = 0 then wish else 0, wish, r, s.layout Chart.vG⟩
  { s with flagOut := a.level, step := { s.step with agreement := some a } }

/-- The bind-off of a step that an emergency or a critical cut ended before its verdict (R463, R464): FLAG_OUT is released, and the
rounds see 0 from here on. -/
def State.heldBindOff (s : State) (b : Nat) : State :=
  let s := (s.advance b).releaseFlag
  let s := { s with pwr := { s.pwr with critHold := none }, fault := { s.fault with standIns := [] } }
  if s.chart.active.isSome then s.beginRounds 0 false else s

/-- BIND_OFF (R24, R27, R28). -/
def execBindOff (s : State) : Res :=
  .next (match s.pwr.critHold, s.chart.active with
    | some b, _ => s.heldBindOff b
    | none, none => s
    | none, some c =>
      if s.phase ≠ phSETTLE then s
      else
        let s := s.advance (s.rf R.STEP_BINDOFF_VALUE)
        let n := s.rf R.STEP_NUMBER_VALUE
        let wish := s.wish c
        let s := ((s.applyVerdict n).releaseFlag.freeStash.wipeAccs).returnLeftPace s.runSet
        let s := (s.snapshot.drainTest n).applyLeader
        let s := (s.set R.STEP_NUMBER_VALUE (n + 1)).set R.STEP_STATUS_PHASE phBOUNDARY
        let s := { s with
          step := { s.step with lastStep := n, auditDue := true, decideDue := true, figDue := true, ledgerBad := false, installed := false }
          tier := { s.tier with passDue := true }
          sync := { s.sync with boundSince := true, cleanBound := s.sync.cleanBound || decide (2 ^ 20 ≤ s.cleanTicks) }
          idleFig := s.idleStep, idleStep := [] }
        (s.raiseBoundary c).beginRounds wish true)

/-! ## Agreement (R54) -/

/-- AGREEMENT_ROUND (R54): FLAG_IN as the board drives it at B + (k + 1) G. -/
def execAgreementRound (flagIn : Bool) (s : State) : Res :=
  .next (match s.step.agreement with
    | none => s
    | some a =>
      if a.rounds ≤ a.round then s
      else
        let s := s.advance (s.rf R.STEP_BINDOFF_VALUE + (a.round + 1) * a.settle)
        let drove := a.level
        let a : Agreement := { a with round := a.round + 1, contend := a.contend && (drove || !flagIn), agreed := 2 * a.agreed + (if flagIn then 1 else 0) }
        { s with flagIn := flagIn, flagOut := a.level, step := { s.step with agreement := some a } })

/-! ## The audit (R29, R32, R432) -/

/-- One ledger's figures written; a pool that does not hold is logged. -/
def State.auditLedger (s : State) (k : Nat) : State :=
  let ps := s.led.snap.filter (fun p => p.ledger == k)
  let bad := ps.filter (fun p => p.diff != 0)
  let s := s.set (R.LEDGER_LAST_MOVED k) (ps.foldl (fun a p => a + p.moved) 0)
  let s := s.set (R.LEDGER_LAST_DIFF k) (match bad with | [] => 0 | p :: _ => unsigned 32 p.diff)
  let s := bad.foldl (fun (s : State) p => s.logEv stLEDGER_MISMATCH 0x60 0 (k * 65536 + p.pool) (unsigned 64 p.diff)) s
  if bad.isEmpty then s
  else { s.set R.LEDGER_STATUS_MISMATCH (s.rf R.LEDGER_STATUS_MISMATCH ||| 2 ^ k) with step := { s.step with ledgerBad := true } }

/-- A cause of HOLD logged (R29). -/
def State.logHold (s : State) (cause : Nat) : State :=
  if cause = 2 then s.logEv stOK 0x02 0 2 0 else s.logEv (if cause = 3 then stLEDGER_MISMATCH else stOK) 0x08 0 cause 0

/-- LEDGER_AUDIT (R29, R32, R432): the comparison completes 1,024 ticks after its snapshot. -/
def execLedgerAudit (s : State) : Res :=
  .next (if !s.step.auditDue then s
    else
      let sw := !s.step.decideDue
      let s := s.advance ((if sw then s.step.swatchEnd else s.rf R.STEP_BINDOFF_VALUE) + 1024)
      let s := (s.set R.LEDGER_STATUS_MISMATCH 0).set R.LEDGER_STATUS_SWATCH (if sw then 1 else 0)
      let s := (s.set R.LEDGER_STATUS_AT_STEP (s.rf R.STEP_NUMBER_VALUE + 2 ^ 64 - 1))
      let s := { s with step := { s.step with auditDue := false, ledgerBad := false } }
      let s := s.forEach (upTo 4) State.auditLedger
      let bad := s.step.ledgerBad
      let s := s.set R.LEDGER_STATUS_LAST_STATUS (if bad then stLEDGER_MISMATCH else stOK)
      let s := if bad then s.set R.FAULT_STATUS_LAST_STATUS stLEDGER_MISMATCH else s
      if sw && bad then (s.enterHold 3).logHold 3 else s)

/-! ## Figures of the step (R58, R131, R254, R307, R335, R404) -/

/-- The source of the next variant (R29, R77): 2 a chart commit that installs at this bind-off, 1 a variant commit, 0 the agreed wish. -/
def State.variantSource (s : State) : Nat :=
  let chart := s.commitFor s.step.lastStep && (match s.chart.staged with | some d => s.recheck d == 0 | none => false)
  if s.step.installed || chart then 2 else if s.chart.variants.any (fun v => v.target == some s.step.lastStep) then 1 else 0

/-- The stash figures (R58). -/
def State.stashFigures (s : State) (c : Chart) : State :=
  let s := { s with regs := s.regs.filter (fun (p : Nat × Nat) => decide (p.1 < 0x90000 * 64 ∨ 0xA0000 * 64 ≤ p.1)) }
  let s := s.sizes.foldl (fun (s : State) x =>
    let is_ := s.stash.insts.filter (fun i => i.tid == x.1)
    let st := if is_.any (·.overflow) then 3 else if is_.any (fun i => decide (0 < i.spill)) then 2 else 1
    ((s.set (R.STEP_STASH_SIZE_SIZE x.1) x.2.1).set (R.STEP_STASH_SIZE_MB x.1) x.2.2).set (R.STEP_STASH_SIZE_STATE x.1) st) s
  let a := s.step.agreement.getD ⟨0, false, 0, 0, 0, 0⟩
  let s := ((s.set R.STEP_STASH_SEL_AT_STEP s.step.lastStep).set R.STEP_STASH_SEL_MARGIN c.margin).set R.STEP_STASH_SEL_NVAR_M1 (c.nvar - 1)
  let s := (s.set R.STEP_STASH_SEL_WISH a.wish).set R.STEP_STASH_SEL_ROUNDS a.rounds
  let s := s.set R.STEP_STASH_SEL_AGREED (min a.agreed (c.nvar - 1))
  let s := if c.nvar ≤ a.agreed then (s.set R.STEP_STASH_SEL_CLAMPED 1).logEv stBAD_ARG 0x08 0 a.agreed 0 else s.set R.STEP_STASH_SEL_CLAMPED 0
  let s := s.set R.STEP_STASH_SEL_SOURCE s.variantSource
  let s := s.set R.STEP_STASH_EVENTS_OVERFLOWS (s.stash.insts.filter (·.overflow)).length
  let s := s.set R.STEP_STASH_EVENTS_SPILLS (s.stash.insts.filter (fun i => decide (0 < i.spill))).length
  let s := s.set R.STEP_SPILL_BYTES_VALUE (s.stash.insts.foldl (fun b i => b + i.spill) 0)
  let s := (s.set R.STEP_STASH_PEAK_ONDIE_VALUE (s.stash.peak.getD 0 0)).set R.STEP_STASH_PEAK_HBM_VALUE (s.stash.peak.getD 1 0)
  (s.set R.STEP_STASH_PEAK_NEIGHBOUR_VALUE (s.stash.peak.getD 2 0)).set R.STEP_STASH_PEAK_HOST_VALUE (s.stash.peak.getD 3 0)

/-- The tension figures, and a CLEAR that waited for them (R254). -/
def State.tensionFigures (s : State) : State :=
  let s := s.forEach (upTo 16) (fun s k =>
    let v := SMap.get (fun _ => 0) s.tens k
    let p := SMap.get (fun _ => (0, 0)) s.tensPeak k
    let s := (s.set (R.TENSION_LAST_COUNT k) v).set (R.TENSION_CUM_COUNT k) (s.rf (R.TENSION_CUM_COUNT k) + v)
    (s.set (R.TENSION_PEAK_UNMET k) p.1).set (R.TENSION_PEAK_ROUND k) p.2)
  let s := { s.set R.TENSION_CTRL_AT_STEP s.step.lastStep with tens := [], tensPeak := [] }
  if s.step.clearTension then
    let s := s.forEach (upTo 16) (fun s k => s.set (R.TENSION_CUM_COUNT k) 0)
    { s.set R.TENSION_CTRL_CLEAR_PENDING 0 with step := { s.step with clearTension := false } }
  else s

/-- The idle figures, and a CLEAR that waited for them (R404). -/
def State.idleFigures (s : State) : State :=
  let s := s.forEach (upTo 8) (fun s c => s.set (R.IDLE_LAST_TICKS c) (SMap.get (fun _ => 0) s.idleFig c))
  let s := (s.set R.IDLE_CTRL_AT_STEP s.step.lastStep).flushIdle
  if s.step.clearIdle then
    let s := s.forEach (upTo 8) (fun s c => s.set (R.IDLE_CUM_TICKS c) 0)
    { s.set R.IDLE_CTRL_CLEAR_PENDING 0 with step := { s.step with clearIdle := false } }
  else s

/-- Every figure of the step just ended, once (R28). -/
def State.writeFigures (s : State) : State :=
  match s.chart.active with
  | none => s
  | some c =>
    if !s.step.figDue then s
    else
      let s := (s.stashFigures c).gaugeBoundary.tensionFigures.idleFigures
      let s := (s.set R.FTL_STEP_SHADOW_UNITS s.ftl.shadowed).set R.FTL_STEP_RETRIES (min 65535 s.ftl.retries)
      let s := (s.set R.FTL_STEP_UNCORRECTABLE (min 65535 s.ftl.uncorr)).set R.STEP_UPDATE_OVERFLOWS s.upd.overflow.length
      { s with step := { s.step with figDue := false } }

/-! ## Boundary decisions (R28, R29, R52, R77) -/

/-- The units' work and the install that a bind-off owes after its audit (R29, R77, R79). -/
def State.boundaryInstall (s : State) : State :=
  if s.step.decideDue && !s.step.auditDue && s.roundsDone then ((s.writeFigures).unitBoundary s.step.lastStep).installDue else s.installDue

/-- The next variant (R29, R52, R77). A variant commit that applies shows OUTCOME applied only when no other is pending, which the one
OUTCOME field then stands for (log entry 173). -/
def State.chooseVariant (s : State) (c : Chart) (n : Nat) : State :=
  if s.step.installed then s.set R.STEP_STATUS_NEXT_VARIANT 0
  else match s.chart.variants.find? (fun v => v.target == some n) with
    | some v =>
      let s := { s with chart := { s.chart with variants := s.chart.variants.filter (fun x => x.target != some n) } }
      let s := if s.chart.variants.isEmpty then s.set R.CHART_VARIANT_OUTCOME 2 else s
      s.set R.STEP_STATUS_NEXT_VARIANT v.index
    | none =>
      s.set R.STEP_STATUS_NEXT_VARIANT (min ((s.step.agreement.getD ⟨0, false, 0, 0, 0, 0⟩).agreed) (c.nvar - 1))

/-- Causes of HOLD at the bind-off of step n, in the order that R29 records them. -/
def State.holdCauses (s : State) (n : Nat) : List Nat :=
  (if s.step.ledgerBad then [3] else []) ++ (if s.step.thermalPend then [2] else []) ++ (if s.step.stopAt = some n then [1] else [])

/-- A swatch due at the bind-off of step n, when the device enters HOLD, waits for the next launch; a commit held NOT_DRAINED waits for its drain. -/
def State.holdRequests (s : State) (n : Nat) : State :=
  let due := s.step.swatches.filter (fun r => r.target == some n)
  let wait := s.step.swatches.filter (fun (r : SwatchReq) => r.target != some n && r.target.isSome)
    ++ due.map (fun (r : SwatchReq) => SwatchReq.mk r.prog none)
  let s := if due.isEmpty then s
    else ({ s with step := { s.step with swatches := wait } }).set R.STEP_SWATCH_AT_STEP 0xFFFFFFFF
  if s.chart.commits.any (·.held) then
    let s := { s with chart := { s.chart with commits := s.chart.commits.map (fun (c : PendCommit) => if c.held then { c with target := none } else c) } }
    (s.set R.CHART_COMMIT_APPLY_AT_STEP 0xFFFFFFFF).installDue
  else s

/-- The device goes on (R28, R31, R79): the swatch due at step n, if any, and the next cast-on. -/
def State.goOn (s : State) (n : Nat) : State :=
  match s.chart.active with
  | none => s
  | some c =>
    let b := s.rf R.STEP_BINDOFF_VALUE
    let i := c.vI (if s.step.installed then 0 else s.variant)
    let sw := s.swatchFor n
    let s := (s.set R.STEP_NEXT_CASTON_VALUE (b + i + s.swatchTicks sw i)).planSwitch (b + i)
    let next := match sw with | some p => if c.swatchS p = 0 then none else some p | none => none
    let s := { s with step := { s.step with
      swatches := s.step.swatches.filter (fun (r : SwatchReq) => r.target != some n), swatchNext := next } }
    if sw.isSome then s.showPending else s

/-- BOUNDARY_DECISIONS (R28, R29): final by bind-off + 2,048. -/
def execBoundaryDecisions (s : State) : Res :=
  .next (match s.chart.active with
    | none => s
    | some c =>
      if !s.step.decideDue || s.step.auditDue || !s.roundsDone then s
      else
        let n := s.step.lastStep
        let s := (s.advance (s.rf R.STEP_BINDOFF_VALUE + 2048)).boundaryInstall
        let s := s.chooseVariant c n
        let b := s.progOfVariant (s.rf R.STEP_STATUS_NEXT_VARIANT)
        let s := (s.fixRebase b).writeScale b
        let causes := s.holdCauses n
        let s := causes.foldl State.logHold s
        let s := if s.step.stopAt = some n then
            ({ s with step := { s.step with stopAt := none } }).set R.STEP_CTRL_STOP_PENDING 0 else s
        let s := { s with step := { s.step with decideDue := false, thermalPend := false, ledgerBad := false, agreement := none } }
        match causes with
        | [] => (s.goOn n).showWakes
        | k :: _ =>
          let s := (s.enterHold k).holdRequests n
          if s.step.emergency then s.set R.PWR_STATE_LAST_CAUSE 6 else s)

/-- CHART_INSTALL (R79, R82): a commit whose bind-off has been audited, or one held in IDLE or HOLD that has drained, installs. -/
def execChartInstall (s : State) : Res :=
  .next (if s.rf R.PWR_STATE_STATE < 2 then s
    else
      let at_ := s.rf R.STEP_BINDOFF_VALUE + 1024
      (if s.step.decideDue && !s.step.auditDue && s.roundsDone && s.commitFor s.step.lastStep then s.advance at_ else s).boundaryInstall)

end Sys2Proof.Machine
end

