-- ==== Sys2Proof/Machine/ChartCheck.lean ====
section
/-! DEFINITION. Machine/ChartCheck.lean: checks 1 to 12 of *Chart checks* (R17, R18, R44, R45, R54 to R64, R69, R109 to R111,
R161). A check answers the section and the byte offset of its first failing item: 0xF and an image offset for the header and the
directory, an offset within the section otherwise. -/

namespace Sys2Proof.Machine

/-- Section and offset of the first failing item, `none` when a check passes. -/
abbrev Chk := Option (Nat × Nat)

/-- The first item of a list that fails. -/
def firstBad (l : List (Bool × Nat × Nat)) : Chk := (l.find? (·.1)).map (·.2)

/-- The first failure that a test finds in a list. -/
def eachOf {α : Type} (l : List α) (f : α → Chk) : Chk := l.findSome? f

/-- Whether bytes are all zero. -/
def zeros (b : List Byte) (o n : Nat) : Bool := (sliceB b o n).all (· == 0)

/-- Bytes of an entry of a fixed-size section; 0 for program form and for the reserved section (R60). -/
def entryBytes (i : Nat) : Nat := [128, 64, 32, 64, 0, 0, 0, 0, 32, 0, 2, 16, 32, 32, 16, 0].getD i 0

/-- Sections in program form (R60). -/
def progForm (i : Nat) : Bool := [4, 5, 6, 7, 9].contains i

/-- Directory fields of section i (R60). -/
def Chart.dirOff (c : Chart) (i : Nat) : Nat := c.hf (0x100 + 16 * i) 4
def Chart.dirBytes (c : Chart) (i : Nat) : Nat := c.hf (0x104 + 16 * i) 4
def Chart.dirCrc (c : Chart) (i : Nat) : Nat := c.hf (0x10C + 16 * i) 4

/-- The COUNT limit of a section (*Sections*). -/
def Chart.countMax (c : Chart) (i : Nat) : Nat :=
  [c.nvar, 16 * 8192, 65536, 16384, 65536, 65536, 65536, 65535, c.nswatch, 65536, 2 ^ 24, 65536, 65536, 2 ^ 20, 4, 0].getD i 0

/-- Check 1: the fixed fields, reserved header bytes and the reserved bits of PORT_MASK. -/
def Chart.check1 (c : Chart) : Chk :=
  firstBad [(c.hf 0 4 != 0x48434E4B, 0xF, 0), (c.hf 4 2 != 1, 0xF, 4), (c.hf 6 2 != 0x200, 0xF, 6),
    (decide (16 ≤ c.portMask), 0xF, 0x1C), (c.hf 0x1D 1 != 0, 0xF, 0x1D), (c.hf 0x34 4 != 0, 0xF, 0x34),
    (!zeros c.hdr 0x5C 164, 0xF, 0x5C)]

/-- Check 2: HDR_CRC over header and directory with the field itself zero (R59). -/
def Chart.check2 (c : Chart) : Chk :=
  firstBad [(crc32c (c.hdr.take 12 ++ [0, 0, 0, 0] ++ c.hdr.drop 16) != c.hf 0xC 4, 0xF, 0xC)]

/-- Check 3: the length, at most 256 MiB, and the staging space (R71). -/
def State.check3 (s : State) (c : Chart) : Chk :=
  firstBad [(c.hf 8 4 != s.chart.loadBytes || decide (2 ^ 28 < c.hf 8 4) || decide (s.stageSpace.2 < c.hf 8 4), 0xF, 8)]

/-- Check 4: the device (R6). -/
def State.check4 (s : State) (c : Chart) : Chk :=
  firstBad [(c.hf 0x10 2 != s.rf R.GLB_ID_DEVICE, 0xF, 0x10), (c.hf 0x12 1 != s.rf R.GLB_ID_STEPPING, 0xF, 0x12),
    (c.hf 0x13 1 != s.rf R.GLB_ID_GRADE, 0xF, 0x13), (c.hf 0x14 1 != s.rf R.GLB_ID_LCLUSTERS, 0xF, 0x14)]

/-- Check 5: the running firmware. -/
def State.check5 (s : State) (c : Chart) : Chk := firstBad [(decide (s.rf R.BOOT_IMAGE_FW_VERSION < c.minFw), 0xF, 0x30)]

/-- Check 6: FCLK_MHZ. -/
def Chart.check6 (c : Chart) : Chk :=
  firstBad [(decide (c.fclk < 800) || decide (1600 < c.fclk) || c.fclk % 100 != 0, 0xF, 0x18)]

/-- Check 7: the configuration as SYNC has it. -/
def State.check7 (s : State) (c : Chart) : Chk :=
  firstBad [(c.devices != s.rf R.SYNC_CONFIG_DEVICES, 0xF, 0x1A), (c.member != s.rf R.SYNC_CONFIG_MEMBER, 0xF, 0x1B)]

/-- Directory entry i against R59 and R60. -/
def Chart.dirBad (c : Chart) (i : Nat) : Bool :=
  let o := c.dirOff i
  let n := c.dirBytes i
  if i = 15 then o != 0 || n != 0 || c.cnt 15 != 0 || c.dirCrc 15 != 0
  else if n = 0 then c.cnt i != 0 || c.dirCrc i != 0
  else o % 64 != 0 || decide (o < 0x200) || decide (c.hf 8 4 < o + n) || decide (c.countMax i < c.cnt i)
    || (entryBytes i != 0 && c.cnt i * entryBytes i != n) || (progForm i && decide (n < 8 * c.cnt i))
    || (upTo i).any (fun j => meets o n (c.dirOff j) (c.dirBytes j))

/-- Offset and length of item k of a program-form section. -/
def Chart.itemAt (c : Chart) (i k : Nat) : Nat × Nat := (fieldLe (c.sec i) (8 * k) 4, fieldLe (c.sec i) (8 * k + 4) 4)

/-- Item k of a program-form section against R61. -/
def Chart.itemBad (c : Chart) (i k : Nat) : Bool :=
  let (o, n) := c.itemAt i k
  if n = 0 then [6, 7, 9].contains i
  else o % 16 != 0 || decide (o < 8 * c.cnt i) || decide (c.dirBytes i < o + n)
    || (upTo k).any (fun j => meets o n (c.itemAt i j).1 (c.itemAt i j).2)

/-- Check 8: the directory, then the index of every section in program form. -/
def Chart.check8 (c : Chart) : Chk :=
  eachOf (upTo 16) (fun i => firstBad [(c.dirBad i, 0xF, 0x100 + 16 * i)]) <|>
    eachOf [4, 5, 6, 7, 9] (fun i => eachOf (upTo (c.cnt i)) (fun k => firstBad [(c.itemBad i k, i, 8 * k)]))

/-- Check 9: section CRCs. -/
def Chart.check9 (c : Chart) : Chk :=
  eachOf (upTo 15) (fun i => firstBad [(c.dirBytes i != 0 && crc32c (c.sec i) != c.dirCrc i, i, 0)])

/-- The step layout of a variant against R17 and R18. -/
def Chart.layoutBad (c : Chart) (v : Nat) : Bool :=
  c.vf v 2 2 != 0 || c.vf v 0x3A 6 != 0 || c.vM v == 0 || decide (256 < c.vM v) || c.vF v == 0 || decide (2 ^ 38 ≤ c.vF v)
    || c.vW v == 0 || decide (2 ^ 38 ≤ c.vW v) || decide (c.vG v < 64) || decide (c.vE v < 1024) || decide (2 ^ 20 ≤ c.vE v)
    || decide (c.vI v < 4096) || decide (2 ^ 20 ≤ c.vI v) || decide (c.length v ≤ 16384) || decide (2 ^ 40 ≤ c.length v)

/-- Check 10: NVAR, NSWATCH, step layouts and swatch records (R30, R63). -/
def Chart.check10 (c : Chart) : Chk :=
  firstBad [(c.nvar == 0 || decide (16 < c.nvar) || c.cnt 0 != c.nvar, 0xF, 0x15),
      (decide (16 < c.nswatch) || c.cnt 8 != c.nswatch, 0xF, 0x16)] <|>
    eachOf (upTo c.nvar) (fun v => firstBad [(c.layoutBad v, 0, 128 * v)]) <|>
    eachOf (upTo c.nswatch) (fun p => firstBad [
      (decide (2 ^ 40 ≤ c.swatchS p) || !zeros (c.sec 8) (32 * p + 0xA) 6 || !zeros (c.sec 8) (32 * p + 0x18) 8, 8, 32 * p)])

/-- Bits needed to write NVAR − 1: the agreement rounds of R54. -/
def Chart.rounds (c : Chart) : Nat := if c.nvar ≤ 1 then 0 else (c.nvar - 1).log2 + 1

/-- Check 11: r × G and the board's FLAG round trip (R18, R55). -/
def State.check11 (s : State) (c : Chart) : Chk :=
  eachOf (upTo c.nvar) (fun v => firstBad [
    ((decide (1 < c.nvar) && decide (1 < c.devices) && decide (1536 < c.rounds * c.vG v))
      || decide (c.vG v < s.rf R.SYNC_CONFIG_FLAG_RTT), 0, 128 * v + 0x20)])

/-! ## Check 12: shapes and stash tables -/

/-- Shape i's ELEM, positions and the bytes of one instance (R64, R110). -/
def Chart.shElem (c : Chart) (i : Nat) : Nat := fieldLe (c.sec 2) (32 * i + 0x10) 1
def Chart.shPositions (c : Chart) (i : Nat) : Nat := c.dim i 0 * c.dim i 1 * c.dim i 2
def Chart.shBytes (c : Chart) (i : Nat) : Nat := c.shPositions i * fmtBytes (c.shElem i) (c.dim i 3)

/-- A shape against R64, R109 and R111. -/
def Chart.shapeBad (c : Chart) (i : Nat) : Bool :=
  decide (8 < c.shElem i) || fieldLe (c.sec 2) (32 * i + 0x11) 1 != 0 || !zeros (c.sec 2) (32 * i + 0x12) 14
    || (isMx (c.shElem i) && c.dim i 3 % 32 != 0)

/-- Whether Cyloth-A can encode a shape (R161). -/
def Chart.shapeA (c : Chart) (i : Nat) : Bool :=
  decide (c.shElem i ≤ 2) && decide (1 ≤ c.dim i 1 ∧ c.dim i 1 ≤ 65535) && decide (1 ≤ c.dim i 2 ∧ c.dim i 2 ≤ 65535)
    && c.dim i 3 != 0 && c.dim i 3 % 16 == 0 && decide (1 ≤ c.dim i 0)

/-- Allowed spill tiers of a home tier (*Spill tiers*). -/
def spillTiers (tier : Nat) : List Nat := [[1, 3], [2, 3], [3], []].getD tier []

/-- Reserved bits of a stash entry (*Stash entry*). -/
def stashReserved (b : List Byte) : Bool :=
  bitsOf (fieldLe b 0 8) 44 4 != 0 || bitsOf (fieldLe b 8 8) 40 24 != 0 || bitsOf (fieldLe b 16 8) 40 24 != 0
    || bitsOf (fieldLe b 24 8) 40 24 != 0 || bitsOf (fieldLe b 32 8) 52 12 != 0 || bitsOf (fieldLe b 40 8) 52 12 != 0
    || bitsOf (fieldLe b 48 8) 14 2 != 0 || bitsOf (fieldLe b 48 8) 30 2 != 0 || bitsOf (fieldLe b 56 8) 40 8 != 0

/-- An entry against *Stash entry rules* by its class (R45); `last` in the last variant. -/
def StashEnt.classOk (e : StashEnt) (last : Bool) : Bool :=
  let stored := e.budget == e.raw && e.allow == 0 && e.stier == e.tier
  let packed := !e.probe && (if e.stier = e.tier then e.allow == 0 else (spillTiers e.tier).contains e.stier)
    && (!last || decide (worst e.raw ≤ e.budget) || decide (worst e.raw + 65600 ≤ e.budget + e.allow))
  match e.cls with
  | 0 => e.tier == 0 && e.budget == 0 && e.allow == 0
  | 1 => decide (e.tier ≤ 1) && e.prof == 0 && stored
  | 2 => decide (e.tier ≤ 1) && e.prof != 0 && packed
  | 3 => (e.tier == 2 || e.tier == 3) && (if e.prof = 0 then stored else packed)
  | 4 => e.tier == 0 && (e.prof == 0 || e.probe) && e.budget == 0 && e.allow == 0 && (e.raw == 0 || e.slices != 0)
  | _ => false

/-- The shape an entry names: present, giving RAW_BYTES, and one that Cyloth-A can encode where PROFILE says so (R64, R161). -/
def Chart.entryShapeOk (c : Chart) (e : StashEnt) : Bool :=
  decide (e.shape < c.cnt 2) && (if e.cls = 0 then c.shBytes e.shape != 0 || e.raw == 0 else e.raw == c.shBytes e.shape)
    && (e.prof != 1 || c.shapeA e.shape)

/-- The lifeline of a FROG entry (R40). -/
def lifelineOk (tab : List StashEnt) (e : StashEnt) : Bool :=
  e.cls != 4 || (match tab.find? (fun x => x.tid == e.life) with
    | some l => (l.cls == 1 || l.cls == 2 || l.cls == 3) && decide (l.layer ≤ e.layer)
    | none => false)

/-- Whether every instance of an entry lies in its tiers' stash areas of variant v (R44, R62). -/
def Chart.placed (c : Chart) (v : Nat) (e : StashEnt) : Bool :=
  let inside := fun (tier oa step n : Nat) =>
    n == 0 || (decide ((c.area v tier).1 ≤ oa) &&
      decide (oa + (c.vM v - 1) * step + n ≤ (c.area v tier).1 + (c.area v tier).2))
  inside e.tier e.home e.stride e.budget && inside e.stier e.spill (ceilDiv e.allow 4096 * 4096) e.allow

/-- Entry k of a variant's table. -/
def Chart.entryBad (c : Chart) (v k : Nat) (tab : List StashEnt) : Bool :=
  let b := sliceB (c.sec 1) (64 * (c.vStashFirst v + k)) 64
  let e := stashEnt b
  stashReserved b || decide (8191 < e.tid) || decide (3 < e.tier) || decide (2 < e.prof) || decide (3 < e.stier)
    || e.home % 4096 != 0 || e.spill % 4096 != 0 || e.stride % 4096 != 0 || (e.stride == 0 && decide (1 < c.vM v))
    || (tab.take k).any (fun x => x.tid == e.tid) || !c.entryShapeOk e || !e.classOk (v + 1 == c.nvar)
    || !lifelineOk tab e || !c.placed v e

/-- Bytes that a table takes of a tier at its peak (R56). -/
def tierUse (tab : List StashEnt) (m tier : Nat) : Nat :=
  m * tab.foldl (fun a e => a + (if e.tier = tier then e.budget else 0) + (if e.stier = tier then e.allow else 0)) 0

/-- Whether an identity packed in a table is packed or probed alike in another (R45). -/
def packedAlike (e : StashEnt) (tab : List StashEnt) : Bool :=
  !e.packed || (match tab.find? (fun x => x.tid == e.tid) with
    | some x => x.prof == e.prof && (x.packed || x.probe)
    | none => false)

/-- One variant's table: its place, its entries, its areas. -/
def Chart.tableCheck (c : Chart) (v : Nat) : Chk :=
  if decide (8192 < c.vStashCount v) || decide (c.cnt 1 < c.vStashFirst v + c.vStashCount v) then some (0, 128 * v + 0x28)
  else
    let tab := c.stash v
    eachOf (upTo (c.vStashCount v)) (fun k => firstBad [(c.entryBad v k tab, 1, 64 * (c.vStashFirst v + k))]) <|>
      eachOf (upTo 4) (fun t => firstBad [(decide ((c.area v t).2 < tierUse tab (c.vM v) t), 0, 128 * v + 0x40 + 16 * t)])

/-- Check 12. -/
def Chart.check12 (c : Chart) : Chk :=
  eachOf (upTo (c.cnt 2)) (fun i => firstBad [(c.shapeBad i, 2, 32 * i)]) <|> eachOf (upTo c.nvar) c.tableCheck <|>
    eachOf (upTo c.nvar) (fun v => eachOf (upTo (c.vStashCount v)) (fun k =>
      let e := stashEnt (sliceB (c.sec 1) (64 * (c.vStashFirst v + k)) 64)
      firstBad [((upTo c.nvar).any (fun w => !packedAlike e (c.stash w)), 1, 64 * (c.vStashFirst v + k))]))

end Sys2Proof.Machine
end

