-- ==== Sys2Proof/Machine/Walks.lean ====
section
/-! DEFINITION. Machine/Walks.lean: panel walks on skein-engine decode slots (R156, R192, R239). -/

namespace Sys2Proof.Machine

/-- A walk over one panel skein: whether its header failed, the blocks that failed, where each block begins and whether what came before
it was lost (R156). -/
structure WalkRun where
  st    : State
  pos   : Nat
  lost  : Bool
  hdr   : Bool
  fails : Nat
  /-- Block, where it begins, whether the walk was lost before it. -/
  seen  : List (Nat × Nat × Bool)

/-- One block of a walk. -/
def WalkRun.block (d : WDesc) (x : WalkRun) (i : Nat) : WalkRun :=
  let exp := blockRaw d.panelBytes i
  let x := { x with seen := x.seen ++ [(i, x.pos, x.lost)] }
  if x.lost then x
  else
    let g := x.st.readOA .cluster (x.pos % 2 ^ 52) 32
    let pl := fieldLe (g.data.map (·.1)) 8 4
    if loses g.data i exp then { x with st := g.st, lost := true, fails := x.fails + 1 }
    else
      let p := g.st.readOA .cluster ((x.pos + 32) % 2 ^ 52) pl
      { x with st := p.st, pos := x.pos + 32 + pl, fails := if skipOk g.data p.data i exp then x.fails else x.fails + 1 }

/-- The walk of one panel. -/
def State.walkPanel (s : State) (d : WDesc) (n : Nat) : WalkRun :=
  let w := s.panelWord d n
  let oa := w.1 % 2 ^ 52
  let g := s.readOA .cluster oa 32
  let ok := !w.2 && panelHeaderOk d g.data
  (upTo (blockCount d.panelBytes)).foldl (WalkRun.block d) ⟨g.st, oa + 32, !ok, !ok, 0, []⟩

/-- One panel walked and its parts' starts written to the panel table (R192); SKEIN_WALK counts panels and lost parts, the engine its failed checks. -/
def State.walkOne (s : State) (d : WDesc) (sk p n : Nat) : State :=
  let w := s.walkPanel d n
  let s := if w.hdr then w.st.set (R.SKEIN_ERR_HDR_FAIL p) 1 else w.st
  let s := if 0 < w.fails then s.set (R.SKEIN_ERR_BLOCK_FAIL p) 1 else s
  let bad := w.fails + (if w.hdr then 1 else 0)
  let s := if 0 < bad then (s.set (R.SKEIN_ERR_LAST_STATUS p) stCHECK_FAIL).addSat (R.SKEIN_ERR_CHECK_FAILS p) bad else s
  let s := (upTo (sk - 1)).foldl (fun s t =>
    let i := d.before ((t + 1) * perPart d sk) / 65536
    let e := (w.seen.find? (fun x => x.1 == i)).getD (i, w.pos, w.lost)
    let s := (s.writeOA .plan 2 ((d.oa + 8 * (ceilDiv d.n 128 + n * (sk - 1) + t)) % 2 ^ 52)
      (clean (natLe 8 (e.2.1 % 2 ^ 52 + (if e.2.2 then 2 ^ 63 else 0))))).st
    if e.2.2 then s.bump R.SKEIN_WALK_PARTS_LOST else s) s
  s.bump R.SKEIN_WALK_PANELS

/-- SPLITK above 1 with which any program of a chart reads the panels at a table address; check 16 admits only one (R192). -/
def Chart.tableSplit (c : Chart) (oa : Nat) : Nat :=
  (upTo (c.cnt 6)).foldl (fun a k =>
    let b := (c.item 6 k).getD []
    (upTo (fieldLe b 5 1)).foldl (fun a w => if (wDesc b w).oa = oa then max a (splitOf b w) else a) a) 1

/-- Decode slots that a walk takes, at two blocks a slot (R192). -/
def walkSlots (d : WDesc) : Nat := ceilDiv (ceilDiv d.n 128 * blockCount d.panelBytes) 2

/-- The plan offset at which a walk entry ends: the end of the last of its engine's decode slots with owner 0xFFFA that it takes from its
START; past the end of plan time when they do not suffice (R192, R239). -/
def walkDone (b : List Byte) (fclk fin : Nat) (ce : CluEntry) (d : WDesc) : Nat :=
  let need := walkSlots d
  if slotsOf b fclk (0x8000 + ce.first) fin (· == 0xFFFA) ce.start fin < need then fin + 1
  else leastTick (fun t => decide (need ≤ slotsOf b fclk (0x8000 + ce.first) fin (· == 0xFFFA) ce.start t)) 64 ce.start fin

/-- PANEL_WALK (R192, R239): an entry of KIND 2 walks every panel of its weight descriptor on its engine's decode slots; at the walk's end
the starts of the parts stand and its completion arrives at its barrier. A walk that the engine's slots do not carry to its end within
plan time does not complete. -/
def execPanelWalk (e : Nat) (s : State) : Res :=
  .next (
    let ce := cluEntry s.schedule e
    match s.chart.active with
    | none => s
    | some c =>
      match s.serverOf 2 ce.first with
      | none => s
      | some u =>
        let d := wDesc ((c.item 6 ce.tensor).getD []) ce.slice
        let t := walkDone s.schedule c.fclk (s.planFin c) ce d
        if ce.kind ≠ 2 ∨ !s.planRuns ∨ !s.clu.left.contains e ∨ s.planFin c < t then s
        else
          let s := (s.advance (s.cluAt ce.start)).useUnits [u]
          let s := (upTo (ceilDiv d.n 128)).foldl (fun s n => s.walkOne d (c.tableSplit d.oa) (uIdx u) n) (s.advance (s.cluAt t))
          s.endEntry e)

end Sys2Proof.Machine
end

