-- ==== Sys2Proof/Machine/ChartCheck2.lean ====
section
/-! DEFINITION. Machine/ChartCheck2.lean: checks 13 to 17 of *Chart checks* (R25, R49, R63, R85 to R101, R109 to R118, R186, R190,
R192, R202, R220, R245, R311 to R313, R328, R420). -/

namespace Sys2Proof.Machine

/-- Counts of a program header (R92). -/
def rpOPS (b : List Byte) : Nat := fieldLe b 0 2
def rpSPAN (b : List Byte) : Nat := fieldLe b 2 1
def rpNOUT (b : List Byte) : Nat := fieldLe b 4 1
def rpNW (b : List Byte) : Nat := fieldLe b 5 1
def rpNB (b : List Byte) : Nat := fieldLe b 6 1

/-! ## Checks 13 and 14 (R25, R49) -/

/-- Entry k of the stash table of a variant. -/
def Chart.stashAt (c : Chart) (v k : Nat) : StashEnt := stashEnt (sliceB (c.sec 1) (64 * (c.vStashFirst v + k)) 64)

/-- Whether an entry stores its instances (KEEP, PACK, SEND). -/
def StashEnt.stored (e : StashEnt) : Bool := e.cls == 1 || e.cls == 2 || e.cls == 3

/-- The streams of a variant that read an entry's instances: its fetch stream, where it unpacks a skein or moves bytes from an
instance's home. -/
def Chart.reads (c : Chart) (v : Nat) (e : StashEnt) : Bool :=
  (c.variantSet v).contains e.fetch && (c.acts e.fetch).any (fun a =>
    if e.packed then a.unpack else a.moves && a.op != opINLINE && !isPort a.src
      && (upTo (c.vM v)).any (fun m => meets (a.src % 2 ^ 52) a.len (e.homeAt m) e.budget))

/-- The segment entries of a variant that read an entry as their lifeline. -/
def Chart.segReaders (c : Chart) (v : Nat) (e : StashEnt) : List CluEntry :=
  let b := (c.item 9 (c.vSchedule v)).getD []
  let users := (c.stash v).filter (fun x => x.cls == 4 && x.raw != 0 && x.life == e.tid)
  ((upTo (schNSEG b)).map (cluEntry b)).filter (fun ce => ce.kind == 0 && users.any (fun x => x.tid == ce.tensor))

/-- Whether a step of variant v reads entry k's instances, through its fetch stream or as a lifeline, and no stream of the step writes
them: the reference would be to an earlier step's (R25). -/
def Chart.crossBad (c : Chart) (v k : Nat) : Bool :=
  let e := c.stashAt v k
  e.stored && e.raw != 0 && (c.reads v e || !(c.segReaders v e).isEmpty) && !(c.variantSet v).contains e.write

/-- Check 13: a stored entry that a step of the variant reads is written by a stream of the same variant (log entry 31). -/
def Chart.check13 (c : Chart) : Chk :=
  eachOf (upTo c.nvar) (fun v => eachOf (upTo (c.vStashCount v)) (fun k => firstBad [(c.crossBad v k, 1, 64 * (c.vStashFirst v + k))]))

/-- Cluster time that an entry takes on its span (R317, R241): end tick and span, `none` where it names nothing. -/
def Chart.entryTime (c : Chart) (r : PlanRec) (ce : CluEntry) : Option (Nat × Nat) :=
  if ce.kind = 0 then
    ((c.recFrog r).find? (fun e => e.tid == ce.tensor)).map (fun e =>
      let b := (c.item 6 e.prog).getD []
      (ce.start + ceilDiv (fieldLe b 0xC 4 * 100) c.fclk, rpSPAN b))
  else if ce.kind = 1 then
    match r.var with
    | none => none
    | some v =>
      let b := c.updProg (c.vUPDATE v)
      if fieldLe b 2 2 ≤ ce.tensor then none
      else some (ce.start + ceilDiv (updCycles (fieldLe b 6 1) (uGroup b ce.tensor) ce.slice * 100) c.fclk, fieldLe b 6 1)
  else none

/-- The record of variant v. -/
def Chart.varRec (c : Chart) (v : Nat) : PlanRec := ⟨0, 128 * v, c.variantSet v, c.vSchedule v, c.planEnd v, some v⟩

/-- The plan offset at which an entry's space is released: when the last of the streams and segments that read it has ended, a stream
at the tick by which the slots it owns carry its demand (log entry 176). -/
def Chart.releaseAt (c : Chart) (v : Nat) (e : StashEnt) : Nat :=
  let own := if (c.variantSet v).contains e.fetch then c.endsAt (c.varRec v) e.fetch else 0
  (c.segReaders v e).foldl (fun a ce => max a (match c.entryTime (c.varRec v) ce with | some t => t.1 | none => ce.start)) own

/-- What chunk `ce.slice` of the group of a cluster entry writes: base, delta slot, working copy and moments (R312, R315); nothing for a
group of which the member holds nothing (R67). -/
def Chart.chunkWrites (c : Chart) (u : List Byte) (ce : CluEntry) : List (Nat × Nat) :=
  let g := uGroup u ce.tensor
  let n := g.params ce.slice
  let m := if g.mom = 0 then 8 else 4
  if fieldLe u 2 2 ≤ ce.tensor ∨ c.groupExtent g.group = 0 then []
  else [(c.masterOA g.group + 4 * chunkN * ce.slice, 4 * n), (g.delta + g.slot * ce.slice, g.slot),
      (g.wcOA + fmtBytes g.wc chunkN * ce.slice, fmtBytes g.wc n)] ++
    (if g.rule = 0 then [] else [(g.momOA + m * chunkN * ce.slice, m * n)])

/-- The shadow pages that a write of live bytes goes to, pair by pair: whole pages of the shadow object (R328). -/
def shadowsOf (u : List Byte) (w : Nat × Nat) : List (Nat × Nat) :=
  (pairsOf u).filterMap (fun p =>
    let lo := max w.1 p.1 / 2 ^ 21
    let hi := ceilDiv (min (w.1 + w.2) (p.1 + 2 ^ 21 * p.2.2.1)) (2 ^ 21)
    if meets w.1 w.2 p.1 (2 ^ 21 * p.2.2.1) then some (p.2.1 + (lo * 2 ^ 21 - p.1), (hi - lo) * 2 ^ 21) else none)

/-- Ranges that plan work of the backward window writes, with the plan offset of the first write: accumulators from their CLEAR_AT,
shadow pages from the start of the update entry or of the stream that first writes the live page, destinations of plan streams from their
start (R49). -/
def Chart.allocations (c : Chart) (v : Nat) : List (Nat × Nat × Nat) :=
  let u := c.updProg (c.vUPDATE v)
  let b := (c.item 9 (c.vSchedule v)).getD []
  let chunks := (((upTo (schNSEG b)).map (cluEntry b)).filter (fun ce => ce.kind == 1)).map (fun ce =>
    (c.chunkWrites u ce).map (fun w => (w, ce.start)))
  let dests := fun (n : Nat) => ((c.acts n).filter (fun a => a.moves && !isPort a.dst)).map (fun a =>
    ((a.dst % 2 ^ 52, if a.pack then packMax a.len else a.len), imgStart (c.img n)))
  let accs := (upTo (fieldLe u 0 2)).map (fun a => let d := accDesc u a; (d.oa, 4 * d.elems, d.clear))
  let shadows := (chunks.flatten ++ ((c.variantSet v).map dests).flatten).map (fun w => (shadowsOf u w.1).map (fun x => (x.1, x.2, w.2)))
  let streams := ((c.variantSet v).filter (fun n => decide (c.vF v ≤ imgStart (c.img n)) && !(c.stash v).any (fun e => e.write == n && e.raw != 0))).map dests
  accs ++ shadows.flatten ++ streams.flatten.map (fun w => (w.1.1, w.1.2, w.2))

/-- Whether an allocation of variant v is written before the release of an instance of entry k that it overlaps. -/
def Chart.earlyBad (c : Chart) (v k : Nat) : Bool :=
  let e := c.stashAt v k
  let rel := c.releaseAt v e
  let hit := fun (a : Nat × Nat × Nat) => (upTo (c.vM v)).any (fun m =>
    meets a.1 a.2.1 (e.homeAt m) e.budget || meets a.1 a.2.1 (e.spillAt m) e.allow)
  e.stored && (c.allocations v).any (fun a => decide (a.2.2 < rel) && hit a)

/-- Check 14: no allocation is written before the release of an instance it overlaps. -/
def Chart.check14 (c : Chart) : Chk :=
  eachOf (upTo c.nvar) (fun v => eachOf (upTo (c.vStashCount v)) (fun k => firstBad [(c.earlyBad v k, 1, 64 * (c.vStashFirst v + k))]))

/-! ## Check 15: streams -/

/-- What the program rules need of a chart (R200, R211, R215, R245, R420). -/
def Chart.nitasEnv (c : Chart) : NitasEnv :=
  { mask := c.portMask, devices := c.devices, moveMax := 4194304
    sem := fun oa => c.inClasses oa 8 [8] && c.owned oa 8 2
    lines := fun p => match (upTo (c.cnt 14)).find? (fun k => fieldLe (c.sec 14) (16 * k) 1 == p) with
      | some k => fieldLe (c.sec 14) (16 * k + 4) 2
      | none => 0
    bare := false }

/-- Whether a number stands twice in a list. -/
def hasTwice : List Nat → Bool
  | [] => false
  | a :: t => t.contains a || hasTwice t

/-- A record's stream set: inside section 10, no context twice, every context with an image (R63, R202). -/
def Chart.setBad (c : Chart) (r : PlanRec) : Bool :=
  let o := if r.sec = 0 then r.off + 0x30 else r.off + 0x10
  decide (c.cnt 10 < fieldLe (c.sec r.sec) o 4 + fieldLe (c.sec r.sec) (o + 4) 4) || hasTwice r.set
    || r.set.any (fun n => decide (min 16384 (c.cnt 3) ≤ n))

/-- Reserved bits of an image: those that no field of the context's registers holds (R230). -/
def imgReserved (b : List Byte) : Bool :=
  (upTo 8).any (fun k => match findReg (0x100000 + 8 * k) with
    | none => false
    | some r => r.reservedBits (Wr.full .fw (fieldLe b (8 * k) 8)) != 0)

/-- Whether image n is unused (R202). -/
def Chart.unused (c : Chart) (n : Nat) : Bool := (c.img n).all (· == 0) && !c.allSets.contains n

/-- Image n against R202, R220 and R420, and a STATUS that KN40 never reports (R15; log entry 229); an unused
image is not checked. -/
def Chart.imageBad (c : Chart) (n : Nat) : Bool :=
  let b := c.img n
  if c.unused n then false
  else imgReserved b || decide (0xF < imgStatus b) || decide (c.cnt 5 ≤ imgProgram b) || decide (c.cnt 4 ≤ imgList b)
    || !rule8 (imgInflight b) (imgRunAhead b) (imgTile b)
    || !c.nitasEnv.progOk (c.progOf n) (c.listOf n) (imgPace b)

/-- Whether a context's program holds a pack (direction 0) or an unpack (1). -/
def Chart.codes (c : Chart) (n dir : Nat) : Bool :=
  (instrsOf (c.progOf n)).any (fun u => uOp u == opMOVEX && uFlag u 2 == (dir == 1))

/-- The plan ticks between which a context of a record may hold a skein context open on a pipeline: from its START to its last slot there
(R186; log entry 193). -/
def Chart.openSpan (c : Chart) (r : PlanRec) (n dir : Nat) : Nat × Nat :=
  let b := c.recSch r
  (imgStart (c.img n), lastSlotOn b ((enginesOf b (7 + dir) n).map (fun e => (7 + dir) * 4096 + e)) c.fclk r.fin n)

/-- Whether more than four contexts of a record may be open on the pipeline of context n when that starts (R186). -/
def Chart.fifthOpen (c : Chart) (r : PlanRec) (n dir : Nat) : Bool :=
  let b := c.recSch r
  let t := imgStart (c.img n)
  decide (4 < (r.set.filter (fun m => c.codes m dir && enginesOf b (7 + dir) m == enginesOf b (7 + dir) n
    && decide ((c.openSpan r m dir).1 ≤ t) && decide (t < (c.openSpan r m dir).2))).length)

/-- A record's streams on pace lines and skein engines (R186, R245). -/
def Chart.bindingBad (c : Chart) (r : PlanRec) : Chk :=
  let b := c.recSch r
  let paced := r.set.filter (fun n => (instrsOf (c.progOf n)).any (fun u => uOp u == opWAITPACE))
  eachOf r.set (fun n => firstBad [
    (paced.contains n && paced.any (fun m => decide (m < n) && imgPace (c.img m) == imgPace (c.img n)), 3, 64 * n),
    ([0, 1].any (fun dir => c.codes n dir && ((enginesOf b (7 + dir) n).length != 1 || c.fifthOpen r n dir)), 3, 64 * n)])

/-- Whether a skein of a stash tensor is coded as its shape asks: the width of its elements, and for Cyloth-A its dimensions in REF
(R135, R161, R162). -/
def Chart.codedAs (c : Chart) (e : StashEnt) (a : Act) : Bool :=
  fieldLe a.u 9 1 == fmtWidth (c.shElem e.shape) && (fieldLe a.u 8 1 != 1 || (c.shapeA e.shape
    && (a.unpack || a.ref == c.dim e.shape 1 + c.dim e.shape 2 * 65536 + c.dim e.shape 3 * 2 ^ 32)))

/-- Whether a pack or unpack of a context that writes or fetches stash skeins breaks R201, or codes a tensor otherwise than its shape asks:
it names no instance of its entries, or none that its coding fits (rule 6 of R220, R135, R164). -/
def Chart.skeinBad (c : Chart) (r : PlanRec) (n : Nat) (a : Act) : Bool :=
  let es := (c.recStash r).filter (fun e => (if a.pack then e.write else e.fetch) == n && (e.packed || (a.pack && e.probe)))
  let addr := if a.pack then a.dst else a.src
  (a.pack || a.unpack) && a.len != 0 && !es.isEmpty && !es.any (fun e => (!e.packed || e.homeAt a.mb == addr) && c.codedAs e a)

/-- Kinds of operation for assignment and cost: 0 GEMM, 1 row, 2 element-wise; none for an opcode not in the table (R89, R96). -/
def opKind (op : Nat) : Option Nat :=
  if op = 0x01 ∨ op = 0x1F then some 0
  else if op = 0x0A ∨ op = 0x0B ∨ op = 0x0F ∨ op = 0x1E then some 1
  else if 0x02 ≤ op ∧ op ≤ 0x11 then some 2
  else none

/-- The largest SPLITK of the GEMMs of a program that read weight i. -/
def maxSplit (b : List Byte) (i : Nat) : Nat :=
  ((upTo (rpOPS b)).map (opWord b)).foldl (fun a o => if opKind o.op = some 0 ∧ o.b = 0x80 + i then max a o.sk else a) 1

/-- Bytes from TABLE_OA on that weight descriptor i reaches by itself: a panel table with the words of the parts of its panels (R192), a
vector, or the rows of a position-indexed table (R93). -/
def weightBytes (b : List Byte) (i : Nat) : Nat :=
  let d := wDesc b i
  if d.index = 0 then 8 * ceilDiv d.n 128 * (if d.prof = 1 then maxSplit b i else 1)
  else if d.index = 1 then fmtBytes d.elem d.n else d.k * fmtBytes d.elem d.n

/-- Byte ranges whose element format the chart names (R135): accumulators and master bases in FP32, moments and working copies in their
groups' formats, vectors and position-indexed tables in their descriptors'. -/
def Chart.formats (c : Chart) : List (Nat × Nat × Nat) :=
  ((upTo (c.cnt 7)).map (fun p =>
    let u := (c.item 7 p).getD []
    (upTo (fieldLe u 0 2)).map (fun a => ((accDesc u a).oa, 4 * (accDesc u a).elems, 0)) ++
      ((upTo (fieldLe u 2 2)).map (fun i =>
        let g := uGroup u i
        let n := chunkN * (g.chunks - 1) + g.last
        if g.chunks = 0 then []
        else [(c.masterOA g.group, 4 * n, 0), (g.wcOA, fmtBytes g.wc n, g.wc)] ++
          (if g.rule = 0 then [] else [(g.momOA, (if g.mom = 0 then 8 else 4) * n, g.mom)]))).flatten)).flatten ++
  ((upTo (c.cnt 6)).map (fun p =>
    let b := (c.item 6 p).getD []
    ((upTo (rpNW b)).filter (fun i => (wDesc b i).index != 0)).map (fun i => ((wDesc b i).oa, weightBytes b i, (wDesc b i).elem)))).flatten

/-- Whether a MOVEX codes data whose format the chart names in words of another width (R135, R164, R207): its raw side lies in such a range,
or it unpacks the skein of a stash instance. -/
def Chart.widthBad (c : Chart) (a : Act) : Bool :=
  let raw := if a.pack then a.src else a.dst
  let w := fieldLe a.u 9 1
  (a.pack || a.unpack) && a.len != 0 &&
    ((!isPort raw && c.formats.any (fun x => meets (raw % 2 ^ 52) a.len x.1 x.2.1 && w != fmtWidth x.2.2)) ||
      (a.unpack && (upTo c.nvar).any (fun v => (c.stash v).any (fun e =>
        e.packed && (upTo (c.vM v)).any (fun m => e.homeAt m == a.src) && w != fmtWidth (c.shElem e.shape)))))

/-- Whether an act of a context writes, or a SEAL's status word would lie, outside the pages that CHART owns (R200). -/
def Chart.strayBad (c : Chart) (a : Act) : Bool :=
  (a.moves && !isPort a.dst && !c.owned (a.dst % 2 ^ 52) (if a.pack then 1 else a.len) 2)
    || (a.op == opSEAL && uFlag a.u 0 && !isPort (fieldLe a.u 8 8) && !c.owned (fieldLe a.u 8 8 % 2 ^ 52) 32 2)


/-- Check 15. -/
def Chart.check15 (c : Chart) : Chk :=
  eachOf (upTo (c.cnt 10)) (fun k => firstBad [(decide (16383 < fieldLe (c.sec 10) (2 * k) 2), 10, 2 * k)]) <|>
    eachOf c.recs (fun r => firstBad [(c.setBad r, r.sec, r.off)]) <|>
    eachOf (upTo (c.cnt 3)) (fun n => firstBad [(c.imageBad n, 3, 64 * n)]) <|>
    eachOf (upTo (c.cnt 5)) (fun k =>
      firstBad [(!({ c.nitasEnv with bare := true }).progOk ((c.item 5 k).getD []) [] 0, 5, (c.itemAt 5 k).1)]) <|>
    eachOf (upTo (c.cnt 4)) (fun k =>
      let list := (c.item 4 k).getD []
      let at_ := (c.itemAt 4 k).1
      firstBad [(list.length % 32 != 0, 4, at_)] <|>
        eachOf (upTo (list.length / 32)) (fun j => firstBad [(!c.nitasEnv.entryOk list j, 4, at_ + 32 * j)])) <|>
    eachOf c.recs c.bindingBad <|>
    eachOf (upTo (c.cnt 3)) (fun n => firstBad [(!c.unused n && (c.acts n).any (fun a => c.strayBad a || c.widthBad a), 3, 64 * n)]) <|>
    eachOf c.recs (fun r => eachOf r.set (fun n => firstBad [((c.acts n).any (c.skeinBad r n), 3, 64 * n)]))

/-! ## Check 16: recompute programs -/

/-- Cycles of a work unit (*Recompute operations*). -/
def opCycles (op : Nat) : Nat :=
  if op = 0x07 ∨ op = 0x08 ∨ op = 0x0C then 128 else if op = 0x09 then 192 else if op = 0x0A then 160 else if op = 0x0B then 224
  else if op = 0x0F then 256 else if op = 0x1E then 96 else 64

/-- GEMM class of a format: 1 for 16-bit, 2 for MX 8-bit and 6-bit, 3 for MX 4-bit, 0 for FP32 (R109); cycles of a tile (R96). -/
def gemmClass (elem : Nat) : Nat := if elem = 0 then 0 else if elem ≤ 2 then 1 else if elem = 7 then 3 else 2
def tileCycles (elem : Nat) : Nat := [1024, 1024, 512, 256].getD (gemmClass elem) 1024

/-- Role of an operand code in a program: 0 nothing, 1 buffer, 2 INPUT, 3 output, 4 + INDEX a weight; none for a code that names
nothing (R94). -/
def opRole (b : List Byte) (code : Nat) : Option Nat :=
  if code = 0 then some 0
  else if isBuf code then (if code - 1 < rpNB b then some 1 else none)
  else if code = 0x40 then some 2
  else if isOut code then (if code - 0x41 < rpNOUT b then some 3 else none)
  else if isWgt code then (if code - 0x80 < rpNW b then some (4 + (wDesc b (code - 0x80)).index) else none)
  else none

/-- Roles that SRC_B and SRC_C may have (*Recompute operations*). -/
def rolesB (op : Nat) : List Nat :=
  if op = 0x01 ∨ op = 0x1F then [4] else if op = 0x02 ∨ op = 0x03 ∨ op = 0x09 then [1, 2, 3]
  else if op = 0x05 then [5] else if op = 0x06 then [5, 1] else if op = 0x0A ∨ op = 0x0B then [0, 5] else if op = 0x0C then [6] else [0]
def rolesC (op : Nat) : List Nat :=
  if op = 0x01 ∨ op = 0x1F ∨ op = 0x0B then [0, 5] else if op = 0x06 then [5, 1] else [0]

/-- Format and channels of what an operand code names, `cin` channels in the ring. -/
def opElem (b : List Byte) (code : Nat) : Nat :=
  if isBuf code then (bDesc b (code - 1)).elem else if isOut code then (oDesc b (code - 0x41)).2.1
  else if code = 0x40 then fieldLe b 0x10 1 else (wDesc b (code - 0x80)).elem
def opCols (b : List Byte) (cin code : Nat) : Nat :=
  if code = 0x40 then cin else if isWgt code then (wDesc b (code - 0x80)).n else dstCols b code

/-- Cost of one segment of `rows` positions (R100). -/
def segCost (b : List Byte) (rows cin : Nat) : Nat :=
  let mt := ceilDiv rows 128
  (upTo (rpOPS b)).foldl (fun cost i =>
    let o := opWord b i
    let c := o.cores (rpSPAN b)
    cost + 32 + (match opKind o.op with
      | some 0 =>
        let w := wDesc b (o.b - 0x80)
        let unit := max (mt * tileCycles w.elem) (ceilDiv (chunkBytes w.elem 512 * 1025) 65536)
        ceilDiv (ceilDiv w.n 128) (c / o.sk) * (ceilDiv (ceilDiv w.k 512) o.sk * unit + (if 1 < o.sk then 64 else 0))
      | some 1 => ceilDiv mt c * ceilDiv (opCols b cin o.a) 128 * opCycles o.op
      | _ => ceilDiv (ceilDiv (opCols b cin o.dst) 128) c * mt * opCycles o.op)) 256

/-- The header, and LENGTH (R92). -/
def Chart.rpHeaderBad (c : Chart) (b : List Byte) : Bool :=
  b.length != 32 + 16 * rpNOUT b + 32 * rpNW b + 16 * rpNB b + 32 * rpOPS b || rpOPS b == 0 || decide (1024 < rpOPS b)
    || rpSPAN b == 0 || decide (c.hf 0x14 1 < rpSPAN b) || decide (2 ≤ fieldLe b 3 1) || rpNOUT b == 0 || decide (4 < rpNOUT b)
    || decide (8 < rpNW b) || decide (32 < rpNB b) || decide (fieldLe b 7 1 < 2) || decide (8 < fieldLe b 7 1)
    || fieldLe b 8 4 % 4096 != 0 || fieldLe b 0xC 4 == 0 || decide (8 < fieldLe b 0x10 1) || !zeros b 0x11 15

/-- Output descriptor i (R92, R109, R111). -/
def rpOutBad (b : List Byte) (i : Nat) : Bool :=
  let d := oDesc b i
  fieldLe b (35 + 16 * i) 1 != 0 || !zeros b (40 + 16 * i) 8 || decide (8 < d.2.1) || d.2.2 == 0 || (isMx d.2.1 && d.2.2 % 32 != 0)

/-- Whether what a weight descriptor reaches by its TABLE_OA lies in HBM or on-die objects, in pages owned by CHART (R93). The OAs in a panel
table are data that no chart image holds: a segment's read of a panel meets the same bounds (`State.pageFor`, log entry 230). -/
def Chart.weightPlaced (c : Chart) (b : List Byte) (i : Nat) : Bool :=
  let d := wDesc b i
  let n := weightBytes b i
  d.n == 0 || (d.index == 0 && d.k == 0) || (c.inClasses d.oa (max n 1) [1, 8] && c.owned d.oa (max n 1) 2)

/-- Weight descriptor i. -/
def Chart.rpWeightBad (c : Chart) (b : List Byte) (i : Nat) : Bool :=
  let d := wDesc b i
  decide (2 ^ 52 ≤ d.oa) || decide (8 < d.elem) || decide (1 < d.prof) || decide (2 < d.index) || (d.index != 0 && d.prof != 0)
    || !zeros b (32 + 16 * rpNOUT b + 32 * i + 0x13) 13 || (d.index == 1 && d.k != 1) || (d.index == 0 && isMx d.elem && d.k % 32 != 0)
    || !c.weightPlaced b i

/-- Buffer descriptor i. -/
def rpBufBad (b : List Byte) (i : Nat) : Bool :=
  let d := bDesc b i
  let o := 32 + 16 * rpNOUT b + 32 * rpNW b + 16 * i
  decide (1 < d.place) || decide (8 < d.elem) || fieldLe b (o + 2) 2 != 0 || d.off % 256 != 0 || (isMx d.elem && d.cols % 32 != 0)
    || (d.place == 0 && decide (0x1000000 < d.off + d.rows * fmtBytes d.elem d.cols))

/-- Whether an earlier operation than i writes what a code names. -/
def writtenBefore (b : List Byte) (code i : Nat) : Bool := (upTo i).any (fun j => (opWord b j).dst == code)

/-- How the last write of a code before operation i assigned it, 1 by row blocks and 0 by channel blocks; none where nothing wrote it
or a CLUSTER operation did, whose result every core finds in its own cluster (R89). -/
def lastAssign (b : List Byte) (code i : Nat) : Option Nat :=
  match (upTo i).reverse.find? (fun j => (opWord b j).dst == code) with
  | none => none
  | some j => if (opWord b j).scope = 0 then some (if opKind (opWord b j).op = some 1 then 1 else 0) else none

/-- Parameters of ROPE, SOFTMAX_ROW, DROPOUT and MODULATE (R96, R97, R120), `shapes` tensor shapes in the chart. -/
def opParamsBad (b : List Byte) (o : OpWord) (shapes : Nat) : Bool :=
  if o.op = 0x0F then o.p0 == 0 || (o.a != 0x40 && opCols b 0 o.a % o.p0 != 0)
  else if o.op = 0x0C then
    o.p0 == 0 || o.p0 % 2 != 0 || 128 % o.p0 != 0 || o.p1 % o.p0 != 0 || opCols b 0 o.b != o.p0 || opElem b o.b != 0
  else if o.op = 0x0D then decide (shapes ≤ o.p3 % 65536)
  else if o.op = 0x06 then [o.b, o.c].any (fun x => isBuf x && (bDesc b (x - 1)).rows != 1)
  else false

/-- A GEMM's formats and split (R96, R111, R192). -/
def gemmBad (b : List Byte) (o : OpWord) : Bool :=
  let d := wDesc b (o.b - 0x80)
  let h := ceilDiv (ceilDiv d.k 512) o.sk
  !([1, 2, 4].contains o.sk) || gemmClass d.elem == 0 || gemmClass (opElem b o.a) != gemmClass d.elem
    || (d.prof == 1 && decide (1 < o.sk) && h * chunkBytes d.elem 512 % 65536 != 0)

/-- Operation i (R89, R94, R96, R114, R118). -/
def rpOpBad (b : List Byte) (shapes i : Nat) : Bool :=
  let o := opWord b i
  let at_ := 32 + 16 * rpNOUT b + 32 * rpNW b + 16 * rpNB b + 32 * i
  match opKind o.op, opRole b o.dst, opRole b o.a, opRole b o.b, opRole b o.c with
  | some kind, some d, some ra, some rb, some rc =>
    let srcs := [(ra, o.a), (rb, o.b), (rc, o.c)]
    let chan := if kind = 1 then 1 else 0
    decide (1 < o.scope) || decide (8 < o.fmt) || decide (2 < o.mode) || !zeros b (at_ + 0x19) 7
      || ((o.op == 0x1E || o.op == 0x1F) && fieldLe b 3 1 % 2 == 0)
      || !(d == 1 || d == 3) || !(ra == 1 || ra == 2 || ra == 3) || !(rolesB o.op).contains rb || !(rolesC o.op).contains rc
      || (if kind = 0 then gemmBad b o else o.sk != 1) || opParamsBad b o shapes
      || (o.mode == 2 && d != 3) || o.fmt != opElem b o.dst
      || srcs.any (fun x => x.1 == 3 && !writtenBefore b x.2 i)
      || (o.scope == 0 && srcs.any (fun x => x.1 == 2))
      || (o.scope == 0 && srcs.any (fun x => (x.1 == 1 || x.1 == 3) && (lastAssign b x.2 i).isSome && lastAssign b x.2 i != some chan))
  | _, _, _, _, _ => true

/-- Bytes that one core holds of a code's work units, the largest over the operations that name it: each operation's own units, at `rows`
positions (R93, R94). -/
def coreBytes (b : List Byte) (code rows cols elem : Nat) : Nat :=
  ((upTo (rpOPS b)).map (opWord b)).foldl (fun a o =>
    if o.dst == code || o.a == code || o.b == code || o.c == code then
      let c := o.cores (rpSPAN b)
      max a (match opKind o.op with
        | some 0 => ceilDiv (ceilDiv (wDesc b (o.b - 0x80)).n 128) (c / o.sk) * rows * fmtBytes elem 128
        | some 1 => ceilDiv (ceilDiv rows 128) c * 128 * fmtBytes elem cols
        | _ => ceilDiv (ceilDiv (dstCols b o.dst) 128) c * rows * fmtBytes elem 128)
    else a) 0

/-- The end of a core buffer that a program may use: the chunk stage is reserved where it holds a GEMM (R190). -/
def coreLimit (b : List Byte) : Nat :=
  if (upTo (rpOPS b)).any (fun i => opKind (opWord b i).op == some 0) then 0x1C0000 else 0x200000

/-- The regions a core-buffer descriptor takes, buffer by buffer, for slices of `rows` positions: start and bytes. -/
def coreRegions (b : List Byte) (rows : Nat) : List (Nat × Nat) :=
  ((upTo (rpNB b)).filter (fun k => (bDesc b k).place == 1)).map (fun k =>
    let d := bDesc b k
    (d.off, coreBytes b (k + 1) (max rows d.rows) d.cols d.elem))

/-- Whether an output is described otherwise than the shape of the tensor it delivers, in any variant's table (R92). -/
def Chart.outShapeBad (c : Chart) (b : List Byte) (i : Nat) : Bool :=
  let o := oDesc b i
  (upTo c.nvar).any (fun v => (c.stash v).any (fun e =>
    e.tid == o.1 && !(o.2.1 == c.shElem e.shape && o.2.2 == c.dim e.shape 3)))

/-- Program k by itself: descriptors, operations, core buffers, one writer for each output (R85, R92 to R96). -/
def Chart.rpBad (c : Chart) (b : List Byte) (at_ : Nat) : Chk :=
  let oW := at_ + 32 + 16 * rpNOUT b
  let oB := oW + 32 * rpNW b
  let oO := oB + 16 * rpNB b
  firstBad [(c.rpHeaderBad b, 6, at_), (decide (25000 * c.fclk / 100 < fieldLe b 0xC 4), 6, at_ + 0xC)] <|>
    eachOf (upTo (rpNOUT b)) (fun i => firstBad [(rpOutBad b i || c.outShapeBad b i, 6, at_ + 32 + 16 * i)]) <|>
    eachOf (upTo (rpNW b)) (fun i => firstBad [(c.rpWeightBad b i, 6, oW + 32 * i)]) <|>
    eachOf (upTo (rpNB b)) (fun i => firstBad [(rpBufBad b i, 6, oB + 16 * i)]) <|>
    eachOf (upTo (rpOPS b)) (fun i => firstBad [(rpOpBad b (c.cnt 2) i, 6, oO + 32 * i)]) <|>
    firstBad [((coreRegions b 0).any (fun r => decide (coreLimit b < r.1 + r.2)), 6, oB)] <|>
    eachOf (upTo (rpNOUT b)) (fun i =>
      firstBad [(((upTo (rpOPS b)).filter (fun j => (opWord b j).dst == 0x41 + i)).length != 1, 6, at_ + 32 + 16 * i)])

/-- Clusters' buffers that a byte range of on-die DA meets from first to last cluster of a span: whether a region at an offset of
every cluster buffer, or of every core buffer, overlaps it. -/
def spanMeets (first span off n : Nat) (core : Bool) (da len : Nat) : Bool :=
  (upTo span).any (fun i =>
    let base := 0x7C00000000 + (first + i) * 0x2000000
    if core then (upTo 4).any (fun j => meets (base + 0x1000000 + j * 0x200000 + off) n da len) else meets (base + off) n da len)

/-- The regions of a program: offset, bytes, whether in the core buffers; the ring first. -/
def rpRegions (b : List Byte) (cin rows : Nat) : List (Nat × Nat × Bool) :=
  [(fieldLe b 8 4, fieldLe b 7 1 * 128 * fmtBytes (fieldLe b 0x10 1) cin, false)] ++
    ((upTo (rpNB b)).filter (fun k => (bDesc b k).place == 0)).map (fun k =>
      let d := bDesc b k
      (d.off, d.rows * fmtBytes d.elem d.cols, false)) ++
    (coreRegions b rows).map (fun r => (r.1, r.2, true))

/-- Whether two regions of a program overlap: both in the cluster buffers, or both in the core buffers. -/
def ownMeets (l : List (Nat × Nat × Bool)) : Bool :=
  (upTo l.length).any (fun i => (upTo i).any (fun j =>
    let x := l.getD i (0, 0, false)
    let y := l.getD j (0, 0, false)
    x.2.2 == y.2.2 && meets x.1 x.2.1 y.1 y.2.1))

/-- Whether an operand of an operation lacks the shape its role asks for, for slices of `rows` positions with `cin` channels in the ring: A
of a GEMM has K channels, its result N; a vector has as many elements as the operation has channels; every other operand is shaped as the
result. An empty operation asks for nothing (R96, R97; log entry 183). -/
def opShapeBad (b : List Byte) (rows cin : Nat) (o : OpWord) : Bool :=
  let cols := opCols b cin
  let w := wDesc b (o.b - 0x80)
  let n := dstCols b o.dst
  let tall := fun (c : Nat) => isBuf c && decide ((bDesc b (c - 1)).rows < rows)
  let alike := fun (c : Nat) => c == 0 || (isBuf c && (bDesc b (c - 1)).rows == 1 && o.op == 0x06 && cols c == n) || (cols c == n && !tall c)
  if [o.dst, o.a, o.b, o.c].any (codeEmpty b) then false
  else if o.isGemm then (w.k != 0 && cols o.a != w.k) || tall o.a || n != w.n || tall o.dst || !alike o.c
  else if o.op = 0x0C then cols o.a != n || tall o.a || tall o.dst
  else if o.op = 0x0F then cols o.a != n || tall o.a || tall o.dst || cols o.a % o.p0 != 0
  else if o.op = 0x1E then tall o.a || tall o.dst
  else tall o.dst || !alike o.a || !alike o.b || !alike o.c

/-- A FROG entry of variant v against its program (R41, R42, R85, R92, R95, R96, R100, R101). -/
def Chart.frogBad (c : Chart) (v : Nat) (e : StashEnt) : Bool :=
  let b := (c.item 6 e.prog).getD []
  let tab := c.stash v
  let cin := match tab.find? (fun x => x.tid == e.life) with | some l => c.dim l.shape 3 | none => 0
  let p := c.shPositions e.shape
  let rows := p - (e.slices - 1) * (p / max e.slices 1)
  let own := rpRegions b cin rows
  let held := (coreRegions b rows).foldl (fun a r => max a (r.1 + r.2)) 0 +
    (upTo (rpNOUT b)).foldl (fun a i => let d := oDesc b i; a + coreBytes b (0x41 + i) rows d.2.2 d.2.1) 0
  decide (c.cnt 6 ≤ e.prog)
    || ((upTo (rpNOUT b)).filter (fun i => (oDesc b i).1 == e.tid)).length != 1
    || !(upTo (rpNOUT b)).any (fun i => (oDesc b i).1 == e.tid && (oDesc b i).2.1 == c.shElem e.shape && (oDesc b i).2.2 == c.dim e.shape 3)
    || (upTo c.nvar).any (fun u => (c.stash u).any (fun x => x.cls == 4 && x.prog == e.prog && (x.life != e.life || x.slices != e.slices)))
    || own.any (fun r => !r.2.2 && decide (0x1000000 < r.1 + r.2.1))
    || (isMx (fieldLe b 0x10 1) && cin % 32 != 0)
    || (upTo (rpNW b)).any (fun w => (wDesc b w).index == 2 && (wDesc b w).k != p)
    || ownMeets own
    || (e.slices != 0 && (decide (coreLimit b < held) || segCost b rows cin != fieldLe b 0xC 4
      || ((upTo (rpOPS b)).map (opWord b)).any (opShapeBad b rows cin)))

/-- Entry k of variant v's table as a FROG entry. -/
def Chart.frogEntryBad (c : Chart) (v k : Nat) : Bool := (c.stashAt v k).cls == 4 && c.frogBad v (c.stashAt v k)

/-- Byte ranges of OA that an instruction or a block of a context names: source and destination of a MOVE, the raw side of a MOVEX with the
address of its skein and its base, the destination of an INLINE, the status word of a SEAL. -/
def Act.names (a : Act) : List (Nat × Nat) :=
  let oa := fun (addr n : Nat) => if isPort addr then [] else [(addr % 2 ^ 52, n)]
  if a.op = opSEAL then (if uFlag a.u 0 then oa (fieldLe a.u 8 8) 32 else [])
  else if !a.moves then []
  else if a.op = opINLINE then oa a.dst a.len
  else if a.op = opMOVE then oa a.src a.len ++ oa a.dst a.len
  else if a.pack then oa a.src a.len ++ oa a.dst 1 ++ (if fieldLe a.u 8 1 == 3 && a.ref != 0 then oa a.ref a.len else [])
  else oa a.src 1 ++ oa a.dst a.len

/-- The semaphore word of this device that an instruction names. -/
def Act.sems (a : Act) : List (Nat × Nat) :=
  if a.op = opWAITSEM ∨ (a.op = opSIGNAL ∧ fieldLe a.u 1 1 = 0) ∨ (a.op = opMARK ∧ fieldLe a.u 1 1 / 2 = 0) then [(fieldLe a.u 8 8, 8)] else []

/-- An allocation of on-die memory: DA, bytes, and the plan offsets from which and to which it is live. -/
structure DieArea where
  da   : Nat
  n    : Nat
  from_ : Nat
  to_   : Nat
  deriving DecidableEq, Repr

/-- A segment of a record's schedule: entry, program, channels in its ring, rows of its largest slice, and the offset at which it ends. -/
structure SegUse where
  ce   : CluEntry
  prog : List Byte
  cin  : Nat
  rows : Nat
  fin  : Nat

/-- The segments of a record. -/
def Chart.segUses (c : Chart) (r : PlanRec) : List SegUse :=
  let b := c.recSch r
  let all := ((upTo c.nvar).map c.stash).flatten
  ((upTo (schNSEG b)).map (cluEntry b)).filterMap (fun ce =>
    if ce.kind ≠ 0 then none
    else ((c.recFrog r).find? (fun x => x.tid == ce.tensor)).map (fun e =>
      let tab := match r.var with | some v => c.stash v | none => all
      let cin := match tab.find? (fun x => x.tid == e.life) with | some l => c.dim l.shape 3 | none => 0
      let p := c.shPositions e.shape
      ⟨ce, (c.item 6 e.prog).getD [], cin, p - (e.slices - 1) * (p / max e.slices 1),
        match c.entryTime r ce with | some t => t.1 | none => ce.start⟩))

/-- Whether a byte range of on-die memory meets the ring of a segment on its span. -/
def SegUse.meetsRing (u : SegUse) (da n : Nat) : Bool :=
  ((rpRegions u.prog u.cin u.rows).take 1).any (fun r => spanMeets u.ce.first (rpSPAN u.prog) r.1 r.2.1 r.2.2 da n)

/-- The regions of a segment: those of its program and, where it holds a GEMM, the chunk stage of every core (R190). -/
def SegUse.regions (u : SegUse) : List (Nat × Nat × Bool) :=
  rpRegions u.prog u.cin u.rows ++ (if coreLimit u.prog = 0x200000 then [] else [(0x1C0000, 0x40000, true)])

/-- Whether a byte range of on-die memory meets any region of a segment on its span. -/
def SegUse.meetsAny (u : SegUse) (da n : Nat) : Bool :=
  u.regions.any (fun r => spanMeets u.ce.first (rpSPAN u.prog) r.1 r.2.1 r.2.2 da n)

/-- The part of an OA range that lies on-die, live between two plan offsets. -/
def Chart.onDie (c : Chart) (oa n t0 t1 : Nat) : List DieArea :=
  match c.daOf oa with
  | some da => if 0x7C00000000 ≤ da ∧ 0 < n then [DieArea.mk da n t0 t1] else []
  | none => []

/-- The same, live for good. -/
def Chart.onDieEver (c : Chart) (x : Nat × Nat) : List DieArea := c.onDie x.1 x.2 0 (2 ^ 64)

/-- What update program u holds from step to step (R312, R328): its scale word, its groups' deltas and moments, both sides of its pairs. -/
def updKept (u : List Byte) : List (Nat × Nat) :=
  (if fieldLe u 2 2 = 0 then [] else [(fieldLe u 8 8, 8)]) ++
    ((upTo (fieldLe u 2 2)).map (fun i =>
      let g := uGroup u i
      [(g.delta, g.slot * g.chunks)] ++
        (if g.rule = 1 then [(g.momOA, (if g.mom = 0 then 8 else 4) * (chunkN * (g.chunks - 1) + g.last))] else []))).flatten ++
    ((pairsOf u).map (fun p => [(p.1, 2 ^ 21 * p.2.2.1), (p.2.1, 2 ^ 21 * p.2.2.1)])).flatten

/-- What the weight descriptors of a program reach by their TABLE_OA: panel tables, vectors and position-indexed tables (R93). -/
def weightAreas (b : List Byte) : List (Nat × Nat) := (upTo (rpNW b)).map (fun i => ((wDesc b i).oa, weightBytes b i))

/-- What a record keeps on-die (R85). For good: the program area, the staging area, what the update programs hold, the weight tables, the
semaphore and status words that instructions and accumulators name; on-die stash instances and spill. Accumulators from CLEAR_AT on, and
what its streams write beside the rings from the first write to the end of the last stream that reads it (log entry 184). -/
def Chart.ondieKept (c : Chart) (r : PlanRec) : List DieArea :=
  let uses := c.segUses r
  let reads := (r.set.map (fun n => ((c.acts n).filter (fun a => a.moves && a.op != opINLINE && !isPort a.src)).map (fun a => (n, a)))).flatten
  let streams := (r.set.map (fun n => ((c.acts n).filter (fun a => a.moves && !isPort a.dst)).map (fun a =>
    let dst := a.dst % 2 ^ 52
    let len := if a.pack then packMax a.len else a.len
    let last := (reads.filter (fun x => meets (x.2.src % 2 ^ 52) x.2.len dst len)).foldl (fun m x => max m (c.endsAt r x.1)) (c.endsAt r n)
    c.onDie dst len (imgStart (c.img n)) last))).flatten.flatten
  let words := (r.set.map (fun n => ((c.acts n).map (fun a => a.sems ++ (if a.op = opSEAL then a.names else []))).flatten)).flatten
  let step := match r.var with
    | none => []
    | some v =>
      let u := c.updProg (c.vUPDATE v)
      ((c.stash v).map (fun e => ((upTo (c.vM v)).map (fun m =>
        (if e.stored && e.tier == 0 then c.onDieEver (e.homeAt m, e.budget) else []) ++
        (if e.packed && e.stier == 0 then c.onDieEver (e.spillAt m, e.allow) else []))).flatten)).flatten ++
      ((upTo (fieldLe u 0 2)).map (fun a =>
        let d := accDesc u a
        c.onDie d.oa (4 * d.elems) d.clear r.fin ++ c.onDieEver (d.sem, 8))).flatten
  let ever := [(c.progOA, c.progBytes), (c.stageOA, c.stageBytes)] ++ words ++
    ((upTo (c.cnt 7)).map (fun k => updKept ((c.item 7 k).getD []))).flatten ++
    ((upTo (c.cnt 6)).map (fun k => weightAreas ((c.item 6 k).getD []))).flatten
  (ever.map c.onDieEver).flatten ++ step ++ streams.filter (fun a => !uses.any (fun u => u.meetsRing a.da a.n))

/-- Bytes of a core buffer that a segment takes besides its named regions: its outputs' tiles, wherever they are placed (R93). -/
def SegUse.outBytes (u : SegUse) : Nat :=
  (upTo (rpNOUT u.prog)).foldl (fun a i => let d := oDesc u.prog i; a + coreBytes u.prog (0x41 + i) u.rows d.2.2 d.2.1) 0

/-- Whether a core of a segment's span lacks room for the outputs' tiles beside its regions, the chunk stage and what else is live in that
core's buffer. -/
def SegUse.crowded (u : SegUse) (live : List DieArea) : Bool :=
  let own := u.regions.foldl (fun a r => if r.2.2 then a + r.2.1 else a) u.outBytes
  decide (0 < u.outBytes) && (upTo (4 * rpSPAN u.prog)).any (fun q =>
    let base := 0x7C00000000 + (u.ce.first + q / 4) * 0x2000000 + 0x1000000 + q % 4 * 0x200000
    decide (0x200000 < live.foldl (fun a k => a + (min (k.da + k.n) (base + 0x200000) - max k.da base)) own))

/-- Whether a segment of a record runs over on-die memory that the record keeps while it is live (R85, R190), or lacks room beside it;
segments of one time run on different clusters (R87). -/
def Chart.regionBad (c : Chart) (r : PlanRec) : Bool :=
  let uses := c.segUses r
  let kept := c.ondieKept r
  uses.any (fun u =>
    let live := kept.filter (fun k => decide (u.ce.start < k.to_) && decide (k.from_ < u.fin))
    live.any (fun k => u.meetsAny k.da k.n) || u.crowded live)

/-- Weights with Cyloth-W panels in parts: table address and SPLITK of every GEMM of a program with SPLITK above 1 (R192). -/
def splitTables (b : List Byte) : List (Nat × Nat) :=
  ((upTo (rpOPS b)).map (opWord b)).filterMap (fun o =>
    if opKind o.op = some 0 && decide (1 < o.sk) && (wDesc b (o.b - 0x80)).prof == 1 then some ((wDesc b (o.b - 0x80)).oa, o.sk) else none)

/-- Walks of a schedule set: table address of the descriptor each names. -/
def Chart.walkTables (c : Chart) (b : List Byte) : List (Nat × CluEntry) :=
  ((upTo (schNSEG b)).map (cluEntry b)).filterMap (fun ce =>
    if ce.kind = 2 then some ((wDesc ((c.item 6 ce.tensor).getD []) ce.slice).oa, ce) else none)

/-- Programs that the segments of a record's schedule run, with the earliest start of each. -/
def Chart.segProgs (c : Chart) (r : PlanRec) : List (Nat × CluEntry) :=
  let b := c.recSch r
  ((upTo (schNSEG b)).map (cluEntry b)).filterMap (fun ce =>
    if ce.kind ≠ 0 then none else ((c.recFrog r).find? (fun e => e.tid == ce.tensor)).map (fun e => (e.prog, ce)))

/-- Whether a record runs a segment whose walk is missing (R192). -/
def Chart.walkMissing (c : Chart) (r : PlanRec) : Bool :=
  let walks := c.walkTables (c.recSch r)
  (c.segProgs r).any (fun p => (splitTables ((c.item 6 p.1).getD [])).any (fun t => !walks.any (fun w => w.1 == t.1)))

/-- Check 16. -/
def Chart.check16 (c : Chart) : Chk :=
  let body := fun k => (c.item 6 k).getD []
  let splits := ((upTo (c.cnt 6)).map (fun k => splitTables (body k))).flatten
  eachOf (upTo (c.cnt 6)) (fun k => c.rpBad (body k) (c.itemAt 6 k).1) <|>
    eachOf (upTo c.nvar) (fun v => eachOf (upTo (c.vStashCount v)) (fun k =>
      firstBad [(c.frogEntryBad v k, 1, 64 * (c.vStashFirst v + k))])) <|>
    eachOf (upTo (c.cnt 6)) (fun k =>
      firstBad [((splitTables (body k)).any (fun t => splits.any (fun x => x.1 == t.1 && x.2 != t.2)), 6, (c.itemAt 6 k).1)]) <|>
    eachOf c.recs (fun r => firstBad [(c.regionBad r, r.sec, r.off)]) <|>
    eachOf c.recs (fun r => firstBad [(c.walkMissing r, r.sec, r.off)])

/-! ## Check 17: update programs (R311 to R313, R328) -/

/-- The header and LENGTH. -/
def Chart.upHeaderBad (c : Chart) (b : List Byte) : Bool :=
  b.length != 64 + 32 * fieldLe b 0 2 + 96 * fieldLe b 2 2 + 32 * fieldLe b 4 2 || decide (4096 < fieldLe b 0 2)
    || decide (4096 < fieldLe b 2 2) || decide (1024 < fieldLe b 4 2) || fieldLe b 6 1 == 0 || decide (c.hf 0x14 1 < fieldLe b 6 1)
    || !zeros b 0x14 44 || !c.inClasses (fieldLe b 8 8) 8 [8] || fieldLe b 8 8 % 8 != 0

/-- Accumulator a (R308, R311). -/
def Chart.upAccBad (c : Chart) (b : List Byte) (a : Nat) : Bool :=
  let d := accDesc b a
  d.oa % 65536 != 0 || decide (1 < d.fmt) || fieldLe b (64 + 32 * a + 0xF) 1 != 0 || !c.inClasses d.oa (4 * d.elems) [1, 8]
    || !c.owned d.oa (4 * d.elems) 2 || d.sem % 8 != 0 || !c.inClasses d.sem 8 [8]

/-- Bytes of a working copy of n parameters, a short block counted by R312. -/
def wcBytes (elem n : Nat) : Nat := n / 32 * fmtBytes elem 32 + (if n % 32 = 0 then 0 else fmtBytes elem (n % 32))

/-- Whether every chunk of a group fits places of the allowed classes (R312, R313). -/
def Chart.chunksPlaced (c : Chart) (g : UGroup) : Bool :=
  let full := g.chunks - 1
  let mom := if g.mom = 0 then 4 else 2
  c.inClasses (c.masterOA g.group) (4 * chunkN * full + 4 * g.last) [1, 5]
    && c.inClasses g.delta (g.slot * g.chunks) [1, 8, 4]
    && c.inClasses g.wcOA (wcBytes g.wc chunkN * full + wcBytes g.wc g.last) [1, 4]
    && (g.rule == 0 || c.inClasses g.momOA (2 * mom * chunkN * full + 2 * mom * g.last) [1, 8, 4])
    && (upTo 64).all (fun j => !g.mask.testBit j || c.inClasses (g.peerOA + j * g.stride * 2 ^ 21) (4 * chunkN * full + 4 * g.last) [6])

/-- Group descriptor i. -/
def Chart.upGroupBad (c : Chart) (b : List Byte) (i : Nat) : Bool :=
  let g := uGroup b i
  let o := 64 + 32 * fieldLe b 0 2 + 96 * i
  decide (1 < g.rule) || decide (1 < g.mom) || g.wc == 0 || decide (8 < g.wc) || fieldLe b (o + 5) 1 != 0 || fieldLe b (o + 7) 1 != 0
    || decide (2 < g.mode) || (g.mode == 2 && decide (8191 < g.tid)) || (g.acc != 0xFFFF && decide (fieldLe b 0 2 ≤ g.acc))
    || !(upTo (c.cnt 12)).any (fun k => fieldLe (c.sec 12) (32 * k) 2 == g.group) || decide (65536 < g.chunks)
    || (g.chunks != 0 && (g.slot == 0 || g.slot % 4096 != 0 || g.last == 0 || decide (chunkN < g.last) || !c.chunksPlaced g
      || (g.acc != 0xFFFF && decide ((accDesc b g.acc).elems < chunkN * (g.chunks - 1) + g.last))))

/-- Whether the 256 GiB range of an OA would be a RUN at install (R258, R267). -/
def Chart.inRun (c : Chart) (page : Nat) : Bool :=
  let w := page / 131072 * 131072
  c.objs.any (fun o => decide (o.page ≤ w) && decide (w + 131072 ≤ o.page + o.pages) && (o.da + (w - o.page)) % 131072 == 0)

/-- Whether a range is one object of a class whole: its pages are the object's (R328). -/
def Chart.wholeObject (c : Chart) (oa pages cls : Nat) : Bool :=
  c.objs.any (fun o => o.page == oa / 2 ^ 21 && o.pages == pages && o.cls == cls)

/-- Pair k of a program: a live range, and a shadow object of its size and class (R328). -/
def Chart.upPairBad (c : Chart) (b : List Byte) (k : Nat) : Bool :=
  let all := pairsOf b
  let o := 64 + 32 * fieldLe b 0 2 + 96 * fieldLe b 2 2 + 32 * k
  match all[k]? with
  | none => true
  | some (live, shadow, pages, own) =>
    let n := 2 ^ 21 * pages
    let cls := match c.objAt (live / 2 ^ 21) with | some x => x.cls | none => 0
    let others := ((all.take k).map (fun p => [(p.1, 2 ^ 21 * p.2.2.1), (p.2.1, 2 ^ 21 * p.2.2.1)])).flatten
    live % 2 ^ 21 != 0 || shadow % 2 ^ 21 != 0 || !zeros b (o + 21) 11 || !(own == 1 || own == 2) || pages == 0
      || !c.inClasses live n [cls] || !c.wholeObject shadow pages cls || (pagesOf live n ++ pagesOf shadow n).any c.inRun
      || !c.owned live n own || meets live n shadow n || others.any (fun r => meets live n r.1 r.2 || meets shadow n r.1 r.2)

/-- Byte ranges that a program's descriptors name: scale word, accumulators with their semaphore words, and of a group that holds chunks
its base, deltas, moments, working copies and partials. -/
def Chart.upNames (c : Chart) (b : List Byte) : List (Nat × Nat) :=
  (fieldLe b 8 8, 8) :: ((upTo (fieldLe b 0 2)).map (fun a => [((accDesc b a).oa, 4 * (accDesc b a).elems), ((accDesc b a).sem, 8)])).flatten ++
    ((upTo (fieldLe b 2 2)).map (fun i =>
      let g := uGroup b i
      let n := chunkN * (g.chunks - 1) + g.last
      if g.chunks = 0 then []
      else [(c.masterOA g.group, 4 * n), (g.delta, g.slot * g.chunks), (g.wcOA, wcBytes g.wc (chunkN * (g.chunks - 1)) + wcBytes g.wc g.last)] ++
        (if g.rule = 0 then [] else [(g.momOA, (if g.mom = 0 then 8 else 4) * n)]) ++
        ((upTo 64).filter (fun j => g.mask.testBit j)).map (fun j => (g.peerOA + j * g.stride * 2 ^ 21, 4 * n)))).flatten

/-- Whether a byte range meets a shadow object of any program. -/
def Chart.meetsShadow (c : Chart) (x : Nat × Nat) : Bool := c.pairs.any (fun p => meets x.1 x.2 p.2.1 (2 ^ 21 * p.2.2.1))

/-- A program by itself. -/
def Chart.upBad (c : Chart) (b : List Byte) (at_ : Nat) : Chk :=
  let oG := at_ + 64 + 32 * fieldLe b 0 2
  let oP := oG + 96 * fieldLe b 2 2
  firstBad [(c.upHeaderBad b, 7, at_)] <|>
    eachOf (upTo (fieldLe b 0 2)) (fun a => firstBad [(c.upAccBad b a, 7, at_ + 64 + 32 * a)]) <|>
    firstBad [(decide (2 ^ 36 < (upTo (fieldLe b 0 2)).foldl (fun t a => t + 4 * (accDesc b a).elems) 0), 7, at_)] <|>
    eachOf (upTo (fieldLe b 2 2)) (fun i => firstBad [(c.upGroupBad b i, 7, oG + 96 * i)]) <|>
    eachOf (upTo (fieldLe b 4 2)) (fun k => firstBad [(c.upPairBad b k, 7, oP + 32 * k)]) <|>
    firstBad [((c.upNames b).any c.meetsShadow, 7, at_)]

/-- Whether entry i of a set shares a cluster with an entry that is taken before it and not yet over. -/
def Chart.clashes (c : Chart) (r : PlanRec) (i : Nat) : Bool :=
  let b := c.recSch r
  let x := cluEntry b i
  match c.entryTime r x with
  | none => false
  | some (_, span) => (upTo i).any (fun j =>
    let y := cluEntry b j
    match c.entryTime r y with
    | none => false
    | some (e, n) => decide (x.start < e) && meets x.first span y.first n)

/-- The update entries of a variant: one for each chunk, with free cluster time (R313). -/
def Chart.chunksScheduled (c : Chart) (r : PlanRec) (v : Nat) : Bool :=
  let u := c.updProg (c.vUPDATE v)
  let b := c.recSch r
  let keys := ((upTo (schNSEG b)).map (cluEntry b)).filterMap (fun ce =>
    if ce.kind = 1 then some (if ce.slice < (uGroup u ce.tensor).chunks ∧ ce.tensor < fieldLe u 2 2 then chunkKey ce.tensor ce.slice else 2 ^ 40)
    else none)
  !hasTwice keys && !keys.contains (2 ^ 40) && (chunkKeys u).all (fun k => keys.contains k)
    && (upTo (schNSEG b)).all (fun i => !c.clashes r i || !((cluEntry b i).kind == 1 || (upTo i).any (fun j => (cluEntry b j).kind == 1)))

/-- Merges byte ranges: whether a page is covered by the ranges of a list, with fuel. -/
def coveredBy (l : List (Nat × Nat)) : Nat → Nat → Nat → Bool
  | 0, lo, hi => decide (hi ≤ lo)
  | fuel + 1, lo, hi =>
    if hi ≤ lo then true
    else match l.find? (fun r => decide (r.1 ≤ lo) && decide (lo < r.1 + r.2)) with
      | some r => coveredBy l fuel (r.1 + r.2) hi
      | none => false

/-- What an act writes: where, the most bytes it may write, and those it writes whatever its data: a pack of n blocks a header and n block
headers at least, a SEAL its status word (R156, R227). -/
def Act.writes (a : Act) : List (Nat × Nat × Nat) :=
  let at_ := fun (dst most least : Nat) => if isPort dst then [] else [(dst % 2 ^ 52, most, least)]
  if a.op = opSEAL then (if uFlag a.u 0 then at_ (fieldLe a.u 8 8) 32 32 else [])
  else if !a.moves then []
  else if a.pack then at_ a.dst (packMax a.len) (32 + 32 * blockCount a.len)
  else at_ a.dst a.len a.len

/-- Whether the plan writes of a variant leave part of a paired page that they touch (R313, whole pages). -/
def Chart.partPage (c : Chart) (v : Nat) : Bool :=
  let writes := ((c.variantSet v).map (fun n => ((c.acts n).map Act.writes).flatten)).flatten
  let sure := writes.map (fun w => (w.1, w.2.2))
  (pairsOf (c.updProg (c.vUPDATE v))).any (fun p =>
    (upTo p.2.2.1).any (fun k =>
      let lo := p.1 + 2 ^ 21 * k
      writes.any (fun w => meets w.1 w.2.1 lo (2 ^ 21)) && !coveredBy sure (sure.length + 1) lo (lo + 2 ^ 21)))

/-- Byte ranges that the weight descriptors of a recompute program name (R93). -/
def rpNames (b : List Byte) : List (Nat × Nat) := (upTo (rpNW b)).map (fun i => ((wDesc b i).oa, weightBytes b i))

/-- Check 17. -/
def Chart.check17 (c : Chart) : Chk :=
  eachOf (upTo c.nvar) (fun v => firstBad [(c.vUPDATE v != 0xFFFF && decide (c.cnt 7 ≤ c.vUPDATE v), 0, 128 * v + 0x22)]) <|>
    eachOf (upTo (c.cnt 7)) (fun k => c.upBad ((c.item 7 k).getD []) (c.itemAt 7 k).1) <|>
    eachOf (upTo (c.cnt 6)) (fun k =>
      firstBad [((rpNames ((c.item 6 k).getD [])).any c.meetsShadow, 6, (c.itemAt 6 k).1)]) <|>
    eachOf (upTo (c.cnt 4)) (fun k =>
      let list := (c.item 4 k).getD []
      eachOf (upTo (list.length / 32)) (fun j =>
        let e := entryAt list j
        firstBad [(c.meetsShadow (e.src, e.len) || (!isPort e.dst && c.meetsShadow (e.dst, e.len)), 4, (c.itemAt 4 k).1 + 32 * j)])) <|>
    eachOf (upTo (c.cnt 3)) (fun n => firstBad [(!c.unused n && (c.acts n).any (fun a => (a.names ++ a.sems).any c.meetsShadow), 3, 64 * n)]) <|>
    eachOf c.recs (fun r => match r.var with
      | none => none
      | some v => if c.vUPDATE v = 0xFFFF then none
        else firstBad [(!c.chunksScheduled r v || c.partPage v, 7, (c.itemAt 7 (c.vUPDATE v)).1)])

end Sys2Proof.Machine
end

