-- ==== Sys2Proof/Machine/ChartCheck3.lean ====
section
/-! DEFINITION. Machine/ChartCheck3.lean: check 18 of *Chart checks* (R48, R182, R192, R198, R235 to R244). -/

namespace Sys2Proof.Machine

/-! ## Owners and form (R235, R237 to R240) -/

/-- Resources of a kind (*Slot kinds*). -/
def slotKindMax (kind : Nat) : Nat := [0, 248, 4, 4, 1, 1, 32, 64, 64].getD kind 0

/-- Whether an owner code is valid on a resource of a record (*Owner codes*). -/
def Chart.ownerOk (c : Chart) (r : PlanRec) (kind idx code : Nat) : Bool :=
  let mem := kind == 1 || kind == 4 || kind == 5
  if code ≤ 0x3FFF then r.set.contains code
  else if 0x8000 ≤ code ∧ code ≤ 0xBFFF then mem && r.set.contains (code - 0x8000)
  else if 0xC000 ≤ code ∧ code < 0xC000 + c.hf 0x14 1 then kind == 1
  else if 0xE000 ≤ code ∧ code ≤ 0xE003 then kind == 1 || ((kind == 2 || kind == 3) && code - 0xE000 == idx)
  else if code = 0xFFF9 ∨ code = 0xFFFE then mem
  else if code = 0xFFFA then kind == 8
  else if code = 0xFFFC then kind == 1 || kind == 6
  else if code = 0xFFFD then mem || kind == 6
  else code == 0xFFFF

/-- Phase k of a resource with n phases from `first`: form, ascending START, HOST positions of a host-link ring, owners. -/
def Chart.phaseBad (c : Chart) (r : PlanRec) (b : List Byte) (res first k : Nat) : Bool :=
  let p := schPhase b (first + k)
  let ring := schRing b p
  let kind := res / 4096
  decide (2 ^ 35 ≤ p.1) || p.2.1 == 0 || decide (2 ^ 20 < p.2.1) || decide (schNOWNER b < p.2.2 + p.2.1)
    || (k != 0 && decide (p.1 ≤ (schPhase b (first + k - 1)).1))
    || ((kind == 4 || kind == 5) && (p.2.1 % 32 != 0 ||
        ring.zipIdx.any (fun (x : Nat × Nat) => decide (32 - schLinkHost b ≤ x.2 % 32) && x.1 != 0xFFFE)))
    || ring.any (fun code => !c.ownerOk r kind (res % 4096) code)

/-- Resource entry i. -/
def Chart.resBad (c : Chart) (r : PlanRec) (b : List Byte) (i : Nat) : Bool :=
  let e := schEntry b i
  decide (slotKindMax (e.1 / 4096) ≤ e.1 % 4096) || (upTo i).any (fun j => (schEntry b j).1 == e.1)
    || decide (schNPHASE b < e.2.2 + e.2.1) || (upTo e.2.1).any (c.phaseBad r b e.1 e.2.2)

/-- The header, LENGTH and the padding of the owner codes. -/
def schHeaderBad (b : List Byte) : Bool :=
  let body := 32 + 8 * schNRES b + 16 * schNPHASE b + 16 * schNSEG b + 16 * schNBAR b + 2 * schNOWNER b
  b.length != body + (ceilDiv (2 * schNOWNER b) 16 * 16 - 2 * schNOWNER b) || !zeros b body (b.length - body)
    || decide (1024 < schNRES b) || schHost b == 0 || decide (4 < schHost b) || schLinkHost b == 0 || decide (32 < schLinkHost b)
    || decide (2 ^ 24 < schNOWNER b) || decide (2 ^ 22 < schNSEG b) || decide (2 ^ 20 < schNBAR b) || !zeros b 0x14 12

/-- The tick at which a walk entry of a record ends. -/
def Chart.walkDone (c : Chart) (r : PlanRec) (ce : CluEntry) : Nat :=
  Machine.walkDone (c.recSch r) c.fclk r.fin ce (wDesc ((c.item 6 ce.tensor).getD []) ce.slice)

/-- Cluster entry e: form, place, and what it names (R87, R239, R241). -/
def Chart.cluBad (c : Chart) (r : PlanRec) (b : List Byte) (e : Nat) : Bool :=
  let ce := cluEntry b e
  let o := 32 + 8 * schNRES b + 16 * schNPHASE b + 16 * e
  let lc := c.hf 0x14 1
  fieldLe b (o + 0xE) 2 != 0 || decide (2 < ce.kind) || (ce.barrier != 0xFFFF && decide (4095 < ce.barrier))
    || (e != 0 && decide (ce.start < (cluEntry b (e - 1)).start)) || c.clashes r e
    || (if ce.kind = 0 then
        match (c.recFrog r).find? (fun x => x.tid == ce.tensor) with
        | none => true
        | some x => decide (lc < ce.first + rpSPAN ((c.item 6 x.prog).getD [])) || decide (x.slices ≤ ce.slice)
            || (match r.var with | some v => decide (c.vM v ≤ ce.mb) | none => false)
      else if ce.kind = 1 then
        match r.var with
        | none => true
        | some v => c.vUPDATE v == 0xFFFF || decide (lc < ce.first + fieldLe (c.updProg (c.vUPDATE v)) 6 1)
      else
        decide (63 < ce.first) || decide (c.cnt 6 ≤ ce.tensor) || decide (rpNW ((c.item 6 ce.tensor).getD []) ≤ ce.slice)
          || (upTo e).any (fun j => let y := cluEntry b j
                y.kind == 2 && y.first == ce.first && decide (ce.start < c.walkDone r y)))

/-- A record in which every context is a stream: by it a set is judged by itself. -/
def Chart.anyRec (_c : Chart) (sch : Nat) : PlanRec := ⟨9, 0, upTo 0x4000, sch, 2 ^ 40, none⟩

/-- Whether a phase entry or an owner code of a set that no resource entry names breaks R235, R237 or R238: START, LEN, the place of the
ring; a reserved code. -/
def Chart.spareBad (c : Chart) (b : List Byte) : Bool :=
  (upTo (schNPHASE b)).any (fun k =>
      let p := schPhase b k
      decide (2 ^ 35 ≤ p.1) || p.2.1 == 0 || decide (2 ^ 20 < p.2.1) || decide (schNOWNER b < p.2.2 + p.2.1))
    || (upTo (schNOWNER b)).any (fun k => (upTo 9).all (fun kind => (upTo 4).all (fun i =>
        !c.ownerOk (c.anyRec 0) kind i (schOwner b k))))

/-- Whether a set breaks what R235, R237 and R238 ask of every set, whatever names it. -/
def Chart.anySetBad (c : Chart) (k : Nat) : Bool :=
  let b := (c.item 9 k).getD []
  schHeaderBad b || c.spareBad b || (upTo (schNRES b)).any (c.resBad (c.anyRec k) b)

/-- The form and owners of a record's set. -/
def Chart.formBad (c : Chart) (r : PlanRec) (b : List Byte) : Bool :=
  (upTo (schNRES b)).any (c.resBad r b) || (upTo (schNSEG b)).any (c.cluBad r b)

/-! ## Capacity (R241, R242, R244) -/

/-- Whether a context lacks slots on some resource of its path, or on its skein engine (R182, R186). -/
def Chart.streamShort (c : Chart) (r : PlanRec) (n : Nat) : Bool :=
  let b := c.recSch r
  let start := imgStart (c.img n)
  let acts := c.acts n
  (sumLoads (c.loads r n)).any (fun p => decide (c.capacity r p.1 n start r.fin < p.2)) ||
    [0, 1].any (fun dir =>
      let need := skeinSlots acts (dir == 1)
      decide (0 < need) && (enginesOf b (7 + dir) n).all (fun e =>
        decide (slotsOf b c.fclk ((7 + dir) * 4096 + e) r.fin (· == n) start r.fin < need)))

/-- What an interval leaves of some others. -/
def cutBy (x : Nat × Nat) (l : List (Nat × Nat)) : List (Nat × Nat) :=
  ((l.map (fun p => [(p.1, min p.2 x.1), (max p.1 x.2, p.2)])).flatten).filter (fun p => decide (p.1 < p.2))

/-- The length that intervals cover together. -/
def unionLen : List (Nat × Nat) → Nat
  | [] => 0
  | x :: t => (t.foldl (fun l y => cutBy y l) [x]).foldl (fun a p => a + (p.2 - p.1)) 0 + unionLen t

/-- Whether a logical mover lacks time (R198, R241): the cycles of its streams against the plan time of their windows, each from its START to
its last owned slot, to the end of plan time for a stream that owns none. -/
def Chart.moverShort (c : Chart) (r : PlanRec) (m : Nat) : Bool :=
  let b := c.recSch r
  let mine := r.set.filter (fun n => imgMover (c.img n) == m)
  let cycles := mine.foldl (fun a n => a + ((c.acts n).map Act.cycles).foldl (· + ·) 0) 0
  let win := mine.map (fun n => let x := lastSlot b c.fclk r.fin n; (imgStart (c.img n), if x = 0 then r.fin else x))
  decide (unionLen win * c.fclk / 100 < cycles)

/-- Whether the spill-flagged slots of a stream miss the allowances it must carry (R48, R244): out on the write stream, back on the
fetch stream. -/
def Chart.spillShort (c : Chart) (r : PlanRec) (n : Nat) (back : Bool) : Bool :=
  match r.var with
  | none => false
  | some v =>
    let mine := (c.stash v).filter (fun e => e.packed && decide (0 < e.allow) && (if back then e.fetch == n else e.write == n))
    let loads := (mine.map (fun e => ((upTo (c.vM v)).map (fun m => c.oaLoad (e.spillAt m) e.allow (!back))).flatten)).flatten
    (sumLoads loads).any (fun p => decide (c.capacity r p.1 (0x8000 + n) (imgStart (c.img n)) r.fin < p.2))

/-! ## Segments, walks, barriers -/

/-- Bytes of weight panels that a program's segment reads at worst size, over its whole span (R93, R159). -/
def panelRead (b : List Byte) : Nat :=
  ((upTo (rpOPS b)).map (opWord b)).foldl (fun a o =>
    if opKind o.op = some 0 then
      let d := wDesc b (o.b - 0x80)
      a + (if o.scope = 0 then 1 else rpSPAN b) * ceilDiv d.n 128 * (if d.prof = 1 then packMax d.panelBytes else d.panelBytes)
    else a) 0

/-- Whether the clusters' HBM slots miss a segment's panels within its WORK_CYCLES. -/
def Chart.segShort (c : Chart) (r : PlanRec) (ce : CluEntry) : Bool :=
  match (c.recFrog r).find? (fun x => x.tid == ce.tensor) with
  | none => true
  | some x =>
    let p := (c.item 6 x.prog).getD []
    let b := c.recSch r
    let mine := fun (code : Nat) => decide (0xC000 + ce.first ≤ code) && decide (code < 0xC000 + ce.first + rpSPAN p)
    let slots := (upTo 248).foldl (fun a ch =>
      a + slotsOf b c.fclk (0x1000 + ch) r.fin mine ce.start (ce.start + ceilDiv (fieldLe p 0xC 4 * 100) c.fclk)) 0
    decide (slots * (31 - schHost b) * 64 < panelRead p)

/-- Segment entries of a record. -/
def Chart.segEntries (c : Chart) (r : PlanRec) : List CluEntry :=
  let b := c.recSch r
  ((upTo (schNSEG b)).map (cluEntry b)).filter (fun ce => ce.kind == 0)

/-- Whether every slice of every FROG instance of a variant has exactly one segment entry, and in a swatch none has two: a segment runs
once for all entries that name its program, whichever of them its entry names (R95). -/
def Chart.slicesOk (c : Chart) (r : PlanRec) : Bool :=
  let key := fun (p mb k : Nat) => (p * 256 + mb) * 65536 + k
  let keys := (c.segEntries r).filterMap (fun ce =>
    ((c.recFrog r).find? (fun e => e.tid == ce.tensor)).map (fun e => key e.prog ce.mb ce.slice))
  !hasTwice keys && (match r.var with
    | none => true
    | some v => ((c.stash v).filter (fun e => e.cls == 4)).all (fun e => (upTo (c.vM v)).all (fun m =>
        (upTo e.slices).all (fun k => keys.contains (key e.prog m k)))))

/-- Whether a walk ends before the first segment that needs it. -/
def Chart.walksOk (c : Chart) (r : PlanRec) : Bool :=
  let walks := c.walkTables (c.recSch r)
  (c.segProgs r).all (fun p => (splitTables ((c.item 6 p.1).getD [])).all (fun t =>
    walks.any (fun w => w.1 == t.1 && decide (c.walkDone r w.2 ≤ p.2.start))))

/-- Arrivals at SCOPE 1 barriers in one run of a context: how many at each ID. -/
def Chart.arrivals (c : Chart) (n : Nat) : List Load :=
  sumLoads (((c.acts n).filter (fun a => a.op == opBARRIER && uFlag a.u 0 && fieldLe a.u 4 4 != 0)).map (fun a => (fieldLe a.u 2 2, 1)))

/-- Generations that a set reaches at an ID (R241): the larger of the most arrivals of one stream and the cluster entries that name it;
an ID that streams name only with SCOPE 0 needs no entry. -/
def Chart.generations (c : Chart) (r : PlanRec) : List Load :=
  let b := c.recSch r
  let most := (r.set.map c.arrivals).flatten.foldl (fun (m : List Load) (p : Load) =>
    SMap.put (fun _ => 0) m p.1 (max (SMap.get (fun _ => 0) m p.1) p.2)) []
  let named := sumLoads ((((upTo (schNSEG b)).map (cluEntry b)).filter (fun ce => ce.barrier != 0xFFFF)).map (fun ce => (ce.barrier, 1)))
  let local_ := fun (id : Nat) => r.set.any (fun n => (c.acts n).any (fun a => a.op == opBARRIER && !uFlag a.u 0 && fieldLe a.u 2 2 == id))
  named.foldl (fun (m : List Load) (p : Load) =>
    let have_ := SMap.get (fun _ => 0) m p.1
    if have_ = 0 && local_ p.1 then m else SMap.put (fun _ => 0) m p.1 (max have_ p.2)) most

/-- Barrier entries: form, every generation reached has one, and none falls inside a segment. -/
def Chart.barriersOk (c : Chart) (r : PlanRec) : Bool :=
  let b := c.recSch r
  let bars := (upTo (schNBAR b)).map (barEntry b)
  let o := 32 + 8 * schNRES b + 16 * schNPHASE b + 16 * schNSEG b
  let spans := (c.segEntries r).filterMap (fun ce => (c.entryTime r ce).map (fun t => (ce.start, t.1)))
  (upTo (schNBAR b)).all (fun k => fieldLe b (o + 16 * k + 2) 2 == 0)
    && bars.all (fun e => decide (e.1 ≤ 4095) && decide (1 ≤ e.2.1) && e.2.2 % 32 == 0
        && !spans.any (fun t => decide (t.1 < e.2.2) && decide (e.2.2 < t.2)))
    && (c.generations r).all (fun p => (upTo p.2).all (fun g => bars.any (fun e => e.1 == p.1 && e.2.1 == g + 1)))

/-- A record against *Schedule conditions*, in their order. -/
def Chart.scheduleBad (c : Chart) (r : PlanRec) : Bool :=
  let b := c.recSch r
  c.formBad r b || r.set.any (c.streamShort r) || (upTo 256).any (c.moverShort r)
    || r.set.any (fun n => c.spillShort r n false || c.spillShort r n true)
    || !c.slicesOk r || (c.segEntries r).any (c.segShort r) || !c.walksOk r || !c.barriersOk r

/-- Check 18: every set by itself, then each variant and swatch with its set. -/
def Chart.check18 (c : Chart) : Chk :=
  eachOf (upTo (c.cnt 9)) (fun k => firstBad [(c.anySetBad k, 9, (c.itemAt 9 k).1)]) <|>
    eachOf c.recs (fun r => firstBad [(decide (c.cnt 9 ≤ r.sch), r.sec, if r.sec = 0 then r.off + 0x38 else r.off + 8),
      (c.scheduleBad r, 9, (c.itemAt 9 r.sch).1)])

end Sys2Proof.Machine
end

