-- ==== Sys2Proof/Machine/ChartCheck4.lean ====
section
/-! DEFINITION. Machine/ChartCheck4.lean: checks 19 to 25 of *Chart checks*, and the end of validation (R59, R61, R65 to R69, R81,
R262, R265 to R267, R277, R290, R297). -/

namespace Sys2Proof.Machine

/-! ## Check 19: ownership (R65) -/

/-- An ownership entry's kind, owner, port, first resource and count. -/
def Chart.ownEnt (c : Chart) (e : Nat) : Nat × Nat × Nat × Nat × Nat :=
  let f := fun o n => fieldLe (c.sec 11) (16 * e + o) n
  (f 0 1, f 1 1, f 2 1, f 4 4, f 8 4)

/-- Resources of a kind: contexts, queues, pages, vectors. -/
def ownLimit (kind : Nat) : Nat := [0, 16384, 64, 2 ^ 31, 2048].getD kind 0

/-- Ownership entry e. -/
def Chart.ownBad (c : Chart) (e : Nat) : Bool :=
  let (kind, own, port, f, n) := c.ownEnt e
  kind == 0 || decide (4 < kind) || own == 0 || decide (3 < own) || (if own = 3 then decide (3 < port) else port != 0)
    || fieldLe (c.sec 11) (16 * e + 3) 1 != 0 || fieldLe (c.sec 11) (16 * e + 0xC) 4 != 0 || decide (ownLimit kind < f + n)
    || (upTo e).any (fun j => let x := c.ownEnt j; x.1 == kind && meets f n x.2.2.2.1 x.2.2.2.2)

/-- Check 19: entries; the boundary vector and every vector raised; every context of a stream set; moments and working copies. -/
def Chart.check19 (c : Chart) : Chk :=
  let plan := fun (kind i : Nat) => c.ownerOf kind i == some 2
  eachOf (upTo (c.cnt 11)) (fun e => firstBad [(c.ownBad e, 11, 16 * e)]) <|>
    firstBad [(c.boundaryVector != 0xFFFF && !plan 4 c.boundaryVector, 0xF, 0x1E)] <|>
    eachOf (upTo (c.cnt 3)) (fun n => firstBad [
      (c.allSets.contains n && (!plan 1 n || (vectorsOf (c.progOf n)).any (fun v => !plan 4 v)), 3, 64 * n)]) <|>
    eachOf (upTo (c.cnt 7)) (fun k =>
      let b := c.updProg k
      firstBad [((upTo (fieldLe b 2 2)).any (fun i =>
        let g := uGroup b i
        g.chunks != 0 && (!c.owned g.wcOA (wcBytes g.wc chunkN * (g.chunks - 1) + wcBytes g.wc g.last) 2
          || (g.rule == 1 && !c.owned g.momOA ((if g.mom = 0 then 8 else 4) * (chunkN * (g.chunks - 1) + g.last)) 2))), 7, (c.itemAt 7 k).1)])

/-! ## Check 20: shard map (R66, R67) -/

/-- The ragged share of a member: START and EXTENT (R67). -/
def share (total size first member : Nat) : Nat × Nat :=
  if member < first ∨ first + size ≤ member then (0, 0)
  else
    let rel := member - first
    let q := total / size
    let rem := total % size
    if rel < rem then (rel * (q + 1), q + 1) else (rem * (q + 1) + (rel - rem) * q, q)

/-- Bytes of a group's master base: the largest span of the descriptors that name it, one page where there is none (R66). -/
def Chart.masterSpan (c : Chart) (group : Nat) : Nat :=
  (upTo (c.cnt 7)).foldl (fun a k =>
    let b := c.updProg k
    (upTo (fieldLe b 2 2)).foldl (fun a i =>
      let g := uGroup b i
      if g.group = group ∧ g.chunks ≠ 0 then max a (2 ^ 22 * (g.chunks - 1) + 4 * g.last) else a) a) (2 ^ 21)

/-- Shard entry k. -/
def Chart.shardBad (c : Chart) (k : Nat) : Bool :=
  let f := fun o n => fieldLe (c.sec 12) (32 * k + o) n
  f 2 1 == 0 || decide (4 < f 2 1) || f 3 1 == 0 || decide (c.devices < f 3 1) || decide (c.devices < f 4 1 + f 3 1)
    || f 5 3 != 0 || f 0x14 4 != 0 || (upTo k).any (fun j => fieldLe (c.sec 12) (32 * j) 2 == f 0 2)
    || (f 0xC 4, f 0x10 4) != share (f 8 4) (f 3 1) (f 4 1) c.member
    || f 0x18 8 % 2 ^ 21 != 0 || !c.owned (f 0x18 8) (c.masterSpan (f 0 2)) 2

/-- Check 20. -/
def Chart.check20 (c : Chart) : Chk := eachOf (upTo (c.cnt 12)) (fun k => firstBad [(c.shardBad k, 12, 32 * k)])

/-! ## Check 21: the object map (R266, R297) -/

/-- Condition 1: an entry's own form. -/
def Chart.objForm (c : Chart) (e : Nat) : Bool :=
  let f := fun o n => fieldLe (c.sec 13) (32 * e + o) n
  f 0 8 % 2 ^ 21 == 0 && decide (f 0 8 < 2 ^ 52) && [1, 3, 4, 5, 6, 8].contains (f 0xC 1) && decide (f 0xD 1 < 8) && f 0xE 2 == 0
    && f 0x10 8 % 2 ^ 21 == 0 && (f 0x18 4 == 0 || (f 0xD 1).testBit 1) && f 0x1C 4 == 0 && decide (f 0 8 / 2 ^ 21 + f 8 4 ≤ 2 ^ 31)

/-- The tier of a class (R261). -/
def classTier (cls : Nat) : Nat :=
  if cls = 8 then 1 else if cls = 3 then 3 else if cls = 4 ∨ cls = 5 then 2 else if cls = 6 then 4 else 0

/-- Condition 2: the DA range lies in its window, and in its region for a flash object; conditions 3 and 4 and the FTL area of R290. -/
def State.objPlaced (s : State) (c : Chart) (o : Obj) : Bool :=
  let last := o.da + o.pages - 1
  let tier := Machine.tierOf (c.hf 0x14 1)
  if o.cls = 8 then (upTo o.pages).all (fun i => tier ((o.da + i) * 2 ^ 21) == 1)
  else tier (o.da * 2 ^ 21) == classTier o.cls && tier (last * 2 ^ 21) == classTier o.cls &&
    (if o.cls = 1 then decide (last < 253952 - s.rf R.FTL_AREA_PAGES)
    else if o.cls = 3 then decide (last < 2 ^ 28 + s.rf R.TIER_HOST_PAGES_PAGES)
    else if o.cls = 4 then decide ((last + 1 - 2 ^ 27) * 32 ≤ s.fmt.slcUnits)
    else if o.cls = 5 then decide (2 ^ 27 + 2 ^ 26 ≤ o.da) && decide ((last + 1 - 2 ^ 27 - 2 ^ 26) * 32 ≤ s.fmt.tlcUnits)
    else
      let j := (o.da - 2 ^ 29) / 2 ^ 21
      decide (last < 2 ^ 29 + j * 2 ^ 21 + s.rf (R.TIER_PEER_PAGES j)) && j != c.member && s.rf (R.TIER_PEER_VALID j) == 1)

/-- Whether an object's DA range overlaps an earlier one's in HBM or on-die. -/
def objMeets (o p : Obj) : Bool := decide (classTier o.cls ≤ 1) && classTier o.cls == classTier p.cls && meets o.da o.pages p.da p.pages

/-- Conditions 1 to 6 for object e. -/
def State.objBad (s : State) (c : Chart) (e : Nat) : Bool :=
  let o := c.obj e
  let earlier := ((upTo e).map c.obj).filter (fun p => decide (0 < p.pages))
  !c.objForm e || (decide (0 < o.pages) &&
    (earlier.any (fun p => meets o.page o.pages p.page p.pages || objMeets o p) || !s.objPlaced c o
      || ((o.cls == 4 || o.cls == 5) && !s.flashUp)
      || (o.flags.testBit 0 && (o.cls != 1 || !(upTo o.pages).all (fun i => c.pageOwner (o.page + i) == 1)))
      || (o.flags.testBit 1 && (!(o.cls == 1 || o.cls == 8) || !(upTo o.pages).all (fun i => c.pageOwner (o.page + i) == 2)
          || decide (2 ^ 21 < o.off + o.pages)
          || earlier.any (fun p => p.flags.testBit 1 && meets o.off o.pages p.off p.pages)
          || (s.hostLends 32).any (fun l => meets o.off o.pages l.off l.pages)))))

/-- Whether an instruction or a block of a context names bytes that lie in no object (condition 7). -/
def Chart.actNamesBad (c : Chart) (a : Act) : Bool := a.names.any (fun x => !c.inClasses x.1 x.2 [])

/-- Whether the working store that a used context's Cyloth-A MOVEX begins at STORE_PAGE lies in no object: the bytes of an encode store, and at
least the first page of a decode store, whose size the skein's header gives (R175, R181, condition 7). -/
def Chart.storeBad (c : Chart) (n : Nat) (a : Act) : Bool :=
  (a.pack || a.unpack) && a.len != 0 && fieldLe a.u 8 1 == 1 &&
    !c.inClasses (fieldLe (c.img n) 0x10 4 % 2 ^ 31 * 2 ^ 21)
      (if a.pack then (aGeo a.ref (fieldLe a.u 12 4) (fieldLe a.u 9 1) a.len).encStore else 1) []

/-- Condition 7: the OAs that the chart names (stash areas, working stores, block lists, what programs and their blocks name, PROG_OA, STAGE_OA, MASTER_OA;
weight descriptors and semaphore words are met in checks 15 and 16). -/
def Chart.namesBad (c : Chart) : Chk :=
  eachOf (upTo c.nvar) (fun v => eachOf (upTo 4) (fun t =>
    firstBad [(!c.inClasses (c.area v t).1 (c.area v t).2 [[8, 1, 6, 3].getD t 0], 0, 128 * v + 0x40 + 16 * t)])) <|>
  eachOf (upTo (c.cnt 4)) (fun k =>
    let list := (c.item 4 k).getD []
    eachOf (upTo (list.length / 32)) (fun j =>
      let e := entryAt list j
      firstBad [(!c.inClasses e.src 1 [] || (!isPort e.dst && !c.inClasses e.dst 1 []), 4, (c.itemAt 4 k).1 + 32 * j)])) <|>
  eachOf (upTo (c.cnt 3)) (fun n => firstBad [(!c.unused n && (c.acts n).any (fun a => c.actNamesBad a || c.storeBad n a), 3, 64 * n)]) <|>
  firstBad [(c.progBytes != 0 && !c.inClasses c.progOA c.progBytes [8], 0xF, 0x38),
    (c.stageBytes != 0 && !c.inClasses c.stageOA c.stageBytes [1, 8], 0xF, 0x48)] <|>
  eachOf (upTo (c.cnt 12)) (fun k => firstBad [(!c.inClasses (fieldLe (c.sec 12) (32 * k + 0x18) 8) 1 [], 12, 32 * k)])

/-- Level-2 tables that the chart's objects and the kept runtime pages need (condition 8): the windows of 256 GiB that are no RUN. -/
def State.tablesNeeded (s : State) (c : Chart) : Nat :=
  let objWin := (c.objs.map (fun o => (upTo ((o.page + o.pages - 1) / 131072 + 1 - o.page / 131072)).map (o.page / 131072 + ·))).flatten
  let runWin := (s.runtimeEntries.filter (fun (p : Nat × Ent) => (c.objAt p.1).isNone)).map (fun (p : Nat × Ent) => p.1 / 131072)
  ((objWin.filter (fun w => !c.inRun (w * 131072))) ++ runWin).eraseDups.length

/-- Flash units that an act writes and reads. -/
def Chart.actWrites (c : Chart) (a : Act) : List Nat :=
  if a.moves && !isPort a.dst then c.flashUnits (a.dst % 2 ^ 52) (if a.pack then packMax a.len else a.len) else []
def Chart.actReads (c : Chart) (a : Act) : List Nat :=
  if a.moves && a.op != opINLINE then c.flashUnits (a.src % 2 ^ 52) (if a.unpack then packMax a.len else a.len) else []

/-- Flash units that a context writes and reads in one run, in the order of its acts. -/
def Chart.flashWrites (c : Chart) (n : Nat) : List Nat := ((c.acts n).map c.actWrites).flatten
def Chart.flashReads (c : Chart) (n : Nat) : List Nat := ((c.acts n).map c.actReads).flatten

/-- Whether a context reads a unit that an earlier act of its own writes. -/
def Chart.readsOwn (c : Chart) (n : Nat) : Bool :=
  ((c.acts n).foldl (fun (x : List Nat × Bool) a =>
    (x.1 ++ c.actWrites a, x.2 || (c.actReads a).any (fun u => x.1.contains u))) ([], false)).2

/-- Slots of a phase before its first one of FTL background work, after its last, and most between two: all of them where it has none. -/
def ftlGaps (ring : List Nat) (slots : Nat) : Nat × Nat × Nat :=
  let at_ := (ring.zipIdx.filter (fun x => x.1 == 0xFFFC && decide (x.2 < slots))).map (·.2)
  match at_ with
  | [] => (slots, slots, slots)
  | f :: _ =>
    let n := ring.length
    let last := at_.foldl (fun m k => max m ((slots - 1 - k) / n * n + k)) 0
    let inner := (at_.zip (at_.drop 1 ++ (if f + n < slots then [f + n] else []))).foldl (fun m (x : Nat × Nat) => max m (x.2 - x.1 - 1)) 0
    (f, slots - 1 - last, inner)

/-- Whether every 32 slots in a row of a flash channel hold one of FTL background work, over all of plan time and across its phases (R297). -/
def ftlEvery32 (b : List Byte) (res fin : Nat) : Bool :=
  let ph := schPhases b res fin
  let gaps := ph.map (fun p => ftlGaps (schRing b p.1) (p.2 / 32 - p.1.1))
  (match ph with | [] => false | p :: _ => decide (p.1.1 < 32))
    && ((ph.zip gaps).foldl (fun (x : Nat × Bool) q =>
      let slots := q.1.2 / 32 - q.1.1.1
      let run := x.1 + q.2.1
      (if q.2.1 = slots then run else q.2.2.1, x.2 && decide (run < 32) && decide (q.2.2.1 < 32) && decide (q.2.2.2 < 32)))
        ((ph.headD ((0, 0, 0), 0)).1.1, true)).2

/-- DA of a unit's map entry in the FTL table area (R290): regions in order, 8 bytes a unit. -/
def State.mapEntryDa (s : State) (u : Nat) : Nat :=
  0x7C00000000 - s.rf R.FTL_AREA_PAGES * 2 ^ 21 + 8 * (if unitRegion u = 0 then u else s.fmt.slcUnits + (u - 2 ^ 31))

/-- The plan offset by which a context's slots have carried its first k acts. -/
def Chart.carriedBy (c : Chart) (r : PlanRec) (n k : Nat) : Nat :=
  let start := imgStart (c.img n)
  (sumLoads (((c.acts n).take k).map c.actLoad).flatten).foldl
    (fun a p => max a (leastTick (fun t => decide (p.2 ≤ c.capacity r p.1 n start t)) 64 start r.fin)) start

/-- The window of a context's act k: from when the acts that leave it a place in flight have been carried to when it has itself (R297; log
entry 242). -/
def Chart.actWindow (c : Chart) (r : PlanRec) (n k : Nat) : Nat × Nat :=
  (c.carriedBy r n (k + 1 - max 1 (imgInflight (c.img n))), c.carriedBy r n (k + 1))

/-- Whether the FTL's HBM slots miss the map accesses of the plan's flash units (condition 7): two for each unit on the channel of its map
entry, those of blocks whose windows lie within an interval against the slots of that interval. -/
def State.mapShort (s : State) (c : Chart) (r : PlanRec) : Bool :=
  let need := (r.set.map (fun n => (((c.acts n).zipIdx).map (fun x => (x.2, c.actWrites x.1 ++ c.actReads x.1))).filter (fun x => !x.2.isEmpty)
    |>.map (fun x => (c.actWindow r n x.1, x.2.map (fun u => (0x1000 + (hbmPlace (s.mapEntryDa u)).1, 2)))))).flatten
  need.any (fun a => need.any (fun z =>
    (sumLoads ((need.filter (fun x => decide (a.1.1 ≤ x.1.1) && decide (x.1.2 ≤ z.1.2))).map (·.2)).flatten).any (fun p =>
      decide (c.capacity r p.1 0xFFFC a.1.1 z.1.2 < p.2))))

/-- Groups of an update program that have update work. -/
def Chart.updGroups (c : Chart) (b : List Byte) : List UGroup :=
  ((upTo (fieldLe b 2 2)).map (uGroup b)).filter (fun x => x.chunks != 0 && c.groupExtent x.group != 0)

/-- Flash units that the chunks of an update program write in every step: deltas, moments and working copies (R313). -/
def Chart.updUnits (c : Chart) (b : List Byte) : List Nat :=
  ((c.updGroups b).map (fun x =>
    let n := chunkN * (x.chunks - 1) + x.last
    c.flashUnits x.wcOA (wcBytes x.wc (chunkN * (x.chunks - 1)) + wcBytes x.wc x.last) ++
      (if x.rule = 0 then [] else c.flashUnits x.delta (x.slot * x.chunks) ++ c.flashUnits x.momOA ((if x.mom = 0 then 8 else 4) * n)))).flatten

/-- Flash units of the master bases of an update program, chunk by chunk: a step writes those of the chunks it rebases (R304). -/
def Chart.baseUnits (c : Chart) (b : List Byte) : List (List Nat) :=
  (((c.updGroups b).filter (fun x => x.rule != 0)).map (fun x =>
    (upTo x.chunks).map (fun k => c.flashUnits (c.masterOA x.group + 4 * chunkN * k) (4 * x.params k)))).flatten

/-- Flash units of a region that a step writes: what its streams and its update chunks name, and the bases of REBASE_CAP chunks (condition 5). -/
def Chart.stepUnits (c : Chart) (written : List Nat) (b : List Byte) (g : Nat) : Nat :=
  let mine := fun (l : List Nat) => l.filter (fun u => unitRegion u == g)
  let bases := (c.baseUnits b).map mine
  let named := (mine (written ++ c.updUnits b)).eraseDups
  let rebased := min (fieldLe b 0x10 4 * bases.foldl (fun a l => max a l.length) 0) bases.flatten.length
  (named.filter (fun u => !bases.flatten.contains u)).length + max rebased (named.filter (fun u => bases.flatten.contains u)).length

/-- The free allowance of a region (condition 5): its formatted spare, or what lost blocks have left of it (R303), less one thirty-second of its
units. -/
def State.allowance (s : State) (g : Nat) : Nat :=
  let units := s.regionUnits g
  min (units * (if g = 0 then s.fmt.slcOp else s.fmt.tlcOp) / 256) (s.goodUnits g - units) - units / 32

/-- Conditions 2 to 7 of R297 for one record. -/
def State.flashBad (s : State) (c : Chart) (r : PlanRec) : Bool :=
  let b := c.recSch r
  let start := fun n => imgStart (c.img n)
  let written := ((r.set.map c.flashWrites).flatten).eraseDups
  let touched := (written ++ (r.set.map c.flashReads).flatten).eraseDups
  let upd := match r.var with | some v => c.updProg (c.vUPDATE v) | none => []
  if touched.isEmpty && (c.updUnits upd).isEmpty && (c.baseUnits upd).all (·.isEmpty) then false
  else match r.var with
    | none => !written.isEmpty || s.mapShort c r
    | some _ =>
      r.set.any c.readsOwn
        || r.set.any (fun n => (c.flashReads n).any (fun u =>
          r.set.any (fun m => m != n && decide (start m ≤ start n) && (c.flashWrites m).contains u)))
        || r.set.any (fun n => (c.flashWrites n).any (fun u =>
          decide (0 < slotsOf b c.fclk (0x6000 + (flashPlace u).1) r.fin (· == n) (start n) 100000)))
        || [0, 1].any (fun g => decide (s.allowance g < c.stepUnits written upd g))
        || (touched.map (fun u => (flashPlace u).1)).eraseDups.any (fun ch => !ftlEvery32 b (0x6000 + ch) r.fin)
        || s.mapShort c r

/-- Check 21. -/
def State.check21 (s : State) (c : Chart) : Chk :=
  eachOf (upTo (c.cnt 13)) (fun e => firstBad [(s.objBad c e, 13, 32 * e)]) <|>
    firstBad [(decide (64 < (c.objs.filter (fun o => o.flags.testBit 1)).length + (s.hostLends 32).length), 13, 0)] <|> c.namesBad <|>
    firstBad [(decide (64 < s.tablesNeeded c), 13, 0)] <|> eachOf c.recs (fun r => firstBad [(s.flashBad c r, r.sec, r.off)])

/-! ## Checks 22 to 25 -/

/-- Check 22: one entry for each port of PORT_MASK and none for another (R68, R245). -/
def Chart.check22 (c : Chart) : Chk :=
  let f := fun k o n => fieldLe (c.sec 14) (16 * k + o) n
  eachOf (upTo (c.cnt 14)) (fun k => firstBad [(decide (3 < f k 0 1) || !c.portMask.testBit (f k 0 1) || f k 1 1 != 0
    || decide (16384 < f k 4 2) || !zeros (c.sec 14) (16 * k + 6) 10 || (upTo k).any (fun j => f j 0 1 == f k 0 1), 14, 16 * k)]) <|>
    firstBad [((upTo 4).any (fun p => c.portMask.testBit p && !(upTo (c.cnt 14)).any (fun k => f k 0 1 == p)), 0xF, 0x1C)]

/-- Check 23: program and staging areas (R59, R61). -/
def Chart.check23 (c : Chart) : Chk :=
  let areas := ((upTo c.nvar).map (fun v => (upTo 4).map (c.area v))).flatten
  let clear := fun (oa n : Nat) => !areas.any (fun a => meets oa n a.1 a.2)
  firstBad [
    (c.progOA % 4096 != 0 || (c.progBytes != 0 && !c.inClasses c.progOA c.progBytes [8]) || !clear c.progOA c.progBytes
      || meets c.progOA c.progBytes c.stageOA c.stageBytes, 0xF, 0x38),
    (decide (67108864 < c.progBytes) || decide (c.progBytes < c.resident.length), 0xF, 0x40),
    (c.stageOA % 2 ^ 21 != 0 || (c.stageBytes != 0 && !c.inClasses c.stageOA c.stageBytes [1]) || !clear c.stageOA c.stageBytes, 0xF, 0x48),
    (decide (2 ^ 28 < c.stageBytes), 0xF, 0x50)]

/-- Check 24 (R69). -/
def State.check24 (s : State) (c : Chart) : Chk := (s.badPort c).map (fun k => (14, 16 * k))

/-- Check 25 (R81). -/
def State.check25 (s : State) (c : Chart) : Chk :=
  if s.epochOk c then none
  else match s.chart.active with
    | none => none
    | some a => if c.epoch = a.epoch then some (12, 0) else some (0xF, 0x2C)

/-- Check n. -/
def State.check (s : State) (c : Chart) (n : Nat) : Chk :=
  match n with
  | 1 => c.check1
  | 2 => c.check2
  | 3 => s.check3 c
  | 4 => s.check4 c
  | 5 => s.check5 c
  | 6 => c.check6
  | 7 => s.check7 c
  | 8 => c.check8
  | 9 => c.check9
  | 10 => c.check10
  | 11 => s.check11 c
  | 12 => c.check12
  | 13 => c.check13
  | 14 => c.check14
  | 15 => c.check15
  | 16 => c.check16
  | 17 => c.check17
  | 18 => c.check18
  | 19 => c.check19
  | 20 => c.check20
  | 21 => s.check21 c
  | 22 => c.check22
  | 23 => c.check23
  | 24 => s.check24 c
  | 25 => s.check25 c
  | _ => none

/-- The first check from n on that fails, with its section and offset: the checks run in order and stop at the first failure (R69). -/
def State.firstFailing (s : State) (c : Chart) : Nat → Nat → Option (Nat × Nat × Nat)
  | 0, _ => none
  | left + 1, n => match s.check c n with
    | some (sec, off) => some (n, sec, off)
    | none => s.firstFailing c left (n + 1)

/-- The status of a failed check: CHECK_FAIL for the check values, else BAD_ARG (*Chart checks*). -/
def checkStatus (rule : Nat) : Nat := if rule = 2 ∨ rule = 9 then stCHECK_FAIL else stBAD_ARG

/-- The variant in whose table entry k of section 1 fails a rule: the first that holds the entry and in which it fails by itself, else
the first that holds it. -/
def Chart.badVariant (c : Chart) (rule k : Nat) : Nat :=
  let vs := (upTo c.nvar).filter (fun v => decide (c.vStashFirst v ≤ k) && decide (k < c.vStashFirst v + c.vStashCount v))
  let bad := fun (v : Nat) =>
    let j := k - c.vStashFirst v
    if rule = 12 then c.entryBad v j (c.stash v) else if rule = 13 then c.crossBad v j else if rule = 14 then c.earlyBad v j
    else c.frogEntryBad v j
  ((vs.find? bad).orElse (fun _ => vs.head?)).getD 0

/-- The first stash entry of the chart, variant by variant, that a test accepts: its variant and tensor identity. -/
def Chart.firstEntry (c : Chart) (test : Nat → Nat → Bool) : Option (Nat × Nat) :=
  (((upTo c.nvar).map (fun v => (upTo (c.vStashCount v)).map (fun k => (v, k)))).flatten.find? (fun x => test x.1 x.2)).map
    (fun x => (x.1, (c.stashAt x.1 x.2).tid))

/-- The variant and tensor identity of the stash entry by which a check fails (R45): the entry itself; the one with which a table outgrows
its area; the first FROG entry that names a program at fault; the first entry with a part in the neighbour tier where its lending is
at fault. `none` where no stash entry is concerned. -/
def Chart.badStash (c : Chart) (rule sec off : Nat) : Option (Nat × Nat) :=
  let tier := (off % 128 - 0x40) / 16
  let inArea := decide (sec = 0) && decide (0x40 ≤ off % 128)
  if sec = 1 then some (c.badVariant rule (off / 64), fieldLe (c.sec 1) off 2)
  else if rule = 12 ∧ inArea then
    c.firstEntry (fun v k => v == off / 128 && decide ((c.area v tier).2 < tierUse ((c.stash v).take (k + 1)) (c.vM v) tier))
  else if rule = 16 ∧ sec = 6 then
    c.firstEntry (fun v k =>
      let e := c.stashAt v k
      let p := c.itemAt 6 e.prog
      e.cls == 4 && decide (e.prog < c.cnt 6) && decide (p.1 ≤ off) && decide (off < p.1 + p.2))
  else if rule = 21 ∧ inArea then
    c.firstEntry (fun v k => v == off / 128 && ((c.stashAt v k).tier == tier || (c.stashAt v k).stier == tier))
  else if rule = 21 ∧ sec = 13 then
    let o := c.obj (off / 32)
    let at_ := fun (oa : Nat) => decide (o.page ≤ oa / 2 ^ 21) && decide (oa / 2 ^ 21 < o.page + o.pages)
    c.firstEntry (fun v k =>
      let e := c.stashAt v k
      (e.tier == 2 && at_ e.home) || (e.stier == 2 && at_ e.spill))
  else none

/-- DETAIL of a failed check in the log: rule in bits 7:0, section in 11:8; for a stash entry, its variant in 15:12 and its tensor
identity in 28:16 (R45). -/
def Chart.checkDetail (c : Chart) (rule sec off : Nat) : Nat :=
  rule + sec * 256 + (match c.badStash rule sec off with
    | some x => x.1 * 4096 + x.2 % 8192 * 65536
    | none => 0)

/-- A load ended by a failed check (R69). -/
def State.loadInvalid (s : State) (c : Chart) (rule sec off : Nat) : State :=
  let s := ((s.set R.CHART_LOAD_STATUS_STATE 4).set R.CHART_LOAD_STATUS_RULE rule).set R.CHART_LOAD_STATUS_SECTION sec
  ((s.set R.CHART_LOAD_STATUS_OFFSET off).set R.CHART_LOAD_STATUS_STATUS (checkStatus rule)).logEv (checkStatus rule) 0x04 0
    (c.checkDetail rule sec off) off

/-- CHART_VALIDATION_DONE (R69): validation ends with VALID, or with INVALID at the first check that fails. -/
def execChartValidationDone (s : State) : Res :=
  .next (if s.rf R.CHART_LOAD_STATUS_STATE ≠ 2 then s
    else
      let c := Chart.parse s.chart.image
      match s.firstFailing c 25 1 with
      | some (rule, sec, off) => s.loadInvalid c rule sec off
      | none =>
        let s := { s with chart := { s.chart with staged := some c } }
        (((s.showStaged (some c)).set R.CHART_LOAD_STATUS_STATE 3).set R.CHART_LOAD_STATUS_STATUS stOK).avs)

end Sys2Proof.Machine
end

