-- ==== Sys2Proof/Machine/FlashWork.lean ====
section
/-! DEFINITION. Machine/FlashWork.lean: array reads ahead of the slots and the background work of the flash tier (R292, R294, R299). -/

namespace Sys2Proof.Machine

/-! ## When background work runs (R299, R302) -/

/-- Whether the slots of background work come: in plan time those of the LUN's channel and of HBM, for a lane with two LUNs or more in service;
FW's slots once the plan is complete and outside plan time. -/
def State.bgTime (s : State) (l : Nat) : Bool :=
  if !s.inPlan || s.planOver then true
  else
    let x := s.slots
    let left := fun (res : Nat) => decide (0 < slotsOf x.body x.fclk res x.fin (· == 0xFFFC) s.planTick x.fin)
    !s.paused && decide (2 ≤ (s.laneLuns (l / 32) (l % 32 % 8)).length) && left (0x6000 + l / 32)
      && (upTo 248).any (fun c => left (0x1000 + c))

/-- Whether a background operation can begin on a LUN: no other runs in its lane. -/
def State.bgOk (s : State) (l : Nat) : Bool :=
  s.bgTime l && !s.ftl.bg.any (fun w => lunLane w.lun == lunLane l && decide (s.row < w.due))

/-- Whether background work can erase a block: it is programmed and holds no valid or shadow unit, and of the map store nothing that counts. -/
def State.erasable (s : State) (b : Nat) : Bool :=
  !s.blkInUse b && !s.ftl.bad.contains b && (s.blkRegion b != 2 || s.storeFree b) && (s.blk b).next != 0

/-- Whether a queued block can be relocated now: it holds no valid unit, or its lane has room for one. -/
def State.relocatable (s : State) (b : Nat) : Bool :=
  let us := (s.ftl.live ++ s.ftl.shPlace).filter (fun p => p.2 / 4096 == b)
  us.isEmpty || us.any (fun p => (s.freePlace p.1).isSome)

/-- Whether work that goes before waits in the lane of a LUN (R299): before all else the map store's record, before an erase (rank 3) and levelling
(rank 4) relocations, before levelling erases. -/
def State.bgFirst (s : State) (l rank : Nat) : Bool :=
  let mine := fun (b : Nat) => lunLane (blkLun b) == lunLane l
  (s.ftl.record && (match s.storePlace with | some p => mine (p / 4096) | none => false))
    || (decide (2 < rank) && s.ftl.queue.any (fun b => mine b && s.relocatable b))
    || (decide (3 < rank) && s.ftl.blks.any (fun p => mine p.1 && s.erasable p.1))

/-- A background operation begun on a block, which keeps its LUN busy for a time that is a free value within a limit (log entry 208). -/
def State.beginBg (s : State) (b limit : Nat) : State :=
  let (v, s) := s.fresh
  { s with ftl := { s.ftl with bg := s.ftl.bg.filter (fun (w : BgWork) => decide (s.row < w.due)) ++ [BgWork.mk (blkLun b) b (s.row + v % (limit + 1))] } }

/-- Ticks that a multi-plane erase takes at most, and the read and program of one unit that is moved (*Flash device limits*). -/
def eraseTicks : Nat := 2000000
def moveTicks (r : Nat) : Nat := if r = 0 then 6000 + 14000 else 12000 + 250000

/-- The valid units of a block moved (R299): the programs keep the LUN of the last of them busy. -/
def State.moveBlk (s : State) (block : Nat) : State :=
  let t := s.unitsWhere (fun p => p / 4096 == block) (fun s shadow u => s.moveUnit true shadow u)
  if t.ftl.wseq = s.ftl.wseq then t
  else match t.ftl.pages.getLast? with
    | none => t
    | some q => t.beginBg (q.1 / 4096) ((t.ftl.wseq - s.ftl.wseq) * moveTicks (s.blkRegion block))

/-! ## Array reads (R294) -/

/-- Reads of a channel's units by the plan's blocks in flight and skeins in hand, each with the tick by which its block's slots have carried it;
for a skein the stream's next slot of the channel. -/
def State.planReads (s : State) (ch : Nat) : List (Nat × AheadRead) :=
  let mine := fun (n seq due : Nat) (us : List Nat) =>
    (us.filter (fun u => (flashPlace u).1 == ch)).map (fun u => (due, (⟨n, seq, u⟩ : AheadRead)))
  let x := s.slots
  (s.runSet.map (fun n => ((s.str n).blocks.map (fun b => mine n b.seq b.due (s.blockUnits b))).flatten ++
    (match (s.str n).sk with
     | some k => mine n k.seq ((nextOwned x.body x.fclk (0x6000 + ch) n s.planTick).getD x.fin) (s.skUnits k)
     | none => []))).flatten

/-- The read of a list that comes first. -/
def firstRead : List (Nat × AheadRead) → Option (Nat × AheadRead)
  | [] => none
  | x :: t => match firstRead t with
    | none => some x
    | some y => if y.1 < x.1 then some y else some x

/-- The reads ahead of their slots after one of a unit: where the unit is the plan's, it must be the next of its channel in the order of
the slots, with fewer than 16 ahead; `none` where it is not its turn (R294). -/
def State.readAhead (s : State) (u : Nat) : Option (List AheadRead) :=
  let all := s.planReads (flashPlace u).1
  if !all.any (fun r => r.2.unit == u) then some s.ftl.ahead
  else
    let ahead := s.ftl.ahead.filter (fun r => s.runSet.any (fun n => n == r.ctx && ((s.str n).blocks.any (fun b => b.seq == r.seq)
      || (match (s.str n).sk with | some k => k.seq == r.seq | none => false))))
    let mine := ahead.filter (fun r => (flashPlace r.unit).1 == (flashPlace u).1)
    match firstRead (all.filter (fun r => !ahead.contains r.2)) with
    | none => none
    | some r => if r.2.unit = u ∧ mine.length < 16 then some (ahead ++ [r.2]) else none

/-- A background operation suspended for an array read of its LUN: it ends later by the suspension and the read, a free value within
their limits (R294; log entry 208). -/
def State.suspendBg (s : State) (l : Nat) : State :=
  if s.lunBusy l then
    let (v, s) := s.fresh
    { s with ftl := { s.ftl with bg := s.ftl.bg.map (fun (w : BgWork) => if w.lun = l then { w with due := w.due + v % 16001 } else w) } }
  else s

/-- FLASH_ARRAY_READ (R294, R300): a multi-plane read of a unit ahead of its slot, counted against its block; it suspends background work on
its LUN. A unit that nothing has written has no place. -/
def execFlashArrayRead (unit : Nat) (s : State) : Res :=
  .next (if !s.unitMapped unit then s
    else match s.readAhead unit with
      | none => s
      | some l =>
        let s := { s with ftl := { s.ftl with ahead := l } }
        match s.livePlace unit with
        | none => s
        | some p => (s.suspendBg (p / 4096 / 4096)).countRead (p / 4096))

/-! ## Background work (R299) -/

/-- Whether a block holds a valid unit. -/
def State.holdsValid (s : State) (b : Nat) : Bool := (s.ftl.live ++ s.ftl.shPlace).any (fun p => p.2 / 4096 == b)

/-- BLOCK_RELOCATION (R299): the valid units of a queued block move to free units of their lane; a block that holds none any more is then retired
or free for erase. -/
def execBlockRelocation (block : Nat) (s : State) : Res :=
  .next (if !s.flashUp || !s.ftl.queue.contains block || !s.bgOk (blkLun block) || s.bgFirst (blkLun block) 2 then s
    else
      let s := s.moveBlk block
      if s.holdsValid block then s else
      let s := ({ s with ftl := { s.ftl with queue := s.ftl.queue.filter (· != block) } }).showQueue
      if s.ftl.grown.contains block && !s.ftl.bad.contains block then s.retireBlk block else s)

/-- BLOCK_ERASE (R299, R306): a programmed block that holds no valid or shadow unit is erased and its counts follow; a block of the map store
once a later snapshot has replaced what it holds (R298). -/
def execBlockErase (block : Nat) (s : State) : Res :=
  .next (if !s.flashUp || !s.erasable block || !s.bgOk (blkLun block) || s.bgFirst (blkLun block) 3 then s
    else
      let x := s.blk block
      let f := freeF (s.blkRegion block)
      let t := s.setBlk block ⟨x.erases + 1, 0, 0⟩
      let s := if s.blkRegion block = 2 then t else t.set f (s.rf f + x.next)
      let s := { s with ftl := { s.ftl with pages := s.ftl.pages.filter (fun (q : Nat × PageMeta) => q.1 / 4096 != block) } }
      (s.beginBg block eraseTicks).showWear)

/-- WEAR_LEVELLING (R299): when the most-worn block of a region's lane exceeds the least-worn block that holds valid data by more than
512 in pSLC or 64 in TLC, and this is that least-worn block, its valid units are moved. -/
def execWearLevelling (block : Nat) (s : State) : Res :=
  .next (
    let r := s.blkRegion block
    let bs := s.laneBlks r (blkLun block / 32) (blkLun block % 32 % 8)
    let holds := fun b => s.ftl.live.any (fun p => p.2 / 4096 == b)
    let most := bs.foldl (fun a b => max a (s.blk b).erases) 0
    if s.flashUp && r != 2 && s.bgOk (blkLun block) && !s.bgFirst (blkLun block) 4 && leastBy (fun b => (s.blk b).erases) (bs.filter holds) == some block
        && decide ((s.blk block).erases + (if r = 0 then 512 else 64) < most) then
      let x := s.blk block
      let f := freeF r
      let s := (s.setBlk block { x with next := s.blkCap r }).set f (s.rf f - (s.blkCap r - x.next))
      s.moveBlk block
    else s)

/-! ## Commit records, journals, snapshots (R298) -/

/-- Bytes of a journalled entry in the map store: unit, place and step, 16 bytes (DESIGN CHOICE, log entry 243). -/
def journalEntry : Nat := 16

/-- After 256 commits a snapshot of the whole map is written, and the journal before it dropped (R298). -/
def State.snapMap (s : State) : State :=
  if s.ftl.commits < 256 then s
  else
    let at_ := s.ftl.wseq
    let s := s.writeStorePages (ceilDiv (s.mapBytes (s.fmt.slcUnits + s.fmt.tlcUnits)) 65536)
    { s with ftl := { s.ftl with snapshot := s.ftl.live, journal := [], commits := 0, unwritten := 0, snapSeq := at_ } }

/-- COMMIT_RECORD_DURABLE (R298): the journal's entries, the commit record and, when one is due, a snapshot stand in the map store, written in the slots of
background work; DURABLE_STEP takes the committed step, and the units it made stale are released. -/
def execCommitRecordDurable (s : State) : Res :=
  .next (if !s.flashUp || !s.ftl.record || (match s.storePlace with | some p => !s.bgTime (blkLun (p / 4096)) | none => false) then s
    else
      let s := s.writeStorePages (ceilDiv (journalEntry * s.ftl.unwritten) 65536 + 1)
      let s := ({ s with ftl := { s.ftl with unwritten := 0 } }).snapMap
      ({ s with ftl := { s.ftl with stale := [], undo := [], record := false } }).set R.FTL_COMMIT_DURABLE_STEP (s.rf R.FTL_COMMIT_COMMITTED_STEP))

end Sys2Proof.Machine
end

