-- ==== Sys2Proof/Machine/Flits.lean ====
section
/-! DEFINITION. Machine/Flits.lean: the flits of the port protocol (R338 to R341, R354, R356): how the messages that KN40 has sent stand on a
port's wire, and which commands the flits of a die spell. -/

namespace Sys2Proof.Machine

/-! ## The flit (R338, R339) -/

/-- A KPP flit: FORMAT, NHDR, DVALID and DMARK of its header, the credits it returns, message slots H0 and H1, granule slots D0 to D2. -/
structure Flit where
  format : Nat
  nhdr   : Nat
  dvalid : Nat
  dmark  : Nat
  crHdr  : Nat
  crData : Nat
  crAddw : Nat
  heads  : List (List Byte)
  grans  : List (List Byte)
  deriving DecidableEq, Repr

/-- The idle flit: a flit with nothing to carry. -/
def idleFlit : Flit := ⟨0, 0, 0, 0, 0, 0, 0, [], []⟩

/-- The 16-byte flit header (*Flit header*). -/
def Flit.header (f : Flit) : List Byte :=
  natLe 1 f.format ++ natLe 1 (f.nhdr + 16 * f.dvalid) ++ natLe 1 f.dmark ++ natLe 1 0
    ++ natLe 2 f.crHdr ++ natLe 2 f.crData ++ natLe 2 f.crAddw ++ natLe 6 0

/-- The 240 bytes of a flit: header at 0x00, H0 at 0x10, H1 at 0x20, D0 at 0x30, D1 at 0x70, D2 at 0xB0 (*KPP flit*). -/
def Flit.bytes (f : Flit) : List Byte :=
  f.header ++ sliceB (f.heads.getD 0 []) 0 16 ++ sliceB (f.heads.getD 1 []) 0 16
    ++ sliceB (f.grans.getD 0 []) 0 64 ++ sliceB (f.grans.getD 1 []) 0 64 ++ sliceB (f.grans.getD 2 []) 0 64

/-- A flit read from its 240 bytes. -/
def readFlit (b : List Byte) : Flit :=
  ⟨fieldLe b 0 1 % 16, fieldLe b 1 1 % 4, fieldLe b 1 1 / 16 % 8, fieldLe b 2 1 % 8, fieldLe b 4 2, fieldLe b 6 2, fieldLe b 8 2,
   [sliceB b 0x10 16, sliceB b 0x20 16], [sliceB b 0x30 64, sliceB b 0x70 64, sliceB b 0xB0 64]⟩

/-- A flit header that R339 makes a protocol error: a reserved FORMAT or a reserved bit, NHDR 3, a hole in DVALID. -/
def flitBad (b : List Byte) : Bool :=
  let f := readFlit b
  decide (2 < f.format) || fieldLe b 0 1 / 16 != 0 || fieldLe b 1 1 / 4 % 4 != 0 || fieldLe b 1 1 / 128 != 0 || fieldLe b 2 1 / 8 != 0
    || fieldLe b 3 1 != 0 || fieldLe b 10 6 != 0 || f.nhdr == 3 || !(f.dvalid == 0 || f.dvalid == 1 || f.dvalid == 3 || f.dvalid == 7)

/-- Granules in use of a flit, each with its mark. -/
def Flit.data (f : Flit) : List (List Byte × Bool) :=
  ((upTo 3).filter (fun k => f.dvalid.testBit k)).map (fun k => (f.grans.getD k [], f.dmark.testBit k))

/-! ## Messages (R340, R341) -/

/-- A message as it is sent: its header and its granules with their marks; of a die, whether it came in a flit that breaks R339. -/
structure KppMsg where
  head  : List Byte
  grans : List (List Byte × Bool)
  bad   : Bool := false
  deriving DecidableEq, Repr

/-- A message header: OP, FLAGS and the fields at 0x2, 0x4 and 0x8 (*KPP messages*). -/
def kppHead (op flags w x y : Nat) : List Byte := natLe 1 op ++ natLe 1 flags ++ natLe 2 w ++ natLe 4 x ++ natLe 8 y

/-- The aligned granules that hold bytes from an address, bytes outside them zero, marked where a byte of theirs is (R340, R353). -/
def granulesOf (a : Nat) (l : List MByte) : List (List Byte × Bool) :=
  (upTo (granuleCount a l.length)).map (fun g =>
    let at_ := fun k => if a % 64 ≤ 64 * g + k then l.getD (64 * g + k - a % 64) (0, false) else (0, false)
    ((upTo 64).map (fun k => (at_ k).1), (upTo 64).any (fun k => (at_ k).2)))

/-- What a port's wire carries of what KN40 has sent. -/
inductive KppOut where
  /-- A message in the slots of an owner. -/
  | msg (m : KppMsg)
  /-- A PCRED, in the reserve of R354. -/
  | pcred (m : KppMsg)
  /-- A link-control flit with its body. -/
  | control (body : List Byte)
  /-- Credits returned in a flit header. -/
  | credits (hdr data addw : Nat)
  deriving DecidableEq, Repr

/-- What a message of the model is on the wire of a port; the module map goes on the sideband (R337). -/
def kppOut (p : Nat) : Sent → Option KppOut
  | .kpp q k tag addr l =>
    if q ≠ p then none
    else if k = 0 then some (.credits tag (addr % 65536) (addr / 65536))
    else if k = kRDR then some (.msg ⟨kppHead k 0 tag (addr % 256) 0, granulesOf (addr / 256) l, false⟩)
    else if k = kWR then some (.msg ⟨kppHead k 0 0 l.length (addr % 2 ^ 48), granulesOf addr l, false⟩)
    else if k = kPCRED then some (.pcred ⟨kppHead k 0 tag addr 0, [], false⟩)
    else if k = kSIG then some (.msg ⟨kppHead k 0 0 tag addr, [], false⟩)
    else if k = kFENCE then some (.msg ⟨kppHead k 0 tag 0 0, [], false⟩)
    else if k = kFACK then some (.msg ⟨kppHead k 0 tag addr 0, [], false⟩)
    else if k = kHELLO then some (.control (l.map (·.1)))
    else if k = kRESET then some (.control [2])
    else none
  | _ => none

/-! ## Egress (R338, R340, R354) -/

/-- A port's sender: messages waiting, PCREDs waiting, granules owed to headers already sent. -/
structure Egress where
  outs   : List KppOut
  pcreds : List (List Byte)
  owed   : List (List Byte × Bool)
  deriving DecidableEq, Repr

/-- The messages at the front of a list, at most k. -/
def frontMsgs : Nat → List KppOut → List KppMsg × List KppOut
  | k + 1, .msg m :: t => let r := frontMsgs k t; (m :: r.1, r.2)
  | _, l => ([], l)

/-- Credits at the front of what is to be sent, which go in a flit's header, and what stands behind them. -/
def frontCredits : List KppOut → (Nat × Nat × Nat) × List KppOut
  | .credits h d a :: t => ((h, d, a), t)
  | l => ((0, 0, 0), l)

/-- The flit of flit time i, and the sender after it. In the last flit of a port slot H1 is the PCRED reserve; with H0 idle the PCRED stands
alone in the flit (log entry 211). Credits ride in the header of whatever flit goes; a link-control flit carries nothing else, and none goes while the
port is UP. -/
def Egress.flit (e : Egress) (i : Nat) : Flit × Egress :=
  match e.outs with
  | .control body :: t => (⟨2, 0, 0, 0, 0, 0, 0, [sliceB body 0 16, sliceB body 16 16], []⟩, { e with outs := t })
  | _ =>
    let last := i % 16 == 15
    let cr := frontCredits e.outs
    let r := frontMsgs (if last then 1 else 2) cr.2
    let owed := e.owed ++ (r.1.map (·.grans)).flatten
    let pc := if last then e.pcreds.take 1 else []
    let heads := r.1.map (·.head) ++ pc
    let d := owed.take 3
    let mark := d.zipIdx.foldl (fun m (x : (List Byte × Bool) × Nat) => if x.1.2 then m + 2 ^ x.2 else m) 0
    (if heads.isEmpty && d.isEmpty && cr.1 == (0, 0, 0) then idleFlit
      else ⟨1, heads.length, 2 ^ d.length - 1, mark, cr.1.1, cr.1.2.1, cr.1.2.2, heads, d.map (·.1)⟩,
      ⟨r.2, if last then e.pcreds.drop 1 else e.pcreds, owed.drop 3⟩)

/-- The flits of n flit times from time i: one in each. -/
def Egress.flits : Nat → Nat → Egress → List Flit
  | 0, _, _ => []
  | n + 1, i, e => let r := e.flit i; r.1 :: Egress.flits n (i + 1) r.2

/-- The first n flits that carry what KN40 has sent on a port. -/
def State.wire (s : State) (p n : Nat) : List (List Byte) :=
  let all := s.sent.filterMap (kppOut p)
  let pc := all.filterMap (fun o => match o with | .pcred m => some m.head | _ => none)
  let rest := all.filter (fun o => match o with | .pcred _ => false | _ => true)
  (Egress.flits n 0 ⟨rest, pc, []⟩).map Flit.bytes

/-! ## Ingress (R340, R341, R351, R356) -/

/-- How flits and headers that break R339 to R341 reach the model (log entry 210): a flit without messages as a PACE of a line that no port has,
which costs no credit; a message without data as an RD of a TAG that R343 does not allow, which costs its header credit. -/
def badFlit (p : Fin 4) : Instr := .pace p 16384 0
def badMsg (p : Fin 4) : Instr := .rd p 4096 0 0

/-- Granules that a header of the die announces. -/
def announced (h : List Byte) : Nat :=
  if fieldLe h 0 1 = 3 then granuleCount (fieldLe h 8 8) (fieldLe h 4 4)
  else if fieldLe h 0 1 = 4 then ceilDiv (fieldLe h 4 4) 64
  else 0

/-- The command that a whole message of the die spells (*KPP messages*); one that is discarded under R351 is spelt so that it loses the credits it
took: a write with a granule too many, an add-write of an operand format that is not defined. -/
def commandOf (p : Fin 4) (m : KppMsg) : Instr :=
  let op := fieldLe m.head 0 1
  let flags := fieldLe m.head 1 1
  let w := fieldLe m.head 2 2
  let x := fieldLe m.head 4 4
  let y := fieldLe m.head 8 8
  let data := (m.grans.map (·.1)).flatten
  let marks := m.grans.map (·.2)
  if m.bad ∨ (flags ≠ 0 ∧ op ≠ 4) then
    if op = 3 then .wrFromDie p (BitVec.ofNat 64 y) (sliceB data (y % 64) x) (marks ++ [false])
    else if op = 4 then .addw p ⟨w, []⟩ (BitVec.ofNat 64 y) 4 (sliceB data 0 x) marks
    else if op = 1 ∨ op = 7 ∨ op = 8 then badMsg p
    else badFlit p
  else if op = 1 then .rd p w (BitVec.ofNat 64 y) x
  else if op = 3 then .wrFromDie p (BitVec.ofNat 64 y) (sliceB data (y % 64) x) marks
  else if op = 4 then .addw p ⟨w, []⟩ (BitVec.ofNat 64 y) flags (sliceB data 0 x) marks
  else if op = 5 then .pace p (w % 16384) x
  else if op = 7 then .sigFromDie p w
  else if op = 8 then .fenceFromDie p w
  else if op = 9 then .fackFromDie p w (x % 256)
  else badFlit p

/-- A port's receiver: messages whose data is not yet complete, oldest first, and the commands spelt so far. -/
structure Ingress where
  parts : List KppMsg
  cmds  : List Instr

/-- The messages at the front that are complete leave as commands. -/
def Ingress.release (p : Fin 4) : Nat → Ingress → Ingress
  | 0, x => x
  | fuel + 1, x => match x.parts with
    | m :: t => if announced m.head ≤ m.grans.length then Ingress.release p fuel ⟨t, x.cmds ++ [commandOf p m]⟩ else x
    | [] => x

/-- A granule goes to the oldest message whose data is not complete (R340). -/
def Ingress.granule (p : Fin 4) (x : Ingress) (g : List Byte × Bool) : Ingress :=
  let x := Ingress.release p (x.parts.length + 1) x
  match x.parts with
  | m :: t => ⟨{ m with grans := m.grans ++ [g] } :: t, x.cmds⟩
  | [] => ⟨[], x.cmds ++ [badFlit p]⟩

/-- A link-control flit (R356, R357): HELLO or RESET, which discards what has not arrived whole. -/
def Ingress.control (p : Fin 4) (x : Ingress) (b : List Byte) : Ingress :=
  let h := sliceB b 0x10 24
  if fieldLe h 0 1 = 1 then
    { x with cmds := x.cmds ++ [.hello p (fieldLe h 1 1) (fieldLe h 2 2) (fieldLe h 4 2) (fieldLe h 6 2) (fieldLe h 8 2) (fieldLe h 10 2)
      (BitVec.ofNat 64 (fieldLe h 16 8))] }
  else if fieldLe h 0 1 = 2 then ⟨[], x.cmds ++ [.linkControlReset p]⟩
  else { x with cmds := x.cmds ++ [badFlit p] }

/-- One flit of the die. The messages of one that breaks R339 are discarded with the granules that belong to them, in whatever flits these come. -/
def Ingress.flit (p : Fin 4) (x : Ingress) (b : List Byte) : Ingress :=
  let f := readFlit b
  let bad := flitBad b
  if f.format = 0 ∧ bad = false then x
  else if bad ∧ (f.format ≠ 1 ∨ f.nhdr = 0) then { x with cmds := x.cmds ++ [badFlit p] }
  else if f.format = 2 then x.control p b
  else
    let x := if bad ∨ f.crHdr = 0 ∧ f.crData = 0 ∧ f.crAddw = 0 then x else { x with cmds := x.cmds ++ [.creditReturn p f.crHdr f.crData f.crAddw] }
    let x := { x with parts := x.parts ++ (f.heads.take f.nhdr).map (fun h => KppMsg.mk h [] bad) }
    let x := f.data.foldl (Ingress.granule p) x
    Ingress.release p (x.parts.length + 1) x

/-- What reaches a port's receiver: a flit, or a reset of the port by another cause than the die's RESET (R357), which discards what has not
arrived whole (R358). -/
def Ingress.event (p : Fin 4) (x : Ingress) : Option (List Byte) → Ingress
  | some b => x.flit p b
  | none => { x with parts := [] }

/-- The commands that a sequence of flits of the die, and resets of the port between them, spells, in the order in which they take effect. -/
def commandsOf (p : Fin 4) (l : List (Option (List Byte))) : List Instr := (l.foldl (Ingress.event p) ⟨[], []⟩).cmds

end Sys2Proof.Machine
end

