-- ==== Sys2Proof/Machine/HostQ.lean ====
section
/-! DEFINITION. Machine/HostQ.lean: command queues and their commands, BAR2 and CXL.mem, MSI-X, far faults and the resets of the host
link (R362 to R383). -/

namespace Sys2Proof.Machine

/-! ## Queue registers (R367, R371, R383) -/

/-- A gated OPEN abandoned: the context is IDLE and holds the fields it held before (R380). -/
def State.revertOpen (s : State) (n : Nat) : State :=
  if (s.str n).host && s.sst n == ssARMED then
    let old := (s.str n).saved
    let s := (s.loadImage n []).setStr n { StreamX.fresh with host := true }
    let lo := (0x100000 + 64 * (n % 16384)) * 64
    ({ s with regs := old.foldl (fun r (c : Nat × Nat) => SMap.put resetOf r (lo + c.1 % 4096) c.2) s.regs }).setSst n ssIDLE wtNONE
  else s

/-- The taken commands of a queue abandoned: no completion entry is written (R380, R383). -/
def State.abandonQueue (s : State) (q : Nat) : State :=
  let s := (s.host.taken.filter (fun t => t.q == q && t.op == 1)).foldl (fun s t => s.revertOpen t.ctx) s
  { s with host := { s.host with taken := s.host.taken.filter (fun t => t.q != q)
                                 waiting := s.host.waiting.filter (fun c => c.q != q)
                                 heldOut := s.host.heldOut.filter (fun (p : Nat × Sent) => p.1 != 2 + q) } }

/-- The indices of a queue at 0 and PHASE 1 (R383). -/
def State.zeroQueue (s : State) (q : Nat) : State :=
  let s := ((s.set (R.HQ_Q_STATUS_SQ_HEAD q) 0).set (R.HQ_Q_STATUS_CQ_TAIL q) 0).set (R.HQ_SQ_TAIL_TAIL q) 0
  let s := s.set (R.HQ_CQ_HEAD_HEAD q) 0
  { s with host := { s.host with phases := s.host.phases.set q 1, fetched := s.host.fetched.set q 0 } }

/-- A write to a queue window refused (R383): logged, counted, and shown in the queue's LAST_STATUS. -/
def State.queueRefuse (s : State) (q off st : Nat) : State :=
  ((s.refuse off st).hqErr st R.HQ_ERR_QUEUE).set (R.HQ_Q_STATUS_LAST_STATUS q) st

/-- A write to register k (0 to 5) of the window of queue q. -/
def State.writeQueue (s : State) (q k : Nat) (w : Wr) : State :=
  let off := 0x200000 + 0x40 * q + 8 * k
  let t := s.regWrite off w
  let on := s.rf (R.HQ_Q_CTRL_ENABLE q) == 1
  if s.queueOwner q ≠ 1 ∨ w.m ≠ .host ∨ 5 ≤ k then s.queueRefuse q off stNOT_OWNER
  else if k < 2 then (if on && w.touches 12 52 then s.queueRefuse q off stBAD_ARG else t)
  else if k = 2 then
    let a := t.rf (R.HQ_Q_CTRL_SQ_LOG2 q)
    let b := t.rf (R.HQ_Q_CTRL_CQ_LOG2 q)
    if a < 1 ∨ 12 < a ∨ b < 1 ∨ 12 < b then s.queueRefuse q off stBAD_ARG
    else if on && (a != s.rf (R.HQ_Q_CTRL_SQ_LOG2 q) || b != s.rf (R.HQ_Q_CTRL_CQ_LOG2 q)) then s.queueRefuse q off stBAD_ARG
    else if on && t.rf (R.HQ_Q_CTRL_ENABLE q) == 0 then t.abandonQueue q
    else if !on && t.rf (R.HQ_Q_CTRL_ENABLE q) == 1 then (t.abandonQueue q).zeroQueue q
    else t
  else if k = 3 then
    if s.sqSize q ≤ t.rf (R.HQ_SQ_TAIL_TAIL q) then s.queueRefuse q off stBAD_ARG else t.fetchSq q (t.sqSize q)
  else t.flushCq q t.host.waiting.length

/-- SQ_DOORBELL (R367): a write of HQ_SQ_TAIL; the entries up to the tail are read. -/
def execSqDoorbell (m : Master) (q : Fin 64) (v : BitVec 64) (s : State) : Res :=
  .next (if s.reach m then s.writeQueue q.val 3 (Wr.full m v.toNat) else s)

/-- CQ_HEAD_WRITE (R371): completion entries are freed, and waiting completions are written. -/
def execCqHeadWrite (m : Master) (q : Fin 64) (v : BitVec 64) (s : State) : Res :=
  .next (if s.reach m then s.writeQueue q.val 4 (Wr.full m v.toNat) else s)

/-- QUEUE_ENABLE (R367, R383): a write of HQ_Q_CTRL with ENABLE set. -/
def execQueueEnable (m : Master) (q : Fin 64) (v : BitVec 64) (s : State) : Res :=
  .next (if s.reach m then s.writeQueue q.val 2 (Wr.full m (v ||| 1).toNat) else s)

/-- QUEUE_DISABLE (R383): a write of HQ_Q_CTRL with ENABLE clear. -/
def execQueueDisable (m : Master) (q : Fin 64) (v : BitVec 64) (s : State) : Res :=
  .next (if s.reach m then s.writeQueue q.val 2 (Wr.full m (v &&& ~~~(1 : BitVec 64)).toNat) else s)

/-! ## Commands (R367 to R371) -/

/-- Whether a queue is enabled, not full, and has a fetched command. -/
def State.queueHas (s : State) (q : Nat) : Bool := s.queueState q == 1 && s.rf (R.HQ_Q_STATUS_SQ_HEAD q) != s.host.fetched.getD q 0

/-- The queue whose command is taken next (R367): the lowest with one that the turn under way has not yet reached, else the lowest with
one, for which the next turn begins. -/
def State.nextQueue (s : State) : Option Nat :=
  match (upTo 64).find? (fun q => decide (s.host.turn ≤ q) && s.queueHas q) with
  | some q => some q
  | none => (upTo 64).find? s.queueHas

/-- The next fetched command of a queue taken, when its opcode is the one asked for: what its completion will echo. -/
def State.takeCmd (s : State) (q : Nat) (ok : Nat → Bool) (e : List Byte) : Option (Taken × State) :=
  let h := s.rf (R.HQ_Q_STATUS_SQ_HEAD q)
  if s.linkUp && s.nextQueue == some q && ok (fieldLe e 0 1) then
    let next := (h + 1) % s.sqSize q
    let t : Taken := ⟨q, fieldLe e 0 1, fieldLe e 2 2, fieldLe e 4 2, next⟩
    let s := s.set (R.HQ_Q_STATUS_SQ_HEAD q) next
    some (t, { s with host := { s.host with taken := s.host.taken ++ [t], turn := q + 1 } })
  else none

/-- The common header of a command keeps its form (R368). -/
def cmdHeaderOk (e : List Byte) : Bool :=
  decide (fieldLe e 1 1 ≤ (if fieldLe e 0 1 = 1 then 1 else 0)) && decide (fieldLe e 4 2 < 16384) && decide (fieldLe e 8 1 ≤ 192)
    && allZero e 9 7

/-- CMD_NOP (R368). -/
def execCmdNop (q : Fin 64) (entry : List Byte) (s : State) : Res :=
  .next (match s.takeCmd q.val (· == 0) entry with
    | none => s
    | some (t, s) => s.complete t (if cmdHeaderOk entry && allZero entry 0x10 48 then stOK else stBAD_ARG))

/-- CMD_RESERVED (R368): a reserved opcode completes with BAD_ARG. -/
def execCmdReserved (q : Fin 64) (entry : List Byte) (s : State) : Res :=
  .next (match s.takeCmd q.val (fun o => decide (5 ≤ o)) entry with
    | none => s
    | some (t, s) => s.complete t stBAD_ARG)

/-- CMD_FENCE (R368): completes once every earlier command of the queue has its completion written. -/
def execCmdFence (q : Fin 64) (entry : List Byte) (s : State) : Res :=
  .next (match s.takeCmd q.val (· == 4) entry with
    | none => s
    | some (t, s) =>
      if cmdHeaderOk entry && allZero entry 0x10 48 then s.settleFences q.val s.host.taken.length else s.complete t stBAD_ARG)

/-- The row at the tick by which HOST slots have carried some loads; at once in a pause and outside plan time (R243). -/
def State.hostCarried (s : State) (loads : List Load) : State :=
  if !s.slotTime then s
  else
    let c := s.claimHost s.host.reqUsed loads
    ({ s with host := { s.host with reqUsed := c.1 } }).toTick c.2

/-- CMD_WRITE (R370): the inline bytes go to DST, and the command completes with the status that R264 gives. -/
def execCmdWrite (q : Fin 64) (entry : List Byte) (s : State) : Res :=
  .next (match s.takeCmd q.val (· == 3) entry with
    | none => s
    | some (t, s) =>
      if !cmdHeaderOk entry || fieldLe entry 0x10 8 / 2 ^ 52 != 0 || !allZero entry 0x18 40 then s.complete t stBAD_ARG
      else
        let g := (s.hostCarried (s.oaLoad (fieldLe entry 0x10 8) (fieldLe entry 8 1) true)).writeOA .hostStream 1 (fieldLe entry 0x10 8)
          (clean (sliceB entry 0x40 (fieldLe entry 8 1)))
        g.st.complete t (if g.refused then g.st.rf R.TIER_ERR_LAST_STATUS else stOK))

/-- CMD_ABORT (R224, R370). -/
def execCmdAbort (q : Fin 64) (entry : List Byte) (s : State) : Res :=
  .next (match s.takeCmd q.val (· == 2) entry with
    | none => s
    | some (t, s) =>
      let n := t.ctx
      if !cmdHeaderOk entry || !allZero entry 0x10 48 then s.complete t stBAD_ARG
      else if s.ctxOwner n ≠ 1 then s.complete t stNOT_OWNER
      else if !(s.str n).host || !(s.sst n == ssRUN || s.sst n == ssWAIT || s.sst n == ssSTOPPING) then s.complete t stBAD_ARG
      else if s.sealing n then s.complete t stOK
      else s.haltStr n stABORTED)

/-! ## OPEN (R368, R369) -/

/-- What the program rules need for a host stream: the chart's ports and lines, HOST-owned on-die words, no limit on a block. -/
def State.hostEnv (s : State) : NitasEnv :=
  { mask := match s.chart.active with | none => 0 | some c => c.portMask
    devices := s.devices, moveMax := 2 ^ 40
    sem := fun oa => (match s.entOf (oa / 2 ^ 21 % 2 ^ 31) with | some e => s.tierOf (e.page * 2 ^ 21) == 1 | none => false)
      && s.pageOwner (oa / 2 ^ 21) == 1
    lines := fun p => match s.chart.active with
      | none => 0
      | some c => match (upTo (c.cnt 14)).find? (fun k => fieldLe (c.sec 14) (16 * k) 1 == p) with
        | some k => fieldLe (c.sec 14) (16 * k + 4) 2
        | none => 0
    bare := false }

/-- Whether a range of OA lies in pages owned by HOST. -/
def State.hostRange (s : State) (oa n : Nat) : Bool := (pageSpans oa n).all (fun sp => s.pageOwner sp.1 == 1)

/-- Whether a range of OA lies in mapped pages of HBM or the on-die buffers. -/
def State.nearRange (s : State) (oa n : Nat) : Bool :=
  (pageSpans oa n).all (fun sp => match s.entOf sp.1 with | some e => decide (s.tierOf (e.page * 2 ^ 21) ≤ 1) | none => false)

/-- Check 1 of *OPEN checks*: header, body and limits. -/
def State.openForm (s : State) (e : List Byte) : Bool :=
  let units := fieldLe e 0x2C 2
  let ents := fieldLe e 0x2E 2
  let po := fieldLe e 0x10 8
  let lo := fieldLe e 0x18 8
  cmdHeaderOk e && allZero e 0x33 1 && allZero e 0x38 8 && decide (units ≤ 4096) && decide (ents ≤ 4096)
    && decide (1 ≤ fieldLe e 0x31 1) && decide (fieldLe e 0x31 1 ≤ 6) && decide (fieldLe e 0x32 1 ≤ 8)
    && fieldLe e 0x20 8 % 32 == 0 && s.hostEnv.addrOk (fieldLe e 0x20 8) true
    && (if fieldLe e 1 1 = 1 then fieldLe e 8 1 == 16 * units + 32 * ents
        else po % 16 == 0 && lo % 32 == 0 && decide (po < 2 ^ 52) && decide (lo < 2 ^ 52)
          && s.hostRange po (16 * units) && s.nearRange po (16 * units) && s.hostRange lo (32 * ents) && s.nearRange lo (32 * ents))

/-- Program and block list of an OPEN. -/
def State.openProg (s : State) (e : List Byte) : List Byte :=
  if fieldLe e 1 1 = 1 then sliceB e 0x40 (16 * fieldLe e 0x2C 2)
  else (s.readOA .hostReq (fieldLe e 0x10 8) (16 * fieldLe e 0x2C 2)).data.map (·.1)
def State.openList (s : State) (e : List Byte) : List Byte :=
  if fieldLe e 1 1 = 1 then sliceB e (0x40 + 16 * fieldLe e 0x2C 2) (32 * fieldLe e 0x2E 2)
  else (s.readOA .hostReq (fieldLe e 0x18 8) (32 * fieldLe e 0x2E 2)).data.map (·.1)

/-- Destinations of a program, its list and its status address. -/
def openDsts (prog list : List Byte) (status : Nat) : List (Nat × Nat) :=
  (upTo (list.length / 32)).map (fun k => ((entryAt list k).dst, (entryAt list k).len))
    ++ ((instrsOf prog).filter (fun u => uOp u == opINLINE)).map (fun u => (fieldLe u 8 8, fieldLe u 2 1))
    ++ ((instrsOf prog).filter (fun u => uOp u == opSEAL && uFlag u 0)).map (fun u => (fieldLe u 8 8, 32)) ++ [(status, 32)]

/-- Check 6: R220 with host-owned destinations. -/
def State.openProgOk (s : State) (e prog list : List Byte) : Bool :=
  let v := s.hostEnv
  rule8 (fieldLe e 0x31 1) (fieldLe e 0x32 1) (fieldLe e 0x34 2) && v.progOk prog list (fieldLe e 0x36 2)
    && (upTo (list.length / 32)).all (fun k => v.entryOk list k)
    && (openDsts prog list (fieldLe e 0x20 8)).all (fun d => isPort d.1 || s.hostRange d.1 d.2)

/-- Whether a context that a stream set of the installed chart names is on a mover (check 4). -/
def State.moverTaken (s : State) (m : Nat) : Bool :=
  match s.chart.active with
  | none => false
  | some c => c.allSets.any (fun n => match c.ctxImage n with | some b => bitsOf (fieldLe b 0 8) 24 8 == m | none => false)

/-- The status of an OPEN: the first check that fails, in the order of *OPEN checks*. -/
def State.openStatus (s : State) (e prog list : List Byte) : Nat :=
  let n := fieldLe e 4 2
  if !s.openForm e then stBAD_ARG
  else if s.ctxOwner n ≠ 1 then stNOT_OWNER
  else if s.sst n ≠ ssIDLE ∧ s.sst n ≠ ssENDED then stBAD_ARG
  else if s.moverTaken (fieldLe e 0x30 1) then stBAD_ARG
  else if fieldLe e 0x28 4 ≠ s.rf R.CHART_ACTIVE_EPOCH then stBAD_ARG
  else if !s.openProgOk e prog list then stBAD_ARG
  else if (fieldLe e 6 2 :: vectorsOf prog).any (fun v => v != 0xFFFF && (decide (2048 ≤ v) || s.vecOwner v != 1)) then stNOT_OWNER
  else stOK

/-- A context bound to a host stream by an OPEN. -/
def State.bindHost (s : State) (n : Nat) (e prog list : List Byte) : State :=
  let lo := (0x100000 + 64 * (n % 16384)) * 64
  let old := (s.regs.filter (fun (c : Nat × Nat) => decide (lo ≤ c.1) && decide (c.1 < lo + 4096))).map (fun c => (c.1 - lo, c.2))
  let s := s.loadImage n []
  let s := ((s.set (R.STREAM_CTL_PROGRAM n) 0xFFFF).set (R.STREAM_CTL_BLOCK_LIST n) 0xFFFF).set (R.STREAM_CTL_CLASS n) 1
  let s := ((s.set (R.STREAM_CTL_MOVER n) (fieldLe e 0x30 1)).set (R.STREAM_CTL_INFLIGHT n) (fieldLe e 0x31 1)).set
    (R.STREAM_CTL_RUN_AHEAD n) (fieldLe e 0x32 1)
  let s := ((s.set (R.STREAM_CTL_TILE_BURSTS n) (fieldLe e 0x34 2)).set (R.STREAM_TIME_PACE n) (fieldLe e 0x36 2)).set
    (R.STREAM_BIND_EPOCH n) (fieldLe e 0x28 4)
  s.setStr n { StreamX.fresh with prog := prog, list := list, host := true, status := fieldLe e 0x20 8, vector := fieldLe e 6 2, saved := old }

/-- CMD_OPEN (R369): a powered mover group starts the stream at once; a gated one wakes, and the stream is ARMED for 2,000 ticks. -/
def execCmdOpen (q : Fin 64) (entry : List Byte) (s : State) : Res :=
  .next (match s.takeCmd q.val (· == 1) entry with
    | none => s
    | some (t, s) =>
      let n := t.ctx
      let prog := s.openProg entry
      let list := s.openList entry
      let st := s.openStatus entry prog list
      if st ≠ stOK then s.complete t st
      else
        let s := s.bindHost n entry prog list
        let g := 0x7000 + s.groupOf n
        if s.pwr.awake.contains g then (s.startStr n).complete t stOK
        else
          let s := (s.setSst n ssARMED wtSTART).setStr n { s.str n with startAt := s.row + 2000 }
          ({ s with pwr := { s.pwr with waking := NSet.ins g s.pwr.waking } }).showUnits)

/-- HOST_STREAM_START (R369, R443): the mover group is awake, the stream enters RUN and its OPEN completes. -/
def execHostStreamStart (n : Fin 16384) (s : State) : Res :=
  .next (if !(s.str n.val).host || s.sst n.val != ssARMED || decide (s.rf R.PWR_STATE_STATE < 2) then s
    else
      let s := (s.advance (s.str n.val).startAt).wakeUnit (0x7000 + s.groupOf n.val)
      let s := s.setStr n.val { s.str n.val with saved := [] }
      (s.startStr n.val).completeOn 1 n.val)

/-! ## BAR2, atomics and CXL.mem (R364 to R366, R375) -/

/-- A host read answered; one that R264 refuses, with zero bytes and poison (R366, R375). -/
def State.hostRead (s : State) (oa n : Nat) : State :=
  let g := s.readOA .hostReq oa n
  if g.refused then g.st.hostRefused.emit (.answer (List.replicate n (0, true)))
  else (if g.data.any (·.2) then g.st.noteRange oa n else g.st).emit (.answer g.data)

/-- A host write applied; pages that refuse it discard their part. -/
def State.hostWrite (s : State) (oa : Nat) (l : List MByte) : State :=
  let g := s.writeOA .hostReq 1 oa l
  if g.refused then g.st.hostRefused else g.st

/-- The OA of an offset from a base page. -/
def windowOA (base off : Nat) : Nat := (base * 2 ^ 21 + off) % 2 ^ 52

/-- What a request of the host takes of the HOST slots: memory, and the directions of the host link that carry its data (R233, R243). -/
def State.hostReqLoad (s : State) (r : PeerReq) : List Load :=
  (if r.kind = 1 ∨ r.kind = 4 then [] else (0x4000, r.len) :: s.oaLoad r.off r.len false)
    ++ (if r.kind = 0 ∨ r.kind = 3 then [] else (0x5000, r.len) :: s.oaLoad r.off r.len true)

/-- A CXL.mem read of a line answered; a line that the host may then hold is recorded (R280, R375). -/
def State.cxlRead (s : State) (oa : Nat) : State :=
  let cached : Bool := match s.pageFor .hostReq (oa / 2 ^ 21 % 2 ^ 31) false with | .ok e => e.cache | .error _ => false
  let t := s.hostRead (64 * (oa / 64)) 64
  if cached == true then t.recordLine (oa / 64) else t

/-- A request of the host served: BAR2 read, write and AtomicOp, CXL.mem read and write (R366, R375). -/
def State.serveHostReq (s : State) (r : PeerReq) : State :=
  let l := r.data.map (fun b => (b, r.poison))
  if r.kind = 0 then s.hostRead r.off r.len
  else if r.kind = 1 then s.hostWrite r.off l
  else if r.kind = 2 then s.atomicAt .hostReq 1 r.off r.op r.len r.operand r.compare
  else if r.kind = 3 then s.cxlRead r.off
  else (s.hostWrite r.off l).emit .cmp

/-- HOST slots claimed for the requests that have none yet, in arrival order. -/
def State.claimReqs (s : State) : State :=
  if !s.slotTime then s
  else
    let a := s.host.reqs.foldl (fun (a : List (Nat × Nat) × List PeerReq) r =>
      if r.due.isSome then (a.1, a.2 ++ [r])
      else
        let c := s.claimHost a.1 (s.hostReqLoad r)
        (c.1, a.2 ++ [{ r with due := some c.2 }])) (s.host.reqUsed, [])
    { s with host := { s.host with reqUsed := a.1, reqs := a.2 } }

/-- The oldest waiting request of the host served once HOST slots have carried it; in a pause and outside plan time at once (R236). -/
def State.hostNext (s : State) : State :=
  match s.host.reqs with
  | [] => s
  | r :: t =>
    if s.slotTime && (match r.due with | some d => decide (s.planTick < d) | none => true) then s
    else ({ s with host := { s.host with reqs := t } }).serveHostReq r

/-- Every waiting request of the host served that may be, in arrival order (R243). -/
def State.serveHostReqs (s : State) : State :=
  let s := s.claimReqs
  s.forEach (upTo s.host.reqs.length) (fun s _ => s.hostNext)

/-- A request of the host taken (R243; log entry 241): in plan time HOST slots carry it; one that they carry within the round under way is served here, any
other waits. -/
def State.takeHost (s : State) (r : PeerReq) : State :=
  let s := s.serveHostReqs
  if !s.slotTime then s.serveHostReq r
  else
    let c := s.claimHost s.host.reqUsed (s.hostReqLoad r)
    let s := { s with host := { s.host with reqUsed := c.1 } }
    if s.host.reqs.isEmpty && decide (c.2 < (s.planTick / 32 + 1) * 32) then (s.toTick c.2).serveHostReq r
    else { s with host := { s.host with reqs := s.host.reqs ++ [{ r with due := some c.2 }] } }

/-- A poisoned write noted in HQ_ERR. -/
def State.notePoison (s : State) (poison : Bool) : State := if poison then s.hqErr stPOISON_IN R.HQ_ERR_POISON_RX else s

/-- BAR2_REQUEST (R366): a read of `len` bytes, or a write of `data`, at BAR2 offset `off`; one with a translated address is
unsupported (R376). -/
def execBar2Request (req : LinkReq) (off : Nat) (len : Nat) (data : List Byte) (poison : Bool) (s : State) : Res :=
  .next (if !s.linkUp then s
    else if req.translated = true ∨ 2 ^ 28 < off + (if req.write then data.length else len) then s.emit .unsupported
    else
      let oa := windowOA (s.rf R.HQ_WINDOW_BASE) off
      if req.write then (s.notePoison poison).takeHost ⟨1, oa, data.length, data, poison, 0, 0, 0, none⟩
      else s.takeHost ⟨0, oa, len, [], false, 0, 0, 0, none⟩)

/-- BAR_ATOMIC (R278, R362, R366): FetchAdd and Swap of 4 or 8 bytes, compare and swap of 8; a misaligned one is aborted, others are unsupported. -/
def execBarAtomic (bar : Nat) (off : BitVec 64) (op : LinkAtomic) (size : Nat) (operand : BitVec 64) (compare : BitVec 64) (s : State) : Res :=
  .next (
    let o := off.toNat
    if !s.linkUp then s
    else if op.translated = true ∨ (size ≠ 4 ∧ size ≠ 8) ∨ 2 < op.code ∨ (op.code = 2 ∧ size = 4) ∨ (bar ≠ 2 ∧ bar ≠ 4) then s.emit .unsupported
    else if o % size ≠ 0 then s.emit .completerAbort
    else if bar = 2 then
      if 2 ^ 28 ≤ o then s.emit .unsupported
      else s.takeHost ⟨2, windowOA (s.rf R.HQ_WINDOW_BASE) o, size, [], false, op.code, operand.toNat, compare.toNat, none⟩
    else if 2 ^ 42 ≤ o then s.emit .unsupported
    else s.takePeer ⟨2, o, size, [], false, op.code, operand.toNat, compare.toNat, none⟩)

/-- Whether an offset lies in the host range of the HDM decoder: below the size that host software has committed; a decoder that it has not
committed bounds nothing (R375; log entry 143). -/
def State.hdmHolds (s : State) (off : Nat) : Bool :=
  !(s.rf (R.CXL_COMP_VALUE 0x224)).testBit 9 || decide (off < s.rf (R.CXL_COMP_VALUE 0x223))

/-- CXL_MEM_REQUEST (R280, R375): a read of the 64-byte line at offset `addr` of the decoder's range, or a write of `data` there; one beyond
the range is not the device's. -/
def execCxlMemRequest (write : Bool) (addr : BitVec 64) (data : List Byte) (poison : Bool) (s : State) : Res :=
  .next (if !s.linkUp then s
    else if s.rf R.HQ_LINK_CXL_MEM = 0 ∨ s.hdmHolds addr.toNat = false then s.emit .unsupported
    else
      let oa := windowOA (s.rf R.HQ_HDM_BASE) addr.toNat
      if write then (s.notePoison poison).takeHost ⟨4, oa, data.length, data, poison, 0, 0, 0, none⟩
      else s.takeHost ⟨3, oa, 64, [], false, 0, 0, 0, none⟩)

/-- CXL_SNOOP (R375): every H2D snoop misses. -/
def execCxlSnoop (_addr : BitVec 64) (s : State) : Res := .next (if s.linkUp then s.emit .snoopMiss else s)

/-! ## Reads from far tiers (R378) -/

/-- What a failed or poisoned completion does to its stream and to HQ_ERR: kind 0 good, 1 poison, 2 UR or CA, 3 timeout. -/
def State.noteRead (s : State) (n kind : Nat) : State :=
  if kind = 0 then s
  else if kind = 1 then (s.hqErr stPOISON_IN R.HQ_ERR_POISON_RX).note n stPOISON_IN 4
  else (s.hqErr stCHECK_FAIL (if kind = 2 then R.HQ_ERR_CPL_ERROR else R.HQ_ERR_CPL_TIMEOUT)).note n stCHECK_FAIL 4

/-- Bytes that the read under way still owes, of the reads issued for some pieces in their order, once `got` bytes have come (R362, R378). -/
def readLeft (asked : List (Nat × Nat)) (got : Nat) : Nat :=
  ((asked.map (fun p => readCuts p.1 p.2)).flatten.foldl (fun (a : Nat × Nat) r =>
    if a.2 = 0 then (if got < a.1 + r.2 then (a.1, a.1 + r.2 - got) else (a.1 + r.2, 0)) else a) (0, 0)).2

/-- The bytes that a completion delivers out of `left` that are owed: as they came, marked when poisoned; a failed read delivers its own,
`fail` of them, as marked bytes of no stated value (R378). -/
def State.cplBytes (s : State) (kind left fail : Nat) (data : List Byte) : List MByte × State :=
  if kind < 2 then ((data.take left).map (fun b => (b, kind == 1)), s) else s.freeBytes (min left fail)

/-- HOST_READ_COMPLETION (R378): bytes that a block or a skein of stream n has asked of the host or of a peer; its reads complete in the
order in which they were issued (log entry 142). -/
def execHostReadCompletion (n : Fin 16384) (seq : Nat) (kind : Nat) (data : List Byte) (s : State) : Res :=
  .next (
    let x := s.str n.val
    if !s.linkUp ∨ 3 < kind then s
    else match x.blocks.find? (fun b => b.seq == seq && decide (b.data.length < b.owed) && !b.inHand) with
      | some b =>
        let (l, s) := (s.noteRead n.val kind).cplBytes kind (b.owed - b.data.length)
          (readLeft b.asked b.data.length) data
        let s := s.give poolRead l.length
        let y := s.str n.val
        s.setStr n.val { y with blocks := y.blocks.map (fun c => if c.seq == seq then { c with data := c.data ++ l } else c) }
      | none => match x.sk with
        | none => s
        | some k =>
          if k.seq ≠ seq ∨ k.owed = 0 then s
          else
            let (l, s) := (s.noteRead n.val kind).cplBytes kind k.owed (readLeft k.asked k.have_.length) data
            (s.give poolRead l.length).setSk n.val { k with have_ := k.have_ ++ l, owed := k.owed - l.length })

/-- What a far-fault report does by the state of its context (*Far-fault reports*). -/
def State.farReported (s : State) (n : Nat) : State :=
  let st := s.sst n
  if (st = ssIDLE ∨ st = ssARMED) ∧ !(s.str n).ran then
    (s.set R.HQ_FAR_FAULT_STATUS stBAD_ARG).logEv stBAD_ARG 0x20 n 0x201018 0
  else
    let s := (s.set R.HQ_FAR_FAULT_STATUS stOK).bump R.HQ_FAR_FAULT_COUNT
    if st = ssIDLE ∨ st = ssENDED then s.logEv stFAR_FAULT 0x20 n 0x201018 0 else s.strStatus n stFAR_FAULT

/-- A far-fault report for context n (R379): about a plan stream before the end of reserve of its step it raises FLAG_OUT whatever the
stream's state, one that has not run included (log entry 212). -/
def State.reportFar (s : State) (n : Nat) : State :=
  let s := (s.hqErr stFAR_FAULT R.HQ_ERR_FAR_FAULT).farReported n
  if !(s.str n).host && s.training && !s.step.reserveOver && s.runSet.contains n then s.raiseFlag 4 else s

/-- A write of HQ_FAR_FAULT. -/
def State.writeFarFault (s : State) (w : Wr) : State :=
  let t := s.regWrite 0x201018 w
  if w.get .host R.HQ_FAR_FAULT_GO = 1 then t.reportFar (t.rf R.HQ_FAR_FAULT_CONTEXT) else t

/-- FAR_FAULT_REPORT (R379): a write of HQ_FAR_FAULT with GO set. -/
def execFarFaultReport (m : Master) (v : BitVec 64) (s : State) : Res :=
  .next (if s.reach m then s.writeFarFault (Wr.full m (v ||| 0x8000).toNat) else s)

/-! ## Configuration space and interrupts (R374, R380) -/

/-- Pending vectors that may now be sent are sent. -/
def State.flushVecs (s : State) : State := s.forEach (upTo 2048) State.flushVec

/-- Bus Master Enable set: what was held is sent in order, queues are read on, and streams that waited to report on held writes end (R227,
R380). -/
def State.setBme (s : State) : State :=
  let s := s.set R.HQ_LINK_BME 1
  let s := { s with sent := s.sent ++ s.host.heldOut.map (fun (p : Nat × Sent) => p.2), host := { s.host with heldOut := [] } }
  (s.forEach (upTo 64) (fun s q => s.fetchSq q (s.sqSize q))).flushVecs.closeStopped

/-- BME_SET (R380). -/
def execBmeSet (s : State) : Res := .next (if s.linkUp then s.setBme else s)

/-- MSIX_UNMASK (R374): the table entry's mask is cleared, and a pending message is sent. -/
def execMsixUnmask (v : Fin 2048) (s : State) : Res :=
  .next (if s.linkUp then (s.set (R.MSIX_CTRL_MASK v.val) 0).flushVec v.val else s)

/-- Bits of the size of BAR 2 i: 16 MiB, 256 MiB, 4 TiB (R364). -/
def barBits (i : Nat) : Nat := [24, 28, 42].getD i 24

/-- Doubleword k, 0 to 5, of the base address registers: a 64-bit BAR takes two, and only bits of its address above its size can be written;
bit 3 says that it is prefetchable (R364). -/
def State.barWord (s : State) (k : Nat) : Nat :=
  let a := s.host.bars.getD (k / 2) 0
  if k % 2 = 0 then a % 2 ^ 32 + (if k = 0 then 4 else 12) else a / 2 ^ 32 % 2 ^ 32

/-- A doubleword of the base address registers written. -/
def State.writeBar (s : State) (k v : Nat) : State :=
  let a := s.host.bars.getD (k / 2) 0
  let w := v % 2 ^ 32
  let b := if k % 2 = 0 then a / 2 ^ 32 * 2 ^ 32 + w else w * 2 ^ 32 + a % 2 ^ 32
  { s with host := { s.host with bars := s.host.bars.set (k / 2) (b / 2 ^ barBits (k / 2) * 2 ^ barBits (k / 2)) } }

/-- The doubleword at a byte offset of configuration space (R362, R364): the boot image's vendor ID with device ID 0x4B40, Bus Master Enable
in the command register, class code 0x12_00_00 with the image's revision, the base address registers. What the rest reads, among it where
the capability structures lie, PCIe leaves to the device (log entry 240). -/
def State.cfgWord (s : State) (off : Nat) : Nat :=
  if off = 0 then fieldLe s.pwr.identity 0 2 + 0x4B40 * 65536
  else if off = 4 then (Config.cfgWord 4 &&& ~~~(4 : BitVec 32)).toNat + 4 * s.rf R.HQ_LINK_BME
  else if off = 8 then fieldLe s.pwr.identity 6 1 + 0x120000 * 256
  else if 0x10 ≤ off ∧ off < 0x28 then s.barWord ((off - 0x10) / 4)
  else (Config.cfgWord off).toNat

/-- CONFIG_SPACE_WRITE (R362, R364, R380, R381): kind 0 Bus Master Enable, 1 MSI-X Enable, 2 Relaxed Ordering, 3 the completion timeout,
4 Mem_Enable, 5 to 10 doubleword 0 to 5 of the base address registers, 11 Max_Payload_Size by its code; `v` is the value written, a bit for
the enables. Kind 12 is a configuration read of the doubleword at byte `v` (log entry 240). Until the device is READY and the link has
trained every configuration request is answered with Request Retry Status. -/
def execConfigSpaceWrite (kind : Nat) (v : Nat) (s : State) : Res :=
  .next (if s.pwr.off then s
    else if !s.linkUp then s.emit .retry
    else if kind = 12 then s.emit (.answer (clean (natLe 4 (s.cfgWord (v / 4 * 4)))))
    else if kind = 11 then (if v ≤ 2 then s.set R.HQ_LINK_MPS v else s)
    else if 5 ≤ kind ∧ kind ≤ 10 then s.writeBar (kind - 5) v
    else if kind = 0 then (if v = 0 then s.set R.HQ_LINK_BME 0 else s.setBme)
    else if kind = 1 then (s.set R.HQ_LINK_MSIX (min v 1)).flushVecs
    else if kind = 2 then s.set R.HQ_LINK_RO (min v 1)
    else if kind = 3 then { s with host := { s.host with timeout := v } }
    else if kind = 4 then s.set R.HQ_LINK_CXL_MEM (min v 1)
    else s)

/-! ## Resets of the host link (R380 to R382) -/

/-- Whether a range of a stream's address lies in the host tier. -/
def State.inHostTier (s : State) (addr n : Nat) : Bool :=
  !isPort addr && (pageSpans (addr % 2 ^ 52) n).any (fun sp => match s.entOf sp.1 with
    | some e => s.tierOf (e.page * 2 ^ 21) == 3
    | none => false)

/-- Everything one run of a stream does, in program order, from the values of AD0 and AD1 with which it began (R202, R369). -/
def State.actsOf (s : State) (n : Nat) : List Act :=
  if (s.str n).host then runActs (s.progOf n) (s.listOf n) (2 ^ 40) 0 [] 0 0 []
  else match s.chart.active with
    | none => []
    | some c => c.acts n

/-- Whether a block of a stream has its source or its destination in the host tier. -/
def State.actInHost (s : State) (n : Nat) (a : Act) : Bool :=
  a.moves && ((a.op != opINLINE && s.inHostTier a.src (if a.unpack then packMax a.len else a.len))
    || (if a.pack then (s.skeinRanges n 0 a.dst a.len a.mb).any (fun r => s.inHostTier r.1 r.2) else s.inHostTier a.dst a.len))

/-- Whether a stream is bound to the host link: a block source or destination in the host tier, or a SIGNAL or MARK of KIND 3 (R225, R380). -/
def State.hostBound (s : State) (n : Nat) : Bool :=
  !(vectorsOf (s.progOf n)).isEmpty || (s.actsOf n).any (s.actInHost n)
    || (s.str n).blocks.any (fun b => (!b.inHand && s.inHostTier b.src b.len) || s.inHostTier b.dst b.len)
    || (match (s.str n).sk with | some k => s.inHostTier k.src k.len || s.inHostTier k.dst k.len | none => false)

/-- A stream orphaned by a host reset (R225, R380): reads in flight to the host are dropped with the blocks that wait for them, and the
confirmation of a SEAL with them. -/
def State.orphanHost (s : State) (n : Nat) : State :=
  let x := s.str n
  let waits := fun (b : Block) => !b.inHand && decide (b.data.length < b.owed) && s.inHostTier b.src b.len
  let gone := x.blocks.filter waits
  let sk := match x.sk with
    | some k => if 0 < k.owed then none else some k
    | none => none
  let s := s.setStr n { x with blocks := x.blocks.filter (fun b => !waits b), sk := sk, confirm := x.confirm.filter (· != 0)
                               pend := x.pend.filter (· != 0), far := x.far.filter (fun f => f.1 != 0) }
  let s := s.give poolRead (x.reads - (s.str n).reads)
  let s := s.dropSk n x.sk sk
  let s := s.forEach (gone.map (·.seq)) (fun s q => s.doneSeq n q [])
  let s := { s with led := { s.led with blkOut := s.led.blkOut + gone.length
                                        skOut := s.led.skOut + (if x.sk.isSome && sk.isNone then 1 else 0) } }
  s.haltStr n stORPHANED

/-- Every HQ register but HQ_LINK and HQ_RESET_LOG, and the MSI-X table and its pending bits, at their reset values (R380, R383). -/
def State.resetHq (s : State) : State :=
  let keep := fun (k : Nat) =>
    let off := k / 64
    decide (off < 0x200000) || decide (0x218000 ≤ off) || off == 0x201010 || off == 0x201028
  { s with regs := s.regs.filter (fun (c : Nat × Nat) => keep c.1)
           host := { s.host with phases := List.replicate 64 1, fetched := List.replicate 64 0, taken := [], waiting := [] } }

/-- What an FLR and a reset of the link share (R380): queues and their commands, the HQ registers, the enables, bound streams. -/
def State.linkReset (s : State) (cause : Nat) : State :=
  let s := s.forEach (upTo 64) State.abandonQueue
  let s := s.resetHq
  let s := ((s.set R.HQ_LINK_BME 0).set R.HQ_LINK_MSIX 0).set R.HQ_LINK_RO 0
  let s := { s with host := { s.host with timeout := 0, bars := [0, 0, 0] } }
  let hit := s.usedCtx.filter (fun n => (s.strUnfinished n || s.sst n == ssSEALED) && s.hostBound n)
  let s := s.forEach hit State.orphanHost
  let s := (s.set R.HQ_RESET_LOG_AT s.row).bump R.HQ_RESET_LOG_COUNT
  (s.set R.HQ_RESET_LOG_CAUSE cause).set R.HQ_RESET_LOG_ORPHANED (min 255 hit.length)

/-- FLR (R380). -/
def execFlr (s : State) : Res := .next (if s.linkUp then s.linkReset 1 else s)

/-- The link down (R381): writes that came whole are applied, requests that wait for an answer are gone; no enable, decoder or line survives, every page is in device bias, held status words are dropped. -/
def State.linkDown (s : State) (cause : Nat) : State :=
  let s := ((s.host.reqs.filter (fun r => r.kind == 1 || r.kind == 4)).foldl State.serveHostReq s).linkReset cause
  let s := ((s.set R.HQ_LINK_UP 0).set R.HQ_LINK_RATE 0).set R.HQ_LINK_WIDTH 0
  let s := ((s.set R.HQ_LINK_MPS 0).set R.HQ_LINK_FULL 0).set R.HQ_LINK_CXL_MEM 0
  let gone := fun (k : Nat) => (decide (0x218000 * 64 ≤ k) && decide (k < 0x228000 * 64)) || (decide (0x310000 * 64 ≤ k) && decide (k < 0x318000 * 64))
  { s with regs := s.regs.filter (fun (c : Nat × Nat) => !gone c.1)
           tier := { s.tier with lines := [], waitLine := [], peers := [] }
           host := { s.host with reqs := [], heldOut := s.host.heldOut.filter (fun (p : Nat × Sent) => decide (p.1 < tagStatus 0)) } }

/-- PERST_N_ASSERT (R381): PERST_N low, or with `other` the link down for another cause; in AON it acts once the link has trained. -/
def execPerstNAssert (other : Bool) (s : State) : Res :=
  .next (if s.pwr.off ∨ (s.rf R.PWR_STATE_STATE < 2 ∧ s.rf R.HQ_LINK_UP = 0) then s else s.linkDown (if other then 3 else 2))

/-- HOST_LINK_UP (R362, R381): the link has trained at a rate and a width; `mps` is the code of Max_Payload_Size. -/
def execHostLinkUp (rate width mps : Nat) (s : State) : Res :=
  .next (if s.pwr.off ∨ (s.rf R.PWR_STATE_STATE < 2 ∧ !(s.pwr.booting && s.pwr.imageDone)) ∨ s.rf R.HQ_LINK_UP = 1 ∨ !([2, 5, 8, 16, 32, 64].contains rate) ∨ !([1, 2, 4, 8, 16].contains width) ∨ 2 < mps then s
    else
      let s := ((s.set R.HQ_LINK_UP 1).set R.HQ_LINK_RATE rate).set R.HQ_LINK_WIDTH width
      (s.set R.HQ_LINK_MPS mps).set R.HQ_LINK_FULL (if rate = 64 ∧ width = 16 then 1 else 0))

end Sys2Proof.Machine
end

