-- ==== Sys2Proof/Machine/Reset.lean ====
section
/-! DEFINITION. Machine/Reset.lean: what a loss of power, RST_N, TO_AON and a critical cut clear and keep, T0, and the thermal
sample (R434, R437 to R441, R461 to R466). -/

namespace Sys2Proof.Machine

/-! ## What a loss of power clears and keeps (R305, R434) -/

/-- Register cells between two byte offsets. -/
def inRange (lo hi k : Nat) : Bool := decide (lo * 64 ≤ k) && decide (k < hi * 64)

/-- Fuses. -/
def fuseCell (k : Nat) : Bool := inRange 0x10010 0x10018 k

/-- The error log and FAULT_LOG_PTR. -/
def logCell (k : Nat) : Bool := inRange 0x600018 0x600020 k || inRange 0x640000 0x660000 k

/-- The unit record: CLU_MAP, SKEIN_MAP, CDP_MODMAP, SPARE of HBM_STACK, and FAULT_UNIT but for the counts of the window under way. -/
def unitCell (k : Nat) : Bool :=
  let off := k / 64
  (decide (0x400000 ≤ off) && decide (off < 0x424000) && off % 0x1000 == 0)
    || (decide (0x480000 ≤ off) && decide (off < 0x484800) && off % 0x100 == 0)
    || (decide (0x500020 ≤ off) && decide (off < 0x504020) && off % 0x1000 == 0x20)
    || (inRange 0x580000 0x580040 k && k % 64 == 8)
    || (inRange 0x610000 0x611A28 k && k % 64 != 48)

/-- Flash through a loss of power (R305): media and map state stay; the step that was durable is what recovery returns to. A format
that was running leaves the tier unformatted. -/
def State.flashLoss (s : State) : FlashSt :=
  { s.ftl with
    parts := []
    bg := s.ftl.bg.filter (fun (w : BgWork) => decide (s.row < w.due))
    fmt := if s.rf R.FTL_FORMAT_BUSY = 1 then none else s.ftl.fmt
    durable := if s.flashUp then s.rf R.FTL_COMMIT_DURABLE_STEP else s.ftl.durable }

/-- OFF, with `keepLog` for RST_N (R434): fuses and flash media stay; RST_N also keeps the error log and the unit record. -/
def State.toOff (s : State) (keepLog : Bool) : State :=
  { State.reset with
    pending := s.pending
    sent := s.sent
    free := s.free
    regs := s.regs.filter (fun (c : Nat × Nat) => fuseCell c.1 || (keepLog && (logCell c.1 || unitCell c.1)))
    fault := if keepLog then { FaultSt.reset with
        lastPlace := s.fault.lastPlace, unserved := s.fault.unserved, lossDue := s.fault.lossDue }
      else FaultSt.reset
    ftl := s.flashLoss
    pwr := { PowerSt.reset with
      off := true
      rstLow := s.pwr.rstLow
      badSupply := s.pwr.badSupply
      booting := false
      factoryMap := s.pwr.factoryMap
      fwKeys := s.pwr.fwKeys
      devKeys := s.pwr.devKeys } }

/-- T0 (R437): every supply good and RST_N high in OFF; the always-on domain leaves reset with the row counter at 0 and boots. -/
def State.tryT0 (s : State) : State :=
  if s.pwr.off && !s.pwr.rstLow && s.pwr.badSupply.isEmpty then
    ({ s with row := 0, pwr := { s.pwr with off := false } }).startBoot 1 false
  else s

/-- SUPPLY_LOST (R437): supply `i` of PWR_SUPPLY.GOOD is lost. -/
def execSupplyLost (i : Fin 9) (s : State) : Res :=
  .next (({ s with pwr := { s.pwr with badSupply := NSet.ins i.val s.pwr.badSupply } }).toOff false)

/-- SUPPLY_GOOD (R437): supply `i` has become good; with the last one, and RST_N high, T0. -/
def execSupplyGood (i : Fin 9) (s : State) : Res :=
  .next (({ s with pwr := { s.pwr with badSupply := NSet.del i.val s.pwr.badSupply } }).tryT0)

/-- RESET sent to every die whose link is up, before KN40 is reset itself (R357 case 4). -/
def State.tellDies (s : State) : State :=
  s.forEach ((upTo 4).filter (fun p => (s.port p).link)) (fun s p => s.emit (.kpp p kRESET 0 0 []))

/-- RST_N_LOW (R438): RST_N low for `ns` nanoseconds so far: OFF from 1 us on, held until RST_N_RISE; ignored below 100 ns. R438 leaves
the outcome between these lengths undefined, in every state but OFF. -/
def execRstNLow (ns : Nat) (s : State) : Res :=
  if 1000 ≤ ns then .next ((({ s with pwr := { s.pwr with rstLow := true } }).tellDies).toOff true)
  else if ns < 100 ∨ s.pwr.off then .next s
  else .fault .rstPulseUndefined

/-- RST_N_RISE (R437). -/
def execRstNRise (s : State) : Res := .next (({ s with pwr := { s.pwr with rstLow := false } }).tryT0)

/-! ## TO_AON (R441) -/

/-- The port is reset and its link down with its domain (R357 case 4, R441). -/
def State.portOff (s : State) (p : Nat) : State :=
  let s := if (s.port p).link then s.portReset p 4 else s
  let s := s.setPort p { s.port p with helloAt := none, link := false }
  ((s.set (R.CDP_STATUS_STATE p) 0).set (R.CDP_STATUS_RATE p) 0).set (R.CDP_STATUS_MODULES p) 0

/-- The flash tier shut down with its journal durable (R441). -/
def State.flashDown (s : State) : State :=
  let s := if s.flashUp then
      ({ s with ftl := { s.ftl.discard with stale := [], undo := [], hostPend := [], record := false } }).set R.FTL_COMMIT_DURABLE_STEP (s.rf R.FTL_COMMIT_COMMITTED_STEP)
    else s
  ((({ s with ftl := s.flashLoss }).set R.FTL_FORMAT_BUSY 0).set R.FTL_STATUS_STATE 0).set R.FTL_STATUS_RATE 0

/-- Every domain but the always-on one loses power (R441): HBM with a staged image, on-die buffers, map memory and runtime objects are
lost, the host link and the ports go down. -/
def State.cutDomains (s : State) : State :=
  let s := (s.linkDown 3).clearMap
  let s := s.dropStaged.set R.CHART_LOAD_STATUS_STATE 0
  let s := { s with mem := [], lostHbm := none, hbmKept := [], marks := [], tier := TierSt.reset, pwr := { s.pwr with awake := [], waking := [] } }
  let s := s.forEach (upTo 4) State.portOff
  let s := s.forEach (upTo 8) (fun s k => s.set (R.HBM_STACK_STATE k) 0)
  let s := ((s.flashDown.set R.PWR_CLOCK_FCLK_MHZ 0).set R.PWR_CLOCK_NEXT_MHZ 0).set R.PWR_CLOCK_SWITCH_AT 0
  (s.showUnits.set R.PWR_THERM_CRIT_SEEN 0).setPower 1 5

/-- Whether TO_AON is accepted (R441). -/
def State.mayToAon (s : State) : Bool :=
  s.rf R.PWR_STATE_STATE == 2 && s.phase == phIDLE && s.chart.active.isNone && !s.usedCtx.any s.hostOpen && s.tier.cmd.isNone

/-- A write of PWR_CTRL (R441, R467). -/
def State.writePwrCtrl (s : State) (w : Wr) : State :=
  let t := s.regWrite 0x20008 w
  if w.get .host R.PWR_CTRL_TO_AON = 1 then
    if t.mayToAon then (t.set R.PWR_CTRL_STATUS stOK).cutDomains
    else (t.set R.PWR_CTRL_STATUS stBAD_ARG).refuse 0x20008 stBAD_ARG
  else t

/-- TO_AON (R441): a write of PWR_CTRL with TO_AON set. -/
def execToAon (m : Master) (v : BitVec 64) (s : State) : Res :=
  .next (if s.reach m then s.writePwrCtrl (Wr.full m (v ||| 1).toNat) else s)

/-! ## The critical cut (R464) -/

/-- What the always-on domain keeps through a critical cut: GLB, BOOT and PWR registers, the error log and SYNC. -/
def aonCell (k : Nat) : Bool := inRange 0 0x40000 k || logCell k || inRange 0x780000 0x780040 k

/-- A critical cut (R464): the effects of a loss of supplies on everything but the always-on domain, the firmware, the error log and the
row counter; FLAG_OUT is raised in the training domain and, once raised in a step, held up to its bind-off count. -/
def State.criticalCut (s : State) : State :=
  let held := s.training || (s.phase == phSETTLE && s.flagOut)
  let hold := if held then some (s.rf R.STEP_BINDOFF_VALUE) else s.pwr.critHold
  let r : State := { State.reset with
    pending := s.pending
    row := s.row
    sent := s.sent
    free := s.free
    flagOut := hold.isSome
    flagIn := s.flagIn
    logRound := s.logRound
    regs := s.regs.filter (fun (c : Nat × Nat) => aonCell c.1)
    sync := s.sync
    ftl := s.flashLoss
    pwr := { s.pwr with critHold := hold, awake := [], waking := [] } }
  let r := r.forEach (upTo 4) (fun s p =>
    (s.set (R.CDP_CTRL_PACE_CREDITS p) s.pwr.defPace).set (R.CDP_CREDIT_PACE_CREDITS p) s.pwr.defPace)
  let r := ((r.assignUnits s.pwr.bootMap).set R.PWR_THERM_CRIT_SEEN 1).set R.PWR_THERM_LAST_EVENT 3
  let r := ((r.set R.PWR_CLOCK_FCLK_MHZ 0).set R.PWR_CLOCK_NEXT_MHZ 0).set R.PWR_CLOCK_SWITCH_AT 0
  (r.showUnits.emit (.inBand 2)).setPower 1 7

/-- THERMAL_SAMPLE (R461 to R465): the next multiple of 1,000 ticks; the most severe event that is due acts, a trip at a sensor's tenth
sample in a row, an emergency at its second, a critical cut from the second on. Outside READY and RUN the readings are only kept. -/
def execThermalSample (temps : List Int) (s : State) : Res :=
  .next (if s.pwr.off ∨ temps.length ≠ 64 then s
    else
      let s := (s.advance ((s.row / 1000 + 1) * 1000)).takeSample temps
      if s.rf R.PWR_STATE_STATE < 2 then s
      else if s.pwr.critRun.any (2 ≤ ·) then s.criticalCut
      else if s.pwr.emergRun.any (· == 2) then s.emergencyStop
      else if s.pwr.tripRun.any (· == 10) then s.trip 1
      else s)

/-- THERM_STOP (R462): a write of PWR_MGMT with THERM_STOP set, over MGMT. -/
def execThermStop (s : State) : Res :=
  .next (if s.reach .mgmt then s.writePwrMgmt (Wr.full .mgmt 4) else s)

end Sys2Proof.Machine
end

