-- ==== Sys2Proof/Machine/RegWrite.lean ====
section
/-! DEFINITION. Machine/RegWrite.lean: a BAR0 access as a whole: which operation a register's write is, what a register reads as,
and the commands that are a plain write, a read, or an access over MGMT (R9 to R12, R466, R468 to R473). -/

namespace Sys2Proof.Machine

/-! ## Writes -/

/-- Whether `off` is element `i < n` of an array of registers; its index. -/
def elemOf (base stride n off : Nat) : Option Nat :=
  if base ≤ off ∧ (off - base) % stride = 0 ∧ (off - base) / stride < n then some ((off - base) / stride) else none

/-- A write of a register outside the arrays: its operation where a rule gives the write an effect of its own, else field by field. -/
def State.writePlainReg (s : State) (off : Nat) (w : Wr) : State :=
  if off = 0x10018 then s.writeRollback w
  else if off = 0x20008 then s.writePwrCtrl w
  else if off = 0x20030 then s.writeThermCfg w
  else if off = 0x20038 then s.writePwrMgmt w
  else if off = 0x40020 then s.writeLoadSrc w
  else if off = 0x40028 then s.writeLoadCtrl w
  else if off = 0x40038 then s.writeCommit w
  else if off = 0x40040 then s.writeVariant w
  else if off = 0x80038 then s.writeSwatch w
  else if off = 0x80040 then s.writeStepCtrl w
  else if off = 0x80100 then s.writeStepFlag w
  else if off = 0x80118 then s.writeScaleSet w
  else if off = 0x80120 then s.writeScaleCfg w
  else if off = 0x80130 then s.writeOptSet w
  else if off = 0x80138 then s.writeLr w
  else if off = 0x201018 then s.writeFarFault w
  else if off = 0x300008 then s.writeTierHost w
  else if off = 0x300010 then s.writeHostPages w
  else if off = 0x300020 then s.writeMapCtrl w
  else if off = 0x300040 then s.writeBiasCmd w
  else if off = 0x300048 then s.writeLookup w
  else if off = 0x380010 ∨ off = 0x380018 then s.writeRegion off w
  else if off = 0x380020 then s.writeFormat w
  else if off = 0x380040 then s.writeDisturb w
  else if off = 0x600010 then s.writeMend w
  else if off = 0x680000 then s.writeGaugeCtrl w
  else if off = 0x700000 then s.writeIdleCtrl w
  else if off = 0x708000 then s.writeTensionCtrl w
  else if off = 0x780000 then s.writeSyncConfig w
  else if off = 0x780008 then s.writeSyncCtrl w
  else if off = 0x780010 ∨ off = 0x780030 then s.writeSyncPlain off w
  else if off = 0x780018 then s.writeLaunch w
  else s.regWrite off w

/-- A write of the register at a multiple of 8. -/
def State.writeReg (s : State) (off : Nat) (w : Wr) : State :=
  match (upTo 6).findSome? (fun k => (elemOf (0x200000 + 8 * k) 0x40 64 off).map (fun q => (q, k))) with
  | some (q, k) => s.writeQueue q k w
  | none =>
    match elemOf 0x208008 0x10 2048 off with
    | some v => (s.regWrite off w).flushVec v
    | none =>
      match elemOf 0x302000 8 64 off with
      | some e => s.writeLend (e / 2) (e % 2 == 1) w
      | none =>
        match elemOf 0x500018 0x1000 4 off with
        | some p => s.writeCdpCtrl p w
        | none => s.writePlainReg off w

/-- Whether an offset lies in the reserved upper half of a 32-bit register (R468, R469). -/
def upperHalf (off : Nat) : Bool :=
  off % 8 == 4 && match findReg (off - 4) with | some r => r.width == 32 | none => false

/-- A write of `size` bytes at a BAR0 offset (R10 to R12): only naturally aligned 4- and 8-byte accesses below 0x80_0000 act. -/
def State.barWrite (s : State) (m : Master) (off size v : Nat) : State :=
  if ¬ (size = 4 ∨ size = 8) ∨ off % size ≠ 0 ∨ 0x800000 ≤ off ∨ upperHalf off then s.badArg off
  else
    let lo := 8 * (off % 8)
    s.writeReg (off - off % 8) ⟨m, v % 2 ^ (8 * size) * 2 ^ lo, lo, 8 * size⟩


/-! ## Reads -/

/-- GLB_STATUS (R470): mirrors of its source fields. -/
def State.glbStatus (s : State) : Nat :=
  let b := fun (c : Bool) (k : Nat) => if c then 2 ^ k else 0
  s.rf (R.FAULT_LOG_W1_STATUS ((s.rf R.FAULT_LOG_PTR_HEAD + 4095) % 4096)) * 2 ^ 40
    + s.rf R.PWR_STATE_STATE * 2 ^ 28 + s.phase * 2 ^ 24 + s.rf R.SYNC_STATUS_CLOCK * 2 ^ 20
    + b (s.rf R.FAULT_STATUS_NO_SPARE != 0) 7 + b (s.rf R.PWR_THERM_HOT == 1) 6 + b (s.rf R.SYNC_STATUS_TAINTED == 1) 5
    + b (s.rf R.FAULT_LOG_PTR_HEAD != s.rf R.FAULT_LOG_PTR_TAIL) 4 + b (s.rf R.STEP_FLAG_RAISED == 1) 3 + b s.flagIn 2
    + b (s.rf R.BOOT_STATUS_STATE == 5) 1 + b (s.rf R.CHART_ACTIVE_VALID == 1) 0

/-- What a field reads as where it is not kept in a cell: the open streams of CHART_DRAIN (R82), the clean run of SYNC_CLOCK (R411),
a queue's state (R383), the capability headers of the CXL component registers (R375; log entry 11), zero in a stream context that the ownership map does not give away (R229); else its cell, and zero for WO (R9). -/
def State.readFld (s : State) (off : Nat) (f : FldRow) : Nat :=
  let pend := s.reshards && !s.chart.commits.isEmpty
  if f.acc = .wo then 0
  else if off = 0x40048 ∧ f.lo = 32 then (if pend then s.openHost.headD 0 else 0)
  else if off = 0x40048 ∧ f.lo = 0 then (if pend then s.openHost.length else 0)
  else if 0x100000 ≤ off ∧ off < 0x200000 ∧ s.ctxOwner ((off - 0x100000) / 64) = 0 then 0
  else if off = 0x780028 ∧ f.lo = 0 then min 0xFFFF (s.cleanTicks.toNat / 4096)
  else if off = 0x219000 then 0x0802000202110001
  else if off = 0x219008 then 0x10010005
  else match elemOf 0x200028 0x40 64 off with
    | some q => if f.lo = 0 then s.queueState q else s.rf ⟨off, f.lo, f.w⟩
    | none => s.rf ⟨off, f.lo, f.w⟩

/-- Blocks that return their contents in AON: GLB, BOOT, PWR, FAULT and SYNC (R473). -/
def aonBlock (off : Nat) : Bool :=
  decide (off < 0x40000) || (decide (0x600000 ≤ off) && decide (off < 0x680000)) || (decide (0x780000 ≤ off) && decide (off < 0x800000))

/-- The register at a multiple of 8, as 64 bits (R9, R11, R468 to R473). -/
def State.readReg (s : State) (off : Nat) : Nat :=
  if s.rf R.PWR_STATE_STATE < 2 ∧ aonBlock off = false then 0
  else if off = 8 then s.row
  else if off = 0x10 then s.glbStatus
  else match findReg off with
    | none => 0
    | some r => r.fields.foldl (fun a f => a + s.readFld off f * 2 ^ f.lo) 0

/-- What a read of PWR_THERM leaves: PEAK_C cleared (R473). -/
def State.afterRead (s : State) (off : Nat) : State := if off = 0x20028 then s.set R.PWR_THERM_PEAK_C 0 else s

/-- A register's eight bytes answered. -/
def State.answerReg (s : State) (off : Nat) : State :=
  (s.emit (.answer ((natLe 8 (s.readReg off)).map (fun b => (b, false))))).afterRead off

/-- A read of `size` bytes at a BAR0 offset answered (R11, R12, R366): one that is not naturally aligned, or of another size, reads zero and is
logged; what lies above the registers reads zero. -/
def State.barRead (s : State) (off size : Nat) : State :=
  if ¬ (size = 4 ∨ size = 8) ∨ off % size ≠ 0 then (s.badArg off).emit (.answer (List.replicate size (0, false)))
  else if 0x800000 ≤ off then s.emit (.answer (List.replicate size (0, false)))
  else
    (s.emit (.answer (((((natLe 8 (s.readReg (off - off % 8))).drop (off % 8)).take size)).map (fun b => (b, false))))).afterRead (off - off % 8)

/-- REGISTER_WRITE (R10 to R12, R366): any BAR0 write, and the BAR0 read that R12 and R366 speak of; a request of the host with a translated
address is unsupported (R376). -/
def execRegisterWrite (m : Master) (off : BitVec 24) (acc : RegAccess) (v : BitVec 64) (s : State) : Res :=
  .next (if !s.reach m then s
    else if m = .host ∧ acc.translated = true then s.emit .unsupported
    else if acc.read then s.barRead off.toNat acc.size
    else s.barWrite m off.toNat acc.size v.toNat)

/-- PEAK_READ (R473): a read of PWR_THERM answers the register and then clears PEAK_C. -/
def execPeakRead (s : State) : Res := .next (if s.pwr.off then s else s.answerReg 0x20028)

/-- MGMT_ACCESS (R12, R466): an I3C private write of an offset and eight bytes, or a private read after an offset was selected; a read
that is not naturally aligned answers zero and is logged. -/
def execMgmtAccess (write : Bool) (off : BitVec 24) (data : BitVec 64) (s : State) : Res :=
  .next (if !s.reach .mgmt then s
    else if write then s.barWrite .mgmt off.toNat 8 data.toNat
    else if off.toNat % 8 ≠ 0 then (s.badArg off.toNat).emit (.answer (List.replicate 8 (0, false)))
    else if off.toNat < 0x800000 then s.answerReg off.toNat
    else s.emit (.answer (List.replicate 8 (0, false))))

end Sys2Proof.Machine
end

