-- ==== Sys2Proof/Machine/RoundEnd.lean ====
section
/-! DEFINITION. Machine/RoundEnd.lean: what the end of a round of 32 ticks brings (R236, R252, R268, R278, R354, R404). -/

namespace Sys2Proof.Machine

/-- Bursts of the block of a skein in hand that comes next, by its raw bytes at DST (R252; log entry 201). -/
def skeinBursts (x : Option SkeinCtx) : Nat :=
  match x with
  | none => 0
  | some k => ceilDiv ((k.dst + 65536 * k.block) % 4096 + blockRaw k.len k.block) 4096

/-- Unmet demand of tension source k at a round end (R252): pace requests of a port's paced streams, whatever their state; messages of a
die that no slot has carried yet; requests of the host and bursts of host-opened streams (log entry 201); requests of neighbours. -/
def State.unmet (s : State) (k : Nat) : Nat :=
  if k < 4 then
    (s.runSet.filter (fun n => s.rf (R.STREAM_TIME_PACE n) / 16384 == k && (instrsOf (s.progOf n)).any (fun u => uOp u == opWAITPACE))).foldl
      (fun a n => a + (signed 16 ((s.rf (R.STREAM_RUN_PACE_RECV n) + 65536 - s.rf (R.STREAM_RUN_PACE_USED n)) % 65536)).toNat) 0
  else if k < 8 then (s.port (k - 4)).queue.length
  else if k = 8 then
    s.host.reqs.length + (s.usedCtx.filter (fun n => (s.str n).host)).foldl (fun a n =>
      (s.str n).blocks.foldl (fun a b => a + ceilDiv (b.dst % 4096 + b.len) 4096) a + skeinBursts (s.str n).sk) 0
  else s.tier.peers.length

/-- The tension of one round end added to the step's figures, with the largest amount and the plan round it was first reached (R252, R254). -/
def State.addTension (s : State) (round : Nat) : State :=
  s.forEach (upTo 10) (fun s k =>
    let u := s.unmet k
    if u = 0 then s
    else
      let p := SMap.get (fun _ => (0, 0)) s.tensPeak k
      { s with
        tens := SMap.put (fun _ => 0) s.tens k (SMap.get (fun _ => 0) s.tens k + u)
        tensPeak := if p.1 < u then SMap.put (fun _ => (0, 0)) s.tensPeak k (u, round) else s.tensPeak })

/-- The running TIER_MAP command gone on (R268): DONE counts the pages completed; how many a round completes is a free value, and the last
one is counted when the command completes. -/
def State.mapProgress (s : State) : State :=
  match s.tier.cmd with
  | none => s
  | some n =>
    let done := s.rf R.TIER_MAP_STATUS_DONE
    let v := s.fresh
    v.2.set R.TIER_MAP_STATUS_DONE (min (n - 1) (done + v.1 % (n - done)))

/-- Messages of the dies, requests of the host and of neighbours whose slots have passed served. -/
def State.serveWaiting (s : State) : State := s.serveDies.serveHostReqs.servePeers

/-- ROUND_END (R252, R404): at the end of a plan round what its slots have carried is served, the demand that is left is counted, and the
counted idle ticks are added. -/
def execRoundEnd (s : State) : Res :=
  .next (if s.pwr.off || !s.inPlan then s
    else ((((s.advance (s.planC + ((s.row - s.planC) / 32 + 1) * 32)).serveWaiting).addTension s.planRound).flushIdle).mapProgress)

/-- IDLE_CUM_PERIOD (R404): outside plan time, at the end of each 32 ticks, the counted ticks are added to IDLE_CUM. -/
def execIdleCumPeriod (s : State) : Res :=
  .next (if s.pwr.off ∨ s.inPlan then s else (((s.advance (s.row / 32 * 32 + 32)).serveWaiting).flushIdle).mapProgress)

/-! ## The end of a pause -/

/-- Plan time resumes: the slip grows by the pause, a swatch by its failover pause (R19, R231, R421). -/
def State.resumePlan (s : State) : State :=
  let d := s.row - s.fault.pauseFrom
  { s with
    step := { s.step with slip := s.step.slip + d, swatchEnd := if s.phase = phSWATCH then s.step.swatchEnd + d else s.step.swatchEnd }
    fault := { s.fault with peerPause := false, pauseEnd := none } }

/-- Ports that have not come UP again by the end of a failover pause reset as their link had gone down (R357, R418). -/
def State.resetLatePorts (s : State) : State :=
  s.forEach ((upTo 4).filter (fun p => s.rf (R.CDP_STATUS_STATE p) == 5)) (fun s p => s.portReset p 2)

/-- A failover pause ends: plan time resumes, unless a SCOPE 1 generation has become overdue where it stands (R231). -/
def State.endFailover (s : State) : State :=
  let s := (s.set R.FAULT_STATUS_PAUSED 0).resetLatePorts
  if s.peerWaits then { s with fault := { s.fault with pauseEnd := none, peerPause := true } } else s.resumePlan.showWakes

/-- A barrier pause's generation has completed: plan time resumes, unless a failover in that pause extends it by its length (R421). -/
def State.endPeerPause (s : State) : State :=
  let len := s.fault.pauseWant
  if len = 0 then s.resumePlan.showWakes
  else
    let s := { s with fault := { s.fault with pauseWant := 0, pauseEnd := some (s.row + len), peerPause := false } }
    (s.set R.FAULT_STATUS_PAUSED 1).set R.FAULT_LAST_AT s.fault.pauseFrom

/-- PAUSE_END (R231, R418, R421): a failover pause ends at its fixed length, a barrier pause at the first round boundary after the generation
completes. -/
def execPauseEnd (s : State) : Res :=
  .next (match s.fault.pauseEnd with
    | some t => (s.advance t).endFailover
    | none => if s.fault.peerPause && !s.peerWaits then (s.advance (s.roundUp s.row)).endPeerPause else s)

end Sys2Proof.Machine
end

