-- ==== Sys2Proof/Machine/Dispatch.lean ====
section
/-! DEFINITION. Machine/Dispatch.lean: the one arm of every command. -/

namespace Sys2Proof.Machine

/-- The effect of one command on everything but the queue. -/
def exec (i : Instr) (s : State) : Host.Outcome State Fault Refusal :=
  match i with
  | .registerWrite m off acc v => Sys2Proof.Machine.execRegisterWrite m off acc v s
  | .launchCount => Sys2Proof.Machine.execLaunchCount s
  | .castOn => Sys2Proof.Machine.execCastOn s
  | .commitDeadline => Sys2Proof.Machine.execCommitDeadline s
  | .endOfReserve => Sys2Proof.Machine.execEndOfReserve s
  | .verdictSample flagIn => Sys2Proof.Machine.execVerdictSample flagIn s
  | .bindOff => Sys2Proof.Machine.execBindOff s
  | .agreementRound flagIn => Sys2Proof.Machine.execAgreementRound flagIn s
  | .ledgerAudit => Sys2Proof.Machine.execLedgerAudit s
  | .boundaryDecisions => Sys2Proof.Machine.execBoundaryDecisions s
  | .swatchStart => Sys2Proof.Machine.execSwatchStart s
  | .swatchEnd => Sys2Proof.Machine.execSwatchEnd s
  | .unitWake u => Sys2Proof.Machine.execUnitWake u s
  | .unitGate u => Sys2Proof.Machine.execUnitGate u s
  | .swatchRequest m v => Sys2Proof.Machine.execSwatchRequest m v s
  | .stopRequest m v => Sys2Proof.Machine.execStopRequest m v s
  | .chartLoad m v => Sys2Proof.Machine.execChartLoad m v s
  | .chartFetchDone image => Sys2Proof.Machine.execChartFetchDone image s
  | .chartValidationDone => Sys2Proof.Machine.execChartValidationDone s
  | .chartDiscard m v => Sys2Proof.Machine.execChartDiscard m v s
  | .chartUninstall m v => Sys2Proof.Machine.execChartUninstall m v s
  | .chartCommitRequest m v => Sys2Proof.Machine.execChartCommitRequest m v s
  | .chartCommitWithdraw m v => Sys2Proof.Machine.execChartCommitWithdraw m v s
  | .variantCommitRequest m v => Sys2Proof.Machine.execVariantCommitRequest m v s
  | .variantCommitWithdraw m v => Sys2Proof.Machine.execVariantCommitWithdraw m v s
  | .chartInstall => Sys2Proof.Machine.execChartInstall s
  | .segmentStart e => Sys2Proof.Machine.execSegmentStart e s
  | .segmentEnd e => Sys2Proof.Machine.execSegmentEnd e s
  | .updateChunk e peers => Sys2Proof.Machine.execUpdateChunk e peers s
  | .updateChunkDone e => Sys2Proof.Machine.execUpdateChunkDone e s
  | .panelWalk e => Sys2Proof.Machine.execPanelWalk e s
  | .skeinEncodeSlot n => Sys2Proof.Machine.execSkeinEncodeSlot n s
  | .skeinDecodeSlot n => Sys2Proof.Machine.execSkeinDecodeSlot n s
  | .expanderChunk core skein panel chunk => Sys2Proof.Machine.execExpanderChunk core skein panel chunk s
  | .streamStart n => Sys2Proof.Machine.execStreamStart n s
  | .move n => Sys2Proof.Machine.execMove n s
  | .movex n => Sys2Proof.Machine.execMovex n s
  | .inline n => Sys2Proof.Machine.execInline n s
  | .loop n => Sys2Proof.Machine.execLoop n s
  | .endloop n => Sys2Proof.Machine.execEndloop n s
  | .waitpace n => Sys2Proof.Machine.execWaitpace n s
  | .waitsem n => Sys2Proof.Machine.execWaitsem n s
  | .waitsemPass n => Sys2Proof.Machine.execWaitsemPass n s
  | .signal n => Sys2Proof.Machine.execSignal n s
  | .mark n => Sys2Proof.Machine.execMark n s
  | .fence n => Sys2Proof.Machine.execFence n s
  | .seal n => Sys2Proof.Machine.execSeal n s
  | .farReadCompletion n far kind => Sys2Proof.Machine.execFarReadCompletion n far kind s
  | .barrier n => Sys2Proof.Machine.execBarrier n s
  | .barrierComplete id => Sys2Proof.Machine.execBarrierComplete id s
  | .barrierAnnouncement j id gen => Sys2Proof.Machine.execBarrierAnnouncement j id gen s
  | .setreg n => Sys2Proof.Machine.execSetreg n s
  | .nop n => Sys2Proof.Machine.execNop n s
  | .endOp n => Sys2Proof.Machine.execEndOp n s
  | .blockComplete n w => Sys2Proof.Machine.execBlockComplete n w s
  | .roundEnd => Sys2Proof.Machine.execRoundEnd s
  | .pauseBegin => Sys2Proof.Machine.execPauseBegin s
  | .pauseEnd => Sys2Proof.Machine.execPauseEnd s
  | .tierMap m v => Sys2Proof.Machine.execTierMap m v s
  | .tierUnmap m v => Sys2Proof.Machine.execTierUnmap m v s
  | .tierReclass m v => Sys2Proof.Machine.execTierReclass m v s
  | .tierMapDone => Sys2Proof.Machine.execTierMapDone s
  | .migrationPass => Sys2Proof.Machine.execMigrationPass s
  | .pageMigrationDone ok data => Sys2Proof.Machine.execPageMigrationDone ok data s
  | .tierLookup m v => Sys2Proof.Machine.execTierLookup m v s
  | .biasToHost m v => Sys2Proof.Machine.execBiasToHost m v s
  | .biasToDevice m v => Sys2Proof.Machine.execBiasToDevice m v s
  | .biasChangeDone => Sys2Proof.Machine.execBiasChangeDone s
  | .lendEntryWrite m e b v => Sys2Proof.Machine.execLendEntryWrite m e b v s
  | .peerRequest req addr len data poison => Sys2Proof.Machine.execPeerRequest req addr len data poison s
  | .mapMemoryError at_ => Sys2Proof.Machine.execMapMemoryError at_ s
  | .ftlFormat m v => Sys2Proof.Machine.execFtlFormat m v s
  | .ftlFormatDone => Sys2Proof.Machine.execFtlFormatDone s
  | .flashArrayRead unit => Sys2Proof.Machine.execFlashArrayRead unit s
  | .codewordDecode unit cw outcome => Sys2Proof.Machine.execCodewordDecode unit cw outcome s
  | .flashProgramFail block => Sys2Proof.Machine.execFlashProgramFail block s
  | .commitRecordDurable => Sys2Proof.Machine.execCommitRecordDurable s
  | .blockRelocation block => Sys2Proof.Machine.execBlockRelocation block s
  | .blockErase block => Sys2Proof.Machine.execBlockErase block s
  | .wearLevelling block => Sys2Proof.Machine.execWearLevelling block s
  | .lunRetire ch lun answers => Sys2Proof.Machine.execLunRetire ch lun answers s
  | .ftlRecovery => Sys2Proof.Machine.execFtlRecovery s
  | .addw p w addr fmt data marks => Sys2Proof.Machine.execAddw p w addr fmt data marks s
  | .accumulatorClear => Sys2Proof.Machine.execAccumulatorClear s
  | .hostRaise m v => Sys2Proof.Machine.execHostRaise m v s
  | .lrWrite m v => Sys2Proof.Machine.execLrWrite m v s
  | .scaleSetWrite m v => Sys2Proof.Machine.execScaleSetWrite m v s
  | .creditReturn p hdr data addw => Sys2Proof.Machine.execCreditReturn p hdr data addw s
  | .rd p tag addr len => Sys2Proof.Machine.execRd p tag addr len s
  | .wrFromDie p addr data marks => Sys2Proof.Machine.execWrFromDie p addr data marks s
  | .pace p line count => Sys2Proof.Machine.execPace p line count s
  | .sigFromDie p id => Sys2Proof.Machine.execSigFromDie p id s
  | .fenceFromDie p tag => Sys2Proof.Machine.execFenceFromDie p tag s
  | .fackFromDie p tag status => Sys2Proof.Machine.execFackFromDie p tag status s
  | .ucieLinkUp p rate modules => Sys2Proof.Machine.execUcieLinkUp p rate modules s
  | .hello p role edition crHdr crData crAddw pace dieId => Sys2Proof.Machine.execHello p role edition crHdr crData crAddw pace dieId s
  | .linkControlReset p => Sys2Proof.Machine.execLinkControlReset p s
  | .ucieLinkDown p => Sys2Proof.Machine.execUcieLinkDown p s
  | .cdpReset m p v => Sys2Proof.Machine.execCdpReset m p v s
  | .cdpEnable m p v => Sys2Proof.Machine.execCdpEnable m p v s
  | .portHelloTimer p => Sys2Proof.Machine.execPortHelloTimer p s
  | .moduleFail p k => Sys2Proof.Machine.execModuleFail p k s
  | .moduleRetrainDone p => Sys2Proof.Machine.execModuleRetrainDone p s
  | .sqDoorbell m q v => Sys2Proof.Machine.execSqDoorbell m q v s
  | .cqHeadWrite m q v => Sys2Proof.Machine.execCqHeadWrite m q v s
  | .queueEnable m q v => Sys2Proof.Machine.execQueueEnable m q v s
  | .queueDisable m q v => Sys2Proof.Machine.execQueueDisable m q v s
  | .cmdNop q entry => Sys2Proof.Machine.execCmdNop q entry s
  | .cmdOpen q entry => Sys2Proof.Machine.execCmdOpen q entry s
  | .hostStreamStart n => Sys2Proof.Machine.execHostStreamStart n s
  | .cmdAbort q entry => Sys2Proof.Machine.execCmdAbort q entry s
  | .cmdWrite q entry => Sys2Proof.Machine.execCmdWrite q entry s
  | .cmdFence q entry => Sys2Proof.Machine.execCmdFence q entry s
  | .cmdReserved q entry => Sys2Proof.Machine.execCmdReserved q entry s
  | .bar2Request req off len data poison => Sys2Proof.Machine.execBar2Request req off len data poison s
  | .barAtomic bar off op size operand compare => Sys2Proof.Machine.execBarAtomic bar off op size operand compare s
  | .cxlMemRequest write addr data poison => Sys2Proof.Machine.execCxlMemRequest write addr data poison s
  | .cxlSnoop addr => Sys2Proof.Machine.execCxlSnoop addr s
  | .hostReadCompletion n seq kind data => Sys2Proof.Machine.execHostReadCompletion n seq kind data s
  | .farFaultReport m v => Sys2Proof.Machine.execFarFaultReport m v s
  | .flr => Sys2Proof.Machine.execFlr s
  | .perstNAssert other => Sys2Proof.Machine.execPerstNAssert other s
  | .hostLinkUp rate width mps => Sys2Proof.Machine.execHostLinkUp rate width mps s
  | .bmeSet => Sys2Proof.Machine.execBmeSet s
  | .msixUnmask v => Sys2Proof.Machine.execMsixUnmask v s
  | .syncConfigWrite m v => Sys2Proof.Machine.execSyncConfigWrite m v s
  | .syncArm m v => Sys2Proof.Machine.execSyncArm m v s
  | .sendRelease m v => Sys2Proof.Machine.execSendRelease m v s
  | .releaseSampled => Sys2Proof.Machine.execReleaseSampled s
  | .releaseLoad => Sys2Proof.Machine.execReleaseLoad s
  | .syncRunMalformed len => Sys2Proof.Machine.execSyncRunMalformed len s
  | .epochEmit => Sys2Proof.Machine.execEpochEmit s
  | .epochSampled offset16 => Sys2Proof.Machine.execEpochSampled offset16 s
  | .freeReturn => Sys2Proof.Machine.execFreeReturn s
  | .syncLost => Sys2Proof.Machine.execSyncLost s
  | .leaderWrite m v => Sys2Proof.Machine.execLeaderWrite m v s
  | .launchWrite m v => Sys2Proof.Machine.execLaunchWrite m v s
  | .launchCancel m v => Sys2Proof.Machine.execLaunchCancel m v s
  | .clockLoss => Sys2Proof.Machine.execClockLoss s
  | .clockGlitch => Sys2Proof.Machine.execClockGlitch s
  | .clockRate => Sys2Proof.Machine.execClockRate s
  | .gaugeClear m v => Sys2Proof.Machine.execGaugeClear m v s
  | .tensionClear m v => Sys2Proof.Machine.execTensionClear m v s
  | .idleClear m v => Sys2Proof.Machine.execIdleClear m v s
  | .unitFault u => Sys2Proof.Machine.execUnitFault u s
  | .correctableError u => Sys2Proof.Machine.execCorrectableError u s
  | .channelCopyDone => Sys2Proof.Machine.execChannelCopyDone s
  | .channelLoss ch => Sys2Proof.Machine.execChannelLoss ch s
  | .controlCoreFault k => Sys2Proof.Machine.execControlCoreFault k s
  | .lockstepMismatch pair => Sys2Proof.Machine.execLockstepMismatch pair s
  | .mend m v => Sys2Proof.Machine.execMend m v s
  | .mendSelfTestDone u pass => Sys2Proof.Machine.execMendSelfTestDone u pass s
  | .supplyGood rail => Sys2Proof.Machine.execSupplyGood rail s
  | .supplyLost rail => Sys2Proof.Machine.execSupplyLost rail s
  | .rstNLow ns => Sys2Proof.Machine.execRstNLow ns s
  | .rstNRise => Sys2Proof.Machine.execRstNRise s
  | .bootImageDone slotA slotB => Sys2Proof.Machine.execBootImageDone slotA slotB s
  | .bootTrainingDone flash => Sys2Proof.Machine.execBootTrainingDone flash s
  | .toAon m v => Sys2Proof.Machine.execToAon m v s
  | .wake m v => Sys2Proof.Machine.execWake m v s
  | .retryBoot m v => Sys2Proof.Machine.execRetryBoot m v s
  | .advanceFw m v => Sys2Proof.Machine.execAdvanceFw m v s
  | .advanceDev m v => Sys2Proof.Machine.execAdvanceDev m v s
  | .revokeFw m v => Sys2Proof.Machine.execRevokeFw m v s
  | .revokeDev m v => Sys2Proof.Machine.execRevokeDev m v s
  | .fuseBurnDone => Sys2Proof.Machine.execFuseBurnDone s
  | .thermalSample temps => Sys2Proof.Machine.execThermalSample temps s
  | .thermStop => Sys2Proof.Machine.execThermStop s
  | .pllLock => Sys2Proof.Machine.execPllLock s
  | .fclkSwitch => Sys2Proof.Machine.execFclkSwitch s
  | .vddMet mv => Sys2Proof.Machine.execVddMet mv s
  | .peakRead => Sys2Proof.Machine.execPeakRead s
  | .mgmtAccess write off data => Sys2Proof.Machine.execMgmtAccess write off data s
  | .forwardEnd => Sys2Proof.Machine.execForwardEnd s
  | .backwardEnd => Sys2Proof.Machine.execBackwardEnd s
  | .correctableWindowEnd => Sys2Proof.Machine.execCorrectableWindowEnd s
  | .oscillatorCalibration err => Sys2Proof.Machine.execOscillatorCalibration err s
  | .idleCumPeriod => Sys2Proof.Machine.execIdleCumPeriod s
  | .controlCoreJoin => Sys2Proof.Machine.execControlCoreJoin s
  | .backInvalidateAnswer line => Sys2Proof.Machine.execBackInvalidateAnswer line s
  | .configSpaceWrite kind v => Sys2Proof.Machine.execConfigSpaceWrite kind v s
  | .deviceKeyFuseBurn slot hash => Sys2Proof.Machine.execDeviceKeyFuseBurn slot hash s

end Sys2Proof.Machine
end

