-- ==== Sys2Proof/Safety.lean ====
section
/-! DEFINITION. Safety.lean: what the statements call a well-kept state, the parts of a state that a frame names, and a step that
goes on. -/

namespace Sys2Proof.Machine

/-- The register file in its canonical form: cells strictly rising, none at its reset value. -/
abbrev Regs.wf (s : State) : Prop := SMap.wf resetOf s.regs = true

/-- The phase is one of STEP_STATUS.PHASE (R37), and so is the phase that a cancelled launch returns to (R393). -/
def State.phaseLegal (s : State) : Prop := s.phase ≤ phHOLD ∧ s.step.prevPhase ≤ phHOLD

/-- The power state is one that PWR_STATE.STATE shows: AON, READY or RUN (R439). -/
def State.powerLegal (s : State) : Prop := 1 ≤ s.rf R.PWR_STATE_STATE ∧ s.rf R.PWR_STATE_STATE ≤ 3

/-- A well-kept state: registers and memory in canonical form, four ports, a legal phase, a legal power state. -/
structure State.WellKept (s : State) : Prop where
  regs  : Regs.wf s
  mem   : Memory.wf s
  ports : s.ports.length = 4
  phase : s.phaseLegal
  power : s.powerLegal

/-- The register block that a BAR0 offset lies in, by the Register list (R469): 0 GLB, 1 BOOT, 2 PWR, 3 CHART, 4 STEP, 5 STREAM, 6 HQ,
7 TIER, 8 FTL, 9 CLU, 10 SKEIN, 11 CDP, 12 HBM, 13 FAULT, 14 the error log, 15 GAUGE, 16 IDLE, 17 TENSION, 18 SYNC. -/
def blockOf (off : Nat) : Nat :=
  [0x10000, 0x20000, 0x40000, 0x80000, 0x100000, 0x200000, 0x300000, 0x380000, 0x400000, 0x480000, 0x500000, 0x580000, 0x600000,
    0x640000, 0x680000, 0x700000, 0x708000, 0x780000].countP (fun b => decide (b ≤ off))

/-- The block of a field. -/
def Fld.blk (f : Fld) : Nat := blockOf (f.key / 64)

/-- The parts of a state that a frame names: the blocks of registers, and the fields beside the registers. -/
inductive Part where
  | glbRegs | bootRegs | pwrRegs | chartRegs | stepRegs | streamRegs | hqRegs | tierRegs | ftlRegs | cluRegs | skeinRegs | cdpRegs
  | hbmRegs | faultRegs | logRegs | gaugeRegs | idleRegs | tensionRegs | syncRegs
  | row | memory | marks | sent | free | flagOut | flagIn | idleRuns | tension | paceBad | logRound | chart | step | stash | sync
  | fault | ledgers | ports | power | tier | streams | barriers | host | flash | update | clusters | gauge
  deriving DecidableEq, Repr

/-- The number of a part. -/
def Part.idx : Part → Nat
  | .glbRegs => 0 | .bootRegs => 1 | .pwrRegs => 2 | .chartRegs => 3 | .stepRegs => 4 | .streamRegs => 5 | .hqRegs => 6
  | .tierRegs => 7 | .ftlRegs => 8 | .cluRegs => 9 | .skeinRegs => 10 | .cdpRegs => 11 | .hbmRegs => 12 | .faultRegs => 13
  | .logRegs => 14 | .gaugeRegs => 15 | .idleRegs => 16 | .tensionRegs => 17 | .syncRegs => 18
  | .row => 19 | .memory => 20 | .marks => 21 | .sent => 22 | .free => 23 | .flagOut => 24 | .flagIn => 25 | .idleRuns => 26
  | .tension => 27 | .paceBad => 28 | .logRound => 29 | .chart => 30 | .step => 31 | .stash => 32 | .sync => 33 | .fault => 34
  | .ledgers => 35 | .ports => 36 | .power => 37 | .tier => 38 | .streams => 39 | .barriers => 40 | .host => 41 | .flash => 42
  | .update => 43 | .clusters => 44 | .gauge => 45

/-- Whether a part of two states is the same: for a block of registers, every field of the block reads alike; for memory, every byte. -/
def Part.same (p : Part) (s t : State) : Prop :=
  match p with
  | .row => t.row = s.row
  | .memory => ∀ a, t.byteAt a = s.byteAt a
  | .marks => t.marks = s.marks
  | .sent => t.sent = s.sent
  | .free => t.free = s.free
  | .flagOut => t.flagOut = s.flagOut
  | .flagIn => t.flagIn = s.flagIn
  | .idleRuns => t.idleRun = s.idleRun ∧ t.idleStep = s.idleStep ∧ t.idleFig = s.idleFig
  | .tension => t.tens = s.tens ∧ t.tensPeak = s.tensPeak
  | .paceBad => t.paceBad = s.paceBad
  | .logRound => t.logRound = s.logRound
  | .chart => t.chart = s.chart
  | .step => t.step = s.step
  | .stash => t.stash = s.stash
  | .sync => t.sync = s.sync
  | .fault => t.fault = s.fault
  | .ledgers => t.led = s.led
  | .ports => t.ports = s.ports
  | .power => t.pwr = s.pwr
  | .tier => t.tier = s.tier
  | .streams => t.strs = s.strs
  | .barriers => t.bar = s.bar
  | .host => t.host = s.host
  | .flash => t.ftl = s.ftl
  | .update => t.upd = s.upd
  | .clusters => t.clu = s.clu
  | .gauge => t.gauge = s.gauge
  | q => ∀ f : Fld, f.blk = q.idx → t.rf f = s.rf f

/-- Nothing but the named parts differs between two states; the queue of commands is no part and never differs. -/
def OnlyChanges (l : List Part) (s t : State) : Prop := t.pending = s.pending ∧ ∀ p : Part, p ∉ l → p.same s t

/-- No register cell but those of the listed fields differs between two states. -/
def OnlyWrites (fs : List Fld) (s t : State) : Prop := ∀ g : Fld, (∀ f ∈ fs, g.key ≠ f.key) → t.rf g = s.rf g

/-- A command completes: `exec` answers a next state, it differs from the first in the listed parts at most, and `post` holds of it. -/
def Runs (i : Instr) (s : State) (l : List Part) (post : State → Prop) : Prop :=
  ∃ t, exec i s = .next t ∧ OnlyChanges l s t ∧ post t

/-- A stream stands past an instruction: its PC is `pc`, and it runs on with nothing to wait for, or stays SEALED (R203). -/
def Passed (n pc : Nat) (s t : State) : Prop :=
  t.rf (R.STREAM_RUN_PC n) = pc % 2 ^ 16 ∧ t.sst n = (if s.sst n = ssSEALED then ssSEALED else ssRUN) ∧ t.rf (R.STREAM_RUN_WAIT n) = wtNONE

/-- A stream stays at its instruction and waits with a cause; a SEALED stream stays SEALED (R203, R230). -/
def Waits (n cause : Nat) (s t : State) : Prop :=
  t.rf (R.STREAM_RUN_PC n) = s.rf (R.STREAM_RUN_PC n) ∧ t.sst n = (if s.sst n = ssSEALED then ssSEALED else ssWAIT) ∧
    t.rf (R.STREAM_RUN_WAIT n) = cause

/-- No message of a die and no FACK waits in the ingress buffer of a port (R354). -/
def State.diesQuiet (s : State) : Prop := ∀ p < 4, (s.port p).queue = [] ∧ (s.port p).facks = []

/-- Nothing waits for slots of the dies, of the host or of the neighbours (R243, R278, R354). -/
def State.slotsQuiet (s : State) : Prop := s.diesQuiet ∧ s.tier.peers = [] ∧ s.host.reqs = []

/-- What a queue's completion ring has to carry has been written: no completion of it waits for room, no FENCE stands first among its commands under
way, and only OPENs, ABORTs and FENCEs stand there, which alone do not complete as they are taken (R368, R371). -/
def State.queueSettled (s : State) (q : Nat) : Prop :=
  (∀ c ∈ s.host.waiting, c.q ≠ q) ∧ (∀ c ∈ s.host.taken, c.q = q → c.op = 1 ∨ c.op = 2 ∨ c.op = 4) ∧
    ∀ c, s.host.taken.find? (fun t => t.q == q) = some c → c.op ≠ 4

/-- A command at the head of a queue has been taken and its completion written with a status: the head and the ring's tail stand one entry further, and
where Bus Master Enable is set the entry has gone to the ring (R367, R371). -/
def State.Completed (s : State) (q : Nat) (e : List Byte) (st : Nat) (t : State) : Prop :=
  let head := (s.rf (R.HQ_Q_STATUS_SQ_HEAD q) + 1) % s.sqSize q
  t.rf (R.HQ_Q_STATUS_SQ_HEAD q) = head % 2 ^ 16 ∧ t.rf (R.HQ_Q_STATUS_LAST_STATUS q) = st % 2 ^ 8 ∧
    t.rf (R.HQ_Q_STATUS_CQ_TAIL q) = (s.rf (R.HQ_Q_STATUS_CQ_TAIL q) + 1) % s.cqSize q % 2 ^ 16 ∧
    (s.rf R.HQ_LINK_BME = 1 →
      Sent.busWrite (s.rf (R.HQ_CQ_BASE_ADDR q) * 4096 + 16 * s.rf (R.HQ_Q_STATUS_CQ_TAIL q))
        (({ s with row := t.row }.cplEntry ⟨q, fieldLe e 2 2, st, head, fieldLe e 4 2⟩).map (fun b => (b, false))) false ∈ t.sent)

/-- The state in which a skein's next slot works: here for a stream that needs no slots of a schedule, else at the tick by which its slots have
carried what the slot moves; `none` when it has too few (R186, R248). -/
def State.slotState (s : State) (n : Nat) (k : SkeinCtx) : Option State :=
  let r := s.skeinSlot n k
  if s.slotted n && slotRan k (r.str n).sk then (s.claimFor n (s.slotLoad n k r)).map (fun c => (s.useSlots n c.1).toTick c.2) else some s

/-- Whether a far side that a stream wrote to can be asked for a confirmation: a die, or a page that is mapped and, in a neighbour's slice, within
what that slice holds (R264, R276, R377). -/
def State.confirmable (s : State) (n side : Nat) : Prop :=
  100 ≤ side ∨ ∃ e, s.entOf (SMap.get (fun _ => 0) (s.str n).far side / 2 ^ 21 % 2 ^ 31) = some e ∧
    (s.tierOf (e.page * 2 ^ 21) = 4 → s.peerOk e.page = true)

/-- A step or command that does not stop. -/
def goesOn : Res → Bool
  | .next _ => true
  | .fault _ => false
  | .refused _ => false

end Sys2Proof.Machine
end

