-- ==== Sys2Proof/Certificates/Slice0/Obligations.lean ====
section
/-! DEFINITION. Certificates/Slice0/Obligations.lean: the statements for the provers, from the numbered rules of the spec. -/

open Sys2Proof Sys2Proof.Machine

/-- A step takes the command at the front of the queue and is that command's effect on the state with the queue's rest. -/
def Obligations.StepRunsFront : Prop :=
  ∀ (c : Instr) (rest : List Instr) (s : State), step { s with pending := c :: rest } = exec c { s with pending := rest }

/-- The model's choice of log entry 5, over R17 and R37: a step on an empty queue moves the row counter on by one tick, and nothing at all in OFF. On its
way it counts the idle tick and shows RESERVE once the scheduled plan-end has passed; the phase stands otherwise. -/
def Obligations.EmptyQueueTick : Prop :=
  ∀ s : State, s.pending = [] → ∃ t, step s = .next t ∧ OnlyChanges [.stepRegs, .row, .idleRuns] s t ∧ (s.pwr.off = true → t = s) ∧
    (s.pwr.off = false → t.row = (s.row + 1) % 2 ^ 64 ∧
      (s.phase ≠ phTAIL → t.phase = s.phase) ∧
      (s.phase = phTAIL → s.paused = false → s.planEndAt ≤ s.row + 1 → t.phase = phRESERVE) ∧
      (s.phase = phTAIL → (s.paused = true ∨ s.row + 1 < s.planEndAt) → t.phase = phTAIL))

/-- R437, R439, R472: the block right after reset is in AON with the row counter at 0, phase IDLE, no chart, no step, nothing in memory or in the queue,
every field at its reset value, and it is well kept. The reset values of fused fields and of fields without one are those of log entries 2 and 10. -/
def Obligations.ResetState : Prop :=
  State.reset.WellKept ∧ State.reset.pending = [] ∧ State.reset.row = 0 ∧ State.reset.rf R.PWR_STATE_STATE = 1 ∧ State.reset.phase = phIDLE ∧
  State.reset.chart.active = none ∧ State.reset.rf R.STEP_SCALE_EXP = 16 ∧ State.reset.rf R.SYNC_CONFIG_FLAG_RTT = 64 ∧
  (∀ q : Fin 64, State.reset.rf (R.HQ_Q_CTRL_VECTOR q.val) = 0xFFFF) ∧ (∀ p : Fin 4, State.reset.rf (R.CDP_CREDIT_PACE_CREDITS p.val) = 32) ∧
  (∀ f : Fld, State.reset.rf f = resetOf f.key) ∧ (∀ a, State.reset.byteAt a = 0)

/-- Every step keeps a well-kept state well kept: the registers and the memory keep their canonical form, the four ports stay four, the phase stays one
of STEP_STATUS.PHASE (R37) and the power state one of PWR_STATE.STATE (R439). -/
def Obligations.StepKeepsWellKept : Prop :=
  ∀ s t : State, s.WellKept → step s = .next t → t.WellKept

/-- What has been sent stays sent and free values are drawn in order, whatever command runs; the queue loses its front and nothing else. -/
def Obligations.StepsOnlyAddMessages : Prop :=
  ∀ s t : State, step s = .next t → s.sent <+: t.sent ∧ s.free ≤ t.free ∧ t.pending = s.pending.tail

/-- R438: no step is refused, and the only fault is that of an RST_N pulse of 100 ns or more and less than 1 µs on a powered block, whose outcome is not
defined; a pulse of another length runs. -/
def Obligations.StepsStop : Prop :=
  (∀ (s : State) (r : Refusal), step s ≠ .refused r) ∧
  (∀ (s : State) (f : Fault), step s = .fault f ↔
    (f = .rstPulseUndefined ∧ s.pwr.off = false ∧ ∃ (ns : Nat) (rest : List Instr), s.pending = .rstNLow ns :: rest ∧ 100 ≤ ns ∧ ns < 1000))

/-- R255, R256: bytes of HBM and of on-die memory. Bytes written at ascending addresses read back as written, a zeroed range reads zero, and every other
byte reads as before. -/
def Obligations.MemoryReads : Prop :=
  (∀ (s : State) (da : Nat) (l : List Byte) (a : Nat), (s.setBytes da l).byteAt a = if da ≤ a ∧ a < da + l.length then l.getD (a - da) 0 else s.byteAt a) ∧
  (∀ (s : State) (da n a : Nat), (s.zeroRange da n).byteAt a = if da ≤ a ∧ a < da + n then 0 else s.byteAt a) ∧
  (∀ (s : State) (da n : Nat) (l : List Byte), Memory.wf s → Memory.wf (s.setBytes da l) ∧ Memory.wf (s.zeroRange da n))

/-- R9, R10, R11, R12: a BAR0 write of a register with no effect of its own. An owned RW field takes its bits of the value and everything else stays;
an access that is not 4 or 8 aligned bytes below 0x80_0000, or that falls in the reserved upper half of a 32-bit register, has no effect and is logged with
BAD_ARG; a register with no field that its writer may write
is left as it is and logged with NOT_OWNER (a queue's window counts the refusal too, R383); reserved bits are logged and the rest takes effect. A read that
R12 refuses answers zero without poison and is logged (R366); a request of the host with a translated address is unsupported (R376). -/
def Obligations.RegisterFields : Prop :=
  (∀ (off : BitVec 24) (f : Fld) (v : BitVec 64) (s : State), s.reach .host = true →
    ((off = 0x40050#24 ∧ f = R.CHART_SEED_SEED) ∨ (off = 0x80030#24 ∧ f = R.STEP_START_VALUE) ∨ (off = 0x201000#24 ∧ f = R.HQ_WINDOW_BASE) ∨
      (off = 0x201008#24 ∧ f = R.HQ_HDM_BASE)) →
    Runs (.registerWrite .host off (.wr 8) v) s [.chartRegs, .stepRegs, .hqRegs, .faultRegs, .logRegs, .logRound] (fun t =>
      t.rf f = bitsOf v.toNat f.lo f.w ∧ (∀ g : Fld, g.blk ≠ 13 → g.blk ≠ 14 → g.key ≠ f.key → t.rf g = s.rf g) ∧
      (v.toNat = bitsOf v.toNat f.lo f.w * 2 ^ f.lo → OnlyWrites [f] s t ∧ t.logRound = s.logRound))) ∧
  (∀ (m : Master) (off : BitVec 24) (size : Nat) (v : BitVec 64) (s : State), s.reach m = true →
    (size ≠ 4 ∧ size ≠ 8 ∨ off.toNat % size ≠ 0 ∨ 0x800000 ≤ off.toNat ∨ upperHalf off.toNat = true) →
    Runs (.registerWrite m off (.wr size) v) s [.faultRegs, .logRegs, .logRound] (fun t =>
      s.sameEvent stBAD_ARG (off.toNat / 65536 % 256) 0 (off.toNat % 2 ^ 32) = false →
      t.rf R.FAULT_LOG_PTR_HEAD = (s.rf R.FAULT_LOG_PTR_HEAD + 1) % 4096 ∧
      t.rf (R.FAULT_LOG_W1_STATUS (s.rf R.FAULT_LOG_PTR_HEAD)) = stBAD_ARG ∧
      t.rf (R.FAULT_LOG_W2_DETAIL (s.rf R.FAULT_LOG_PTR_HEAD)) = off.toNat)) ∧
  (∀ (m : Master) (off : BitVec 24) (size : Nat) (v : BitVec 64) (r : RegRow) (s : State), s.reach m = true → (size = 4 ∨ size = 8) →
    off.toNat % size = 0 → off.toNat < 0x800000 → findReg (off.toNat - off.toNat % 8) = some r → r.fields.all (fun f => f.acc == .ro) = true → blockOf off.toNat ≠ 6 →
    upperHalf off.toNat = false →
    Runs (.registerWrite m off (.wr size) v) s [.faultRegs, .logRegs, .logRound] (fun t =>
      s.sameEvent stNOT_OWNER (off.toNat / 65536 % 256) 0 ((off.toNat - off.toNat % 8) % 2 ^ 32) = false →
      t.rf (R.FAULT_LOG_W1_STATUS (s.rf R.FAULT_LOG_PTR_HEAD)) = stNOT_OWNER)) ∧
  (∀ (m : Master) (off : BitVec 24) (a : RegAccess) (v : BitVec 64) (s : State), s.reach m = false → exec (.registerWrite m off a v) s = .next s) ∧
  (∀ (off : BitVec 24) (a : RegAccess) (v : BitVec 64) (s : State), s.reach .host = true → a.translated = true →
    exec (.registerWrite .host off a v) s = .next (s.emit .unsupported)) ∧
  (∀ (m : Master) (off : BitVec 24) (a : RegAccess) (v : BitVec 64) (s : State), s.reach m = true → a.translated = false → a.read = true →
    (a.size ≠ 4 ∧ a.size ≠ 8 ∨ off.toNat % a.size ≠ 0) →
    Runs (.registerWrite m off a v) s [.faultRegs, .logRegs, .sent, .logRound] (fun t =>
      t.sent = s.sent ++ [.answer (List.replicate a.size (0, false))] ∧
      (s.sameEvent stBAD_ARG (off.toNat / 65536 % 256) 0 (off.toNat % 2 ^ 32) = false →
        t.rf R.FAULT_LOG_PTR_HEAD = (s.rf R.FAULT_LOG_PTR_HEAD + 1) % 4096 ∧
        t.rf (R.FAULT_LOG_W1_STATUS (s.rf R.FAULT_LOG_PTR_HEAD)) = stBAD_ARG))) ∧
  (∀ (m : Master) (off : BitVec 24) (a : RegAccess) (v : BitVec 64) (s : State), s.reach m = true → a.translated = false → a.read = true →
    (a.size = 4 ∨ a.size = 8) → off.toNat % a.size = 0 → off.toNat < 0x800000 →
    Runs (.registerWrite m off a v) s [.pwrRegs, .sent] (fun t =>
      t.sent = s.sent ++ [.answer ((((natLe 8 (s.readReg (off.toNat - off.toNat % 8))).drop (off.toNat % 8)).take a.size).map (fun b => (b, false)))] ∧
      (off.toNat - off.toNat % 8 ≠ 0x20028 → t = s.emit (.answer ((((natLe 8 (s.readReg (off.toNat - off.toNat % 8))).drop (off.toNat % 8)).take
        a.size).map (fun b => (b, false)))))))

/-- R392, R16, R17, R37, R28, R20, R26, R327: the counts of a step. Each moves the row to the count at which its rule puts it. LAUNCH_COUNT
takes the start number, the seed and the values that wait for a launch; CAST_ON fixes the bind-off and verdict counts and begins FORWARD with
no slip and no barrier arrivals; FORWARD_END and BACKWARD_END change the phase; COMMIT_DEADLINE changes nothing else; END_OF_RESERVE ends plan
time and any pause, raising FLAG_OUT when the plan has not completed, and serves what the dies still wait for; VERDICT_SAMPLE takes the verdict from FLAG_IN. -/
def Obligations.StepCounts : Prop :=
  (∀ (s : State) (c : Chart), s.chart.active = some c → s.phase = phARMED → s.step.launched = false →
    Runs .launchCount s [.chartRegs, .stepRegs, .cluRegs, .skeinRegs, .cdpRegs, .faultRegs, .row, .free, .idleRuns, .chart, .step, .fault, .ledgers,
        .update]
      (fun t => t.row = max s.row (s.rf R.SYNC_LAUNCH_COUNT) ∧ t.rf R.STEP_NUMBER_VALUE = s.rf R.STEP_START_VALUE % 2 ^ 64 ∧
        t.step.seed = s.rf R.CHART_SEED_SEED ∧ t.step.slip = 0 ∧ t.step.launched = true ∧ t.rf R.STEP_STATUS_HOLD_CAUSE = 0 ∧
        t.rf R.STEP_SCALE_SET_PENDING = 0 ∧ t.rf R.SKEIN_WALK_PANELS = 0 ∧
        (∀ p : Fin 36, t.rf (R.CLU_BUSY_CYCLES p.val) = 0 ∧ t.rf (R.CLU_SEGMENTS_COUNT p.val) = 0))) ∧
  (∀ (s : State) (c : Chart), s.chart.active = some c → s.castOnDue = true →
    Runs .castOn s [.pwrRegs, .stepRegs, .streamRegs, .tierRegs, .cluRegs, .skeinRegs, .faultRegs, .logRegs, .row, .memory, .marks, .sent,
        .flagOut, .idleRuns, .tension, .paceBad, .logRound, .step, .stash, .fault, .ledgers, .ports, .power, .tier, .streams, .barriers, .host, .flash,
        .update, .clusters, .gauge]
      (fun t =>
        t.host = { s.host with reqUsed := [], used := [], reqs := s.host.reqs.map (fun r => { r with due := none }) } ∧
        let at_ := s.rf R.STEP_NEXT_CASTON_VALUE
        let v := s.rf R.STEP_STATUS_NEXT_VARIANT
        t.row = max s.row at_ ∧ t.phase = phFORWARD ∧ t.rf R.STEP_CASTON_VALUE = at_ % 2 ^ 64 ∧
        t.rf R.STEP_VERDICT_AT_VALUE = (at_ + c.verdictAt v) % 2 ^ 64 ∧ t.rf R.STEP_BINDOFF_VALUE = (at_ + c.length v) % 2 ^ 64 ∧
        t.rf R.STEP_STATUS_VARIANT = v % 16 ∧ t.rf R.STEP_STATUS_HOLD_CAUSE = 0 ∧ t.rf R.STEP_NUMBER_VALUE = s.rf R.STEP_NUMBER_VALUE ∧
        t.step.slip = 0 ∧ t.step.finite = true ∧ t.bar = BarrierSt.reset ∧ t.stash = StashSt.reset ∧ t.gauge = [])) ∧
  (∀ s : State, s.phase = phFORWARD → s.step.reserveOver = false → s.paused = false →
    Runs .forwardEnd s [.stepRegs, .row, .idleRuns] (fun t =>
      t.row = max s.row (s.rf R.STEP_CASTON_VALUE + s.layout Chart.vF + s.step.slip) ∧ t.phase = phBACKWARD ∧
      OnlyWrites [R.STEP_STATUS_PHASE] s t)) ∧
  (∀ s : State, s.phase = phBACKWARD → s.step.reserveOver = false → s.paused = false →
    Runs .backwardEnd s [.stepRegs, .row, .idleRuns] (fun t =>
      let e := s.rf R.STEP_CASTON_VALUE + s.layout Chart.vF + s.layout Chart.vW + s.step.slip
      t.row = max s.row e ∧ (t.phase = if s.planEndAt ≤ max s.row e then phRESERVE else phTAIL) ∧
      OnlyWrites [R.STEP_STATUS_PHASE] s t)) ∧
  (∀ s : State, s.inStep = true →
    Runs .commitDeadline s [.stepRegs, .row, .idleRuns] (fun t => t.row = max s.row (s.rf R.STEP_BINDOFF_VALUE - 16384) ∧
      OnlyWrites [R.STEP_STATUS_PHASE] s t ∧ (s.phase ≠ phTAIL → t.phase = s.phase))) ∧
  (∀ s : State, s.training = true → s.step.reserveOver = false →
    Runs .endOfReserve s [.stepRegs, .streamRegs, .hqRegs, .tierRegs, .ftlRegs, .cluRegs, .cdpRegs, .faultRegs, .logRegs, .row, .memory, .marks,
        .sent, .free, .flagOut, .idleRuns, .logRound, .step, .fault, .ledgers, .ports, .tier, .streams, .barriers, .host, .flash, .update,
        .clusters, .gauge]
      (fun t => t.row = max s.row s.reserveEndAt ∧ t.phase = phRESERVE ∧ t.step = { s.step with reserveOver := true } ∧
        ((s.advance s.reserveEndAt).planDone = false → t.clu.left = [] ∧ t.clu.running = []))) ∧
  (∀ s : State, s.training = true → s.step.reserveOver = false → s.diesQuiet →
    Runs .endOfReserve s [.stepRegs, .streamRegs, .cluRegs, .faultRegs, .logRegs, .row, .flagOut, .idleRuns, .logRound, .step, .fault,
        .ledgers, .streams, .clusters]
      (fun t => t.row = max s.row s.reserveEndAt ∧ t.phase = phRESERVE ∧ t.step = { s.step with reserveOver := true } ∧
        t.fault = { s.fault with pauseWant := 0, pauseEnd := none, peerPause := false } ∧ t.rf R.FAULT_STATUS_PAUSED = 0 ∧
        ((s.advance s.reserveEndAt).planDone = true → t.flagOut = s.flagOut ∧ t.strs = s.strs ∧ t.rf R.STEP_FLAG_CAUSE = s.rf R.STEP_FLAG_CAUSE) ∧
        ((s.advance s.reserveEndAt).planDone = false → t.clu.left = [] ∧ t.clu.running = [] ∧
          (s.rf R.STEP_FLAG_RAISED = 0 → t.flagOut = true ∧ t.rf R.STEP_FLAG_RAISED = 1 ∧ t.rf R.STEP_FLAG_CAUSE = 6)))) ∧
  (∀ (b : Bool) (s : State), s.phase = phRESERVE → s.step.reserveOver = true →
    Runs (.verdictSample b) s [.stepRegs, .faultRegs, .logRegs, .row, .flagIn, .idleRuns, .logRound, .step] (fun t =>
      t.row = max s.row (s.rf R.STEP_VERDICT_AT_VALUE) ∧ t.flagIn = b ∧ t.step.finite = !b ∧ t.phase = phSETTLE ∧
      t.rf R.STEP_FLAG_SAMPLED = (if b then 1 else 0) ∧
      t.rf R.STEP_FLAG_MISMATCH = (if s.flagOut && !b then 1 else s.rf R.STEP_FLAG_MISMATCH)))

/-- R24, R26, R27, R54: at bind-off the finite verdict commits the step's shadows and counts the optimizer step, the other discards them;
FLAG_OUT is released before the first round's level, the stash is freed, the step number rises, and the device enters the boundary with the
audit, the decisions and the figures due. A bind-off that a cut has held releases FLAG_OUT and makes the stand-ins of the
step of record (R4). -/
def Obligations.BindOff : Prop :=
  (∀ (s : State) (c : Chart), s.pwr.critHold = none → s.chart.active = some c → s.phase = phSETTLE →
    Runs .bindOff s [.chartRegs, .stepRegs, .hqRegs, .ftlRegs, .syncRegs, .row, .memory, .marks, .sent, .flagOut, .idleRuns, .chart, .step,
        .stash, .sync, .ledgers, .ports, .power, .tier, .flash, .update]
      (fun t =>
        let n := s.rf R.STEP_NUMBER_VALUE
        t.row = max s.row (s.rf R.STEP_BINDOFF_VALUE) ∧ t.rf R.STEP_NUMBER_VALUE = (n + 1) % 2 ^ 64 ∧ t.phase = phBOUNDARY ∧
        t.step.lastStep = n ∧ t.step.auditDue = true ∧ t.step.decideDue = true ∧ t.step.figDue = true ∧
        t.rf R.STEP_FLAG_RAISED = 0 ∧ t.tier.dirty = [] ∧ (∀ i ∈ t.stash.insts, i.freed = true) ∧
        t.rf R.STEP_STATUS_LAST_STATUS = (if s.step.finite then stOK else stNONFINITE) ∧
        t.rf R.STEP_OPT_COUNT_COUNT = (if s.step.finite then (s.rf R.STEP_OPT_COUNT_COUNT + 1) % 2 ^ 64 else s.rf R.STEP_OPT_COUNT_COUNT) ∧
        t.tier.sel = (if s.step.finite then s.tier.dirty.foldl flipSel s.tier.sel else s.tier.sel) ∧
        ∃ a : Agreement, t.step.agreement = some a ∧ a.round = 0 ∧ a.contend = true ∧ a.rounds = s.agreeRounds ∧ a.settle = s.layout Chart.vG ∧
          (s.agreeRounds = 0 → a.agreed = a.wish ∧ t.flagOut = false) ∧
          (0 < s.agreeRounds → a.agreed = 0 ∧ t.flagOut = a.wish.testBit (s.agreeRounds - 1)))) ∧
  (∀ (s : State) (b : Nat), s.pwr.critHold = some b →
    Runs .bindOff s [.stepRegs, .row, .flagOut, .idleRuns, .step, .fault, .power] (fun t =>
      t.fault = { s.fault with standIns := [] } ∧ t.row = max s.row b ∧ t.flagOut = false ∧ t.rf R.STEP_FLAG_RAISED = 0 ∧ t.pwr.critHold = none ∧
      OnlyWrites [R.STEP_STATUS_PHASE, R.STEP_FLAG_RAISED] s t))

/-- R54, R432, R29, R32, R28: in an agreement round the device samples FLAG_IN as a bit of the agreed variant, stops contending when it drove 0 and sampled 1, and
drives the next bit of its wish while it contends, nothing after the last round. The audit compares every pool of the snapshot; LEDGER_STATUS.LAST_STATUS shows LEDGER_MISMATCH when one does not hold. After
a swatch a mismatch puts the device into HOLD with cause 3; after a step the decisions do. When the audit and the rounds are done the decisions of the boundary become final: HOLD with the first cause of the order
ledger mismatch, heat, stop request; with none, and no commit pending, the agreed variant is next and the next cast-on follows after the
boundary interval and any swatch. -/
def Obligations.BoundaryWork : Prop :=
  ((∀ (b : Bool) (s : State) (a : Agreement), s.step.agreement = some a → a.round < a.rounds →
    Runs (.agreementRound b) s [.stepRegs, .row, .flagOut, .flagIn, .idleRuns, .step] (fun t =>
      let stays := a.contend && (a.wish.testBit (a.rounds - 1 - a.round) || !b)
      t.row = max s.row (s.rf R.STEP_BINDOFF_VALUE + (a.round + 1) * a.settle) ∧ t.flagIn = b ∧
      t.step = { s.step with agreement := some ⟨a.round + 1, stays, 2 * a.agreed + (if b then 1 else 0), a.wish, a.rounds, a.settle⟩ } ∧
      t.flagOut = (decide (a.round + 1 < a.rounds) && stays && a.wish.testBit (a.rounds - 1 - (a.round + 1))) ∧
      OnlyWrites [R.STEP_STATUS_PHASE] s t)) ∧
  (∀ s : State, s.step.auditDue = true →
    Runs .ledgerAudit s [.pwrRegs, .stepRegs, .cluRegs, .faultRegs, .logRegs, .row, .sent, .idleRuns, .logRound, .step] (fun t =>
      let bad := s.led.snap.any (fun p => decide (p.ledger < 4) && p.diff != 0)
      t.row = max s.row ((if s.step.decideDue then s.rf R.STEP_BINDOFF_VALUE else s.step.swatchEnd) + 1024) ∧ t.step.auditDue = false ∧
      t.step.ledgerBad = bad ∧ t.rf R.LEDGER_STATUS_LAST_STATUS = (if bad then stLEDGER_MISMATCH else stOK) ∧
      t.rf R.LEDGER_STATUS_SWATCH = (if s.step.decideDue then 0 else 1) ∧
      (s.step.decideDue = false → bad = true → t.phase = phHOLD ∧ t.rf R.STEP_STATUS_HOLD_CAUSE = 3)))) ∧
  (∀ (s : State) (c : Chart), s.chart.active = some c → s.step.decideDue = true → s.step.auditDue = false → s.roundsDone = true →
    Runs .boundaryDecisions s [.pwrRegs, .chartRegs, .stepRegs, .streamRegs, .hqRegs, .tierRegs, .ftlRegs, .cluRegs, .skeinRegs, .hbmRegs, .faultRegs,
        .logRegs, .gaugeRegs, .idleRegs, .tensionRegs, .row, .memory, .marks, .sent, .idleRuns, .tension, .logRound, .chart, .step, .fault,
        .ledgers, .power, .tier, .streams, .host, .update, .gauge]
      (fun t => t.row = max s.row (s.rf R.STEP_BINDOFF_VALUE + 2048) ∧ t.step.decideDue = false ∧ t.step.agreement = none ∧
        (s.step.ledgerBad = true → t.phase = phHOLD ∧ t.rf R.STEP_STATUS_HOLD_CAUSE = 3) ∧
        (s.step.ledgerBad = false → s.step.thermalPend = true → t.phase = phHOLD ∧ t.rf R.STEP_STATUS_HOLD_CAUSE = 2) ∧
        (s.step.ledgerBad = false → s.step.thermalPend = false → s.step.stopAt = some s.step.lastStep →
          t.phase = phHOLD ∧ t.rf R.STEP_STATUS_HOLD_CAUSE = 1) ∧
        (s.step.ledgerBad = false → s.step.thermalPend = false → s.step.stopAt ≠ some s.step.lastStep → s.chart.commits = [] →
          s.chart.variants = [] → s.step.installed = false →
          t.rf R.STEP_STATUS_NEXT_VARIANT = min ((s.step.agreement.getD ⟨0, false, 0, 0, 0, 0⟩).agreed) (c.nvar - 1) % 16 ∧
          t.rf R.STEP_NEXT_CASTON_VALUE = (s.rf R.STEP_BINDOFF_VALUE + c.vI s.variant +
            s.swatchTicks (s.swatchFor s.step.lastStep) (c.vI s.variant)) % 2 ^ 64)))

/-- R31, R32, R36, R33, R34, R35: a swatch starts S + I before the next cast-on, in phase SWATCH, with its own plan time and no slip; at its end the device is
in the boundary again with an audit due and the next cast-on later by the slip of the swatch, and what the dies still wait for is served. Neither counts as a step. A swatch request of the host names its program and its target: the next launch in IDLE and HOLD, in a step the step's own
bind-off before the commit deadline and the following one, DEFERRED, from it on. A stop request targets a bind-off alike, and is OK at once in
IDLE and HOLD. -/
def Obligations.SwatchesAndRequests : Prop :=
  ((∀ (s : State) (c : Chart) (p : Nat), s.chart.active = some c → s.step.swatchNext = some p → s.rf R.PWR_STATE_STATE = 3 →
    s.step.auditDue = false → s.step.decideDue = false → s.step.emergency = false →
    ((s.phase = phARMED ∧ s.step.launched = true) ∨ s.phase = phBOUNDARY) →
    Runs .swatchStart s [.pwrRegs, .stepRegs, .streamRegs, .cluRegs, .skeinRegs, .faultRegs, .logRegs, .row, .memory, .marks, .sent, .idleRuns,
        .tension, .paceBad, .logRound, .step, .fault, .ledgers, .ports, .power, .tier, .streams, .barriers, .host, .clusters]
      (fun t =>
        t.host = { s.host with reqUsed := [], used := [], reqs := s.host.reqs.map (fun r => { r with due := none }) } ∧
        let i := c.vI (if s.phase = phARMED then s.rf R.STEP_STATUS_NEXT_VARIANT else s.variant)
        let at_ := s.rf R.STEP_NEXT_CASTON_VALUE - (c.swatchS p + i)
        t.row = max s.row at_ ∧ t.phase = phSWATCH ∧ t.step.swatchRun = some p ∧ t.step.swatchNext = none ∧ t.step.swatchStart = at_ ∧
        t.step.swatchEnd = at_ + c.swatchS p ∧ t.step.slip = 0 ∧ t.rf R.STEP_NUMBER_VALUE = s.rf R.STEP_NUMBER_VALUE ∧
        t.rf R.STEP_OPT_COUNT_COUNT = s.rf R.STEP_OPT_COUNT_COUNT ∧ t.bar = BarrierSt.reset)) ∧
  (∀ s : State, s.phase = phSWATCH → s.paused = false →
    Runs .swatchEnd s [.stepRegs, .streamRegs, .hqRegs, .tierRegs, .ftlRegs, .cluRegs, .cdpRegs, .faultRegs, .logRegs, .tensionRegs, .row, .memory,
        .marks, .sent, .free, .flagOut, .idleRuns, .tension, .logRound, .step, .fault, .ledgers, .ports, .tier, .streams, .barriers, .host, .flash,
        .update, .clusters, .gauge]
      (fun t => t.row = max s.row s.step.swatchEnd ∧ t.phase = phBOUNDARY ∧
        t.step = { s.step with swatchRun := none, auditDue := true, slip := 0 } ∧ t.clu.left = [] ∧ t.clu.running = [] ∧ t.tens = [] ∧
        t.tensPeak = [])) ∧
  (∀ s : State, s.phase = phSWATCH → s.paused = false → s.diesQuiet →
    Runs .swatchEnd s [.stepRegs, .streamRegs, .cluRegs, .tensionRegs, .row, .sent, .idleRuns, .tension, .step, .fault, .ledgers, .ports,
        .streams, .clusters]
      (fun t => t.row = max s.row s.step.swatchEnd ∧ t.phase = phBOUNDARY ∧ t.step.swatchRun = none ∧ t.step.auditDue = true ∧
        t.step.slip = 0 ∧ t.rf R.STEP_NEXT_CASTON_VALUE = (s.rf R.STEP_NEXT_CASTON_VALUE + s.step.slip) % 2 ^ 64 ∧
        t.rf R.STEP_NUMBER_VALUE = s.rf R.STEP_NUMBER_VALUE ∧ t.clu.left = [] ∧ t.clu.running = [] ∧ t.tens = [] ∧ t.tensPeak = []))) ∧
  ((∀ (s : State) (v : BitVec 64) (c : Chart), s.reach .host = true → s.chart.active = some c → bitsOf v.toNat 4 4 < c.nswatch →
    Runs (.swatchRequest .host v) s [.stepRegs, .cluRegs, .faultRegs, .logRegs, .logRound, .step] (fun t =>
      let p := bitsOf v.toNat 4 4
      t.rf R.STEP_SWATCH_PROGRAM = p ∧
      (s.stopped = true → t.rf R.STEP_SWATCH_STATUS = stOK ∧ t.rf R.STEP_SWATCH_AT_STEP = 0xFFFFFFFF ∧ t.rf R.STEP_SWATCH_PENDING = 1 ∧
        t.step.swatches = s.step.swatches.filter (fun r => r.target != none) ++ [⟨p, none⟩]) ∧
      (s.inStep = true → s.row < s.deadline → t.rf R.STEP_SWATCH_STATUS = stOK ∧ t.rf R.STEP_SWATCH_PENDING = 1 ∧
        t.rf R.STEP_SWATCH_AT_STEP = s.rf R.STEP_NUMBER_VALUE % 2 ^ 32 ∧
        t.step.swatches = s.step.swatches.filter (fun r => r.target != some (s.rf R.STEP_NUMBER_VALUE)) ++
          [⟨p, some (s.rf R.STEP_NUMBER_VALUE)⟩]) ∧
      (s.inStep = true → s.deadline ≤ s.row → t.rf R.STEP_SWATCH_STATUS = stDEFERRED ∧ t.rf R.STEP_SWATCH_PENDING = 1 ∧
        t.rf R.STEP_SWATCH_AT_STEP = (s.rf R.STEP_NUMBER_VALUE + 1) % 2 ^ 32 ∧
        t.step.swatches = s.step.swatches.filter (fun r => r.target != some (s.rf R.STEP_NUMBER_VALUE + 1)) ++
          [⟨p, some (s.rf R.STEP_NUMBER_VALUE + 1)⟩]))) ∧
  (∀ (s : State) (v : BitVec 64), s.reach .host = true →
    Runs (.stopRequest .host v) s [.stepRegs, .faultRegs, .logRegs, .logRound, .step] (fun t =>
      (s.stopped = true → t.rf R.STEP_CTRL_STOP_STATUS = stOK ∧ t.step = s.step) ∧
      (s.inStep = true → s.step.stopAt = none → s.row < s.deadline → t.rf R.STEP_CTRL_STOP_STATUS = stOK ∧ t.rf R.STEP_CTRL_STOP_PENDING = 1 ∧
        t.step.stopAt = some (s.rf R.STEP_NUMBER_VALUE) ∧ t.rf R.STEP_CTRL_STOP_AT_STEP = s.rf R.STEP_NUMBER_VALUE % 2 ^ 32) ∧
      (s.inStep = true → s.step.stopAt = none → s.deadline ≤ s.row → t.rf R.STEP_CTRL_STOP_STATUS = stDEFERRED ∧
        t.rf R.STEP_CTRL_STOP_PENDING = 1 ∧ t.step.stopAt = some (s.rf R.STEP_NUMBER_VALUE + 1) ∧
        t.rf R.STEP_CTRL_STOP_AT_STEP = (s.rf R.STEP_NUMBER_VALUE + 1) % 2 ^ 32) ∧
      (s.inStep = true → s.step.stopAt.isSome = true → t.step = s.step))))

/-- R325, R326, R333, R334: HOST_RAISE before the end of reserve raises FLAG_OUT with cause 8 when no cause has; a learning-rate write in a step
applies to the next step, or to the one after it and DEFERRED from the commit deadline on; a write of STEP_SCALE_SET waits for the launch. -/
def Obligations.ScaleAndFlag : Prop :=
  (∀ (s : State) (v : BitVec 64), s.reach .host = true → s.training = true → s.step.reserveOver = false → s.rf R.STEP_FLAG_RAISED = 0 →
    Runs (.hostRaise .host v) s [.stepRegs, .faultRegs, .logRegs, .flagOut, .logRound] (fun t =>
      t.flagOut = true ∧ t.rf R.STEP_FLAG_RAISED = 1 ∧ t.rf R.STEP_FLAG_CAUSE = 8 ∧ t.rf R.STEP_FLAG_RAISE_AT = s.row % 2 ^ 32)) ∧
  (∀ (s : State) (v : BitVec 64), s.reach .host = true → s.inStep = true →
    Runs (.lrWrite .host v) s [.stepRegs, .faultRegs, .logRegs, .logRound, .step] (fun t =>
      let x := bitsOf v.toNat R.STEP_LR_IN_VALUE.lo R.STEP_LR_IN_VALUE.w
      let n := s.rf R.STEP_NUMBER_VALUE + (if s.row < s.deadline then 1 else 2)
      t.rf R.STEP_LR_IN_VALUE = x ∧ t.step = { s.step with lrs := s.step.lrs ++ [⟨x, n, false⟩] } ∧
      t.rf R.STEP_LR_IN_STATUS = (if s.row < s.deadline then stOK else stDEFERRED) ∧
      t.rf R.STEP_LR_NOW_APPLY_AT_STEP = n % 2 ^ 32 ∧ t.rf R.STEP_LR_NOW_VALUE = s.rf R.STEP_LR_NOW_VALUE)) ∧
  (∀ (s : State) (v : BitVec 64), s.reach .host = true →
    Runs (.scaleSetWrite .host v) s [.stepRegs, .faultRegs, .logRegs, .logRound] (fun t =>
      t.rf R.STEP_SCALE_SET_EXP = bitsOf v.toNat R.STEP_SCALE_SET_EXP.lo R.STEP_SCALE_SET_EXP.w ∧
      t.rf R.STEP_SCALE_SET_SINCE = bitsOf v.toNat R.STEP_SCALE_SET_SINCE.lo R.STEP_SCALE_SET_SINCE.w ∧
      t.rf R.STEP_SCALE_SET_PENDING = 1 ∧ t.rf R.STEP_SCALE_EXP = s.rf R.STEP_SCALE_EXP))

/-- R71, R72, R73, R69, R380: a load that is not refused empties the staging area and asks the host for the image; its arrival begins validation,
which ends with the image VALID and staged, or INVALID with the first failing check; a discard empties the staging area; an uninstall
outside steps, with nothing pending, leaves the device without a chart, in IDLE. -/
def Obligations.ChartLoading : Prop :=
  (∀ (s : State) (v : BitVec 64), s.reach .host = true → s.loadRefused (bitsOf v.toNat 32 32) = false →
    Runs (.chartLoad .host v) s [.pwrRegs, .chartRegs, .faultRegs, .logRegs, .sent, .logRound, .chart, .host]
      (fun t =>
        let n := bitsOf v.toNat 32 32
        t.rf R.CHART_LOAD_STATUS_STATE = 1 ∧ t.rf R.CHART_LOAD_STATUS_STATUS = stOK ∧
        t.chart = { s.chart with staged := none, image := [], loadBytes := n } ∧ t.rf R.CHART_STAGED_VALID = 0 ∧
        (s.rf R.HQ_LINK_BME = 1 → t.sent = s.dropStaged.sent ++ [.busRead 16384 0 (s.rf R.CHART_LOAD_SRC_ADDR) n] ∧ t.host = s.host) ∧
        (s.rf R.HQ_LINK_BME ≠ 1 → t.sent = s.dropStaged.sent ∧ t.fetchHeld = true))) ∧
  (∀ (s : State) (image : List Byte), s.rf R.CHART_LOAD_STATUS_STATE = 1 → s.fetchHeld = false →
    Runs (.chartFetchDone image) s [.chartRegs, .faultRegs, .memory, .marks, .chart, .fault] (fun t =>
      t.rf R.CHART_LOAD_STATUS_STATE = 2 ∧ t.chart = { s.chart with image := sliceB image 0 s.chart.loadBytes })) ∧
  (∀ s : State, s.rf R.CHART_LOAD_STATUS_STATE = 2 →
    Runs .chartValidationDone s [.pwrRegs, .chartRegs, .faultRegs, .logRegs, .sent, .logRound, .chart] (fun t =>
      let c := Chart.parse s.chart.image
      (s.firstFailing c 25 1 = none → t.rf R.CHART_LOAD_STATUS_STATE = 3 ∧ t.rf R.CHART_LOAD_STATUS_STATUS = stOK ∧
        t.chart = { s.chart with staged := some c } ∧ t.rf R.CHART_STAGED_VALID = 1) ∧
      (∀ rule sec off, s.firstFailing c 25 1 = some (rule, sec, off) → t.rf R.CHART_LOAD_STATUS_STATE = 4 ∧ t.chart = s.chart ∧
        t.rf R.CHART_LOAD_STATUS_RULE = rule % 2 ^ 16 ∧ t.rf R.CHART_LOAD_STATUS_SECTION = sec % 16 ∧
        t.rf R.CHART_LOAD_STATUS_OFFSET = off % 2 ^ 28))) ∧
  (∀ (s : State) (v : BitVec 64), s.reach .host = true → s.chart.commits = [] → s.rf R.CHART_LOAD_STATUS_STATE ≠ 1 →
    Runs (.chartDiscard .host v) s [.pwrRegs, .chartRegs, .faultRegs, .logRegs, .sent, .logRound, .chart]
      (fun t => t.rf R.CHART_LOAD_STATUS_STATE = 0 ∧ t.chart = { s.chart with staged := none, image := [] } ∧
        t.rf R.CHART_STAGED_VALID = 0 ∧ t.sent = s.dropStaged.sent)) ∧
  (∀ (s : State) (v : BitVec 64) (c : Chart), s.reach .host = true → s.stopped = true → s.chart.commits = [] → s.chart.variants = [] →
    s.chart.active = some c →
    Runs (.chartUninstall .host v) s [.pwrRegs, .chartRegs, .stepRegs, .streamRegs, .hqRegs, .tierRegs, .cluRegs, .skeinRegs, .faultRegs, .logRegs,
        .memory, .sent, .free, .logRound, .chart, .step, .ledgers, .power, .tier, .streams, .host, .update]
      (fun t => t.chart = { s.chart with active := none } ∧ t.phase = phIDLE ∧ t.rf R.STEP_STATUS_HOLD_CAUSE = 0 ∧
        t.rf R.CHART_ACTIVE_VALID = 0 ∧ t.step.swatches = [] ∧ t.tier.sel = [] ∧ t.tier.dirty = []))

/-- R74, R76, R77, R78, R28: a commit request in a step targets its bind-off, or the following one, DEFERRED, from the deadline on; the last
request withdraws unless it is frozen, which a DEFERRED status says. Variant commits alike; in IDLE and HOLD they wait for the launch. -/
def Obligations.CommitRequests : Prop :=
  (∀ (s : State) (v : BitVec 64) (c : Chart), s.reach .host = true → s.inStep = true → s.chart.staged = some c →
    s.rf R.CHART_LOAD_STATUS_STATE = 3 → s.recheck c = 0 → s.rf R.PWR_AVS_MET ≠ 0 →
    Runs (.chartCommitRequest .host v) s [.chartRegs, .stepRegs, .cluRegs, .faultRegs, .logRegs, .logRound, .chart]
      (fun t =>
        let n := s.rf R.STEP_NUMBER_VALUE + (if s.row < s.deadline then 0 else 1)
        t.chart = { s.chart with commits := s.chart.commits.filter (fun d => !(d.target == some n)) ++ [⟨0, some n, false⟩] } ∧
        t.rf R.CHART_COMMIT_STATUS = (if s.row < s.deadline then stOK else stDEFERRED) ∧ t.rf R.CHART_COMMIT_OUTCOME = 1 ∧
        t.rf R.CHART_COMMIT_APPLY_AT_STEP = n % 2 ^ 32)) ∧
  (∀ (s : State) (v : BitVec 64) (d : PendCommit), s.reach .host = true → s.chart.commits.getLast? = some d →
    Runs (.chartCommitWithdraw .host v) s [.chartRegs, .stepRegs, .cluRegs, .faultRegs, .logRegs, .logRound, .chart]
      (fun t =>
        (s.frozen d = true → t.rf R.CHART_COMMIT_STATUS = stDEFERRED ∧ t.chart = s.chart) ∧
        (s.frozen d = false → t.rf R.CHART_COMMIT_STATUS = stOK ∧ t.rf R.CHART_COMMIT_OUTCOME = 3 ∧
          t.chart = { s.chart with commits := s.chart.commits.filter (fun x => !(x == d)) }))) ∧
  (∀ (s : State) (v : BitVec 64) (c : Chart), s.reach .host = true → s.chart.active = some c → bitsOf v.toNat 4 4 < c.nvar →
    Runs (.variantCommitRequest .host v) s [.chartRegs, .stepRegs, .cluRegs, .faultRegs, .logRegs, .logRound, .chart] (fun t =>
      let i := bitsOf v.toNat 4 4
      let n := s.rf R.STEP_NUMBER_VALUE + (if s.row < s.deadline then 0 else 1)
      t.rf R.CHART_VARIANT_INDEX = i ∧ t.rf R.CHART_VARIANT_OUTCOME = 1 ∧
      (s.stopped = true → t.rf R.CHART_VARIANT_STATUS = stOK ∧ t.rf R.CHART_VARIANT_APPLY_AT_STEP = 0xFFFFFFFF ∧
        t.chart = { s.chart with variants := s.chart.variants.filter (fun x => x.target != none) ++ [⟨i, none, false⟩] }) ∧
      (s.inStep = true → t.rf R.CHART_VARIANT_STATUS = (if s.row < s.deadline then stOK else stDEFERRED) ∧
        t.rf R.CHART_VARIANT_APPLY_AT_STEP = n % 2 ^ 32 ∧
        t.chart = { s.chart with variants := s.chart.variants.filter (fun x => x.target != some n) ++ [⟨i, some n, false⟩] }))) ∧
  (∀ (s : State) (v : BitVec 64) (d : PendCommit), s.reach .host = true → s.chart.variants.getLast? = some d →
    Runs (.variantCommitWithdraw .host v) s [.chartRegs, .stepRegs, .cluRegs, .faultRegs, .logRegs, .logRound, .chart] (fun t =>
      (s.frozen d = true → t.rf R.CHART_VARIANT_STATUS = stDEFERRED ∧ t.chart = s.chart) ∧
      (s.frozen d = false → t.rf R.CHART_VARIANT_STATUS = stOK ∧ t.rf R.CHART_VARIANT_OUTCOME = 3 ∧
        t.chart = { s.chart with variants := s.chart.variants.filter (fun x => x != d) })))

/-- R79, R69, R82: a commit held in IDLE or HOLD, with no host stream open and the repeated checks passed, installs the staged chart, whole. -/
def Obligations.ChartInstall : Prop :=
  ∀ (s : State) (c : Chart) (d : PendCommit), 2 ≤ s.rf R.PWR_STATE_STATE → s.step.decideDue = false → s.stopped = true → s.openHost = [] →
    s.chart.commits = [d] → d.target = none → s.chart.staged = some c → s.recheck c = 0 →
    Runs .chartInstall s [.pwrRegs, .chartRegs, .stepRegs, .streamRegs, .hqRegs, .tierRegs, .ftlRegs, .cluRegs, .skeinRegs, .hbmRegs, .faultRegs, .logRegs,
        .gaugeRegs, .idleRegs, .tensionRegs, .row, .memory, .marks, .sent, .idleRuns, .tension, .logRound, .chart, .step, .fault, .ledgers,
        .power, .tier, .streams, .host, .update, .gauge]
      (fun t => t.chart = { s.chart with active := some c, staged := none, image := [], commits := [], variants := [] } ∧
        t.rf R.CHART_COMMIT_OUTCOME = 2 ∧ t.rf R.CHART_LOAD_STATUS_STATE = 0 ∧ t.rf R.CHART_ACTIVE_VALID = 1 ∧
        t.step.installed = true ∧ t.step.swatches = [] ∧ t.phase = s.phase ∧ t.row = s.row ∧ t.tier.dirty = [])

/-- R444, R106, R443: a cluster, engine or mover group that is off begins its wake sequence 2,000 ticks ahead of its next use, later by its rank
among the units that wake for the same count; one that no plan work uses stays off. A unit with no work in hand and no use within 6,000 ticks is
gated. PWR_UNITS counts the units, CLU_POWER shows a cluster's. The rank's place in the count is the model's reading (log entry 185). -/
def Obligations.UnitPower : Prop :=
  (∀ (u : BitVec 16) (s : State), s.pwr.off = false → 2 ≤ s.rf R.PWR_STATE_STATE → s.pwr.awake.contains u.toNat = false →
    (∀ use : Nat, s.nextUse u.toNat = some use →
      Runs (.unitWake u) s [.pwrRegs, .stepRegs, .cluRegs, .row, .idleRuns, .power] (fun t =>
        t.pwr = { s.pwr with waking := NSet.ins u.toNat s.pwr.waking } ∧ t.rf R.PWR_UNITS_WAKING = t.pwr.waking.length % 2 ^ 16 ∧
        t.row = max s.row (s.wakeAt s.gatedUses u.toNat use))) ∧
    (s.nextUse u.toNat = none → exec (.unitWake u) s = .next s)) ∧
  (∀ (u : BitVec 16) (s : State), s.pwr.off = false → s.mayGate u.toNat = true →
    Runs (.unitGate u) s [.pwrRegs, .cluRegs, .power] (fun t =>
      t.pwr = { s.pwr with awake := NSet.del u.toNat s.pwr.awake, waking := NSet.del u.toNat s.pwr.waking } ∧
      t.rf R.PWR_UNITS_WAKING = t.pwr.waking.length % 2 ^ 16 ∧
      t.rf R.PWR_UNITS_CLUSTERS_ON = (t.pwr.awake.filter (fun x => x / 4096 == 1)).length % 2 ^ 16))

/-- R231, R249, R417, R418, R19, R252, R404, R132, R254: a failover pause begins at the next round boundary and lasts its fixed length; plan time then resumes with the
slip greater by the pause, and a running swatch ends that much later, unless a SCOPE 1 generation is overdue by then. Without one, plan time pauses at the round boundary when the expected offset
of an open SCOPE 1 generation is reached, until it completes; a failover in that pause extends it by its length. ROUND_END moves the row to the end of the plan round, serves what its slots have carried and adds the unmet demand of each tension source to the step's figures; the
idle ticks counted since the last round go into IDLE_CUM, as IDLE_CUM_PERIOD does every 32 ticks outside plan time. A CLEAR of the gauges, of the tension counters or of the idle counters zeroes the cumulative counters at once, and in a step,
or while a bind-off's figures are due, waits for the bind-off with CLEAR_PENDING set. -/
def Obligations.RoundsPausesAndClears : Prop :=
  ((∀ s : State, s.pwr.off = false → s.inPlan = true → s.fault.pauseEnd = none → s.fault.peerPause = false → 0 < s.fault.pauseWant →
    Runs .pauseBegin s [.stepRegs, .faultRegs, .row, .idleRuns, .fault] (fun t =>
      t.row = max s.row (s.roundUp s.row) ∧ t.fault = { s.fault with pauseWant := 0, pauseFrom := t.row, pauseEnd := some (t.row + s.fault.pauseWant) } ∧
      t.rf R.FAULT_STATUS_PAUSED = 1 ∧ t.rf R.FAULT_LAST_AT = t.row % 2 ^ 32)) ∧
  (∀ (s : State) (b : Nat × Nat × Nat) (l : List (Nat × Nat × Nat)), s.pwr.off = false → s.inPlan = true → s.fault.pauseEnd = none →
    s.fault.peerPause = false → s.fault.pauseWant = 0 → s.openBarriers = b :: l →
    Runs .pauseBegin s [.stepRegs, .faultRegs, .row, .idleRuns, .fault] (fun t =>
      t.row = max s.row (max (s.roundUp s.row) (s.planC + s.step.slip + l.foldl (fun a e => min a e.2.2) b.2.2)) ∧
      t.fault = { s.fault with peerPause := true, pauseFrom := t.row })) ∧
  (∀ (s : State) (e : Nat), s.fault.pauseEnd = some e → (∀ p : Fin 4, s.rf (R.CDP_STATUS_STATE p.val) ≠ 5) →
    Runs .pauseEnd s [.stepRegs, .cluRegs, .faultRegs, .row, .idleRuns, .step, .fault] (fun t =>
      t.row = max s.row e ∧ t.rf R.FAULT_STATUS_PAUSED = 0 ∧ t.fault = { s.fault with peerPause := s.peerWaits, pauseEnd := none } ∧
      (s.peerWaits = true → t.step = s.step) ∧
      (s.peerWaits = false → t.step = { s.step with slip := s.step.slip + (t.row - s.fault.pauseFrom), swatchEnd :=
        if s.phase = phSWATCH then s.step.swatchEnd + (t.row - s.fault.pauseFrom) else s.step.swatchEnd }))) ∧
  (∀ s : State, s.fault.pauseEnd = none → s.fault.peerPause = true → s.peerWaits = false →
    Runs .pauseEnd s [.stepRegs, .cluRegs, .faultRegs, .row, .idleRuns, .step, .fault] (fun t =>
      t.row = max s.row (s.roundUp s.row) ∧ t.fault.peerPause = false ∧ t.fault.pauseWant = 0 ∧
      (s.fault.pauseWant = 0 → t.fault.pauseEnd = none ∧ t.step.slip = s.step.slip + (t.row - s.fault.pauseFrom)) ∧
      (0 < s.fault.pauseWant → t.fault.pauseEnd = some (t.row + s.fault.pauseWant) ∧ t.step = s.step ∧ t.rf R.FAULT_STATUS_PAUSED = 1)))) ∧
  ((∀ s : State, s.pwr.off = false → s.inPlan = true →
    Runs .roundEnd s [.stepRegs, .streamRegs, .hqRegs, .tierRegs, .ftlRegs, .cdpRegs, .faultRegs, .logRegs, .idleRegs, .row, .memory, .marks, .sent,
        .free, .flagOut, .idleRuns, .tension, .logRound, .fault, .ledgers, .ports, .tier, .streams, .barriers, .host, .flash, .update, .gauge]
      (fun t => t.row = max s.row (s.planC + ((s.row - s.planC) / 32 + 1) * 32) ∧ t.idleRun = [])) ∧
  (∀ s : State, s.pwr.off = false → s.inPlan = true → s.slotsQuiet → s.tier.cmd = none →
    Runs .roundEnd s [.stepRegs, .idleRegs, .row, .idleRuns, .tension, .ledgers] (fun t =>
      let e := s.planC + ((s.row - s.planC) / 32 + 1) * 32
      t.row = max s.row e ∧ t.tens = ((s.advance e).addTension s.planRound).tens ∧
      t.tensPeak = ((s.advance e).addTension s.planRound).tensPeak ∧ t.idleRun = [])) ∧
  (∀ s : State, s.pwr.off = false → s.inPlan = false →
    Runs .idleCumPeriod s [.stepRegs, .streamRegs, .hqRegs, .tierRegs, .ftlRegs, .cdpRegs, .faultRegs, .logRegs, .idleRegs, .row, .memory, .marks,
        .sent, .free, .flagOut, .idleRuns, .logRound, .fault, .ledgers, .ports, .tier, .streams, .barriers, .host, .flash, .update, .gauge]
      (fun t => t.row = s.row / 32 * 32 + 32 ∧ t.idleRun = [])) ∧
  (∀ s : State, s.pwr.off = false → s.inPlan = false → s.phase ≠ phTAIL → s.slotsQuiet → s.tier.cmd = none →
    Runs .idleCumPeriod s [.stepRegs, .idleRegs, .row, .idleRuns, .ledgers] (fun t =>
      let e := s.row / 32 * 32 + 32
      t.row = e ∧ t.idleRun = [] ∧ t.phase = s.phase ∧
      ∀ c : Fin 8, t.rf (R.IDLE_CUM_TICKS c.val) =
        (s.rf (R.IDLE_CUM_TICKS c.val) + SMap.get (fun _ => 0) (s.passTo e).idleRun c.val) % 2 ^ 64))) ∧
  ((∀ (s : State) (v : BitVec 64), s.reach .host = true →
    Runs (.gaugeClear .host v) s [.faultRegs, .logRegs, .gaugeRegs, .logRound, .step] (fun t =>
      ((s.inStep || s.step.figDue) = true → t.step = { s.step with clearGauge := true } ∧ t.rf R.GAUGE_CTRL_CLEAR_PENDING = 1) ∧
      ((s.inStep || s.step.figDue) = false → t.step = s.step ∧ ∀ k : Fin 256, t.rf (R.GAUGE_CUM_COUNT k.val) = 0))) ∧
  (∀ (s : State) (v : BitVec 64), s.reach .host = true →
    Runs (.tensionClear .host v) s [.faultRegs, .logRegs, .tensionRegs, .logRound, .step] (fun t =>
      ((s.inStep || s.step.figDue) = true → t.step = { s.step with clearTension := true } ∧ t.rf R.TENSION_CTRL_CLEAR_PENDING = 1) ∧
      ((s.inStep || s.step.figDue) = false → t.step = s.step ∧ ∀ k : Fin 16, t.rf (R.TENSION_CUM_COUNT k.val) = 0))) ∧
  (∀ (s : State) (v : BitVec 64), s.reach .host = true →
    Runs (.idleClear .host v) s [.faultRegs, .logRegs, .idleRegs, .logRound, .step] (fun t =>
      ((s.inStep || s.step.figDue) = true → t.step = { s.step with clearIdle := true } ∧ t.rf R.IDLE_CTRL_CLEAR_PENDING = 1) ∧
      ((s.inStep || s.step.figDue) = false → t.step = s.step ∧ ∀ c : Fin 8, t.rf (R.IDLE_CUM_TICKS c.val) = 0))))

/-- R209, R213, R214: NOP does nothing but pass; SETREG sets AD0 or AD1 to VALUE or adds VALUE modulo 2^48; LOOP sets its counter to COUNT,
or passes its ENDLOOP when COUNT is 0; ENDLOOP lowers the counter and returns to the body's first unit while it is not zero. Each changes
only its register and the PC, STATE and WAIT of its own context. -/
def Obligations.StreamControl : Prop :=
  (∀ (n : Fin 16384) (s : State), s.atOp n.val opNOP = true →
    Runs (.nop n) s [.streamRegs] (fun t => Passed n.val (s.rf (R.STREAM_RUN_PC n.val) + 1) s t ∧
      OnlyWrites [R.STREAM_RUN_PC n.val, R.STREAM_RUN_STATE n.val, R.STREAM_RUN_WAIT n.val] s t)) ∧
  (∀ (n : Fin 16384) (s : State), s.atOp n.val opSETREG = true →
    Runs (.setreg n) s [.streamRegs] (fun t =>
      let f := if uFlag (s.unit n.val) 0 then R.STREAM_AD1_AD1 n.val else R.STREAM_AD0_AD0 n.val
      let v := fieldLe (s.unit n.val) 8 6
      t.rf f = (if uFlag (s.unit n.val) 1 then s.rf f + v else v) % 2 ^ 48 ∧ Passed n.val (s.rf (R.STREAM_RUN_PC n.val) + 1) s t ∧
      OnlyWrites [f, R.STREAM_RUN_PC n.val, R.STREAM_RUN_STATE n.val, R.STREAM_RUN_WAIT n.val] s t)) ∧
  (∀ (n : Fin 16384) (s : State), s.atOp n.val opLOOP = true →
    Runs (.loop n) s [.streamRegs] (fun t =>
      let u := s.unit n.val
      (fieldLe u 2 2 = 0 → t.rf (R.STREAM_RUN_PC n.val) = (s.rf (R.STREAM_RUN_PC n.val) + 1 + fieldLe u 4 2 + 1) % 2 ^ 16 ∧
        t.sst n.val = ssRUN ∧ t.rf (R.STREAM_RUN_WAIT n.val) = wtNONE ∧
        OnlyWrites [R.STREAM_RUN_PC n.val, R.STREAM_RUN_STATE n.val, R.STREAM_RUN_WAIT n.val] s t) ∧
      (fieldLe u 2 2 ≠ 0 → t.rf (loopF n.val (s.depthAt n.val)) = fieldLe u 2 2 % 2 ^ 16 ∧
        Passed n.val (s.rf (R.STREAM_RUN_PC n.val) + 1) s t ∧
        OnlyWrites [loopF n.val (s.depthAt n.val), R.STREAM_RUN_PC n.val, R.STREAM_RUN_STATE n.val, R.STREAM_RUN_WAIT n.val] s t))) ∧
  (∀ (n : Fin 16384) (s : State), s.atOp n.val opENDLOOP = true →
    Runs (.endloop n) s [.streamRegs] (fun t =>
      let f := loopF n.val (s.depthAt n.val - 1)
      t.rf f = (s.rf f - 1) % 2 ^ 16 ∧
      (s.rf f ≤ 1 → Passed n.val (s.rf (R.STREAM_RUN_PC n.val) + 1) s t) ∧
      (1 < s.rf f → t.rf (R.STREAM_RUN_PC n.val) = (s.rf (R.STREAM_RUN_PC n.val) - fieldLe (s.unit n.val) 2 2) % 2 ^ 16 ∧
        t.sst n.val = ssRUN ∧ t.rf (R.STREAM_RUN_WAIT n.val) = wtNONE) ∧
      OnlyWrites [f, R.STREAM_RUN_PC n.val, R.STREAM_RUN_STATE n.val, R.STREAM_RUN_WAIT n.val] s t))

/-- R210, R346, R211: WAITPACE passes when its COUNT is at most the pace messages received and not used, plus the run-ahead; it then uses COUNT of them
and returns to the die the credits that no waiting request carries any more, with those of every line that is still owed some; while the port is down
they are kept. Otherwise the stream waits for pace. WAITSEM passes when its word has reached VALUE, one of VALUE 0 at once (R219), with CONSUME only for the lowest-numbered of the streams that wait on it, and then takes
VALUE from the word; otherwise the stream waits, and passes later by WAITSEM_PASS. A word that the stream may not reach is recorded as it comes
to the instruction, and nothing is taken from it (R264). Which credits return first is the model's reading (log entry 223). -/
def Obligations.PaceAndSemaphoreWaits : Prop :=
  (∀ (n : Fin 16384) (s : State), s.atOp n.val opWAITPACE = true → s.WellKept →
    Runs (.waitpace n) s [.streamRegs, .sent, .ledgers, .ports] (fun t =>
      let k := fieldLe (s.unit n.val) 2 2
      let room := s.paceDiff n.val + (s.rf (R.STREAM_CTL_RUN_AHEAD n.val) * s.rf (R.STREAM_CTL_TILE_BURSTS n.val) : Nat)
      ((k : Int) ≤ room → Passed n.val (s.rf (R.STREAM_RUN_PC n.val) + 1) s t ∧
        t.rf (R.STREAM_RUN_PACE_USED n.val) = (s.rf (R.STREAM_RUN_PACE_USED n.val) + k) % 2 ^ 16 ∧
        (let p := s.rf (R.STREAM_TIME_PACE n.val) / 16384
         let l := s.rf (R.STREAM_TIME_PACE n.val) % 16384
         let back := SMap.get (fun _ => 0) (s.port p).pace l - (t.paceDiff n.val).toNat
         let due := if 0 < back then addRet (s.port p).paceRet l back else (s.port p).paceRet
         t.gaveOf (poolPace p l) = s.gaveOf (poolPace p l) + back ∧
         (s.portUp p = true → t.sent = s.sent ++ due.map (fun e => .kpp p kPCRED e.1 e.2 []) ∧ (t.port p).paceRet = []) ∧
         (s.portUp p = false → t.sent = s.sent ∧ (t.port p).paceRet = due))) ∧
      (room < (k : Int) → Waits n.val wtPACE s t ∧ t.sent = s.sent ∧ t.led = s.led ∧ t.ports = s.ports ∧
        t.rf (R.STREAM_RUN_PACE_USED n.val) = s.rf (R.STREAM_RUN_PACE_USED n.val)))) ∧
  ((∀ (n : Fin 16384) (s : State), s.atOp n.val opWAITSEM = true → s.semPasses n.val = true →
    Runs (.waitsem n) s [.stepRegs, .streamRegs, .tierRegs, .faultRegs, .logRegs, .memory, .marks, .flagOut, .logRound, .fault] (fun t =>
      let u := s.unit n.val
      Passed n.val (s.rf (R.STREAM_RUN_PC n.val) + 1) s t ∧
      ((uFlag u 0 = false ∨ s.semBad n.val (fieldLe u 8 8) ≠ none) → t.mem = s.mem ∧ t.marks = s.marks) ∧
      (uFlag u 0 = true → s.semBad n.val (fieldLe u 8 8) = none →
        t.mem = (s.setSem (fieldLe u 8 8) (s.semWord (fieldLe u 8 8) - fieldLe u 4 4)).mem) ∧
      ((s.rf (R.STREAM_RUN_WAIT n.val) = wtSEM ∨ s.semBad n.val (fieldLe u 8 8) = none) →
        OnlyChanges [.streamRegs, .tierRegs, .faultRegs, .logRegs, .memory, .marks, .logRound, .fault] s t))) ∧
  (∀ (n : Fin 16384) (s : State), s.atOp n.val opWAITSEM = true → s.semPasses n.val = false →
    Runs (.waitsem n) s [.stepRegs, .streamRegs, .tierRegs, .faultRegs, .logRegs, .flagOut, .logRound] (fun t =>
      let oa := fieldLe (s.unit n.val) 8 8
      Waits n.val wtSEM s t ∧
      ((s.rf (R.STREAM_RUN_WAIT n.val) = wtSEM ∨ s.semBad n.val oa = none) → OnlyChanges [.streamRegs] s t ∧
        OnlyWrites [R.STREAM_RUN_STATE n.val, R.STREAM_RUN_WAIT n.val] s t) ∧
      (∀ why, s.rf (R.STREAM_RUN_WAIT n.val) ≠ wtSEM → s.semBad n.val oa = some why →
        t.rf R.TIER_ERR_LAST_STATUS = stBAD_ARG ∧ (why = .unmapped → t.rf R.TIER_ERR_UNMAPPED = 1)))) ∧
  (∀ (n : Fin 16384) (s : State), s.atOp n.val opWAITSEM = true → s.rf (R.STREAM_RUN_WAIT n.val) = wtSEM → s.semPasses n.val = true →
    Runs (.waitsemPass n) s [.streamRegs, .tierRegs, .faultRegs, .logRegs, .memory, .marks, .logRound, .fault] (fun t =>
      let u := s.unit n.val
      Passed n.val (s.rf (R.STREAM_RUN_PC n.val) + 1) s t ∧
      ((uFlag u 0 = false ∨ s.semBad n.val (fieldLe u 8 8) ≠ none) → t.mem = s.mem ∧ t.marks = s.marks) ∧
      (uFlag u 0 = true → s.semBad n.val (fieldLe u 8 8) = none →
        t.mem = (s.setSem (fieldLe u 8 8) (s.semWord (fieldLe u 8 8) - fieldLe u 4 4)).mem))))

/-- R212, R396, R395: BARRIER with PARTIES 0 passes; else it registers one arrival at the stream's next generation of its ID and passes when that
generation has completed, locally for SCOPE 0 and across the configuration for SCOPE 1; until then the stream waits, and passes by
BARRIER_COMPLETE. A member's announcement of a generation is a write of a neighbour to the aperture page of the barrier tables: it stands in the
word (ID, j) of the device's barrier table page where a lend entry gives that page, and nowhere else in memory, and is refused where none does
(R277); in plan time it waits for PEER slots where there are none. -/
def Obligations.Barriers : Prop :=
  ((∀ (n : Fin 16384) (s : State), s.atOp n.val opBARRIER = true → fieldLe (s.unit n.val) 4 4 = 0 →
    Runs (.barrier n) s [.streamRegs] (fun t => Passed n.val (s.rf (R.STREAM_RUN_PC n.val) + 1) s t)) ∧
  (∀ (n : Fin 16384) (s : State), s.atOp n.val opBARRIER = true → fieldLe (s.unit n.val) 4 4 ≠ 0 →
    s.rf (R.STREAM_RUN_WAIT n.val) ≠ wtBARRIER →
    Runs (.barrier n) s [.streamRegs, .tierRegs, .faultRegs, .logRegs, .sent, .logRound, .ledgers, .tier, .streams, .barriers, .host] (fun t =>
      let u := s.unit n.val
      let id := fieldLe u 2 2 % 4096
      let g := s.streamGen n.val id + 1
      t.streamGen n.val id = g ∧ t.barCount id g = s.barCount id g + 1 ∧ t.led.barIn = s.led.barIn + 1 ∧
      (uFlag u 0 = false → g ≤ t.localGen id → Passed n.val (s.rf (R.STREAM_RUN_PC n.val) + 1) s t) ∧
      (uFlag u 0 = false → t.localGen id < g → Waits n.val wtBARRIER s t) ∧
      (uFlag u 0 = true → t.configDone id g = true → Passed n.val (s.rf (R.STREAM_RUN_PC n.val) + 1) s t) ∧
      (uFlag u 0 = true → t.configDone id g = false → Waits n.val wtBARRIER s t))) ∧
  (∀ (n : Fin 16384) (id : Fin 4096) (s : State), s.usedCtx.filter (fun m => s.waitsAt m id.val && s.barrierPasses m) = [n.val] →
    Runs (.barrierComplete id) s [.streamRegs] (fun t => Passed n.val (s.rf (R.STREAM_RUN_PC n.val) + 1) s t ∧
      OnlyWrites [R.STREAM_RUN_PC n.val, R.STREAM_RUN_STATE n.val, R.STREAM_RUN_WAIT n.val] s t))) ∧
  (∀ (j : Fin 64) (id : Fin 4096) (g : BitVec 64) (s : State), 2 ≤ s.rf R.PWR_STATE_STATE → j.val < s.devices →
    j.val ≠ s.rf R.SYNC_CONFIG_MEMBER → s.tier.peers = [] →
    (∀ (own : Nat) (e : Ent), s.slotTime = false →
      s.lendPage true (s.rf R.SYNC_BARRIER_APERTURE_PAGE) = some (s.rf R.SYNC_BARRIER_LOCAL_PAGE, own) → s.rf R.SYNC_BARRIER_LOCAL_PAGE < 2 ^ 31 →
      s.pairOf (s.rf R.SYNC_BARRIER_LOCAL_PAGE) = none → s.pageFor .peer (s.rf R.SYNC_BARRIER_LOCAL_PAGE) false = .ok e →
      s.stagedAt e.page = false → s.tierOf (e.page * 2 ^ 21 + 512 * id.val + 8 * j.val) ≤ 1 →
      s.isDead (e.page * 2 ^ 21 + 512 * id.val + 8 * j.val) = false →
      Runs (.barrierAnnouncement j id g) s [.faultRegs, .memory, .marks, .fault, .tier] (fun t =>
        t.announced id.val j.val = g.toNat ∧ t.tier = { s.tier with counts := t.tier.counts } ∧
        ∀ a, (a < e.page * 2 ^ 21 + 512 * id.val + 8 * j.val ∨ e.page * 2 ^ 21 + 512 * id.val + 8 * j.val + 8 ≤ a) → t.byteAt a = s.byteAt a)) ∧
    (s.slotTime = false → s.lendPage true (s.rf R.SYNC_BARRIER_APERTURE_PAGE) = none →
      Runs (.barrierAnnouncement j id g) s [.hqRegs, .tierRegs, .faultRegs, .logRegs, .logRound] (fun t => t.rf R.TIER_ERR_PEER_REFUSED = 1)) ∧
    (s.slotTime = true → s.slots.claim s.tier.used s.planTick (annLoad 0x5000) = none →
      Runs (.barrierAnnouncement j id g) s [.tier] (fun t =>
        t.tier = { s.tier with peers := [⟨3, 512 * id.val + 8 * j.val, 8, [], false, 0, g.toNat, 0, none⟩] })))

/-- R215, R216, R226: a SIGNAL acts after every earlier block of its stream: KIND 0 adds its VALUE to a semaphore word, or is refused with BAD_ARG
where the stream may not reach the word (R264), KIND 2 sends a SIG on its port
when the port can carry it and is dropped when the port is down; the stream waits while blocks are in flight, and while the port retrains or lacks
a header credit, or the stream has no slot of it left. A MARK counts itself in MARKS and does the same, adding 1 to a word. -/
def Obligations.SignalMark : Prop :=
  (∀ (n : Fin 16384) (s : State), s.atOp n.val opSIGNAL = true →
    Runs (.signal n) s [.stepRegs, .streamRegs, .hqRegs, .tierRegs, .faultRegs, .logRegs, .memory, .marks, .sent, .flagOut, .logRound, .fault,
        .ledgers, .ports, .streams, .host]
      (fun t =>
        let u := s.unit n.val
        let kind := fieldLe u 1 1 % 8
        let target := fieldLe u 4 4
        (s.quiet n.val = false → Waits n.val wtORDER s t ∧ t.mem = s.mem ∧ t.sent = s.sent) ∧
        (s.quiet n.val = true → s.signalWaits n.val kind target = true → Waits n.val wtSLOT s t ∧ t.sent = s.sent) ∧
        (s.quiet n.val = true → kind = 0 → Passed n.val (s.rf (R.STREAM_RUN_PC n.val) + 1) s t ∧ t.sent = s.sent ∧
          (s.semBad n.val (fieldLe u 8 8 % 2 ^ 52) = none → t.mem = (s.addSem (fieldLe u 8 8 % 2 ^ 52) (fieldLe u 2 2)).mem) ∧
          (s.semBad n.val (fieldLe u 8 8 % 2 ^ 52) ≠ none → t.mem = s.mem ∧ t.rf R.TIER_ERR_LAST_STATUS = stBAD_ARG)) ∧
        (s.quiet n.val = true → kind = 2 → s.signalWaits n.val kind target = false → s.portUp (target / 2 ^ 30) = true →
          Passed n.val (s.rf (R.STREAM_RUN_PC n.val) + 1) s t ∧
          t.sent = s.sent ++ [.kpp (target / 2 ^ 30) kSIG (fieldLe u 2 2) (target % 2 ^ 30) []]) ∧
        (s.quiet n.val = true → kind = 2 → s.signalWaits n.val kind target = false → s.portUp (target / 2 ^ 30) = false →
          Passed n.val (s.rf (R.STREAM_RUN_PC n.val) + 1) s t ∧ t.sent = s.sent))) ∧
  (∀ (n : Fin 16384) (s : State), s.atOp n.val opMARK = true →
    Runs (.mark n) s [.stepRegs, .streamRegs, .hqRegs, .tierRegs, .faultRegs, .logRegs, .memory, .marks, .sent, .flagOut, .logRound, .fault,
        .ledgers, .ports, .streams, .host]
      (fun t =>
        let u := s.unit n.val
        let kind := fieldLe u 1 1 / 2 % 8
        (s.quiet n.val = false → Waits n.val wtORDER s t ∧ t.mem = s.mem ∧ t.sent = s.sent ∧
          t.rf (R.STREAM_AD1_MARKS n.val) = s.rf (R.STREAM_AD1_MARKS n.val)) ∧
        (s.quiet n.val = true → kind = 0 → Passed n.val (s.rf (R.STREAM_RUN_PC n.val) + 1) s t ∧ t.sent = s.sent ∧
          t.rf (R.STREAM_AD1_MARKS n.val) = (s.rf (R.STREAM_AD1_MARKS n.val) + 1) % 2 ^ 16 ∧
          (s.semBad n.val (fieldLe u 8 8 % 2 ^ 52) = none → t.mem = (s.addSem (fieldLe u 8 8 % 2 ^ 52) 1).mem) ∧
          (s.semBad n.val (fieldLe u 8 8 % 2 ^ 52) ≠ none → t.mem = s.mem ∧ t.rf R.TIER_ERR_LAST_STATUS = stBAD_ARG))))

/-- R217, R218, R377: FENCE passes when every earlier write is confirmed; it asks each far side with writes outstanding and waits for it. A side whose
page is unmapped by then cannot be confirmed, which is a far fault (R264). A confirming
read's completion takes its side from the ones waited for; a failed one sets HQ_ERR.FAR_FAULT with the bit of its kind. -/
def Obligations.FenceConfirm : Prop :=
  (∀ (n : Fin 16384) (s : State), s.atOp n.val opFENCE = true →
    Runs (.fence n) s [.stepRegs, .streamRegs, .hqRegs, .tierRegs, .faultRegs, .logRegs, .sent, .flagOut, .logRound, .ledgers, .ports, .streams,
        .host] (fun t =>
      let x := s.str n.val
      (s.quiet n.val = false → Waits n.val wtORDER s t ∧ t.strs = s.strs ∧ t.sent = s.sent) ∧
      (s.quiet n.val = true → x.confirm = [] → x.pend = [] → Passed n.val (s.rf (R.STREAM_RUN_PC n.val) + 1) s t ∧ t.sent = s.sent) ∧
      (s.quiet n.val = true → (x.confirm ≠ [] ∨ x.pend ≠ []) → Waits n.val wtORDER s t ∧
        ((∀ f ∈ x.pend, f < 100 ∧ s.confirmable n.val f) → OnlyChanges [.streamRegs, .sent, .streams, .host] s t ∧
          t.str n.val = { x with confirm := x.confirm ++ x.pend, pend := [] }) ∧
        (∀ f, x.confirm = [] → x.pend = [f] → f < 100 → s.entOf (SMap.get (fun _ => 0) x.far f / 2 ^ 21 % 2 ^ 31) = none →
          (t.str n.val).confirm = [] ∧ (t.str n.val).pend = [] ∧ t.rf R.HQ_ERR_FAR_FAULT = 1 ∧ t.rf R.TIER_ERR_UNMAPPED = 1)))) ∧
  (∀ (n : Fin 16384) (f kind : Nat) (s : State), (s.str n.val).confirm.contains f = true → f < 100 → (kind = 0 ∨ kind = 2 ∨ kind = 3) →
    Runs (.farReadCompletion n f kind) s [.stepRegs, .streamRegs, .hqRegs, .flagOut, .streams] (fun t =>
      t.str n.val = { s.str n.val with confirm := (s.str n.val).confirm.filter (fun y => y != f) } ∧
      (kind = 0 → OnlyWrites [] s t ∧ t.flagOut = s.flagOut) ∧ (kind ≠ 0 → t.rf R.HQ_ERR_FAR_FAULT = 1) ∧
      (kind = 2 → t.rf R.HQ_ERR_CPL_ERROR = 1) ∧ (kind = 3 → t.rf R.HQ_ERR_CPL_TIMEOUT = 1)))

/-- R214, R218, R49: END ends its stream, with nothing left in flight. SEAL waits for the stream's blocks, then for a confirmation of every far side
it wrote to, and then the stream is SEALED one unit further, with its status word written where one is asked for. -/
def Obligations.SealEnd : Prop :=
  (∀ (n : Fin 16384) (s : State), s.atOp n.val opEND = true →
    Runs (.endOp n) s [.streamRegs, .ledgers, .streams] (fun t => t.sst n.val = ssENDED ∧ t.rf (R.STREAM_RUN_WAIT n.val) = wtNONE ∧
      t.rf (R.STREAM_RUN_PC n.val) = s.rf (R.STREAM_RUN_PC n.val) ∧
      t.str n.val = { s.str n.val with blocks := [], sk := none, confirm := [], pend := [] } ∧
      t.led.strmOut = s.led.strmOut + (if (s.str n.val).host then 0 else 1))) ∧
  (∀ (n : Fin 16384) (s : State), s.atOp n.val opSEAL = true → s.sst n.val ≠ ssSEALED →
    Runs (.seal n) s [.stepRegs, .streamRegs, .hqRegs, .tierRegs, .ftlRegs, .cdpRegs, .faultRegs, .logRegs, .memory, .marks, .sent, .flagOut, .logRound,
        .stash, .fault, .ledgers, .ports, .tier, .streams, .host, .flash, .clusters]
      (fun t =>
        let u := s.unit n.val
        let x := s.str n.val
        (s.quiet n.val = false → Waits n.val wtORDER s t ∧ t.mem = s.mem) ∧
        (s.quiet n.val = true → uFlag u 0 = false → x.far = [] → s.rf (R.STREAM_RUN_WAIT n.val) ≠ wtFAR →
          t.sst n.val = ssSEALED ∧ t.rf (R.STREAM_RUN_WAIT n.val) = wtNONE ∧
          t.rf (R.STREAM_RUN_PC n.val) = (s.rf (R.STREAM_RUN_PC n.val) + 1) % 2 ^ 16 ∧ t.mem = s.mem) ∧
        (s.quiet n.val = true → uFlag u 0 = false → x.confirm = [] → x.pend = [] → s.rf (R.STREAM_RUN_WAIT n.val) = wtFAR →
          t.sst n.val = ssSEALED ∧ t.rf (R.STREAM_RUN_WAIT n.val) = wtNONE) ∧
        (s.quiet n.val = true → uFlag u 0 = false → x.far ≠ [] → s.rf (R.STREAM_RUN_WAIT n.val) ≠ wtFAR →
          (x.far.any (fun f => decide (100 ≤ f.1) && (s.portWaits (f.1 - 100) || (s.claimMsg n.val (f.1 - 100)).isNone))) = false →
          (∀ f ∈ x.far, s.confirmable n.val f.1) → Waits n.val wtFAR s t ∧ (t.str n.val).confirm = x.far.map (·.1))))

/-- R203, R205, R219, R208, R196: an ARMED plan stream enters RUN at its START, the step's slip added, at PC 0; one whose program is empty is ENDED at once. INLINE of no bytes passes; one with room and slots puts its own bytes in flight as a block and passes beyond its data units; one without room
waits for blocks, one without slots for those (R248). -/
def Obligations.StreamStartsAndInlines : Prop :=
  (∀ (n : Fin 16384) (s : State), (s.str n.val).host = false → s.sst n.val = ssARMED → s.mayRun n.val = true → s.runSet.contains n.val = true →
    Runs (.streamStart n) s [.pwrRegs, .stepRegs, .streamRegs, .cluRegs, .row, .idleRuns, .stash, .ledgers, .power, .streams] (fun t =>
      t.row = max s.row (s.planC + s.rf (R.STREAM_TIME_START n.val) + s.step.slip) ∧ t.rf (R.STREAM_RUN_PC n.val) = 0 ∧
      t.rf (R.STREAM_RUN_WAIT n.val) = wtNONE ∧ t.sst n.val = (if (s.progOf n.val).isEmpty then ssENDED else ssRUN) ∧ (t.str n.val).ran = true)) ∧
  (∀ (n : Fin 16384) (s : State), s.atOp n.val opINLINE = true →
    Runs (.inline n) s [.streamRegs, .sent, .ledgers, .streams, .host] (fun t =>
      ((s.str n.val).host = false → t.host = s.host) ∧
      let u := s.unit n.val
      let len := fieldLe u 2 1
      let dst := if uFlag u 1 then addOffset (fieldLe u 8 8) (s.rf (R.STREAM_AD1_AD1 n.val)) else fieldLe u 8 8
      let pc := s.rf (R.STREAM_RUN_PC n.val)
      (len = 0 → Passed n.val (pc + 1) s t ∧ (t.str n.val).blocks = (s.str n.val).blocks) ∧
      (∀ c, len ≠ 0 → s.roomFor n.val [(dst, len)] = true → s.claimFor n.val (ownedBy n.val (s.putLoad dst len)) = some c →
        Passed n.val (pc + 1 + ceilDiv len 16) s t ∧ t.led.blkIn = s.led.blkIn + 1 ∧
        (if (s.str n.val).host then t.host.used else (t.str n.val).used) = c.1 ∧
        (t.str n.val).blocks = (s.str n.val).blocks ++ [⟨(s.str n.val).nextSeq, pc, opINLINE, 0, dst, len, 0, false,
          clean (sliceB (s.progOf n.val) (16 * (pc + 1)) len), 0, true, [], c.2, []⟩]) ∧
      (len ≠ 0 → s.roomFor n.val [(dst, len)] = true → s.claimFor n.val (ownedBy n.val (s.putLoad dst len)) = none →
        Waits n.val wtSLOT s t ∧ t.strs = s.strs) ∧
      (len ≠ 0 → s.roomFor n.val [(dst, len)] = false → Waits n.val wtBLOCKS s t ∧ t.strs = s.strs)))

/-- R205, R196, R223: a MOVE of no entries passes. The first entry of one that begins is put in flight, as a block at the next place of the stream's
order, when the stream and its mover have room, the stream has the slots and the entry bytes; the far pieces of its source are asked for. The stream
waits for blocks when there is no room, and for slots when it has too few left (R248) or a block of it waits for credits of its port (R350). -/
def Obligations.MoveBlocks : Prop :=
  (∀ (n : Fin 16384) (s : State), s.atOp n.val opMOVE = true → s.sst n.val ≠ ssWAIT → fieldLe (s.unit n.val) 2 2 = 0 →
    Runs (.move n) s [.streamRegs, .streams] (fun t => Passed n.val (s.rf (R.STREAM_RUN_PC n.val) + 1) s t ∧
      t.rf (R.STREAM_AD0_CURSOR n.val) = 0 ∧ (t.str n.val).blocks = (s.str n.val).blocks)) ∧
  (∀ (n : Fin 16384) (s : State), s.atOp n.val opMOVE = true → s.sst n.val ≠ ssWAIT → 0 < fieldLe (s.unit n.val) 2 2 →
    (s.moveEntry n.val 0).len ≠ 0 → (s.beginMove n.val).roomFor n.val [((s.moveEntry n.val 0).dst, (s.moveEntry n.val 0).len)] = true →
    (s.rf R.HQ_LINK_BME ≠ 0 ∨
      s.missing (s.strWho n.val (s.str n.val).nextSeq) [] ((s.moveEntry n.val 0).src % 2 ^ 52) (s.moveEntry n.val 0).len = []) →
    (∀ c, s.claimFor n.val (s.blockLoad n.val (s.moveEntry n.val 0).src (s.moveEntry n.val 0).dst (s.moveEntry n.val 0).len) = some c →
      Runs (.move n) s [.streamRegs, .sent, .ledgers, .tier, .streams, .host] (fun t =>
        let e := s.moveEntry n.val 0
        let q := (s.str n.val).nextSeq
        let asked := if (s.frogOf n.val e.mb).isSome then [] else s.missing (s.strWho n.val q) [] (e.src % 2 ^ 52) e.len
        s.led.blkIn < t.led.blkIn ∧ ∃ l : List Block, (t.str n.val).blocks = (s.str n.val).blocks ++
          (⟨q, s.rf (R.STREAM_RUN_PC n.val), opMOVE, e.src % 2 ^ 52, e.dst, e.len, e.mb, e.kind == 1, [], pieceBytes asked, false, [], c.2, asked⟩ : Block)
            :: l)) ∧
    (s.claimFor n.val (s.blockLoad n.val (s.moveEntry n.val 0).src (s.moveEntry n.val 0).dst (s.moveEntry n.val 0).len) = none →
      Runs (.move n) s [.streamRegs, .streams] (fun t => Waits n.val wtSLOT s t ∧ t.rf (R.STREAM_AD0_CURSOR n.val) = 0 ∧
        (t.str n.val).blocks = (s.str n.val).blocks))) ∧
  (∀ (n : Fin 16384) (s : State), s.atOp n.val opMOVE = true → s.sst n.val ≠ ssWAIT → 0 < fieldLe (s.unit n.val) 2 2 →
    (s.moveEntry n.val 0).len ≠ 0 → (s.beginMove n.val).roomFor n.val [((s.moveEntry n.val 0).dst, (s.moveEntry n.val 0).len)] = false →
    Runs (.move n) s [.streamRegs, .streams] (fun t => Waits n.val (if s.lacksCredit n.val then wtSLOT else wtBLOCKS) s t ∧
      t.rf (R.STREAM_AD0_CURSOR n.val) = 0 ∧
      (t.str n.val).blocks = (s.str n.val).blocks))

/-- R207, R201: a MOVEX that begins with room takes the skein of its first entry in hand, that of the stash entry whose home it names where its context
serves packed entries; a skein there that is no entry's is BAD_ARG and moves nothing. It waits until its last skein has had a slot of its engine, and
then passes (R186, R369). Without room it waits for blocks, and of no entries it passes. -/
def Obligations.MovexSkeins : Prop :=
  (∀ (n : Fin 16384) (s : State), s.atOp n.val opMOVEX = true → s.sst n.val ≠ ssWAIT → fieldLe (s.unit n.val) 2 2 = 0 →
    Runs (.movex n) s [.streamRegs, .streams] (fun t => (t.str n.val).sk = (s.str n.val).sk ∧
      (s.slotless n.val = false → Passed n.val (s.rf (R.STREAM_RUN_PC n.val) + 1) s t) ∧
      (s.slotless n.val = true → Waits n.val wtSLOT s t))) ∧
  (∀ (n : Fin 16384) (s : State), s.atOp n.val opMOVEX = true → s.sst n.val = ssWAIT →
    fieldLe (s.unit n.val) 2 2 ≤ s.rf (R.STREAM_AD0_CURSOR n.val) →
    Runs (.movex n) s [.streamRegs] (fun t =>
      (s.slotless n.val = false → Passed n.val (s.rf (R.STREAM_RUN_PC n.val) + 1) s t) ∧
      (s.slotless n.val = true → Waits n.val wtSLOT s t))) ∧
  (∀ (n : Fin 16384) (s : State), s.atOp n.val opMOVEX = true → s.sst n.val ≠ ssWAIT → 0 < fieldLe (s.unit n.val) 2 2 → (s.str n.val).sk = none →
    (s.beginMove n.val).roomFor n.val (s.skeinRanges n.val (if uFlag (s.unit n.val) 2 then 1 else 0) (s.moveEntry n.val 0).dst
      (s.moveEntry n.val 0).len (s.moveEntry n.val 0).mb) = true →
    (∀ ent, s.skeinEnt n.val (s.moveEntry n.val 0).mb
      (if uFlag (s.unit n.val) 2 then (s.moveEntry n.val 0).src else (s.moveEntry n.val 0).dst) (!uFlag (s.unit n.val) 2) = ent →
    ((ent.isSome = true ∧ (uFlag (s.unit n.val) 2 = true ∨ (s.moveEntry n.val 0).len ≠ 0)) ∨ s.skeinEnts n.val (!uFlag (s.unit n.val) 2) = []) →
    Runs (.movex n) s [.streamRegs, .ledgers, .streams] (fun t =>
      let e := s.moveEntry n.val 0
      (∃ k : SkeinCtx, (t.str n.val).sk = some k ∧ k.stash = ent.map (fun x => (x.tid, e.mb)) ∧ k.eng = none ∧ k.src = e.src % 2 ^ 52 ∧ k.dst = e.dst ∧ k.len = e.len ∧ k.mb = e.mb ∧
        k.seq = (s.str n.val).nextSeq ∧ k.dir = (if uFlag (s.unit n.val) 2 then 1 else 0) ∧ k.profile = fieldLe (s.unit n.val) 8 1) ∧
      t.led.skIn = s.led.skIn + 1 ∧ Waits n.val wtSLOT s t)) ∧
    (fieldLe (s.unit n.val) 2 2 = 1 → s.skeinEnts n.val (!uFlag (s.unit n.val) 2) ≠ [] → s.skeinEnt n.val (s.moveEntry n.val 0).mb
      (if uFlag (s.unit n.val) 2 then (s.moveEntry n.val 0).src else (s.moveEntry n.val 0).dst) (!uFlag (s.unit n.val) 2) = none →
    Runs (.movex n) s [.stepRegs, .streamRegs, .flagOut, .streams] (fun t => Passed n.val (s.rf (R.STREAM_RUN_PC n.val) + 1) s t ∧
      (t.str n.val).sk = none ∧
      (statusRank (s.rf (R.STREAM_RUN_STATUS n.val)) < statusRank stBAD_ARG → t.rf (R.STREAM_RUN_STATUS n.val) = stBAD_ARG)))) ∧
  (∀ (n : Fin 16384) (s : State), s.atOp n.val opMOVEX = true → s.sst n.val ≠ ssWAIT → 0 < fieldLe (s.unit n.val) 2 2 → (s.str n.val).sk = none →
    (s.beginMove n.val).roomFor n.val (s.skeinRanges n.val (if uFlag (s.unit n.val) 2 then 1 else 0) (s.moveEntry n.val 0).dst
      (s.moveEntry n.val 0).len (s.moveEntry n.val 0).mb) = false →
    Runs (.movex n) s [.streamRegs, .streams] (fun t => Waits n.val wtBLOCKS s t ∧ (t.str n.val).sk = none))

/-- R196, R206, R221, R222, R413: a block in flight whose bytes are at hand completes at the tick by which its slots have carried it: its bytes lie at its destination, nothing else of memory but what its
own write changes, it has left the flight, and the ledger of blocks counts it. Source bytes that are found uncorrectable as they are read are marked
and flow on. -/
def Obligations.BlockCompletion : Prop :=
  (∀ (n : Fin 16384) (w : Transfer) (s : State) (b : Block), (s.str n.val).blocks.find? (fun x => x.seq == w.seq) = some b →
    2 ≤ s.rf R.PWR_STATE_STATE → s.moverServed n.val = true → s.sst n.val ≠ ssSTOPPING → b.inHand = true → isPort b.dst = false → s.linesFor n.val [(b.dst % 2 ^ 52, b.len)] = [] →
    Runs (.blockComplete n w) s [.stepRegs, .streamRegs, .hqRegs, .tierRegs, .ftlRegs, .cdpRegs, .faultRegs, .logRegs, .row, .memory, .marks, .sent,
        .free, .flagOut, .idleRuns, .logRound, .stash, .fault, .ledgers, .ports, .tier, .streams, .host, .flash, .clusters]
      (fun t => t.mem = ((s.carried n.val b).putOA n.val b.seq (b.dst % 2 ^ 52) b.data).mem ∧ t.row = (s.carried n.val b).row ∧ (∀ x ∈ (t.str n.val).blocks, x.seq ≠ w.seq) ∧
        t.led.blkOut = s.led.blkOut + 1)) ∧
  (∀ (n : Fin 16384) (w : Transfer) (s : State) (b : Block), (s.str n.val).blocks.find? (fun x => x.seq == w.seq) = some b →
    2 ≤ s.rf R.PWR_STATE_STATE → s.moverServed n.val = true → s.sst n.val ≠ ssSTOPPING → b.inHand = false → isPort b.dst = false →
    s.linesFor n.val [(b.src, b.len), (b.dst % 2 ^ 52, b.len)] = [] → s.outWaits n.val b = false → s.frogOf n.val b.mb = none →
    s.lacksFar n.val b = false →
    Runs (.blockComplete n w) s [.stepRegs, .streamRegs, .hqRegs, .tierRegs, .ftlRegs, .cdpRegs, .faultRegs, .logRegs, .row, .memory, .marks, .sent,
        .free, .flagOut, .idleRuns, .logRound, .stash, .fault, .ledgers, .ports, .tier, .streams, .host, .flash, .clusters]
      (fun t =>
        let r := ((s.markErrors w.bad (b.src % 2 ^ 52) b.len).carried n.val b).readSource n.val b
        t.mem = ((r.1.shorten n.val b r.2.length).putOA n.val b.seq (b.dst % 2 ^ 52) r.2).mem ∧ t.row = (s.carried n.val b).row ∧
        (∀ x ∈ (t.str n.val).blocks, x.seq ≠ w.seq) ∧ s.led.blkOut < t.led.blkOut))

/-- R87, R107, R239, R90, R95, R414: a segment of the schedule starts on the clusters of its span at its plan offset, leaves the entries that are still to start,
and CLU_SEGMENT of each cluster, which is on from then, names its work. A running segment ends WORK_CYCLES after its START: its operations have run in program order, its outputs are handed on, memory
holds what it wrote, and its clusters are free. One that is still unfinished 256 FCLK cycles after that count is a unit fault instead (R414; which
cluster of the span is flagged is the model's choice of log entry 246). -/
def Obligations.Segments : Prop :=
  (∀ (e : Nat) (s : State) (g : Seg) (us : List Nat), s.segOf e = some g → s.planRuns = true → s.clu.left.contains e = true →
    s.spanUnits g.ce.first g.span = some us →
    Runs (.segmentStart e) s [.pwrRegs, .stepRegs, .cluRegs, .row, .idleRuns, .power, .clusters] (fun t =>
      t.row = max s.row (s.cluAt g.ce.start) ∧ t.clu.left = s.clu.left.filter (· != e) ∧ t.clu.running = s.clu.running ++ [(e, t.row)] ∧
      (g.rows ≠ 0 → t.clu.outs = s.clu.outs) ∧ (∀ p ∈ us, t.pwr.awake.contains (0x1000 + p) = true) ∧
      ∀ p ∈ us, t.rf (R.CLU_SEGMENT_BUSY p) = 1 ∧ t.rf (R.CLU_SEGMENT_PROGRAM p) = g.ent.prog % 2 ^ 16 ∧
        t.rf (R.CLU_SEGMENT_LIFELINE p) = g.ent.life % 2 ^ 16 ∧ t.rf (R.CLU_SEGMENT_SLICE p) = g.ce.slice % 2 ^ 16 ∧
        t.rf (R.CLU_SEGMENT_MB p) = g.ce.mb % 2 ^ 8 ∧ t.rf (R.CLU_SEGMENT_REPLAY p) = 0)) ∧
  (∀ (e : Nat) (s : State) (g : Seg) (us : List Nat), s.segOf e = some g → s.planRuns = true → (s.clu.running.any fun p => p.1 == e) = true →
    s.spanUnits g.ce.first g.span = some us →
    s.overdueUnit us (s.cluAt g.ce.start + s.cycleTicks (fieldLe g.prog 0xC 4)) = none →
    Runs (.segmentEnd e) s [.stepRegs, .streamRegs, .tierRegs, .cluRegs, .faultRegs, .logRegs, .row, .memory, .marks, .sent, .free, .flagOut,
        .idleRuns, .logRound, .stash, .fault, .ledgers, .tier, .barriers, .host, .clusters, .gauge]
      (fun t =>
        let at_ := s.cluAt g.ce.start + s.cycleTicks (fieldLe g.prog 0xC 4)
        let x := (s.advance at_).runSegment e g
        t.row = max s.row at_ ∧ t.mem = x.st.mem ∧ t.marks = x.st.marks ∧ (∀ o ∈ x.outputs g, o ∈ t.clu.outs) ∧
        (∀ p ∈ t.clu.running, p.1 ≠ e) ∧ ∀ p ∈ us, t.rf (R.CLU_SEGMENT_BUSY p) = 0)) ∧
  (∀ (e u : Nat) (s : State) (g : Seg) (us : List Nat), s.segOf e = some g → s.planRuns = true → (s.clu.running.any fun p => p.1 == e) = true →
    s.spanUnits g.ce.first g.span = some us →
    s.overdueUnit us (s.cluAt g.ce.start + s.cycleTicks (fieldLe g.prog 0xC 4)) = some u →
    exec (.segmentEnd e) s = .next (s.unitFault u))

/-- R192, R239, R190, R191: a panel walk of the schedule reads every panel of its weight descriptor on its engine's decode slots from its START on and writes the panel table; it is not a
segment, and its entry ends with the last of the slots it takes. The expander of a core whose segment runs decodes a K-chunk of a panel into the chunk stage that its parity names, and counts it. -/
def Obligations.WalksAndChunks : Prop :=
  (∀ (e : Nat) (s : State) (c : Chart), s.chart.active = some c → (cluEntry s.schedule e).kind = 2 → s.planRuns = true →
    s.clu.left.contains e = true → ∀ p : Nat, s.serverOf 2 (cluEntry s.schedule e).first = some p →
    walkDone s.schedule c.fclk (s.planFin c) (cluEntry s.schedule e) (wDesc ((c.item 6 (cluEntry s.schedule e).tensor).getD [])
      (cluEntry s.schedule e).slice) ≤ s.planFin c →
    Runs (.panelWalk e) s [.pwrRegs, .stepRegs, .tierRegs, .ftlRegs, .cluRegs, .skeinRegs, .faultRegs, .logRegs, .row, .memory, .marks, .sent, .free, .flagOut,
        .idleRuns, .logRound, .fault, .ledgers, .power, .tier, .barriers, .host, .flash, .clusters]
      (fun t =>
        let ce := cluEntry s.schedule e
        let d := wDesc ((c.item 6 ce.tensor).getD []) ce.slice
        let end_ := s.cluAt (walkDone s.schedule c.fclk (s.planFin c) ce d)
        let u := ((s.advance (s.cluAt ce.start)).useUnits [p]).advance end_
        let w := (upTo (ceilDiv d.n 128)).foldl (fun s n => s.walkOne d (c.tableSplit d.oa) (uIdx p) n) u
        t.row = max (max s.row (s.cluAt ce.start)) end_ ∧ t.mem = w.mem ∧ t.rf R.SKEIN_WALK_PANELS = w.rf R.SKEIN_WALK_PANELS ∧
        t.clu.running = s.clu.running.filter (fun p => p.1 != e) ∧ t.clu.left = s.clu.left.filter (· != e))) ∧
  (∀ (q : Fin 144) (k panel chunk : Nat) (s : State) (g : Seg), s.planRuns = true → s.rf (R.EXP_STAT_STATE q.val) = 2 →
    s.segAt (s.rf (R.EXP_STAT_LOGICAL q.val) / 4) = some g → k < fieldLe g.prog 5 1 → (wDesc g.prog k).index = 0 →
    panel < ceilDiv (wDesc g.prog k).n 128 → chunk < ceilDiv (wDesc g.prog k).k 512 →
    Runs (.expanderChunk q k panel chunk) s [.tierRegs, .skeinRegs, .faultRegs, .logRegs, .memory, .marks, .free, .logRound, .fault, .tier] (fun t =>
      let d := wDesc g.prog k
      let sk := splitOf g.prog k
      let h := perPart d sk
      let x := s.expandPart d panel (chunk / h) sk (chunk / h * h)
      let l := chunkOf d x.data (chunk / h * h) chunk
      t.mem = (x.st.writeMem (coreBuf (s.rf (R.EXP_STAT_LOGICAL q.val)) + 0x1C0000 + chunk % 2 * 0x20000) l).mem ∧
      t.rf (R.EXP_STAT_CHUNKS q.val) = (s.rf (R.EXP_STAT_CHUNKS q.val) + 1) % 2 ^ 32 ∧
      (l.any (·.2) = true → t.rf (R.EXP_ERR_LAST_STATUS q.val) = stCHECK_FAIL)))

/-- R310, R314, R315, R317, R67, R131, R414: the accumulators with the earliest CLEAR_AT that is still to come are cleared at that plan offset. An update chunk of the schedule runs on its span at its plan offset, computing and writing what its group's rule gives; at
UPDATE_CYCLES after its start it is counted in STEP_UPDATE.CHUNKS with the gauge counts of what it wrote, and its entry ends; one still unfinished
256 FCLK cycles later is a unit fault instead (R414). A group of which the member holds nothing has no update work: its entry passes (R67). -/
def Obligations.AccumulatorsAndUpdates : Prop :=
  (∀ (s : State) (a : Nat), s.planRuns = true → s.inStep = true →
    leastBy (fun x => (accDesc s.updProg x).clear) ((upTo (fieldLe s.updProg 0 2)).filter
      (fun x => (accDesc s.updProg x).clear != 0 && !s.upd.cleared.contains x)) = some a →
    Runs .accumulatorClear s [.stepRegs, .tierRegs, .faultRegs, .logRegs, .row, .memory, .marks, .sent, .idleRuns, .logRound, .fault, .ledgers,
        .ports, .update]
      (fun t => t.row = max s.row (s.cluAt (accDesc s.updProg a).clear) ∧ t.upd.cleared.contains a = true ∧
        (∀ x, s.upd.cleared.contains x = true → t.upd.cleared.contains x = true) ∧ t.rf R.STEP_NUMBER_VALUE = s.rf R.STEP_NUMBER_VALUE)) ∧
  ((∀ (e : Nat) (peers : List Byte) (s : State) (ce : CluEntry) (us : List Nat), s.chunkEntry e = some ce → s.planRuns = true →
    s.clu.left.contains e = true → s.spanUnits ce.first (fieldLe s.updProg 6 1) = some us →
    s.groupExtent (uGroup s.updProg ce.tensor).group ≠ 0 →
    Runs (.updateChunk e peers) s [.pwrRegs, .stepRegs, .tierRegs, .ftlRegs, .cluRegs, .skeinRegs, .faultRegs, .logRegs, .row, .memory, .marks, .sent, .free, .flagOut,
        .idleRuns, .logRound, .fault, .ledgers, .power, .tier, .host, .flash, .update, .clusters, .gauge]
      (fun t =>
        let u := us.foldl (fun s p => s.set (R.CLU_SEGMENT_BUSY p) 1)
          (((s.advance (s.cluAt ce.start)).runEntry e).useUnits (us.map (0x1000 + ·)))
        let x := ({ u with gauge := [] }).updateChunk s.updProg ce.tensor ce.slice peers
        t.row = max s.row (s.cluAt ce.start) ∧ t.mem = x.mem ∧ t.upd = x.upd ∧ t.gauge = s.gauge ∧ t.clu.counts = s.clu.counts ++ [(e, x.gauge)] ∧
        t.clu.running = s.clu.running ++ [(e, t.row)] ∧ t.clu.left = s.clu.left.filter (· != e))) ∧
  (∀ (e : Nat) (peers : List Byte) (s : State) (ce : CluEntry) (us : List Nat), s.chunkEntry e = some ce → s.planRuns = true →
    s.clu.left.contains e = true → s.spanUnits ce.first (fieldLe s.updProg 6 1) = some us →
    s.groupExtent (uGroup s.updProg ce.tensor).group = 0 →
    Runs (.updateChunk e peers) s [.stepRegs, .row, .idleRuns, .clusters] (fun t =>
      t.row = max s.row (s.cluAt ce.start) ∧ t.clu.running = s.clu.running ++ [(e, t.row)] ∧ t.clu.left = s.clu.left.filter (· != e))) ∧
  (∀ (e : Nat) (s : State) (ce : CluEntry) (us : List Nat), s.chunkEntry e = some ce → s.planRuns = true →
    (s.clu.running.any fun p => p.1 == e) = true → s.spanUnits ce.first (fieldLe s.updProg 6 1) = some us →
    let due := s.cluAt ce.start + s.cycleTicks (updCycles (fieldLe s.updProg 6 1) (uGroup s.updProg ce.tensor) ce.slice)
    (s.groupExtent (uGroup s.updProg ce.tensor).group ≠ 0 → s.overdueUnit us due = none →
      Runs (.updateChunkDone e) s [.stepRegs, .tierRegs, .cluRegs, .faultRegs, .logRegs, .row, .sent, .idleRuns, .logRound, .ledgers, .tier, .barriers,
          .host, .clusters, .gauge] (fun t =>
        t.row = max s.row due ∧ t.rf R.STEP_UPDATE_CHUNKS = (s.rf R.STEP_UPDATE_CHUNKS + 1) % 2 ^ 32 ∧
        t.gauge = (s.takeCounts e).gauge ∧ t.clu.running = s.clu.running.filter (fun p => p.1 != e))) ∧
    (s.groupExtent (uGroup s.updProg ce.tensor).group = 0 →
      Runs (.updateChunkDone e) s [.stepRegs, .tierRegs, .faultRegs, .logRegs, .row, .sent, .idleRuns, .logRound, .ledgers, .tier, .barriers, .host,
          .clusters] (fun t =>
        t.row = max s.row due ∧ t.rf R.STEP_UPDATE_CHUNKS = s.rf R.STEP_UPDATE_CHUNKS ∧
        t.clu.running = s.clu.running.filter (fun p => p.1 != e))) ∧
    (∀ u, s.groupExtent (uGroup s.updProg ce.tensor).group ≠ 0 → s.overdueUnit us due = some u →
      exec (.updateChunkDone e) s = .next (s.unitFault u))))

/-- R134, R179, R181, R182, R186, R154, R155, R156, R184, R187: an encode slot of a plain skein that serves no stash and whose bytes are on this device takes its next block: the engine's
byte count grows by the block, and the skein stands one block further or is done. A skein of no bytes is its header alone. A decode slot of a plain skein checks its next block: an intact one is delivered as its raw bytes at the block's place
in the destination; of a skein whose place in the bytes is lost, the block is delivered as marked zero bytes. -/
def Obligations.SkeinSlots : Prop :=
  ((∀ (n : Fin 16384) (s u : State) (k : SkeinCtx) (l : Nat), (s.str n.val).sk = some k → k.dir = 0 → s.maySlot n.val = true →
    s.sst n.val ≠ ssSTOPPING → s.engineOf n.val 0 = some l → s.skeinLines n.val k = [] → k.profile ≠ 1 → k.header.refKind = 0 → k.stash = none →
    k.len ≠ 0 → s.lacks n.val k [((k.src + 65536 * k.block) % 2 ^ 52, blockRaw k.len k.block)] = false → s.slotState n.val k = some u →
    Runs (.skeinEncodeSlot n) s [.pwrRegs, .stepRegs, .streamRegs, .hqRegs, .tierRegs, .ftlRegs, .cluRegs, .skeinRegs, .cdpRegs, .faultRegs, .logRegs,
        .row, .memory, .marks, .sent, .free, .flagOut, .idleRuns, .logRound, .stash, .fault, .ledgers, .ports, .power, .tier, .streams, .host,
        .flash, .clusters]
      (fun t =>
        t.row = u.row ∧ t.rf (R.SKEIN_ENC_BYTES (s.engineWin l)) = (s.rf (R.SKEIN_ENC_BYTES (s.engineWin l)) + blockRaw k.len k.block) % 2 ^ 64 ∧
        (k.block + 1 < blockCount k.len → ∃ k' : SkeinCtx, (t.str n.val).sk = some k' ∧ k'.block = k.block + 1 ∧ k'.headed = true ∧
          k'.eng = some l ∧ k'.src = k.src ∧ k'.dst = k.dst ∧ k'.len = k.len) ∧
        (blockCount k.len ≤ k.block + 1 → (t.str n.val).sk = none ∧ t.led.skOut = s.led.skOut + 1))) ∧
  (∀ (n : Fin 16384) (s u : State) (k : SkeinCtx), (s.str n.val).sk = some k → k.dir = 0 → s.maySlot n.val = true → s.sst n.val ≠ ssSTOPPING →
    (s.engineOf n.val 0).isSome = true → s.skeinLines n.val k = [] → k.profile ≠ 1 → k.stash = none → k.len = 0 → s.slotState n.val k = some u →
    Runs (.skeinEncodeSlot n) s [.pwrRegs, .stepRegs, .streamRegs, .hqRegs, .tierRegs, .ftlRegs, .cluRegs, .skeinRegs, .cdpRegs, .faultRegs, .logRegs,
        .row, .memory, .marks, .sent, .free, .flagOut, .idleRuns, .logRound, .stash, .fault, .ledgers, .ports, .power, .tier, .streams, .host,
        .flash, .clusters]
      (fun t => t.mem = ((u.enterEng n.val k).1.putDst n.val k.seq (k.dst + k.coded) (clean k.header.bytes)).mem ∧ (t.str n.val).sk = none ∧ t.led.skOut = s.led.skOut + 1))) ∧
  ((∀ (n : Fin 16384) (s u : State) (k : SkeinCtx) (x : State × SkeinCtx) (g gp : Got) (l : List Byte), (s.str n.val).sk = some k → k.dir = 1 →
    s.maySlot n.val = true → s.sst n.val ≠ ssSTOPPING → (s.engineOf n.val 1).isSome = true → s.skeinLines n.val k = [] → k.lost = false →
    k.headed = true → k.stash = none → isPort k.dst = false → k.profile ≠ 1 → k.profile ≠ 3 → s.slotState n.val k = some u →
    u.enterEng n.val k = x → x.1.skRead n.val x.2 k.coded 32 = some g → loses g.data k.block (blockRaw k.len k.block) = false →
    x.1.lacks n.val x.2 [(x.1.skAddr k (k.coded + 32), fieldLe (g.data.map (·.1)) 8 4)] = false →
    g.st.readFor n.val k.seq (x.1.skAddr k (k.coded + 32)) (fieldLe (g.data.map (·.1)) 8 4) k.asked k.have_ = gp → blockIntact g.data gp.data = true →
    decodePlain (g.data.map (·.1)) (gp.data.map (·.1)) [] k.width k.block (blockRaw k.len k.block) = some l →
    Runs (.skeinDecodeSlot n) s [.pwrRegs, .stepRegs, .streamRegs, .hqRegs, .tierRegs, .ftlRegs, .cluRegs, .skeinRegs, .cdpRegs, .faultRegs, .logRegs,
        .row, .memory, .marks, .sent, .free, .flagOut, .idleRuns, .logRound, .fault, .ledgers, .ports, .power, .tier, .streams, .host,
        .flash, .clusters]
      (fun t =>
        t.mem = (gp.st.putDst n.val k.seq (k.dst + 65536 * k.block) (clean l)).mem ∧
        (k.block + 1 < blockCount k.len → ∃ k' : SkeinCtx, (t.str n.val).sk = some k' ∧ k'.block = k.block + 1 ∧
          k'.coded = k.coded + 32 + gp.data.length) ∧
        (blockCount k.len ≤ k.block + 1 → (t.str n.val).sk = none))) ∧
  (∀ (n : Fin 16384) (s u : State) (k : SkeinCtx) (x : State × SkeinCtx), (s.str n.val).sk = some k → k.dir = 1 → s.maySlot n.val = true →
    s.sst n.val ≠ ssSTOPPING → (s.engineOf n.val 1).isSome = true → s.skeinLines n.val k = [] → k.lost = true → isPort k.dst = false →
    s.slotState n.val k = some u → u.enterEng n.val k = x →
    Runs (.skeinDecodeSlot n) s [.pwrRegs, .stepRegs, .streamRegs, .hqRegs, .tierRegs, .ftlRegs, .cluRegs, .skeinRegs, .cdpRegs, .faultRegs, .logRegs,
        .row, .memory, .marks, .sent, .free, .flagOut, .idleRuns, .logRound, .fault, .ledgers, .ports, .power, .tier, .streams, .host,
        .flash, .clusters]
      (fun t =>
        t.mem = ((x.1.note n.val stCHECK_FAIL 4).keepDeliver n.val x.2 (badBytes (blockRaw k.len k.block))).1.mem ∧
        (k.profile ≠ 1 → t.mem = ((x.1.note n.val stCHECK_FAIL 4).putDst n.val k.seq (k.dst + 65536 * k.block)
          (badBytes (blockRaw k.len k.block))).mem) ∧
        (k.block + 1 < blockCount k.len → ∃ k' : SkeinCtx, (t.str n.val).sk = some k' ∧ k'.block = k.block + 1 ∧ k'.lost = true) ∧
        (blockCount k.len ≤ k.block + 1 → (t.str n.val).sk = none))))

/-- R268, R283, R269, R270, R271: a MAP, UNMAP or RECLASS command that R268 refuses changes nothing of the map and says why in STATUS; an accepted one of no pages is OK
at once, and one of pages changes the map as a whole and is BUSY until TIER_MAP_DONE counts the last of its pages. A migration pass, due at a bind-off, else at the next multiple of 2^20 ticks of IDLE and HOLD, halves the request counts and leaves a
page in migration alone; a page whose copy ends, when the migration's slots have passed, lies at its target and is counted, one whose far side failed
stays where it is, and the far fault is recorded (R383). -/
def Obligations.MapCommandsAndMigration : Prop :=
  ((∀ (v : BitVec 64) (i : Instr) (op : Nat) (s : State), s.reach .host = true → s.rf R.TIER_MAP_STATUS_BUSY ≠ 1 →
    ((i = .tierMap .host v ∧ op = 1) ∨ (i = .tierUnmap .host v ∧ op = 2) ∨ (i = .tierReclass .host v ∧ op = 3)) →
    Runs i s [.stepRegs, .tierRegs, .ftlRegs, .faultRegs, .logRegs, .memory, .marks, .sent, .flagOut, .logRound, .fault, .tier, .host, .flash]
      (fun t =>
        let u := s.regWrite 0x300020 (Wr.full .host (mapWord v op))
        let page := s.rf R.TIER_MAP_OA_PAGE
        let n := bitsOf v.toNat 32 32
        let cls := bitsOf v.toNat 28 4
        let cache := bitsOf v.toNat 1 1 == 1
        let st := u.mapRefusal op page n cls (bitsOf v.toNat 16 6) cache
        (st ≠ stOK → t.rf R.TIER_MAP_STATUS_STATUS = st % 2 ^ 8 ∧ t.rf R.TIER_MAP_STATUS_DONE = 0 ∧ t.tier = s.tier ∧ t.mem = s.mem ∧
          t.sent = s.sent) ∧
        (st = stOK → n = 0 → t.rf R.TIER_MAP_STATUS_STATUS = stOK ∧ t.rf R.TIER_MAP_STATUS_DONE = 0 ∧ t.tier = s.tier ∧ t.mem = s.mem) ∧
        (st = stOK → n ≠ 0 → t.rf R.TIER_MAP_STATUS_BUSY = 1 ∧ t.tier.cmd = some n ∧
          t.tier.tables = (((u.set R.TIER_MAP_STATUS_STATUS stOK).set R.TIER_MAP_STATUS_DONE 0).runMap op page n cls
            (bitsOf v.toNat 16 6) cache).tier.tables))) ∧
  (∀ (n : Nat) (s : State), s.tier.cmd = some n →
    Runs .tierMapDone s [.tierRegs, .tier] (fun t => t.rf R.TIER_MAP_STATUS_DONE = n % 2 ^ 32 ∧ t.rf R.TIER_MAP_STATUS_BUSY = 0 ∧
      t.tier = { s.tier with cmd := none } ∧ OnlyWrites [R.TIER_MAP_STATUS_DONE, R.TIER_MAP_STATUS_BUSY] s t))) ∧
  ((∀ s : State, 2 ≤ s.rf R.PWR_STATE_STATE → (s.tier.passDue = true ∨ s.stopped = true) →
    Runs .migrationPass s [.stepRegs, .tierRegs, .row, .idleRuns, .ledgers, .tier] (fun t =>
      t.tier.passDue = false ∧ t.row = (if s.tier.passDue then s.row else (s.row / 2 ^ 20 + 1) * 2 ^ 20) ∧
      t.tier.counts = (s.tier.counts.map (fun c => (c.1, c.2 / 2))).filter (fun c => c.2 != 0) ∧ t.tier.tables = s.tier.tables ∧
      s.tier.migTo <+: t.tier.migTo ∧ (∀ m ∈ s.tier.migTo, ∀ q ∈ t.tier.queue, q.1 ≠ m.page))) ∧
  (∀ (ok : Bool) (data : List Byte) (s : State) (m : Mig) (c : List (Nat × Nat) × Nat) (e : Ent), s.migNext = some m → s.migClaim m = some c →
    s.entOf m.page = some e →
    Runs (.pageMigrationDone ok data) s [.stepRegs, .hqRegs, .tierRegs, .faultRegs, .logRegs, .row, .memory, .marks, .sent, .free, .idleRuns, .logRound,
        .fault, .ledgers, .tier, .host]
      (fun t =>
        let v := s.useTier c
        let u : State := { v with tier := { v.tier with migTo := v.tier.migTo.filter (fun x => x.page != m.page) } }
        t.row = v.row ∧ t.tier.used = c.1 ∧
        (ok = false → t.mem = s.mem ∧ t.marks = s.marks ∧ t.sent = s.sent ∧ t.tier.tables = s.tier.tables ∧ t.rf R.HQ_ERR_FAR_FAULT = 1) ∧
        (ok = true → t.mem = ((u.pageBytes e.page data).2.placePage (decide (s.tierOf (m.target * 2 ^ 21) < 2)) (m.target * 2 ^ 21)
            (u.pageBytes e.page data).1).mem ∧
          t.rf R.TIER_MIGRATE_DONE = (s.rf R.TIER_MIGRATE_DONE + 1) % 2 ^ 32))))

/-- R282, R259, R413, R280, R281: a lookup shows whether its page is mapped or moving and the DA page that serves it, and changes nothing else. The pages that a bad entry of the map memory covers act as unmapped, of a directory entry those of its 256 GiB, and
TIER_ERR says so. A bias command on a page of the host that it may cache is BUSY until the change is done, any other is refused; the change sets the page's
bias bit once no host block, and no line the host must give back, is in the way. The answer to a back-invalidate takes its line off the list, and may end
a stopping stream that waited for it. -/
def Obligations.LookupsAndBias : Prop :=
  ((∀ (v : BitVec 64) (s : State), s.reach .host = true →
    Runs (.tierLookup .host v) s [.tierRegs, .faultRegs, .logRegs, .logRound] (fun t =>
      let page := bitsOf v.toNat 21 31
      t.rf R.TIER_LOOKUP_OA_PAGE = page ∧ t.entOf page = s.entOf page ∧
      (s.entOf page = none → t.rf R.TIER_LOOKUP_ENTRY_STATE = 0 ∧ t.rf R.TIER_LOOKUP_ENTRY_BIAS = 0 ∧ t.rf R.TIER_LOOKUP_ENTRY_LENT = 0) ∧
      (∀ e, s.entOf page = some e → s.selPage page false = page →
        t.rf R.TIER_LOOKUP_ENTRY_STATE = (if s.tier.migTo.any (fun m => m.page == page) then 2 else 1) ∧
        t.rf R.TIER_LOOKUP_ENTRY_CLASS = e.cls % 2 ^ 4 ∧ t.rf R.TIER_LOOKUP_ENTRY_DA_PAGE = e.page % 2 ^ 30))) ∧
  (∀ (oa : BitVec 52) (dir : Bool) (s : State), 2 ≤ s.rf R.PWR_STATE_STATE →
    Runs (.mapMemoryError ⟨oa, dir⟩) s [.tierRegs, .faultRegs, .logRegs, .logRound, .tier] (fun t =>
      t.entOf (oa.toNat / 2 ^ 21) = none ∧
      (dir = true → ∀ page, page / 131072 = oa.toNat / 2 ^ 21 / 131072 → t.entOf page = none) ∧ t.rf R.TIER_ERR_TABLE_ERR = 1 ∧ t.rf R.TIER_ERR_LAST_STATUS = stCHECK_FAIL))) ∧
  ((∀ (v : BitVec 64) (i : Instr) (up : Bool) (s : State), s.reach .host = true → s.rf R.TIER_BIAS_CMD_BUSY ≠ 1 →
    ((i = .biasToHost .host v ∧ up = true) ∨ (i = .biasToDevice .host v ∧ up = false)) →
    Runs i s [.tierRegs, .faultRegs, .logRegs, .sent, .logRound, .tier] (fun t =>
      let page := bitsOf v.toNat 21 31
      (∀ e, s.entOf page = some e → e.cache = true → s.pageOwner page = 1 → t.rf R.TIER_BIAS_CMD_STATUS = stOK ∧ t.rf R.TIER_BIAS_CMD_BUSY = 1 ∧
        t.tier.biasCmd = some (page, up)) ∧
      (∀ e, s.entOf page = some e → e.cache = true → s.pageOwner page ≠ 1 → t.rf R.TIER_BIAS_CMD_STATUS = stNOT_OWNER ∧ t.tier = s.tier) ∧
      ((∀ e, s.entOf page = some e → e.cache = false) → t.rf R.TIER_BIAS_CMD_STATUS = stBAD_ARG ∧ t.tier = s.tier))) ∧
  (∀ (page : Nat) (up : Bool) (s : State) (e : Ent), s.tier.biasCmd = some (page, up) → (up = true → s.hostBlockAt page = false) →
    (up = false → (s.tier.waitLine.any fun l => l / 32768 == page) = false) → s.entOf page = some e → s.rf R.TIER_STATUS_MODE = 1 →
    e.page < 253952 →
    Runs .biasChangeDone s [.tierRegs, .tier] (fun t => t.bias e.page = up ∧ t.rf R.TIER_BIAS_CMD_BUSY = 0 ∧
      t.tier = { s.tier with biasCmd := none, biasOld := [] })) ∧
  (∀ (l : BitVec 64) (s : State), s.tier.waitLine.contains l.toNat = true →
    Runs (.backInvalidateAnswer l) s [.stepRegs, .streamRegs, .hqRegs, .tierRegs, .ftlRegs, .cdpRegs, .faultRegs, .logRegs, .memory, .marks, .sent,
        .flagOut, .logRound, .fault, .ledgers, .ports, .tier, .streams, .host, .flash, .clusters] (fun t =>
      (∀ n ∈ s.usedCtx, s.sst n ≠ ssSTOPPING) →
        OnlyChanges [.tier] s t ∧ t.tier = { s.tier with waitLine := s.tier.waitLine.filter (fun x => x != l.toNat) })))

/-- R276, R277, R278, R365: a write of a host lend entry is refused where the entry, valid, would break R277. A request beyond the aperture is
unsupported, and so is one with a translated address. In IDLE and HOLD one that no lend entry allows is refused and counted, a write to the staging
area with NOT_OWNER (R71), and one that an entry
allows is answered by, or reaches, the lent page; elsewhere it waits for PEER slots of plan time. -/
def Obligations.Lending : Prop :=
  (∀ (e : Fin 32) (v : BitVec 64) (s : State), s.reach .host = true →
    Runs (.lendEntryWrite .host e true v) s [.tierRegs, .faultRegs, .logRegs, .logRound] (fun t =>
      let u := s.regWrite (0x302000 + 16 * e.val + 8) (Wr.full .host v.toNat)
      ((u.rf (R.TIER_LEND_B_VALID e.val) = 1 ∧ u.lendBad e.val = true) → t.rf (R.TIER_LEND_B_OFF e.val) = s.rf (R.TIER_LEND_B_OFF e.val) ∧ t.rf (R.TIER_LEND_B_VALID e.val) = s.rf (R.TIER_LEND_B_VALID e.val)) ∧
      (¬(u.rf (R.TIER_LEND_B_VALID e.val) = 1 ∧ u.lendBad e.val = true) → t.rf (R.TIER_LEND_B_OFF e.val) = bitsOf v.toNat 21 21 ∧
        t.rf (R.TIER_LEND_B_WRITE e.val) = bitsOf v.toNat 1 1 ∧ t.rf (R.TIER_LEND_B_VALID e.val) = bitsOf v.toNat 0 1))) ∧
  (∀ (e : Fin 32) (v : BitVec 64) (s : State), s.reach .host = true →
    ¬(s.rf (R.TIER_LEND_B_VALID e.val) = 1 ∧ (s.regWrite (0x302000 + 16 * e.val + 0) (Wr.full .host v.toNat)).lendBad e.val = true) →
    Runs (.lendEntryWrite .host e false v) s [.tierRegs, .faultRegs, .logRegs, .logRound] (fun t =>
      t.rf (R.TIER_LEND_A_OA e.val) = bitsOf v.toNat 21 31 ∧ t.rf (R.TIER_LEND_A_PAGES e.val) = bitsOf v.toNat 0 21)) ∧
  (∀ (w p tr : Bool) (a : BitVec 64) (n : Nat) (data : List Byte) (s : State), s.linkUp = true → (w = true → p = false) →
    Runs (.peerRequest ⟨w, tr⟩ a n data p) s [.stepRegs, .hqRegs, .tierRegs, .ftlRegs, .faultRegs, .logRegs, .row, .memory, .marks, .sent, .free, .flagOut,
        .idleRuns, .logRound, .fault, .ledgers, .tier, .host, .flash]
      (fun t =>
        let len := if w then data.length else n
        let r : PeerReq := ⟨if w then 1 else 0, a.toNat, len, if w then data else [], p, 0, 0, 0, none⟩
        (tr = true → t.sent = s.sent ++ [.unsupported] ∧ t.mem = s.mem) ∧
        (2 ^ 42 < a.toNat + len → t.sent = s.sent ++ [.unsupported] ∧ t.mem = s.mem) ∧
        (tr = false → a.toNat + len ≤ 2 ^ 42 → 0 < len → s.tier.peers = [] → s.stopped = false →
          (s.slotTime = false ∨ s.slots.claim s.tier.used s.planTick (s.peerLoad r) = none → t.tier.peers = [r] ∧ t.mem = s.mem ∧ t.sent = s.sent) ∧
          (∀ c, s.slotTime = true → s.slots.claim s.tier.used s.planTick (s.peerLoad r) = some c → (s.planTick / 32 + 1) * 32 ≤ c.2 →
            t.tier.peers = [{ r with due := some c.2 }] ∧ t.mem = s.mem ∧ t.sent = s.sent)) ∧
        (∀ sp, tr = false → s.tier.peers = [] → s.stopped = true → a.toNat + len ≤ 2 ^ 42 → 0 < len → pageSpans a.toNat len = [sp] →
          (s.lendPage w sp.1 = none → t.mem = s.mem ∧ t.rf R.TIER_ERR_PEER_REFUSED = 1 ∧ t.rf R.TIER_ERR_LAST_STATUS = s.lendStatus w sp.1 ∧
            (w = false → t.sent = s.sent ++ [.answer (List.replicate sp.2.2 (0, true))])) ∧
          (∀ pg own x, s.lendPage w sp.1 = some (pg, own) → w = false → s.pageFor .peer pg false = .ok x →
            t.mem = s.mem ∧ t.sent.getLast? = some (.answer (s.readOA .peer (pg * 2 ^ 21 + (sp.1 * 2 ^ 21 + sp.2.1) % 2 ^ 21) sp.2.2).data)) ∧
          (∀ pg own x, s.lendPage w sp.1 = some (pg, own) → w = true → s.pageFor .peer pg (s.redirects pg) = .ok x → s.pairClosed pg = false →
            t.mem = (s.writeOA .peer own (pg * 2 ^ 21 + (sp.1 * 2 ^ 21 + sp.2.1) % 2 ^ 21)
              (((clean data).drop (sp.1 * 2 ^ 21 + sp.2.1 - a.toNat)).take sp.2.2)).st.mem))))

/-- R284, R289, R290, R307: FTL_FORMAT with GO begins a format when its conditions hold, and is refused with BAD_ARG when they do not; when it is done the
tier is up with the regions' units, all of them zero, or UNFORMATTED after one that was SLOW when it began, at the diagnostic rate while no chart is installed. -/
def Obligations.FlashFormat : Prop :=
  (∀ (v : BitVec 64) (s : State), s.reach .host = true →
    Runs (.ftlFormat .host v) s [.ftlRegs, .faultRegs, .logRegs, .logRound, .flash] (fun t =>
      let u := s.regWrite 0x380020 (Wr.full .host (v ||| 1).toNat)
      (u.formatOk = true → t.rf R.FTL_FORMAT_STATUS = stOK ∧ t.rf R.FTL_FORMAT_BUSY = 1 ∧ t.rf R.FTL_STATUS_STATE = 2 ∧
        t.rf R.FTL_FORMAT_SLOW = bitsOf v.toNat 1 1 ∧ t.ftl = { s.ftl with slow := bitsOf v.toNat 1 1 == 1 }) ∧
      (u.formatOk = false → t.ftl = s.ftl ∧ t.rf R.FTL_FORMAT_STATUS = stBAD_ARG ∧ t.rf R.FTL_FORMAT_BUSY = s.rf R.FTL_FORMAT_BUSY ∧
        t.rf R.FTL_STATUS_STATE = s.rf R.FTL_STATUS_STATE))) ∧
  (∀ s : State, s.rf R.FTL_FORMAT_BUSY = 1 →
    Runs .ftlFormatDone s [.tierRegs, .ftlRegs, .flash] (fun t =>
      t.rf R.FTL_FORMAT_BUSY = 0 ∧ t.ftl.cells = [] ∧ t.ftl.live = [] ∧ t.ftl.shadow = [] ∧ t.ftl.queue = [] ∧ t.ftl.cwMarks = [] ∧
      (s.ftl.slow = false → t.ftl.fmt = some s.newFormat ∧ (t.rf R.FTL_STATUS_STATE = 4 ∨ t.rf R.FTL_STATUS_STATE = 5) ∧
        t.rf R.FTL_STATUS_RATE = 0x24) ∧
      (s.ftl.slow = true → t.ftl.fmt = none ∧ t.rf R.FTL_STATUS_STATE = 1 ∧
        t.rf R.FTL_STATUS_RATE = (if s.chart.active.isNone then 0x10 else 0x24))))

/-- R294, R295, R300, R301, R302: a read of a unit is counted against its block, and one whose turn has not come changes nothing; a codeword that decodes leaves its data alone, one that no entry of the retry table
reads is marked, counted, and sets FTL_ERR.UNCORRECTABLE. A failed program or erase makes its block a grown bad block that is queued; a retired LUN serves no more, and the blocks that
hold its units are queued where it still answers, for relocation to move them. -/
def Obligations.FlashReadsAndFailures : Prop :=
  ((∀ (u p : Nat) (s : State), s.unitMapped u = true → s.livePlace u = some p →
    Runs (.flashArrayRead u) s [.ftlRegs, .free, .flash] (fun t => (s.readAhead u = none → t = s) ∧
      (∀ l, s.readAhead u = some l → t.ftl.ahead = l ∧ (t.blk (p / 4096)).reads = (s.blk (p / 4096)).reads + 1 ∧
        (t.blk (p / 4096)).erases = (s.blk (p / 4096)).erases ∧ t.ftl.cells = s.ftl.cells ∧ t.ftl.live = s.ftl.live))) ∧
  (∀ (u : Nat) (c : Fin 16) (k : Nat) (s : State), s.unitMapped u = true → 0 < k →
    Runs (.codewordDecode u c k) s [.stepRegs, .streamRegs, .ftlRegs, .faultRegs, .logRegs, .flagOut, .logRound, .flash] (fun t =>
      t.ftl.cells = s.ftl.cells ∧ t.ftl.live = s.ftl.live ∧
      (k ≤ fieldLe s.pwr.profile 0x25 1 → t.ftl.cwMarks = s.ftl.cwMarks ∧ t.ftl.uncorr = s.ftl.uncorr ∧ t.ftl.retries = s.ftl.retries + 1) ∧
      (fieldLe s.pwr.profile 0x25 1 < k → t.ftl.cwMarks.contains (16 * u + c.val) = true ∧ t.ftl.uncorr = s.ftl.uncorr + 1 ∧
        t.rf R.FTL_ERR_UNCORRECTABLE = 1)))) ∧
  ((∀ (b : Nat) (s : State), s.flashUp = true → s.blkRegion b ≠ 2 → s.ftl.bad.contains b = false →
    Runs (.flashProgramFail b) s [.stepRegs, .ftlRegs, .faultRegs, .logRegs, .flagOut, .logRound, .flash] (fun t =>
      t.ftl.grown.contains b = true ∧ t.ftl.queue.contains b = true ∧ t.ftl.cells = s.ftl.cells ∧ t.ftl.shadow = s.ftl.shadow)) ∧
  (∀ (c l : Fin 32) (answers : Bool) (s : State), s.flashUp = true → l.val < s.rf R.FTL_GEOMETRY_LUNS →
    s.ftl.lunOut.contains (c.val * 32 + l.val) = false →
    Runs (.lunRetire c l answers) s [.ftlRegs, .faultRegs, .logRegs, .logRound, .flash] (fun t =>
      t.ftl.lunOut.contains (c.val * 32 + l.val) = true ∧ t.rf R.FTL_ERR_LUN_RETIRED = 1 ∧ t.ftl.cells = s.ftl.cells ∧
      t.ftl.shadow = s.ftl.shadow ∧
      (answers = true → t.chFailed c.val = false → ∀ b ∈ s.lunHolds (c.val * 32 + l.val), t.ftl.queue.contains b = true))))

/-- R299, R301, R306: the background work of the flash tier never changes its data. A queued block whose units have moved leaves the queue, one that still
holds some stays there; an erased block is empty with one erase more and its units free; wear levelling moves the least-worn block's units. Each runs when
background work has slots, no other runs in its lane, and none that goes before it waits there. -/
def Obligations.FlashBackground : Prop :=
  (∀ (b : Nat) (s : State), s.flashUp = true → s.ftl.queue.contains b = true → s.bgOk (blkLun b) = true → s.bgFirst (blkLun b) 2 = false →
    Runs (.blockRelocation b) s [.ftlRegs, .faultRegs, .logRegs, .free, .logRound, .flash] (fun t =>
      t.ftl.cells = s.ftl.cells ∧ t.ftl.shadow = s.ftl.shadow ∧
      ((s.moveBlk b).holdsValid b = true → t.ftl.queue = s.ftl.queue) ∧
      ((s.moveBlk b).holdsValid b = false → t.ftl.queue.contains b = false ∧ s.ftl.queue.filter (· != b) <+: t.ftl.queue ∧
        (s.ftl.grown.contains b = false → t.ftl.queue = s.ftl.queue.filter (· != b)) ∧
        (s.ftl.grown.contains b = true → t.ftl.bad.contains b = true)))) ∧
  (∀ (b : Nat) (s : State), s.flashUp = true → s.erasable b = true → s.bgOk (blkLun b) = true → s.bgFirst (blkLun b) 3 = false →
    Runs (.blockErase b) s [.ftlRegs, .free, .flash] (fun t => t.blk b = ⟨(s.blk b).erases + 1, 0, 0⟩ ∧
      (s.blkRegion b ≠ 2 → t.rf (freeF (s.blkRegion b)) = (s.rf (freeF (s.blkRegion b)) + (s.blk b).next) % 2 ^ 32) ∧ t.ftl.cells = s.ftl.cells ∧
      t.ftl.live = s.ftl.live)) ∧
  (∀ (b : Nat) (s : State), s.flashUp = true → s.blkRegion b ≠ 2 → s.bgOk (blkLun b) = true → s.bgFirst (blkLun b) 4 = false →
    leastBy (fun x => (s.blk x).erases) ((s.laneBlks (s.blkRegion b) (blkLun b / 32) (blkLun b % 32 % 8)).filter
      (fun x => s.ftl.live.any (fun p => p.2 / 4096 == x))) = some b →
    (s.blk b).erases + (if s.blkRegion b = 0 then 512 else 64) <
      (s.laneBlks (s.blkRegion b) (blkLun b / 32) (blkLun b % 32 % 8)).foldl (fun a x => max a (s.blk x).erases) 0 →
    Runs (.wearLevelling b) s [.ftlRegs, .faultRegs, .logRegs, .free, .logRound, .flash] (fun t =>
      t.ftl.cells = s.ftl.cells ∧ t.ftl.shadow = s.ftl.shadow ∧ t.ftl.bad = s.ftl.bad ∧
      (t.ftl.queue = s.ftl.queue ∨ t.ftl.queue = s.ftl.queue ++ [b])))

/-- R298, R305: the durable record of a commit, once the slots of background work come for the map store, makes the committed step durable and forgets what
could be undone; with 256 commits since the last one a snapshot of the map replaces the journal. Recovery after a loss of power returns every
unit to the last durable commit, drops the shadows and leaves the tier up. -/
def Obligations.FlashCommits : Prop :=
  (∀ s : State, s.flashUp = true → s.ftl.record = true → (∀ p, s.storePlace = some p → s.bgTime (blkLun (p / 4096)) = true) →
    Runs .commitRecordDurable s [.ftlRegs, .free, .flash] (fun t =>
      t.rf R.FTL_COMMIT_DURABLE_STEP = s.rf R.FTL_COMMIT_COMMITTED_STEP % 2 ^ 32 ∧ OnlyWrites [R.FTL_COMMIT_DURABLE_STEP] s t ∧
      t.ftl.stale = [] ∧ t.ftl.undo = [] ∧ t.ftl.record = false ∧ t.ftl.unwritten = 0 ∧ t.ftl.cells = s.ftl.cells ∧ t.ftl.live = s.ftl.live ∧
      (s.ftl.commits < 256 → t.ftl.journal = s.ftl.journal ∧ t.ftl.snapshot = s.ftl.snapshot) ∧
      (256 ≤ s.ftl.commits → t.ftl.journal = [] ∧ t.ftl.snapshot = s.ftl.live ∧ t.ftl.commits = 0))) ∧
  (∀ s : State, s.ftl.record = false → exec .commitRecordDurable s = .next s) ∧
  (∀ s : State, s.rf R.FTL_STATUS_STATE = 3 → s.ftl.hostPend = [] →
    Runs .ftlRecovery s [.tierRegs, .ftlRegs, .free, .flash] (fun t =>
      (t.rf R.FTL_STATUS_STATE = 4 ∨ t.rf R.FTL_STATUS_STATE = 5) ∧ t.ftl.undo = [] ∧ t.ftl.stale = [] ∧ t.ftl.shadow = [] ∧
      t.ftl.shPlace = [] ∧ t.ftl.cells = (s.ftl.undo.foldl FlashSt.revert s.ftl.discard).cells ∧
      t.rf R.FTL_COMMIT_DURABLE_STEP = s.ftl.durable % 2 ^ 32 ∧ t.rf R.FTL_COMMIT_COMMITTED_STEP = s.ftl.durable % 2 ^ 32))

/-- R236, R342, R343, R344, R353, R354: where FW's slots serve the dies, a read of a die is answered by one RDR of its TAG with what lies there, marked and
BAD_ARG when it is refused; a write of a die in pages the chart gives its port is applied whole, one that does not own its pages is discarded whole with
NOT_OWNER, one whose pages cannot be written with BAD_ARG (R264), and its credits return. In plan time a read is answered when its slots have carried it, within the round under way, or waits for them in the
ingress buffer. That FW's slots serve a message at once is the model's choice of log entry 197. -/
def Obligations.DieReadWrite : Prop :=
  (∀ (p : Fin 4) (tag : Nat) (a : BitVec 64) (n : Nat) (s : State), s.portUp p.val = true → (s.port p.val).queue = [] → (s.port p.val).facks = [] →
    s.overCredit p.val 0 = false → tag < 4096 → n ≤ 4096 → crosses4k (a.toNat % 2 ^ 52) n = false → s.dieBound = false →
    Runs (.rd p tag a n) s [.tierRegs, .cdpRegs, .faultRegs, .logRegs, .sent, .free, .logRound, .fault, .ledgers, .tier] (fun t =>
      let oa := a.toNat % 2 ^ 52
      let g := s.readOA .die oa n
      (n = 0 → t.sent = s.sent ++ [.kpp p.val kRDR tag stOK [], .kpp p.val 0 1 0 []]) ∧
      (0 < n → g.refused = false → t.sent = s.sent ++ [.kpp p.val kRDR tag (rdrWord stOK oa) (portMarks oa g.data), .kpp p.val 0 1 0 []]) ∧
      (0 < n → g.refused = true → t.sent = s.sent ++
          [.kpp p.val kRDR tag (rdrWord stBAD_ARG oa) (g.data.map (fun b => (b.1, true))), .kpp p.val 0 1 0 []] ∧
        t.rf (R.CDP_ERR_READ_REFUSED p.val) = 1))) ∧
  (∀ (p : Fin 4) (tag : Nat) (a : BitVec 64) (n : Nat) (s : State), s.ports.length = 4 → s.portUp p.val = true → (s.port p.val).queue = [] →
    (s.port p.val).facks = [] → s.overCredit p.val 0 = false → tag < 4096 → 0 < n → n ≤ 4096 → crosses4k (a.toNat % 2 ^ 52) n = false →
    s.dieBound = true →
    Runs (.rd p tag a n) s [.stepRegs, .tierRegs, .cdpRegs, .faultRegs, .logRegs, .row, .sent, .free, .idleRuns, .logRound, .fault, .ledgers, .ports,
        .tier]
      (fun t =>
        let oa := a.toNat % 2 ^ 52
        let r : DieReq := ⟨0, tag, oa, n, 0, [], [], 0, false⟩
        let plan := s.slots.claim (s.port p.val).used s.planTick (s.dieLoad p.val r)
        (plan = none → t.sent = s.sent ∧ t.row = s.row ∧ (t.port p.val).queue = [{ r with due := s.slots.fin + 1 }]) ∧
        (∀ c, plan = some c → (s.paused = true ∨ (s.planTick / 32 + 1) * 32 ≤ c.2) →
          t.sent = s.sent ∧ t.row = s.row ∧ (t.port p.val).queue = [{ r with due := c.2 }]) ∧
        (∀ c, plan = some c → s.paused = false → c.2 < (s.planTick / 32 + 1) * 32 →
          let v := ((s.serveDue p.val).setPort p.val { s.port p.val with used := c.1 }).toTick c.2
          t.row = v.row ∧ ((v.readOA .die oa n).refused = false → t.sent = s.sent ++
            [.kpp p.val kRDR tag (rdrWord stOK oa) (portMarks oa (v.readOA .die oa n).data), .kpp p.val 0 1 0 []])))) ∧
  (∀ (p : Fin 4) (a : BitVec 64) (data : List Byte) (marks : List Bool) (s : State), s.portUp p.val = true → (s.port p.val).queue = [] →
    (s.port p.val).facks = [] → s.overCredit p.val (granuleCount (a.toNat % 2 ^ 52) data.length) = false → data.length ≤ 4096 →
    crosses4k (a.toNat % 2 ^ 52) data.length = false → marks.length ≤ granuleCount (a.toNat % 2 ^ 52) data.length → s.dieBound = false →
    Runs (.wrFromDie p a data marks) s [.stepRegs, .tierRegs, .ftlRegs, .cdpRegs, .faultRegs, .logRegs, .memory, .marks, .sent, .flagOut, .logRound,
        .fault, .ledgers, .tier, .host, .flash]
      (fun t =>
        let oa := a.toNat % 2 ^ 52
        let n := granuleCount oa data.length
        let u := ((s.countIn p.val n).markedIn p.val (marks.take n)).returnCr p.val 1 n 0
        let mine := (pageSpans oa data.length).any (fun sp => u.pageOwner sp.1 != 3 || u.pagePort sp.1 != some p.val)
        u.sent = s.sent ++ [.kpp p.val 0 1 n []] ∧
        (mine = false → u.dieRefusal oa data.length = none →
          let v := (u.writeOA .die 3 oa (withMarks oa data marks)).st
          t.mem = v.mem ∧ t.marks = v.marks ∧ t.ftl = v.ftl ∧ t.sent = v.sent) ∧
        (∀ why at_, mine = false → u.dieRefusal oa data.length = some (why, at_) → t.mem = s.mem ∧ t.marks = s.marks ∧ t.sent = u.sent ∧
          t.rf (R.CDP_ERR_WRITE_REFUSED p.val) = 1 ∧ t.rf (R.CDP_ERR_LAST_STATUS p.val) = stBAD_ARG ∧ t.rf R.TIER_ERR_LAST_STATUS = stBAD_ARG) ∧
        (mine = true → t.mem = s.mem ∧ t.marks = s.marks ∧ t.sent = u.sent ∧ t.rf (R.CDP_ERR_WRITE_REFUSED p.val) = 1 ∧
          t.rf (R.CDP_ERR_LAST_STATUS p.val) = stNOT_OWNER)))

/-- R308, R309, R345: an add-write of an accumulator whose sequence is past is discarded with BAD_ARG; one whose sequence is yet to come is held; one of
the sequence being applied is added. One at an address no accumulator takes is discarded. Accumulator bytes that are found uncorrectable as they are
read are marked (R413). All this where nothing waits in the
port's buffer and FW's slots serve the dies (R236, log entry 197). -/
def Obligations.AddWrites : Prop :=
  (∀ (p : Fin 4) (seq : Nat) (bad : List Nat) (a : BitVec 64) (fmt : Nat) (data : List Byte) (marks : List Bool) (s : State) (acc e : Nat),
    s.portUp p.val = true → (s.port p.val).queue = [] → (s.port p.val).facks = [] → s.overCredit p.val 0 = false → s.dieBound = false →
    data.length ≤ 4096 → fmt ≤ 1 → seq ≤ 65535 → (s.port p.val).lostAddw + s.heldGranules p.val + ceilDiv data.length 64 ≤ 4096 → data ≠ [] →
    a.toNat % 2 ^ 52 % 4 = 0 → data.length % (if fmt = 0 then 4 else 2) = 0 → s.accAt (a.toNat % 2 ^ 52) = some (acc, e) →
    e % 16384 + data.length / (if fmt = 0 then 4 else 2) ≤ (accDesc s.updProg acc).regElems (e / 16384) → seq < (accDesc s.updProg acc).nseq →
    Runs (.addw p ⟨seq, bad⟩ a fmt data marks) s [.stepRegs, .tierRegs, .ftlRegs, .cdpRegs, .faultRegs, .logRegs, .memory, .marks, .sent, .free, .flagOut,
        .logRound, .fault, .ledgers, .tier, .host, .flash, .update, .gauge]
      (fun t =>
        let g := ceilDiv data.length 64
        let m := s.markErrors bad (a.toNat % 2 ^ 52) ((fmt + 1) * data.length)
        let u := ((m.countIn p.val g).markedIn p.val (marks.take g)).returnCr p.val 1 0 0
        let h : HeldAdd := ⟨p.val, seq, acc, e / 16384, e % 16384, data.length, addOperands fmt data marks, false⟩
        let v := if h.vals.any (fun x => !isFin32 x.1) then u.raiseFlag 1 else u
        let n := s.regCount acc (e / 16384)
        (seq < n → t.mem = s.mem ∧ t.upd = s.upd ∧ t.rf (R.CDP_ERR_WRITE_REFUSED p.val) = 1 ∧ t.rf (R.CDP_ERR_LAST_STATUS p.val) = stBAD_ARG) ∧
        (n < seq → t.mem = s.mem ∧ t.upd = { s.upd with heldAdds := s.upd.heldAdds ++ [h] } ∧ t.led.addIn = s.led.addIn + 1 ∧
          t.sent = s.sent ++ [.kpp p.val 0 1 0 []]) ∧
        (n = seq → t.mem = ((v.applyAdd h).applyHeld (u.upd.heldAdds.length + 1)).mem ∧
          t.upd = ((v.applyAdd h).applyHeld (u.upd.heldAdds.length + 1)).upd))) ∧
  (∀ (p : Fin 4) (seq : Nat) (bad : List Nat) (a : BitVec 64) (fmt : Nat) (data : List Byte) (marks : List Bool) (s : State),
    s.portUp p.val = true → (s.port p.val).queue = [] → (s.port p.val).facks = [] → s.overCredit p.val 0 = false → s.dieBound = false →
    data.length ≤ 4096 → fmt ≤ 1 → seq ≤ 65535 → (s.port p.val).lostAddw + s.heldGranules p.val + ceilDiv data.length 64 ≤ 4096 → data ≠ [] →
    s.accAt (a.toNat % 2 ^ 52) = none →
    Runs (.addw p ⟨seq, bad⟩ a fmt data marks) s [.stepRegs, .cdpRegs, .faultRegs, .logRegs, .marks, .sent, .flagOut, .logRound, .ledgers] (fun t =>
      (bad = [] → t.marks = s.marks) ∧ t.rf (R.CDP_ERR_WRITE_REFUSED p.val) = 1 ∧ t.rf (R.CDP_ERR_LAST_STATUS p.val) = stBAD_ARG))

/-- R247, R346, R347, R348, R377: PACE counts for the context of the running set that binds its line, and is discarded where none does; between steps and
swatches it is held for the set restored next. SIG registers one arrival of its port; FENCE is answered by a FACK of its TAG, where nothing waits before it
and FW's slots serve the dies (log entry 197); a FACK confirms the stream it names, or makes it FAR_FAULT, where the stream needs no slots for it. -/
def Obligations.DieSync : Prop :=
  (∀ (p : Fin 4) (line k : Nat) (s : State), s.ports.length = 4 → s.portUp p.val = true → line < 16384 → 0 < k → k ≤ 65535 →
    SMap.get (fun _ => 0) (s.port p.val).pace line + k ≤ s.rf (R.CDP_CREDIT_PACE_CREDITS p.val) → (s.inStep = true ∨ s.phase = phSWATCH) →
    s.phase ≠ phBOUNDARY →
    Runs (.pace p line k) s [.streamRegs, .cdpRegs, .faultRegs, .logRegs, .sent, .paceBad, .logRound, .ledgers, .ports] (fun t =>
      t.tookOf (poolPace p.val line) = s.tookOf (poolPace p.val line) + k ∧
      (∀ n, s.boundIn s.runSet (p.val * 16384 + line) = some n → (s.sst n = ssARMED ∨ s.sst n = ssRUN ∨ s.sst n = ssWAIT) →
        t.rf (R.STREAM_RUN_PACE_RECV n) = (s.rf (R.STREAM_RUN_PACE_RECV n) + k) % 2 ^ 16 ∧ t.paceBad = s.paceBad) ∧
      (s.boundIn s.runSet (p.val * 16384 + line) = none → t.paceBad.contains (p.val * 16384 + line) = true ∧
        t.gaveOf (poolPace p.val line) = s.gaveOf (poolPace p.val line) + k))) ∧
  (∀ (p : Fin 4) (line k n : Nat) (s : State), s.ports.length = 4 → s.portUp p.val = true → line < 16384 → 0 < k → k ≤ 65535 →
    SMap.get (fun _ => 0) (s.port p.val).pace line + k ≤ s.rf (R.CDP_CREDIT_PACE_CREDITS p.val) → s.inStep = false → s.phase ≠ phSWATCH →
    s.boundIn s.nextSet (p.val * 16384 + line) = some n →
    Runs (.pace p line k) s [.ledgers, .ports] (fun t =>
      SMap.get (fun _ => 0) (t.port p.val).held line = SMap.get (fun _ => 0) (s.port p.val).held line + k ∧
      SMap.get (fun _ => 0) (t.port p.val).pace line = SMap.get (fun _ => 0) (s.port p.val).pace line + k)) ∧
  (∀ (p : Fin 4) (id : Nat) (s : State), s.portUp p.val = true → (s.port p.val).queue = [] → (s.port p.val).facks = [] →
    s.overCredit p.val 0 = false → id < 4096 →
    Runs (.sigFromDie p id) s [.tierRegs, .faultRegs, .logRegs, .sent, .logRound, .ledgers, .tier, .barriers, .host] (fun t =>
      let n := SMap.get (fun _ => 0) s.bar.portArr (p.val * 4096 + id) + 1
      SMap.get (fun _ => 0) t.bar.portArr (p.val * 4096 + id) = n ∧ t.barCount id n = s.barCount id n + 1 ∧
      t.sent.getLast? = some (.kpp p.val 0 1 0 []))) ∧
  (∀ (p : Fin 4) (tag : Nat) (s : State), s.portUp p.val = true → (s.port p.val).queue = [] → (s.port p.val).facks = [] →
    s.overCredit p.val 0 = false → tag < 65536 → s.dieBound = false →
    Runs (.fenceFromDie p tag) s [.sent, .ledgers] (fun t => t.sent = s.sent ++ [.kpp p.val kFACK tag stOK [], .kpp p.val 0 1 0 []])) ∧
  (∀ (p : Fin 4) (tag st : Nat) (s : State), s.ports.length = 4 → s.portUp p.val = true → (s.port p.val).fences.contains tag = true →
    s.slotBound tag = false →
    Runs (.fackFromDie p tag st) s [.stepRegs, .streamRegs, .hqRegs, .flagOut, .ports, .streams, .host] (fun t =>
      ((s.str tag).host = false → t.host = s.host) ∧
      t.port p.val = { s.port p.val with fences := (s.port p.val).fences.erase tag } ∧
      t.str tag = { s.str tag with confirm := (s.str tag).confirm.filter (fun y => y != 100 + p.val) } ∧
      ((st = stOK ∨ (s.str tag).confirm.contains (100 + p.val) = false) → OnlyWrites [] s t) ∧
      (st ≠ stOK → (s.str tag).confirm.contains (100 + p.val) = true →
        statusRank stFAR_FAULT ≤ statusRank (t.rf (R.STREAM_RUN_STATUS tag)))))

/-- R336, R339, R350, R356, R358: credits that a die returns can be spent, and a stopping stream that waited for them may end; when the link of an enabled port comes up KN40 sends its HELLO, at once or at the end
of the 2,048 ticks after a reset; a link trained under SLOW comes up at 32 GT/s at most, where the port is not UP. The die's HELLO with the grants R356
asks for brings the port UP once KN40's has gone, with the pace credits that KN40's granted, any other sets HELLO_FAIL. -/
def Obligations.PortBringUp : Prop :=
  (∀ (p : Fin 4) (h d a : Nat) (s : State), s.ports.length = 4 → s.portUp p.val = true → h ≤ 65535 → d ≤ 65535 → a ≤ 65535 →
    Runs (.creditReturn p h d a) s [.stepRegs, .streamRegs, .hqRegs, .tierRegs, .ftlRegs, .cdpRegs, .faultRegs, .logRegs, .memory, .marks, .sent,
        .flagOut, .logRound, .fault, .ledgers, .ports, .tier, .streams, .host, .flash, .clusters] (fun t =>
      (∀ n ∈ s.usedCtx, s.sst n ≠ ssSTOPPING) → OnlyChanges [.ledgers, .ports] s t ∧ t.port p.val = { s.port p.val with hdr := (s.port p.val).hdr + h, data := (s.port p.val).data + d })) ∧
  (∀ (p : Fin 4) (rate modules : Nat) (s : State), s.ports.length = 4 → 2 ≤ s.rf R.PWR_STATE_STATE → s.rf (R.CDP_CTRL_ENABLE p.val) ≠ 0 →
    (s.port p.val).link = false →
    Runs (.ucieLinkUp p rate modules) s [.cdpRegs, .sent, .ports] (fun t =>
      t.rf (R.CDP_STATUS_RATE p.val) = (if (s.port p.val).slow then min rate 0x20 else rate) % 2 ^ 8 ∧ t.rf (R.CDP_STATUS_MODULES p.val) = min modules 9 ∧ (t.port p.val).link = true ∧
      ((s.port p.val).helloAt.isSome = true → t.sent = s.sent ∧ t.rf (R.CDP_STATUS_STATE p.val) = s.rf (R.CDP_STATUS_STATE p.val)) ∧
      ((s.port p.val).helloAt = none → (t.port p.val).sent = true ∧ t.sent.length = s.sent.length + 1 ∧
        ((s.port p.val).got = false → t.rf (R.CDP_STATUS_STATE p.val) = 2)))) ∧
  (∀ (p : Fin 4) (e : Nat) (s : State), s.ports.length = 4 → (s.port p.val).helloAt = some e →
    Runs (.portHelloTimer p) s [.stepRegs, .cdpRegs, .row, .sent, .idleRuns, .ports] (fun t =>
      t.row = max s.row e ∧ (t.port p.val).helloAt = none ∧ (t.port p.val).sent = ((s.port p.val).link || (s.port p.val).sent) ∧
      ((s.port p.val).link = false → t.sent = s.sent) ∧ ((s.port p.val).link = true → t.sent.length = s.sent.length + 1))) ∧
  (∀ (p : Fin 4) (role ed ch cd ca pc : Nat) (id : BitVec 64) (s : State), s.ports.length = 4 → (s.port p.val).link = true →
    s.rf (R.CDP_STATUS_STATE p.val) ≠ 3 → s.rf (R.CDP_STATUS_STATE p.val) ≠ 5 →
    Runs (.hello p role ed ch cd ca pc id) s [.cdpRegs, .ports] (fun t =>
      t.rf (R.CDP_PEER_ID_DIE_ID p.val) = id.toNat ∧
      (role = 1 → 1 ≤ ed → 64 ≤ ch → 2048 ≤ cd → t.rf (R.CDP_CREDIT_PEER_HDR p.val) = ch % 2 ^ 16 ∧
        t.rf (R.CDP_CREDIT_PEER_DATA p.val) = cd % 2 ^ 16 ∧ (t.port p.val).got = true ∧
        ((s.port p.val).sent = true → s.rf (R.CDP_STATUS_RATE p.val) = 0x40 → 8 ≤ s.rf (R.CDP_STATUS_MODULES p.val) →
          t.rf (R.CDP_STATUS_STATE p.val) = 3 ∧ t.rf (R.CDP_CREDIT_PACE_CREDITS p.val) = (s.port p.val).grant % 2 ^ 10) ∧
        ((s.port p.val).sent = false → t.rf (R.CDP_STATUS_STATE p.val) = s.rf (R.CDP_STATUS_STATE p.val))) ∧
      (¬(role = 1 ∧ 1 ≤ ed ∧ 64 ≤ ch ∧ 2048 ≤ cd) → t.rf (R.CDP_ERR_HELLO_FAIL p.val) = 1 ∧ t.ports = s.ports)))

/-- R357, R358, R360, R361: a reset of a port by its link, by the link going down or by the host leaves the port RESETTING, its cause logged, its credits,
pace counts and fences gone, what it holds of whole messages without credits from then, and its HELLO due 2,048 ticks on; the link of one that retrains
is not up again until that is done; ENABLE starts training, and taking it away takes the port down. -/
def Obligations.PortResets : Prop :=
  (∀ (p : Fin 4) (s : State), s.ports.length = 4 → (s.port p.val).link = true →
    Runs (.linkControlReset p) s [.pwrRegs, .stepRegs, .streamRegs, .hqRegs, .tierRegs, .ftlRegs, .cluRegs, .skeinRegs, .cdpRegs, .faultRegs, .logRegs,
        .memory, .marks, .sent, .flagOut, .logRound, .fault, .ledgers, .ports, .power, .tier, .streams, .host, .flash, .update, .clusters]
      (fun t => t.rf (R.CDP_STATUS_STATE p.val) = 4 ∧ t.rf (R.CDP_RESET_LOG_CAUSE p.val) = 1 ∧ t.rf (R.CDP_RESET_LOG_AT p.val) = s.row % 2 ^ 32 ∧
        (t.port p.val).hdr = 0 ∧ (t.port p.val).data = 0 ∧ (t.port p.val).fences = [] ∧ (t.port p.val).pace = [] ∧
        (t.port p.val).helloAt = some (s.row + 2048) ∧ (t.port p.val).link = !s.retraining p.val ∧
        (∀ r ∈ (t.port p.val).queue, r.stale = true) ∧ (∀ h ∈ t.upd.heldAdds, h.port = p.val → h.stale = true))) ∧
  (∀ (p : Fin 4) (s : State), s.ports.length = 4 → (s.port p.val).link = true → s.rf (R.CDP_STATUS_STATE p.val) ≠ 5 →
    Runs (.ucieLinkDown p) s [.pwrRegs, .stepRegs, .streamRegs, .hqRegs, .tierRegs, .ftlRegs, .cluRegs, .skeinRegs, .cdpRegs, .faultRegs, .logRegs,
        .memory, .marks, .sent, .flagOut, .logRound, .fault, .ledgers, .ports, .power, .tier, .streams, .host, .flash, .update, .clusters]
      (fun t => t.rf (R.CDP_STATUS_STATE p.val) = 4 ∧ t.rf (R.CDP_STATUS_RATE p.val) = 0 ∧ t.rf (R.CDP_STATUS_MODULES p.val) = 0 ∧
        t.rf (R.CDP_RESET_LOG_CAUSE p.val) = 2 ∧ (t.port p.val).link = false ∧ (t.port p.val).helloAt = some (s.row + 2048))) ∧
  (∀ (p : Fin 4) (v : BitVec 64) (s : State), s.ports.length = 4 → s.reach .host = true → 2 ≤ s.rf R.PWR_STATE_STATE →
    s.rf (R.CDP_CTRL_ENABLE p.val) = 1 → v.getLsbD 0 = true →
    Runs (.cdpReset .host p v) s [.pwrRegs, .stepRegs, .streamRegs, .hqRegs, .tierRegs, .ftlRegs, .cluRegs, .skeinRegs, .cdpRegs, .faultRegs, .logRegs,
        .memory, .marks, .sent, .flagOut, .logRound, .fault, .ledgers, .ports, .power, .tier, .streams, .host, .flash, .update, .clusters]
      (fun t => t.rf (R.CDP_STATUS_STATE p.val) = 4 ∧ t.rf (R.CDP_RESET_LOG_CAUSE p.val) = 3 ∧ (t.port p.val).hdr = 0 ∧
        (t.port p.val).helloAt = some (s.row + 2048))) ∧
  (∀ (p : Fin 4) (v : BitVec 64) (s : State), s.ports.length = 4 → s.reach .host = true → 2 ≤ s.rf R.PWR_STATE_STATE →
    Runs (.cdpEnable .host p v) s [.pwrRegs, .stepRegs, .streamRegs, .hqRegs, .tierRegs, .ftlRegs, .cluRegs, .skeinRegs, .cdpRegs, .faultRegs, .logRegs,
        .memory, .marks, .sent, .flagOut, .logRound, .fault, .ledgers, .ports, .power, .tier, .streams, .host, .flash, .update, .clusters]
      (fun t => (s.rf (R.CDP_CTRL_ENABLE p.val) = 0 → v.getLsbD 0 = true → t.rf (R.CDP_STATUS_STATE p.val) = 1) ∧
        (s.rf (R.CDP_CTRL_ENABLE p.val) = 1 → v.getLsbD 0 = false → t.rf (R.CDP_STATUS_STATE p.val) = 0 ∧ (t.port p.val).link = false ∧
          (t.port p.val).helloAt = none)))

/-- R337, R360, R413, R417: a failed module in service with a spare is replaced: the new map goes to the die in two messages and a port that is UP
retrains, to be UP again when that is done, with its counts kept and what it owed the die meanwhile sent, which may end a stopping stream that waited for
it; a port that was reset meanwhile has its link up again with that, and sends its HELLO. With no spare left the port is FAILED. UNIT_FAULT of a module does the same. -/
def Obligations.Modules : Prop :=
  (∀ (p : Fin 4) (k : Fin 9) (s : State), s.pwr.off = false → 2 ≤ s.rf R.PWR_STATE_STATE → s.serves (0x5000 + 9 * p.val + k.val) = true →
    Runs (.moduleFail p k) s [.pwrRegs, .stepRegs, .streamRegs, .hqRegs, .tierRegs, .ftlRegs, .cluRegs, .skeinRegs, .cdpRegs, .faultRegs, .logRegs,
        .memory, .marks, .sent, .flagOut, .logRound, .fault, .ledgers, .ports, .power, .tier, .streams, .host, .flash, .update, .clusters]
      (fun t =>
        ((s.spareFor (0x5000 + 9 * p.val + k.val)).isSome = true → t.rf (R.CDP_ERR_MODULE_SPARED p.val) = 1 ∧
          t.sent = s.sent ++ [.kpp p.val kMODMAP 0 (t.rf (R.CDP_MODMAP_PHYS p.val) % 65536) [],
            .kpp p.val kMODMAP 1 (t.rf (R.CDP_MODMAP_PHYS p.val) / 65536) []] ∧
          (s.portUp p.val = true → t.rf (R.CDP_STATUS_STATE p.val) = 5 ∧ t.rf (R.CDP_STATUS_EDITION p.val) = 0)) ∧
        ((s.spareFor (0x5000 + 9 * p.val + k.val)).isSome = false → t.rf (R.CDP_STATUS_STATE p.val) = 6 ∧
          t.rf (R.CDP_RESET_LOG_CAUSE p.val) = 2))) ∧
  (∀ (p : Fin 4) (s : State), s.ports.length = 4 → s.rf (R.CDP_STATUS_STATE p.val) = 5 →
    Runs (.moduleRetrainDone p) s [.stepRegs, .streamRegs, .hqRegs, .tierRegs, .ftlRegs, .cdpRegs, .faultRegs, .logRegs, .memory, .marks, .sent,
        .free, .flagOut, .logRound, .fault, .ledgers, .ports, .tier, .streams, .barriers, .host, .flash, .update, .clusters, .gauge] (fun t =>
      t.rf (R.CDP_STATUS_STATE p.val) = 3 ∧ t.rf (R.CDP_STATUS_EDITION p.val) = 1 ∧
      ((∀ n ∈ s.usedCtx, s.sst n ≠ ssSTOPPING) → (s.port p.val).queue = [] → (s.port p.val).facks = [] →
        let x := s.port p.val
        OnlyChanges [.cdpRegs, .sent, .ledgers, .ports] s t ∧ OnlyWrites [R.CDP_STATUS_STATE p.val, R.CDP_STATUS_EDITION p.val] s t ∧
        t.port p.val = { x with retrain := false, retHdr := 0, retData := 0, retAddw := 0, paceRet := [] } ∧
        t.sent = s.sent ++ (if x.retHdr = 0 ∧ x.retData = 0 ∧ x.retAddw = 0 then [] else
          [.kpp p.val 0 x.retHdr (x.retData + 65536 * x.retAddw) []]) ++ x.paceRet.map (fun e => .kpp p.val kPCRED e.1 e.2 [])))) ∧
  (∀ (p : Fin 4) (s : State), s.ports.length = 4 → s.rf (R.CDP_STATUS_STATE p.val) ≠ 5 → (s.port p.val).retrain = true →
    Runs (.moduleRetrainDone p) s [.cdpRegs, .sent, .ports] (fun t => (t.port p.val).link = true ∧ (t.port p.val).retrain = false ∧
      ((s.port p.val).helloAt.isSome = true → t.sent = s.sent ∧ OnlyChanges [.ports] s t) ∧
      ((s.port p.val).helloAt = none → (t.port p.val).sent = true ∧ t.sent.length = s.sent.length + 1)))

/-- R367, R371, R383: a doorbell within the ring sets the tail and has the new entry read, one beyond it is refused; a write of CQ_HEAD frees entries;
enabling a queue zeroes its indices, its sizes in range, and disabling it abandons its commands. -/
def Obligations.QueueControl : Prop :=
  (∀ (q : Fin 64) (v : BitVec 64) (s : State), s.reach .host = true → s.queueOwner q.val = 1 →
    Runs (.sqDoorbell .host q v) s [.streamRegs, .hqRegs, .faultRegs, .logRegs, .sent, .logRound, .ledgers, .streams, .host] (fun t =>
      let tail := bitsOf v.toNat 0 16
      let i := s.host.fetched.getD q.val 0
      (s.sqSize q.val ≤ tail → t.rf (R.HQ_SQ_TAIL_TAIL q.val) = s.rf (R.HQ_SQ_TAIL_TAIL q.val) ∧ t.sent = s.sent ∧
        t.rf (R.HQ_Q_STATUS_LAST_STATUS q.val) = stBAD_ARG ∧ t.rf R.HQ_ERR_QUEUE = 1) ∧
      (tail < s.sqSize q.val → t.rf (R.HQ_SQ_TAIL_TAIL q.val) = tail ∧
        ((s.rf (R.HQ_Q_CTRL_ENABLE q.val) = 0 ∨ s.rf R.HQ_LINK_BME = 0 ∨ i = tail) → t.sent = s.sent ∧ t.host = s.host) ∧
        (s.rf (R.HQ_Q_CTRL_ENABLE q.val) = 1 → s.rf R.HQ_LINK_BME = 1 → i ≠ tail → (i + 1) % s.sqSize q.val = tail →
          s.host.fetched.length = 64 →
          t.sent = s.sent ++ [.busRead 16385 q.val (s.rf (R.HQ_SQ_BASE_ADDR q.val) * 4096 + 256 * i) 256] ∧
          t.host.fetched = s.host.fetched.set q.val tail)))) ∧
  (∀ (q : Fin 64) (v : BitVec 64) (s : State), s.reach .host = true → s.queueOwner q.val = 1 →
    Runs (.cqHeadWrite .host q v) s [.streamRegs, .hqRegs, .faultRegs, .logRegs, .sent, .logRound, .ledgers, .streams, .host] (fun t =>
      t.rf (R.HQ_CQ_HEAD_HEAD q.val) = bitsOf v.toNat 0 16 ∧
      ((∀ c ∈ s.host.waiting, c.q ≠ q.val) → t.sent = s.sent ∧ t.host = s.host))) ∧
  (∀ (q : Fin 64) (v : BitVec 64) (s : State), s.reach .host = true → s.queueOwner q.val = 1 → s.rf (R.HQ_Q_CTRL_ENABLE q.val) = 0 →
    Runs (.queueEnable .host q v) s [.streamRegs, .hqRegs, .faultRegs, .logRegs, .sent, .logRound, .ledgers, .streams, .host] (fun t =>
      let a := bitsOf v.toNat 12 4
      let b := bitsOf v.toNat 8 4
      ((1 ≤ a ∧ a ≤ 12 ∧ 1 ≤ b ∧ b ≤ 12) → t.rf (R.HQ_Q_CTRL_ENABLE q.val) = 1 ∧ t.rf (R.HQ_Q_STATUS_SQ_HEAD q.val) = 0 ∧
        t.rf (R.HQ_Q_STATUS_CQ_TAIL q.val) = 0 ∧ t.rf (R.HQ_SQ_TAIL_TAIL q.val) = 0 ∧ t.rf (R.HQ_CQ_HEAD_HEAD q.val) = 0 ∧
        t.host.phases = s.host.phases.set q.val 1 ∧ (∀ c ∈ t.host.taken, c.q ≠ q.val)) ∧
      (¬(1 ≤ a ∧ a ≤ 12 ∧ 1 ≤ b ∧ b ≤ 12) → t.rf (R.HQ_Q_CTRL_ENABLE q.val) = 0 ∧ t.rf (R.HQ_Q_STATUS_LAST_STATUS q.val) = stBAD_ARG ∧
        t.host = s.host))) ∧
  (∀ (q : Fin 64) (v : BitVec 64) (s : State), s.reach .host = true → s.queueOwner q.val = 1 → s.rf (R.HQ_Q_CTRL_ENABLE q.val) = 1 →
    bitsOf v.toNat 12 4 = s.rf (R.HQ_Q_CTRL_SQ_LOG2 q.val) → bitsOf v.toNat 8 4 = s.rf (R.HQ_Q_CTRL_CQ_LOG2 q.val) →
    1 ≤ s.rf (R.HQ_Q_CTRL_SQ_LOG2 q.val) → s.rf (R.HQ_Q_CTRL_SQ_LOG2 q.val) ≤ 12 → 1 ≤ s.rf (R.HQ_Q_CTRL_CQ_LOG2 q.val) →
    s.rf (R.HQ_Q_CTRL_CQ_LOG2 q.val) ≤ 12 →
    Runs (.queueDisable .host q v) s [.streamRegs, .hqRegs, .faultRegs, .logRegs, .sent, .logRound, .ledgers, .streams, .host] (fun t =>
      t.rf (R.HQ_Q_CTRL_ENABLE q.val) = 0 ∧ (∀ c ∈ t.host.taken, c.q ≠ q.val) ∧ (∀ c ∈ t.host.waiting, c.q ≠ q.val) ∧ t.sent = s.sent))

/-- R367, R368, R370, R371: a fetched command is taken at the head of its queue, in the queue's turn. With no earlier command of the queue outstanding its completion is written with
its status and the tail moves on: a NOP OK or, malformed, BAD_ARG; a reserved opcode BAD_ARG; a FENCE OK; a WRITE once its bytes lie in memory, which in plan time HOST slots carry there (R243). -/
def Obligations.QueueCommands : Prop :=
  ∀ (q : Fin 64) (e : List Byte) (s : State), s.linkUp = true → s.nextQueue = some q.val → (∀ c ∈ s.host.taken, c.q ≠ q.val) → (∀ c ∈ s.host.waiting, c.q ≠ q.val) →
    (∀ i st, (i = .cmdNop q e ∧ fieldLe e 0 1 = 0 ∧ st = (if cmdHeaderOk e && allZero e 0x10 48 then stOK else stBAD_ARG)) ∨
        (i = .cmdReserved q e ∧ 5 ≤ fieldLe e 0 1 ∧ st = stBAD_ARG) ∨
        (i = .cmdFence q e ∧ fieldLe e 0 1 = 4 ∧ st = (if cmdHeaderOk e && allZero e 0x10 48 then stOK else stBAD_ARG)) →
      Runs i s [.hqRegs, .sent, .host] (fun t =>
        t.rf (R.HQ_Q_STATUS_SQ_HEAD q.val) = (s.rf (R.HQ_Q_STATUS_SQ_HEAD q.val) + 1) % s.sqSize q.val % 2 ^ 16 ∧
        t.rf (R.HQ_Q_STATUS_LAST_STATUS q.val) = st ∧
        t.rf (R.HQ_Q_STATUS_CQ_TAIL q.val) = (s.rf (R.HQ_Q_STATUS_CQ_TAIL q.val) + 1) % s.cqSize q.val % 2 ^ 16 ∧
        t.host.taken = s.host.taken ∧ t.host.waiting = s.host.waiting)) ∧
    (fieldLe e 0 1 = 3 →
      Runs (.cmdWrite q e) s [.stepRegs, .hqRegs, .tierRegs, .ftlRegs, .faultRegs, .logRegs, .row, .memory, .marks, .sent, .flagOut, .idleRuns,
          .logRound, .fault, .ledgers, .tier, .host, .flash]
        (fun t =>
          let next := (s.rf (R.HQ_Q_STATUS_SQ_HEAD q.val) + 1) % s.sqSize q.val
          let u : State := { s.set (R.HQ_Q_STATUS_SQ_HEAD q.val) next with
            host := { s.host with taken := s.host.taken ++ [⟨q.val, 3, fieldLe e 2 2, fieldLe e 4 2, next⟩], turn := q.val + 1 } }
          let g := (u.hostCarried (u.oaLoad (fieldLe e 0x10 8) (fieldLe e 8 1) true)).writeOA .hostStream 1 (fieldLe e 0x10 8)
            (clean (sliceB e 0x40 (fieldLe e 8 1)))
          t.rf (R.HQ_Q_STATUS_SQ_HEAD q.val) = next % 2 ^ 16 ∧
          ((cmdHeaderOk e && fieldLe e 0x10 8 / 2 ^ 52 == 0 && allZero e 0x18 40) = true → t.mem = g.st.mem ∧ t.row = g.st.row ∧
            t.rf (R.HQ_Q_STATUS_LAST_STATUS q.val) = (if g.refused then g.st.rf R.TIER_ERR_LAST_STATUS else stOK) % 2 ^ 8) ∧
          ((cmdHeaderOk e && fieldLe e 0x10 8 / 2 ^ 52 == 0 && allZero e 0x18 40) = false → t.mem = s.mem ∧
            t.rf (R.HQ_Q_STATUS_LAST_STATUS q.val) = stBAD_ARG)))

/-- R224, R369, R370, R443: an ABORT of a running host stream that is not sealing stops it; of any other context of the host it is BAD_ARG. An OPEN that
passes its checks binds its context and starts the stream where the mover group is awake, else ARMs it for 2,000 ticks, after which it starts. -/
def Obligations.HostStreams : Prop :=
  (∀ (q : Fin 64) (e : List Byte) (s : State), s.linkUp = true → s.nextQueue = some q.val → (∀ c ∈ s.host.taken, c.q ≠ q.val) → (∀ c ∈ s.host.waiting, c.q ≠ q.val) →
    fieldLe e 0 1 = 2 → cmdHeaderOk e = true → allZero e 0x10 48 = true → s.ctxOwner (fieldLe e 4 2) = 1 →
    Runs (.cmdAbort q e) s [.stepRegs, .streamRegs, .hqRegs, .tierRegs, .ftlRegs, .cdpRegs, .faultRegs, .logRegs, .memory, .marks, .sent, .flagOut,
        .logRound, .fault, .ledgers, .ports, .tier, .streams, .host, .flash, .clusters]
      (fun t =>
        let n := fieldLe e 4 2
        ((s.str n).host = true → (s.sst n = ssRUN ∨ s.sst n = ssWAIT) → s.sealing n = false → t.sst n = ssSTOPPING ∨ t.sst n = ssENDED) ∧
        ((s.str n).host = false → t.rf (R.HQ_Q_STATUS_LAST_STATUS q.val) = stBAD_ARG ∧ t.strs = s.strs ∧ t.sst n = s.sst n))) ∧
  (∀ (q : Fin 64) (e : List Byte) (s : State), s.linkUp = true → s.nextQueue = some q.val → fieldLe e 0 1 = 1 →
    Runs (.cmdOpen q e) s [.pwrRegs, .streamRegs, .hqRegs, .cluRegs, .sent, .stash, .ledgers, .power, .streams, .host] (fun t =>
      let n := fieldLe e 4 2
      let next := (s.rf (R.HQ_Q_STATUS_SQ_HEAD q.val) + 1) % s.sqSize q.val
      let u : State := { s.set (R.HQ_Q_STATUS_SQ_HEAD q.val) next with
        host := { s.host with taken := s.host.taken ++ [⟨q.val, 1, fieldLe e 2 2, n, next⟩], turn := q.val + 1 } }
      let prog := u.openProg e
      let list := u.openList e
      let b := u.bindHost n e prog list
      (u.openStatus e prog list ≠ stOK → t.strs = s.strs ∧ t.sst n = s.sst n) ∧
      (u.openStatus e prog list = stOK → (t.str n).host = true ∧ (t.str n).prog = prog ∧ (t.str n).list = list ∧
        (b.pwr.awake.contains (0x7000 + b.groupOf n) = true → t.sst n = (if prog.isEmpty then ssENDED else ssRUN)) ∧
        (b.pwr.awake.contains (0x7000 + b.groupOf n) = false → t.sst n = ssARMED ∧ (t.str n).startAt = s.row + 2000 ∧
          t.pwr.waking = NSet.ins (0x7000 + b.groupOf n) s.pwr.waking)))) ∧
  (∀ (n : Fin 16384) (s : State), (s.str n.val).host = true → s.sst n.val = ssARMED → 2 ≤ s.rf R.PWR_STATE_STATE →
    Runs (.hostStreamStart n) s [.pwrRegs, .stepRegs, .streamRegs, .hqRegs, .cluRegs, .row, .sent, .idleRuns, .stash, .ledgers, .power, .streams,
        .host]
      (fun t => t.row = max s.row (s.str n.val).startAt ∧ t.sst n.val = (if (s.str n.val).prog.isEmpty then ssENDED else ssRUN) ∧
        t.pwr.awake = NSet.ins (0x7000 + s.groupOf n.val) s.pwr.awake))

/-- R243, R362, R364, R366, R375, R376: a host request beyond its window, or with a translated address, is unsupported. In plan time HOST slots carry a
request: it is served when they have, within the round under way, or waits for them; elsewhere it is served at once. A read is answered with what lies there, or with poisoned zero bytes and
HQ_ERR.REFUSED where R264 refuses it; a write reaches the pages that accept it; an atomic answers the old value and leaves the new one. -/
def Obligations.HostRequests : Prop :=
  (∀ (w : Bool) (off len : Nat) (data : List Byte) (p tr : Bool) (s : State), s.linkUp = true →
    Runs (.bar2Request ⟨w, tr⟩ off len data p) s [.stepRegs, .hqRegs, .tierRegs, .ftlRegs, .faultRegs, .logRegs, .row, .memory, .marks, .sent, .free,
        .flagOut, .idleRuns, .logRound, .fault, .ledgers, .tier, .host, .flash]
      (fun t =>
        let n := if w then data.length else len
        let oa := windowOA (s.rf R.HQ_WINDOW_BASE) off
        let r : PeerReq := if w then ⟨1, oa, data.length, data, p, 0, 0, 0, none⟩ else ⟨0, oa, len, [], false, 0, 0, 0, none⟩
        let c := s.claimHost s.host.reqUsed (s.hostReqLoad r)
        ((tr = true ∨ 2 ^ 28 < off + n) → t.sent = s.sent ++ [.unsupported] ∧ t.mem = s.mem ∧ t.row = s.row) ∧
        (tr = false → off + n ≤ 2 ^ 28 → s.host.reqs = [] → s.slotTime = true → (s.planTick / 32 + 1) * 32 ≤ c.2 →
          t.host = { s.host with reqUsed := c.1, reqs := [{ r with due := some c.2 }] } ∧ t.mem = s.mem ∧ t.sent = s.sent ∧ t.row = s.row) ∧
        (∀ u : State, tr = false → off + n ≤ 2 ^ 28 → s.host.reqs = [] →
          (s.slotTime = false ∧ u = s) ∨ (s.slotTime = true ∧ c.2 < (s.planTick / 32 + 1) * 32 ∧ u = s.toTick c.2) →
          t.row = u.row ∧ t.host.reqs = [] ∧
          (w = true → t.mem = ((u.notePoison p).writeOA .hostReq 1 oa (data.map (fun b => (b, p)))).st.mem) ∧
          (w = false → t.mem = s.mem ∧
            ((u.readOA .hostReq oa len).refused = false → t.sent.getLast? = some (.answer (u.readOA .hostReq oa len).data)) ∧
            ((u.readOA .hostReq oa len).refused = true → t.sent.getLast? = some (.answer (List.replicate len (0, true))) ∧
              t.rf R.HQ_ERR_REFUSED = 1))))) ∧
  (∀ (bar : Nat) (off : BitVec 64) (op size : Nat) (x c : BitVec 64) (tr : Bool) (s : State), s.linkUp = true →
    Runs (.barAtomic bar off ⟨op, tr⟩ size x c) s [.stepRegs, .hqRegs, .tierRegs, .ftlRegs, .faultRegs, .logRegs, .row, .memory, .marks, .sent, .free,
        .flagOut, .idleRuns, .logRound, .fault, .ledgers, .tier, .host, .flash]
      (fun t =>
        let ok := tr = false ∧ (size = 4 ∨ size = 8) ∧ op ≤ 2 ∧ ¬(op = 2 ∧ size = 4) ∧ (bar = 2 ∨ bar = 4)
        let oa := windowOA (s.rf R.HQ_WINDOW_BASE) off.toNat
        let g := s.readOA .hostReq oa size
        let y := g.st.writeOA .hostReq 1 oa (clean (natLe size (atomicNew op size (leNat (g.data.map (·.1))) x.toNat c.toNat)))
        (¬ok → t.sent = s.sent ++ [.unsupported] ∧ t.mem = s.mem) ∧
        (ok → off.toNat % size ≠ 0 → t.sent = s.sent ++ [.completerAbort] ∧ t.mem = s.mem) ∧
        (ok → off.toNat % size = 0 → bar = 2 → off.toNat < 2 ^ 28 → s.slotTime = false → s.host.reqs = [] → g.refused = false → y.refused = false →
          t.mem = y.st.mem ∧ t.sent.getLast? = some (.answer g.data)) ∧
        (ok → off.toNat % size = 0 → bar = 2 → off.toNat < 2 ^ 28 → s.slotTime = true → s.host.reqs = [] →
          let r : PeerReq := ⟨2, oa, size, [], false, op, x.toNat, c.toNat, none⟩
          let k := s.claimHost s.host.reqUsed (s.hostReqLoad r)
          (s.planTick / 32 + 1) * 32 ≤ k.2 → t.host.reqs = [{ r with due := some k.2 }] ∧ t.mem = s.mem ∧ t.sent = s.sent) ∧
        (ok → off.toNat % size = 0 → bar = 4 → off.toNat < 2 ^ 42 → s.stopped = true → s.tier.peers = [] → s.lendPage true (off.toNat / 2 ^ 21) = none →
          t.mem = s.mem ∧ t.rf R.TIER_ERR_PEER_REFUSED = 1 ∧ t.sent = s.sent ++ [.answer (List.replicate size (0, true))]))) ∧
  (∀ (w : Bool) (a : BitVec 64) (data : List Byte) (p : Bool) (s : State), s.linkUp = true →
    Runs (.cxlMemRequest w a data p) s [.stepRegs, .hqRegs, .tierRegs, .ftlRegs, .faultRegs, .logRegs, .row, .memory, .marks, .sent, .free, .flagOut,
        .idleRuns, .logRound, .fault, .ledgers, .tier, .host, .flash]
      (fun t =>
        let oa := windowOA (s.rf R.HQ_HDM_BASE) a.toNat
        let on := s.rf R.HQ_LINK_CXL_MEM ≠ 0 ∧ s.hdmHolds a.toNat = true
        let r : PeerReq := if w then ⟨4, oa, data.length, data, p, 0, 0, 0, none⟩ else ⟨3, oa, 64, [], false, 0, 0, 0, none⟩
        let c := s.claimHost s.host.reqUsed (s.hostReqLoad r)
        (¬on → t.sent = s.sent ++ [.unsupported] ∧ t.mem = s.mem) ∧
        (on → s.slotTime = false → s.host.reqs = [] → w = true → t.sent.getLast? = some .cmp ∧
          t.mem = ((s.notePoison p).writeOA .hostReq 1 oa (data.map (fun b => (b, p)))).st.mem) ∧
        (on → s.slotTime = false → s.host.reqs = [] → w = false → t.mem = s.mem ∧
          ((s.readOA .hostReq (64 * (oa / 64)) 64).refused = false →
            Sent.answer (s.readOA .hostReq (64 * (oa / 64)) 64).data ∈ t.sent)) ∧
        (on → s.slotTime = true → s.host.reqs = [] → (s.planTick / 32 + 1) * 32 ≤ c.2 →
          t.host.reqs = [{ r with due := some c.2 }] ∧ t.mem = s.mem ∧ t.sent = s.sent))) ∧
  (∀ (a : BitVec 64) (s : State), s.linkUp = true → Runs (.cxlSnoop a) s [.sent] (fun t => t.sent = s.sent ++ [.snoopMiss]))

/-- R378, R379: a completion of a far read gives a block the bytes it owes, and HQ_ERR says how it failed; a failed read gives its own bytes alone,
marked. A far-fault report for a context that has run counts, one for a context that has not is BAD_ARG; about a plan stream of the running set it raises
FLAG_OUT in the training domain until the end of reserve, whatever the stream's state. -/
def Obligations.FarReads : Prop :=
  (∀ (n : Fin 16384) (q kind : Nat) (data : List Byte) (s : State) (b : Block), s.linkUp = true → kind ≤ 3 →
    (s.str n.val).blocks.find? (fun b => b.seq == q && decide (b.data.length < b.owed) && !b.inHand) = some b →
    Runs (.hostReadCompletion n q kind data) s [.stepRegs, .streamRegs, .hqRegs, .free, .flagOut, .ledgers, .streams] (fun t =>
      (kind = 0 → OnlyWrites [] s t ∧ (t.str n.val).blocks = (s.str n.val).blocks.map (fun c => if c.seq == q then
        { c with data := c.data ++ clean (data.take (b.owed - b.data.length)) } else c)) ∧
      (2 ≤ kind → ∃ l : List MByte, l.length = min (b.owed - b.data.length) (readLeft b.asked b.data.length) ∧ (∀ x ∈ l, x.2 = true) ∧
        (t.str n.val).blocks = (s.str n.val).blocks.map (fun c => if c.seq == q then { c with data := c.data ++ l } else c)) ∧
      (kind = 1 → t.rf R.HQ_ERR_POISON_RX = 1) ∧ (kind = 2 → t.rf R.HQ_ERR_CPL_ERROR = 1) ∧ (kind = 3 → t.rf R.HQ_ERR_CPL_TIMEOUT = 1))) ∧
  (∀ (v : BitVec 64) (s : State), s.reach .host = true →
    Runs (.farFaultReport .host v) s [.stepRegs, .streamRegs, .hqRegs, .faultRegs, .logRegs, .flagOut, .logRound] (fun t =>
      let n := bitsOf v.toNat 0 14
      t.rf R.HQ_ERR_FAR_FAULT = 1 ∧
      (((s.sst n = ssIDLE ∨ s.sst n = ssARMED) ∧ (s.str n).ran = false) → t.rf R.HQ_FAR_FAULT_STATUS = stBAD_ARG ∧
        t.rf R.HQ_FAR_FAULT_COUNT = s.rf R.HQ_FAR_FAULT_COUNT) ∧
      (¬((s.sst n = ssIDLE ∨ s.sst n = ssARMED) ∧ (s.str n).ran = false) → t.rf R.HQ_FAR_FAULT_STATUS = stOK ∧
        t.rf R.HQ_FAR_FAULT_COUNT = (s.rf R.HQ_FAR_FAULT_COUNT + 1) % 2 ^ 32) ∧
      (((s.str n).host = false ∧ s.training = true ∧ s.step.reserveOver = false ∧ s.runSet.contains n = true) → s.rf R.STEP_FLAG_RAISED = 0 →
        t.flagOut = true ∧ t.rf R.STEP_FLAG_CAUSE = 4) ∧
      (((s.str n).host = true ∨ s.training = false ∨ s.step.reserveOver = true ∨ s.runSet.contains n = false) → t.flagOut = s.flagOut)))

/-- R362, R364, R374, R380, R381, R382: Bus Master Enable sends what was held, in order, and may end a stopping stream that waited for it; a pending
vector is sent when it is unmasked; a write of configuration space sets the bit it names, or a base address register's bits above its size, a read is answered,
and while the link is down either is answered with Request Retry Status; the link that trains is UP at its rate and width, FULL only at 64 GT/s by 16. A function-level reset and a loss of the link drop the commands of every queue and the enables, and log their cause; with the link
down no line of the host and no bias to it survives. -/
def Obligations.LinkStateAndResets : Prop :=
  ((∀ s : State, s.linkUp = true →
    Runs .bmeSet s [.stepRegs, .streamRegs, .hqRegs, .tierRegs, .ftlRegs, .cdpRegs, .faultRegs, .logRegs, .memory, .marks, .sent, .flagOut,
        .logRound, .fault, .ledgers, .ports, .tier, .streams, .host, .flash, .clusters] (fun t => t.rf R.HQ_LINK_BME = 1 ∧ t.host.heldOut = [] ∧
      (s.sent ++ s.host.heldOut.map (fun p => p.2)) <+: t.sent ∧
      ((∀ n ∈ s.usedCtx, s.sst n ≠ ssSTOPPING) → OnlyChanges [.hqRegs, .sent, .host] s t))) ∧
  (∀ (v : Fin 2048) (s : State), s.linkUp = true →
    Runs (.msixUnmask v) s [.hqRegs, .sent] (fun t => t.rf (R.MSIX_CTRL_MASK v.val) = 0 ∧
      (s.pba v.val = true → s.rf R.HQ_LINK_MSIX = 1 → s.rf R.HQ_LINK_BME = 1 → t.sent = s.sent ++ [s.msixMsg v.val] ∧ t.pba v.val = false) ∧
      (s.pba v.val = false → t.sent = s.sent))) ∧
  (∀ k v : Nat, (∀ s : State, s.linkUp = true →
    Runs (.configSpaceWrite k v) s [.stepRegs, .streamRegs, .hqRegs, .tierRegs, .ftlRegs, .cdpRegs, .faultRegs, .logRegs, .memory, .marks, .sent, .flagOut,
        .logRound, .fault, .ledgers, .ports, .tier, .streams, .host, .flash, .clusters] (fun t =>
      ((k ≠ 0 ∨ ∀ n ∈ s.usedCtx, s.sst n ≠ ssSTOPPING) → OnlyChanges [.hqRegs, .sent, .host] s t) ∧
      (k = 0 → t.rf R.HQ_LINK_BME = min v 1) ∧ (k = 1 → t.rf R.HQ_LINK_MSIX = min v 1) ∧
      (k = 2 → t.rf R.HQ_LINK_RO = min v 1 ∧ t.sent = s.sent) ∧ (k = 3 → t.host = { s.host with timeout := v } ∧ OnlyWrites [] s t) ∧
      (k = 4 → t.rf R.HQ_LINK_CXL_MEM = min v 1 ∧ t.sent = s.sent) ∧
      (5 ≤ k → k ≤ 10 → s.host.bars.length = 3 → OnlyWrites [] s t ∧ t.sent = s.sent ∧
        (∀ i < 3, i ≠ (k - 5) / 2 → t.host.bars.getD i 0 = s.host.bars.getD i 0) ∧ t.host.bars.getD ((k - 5) / 2) 0 % 2 ^ barBits ((k - 5) / 2) = 0) ∧
      (k = 11 → v ≤ 2 → t.rf R.HQ_LINK_MPS = v ∧ t.sent = s.sent) ∧
      (k = 12 → t = s.emit (.answer (clean (natLe 4 (s.cfgWord (v / 4 * 4)))))))) ∧
    (∀ s : State, s.pwr.off = false → s.linkUp = false → exec (.configSpaceWrite k v) s = .next (s.emit .retry))) ∧
  (∀ (rate width mps : Nat) (s : State), s.pwr.off = false → 2 ≤ s.rf R.PWR_STATE_STATE → s.rf R.HQ_LINK_UP ≠ 1 →
    [2, 5, 8, 16, 32, 64].contains rate = true → [1, 2, 4, 8, 16].contains width = true → mps ≤ 2 →
    Runs (.hostLinkUp rate width mps) s [.hqRegs] (fun t => t.rf R.HQ_LINK_UP = 1 ∧ t.rf R.HQ_LINK_RATE = rate ∧ t.rf R.HQ_LINK_WIDTH = width ∧
      t.rf R.HQ_LINK_MPS = mps ∧ t.rf R.HQ_LINK_FULL = (if rate = 64 ∧ width = 16 then 1 else 0) ∧
      OnlyWrites [R.HQ_LINK_UP, R.HQ_LINK_RATE, R.HQ_LINK_WIDTH, R.HQ_LINK_MPS, R.HQ_LINK_FULL] s t))) ∧
  ((∀ s : State, s.linkUp = true →
    Runs .flr s [.pwrRegs, .stepRegs, .streamRegs, .hqRegs, .tierRegs, .ftlRegs, .cluRegs, .skeinRegs, .cdpRegs, .faultRegs, .logRegs, .memory, .marks,
        .sent, .flagOut, .logRound, .fault, .ledgers, .ports, .power, .tier, .streams, .host, .flash, .clusters]
      (fun t => t.rf R.HQ_LINK_BME = 0 ∧ t.rf R.HQ_LINK_MSIX = 0 ∧ t.rf R.HQ_LINK_RO = 0 ∧ t.rf R.HQ_LINK_UP = s.rf R.HQ_LINK_UP ∧
        t.host.taken = [] ∧ t.host.waiting = [] ∧ t.rf R.HQ_RESET_LOG_CAUSE = 1 ∧ t.rf R.HQ_RESET_LOG_AT = s.row % 2 ^ 32)) ∧
  (∀ (o : Bool) (s : State), s.pwr.off = false → 2 ≤ s.rf R.PWR_STATE_STATE →
    Runs (.perstNAssert o) s [.pwrRegs, .stepRegs, .streamRegs, .hqRegs, .tierRegs, .ftlRegs, .cluRegs, .skeinRegs, .cdpRegs, .faultRegs, .logRegs,
        .memory, .marks, .sent, .free, .flagOut, .logRound, .fault, .ledgers, .ports, .power, .tier, .streams, .host, .flash, .clusters]
      (fun t => t.rf R.HQ_LINK_UP = 0 ∧ t.rf R.HQ_LINK_BME = 0 ∧ t.rf R.HQ_LINK_RATE = 0 ∧ t.rf R.HQ_LINK_CXL_MEM = 0 ∧ t.tier.lines = [] ∧
        t.tier.waitLine = [] ∧ t.host.taken = [] ∧ t.rf R.HQ_RESET_LOG_CAUSE = (if o then 3 else 2) ∧
        ∀ k : Fin 3968, t.rf (R.TIER_BIAS_BIAS k.val) = 0)))

/-- R386, R279, R392, R439: SYNC_CONFIG is taken in IDLE with no chart and with its fields in range, and fixes the coherence mode and SINGLE; otherwise it is refused
and keeps its fields. R388, R391, R393: ARM arms a stopped device for a release; SEND_RELEASE drives one on an armed leader; LEADER takes effect at once
where the device is stopped and is pending elsewhere (log entry 12 for what LEADER reads meanwhile); CANCEL while ARMED and before the count ends the
launch and returns the phase. Each is refused with BAD_ARG elsewhere. A launch whose conditions hold puts the device in ARMED and RUN for its count, clears the barrier table and keeps the phase it left; any
other leaves phase, count, power and memory as they are, with LAUNCH_STATUS BAD_ARG. -/
def Obligations.SyncControl : Prop :=
  ((∀ (v : BitVec 64) (s : State), s.reach .host = true →
    Runs (.syncConfigWrite .host v) s [.hqRegs, .tierRegs, .faultRegs, .logRegs, .syncRegs, .logRound] (fun t =>
      let d := bitsOf v.toNat 0 7
      let ok := s.phase = phIDLE ∧ s.rf R.CHART_ACTIVE_VALID ≠ 1 ∧ 0 < d ∧ d ≤ 64 ∧ bitsOf v.toNat 16 6 < d ∧ bitsOf v.toNat 32 4 ≠ 0 ∧ bitsOf v.toNat 48 16 ≠ 0
      (ok → t.rf R.SYNC_CONFIG_DEVICES = d ∧ t.rf R.SYNC_CONFIG_MEMBER = bitsOf v.toNat 16 6 ∧ t.rf R.SYNC_CONFIG_LAT = bitsOf v.toNat 32 4 ∧
        t.rf R.SYNC_CONFIG_FLAG_RTT = bitsOf v.toNat 48 16 ∧ t.rf R.TIER_STATUS_MODE = (if 8 < d then 1 else 0) ∧
        t.rf R.HQ_LINK_HDM_DB = (if 8 < d then 0 else 1) ∧ (d ≤ 8 → ∀ k : Fin 3968, t.rf (R.TIER_BIAS_BIAS k.val) = 0) ∧
        (d = 1 → t.rf R.SYNC_STATUS_STATE = sySINGLE) ∧
        (d ≠ 1 → s.rf R.SYNC_STATUS_STATE = sySINGLE → t.rf R.SYNC_STATUS_STATE = syFREE_RUNNING) ∧
        (d ≠ 1 → s.rf R.SYNC_STATUS_STATE ≠ sySINGLE → t.rf R.SYNC_STATUS_STATE = s.rf R.SYNC_STATUS_STATE)) ∧
      (¬ ok → t.rf R.SYNC_CONFIG_DEVICES = s.rf R.SYNC_CONFIG_DEVICES ∧ t.rf R.SYNC_CONFIG_MEMBER = s.rf R.SYNC_CONFIG_MEMBER ∧
        t.rf R.SYNC_CONFIG_LAT = s.rf R.SYNC_CONFIG_LAT ∧ t.rf R.SYNC_CONFIG_FLAG_RTT = s.rf R.SYNC_CONFIG_FLAG_RTT ∧
        t.rf R.TIER_STATUS_MODE = s.rf R.TIER_STATUS_MODE ∧ t.rf R.SYNC_STATUS_STATE = s.rf R.SYNC_STATUS_STATE ∧
        t.rf R.SYNC_ERR_LAST_STATUS = stBAD_ARG))) ∧
  (∀ (v : BitVec 64) (s : State), s.reach .host = true → bitsOf v.toNat 1 2 = 0 →
    Runs (.syncArm .host v) s [.faultRegs, .logRegs, .syncRegs, .logRound, .sync] (fun t =>
      (s.stopped = true → t.rf R.SYNC_STATUS_RELEASE_ARMED = 1) ∧
      (s.stopped = false → t.rf R.SYNC_STATUS_RELEASE_ARMED = s.rf R.SYNC_STATUS_RELEASE_ARMED ∧ t.rf R.SYNC_ERR_LAST_STATUS = stBAD_ARG))) ∧
  (∀ (v : BitVec 64) (s : State), s.reach .host = true → bitsOf v.toNat 0 1 = 0 → bitsOf v.toNat 2 1 = 0 → s.rf R.SYNC_CTRL_LEADER ≤ 1 →
    bitsOf v.toNat 3 1 = s.rf R.SYNC_CTRL_LEADER →
    Runs (.sendRelease .host v) s [.faultRegs, .logRegs, .syncRegs, .sent, .logRound, .sync] (fun t =>
      (s.rf R.SYNC_CTRL_LEADER = 1 ∧ s.rf R.SYNC_STATUS_RELEASE_ARMED = 1 → t.sent = s.sent ++ [.syncRelease]) ∧
      (s.rf R.SYNC_CTRL_LEADER = 0 ∨ s.rf R.SYNC_STATUS_RELEASE_ARMED ≠ 1 → t.sent = s.sent ∧ t.rf R.SYNC_ERR_LAST_STATUS = stBAD_ARG))) ∧
  (∀ (v : BitVec 64) (s : State), s.reach .host = true → bitsOf v.toNat 0 3 = 0 → s.rf R.SYNC_CTRL_LEADER ≤ 1 →
    Runs (.leaderWrite .host v) s [.faultRegs, .logRegs, .syncRegs, .logRound, .sync] (fun t =>
      let b := bitsOf v.toNat 3 1
      (b = s.rf R.SYNC_CTRL_LEADER → t.rf R.SYNC_CTRL_LEADER = b ∧ t.rf R.SYNC_CTRL_LEADER_PENDING = 0 ∧ t.sync = { s.sync with leaderNew := none }) ∧
      (b ≠ s.rf R.SYNC_CTRL_LEADER → s.stopped = true → t.rf R.SYNC_CTRL_LEADER = b ∧ t.rf R.SYNC_CTRL_LEADER_PENDING = 0 ∧
        t.sync = { s.sync with leaderNew := none } ∧ (b = 0 → t.rf R.SYNC_STATUS_EMITTING = 0)) ∧
      (b ≠ s.rf R.SYNC_CTRL_LEADER → s.stopped = false → t.rf R.SYNC_CTRL_LEADER = s.rf R.SYNC_CTRL_LEADER ∧ t.rf R.SYNC_CTRL_LEADER_PENDING = 1 ∧
        t.sync = { s.sync with leaderNew := some (b == 1) }))) ∧
  (∀ (v : BitVec 64) (s : State), s.reach .host = true → bitsOf v.toNat 0 2 = 0 → s.phaseLegal →
    Runs (.launchCancel .host v) s [.pwrRegs, .stepRegs, .cluRegs, .faultRegs, .logRegs, .syncRegs, .sent, .logRound, .step, .sync, .power] (fun t =>
      (s.phase = phARMED ∧ s.row < s.rf R.SYNC_LAUNCH_COUNT → t.rf R.SYNC_STATUS_LAUNCH_STATUS = stOK ∧ t.phase = s.step.prevPhase ∧
        t.rf R.STEP_NEXT_CASTON_VALUE = 0 ∧ t.pwr.waking = [] ∧
        (∀ u ∈ t.pwr.awake, s.servesHost u = true ∧ u ∈ s.pwr.awake) ∧ (s.rf R.PWR_STATE_STATE = 3 → t.rf R.PWR_STATE_STATE = 2)) ∧
      (s.phase ≠ phARMED ∨ s.rf R.SYNC_LAUNCH_COUNT ≤ s.row → t.rf R.SYNC_STATUS_LAUNCH_STATUS = stBAD_ARG ∧ t.phase = s.phase ∧ t.pwr = s.pwr ∧ t.sent = s.sent ∧ t.step = s.step)))) ∧
  (∀ (v : BitVec 64) (s : State), s.reach .host = true →
    Runs (.launchWrite .host v) s [.pwrRegs, .stepRegs, .cluRegs, .faultRegs, .logRegs, .syncRegs, .memory, .marks, .sent, .logRound, .step] (fun t =>
      (s.launchOk v.toNat = true → t.rf R.SYNC_LAUNCH_COUNT = v.toNat ∧ t.rf R.SYNC_STATUS_LAUNCH_STATUS = stOK ∧ t.phase = phARMED ∧
        t.rf R.PWR_STATE_STATE = 3 ∧ t.step = { s.step with prevPhase := s.phase } ∧ t.sent = s.sent ++ [.inBand 4] ∧
        t.rf R.SYNC_ERR_LAST_STATUS = s.rf R.SYNC_ERR_LAST_STATUS) ∧
      (s.launchOk v.toNat = false → t.rf R.SYNC_LAUNCH_COUNT = s.rf R.SYNC_LAUNCH_COUNT ∧ t.rf R.SYNC_STATUS_LAUNCH_STATUS = stBAD_ARG ∧
        t.rf R.SYNC_ERR_LAST_STATUS = stBAD_ARG ∧ t.phase = s.phase ∧ t.step = s.step ∧ t.sent = s.sent ∧ t.mem = s.mem ∧ t.marks = s.marks ∧
        t.rf R.PWR_STATE_STATE = s.rf R.PWR_STATE_STATE)))

/-- R387, R388, R389, R390, R406, R407, R408, R409: a release sampled by an armed device loads SYNC_LOAD 64 cycles later, and sampled by another is UNEXPECTED; a run
of neither 1 nor 8 samples is MALFORMED. The leader drives an EPOCH at a multiple of 4,096. An EPOCH sampled on REFCLK aligns a RELEASED device, or is
an EPOCH event and holdover when an ALIGNED device finds it off its count; in holdover it is measured, a RELEASED device whose check passes is ALIGNED,
and the device realigns or returns when it may. A load keeps the ticks since the last EPOCH. Without an EPOCH for 8,192 ticks the device has lost SYNC, and a DISCIPLINED or LOCKED one is FREE. -/
def Obligations.ReleasesAndEpochs : Prop :=
  (∀ s : State, s.pwr.off = false → Runs .releaseSampled s [.faultRegs, .logRegs, .syncRegs, .logRound, .sync] (fun t =>
      (s.rf R.SYNC_STATUS_RELEASE_ARMED = 1 → t.sync = { s.sync with loadAt := some (s.row + 64) } ∧ OnlyWrites [] s t) ∧
      (s.rf R.SYNC_STATUS_RELEASE_ARMED ≠ 1 → t.sync = s.sync ∧ t.rf R.SYNC_ERR_UNEXPECTED = 1 ∧ t.rf R.SYNC_ERR_LAST_STATUS = stBAD_ARG ∧
        t.rf R.SYNC_ERR_COUNT = (s.rf R.SYNC_ERR_COUNT + 1) % 2 ^ 32))) ∧
  (∀ (s : State) (n : Nat), s.sync.loadAt = some n → Runs .releaseLoad s [.stepRegs, .syncRegs, .row, .idleRuns, .sync] (fun t =>
      t.row = s.rf R.SYNC_LOAD_VALUE ∧ t.sync.loadAt = none ∧
      t.sync.lastEpoch = s.sync.lastEpoch.map (fun e => (t.row : Int) - (((max s.row n : Nat) : Int) - e)) ∧ t.rf R.SYNC_STATUS_RELEASE_ARMED = 0 ∧ t.rf R.SYNC_STATUS_TAINTED = 0 ∧
      t.rf R.SYNC_STATUS_STATE = (if s.rf R.SYNC_STATUS_STATE = sySINGLE then sySINGLE else syRELEASED) ∧
      t.rf R.SYNC_STATUS_CLOCK = (if s.rf R.SYNC_STATUS_CLOCK = ckREFCLK then ckREFCLK else ckLOCKED))) ∧
  (∀ (s : State) (len : Nat), s.pwr.off = false → Runs (.syncRunMalformed len) s [.faultRegs, .logRegs, .syncRegs, .logRound] (fun t =>
      (len ≠ 0 → len ≠ 1 → len ≠ 8 → t.rf R.SYNC_ERR_MALFORMED = 1 ∧ t.rf R.SYNC_ERR_LAST_STATUS = stBAD_ARG) ∧ (len = 1 ∨ len = 8 → t = s))) ∧
  (∀ s : State, s.pwr.off = false → s.rf R.SYNC_CTRL_LEADER ≠ 0 → s.devices ≠ 1 → s.rf R.SYNC_STATUS_CLOCK = ckREFCLK →
    (s.rf R.SYNC_STATUS_STATE = syRELEASED ∨ s.rf R.SYNC_STATUS_STATE = syALIGNED) →
    Runs .epochEmit s [.stepRegs, .syncRegs, .row, .sent, .idleRuns, .sync] (fun t =>
      t.row % 4096 = 0 ∧ s.row ≤ t.row ∧ s.sync.releasedAt + 4096 ≤ t.row ∧ (∀ e, s.sync.lastEmit = some e → e < t.row) ∧
      t.sync = { s.sync with lastEmit := some t.row } ∧ t.rf R.SYNC_STATUS_EMITTING = 1 ∧ t.sent = s.sent ++ [.syncEpoch])) ∧
  (∀ (s : State) (off : Int), s.pwr.off = false → s.devices ≠ 1 →
    Runs (.epochSampled off) s [.stepRegs, .faultRegs, .logRegs, .syncRegs, .row, .flagOut, .idleRuns, .logRound, .sync] (fun t =>
      let u := s.advance (s.epochAt off)
      (s.rf R.SYNC_STATUS_CLOCK = ckREFCLK → 0 ≤ off → off < 16 → t.row = s.epochAt off ∧ t.rf R.SYNC_STATUS_SYNC_PRESENT = 1 ∧
        t.sync = { s.sync with lastEpoch := some (t.row : Int), boundSince := false } ∧ t.rf R.SYNC_STATUS_CLOCK = ckREFCLK ∧
        t.rf R.SYNC_STATUS_STATE = (if s.rf R.SYNC_STATUS_STATE = syRELEASED then syALIGNED else s.rf R.SYNC_STATUS_STATE)) ∧
      (s.rf R.SYNC_STATUS_CLOCK = ckREFCLK → off < 0 ∨ 16 ≤ off → s.rf R.SYNC_STATUS_STATE = syALIGNED → t.row = s.epochAt off ∧
        t.sync = { s.sync with cleanBound := false } ∧
        t.rf R.SYNC_ERR_EPOCH = 1 ∧ t.rf R.SYNC_ERR_LAST_STATUS = stTAINTED_TIME ∧ t.rf R.SYNC_STATUS_TAINTED = 1 ∧
        t.rf R.SYNC_STATUS_EMITTING = 0 ∧ t.rf R.SYNC_STATUS_CLOCK = (if s.rf R.SYNC_STATUS_SYNC_PRESENT = 1 then ckDISCIPLINED else ckFREE)) ∧
      (s.rf R.SYNC_STATUS_CLOCK ≠ ckREFCLK → t.rf R.SYNC_STATUS_SYNC_PRESENT = 1 ∧ t.rf R.SYNC_STATUS_OFFSET = unsigned 16 off ∧
        t.sync = { s.sync with lastEpoch := some (s.epochAt off : Int), boundSince := false } ∧
        t.rf R.SYNC_STATUS_STATE = (if 0 ≤ off ∧ off < 16 ∧ s.rf R.SYNC_STATUS_STATE = syRELEASED then syALIGNED else s.rf R.SYNC_STATUS_STATE) ∧
        (u.mayReturn = true → t.rf R.SYNC_STATUS_CLOCK = ckREFCLK ∧ t.rf R.SYNC_STATUS_TAINTED = 0) ∧
        (u.mayReturn = false → s.rf R.SYNC_STATUS_CLOCK = ckLOCKED → 128 < off.natAbs → t.row = s.epochAt off ∧
          t.rf R.SYNC_STATUS_CLOCK = ckDISCIPLINED ∧ t.rf R.SYNC_STATUS_TAINTED = 1) ∧
        (u.mayReturn = false → s.rf R.SYNC_STATUS_CLOCK ≠ ckLOCKED → u.mayRealign = true → t.rf R.SYNC_STATUS_CLOCK = ckLOCKED ∧
          t.rf R.SYNC_STATUS_TAINTED = 0) ∧
        (u.mayReturn = false → s.rf R.SYNC_STATUS_CLOCK = ckFREE → u.mayRealign = false → t.rf R.SYNC_STATUS_CLOCK = ckDISCIPLINED)))) ∧
  (∀ (s : State) (e : Int), s.pwr.off = false → s.sync.lastEpoch = some e → s.rf R.SYNC_STATUS_SYNC_PRESENT ≠ 0 →
    Runs .syncLost s [.stepRegs, .faultRegs, .logRegs, .syncRegs, .row, .flagOut, .idleRuns, .logRound] (fun t =>
      t.row = max s.row (e + 8192).toNat ∧ t.rf R.SYNC_STATUS_SYNC_PRESENT = 0 ∧ t.rf R.SYNC_ERR_SYNC_LOST = 1 ∧
      (s.rf R.SYNC_STATUS_CLOCK = ckREFCLK → t.rf R.SYNC_STATUS_CLOCK = ckREFCLK ∧ t.flagOut = s.flagOut) ∧
      (s.rf R.SYNC_STATUS_CLOCK ≠ ckREFCLK → t.rf R.SYNC_STATUS_CLOCK = ckFREE)))

/-- R405, R406, R408, R410, R412: a LOSS, GLITCH or RATE event of the reference sets its bit, is counted and logged as TAINTED_TIME and starts the clean
time anew, after a LOSS when the reference is back (log entry 245); on REFCLK the device enters holdover, DISCIPLINED with SYNC, else FREE, which raises FLAG_OUT in the training domain of a
configuration. A FREE device returns after 2^20 clean ticks. The calibration is the measured error in 1/16 ppm, at the end of a window of 2^24 clean ticks. -/
def Obligations.ClockEvents : Prop :=
  (∀ (i : Instr) (bit : Fld) (s : State), s.pwr.off = false →
    ((i = .clockLoss ∧ bit = R.SYNC_ERR_LOSS) ∨ (i = .clockGlitch ∧ bit = R.SYNC_ERR_GLITCH) ∨ (i = .clockRate ∧ bit = R.SYNC_ERR_RATE)) →
    Runs i s [.stepRegs, .faultRegs, .logRegs, .syncRegs, .free, .flagOut, .logRound, .sync] (fun t =>
      t.rf bit = 1 ∧ t.rf R.SYNC_ERR_COUNT = (s.rf R.SYNC_ERR_COUNT + 1) % 2 ^ 32 ∧ t.rf R.SYNC_ERR_LAST_STATUS = stTAINTED_TIME ∧
      (i ≠ .clockLoss → t.sync = { s.sync with goodSince := max (s.row : Int) s.sync.goodSince, cleanBound := false } ∧ t.free = s.free) ∧
      (i = .clockLoss → t.sync = { s.sync with goodSince := t.sync.goodSince, cleanBound := false } ∧ (s.row : Int) ≤ t.sync.goodSince ∧
        t.free = s.free + 1) ∧
      (s.rf R.SYNC_STATUS_CLOCK ≠ ckREFCLK → t.rf R.SYNC_STATUS_CLOCK = s.rf R.SYNC_STATUS_CLOCK ∧ t.flagOut = s.flagOut ∧
        t.rf R.SYNC_STATUS_TAINTED = s.rf R.SYNC_STATUS_TAINTED) ∧
      (s.rf R.SYNC_STATUS_CLOCK = ckREFCLK → t.rf R.SYNC_STATUS_TAINTED = 1 ∧ t.rf R.SYNC_CLOCK_HOLDOVER_AT = s.row % 2 ^ 32 ∧
        t.rf R.SYNC_STATUS_EMITTING = 0 ∧
        (s.rf R.SYNC_STATUS_SYNC_PRESENT = 1 → t.rf R.SYNC_STATUS_CLOCK = ckDISCIPLINED ∧ t.flagOut = s.flagOut) ∧
        (s.rf R.SYNC_STATUS_SYNC_PRESENT ≠ 1 → t.rf R.SYNC_STATUS_CLOCK = ckFREE ∧
          (1 < s.devices → s.training = true → s.rf R.STEP_FLAG_RAISED = 0 → t.flagOut = true ∧ t.rf R.STEP_FLAG_RAISED = 1 ∧
            t.rf R.STEP_FLAG_CAUSE = 0x0B))))) ∧
  (∀ s : State, s.pwr.off = false → s.rf R.SYNC_STATUS_CLOCK = ckFREE → (2 ^ 20 : Int) ≤ s.cleanTicks →
    (s.stopped = true ∨ s.phase = phARMED ∨ (s.sync.cleanBound = true ∧ s.phase = phBOUNDARY)) →
    Runs .freeReturn s [.stepRegs, .syncRegs, .row, .idleRuns] (fun t => t.rf R.SYNC_STATUS_CLOCK = ckREFCLK ∧
      t.row = (if s.phase = phBOUNDARY then max s.row (s.rf R.STEP_BINDOFF_VALUE + 2048) else s.row) ∧
      t.rf R.SYNC_STATUS_TAINTED = (if s.devices = 1 then 0 else s.rf R.SYNC_STATUS_TAINTED))) ∧
  (∀ (s : State) (err : Int), s.pwr.off = false →
    Runs (.oscillatorCalibration err) s [.stepRegs, .syncRegs, .row, .idleRuns] (fun t =>
      let u := s.advance ((s.row / 2 ^ 24 + 1) * 2 ^ 24)
      t.row = (s.row / 2 ^ 24 + 1) * 2 ^ 24 ∧
      ((2 ^ 24 : Int) ≤ u.cleanTicks → t.rf R.SYNC_CLOCK_CAL = unsigned 16 err ∧ OnlyWrites [R.SYNC_CLOCK_CAL] u t) ∧
      (u.cleanTicks < (2 ^ 24 : Int) → t = u)))

/-- R413, R416, R417, R418, R421, R424, R425, R426: a serving cluster, engine or mover that fails hands its place to the lowest spare of its kind, which is
counted and in plan time asks for the kind's pause, and the streams of another mover keep their blocks; a second failover of a step raises FLAG_OUT. With no spare the place stays unserved, NO_SPARE and
FLAG_OUT say so; a spare that fails only leaves the pool. A lost channel reads marked until the bind-off; a failed control core leaves its partner alone
until the spare joins outside the step; a second lockstep mismatch of a pair fails one of its cores, a free value picks which. -/
def Obligations.UnitFaults : Prop :=
  (∀ (u : BitVec 16) (v : Nat) (s : State), s.pwr.off = false → uKind u.toNat = 1 ∨ uKind u.toNat = 2 ∨ uKind u.toNat = 3 →
    uIdx u.toNat < kindCount (uKind u.toNat) → s.serves u.toNat = true → s.spareFor u.toNat = some v →
    Runs (.unitFault u) s [.pwrRegs, .stepRegs, .cluRegs, .skeinRegs, .faultRegs, .logRegs, .sent, .flagOut, .logRound, .fault, .ledgers, .power,
        .tier, .streams] (fun t =>
      (uKind u.toNat ≠ 3 → t.led = s.led ∧ t.tier = s.tier ∧ t.strs = s.strs) ∧
      (∀ n, s.rf (R.STREAM_CTL_MOVER n) ≠ s.rf (unitLogicalF u.toNat) → t.str n = s.str n) ∧
      t.rf (unitStateF u.toNat) = usFAILED ∧ t.rf (unitStateF v) = usSERVICE ∧
      t.rf (unitLogicalF v) = s.rf (unitLogicalF u.toNat) % 2 ^ (unitLogicalF v).w ∧
      t.rf R.FAULT_LAST_UNIT = u.toNat ∧ t.rf R.FAULT_LAST_SPARE = v ∧ t.rf R.FAULT_STATUS_LAST_STATUS = stUNIT_LOST ∧
      t.rf R.FAULT_STATUS_FAILOVERS = (s.rf R.FAULT_STATUS_FAILOVERS + 1) % 2 ^ 32 ∧
      (s.inStep = true → t.rf R.FAULT_STATUS_STEP_FAILOVERS = min (s.rf R.FAULT_STATUS_STEP_FAILOVERS + 1) 255) ∧
      (s.inPlan = true → s.fault.pauseEnd = none → t.fault.pauseWant = s.fault.pauseWant + pauseLen (uKind u.toNat)) ∧
      (s.training = true → s.step.reserveOver = false → 1 ≤ s.rf R.FAULT_STATUS_STEP_FAILOVERS → s.rf R.STEP_FLAG_RAISED = 0 →
        t.flagOut = true ∧ t.rf R.STEP_FLAG_CAUSE = 0x0C))) ∧
  (∀ (u : BitVec 16) (s : State), s.pwr.off = false → uKind u.toNat = 1 ∨ uKind u.toNat = 2 ∨ uKind u.toNat = 3 →
    uIdx u.toNat < kindCount (uKind u.toNat) → s.serves u.toNat = true → s.spareFor u.toNat = none →
    Runs (.unitFault u) s [.stepRegs, .cluRegs, .skeinRegs, .faultRegs, .logRegs, .flagOut, .logRound, .fault] (fun t =>
      t.rf (unitStateF u.toNat) = usFAILED ∧ t.rf R.FAULT_STATUS_FAILOVERS = s.rf R.FAULT_STATUS_FAILOVERS ∧
      t.rf R.FAULT_STATUS_NO_SPARE = (s.rf R.FAULT_STATUS_NO_SPARE ||| 2 ^ (uKind u.toNat - 1)) % 2 ^ 6 ∧
      t.fault.unserved = NSet.ins (uKind u.toNat * 4096 + s.rf (unitLogicalF u.toNat)) s.fault.unserved ∧
      (s.training = true → s.rf R.STEP_FLAG_RAISED = 0 → t.flagOut = true ∧ t.rf R.STEP_FLAG_CAUSE = 0x0D))) ∧
  (∀ (u : BitVec 16) (s : State), s.pwr.off = false → uKind u.toNat = 1 ∨ uKind u.toNat = 2 ∨ uKind u.toNat = 3 →
    uIdx u.toNat < kindCount (uKind u.toNat) → s.rf (unitStateF u.toNat) = usSPARE →
    Runs (.unitFault u) s [.cluRegs, .skeinRegs, .faultRegs, .logRegs, .logRound] (fun t =>
      t.rf (unitStateF u.toNat) = usFAILED ∧ t.rf R.FAULT_STATUS_FAILOVERS = s.rf R.FAULT_STATUS_FAILOVERS ∧ t.rf R.FAULT_LAST_SPARE = 0xFFFF)) ∧
  (∀ (u : BitVec 16) (i : Instr) (s : State), s.pwr.off = false → 2 ≤ s.rf R.PWR_STATE_STATE → uIdx u.toNat < kindCount (uKind u.toNat) →
    ((∃ ch : Fin 256, uKind u.toNat = 4 ∧ uIdx u.toNat = ch.val ∧ i = .channelLoss ch) ∨
      (∃ (p : Fin 4) (k : Fin 9), uKind u.toNat = 5 ∧ uIdx u.toNat = 9 * p.val + k.val ∧ i = .moduleFail p k) ∨
      (∃ k : Fin 5, uKind u.toNat = 6 ∧ uIdx u.toNat = k.val ∧ i = .controlCoreFault k)) →
    exec (.unitFault u) s = exec i s) ∧
  (∀ (ch : Fin 256) (s : State), s.pwr.off = false → s.serves (0x4000 + ch.val) = true →
    Runs (.channelLoss ch) s [.stepRegs, .hbmRegs, .faultRegs, .logRegs, .flagOut, .logRound, .fault] (fun t =>
      t.rf (unitStateF (0x4000 + ch.val)) = usFAILED ∧ t.fault.lossDue = NSet.ins ch.val s.fault.lossDue ∧
      t.rf R.FAULT_MARKS_LOST_GRANULES = (s.rf R.FAULT_MARKS_LOST_GRANULES + (2 ^ 20 - s.lostOf ch.val)) % 2 ^ 32 ∧ t.rf R.FAULT_LAST_UNIT = 0x4000 + ch.val ∧
      (s.spareFor (0x4000 + ch.val) ≠ none → t.flagOut = s.flagOut ∧ t.rf R.FAULT_STATUS_NO_SPARE = s.rf R.FAULT_STATUS_NO_SPARE) ∧
      (s.spareFor (0x4000 + ch.val) = none → t.rf R.FAULT_STATUS_NO_SPARE = (s.rf R.FAULT_STATUS_NO_SPARE ||| 8) % 2 ^ 6 ∧
        (s.training = true → s.rf R.STEP_FLAG_RAISED = 0 → t.flagOut = true ∧ t.rf R.STEP_FLAG_CAUSE = 0x0D)))) ∧
  (∀ (k : Fin 5) (s : State), s.pwr.off = false → s.serves (0x6000 + k.val) = true →
    Runs (.controlCoreFault k) s [.stepRegs, .faultRegs, .logRegs, .flagOut, .logRound, .fault] (fun t =>
      t.rf (unitStateF (0x6000 + k.val)) = usFAILED ∧ t.rf R.FAULT_LAST_UNIT = 0x6000 + k.val ∧
      (s.spareFor (0x6000 + k.val) ≠ none → t.flagOut = s.flagOut ∧
        t.fault.joins = NSet.ins (s.rf (unitLogicalF (0x6000 + k.val))) s.fault.joins) ∧
      (s.spareFor (0x6000 + k.val) = none → t.fault.joins = s.fault.joins ∧
        t.rf R.FAULT_STATUS_NO_SPARE = (s.rf R.FAULT_STATUS_NO_SPARE ||| 32) % 2 ^ 6))) ∧
  (∀ (s : State) (p v : Nat) (l : List Nat), s.pwr.off = false → s.inStep = false → s.fault.joins = p :: l → s.spareFor 0x6000 = some v →
    Runs .controlCoreJoin s [.faultRegs, .fault] (fun t => t.rf (unitStateF v) = usSERVICE ∧ t.rf (unitLogicalF v) = p % 2 ^ 16 ∧
      t.rf R.FAULT_STATUS_FAILOVERS = (s.rf R.FAULT_STATUS_FAILOVERS + 1) % 2 ^ 32 ∧ t.fault = { s.fault with joins := NSet.del p (p :: l) })) ∧
  (∀ (q : Fin 2) (s : State), s.pwr.off = false → 2 ≤ s.rf R.PWR_STATE_STATE →
    Runs (.lockstepMismatch q) s [.stepRegs, .faultRegs, .logRegs, .free, .flagOut, .logRound, .fault] (fun t =>
      (s.fault.mismatched.contains q.val = false → t = { s with fault := { s.fault with mismatched := NSet.ins q.val s.fault.mismatched } }) ∧
      (s.fault.mismatched.contains q.val = true → t.free = s.free + 1 ∧ t.fault.mismatched = NSet.del q.val s.fault.mismatched ∧
        ∀ a b, s.serverOf 6 (2 * q.val) = some a → s.serverOf 6 (2 * q.val + 1) = some b →
          t.rf (unitStateF a) = usFAILED ∨ t.rf (unitStateF b) = usFAILED)))

/-- R422, R423, R427: corrected errors count against their unit, and at the kind's limit a serving unit with a spare becomes retiring; a window's end counts
anew. A channel copy that is done waits for the bind-off. A mend of a failed unit is accepted and pending until its self-test ends, any other is refused; a
failed test ends it with CHECK_FAIL, a passed one applies it at once in IDLE or HOLD, where it makes a spare without RESTORE (log entry 23), and else at a
bind-off. -/
def Obligations.RetirementAndMends : Prop :=
  (∀ (u : BitVec 16) (s : State), s.pwr.off = false → uIdx u.toNat < kindCount (uKind u.toNat) → uKind u.toNat ≠ 5 →
    Runs (.correctableError u) s [.hbmRegs, .faultRegs, .logRegs, .logRound, .fault] (fun t =>
      let n := s.ceOf u.toNat + 1
      t.ceOf u.toNat = n ∧ (3 ≤ uKind u.toNat → t.rf (R.FAULT_UNIT_CE (unitOff u.toNat)) = min n 65535) ∧
      (n ≠ ceLimit (uKind u.toNat) → t.rf (unitStateF u.toNat) = s.rf (unitStateF u.toNat) ∧ t.fault.retiring = s.fault.retiring) ∧
      (n = ceLimit (uKind u.toNat) → s.rf (unitStateF u.toNat) = usSERVICE → u.toNat ∉ s.fault.retiring → s.retireTo u.toNat ≠ none →
        t.fault.retiring = NSet.ins u.toNat s.fault.retiring ∧ t.rf R.FAULT_STATUS_RETIRE_PENDING = 1 ∧
        (3 ≤ uKind u.toNat → t.rf (unitStateF u.toNat) = usRETIRING) ∧ (uKind u.toNat = 4 → t.rf R.FAULT_STATUS_COPYING = 1)))) ∧
  (∀ s : State, s.pwr.off = false → Runs .correctableWindowEnd s [.stepRegs, .hbmRegs, .faultRegs, .row, .idleRuns, .fault] (fun t =>
      t.row = (s.row / 2 ^ 24 + 1) * 2 ^ 24 ∧ t.fault = { s.fault with ce := [] } ∧
      ∀ c ∈ s.fault.ce, 3 ≤ uKind c.1 → t.rf (R.FAULT_UNIT_CE (unitOff c.1)) = 0)) ∧
  (∀ (s : State) (c : ChanCopy), s.fault.copies.find? (fun c => !c.done) = some c →
    Runs .channelCopyDone s [.hbmRegs, .faultRegs, .fault] (fun t =>
      t.fault = { s.fault with copies := s.fault.copies.map (fun x => if x == c then { c with done := true } else x) } ∧
      t.rf (R.HBM_STACK_STATE (c.src / 32)) = 2 ∧
      t.rf R.FAULT_STATUS_COPYING = (if t.fault.copies.any (fun c => !c.done) then 1 else 0))) ∧
  (∀ (v : BitVec 64) (s : State), s.reach .host = true → Runs (.mend .host v) s [.faultRegs, .logRegs, .logRound, .fault] (fun t =>
      let u := bitsOf v.toNat 16 16
      let r := bitsOf v.toNat 2 1 == 1
      (s.mendOk u r = true → t.fault = { s.fault with mends := s.fault.mends ++ [Mend.mk u r none] } ∧ t.rf R.FAULT_MEND_PENDING = 1 ∧
        t.rf R.FAULT_MEND_STATUS = stOK ∧ t.rf R.FAULT_MEND_APPLY_AT_STEP = 0xFFFFFFFF) ∧
      (s.mendOk u r = false → t.fault = s.fault ∧ t.rf R.FAULT_MEND_STATUS = stBAD_ARG))) ∧
  (∀ (u : BitVec 16) (pass : Bool) (m : Mend) (s : State), s.fault.mends.find? (fun m => m.unit == u.toNat && m.target.isNone) = some m →
    Runs (.mendSelfTestDone u pass) s [.pwrRegs, .cluRegs, .skeinRegs, .hbmRegs, .faultRegs, .logRegs, .logRound, .fault, .power] (fun t =>
      let left := s.fault.mends.filter (· != m)
      (pass = false → t.fault = { s.fault with mends := left } ∧ t.rf R.FAULT_MEND_PENDING = (if left.isEmpty then 0 else 1) ∧
        t.rf R.FAULT_MEND_STATUS = stCHECK_FAIL ∧ t.rf (unitStateF u.toNat) = s.rf (unitStateF u.toNat)) ∧
      (pass = true → s.stopped = true → m.restore = false → t.rf (unitStateF u.toNat) = usSPARE ∧
        t.rf R.FAULT_MEND_PENDING = (if left.isEmpty then 0 else 1) ∧
        t.rf R.FAULT_MEND_STATUS = stOK) ∧
      (pass = true → s.stopped = false → t.rf (unitStateF u.toNat) = usMEND ∧
        t.rf R.FAULT_MEND_APPLY_AT_STEP = s.targetStep.1 % 2 ^ 32 ∧ t.rf R.FAULT_MEND_STATUS = (if s.targetStep.2 then stDEFERRED else stOK) ∧
        t.fault.mends = s.fault.mends.map (fun x => if x == m then { m with target := some s.targetStep.1 } else x))))

/-- R434, R437, R438, R440, R441: a lost supply or RST_N low for 1 µs puts the block in OFF: every register but the fuses (and for RST_N the log and the
unit record, and after a RESET to every die whose link is up) is at its reset value, memory, chart and work are gone, flash media stay. T0, with every supply good and RST_N high, starts the row counter
and the boot. TO_AON, WAKE and RETRY_BOOT act in the states that admit them, and answer BAD_ARG elsewhere. -/
def Obligations.PowerStates : Prop :=
  (∀ (i : Instr) (log : Bool) (s : State), ((∃ k : Fin 9, i = .supplyLost k ∧ log = false) ∨ (∃ ns, i = .rstNLow ns ∧ 1000 ≤ ns ∧ log = true)) →
    ∃ t, exec i s = .next t ∧ t.pending = s.pending ∧ (log = false → t.sent = s.sent) ∧
      (log = true → t.sent = s.sent ++ ((upTo 4).filter (fun p => (s.port p).link)).map (fun p => .kpp p kRESET 0 0 [])) ∧
      t.free = s.free ∧ t.pwr.off = true ∧ t.pwr.booting = false ∧ t.row = 0 ∧
      t.phase = phIDLE ∧ t.mem = [] ∧ t.marks = [] ∧ t.chart = ChartSt.reset ∧ t.step = StepSt.reset ∧ t.strs = [] ∧ t.flagOut = false ∧
      t.ftl.live = s.ftl.live ∧ t.ftl.cells = s.ftl.cells ∧ t.pwr.devKeys = s.pwr.devKeys ∧
      (∀ f : Fld, fuseCell f.key = true ∨ (log = true ∧ (logCell f.key = true ∨ unitCell f.key = true)) → t.rf f = s.rf f) ∧
      (∀ f : Fld, fuseCell f.key = false → (log = false ∨ (logCell f.key = false ∧ unitCell f.key = false)) → t.rf f = resetOf f.key)) ∧
  (∀ (ns : Nat) (s : State), ns < 100 → exec (.rstNLow ns) s = .next s) ∧
  (∀ (ns : Nat) (s : State), 100 ≤ ns → ns < 1000 → s.pwr.off = false → exec (.rstNLow ns) s = .fault .rstPulseUndefined) ∧
  (∀ (k : Fin 9) (s : State), Runs (.supplyGood k) s [.row, .power] (fun t =>
      let left := NSet.del k.val s.pwr.badSupply
      t.pwr.badSupply = left ∧
      (s.pwr.off = true → s.pwr.rstLow = false → left = [] → t.row = 0 ∧ t.pwr.off = false ∧ t.pwr.booting = true ∧ t.pwr.bootCause = 1 ∧
        t.pwr.imageDone = false ∧ t.pwr.trainDone = false) ∧
      (s.pwr.off = false ∨ s.pwr.rstLow = true ∨ left ≠ [] → t = { s with pwr := { s.pwr with badSupply := left } }))) ∧
  (∀ s : State, Runs .rstNRise s [.row, .power] (fun t => t.pwr.rstLow = false ∧
      (s.pwr.off = true → s.pwr.badSupply = [] → t.row = 0 ∧ t.pwr.off = false ∧ t.pwr.booting = true ∧ t.pwr.bootCause = 1) ∧
      (s.pwr.off = false ∨ s.pwr.badSupply ≠ [] → t = { s with pwr := { s.pwr with rstLow := false } }))) ∧
  (∀ (v : BitVec 64) (s : State), s.reach .host = true →
    Runs (.toAon .host v) s [.pwrRegs, .chartRegs, .stepRegs, .streamRegs, .hqRegs, .tierRegs, .ftlRegs, .cluRegs, .skeinRegs, .cdpRegs, .hbmRegs, .faultRegs,
        .logRegs, .memory, .marks, .sent, .free, .flagOut, .logRound, .chart, .fault, .ledgers, .ports, .power, .tier, .streams, .host, .flash, .update,
        .clusters] (fun t =>
      (s.mayToAon = true → t.rf R.PWR_CTRL_STATUS = stOK ∧ t.rf R.PWR_STATE_STATE = 1 ∧ t.rf R.PWR_STATE_LAST_CAUSE = 5 ∧ t.pwr.awake = [] ∧
        t.rf R.FTL_STATUS_STATE = 0 ∧ t.rf R.PWR_CLOCK_FCLK_MHZ = 0 ∧ ∀ k : Fin 8, t.rf (R.HBM_STACK_STATE k.val) = 0) ∧
      (s.mayToAon = false → t.rf R.PWR_CTRL_STATUS = stBAD_ARG ∧ t.rf R.PWR_STATE_STATE = s.rf R.PWR_STATE_STATE ∧ t.pwr = s.pwr ∧ t.mem = s.mem ∧
        t.sent = s.sent ∧ t.tier = s.tier))) ∧
  (∀ (m : Master) (v : BitVec 64) (s : State), s.reach m = true → bitsOf v.toNat 0 1 = 0 → bitsOf v.toNat 2 1 = 0 →
    Runs (.wake m v) s [.pwrRegs, .faultRegs, .logRegs, .logRound, .power] (fun t =>
      let ok := s.idleAon = true ∧ s.pwr.fwLoaded = true ∧
        ¬ (s.rf R.PWR_THERM_CRIT_SEEN = 1 ∧ ∃ c ∈ s.pwr.temps, (s.rf R.PWR_THERM_CFG_TRIP_C : Int) ≤ c)
      (ok → t.rf R.PWR_MGMT_STATUS = stOK ∧
        t.pwr = { s.pwr with booting := true, bootCause := 2, t0 := s.row, imageDone := true, trainDone := false }) ∧
      (¬ ok → t.rf R.PWR_MGMT_STATUS = stBAD_ARG ∧ t.pwr = s.pwr))) ∧
  (∀ (m : Master) (v : BitVec 64) (s : State), s.reach m = true → bitsOf v.toNat 1 2 = 0 →
    Runs (.retryBoot m v) s [.bootRegs, .pwrRegs, .faultRegs, .logRegs, .logRound, .power] (fun t =>
      (s.idleAon = true ∧ s.rf R.BOOT_STATUS_STATE = 5 → t.rf R.PWR_MGMT_STATUS = stOK ∧ t.rf R.BOOT_STATUS_STATE = 0 ∧
        t.pwr = { s.pwr with booting := true, bootCause := 8, t0 := s.row, imageDone := false, trainDone := false }) ∧
      (s.idleAon = false ∨ s.rf R.BOOT_STATUS_STATE ≠ 5 → t.rf R.PWR_MGMT_STATUS = stBAD_ARG ∧ t.pwr = s.pwr ∧
        t.rf R.BOOT_STATUS_STATE = s.rf R.BOOT_STATUS_STATE)))

/-- R450, R452, R454, R455, R456, R460: a boot runs the first slot whose checks pass, A before B, and fails when neither does; READY comes when image and
training are both done. A write of BOOT_ROLLBACK that names neither an unsuitable slot nor a running step queues its burns; done, they are in the fuses. A
device key burns into an unburned slot. -/
def Obligations.BootAndFuses : Prop :=
  (∀ (a b : List Byte) (s : State), s.pwr.off = false → s.pwr.booting = true → s.pwr.imageDone = false →
    Runs (.bootImageDone a b) s [.bootRegs, .pwrRegs, .tierRegs, .ftlRegs, .cluRegs, .skeinRegs, .cdpRegs, .hbmRegs, .faultRegs, .memory, .marks, .sent,
        .fault, .ports, .power, .tier, .flash] (fun t =>
      let good := s.slotReason a = 0 ∨ s.slotReason b = 0
      t.rf R.BOOT_STATUS_REASON_A = s.slotReason a % 2 ^ 8 ∧
      (s.slotReason a = 0 → t.rf R.BOOT_STATUS_SLOT = 0 ∧ t.rf R.BOOT_STATUS_REASON_B = 1) ∧
      (s.slotReason a ≠ 0 → t.rf R.BOOT_STATUS_REASON_B = s.slotReason b % 2 ^ 8) ∧
      (s.slotReason a ≠ 0 → s.slotReason b = 0 → t.rf R.BOOT_STATUS_SLOT = 1) ∧
      (good → t.pwr.fwLoaded = true ∧ t.pwr.imageDone = true ∧
        (s.pwr.trainDone = true → t.pwr.booting = false ∧ t.rf R.PWR_STATE_STATE = 2 ∧ t.rf R.BOOT_STATUS_STATE = 4 ∧ t.mem = []) ∧
        (s.pwr.trainDone = false → t.pwr.booting = true ∧ t.rf R.PWR_STATE_STATE = s.rf R.PWR_STATE_STATE ∧ t.rf R.BOOT_STATUS_STATE = 3)) ∧
      (¬ good → t.rf R.BOOT_STATUS_SLOT = 0xF ∧ t.rf R.BOOT_STATUS_STATE = 5 ∧ t.rf R.BOOT_STATUS_LAST_STATUS = stCHECK_FAIL ∧
        t.pwr = { s.pwr with booting := false } ∧ t.sent = s.sent ++ [.inBand 3]))) ∧
  (∀ (l : List FlashPart) (s : State), s.pwr.off = false → s.pwr.booting = true → s.pwr.trainDone = false →
    Runs (.bootTrainingDone l) s [.bootRegs, .pwrRegs, .tierRegs, .ftlRegs, .cluRegs, .skeinRegs, .cdpRegs, .hbmRegs, .faultRegs, .memory, .marks, .sent, .fault,
        .ports, .power, .tier, .flash] (fun t => t.ftl.parts = l ∧ t.pwr.trainDone = true ∧
      (s.pwr.imageDone = true → t.pwr.booting = false ∧ t.rf R.PWR_STATE_STATE = 2 ∧ t.rf R.PWR_STATE_LAST_CAUSE = s.pwr.bootCause % 2 ^ 8 ∧
        t.rf R.BOOT_STATUS_STATE = 4 ∧ t.mem = [] ∧ t.tier.tables = []) ∧
      (s.pwr.imageDone = false → t.pwr.booting = true ∧ t.mem = s.mem ∧ t.sent = s.sent))) ∧
  (∀ (i : Instr) (v w : BitVec 64) (s : State), s.reach .host = true →
    ((i = .advanceFw .host v ∧ w = v ||| 1#64) ∨ (i = .advanceDev .host v ∧ w = v ||| 2#64) ∨ (i = .revokeFw .host v ∧ w = v) ∨
      (i = .revokeDev .host v ∧ w = v &&& 0xFFFF#64)) →
    Runs i s [.bootRegs, .faultRegs, .logRegs, .logRound, .power] (fun t =>
      let fw := maskBits 4 (bitsOf w.toNat 4 4)
      let dv := maskBits 2 (bitsOf w.toNat 8 2)
      let af := bitsOf w.toNat 0 1 = 1
      let ad := bitsOf w.toNat 1 1 = 1
      let asked := fw ≠ [] ∨ dv ≠ [] ∨ af ∨ ad
      let bad := s.stopped = false ∨ fw.contains (s.rf R.BOOT_IMAGE_FW_KEY_SLOT) = true ∨ dv.contains (s.rf R.BOOT_IMAGE_DEV_KEY_SLOT) = true
      (¬ asked → t.pwr = s.pwr ∧ t.rf R.BOOT_ROLLBACK_STATUS = s.rf R.BOOT_ROLLBACK_STATUS) ∧
      (asked → bad → t.pwr = s.pwr ∧ t.rf R.BOOT_ROLLBACK_STATUS = stBAD_ARG) ∧
      (asked → ¬ bad → t.rf R.BOOT_ROLLBACK_STATUS = stOK ∧ t.pwr = { s.pwr with burns := s.pwr.burns ++
          ((if af ∧ s.rf R.BOOT_FUSES_FW_COUNTER < s.rf R.BOOT_IMAGE_FW_ROLLBACK then [0] else []) ++
            (if ad ∧ s.rf R.BOOT_FUSES_DEV_COUNTER < s.rf R.BOOT_IMAGE_DEV_ROLLBACK then [1] else []) ++ fw.map (16 + ·) ++ dv.map (32 + ·)) }))) ∧
  (∀ s : State, s.pwr.off = false → Runs .fuseBurnDone s [.bootRegs, .power] (fun t =>
      t.pwr = { s.pwr with burns := [] } ∧ t.rf R.BOOT_ROLLBACK_BUSY = 0 ∧
      (s.pwr.burns = [0] → t.rf R.BOOT_FUSES_FW_COUNTER = max (s.rf R.BOOT_FUSES_FW_COUNTER) (s.rf R.BOOT_IMAGE_FW_ROLLBACK) % 2 ^ 8) ∧
      (s.pwr.burns = [1] → t.rf R.BOOT_FUSES_DEV_COUNTER = max (s.rf R.BOOT_FUSES_DEV_COUNTER) (s.rf R.BOOT_IMAGE_DEV_ROLLBACK) % 2 ^ 8) ∧
      (∀ k < 4, s.pwr.burns = [16 + k] → t.rf R.BOOT_FUSES_FW_REVOKED = (s.rf R.BOOT_FUSES_FW_REVOKED ||| 2 ^ k) % 2 ^ 4) ∧
      (∀ k < 2, s.pwr.burns = [32 + k] → t.rf R.BOOT_FUSES_DEV_REVOKED = (s.rf R.BOOT_FUSES_DEV_REVOKED ||| 2 ^ k) % 2 ^ 2))) ∧
  (∀ (slot : Nat) (h : List Byte) (s : State),
    (slot < 2 → (s.rf R.BOOT_FUSES_DEV_KEYS_SET).testBit slot = false → Runs (.deviceKeyFuseBurn slot h) s [.bootRegs, .power] (fun t =>
      t.pwr = { s.pwr with devKeys := s.pwr.devKeys.set slot h } ∧
      t.rf R.BOOT_FUSES_DEV_KEYS_SET = (s.rf R.BOOT_FUSES_DEV_KEYS_SET + 2 ^ slot) % 2 ^ 2)) ∧
    ((s.rf R.BOOT_FUSES_DEV_KEYS_SET).testBit slot = true → exec (.deviceKeyFuseBurn slot h) s = .next s))

/-- R447, R449, R461, R462, R463, R464, R466, R473: a thermal sample is kept at its count, and in READY and RUN the most severe event due acts: a critical
cut goes to AON, an emergency in the training domain abandons the step into HOLD, a trip waits for the bind-off of a step and ends a launch. THERM_STOP
acts as a trip in RUN. The PLL locks to the next FCLK and switches at its count; MET follows VDD. MGMT reads answer a register, a misaligned one zero with BAD_ARG logged (R12), PEAK_READ clears
PEAK_C, and an MGMT write is a register write of eight bytes. -/
def Obligations.HeatClocksAndReads : Prop :=
  (∀ (l : List Int) (s : State), s.pwr.off = false → l.length = 64 → s.phaseLegal →
    ∃ t, exec (.thermalSample l) s = .next t ∧ t.pending = s.pending ∧ t.pwr.temps = l ∧
      let u := (s.advance ((s.row / 1000 + 1) * 1000)).takeSample l
      let crit := u.pwr.critRun.any (2 ≤ ·) = true
      let emerg := u.pwr.emergRun.any (· == 2) = true
      let trip := u.pwr.tripRun.any (· == 10) = true
      t.row = (s.row / 1000 + 1) * 1000 ∧
      (s.rf R.PWR_STATE_STATE < 2 → t = u) ∧
      (2 ≤ s.rf R.PWR_STATE_STATE → crit → t.rf R.PWR_STATE_STATE = 1 ∧ t.rf R.PWR_STATE_LAST_CAUSE = 7 ∧ t.rf R.PWR_THERM_CRIT_SEEN = 1 ∧
        t.phase = phIDLE ∧ t.chart = ChartSt.reset ∧ (u.training = true → t.flagOut = true ∧ t.pwr.critHold = some (s.rf R.STEP_BINDOFF_VALUE))) ∧
      (2 ≤ s.rf R.PWR_STATE_STATE → ¬ crit → emerg → u.training = true → t.phase = phHOLD ∧ t.rf R.STEP_STATUS_HOLD_CAUSE = 2 ∧
        t.step.emergency = true ∧ t.rf R.PWR_STATE_LAST_CAUSE = 6 ∧ t.rf R.PWR_THERM_LAST_EVENT = 2) ∧
      (2 ≤ s.rf R.PWR_STATE_STATE → ¬ crit → ¬ emerg → trip →
        ((u.inStep || u.step.decideDue) = true → t.step = { u.step with thermalPend := true } ∧ t.phase = u.phase) ∧
        ((u.inStep || u.step.decideDue) = false → u.phase = phARMED → t.phase = s.step.prevPhase) ∧
        t.rf R.PWR_THERM_LAST_EVENT = 1) ∧
      (2 ≤ s.rf R.PWR_STATE_STATE → ¬ crit → ¬ emerg → ¬ trip → t = u)) ∧
  (∀ s : State, s.reach .mgmt = true → s.phaseLegal →
    Runs .thermStop s [.pwrRegs, .stepRegs, .streamRegs, .cluRegs, .faultRegs, .logRegs, .sent, .logRound, .step, .fault, .ledgers, .power, .streams,
        .clusters]
      (fun t =>
        (s.rf R.PWR_STATE_STATE ≠ 3 → t.rf R.PWR_MGMT_STATUS = stBAD_ARG ∧ t.phase = s.phase ∧ t.step = s.step ∧ t.sent = s.sent) ∧
        (s.rf R.PWR_STATE_STATE = 3 → t.rf R.PWR_MGMT_STATUS = stOK ∧ t.rf R.PWR_THERM_LAST_EVENT = 4 ∧ t.rf R.PWR_THERM_HOT = s.rf R.PWR_THERM_HOT ∧
          ((s.inStep || s.step.decideDue) = true → t.step = { s.step with thermalPend := true } ∧ t.phase = s.phase) ∧
          ((s.inStep || s.step.decideDue) = false → s.phase = phARMED → t.phase = s.step.prevPhase) ∧
          ((s.inStep || s.step.decideDue) = false → s.phase ≠ phARMED → t.phase = phHOLD ∧ t.rf R.STEP_STATUS_HOLD_CAUSE = 2)))) ∧
  (∀ s : State, s.pwr.off = false → 2 ≤ s.rf R.PWR_STATE_STATE → Runs .pllLock s [.pwrRegs] (fun t =>
      t.rf R.PWR_CLOCK_NEXT_MHZ = s.nextFclk % 2 ^ 16 ∧ OnlyWrites [R.PWR_CLOCK_NEXT_MHZ, R.PWR_CLOCK_SWITCH_AT] s t ∧
      (s.rf R.STEP_NEXT_CASTON_VALUE = 0 → t.rf R.PWR_CLOCK_SWITCH_AT = s.rf R.PWR_CLOCK_SWITCH_AT) ∧
      (s.rf R.STEP_NEXT_CASTON_VALUE ≠ 0 → s.nextFclk % 2 ^ 16 ≠ 0 → s.nextFclk % 2 ^ 16 ≠ s.rf R.PWR_CLOCK_FCLK_MHZ →
        t.rf R.PWR_CLOCK_SWITCH_AT = ((if s.phase = phARMED then s.rf R.SYNC_LAUNCH_COUNT else s.rf R.STEP_NEXT_CASTON_VALUE) - 2048) % 2 ^ 32))) ∧
  (∀ s : State, s.pwr.off = false → s.rf R.PWR_CLOCK_SWITCH_AT ≠ 0 → Runs .fclkSwitch s [.pwrRegs, .stepRegs, .row, .sent, .idleRuns] (fun t =>
      t.rf R.PWR_CLOCK_FCLK_MHZ = s.rf R.PWR_CLOCK_NEXT_MHZ % 2 ^ 16 ∧ t.rf R.PWR_CLOCK_NEXT_MHZ = 0 ∧ t.rf R.PWR_CLOCK_SWITCH_AT = 0 ∧
      s.row ≤ t.row ∧ t.row % 2 ^ 32 = s.rf R.PWR_CLOCK_SWITCH_AT % 2 ^ 32)) ∧
  (∀ (mv : Nat) (s : State), s.pwr.off = false → Runs (.vddMet mv) s [.pwrRegs] (fun t =>
      t.rf R.PWR_SUPPLY_VDD_MV = mv % 2 ^ 16 ∧ t.rf R.PWR_AVS_MET = (if s.rf R.PWR_AVS_REQ_MV ≤ mv % 2 ^ 16 then 1 else 0) ∧
      OnlyWrites [R.PWR_SUPPLY_VDD_MV, R.PWR_AVS_MET] s t)) ∧
  (∀ s : State, s.pwr.off = false → Runs .peakRead s [.pwrRegs, .sent] (fun t => t.rf R.PWR_THERM_PEAK_C = 0 ∧ OnlyWrites [R.PWR_THERM_PEAK_C] s t ∧
      t.sent = s.sent ++ [.answer ((natLe 8 (s.readReg 0x20028)).map (fun b => (b, false)))])) ∧
  (∀ (off : BitVec 24) (d : BitVec 64) (s : State), s.reach .mgmt = true →
    exec (.mgmtAccess true off d) s = exec (.registerWrite .mgmt off (.wr 8) d) s ∧
    Runs (.mgmtAccess false off d) s [.pwrRegs, .faultRegs, .logRegs, .sent, .logRound] (fun t =>
      (off.toNat % 8 = 0 → off.toNat < 0x800000 → t.sent = s.sent ++ [.answer ((natLe 8 (s.readReg off.toNat)).map (fun b => (b, false)))]) ∧
      (off.toNat % 8 ≠ 0 ∨ 0x800000 ≤ off.toNat → t.sent = s.sent ++ [.answer (List.replicate 8 (0, false))]) ∧
      (off.toNat % 8 = 0 → OnlyChanges [.pwrRegs, .sent] s t ∧ (off ≠ 0x20028#24 → OnlyWrites [] s t)) ∧
      (off.toNat % 8 ≠ 0 → s.sameEvent stBAD_ARG (off.toNat / 65536 % 256) 0 off.toNat = false →
        t.rf (R.FAULT_LOG_W1_STATUS (s.rf R.FAULT_LOG_PTR_HEAD)) = stBAD_ARG)))

/-- Commands complete with the effect of their own. R9, R10: a write of a plain RW field leaves its bits there, one of a W1C flag clears it where it writes
one. R444, R443: a unit with a use ahead wakes, one that may be gated is off. R239, R310, R315: an update chunk starts and ends, an accumulator is cleared.
R210, R211: WAITPACE and WAITSEM pass when what they ask for is there. R231, R249, R404, R132: rounds and pauses begin and end, counters are cleared.
R282, R281, R280, R259: a lookup is answered, a page changes its bias, a line comes back, a table entry is lost. R447, R461, R462, R473: heat,
clocks, and reads over MGMT. R367, R368, R370, R371: a queue's NOP, reserved opcode, FENCE and WRITE in its turn are taken and complete with their status,
a FENCE behind commands still under way once those have. -/
def Obligations.CommandsComplete : Prop :=
  ((∀ (off : BitVec 24) (f : Fld) (v : BitVec 64) (s : State), s.reach .host = true → f.off = off.toNat →
    (f = R.TIER_MAP_OA_PAGE ∨ f = R.TIER_POOL_LOW ∨
      (∃ m : Fin 64, f = R.TIER_PEER_VALID m.val ∨ f = R.TIER_PEER_PAGES m.val ∨ f = R.TIER_PEER_BASE m.val) ∨
      (∃ k : Fin 2048, f = R.MSIX_ADDR_ADDR k.val) ∨ (∃ k : Fin 8192, f = R.CXL_COMP_VALUE k.val)) →
    ∃ t, exec (.registerWrite .host off (.wr 8) v) s = .next t ∧ t.rf f = bitsOf v.toNat f.lo f.w) ∧
  (∀ (off : BitVec 24) (f : Fld) (v : BitVec 64) (s : State), s.reach .host = true → f.off = off.toNat →
    (f = R.TIER_ERR_PEER_REFUSED ∨ f = R.FTL_ERR_UNCORRECTABLE ∨ f = R.SYNC_ERR_UNEXPECTED ∨ (∃ p : Fin 36, f = R.CLU_ERR_REPLAYED p.val) ∨
      (∃ p : Fin 72, f = R.SKEIN_ERR_BLOCK_FAIL p.val) ∨ (∃ p : Fin 4, f = R.CDP_ERR_HELLO_FAIL p.val)) →
    ∃ t, exec (.registerWrite .host off (.wr 8) v) s = .next t ∧ (v.toNat.testBit f.lo = true → s.rf f = 1 → t.rf f = 0) ∧
      (v.toNat.testBit f.lo = false → s.rf f < 2 → t.rf f = s.rf f))) ∧
  ((∀ (u : BitVec 16) (use : Nat) (s : State), s.pwr.off = false → 2 ≤ s.rf R.PWR_STATE_STATE → s.pwr.awake.contains u.toNat = false →
    s.nextUse u.toNat = some use → ∃ t, exec (.unitWake u) s = .next t ∧ t.pwr.waking.contains u.toNat = true) ∧
  (∀ (u : BitVec 16) (s : State), s.pwr.off = false → s.mayGate u.toNat = true →
    ∃ t, exec (.unitGate u) s = .next t ∧ t.pwr.awake.contains u.toNat = false ∧ t.pwr.waking.contains u.toNat = false)) ∧
  ((∀ (e : Nat) (peers : List Byte) (s : State) (ce : CluEntry) (us : List Nat), s.chunkEntry e = some ce → s.planRuns = true →
    s.clu.left.contains e = true → s.spanUnits ce.first (fieldLe s.updProg 6 1) = some us →
    ∃ t, exec (.updateChunk e peers) s = .next t ∧ t.row = max s.row (s.cluAt ce.start) ∧ t.clu.left.contains e = false ∧
      (t.clu.running.any fun p => p.1 == e) = true) ∧
  (∀ (e : Nat) (s : State) (ce : CluEntry) (us : List Nat), s.chunkEntry e = some ce → s.planRuns = true →
    (s.clu.running.any fun p => p.1 == e) = true → s.spanUnits ce.first (fieldLe s.updProg 6 1) = some us →
    s.groupExtent (uGroup s.updProg ce.tensor).group ≠ 0 →
    s.overdueUnit us (s.cluAt ce.start + s.cycleTicks (updCycles (fieldLe s.updProg 6 1) (uGroup s.updProg ce.tensor) ce.slice)) = none →
    ∃ t, exec (.updateChunkDone e) s = .next t ∧ t.rf R.STEP_UPDATE_CHUNKS = (s.rf R.STEP_UPDATE_CHUNKS + 1) % 2 ^ 32 ∧
      (t.clu.running.any fun p => p.1 == e) = false) ∧
  (∀ (a : Nat) (s : State), s.planRuns = true → s.inStep = true →
    leastBy (fun x => (accDesc s.updProg x).clear) ((upTo (fieldLe s.updProg 0 2)).filter
      (fun x => (accDesc s.updProg x).clear != 0 && !s.upd.cleared.contains x)) = some a →
    ∃ t, exec .accumulatorClear s = .next t ∧ t.upd.cleared.contains a = true)) ∧
  ((∀ (n : Fin 16384) (s : State), s.atOp n.val opWAITPACE = true → (fieldLe (s.unit n.val) 2 2 : Int) ≤ s.paceDiff n.val →
    ∃ t, exec (.waitpace n) s = .next t ∧ Passed n.val (s.rf (R.STREAM_RUN_PC n.val) + 1) s t ∧
      t.rf (R.STREAM_RUN_PACE_USED n.val) = (s.rf (R.STREAM_RUN_PACE_USED n.val) + fieldLe (s.unit n.val) 2 2) % 2 ^ 16) ∧
  (∀ (n : Fin 16384) (s : State), s.atOp n.val opWAITSEM = true → s.semPasses n.val = true →
    ∃ t, exec (.waitsem n) s = .next t ∧ Passed n.val (s.rf (R.STREAM_RUN_PC n.val) + 1) s t) ∧
  (∀ (n : Fin 16384) (s : State), s.atOp n.val opWAITSEM = true → s.rf (R.STREAM_RUN_WAIT n.val) = wtSEM → s.semPasses n.val = true →
    ∃ t, exec (.waitsemPass n) s = .next t ∧ Passed n.val (s.rf (R.STREAM_RUN_PC n.val) + 1) s t)) ∧
  ((∀ s : State, s.pwr.off = false → s.inPlan = true →
    ∃ t, exec .roundEnd s = .next t ∧ t.row = max s.row (s.planC + ((s.row - s.planC) / 32 + 1) * 32)) ∧
  (∀ s : State, s.pwr.off = false → s.inPlan = true → s.fault.pauseEnd = none → s.fault.peerPause = false → 0 < s.fault.pauseWant →
    ∃ t, exec .pauseBegin s = .next t ∧ t.rf R.FAULT_STATUS_PAUSED = 1 ∧ t.paused = true) ∧
  (∀ (e : Nat) (s : State), s.fault.pauseEnd = some e → (∀ p : Fin 4, s.rf (R.CDP_STATUS_STATE p.val) ≠ 5) → s.peerWaits = false →
    ∃ t, exec .pauseEnd s = .next t ∧ t.row = max s.row e ∧ t.rf R.FAULT_STATUS_PAUSED = 0 ∧ t.paused = false) ∧
  (∀ s : State, s.pwr.off = false → s.inPlan = false →
    ∃ t, exec .idleCumPeriod s = .next t ∧ t.row = s.row / 32 * 32 + 32 ∧ t.idleRun = []) ∧
  (∀ (v : BitVec 64) (s : State), s.reach .host = true → (s.inStep || s.step.figDue) = false →
    (∃ t, exec (.gaugeClear .host v) s = .next t ∧ ∀ k : Fin 256, t.rf (R.GAUGE_CUM_COUNT k.val) = 0) ∧
    (∃ t, exec (.tensionClear .host v) s = .next t ∧ ∀ k : Fin 16, t.rf (R.TENSION_CUM_COUNT k.val) = 0) ∧
    (∃ t, exec (.idleClear .host v) s = .next t ∧ ∀ c : Fin 8, t.rf (R.IDLE_CUM_TICKS c.val) = 0))) ∧
  ((∀ (v : BitVec 64) (s : State), s.reach .host = true →
    ∃ t, exec (.tierLookup .host v) s = .next t ∧ t.rf R.TIER_LOOKUP_OA_PAGE = bitsOf v.toNat 21 31) ∧
  (∀ (v : BitVec 64) (e : Ent) (s : State), s.reach .host = true → s.rf R.TIER_BIAS_CMD_BUSY ≠ 1 → s.entOf (bitsOf v.toNat 21 31) = some e →
    e.cache = true → s.pageOwner (bitsOf v.toNat 21 31) = 1 →
    (∃ t, exec (.biasToHost .host v) s = .next t ∧ t.tier.biasCmd = some (bitsOf v.toNat 21 31, true) ∧ t.rf R.TIER_BIAS_CMD_STATUS = stOK) ∧
    (∃ t, exec (.biasToDevice .host v) s = .next t ∧ t.tier.biasCmd = some (bitsOf v.toNat 21 31, false) ∧ t.rf R.TIER_BIAS_CMD_STATUS = stOK)) ∧
  (∀ (page : Nat) (up : Bool) (s : State) (e : Ent), s.tier.biasCmd = some (page, up) → (up = true → s.hostBlockAt page = false) →
    (up = false → (s.tier.waitLine.any fun l => l / 32768 == page) = false) → s.entOf page = some e → s.rf R.TIER_STATUS_MODE = 1 →
    e.page < 253952 → ∃ t, exec .biasChangeDone s = .next t ∧ t.bias e.page = up ∧ t.tier.biasCmd = none) ∧
  (∀ (oa : BitVec 52) (dir : Bool) (s : State), 2 ≤ s.rf R.PWR_STATE_STATE →
    ∃ t, exec (.mapMemoryError ⟨oa, dir⟩) s = .next t ∧ t.entOf (oa.toNat / 2 ^ 21) = none ∧ t.rf R.TIER_ERR_TABLE_ERR = 1) ∧
  (∀ (l : BitVec 64) (s : State), s.tier.waitLine.contains l.toNat = true → (∀ n ∈ s.usedCtx, s.sst n ≠ ssSTOPPING) →
    ∃ t, exec (.backInvalidateAnswer l) s = .next t ∧ t.tier.waitLine.contains l.toNat = false)) ∧
  ((∀ (l : List Int) (s : State), s.pwr.off = false → l.length = 64 → s.phaseLegal →
    ∃ t, exec (.thermalSample l) s = .next t ∧ t.pwr.temps = l ∧ t.row = (s.row / 1000 + 1) * 1000) ∧
  (∀ s : State, s.reach .mgmt = true → s.phaseLegal → s.rf R.PWR_STATE_STATE = 3 →
    ∃ t, exec .thermStop s = .next t ∧ t.rf R.PWR_MGMT_STATUS = stOK ∧ t.rf R.PWR_THERM_LAST_EVENT = 4) ∧
  (∀ s : State, s.pwr.off = false → 2 ≤ s.rf R.PWR_STATE_STATE →
    ∃ t, exec .pllLock s = .next t ∧ t.rf R.PWR_CLOCK_NEXT_MHZ = s.nextFclk % 2 ^ 16) ∧
  (∀ s : State, s.pwr.off = false → s.rf R.PWR_CLOCK_SWITCH_AT ≠ 0 →
    ∃ t, exec .fclkSwitch s = .next t ∧ t.rf R.PWR_CLOCK_FCLK_MHZ = s.rf R.PWR_CLOCK_NEXT_MHZ % 2 ^ 16) ∧
  (∀ (mv : Nat) (s : State), s.pwr.off = false →
    ∃ t, exec (.vddMet mv) s = .next t ∧ t.rf R.PWR_AVS_MET = (if s.rf R.PWR_AVS_REQ_MV ≤ mv % 2 ^ 16 then 1 else 0)) ∧
  (∀ s : State, s.pwr.off = false → ∃ t, exec .peakRead s = .next t ∧ t.rf R.PWR_THERM_PEAK_C = 0 ∧
    t.sent = s.sent ++ [.answer ((natLe 8 (s.readReg 0x20028)).map (fun b => (b, false)))]) ∧
  (∀ (off : BitVec 24) (d : BitVec 64) (s : State), s.reach .mgmt = true → off.toNat % 8 = 0 → off.toNat < 0x800000 →
    ∃ t, exec (.mgmtAccess false off d) s = .next t ∧
      t.sent = s.sent ++ [.answer ((natLe 8 (s.readReg off.toNat)).map (fun b => (b, false)))])) ∧
  ((∀ (q : Fin 64) (e : List Byte) (s : State), s.linkUp = true → s.nextQueue = some q.val → fieldLe e 0 1 = 0 → s.queueSettled q.val →
    ∃ t, exec (.cmdNop q e) s = .next t ∧ s.Completed q.val e (if cmdHeaderOk e && allZero e 0x10 48 then stOK else stBAD_ARG) t) ∧
  (∀ (q : Fin 64) (e : List Byte) (s : State), s.linkUp = true → s.nextQueue = some q.val → 5 ≤ fieldLe e 0 1 → s.queueSettled q.val →
    ∃ t, exec (.cmdReserved q e) s = .next t ∧ s.Completed q.val e stBAD_ARG t) ∧
  (∀ (q : Fin 64) (e : List Byte) (s : State), s.linkUp = true → s.nextQueue = some q.val → fieldLe e 0 1 = 4 → s.queueSettled q.val →
    ∃ t, exec (.cmdFence q e) s = .next t ∧
      ((cmdHeaderOk e && allZero e 0x10 48) = false → s.Completed q.val e stBAD_ARG t) ∧
      ((cmdHeaderOk e && allZero e 0x10 48) = true → (∀ c ∈ s.host.taken, c.q ≠ q.val) → s.Completed q.val e stOK t) ∧
      ((cmdHeaderOk e && allZero e 0x10 48) = true → (∃ c ∈ s.host.taken, c.q = q.val) → t.sent = s.sent ∧
        t.host.taken = s.host.taken ++ [⟨q.val, 4, fieldLe e 2 2, fieldLe e 4 2, (s.rf (R.HQ_Q_STATUS_SQ_HEAD q.val) + 1) % s.sqSize q.val⟩])) ∧
  (∀ (q : Fin 64) (e : List Byte) (s : State), s.linkUp = true → s.nextQueue = some q.val → fieldLe e 0 1 = 3 → s.queueSettled q.val →
    ∃ (t : State) (st : Nat), exec (.cmdWrite q e) s = .next t ∧ s.Completed q.val e st t ∧
      ((cmdHeaderOk e && fieldLe e 0x10 8 / 2 ^ 52 == 0 && allZero e 0x18 40) = false → st = stBAD_ARG ∧ t.mem = s.mem) ∧
      ((cmdHeaderOk e && fieldLe e 0x10 8 / 2 ^ 52 == 0 && allZero e 0x18 40) = true → fieldLe e 8 1 = 0 → st = stOK ∧ t.mem = s.mem)))
end

