-- ==== Sys2Proof/Laws/SMap.lean ====
section
/-! SUPPORT. Laws/SMap.lean: sparse maps: a read after a write, and that every operation keeps the canonical form. -/

namespace Sys2Proof.Machine

variable {α : Type}

/-- A key that no pair lists reads as its default. -/
theorem SMap.get_absent (d : Nat → α) (l : List (Nat × α)) (k : Nat) (h : ∀ p ∈ l, p.1 ≠ k) : SMap.get d l k = d k := by
  induction l with
  | nil => rfl
  | cons p t ih =>
    have h1 : p.1 ≠ k := h p (List.mem_cons_self ..)
    simp only [SMap.get, h1, if_false]
    exact ih (fun q hq => h q (List.mem_cons_of_mem _ hq))

/-- Taking one key out leaves the other keys' values. -/
theorem SMap.get_del (d : Nat → α) (l : List (Nat × α)) (k j : Nat) :
    SMap.get d (SMap.del l k) j = if j = k then d j else SMap.get d l j := by
  induction l with
  | nil => simp [SMap.del, SMap.get]
  | cons p t ih =>
    obtain ⟨i, v⟩ := p
    unfold SMap.del at ih ⊢
    by_cases hi : i = k
    · subst hi
      simp only [List.filter_cons, ne_eq, not_true_eq_false, decide_false, Bool.false_eq_true, if_false, ih, SMap.get]
      by_cases hj : j = i
      · simp [hj]
      · simp [hj, Ne.symm hj]
    · simp only [List.filter_cons, ne_eq, hi, not_false_eq_true, decide_true, if_true, SMap.get, ih]
      by_cases hj : i = j
      · subst hj; simp [hi]
      · simp [hj]

/-- A pair put in front of an absent key reads back, and the other keys are as before. -/
theorem SMap.get_ins (d : Nat → α) (l : List (Nat × α)) (k j : Nat) (v : α) (h : ∀ p ∈ l, p.1 ≠ k) :
    SMap.get d (SMap.ins k v l) j = if j = k then v else SMap.get d l j := by
  induction l with
  | nil =>
    by_cases hj : j = k
    · simp [SMap.ins, SMap.get, hj]
    · simp [SMap.ins, SMap.get, hj, Ne.symm hj]
  | cons p t ih =>
    obtain ⟨i, w⟩ := p
    have hi : i ≠ k := h (i, w) (List.mem_cons_self ..)
    have ih' := ih (fun q hq => h q (List.mem_cons_of_mem _ hq))
    unfold SMap.ins
    split
    · by_cases hj : j = k
      · simp [SMap.get, hj]
      · simp [SMap.get, hj, Ne.symm hj]
    · simp only [SMap.get, ih']
      by_cases hj : i = j
      · subst hj; simp [hi]
      · simp [hj]

/-- No pair of a list without a key names it. -/
theorem SMap.not_mem_del (l : List (Nat × α)) (k : Nat) : ∀ p ∈ SMap.del l k, p.1 ≠ k := by
  intro p hp
  simpa using (List.mem_filter.mp hp).2

/-- A map read after one key is written. -/
theorem SMap.get_put [DecidableEq α] (d : Nat → α) (l : List (Nat × α)) (k j : Nat) (v : α) :
    SMap.get d (SMap.put d l k v) j = if j = k then v else SMap.get d l j := by
  unfold SMap.put
  split
  · rename_i hv
    rw [SMap.get_del]
    by_cases hj : j = k
    · simp [hj, hv]
    · simp [hj]
  · rw [SMap.get_ins _ _ _ _ _ (SMap.not_mem_del l k), SMap.get_del]
    by_cases hj : j = k <;> simp [hj]

/-- The canonical form said pair by pair: no default is listed, and keys rise strictly. -/
theorem SMap.wf_iff [DecidableEq α] (d : Nat → α) (l : List (Nat × α)) :
    SMap.wf d l = true ↔ (∀ p ∈ l, p.2 ≠ d p.1) ∧ l.Pairwise (fun p q => p.1 < q.1) := by
  induction l with
  | nil => simp [SMap.wf]
  | cons p t ih =>
    obtain ⟨k, v⟩ := p
    cases t with
    | nil => simp [SMap.wf]
    | cons q u =>
      obtain ⟨j, w⟩ := q
      simp only [SMap.wf, Bool.and_eq_true, decide_eq_true_eq, ih]
      constructor
      · rintro ⟨⟨h1, h2⟩, h3, h4⟩
        refine ⟨?_, ?_⟩
        · intro r hr
          rcases List.mem_cons.mp hr with rfl | hr
          · exact h1
          · exact h3 r hr
        · refine List.Pairwise.cons ?_ h4
          intro r hr
          rcases List.mem_cons.mp hr with rfl | hr
          · exact h2
          · exact Nat.lt_trans h2 (List.rel_of_pairwise_cons h4 hr)
      · rintro ⟨h1, h2⟩
        exact ⟨⟨h1 _ (List.mem_cons_self ..), List.rel_of_pairwise_cons h2 (List.mem_cons_self ..)⟩,
          fun r hr => h1 r (List.mem_cons_of_mem _ hr), h2.of_cons⟩

/-- A filtered map keeps its canonical form. -/
theorem SMap.wf_filter [DecidableEq α] (d : Nat → α) (l : List (Nat × α)) (f : Nat × α → Bool) (h : SMap.wf d l = true) :
    SMap.wf d (l.filter f) = true := by
  rw [SMap.wf_iff] at h ⊢
  exact ⟨fun p hp => h.1 p (List.mem_filter.mp hp).1, h.2.filter f⟩

/-- The pairs of a map with a pair put in. -/
theorem SMap.mem_ins (k : Nat) (v : α) (l : List (Nat × α)) (p : Nat × α) : p ∈ SMap.ins k v l ↔ p = (k, v) ∨ p ∈ l := by
  induction l with
  | nil => simp [SMap.ins]
  | cons q t ih =>
    obtain ⟨j, w⟩ := q
    unfold SMap.ins
    split
    · simp
    · simp only [List.mem_cons, ih]
      tauto

/-- A pair put in front of the first greater key keeps the keys rising. -/
theorem SMap.pairwise_ins (k : Nat) (v : α) (l : List (Nat × α)) (h : l.Pairwise (fun p q => p.1 < q.1)) (hk : ∀ p ∈ l, p.1 ≠ k) :
    (SMap.ins k v l).Pairwise (fun p q => p.1 < q.1) := by
  induction l with
  | nil => simp [SMap.ins]
  | cons q t ih =>
    obtain ⟨j, w⟩ := q
    have hj : j ≠ k := hk (j, w) (List.mem_cons_self ..)
    unfold SMap.ins
    split
    · rename_i hlt
      refine List.Pairwise.cons ?_ h
      intro r hr
      rcases List.mem_cons.mp hr with rfl | hr
      · exact hlt
      · exact Nat.lt_trans hlt (List.rel_of_pairwise_cons h hr)
    · rename_i hge
      refine List.Pairwise.cons ?_ (ih h.of_cons (fun p hp => hk p (List.mem_cons_of_mem _ hp)))
      intro r hr
      rcases (SMap.mem_ins k v t r).mp hr with rfl | hr
      · show j < k
        omega
      · exact List.rel_of_pairwise_cons h hr

/-- Writing one key keeps the canonical form. -/
theorem SMap.wf_put [DecidableEq α] (d : Nat → α) (l : List (Nat × α)) (k : Nat) (v : α) (h : SMap.wf d l = true) :
    SMap.wf d (SMap.put d l k v) = true := by
  have hd : SMap.wf d (SMap.del l k) = true := SMap.wf_filter d l _ h
  unfold SMap.put
  split
  · exact hd
  · rename_i hv
    rw [SMap.wf_iff] at hd ⊢
    refine ⟨?_, SMap.pairwise_ins k v _ hd.2 (SMap.not_mem_del l k)⟩
    intro p hp
    rcases (SMap.mem_ins k v _ p).mp hp with rfl | hp
    · exact hv
    · exact hd.1 p hp

/-- A map read after its pairs are filtered by key: a key that is kept reads as before, another as its default. -/
theorem SMap.get_filter (d : Nat → α) (l : List (Nat × α)) (f : Nat → Bool) (j : Nat) :
    SMap.get d (l.filter (fun p => f p.1)) j = if f j = true then SMap.get d l j else d j := by
  induction l with
  | nil => simp [SMap.get]
  | cons p t ih =>
    obtain ⟨i, v⟩ := p
    by_cases hf : f i = true
    · simp only [List.filter_cons, hf, if_true, SMap.get, ih]
      by_cases hj : i = j
      · subst hj; simp [hf]
      · simp [hj]
    · have hf' : f i = false := by simpa using hf
      simp only [List.filter_cons, hf', Bool.false_eq_true, if_false, ih, SMap.get]
      by_cases hj : i = j
      · subst hj; simp [hf']
      · simp [hj]

end Sys2Proof.Machine
end

