-- ==== Sys2Proof/Laws/Frame.lean ====
section
/-! SUPPORT. Laws/Frame.lean: what every operation of the block leaves alone. `Does m s t` says that going from s to t leaves the queue,
never takes back a message sent or a free value taken, keeps a well-kept state well kept, and changes only the parts whose bits `m`
sets. Every operation of Machine/ has one lemma that says it of the operation (Laws/Frame*.lean). -/

namespace Sys2Proof.Machine

/-- The block of a field whose cell lies at bit `lo < 64` of its register. -/
theorem Fld.blk_eq (o lo w : Nat) (h : lo < 64) : Fld.blk ⟨o, lo, w⟩ = blockOf o := by
  unfold Fld.blk Fld.key
  congr 1
  show (o * 64 + lo) / 64 = o
  omega

/-- The blocks follow one another in offset order. -/
theorem blockOf_mono {a b : Nat} (h : a ≤ b) : blockOf a ≤ blockOf b := by
  unfold blockOf
  refine List.countP_mono_left ?_
  intro x _ hx
  simp only [decide_eq_true_eq] at hx ⊢
  omega

/-- The block of an element of an array that begins and ends in one block. -/
theorem Fld.blk_elem (b st i c lo w k : Nat) (h : lo < 64) (hc : 0 < c) (h1 : blockOf b = k) (h2 : blockOf (b + st * (c - 1)) = k) :
    Fld.blk ⟨b + st * (i % c), lo, w⟩ = k := by
  rw [Fld.blk_eq _ _ _ h]
  have hi : i % c ≤ c - 1 := by have := Nat.mod_lt i hc; omega
  have hlo : blockOf b ≤ blockOf (b + st * (i % c)) := blockOf_mono (by omega)
  have hhi : blockOf (b + st * (i % c)) ≤ blockOf (b + st * (c - 1)) :=
    blockOf_mono (Nat.add_le_add_left (Nat.mul_le_mul_left st hi) b)
  omega

/-- A register field after one is written. -/
theorem State.rf_set (s : State) (f g : Fld) (v : Nat) :
    (s.set f v).rf g = if g.key = f.key then v % 2 ^ f.w else s.rf g := by
  simp only [State.rf, State.set, SMap.get_put]

/-- The field written reads back, cut to its width. -/
theorem State.rf_set_same (s : State) (f : Fld) (v : Nat) : (s.set f v).rf f = v % 2 ^ f.w := by simp [State.rf_set]

/-- Another field reads as before. -/
theorem State.rf_set_of_ne (s : State) (f g : Fld) (v : Nat) (h : g.key ≠ f.key) : (s.set f v).rf g = s.rf g := by
  simp [State.rf_set, h]

/-- What every operation does: see the head of this file. -/
structure Does (m : Nat) (s t : State) : Prop where
  pending : t.pending = s.pending
  sent    : s.sent <+: t.sent
  free    : s.free ≤ t.free
  kept    : s.WellKept → t.WellKept
  frame   : ∀ p : Part, m.testBit p.idx = false → p.same s t

/-- Nothing changes nothing. -/
theorem Does.rfl' (m : Nat) (s : State) : Does m s s where
  pending := rfl
  sent := List.prefix_refl _
  free := Nat.le_refl _
  kept := id
  frame := by
    intro p _
    cases p <;> first | rfl | exact ⟨rfl, rfl⟩ | exact ⟨rfl, rfl, rfl⟩ | exact fun _ => rfl | exact fun _ _ => rfl

/-- A part that two steps leave alone is left alone by both together. -/
theorem Part.same_trans (p : Part) {s t u : State} (h1 : p.same s t) (h2 : p.same t u) : p.same s u := by
  cases p <;> first
    | exact Eq.trans h2 h1
    | exact ⟨h2.1.trans h1.1, h2.2.trans h1.2⟩
    | exact ⟨h2.1.trans h1.1, h2.2.1.trans h1.2.1, h2.2.2.trans h1.2.2⟩
    | exact fun a => (h2 a).trans (h1 a)
    | exact fun f hf => (h2 f hf).trans (h1 f hf)

/-- One operation after another. -/
theorem Does.trans {m : Nat} {s t u : State} (h1 : Does m s t) (h2 : Does m t u) : Does m s u where
  pending := h2.pending.trans h1.pending
  sent := h1.sent.trans h2.sent
  free := Nat.le_trans h1.free h2.free
  kept := fun h => h2.kept (h1.kept h)
  frame := fun p hp => p.same_trans (h1.frame p hp) (h2.frame p hp)

/-- Every bit of `a` is a bit of `m`. -/
def subMask (a m : Nat) : Bool := a &&& m == a

/-- A mask may grow. -/
theorem Does.mono {a m : Nat} {s t : State} (hm : subMask a m = true) (h : Does a s t) : Does m s t where
  pending := h.pending
  sent := h.sent
  free := h.free
  kept := h.kept
  frame := by
    intro p hp
    refine h.frame p ?_
    have hm' : a &&& m = a := by simpa [subMask] using hm
    have := congrArg (fun x => Nat.testBit x p.idx) hm'
    simp only [Nat.testBit_and, hp, Bool.and_false] at this
    exact this.symm

/-- After an operation of mask `a`, when its bits are bits of `m`. -/
theorem Does.after {a m : Nat} {s u t : State} (ht : Does a u t) (hm : subMask a m = true) (h : Does m s u) : Does m s t :=
  h.trans (ht.mono hm)

/-- A choice between two ways on. -/
theorem Does.ite {m : Nat} {s a b : State} {c : Prop} {d : Decidable c} (ha : Does m s a) (hb : Does m s b) :
    Does m s (if c then a else b) := by split <;> assumption

/-- A state on the way. -/
theorem Does.cut {m : Nat} {s u : State} (x : State) (h1 : Does m s x) (h2 : Does m s x → Does m s u) : Does m s u := h2 h1

/-- A state on the way, within something that carries it. -/
theorem Does.cutOf {γ : Type} {m : Nat} {s u : State} (g : γ → State) (x : γ) (h1 : Does m s (g x)) (h2 : Does m s (g x) → Does m s u) :
    Does m s u := h2 h1

/-- An operation taken for each element of a list. -/
theorem Does.foldl {β : Type} {m : Nat} {s u : State} (l : List β) (f : State → β → State) (h : Does m s u)
    (hf : ∀ v x, Does m s v → Does m s (f v x)) : Does m s (l.foldl f u) := by
  induction l generalizing u with
  | nil => exact h
  | cons x t ih => exact ih (hf u x h)

/-- The same for a list of numbers. -/
theorem Does.forEach {m : Nat} {s u : State} (l : List Nat) (f : State → Nat → State) (h : Does m s u)
    (hf : ∀ v x, Does m s v → Does m s (f v x)) : Does m s (u.forEach l f) := Does.foldl l f h hf

/-- A fold that carries a state and something beside it. -/
theorem Does.foldlFst {β γ : Type} {m : Nat} {s : State} (l : List β) (f : State × γ → β → State × γ) (u : State × γ)
    (h : Does m s u.1) (hf : ∀ v x, Does m s v.1 → Does m s (f v x).1) : Does m s (l.foldl f u).1 := by
  induction l generalizing u with
  | nil => exact h
  | cons x t ih => exact ih (f u x) (hf u x h)

/-- A fold over any carrier with a state in it. -/
theorem Does.foldlOf {β γ : Type} {m : Nat} {s : State} (g : γ → State) (l : List β) (f : γ → β → γ) (u : γ)
    (h : Does m s (g u)) (hf : ∀ v x, Does m s (g v) → Does m s (g (f v x))) : Does m s (g (l.foldl f u)) := by
  induction l generalizing u with
  | nil => exact h
  | cons x t ih => exact ih (f u x) (hf u x h)

/-! ## The writers -/

/-- Whether a field is neither the phase nor the power state. -/
def Fld.plain (f : Fld) : Prop := f.key ≠ R.STEP_STATUS_PHASE.key ∧ f.key ≠ R.PWR_STATE_STATE.key

/-- A field outside the blocks STEP and PWR is plain. -/
theorem Fld.plain_of_blk {f : Fld} (h4 : f.blk ≠ 4) (h2 : f.blk ≠ 2) : f.plain := by
  refine ⟨?_, ?_⟩ <;> intro h
  · exact h4 (by unfold Fld.blk; rw [h]; decide)
  · exact h2 (by unfold Fld.blk; rw [h]; decide)

/-- Two fields of different blocks have different cells. -/
theorem Fld.key_ne_of_blk {f g : Fld} (h : g.blk ≠ f.blk) : g.key ≠ f.key := by
  intro e
  exact h (by unfold Fld.blk; rw [e])

/-- The frame of a write to the register file whose other fields read as before. -/
theorem Does.ofRegs {m : Nat} {s : State} (r : List (Nat × Nat)) (k : Nat) (hm : m.testBit k = true)
    (hr : ∀ f : Fld, f.blk ≠ k → ({ s with regs := r } : State).rf f = s.rf f)
    (hkept : s.WellKept → ({ s with regs := r } : State).WellKept) : Does m s { s with regs := r } where
  pending := rfl
  sent := List.prefix_refl _
  free := Nat.le_refl _
  kept := hkept
  frame := by
    intro p hp
    have hne : p.idx ≠ k := by
      intro e
      rw [e, hm] at hp
      exact Bool.noConfusion hp
    cases p <;> first
      | rfl
      | exact ⟨rfl, rfl⟩
      | exact ⟨rfl, rfl, rfl⟩
      | exact fun a => rfl
      | exact fun f hf => hr f (by rw [hf]; exact hne)

/-- A register field written: the blocks other than the field's read as before, and the state stays well kept if the field is neither the
phase nor the power state, or takes a legal value. -/
theorem Does.setOf {m : Nat} {s : State} (f : Fld) (v : Nat) (hm : m.testBit f.blk = true)
    (hp : f.plain ∨ (f = R.STEP_STATUS_PHASE ∧ v ≤ 9) ∨ (f = R.PWR_STATE_STATE ∧ 1 ≤ v ∧ v ≤ 3)) : Does m s (s.set f v) := by
  refine Does.ofRegs _ f.blk hm ?_ ?_
  · intro g hg
    exact s.rf_set_of_ne f g v (Fld.key_ne_of_blk hg)
  · intro h
    refine ⟨SMap.wf_put _ _ _ _ h.regs, h.mem, h.ports, ⟨?_, h.phase.2⟩, ?_⟩
    · show (s.set f v).rf R.STEP_STATUS_PHASE ≤ phHOLD
      rw [State.rf_set]
      rcases hp with hp | ⟨rfl, hv⟩ | ⟨rfl, _, _⟩
      · rw [if_neg (Ne.symm hp.1)]
        exact h.phase.1
      · rw [if_pos rfl]
        have : v % 2 ^ R.STEP_STATUS_PHASE.w ≤ v := Nat.mod_le ..
        show v % 2 ^ R.STEP_STATUS_PHASE.w ≤ 9
        omega
      · rw [if_neg (by decide)]
        exact h.phase.1
    · show 1 ≤ (s.set f v).rf R.PWR_STATE_STATE ∧ (s.set f v).rf R.PWR_STATE_STATE ≤ 3
      rw [State.rf_set]
      rcases hp with hp | ⟨rfl, _⟩ | ⟨rfl, h1, h3⟩
      · rw [if_neg (Ne.symm hp.2)]
        exact h.power
      · rw [if_neg (by decide)]
        exact h.power
      · rw [if_pos rfl]
        show 1 ≤ v % 16 ∧ v % 16 ≤ 3
        omega

/-- Whether a field may be written under a mask: its block is in the mask, and it is neither the phase nor the power state. -/
def okField (f : Fld) (m : Nat) : Bool :=
  m.testBit f.blk && f.key != R.STEP_STATUS_PHASE.key && f.key != R.PWR_STATE_STATE.key

/-- A field of a block other than STEP and PWR. -/
theorem ok_far {f : Fld} {m : Nat} (k : Nat) (hk : f.blk = k) (h : (k != 4 && k != 2) = true) (hm : m.testBit k = true) :
    okField f m = true := by
  simp only [Bool.and_eq_true, bne_iff_ne, ne_eq] at h
  have hp := Fld.plain_of_blk (f := f) (by rw [hk]; exact h.1) (by rw [hk]; exact h.2)
  simp only [okField, hk, hm, Bool.true_and, Bool.and_eq_true, bne_iff_ne, ne_eq]
  exact hp

/-- A field of STEP or PWR at a fixed offset. -/
theorem ok_near {f : Fld} {m : Nat} (k : Nat) (hk : f.blk = k)
    (hp : f.key ≠ R.STEP_STATUS_PHASE.key ∧ f.key ≠ R.PWR_STATE_STATE.key) (hm : m.testBit k = true) : okField f m = true := by
  simp only [okField, hk, hm, Bool.true_and, Bool.and_eq_true, bne_iff_ne, ne_eq]
  exact hp

/-- A register field written. -/
theorem Does.set {m : Nat} {s₀ : State} (s : State) (f : Fld) (v : Nat) (hk : okField f m = true) (h : Does m s₀ s) :
    Does m s₀ (s.set f v) := by
  simp only [okField, Bool.and_eq_true, bne_iff_ne, ne_eq] at hk
  exact h.trans (Does.setOf f v hk.1.1 (.inl ⟨hk.1.2, hk.2⟩))

/-- A counter raised. -/
theorem Does.bump {m : Nat} {s₀ : State} (s : State) (f : Fld) (hk : okField f m = true) (h : Does m s₀ s) : Does m s₀ (s.bump f) :=
  Does.set s f _ hk h

/-- A counter raised to its largest value. -/
theorem Does.addSat {m : Nat} {s₀ : State} (s : State) (f : Fld) (n : Nat) (hk : okField f m = true) (h : Does m s₀ s) :
    Does m s₀ (s.addSat f n) := Does.set s f _ hk h

/-- The phase written. -/
theorem Does.setPhase {m : Nat} {s₀ : State} (s : State) (v : Nat) (hv : v ≤ 9) (hm : m.testBit 4 = true) (h : Does m s₀ s) :
    Does m s₀ (s.set R.STEP_STATUS_PHASE v) :=
  h.trans (Does.setOf _ v hm (.inr (.inl ⟨rfl, hv⟩)))

/-- The phase written with a value that is legal in a well-kept state. -/
theorem Does.setPhaseOf {m : Nat} (s : State) (v : Nat) (hv : s.WellKept → v ≤ 9) (hm : m.testBit 4 = true) :
    Does m s (s.set R.STEP_STATUS_PHASE v) := by
  by_cases hv' : v ≤ 9
  · exact Does.setOf _ v hm (.inr (.inl ⟨rfl, hv'⟩))
  · refine Does.ofRegs _ 4 hm ?_ (fun k => absurd (hv k) hv')
    intro g hg
    exact s.rf_set_of_ne _ g v (Fld.key_ne_of_blk hg)

/-- The power state written. -/
theorem Does.setPwr {m : Nat} {s₀ : State} (s : State) (v : Nat) (h1 : 1 ≤ v) (h3 : v ≤ 3) (hm : m.testBit 2 = true)
    (h : Does m s₀ s) : Does m s₀ (s.set R.PWR_STATE_STATE v) :=
  h.trans (Does.setOf _ v hm (.inr (.inr ⟨rfl, h1, h3⟩)))

/-- A message sent. -/
theorem Does.emit {m : Nat} {s₀ : State} (s : State) (x : Sent) (hm : m.testBit 22 = true) (h : Does m s₀ s) : Does m s₀ (s.emit x) := by
  refine h.trans ⟨rfl, List.prefix_append _ _, Nat.le_refl _, fun k => ⟨k.regs, k.mem, k.ports, k.phase, k.power⟩, ?_⟩
  intro p hp
  cases p <;> first
    | exact absurd hp (by rw [show Part.sent.idx = 22 from rfl, hm]; exact Bool.noConfusion)
    | rfl
    | exact ⟨rfl, rfl⟩
    | exact ⟨rfl, rfl, rfl⟩
    | exact fun a => rfl
    | exact fun f hf => rfl

end Sys2Proof.Machine
end

