-- ==== Sys2Proof/Laws/Fields.lean ====
section
/-! SUPPORT. Laws/Fields.lean: the block of every register field, said once per field as the condition under which an operation of a
mask may write it. -/

namespace Sys2Proof.Machine

theorem ok_GLB_ID_DEVICE {m : Nat} (h : m.testBit 0 = true) : okField R.GLB_ID_DEVICE m = true := ok_far 0 (by decide) rfl h
theorem ok_GLB_ID_STEPPING {m : Nat} (h : m.testBit 0 = true) : okField R.GLB_ID_STEPPING m = true := ok_far 0 (by decide) rfl h
theorem ok_GLB_ID_GRADE {m : Nat} (h : m.testBit 0 = true) : okField R.GLB_ID_GRADE m = true := ok_far 0 (by decide) rfl h
theorem ok_GLB_ID_LCLUSTERS {m : Nat} (h : m.testBit 0 = true) : okField R.GLB_ID_LCLUSTERS m = true := ok_far 0 (by decide) rfl h
theorem ok_GLB_ROW_COUNT {m : Nat} (h : m.testBit 0 = true) : okField R.GLB_ROW_COUNT m = true := ok_far 0 (by decide) rfl h
theorem ok_GLB_STATUS_LAST_STATUS {m : Nat} (h : m.testBit 0 = true) : okField R.GLB_STATUS_LAST_STATUS m = true := ok_far 0 (by decide) rfl h
theorem ok_GLB_STATUS_POWER {m : Nat} (h : m.testBit 0 = true) : okField R.GLB_STATUS_POWER m = true := ok_far 0 (by decide) rfl h
theorem ok_GLB_STATUS_PHASE {m : Nat} (h : m.testBit 0 = true) : okField R.GLB_STATUS_PHASE m = true := ok_far 0 (by decide) rfl h
theorem ok_GLB_STATUS_CLOCK {m : Nat} (h : m.testBit 0 = true) : okField R.GLB_STATUS_CLOCK m = true := ok_far 0 (by decide) rfl h
theorem ok_GLB_STATUS_NO_SPARE {m : Nat} (h : m.testBit 0 = true) : okField R.GLB_STATUS_NO_SPARE m = true := ok_far 0 (by decide) rfl h
theorem ok_GLB_STATUS_HOT {m : Nat} (h : m.testBit 0 = true) : okField R.GLB_STATUS_HOT m = true := ok_far 0 (by decide) rfl h
theorem ok_GLB_STATUS_TAINTED {m : Nat} (h : m.testBit 0 = true) : okField R.GLB_STATUS_TAINTED m = true := ok_far 0 (by decide) rfl h
theorem ok_GLB_STATUS_LOG_PENDING {m : Nat} (h : m.testBit 0 = true) : okField R.GLB_STATUS_LOG_PENDING m = true := ok_far 0 (by decide) rfl h
theorem ok_GLB_STATUS_FLAG_RAISED {m : Nat} (h : m.testBit 0 = true) : okField R.GLB_STATUS_FLAG_RAISED m = true := ok_far 0 (by decide) rfl h
theorem ok_GLB_STATUS_FLAG_IN {m : Nat} (h : m.testBit 0 = true) : okField R.GLB_STATUS_FLAG_IN m = true := ok_far 0 (by decide) rfl h
theorem ok_GLB_STATUS_BOOT_FAILED {m : Nat} (h : m.testBit 0 = true) : okField R.GLB_STATUS_BOOT_FAILED m = true := ok_far 0 (by decide) rfl h
theorem ok_GLB_STATUS_CHART {m : Nat} (h : m.testBit 0 = true) : okField R.GLB_STATUS_CHART m = true := ok_far 0 (by decide) rfl h
theorem ok_BOOT_STATUS_REASON_A {m : Nat} (h : m.testBit 1 = true) : okField R.BOOT_STATUS_REASON_A m = true := ok_far 1 (by decide) rfl h
theorem ok_BOOT_STATUS_REASON_B {m : Nat} (h : m.testBit 1 = true) : okField R.BOOT_STATUS_REASON_B m = true := ok_far 1 (by decide) rfl h
theorem ok_BOOT_STATUS_SLOT {m : Nat} (h : m.testBit 1 = true) : okField R.BOOT_STATUS_SLOT m = true := ok_far 1 (by decide) rfl h
theorem ok_BOOT_STATUS_LAST_STATUS {m : Nat} (h : m.testBit 1 = true) : okField R.BOOT_STATUS_LAST_STATUS m = true := ok_far 1 (by decide) rfl h
theorem ok_BOOT_STATUS_STATE {m : Nat} (h : m.testBit 1 = true) : okField R.BOOT_STATUS_STATE m = true := ok_far 1 (by decide) rfl h
theorem ok_BOOT_IMAGE_FW_VERSION {m : Nat} (h : m.testBit 1 = true) : okField R.BOOT_IMAGE_FW_VERSION m = true := ok_far 1 (by decide) rfl h
theorem ok_BOOT_IMAGE_FW_ROLLBACK {m : Nat} (h : m.testBit 1 = true) : okField R.BOOT_IMAGE_FW_ROLLBACK m = true := ok_far 1 (by decide) rfl h
theorem ok_BOOT_IMAGE_DEV_ROLLBACK {m : Nat} (h : m.testBit 1 = true) : okField R.BOOT_IMAGE_DEV_ROLLBACK m = true := ok_far 1 (by decide) rfl h
theorem ok_BOOT_IMAGE_FW_KEY_SLOT {m : Nat} (h : m.testBit 1 = true) : okField R.BOOT_IMAGE_FW_KEY_SLOT m = true := ok_far 1 (by decide) rfl h
theorem ok_BOOT_IMAGE_DEV_KEY_SLOT {m : Nat} (h : m.testBit 1 = true) : okField R.BOOT_IMAGE_DEV_KEY_SLOT m = true := ok_far 1 (by decide) rfl h
theorem ok_BOOT_IMAGE_DEV_VERSION {m : Nat} (h : m.testBit 1 = true) : okField R.BOOT_IMAGE_DEV_VERSION m = true := ok_far 1 (by decide) rfl h
theorem ok_BOOT_FUSES_FW_COUNTER {m : Nat} (h : m.testBit 1 = true) : okField R.BOOT_FUSES_FW_COUNTER m = true := ok_far 1 (by decide) rfl h
theorem ok_BOOT_FUSES_DEV_COUNTER {m : Nat} (h : m.testBit 1 = true) : okField R.BOOT_FUSES_DEV_COUNTER m = true := ok_far 1 (by decide) rfl h
theorem ok_BOOT_FUSES_FW_REVOKED {m : Nat} (h : m.testBit 1 = true) : okField R.BOOT_FUSES_FW_REVOKED m = true := ok_far 1 (by decide) rfl h
theorem ok_BOOT_FUSES_DEV_REVOKED {m : Nat} (h : m.testBit 1 = true) : okField R.BOOT_FUSES_DEV_REVOKED m = true := ok_far 1 (by decide) rfl h
theorem ok_BOOT_FUSES_DEV_KEYS_SET {m : Nat} (h : m.testBit 1 = true) : okField R.BOOT_FUSES_DEV_KEYS_SET m = true := ok_far 1 (by decide) rfl h
theorem ok_BOOT_ROLLBACK_STATUS {m : Nat} (h : m.testBit 1 = true) : okField R.BOOT_ROLLBACK_STATUS m = true := ok_far 1 (by decide) rfl h
theorem ok_BOOT_ROLLBACK_BUSY {m : Nat} (h : m.testBit 1 = true) : okField R.BOOT_ROLLBACK_BUSY m = true := ok_far 1 (by decide) rfl h
theorem ok_BOOT_ROLLBACK_REVOKE_DEV {m : Nat} (h : m.testBit 1 = true) : okField R.BOOT_ROLLBACK_REVOKE_DEV m = true := ok_far 1 (by decide) rfl h
theorem ok_BOOT_ROLLBACK_REVOKE_FW {m : Nat} (h : m.testBit 1 = true) : okField R.BOOT_ROLLBACK_REVOKE_FW m = true := ok_far 1 (by decide) rfl h
theorem ok_BOOT_ROLLBACK_ADVANCE_DEV {m : Nat} (h : m.testBit 1 = true) : okField R.BOOT_ROLLBACK_ADVANCE_DEV m = true := ok_far 1 (by decide) rfl h
theorem ok_BOOT_ROLLBACK_ADVANCE_FW {m : Nat} (h : m.testBit 1 = true) : okField R.BOOT_ROLLBACK_ADVANCE_FW m = true := ok_far 1 (by decide) rfl h
theorem ok_BOOT_TIME_READY_TICKS {m : Nat} (h : m.testBit 1 = true) : okField R.BOOT_TIME_READY_TICKS m = true := ok_far 1 (by decide) rfl h
theorem ok_BOOT_TIME_AUTH_TICKS {m : Nat} (h : m.testBit 1 = true) : okField R.BOOT_TIME_AUTH_TICKS m = true := ok_far 1 (by decide) rfl h
theorem ok_PWR_STATE_ENTERED_AT {m : Nat} (h : m.testBit 2 = true) : okField R.PWR_STATE_ENTERED_AT m = true := ok_near 2 (by decide) (by decide) h
theorem ok_PWR_STATE_LAST_CAUSE {m : Nat} (h : m.testBit 2 = true) : okField R.PWR_STATE_LAST_CAUSE m = true := ok_near 2 (by decide) (by decide) h
theorem ok_PWR_CTRL_STATUS {m : Nat} (h : m.testBit 2 = true) : okField R.PWR_CTRL_STATUS m = true := ok_near 2 (by decide) (by decide) h
theorem ok_PWR_CTRL_TO_AON {m : Nat} (h : m.testBit 2 = true) : okField R.PWR_CTRL_TO_AON m = true := ok_near 2 (by decide) (by decide) h
theorem ok_PWR_SUPPLY_VDD_MV {m : Nat} (h : m.testBit 2 = true) : okField R.PWR_SUPPLY_VDD_MV m = true := ok_near 2 (by decide) (by decide) h
theorem ok_PWR_SUPPLY_GOOD {m : Nat} (h : m.testBit 2 = true) : okField R.PWR_SUPPLY_GOOD m = true := ok_near 2 (by decide) (by decide) h
theorem ok_PWR_AVS_REQ_MV {m : Nat} (h : m.testBit 2 = true) : okField R.PWR_AVS_REQ_MV m = true := ok_near 2 (by decide) (by decide) h
theorem ok_PWR_AVS_NEED_MV {m : Nat} (h : m.testBit 2 = true) : okField R.PWR_AVS_NEED_MV m = true := ok_near 2 (by decide) (by decide) h
theorem ok_PWR_AVS_MET {m : Nat} (h : m.testBit 2 = true) : okField R.PWR_AVS_MET m = true := ok_near 2 (by decide) (by decide) h
theorem ok_PWR_CLOCK_FCLK_MHZ {m : Nat} (h : m.testBit 2 = true) : okField R.PWR_CLOCK_FCLK_MHZ m = true := ok_near 2 (by decide) (by decide) h
theorem ok_PWR_CLOCK_NEXT_MHZ {m : Nat} (h : m.testBit 2 = true) : okField R.PWR_CLOCK_NEXT_MHZ m = true := ok_near 2 (by decide) (by decide) h
theorem ok_PWR_CLOCK_SWITCH_AT {m : Nat} (h : m.testBit 2 = true) : okField R.PWR_CLOCK_SWITCH_AT m = true := ok_near 2 (by decide) (by decide) h
theorem ok_PWR_THERM_MAX_C {m : Nat} (h : m.testBit 2 = true) : okField R.PWR_THERM_MAX_C m = true := ok_near 2 (by decide) (by decide) h
theorem ok_PWR_THERM_PEAK_C {m : Nat} (h : m.testBit 2 = true) : okField R.PWR_THERM_PEAK_C m = true := ok_near 2 (by decide) (by decide) h
theorem ok_PWR_THERM_SENSOR {m : Nat} (h : m.testBit 2 = true) : okField R.PWR_THERM_SENSOR m = true := ok_near 2 (by decide) (by decide) h
theorem ok_PWR_THERM_LAST_EVENT {m : Nat} (h : m.testBit 2 = true) : okField R.PWR_THERM_LAST_EVENT m = true := ok_near 2 (by decide) (by decide) h
theorem ok_PWR_THERM_CRIT_SEEN {m : Nat} (h : m.testBit 2 = true) : okField R.PWR_THERM_CRIT_SEEN m = true := ok_near 2 (by decide) (by decide) h
theorem ok_PWR_THERM_EMERG {m : Nat} (h : m.testBit 2 = true) : okField R.PWR_THERM_EMERG m = true := ok_near 2 (by decide) (by decide) h
theorem ok_PWR_THERM_HOT {m : Nat} (h : m.testBit 2 = true) : okField R.PWR_THERM_HOT m = true := ok_near 2 (by decide) (by decide) h
theorem ok_PWR_THERM_CFG_CRIT_C {m : Nat} (h : m.testBit 2 = true) : okField R.PWR_THERM_CFG_CRIT_C m = true := ok_near 2 (by decide) (by decide) h
theorem ok_PWR_THERM_CFG_EMERG_C {m : Nat} (h : m.testBit 2 = true) : okField R.PWR_THERM_CFG_EMERG_C m = true := ok_near 2 (by decide) (by decide) h
theorem ok_PWR_THERM_CFG_TRIP_C {m : Nat} (h : m.testBit 2 = true) : okField R.PWR_THERM_CFG_TRIP_C m = true := ok_near 2 (by decide) (by decide) h
theorem ok_PWR_MGMT_STATUS {m : Nat} (h : m.testBit 2 = true) : okField R.PWR_MGMT_STATUS m = true := ok_near 2 (by decide) (by decide) h
theorem ok_PWR_MGMT_THERM_STOP {m : Nat} (h : m.testBit 2 = true) : okField R.PWR_MGMT_THERM_STOP m = true := ok_near 2 (by decide) (by decide) h
theorem ok_PWR_MGMT_WAKE {m : Nat} (h : m.testBit 2 = true) : okField R.PWR_MGMT_WAKE m = true := ok_near 2 (by decide) (by decide) h
theorem ok_PWR_MGMT_RETRY_BOOT {m : Nat} (h : m.testBit 2 = true) : okField R.PWR_MGMT_RETRY_BOOT m = true := ok_near 2 (by decide) (by decide) h
theorem ok_PWR_UNITS_CLUSTERS_ON {m : Nat} (h : m.testBit 2 = true) : okField R.PWR_UNITS_CLUSTERS_ON m = true := ok_near 2 (by decide) (by decide) h
theorem ok_PWR_UNITS_ENGINES_ON {m : Nat} (h : m.testBit 2 = true) : okField R.PWR_UNITS_ENGINES_ON m = true := ok_near 2 (by decide) (by decide) h
theorem ok_PWR_UNITS_GROUPS_ON {m : Nat} (h : m.testBit 2 = true) : okField R.PWR_UNITS_GROUPS_ON m = true := ok_near 2 (by decide) (by decide) h
theorem ok_PWR_UNITS_WAKING {m : Nat} (h : m.testBit 2 = true) : okField R.PWR_UNITS_WAKING m = true := ok_near 2 (by decide) (by decide) h
theorem ok_CHART_ACTIVE_EPOCH {m : Nat} (h : m.testBit 3 = true) : okField R.CHART_ACTIVE_EPOCH m = true := ok_far 3 (by decide) rfl h
theorem ok_CHART_ACTIVE_MEMBER {m : Nat} (h : m.testBit 3 = true) : okField R.CHART_ACTIVE_MEMBER m = true := ok_far 3 (by decide) rfl h
theorem ok_CHART_ACTIVE_DEVICES {m : Nat} (h : m.testBit 3 = true) : okField R.CHART_ACTIVE_DEVICES m = true := ok_far 3 (by decide) rfl h
theorem ok_CHART_ACTIVE_NVAR_M1 {m : Nat} (h : m.testBit 3 = true) : okField R.CHART_ACTIVE_NVAR_M1 m = true := ok_far 3 (by decide) rfl h
theorem ok_CHART_ACTIVE_NSWATCH {m : Nat} (h : m.testBit 3 = true) : okField R.CHART_ACTIVE_NSWATCH m = true := ok_far 3 (by decide) rfl h
theorem ok_CHART_ACTIVE_VALID {m : Nat} (h : m.testBit 3 = true) : okField R.CHART_ACTIVE_VALID m = true := ok_far 3 (by decide) rfl h
theorem ok_CHART_ACTIVE_ID_CONFIG_ID {m : Nat} (h : m.testBit 3 = true) : okField R.CHART_ACTIVE_ID_CONFIG_ID m = true := ok_far 3 (by decide) rfl h
theorem ok_CHART_STAGED_EPOCH {m : Nat} (h : m.testBit 3 = true) : okField R.CHART_STAGED_EPOCH m = true := ok_far 3 (by decide) rfl h
theorem ok_CHART_STAGED_MEMBER {m : Nat} (h : m.testBit 3 = true) : okField R.CHART_STAGED_MEMBER m = true := ok_far 3 (by decide) rfl h
theorem ok_CHART_STAGED_DEVICES {m : Nat} (h : m.testBit 3 = true) : okField R.CHART_STAGED_DEVICES m = true := ok_far 3 (by decide) rfl h
theorem ok_CHART_STAGED_NVAR_M1 {m : Nat} (h : m.testBit 3 = true) : okField R.CHART_STAGED_NVAR_M1 m = true := ok_far 3 (by decide) rfl h
theorem ok_CHART_STAGED_NSWATCH {m : Nat} (h : m.testBit 3 = true) : okField R.CHART_STAGED_NSWATCH m = true := ok_far 3 (by decide) rfl h
theorem ok_CHART_STAGED_VALID {m : Nat} (h : m.testBit 3 = true) : okField R.CHART_STAGED_VALID m = true := ok_far 3 (by decide) rfl h
theorem ok_CHART_STAGED_ID_CONFIG_ID {m : Nat} (h : m.testBit 3 = true) : okField R.CHART_STAGED_ID_CONFIG_ID m = true := ok_far 3 (by decide) rfl h
theorem ok_CHART_LOAD_SRC_ADDR {m : Nat} (h : m.testBit 3 = true) : okField R.CHART_LOAD_SRC_ADDR m = true := ok_far 3 (by decide) rfl h
theorem ok_CHART_LOAD_CTRL_BYTES {m : Nat} (h : m.testBit 3 = true) : okField R.CHART_LOAD_CTRL_BYTES m = true := ok_far 3 (by decide) rfl h
theorem ok_CHART_LOAD_CTRL_UNINSTALL {m : Nat} (h : m.testBit 3 = true) : okField R.CHART_LOAD_CTRL_UNINSTALL m = true := ok_far 3 (by decide) rfl h
theorem ok_CHART_LOAD_CTRL_DISCARD {m : Nat} (h : m.testBit 3 = true) : okField R.CHART_LOAD_CTRL_DISCARD m = true := ok_far 3 (by decide) rfl h
theorem ok_CHART_LOAD_CTRL_LOAD {m : Nat} (h : m.testBit 3 = true) : okField R.CHART_LOAD_CTRL_LOAD m = true := ok_far 3 (by decide) rfl h
theorem ok_CHART_LOAD_STATUS_OFFSET {m : Nat} (h : m.testBit 3 = true) : okField R.CHART_LOAD_STATUS_OFFSET m = true := ok_far 3 (by decide) rfl h
theorem ok_CHART_LOAD_STATUS_SECTION {m : Nat} (h : m.testBit 3 = true) : okField R.CHART_LOAD_STATUS_SECTION m = true := ok_far 3 (by decide) rfl h
theorem ok_CHART_LOAD_STATUS_RULE {m : Nat} (h : m.testBit 3 = true) : okField R.CHART_LOAD_STATUS_RULE m = true := ok_far 3 (by decide) rfl h
theorem ok_CHART_LOAD_STATUS_STATUS {m : Nat} (h : m.testBit 3 = true) : okField R.CHART_LOAD_STATUS_STATUS m = true := ok_far 3 (by decide) rfl h
theorem ok_CHART_LOAD_STATUS_STATE {m : Nat} (h : m.testBit 3 = true) : okField R.CHART_LOAD_STATUS_STATE m = true := ok_far 3 (by decide) rfl h
theorem ok_CHART_COMMIT_APPLY_AT_STEP {m : Nat} (h : m.testBit 3 = true) : okField R.CHART_COMMIT_APPLY_AT_STEP m = true := ok_far 3 (by decide) rfl h
theorem ok_CHART_COMMIT_STATUS {m : Nat} (h : m.testBit 3 = true) : okField R.CHART_COMMIT_STATUS m = true := ok_far 3 (by decide) rfl h
theorem ok_CHART_COMMIT_OUTCOME {m : Nat} (h : m.testBit 3 = true) : okField R.CHART_COMMIT_OUTCOME m = true := ok_far 3 (by decide) rfl h
theorem ok_CHART_COMMIT_WITHDRAW {m : Nat} (h : m.testBit 3 = true) : okField R.CHART_COMMIT_WITHDRAW m = true := ok_far 3 (by decide) rfl h
theorem ok_CHART_COMMIT_REQ {m : Nat} (h : m.testBit 3 = true) : okField R.CHART_COMMIT_REQ m = true := ok_far 3 (by decide) rfl h
theorem ok_CHART_VARIANT_APPLY_AT_STEP {m : Nat} (h : m.testBit 3 = true) : okField R.CHART_VARIANT_APPLY_AT_STEP m = true := ok_far 3 (by decide) rfl h
theorem ok_CHART_VARIANT_STATUS {m : Nat} (h : m.testBit 3 = true) : okField R.CHART_VARIANT_STATUS m = true := ok_far 3 (by decide) rfl h
theorem ok_CHART_VARIANT_OUTCOME {m : Nat} (h : m.testBit 3 = true) : okField R.CHART_VARIANT_OUTCOME m = true := ok_far 3 (by decide) rfl h
theorem ok_CHART_VARIANT_INDEX {m : Nat} (h : m.testBit 3 = true) : okField R.CHART_VARIANT_INDEX m = true := ok_far 3 (by decide) rfl h
theorem ok_CHART_VARIANT_WITHDRAW {m : Nat} (h : m.testBit 3 = true) : okField R.CHART_VARIANT_WITHDRAW m = true := ok_far 3 (by decide) rfl h
theorem ok_CHART_VARIANT_REQ {m : Nat} (h : m.testBit 3 = true) : okField R.CHART_VARIANT_REQ m = true := ok_far 3 (by decide) rfl h
theorem ok_CHART_DRAIN_FIRST_OPEN {m : Nat} (h : m.testBit 3 = true) : okField R.CHART_DRAIN_FIRST_OPEN m = true := ok_far 3 (by decide) rfl h
theorem ok_CHART_DRAIN_OPEN_OLD {m : Nat} (h : m.testBit 3 = true) : okField R.CHART_DRAIN_OPEN_OLD m = true := ok_far 3 (by decide) rfl h
theorem ok_CHART_SEED_SEED {m : Nat} (h : m.testBit 3 = true) : okField R.CHART_SEED_SEED m = true := ok_far 3 (by decide) rfl h
theorem ok_STEP_STATUS_HOLD_CAUSE {m : Nat} (h : m.testBit 4 = true) : okField R.STEP_STATUS_HOLD_CAUSE m = true := ok_near 4 (by decide) (by decide) h
theorem ok_STEP_STATUS_VARIANT {m : Nat} (h : m.testBit 4 = true) : okField R.STEP_STATUS_VARIANT m = true := ok_near 4 (by decide) (by decide) h
theorem ok_STEP_STATUS_NEXT_VARIANT {m : Nat} (h : m.testBit 4 = true) : okField R.STEP_STATUS_NEXT_VARIANT m = true := ok_near 4 (by decide) (by decide) h
theorem ok_STEP_STATUS_LAST_STATUS {m : Nat} (h : m.testBit 4 = true) : okField R.STEP_STATUS_LAST_STATUS m = true := ok_near 4 (by decide) (by decide) h
theorem ok_STEP_NUMBER_VALUE {m : Nat} (h : m.testBit 4 = true) : okField R.STEP_NUMBER_VALUE m = true := ok_near 4 (by decide) (by decide) h
theorem ok_STEP_CASTON_VALUE {m : Nat} (h : m.testBit 4 = true) : okField R.STEP_CASTON_VALUE m = true := ok_near 4 (by decide) (by decide) h
theorem ok_STEP_VERDICT_AT_VALUE {m : Nat} (h : m.testBit 4 = true) : okField R.STEP_VERDICT_AT_VALUE m = true := ok_near 4 (by decide) (by decide) h
theorem ok_STEP_BINDOFF_VALUE {m : Nat} (h : m.testBit 4 = true) : okField R.STEP_BINDOFF_VALUE m = true := ok_near 4 (by decide) (by decide) h
theorem ok_STEP_NEXT_CASTON_VALUE {m : Nat} (h : m.testBit 4 = true) : okField R.STEP_NEXT_CASTON_VALUE m = true := ok_near 4 (by decide) (by decide) h
theorem ok_STEP_START_VALUE {m : Nat} (h : m.testBit 4 = true) : okField R.STEP_START_VALUE m = true := ok_near 4 (by decide) (by decide) h
theorem ok_STEP_SWATCH_AT_STEP {m : Nat} (h : m.testBit 4 = true) : okField R.STEP_SWATCH_AT_STEP m = true := ok_near 4 (by decide) (by decide) h
theorem ok_STEP_SWATCH_STATUS {m : Nat} (h : m.testBit 4 = true) : okField R.STEP_SWATCH_STATUS m = true := ok_near 4 (by decide) (by decide) h
theorem ok_STEP_SWATCH_PENDING {m : Nat} (h : m.testBit 4 = true) : okField R.STEP_SWATCH_PENDING m = true := ok_near 4 (by decide) (by decide) h
theorem ok_STEP_SWATCH_PROGRAM {m : Nat} (h : m.testBit 4 = true) : okField R.STEP_SWATCH_PROGRAM m = true := ok_near 4 (by decide) (by decide) h
theorem ok_STEP_SWATCH_REQ {m : Nat} (h : m.testBit 4 = true) : okField R.STEP_SWATCH_REQ m = true := ok_near 4 (by decide) (by decide) h
theorem ok_STEP_CTRL_STOP_AT_STEP {m : Nat} (h : m.testBit 4 = true) : okField R.STEP_CTRL_STOP_AT_STEP m = true := ok_near 4 (by decide) (by decide) h
theorem ok_STEP_CTRL_STOP_STATUS {m : Nat} (h : m.testBit 4 = true) : okField R.STEP_CTRL_STOP_STATUS m = true := ok_near 4 (by decide) (by decide) h
theorem ok_STEP_CTRL_STOP_PENDING {m : Nat} (h : m.testBit 4 = true) : okField R.STEP_CTRL_STOP_PENDING m = true := ok_near 4 (by decide) (by decide) h
theorem ok_STEP_CTRL_STOP {m : Nat} (h : m.testBit 4 = true) : okField R.STEP_CTRL_STOP m = true := ok_near 4 (by decide) (by decide) h
theorem ok_STEP_FLAG_RAISE_AT {m : Nat} (h : m.testBit 4 = true) : okField R.STEP_FLAG_RAISE_AT m = true := ok_near 4 (by decide) (by decide) h
theorem ok_STEP_FLAG_CAUSE {m : Nat} (h : m.testBit 4 = true) : okField R.STEP_FLAG_CAUSE m = true := ok_near 4 (by decide) (by decide) h
theorem ok_STEP_FLAG_MISMATCH {m : Nat} (h : m.testBit 4 = true) : okField R.STEP_FLAG_MISMATCH m = true := ok_near 4 (by decide) (by decide) h
theorem ok_STEP_FLAG_HOST_RAISE {m : Nat} (h : m.testBit 4 = true) : okField R.STEP_FLAG_HOST_RAISE m = true := ok_near 4 (by decide) (by decide) h
theorem ok_STEP_FLAG_SAMPLED {m : Nat} (h : m.testBit 4 = true) : okField R.STEP_FLAG_SAMPLED m = true := ok_near 4 (by decide) (by decide) h
theorem ok_STEP_FLAG_RAISED {m : Nat} (h : m.testBit 4 = true) : okField R.STEP_FLAG_RAISED m = true := ok_near 4 (by decide) (by decide) h
theorem ok_STEP_SKIP_LAST {m : Nat} (h : m.testBit 4 = true) : okField R.STEP_SKIP_LAST m = true := ok_near 4 (by decide) (by decide) h
theorem ok_STEP_SKIP_COUNT {m : Nat} (h : m.testBit 4 = true) : okField R.STEP_SKIP_COUNT m = true := ok_near 4 (by decide) (by decide) h
theorem ok_STEP_SCALE_LAST_GROWTH {m : Nat} (h : m.testBit 4 = true) : okField R.STEP_SCALE_LAST_GROWTH m = true := ok_near 4 (by decide) (by decide) h
theorem ok_STEP_SCALE_EXP {m : Nat} (h : m.testBit 4 = true) : okField R.STEP_SCALE_EXP m = true := ok_near 4 (by decide) (by decide) h
theorem ok_STEP_SCALE_SET_SINCE {m : Nat} (h : m.testBit 4 = true) : okField R.STEP_SCALE_SET_SINCE m = true := ok_near 4 (by decide) (by decide) h
theorem ok_STEP_SCALE_SET_PENDING {m : Nat} (h : m.testBit 4 = true) : okField R.STEP_SCALE_SET_PENDING m = true := ok_near 4 (by decide) (by decide) h
theorem ok_STEP_SCALE_SET_EXP {m : Nat} (h : m.testBit 4 = true) : okField R.STEP_SCALE_SET_EXP m = true := ok_near 4 (by decide) (by decide) h
theorem ok_STEP_SCALE_CFG_GROWTH {m : Nat} (h : m.testBit 4 = true) : okField R.STEP_SCALE_CFG_GROWTH m = true := ok_near 4 (by decide) (by decide) h
theorem ok_STEP_SCALE_CFG_MAX {m : Nat} (h : m.testBit 4 = true) : okField R.STEP_SCALE_CFG_MAX m = true := ok_near 4 (by decide) (by decide) h
theorem ok_STEP_SCALE_CFG_MIN {m : Nat} (h : m.testBit 4 = true) : okField R.STEP_SCALE_CFG_MIN m = true := ok_near 4 (by decide) (by decide) h
theorem ok_STEP_OPT_COUNT_COUNT {m : Nat} (h : m.testBit 4 = true) : okField R.STEP_OPT_COUNT_COUNT m = true := ok_near 4 (by decide) (by decide) h
theorem ok_STEP_OPT_SET_VALUE {m : Nat} (h : m.testBit 4 = true) : okField R.STEP_OPT_SET_VALUE m = true := ok_near 4 (by decide) (by decide) h
theorem ok_STEP_LR_IN_STATUS {m : Nat} (h : m.testBit 4 = true) : okField R.STEP_LR_IN_STATUS m = true := ok_near 4 (by decide) (by decide) h
theorem ok_STEP_LR_IN_VALUE {m : Nat} (h : m.testBit 4 = true) : okField R.STEP_LR_IN_VALUE m = true := ok_near 4 (by decide) (by decide) h
theorem ok_STEP_LR_NOW_VALUE {m : Nat} (h : m.testBit 4 = true) : okField R.STEP_LR_NOW_VALUE m = true := ok_near 4 (by decide) (by decide) h
theorem ok_STEP_LR_NOW_APPLY_AT_STEP {m : Nat} (h : m.testBit 4 = true) : okField R.STEP_LR_NOW_APPLY_AT_STEP m = true := ok_near 4 (by decide) (by decide) h
theorem ok_STEP_UPDATE_OVERFLOWS {m : Nat} (h : m.testBit 4 = true) : okField R.STEP_UPDATE_OVERFLOWS m = true := ok_near 4 (by decide) (by decide) h
theorem ok_STEP_UPDATE_REBASED {m : Nat} (h : m.testBit 4 = true) : okField R.STEP_UPDATE_REBASED m = true := ok_near 4 (by decide) (by decide) h
theorem ok_STEP_UPDATE_CHUNKS {m : Nat} (h : m.testBit 4 = true) : okField R.STEP_UPDATE_CHUNKS m = true := ok_near 4 (by decide) (by decide) h
theorem ok_STEP_HANDOFF_EXPECTED {m : Nat} (h : m.testBit 4 = true) : okField R.STEP_HANDOFF_EXPECTED m = true := ok_near 4 (by decide) (by decide) h
theorem ok_STEP_HANDOFF_SEALED {m : Nat} (h : m.testBit 4 = true) : okField R.STEP_HANDOFF_SEALED m = true := ok_near 4 (by decide) (by decide) h
theorem ok_STEP_HISTORY_STEP {m : Nat} (i : Nat) (h : m.testBit 4 = true) : okField (R.STEP_HISTORY_STEP i) m = true :=
  ok_near 4 (Fld.blk_elem _ _ _ _ _ _ _ (by decide) (by decide) (by decide) (by decide))
    (by simp only [Fld.key, R.STEP_HISTORY_STEP, R.STEP_STATUS_PHASE, R.PWR_STATE_STATE]; omega) h
theorem ok_STEP_HISTORY_EXP {m : Nat} (i : Nat) (h : m.testBit 4 = true) : okField (R.STEP_HISTORY_EXP i) m = true :=
  ok_near 4 (Fld.blk_elem _ _ _ _ _ _ _ (by decide) (by decide) (by decide) (by decide))
    (by simp only [Fld.key, R.STEP_HISTORY_EXP, R.STEP_STATUS_PHASE, R.PWR_STATE_STATE]; omega) h
theorem ok_STEP_STASH_SEL_AT_STEP {m : Nat} (h : m.testBit 4 = true) : okField R.STEP_STASH_SEL_AT_STEP m = true := ok_near 4 (by decide) (by decide) h
theorem ok_STEP_STASH_SEL_SOURCE {m : Nat} (h : m.testBit 4 = true) : okField R.STEP_STASH_SEL_SOURCE m = true := ok_near 4 (by decide) (by decide) h
theorem ok_STEP_STASH_SEL_MARGIN {m : Nat} (h : m.testBit 4 = true) : okField R.STEP_STASH_SEL_MARGIN m = true := ok_near 4 (by decide) (by decide) h
theorem ok_STEP_STASH_SEL_CLAMPED {m : Nat} (h : m.testBit 4 = true) : okField R.STEP_STASH_SEL_CLAMPED m = true := ok_near 4 (by decide) (by decide) h
theorem ok_STEP_STASH_SEL_ROUNDS {m : Nat} (h : m.testBit 4 = true) : okField R.STEP_STASH_SEL_ROUNDS m = true := ok_near 4 (by decide) (by decide) h
theorem ok_STEP_STASH_SEL_NVAR_M1 {m : Nat} (h : m.testBit 4 = true) : okField R.STEP_STASH_SEL_NVAR_M1 m = true := ok_near 4 (by decide) (by decide) h
theorem ok_STEP_STASH_SEL_AGREED {m : Nat} (h : m.testBit 4 = true) : okField R.STEP_STASH_SEL_AGREED m = true := ok_near 4 (by decide) (by decide) h
theorem ok_STEP_STASH_SEL_WISH {m : Nat} (h : m.testBit 4 = true) : okField R.STEP_STASH_SEL_WISH m = true := ok_near 4 (by decide) (by decide) h
theorem ok_STEP_STASH_EVENTS_OVERFLOWS {m : Nat} (h : m.testBit 4 = true) : okField R.STEP_STASH_EVENTS_OVERFLOWS m = true := ok_near 4 (by decide) (by decide) h
theorem ok_STEP_STASH_EVENTS_SPILLS {m : Nat} (h : m.testBit 4 = true) : okField R.STEP_STASH_EVENTS_SPILLS m = true := ok_near 4 (by decide) (by decide) h
theorem ok_STEP_SPILL_BYTES_VALUE {m : Nat} (h : m.testBit 4 = true) : okField R.STEP_SPILL_BYTES_VALUE m = true := ok_near 4 (by decide) (by decide) h
theorem ok_STEP_STASH_PEAK_ONDIE_VALUE {m : Nat} (h : m.testBit 4 = true) : okField R.STEP_STASH_PEAK_ONDIE_VALUE m = true := ok_near 4 (by decide) (by decide) h
theorem ok_STEP_STASH_PEAK_HBM_VALUE {m : Nat} (h : m.testBit 4 = true) : okField R.STEP_STASH_PEAK_HBM_VALUE m = true := ok_near 4 (by decide) (by decide) h
theorem ok_STEP_STASH_PEAK_NEIGHBOUR_VALUE {m : Nat} (h : m.testBit 4 = true) : okField R.STEP_STASH_PEAK_NEIGHBOUR_VALUE m = true := ok_near 4 (by decide) (by decide) h
theorem ok_STEP_STASH_PEAK_HOST_VALUE {m : Nat} (h : m.testBit 4 = true) : okField R.STEP_STASH_PEAK_HOST_VALUE m = true := ok_near 4 (by decide) (by decide) h
theorem ok_STEP_STASH_SIZE_STATE {m : Nat} (i : Nat) (h : m.testBit 4 = true) : okField (R.STEP_STASH_SIZE_STATE i) m = true :=
  ok_near 4 (Fld.blk_elem _ _ _ _ _ _ _ (by decide) (by decide) (by decide) (by decide))
    (by simp only [Fld.key, R.STEP_STASH_SIZE_STATE, R.STEP_STATUS_PHASE, R.PWR_STATE_STATE]; omega) h
theorem ok_STEP_STASH_SIZE_MB {m : Nat} (i : Nat) (h : m.testBit 4 = true) : okField (R.STEP_STASH_SIZE_MB i) m = true :=
  ok_near 4 (Fld.blk_elem _ _ _ _ _ _ _ (by decide) (by decide) (by decide) (by decide))
    (by simp only [Fld.key, R.STEP_STASH_SIZE_MB, R.STEP_STATUS_PHASE, R.PWR_STATE_STATE]; omega) h
theorem ok_STEP_STASH_SIZE_SIZE {m : Nat} (i : Nat) (h : m.testBit 4 = true) : okField (R.STEP_STASH_SIZE_SIZE i) m = true :=
  ok_near 4 (Fld.blk_elem _ _ _ _ _ _ _ (by decide) (by decide) (by decide) (by decide))
    (by simp only [Fld.key, R.STEP_STASH_SIZE_SIZE, R.STEP_STATUS_PHASE, R.PWR_STATE_STATE]; omega) h
theorem ok_STREAM_CTL_PROGRAM {m : Nat} (i : Nat) (h : m.testBit 5 = true) : okField (R.STREAM_CTL_PROGRAM i) m = true :=
  ok_far 5 (Fld.blk_elem _ _ _ _ _ _ _ (by decide) (by decide) (by decide) (by decide)) rfl h
theorem ok_STREAM_CTL_BLOCK_LIST {m : Nat} (i : Nat) (h : m.testBit 5 = true) : okField (R.STREAM_CTL_BLOCK_LIST i) m = true :=
  ok_far 5 (Fld.blk_elem _ _ _ _ _ _ _ (by decide) (by decide) (by decide) (by decide)) rfl h
theorem ok_STREAM_CTL_MOVER {m : Nat} (i : Nat) (h : m.testBit 5 = true) : okField (R.STREAM_CTL_MOVER i) m = true :=
  ok_far 5 (Fld.blk_elem _ _ _ _ _ _ _ (by decide) (by decide) (by decide) (by decide)) rfl h
theorem ok_STREAM_CTL_RUN_AHEAD {m : Nat} (i : Nat) (h : m.testBit 5 = true) : okField (R.STREAM_CTL_RUN_AHEAD i) m = true :=
  ok_far 5 (Fld.blk_elem _ _ _ _ _ _ _ (by decide) (by decide) (by decide) (by decide)) rfl h
theorem ok_STREAM_CTL_INFLIGHT {m : Nat} (i : Nat) (h : m.testBit 5 = true) : okField (R.STREAM_CTL_INFLIGHT i) m = true :=
  ok_far 5 (Fld.blk_elem _ _ _ _ _ _ _ (by decide) (by decide) (by decide) (by decide)) rfl h
theorem ok_STREAM_CTL_CLASS {m : Nat} (i : Nat) (h : m.testBit 5 = true) : okField (R.STREAM_CTL_CLASS i) m = true :=
  ok_far 5 (Fld.blk_elem _ _ _ _ _ _ _ (by decide) (by decide) (by decide) (by decide)) rfl h
theorem ok_STREAM_CTL_TILE_BURSTS {m : Nat} (i : Nat) (h : m.testBit 5 = true) : okField (R.STREAM_CTL_TILE_BURSTS i) m = true :=
  ok_far 5 (Fld.blk_elem _ _ _ _ _ _ _ (by decide) (by decide) (by decide) (by decide)) rfl h
theorem ok_STREAM_TIME_PACE {m : Nat} (i : Nat) (h : m.testBit 5 = true) : okField (R.STREAM_TIME_PACE i) m = true :=
  ok_far 5 (Fld.blk_elem _ _ _ _ _ _ _ (by decide) (by decide) (by decide) (by decide)) rfl h
theorem ok_STREAM_TIME_START {m : Nat} (i : Nat) (h : m.testBit 5 = true) : okField (R.STREAM_TIME_START i) m = true :=
  ok_far 5 (Fld.blk_elem _ _ _ _ _ _ _ (by decide) (by decide) (by decide) (by decide)) rfl h
theorem ok_STREAM_BIND_EPOCH {m : Nat} (i : Nat) (h : m.testBit 5 = true) : okField (R.STREAM_BIND_EPOCH i) m = true :=
  ok_far 5 (Fld.blk_elem _ _ _ _ _ _ _ (by decide) (by decide) (by decide) (by decide)) rfl h
theorem ok_STREAM_BIND_STORE_PAGE {m : Nat} (i : Nat) (h : m.testBit 5 = true) : okField (R.STREAM_BIND_STORE_PAGE i) m = true :=
  ok_far 5 (Fld.blk_elem _ _ _ _ _ _ _ (by decide) (by decide) (by decide) (by decide)) rfl h
theorem ok_STREAM_RUN_STATUS {m : Nat} (i : Nat) (h : m.testBit 5 = true) : okField (R.STREAM_RUN_STATUS i) m = true :=
  ok_far 5 (Fld.blk_elem _ _ _ _ _ _ _ (by decide) (by decide) (by decide) (by decide)) rfl h
theorem ok_STREAM_RUN_STATE {m : Nat} (i : Nat) (h : m.testBit 5 = true) : okField (R.STREAM_RUN_STATE i) m = true :=
  ok_far 5 (Fld.blk_elem _ _ _ _ _ _ _ (by decide) (by decide) (by decide) (by decide)) rfl h
theorem ok_STREAM_RUN_WAIT {m : Nat} (i : Nat) (h : m.testBit 5 = true) : okField (R.STREAM_RUN_WAIT i) m = true :=
  ok_far 5 (Fld.blk_elem _ _ _ _ _ _ _ (by decide) (by decide) (by decide) (by decide)) rfl h
theorem ok_STREAM_RUN_PC {m : Nat} (i : Nat) (h : m.testBit 5 = true) : okField (R.STREAM_RUN_PC i) m = true :=
  ok_far 5 (Fld.blk_elem _ _ _ _ _ _ _ (by decide) (by decide) (by decide) (by decide)) rfl h
theorem ok_STREAM_RUN_PACE_RECV {m : Nat} (i : Nat) (h : m.testBit 5 = true) : okField (R.STREAM_RUN_PACE_RECV i) m = true :=
  ok_far 5 (Fld.blk_elem _ _ _ _ _ _ _ (by decide) (by decide) (by decide) (by decide)) rfl h
theorem ok_STREAM_RUN_PACE_USED {m : Nat} (i : Nat) (h : m.testBit 5 = true) : okField (R.STREAM_RUN_PACE_USED i) m = true :=
  ok_far 5 (Fld.blk_elem _ _ _ _ _ _ _ (by decide) (by decide) (by decide) (by decide)) rfl h
theorem ok_STREAM_LOOP_CHECK {m : Nat} (i : Nat) (h : m.testBit 5 = true) : okField (R.STREAM_LOOP_CHECK i) m = true :=
  ok_far 5 (Fld.blk_elem _ _ _ _ _ _ _ (by decide) (by decide) (by decide) (by decide)) rfl h
theorem ok_STREAM_LOOP_LOOP1 {m : Nat} (i : Nat) (h : m.testBit 5 = true) : okField (R.STREAM_LOOP_LOOP1 i) m = true :=
  ok_far 5 (Fld.blk_elem _ _ _ _ _ _ _ (by decide) (by decide) (by decide) (by decide)) rfl h
theorem ok_STREAM_LOOP_LOOP0 {m : Nat} (i : Nat) (h : m.testBit 5 = true) : okField (R.STREAM_LOOP_LOOP0 i) m = true :=
  ok_far 5 (Fld.blk_elem _ _ _ _ _ _ _ (by decide) (by decide) (by decide) (by decide)) rfl h
theorem ok_STREAM_AD0_CURSOR {m : Nat} (i : Nat) (h : m.testBit 5 = true) : okField (R.STREAM_AD0_CURSOR i) m = true :=
  ok_far 5 (Fld.blk_elem _ _ _ _ _ _ _ (by decide) (by decide) (by decide) (by decide)) rfl h
theorem ok_STREAM_AD0_AD0 {m : Nat} (i : Nat) (h : m.testBit 5 = true) : okField (R.STREAM_AD0_AD0 i) m = true :=
  ok_far 5 (Fld.blk_elem _ _ _ _ _ _ _ (by decide) (by decide) (by decide) (by decide)) rfl h
theorem ok_STREAM_AD1_MARKS {m : Nat} (i : Nat) (h : m.testBit 5 = true) : okField (R.STREAM_AD1_MARKS i) m = true :=
  ok_far 5 (Fld.blk_elem _ _ _ _ _ _ _ (by decide) (by decide) (by decide) (by decide)) rfl h
theorem ok_STREAM_AD1_AD1 {m : Nat} (i : Nat) (h : m.testBit 5 = true) : okField (R.STREAM_AD1_AD1 i) m = true :=
  ok_far 5 (Fld.blk_elem _ _ _ _ _ _ _ (by decide) (by decide) (by decide) (by decide)) rfl h
theorem ok_STREAM_DONE_BYTES {m : Nat} (i : Nat) (h : m.testBit 5 = true) : okField (R.STREAM_DONE_BYTES i) m = true :=
  ok_far 5 (Fld.blk_elem _ _ _ _ _ _ _ (by decide) (by decide) (by decide) (by decide)) rfl h
theorem ok_HQ_SQ_BASE_ADDR {m : Nat} (i : Nat) (h : m.testBit 6 = true) : okField (R.HQ_SQ_BASE_ADDR i) m = true :=
  ok_far 6 (Fld.blk_elem _ _ _ _ _ _ _ (by decide) (by decide) (by decide) (by decide)) rfl h
theorem ok_HQ_CQ_BASE_ADDR {m : Nat} (i : Nat) (h : m.testBit 6 = true) : okField (R.HQ_CQ_BASE_ADDR i) m = true :=
  ok_far 6 (Fld.blk_elem _ _ _ _ _ _ _ (by decide) (by decide) (by decide) (by decide)) rfl h
theorem ok_HQ_Q_CTRL_VECTOR {m : Nat} (i : Nat) (h : m.testBit 6 = true) : okField (R.HQ_Q_CTRL_VECTOR i) m = true :=
  ok_far 6 (Fld.blk_elem _ _ _ _ _ _ _ (by decide) (by decide) (by decide) (by decide)) rfl h
theorem ok_HQ_Q_CTRL_SQ_LOG2 {m : Nat} (i : Nat) (h : m.testBit 6 = true) : okField (R.HQ_Q_CTRL_SQ_LOG2 i) m = true :=
  ok_far 6 (Fld.blk_elem _ _ _ _ _ _ _ (by decide) (by decide) (by decide) (by decide)) rfl h
theorem ok_HQ_Q_CTRL_CQ_LOG2 {m : Nat} (i : Nat) (h : m.testBit 6 = true) : okField (R.HQ_Q_CTRL_CQ_LOG2 i) m = true :=
  ok_far 6 (Fld.blk_elem _ _ _ _ _ _ _ (by decide) (by decide) (by decide) (by decide)) rfl h
theorem ok_HQ_Q_CTRL_ENABLE {m : Nat} (i : Nat) (h : m.testBit 6 = true) : okField (R.HQ_Q_CTRL_ENABLE i) m = true :=
  ok_far 6 (Fld.blk_elem _ _ _ _ _ _ _ (by decide) (by decide) (by decide) (by decide)) rfl h
theorem ok_HQ_SQ_TAIL_TAIL {m : Nat} (i : Nat) (h : m.testBit 6 = true) : okField (R.HQ_SQ_TAIL_TAIL i) m = true :=
  ok_far 6 (Fld.blk_elem _ _ _ _ _ _ _ (by decide) (by decide) (by decide) (by decide)) rfl h
theorem ok_HQ_CQ_HEAD_HEAD {m : Nat} (i : Nat) (h : m.testBit 6 = true) : okField (R.HQ_CQ_HEAD_HEAD i) m = true :=
  ok_far 6 (Fld.blk_elem _ _ _ _ _ _ _ (by decide) (by decide) (by decide) (by decide)) rfl h
theorem ok_HQ_Q_STATUS_SQ_HEAD {m : Nat} (i : Nat) (h : m.testBit 6 = true) : okField (R.HQ_Q_STATUS_SQ_HEAD i) m = true :=
  ok_far 6 (Fld.blk_elem _ _ _ _ _ _ _ (by decide) (by decide) (by decide) (by decide)) rfl h
theorem ok_HQ_Q_STATUS_CQ_TAIL {m : Nat} (i : Nat) (h : m.testBit 6 = true) : okField (R.HQ_Q_STATUS_CQ_TAIL i) m = true :=
  ok_far 6 (Fld.blk_elem _ _ _ _ _ _ _ (by decide) (by decide) (by decide) (by decide)) rfl h
theorem ok_HQ_Q_STATUS_LAST_STATUS {m : Nat} (i : Nat) (h : m.testBit 6 = true) : okField (R.HQ_Q_STATUS_LAST_STATUS i) m = true :=
  ok_far 6 (Fld.blk_elem _ _ _ _ _ _ _ (by decide) (by decide) (by decide) (by decide)) rfl h
theorem ok_HQ_Q_STATUS_STATE {m : Nat} (i : Nat) (h : m.testBit 6 = true) : okField (R.HQ_Q_STATUS_STATE i) m = true :=
  ok_far 6 (Fld.blk_elem _ _ _ _ _ _ _ (by decide) (by decide) (by decide) (by decide)) rfl h
theorem ok_HQ_WINDOW_BASE {m : Nat} (h : m.testBit 6 = true) : okField R.HQ_WINDOW_BASE m = true := ok_far 6 (by decide) rfl h
theorem ok_HQ_HDM_BASE {m : Nat} (h : m.testBit 6 = true) : okField R.HQ_HDM_BASE m = true := ok_far 6 (by decide) rfl h
theorem ok_HQ_LINK_RATE {m : Nat} (h : m.testBit 6 = true) : okField R.HQ_LINK_RATE m = true := ok_far 6 (by decide) rfl h
theorem ok_HQ_LINK_WIDTH {m : Nat} (h : m.testBit 6 = true) : okField R.HQ_LINK_WIDTH m = true := ok_far 6 (by decide) rfl h
theorem ok_HQ_LINK_MPS {m : Nat} (h : m.testBit 6 = true) : okField R.HQ_LINK_MPS m = true := ok_far 6 (by decide) rfl h
theorem ok_HQ_LINK_FULL {m : Nat} (h : m.testBit 6 = true) : okField R.HQ_LINK_FULL m = true := ok_far 6 (by decide) rfl h
theorem ok_HQ_LINK_CXL_MEM {m : Nat} (h : m.testBit 6 = true) : okField R.HQ_LINK_CXL_MEM m = true := ok_far 6 (by decide) rfl h
theorem ok_HQ_LINK_HDM_DB {m : Nat} (h : m.testBit 6 = true) : okField R.HQ_LINK_HDM_DB m = true := ok_far 6 (by decide) rfl h
theorem ok_HQ_LINK_RO {m : Nat} (h : m.testBit 6 = true) : okField R.HQ_LINK_RO m = true := ok_far 6 (by decide) rfl h
theorem ok_HQ_LINK_BME {m : Nat} (h : m.testBit 6 = true) : okField R.HQ_LINK_BME m = true := ok_far 6 (by decide) rfl h
theorem ok_HQ_LINK_MSIX {m : Nat} (h : m.testBit 6 = true) : okField R.HQ_LINK_MSIX m = true := ok_far 6 (by decide) rfl h
theorem ok_HQ_LINK_UP {m : Nat} (h : m.testBit 6 = true) : okField R.HQ_LINK_UP m = true := ok_far 6 (by decide) rfl h
theorem ok_HQ_FAR_FAULT_COUNT {m : Nat} (h : m.testBit 6 = true) : okField R.HQ_FAR_FAULT_COUNT m = true := ok_far 6 (by decide) rfl h
theorem ok_HQ_FAR_FAULT_STATUS {m : Nat} (h : m.testBit 6 = true) : okField R.HQ_FAR_FAULT_STATUS m = true := ok_far 6 (by decide) rfl h
theorem ok_HQ_FAR_FAULT_GO {m : Nat} (h : m.testBit 6 = true) : okField R.HQ_FAR_FAULT_GO m = true := ok_far 6 (by decide) rfl h
theorem ok_HQ_FAR_FAULT_CONTEXT {m : Nat} (h : m.testBit 6 = true) : okField R.HQ_FAR_FAULT_CONTEXT m = true := ok_far 6 (by decide) rfl h
theorem ok_HQ_ERR_COUNT {m : Nat} (h : m.testBit 6 = true) : okField R.HQ_ERR_COUNT m = true := ok_far 6 (by decide) rfl h
theorem ok_HQ_ERR_LAST_STATUS {m : Nat} (h : m.testBit 6 = true) : okField R.HQ_ERR_LAST_STATUS m = true := ok_far 6 (by decide) rfl h
theorem ok_HQ_ERR_CPL_TIMEOUT {m : Nat} (h : m.testBit 6 = true) : okField R.HQ_ERR_CPL_TIMEOUT m = true := ok_far 6 (by decide) rfl h
theorem ok_HQ_ERR_CPL_ERROR {m : Nat} (h : m.testBit 6 = true) : okField R.HQ_ERR_CPL_ERROR m = true := ok_far 6 (by decide) rfl h
theorem ok_HQ_ERR_POISON_RX {m : Nat} (h : m.testBit 6 = true) : okField R.HQ_ERR_POISON_RX m = true := ok_far 6 (by decide) rfl h
theorem ok_HQ_ERR_REFUSED {m : Nat} (h : m.testBit 6 = true) : okField R.HQ_ERR_REFUSED m = true := ok_far 6 (by decide) rfl h
theorem ok_HQ_ERR_QUEUE {m : Nat} (h : m.testBit 6 = true) : okField R.HQ_ERR_QUEUE m = true := ok_far 6 (by decide) rfl h
theorem ok_HQ_ERR_FAR_FAULT {m : Nat} (h : m.testBit 6 = true) : okField R.HQ_ERR_FAR_FAULT m = true := ok_far 6 (by decide) rfl h
theorem ok_HQ_RESET_LOG_AT {m : Nat} (h : m.testBit 6 = true) : okField R.HQ_RESET_LOG_AT m = true := ok_far 6 (by decide) rfl h
theorem ok_HQ_RESET_LOG_COUNT {m : Nat} (h : m.testBit 6 = true) : okField R.HQ_RESET_LOG_COUNT m = true := ok_far 6 (by decide) rfl h
theorem ok_HQ_RESET_LOG_CAUSE {m : Nat} (h : m.testBit 6 = true) : okField R.HQ_RESET_LOG_CAUSE m = true := ok_far 6 (by decide) rfl h
theorem ok_HQ_RESET_LOG_ORPHANED {m : Nat} (h : m.testBit 6 = true) : okField R.HQ_RESET_LOG_ORPHANED m = true := ok_far 6 (by decide) rfl h
theorem ok_MSIX_ADDR_ADDR {m : Nat} (i : Nat) (h : m.testBit 6 = true) : okField (R.MSIX_ADDR_ADDR i) m = true :=
  ok_far 6 (Fld.blk_elem _ _ _ _ _ _ _ (by decide) (by decide) (by decide) (by decide)) rfl h
theorem ok_MSIX_CTRL_MASK {m : Nat} (i : Nat) (h : m.testBit 6 = true) : okField (R.MSIX_CTRL_MASK i) m = true :=
  ok_far 6 (Fld.blk_elem _ _ _ _ _ _ _ (by decide) (by decide) (by decide) (by decide)) rfl h
theorem ok_MSIX_CTRL_DATA {m : Nat} (i : Nat) (h : m.testBit 6 = true) : okField (R.MSIX_CTRL_DATA i) m = true :=
  ok_far 6 (Fld.blk_elem _ _ _ _ _ _ _ (by decide) (by decide) (by decide) (by decide)) rfl h
theorem ok_MSIX_PBA_BITS {m : Nat} (i : Nat) (h : m.testBit 6 = true) : okField (R.MSIX_PBA_BITS i) m = true :=
  ok_far 6 (Fld.blk_elem _ _ _ _ _ _ _ (by decide) (by decide) (by decide) (by decide)) rfl h
theorem ok_CXL_COMP_VALUE {m : Nat} (i : Nat) (h : m.testBit 6 = true) : okField (R.CXL_COMP_VALUE i) m = true :=
  ok_far 6 (Fld.blk_elem _ _ _ _ _ _ _ (by decide) (by decide) (by decide) (by decide)) rfl h
theorem ok_TIER_STATUS_TABLES {m : Nat} (h : m.testBit 7 = true) : okField R.TIER_STATUS_TABLES m = true := ok_far 7 (by decide) rfl h
theorem ok_TIER_STATUS_LENDS {m : Nat} (h : m.testBit 7 = true) : okField R.TIER_STATUS_LENDS m = true := ok_far 7 (by decide) rfl h
theorem ok_TIER_STATUS_MODE {m : Nat} (h : m.testBit 7 = true) : okField R.TIER_STATUS_MODE m = true := ok_far 7 (by decide) rfl h
theorem ok_TIER_HOST_BASE {m : Nat} (h : m.testBit 7 = true) : okField R.TIER_HOST_BASE m = true := ok_far 7 (by decide) rfl h
theorem ok_TIER_HOST_PAGES_PAGES {m : Nat} (h : m.testBit 7 = true) : okField R.TIER_HOST_PAGES_PAGES m = true := ok_far 7 (by decide) rfl h
theorem ok_TIER_MAP_OA_PAGE {m : Nat} (h : m.testBit 7 = true) : okField R.TIER_MAP_OA_PAGE m = true := ok_far 7 (by decide) rfl h
theorem ok_TIER_MAP_CTRL_PAGES {m : Nat} (h : m.testBit 7 = true) : okField R.TIER_MAP_CTRL_PAGES m = true := ok_far 7 (by decide) rfl h
theorem ok_TIER_MAP_CTRL_CLASS {m : Nat} (h : m.testBit 7 = true) : okField R.TIER_MAP_CTRL_CLASS m = true := ok_far 7 (by decide) rfl h
theorem ok_TIER_MAP_CTRL_OP {m : Nat} (h : m.testBit 7 = true) : okField R.TIER_MAP_CTRL_OP m = true := ok_far 7 (by decide) rfl h
theorem ok_TIER_MAP_CTRL_SLICE {m : Nat} (h : m.testBit 7 = true) : okField R.TIER_MAP_CTRL_SLICE m = true := ok_far 7 (by decide) rfl h
theorem ok_TIER_MAP_CTRL_HOSTCACHE {m : Nat} (h : m.testBit 7 = true) : okField R.TIER_MAP_CTRL_HOSTCACHE m = true := ok_far 7 (by decide) rfl h
theorem ok_TIER_MAP_CTRL_GO {m : Nat} (h : m.testBit 7 = true) : okField R.TIER_MAP_CTRL_GO m = true := ok_far 7 (by decide) rfl h
theorem ok_TIER_MAP_STATUS_DONE {m : Nat} (h : m.testBit 7 = true) : okField R.TIER_MAP_STATUS_DONE m = true := ok_far 7 (by decide) rfl h
theorem ok_TIER_MAP_STATUS_STATUS {m : Nat} (h : m.testBit 7 = true) : okField R.TIER_MAP_STATUS_STATUS m = true := ok_far 7 (by decide) rfl h
theorem ok_TIER_MAP_STATUS_BUSY {m : Nat} (h : m.testBit 7 = true) : okField R.TIER_MAP_STATUS_BUSY m = true := ok_far 7 (by decide) rfl h
theorem ok_TIER_MIGRATE_DONE {m : Nat} (h : m.testBit 7 = true) : okField R.TIER_MIGRATE_DONE m = true := ok_far 7 (by decide) rfl h
theorem ok_TIER_MIGRATE_QUEUED {m : Nat} (h : m.testBit 7 = true) : okField R.TIER_MIGRATE_QUEUED m = true := ok_far 7 (by decide) rfl h
theorem ok_TIER_POOL_FREE_HBM {m : Nat} (h : m.testBit 7 = true) : okField R.TIER_POOL_FREE_HBM m = true := ok_far 7 (by decide) rfl h
theorem ok_TIER_POOL_LOW {m : Nat} (h : m.testBit 7 = true) : okField R.TIER_POOL_LOW m = true := ok_far 7 (by decide) rfl h
theorem ok_TIER_BIAS_CMD_PAGE {m : Nat} (h : m.testBit 7 = true) : okField R.TIER_BIAS_CMD_PAGE m = true := ok_far 7 (by decide) rfl h
theorem ok_TIER_BIAS_CMD_STATUS {m : Nat} (h : m.testBit 7 = true) : okField R.TIER_BIAS_CMD_STATUS m = true := ok_far 7 (by decide) rfl h
theorem ok_TIER_BIAS_CMD_BUSY {m : Nat} (h : m.testBit 7 = true) : okField R.TIER_BIAS_CMD_BUSY m = true := ok_far 7 (by decide) rfl h
theorem ok_TIER_BIAS_CMD_TO_HOST {m : Nat} (h : m.testBit 7 = true) : okField R.TIER_BIAS_CMD_TO_HOST m = true := ok_far 7 (by decide) rfl h
theorem ok_TIER_BIAS_CMD_GO {m : Nat} (h : m.testBit 7 = true) : okField R.TIER_BIAS_CMD_GO m = true := ok_far 7 (by decide) rfl h
theorem ok_TIER_LOOKUP_OA_PAGE {m : Nat} (h : m.testBit 7 = true) : okField R.TIER_LOOKUP_OA_PAGE m = true := ok_far 7 (by decide) rfl h
theorem ok_TIER_LOOKUP_ENTRY_STATE {m : Nat} (h : m.testBit 7 = true) : okField R.TIER_LOOKUP_ENTRY_STATE m = true := ok_far 7 (by decide) rfl h
theorem ok_TIER_LOOKUP_ENTRY_CLASS {m : Nat} (h : m.testBit 7 = true) : okField R.TIER_LOOKUP_ENTRY_CLASS m = true := ok_far 7 (by decide) rfl h
theorem ok_TIER_LOOKUP_ENTRY_HOSTCACHE {m : Nat} (h : m.testBit 7 = true) : okField R.TIER_LOOKUP_ENTRY_HOSTCACHE m = true := ok_far 7 (by decide) rfl h
theorem ok_TIER_LOOKUP_ENTRY_BIAS {m : Nat} (h : m.testBit 7 = true) : okField R.TIER_LOOKUP_ENTRY_BIAS m = true := ok_far 7 (by decide) rfl h
theorem ok_TIER_LOOKUP_ENTRY_LENT {m : Nat} (h : m.testBit 7 = true) : okField R.TIER_LOOKUP_ENTRY_LENT m = true := ok_far 7 (by decide) rfl h
theorem ok_TIER_LOOKUP_ENTRY_DA_PAGE {m : Nat} (h : m.testBit 7 = true) : okField R.TIER_LOOKUP_ENTRY_DA_PAGE m = true := ok_far 7 (by decide) rfl h
theorem ok_TIER_ERR_COUNT {m : Nat} (h : m.testBit 7 = true) : okField R.TIER_ERR_COUNT m = true := ok_far 7 (by decide) rfl h
theorem ok_TIER_ERR_LAST_STATUS {m : Nat} (h : m.testBit 7 = true) : okField R.TIER_ERR_LAST_STATUS m = true := ok_far 7 (by decide) rfl h
theorem ok_TIER_ERR_PEER_REFUSED {m : Nat} (h : m.testBit 7 = true) : okField R.TIER_ERR_PEER_REFUSED m = true := ok_far 7 (by decide) rfl h
theorem ok_TIER_ERR_BIAS_REFUSED {m : Nat} (h : m.testBit 7 = true) : okField R.TIER_ERR_BIAS_REFUSED m = true := ok_far 7 (by decide) rfl h
theorem ok_TIER_ERR_UNMAPPED {m : Nat} (h : m.testBit 7 = true) : okField R.TIER_ERR_UNMAPPED m = true := ok_far 7 (by decide) rfl h
theorem ok_TIER_ERR_TABLE_ERR {m : Nat} (h : m.testBit 7 = true) : okField R.TIER_ERR_TABLE_ERR m = true := ok_far 7 (by decide) rfl h
theorem ok_TIER_PEER_BASE {m : Nat} (i : Nat) (h : m.testBit 7 = true) : okField (R.TIER_PEER_BASE i) m = true :=
  ok_far 7 (Fld.blk_elem _ _ _ _ _ _ _ (by decide) (by decide) (by decide) (by decide)) rfl h
theorem ok_TIER_PEER_PAGES {m : Nat} (i : Nat) (h : m.testBit 7 = true) : okField (R.TIER_PEER_PAGES i) m = true :=
  ok_far 7 (Fld.blk_elem _ _ _ _ _ _ _ (by decide) (by decide) (by decide) (by decide)) rfl h
theorem ok_TIER_PEER_VALID {m : Nat} (i : Nat) (h : m.testBit 7 = true) : okField (R.TIER_PEER_VALID i) m = true :=
  ok_far 7 (Fld.blk_elem _ _ _ _ _ _ _ (by decide) (by decide) (by decide) (by decide)) rfl h
theorem ok_TIER_LEND_A_OA {m : Nat} (i : Nat) (h : m.testBit 7 = true) : okField (R.TIER_LEND_A_OA i) m = true :=
  ok_far 7 (Fld.blk_elem _ _ _ _ _ _ _ (by decide) (by decide) (by decide) (by decide)) rfl h
theorem ok_TIER_LEND_A_PAGES {m : Nat} (i : Nat) (h : m.testBit 7 = true) : okField (R.TIER_LEND_A_PAGES i) m = true :=
  ok_far 7 (Fld.blk_elem _ _ _ _ _ _ _ (by decide) (by decide) (by decide) (by decide)) rfl h
theorem ok_TIER_LEND_B_OFF {m : Nat} (i : Nat) (h : m.testBit 7 = true) : okField (R.TIER_LEND_B_OFF i) m = true :=
  ok_far 7 (Fld.blk_elem _ _ _ _ _ _ _ (by decide) (by decide) (by decide) (by decide)) rfl h
theorem ok_TIER_LEND_B_WRITE {m : Nat} (i : Nat) (h : m.testBit 7 = true) : okField (R.TIER_LEND_B_WRITE i) m = true :=
  ok_far 7 (Fld.blk_elem _ _ _ _ _ _ _ (by decide) (by decide) (by decide) (by decide)) rfl h
theorem ok_TIER_LEND_B_VALID {m : Nat} (i : Nat) (h : m.testBit 7 = true) : okField (R.TIER_LEND_B_VALID i) m = true :=
  ok_far 7 (Fld.blk_elem _ _ _ _ _ _ _ (by decide) (by decide) (by decide) (by decide)) rfl h
theorem ok_TIER_BIAS_BIAS {m : Nat} (i : Nat) (h : m.testBit 7 = true) : okField (R.TIER_BIAS_BIAS i) m = true :=
  ok_far 7 (Fld.blk_elem _ _ _ _ _ _ _ (by decide) (by decide) (by decide) (by decide)) rfl h
theorem ok_TIER_DIR_KIND {m : Nat} (i : Nat) (h : m.testBit 7 = true) : okField (R.TIER_DIR_KIND i) m = true :=
  ok_far 7 (Fld.blk_elem _ _ _ _ _ _ _ (by decide) (by decide) (by decide) (by decide)) rfl h
theorem ok_TIER_DIR_CLASS {m : Nat} (i : Nat) (h : m.testBit 7 = true) : okField (R.TIER_DIR_CLASS i) m = true :=
  ok_far 7 (Fld.blk_elem _ _ _ _ _ _ _ (by decide) (by decide) (by decide) (by decide)) rfl h
theorem ok_TIER_DIR_HOSTCACHE {m : Nat} (i : Nat) (h : m.testBit 7 = true) : okField (R.TIER_DIR_HOSTCACHE i) m = true :=
  ok_far 7 (Fld.blk_elem _ _ _ _ _ _ _ (by decide) (by decide) (by decide) (by decide)) rfl h
theorem ok_TIER_DIR_TARGET {m : Nat} (i : Nat) (h : m.testBit 7 = true) : okField (R.TIER_DIR_TARGET i) m = true :=
  ok_far 7 (Fld.blk_elem _ _ _ _ _ _ _ (by decide) (by decide) (by decide) (by decide)) rfl h
theorem ok_FTL_STATUS_CH_FAILED {m : Nat} (h : m.testBit 8 = true) : okField R.FTL_STATUS_CH_FAILED m = true := ok_far 8 (by decide) rfl h
theorem ok_FTL_STATUS_CH_DEGRADED {m : Nat} (h : m.testBit 8 = true) : okField R.FTL_STATUS_CH_DEGRADED m = true := ok_far 8 (by decide) rfl h
theorem ok_FTL_STATUS_RATE {m : Nat} (h : m.testBit 8 = true) : okField R.FTL_STATUS_RATE m = true := ok_far 8 (by decide) rfl h
theorem ok_FTL_STATUS_STATE {m : Nat} (h : m.testBit 8 = true) : okField R.FTL_STATUS_STATE m = true := ok_far 8 (by decide) rfl h
theorem ok_FTL_GEOMETRY_BLOCKS {m : Nat} (h : m.testBit 8 = true) : okField R.FTL_GEOMETRY_BLOCKS m = true := ok_far 8 (by decide) rfl h
theorem ok_FTL_GEOMETRY_WORDLINES {m : Nat} (h : m.testBit 8 = true) : okField R.FTL_GEOMETRY_WORDLINES m = true := ok_far 8 (by decide) rfl h
theorem ok_FTL_GEOMETRY_LUNS {m : Nat} (h : m.testBit 8 = true) : okField R.FTL_GEOMETRY_LUNS m = true := ok_far 8 (by decide) rfl h
theorem ok_FTL_GEOMETRY_TARGETS {m : Nat} (h : m.testBit 8 = true) : okField R.FTL_GEOMETRY_TARGETS m = true := ok_far 8 (by decide) rfl h
theorem ok_FTL_REGION_SLC_OP {m : Nat} (h : m.testBit 8 = true) : okField R.FTL_REGION_SLC_OP m = true := ok_far 8 (by decide) rfl h
theorem ok_FTL_REGION_SLC_UNITS {m : Nat} (h : m.testBit 8 = true) : okField R.FTL_REGION_SLC_UNITS m = true := ok_far 8 (by decide) rfl h
theorem ok_FTL_REGION_TLC_OP {m : Nat} (h : m.testBit 8 = true) : okField R.FTL_REGION_TLC_OP m = true := ok_far 8 (by decide) rfl h
theorem ok_FTL_REGION_TLC_UNITS {m : Nat} (h : m.testBit 8 = true) : okField R.FTL_REGION_TLC_UNITS m = true := ok_far 8 (by decide) rfl h
theorem ok_FTL_FORMAT_STATUS {m : Nat} (h : m.testBit 8 = true) : okField R.FTL_FORMAT_STATUS m = true := ok_far 8 (by decide) rfl h
theorem ok_FTL_FORMAT_BUSY {m : Nat} (h : m.testBit 8 = true) : okField R.FTL_FORMAT_BUSY m = true := ok_far 8 (by decide) rfl h
theorem ok_FTL_FORMAT_SLOW {m : Nat} (h : m.testBit 8 = true) : okField R.FTL_FORMAT_SLOW m = true := ok_far 8 (by decide) rfl h
theorem ok_FTL_FORMAT_GO {m : Nat} (h : m.testBit 8 = true) : okField R.FTL_FORMAT_GO m = true := ok_far 8 (by decide) rfl h
theorem ok_FTL_AREA_PAGES {m : Nat} (h : m.testBit 8 = true) : okField R.FTL_AREA_PAGES m = true := ok_far 8 (by decide) rfl h
theorem ok_FTL_AREA_FIRST_PAGE {m : Nat} (h : m.testBit 8 = true) : okField R.FTL_AREA_FIRST_PAGE m = true := ok_far 8 (by decide) rfl h
theorem ok_FTL_COMMIT_DURABLE_STEP {m : Nat} (h : m.testBit 8 = true) : okField R.FTL_COMMIT_DURABLE_STEP m = true := ok_far 8 (by decide) rfl h
theorem ok_FTL_COMMIT_COMMITTED_STEP {m : Nat} (h : m.testBit 8 = true) : okField R.FTL_COMMIT_COMMITTED_STEP m = true := ok_far 8 (by decide) rfl h
theorem ok_FTL_FREE_TLC {m : Nat} (h : m.testBit 8 = true) : okField R.FTL_FREE_TLC m = true := ok_far 8 (by decide) rfl h
theorem ok_FTL_FREE_SLC {m : Nat} (h : m.testBit 8 = true) : okField R.FTL_FREE_SLC m = true := ok_far 8 (by decide) rfl h
theorem ok_FTL_DISTURB_TLC_LIMIT_K {m : Nat} (h : m.testBit 8 = true) : okField R.FTL_DISTURB_TLC_LIMIT_K m = true := ok_far 8 (by decide) rfl h
theorem ok_FTL_DISTURB_SLC_LIMIT_K {m : Nat} (h : m.testBit 8 = true) : okField R.FTL_DISTURB_SLC_LIMIT_K m = true := ok_far 8 (by decide) rfl h
theorem ok_FTL_DISTURB_QUEUED {m : Nat} (h : m.testBit 8 = true) : okField R.FTL_DISTURB_QUEUED m = true := ok_far 8 (by decide) rfl h
theorem ok_FTL_WEAR_SLC_MAX {m : Nat} (h : m.testBit 8 = true) : okField R.FTL_WEAR_SLC_MAX m = true := ok_far 8 (by decide) rfl h
theorem ok_FTL_WEAR_SLC_MIN {m : Nat} (h : m.testBit 8 = true) : okField R.FTL_WEAR_SLC_MIN m = true := ok_far 8 (by decide) rfl h
theorem ok_FTL_WEAR_SLC_MEAN {m : Nat} (h : m.testBit 8 = true) : okField R.FTL_WEAR_SLC_MEAN m = true := ok_far 8 (by decide) rfl h
theorem ok_FTL_WEAR_SLC_RATED {m : Nat} (h : m.testBit 8 = true) : okField R.FTL_WEAR_SLC_RATED m = true := ok_far 8 (by decide) rfl h
theorem ok_FTL_WEAR_TLC_MAX {m : Nat} (h : m.testBit 8 = true) : okField R.FTL_WEAR_TLC_MAX m = true := ok_far 8 (by decide) rfl h
theorem ok_FTL_WEAR_TLC_MIN {m : Nat} (h : m.testBit 8 = true) : okField R.FTL_WEAR_TLC_MIN m = true := ok_far 8 (by decide) rfl h
theorem ok_FTL_WEAR_TLC_MEAN {m : Nat} (h : m.testBit 8 = true) : okField R.FTL_WEAR_TLC_MEAN m = true := ok_far 8 (by decide) rfl h
theorem ok_FTL_WEAR_TLC_RATED {m : Nat} (h : m.testBit 8 = true) : okField R.FTL_WEAR_TLC_RATED m = true := ok_far 8 (by decide) rfl h
theorem ok_FTL_STEP_SHADOW_UNITS {m : Nat} (h : m.testBit 8 = true) : okField R.FTL_STEP_SHADOW_UNITS m = true := ok_far 8 (by decide) rfl h
theorem ok_FTL_STEP_RETRIES {m : Nat} (h : m.testBit 8 = true) : okField R.FTL_STEP_RETRIES m = true := ok_far 8 (by decide) rfl h
theorem ok_FTL_STEP_UNCORRECTABLE {m : Nat} (h : m.testBit 8 = true) : okField R.FTL_STEP_UNCORRECTABLE m = true := ok_far 8 (by decide) rfl h
theorem ok_FTL_ERR_COUNT {m : Nat} (h : m.testBit 8 = true) : okField R.FTL_ERR_COUNT m = true := ok_far 8 (by decide) rfl h
theorem ok_FTL_ERR_LAST_STATUS {m : Nat} (h : m.testBit 8 = true) : okField R.FTL_ERR_LAST_STATUS m = true := ok_far 8 (by decide) rfl h
theorem ok_FTL_ERR_DISTURB_LATE {m : Nat} (h : m.testBit 8 = true) : okField R.FTL_ERR_DISTURB_LATE m = true := ok_far 8 (by decide) rfl h
theorem ok_FTL_ERR_NO_SPACE {m : Nat} (h : m.testBit 8 = true) : okField R.FTL_ERR_NO_SPACE m = true := ok_far 8 (by decide) rfl h
theorem ok_FTL_ERR_LUN_RETIRED {m : Nat} (h : m.testBit 8 = true) : okField R.FTL_ERR_LUN_RETIRED m = true := ok_far 8 (by decide) rfl h
theorem ok_FTL_ERR_GROWN_BAD {m : Nat} (h : m.testBit 8 = true) : okField R.FTL_ERR_GROWN_BAD m = true := ok_far 8 (by decide) rfl h
theorem ok_FTL_ERR_UNCORRECTABLE {m : Nat} (h : m.testBit 8 = true) : okField R.FTL_ERR_UNCORRECTABLE m = true := ok_far 8 (by decide) rfl h
theorem ok_FTL_ERR_WEAR_WARN {m : Nat} (h : m.testBit 8 = true) : okField R.FTL_ERR_WEAR_WARN m = true := ok_far 8 (by decide) rfl h
theorem ok_FTL_CH_GROWN_BAD {m : Nat} (i : Nat) (h : m.testBit 8 = true) : okField (R.FTL_CH_GROWN_BAD i) m = true :=
  ok_far 8 (Fld.blk_elem _ _ _ _ _ _ _ (by decide) (by decide) (by decide) (by decide)) rfl h
theorem ok_FTL_CH_LANE_MIN {m : Nat} (i : Nat) (h : m.testBit 8 = true) : okField (R.FTL_CH_LANE_MIN i) m = true :=
  ok_far 8 (Fld.blk_elem _ _ _ _ _ _ _ (by decide) (by decide) (by decide) (by decide)) rfl h
theorem ok_FTL_CH_LUNS {m : Nat} (i : Nat) (h : m.testBit 8 = true) : okField (R.FTL_CH_LUNS i) m = true :=
  ok_far 8 (Fld.blk_elem _ _ _ _ _ _ _ (by decide) (by decide) (by decide) (by decide)) rfl h
theorem ok_FTL_CH_STATE {m : Nat} (i : Nat) (h : m.testBit 8 = true) : okField (R.FTL_CH_STATE i) m = true :=
  ok_far 8 (Fld.blk_elem _ _ _ _ _ _ _ (by decide) (by decide) (by decide) (by decide)) rfl h
theorem ok_CLU_MAP_LOGICAL {m : Nat} (i : Nat) (h : m.testBit 9 = true) : okField (R.CLU_MAP_LOGICAL i) m = true :=
  ok_far 9 (Fld.blk_elem _ _ _ _ _ _ _ (by decide) (by decide) (by decide) (by decide)) rfl h
theorem ok_CLU_MAP_STATE {m : Nat} (i : Nat) (h : m.testBit 9 = true) : okField (R.CLU_MAP_STATE i) m = true :=
  ok_far 9 (Fld.blk_elem _ _ _ _ _ _ _ (by decide) (by decide) (by decide) (by decide)) rfl h
theorem ok_CLU_POWER_WAKE_AT {m : Nat} (i : Nat) (h : m.testBit 9 = true) : okField (R.CLU_POWER_WAKE_AT i) m = true :=
  ok_far 9 (Fld.blk_elem _ _ _ _ _ _ _ (by decide) (by decide) (by decide) (by decide)) rfl h
theorem ok_CLU_POWER_STATE {m : Nat} (i : Nat) (h : m.testBit 9 = true) : okField (R.CLU_POWER_STATE i) m = true :=
  ok_far 9 (Fld.blk_elem _ _ _ _ _ _ _ (by decide) (by decide) (by decide) (by decide)) rfl h
theorem ok_CLU_SEGMENT_PROGRAM {m : Nat} (i : Nat) (h : m.testBit 9 = true) : okField (R.CLU_SEGMENT_PROGRAM i) m = true :=
  ok_far 9 (Fld.blk_elem _ _ _ _ _ _ _ (by decide) (by decide) (by decide) (by decide)) rfl h
theorem ok_CLU_SEGMENT_LIFELINE {m : Nat} (i : Nat) (h : m.testBit 9 = true) : okField (R.CLU_SEGMENT_LIFELINE i) m = true :=
  ok_far 9 (Fld.blk_elem _ _ _ _ _ _ _ (by decide) (by decide) (by decide) (by decide)) rfl h
theorem ok_CLU_SEGMENT_SLICE {m : Nat} (i : Nat) (h : m.testBit 9 = true) : okField (R.CLU_SEGMENT_SLICE i) m = true :=
  ok_far 9 (Fld.blk_elem _ _ _ _ _ _ _ (by decide) (by decide) (by decide) (by decide)) rfl h
theorem ok_CLU_SEGMENT_MB {m : Nat} (i : Nat) (h : m.testBit 9 = true) : okField (R.CLU_SEGMENT_MB i) m = true :=
  ok_far 9 (Fld.blk_elem _ _ _ _ _ _ _ (by decide) (by decide) (by decide) (by decide)) rfl h
theorem ok_CLU_SEGMENT_REPLAY {m : Nat} (i : Nat) (h : m.testBit 9 = true) : okField (R.CLU_SEGMENT_REPLAY i) m = true :=
  ok_far 9 (Fld.blk_elem _ _ _ _ _ _ _ (by decide) (by decide) (by decide) (by decide)) rfl h
theorem ok_CLU_SEGMENT_LEAD {m : Nat} (i : Nat) (h : m.testBit 9 = true) : okField (R.CLU_SEGMENT_LEAD i) m = true :=
  ok_far 9 (Fld.blk_elem _ _ _ _ _ _ _ (by decide) (by decide) (by decide) (by decide)) rfl h
theorem ok_CLU_SEGMENT_BUSY {m : Nat} (i : Nat) (h : m.testBit 9 = true) : okField (R.CLU_SEGMENT_BUSY i) m = true :=
  ok_far 9 (Fld.blk_elem _ _ _ _ _ _ _ (by decide) (by decide) (by decide) (by decide)) rfl h
theorem ok_CLU_BUSY_CYCLES {m : Nat} (i : Nat) (h : m.testBit 9 = true) : okField (R.CLU_BUSY_CYCLES i) m = true :=
  ok_far 9 (Fld.blk_elem _ _ _ _ _ _ _ (by decide) (by decide) (by decide) (by decide)) rfl h
theorem ok_CLU_SEGMENTS_COUNT {m : Nat} (i : Nat) (h : m.testBit 9 = true) : okField (R.CLU_SEGMENTS_COUNT i) m = true :=
  ok_far 9 (Fld.blk_elem _ _ _ _ _ _ _ (by decide) (by decide) (by decide) (by decide)) rfl h
theorem ok_CLU_ERR_LAST_STATUS {m : Nat} (i : Nat) (h : m.testBit 9 = true) : okField (R.CLU_ERR_LAST_STATUS i) m = true :=
  ok_far 9 (Fld.blk_elem _ _ _ _ _ _ _ (by decide) (by decide) (by decide) (by decide)) rfl h
theorem ok_CLU_ERR_REPLAYED {m : Nat} (i : Nat) (h : m.testBit 9 = true) : okField (R.CLU_ERR_REPLAYED i) m = true :=
  ok_far 9 (Fld.blk_elem _ _ _ _ _ _ _ (by decide) (by decide) (by decide) (by decide)) rfl h
theorem ok_CLU_ERR_NONFINITE_OUT {m : Nat} (i : Nat) (h : m.testBit 9 = true) : okField (R.CLU_ERR_NONFINITE_OUT i) m = true :=
  ok_far 9 (Fld.blk_elem _ _ _ _ _ _ _ (by decide) (by decide) (by decide) (by decide)) rfl h
theorem ok_CLU_ERR_INPUT_MARKED {m : Nat} (i : Nat) (h : m.testBit 9 = true) : okField (R.CLU_ERR_INPUT_MARKED i) m = true :=
  ok_far 9 (Fld.blk_elem _ _ _ _ _ _ _ (by decide) (by decide) (by decide) (by decide)) rfl h
theorem ok_SKEIN_MAP_LOGICAL {m : Nat} (i : Nat) (h : m.testBit 10 = true) : okField (R.SKEIN_MAP_LOGICAL i) m = true :=
  ok_far 10 (Fld.blk_elem _ _ _ _ _ _ _ (by decide) (by decide) (by decide) (by decide)) rfl h
theorem ok_SKEIN_MAP_STATE {m : Nat} (i : Nat) (h : m.testBit 10 = true) : okField (R.SKEIN_MAP_STATE i) m = true :=
  ok_far 10 (Fld.blk_elem _ _ _ _ _ _ _ (by decide) (by decide) (by decide) (by decide)) rfl h
theorem ok_SKEIN_ENC_BYTES {m : Nat} (i : Nat) (h : m.testBit 10 = true) : okField (R.SKEIN_ENC_BYTES i) m = true :=
  ok_far 10 (Fld.blk_elem _ _ _ _ _ _ _ (by decide) (by decide) (by decide) (by decide)) rfl h
theorem ok_SKEIN_DEC_BYTES {m : Nat} (i : Nat) (h : m.testBit 10 = true) : okField (R.SKEIN_DEC_BYTES i) m = true :=
  ok_far 10 (Fld.blk_elem _ _ _ _ _ _ _ (by decide) (by decide) (by decide) (by decide)) rfl h
theorem ok_SKEIN_CTX_DEC_STREAM {m : Nat} (i : Nat) (h : m.testBit 10 = true) : okField (R.SKEIN_CTX_DEC_STREAM i) m = true :=
  ok_far 10 (Fld.blk_elem _ _ _ _ _ _ _ (by decide) (by decide) (by decide) (by decide)) rfl h
theorem ok_SKEIN_CTX_ENC_STREAM {m : Nat} (i : Nat) (h : m.testBit 10 = true) : okField (R.SKEIN_CTX_ENC_STREAM i) m = true :=
  ok_far 10 (Fld.blk_elem _ _ _ _ _ _ _ (by decide) (by decide) (by decide) (by decide)) rfl h
theorem ok_SKEIN_CTX_DEC_OPEN {m : Nat} (i : Nat) (h : m.testBit 10 = true) : okField (R.SKEIN_CTX_DEC_OPEN i) m = true :=
  ok_far 10 (Fld.blk_elem _ _ _ _ _ _ _ (by decide) (by decide) (by decide) (by decide)) rfl h
theorem ok_SKEIN_CTX_ENC_OPEN {m : Nat} (i : Nat) (h : m.testBit 10 = true) : okField (R.SKEIN_CTX_ENC_OPEN i) m = true :=
  ok_far 10 (Fld.blk_elem _ _ _ _ _ _ _ (by decide) (by decide) (by decide) (by decide)) rfl h
theorem ok_SKEIN_ERR_CHECK_FAILS {m : Nat} (i : Nat) (h : m.testBit 10 = true) : okField (R.SKEIN_ERR_CHECK_FAILS i) m = true :=
  ok_far 10 (Fld.blk_elem _ _ _ _ _ _ _ (by decide) (by decide) (by decide) (by decide)) rfl h
theorem ok_SKEIN_ERR_LAST_STATUS {m : Nat} (i : Nat) (h : m.testBit 10 = true) : okField (R.SKEIN_ERR_LAST_STATUS i) m = true :=
  ok_far 10 (Fld.blk_elem _ _ _ _ _ _ _ (by decide) (by decide) (by decide) (by decide)) rfl h
theorem ok_SKEIN_ERR_MARKED_IN {m : Nat} (i : Nat) (h : m.testBit 10 = true) : okField (R.SKEIN_ERR_MARKED_IN i) m = true :=
  ok_far 10 (Fld.blk_elem _ _ _ _ _ _ _ (by decide) (by decide) (by decide) (by decide)) rfl h
theorem ok_SKEIN_ERR_HDR_FAIL {m : Nat} (i : Nat) (h : m.testBit 10 = true) : okField (R.SKEIN_ERR_HDR_FAIL i) m = true :=
  ok_far 10 (Fld.blk_elem _ _ _ _ _ _ _ (by decide) (by decide) (by decide) (by decide)) rfl h
theorem ok_SKEIN_ERR_BLOCK_FAIL {m : Nat} (i : Nat) (h : m.testBit 10 = true) : okField (R.SKEIN_ERR_BLOCK_FAIL i) m = true :=
  ok_far 10 (Fld.blk_elem _ _ _ _ _ _ _ (by decide) (by decide) (by decide) (by decide)) rfl h
theorem ok_EXP_STAT_CHUNKS {m : Nat} (i : Nat) (h : m.testBit 10 = true) : okField (R.EXP_STAT_CHUNKS i) m = true :=
  ok_far 10 (Fld.blk_elem _ _ _ _ _ _ _ (by decide) (by decide) (by decide) (by decide)) rfl h
theorem ok_EXP_STAT_LOGICAL {m : Nat} (i : Nat) (h : m.testBit 10 = true) : okField (R.EXP_STAT_LOGICAL i) m = true :=
  ok_far 10 (Fld.blk_elem _ _ _ _ _ _ _ (by decide) (by decide) (by decide) (by decide)) rfl h
theorem ok_EXP_STAT_STATE {m : Nat} (i : Nat) (h : m.testBit 10 = true) : okField (R.EXP_STAT_STATE i) m = true :=
  ok_far 10 (Fld.blk_elem _ _ _ _ _ _ _ (by decide) (by decide) (by decide) (by decide)) rfl h
theorem ok_EXP_ERR_CHECK_FAILS {m : Nat} (i : Nat) (h : m.testBit 10 = true) : okField (R.EXP_ERR_CHECK_FAILS i) m = true :=
  ok_far 10 (Fld.blk_elem _ _ _ _ _ _ _ (by decide) (by decide) (by decide) (by decide)) rfl h
theorem ok_EXP_ERR_LAST_STATUS {m : Nat} (i : Nat) (h : m.testBit 10 = true) : okField (R.EXP_ERR_LAST_STATUS i) m = true :=
  ok_far 10 (Fld.blk_elem _ _ _ _ _ _ _ (by decide) (by decide) (by decide) (by decide)) rfl h
theorem ok_EXP_ERR_REF_REFUSED {m : Nat} (i : Nat) (h : m.testBit 10 = true) : okField (R.EXP_ERR_REF_REFUSED i) m = true :=
  ok_far 10 (Fld.blk_elem _ _ _ _ _ _ _ (by decide) (by decide) (by decide) (by decide)) rfl h
theorem ok_EXP_ERR_BLOCK_FAIL {m : Nat} (i : Nat) (h : m.testBit 10 = true) : okField (R.EXP_ERR_BLOCK_FAIL i) m = true :=
  ok_far 10 (Fld.blk_elem _ _ _ _ _ _ _ (by decide) (by decide) (by decide) (by decide)) rfl h
theorem ok_SKEIN_WALK_PARTS_LOST {m : Nat} (h : m.testBit 10 = true) : okField R.SKEIN_WALK_PARTS_LOST m = true := ok_far 10 (by decide) rfl h
theorem ok_SKEIN_WALK_PANELS {m : Nat} (h : m.testBit 10 = true) : okField R.SKEIN_WALK_PANELS m = true := ok_far 10 (by decide) rfl h
theorem ok_CDP_STATUS_EDITION {m : Nat} (i : Nat) (h : m.testBit 11 = true) : okField (R.CDP_STATUS_EDITION i) m = true :=
  ok_far 11 (Fld.blk_elem _ _ _ _ _ _ _ (by decide) (by decide) (by decide) (by decide)) rfl h
theorem ok_CDP_STATUS_RATE {m : Nat} (i : Nat) (h : m.testBit 11 = true) : okField (R.CDP_STATUS_RATE i) m = true :=
  ok_far 11 (Fld.blk_elem _ _ _ _ _ _ _ (by decide) (by decide) (by decide) (by decide)) rfl h
theorem ok_CDP_STATUS_MODULES {m : Nat} (i : Nat) (h : m.testBit 11 = true) : okField (R.CDP_STATUS_MODULES i) m = true :=
  ok_far 11 (Fld.blk_elem _ _ _ _ _ _ _ (by decide) (by decide) (by decide) (by decide)) rfl h
theorem ok_CDP_STATUS_STATE {m : Nat} (i : Nat) (h : m.testBit 11 = true) : okField (R.CDP_STATUS_STATE i) m = true :=
  ok_far 11 (Fld.blk_elem _ _ _ _ _ _ _ (by decide) (by decide) (by decide) (by decide)) rfl h
theorem ok_CDP_PEER_ID_DIE_ID {m : Nat} (i : Nat) (h : m.testBit 11 = true) : okField (R.CDP_PEER_ID_DIE_ID i) m = true :=
  ok_far 11 (Fld.blk_elem _ _ _ _ _ _ _ (by decide) (by decide) (by decide) (by decide)) rfl h
theorem ok_CDP_CREDIT_PEER_HDR {m : Nat} (i : Nat) (h : m.testBit 11 = true) : okField (R.CDP_CREDIT_PEER_HDR i) m = true :=
  ok_far 11 (Fld.blk_elem _ _ _ _ _ _ _ (by decide) (by decide) (by decide) (by decide)) rfl h
theorem ok_CDP_CREDIT_PEER_DATA {m : Nat} (i : Nat) (h : m.testBit 11 = true) : okField (R.CDP_CREDIT_PEER_DATA i) m = true :=
  ok_far 11 (Fld.blk_elem _ _ _ _ _ _ _ (by decide) (by decide) (by decide) (by decide)) rfl h
theorem ok_CDP_CREDIT_PACE_CREDITS {m : Nat} (i : Nat) (h : m.testBit 11 = true) : okField (R.CDP_CREDIT_PACE_CREDITS i) m = true :=
  ok_far 11 (Fld.blk_elem _ _ _ _ _ _ _ (by decide) (by decide) (by decide) (by decide)) rfl h
theorem ok_CDP_CTRL_PACE_CREDITS {m : Nat} (i : Nat) (h : m.testBit 11 = true) : okField (R.CDP_CTRL_PACE_CREDITS i) m = true :=
  ok_far 11 (Fld.blk_elem _ _ _ _ _ _ _ (by decide) (by decide) (by decide) (by decide)) rfl h
theorem ok_CDP_CTRL_SLOW {m : Nat} (i : Nat) (h : m.testBit 11 = true) : okField (R.CDP_CTRL_SLOW i) m = true :=
  ok_far 11 (Fld.blk_elem _ _ _ _ _ _ _ (by decide) (by decide) (by decide) (by decide)) rfl h
theorem ok_CDP_CTRL_RESET {m : Nat} (i : Nat) (h : m.testBit 11 = true) : okField (R.CDP_CTRL_RESET i) m = true :=
  ok_far 11 (Fld.blk_elem _ _ _ _ _ _ _ (by decide) (by decide) (by decide) (by decide)) rfl h
theorem ok_CDP_CTRL_ENABLE {m : Nat} (i : Nat) (h : m.testBit 11 = true) : okField (R.CDP_CTRL_ENABLE i) m = true :=
  ok_far 11 (Fld.blk_elem _ _ _ _ _ _ _ (by decide) (by decide) (by decide) (by decide)) rfl h
theorem ok_CDP_MODMAP_FAILED {m : Nat} (i : Nat) (h : m.testBit 11 = true) : okField (R.CDP_MODMAP_FAILED i) m = true :=
  ok_far 11 (Fld.blk_elem _ _ _ _ _ _ _ (by decide) (by decide) (by decide) (by decide)) rfl h
theorem ok_CDP_MODMAP_PHYS {m : Nat} (i : Nat) (h : m.testBit 11 = true) : okField (R.CDP_MODMAP_PHYS i) m = true :=
  ok_far 11 (Fld.blk_elem _ _ _ _ _ _ _ (by decide) (by decide) (by decide) (by decide)) rfl h
theorem ok_CDP_TRAFFIC_OUT_GRANULES {m : Nat} (i : Nat) (h : m.testBit 11 = true) : okField (R.CDP_TRAFFIC_OUT_GRANULES i) m = true :=
  ok_far 11 (Fld.blk_elem _ _ _ _ _ _ _ (by decide) (by decide) (by decide) (by decide)) rfl h
theorem ok_CDP_TRAFFIC_IN_GRANULES {m : Nat} (i : Nat) (h : m.testBit 11 = true) : okField (R.CDP_TRAFFIC_IN_GRANULES i) m = true :=
  ok_far 11 (Fld.blk_elem _ _ _ _ _ _ _ (by decide) (by decide) (by decide) (by decide)) rfl h
theorem ok_CDP_RESET_LOG_AT {m : Nat} (i : Nat) (h : m.testBit 11 = true) : okField (R.CDP_RESET_LOG_AT i) m = true :=
  ok_far 11 (Fld.blk_elem _ _ _ _ _ _ _ (by decide) (by decide) (by decide) (by decide)) rfl h
theorem ok_CDP_RESET_LOG_COUNT {m : Nat} (i : Nat) (h : m.testBit 11 = true) : okField (R.CDP_RESET_LOG_COUNT i) m = true :=
  ok_far 11 (Fld.blk_elem _ _ _ _ _ _ _ (by decide) (by decide) (by decide) (by decide)) rfl h
theorem ok_CDP_RESET_LOG_CAUSE {m : Nat} (i : Nat) (h : m.testBit 11 = true) : okField (R.CDP_RESET_LOG_CAUSE i) m = true :=
  ok_far 11 (Fld.blk_elem _ _ _ _ _ _ _ (by decide) (by decide) (by decide) (by decide)) rfl h
theorem ok_CDP_RESET_LOG_ORPHANED {m : Nat} (i : Nat) (h : m.testBit 11 = true) : okField (R.CDP_RESET_LOG_ORPHANED i) m = true :=
  ok_far 11 (Fld.blk_elem _ _ _ _ _ _ _ (by decide) (by decide) (by decide) (by decide)) rfl h
theorem ok_CDP_ERR_COUNT {m : Nat} (i : Nat) (h : m.testBit 11 = true) : okField (R.CDP_ERR_COUNT i) m = true :=
  ok_far 11 (Fld.blk_elem _ _ _ _ _ _ _ (by decide) (by decide) (by decide) (by decide)) rfl h
theorem ok_CDP_ERR_LAST_STATUS {m : Nat} (i : Nat) (h : m.testBit 11 = true) : okField (R.CDP_ERR_LAST_STATUS i) m = true :=
  ok_far 11 (Fld.blk_elem _ _ _ _ _ _ _ (by decide) (by decide) (by decide) (by decide)) rfl h
theorem ok_CDP_ERR_HELLO_FAIL {m : Nat} (i : Nat) (h : m.testBit 11 = true) : okField (R.CDP_ERR_HELLO_FAIL i) m = true :=
  ok_far 11 (Fld.blk_elem _ _ _ _ _ _ _ (by decide) (by decide) (by decide) (by decide)) rfl h
theorem ok_CDP_ERR_PROTOCOL {m : Nat} (i : Nat) (h : m.testBit 11 = true) : okField (R.CDP_ERR_PROTOCOL i) m = true :=
  ok_far 11 (Fld.blk_elem _ _ _ _ _ _ _ (by decide) (by decide) (by decide) (by decide)) rfl h
theorem ok_CDP_ERR_MARKED_IN {m : Nat} (i : Nat) (h : m.testBit 11 = true) : okField (R.CDP_ERR_MARKED_IN i) m = true :=
  ok_far 11 (Fld.blk_elem _ _ _ _ _ _ _ (by decide) (by decide) (by decide) (by decide)) rfl h
theorem ok_CDP_ERR_WRITE_REFUSED {m : Nat} (i : Nat) (h : m.testBit 11 = true) : okField (R.CDP_ERR_WRITE_REFUSED i) m = true :=
  ok_far 11 (Fld.blk_elem _ _ _ _ _ _ _ (by decide) (by decide) (by decide) (by decide)) rfl h
theorem ok_CDP_ERR_READ_REFUSED {m : Nat} (i : Nat) (h : m.testBit 11 = true) : okField (R.CDP_ERR_READ_REFUSED i) m = true :=
  ok_far 11 (Fld.blk_elem _ _ _ _ _ _ _ (by decide) (by decide) (by decide) (by decide)) rfl h
theorem ok_CDP_ERR_MODULE_SPARED {m : Nat} (i : Nat) (h : m.testBit 11 = true) : okField (R.CDP_ERR_MODULE_SPARED i) m = true :=
  ok_far 11 (Fld.blk_elem _ _ _ _ _ _ _ (by decide) (by decide) (by decide) (by decide)) rfl h
theorem ok_HBM_STACK_TEMP_C {m : Nat} (i : Nat) (h : m.testBit 12 = true) : okField (R.HBM_STACK_TEMP_C i) m = true :=
  ok_far 12 (Fld.blk_elem _ _ _ _ _ _ _ (by decide) (by decide) (by decide) (by decide)) rfl h
theorem ok_HBM_STACK_CE {m : Nat} (i : Nat) (h : m.testBit 12 = true) : okField (R.HBM_STACK_CE i) m = true :=
  ok_far 12 (Fld.blk_elem _ _ _ _ _ _ _ (by decide) (by decide) (by decide) (by decide)) rfl h
theorem ok_HBM_STACK_NO_SPARE {m : Nat} (i : Nat) (h : m.testBit 12 = true) : okField (R.HBM_STACK_NO_SPARE i) m = true :=
  ok_far 12 (Fld.blk_elem _ _ _ _ _ _ _ (by decide) (by decide) (by decide) (by decide)) rfl h
theorem ok_HBM_STACK_SPARE {m : Nat} (i : Nat) (h : m.testBit 12 = true) : okField (R.HBM_STACK_SPARE i) m = true :=
  ok_far 12 (Fld.blk_elem _ _ _ _ _ _ _ (by decide) (by decide) (by decide) (by decide)) rfl h
theorem ok_HBM_STACK_STATE {m : Nat} (i : Nat) (h : m.testBit 12 = true) : okField (R.HBM_STACK_STATE i) m = true :=
  ok_far 12 (Fld.blk_elem _ _ _ _ _ _ _ (by decide) (by decide) (by decide) (by decide)) rfl h
theorem ok_FAULT_STATUS_FAILOVERS {m : Nat} (h : m.testBit 13 = true) : okField R.FAULT_STATUS_FAILOVERS m = true := ok_far 13 (by decide) rfl h
theorem ok_FAULT_STATUS_LAST_STATUS {m : Nat} (h : m.testBit 13 = true) : okField R.FAULT_STATUS_LAST_STATUS m = true := ok_far 13 (by decide) rfl h
theorem ok_FAULT_STATUS_NO_SPARE {m : Nat} (h : m.testBit 13 = true) : okField R.FAULT_STATUS_NO_SPARE m = true := ok_far 13 (by decide) rfl h
theorem ok_FAULT_STATUS_STEP_FAILOVERS {m : Nat} (h : m.testBit 13 = true) : okField R.FAULT_STATUS_STEP_FAILOVERS m = true := ok_far 13 (by decide) rfl h
theorem ok_FAULT_STATUS_RETIRE_PENDING {m : Nat} (h : m.testBit 13 = true) : okField R.FAULT_STATUS_RETIRE_PENDING m = true := ok_far 13 (by decide) rfl h
theorem ok_FAULT_STATUS_COPYING {m : Nat} (h : m.testBit 13 = true) : okField R.FAULT_STATUS_COPYING m = true := ok_far 13 (by decide) rfl h
theorem ok_FAULT_STATUS_PAUSED {m : Nat} (h : m.testBit 13 = true) : okField R.FAULT_STATUS_PAUSED m = true := ok_far 13 (by decide) rfl h
theorem ok_FAULT_LAST_AT {m : Nat} (h : m.testBit 13 = true) : okField R.FAULT_LAST_AT m = true := ok_far 13 (by decide) rfl h
theorem ok_FAULT_LAST_UNIT {m : Nat} (h : m.testBit 13 = true) : okField R.FAULT_LAST_UNIT m = true := ok_far 13 (by decide) rfl h
theorem ok_FAULT_LAST_SPARE {m : Nat} (h : m.testBit 13 = true) : okField R.FAULT_LAST_SPARE m = true := ok_far 13 (by decide) rfl h
theorem ok_FAULT_MEND_APPLY_AT_STEP {m : Nat} (h : m.testBit 13 = true) : okField R.FAULT_MEND_APPLY_AT_STEP m = true := ok_far 13 (by decide) rfl h
theorem ok_FAULT_MEND_UNIT {m : Nat} (h : m.testBit 13 = true) : okField R.FAULT_MEND_UNIT m = true := ok_far 13 (by decide) rfl h
theorem ok_FAULT_MEND_STATUS {m : Nat} (h : m.testBit 13 = true) : okField R.FAULT_MEND_STATUS m = true := ok_far 13 (by decide) rfl h
theorem ok_FAULT_MEND_PENDING {m : Nat} (h : m.testBit 13 = true) : okField R.FAULT_MEND_PENDING m = true := ok_far 13 (by decide) rfl h
theorem ok_FAULT_MEND_RESTORE {m : Nat} (h : m.testBit 13 = true) : okField R.FAULT_MEND_RESTORE m = true := ok_far 13 (by decide) rfl h
theorem ok_FAULT_MEND_GO {m : Nat} (h : m.testBit 13 = true) : okField R.FAULT_MEND_GO m = true := ok_far 13 (by decide) rfl h
theorem ok_FAULT_LOG_PTR_DROPPED {m : Nat} (h : m.testBit 13 = true) : okField R.FAULT_LOG_PTR_DROPPED m = true := ok_far 13 (by decide) rfl h
theorem ok_FAULT_LOG_PTR_HEAD {m : Nat} (h : m.testBit 13 = true) : okField R.FAULT_LOG_PTR_HEAD m = true := ok_far 13 (by decide) rfl h
theorem ok_FAULT_LOG_PTR_TAIL {m : Nat} (h : m.testBit 13 = true) : okField R.FAULT_LOG_PTR_TAIL m = true := ok_far 13 (by decide) rfl h
theorem ok_FAULT_MARKS_LIVE_GRANULES {m : Nat} (h : m.testBit 13 = true) : okField R.FAULT_MARKS_LIVE_GRANULES m = true := ok_far 13 (by decide) rfl h
theorem ok_FAULT_MARKS_LOST_GRANULES {m : Nat} (h : m.testBit 13 = true) : okField R.FAULT_MARKS_LOST_GRANULES m = true := ok_far 13 (by decide) rfl h
theorem ok_LEDGER_LAST_MOVED {m : Nat} (i : Nat) (h : m.testBit 13 = true) : okField (R.LEDGER_LAST_MOVED i) m = true :=
  ok_far 13 (Fld.blk_elem _ _ _ _ _ _ _ (by decide) (by decide) (by decide) (by decide)) rfl h
theorem ok_LEDGER_LAST_DIFF {m : Nat} (i : Nat) (h : m.testBit 13 = true) : okField (R.LEDGER_LAST_DIFF i) m = true :=
  ok_far 13 (Fld.blk_elem _ _ _ _ _ _ _ (by decide) (by decide) (by decide) (by decide)) rfl h
theorem ok_LEDGER_STATUS_AT_STEP {m : Nat} (h : m.testBit 13 = true) : okField R.LEDGER_STATUS_AT_STEP m = true := ok_far 13 (by decide) rfl h
theorem ok_LEDGER_STATUS_LAST_STATUS {m : Nat} (h : m.testBit 13 = true) : okField R.LEDGER_STATUS_LAST_STATUS m = true := ok_far 13 (by decide) rfl h
theorem ok_LEDGER_STATUS_MISMATCH {m : Nat} (h : m.testBit 13 = true) : okField R.LEDGER_STATUS_MISMATCH m = true := ok_far 13 (by decide) rfl h
theorem ok_LEDGER_STATUS_SWATCH {m : Nat} (h : m.testBit 13 = true) : okField R.LEDGER_STATUS_SWATCH m = true := ok_far 13 (by decide) rfl h
theorem ok_FAULT_LOG_W0_ROW {m : Nat} (i : Nat) (h : m.testBit 14 = true) : okField (R.FAULT_LOG_W0_ROW i) m = true :=
  ok_far 14 (Fld.blk_elem _ _ _ _ _ _ _ (by decide) (by decide) (by decide) (by decide)) rfl h
theorem ok_FAULT_LOG_W1_STEP {m : Nat} (i : Nat) (h : m.testBit 14 = true) : okField (R.FAULT_LOG_W1_STEP i) m = true :=
  ok_far 14 (Fld.blk_elem _ _ _ _ _ _ _ (by decide) (by decide) (by decide) (by decide)) rfl h
theorem ok_FAULT_LOG_W1_STATUS {m : Nat} (i : Nat) (h : m.testBit 14 = true) : okField (R.FAULT_LOG_W1_STATUS i) m = true :=
  ok_far 14 (Fld.blk_elem _ _ _ _ _ _ _ (by decide) (by decide) (by decide) (by decide)) rfl h
theorem ok_FAULT_LOG_W1_SOURCE {m : Nat} (i : Nat) (h : m.testBit 14 = true) : okField (R.FAULT_LOG_W1_SOURCE i) m = true :=
  ok_far 14 (Fld.blk_elem _ _ _ _ _ _ _ (by decide) (by decide) (by decide) (by decide)) rfl h
theorem ok_FAULT_LOG_W1_UNIT {m : Nat} (i : Nat) (h : m.testBit 14 = true) : okField (R.FAULT_LOG_W1_UNIT i) m = true :=
  ok_far 14 (Fld.blk_elem _ _ _ _ _ _ _ (by decide) (by decide) (by decide) (by decide)) rfl h
theorem ok_FAULT_LOG_W2_REPEAT {m : Nat} (i : Nat) (h : m.testBit 14 = true) : okField (R.FAULT_LOG_W2_REPEAT i) m = true :=
  ok_far 14 (Fld.blk_elem _ _ _ _ _ _ _ (by decide) (by decide) (by decide) (by decide)) rfl h
theorem ok_FAULT_LOG_W2_DETAIL {m : Nat} (i : Nat) (h : m.testBit 14 = true) : okField (R.FAULT_LOG_W2_DETAIL i) m = true :=
  ok_far 14 (Fld.blk_elem _ _ _ _ _ _ _ (by decide) (by decide) (by decide) (by decide)) rfl h
theorem ok_FAULT_LOG_W3_AUX {m : Nat} (i : Nat) (h : m.testBit 14 = true) : okField (R.FAULT_LOG_W3_AUX i) m = true :=
  ok_far 14 (Fld.blk_elem _ _ _ _ _ _ _ (by decide) (by decide) (by decide) (by decide)) rfl h
theorem ok_GAUGE_CTRL_AT_STEP {m : Nat} (h : m.testBit 15 = true) : okField R.GAUGE_CTRL_AT_STEP m = true := ok_far 15 (by decide) rfl h
theorem ok_GAUGE_CTRL_CLEAR_PENDING {m : Nat} (h : m.testBit 15 = true) : okField R.GAUGE_CTRL_CLEAR_PENDING m = true := ok_far 15 (by decide) rfl h
theorem ok_GAUGE_CTRL_CLEAR {m : Nat} (h : m.testBit 15 = true) : okField R.GAUGE_CTRL_CLEAR m = true := ok_far 15 (by decide) rfl h
theorem ok_GAUGE_CUM_COUNT {m : Nat} (i : Nat) (h : m.testBit 15 = true) : okField (R.GAUGE_CUM_COUNT i) m = true :=
  ok_far 15 (Fld.blk_elem _ _ _ _ _ _ _ (by decide) (by decide) (by decide) (by decide)) rfl h
theorem ok_GAUGE_LAST_COUNT {m : Nat} (i : Nat) (h : m.testBit 15 = true) : okField (R.GAUGE_LAST_COUNT i) m = true :=
  ok_far 15 (Fld.blk_elem _ _ _ _ _ _ _ (by decide) (by decide) (by decide) (by decide)) rfl h
theorem ok_IDLE_CTRL_AT_STEP {m : Nat} (h : m.testBit 16 = true) : okField R.IDLE_CTRL_AT_STEP m = true := ok_far 16 (by decide) rfl h
theorem ok_IDLE_CTRL_CLEAR_PENDING {m : Nat} (h : m.testBit 16 = true) : okField R.IDLE_CTRL_CLEAR_PENDING m = true := ok_far 16 (by decide) rfl h
theorem ok_IDLE_CTRL_CLEAR {m : Nat} (h : m.testBit 16 = true) : okField R.IDLE_CTRL_CLEAR m = true := ok_far 16 (by decide) rfl h
theorem ok_IDLE_LAST_TICKS {m : Nat} (i : Nat) (h : m.testBit 16 = true) : okField (R.IDLE_LAST_TICKS i) m = true :=
  ok_far 16 (Fld.blk_elem _ _ _ _ _ _ _ (by decide) (by decide) (by decide) (by decide)) rfl h
theorem ok_IDLE_CUM_TICKS {m : Nat} (i : Nat) (h : m.testBit 16 = true) : okField (R.IDLE_CUM_TICKS i) m = true :=
  ok_far 16 (Fld.blk_elem _ _ _ _ _ _ _ (by decide) (by decide) (by decide) (by decide)) rfl h
theorem ok_TENSION_CTRL_AT_STEP {m : Nat} (h : m.testBit 17 = true) : okField R.TENSION_CTRL_AT_STEP m = true := ok_far 17 (by decide) rfl h
theorem ok_TENSION_CTRL_CLEAR_PENDING {m : Nat} (h : m.testBit 17 = true) : okField R.TENSION_CTRL_CLEAR_PENDING m = true := ok_far 17 (by decide) rfl h
theorem ok_TENSION_CTRL_CLEAR {m : Nat} (h : m.testBit 17 = true) : okField R.TENSION_CTRL_CLEAR m = true := ok_far 17 (by decide) rfl h
theorem ok_TENSION_LAST_COUNT {m : Nat} (i : Nat) (h : m.testBit 17 = true) : okField (R.TENSION_LAST_COUNT i) m = true :=
  ok_far 17 (Fld.blk_elem _ _ _ _ _ _ _ (by decide) (by decide) (by decide) (by decide)) rfl h
theorem ok_TENSION_CUM_COUNT {m : Nat} (i : Nat) (h : m.testBit 17 = true) : okField (R.TENSION_CUM_COUNT i) m = true :=
  ok_far 17 (Fld.blk_elem _ _ _ _ _ _ _ (by decide) (by decide) (by decide) (by decide)) rfl h
theorem ok_TENSION_PEAK_ROUND {m : Nat} (i : Nat) (h : m.testBit 17 = true) : okField (R.TENSION_PEAK_ROUND i) m = true :=
  ok_far 17 (Fld.blk_elem _ _ _ _ _ _ _ (by decide) (by decide) (by decide) (by decide)) rfl h
theorem ok_TENSION_PEAK_UNMET {m : Nat} (i : Nat) (h : m.testBit 17 = true) : okField (R.TENSION_PEAK_UNMET i) m = true :=
  ok_far 17 (Fld.blk_elem _ _ _ _ _ _ _ (by decide) (by decide) (by decide) (by decide)) rfl h
theorem ok_SYNC_CONFIG_FLAG_RTT {m : Nat} (h : m.testBit 18 = true) : okField R.SYNC_CONFIG_FLAG_RTT m = true := ok_far 18 (by decide) rfl h
theorem ok_SYNC_CONFIG_LAT {m : Nat} (h : m.testBit 18 = true) : okField R.SYNC_CONFIG_LAT m = true := ok_far 18 (by decide) rfl h
theorem ok_SYNC_CONFIG_MEMBER {m : Nat} (h : m.testBit 18 = true) : okField R.SYNC_CONFIG_MEMBER m = true := ok_far 18 (by decide) rfl h
theorem ok_SYNC_CONFIG_DEVICES {m : Nat} (h : m.testBit 18 = true) : okField R.SYNC_CONFIG_DEVICES m = true := ok_far 18 (by decide) rfl h
theorem ok_SYNC_CTRL_LEADER_PENDING {m : Nat} (h : m.testBit 18 = true) : okField R.SYNC_CTRL_LEADER_PENDING m = true := ok_far 18 (by decide) rfl h
theorem ok_SYNC_CTRL_LEADER {m : Nat} (h : m.testBit 18 = true) : okField R.SYNC_CTRL_LEADER m = true := ok_far 18 (by decide) rfl h
theorem ok_SYNC_CTRL_CANCEL {m : Nat} (h : m.testBit 18 = true) : okField R.SYNC_CTRL_CANCEL m = true := ok_far 18 (by decide) rfl h
theorem ok_SYNC_CTRL_SEND_RELEASE {m : Nat} (h : m.testBit 18 = true) : okField R.SYNC_CTRL_SEND_RELEASE m = true := ok_far 18 (by decide) rfl h
theorem ok_SYNC_CTRL_ARM {m : Nat} (h : m.testBit 18 = true) : okField R.SYNC_CTRL_ARM m = true := ok_far 18 (by decide) rfl h
theorem ok_SYNC_LOAD_VALUE {m : Nat} (h : m.testBit 18 = true) : okField R.SYNC_LOAD_VALUE m = true := ok_far 18 (by decide) rfl h
theorem ok_SYNC_LAUNCH_COUNT {m : Nat} (h : m.testBit 18 = true) : okField R.SYNC_LAUNCH_COUNT m = true := ok_far 18 (by decide) rfl h
theorem ok_SYNC_STATUS_OFFSET {m : Nat} (h : m.testBit 18 = true) : okField R.SYNC_STATUS_OFFSET m = true := ok_far 18 (by decide) rfl h
theorem ok_SYNC_STATUS_LAUNCH_STATUS {m : Nat} (h : m.testBit 18 = true) : okField R.SYNC_STATUS_LAUNCH_STATUS m = true := ok_far 18 (by decide) rfl h
theorem ok_SYNC_STATUS_CLOCK {m : Nat} (h : m.testBit 18 = true) : okField R.SYNC_STATUS_CLOCK m = true := ok_far 18 (by decide) rfl h
theorem ok_SYNC_STATUS_TAINTED {m : Nat} (h : m.testBit 18 = true) : okField R.SYNC_STATUS_TAINTED m = true := ok_far 18 (by decide) rfl h
theorem ok_SYNC_STATUS_SYNC_PRESENT {m : Nat} (h : m.testBit 18 = true) : okField R.SYNC_STATUS_SYNC_PRESENT m = true := ok_far 18 (by decide) rfl h
theorem ok_SYNC_STATUS_RELEASE_ARMED {m : Nat} (h : m.testBit 18 = true) : okField R.SYNC_STATUS_RELEASE_ARMED m = true := ok_far 18 (by decide) rfl h
theorem ok_SYNC_STATUS_EMITTING {m : Nat} (h : m.testBit 18 = true) : okField R.SYNC_STATUS_EMITTING m = true := ok_far 18 (by decide) rfl h
theorem ok_SYNC_STATUS_STATE {m : Nat} (h : m.testBit 18 = true) : okField R.SYNC_STATUS_STATE m = true := ok_far 18 (by decide) rfl h
theorem ok_SYNC_CLOCK_HOLDOVER_AT {m : Nat} (h : m.testBit 18 = true) : okField R.SYNC_CLOCK_HOLDOVER_AT m = true := ok_far 18 (by decide) rfl h
theorem ok_SYNC_CLOCK_CAL {m : Nat} (h : m.testBit 18 = true) : okField R.SYNC_CLOCK_CAL m = true := ok_far 18 (by decide) rfl h
theorem ok_SYNC_CLOCK_GOOD_FOR {m : Nat} (h : m.testBit 18 = true) : okField R.SYNC_CLOCK_GOOD_FOR m = true := ok_far 18 (by decide) rfl h
theorem ok_SYNC_BARRIER_LOCAL_PAGE {m : Nat} (h : m.testBit 18 = true) : okField R.SYNC_BARRIER_LOCAL_PAGE m = true := ok_far 18 (by decide) rfl h
theorem ok_SYNC_BARRIER_APERTURE_PAGE {m : Nat} (h : m.testBit 18 = true) : okField R.SYNC_BARRIER_APERTURE_PAGE m = true := ok_far 18 (by decide) rfl h
theorem ok_SYNC_ERR_COUNT {m : Nat} (h : m.testBit 18 = true) : okField R.SYNC_ERR_COUNT m = true := ok_far 18 (by decide) rfl h
theorem ok_SYNC_ERR_LAST_STATUS {m : Nat} (h : m.testBit 18 = true) : okField R.SYNC_ERR_LAST_STATUS m = true := ok_far 18 (by decide) rfl h
theorem ok_SYNC_ERR_UNEXPECTED {m : Nat} (h : m.testBit 18 = true) : okField R.SYNC_ERR_UNEXPECTED m = true := ok_far 18 (by decide) rfl h
theorem ok_SYNC_ERR_MALFORMED {m : Nat} (h : m.testBit 18 = true) : okField R.SYNC_ERR_MALFORMED m = true := ok_far 18 (by decide) rfl h
theorem ok_SYNC_ERR_SYNC_LOST {m : Nat} (h : m.testBit 18 = true) : okField R.SYNC_ERR_SYNC_LOST m = true := ok_far 18 (by decide) rfl h
theorem ok_SYNC_ERR_EPOCH {m : Nat} (h : m.testBit 18 = true) : okField R.SYNC_ERR_EPOCH m = true := ok_far 18 (by decide) rfl h
theorem ok_SYNC_ERR_RATE {m : Nat} (h : m.testBit 18 = true) : okField R.SYNC_ERR_RATE m = true := ok_far 18 (by decide) rfl h
theorem ok_SYNC_ERR_GLITCH {m : Nat} (h : m.testBit 18 = true) : okField R.SYNC_ERR_GLITCH m = true := ok_far 18 (by decide) rfl h
theorem ok_SYNC_ERR_LOSS {m : Nat} (h : m.testBit 18 = true) : okField R.SYNC_ERR_LOSS m = true := ok_far 18 (by decide) rfl h
theorem ok_FAULT_UNIT_CE {m : Nat} (o : Nat) (ho : blockOf o = 13) (h : m.testBit 13 = true) : okField (R.FAULT_UNIT_CE o) m = true :=
  ok_far 13 ((Fld.blk_eq _ _ _ (by decide)).trans ho) rfl h
theorem ok_FAULT_UNIT_LAST_STATUS {m : Nat} (o : Nat) (ho : blockOf o = 13) (h : m.testBit 13 = true) : okField (R.FAULT_UNIT_LAST_STATUS o) m = true :=
  ok_far 13 ((Fld.blk_eq _ _ _ (by decide)).trans ho) rfl h
theorem ok_FAULT_UNIT_LOGICAL {m : Nat} (o : Nat) (ho : blockOf o = 13) (h : m.testBit 13 = true) : okField (R.FAULT_UNIT_LOGICAL o) m = true :=
  ok_far 13 ((Fld.blk_eq _ _ _ (by decide)).trans ho) rfl h
theorem ok_FAULT_UNIT_STATE {m : Nat} (o : Nat) (ho : blockOf o = 13) (h : m.testBit 13 = true) : okField (R.FAULT_UNIT_STATE o) m = true :=
  ok_far 13 ((Fld.blk_eq _ _ _ (by decide)).trans ho) rfl h

end Sys2Proof.Machine
end

