-- ==== Sys2Proof/Laws/FrameUpd.lean ====
section
/-! SUPPORT. Laws/FrameUpd.lean: the record updates that operations make, one lemma for each set of fields written together. -/

namespace Sys2Proof.Machine

/-- The record with bar replaced. -/
def State.upd_bar (s : State) (x0 : BarrierSt) : State := { s with bar := x0 }

theorem State.fold_bar (s : State) (x0 : BarrierSt) : ({ s with bar := x0 } : State) = s.upd_bar x0 := rfl

theorem Does.upd_bar {m : Nat} {s₀ : State} (s : State) (x0 : BarrierSt) (hm : subMask 1099511627776 m = true) (h : Does m s₀ s) :
    Does m s₀ (s.upd_bar x0) := by
  refine Does.after (a := 1099511627776) ?_ hm h
  refine ⟨rfl, List.prefix_refl _, Nat.le_refl _, fun k => ⟨k.regs, k.mem, k.ports, k.phase, k.power⟩, ?_⟩
  intro p hp_
  cases p <;> first
    | exact absurd hp_ (by decide)
    | rfl
    | exact ⟨rfl, rfl⟩
    | exact ⟨rfl, rfl, rfl⟩
    | exact fun _ => rfl
    | exact fun _ _ => rfl

/-- The record with fault, pwr replaced. -/
def State.upd_fault_pwr (s : State) (x0 : FaultSt) (x1 : PowerSt) : State := { s with fault := x0, pwr := x1 }

theorem State.fold_fault_pwr (s : State) (x0 : FaultSt) (x1 : PowerSt) : ({ s with fault := x0, pwr := x1 } : State) = s.upd_fault_pwr x0 x1 := rfl

theorem Does.upd_fault_pwr {m : Nat} {s₀ : State} (s : State) (x0 : FaultSt) (x1 : PowerSt) (hm : subMask 154618822656 m = true) (h : Does m s₀ s) :
    Does m s₀ (s.upd_fault_pwr x0 x1) := by
  refine Does.after (a := 154618822656) ?_ hm h
  refine ⟨rfl, List.prefix_refl _, Nat.le_refl _, fun k => ⟨k.regs, k.mem, k.ports, k.phase, k.power⟩, ?_⟩
  intro p hp_
  cases p <;> first
    | exact absurd hp_ (by decide)
    | rfl
    | exact ⟨rfl, rfl⟩
    | exact ⟨rfl, rfl, rfl⟩
    | exact fun _ => rfl
    | exact fun _ _ => rfl

/-- The record with tens, tensPeak, paceBad, step, fault, tier, bar, clu replaced. -/
def State.upd_tens_tensPeak_paceBad_step_fault_tier_bar_clu (s : State) (x0 : List (Nat × Nat)) (x1 : List (Nat × (Nat × Nat))) (x2 : List Nat) (x3 : StepSt) (x4 : FaultSt) (x5 : TierSt) (x6 : BarrierSt) (x7 : CluSt) : State := { s with tens := x0, tensPeak := x1, paceBad := x2, step := x3, fault := x4, tier := x5, bar := x6, clu := x7 }

theorem State.fold_tens_tensPeak_paceBad_step_fault_tier_bar_clu (s : State) (x0 : List (Nat × Nat)) (x1 : List (Nat × (Nat × Nat))) (x2 : List Nat) (x3 : StepSt) (x4 : FaultSt) (x5 : TierSt) (x6 : BarrierSt) (x7 : CluSt) : ({ s with tens := x0, tensPeak := x1, paceBad := x2, step := x3, fault := x4, tier := x5, bar := x6, clu := x7 } : State) = s.upd_tens_tensPeak_paceBad_step_fault_tier_bar_clu x0 x1 x2 x3 x4 x5 x6 x7 := rfl

theorem Does.upd_tens_tensPeak_paceBad_step_fault_tier_bar_clu {m : Nat} {s₀ : State} (s : State) (x0 : List (Nat × Nat)) (x1 : List (Nat × (Nat × Nat))) (x2 : List Nat) (x3 : StepSt) (x4 : FaultSt) (x5 : TierSt) (x6 : BarrierSt) (x7 : CluSt) (hp : x3.prevPhase = s.step.prevPhase) (hm : subMask 18986305585152 m = true) (h : Does m s₀ s) :
    Does m s₀ (s.upd_tens_tensPeak_paceBad_step_fault_tier_bar_clu x0 x1 x2 x3 x4 x5 x6 x7) := by
  refine Does.after (a := 18986305585152) ?_ hm h
  refine ⟨rfl, List.prefix_refl _, Nat.le_refl _, fun k => ⟨k.regs, k.mem, k.ports, ⟨k.phase.1, Nat.le_trans (Nat.le_of_eq hp) k.phase.2⟩, k.power⟩, ?_⟩
  intro p hp_
  cases p <;> first
    | exact absurd hp_ (by decide)
    | rfl
    | exact ⟨rfl, rfl⟩
    | exact ⟨rfl, rfl, rfl⟩
    | exact fun _ => rfl
    | exact fun _ _ => rfl

/-- The record with clu, gauge replaced. -/
def State.upd_clu_gauge (s : State) (x0 : CluSt) (x1 : List (Nat × Nat)) : State := { s with clu := x0, gauge := x1 }

theorem State.fold_clu_gauge (s : State) (x0 : CluSt) (x1 : List (Nat × Nat)) : ({ s with clu := x0, gauge := x1 } : State) = s.upd_clu_gauge x0 x1 := rfl

theorem Does.upd_clu_gauge {m : Nat} {s₀ : State} (s : State) (x0 : CluSt) (x1 : List (Nat × Nat)) (hm : subMask 52776558133248 m = true) (h : Does m s₀ s) :
    Does m s₀ (s.upd_clu_gauge x0 x1) := by
  refine Does.after (a := 52776558133248) ?_ hm h
  refine ⟨rfl, List.prefix_refl _, Nat.le_refl _, fun k => ⟨k.regs, k.mem, k.ports, k.phase, k.power⟩, ?_⟩
  intro p hp_
  cases p <;> first
    | exact absurd hp_ (by decide)
    | rfl
    | exact ⟨rfl, rfl⟩
    | exact ⟨rfl, rfl, rfl⟩
    | exact fun _ => rfl
    | exact fun _ _ => rfl

/-- The record with idleStep, idleFig, step replaced. -/
def State.upd_idleStep_idleFig_step (s : State) (x0 : List (Nat × Nat)) (x1 : List (Nat × Nat)) (x2 : StepSt) : State := { s with idleStep := x0, idleFig := x1, step := x2 }

theorem State.fold_idleStep_idleFig_step (s : State) (x0 : List (Nat × Nat)) (x1 : List (Nat × Nat)) (x2 : StepSt) : ({ s with idleStep := x0, idleFig := x1, step := x2 } : State) = s.upd_idleStep_idleFig_step x0 x1 x2 := rfl

theorem Does.upd_idleStep_idleFig_step {m : Nat} {s₀ : State} (s : State) (x0 : List (Nat × Nat)) (x1 : List (Nat × Nat)) (x2 : StepSt) (hp : x2.prevPhase = s.step.prevPhase) (hm : subMask 2214592512 m = true) (h : Does m s₀ s) :
    Does m s₀ (s.upd_idleStep_idleFig_step x0 x1 x2) := by
  refine Does.after (a := 2214592512) ?_ hm h
  refine ⟨rfl, List.prefix_refl _, Nat.le_refl _, fun k => ⟨k.regs, k.mem, k.ports, ⟨k.phase.1, Nat.le_trans (Nat.le_of_eq hp) k.phase.2⟩, k.power⟩, ?_⟩
  intro p hp_
  cases p <;> first
    | exact absurd hp_ (by decide)
    | rfl
    | exact ⟨rfl, rfl⟩
    | exact ⟨rfl, rfl, rfl⟩
    | exact fun _ => rfl
    | exact fun _ _ => rfl

/-- The record with tens, tensPeak, paceBad, step, fault, tier, bar, host, clu replaced. -/
def State.upd_tens_tensPeak_paceBad_step_fault_tier_bar_host_clu (s : State) (x0 : List (Nat × Nat)) (x1 : List (Nat × (Nat × Nat))) (x2 : List Nat) (x3 : StepSt) (x4 : FaultSt) (x5 : TierSt) (x6 : BarrierSt) (x7 : HostSt) (x8 : CluSt) : State := { s with tens := x0, tensPeak := x1, paceBad := x2, step := x3, fault := x4, tier := x5, bar := x6, host := x7, clu := x8 }

theorem State.fold_tens_tensPeak_paceBad_step_fault_tier_bar_host_clu (s : State) (x0 : List (Nat × Nat)) (x1 : List (Nat × (Nat × Nat))) (x2 : List Nat) (x3 : StepSt) (x4 : FaultSt) (x5 : TierSt) (x6 : BarrierSt) (x7 : HostSt) (x8 : CluSt) : ({ s with tens := x0, tensPeak := x1, paceBad := x2, step := x3, fault := x4, tier := x5, bar := x6, host := x7, clu := x8 } : State) = s.upd_tens_tensPeak_paceBad_step_fault_tier_bar_host_clu x0 x1 x2 x3 x4 x5 x6 x7 x8 := rfl

theorem Does.upd_tens_tensPeak_paceBad_step_fault_tier_bar_host_clu {m : Nat} {s₀ : State} (s : State) (x0 : List (Nat × Nat)) (x1 : List (Nat × (Nat × Nat))) (x2 : List Nat) (x3 : StepSt) (x4 : FaultSt) (x5 : TierSt) (x6 : BarrierSt) (x7 : HostSt) (x8 : CluSt) (hp : x3.prevPhase = s.step.prevPhase) (hm : subMask 21185328840704 m = true) (h : Does m s₀ s) :
    Does m s₀ (s.upd_tens_tensPeak_paceBad_step_fault_tier_bar_host_clu x0 x1 x2 x3 x4 x5 x6 x7 x8) := by
  refine Does.after (a := 21185328840704) ?_ hm h
  refine ⟨rfl, List.prefix_refl _, Nat.le_refl _, fun k => ⟨k.regs, k.mem, k.ports, ⟨k.phase.1, Nat.le_trans (Nat.le_of_eq hp) k.phase.2⟩, k.power⟩, ?_⟩
  intro p hp_
  cases p <;> first
    | exact absurd hp_ (by decide)
    | rfl
    | exact ⟨rfl, rfl⟩
    | exact ⟨rfl, rfl, rfl⟩
    | exact fun _ => rfl
    | exact fun _ _ => rfl

/-- The record with chart replaced. -/
def State.upd_chart (s : State) (x0 : ChartSt) : State := { s with chart := x0 }

theorem State.fold_chart (s : State) (x0 : ChartSt) : ({ s with chart := x0 } : State) = s.upd_chart x0 := rfl

theorem Does.upd_chart {m : Nat} {s₀ : State} (s : State) (x0 : ChartSt) (hm : subMask 1073741824 m = true) (h : Does m s₀ s) :
    Does m s₀ (s.upd_chart x0) := by
  refine Does.after (a := 1073741824) ?_ hm h
  refine ⟨rfl, List.prefix_refl _, Nat.le_refl _, fun k => ⟨k.regs, k.mem, k.ports, k.phase, k.power⟩, ?_⟩
  intro p hp_
  cases p <;> first
    | exact absurd hp_ (by decide)
    | rfl
    | exact ⟨rfl, rfl⟩
    | exact ⟨rfl, rfl, rfl⟩
    | exact fun _ => rfl
    | exact fun _ _ => rfl

/-- The record with chart, step, fault replaced. -/
def State.upd_chart_step_fault (s : State) (x0 : ChartSt) (x1 : StepSt) (x2 : FaultSt) : State := { s with chart := x0, step := x1, fault := x2 }

theorem State.fold_chart_step_fault (s : State) (x0 : ChartSt) (x1 : StepSt) (x2 : FaultSt) : ({ s with chart := x0, step := x1, fault := x2 } : State) = s.upd_chart_step_fault x0 x1 x2 := rfl

theorem Does.upd_chart_step_fault {m : Nat} {s₀ : State} (s : State) (x0 : ChartSt) (x1 : StepSt) (x2 : FaultSt) (hp : x1.prevPhase = s.step.prevPhase) (hm : subMask 20401094656 m = true) (h : Does m s₀ s) :
    Does m s₀ (s.upd_chart_step_fault x0 x1 x2) := by
  refine Does.after (a := 20401094656) ?_ hm h
  refine ⟨rfl, List.prefix_refl _, Nat.le_refl _, fun k => ⟨k.regs, k.mem, k.ports, ⟨k.phase.1, Nat.le_trans (Nat.le_of_eq hp) k.phase.2⟩, k.power⟩, ?_⟩
  intro p hp_
  cases p <;> first
    | exact absurd hp_ (by decide)
    | rfl
    | exact ⟨rfl, rfl⟩
    | exact ⟨rfl, rfl, rfl⟩
    | exact fun _ => rfl
    | exact fun _ _ => rfl

/-- The record with chart, tier replaced. -/
def State.upd_chart_tier (s : State) (x0 : ChartSt) (x1 : TierSt) : State := { s with chart := x0, tier := x1 }

theorem State.fold_chart_tier (s : State) (x0 : ChartSt) (x1 : TierSt) : ({ s with chart := x0, tier := x1 } : State) = s.upd_chart_tier x0 x1 := rfl

theorem Does.upd_chart_tier {m : Nat} {s₀ : State} (s : State) (x0 : ChartSt) (x1 : TierSt) (hm : subMask 275951648768 m = true) (h : Does m s₀ s) :
    Does m s₀ (s.upd_chart_tier x0 x1) := by
  refine Does.after (a := 275951648768) ?_ hm h
  refine ⟨rfl, List.prefix_refl _, Nat.le_refl _, fun k => ⟨k.regs, k.mem, k.ports, k.phase, k.power⟩, ?_⟩
  intro p hp_
  cases p <;> first
    | exact absurd hp_ (by decide)
    | rfl
    | exact ⟨rfl, rfl⟩
    | exact ⟨rfl, rfl, rfl⟩
    | exact fun _ => rfl
    | exact fun _ _ => rfl

/-- The record with clu replaced. -/
def State.upd_clu (s : State) (x0 : CluSt) : State := { s with clu := x0 }

theorem State.fold_clu (s : State) (x0 : CluSt) : ({ s with clu := x0 } : State) = s.upd_clu x0 := rfl

theorem Does.upd_clu {m : Nat} {s₀ : State} (s : State) (x0 : CluSt) (hm : subMask 17592186044416 m = true) (h : Does m s₀ s) :
    Does m s₀ (s.upd_clu x0) := by
  refine Does.after (a := 17592186044416) ?_ hm h
  refine ⟨rfl, List.prefix_refl _, Nat.le_refl _, fun k => ⟨k.regs, k.mem, k.ports, k.phase, k.power⟩, ?_⟩
  intro p hp_
  cases p <;> first
    | exact absurd hp_ (by decide)
    | rfl
    | exact ⟨rfl, rfl⟩
    | exact ⟨rfl, rfl, rfl⟩
    | exact fun _ => rfl
    | exact fun _ _ => rfl

/-- The record with fault replaced. -/
def State.upd_fault (s : State) (x0 : FaultSt) : State := { s with fault := x0 }

theorem State.fold_fault (s : State) (x0 : FaultSt) : ({ s with fault := x0 } : State) = s.upd_fault x0 := rfl

theorem Does.upd_fault {m : Nat} {s₀ : State} (s : State) (x0 : FaultSt) (hm : subMask 17179869184 m = true) (h : Does m s₀ s) :
    Does m s₀ (s.upd_fault x0) := by
  refine Does.after (a := 17179869184) ?_ hm h
  refine ⟨rfl, List.prefix_refl _, Nat.le_refl _, fun k => ⟨k.regs, k.mem, k.ports, k.phase, k.power⟩, ?_⟩
  intro p hp_
  cases p <;> first
    | exact absurd hp_ (by decide)
    | rfl
    | exact ⟨rfl, rfl⟩
    | exact ⟨rfl, rfl, rfl⟩
    | exact fun _ => rfl
    | exact fun _ _ => rfl

/-- The record with flagIn, step replaced. -/
def State.upd_flagIn_step (s : State) (x0 : Bool) (x1 : StepSt) : State := { s with flagIn := x0, step := x1 }

theorem State.fold_flagIn_step (s : State) (x0 : Bool) (x1 : StepSt) : ({ s with flagIn := x0, step := x1 } : State) = s.upd_flagIn_step x0 x1 := rfl

theorem Does.upd_flagIn_step {m : Nat} {s₀ : State} (s : State) (x0 : Bool) (x1 : StepSt) (hp : x1.prevPhase = s.step.prevPhase) (hm : subMask 2181038080 m = true) (h : Does m s₀ s) :
    Does m s₀ (s.upd_flagIn_step x0 x1) := by
  refine Does.after (a := 2181038080) ?_ hm h
  refine ⟨rfl, List.prefix_refl _, Nat.le_refl _, fun k => ⟨k.regs, k.mem, k.ports, ⟨k.phase.1, Nat.le_trans (Nat.le_of_eq hp) k.phase.2⟩, k.power⟩, ?_⟩
  intro p hp_
  cases p <;> first
    | exact absurd hp_ (by decide)
    | rfl
    | exact ⟨rfl, rfl⟩
    | exact ⟨rfl, rfl, rfl⟩
    | exact fun _ => rfl
    | exact fun _ _ => rfl

/-- The record with flagOut replaced. -/
def State.upd_flagOut (s : State) (x0 : Bool) : State := { s with flagOut := x0 }

theorem State.fold_flagOut (s : State) (x0 : Bool) : ({ s with flagOut := x0 } : State) = s.upd_flagOut x0 := rfl

theorem Does.upd_flagOut {m : Nat} {s₀ : State} (s : State) (x0 : Bool) (hm : subMask 16777216 m = true) (h : Does m s₀ s) :
    Does m s₀ (s.upd_flagOut x0) := by
  refine Does.after (a := 16777216) ?_ hm h
  refine ⟨rfl, List.prefix_refl _, Nat.le_refl _, fun k => ⟨k.regs, k.mem, k.ports, k.phase, k.power⟩, ?_⟩
  intro p hp_
  cases p <;> first
    | exact absurd hp_ (by decide)
    | rfl
    | exact ⟨rfl, rfl⟩
    | exact ⟨rfl, rfl, rfl⟩
    | exact fun _ => rfl
    | exact fun _ _ => rfl

/-- The record with flagOut, flagIn, step replaced. -/
def State.upd_flagOut_flagIn_step (s : State) (x0 : Bool) (x1 : Bool) (x2 : StepSt) : State := { s with flagOut := x0, flagIn := x1, step := x2 }

theorem State.fold_flagOut_flagIn_step (s : State) (x0 : Bool) (x1 : Bool) (x2 : StepSt) : ({ s with flagOut := x0, flagIn := x1, step := x2 } : State) = s.upd_flagOut_flagIn_step x0 x1 x2 := rfl

theorem Does.upd_flagOut_flagIn_step {m : Nat} {s₀ : State} (s : State) (x0 : Bool) (x1 : Bool) (x2 : StepSt) (hp : x2.prevPhase = s.step.prevPhase) (hm : subMask 2197815296 m = true) (h : Does m s₀ s) :
    Does m s₀ (s.upd_flagOut_flagIn_step x0 x1 x2) := by
  refine Does.after (a := 2197815296) ?_ hm h
  refine ⟨rfl, List.prefix_refl _, Nat.le_refl _, fun k => ⟨k.regs, k.mem, k.ports, ⟨k.phase.1, Nat.le_trans (Nat.le_of_eq hp) k.phase.2⟩, k.power⟩, ?_⟩
  intro p hp_
  cases p <;> first
    | exact absurd hp_ (by decide)
    | rfl
    | exact ⟨rfl, rfl⟩
    | exact ⟨rfl, rfl, rfl⟩
    | exact fun _ => rfl
    | exact fun _ _ => rfl

/-- The record with flagOut, step replaced. -/
def State.upd_flagOut_step (s : State) (x0 : Bool) (x1 : StepSt) : State := { s with flagOut := x0, step := x1 }

theorem State.fold_flagOut_step (s : State) (x0 : Bool) (x1 : StepSt) : ({ s with flagOut := x0, step := x1 } : State) = s.upd_flagOut_step x0 x1 := rfl

theorem Does.upd_flagOut_step {m : Nat} {s₀ : State} (s : State) (x0 : Bool) (x1 : StepSt) (hp : x1.prevPhase = s.step.prevPhase) (hm : subMask 2164260864 m = true) (h : Does m s₀ s) :
    Does m s₀ (s.upd_flagOut_step x0 x1) := by
  refine Does.after (a := 2164260864) ?_ hm h
  refine ⟨rfl, List.prefix_refl _, Nat.le_refl _, fun k => ⟨k.regs, k.mem, k.ports, ⟨k.phase.1, Nat.le_trans (Nat.le_of_eq hp) k.phase.2⟩, k.power⟩, ?_⟩
  intro p hp_
  cases p <;> first
    | exact absurd hp_ (by decide)
    | rfl
    | exact ⟨rfl, rfl⟩
    | exact ⟨rfl, rfl, rfl⟩
    | exact fun _ => rfl
    | exact fun _ _ => rfl

/-- The record with ftl replaced. -/
def State.upd_ftl (s : State) (x0 : FlashSt) : State := { s with ftl := x0 }

theorem State.fold_ftl (s : State) (x0 : FlashSt) : ({ s with ftl := x0 } : State) = s.upd_ftl x0 := rfl

theorem Does.upd_ftl {m : Nat} {s₀ : State} (s : State) (x0 : FlashSt) (hm : subMask 4398046511104 m = true) (h : Does m s₀ s) :
    Does m s₀ (s.upd_ftl x0) := by
  refine Does.after (a := 4398046511104) ?_ hm h
  refine ⟨rfl, List.prefix_refl _, Nat.le_refl _, fun k => ⟨k.regs, k.mem, k.ports, k.phase, k.power⟩, ?_⟩
  intro p hp_
  cases p <;> first
    | exact absurd hp_ (by decide)
    | rfl
    | exact ⟨rfl, rfl⟩
    | exact ⟨rfl, rfl, rfl⟩
    | exact fun _ => rfl
    | exact fun _ _ => rfl

/-- The record with gauge replaced. -/
def State.upd_gauge (s : State) (x0 : List (Nat × Nat)) : State := { s with gauge := x0 }

theorem State.fold_gauge (s : State) (x0 : List (Nat × Nat)) : ({ s with gauge := x0 } : State) = s.upd_gauge x0 := rfl

theorem Does.upd_gauge {m : Nat} {s₀ : State} (s : State) (x0 : List (Nat × Nat)) (hm : subMask 35184372088832 m = true) (h : Does m s₀ s) :
    Does m s₀ (s.upd_gauge x0) := by
  refine Does.after (a := 35184372088832) ?_ hm h
  refine ⟨rfl, List.prefix_refl _, Nat.le_refl _, fun k => ⟨k.regs, k.mem, k.ports, k.phase, k.power⟩, ?_⟩
  intro p hp_
  cases p <;> first
    | exact absurd hp_ (by decide)
    | rfl
    | exact ⟨rfl, rfl⟩
    | exact ⟨rfl, rfl, rfl⟩
    | exact fun _ => rfl
    | exact fun _ _ => rfl

/-- The record with host replaced. -/
def State.upd_host (s : State) (x0 : HostSt) : State := { s with host := x0 }

theorem State.fold_host (s : State) (x0 : HostSt) : ({ s with host := x0 } : State) = s.upd_host x0 := rfl

theorem Does.upd_host {m : Nat} {s₀ : State} (s : State) (x0 : HostSt) (hm : subMask 2199023255552 m = true) (h : Does m s₀ s) :
    Does m s₀ (s.upd_host x0) := by
  refine Does.after (a := 2199023255552) ?_ hm h
  refine ⟨rfl, List.prefix_refl _, Nat.le_refl _, fun k => ⟨k.regs, k.mem, k.ports, k.phase, k.power⟩, ?_⟩
  intro p hp_
  cases p <;> first
    | exact absurd hp_ (by decide)
    | rfl
    | exact ⟨rfl, rfl⟩
    | exact ⟨rfl, rfl, rfl⟩
    | exact fun _ => rfl
    | exact fun _ _ => rfl

/-- The record with idleRun replaced. -/
def State.upd_idleRun (s : State) (x0 : List (Nat × Nat)) : State := { s with idleRun := x0 }

theorem State.fold_idleRun (s : State) (x0 : List (Nat × Nat)) : ({ s with idleRun := x0 } : State) = s.upd_idleRun x0 := rfl

theorem Does.upd_idleRun {m : Nat} {s₀ : State} (s : State) (x0 : List (Nat × Nat)) (hm : subMask 67108864 m = true) (h : Does m s₀ s) :
    Does m s₀ (s.upd_idleRun x0) := by
  refine Does.after (a := 67108864) ?_ hm h
  refine ⟨rfl, List.prefix_refl _, Nat.le_refl _, fun k => ⟨k.regs, k.mem, k.ports, k.phase, k.power⟩, ?_⟩
  intro p hp_
  cases p <;> first
    | exact absurd hp_ (by decide)
    | rfl
    | exact ⟨rfl, rfl⟩
    | exact ⟨rfl, rfl, rfl⟩
    | exact fun _ => rfl
    | exact fun _ _ => rfl

/-- The record with idleRun, idleStep replaced. -/
def State.upd_idleRun_idleStep (s : State) (x0 : List (Nat × Nat)) (x1 : List (Nat × Nat)) : State := { s with idleRun := x0, idleStep := x1 }

theorem State.fold_idleRun_idleStep (s : State) (x0 : List (Nat × Nat)) (x1 : List (Nat × Nat)) : ({ s with idleRun := x0, idleStep := x1 } : State) = s.upd_idleRun_idleStep x0 x1 := rfl

theorem Does.upd_idleRun_idleStep {m : Nat} {s₀ : State} (s : State) (x0 : List (Nat × Nat)) (x1 : List (Nat × Nat)) (hm : subMask 67108864 m = true) (h : Does m s₀ s) :
    Does m s₀ (s.upd_idleRun_idleStep x0 x1) := by
  refine Does.after (a := 67108864) ?_ hm h
  refine ⟨rfl, List.prefix_refl _, Nat.le_refl _, fun k => ⟨k.regs, k.mem, k.ports, k.phase, k.power⟩, ?_⟩
  intro p hp_
  cases p <;> first
    | exact absurd hp_ (by decide)
    | rfl
    | exact ⟨rfl, rfl⟩
    | exact ⟨rfl, rfl, rfl⟩
    | exact fun _ => rfl
    | exact fun _ _ => rfl

/-- The record with idleRun, idleStep, idleFig, step replaced. -/
def State.upd_idleRun_idleStep_idleFig_step (s : State) (x0 : List (Nat × Nat)) (x1 : List (Nat × Nat)) (x2 : List (Nat × Nat)) (x3 : StepSt) : State := { s with idleRun := x0, idleStep := x1, idleFig := x2, step := x3 }

theorem State.fold_idleRun_idleStep_idleFig_step (s : State) (x0 : List (Nat × Nat)) (x1 : List (Nat × Nat)) (x2 : List (Nat × Nat)) (x3 : StepSt) : ({ s with idleRun := x0, idleStep := x1, idleFig := x2, step := x3 } : State) = s.upd_idleRun_idleStep_idleFig_step x0 x1 x2 x3 := rfl

theorem Does.upd_idleRun_idleStep_idleFig_step {m : Nat} {s₀ : State} (s : State) (x0 : List (Nat × Nat)) (x1 : List (Nat × Nat)) (x2 : List (Nat × Nat)) (x3 : StepSt) (hp : x3.prevPhase = s.step.prevPhase) (hm : subMask 2214592512 m = true) (h : Does m s₀ s) :
    Does m s₀ (s.upd_idleRun_idleStep_idleFig_step x0 x1 x2 x3) := by
  refine Does.after (a := 2214592512) ?_ hm h
  refine ⟨rfl, List.prefix_refl _, Nat.le_refl _, fun k => ⟨k.regs, k.mem, k.ports, ⟨k.phase.1, Nat.le_trans (Nat.le_of_eq hp) k.phase.2⟩, k.power⟩, ?_⟩
  intro p hp_
  cases p <;> first
    | exact absurd hp_ (by decide)
    | rfl
    | exact ⟨rfl, rfl⟩
    | exact ⟨rfl, rfl, rfl⟩
    | exact fun _ => rfl
    | exact fun _ _ => rfl

/-- The record with idleStep, idleFig, step, sync, tier replaced. -/
def State.upd_idleStep_idleFig_step_sync_tier (s : State) (x0 : List (Nat × Nat)) (x1 : List (Nat × Nat)) (x2 : StepSt) (x3 : SyncSt) (x4 : TierSt) : State := { s with idleStep := x0, idleFig := x1, step := x2, sync := x3, tier := x4 }

theorem State.fold_idleStep_idleFig_step_sync_tier (s : State) (x0 : List (Nat × Nat)) (x1 : List (Nat × Nat)) (x2 : StepSt) (x3 : SyncSt) (x4 : TierSt) : ({ s with idleStep := x0, idleFig := x1, step := x2, sync := x3, tier := x4 } : State) = s.upd_idleStep_idleFig_step_sync_tier x0 x1 x2 x3 x4 := rfl

theorem Does.upd_idleStep_idleFig_step_sync_tier {m : Nat} {s₀ : State} (s : State) (x0 : List (Nat × Nat)) (x1 : List (Nat × Nat)) (x2 : StepSt) (x3 : SyncSt) (x4 : TierSt) (hp : x2.prevPhase = s.step.prevPhase) (hm : subMask 285682434048 m = true) (h : Does m s₀ s) :
    Does m s₀ (s.upd_idleStep_idleFig_step_sync_tier x0 x1 x2 x3 x4) := by
  refine Does.after (a := 285682434048) ?_ hm h
  refine ⟨rfl, List.prefix_refl _, Nat.le_refl _, fun k => ⟨k.regs, k.mem, k.ports, ⟨k.phase.1, Nat.le_trans (Nat.le_of_eq hp) k.phase.2⟩, k.power⟩, ?_⟩
  intro p hp_
  cases p <;> first
    | exact absurd hp_ (by decide)
    | rfl
    | exact ⟨rfl, rfl⟩
    | exact ⟨rfl, rfl, rfl⟩
    | exact fun _ => rfl
    | exact fun _ _ => rfl

/-- The record with led replaced. -/
def State.upd_led (s : State) (x0 : LedgerSt) : State := { s with led := x0 }

theorem State.fold_led (s : State) (x0 : LedgerSt) : ({ s with led := x0 } : State) = s.upd_led x0 := rfl

theorem Does.upd_led {m : Nat} {s₀ : State} (s : State) (x0 : LedgerSt) (hm : subMask 34359738368 m = true) (h : Does m s₀ s) :
    Does m s₀ (s.upd_led x0) := by
  refine Does.after (a := 34359738368) ?_ hm h
  refine ⟨rfl, List.prefix_refl _, Nat.le_refl _, fun k => ⟨k.regs, k.mem, k.ports, k.phase, k.power⟩, ?_⟩
  intro p hp_
  cases p <;> first
    | exact absurd hp_ (by decide)
    | rfl
    | exact ⟨rfl, rfl⟩
    | exact ⟨rfl, rfl, rfl⟩
    | exact fun _ => rfl
    | exact fun _ _ => rfl

/-- The record with led, bar replaced. -/
def State.upd_led_bar (s : State) (x0 : LedgerSt) (x1 : BarrierSt) : State := { s with led := x0, bar := x1 }

theorem State.fold_led_bar (s : State) (x0 : LedgerSt) (x1 : BarrierSt) : ({ s with led := x0, bar := x1 } : State) = s.upd_led_bar x0 x1 := rfl

theorem Does.upd_led_bar {m : Nat} {s₀ : State} (s : State) (x0 : LedgerSt) (x1 : BarrierSt) (hm : subMask 1133871366144 m = true) (h : Does m s₀ s) :
    Does m s₀ (s.upd_led_bar x0 x1) := by
  refine Does.after (a := 1133871366144) ?_ hm h
  refine ⟨rfl, List.prefix_refl _, Nat.le_refl _, fun k => ⟨k.regs, k.mem, k.ports, k.phase, k.power⟩, ?_⟩
  intro p hp_
  cases p <;> first
    | exact absurd hp_ (by decide)
    | rfl
    | exact ⟨rfl, rfl⟩
    | exact ⟨rfl, rfl, rfl⟩
    | exact fun _ => rfl
    | exact fun _ _ => rfl

/-- The record with led, upd replaced. -/
def State.upd_led_upd (s : State) (x0 : LedgerSt) (x1 : UpdSt) : State := { s with led := x0, upd := x1 }

theorem State.fold_led_upd (s : State) (x0 : LedgerSt) (x1 : UpdSt) : ({ s with led := x0, upd := x1 } : State) = s.upd_led_upd x0 x1 := rfl

theorem Does.upd_led_upd {m : Nat} {s₀ : State} (s : State) (x0 : LedgerSt) (x1 : UpdSt) (hm : subMask 8830452760576 m = true) (h : Does m s₀ s) :
    Does m s₀ (s.upd_led_upd x0 x1) := by
  refine Does.after (a := 8830452760576) ?_ hm h
  refine ⟨rfl, List.prefix_refl _, Nat.le_refl _, fun k => ⟨k.regs, k.mem, k.ports, k.phase, k.power⟩, ?_⟩
  intro p hp_
  cases p <;> first
    | exact absurd hp_ (by decide)
    | rfl
    | exact ⟨rfl, rfl⟩
    | exact ⟨rfl, rfl, rfl⟩
    | exact fun _ => rfl
    | exact fun _ _ => rfl

/-- The record with logRound replaced. -/
def State.upd_logRound (s : State) (x0 : Option Nat) : State := { s with logRound := x0 }

theorem State.fold_logRound (s : State) (x0 : Option Nat) : ({ s with logRound := x0 } : State) = s.upd_logRound x0 := rfl

theorem Does.upd_logRound {m : Nat} {s₀ : State} (s : State) (x0 : Option Nat) (hm : subMask 536870912 m = true) (h : Does m s₀ s) :
    Does m s₀ (s.upd_logRound x0) := by
  refine Does.after (a := 536870912) ?_ hm h
  refine ⟨rfl, List.prefix_refl _, Nat.le_refl _, fun k => ⟨k.regs, k.mem, k.ports, k.phase, k.power⟩, ?_⟩
  intro p hp_
  cases p <;> first
    | exact absurd hp_ (by decide)
    | rfl
    | exact ⟨rfl, rfl⟩
    | exact ⟨rfl, rfl, rfl⟩
    | exact fun _ => rfl
    | exact fun _ _ => rfl

/-- The record with marks replaced. -/
def State.upd_marks (s : State) (x0 : List Nat) : State := { s with marks := x0 }

theorem State.fold_marks (s : State) (x0 : List Nat) : ({ s with marks := x0 } : State) = s.upd_marks x0 := rfl

theorem Does.upd_marks {m : Nat} {s₀ : State} (s : State) (x0 : List Nat) (hm : subMask 2097152 m = true) (h : Does m s₀ s) :
    Does m s₀ (s.upd_marks x0) := by
  refine Does.after (a := 2097152) ?_ hm h
  refine ⟨rfl, List.prefix_refl _, Nat.le_refl _, fun k => ⟨k.regs, k.mem, k.ports, k.phase, k.power⟩, ?_⟩
  intro p hp_
  cases p <;> first
    | exact absurd hp_ (by decide)
    | rfl
    | exact ⟨rfl, rfl⟩
    | exact ⟨rfl, rfl, rfl⟩
    | exact fun _ => rfl
    | exact fun _ _ => rfl

/-- The record with paceBad replaced. -/
def State.upd_paceBad (s : State) (x0 : List Nat) : State := { s with paceBad := x0 }

theorem State.fold_paceBad (s : State) (x0 : List Nat) : ({ s with paceBad := x0 } : State) = s.upd_paceBad x0 := rfl

theorem Does.upd_paceBad {m : Nat} {s₀ : State} (s : State) (x0 : List Nat) (hm : subMask 268435456 m = true) (h : Does m s₀ s) :
    Does m s₀ (s.upd_paceBad x0) := by
  refine Does.after (a := 268435456) ?_ hm h
  refine ⟨rfl, List.prefix_refl _, Nat.le_refl _, fun k => ⟨k.regs, k.mem, k.ports, k.phase, k.power⟩, ?_⟩
  intro p hp_
  cases p <;> first
    | exact absurd hp_ (by decide)
    | rfl
    | exact ⟨rfl, rfl⟩
    | exact ⟨rfl, rfl, rfl⟩
    | exact fun _ => rfl
    | exact fun _ _ => rfl

/-- The record with pwr replaced. -/
def State.upd_pwr (s : State) (x0 : PowerSt) : State := { s with pwr := x0 }

theorem State.fold_pwr (s : State) (x0 : PowerSt) : ({ s with pwr := x0 } : State) = s.upd_pwr x0 := rfl

theorem Does.upd_pwr {m : Nat} {s₀ : State} (s : State) (x0 : PowerSt) (hm : subMask 137438953472 m = true) (h : Does m s₀ s) :
    Does m s₀ (s.upd_pwr x0) := by
  refine Does.after (a := 137438953472) ?_ hm h
  refine ⟨rfl, List.prefix_refl _, Nat.le_refl _, fun k => ⟨k.regs, k.mem, k.ports, k.phase, k.power⟩, ?_⟩
  intro p hp_
  cases p <;> first
    | exact absurd hp_ (by decide)
    | rfl
    | exact ⟨rfl, rfl⟩
    | exact ⟨rfl, rfl, rfl⟩
    | exact fun _ => rfl
    | exact fun _ _ => rfl

/-- The record with pwr, ftl replaced. -/
def State.upd_pwr_ftl (s : State) (x0 : PowerSt) (x1 : FlashSt) : State := { s with pwr := x0, ftl := x1 }

theorem State.fold_pwr_ftl (s : State) (x0 : PowerSt) (x1 : FlashSt) : ({ s with pwr := x0, ftl := x1 } : State) = s.upd_pwr_ftl x0 x1 := rfl

theorem Does.upd_pwr_ftl {m : Nat} {s₀ : State} (s : State) (x0 : PowerSt) (x1 : FlashSt) (hm : subMask 4535485464576 m = true) (h : Does m s₀ s) :
    Does m s₀ (s.upd_pwr_ftl x0 x1) := by
  refine Does.after (a := 4535485464576) ?_ hm h
  refine ⟨rfl, List.prefix_refl _, Nat.le_refl _, fun k => ⟨k.regs, k.mem, k.ports, k.phase, k.power⟩, ?_⟩
  intro p hp_
  cases p <;> first
    | exact absurd hp_ (by decide)
    | rfl
    | exact ⟨rfl, rfl⟩
    | exact ⟨rfl, rfl, rfl⟩
    | exact fun _ => rfl
    | exact fun _ _ => rfl

/-- The record with row replaced. -/
def State.upd_row (s : State) (x0 : Nat) : State := { s with row := x0 }

theorem State.fold_row (s : State) (x0 : Nat) : ({ s with row := x0 } : State) = s.upd_row x0 := rfl

theorem Does.upd_row {m : Nat} {s₀ : State} (s : State) (x0 : Nat) (hm : subMask 524288 m = true) (h : Does m s₀ s) :
    Does m s₀ (s.upd_row x0) := by
  refine Does.after (a := 524288) ?_ hm h
  refine ⟨rfl, List.prefix_refl _, Nat.le_refl _, fun k => ⟨k.regs, k.mem, k.ports, k.phase, k.power⟩, ?_⟩
  intro p hp_
  cases p <;> first
    | exact absurd hp_ (by decide)
    | rfl
    | exact ⟨rfl, rfl⟩
    | exact ⟨rfl, rfl, rfl⟩
    | exact fun _ => rfl
    | exact fun _ _ => rfl

/-- The record with row, pwr replaced. -/
def State.upd_row_pwr (s : State) (x0 : Nat) (x1 : PowerSt) : State := { s with row := x0, pwr := x1 }

theorem State.fold_row_pwr (s : State) (x0 : Nat) (x1 : PowerSt) : ({ s with row := x0, pwr := x1 } : State) = s.upd_row_pwr x0 x1 := rfl

theorem Does.upd_row_pwr {m : Nat} {s₀ : State} (s : State) (x0 : Nat) (x1 : PowerSt) (hm : subMask 137439477760 m = true) (h : Does m s₀ s) :
    Does m s₀ (s.upd_row_pwr x0 x1) := by
  refine Does.after (a := 137439477760) ?_ hm h
  refine ⟨rfl, List.prefix_refl _, Nat.le_refl _, fun k => ⟨k.regs, k.mem, k.ports, k.phase, k.power⟩, ?_⟩
  intro p hp_
  cases p <;> first
    | exact absurd hp_ (by decide)
    | rfl
    | exact ⟨rfl, rfl⟩
    | exact ⟨rfl, rfl, rfl⟩
    | exact fun _ => rfl
    | exact fun _ _ => rfl

/-- The record with row, sync replaced. -/
def State.upd_row_sync (s : State) (x0 : Nat) (x1 : SyncSt) : State := { s with row := x0, sync := x1 }

theorem State.fold_row_sync (s : State) (x0 : Nat) (x1 : SyncSt) : ({ s with row := x0, sync := x1 } : State) = s.upd_row_sync x0 x1 := rfl

theorem Does.upd_row_sync {m : Nat} {s₀ : State} (s : State) (x0 : Nat) (x1 : SyncSt) (hm : subMask 8590458880 m = true) (h : Does m s₀ s) :
    Does m s₀ (s.upd_row_sync x0 x1) := by
  refine Does.after (a := 8590458880) ?_ hm h
  refine ⟨rfl, List.prefix_refl _, Nat.le_refl _, fun k => ⟨k.regs, k.mem, k.ports, k.phase, k.power⟩, ?_⟩
  intro p hp_
  cases p <;> first
    | exact absurd hp_ (by decide)
    | rfl
    | exact ⟨rfl, rfl⟩
    | exact ⟨rfl, rfl, rfl⟩
    | exact fun _ => rfl
    | exact fun _ _ => rfl

/-- The record with stash replaced. -/
def State.upd_stash (s : State) (x0 : StashSt) : State := { s with stash := x0 }

theorem State.fold_stash (s : State) (x0 : StashSt) : ({ s with stash := x0 } : State) = s.upd_stash x0 := rfl

theorem Does.upd_stash {m : Nat} {s₀ : State} (s : State) (x0 : StashSt) (hm : subMask 4294967296 m = true) (h : Does m s₀ s) :
    Does m s₀ (s.upd_stash x0) := by
  refine Does.after (a := 4294967296) ?_ hm h
  refine ⟨rfl, List.prefix_refl _, Nat.le_refl _, fun k => ⟨k.regs, k.mem, k.ports, k.phase, k.power⟩, ?_⟩
  intro p hp_
  cases p <;> first
    | exact absurd hp_ (by decide)
    | rfl
    | exact ⟨rfl, rfl⟩
    | exact ⟨rfl, rfl, rfl⟩
    | exact fun _ => rfl
    | exact fun _ _ => rfl

/-- The record with stash, ftl, upd, gauge replaced. -/
def State.upd_stash_ftl_upd_gauge (s : State) (x0 : StashSt) (x1 : FlashSt) (x2 : UpdSt) (x3 : List (Nat × Nat)) : State := { s with stash := x0, ftl := x1, upd := x2, gauge := x3 }

theorem State.fold_stash_ftl_upd_gauge (s : State) (x0 : StashSt) (x1 : FlashSt) (x2 : UpdSt) (x3 : List (Nat × Nat)) : ({ s with stash := x0, ftl := x1, upd := x2, gauge := x3 } : State) = s.upd_stash_ftl_upd_gauge x0 x1 x2 x3 := rfl

theorem Does.upd_stash_ftl_upd_gauge {m : Nat} {s₀ : State} (s : State) (x0 : StashSt) (x1 : FlashSt) (x2 : UpdSt) (x3 : List (Nat × Nat)) (hm : subMask 48382806589440 m = true) (h : Does m s₀ s) :
    Does m s₀ (s.upd_stash_ftl_upd_gauge x0 x1 x2 x3) := by
  refine Does.after (a := 48382806589440) ?_ hm h
  refine ⟨rfl, List.prefix_refl _, Nat.le_refl _, fun k => ⟨k.regs, k.mem, k.ports, k.phase, k.power⟩, ?_⟩
  intro p hp_
  cases p <;> first
    | exact absurd hp_ (by decide)
    | rfl
    | exact ⟨rfl, rfl⟩
    | exact ⟨rfl, rfl, rfl⟩
    | exact fun _ => rfl
    | exact fun _ _ => rfl

/-- The record with stash, led replaced. -/
def State.upd_stash_led (s : State) (x0 : StashSt) (x1 : LedgerSt) : State := { s with stash := x0, led := x1 }

theorem State.fold_stash_led (s : State) (x0 : StashSt) (x1 : LedgerSt) : ({ s with stash := x0, led := x1 } : State) = s.upd_stash_led x0 x1 := rfl

theorem Does.upd_stash_led {m : Nat} {s₀ : State} (s : State) (x0 : StashSt) (x1 : LedgerSt) (hm : subMask 38654705664 m = true) (h : Does m s₀ s) :
    Does m s₀ (s.upd_stash_led x0 x1) := by
  refine Does.after (a := 38654705664) ?_ hm h
  refine ⟨rfl, List.prefix_refl _, Nat.le_refl _, fun k => ⟨k.regs, k.mem, k.ports, k.phase, k.power⟩, ?_⟩
  intro p hp_
  cases p <;> first
    | exact absurd hp_ (by decide)
    | rfl
    | exact ⟨rfl, rfl⟩
    | exact ⟨rfl, rfl, rfl⟩
    | exact fun _ => rfl
    | exact fun _ _ => rfl

/-- The record with step replaced. -/
def State.upd_step (s : State) (x0 : StepSt) : State := { s with step := x0 }

theorem State.fold_step (s : State) (x0 : StepSt) : ({ s with step := x0 } : State) = s.upd_step x0 := rfl

theorem Does.upd_step {m : Nat} {s₀ : State} (s : State) (x0 : StepSt) (hp : x0.prevPhase = s.step.prevPhase) (hm : subMask 2147483648 m = true) (h : Does m s₀ s) :
    Does m s₀ (s.upd_step x0) := by
  refine Does.after (a := 2147483648) ?_ hm h
  refine ⟨rfl, List.prefix_refl _, Nat.le_refl _, fun k => ⟨k.regs, k.mem, k.ports, ⟨k.phase.1, Nat.le_trans (Nat.le_of_eq hp) k.phase.2⟩, k.power⟩, ?_⟩
  intro p hp_
  cases p <;> first
    | exact absurd hp_ (by decide)
    | rfl
    | exact ⟨rfl, rfl⟩
    | exact ⟨rfl, rfl, rfl⟩
    | exact fun _ => rfl
    | exact fun _ _ => rfl

/-- The record with step, fault replaced. -/
def State.upd_step_fault (s : State) (x0 : StepSt) (x1 : FaultSt) : State := { s with step := x0, fault := x1 }

theorem State.fold_step_fault (s : State) (x0 : StepSt) (x1 : FaultSt) : ({ s with step := x0, fault := x1 } : State) = s.upd_step_fault x0 x1 := rfl

theorem Does.upd_step_fault {m : Nat} {s₀ : State} (s : State) (x0 : StepSt) (x1 : FaultSt) (hp : x0.prevPhase = s.step.prevPhase) (hm : subMask 19327352832 m = true) (h : Does m s₀ s) :
    Does m s₀ (s.upd_step_fault x0 x1) := by
  refine Does.after (a := 19327352832) ?_ hm h
  refine ⟨rfl, List.prefix_refl _, Nat.le_refl _, fun k => ⟨k.regs, k.mem, k.ports, ⟨k.phase.1, Nat.le_trans (Nat.le_of_eq hp) k.phase.2⟩, k.power⟩, ?_⟩
  intro p hp_
  cases p <;> first
    | exact absurd hp_ (by decide)
    | rfl
    | exact ⟨rfl, rfl⟩
    | exact ⟨rfl, rfl, rfl⟩
    | exact fun _ => rfl
    | exact fun _ _ => rfl

/-- The record with strs replaced. -/
def State.upd_strs (s : State) (x0 : List (Nat × StreamX)) : State := { s with strs := x0 }

theorem State.fold_strs (s : State) (x0 : List (Nat × StreamX)) : ({ s with strs := x0 } : State) = s.upd_strs x0 := rfl

theorem Does.upd_strs {m : Nat} {s₀ : State} (s : State) (x0 : List (Nat × StreamX)) (hm : subMask 549755813888 m = true) (h : Does m s₀ s) :
    Does m s₀ (s.upd_strs x0) := by
  refine Does.after (a := 549755813888) ?_ hm h
  refine ⟨rfl, List.prefix_refl _, Nat.le_refl _, fun k => ⟨k.regs, k.mem, k.ports, k.phase, k.power⟩, ?_⟩
  intro p hp_
  cases p <;> first
    | exact absurd hp_ (by decide)
    | rfl
    | exact ⟨rfl, rfl⟩
    | exact ⟨rfl, rfl, rfl⟩
    | exact fun _ => rfl
    | exact fun _ _ => rfl

/-- The record with sync replaced. -/
def State.upd_sync (s : State) (x0 : SyncSt) : State := { s with sync := x0 }

theorem State.fold_sync (s : State) (x0 : SyncSt) : ({ s with sync := x0 } : State) = s.upd_sync x0 := rfl

theorem Does.upd_sync {m : Nat} {s₀ : State} (s : State) (x0 : SyncSt) (hm : subMask 8589934592 m = true) (h : Does m s₀ s) :
    Does m s₀ (s.upd_sync x0) := by
  refine Does.after (a := 8589934592) ?_ hm h
  refine ⟨rfl, List.prefix_refl _, Nat.le_refl _, fun k => ⟨k.regs, k.mem, k.ports, k.phase, k.power⟩, ?_⟩
  intro p hp_
  cases p <;> first
    | exact absurd hp_ (by decide)
    | rfl
    | exact ⟨rfl, rfl⟩
    | exact ⟨rfl, rfl, rfl⟩
    | exact fun _ => rfl
    | exact fun _ _ => rfl

/-- The record with tens, tensPeak replaced. -/
def State.upd_tens_tensPeak (s : State) (x0 : List (Nat × Nat)) (x1 : List (Nat × (Nat × Nat))) : State := { s with tens := x0, tensPeak := x1 }

theorem State.fold_tens_tensPeak (s : State) (x0 : List (Nat × Nat)) (x1 : List (Nat × (Nat × Nat))) : ({ s with tens := x0, tensPeak := x1 } : State) = s.upd_tens_tensPeak x0 x1 := rfl

theorem Does.upd_tens_tensPeak {m : Nat} {s₀ : State} (s : State) (x0 : List (Nat × Nat)) (x1 : List (Nat × (Nat × Nat))) (hm : subMask 134217728 m = true) (h : Does m s₀ s) :
    Does m s₀ (s.upd_tens_tensPeak x0 x1) := by
  refine Does.after (a := 134217728) ?_ hm h
  refine ⟨rfl, List.prefix_refl _, Nat.le_refl _, fun k => ⟨k.regs, k.mem, k.ports, k.phase, k.power⟩, ?_⟩
  intro p hp_
  cases p <;> first
    | exact absurd hp_ (by decide)
    | rfl
    | exact ⟨rfl, rfl⟩
    | exact ⟨rfl, rfl, rfl⟩
    | exact fun _ => rfl
    | exact fun _ _ => rfl

/-- The record with tens, tensPeak, paceBad, step, fault, bar, clu replaced. -/
def State.upd_tens_tensPeak_paceBad_step_fault_bar_clu (s : State) (x0 : List (Nat × Nat)) (x1 : List (Nat × (Nat × Nat))) (x2 : List Nat) (x3 : StepSt) (x4 : FaultSt) (x5 : BarrierSt) (x6 : CluSt) : State := { s with tens := x0, tensPeak := x1, paceBad := x2, step := x3, fault := x4, bar := x5, clu := x6 }

theorem State.fold_tens_tensPeak_paceBad_step_fault_bar_clu (s : State) (x0 : List (Nat × Nat)) (x1 : List (Nat × (Nat × Nat))) (x2 : List Nat) (x3 : StepSt) (x4 : FaultSt) (x5 : BarrierSt) (x6 : CluSt) : ({ s with tens := x0, tensPeak := x1, paceBad := x2, step := x3, fault := x4, bar := x5, clu := x6 } : State) = s.upd_tens_tensPeak_paceBad_step_fault_bar_clu x0 x1 x2 x3 x4 x5 x6 := rfl

theorem Does.upd_tens_tensPeak_paceBad_step_fault_bar_clu {m : Nat} {s₀ : State} (s : State) (x0 : List (Nat × Nat)) (x1 : List (Nat × (Nat × Nat))) (x2 : List Nat) (x3 : StepSt) (x4 : FaultSt) (x5 : BarrierSt) (x6 : CluSt) (hp : x3.prevPhase = s.step.prevPhase) (hm : subMask 18711427678208 m = true) (h : Does m s₀ s) :
    Does m s₀ (s.upd_tens_tensPeak_paceBad_step_fault_bar_clu x0 x1 x2 x3 x4 x5 x6) := by
  refine Does.after (a := 18711427678208) ?_ hm h
  refine ⟨rfl, List.prefix_refl _, Nat.le_refl _, fun k => ⟨k.regs, k.mem, k.ports, ⟨k.phase.1, Nat.le_trans (Nat.le_of_eq hp) k.phase.2⟩, k.power⟩, ?_⟩
  intro p hp_
  cases p <;> first
    | exact absurd hp_ (by decide)
    | rfl
    | exact ⟨rfl, rfl⟩
    | exact ⟨rfl, rfl, rfl⟩
    | exact fun _ => rfl
    | exact fun _ _ => rfl

/-- The record with tier replaced. -/
def State.upd_tier (s : State) (x0 : TierSt) : State := { s with tier := x0 }

theorem State.fold_tier (s : State) (x0 : TierSt) : ({ s with tier := x0 } : State) = s.upd_tier x0 := rfl

theorem Does.upd_tier {m : Nat} {s₀ : State} (s : State) (x0 : TierSt) (hm : subMask 274877906944 m = true) (h : Does m s₀ s) :
    Does m s₀ (s.upd_tier x0) := by
  refine Does.after (a := 274877906944) ?_ hm h
  refine ⟨rfl, List.prefix_refl _, Nat.le_refl _, fun k => ⟨k.regs, k.mem, k.ports, k.phase, k.power⟩, ?_⟩
  intro p hp_
  cases p <;> first
    | exact absurd hp_ (by decide)
    | rfl
    | exact ⟨rfl, rfl⟩
    | exact ⟨rfl, rfl, rfl⟩
    | exact fun _ => rfl
    | exact fun _ _ => rfl

/-- The record with tier, ftl replaced. -/
def State.upd_tier_ftl (s : State) (x0 : TierSt) (x1 : FlashSt) : State := { s with tier := x0, ftl := x1 }

theorem State.fold_tier_ftl (s : State) (x0 : TierSt) (x1 : FlashSt) : ({ s with tier := x0, ftl := x1 } : State) = s.upd_tier_ftl x0 x1 := rfl

theorem Does.upd_tier_ftl {m : Nat} {s₀ : State} (s : State) (x0 : TierSt) (x1 : FlashSt) (hm : subMask 4672924418048 m = true) (h : Does m s₀ s) :
    Does m s₀ (s.upd_tier_ftl x0 x1) := by
  refine Does.after (a := 4672924418048) ?_ hm h
  refine ⟨rfl, List.prefix_refl _, Nat.le_refl _, fun k => ⟨k.regs, k.mem, k.ports, k.phase, k.power⟩, ?_⟩
  intro p hp_
  cases p <;> first
    | exact absurd hp_ (by decide)
    | rfl
    | exact ⟨rfl, rfl⟩
    | exact ⟨rfl, rfl, rfl⟩
    | exact fun _ => rfl
    | exact fun _ _ => rfl

/-- The record with tier, host replaced. -/
def State.upd_tier_host (s : State) (x0 : TierSt) (x1 : HostSt) : State := { s with tier := x0, host := x1 }

theorem State.fold_tier_host (s : State) (x0 : TierSt) (x1 : HostSt) : ({ s with tier := x0, host := x1 } : State) = s.upd_tier_host x0 x1 := rfl

theorem Does.upd_tier_host {m : Nat} {s₀ : State} (s : State) (x0 : TierSt) (x1 : HostSt) (hm : subMask 2473901162496 m = true) (h : Does m s₀ s) :
    Does m s₀ (s.upd_tier_host x0 x1) := by
  refine Does.after (a := 2473901162496) ?_ hm h
  refine ⟨rfl, List.prefix_refl _, Nat.le_refl _, fun k => ⟨k.regs, k.mem, k.ports, k.phase, k.power⟩, ?_⟩
  intro p hp_
  cases p <;> first
    | exact absurd hp_ (by decide)
    | rfl
    | exact ⟨rfl, rfl⟩
    | exact ⟨rfl, rfl, rfl⟩
    | exact fun _ => rfl
    | exact fun _ _ => rfl

/-- The record with upd replaced. -/
def State.upd_upd (s : State) (x0 : UpdSt) : State := { s with upd := x0 }

theorem State.fold_upd (s : State) (x0 : UpdSt) : ({ s with upd := x0 } : State) = s.upd_upd x0 := rfl

theorem Does.upd_upd {m : Nat} {s₀ : State} (s : State) (x0 : UpdSt) (hm : subMask 8796093022208 m = true) (h : Does m s₀ s) :
    Does m s₀ (s.upd_upd x0) := by
  refine Does.after (a := 8796093022208) ?_ hm h
  refine ⟨rfl, List.prefix_refl _, Nat.le_refl _, fun k => ⟨k.regs, k.mem, k.ports, k.phase, k.power⟩, ?_⟩
  intro p hp_
  cases p <;> first
    | exact absurd hp_ (by decide)
    | rfl
    | exact ⟨rfl, rfl⟩
    | exact ⟨rfl, rfl, rfl⟩
    | exact fun _ => rfl
    | exact fun _ _ => rfl

/-- A part other than the registers, memory, messages and free values is left alone by a record update of those. -/
theorem Does.upd_free {m : Nat} {s₀ : State} (s : State) (x0 : Nat) (hx : s.free ≤ x0) (hm : subMask 8388608 m = true) (h : Does m s₀ s) :
    Does m s₀ { s with free := x0 } := by
  refine Does.after (a := 8388608) ?_ hm h
  refine ⟨rfl, List.prefix_refl _, hx, fun k => ⟨k.regs, k.mem, k.ports, k.phase, k.power⟩, ?_⟩
  intro p hp_
  cases p <;> first
    | exact absurd hp_ (by decide)
    | rfl
    | exact ⟨rfl, rfl⟩
    | exact ⟨rfl, rfl, rfl⟩
    | exact fun _ => rfl
    | exact fun _ _ => rfl

/-- Messages sent while the host side changes. -/
theorem Does.upd_sent_host {m : Nat} {s₀ : State} (s : State) (x0 : List Sent) (x1 : HostSt) (hm : subMask 2199027449856 m = true)
    (h : Does m s₀ s) : Does m s₀ { s with sent := s.sent ++ x0, host := x1 } := by
  refine Does.after (a := 2199027449856) ?_ hm h
  refine ⟨rfl, List.prefix_append _ _, Nat.le_refl _, fun k => ⟨k.regs, k.mem, k.ports, k.phase, k.power⟩, ?_⟩
  intro p hp_
  cases p <;> first
    | exact absurd hp_ (by decide)
    | rfl
    | exact ⟨rfl, rfl⟩
    | exact ⟨rfl, rfl, rfl⟩
    | exact fun _ => rfl
    | exact fun _ _ => rfl

/-- Messages sent while the tier side changes. -/
theorem Does.upd_sent_tier {m : Nat} {s₀ : State} (s : State) (x0 : List Sent) (x1 : TierSt) (hm : subMask 274882101248 m = true)
    (h : Does m s₀ s) : Does m s₀ { s with sent := s.sent ++ x0, tier := x1 } := by
  refine Does.after (a := 274882101248) ?_ hm h
  refine ⟨rfl, List.prefix_append _ _, Nat.le_refl _, fun k => ⟨k.regs, k.mem, k.ports, k.phase, k.power⟩, ?_⟩
  intro p hp_
  cases p <;> first
    | exact absurd hp_ (by decide)
    | rfl
    | exact ⟨rfl, rfl⟩
    | exact ⟨rfl, rfl, rfl⟩
    | exact fun _ => rfl
    | exact fun _ _ => rfl

/-- A filtered register file keeps a well-kept state: a cell taken out reads its reset value. -/
theorem State.wellKept_filter (s : State) (keep : Nat → Bool) (h : s.WellKept) :
    ({ s with regs := s.regs.filter (fun c => keep c.1) } : State).WellKept := by
  have hr : ∀ f : Fld, ({ s with regs := s.regs.filter (fun c => keep c.1) } : State).rf f = if keep f.key = true then s.rf f else resetOf f.key :=
    fun f => SMap.get_filter resetOf s.regs keep f.key
  refine ⟨SMap.wf_filter _ _ _ h.regs, h.mem, h.ports, ⟨?_, h.phase.2⟩, ?_⟩
  · show ({ s with regs := s.regs.filter (fun c => keep c.1) } : State).rf R.STEP_STATUS_PHASE ≤ phHOLD
    rw [hr]
    split
    · exact h.phase.1
    · decide
  · show 1 ≤ ({ s with regs := s.regs.filter (fun c => keep c.1) } : State).rf R.PWR_STATE_STATE ∧
      ({ s with regs := s.regs.filter (fun c => keep c.1) } : State).rf R.PWR_STATE_STATE ≤ 3
    rw [hr]
    split
    · exact h.power
    · decide

/-- Cells of some blocks put back at their reset values. -/
theorem Does.filterRegs {m : Nat} {s₀ : State} (s : State) (keep : Nat → Bool) (a : Nat)
    (hk : ∀ f : Fld, a.testBit f.blk = false → keep f.key = true) (hm : subMask a m = true) (h : Does m s₀ s) :
    Does m s₀ { s with regs := s.regs.filter (fun c => keep c.1) } := by
  refine Does.after (a := a) ?_ hm h
  have hr : ∀ f : Fld, ({ s with regs := s.regs.filter (fun c => keep c.1) } : State).rf f = if keep f.key = true then s.rf f else resetOf f.key :=
    fun f => SMap.get_filter resetOf s.regs keep f.key
  refine ⟨rfl, List.prefix_refl _, Nat.le_refl _, s.wellKept_filter keep, ?_⟩
  intro p hp_
  cases p <;> first
    | rfl
    | exact ⟨rfl, rfl⟩
    | exact ⟨rfl, rfl, rfl⟩
    | exact fun _ => rfl
    | exact fun f hf => by rw [hr, if_pos (hk f (by rw [hf]; exact hp_))]

/-- A chosen field may be written when both choices may. -/
theorem okField_ite {c : Prop} [Decidable c] {f g : Fld} {m : Nat} (hf : okField f m = true) (hg : okField g m = true) :
    okField (if c then f else g) m = true := by split <;> assumption

/-- Every block is in a mask that holds all of them. -/
theorem testBit_all {m : Nat} (off : Nat) (h : subMask 524287 m = true) : m.testBit (blockOf off) = true := by
  have h' : 524287 &&& m = 524287 := by simpa [subMask] using h
  have hb : blockOf off ≤ 18 := List.countP_le_length (l := [0x10000, 0x20000, 0x40000, 0x80000, 0x100000, 0x200000, 0x300000, 0x380000,
    0x400000, 0x480000, 0x500000, 0x580000, 0x600000, 0x640000, 0x680000, 0x700000, 0x708000, 0x780000])
  have e := congrArg (fun x => Nat.testBit x (blockOf off)) h'
  simp only [Nat.testBit_and] at e
  have ht : Nat.testBit 524287 (blockOf off) = true := by
    have : ∀ k, k ≤ 18 → Nat.testBit 524287 k = true := by decide
    exact this _ hb
  rw [ht] at e
  simpa using e

/-- A loop register of a context. -/
theorem ok_loopF {m : Nat} (n depth : Nat) (h : m.testBit 5 = true) : okField (loopF n depth) m = true :=
  okField_ite (ok_STREAM_LOOP_LOOP0 _ h) (ok_STREAM_LOOP_LOOP1 _ h)

/-- A free-unit count of the flash. -/
theorem ok_freeF {m : Nat} (r : Nat) (h : m.testBit 8 = true) : okField (freeF r) m = true :=
  okField_ite (ok_FTL_FREE_SLC h) (ok_FTL_FREE_TLC h)

/-- The register of a mover, channel, module or control core lies in FAULT. -/
theorem blockOf_unitOff (u : Nat) : blockOf (unitOff u) = 13 := by
  have h : 0x610000 ≤ unitOff u ∧ unitOff u ≤ 0x63FFFF := by
    have hu : uIdx u < 4096 := Nat.mod_lt _ (by decide)
    unfold unitOff
    dsimp only
    split_ifs <;> omega
  have h1 : blockOf 0x610000 ≤ blockOf (unitOff u) := blockOf_mono h.1
  have h2 : blockOf (unitOff u) ≤ blockOf 0x63FFFF := blockOf_mono h.2
  have e1 : blockOf 0x610000 = 13 := by decide
  have e2 : blockOf 0x63FFFF = 13 := by decide
  omega

/-- The state and place of a unit. -/
theorem ok_unitStateF {m : Nat} (u : Nat) (h9 : m.testBit 9 = true) (h10 : m.testBit 10 = true)
    (h13 : m.testBit 13 = true) : okField (unitStateF u) m = true := by
  unfold unitStateF
  split_ifs
  · exact ok_CLU_MAP_STATE _ h9
  · exact ok_SKEIN_MAP_STATE _ h10
  · exact ok_FAULT_UNIT_STATE _ (blockOf_unitOff u) h13

theorem ok_unitLogicalF {m : Nat} (u : Nat) (h9 : m.testBit 9 = true) (h10 : m.testBit 10 = true)
    (h13 : m.testBit 13 = true) : okField (unitLogicalF u) m = true := by
  unfold unitLogicalF
  split_ifs
  · exact ok_CLU_MAP_LOGICAL _ h9
  · exact ok_SKEIN_MAP_LOGICAL _ h10
  · exact ok_FAULT_UNIT_LOGICAL _ (blockOf_unitOff u) h13

/-! ## Writes of a register field by field -/

/-- The fields of a register lie in its 64 bits. -/
theorem regRows_lo : regRows.all (fun r => r.fields.all (fun f => decide (f.lo < 64))) = true := by decide +kernel

/-- The fields of the register at an offset lie in its 64 bits. -/
theorem findReg_lo {off : Nat} {r : RegRow} (h : findReg off = some r) : ∀ f ∈ r.fields, f.lo < 64 := by
  have hr := List.mem_of_find?_eq_some h
  have := regRows_lo
  rw [List.all_eq_true] at this
  have h2 := this r hr
  rw [List.all_eq_true] at h2
  intro f hf
  simpa using h2 f hf

/-- STEP_STATUS and PWR_STATE are read-only. -/
theorem findReg_ro : ((findReg 0x80000).map (fun r => r.fields.all (fun f => f.acc == .ro))).getD true = true ∧
    ((findReg 0x20000).map (fun r => r.fields.all (fun f => f.acc == .ro))).getD true = true := by decide +kernel

/-- A field that a register write may change is neither the phase nor the power state. -/
theorem ok_writable {m off : Nat} {r : RegRow} (h : findReg off = some r) (hm : m.testBit (blockOf off) = true) {f : FldRow}
    (hf : f ∈ r.fields) : f.acc = .ro ∨ okField ⟨off, f.lo, f.w⟩ m = true := by
  have hlo := findReg_lo h f hf
  by_cases hacc : f.acc = .ro
  · exact .inl hacc
  · refine .inr (ok_near _ (Fld.blk_eq _ _ _ hlo) ⟨?_, ?_⟩ hm)
    · intro e
      have e' : off * 64 + f.lo = 0x80000 * 64 + 0 := e
      have ho : off = 0x80000 := by omega
      subst ho
      have := findReg_ro.1
      rw [h] at this
      simp only [Option.map_some, Option.getD_some, List.all_eq_true] at this
      exact hacc (by simpa using this f hf)
    · intro e
      have e' : off * 64 + f.lo = 0x20000 * 64 + 0 := e
      have ho : off = 0x20000 := by omega
      subst ho
      have := findReg_ro.2
      rw [h] at this
      simp only [Option.map_some, Option.getD_some, List.all_eq_true] at this
      exact hacc (by simpa using this f hf)

/-! ## Writes of memory -/

/-- Memory written with the default of every byte as it was. -/
theorem Does.upd_mem {m : Nat} {s₀ : State} (s : State) (x0 : List Host.Cell)
    (hx : SMap.wf s.dflt s.mem = true → SMap.wf s.dflt x0 = true) (hm : subMask 1048576 m = true) (h : Does m s₀ s) :
    Does m s₀ { s with mem := x0 } := by
  refine Does.after (a := 1048576) ?_ hm h
  refine ⟨rfl, List.prefix_refl _, Nat.le_refl _, fun k => ⟨k.regs, hx k.mem, k.ports, k.phase, k.power⟩, ?_⟩
  intro p hp_
  cases p <;> first
    | exact absurd hp_ (by decide)
    | rfl
    | exact ⟨rfl, rfl⟩
    | exact ⟨rfl, rfl, rfl⟩
    | exact fun _ _ => rfl

/-- Memory and marks written. -/
theorem Does.upd_mem_marks {m : Nat} {s₀ : State} (s : State) (x0 : List Host.Cell) (x1 : List Nat)
    (hx : SMap.wf s.dflt s.mem = true → SMap.wf s.dflt x0 = true) (hm : subMask 3145728 m = true) (h : Does m s₀ s) :
    Does m s₀ { s with mem := x0, marks := x1 } := by
  refine Does.after (a := 3145728) ?_ hm h
  refine ⟨rfl, List.prefix_refl _, Nat.le_refl _, fun k => ⟨k.regs, hx k.mem, k.ports, k.phase, k.power⟩, ?_⟩
  intro p hp_
  cases p <;> first
    | exact absurd hp_ (by decide)
    | rfl
    | exact ⟨rfl, rfl⟩
    | exact ⟨rfl, rfl, rfl⟩
    | exact fun _ _ => rfl

/-- Pages dropped: their bytes are no longer listed, and only their defaults change. -/
theorem Does.upd_pages {m : Nat} {s₀ : State} (s : State) (stay : Nat → Bool) (x0 : Option Nat) (x1 : List Nat)
    (hd : ∀ a, stay a = true → ({ s with lostHbm := x0, hbmKept := x1 } : State).dflt a = s.dflt a) (hm : subMask 1048576 m = true)
    (h : Does m s₀ s) :
    Does m s₀ { s with mem := s.mem.filter (fun (c : Host.Cell) => stay c.1), lostHbm := x0, hbmKept := x1 } := by
  refine Does.after (a := 1048576) ?_ hm h
  refine ⟨rfl, List.prefix_refl _, Nat.le_refl _, fun k => ⟨k.regs, ?_, k.ports, k.phase, k.power⟩, ?_⟩
  · show SMap.wf ({ s with lostHbm := x0, hbmKept := x1 } : State).dflt (s.mem.filter _) = true
    have hk := SMap.wf_filter _ _ (fun (c : Host.Cell) => stay c.1) k.mem
    rw [SMap.wf_iff] at hk ⊢
    refine ⟨?_, hk.2⟩
    intro c hc
    have hcd : stay c.1 = true := (List.mem_filter.mp hc).2
    rw [hd c.1 hcd]
    exact hk.1 c hc
  · intro p hp_
    cases p <;> first
      | exact absurd hp_ (by decide)
      | rfl
      | exact ⟨rfl, rfl⟩
      | exact ⟨rfl, rfl, rfl⟩
      | exact fun _ _ => rfl


/-! ## Updates of more than one kind of part -/

/-- A part of the record is left alone by a whole record update. -/
def State.upd_free (s : State) (x0 : Nat) : State := { s with free := x0 }

theorem State.fold_free (s : State) (x0 : Nat) : ({ s with free := x0 } : State) = s.upd_free x0 := rfl

theorem Does.upd_freeF {m : Nat} {s₀ : State} (s : State) (x0 : Nat) (hx : s.free ≤ x0) (hm : subMask 8388608 m = true)
    (h : Does m s₀ s) : Does m s₀ (s.upd_free x0) := Does.upd_free s x0 hx hm h

/-- Memory, with all that is recorded of it, emptied. -/
def State.upd_clear (s : State) (x0 : FaultSt) (x1 : PowerSt) (x2 : TierSt) : State :=
  { s with mem := [], lostHbm := none, hbmKept := [], marks := [], fault := x0, pwr := x1, tier := x2 }

theorem State.fold_clear (s : State) (x0 : FaultSt) (x1 : PowerSt) (x2 : TierSt) :
    ({ s with mem := [], lostHbm := none, hbmKept := [], marks := [], fault := x0, pwr := x1, tier := x2 } : State) = s.upd_clear x0 x1 x2 := rfl

theorem Does.upd_clear {m : Nat} {s₀ : State} (s : State) (x0 : FaultSt) (x1 : PowerSt) (x2 : TierSt)
    (hm : subMask 429499875328 m = true) (h : Does m s₀ s) : Does m s₀ (s.upd_clear x0 x1 x2) := by
  refine Does.after (a := 429499875328) ?_ hm h
  refine ⟨rfl, List.prefix_refl _, Nat.le_refl _, fun k => ⟨k.regs, rfl, k.ports, k.phase, k.power⟩, ?_⟩
  intro p hp_
  cases p <;> first
    | exact absurd hp_ (by decide)
    | rfl
    | exact ⟨rfl, rfl⟩
    | exact ⟨rfl, rfl, rfl⟩
    | exact fun _ _ => rfl

/-- Ports replaced by as many. -/
theorem Does.upd_ports {m : Nat} {s₀ : State} (s : State) (x0 : List PortSt) (hx : x0.length = s.ports.length)
    (hm : subMask 68719476736 m = true) (h : Does m s₀ s) : Does m s₀ { s with ports := x0 } := by
  refine Does.after (a := 68719476736) ?_ hm h
  refine ⟨rfl, List.prefix_refl _, Nat.le_refl _, fun k => ⟨k.regs, k.mem, hx.trans k.ports, k.phase, k.power⟩, ?_⟩
  intro p hp_
  cases p <;> first
    | exact absurd hp_ (by decide)
    | rfl
    | exact ⟨rfl, rfl⟩
    | exact ⟨rfl, rfl, rfl⟩
    | exact fun _ => rfl
    | exact fun _ _ => rfl

/-! ## Cells put back, and cells written raw -/

/-- An offset between two of one block lies in it. -/
theorem blockOf_between {a o b k : Nat} (h1 : a ≤ o) (h2 : o ≤ b) (ha : blockOf a = k) (hb : blockOf b = k) : blockOf o = k := by
  have := blockOf_mono h1
  have := blockOf_mono h2
  omega

/-- A cell of a block other than STEP and PWR written. -/
theorem Does.putCell {m : Nat} {s₀ : State} (s : State) (key v k : Nat) (hk : blockOf (key / 64) = k) (hne : (k != 4 && k != 2) = true)
    (hm : m.testBit k = true) (h : Does m s₀ s) : Does m s₀ { s with regs := SMap.put resetOf s.regs key v } := by
  have hr : ∀ f : Fld, f.key ≠ key → ({ s with regs := SMap.put resetOf s.regs key v } : State).rf f = s.rf f := by
    intro f hf
    simp only [State.rf, SMap.get_put, if_neg hf]
  have hb : ∀ f : Fld, f.blk ≠ k → f.key ≠ key := by
    intro f hf e
    exact hf (by unfold Fld.blk; rw [e]; exact hk)
  simp only [Bool.and_eq_true, bne_iff_ne, ne_eq] at hne
  refine h.trans (Does.ofRegs _ k hm (fun f hf => hr f (hb f hf)) ?_)
  intro w
  refine ⟨SMap.wf_put _ _ _ _ w.regs, w.mem, w.ports, ⟨?_, w.phase.2⟩, ?_⟩
  · show ({ s with regs := SMap.put resetOf s.regs key v } : State).rf R.STEP_STATUS_PHASE ≤ phHOLD
    rw [hr _ (hb _ (fun e => hne.1 (e.symm.trans (by decide))))]
    exact w.phase.1
  · show 1 ≤ ({ s with regs := SMap.put resetOf s.regs key v } : State).rf R.PWR_STATE_STATE ∧
      ({ s with regs := SMap.put resetOf s.regs key v } : State).rf R.PWR_STATE_STATE ≤ 3
    rw [hr _ (hb _ (fun e => hne.2 (e.symm.trans (by decide))))]
    exact w.power

/-- Cells of one block written one after another. -/
theorem Does.putCells {m : Nat} {s₀ : State} (s : State) (l : List (Nat × Nat)) (g : Nat → Nat) (k : Nat)
    (hk : ∀ x, blockOf (g x / 64) = k) (hne : (k != 4 && k != 2) = true) (hm : m.testBit k = true) (h : Does m s₀ s) :
    Does m s₀ { s with regs := l.foldl (fun r (c : Nat × Nat) => SMap.put resetOf r (g c.1) c.2) s.regs } := by
  induction l generalizing s with
  | nil => exact h
  | cons c t ih => exact ih _ (Does.putCell s (g c.1) c.2 k (hk _) hne hm h)

theorem subMask_trans {a b c : Nat} (h1 : subMask a b = true) (h2 : subMask b c = true) : subMask a c = true := by
  simp only [subMask, beq_iff_eq] at *
  rw [← h1, Nat.and_assoc, h2]

theorem testBit_mono {a m k : Nat} (h1 : a.testBit k = true) (h2 : subMask a m = true) : m.testBit k = true := by
  simp only [subMask, beq_iff_eq] at h2
  rw [← h2, Nat.testBit_and] at h1
  simp only [Bool.and_eq_true] at h1
  exact h1.2

theorem okField_mono {f : Fld} {a m : Nat} (h1 : okField f a = true) (h2 : subMask a m = true) : okField f m = true := by
  simp only [okField, Bool.and_eq_true] at *
  exact ⟨⟨testBit_mono h1.1.1 h2, h1.1.2⟩, h1.2⟩

/-- The state in a pair that was taken apart. -/
theorem Does.sndOf {α : Type} {m : Nat} {s t : State} {x : α × State} {a : α} (e : x = (a, t)) (h : Does m s x.2) : Does m s t := by
  rw [e] at h
  exact h

theorem Does.fstOf {α : Type} {m : Nat} {s t : State} {x : State × α} {a : α} (e : x = (t, a)) (h : Does m s x.1) : Does m s t := by
  rw [e] at h
  exact h

/-- The block of an offset between two of that block. -/
theorem testBit_between {μ a o b k : Nat} (h1 : a ≤ o) (h2 : o ≤ b) (ha : blockOf a = k) (hb : blockOf b = k) (hk : μ.testBit k = true) :
    μ.testBit (blockOf o) = true := by rw [blockOf_between h1 h2 ha hb]; exact hk

/-- The machine's step state replaced, with a phase to return to that is legal when the first state is well kept. -/
theorem Does.upd_stepOf {m : Nat} {s₀ : State} (s : State) (x0 : StepSt) (hp : s₀.WellKept → x0.prevPhase ≤ 9) (hm : m.testBit 31 = true)
    (h : Does m s₀ s) : Does m s₀ { s with step := x0 } where
  pending := h.pending
  sent := h.sent
  free := h.free
  kept := fun k => ⟨(h.kept k).regs, (h.kept k).mem, (h.kept k).ports, ⟨(h.kept k).phase.1, hp k⟩, (h.kept k).power⟩
  frame := by
    intro p hp_
    have := h.frame p hp_
    cases p <;> first
      | exact absurd hp_ (by rw [show Part.step.idx = 31 from rfl, hm]; exact Bool.noConfusion)
      | exact this

end Sys2Proof.Machine
end

