-- ==== Sys2Proof/Laws/FOps.lean ====
section
/-! SUPPORT. Laws/FOps.lean: what every operation of Machine/Ops.lean leaves alone (see Laws/Frame.lean). -/

set_option linter.unreachableTactic false
set_option linter.unusedTactic false
set_option linter.tactic.unusedName false

namespace Sys2Proof.Machine

theorem State.makeRoom_does {μ : Nat} {σ : State} (s : State) (hμ : subMask 8192 μ = true) (hδ : Does μ σ s) :
    Does μ σ (State.makeRoom s) := by
  refine Does.after (a := 8192) ?_ hμ hδ
  clear hδ hμ
  unfold State.makeRoom
  repeat' first
    | with_reducible assumption
    | with_reducible exact Does.rfl' _ _
    | (extract_lets +onlyGivenNames X_; refine Does.cut X_ ?_ ?_; (on_goal 2 => (intro _; clear_value X_)); (on_goal 1 => (dsimp -zeta only [X_]; clear X_)))
    | (extract_lets +onlyGivenNames X_; refine Does.cutOf (Prod.fst (α := State)) X_ ?_ ?_; (on_goal 2 => (intro _; clear_value X_)); (on_goal 1 => (dsimp -zeta only [X_]; clear X_)))
    | extract_lets +onlyGivenNames X_
    | with_reducible apply Does.set
    | with_reducible apply Does.addSat
    | with_reducible exact ok_FAULT_LOG_PTR_TAIL (by decide)
    | with_reducible exact ok_FAULT_LOG_PTR_DROPPED (by decide)
    | with_reducible apply okField_ite
    | (with_reducible show Nat.testBit _ _ = true; decide)
    | (with_reducible show subMask _ _ = true; decide)
    | (intro _ _ _; beta_reduce)
    | with_reducible apply Does.ite
    | split
    | apply Does.ite
    | dsimp -zeta only
    | refine Does.sndOf (by assumption) ?_
    | refine Does.fstOf (by assumption) ?_

theorem State.logEv_does {μ : Nat} {σ : State} (s : State) (st src unit detail aux : Nat) (hμ : subMask 536895488 μ = true) (hδ : Does μ σ s) :
    Does μ σ (State.logEv s st src unit detail aux) := by
  refine Does.after (a := 536895488) ?_ hμ hδ
  clear hδ hμ
  unfold State.logEv
  try dsimp -zeta only [State.fold_logRound]
  repeat' first
    | with_reducible assumption
    | with_reducible exact Does.rfl' _ _
    | (extract_lets +onlyGivenNames X_; refine Does.cut X_ ?_ ?_; (on_goal 2 => (intro _; clear_value X_)); (on_goal 1 => (dsimp -zeta only [X_]; clear X_)))
    | (extract_lets +onlyGivenNames X_; refine Does.cutOf (Prod.fst (α := State)) X_ ?_ ?_; (on_goal 2 => (intro _; clear_value X_)); (on_goal 1 => (dsimp -zeta only [X_]; clear X_)))
    | extract_lets +onlyGivenNames X_
    | with_reducible apply Does.set
    | with_reducible apply Does.addSat
    | with_reducible apply State.makeRoom_does
    | with_reducible exact ok_FAULT_LOG_W2_REPEAT _ (by decide)
    | with_reducible exact ok_FAULT_LOG_W0_ROW _ (by decide)
    | with_reducible exact ok_FAULT_LOG_W1_STEP _ (by decide)
    | with_reducible exact ok_FAULT_LOG_W1_STATUS _ (by decide)
    | with_reducible exact ok_FAULT_LOG_W1_SOURCE _ (by decide)
    | with_reducible exact ok_FAULT_LOG_W1_UNIT _ (by decide)
    | with_reducible exact ok_FAULT_LOG_W2_DETAIL _ (by decide)
    | with_reducible exact ok_FAULT_LOG_W3_AUX _ (by decide)
    | with_reducible exact ok_FAULT_LOG_PTR_HEAD (by decide)
    | with_reducible apply okField_ite
    | (with_reducible show Nat.testBit _ _ = true; decide)
    | (with_reducible show subMask _ _ = true; decide)
    | (intro _ _ _; beta_reduce)
    | with_reducible apply Does.ite
    | split
    | with_reducible apply Does.upd_logRound
    | apply Does.ite
    | dsimp -zeta only
    | refine Does.sndOf (by assumption) ?_
    | refine Does.fstOf (by assumption) ?_

theorem State.freeBytes_does {m : Nat} {s₀ : State} (s : State) (n : Nat) (hm : subMask 8388608 m = true) (h : Does m s₀ s) :
    Does m s₀ (s.freeBytes n).2 :=
  Does.upd_free s _ (Nat.le_succ _) hm h

theorem State.raiseFlag_does {μ : Nat} {σ : State} (s : State) (cause : Nat) (hμ : subMask 16777232 μ = true) (hδ : Does μ σ s) :
    Does μ σ (State.raiseFlag s cause) := by
  refine Does.after (a := 16777232) ?_ hμ hδ
  clear hδ hμ
  unfold State.raiseFlag
  try dsimp -zeta only [State.fold_flagOut]
  repeat' first
    | with_reducible assumption
    | with_reducible exact Does.rfl' _ _
    | (extract_lets +onlyGivenNames X_; refine Does.cut X_ ?_ ?_; (on_goal 2 => (intro _; clear_value X_)); (on_goal 1 => (dsimp -zeta only [X_]; clear X_)))
    | (extract_lets +onlyGivenNames X_; refine Does.cutOf (Prod.fst (α := State)) X_ ?_ ?_; (on_goal 2 => (intro _; clear_value X_)); (on_goal 1 => (dsimp -zeta only [X_]; clear X_)))
    | extract_lets +onlyGivenNames X_
    | with_reducible apply Does.set
    | with_reducible exact ok_STEP_FLAG_RAISED (by decide)
    | with_reducible exact ok_STEP_FLAG_CAUSE (by decide)
    | with_reducible exact ok_STEP_FLAG_RAISE_AT (by decide)
    | with_reducible apply okField_ite
    | (with_reducible show Nat.testBit _ _ = true; decide)
    | (with_reducible show subMask _ _ = true; decide)
    | (intro _ _ _; beta_reduce)
    | with_reducible apply Does.ite
    | split
    | with_reducible apply Does.upd_flagOut
    | apply Does.ite
    | dsimp -zeta only
    | refine Does.sndOf (by assumption) ?_
    | refine Does.fstOf (by assumption) ?_

theorem State.emit_does {m : Nat} {s₀ : State} (s : State) (x : Sent) (hm : subMask 4194304 m = true) (h : Does m s₀ s) : Does m s₀ (s.emit x) :=
  (Does.emit s x (m := 4194304) (by decide) (Does.rfl' _ _)).after hm h

theorem State.emitHost_does {μ : Nat} {σ : State} (s : State) (x : Sent) (hμ : subMask 2199027449856 μ = true) (hδ : Does μ σ s) :
    Does μ σ (State.emitHost s x) := by
  refine Does.after (a := 2199027449856) ?_ hμ hδ
  clear hδ hμ
  unfold State.emitHost
  try dsimp -zeta only [State.fold_host]
  repeat' first
    | with_reducible assumption
    | with_reducible exact Does.rfl' _ _
    | (extract_lets +onlyGivenNames X_; refine Does.cut X_ ?_ ?_; (on_goal 2 => (intro _; clear_value X_)); (on_goal 1 => (dsimp -zeta only [X_]; clear X_)))
    | (extract_lets +onlyGivenNames X_; refine Does.cutOf (Prod.fst (α := State)) X_ ?_ ?_; (on_goal 2 => (intro _; clear_value X_)); (on_goal 1 => (dsimp -zeta only [X_]; clear X_)))
    | extract_lets +onlyGivenNames X_
    | with_reducible apply State.emit_does
    | with_reducible apply okField_ite
    | (with_reducible show Nat.testBit _ _ = true; decide)
    | (with_reducible show subMask _ _ = true; decide)
    | (intro _ _ _; beta_reduce)
    | with_reducible apply Does.ite
    | split
    | with_reducible apply Does.upd_host
    | apply Does.ite
    | dsimp -zeta only
    | refine Does.sndOf (by assumption) ?_
    | refine Does.fstOf (by assumption) ?_

theorem State.setPba_does {μ : Nat} {σ : State} (s : State) (v : Nat) (b : Bool) (hμ : subMask 64 μ = true) (hδ : Does μ σ s) :
    Does μ σ (State.setPba s v b) := by
  refine Does.after (a := 64) ?_ hμ hδ
  clear hδ hμ
  unfold State.setPba
  repeat' first
    | with_reducible assumption
    | with_reducible exact Does.rfl' _ _
    | (extract_lets +onlyGivenNames X_; refine Does.cut X_ ?_ ?_; (on_goal 2 => (intro _; clear_value X_)); (on_goal 1 => (dsimp -zeta only [X_]; clear X_)))
    | (extract_lets +onlyGivenNames X_; refine Does.cutOf (Prod.fst (α := State)) X_ ?_ ?_; (on_goal 2 => (intro _; clear_value X_)); (on_goal 1 => (dsimp -zeta only [X_]; clear X_)))
    | extract_lets +onlyGivenNames X_
    | with_reducible apply Does.set
    | with_reducible exact ok_MSIX_PBA_BITS _ (by decide)
    | with_reducible apply okField_ite
    | (with_reducible show Nat.testBit _ _ = true; decide)
    | (with_reducible show subMask _ _ = true; decide)
    | (intro _ _ _; beta_reduce)
    | with_reducible apply Does.ite
    | split
    | apply Does.ite
    | dsimp -zeta only
    | refine Does.sndOf (by assumption) ?_
    | refine Does.fstOf (by assumption) ?_

theorem State.raiseVec_does {μ : Nat} {σ : State} (s : State) (v : Nat) (hμ : subMask 4194368 μ = true) (hδ : Does μ σ s) :
    Does μ σ (State.raiseVec s v) := by
  refine Does.after (a := 4194368) ?_ hμ hδ
  clear hδ hμ
  unfold State.raiseVec
  repeat' first
    | with_reducible assumption
    | with_reducible exact Does.rfl' _ _
    | (extract_lets +onlyGivenNames X_; refine Does.cut X_ ?_ ?_; (on_goal 2 => (intro _; clear_value X_)); (on_goal 1 => (dsimp -zeta only [X_]; clear X_)))
    | (extract_lets +onlyGivenNames X_; refine Does.cutOf (Prod.fst (α := State)) X_ ?_ ?_; (on_goal 2 => (intro _; clear_value X_)); (on_goal 1 => (dsimp -zeta only [X_]; clear X_)))
    | extract_lets +onlyGivenNames X_
    | with_reducible apply State.emit_does
    | with_reducible apply State.setPba_does
    | with_reducible apply okField_ite
    | (with_reducible show Nat.testBit _ _ = true; decide)
    | (with_reducible show subMask _ _ = true; decide)
    | (intro _ _ _; beta_reduce)
    | with_reducible apply Does.ite
    | split
    | apply Does.ite
    | dsimp -zeta only
    | refine Does.sndOf (by assumption) ?_
    | refine Does.fstOf (by assumption) ?_

theorem State.setStr_does {μ : Nat} {σ : State} (s : State) (n : Nat) (x : StreamX) (hμ : subMask 549755813888 μ = true) (hδ : Does μ σ s) :
    Does μ σ (State.setStr s n x) := by
  refine Does.after (a := 549755813888) ?_ hμ hδ
  clear hδ hμ
  unfold State.setStr
  try dsimp -zeta only [State.fold_strs]
  repeat' first
    | with_reducible assumption
    | with_reducible exact Does.rfl' _ _
    | (extract_lets +onlyGivenNames X_; refine Does.cut X_ ?_ ?_; (on_goal 2 => (intro _; clear_value X_)); (on_goal 1 => (dsimp -zeta only [X_]; clear X_)))
    | (extract_lets +onlyGivenNames X_; refine Does.cutOf (Prod.fst (α := State)) X_ ?_ ?_; (on_goal 2 => (intro _; clear_value X_)); (on_goal 1 => (dsimp -zeta only [X_]; clear X_)))
    | extract_lets +onlyGivenNames X_
    | with_reducible apply okField_ite
    | (with_reducible show Nat.testBit _ _ = true; decide)
    | (with_reducible show subMask _ _ = true; decide)
    | (intro _ _ _; beta_reduce)
    | with_reducible apply Does.ite
    | split
    | with_reducible apply Does.upd_strs
    | apply Does.ite
    | dsimp -zeta only
    | refine Does.sndOf (by assumption) ?_
    | refine Does.fstOf (by assumption) ?_

theorem State.refuse_does {μ : Nat} {σ : State} (s : State) (off st : Nat) (hμ : subMask 536895488 μ = true) (hδ : Does μ σ s) :
    Does μ σ (State.refuse s off st) := by
  refine Does.after (a := 536895488) ?_ hμ hδ
  clear hδ hμ
  unfold State.refuse
  repeat' first
    | with_reducible assumption
    | with_reducible exact Does.rfl' _ _
    | (extract_lets +onlyGivenNames X_; refine Does.cut X_ ?_ ?_; (on_goal 2 => (intro _; clear_value X_)); (on_goal 1 => (dsimp -zeta only [X_]; clear X_)))
    | (extract_lets +onlyGivenNames X_; refine Does.cutOf (Prod.fst (α := State)) X_ ?_ ?_; (on_goal 2 => (intro _; clear_value X_)); (on_goal 1 => (dsimp -zeta only [X_]; clear X_)))
    | extract_lets +onlyGivenNames X_
    | with_reducible apply State.logEv_does
    | with_reducible apply okField_ite
    | (with_reducible show Nat.testBit _ _ = true; decide)
    | (with_reducible show subMask _ _ = true; decide)
    | (intro _ _ _; beta_reduce)
    | with_reducible apply Does.ite
    | split
    | apply Does.ite
    | dsimp -zeta only
    | refine Does.sndOf (by assumption) ?_
    | refine Does.fstOf (by assumption) ?_

theorem State.fresh_does {m : Nat} {s₀ : State} (s : State) (hm : subMask 8388608 m = true) (h : Does m s₀ s) : Does m s₀ (s.fresh).2 :=
  Does.upd_free s _ (Nat.le_succ _) hm h

theorem State.writeFld_does {m : Nat} {s₀ : State} (s : State) (off : Nat) (w : Wr) (f : FldRow)
    (hf : f.acc = .ro ∨ okField ⟨off, f.lo, f.w⟩ m = true) (hm : subMask 536895488 m = true) (h : Does m s₀ s) :
    Does m s₀ (s.writeFld off w f) := by
  unfold State.writeFld
  split
  · exact h
  · split
    · exact h
    · exact h
    · split
      · exact h
      · exact State.refuse_does _ _ _ hm h
    · rename_i hacc
      split
      · refine Does.set _ _ _ (hf.resolve_left ?_) h
        rw [hacc]
        exact Acc.noConfusion
      · exact State.refuse_does _ _ _ hm h
    · rename_i hacc
      split
      · refine Does.set _ _ _ (hf.resolve_left ?_) h
        rw [hacc]
        exact Acc.noConfusion
      · exact State.refuse_does _ _ _ hm h

theorem State.regWrite_does {m : Nat} {s₀ : State} (s : State) (off : Nat) (w : Wr) (hb : m.testBit (blockOf off) = true)
    (hm : subMask 536895488 m = true) (h : Does m s₀ s) : Does m s₀ (s.regWrite off w) := by
  unfold State.regWrite
  split
  · exact State.refuse_does _ _ _ hm h
  · rename_i r hr
    split
    · exact State.refuse_does _ _ _ hm h
    · have hl : ∀ (l : List FldRow), (∀ f ∈ l, f ∈ r.fields) → ∀ v, Does m s₀ v → Does m s₀ (l.foldl (fun s f => s.writeFld off w f) v) := by
        intro l
        induction l with
        | nil => intro _ v hv; exact hv
        | cons f t ih =>
          intro hs v hv
          exact ih (fun g hg => hs g (List.mem_cons_of_mem _ hg)) _
            (State.writeFld_does v off w f (ok_writable hr hb (hs f (List.mem_cons_self ..))) hm hv)
      have h2 := hl r.fields (fun _ hf => hf) s h
      dsimp only
      split
      · exact h2
      · exact State.refuse_does _ _ _ hm h2

theorem State.badArg_does {μ : Nat} {σ : State} (s : State) (off : Nat) (hμ : subMask 536895488 μ = true) (hδ : Does μ σ s) :
    Does μ σ (State.badArg s off) := by
  refine Does.after (a := 536895488) ?_ hμ hδ
  clear hδ hμ
  unfold State.badArg
  repeat' first
    | with_reducible assumption
    | with_reducible exact Does.rfl' _ _
    | (extract_lets +onlyGivenNames X_; refine Does.cut X_ ?_ ?_; (on_goal 2 => (intro _; clear_value X_)); (on_goal 1 => (dsimp -zeta only [X_]; clear X_)))
    | (extract_lets +onlyGivenNames X_; refine Does.cutOf (Prod.fst (α := State)) X_ ?_ ?_; (on_goal 2 => (intro _; clear_value X_)); (on_goal 1 => (dsimp -zeta only [X_]; clear X_)))
    | extract_lets +onlyGivenNames X_
    | with_reducible apply State.refuse_does
    | with_reducible apply okField_ite
    | (with_reducible show Nat.testBit _ _ = true; decide)
    | (with_reducible show subMask _ _ = true; decide)
    | (intro _ _ _; beta_reduce)
    | with_reducible apply Does.ite
    | split
    | apply Does.ite
    | dsimp -zeta only
    | refine Does.sndOf (by assumption) ?_
    | refine Does.fstOf (by assumption) ?_

theorem State.flushVec_does {μ : Nat} {σ : State} (s : State) (v : Nat) (hμ : subMask 4194368 μ = true) (hδ : Does μ σ s) :
    Does μ σ (State.flushVec s v) := by
  refine Does.after (a := 4194368) ?_ hμ hδ
  clear hδ hμ
  unfold State.flushVec
  repeat' first
    | with_reducible assumption
    | with_reducible exact Does.rfl' _ _
    | (extract_lets +onlyGivenNames X_; refine Does.cut X_ ?_ ?_; (on_goal 2 => (intro _; clear_value X_)); (on_goal 1 => (dsimp -zeta only [X_]; clear X_)))
    | (extract_lets +onlyGivenNames X_; refine Does.cutOf (Prod.fst (α := State)) X_ ?_ ?_; (on_goal 2 => (intro _; clear_value X_)); (on_goal 1 => (dsimp -zeta only [X_]; clear X_)))
    | extract_lets +onlyGivenNames X_
    | with_reducible apply State.emit_does
    | with_reducible apply State.setPba_does
    | with_reducible apply okField_ite
    | (with_reducible show Nat.testBit _ _ = true; decide)
    | (with_reducible show subMask _ _ = true; decide)
    | (intro _ _ _; beta_reduce)
    | with_reducible apply Does.ite
    | split
    | apply Does.ite
    | dsimp -zeta only
    | refine Does.sndOf (by assumption) ?_
    | refine Does.fstOf (by assumption) ?_

end Sys2Proof.Machine
end

