-- ==== Sys2Proof/Laws/FFlashMap.lean ====
section
/-! SUPPORT. Laws/FFlashMap.lean: what every operation of Machine/FlashMap.lean leaves alone (see Laws/Frame.lean). -/

set_option linter.unreachableTactic false
set_option linter.unusedTactic false
set_option linter.tactic.unusedName false

namespace Sys2Proof.Machine

theorem State.flashErr_does {μ : Nat} {σ : State} (s : State) (n st detail aux : Nat) (hμ : subMask 536895744 μ = true) (hδ : Does μ σ s) :
    Does μ σ (State.flashErr s n st detail aux) := by
  refine Does.after (a := 536895744) ?_ hμ hδ
  clear hδ hμ
  unfold State.flashErr
  repeat' first
    | with_reducible assumption
    | with_reducible exact Does.rfl' _ _
    | (extract_lets +onlyGivenNames X_; refine Does.cut X_ ?_ ?_; (on_goal 2 => (intro _; clear_value X_)); (on_goal 1 => (dsimp -zeta only [X_]; clear X_)))
    | (extract_lets +onlyGivenNames X_; refine Does.cutOf (Prod.fst (α := State)) X_ ?_ ?_; (on_goal 2 => (intro _; clear_value X_)); (on_goal 1 => (dsimp -zeta only [X_]; clear X_)))
    | extract_lets +onlyGivenNames X_
    | with_reducible apply Does.set
    | with_reducible apply Does.addSat
    | with_reducible apply State.logEv_does
    | with_reducible exact ok_FTL_ERR_COUNT (by decide)
    | with_reducible exact ok_FTL_ERR_LAST_STATUS (by decide)
    | with_reducible apply okField_ite
    | (with_reducible show Nat.testBit _ _ = true; decide)
    | (with_reducible show subMask _ _ = true; decide)
    | (intro _ _ _; beta_reduce)
    | with_reducible apply Does.ite
    | split
    | apply Does.ite
    | dsimp -zeta only
    | refine Does.sndOf (by assumption) ?_
    | refine Does.fstOf (by assumption) ?_

theorem State.setBlk_does {μ : Nat} {σ : State} (s : State) (b : Nat) (x : FlashBlk) (hμ : subMask 4398046511104 μ = true) (hδ : Does μ σ s) :
    Does μ σ (State.setBlk s b x) := by
  refine Does.after (a := 4398046511104) ?_ hμ hδ
  clear hδ hμ
  unfold State.setBlk
  try dsimp -zeta only [State.fold_ftl]
  repeat' first
    | with_reducible assumption
    | with_reducible exact Does.rfl' _ _
    | (extract_lets +onlyGivenNames X_; refine Does.cut X_ ?_ ?_; (on_goal 2 => (intro _; clear_value X_)); (on_goal 1 => (dsimp -zeta only [X_]; clear X_)))
    | (extract_lets +onlyGivenNames X_; refine Does.cutOf (Prod.fst (α := State)) X_ ?_ ?_; (on_goal 2 => (intro _; clear_value X_)); (on_goal 1 => (dsimp -zeta only [X_]; clear X_)))
    | extract_lets +onlyGivenNames X_
    | with_reducible apply okField_ite
    | (with_reducible show Nat.testBit _ _ = true; decide)
    | (with_reducible show subMask _ _ = true; decide)
    | (intro _ _ _; beta_reduce)
    | with_reducible apply Does.ite
    | split
    | with_reducible apply Does.upd_ftl
    | apply Does.ite
    | dsimp -zeta only
    | refine Does.sndOf (by assumption) ?_
    | refine Does.fstOf (by assumption) ?_

theorem State.programPages_does {μ : Nat} {σ : State} (s : State) (p u : Nat) (store : Bool) (hμ : subMask 4398046511104 μ = true) (hδ : Does μ σ s) :
    Does μ σ (State.programPages s p u store) := by
  refine Does.after (a := 4398046511104) ?_ hμ hδ
  clear hδ hμ
  unfold State.programPages
  try dsimp -zeta only [State.fold_ftl]
  repeat' first
    | with_reducible assumption
    | with_reducible exact Does.rfl' _ _
    | (extract_lets +onlyGivenNames X_; refine Does.cut X_ ?_ ?_; (on_goal 2 => (intro _; clear_value X_)); (on_goal 1 => (dsimp -zeta only [X_]; clear X_)))
    | (extract_lets +onlyGivenNames X_; refine Does.cutOf (Prod.fst (α := State)) X_ ?_ ?_; (on_goal 2 => (intro _; clear_value X_)); (on_goal 1 => (dsimp -zeta only [X_]; clear X_)))
    | extract_lets +onlyGivenNames X_
    | with_reducible apply State.setBlk_does
    | with_reducible apply okField_ite
    | (with_reducible show Nat.testBit _ _ = true; decide)
    | (with_reducible show subMask _ _ = true; decide)
    | (intro _ _ _; beta_reduce)
    | with_reducible apply Does.ite
    | split
    | with_reducible apply Does.upd_ftl
    | apply Does.ite
    | dsimp -zeta only
    | refine Does.sndOf (by assumption) ?_
    | refine Does.fstOf (by assumption) ?_

theorem State.programPlace_does {μ : Nat} {σ : State} (s : State) (p u : Nat) (hμ : subMask 4398046511360 μ = true) (hδ : Does μ σ s) :
    Does μ σ (State.programPlace s p u) := by
  refine Does.after (a := 4398046511360) ?_ hμ hδ
  clear hδ hμ
  unfold State.programPlace
  repeat' first
    | with_reducible assumption
    | with_reducible exact Does.rfl' _ _
    | (extract_lets +onlyGivenNames X_; refine Does.cut X_ ?_ ?_; (on_goal 2 => (intro _; clear_value X_)); (on_goal 1 => (dsimp -zeta only [X_]; clear X_)))
    | (extract_lets +onlyGivenNames X_; refine Does.cutOf (Prod.fst (α := State)) X_ ?_ ?_; (on_goal 2 => (intro _; clear_value X_)); (on_goal 1 => (dsimp -zeta only [X_]; clear X_)))
    | extract_lets +onlyGivenNames X_
    | with_reducible apply Does.set
    | with_reducible apply State.programPages_does
    | with_reducible exact ok_freeF _ (by decide)
    | with_reducible apply okField_ite
    | (with_reducible show Nat.testBit _ _ = true; decide)
    | (with_reducible show subMask _ _ = true; decide)
    | (intro _ _ _; beta_reduce)
    | with_reducible apply Does.ite
    | split
    | apply Does.ite
    | dsimp -zeta only
    | refine Does.sndOf (by assumption) ?_
    | refine Does.fstOf (by assumption) ?_

theorem State.writeStorePages_does {μ : Nat} {σ : State} (s : State) (fuel_ : Nat) (hμ : subMask 4398054899712 μ = true) (hδ : Does μ σ s) :
    Does μ σ (State.writeStorePages s fuel_) := by
  refine Does.after (a := 4398054899712) ?_ hμ hδ
  clear hδ hμ
  induction fuel_ generalizing s with
  | zero => unfold State.writeStorePages; exact Does.rfl' _ _
  | succ fuel_ ih =>
    unfold State.writeStorePages
    repeat' first
      | with_reducible assumption
      | with_reducible exact Does.rfl' _ _
      | (extract_lets +onlyGivenNames X_; refine Does.cut X_ ?_ ?_; (on_goal 2 => (intro _; clear_value X_)); (on_goal 1 => (dsimp -zeta only [X_]; clear X_)))
      | (extract_lets +onlyGivenNames X_; refine Does.cutOf (Prod.fst (α := State)) X_ ?_ ?_; (on_goal 2 => (intro _; clear_value X_)); (on_goal 1 => (dsimp -zeta only [X_]; clear X_)))
      | extract_lets +onlyGivenNames X_
      | with_reducible apply State.fresh_does
      | with_reducible apply State.programPages_does
      | with_reducible apply okField_ite
      | (with_reducible show Nat.testBit _ _ = true; decide)
      | (with_reducible show subMask _ _ = true; decide)
      | (intro _ _ _; beta_reduce)
      | with_reducible apply Does.ite
      | split
      | (with_reducible refine Does.trans ?_ (ih _))
      | apply Does.ite
      | dsimp -zeta only
      | refine Does.sndOf (by assumption) ?_
      | refine Does.fstOf (by assumption) ?_
      | (generalize ‹Option _› = w_; split)
      | (generalize ‹List _› = w_; split)

theorem State.writeShadow_does {μ : Nat} {σ : State} (s : State) (u p a : Nat) (l : List MByte) (hμ : subMask 4398046511360 μ = true) (hδ : Does μ σ s) :
    Does μ σ (State.writeShadow s u p a l) := by
  refine Does.after (a := 4398046511360) ?_ hμ hδ
  clear hδ hμ
  unfold State.writeShadow
  try dsimp -zeta only [State.fold_ftl]
  repeat' first
    | with_reducible assumption
    | with_reducible exact Does.rfl' _ _
    | (extract_lets +onlyGivenNames X_; refine Does.cut X_ ?_ ?_; (on_goal 2 => (intro _; clear_value X_)); (on_goal 1 => (dsimp -zeta only [X_]; clear X_)))
    | (extract_lets +onlyGivenNames X_; refine Does.cutOf (Prod.fst (α := State)) X_ ?_ ?_; (on_goal 2 => (intro _; clear_value X_)); (on_goal 1 => (dsimp -zeta only [X_]; clear X_)))
    | extract_lets +onlyGivenNames X_
    | with_reducible apply State.programPlace_does
    | with_reducible apply Does.foldl
    | with_reducible apply Does.foldlFst
    | with_reducible apply okField_ite
    | (with_reducible show Nat.testBit _ _ = true; decide)
    | (with_reducible show subMask _ _ = true; decide)
    | (intro _ _ _; beta_reduce)
    | with_reducible apply Does.ite
    | split
    | with_reducible apply Does.upd_ftl
    | apply Does.ite
    | dsimp -zeta only
    | refine Does.sndOf (by assumption) ?_
    | refine Does.fstOf (by assumption) ?_

theorem State.showQueue_does {μ : Nat} {σ : State} (s : State) (hμ : subMask 256 μ = true) (hδ : Does μ σ s) :
    Does μ σ (State.showQueue s) := by
  refine Does.after (a := 256) ?_ hμ hδ
  clear hδ hμ
  unfold State.showQueue
  repeat' first
    | with_reducible assumption
    | with_reducible exact Does.rfl' _ _
    | (extract_lets +onlyGivenNames X_; refine Does.cut X_ ?_ ?_; (on_goal 2 => (intro _; clear_value X_)); (on_goal 1 => (dsimp -zeta only [X_]; clear X_)))
    | (extract_lets +onlyGivenNames X_; refine Does.cutOf (Prod.fst (α := State)) X_ ?_ ?_; (on_goal 2 => (intro _; clear_value X_)); (on_goal 1 => (dsimp -zeta only [X_]; clear X_)))
    | extract_lets +onlyGivenNames X_
    | with_reducible apply Does.set
    | with_reducible exact ok_FTL_DISTURB_QUEUED (by decide)
    | with_reducible apply okField_ite
    | (with_reducible show Nat.testBit _ _ = true; decide)
    | (with_reducible show subMask _ _ = true; decide)
    | (intro _ _ _; beta_reduce)
    | with_reducible apply Does.ite
    | split
    | apply Does.ite
    | dsimp -zeta only
    | refine Does.sndOf (by assumption) ?_
    | refine Does.fstOf (by assumption) ?_

theorem State.queueBlk_does {μ : Nat} {σ : State} (s : State) (b : Nat) (hμ : subMask 4398046511360 μ = true) (hδ : Does μ σ s) :
    Does μ σ (State.queueBlk s b) := by
  refine Does.after (a := 4398046511360) ?_ hμ hδ
  clear hδ hμ
  unfold State.queueBlk
  try dsimp -zeta only [State.fold_ftl]
  repeat' first
    | with_reducible assumption
    | with_reducible exact Does.rfl' _ _
    | (extract_lets +onlyGivenNames X_; refine Does.cut X_ ?_ ?_; (on_goal 2 => (intro _; clear_value X_)); (on_goal 1 => (dsimp -zeta only [X_]; clear X_)))
    | (extract_lets +onlyGivenNames X_; refine Does.cutOf (Prod.fst (α := State)) X_ ?_ ?_; (on_goal 2 => (intro _; clear_value X_)); (on_goal 1 => (dsimp -zeta only [X_]; clear X_)))
    | extract_lets +onlyGivenNames X_
    | with_reducible apply State.showQueue_does
    | with_reducible apply okField_ite
    | (with_reducible show Nat.testBit _ _ = true; decide)
    | (with_reducible show subMask _ _ = true; decide)
    | (intro _ _ _; beta_reduce)
    | with_reducible apply Does.ite
    | split
    | with_reducible apply Does.upd_ftl
    | apply Does.ite
    | dsimp -zeta only
    | refine Does.sndOf (by assumption) ?_
    | refine Does.fstOf (by assumption) ?_

theorem State.countRead_does {μ : Nat} {σ : State} (s : State) (b : Nat) (hμ : subMask 4398046511360 μ = true) (hδ : Does μ σ s) :
    Does μ σ (State.countRead s b) := by
  refine Does.after (a := 4398046511360) ?_ hμ hδ
  clear hδ hμ
  unfold State.countRead
  repeat' first
    | with_reducible assumption
    | with_reducible exact Does.rfl' _ _
    | (extract_lets +onlyGivenNames X_; refine Does.cut X_ ?_ ?_; (on_goal 2 => (intro _; clear_value X_)); (on_goal 1 => (dsimp -zeta only [X_]; clear X_)))
    | (extract_lets +onlyGivenNames X_; refine Does.cutOf (Prod.fst (α := State)) X_ ?_ ?_; (on_goal 2 => (intro _; clear_value X_)); (on_goal 1 => (dsimp -zeta only [X_]; clear X_)))
    | extract_lets +onlyGivenNames X_
    | with_reducible apply Does.set
    | with_reducible apply State.queueBlk_does
    | with_reducible apply State.setBlk_does
    | with_reducible exact ok_FTL_ERR_DISTURB_LATE (by decide)
    | with_reducible apply okField_ite
    | (with_reducible show Nat.testBit _ _ = true; decide)
    | (with_reducible show subMask _ _ = true; decide)
    | (intro _ _ _; beta_reduce)
    | with_reducible apply Does.ite
    | split
    | apply Does.ite
    | dsimp -zeta only
    | refine Does.sndOf (by assumption) ?_
    | refine Does.fstOf (by assumption) ?_

theorem State.writeLive_does {μ : Nat} {σ : State} (s : State) (u p a : Nat) (l : List MByte) (hμ : subMask 4398046511360 μ = true) (hδ : Does μ σ s) :
    Does μ σ (State.writeLive s u p a l) := by
  refine Does.after (a := 4398046511360) ?_ hμ hδ
  clear hδ hμ
  unfold State.writeLive
  try dsimp -zeta only [State.fold_ftl]
  repeat' first
    | with_reducible assumption
    | with_reducible exact Does.rfl' _ _
    | (extract_lets +onlyGivenNames X_; refine Does.cut X_ ?_ ?_; (on_goal 2 => (intro _; clear_value X_)); (on_goal 1 => (dsimp -zeta only [X_]; clear X_)))
    | (extract_lets +onlyGivenNames X_; refine Does.cutOf (Prod.fst (α := State)) X_ ?_ ?_; (on_goal 2 => (intro _; clear_value X_)); (on_goal 1 => (dsimp -zeta only [X_]; clear X_)))
    | extract_lets +onlyGivenNames X_
    | with_reducible apply State.countRead_does
    | with_reducible apply State.programPlace_does
    | with_reducible apply Does.foldl
    | with_reducible apply Does.foldlFst
    | with_reducible apply okField_ite
    | (with_reducible show Nat.testBit _ _ = true; decide)
    | (with_reducible show subMask _ _ = true; decide)
    | (intro _ _ _; beta_reduce)
    | with_reducible apply Does.ite
    | split
    | with_reducible apply Does.upd_ftl
    | apply Does.ite
    | dsimp -zeta only
    | refine Does.sndOf (by assumption) ?_
    | refine Does.fstOf (by assumption) ?_
    | (generalize ‹Option _› = w_; split)
    | (generalize ‹List _› = w_; split)

theorem State.growShadow_does {μ : Nat} {σ : State} (s : State) (a : Nat) (l : List MByte) (hμ : subMask 4398046511104 μ = true) (hδ : Does μ σ s) :
    Does μ σ (State.growShadow s a l) := by
  refine Does.after (a := 4398046511104) ?_ hμ hδ
  clear hδ hμ
  unfold State.growShadow
  try dsimp -zeta only [State.fold_ftl]
  repeat' first
    | with_reducible assumption
    | with_reducible exact Does.rfl' _ _
    | (extract_lets +onlyGivenNames X_; refine Does.cut X_ ?_ ?_; (on_goal 2 => (intro _; clear_value X_)); (on_goal 1 => (dsimp -zeta only [X_]; clear X_)))
    | (extract_lets +onlyGivenNames X_; refine Does.cutOf (Prod.fst (α := State)) X_ ?_ ?_; (on_goal 2 => (intro _; clear_value X_)); (on_goal 1 => (dsimp -zeta only [X_]; clear X_)))
    | extract_lets +onlyGivenNames X_
    | with_reducible apply Does.foldl
    | with_reducible apply Does.foldlFst
    | with_reducible apply okField_ite
    | (with_reducible show Nat.testBit _ _ = true; decide)
    | (with_reducible show subMask _ _ = true; decide)
    | (intro _ _ _; beta_reduce)
    | with_reducible apply Does.ite
    | split
    | with_reducible apply Does.upd_ftl
    | apply Does.ite
    | dsimp -zeta only
    | refine Does.sndOf (by assumption) ?_
    | refine Does.fstOf (by assumption) ?_

theorem State.writeUnit_does {μ : Nat} {σ : State} (s : State) (shadow : Bool) (u a : Nat) (l : List MByte) (hμ : subMask 4398600184080 μ = true) (hδ : Does μ σ s) :
    Does μ σ (State.writeUnit s shadow u a l) := by
  refine Does.after (a := 4398600184080) ?_ hμ hδ
  clear hδ hμ
  unfold State.writeUnit
  try dsimp -zeta only [State.fold_ftl]
  repeat' first
    | with_reducible assumption
    | with_reducible exact Does.rfl' _ _
    | (extract_lets +onlyGivenNames X_; refine Does.cut X_ ?_ ?_; (on_goal 2 => (intro _; clear_value X_)); (on_goal 1 => (dsimp -zeta only [X_]; clear X_)))
    | (extract_lets +onlyGivenNames X_; refine Does.cutOf (Prod.fst (α := State)) X_ ?_ ?_; (on_goal 2 => (intro _; clear_value X_)); (on_goal 1 => (dsimp -zeta only [X_]; clear X_)))
    | extract_lets +onlyGivenNames X_
    | with_reducible apply Does.set
    | with_reducible apply Does.addSat
    | with_reducible apply State.flashErr_does
    | with_reducible apply State.growShadow_does
    | with_reducible apply State.raiseFlag_does
    | with_reducible apply State.writeLive_does
    | with_reducible apply State.writeShadow_does
    | with_reducible exact ok_FTL_ERR_COUNT (by decide)
    | with_reducible exact ok_FTL_ERR_NO_SPACE (by decide)
    | with_reducible apply okField_ite
    | (with_reducible show Nat.testBit _ _ = true; decide)
    | (with_reducible show subMask _ _ = true; decide)
    | (intro _ _ _; beta_reduce)
    | with_reducible apply Does.ite
    | split
    | with_reducible apply Does.upd_ftl
    | apply Does.ite
    | dsimp -zeta only
    | refine Does.sndOf (by assumption) ?_
    | refine Does.fstOf (by assumption) ?_
    | (generalize ‹Option _› = w_; split)
    | (generalize ‹List _› = w_; split)

theorem State.writeFlash_does {μ : Nat} {σ : State} (s : State) (shadow : Bool) (a : Nat) (l : List MByte) (hμ : subMask 4398600184080 μ = true) (hδ : Does μ σ s) :
    Does μ σ (State.writeFlash s shadow a l) := by
  refine Does.after (a := 4398600184080) ?_ hμ hδ
  clear hδ hμ
  unfold State.writeFlash
  repeat' first
    | with_reducible assumption
    | with_reducible exact Does.rfl' _ _
    | (extract_lets +onlyGivenNames X_; refine Does.cut X_ ?_ ?_; (on_goal 2 => (intro _; clear_value X_)); (on_goal 1 => (dsimp -zeta only [X_]; clear X_)))
    | (extract_lets +onlyGivenNames X_; refine Does.cutOf (Prod.fst (α := State)) X_ ?_ ?_; (on_goal 2 => (intro _; clear_value X_)); (on_goal 1 => (dsimp -zeta only [X_]; clear X_)))
    | extract_lets +onlyGivenNames X_
    | with_reducible apply State.writeUnit_does
    | with_reducible apply Does.foldl
    | with_reducible apply Does.foldlFst
    | with_reducible apply okField_ite
    | (with_reducible show Nat.testBit _ _ = true; decide)
    | (with_reducible show subMask _ _ = true; decide)
    | (intro _ _ _; beta_reduce)
    | with_reducible apply Does.ite
    | split
    | apply Does.ite
    | dsimp -zeta only
    | refine Does.sndOf (by assumption) ?_
    | refine Does.fstOf (by assumption) ?_

end Sys2Proof.Machine
end

