-- ==== Sys2Proof/Laws/FMem.lean ====
section
/-! SUPPORT. Laws/FMem.lean: what every operation of Machine/Mem.lean leaves alone (see Laws/Frame.lean). -/

set_option linter.unreachableTactic false
set_option linter.unusedTactic false
set_option linter.tactic.unusedName false

namespace Sys2Proof.Machine

theorem State.tierRefuse_does {μ : Nat} {σ : State} (s : State) (why : Refused) (st oa : Nat) (hμ : subMask 536895616 μ = true) (hδ : Does μ σ s) :
    Does μ σ (State.tierRefuse s why st oa) := by
  refine Does.after (a := 536895616) ?_ hμ hδ
  clear hδ hμ
  unfold State.tierRefuse
  repeat' first
    | with_reducible assumption
    | with_reducible exact Does.rfl' _ _
    | (extract_lets +onlyGivenNames X_; refine Does.cut X_ ?_ ?_; (on_goal 2 => (intro _; clear_value X_)); (on_goal 1 => (dsimp -zeta only [X_]; clear X_)))
    | (extract_lets +onlyGivenNames X_; refine Does.cutOf (Prod.fst (α := State)) X_ ?_ ?_; (on_goal 2 => (intro _; clear_value X_)); (on_goal 1 => (dsimp -zeta only [X_]; clear X_)))
    | extract_lets +onlyGivenNames X_
    | with_reducible apply Does.set
    | with_reducible apply Does.bump
    | with_reducible apply State.logEv_does
    | with_reducible exact ok_TIER_ERR_COUNT (by decide)
    | with_reducible exact ok_TIER_ERR_LAST_STATUS (by decide)
    | with_reducible exact ok_TIER_ERR_UNMAPPED (by decide)
    | with_reducible exact ok_TIER_ERR_BIAS_REFUSED (by decide)
    | with_reducible apply okField_ite
    | (with_reducible show Nat.testBit _ _ = true; decide)
    | (with_reducible show subMask _ _ = true; decide)
    | (intro _ _ _; beta_reduce)
    | with_reducible apply Does.ite
    | split
    | apply Does.ite
    | dsimp -zeta only
    | refine Does.sndOf (by assumption) ?_
    | refine Does.fstOf (by assumption) ?_
    | (generalize ‹Option _› = w_; split)
    | (generalize ‹List _› = w_; split)

theorem Got.refuse_does {μ : Nat} {σ : State} (g : Got) (why : Refused) (sp : Nat × Nat × Nat) (hμ : subMask 545284224 μ = true) (hδ : Does μ σ g.st) :
    Does μ σ ((Got.refuse g why sp).st) := by
  refine Does.after (a := 545284224) ?_ hμ hδ
  clear hδ hμ
  unfold Got.refuse
  repeat' first
    | with_reducible assumption
    | with_reducible exact Does.rfl' _ _
    | (extract_lets +onlyGivenNames X_; refine Does.cut X_ ?_ ?_; (on_goal 2 => (intro _; clear_value X_)); (on_goal 1 => (dsimp -zeta only [X_]; clear X_)))
    | (extract_lets +onlyGivenNames X_; refine Does.cutOf (Prod.fst (α := State)) X_ ?_ ?_; (on_goal 2 => (intro _; clear_value X_)); (on_goal 1 => (dsimp -zeta only [X_]; clear X_)))
    | (extract_lets +onlyGivenNames X_; refine Does.cutOf Got.st X_ ?_ ?_; (on_goal 2 => (intro _; clear_value X_)); (on_goal 1 => (dsimp -zeta only [X_]; clear X_)))
    | (extract_lets +onlyGivenNames X_; refine Does.cutOf (fun x => Got.st (Prod.fst x)) X_ ?_ ?_; (on_goal 2 => (intro _; clear_value X_)); (on_goal 1 => (dsimp -zeta only [X_]; clear X_)))
    | extract_lets +onlyGivenNames X_
    | with_reducible apply State.freeBytes_does
    | with_reducible apply State.tierRefuse_does
    | with_reducible apply okField_ite
    | (with_reducible show Nat.testBit _ _ = true; decide)
    | (with_reducible show subMask _ _ = true; decide)
    | (intro _ _ _; beta_reduce)
    | with_reducible apply Does.ite
    | split
    | apply Does.ite
    | dsimp -zeta only
    | refine Does.sndOf (by assumption) ?_
    | refine Does.fstOf (by assumption) ?_

theorem State.countPage_does {μ : Nat} {σ : State} (s : State) (page : Nat) (cls : Nat) (hμ : subMask 274877906944 μ = true) (hδ : Does μ σ s) :
    Does μ σ (State.countPage s page cls) := by
  refine Does.after (a := 274877906944) ?_ hμ hδ
  clear hδ hμ
  unfold State.countPage
  try dsimp -zeta only [State.fold_tier]
  repeat' first
    | with_reducible assumption
    | with_reducible exact Does.rfl' _ _
    | (extract_lets +onlyGivenNames X_; refine Does.cut X_ ?_ ?_; (on_goal 2 => (intro _; clear_value X_)); (on_goal 1 => (dsimp -zeta only [X_]; clear X_)))
    | (extract_lets +onlyGivenNames X_; refine Does.cutOf (Prod.fst (α := State)) X_ ?_ ?_; (on_goal 2 => (intro _; clear_value X_)); (on_goal 1 => (dsimp -zeta only [X_]; clear X_)))
    | extract_lets +onlyGivenNames X_
    | with_reducible apply okField_ite
    | (with_reducible show Nat.testBit _ _ = true; decide)
    | (with_reducible show subMask _ _ = true; decide)
    | (intro _ _ _; beta_reduce)
    | with_reducible apply Does.ite
    | split
    | with_reducible apply Does.upd_tier
    | apply Does.ite
    | dsimp -zeta only
    | refine Does.sndOf (by assumption) ?_
    | refine Does.fstOf (by assumption) ?_

theorem State.readSpan_does {μ : Nat} {σ : State} (w : Who) (g : Got) (sp : Nat × Nat × Nat) (hμ : subMask 275423191168 μ = true) (hδ : Does μ σ g.st) :
    Does μ σ ((State.readSpan w g sp).st) := by
  refine Does.after (a := 275423191168) ?_ hμ hδ
  clear hδ hμ
  unfold State.readSpan
  repeat' first
    | with_reducible assumption
    | with_reducible exact Does.rfl' _ _
    | (extract_lets +onlyGivenNames X_; refine Does.cut X_ ?_ ?_; (on_goal 2 => (intro _; clear_value X_)); (on_goal 1 => (dsimp -zeta only [X_]; clear X_)))
    | (extract_lets +onlyGivenNames X_; refine Does.cutOf (Prod.fst (α := State)) X_ ?_ ?_; (on_goal 2 => (intro _; clear_value X_)); (on_goal 1 => (dsimp -zeta only [X_]; clear X_)))
    | (extract_lets +onlyGivenNames X_; refine Does.cutOf Got.st X_ ?_ ?_; (on_goal 2 => (intro _; clear_value X_)); (on_goal 1 => (dsimp -zeta only [X_]; clear X_)))
    | (extract_lets +onlyGivenNames X_; refine Does.cutOf (fun x => Got.st (Prod.fst x)) X_ ?_ ?_; (on_goal 2 => (intro _; clear_value X_)); (on_goal 1 => (dsimp -zeta only [X_]; clear X_)))
    | extract_lets +onlyGivenNames X_
    | with_reducible apply Got.refuse_does
    | with_reducible apply State.countPage_does
    | with_reducible apply State.refuse_does
    | with_reducible apply okField_ite
    | (with_reducible show Nat.testBit _ _ = true; decide)
    | (with_reducible show subMask _ _ = true; decide)
    | (intro _ _ _; beta_reduce)
    | with_reducible apply Does.ite
    | split
    | apply Does.ite
    | dsimp -zeta only
    | refine Does.sndOf (by assumption) ?_
    | refine Does.fstOf (by assumption) ?_
    | (generalize ‹Option _› = w_; split)
    | (generalize ‹List _› = w_; split)

theorem State.readOA_does {μ : Nat} {σ : State} (s : State) (w : Who) (oa n : Nat) (hμ : subMask 275423191168 μ = true) (hδ : Does μ σ s) :
    Does μ σ ((State.readOA s w oa n).st) := by
  refine Does.after (a := 275423191168) ?_ hμ hδ
  clear hδ hμ
  unfold State.readOA
  repeat' first
    | with_reducible assumption
    | with_reducible exact Does.rfl' _ _
    | (extract_lets +onlyGivenNames X_; refine Does.cut X_ ?_ ?_; (on_goal 2 => (intro _; clear_value X_)); (on_goal 1 => (dsimp -zeta only [X_]; clear X_)))
    | (extract_lets +onlyGivenNames X_; refine Does.cutOf (Prod.fst (α := State)) X_ ?_ ?_; (on_goal 2 => (intro _; clear_value X_)); (on_goal 1 => (dsimp -zeta only [X_]; clear X_)))
    | (extract_lets +onlyGivenNames X_; refine Does.cutOf Got.st X_ ?_ ?_; (on_goal 2 => (intro _; clear_value X_)); (on_goal 1 => (dsimp -zeta only [X_]; clear X_)))
    | (extract_lets +onlyGivenNames X_; refine Does.cutOf (fun x => Got.st (Prod.fst x)) X_ ?_ ?_; (on_goal 2 => (intro _; clear_value X_)); (on_goal 1 => (dsimp -zeta only [X_]; clear X_)))
    | extract_lets +onlyGivenNames X_
    | with_reducible apply State.readSpan_does
    | with_reducible apply Does.foldl
    | with_reducible apply Does.foldlOf Got.st
    | with_reducible apply Does.foldlOf (fun x => Got.st (Prod.fst x))
    | with_reducible apply Does.foldlFst
    | with_reducible apply okField_ite
    | (with_reducible show Nat.testBit _ _ = true; decide)
    | (with_reducible show subMask _ _ = true; decide)
    | (intro _ _ _; beta_reduce)
    | with_reducible apply Does.ite
    | split
    | apply Does.ite
    | dsimp -zeta only
    | refine Does.sndOf (by assumption) ?_
    | refine Does.fstOf (by assumption) ?_

theorem State.setDirty_does {μ : Nat} {σ : State} (s : State) (page : Nat) (hμ : subMask 274877906944 μ = true) (hδ : Does μ σ s) :
    Does μ σ (State.setDirty s page) := by
  refine Does.after (a := 274877906944) ?_ hμ hδ
  clear hδ hμ
  unfold State.setDirty
  try dsimp -zeta only [State.fold_tier]
  repeat' first
    | with_reducible assumption
    | with_reducible exact Does.rfl' _ _
    | (extract_lets +onlyGivenNames X_; refine Does.cut X_ ?_ ?_; (on_goal 2 => (intro _; clear_value X_)); (on_goal 1 => (dsimp -zeta only [X_]; clear X_)))
    | (extract_lets +onlyGivenNames X_; refine Does.cutOf (Prod.fst (α := State)) X_ ?_ ?_; (on_goal 2 => (intro _; clear_value X_)); (on_goal 1 => (dsimp -zeta only [X_]; clear X_)))
    | extract_lets +onlyGivenNames X_
    | with_reducible apply okField_ite
    | (with_reducible show Nat.testBit _ _ = true; decide)
    | (with_reducible show subMask _ _ = true; decide)
    | (intro _ _ _; beta_reduce)
    | with_reducible apply Does.ite
    | split
    | with_reducible apply Does.upd_tier
    | apply Does.ite
    | dsimp -zeta only
    | refine Does.sndOf (by assumption) ?_
    | refine Does.fstOf (by assumption) ?_

theorem State.clearLost_does {μ : Nat} {σ : State} (s : State) (da n : Nat) (hμ : subMask 17179877376 μ = true) (hδ : Does μ σ s) :
    Does μ σ (State.clearLost s da n) := by
  refine Does.after (a := 17179877376) ?_ hμ hδ
  clear hδ hμ
  unfold State.clearLost
  try dsimp -zeta only [State.fold_fault]
  repeat' first
    | with_reducible assumption
    | with_reducible exact Does.rfl' _ _
    | (extract_lets +onlyGivenNames X_; refine Does.cut X_ ?_ ?_; (on_goal 2 => (intro _; clear_value X_)); (on_goal 1 => (dsimp -zeta only [X_]; clear X_)))
    | (extract_lets +onlyGivenNames X_; refine Does.cutOf (Prod.fst (α := State)) X_ ?_ ?_; (on_goal 2 => (intro _; clear_value X_)); (on_goal 1 => (dsimp -zeta only [X_]; clear X_)))
    | extract_lets +onlyGivenNames X_
    | with_reducible apply Does.set
    | with_reducible apply Does.forEach
    | with_reducible exact ok_FAULT_MARKS_LOST_GRANULES (by decide)
    | with_reducible apply okField_ite
    | (with_reducible show Nat.testBit _ _ = true; decide)
    | (with_reducible show subMask _ _ = true; decide)
    | (intro _ _ _; beta_reduce)
    | with_reducible apply Does.ite
    | split
    | with_reducible apply Does.upd_fault
    | apply Does.ite
    | dsimp -zeta only
    | refine Does.sndOf (by assumption) ?_
    | refine Does.fstOf (by assumption) ?_

theorem State.setByte_does {m : Nat} {s₀ : State} (s : State) (da : Nat) (b : Byte) (hm : subMask 1048576 m = true) (h : Does m s₀ s) :
    Does m s₀ (s.setByte da b) :=
  Does.upd_mem s _ (fun k => SMap.wf_put _ _ _ _ k) hm h

theorem State.setBytes_does {m : Nat} {s₀ : State} (s : State) (da : Nat) (l : List Byte) (hm : subMask 1048576 m = true) (h : Does m s₀ s) :
    Does m s₀ (s.setBytes da l) := by
  induction l generalizing s da with
  | nil => exact h
  | cons b t ih => exact ih _ _ (State.setByte_does s da b hm h)

theorem State.settleLive_does {μ : Nat} {σ : State} (s : State) (hμ : subMask 17179877376 μ = true) (hδ : Does μ σ s) :
    Does μ σ (State.settleLive s) := by
  refine Does.after (a := 17179877376) ?_ hμ hδ
  clear hδ hμ
  unfold State.settleLive
  try dsimp -zeta only [State.fold_fault]
  repeat' first
    | with_reducible assumption
    | with_reducible exact Does.rfl' _ _
    | (extract_lets +onlyGivenNames X_; refine Does.cut X_ ?_ ?_; (on_goal 2 => (intro _; clear_value X_)); (on_goal 1 => (dsimp -zeta only [X_]; clear X_)))
    | (extract_lets +onlyGivenNames X_; refine Does.cutOf (Prod.fst (α := State)) X_ ?_ ?_; (on_goal 2 => (intro _; clear_value X_)); (on_goal 1 => (dsimp -zeta only [X_]; clear X_)))
    | extract_lets +onlyGivenNames X_
    | with_reducible apply Does.set
    | with_reducible exact ok_FAULT_MARKS_LIVE_GRANULES (by decide)
    | with_reducible apply okField_ite
    | (with_reducible show Nat.testBit _ _ = true; decide)
    | (with_reducible show subMask _ _ = true; decide)
    | (intro _ _ _; beta_reduce)
    | with_reducible apply Does.ite
    | split
    | with_reducible apply Does.upd_fault
    | apply Does.ite
    | dsimp -zeta only
    | refine Does.sndOf (by assumption) ?_
    | refine Does.fstOf (by assumption) ?_

theorem State.writeMem_does {μ : Nat} {σ : State} (s : State) (da : Nat) (l : List MByte) (hμ : subMask 17183023104 μ = true) (hδ : Does μ σ s) :
    Does μ σ (State.writeMem s da l) := by
  refine Does.after (a := 17183023104) ?_ hμ hδ
  clear hδ hμ
  unfold State.writeMem
  try dsimp -zeta only [State.fold_marks]
  repeat' first
    | with_reducible assumption
    | with_reducible exact Does.rfl' _ _
    | (extract_lets +onlyGivenNames X_; refine Does.cut X_ ?_ ?_; (on_goal 2 => (intro _; clear_value X_)); (on_goal 1 => (dsimp -zeta only [X_]; clear X_)))
    | (extract_lets +onlyGivenNames X_; refine Does.cutOf (Prod.fst (α := State)) X_ ?_ ?_; (on_goal 2 => (intro _; clear_value X_)); (on_goal 1 => (dsimp -zeta only [X_]; clear X_)))
    | extract_lets +onlyGivenNames X_
    | with_reducible apply State.clearLost_does
    | with_reducible apply State.setBytes_does
    | with_reducible apply State.settleLive_does
    | with_reducible apply Does.foldl
    | with_reducible apply Does.foldlFst
    | with_reducible apply okField_ite
    | (with_reducible show Nat.testBit _ _ = true; decide)
    | (with_reducible show subMask _ _ = true; decide)
    | (intro _ _ _; beta_reduce)
    | with_reducible apply Does.ite
    | split
    | with_reducible apply Does.upd_marks
    | apply Does.ite
    | dsimp -zeta only
    | refine Does.sndOf (by assumption) ?_
    | refine Does.fstOf (by assumption) ?_

theorem State.postBus_does {μ : Nat} {σ : State} (s : State) (addr : Nat) (l : List MByte) (hμ : subMask 2233387188224 μ = true) (hδ : Does μ σ s) :
    Does μ σ (State.postBus s addr l) := by
  refine Does.after (a := 2233387188224) ?_ hμ hδ
  clear hδ hμ
  unfold State.postBus
  repeat' first
    | with_reducible assumption
    | with_reducible exact Does.rfl' _ _
    | (extract_lets +onlyGivenNames X_; refine Does.cut X_ ?_ ?_; (on_goal 2 => (intro _; clear_value X_)); (on_goal 1 => (dsimp -zeta only [X_]; clear X_)))
    | (extract_lets +onlyGivenNames X_; refine Does.cutOf (Prod.fst (α := State)) X_ ?_ ?_; (on_goal 2 => (intro _; clear_value X_)); (on_goal 1 => (dsimp -zeta only [X_]; clear X_)))
    | extract_lets +onlyGivenNames X_
    | with_reducible apply State.emitHost_does
    | with_reducible apply State.take_does
    | with_reducible apply Does.foldl
    | with_reducible apply Does.foldlFst
    | with_reducible apply okField_ite
    | (with_reducible show Nat.testBit _ _ = true; decide)
    | (with_reducible show subMask _ _ = true; decide)
    | (intro _ _ _; beta_reduce)
    | with_reducible apply Does.ite
    | split
    | apply Does.ite
    | dsimp -zeta only
    | refine Does.sndOf (by assumption) ?_
    | refine Does.fstOf (by assumption) ?_

theorem State.writeSpan_does {μ : Nat} {σ : State} (w : Who) (own : Nat) (g : Got) (sp : Nat × Nat × Nat) (hμ : subMask 6924048294288 μ = true) (hδ : Does μ σ g.st) :
    Does μ σ ((State.writeSpan w own g sp).st) := by
  refine Does.after (a := 6924048294288) ?_ hμ hδ
  clear hδ hμ
  unfold State.writeSpan
  repeat' first
    | with_reducible assumption
    | with_reducible exact Does.rfl' _ _
    | (extract_lets +onlyGivenNames X_; refine Does.cut X_ ?_ ?_; (on_goal 2 => (intro _; clear_value X_)); (on_goal 1 => (dsimp -zeta only [X_]; clear X_)))
    | (extract_lets +onlyGivenNames X_; refine Does.cutOf (Prod.fst (α := State)) X_ ?_ ?_; (on_goal 2 => (intro _; clear_value X_)); (on_goal 1 => (dsimp -zeta only [X_]; clear X_)))
    | (extract_lets +onlyGivenNames X_; refine Does.cutOf Got.st X_ ?_ ?_; (on_goal 2 => (intro _; clear_value X_)); (on_goal 1 => (dsimp -zeta only [X_]; clear X_)))
    | (extract_lets +onlyGivenNames X_; refine Does.cutOf (fun x => Got.st (Prod.fst x)) X_ ?_ ?_; (on_goal 2 => (intro _; clear_value X_)); (on_goal 1 => (dsimp -zeta only [X_]; clear X_)))
    | extract_lets +onlyGivenNames X_
    | with_reducible apply Does.set
    | with_reducible apply Does.bump
    | with_reducible apply State.countPage_does
    | with_reducible apply State.logEv_does
    | with_reducible apply State.postBus_does
    | with_reducible apply State.setDirty_does
    | with_reducible apply State.tierRefuse_does
    | with_reducible apply State.writeFlash_does
    | with_reducible apply State.writeMem_does
    | with_reducible exact ok_TIER_ERR_COUNT (by decide)
    | with_reducible exact ok_TIER_ERR_LAST_STATUS (by decide)
    | with_reducible apply okField_ite
    | (with_reducible show Nat.testBit _ _ = true; decide)
    | (with_reducible show subMask _ _ = true; decide)
    | (intro _ _ _; beta_reduce)
    | with_reducible apply Does.ite
    | split
    | apply Does.ite
    | dsimp -zeta only
    | refine Does.sndOf (by assumption) ?_
    | refine Does.fstOf (by assumption) ?_
    | (generalize ‹Option _› = w_; split)
    | (generalize ‹List _› = w_; split)

theorem State.writeOA_does {μ : Nat} {σ : State} (s : State) (w : Who) (own oa : Nat) (l : List MByte) (hμ : subMask 6924048294288 μ = true) (hδ : Does μ σ s) :
    Does μ σ ((State.writeOA s w own oa l).st) := by
  refine Does.after (a := 6924048294288) ?_ hμ hδ
  clear hδ hμ
  unfold State.writeOA
  repeat' first
    | with_reducible assumption
    | with_reducible exact Does.rfl' _ _
    | (extract_lets +onlyGivenNames X_; refine Does.cut X_ ?_ ?_; (on_goal 2 => (intro _; clear_value X_)); (on_goal 1 => (dsimp -zeta only [X_]; clear X_)))
    | (extract_lets +onlyGivenNames X_; refine Does.cutOf (Prod.fst (α := State)) X_ ?_ ?_; (on_goal 2 => (intro _; clear_value X_)); (on_goal 1 => (dsimp -zeta only [X_]; clear X_)))
    | (extract_lets +onlyGivenNames X_; refine Does.cutOf Got.st X_ ?_ ?_; (on_goal 2 => (intro _; clear_value X_)); (on_goal 1 => (dsimp -zeta only [X_]; clear X_)))
    | (extract_lets +onlyGivenNames X_; refine Does.cutOf (fun x => Got.st (Prod.fst x)) X_ ?_ ?_; (on_goal 2 => (intro _; clear_value X_)); (on_goal 1 => (dsimp -zeta only [X_]; clear X_)))
    | extract_lets +onlyGivenNames X_
    | with_reducible apply State.writeSpan_does
    | with_reducible apply Does.foldl
    | with_reducible apply Does.foldlOf Got.st
    | with_reducible apply Does.foldlOf (fun x => Got.st (Prod.fst x))
    | with_reducible apply Does.foldlFst
    | with_reducible apply okField_ite
    | (with_reducible show Nat.testBit _ _ = true; decide)
    | (with_reducible show subMask _ _ = true; decide)
    | (intro _ _ _; beta_reduce)
    | with_reducible apply Does.ite
    | split
    | apply Does.ite
    | dsimp -zeta only
    | refine Does.sndOf (by assumption) ?_
    | refine Does.fstOf (by assumption) ?_

theorem State.setSem_does {μ : Nat} {σ : State} (s : State) (oa v : Nat) (hμ : subMask 17719910528 μ = true) (hδ : Does μ σ s) :
    Does μ σ (State.setSem s oa v) := by
  refine Does.after (a := 17719910528) ?_ hμ hδ
  clear hδ hμ
  unfold State.setSem
  repeat' first
    | with_reducible assumption
    | with_reducible exact Does.rfl' _ _
    | (extract_lets +onlyGivenNames X_; refine Does.cut X_ ?_ ?_; (on_goal 2 => (intro _; clear_value X_)); (on_goal 1 => (dsimp -zeta only [X_]; clear X_)))
    | (extract_lets +onlyGivenNames X_; refine Does.cutOf (Prod.fst (α := State)) X_ ?_ ?_; (on_goal 2 => (intro _; clear_value X_)); (on_goal 1 => (dsimp -zeta only [X_]; clear X_)))
    | extract_lets +onlyGivenNames X_
    | with_reducible apply State.tierRefuse_does
    | with_reducible apply State.writeMem_does
    | with_reducible apply okField_ite
    | (with_reducible show Nat.testBit _ _ = true; decide)
    | (with_reducible show subMask _ _ = true; decide)
    | (intro _ _ _; beta_reduce)
    | with_reducible apply Does.ite
    | split
    | apply Does.ite
    | dsimp -zeta only
    | refine Does.sndOf (by assumption) ?_
    | refine Does.fstOf (by assumption) ?_
    | (generalize ‹Option _› = w_; split)
    | (generalize ‹List _› = w_; split)

theorem State.addSem_does {μ : Nat} {σ : State} (s : State) (oa v : Nat) (hμ : subMask 17719910528 μ = true) (hδ : Does μ σ s) :
    Does μ σ (State.addSem s oa v) := by
  refine Does.after (a := 17719910528) ?_ hμ hδ
  clear hδ hμ
  unfold State.addSem
  repeat' first
    | with_reducible assumption
    | with_reducible exact Does.rfl' _ _
    | (extract_lets +onlyGivenNames X_; refine Does.cut X_ ?_ ?_; (on_goal 2 => (intro _; clear_value X_)); (on_goal 1 => (dsimp -zeta only [X_]; clear X_)))
    | (extract_lets +onlyGivenNames X_; refine Does.cutOf (Prod.fst (α := State)) X_ ?_ ?_; (on_goal 2 => (intro _; clear_value X_)); (on_goal 1 => (dsimp -zeta only [X_]; clear X_)))
    | extract_lets +onlyGivenNames X_
    | with_reducible apply State.setSem_does
    | with_reducible apply okField_ite
    | (with_reducible show Nat.testBit _ _ = true; decide)
    | (with_reducible show subMask _ _ = true; decide)
    | (intro _ _ _; beta_reduce)
    | with_reducible apply Does.ite
    | split
    | apply Does.ite
    | dsimp -zeta only
    | refine Does.sndOf (by assumption) ?_
    | refine Does.fstOf (by assumption) ?_

theorem State.dropPage_does {μ : Nat} {σ : State} (s : State) (page : Nat) (hμ : subMask 1048576 μ = true) (hδ : Does μ σ s) :
    Does μ σ (State.dropPage s page) := by
  have e : (fun (c : Host.Cell) => c.1 / 2 ^ 21 != page) = fun (c : Host.Cell) => (fun a : Nat => a / 2 ^ 21 != page) c.1 := rfl
  unfold State.dropPage
  rw [e]
  refine Does.upd_pages s (fun a => a / 2 ^ 21 != page) s.lostHbm (if s.hbmKept.contains page then s.hbmKept else page :: s.hbmKept) ?_ hμ hδ
  intro a ha
  have hn : a / 2 ^ 21 ≠ page := by simpa using ha
  unfold State.dflt
  cases s.lostHbm with
  | none => rfl
  | some k =>
    dsimp only
    have hc : (if s.hbmKept.contains page then s.hbmKept else page :: s.hbmKept).contains (a / 2 ^ 21) = s.hbmKept.contains (a / 2 ^ 21) := by
      split
      · rfl
      · have hn' : (a / 2 ^ 21 == page) = false := beq_eq_false_iff_ne.mpr hn
        rw [List.contains_cons, hn', Bool.false_or]
    rw [hc]

theorem State.zeroRange_does {μ : Nat} {σ : State} (s : State) (da n : Nat) (hμ : subMask 3145728 μ = true) (hδ : Does μ σ s) :
    Does μ σ (State.zeroRange s da n) := by
  refine Does.after (a := 3145728) ?_ hμ hδ
  clear hδ hμ
  unfold State.zeroRange
  repeat' first
    | (extract_lets +onlyGivenNames X_; refine Does.cut X_ ?_ ?_; (on_goal 2 => (intro _; clear_value X_)); (on_goal 1 => (dsimp -zeta only [X_]; clear X_)))
    | (extract_lets +onlyGivenNames X_; refine Does.cutOf (Prod.fst (α := State)) X_ ?_ ?_; (on_goal 2 => (intro _; clear_value X_)); (on_goal 1 => (dsimp -zeta only [X_]; clear X_)))
    | extract_lets +onlyGivenNames X_
    | with_reducible assumption
    | with_reducible exact Does.rfl' _ _
    | with_reducible apply State.setBytes_does
    | with_reducible apply okField_ite
    | (with_reducible show Nat.testBit _ _ = true; decide)
    | (with_reducible show subMask _ _ = true; decide)
    | (intro _ _ _; beta_reduce)
    | with_reducible apply Does.ite
    | split
    | (with_reducible apply Does.upd_mem_marks)
    | exact fun k => SMap.wf_filter _ _ _ k
    | apply Does.ite

end Sys2Proof.Machine
end

