-- ==== Sys2Proof/Laws/FStreamBase.lean ====
section
/-! SUPPORT. Laws/FStreamBase.lean: what every operation of Machine/StreamBase.lean leaves alone (see Laws/Frame.lean). -/

set_option linter.unreachableTactic false
set_option linter.unusedTactic false
set_option linter.tactic.unusedName false

namespace Sys2Proof.Machine

theorem State.strStatus_does {μ : Nat} {σ : State} (s : State) (n st : Nat) (hμ : subMask 32 μ = true) (hδ : Does μ σ s) :
    Does μ σ (State.strStatus s n st) := by
  refine Does.after (a := 32) ?_ hμ hδ
  clear hδ hμ
  unfold State.strStatus
  repeat' first
    | with_reducible assumption
    | with_reducible exact Does.rfl' _ _
    | (extract_lets +onlyGivenNames X_; refine Does.cut X_ ?_ ?_; (on_goal 2 => (intro _; clear_value X_)); (on_goal 1 => (dsimp -zeta only [X_]; clear X_)))
    | (extract_lets +onlyGivenNames X_; refine Does.cutOf (Prod.fst (α := State)) X_ ?_ ?_; (on_goal 2 => (intro _; clear_value X_)); (on_goal 1 => (dsimp -zeta only [X_]; clear X_)))
    | extract_lets +onlyGivenNames X_
    | with_reducible apply Does.set
    | with_reducible exact ok_STREAM_RUN_STATUS _ (by decide)
    | with_reducible apply okField_ite
    | (with_reducible show Nat.testBit _ _ = true; decide)
    | (with_reducible show subMask _ _ = true; decide)
    | (intro _ _ _; beta_reduce)
    | with_reducible apply Does.ite
    | split
    | apply Does.ite
    | dsimp -zeta only
    | refine Does.sndOf (by assumption) ?_
    | refine Does.fstOf (by assumption) ?_

theorem State.setSst_does {μ : Nat} {σ : State} (s : State) (n st wait : Nat) (hμ : subMask 32 μ = true) (hδ : Does μ σ s) :
    Does μ σ (State.setSst s n st wait) := by
  refine Does.after (a := 32) ?_ hμ hδ
  clear hδ hμ
  unfold State.setSst
  repeat' first
    | with_reducible assumption
    | with_reducible exact Does.rfl' _ _
    | (extract_lets +onlyGivenNames X_; refine Does.cut X_ ?_ ?_; (on_goal 2 => (intro _; clear_value X_)); (on_goal 1 => (dsimp -zeta only [X_]; clear X_)))
    | (extract_lets +onlyGivenNames X_; refine Does.cutOf (Prod.fst (α := State)) X_ ?_ ?_; (on_goal 2 => (intro _; clear_value X_)); (on_goal 1 => (dsimp -zeta only [X_]; clear X_)))
    | extract_lets +onlyGivenNames X_
    | with_reducible apply Does.set
    | with_reducible exact ok_STREAM_RUN_STATE _ (by decide)
    | with_reducible exact ok_STREAM_RUN_WAIT _ (by decide)
    | with_reducible apply okField_ite
    | (with_reducible show Nat.testBit _ _ = true; decide)
    | (with_reducible show subMask _ _ = true; decide)
    | (intro _ _ _; beta_reduce)
    | with_reducible apply Does.ite
    | split
    | apply Does.ite
    | dsimp -zeta only
    | refine Does.sndOf (by assumption) ?_
    | refine Does.fstOf (by assumption) ?_

theorem State.invalidate_does {μ : Nat} {σ : State} (s : State) (ls : List Nat) (hμ : subMask 274882101248 μ = true) (hδ : Does μ σ s) :
    Does μ σ (State.invalidate s ls) := by
  refine Does.after (a := 274882101248) ?_ hμ hδ
  clear hδ hμ
  unfold State.invalidate
  try dsimp -zeta only [State.fold_sent_tier]
  repeat' first
    | with_reducible assumption
    | with_reducible exact Does.rfl' _ _
    | (extract_lets +onlyGivenNames X_; refine Does.cut X_ ?_ ?_; (on_goal 2 => (intro _; clear_value X_)); (on_goal 1 => (dsimp -zeta only [X_]; clear X_)))
    | (extract_lets +onlyGivenNames X_; refine Does.cutOf (Prod.fst (α := State)) X_ ?_ ?_; (on_goal 2 => (intro _; clear_value X_)); (on_goal 1 => (dsimp -zeta only [X_]; clear X_)))
    | extract_lets +onlyGivenNames X_
    | with_reducible apply okField_ite
    | (with_reducible show Nat.testBit _ _ = true; decide)
    | (with_reducible show subMask _ _ = true; decide)
    | (intro _ _ _; beta_reduce)
    | with_reducible apply Does.ite
    | split
    | with_reducible apply Does.upd_sent_tier
    | apply Does.ite
    | dsimp -zeta only
    | refine Does.sndOf (by assumption) ?_
    | refine Does.fstOf (by assumption) ?_

end Sys2Proof.Machine
end

