-- ==== Sys2Proof/Laws/FTime.lean ====
section
/-! SUPPORT. Laws/FTime.lean: what every operation of Machine/Time.lean leaves alone (see Laws/Frame.lean). -/

set_option linter.unreachableTactic false
set_option linter.unusedTactic false
set_option linter.tactic.unusedName false

namespace Sys2Proof.Machine

theorem State.countIdle_does {μ : Nat} {σ : State} (s : State) (d : Nat) (hμ : subMask 67108864 μ = true) (hδ : Does μ σ s) :
    Does μ σ (State.countIdle s d) := by
  refine Does.after (a := 67108864) ?_ hμ hδ
  clear hδ hμ
  unfold State.countIdle
  try dsimp -zeta only [State.fold_idleRun_idleStep]
  repeat' first
    | with_reducible assumption
    | with_reducible exact Does.rfl' _ _
    | (extract_lets +onlyGivenNames X_; refine Does.cut X_ ?_ ?_; (on_goal 2 => (intro _; clear_value X_)); (on_goal 1 => (dsimp -zeta only [X_]; clear X_)))
    | (extract_lets +onlyGivenNames X_; refine Does.cutOf (Prod.fst (α := State)) X_ ?_ ?_; (on_goal 2 => (intro _; clear_value X_)); (on_goal 1 => (dsimp -zeta only [X_]; clear X_)))
    | extract_lets +onlyGivenNames X_
    | with_reducible apply okField_ite
    | (with_reducible show Nat.testBit _ _ = true; decide)
    | (with_reducible show subMask _ _ = true; decide)
    | (intro _ _ _; beta_reduce)
    | with_reducible apply Does.ite
    | split
    | with_reducible apply Does.upd_idleRun_idleStep
    | apply Does.ite
    | dsimp -zeta only
    | refine Does.sndOf (by assumption) ?_
    | refine Does.fstOf (by assumption) ?_
    | (generalize ‹Option _› = w_; split)
    | (generalize ‹List _› = w_; split)

theorem State.passTo_does {μ : Nat} {σ : State} (s : State) (t : Nat) (hμ : subMask 67633152 μ = true) (hδ : Does μ σ s) :
    Does μ σ (State.passTo s t) := by
  refine Does.after (a := 67633152) ?_ hμ hδ
  clear hδ hμ
  unfold State.passTo
  try dsimp -zeta only [State.fold_row]
  repeat' first
    | with_reducible assumption
    | with_reducible exact Does.rfl' _ _
    | (extract_lets +onlyGivenNames X_; refine Does.cut X_ ?_ ?_; (on_goal 2 => (intro _; clear_value X_)); (on_goal 1 => (dsimp -zeta only [X_]; clear X_)))
    | (extract_lets +onlyGivenNames X_; refine Does.cutOf (Prod.fst (α := State)) X_ ?_ ?_; (on_goal 2 => (intro _; clear_value X_)); (on_goal 1 => (dsimp -zeta only [X_]; clear X_)))
    | extract_lets +onlyGivenNames X_
    | with_reducible apply State.countIdle_does
    | with_reducible apply okField_ite
    | (with_reducible show Nat.testBit _ _ = true; decide)
    | (with_reducible show subMask _ _ = true; decide)
    | (intro _ _ _; beta_reduce)
    | with_reducible apply Does.ite
    | split
    | with_reducible apply Does.upd_row
    | apply Does.ite
    | dsimp -zeta only
    | refine Does.sndOf (by assumption) ?_
    | refine Does.fstOf (by assumption) ?_

theorem State.enterReserve_does {μ : Nat} {σ : State} (s : State) (hμ : subMask 16 μ = true) (hδ : Does μ σ s) :
    Does μ σ (State.enterReserve s) := by
  refine Does.after (a := 16) ?_ hμ hδ
  clear hδ hμ
  unfold State.enterReserve
  repeat' first
    | with_reducible assumption
    | with_reducible exact Does.rfl' _ _
    | (extract_lets +onlyGivenNames X_; refine Does.cut X_ ?_ ?_; (on_goal 2 => (intro _; clear_value X_)); (on_goal 1 => (dsimp -zeta only [X_]; clear X_)))
    | (extract_lets +onlyGivenNames X_; refine Does.cutOf (Prod.fst (α := State)) X_ ?_ ?_; (on_goal 2 => (intro _; clear_value X_)); (on_goal 1 => (dsimp -zeta only [X_]; clear X_)))
    | extract_lets +onlyGivenNames X_
    | with_reducible apply Does.setPhase
    | with_reducible apply Does.set
    | with_reducible apply okField_ite
    | (with_reducible show Nat.testBit _ _ = true; decide)
    | (with_reducible show subMask _ _ = true; decide)
    | (with_reducible show _ ≤ 9; decide)
    | (intro _ _ _; beta_reduce)
    | with_reducible apply Does.ite
    | split
    | apply Does.ite
    | dsimp -zeta only
    | refine Does.sndOf (by assumption) ?_
    | refine Does.fstOf (by assumption) ?_

theorem State.advance_does {μ : Nat} {σ : State} (s : State) (t : Nat) (hμ : subMask 67633168 μ = true) (hδ : Does μ σ s) :
    Does μ σ (State.advance s t) := by
  refine Does.after (a := 67633168) ?_ hμ hδ
  clear hδ hμ
  unfold State.advance
  repeat' first
    | with_reducible assumption
    | with_reducible exact Does.rfl' _ _
    | (extract_lets +onlyGivenNames X_; refine Does.cut X_ ?_ ?_; (on_goal 2 => (intro _; clear_value X_)); (on_goal 1 => (dsimp -zeta only [X_]; clear X_)))
    | (extract_lets +onlyGivenNames X_; refine Does.cutOf (Prod.fst (α := State)) X_ ?_ ?_; (on_goal 2 => (intro _; clear_value X_)); (on_goal 1 => (dsimp -zeta only [X_]; clear X_)))
    | extract_lets +onlyGivenNames X_
    | with_reducible apply State.enterReserve_does
    | with_reducible apply State.passTo_does
    | with_reducible apply okField_ite
    | (with_reducible show Nat.testBit _ _ = true; decide)
    | (with_reducible show subMask _ _ = true; decide)
    | (intro _ _ _; beta_reduce)
    | with_reducible apply Does.ite
    | split
    | apply Does.ite
    | dsimp -zeta only
    | refine Does.sndOf (by assumption) ?_
    | refine Does.fstOf (by assumption) ?_

theorem State.flushIdle_does {μ : Nat} {σ : State} (s : State) (hμ : subMask 67174400 μ = true) (hδ : Does μ σ s) :
    Does μ σ (State.flushIdle s) := by
  refine Does.after (a := 67174400) ?_ hμ hδ
  clear hδ hμ
  unfold State.flushIdle
  try dsimp -zeta only [State.fold_idleRun]
  repeat' first
    | with_reducible assumption
    | with_reducible exact Does.rfl' _ _
    | (extract_lets +onlyGivenNames X_; refine Does.cut X_ ?_ ?_; (on_goal 2 => (intro _; clear_value X_)); (on_goal 1 => (dsimp -zeta only [X_]; clear X_)))
    | (extract_lets +onlyGivenNames X_; refine Does.cutOf (Prod.fst (α := State)) X_ ?_ ?_; (on_goal 2 => (intro _; clear_value X_)); (on_goal 1 => (dsimp -zeta only [X_]; clear X_)))
    | extract_lets +onlyGivenNames X_
    | with_reducible apply Does.set
    | with_reducible apply Does.forEach
    | with_reducible exact ok_IDLE_CUM_TICKS _ (by decide)
    | with_reducible apply okField_ite
    | (with_reducible show Nat.testBit _ _ = true; decide)
    | (with_reducible show subMask _ _ = true; decide)
    | (intro _ _ _; beta_reduce)
    | with_reducible apply Does.ite
    | split
    | with_reducible apply Does.upd_idleRun
    | apply Does.ite
    | dsimp -zeta only
    | refine Does.sndOf (by assumption) ?_
    | refine Does.fstOf (by assumption) ?_

theorem State.tick_does {μ : Nat} {σ : State} (s : State) (hμ : subMask 67633168 μ = true) (hδ : Does μ σ s) :
    Does μ σ (State.tick s) := by
  refine Does.after (a := 67633168) ?_ hμ hδ
  clear hδ hμ
  unfold State.tick
  try dsimp -zeta only [State.fold_row]
  repeat' first
    | with_reducible assumption
    | with_reducible exact Does.rfl' _ _
    | (extract_lets +onlyGivenNames X_; refine Does.cut X_ ?_ ?_; (on_goal 2 => (intro _; clear_value X_)); (on_goal 1 => (dsimp -zeta only [X_]; clear X_)))
    | (extract_lets +onlyGivenNames X_; refine Does.cutOf (Prod.fst (α := State)) X_ ?_ ?_; (on_goal 2 => (intro _; clear_value X_)); (on_goal 1 => (dsimp -zeta only [X_]; clear X_)))
    | extract_lets +onlyGivenNames X_
    | with_reducible apply State.advance_does
    | with_reducible apply okField_ite
    | (with_reducible show Nat.testBit _ _ = true; decide)
    | (with_reducible show subMask _ _ = true; decide)
    | (intro _ _ _; beta_reduce)
    | with_reducible apply Does.ite
    | split
    | with_reducible apply Does.upd_row
    | apply Does.ite
    | dsimp -zeta only
    | refine Does.sndOf (by assumption) ?_
    | refine Does.fstOf (by assumption) ?_

end Sys2Proof.Machine
end

