-- ==== Sys2Proof/Laws/FPhase.lean ====
section
/-! SUPPORT. Laws/FPhase.lean: what every operation of Machine/Phase.lean leaves alone (see Laws/Frame.lean). -/

set_option linter.unreachableTactic false
set_option linter.unusedTactic false
set_option linter.tactic.unusedName false

namespace Sys2Proof.Machine

theorem State.setPower_does {m : Nat} {s₀ : State} (s : State) (st cause : Nat) (h1 : 1 ≤ st) (h3 : st ≤ 3) (hm : subMask 4194308 m = true)
    (h : Does m s₀ s) : Does m s₀ (s.setPower st cause) := by
  refine Does.after (a := 4194308) ?_ hm h
  unfold State.setPower
  exact Does.emit _ _ (by decide) (Does.set _ _ _ (ok_PWR_STATE_ENTERED_AT (by decide)) (Does.set _ _ _ (ok_PWR_STATE_LAST_CAUSE (by decide))
    (Does.setPwr _ _ h1 h3 (by decide) (Does.rfl' _ _))))

theorem State.clearWakes_does {m : Nat} {s₀ : State} (s : State) (hm : subMask 512 m = true) (h : Does m s₀ s) :
    Does m s₀ s.clearWakes := by
  refine Does.after (a := 512) ?_ hm h
  exact Does.forEach _ _ (Does.rfl' _ _) (fun _ _ h => Does.set _ _ _ (ok_CLU_POWER_WAKE_AT _ (by decide)) h)

theorem State.avs_does {μ : Nat} {σ : State} (s : State) (hμ : subMask 4194308 μ = true) (hδ : Does μ σ s) :
    Does μ σ (State.avs s) := by
  refine Does.after (a := 4194308) ?_ hμ hδ
  clear hδ hμ
  unfold State.avs
  repeat' first
    | with_reducible assumption
    | with_reducible exact Does.rfl' _ _
    | (extract_lets +onlyGivenNames X_; refine Does.cut X_ ?_ ?_; (on_goal 2 => (intro _; clear_value X_)); (on_goal 1 => (dsimp -zeta only [X_]; clear X_)))
    | (extract_lets +onlyGivenNames X_; refine Does.cutOf (Prod.fst (α := State)) X_ ?_ ?_; (on_goal 2 => (intro _; clear_value X_)); (on_goal 1 => (dsimp -zeta only [X_]; clear X_)))
    | extract_lets +onlyGivenNames X_
    | with_reducible apply Does.set
    | with_reducible apply State.emit_does
    | with_reducible exact ok_PWR_AVS_NEED_MV (by decide)
    | with_reducible exact ok_PWR_AVS_MET (by decide)
    | with_reducible exact ok_PWR_AVS_REQ_MV (by decide)
    | with_reducible apply okField_ite
    | (with_reducible show Nat.testBit _ _ = true; decide)
    | (with_reducible show subMask _ _ = true; decide)
    | (intro _ _ _; beta_reduce)
    | with_reducible apply Does.ite
    | split
    | apply Does.ite
    | dsimp -zeta only
    | refine Does.sndOf (by assumption) ?_
    | refine Does.fstOf (by assumption) ?_
    | (generalize ‹Option _› = w_; split)
    | (generalize ‹List _› = w_; split)

theorem State.holdSwatch_does {μ : Nat} {σ : State} (s : State) (hμ : subMask 2147483664 μ = true) (hδ : Does μ σ s) :
    Does μ σ (State.holdSwatch s) := by
  refine Does.after (a := 2147483664) ?_ hμ hδ
  clear hδ hμ
  unfold State.holdSwatch
  try dsimp -zeta only [State.fold_step]
  repeat' first
    | with_reducible assumption
    | with_reducible exact Does.rfl' _ _
    | (extract_lets +onlyGivenNames X_; refine Does.cut X_ ?_ ?_; (on_goal 2 => (intro _; clear_value X_)); (on_goal 1 => (dsimp -zeta only [X_]; clear X_)))
    | (extract_lets +onlyGivenNames X_; refine Does.cutOf (Prod.fst (α := State)) X_ ?_ ?_; (on_goal 2 => (intro _; clear_value X_)); (on_goal 1 => (dsimp -zeta only [X_]; clear X_)))
    | extract_lets +onlyGivenNames X_
    | with_reducible apply Does.set
    | with_reducible exact ok_STEP_SWATCH_AT_STEP (by decide)
    | with_reducible apply okField_ite
    | (with_reducible show Nat.testBit _ _ = true; decide)
    | (with_reducible show subMask _ _ = true; decide)
    | (intro _ _ _; beta_reduce)
    | with_reducible apply Does.ite
    | split
    | with_reducible apply Does.upd_step
    | ((with_reducible show StepSt.prevPhase _ = StepSt.prevPhase _); rfl)
    | apply Does.ite
    | dsimp -zeta only
    | refine Does.sndOf (by assumption) ?_
    | refine Does.fstOf (by assumption) ?_
    | (generalize ‹Option _› = w_; split)
    | (generalize ‹List _› = w_; split)

theorem State.toStopped_does {m : Nat} {s₀ : State} (s : State) (ph : Nat) (hp : s.WellKept → ph ≤ 9) (hm : subMask 2151678484 m = true)
    (h : Does m s₀ s) : Does m s₀ (s.toStopped ph) := by
  refine Does.after (a := 2151678484) ?_ hm h
  unfold State.toStopped
  refine State.avs_does _ (by decide) (State.clearWakes_does _ (by decide) (Does.set _ _ _ (ok_PWR_CLOCK_SWITCH_AT (by decide)) (Does.ite ?_ ?_)))
  · exact State.setPower_does _ _ _ (by decide) (by decide) (by decide)
      (State.holdSwatch_does _ (by decide) (Does.set _ _ _ (ok_STEP_NEXT_CASTON_VALUE (by decide)) (Does.setPhaseOf _ _ hp (by decide))))
  · exact State.holdSwatch_does _ (by decide) (Does.set _ _ _ (ok_STEP_NEXT_CASTON_VALUE (by decide)) (Does.setPhaseOf _ _ hp (by decide)))

theorem State.unaimLrs_does {μ : Nat} {σ : State} (s : State) (hμ : subMask 2147483648 μ = true) (hδ : Does μ σ s) :
    Does μ σ (State.unaimLrs s) := by
  refine Does.after (a := 2147483648) ?_ hμ hδ
  clear hδ hμ
  unfold State.unaimLrs
  try dsimp -zeta only [State.fold_step]
  repeat' first
    | with_reducible assumption
    | with_reducible exact Does.rfl' _ _
    | (extract_lets +onlyGivenNames X_; refine Does.cut X_ ?_ ?_; (on_goal 2 => (intro _; clear_value X_)); (on_goal 1 => (dsimp -zeta only [X_]; clear X_)))
    | (extract_lets +onlyGivenNames X_; refine Does.cutOf (Prod.fst (α := State)) X_ ?_ ?_; (on_goal 2 => (intro _; clear_value X_)); (on_goal 1 => (dsimp -zeta only [X_]; clear X_)))
    | extract_lets +onlyGivenNames X_
    | with_reducible apply okField_ite
    | (with_reducible show Nat.testBit _ _ = true; decide)
    | (with_reducible show subMask _ _ = true; decide)
    | (intro _ _ _; beta_reduce)
    | with_reducible apply Does.ite
    | split
    | with_reducible apply Does.upd_step
    | ((with_reducible show StepSt.prevPhase _ = StepSt.prevPhase _); rfl)
    | apply Does.ite
    | dsimp -zeta only
    | refine Does.sndOf (by assumption) ?_
    | refine Does.fstOf (by assumption) ?_

theorem State.enterHold_does {m : Nat} {s₀ : State} (s : State) (cause : Nat) (hm : subMask 2151678484 m = true) (h : Does m s₀ s) :
    Does m s₀ (s.enterHold cause) := by
  refine Does.after (a := 2151678484) ?_ hm h
  exact Does.set _ _ _ (ok_STEP_STATUS_HOLD_CAUSE (by decide))
    (State.toStopped_does _ _ (fun _ => by decide) (by decide) (State.unaimLrs_does _ (by decide) (Does.rfl' _ _)))

theorem State.planSwitch_does {μ : Nat} {σ : State} (s : State) (at_ : Nat) (hμ : subMask 4 μ = true) (hδ : Does μ σ s) :
    Does μ σ (State.planSwitch s at_) := by
  refine Does.after (a := 4) ?_ hμ hδ
  clear hδ hμ
  unfold State.planSwitch
  repeat' first
    | with_reducible assumption
    | with_reducible exact Does.rfl' _ _
    | (extract_lets +onlyGivenNames X_; refine Does.cut X_ ?_ ?_; (on_goal 2 => (intro _; clear_value X_)); (on_goal 1 => (dsimp -zeta only [X_]; clear X_)))
    | (extract_lets +onlyGivenNames X_; refine Does.cutOf (Prod.fst (α := State)) X_ ?_ ?_; (on_goal 2 => (intro _; clear_value X_)); (on_goal 1 => (dsimp -zeta only [X_]; clear X_)))
    | extract_lets +onlyGivenNames X_
    | with_reducible apply Does.set
    | with_reducible exact ok_PWR_CLOCK_SWITCH_AT (by decide)
    | with_reducible apply okField_ite
    | (with_reducible show Nat.testBit _ _ = true; decide)
    | (with_reducible show subMask _ _ = true; decide)
    | (intro _ _ _; beta_reduce)
    | with_reducible apply Does.ite
    | split
    | apply Does.ite
    | dsimp -zeta only
    | refine Does.sndOf (by assumption) ?_
    | refine Does.fstOf (by assumption) ?_

theorem State.showNext_does {μ : Nat} {σ : State} (s : State) (hμ : subMask 16 μ = true) (hδ : Does μ σ s) :
    Does μ σ (State.showNext s) := by
  refine Does.after (a := 16) ?_ hμ hδ
  clear hδ hμ
  unfold State.showNext
  repeat' first
    | with_reducible assumption
    | with_reducible exact Does.rfl' _ _
    | (extract_lets +onlyGivenNames X_; refine Does.cut X_ ?_ ?_; (on_goal 2 => (intro _; clear_value X_)); (on_goal 1 => (dsimp -zeta only [X_]; clear X_)))
    | (extract_lets +onlyGivenNames X_; refine Does.cutOf (Prod.fst (α := State)) X_ ?_ ?_; (on_goal 2 => (intro _; clear_value X_)); (on_goal 1 => (dsimp -zeta only [X_]; clear X_)))
    | extract_lets +onlyGivenNames X_
    | with_reducible apply Does.set
    | with_reducible exact ok_STEP_NEXT_CASTON_VALUE (by decide)
    | with_reducible apply okField_ite
    | (with_reducible show Nat.testBit _ _ = true; decide)
    | (with_reducible show subMask _ _ = true; decide)
    | (intro _ _ _; beta_reduce)
    | with_reducible apply Does.ite
    | split
    | apply Does.ite
    | dsimp -zeta only
    | refine Does.sndOf (by assumption) ?_
    | refine Does.fstOf (by assumption) ?_
    | (generalize ‹Option _› = w_; split)
    | (generalize ‹List _› = w_; split)

theorem State.showUnits_does {μ : Nat} {σ : State} (s : State) (hμ : subMask 516 μ = true) (hδ : Does μ σ s) :
    Does μ σ (State.showUnits s) := by
  refine Does.after (a := 516) ?_ hμ hδ
  clear hδ hμ
  unfold State.showUnits
  repeat' first
    | with_reducible assumption
    | with_reducible exact Does.rfl' _ _
    | (extract_lets +onlyGivenNames X_; refine Does.cut X_ ?_ ?_; (on_goal 2 => (intro _; clear_value X_)); (on_goal 1 => (dsimp -zeta only [X_]; clear X_)))
    | (extract_lets +onlyGivenNames X_; refine Does.cutOf (Prod.fst (α := State)) X_ ?_ ?_; (on_goal 2 => (intro _; clear_value X_)); (on_goal 1 => (dsimp -zeta only [X_]; clear X_)))
    | extract_lets +onlyGivenNames X_
    | with_reducible apply Does.set
    | with_reducible apply Does.forEach
    | with_reducible exact ok_PWR_UNITS_CLUSTERS_ON (by decide)
    | with_reducible exact ok_PWR_UNITS_ENGINES_ON (by decide)
    | with_reducible exact ok_PWR_UNITS_GROUPS_ON (by decide)
    | with_reducible exact ok_PWR_UNITS_WAKING (by decide)
    | with_reducible exact ok_CLU_POWER_STATE _ (by decide)
    | with_reducible exact ok_CLU_POWER_WAKE_AT _ (by decide)
    | with_reducible apply okField_ite
    | (with_reducible show Nat.testBit _ _ = true; decide)
    | (with_reducible show subMask _ _ = true; decide)
    | (intro _ _ _; beta_reduce)
    | with_reducible apply Does.ite
    | split
    | apply Does.ite
    | dsimp -zeta only
    | refine Does.sndOf (by assumption) ?_
    | refine Does.fstOf (by assumption) ?_

theorem State.gateAll_does {μ : Nat} {σ : State} (s : State) (hμ : subMask 137438953988 μ = true) (hδ : Does μ σ s) :
    Does μ σ (State.gateAll s) := by
  refine Does.after (a := 137438953988) ?_ hμ hδ
  clear hδ hμ
  unfold State.gateAll
  try dsimp -zeta only [State.fold_pwr]
  repeat' first
    | with_reducible assumption
    | with_reducible exact Does.rfl' _ _
    | (extract_lets +onlyGivenNames X_; refine Does.cut X_ ?_ ?_; (on_goal 2 => (intro _; clear_value X_)); (on_goal 1 => (dsimp -zeta only [X_]; clear X_)))
    | (extract_lets +onlyGivenNames X_; refine Does.cutOf (Prod.fst (α := State)) X_ ?_ ?_; (on_goal 2 => (intro _; clear_value X_)); (on_goal 1 => (dsimp -zeta only [X_]; clear X_)))
    | extract_lets +onlyGivenNames X_
    | with_reducible apply State.showUnits_does
    | with_reducible apply okField_ite
    | (with_reducible show Nat.testBit _ _ = true; decide)
    | (with_reducible show subMask _ _ = true; decide)
    | (intro _ _ _; beta_reduce)
    | with_reducible apply Does.ite
    | split
    | with_reducible apply Does.upd_pwr
    | apply Does.ite
    | dsimp -zeta only
    | refine Does.sndOf (by assumption) ?_
    | refine Does.fstOf (by assumption) ?_

theorem State.cancelLaunch_does {m : Nat} {s₀ : State} (s : State) (hm : subMask 139590631956 m = true) (h : Does m s₀ s) :
    Does m s₀ (s.cancelLaunch) := by
  refine Does.after (a := 139590631956) ?_ hm h
  exact State.gateAll_does _ (by decide) (State.toStopped_does _ _ (fun k => k.phase.2) (by decide) (Does.rfl' _ _))

theorem State.clearBarrierTable_does {μ : Nat} {σ : State} (s : State) (hμ : subMask 3145728 μ = true) (hδ : Does μ σ s) :
    Does μ σ (State.clearBarrierTable s) := by
  refine Does.after (a := 3145728) ?_ hμ hδ
  clear hδ hμ
  unfold State.clearBarrierTable
  repeat' first
    | with_reducible assumption
    | with_reducible exact Does.rfl' _ _
    | (extract_lets +onlyGivenNames X_; refine Does.cut X_ ?_ ?_; (on_goal 2 => (intro _; clear_value X_)); (on_goal 1 => (dsimp -zeta only [X_]; clear X_)))
    | (extract_lets +onlyGivenNames X_; refine Does.cutOf (Prod.fst (α := State)) X_ ?_ ?_; (on_goal 2 => (intro _; clear_value X_)); (on_goal 1 => (dsimp -zeta only [X_]; clear X_)))
    | extract_lets +onlyGivenNames X_
    | with_reducible apply State.zeroRange_does
    | with_reducible apply okField_ite
    | (with_reducible show Nat.testBit _ _ = true; decide)
    | (with_reducible show subMask _ _ = true; decide)
    | (intro _ _ _; beta_reduce)
    | with_reducible apply Does.ite
    | split
    | apply Does.ite
    | dsimp -zeta only
    | refine Does.sndOf (by assumption) ?_
    | refine Does.fstOf (by assumption) ?_
    | (generalize ‹Option _› = w_; split)
    | (generalize ‹List _› = w_; split)

theorem State.gateUnit_does {μ : Nat} {σ : State} (s : State) (u : Nat) (hμ : subMask 137438953988 μ = true) (hδ : Does μ σ s) :
    Does μ σ (State.gateUnit s u) := by
  refine Does.after (a := 137438953988) ?_ hμ hδ
  clear hδ hμ
  unfold State.gateUnit
  try dsimp -zeta only [State.fold_pwr]
  repeat' first
    | with_reducible assumption
    | with_reducible exact Does.rfl' _ _
    | (extract_lets +onlyGivenNames X_; refine Does.cut X_ ?_ ?_; (on_goal 2 => (intro _; clear_value X_)); (on_goal 1 => (dsimp -zeta only [X_]; clear X_)))
    | (extract_lets +onlyGivenNames X_; refine Does.cutOf (Prod.fst (α := State)) X_ ?_ ?_; (on_goal 2 => (intro _; clear_value X_)); (on_goal 1 => (dsimp -zeta only [X_]; clear X_)))
    | extract_lets +onlyGivenNames X_
    | with_reducible apply State.showUnits_does
    | with_reducible apply okField_ite
    | (with_reducible show Nat.testBit _ _ = true; decide)
    | (with_reducible show subMask _ _ = true; decide)
    | (intro _ _ _; beta_reduce)
    | with_reducible apply Does.ite
    | split
    | with_reducible apply Does.upd_pwr
    | apply Does.ite
    | dsimp -zeta only
    | refine Does.sndOf (by assumption) ?_
    | refine Does.fstOf (by assumption) ?_

theorem State.wakeUnit_does {μ : Nat} {σ : State} (s : State) (u : Nat) (hμ : subMask 137438953988 μ = true) (hδ : Does μ σ s) :
    Does μ σ (State.wakeUnit s u) := by
  refine Does.after (a := 137438953988) ?_ hμ hδ
  clear hδ hμ
  unfold State.wakeUnit
  try dsimp -zeta only [State.fold_pwr]
  repeat' first
    | with_reducible assumption
    | with_reducible exact Does.rfl' _ _
    | (extract_lets +onlyGivenNames X_; refine Does.cut X_ ?_ ?_; (on_goal 2 => (intro _; clear_value X_)); (on_goal 1 => (dsimp -zeta only [X_]; clear X_)))
    | (extract_lets +onlyGivenNames X_; refine Does.cutOf (Prod.fst (α := State)) X_ ?_ ?_; (on_goal 2 => (intro _; clear_value X_)); (on_goal 1 => (dsimp -zeta only [X_]; clear X_)))
    | extract_lets +onlyGivenNames X_
    | with_reducible apply State.showUnits_does
    | with_reducible apply okField_ite
    | (with_reducible show Nat.testBit _ _ = true; decide)
    | (with_reducible show subMask _ _ = true; decide)
    | (intro _ _ _; beta_reduce)
    | with_reducible apply Does.ite
    | split
    | with_reducible apply Does.upd_pwr
    | apply Does.ite
    | dsimp -zeta only
    | refine Does.sndOf (by assumption) ?_
    | refine Does.fstOf (by assumption) ?_

theorem State.useUnits_does {μ : Nat} {σ : State} (s : State) (us : List Nat) (hμ : subMask 137438953988 μ = true) (hδ : Does μ σ s) :
    Does μ σ (State.useUnits s us) := by
  refine Does.after (a := 137438953988) ?_ hμ hδ
  clear hδ hμ
  unfold State.useUnits
  try dsimp -zeta only [State.fold_pwr]
  repeat' first
    | with_reducible assumption
    | with_reducible exact Does.rfl' _ _
    | (extract_lets +onlyGivenNames X_; refine Does.cut X_ ?_ ?_; (on_goal 2 => (intro _; clear_value X_)); (on_goal 1 => (dsimp -zeta only [X_]; clear X_)))
    | (extract_lets +onlyGivenNames X_; refine Does.cutOf (Prod.fst (α := State)) X_ ?_ ?_; (on_goal 2 => (intro _; clear_value X_)); (on_goal 1 => (dsimp -zeta only [X_]; clear X_)))
    | extract_lets +onlyGivenNames X_
    | with_reducible apply State.showUnits_does
    | with_reducible apply Does.foldl
    | with_reducible apply Does.foldlFst
    | with_reducible apply okField_ite
    | (with_reducible show Nat.testBit _ _ = true; decide)
    | (with_reducible show subMask _ _ = true; decide)
    | (intro _ _ _; beta_reduce)
    | with_reducible apply Does.ite
    | split
    | with_reducible apply Does.upd_pwr
    | apply Does.ite
    | dsimp -zeta only
    | refine Does.sndOf (by assumption) ?_
    | refine Does.fstOf (by assumption) ?_

end Sys2Proof.Machine
end

