-- ==== Sys2Proof/Laws/FRounds.lean ====
section
/-! SUPPORT. Laws/FRounds.lean: what every operation of Machine/Rounds.lean leaves alone (see Laws/Frame.lean). -/

set_option linter.unreachableTactic false
set_option linter.unusedTactic false
set_option linter.tactic.unusedName false

namespace Sys2Proof.Machine

theorem State.writeTensionCtrl_does {μ : Nat} {σ : State} (s : State) (w : Wr) (hμ : subMask 2684510208 μ = true) (hδ : Does μ σ s) :
    Does μ σ (State.writeTensionCtrl s w) := by
  refine Does.after (a := 2684510208) ?_ hμ hδ
  clear hδ hμ
  unfold State.writeTensionCtrl
  try dsimp -zeta only [State.fold_step]
  repeat' first
    | with_reducible assumption
    | with_reducible exact Does.rfl' _ _
    | (extract_lets +onlyGivenNames X_; refine Does.cut X_ ?_ ?_; (on_goal 2 => (intro _; clear_value X_)); (on_goal 1 => (dsimp -zeta only [X_]; clear X_)))
    | (extract_lets +onlyGivenNames X_; refine Does.cutOf (Prod.fst (α := State)) X_ ?_ ?_; (on_goal 2 => (intro _; clear_value X_)); (on_goal 1 => (dsimp -zeta only [X_]; clear X_)))
    | extract_lets +onlyGivenNames X_
    | with_reducible apply Does.set
    | with_reducible apply State.regWrite_does
    | with_reducible apply Does.forEach
    | with_reducible exact ok_TENSION_CTRL_CLEAR (by decide)
    | with_reducible exact ok_TENSION_CTRL_CLEAR_PENDING (by decide)
    | with_reducible exact ok_TENSION_CUM_COUNT _ (by decide)
    | with_reducible apply okField_ite
    | (with_reducible show Nat.testBit _ _ = true; decide)
    | (with_reducible show subMask _ _ = true; decide)
    | (intro _ _ _; beta_reduce)
    | with_reducible apply Does.ite
    | split
    | with_reducible apply Does.upd_step
    | ((with_reducible show StepSt.prevPhase _ = StepSt.prevPhase _); rfl)
    | apply Does.ite
    | dsimp -zeta only
    | refine Does.sndOf (by assumption) ?_
    | refine Does.fstOf (by assumption) ?_

theorem execPauseBegin_does (s : State) (τ : State) (hδ : execPauseBegin s = .next τ) : Does 17247510544 s τ := by
  unfold execPauseBegin at hδ
  obtain rfl := Host.Outcome.next.inj hδ
  clear hδ
  try dsimp -zeta only [State.fold_fault]
  repeat' first
    | with_reducible assumption
    | with_reducible exact Does.rfl' _ _
    | (extract_lets +onlyGivenNames X_; refine Does.cut X_ ?_ ?_; (on_goal 2 => (intro _; clear_value X_)); (on_goal 1 => (dsimp -zeta only [X_]; clear X_)))
    | (extract_lets +onlyGivenNames X_; refine Does.cutOf (Prod.fst (α := State)) X_ ?_ ?_; (on_goal 2 => (intro _; clear_value X_)); (on_goal 1 => (dsimp -zeta only [X_]; clear X_)))
    | extract_lets +onlyGivenNames X_
    | with_reducible apply Does.set
    | with_reducible apply State.advance_does
    | with_reducible apply Does.foldl
    | with_reducible apply Does.foldlFst
    | with_reducible exact ok_FAULT_STATUS_PAUSED (by decide)
    | with_reducible exact ok_FAULT_LAST_AT (by decide)
    | with_reducible apply okField_ite
    | (with_reducible show Nat.testBit _ _ = true; decide)
    | (with_reducible show subMask _ _ = true; decide)
    | (intro _ _ _; beta_reduce)
    | with_reducible apply Does.ite
    | split
    | with_reducible apply Does.upd_fault
    | apply Does.ite
    | dsimp -zeta only
    | refine Does.sndOf (by assumption) ?_
    | refine Does.fstOf (by assumption) ?_
    | (generalize ‹Option _› = w_; split)
    | (generalize ‹List _› = w_; split)

theorem execTensionClear_does (m : Master) (v : BitVec 64) (s : State) (τ : State) (hδ : execTensionClear m v s = .next τ) : Does 2684510208 s τ := by
  unfold execTensionClear at hδ
  obtain rfl := Host.Outcome.next.inj hδ
  clear hδ
  repeat' first
    | with_reducible assumption
    | with_reducible exact Does.rfl' _ _
    | (extract_lets +onlyGivenNames X_; refine Does.cut X_ ?_ ?_; (on_goal 2 => (intro _; clear_value X_)); (on_goal 1 => (dsimp -zeta only [X_]; clear X_)))
    | (extract_lets +onlyGivenNames X_; refine Does.cutOf (Prod.fst (α := State)) X_ ?_ ?_; (on_goal 2 => (intro _; clear_value X_)); (on_goal 1 => (dsimp -zeta only [X_]; clear X_)))
    | extract_lets +onlyGivenNames X_
    | with_reducible apply State.writeTensionCtrl_does
    | with_reducible apply okField_ite
    | (with_reducible show Nat.testBit _ _ = true; decide)
    | (with_reducible show subMask _ _ = true; decide)
    | (intro _ _ _; beta_reduce)
    | with_reducible apply Does.ite
    | split
    | apply Does.ite
    | dsimp -zeta only
    | refine Does.sndOf (by assumption) ?_
    | refine Does.fstOf (by assumption) ?_

end Sys2Proof.Machine
end

