-- ==== Sys2Proof/Laws/FFault.lean ====
section
/-! SUPPORT. Laws/FFault.lean: what every operation of Machine/Fault.lean leaves alone (see Laws/Frame.lean). -/

set_option linter.unreachableTactic false
set_option linter.unusedTactic false
set_option linter.tactic.unusedName false

namespace Sys2Proof.Machine

theorem State.showStack_does {μ : Nat} {σ : State} (s : State) (k : Nat) (hμ : subMask 4096 μ = true) (hδ : Does μ σ s) :
    Does μ σ (State.showStack s k) := by
  refine Does.after (a := 4096) ?_ hμ hδ
  clear hδ hμ
  unfold State.showStack
  repeat' first
    | with_reducible assumption
    | with_reducible exact Does.rfl' _ _
    | (extract_lets +onlyGivenNames X_; refine Does.cut X_ ?_ ?_; (on_goal 2 => (intro _; clear_value X_)); (on_goal 1 => (dsimp -zeta only [X_]; clear X_)))
    | (extract_lets +onlyGivenNames X_; refine Does.cutOf (Prod.fst (α := State)) X_ ?_ ?_; (on_goal 2 => (intro _; clear_value X_)); (on_goal 1 => (dsimp -zeta only [X_]; clear X_)))
    | extract_lets +onlyGivenNames X_
    | with_reducible apply Does.set
    | with_reducible exact ok_HBM_STACK_SPARE _ (by decide)
    | with_reducible exact ok_HBM_STACK_NO_SPARE _ (by decide)
    | with_reducible exact ok_unitStateF _ (by decide) (by decide) (by decide)
    | with_reducible apply okField_ite
    | (with_reducible show Nat.testBit _ _ = true; decide)
    | (with_reducible show subMask _ _ = true; decide)
    | (intro _ _ _; beta_reduce)
    | with_reducible apply Does.ite
    | split
    | apply Does.ite
    | dsimp -zeta only
    | refine Does.sndOf (by assumption) ?_
    | refine Does.fstOf (by assumption) ?_
    | (generalize ‹Option _› = w_; split)
    | (generalize ‹List _› = w_; split)

theorem State.showExp_does {μ : Nat} {σ : State} (s : State) (u : Nat) (hμ : subMask 1024 μ = true) (hδ : Does μ σ s) :
    Does μ σ (State.showExp s u) := by
  refine Does.after (a := 1024) ?_ hμ hδ
  clear hδ hμ
  unfold State.showExp
  repeat' first
    | with_reducible assumption
    | with_reducible exact Does.rfl' _ _
    | (extract_lets +onlyGivenNames X_; refine Does.cut X_ ?_ ?_; (on_goal 2 => (intro _; clear_value X_)); (on_goal 1 => (dsimp -zeta only [X_]; clear X_)))
    | (extract_lets +onlyGivenNames X_; refine Does.cutOf (Prod.fst (α := State)) X_ ?_ ?_; (on_goal 2 => (intro _; clear_value X_)); (on_goal 1 => (dsimp -zeta only [X_]; clear X_)))
    | extract_lets +onlyGivenNames X_
    | with_reducible apply Does.set
    | with_reducible apply Does.forEach
    | with_reducible exact ok_EXP_STAT_STATE _ (by decide)
    | with_reducible exact ok_EXP_STAT_LOGICAL _ (by decide)
    | with_reducible exact ok_unitStateF _ (by decide) (by decide) (by decide)
    | with_reducible exact ok_unitLogicalF _ (by decide) (by decide) (by decide)
    | with_reducible apply okField_ite
    | (with_reducible show Nat.testBit _ _ = true; decide)
    | (with_reducible show subMask _ _ = true; decide)
    | (intro _ _ _; beta_reduce)
    | with_reducible apply Does.ite
    | split
    | apply Does.ite
    | dsimp -zeta only
    | refine Does.sndOf (by assumption) ?_
    | refine Does.fstOf (by assumption) ?_

theorem State.setUnit_does {μ : Nat} {σ : State} (s : State) (u st place : Nat) (hμ : subMask 9728 μ = true) (hδ : Does μ σ s) :
    Does μ σ (State.setUnit s u st place) := by
  refine Does.after (a := 9728) ?_ hμ hδ
  clear hδ hμ
  unfold State.setUnit
  repeat' first
    | with_reducible assumption
    | with_reducible exact Does.rfl' _ _
    | (extract_lets +onlyGivenNames X_; refine Does.cut X_ ?_ ?_; (on_goal 2 => (intro _; clear_value X_)); (on_goal 1 => (dsimp -zeta only [X_]; clear X_)))
    | (extract_lets +onlyGivenNames X_; refine Does.cutOf (Prod.fst (α := State)) X_ ?_ ?_; (on_goal 2 => (intro _; clear_value X_)); (on_goal 1 => (dsimp -zeta only [X_]; clear X_)))
    | extract_lets +onlyGivenNames X_
    | with_reducible apply Does.set
    | with_reducible apply State.showExp_does
    | with_reducible exact ok_unitStateF _ (by decide) (by decide) (by decide)
    | with_reducible exact ok_unitLogicalF _ (by decide) (by decide) (by decide)
    | with_reducible apply okField_ite
    | (with_reducible show Nat.testBit _ _ = true; decide)
    | (with_reducible show subMask _ _ = true; decide)
    | (intro _ _ _; beta_reduce)
    | with_reducible apply Does.ite
    | split
    | apply Does.ite
    | dsimp -zeta only
    | refine Does.sndOf (by assumption) ?_
    | refine Does.fstOf (by assumption) ?_

theorem State.moveOpen_does {μ : Nat} {σ : State} (s : State) (a b : Nat) (hμ : subMask 1024 μ = true) (hδ : Does μ σ s) :
    Does μ σ (State.moveOpen s a b) := by
  refine Does.after (a := 1024) ?_ hμ hδ
  clear hδ hμ
  unfold State.moveOpen
  repeat' first
    | with_reducible assumption
    | with_reducible exact Does.rfl' _ _
    | (extract_lets +onlyGivenNames X_; refine Does.cut X_ ?_ ?_; (on_goal 2 => (intro _; clear_value X_)); (on_goal 1 => (dsimp -zeta only [X_]; clear X_)))
    | (extract_lets +onlyGivenNames X_; refine Does.cutOf (Prod.fst (α := State)) X_ ?_ ?_; (on_goal 2 => (intro _; clear_value X_)); (on_goal 1 => (dsimp -zeta only [X_]; clear X_)))
    | extract_lets +onlyGivenNames X_
    | with_reducible apply Does.set
    | with_reducible exact ok_SKEIN_CTX_ENC_OPEN _ (by decide)
    | with_reducible exact ok_SKEIN_CTX_DEC_OPEN _ (by decide)
    | with_reducible apply okField_ite
    | (with_reducible show Nat.testBit _ _ = true; decide)
    | (with_reducible show subMask _ _ = true; decide)
    | (intro _ _ _; beta_reduce)
    | with_reducible apply Does.ite
    | split
    | apply Does.ite
    | dsimp -zeta only
    | refine Does.sndOf (by assumption) ?_
    | refine Does.fstOf (by assumption) ?_

theorem State.takePlace_does {μ : Nat} {σ : State} (s : State) (u v leave : Nat) (hμ : subMask 17179878912 μ = true) (hδ : Does μ σ s) :
    Does μ σ (State.takePlace s u v leave) := by
  refine Does.after (a := 17179878912) ?_ hμ hδ
  clear hδ hμ
  unfold State.takePlace
  try dsimp -zeta only [State.fold_fault]
  repeat' first
    | with_reducible assumption
    | with_reducible exact Does.rfl' _ _
    | (extract_lets +onlyGivenNames X_; refine Does.cut X_ ?_ ?_; (on_goal 2 => (intro _; clear_value X_)); (on_goal 1 => (dsimp -zeta only [X_]; clear X_)))
    | (extract_lets +onlyGivenNames X_; refine Does.cutOf (Prod.fst (α := State)) X_ ?_ ?_; (on_goal 2 => (intro _; clear_value X_)); (on_goal 1 => (dsimp -zeta only [X_]; clear X_)))
    | extract_lets +onlyGivenNames X_
    | with_reducible apply State.moveOpen_does
    | with_reducible apply State.setUnit_does
    | with_reducible exact ok_unitLogicalF _ (by decide) (by decide) (by decide)
    | with_reducible apply okField_ite
    | (with_reducible show Nat.testBit _ _ = true; decide)
    | (with_reducible show subMask _ _ = true; decide)
    | (intro _ _ _; beta_reduce)
    | with_reducible apply Does.ite
    | split
    | with_reducible apply Does.upd_fault
    | apply Does.ite
    | dsimp -zeta only
    | refine Does.sndOf (by assumption) ?_
    | refine Does.fstOf (by assumption) ?_

theorem State.switchChannel_does {μ : Nat} {σ : State} (s : State) (c : ChanCopy) (hμ : subMask 17179883008 μ = true) (hδ : Does μ σ s) :
    Does μ σ (State.switchChannel s c) := by
  refine Does.after (a := 17179883008) ?_ hμ hδ
  clear hδ hμ
  unfold State.switchChannel
  try dsimp -zeta only [State.fold_fault]
  repeat' first
    | with_reducible assumption
    | with_reducible exact Does.rfl' _ _
    | (extract_lets +onlyGivenNames X_; refine Does.cut X_ ?_ ?_; (on_goal 2 => (intro _; clear_value X_)); (on_goal 1 => (dsimp -zeta only [X_]; clear X_)))
    | (extract_lets +onlyGivenNames X_; refine Does.cutOf (Prod.fst (α := State)) X_ ?_ ?_; (on_goal 2 => (intro _; clear_value X_)); (on_goal 1 => (dsimp -zeta only [X_]; clear X_)))
    | extract_lets +onlyGivenNames X_
    | with_reducible apply State.showStack_does
    | with_reducible apply State.takePlace_does
    | with_reducible apply okField_ite
    | (with_reducible show Nat.testBit _ _ = true; decide)
    | (with_reducible show subMask _ _ = true; decide)
    | (intro _ _ _; beta_reduce)
    | with_reducible apply Does.ite
    | split
    | with_reducible apply Does.upd_fault
    | apply Does.ite
    | dsimp -zeta only
    | refine Does.sndOf (by assumption) ?_
    | refine Does.fstOf (by assumption) ?_

theorem State.showRetire_does {μ : Nat} {σ : State} (s : State) (hμ : subMask 8192 μ = true) (hδ : Does μ σ s) :
    Does μ σ (State.showRetire s) := by
  refine Does.after (a := 8192) ?_ hμ hδ
  clear hδ hμ
  unfold State.showRetire
  repeat' first
    | with_reducible assumption
    | with_reducible exact Does.rfl' _ _
    | (extract_lets +onlyGivenNames X_; refine Does.cut X_ ?_ ?_; (on_goal 2 => (intro _; clear_value X_)); (on_goal 1 => (dsimp -zeta only [X_]; clear X_)))
    | (extract_lets +onlyGivenNames X_; refine Does.cutOf (Prod.fst (α := State)) X_ ?_ ?_; (on_goal 2 => (intro _; clear_value X_)); (on_goal 1 => (dsimp -zeta only [X_]; clear X_)))
    | extract_lets +onlyGivenNames X_
    | with_reducible apply Does.set
    | with_reducible exact ok_FAULT_STATUS_COPYING (by decide)
    | with_reducible exact ok_FAULT_STATUS_RETIRE_PENDING (by decide)
    | with_reducible apply okField_ite
    | (with_reducible show Nat.testBit _ _ = true; decide)
    | (with_reducible show subMask _ _ = true; decide)
    | (intro _ _ _; beta_reduce)
    | with_reducible apply Does.ite
    | split
    | apply Does.ite
    | dsimp -zeta only
    | refine Does.sndOf (by assumption) ?_
    | refine Does.fstOf (by assumption) ?_

theorem State.dropCopies_does {μ : Nat} {σ : State} (s : State) (ch : Nat) (hμ : subMask 17716770304 μ = true) (hδ : Does μ σ s) :
    Does μ σ (State.dropCopies s ch) := by
  refine Does.after (a := 17716770304) ?_ hμ hδ
  clear hδ hμ
  unfold State.dropCopies
  try dsimp -zeta only [State.fold_fault]
  repeat' first
    | with_reducible assumption
    | with_reducible exact Does.rfl' _ _
    | (extract_lets +onlyGivenNames X_; refine Does.cut X_ ?_ ?_; (on_goal 2 => (intro _; clear_value X_)); (on_goal 1 => (dsimp -zeta only [X_]; clear X_)))
    | (extract_lets +onlyGivenNames X_; refine Does.cutOf (Prod.fst (α := State)) X_ ?_ ?_; (on_goal 2 => (intro _; clear_value X_)); (on_goal 1 => (dsimp -zeta only [X_]; clear X_)))
    | extract_lets +onlyGivenNames X_
    | with_reducible apply Does.set
    | with_reducible apply State.logEv_does
    | with_reducible apply State.showRetire_does
    | with_reducible apply Does.forEach
    | with_reducible exact ok_HBM_STACK_STATE _ (by decide)
    | with_reducible exact ok_unitStateF _ (by decide) (by decide) (by decide)
    | with_reducible apply okField_ite
    | (with_reducible show Nat.testBit _ _ = true; decide)
    | (with_reducible show subMask _ _ = true; decide)
    | (intro _ _ _; beta_reduce)
    | with_reducible apply Does.ite
    | split
    | with_reducible apply Does.upd_fault
    | apply Does.ite
    | dsimp -zeta only
    | refine Does.sndOf (by assumption) ?_
    | refine Does.fstOf (by assumption) ?_

theorem State.replaceLost_does {μ : Nat} {σ : State} (s : State) (ch : Nat) (hμ : subMask 17716770304 μ = true) (hδ : Does μ σ s) :
    Does μ σ (State.replaceLost s ch) := by
  refine Does.after (a := 17716770304) ?_ hμ hδ
  clear hδ hμ
  unfold State.replaceLost
  try dsimp -zeta only [State.fold_fault]
  repeat' first
    | with_reducible assumption
    | with_reducible exact Does.rfl' _ _
    | (extract_lets +onlyGivenNames X_; refine Does.cut X_ ?_ ?_; (on_goal 2 => (intro _; clear_value X_)); (on_goal 1 => (dsimp -zeta only [X_]; clear X_)))
    | (extract_lets +onlyGivenNames X_; refine Does.cutOf (Prod.fst (α := State)) X_ ?_ ?_; (on_goal 2 => (intro _; clear_value X_)); (on_goal 1 => (dsimp -zeta only [X_]; clear X_)))
    | extract_lets +onlyGivenNames X_
    | with_reducible apply Does.set
    | with_reducible apply Does.bump
    | with_reducible apply State.dropCopies_does
    | with_reducible apply State.setUnit_does
    | with_reducible apply State.showStack_does
    | with_reducible exact ok_FAULT_STATUS_FAILOVERS (by decide)
    | with_reducible exact ok_unitLogicalF _ (by decide) (by decide) (by decide)
    | with_reducible apply okField_ite
    | (with_reducible show Nat.testBit _ _ = true; decide)
    | (with_reducible show subMask _ _ = true; decide)
    | (intro _ _ _; beta_reduce)
    | with_reducible apply Does.ite
    | split
    | with_reducible apply Does.upd_fault
    | apply Does.ite
    | dsimp -zeta only
    | refine Does.sndOf (by assumption) ?_
    | refine Does.fstOf (by assumption) ?_
    | (generalize ‹Option _› = w_; split)
    | (generalize ‹List _› = w_; split)

theorem State.applyRetire_does {μ : Nat} {σ : State} (s : State) (u : Nat) (hμ : subMask 155155719684 μ = true) (hδ : Does μ σ s) :
    Does μ σ (State.applyRetire s u) := by
  refine Does.after (a := 155155719684) ?_ hμ hδ
  clear hδ hμ
  unfold State.applyRetire
  try dsimp -zeta only [State.fold_fault]
  repeat' first
    | with_reducible assumption
    | with_reducible exact Does.rfl' _ _
    | (extract_lets +onlyGivenNames X_; refine Does.cut X_ ?_ ?_; (on_goal 2 => (intro _; clear_value X_)); (on_goal 1 => (dsimp -zeta only [X_]; clear X_)))
    | (extract_lets +onlyGivenNames X_; refine Does.cutOf (Prod.fst (α := State)) X_ ?_ ?_; (on_goal 2 => (intro _; clear_value X_)); (on_goal 1 => (dsimp -zeta only [X_]; clear X_)))
    | extract_lets +onlyGivenNames X_
    | with_reducible apply Does.set
    | with_reducible apply State.gateUnit_does
    | with_reducible apply State.logEv_does
    | with_reducible apply State.takePlace_does
    | with_reducible apply State.wakeUnit_does
    | with_reducible exact ok_unitStateF _ (by decide) (by decide) (by decide)
    | with_reducible apply okField_ite
    | (with_reducible show Nat.testBit _ _ = true; decide)
    | (with_reducible show subMask _ _ = true; decide)
    | (intro _ _ _; beta_reduce)
    | with_reducible apply Does.ite
    | split
    | with_reducible apply Does.upd_fault
    | apply Does.ite
    | dsimp -zeta only
    | refine Does.sndOf (by assumption) ?_
    | refine Does.fstOf (by assumption) ?_
    | (generalize ‹Option _› = w_; split)
    | (generalize ‹List _› = w_; split)

theorem State.setNoSpare_does {μ : Nat} {σ : State} (s : State) (k : Nat) (hμ : subMask 8192 μ = true) (hδ : Does μ σ s) :
    Does μ σ (State.setNoSpare s k) := by
  refine Does.after (a := 8192) ?_ hμ hδ
  clear hδ hμ
  unfold State.setNoSpare
  repeat' first
    | with_reducible assumption
    | with_reducible exact Does.rfl' _ _
    | (extract_lets +onlyGivenNames X_; refine Does.cut X_ ?_ ?_; (on_goal 2 => (intro _; clear_value X_)); (on_goal 1 => (dsimp -zeta only [X_]; clear X_)))
    | (extract_lets +onlyGivenNames X_; refine Does.cutOf (Prod.fst (α := State)) X_ ?_ ?_; (on_goal 2 => (intro _; clear_value X_)); (on_goal 1 => (dsimp -zeta only [X_]; clear X_)))
    | extract_lets +onlyGivenNames X_
    | with_reducible apply Does.set
    | with_reducible exact ok_FAULT_STATUS_NO_SPARE (by decide)
    | with_reducible apply okField_ite
    | (with_reducible show Nat.testBit _ _ = true; decide)
    | (with_reducible show subMask _ _ = true; decide)
    | (intro _ _ _; beta_reduce)
    | with_reducible apply Does.ite
    | split
    | apply Does.ite
    | dsimp -zeta only
    | refine Does.sndOf (by assumption) ?_
    | refine Does.fstOf (by assumption) ?_

theorem State.joinCore_does {μ : Nat} {σ : State} (s : State) (place : Nat) (hμ : subMask 17179878912 μ = true) (hδ : Does μ σ s) :
    Does μ σ (State.joinCore s place) := by
  refine Does.after (a := 17179878912) ?_ hμ hδ
  clear hδ hμ
  unfold State.joinCore
  try dsimp -zeta only [State.fold_fault]
  repeat' first
    | with_reducible assumption
    | with_reducible exact Does.rfl' _ _
    | (extract_lets +onlyGivenNames X_; refine Does.cut X_ ?_ ?_; (on_goal 2 => (intro _; clear_value X_)); (on_goal 1 => (dsimp -zeta only [X_]; clear X_)))
    | (extract_lets +onlyGivenNames X_; refine Does.cutOf (Prod.fst (α := State)) X_ ?_ ?_; (on_goal 2 => (intro _; clear_value X_)); (on_goal 1 => (dsimp -zeta only [X_]; clear X_)))
    | extract_lets +onlyGivenNames X_
    | with_reducible apply Does.bump
    | with_reducible apply State.setNoSpare_does
    | with_reducible apply State.setUnit_does
    | with_reducible exact ok_FAULT_STATUS_FAILOVERS (by decide)
    | with_reducible apply okField_ite
    | (with_reducible show Nat.testBit _ _ = true; decide)
    | (with_reducible show subMask _ _ = true; decide)
    | (intro _ _ _; beta_reduce)
    | with_reducible apply Does.ite
    | split
    | with_reducible apply Does.upd_fault
    | apply Does.ite
    | dsimp -zeta only
    | refine Does.sndOf (by assumption) ?_
    | refine Does.fstOf (by assumption) ?_
    | (generalize ‹Option _› = w_; split)
    | (generalize ‹List _› = w_; split)

theorem State.settleNoSpare_does {μ : Nat} {σ : State} (s : State) (k : Nat) (hμ : subMask 8192 μ = true) (hδ : Does μ σ s) :
    Does μ σ (State.settleNoSpare s k) := by
  refine Does.after (a := 8192) ?_ hμ hδ
  clear hδ hμ
  unfold State.settleNoSpare
  repeat' first
    | with_reducible assumption
    | with_reducible exact Does.rfl' _ _
    | (extract_lets +onlyGivenNames X_; refine Does.cut X_ ?_ ?_; (on_goal 2 => (intro _; clear_value X_)); (on_goal 1 => (dsimp -zeta only [X_]; clear X_)))
    | (extract_lets +onlyGivenNames X_; refine Does.cutOf (Prod.fst (α := State)) X_ ?_ ?_; (on_goal 2 => (intro _; clear_value X_)); (on_goal 1 => (dsimp -zeta only [X_]; clear X_)))
    | extract_lets +onlyGivenNames X_
    | with_reducible apply Does.set
    | with_reducible exact ok_FAULT_STATUS_NO_SPARE (by decide)
    | with_reducible exact ok_unitStateF _ (by decide) (by decide) (by decide)
    | with_reducible apply okField_ite
    | (with_reducible show Nat.testBit _ _ = true; decide)
    | (with_reducible show subMask _ _ = true; decide)
    | (intro _ _ _; beta_reduce)
    | with_reducible apply Does.ite
    | split
    | apply Does.ite
    | dsimp -zeta only
    | refine Does.sndOf (by assumption) ?_
    | refine Does.fstOf (by assumption) ?_

theorem State.endMend_does {μ : Nat} {σ : State} (s : State) (m : Mend) (hμ : subMask 17179877376 μ = true) (hδ : Does μ σ s) :
    Does μ σ (State.endMend s m) := by
  refine Does.after (a := 17179877376) ?_ hμ hδ
  clear hδ hμ
  unfold State.endMend
  try dsimp -zeta only [State.fold_fault]
  repeat' first
    | with_reducible assumption
    | with_reducible exact Does.rfl' _ _
    | (extract_lets +onlyGivenNames X_; refine Does.cut X_ ?_ ?_; (on_goal 2 => (intro _; clear_value X_)); (on_goal 1 => (dsimp -zeta only [X_]; clear X_)))
    | (extract_lets +onlyGivenNames X_; refine Does.cutOf (Prod.fst (α := State)) X_ ?_ ?_; (on_goal 2 => (intro _; clear_value X_)); (on_goal 1 => (dsimp -zeta only [X_]; clear X_)))
    | extract_lets +onlyGivenNames X_
    | with_reducible apply Does.set
    | with_reducible exact ok_FAULT_MEND_PENDING (by decide)
    | with_reducible apply okField_ite
    | (with_reducible show Nat.testBit _ _ = true; decide)
    | (with_reducible show subMask _ _ = true; decide)
    | (intro _ _ _; beta_reduce)
    | with_reducible apply Does.ite
    | split
    | with_reducible apply Does.upd_fault
    | apply Does.ite
    | dsimp -zeta only
    | refine Does.sndOf (by assumption) ?_
    | refine Does.fstOf (by assumption) ?_

theorem State.applyMend_does {μ : Nat} {σ : State} (s : State) (m : Mend) (hμ : subMask 154618836484 μ = true) (hδ : Does μ σ s) :
    Does μ σ (State.applyMend s m) := by
  refine Does.after (a := 154618836484) ?_ hμ hδ
  clear hδ hμ
  unfold State.applyMend
  try dsimp -zeta only [State.fold_fault]
  repeat' first
    | with_reducible assumption
    | with_reducible exact Does.rfl' _ _
    | (extract_lets +onlyGivenNames X_; refine Does.cut X_ ?_ ?_; (on_goal 2 => (intro _; clear_value X_)); (on_goal 1 => (dsimp -zeta only [X_]; clear X_)))
    | (extract_lets +onlyGivenNames X_; refine Does.cutOf (Prod.fst (α := State)) X_ ?_ ?_; (on_goal 2 => (intro _; clear_value X_)); (on_goal 1 => (dsimp -zeta only [X_]; clear X_)))
    | extract_lets +onlyGivenNames X_
    | with_reducible apply Does.set
    | with_reducible apply State.endMend_does
    | with_reducible apply State.gateUnit_does
    | with_reducible apply State.setUnit_does
    | with_reducible apply State.settleNoSpare_does
    | with_reducible apply State.showStack_does
    | with_reducible apply State.takePlace_does
    | with_reducible apply State.wakeUnit_does
    | with_reducible exact ok_unitStateF _ (by decide) (by decide) (by decide)
    | with_reducible apply okField_ite
    | (with_reducible show Nat.testBit _ _ = true; decide)
    | (with_reducible show subMask _ _ = true; decide)
    | (intro _ _ _; beta_reduce)
    | with_reducible apply Does.ite
    | split
    | with_reducible apply Does.upd_fault
    | apply Does.ite
    | dsimp -zeta only
    | refine Does.sndOf (by assumption) ?_
    | refine Does.fstOf (by assumption) ?_
    | (generalize ‹Option _› = w_; split)
    | (generalize ‹List _› = w_; split)

theorem State.unitBoundary_does {μ : Nat} {σ : State} (s : State) (n : Nat) (hμ : subMask 155155723780 μ = true) (hδ : Does μ σ s) :
    Does μ σ (State.unitBoundary s n) := by
  refine Does.after (a := 155155723780) ?_ hμ hδ
  clear hδ hμ
  unfold State.unitBoundary
  try dsimp -zeta only [State.fold_fault]
  repeat' first
    | with_reducible assumption
    | with_reducible exact Does.rfl' _ _
    | (extract_lets +onlyGivenNames X_; refine Does.cut X_ ?_ ?_; (on_goal 2 => (intro _; clear_value X_)); (on_goal 1 => (dsimp -zeta only [X_]; clear X_)))
    | (extract_lets +onlyGivenNames X_; refine Does.cutOf (Prod.fst (α := State)) X_ ?_ ?_; (on_goal 2 => (intro _; clear_value X_)); (on_goal 1 => (dsimp -zeta only [X_]; clear X_)))
    | extract_lets +onlyGivenNames X_
    | with_reducible apply State.applyMend_does
    | with_reducible apply State.applyRetire_does
    | with_reducible apply State.joinCore_does
    | with_reducible apply State.replaceLost_does
    | with_reducible apply State.showRetire_does
    | with_reducible apply State.switchChannel_does
    | with_reducible apply Does.forEach
    | with_reducible apply Does.foldl
    | with_reducible apply Does.foldlFst
    | with_reducible apply okField_ite
    | (with_reducible show Nat.testBit _ _ = true; decide)
    | (with_reducible show subMask _ _ = true; decide)
    | (intro _ _ _; beta_reduce)
    | with_reducible apply Does.ite
    | split
    | with_reducible apply Does.upd_fault
    | apply Does.ite
    | dsimp -zeta only
    | refine Does.sndOf (by assumption) ?_
    | refine Does.fstOf (by assumption) ?_

theorem State.writeMend_does {μ : Nat} {σ : State} (s : State) (w : Wr) (hμ : subMask 17716764672 μ = true) (hδ : Does μ σ s) :
    Does μ σ (State.writeMend s w) := by
  refine Does.after (a := 17716764672) ?_ hμ hδ
  clear hδ hμ
  unfold State.writeMend
  try dsimp -zeta only [State.fold_fault]
  repeat' first
    | with_reducible assumption
    | with_reducible exact Does.rfl' _ _
    | (extract_lets +onlyGivenNames X_; refine Does.cut X_ ?_ ?_; (on_goal 2 => (intro _; clear_value X_)); (on_goal 1 => (dsimp -zeta only [X_]; clear X_)))
    | (extract_lets +onlyGivenNames X_; refine Does.cutOf (Prod.fst (α := State)) X_ ?_ ?_; (on_goal 2 => (intro _; clear_value X_)); (on_goal 1 => (dsimp -zeta only [X_]; clear X_)))
    | extract_lets +onlyGivenNames X_
    | with_reducible apply Does.set
    | with_reducible apply State.refuse_does
    | with_reducible apply State.regWrite_does
    | with_reducible exact ok_FAULT_MEND_GO (by decide)
    | with_reducible exact ok_FAULT_MEND_PENDING (by decide)
    | with_reducible exact ok_FAULT_MEND_STATUS (by decide)
    | with_reducible exact ok_FAULT_MEND_APPLY_AT_STEP (by decide)
    | with_reducible apply okField_ite
    | (with_reducible show Nat.testBit _ _ = true; decide)
    | (with_reducible show subMask _ _ = true; decide)
    | (intro _ _ _; beta_reduce)
    | with_reducible apply Does.ite
    | split
    | with_reducible apply Does.upd_fault
    | apply Does.ite
    | dsimp -zeta only
    | refine Does.sndOf (by assumption) ?_
    | refine Does.fstOf (by assumption) ?_

theorem State.reraiseUnserved_does {μ : Nat} {σ : State} (s : State) (hμ : subMask 16777232 μ = true) (hδ : Does μ σ s) :
    Does μ σ (State.reraiseUnserved s) := by
  refine Does.after (a := 16777232) ?_ hμ hδ
  clear hδ hμ
  unfold State.reraiseUnserved
  repeat' first
    | with_reducible assumption
    | with_reducible exact Does.rfl' _ _
    | (extract_lets +onlyGivenNames X_; refine Does.cut X_ ?_ ?_; (on_goal 2 => (intro _; clear_value X_)); (on_goal 1 => (dsimp -zeta only [X_]; clear X_)))
    | (extract_lets +onlyGivenNames X_; refine Does.cutOf (Prod.fst (α := State)) X_ ?_ ?_; (on_goal 2 => (intro _; clear_value X_)); (on_goal 1 => (dsimp -zeta only [X_]; clear X_)))
    | extract_lets +onlyGivenNames X_
    | with_reducible apply State.raiseFlag_does
    | with_reducible apply okField_ite
    | (with_reducible show Nat.testBit _ _ = true; decide)
    | (with_reducible show subMask _ _ = true; decide)
    | (intro _ _ _; beta_reduce)
    | with_reducible apply Does.ite
    | split
    | apply Does.ite
    | dsimp -zeta only
    | refine Does.sndOf (by assumption) ?_
    | refine Does.fstOf (by assumption) ?_

theorem State.noteLive_does {μ : Nat} {σ : State} (s : State) (page da n : Nat) (hμ : subMask 17179877376 μ = true) (hδ : Does μ σ s) :
    Does μ σ (State.noteLive s page da n) := by
  refine Does.after (a := 17179877376) ?_ hμ hδ
  clear hδ hμ
  unfold State.noteLive
  try dsimp -zeta only [State.fold_fault]
  repeat' first
    | with_reducible assumption
    | with_reducible exact Does.rfl' _ _
    | (extract_lets +onlyGivenNames X_; refine Does.cut X_ ?_ ?_; (on_goal 2 => (intro _; clear_value X_)); (on_goal 1 => (dsimp -zeta only [X_]; clear X_)))
    | (extract_lets +onlyGivenNames X_; refine Does.cutOf (Prod.fst (α := State)) X_ ?_ ?_; (on_goal 2 => (intro _; clear_value X_)); (on_goal 1 => (dsimp -zeta only [X_]; clear X_)))
    | extract_lets +onlyGivenNames X_
    | with_reducible apply Does.set
    | with_reducible apply Does.foldl
    | with_reducible apply Does.foldlFst
    | with_reducible exact ok_FAULT_MARKS_LIVE_GRANULES (by decide)
    | with_reducible apply okField_ite
    | (with_reducible show Nat.testBit _ _ = true; decide)
    | (with_reducible show subMask _ _ = true; decide)
    | (intro _ _ _; beta_reduce)
    | with_reducible apply Does.ite
    | split
    | with_reducible apply Does.upd_fault
    | apply Does.ite
    | dsimp -zeta only
    | refine Does.sndOf (by assumption) ?_
    | refine Does.fstOf (by assumption) ?_

theorem State.endRetire_does {μ : Nat} {σ : State} (s : State) (u : Nat) (hμ : subMask 17179877376 μ = true) (hδ : Does μ σ s) :
    Does μ σ (State.endRetire s u) := by
  refine Does.after (a := 17179877376) ?_ hμ hδ
  clear hδ hμ
  unfold State.endRetire
  try dsimp -zeta only [State.fold_fault]
  repeat' first
    | with_reducible assumption
    | with_reducible exact Does.rfl' _ _
    | (extract_lets +onlyGivenNames X_; refine Does.cut X_ ?_ ?_; (on_goal 2 => (intro _; clear_value X_)); (on_goal 1 => (dsimp -zeta only [X_]; clear X_)))
    | (extract_lets +onlyGivenNames X_; refine Does.cutOf (Prod.fst (α := State)) X_ ?_ ?_; (on_goal 2 => (intro _; clear_value X_)); (on_goal 1 => (dsimp -zeta only [X_]; clear X_)))
    | extract_lets +onlyGivenNames X_
    | with_reducible apply State.showRetire_does
    | with_reducible apply okField_ite
    | (with_reducible show Nat.testBit _ _ = true; decide)
    | (with_reducible show subMask _ _ = true; decide)
    | (intro _ _ _; beta_reduce)
    | with_reducible apply Does.ite
    | split
    | with_reducible apply Does.upd_fault
    | apply Does.ite
    | dsimp -zeta only
    | refine Does.sndOf (by assumption) ?_
    | refine Does.fstOf (by assumption) ?_

theorem State.recordLost_does {μ : Nat} {σ : State} (s : State) (u v : Nat) (hμ : subMask 17716765696 μ = true) (hδ : Does μ σ s) :
    Does μ σ (State.recordLost s u v) := by
  refine Does.after (a := 17716765696) ?_ hμ hδ
  clear hδ hμ
  unfold State.recordLost
  repeat' first
    | with_reducible assumption
    | with_reducible exact Does.rfl' _ _
    | (extract_lets +onlyGivenNames X_; refine Does.cut X_ ?_ ?_; (on_goal 2 => (intro _; clear_value X_)); (on_goal 1 => (dsimp -zeta only [X_]; clear X_)))
    | (extract_lets +onlyGivenNames X_; refine Does.cutOf (Prod.fst (α := State)) X_ ?_ ?_; (on_goal 2 => (intro _; clear_value X_)); (on_goal 1 => (dsimp -zeta only [X_]; clear X_)))
    | extract_lets +onlyGivenNames X_
    | with_reducible apply Does.set
    | with_reducible apply State.endRetire_does
    | with_reducible apply State.logEv_does
    | with_reducible exact ok_FAULT_STATUS_LAST_STATUS (by decide)
    | with_reducible exact ok_FAULT_UNIT_LAST_STATUS _ (blockOf_unitOff _) (by decide)
    | with_reducible exact ok_SKEIN_ERR_LAST_STATUS _ (by decide)
    | with_reducible exact ok_FAULT_LAST_UNIT (by decide)
    | with_reducible exact ok_FAULT_LAST_SPARE (by decide)
    | with_reducible apply okField_ite
    | (with_reducible show Nat.testBit _ _ = true; decide)
    | (with_reducible show subMask _ _ = true; decide)
    | (intro _ _ _; beta_reduce)
    | with_reducible apply Does.ite
    | split
    | apply Does.ite
    | dsimp -zeta only
    | refine Does.sndOf (by assumption) ?_
    | refine Does.fstOf (by assumption) ?_

theorem State.moveSegment_does {μ : Nat} {σ : State} (s : State) (u v : Nat) (hμ : subMask 512 μ = true) (hδ : Does μ σ s) :
    Does μ σ (State.moveSegment s u v) := by
  refine Does.after (a := 512) ?_ hμ hδ
  clear hδ hμ
  unfold State.moveSegment
  repeat' first
    | with_reducible assumption
    | with_reducible exact Does.rfl' _ _
    | (extract_lets +onlyGivenNames X_; refine Does.cut X_ ?_ ?_; (on_goal 2 => (intro _; clear_value X_)); (on_goal 1 => (dsimp -zeta only [X_]; clear X_)))
    | (extract_lets +onlyGivenNames X_; refine Does.cutOf (Prod.fst (α := State)) X_ ?_ ?_; (on_goal 2 => (intro _; clear_value X_)); (on_goal 1 => (dsimp -zeta only [X_]; clear X_)))
    | extract_lets +onlyGivenNames X_
    | with_reducible apply Does.set
    | with_reducible apply Does.forEach
    | with_reducible exact ok_CLU_SEGMENT_PROGRAM _ (by decide)
    | with_reducible exact ok_CLU_SEGMENT_LIFELINE _ (by decide)
    | with_reducible exact ok_CLU_SEGMENT_SLICE _ (by decide)
    | with_reducible exact ok_CLU_SEGMENT_MB _ (by decide)
    | with_reducible exact ok_CLU_SEGMENT_LEAD _ (by decide)
    | with_reducible exact ok_CLU_SEGMENT_REPLAY _ (by decide)
    | with_reducible exact ok_CLU_ERR_REPLAYED _ (by decide)
    | with_reducible exact ok_CLU_SEGMENT_BUSY _ (by decide)
    | with_reducible exact ok_CLU_ERR_LAST_STATUS _ (by decide)
    | with_reducible apply okField_ite
    | (with_reducible show Nat.testBit _ _ = true; decide)
    | (with_reducible show subMask _ _ = true; decide)
    | (intro _ _ _; beta_reduce)
    | with_reducible apply Does.ite
    | split
    | apply Does.ite
    | dsimp -zeta only
    | refine Does.sndOf (by assumption) ?_
    | refine Does.fstOf (by assumption) ?_

theorem State.wantPause_does {μ : Nat} {σ : State} (s : State) (len : Nat) (hμ : subMask 17179869184 μ = true) (hδ : Does μ σ s) :
    Does μ σ (State.wantPause s len) := by
  refine Does.after (a := 17179869184) ?_ hμ hδ
  clear hδ hμ
  unfold State.wantPause
  try dsimp -zeta only [State.fold_fault]
  repeat' first
    | with_reducible assumption
    | with_reducible exact Does.rfl' _ _
    | (extract_lets +onlyGivenNames X_; refine Does.cut X_ ?_ ?_; (on_goal 2 => (intro _; clear_value X_)); (on_goal 1 => (dsimp -zeta only [X_]; clear X_)))
    | (extract_lets +onlyGivenNames X_; refine Does.cutOf (Prod.fst (α := State)) X_ ?_ ?_; (on_goal 2 => (intro _; clear_value X_)); (on_goal 1 => (dsimp -zeta only [X_]; clear X_)))
    | extract_lets +onlyGivenNames X_
    | with_reducible apply okField_ite
    | (with_reducible show Nat.testBit _ _ = true; decide)
    | (with_reducible show subMask _ _ = true; decide)
    | (intro _ _ _; beta_reduce)
    | with_reducible apply Does.ite
    | split
    | with_reducible apply Does.upd_fault
    | apply Does.ite
    | dsimp -zeta only
    | refine Does.sndOf (by assumption) ?_
    | refine Does.fstOf (by assumption) ?_
    | (generalize ‹Option _› = w_; split)
    | (generalize ‹List _› = w_; split)

theorem State.failover_does {μ : Nat} {σ : State} (s : State) (u v : Nat) (hμ : subMask 155172496916 μ = true) (hδ : Does μ σ s) :
    Does μ σ (State.failover s u v) := by
  refine Does.after (a := 155172496916) ?_ hμ hδ
  clear hδ hμ
  unfold State.failover
  try dsimp -zeta only [State.fold_fault]
  repeat' first
    | with_reducible assumption
    | with_reducible exact Does.rfl' _ _
    | (extract_lets +onlyGivenNames X_; refine Does.cut X_ ?_ ?_; (on_goal 2 => (intro _; clear_value X_)); (on_goal 1 => (dsimp -zeta only [X_]; clear X_)))
    | (extract_lets +onlyGivenNames X_; refine Does.cutOf (Prod.fst (α := State)) X_ ?_ ?_; (on_goal 2 => (intro _; clear_value X_)); (on_goal 1 => (dsimp -zeta only [X_]; clear X_)))
    | extract_lets +onlyGivenNames X_
    | with_reducible apply Does.bump
    | with_reducible apply Does.addSat
    | with_reducible apply State.gateUnit_does
    | with_reducible apply State.moveSegment_does
    | with_reducible apply State.raiseFlag_does
    | with_reducible apply State.recordLost_does
    | with_reducible apply State.takePlace_does
    | with_reducible apply State.wakeUnit_does
    | with_reducible apply State.wantPause_does
    | with_reducible exact ok_FAULT_STATUS_FAILOVERS (by decide)
    | with_reducible exact ok_FAULT_STATUS_STEP_FAILOVERS (by decide)
    | with_reducible apply okField_ite
    | (with_reducible show Nat.testBit _ _ = true; decide)
    | (with_reducible show subMask _ _ = true; decide)
    | (intro _ _ _; beta_reduce)
    | with_reducible apply Does.ite
    | split
    | with_reducible apply Does.upd_fault
    | apply Does.ite
    | dsimp -zeta only
    | refine Does.sndOf (by assumption) ?_
    | refine Does.fstOf (by assumption) ?_

theorem State.leaveUnserved_does {μ : Nat} {σ : State} (s : State) (u : Nat) (hμ : subMask 17733543440 μ = true) (hδ : Does μ σ s) :
    Does μ σ (State.leaveUnserved s u) := by
  refine Does.after (a := 17733543440) ?_ hμ hδ
  clear hδ hμ
  unfold State.leaveUnserved
  try dsimp -zeta only [State.fold_fault]
  repeat' first
    | with_reducible assumption
    | with_reducible exact Does.rfl' _ _
    | (extract_lets +onlyGivenNames X_; refine Does.cut X_ ?_ ?_; (on_goal 2 => (intro _; clear_value X_)); (on_goal 1 => (dsimp -zeta only [X_]; clear X_)))
    | (extract_lets +onlyGivenNames X_; refine Does.cutOf (Prod.fst (α := State)) X_ ?_ ?_; (on_goal 2 => (intro _; clear_value X_)); (on_goal 1 => (dsimp -zeta only [X_]; clear X_)))
    | extract_lets +onlyGivenNames X_
    | with_reducible apply State.raiseFlag_does
    | with_reducible apply State.recordLost_does
    | with_reducible apply State.setNoSpare_does
    | with_reducible apply State.setUnit_does
    | with_reducible exact ok_unitLogicalF _ (by decide) (by decide) (by decide)
    | with_reducible apply okField_ite
    | (with_reducible show Nat.testBit _ _ = true; decide)
    | (with_reducible show subMask _ _ = true; decide)
    | (intro _ _ _; beta_reduce)
    | with_reducible apply Does.ite
    | split
    | with_reducible apply Does.upd_fault
    | apply Does.ite
    | dsimp -zeta only
    | refine Does.sndOf (by assumption) ?_
    | refine Does.fstOf (by assumption) ?_

theorem State.unitFault_does {μ : Nat} {σ : State} (s : State) (u : Nat) (hμ : subMask 155172496916 μ = true) (hδ : Does μ σ s) :
    Does μ σ (State.unitFault s u) := by
  refine Does.after (a := 155172496916) ?_ hμ hδ
  clear hδ hμ
  unfold State.unitFault
  repeat' first
    | with_reducible assumption
    | with_reducible exact Does.rfl' _ _
    | (extract_lets +onlyGivenNames X_; refine Does.cut X_ ?_ ?_; (on_goal 2 => (intro _; clear_value X_)); (on_goal 1 => (dsimp -zeta only [X_]; clear X_)))
    | (extract_lets +onlyGivenNames X_; refine Does.cutOf (Prod.fst (α := State)) X_ ?_ ?_; (on_goal 2 => (intro _; clear_value X_)); (on_goal 1 => (dsimp -zeta only [X_]; clear X_)))
    | extract_lets +onlyGivenNames X_
    | with_reducible apply State.failover_does
    | with_reducible apply State.leaveUnserved_does
    | with_reducible apply State.recordLost_does
    | with_reducible apply State.setUnit_does
    | with_reducible exact ok_unitStateF _ (by decide) (by decide) (by decide)
    | with_reducible apply okField_ite
    | (with_reducible show Nat.testBit _ _ = true; decide)
    | (with_reducible show subMask _ _ = true; decide)
    | (intro _ _ _; beta_reduce)
    | with_reducible apply Does.ite
    | split
    | apply Does.ite
    | dsimp -zeta only
    | refine Does.sndOf (by assumption) ?_
    | refine Does.fstOf (by assumption) ?_
    | (generalize ‹Option _› = w_; split)
    | (generalize ‹List _› = w_; split)

theorem State.loseChannel_does {μ : Nat} {σ : State} (s : State) (ch : Nat) (hμ : subMask 17733547536 μ = true) (hδ : Does μ σ s) :
    Does μ σ (State.loseChannel s ch) := by
  refine Does.after (a := 17733547536) ?_ hμ hδ
  clear hδ hμ
  unfold State.loseChannel
  try dsimp -zeta only [State.fold_fault]
  repeat' first
    | with_reducible assumption
    | with_reducible exact Does.rfl' _ _
    | (extract_lets +onlyGivenNames X_; refine Does.cut X_ ?_ ?_; (on_goal 2 => (intro _; clear_value X_)); (on_goal 1 => (dsimp -zeta only [X_]; clear X_)))
    | (extract_lets +onlyGivenNames X_; refine Does.cutOf (Prod.fst (α := State)) X_ ?_ ?_; (on_goal 2 => (intro _; clear_value X_)); (on_goal 1 => (dsimp -zeta only [X_]; clear X_)))
    | extract_lets +onlyGivenNames X_
    | with_reducible apply Does.set
    | with_reducible apply State.dropCopies_does
    | with_reducible apply State.raiseFlag_does
    | with_reducible apply State.recordLost_does
    | with_reducible apply State.setNoSpare_does
    | with_reducible apply State.setUnit_does
    | with_reducible apply State.showStack_does
    | with_reducible exact ok_FAULT_MARKS_LOST_GRANULES (by decide)
    | with_reducible exact ok_unitStateF _ (by decide) (by decide) (by decide)
    | with_reducible exact ok_unitLogicalF _ (by decide) (by decide) (by decide)
    | with_reducible apply okField_ite
    | (with_reducible show Nat.testBit _ _ = true; decide)
    | (with_reducible show subMask _ _ = true; decide)
    | (intro _ _ _; beta_reduce)
    | with_reducible apply Does.ite
    | split
    | with_reducible apply Does.upd_fault
    | apply Does.ite
    | dsimp -zeta only
    | refine Does.sndOf (by assumption) ?_
    | refine Does.fstOf (by assumption) ?_
    | (generalize ‹Option _› = w_; split)
    | (generalize ‹List _› = w_; split)

theorem State.coreFault_does {μ : Nat} {σ : State} (s : State) (i : Nat) (hμ : subMask 17733543440 μ = true) (hδ : Does μ σ s) :
    Does μ σ (State.coreFault s i) := by
  refine Does.after (a := 17733543440) ?_ hμ hδ
  clear hδ hμ
  unfold State.coreFault
  try dsimp -zeta only [State.fold_fault]
  repeat' first
    | with_reducible assumption
    | with_reducible exact Does.rfl' _ _
    | (extract_lets +onlyGivenNames X_; refine Does.cut X_ ?_ ?_; (on_goal 2 => (intro _; clear_value X_)); (on_goal 1 => (dsimp -zeta only [X_]; clear X_)))
    | (extract_lets +onlyGivenNames X_; refine Does.cutOf (Prod.fst (α := State)) X_ ?_ ?_; (on_goal 2 => (intro _; clear_value X_)); (on_goal 1 => (dsimp -zeta only [X_]; clear X_)))
    | extract_lets +onlyGivenNames X_
    | with_reducible apply State.raiseFlag_does
    | with_reducible apply State.recordLost_does
    | with_reducible apply State.setNoSpare_does
    | with_reducible apply State.setUnit_does
    | with_reducible exact ok_unitStateF _ (by decide) (by decide) (by decide)
    | with_reducible exact ok_unitLogicalF _ (by decide) (by decide) (by decide)
    | with_reducible apply okField_ite
    | (with_reducible show Nat.testBit _ _ = true; decide)
    | (with_reducible show subMask _ _ = true; decide)
    | (intro _ _ _; beta_reduce)
    | with_reducible apply Does.ite
    | split
    | with_reducible apply Does.upd_fault
    | apply Does.ite
    | dsimp -zeta only
    | refine Does.sndOf (by assumption) ?_
    | refine Does.fstOf (by assumption) ?_
    | (generalize ‹Option _› = w_; split)
    | (generalize ‹List _› = w_; split)

theorem State.startCopy_does {μ : Nat} {σ : State} (s : State) (u : Nat) (hμ : subMask 17179881472 μ = true) (hδ : Does μ σ s) :
    Does μ σ (State.startCopy s u) := by
  refine Does.after (a := 17179881472) ?_ hμ hδ
  clear hδ hμ
  unfold State.startCopy
  try dsimp -zeta only [State.fold_fault]
  repeat' first
    | with_reducible assumption
    | with_reducible exact Does.rfl' _ _
    | (extract_lets +onlyGivenNames X_; refine Does.cut X_ ?_ ?_; (on_goal 2 => (intro _; clear_value X_)); (on_goal 1 => (dsimp -zeta only [X_]; clear X_)))
    | (extract_lets +onlyGivenNames X_; refine Does.cutOf (Prod.fst (α := State)) X_ ?_ ?_; (on_goal 2 => (intro _; clear_value X_)); (on_goal 1 => (dsimp -zeta only [X_]; clear X_)))
    | extract_lets +onlyGivenNames X_
    | with_reducible apply Does.set
    | with_reducible exact ok_FAULT_STATUS_COPYING (by decide)
    | with_reducible exact ok_HBM_STACK_STATE _ (by decide)
    | with_reducible apply okField_ite
    | (with_reducible show Nat.testBit _ _ = true; decide)
    | (with_reducible show subMask _ _ = true; decide)
    | (intro _ _ _; beta_reduce)
    | with_reducible apply Does.ite
    | split
    | with_reducible apply Does.upd_fault
    | apply Does.ite
    | dsimp -zeta only
    | refine Does.sndOf (by assumption) ?_
    | refine Does.fstOf (by assumption) ?_
    | (generalize ‹Option _› = w_; split)
    | (generalize ‹List _› = w_; split)

theorem State.retire_does {μ : Nat} {σ : State} (s : State) (u : Nat) (hμ : subMask 17716770304 μ = true) (hδ : Does μ σ s) :
    Does μ σ (State.retire s u) := by
  refine Does.after (a := 17716770304) ?_ hμ hδ
  clear hδ hμ
  unfold State.retire
  try dsimp -zeta only [State.fold_fault]
  repeat' first
    | with_reducible assumption
    | with_reducible exact Does.rfl' _ _
    | (extract_lets +onlyGivenNames X_; refine Does.cut X_ ?_ ?_; (on_goal 2 => (intro _; clear_value X_)); (on_goal 1 => (dsimp -zeta only [X_]; clear X_)))
    | (extract_lets +onlyGivenNames X_; refine Does.cutOf (Prod.fst (α := State)) X_ ?_ ?_; (on_goal 2 => (intro _; clear_value X_)); (on_goal 1 => (dsimp -zeta only [X_]; clear X_)))
    | extract_lets +onlyGivenNames X_
    | with_reducible apply Does.set
    | with_reducible apply State.logEv_does
    | with_reducible apply State.startCopy_does
    | with_reducible exact ok_FAULT_STATUS_RETIRE_PENDING (by decide)
    | with_reducible exact ok_unitStateF _ (by decide) (by decide) (by decide)
    | with_reducible apply okField_ite
    | (with_reducible show Nat.testBit _ _ = true; decide)
    | (with_reducible show subMask _ _ = true; decide)
    | (intro _ _ _; beta_reduce)
    | with_reducible apply Does.ite
    | split
    | with_reducible apply Does.upd_fault
    | apply Does.ite
    | dsimp -zeta only
    | refine Does.sndOf (by assumption) ?_
    | refine Does.fstOf (by assumption) ?_
    | (generalize ‹Option _› = w_; split)
    | (generalize ‹List _› = w_; split)

theorem State.correctable_does {μ : Nat} {σ : State} (s : State) (u : Nat) (hμ : subMask 17716770304 μ = true) (hδ : Does μ σ s) :
    Does μ σ (State.correctable s u) := by
  refine Does.after (a := 17716770304) ?_ hμ hδ
  clear hδ hμ
  unfold State.correctable
  try dsimp -zeta only [State.fold_fault]
  repeat' first
    | with_reducible assumption
    | with_reducible exact Does.rfl' _ _
    | (extract_lets +onlyGivenNames X_; refine Does.cut X_ ?_ ?_; (on_goal 2 => (intro _; clear_value X_)); (on_goal 1 => (dsimp -zeta only [X_]; clear X_)))
    | (extract_lets +onlyGivenNames X_; refine Does.cutOf (Prod.fst (α := State)) X_ ?_ ?_; (on_goal 2 => (intro _; clear_value X_)); (on_goal 1 => (dsimp -zeta only [X_]; clear X_)))
    | extract_lets +onlyGivenNames X_
    | with_reducible apply Does.set
    | with_reducible apply Does.addSat
    | with_reducible apply State.logEv_does
    | with_reducible apply State.retire_does
    | with_reducible exact ok_FAULT_UNIT_CE _ (blockOf_unitOff _) (by decide)
    | with_reducible exact ok_HBM_STACK_CE _ (by decide)
    | with_reducible exact ok_unitStateF _ (by decide) (by decide) (by decide)
    | with_reducible apply okField_ite
    | (with_reducible show Nat.testBit _ _ = true; decide)
    | (with_reducible show subMask _ _ = true; decide)
    | (intro _ _ _; beta_reduce)
    | with_reducible apply Does.ite
    | split
    | with_reducible apply Does.upd_fault
    | apply Does.ite
    | dsimp -zeta only
    | refine Does.sndOf (by assumption) ?_
    | refine Does.fstOf (by assumption) ?_

theorem execCorrectableError_does (u : BitVec 16) (s : State) (τ : State) (hδ : execCorrectableError u s = .next τ) : Does 17716770304 s τ := by
  unfold execCorrectableError at hδ
  obtain rfl := Host.Outcome.next.inj hδ
  clear hδ
  repeat' first
    | with_reducible assumption
    | with_reducible exact Does.rfl' _ _
    | (extract_lets +onlyGivenNames X_; refine Does.cut X_ ?_ ?_; (on_goal 2 => (intro _; clear_value X_)); (on_goal 1 => (dsimp -zeta only [X_]; clear X_)))
    | (extract_lets +onlyGivenNames X_; refine Does.cutOf (Prod.fst (α := State)) X_ ?_ ?_; (on_goal 2 => (intro _; clear_value X_)); (on_goal 1 => (dsimp -zeta only [X_]; clear X_)))
    | extract_lets +onlyGivenNames X_
    | with_reducible apply State.correctable_does
    | with_reducible apply okField_ite
    | (with_reducible show Nat.testBit _ _ = true; decide)
    | (with_reducible show subMask _ _ = true; decide)
    | (intro _ _ _; beta_reduce)
    | with_reducible apply Does.ite
    | split
    | apply Does.ite
    | dsimp -zeta only
    | refine Does.sndOf (by assumption) ?_
    | refine Does.fstOf (by assumption) ?_

theorem execChannelCopyDone_does (s : State) (τ : State) (hδ : execChannelCopyDone s = .next τ) : Does 17179881472 s τ := by
  unfold execChannelCopyDone at hδ
  obtain rfl := Host.Outcome.next.inj hδ
  clear hδ
  try dsimp -zeta only [State.fold_fault]
  repeat' first
    | with_reducible assumption
    | with_reducible exact Does.rfl' _ _
    | (extract_lets +onlyGivenNames X_; refine Does.cut X_ ?_ ?_; (on_goal 2 => (intro _; clear_value X_)); (on_goal 1 => (dsimp -zeta only [X_]; clear X_)))
    | (extract_lets +onlyGivenNames X_; refine Does.cutOf (Prod.fst (α := State)) X_ ?_ ?_; (on_goal 2 => (intro _; clear_value X_)); (on_goal 1 => (dsimp -zeta only [X_]; clear X_)))
    | extract_lets +onlyGivenNames X_
    | with_reducible apply Does.set
    | with_reducible apply State.showRetire_does
    | with_reducible exact ok_HBM_STACK_STATE _ (by decide)
    | with_reducible apply okField_ite
    | (with_reducible show Nat.testBit _ _ = true; decide)
    | (with_reducible show subMask _ _ = true; decide)
    | (intro _ _ _; beta_reduce)
    | with_reducible apply Does.ite
    | split
    | with_reducible apply Does.upd_fault
    | apply Does.ite
    | dsimp -zeta only
    | refine Does.sndOf (by assumption) ?_
    | refine Does.fstOf (by assumption) ?_
    | (generalize ‹Option _› = w_; split)
    | (generalize ‹List _› = w_; split)

theorem execChannelLoss_does (ch : Fin 256) (s : State) (τ : State) (hδ : execChannelLoss ch s = .next τ) : Does 17733547536 s τ := by
  unfold execChannelLoss at hδ
  obtain rfl := Host.Outcome.next.inj hδ
  clear hδ
  repeat' first
    | with_reducible assumption
    | with_reducible exact Does.rfl' _ _
    | (extract_lets +onlyGivenNames X_; refine Does.cut X_ ?_ ?_; (on_goal 2 => (intro _; clear_value X_)); (on_goal 1 => (dsimp -zeta only [X_]; clear X_)))
    | (extract_lets +onlyGivenNames X_; refine Does.cutOf (Prod.fst (α := State)) X_ ?_ ?_; (on_goal 2 => (intro _; clear_value X_)); (on_goal 1 => (dsimp -zeta only [X_]; clear X_)))
    | extract_lets +onlyGivenNames X_
    | with_reducible apply State.loseChannel_does
    | with_reducible apply okField_ite
    | (with_reducible show Nat.testBit _ _ = true; decide)
    | (with_reducible show subMask _ _ = true; decide)
    | (intro _ _ _; beta_reduce)
    | with_reducible apply Does.ite
    | split
    | apply Does.ite
    | dsimp -zeta only
    | refine Does.sndOf (by assumption) ?_
    | refine Does.fstOf (by assumption) ?_

theorem execControlCoreFault_does (i : Fin 5) (s : State) (τ : State) (hδ : execControlCoreFault i s = .next τ) : Does 17733543440 s τ := by
  unfold execControlCoreFault at hδ
  obtain rfl := Host.Outcome.next.inj hδ
  clear hδ
  repeat' first
    | with_reducible assumption
    | with_reducible exact Does.rfl' _ _
    | (extract_lets +onlyGivenNames X_; refine Does.cut X_ ?_ ?_; (on_goal 2 => (intro _; clear_value X_)); (on_goal 1 => (dsimp -zeta only [X_]; clear X_)))
    | (extract_lets +onlyGivenNames X_; refine Does.cutOf (Prod.fst (α := State)) X_ ?_ ?_; (on_goal 2 => (intro _; clear_value X_)); (on_goal 1 => (dsimp -zeta only [X_]; clear X_)))
    | extract_lets +onlyGivenNames X_
    | with_reducible apply State.coreFault_does
    | with_reducible apply okField_ite
    | (with_reducible show Nat.testBit _ _ = true; decide)
    | (with_reducible show subMask _ _ = true; decide)
    | (intro _ _ _; beta_reduce)
    | with_reducible apply Does.ite
    | split
    | apply Does.ite
    | dsimp -zeta only
    | refine Does.sndOf (by assumption) ?_
    | refine Does.fstOf (by assumption) ?_

theorem execLockstepMismatch_does (pair : Fin 2) (s : State) (τ : State) (hδ : execLockstepMismatch pair s = .next τ) : Does 17741932048 s τ := by
  unfold execLockstepMismatch at hδ
  obtain rfl := Host.Outcome.next.inj hδ
  clear hδ
  try dsimp -zeta only [State.fold_fault]
  repeat' first
    | with_reducible assumption
    | with_reducible exact Does.rfl' _ _
    | (extract_lets +onlyGivenNames X_; refine Does.cut X_ ?_ ?_; (on_goal 2 => (intro _; clear_value X_)); (on_goal 1 => (dsimp -zeta only [X_]; clear X_)))
    | (extract_lets +onlyGivenNames X_; refine Does.cutOf (Prod.fst (α := State)) X_ ?_ ?_; (on_goal 2 => (intro _; clear_value X_)); (on_goal 1 => (dsimp -zeta only [X_]; clear X_)))
    | extract_lets +onlyGivenNames X_
    | with_reducible apply State.coreFault_does
    | with_reducible apply State.fresh_does
    | with_reducible apply okField_ite
    | (with_reducible show Nat.testBit _ _ = true; decide)
    | (with_reducible show subMask _ _ = true; decide)
    | (intro _ _ _; beta_reduce)
    | with_reducible apply Does.ite
    | split
    | with_reducible apply Does.upd_fault
    | apply Does.ite
    | dsimp -zeta only
    | refine Does.sndOf (by assumption) ?_
    | refine Does.fstOf (by assumption) ?_
    | (generalize ‹Option _› = w_; split)
    | (generalize ‹List _› = w_; split)

theorem execMend_does (m : Master) (v : BitVec 64) (s : State) (τ : State) (hδ : execMend m v s = .next τ) : Does 17716764672 s τ := by
  unfold execMend at hδ
  obtain rfl := Host.Outcome.next.inj hδ
  clear hδ
  repeat' first
    | with_reducible assumption
    | with_reducible exact Does.rfl' _ _
    | (extract_lets +onlyGivenNames X_; refine Does.cut X_ ?_ ?_; (on_goal 2 => (intro _; clear_value X_)); (on_goal 1 => (dsimp -zeta only [X_]; clear X_)))
    | (extract_lets +onlyGivenNames X_; refine Does.cutOf (Prod.fst (α := State)) X_ ?_ ?_; (on_goal 2 => (intro _; clear_value X_)); (on_goal 1 => (dsimp -zeta only [X_]; clear X_)))
    | extract_lets +onlyGivenNames X_
    | with_reducible apply State.writeMend_does
    | with_reducible apply okField_ite
    | (with_reducible show Nat.testBit _ _ = true; decide)
    | (with_reducible show subMask _ _ = true; decide)
    | (intro _ _ _; beta_reduce)
    | with_reducible apply Does.ite
    | split
    | apply Does.ite
    | dsimp -zeta only
    | refine Does.sndOf (by assumption) ?_
    | refine Does.fstOf (by assumption) ?_

theorem State.mendTested_does {μ : Nat} {σ : State} (s : State) (m : Mend) (pass : Bool) (hμ : subMask 155155723780 μ = true) (hδ : Does μ σ s) :
    Does μ σ (State.mendTested s m pass) := by
  refine Does.after (a := 155155723780) ?_ hμ hδ
  clear hδ hμ
  unfold State.mendTested
  try dsimp -zeta only [State.fold_fault]
  repeat' first
    | with_reducible assumption
    | with_reducible exact Does.rfl' _ _
    | (extract_lets +onlyGivenNames X_; refine Does.cut X_ ?_ ?_; (on_goal 2 => (intro _; clear_value X_)); (on_goal 1 => (dsimp -zeta only [X_]; clear X_)))
    | (extract_lets +onlyGivenNames X_; refine Does.cutOf (Prod.fst (α := State)) X_ ?_ ?_; (on_goal 2 => (intro _; clear_value X_)); (on_goal 1 => (dsimp -zeta only [X_]; clear X_)))
    | extract_lets +onlyGivenNames X_
    | with_reducible apply Does.set
    | with_reducible apply State.applyMend_does
    | with_reducible apply State.endMend_does
    | with_reducible apply State.logEv_does
    | with_reducible exact ok_FAULT_MEND_STATUS (by decide)
    | with_reducible exact ok_FAULT_UNIT_LAST_STATUS _ (blockOf_unitOff _) (by decide)
    | with_reducible exact ok_FAULT_STATUS_LAST_STATUS (by decide)
    | with_reducible exact ok_FAULT_MEND_APPLY_AT_STEP (by decide)
    | with_reducible exact ok_unitStateF _ (by decide) (by decide) (by decide)
    | with_reducible apply okField_ite
    | (with_reducible show Nat.testBit _ _ = true; decide)
    | (with_reducible show subMask _ _ = true; decide)
    | (intro _ _ _; beta_reduce)
    | with_reducible apply Does.ite
    | split
    | with_reducible apply Does.upd_fault
    | apply Does.ite
    | dsimp -zeta only
    | refine Does.sndOf (by assumption) ?_
    | refine Does.fstOf (by assumption) ?_

theorem execMendSelfTestDone_does (u : BitVec 16) (pass : Bool) (s : State) (τ : State) (hδ : execMendSelfTestDone u pass s = .next τ) : Does 155155723780 s τ := by
  unfold execMendSelfTestDone at hδ
  obtain rfl := Host.Outcome.next.inj hδ
  clear hδ
  repeat' first
    | with_reducible assumption
    | with_reducible exact Does.rfl' _ _
    | (extract_lets +onlyGivenNames X_; refine Does.cut X_ ?_ ?_; (on_goal 2 => (intro _; clear_value X_)); (on_goal 1 => (dsimp -zeta only [X_]; clear X_)))
    | (extract_lets +onlyGivenNames X_; refine Does.cutOf (Prod.fst (α := State)) X_ ?_ ?_; (on_goal 2 => (intro _; clear_value X_)); (on_goal 1 => (dsimp -zeta only [X_]; clear X_)))
    | extract_lets +onlyGivenNames X_
    | with_reducible apply State.mendTested_does
    | with_reducible apply okField_ite
    | (with_reducible show Nat.testBit _ _ = true; decide)
    | (with_reducible show subMask _ _ = true; decide)
    | (intro _ _ _; beta_reduce)
    | with_reducible apply Does.ite
    | split
    | apply Does.ite
    | dsimp -zeta only
    | refine Does.sndOf (by assumption) ?_
    | refine Does.fstOf (by assumption) ?_
    | (generalize ‹Option _› = w_; split)
    | (generalize ‹List _› = w_; split)

theorem execCorrectableWindowEnd_does (s : State) (τ : State) (hδ : execCorrectableWindowEnd s = .next τ) : Does 17247514640 s τ := by
  unfold execCorrectableWindowEnd at hδ
  obtain rfl := Host.Outcome.next.inj hδ
  clear hδ
  try dsimp -zeta only [State.fold_fault]
  repeat' first
    | (extract_lets +onlyGivenNames X_; refine Does.cut X_ ?_ ?_; (on_goal 2 => (intro _; clear_value X_)); (on_goal 1 => (dsimp -zeta only [X_]; clear X_)))
    | (extract_lets +onlyGivenNames X_; refine Does.cutOf (Prod.fst (α := State)) X_ ?_ ?_; (on_goal 2 => (intro _; clear_value X_)); (on_goal 1 => (dsimp -zeta only [X_]; clear X_)))
    | extract_lets +onlyGivenNames X_
    | with_reducible assumption
    | with_reducible exact Does.rfl' _ _
    | with_reducible apply Does.set
    | with_reducible apply Does.forEach
    | with_reducible apply State.advance_does
    | with_reducible exact ok_HBM_STACK_CE _ (by decide)
    | with_reducible exact ok_FAULT_UNIT_CE _ (by decide) (by decide)
    | with_reducible exact ok_FAULT_UNIT_CE _ (blockOf_unitOff _) (by decide)
    | with_reducible apply okField_ite
    | (with_reducible show Nat.testBit _ _ = true; decide)
    | (with_reducible show subMask _ _ = true; decide)
    | (intro _ _ _; beta_reduce)
    | with_reducible apply Does.ite
    | split
    | with_reducible apply Does.upd_fault
    | apply Does.ite

theorem execControlCoreJoin_does (s : State) (τ : State) (hδ : execControlCoreJoin s = .next τ) : Does 17179878912 s τ := by
  unfold execControlCoreJoin at hδ
  obtain rfl := Host.Outcome.next.inj hδ
  clear hδ
  repeat' first
    | with_reducible assumption
    | with_reducible exact Does.rfl' _ _
    | (extract_lets +onlyGivenNames X_; refine Does.cut X_ ?_ ?_; (on_goal 2 => (intro _; clear_value X_)); (on_goal 1 => (dsimp -zeta only [X_]; clear X_)))
    | (extract_lets +onlyGivenNames X_; refine Does.cutOf (Prod.fst (α := State)) X_ ?_ ?_; (on_goal 2 => (intro _; clear_value X_)); (on_goal 1 => (dsimp -zeta only [X_]; clear X_)))
    | extract_lets +onlyGivenNames X_
    | with_reducible apply State.joinCore_does
    | with_reducible apply okField_ite
    | (with_reducible show Nat.testBit _ _ = true; decide)
    | (with_reducible show subMask _ _ = true; decide)
    | (intro _ _ _; beta_reduce)
    | with_reducible apply Does.ite
    | split
    | apply Does.ite
    | dsimp -zeta only
    | refine Does.sndOf (by assumption) ?_
    | refine Does.fstOf (by assumption) ?_
    | (generalize ‹Option _› = w_; split)
    | (generalize ‹List _› = w_; split)

end Sys2Proof.Machine
end

