-- ==== Sys2Proof/Laws/FPower.lean ====
section
/-! SUPPORT. Laws/FPower.lean: what every operation of Machine/Power.lean leaves alone (see Laws/Frame.lean). -/

set_option linter.unreachableTactic false
set_option linter.unusedTactic false
set_option linter.tactic.unusedName false

namespace Sys2Proof.Machine

theorem State.assignKind_does {μ : Nat} {σ : State} (s : State) (m : List Byte) (k count : Nat) (hμ : subMask 17179878912 μ = true) (hδ : Does μ σ s) :
    Does μ σ (State.assignKind s m k count) := by
  refine Does.after (a := 17179878912) ?_ hμ hδ
  clear hδ hμ
  unfold State.assignKind
  try dsimp -zeta only [State.fold_fault]
  repeat' first
    | with_reducible assumption
    | with_reducible exact Does.rfl' _ _
    | (extract_lets +onlyGivenNames X_; refine Does.cut X_ ?_ ?_; (on_goal 2 => (intro _; clear_value X_)); (on_goal 1 => (dsimp -zeta only [X_]; clear X_)))
    | (extract_lets +onlyGivenNames X_; refine Does.cutOf (Prod.fst (α := State)) X_ ?_ ?_; (on_goal 2 => (intro _; clear_value X_)); (on_goal 1 => (dsimp -zeta only [X_]; clear X_)))
    | extract_lets +onlyGivenNames X_
    | with_reducible apply State.setUnit_does
    | with_reducible apply Does.foldl
    | with_reducible apply Does.foldlFst
    | with_reducible exact ok_unitStateF _ (by decide) (by decide) (by decide)
    | with_reducible apply okField_ite
    | (with_reducible show Nat.testBit _ _ = true; decide)
    | (with_reducible show subMask _ _ = true; decide)
    | (intro _ _ _; beta_reduce)
    | with_reducible apply Does.ite
    | split
    | with_reducible apply Does.upd_fault
    | apply Does.ite
    | dsimp -zeta only
    | refine Does.sndOf (by assumption) ?_
    | refine Does.fstOf (by assumption) ?_

theorem State.settleKept_does {μ : Nat} {σ : State} (s : State) (us : List Nat) (hμ : subMask 9728 μ = true) (hδ : Does μ σ s) :
    Does μ σ (State.settleKept s us) := by
  refine Does.after (a := 9728) ?_ hμ hδ
  clear hδ hμ
  unfold State.settleKept
  repeat' first
    | with_reducible assumption
    | with_reducible exact Does.rfl' _ _
    | (extract_lets +onlyGivenNames X_; refine Does.cut X_ ?_ ?_; (on_goal 2 => (intro _; clear_value X_)); (on_goal 1 => (dsimp -zeta only [X_]; clear X_)))
    | (extract_lets +onlyGivenNames X_; refine Does.cutOf (Prod.fst (α := State)) X_ ?_ ?_; (on_goal 2 => (intro _; clear_value X_)); (on_goal 1 => (dsimp -zeta only [X_]; clear X_)))
    | extract_lets +onlyGivenNames X_
    | with_reducible apply Does.set
    | with_reducible apply State.setUnit_does
    | with_reducible apply Does.forEach
    | with_reducible exact ok_unitStateF _ (by decide) (by decide) (by decide)
    | with_reducible apply okField_ite
    | (with_reducible show Nat.testBit _ _ = true; decide)
    | (with_reducible show subMask _ _ = true; decide)
    | (intro _ _ _; beta_reduce)
    | with_reducible apply Does.ite
    | split
    | apply Does.ite
    | dsimp -zeta only
    | refine Does.sndOf (by assumption) ?_
    | refine Does.fstOf (by assumption) ?_

theorem State.assignStack_does {μ : Nat} {σ : State} (s : State) (m : List Byte) (k : Nat) (hμ : subMask 13824 μ = true) (hδ : Does μ σ s) :
    Does μ σ (State.assignStack s m k) := by
  refine Does.after (a := 13824) ?_ hμ hδ
  clear hδ hμ
  unfold State.assignStack
  repeat' first
    | with_reducible assumption
    | with_reducible exact Does.rfl' _ _
    | (extract_lets +onlyGivenNames X_; refine Does.cut X_ ?_ ?_; (on_goal 2 => (intro _; clear_value X_)); (on_goal 1 => (dsimp -zeta only [X_]; clear X_)))
    | (extract_lets +onlyGivenNames X_; refine Does.cutOf (Prod.fst (α := State)) X_ ?_ ?_; (on_goal 2 => (intro _; clear_value X_)); (on_goal 1 => (dsimp -zeta only [X_]; clear X_)))
    | extract_lets +onlyGivenNames X_
    | with_reducible apply Does.set
    | with_reducible apply State.setUnit_does
    | with_reducible apply State.settleKept_does
    | with_reducible apply State.showStack_does
    | with_reducible apply Does.forEach
    | with_reducible exact ok_HBM_STACK_SPARE _ (by decide)
    | with_reducible apply okField_ite
    | (with_reducible show Nat.testBit _ _ = true; decide)
    | (with_reducible show subMask _ _ = true; decide)
    | (intro _ _ _; beta_reduce)
    | with_reducible apply Does.ite
    | split
    | apply Does.ite
    | dsimp -zeta only
    | refine Does.sndOf (by assumption) ?_
    | refine Does.fstOf (by assumption) ?_

theorem State.assignPort_does {μ : Nat} {σ : State} (s : State) (m : List Byte) (p : Nat) (hμ : subMask 11776 μ = true) (hδ : Does μ σ s) :
    Does μ σ (State.assignPort s m p) := by
  refine Does.after (a := 11776) ?_ hμ hδ
  clear hδ hμ
  unfold State.assignPort
  repeat' first
    | with_reducible assumption
    | with_reducible exact Does.rfl' _ _
    | (extract_lets +onlyGivenNames X_; refine Does.cut X_ ?_ ?_; (on_goal 2 => (intro _; clear_value X_)); (on_goal 1 => (dsimp -zeta only [X_]; clear X_)))
    | (extract_lets +onlyGivenNames X_; refine Does.cutOf (Prod.fst (α := State)) X_ ?_ ?_; (on_goal 2 => (intro _; clear_value X_)); (on_goal 1 => (dsimp -zeta only [X_]; clear X_)))
    | extract_lets +onlyGivenNames X_
    | with_reducible apply Does.set
    | with_reducible apply State.setUnit_does
    | with_reducible apply State.settleKept_does
    | with_reducible apply Does.forEach
    | with_reducible apply Does.foldl
    | with_reducible apply Does.foldlFst
    | with_reducible exact ok_CDP_MODMAP_FAILED _ (by decide)
    | with_reducible exact ok_CDP_MODMAP_PHYS _ (by decide)
    | with_reducible apply okField_ite
    | (with_reducible show Nat.testBit _ _ = true; decide)
    | (with_reducible show subMask _ _ = true; decide)
    | (intro _ _ _; beta_reduce)
    | with_reducible apply Does.ite
    | split
    | apply Does.ite
    | dsimp -zeta only
    | refine Does.sndOf (by assumption) ?_
    | refine Does.fstOf (by assumption) ?_

theorem State.bootNoSpare_does {μ : Nat} {σ : State} (s : State) (hμ : subMask 8192 μ = true) (hδ : Does μ σ s) :
    Does μ σ (State.bootNoSpare s) := by
  refine Does.after (a := 8192) ?_ hμ hδ
  clear hδ hμ
  unfold State.bootNoSpare
  repeat' first
    | with_reducible assumption
    | with_reducible exact Does.rfl' _ _
    | (extract_lets +onlyGivenNames X_; refine Does.cut X_ ?_ ?_; (on_goal 2 => (intro _; clear_value X_)); (on_goal 1 => (dsimp -zeta only [X_]; clear X_)))
    | (extract_lets +onlyGivenNames X_; refine Does.cutOf (Prod.fst (α := State)) X_ ?_ ?_; (on_goal 2 => (intro _; clear_value X_)); (on_goal 1 => (dsimp -zeta only [X_]; clear X_)))
    | extract_lets +onlyGivenNames X_
    | with_reducible apply Does.set
    | with_reducible apply State.setNoSpare_does
    | with_reducible apply Does.forEach
    | with_reducible exact ok_FAULT_STATUS_NO_SPARE (by decide)
    | with_reducible exact ok_unitStateF _ (by decide) (by decide) (by decide)
    | with_reducible apply okField_ite
    | (with_reducible show Nat.testBit _ _ = true; decide)
    | (with_reducible show subMask _ _ = true; decide)
    | (intro _ _ _; beta_reduce)
    | with_reducible apply Does.ite
    | split
    | apply Does.ite
    | dsimp -zeta only
    | refine Does.sndOf (by assumption) ?_
    | refine Does.fstOf (by assumption) ?_

theorem State.assignUnits_does {μ : Nat} {σ : State} (s : State) (m : List Byte) (hμ : subMask 17179885056 μ = true) (hδ : Does μ σ s) :
    Does μ σ (State.assignUnits s m) := by
  refine Does.after (a := 17179885056) ?_ hμ hδ
  clear hδ hμ
  unfold State.assignUnits
  repeat' first
    | with_reducible assumption
    | with_reducible exact Does.rfl' _ _
    | (extract_lets +onlyGivenNames X_; refine Does.cut X_ ?_ ?_; (on_goal 2 => (intro _; clear_value X_)); (on_goal 1 => (dsimp -zeta only [X_]; clear X_)))
    | (extract_lets +onlyGivenNames X_; refine Does.cutOf (Prod.fst (α := State)) X_ ?_ ?_; (on_goal 2 => (intro _; clear_value X_)); (on_goal 1 => (dsimp -zeta only [X_]; clear X_)))
    | extract_lets +onlyGivenNames X_
    | with_reducible apply State.assignKind_does
    | with_reducible apply State.assignPort_does
    | with_reducible apply State.assignStack_does
    | with_reducible apply State.bootNoSpare_does
    | with_reducible apply Does.forEach
    | with_reducible apply okField_ite
    | (with_reducible show Nat.testBit _ _ = true; decide)
    | (with_reducible show subMask _ _ = true; decide)
    | (intro _ _ _; beta_reduce)
    | with_reducible apply Does.ite
    | split
    | apply Does.ite
    | dsimp -zeta only
    | refine Does.sndOf (by assumption) ?_
    | refine Does.fstOf (by assumption) ?_

theorem State.runImage_does {μ : Nat} {σ : State} (s : State) (slot : Nat) (b : List Byte) (hμ : subMask 154618838534 μ = true) (hδ : Does μ σ s) :
    Does μ σ (State.runImage s slot b) := by
  refine Does.after (a := 154618838534) ?_ hμ hδ
  clear hδ hμ
  unfold State.runImage
  try dsimp -zeta only [State.fold_pwr]
  repeat' first
    | with_reducible assumption
    | with_reducible exact Does.rfl' _ _
    | (extract_lets +onlyGivenNames X_; refine Does.cut X_ ?_ ?_; (on_goal 2 => (intro _; clear_value X_)); (on_goal 1 => (dsimp -zeta only [X_]; clear X_)))
    | (extract_lets +onlyGivenNames X_; refine Does.cutOf (Prod.fst (α := State)) X_ ?_ ?_; (on_goal 2 => (intro _; clear_value X_)); (on_goal 1 => (dsimp -zeta only [X_]; clear X_)))
    | extract_lets +onlyGivenNames X_
    | with_reducible apply Does.set
    | with_reducible apply State.assignUnits_does
    | with_reducible apply Does.forEach
    | with_reducible exact ok_BOOT_STATUS_SLOT (by decide)
    | with_reducible exact ok_BOOT_STATUS_LAST_STATUS (by decide)
    | with_reducible exact ok_BOOT_STATUS_STATE (by decide)
    | with_reducible exact ok_BOOT_IMAGE_FW_VERSION (by decide)
    | with_reducible exact ok_BOOT_IMAGE_FW_ROLLBACK (by decide)
    | with_reducible exact ok_BOOT_IMAGE_DEV_ROLLBACK (by decide)
    | with_reducible exact ok_BOOT_IMAGE_FW_KEY_SLOT (by decide)
    | with_reducible exact ok_BOOT_IMAGE_DEV_KEY_SLOT (by decide)
    | with_reducible exact ok_BOOT_IMAGE_DEV_VERSION (by decide)
    | with_reducible exact ok_BOOT_TIME_AUTH_TICKS (by decide)
    | with_reducible exact ok_PWR_THERM_CFG_TRIP_C (by decide)
    | with_reducible exact ok_PWR_THERM_CFG_EMERG_C (by decide)
    | with_reducible exact ok_CDP_CTRL_PACE_CREDITS _ (by decide)
    | with_reducible exact ok_CDP_CREDIT_PACE_CREDITS _ (by decide)
    | with_reducible apply okField_ite
    | (with_reducible show Nat.testBit _ _ = true; decide)
    | (with_reducible show subMask _ _ = true; decide)
    | (intro _ _ _; beta_reduce)
    | with_reducible apply Does.ite
    | split
    | with_reducible apply Does.upd_pwr
    | apply Does.ite
    | dsimp -zeta only
    | refine Does.sndOf (by assumption) ?_
    | refine Does.fstOf (by assumption) ?_

theorem State.showProfile_does {μ : Nat} {σ : State} (s : State) (hμ : subMask 256 μ = true) (hδ : Does μ σ s) :
    Does μ σ (State.showProfile s) := by
  refine Does.after (a := 256) ?_ hμ hδ
  clear hδ hμ
  unfold State.showProfile
  repeat' first
    | with_reducible assumption
    | with_reducible exact Does.rfl' _ _
    | (extract_lets +onlyGivenNames X_; refine Does.cut X_ ?_ ?_; (on_goal 2 => (intro _; clear_value X_)); (on_goal 1 => (dsimp -zeta only [X_]; clear X_)))
    | (extract_lets +onlyGivenNames X_; refine Does.cutOf (Prod.fst (α := State)) X_ ?_ ?_; (on_goal 2 => (intro _; clear_value X_)); (on_goal 1 => (dsimp -zeta only [X_]; clear X_)))
    | extract_lets +onlyGivenNames X_
    | with_reducible apply Does.set
    | with_reducible exact ok_FTL_WEAR_SLC_RATED (by decide)
    | with_reducible exact ok_FTL_WEAR_TLC_RATED (by decide)
    | with_reducible exact ok_FTL_DISTURB_SLC_LIMIT_K (by decide)
    | with_reducible exact ok_FTL_DISTURB_TLC_LIMIT_K (by decide)
    | with_reducible apply okField_ite
    | (with_reducible show Nat.testBit _ _ = true; decide)
    | (with_reducible show subMask _ _ = true; decide)
    | (intro _ _ _; beta_reduce)
    | with_reducible apply Does.ite
    | split
    | apply Does.ite
    | dsimp -zeta only
    | refine Does.sndOf (by assumption) ?_
    | refine Does.fstOf (by assumption) ?_

theorem State.failChannels_does {μ : Nat} {σ : State} (s : State) (hμ : subMask 4398046511104 μ = true) (hδ : Does μ σ s) :
    Does μ σ (State.failChannels s) := by
  refine Does.after (a := 4398046511104) ?_ hμ hδ
  clear hδ hμ
  unfold State.failChannels
  try dsimp -zeta only [State.fold_ftl]
  repeat' first
    | with_reducible assumption
    | with_reducible exact Does.rfl' _ _
    | (extract_lets +onlyGivenNames X_; refine Does.cut X_ ?_ ?_; (on_goal 2 => (intro _; clear_value X_)); (on_goal 1 => (dsimp -zeta only [X_]; clear X_)))
    | (extract_lets +onlyGivenNames X_; refine Does.cutOf (Prod.fst (α := State)) X_ ?_ ?_; (on_goal 2 => (intro _; clear_value X_)); (on_goal 1 => (dsimp -zeta only [X_]; clear X_)))
    | extract_lets +onlyGivenNames X_
    | with_reducible apply Does.foldl
    | with_reducible apply Does.foldlFst
    | with_reducible apply okField_ite
    | (with_reducible show Nat.testBit _ _ = true; decide)
    | (with_reducible show subMask _ _ = true; decide)
    | (intro _ _ _; beta_reduce)
    | with_reducible apply Does.ite
    | split
    | with_reducible apply Does.upd_ftl
    | apply Does.ite
    | dsimp -zeta only
    | refine Does.sndOf (by assumption) ?_
    | refine Does.fstOf (by assumption) ?_

theorem State.findFlash_does {μ : Nat} {σ : State} (s : State) (hμ : subMask 4398046511360 μ = true) (hδ : Does μ σ s) :
    Does μ σ (State.findFlash s) := by
  refine Does.after (a := 4398046511360) ?_ hμ hδ
  clear hδ hμ
  unfold State.findFlash
  repeat' first
    | with_reducible assumption
    | with_reducible exact Does.rfl' _ _
    | (extract_lets +onlyGivenNames X_; refine Does.cut X_ ?_ ?_; (on_goal 2 => (intro _; clear_value X_)); (on_goal 1 => (dsimp -zeta only [X_]; clear X_)))
    | (extract_lets +onlyGivenNames X_; refine Does.cutOf (Prod.fst (α := State)) X_ ?_ ?_; (on_goal 2 => (intro _; clear_value X_)); (on_goal 1 => (dsimp -zeta only [X_]; clear X_)))
    | extract_lets +onlyGivenNames X_
    | with_reducible apply Does.set
    | with_reducible apply State.failChannels_does
    | with_reducible exact ok_FTL_STATUS_STATE (by decide)
    | with_reducible exact ok_FTL_STATUS_RATE (by decide)
    | with_reducible exact ok_FTL_GEOMETRY_BLOCKS (by decide)
    | with_reducible exact ok_FTL_GEOMETRY_WORDLINES (by decide)
    | with_reducible exact ok_FTL_GEOMETRY_LUNS (by decide)
    | with_reducible exact ok_FTL_GEOMETRY_TARGETS (by decide)
    | with_reducible apply okField_ite
    | (with_reducible show Nat.testBit _ _ = true; decide)
    | (with_reducible show subMask _ _ = true; decide)
    | (intro _ _ _; beta_reduce)
    | with_reducible apply Does.ite
    | split
    | apply Does.ite
    | dsimp -zeta only
    | refine Does.sndOf (by assumption) ?_
    | refine Does.fstOf (by assumption) ?_
    | (generalize ‹Option _› = w_; split)
    | (generalize ‹List _› = w_; split)

theorem State.enterReady_does {μ : Nat} {σ : State} (s : State) (hμ : subMask 4896270072710 μ = true) (hδ : Does μ σ s) :
    Does μ σ (State.enterReady s) := by
  refine Does.after (a := 4896270072710) ?_ hμ hδ
  clear hδ hμ
  unfold State.enterReady
  try dsimp -zeta only [State.fold_clear]
  repeat' first
    | (extract_lets +onlyGivenNames X_; refine Does.cut X_ ?_ ?_; (on_goal 2 => (intro _; clear_value X_)); (on_goal 1 => (dsimp -zeta only [X_]; clear X_)))
    | (extract_lets +onlyGivenNames X_; refine Does.cutOf (Prod.fst (α := State)) X_ ?_ ?_; (on_goal 2 => (intro _; clear_value X_)); (on_goal 1 => (dsimp -zeta only [X_]; clear X_)))
    | extract_lets +onlyGivenNames X_
    | with_reducible assumption
    | with_reducible exact Does.rfl' _ _
    | with_reducible apply Does.set
    | with_reducible apply State.setPort_does
    | with_reducible apply Does.forEach
    | with_reducible apply State.avs_does
    | with_reducible apply State.emit_does
    | with_reducible apply State.findFlash_does
    | with_reducible apply State.setPower_does
    | with_reducible apply State.showProfile_does
    | with_reducible apply State.showUnits_does
    | with_reducible exact ok_FAULT_MARKS_LOST_GRANULES (by decide)
    | with_reducible exact ok_FAULT_MARKS_LIVE_GRANULES (by decide)
    | with_reducible exact ok_HBM_STACK_STATE _ (by decide)
    | with_reducible exact ok_CDP_STATUS_STATE _ (by decide)
    | with_reducible exact ok_BOOT_TIME_READY_TICKS (by decide)
    | with_reducible exact ok_BOOT_STATUS_STATE (by decide)
    | with_reducible exact ok_FTL_AREA_PAGES (by decide)
    | with_reducible exact ok_TIER_POOL_FREE_HBM (by decide)
    | with_reducible exact ok_PWR_CLOCK_NEXT_MHZ (by decide)
    | with_reducible exact ok_PWR_CLOCK_FCLK_MHZ (by decide)
    | with_reducible apply okField_ite
    | (with_reducible show Nat.testBit _ _ = true; decide)
    | (with_reducible show subMask _ _ = true; decide)
    | (intro _ _ _; beta_reduce)
    | with_reducible apply Does.ite
    | split
    | (with_reducible show _ ≤ _; decide)
    | with_reducible apply Does.upd_clear
    | apply Does.ite

theorem State.tryReady_does {μ : Nat} {σ : State} (s : State) (hμ : subMask 4896270072710 μ = true) (hδ : Does μ σ s) :
    Does μ σ (State.tryReady s) := by
  refine Does.after (a := 4896270072710) ?_ hμ hδ
  clear hδ hμ
  unfold State.tryReady
  repeat' first
    | with_reducible assumption
    | with_reducible exact Does.rfl' _ _
    | (extract_lets +onlyGivenNames X_; refine Does.cut X_ ?_ ?_; (on_goal 2 => (intro _; clear_value X_)); (on_goal 1 => (dsimp -zeta only [X_]; clear X_)))
    | (extract_lets +onlyGivenNames X_; refine Does.cutOf (Prod.fst (α := State)) X_ ?_ ?_; (on_goal 2 => (intro _; clear_value X_)); (on_goal 1 => (dsimp -zeta only [X_]; clear X_)))
    | extract_lets +onlyGivenNames X_
    | with_reducible apply State.enterReady_does
    | with_reducible apply okField_ite
    | (with_reducible show Nat.testBit _ _ = true; decide)
    | (with_reducible show subMask _ _ = true; decide)
    | (intro _ _ _; beta_reduce)
    | with_reducible apply Does.ite
    | split
    | apply Does.ite
    | dsimp -zeta only
    | refine Does.sndOf (by assumption) ?_
    | refine Does.fstOf (by assumption) ?_

theorem State.startBoot_does {μ : Nat} {σ : State} (s : State) (cause : Nat) (haveImage : Bool) (hμ : subMask 137438953472 μ = true) (hδ : Does μ σ s) :
    Does μ σ (State.startBoot s cause haveImage) := by
  refine Does.after (a := 137438953472) ?_ hμ hδ
  clear hδ hμ
  unfold State.startBoot
  try dsimp -zeta only [State.fold_pwr]
  repeat' first
    | with_reducible assumption
    | with_reducible exact Does.rfl' _ _
    | (extract_lets +onlyGivenNames X_; refine Does.cut X_ ?_ ?_; (on_goal 2 => (intro _; clear_value X_)); (on_goal 1 => (dsimp -zeta only [X_]; clear X_)))
    | (extract_lets +onlyGivenNames X_; refine Does.cutOf (Prod.fst (α := State)) X_ ?_ ?_; (on_goal 2 => (intro _; clear_value X_)); (on_goal 1 => (dsimp -zeta only [X_]; clear X_)))
    | extract_lets +onlyGivenNames X_
    | with_reducible apply okField_ite
    | (with_reducible show Nat.testBit _ _ = true; decide)
    | (with_reducible show subMask _ _ = true; decide)
    | (intro _ _ _; beta_reduce)
    | with_reducible apply Does.ite
    | split
    | with_reducible apply Does.upd_pwr
    | apply Does.ite
    | dsimp -zeta only
    | refine Does.sndOf (by assumption) ?_
    | refine Does.fstOf (by assumption) ?_

theorem State.bootFailed_does {μ : Nat} {σ : State} (s : State) (hμ : subMask 137443147778 μ = true) (hδ : Does μ σ s) :
    Does μ σ (State.bootFailed s) := by
  refine Does.after (a := 137443147778) ?_ hμ hδ
  clear hδ hμ
  unfold State.bootFailed
  try dsimp -zeta only [State.fold_pwr]
  repeat' first
    | with_reducible assumption
    | with_reducible exact Does.rfl' _ _
    | (extract_lets +onlyGivenNames X_; refine Does.cut X_ ?_ ?_; (on_goal 2 => (intro _; clear_value X_)); (on_goal 1 => (dsimp -zeta only [X_]; clear X_)))
    | (extract_lets +onlyGivenNames X_; refine Does.cutOf (Prod.fst (α := State)) X_ ?_ ?_; (on_goal 2 => (intro _; clear_value X_)); (on_goal 1 => (dsimp -zeta only [X_]; clear X_)))
    | extract_lets +onlyGivenNames X_
    | with_reducible apply Does.set
    | with_reducible apply State.emit_does
    | with_reducible exact ok_BOOT_STATUS_STATE (by decide)
    | with_reducible exact ok_BOOT_STATUS_LAST_STATUS (by decide)
    | with_reducible apply okField_ite
    | (with_reducible show Nat.testBit _ _ = true; decide)
    | (with_reducible show subMask _ _ = true; decide)
    | (intro _ _ _; beta_reduce)
    | with_reducible apply Does.ite
    | split
    | with_reducible apply Does.upd_pwr
    | apply Does.ite
    | dsimp -zeta only
    | refine Does.sndOf (by assumption) ?_
    | refine Does.fstOf (by assumption) ?_

theorem execBootImageDone_does (slotA slotB : List Byte) (s : State) (τ : State) (hδ : execBootImageDone slotA slotB s = .next τ) : Does 4896270073734 s τ := by
  unfold execBootImageDone at hδ
  obtain rfl := Host.Outcome.next.inj hδ
  clear hδ
  repeat' first
    | with_reducible assumption
    | with_reducible exact Does.rfl' _ _
    | (extract_lets +onlyGivenNames X_; refine Does.cut X_ ?_ ?_; (on_goal 2 => (intro _; clear_value X_)); (on_goal 1 => (dsimp -zeta only [X_]; clear X_)))
    | (extract_lets +onlyGivenNames X_; refine Does.cutOf (Prod.fst (α := State)) X_ ?_ ?_; (on_goal 2 => (intro _; clear_value X_)); (on_goal 1 => (dsimp -zeta only [X_]; clear X_)))
    | extract_lets +onlyGivenNames X_
    | with_reducible apply Does.set
    | with_reducible apply State.bootFailed_does
    | with_reducible apply State.runImage_does
    | with_reducible apply State.tryReady_does
    | with_reducible exact ok_BOOT_STATUS_REASON_A (by decide)
    | with_reducible exact ok_BOOT_STATUS_REASON_B (by decide)
    | with_reducible exact ok_BOOT_STATUS_SLOT (by decide)
    | with_reducible apply okField_ite
    | (with_reducible show Nat.testBit _ _ = true; decide)
    | (with_reducible show subMask _ _ = true; decide)
    | (intro _ _ _; beta_reduce)
    | with_reducible apply Does.ite
    | split
    | apply Does.ite
    | dsimp -zeta only
    | refine Does.sndOf (by assumption) ?_
    | refine Does.fstOf (by assumption) ?_

theorem execBootTrainingDone_does (flash : List FlashPart) (s : State) (τ : State) (hδ : execBootTrainingDone flash s = .next τ) : Does 4896270073734 s τ := by
  unfold execBootTrainingDone at hδ
  obtain rfl := Host.Outcome.next.inj hδ
  clear hδ
  try dsimp -zeta only [State.fold_pwr_ftl]
  repeat' first
    | with_reducible assumption
    | with_reducible exact Does.rfl' _ _
    | (extract_lets +onlyGivenNames X_; refine Does.cut X_ ?_ ?_; (on_goal 2 => (intro _; clear_value X_)); (on_goal 1 => (dsimp -zeta only [X_]; clear X_)))
    | (extract_lets +onlyGivenNames X_; refine Does.cutOf (Prod.fst (α := State)) X_ ?_ ?_; (on_goal 2 => (intro _; clear_value X_)); (on_goal 1 => (dsimp -zeta only [X_]; clear X_)))
    | extract_lets +onlyGivenNames X_
    | with_reducible apply State.tryReady_does
    | with_reducible apply okField_ite
    | (with_reducible show Nat.testBit _ _ = true; decide)
    | (with_reducible show subMask _ _ = true; decide)
    | (intro _ _ _; beta_reduce)
    | with_reducible apply Does.ite
    | split
    | with_reducible apply Does.upd_pwr_ftl
    | apply Does.ite
    | dsimp -zeta only
    | refine Does.sndOf (by assumption) ?_
    | refine Does.fstOf (by assumption) ?_

theorem State.mgmtNoEffect_does {μ : Nat} {σ : State} (s : State) (hμ : subMask 4 μ = true) (hδ : Does μ σ s) :
    Does μ σ (State.mgmtNoEffect s) := by
  refine Does.after (a := 4) ?_ hμ hδ
  clear hδ hμ
  unfold State.mgmtNoEffect
  repeat' first
    | with_reducible assumption
    | with_reducible exact Does.rfl' _ _
    | (extract_lets +onlyGivenNames X_; refine Does.cut X_ ?_ ?_; (on_goal 2 => (intro _; clear_value X_)); (on_goal 1 => (dsimp -zeta only [X_]; clear X_)))
    | (extract_lets +onlyGivenNames X_; refine Does.cutOf (Prod.fst (α := State)) X_ ?_ ?_; (on_goal 2 => (intro _; clear_value X_)); (on_goal 1 => (dsimp -zeta only [X_]; clear X_)))
    | extract_lets +onlyGivenNames X_
    | with_reducible apply Does.set
    | with_reducible exact ok_PWR_MGMT_STATUS (by decide)
    | with_reducible apply okField_ite
    | (with_reducible show Nat.testBit _ _ = true; decide)
    | (with_reducible show subMask _ _ = true; decide)
    | (intro _ _ _; beta_reduce)
    | with_reducible apply Does.ite
    | split
    | apply Does.ite
    | dsimp -zeta only
    | refine Does.sndOf (by assumption) ?_
    | refine Does.fstOf (by assumption) ?_

theorem State.doWake_does {μ : Nat} {σ : State} (s : State) (hμ : subMask 137438953476 μ = true) (hδ : Does μ σ s) :
    Does μ σ (State.doWake s) := by
  refine Does.after (a := 137438953476) ?_ hμ hδ
  clear hδ hμ
  unfold State.doWake
  repeat' first
    | with_reducible assumption
    | with_reducible exact Does.rfl' _ _
    | (extract_lets +onlyGivenNames X_; refine Does.cut X_ ?_ ?_; (on_goal 2 => (intro _; clear_value X_)); (on_goal 1 => (dsimp -zeta only [X_]; clear X_)))
    | (extract_lets +onlyGivenNames X_; refine Does.cutOf (Prod.fst (α := State)) X_ ?_ ?_; (on_goal 2 => (intro _; clear_value X_)); (on_goal 1 => (dsimp -zeta only [X_]; clear X_)))
    | extract_lets +onlyGivenNames X_
    | with_reducible apply Does.set
    | with_reducible apply State.mgmtNoEffect_does
    | with_reducible apply State.startBoot_does
    | with_reducible exact ok_PWR_MGMT_STATUS (by decide)
    | with_reducible apply okField_ite
    | (with_reducible show Nat.testBit _ _ = true; decide)
    | (with_reducible show subMask _ _ = true; decide)
    | (intro _ _ _; beta_reduce)
    | with_reducible apply Does.ite
    | split
    | apply Does.ite
    | dsimp -zeta only
    | refine Does.sndOf (by assumption) ?_
    | refine Does.fstOf (by assumption) ?_

theorem State.doRetry_does {μ : Nat} {σ : State} (s : State) (hμ : subMask 137438953478 μ = true) (hδ : Does μ σ s) :
    Does μ σ (State.doRetry s) := by
  refine Does.after (a := 137438953478) ?_ hμ hδ
  clear hδ hμ
  unfold State.doRetry
  repeat' first
    | with_reducible assumption
    | with_reducible exact Does.rfl' _ _
    | (extract_lets +onlyGivenNames X_; refine Does.cut X_ ?_ ?_; (on_goal 2 => (intro _; clear_value X_)); (on_goal 1 => (dsimp -zeta only [X_]; clear X_)))
    | (extract_lets +onlyGivenNames X_; refine Does.cutOf (Prod.fst (α := State)) X_ ?_ ?_; (on_goal 2 => (intro _; clear_value X_)); (on_goal 1 => (dsimp -zeta only [X_]; clear X_)))
    | extract_lets +onlyGivenNames X_
    | with_reducible apply Does.set
    | with_reducible apply State.mgmtNoEffect_does
    | with_reducible apply State.startBoot_does
    | with_reducible exact ok_BOOT_STATUS_STATE (by decide)
    | with_reducible exact ok_PWR_MGMT_STATUS (by decide)
    | with_reducible apply okField_ite
    | (with_reducible show Nat.testBit _ _ = true; decide)
    | (with_reducible show subMask _ _ = true; decide)
    | (intro _ _ _; beta_reduce)
    | with_reducible apply Does.ite
    | split
    | apply Does.ite
    | dsimp -zeta only
    | refine Does.sndOf (by assumption) ?_
    | refine Does.fstOf (by assumption) ?_

theorem State.holdNow_does {μ : Nat} {σ : State} (s : State) (hμ : subMask 18196170039860 μ = true) (hδ : Does μ σ s) :
    Does μ σ (State.holdNow s) := by
  refine Does.after (a := 18196170039860) ?_ hμ hδ
  clear hδ hμ
  unfold State.holdNow
  repeat' first
    | with_reducible assumption
    | with_reducible exact Does.rfl' _ _
    | (extract_lets +onlyGivenNames X_; refine Does.cut X_ ?_ ?_; (on_goal 2 => (intro _; clear_value X_)); (on_goal 1 => (dsimp -zeta only [X_]; clear X_)))
    | (extract_lets +onlyGivenNames X_; refine Does.cutOf (Prod.fst (α := State)) X_ ?_ ?_; (on_goal 2 => (intro _; clear_value X_)); (on_goal 1 => (dsimp -zeta only [X_]; clear X_)))
    | extract_lets +onlyGivenNames X_
    | with_reducible apply State.breakSwatch_does
    | with_reducible apply State.enterHold_does
    | with_reducible apply State.logEv_does
    | with_reducible apply okField_ite
    | (with_reducible show Nat.testBit _ _ = true; decide)
    | (with_reducible show subMask _ _ = true; decide)
    | (intro _ _ _; beta_reduce)
    | with_reducible apply Does.ite
    | split
    | apply Does.ite
    | dsimp -zeta only
    | refine Does.sndOf (by assumption) ?_
    | refine Does.fstOf (by assumption) ?_

theorem State.trip_does {μ : Nat} {σ : State} (s : State) (event : Nat) (hμ : subMask 18333608993332 μ = true) (hδ : Does μ σ s) :
    Does μ σ (State.trip s event) := by
  refine Does.after (a := 18333608993332) ?_ hμ hδ
  clear hδ hμ
  unfold State.trip
  try dsimp -zeta only [State.fold_step]
  repeat' first
    | with_reducible assumption
    | with_reducible exact Does.rfl' _ _
    | (extract_lets +onlyGivenNames X_; refine Does.cut X_ ?_ ?_; (on_goal 2 => (intro _; clear_value X_)); (on_goal 1 => (dsimp -zeta only [X_]; clear X_)))
    | (extract_lets +onlyGivenNames X_; refine Does.cutOf (Prod.fst (α := State)) X_ ?_ ?_; (on_goal 2 => (intro _; clear_value X_)); (on_goal 1 => (dsimp -zeta only [X_]; clear X_)))
    | extract_lets +onlyGivenNames X_
    | with_reducible apply Does.set
    | with_reducible apply State.cancelLaunch_does
    | with_reducible apply State.emit_does
    | with_reducible apply State.holdNow_does
    | with_reducible exact ok_PWR_THERM_LAST_EVENT (by decide)
    | with_reducible apply okField_ite
    | (with_reducible show Nat.testBit _ _ = true; decide)
    | (with_reducible show subMask _ _ = true; decide)
    | (intro _ _ _; beta_reduce)
    | with_reducible apply Does.ite
    | split
    | with_reducible apply Does.upd_step
    | ((with_reducible show StepSt.prevPhase _ = StepSt.prevPhase _); rfl)
    | apply Does.ite
    | dsimp -zeta only
    | refine Does.sndOf (by assumption) ?_
    | refine Does.fstOf (by assumption) ?_

theorem State.doThermStop_does {μ : Nat} {σ : State} (s : State) (hμ : subMask 18333608993332 μ = true) (hδ : Does μ σ s) :
    Does μ σ (State.doThermStop s) := by
  refine Does.after (a := 18333608993332) ?_ hμ hδ
  clear hδ hμ
  unfold State.doThermStop
  repeat' first
    | with_reducible assumption
    | with_reducible exact Does.rfl' _ _
    | (extract_lets +onlyGivenNames X_; refine Does.cut X_ ?_ ?_; (on_goal 2 => (intro _; clear_value X_)); (on_goal 1 => (dsimp -zeta only [X_]; clear X_)))
    | (extract_lets +onlyGivenNames X_; refine Does.cutOf (Prod.fst (α := State)) X_ ?_ ?_; (on_goal 2 => (intro _; clear_value X_)); (on_goal 1 => (dsimp -zeta only [X_]; clear X_)))
    | extract_lets +onlyGivenNames X_
    | with_reducible apply Does.set
    | with_reducible apply State.mgmtNoEffect_does
    | with_reducible apply State.trip_does
    | with_reducible exact ok_PWR_MGMT_STATUS (by decide)
    | with_reducible apply okField_ite
    | (with_reducible show Nat.testBit _ _ = true; decide)
    | (with_reducible show subMask _ _ = true; decide)
    | (intro _ _ _; beta_reduce)
    | with_reducible apply Does.ite
    | split
    | apply Does.ite
    | dsimp -zeta only
    | refine Does.sndOf (by assumption) ?_
    | refine Does.fstOf (by assumption) ?_

theorem State.writePwrMgmt_does {μ : Nat} {σ : State} (s : State) (w : Wr) (hμ : subMask 18333608993334 μ = true) (hδ : Does μ σ s) :
    Does μ σ (State.writePwrMgmt s w) := by
  refine Does.after (a := 18333608993334) ?_ hμ hδ
  clear hδ hμ
  unfold State.writePwrMgmt
  repeat' first
    | with_reducible assumption
    | with_reducible exact Does.rfl' _ _
    | (extract_lets +onlyGivenNames X_; refine Does.cut X_ ?_ ?_; (on_goal 2 => (intro _; clear_value X_)); (on_goal 1 => (dsimp -zeta only [X_]; clear X_)))
    | (extract_lets +onlyGivenNames X_; refine Does.cutOf (Prod.fst (α := State)) X_ ?_ ?_; (on_goal 2 => (intro _; clear_value X_)); (on_goal 1 => (dsimp -zeta only [X_]; clear X_)))
    | extract_lets +onlyGivenNames X_
    | with_reducible apply State.doRetry_does
    | with_reducible apply State.doThermStop_does
    | with_reducible apply State.doWake_does
    | with_reducible apply State.regWrite_does
    | with_reducible exact ok_PWR_MGMT_RETRY_BOOT (by decide)
    | with_reducible exact ok_PWR_MGMT_WAKE (by decide)
    | with_reducible exact ok_PWR_MGMT_THERM_STOP (by decide)
    | with_reducible apply okField_ite
    | (with_reducible show Nat.testBit _ _ = true; decide)
    | (with_reducible show subMask _ _ = true; decide)
    | (intro _ _ _; beta_reduce)
    | with_reducible apply Does.ite
    | split
    | apply Does.ite
    | dsimp -zeta only
    | refine Does.sndOf (by assumption) ?_
    | refine Does.fstOf (by assumption) ?_

theorem execWake_does (m : Master) (v : BitVec 64) (s : State) (τ : State) (hδ : execWake m v s = .next τ) : Does 18333608993334 s τ := by
  unfold execWake at hδ
  obtain rfl := Host.Outcome.next.inj hδ
  clear hδ
  repeat' first
    | with_reducible assumption
    | with_reducible exact Does.rfl' _ _
    | (extract_lets +onlyGivenNames X_; refine Does.cut X_ ?_ ?_; (on_goal 2 => (intro _; clear_value X_)); (on_goal 1 => (dsimp -zeta only [X_]; clear X_)))
    | (extract_lets +onlyGivenNames X_; refine Does.cutOf (Prod.fst (α := State)) X_ ?_ ?_; (on_goal 2 => (intro _; clear_value X_)); (on_goal 1 => (dsimp -zeta only [X_]; clear X_)))
    | extract_lets +onlyGivenNames X_
    | with_reducible apply State.writePwrMgmt_does
    | with_reducible apply okField_ite
    | (with_reducible show Nat.testBit _ _ = true; decide)
    | (with_reducible show subMask _ _ = true; decide)
    | (intro _ _ _; beta_reduce)
    | with_reducible apply Does.ite
    | split
    | apply Does.ite
    | dsimp -zeta only
    | refine Does.sndOf (by assumption) ?_
    | refine Does.fstOf (by assumption) ?_

theorem execRetryBoot_does (m : Master) (v : BitVec 64) (s : State) (τ : State) (hδ : execRetryBoot m v s = .next τ) : Does 18333608993334 s τ := by
  unfold execRetryBoot at hδ
  obtain rfl := Host.Outcome.next.inj hδ
  clear hδ
  repeat' first
    | with_reducible assumption
    | with_reducible exact Does.rfl' _ _
    | (extract_lets +onlyGivenNames X_; refine Does.cut X_ ?_ ?_; (on_goal 2 => (intro _; clear_value X_)); (on_goal 1 => (dsimp -zeta only [X_]; clear X_)))
    | (extract_lets +onlyGivenNames X_; refine Does.cutOf (Prod.fst (α := State)) X_ ?_ ?_; (on_goal 2 => (intro _; clear_value X_)); (on_goal 1 => (dsimp -zeta only [X_]; clear X_)))
    | extract_lets +onlyGivenNames X_
    | with_reducible apply State.writePwrMgmt_does
    | with_reducible apply okField_ite
    | (with_reducible show Nat.testBit _ _ = true; decide)
    | (with_reducible show subMask _ _ = true; decide)
    | (intro _ _ _; beta_reduce)
    | with_reducible apply Does.ite
    | split
    | apply Does.ite
    | dsimp -zeta only
    | refine Does.sndOf (by assumption) ?_
    | refine Does.fstOf (by assumption) ?_

theorem State.writeThermCfg_does {μ : Nat} {σ : State} (s : State) (w : Wr) (hμ : subMask 536895492 μ = true) (hδ : Does μ σ s) :
    Does μ σ (State.writeThermCfg s w) := by
  refine Does.after (a := 536895492) ?_ hμ hδ
  clear hδ hμ
  unfold State.writeThermCfg
  repeat' first
    | (extract_lets +onlyGivenNames X_; refine Does.cut X_ ?_ ?_; (on_goal 2 => (intro _; clear_value X_)); (on_goal 1 => (dsimp -zeta only [X_]; clear X_)))
    | (extract_lets +onlyGivenNames X_; refine Does.cutOf (Prod.fst (α := State)) X_ ?_ ?_; (on_goal 2 => (intro _; clear_value X_)); (on_goal 1 => (dsimp -zeta only [X_]; clear X_)))
    | extract_lets +onlyGivenNames X_
    | with_reducible assumption
    | with_reducible exact Does.rfl' _ _
    | with_reducible apply State.refuse_does
    | with_reducible apply State.regWrite_does
    | with_reducible apply okField_ite
    | exact testBit_all _ (by decide)
    | (with_reducible show Nat.testBit _ _ = true; decide)
    | (with_reducible show subMask _ _ = true; decide)
    | (intro _ _ _; beta_reduce)
    | with_reducible apply Does.ite
    | split
    | apply Does.ite

theorem State.writeRollback_does {μ : Nat} {σ : State} (s : State) (w : Wr) (hμ : subMask 137975848962 μ = true) (hδ : Does μ σ s) :
    Does μ σ (State.writeRollback s w) := by
  refine Does.after (a := 137975848962) ?_ hμ hδ
  clear hδ hμ
  unfold State.writeRollback
  try dsimp -zeta only [State.fold_pwr]
  repeat' first
    | with_reducible assumption
    | with_reducible exact Does.rfl' _ _
    | (extract_lets +onlyGivenNames X_; refine Does.cut X_ ?_ ?_; (on_goal 2 => (intro _; clear_value X_)); (on_goal 1 => (dsimp -zeta only [X_]; clear X_)))
    | (extract_lets +onlyGivenNames X_; refine Does.cutOf (Prod.fst (α := State)) X_ ?_ ?_; (on_goal 2 => (intro _; clear_value X_)); (on_goal 1 => (dsimp -zeta only [X_]; clear X_)))
    | extract_lets +onlyGivenNames X_
    | with_reducible apply Does.set
    | with_reducible apply State.refuse_does
    | with_reducible apply State.regWrite_does
    | with_reducible exact ok_BOOT_ROLLBACK_REVOKE_FW (by decide)
    | with_reducible exact ok_BOOT_ROLLBACK_REVOKE_DEV (by decide)
    | with_reducible exact ok_BOOT_ROLLBACK_ADVANCE_FW (by decide)
    | with_reducible exact ok_BOOT_ROLLBACK_ADVANCE_DEV (by decide)
    | with_reducible exact ok_BOOT_ROLLBACK_STATUS (by decide)
    | with_reducible exact ok_BOOT_ROLLBACK_BUSY (by decide)
    | with_reducible apply okField_ite
    | (with_reducible show Nat.testBit _ _ = true; decide)
    | (with_reducible show subMask _ _ = true; decide)
    | (intro _ _ _; beta_reduce)
    | with_reducible apply Does.ite
    | split
    | with_reducible apply Does.upd_pwr
    | apply Does.ite
    | dsimp -zeta only
    | refine Does.sndOf (by assumption) ?_
    | refine Does.fstOf (by assumption) ?_

theorem State.burn_does {μ : Nat} {σ : State} (s : State) (b : Nat) (hμ : subMask 2 μ = true) (hδ : Does μ σ s) :
    Does μ σ (State.burn s b) := by
  refine Does.after (a := 2) ?_ hμ hδ
  clear hδ hμ
  unfold State.burn
  repeat' first
    | with_reducible assumption
    | with_reducible exact Does.rfl' _ _
    | (extract_lets +onlyGivenNames X_; refine Does.cut X_ ?_ ?_; (on_goal 2 => (intro _; clear_value X_)); (on_goal 1 => (dsimp -zeta only [X_]; clear X_)))
    | (extract_lets +onlyGivenNames X_; refine Does.cutOf (Prod.fst (α := State)) X_ ?_ ?_; (on_goal 2 => (intro _; clear_value X_)); (on_goal 1 => (dsimp -zeta only [X_]; clear X_)))
    | extract_lets +onlyGivenNames X_
    | with_reducible apply Does.set
    | with_reducible exact ok_BOOT_FUSES_FW_COUNTER (by decide)
    | with_reducible exact ok_BOOT_FUSES_DEV_COUNTER (by decide)
    | with_reducible exact ok_BOOT_FUSES_FW_REVOKED (by decide)
    | with_reducible exact ok_BOOT_FUSES_DEV_REVOKED (by decide)
    | with_reducible apply okField_ite
    | (with_reducible show Nat.testBit _ _ = true; decide)
    | (with_reducible show subMask _ _ = true; decide)
    | (intro _ _ _; beta_reduce)
    | with_reducible apply Does.ite
    | split
    | apply Does.ite
    | dsimp -zeta only
    | refine Does.sndOf (by assumption) ?_
    | refine Does.fstOf (by assumption) ?_

theorem execFuseBurnDone_does (s : State) (τ : State) (hδ : execFuseBurnDone s = .next τ) : Does 137438953474 s τ := by
  unfold execFuseBurnDone at hδ
  obtain rfl := Host.Outcome.next.inj hδ
  clear hδ
  try dsimp -zeta only [State.fold_pwr]
  repeat' first
    | with_reducible assumption
    | with_reducible exact Does.rfl' _ _
    | (extract_lets +onlyGivenNames X_; refine Does.cut X_ ?_ ?_; (on_goal 2 => (intro _; clear_value X_)); (on_goal 1 => (dsimp -zeta only [X_]; clear X_)))
    | (extract_lets +onlyGivenNames X_; refine Does.cutOf (Prod.fst (α := State)) X_ ?_ ?_; (on_goal 2 => (intro _; clear_value X_)); (on_goal 1 => (dsimp -zeta only [X_]; clear X_)))
    | extract_lets +onlyGivenNames X_
    | with_reducible apply Does.set
    | with_reducible apply State.burn_does
    | with_reducible apply Does.foldl
    | with_reducible apply Does.foldlFst
    | with_reducible exact ok_BOOT_ROLLBACK_BUSY (by decide)
    | with_reducible apply okField_ite
    | (with_reducible show Nat.testBit _ _ = true; decide)
    | (with_reducible show subMask _ _ = true; decide)
    | (intro _ _ _; beta_reduce)
    | with_reducible apply Does.ite
    | split
    | with_reducible apply Does.upd_pwr
    | apply Does.ite
    | dsimp -zeta only
    | refine Does.sndOf (by assumption) ?_
    | refine Does.fstOf (by assumption) ?_

theorem execAdvanceFw_does (m : Master) (v : BitVec 64) (s : State) (τ : State) (hδ : execAdvanceFw m v s = .next τ) : Does 137975848962 s τ := by
  unfold execAdvanceFw at hδ
  obtain rfl := Host.Outcome.next.inj hδ
  clear hδ
  repeat' first
    | with_reducible assumption
    | with_reducible exact Does.rfl' _ _
    | (extract_lets +onlyGivenNames X_; refine Does.cut X_ ?_ ?_; (on_goal 2 => (intro _; clear_value X_)); (on_goal 1 => (dsimp -zeta only [X_]; clear X_)))
    | (extract_lets +onlyGivenNames X_; refine Does.cutOf (Prod.fst (α := State)) X_ ?_ ?_; (on_goal 2 => (intro _; clear_value X_)); (on_goal 1 => (dsimp -zeta only [X_]; clear X_)))
    | extract_lets +onlyGivenNames X_
    | with_reducible apply State.writeRollback_does
    | with_reducible apply okField_ite
    | (with_reducible show Nat.testBit _ _ = true; decide)
    | (with_reducible show subMask _ _ = true; decide)
    | (intro _ _ _; beta_reduce)
    | with_reducible apply Does.ite
    | split
    | apply Does.ite
    | dsimp -zeta only
    | refine Does.sndOf (by assumption) ?_
    | refine Does.fstOf (by assumption) ?_

theorem execAdvanceDev_does (m : Master) (v : BitVec 64) (s : State) (τ : State) (hδ : execAdvanceDev m v s = .next τ) : Does 137975848962 s τ := by
  unfold execAdvanceDev at hδ
  obtain rfl := Host.Outcome.next.inj hδ
  clear hδ
  repeat' first
    | with_reducible assumption
    | with_reducible exact Does.rfl' _ _
    | (extract_lets +onlyGivenNames X_; refine Does.cut X_ ?_ ?_; (on_goal 2 => (intro _; clear_value X_)); (on_goal 1 => (dsimp -zeta only [X_]; clear X_)))
    | (extract_lets +onlyGivenNames X_; refine Does.cutOf (Prod.fst (α := State)) X_ ?_ ?_; (on_goal 2 => (intro _; clear_value X_)); (on_goal 1 => (dsimp -zeta only [X_]; clear X_)))
    | extract_lets +onlyGivenNames X_
    | with_reducible apply State.writeRollback_does
    | with_reducible apply okField_ite
    | (with_reducible show Nat.testBit _ _ = true; decide)
    | (with_reducible show subMask _ _ = true; decide)
    | (intro _ _ _; beta_reduce)
    | with_reducible apply Does.ite
    | split
    | apply Does.ite
    | dsimp -zeta only
    | refine Does.sndOf (by assumption) ?_
    | refine Does.fstOf (by assumption) ?_

theorem execRevokeFw_does (m : Master) (v : BitVec 64) (s : State) (τ : State) (hδ : execRevokeFw m v s = .next τ) : Does 137975848962 s τ := by
  unfold execRevokeFw at hδ
  obtain rfl := Host.Outcome.next.inj hδ
  clear hδ
  repeat' first
    | with_reducible assumption
    | with_reducible exact Does.rfl' _ _
    | (extract_lets +onlyGivenNames X_; refine Does.cut X_ ?_ ?_; (on_goal 2 => (intro _; clear_value X_)); (on_goal 1 => (dsimp -zeta only [X_]; clear X_)))
    | (extract_lets +onlyGivenNames X_; refine Does.cutOf (Prod.fst (α := State)) X_ ?_ ?_; (on_goal 2 => (intro _; clear_value X_)); (on_goal 1 => (dsimp -zeta only [X_]; clear X_)))
    | extract_lets +onlyGivenNames X_
    | with_reducible apply State.writeRollback_does
    | with_reducible apply okField_ite
    | (with_reducible show Nat.testBit _ _ = true; decide)
    | (with_reducible show subMask _ _ = true; decide)
    | (intro _ _ _; beta_reduce)
    | with_reducible apply Does.ite
    | split
    | apply Does.ite
    | dsimp -zeta only
    | refine Does.sndOf (by assumption) ?_
    | refine Does.fstOf (by assumption) ?_

theorem execRevokeDev_does (m : Master) (v : BitVec 64) (s : State) (τ : State) (hδ : execRevokeDev m v s = .next τ) : Does 137975848962 s τ := by
  unfold execRevokeDev at hδ
  obtain rfl := Host.Outcome.next.inj hδ
  clear hδ
  repeat' first
    | with_reducible assumption
    | with_reducible exact Does.rfl' _ _
    | (extract_lets +onlyGivenNames X_; refine Does.cut X_ ?_ ?_; (on_goal 2 => (intro _; clear_value X_)); (on_goal 1 => (dsimp -zeta only [X_]; clear X_)))
    | (extract_lets +onlyGivenNames X_; refine Does.cutOf (Prod.fst (α := State)) X_ ?_ ?_; (on_goal 2 => (intro _; clear_value X_)); (on_goal 1 => (dsimp -zeta only [X_]; clear X_)))
    | extract_lets +onlyGivenNames X_
    | with_reducible apply State.writeRollback_does
    | with_reducible apply okField_ite
    | (with_reducible show Nat.testBit _ _ = true; decide)
    | (with_reducible show subMask _ _ = true; decide)
    | (intro _ _ _; beta_reduce)
    | with_reducible apply Does.ite
    | split
    | apply Does.ite
    | dsimp -zeta only
    | refine Does.sndOf (by assumption) ?_
    | refine Does.fstOf (by assumption) ?_

theorem execDeviceKeyFuseBurn_does (slot : Nat) (hash : List Byte) (s : State) (τ : State) (hδ : execDeviceKeyFuseBurn slot hash s = .next τ) : Does 137438953474 s τ := by
  unfold execDeviceKeyFuseBurn at hδ
  obtain rfl := Host.Outcome.next.inj hδ
  clear hδ
  try dsimp -zeta only [State.fold_pwr]
  repeat' first
    | with_reducible assumption
    | with_reducible exact Does.rfl' _ _
    | (extract_lets +onlyGivenNames X_; refine Does.cut X_ ?_ ?_; (on_goal 2 => (intro _; clear_value X_)); (on_goal 1 => (dsimp -zeta only [X_]; clear X_)))
    | (extract_lets +onlyGivenNames X_; refine Does.cutOf (Prod.fst (α := State)) X_ ?_ ?_; (on_goal 2 => (intro _; clear_value X_)); (on_goal 1 => (dsimp -zeta only [X_]; clear X_)))
    | extract_lets +onlyGivenNames X_
    | with_reducible apply Does.set
    | with_reducible exact ok_BOOT_FUSES_DEV_KEYS_SET (by decide)
    | with_reducible apply okField_ite
    | (with_reducible show Nat.testBit _ _ = true; decide)
    | (with_reducible show subMask _ _ = true; decide)
    | (intro _ _ _; beta_reduce)
    | with_reducible apply Does.ite
    | split
    | with_reducible apply Does.upd_pwr
    | apply Does.ite
    | dsimp -zeta only
    | refine Does.sndOf (by assumption) ?_
    | refine Does.fstOf (by assumption) ?_

theorem execPllLock_does (s : State) (τ : State) (hδ : execPllLock s = .next τ) : Does 4 s τ := by
  unfold execPllLock at hδ
  obtain rfl := Host.Outcome.next.inj hδ
  clear hδ
  repeat' first
    | with_reducible assumption
    | with_reducible exact Does.rfl' _ _
    | (extract_lets +onlyGivenNames X_; refine Does.cut X_ ?_ ?_; (on_goal 2 => (intro _; clear_value X_)); (on_goal 1 => (dsimp -zeta only [X_]; clear X_)))
    | (extract_lets +onlyGivenNames X_; refine Does.cutOf (Prod.fst (α := State)) X_ ?_ ?_; (on_goal 2 => (intro _; clear_value X_)); (on_goal 1 => (dsimp -zeta only [X_]; clear X_)))
    | extract_lets +onlyGivenNames X_
    | with_reducible apply Does.set
    | with_reducible apply State.planSwitch_does
    | with_reducible exact ok_PWR_CLOCK_NEXT_MHZ (by decide)
    | with_reducible apply okField_ite
    | (with_reducible show Nat.testBit _ _ = true; decide)
    | (with_reducible show subMask _ _ = true; decide)
    | (intro _ _ _; beta_reduce)
    | with_reducible apply Does.ite
    | split
    | apply Does.ite
    | dsimp -zeta only
    | refine Does.sndOf (by assumption) ?_
    | refine Does.fstOf (by assumption) ?_

theorem execFclkSwitch_does (s : State) (τ : State) (hδ : execFclkSwitch s = .next τ) : Does 71827476 s τ := by
  unfold execFclkSwitch at hδ
  obtain rfl := Host.Outcome.next.inj hδ
  clear hδ
  repeat' first
    | with_reducible assumption
    | with_reducible exact Does.rfl' _ _
    | (extract_lets +onlyGivenNames X_; refine Does.cut X_ ?_ ?_; (on_goal 2 => (intro _; clear_value X_)); (on_goal 1 => (dsimp -zeta only [X_]; clear X_)))
    | (extract_lets +onlyGivenNames X_; refine Does.cutOf (Prod.fst (α := State)) X_ ?_ ?_; (on_goal 2 => (intro _; clear_value X_)); (on_goal 1 => (dsimp -zeta only [X_]; clear X_)))
    | extract_lets +onlyGivenNames X_
    | with_reducible apply Does.set
    | with_reducible apply State.advance_does
    | with_reducible apply State.avs_does
    | with_reducible exact ok_PWR_CLOCK_FCLK_MHZ (by decide)
    | with_reducible exact ok_PWR_CLOCK_NEXT_MHZ (by decide)
    | with_reducible exact ok_PWR_CLOCK_SWITCH_AT (by decide)
    | with_reducible apply okField_ite
    | (with_reducible show Nat.testBit _ _ = true; decide)
    | (with_reducible show subMask _ _ = true; decide)
    | (intro _ _ _; beta_reduce)
    | with_reducible apply Does.ite
    | split
    | apply Does.ite
    | dsimp -zeta only
    | refine Does.sndOf (by assumption) ?_
    | refine Does.fstOf (by assumption) ?_

theorem execVddMet_does (mv : Nat) (s : State) (τ : State) (hδ : execVddMet mv s = .next τ) : Does 4 s τ := by
  unfold execVddMet at hδ
  obtain rfl := Host.Outcome.next.inj hδ
  clear hδ
  repeat' first
    | with_reducible assumption
    | with_reducible exact Does.rfl' _ _
    | (extract_lets +onlyGivenNames X_; refine Does.cut X_ ?_ ?_; (on_goal 2 => (intro _; clear_value X_)); (on_goal 1 => (dsimp -zeta only [X_]; clear X_)))
    | (extract_lets +onlyGivenNames X_; refine Does.cutOf (Prod.fst (α := State)) X_ ?_ ?_; (on_goal 2 => (intro _; clear_value X_)); (on_goal 1 => (dsimp -zeta only [X_]; clear X_)))
    | extract_lets +onlyGivenNames X_
    | with_reducible apply Does.set
    | with_reducible exact ok_PWR_SUPPLY_VDD_MV (by decide)
    | with_reducible exact ok_PWR_AVS_MET (by decide)
    | with_reducible apply okField_ite
    | (with_reducible show Nat.testBit _ _ = true; decide)
    | (with_reducible show subMask _ _ = true; decide)
    | (intro _ _ _; beta_reduce)
    | with_reducible apply Does.ite
    | split
    | apply Does.ite
    | dsimp -zeta only
    | refine Does.sndOf (by assumption) ?_
    | refine Does.fstOf (by assumption) ?_

theorem State.takeSample_does {μ : Nat} {σ : State} (s : State) (temps : List Int) (hμ : subMask 137447342084 μ = true) (hδ : Does μ σ s) :
    Does μ σ (State.takeSample s temps) := by
  refine Does.after (a := 137447342084) ?_ hμ hδ
  clear hδ hμ
  unfold State.takeSample
  try dsimp -zeta only [State.fold_pwr]
  repeat' first
    | with_reducible assumption
    | with_reducible exact Does.rfl' _ _
    | (extract_lets +onlyGivenNames X_; refine Does.cut X_ ?_ ?_; (on_goal 2 => (intro _; clear_value X_)); (on_goal 1 => (dsimp -zeta only [X_]; clear X_)))
    | (extract_lets +onlyGivenNames X_; refine Does.cutOf (Prod.fst (α := State)) X_ ?_ ?_; (on_goal 2 => (intro _; clear_value X_)); (on_goal 1 => (dsimp -zeta only [X_]; clear X_)))
    | extract_lets +onlyGivenNames X_
    | with_reducible apply Does.set
    | with_reducible apply State.fresh_does
    | with_reducible exact ok_PWR_THERM_MAX_C (by decide)
    | with_reducible exact ok_PWR_THERM_SENSOR (by decide)
    | with_reducible exact ok_PWR_THERM_PEAK_C (by decide)
    | with_reducible exact ok_PWR_THERM_EMERG (by decide)
    | with_reducible exact ok_PWR_THERM_HOT (by decide)
    | with_reducible apply okField_ite
    | (with_reducible show Nat.testBit _ _ = true; decide)
    | (with_reducible show subMask _ _ = true; decide)
    | (intro _ _ _; beta_reduce)
    | with_reducible apply Does.ite
    | split
    | with_reducible apply Does.upd_pwr
    | apply Does.ite
    | dsimp -zeta only
    | refine Does.sndOf (by assumption) ?_
    | refine Does.fstOf (by assumption) ?_

theorem State.clearsNow_does {μ : Nat} {σ : State} (s : State) (hμ : subMask 2147713024 μ = true) (hδ : Does μ σ s) :
    Does μ σ (State.clearsNow s) := by
  refine Does.after (a := 2147713024) ?_ hμ hδ
  clear hδ hμ
  unfold State.clearsNow
  try dsimp -zeta only [State.fold_step]
  repeat' first
    | with_reducible assumption
    | with_reducible exact Does.rfl' _ _
    | (extract_lets +onlyGivenNames X_; refine Does.cut X_ ?_ ?_; (on_goal 2 => (intro _; clear_value X_)); (on_goal 1 => (dsimp -zeta only [X_]; clear X_)))
    | (extract_lets +onlyGivenNames X_; refine Does.cutOf (Prod.fst (α := State)) X_ ?_ ?_; (on_goal 2 => (intro _; clear_value X_)); (on_goal 1 => (dsimp -zeta only [X_]; clear X_)))
    | extract_lets +onlyGivenNames X_
    | with_reducible apply Does.set
    | with_reducible apply Does.forEach
    | with_reducible exact ok_GAUGE_CUM_COUNT _ (by decide)
    | with_reducible exact ok_TENSION_CUM_COUNT _ (by decide)
    | with_reducible exact ok_IDLE_CUM_TICKS _ (by decide)
    | with_reducible exact ok_GAUGE_CTRL_CLEAR_PENDING (by decide)
    | with_reducible exact ok_TENSION_CTRL_CLEAR_PENDING (by decide)
    | with_reducible exact ok_IDLE_CTRL_CLEAR_PENDING (by decide)
    | with_reducible apply okField_ite
    | (with_reducible show Nat.testBit _ _ = true; decide)
    | (with_reducible show subMask _ _ = true; decide)
    | (intro _ _ _; beta_reduce)
    | with_reducible apply Does.ite
    | split
    | with_reducible apply Does.upd_step
    | ((with_reducible show StepSt.prevPhase _ = StepSt.prevPhase _); rfl)
    | apply Does.ite
    | dsimp -zeta only
    | refine Does.sndOf (by assumption) ?_
    | refine Does.fstOf (by assumption) ?_

theorem State.abandonStep_does {μ : Nat} {σ : State} (s : State) (hμ : subMask 13733165506560 μ = true) (hδ : Does μ σ s) :
    Does μ σ (State.abandonStep s) := by
  refine Does.after (a := 13733165506560) ?_ hμ hδ
  clear hδ hμ
  unfold State.abandonStep
  try dsimp -zeta only [State.fold_pwr]
  repeat' first
    | with_reducible assumption
    | with_reducible exact Does.rfl' _ _
    | (extract_lets +onlyGivenNames X_; refine Does.cut X_ ?_ ?_; (on_goal 2 => (intro _; clear_value X_)); (on_goal 1 => (dsimp -zeta only [X_]; clear X_)))
    | (extract_lets +onlyGivenNames X_; refine Does.cutOf (Prod.fst (α := State)) X_ ?_ ?_; (on_goal 2 => (intro _; clear_value X_)); (on_goal 1 => (dsimp -zeta only [X_]; clear X_)))
    | extract_lets +onlyGivenNames X_
    | with_reducible apply State.clearsNow_does
    | with_reducible apply State.dropShadows_does
    | with_reducible apply State.endPauses_does
    | with_reducible apply State.freeStash_does
    | with_reducible apply State.wipeAccs_does
    | with_reducible apply okField_ite
    | (with_reducible show Nat.testBit _ _ = true; decide)
    | (with_reducible show subMask _ _ = true; decide)
    | (intro _ _ _; beta_reduce)
    | with_reducible apply Does.ite
    | split
    | with_reducible apply Does.upd_pwr
    | apply Does.ite
    | dsimp -zeta only
    | refine Does.sndOf (by assumption) ?_
    | refine Does.fstOf (by assumption) ?_

theorem State.emergencyStop_does {μ : Nat} {σ : State} (s : State) (hμ : subMask 31875661029940 μ = true) (hδ : Does μ σ s) :
    Does μ σ (State.emergencyStop s) := by
  refine Does.after (a := 31875661029940) ?_ hμ hδ
  clear hδ hμ
  unfold State.emergencyStop
  try dsimp -zeta only [State.fold_step]
  repeat' first
    | with_reducible assumption
    | with_reducible exact Does.rfl' _ _
    | (extract_lets +onlyGivenNames X_; refine Does.cut X_ ?_ ?_; (on_goal 2 => (intro _; clear_value X_)); (on_goal 1 => (dsimp -zeta only [X_]; clear X_)))
    | (extract_lets +onlyGivenNames X_; refine Does.cutOf (Prod.fst (α := State)) X_ ?_ ?_; (on_goal 2 => (intro _; clear_value X_)); (on_goal 1 => (dsimp -zeta only [X_]; clear X_)))
    | extract_lets +onlyGivenNames X_
    | with_reducible apply Does.set
    | with_reducible apply State.abandonStep_does
    | with_reducible apply State.breakSwatch_does
    | with_reducible apply State.emit_does
    | with_reducible apply State.endClusters_does
    | with_reducible apply State.enterHold_does
    | with_reducible apply State.gateAll_does
    | with_reducible apply State.logEv_does
    | with_reducible apply State.raiseFlag_does
    | with_reducible apply State.stopPlan_does
    | with_reducible exact ok_PWR_THERM_LAST_EVENT (by decide)
    | with_reducible exact ok_PWR_STATE_LAST_CAUSE (by decide)
    | with_reducible apply okField_ite
    | (with_reducible show Nat.testBit _ _ = true; decide)
    | (with_reducible show subMask _ _ = true; decide)
    | (intro _ _ _; beta_reduce)
    | with_reducible apply Does.ite
    | split
    | with_reducible apply Does.upd_step
    | ((with_reducible show StepSt.prevPhase _ = StepSt.prevPhase _); rfl)
    | apply Does.ite
    | dsimp -zeta only
    | refine Does.sndOf (by assumption) ?_
    | refine Does.fstOf (by assumption) ?_

end Sys2Proof.Machine
end

