-- ==== Sys2Proof/Laws/FFlash.lean ====
section
/-! SUPPORT. Laws/FFlash.lean: what every operation of Machine/Flash.lean leaves alone (see Laws/Frame.lean). -/

set_option linter.unreachableTactic false
set_option linter.unusedTactic false
set_option linter.tactic.unusedName false

namespace Sys2Proof.Machine

theorem State.writeRegion_does {μ : Nat} {σ : State} (s : State) (off : Nat) (w : Wr) (hf : Nat.testBit μ (blockOf off) = true) (hμ : subMask 536895744 μ = true) (hδ : Does μ σ s) :
    Does μ σ (State.writeRegion s off w) := by
  unfold State.writeRegion
  repeat' first
    | (extract_lets +onlyGivenNames X_; refine Does.cut X_ ?_ ?_; (on_goal 2 => (intro _; clear_value X_)); (on_goal 1 => (dsimp -zeta only [X_]; clear X_)))
    | (extract_lets +onlyGivenNames X_; refine Does.cutOf (Prod.fst (α := State)) X_ ?_ ?_; (on_goal 2 => (intro _; clear_value X_)); (on_goal 1 => (dsimp -zeta only [X_]; clear X_)))
    | extract_lets +onlyGivenNames X_
    | with_reducible assumption
    | with_reducible exact Does.rfl' _ _
    | with_reducible apply Does.set
    | with_reducible apply State.refuse_does
    | with_reducible apply State.regWrite_does
    | with_reducible exact okField_mono (ok_FTL_ERR_LAST_STATUS (by decide)) hμ
    | with_reducible apply okField_ite
    | exact testBit_all _ (by decide)
    | with_reducible exact testBit_mono (by decide) hμ
    | with_reducible exact subMask_trans (by decide) hμ
    | (intro _ _ _; beta_reduce)
    | with_reducible apply Does.ite
    | split
    | apply Does.ite
    | with_reducible exact hf _
    | with_reducible exact hf

theorem State.writeFormat_does {μ : Nat} {σ : State} (s : State) (w : Wr) (hμ : subMask 4398583406848 μ = true) (hδ : Does μ σ s) :
    Does μ σ (State.writeFormat s w) := by
  refine Does.after (a := 4398583406848) ?_ hμ hδ
  clear hδ hμ
  unfold State.writeFormat
  try dsimp -zeta only [State.fold_ftl]
  repeat' first
    | with_reducible assumption
    | with_reducible exact Does.rfl' _ _
    | (extract_lets +onlyGivenNames X_; refine Does.cut X_ ?_ ?_; (on_goal 2 => (intro _; clear_value X_)); (on_goal 1 => (dsimp -zeta only [X_]; clear X_)))
    | (extract_lets +onlyGivenNames X_; refine Does.cutOf (Prod.fst (α := State)) X_ ?_ ?_; (on_goal 2 => (intro _; clear_value X_)); (on_goal 1 => (dsimp -zeta only [X_]; clear X_)))
    | extract_lets +onlyGivenNames X_
    | with_reducible apply Does.set
    | with_reducible apply State.refuse_does
    | with_reducible apply State.regWrite_does
    | with_reducible exact ok_FTL_FORMAT_GO (by decide)
    | with_reducible exact ok_FTL_FORMAT_STATUS (by decide)
    | with_reducible exact ok_FTL_FORMAT_BUSY (by decide)
    | with_reducible exact ok_FTL_STATUS_STATE (by decide)
    | with_reducible apply okField_ite
    | (with_reducible show Nat.testBit _ _ = true; decide)
    | (with_reducible show subMask _ _ = true; decide)
    | (intro _ _ _; beta_reduce)
    | with_reducible apply Does.ite
    | split
    | with_reducible apply Does.upd_ftl
    | apply Does.ite
    | dsimp -zeta only
    | refine Does.sndOf (by assumption) ?_
    | refine Does.fstOf (by assumption) ?_

theorem State.keepLimit_does {μ : Nat} {σ : State} (t s : State) (f : Fld) (o : Nat) (hf : okField f μ = true) (hμ : subMask 536895488 μ = true) (hδ : Does μ σ t) :
    Does μ σ (State.keepLimit t s f o) := by
  unfold State.keepLimit
  repeat' first
    | (extract_lets +onlyGivenNames X_; refine Does.cut X_ ?_ ?_; (on_goal 2 => (intro _; clear_value X_)); (on_goal 1 => (dsimp -zeta only [X_]; clear X_)))
    | (extract_lets +onlyGivenNames X_; refine Does.cutOf (Prod.fst (α := State)) X_ ?_ ?_; (on_goal 2 => (intro _; clear_value X_)); (on_goal 1 => (dsimp -zeta only [X_]; clear X_)))
    | extract_lets +onlyGivenNames X_
    | with_reducible assumption
    | with_reducible exact Does.rfl' _ _
    | with_reducible apply Does.set
    | with_reducible apply State.refuse_does
    | with_reducible apply okField_ite
    | with_reducible exact testBit_mono (by decide) hμ
    | with_reducible exact subMask_trans (by decide) hμ
    | (intro _ _ _; beta_reduce)
    | with_reducible apply Does.ite
    | split
    | apply Does.ite
    | with_reducible exact hf _
    | with_reducible exact hf

theorem State.queueDisturbed_does {μ : Nat} {σ : State} (s was : State) (hμ : subMask 4398046511360 μ = true) (hδ : Does μ σ s) :
    Does μ σ (State.queueDisturbed s was) := by
  refine Does.after (a := 4398046511360) ?_ hμ hδ
  clear hδ hμ
  unfold State.queueDisturbed
  repeat' first
    | with_reducible assumption
    | with_reducible exact Does.rfl' _ _
    | (extract_lets +onlyGivenNames X_; refine Does.cut X_ ?_ ?_; (on_goal 2 => (intro _; clear_value X_)); (on_goal 1 => (dsimp -zeta only [X_]; clear X_)))
    | (extract_lets +onlyGivenNames X_; refine Does.cutOf (Prod.fst (α := State)) X_ ?_ ?_; (on_goal 2 => (intro _; clear_value X_)); (on_goal 1 => (dsimp -zeta only [X_]; clear X_)))
    | extract_lets +onlyGivenNames X_
    | with_reducible apply Does.set
    | with_reducible apply State.queueBlk_does
    | with_reducible apply Does.forEach
    | with_reducible exact ok_FTL_ERR_DISTURB_LATE (by decide)
    | with_reducible apply okField_ite
    | (with_reducible show Nat.testBit _ _ = true; decide)
    | (with_reducible show subMask _ _ = true; decide)
    | (intro _ _ _; beta_reduce)
    | with_reducible apply Does.ite
    | split
    | apply Does.ite
    | dsimp -zeta only
    | refine Does.sndOf (by assumption) ?_
    | refine Does.fstOf (by assumption) ?_

theorem State.writeDisturb_does {μ : Nat} {σ : State} (s : State) (w : Wr) (hμ : subMask 4398583406848 μ = true) (hδ : Does μ σ s) :
    Does μ σ (State.writeDisturb s w) := by
  refine Does.after (a := 4398583406848) ?_ hμ hδ
  clear hδ hμ
  unfold State.writeDisturb
  repeat' first
    | with_reducible assumption
    | with_reducible exact Does.rfl' _ _
    | (extract_lets +onlyGivenNames X_; refine Does.cut X_ ?_ ?_; (on_goal 2 => (intro _; clear_value X_)); (on_goal 1 => (dsimp -zeta only [X_]; clear X_)))
    | (extract_lets +onlyGivenNames X_; refine Does.cutOf (Prod.fst (α := State)) X_ ?_ ?_; (on_goal 2 => (intro _; clear_value X_)); (on_goal 1 => (dsimp -zeta only [X_]; clear X_)))
    | extract_lets +onlyGivenNames X_
    | with_reducible apply State.keepLimit_does
    | with_reducible apply State.queueDisturbed_does
    | with_reducible apply State.regWrite_does
    | with_reducible exact ok_FTL_DISTURB_SLC_LIMIT_K (by decide)
    | with_reducible exact ok_FTL_DISTURB_TLC_LIMIT_K (by decide)
    | with_reducible apply okField_ite
    | (with_reducible show Nat.testBit _ _ = true; decide)
    | (with_reducible show subMask _ _ = true; decide)
    | (intro _ _ _; beta_reduce)
    | with_reducible apply Does.ite
    | split
    | apply Does.ite
    | dsimp -zeta only
    | refine Does.sndOf (by assumption) ?_
    | refine Does.fstOf (by assumption) ?_

theorem execFtlFormat_does (m : Master) (v : BitVec 64) (s : State) (τ : State) (hδ : execFtlFormat m v s = .next τ) : Does 4398583406848 s τ := by
  unfold execFtlFormat at hδ
  obtain rfl := Host.Outcome.next.inj hδ
  clear hδ
  repeat' first
    | with_reducible assumption
    | with_reducible exact Does.rfl' _ _
    | (extract_lets +onlyGivenNames X_; refine Does.cut X_ ?_ ?_; (on_goal 2 => (intro _; clear_value X_)); (on_goal 1 => (dsimp -zeta only [X_]; clear X_)))
    | (extract_lets +onlyGivenNames X_; refine Does.cutOf (Prod.fst (α := State)) X_ ?_ ?_; (on_goal 2 => (intro _; clear_value X_)); (on_goal 1 => (dsimp -zeta only [X_]; clear X_)))
    | extract_lets +onlyGivenNames X_
    | with_reducible apply State.writeFormat_does
    | with_reducible apply okField_ite
    | (with_reducible show Nat.testBit _ _ = true; decide)
    | (with_reducible show subMask _ _ = true; decide)
    | (intro _ _ _; beta_reduce)
    | with_reducible apply Does.ite
    | split
    | apply Does.ite
    | dsimp -zeta only
    | refine Does.sndOf (by assumption) ?_
    | refine Does.fstOf (by assumption) ?_

theorem State.setArea_does {μ : Nat} {σ : State} (s : State) (pages : Nat) (hμ : subMask 384 μ = true) (hδ : Does μ σ s) :
    Does μ σ (State.setArea s pages) := by
  refine Does.after (a := 384) ?_ hμ hδ
  clear hδ hμ
  unfold State.setArea
  repeat' first
    | with_reducible assumption
    | with_reducible exact Does.rfl' _ _
    | (extract_lets +onlyGivenNames X_; refine Does.cut X_ ?_ ?_; (on_goal 2 => (intro _; clear_value X_)); (on_goal 1 => (dsimp -zeta only [X_]; clear X_)))
    | (extract_lets +onlyGivenNames X_; refine Does.cutOf (Prod.fst (α := State)) X_ ?_ ?_; (on_goal 2 => (intro _; clear_value X_)); (on_goal 1 => (dsimp -zeta only [X_]; clear X_)))
    | extract_lets +onlyGivenNames X_
    | with_reducible apply Does.set
    | with_reducible exact ok_TIER_POOL_FREE_HBM (by decide)
    | with_reducible exact ok_FTL_AREA_PAGES (by decide)
    | with_reducible exact ok_FTL_AREA_FIRST_PAGE (by decide)
    | with_reducible apply okField_ite
    | (with_reducible show Nat.testBit _ _ = true; decide)
    | (with_reducible show subMask _ _ = true; decide)
    | (intro _ _ _; beta_reduce)
    | with_reducible apply Does.ite
    | split
    | apply Does.ite
    | dsimp -zeta only
    | refine Does.sndOf (by assumption) ?_
    | refine Does.fstOf (by assumption) ?_

theorem State.showChannels_does {μ : Nat} {σ : State} (s : State) (hμ : subMask 256 μ = true) (hδ : Does μ σ s) :
    Does μ σ (State.showChannels s) := by
  refine Does.after (a := 256) ?_ hμ hδ
  clear hδ hμ
  unfold State.showChannels
  repeat' first
    | with_reducible assumption
    | with_reducible exact Does.rfl' _ _
    | (extract_lets +onlyGivenNames X_; refine Does.cut X_ ?_ ?_; (on_goal 2 => (intro _; clear_value X_)); (on_goal 1 => (dsimp -zeta only [X_]; clear X_)))
    | (extract_lets +onlyGivenNames X_; refine Does.cutOf (Prod.fst (α := State)) X_ ?_ ?_; (on_goal 2 => (intro _; clear_value X_)); (on_goal 1 => (dsimp -zeta only [X_]; clear X_)))
    | extract_lets +onlyGivenNames X_
    | with_reducible apply Does.set
    | with_reducible apply Does.forEach
    | with_reducible exact ok_FTL_CH_STATE _ (by decide)
    | with_reducible exact ok_FTL_CH_LUNS _ (by decide)
    | with_reducible exact ok_FTL_CH_LANE_MIN _ (by decide)
    | with_reducible exact ok_FTL_CH_GROWN_BAD _ (by decide)
    | with_reducible exact ok_FTL_STATUS_CH_FAILED (by decide)
    | with_reducible exact ok_FTL_STATUS_CH_DEGRADED (by decide)
    | with_reducible exact ok_FTL_STATUS_STATE (by decide)
    | with_reducible apply okField_ite
    | (with_reducible show Nat.testBit _ _ = true; decide)
    | (with_reducible show subMask _ _ = true; decide)
    | (intro _ _ _; beta_reduce)
    | with_reducible apply Does.ite
    | split
    | apply Does.ite
    | dsimp -zeta only
    | refine Does.sndOf (by assumption) ?_
    | refine Does.fstOf (by assumption) ?_

theorem State.showWear_does {μ : Nat} {σ : State} (s : State) (hμ : subMask 256 μ = true) (hδ : Does μ σ s) :
    Does μ σ (State.showWear s) := by
  refine Does.after (a := 256) ?_ hμ hδ
  clear hδ hμ
  unfold State.showWear
  repeat' first
    | with_reducible assumption
    | with_reducible exact Does.rfl' _ _
    | (extract_lets +onlyGivenNames X_; refine Does.cut X_ ?_ ?_; (on_goal 2 => (intro _; clear_value X_)); (on_goal 1 => (dsimp -zeta only [X_]; clear X_)))
    | (extract_lets +onlyGivenNames X_; refine Does.cutOf (Prod.fst (α := State)) X_ ?_ ?_; (on_goal 2 => (intro _; clear_value X_)); (on_goal 1 => (dsimp -zeta only [X_]; clear X_)))
    | extract_lets +onlyGivenNames X_
    | with_reducible apply Does.set
    | with_reducible exact ok_FTL_WEAR_SLC_MIN (by decide)
    | with_reducible exact ok_FTL_WEAR_SLC_MEAN (by decide)
    | with_reducible exact ok_FTL_WEAR_SLC_MAX (by decide)
    | with_reducible exact ok_FTL_WEAR_TLC_MIN (by decide)
    | with_reducible exact ok_FTL_WEAR_TLC_MEAN (by decide)
    | with_reducible exact ok_FTL_WEAR_TLC_MAX (by decide)
    | with_reducible exact ok_FTL_ERR_WEAR_WARN (by decide)
    | with_reducible apply okField_ite
    | (with_reducible show Nat.testBit _ _ = true; decide)
    | (with_reducible show subMask _ _ = true; decide)
    | (intro _ _ _; beta_reduce)
    | with_reducible apply Does.ite
    | split
    | apply Does.ite
    | dsimp -zeta only
    | refine Does.sndOf (by assumption) ?_
    | refine Does.fstOf (by assumption) ?_

theorem State.showFree_does {μ : Nat} {σ : State} (s : State) (hμ : subMask 256 μ = true) (hδ : Does μ σ s) :
    Does μ σ (State.showFree s) := by
  refine Does.after (a := 256) ?_ hμ hδ
  clear hδ hμ
  unfold State.showFree
  repeat' first
    | with_reducible assumption
    | with_reducible exact Does.rfl' _ _
    | (extract_lets +onlyGivenNames X_; refine Does.cut X_ ?_ ?_; (on_goal 2 => (intro _; clear_value X_)); (on_goal 1 => (dsimp -zeta only [X_]; clear X_)))
    | (extract_lets +onlyGivenNames X_; refine Does.cutOf (Prod.fst (α := State)) X_ ?_ ?_; (on_goal 2 => (intro _; clear_value X_)); (on_goal 1 => (dsimp -zeta only [X_]; clear X_)))
    | extract_lets +onlyGivenNames X_
    | with_reducible apply Does.set
    | with_reducible exact ok_FTL_FREE_SLC (by decide)
    | with_reducible exact ok_FTL_FREE_TLC (by decide)
    | with_reducible apply okField_ite
    | (with_reducible show Nat.testBit _ _ = true; decide)
    | (with_reducible show subMask _ _ = true; decide)
    | (intro _ _ _; beta_reduce)
    | with_reducible apply Does.ite
    | split
    | apply Does.ite
    | dsimp -zeta only
    | refine Does.sndOf (by assumption) ?_
    | refine Does.fstOf (by assumption) ?_

theorem State.formatted_does {μ : Nat} {σ : State} (s : State) (hμ : subMask 4398046511488 μ = true) (hδ : Does μ σ s) :
    Does μ σ (State.formatted s) := by
  refine Does.after (a := 4398046511488) ?_ hμ hδ
  clear hδ hμ
  unfold State.formatted
  try dsimp -zeta only [State.fold_ftl]
  repeat' first
    | with_reducible assumption
    | with_reducible exact Does.rfl' _ _
    | (extract_lets +onlyGivenNames X_; refine Does.cut X_ ?_ ?_; (on_goal 2 => (intro _; clear_value X_)); (on_goal 1 => (dsimp -zeta only [X_]; clear X_)))
    | (extract_lets +onlyGivenNames X_; refine Does.cutOf (Prod.fst (α := State)) X_ ?_ ?_; (on_goal 2 => (intro _; clear_value X_)); (on_goal 1 => (dsimp -zeta only [X_]; clear X_)))
    | extract_lets +onlyGivenNames X_
    | with_reducible apply Does.set
    | with_reducible apply State.setArea_does
    | with_reducible apply State.showChannels_does
    | with_reducible apply State.showFree_does
    | with_reducible apply State.showQueue_does
    | with_reducible apply State.showWear_does
    | with_reducible apply Does.foldl
    | with_reducible apply Does.foldlFst
    | with_reducible exact ok_FTL_STATUS_STATE (by decide)
    | with_reducible apply okField_ite
    | (with_reducible show Nat.testBit _ _ = true; decide)
    | (with_reducible show subMask _ _ = true; decide)
    | (intro _ _ _; beta_reduce)
    | with_reducible apply Does.ite
    | split
    | with_reducible apply Does.upd_ftl
    | apply Does.ite
    | dsimp -zeta only
    | refine Does.sndOf (by assumption) ?_
    | refine Does.fstOf (by assumption) ?_

theorem execFtlFormatDone_does (s : State) (τ : State) (hδ : execFtlFormatDone s = .next τ) : Does 4398046511488 s τ := by
  unfold execFtlFormatDone at hδ
  obtain rfl := Host.Outcome.next.inj hδ
  clear hδ
  try dsimp -zeta only [State.fold_ftl]
  repeat' first
    | with_reducible assumption
    | with_reducible exact Does.rfl' _ _
    | (extract_lets +onlyGivenNames X_; refine Does.cut X_ ?_ ?_; (on_goal 2 => (intro _; clear_value X_)); (on_goal 1 => (dsimp -zeta only [X_]; clear X_)))
    | (extract_lets +onlyGivenNames X_; refine Does.cutOf (Prod.fst (α := State)) X_ ?_ ?_; (on_goal 2 => (intro _; clear_value X_)); (on_goal 1 => (dsimp -zeta only [X_]; clear X_)))
    | extract_lets +onlyGivenNames X_
    | with_reducible apply Does.set
    | with_reducible apply State.formatted_does
    | with_reducible exact ok_FTL_FORMAT_BUSY (by decide)
    | with_reducible exact ok_FTL_STATUS_STATE (by decide)
    | with_reducible exact ok_FTL_STATUS_RATE (by decide)
    | with_reducible apply okField_ite
    | (with_reducible show Nat.testBit _ _ = true; decide)
    | (with_reducible show subMask _ _ = true; decide)
    | (intro _ _ _; beta_reduce)
    | with_reducible apply Does.ite
    | split
    | with_reducible apply Does.upd_ftl
    | apply Does.ite
    | dsimp -zeta only
    | refine Does.sndOf (by assumption) ?_
    | refine Does.fstOf (by assumption) ?_

theorem State.uncorrectable_does {μ : Nat} {σ : State} (s : State) (u cw : Nat) (hμ : subMask 4398600184112 μ = true) (hδ : Does μ σ s) :
    Does μ σ (State.uncorrectable s u cw) := by
  refine Does.after (a := 4398600184112) ?_ hμ hδ
  clear hδ hμ
  unfold State.uncorrectable
  try dsimp -zeta only [State.fold_ftl]
  repeat' first
    | with_reducible assumption
    | with_reducible exact Does.rfl' _ _
    | (extract_lets +onlyGivenNames X_; refine Does.cut X_ ?_ ?_; (on_goal 2 => (intro _; clear_value X_)); (on_goal 1 => (dsimp -zeta only [X_]; clear X_)))
    | (extract_lets +onlyGivenNames X_; refine Does.cutOf (Prod.fst (α := State)) X_ ?_ ?_; (on_goal 2 => (intro _; clear_value X_)); (on_goal 1 => (dsimp -zeta only [X_]; clear X_)))
    | extract_lets +onlyGivenNames X_
    | with_reducible apply Does.set
    | with_reducible apply State.flashErr_does
    | with_reducible apply State.queueBlk_does
    | with_reducible apply State.raiseFlag_does
    | with_reducible apply State.strStatus_does
    | with_reducible apply Does.forEach
    | with_reducible exact ok_FTL_ERR_UNCORRECTABLE (by decide)
    | with_reducible apply okField_ite
    | (with_reducible show Nat.testBit _ _ = true; decide)
    | (with_reducible show subMask _ _ = true; decide)
    | (intro _ _ _; beta_reduce)
    | with_reducible apply Does.ite
    | split
    | with_reducible apply Does.upd_ftl
    | apply Does.ite
    | dsimp -zeta only
    | refine Does.sndOf (by assumption) ?_
    | refine Does.fstOf (by assumption) ?_
    | (generalize ‹Option _› = w_; split)
    | (generalize ‹List _› = w_; split)

theorem execCodewordDecode_does (unit : Nat) (cw : Fin 16) (outcome : Nat) (s : State) (τ : State) (hδ : execCodewordDecode unit cw outcome s = .next τ) : Does 4398600184112 s τ := by
  unfold execCodewordDecode at hδ
  obtain rfl := Host.Outcome.next.inj hδ
  clear hδ
  try dsimp -zeta only [State.fold_ftl]
  repeat' first
    | with_reducible assumption
    | with_reducible exact Does.rfl' _ _
    | (extract_lets +onlyGivenNames X_; refine Does.cut X_ ?_ ?_; (on_goal 2 => (intro _; clear_value X_)); (on_goal 1 => (dsimp -zeta only [X_]; clear X_)))
    | (extract_lets +onlyGivenNames X_; refine Does.cutOf (Prod.fst (α := State)) X_ ?_ ?_; (on_goal 2 => (intro _; clear_value X_)); (on_goal 1 => (dsimp -zeta only [X_]; clear X_)))
    | extract_lets +onlyGivenNames X_
    | with_reducible apply State.countRead_does
    | with_reducible apply State.uncorrectable_does
    | with_reducible apply Does.forEach
    | with_reducible apply okField_ite
    | (with_reducible show Nat.testBit _ _ = true; decide)
    | (with_reducible show subMask _ _ = true; decide)
    | (intro _ _ _; beta_reduce)
    | with_reducible apply Does.ite
    | split
    | with_reducible apply Does.upd_ftl
    | apply Does.ite
    | dsimp -zeta only
    | refine Does.sndOf (by assumption) ?_
    | refine Does.fstOf (by assumption) ?_
    | (generalize ‹Option _› = w_; split)
    | (generalize ‹List _› = w_; split)

theorem State.loseUnit_does {μ : Nat} {σ : State} (s : State) (shadow : Bool) (u : Nat) (hμ : subMask 4398583406848 μ = true) (hδ : Does μ σ s) :
    Does μ σ (State.loseUnit s shadow u) := by
  refine Does.after (a := 4398583406848) ?_ hμ hδ
  clear hδ hμ
  unfold State.loseUnit
  try dsimp -zeta only [State.fold_ftl]
  repeat' first
    | with_reducible assumption
    | with_reducible exact Does.rfl' _ _
    | (extract_lets +onlyGivenNames X_; refine Does.cut X_ ?_ ?_; (on_goal 2 => (intro _; clear_value X_)); (on_goal 1 => (dsimp -zeta only [X_]; clear X_)))
    | (extract_lets +onlyGivenNames X_; refine Does.cutOf (Prod.fst (α := State)) X_ ?_ ?_; (on_goal 2 => (intro _; clear_value X_)); (on_goal 1 => (dsimp -zeta only [X_]; clear X_)))
    | extract_lets +onlyGivenNames X_
    | with_reducible apply State.flashErr_does
    | with_reducible apply Does.foldl
    | with_reducible apply Does.foldlFst
    | with_reducible apply okField_ite
    | (with_reducible show Nat.testBit _ _ = true; decide)
    | (with_reducible show subMask _ _ = true; decide)
    | (intro _ _ _; beta_reduce)
    | with_reducible apply Does.ite
    | split
    | with_reducible apply Does.upd_ftl
    | apply Does.ite
    | dsimp -zeta only
    | refine Does.sndOf (by assumption) ?_
    | refine Does.fstOf (by assumption) ?_

theorem State.rewriteUnit_does {μ : Nat} {σ : State} (s : State) (shadow : Bool) (u p : Nat) (hμ : subMask 4398046511360 μ = true) (hδ : Does μ σ s) :
    Does μ σ (State.rewriteUnit s shadow u p) := by
  refine Does.after (a := 4398046511360) ?_ hμ hδ
  clear hδ hμ
  unfold State.rewriteUnit
  try dsimp -zeta only [State.fold_ftl]
  repeat' first
    | with_reducible assumption
    | with_reducible exact Does.rfl' _ _
    | (extract_lets +onlyGivenNames X_; refine Does.cut X_ ?_ ?_; (on_goal 2 => (intro _; clear_value X_)); (on_goal 1 => (dsimp -zeta only [X_]; clear X_)))
    | (extract_lets +onlyGivenNames X_; refine Does.cutOf (Prod.fst (α := State)) X_ ?_ ?_; (on_goal 2 => (intro _; clear_value X_)); (on_goal 1 => (dsimp -zeta only [X_]; clear X_)))
    | extract_lets +onlyGivenNames X_
    | with_reducible apply State.programPlace_does
    | with_reducible apply okField_ite
    | (with_reducible show Nat.testBit _ _ = true; decide)
    | (with_reducible show subMask _ _ = true; decide)
    | (intro _ _ _; beta_reduce)
    | with_reducible apply Does.ite
    | split
    | with_reducible apply Does.upd_ftl
    | apply Does.ite
    | dsimp -zeta only
    | refine Does.sndOf (by assumption) ?_
    | refine Does.fstOf (by assumption) ?_

theorem State.moveUnit_does {μ : Nat} {σ : State} (s : State) (readable shadow : Bool) (u : Nat) (hμ : subMask 4398583406848 μ = true) (hδ : Does μ σ s) :
    Does μ σ (State.moveUnit s readable shadow u) := by
  refine Does.after (a := 4398583406848) ?_ hμ hδ
  clear hδ hμ
  unfold State.moveUnit
  repeat' first
    | with_reducible assumption
    | with_reducible exact Does.rfl' _ _
    | (extract_lets +onlyGivenNames X_; refine Does.cut X_ ?_ ?_; (on_goal 2 => (intro _; clear_value X_)); (on_goal 1 => (dsimp -zeta only [X_]; clear X_)))
    | (extract_lets +onlyGivenNames X_; refine Does.cutOf (Prod.fst (α := State)) X_ ?_ ?_; (on_goal 2 => (intro _; clear_value X_)); (on_goal 1 => (dsimp -zeta only [X_]; clear X_)))
    | extract_lets +onlyGivenNames X_
    | with_reducible apply State.countRead_does
    | with_reducible apply State.loseUnit_does
    | with_reducible apply State.rewriteUnit_does
    | with_reducible apply okField_ite
    | (with_reducible show Nat.testBit _ _ = true; decide)
    | (with_reducible show subMask _ _ = true; decide)
    | (intro _ _ _; beta_reduce)
    | with_reducible apply Does.ite
    | split
    | apply Does.ite
    | dsimp -zeta only
    | refine Does.sndOf (by assumption) ?_
    | refine Does.fstOf (by assumption) ?_
    | (generalize ‹Option _› = w_; split)
    | (generalize ‹List _› = w_; split)

theorem State.unitsWhere_does {μ : Nat} {σ : State} (s : State) (test : Nat → Bool) (f : State → Bool → Nat → State)
    (h0 : ∀ v x, Does μ σ v → Does μ σ (f v false x)) (h1 : ∀ v x, Does μ σ v → Does μ σ (f v true x)) (hδ : Does μ σ s) :
    Does μ σ (State.unitsWhere s test f) := Does.forEach _ _ (Does.forEach _ _ hδ h0) h1

theorem State.programAgain_does {μ : Nat} {σ : State} (s : State) (shadow : Bool) (u : Nat) (hμ : subMask 4398600184080 μ = true) (hδ : Does μ σ s) :
    Does μ σ (State.programAgain s shadow u) := by
  refine Does.after (a := 4398600184080) ?_ hμ hδ
  clear hδ hμ
  unfold State.programAgain
  repeat' first
    | with_reducible assumption
    | with_reducible exact Does.rfl' _ _
    | (extract_lets +onlyGivenNames X_; refine Does.cut X_ ?_ ?_; (on_goal 2 => (intro _; clear_value X_)); (on_goal 1 => (dsimp -zeta only [X_]; clear X_)))
    | (extract_lets +onlyGivenNames X_; refine Does.cutOf (Prod.fst (α := State)) X_ ?_ ?_; (on_goal 2 => (intro _; clear_value X_)); (on_goal 1 => (dsimp -zeta only [X_]; clear X_)))
    | extract_lets +onlyGivenNames X_
    | with_reducible apply Does.set
    | with_reducible apply State.loseUnit_does
    | with_reducible apply State.raiseFlag_does
    | with_reducible apply State.rewriteUnit_does
    | with_reducible exact ok_FTL_ERR_NO_SPACE (by decide)
    | with_reducible apply okField_ite
    | (with_reducible show Nat.testBit _ _ = true; decide)
    | (with_reducible show subMask _ _ = true; decide)
    | (intro _ _ _; beta_reduce)
    | with_reducible apply Does.ite
    | split
    | apply Does.ite
    | dsimp -zeta only
    | refine Does.sndOf (by assumption) ?_
    | refine Does.fstOf (by assumption) ?_
    | (generalize ‹Option _› = w_; split)
    | (generalize ‹List _› = w_; split)

theorem execFlashProgramFail_does (block : Nat) (s : State) (τ : State) (hδ : execFlashProgramFail block s = .next τ) : Does 4398600184080 s τ := by
  unfold execFlashProgramFail at hδ
  obtain rfl := Host.Outcome.next.inj hδ
  clear hδ
  try dsimp -zeta only [State.fold_ftl]
  repeat' first
    | with_reducible assumption
    | with_reducible exact Does.rfl' _ _
    | (extract_lets +onlyGivenNames X_; refine Does.cut X_ ?_ ?_; (on_goal 2 => (intro _; clear_value X_)); (on_goal 1 => (dsimp -zeta only [X_]; clear X_)))
    | (extract_lets +onlyGivenNames X_; refine Does.cutOf (Prod.fst (α := State)) X_ ?_ ?_; (on_goal 2 => (intro _; clear_value X_)); (on_goal 1 => (dsimp -zeta only [X_]; clear X_)))
    | extract_lets +onlyGivenNames X_
    | with_reducible apply State.programAgain_does
    | with_reducible apply State.queueBlk_does
    | with_reducible apply State.unitsWhere_does
    | with_reducible apply okField_ite
    | (with_reducible show Nat.testBit _ _ = true; decide)
    | (with_reducible show subMask _ _ = true; decide)
    | (intro _ _ _; beta_reduce)
    | with_reducible apply Does.ite
    | split
    | with_reducible apply Does.upd_ftl
    | apply Does.ite
    | dsimp -zeta only
    | refine Does.sndOf (by assumption) ?_
    | refine Does.fstOf (by assumption) ?_

theorem State.loseFlashChannel_does {μ : Nat} {σ : State} (s : State) (ch : Nat) (hμ : subMask 256 μ = true) (hδ : Does μ σ s) :
    Does μ σ (State.loseFlashChannel s ch) := by
  refine Does.after (a := 256) ?_ hμ hδ
  clear hδ hμ
  unfold State.loseFlashChannel
  repeat' first
    | with_reducible assumption
    | with_reducible exact Does.rfl' _ _
    | (extract_lets +onlyGivenNames X_; refine Does.cut X_ ?_ ?_; (on_goal 2 => (intro _; clear_value X_)); (on_goal 1 => (dsimp -zeta only [X_]; clear X_)))
    | (extract_lets +onlyGivenNames X_; refine Does.cutOf (Prod.fst (α := State)) X_ ?_ ?_; (on_goal 2 => (intro _; clear_value X_)); (on_goal 1 => (dsimp -zeta only [X_]; clear X_)))
    | extract_lets +onlyGivenNames X_
    | with_reducible apply Does.addSat
    | with_reducible exact ok_FTL_ERR_COUNT (by decide)
    | with_reducible apply okField_ite
    | (with_reducible show Nat.testBit _ _ = true; decide)
    | (with_reducible show subMask _ _ = true; decide)
    | (intro _ _ _; beta_reduce)
    | with_reducible apply Does.ite
    | split
    | apply Does.ite
    | dsimp -zeta only
    | refine Does.sndOf (by assumption) ?_
    | refine Does.fstOf (by assumption) ?_

theorem State.retireLun_does {μ : Nat} {σ : State} (s : State) (l : Nat) (answers : Bool) (hμ : subMask 4398583406848 μ = true) (hδ : Does μ σ s) :
    Does μ σ (State.retireLun s l answers) := by
  refine Does.after (a := 4398583406848) ?_ hμ hδ
  clear hδ hμ
  unfold State.retireLun
  try dsimp -zeta only [State.fold_ftl]
  repeat' first
    | with_reducible assumption
    | with_reducible exact Does.rfl' _ _
    | (extract_lets +onlyGivenNames X_; refine Does.cut X_ ?_ ?_; (on_goal 2 => (intro _; clear_value X_)); (on_goal 1 => (dsimp -zeta only [X_]; clear X_)))
    | (extract_lets +onlyGivenNames X_; refine Does.cutOf (Prod.fst (α := State)) X_ ?_ ?_; (on_goal 2 => (intro _; clear_value X_)); (on_goal 1 => (dsimp -zeta only [X_]; clear X_)))
    | extract_lets +onlyGivenNames X_
    | with_reducible apply Does.set
    | with_reducible apply State.flashErr_does
    | with_reducible apply State.loseFlashChannel_does
    | with_reducible apply State.moveUnit_does
    | with_reducible apply State.queueBlk_does
    | with_reducible apply State.showChannels_does
    | with_reducible apply State.showFree_does
    | with_reducible apply State.showWear_does
    | with_reducible apply State.unitsWhere_does
    | with_reducible apply Does.forEach
    | with_reducible exact ok_FTL_ERR_LUN_RETIRED (by decide)
    | with_reducible apply okField_ite
    | (with_reducible show Nat.testBit _ _ = true; decide)
    | (with_reducible show subMask _ _ = true; decide)
    | (intro _ _ _; beta_reduce)
    | with_reducible apply Does.ite
    | split
    | with_reducible apply Does.upd_ftl
    | apply Does.ite
    | dsimp -zeta only
    | refine Does.sndOf (by assumption) ?_
    | refine Does.fstOf (by assumption) ?_

theorem State.retireBlk_does {μ : Nat} {σ : State} (s : State) (b : Nat) (hμ : subMask 4398583406848 μ = true) (hδ : Does μ σ s) :
    Does μ σ (State.retireBlk s b) := by
  refine Does.after (a := 4398583406848) ?_ hμ hδ
  clear hδ hμ
  unfold State.retireBlk
  try dsimp -zeta only [State.fold_ftl]
  repeat' first
    | with_reducible assumption
    | with_reducible exact Does.rfl' _ _
    | (extract_lets +onlyGivenNames X_; refine Does.cut X_ ?_ ?_; (on_goal 2 => (intro _; clear_value X_)); (on_goal 1 => (dsimp -zeta only [X_]; clear X_)))
    | (extract_lets +onlyGivenNames X_; refine Does.cutOf (Prod.fst (α := State)) X_ ?_ ?_; (on_goal 2 => (intro _; clear_value X_)); (on_goal 1 => (dsimp -zeta only [X_]; clear X_)))
    | extract_lets +onlyGivenNames X_
    | with_reducible apply Does.set
    | with_reducible apply State.retireLun_does
    | with_reducible apply State.showChannels_does
    | with_reducible apply State.showFree_does
    | with_reducible apply State.showWear_does
    | with_reducible exact ok_FTL_ERR_GROWN_BAD (by decide)
    | with_reducible apply okField_ite
    | (with_reducible show Nat.testBit _ _ = true; decide)
    | (with_reducible show subMask _ _ = true; decide)
    | (intro _ _ _; beta_reduce)
    | with_reducible apply Does.ite
    | split
    | with_reducible apply Does.upd_ftl
    | apply Does.ite
    | dsimp -zeta only
    | refine Does.sndOf (by assumption) ?_
    | refine Does.fstOf (by assumption) ?_

theorem execLunRetire_does (ch lun : Fin 32) (answers : Bool) (s : State) (τ : State) (hδ : execLunRetire ch lun answers s = .next τ) : Does 4398583406848 s τ := by
  unfold execLunRetire at hδ
  obtain rfl := Host.Outcome.next.inj hδ
  clear hδ
  repeat' first
    | with_reducible assumption
    | with_reducible exact Does.rfl' _ _
    | (extract_lets +onlyGivenNames X_; refine Does.cut X_ ?_ ?_; (on_goal 2 => (intro _; clear_value X_)); (on_goal 1 => (dsimp -zeta only [X_]; clear X_)))
    | (extract_lets +onlyGivenNames X_; refine Does.cutOf (Prod.fst (α := State)) X_ ?_ ?_; (on_goal 2 => (intro _; clear_value X_)); (on_goal 1 => (dsimp -zeta only [X_]; clear X_)))
    | extract_lets +onlyGivenNames X_
    | with_reducible apply State.retireLun_does
    | with_reducible apply okField_ite
    | (with_reducible show Nat.testBit _ _ = true; decide)
    | (with_reducible show subMask _ _ = true; decide)
    | (intro _ _ _; beta_reduce)
    | with_reducible apply Does.ite
    | split
    | apply Does.ite
    | dsimp -zeta only
    | refine Does.sndOf (by assumption) ?_
    | refine Does.fstOf (by assumption) ?_

theorem State.settleHost_does {μ : Nat} {σ : State} (s : State) (x : FlashUndo) (hμ : subMask 4398054899712 μ = true) (hδ : Does μ σ s) :
    Does μ σ (State.settleHost s x) := by
  refine Does.after (a := 4398054899712) ?_ hμ hδ
  clear hδ hμ
  unfold State.settleHost
  try dsimp -zeta only [State.fold_ftl]
  repeat' first
    | with_reducible assumption
    | with_reducible exact Does.rfl' _ _
    | (extract_lets +onlyGivenNames X_; refine Does.cut X_ ?_ ?_; (on_goal 2 => (intro _; clear_value X_)); (on_goal 1 => (dsimp -zeta only [X_]; clear X_)))
    | (extract_lets +onlyGivenNames X_; refine Does.cutOf (Prod.fst (α := State)) X_ ?_ ?_; (on_goal 2 => (intro _; clear_value X_)); (on_goal 1 => (dsimp -zeta only [X_]; clear X_)))
    | extract_lets +onlyGivenNames X_
    | with_reducible apply State.fresh_does
    | with_reducible apply State.setBlk_does
    | with_reducible apply okField_ite
    | (with_reducible show Nat.testBit _ _ = true; decide)
    | (with_reducible show subMask _ _ = true; decide)
    | (intro _ _ _; beta_reduce)
    | with_reducible apply Does.ite
    | split
    | with_reducible apply Does.upd_ftl
    | apply Does.ite
    | dsimp -zeta only
    | refine Does.sndOf (by assumption) ?_
    | refine Does.fstOf (by assumption) ?_
    | (generalize ‹Option _› = w_; split)
    | (generalize ‹List _› = w_; split)

theorem State.closeBg_does {μ : Nat} {σ : State} (s : State) (w : BgWork) (hμ : subMask 4398046511104 μ = true) (hδ : Does μ σ s) :
    Does μ σ (State.closeBg s w) := by
  refine Does.after (a := 4398046511104) ?_ hμ hδ
  clear hδ hμ
  unfold State.closeBg
  repeat' first
    | with_reducible assumption
    | with_reducible exact Does.rfl' _ _
    | (extract_lets +onlyGivenNames X_; refine Does.cut X_ ?_ ?_; (on_goal 2 => (intro _; clear_value X_)); (on_goal 1 => (dsimp -zeta only [X_]; clear X_)))
    | (extract_lets +onlyGivenNames X_; refine Does.cutOf (Prod.fst (α := State)) X_ ?_ ?_; (on_goal 2 => (intro _; clear_value X_)); (on_goal 1 => (dsimp -zeta only [X_]; clear X_)))
    | extract_lets +onlyGivenNames X_
    | with_reducible apply State.setBlk_does
    | with_reducible apply okField_ite
    | (with_reducible show Nat.testBit _ _ = true; decide)
    | (with_reducible show subMask _ _ = true; decide)
    | (intro _ _ _; beta_reduce)
    | with_reducible apply Does.ite
    | split
    | apply Does.ite
    | dsimp -zeta only
    | refine Does.sndOf (by assumption) ?_
    | refine Does.fstOf (by assumption) ?_

theorem State.closeShadow_does {μ : Nat} {σ : State} (s : State) (b : Nat) (hμ : subMask 4398054899712 μ = true) (hδ : Does μ σ s) :
    Does μ σ (State.closeShadow s b) := by
  refine Does.after (a := 4398054899712) ?_ hμ hδ
  clear hδ hμ
  unfold State.closeShadow
  repeat' first
    | with_reducible assumption
    | with_reducible exact Does.rfl' _ _
    | (extract_lets +onlyGivenNames X_; refine Does.cut X_ ?_ ?_; (on_goal 2 => (intro _; clear_value X_)); (on_goal 1 => (dsimp -zeta only [X_]; clear X_)))
    | (extract_lets +onlyGivenNames X_; refine Does.cutOf (Prod.fst (α := State)) X_ ?_ ?_; (on_goal 2 => (intro _; clear_value X_)); (on_goal 1 => (dsimp -zeta only [X_]; clear X_)))
    | extract_lets +onlyGivenNames X_
    | with_reducible apply State.fresh_does
    | with_reducible apply State.setBlk_does
    | with_reducible apply okField_ite
    | (with_reducible show Nat.testBit _ _ = true; decide)
    | (with_reducible show subMask _ _ = true; decide)
    | (intro _ _ _; beta_reduce)
    | with_reducible apply Does.ite
    | split
    | apply Does.ite
    | dsimp -zeta only
    | refine Does.sndOf (by assumption) ?_
    | refine Does.fstOf (by assumption) ?_

theorem execFtlRecovery_does (s : State) (τ : State) (hδ : execFtlRecovery s = .next τ) : Does 4398054900096 s τ := by
  unfold execFtlRecovery at hδ
  obtain rfl := Host.Outcome.next.inj hδ
  clear hδ
  try dsimp -zeta only [State.fold_ftl]
  repeat' first
    | with_reducible assumption
    | with_reducible exact Does.rfl' _ _
    | (extract_lets +onlyGivenNames X_; refine Does.cut X_ ?_ ?_; (on_goal 2 => (intro _; clear_value X_)); (on_goal 1 => (dsimp -zeta only [X_]; clear X_)))
    | (extract_lets +onlyGivenNames X_; refine Does.cutOf (Prod.fst (α := State)) X_ ?_ ?_; (on_goal 2 => (intro _; clear_value X_)); (on_goal 1 => (dsimp -zeta only [X_]; clear X_)))
    | extract_lets +onlyGivenNames X_
    | with_reducible apply Does.set
    | with_reducible apply State.closeBg_does
    | with_reducible apply State.closeShadow_does
    | with_reducible apply State.setArea_does
    | with_reducible apply State.settleHost_does
    | with_reducible apply State.showChannels_does
    | with_reducible apply State.showFree_does
    | with_reducible apply State.showQueue_does
    | with_reducible apply State.showWear_does
    | with_reducible apply Does.forEach
    | with_reducible apply Does.foldl
    | with_reducible apply Does.foldlFst
    | with_reducible exact ok_FTL_REGION_SLC_UNITS (by decide)
    | with_reducible exact ok_FTL_REGION_SLC_OP (by decide)
    | with_reducible exact ok_FTL_REGION_TLC_UNITS (by decide)
    | with_reducible exact ok_FTL_REGION_TLC_OP (by decide)
    | with_reducible exact ok_FTL_COMMIT_DURABLE_STEP (by decide)
    | with_reducible exact ok_FTL_COMMIT_COMMITTED_STEP (by decide)
    | with_reducible exact ok_FTL_STATUS_STATE (by decide)
    | with_reducible apply okField_ite
    | (with_reducible show Nat.testBit _ _ = true; decide)
    | (with_reducible show subMask _ _ = true; decide)
    | (intro _ _ _; beta_reduce)
    | with_reducible apply Does.ite
    | split
    | with_reducible apply Does.upd_ftl
    | apply Does.ite
    | dsimp -zeta only
    | refine Does.sndOf (by assumption) ?_
    | refine Does.fstOf (by assumption) ?_

end Sys2Proof.Machine
end

