-- ==== Sys2Proof/Laws/FQueues.lean ====
section
/-! SUPPORT. Laws/FQueues.lean: what every operation of Machine/Queues.lean leaves alone (see Laws/Frame.lean). -/

set_option linter.unreachableTactic false
set_option linter.unusedTactic false
set_option linter.tactic.unusedName false

namespace Sys2Proof.Machine

theorem State.raiseOwned_does {μ : Nat} {σ : State} (s : State) (own v : Nat) (hμ : subMask 4194368 μ = true) (hδ : Does μ σ s) :
    Does μ σ (State.raiseOwned s own v) := by
  refine Does.after (a := 4194368) ?_ hμ hδ
  clear hδ hμ
  unfold State.raiseOwned
  repeat' first
    | with_reducible assumption
    | with_reducible exact Does.rfl' _ _
    | (extract_lets +onlyGivenNames X_; refine Does.cut X_ ?_ ?_; (on_goal 2 => (intro _; clear_value X_)); (on_goal 1 => (dsimp -zeta only [X_]; clear X_)))
    | (extract_lets +onlyGivenNames X_; refine Does.cutOf (Prod.fst (α := State)) X_ ?_ ?_; (on_goal 2 => (intro _; clear_value X_)); (on_goal 1 => (dsimp -zeta only [X_]; clear X_)))
    | extract_lets +onlyGivenNames X_
    | with_reducible apply State.raiseVec_does
    | with_reducible apply okField_ite
    | (with_reducible show Nat.testBit _ _ = true; decide)
    | (with_reducible show subMask _ _ = true; decide)
    | (intro _ _ _; beta_reduce)
    | with_reducible apply Does.ite
    | split
    | apply Does.ite
    | dsimp -zeta only
    | refine Does.sndOf (by assumption) ?_
    | refine Does.fstOf (by assumption) ?_

theorem State.hqErr_does {μ : Nat} {σ : State} (s : State) (st : Nat) (bit : Fld) (hf : okField bit μ = true) (hμ : subMask 64 μ = true) (hδ : Does μ σ s) :
    Does μ σ (State.hqErr s st bit) := by
  unfold State.hqErr
  repeat' first
    | (extract_lets +onlyGivenNames X_; refine Does.cut X_ ?_ ?_; (on_goal 2 => (intro _; clear_value X_)); (on_goal 1 => (dsimp -zeta only [X_]; clear X_)))
    | (extract_lets +onlyGivenNames X_; refine Does.cutOf (Prod.fst (α := State)) X_ ?_ ?_; (on_goal 2 => (intro _; clear_value X_)); (on_goal 1 => (dsimp -zeta only [X_]; clear X_)))
    | extract_lets +onlyGivenNames X_
    | with_reducible assumption
    | with_reducible exact Does.rfl' _ _
    | with_reducible apply Does.set
    | with_reducible apply Does.bump
    | with_reducible exact okField_mono (ok_HQ_ERR_LAST_STATUS (by decide)) hμ
    | with_reducible exact okField_mono (ok_HQ_ERR_COUNT (by decide)) hμ
    | with_reducible apply okField_ite
    | with_reducible exact testBit_mono (by decide) hμ
    | with_reducible exact subMask_trans (by decide) hμ
    | (intro _ _ _; beta_reduce)
    | with_reducible apply Does.ite
    | split
    | with_reducible exact hf _
    | with_reducible exact hf

theorem State.fetchSq_does {μ : Nat} {σ : State} (s : State) (q : Nat) (fuel_ : Nat) (hμ : subMask 2199027449856 μ = true) (hδ : Does μ σ s) :
    Does μ σ (State.fetchSq s q fuel_) := by
  refine Does.after (a := 2199027449856) ?_ hμ hδ
  clear hδ hμ
  induction fuel_ generalizing s with
  | zero => unfold State.fetchSq; exact Does.rfl' _ _
  | succ fuel_ ih =>
    unfold State.fetchSq
    try dsimp -zeta only [State.fold_host]
    repeat' first
      | with_reducible assumption
      | with_reducible exact Does.rfl' _ _
      | (extract_lets +onlyGivenNames X_; refine Does.cut X_ ?_ ?_; (on_goal 2 => (intro _; clear_value X_)); (on_goal 1 => (dsimp -zeta only [X_]; clear X_)))
      | (extract_lets +onlyGivenNames X_; refine Does.cutOf (Prod.fst (α := State)) X_ ?_ ?_; (on_goal 2 => (intro _; clear_value X_)); (on_goal 1 => (dsimp -zeta only [X_]; clear X_)))
      | extract_lets +onlyGivenNames X_
      | with_reducible apply Does.set
      | with_reducible apply State.emit_does
      | with_reducible apply okField_ite
      | (with_reducible show Nat.testBit _ _ = true; decide)
      | (with_reducible show subMask _ _ = true; decide)
      | (intro _ _ _; beta_reduce)
      | with_reducible apply Does.ite
      | split
      | with_reducible apply Does.upd_host
      | (with_reducible refine Does.trans ?_ (ih _))
      | apply Does.ite
      | dsimp -zeta only
      | refine Does.sndOf (by assumption) ?_
      | refine Does.fstOf (by assumption) ?_

theorem State.tagHeld_does {μ : Nat} {σ : State} (s : State) (from_ tag : Nat) (hμ : subMask 2233382993920 μ = true) (hδ : Does μ σ s) :
    Does μ σ (State.tagHeld s from_ tag) := by
  refine Does.after (a := 2233382993920) ?_ hμ hδ
  clear hδ hμ
  unfold State.tagHeld
  try dsimp -zeta only [State.fold_host]
  repeat' first
    | with_reducible assumption
    | with_reducible exact Does.rfl' _ _
    | (extract_lets +onlyGivenNames X_; refine Does.cut X_ ?_ ?_; (on_goal 2 => (intro _; clear_value X_)); (on_goal 1 => (dsimp -zeta only [X_]; clear X_)))
    | (extract_lets +onlyGivenNames X_; refine Does.cutOf (Prod.fst (α := State)) X_ ?_ ?_; (on_goal 2 => (intro _; clear_value X_)); (on_goal 1 => (dsimp -zeta only [X_]; clear X_)))
    | extract_lets +onlyGivenNames X_
    | with_reducible apply okField_ite
    | (with_reducible show Nat.testBit _ _ = true; decide)
    | (with_reducible show subMask _ _ = true; decide)
    | (intro _ _ _; beta_reduce)
    | with_reducible apply Does.ite
    | split
    | with_reducible apply Does.upd_host
    | apply Does.ite
    | dsimp -zeta only
    | refine Does.sndOf (by assumption) ?_
    | refine Does.fstOf (by assumption) ?_

theorem State.writeCpl_does {μ : Nat} {σ : State} (s : State) (c : DueCpl) (hμ : subMask 2233387188288 μ = true) (hδ : Does μ σ s) :
    Does μ σ (State.writeCpl s c) := by
  refine Does.after (a := 2233387188288) ?_ hμ hδ
  clear hδ hμ
  unfold State.writeCpl
  try dsimp -zeta only [State.fold_host]
  repeat' first
    | with_reducible assumption
    | with_reducible exact Does.rfl' _ _
    | (extract_lets +onlyGivenNames X_; refine Does.cut X_ ?_ ?_; (on_goal 2 => (intro _; clear_value X_)); (on_goal 1 => (dsimp -zeta only [X_]; clear X_)))
    | (extract_lets +onlyGivenNames X_; refine Does.cutOf (Prod.fst (α := State)) X_ ?_ ?_; (on_goal 2 => (intro _; clear_value X_)); (on_goal 1 => (dsimp -zeta only [X_]; clear X_)))
    | extract_lets +onlyGivenNames X_
    | with_reducible apply Does.set
    | with_reducible apply State.emitHost_does
    | with_reducible apply State.raiseOwned_does
    | with_reducible apply State.tagHeld_does
    | with_reducible exact ok_HQ_Q_STATUS_LAST_STATUS _ (by decide)
    | with_reducible exact ok_HQ_Q_STATUS_CQ_TAIL _ (by decide)
    | with_reducible apply okField_ite
    | (with_reducible show Nat.testBit _ _ = true; decide)
    | (with_reducible show subMask _ _ = true; decide)
    | (intro _ _ _; beta_reduce)
    | with_reducible apply Does.ite
    | split
    | with_reducible apply Does.upd_host
    | apply Does.ite
    | dsimp -zeta only
    | refine Does.sndOf (by assumption) ?_
    | refine Does.fstOf (by assumption) ?_

theorem State.flushCq_does {μ : Nat} {σ : State} (s : State) (q : Nat) (fuel_ : Nat) (hμ : subMask 2233387188288 μ = true) (hδ : Does μ σ s) :
    Does μ σ (State.flushCq s q fuel_) := by
  refine Does.after (a := 2233387188288) ?_ hμ hδ
  clear hδ hμ
  induction fuel_ generalizing s with
  | zero => unfold State.flushCq; exact Does.rfl' _ _
  | succ fuel_ ih =>
    unfold State.flushCq
    try dsimp -zeta only [State.fold_host]
    repeat' first
      | with_reducible assumption
      | with_reducible exact Does.rfl' _ _
      | (extract_lets +onlyGivenNames X_; refine Does.cut X_ ?_ ?_; (on_goal 2 => (intro _; clear_value X_)); (on_goal 1 => (dsimp -zeta only [X_]; clear X_)))
      | (extract_lets +onlyGivenNames X_; refine Does.cutOf (Prod.fst (α := State)) X_ ?_ ?_; (on_goal 2 => (intro _; clear_value X_)); (on_goal 1 => (dsimp -zeta only [X_]; clear X_)))
      | extract_lets +onlyGivenNames X_
      | with_reducible apply State.writeCpl_does
      | with_reducible apply okField_ite
      | (with_reducible show Nat.testBit _ _ = true; decide)
      | (with_reducible show subMask _ _ = true; decide)
      | (intro _ _ _; beta_reduce)
      | with_reducible apply Does.ite
      | split
      | with_reducible apply Does.upd_host
      | (with_reducible refine Does.trans ?_ (ih _))
      | apply Does.ite
      | dsimp -zeta only
      | refine Does.sndOf (by assumption) ?_
      | refine Does.fstOf (by assumption) ?_
      | (generalize ‹Option _› = w_; split)
      | (generalize ‹List _› = w_; split)

theorem State.cplDue_does {μ : Nat} {σ : State} (s : State) (t : Taken) (st : Nat) (hμ : subMask 2233387188288 μ = true) (hδ : Does μ σ s) :
    Does μ σ (State.cplDue s t st) := by
  refine Does.after (a := 2233387188288) ?_ hμ hδ
  clear hδ hμ
  unfold State.cplDue
  try dsimp -zeta only [State.fold_host]
  repeat' first
    | with_reducible assumption
    | with_reducible exact Does.rfl' _ _
    | (extract_lets +onlyGivenNames X_; refine Does.cut X_ ?_ ?_; (on_goal 2 => (intro _; clear_value X_)); (on_goal 1 => (dsimp -zeta only [X_]; clear X_)))
    | (extract_lets +onlyGivenNames X_; refine Does.cutOf (Prod.fst (α := State)) X_ ?_ ?_; (on_goal 2 => (intro _; clear_value X_)); (on_goal 1 => (dsimp -zeta only [X_]; clear X_)))
    | extract_lets +onlyGivenNames X_
    | with_reducible apply State.flushCq_does
    | with_reducible apply State.hqErr_does
    | with_reducible exact ok_HQ_ERR_QUEUE (by decide)
    | with_reducible apply okField_ite
    | (with_reducible show Nat.testBit _ _ = true; decide)
    | (with_reducible show subMask _ _ = true; decide)
    | (intro _ _ _; beta_reduce)
    | with_reducible apply Does.ite
    | split
    | with_reducible apply Does.upd_host
    | apply Does.ite
    | dsimp -zeta only
    | refine Does.sndOf (by assumption) ?_
    | refine Does.fstOf (by assumption) ?_

theorem State.settleFences_does {μ : Nat} {σ : State} (s : State) (q : Nat) (fuel_ : Nat) (hμ : subMask 2233387188288 μ = true) (hδ : Does μ σ s) :
    Does μ σ (State.settleFences s q fuel_) := by
  refine Does.after (a := 2233387188288) ?_ hμ hδ
  clear hδ hμ
  induction fuel_ generalizing s with
  | zero => unfold State.settleFences; exact Does.rfl' _ _
  | succ fuel_ ih =>
    unfold State.settleFences
    repeat' first
      | with_reducible assumption
      | with_reducible exact Does.rfl' _ _
      | (extract_lets +onlyGivenNames X_; refine Does.cut X_ ?_ ?_; (on_goal 2 => (intro _; clear_value X_)); (on_goal 1 => (dsimp -zeta only [X_]; clear X_)))
      | (extract_lets +onlyGivenNames X_; refine Does.cutOf (Prod.fst (α := State)) X_ ?_ ?_; (on_goal 2 => (intro _; clear_value X_)); (on_goal 1 => (dsimp -zeta only [X_]; clear X_)))
      | extract_lets +onlyGivenNames X_
      | with_reducible apply State.cplDue_does
      | with_reducible apply okField_ite
      | (with_reducible show Nat.testBit _ _ = true; decide)
      | (with_reducible show subMask _ _ = true; decide)
      | (intro _ _ _; beta_reduce)
      | with_reducible apply Does.ite
      | split
      | (with_reducible refine Does.trans ?_ (ih _))
      | apply Does.ite
      | dsimp -zeta only
      | refine Does.sndOf (by assumption) ?_
      | refine Does.fstOf (by assumption) ?_
      | (generalize ‹Option _› = w_; split)
      | (generalize ‹List _› = w_; split)

theorem State.complete_does {μ : Nat} {σ : State} (s : State) (t : Taken) (st : Nat) (hμ : subMask 2233387188288 μ = true) (hδ : Does μ σ s) :
    Does μ σ (State.complete s t st) := by
  refine Does.after (a := 2233387188288) ?_ hμ hδ
  clear hδ hμ
  unfold State.complete
  repeat' first
    | with_reducible assumption
    | with_reducible exact Does.rfl' _ _
    | (extract_lets +onlyGivenNames X_; refine Does.cut X_ ?_ ?_; (on_goal 2 => (intro _; clear_value X_)); (on_goal 1 => (dsimp -zeta only [X_]; clear X_)))
    | (extract_lets +onlyGivenNames X_; refine Does.cutOf (Prod.fst (α := State)) X_ ?_ ?_; (on_goal 2 => (intro _; clear_value X_)); (on_goal 1 => (dsimp -zeta only [X_]; clear X_)))
    | extract_lets +onlyGivenNames X_
    | with_reducible apply State.cplDue_does
    | with_reducible apply State.settleFences_does
    | with_reducible apply okField_ite
    | (with_reducible show Nat.testBit _ _ = true; decide)
    | (with_reducible show subMask _ _ = true; decide)
    | (intro _ _ _; beta_reduce)
    | with_reducible apply Does.ite
    | split
    | apply Does.ite
    | dsimp -zeta only
    | refine Does.sndOf (by assumption) ?_
    | refine Does.fstOf (by assumption) ?_

theorem State.completeOn_does {μ : Nat} {σ : State} (s : State) (op n : Nat) (hμ : subMask 2233387188288 μ = true) (hδ : Does μ σ s) :
    Does μ σ (State.completeOn s op n) := by
  refine Does.after (a := 2233387188288) ?_ hμ hδ
  clear hδ hμ
  unfold State.completeOn
  repeat' first
    | with_reducible assumption
    | with_reducible exact Does.rfl' _ _
    | (extract_lets +onlyGivenNames X_; refine Does.cut X_ ?_ ?_; (on_goal 2 => (intro _; clear_value X_)); (on_goal 1 => (dsimp -zeta only [X_]; clear X_)))
    | (extract_lets +onlyGivenNames X_; refine Does.cutOf (Prod.fst (α := State)) X_ ?_ ?_; (on_goal 2 => (intro _; clear_value X_)); (on_goal 1 => (dsimp -zeta only [X_]; clear X_)))
    | extract_lets +onlyGivenNames X_
    | with_reducible apply State.complete_does
    | with_reducible apply Does.foldl
    | with_reducible apply Does.foldlFst
    | with_reducible apply okField_ite
    | (with_reducible show Nat.testBit _ _ = true; decide)
    | (with_reducible show subMask _ _ = true; decide)
    | (intro _ _ _; beta_reduce)
    | with_reducible apply Does.ite
    | split
    | apply Does.ite
    | dsimp -zeta only
    | refine Does.sndOf (by assumption) ?_
    | refine Does.fstOf (by assumption) ?_

end Sys2Proof.Machine
end

