-- ==== Sys2Proof/Laws/FStreamIO.lean ====
section
/-! SUPPORT. Laws/FStreamIO.lean: what every operation of Machine/StreamIO.lean leaves alone (see Laws/Frame.lean). -/

set_option linter.unreachableTactic false
set_option linter.unusedTactic false
set_option linter.tactic.unusedName false

namespace Sys2Proof.Machine

theorem State.releaseStash_does {μ : Nat} {σ : State} (s : State) (hμ : subMask 4294967296 μ = true) (hδ : Does μ σ s) :
    Does μ σ (State.releaseStash s) := by
  refine Does.after (a := 4294967296) ?_ hμ hδ
  clear hδ hμ
  unfold State.releaseStash
  try dsimp -zeta only [State.fold_stash]
  repeat' first
    | with_reducible assumption
    | with_reducible exact Does.rfl' _ _
    | (extract_lets +onlyGivenNames X_; refine Does.cut X_ ?_ ?_; (on_goal 2 => (intro _; clear_value X_)); (on_goal 1 => (dsimp -zeta only [X_]; clear X_)))
    | (extract_lets +onlyGivenNames X_; refine Does.cutOf (Prod.fst (α := State)) X_ ?_ ?_; (on_goal 2 => (intro _; clear_value X_)); (on_goal 1 => (dsimp -zeta only [X_]; clear X_)))
    | extract_lets +onlyGivenNames X_
    | with_reducible apply Does.foldl
    | with_reducible apply Does.foldlFst
    | with_reducible apply okField_ite
    | (with_reducible show Nat.testBit _ _ = true; decide)
    | (with_reducible show subMask _ _ = true; decide)
    | (intro _ _ _; beta_reduce)
    | with_reducible apply Does.ite
    | split
    | with_reducible apply Does.upd_stash
    | apply Does.ite
    | dsimp -zeta only
    | refine Does.sndOf (by assumption) ?_
    | refine Does.fstOf (by assumption) ?_

theorem State.emitReads_does {μ : Nat} {σ : State} (s : State) (n q addr len : Nat) (hμ : subMask 4194304 μ = true) (hδ : Does μ σ s) :
    Does μ σ (State.emitReads s n q addr len) := by
  refine Does.after (a := 4194304) ?_ hμ hδ
  clear hδ hμ
  unfold State.emitReads
  repeat' first
    | with_reducible assumption
    | with_reducible exact Does.rfl' _ _
    | (extract_lets +onlyGivenNames X_; refine Does.cut X_ ?_ ?_; (on_goal 2 => (intro _; clear_value X_)); (on_goal 1 => (dsimp -zeta only [X_]; clear X_)))
    | (extract_lets +onlyGivenNames X_; refine Does.cutOf (Prod.fst (α := State)) X_ ?_ ?_; (on_goal 2 => (intro _; clear_value X_)); (on_goal 1 => (dsimp -zeta only [X_]; clear X_)))
    | extract_lets +onlyGivenNames X_
    | with_reducible apply State.emit_does
    | with_reducible apply Does.foldl
    | with_reducible apply Does.foldlFst
    | with_reducible apply okField_ite
    | (with_reducible show Nat.testBit _ _ = true; decide)
    | (with_reducible show subMask _ _ = true; decide)
    | (intro _ _ _; beta_reduce)
    | with_reducible apply Does.ite
    | split
    | apply Does.ite
    | dsimp -zeta only
    | refine Does.sndOf (by assumption) ?_
    | refine Does.fstOf (by assumption) ?_

theorem State.askPiece_does {μ : Nat} {σ : State} (s : State) (n q : Nat) (p : Nat × Nat) (hμ : subMask 274882101248 μ = true) (hδ : Does μ σ s) :
    Does μ σ (State.askPiece s n q p) := by
  refine Does.after (a := 274882101248) ?_ hμ hδ
  clear hδ hμ
  unfold State.askPiece
  repeat' first
    | with_reducible assumption
    | with_reducible exact Does.rfl' _ _
    | (extract_lets +onlyGivenNames X_; refine Does.cut X_ ?_ ?_; (on_goal 2 => (intro _; clear_value X_)); (on_goal 1 => (dsimp -zeta only [X_]; clear X_)))
    | (extract_lets +onlyGivenNames X_; refine Does.cutOf (Prod.fst (α := State)) X_ ?_ ?_; (on_goal 2 => (intro _; clear_value X_)); (on_goal 1 => (dsimp -zeta only [X_]; clear X_)))
    | extract_lets +onlyGivenNames X_
    | with_reducible apply State.countPage_does
    | with_reducible apply State.emitReads_does
    | with_reducible apply okField_ite
    | (with_reducible show Nat.testBit _ _ = true; decide)
    | (with_reducible show subMask _ _ = true; decide)
    | (intro _ _ _; beta_reduce)
    | with_reducible apply Does.ite
    | split
    | apply Does.ite
    | dsimp -zeta only
    | refine Does.sndOf (by assumption) ?_
    | refine Does.fstOf (by assumption) ?_
    | (generalize ‹Option _› = w_; split)
    | (generalize ‹List _› = w_; split)

theorem State.askFar_does {μ : Nat} {σ : State} (s : State) (n q : Nat) (l : List (Nat × Nat)) (hμ : subMask 309241839616 μ = true) (hδ : Does μ σ s) :
    Does μ σ (State.askFar s n q l) := by
  refine Does.after (a := 309241839616) ?_ hμ hδ
  clear hδ hμ
  unfold State.askFar
  repeat' first
    | with_reducible assumption
    | with_reducible exact Does.rfl' _ _
    | (extract_lets +onlyGivenNames X_; refine Does.cut X_ ?_ ?_; (on_goal 2 => (intro _; clear_value X_)); (on_goal 1 => (dsimp -zeta only [X_]; clear X_)))
    | (extract_lets +onlyGivenNames X_; refine Does.cutOf (Prod.fst (α := State)) X_ ?_ ?_; (on_goal 2 => (intro _; clear_value X_)); (on_goal 1 => (dsimp -zeta only [X_]; clear X_)))
    | extract_lets +onlyGivenNames X_
    | with_reducible apply State.askPiece_does
    | with_reducible apply State.take_does
    | with_reducible apply Does.foldl
    | with_reducible apply Does.foldlFst
    | with_reducible apply okField_ite
    | (with_reducible show Nat.testBit _ _ = true; decide)
    | (with_reducible show subMask _ _ = true; decide)
    | (intro _ _ _; beta_reduce)
    | with_reducible apply Does.ite
    | split
    | apply Does.ite
    | dsimp -zeta only
    | refine Does.sndOf (by assumption) ?_
    | refine Does.fstOf (by assumption) ?_

theorem State.noteFar_does {μ : Nat} {σ : State} (s : State) (n side addr : Nat) (hμ : subMask 549755813888 μ = true) (hδ : Does μ σ s) :
    Does μ σ (State.noteFar s n side addr) := by
  refine Does.after (a := 549755813888) ?_ hμ hδ
  clear hδ hμ
  unfold State.noteFar
  repeat' first
    | with_reducible assumption
    | with_reducible exact Does.rfl' _ _
    | (extract_lets +onlyGivenNames X_; refine Does.cut X_ ?_ ?_; (on_goal 2 => (intro _; clear_value X_)); (on_goal 1 => (dsimp -zeta only [X_]; clear X_)))
    | (extract_lets +onlyGivenNames X_; refine Does.cutOf (Prod.fst (α := State)) X_ ?_ ?_; (on_goal 2 => (intro _; clear_value X_)); (on_goal 1 => (dsimp -zeta only [X_]; clear X_)))
    | extract_lets +onlyGivenNames X_
    | with_reducible apply State.setStr_does
    | with_reducible apply okField_ite
    | (with_reducible show Nat.testBit _ _ = true; decide)
    | (with_reducible show subMask _ _ = true; decide)
    | (intro _ _ _; beta_reduce)
    | with_reducible apply Does.ite
    | split
    | apply Does.ite
    | dsimp -zeta only
    | refine Does.sndOf (by assumption) ?_
    | refine Does.fstOf (by assumption) ?_

theorem State.spend_does {μ : Nat} {σ : State} (s : State) (p gr : Nat) (hμ : subMask 103079215104 μ = true) (hδ : Does μ σ s) :
    Does μ σ (State.spend s p gr) := by
  refine Does.after (a := 103079215104) ?_ hμ hδ
  clear hδ hμ
  unfold State.spend
  repeat' first
    | with_reducible assumption
    | with_reducible exact Does.rfl' _ _
    | (extract_lets +onlyGivenNames X_; refine Does.cut X_ ?_ ?_; (on_goal 2 => (intro _; clear_value X_)); (on_goal 1 => (dsimp -zeta only [X_]; clear X_)))
    | (extract_lets +onlyGivenNames X_; refine Does.cutOf (Prod.fst (α := State)) X_ ?_ ?_; (on_goal 2 => (intro _; clear_value X_)); (on_goal 1 => (dsimp -zeta only [X_]; clear X_)))
    | extract_lets +onlyGivenNames X_
    | with_reducible apply State.setPort_does
    | with_reducible apply State.take_does
    | with_reducible apply okField_ite
    | (with_reducible show Nat.testBit _ _ = true; decide)
    | (with_reducible show subMask _ _ = true; decide)
    | (intro _ _ _; beta_reduce)
    | with_reducible apply Does.ite
    | split
    | apply Does.ite
    | dsimp -zeta only
    | refine Does.sndOf (by assumption) ?_
    | refine Does.fstOf (by assumption) ?_

theorem State.sendWr_does {μ : Nat} {σ : State} (s : State) (p a : Nat) (l : List MByte) (hμ : subMask 103083411456 μ = true) (hδ : Does μ σ s) :
    Does μ σ (State.sendWr s p a l) := by
  refine Does.after (a := 103083411456) ?_ hμ hδ
  clear hδ hμ
  unfold State.sendWr
  repeat' first
    | with_reducible assumption
    | with_reducible exact Does.rfl' _ _
    | (extract_lets +onlyGivenNames X_; refine Does.cut X_ ?_ ?_; (on_goal 2 => (intro _; clear_value X_)); (on_goal 1 => (dsimp -zeta only [X_]; clear X_)))
    | (extract_lets +onlyGivenNames X_; refine Does.cutOf (Prod.fst (α := State)) X_ ?_ ?_; (on_goal 2 => (intro _; clear_value X_)); (on_goal 1 => (dsimp -zeta only [X_]; clear X_)))
    | extract_lets +onlyGivenNames X_
    | with_reducible apply Does.set
    | with_reducible apply State.emit_does
    | with_reducible apply State.spend_does
    | with_reducible exact ok_CDP_TRAFFIC_OUT_GRANULES _ (by decide)
    | with_reducible apply okField_ite
    | (with_reducible show Nat.testBit _ _ = true; decide)
    | (with_reducible show subMask _ _ = true; decide)
    | (intro _ _ _; beta_reduce)
    | with_reducible apply Does.ite
    | split
    | apply Does.ite
    | dsimp -zeta only
    | refine Does.sndOf (by assumption) ?_
    | refine Does.fstOf (by assumption) ?_

theorem State.putPort_does {m : Nat} {s₀ : State} (s : State) (n p : Nat) (l : List (Nat × List MByte)) (hm : subMask 652839225344 m = true)
    (h : Does m s₀ s) : Does m s₀ (s.putPort n p l).1 := by
  induction l generalizing s with
  | nil => exact h
  | cons c t ih =>
    unfold State.putPort
    split
    · exact ih _ (State.noteFar_does _ _ _ _ (subMask_trans (by decide) hm) (State.sendWr_does _ _ _ _ (subMask_trans (by decide) hm) h))
    · exact h

theorem State.addRing_does {μ : Nat} {σ : State} (s : State) (x : RingWrite) (hμ : subMask 17626545782784 μ = true) (hδ : Does μ σ s) :
    Does μ σ (State.addRing s x) := by
  refine Does.after (a := 17626545782784) ?_ hμ hδ
  clear hδ hμ
  unfold State.addRing
  try dsimp -zeta only [State.fold_clu]
  repeat' first
    | with_reducible assumption
    | with_reducible exact Does.rfl' _ _
    | (extract_lets +onlyGivenNames X_; refine Does.cut X_ ?_ ?_; (on_goal 2 => (intro _; clear_value X_)); (on_goal 1 => (dsimp -zeta only [X_]; clear X_)))
    | (extract_lets +onlyGivenNames X_; refine Does.cutOf (Prod.fst (α := State)) X_ ?_ ?_; (on_goal 2 => (intro _; clear_value X_)); (on_goal 1 => (dsimp -zeta only [X_]; clear X_)))
    | extract_lets +onlyGivenNames X_
    | with_reducible apply State.give_does
    | with_reducible apply State.take_does
    | with_reducible apply okField_ite
    | (with_reducible show Nat.testBit _ _ = true; decide)
    | (with_reducible show subMask _ _ = true; decide)
    | (intro _ _ _; beta_reduce)
    | with_reducible apply Does.ite
    | split
    | with_reducible apply Does.upd_clu
    | apply Does.ite
    | dsimp -zeta only
    | refine Does.sndOf (by assumption) ?_
    | refine Does.fstOf (by assumption) ?_

theorem State.noteRing_does {μ : Nat} {σ : State} (s : State) (oa : Nat) (l : List MByte) (hμ : subMask 17626545782784 μ = true) (hδ : Does μ σ s) :
    Does μ σ (State.noteRing s oa l) := by
  refine Does.after (a := 17626545782784) ?_ hμ hδ
  clear hδ hμ
  unfold State.noteRing
  repeat' first
    | with_reducible assumption
    | with_reducible exact Does.rfl' _ _
    | (extract_lets +onlyGivenNames X_; refine Does.cut X_ ?_ ?_; (on_goal 2 => (intro _; clear_value X_)); (on_goal 1 => (dsimp -zeta only [X_]; clear X_)))
    | (extract_lets +onlyGivenNames X_; refine Does.cutOf (Prod.fst (α := State)) X_ ?_ ?_; (on_goal 2 => (intro _; clear_value X_)); (on_goal 1 => (dsimp -zeta only [X_]; clear X_)))
    | extract_lets +onlyGivenNames X_
    | with_reducible apply State.addRing_does
    | with_reducible apply okField_ite
    | (with_reducible show Nat.testBit _ _ = true; decide)
    | (with_reducible show subMask _ _ = true; decide)
    | (intro _ _ _; beta_reduce)
    | with_reducible apply Does.ite
    | split
    | apply Does.ite
    | dsimp -zeta only
    | refine Does.sndOf (by assumption) ?_
    | refine Does.fstOf (by assumption) ?_
    | (generalize ‹Option _› = w_; split)
    | (generalize ‹List _› = w_; split)

theorem State.noteFlash_does {μ : Nat} {σ : State} (s : State) (n oa len : Nat) (hμ : subMask 549755813888 μ = true) (hδ : Does μ σ s) :
    Does μ σ (State.noteFlash s n oa len) := by
  refine Does.after (a := 549755813888) ?_ hμ hδ
  clear hδ hμ
  unfold State.noteFlash
  repeat' first
    | with_reducible assumption
    | with_reducible exact Does.rfl' _ _
    | (extract_lets +onlyGivenNames X_; refine Does.cut X_ ?_ ?_; (on_goal 2 => (intro _; clear_value X_)); (on_goal 1 => (dsimp -zeta only [X_]; clear X_)))
    | (extract_lets +onlyGivenNames X_; refine Does.cutOf (Prod.fst (α := State)) X_ ?_ ?_; (on_goal 2 => (intro _; clear_value X_)); (on_goal 1 => (dsimp -zeta only [X_]; clear X_)))
    | extract_lets +onlyGivenNames X_
    | with_reducible apply State.setStr_does
    | with_reducible apply Does.foldl
    | with_reducible apply Does.foldlFst
    | with_reducible apply okField_ite
    | (with_reducible show Nat.testBit _ _ = true; decide)
    | (with_reducible show subMask _ _ = true; decide)
    | (intro _ _ _; beta_reduce)
    | with_reducible apply Does.ite
    | split
    | apply Does.ite
    | dsimp -zeta only
    | refine Does.sndOf (by assumption) ?_
    | refine Does.fstOf (by assumption) ?_
    | (generalize ‹Option _› = w_; split)
    | (generalize ‹List _› = w_; split)

theorem State.note_does {μ : Nat} {σ : State} (s : State) (n st cause : Nat) (hμ : subMask 16777264 μ = true) (hδ : Does μ σ s) :
    Does μ σ (State.note s n st cause) := by
  refine Does.after (a := 16777264) ?_ hμ hδ
  clear hδ hμ
  unfold State.note
  repeat' first
    | with_reducible assumption
    | with_reducible exact Does.rfl' _ _
    | (extract_lets +onlyGivenNames X_; refine Does.cut X_ ?_ ?_; (on_goal 2 => (intro _; clear_value X_)); (on_goal 1 => (dsimp -zeta only [X_]; clear X_)))
    | (extract_lets +onlyGivenNames X_; refine Does.cutOf (Prod.fst (α := State)) X_ ?_ ?_; (on_goal 2 => (intro _; clear_value X_)); (on_goal 1 => (dsimp -zeta only [X_]; clear X_)))
    | extract_lets +onlyGivenNames X_
    | with_reducible apply State.raiseFlag_does
    | with_reducible apply State.strStatus_does
    | with_reducible apply okField_ite
    | (with_reducible show Nat.testBit _ _ = true; decide)
    | (with_reducible show subMask _ _ = true; decide)
    | (intro _ _ _; beta_reduce)
    | with_reducible apply Does.ite
    | split
    | apply Does.ite
    | dsimp -zeta only
    | refine Does.sndOf (by assumption) ?_
    | refine Does.fstOf (by assumption) ?_

theorem State.putRaw_does {μ : Nat} {σ : State} (s : State) (n q oa : Nat) (l : List MByte) (hμ : subMask 25065990152624 μ = true) (hδ : Does μ σ s) :
    Does μ σ (State.putRaw s n q oa l) := by
  refine Does.after (a := 25065990152624) ?_ hμ hδ
  clear hδ hμ
  unfold State.putRaw
  repeat' first
    | with_reducible assumption
    | with_reducible exact Does.rfl' _ _
    | (extract_lets +onlyGivenNames X_; refine Does.cut X_ ?_ ?_; (on_goal 2 => (intro _; clear_value X_)); (on_goal 1 => (dsimp -zeta only [X_]; clear X_)))
    | (extract_lets +onlyGivenNames X_; refine Does.cutOf (Prod.fst (α := State)) X_ ?_ ?_; (on_goal 2 => (intro _; clear_value X_)); (on_goal 1 => (dsimp -zeta only [X_]; clear X_)))
    | (extract_lets +onlyGivenNames X_; refine Does.cutOf Got.st X_ ?_ ?_; (on_goal 2 => (intro _; clear_value X_)); (on_goal 1 => (dsimp -zeta only [X_]; clear X_)))
    | (extract_lets +onlyGivenNames X_; refine Does.cutOf (fun x => Got.st (Prod.fst x)) X_ ?_ ?_; (on_goal 2 => (intro _; clear_value X_)); (on_goal 1 => (dsimp -zeta only [X_]; clear X_)))
    | extract_lets +onlyGivenNames X_
    | with_reducible apply State.note_does
    | with_reducible apply State.noteFar_does
    | with_reducible apply State.noteFlash_does
    | with_reducible apply State.noteRing_does
    | with_reducible apply State.setStr_does
    | with_reducible apply State.tagHeld_does
    | with_reducible apply State.writeOA_does
    | with_reducible apply Does.foldl
    | with_reducible apply Does.foldlOf Got.st
    | with_reducible apply Does.foldlOf (fun x => Got.st (Prod.fst x))
    | with_reducible apply Does.foldlFst
    | with_reducible apply okField_ite
    | (with_reducible show Nat.testBit _ _ = true; decide)
    | (with_reducible show subMask _ _ = true; decide)
    | (intro _ _ _; beta_reduce)
    | with_reducible apply Does.ite
    | split
    | apply Does.ite
    | dsimp -zeta only
    | refine Does.sndOf (by assumption) ?_
    | refine Does.fstOf (by assumption) ?_
    | (generalize ‹Option _› = w_; split)
    | (generalize ‹List _› = w_; split)

theorem State.putOA_does {μ : Nat} {σ : State} (s : State) (n q oa : Nat) (l : List MByte) (hμ : subMask 25065990152624 μ = true) (hδ : Does μ σ s) :
    Does μ σ (State.putOA s n q oa l) := by
  refine Does.after (a := 25065990152624) ?_ hμ hδ
  clear hδ hμ
  have h : Does 25065990152624 s (s.putRaw n q oa l) := State.putRaw_does s n q oa l (by decide) (Does.rfl' _ _)
  unfold State.putOA
  split
  · exact h
  · exact {
      pending := h.pending
      sent := List.prefix_append _ _
      free := h.free
      kept := fun k => ⟨(h.kept k).regs, (h.kept k).mem, (h.kept k).ports, (h.kept k).phase, (h.kept k).power⟩
      frame := fun p hp => by
        have hs := h.frame p hp
        cases p
        case sent => exact absurd hp (by decide)
        case host => exact absurd hp (by decide)
        all_goals exact hs }

theorem State.putDst_does {μ : Nat} {σ : State} (s : State) (n q dst : Nat) (l : List MByte) (hμ : subMask 25134709631408 μ = true) (hδ : Does μ σ s) :
    Does μ σ (State.putDst s n q dst l) := by
  refine Does.after (a := 25134709631408) ?_ hμ hδ
  clear hδ hμ
  unfold State.putDst
  repeat' first
    | with_reducible assumption
    | with_reducible exact Does.rfl' _ _
    | (extract_lets +onlyGivenNames X_; refine Does.cut X_ ?_ ?_; (on_goal 2 => (intro _; clear_value X_)); (on_goal 1 => (dsimp -zeta only [X_]; clear X_)))
    | (extract_lets +onlyGivenNames X_; refine Does.cutOf (Prod.fst (α := State)) X_ ?_ ?_; (on_goal 2 => (intro _; clear_value X_)); (on_goal 1 => (dsimp -zeta only [X_]; clear X_)))
    | extract_lets +onlyGivenNames X_
    | with_reducible apply State.putOA_does
    | with_reducible apply State.putPort_does
    | with_reducible apply okField_ite
    | (with_reducible show Nat.testBit _ _ = true; decide)
    | (with_reducible show subMask _ _ = true; decide)
    | (intro _ _ _; beta_reduce)
    | with_reducible apply Does.ite
    | split
    | apply Does.ite
    | dsimp -zeta only
    | refine Does.sndOf (by assumption) ?_
    | refine Does.fstOf (by assumption) ?_

theorem State.putStatus_does {μ : Nat} {σ : State} (s : State) (n dst : Nat) (l : List Byte) (hμ : subMask 25134709631408 μ = true) (hδ : Does μ σ s) :
    Does μ σ (State.putStatus s n dst l) := by
  refine Does.after (a := 25134709631408) ?_ hμ hδ
  clear hδ hμ
  unfold State.putStatus
  repeat' first
    | with_reducible assumption
    | with_reducible exact Does.rfl' _ _
    | (extract_lets +onlyGivenNames X_; refine Does.cut X_ ?_ ?_; (on_goal 2 => (intro _; clear_value X_)); (on_goal 1 => (dsimp -zeta only [X_]; clear X_)))
    | (extract_lets +onlyGivenNames X_; refine Does.cutOf (Prod.fst (α := State)) X_ ?_ ?_; (on_goal 2 => (intro _; clear_value X_)); (on_goal 1 => (dsimp -zeta only [X_]; clear X_)))
    | extract_lets +onlyGivenNames X_
    | with_reducible apply State.putPort_does
    | with_reducible apply State.putRaw_does
    | with_reducible apply State.tagHeld_does
    | with_reducible apply okField_ite
    | (with_reducible show Nat.testBit _ _ = true; decide)
    | (with_reducible show subMask _ _ = true; decide)
    | (intro _ _ _; beta_reduce)
    | with_reducible apply Does.ite
    | split
    | apply Does.ite
    | dsimp -zeta only
    | refine Does.sndOf (by assumption) ?_
    | refine Does.fstOf (by assumption) ?_

theorem State.closeStr_does {μ : Nat} {σ : State} (s : State) (n : Nat) (hμ : subMask 25134709631472 μ = true) (hδ : Does μ σ s) :
    Does μ σ (State.closeStr s n) := by
  refine Does.after (a := 25134709631472) ?_ hμ hδ
  clear hδ hμ
  unfold State.closeStr
  repeat' first
    | with_reducible assumption
    | with_reducible exact Does.rfl' _ _
    | (extract_lets +onlyGivenNames X_; refine Does.cut X_ ?_ ?_; (on_goal 2 => (intro _; clear_value X_)); (on_goal 1 => (dsimp -zeta only [X_]; clear X_)))
    | (extract_lets +onlyGivenNames X_; refine Does.cutOf (Prod.fst (α := State)) X_ ?_ ?_; (on_goal 2 => (intro _; clear_value X_)); (on_goal 1 => (dsimp -zeta only [X_]; clear X_)))
    | extract_lets +onlyGivenNames X_
    | with_reducible apply State.completeOn_does
    | with_reducible apply State.endStr_does
    | with_reducible apply State.putStatus_does
    | with_reducible apply State.raiseOwned_does
    | with_reducible apply okField_ite
    | (with_reducible show Nat.testBit _ _ = true; decide)
    | (with_reducible show subMask _ _ = true; decide)
    | (intro _ _ _; beta_reduce)
    | with_reducible apply Does.ite
    | split
    | apply Does.ite
    | dsimp -zeta only
    | refine Does.sndOf (by assumption) ?_
    | refine Does.fstOf (by assumption) ?_

theorem State.tryClose_does {μ : Nat} {σ : State} (s : State) (n : Nat) (hμ : subMask 25134709631472 μ = true) (hδ : Does μ σ s) :
    Does μ σ (State.tryClose s n) := by
  refine Does.after (a := 25134709631472) ?_ hμ hδ
  clear hδ hμ
  unfold State.tryClose
  repeat' first
    | with_reducible assumption
    | with_reducible exact Does.rfl' _ _
    | (extract_lets +onlyGivenNames X_; refine Does.cut X_ ?_ ?_; (on_goal 2 => (intro _; clear_value X_)); (on_goal 1 => (dsimp -zeta only [X_]; clear X_)))
    | (extract_lets +onlyGivenNames X_; refine Does.cutOf (Prod.fst (α := State)) X_ ?_ ?_; (on_goal 2 => (intro _; clear_value X_)); (on_goal 1 => (dsimp -zeta only [X_]; clear X_)))
    | extract_lets +onlyGivenNames X_
    | with_reducible apply State.closeStr_does
    | with_reducible apply State.invalidate_does
    | with_reducible apply okField_ite
    | (with_reducible show Nat.testBit _ _ = true; decide)
    | (with_reducible show subMask _ _ = true; decide)
    | (intro _ _ _; beta_reduce)
    | with_reducible apply Does.ite
    | split
    | apply Does.ite
    | dsimp -zeta only
    | refine Does.sndOf (by assumption) ?_
    | refine Does.fstOf (by assumption) ?_

theorem State.closeStopped_does {μ : Nat} {σ : State} (s : State) (hμ : subMask 25134709631472 μ = true) (hδ : Does μ σ s) :
    Does μ σ (State.closeStopped s) := by
  refine Does.after (a := 25134709631472) ?_ hμ hδ
  clear hδ hμ
  unfold State.closeStopped
  repeat' first
    | with_reducible assumption
    | with_reducible exact Does.rfl' _ _
    | (extract_lets +onlyGivenNames X_; refine Does.cut X_ ?_ ?_; (on_goal 2 => (intro _; clear_value X_)); (on_goal 1 => (dsimp -zeta only [X_]; clear X_)))
    | (extract_lets +onlyGivenNames X_; refine Does.cutOf (Prod.fst (α := State)) X_ ?_ ?_; (on_goal 2 => (intro _; clear_value X_)); (on_goal 1 => (dsimp -zeta only [X_]; clear X_)))
    | extract_lets +onlyGivenNames X_
    | with_reducible apply State.tryClose_does
    | with_reducible apply Does.forEach
    | with_reducible apply okField_ite
    | (with_reducible show Nat.testBit _ _ = true; decide)
    | (with_reducible show subMask _ _ = true; decide)
    | (intro _ _ _; beta_reduce)
    | with_reducible apply Does.ite
    | split
    | apply Does.ite
    | dsimp -zeta only
    | refine Does.sndOf (by assumption) ?_
    | refine Does.fstOf (by assumption) ?_

theorem State.haltStr_does {μ : Nat} {σ : State} (s : State) (n st : Nat) (hμ : subMask 25134709631472 μ = true) (hδ : Does μ σ s) :
    Does μ σ (State.haltStr s n st) := by
  refine Does.after (a := 25134709631472) ?_ hμ hδ
  clear hδ hμ
  unfold State.haltStr
  repeat' first
    | with_reducible assumption
    | with_reducible exact Does.rfl' _ _
    | (extract_lets +onlyGivenNames X_; refine Does.cut X_ ?_ ?_; (on_goal 2 => (intro _; clear_value X_)); (on_goal 1 => (dsimp -zeta only [X_]; clear X_)))
    | (extract_lets +onlyGivenNames X_; refine Does.cutOf (Prod.fst (α := State)) X_ ?_ ?_; (on_goal 2 => (intro _; clear_value X_)); (on_goal 1 => (dsimp -zeta only [X_]; clear X_)))
    | extract_lets +onlyGivenNames X_
    | with_reducible apply State.setSst_does
    | with_reducible apply State.strStatus_does
    | with_reducible apply State.tryClose_does
    | with_reducible apply okField_ite
    | (with_reducible show Nat.testBit _ _ = true; decide)
    | (with_reducible show subMask _ _ = true; decide)
    | (intro _ _ _; beta_reduce)
    | with_reducible apply Does.ite
    | split
    | apply Does.ite
    | dsimp -zeta only
    | refine Does.sndOf (by assumption) ?_
    | refine Does.fstOf (by assumption) ?_

theorem State.noteRange_does {μ : Nat} {σ : State} (s : State) (oa n : Nat) (hμ : subMask 17179877376 μ = true) (hδ : Does μ σ s) :
    Does μ σ (State.noteRange s oa n) := by
  refine Does.after (a := 17179877376) ?_ hμ hδ
  clear hδ hμ
  unfold State.noteRange
  repeat' first
    | with_reducible assumption
    | with_reducible exact Does.rfl' _ _
    | (extract_lets +onlyGivenNames X_; refine Does.cut X_ ?_ ?_; (on_goal 2 => (intro _; clear_value X_)); (on_goal 1 => (dsimp -zeta only [X_]; clear X_)))
    | (extract_lets +onlyGivenNames X_; refine Does.cutOf (Prod.fst (α := State)) X_ ?_ ?_; (on_goal 2 => (intro _; clear_value X_)); (on_goal 1 => (dsimp -zeta only [X_]; clear X_)))
    | extract_lets +onlyGivenNames X_
    | with_reducible apply State.noteLive_does
    | with_reducible apply Does.foldl
    | with_reducible apply Does.foldlFst
    | with_reducible apply okField_ite
    | (with_reducible show Nat.testBit _ _ = true; decide)
    | (with_reducible show subMask _ _ = true; decide)
    | (intro _ _ _; beta_reduce)
    | with_reducible apply Does.ite
    | split
    | apply Does.ite
    | dsimp -zeta only
    | refine Does.sndOf (by assumption) ?_
    | refine Does.fstOf (by assumption) ?_
    | (generalize ‹Option _› = w_; split)
    | (generalize ‹List _› = w_; split)

theorem State.foldCheck_does {μ : Nat} {σ : State} (s : State) (n : Nat) (fuel_ : Nat) (hμ : subMask 549755813920 μ = true) (hδ : Does μ σ s) :
    Does μ σ (State.foldCheck s n fuel_) := by
  refine Does.after (a := 549755813920) ?_ hμ hδ
  clear hδ hμ
  induction fuel_ generalizing s with
  | zero => unfold State.foldCheck; exact Does.rfl' _ _
  | succ fuel_ ih =>
    unfold State.foldCheck
    repeat' first
      | with_reducible assumption
      | with_reducible exact Does.rfl' _ _
      | (extract_lets +onlyGivenNames X_; refine Does.cut X_ ?_ ?_; (on_goal 2 => (intro _; clear_value X_)); (on_goal 1 => (dsimp -zeta only [X_]; clear X_)))
      | (extract_lets +onlyGivenNames X_; refine Does.cutOf (Prod.fst (α := State)) X_ ?_ ?_; (on_goal 2 => (intro _; clear_value X_)); (on_goal 1 => (dsimp -zeta only [X_]; clear X_)))
      | extract_lets +onlyGivenNames X_
      | with_reducible apply Does.set
      | with_reducible apply State.setStr_does
      | with_reducible exact ok_STREAM_LOOP_CHECK _ (by decide)
      | with_reducible apply okField_ite
      | (with_reducible show Nat.testBit _ _ = true; decide)
      | (with_reducible show subMask _ _ = true; decide)
      | (intro _ _ _; beta_reduce)
      | with_reducible apply Does.ite
      | split
      | (with_reducible refine Does.trans ?_ (ih _))
      | apply Does.ite
      | dsimp -zeta only
      | refine Does.sndOf (by assumption) ?_
      | refine Does.fstOf (by assumption) ?_
      | (generalize ‹Option _› = w_; split)
      | (generalize ‹List _› = w_; split)

theorem State.doneSeq_does {μ : Nat} {σ : State} (s : State) (n seq : Nat) (l : List Byte) (hμ : subMask 549755813920 μ = true) (hδ : Does μ σ s) :
    Does μ σ (State.doneSeq s n seq l) := by
  refine Does.after (a := 549755813920) ?_ hμ hδ
  clear hδ hμ
  unfold State.doneSeq
  repeat' first
    | with_reducible assumption
    | with_reducible exact Does.rfl' _ _
    | (extract_lets +onlyGivenNames X_; refine Does.cut X_ ?_ ?_; (on_goal 2 => (intro _; clear_value X_)); (on_goal 1 => (dsimp -zeta only [X_]; clear X_)))
    | (extract_lets +onlyGivenNames X_; refine Does.cutOf (Prod.fst (α := State)) X_ ?_ ?_; (on_goal 2 => (intro _; clear_value X_)); (on_goal 1 => (dsimp -zeta only [X_]; clear X_)))
    | extract_lets +onlyGivenNames X_
    | with_reducible apply State.foldCheck_does
    | with_reducible apply State.setStr_does
    | with_reducible apply okField_ite
    | (with_reducible show Nat.testBit _ _ = true; decide)
    | (with_reducible show subMask _ _ = true; decide)
    | (intro _ _ _; beta_reduce)
    | with_reducible apply Does.ite
    | split
    | apply Does.ite
    | dsimp -zeta only
    | refine Does.sndOf (by assumption) ?_
    | refine Does.fstOf (by assumption) ?_

theorem State.addBytes_does {μ : Nat} {σ : State} (s : State) (n k : Nat) (hμ : subMask 32 μ = true) (hδ : Does μ σ s) :
    Does μ σ (State.addBytes s n k) := by
  refine Does.after (a := 32) ?_ hμ hδ
  clear hδ hμ
  unfold State.addBytes
  repeat' first
    | with_reducible assumption
    | with_reducible exact Does.rfl' _ _
    | (extract_lets +onlyGivenNames X_; refine Does.cut X_ ?_ ?_; (on_goal 2 => (intro _; clear_value X_)); (on_goal 1 => (dsimp -zeta only [X_]; clear X_)))
    | (extract_lets +onlyGivenNames X_; refine Does.cutOf (Prod.fst (α := State)) X_ ?_ ?_; (on_goal 2 => (intro _; clear_value X_)); (on_goal 1 => (dsimp -zeta only [X_]; clear X_)))
    | extract_lets +onlyGivenNames X_
    | with_reducible apply Does.set
    | with_reducible exact ok_STREAM_DONE_BYTES _ (by decide)
    | with_reducible apply okField_ite
    | (with_reducible show Nat.testBit _ _ = true; decide)
    | (with_reducible show subMask _ _ = true; decide)
    | (intro _ _ _; beta_reduce)
    | with_reducible apply Does.ite
    | split
    | apply Does.ite
    | dsimp -zeta only
    | refine Does.sndOf (by assumption) ?_
    | refine Does.fstOf (by assumption) ?_

theorem State.readPiece_does {μ : Nat} {σ : State} (w : Who) (asked : List (Nat × Nat)) (buf : List MByte) (g : Got) (sp : Nat × Nat × Nat) (hμ : subMask 309782929536 μ = true) (hδ : Does μ σ g.st) :
    Does μ σ ((State.readPiece w asked buf g sp).st) := by
  refine Does.after (a := 309782929536) ?_ hμ hδ
  clear hδ hμ
  unfold State.readPiece
  repeat' first
    | with_reducible assumption
    | with_reducible exact Does.rfl' _ _
    | (extract_lets +onlyGivenNames X_; refine Does.cut X_ ?_ ?_; (on_goal 2 => (intro _; clear_value X_)); (on_goal 1 => (dsimp -zeta only [X_]; clear X_)))
    | (extract_lets +onlyGivenNames X_; refine Does.cutOf (Prod.fst (α := State)) X_ ?_ ?_; (on_goal 2 => (intro _; clear_value X_)); (on_goal 1 => (dsimp -zeta only [X_]; clear X_)))
    | (extract_lets +onlyGivenNames X_; refine Does.cutOf Got.st X_ ?_ ?_; (on_goal 2 => (intro _; clear_value X_)); (on_goal 1 => (dsimp -zeta only [X_]; clear X_)))
    | (extract_lets +onlyGivenNames X_; refine Does.cutOf (fun x => Got.st (Prod.fst x)) X_ ?_ ?_; (on_goal 2 => (intro _; clear_value X_)); (on_goal 1 => (dsimp -zeta only [X_]; clear X_)))
    | extract_lets +onlyGivenNames X_
    | with_reducible apply State.readSpan_does
    | with_reducible apply okField_ite
    | (with_reducible show Nat.testBit _ _ = true; decide)
    | (with_reducible show subMask _ _ = true; decide)
    | (intro _ _ _; beta_reduce)
    | with_reducible apply Does.ite
    | split
    | apply Does.ite
    | dsimp -zeta only
    | refine Does.sndOf (by assumption) ?_
    | refine Does.fstOf (by assumption) ?_
    | (generalize ‹Option _› = w_; split)
    | (generalize ‹List _› = w_; split)

theorem State.readFor_does {μ : Nat} {σ : State} (s : State) (n q oa len : Nat) (asked : List (Nat × Nat)) (buf : List MByte) (hμ : subMask 326979575984 μ = true) (hδ : Does μ σ s) :
    Does μ σ ((State.readFor s n q oa len asked buf).st) := by
  refine Does.after (a := 326979575984) ?_ hμ hδ
  clear hδ hμ
  unfold State.readFor
  repeat' first
    | with_reducible assumption
    | with_reducible exact Does.rfl' _ _
    | (extract_lets +onlyGivenNames X_; refine Does.cut X_ ?_ ?_; (on_goal 2 => (intro _; clear_value X_)); (on_goal 1 => (dsimp -zeta only [X_]; clear X_)))
    | (extract_lets +onlyGivenNames X_; refine Does.cutOf (Prod.fst (α := State)) X_ ?_ ?_; (on_goal 2 => (intro _; clear_value X_)); (on_goal 1 => (dsimp -zeta only [X_]; clear X_)))
    | (extract_lets +onlyGivenNames X_; refine Does.cutOf Got.st X_ ?_ ?_; (on_goal 2 => (intro _; clear_value X_)); (on_goal 1 => (dsimp -zeta only [X_]; clear X_)))
    | (extract_lets +onlyGivenNames X_; refine Does.cutOf (fun x => Got.st (Prod.fst x)) X_ ?_ ?_; (on_goal 2 => (intro _; clear_value X_)); (on_goal 1 => (dsimp -zeta only [X_]; clear X_)))
    | extract_lets +onlyGivenNames X_
    | with_reducible apply State.note_does
    | with_reducible apply State.noteRange_does
    | with_reducible apply State.readPiece_does
    | with_reducible apply Does.foldl
    | with_reducible apply Does.foldlOf Got.st
    | with_reducible apply Does.foldlOf (fun x => Got.st (Prod.fst x))
    | with_reducible apply Does.foldlFst
    | with_reducible apply okField_ite
    | (with_reducible show Nat.testBit _ _ = true; decide)
    | (with_reducible show subMask _ _ = true; decide)
    | (intro _ _ _; beta_reduce)
    | with_reducible apply Does.ite
    | split
    | apply Does.ite
    | dsimp -zeta only
    | refine Does.sndOf (by assumption) ?_
    | refine Does.fstOf (by assumption) ?_

theorem State.takeSeq_does {μ : Nat} {σ : State} (s : State) (n : Nat) (hμ : subMask 549755813888 μ = true) (hδ : Does μ σ s) :
    Does μ σ ((State.takeSeq s n).2) := by
  refine Does.after (a := 549755813888) ?_ hμ hδ
  clear hδ hμ
  unfold State.takeSeq
  repeat' first
    | with_reducible assumption
    | with_reducible exact Does.rfl' _ _
    | (extract_lets +onlyGivenNames X_; refine Does.cut X_ ?_ ?_; (on_goal 2 => (intro _; clear_value X_)); (on_goal 1 => (dsimp -zeta only [X_]; clear X_)))
    | (extract_lets +onlyGivenNames X_; refine Does.cutOf (Prod.fst (α := State)) X_ ?_ ?_; (on_goal 2 => (intro _; clear_value X_)); (on_goal 1 => (dsimp -zeta only [X_]; clear X_)))
    | extract_lets +onlyGivenNames X_
    | with_reducible apply State.setStr_does
    | with_reducible apply okField_ite
    | (with_reducible show Nat.testBit _ _ = true; decide)
    | (with_reducible show subMask _ _ = true; decide)
    | (intro _ _ _; beta_reduce)
    | with_reducible apply Does.ite
    | split
    | apply Does.ite
    | dsimp -zeta only
    | refine Does.sndOf (by assumption) ?_
    | refine Does.fstOf (by assumption) ?_

theorem State.stashRaw_does {μ : Nat} {σ : State} (s : State) (e : StashEnt) (mb n : Nat) (hμ : subMask 4294967296 μ = true) (hδ : Does μ σ s) :
    Does μ σ (State.stashRaw s e mb n) := by
  refine Does.after (a := 4294967296) ?_ hμ hδ
  clear hδ hμ
  unfold State.stashRaw
  try dsimp -zeta only [State.fold_stash]
  repeat' first
    | with_reducible assumption
    | with_reducible exact Does.rfl' _ _
    | (extract_lets +onlyGivenNames X_; refine Does.cut X_ ?_ ?_; (on_goal 2 => (intro _; clear_value X_)); (on_goal 1 => (dsimp -zeta only [X_]; clear X_)))
    | (extract_lets +onlyGivenNames X_; refine Does.cutOf (Prod.fst (α := State)) X_ ?_ ?_; (on_goal 2 => (intro _; clear_value X_)); (on_goal 1 => (dsimp -zeta only [X_]; clear X_)))
    | extract_lets +onlyGivenNames X_
    | with_reducible apply okField_ite
    | (with_reducible show Nat.testBit _ _ = true; decide)
    | (with_reducible show subMask _ _ = true; decide)
    | (intro _ _ _; beta_reduce)
    | with_reducible apply Does.ite
    | split
    | with_reducible apply Does.upd_stash
    | apply Does.ite
    | dsimp -zeta only
    | refine Does.sndOf (by assumption) ?_
    | refine Does.fstOf (by assumption) ?_

end Sys2Proof.Machine
end

