-- ==== Sys2Proof/Laws/FSkein.lean ====
section
/-! SUPPORT. Laws/FSkein.lean: what every operation of Machine/Skein.lean leaves alone (see Laws/Frame.lean). -/

set_option linter.unreachableTactic false
set_option linter.unusedTactic false
set_option linter.tactic.unusedName false

namespace Sys2Proof.Machine

theorem State.openCtx_does {μ : Nat} {σ : State} (s : State) (l dir : Nat) (opening : Bool) (hμ : subMask 137438955012 μ = true) (hδ : Does μ σ s) :
    Does μ σ (State.openCtx s l dir opening) := by
  refine Does.after (a := 137438955012) ?_ hμ hδ
  clear hδ hμ
  unfold State.openCtx
  repeat' first
    | with_reducible assumption
    | with_reducible exact Does.rfl' _ _
    | (extract_lets +onlyGivenNames X_; refine Does.cut X_ ?_ ?_; (on_goal 2 => (intro _; clear_value X_)); (on_goal 1 => (dsimp -zeta only [X_]; clear X_)))
    | (extract_lets +onlyGivenNames X_; refine Does.cutOf (Prod.fst (α := State)) X_ ?_ ?_; (on_goal 2 => (intro _; clear_value X_)); (on_goal 1 => (dsimp -zeta only [X_]; clear X_)))
    | extract_lets +onlyGivenNames X_
    | with_reducible apply Does.set
    | with_reducible apply State.useUnits_does
    | with_reducible exact ok_SKEIN_CTX_ENC_OPEN _ (by decide)
    | with_reducible exact ok_SKEIN_CTX_DEC_OPEN _ (by decide)
    | with_reducible apply okField_ite
    | (with_reducible show Nat.testBit _ _ = true; decide)
    | (with_reducible show subMask _ _ = true; decide)
    | (intro _ _ _; beta_reduce)
    | with_reducible apply Does.ite
    | split
    | apply Does.ite
    | dsimp -zeta only
    | refine Does.sndOf (by assumption) ?_
    | refine Does.fstOf (by assumption) ?_

theorem State.leaveEng_does {μ : Nat} {σ : State} (s : State) (k : SkeinCtx) (hμ : subMask 137438955012 μ = true) (hδ : Does μ σ s) :
    Does μ σ (State.leaveEng s k) := by
  refine Does.after (a := 137438955012) ?_ hμ hδ
  clear hδ hμ
  unfold State.leaveEng
  repeat' first
    | with_reducible assumption
    | with_reducible exact Does.rfl' _ _
    | (extract_lets +onlyGivenNames X_; refine Does.cut X_ ?_ ?_; (on_goal 2 => (intro _; clear_value X_)); (on_goal 1 => (dsimp -zeta only [X_]; clear X_)))
    | (extract_lets +onlyGivenNames X_; refine Does.cutOf (Prod.fst (α := State)) X_ ?_ ?_; (on_goal 2 => (intro _; clear_value X_)); (on_goal 1 => (dsimp -zeta only [X_]; clear X_)))
    | extract_lets +onlyGivenNames X_
    | with_reducible apply State.openCtx_does
    | with_reducible apply okField_ite
    | (with_reducible show Nat.testBit _ _ = true; decide)
    | (with_reducible show subMask _ _ = true; decide)
    | (intro _ _ _; beta_reduce)
    | with_reducible apply Does.ite
    | split
    | apply Does.ite
    | dsimp -zeta only
    | refine Does.sndOf (by assumption) ?_
    | refine Does.fstOf (by assumption) ?_
    | (generalize ‹Option _› = w_; split)
    | (generalize ‹List _› = w_; split)

theorem State.closeSk_does {μ : Nat} {σ : State} (s : State) (n : Nat) (k : SkeinCtx) (hμ : subMask 25272148586484 μ = true) (hδ : Does μ σ s) :
    Does μ σ (State.closeSk s n k) := by
  refine Does.after (a := 25272148586484) ?_ hμ hδ
  clear hδ hμ
  unfold State.closeSk
  try dsimp -zeta only [State.fold_led]
  repeat' first
    | with_reducible assumption
    | with_reducible exact Does.rfl' _ _
    | (extract_lets +onlyGivenNames X_; refine Does.cut X_ ?_ ?_; (on_goal 2 => (intro _; clear_value X_)); (on_goal 1 => (dsimp -zeta only [X_]; clear X_)))
    | (extract_lets +onlyGivenNames X_; refine Does.cutOf (Prod.fst (α := State)) X_ ?_ ?_; (on_goal 2 => (intro _; clear_value X_)); (on_goal 1 => (dsimp -zeta only [X_]; clear X_)))
    | extract_lets +onlyGivenNames X_
    | with_reducible apply State.doneSeq_does
    | with_reducible apply State.leaveEng_does
    | with_reducible apply State.setStr_does
    | with_reducible apply State.tryClose_does
    | with_reducible apply okField_ite
    | (with_reducible show Nat.testBit _ _ = true; decide)
    | (with_reducible show subMask _ _ = true; decide)
    | (intro _ _ _; beta_reduce)
    | with_reducible apply Does.ite
    | split
    | with_reducible apply Does.upd_led
    | apply Does.ite
    | dsimp -zeta only
    | refine Does.sndOf (by assumption) ?_
    | refine Does.fstOf (by assumption) ?_

theorem State.dropSk_does {μ : Nat} {σ : State} (s : State) (n : Nat) (old new : Option SkeinCtx) (hμ : subMask 687194768932 μ = true) (hδ : Does μ σ s) :
    Does μ σ (State.dropSk s n old new) := by
  refine Does.after (a := 687194768932) ?_ hμ hδ
  clear hδ hμ
  unfold State.dropSk
  repeat' first
    | with_reducible assumption
    | with_reducible exact Does.rfl' _ _
    | (extract_lets +onlyGivenNames X_; refine Does.cut X_ ?_ ?_; (on_goal 2 => (intro _; clear_value X_)); (on_goal 1 => (dsimp -zeta only [X_]; clear X_)))
    | (extract_lets +onlyGivenNames X_; refine Does.cutOf (Prod.fst (α := State)) X_ ?_ ?_; (on_goal 2 => (intro _; clear_value X_)); (on_goal 1 => (dsimp -zeta only [X_]; clear X_)))
    | extract_lets +onlyGivenNames X_
    | with_reducible apply State.doneSeq_does
    | with_reducible apply State.leaveEng_does
    | with_reducible apply okField_ite
    | (with_reducible show Nat.testBit _ _ = true; decide)
    | (with_reducible show subMask _ _ = true; decide)
    | (intro _ _ _; beta_reduce)
    | with_reducible apply Does.ite
    | split
    | apply Does.ite
    | dsimp -zeta only
    | refine Does.sndOf (by assumption) ?_
    | refine Does.fstOf (by assumption) ?_
    | (generalize ‹Option _› = w_; split)
    | (generalize ‹List _› = w_; split)

theorem State.placeBlock_does {μ : Nat} {σ : State} (s : State) (n : Nat) (e : StashEnt) (i : StashInst) (bytes : List Byte) (hμ : subMask 25070285119920 μ = true) (hδ : Does μ σ s) :
    Does μ σ ((State.placeBlock s n e i bytes).1) := by
  refine Does.after (a := 25070285119920) ?_ hμ hδ
  clear hδ hμ
  unfold State.placeBlock
  try dsimp -zeta only [State.fold_stash_led, State.fold_stash]
  repeat' first
    | with_reducible assumption
    | with_reducible exact Does.rfl' _ _
    | (extract_lets +onlyGivenNames X_; refine Does.cut X_ ?_ ?_; (on_goal 2 => (intro _; clear_value X_)); (on_goal 1 => (dsimp -zeta only [X_]; clear X_)))
    | (extract_lets +onlyGivenNames X_; refine Does.cutOf (Prod.fst (α := State)) X_ ?_ ?_; (on_goal 2 => (intro _; clear_value X_)); (on_goal 1 => (dsimp -zeta only [X_]; clear X_)))
    | extract_lets +onlyGivenNames X_
    | with_reducible apply State.logEv_does
    | with_reducible apply State.note_does
    | with_reducible apply State.putOA_does
    | with_reducible apply State.raiseFlag_does
    | with_reducible apply okField_ite
    | (with_reducible show Nat.testBit _ _ = true; decide)
    | (with_reducible show subMask _ _ = true; decide)
    | (intro _ _ _; beta_reduce)
    | with_reducible apply Does.ite
    | split
    | with_reducible apply Does.upd_stash_led
    | with_reducible apply Does.upd_stash
    | apply Does.ite
    | dsimp -zeta only
    | refine Does.sndOf (by assumption) ?_
    | refine Does.fstOf (by assumption) ?_

theorem State.putBlock_does {μ : Nat} {σ : State} (s : State) (n : Nat) (k : SkeinCtx) (bytes : List Byte) (last marked : Bool) (hμ : subMask 25139004598704 μ = true) (hδ : Does μ σ s) :
    Does μ σ ((State.putBlock s n k bytes last marked).1) := by
  refine Does.after (a := 25139004598704) ?_ hμ hδ
  clear hδ hμ
  unfold State.putBlock
  try dsimp -zeta only [State.fold_stash]
  repeat' first
    | with_reducible assumption
    | with_reducible exact Does.rfl' _ _
    | (extract_lets +onlyGivenNames X_; refine Does.cut X_ ?_ ?_; (on_goal 2 => (intro _; clear_value X_)); (on_goal 1 => (dsimp -zeta only [X_]; clear X_)))
    | (extract_lets +onlyGivenNames X_; refine Does.cutOf (Prod.fst (α := State)) X_ ?_ ?_; (on_goal 2 => (intro _; clear_value X_)); (on_goal 1 => (dsimp -zeta only [X_]; clear X_)))
    | extract_lets +onlyGivenNames X_
    | with_reducible apply State.addBytes_does
    | with_reducible apply State.placeBlock_does
    | with_reducible apply State.putDst_does
    | with_reducible apply okField_ite
    | (with_reducible show Nat.testBit _ _ = true; decide)
    | (with_reducible show subMask _ _ = true; decide)
    | (intro _ _ _; beta_reduce)
    | with_reducible apply Does.ite
    | split
    | with_reducible apply Does.upd_stash
    | apply Does.ite
    | dsimp -zeta only
    | refine Does.sndOf (by assumption) ?_
    | refine Does.fstOf (by assumption) ?_
    | (generalize ‹Option _› = w_; split)
    | (generalize ‹List _› = w_; split)

theorem State.setSk_does {μ : Nat} {σ : State} (s : State) (n : Nat) (k : SkeinCtx) (hμ : subMask 549755813888 μ = true) (hδ : Does μ σ s) :
    Does μ σ (State.setSk s n k) := by
  refine Does.after (a := 549755813888) ?_ hμ hδ
  clear hδ hμ
  unfold State.setSk
  repeat' first
    | with_reducible assumption
    | with_reducible exact Does.rfl' _ _
    | (extract_lets +onlyGivenNames X_; refine Does.cut X_ ?_ ?_; (on_goal 2 => (intro _; clear_value X_)); (on_goal 1 => (dsimp -zeta only [X_]; clear X_)))
    | (extract_lets +onlyGivenNames X_; refine Does.cutOf (Prod.fst (α := State)) X_ ?_ ?_; (on_goal 2 => (intro _; clear_value X_)); (on_goal 1 => (dsimp -zeta only [X_]; clear X_)))
    | extract_lets +onlyGivenNames X_
    | with_reducible apply State.setStr_does
    | with_reducible apply okField_ite
    | (with_reducible show Nat.testBit _ _ = true; decide)
    | (with_reducible show subMask _ _ = true; decide)
    | (intro _ _ _; beta_reduce)
    | with_reducible apply Does.ite
    | split
    | apply Does.ite
    | dsimp -zeta only
    | refine Does.sndOf (by assumption) ?_
    | refine Does.fstOf (by assumption) ?_

theorem State.waitFar_does {μ : Nat} {σ : State} (s : State) (n : Nat) (k : SkeinCtx) (ranges : List (Nat × Nat)) (hμ : subMask 858997653504 μ = true) (hδ : Does μ σ s) :
    Does μ σ (State.waitFar s n k ranges) := by
  refine Does.after (a := 858997653504) ?_ hμ hδ
  clear hδ hμ
  unfold State.waitFar
  repeat' first
    | with_reducible assumption
    | with_reducible exact Does.rfl' _ _
    | (extract_lets +onlyGivenNames X_; refine Does.cut X_ ?_ ?_; (on_goal 2 => (intro _; clear_value X_)); (on_goal 1 => (dsimp -zeta only [X_]; clear X_)))
    | (extract_lets +onlyGivenNames X_; refine Does.cutOf (Prod.fst (α := State)) X_ ?_ ?_; (on_goal 2 => (intro _; clear_value X_)); (on_goal 1 => (dsimp -zeta only [X_]; clear X_)))
    | extract_lets +onlyGivenNames X_
    | with_reducible apply State.askFar_does
    | with_reducible apply State.setSk_does
    | with_reducible apply okField_ite
    | (with_reducible show Nat.testBit _ _ = true; decide)
    | (with_reducible show subMask _ _ = true; decide)
    | (intro _ _ _; beta_reduce)
    | with_reducible apply Does.ite
    | split
    | apply Does.ite
    | dsimp -zeta only
    | refine Does.sndOf (by assumption) ?_
    | refine Does.fstOf (by assumption) ?_

theorem State.winErr_does {μ : Nat} {σ : State} (s : State) (p st : Nat) (bit : Nat → Fld) (hf : ∀ p, okField (bit p) μ = true) (hμ : subMask 1024 μ = true) (hδ : Does μ σ s) :
    Does μ σ (State.winErr s p st bit) := by
  unfold State.winErr
  repeat' first
    | (extract_lets +onlyGivenNames X_; refine Does.cut X_ ?_ ?_; (on_goal 2 => (intro _; clear_value X_)); (on_goal 1 => (dsimp -zeta only [X_]; clear X_)))
    | (extract_lets +onlyGivenNames X_; refine Does.cutOf (Prod.fst (α := State)) X_ ?_ ?_; (on_goal 2 => (intro _; clear_value X_)); (on_goal 1 => (dsimp -zeta only [X_]; clear X_)))
    | extract_lets +onlyGivenNames X_
    | with_reducible assumption
    | with_reducible exact Does.rfl' _ _
    | with_reducible apply Does.set
    | with_reducible apply Does.addSat
    | with_reducible exact okField_mono (ok_SKEIN_ERR_LAST_STATUS _ (by decide)) hμ
    | with_reducible exact okField_mono (ok_SKEIN_ERR_CHECK_FAILS _ (by decide)) hμ
    | with_reducible apply okField_ite
    | with_reducible exact testBit_mono (by decide) hμ
    | with_reducible exact subMask_trans (by decide) hμ
    | (intro _ _ _; beta_reduce)
    | with_reducible apply Does.ite
    | split
    | apply Does.ite
    | with_reducible exact hf _
    | with_reducible exact hf

theorem State.engineErr_does {μ : Nat} {σ : State} (s : State) (n dir st : Nat) (bit : Nat → Fld) (hf : ∀ p, okField (bit p) μ = true) (hμ : subMask 1024 μ = true) (hδ : Does μ σ s) :
    Does μ σ (State.engineErr s n dir st bit) :=
  State.winErr_does _ _ _ _ hf hμ hδ

theorem State.afterSlot_does {μ : Nat} {σ : State} (s : State) (n : Nat) (k : SkeinCtx) (hμ : subMask 25272148586484 μ = true) (hδ : Does μ σ s) :
    Does μ σ (State.afterSlot s n k) := by
  refine Does.after (a := 25272148586484) ?_ hμ hδ
  clear hδ hμ
  unfold State.afterSlot
  repeat' first
    | with_reducible assumption
    | with_reducible exact Does.rfl' _ _
    | (extract_lets +onlyGivenNames X_; refine Does.cut X_ ?_ ?_; (on_goal 2 => (intro _; clear_value X_)); (on_goal 1 => (dsimp -zeta only [X_]; clear X_)))
    | (extract_lets +onlyGivenNames X_; refine Does.cutOf (Prod.fst (α := State)) X_ ?_ ?_; (on_goal 2 => (intro _; clear_value X_)); (on_goal 1 => (dsimp -zeta only [X_]; clear X_)))
    | extract_lets +onlyGivenNames X_
    | with_reducible apply State.closeSk_does
    | with_reducible apply State.setSk_does
    | with_reducible apply okField_ite
    | (with_reducible show Nat.testBit _ _ = true; decide)
    | (with_reducible show subMask _ _ = true; decide)
    | (intro _ _ _; beta_reduce)
    | with_reducible apply Does.ite
    | split
    | apply Does.ite
    | dsimp -zeta only
    | refine Does.sndOf (by assumption) ?_
    | refine Does.fstOf (by assumption) ?_

theorem State.readStore_does {μ : Nat} {σ : State} (s : State) (n : Nat) (k : SkeinCtx) (off len : Nat) (hμ : subMask 326979575984 μ = true) (hδ : Does μ σ s) :
    Does μ σ ((State.readStore s n k off len).st) := by
  refine Does.after (a := 326979575984) ?_ hμ hδ
  clear hδ hμ
  unfold State.readStore
  repeat' first
    | with_reducible assumption
    | with_reducible exact Does.rfl' _ _
    | (extract_lets +onlyGivenNames X_; refine Does.cut X_ ?_ ?_; (on_goal 2 => (intro _; clear_value X_)); (on_goal 1 => (dsimp -zeta only [X_]; clear X_)))
    | (extract_lets +onlyGivenNames X_; refine Does.cutOf (Prod.fst (α := State)) X_ ?_ ?_; (on_goal 2 => (intro _; clear_value X_)); (on_goal 1 => (dsimp -zeta only [X_]; clear X_)))
    | (extract_lets +onlyGivenNames X_; refine Does.cutOf Got.st X_ ?_ ?_; (on_goal 2 => (intro _; clear_value X_)); (on_goal 1 => (dsimp -zeta only [X_]; clear X_)))
    | (extract_lets +onlyGivenNames X_; refine Does.cutOf (fun x => Got.st (Prod.fst x)) X_ ?_ ?_; (on_goal 2 => (intro _; clear_value X_)); (on_goal 1 => (dsimp -zeta only [X_]; clear X_)))
    | extract_lets +onlyGivenNames X_
    | with_reducible apply State.readFor_does
    | with_reducible apply okField_ite
    | (with_reducible show Nat.testBit _ _ = true; decide)
    | (with_reducible show subMask _ _ = true; decide)
    | (intro _ _ _; beta_reduce)
    | with_reducible apply Does.ite
    | split
    | apply Does.ite
    | dsimp -zeta only
    | refine Does.sndOf (by assumption) ?_
    | refine Does.fstOf (by assumption) ?_

theorem State.storeView_does {μ : Nat} {σ : State} (s : State) (n : Nat) (k : SkeinCtx) (parts : List (Nat × Nat × Nat)) (hi : Nat) (hμ : subMask 326979575984 μ = true) (hδ : Does μ σ s) :
    Does μ σ ((State.storeView s n k parts hi).st) := by
  refine Does.after (a := 326979575984) ?_ hμ hδ
  clear hδ hμ
  unfold State.storeView
  repeat' first
    | with_reducible assumption
    | with_reducible exact Does.rfl' _ _
    | (extract_lets +onlyGivenNames X_; refine Does.cut X_ ?_ ?_; (on_goal 2 => (intro _; clear_value X_)); (on_goal 1 => (dsimp -zeta only [X_]; clear X_)))
    | (extract_lets +onlyGivenNames X_; refine Does.cutOf (Prod.fst (α := State)) X_ ?_ ?_; (on_goal 2 => (intro _; clear_value X_)); (on_goal 1 => (dsimp -zeta only [X_]; clear X_)))
    | (extract_lets +onlyGivenNames X_; refine Does.cutOf Got.st X_ ?_ ?_; (on_goal 2 => (intro _; clear_value X_)); (on_goal 1 => (dsimp -zeta only [X_]; clear X_)))
    | (extract_lets +onlyGivenNames X_; refine Does.cutOf (fun x => Got.st (Prod.fst x)) X_ ?_ ?_; (on_goal 2 => (intro _; clear_value X_)); (on_goal 1 => (dsimp -zeta only [X_]; clear X_)))
    | extract_lets +onlyGivenNames X_
    | with_reducible apply State.readStore_does
    | with_reducible apply Does.foldl
    | with_reducible apply Does.foldlOf Got.st
    | with_reducible apply Does.foldlOf (fun x => Got.st (Prod.fst x))
    | with_reducible apply Does.foldlFst
    | with_reducible apply okField_ite
    | (with_reducible show Nat.testBit _ _ = true; decide)
    | (with_reducible show subMask _ _ = true; decide)
    | (intro _ _ _; beta_reduce)
    | with_reducible apply Does.ite
    | split
    | apply Does.ite
    | dsimp -zeta only
    | refine Does.sndOf (by assumption) ?_
    | refine Does.fstOf (by assumption) ?_

theorem State.packView_does {μ : Nat} {σ : State} (s : State) (n : Nat) (k : SkeinCtx) (f : Nat) (hμ : subMask 326979575984 μ = true) (hδ : Does μ σ s) :
    Does μ σ ((State.packView s n k f).st) := by
  refine Does.after (a := 326979575984) ?_ hμ hδ
  clear hδ hμ
  unfold State.packView
  repeat' first
    | with_reducible assumption
    | with_reducible exact Does.rfl' _ _
    | (extract_lets +onlyGivenNames X_; refine Does.cut X_ ?_ ?_; (on_goal 2 => (intro _; clear_value X_)); (on_goal 1 => (dsimp -zeta only [X_]; clear X_)))
    | (extract_lets +onlyGivenNames X_; refine Does.cutOf (Prod.fst (α := State)) X_ ?_ ?_; (on_goal 2 => (intro _; clear_value X_)); (on_goal 1 => (dsimp -zeta only [X_]; clear X_)))
    | (extract_lets +onlyGivenNames X_; refine Does.cutOf Got.st X_ ?_ ?_; (on_goal 2 => (intro _; clear_value X_)); (on_goal 1 => (dsimp -zeta only [X_]; clear X_)))
    | (extract_lets +onlyGivenNames X_; refine Does.cutOf (fun x => Got.st (Prod.fst x)) X_ ?_ ?_; (on_goal 2 => (intro _; clear_value X_)); (on_goal 1 => (dsimp -zeta only [X_]; clear X_)))
    | extract_lets +onlyGivenNames X_
    | with_reducible apply State.storeView_does
    | with_reducible apply okField_ite
    | (with_reducible show Nat.testBit _ _ = true; decide)
    | (with_reducible show subMask _ _ = true; decide)
    | (intro _ _ _; beta_reduce)
    | with_reducible apply Does.ite
    | split
    | apply Does.ite
    | dsimp -zeta only
    | refine Does.sndOf (by assumption) ?_
    | refine Does.fstOf (by assumption) ?_

theorem State.readRecs_does {μ : Nat} {σ : State} (s : State) (n : Nat) (k : SkeinCtx) (held : List Nat) (f : Nat) (hμ : subMask 326979575984 μ = true) (hδ : Does μ σ s) :
    Does μ σ ((State.readRecs s n k held f).1) := by
  refine Does.after (a := 326979575984) ?_ hμ hδ
  clear hδ hμ
  unfold State.readRecs
  repeat' first
    | with_reducible assumption
    | with_reducible exact Does.rfl' _ _
    | (extract_lets +onlyGivenNames X_; refine Does.cut X_ ?_ ?_; (on_goal 2 => (intro _; clear_value X_)); (on_goal 1 => (dsimp -zeta only [X_]; clear X_)))
    | (extract_lets +onlyGivenNames X_; refine Does.cutOf (Prod.fst (α := State)) X_ ?_ ?_; (on_goal 2 => (intro _; clear_value X_)); (on_goal 1 => (dsimp -zeta only [X_]; clear X_)))
    | (extract_lets +onlyGivenNames X_; refine Does.cutOf Got.st X_ ?_ ?_; (on_goal 2 => (intro _; clear_value X_)); (on_goal 1 => (dsimp -zeta only [X_]; clear X_)))
    | (extract_lets +onlyGivenNames X_; refine Does.cutOf (fun x => Got.st (Prod.fst x)) X_ ?_ ?_; (on_goal 2 => (intro _; clear_value X_)); (on_goal 1 => (dsimp -zeta only [X_]; clear X_)))
    | extract_lets +onlyGivenNames X_
    | with_reducible apply State.readStore_does
    | with_reducible apply Does.foldl
    | with_reducible apply Does.foldlOf Got.st
    | with_reducible apply Does.foldlOf (fun x => Got.st (Prod.fst x))
    | with_reducible apply Does.foldlFst
    | with_reducible apply okField_ite
    | (with_reducible show Nat.testBit _ _ = true; decide)
    | (with_reducible show subMask _ _ = true; decide)
    | (intro _ _ _; beta_reduce)
    | with_reducible apply Does.ite
    | split
    | apply Does.ite
    | dsimp -zeta only
    | refine Does.sndOf (by assumption) ?_
    | refine Does.fstOf (by assumption) ?_

theorem State.writeStore_does {μ : Nat} {σ : State} (s : State) (n : Nat) (k : SkeinCtx) (off : Nat) (l : List MByte) (hμ : subMask 6924048294320 μ = true) (hδ : Does μ σ s) :
    Does μ σ ((State.writeStore s n k off l).1) := by
  refine Does.after (a := 6924048294320) ?_ hμ hδ
  clear hδ hμ
  unfold State.writeStore
  repeat' first
    | with_reducible assumption
    | with_reducible exact Does.rfl' _ _
    | (extract_lets +onlyGivenNames X_; refine Does.cut X_ ?_ ?_; (on_goal 2 => (intro _; clear_value X_)); (on_goal 1 => (dsimp -zeta only [X_]; clear X_)))
    | (extract_lets +onlyGivenNames X_; refine Does.cutOf (Prod.fst (α := State)) X_ ?_ ?_; (on_goal 2 => (intro _; clear_value X_)); (on_goal 1 => (dsimp -zeta only [X_]; clear X_)))
    | (extract_lets +onlyGivenNames X_; refine Does.cutOf Got.st X_ ?_ ?_; (on_goal 2 => (intro _; clear_value X_)); (on_goal 1 => (dsimp -zeta only [X_]; clear X_)))
    | (extract_lets +onlyGivenNames X_; refine Does.cutOf (fun x => Got.st (Prod.fst x)) X_ ?_ ?_; (on_goal 2 => (intro _; clear_value X_)); (on_goal 1 => (dsimp -zeta only [X_]; clear X_)))
    | extract_lets +onlyGivenNames X_
    | with_reducible apply State.note_does
    | with_reducible apply State.writeOA_does
    | with_reducible apply okField_ite
    | (with_reducible show Nat.testBit _ _ = true; decide)
    | (with_reducible show subMask _ _ = true; decide)
    | (intro _ _ _; beta_reduce)
    | with_reducible apply Does.ite
    | split
    | apply Does.ite
    | dsimp -zeta only
    | refine Does.sndOf (by assumption) ?_
    | refine Does.fstOf (by assumption) ?_

theorem State.landFrame_does {μ : Nat} {σ : State} (s : State) (n : Nat) (k : SkeinCtx) (l : List MByte) (hμ : subMask 6924056682928 μ = true) (hδ : Does μ σ s) :
    Does μ σ ((State.landFrame s n k l).1) := by
  refine Does.after (a := 6924056682928) ?_ hμ hδ
  clear hδ hμ
  unfold State.landFrame
  repeat' first
    | with_reducible assumption
    | with_reducible exact Does.rfl' _ _
    | (extract_lets +onlyGivenNames X_; refine Does.cut X_ ?_ ?_; (on_goal 2 => (intro _; clear_value X_)); (on_goal 1 => (dsimp -zeta only [X_]; clear X_)))
    | (extract_lets +onlyGivenNames X_; refine Does.cutOf (Prod.fst (α := State)) X_ ?_ ?_; (on_goal 2 => (intro _; clear_value X_)); (on_goal 1 => (dsimp -zeta only [X_]; clear X_)))
    | (extract_lets +onlyGivenNames X_; refine Does.cutOf Got.st X_ ?_ ?_; (on_goal 2 => (intro _; clear_value X_)); (on_goal 1 => (dsimp -zeta only [X_]; clear X_)))
    | (extract_lets +onlyGivenNames X_; refine Does.cutOf (fun x => Got.st (Prod.fst x)) X_ ?_ ?_; (on_goal 2 => (intro _; clear_value X_)); (on_goal 1 => (dsimp -zeta only [X_]; clear X_)))
    | extract_lets +onlyGivenNames X_
    | with_reducible apply State.packView_does
    | with_reducible apply State.readRecs_does
    | with_reducible apply State.writeStore_does
    | with_reducible apply okField_ite
    | (with_reducible show Nat.testBit _ _ = true; decide)
    | (with_reducible show subMask _ _ = true; decide)
    | (intro _ _ _; beta_reduce)
    | with_reducible apply Does.ite
    | split
    | apply Does.ite
    | dsimp -zeta only
    | refine Does.sndOf (by assumption) ?_
    | refine Does.fstOf (by assumption) ?_

theorem PackRun.land_does {μ : Nat} {σ : State} (r : PackRun) (n f : Nat) (hμ : subMask 6924056682928 μ = true) (hδ : Does μ σ r.st) :
    Does μ σ ((PackRun.land r n f).st) := by
  refine Does.after (a := 6924056682928) ?_ hμ hδ
  clear hδ hμ
  unfold PackRun.land
  repeat' first
    | with_reducible assumption
    | with_reducible exact Does.rfl' _ _
    | (extract_lets +onlyGivenNames X_; refine Does.cut X_ ?_ ?_; (on_goal 2 => (intro _; clear_value X_)); (on_goal 1 => (dsimp -zeta only [X_]; clear X_)))
    | (extract_lets +onlyGivenNames X_; refine Does.cutOf (Prod.fst (α := State)) X_ ?_ ?_; (on_goal 2 => (intro _; clear_value X_)); (on_goal 1 => (dsimp -zeta only [X_]; clear X_)))
    | (extract_lets +onlyGivenNames X_; refine Does.cutOf PackRun.st X_ ?_ ?_; (on_goal 2 => (intro _; clear_value X_)); (on_goal 1 => (dsimp -zeta only [X_]; clear X_)))
    | (extract_lets +onlyGivenNames X_; refine Does.cutOf (fun x => PackRun.st (Prod.fst x)) X_ ?_ ?_; (on_goal 2 => (intro _; clear_value X_)); (on_goal 1 => (dsimp -zeta only [X_]; clear X_)))
    | extract_lets +onlyGivenNames X_
    | with_reducible apply State.landFrame_does
    | with_reducible apply okField_ite
    | (with_reducible show Nat.testBit _ _ = true; decide)
    | (with_reducible show subMask _ _ = true; decide)
    | (intro _ _ _; beta_reduce)
    | with_reducible apply Does.ite
    | split
    | apply Does.ite
    | dsimp -zeta only
    | refine Does.sndOf (by assumption) ?_
    | refine Does.fstOf (by assumption) ?_

theorem PackRun.frame_does {μ : Nat} {σ : State} (r : PackRun) (n f : Nat) (hμ : subMask 6924056682928 μ = true) (hδ : Does μ σ r.st) :
    Does μ σ ((PackRun.frame r n f).st) := by
  refine Does.after (a := 6924056682928) ?_ hμ hδ
  clear hδ hμ
  unfold PackRun.frame
  repeat' first
    | with_reducible assumption
    | with_reducible exact Does.rfl' _ _
    | (extract_lets +onlyGivenNames X_; refine Does.cut X_ ?_ ?_; (on_goal 2 => (intro _; clear_value X_)); (on_goal 1 => (dsimp -zeta only [X_]; clear X_)))
    | (extract_lets +onlyGivenNames X_; refine Does.cutOf (Prod.fst (α := State)) X_ ?_ ?_; (on_goal 2 => (intro _; clear_value X_)); (on_goal 1 => (dsimp -zeta only [X_]; clear X_)))
    | (extract_lets +onlyGivenNames X_; refine Does.cutOf Got.st X_ ?_ ?_; (on_goal 2 => (intro _; clear_value X_)); (on_goal 1 => (dsimp -zeta only [X_]; clear X_)))
    | (extract_lets +onlyGivenNames X_; refine Does.cutOf (fun x => Got.st (Prod.fst x)) X_ ?_ ?_; (on_goal 2 => (intro _; clear_value X_)); (on_goal 1 => (dsimp -zeta only [X_]; clear X_)))
    | (extract_lets +onlyGivenNames X_; refine Does.cutOf PackRun.st X_ ?_ ?_; (on_goal 2 => (intro _; clear_value X_)); (on_goal 1 => (dsimp -zeta only [X_]; clear X_)))
    | (extract_lets +onlyGivenNames X_; refine Does.cutOf (fun x => PackRun.st (Prod.fst x)) X_ ?_ ?_; (on_goal 2 => (intro _; clear_value X_)); (on_goal 1 => (dsimp -zeta only [X_]; clear X_)))
    | extract_lets +onlyGivenNames X_
    | with_reducible apply PackRun.land_does
    | with_reducible apply State.packView_does
    | with_reducible apply State.readRecs_does
    | with_reducible apply okField_ite
    | (with_reducible show Nat.testBit _ _ = true; decide)
    | (with_reducible show subMask _ _ = true; decide)
    | (intro _ _ _; beta_reduce)
    | with_reducible apply Does.ite
    | split
    | apply Does.ite
    | dsimp -zeta only
    | refine Does.sndOf (by assumption) ?_
    | refine Does.fstOf (by assumption) ?_

theorem State.packA_does {μ : Nat} {σ : State} (s : State) (n : Nat) (k : SkeinCtx) (src : List MByte) (hμ : subMask 6924056682928 μ = true) (hδ : Does μ σ s) :
    Does μ σ ((State.packA s n k src).st) := by
  refine Does.after (a := 6924056682928) ?_ hμ hδ
  clear hδ hμ
  unfold State.packA
  repeat' first
    | with_reducible assumption
    | with_reducible exact Does.rfl' _ _
    | (extract_lets +onlyGivenNames X_; refine Does.cut X_ ?_ ?_; (on_goal 2 => (intro _; clear_value X_)); (on_goal 1 => (dsimp -zeta only [X_]; clear X_)))
    | (extract_lets +onlyGivenNames X_; refine Does.cutOf (Prod.fst (α := State)) X_ ?_ ?_; (on_goal 2 => (intro _; clear_value X_)); (on_goal 1 => (dsimp -zeta only [X_]; clear X_)))
    | (extract_lets +onlyGivenNames X_; refine Does.cutOf PackRun.st X_ ?_ ?_; (on_goal 2 => (intro _; clear_value X_)); (on_goal 1 => (dsimp -zeta only [X_]; clear X_)))
    | (extract_lets +onlyGivenNames X_; refine Does.cutOf (fun x => PackRun.st (Prod.fst x)) X_ ?_ ?_; (on_goal 2 => (intro _; clear_value X_)); (on_goal 1 => (dsimp -zeta only [X_]; clear X_)))
    | extract_lets +onlyGivenNames X_
    | with_reducible apply PackRun.frame_does
    | with_reducible apply Does.foldl
    | with_reducible apply Does.foldlOf PackRun.st
    | with_reducible apply Does.foldlOf (fun x => PackRun.st (Prod.fst x))
    | with_reducible apply Does.foldlFst
    | with_reducible apply okField_ite
    | (with_reducible show Nat.testBit _ _ = true; decide)
    | (with_reducible show subMask _ _ = true; decide)
    | (intro _ _ _; beta_reduce)
    | with_reducible apply Does.ite
    | split
    | apply Does.ite
    | dsimp -zeta only
    | refine Does.sndOf (by assumption) ?_
    | refine Does.fstOf (by assumption) ?_

theorem State.winBytes_does {μ : Nat} {σ : State} (s : State) (p dir n : Nat) (hμ : subMask 1024 μ = true) (hδ : Does μ σ s) :
    Does μ σ (State.winBytes s p dir n) := by
  refine Does.after (a := 1024) ?_ hμ hδ
  clear hδ hμ
  unfold State.winBytes
  repeat' first
    | with_reducible assumption
    | with_reducible exact Does.rfl' _ _
    | (extract_lets +onlyGivenNames X_; refine Does.cut X_ ?_ ?_; (on_goal 2 => (intro _; clear_value X_)); (on_goal 1 => (dsimp -zeta only [X_]; clear X_)))
    | (extract_lets +onlyGivenNames X_; refine Does.cutOf (Prod.fst (α := State)) X_ ?_ ?_; (on_goal 2 => (intro _; clear_value X_)); (on_goal 1 => (dsimp -zeta only [X_]; clear X_)))
    | extract_lets +onlyGivenNames X_
    | with_reducible apply Does.set
    | with_reducible exact ok_SKEIN_ENC_BYTES _ (by decide)
    | with_reducible exact ok_SKEIN_DEC_BYTES _ (by decide)
    | with_reducible apply okField_ite
    | (with_reducible show Nat.testBit _ _ = true; decide)
    | (with_reducible show subMask _ _ = true; decide)
    | (intro _ _ _; beta_reduce)
    | with_reducible apply Does.ite
    | split
    | apply Does.ite
    | dsimp -zeta only
    | refine Does.sndOf (by assumption) ?_
    | refine Does.fstOf (by assumption) ?_

theorem State.encodeSlot_does {μ : Nat} {σ : State} (s : State) (n : Nat) (k : SkeinCtx) (hμ : subMask 25276451942388 μ = true) (hδ : Does μ σ s) :
    Does μ σ (State.encodeSlot s n k) := by
  refine Does.after (a := 25276451942388) ?_ hμ hδ
  clear hδ hμ
  unfold State.encodeSlot
  repeat' first
    | with_reducible assumption
    | with_reducible exact Does.rfl' _ _
    | (extract_lets +onlyGivenNames X_; refine Does.cut X_ ?_ ?_; (on_goal 2 => (intro _; clear_value X_)); (on_goal 1 => (dsimp -zeta only [X_]; clear X_)))
    | (extract_lets +onlyGivenNames X_; refine Does.cutOf (Prod.fst (α := State)) X_ ?_ ?_; (on_goal 2 => (intro _; clear_value X_)); (on_goal 1 => (dsimp -zeta only [X_]; clear X_)))
    | (extract_lets +onlyGivenNames X_; refine Does.cutOf Got.st X_ ?_ ?_; (on_goal 2 => (intro _; clear_value X_)); (on_goal 1 => (dsimp -zeta only [X_]; clear X_)))
    | (extract_lets +onlyGivenNames X_; refine Does.cutOf (fun x => Got.st (Prod.fst x)) X_ ?_ ?_; (on_goal 2 => (intro _; clear_value X_)); (on_goal 1 => (dsimp -zeta only [X_]; clear X_)))
    | (extract_lets +onlyGivenNames X_; refine Does.cutOf PackRun.st X_ ?_ ?_; (on_goal 2 => (intro _; clear_value X_)); (on_goal 1 => (dsimp -zeta only [X_]; clear X_)))
    | (extract_lets +onlyGivenNames X_; refine Does.cutOf (fun x => PackRun.st (Prod.fst x)) X_ ?_ ?_; (on_goal 2 => (intro _; clear_value X_)); (on_goal 1 => (dsimp -zeta only [X_]; clear X_)))
    | extract_lets +onlyGivenNames X_
    | with_reducible apply Does.set
    | with_reducible apply State.afterSlot_does
    | with_reducible apply State.closeSk_does
    | with_reducible apply State.engineErr_does
    | with_reducible apply State.note_does
    | with_reducible apply State.packA_does
    | with_reducible apply State.putBlock_does
    | with_reducible apply State.readFor_does
    | with_reducible apply State.setSk_does
    | with_reducible apply State.waitFar_does
    | with_reducible apply State.winBytes_does
    | with_reducible exact ok_SKEIN_CTX_ENC_STREAM _ (by decide)
    | with_reducible exact fun _ => ok_SKEIN_CTX_ENC_STREAM _ (by decide)
    | with_reducible exact ok_SKEIN_ERR_MARKED_IN _ (by decide)
    | with_reducible exact fun _ => ok_SKEIN_ERR_MARKED_IN _ (by decide)
    | with_reducible apply okField_ite
    | (with_reducible show Nat.testBit _ _ = true; decide)
    | (with_reducible show subMask _ _ = true; decide)
    | (intro _ _ _; beta_reduce)
    | with_reducible apply Does.ite
    | split
    | apply Does.ite
    | dsimp -zeta only
    | refine Does.sndOf (by assumption) ?_
    | refine Does.fstOf (by assumption) ?_

theorem State.enterEng_does {μ : Nat} {σ : State} (s : State) (n : Nat) (k : SkeinCtx) (hμ : subMask 687194768900 μ = true) (hδ : Does μ σ s) :
    Does μ σ ((State.enterEng s n k).1) := by
  refine Does.after (a := 687194768900) ?_ hμ hδ
  clear hδ hμ
  unfold State.enterEng
  repeat' first
    | with_reducible assumption
    | with_reducible exact Does.rfl' _ _
    | (extract_lets +onlyGivenNames X_; refine Does.cut X_ ?_ ?_; (on_goal 2 => (intro _; clear_value X_)); (on_goal 1 => (dsimp -zeta only [X_]; clear X_)))
    | (extract_lets +onlyGivenNames X_; refine Does.cutOf (Prod.fst (α := State)) X_ ?_ ?_; (on_goal 2 => (intro _; clear_value X_)); (on_goal 1 => (dsimp -zeta only [X_]; clear X_)))
    | extract_lets +onlyGivenNames X_
    | with_reducible apply State.leaveEng_does
    | with_reducible apply State.openCtx_does
    | with_reducible apply State.setSk_does
    | with_reducible apply okField_ite
    | (with_reducible show Nat.testBit _ _ = true; decide)
    | (with_reducible show subMask _ _ = true; decide)
    | (intro _ _ _; beta_reduce)
    | with_reducible apply Does.ite
    | split
    | apply Does.ite
    | dsimp -zeta only
    | refine Does.sndOf (by assumption) ?_
    | refine Does.fstOf (by assumption) ?_
    | (generalize ‹Option _› = w_; split)
    | (generalize ‹List _› = w_; split)

theorem State.deliver_does {μ : Nat} {σ : State} (s : State) (n : Nat) (k : SkeinCtx) (l : List MByte) (hμ : subMask 25134709632432 μ = true) (hδ : Does μ σ s) :
    Does μ σ ((State.deliver s n k l).1) := by
  refine Does.after (a := 25134709632432) ?_ hμ hδ
  clear hδ hμ
  unfold State.deliver
  repeat' first
    | with_reducible assumption
    | with_reducible exact Does.rfl' _ _
    | (extract_lets +onlyGivenNames X_; refine Does.cut X_ ?_ ?_; (on_goal 2 => (intro _; clear_value X_)); (on_goal 1 => (dsimp -zeta only [X_]; clear X_)))
    | (extract_lets +onlyGivenNames X_; refine Does.cutOf (Prod.fst (α := State)) X_ ?_ ?_; (on_goal 2 => (intro _; clear_value X_)); (on_goal 1 => (dsimp -zeta only [X_]; clear X_)))
    | extract_lets +onlyGivenNames X_
    | with_reducible apply Does.set
    | with_reducible apply State.addBytes_does
    | with_reducible apply State.putDst_does
    | with_reducible apply State.winBytes_does
    | with_reducible exact ok_SKEIN_CTX_DEC_STREAM _ (by decide)
    | with_reducible apply okField_ite
    | (with_reducible show Nat.testBit _ _ = true; decide)
    | (with_reducible show subMask _ _ = true; decide)
    | (intro _ _ _; beta_reduce)
    | with_reducible apply Does.ite
    | split
    | apply Does.ite
    | dsimp -zeta only
    | refine Does.sndOf (by assumption) ?_
    | refine Does.fstOf (by assumption) ?_

theorem State.writeGranules_does {μ : Nat} {σ : State} (s : State) (n : Nat) (k : SkeinCtx) (off : Nat) (l : List MByte) (hμ : subMask 6924048294320 μ = true) (hδ : Does μ σ s) :
    Does μ σ ((State.writeGranules s n k off l).1) := by
  refine Does.after (a := 6924048294320) ?_ hμ hδ
  clear hδ hμ
  unfold State.writeGranules
  repeat' first
    | with_reducible assumption
    | with_reducible exact Does.rfl' _ _
    | (extract_lets +onlyGivenNames X_; refine Does.cut X_ ?_ ?_; (on_goal 2 => (intro _; clear_value X_)); (on_goal 1 => (dsimp -zeta only [X_]; clear X_)))
    | (extract_lets +onlyGivenNames X_; refine Does.cutOf (Prod.fst (α := State)) X_ ?_ ?_; (on_goal 2 => (intro _; clear_value X_)); (on_goal 1 => (dsimp -zeta only [X_]; clear X_)))
    | extract_lets +onlyGivenNames X_
    | with_reducible apply State.writeStore_does
    | with_reducible apply okField_ite
    | (with_reducible show Nat.testBit _ _ = true; decide)
    | (with_reducible show subMask _ _ = true; decide)
    | (intro _ _ _; beta_reduce)
    | with_reducible apply Does.ite
    | split
    | apply Does.ite
    | dsimp -zeta only
    | refine Does.sndOf (by assumption) ?_
    | refine Does.fstOf (by assumption) ?_

theorem State.keepDecoded_does {μ : Nat} {σ : State} (s : State) (n : Nat) (k : SkeinCtx) (l : List MByte) (hμ : subMask 6924048294320 μ = true) (hδ : Does μ σ s) :
    Does μ σ ((State.keepDecoded s n k l).1) := by
  refine Does.after (a := 6924048294320) ?_ hμ hδ
  clear hδ hμ
  unfold State.keepDecoded
  repeat' first
    | with_reducible assumption
    | with_reducible exact Does.rfl' _ _
    | (extract_lets +onlyGivenNames X_; refine Does.cut X_ ?_ ?_; (on_goal 2 => (intro _; clear_value X_)); (on_goal 1 => (dsimp -zeta only [X_]; clear X_)))
    | (extract_lets +onlyGivenNames X_; refine Does.cutOf (Prod.fst (α := State)) X_ ?_ ?_; (on_goal 2 => (intro _; clear_value X_)); (on_goal 1 => (dsimp -zeta only [X_]; clear X_)))
    | extract_lets +onlyGivenNames X_
    | with_reducible apply State.take_does
    | with_reducible apply State.writeGranules_does
    | with_reducible apply Does.foldl
    | with_reducible apply Does.foldlFst
    | with_reducible apply okField_ite
    | (with_reducible show Nat.testBit _ _ = true; decide)
    | (with_reducible show subMask _ _ = true; decide)
    | (intro _ _ _; beta_reduce)
    | with_reducible apply Does.ite
    | split
    | apply Does.ite
    | dsimp -zeta only
    | refine Does.sndOf (by assumption) ?_
    | refine Does.fstOf (by assumption) ?_

theorem State.keepDeliver_does {μ : Nat} {σ : State} (s : State) (n : Nat) (k : SkeinCtx) (l : List MByte) (hμ : subMask 25134709632432 μ = true) (hδ : Does μ σ s) :
    Does μ σ ((State.keepDeliver s n k l).1) := by
  refine Does.after (a := 25134709632432) ?_ hμ hδ
  clear hδ hμ
  unfold State.keepDeliver
  repeat' first
    | with_reducible assumption
    | with_reducible exact Does.rfl' _ _
    | (extract_lets +onlyGivenNames X_; refine Does.cut X_ ?_ ?_; (on_goal 2 => (intro _; clear_value X_)); (on_goal 1 => (dsimp -zeta only [X_]; clear X_)))
    | (extract_lets +onlyGivenNames X_; refine Does.cutOf (Prod.fst (α := State)) X_ ?_ ?_; (on_goal 2 => (intro _; clear_value X_)); (on_goal 1 => (dsimp -zeta only [X_]; clear X_)))
    | extract_lets +onlyGivenNames X_
    | with_reducible apply State.deliver_does
    | with_reducible apply State.keepDecoded_does
    | with_reducible apply okField_ite
    | (with_reducible show Nat.testBit _ _ = true; decide)
    | (with_reducible show subMask _ _ = true; decide)
    | (intro _ _ _; beta_reduce)
    | with_reducible apply Does.ite
    | split
    | apply Does.ite
    | dsimp -zeta only
    | refine Does.sndOf (by assumption) ?_
    | refine Does.fstOf (by assumption) ?_

theorem State.deliverBad_does {μ : Nat} {σ : State} (s : State) (n : Nat) (k : SkeinCtx) (bit : Nat → Fld) (count : Bool) (hf : ∀ p, okField (bit p) μ = true) (hμ : subMask 25272148586484 μ = true) (hδ : Does μ σ s) :
    Does μ σ (State.deliverBad s n k bit count) := by
  unfold State.deliverBad
  repeat' first
    | (extract_lets +onlyGivenNames X_; refine Does.cut X_ ?_ ?_; (on_goal 2 => (intro _; clear_value X_)); (on_goal 1 => (dsimp -zeta only [X_]; clear X_)))
    | (extract_lets +onlyGivenNames X_; refine Does.cutOf (Prod.fst (α := State)) X_ ?_ ?_; (on_goal 2 => (intro _; clear_value X_)); (on_goal 1 => (dsimp -zeta only [X_]; clear X_)))
    | extract_lets +onlyGivenNames X_
    | with_reducible assumption
    | with_reducible exact Does.rfl' _ _
    | with_reducible apply State.afterSlot_does
    | with_reducible apply State.keepDeliver_does
    | with_reducible apply State.engineErr_does
    | with_reducible apply State.note_does
    | with_reducible apply okField_ite
    | with_reducible exact testBit_mono (by decide) hμ
    | with_reducible exact subMask_trans (by decide) hμ
    | (intro _ _ _; beta_reduce)
    | with_reducible apply Does.ite
    | split
    | apply Does.ite
    | with_reducible exact hf _
    | with_reducible exact hf

theorem State.skRead_does {m : Nat} {s₀ : State} (s : State) (n : Nat) (k : SkeinCtx) (off len : Nat) (x : Got)
    (hx : s.skRead n k off len = some x) (hm : subMask 326979575984 m = true) (h : Does m s₀ s) : Does m s₀ x.st := by
  unfold State.skRead at hx
  dsimp only at hx
  split at hx
  · cases hx
  · cases hx
    exact State.readFor_does _ _ _ _ _ _ _ (subMask_trans (by decide) hm) h

theorem State.decodeBlock_does {μ : Nat} {σ : State} (s : State) (n : Nat) (k : SkeinCtx) (h pay : List MByte) (base : List MByte) (hμ : subMask 25272156975092 μ = true) (hδ : Does μ σ s) :
    Does μ σ (State.decodeBlock s n k h pay base) := by
  refine Does.after (a := 25272156975092) ?_ hμ hδ
  clear hδ hμ
  unfold State.decodeBlock
  repeat' first
    | with_reducible assumption
    | with_reducible exact Does.rfl' _ _
    | (extract_lets +onlyGivenNames X_; refine Does.cut X_ ?_ ?_; (on_goal 2 => (intro _; clear_value X_)); (on_goal 1 => (dsimp -zeta only [X_]; clear X_)))
    | (extract_lets +onlyGivenNames X_; refine Does.cutOf (Prod.fst (α := State)) X_ ?_ ?_; (on_goal 2 => (intro _; clear_value X_)); (on_goal 1 => (dsimp -zeta only [X_]; clear X_)))
    | (extract_lets +onlyGivenNames X_; refine Does.cutOf Got.st X_ ?_ ?_; (on_goal 2 => (intro _; clear_value X_)); (on_goal 1 => (dsimp -zeta only [X_]; clear X_)))
    | (extract_lets +onlyGivenNames X_; refine Does.cutOf (fun x => Got.st (Prod.fst x)) X_ ?_ ?_; (on_goal 2 => (intro _; clear_value X_)); (on_goal 1 => (dsimp -zeta only [X_]; clear X_)))
    | extract_lets +onlyGivenNames X_
    | with_reducible apply State.afterSlot_does
    | with_reducible apply State.deliverBad_does
    | with_reducible apply State.keepDeliver_does
    | with_reducible apply State.note_does
    | with_reducible apply State.storeView_does
    | with_reducible exact ok_SKEIN_ERR_BLOCK_FAIL _ (by decide)
    | with_reducible exact fun _ => ok_SKEIN_ERR_BLOCK_FAIL _ (by decide)
    | with_reducible apply okField_ite
    | (with_reducible show Nat.testBit _ _ = true; decide)
    | (with_reducible show subMask _ _ = true; decide)
    | (intro _ _ _; beta_reduce)
    | with_reducible apply Does.ite
    | split
    | apply Does.ite
    | dsimp -zeta only
    | refine Does.sndOf (by assumption) ?_
    | refine Does.fstOf (by assumption) ?_
    | (generalize ‹Option _› = w_; split)
    | (generalize ‹List _› = w_; split)

theorem State.decodeNext_does {μ : Nat} {σ : State} (s : State) (n : Nat) (k : SkeinCtx) (hμ : subMask 25272156975092 μ = true) (hδ : Does μ σ s) :
    Does μ σ (State.decodeNext s n k) := by
  refine Does.after (a := 25272156975092) ?_ hμ hδ
  clear hδ hμ
  unfold State.decodeNext
  repeat' first
    | (extract_lets +onlyGivenNames X_; refine Does.cut X_ ?_ ?_; (on_goal 2 => (intro _; clear_value X_)); (on_goal 1 => (dsimp -zeta only [X_]; clear X_)))
    | (extract_lets +onlyGivenNames X_; refine Does.cutOf (Prod.fst (α := State)) X_ ?_ ?_; (on_goal 2 => (intro _; clear_value X_)); (on_goal 1 => (dsimp -zeta only [X_]; clear X_)))
    | (extract_lets +onlyGivenNames X_; refine Does.cutOf Got.st X_ ?_ ?_; (on_goal 2 => (intro _; clear_value X_)); (on_goal 1 => (dsimp -zeta only [X_]; clear X_)))
    | extract_lets +onlyGivenNames X_
    | with_reducible assumption
    | with_reducible exact Does.rfl' _ _
    | with_reducible apply State.decodeBlock_does
    | with_reducible apply State.deliverBad_does
    | with_reducible apply State.readFor_does
    | with_reducible apply State.waitFar_does
    | with_reducible exact ok_SKEIN_ERR_BLOCK_FAIL _ (by decide)
    | with_reducible exact fun _ => ok_SKEIN_ERR_BLOCK_FAIL _ (by decide)
    | refine State.skRead_does _ _ _ _ _ _ (by assumption) ?_ ?_
    | with_reducible apply okField_ite
    | (with_reducible show Nat.testBit _ _ = true; decide)
    | (with_reducible show subMask _ _ = true; decide)
    | (intro _ _ _; beta_reduce)
    | with_reducible apply Does.ite
    | split
    | apply Does.ite
    | dsimp -zeta only

theorem State.decodeHeader_does {μ : Nat} {σ : State} (s : State) (n : Nat) (k : SkeinCtx) (h : List MByte) (hμ : subMask 25272156975092 μ = true) (hδ : Does μ σ s) :
    Does μ σ (State.decodeHeader s n k h) := by
  refine Does.after (a := 25272156975092) ?_ hμ hδ
  clear hδ hμ
  unfold State.decodeHeader
  repeat' first
    | with_reducible assumption
    | with_reducible exact Does.rfl' _ _
    | (extract_lets +onlyGivenNames X_; refine Does.cut X_ ?_ ?_; (on_goal 2 => (intro _; clear_value X_)); (on_goal 1 => (dsimp -zeta only [X_]; clear X_)))
    | (extract_lets +onlyGivenNames X_; refine Does.cutOf (Prod.fst (α := State)) X_ ?_ ?_; (on_goal 2 => (intro _; clear_value X_)); (on_goal 1 => (dsimp -zeta only [X_]; clear X_)))
    | extract_lets +onlyGivenNames X_
    | with_reducible apply State.closeSk_does
    | with_reducible apply State.decodeNext_does
    | with_reducible apply State.deliverBad_does
    | with_reducible apply State.engineErr_does
    | with_reducible apply State.note_does
    | with_reducible apply State.setSk_does
    | with_reducible exact ok_SKEIN_ERR_HDR_FAIL _ (by decide)
    | with_reducible exact fun _ => ok_SKEIN_ERR_HDR_FAIL _ (by decide)
    | with_reducible apply okField_ite
    | (with_reducible show Nat.testBit _ _ = true; decide)
    | (with_reducible show subMask _ _ = true; decide)
    | (intro _ _ _; beta_reduce)
    | with_reducible apply Does.ite
    | split
    | apply Does.ite
    | dsimp -zeta only
    | refine Does.sndOf (by assumption) ?_
    | refine Does.fstOf (by assumption) ?_

theorem State.decodeSlot_does {μ : Nat} {σ : State} (s : State) (n : Nat) (k : SkeinCtx) (hμ : subMask 25272156975092 μ = true) (hδ : Does μ σ s) :
    Does μ σ (State.decodeSlot s n k) := by
  refine Does.after (a := 25272156975092) ?_ hμ hδ
  clear hδ hμ
  unfold State.decodeSlot
  repeat' first
    | (extract_lets +onlyGivenNames X_; refine Does.cut X_ ?_ ?_; (on_goal 2 => (intro _; clear_value X_)); (on_goal 1 => (dsimp -zeta only [X_]; clear X_)))
    | (extract_lets +onlyGivenNames X_; refine Does.cutOf (Prod.fst (α := State)) X_ ?_ ?_; (on_goal 2 => (intro _; clear_value X_)); (on_goal 1 => (dsimp -zeta only [X_]; clear X_)))
    | (extract_lets +onlyGivenNames X_; refine Does.cutOf Got.st X_ ?_ ?_; (on_goal 2 => (intro _; clear_value X_)); (on_goal 1 => (dsimp -zeta only [X_]; clear X_)))
    | extract_lets +onlyGivenNames X_
    | with_reducible assumption
    | with_reducible exact Does.rfl' _ _
    | with_reducible apply State.closeSk_does
    | with_reducible apply State.decodeHeader_does
    | with_reducible apply State.decodeNext_does
    | with_reducible apply State.deliverBad_does
    | with_reducible apply State.waitFar_does
    | with_reducible exact ok_SKEIN_ERR_BLOCK_FAIL _ (by decide)
    | with_reducible exact ok_SKEIN_ERR_HDR_FAIL _ (by decide)
    | with_reducible exact fun _ => ok_SKEIN_ERR_BLOCK_FAIL _ (by decide)
    | with_reducible exact fun _ => ok_SKEIN_ERR_HDR_FAIL _ (by decide)
    | refine State.skRead_does _ _ _ _ _ _ (by assumption) ?_ ?_
    | with_reducible apply okField_ite
    | (with_reducible show Nat.testBit _ _ = true; decide)
    | (with_reducible show subMask _ _ = true; decide)
    | (intro _ _ _; beta_reduce)
    | with_reducible apply Does.ite
    | split
    | apply Does.ite
    | dsimp -zeta only

theorem State.slotOf_does {μ : Nat} {σ : State} (s : State) (n : Nat) (k : SkeinCtx) (hμ : subMask 25276451942388 μ = true) (hδ : Does μ σ s) :
    Does μ σ (State.slotOf s n k) := by
  refine Does.after (a := 25276451942388) ?_ hμ hδ
  clear hδ hμ
  unfold State.slotOf
  repeat' first
    | with_reducible assumption
    | with_reducible exact Does.rfl' _ _
    | (extract_lets +onlyGivenNames X_; refine Does.cut X_ ?_ ?_; (on_goal 2 => (intro _; clear_value X_)); (on_goal 1 => (dsimp -zeta only [X_]; clear X_)))
    | (extract_lets +onlyGivenNames X_; refine Does.cutOf (Prod.fst (α := State)) X_ ?_ ?_; (on_goal 2 => (intro _; clear_value X_)); (on_goal 1 => (dsimp -zeta only [X_]; clear X_)))
    | extract_lets +onlyGivenNames X_
    | with_reducible apply State.decodeSlot_does
    | with_reducible apply State.encodeSlot_does
    | with_reducible apply okField_ite
    | (with_reducible show Nat.testBit _ _ = true; decide)
    | (with_reducible show subMask _ _ = true; decide)
    | (intro _ _ _; beta_reduce)
    | with_reducible apply Does.ite
    | split
    | apply Does.ite
    | dsimp -zeta only
    | refine Does.sndOf (by assumption) ?_
    | refine Does.fstOf (by assumption) ?_

theorem State.skeinSlot_does {μ : Nat} {σ : State} (s : State) (n : Nat) (k : SkeinCtx) (hμ : subMask 25276451942388 μ = true) (hδ : Does μ σ s) :
    Does μ σ (State.skeinSlot s n k) := by
  refine Does.after (a := 25276451942388) ?_ hμ hδ
  clear hδ hμ
  unfold State.skeinSlot
  repeat' first
    | with_reducible assumption
    | with_reducible exact Does.rfl' _ _
    | (extract_lets +onlyGivenNames X_; refine Does.cut X_ ?_ ?_; (on_goal 2 => (intro _; clear_value X_)); (on_goal 1 => (dsimp -zeta only [X_]; clear X_)))
    | (extract_lets +onlyGivenNames X_; refine Does.cutOf (Prod.fst (α := State)) X_ ?_ ?_; (on_goal 2 => (intro _; clear_value X_)); (on_goal 1 => (dsimp -zeta only [X_]; clear X_)))
    | extract_lets +onlyGivenNames X_
    | with_reducible apply State.enterEng_does
    | with_reducible apply State.slotOf_does
    | with_reducible apply okField_ite
    | (with_reducible show Nat.testBit _ _ = true; decide)
    | (with_reducible show subMask _ _ = true; decide)
    | (intro _ _ _; beta_reduce)
    | with_reducible apply Does.ite
    | split
    | apply Does.ite
    | dsimp -zeta only
    | refine Does.sndOf (by assumption) ?_
    | refine Does.fstOf (by assumption) ?_

theorem State.runSlot_does {μ : Nat} {σ : State} (s : State) (n : Nat) (k : SkeinCtx) (hμ : subMask 25276519575540 μ = true) (hδ : Does μ σ s) :
    Does μ σ (State.runSlot s n k) := by
  refine Does.after (a := 25276519575540) ?_ hμ hδ
  clear hδ hμ
  unfold State.runSlot
  repeat' first
    | with_reducible assumption
    | with_reducible exact Does.rfl' _ _
    | (extract_lets +onlyGivenNames X_; refine Does.cut X_ ?_ ?_; (on_goal 2 => (intro _; clear_value X_)); (on_goal 1 => (dsimp -zeta only [X_]; clear X_)))
    | (extract_lets +onlyGivenNames X_; refine Does.cutOf (Prod.fst (α := State)) X_ ?_ ?_; (on_goal 2 => (intro _; clear_value X_)); (on_goal 1 => (dsimp -zeta only [X_]; clear X_)))
    | extract_lets +onlyGivenNames X_
    | with_reducible apply State.setSst_does
    | with_reducible apply State.skeinSlot_does
    | with_reducible apply State.toTick_does
    | with_reducible apply State.useSlots_does
    | with_reducible apply okField_ite
    | (with_reducible show Nat.testBit _ _ = true; decide)
    | (with_reducible show subMask _ _ = true; decide)
    | (intro _ _ _; beta_reduce)
    | with_reducible apply Does.ite
    | split
    | apply Does.ite
    | dsimp -zeta only
    | refine Does.sndOf (by assumption) ?_
    | refine Does.fstOf (by assumption) ?_
    | (generalize ‹Option _› = w_; split)
    | (generalize ‹List _› = w_; split)

theorem execSkeinEncodeSlot_does (n : Fin 16384) (s : State) (τ : State) (hδ : execSkeinEncodeSlot n s = .next τ) : Does 25276519575540 s τ := by
  unfold execSkeinEncodeSlot at hδ
  obtain rfl := Host.Outcome.next.inj hδ
  clear hδ
  repeat' first
    | with_reducible assumption
    | with_reducible exact Does.rfl' _ _
    | (extract_lets +onlyGivenNames X_; refine Does.cut X_ ?_ ?_; (on_goal 2 => (intro _; clear_value X_)); (on_goal 1 => (dsimp -zeta only [X_]; clear X_)))
    | (extract_lets +onlyGivenNames X_; refine Does.cutOf (Prod.fst (α := State)) X_ ?_ ?_; (on_goal 2 => (intro _; clear_value X_)); (on_goal 1 => (dsimp -zeta only [X_]; clear X_)))
    | extract_lets +onlyGivenNames X_
    | with_reducible apply State.invalidate_does
    | with_reducible apply State.runSlot_does
    | with_reducible apply okField_ite
    | (with_reducible show Nat.testBit _ _ = true; decide)
    | (with_reducible show subMask _ _ = true; decide)
    | (intro _ _ _; beta_reduce)
    | with_reducible apply Does.ite
    | split
    | apply Does.ite
    | dsimp -zeta only
    | refine Does.sndOf (by assumption) ?_
    | refine Does.fstOf (by assumption) ?_
    | (generalize ‹Option _› = w_; split)
    | (generalize ‹List _› = w_; split)

theorem execSkeinDecodeSlot_does (n : Fin 16384) (s : State) (τ : State) (hδ : execSkeinDecodeSlot n s = .next τ) : Does 25276519575540 s τ := by
  unfold execSkeinDecodeSlot at hδ
  obtain rfl := Host.Outcome.next.inj hδ
  clear hδ
  repeat' first
    | with_reducible assumption
    | with_reducible exact Does.rfl' _ _
    | (extract_lets +onlyGivenNames X_; refine Does.cut X_ ?_ ?_; (on_goal 2 => (intro _; clear_value X_)); (on_goal 1 => (dsimp -zeta only [X_]; clear X_)))
    | (extract_lets +onlyGivenNames X_; refine Does.cutOf (Prod.fst (α := State)) X_ ?_ ?_; (on_goal 2 => (intro _; clear_value X_)); (on_goal 1 => (dsimp -zeta only [X_]; clear X_)))
    | extract_lets +onlyGivenNames X_
    | with_reducible apply State.invalidate_does
    | with_reducible apply State.runSlot_does
    | with_reducible apply okField_ite
    | (with_reducible show Nat.testBit _ _ = true; decide)
    | (with_reducible show subMask _ _ = true; decide)
    | (intro _ _ _; beta_reduce)
    | with_reducible apply Does.ite
    | split
    | apply Does.ite
    | dsimp -zeta only
    | refine Does.sndOf (by assumption) ?_
    | refine Does.fstOf (by assumption) ?_
    | (generalize ‹Option _› = w_; split)
    | (generalize ‹List _› = w_; split)

end Sys2Proof.Machine
end

