-- ==== Sys2Proof/Laws/FAdds.lean ====
section
/-! SUPPORT. Laws/FAdds.lean: what every operation of Machine/Adds.lean leaves alone (see Laws/Frame.lean). -/

set_option linter.unreachableTactic false
set_option linter.unusedTactic false
set_option linter.tactic.unusedName false

namespace Sys2Proof.Machine

theorem State.addRefused_does {μ : Nat} {σ : State} (s : State) (p oa : Nat) (hμ : subMask 536897536 μ = true) (hδ : Does μ σ s) :
    Does μ σ (State.addRefused s p oa) := by
  refine Does.after (a := 536897536) ?_ hμ hδ
  clear hδ hμ
  unfold State.addRefused
  repeat' first
    | with_reducible assumption
    | with_reducible exact Does.rfl' _ _
    | (extract_lets +onlyGivenNames X_; refine Does.cut X_ ?_ ?_; (on_goal 2 => (intro _; clear_value X_)); (on_goal 1 => (dsimp -zeta only [X_]; clear X_)))
    | (extract_lets +onlyGivenNames X_; refine Does.cutOf (Prod.fst (α := State)) X_ ?_ ?_; (on_goal 2 => (intro _; clear_value X_)); (on_goal 1 => (dsimp -zeta only [X_]; clear X_)))
    | extract_lets +onlyGivenNames X_
    | with_reducible apply Does.set
    | with_reducible apply Does.addSat
    | with_reducible apply State.logEv_does
    | with_reducible exact ok_CDP_ERR_WRITE_REFUSED _ (by decide)
    | with_reducible exact ok_CDP_ERR_COUNT _ (by decide)
    | with_reducible exact ok_CDP_ERR_LAST_STATUS _ (by decide)
    | with_reducible apply okField_ite
    | (with_reducible show Nat.testBit _ _ = true; decide)
    | (with_reducible show subMask _ _ = true; decide)
    | (intro _ _ _; beta_reduce)
    | with_reducible apply Does.ite
    | split
    | apply Does.ite
    | dsimp -zeta only
    | refine Does.sndOf (by assumption) ?_
    | refine Does.fstOf (by assumption) ?_

theorem State.addOne_does {μ : Nat} {σ : State} (s : State) (d : AccDesc) (h : HeldAdd) (i : Nat) (hμ : subMask 50904521793936 μ = true) (hδ : Does μ σ s) :
    Does μ σ (State.addOne s d h i) := by
  refine Does.after (a := 50904521793936) ?_ hμ hδ
  clear hδ hμ
  unfold State.addOne
  try dsimp -zeta only [State.fold_upd]
  repeat' first
    | with_reducible assumption
    | with_reducible exact Does.rfl' _ _
    | (extract_lets +onlyGivenNames X_; refine Does.cut X_ ?_ ?_; (on_goal 2 => (intro _; clear_value X_)); (on_goal 1 => (dsimp -zeta only [X_]; clear X_)))
    | (extract_lets +onlyGivenNames X_; refine Does.cutOf (Prod.fst (α := State)) X_ ?_ ?_; (on_goal 2 => (intro _; clear_value X_)); (on_goal 1 => (dsimp -zeta only [X_]; clear X_)))
    | (extract_lets +onlyGivenNames X_; refine Does.cutOf Got.st X_ ?_ ?_; (on_goal 2 => (intro _; clear_value X_)); (on_goal 1 => (dsimp -zeta only [X_]; clear X_)))
    | (extract_lets +onlyGivenNames X_; refine Does.cutOf (fun x => Got.st (Prod.fst x)) X_ ?_ ?_; (on_goal 2 => (intro _; clear_value X_)); (on_goal 1 => (dsimp -zeta only [X_]; clear X_)))
    | extract_lets +onlyGivenNames X_
    | with_reducible apply State.countWrote_does
    | with_reducible apply State.raiseFlag_does
    | with_reducible apply State.readOA_does
    | with_reducible apply State.writeOA_does
    | with_reducible apply okField_ite
    | (with_reducible show Nat.testBit _ _ = true; decide)
    | (with_reducible show subMask _ _ = true; decide)
    | (intro _ _ _; beta_reduce)
    | with_reducible apply Does.ite
    | split
    | with_reducible apply Does.upd_upd
    | apply Does.ite
    | dsimp -zeta only
    | refine Does.sndOf (by assumption) ?_
    | refine Does.fstOf (by assumption) ?_

theorem State.showFirst_does {μ : Nat} {σ : State} (s : State) (a r : Nat) (d : AccDesc) (hμ : subMask 15720141316496 μ = true) (hδ : Does μ σ s) :
    Does μ σ (State.showFirst s a r d) := by
  refine Does.after (a := 15720141316496) ?_ hμ hδ
  clear hδ hμ
  unfold State.showFirst
  try dsimp -zeta only [State.fold_upd]
  repeat' first
    | with_reducible assumption
    | with_reducible exact Does.rfl' _ _
    | (extract_lets +onlyGivenNames X_; refine Does.cut X_ ?_ ?_; (on_goal 2 => (intro _; clear_value X_)); (on_goal 1 => (dsimp -zeta only [X_]; clear X_)))
    | (extract_lets +onlyGivenNames X_; refine Does.cutOf (Prod.fst (α := State)) X_ ?_ ?_; (on_goal 2 => (intro _; clear_value X_)); (on_goal 1 => (dsimp -zeta only [X_]; clear X_)))
    | (extract_lets +onlyGivenNames X_; refine Does.cutOf Got.st X_ ?_ ?_; (on_goal 2 => (intro _; clear_value X_)); (on_goal 1 => (dsimp -zeta only [X_]; clear X_)))
    | (extract_lets +onlyGivenNames X_; refine Does.cutOf (fun x => Got.st (Prod.fst x)) X_ ?_ ?_; (on_goal 2 => (intro _; clear_value X_)); (on_goal 1 => (dsimp -zeta only [X_]; clear X_)))
    | extract_lets +onlyGivenNames X_
    | with_reducible apply State.writeOA_does
    | with_reducible apply Does.foldl
    | with_reducible apply Does.foldlOf Got.st
    | with_reducible apply Does.foldlOf (fun x => Got.st (Prod.fst x))
    | with_reducible apply Does.foldlFst
    | with_reducible apply okField_ite
    | (with_reducible show Nat.testBit _ _ = true; decide)
    | (with_reducible show subMask _ _ = true; decide)
    | (intro _ _ _; beta_reduce)
    | with_reducible apply Does.ite
    | split
    | with_reducible apply Does.upd_upd
    | apply Does.ite
    | dsimp -zeta only
    | refine Does.sndOf (by assumption) ?_
    | refine Does.fstOf (by assumption) ?_

theorem State.applyAdd_does {μ : Nat} {σ : State} (s : State) (h : HeldAdd) (hμ : subMask 50904521795984 μ = true) (hδ : Does μ σ s) :
    Does μ σ (State.applyAdd s h) := by
  refine Does.after (a := 50904521795984) ?_ hμ hδ
  clear hδ hμ
  unfold State.applyAdd
  try dsimp -zeta only [State.fold_upd]
  repeat' first
    | with_reducible assumption
    | with_reducible exact Does.rfl' _ _
    | (extract_lets +onlyGivenNames X_; refine Does.cut X_ ?_ ?_; (on_goal 2 => (intro _; clear_value X_)); (on_goal 1 => (dsimp -zeta only [X_]; clear X_)))
    | (extract_lets +onlyGivenNames X_; refine Does.cutOf (Prod.fst (α := State)) X_ ?_ ?_; (on_goal 2 => (intro _; clear_value X_)); (on_goal 1 => (dsimp -zeta only [X_]; clear X_)))
    | extract_lets +onlyGivenNames X_
    | with_reducible apply State.addOne_does
    | with_reducible apply State.addRefused_does
    | with_reducible apply State.addSem_does
    | with_reducible apply State.showFirst_does
    | with_reducible apply Does.foldl
    | with_reducible apply Does.foldlFst
    | with_reducible apply okField_ite
    | (with_reducible show Nat.testBit _ _ = true; decide)
    | (with_reducible show subMask _ _ = true; decide)
    | (intro _ _ _; beta_reduce)
    | with_reducible apply Does.ite
    | split
    | with_reducible apply Does.upd_upd
    | apply Does.ite
    | dsimp -zeta only
    | refine Does.sndOf (by assumption) ?_
    | refine Does.fstOf (by assumption) ?_

theorem State.applyHeld_does {μ : Nat} {σ : State} (s : State) (fuel_ : Nat) (hμ : subMask 50973241272720 μ = true) (hδ : Does μ σ s) :
    Does μ σ (State.applyHeld s fuel_) := by
  refine Does.after (a := 50973241272720) ?_ hμ hδ
  clear hδ hμ
  induction fuel_ generalizing s with
  | zero => unfold State.applyHeld; exact Does.rfl' _ _
  | succ fuel_ ih =>
    unfold State.applyHeld
    try dsimp -zeta only [State.fold_upd]
    repeat' first
      | with_reducible assumption
      | with_reducible exact Does.rfl' _ _
      | (extract_lets +onlyGivenNames X_; refine Does.cut X_ ?_ ?_; (on_goal 2 => (intro _; clear_value X_)); (on_goal 1 => (dsimp -zeta only [X_]; clear X_)))
      | (extract_lets +onlyGivenNames X_; refine Does.cutOf (Prod.fst (α := State)) X_ ?_ ?_; (on_goal 2 => (intro _; clear_value X_)); (on_goal 1 => (dsimp -zeta only [X_]; clear X_)))
      | extract_lets +onlyGivenNames X_
      | with_reducible apply State.addRefused_does
      | with_reducible apply State.applyAdd_does
      | with_reducible apply State.dropHeld_does
      | with_reducible apply okField_ite
      | (with_reducible show Nat.testBit _ _ = true; decide)
      | (with_reducible show subMask _ _ = true; decide)
      | (intro _ _ _; beta_reduce)
      | with_reducible apply Does.ite
      | split
      | with_reducible apply Does.upd_upd
      | (with_reducible refine Does.trans ?_ (ih _))
      | apply Does.ite
      | dsimp -zeta only
      | refine Does.sndOf (by assumption) ?_
      | refine Does.fstOf (by assumption) ?_
      | (generalize ‹Option _› = w_; split)
      | (generalize ‹List _› = w_; split)

theorem State.takeAdd_does {μ : Nat} {σ : State} (s : State) (h : HeldAdd) (oa : Nat) (hμ : subMask 50973241272720 μ = true) (hδ : Does μ σ s) :
    Does μ σ (State.takeAdd s h oa) := by
  refine Does.after (a := 50973241272720) ?_ hμ hδ
  clear hδ hμ
  unfold State.takeAdd
  try dsimp -zeta only [State.fold_led_upd]
  repeat' first
    | with_reducible assumption
    | with_reducible exact Does.rfl' _ _
    | (extract_lets +onlyGivenNames X_; refine Does.cut X_ ?_ ?_; (on_goal 2 => (intro _; clear_value X_)); (on_goal 1 => (dsimp -zeta only [X_]; clear X_)))
    | (extract_lets +onlyGivenNames X_; refine Does.cutOf (Prod.fst (α := State)) X_ ?_ ?_; (on_goal 2 => (intro _; clear_value X_)); (on_goal 1 => (dsimp -zeta only [X_]; clear X_)))
    | extract_lets +onlyGivenNames X_
    | with_reducible apply State.addRefused_does
    | with_reducible apply State.applyAdd_does
    | with_reducible apply State.applyHeld_does
    | with_reducible apply State.raiseFlag_does
    | with_reducible apply okField_ite
    | (with_reducible show Nat.testBit _ _ = true; decide)
    | (with_reducible show subMask _ _ = true; decide)
    | (intro _ _ _; beta_reduce)
    | with_reducible apply Does.ite
    | split
    | with_reducible apply Does.upd_led_upd
    | apply Does.ite
    | dsimp -zeta only
    | refine Does.sndOf (by assumption) ?_
    | refine Does.fstOf (by assumption) ?_

theorem State.killRegion_does {μ : Nat} {σ : State} (s : State) (oa : Nat) (hμ : subMask 8796093022208 μ = true) (hδ : Does μ σ s) :
    Does μ σ (State.killRegion s oa) := by
  refine Does.after (a := 8796093022208) ?_ hμ hδ
  clear hδ hμ
  unfold State.killRegion
  try dsimp -zeta only [State.fold_upd]
  repeat' first
    | with_reducible assumption
    | with_reducible exact Does.rfl' _ _
    | (extract_lets +onlyGivenNames X_; refine Does.cut X_ ?_ ?_; (on_goal 2 => (intro _; clear_value X_)); (on_goal 1 => (dsimp -zeta only [X_]; clear X_)))
    | (extract_lets +onlyGivenNames X_; refine Does.cutOf (Prod.fst (α := State)) X_ ?_ ?_; (on_goal 2 => (intro _; clear_value X_)); (on_goal 1 => (dsimp -zeta only [X_]; clear X_)))
    | extract_lets +onlyGivenNames X_
    | with_reducible apply okField_ite
    | (with_reducible show Nat.testBit _ _ = true; decide)
    | (with_reducible show subMask _ _ = true; decide)
    | (intro _ _ _; beta_reduce)
    | with_reducible apply Does.ite
    | split
    | with_reducible apply Does.upd_upd
    | apply Does.ite
    | dsimp -zeta only
    | refine Does.sndOf (by assumption) ?_
    | refine Does.fstOf (by assumption) ?_
    | (generalize ‹Option _› = w_; split)
    | (generalize ‹List _› = w_; split)

theorem execAccumulatorClear_does (s : State) (τ : State) (hδ : execAccumulatorClear s = .next τ) : Does 8916963975312 s τ := by
  unfold execAccumulatorClear at hδ
  obtain rfl := Host.Outcome.next.inj hδ
  clear hδ
  try dsimp -zeta only [State.fold_upd]
  repeat' first
    | with_reducible assumption
    | with_reducible exact Does.rfl' _ _
    | (extract_lets +onlyGivenNames X_; refine Does.cut X_ ?_ ?_; (on_goal 2 => (intro _; clear_value X_)); (on_goal 1 => (dsimp -zeta only [X_]; clear X_)))
    | (extract_lets +onlyGivenNames X_; refine Does.cutOf (Prod.fst (α := State)) X_ ?_ ?_; (on_goal 2 => (intro _; clear_value X_)); (on_goal 1 => (dsimp -zeta only [X_]; clear X_)))
    | extract_lets +onlyGivenNames X_
    | with_reducible apply State.advance_does
    | with_reducible apply State.clearAcc_does
    | with_reducible apply Does.forEach
    | with_reducible apply okField_ite
    | (with_reducible show Nat.testBit _ _ = true; decide)
    | (with_reducible show subMask _ _ = true; decide)
    | (intro _ _ _; beta_reduce)
    | with_reducible apply Does.ite
    | split
    | with_reducible apply Does.upd_upd
    | apply Does.ite
    | dsimp -zeta only
    | refine Does.sndOf (by assumption) ?_
    | refine Does.fstOf (by assumption) ?_
    | (generalize ‹Option _› = w_; split)
    | (generalize ‹List _› = w_; split)

end Sys2Proof.Machine
end

