-- ==== Sys2Proof/Laws/FPorts.lean ====
section
/-! SUPPORT. Laws/FPorts.lean: what every operation of Machine/Ports.lean leaves alone (see Laws/Frame.lean). -/

set_option linter.unreachableTactic false
set_option linter.unusedTactic false
set_option linter.tactic.unusedName false

namespace Sys2Proof.Machine

theorem State.cdpMark_does {μ : Nat} {σ : State} (s : State) (p st : Nat) (bit : Nat → Fld) (hf : ∀ p, okField (bit p) μ = true) (hμ : subMask 2048 μ = true) (hδ : Does μ σ s) :
    Does μ σ (State.cdpMark s p st bit) := by
  unfold State.cdpMark
  repeat' first
    | (extract_lets +onlyGivenNames X_; refine Does.cut X_ ?_ ?_; (on_goal 2 => (intro _; clear_value X_)); (on_goal 1 => (dsimp -zeta only [X_]; clear X_)))
    | (extract_lets +onlyGivenNames X_; refine Does.cutOf (Prod.fst (α := State)) X_ ?_ ?_; (on_goal 2 => (intro _; clear_value X_)); (on_goal 1 => (dsimp -zeta only [X_]; clear X_)))
    | extract_lets +onlyGivenNames X_
    | with_reducible assumption
    | with_reducible exact Does.rfl' _ _
    | with_reducible apply Does.set
    | with_reducible apply Does.addSat
    | with_reducible exact okField_mono (ok_CDP_ERR_LAST_STATUS _ (by decide)) hμ
    | with_reducible exact okField_mono (ok_CDP_ERR_COUNT _ (by decide)) hμ
    | with_reducible apply okField_ite
    | with_reducible exact testBit_mono (by decide) hμ
    | with_reducible exact subMask_trans (by decide) hμ
    | (intro _ _ _; beta_reduce)
    | with_reducible apply Does.ite
    | split
    | with_reducible exact hf _
    | with_reducible exact hf

theorem State.cdpErr_does {μ : Nat} {σ : State} (s : State) (p st : Nat) (bit : Nat → Fld) (aux : Nat) (hf : ∀ p, okField (bit p) μ = true) (hμ : subMask 536897536 μ = true) (hδ : Does μ σ s) :
    Does μ σ (State.cdpErr s p st bit aux) :=
  State.logEv_does _ _ _ _ _ _ (subMask_trans (by decide) hμ) (State.cdpMark_does _ _ _ _ hf (subMask_trans (by decide) hμ) hδ)

theorem State.protoErr_does {μ : Nat} {σ : State} (s : State) (p : Nat) (hμ : subMask 536897536 μ = true) (hδ : Does μ σ s) :
    Does μ σ (State.protoErr s p) := by
  refine Does.after (a := 536897536) ?_ hμ hδ
  clear hδ hμ
  unfold State.protoErr
  repeat' first
    | with_reducible assumption
    | with_reducible exact Does.rfl' _ _
    | (extract_lets +onlyGivenNames X_; refine Does.cut X_ ?_ ?_; (on_goal 2 => (intro _; clear_value X_)); (on_goal 1 => (dsimp -zeta only [X_]; clear X_)))
    | (extract_lets +onlyGivenNames X_; refine Does.cutOf (Prod.fst (α := State)) X_ ?_ ?_; (on_goal 2 => (intro _; clear_value X_)); (on_goal 1 => (dsimp -zeta only [X_]; clear X_)))
    | extract_lets +onlyGivenNames X_
    | with_reducible apply State.cdpErr_does
    | with_reducible exact ok_CDP_ERR_PROTOCOL _ (by decide)
    | with_reducible exact fun _ => ok_CDP_ERR_PROTOCOL _ (by decide)
    | with_reducible apply okField_ite
    | (with_reducible show Nat.testBit _ _ = true; decide)
    | (with_reducible show subMask _ _ = true; decide)
    | (intro _ _ _; beta_reduce)
    | with_reducible apply Does.ite
    | split
    | apply Does.ite
    | dsimp -zeta only
    | refine Does.sndOf (by assumption) ?_
    | refine Does.fstOf (by assumption) ?_

theorem State.dropMsg_does {μ : Nat} {σ : State} (s : State) (p d a : Nat) (hμ : subMask 69256374272 μ = true) (hδ : Does μ σ s) :
    Does μ σ (State.dropMsg s p d a) := by
  refine Does.after (a := 69256374272) ?_ hμ hδ
  clear hδ hμ
  unfold State.dropMsg
  repeat' first
    | with_reducible assumption
    | with_reducible exact Does.rfl' _ _
    | (extract_lets +onlyGivenNames X_; refine Does.cut X_ ?_ ?_; (on_goal 2 => (intro _; clear_value X_)); (on_goal 1 => (dsimp -zeta only [X_]; clear X_)))
    | (extract_lets +onlyGivenNames X_; refine Does.cutOf (Prod.fst (α := State)) X_ ?_ ?_; (on_goal 2 => (intro _; clear_value X_)); (on_goal 1 => (dsimp -zeta only [X_]; clear X_)))
    | extract_lets +onlyGivenNames X_
    | with_reducible apply State.protoErr_does
    | with_reducible apply State.setPort_does
    | with_reducible apply okField_ite
    | (with_reducible show Nat.testBit _ _ = true; decide)
    | (with_reducible show subMask _ _ = true; decide)
    | (intro _ _ _; beta_reduce)
    | with_reducible apply Does.ite
    | split
    | apply Does.ite
    | dsimp -zeta only
    | refine Does.sndOf (by assumption) ?_
    | refine Does.fstOf (by assumption) ?_

theorem State.markedIn_does {μ : Nat} {σ : State} (s : State) (p : Nat) (marks : List Bool) (hμ : subMask 16779280 μ = true) (hδ : Does μ σ s) :
    Does μ σ (State.markedIn s p marks) := by
  refine Does.after (a := 16779280) ?_ hμ hδ
  clear hδ hμ
  unfold State.markedIn
  repeat' first
    | with_reducible assumption
    | with_reducible exact Does.rfl' _ _
    | (extract_lets +onlyGivenNames X_; refine Does.cut X_ ?_ ?_; (on_goal 2 => (intro _; clear_value X_)); (on_goal 1 => (dsimp -zeta only [X_]; clear X_)))
    | (extract_lets +onlyGivenNames X_; refine Does.cutOf (Prod.fst (α := State)) X_ ?_ ?_; (on_goal 2 => (intro _; clear_value X_)); (on_goal 1 => (dsimp -zeta only [X_]; clear X_)))
    | extract_lets +onlyGivenNames X_
    | with_reducible apply Does.set
    | with_reducible apply State.raiseFlag_does
    | with_reducible exact ok_CDP_ERR_MARKED_IN _ (by decide)
    | with_reducible exact ok_CDP_ERR_LAST_STATUS _ (by decide)
    | with_reducible apply okField_ite
    | (with_reducible show Nat.testBit _ _ = true; decide)
    | (with_reducible show subMask _ _ = true; decide)
    | (intro _ _ _; beta_reduce)
    | with_reducible apply Does.ite
    | split
    | apply Does.ite
    | dsimp -zeta only
    | refine Does.sndOf (by assumption) ?_
    | refine Does.fstOf (by assumption) ?_

theorem State.countIn_does {μ : Nat} {σ : State} (s : State) (p g : Nat) (hμ : subMask 2048 μ = true) (hδ : Does μ σ s) :
    Does μ σ (State.countIn s p g) := by
  refine Does.after (a := 2048) ?_ hμ hδ
  clear hδ hμ
  unfold State.countIn
  repeat' first
    | with_reducible assumption
    | with_reducible exact Does.rfl' _ _
    | (extract_lets +onlyGivenNames X_; refine Does.cut X_ ?_ ?_; (on_goal 2 => (intro _; clear_value X_)); (on_goal 1 => (dsimp -zeta only [X_]; clear X_)))
    | (extract_lets +onlyGivenNames X_; refine Does.cutOf (Prod.fst (α := State)) X_ ?_ ?_; (on_goal 2 => (intro _; clear_value X_)); (on_goal 1 => (dsimp -zeta only [X_]; clear X_)))
    | extract_lets +onlyGivenNames X_
    | with_reducible apply Does.set
    | with_reducible exact ok_CDP_TRAFFIC_IN_GRANULES _ (by decide)
    | with_reducible apply okField_ite
    | (with_reducible show Nat.testBit _ _ = true; decide)
    | (with_reducible show subMask _ _ = true; decide)
    | (intro _ _ _; beta_reduce)
    | with_reducible apply Does.ite
    | split
    | apply Does.ite
    | dsimp -zeta only
    | refine Does.sndOf (by assumption) ?_
    | refine Does.fstOf (by assumption) ?_

theorem State.giveBack_does {μ : Nat} {σ : State} (s : State) (p : Nat) (r : DieReq) (h d a : Nat) (hμ : subMask 103083409408 μ = true) (hδ : Does μ σ s) :
    Does μ σ (State.giveBack s p r h d a) := by
  refine Does.after (a := 103083409408) ?_ hμ hδ
  clear hδ hμ
  unfold State.giveBack
  repeat' first
    | with_reducible assumption
    | with_reducible exact Does.rfl' _ _
    | (extract_lets +onlyGivenNames X_; refine Does.cut X_ ?_ ?_; (on_goal 2 => (intro _; clear_value X_)); (on_goal 1 => (dsimp -zeta only [X_]; clear X_)))
    | (extract_lets +onlyGivenNames X_; refine Does.cutOf (Prod.fst (α := State)) X_ ?_ ?_; (on_goal 2 => (intro _; clear_value X_)); (on_goal 1 => (dsimp -zeta only [X_]; clear X_)))
    | extract_lets +onlyGivenNames X_
    | with_reducible apply State.returnCr_does
    | with_reducible apply okField_ite
    | (with_reducible show Nat.testBit _ _ = true; decide)
    | (with_reducible show subMask _ _ = true; decide)
    | (intro _ _ _; beta_reduce)
    | with_reducible apply Does.ite
    | split
    | apply Does.ite
    | dsimp -zeta only
    | refine Does.sndOf (by assumption) ?_
    | refine Does.fstOf (by assumption) ?_

theorem State.serveRd_does {μ : Nat} {σ : State} (s : State) (q : Nat) (r : DieReq) (hμ : subMask 395686471808 μ = true) (hδ : Does μ σ s) :
    Does μ σ (State.serveRd s q r) := by
  refine Does.after (a := 395686471808) ?_ hμ hδ
  clear hδ hμ
  unfold State.serveRd
  repeat' first
    | with_reducible assumption
    | with_reducible exact Does.rfl' _ _
    | (extract_lets +onlyGivenNames X_; refine Does.cut X_ ?_ ?_; (on_goal 2 => (intro _; clear_value X_)); (on_goal 1 => (dsimp -zeta only [X_]; clear X_)))
    | (extract_lets +onlyGivenNames X_; refine Does.cutOf (Prod.fst (α := State)) X_ ?_ ?_; (on_goal 2 => (intro _; clear_value X_)); (on_goal 1 => (dsimp -zeta only [X_]; clear X_)))
    | (extract_lets +onlyGivenNames X_; refine Does.cutOf Got.st X_ ?_ ?_; (on_goal 2 => (intro _; clear_value X_)); (on_goal 1 => (dsimp -zeta only [X_]; clear X_)))
    | (extract_lets +onlyGivenNames X_; refine Does.cutOf (fun x => Got.st (Prod.fst x)) X_ ?_ ?_; (on_goal 2 => (intro _; clear_value X_)); (on_goal 1 => (dsimp -zeta only [X_]; clear X_)))
    | extract_lets +onlyGivenNames X_
    | with_reducible apply Does.set
    | with_reducible apply State.cdpMark_does
    | with_reducible apply State.emit_does
    | with_reducible apply State.giveBack_does
    | with_reducible apply State.noteRange_does
    | with_reducible apply State.readOA_does
    | with_reducible exact ok_CDP_TRAFFIC_OUT_GRANULES _ (by decide)
    | with_reducible exact fun _ => ok_CDP_TRAFFIC_OUT_GRANULES _ (by decide)
    | with_reducible exact ok_CDP_ERR_READ_REFUSED _ (by decide)
    | with_reducible exact fun _ => ok_CDP_ERR_READ_REFUSED _ (by decide)
    | with_reducible apply okField_ite
    | (with_reducible show Nat.testBit _ _ = true; decide)
    | (with_reducible show subMask _ _ = true; decide)
    | (intro _ _ _; beta_reduce)
    | with_reducible apply Does.ite
    | split
    | apply Does.ite
    | dsimp -zeta only
    | refine Does.sndOf (by assumption) ?_
    | refine Does.fstOf (by assumption) ?_

theorem State.serveWr_does {μ : Nat} {σ : State} (s : State) (q : Nat) (r : DieReq) (hμ : subMask 6992767773072 μ = true) (hδ : Does μ σ s) :
    Does μ σ (State.serveWr s q r) := by
  refine Does.after (a := 6992767773072) ?_ hμ hδ
  clear hδ hμ
  unfold State.serveWr
  repeat' first
    | with_reducible assumption
    | with_reducible exact Does.rfl' _ _
    | (extract_lets +onlyGivenNames X_; refine Does.cut X_ ?_ ?_; (on_goal 2 => (intro _; clear_value X_)); (on_goal 1 => (dsimp -zeta only [X_]; clear X_)))
    | (extract_lets +onlyGivenNames X_; refine Does.cutOf (Prod.fst (α := State)) X_ ?_ ?_; (on_goal 2 => (intro _; clear_value X_)); (on_goal 1 => (dsimp -zeta only [X_]; clear X_)))
    | (extract_lets +onlyGivenNames X_; refine Does.cutOf Got.st X_ ?_ ?_; (on_goal 2 => (intro _; clear_value X_)); (on_goal 1 => (dsimp -zeta only [X_]; clear X_)))
    | (extract_lets +onlyGivenNames X_; refine Does.cutOf (fun x => Got.st (Prod.fst x)) X_ ?_ ?_; (on_goal 2 => (intro _; clear_value X_)); (on_goal 1 => (dsimp -zeta only [X_]; clear X_)))
    | extract_lets +onlyGivenNames X_
    | with_reducible apply State.cdpErr_does
    | with_reducible apply State.cdpMark_does
    | with_reducible apply State.giveBack_does
    | with_reducible apply State.tierRefuse_does
    | with_reducible apply State.writeOA_does
    | with_reducible exact ok_CDP_ERR_WRITE_REFUSED _ (by decide)
    | with_reducible exact fun _ => ok_CDP_ERR_WRITE_REFUSED _ (by decide)
    | with_reducible apply okField_ite
    | (with_reducible show Nat.testBit _ _ = true; decide)
    | (with_reducible show subMask _ _ = true; decide)
    | (intro _ _ _; beta_reduce)
    | with_reducible apply Does.ite
    | split
    | apply Does.ite
    | dsimp -zeta only
    | refine Does.sndOf (by assumption) ?_
    | refine Does.fstOf (by assumption) ?_
    | (generalize ‹Option _› = w_; split)
    | (generalize ‹List _› = w_; split)

theorem State.serveAddw_does {μ : Nat} {σ : State} (s : State) (q : Nat) (r : DieReq) (hμ : subMask 50973241272720 μ = true) (hδ : Does μ σ s) :
    Does μ σ (State.serveAddw s q r) := by
  refine Does.after (a := 50973241272720) ?_ hμ hδ
  clear hδ hμ
  unfold State.serveAddw
  repeat' first
    | with_reducible assumption
    | with_reducible exact Does.rfl' _ _
    | (extract_lets +onlyGivenNames X_; refine Does.cut X_ ?_ ?_; (on_goal 2 => (intro _; clear_value X_)); (on_goal 1 => (dsimp -zeta only [X_]; clear X_)))
    | (extract_lets +onlyGivenNames X_; refine Does.cutOf (Prod.fst (α := State)) X_ ?_ ?_; (on_goal 2 => (intro _; clear_value X_)); (on_goal 1 => (dsimp -zeta only [X_]; clear X_)))
    | extract_lets +onlyGivenNames X_
    | with_reducible apply State.addRefused_does
    | with_reducible apply State.giveBack_does
    | with_reducible apply State.killRegion_does
    | with_reducible apply State.takeAdd_does
    | with_reducible apply okField_ite
    | (with_reducible show Nat.testBit _ _ = true; decide)
    | (with_reducible show subMask _ _ = true; decide)
    | (intro _ _ _; beta_reduce)
    | with_reducible apply Does.ite
    | split
    | apply Does.ite
    | dsimp -zeta only
    | refine Does.sndOf (by assumption) ?_
    | refine Does.fstOf (by assumption) ?_
    | (generalize ‹Option _› = w_; split)
    | (generalize ‹List _› = w_; split)

theorem State.serveReq_does {μ : Nat} {σ : State} (s : State) (p : Nat) (r : DieReq) (hμ : subMask 52072752900496 μ = true) (hδ : Does μ σ s) :
    Does μ σ (State.serveReq s p r) := by
  refine Does.after (a := 52072752900496) ?_ hμ hδ
  clear hδ hμ
  unfold State.serveReq
  repeat' first
    | with_reducible assumption
    | with_reducible exact Does.rfl' _ _
    | (extract_lets +onlyGivenNames X_; refine Does.cut X_ ?_ ?_; (on_goal 2 => (intro _; clear_value X_)); (on_goal 1 => (dsimp -zeta only [X_]; clear X_)))
    | (extract_lets +onlyGivenNames X_; refine Does.cutOf (Prod.fst (α := State)) X_ ?_ ?_; (on_goal 2 => (intro _; clear_value X_)); (on_goal 1 => (dsimp -zeta only [X_]; clear X_)))
    | extract_lets +onlyGivenNames X_
    | with_reducible apply State.emit_does
    | with_reducible apply State.giveBack_does
    | with_reducible apply State.partyArrives_does
    | with_reducible apply State.serveAddw_does
    | with_reducible apply State.serveRd_does
    | with_reducible apply State.serveWr_does
    | with_reducible apply okField_ite
    | (with_reducible show Nat.testBit _ _ = true; decide)
    | (with_reducible show subMask _ _ = true; decide)
    | (intro _ _ _; beta_reduce)
    | with_reducible apply Does.ite
    | split
    | apply Does.ite
    | dsimp -zeta only
    | refine Does.sndOf (by assumption) ?_
    | refine Does.fstOf (by assumption) ?_

theorem State.serveNext_does {μ : Nat} {σ : State} (s : State) (p : Nat) (hμ : subMask 52072752900496 μ = true) (hδ : Does μ σ s) :
    Does μ σ (State.serveNext s p) := by
  refine Does.after (a := 52072752900496) ?_ hμ hδ
  clear hδ hμ
  unfold State.serveNext
  repeat' first
    | with_reducible assumption
    | with_reducible exact Does.rfl' _ _
    | (extract_lets +onlyGivenNames X_; refine Does.cut X_ ?_ ?_; (on_goal 2 => (intro _; clear_value X_)); (on_goal 1 => (dsimp -zeta only [X_]; clear X_)))
    | (extract_lets +onlyGivenNames X_; refine Does.cutOf (Prod.fst (α := State)) X_ ?_ ?_; (on_goal 2 => (intro _; clear_value X_)); (on_goal 1 => (dsimp -zeta only [X_]; clear X_)))
    | extract_lets +onlyGivenNames X_
    | with_reducible apply State.give_does
    | with_reducible apply State.serveReq_does
    | with_reducible apply State.setPort_does
    | with_reducible apply okField_ite
    | (with_reducible show Nat.testBit _ _ = true; decide)
    | (with_reducible show subMask _ _ = true; decide)
    | (intro _ _ _; beta_reduce)
    | with_reducible apply Does.ite
    | split
    | apply Does.ite
    | dsimp -zeta only
    | refine Does.sndOf (by assumption) ?_
    | refine Does.fstOf (by assumption) ?_
    | (generalize ‹Option _› = w_; split)
    | (generalize ‹List _› = w_; split)

theorem State.confirmed_does {μ : Nat} {σ : State} (s : State) (n side : Nat) (hμ : subMask 549755813888 μ = true) (hδ : Does μ σ s) :
    Does μ σ (State.confirmed s n side) := by
  refine Does.after (a := 549755813888) ?_ hμ hδ
  clear hδ hμ
  unfold State.confirmed
  repeat' first
    | with_reducible assumption
    | with_reducible exact Does.rfl' _ _
    | (extract_lets +onlyGivenNames X_; refine Does.cut X_ ?_ ?_; (on_goal 2 => (intro _; clear_value X_)); (on_goal 1 => (dsimp -zeta only [X_]; clear X_)))
    | (extract_lets +onlyGivenNames X_; refine Does.cutOf (Prod.fst (α := State)) X_ ?_ ?_; (on_goal 2 => (intro _; clear_value X_)); (on_goal 1 => (dsimp -zeta only [X_]; clear X_)))
    | extract_lets +onlyGivenNames X_
    | with_reducible apply State.setStr_does
    | with_reducible apply okField_ite
    | (with_reducible show Nat.testBit _ _ = true; decide)
    | (with_reducible show subMask _ _ = true; decide)
    | (intro _ _ _; beta_reduce)
    | with_reducible apply Does.ite
    | split
    | apply Does.ite
    | dsimp -zeta only
    | refine Does.sndOf (by assumption) ?_
    | refine Does.fstOf (by assumption) ?_

theorem State.takeFack_does {μ : Nat} {σ : State} (s : State) (p : Nat) (f : Nat × Nat × Nat) (hμ : subMask 549772591216 μ = true) (hδ : Does μ σ s) :
    Does μ σ (State.takeFack s p f) := by
  refine Does.after (a := 549772591216) ?_ hμ hδ
  clear hδ hμ
  unfold State.takeFack
  repeat' first
    | with_reducible assumption
    | with_reducible exact Does.rfl' _ _
    | (extract_lets +onlyGivenNames X_; refine Does.cut X_ ?_ ?_; (on_goal 2 => (intro _; clear_value X_)); (on_goal 1 => (dsimp -zeta only [X_]; clear X_)))
    | (extract_lets +onlyGivenNames X_; refine Does.cutOf (Prod.fst (α := State)) X_ ?_ ?_; (on_goal 2 => (intro _; clear_value X_)); (on_goal 1 => (dsimp -zeta only [X_]; clear X_)))
    | extract_lets +onlyGivenNames X_
    | with_reducible apply State.confirmed_does
    | with_reducible apply State.farFault_does
    | with_reducible apply okField_ite
    | (with_reducible show Nat.testBit _ _ = true; decide)
    | (with_reducible show subMask _ _ = true; decide)
    | (intro _ _ _; beta_reduce)
    | with_reducible apply Does.ite
    | split
    | apply Does.ite
    | dsimp -zeta only
    | refine Does.sndOf (by assumption) ?_
    | refine Does.fstOf (by assumption) ?_

theorem State.serveFacks_does {μ : Nat} {σ : State} (s : State) (p : Nat) (hμ : subMask 652851806320 μ = true) (hδ : Does μ σ s) :
    Does μ σ (State.serveFacks s p) := by
  refine Does.after (a := 652851806320) ?_ hμ hδ
  clear hδ hμ
  unfold State.serveFacks
  repeat' first
    | with_reducible assumption
    | with_reducible exact Does.rfl' _ _
    | (extract_lets +onlyGivenNames X_; refine Does.cut X_ ?_ ?_; (on_goal 2 => (intro _; clear_value X_)); (on_goal 1 => (dsimp -zeta only [X_]; clear X_)))
    | (extract_lets +onlyGivenNames X_; refine Does.cutOf (Prod.fst (α := State)) X_ ?_ ?_; (on_goal 2 => (intro _; clear_value X_)); (on_goal 1 => (dsimp -zeta only [X_]; clear X_)))
    | extract_lets +onlyGivenNames X_
    | with_reducible apply State.give_does
    | with_reducible apply State.setPort_does
    | with_reducible apply State.takeFack_does
    | with_reducible apply Does.foldl
    | with_reducible apply Does.foldlFst
    | with_reducible apply okField_ite
    | (with_reducible show Nat.testBit _ _ = true; decide)
    | (with_reducible show subMask _ _ = true; decide)
    | (intro _ _ _; beta_reduce)
    | with_reducible apply Does.ite
    | split
    | apply Does.ite
    | dsimp -zeta only
    | refine Does.sndOf (by assumption) ?_
    | refine Does.fstOf (by assumption) ?_

theorem State.serveDue_does {μ : Nat} {σ : State} (s : State) (p : Nat) (hμ : subMask 52622508714480 μ = true) (hδ : Does μ σ s) :
    Does μ σ (State.serveDue s p) := by
  refine Does.after (a := 52622508714480) ?_ hμ hδ
  clear hδ hμ
  unfold State.serveDue
  repeat' first
    | with_reducible assumption
    | with_reducible exact Does.rfl' _ _
    | (extract_lets +onlyGivenNames X_; refine Does.cut X_ ?_ ?_; (on_goal 2 => (intro _; clear_value X_)); (on_goal 1 => (dsimp -zeta only [X_]; clear X_)))
    | (extract_lets +onlyGivenNames X_; refine Does.cutOf (Prod.fst (α := State)) X_ ?_ ?_; (on_goal 2 => (intro _; clear_value X_)); (on_goal 1 => (dsimp -zeta only [X_]; clear X_)))
    | extract_lets +onlyGivenNames X_
    | with_reducible apply State.serveFacks_does
    | with_reducible apply State.serveNext_does
    | with_reducible apply Does.forEach
    | with_reducible apply okField_ite
    | (with_reducible show Nat.testBit _ _ = true; decide)
    | (with_reducible show subMask _ _ = true; decide)
    | (intro _ _ _; beta_reduce)
    | with_reducible apply Does.ite
    | split
    | apply Does.ite
    | dsimp -zeta only
    | refine Does.sndOf (by assumption) ?_
    | refine Does.fstOf (by assumption) ?_

theorem State.serveDies_does {μ : Nat} {σ : State} (s : State) (hμ : subMask 52622508714480 μ = true) (hδ : Does μ σ s) :
    Does μ σ (State.serveDies s) := by
  refine Does.after (a := 52622508714480) ?_ hμ hδ
  clear hδ hμ
  unfold State.serveDies
  repeat' first
    | with_reducible assumption
    | with_reducible exact Does.rfl' _ _
    | (extract_lets +onlyGivenNames X_; refine Does.cut X_ ?_ ?_; (on_goal 2 => (intro _; clear_value X_)); (on_goal 1 => (dsimp -zeta only [X_]; clear X_)))
    | (extract_lets +onlyGivenNames X_; refine Does.cutOf (Prod.fst (α := State)) X_ ?_ ?_; (on_goal 2 => (intro _; clear_value X_)); (on_goal 1 => (dsimp -zeta only [X_]; clear X_)))
    | extract_lets +onlyGivenNames X_
    | with_reducible apply State.serveDue_does
    | with_reducible apply Does.forEach
    | with_reducible apply okField_ite
    | (with_reducible show Nat.testBit _ _ = true; decide)
    | (with_reducible show subMask _ _ = true; decide)
    | (intro _ _ _; beta_reduce)
    | with_reducible apply Does.ite
    | split
    | apply Does.ite
    | dsimp -zeta only
    | refine Does.sndOf (by assumption) ?_
    | refine Does.fstOf (by assumption) ?_

theorem State.buffer_does {μ : Nat} {σ : State} (s : State) (p : Nat) (r : DieReq) (hμ : subMask 103079215104 μ = true) (hδ : Does μ σ s) :
    Does μ σ (State.buffer s p r) := by
  refine Does.after (a := 103079215104) ?_ hμ hδ
  clear hδ hμ
  unfold State.buffer
  repeat' first
    | with_reducible assumption
    | with_reducible exact Does.rfl' _ _
    | (extract_lets +onlyGivenNames X_; refine Does.cut X_ ?_ ?_; (on_goal 2 => (intro _; clear_value X_)); (on_goal 1 => (dsimp -zeta only [X_]; clear X_)))
    | (extract_lets +onlyGivenNames X_; refine Does.cutOf (Prod.fst (α := State)) X_ ?_ ?_; (on_goal 2 => (intro _; clear_value X_)); (on_goal 1 => (dsimp -zeta only [X_]; clear X_)))
    | extract_lets +onlyGivenNames X_
    | with_reducible apply State.setPort_does
    | with_reducible apply State.take_does
    | with_reducible apply okField_ite
    | (with_reducible show Nat.testBit _ _ = true; decide)
    | (with_reducible show subMask _ _ = true; decide)
    | (intro _ _ _; beta_reduce)
    | with_reducible apply Does.ite
    | split
    | apply Does.ite
    | dsimp -zeta only
    | refine Does.sndOf (by assumption) ?_
    | refine Does.fstOf (by assumption) ?_

theorem State.takeReq_does {μ : Nat} {σ : State} (s : State) (p : Nat) (r : DieReq) (hμ : subMask 52622576347632 μ = true) (hδ : Does μ σ s) :
    Does μ σ (State.takeReq s p r) := by
  refine Does.after (a := 52622576347632) ?_ hμ hδ
  clear hδ hμ
  unfold State.takeReq
  repeat' first
    | with_reducible assumption
    | with_reducible exact Does.rfl' _ _
    | (extract_lets +onlyGivenNames X_; refine Does.cut X_ ?_ ?_; (on_goal 2 => (intro _; clear_value X_)); (on_goal 1 => (dsimp -zeta only [X_]; clear X_)))
    | (extract_lets +onlyGivenNames X_; refine Does.cutOf (Prod.fst (α := State)) X_ ?_ ?_; (on_goal 2 => (intro _; clear_value X_)); (on_goal 1 => (dsimp -zeta only [X_]; clear X_)))
    | extract_lets +onlyGivenNames X_
    | with_reducible apply State.buffer_does
    | with_reducible apply State.serveDue_does
    | with_reducible apply State.serveReq_does
    | with_reducible apply State.setPort_does
    | with_reducible apply State.toTick_does
    | with_reducible apply okField_ite
    | (with_reducible show Nat.testBit _ _ = true; decide)
    | (with_reducible show subMask _ _ = true; decide)
    | (intro _ _ _; beta_reduce)
    | with_reducible apply Does.ite
    | split
    | apply Does.ite
    | dsimp -zeta only
    | refine Does.sndOf (by assumption) ?_
    | refine Does.fstOf (by assumption) ?_
    | (generalize ‹Option _› = w_; split)
    | (generalize ‹List _› = w_; split)

theorem State.arriveMsg_does {μ : Nat} {σ : State} (s : State) (p d a : Nat) (hμ : subMask 34359738368 μ = true) (hδ : Does μ σ s) :
    Does μ σ (State.arriveMsg s p d a) := by
  refine Does.after (a := 34359738368) ?_ hμ hδ
  clear hδ hμ
  unfold State.arriveMsg
  repeat' first
    | with_reducible assumption
    | with_reducible exact Does.rfl' _ _
    | (extract_lets +onlyGivenNames X_; refine Does.cut X_ ?_ ?_; (on_goal 2 => (intro _; clear_value X_)); (on_goal 1 => (dsimp -zeta only [X_]; clear X_)))
    | (extract_lets +onlyGivenNames X_; refine Does.cutOf (Prod.fst (α := State)) X_ ?_ ?_; (on_goal 2 => (intro _; clear_value X_)); (on_goal 1 => (dsimp -zeta only [X_]; clear X_)))
    | extract_lets +onlyGivenNames X_
    | with_reducible apply State.take_does
    | with_reducible apply okField_ite
    | (with_reducible show Nat.testBit _ _ = true; decide)
    | (with_reducible show subMask _ _ = true; decide)
    | (intro _ _ _; beta_reduce)
    | with_reducible apply Does.ite
    | split
    | apply Does.ite
    | dsimp -zeta only
    | refine Does.sndOf (by assumption) ?_
    | refine Does.fstOf (by assumption) ?_

theorem execRd_does (p : Fin 4) (tag : Nat) (addr : BitVec 64) (len : Nat) (s : State) (τ : State) (hδ : execRd p tag addr len s = .next τ) : Does 52622576347632 s τ := by
  unfold execRd at hδ
  obtain rfl := Host.Outcome.next.inj hδ
  clear hδ
  repeat' first
    | with_reducible assumption
    | with_reducible exact Does.rfl' _ _
    | (extract_lets +onlyGivenNames X_; refine Does.cut X_ ?_ ?_; (on_goal 2 => (intro _; clear_value X_)); (on_goal 1 => (dsimp -zeta only [X_]; clear X_)))
    | (extract_lets +onlyGivenNames X_; refine Does.cutOf (Prod.fst (α := State)) X_ ?_ ?_; (on_goal 2 => (intro _; clear_value X_)); (on_goal 1 => (dsimp -zeta only [X_]; clear X_)))
    | extract_lets +onlyGivenNames X_
    | with_reducible apply State.arriveMsg_does
    | with_reducible apply State.dropMsg_does
    | with_reducible apply State.protoErr_does
    | with_reducible apply State.takeReq_does
    | with_reducible apply okField_ite
    | (with_reducible show Nat.testBit _ _ = true; decide)
    | (with_reducible show subMask _ _ = true; decide)
    | (intro _ _ _; beta_reduce)
    | with_reducible apply Does.ite
    | split
    | apply Does.ite
    | dsimp -zeta only
    | refine Does.sndOf (by assumption) ?_
    | refine Does.fstOf (by assumption) ?_

theorem execWrFromDie_does (p : Fin 4) (addr : BitVec 64) (data : List Byte) (marks : List Bool) (s : State) (τ : State) (hδ : execWrFromDie p addr data marks s = .next τ) : Does 52622576347632 s τ := by
  unfold execWrFromDie at hδ
  obtain rfl := Host.Outcome.next.inj hδ
  clear hδ
  repeat' first
    | with_reducible assumption
    | with_reducible exact Does.rfl' _ _
    | (extract_lets +onlyGivenNames X_; refine Does.cut X_ ?_ ?_; (on_goal 2 => (intro _; clear_value X_)); (on_goal 1 => (dsimp -zeta only [X_]; clear X_)))
    | (extract_lets +onlyGivenNames X_; refine Does.cutOf (Prod.fst (α := State)) X_ ?_ ?_; (on_goal 2 => (intro _; clear_value X_)); (on_goal 1 => (dsimp -zeta only [X_]; clear X_)))
    | extract_lets +onlyGivenNames X_
    | with_reducible apply State.arriveMsg_does
    | with_reducible apply State.countIn_does
    | with_reducible apply State.dropMsg_does
    | with_reducible apply State.markedIn_does
    | with_reducible apply State.protoErr_does
    | with_reducible apply State.take_does
    | with_reducible apply State.takeReq_does
    | with_reducible apply okField_ite
    | (with_reducible show Nat.testBit _ _ = true; decide)
    | (with_reducible show subMask _ _ = true; decide)
    | (intro _ _ _; beta_reduce)
    | with_reducible apply Does.ite
    | split
    | apply Does.ite
    | dsimp -zeta only
    | refine Does.sndOf (by assumption) ?_
    | refine Does.fstOf (by assumption) ?_

theorem execAddw_does (p : Fin 4) (w : Transfer) (addr : BitVec 64) (fmt : Nat) (data : List Byte) (marks : List Bool) (s : State) (τ : State) (hδ : execAddw p w addr fmt data marks s = .next τ) : Does 52622576347632 s τ := by
  unfold execAddw at hδ
  obtain rfl := Host.Outcome.next.inj hδ
  clear hδ
  repeat' first
    | with_reducible assumption
    | with_reducible exact Does.rfl' _ _
    | (extract_lets +onlyGivenNames X_; refine Does.cut X_ ?_ ?_; (on_goal 2 => (intro _; clear_value X_)); (on_goal 1 => (dsimp -zeta only [X_]; clear X_)))
    | (extract_lets +onlyGivenNames X_; refine Does.cutOf (Prod.fst (α := State)) X_ ?_ ?_; (on_goal 2 => (intro _; clear_value X_)); (on_goal 1 => (dsimp -zeta only [X_]; clear X_)))
    | extract_lets +onlyGivenNames X_
    | with_reducible apply State.arriveMsg_does
    | with_reducible apply State.countIn_does
    | with_reducible apply State.dropMsg_does
    | with_reducible apply State.markErrors_does
    | with_reducible apply State.markedIn_does
    | with_reducible apply State.protoErr_does
    | with_reducible apply State.take_does
    | with_reducible apply State.takeReq_does
    | with_reducible apply okField_ite
    | (with_reducible show Nat.testBit _ _ = true; decide)
    | (with_reducible show subMask _ _ = true; decide)
    | (intro _ _ _; beta_reduce)
    | with_reducible apply Does.ite
    | split
    | apply Does.ite
    | dsimp -zeta only
    | refine Does.sndOf (by assumption) ?_
    | refine Does.fstOf (by assumption) ?_

theorem State.dropPace_does {μ : Nat} {σ : State} (s : State) (p line k : Nat) (hμ : subMask 103888740352 μ = true) (hδ : Does μ σ s) :
    Does μ σ (State.dropPace s p line k) := by
  refine Does.after (a := 103888740352) ?_ hμ hδ
  clear hδ hμ
  unfold State.dropPace
  try dsimp -zeta only [State.fold_paceBad]
  repeat' first
    | with_reducible assumption
    | with_reducible exact Does.rfl' _ _
    | (extract_lets +onlyGivenNames X_; refine Does.cut X_ ?_ ?_; (on_goal 2 => (intro _; clear_value X_)); (on_goal 1 => (dsimp -zeta only [X_]; clear X_)))
    | (extract_lets +onlyGivenNames X_; refine Does.cutOf (Prod.fst (α := State)) X_ ?_ ?_; (on_goal 2 => (intro _; clear_value X_)); (on_goal 1 => (dsimp -zeta only [X_]; clear X_)))
    | extract_lets +onlyGivenNames X_
    | with_reducible apply State.logEv_does
    | with_reducible apply State.returnPace_does
    | with_reducible apply okField_ite
    | (with_reducible show Nat.testBit _ _ = true; decide)
    | (with_reducible show subMask _ _ = true; decide)
    | (intro _ _ _; beta_reduce)
    | with_reducible apply Does.ite
    | split
    | with_reducible apply Does.upd_paceBad
    | apply Does.ite
    | dsimp -zeta only
    | refine Does.sndOf (by assumption) ?_
    | refine Does.fstOf (by assumption) ?_

theorem State.addPace_does {μ : Nat} {σ : State} (s : State) (n k : Nat) (hμ : subMask 103083409440 μ = true) (hδ : Does μ σ s) :
    Does μ σ (State.addPace s n k) := by
  refine Does.after (a := 103083409440) ?_ hμ hδ
  clear hδ hμ
  unfold State.addPace
  repeat' first
    | with_reducible assumption
    | with_reducible exact Does.rfl' _ _
    | (extract_lets +onlyGivenNames X_; refine Does.cut X_ ?_ ?_; (on_goal 2 => (intro _; clear_value X_)); (on_goal 1 => (dsimp -zeta only [X_]; clear X_)))
    | (extract_lets +onlyGivenNames X_; refine Does.cutOf (Prod.fst (α := State)) X_ ?_ ?_; (on_goal 2 => (intro _; clear_value X_)); (on_goal 1 => (dsimp -zeta only [X_]; clear X_)))
    | extract_lets +onlyGivenNames X_
    | with_reducible apply Does.set
    | with_reducible apply State.settlePace_does
    | with_reducible exact ok_STREAM_RUN_PACE_RECV _ (by decide)
    | with_reducible apply okField_ite
    | (with_reducible show Nat.testBit _ _ = true; decide)
    | (with_reducible show subMask _ _ = true; decide)
    | (intro _ _ _; beta_reduce)
    | with_reducible apply Does.ite
    | split
    | apply Does.ite
    | dsimp -zeta only
    | refine Does.sndOf (by assumption) ?_
    | refine Does.fstOf (by assumption) ?_

theorem execPace_does (p : Fin 4) (line count : Nat) (s : State) (τ : State) (hδ : execPace p line count s = .next τ) : Does 103888742432 s τ := by
  unfold execPace at hδ
  obtain rfl := Host.Outcome.next.inj hδ
  clear hδ
  repeat' first
    | with_reducible assumption
    | with_reducible exact Does.rfl' _ _
    | (extract_lets +onlyGivenNames X_; refine Does.cut X_ ?_ ?_; (on_goal 2 => (intro _; clear_value X_)); (on_goal 1 => (dsimp -zeta only [X_]; clear X_)))
    | (extract_lets +onlyGivenNames X_; refine Does.cutOf (Prod.fst (α := State)) X_ ?_ ?_; (on_goal 2 => (intro _; clear_value X_)); (on_goal 1 => (dsimp -zeta only [X_]; clear X_)))
    | extract_lets +onlyGivenNames X_
    | with_reducible apply State.addPace_does
    | with_reducible apply State.dropPace_does
    | with_reducible apply State.protoErr_does
    | with_reducible apply State.setPort_does
    | with_reducible apply State.take_does
    | with_reducible apply okField_ite
    | (with_reducible show Nat.testBit _ _ = true; decide)
    | (with_reducible show subMask _ _ = true; decide)
    | (intro _ _ _; beta_reduce)
    | with_reducible apply Does.ite
    | split
    | apply Does.ite
    | dsimp -zeta only
    | refine Does.sndOf (by assumption) ?_
    | refine Does.fstOf (by assumption) ?_
    | (generalize ‹Option _› = w_; split)
    | (generalize ‹List _› = w_; split)

theorem execSigFromDie_does (p : Fin 4) (id : Nat) (s : State) (τ : State) (hδ : execSigFromDie p id s = .next τ) : Does 52622508714480 s τ := by
  unfold execSigFromDie at hδ
  obtain rfl := Host.Outcome.next.inj hδ
  clear hδ
  repeat' first
    | with_reducible assumption
    | with_reducible exact Does.rfl' _ _
    | (extract_lets +onlyGivenNames X_; refine Does.cut X_ ?_ ?_; (on_goal 2 => (intro _; clear_value X_)); (on_goal 1 => (dsimp -zeta only [X_]; clear X_)))
    | (extract_lets +onlyGivenNames X_; refine Does.cutOf (Prod.fst (α := State)) X_ ?_ ?_; (on_goal 2 => (intro _; clear_value X_)); (on_goal 1 => (dsimp -zeta only [X_]; clear X_)))
    | extract_lets +onlyGivenNames X_
    | with_reducible apply State.arriveMsg_does
    | with_reducible apply State.buffer_does
    | with_reducible apply State.dropMsg_does
    | with_reducible apply State.protoErr_does
    | with_reducible apply State.serveDue_does
    | with_reducible apply State.serveReq_does
    | with_reducible apply okField_ite
    | (with_reducible show Nat.testBit _ _ = true; decide)
    | (with_reducible show subMask _ _ = true; decide)
    | (intro _ _ _; beta_reduce)
    | with_reducible apply Does.ite
    | split
    | apply Does.ite
    | dsimp -zeta only
    | refine Does.sndOf (by assumption) ?_
    | refine Does.fstOf (by assumption) ?_

theorem execFenceFromDie_does (p : Fin 4) (tag : Nat) (s : State) (τ : State) (hδ : execFenceFromDie p tag s = .next τ) : Does 52622576347632 s τ := by
  unfold execFenceFromDie at hδ
  obtain rfl := Host.Outcome.next.inj hδ
  clear hδ
  repeat' first
    | with_reducible assumption
    | with_reducible exact Does.rfl' _ _
    | (extract_lets +onlyGivenNames X_; refine Does.cut X_ ?_ ?_; (on_goal 2 => (intro _; clear_value X_)); (on_goal 1 => (dsimp -zeta only [X_]; clear X_)))
    | (extract_lets +onlyGivenNames X_; refine Does.cutOf (Prod.fst (α := State)) X_ ?_ ?_; (on_goal 2 => (intro _; clear_value X_)); (on_goal 1 => (dsimp -zeta only [X_]; clear X_)))
    | extract_lets +onlyGivenNames X_
    | with_reducible apply State.arriveMsg_does
    | with_reducible apply State.dropMsg_does
    | with_reducible apply State.protoErr_does
    | with_reducible apply State.takeReq_does
    | with_reducible apply okField_ite
    | (with_reducible show Nat.testBit _ _ = true; decide)
    | (with_reducible show subMask _ _ = true; decide)
    | (intro _ _ _; beta_reduce)
    | with_reducible apply Does.ite
    | split
    | apply Does.ite
    | dsimp -zeta only
    | refine Does.sndOf (by assumption) ?_
    | refine Does.fstOf (by assumption) ?_

theorem State.bufferFack_does {μ : Nat} {σ : State} (s : State) (p tag status due : Nat) (hμ : subMask 103079215104 μ = true) (hδ : Does μ σ s) :
    Does μ σ (State.bufferFack s p tag status due) := by
  refine Does.after (a := 103079215104) ?_ hμ hδ
  clear hδ hμ
  unfold State.bufferFack
  repeat' first
    | with_reducible assumption
    | with_reducible exact Does.rfl' _ _
    | (extract_lets +onlyGivenNames X_; refine Does.cut X_ ?_ ?_; (on_goal 2 => (intro _; clear_value X_)); (on_goal 1 => (dsimp -zeta only [X_]; clear X_)))
    | (extract_lets +onlyGivenNames X_; refine Does.cutOf (Prod.fst (α := State)) X_ ?_ ?_; (on_goal 2 => (intro _; clear_value X_)); (on_goal 1 => (dsimp -zeta only [X_]; clear X_)))
    | extract_lets +onlyGivenNames X_
    | with_reducible apply State.setPort_does
    | with_reducible apply State.take_does
    | with_reducible apply okField_ite
    | (with_reducible show Nat.testBit _ _ = true; decide)
    | (with_reducible show subMask _ _ = true; decide)
    | (intro _ _ _; beta_reduce)
    | with_reducible apply Does.ite
    | split
    | apply Does.ite
    | dsimp -zeta only
    | refine Does.sndOf (by assumption) ?_
    | refine Does.fstOf (by assumption) ?_

theorem execFackFromDie_does (p : Fin 4) (tag status : Nat) (s : State) (τ : State) (hδ : execFackFromDie p tag status s = .next τ) : Does 2852479592560 s τ := by
  unfold execFackFromDie at hδ
  obtain rfl := Host.Outcome.next.inj hδ
  clear hδ
  repeat' first
    | with_reducible assumption
    | with_reducible exact Does.rfl' _ _
    | (extract_lets +onlyGivenNames X_; refine Does.cut X_ ?_ ?_; (on_goal 2 => (intro _; clear_value X_)); (on_goal 1 => (dsimp -zeta only [X_]; clear X_)))
    | (extract_lets +onlyGivenNames X_; refine Does.cutOf (Prod.fst (α := State)) X_ ?_ ?_; (on_goal 2 => (intro _; clear_value X_)); (on_goal 1 => (dsimp -zeta only [X_]; clear X_)))
    | extract_lets +onlyGivenNames X_
    | with_reducible apply State.bufferFack_does
    | with_reducible apply State.protoErr_does
    | with_reducible apply State.setPort_does
    | with_reducible apply State.takeFack_does
    | with_reducible apply State.toTick_does
    | with_reducible apply State.useSlots_does
    | with_reducible apply okField_ite
    | (with_reducible show Nat.testBit _ _ = true; decide)
    | (with_reducible show subMask _ _ = true; decide)
    | (intro _ _ _; beta_reduce)
    | with_reducible apply Does.ite
    | split
    | apply Does.ite
    | dsimp -zeta only
    | refine Does.sndOf (by assumption) ?_
    | refine Does.fstOf (by assumption) ?_
    | (generalize ‹Option _› = w_; split)
    | (generalize ‹List _› = w_; split)

theorem execCreditReturn_does (p : Fin 4) (hdr data addw : Nat) (s : State) (τ : State) (hδ : execCreditReturn p hdr data addw s = .next τ) : Does 25134709631472 s τ := by
  unfold execCreditReturn at hδ
  obtain rfl := Host.Outcome.next.inj hδ
  clear hδ
  repeat' first
    | with_reducible assumption
    | with_reducible exact Does.rfl' _ _
    | (extract_lets +onlyGivenNames X_; refine Does.cut X_ ?_ ?_; (on_goal 2 => (intro _; clear_value X_)); (on_goal 1 => (dsimp -zeta only [X_]; clear X_)))
    | (extract_lets +onlyGivenNames X_; refine Does.cutOf (Prod.fst (α := State)) X_ ?_ ?_; (on_goal 2 => (intro _; clear_value X_)); (on_goal 1 => (dsimp -zeta only [X_]; clear X_)))
    | extract_lets +onlyGivenNames X_
    | with_reducible apply State.closeStopped_does
    | with_reducible apply State.give_does
    | with_reducible apply State.setPort_does
    | with_reducible apply okField_ite
    | (with_reducible show Nat.testBit _ _ = true; decide)
    | (with_reducible show subMask _ _ = true; decide)
    | (intro _ _ _; beta_reduce)
    | with_reducible apply Does.ite
    | split
    | apply Does.ite
    | dsimp -zeta only
    | refine Does.sndOf (by assumption) ?_
    | refine Does.fstOf (by assumption) ?_

theorem State.tryUp_does {μ : Nat} {σ : State} (s : State) (p : Nat) (hμ : subMask 2048 μ = true) (hδ : Does μ σ s) :
    Does μ σ (State.tryUp s p) := by
  refine Does.after (a := 2048) ?_ hμ hδ
  clear hδ hμ
  unfold State.tryUp
  repeat' first
    | with_reducible assumption
    | with_reducible exact Does.rfl' _ _
    | (extract_lets +onlyGivenNames X_; refine Does.cut X_ ?_ ?_; (on_goal 2 => (intro _; clear_value X_)); (on_goal 1 => (dsimp -zeta only [X_]; clear X_)))
    | (extract_lets +onlyGivenNames X_; refine Does.cutOf (Prod.fst (α := State)) X_ ?_ ?_; (on_goal 2 => (intro _; clear_value X_)); (on_goal 1 => (dsimp -zeta only [X_]; clear X_)))
    | extract_lets +onlyGivenNames X_
    | with_reducible apply Does.set
    | with_reducible exact ok_CDP_STATUS_STATE _ (by decide)
    | with_reducible exact ok_CDP_STATUS_EDITION _ (by decide)
    | with_reducible exact ok_CDP_CREDIT_PACE_CREDITS _ (by decide)
    | with_reducible apply okField_ite
    | (with_reducible show Nat.testBit _ _ = true; decide)
    | (with_reducible show subMask _ _ = true; decide)
    | (intro _ _ _; beta_reduce)
    | with_reducible apply Does.ite
    | split
    | apply Does.ite
    | dsimp -zeta only
    | refine Does.sndOf (by assumption) ?_
    | refine Does.fstOf (by assumption) ?_

theorem State.sendHello_does {μ : Nat} {σ : State} (s : State) (p : Nat) (hμ : subMask 68723673088 μ = true) (hδ : Does μ σ s) :
    Does μ σ (State.sendHello s p) := by
  refine Does.after (a := 68723673088) ?_ hμ hδ
  clear hδ hμ
  unfold State.sendHello
  repeat' first
    | with_reducible assumption
    | with_reducible exact Does.rfl' _ _
    | (extract_lets +onlyGivenNames X_; refine Does.cut X_ ?_ ?_; (on_goal 2 => (intro _; clear_value X_)); (on_goal 1 => (dsimp -zeta only [X_]; clear X_)))
    | (extract_lets +onlyGivenNames X_; refine Does.cutOf (Prod.fst (α := State)) X_ ?_ ?_; (on_goal 2 => (intro _; clear_value X_)); (on_goal 1 => (dsimp -zeta only [X_]; clear X_)))
    | extract_lets +onlyGivenNames X_
    | with_reducible apply Does.set
    | with_reducible apply State.emit_does
    | with_reducible apply State.setPort_does
    | with_reducible apply State.tryUp_does
    | with_reducible exact ok_CDP_STATUS_STATE _ (by decide)
    | with_reducible apply okField_ite
    | (with_reducible show Nat.testBit _ _ = true; decide)
    | (with_reducible show subMask _ _ = true; decide)
    | (intro _ _ _; beta_reduce)
    | with_reducible apply Does.ite
    | split
    | apply Does.ite
    | dsimp -zeta only
    | refine Does.sndOf (by assumption) ?_
    | refine Does.fstOf (by assumption) ?_

theorem execUcieLinkUp_does (p : Fin 4) (rate modules : Nat) (s : State) (τ : State) (hδ : execUcieLinkUp p rate modules s = .next τ) : Does 68723673088 s τ := by
  unfold execUcieLinkUp at hδ
  obtain rfl := Host.Outcome.next.inj hδ
  clear hδ
  repeat' first
    | with_reducible assumption
    | with_reducible exact Does.rfl' _ _
    | (extract_lets +onlyGivenNames X_; refine Does.cut X_ ?_ ?_; (on_goal 2 => (intro _; clear_value X_)); (on_goal 1 => (dsimp -zeta only [X_]; clear X_)))
    | (extract_lets +onlyGivenNames X_; refine Does.cutOf (Prod.fst (α := State)) X_ ?_ ?_; (on_goal 2 => (intro _; clear_value X_)); (on_goal 1 => (dsimp -zeta only [X_]; clear X_)))
    | extract_lets +onlyGivenNames X_
    | with_reducible apply Does.set
    | with_reducible apply State.sendHello_does
    | with_reducible apply State.setPort_does
    | with_reducible exact ok_CDP_STATUS_RATE _ (by decide)
    | with_reducible exact ok_CDP_STATUS_MODULES _ (by decide)
    | with_reducible apply okField_ite
    | (with_reducible show Nat.testBit _ _ = true; decide)
    | (with_reducible show subMask _ _ = true; decide)
    | (intro _ _ _; beta_reduce)
    | with_reducible apply Does.ite
    | split
    | apply Does.ite
    | dsimp -zeta only
    | refine Does.sndOf (by assumption) ?_
    | refine Does.fstOf (by assumption) ?_

theorem execPortHelloTimer_does (p : Fin 4) (s : State) (τ : State) (hδ : execPortHelloTimer p s = .next τ) : Does 68791306256 s τ := by
  unfold execPortHelloTimer at hδ
  obtain rfl := Host.Outcome.next.inj hδ
  clear hδ
  repeat' first
    | with_reducible assumption
    | with_reducible exact Does.rfl' _ _
    | (extract_lets +onlyGivenNames X_; refine Does.cut X_ ?_ ?_; (on_goal 2 => (intro _; clear_value X_)); (on_goal 1 => (dsimp -zeta only [X_]; clear X_)))
    | (extract_lets +onlyGivenNames X_; refine Does.cutOf (Prod.fst (α := State)) X_ ?_ ?_; (on_goal 2 => (intro _; clear_value X_)); (on_goal 1 => (dsimp -zeta only [X_]; clear X_)))
    | extract_lets +onlyGivenNames X_
    | with_reducible apply State.advance_does
    | with_reducible apply State.sendHello_does
    | with_reducible apply State.setPort_does
    | with_reducible apply okField_ite
    | (with_reducible show Nat.testBit _ _ = true; decide)
    | (with_reducible show subMask _ _ = true; decide)
    | (intro _ _ _; beta_reduce)
    | with_reducible apply Does.ite
    | split
    | apply Does.ite
    | dsimp -zeta only
    | refine Does.sndOf (by assumption) ?_
    | refine Does.fstOf (by assumption) ?_
    | (generalize ‹Option _› = w_; split)
    | (generalize ‹List _› = w_; split)

theorem execHello_does (p : Fin 4) (role edition crHdr crData _crAddw _pace : Nat) (dieId : BitVec 64) (s : State) (τ : State) (hδ : execHello p role edition crHdr crData _crAddw _pace dieId s = .next τ) : Does 69256374272 s τ := by
  unfold execHello at hδ
  obtain rfl := Host.Outcome.next.inj hδ
  clear hδ
  repeat' first
    | with_reducible assumption
    | with_reducible exact Does.rfl' _ _
    | (extract_lets +onlyGivenNames X_; refine Does.cut X_ ?_ ?_; (on_goal 2 => (intro _; clear_value X_)); (on_goal 1 => (dsimp -zeta only [X_]; clear X_)))
    | (extract_lets +onlyGivenNames X_; refine Does.cutOf (Prod.fst (α := State)) X_ ?_ ?_; (on_goal 2 => (intro _; clear_value X_)); (on_goal 1 => (dsimp -zeta only [X_]; clear X_)))
    | extract_lets +onlyGivenNames X_
    | with_reducible apply Does.set
    | with_reducible apply State.protoErr_does
    | with_reducible apply State.setPort_does
    | with_reducible apply State.tryUp_does
    | with_reducible exact ok_CDP_PEER_ID_DIE_ID _ (by decide)
    | with_reducible exact ok_CDP_CREDIT_PEER_HDR _ (by decide)
    | with_reducible exact ok_CDP_CREDIT_PEER_DATA _ (by decide)
    | with_reducible exact ok_CDP_ERR_HELLO_FAIL _ (by decide)
    | with_reducible apply okField_ite
    | (with_reducible show Nat.testBit _ _ = true; decide)
    | (with_reducible show subMask _ _ = true; decide)
    | (intro _ _ _; beta_reduce)
    | with_reducible apply Does.ite
    | split
    | apply Does.ite
    | dsimp -zeta only
    | refine Does.sndOf (by assumption) ?_
    | refine Does.fstOf (by assumption) ?_

theorem State.orphan_does {μ : Nat} {σ : State} (s : State) (p n : Nat) (hμ : subMask 25272148586484 μ = true) (hδ : Does μ σ s) :
    Does μ σ (State.orphan s p n) := by
  refine Does.after (a := 25272148586484) ?_ hμ hδ
  clear hδ hμ
  unfold State.orphan
  try dsimp -zeta only [State.fold_led]
  repeat' first
    | with_reducible assumption
    | with_reducible exact Does.rfl' _ _
    | (extract_lets +onlyGivenNames X_; refine Does.cut X_ ?_ ?_; (on_goal 2 => (intro _; clear_value X_)); (on_goal 1 => (dsimp -zeta only [X_]; clear X_)))
    | (extract_lets +onlyGivenNames X_; refine Does.cutOf (Prod.fst (α := State)) X_ ?_ ?_; (on_goal 2 => (intro _; clear_value X_)); (on_goal 1 => (dsimp -zeta only [X_]; clear X_)))
    | extract_lets +onlyGivenNames X_
    | with_reducible apply State.doneSeq_does
    | with_reducible apply State.dropSk_does
    | with_reducible apply State.give_does
    | with_reducible apply State.haltStr_does
    | with_reducible apply State.setStr_does
    | with_reducible apply Does.forEach
    | with_reducible apply okField_ite
    | (with_reducible show Nat.testBit _ _ = true; decide)
    | (with_reducible show subMask _ _ = true; decide)
    | (intro _ _ _; beta_reduce)
    | with_reducible apply Does.ite
    | split
    | with_reducible apply Does.upd_led
    | apply Does.ite
    | dsimp -zeta only
    | refine Does.sndOf (by assumption) ?_
    | refine Does.fstOf (by assumption) ?_
    | (generalize ‹Option _› = w_; split)
    | (generalize ‹List _› = w_; split)

theorem State.reclaim_does {μ : Nat} {σ : State} (s : State) (p : Nat) (hμ : subMask 34359738368 μ = true) (hδ : Does μ σ s) :
    Does μ σ (State.reclaim s p) := by
  refine Does.after (a := 34359738368) ?_ hμ hδ
  clear hδ hμ
  unfold State.reclaim
  repeat' first
    | with_reducible assumption
    | with_reducible exact Does.rfl' _ _
    | (extract_lets +onlyGivenNames X_; refine Does.cut X_ ?_ ?_; (on_goal 2 => (intro _; clear_value X_)); (on_goal 1 => (dsimp -zeta only [X_]; clear X_)))
    | (extract_lets +onlyGivenNames X_; refine Does.cutOf (Prod.fst (α := State)) X_ ?_ ?_; (on_goal 2 => (intro _; clear_value X_)); (on_goal 1 => (dsimp -zeta only [X_]; clear X_)))
    | extract_lets +onlyGivenNames X_
    | with_reducible apply State.give_does
    | with_reducible apply Does.forEach
    | with_reducible apply Does.foldl
    | with_reducible apply Does.foldlFst
    | with_reducible apply okField_ite
    | (with_reducible show Nat.testBit _ _ = true; decide)
    | (with_reducible show subMask _ _ = true; decide)
    | (intro _ _ _; beta_reduce)
    | with_reducible apply Does.ite
    | split
    | apply Does.ite
    | dsimp -zeta only
    | refine Does.sndOf (by assumption) ?_
    | refine Does.fstOf (by assumption) ?_

theorem State.startTraining_does {μ : Nat} {σ : State} (s : State) (p : Nat) (hμ : subMask 68719476736 μ = true) (hδ : Does μ σ s) :
    Does μ σ (State.startTraining s p) := by
  refine Does.after (a := 68719476736) ?_ hμ hδ
  clear hδ hμ
  unfold State.startTraining
  repeat' first
    | with_reducible assumption
    | with_reducible exact Does.rfl' _ _
    | (extract_lets +onlyGivenNames X_; refine Does.cut X_ ?_ ?_; (on_goal 2 => (intro _; clear_value X_)); (on_goal 1 => (dsimp -zeta only [X_]; clear X_)))
    | (extract_lets +onlyGivenNames X_; refine Does.cutOf (Prod.fst (α := State)) X_ ?_ ?_; (on_goal 2 => (intro _; clear_value X_)); (on_goal 1 => (dsimp -zeta only [X_]; clear X_)))
    | extract_lets +onlyGivenNames X_
    | with_reducible apply State.setPort_does
    | with_reducible apply okField_ite
    | (with_reducible show Nat.testBit _ _ = true; decide)
    | (with_reducible show subMask _ _ = true; decide)
    | (intro _ _ _; beta_reduce)
    | with_reducible apply Does.ite
    | split
    | apply Does.ite
    | dsimp -zeta only
    | refine Does.sndOf (by assumption) ?_
    | refine Does.fstOf (by assumption) ?_

theorem State.portReset_does {μ : Nat} {σ : State} (s : State) (p cause : Nat) (hμ : subMask 34068241608692 μ = true) (hδ : Does μ σ s) :
    Does μ σ (State.portReset s p cause) := by
  refine Does.after (a := 34068241608692) ?_ hμ hδ
  clear hδ hμ
  unfold State.portReset
  try dsimp -zeta only [State.fold_upd]
  repeat' first
    | with_reducible assumption
    | with_reducible exact Does.rfl' _ _
    | (extract_lets +onlyGivenNames X_; refine Does.cut X_ ?_ ?_; (on_goal 2 => (intro _; clear_value X_)); (on_goal 1 => (dsimp -zeta only [X_]; clear X_)))
    | (extract_lets +onlyGivenNames X_; refine Does.cutOf (Prod.fst (α := State)) X_ ?_ ?_; (on_goal 2 => (intro _; clear_value X_)); (on_goal 1 => (dsimp -zeta only [X_]; clear X_)))
    | extract_lets +onlyGivenNames X_
    | with_reducible apply Does.set
    | with_reducible apply Does.bump
    | with_reducible apply State.closeStopped_does
    | with_reducible apply State.emit_does
    | with_reducible apply State.orphan_does
    | with_reducible apply State.reclaim_does
    | with_reducible apply State.setPort_does
    | with_reducible apply State.startTraining_does
    | with_reducible apply Does.forEach
    | with_reducible exact ok_CDP_STATUS_STATE _ (by decide)
    | with_reducible exact ok_CDP_STATUS_EDITION _ (by decide)
    | with_reducible exact ok_CDP_CREDIT_PEER_HDR _ (by decide)
    | with_reducible exact ok_CDP_CREDIT_PEER_DATA _ (by decide)
    | with_reducible exact ok_CDP_RESET_LOG_AT _ (by decide)
    | with_reducible exact ok_CDP_RESET_LOG_COUNT _ (by decide)
    | with_reducible exact ok_CDP_RESET_LOG_CAUSE _ (by decide)
    | with_reducible exact ok_CDP_RESET_LOG_ORPHANED _ (by decide)
    | with_reducible apply okField_ite
    | (with_reducible show Nat.testBit _ _ = true; decide)
    | (with_reducible show subMask _ _ = true; decide)
    | (intro _ _ _; beta_reduce)
    | with_reducible apply Does.ite
    | split
    | with_reducible apply Does.upd_upd
    | apply Does.ite
    | dsimp -zeta only
    | refine Does.sndOf (by assumption) ?_
    | refine Does.fstOf (by assumption) ?_

theorem execLinkControlReset_does (p : Fin 4) (s : State) (τ : State) (hδ : execLinkControlReset p s = .next τ) : Does 34068241608692 s τ := by
  unfold execLinkControlReset at hδ
  obtain rfl := Host.Outcome.next.inj hδ
  clear hδ
  repeat' first
    | with_reducible assumption
    | with_reducible exact Does.rfl' _ _
    | (extract_lets +onlyGivenNames X_; refine Does.cut X_ ?_ ?_; (on_goal 2 => (intro _; clear_value X_)); (on_goal 1 => (dsimp -zeta only [X_]; clear X_)))
    | (extract_lets +onlyGivenNames X_; refine Does.cutOf (Prod.fst (α := State)) X_ ?_ ?_; (on_goal 2 => (intro _; clear_value X_)); (on_goal 1 => (dsimp -zeta only [X_]; clear X_)))
    | extract_lets +onlyGivenNames X_
    | with_reducible apply State.portReset_does
    | with_reducible apply okField_ite
    | (with_reducible show Nat.testBit _ _ = true; decide)
    | (with_reducible show subMask _ _ = true; decide)
    | (intro _ _ _; beta_reduce)
    | with_reducible apply Does.ite
    | split
    | apply Does.ite
    | dsimp -zeta only
    | refine Does.sndOf (by assumption) ?_
    | refine Does.fstOf (by assumption) ?_

theorem execUcieLinkDown_does (p : Fin 4) (s : State) (τ : State) (hδ : execUcieLinkDown p s = .next τ) : Does 34068241608692 s τ := by
  unfold execUcieLinkDown at hδ
  obtain rfl := Host.Outcome.next.inj hδ
  clear hδ
  repeat' first
    | with_reducible assumption
    | with_reducible exact Does.rfl' _ _
    | (extract_lets +onlyGivenNames X_; refine Does.cut X_ ?_ ?_; (on_goal 2 => (intro _; clear_value X_)); (on_goal 1 => (dsimp -zeta only [X_]; clear X_)))
    | (extract_lets +onlyGivenNames X_; refine Does.cutOf (Prod.fst (α := State)) X_ ?_ ?_; (on_goal 2 => (intro _; clear_value X_)); (on_goal 1 => (dsimp -zeta only [X_]; clear X_)))
    | extract_lets +onlyGivenNames X_
    | with_reducible apply Does.set
    | with_reducible apply State.portReset_does
    | with_reducible exact ok_CDP_STATUS_RATE _ (by decide)
    | with_reducible exact ok_CDP_STATUS_MODULES _ (by decide)
    | with_reducible apply okField_ite
    | (with_reducible show Nat.testBit _ _ = true; decide)
    | (with_reducible show subMask _ _ = true; decide)
    | (intro _ _ _; beta_reduce)
    | with_reducible apply Does.ite
    | split
    | apply Does.ite
    | dsimp -zeta only
    | refine Does.sndOf (by assumption) ?_
    | refine Does.fstOf (by assumption) ?_

theorem State.writeCdpCtrl_does {μ : Nat} {σ : State} (s : State) (p : Nat) (w : Wr) (hf : Nat.testBit μ (blockOf (0x500018 + 0x1000 * p)) = true) (hμ : subMask 34068241608692 μ = true) (hδ : Does μ σ s) :
    Does μ σ (State.writeCdpCtrl s p w) := by
  unfold State.writeCdpCtrl
  repeat' first
    | (extract_lets +onlyGivenNames X_; refine Does.cut X_ ?_ ?_; (on_goal 2 => (intro _; clear_value X_)); (on_goal 1 => (dsimp -zeta only [X_]; clear X_)))
    | (extract_lets +onlyGivenNames X_; refine Does.cutOf (Prod.fst (α := State)) X_ ?_ ?_; (on_goal 2 => (intro _; clear_value X_)); (on_goal 1 => (dsimp -zeta only [X_]; clear X_)))
    | extract_lets +onlyGivenNames X_
    | with_reducible assumption
    | with_reducible exact Does.rfl' _ _
    | with_reducible apply Does.set
    | with_reducible apply State.badArg_does
    | with_reducible refine State.startTraining_does _ _ (subMask_trans (by decide) hμ) ?_
    | with_reducible apply State.portReset_does
    | with_reducible apply State.regWrite_does
    | with_reducible apply State.setPort_does
    | with_reducible exact okField_mono (ok_CDP_CTRL_PACE_CREDITS _ (by decide)) hμ
    | with_reducible exact okField_mono (ok_CDP_STATUS_MODULES _ (by decide)) hμ
    | with_reducible exact okField_mono (ok_CDP_STATUS_RATE _ (by decide)) hμ
    | with_reducible exact okField_mono (ok_CDP_STATUS_STATE _ (by decide)) hμ
    | with_reducible apply okField_ite
    | exact testBit_all _ (by decide)
    | with_reducible exact testBit_mono (by decide) hμ
    | with_reducible exact subMask_trans (by decide) hμ
    | (intro _ _ _; beta_reduce)
    | with_reducible apply Does.ite
    | split
    | apply Does.ite
    | with_reducible exact hf _
    | with_reducible exact hf

theorem execCdpReset_does (m : Master) (p : Fin 4) (v : BitVec 64) (s : State) (τ : State) (hδ : execCdpReset m p v s = .next τ) : Does 34068241608692 s τ := by
  unfold execCdpReset at hδ
  obtain rfl := Host.Outcome.next.inj hδ
  clear hδ
  repeat' first
    | (extract_lets +onlyGivenNames X_; refine Does.cut X_ ?_ ?_; (on_goal 2 => (intro _; clear_value X_)); (on_goal 1 => (dsimp -zeta only [X_]; clear X_)))
    | (extract_lets +onlyGivenNames X_; refine Does.cutOf (Prod.fst (α := State)) X_ ?_ ?_; (on_goal 2 => (intro _; clear_value X_)); (on_goal 1 => (dsimp -zeta only [X_]; clear X_)))
    | extract_lets +onlyGivenNames X_
    | with_reducible assumption
    | with_reducible exact Does.rfl' _ _
    | with_reducible apply State.writeCdpCtrl_does
    | with_reducible apply okField_ite
    | (refine testBit_between (a := 5242880) (b := 5259264) (k := 11) ?_ ?_ (by decide) (by decide) (by decide) <;> omega)
    | (with_reducible show Nat.testBit _ _ = true; decide)
    | (with_reducible show subMask _ _ = true; decide)
    | (intro _ _ _; beta_reduce)
    | with_reducible apply Does.ite
    | split

theorem execCdpEnable_does (m : Master) (p : Fin 4) (v : BitVec 64) (s : State) (τ : State) (hδ : execCdpEnable m p v s = .next τ) : Does 34068241608692 s τ := by
  unfold execCdpEnable at hδ
  obtain rfl := Host.Outcome.next.inj hδ
  clear hδ
  repeat' first
    | (extract_lets +onlyGivenNames X_; refine Does.cut X_ ?_ ?_; (on_goal 2 => (intro _; clear_value X_)); (on_goal 1 => (dsimp -zeta only [X_]; clear X_)))
    | (extract_lets +onlyGivenNames X_; refine Does.cutOf (Prod.fst (α := State)) X_ ?_ ?_; (on_goal 2 => (intro _; clear_value X_)); (on_goal 1 => (dsimp -zeta only [X_]; clear X_)))
    | extract_lets +onlyGivenNames X_
    | with_reducible assumption
    | with_reducible exact Does.rfl' _ _
    | with_reducible apply State.writeCdpCtrl_does
    | with_reducible apply okField_ite
    | (refine testBit_between (a := 5242880) (b := 5259264) (k := 11) ?_ ?_ (by decide) (by decide) (by decide) <;> omega)
    | (with_reducible show Nat.testBit _ _ = true; decide)
    | (with_reducible show subMask _ _ = true; decide)
    | (intro _ _ _; beta_reduce)
    | with_reducible apply Does.ite
    | split

theorem State.showModmap_does {μ : Nat} {σ : State} (s : State) (p : Nat) (hμ : subMask 2048 μ = true) (hδ : Does μ σ s) :
    Does μ σ (State.showModmap s p) := by
  refine Does.after (a := 2048) ?_ hμ hδ
  clear hδ hμ
  unfold State.showModmap
  repeat' first
    | with_reducible assumption
    | with_reducible exact Does.rfl' _ _
    | (extract_lets +onlyGivenNames X_; refine Does.cut X_ ?_ ?_; (on_goal 2 => (intro _; clear_value X_)); (on_goal 1 => (dsimp -zeta only [X_]; clear X_)))
    | (extract_lets +onlyGivenNames X_; refine Does.cutOf (Prod.fst (α := State)) X_ ?_ ?_; (on_goal 2 => (intro _; clear_value X_)); (on_goal 1 => (dsimp -zeta only [X_]; clear X_)))
    | extract_lets +onlyGivenNames X_
    | with_reducible apply Does.set
    | with_reducible apply Does.foldl
    | with_reducible apply Does.foldlFst
    | with_reducible exact ok_CDP_MODMAP_FAILED _ (by decide)
    | with_reducible exact ok_CDP_MODMAP_PHYS _ (by decide)
    | with_reducible exact ok_unitStateF _ (by decide) (by decide) (by decide)
    | with_reducible exact ok_unitLogicalF _ (by decide) (by decide) (by decide)
    | with_reducible apply okField_ite
    | (with_reducible show Nat.testBit _ _ = true; decide)
    | (with_reducible show subMask _ _ = true; decide)
    | (intro _ _ _; beta_reduce)
    | with_reducible apply Does.ite
    | split
    | apply Does.ite
    | dsimp -zeta only
    | refine Does.sndOf (by assumption) ?_
    | refine Does.fstOf (by assumption) ?_
    | (generalize ‹Option _› = w_; split)
    | (generalize ‹List _› = w_; split)

theorem State.moduleFault_does {μ : Nat} {σ : State} (s : State) (p k : Nat) (hμ : subMask 34068241608692 μ = true) (hδ : Does μ σ s) :
    Does μ σ (State.moduleFault s p k) := by
  refine Does.after (a := 34068241608692) ?_ hμ hδ
  clear hδ hμ
  unfold State.moduleFault
  repeat' first
    | with_reducible assumption
    | with_reducible exact Does.rfl' _ _
    | (extract_lets +onlyGivenNames X_; refine Does.cut X_ ?_ ?_; (on_goal 2 => (intro _; clear_value X_)); (on_goal 1 => (dsimp -zeta only [X_]; clear X_)))
    | (extract_lets +onlyGivenNames X_; refine Does.cutOf (Prod.fst (α := State)) X_ ?_ ?_; (on_goal 2 => (intro _; clear_value X_)); (on_goal 1 => (dsimp -zeta only [X_]; clear X_)))
    | extract_lets +onlyGivenNames X_
    | with_reducible apply Does.set
    | with_reducible apply State.emit_does
    | with_reducible apply State.portReset_does
    | with_reducible apply State.setPort_does
    | with_reducible apply State.showModmap_does
    | with_reducible apply State.unitFault_does
    | with_reducible exact ok_CDP_ERR_MODULE_SPARED _ (by decide)
    | with_reducible exact ok_CDP_STATUS_STATE _ (by decide)
    | with_reducible exact ok_CDP_STATUS_EDITION _ (by decide)
    | with_reducible exact ok_CDP_STATUS_MODULES _ (by decide)
    | with_reducible apply okField_ite
    | (with_reducible show Nat.testBit _ _ = true; decide)
    | (with_reducible show subMask _ _ = true; decide)
    | (intro _ _ _; beta_reduce)
    | with_reducible apply Does.ite
    | split
    | apply Does.ite
    | dsimp -zeta only
    | refine Does.sndOf (by assumption) ?_
    | refine Does.fstOf (by assumption) ?_

theorem execModuleFail_does (p : Fin 4) (k : Fin 9) (s : State) (τ : State) (hδ : execModuleFail p k s = .next τ) : Does 34068241608692 s τ := by
  unfold execModuleFail at hδ
  obtain rfl := Host.Outcome.next.inj hδ
  clear hδ
  repeat' first
    | with_reducible assumption
    | with_reducible exact Does.rfl' _ _
    | (extract_lets +onlyGivenNames X_; refine Does.cut X_ ?_ ?_; (on_goal 2 => (intro _; clear_value X_)); (on_goal 1 => (dsimp -zeta only [X_]; clear X_)))
    | (extract_lets +onlyGivenNames X_; refine Does.cutOf (Prod.fst (α := State)) X_ ?_ ?_; (on_goal 2 => (intro _; clear_value X_)); (on_goal 1 => (dsimp -zeta only [X_]; clear X_)))
    | extract_lets +onlyGivenNames X_
    | with_reducible apply State.moduleFault_does
    | with_reducible apply okField_ite
    | (with_reducible show Nat.testBit _ _ = true; decide)
    | (with_reducible show subMask _ _ = true; decide)
    | (intro _ _ _; beta_reduce)
    | with_reducible apply Does.ite
    | split
    | apply Does.ite
    | dsimp -zeta only
    | refine Does.sndOf (by assumption) ?_
    | refine Does.fstOf (by assumption) ?_

theorem State.settleOwed_does {μ : Nat} {σ : State} (s : State) (p : Nat) (hμ : subMask 52622508714480 μ = true) (hδ : Does μ σ s) :
    Does μ σ (State.settleOwed s p) := by
  refine Does.after (a := 52622508714480) ?_ hμ hδ
  clear hδ hμ
  unfold State.settleOwed
  repeat' first
    | with_reducible assumption
    | with_reducible exact Does.rfl' _ _
    | (extract_lets +onlyGivenNames X_; refine Does.cut X_ ?_ ?_; (on_goal 2 => (intro _; clear_value X_)); (on_goal 1 => (dsimp -zeta only [X_]; clear X_)))
    | (extract_lets +onlyGivenNames X_; refine Does.cutOf (Prod.fst (α := State)) X_ ?_ ?_; (on_goal 2 => (intro _; clear_value X_)); (on_goal 1 => (dsimp -zeta only [X_]; clear X_)))
    | extract_lets +onlyGivenNames X_
    | with_reducible apply State.returnCr_does
    | with_reducible apply State.sendPcreds_does
    | with_reducible apply State.serveDue_does
    | with_reducible apply State.setPort_does
    | with_reducible apply okField_ite
    | (with_reducible show Nat.testBit _ _ = true; decide)
    | (with_reducible show subMask _ _ = true; decide)
    | (intro _ _ _; beta_reduce)
    | with_reducible apply Does.ite
    | split
    | apply Does.ite
    | dsimp -zeta only
    | refine Does.sndOf (by assumption) ?_
    | refine Does.fstOf (by assumption) ?_

theorem execModuleRetrainDone_does (p : Fin 4) (s : State) (τ : State) (hδ : execModuleRetrainDone p s = .next τ) : Does 70214694758896 s τ := by
  unfold execModuleRetrainDone at hδ
  obtain rfl := Host.Outcome.next.inj hδ
  clear hδ
  repeat' first
    | with_reducible assumption
    | with_reducible exact Does.rfl' _ _
    | (extract_lets +onlyGivenNames X_; refine Does.cut X_ ?_ ?_; (on_goal 2 => (intro _; clear_value X_)); (on_goal 1 => (dsimp -zeta only [X_]; clear X_)))
    | (extract_lets +onlyGivenNames X_; refine Does.cutOf (Prod.fst (α := State)) X_ ?_ ?_; (on_goal 2 => (intro _; clear_value X_)); (on_goal 1 => (dsimp -zeta only [X_]; clear X_)))
    | extract_lets +onlyGivenNames X_
    | with_reducible apply Does.set
    | with_reducible apply State.closeStopped_does
    | with_reducible apply State.sendHello_does
    | with_reducible apply State.setPort_does
    | with_reducible apply State.settleOwed_does
    | with_reducible exact ok_CDP_STATUS_STATE _ (by decide)
    | with_reducible exact ok_CDP_STATUS_EDITION _ (by decide)
    | with_reducible apply okField_ite
    | (with_reducible show Nat.testBit _ _ = true; decide)
    | (with_reducible show subMask _ _ = true; decide)
    | (intro _ _ _; beta_reduce)
    | with_reducible apply Does.ite
    | split
    | apply Does.ite
    | dsimp -zeta only
    | refine Does.sndOf (by assumption) ?_
    | refine Does.fstOf (by assumption) ?_

theorem State.restartStr_does {μ : Nat} {σ : State} (s : State) (n : Nat) (hμ : subMask 858997653504 μ = true) (hδ : Does μ σ s) :
    Does μ σ (State.restartStr s n) := by
  refine Does.after (a := 858997653504) ?_ hμ hδ
  clear hδ hμ
  unfold State.restartStr
  repeat' first
    | with_reducible assumption
    | with_reducible exact Does.rfl' _ _
    | (extract_lets +onlyGivenNames X_; refine Does.cut X_ ?_ ?_; (on_goal 2 => (intro _; clear_value X_)); (on_goal 1 => (dsimp -zeta only [X_]; clear X_)))
    | (extract_lets +onlyGivenNames X_; refine Does.cutOf (Prod.fst (α := State)) X_ ?_ ?_; (on_goal 2 => (intro _; clear_value X_)); (on_goal 1 => (dsimp -zeta only [X_]; clear X_)))
    | extract_lets +onlyGivenNames X_
    | with_reducible apply State.askMore_does
    | with_reducible apply State.give_does
    | with_reducible apply State.setStr_does
    | with_reducible apply Does.forEach
    | with_reducible apply okField_ite
    | (with_reducible show Nat.testBit _ _ = true; decide)
    | (with_reducible show subMask _ _ = true; decide)
    | (intro _ _ _; beta_reduce)
    | with_reducible apply Does.ite
    | split
    | apply Does.ite
    | dsimp -zeta only
    | refine Does.sndOf (by assumption) ?_
    | refine Does.fstOf (by assumption) ?_
    | (generalize ‹Option _› = w_; split)
    | (generalize ‹List _› = w_; split)

theorem State.moverFault_does {μ : Nat} {σ : State} (s : State) (u : Nat) (hμ : subMask 1014170150420 μ = true) (hδ : Does μ σ s) :
    Does μ σ (State.moverFault s u) := by
  refine Does.after (a := 1014170150420) ?_ hμ hδ
  clear hδ hμ
  unfold State.moverFault
  repeat' first
    | with_reducible assumption
    | with_reducible exact Does.rfl' _ _
    | (extract_lets +onlyGivenNames X_; refine Does.cut X_ ?_ ?_; (on_goal 2 => (intro _; clear_value X_)); (on_goal 1 => (dsimp -zeta only [X_]; clear X_)))
    | (extract_lets +onlyGivenNames X_; refine Does.cutOf (Prod.fst (α := State)) X_ ?_ ?_; (on_goal 2 => (intro _; clear_value X_)); (on_goal 1 => (dsimp -zeta only [X_]; clear X_)))
    | extract_lets +onlyGivenNames X_
    | with_reducible apply State.restartStr_does
    | with_reducible apply State.unitFault_does
    | with_reducible apply Does.forEach
    | with_reducible exact ok_unitLogicalF _ (by decide) (by decide) (by decide)
    | with_reducible apply okField_ite
    | (with_reducible show Nat.testBit _ _ = true; decide)
    | (with_reducible show subMask _ _ = true; decide)
    | (intro _ _ _; beta_reduce)
    | with_reducible apply Does.ite
    | split
    | apply Does.ite
    | dsimp -zeta only
    | refine Does.sndOf (by assumption) ?_
    | refine Does.fstOf (by assumption) ?_

theorem execUnitFault_does (u : BitVec 16) (s : State) (τ : State) (hδ : execUnitFault u s = .next τ) : Does 34068241612788 s τ := by
  unfold execUnitFault at hδ
  obtain rfl := Host.Outcome.next.inj hδ
  clear hδ
  repeat' first
    | with_reducible assumption
    | with_reducible exact Does.rfl' _ _
    | (extract_lets +onlyGivenNames X_; refine Does.cut X_ ?_ ?_; (on_goal 2 => (intro _; clear_value X_)); (on_goal 1 => (dsimp -zeta only [X_]; clear X_)))
    | (extract_lets +onlyGivenNames X_; refine Does.cutOf (Prod.fst (α := State)) X_ ?_ ?_; (on_goal 2 => (intro _; clear_value X_)); (on_goal 1 => (dsimp -zeta only [X_]; clear X_)))
    | extract_lets +onlyGivenNames X_
    | with_reducible apply State.coreFault_does
    | with_reducible apply State.loseChannel_does
    | with_reducible apply State.moduleFault_does
    | with_reducible apply State.moverFault_does
    | with_reducible apply State.unitFault_does
    | with_reducible apply okField_ite
    | (with_reducible show Nat.testBit _ _ = true; decide)
    | (with_reducible show subMask _ _ = true; decide)
    | (intro _ _ _; beta_reduce)
    | with_reducible apply Does.ite
    | split
    | apply Does.ite
    | dsimp -zeta only
    | refine Does.sndOf (by assumption) ?_
    | refine Does.fstOf (by assumption) ?_

end Sys2Proof.Machine
end

