-- ==== Sys2Proof/Laws/FChartOps.lean ====
section
/-! SUPPORT. Laws/FChartOps.lean: what every operation of Machine/ChartOps.lean leaves alone (see Laws/Frame.lean). -/

set_option linter.unreachableTactic false
set_option linter.unusedTactic false
set_option linter.tactic.unusedName false

namespace Sys2Proof.Machine

theorem State.takeCommit_does {μ : Nat} {σ : State} (s : State) (p : PendCommit → Bool) (hμ : subMask 1073741824 μ = true) (hδ : Does μ σ s) :
    Does μ σ (State.takeCommit s p) := by
  refine Does.after (a := 1073741824) ?_ hμ hδ
  clear hδ hμ
  unfold State.takeCommit
  try dsimp -zeta only [State.fold_chart]
  repeat' first
    | with_reducible assumption
    | with_reducible exact Does.rfl' _ _
    | (extract_lets +onlyGivenNames X_; refine Does.cut X_ ?_ ?_; (on_goal 2 => (intro _; clear_value X_)); (on_goal 1 => (dsimp -zeta only [X_]; clear X_)))
    | (extract_lets +onlyGivenNames X_; refine Does.cutOf (Prod.fst (α := State)) X_ ?_ ?_; (on_goal 2 => (intro _; clear_value X_)); (on_goal 1 => (dsimp -zeta only [X_]; clear X_)))
    | extract_lets +onlyGivenNames X_
    | with_reducible apply okField_ite
    | (with_reducible show Nat.testBit _ _ = true; decide)
    | (with_reducible show subMask _ _ = true; decide)
    | (intro _ _ _; beta_reduce)
    | with_reducible apply Does.ite
    | split
    | with_reducible apply Does.upd_chart
    | apply Does.ite
    | dsimp -zeta only
    | refine Does.sndOf (by assumption) ?_
    | refine Does.fstOf (by assumption) ?_

theorem State.loadImage_does {m : Nat} {s₀ : State} (s : State) (n : Nat) (b : List Byte) (hm : subMask 32 m = true) (h : Does m s₀ s) :
    Does m s₀ (s.loadImage n b) := by
  refine Does.after (a := 32) ?_ hm h
  unfold State.loadImage
  refine Does.set _ _ _ (ok_STREAM_RUN_STATE _ (by decide)) (Does.forEach _ _ (Does.rfl' _ _) ?_)
  intro v k hv
  dsimp only
  have hb : blockOf (0x100000 + 64 * (n % 16384) + 8 * (k % 8)) = 5 :=
    blockOf_between (a := 0x100000) (b := 0x1FFFFF) (by omega) (by omega) (by decide) (by decide)
  split
  · exact hv
  · rename_i r hr
    have hl : ∀ (l : List FldRow), (∀ f ∈ l, f ∈ r.fields) → ∀ v : State, Does 32 s v → Does 32 s (l.foldl (fun (s : State) f =>
        s.set ⟨0x100000 + 64 * (n % 16384) + 8 * (k % 8), f.lo, f.w⟩ (bitsOf (fieldLe b (8 * k) 8) f.lo f.w)) v) := by
      intro l
      induction l with
      | nil => intro _ v hv; exact hv
      | cons f t ih =>
        intro hs v hv
        exact ih (fun g hg => hs g (List.mem_cons_of_mem _ hg)) _
          (Does.set _ _ _ (ok_far 5 ((Fld.blk_eq _ _ _ (findReg_lo hr f (hs f (List.mem_cons_self ..)))).trans hb) rfl (by decide)) hv)
    exact hl r.fields (fun _ hf => hf) v hv

theorem State.clearContexts_does {μ : Nat} {σ : State} (s : State) (c : Chart) (hμ : subMask 549755813920 μ = true) (hδ : Does μ σ s) :
    Does μ σ (State.clearContexts s c) := by
  refine Does.after (a := 549755813920) ?_ hμ hδ
  clear hδ hμ
  unfold State.clearContexts
  repeat' first
    | with_reducible assumption
    | with_reducible exact Does.rfl' _ _
    | (extract_lets +onlyGivenNames X_; refine Does.cut X_ ?_ ?_; (on_goal 2 => (intro _; clear_value X_)); (on_goal 1 => (dsimp -zeta only [X_]; clear X_)))
    | (extract_lets +onlyGivenNames X_; refine Does.cutOf (Prod.fst (α := State)) X_ ?_ ?_; (on_goal 2 => (intro _; clear_value X_)); (on_goal 1 => (dsimp -zeta only [X_]; clear X_)))
    | extract_lets +onlyGivenNames X_
    | with_reducible apply State.loadImage_does
    | with_reducible apply State.setStr_does
    | with_reducible apply Does.forEach
    | with_reducible apply okField_ite
    | (with_reducible show Nat.testBit _ _ = true; decide)
    | (with_reducible show subMask _ _ = true; decide)
    | (intro _ _ _; beta_reduce)
    | with_reducible apply Does.ite
    | split
    | apply Does.ite
    | dsimp -zeta only
    | refine Does.sndOf (by assumption) ?_
    | refine Does.fstOf (by assumption) ?_

theorem State.pokeOA_does {μ : Nat} {σ : State} (s : State) (oa : Nat) (l : List Byte) (hμ : subMask 51542761472 μ = true) (hδ : Does μ σ s) :
    Does μ σ (State.pokeOA s oa l) := by
  refine Does.after (a := 51542761472) ?_ hμ hδ
  clear hδ hμ
  unfold State.pokeOA
  repeat' first
    | with_reducible assumption
    | with_reducible exact Does.rfl' _ _
    | (extract_lets +onlyGivenNames X_; refine Does.cut X_ ?_ ?_; (on_goal 2 => (intro _; clear_value X_)); (on_goal 1 => (dsimp -zeta only [X_]; clear X_)))
    | (extract_lets +onlyGivenNames X_; refine Does.cutOf (Prod.fst (α := State)) X_ ?_ ?_; (on_goal 2 => (intro _; clear_value X_)); (on_goal 1 => (dsimp -zeta only [X_]; clear X_)))
    | extract_lets +onlyGivenNames X_
    | with_reducible apply State.writeMem_does
    | with_reducible apply Does.foldl
    | with_reducible apply Does.foldlFst
    | with_reducible apply okField_ite
    | (with_reducible show Nat.testBit _ _ = true; decide)
    | (with_reducible show subMask _ _ = true; decide)
    | (intro _ _ _; beta_reduce)
    | with_reducible apply Does.ite
    | split
    | apply Does.ite
    | dsimp -zeta only
    | refine Does.sndOf (by assumption) ?_
    | refine Does.fstOf (by assumption) ?_
    | (generalize ‹Option _› = w_; split)
    | (generalize ‹List _› = w_; split)

theorem State.dropSwatches_does {μ : Nat} {σ : State} (s : State) (hμ : subMask 2684379152 μ = true) (hδ : Does μ σ s) :
    Does μ σ (State.dropSwatches s) := by
  refine Does.after (a := 2684379152) ?_ hμ hδ
  clear hδ hμ
  unfold State.dropSwatches
  try dsimp -zeta only [State.fold_step]
  repeat' first
    | with_reducible assumption
    | with_reducible exact Does.rfl' _ _
    | (extract_lets +onlyGivenNames X_; refine Does.cut X_ ?_ ?_; (on_goal 2 => (intro _; clear_value X_)); (on_goal 1 => (dsimp -zeta only [X_]; clear X_)))
    | (extract_lets +onlyGivenNames X_; refine Does.cutOf (Prod.fst (α := State)) X_ ?_ ?_; (on_goal 2 => (intro _; clear_value X_)); (on_goal 1 => (dsimp -zeta only [X_]; clear X_)))
    | extract_lets +onlyGivenNames X_
    | with_reducible apply Does.set
    | with_reducible apply State.logEv_does
    | with_reducible exact ok_STEP_SWATCH_PENDING (by decide)
    | with_reducible exact ok_STEP_SWATCH_STATUS (by decide)
    | with_reducible apply okField_ite
    | (with_reducible show Nat.testBit _ _ = true; decide)
    | (with_reducible show subMask _ _ = true; decide)
    | (intro _ _ _; beta_reduce)
    | with_reducible apply Does.ite
    | split
    | with_reducible apply Does.upd_step
    | ((with_reducible show StepSt.prevPhase _ = StepSt.prevPhase _); rfl)
    | apply Does.ite
    | dsimp -zeta only
    | refine Does.sndOf (by assumption) ?_
    | refine Does.fstOf (by assumption) ?_

theorem State.dropVariants_does {μ : Nat} {σ : State} (s : State) (hμ : subMask 1073741832 μ = true) (hδ : Does μ σ s) :
    Does μ σ (State.dropVariants s) := by
  refine Does.after (a := 1073741832) ?_ hμ hδ
  clear hδ hμ
  unfold State.dropVariants
  try dsimp -zeta only [State.fold_chart]
  repeat' first
    | with_reducible assumption
    | with_reducible exact Does.rfl' _ _
    | (extract_lets +onlyGivenNames X_; refine Does.cut X_ ?_ ?_; (on_goal 2 => (intro _; clear_value X_)); (on_goal 1 => (dsimp -zeta only [X_]; clear X_)))
    | (extract_lets +onlyGivenNames X_; refine Does.cutOf (Prod.fst (α := State)) X_ ?_ ?_; (on_goal 2 => (intro _; clear_value X_)); (on_goal 1 => (dsimp -zeta only [X_]; clear X_)))
    | extract_lets +onlyGivenNames X_
    | with_reducible apply Does.set
    | with_reducible exact ok_CHART_VARIANT_OUTCOME (by decide)
    | with_reducible apply okField_ite
    | (with_reducible show Nat.testBit _ _ = true; decide)
    | (with_reducible show subMask _ _ = true; decide)
    | (intro _ _ _; beta_reduce)
    | with_reducible apply Does.ite
    | split
    | with_reducible apply Does.upd_chart
    | apply Does.ite
    | dsimp -zeta only
    | refine Does.sndOf (by assumption) ?_
    | refine Does.fstOf (by assumption) ?_

theorem State.showActive_does {μ : Nat} {σ : State} (s : State) (hμ : subMask 8 μ = true) (hδ : Does μ σ s) :
    Does μ σ (State.showActive s) := by
  refine Does.after (a := 8) ?_ hμ hδ
  clear hδ hμ
  unfold State.showActive
  repeat' first
    | with_reducible assumption
    | with_reducible exact Does.rfl' _ _
    | (extract_lets +onlyGivenNames X_; refine Does.cut X_ ?_ ?_; (on_goal 2 => (intro _; clear_value X_)); (on_goal 1 => (dsimp -zeta only [X_]; clear X_)))
    | (extract_lets +onlyGivenNames X_; refine Does.cutOf (Prod.fst (α := State)) X_ ?_ ?_; (on_goal 2 => (intro _; clear_value X_)); (on_goal 1 => (dsimp -zeta only [X_]; clear X_)))
    | extract_lets +onlyGivenNames X_
    | with_reducible apply Does.set
    | with_reducible exact ok_CHART_ACTIVE_EPOCH (by decide)
    | with_reducible exact ok_CHART_ACTIVE_MEMBER (by decide)
    | with_reducible exact ok_CHART_ACTIVE_DEVICES (by decide)
    | with_reducible exact ok_CHART_ACTIVE_NVAR_M1 (by decide)
    | with_reducible exact ok_CHART_ACTIVE_NSWATCH (by decide)
    | with_reducible exact ok_CHART_ACTIVE_VALID (by decide)
    | with_reducible exact ok_CHART_ACTIVE_ID_CONFIG_ID (by decide)
    | with_reducible apply okField_ite
    | (with_reducible show Nat.testBit _ _ = true; decide)
    | (with_reducible show subMask _ _ = true; decide)
    | (intro _ _ _; beta_reduce)
    | with_reducible apply Does.ite
    | split
    | apply Does.ite
    | dsimp -zeta only
    | refine Does.sndOf (by assumption) ?_
    | refine Does.fstOf (by assumption) ?_
    | (generalize ‹Option _› = w_; split)
    | (generalize ‹List _› = w_; split)

theorem State.showStaged_does {μ : Nat} {σ : State} (s : State) (c : Option Chart) (hμ : subMask 8 μ = true) (hδ : Does μ σ s) :
    Does μ σ (State.showStaged s c) := by
  refine Does.after (a := 8) ?_ hμ hδ
  clear hδ hμ
  unfold State.showStaged
  repeat' first
    | with_reducible assumption
    | with_reducible exact Does.rfl' _ _
    | (extract_lets +onlyGivenNames X_; refine Does.cut X_ ?_ ?_; (on_goal 2 => (intro _; clear_value X_)); (on_goal 1 => (dsimp -zeta only [X_]; clear X_)))
    | (extract_lets +onlyGivenNames X_; refine Does.cutOf (Prod.fst (α := State)) X_ ?_ ?_; (on_goal 2 => (intro _; clear_value X_)); (on_goal 1 => (dsimp -zeta only [X_]; clear X_)))
    | extract_lets +onlyGivenNames X_
    | with_reducible apply Does.set
    | with_reducible exact ok_CHART_STAGED_EPOCH (by decide)
    | with_reducible exact ok_CHART_STAGED_MEMBER (by decide)
    | with_reducible exact ok_CHART_STAGED_DEVICES (by decide)
    | with_reducible exact ok_CHART_STAGED_NVAR_M1 (by decide)
    | with_reducible exact ok_CHART_STAGED_NSWATCH (by decide)
    | with_reducible exact ok_CHART_STAGED_VALID (by decide)
    | with_reducible exact ok_CHART_STAGED_ID_CONFIG_ID (by decide)
    | with_reducible apply okField_ite
    | (with_reducible show Nat.testBit _ _ = true; decide)
    | (with_reducible show subMask _ _ = true; decide)
    | (intro _ _ _; beta_reduce)
    | with_reducible apply Does.ite
    | split
    | apply Does.ite
    | dsimp -zeta only
    | refine Does.sndOf (by assumption) ?_
    | refine Does.fstOf (by assumption) ?_
    | (generalize ‹Option _› = w_; split)
    | (generalize ‹List _› = w_; split)

theorem State.fullRate_does {μ : Nat} {σ : State} (s : State) (hμ : subMask 256 μ = true) (hδ : Does μ σ s) :
    Does μ σ (State.fullRate s) := by
  refine Does.after (a := 256) ?_ hμ hδ
  clear hδ hμ
  unfold State.fullRate
  repeat' first
    | with_reducible assumption
    | with_reducible exact Does.rfl' _ _
    | (extract_lets +onlyGivenNames X_; refine Does.cut X_ ?_ ?_; (on_goal 2 => (intro _; clear_value X_)); (on_goal 1 => (dsimp -zeta only [X_]; clear X_)))
    | (extract_lets +onlyGivenNames X_; refine Does.cutOf (Prod.fst (α := State)) X_ ?_ ?_; (on_goal 2 => (intro _; clear_value X_)); (on_goal 1 => (dsimp -zeta only [X_]; clear X_)))
    | extract_lets +onlyGivenNames X_
    | with_reducible apply Does.set
    | with_reducible exact ok_FTL_STATUS_RATE (by decide)
    | with_reducible apply okField_ite
    | (with_reducible show Nat.testBit _ _ = true; decide)
    | (with_reducible show subMask _ _ = true; decide)
    | (intro _ _ _; beta_reduce)
    | with_reducible apply Does.ite
    | split
    | apply Does.ite
    | dsimp -zeta only
    | refine Does.sndOf (by assumption) ?_
    | refine Does.fstOf (by assumption) ?_

theorem State.dropContext_does {μ : Nat} {σ : State} (s : State) (n : Nat) (hμ : subMask 2920581957220 μ = true) (hδ : Does μ σ s) :
    Does μ σ (State.dropContext s n) := by
  refine Does.after (a := 2920581957220) ?_ hμ hδ
  clear hδ hμ
  unfold State.dropContext
  repeat' first
    | with_reducible assumption
    | with_reducible exact Does.rfl' _ _
    | (extract_lets +onlyGivenNames X_; refine Does.cut X_ ?_ ?_; (on_goal 2 => (intro _; clear_value X_)); (on_goal 1 => (dsimp -zeta only [X_]; clear X_)))
    | (extract_lets +onlyGivenNames X_; refine Does.cutOf (Prod.fst (α := State)) X_ ?_ ?_; (on_goal 2 => (intro _; clear_value X_)); (on_goal 1 => (dsimp -zeta only [X_]; clear X_)))
    | extract_lets +onlyGivenNames X_
    | with_reducible apply State.completeOn_does
    | with_reducible apply State.dropSk_does
    | with_reducible apply State.endStr_does
    | with_reducible apply State.loadImage_does
    | with_reducible apply State.setStr_does
    | with_reducible apply okField_ite
    | (with_reducible show Nat.testBit _ _ = true; decide)
    | (with_reducible show subMask _ _ = true; decide)
    | (intro _ _ _; beta_reduce)
    | with_reducible apply Does.ite
    | split
    | apply Does.ite
    | dsimp -zeta only
    | refine Does.sndOf (by assumption) ?_
    | refine Does.fstOf (by assumption) ?_

theorem State.installChart_does {μ : Nat} {σ : State} (s : State) (c : Chart) (hμ : subMask 12012494022652 μ = true) (hδ : Does μ σ s) :
    Does μ σ (State.installChart s c) := by
  refine Does.after (a := 12012494022652) ?_ hμ hδ
  clear hδ hμ
  unfold State.installChart
  try dsimp -zeta only [State.fold_chart, State.fold_step, State.fold_tier]
  repeat' first
    | with_reducible assumption
    | with_reducible exact Does.rfl' _ _
    | (extract_lets +onlyGivenNames X_; refine Does.cut X_ ?_ ?_; (on_goal 2 => (intro _; clear_value X_)); (on_goal 1 => (dsimp -zeta only [X_]; clear X_)))
    | (extract_lets +onlyGivenNames X_; refine Does.cutOf (Prod.fst (α := State)) X_ ?_ ?_; (on_goal 2 => (intro _; clear_value X_)); (on_goal 1 => (dsimp -zeta only [X_]; clear X_)))
    | extract_lets +onlyGivenNames X_
    | with_reducible apply Does.set
    | with_reducible apply State.avs_does
    | with_reducible apply State.clearContexts_does
    | with_reducible apply State.dropContext_does
    | with_reducible apply State.dropSwatches_does
    | with_reducible apply State.dropVariants_does
    | with_reducible apply State.fullRate_does
    | with_reducible apply State.loadImage_does
    | with_reducible apply State.pokeOA_does
    | with_reducible apply State.rebuildMap_does
    | with_reducible apply State.resetRebase_does
    | with_reducible apply State.showActive_does
    | with_reducible apply State.showStaged_does
    | with_reducible apply State.showTier_does
    | with_reducible apply Does.forEach
    | with_reducible exact ok_CHART_LOAD_STATUS_STATE (by decide)
    | with_reducible apply okField_ite
    | (with_reducible show Nat.testBit _ _ = true; decide)
    | (with_reducible show subMask _ _ = true; decide)
    | (intro _ _ _; beta_reduce)
    | with_reducible apply Does.ite
    | split
    | with_reducible apply Does.upd_chart
    | with_reducible apply Does.upd_step
    | ((with_reducible show StepSt.prevPhase _ = StepSt.prevPhase _); rfl)
    | with_reducible apply Does.upd_tier
    | apply Does.ite
    | dsimp -zeta only
    | refine Does.sndOf (by assumption) ?_
    | refine Does.fstOf (by assumption) ?_
    | (generalize ‹Option _› = w_; split)
    | (generalize ‹List _› = w_; split)

theorem State.applyCommit_does {μ : Nat} {σ : State} (s : State) (hμ : subMask 12012494022652 μ = true) (hδ : Does μ σ s) :
    Does μ σ (State.applyCommit s) := by
  refine Does.after (a := 12012494022652) ?_ hμ hδ
  clear hδ hμ
  unfold State.applyCommit
  repeat' first
    | with_reducible assumption
    | with_reducible exact Does.rfl' _ _
    | (extract_lets +onlyGivenNames X_; refine Does.cut X_ ?_ ?_; (on_goal 2 => (intro _; clear_value X_)); (on_goal 1 => (dsimp -zeta only [X_]; clear X_)))
    | (extract_lets +onlyGivenNames X_; refine Does.cutOf (Prod.fst (α := State)) X_ ?_ ?_; (on_goal 2 => (intro _; clear_value X_)); (on_goal 1 => (dsimp -zeta only [X_]; clear X_)))
    | extract_lets +onlyGivenNames X_
    | with_reducible apply Does.set
    | with_reducible apply State.installChart_does
    | with_reducible apply State.logEv_does
    | with_reducible exact ok_CHART_COMMIT_STATUS (by decide)
    | with_reducible exact ok_CHART_COMMIT_OUTCOME (by decide)
    | with_reducible apply okField_ite
    | (with_reducible show Nat.testBit _ _ = true; decide)
    | (with_reducible show subMask _ _ = true; decide)
    | (intro _ _ _; beta_reduce)
    | with_reducible apply Does.ite
    | split
    | apply Does.ite
    | dsimp -zeta only
    | refine Does.sndOf (by assumption) ?_
    | refine Does.fstOf (by assumption) ?_
    | (generalize ‹Option _› = w_; split)
    | (generalize ‹List _› = w_; split)

theorem State.installDue_does {μ : Nat} {σ : State} (s : State) (hμ : subMask 12012494022652 μ = true) (hδ : Does μ σ s) :
    Does μ σ (State.installDue s) := by
  refine Does.after (a := 12012494022652) ?_ hμ hδ
  clear hδ hμ
  unfold State.installDue
  repeat' first
    | with_reducible assumption
    | with_reducible exact Does.rfl' _ _
    | (extract_lets +onlyGivenNames X_; refine Does.cut X_ ?_ ?_; (on_goal 2 => (intro _; clear_value X_)); (on_goal 1 => (dsimp -zeta only [X_]; clear X_)))
    | (extract_lets +onlyGivenNames X_; refine Does.cutOf (Prod.fst (α := State)) X_ ?_ ?_; (on_goal 2 => (intro _; clear_value X_)); (on_goal 1 => (dsimp -zeta only [X_]; clear X_)))
    | extract_lets +onlyGivenNames X_
    | with_reducible apply State.applyCommit_does
    | with_reducible apply State.takeCommit_does
    | with_reducible apply okField_ite
    | (with_reducible show Nat.testBit _ _ = true; decide)
    | (with_reducible show subMask _ _ = true; decide)
    | (intro _ _ _; beta_reduce)
    | with_reducible apply Does.ite
    | split
    | apply Does.ite
    | dsimp -zeta only
    | refine Does.sndOf (by assumption) ?_
    | refine Does.fstOf (by assumption) ?_

theorem State.dropStaged_does {μ : Nat} {σ : State} (s : State) (hμ : subMask 1077936140 μ = true) (hδ : Does μ σ s) :
    Does μ σ (State.dropStaged s) := by
  refine Does.after (a := 1077936140) ?_ hμ hδ
  clear hδ hμ
  unfold State.dropStaged
  try dsimp -zeta only [State.fold_chart]
  repeat' first
    | with_reducible assumption
    | with_reducible exact Does.rfl' _ _
    | (extract_lets +onlyGivenNames X_; refine Does.cut X_ ?_ ?_; (on_goal 2 => (intro _; clear_value X_)); (on_goal 1 => (dsimp -zeta only [X_]; clear X_)))
    | (extract_lets +onlyGivenNames X_; refine Does.cutOf (Prod.fst (α := State)) X_ ?_ ?_; (on_goal 2 => (intro _; clear_value X_)); (on_goal 1 => (dsimp -zeta only [X_]; clear X_)))
    | extract_lets +onlyGivenNames X_
    | with_reducible apply State.avs_does
    | with_reducible apply State.showStaged_does
    | with_reducible apply okField_ite
    | (with_reducible show Nat.testBit _ _ = true; decide)
    | (with_reducible show subMask _ _ = true; decide)
    | (intro _ _ _; beta_reduce)
    | with_reducible apply Does.ite
    | split
    | with_reducible apply Does.upd_chart
    | apply Does.ite
    | dsimp -zeta only
    | refine Does.sndOf (by assumption) ?_
    | refine Does.fstOf (by assumption) ?_

theorem State.refuseLoad_does {μ : Nat} {σ : State} (s : State) (hμ : subMask 536895496 μ = true) (hδ : Does μ σ s) :
    Does μ σ (State.refuseLoad s) := by
  refine Does.after (a := 536895496) ?_ hμ hδ
  clear hδ hμ
  unfold State.refuseLoad
  repeat' first
    | with_reducible assumption
    | with_reducible exact Does.rfl' _ _
    | (extract_lets +onlyGivenNames X_; refine Does.cut X_ ?_ ?_; (on_goal 2 => (intro _; clear_value X_)); (on_goal 1 => (dsimp -zeta only [X_]; clear X_)))
    | (extract_lets +onlyGivenNames X_; refine Does.cutOf (Prod.fst (α := State)) X_ ?_ ?_; (on_goal 2 => (intro _; clear_value X_)); (on_goal 1 => (dsimp -zeta only [X_]; clear X_)))
    | extract_lets +onlyGivenNames X_
    | with_reducible apply Does.set
    | with_reducible apply State.refuse_does
    | with_reducible exact ok_CHART_LOAD_STATUS_STATUS (by decide)
    | with_reducible apply okField_ite
    | (with_reducible show Nat.testBit _ _ = true; decide)
    | (with_reducible show subMask _ _ = true; decide)
    | (intro _ _ _; beta_reduce)
    | with_reducible apply Does.ite
    | split
    | apply Does.ite
    | dsimp -zeta only
    | refine Does.sndOf (by assumption) ?_
    | refine Does.fstOf (by assumption) ?_

theorem State.beginLoad_does {μ : Nat} {σ : State} (s : State) (hμ : subMask 2200638087180 μ = true) (hδ : Does μ σ s) :
    Does μ σ (State.beginLoad s) := by
  refine Does.after (a := 2200638087180) ?_ hμ hδ
  clear hδ hμ
  unfold State.beginLoad
  try dsimp -zeta only [State.fold_chart]
  repeat' first
    | with_reducible assumption
    | with_reducible exact Does.rfl' _ _
    | (extract_lets +onlyGivenNames X_; refine Does.cut X_ ?_ ?_; (on_goal 2 => (intro _; clear_value X_)); (on_goal 1 => (dsimp -zeta only [X_]; clear X_)))
    | (extract_lets +onlyGivenNames X_; refine Does.cutOf (Prod.fst (α := State)) X_ ?_ ?_; (on_goal 2 => (intro _; clear_value X_)); (on_goal 1 => (dsimp -zeta only [X_]; clear X_)))
    | extract_lets +onlyGivenNames X_
    | with_reducible apply Does.set
    | with_reducible apply State.dropStaged_does
    | with_reducible apply State.emitHost_does
    | with_reducible apply State.refuseLoad_does
    | with_reducible exact ok_CHART_LOAD_STATUS_STATE (by decide)
    | with_reducible exact ok_CHART_LOAD_STATUS_STATUS (by decide)
    | with_reducible exact ok_CHART_LOAD_STATUS_RULE (by decide)
    | with_reducible exact ok_CHART_LOAD_STATUS_SECTION (by decide)
    | with_reducible exact ok_CHART_LOAD_STATUS_OFFSET (by decide)
    | with_reducible apply okField_ite
    | (with_reducible show Nat.testBit _ _ = true; decide)
    | (with_reducible show subMask _ _ = true; decide)
    | (intro _ _ _; beta_reduce)
    | with_reducible apply Does.ite
    | split
    | with_reducible apply Does.upd_chart
    | apply Does.ite
    | dsimp -zeta only
    | refine Does.sndOf (by assumption) ?_
    | refine Does.fstOf (by assumption) ?_

theorem State.discardImage_does {μ : Nat} {σ : State} (s : State) (hμ : subMask 1614831628 μ = true) (hδ : Does μ σ s) :
    Does μ σ (State.discardImage s) := by
  refine Does.after (a := 1614831628) ?_ hμ hδ
  clear hδ hμ
  unfold State.discardImage
  repeat' first
    | with_reducible assumption
    | with_reducible exact Does.rfl' _ _
    | (extract_lets +onlyGivenNames X_; refine Does.cut X_ ?_ ?_; (on_goal 2 => (intro _; clear_value X_)); (on_goal 1 => (dsimp -zeta only [X_]; clear X_)))
    | (extract_lets +onlyGivenNames X_; refine Does.cutOf (Prod.fst (α := State)) X_ ?_ ?_; (on_goal 2 => (intro _; clear_value X_)); (on_goal 1 => (dsimp -zeta only [X_]; clear X_)))
    | extract_lets +onlyGivenNames X_
    | with_reducible apply Does.set
    | with_reducible apply State.dropStaged_does
    | with_reducible apply State.refuseLoad_does
    | with_reducible exact ok_CHART_LOAD_STATUS_STATE (by decide)
    | with_reducible apply okField_ite
    | (with_reducible show Nat.testBit _ _ = true; decide)
    | (with_reducible show subMask _ _ = true; decide)
    | (intro _ _ _; beta_reduce)
    | with_reducible apply Does.ite
    | split
    | apply Does.ite
    | dsimp -zeta only
    | refine Does.sndOf (by assumption) ?_
    | refine Does.fstOf (by assumption) ?_

theorem State.forget_does {m : Nat} {s₀ : State} (s : State) (keep : List Nat) (hm : subMask 9437184 m = true) (h : Does m s₀ s) :
    Does m s₀ (s.forget keep) := by
  refine Does.after (a := 9437184) ?_ hm h
  have h1 : Does 9437184 s s.fresh.2 := State.fresh_does s (by decide) (Does.rfl' _ _)
  refine Does.upd_pages s.fresh.2 (fun a => decide (0x7C00000000 ≤ a) || (keep.contains (a / 2 ^ 21) &&
      (s.lostHbm.isNone || s.hbmKept.contains (a / 2 ^ 21)))) (some s.free) keep ?_ (by decide) h1
  intro a ha
  show (if a < 0x7C00000000 && !keep.contains (a / 2 ^ 21) then Config.freeByte s.free a else memDflt a) = s.dflt a
  unfold State.dflt
  by_cases hb : 0x7C00000000 ≤ a
  · have e : decide (a < 0x7C00000000) = false := by simpa using hb
    rw [e]
    cases s.lostHbm <;> rfl
  · have e : decide (0x7C00000000 ≤ a) = false := by simpa using hb
    rw [e, Bool.false_or, Bool.and_eq_true] at ha
    rw [ha.1]
    simp only [Bool.not_true, Bool.and_false, Bool.false_eq_true, if_false]
    cases hl : s.lostHbm with
    | none => rfl
    | some k =>
      rw [hl, Option.isNone_some, Bool.false_or] at ha
      rw [ha.2]
      simp

theorem State.uninstall_does {μ : Nat} {σ : State} (s : State) (hμ : subMask 11995320444668 μ = true) (hδ : Does μ σ s) :
    Does μ σ (State.uninstall s) := by
  refine Does.after (a := 11995320444668) ?_ hμ hδ
  clear hδ hμ
  unfold State.uninstall
  try dsimp -zeta only [State.fold_chart_tier, State.fold_step]
  repeat' first
    | with_reducible assumption
    | with_reducible exact Does.rfl' _ _
    | (extract_lets +onlyGivenNames X_; refine Does.cut X_ ?_ ?_; (on_goal 2 => (intro _; clear_value X_)); (on_goal 1 => (dsimp -zeta only [X_]; clear X_)))
    | (extract_lets +onlyGivenNames X_; refine Does.cutOf (Prod.fst (α := State)) X_ ?_ ?_; (on_goal 2 => (intro _; clear_value X_)); (on_goal 1 => (dsimp -zeta only [X_]; clear X_)))
    | extract_lets +onlyGivenNames X_
    | with_reducible apply Does.setPhase
    | with_reducible apply Does.set
    | with_reducible apply State.avs_does
    | with_reducible apply State.dropContext_does
    | with_reducible apply State.dropSwatches_does
    | with_reducible apply State.forget_does
    | with_reducible apply State.rebuildMap_does
    | with_reducible apply State.resetRebase_does
    | with_reducible apply State.showActive_does
    | with_reducible apply State.showTier_does
    | with_reducible apply Does.forEach
    | with_reducible apply Does.foldl
    | with_reducible apply Does.foldlFst
    | with_reducible exact ok_STEP_STATUS_HOLD_CAUSE (by decide)
    | with_reducible apply okField_ite
    | (with_reducible show Nat.testBit _ _ = true; decide)
    | (with_reducible show subMask _ _ = true; decide)
    | (with_reducible show _ ≤ 9; decide)
    | (intro _ _ _; beta_reduce)
    | with_reducible apply Does.ite
    | split
    | with_reducible apply Does.upd_chart_tier
    | with_reducible apply Does.upd_step
    | ((with_reducible show StepSt.prevPhase _ = StepSt.prevPhase _); rfl)
    | apply Does.ite
    | dsimp -zeta only
    | refine Does.sndOf (by assumption) ?_
    | refine Does.fstOf (by assumption) ?_
    | (generalize ‹Option _› = w_; split)
    | (generalize ‹List _› = w_; split)

theorem State.tryUninstall_does {μ : Nat} {σ : State} (s : State) (hμ : subMask 11995320444668 μ = true) (hδ : Does μ σ s) :
    Does μ σ (State.tryUninstall s) := by
  refine Does.after (a := 11995320444668) ?_ hμ hδ
  clear hδ hμ
  unfold State.tryUninstall
  repeat' first
    | with_reducible assumption
    | with_reducible exact Does.rfl' _ _
    | (extract_lets +onlyGivenNames X_; refine Does.cut X_ ?_ ?_; (on_goal 2 => (intro _; clear_value X_)); (on_goal 1 => (dsimp -zeta only [X_]; clear X_)))
    | (extract_lets +onlyGivenNames X_; refine Does.cutOf (Prod.fst (α := State)) X_ ?_ ?_; (on_goal 2 => (intro _; clear_value X_)); (on_goal 1 => (dsimp -zeta only [X_]; clear X_)))
    | extract_lets +onlyGivenNames X_
    | with_reducible apply State.refuseLoad_does
    | with_reducible apply State.uninstall_does
    | with_reducible apply okField_ite
    | (with_reducible show Nat.testBit _ _ = true; decide)
    | (with_reducible show subMask _ _ = true; decide)
    | (intro _ _ _; beta_reduce)
    | with_reducible apply Does.ite
    | split
    | apply Does.ite
    | dsimp -zeta only
    | refine Does.sndOf (by assumption) ?_
    | refine Does.fstOf (by assumption) ?_

theorem State.writeLoadCtrl_does {μ : Nat} {σ : State} (s : State) (w : Wr) (hμ : subMask 11995320444668 μ = true) (hδ : Does μ σ s) :
    Does μ σ (State.writeLoadCtrl s w) := by
  refine Does.after (a := 11995320444668) ?_ hμ hδ
  clear hδ hμ
  unfold State.writeLoadCtrl
  repeat' first
    | with_reducible assumption
    | with_reducible exact Does.rfl' _ _
    | (extract_lets +onlyGivenNames X_; refine Does.cut X_ ?_ ?_; (on_goal 2 => (intro _; clear_value X_)); (on_goal 1 => (dsimp -zeta only [X_]; clear X_)))
    | (extract_lets +onlyGivenNames X_; refine Does.cutOf (Prod.fst (α := State)) X_ ?_ ?_; (on_goal 2 => (intro _; clear_value X_)); (on_goal 1 => (dsimp -zeta only [X_]; clear X_)))
    | extract_lets +onlyGivenNames X_
    | with_reducible apply State.beginLoad_does
    | with_reducible apply State.discardImage_does
    | with_reducible apply State.regWrite_does
    | with_reducible apply State.tryUninstall_does
    | with_reducible exact ok_CHART_LOAD_CTRL_LOAD (by decide)
    | with_reducible exact ok_CHART_LOAD_CTRL_DISCARD (by decide)
    | with_reducible exact ok_CHART_LOAD_CTRL_UNINSTALL (by decide)
    | with_reducible apply okField_ite
    | (with_reducible show Nat.testBit _ _ = true; decide)
    | (with_reducible show subMask _ _ = true; decide)
    | (intro _ _ _; beta_reduce)
    | with_reducible apply Does.ite
    | split
    | apply Does.ite
    | dsimp -zeta only
    | refine Does.sndOf (by assumption) ?_
    | refine Does.fstOf (by assumption) ?_

theorem State.writeLoadSrc_does {μ : Nat} {σ : State} (s : State) (w : Wr) (hμ : subMask 536895496 μ = true) (hδ : Does μ σ s) :
    Does μ σ (State.writeLoadSrc s w) := by
  refine Does.after (a := 536895496) ?_ hμ hδ
  clear hδ hμ
  unfold State.writeLoadSrc
  repeat' first
    | (extract_lets +onlyGivenNames X_; refine Does.cut X_ ?_ ?_; (on_goal 2 => (intro _; clear_value X_)); (on_goal 1 => (dsimp -zeta only [X_]; clear X_)))
    | (extract_lets +onlyGivenNames X_; refine Does.cutOf (Prod.fst (α := State)) X_ ?_ ?_; (on_goal 2 => (intro _; clear_value X_)); (on_goal 1 => (dsimp -zeta only [X_]; clear X_)))
    | extract_lets +onlyGivenNames X_
    | with_reducible assumption
    | with_reducible exact Does.rfl' _ _
    | with_reducible apply State.refuse_does
    | with_reducible apply State.regWrite_does
    | with_reducible apply okField_ite
    | exact testBit_all _ (by decide)
    | (with_reducible show Nat.testBit _ _ = true; decide)
    | (with_reducible show subMask _ _ = true; decide)
    | (intro _ _ _; beta_reduce)
    | with_reducible apply Does.ite
    | split
    | apply Does.ite

theorem State.refuseCommit_does {μ : Nat} {σ : State} (s : State) (f : Fld) (hf : okField f μ = true) (hμ : subMask 536895488 μ = true) (hδ : Does μ σ s) :
    Does μ σ (State.refuseCommit s f) := by
  unfold State.refuseCommit
  repeat' first
    | (extract_lets +onlyGivenNames X_; refine Does.cut X_ ?_ ?_; (on_goal 2 => (intro _; clear_value X_)); (on_goal 1 => (dsimp -zeta only [X_]; clear X_)))
    | (extract_lets +onlyGivenNames X_; refine Does.cutOf (Prod.fst (α := State)) X_ ?_ ?_; (on_goal 2 => (intro _; clear_value X_)); (on_goal 1 => (dsimp -zeta only [X_]; clear X_)))
    | extract_lets +onlyGivenNames X_
    | with_reducible assumption
    | with_reducible exact Does.rfl' _ _
    | with_reducible apply Does.set
    | with_reducible apply State.refuse_does
    | with_reducible apply okField_ite
    | with_reducible exact testBit_mono (by decide) hμ
    | with_reducible exact subMask_trans (by decide) hμ
    | (intro _ _ _; beta_reduce)
    | with_reducible apply Does.ite
    | split
    | with_reducible exact hf _
    | with_reducible exact hf

theorem State.requestCommit_does {μ : Nat} {σ : State} (s : State) (hμ : subMask 12012494022652 μ = true) (hδ : Does μ σ s) :
    Does μ σ (State.requestCommit s) := by
  refine Does.after (a := 12012494022652) ?_ hμ hδ
  clear hδ hμ
  unfold State.requestCommit
  try dsimp -zeta only [State.fold_chart]
  repeat' first
    | with_reducible assumption
    | with_reducible exact Does.rfl' _ _
    | (extract_lets +onlyGivenNames X_; refine Does.cut X_ ?_ ?_; (on_goal 2 => (intro _; clear_value X_)); (on_goal 1 => (dsimp -zeta only [X_]; clear X_)))
    | (extract_lets +onlyGivenNames X_; refine Does.cutOf (Prod.fst (α := State)) X_ ?_ ?_; (on_goal 2 => (intro _; clear_value X_)); (on_goal 1 => (dsimp -zeta only [X_]; clear X_)))
    | extract_lets +onlyGivenNames X_
    | with_reducible apply Does.set
    | with_reducible apply State.applyCommit_does
    | with_reducible apply State.logEv_does
    | with_reducible apply State.refuseCommit_does
    | with_reducible apply State.showAhead_does
    | with_reducible apply State.takeCommit_does
    | with_reducible exact ok_CHART_COMMIT_STATUS (by decide)
    | with_reducible exact ok_CHART_COMMIT_APPLY_AT_STEP (by decide)
    | with_reducible exact ok_CHART_COMMIT_OUTCOME (by decide)
    | with_reducible apply okField_ite
    | (with_reducible show Nat.testBit _ _ = true; decide)
    | (with_reducible show subMask _ _ = true; decide)
    | (intro _ _ _; beta_reduce)
    | with_reducible apply Does.ite
    | split
    | with_reducible apply Does.upd_chart
    | apply Does.ite
    | dsimp -zeta only
    | refine Does.sndOf (by assumption) ?_
    | refine Does.fstOf (by assumption) ?_
    | (generalize ‹Option _› = w_; split)
    | (generalize ‹List _› = w_; split)

theorem State.putVariant_does {μ : Nat} {σ : State} (s : State) (v : PendCommit) (hμ : subMask 1073741824 μ = true) (hδ : Does μ σ s) :
    Does μ σ (State.putVariant s v) := by
  refine Does.after (a := 1073741824) ?_ hμ hδ
  clear hδ hμ
  unfold State.putVariant
  try dsimp -zeta only [State.fold_chart]
  repeat' first
    | with_reducible assumption
    | with_reducible exact Does.rfl' _ _
    | (extract_lets +onlyGivenNames X_; refine Does.cut X_ ?_ ?_; (on_goal 2 => (intro _; clear_value X_)); (on_goal 1 => (dsimp -zeta only [X_]; clear X_)))
    | (extract_lets +onlyGivenNames X_; refine Does.cutOf (Prod.fst (α := State)) X_ ?_ ?_; (on_goal 2 => (intro _; clear_value X_)); (on_goal 1 => (dsimp -zeta only [X_]; clear X_)))
    | extract_lets +onlyGivenNames X_
    | with_reducible apply okField_ite
    | (with_reducible show Nat.testBit _ _ = true; decide)
    | (with_reducible show subMask _ _ = true; decide)
    | (intro _ _ _; beta_reduce)
    | with_reducible apply Does.ite
    | split
    | with_reducible apply Does.upd_chart
    | apply Does.ite
    | dsimp -zeta only
    | refine Does.sndOf (by assumption) ?_
    | refine Does.fstOf (by assumption) ?_

theorem State.requestVariant_does {μ : Nat} {σ : State} (s : State) (hμ : subMask 1610637848 μ = true) (hδ : Does μ σ s) :
    Does μ σ (State.requestVariant s) := by
  refine Does.after (a := 1610637848) ?_ hμ hδ
  clear hδ hμ
  unfold State.requestVariant
  repeat' first
    | with_reducible assumption
    | with_reducible exact Does.rfl' _ _
    | (extract_lets +onlyGivenNames X_; refine Does.cut X_ ?_ ?_; (on_goal 2 => (intro _; clear_value X_)); (on_goal 1 => (dsimp -zeta only [X_]; clear X_)))
    | (extract_lets +onlyGivenNames X_; refine Does.cutOf (Prod.fst (α := State)) X_ ?_ ?_; (on_goal 2 => (intro _; clear_value X_)); (on_goal 1 => (dsimp -zeta only [X_]; clear X_)))
    | extract_lets +onlyGivenNames X_
    | with_reducible apply Does.set
    | with_reducible apply State.putVariant_does
    | with_reducible apply State.refuseCommit_does
    | with_reducible apply State.showAhead_does
    | with_reducible exact ok_CHART_VARIANT_STATUS (by decide)
    | with_reducible exact ok_CHART_VARIANT_OUTCOME (by decide)
    | with_reducible exact ok_CHART_VARIANT_APPLY_AT_STEP (by decide)
    | with_reducible apply okField_ite
    | (with_reducible show Nat.testBit _ _ = true; decide)
    | (with_reducible show subMask _ _ = true; decide)
    | (intro _ _ _; beta_reduce)
    | with_reducible apply Does.ite
    | split
    | apply Does.ite
    | dsimp -zeta only
    | refine Does.sndOf (by assumption) ?_
    | refine Does.fstOf (by assumption) ?_
    | (generalize ‹Option _› = w_; split)
    | (generalize ‹List _› = w_; split)

theorem State.withdrawCommit_does {μ : Nat} {σ : State} (s : State) (hμ : subMask 1610637848 μ = true) (hδ : Does μ σ s) :
    Does μ σ (State.withdrawCommit s) := by
  refine Does.after (a := 1610637848) ?_ hμ hδ
  clear hδ hμ
  unfold State.withdrawCommit
  repeat' first
    | with_reducible assumption
    | with_reducible exact Does.rfl' _ _
    | (extract_lets +onlyGivenNames X_; refine Does.cut X_ ?_ ?_; (on_goal 2 => (intro _; clear_value X_)); (on_goal 1 => (dsimp -zeta only [X_]; clear X_)))
    | (extract_lets +onlyGivenNames X_; refine Does.cutOf (Prod.fst (α := State)) X_ ?_ ?_; (on_goal 2 => (intro _; clear_value X_)); (on_goal 1 => (dsimp -zeta only [X_]; clear X_)))
    | extract_lets +onlyGivenNames X_
    | with_reducible apply Does.set
    | with_reducible apply State.logEv_does
    | with_reducible apply State.showAhead_does
    | with_reducible apply State.takeCommit_does
    | with_reducible exact ok_CHART_COMMIT_STATUS (by decide)
    | with_reducible exact ok_CHART_COMMIT_OUTCOME (by decide)
    | with_reducible apply okField_ite
    | (with_reducible show Nat.testBit _ _ = true; decide)
    | (with_reducible show subMask _ _ = true; decide)
    | (intro _ _ _; beta_reduce)
    | with_reducible apply Does.ite
    | split
    | apply Does.ite
    | dsimp -zeta only
    | refine Does.sndOf (by assumption) ?_
    | refine Does.fstOf (by assumption) ?_
    | (generalize ‹Option _› = w_; split)
    | (generalize ‹List _› = w_; split)

theorem State.withdrawVariant_does {μ : Nat} {σ : State} (s : State) (hμ : subMask 1610637848 μ = true) (hδ : Does μ σ s) :
    Does μ σ (State.withdrawVariant s) := by
  refine Does.after (a := 1610637848) ?_ hμ hδ
  clear hδ hμ
  unfold State.withdrawVariant
  try dsimp -zeta only [State.fold_chart]
  repeat' first
    | with_reducible assumption
    | with_reducible exact Does.rfl' _ _
    | (extract_lets +onlyGivenNames X_; refine Does.cut X_ ?_ ?_; (on_goal 2 => (intro _; clear_value X_)); (on_goal 1 => (dsimp -zeta only [X_]; clear X_)))
    | (extract_lets +onlyGivenNames X_; refine Does.cutOf (Prod.fst (α := State)) X_ ?_ ?_; (on_goal 2 => (intro _; clear_value X_)); (on_goal 1 => (dsimp -zeta only [X_]; clear X_)))
    | extract_lets +onlyGivenNames X_
    | with_reducible apply Does.set
    | with_reducible apply State.logEv_does
    | with_reducible apply State.showAhead_does
    | with_reducible exact ok_CHART_VARIANT_STATUS (by decide)
    | with_reducible exact ok_CHART_VARIANT_OUTCOME (by decide)
    | with_reducible apply okField_ite
    | (with_reducible show Nat.testBit _ _ = true; decide)
    | (with_reducible show subMask _ _ = true; decide)
    | (intro _ _ _; beta_reduce)
    | with_reducible apply Does.ite
    | split
    | with_reducible apply Does.upd_chart
    | apply Does.ite
    | dsimp -zeta only
    | refine Does.sndOf (by assumption) ?_
    | refine Does.fstOf (by assumption) ?_
    | (generalize ‹Option _› = w_; split)
    | (generalize ‹List _› = w_; split)

theorem State.writeCommit_does {μ : Nat} {σ : State} (s : State) (w : Wr) (hμ : subMask 12012494022652 μ = true) (hδ : Does μ σ s) :
    Does μ σ (State.writeCommit s w) := by
  refine Does.after (a := 12012494022652) ?_ hμ hδ
  clear hδ hμ
  unfold State.writeCommit
  repeat' first
    | with_reducible assumption
    | with_reducible exact Does.rfl' _ _
    | (extract_lets +onlyGivenNames X_; refine Does.cut X_ ?_ ?_; (on_goal 2 => (intro _; clear_value X_)); (on_goal 1 => (dsimp -zeta only [X_]; clear X_)))
    | (extract_lets +onlyGivenNames X_; refine Does.cutOf (Prod.fst (α := State)) X_ ?_ ?_; (on_goal 2 => (intro _; clear_value X_)); (on_goal 1 => (dsimp -zeta only [X_]; clear X_)))
    | extract_lets +onlyGivenNames X_
    | with_reducible apply State.regWrite_does
    | with_reducible apply State.requestCommit_does
    | with_reducible apply State.withdrawCommit_does
    | with_reducible exact ok_CHART_COMMIT_REQ (by decide)
    | with_reducible exact ok_CHART_COMMIT_WITHDRAW (by decide)
    | with_reducible apply okField_ite
    | (with_reducible show Nat.testBit _ _ = true; decide)
    | (with_reducible show subMask _ _ = true; decide)
    | (intro _ _ _; beta_reduce)
    | with_reducible apply Does.ite
    | split
    | apply Does.ite
    | dsimp -zeta only
    | refine Does.sndOf (by assumption) ?_
    | refine Does.fstOf (by assumption) ?_

theorem State.writeVariant_does {μ : Nat} {σ : State} (s : State) (w : Wr) (hμ : subMask 1610637848 μ = true) (hδ : Does μ σ s) :
    Does μ σ (State.writeVariant s w) := by
  refine Does.after (a := 1610637848) ?_ hμ hδ
  clear hδ hμ
  unfold State.writeVariant
  repeat' first
    | with_reducible assumption
    | with_reducible exact Does.rfl' _ _
    | (extract_lets +onlyGivenNames X_; refine Does.cut X_ ?_ ?_; (on_goal 2 => (intro _; clear_value X_)); (on_goal 1 => (dsimp -zeta only [X_]; clear X_)))
    | (extract_lets +onlyGivenNames X_; refine Does.cutOf (Prod.fst (α := State)) X_ ?_ ?_; (on_goal 2 => (intro _; clear_value X_)); (on_goal 1 => (dsimp -zeta only [X_]; clear X_)))
    | extract_lets +onlyGivenNames X_
    | with_reducible apply State.regWrite_does
    | with_reducible apply State.requestVariant_does
    | with_reducible apply State.withdrawVariant_does
    | with_reducible exact ok_CHART_VARIANT_REQ (by decide)
    | with_reducible exact ok_CHART_VARIANT_WITHDRAW (by decide)
    | with_reducible apply okField_ite
    | (with_reducible show Nat.testBit _ _ = true; decide)
    | (with_reducible show subMask _ _ = true; decide)
    | (intro _ _ _; beta_reduce)
    | with_reducible apply Does.ite
    | split
    | apply Does.ite
    | dsimp -zeta only
    | refine Does.sndOf (by assumption) ?_
    | refine Does.fstOf (by assumption) ?_

theorem execChartLoad_does (m : Master) (v : BitVec 64) (s : State) (τ : State) (hδ : execChartLoad m v s = .next τ) : Does 11995320444668 s τ := by
  unfold execChartLoad at hδ
  obtain rfl := Host.Outcome.next.inj hδ
  clear hδ
  repeat' first
    | with_reducible assumption
    | with_reducible exact Does.rfl' _ _
    | (extract_lets +onlyGivenNames X_; refine Does.cut X_ ?_ ?_; (on_goal 2 => (intro _; clear_value X_)); (on_goal 1 => (dsimp -zeta only [X_]; clear X_)))
    | (extract_lets +onlyGivenNames X_; refine Does.cutOf (Prod.fst (α := State)) X_ ?_ ?_; (on_goal 2 => (intro _; clear_value X_)); (on_goal 1 => (dsimp -zeta only [X_]; clear X_)))
    | extract_lets +onlyGivenNames X_
    | with_reducible apply State.writeLoadCtrl_does
    | with_reducible apply okField_ite
    | (with_reducible show Nat.testBit _ _ = true; decide)
    | (with_reducible show subMask _ _ = true; decide)
    | (intro _ _ _; beta_reduce)
    | with_reducible apply Does.ite
    | split
    | apply Does.ite
    | dsimp -zeta only
    | refine Does.sndOf (by assumption) ?_
    | refine Does.fstOf (by assumption) ?_

theorem execChartFetchDone_does (image : List Byte) (s : State) (τ : State) (hδ : execChartFetchDone image s = .next τ) : Does 52616503304 s τ := by
  unfold execChartFetchDone at hδ
  obtain rfl := Host.Outcome.next.inj hδ
  clear hδ
  try dsimp -zeta only [State.fold_chart]
  repeat' first
    | with_reducible assumption
    | with_reducible exact Does.rfl' _ _
    | (extract_lets +onlyGivenNames X_; refine Does.cut X_ ?_ ?_; (on_goal 2 => (intro _; clear_value X_)); (on_goal 1 => (dsimp -zeta only [X_]; clear X_)))
    | (extract_lets +onlyGivenNames X_; refine Does.cutOf (Prod.fst (α := State)) X_ ?_ ?_; (on_goal 2 => (intro _; clear_value X_)); (on_goal 1 => (dsimp -zeta only [X_]; clear X_)))
    | extract_lets +onlyGivenNames X_
    | with_reducible apply Does.set
    | with_reducible apply State.writeMem_does
    | with_reducible exact ok_CHART_LOAD_STATUS_STATE (by decide)
    | with_reducible apply okField_ite
    | (with_reducible show Nat.testBit _ _ = true; decide)
    | (with_reducible show subMask _ _ = true; decide)
    | (intro _ _ _; beta_reduce)
    | with_reducible apply Does.ite
    | split
    | with_reducible apply Does.upd_chart
    | apply Does.ite
    | dsimp -zeta only
    | refine Does.sndOf (by assumption) ?_
    | refine Does.fstOf (by assumption) ?_

theorem execChartDiscard_does (m : Master) (v : BitVec 64) (s : State) (τ : State) (hδ : execChartDiscard m v s = .next τ) : Does 11995320444668 s τ := by
  unfold execChartDiscard at hδ
  obtain rfl := Host.Outcome.next.inj hδ
  clear hδ
  repeat' first
    | with_reducible assumption
    | with_reducible exact Does.rfl' _ _
    | (extract_lets +onlyGivenNames X_; refine Does.cut X_ ?_ ?_; (on_goal 2 => (intro _; clear_value X_)); (on_goal 1 => (dsimp -zeta only [X_]; clear X_)))
    | (extract_lets +onlyGivenNames X_; refine Does.cutOf (Prod.fst (α := State)) X_ ?_ ?_; (on_goal 2 => (intro _; clear_value X_)); (on_goal 1 => (dsimp -zeta only [X_]; clear X_)))
    | extract_lets +onlyGivenNames X_
    | with_reducible apply State.writeLoadCtrl_does
    | with_reducible apply okField_ite
    | (with_reducible show Nat.testBit _ _ = true; decide)
    | (with_reducible show subMask _ _ = true; decide)
    | (intro _ _ _; beta_reduce)
    | with_reducible apply Does.ite
    | split
    | apply Does.ite
    | dsimp -zeta only
    | refine Does.sndOf (by assumption) ?_
    | refine Does.fstOf (by assumption) ?_

theorem execChartUninstall_does (m : Master) (v : BitVec 64) (s : State) (τ : State) (hδ : execChartUninstall m v s = .next τ) : Does 11995320444668 s τ := by
  unfold execChartUninstall at hδ
  obtain rfl := Host.Outcome.next.inj hδ
  clear hδ
  repeat' first
    | with_reducible assumption
    | with_reducible exact Does.rfl' _ _
    | (extract_lets +onlyGivenNames X_; refine Does.cut X_ ?_ ?_; (on_goal 2 => (intro _; clear_value X_)); (on_goal 1 => (dsimp -zeta only [X_]; clear X_)))
    | (extract_lets +onlyGivenNames X_; refine Does.cutOf (Prod.fst (α := State)) X_ ?_ ?_; (on_goal 2 => (intro _; clear_value X_)); (on_goal 1 => (dsimp -zeta only [X_]; clear X_)))
    | extract_lets +onlyGivenNames X_
    | with_reducible apply State.writeLoadCtrl_does
    | with_reducible apply okField_ite
    | (with_reducible show Nat.testBit _ _ = true; decide)
    | (with_reducible show subMask _ _ = true; decide)
    | (intro _ _ _; beta_reduce)
    | with_reducible apply Does.ite
    | split
    | apply Does.ite
    | dsimp -zeta only
    | refine Does.sndOf (by assumption) ?_
    | refine Does.fstOf (by assumption) ?_

theorem execChartCommitRequest_does (m : Master) (v : BitVec 64) (s : State) (τ : State) (hδ : execChartCommitRequest m v s = .next τ) : Does 12012494022652 s τ := by
  unfold execChartCommitRequest at hδ
  obtain rfl := Host.Outcome.next.inj hδ
  clear hδ
  repeat' first
    | with_reducible assumption
    | with_reducible exact Does.rfl' _ _
    | (extract_lets +onlyGivenNames X_; refine Does.cut X_ ?_ ?_; (on_goal 2 => (intro _; clear_value X_)); (on_goal 1 => (dsimp -zeta only [X_]; clear X_)))
    | (extract_lets +onlyGivenNames X_; refine Does.cutOf (Prod.fst (α := State)) X_ ?_ ?_; (on_goal 2 => (intro _; clear_value X_)); (on_goal 1 => (dsimp -zeta only [X_]; clear X_)))
    | extract_lets +onlyGivenNames X_
    | with_reducible apply State.writeCommit_does
    | with_reducible apply okField_ite
    | (with_reducible show Nat.testBit _ _ = true; decide)
    | (with_reducible show subMask _ _ = true; decide)
    | (intro _ _ _; beta_reduce)
    | with_reducible apply Does.ite
    | split
    | apply Does.ite
    | dsimp -zeta only
    | refine Does.sndOf (by assumption) ?_
    | refine Does.fstOf (by assumption) ?_

theorem execChartCommitWithdraw_does (m : Master) (v : BitVec 64) (s : State) (τ : State) (hδ : execChartCommitWithdraw m v s = .next τ) : Does 12012494022652 s τ := by
  unfold execChartCommitWithdraw at hδ
  obtain rfl := Host.Outcome.next.inj hδ
  clear hδ
  repeat' first
    | with_reducible assumption
    | with_reducible exact Does.rfl' _ _
    | (extract_lets +onlyGivenNames X_; refine Does.cut X_ ?_ ?_; (on_goal 2 => (intro _; clear_value X_)); (on_goal 1 => (dsimp -zeta only [X_]; clear X_)))
    | (extract_lets +onlyGivenNames X_; refine Does.cutOf (Prod.fst (α := State)) X_ ?_ ?_; (on_goal 2 => (intro _; clear_value X_)); (on_goal 1 => (dsimp -zeta only [X_]; clear X_)))
    | extract_lets +onlyGivenNames X_
    | with_reducible apply State.writeCommit_does
    | with_reducible apply okField_ite
    | (with_reducible show Nat.testBit _ _ = true; decide)
    | (with_reducible show subMask _ _ = true; decide)
    | (intro _ _ _; beta_reduce)
    | with_reducible apply Does.ite
    | split
    | apply Does.ite
    | dsimp -zeta only
    | refine Does.sndOf (by assumption) ?_
    | refine Does.fstOf (by assumption) ?_

theorem execVariantCommitRequest_does (m : Master) (v : BitVec 64) (s : State) (τ : State) (hδ : execVariantCommitRequest m v s = .next τ) : Does 1610637848 s τ := by
  unfold execVariantCommitRequest at hδ
  obtain rfl := Host.Outcome.next.inj hδ
  clear hδ
  repeat' first
    | with_reducible assumption
    | with_reducible exact Does.rfl' _ _
    | (extract_lets +onlyGivenNames X_; refine Does.cut X_ ?_ ?_; (on_goal 2 => (intro _; clear_value X_)); (on_goal 1 => (dsimp -zeta only [X_]; clear X_)))
    | (extract_lets +onlyGivenNames X_; refine Does.cutOf (Prod.fst (α := State)) X_ ?_ ?_; (on_goal 2 => (intro _; clear_value X_)); (on_goal 1 => (dsimp -zeta only [X_]; clear X_)))
    | extract_lets +onlyGivenNames X_
    | with_reducible apply State.writeVariant_does
    | with_reducible apply okField_ite
    | (with_reducible show Nat.testBit _ _ = true; decide)
    | (with_reducible show subMask _ _ = true; decide)
    | (intro _ _ _; beta_reduce)
    | with_reducible apply Does.ite
    | split
    | apply Does.ite
    | dsimp -zeta only
    | refine Does.sndOf (by assumption) ?_
    | refine Does.fstOf (by assumption) ?_

theorem execVariantCommitWithdraw_does (m : Master) (v : BitVec 64) (s : State) (τ : State) (hδ : execVariantCommitWithdraw m v s = .next τ) : Does 1610637848 s τ := by
  unfold execVariantCommitWithdraw at hδ
  obtain rfl := Host.Outcome.next.inj hδ
  clear hδ
  repeat' first
    | with_reducible assumption
    | with_reducible exact Does.rfl' _ _
    | (extract_lets +onlyGivenNames X_; refine Does.cut X_ ?_ ?_; (on_goal 2 => (intro _; clear_value X_)); (on_goal 1 => (dsimp -zeta only [X_]; clear X_)))
    | (extract_lets +onlyGivenNames X_; refine Does.cutOf (Prod.fst (α := State)) X_ ?_ ?_; (on_goal 2 => (intro _; clear_value X_)); (on_goal 1 => (dsimp -zeta only [X_]; clear X_)))
    | extract_lets +onlyGivenNames X_
    | with_reducible apply State.writeVariant_does
    | with_reducible apply okField_ite
    | (with_reducible show Nat.testBit _ _ = true; decide)
    | (with_reducible show subMask _ _ = true; decide)
    | (intro _ _ _; beta_reduce)
    | with_reducible apply Does.ite
    | split
    | apply Does.ite
    | dsimp -zeta only
    | refine Does.sndOf (by assumption) ?_
    | refine Does.fstOf (by assumption) ?_

end Sys2Proof.Machine
end

