-- ==== Sys2Proof/Laws/FBoundary.lean ====
section
/-! SUPPORT. Laws/FBoundary.lean: what every operation of Machine/Boundary.lean leaves alone (see Laws/Frame.lean). -/

set_option linter.unreachableTactic false
set_option linter.unusedTactic false
set_option linter.tactic.unusedName false

namespace Sys2Proof.Machine

theorem State.govern_does {μ : Nat} {σ : State} (s : State) (n : Nat) (hμ : subMask 2147483664 μ = true) (hδ : Does μ σ s) :
    Does μ σ (State.govern s n) := by
  refine Does.after (a := 2147483664) ?_ hμ hδ
  clear hδ hμ
  unfold State.govern
  try dsimp -zeta only [State.fold_step]
  repeat' first
    | with_reducible assumption
    | with_reducible exact Does.rfl' _ _
    | extract_lets +onlyGivenNames X_
    | with_reducible apply Does.set
    | with_reducible apply Does.bump
    | with_reducible exact ok_STEP_HISTORY_STEP _ (by decide)
    | with_reducible exact ok_STEP_HISTORY_EXP _ (by decide)
    | with_reducible exact ok_STEP_SCALE_EXP (by decide)
    | with_reducible exact ok_STEP_SCALE_LAST_GROWTH (by decide)
    | with_reducible exact ok_STEP_SKIP_COUNT (by decide)
    | with_reducible exact ok_STEP_SKIP_LAST (by decide)
    | with_reducible apply okField_ite
    | (with_reducible show Nat.testBit _ _ = true; decide)
    | (with_reducible show subMask _ _ = true; decide)
    | (intro _ _ _; beta_reduce)
    | with_reducible apply Does.ite
    | split
    | with_reducible apply Does.upd_step
    | ((with_reducible show StepSt.prevPhase _ = StepSt.prevPhase _); rfl)
    | apply Does.ite
    | dsimp -zeta only
    | refine Does.sndOf (by assumption) ?_
    | refine Does.fstOf (by assumption) ?_

theorem State.applyVerdict_does {μ : Nat} {σ : State} (s : State) (n : Nat) (hμ : subMask 13471164924176 μ = true) (hδ : Does μ σ s) :
    Does μ σ (State.applyVerdict s n) := by
  refine Does.after (a := 13471164924176) ?_ hμ hδ
  clear hδ hμ
  unfold State.applyVerdict
  repeat' first
    | with_reducible assumption
    | with_reducible exact Does.rfl' _ _
    | (extract_lets +onlyGivenNames X_; refine Does.cut X_ ?_ ?_; (on_goal 2 => (intro _; clear_value X_)); (on_goal 1 => (dsimp -zeta only [X_]; clear X_)))
    | (extract_lets +onlyGivenNames X_; refine Does.cutOf (Prod.fst (α := State)) X_ ?_ ?_; (on_goal 2 => (intro _; clear_value X_)); (on_goal 1 => (dsimp -zeta only [X_]; clear X_)))
    | extract_lets +onlyGivenNames X_
    | with_reducible apply Does.set
    | with_reducible apply Does.bump
    | with_reducible apply State.commitRebase_does
    | with_reducible apply State.commitShadows_does
    | with_reducible apply State.dropShadows_does
    | with_reducible apply State.govern_does
    | with_reducible exact ok_STEP_OPT_COUNT_COUNT (by decide)
    | with_reducible exact ok_FTL_COMMIT_COMMITTED_STEP (by decide)
    | with_reducible exact ok_STEP_STATUS_LAST_STATUS (by decide)
    | with_reducible apply okField_ite
    | (with_reducible show Nat.testBit _ _ = true; decide)
    | (with_reducible show subMask _ _ = true; decide)
    | (intro _ _ _; beta_reduce)
    | with_reducible apply Does.ite
    | split
    | apply Does.ite
    | dsimp -zeta only
    | refine Does.sndOf (by assumption) ?_
    | refine Does.fstOf (by assumption) ?_

theorem State.drainTest_does {μ : Nat} {σ : State} (s : State) (n : Nat) (hμ : subMask 1073741832 μ = true) (hδ : Does μ σ s) :
    Does μ σ (State.drainTest s n) := by
  refine Does.after (a := 1073741832) ?_ hμ hδ
  clear hδ hμ
  unfold State.drainTest
  try dsimp -zeta only [State.fold_chart]
  repeat' first
    | with_reducible assumption
    | with_reducible exact Does.rfl' _ _
    | (extract_lets +onlyGivenNames X_; refine Does.cut X_ ?_ ?_; (on_goal 2 => (intro _; clear_value X_)); (on_goal 1 => (dsimp -zeta only [X_]; clear X_)))
    | (extract_lets +onlyGivenNames X_; refine Does.cutOf (Prod.fst (α := State)) X_ ?_ ?_; (on_goal 2 => (intro _; clear_value X_)); (on_goal 1 => (dsimp -zeta only [X_]; clear X_)))
    | extract_lets +onlyGivenNames X_
    | with_reducible apply Does.set
    | with_reducible apply State.takeCommit_does
    | with_reducible exact ok_CHART_COMMIT_STATUS (by decide)
    | with_reducible exact ok_CHART_COMMIT_APPLY_AT_STEP (by decide)
    | with_reducible apply okField_ite
    | (with_reducible show Nat.testBit _ _ = true; decide)
    | (with_reducible show subMask _ _ = true; decide)
    | (intro _ _ _; beta_reduce)
    | with_reducible apply Does.ite
    | split
    | with_reducible apply Does.upd_chart
    | apply Does.ite
    | dsimp -zeta only
    | refine Does.sndOf (by assumption) ?_
    | refine Does.fstOf (by assumption) ?_

theorem State.raiseBoundary_does {μ : Nat} {σ : State} (s : State) (c : Chart) (hμ : subMask 4194368 μ = true) (hδ : Does μ σ s) :
    Does μ σ (State.raiseBoundary s c) := by
  refine Does.after (a := 4194368) ?_ hμ hδ
  clear hδ hμ
  unfold State.raiseBoundary
  repeat' first
    | with_reducible assumption
    | with_reducible exact Does.rfl' _ _
    | (extract_lets +onlyGivenNames X_; refine Does.cut X_ ?_ ?_; (on_goal 2 => (intro _; clear_value X_)); (on_goal 1 => (dsimp -zeta only [X_]; clear X_)))
    | (extract_lets +onlyGivenNames X_; refine Does.cutOf (Prod.fst (α := State)) X_ ?_ ?_; (on_goal 2 => (intro _; clear_value X_)); (on_goal 1 => (dsimp -zeta only [X_]; clear X_)))
    | extract_lets +onlyGivenNames X_
    | with_reducible apply State.raiseOwned_does
    | with_reducible apply okField_ite
    | (with_reducible show Nat.testBit _ _ = true; decide)
    | (with_reducible show subMask _ _ = true; decide)
    | (intro _ _ _; beta_reduce)
    | with_reducible apply Does.ite
    | split
    | apply Does.ite
    | dsimp -zeta only
    | refine Does.sndOf (by assumption) ?_
    | refine Does.fstOf (by assumption) ?_

theorem State.beginRounds_does {μ : Nat} {σ : State} (s : State) (wish : Nat) (contend : Bool) (hμ : subMask 2164260864 μ = true) (hδ : Does μ σ s) :
    Does μ σ (State.beginRounds s wish contend) := by
  refine Does.after (a := 2164260864) ?_ hμ hδ
  clear hδ hμ
  unfold State.beginRounds
  try dsimp -zeta only [State.fold_flagOut_step]
  repeat' first
    | with_reducible assumption
    | with_reducible exact Does.rfl' _ _
    | (extract_lets +onlyGivenNames X_; refine Does.cut X_ ?_ ?_; (on_goal 2 => (intro _; clear_value X_)); (on_goal 1 => (dsimp -zeta only [X_]; clear X_)))
    | (extract_lets +onlyGivenNames X_; refine Does.cutOf (Prod.fst (α := State)) X_ ?_ ?_; (on_goal 2 => (intro _; clear_value X_)); (on_goal 1 => (dsimp -zeta only [X_]; clear X_)))
    | extract_lets +onlyGivenNames X_
    | with_reducible apply okField_ite
    | (with_reducible show Nat.testBit _ _ = true; decide)
    | (with_reducible show subMask _ _ = true; decide)
    | (intro _ _ _; beta_reduce)
    | with_reducible apply Does.ite
    | split
    | with_reducible apply Does.upd_flagOut_step
    | ((with_reducible show StepSt.prevPhase _ = StepSt.prevPhase _); rfl)
    | apply Does.ite
    | dsimp -zeta only
    | refine Does.sndOf (by assumption) ?_
    | refine Does.fstOf (by assumption) ?_

theorem State.heldBindOff_does {μ : Nat} {σ : State} (s : State) (b : Nat) (hμ : subMask 156850716688 μ = true) (hδ : Does μ σ s) :
    Does μ σ (State.heldBindOff s b) := by
  refine Does.after (a := 156850716688) ?_ hμ hδ
  clear hδ hμ
  unfold State.heldBindOff
  try dsimp -zeta only [State.fold_fault_pwr]
  repeat' first
    | with_reducible assumption
    | with_reducible exact Does.rfl' _ _
    | (extract_lets +onlyGivenNames X_; refine Does.cut X_ ?_ ?_; (on_goal 2 => (intro _; clear_value X_)); (on_goal 1 => (dsimp -zeta only [X_]; clear X_)))
    | (extract_lets +onlyGivenNames X_; refine Does.cutOf (Prod.fst (α := State)) X_ ?_ ?_; (on_goal 2 => (intro _; clear_value X_)); (on_goal 1 => (dsimp -zeta only [X_]; clear X_)))
    | extract_lets +onlyGivenNames X_
    | with_reducible apply State.advance_does
    | with_reducible apply State.beginRounds_does
    | with_reducible apply State.releaseFlag_does
    | with_reducible apply okField_ite
    | (with_reducible show Nat.testBit _ _ = true; decide)
    | (with_reducible show subMask _ _ = true; decide)
    | (intro _ _ _; beta_reduce)
    | with_reducible apply Does.ite
    | split
    | with_reducible apply Does.upd_fault_pwr
    | apply Does.ite
    | dsimp -zeta only
    | refine Does.sndOf (by assumption) ?_
    | refine Does.fstOf (by assumption) ?_

theorem execBindOff_does (s : State) (τ : State) (hδ : execBindOff s = .next τ) : Does 13742913618264 s τ := by
  unfold execBindOff at hδ
  obtain rfl := Host.Outcome.next.inj hδ
  clear hδ
  try dsimp -zeta only [State.fold_idleStep_idleFig_step_sync_tier]
  repeat' first
    | with_reducible assumption
    | with_reducible exact Does.rfl' _ _
    | (extract_lets +onlyGivenNames X_; refine Does.cut X_ ?_ ?_; (on_goal 2 => (intro _; clear_value X_)); (on_goal 1 => (dsimp -zeta only [X_]; clear X_)))
    | (extract_lets +onlyGivenNames X_; refine Does.cutOf (Prod.fst (α := State)) X_ ?_ ?_; (on_goal 2 => (intro _; clear_value X_)); (on_goal 1 => (dsimp -zeta only [X_]; clear X_)))
    | extract_lets +onlyGivenNames X_
    | with_reducible apply Does.setPhase
    | with_reducible apply Does.set
    | with_reducible apply State.advance_does
    | with_reducible apply State.applyLeader_does
    | with_reducible apply State.applyVerdict_does
    | with_reducible apply State.beginRounds_does
    | with_reducible apply State.drainTest_does
    | with_reducible apply State.freeStash_does
    | with_reducible apply State.heldBindOff_does
    | with_reducible apply State.raiseBoundary_does
    | with_reducible apply State.releaseFlag_does
    | with_reducible apply State.returnLeftPace_does
    | with_reducible apply State.snapshot_does
    | with_reducible apply State.wipeAccs_does
    | with_reducible exact ok_STEP_NUMBER_VALUE (by decide)
    | with_reducible apply okField_ite
    | (with_reducible show Nat.testBit _ _ = true; decide)
    | (with_reducible show subMask _ _ = true; decide)
    | (with_reducible show _ ≤ 9; decide)
    | (intro _ _ _; beta_reduce)
    | with_reducible apply Does.ite
    | split
    | with_reducible apply Does.upd_idleStep_idleFig_step_sync_tier
    | ((with_reducible show StepSt.prevPhase _ = StepSt.prevPhase _); rfl)
    | apply Does.ite
    | dsimp -zeta only
    | refine Does.sndOf (by assumption) ?_
    | refine Does.fstOf (by assumption) ?_
    | (generalize ‹Option _› = w_; split)
    | (generalize ‹List _› = w_; split)

theorem execAgreementRound_does (flagIn : Bool) (s : State) (τ : State) (hδ : execAgreementRound flagIn s = .next τ) : Does 2265448464 s τ := by
  unfold execAgreementRound at hδ
  obtain rfl := Host.Outcome.next.inj hδ
  clear hδ
  try dsimp -zeta only [State.fold_flagOut_flagIn_step]
  repeat' first
    | with_reducible assumption
    | with_reducible exact Does.rfl' _ _
    | (extract_lets +onlyGivenNames X_; refine Does.cut X_ ?_ ?_; (on_goal 2 => (intro _; clear_value X_)); (on_goal 1 => (dsimp -zeta only [X_]; clear X_)))
    | (extract_lets +onlyGivenNames X_; refine Does.cutOf (Prod.fst (α := State)) X_ ?_ ?_; (on_goal 2 => (intro _; clear_value X_)); (on_goal 1 => (dsimp -zeta only [X_]; clear X_)))
    | extract_lets +onlyGivenNames X_
    | with_reducible apply State.advance_does
    | with_reducible apply okField_ite
    | (with_reducible show Nat.testBit _ _ = true; decide)
    | (with_reducible show subMask _ _ = true; decide)
    | (intro _ _ _; beta_reduce)
    | with_reducible apply Does.ite
    | split
    | with_reducible apply Does.upd_flagOut_flagIn_step
    | ((with_reducible show StepSt.prevPhase _ = StepSt.prevPhase _); rfl)
    | apply Does.ite
    | dsimp -zeta only
    | refine Does.sndOf (by assumption) ?_
    | refine Does.fstOf (by assumption) ?_
    | (generalize ‹Option _› = w_; split)
    | (generalize ‹List _› = w_; split)

theorem State.auditLedger_does {μ : Nat} {σ : State} (s : State) (k : Nat) (hμ : subMask 2684379136 μ = true) (hδ : Does μ σ s) :
    Does μ σ (State.auditLedger s k) := by
  refine Does.after (a := 2684379136) ?_ hμ hδ
  clear hδ hμ
  unfold State.auditLedger
  try dsimp -zeta only [State.fold_step]
  repeat' first
    | with_reducible assumption
    | with_reducible exact Does.rfl' _ _
    | extract_lets +onlyGivenNames X_
    | with_reducible apply Does.set
    | with_reducible apply State.logEv_does
    | with_reducible apply Does.foldl
    | with_reducible apply Does.foldlFst
    | with_reducible exact ok_LEDGER_LAST_MOVED _ (by decide)
    | with_reducible exact ok_LEDGER_LAST_DIFF _ (by decide)
    | with_reducible exact ok_LEDGER_STATUS_MISMATCH (by decide)
    | with_reducible apply okField_ite
    | (with_reducible show Nat.testBit _ _ = true; decide)
    | (with_reducible show subMask _ _ = true; decide)
    | (intro _ _ _; beta_reduce)
    | with_reducible apply Does.ite
    | split
    | with_reducible apply Does.upd_step
    | ((with_reducible show StepSt.prevPhase _ = StepSt.prevPhase _); rfl)
    | apply Does.ite
    | dsimp -zeta only
    | refine Does.sndOf (by assumption) ?_
    | refine Does.fstOf (by assumption) ?_
    | (generalize ‹Option _› = w_; split)
    | (generalize ‹List _› = w_; split)

theorem State.logHold_does {μ : Nat} {σ : State} (s : State) (cause : Nat) (hμ : subMask 536895488 μ = true) (hδ : Does μ σ s) :
    Does μ σ (State.logHold s cause) := by
  refine Does.after (a := 536895488) ?_ hμ hδ
  clear hδ hμ
  unfold State.logHold
  repeat' first
    | with_reducible assumption
    | with_reducible exact Does.rfl' _ _
    | (extract_lets +onlyGivenNames X_; refine Does.cut X_ ?_ ?_; (on_goal 2 => (intro _; clear_value X_)); (on_goal 1 => (dsimp -zeta only [X_]; clear X_)))
    | (extract_lets +onlyGivenNames X_; refine Does.cutOf (Prod.fst (α := State)) X_ ?_ ?_; (on_goal 2 => (intro _; clear_value X_)); (on_goal 1 => (dsimp -zeta only [X_]; clear X_)))
    | extract_lets +onlyGivenNames X_
    | with_reducible apply State.logEv_does
    | with_reducible apply okField_ite
    | (with_reducible show Nat.testBit _ _ = true; decide)
    | (with_reducible show subMask _ _ = true; decide)
    | (intro _ _ _; beta_reduce)
    | with_reducible apply Does.ite
    | split
    | apply Does.ite
    | dsimp -zeta only
    | refine Does.sndOf (by assumption) ?_
    | refine Does.fstOf (by assumption) ?_

theorem execLedgerAudit_does (s : State) (τ : State) (hδ : execLedgerAudit s = .next τ) : Does 2756207124 s τ := by
  unfold execLedgerAudit at hδ
  obtain rfl := Host.Outcome.next.inj hδ
  clear hδ
  try dsimp -zeta only [State.fold_step]
  repeat' first
    | with_reducible assumption
    | with_reducible exact Does.rfl' _ _
    | (extract_lets +onlyGivenNames X_; refine Does.cut X_ ?_ ?_; (on_goal 2 => (intro _; clear_value X_)); (on_goal 1 => (dsimp -zeta only [X_]; clear X_)))
    | (extract_lets +onlyGivenNames X_; refine Does.cutOf (Prod.fst (α := State)) X_ ?_ ?_; (on_goal 2 => (intro _; clear_value X_)); (on_goal 1 => (dsimp -zeta only [X_]; clear X_)))
    | extract_lets +onlyGivenNames X_
    | with_reducible apply Does.set
    | with_reducible apply State.advance_does
    | with_reducible apply State.auditLedger_does
    | with_reducible apply State.enterHold_does
    | with_reducible apply State.logHold_does
    | with_reducible apply Does.forEach
    | with_reducible exact ok_LEDGER_STATUS_MISMATCH (by decide)
    | with_reducible exact ok_LEDGER_STATUS_SWATCH (by decide)
    | with_reducible exact ok_LEDGER_STATUS_AT_STEP (by decide)
    | with_reducible exact ok_LEDGER_STATUS_LAST_STATUS (by decide)
    | with_reducible exact ok_FAULT_STATUS_LAST_STATUS (by decide)
    | with_reducible apply okField_ite
    | (with_reducible show Nat.testBit _ _ = true; decide)
    | (with_reducible show subMask _ _ = true; decide)
    | (intro _ _ _; beta_reduce)
    | with_reducible apply Does.ite
    | split
    | with_reducible apply Does.upd_step
    | ((with_reducible show StepSt.prevPhase _ = StepSt.prevPhase _); rfl)
    | apply Does.ite
    | dsimp -zeta only
    | refine Does.sndOf (by assumption) ?_
    | refine Does.fstOf (by assumption) ?_

theorem State.stashFigures_does {m : Nat} {s₀ : State} (s : State) (c : Chart) (hm : subMask 536895504 m = true) (h : Does m s₀ s) :
    Does m s₀ (s.stashFigures c) := by
  refine Does.after (a := 536895504) ?_ hm h
  unfold State.stashFigures
  have h1 : Does 536895504 s { s with regs := s.regs.filter (fun (p : Nat × Nat) => decide (p.1 < 0x90000 * 64 ∨ 0xA0000 * 64 ≤ p.1)) } := by
    refine Does.filterRegs s (fun k => decide (k < 0x90000 * 64 ∨ 0xA0000 * 64 ≤ k)) 16 ?_ (by decide) (Does.rfl' _ _)
    intro f hf
    by_contra hg
    simp only [decide_eq_true_eq, not_or, not_le, not_lt] at hg
    have e : f.blk = 4 := blockOf_between (a := 0x90000) (b := 0xA0000) (by omega) (by omega) (by decide) (by decide)
    rw [e] at hf
    exact absurd hf (by decide)
  generalize ({ s with regs := s.regs.filter (fun (p : Nat × Nat) => decide (p.1 < 0x90000 * 64 ∨ 0xA0000 * 64 ≤ p.1)) } : State) = s' at h1 ⊢
  repeat' first
    | (extract_lets +onlyGivenNames X_; refine Does.cut X_ ?_ ?_; (on_goal 2 => (intro _; clear_value X_)); (on_goal 1 => (dsimp -zeta only [X_]; clear X_)))
    | (extract_lets +onlyGivenNames X_; refine Does.cutOf (Prod.fst (α := State)) X_ ?_ ?_; (on_goal 2 => (intro _; clear_value X_)); (on_goal 1 => (dsimp -zeta only [X_]; clear X_)))
    | extract_lets +onlyGivenNames X_
    | with_reducible assumption
    | with_reducible exact Does.rfl' _ _
    | with_reducible apply Does.set
    | with_reducible apply State.logEv_does
    | with_reducible apply Does.foldl
    | with_reducible apply Does.foldlOf Got.st
    | with_reducible apply Does.foldlFst
    | with_reducible exact ok_STEP_STASH_SIZE_STATE _ (by decide)
    | with_reducible exact ok_STEP_STASH_SIZE_MB _ (by decide)
    | with_reducible exact ok_STEP_STASH_SIZE_SIZE _ (by decide)
    | with_reducible exact ok_STEP_STASH_SEL_NVAR_M1 (by decide)
    | with_reducible exact ok_STEP_STASH_SEL_MARGIN (by decide)
    | with_reducible exact ok_STEP_STASH_SEL_AT_STEP (by decide)
    | with_reducible exact ok_STEP_STASH_SEL_ROUNDS (by decide)
    | with_reducible exact ok_STEP_STASH_SEL_SOURCE (by decide)
    | with_reducible exact ok_STEP_STASH_SEL_WISH (by decide)
    | with_reducible exact ok_STEP_STASH_SEL_AGREED (by decide)
    | with_reducible exact ok_STEP_STASH_SEL_CLAMPED (by decide)
    | with_reducible exact ok_STEP_STASH_EVENTS_OVERFLOWS (by decide)
    | with_reducible exact ok_STEP_STASH_EVENTS_SPILLS (by decide)
    | with_reducible exact ok_STEP_SPILL_BYTES_VALUE (by decide)
    | with_reducible exact ok_STEP_STASH_PEAK_HBM_VALUE (by decide)
    | with_reducible exact ok_STEP_STASH_PEAK_ONDIE_VALUE (by decide)
    | with_reducible exact ok_STEP_STASH_PEAK_HOST_VALUE (by decide)
    | with_reducible exact ok_STEP_STASH_PEAK_NEIGHBOUR_VALUE (by decide)
    | with_reducible apply okField_ite
    | (with_reducible show Nat.testBit _ _ = true; decide)
    | (with_reducible show subMask _ _ = true; decide)
    | (intro _ _ _; beta_reduce)
    | with_reducible apply Does.ite
    | split
    | apply Does.ite

theorem State.tensionFigures_does {μ : Nat} {σ : State} (s : State) (hμ : subMask 2281832448 μ = true) (hδ : Does μ σ s) :
    Does μ σ (State.tensionFigures s) := by
  refine Does.after (a := 2281832448) ?_ hμ hδ
  clear hδ hμ
  unfold State.tensionFigures
  try dsimp -zeta only [State.fold_tens_tensPeak, State.fold_step]
  repeat' first
    | with_reducible assumption
    | with_reducible exact Does.rfl' _ _
    | extract_lets +onlyGivenNames X_
    | with_reducible apply Does.set
    | with_reducible apply Does.forEach
    | with_reducible exact ok_TENSION_LAST_COUNT _ (by decide)
    | with_reducible exact ok_TENSION_CUM_COUNT _ (by decide)
    | with_reducible exact ok_TENSION_PEAK_UNMET _ (by decide)
    | with_reducible exact ok_TENSION_PEAK_ROUND _ (by decide)
    | with_reducible exact ok_TENSION_CTRL_AT_STEP (by decide)
    | with_reducible exact ok_TENSION_CTRL_CLEAR_PENDING (by decide)
    | with_reducible apply okField_ite
    | (with_reducible show Nat.testBit _ _ = true; decide)
    | (with_reducible show subMask _ _ = true; decide)
    | (intro _ _ _; beta_reduce)
    | with_reducible apply Does.ite
    | split
    | with_reducible apply Does.upd_tens_tensPeak
    | with_reducible apply Does.upd_step
    | ((with_reducible show StepSt.prevPhase _ = StepSt.prevPhase _); rfl)
    | apply Does.ite
    | dsimp -zeta only
    | refine Does.sndOf (by assumption) ?_
    | refine Does.fstOf (by assumption) ?_

theorem State.idleFigures_does {μ : Nat} {σ : State} (s : State) (hμ : subMask 2214658048 μ = true) (hδ : Does μ σ s) :
    Does μ σ (State.idleFigures s) := by
  refine Does.after (a := 2214658048) ?_ hμ hδ
  clear hδ hμ
  unfold State.idleFigures
  try dsimp -zeta only [State.fold_step]
  repeat' first
    | with_reducible assumption
    | with_reducible exact Does.rfl' _ _
    | extract_lets +onlyGivenNames X_
    | with_reducible apply Does.set
    | with_reducible apply State.flushIdle_does
    | with_reducible apply Does.forEach
    | with_reducible exact ok_IDLE_LAST_TICKS _ (by decide)
    | with_reducible exact ok_IDLE_CTRL_AT_STEP (by decide)
    | with_reducible exact ok_IDLE_CUM_TICKS _ (by decide)
    | with_reducible exact ok_IDLE_CTRL_CLEAR_PENDING (by decide)
    | with_reducible apply okField_ite
    | (with_reducible show Nat.testBit _ _ = true; decide)
    | (with_reducible show subMask _ _ = true; decide)
    | (intro _ _ _; beta_reduce)
    | with_reducible apply Does.ite
    | split
    | with_reducible apply Does.upd_step
    | ((with_reducible show StepSt.prevPhase _ = StepSt.prevPhase _); rfl)
    | apply Does.ite
    | dsimp -zeta only
    | refine Does.sndOf (by assumption) ?_
    | refine Does.fstOf (by assumption) ?_

theorem State.writeFigures_does {μ : Nat} {σ : State} (s : State) (hμ : subMask 35187258024208 μ = true) (hδ : Does μ σ s) :
    Does μ σ (State.writeFigures s) := by
  refine Does.after (a := 35187258024208) ?_ hμ hδ
  clear hδ hμ
  unfold State.writeFigures
  try dsimp -zeta only [State.fold_step]
  repeat' first
    | with_reducible assumption
    | with_reducible exact Does.rfl' _ _
    | (extract_lets +onlyGivenNames X_; refine Does.cut X_ ?_ ?_; (on_goal 2 => (intro _; clear_value X_)); (on_goal 1 => (dsimp -zeta only [X_]; clear X_)))
    | (extract_lets +onlyGivenNames X_; refine Does.cutOf (Prod.fst (α := State)) X_ ?_ ?_; (on_goal 2 => (intro _; clear_value X_)); (on_goal 1 => (dsimp -zeta only [X_]; clear X_)))
    | extract_lets +onlyGivenNames X_
    | with_reducible apply Does.set
    | with_reducible apply State.gaugeBoundary_does
    | with_reducible apply State.idleFigures_does
    | with_reducible apply State.stashFigures_does
    | with_reducible apply State.tensionFigures_does
    | with_reducible exact ok_FTL_STEP_SHADOW_UNITS (by decide)
    | with_reducible exact ok_FTL_STEP_RETRIES (by decide)
    | with_reducible exact ok_FTL_STEP_UNCORRECTABLE (by decide)
    | with_reducible exact ok_STEP_UPDATE_OVERFLOWS (by decide)
    | with_reducible apply okField_ite
    | (with_reducible show Nat.testBit _ _ = true; decide)
    | (with_reducible show subMask _ _ = true; decide)
    | (intro _ _ _; beta_reduce)
    | with_reducible apply Does.ite
    | split
    | with_reducible apply Does.upd_step
    | ((with_reducible show StepSt.prevPhase _ = StepSt.prevPhase _); rfl)
    | apply Does.ite
    | dsimp -zeta only
    | refine Does.sndOf (by assumption) ?_
    | refine Does.fstOf (by assumption) ?_
    | (generalize ‹Option _› = w_; split)
    | (generalize ‹List _› = w_; split)

theorem State.boundaryInstall_does {μ : Nat} {σ : State} (s : State) (hμ : subMask 47197067671548 μ = true) (hδ : Does μ σ s) :
    Does μ σ (State.boundaryInstall s) := by
  refine Does.after (a := 47197067671548) ?_ hμ hδ
  clear hδ hμ
  unfold State.boundaryInstall
  repeat' first
    | with_reducible assumption
    | with_reducible exact Does.rfl' _ _
    | (extract_lets +onlyGivenNames X_; refine Does.cut X_ ?_ ?_; (on_goal 2 => (intro _; clear_value X_)); (on_goal 1 => (dsimp -zeta only [X_]; clear X_)))
    | (extract_lets +onlyGivenNames X_; refine Does.cutOf (Prod.fst (α := State)) X_ ?_ ?_; (on_goal 2 => (intro _; clear_value X_)); (on_goal 1 => (dsimp -zeta only [X_]; clear X_)))
    | extract_lets +onlyGivenNames X_
    | with_reducible apply State.installDue_does
    | with_reducible apply State.unitBoundary_does
    | with_reducible apply State.writeFigures_does
    | with_reducible apply okField_ite
    | (with_reducible show Nat.testBit _ _ = true; decide)
    | (with_reducible show subMask _ _ = true; decide)
    | (intro _ _ _; beta_reduce)
    | with_reducible apply Does.ite
    | split
    | apply Does.ite
    | dsimp -zeta only
    | refine Does.sndOf (by assumption) ?_
    | refine Does.fstOf (by assumption) ?_

theorem State.chooseVariant_does {μ : Nat} {σ : State} (s : State) (c : Chart) (n : Nat) (hμ : subMask 1073741848 μ = true) (hδ : Does μ σ s) :
    Does μ σ (State.chooseVariant s c n) := by
  refine Does.after (a := 1073741848) ?_ hμ hδ
  clear hδ hμ
  unfold State.chooseVariant
  try dsimp -zeta only [State.fold_chart]
  repeat' first
    | with_reducible assumption
    | with_reducible exact Does.rfl' _ _
    | (extract_lets +onlyGivenNames X_; refine Does.cut X_ ?_ ?_; (on_goal 2 => (intro _; clear_value X_)); (on_goal 1 => (dsimp -zeta only [X_]; clear X_)))
    | (extract_lets +onlyGivenNames X_; refine Does.cutOf (Prod.fst (α := State)) X_ ?_ ?_; (on_goal 2 => (intro _; clear_value X_)); (on_goal 1 => (dsimp -zeta only [X_]; clear X_)))
    | extract_lets +onlyGivenNames X_
    | with_reducible apply Does.set
    | with_reducible exact ok_STEP_STATUS_NEXT_VARIANT (by decide)
    | with_reducible exact ok_CHART_VARIANT_OUTCOME (by decide)
    | with_reducible apply okField_ite
    | (with_reducible show Nat.testBit _ _ = true; decide)
    | (with_reducible show subMask _ _ = true; decide)
    | (intro _ _ _; beta_reduce)
    | with_reducible apply Does.ite
    | split
    | with_reducible apply Does.upd_chart
    | apply Does.ite
    | dsimp -zeta only
    | refine Does.sndOf (by assumption) ?_
    | refine Does.fstOf (by assumption) ?_
    | (generalize ‹Option _› = w_; split)
    | (generalize ‹List _› = w_; split)

theorem State.holdRequests_does {μ : Nat} {σ : State} (s : State) (n : Nat) (hμ : subMask 12012494022652 μ = true) (hδ : Does μ σ s) :
    Does μ σ (State.holdRequests s n) := by
  refine Does.after (a := 12012494022652) ?_ hμ hδ
  clear hδ hμ
  unfold State.holdRequests
  try dsimp -zeta only [State.fold_chart, State.fold_step]
  repeat' first
    | with_reducible assumption
    | with_reducible exact Does.rfl' _ _
    | (extract_lets +onlyGivenNames X_; refine Does.cut X_ ?_ ?_; (on_goal 2 => (intro _; clear_value X_)); (on_goal 1 => (dsimp -zeta only [X_]; clear X_)))
    | (extract_lets +onlyGivenNames X_; refine Does.cutOf (Prod.fst (α := State)) X_ ?_ ?_; (on_goal 2 => (intro _; clear_value X_)); (on_goal 1 => (dsimp -zeta only [X_]; clear X_)))
    | extract_lets +onlyGivenNames X_
    | with_reducible apply Does.set
    | with_reducible apply State.installDue_does
    | with_reducible exact ok_STEP_SWATCH_AT_STEP (by decide)
    | with_reducible exact ok_CHART_COMMIT_APPLY_AT_STEP (by decide)
    | with_reducible apply okField_ite
    | (with_reducible show Nat.testBit _ _ = true; decide)
    | (with_reducible show subMask _ _ = true; decide)
    | (intro _ _ _; beta_reduce)
    | with_reducible apply Does.ite
    | split
    | with_reducible apply Does.upd_chart
    | with_reducible apply Does.upd_step
    | ((with_reducible show StepSt.prevPhase _ = StepSt.prevPhase _); rfl)
    | apply Does.ite
    | dsimp -zeta only
    | refine Does.sndOf (by assumption) ?_
    | refine Does.fstOf (by assumption) ?_

theorem State.goOn_does {μ : Nat} {σ : State} (s : State) (n : Nat) (hμ : subMask 2147483668 μ = true) (hδ : Does μ σ s) :
    Does μ σ (State.goOn s n) := by
  refine Does.after (a := 2147483668) ?_ hμ hδ
  clear hδ hμ
  unfold State.goOn
  try dsimp -zeta only [State.fold_step]
  repeat' first
    | with_reducible assumption
    | with_reducible exact Does.rfl' _ _
    | (extract_lets +onlyGivenNames X_; refine Does.cut X_ ?_ ?_; (on_goal 2 => (intro _; clear_value X_)); (on_goal 1 => (dsimp -zeta only [X_]; clear X_)))
    | (extract_lets +onlyGivenNames X_; refine Does.cutOf (Prod.fst (α := State)) X_ ?_ ?_; (on_goal 2 => (intro _; clear_value X_)); (on_goal 1 => (dsimp -zeta only [X_]; clear X_)))
    | extract_lets +onlyGivenNames X_
    | with_reducible apply Does.set
    | with_reducible apply State.planSwitch_does
    | with_reducible apply State.showPending_does
    | with_reducible exact ok_STEP_NEXT_CASTON_VALUE (by decide)
    | with_reducible apply okField_ite
    | (with_reducible show Nat.testBit _ _ = true; decide)
    | (with_reducible show subMask _ _ = true; decide)
    | (intro _ _ _; beta_reduce)
    | with_reducible apply Does.ite
    | split
    | with_reducible apply Does.upd_step
    | ((with_reducible show StepSt.prevPhase _ = StepSt.prevPhase _); rfl)
    | apply Does.ite
    | dsimp -zeta only
    | refine Does.sndOf (by assumption) ?_
    | refine Does.fstOf (by assumption) ?_
    | (generalize ‹Option _› = w_; split)
    | (generalize ‹List _› = w_; split)

theorem execBoundaryDecisions_does (s : State) (τ : State) (hδ : execBoundaryDecisions s = .next τ) : Does 47197068195836 s τ := by
  unfold execBoundaryDecisions at hδ
  obtain rfl := Host.Outcome.next.inj hδ
  clear hδ
  try dsimp -zeta only [State.fold_step]
  repeat' first
    | with_reducible assumption
    | with_reducible exact Does.rfl' _ _
    | (extract_lets +onlyGivenNames X_; refine Does.cut X_ ?_ ?_; (on_goal 2 => (intro _; clear_value X_)); (on_goal 1 => (dsimp -zeta only [X_]; clear X_)))
    | (extract_lets +onlyGivenNames X_; refine Does.cutOf (Prod.fst (α := State)) X_ ?_ ?_; (on_goal 2 => (intro _; clear_value X_)); (on_goal 1 => (dsimp -zeta only [X_]; clear X_)))
    | extract_lets +onlyGivenNames X_
    | with_reducible apply Does.set
    | with_reducible apply State.advance_does
    | with_reducible apply State.boundaryInstall_does
    | with_reducible apply State.chooseVariant_does
    | with_reducible apply State.enterHold_does
    | with_reducible apply State.fixRebase_does
    | with_reducible apply State.goOn_does
    | with_reducible apply State.holdRequests_does
    | with_reducible apply State.logHold_does
    | with_reducible apply State.showWakes_does
    | with_reducible apply State.writeScale_does
    | with_reducible apply Does.foldl
    | with_reducible apply Does.foldlFst
    | with_reducible exact ok_STEP_CTRL_STOP_PENDING (by decide)
    | with_reducible exact ok_PWR_STATE_LAST_CAUSE (by decide)
    | with_reducible apply okField_ite
    | (with_reducible show Nat.testBit _ _ = true; decide)
    | (with_reducible show subMask _ _ = true; decide)
    | (intro _ _ _; beta_reduce)
    | with_reducible apply Does.ite
    | split
    | with_reducible apply Does.upd_step
    | ((with_reducible show StepSt.prevPhase _ = StepSt.prevPhase _); rfl)
    | apply Does.ite
    | dsimp -zeta only
    | refine Does.sndOf (by assumption) ?_
    | refine Does.fstOf (by assumption) ?_
    | (generalize ‹Option _› = w_; split)
    | (generalize ‹List _› = w_; split)

theorem execChartInstall_does (s : State) (τ : State) (hδ : execChartInstall s = .next τ) : Does 47197068195836 s τ := by
  unfold execChartInstall at hδ
  obtain rfl := Host.Outcome.next.inj hδ
  clear hδ
  repeat' first
    | with_reducible assumption
    | with_reducible exact Does.rfl' _ _
    | (extract_lets +onlyGivenNames X_; refine Does.cut X_ ?_ ?_; (on_goal 2 => (intro _; clear_value X_)); (on_goal 1 => (dsimp -zeta only [X_]; clear X_)))
    | (extract_lets +onlyGivenNames X_; refine Does.cutOf (Prod.fst (α := State)) X_ ?_ ?_; (on_goal 2 => (intro _; clear_value X_)); (on_goal 1 => (dsimp -zeta only [X_]; clear X_)))
    | extract_lets +onlyGivenNames X_
    | with_reducible apply State.advance_does
    | with_reducible apply State.boundaryInstall_does
    | with_reducible apply okField_ite
    | (with_reducible show Nat.testBit _ _ = true; decide)
    | (with_reducible show subMask _ _ = true; decide)
    | (intro _ _ _; beta_reduce)
    | with_reducible apply Does.ite
    | split
    | apply Does.ite
    | dsimp -zeta only
    | refine Does.sndOf (by assumption) ?_
    | refine Does.fstOf (by assumption) ?_

end Sys2Proof.Machine
end

