-- ==== Sys2Proof/Laws/FChartCheck4.lean ====
section
/-! SUPPORT. Laws/FChartCheck4.lean: what every operation of Machine/ChartCheck4.lean leaves alone (see Laws/Frame.lean). -/

set_option linter.unreachableTactic false
set_option linter.unusedTactic false
set_option linter.tactic.unusedName false

namespace Sys2Proof.Machine

theorem State.loadInvalid_does {μ : Nat} {σ : State} (s : State) (c : Chart) (rule sec off : Nat) (hμ : subMask 536895496 μ = true) (hδ : Does μ σ s) :
    Does μ σ (State.loadInvalid s c rule sec off) := by
  refine Does.after (a := 536895496) ?_ hμ hδ
  clear hδ hμ
  unfold State.loadInvalid
  repeat' first
    | with_reducible assumption
    | with_reducible exact Does.rfl' _ _
    | (extract_lets +onlyGivenNames X_; refine Does.cut X_ ?_ ?_; (on_goal 2 => (intro _; clear_value X_)); (on_goal 1 => (dsimp -zeta only [X_]; clear X_)))
    | (extract_lets +onlyGivenNames X_; refine Does.cutOf (Prod.fst (α := State)) X_ ?_ ?_; (on_goal 2 => (intro _; clear_value X_)); (on_goal 1 => (dsimp -zeta only [X_]; clear X_)))
    | extract_lets +onlyGivenNames X_
    | with_reducible apply Does.set
    | with_reducible apply State.logEv_does
    | with_reducible exact ok_CHART_LOAD_STATUS_STATE (by decide)
    | with_reducible exact ok_CHART_LOAD_STATUS_RULE (by decide)
    | with_reducible exact ok_CHART_LOAD_STATUS_SECTION (by decide)
    | with_reducible exact ok_CHART_LOAD_STATUS_OFFSET (by decide)
    | with_reducible exact ok_CHART_LOAD_STATUS_STATUS (by decide)
    | with_reducible apply okField_ite
    | (with_reducible show Nat.testBit _ _ = true; decide)
    | (with_reducible show subMask _ _ = true; decide)
    | (intro _ _ _; beta_reduce)
    | with_reducible apply Does.ite
    | split
    | apply Does.ite
    | dsimp -zeta only
    | refine Does.sndOf (by assumption) ?_
    | refine Does.fstOf (by assumption) ?_

theorem execChartValidationDone_does (s : State) (τ : State) (hδ : execChartValidationDone s = .next τ) : Does 1614831628 s τ := by
  unfold execChartValidationDone at hδ
  obtain rfl := Host.Outcome.next.inj hδ
  clear hδ
  try dsimp -zeta only [State.fold_chart]
  repeat' first
    | with_reducible assumption
    | with_reducible exact Does.rfl' _ _
    | (extract_lets +onlyGivenNames X_; refine Does.cut X_ ?_ ?_; (on_goal 2 => (intro _; clear_value X_)); (on_goal 1 => (dsimp -zeta only [X_]; clear X_)))
    | (extract_lets +onlyGivenNames X_; refine Does.cutOf (Prod.fst (α := State)) X_ ?_ ?_; (on_goal 2 => (intro _; clear_value X_)); (on_goal 1 => (dsimp -zeta only [X_]; clear X_)))
    | extract_lets +onlyGivenNames X_
    | with_reducible apply Does.set
    | with_reducible apply State.avs_does
    | with_reducible apply State.loadInvalid_does
    | with_reducible apply State.showStaged_does
    | with_reducible exact ok_CHART_LOAD_STATUS_STATE (by decide)
    | with_reducible exact ok_CHART_LOAD_STATUS_STATUS (by decide)
    | with_reducible apply okField_ite
    | (with_reducible show Nat.testBit _ _ = true; decide)
    | (with_reducible show subMask _ _ = true; decide)
    | (intro _ _ _; beta_reduce)
    | with_reducible apply Does.ite
    | split
    | with_reducible apply Does.upd_chart
    | apply Does.ite
    | dsimp -zeta only
    | refine Does.sndOf (by assumption) ?_
    | refine Does.fstOf (by assumption) ?_
    | (generalize ‹Option _› = w_; split)
    | (generalize ‹List _› = w_; split)

end Sys2Proof.Machine
end

