-- ==== Sys2Proof/Laws/FHostQ.lean ====
section
/-! SUPPORT. Laws/FHostQ.lean: what every operation of Machine/HostQ.lean leaves alone (see Laws/Frame.lean). -/

set_option linter.unreachableTactic false
set_option linter.unusedTactic false
set_option linter.tactic.unusedName false

namespace Sys2Proof.Machine

theorem State.queueRefuse_does {μ : Nat} {σ : State} (s : State) (q off st : Nat) (hμ : subMask 536895552 μ = true) (hδ : Does μ σ s) :
    Does μ σ (State.queueRefuse s q off st) := by
  refine Does.after (a := 536895552) ?_ hμ hδ
  clear hδ hμ
  unfold State.queueRefuse
  repeat' first
    | with_reducible assumption
    | with_reducible exact Does.rfl' _ _
    | (extract_lets +onlyGivenNames X_; refine Does.cut X_ ?_ ?_; (on_goal 2 => (intro _; clear_value X_)); (on_goal 1 => (dsimp -zeta only [X_]; clear X_)))
    | (extract_lets +onlyGivenNames X_; refine Does.cutOf (Prod.fst (α := State)) X_ ?_ ?_; (on_goal 2 => (intro _; clear_value X_)); (on_goal 1 => (dsimp -zeta only [X_]; clear X_)))
    | extract_lets +onlyGivenNames X_
    | with_reducible apply Does.set
    | with_reducible apply State.hqErr_does
    | with_reducible apply State.refuse_does
    | with_reducible exact ok_HQ_ERR_QUEUE (by decide)
    | with_reducible exact ok_HQ_Q_STATUS_LAST_STATUS _ (by decide)
    | with_reducible apply okField_ite
    | (with_reducible show Nat.testBit _ _ = true; decide)
    | (with_reducible show subMask _ _ = true; decide)
    | (intro _ _ _; beta_reduce)
    | with_reducible apply Does.ite
    | split
    | apply Does.ite
    | dsimp -zeta only
    | refine Does.sndOf (by assumption) ?_
    | refine Does.fstOf (by assumption) ?_

theorem State.hostRead_does {μ : Nat} {σ : State} (s : State) (oa n : Nat) (hμ : subMask 292607254720 μ = true) (hδ : Does μ σ s) :
    Does μ σ (State.hostRead s oa n) := by
  refine Does.after (a := 292607254720) ?_ hμ hδ
  clear hδ hμ
  unfold State.hostRead
  repeat' first
    | with_reducible assumption
    | with_reducible exact Does.rfl' _ _
    | (extract_lets +onlyGivenNames X_; refine Does.cut X_ ?_ ?_; (on_goal 2 => (intro _; clear_value X_)); (on_goal 1 => (dsimp -zeta only [X_]; clear X_)))
    | (extract_lets +onlyGivenNames X_; refine Does.cutOf (Prod.fst (α := State)) X_ ?_ ?_; (on_goal 2 => (intro _; clear_value X_)); (on_goal 1 => (dsimp -zeta only [X_]; clear X_)))
    | (extract_lets +onlyGivenNames X_; refine Does.cutOf Got.st X_ ?_ ?_; (on_goal 2 => (intro _; clear_value X_)); (on_goal 1 => (dsimp -zeta only [X_]; clear X_)))
    | (extract_lets +onlyGivenNames X_; refine Does.cutOf (fun x => Got.st (Prod.fst x)) X_ ?_ ?_; (on_goal 2 => (intro _; clear_value X_)); (on_goal 1 => (dsimp -zeta only [X_]; clear X_)))
    | extract_lets +onlyGivenNames X_
    | with_reducible apply State.emit_does
    | with_reducible apply State.hostRefused_does
    | with_reducible apply State.noteRange_does
    | with_reducible apply State.readOA_does
    | with_reducible apply okField_ite
    | (with_reducible show Nat.testBit _ _ = true; decide)
    | (with_reducible show subMask _ _ = true; decide)
    | (intro _ _ _; beta_reduce)
    | with_reducible apply Does.ite
    | split
    | apply Does.ite
    | dsimp -zeta only
    | refine Does.sndOf (by assumption) ?_
    | refine Does.fstOf (by assumption) ?_

theorem State.hostWrite_does {μ : Nat} {σ : State} (s : State) (oa : Nat) (l : List MByte) (hμ : subMask 6924048294352 μ = true) (hδ : Does μ σ s) :
    Does μ σ (State.hostWrite s oa l) := by
  refine Does.after (a := 6924048294352) ?_ hμ hδ
  clear hδ hμ
  unfold State.hostWrite
  repeat' first
    | with_reducible assumption
    | with_reducible exact Does.rfl' _ _
    | (extract_lets +onlyGivenNames X_; refine Does.cut X_ ?_ ?_; (on_goal 2 => (intro _; clear_value X_)); (on_goal 1 => (dsimp -zeta only [X_]; clear X_)))
    | (extract_lets +onlyGivenNames X_; refine Does.cutOf (Prod.fst (α := State)) X_ ?_ ?_; (on_goal 2 => (intro _; clear_value X_)); (on_goal 1 => (dsimp -zeta only [X_]; clear X_)))
    | (extract_lets +onlyGivenNames X_; refine Does.cutOf Got.st X_ ?_ ?_; (on_goal 2 => (intro _; clear_value X_)); (on_goal 1 => (dsimp -zeta only [X_]; clear X_)))
    | (extract_lets +onlyGivenNames X_; refine Does.cutOf (fun x => Got.st (Prod.fst x)) X_ ?_ ?_; (on_goal 2 => (intro _; clear_value X_)); (on_goal 1 => (dsimp -zeta only [X_]; clear X_)))
    | extract_lets +onlyGivenNames X_
    | with_reducible apply State.hostRefused_does
    | with_reducible apply State.writeOA_does
    | with_reducible apply okField_ite
    | (with_reducible show Nat.testBit _ _ = true; decide)
    | (with_reducible show subMask _ _ = true; decide)
    | (intro _ _ _; beta_reduce)
    | with_reducible apply Does.ite
    | split
    | apply Does.ite
    | dsimp -zeta only
    | refine Does.sndOf (by assumption) ?_
    | refine Does.fstOf (by assumption) ?_

theorem State.revertOpen_does {m : Nat} {s₀ : State} (s : State) (n : Nat) (hm : subMask 2748779069472 m = true) (h : Does m s₀ s) :
    Does m s₀ (s.revertOpen n) := by
  refine Does.after (a := 2748779069472) ?_ hm h
  unfold State.revertOpen
  split
  · refine State.setSst_does _ _ _ _ (by decide) ?_
    refine Does.putCells (m := 2748779069472) _ _ (fun x => (0x100000 + 64 * (n % 16384)) * 64 + x % 4096) 5 ?_ (by decide) (by decide) (State.setStr_does _ _ _ (by decide) (State.loadImage_does _ _ _ (by decide) (Does.rfl' _ _)))
    intro x
    refine blockOf_between (a := 0x100000) (b := 0x1FFFFF) ?_ ?_ (by decide) (by decide) <;> omega
  · exact Does.rfl' _ _

theorem State.abandonQueue_does {μ : Nat} {σ : State} (s : State) (q : Nat) (hμ : subMask 2748779069472 μ = true) (hδ : Does μ σ s) :
    Does μ σ (State.abandonQueue s q) := by
  refine Does.after (a := 2748779069472) ?_ hμ hδ
  clear hδ hμ
  unfold State.abandonQueue
  try dsimp -zeta only [State.fold_host]
  repeat' first
    | with_reducible assumption
    | with_reducible exact Does.rfl' _ _
    | (extract_lets +onlyGivenNames X_; refine Does.cut X_ ?_ ?_; (on_goal 2 => (intro _; clear_value X_)); (on_goal 1 => (dsimp -zeta only [X_]; clear X_)))
    | (extract_lets +onlyGivenNames X_; refine Does.cutOf (Prod.fst (α := State)) X_ ?_ ?_; (on_goal 2 => (intro _; clear_value X_)); (on_goal 1 => (dsimp -zeta only [X_]; clear X_)))
    | extract_lets +onlyGivenNames X_
    | with_reducible apply State.revertOpen_does
    | with_reducible apply Does.foldl
    | with_reducible apply Does.foldlFst
    | with_reducible apply okField_ite
    | (with_reducible show Nat.testBit _ _ = true; decide)
    | (with_reducible show subMask _ _ = true; decide)
    | (intro _ _ _; beta_reduce)
    | with_reducible apply Does.ite
    | split
    | with_reducible apply Does.upd_host
    | apply Does.ite
    | dsimp -zeta only
    | refine Does.sndOf (by assumption) ?_
    | refine Does.fstOf (by assumption) ?_

theorem State.zeroQueue_does {μ : Nat} {σ : State} (s : State) (q : Nat) (hμ : subMask 2199023255616 μ = true) (hδ : Does μ σ s) :
    Does μ σ (State.zeroQueue s q) := by
  refine Does.after (a := 2199023255616) ?_ hμ hδ
  clear hδ hμ
  unfold State.zeroQueue
  try dsimp -zeta only [State.fold_host]
  repeat' first
    | with_reducible assumption
    | with_reducible exact Does.rfl' _ _
    | (extract_lets +onlyGivenNames X_; refine Does.cut X_ ?_ ?_; (on_goal 2 => (intro _; clear_value X_)); (on_goal 1 => (dsimp -zeta only [X_]; clear X_)))
    | (extract_lets +onlyGivenNames X_; refine Does.cutOf (Prod.fst (α := State)) X_ ?_ ?_; (on_goal 2 => (intro _; clear_value X_)); (on_goal 1 => (dsimp -zeta only [X_]; clear X_)))
    | extract_lets +onlyGivenNames X_
    | with_reducible apply Does.set
    | with_reducible exact ok_HQ_Q_STATUS_SQ_HEAD _ (by decide)
    | with_reducible exact ok_HQ_Q_STATUS_CQ_TAIL _ (by decide)
    | with_reducible exact ok_HQ_SQ_TAIL_TAIL _ (by decide)
    | with_reducible exact ok_HQ_CQ_HEAD_HEAD _ (by decide)
    | with_reducible apply okField_ite
    | (with_reducible show Nat.testBit _ _ = true; decide)
    | (with_reducible show subMask _ _ = true; decide)
    | (intro _ _ _; beta_reduce)
    | with_reducible apply Does.ite
    | split
    | with_reducible apply Does.upd_host
    | apply Does.ite
    | dsimp -zeta only
    | refine Does.sndOf (by assumption) ?_
    | refine Does.fstOf (by assumption) ?_

theorem State.writeQueue_does {μ : Nat} {σ : State} (s : State) (q k : Nat) (w : Wr) (hf : Nat.testBit μ (blockOf (0x200000 + 0x40 * q + 8 * k)) = true) (hμ : subMask 2783679897696 μ = true) (hδ : Does μ σ s) :
    Does μ σ (State.writeQueue s q k w) := by
  unfold State.writeQueue
  repeat' first
    | (extract_lets +onlyGivenNames X_; refine Does.cut X_ ?_ ?_; (on_goal 2 => (intro _; clear_value X_)); (on_goal 1 => (dsimp -zeta only [X_]; clear X_)))
    | (extract_lets +onlyGivenNames X_; refine Does.cutOf (Prod.fst (α := State)) X_ ?_ ?_; (on_goal 2 => (intro _; clear_value X_)); (on_goal 1 => (dsimp -zeta only [X_]; clear X_)))
    | extract_lets +onlyGivenNames X_
    | with_reducible assumption
    | with_reducible exact Does.rfl' _ _
    | with_reducible apply State.abandonQueue_does
    | with_reducible apply State.fetchSq_does
    | with_reducible apply State.flushCq_does
    | with_reducible apply State.queueRefuse_does
    | with_reducible apply State.regWrite_does
    | with_reducible apply State.zeroQueue_does
    | with_reducible apply okField_ite
    | exact testBit_all _ (by decide)
    | with_reducible exact testBit_mono (by decide) hμ
    | with_reducible exact subMask_trans (by decide) hμ
    | (intro _ _ _; beta_reduce)
    | with_reducible apply Does.ite
    | split
    | apply Does.ite
    | with_reducible exact hf _
    | with_reducible exact hf

theorem State.resetHq_does {m : Nat} {s₀ : State} (s : State) (hm : subMask 2199023255616 m = true) (h : Does m s₀ s) :
    Does m s₀ (s.resetHq) := by
  refine Does.after (a := 2199023255616) ?_ hm h
  unfold State.resetHq
  extract_lets keep x
  have hk : ∀ f : Fld, Nat.testBit 64 f.blk = false → keep f.key = true := ?_
  · exact Does.upd_host { s with regs := s.regs.filter (fun (c : Nat × Nat) => keep c.1) }
      { s.host with phases := List.replicate 64 1, fetched := List.replicate 64 0, taken := [], waiting := [] } (by decide)
      (Does.filterRegs s keep 64 hk (by decide) (Does.rfl' _ _))
  intro f hf
  by_contra hg
  simp only [keep, Bool.or_eq_true, not_or, decide_eq_true_eq, not_le, not_lt] at hg
  have e : f.blk = 6 := blockOf_between (a := 0x200000) (b := 0x218000) (by omega) (by omega) (by decide) (by decide)
  rw [e] at hf
  exact absurd hf (by decide)

theorem State.orphanHost_does {μ : Nat} {σ : State} (s : State) (n : Nat) (hμ : subMask 25272148586484 μ = true) (hδ : Does μ σ s) :
    Does μ σ (State.orphanHost s n) := by
  refine Does.after (a := 25272148586484) ?_ hμ hδ
  clear hδ hμ
  unfold State.orphanHost
  try dsimp -zeta only [State.fold_led]
  repeat' first
    | with_reducible assumption
    | with_reducible exact Does.rfl' _ _
    | (extract_lets +onlyGivenNames X_; refine Does.cut X_ ?_ ?_; (on_goal 2 => (intro _; clear_value X_)); (on_goal 1 => (dsimp -zeta only [X_]; clear X_)))
    | (extract_lets +onlyGivenNames X_; refine Does.cutOf (Prod.fst (α := State)) X_ ?_ ?_; (on_goal 2 => (intro _; clear_value X_)); (on_goal 1 => (dsimp -zeta only [X_]; clear X_)))
    | extract_lets +onlyGivenNames X_
    | with_reducible apply State.doneSeq_does
    | with_reducible apply State.dropSk_does
    | with_reducible apply State.give_does
    | with_reducible apply State.haltStr_does
    | with_reducible apply State.setStr_does
    | with_reducible apply Does.forEach
    | with_reducible apply okField_ite
    | (with_reducible show Nat.testBit _ _ = true; decide)
    | (with_reducible show subMask _ _ = true; decide)
    | (intro _ _ _; beta_reduce)
    | with_reducible apply Does.ite
    | split
    | with_reducible apply Does.upd_led
    | apply Does.ite
    | dsimp -zeta only
    | refine Does.sndOf (by assumption) ?_
    | refine Does.fstOf (by assumption) ?_
    | (generalize ‹Option _› = w_; split)
    | (generalize ‹List _› = w_; split)

theorem State.linkReset_does {μ : Nat} {σ : State} (s : State) (cause : Nat) (hμ : subMask 25272148586484 μ = true) (hδ : Does μ σ s) :
    Does μ σ (State.linkReset s cause) := by
  refine Does.after (a := 25272148586484) ?_ hμ hδ
  clear hδ hμ
  unfold State.linkReset
  try dsimp -zeta only [State.fold_host]
  repeat' first
    | with_reducible assumption
    | with_reducible exact Does.rfl' _ _
    | (extract_lets +onlyGivenNames X_; refine Does.cut X_ ?_ ?_; (on_goal 2 => (intro _; clear_value X_)); (on_goal 1 => (dsimp -zeta only [X_]; clear X_)))
    | (extract_lets +onlyGivenNames X_; refine Does.cutOf (Prod.fst (α := State)) X_ ?_ ?_; (on_goal 2 => (intro _; clear_value X_)); (on_goal 1 => (dsimp -zeta only [X_]; clear X_)))
    | extract_lets +onlyGivenNames X_
    | with_reducible apply Does.set
    | with_reducible apply Does.bump
    | with_reducible apply State.abandonQueue_does
    | with_reducible apply State.orphanHost_does
    | with_reducible apply State.resetHq_does
    | with_reducible apply Does.forEach
    | with_reducible exact ok_HQ_LINK_BME (by decide)
    | with_reducible exact ok_HQ_LINK_MSIX (by decide)
    | with_reducible exact ok_HQ_LINK_RO (by decide)
    | with_reducible exact ok_HQ_RESET_LOG_AT (by decide)
    | with_reducible exact ok_HQ_RESET_LOG_COUNT (by decide)
    | with_reducible exact ok_HQ_RESET_LOG_CAUSE (by decide)
    | with_reducible exact ok_HQ_RESET_LOG_ORPHANED (by decide)
    | with_reducible apply okField_ite
    | (with_reducible show Nat.testBit _ _ = true; decide)
    | (with_reducible show subMask _ _ = true; decide)
    | (intro _ _ _; beta_reduce)
    | with_reducible apply Does.ite
    | split
    | with_reducible apply Does.upd_host
    | apply Does.ite
    | dsimp -zeta only
    | refine Does.sndOf (by assumption) ?_
    | refine Does.fstOf (by assumption) ?_

theorem State.cxlRead_does {μ : Nat} {σ : State} (s : State) (oa : Nat) (hμ : subMask 292607254720 μ = true) (hδ : Does μ σ s) :
    Does μ σ (State.cxlRead s oa) := by
  refine Does.after (a := 292607254720) ?_ hμ hδ
  clear hδ hμ
  unfold State.cxlRead
  repeat' first
    | with_reducible assumption
    | with_reducible exact Does.rfl' _ _
    | (extract_lets +onlyGivenNames X_; refine Does.cut X_ ?_ ?_; (on_goal 2 => (intro _; clear_value X_)); (on_goal 1 => (dsimp -zeta only [X_]; clear X_)))
    | (extract_lets +onlyGivenNames X_; refine Does.cutOf (Prod.fst (α := State)) X_ ?_ ?_; (on_goal 2 => (intro _; clear_value X_)); (on_goal 1 => (dsimp -zeta only [X_]; clear X_)))
    | extract_lets +onlyGivenNames X_
    | with_reducible apply State.hostRead_does
    | with_reducible apply State.recordLine_does
    | with_reducible apply okField_ite
    | (with_reducible show Nat.testBit _ _ = true; decide)
    | (with_reducible show subMask _ _ = true; decide)
    | (intro _ _ _; beta_reduce)
    | with_reducible apply Does.ite
    | split
    | apply Does.ite
    | dsimp -zeta only
    | refine Does.sndOf (by assumption) ?_
    | refine Does.fstOf (by assumption) ?_
    | (generalize ‹Option _› = w_; split)
    | (generalize ‹List _› = w_; split)

theorem State.serveHostReq_does {μ : Nat} {σ : State} (s : State) (r : PeerReq) (hμ : subMask 6924056682960 μ = true) (hδ : Does μ σ s) :
    Does μ σ (State.serveHostReq s r) := by
  refine Does.after (a := 6924056682960) ?_ hμ hδ
  clear hδ hμ
  unfold State.serveHostReq
  repeat' first
    | with_reducible assumption
    | with_reducible exact Does.rfl' _ _
    | (extract_lets +onlyGivenNames X_; refine Does.cut X_ ?_ ?_; (on_goal 2 => (intro _; clear_value X_)); (on_goal 1 => (dsimp -zeta only [X_]; clear X_)))
    | (extract_lets +onlyGivenNames X_; refine Does.cutOf (Prod.fst (α := State)) X_ ?_ ?_; (on_goal 2 => (intro _; clear_value X_)); (on_goal 1 => (dsimp -zeta only [X_]; clear X_)))
    | extract_lets +onlyGivenNames X_
    | with_reducible apply State.atomicAt_does
    | with_reducible apply State.cxlRead_does
    | with_reducible apply State.emit_does
    | with_reducible apply State.hostRead_does
    | with_reducible apply State.hostWrite_does
    | with_reducible apply okField_ite
    | (with_reducible show Nat.testBit _ _ = true; decide)
    | (with_reducible show subMask _ _ = true; decide)
    | (intro _ _ _; beta_reduce)
    | with_reducible apply Does.ite
    | split
    | apply Does.ite
    | dsimp -zeta only
    | refine Does.sndOf (by assumption) ?_
    | refine Does.fstOf (by assumption) ?_

theorem State.linkDown_does {m : Nat} {s₀ : State} (s : State) (cause : Nat) (hm : subMask 25272156975092 m = true) (h : Does m s₀ s) :
    Does m s₀ (s.linkDown cause) := by
  refine Does.after (a := 25272156975092) ?_ hm h
  unfold State.linkDown
  extract_lets s1 s2 s3 gone
  have h3 : Does 25272156975092 s s3 :=
    Does.set _ _ _ (ok_HQ_LINK_CXL_MEM (by decide)) (Does.set _ _ _ (ok_HQ_LINK_FULL (by decide)) (Does.set _ _ _ (ok_HQ_LINK_MPS (by decide))
      (Does.set _ _ _ (ok_HQ_LINK_WIDTH (by decide)) (Does.set _ _ _ (ok_HQ_LINK_RATE (by decide)) (Does.set _ _ _ (ok_HQ_LINK_UP (by decide))
        (State.linkReset_does _ _ (by decide) (Does.foldl _ _ (Does.rfl' _ _) (fun v x hv => State.serveHostReq_does v x (by decide) hv))))))))
  clear_value s3
  have hk : ∀ f : Fld, Nat.testBit 192 f.blk = false → (!gone f.key) = true := ?_
  · exact Does.upd_tier_host { s3 with regs := s3.regs.filter (fun (c : Nat × Nat) => !gone c.1) }
      { s3.tier with lines := [], waitLine := [], peers := [] } { s3.host with reqs := [], heldOut := s3.host.heldOut.filter (fun (p : Nat × Sent) => decide (p.1 < tagStatus 0)) }
      (by decide) (Does.filterRegs s3 (fun k => !gone k) 192 hk (by decide) h3)
  intro f hf
  by_contra hg
  simp only [gone, Bool.not_eq_true', Bool.or_eq_false_iff, not_and_or, Bool.and_eq_false_iff, not_or, decide_eq_false_iff_not, not_le, not_lt] at hg
  rcases hg with ⟨a, b⟩ | ⟨a, b⟩
  · have e : f.blk = 6 := blockOf_between (a := 0x218000) (b := 0x228000) (by omega) (by omega) (by decide) (by decide)
    rw [e] at hf
    exact absurd hf (by decide)
  · have e : f.blk = 7 := blockOf_between (a := 0x310000) (b := 0x318000) (by omega) (by omega) (by decide) (by decide)
    rw [e] at hf
    exact absurd hf (by decide)

theorem State.farReported_does {μ : Nat} {σ : State} (s : State) (n : Nat) (hμ : subMask 536895584 μ = true) (hδ : Does μ σ s) :
    Does μ σ (State.farReported s n) := by
  refine Does.after (a := 536895584) ?_ hμ hδ
  clear hδ hμ
  unfold State.farReported
  repeat' first
    | with_reducible assumption
    | with_reducible exact Does.rfl' _ _
    | (extract_lets +onlyGivenNames X_; refine Does.cut X_ ?_ ?_; (on_goal 2 => (intro _; clear_value X_)); (on_goal 1 => (dsimp -zeta only [X_]; clear X_)))
    | (extract_lets +onlyGivenNames X_; refine Does.cutOf (Prod.fst (α := State)) X_ ?_ ?_; (on_goal 2 => (intro _; clear_value X_)); (on_goal 1 => (dsimp -zeta only [X_]; clear X_)))
    | extract_lets +onlyGivenNames X_
    | with_reducible apply Does.set
    | with_reducible apply Does.bump
    | with_reducible apply State.logEv_does
    | with_reducible apply State.strStatus_does
    | with_reducible exact ok_HQ_FAR_FAULT_STATUS (by decide)
    | with_reducible exact ok_HQ_FAR_FAULT_COUNT (by decide)
    | with_reducible apply okField_ite
    | (with_reducible show Nat.testBit _ _ = true; decide)
    | (with_reducible show subMask _ _ = true; decide)
    | (intro _ _ _; beta_reduce)
    | with_reducible apply Does.ite
    | split
    | apply Does.ite
    | dsimp -zeta only
    | refine Does.sndOf (by assumption) ?_
    | refine Does.fstOf (by assumption) ?_

theorem State.reportFar_does {μ : Nat} {σ : State} (s : State) (n : Nat) (hμ : subMask 553672816 μ = true) (hδ : Does μ σ s) :
    Does μ σ (State.reportFar s n) := by
  refine Does.after (a := 553672816) ?_ hμ hδ
  clear hδ hμ
  unfold State.reportFar
  repeat' first
    | with_reducible assumption
    | with_reducible exact Does.rfl' _ _
    | (extract_lets +onlyGivenNames X_; refine Does.cut X_ ?_ ?_; (on_goal 2 => (intro _; clear_value X_)); (on_goal 1 => (dsimp -zeta only [X_]; clear X_)))
    | (extract_lets +onlyGivenNames X_; refine Does.cutOf (Prod.fst (α := State)) X_ ?_ ?_; (on_goal 2 => (intro _; clear_value X_)); (on_goal 1 => (dsimp -zeta only [X_]; clear X_)))
    | extract_lets +onlyGivenNames X_
    | with_reducible apply State.farReported_does
    | with_reducible apply State.hqErr_does
    | with_reducible apply State.raiseFlag_does
    | with_reducible exact ok_HQ_ERR_FAR_FAULT (by decide)
    | with_reducible apply okField_ite
    | (with_reducible show Nat.testBit _ _ = true; decide)
    | (with_reducible show subMask _ _ = true; decide)
    | (intro _ _ _; beta_reduce)
    | with_reducible apply Does.ite
    | split
    | apply Does.ite
    | dsimp -zeta only
    | refine Does.sndOf (by assumption) ?_
    | refine Does.fstOf (by assumption) ?_

theorem State.writeFarFault_does {μ : Nat} {σ : State} (s : State) (w : Wr) (hμ : subMask 553672816 μ = true) (hδ : Does μ σ s) :
    Does μ σ (State.writeFarFault s w) := by
  refine Does.after (a := 553672816) ?_ hμ hδ
  clear hδ hμ
  unfold State.writeFarFault
  repeat' first
    | with_reducible assumption
    | with_reducible exact Does.rfl' _ _
    | (extract_lets +onlyGivenNames X_; refine Does.cut X_ ?_ ?_; (on_goal 2 => (intro _; clear_value X_)); (on_goal 1 => (dsimp -zeta only [X_]; clear X_)))
    | (extract_lets +onlyGivenNames X_; refine Does.cutOf (Prod.fst (α := State)) X_ ?_ ?_; (on_goal 2 => (intro _; clear_value X_)); (on_goal 1 => (dsimp -zeta only [X_]; clear X_)))
    | extract_lets +onlyGivenNames X_
    | with_reducible apply State.regWrite_does
    | with_reducible apply State.reportFar_does
    | with_reducible exact ok_HQ_FAR_FAULT_GO (by decide)
    | with_reducible apply okField_ite
    | (with_reducible show Nat.testBit _ _ = true; decide)
    | (with_reducible show subMask _ _ = true; decide)
    | (intro _ _ _; beta_reduce)
    | with_reducible apply Does.ite
    | split
    | apply Does.ite
    | dsimp -zeta only
    | refine Does.sndOf (by assumption) ?_
    | refine Does.fstOf (by assumption) ?_

theorem execSqDoorbell_does (m : Master) (q : Fin 64) (v : BitVec 64) (s : State) (τ : State) (hδ : execSqDoorbell m q v s = .next τ) : Does 2783679897696 s τ := by
  unfold execSqDoorbell at hδ
  obtain rfl := Host.Outcome.next.inj hδ
  clear hδ
  repeat' first
    | (extract_lets +onlyGivenNames X_; refine Does.cut X_ ?_ ?_; (on_goal 2 => (intro _; clear_value X_)); (on_goal 1 => (dsimp -zeta only [X_]; clear X_)))
    | (extract_lets +onlyGivenNames X_; refine Does.cutOf (Prod.fst (α := State)) X_ ?_ ?_; (on_goal 2 => (intro _; clear_value X_)); (on_goal 1 => (dsimp -zeta only [X_]; clear X_)))
    | extract_lets +onlyGivenNames X_
    | with_reducible assumption
    | with_reducible exact Does.rfl' _ _
    | with_reducible apply State.writeQueue_does
    | with_reducible apply okField_ite
    | (refine testBit_between (a := 2097152) (b := 2195456) (k := 6) ?_ ?_ (by decide) (by decide) (by decide) <;> omega)
    | (with_reducible show Nat.testBit _ _ = true; decide)
    | (with_reducible show subMask _ _ = true; decide)
    | (intro _ _ _; beta_reduce)
    | with_reducible apply Does.ite
    | split

theorem execCqHeadWrite_does (m : Master) (q : Fin 64) (v : BitVec 64) (s : State) (τ : State) (hδ : execCqHeadWrite m q v s = .next τ) : Does 2783679897696 s τ := by
  unfold execCqHeadWrite at hδ
  obtain rfl := Host.Outcome.next.inj hδ
  clear hδ
  repeat' first
    | (extract_lets +onlyGivenNames X_; refine Does.cut X_ ?_ ?_; (on_goal 2 => (intro _; clear_value X_)); (on_goal 1 => (dsimp -zeta only [X_]; clear X_)))
    | (extract_lets +onlyGivenNames X_; refine Does.cutOf (Prod.fst (α := State)) X_ ?_ ?_; (on_goal 2 => (intro _; clear_value X_)); (on_goal 1 => (dsimp -zeta only [X_]; clear X_)))
    | extract_lets +onlyGivenNames X_
    | with_reducible assumption
    | with_reducible exact Does.rfl' _ _
    | with_reducible apply State.writeQueue_does
    | with_reducible apply okField_ite
    | (refine testBit_between (a := 2097152) (b := 2195456) (k := 6) ?_ ?_ (by decide) (by decide) (by decide) <;> omega)
    | (with_reducible show Nat.testBit _ _ = true; decide)
    | (with_reducible show subMask _ _ = true; decide)
    | (intro _ _ _; beta_reduce)
    | with_reducible apply Does.ite
    | split

theorem execQueueEnable_does (m : Master) (q : Fin 64) (v : BitVec 64) (s : State) (τ : State) (hδ : execQueueEnable m q v s = .next τ) : Does 2783679897696 s τ := by
  unfold execQueueEnable at hδ
  obtain rfl := Host.Outcome.next.inj hδ
  clear hδ
  repeat' first
    | (extract_lets +onlyGivenNames X_; refine Does.cut X_ ?_ ?_; (on_goal 2 => (intro _; clear_value X_)); (on_goal 1 => (dsimp -zeta only [X_]; clear X_)))
    | (extract_lets +onlyGivenNames X_; refine Does.cutOf (Prod.fst (α := State)) X_ ?_ ?_; (on_goal 2 => (intro _; clear_value X_)); (on_goal 1 => (dsimp -zeta only [X_]; clear X_)))
    | extract_lets +onlyGivenNames X_
    | with_reducible assumption
    | with_reducible exact Does.rfl' _ _
    | with_reducible apply State.writeQueue_does
    | with_reducible apply okField_ite
    | (refine testBit_between (a := 2097152) (b := 2195456) (k := 6) ?_ ?_ (by decide) (by decide) (by decide) <;> omega)
    | (with_reducible show Nat.testBit _ _ = true; decide)
    | (with_reducible show subMask _ _ = true; decide)
    | (intro _ _ _; beta_reduce)
    | with_reducible apply Does.ite
    | split

theorem execQueueDisable_does (m : Master) (q : Fin 64) (v : BitVec 64) (s : State) (τ : State) (hδ : execQueueDisable m q v s = .next τ) : Does 2783679897696 s τ := by
  unfold execQueueDisable at hδ
  obtain rfl := Host.Outcome.next.inj hδ
  clear hδ
  repeat' first
    | (extract_lets +onlyGivenNames X_; refine Does.cut X_ ?_ ?_; (on_goal 2 => (intro _; clear_value X_)); (on_goal 1 => (dsimp -zeta only [X_]; clear X_)))
    | (extract_lets +onlyGivenNames X_; refine Does.cutOf (Prod.fst (α := State)) X_ ?_ ?_; (on_goal 2 => (intro _; clear_value X_)); (on_goal 1 => (dsimp -zeta only [X_]; clear X_)))
    | extract_lets +onlyGivenNames X_
    | with_reducible assumption
    | with_reducible exact Does.rfl' _ _
    | with_reducible apply State.writeQueue_does
    | with_reducible apply okField_ite
    | (refine testBit_between (a := 2097152) (b := 2195456) (k := 6) ?_ ?_ (by decide) (by decide) (by decide) <;> omega)
    | (with_reducible show Nat.testBit _ _ = true; decide)
    | (with_reducible show subMask _ _ = true; decide)
    | (intro _ _ _; beta_reduce)
    | with_reducible apply Does.ite
    | split

theorem State.takeCmd_does {m : Nat} {s₀ : State} (s : State) (q : Nat) (ok : Nat → Bool) (e : List Byte) (t : Taken) (s' : State)
    (hx : s.takeCmd q ok e = some (t, s')) (hm : subMask 2199023255616 m = true) (h : Does m s₀ s) : Does m s₀ s' := by
  unfold State.takeCmd at hx
  dsimp only at hx
  split at hx
  · cases hx
    exact Does.upd_host _ _ (subMask_trans (by decide) hm) (Does.set _ _ _ (okField_mono (ok_HQ_Q_STATUS_SQ_HEAD _ (m := 2199023255616) (by decide)) hm) h)
  · cases hx

theorem execCmdNop_does (q : Fin 64) (entry : List Byte) (s : State) (τ : State) (hδ : execCmdNop q entry s = .next τ) : Does 2233387188288 s τ := by
  unfold execCmdNop at hδ
  obtain rfl := Host.Outcome.next.inj hδ
  clear hδ
  repeat' first
    | (extract_lets +onlyGivenNames X_; refine Does.cut X_ ?_ ?_; (on_goal 2 => (intro _; clear_value X_)); (on_goal 1 => (dsimp -zeta only [X_]; clear X_)))
    | (extract_lets +onlyGivenNames X_; refine Does.cutOf (Prod.fst (α := State)) X_ ?_ ?_; (on_goal 2 => (intro _; clear_value X_)); (on_goal 1 => (dsimp -zeta only [X_]; clear X_)))
    | extract_lets +onlyGivenNames X_
    | with_reducible assumption
    | with_reducible exact Does.rfl' _ _
    | with_reducible apply State.complete_does
    | refine State.takeCmd_does _ _ _ _ _ _ (by assumption) ?_ ?_
    | with_reducible apply okField_ite
    | (with_reducible show Nat.testBit _ _ = true; decide)
    | (with_reducible show subMask _ _ = true; decide)
    | (intro _ _ _; beta_reduce)
    | with_reducible apply Does.ite
    | split

theorem State.bindHost_does {μ : Nat} {σ : State} (s : State) (n : Nat) (e prog list : List Byte) (hμ : subMask 549755813920 μ = true) (hδ : Does μ σ s) :
    Does μ σ (State.bindHost s n e prog list) := by
  refine Does.after (a := 549755813920) ?_ hμ hδ
  clear hδ hμ
  unfold State.bindHost
  repeat' first
    | with_reducible assumption
    | with_reducible exact Does.rfl' _ _
    | (extract_lets +onlyGivenNames X_; refine Does.cut X_ ?_ ?_; (on_goal 2 => (intro _; clear_value X_)); (on_goal 1 => (dsimp -zeta only [X_]; clear X_)))
    | (extract_lets +onlyGivenNames X_; refine Does.cutOf (Prod.fst (α := State)) X_ ?_ ?_; (on_goal 2 => (intro _; clear_value X_)); (on_goal 1 => (dsimp -zeta only [X_]; clear X_)))
    | extract_lets +onlyGivenNames X_
    | with_reducible apply Does.set
    | with_reducible apply State.loadImage_does
    | with_reducible apply State.setStr_does
    | with_reducible exact ok_STREAM_CTL_PROGRAM _ (by decide)
    | with_reducible exact ok_STREAM_CTL_BLOCK_LIST _ (by decide)
    | with_reducible exact ok_STREAM_CTL_CLASS _ (by decide)
    | with_reducible exact ok_STREAM_CTL_MOVER _ (by decide)
    | with_reducible exact ok_STREAM_CTL_INFLIGHT _ (by decide)
    | with_reducible exact ok_STREAM_CTL_RUN_AHEAD _ (by decide)
    | with_reducible exact ok_STREAM_CTL_TILE_BURSTS _ (by decide)
    | with_reducible exact ok_STREAM_TIME_PACE _ (by decide)
    | with_reducible exact ok_STREAM_BIND_EPOCH _ (by decide)
    | with_reducible apply okField_ite
    | (with_reducible show Nat.testBit _ _ = true; decide)
    | (with_reducible show subMask _ _ = true; decide)
    | (intro _ _ _; beta_reduce)
    | with_reducible apply Does.ite
    | split
    | apply Does.ite
    | dsimp -zeta only
    | refine Does.sndOf (by assumption) ?_
    | refine Does.fstOf (by assumption) ?_

theorem execCmdOpen_does (q : Fin 64) (entry : List Byte) (s : State) (τ : State) (hδ : execCmdOpen q entry s = .next τ) : Does 2924876923492 s τ := by
  unfold execCmdOpen at hδ
  obtain rfl := Host.Outcome.next.inj hδ
  clear hδ
  try dsimp -zeta only [State.fold_pwr]
  repeat' first
    | (extract_lets +onlyGivenNames X_; refine Does.cut X_ ?_ ?_; (on_goal 2 => (intro _; clear_value X_)); (on_goal 1 => (dsimp -zeta only [X_]; clear X_)))
    | (extract_lets +onlyGivenNames X_; refine Does.cutOf (Prod.fst (α := State)) X_ ?_ ?_; (on_goal 2 => (intro _; clear_value X_)); (on_goal 1 => (dsimp -zeta only [X_]; clear X_)))
    | extract_lets +onlyGivenNames X_
    | with_reducible assumption
    | with_reducible exact Does.rfl' _ _
    | with_reducible apply State.bindHost_does
    | with_reducible apply State.complete_does
    | with_reducible apply State.setSst_does
    | with_reducible apply State.setStr_does
    | with_reducible apply State.showUnits_does
    | with_reducible apply State.startStr_does
    | refine State.takeCmd_does _ _ _ _ _ _ (by assumption) ?_ ?_
    | with_reducible apply okField_ite
    | (with_reducible show Nat.testBit _ _ = true; decide)
    | (with_reducible show subMask _ _ = true; decide)
    | (intro _ _ _; beta_reduce)
    | with_reducible apply Does.ite
    | split
    | with_reducible apply Does.upd_pwr
    | apply Does.ite

theorem execHostStreamStart_does (n : Fin 16384) (s : State) (τ : State) (hδ : execHostStreamStart n s = .next τ) : Does 2924944556660 s τ := by
  unfold execHostStreamStart at hδ
  obtain rfl := Host.Outcome.next.inj hδ
  clear hδ
  repeat' first
    | with_reducible assumption
    | with_reducible exact Does.rfl' _ _
    | (extract_lets +onlyGivenNames X_; refine Does.cut X_ ?_ ?_; (on_goal 2 => (intro _; clear_value X_)); (on_goal 1 => (dsimp -zeta only [X_]; clear X_)))
    | (extract_lets +onlyGivenNames X_; refine Does.cutOf (Prod.fst (α := State)) X_ ?_ ?_; (on_goal 2 => (intro _; clear_value X_)); (on_goal 1 => (dsimp -zeta only [X_]; clear X_)))
    | extract_lets +onlyGivenNames X_
    | with_reducible apply State.advance_does
    | with_reducible apply State.completeOn_does
    | with_reducible apply State.setStr_does
    | with_reducible apply State.startStr_does
    | with_reducible apply State.wakeUnit_does
    | with_reducible apply okField_ite
    | (with_reducible show Nat.testBit _ _ = true; decide)
    | (with_reducible show subMask _ _ = true; decide)
    | (intro _ _ _; beta_reduce)
    | with_reducible apply Does.ite
    | split
    | apply Does.ite
    | dsimp -zeta only
    | refine Does.sndOf (by assumption) ?_
    | refine Does.fstOf (by assumption) ?_

theorem execCmdAbort_does (q : Fin 64) (entry : List Byte) (s : State) (τ : State) (hδ : execCmdAbort q entry s = .next τ) : Does 25134709631472 s τ := by
  unfold execCmdAbort at hδ
  obtain rfl := Host.Outcome.next.inj hδ
  clear hδ
  repeat' first
    | (extract_lets +onlyGivenNames X_; refine Does.cut X_ ?_ ?_; (on_goal 2 => (intro _; clear_value X_)); (on_goal 1 => (dsimp -zeta only [X_]; clear X_)))
    | (extract_lets +onlyGivenNames X_; refine Does.cutOf (Prod.fst (α := State)) X_ ?_ ?_; (on_goal 2 => (intro _; clear_value X_)); (on_goal 1 => (dsimp -zeta only [X_]; clear X_)))
    | extract_lets +onlyGivenNames X_
    | with_reducible assumption
    | with_reducible exact Does.rfl' _ _
    | with_reducible apply State.complete_does
    | with_reducible apply State.haltStr_does
    | refine State.takeCmd_does _ _ _ _ _ _ (by assumption) ?_ ?_
    | with_reducible apply okField_ite
    | (with_reducible show Nat.testBit _ _ = true; decide)
    | (with_reducible show subMask _ _ = true; decide)
    | (intro _ _ _; beta_reduce)
    | with_reducible apply Does.ite
    | split
    | apply Does.ite

theorem State.hostCarried_does {μ : Nat} {σ : State} (s : State) (loads : List Load) (hμ : subMask 2199090888720 μ = true) (hδ : Does μ σ s) :
    Does μ σ (State.hostCarried s loads) := by
  refine Does.after (a := 2199090888720) ?_ hμ hδ
  clear hδ hμ
  unfold State.hostCarried
  try dsimp -zeta only [State.fold_host]
  repeat' first
    | with_reducible assumption
    | with_reducible exact Does.rfl' _ _
    | (extract_lets +onlyGivenNames X_; refine Does.cut X_ ?_ ?_; (on_goal 2 => (intro _; clear_value X_)); (on_goal 1 => (dsimp -zeta only [X_]; clear X_)))
    | (extract_lets +onlyGivenNames X_; refine Does.cutOf (Prod.fst (α := State)) X_ ?_ ?_; (on_goal 2 => (intro _; clear_value X_)); (on_goal 1 => (dsimp -zeta only [X_]; clear X_)))
    | extract_lets +onlyGivenNames X_
    | with_reducible apply State.toTick_does
    | with_reducible apply okField_ite
    | (with_reducible show Nat.testBit _ _ = true; decide)
    | (with_reducible show subMask _ _ = true; decide)
    | (intro _ _ _; beta_reduce)
    | with_reducible apply Does.ite
    | split
    | with_reducible apply Does.upd_host
    | apply Does.ite
    | dsimp -zeta only
    | refine Does.sndOf (by assumption) ?_
    | refine Does.fstOf (by assumption) ?_

theorem execCmdWrite_does (q : Fin 64) (entry : List Byte) (s : State) (τ : State) (hδ : execCmdWrite q entry s = .next τ) : Does 6924115927504 s τ := by
  unfold execCmdWrite at hδ
  obtain rfl := Host.Outcome.next.inj hδ
  clear hδ
  repeat' first
    | (extract_lets +onlyGivenNames X_; refine Does.cut X_ ?_ ?_; (on_goal 2 => (intro _; clear_value X_)); (on_goal 1 => (dsimp -zeta only [X_]; clear X_)))
    | (extract_lets +onlyGivenNames X_; refine Does.cutOf (Prod.fst (α := State)) X_ ?_ ?_; (on_goal 2 => (intro _; clear_value X_)); (on_goal 1 => (dsimp -zeta only [X_]; clear X_)))
    | extract_lets +onlyGivenNames X_
    | with_reducible assumption
    | with_reducible exact Does.rfl' _ _
    | with_reducible apply State.complete_does
    | with_reducible apply State.hostCarried_does
    | with_reducible apply State.writeOA_does
    | refine State.takeCmd_does _ _ _ _ _ _ (by assumption) ?_ ?_
    | with_reducible apply okField_ite
    | (with_reducible show Nat.testBit _ _ = true; decide)
    | (with_reducible show subMask _ _ = true; decide)
    | (intro _ _ _; beta_reduce)
    | with_reducible apply Does.ite
    | split
    | apply Does.ite

theorem execCmdFence_does (q : Fin 64) (entry : List Byte) (s : State) (τ : State) (hδ : execCmdFence q entry s = .next τ) : Does 2233387188288 s τ := by
  unfold execCmdFence at hδ
  obtain rfl := Host.Outcome.next.inj hδ
  clear hδ
  repeat' first
    | (extract_lets +onlyGivenNames X_; refine Does.cut X_ ?_ ?_; (on_goal 2 => (intro _; clear_value X_)); (on_goal 1 => (dsimp -zeta only [X_]; clear X_)))
    | (extract_lets +onlyGivenNames X_; refine Does.cutOf (Prod.fst (α := State)) X_ ?_ ?_; (on_goal 2 => (intro _; clear_value X_)); (on_goal 1 => (dsimp -zeta only [X_]; clear X_)))
    | extract_lets +onlyGivenNames X_
    | with_reducible assumption
    | with_reducible exact Does.rfl' _ _
    | with_reducible apply State.complete_does
    | with_reducible apply State.settleFences_does
    | refine State.takeCmd_does _ _ _ _ _ _ (by assumption) ?_ ?_
    | with_reducible apply okField_ite
    | (with_reducible show Nat.testBit _ _ = true; decide)
    | (with_reducible show subMask _ _ = true; decide)
    | (intro _ _ _; beta_reduce)
    | with_reducible apply Does.ite
    | split
    | apply Does.ite

theorem execCmdReserved_does (q : Fin 64) (entry : List Byte) (s : State) (τ : State) (hδ : execCmdReserved q entry s = .next τ) : Does 2233387188288 s τ := by
  unfold execCmdReserved at hδ
  obtain rfl := Host.Outcome.next.inj hδ
  clear hδ
  repeat' first
    | (extract_lets +onlyGivenNames X_; refine Does.cut X_ ?_ ?_; (on_goal 2 => (intro _; clear_value X_)); (on_goal 1 => (dsimp -zeta only [X_]; clear X_)))
    | (extract_lets +onlyGivenNames X_; refine Does.cutOf (Prod.fst (α := State)) X_ ?_ ?_; (on_goal 2 => (intro _; clear_value X_)); (on_goal 1 => (dsimp -zeta only [X_]; clear X_)))
    | extract_lets +onlyGivenNames X_
    | with_reducible assumption
    | with_reducible exact Does.rfl' _ _
    | with_reducible apply State.complete_does
    | refine State.takeCmd_does _ _ _ _ _ _ (by assumption) ?_ ?_
    | with_reducible apply okField_ite
    | (with_reducible show Nat.testBit _ _ = true; decide)
    | (with_reducible show subMask _ _ = true; decide)
    | (intro _ _ _; beta_reduce)
    | with_reducible apply Does.ite
    | split

theorem State.notePoison_does {μ : Nat} {σ : State} (s : State) (poison : Bool) (hμ : subMask 64 μ = true) (hδ : Does μ σ s) :
    Does μ σ (State.notePoison s poison) := by
  refine Does.after (a := 64) ?_ hμ hδ
  clear hδ hμ
  unfold State.notePoison
  repeat' first
    | with_reducible assumption
    | with_reducible exact Does.rfl' _ _
    | (extract_lets +onlyGivenNames X_; refine Does.cut X_ ?_ ?_; (on_goal 2 => (intro _; clear_value X_)); (on_goal 1 => (dsimp -zeta only [X_]; clear X_)))
    | (extract_lets +onlyGivenNames X_; refine Does.cutOf (Prod.fst (α := State)) X_ ?_ ?_; (on_goal 2 => (intro _; clear_value X_)); (on_goal 1 => (dsimp -zeta only [X_]; clear X_)))
    | extract_lets +onlyGivenNames X_
    | with_reducible apply State.hqErr_does
    | with_reducible exact ok_HQ_ERR_POISON_RX (by decide)
    | with_reducible apply okField_ite
    | (with_reducible show Nat.testBit _ _ = true; decide)
    | (with_reducible show subMask _ _ = true; decide)
    | (intro _ _ _; beta_reduce)
    | with_reducible apply Does.ite
    | split
    | apply Does.ite
    | dsimp -zeta only
    | refine Does.sndOf (by assumption) ?_
    | refine Does.fstOf (by assumption) ?_

theorem State.hostNext_does {μ : Nat} {σ : State} (s : State) (hμ : subMask 6924056682960 μ = true) (hδ : Does μ σ s) :
    Does μ σ (State.hostNext s) := by
  refine Does.after (a := 6924056682960) ?_ hμ hδ
  clear hδ hμ
  unfold State.hostNext
  try dsimp -zeta only [State.fold_host]
  repeat' first
    | with_reducible assumption
    | with_reducible exact Does.rfl' _ _
    | (extract_lets +onlyGivenNames X_; refine Does.cut X_ ?_ ?_; (on_goal 2 => (intro _; clear_value X_)); (on_goal 1 => (dsimp -zeta only [X_]; clear X_)))
    | (extract_lets +onlyGivenNames X_; refine Does.cutOf (Prod.fst (α := State)) X_ ?_ ?_; (on_goal 2 => (intro _; clear_value X_)); (on_goal 1 => (dsimp -zeta only [X_]; clear X_)))
    | extract_lets +onlyGivenNames X_
    | with_reducible apply State.serveHostReq_does
    | with_reducible apply okField_ite
    | (with_reducible show Nat.testBit _ _ = true; decide)
    | (with_reducible show subMask _ _ = true; decide)
    | (intro _ _ _; beta_reduce)
    | with_reducible apply Does.ite
    | split
    | with_reducible apply Does.upd_host
    | apply Does.ite
    | dsimp -zeta only
    | refine Does.sndOf (by assumption) ?_
    | refine Does.fstOf (by assumption) ?_
    | (generalize ‹Option _› = w_; split)
    | (generalize ‹List _› = w_; split)

theorem State.claimReqs_does {μ : Nat} {σ : State} (s : State) (hμ : subMask 2199023255552 μ = true) (hδ : Does μ σ s) :
    Does μ σ (State.claimReqs s) := by
  refine Does.after (a := 2199023255552) ?_ hμ hδ
  clear hδ hμ
  unfold State.claimReqs
  try dsimp -zeta only [State.fold_host]
  repeat' first
    | with_reducible assumption
    | with_reducible exact Does.rfl' _ _
    | (extract_lets +onlyGivenNames X_; refine Does.cut X_ ?_ ?_; (on_goal 2 => (intro _; clear_value X_)); (on_goal 1 => (dsimp -zeta only [X_]; clear X_)))
    | (extract_lets +onlyGivenNames X_; refine Does.cutOf (Prod.fst (α := State)) X_ ?_ ?_; (on_goal 2 => (intro _; clear_value X_)); (on_goal 1 => (dsimp -zeta only [X_]; clear X_)))
    | extract_lets +onlyGivenNames X_
    | with_reducible apply Does.foldl
    | with_reducible apply Does.foldlFst
    | with_reducible apply okField_ite
    | (with_reducible show Nat.testBit _ _ = true; decide)
    | (with_reducible show subMask _ _ = true; decide)
    | (intro _ _ _; beta_reduce)
    | with_reducible apply Does.ite
    | split
    | with_reducible apply Does.upd_host
    | apply Does.ite
    | dsimp -zeta only
    | refine Does.sndOf (by assumption) ?_
    | refine Does.fstOf (by assumption) ?_

theorem State.serveHostReqs_does {μ : Nat} {σ : State} (s : State) (hμ : subMask 6924056682960 μ = true) (hδ : Does μ σ s) :
    Does μ σ (State.serveHostReqs s) := by
  refine Does.after (a := 6924056682960) ?_ hμ hδ
  clear hδ hμ
  unfold State.serveHostReqs
  repeat' first
    | with_reducible assumption
    | with_reducible exact Does.rfl' _ _
    | (extract_lets +onlyGivenNames X_; refine Does.cut X_ ?_ ?_; (on_goal 2 => (intro _; clear_value X_)); (on_goal 1 => (dsimp -zeta only [X_]; clear X_)))
    | (extract_lets +onlyGivenNames X_; refine Does.cutOf (Prod.fst (α := State)) X_ ?_ ?_; (on_goal 2 => (intro _; clear_value X_)); (on_goal 1 => (dsimp -zeta only [X_]; clear X_)))
    | extract_lets +onlyGivenNames X_
    | with_reducible apply State.claimReqs_does
    | with_reducible apply State.hostNext_does
    | with_reducible apply Does.forEach
    | with_reducible apply okField_ite
    | (with_reducible show Nat.testBit _ _ = true; decide)
    | (with_reducible show subMask _ _ = true; decide)
    | (intro _ _ _; beta_reduce)
    | with_reducible apply Does.ite
    | split
    | apply Does.ite
    | dsimp -zeta only
    | refine Does.sndOf (by assumption) ?_
    | refine Does.fstOf (by assumption) ?_

theorem State.takeHost_does {μ : Nat} {σ : State} (s : State) (r : PeerReq) (hμ : subMask 6924124316112 μ = true) (hδ : Does μ σ s) :
    Does μ σ (State.takeHost s r) := by
  refine Does.after (a := 6924124316112) ?_ hμ hδ
  clear hδ hμ
  unfold State.takeHost
  try dsimp -zeta only [State.fold_host]
  repeat' first
    | with_reducible assumption
    | with_reducible exact Does.rfl' _ _
    | (extract_lets +onlyGivenNames X_; refine Does.cut X_ ?_ ?_; (on_goal 2 => (intro _; clear_value X_)); (on_goal 1 => (dsimp -zeta only [X_]; clear X_)))
    | (extract_lets +onlyGivenNames X_; refine Does.cutOf (Prod.fst (α := State)) X_ ?_ ?_; (on_goal 2 => (intro _; clear_value X_)); (on_goal 1 => (dsimp -zeta only [X_]; clear X_)))
    | extract_lets +onlyGivenNames X_
    | with_reducible apply State.serveHostReq_does
    | with_reducible apply State.serveHostReqs_does
    | with_reducible apply State.toTick_does
    | with_reducible apply okField_ite
    | (with_reducible show Nat.testBit _ _ = true; decide)
    | (with_reducible show subMask _ _ = true; decide)
    | (intro _ _ _; beta_reduce)
    | with_reducible apply Does.ite
    | split
    | with_reducible apply Does.upd_host
    | apply Does.ite
    | dsimp -zeta only
    | refine Does.sndOf (by assumption) ?_
    | refine Does.fstOf (by assumption) ?_

theorem execBar2Request_does (req : LinkReq) (off : Nat) (len : Nat) (data : List Byte) (poison : Bool) (s : State) (τ : State) (hδ : execBar2Request req off len data poison s = .next τ) : Does 6924124316112 s τ := by
  unfold execBar2Request at hδ
  obtain rfl := Host.Outcome.next.inj hδ
  clear hδ
  repeat' first
    | with_reducible assumption
    | with_reducible exact Does.rfl' _ _
    | (extract_lets +onlyGivenNames X_; refine Does.cut X_ ?_ ?_; (on_goal 2 => (intro _; clear_value X_)); (on_goal 1 => (dsimp -zeta only [X_]; clear X_)))
    | (extract_lets +onlyGivenNames X_; refine Does.cutOf (Prod.fst (α := State)) X_ ?_ ?_; (on_goal 2 => (intro _; clear_value X_)); (on_goal 1 => (dsimp -zeta only [X_]; clear X_)))
    | extract_lets +onlyGivenNames X_
    | with_reducible apply State.emit_does
    | with_reducible apply State.notePoison_does
    | with_reducible apply State.takeHost_does
    | with_reducible apply okField_ite
    | (with_reducible show Nat.testBit _ _ = true; decide)
    | (with_reducible show subMask _ _ = true; decide)
    | (intro _ _ _; beta_reduce)
    | with_reducible apply Does.ite
    | split
    | apply Does.ite
    | dsimp -zeta only
    | refine Does.sndOf (by assumption) ?_
    | refine Does.fstOf (by assumption) ?_

theorem execBarAtomic_does (bar : Nat) (off : BitVec 64) (op : LinkAtomic) (size : Nat) (operand : BitVec 64) (compare : BitVec 64) (s : State) (τ : State) (hδ : execBarAtomic bar off op size operand compare s = .next τ) : Does 6924124316112 s τ := by
  unfold execBarAtomic at hδ
  obtain rfl := Host.Outcome.next.inj hδ
  clear hδ
  repeat' first
    | with_reducible assumption
    | with_reducible exact Does.rfl' _ _
    | (extract_lets +onlyGivenNames X_; refine Does.cut X_ ?_ ?_; (on_goal 2 => (intro _; clear_value X_)); (on_goal 1 => (dsimp -zeta only [X_]; clear X_)))
    | (extract_lets +onlyGivenNames X_; refine Does.cutOf (Prod.fst (α := State)) X_ ?_ ?_; (on_goal 2 => (intro _; clear_value X_)); (on_goal 1 => (dsimp -zeta only [X_]; clear X_)))
    | extract_lets +onlyGivenNames X_
    | with_reducible apply State.emit_does
    | with_reducible apply State.takeHost_does
    | with_reducible apply State.takePeer_does
    | with_reducible apply okField_ite
    | (with_reducible show Nat.testBit _ _ = true; decide)
    | (with_reducible show subMask _ _ = true; decide)
    | (intro _ _ _; beta_reduce)
    | with_reducible apply Does.ite
    | split
    | apply Does.ite
    | dsimp -zeta only
    | refine Does.sndOf (by assumption) ?_
    | refine Does.fstOf (by assumption) ?_

theorem execCxlMemRequest_does (write : Bool) (addr : BitVec 64) (data : List Byte) (poison : Bool) (s : State) (τ : State) (hδ : execCxlMemRequest write addr data poison s = .next τ) : Does 6924124316112 s τ := by
  unfold execCxlMemRequest at hδ
  obtain rfl := Host.Outcome.next.inj hδ
  clear hδ
  repeat' first
    | with_reducible assumption
    | with_reducible exact Does.rfl' _ _
    | (extract_lets +onlyGivenNames X_; refine Does.cut X_ ?_ ?_; (on_goal 2 => (intro _; clear_value X_)); (on_goal 1 => (dsimp -zeta only [X_]; clear X_)))
    | (extract_lets +onlyGivenNames X_; refine Does.cutOf (Prod.fst (α := State)) X_ ?_ ?_; (on_goal 2 => (intro _; clear_value X_)); (on_goal 1 => (dsimp -zeta only [X_]; clear X_)))
    | extract_lets +onlyGivenNames X_
    | with_reducible apply State.emit_does
    | with_reducible apply State.notePoison_does
    | with_reducible apply State.takeHost_does
    | with_reducible apply okField_ite
    | (with_reducible show Nat.testBit _ _ = true; decide)
    | (with_reducible show subMask _ _ = true; decide)
    | (intro _ _ _; beta_reduce)
    | with_reducible apply Does.ite
    | split
    | apply Does.ite
    | dsimp -zeta only
    | refine Does.sndOf (by assumption) ?_
    | refine Does.fstOf (by assumption) ?_

theorem execCxlSnoop_does (_addr : BitVec 64) (s : State) (τ : State) (hδ : execCxlSnoop _addr s = .next τ) : Does 4194304 s τ := by
  unfold execCxlSnoop at hδ
  obtain rfl := Host.Outcome.next.inj hδ
  clear hδ
  repeat' first
    | with_reducible assumption
    | with_reducible exact Does.rfl' _ _
    | (extract_lets +onlyGivenNames X_; refine Does.cut X_ ?_ ?_; (on_goal 2 => (intro _; clear_value X_)); (on_goal 1 => (dsimp -zeta only [X_]; clear X_)))
    | (extract_lets +onlyGivenNames X_; refine Does.cutOf (Prod.fst (α := State)) X_ ?_ ?_; (on_goal 2 => (intro _; clear_value X_)); (on_goal 1 => (dsimp -zeta only [X_]; clear X_)))
    | extract_lets +onlyGivenNames X_
    | with_reducible apply State.emit_does
    | with_reducible apply okField_ite
    | (with_reducible show Nat.testBit _ _ = true; decide)
    | (with_reducible show subMask _ _ = true; decide)
    | (intro _ _ _; beta_reduce)
    | with_reducible apply Does.ite
    | split
    | apply Does.ite
    | dsimp -zeta only
    | refine Does.sndOf (by assumption) ?_
    | refine Does.fstOf (by assumption) ?_

theorem State.cplBytes_does {μ : Nat} {σ : State} (s : State) (kind left fail : Nat) (data : List Byte) (hμ : subMask 34368126976 μ = true) (hδ : Does μ σ s) :
    Does μ σ ((State.cplBytes s kind left fail data).2) := by
  refine Does.after (a := 34368126976) ?_ hμ hδ
  clear hδ hμ
  unfold State.cplBytes
  repeat' first
    | with_reducible assumption
    | with_reducible exact Does.rfl' _ _
    | (extract_lets +onlyGivenNames X_; refine Does.cut X_ ?_ ?_; (on_goal 2 => (intro _; clear_value X_)); (on_goal 1 => (dsimp -zeta only [X_]; clear X_)))
    | (extract_lets +onlyGivenNames X_; refine Does.cutOf (Prod.fst (α := State)) X_ ?_ ?_; (on_goal 2 => (intro _; clear_value X_)); (on_goal 1 => (dsimp -zeta only [X_]; clear X_)))
    | extract_lets +onlyGivenNames X_
    | with_reducible apply State.freeBytes_does
    | with_reducible apply State.take_does
    | with_reducible apply okField_ite
    | (with_reducible show Nat.testBit _ _ = true; decide)
    | (with_reducible show subMask _ _ = true; decide)
    | (intro _ _ _; beta_reduce)
    | with_reducible apply Does.ite
    | split
    | apply Does.ite
    | dsimp -zeta only
    | refine Does.sndOf (by assumption) ?_
    | refine Does.fstOf (by assumption) ?_

theorem State.noteRead_does {μ : Nat} {σ : State} (s : State) (n kind : Nat) (hμ : subMask 16777328 μ = true) (hδ : Does μ σ s) :
    Does μ σ (State.noteRead s n kind) := by
  refine Does.after (a := 16777328) ?_ hμ hδ
  clear hδ hμ
  unfold State.noteRead
  repeat' first
    | with_reducible assumption
    | with_reducible exact Does.rfl' _ _
    | (extract_lets +onlyGivenNames X_; refine Does.cut X_ ?_ ?_; (on_goal 2 => (intro _; clear_value X_)); (on_goal 1 => (dsimp -zeta only [X_]; clear X_)))
    | (extract_lets +onlyGivenNames X_; refine Does.cutOf (Prod.fst (α := State)) X_ ?_ ?_; (on_goal 2 => (intro _; clear_value X_)); (on_goal 1 => (dsimp -zeta only [X_]; clear X_)))
    | extract_lets +onlyGivenNames X_
    | with_reducible apply State.hqErr_does
    | with_reducible apply State.note_does
    | with_reducible exact ok_HQ_ERR_POISON_RX (by decide)
    | with_reducible exact ok_HQ_ERR_CPL_ERROR (by decide)
    | with_reducible exact ok_HQ_ERR_CPL_TIMEOUT (by decide)
    | with_reducible apply okField_ite
    | (with_reducible show Nat.testBit _ _ = true; decide)
    | (with_reducible show subMask _ _ = true; decide)
    | (intro _ _ _; beta_reduce)
    | with_reducible apply Does.ite
    | split
    | apply Does.ite
    | dsimp -zeta only
    | refine Does.sndOf (by assumption) ?_
    | refine Does.fstOf (by assumption) ?_

theorem execHostReadCompletion_does (n : Fin 16384) (seq : Nat) (kind : Nat) (data : List Byte) (s : State) (τ : State) (hδ : execHostReadCompletion n seq kind data s = .next τ) : Does 584140718192 s τ := by
  unfold execHostReadCompletion at hδ
  obtain rfl := Host.Outcome.next.inj hδ
  clear hδ
  repeat' first
    | with_reducible assumption
    | with_reducible exact Does.rfl' _ _
    | (extract_lets +onlyGivenNames X_; refine Does.cut X_ ?_ ?_; (on_goal 2 => (intro _; clear_value X_)); (on_goal 1 => (dsimp -zeta only [X_]; clear X_)))
    | (extract_lets +onlyGivenNames X_; refine Does.cutOf (Prod.fst (α := State)) X_ ?_ ?_; (on_goal 2 => (intro _; clear_value X_)); (on_goal 1 => (dsimp -zeta only [X_]; clear X_)))
    | extract_lets +onlyGivenNames X_
    | with_reducible apply State.cplBytes_does
    | with_reducible apply State.give_does
    | with_reducible apply State.noteRead_does
    | with_reducible apply State.setSk_does
    | with_reducible apply State.setStr_does
    | with_reducible apply okField_ite
    | (with_reducible show Nat.testBit _ _ = true; decide)
    | (with_reducible show subMask _ _ = true; decide)
    | (intro _ _ _; beta_reduce)
    | with_reducible apply Does.ite
    | split
    | apply Does.ite
    | dsimp -zeta only
    | refine Does.sndOf (by assumption) ?_
    | refine Does.fstOf (by assumption) ?_
    | (generalize ‹Option _› = w_; split)
    | (generalize ‹List _› = w_; split)

theorem execFarFaultReport_does (m : Master) (v : BitVec 64) (s : State) (τ : State) (hδ : execFarFaultReport m v s = .next τ) : Does 553672816 s τ := by
  unfold execFarFaultReport at hδ
  obtain rfl := Host.Outcome.next.inj hδ
  clear hδ
  repeat' first
    | with_reducible assumption
    | with_reducible exact Does.rfl' _ _
    | (extract_lets +onlyGivenNames X_; refine Does.cut X_ ?_ ?_; (on_goal 2 => (intro _; clear_value X_)); (on_goal 1 => (dsimp -zeta only [X_]; clear X_)))
    | (extract_lets +onlyGivenNames X_; refine Does.cutOf (Prod.fst (α := State)) X_ ?_ ?_; (on_goal 2 => (intro _; clear_value X_)); (on_goal 1 => (dsimp -zeta only [X_]; clear X_)))
    | extract_lets +onlyGivenNames X_
    | with_reducible apply State.writeFarFault_does
    | with_reducible apply okField_ite
    | (with_reducible show Nat.testBit _ _ = true; decide)
    | (with_reducible show subMask _ _ = true; decide)
    | (intro _ _ _; beta_reduce)
    | with_reducible apply Does.ite
    | split
    | apply Does.ite
    | dsimp -zeta only
    | refine Does.sndOf (by assumption) ?_
    | refine Does.fstOf (by assumption) ?_

theorem execFlr_does (s : State) (τ : State) (hδ : execFlr s = .next τ) : Does 25272148586484 s τ := by
  unfold execFlr at hδ
  obtain rfl := Host.Outcome.next.inj hδ
  clear hδ
  repeat' first
    | with_reducible assumption
    | with_reducible exact Does.rfl' _ _
    | (extract_lets +onlyGivenNames X_; refine Does.cut X_ ?_ ?_; (on_goal 2 => (intro _; clear_value X_)); (on_goal 1 => (dsimp -zeta only [X_]; clear X_)))
    | (extract_lets +onlyGivenNames X_; refine Does.cutOf (Prod.fst (α := State)) X_ ?_ ?_; (on_goal 2 => (intro _; clear_value X_)); (on_goal 1 => (dsimp -zeta only [X_]; clear X_)))
    | extract_lets +onlyGivenNames X_
    | with_reducible apply State.linkReset_does
    | with_reducible apply okField_ite
    | (with_reducible show Nat.testBit _ _ = true; decide)
    | (with_reducible show subMask _ _ = true; decide)
    | (intro _ _ _; beta_reduce)
    | with_reducible apply Does.ite
    | split
    | apply Does.ite
    | dsimp -zeta only
    | refine Does.sndOf (by assumption) ?_
    | refine Does.fstOf (by assumption) ?_

theorem execPerstNAssert_does (other : Bool) (s : State) (τ : State) (hδ : execPerstNAssert other s = .next τ) : Does 25272156975092 s τ := by
  unfold execPerstNAssert at hδ
  obtain rfl := Host.Outcome.next.inj hδ
  clear hδ
  repeat' first
    | with_reducible assumption
    | with_reducible exact Does.rfl' _ _
    | (extract_lets +onlyGivenNames X_; refine Does.cut X_ ?_ ?_; (on_goal 2 => (intro _; clear_value X_)); (on_goal 1 => (dsimp -zeta only [X_]; clear X_)))
    | (extract_lets +onlyGivenNames X_; refine Does.cutOf (Prod.fst (α := State)) X_ ?_ ?_; (on_goal 2 => (intro _; clear_value X_)); (on_goal 1 => (dsimp -zeta only [X_]; clear X_)))
    | extract_lets +onlyGivenNames X_
    | with_reducible apply State.linkDown_does
    | with_reducible apply okField_ite
    | (with_reducible show Nat.testBit _ _ = true; decide)
    | (with_reducible show subMask _ _ = true; decide)
    | (intro _ _ _; beta_reduce)
    | with_reducible apply Does.ite
    | split
    | apply Does.ite
    | dsimp -zeta only
    | refine Does.sndOf (by assumption) ?_
    | refine Does.fstOf (by assumption) ?_

theorem execHostLinkUp_does (rate width mps : Nat) (s : State) (τ : State) (hδ : execHostLinkUp rate width mps s = .next τ) : Does 64 s τ := by
  unfold execHostLinkUp at hδ
  obtain rfl := Host.Outcome.next.inj hδ
  clear hδ
  repeat' first
    | with_reducible assumption
    | with_reducible exact Does.rfl' _ _
    | (extract_lets +onlyGivenNames X_; refine Does.cut X_ ?_ ?_; (on_goal 2 => (intro _; clear_value X_)); (on_goal 1 => (dsimp -zeta only [X_]; clear X_)))
    | (extract_lets +onlyGivenNames X_; refine Does.cutOf (Prod.fst (α := State)) X_ ?_ ?_; (on_goal 2 => (intro _; clear_value X_)); (on_goal 1 => (dsimp -zeta only [X_]; clear X_)))
    | extract_lets +onlyGivenNames X_
    | with_reducible apply Does.set
    | with_reducible exact ok_HQ_LINK_UP (by decide)
    | with_reducible exact ok_HQ_LINK_RATE (by decide)
    | with_reducible exact ok_HQ_LINK_WIDTH (by decide)
    | with_reducible exact ok_HQ_LINK_MPS (by decide)
    | with_reducible exact ok_HQ_LINK_FULL (by decide)
    | with_reducible apply okField_ite
    | (with_reducible show Nat.testBit _ _ = true; decide)
    | (with_reducible show subMask _ _ = true; decide)
    | (intro _ _ _; beta_reduce)
    | with_reducible apply Does.ite
    | split
    | apply Does.ite
    | dsimp -zeta only
    | refine Does.sndOf (by assumption) ?_
    | refine Does.fstOf (by assumption) ?_

theorem State.flushVecs_does {μ : Nat} {σ : State} (s : State) (hμ : subMask 4194368 μ = true) (hδ : Does μ σ s) :
    Does μ σ (State.flushVecs s) := by
  refine Does.after (a := 4194368) ?_ hμ hδ
  clear hδ hμ
  unfold State.flushVecs
  repeat' first
    | with_reducible assumption
    | with_reducible exact Does.rfl' _ _
    | (extract_lets +onlyGivenNames X_; refine Does.cut X_ ?_ ?_; (on_goal 2 => (intro _; clear_value X_)); (on_goal 1 => (dsimp -zeta only [X_]; clear X_)))
    | (extract_lets +onlyGivenNames X_; refine Does.cutOf (Prod.fst (α := State)) X_ ?_ ?_; (on_goal 2 => (intro _; clear_value X_)); (on_goal 1 => (dsimp -zeta only [X_]; clear X_)))
    | extract_lets +onlyGivenNames X_
    | with_reducible apply State.flushVec_does
    | with_reducible apply Does.forEach
    | with_reducible apply okField_ite
    | (with_reducible show Nat.testBit _ _ = true; decide)
    | (with_reducible show subMask _ _ = true; decide)
    | (intro _ _ _; beta_reduce)
    | with_reducible apply Does.ite
    | split
    | apply Does.ite
    | dsimp -zeta only
    | refine Does.sndOf (by assumption) ?_
    | refine Does.fstOf (by assumption) ?_

theorem State.setBme_does {μ : Nat} {σ : State} (s : State) (hμ : subMask 25134709631472 μ = true) (hδ : Does μ σ s) :
    Does μ σ (State.setBme s) := by
  refine Does.after (a := 25134709631472) ?_ hμ hδ
  clear hδ hμ
  unfold State.setBme
  try dsimp -zeta only [State.fold_sent_host]
  repeat' first
    | with_reducible assumption
    | with_reducible exact Does.rfl' _ _
    | (extract_lets +onlyGivenNames X_; refine Does.cut X_ ?_ ?_; (on_goal 2 => (intro _; clear_value X_)); (on_goal 1 => (dsimp -zeta only [X_]; clear X_)))
    | (extract_lets +onlyGivenNames X_; refine Does.cutOf (Prod.fst (α := State)) X_ ?_ ?_; (on_goal 2 => (intro _; clear_value X_)); (on_goal 1 => (dsimp -zeta only [X_]; clear X_)))
    | extract_lets +onlyGivenNames X_
    | with_reducible apply Does.set
    | with_reducible apply State.closeStopped_does
    | with_reducible apply State.fetchSq_does
    | with_reducible apply State.flushVecs_does
    | with_reducible apply Does.forEach
    | with_reducible exact ok_HQ_LINK_BME (by decide)
    | with_reducible apply okField_ite
    | (with_reducible show Nat.testBit _ _ = true; decide)
    | (with_reducible show subMask _ _ = true; decide)
    | (intro _ _ _; beta_reduce)
    | with_reducible apply Does.ite
    | split
    | with_reducible apply Does.upd_sent_host
    | apply Does.ite
    | dsimp -zeta only
    | refine Does.sndOf (by assumption) ?_
    | refine Does.fstOf (by assumption) ?_

theorem execBmeSet_does (s : State) (τ : State) (hδ : execBmeSet s = .next τ) : Does 25134709631472 s τ := by
  unfold execBmeSet at hδ
  obtain rfl := Host.Outcome.next.inj hδ
  clear hδ
  repeat' first
    | with_reducible assumption
    | with_reducible exact Does.rfl' _ _
    | (extract_lets +onlyGivenNames X_; refine Does.cut X_ ?_ ?_; (on_goal 2 => (intro _; clear_value X_)); (on_goal 1 => (dsimp -zeta only [X_]; clear X_)))
    | (extract_lets +onlyGivenNames X_; refine Does.cutOf (Prod.fst (α := State)) X_ ?_ ?_; (on_goal 2 => (intro _; clear_value X_)); (on_goal 1 => (dsimp -zeta only [X_]; clear X_)))
    | extract_lets +onlyGivenNames X_
    | with_reducible apply State.setBme_does
    | with_reducible apply okField_ite
    | (with_reducible show Nat.testBit _ _ = true; decide)
    | (with_reducible show subMask _ _ = true; decide)
    | (intro _ _ _; beta_reduce)
    | with_reducible apply Does.ite
    | split
    | apply Does.ite
    | dsimp -zeta only
    | refine Does.sndOf (by assumption) ?_
    | refine Does.fstOf (by assumption) ?_

theorem execMsixUnmask_does (v : Fin 2048) (s : State) (τ : State) (hδ : execMsixUnmask v s = .next τ) : Does 4194368 s τ := by
  unfold execMsixUnmask at hδ
  obtain rfl := Host.Outcome.next.inj hδ
  clear hδ
  repeat' first
    | with_reducible assumption
    | with_reducible exact Does.rfl' _ _
    | (extract_lets +onlyGivenNames X_; refine Does.cut X_ ?_ ?_; (on_goal 2 => (intro _; clear_value X_)); (on_goal 1 => (dsimp -zeta only [X_]; clear X_)))
    | (extract_lets +onlyGivenNames X_; refine Does.cutOf (Prod.fst (α := State)) X_ ?_ ?_; (on_goal 2 => (intro _; clear_value X_)); (on_goal 1 => (dsimp -zeta only [X_]; clear X_)))
    | extract_lets +onlyGivenNames X_
    | with_reducible apply Does.set
    | with_reducible apply State.flushVec_does
    | with_reducible exact ok_MSIX_CTRL_MASK _ (by decide)
    | with_reducible apply okField_ite
    | (with_reducible show Nat.testBit _ _ = true; decide)
    | (with_reducible show subMask _ _ = true; decide)
    | (intro _ _ _; beta_reduce)
    | with_reducible apply Does.ite
    | split
    | apply Does.ite
    | dsimp -zeta only
    | refine Does.sndOf (by assumption) ?_
    | refine Does.fstOf (by assumption) ?_

theorem State.writeBar_does {μ : Nat} {σ : State} (s : State) (k v : Nat) (hμ : subMask 2199023255552 μ = true) (hδ : Does μ σ s) :
    Does μ σ (State.writeBar s k v) := by
  refine Does.after (a := 2199023255552) ?_ hμ hδ
  clear hδ hμ
  unfold State.writeBar
  try dsimp -zeta only [State.fold_host]
  repeat' first
    | with_reducible assumption
    | with_reducible exact Does.rfl' _ _
    | (extract_lets +onlyGivenNames X_; refine Does.cut X_ ?_ ?_; (on_goal 2 => (intro _; clear_value X_)); (on_goal 1 => (dsimp -zeta only [X_]; clear X_)))
    | (extract_lets +onlyGivenNames X_; refine Does.cutOf (Prod.fst (α := State)) X_ ?_ ?_; (on_goal 2 => (intro _; clear_value X_)); (on_goal 1 => (dsimp -zeta only [X_]; clear X_)))
    | extract_lets +onlyGivenNames X_
    | with_reducible apply Does.set
    | with_reducible apply okField_ite
    | (with_reducible show Nat.testBit _ _ = true; decide)
    | (with_reducible show subMask _ _ = true; decide)
    | (intro _ _ _; beta_reduce)
    | with_reducible apply Does.ite
    | split
    | with_reducible apply Does.upd_host
    | apply Does.ite
    | dsimp -zeta only
    | refine Does.sndOf (by assumption) ?_
    | refine Does.fstOf (by assumption) ?_

theorem execConfigSpaceWrite_does (kind : Nat) (v : Nat) (s : State) (τ : State) (hδ : execConfigSpaceWrite kind v s = .next τ) : Does 25134709631472 s τ := by
  unfold execConfigSpaceWrite at hδ
  obtain rfl := Host.Outcome.next.inj hδ
  clear hδ
  try dsimp -zeta only [State.fold_host]
  repeat' first
    | with_reducible assumption
    | with_reducible exact Does.rfl' _ _
    | (extract_lets +onlyGivenNames X_; refine Does.cut X_ ?_ ?_; (on_goal 2 => (intro _; clear_value X_)); (on_goal 1 => (dsimp -zeta only [X_]; clear X_)))
    | (extract_lets +onlyGivenNames X_; refine Does.cutOf (Prod.fst (α := State)) X_ ?_ ?_; (on_goal 2 => (intro _; clear_value X_)); (on_goal 1 => (dsimp -zeta only [X_]; clear X_)))
    | extract_lets +onlyGivenNames X_
    | with_reducible apply Does.set
    | with_reducible apply State.emit_does
    | with_reducible apply State.flushVecs_does
    | with_reducible apply State.setBme_does
    | with_reducible apply State.writeBar_does
    | with_reducible exact ok_HQ_LINK_MPS (by decide)
    | with_reducible exact ok_HQ_LINK_BME (by decide)
    | with_reducible exact ok_HQ_LINK_MSIX (by decide)
    | with_reducible exact ok_HQ_LINK_RO (by decide)
    | with_reducible exact ok_HQ_LINK_CXL_MEM (by decide)
    | with_reducible apply okField_ite
    | (with_reducible show Nat.testBit _ _ = true; decide)
    | (with_reducible show subMask _ _ = true; decide)
    | (intro _ _ _; beta_reduce)
    | with_reducible apply Does.ite
    | split
    | with_reducible apply Does.upd_host
    | apply Does.ite
    | dsimp -zeta only
    | refine Does.sndOf (by assumption) ?_
    | refine Does.fstOf (by assumption) ?_

end Sys2Proof.Machine
end

