-- ==== Sys2Proof/Laws/FReset.lean ====
section
/-! SUPPORT. Laws/FReset.lean: what every operation of Machine/Reset.lean leaves alone (see Laws/Frame.lean). -/

set_option linter.unreachableTactic false
set_option linter.unusedTactic false
set_option linter.tactic.unusedName false

namespace Sys2Proof.Machine

theorem State.portOff_does {μ : Nat} {σ : State} (s : State) (p : Nat) (hμ : subMask 34068241608692 μ = true) (hδ : Does μ σ s) :
    Does μ σ (State.portOff s p) := by
  refine Does.after (a := 34068241608692) ?_ hμ hδ
  clear hδ hμ
  unfold State.portOff
  repeat' first
    | with_reducible assumption
    | with_reducible exact Does.rfl' _ _
    | (extract_lets +onlyGivenNames X_; refine Does.cut X_ ?_ ?_; (on_goal 2 => (intro _; clear_value X_)); (on_goal 1 => (dsimp -zeta only [X_]; clear X_)))
    | (extract_lets +onlyGivenNames X_; refine Does.cutOf (Prod.fst (α := State)) X_ ?_ ?_; (on_goal 2 => (intro _; clear_value X_)); (on_goal 1 => (dsimp -zeta only [X_]; clear X_)))
    | extract_lets +onlyGivenNames X_
    | with_reducible apply Does.set
    | with_reducible apply State.portReset_does
    | with_reducible apply State.setPort_does
    | with_reducible exact ok_CDP_STATUS_STATE _ (by decide)
    | with_reducible exact ok_CDP_STATUS_RATE _ (by decide)
    | with_reducible exact ok_CDP_STATUS_MODULES _ (by decide)
    | with_reducible apply okField_ite
    | (with_reducible show Nat.testBit _ _ = true; decide)
    | (with_reducible show subMask _ _ = true; decide)
    | (intro _ _ _; beta_reduce)
    | with_reducible apply Does.ite
    | split
    | apply Does.ite
    | dsimp -zeta only
    | refine Does.sndOf (by assumption) ?_
    | refine Does.fstOf (by assumption) ?_

theorem State.flashDown_does {μ : Nat} {σ : State} (s : State) (hμ : subMask 4398046511360 μ = true) (hδ : Does μ σ s) :
    Does μ σ (State.flashDown s) := by
  refine Does.after (a := 4398046511360) ?_ hμ hδ
  clear hδ hμ
  unfold State.flashDown
  try dsimp -zeta only [State.fold_ftl]
  repeat' first
    | with_reducible assumption
    | with_reducible exact Does.rfl' _ _
    | (extract_lets +onlyGivenNames X_; refine Does.cut X_ ?_ ?_; (on_goal 2 => (intro _; clear_value X_)); (on_goal 1 => (dsimp -zeta only [X_]; clear X_)))
    | (extract_lets +onlyGivenNames X_; refine Does.cutOf (Prod.fst (α := State)) X_ ?_ ?_; (on_goal 2 => (intro _; clear_value X_)); (on_goal 1 => (dsimp -zeta only [X_]; clear X_)))
    | extract_lets +onlyGivenNames X_
    | with_reducible apply Does.set
    | with_reducible exact ok_FTL_COMMIT_DURABLE_STEP (by decide)
    | with_reducible exact ok_FTL_FORMAT_BUSY (by decide)
    | with_reducible exact ok_FTL_STATUS_STATE (by decide)
    | with_reducible exact ok_FTL_STATUS_RATE (by decide)
    | with_reducible apply okField_ite
    | (with_reducible show Nat.testBit _ _ = true; decide)
    | (with_reducible show subMask _ _ = true; decide)
    | (intro _ _ _; beta_reduce)
    | with_reducible apply Does.ite
    | split
    | with_reducible apply Does.upd_ftl
    | apply Does.ite
    | dsimp -zeta only
    | refine Does.sndOf (by assumption) ?_
    | refine Does.fstOf (by assumption) ?_

theorem State.cutDomains_does {μ : Nat} {σ : State} (s : State) (hμ : subMask 34069323743228 μ = true) (hδ : Does μ σ s) :
    Does μ σ (State.cutDomains s) := by
  refine Does.after (a := 34069323743228) ?_ hμ hδ
  clear hδ hμ
  unfold State.cutDomains
  try dsimp -zeta only [State.fold_clear]
  repeat' first
    | (extract_lets +onlyGivenNames X_; refine Does.cut X_ ?_ ?_; (on_goal 2 => (intro _; clear_value X_)); (on_goal 1 => (dsimp -zeta only [X_]; clear X_)))
    | (extract_lets +onlyGivenNames X_; refine Does.cutOf (Prod.fst (α := State)) X_ ?_ ?_; (on_goal 2 => (intro _; clear_value X_)); (on_goal 1 => (dsimp -zeta only [X_]; clear X_)))
    | extract_lets +onlyGivenNames X_
    | with_reducible assumption
    | with_reducible exact Does.rfl' _ _
    | with_reducible apply Does.set
    | with_reducible apply Does.forEach
    | with_reducible apply State.clearMap_does
    | with_reducible apply State.dropStaged_does
    | with_reducible exact ok_CHART_LOAD_STATUS_STATE (by decide)
    | with_reducible apply State.flashDown_does
    | with_reducible apply State.linkDown_does
    | with_reducible apply State.portOff_does
    | with_reducible apply State.setPower_does
    | with_reducible apply State.showUnits_does
    | with_reducible exact ok_HBM_STACK_STATE _ (by decide)
    | with_reducible exact ok_PWR_CLOCK_SWITCH_AT (by decide)
    | with_reducible exact ok_PWR_CLOCK_NEXT_MHZ (by decide)
    | with_reducible exact ok_PWR_CLOCK_FCLK_MHZ (by decide)
    | with_reducible exact ok_PWR_THERM_CRIT_SEEN (by decide)
    | with_reducible apply okField_ite
    | (with_reducible show Nat.testBit _ _ = true; decide)
    | (with_reducible show subMask _ _ = true; decide)
    | (intro _ _ _; beta_reduce)
    | with_reducible apply Does.ite
    | split
    | (with_reducible show _ ≤ _; decide)
    | with_reducible apply Does.upd_clear

theorem State.writePwrCtrl_does {μ : Nat} {σ : State} (s : State) (w : Wr) (hμ : subMask 34069323743228 μ = true) (hδ : Does μ σ s) :
    Does μ σ (State.writePwrCtrl s w) := by
  refine Does.after (a := 34069323743228) ?_ hμ hδ
  clear hδ hμ
  unfold State.writePwrCtrl
  repeat' first
    | with_reducible assumption
    | with_reducible exact Does.rfl' _ _
    | (extract_lets +onlyGivenNames X_; refine Does.cut X_ ?_ ?_; (on_goal 2 => (intro _; clear_value X_)); (on_goal 1 => (dsimp -zeta only [X_]; clear X_)))
    | (extract_lets +onlyGivenNames X_; refine Does.cutOf (Prod.fst (α := State)) X_ ?_ ?_; (on_goal 2 => (intro _; clear_value X_)); (on_goal 1 => (dsimp -zeta only [X_]; clear X_)))
    | extract_lets +onlyGivenNames X_
    | with_reducible apply Does.set
    | with_reducible apply State.cutDomains_does
    | with_reducible apply State.refuse_does
    | with_reducible apply State.regWrite_does
    | with_reducible exact ok_PWR_CTRL_TO_AON (by decide)
    | with_reducible exact ok_PWR_CTRL_STATUS (by decide)
    | with_reducible apply okField_ite
    | (with_reducible show Nat.testBit _ _ = true; decide)
    | (with_reducible show subMask _ _ = true; decide)
    | (intro _ _ _; beta_reduce)
    | with_reducible apply Does.ite
    | split
    | apply Does.ite
    | dsimp -zeta only
    | refine Does.sndOf (by assumption) ?_
    | refine Does.fstOf (by assumption) ?_

theorem State.tryT0_does {μ : Nat} {σ : State} (s : State) (hμ : subMask 137439477760 μ = true) (hδ : Does μ σ s) :
    Does μ σ (State.tryT0 s) := by
  refine Does.after (a := 137439477760) ?_ hμ hδ
  clear hδ hμ
  unfold State.tryT0
  try dsimp -zeta only [State.fold_row_pwr]
  repeat' first
    | with_reducible assumption
    | with_reducible exact Does.rfl' _ _
    | (extract_lets +onlyGivenNames X_; refine Does.cut X_ ?_ ?_; (on_goal 2 => (intro _; clear_value X_)); (on_goal 1 => (dsimp -zeta only [X_]; clear X_)))
    | (extract_lets +onlyGivenNames X_; refine Does.cutOf (Prod.fst (α := State)) X_ ?_ ?_; (on_goal 2 => (intro _; clear_value X_)); (on_goal 1 => (dsimp -zeta only [X_]; clear X_)))
    | extract_lets +onlyGivenNames X_
    | with_reducible apply State.startBoot_does
    | with_reducible apply okField_ite
    | (with_reducible show Nat.testBit _ _ = true; decide)
    | (with_reducible show subMask _ _ = true; decide)
    | (intro _ _ _; beta_reduce)
    | with_reducible apply Does.ite
    | split
    | with_reducible apply Does.upd_row_pwr
    | apply Does.ite
    | dsimp -zeta only
    | refine Does.sndOf (by assumption) ?_
    | refine Does.fstOf (by assumption) ?_

theorem execSupplyGood_does (i : Fin 9) (s : State) (τ : State) (hδ : execSupplyGood i s = .next τ) : Does 137439477760 s τ := by
  unfold execSupplyGood at hδ
  obtain rfl := Host.Outcome.next.inj hδ
  clear hδ
  try dsimp -zeta only [State.fold_pwr]
  repeat' first
    | with_reducible assumption
    | with_reducible exact Does.rfl' _ _
    | (extract_lets +onlyGivenNames X_; refine Does.cut X_ ?_ ?_; (on_goal 2 => (intro _; clear_value X_)); (on_goal 1 => (dsimp -zeta only [X_]; clear X_)))
    | (extract_lets +onlyGivenNames X_; refine Does.cutOf (Prod.fst (α := State)) X_ ?_ ?_; (on_goal 2 => (intro _; clear_value X_)); (on_goal 1 => (dsimp -zeta only [X_]; clear X_)))
    | extract_lets +onlyGivenNames X_
    | with_reducible apply State.tryT0_does
    | with_reducible apply okField_ite
    | (with_reducible show Nat.testBit _ _ = true; decide)
    | (with_reducible show subMask _ _ = true; decide)
    | (intro _ _ _; beta_reduce)
    | with_reducible apply Does.ite
    | split
    | with_reducible apply Does.upd_pwr
    | apply Does.ite
    | dsimp -zeta only
    | refine Does.sndOf (by assumption) ?_
    | refine Does.fstOf (by assumption) ?_

theorem State.toOff_does {m : Nat} {s₀ : State} (s : State) (keepLog : Bool) (hm : subMask 70368744177663 m = true) (h : Does m s₀ s) :
    Does m s₀ (s.toOff keepLog) := by
  refine Does.after (a := 70368744177663) ?_ hm h
  refine ⟨rfl, List.prefix_refl _, Nat.le_refl _, ?_, fun p hp => absurd hp (by cases p <;> decide)⟩
  intro k
  have w := s.wellKept_filter (fun c => fuseCell c || (keepLog && (logCell c || unitCell c))) k
  exact ⟨w.regs, rfl, rfl, ⟨w.phase.1, by show State.reset.step.prevPhase ≤ 9; decide⟩, w.power⟩

theorem execSupplyLost_does (i : Fin 9) (s : State) (τ : State) (hδ : execSupplyLost i s = .next τ) : Does 70368744177663 s τ := by
  unfold execSupplyLost at hδ
  obtain rfl := Host.Outcome.next.inj hδ
  clear hδ
  try dsimp -zeta only [State.fold_pwr]
  repeat' first
    | with_reducible assumption
    | with_reducible exact Does.rfl' _ _
    | (extract_lets +onlyGivenNames X_; refine Does.cut X_ ?_ ?_; (on_goal 2 => (intro _; clear_value X_)); (on_goal 1 => (dsimp -zeta only [X_]; clear X_)))
    | (extract_lets +onlyGivenNames X_; refine Does.cutOf (Prod.fst (α := State)) X_ ?_ ?_; (on_goal 2 => (intro _; clear_value X_)); (on_goal 1 => (dsimp -zeta only [X_]; clear X_)))
    | extract_lets +onlyGivenNames X_
    | with_reducible apply State.toOff_does
    | with_reducible apply okField_ite
    | (with_reducible show Nat.testBit _ _ = true; decide)
    | (with_reducible show subMask _ _ = true; decide)
    | (intro _ _ _; beta_reduce)
    | with_reducible apply Does.ite
    | split
    | with_reducible apply Does.upd_pwr
    | apply Does.ite
    | dsimp -zeta only
    | refine Does.sndOf (by assumption) ?_
    | refine Does.fstOf (by assumption) ?_

theorem State.tellDies_does {μ : Nat} {σ : State} (s : State) (hμ : subMask 4194304 μ = true) (hδ : Does μ σ s) :
    Does μ σ (State.tellDies s) := by
  refine Does.after (a := 4194304) ?_ hμ hδ
  clear hδ hμ
  unfold State.tellDies
  repeat' first
    | with_reducible assumption
    | with_reducible exact Does.rfl' _ _
    | (extract_lets +onlyGivenNames X_; refine Does.cut X_ ?_ ?_; (on_goal 2 => (intro _; clear_value X_)); (on_goal 1 => (dsimp -zeta only [X_]; clear X_)))
    | (extract_lets +onlyGivenNames X_; refine Does.cutOf (Prod.fst (α := State)) X_ ?_ ?_; (on_goal 2 => (intro _; clear_value X_)); (on_goal 1 => (dsimp -zeta only [X_]; clear X_)))
    | extract_lets +onlyGivenNames X_
    | with_reducible apply State.emit_does
    | with_reducible apply Does.forEach
    | with_reducible apply okField_ite
    | (with_reducible show Nat.testBit _ _ = true; decide)
    | (with_reducible show subMask _ _ = true; decide)
    | (intro _ _ _; beta_reduce)
    | with_reducible apply Does.ite
    | split
    | apply Does.ite
    | dsimp -zeta only
    | refine Does.sndOf (by assumption) ?_
    | refine Does.fstOf (by assumption) ?_

theorem execRstNLow_does (ns : Nat) (s t : State) (h : execRstNLow ns s = .next t) : Does 70368744177663 s t := by
  unfold execRstNLow at h
  split at h
  · obtain rfl := Host.Outcome.next.inj h
    exact State.toOff_does _ _ (by decide) (State.tellDies_does _ (by decide) (Does.upd_pwr s _ (by decide) (Does.rfl' _ _)))
  · split at h
    · obtain rfl := Host.Outcome.next.inj h
      exact Does.rfl' _ _
    · cases h

theorem execRstNRise_does (s : State) (τ : State) (hδ : execRstNRise s = .next τ) : Does 137439477760 s τ := by
  unfold execRstNRise at hδ
  obtain rfl := Host.Outcome.next.inj hδ
  clear hδ
  try dsimp -zeta only [State.fold_pwr]
  repeat' first
    | with_reducible assumption
    | with_reducible exact Does.rfl' _ _
    | (extract_lets +onlyGivenNames X_; refine Does.cut X_ ?_ ?_; (on_goal 2 => (intro _; clear_value X_)); (on_goal 1 => (dsimp -zeta only [X_]; clear X_)))
    | (extract_lets +onlyGivenNames X_; refine Does.cutOf (Prod.fst (α := State)) X_ ?_ ?_; (on_goal 2 => (intro _; clear_value X_)); (on_goal 1 => (dsimp -zeta only [X_]; clear X_)))
    | extract_lets +onlyGivenNames X_
    | with_reducible apply State.tryT0_does
    | with_reducible apply okField_ite
    | (with_reducible show Nat.testBit _ _ = true; decide)
    | (with_reducible show subMask _ _ = true; decide)
    | (intro _ _ _; beta_reduce)
    | with_reducible apply Does.ite
    | split
    | with_reducible apply Does.upd_pwr
    | apply Does.ite
    | dsimp -zeta only
    | refine Does.sndOf (by assumption) ?_
    | refine Does.fstOf (by assumption) ?_

theorem execToAon_does (m : Master) (v : BitVec 64) (s : State) (τ : State) (hδ : execToAon m v s = .next τ) : Does 34069323743228 s τ := by
  unfold execToAon at hδ
  obtain rfl := Host.Outcome.next.inj hδ
  clear hδ
  repeat' first
    | with_reducible assumption
    | with_reducible exact Does.rfl' _ _
    | (extract_lets +onlyGivenNames X_; refine Does.cut X_ ?_ ?_; (on_goal 2 => (intro _; clear_value X_)); (on_goal 1 => (dsimp -zeta only [X_]; clear X_)))
    | (extract_lets +onlyGivenNames X_; refine Does.cutOf (Prod.fst (α := State)) X_ ?_ ?_; (on_goal 2 => (intro _; clear_value X_)); (on_goal 1 => (dsimp -zeta only [X_]; clear X_)))
    | extract_lets +onlyGivenNames X_
    | with_reducible apply State.writePwrCtrl_does
    | with_reducible apply okField_ite
    | (with_reducible show Nat.testBit _ _ = true; decide)
    | (with_reducible show subMask _ _ = true; decide)
    | (intro _ _ _; beta_reduce)
    | with_reducible apply Does.ite
    | split
    | apply Does.ite
    | dsimp -zeta only
    | refine Does.sndOf (by assumption) ?_
    | refine Does.fstOf (by assumption) ?_

theorem State.criticalCut_does {m : Nat} {s₀ : State} (s : State) (hm : subMask 70368744177663 m = true) (h : Does m s₀ s) :
    Does m s₀ (s.criticalCut) := by
  refine Does.after (a := 70368744177663) ?_ hm h
  unfold State.criticalCut
  extract_lets held hold z0 p0 r1 r2 r3 r4
  have h1 : Does 70368744177663 s r1 := by
    refine ⟨rfl, List.prefix_refl _, Nat.le_refl _, ?_, fun p hp => absurd hp (by cases p <;> decide)⟩
    intro k
    have w := s.wellKept_filter (fun c => aonCell c) k
    exact ⟨w.regs, rfl, rfl, ⟨w.phase.1, by show State.reset.step.prevPhase ≤ 9; decide⟩, w.power⟩
  clear_value r1
  have h2 : Does 70368744177663 s r2 := Does.forEach _ _ h1 (fun v x hv =>
    Does.set _ _ _ (ok_CDP_CREDIT_PACE_CREDITS _ (by decide)) (Does.set _ _ _ (ok_CDP_CTRL_PACE_CREDITS _ (by decide)) hv))
  clear_value r2
  have h3 : Does 70368744177663 s r3 := Does.set _ _ _ (ok_PWR_THERM_LAST_EVENT (by decide)) (Does.set _ _ _ (ok_PWR_THERM_CRIT_SEEN (by decide))
    (State.assignUnits_does _ _ (by decide) h2))
  clear_value r3
  have h4 : Does 70368744177663 s r4 := Does.set _ _ _ (ok_PWR_CLOCK_SWITCH_AT (by decide)) (Does.set _ _ _ (ok_PWR_CLOCK_NEXT_MHZ (by decide))
    (Does.set _ _ _ (ok_PWR_CLOCK_FCLK_MHZ (by decide)) h3))
  clear_value r4
  exact State.setPower_does _ _ _ (by decide) (by decide) (by decide) (Does.emit _ _ (by decide) (State.showUnits_does _ (by decide) h4))

theorem execThermalSample_does (temps : List Int) (s : State) (τ : State) (hδ : execThermalSample temps s = .next τ) : Does 70368744177663 s τ := by
  unfold execThermalSample at hδ
  obtain rfl := Host.Outcome.next.inj hδ
  clear hδ
  repeat' first
    | with_reducible assumption
    | with_reducible exact Does.rfl' _ _
    | (extract_lets +onlyGivenNames X_; refine Does.cut X_ ?_ ?_; (on_goal 2 => (intro _; clear_value X_)); (on_goal 1 => (dsimp -zeta only [X_]; clear X_)))
    | (extract_lets +onlyGivenNames X_; refine Does.cutOf (Prod.fst (α := State)) X_ ?_ ?_; (on_goal 2 => (intro _; clear_value X_)); (on_goal 1 => (dsimp -zeta only [X_]; clear X_)))
    | extract_lets +onlyGivenNames X_
    | with_reducible apply State.advance_does
    | with_reducible apply State.criticalCut_does
    | with_reducible apply State.emergencyStop_does
    | with_reducible apply State.takeSample_does
    | with_reducible apply State.trip_does
    | with_reducible apply okField_ite
    | (with_reducible show Nat.testBit _ _ = true; decide)
    | (with_reducible show subMask _ _ = true; decide)
    | (intro _ _ _; beta_reduce)
    | with_reducible apply Does.ite
    | split
    | apply Does.ite
    | dsimp -zeta only
    | refine Does.sndOf (by assumption) ?_
    | refine Does.fstOf (by assumption) ?_

theorem execThermStop_does (s : State) (τ : State) (hδ : execThermStop s = .next τ) : Does 18333608993334 s τ := by
  unfold execThermStop at hδ
  obtain rfl := Host.Outcome.next.inj hδ
  clear hδ
  repeat' first
    | with_reducible assumption
    | with_reducible exact Does.rfl' _ _
    | (extract_lets +onlyGivenNames X_; refine Does.cut X_ ?_ ?_; (on_goal 2 => (intro _; clear_value X_)); (on_goal 1 => (dsimp -zeta only [X_]; clear X_)))
    | (extract_lets +onlyGivenNames X_; refine Does.cutOf (Prod.fst (α := State)) X_ ?_ ?_; (on_goal 2 => (intro _; clear_value X_)); (on_goal 1 => (dsimp -zeta only [X_]; clear X_)))
    | extract_lets +onlyGivenNames X_
    | with_reducible apply State.writePwrMgmt_does
    | with_reducible apply okField_ite
    | (with_reducible show Nat.testBit _ _ = true; decide)
    | (with_reducible show subMask _ _ = true; decide)
    | (intro _ _ _; beta_reduce)
    | with_reducible apply Does.ite
    | split
    | apply Does.ite
    | dsimp -zeta only
    | refine Does.sndOf (by assumption) ?_
    | refine Does.fstOf (by assumption) ?_

end Sys2Proof.Machine
end

