-- ==== Sys2Proof/Laws/FRegWrite.lean ====
section
/-! SUPPORT. Laws/FRegWrite.lean: what every operation of Machine/RegWrite.lean leaves alone (see Laws/Frame.lean). -/

set_option linter.unreachableTactic false
set_option linter.unusedTactic false
set_option linter.tactic.unusedName false

namespace Sys2Proof.Machine

theorem State.writePlainReg_does {μ : Nat} {σ : State} (s : State) (off : Nat) (w : Wr) (hμ : subMask 34080061652991 μ = true) (hδ : Does μ σ s) :
    Does μ σ (State.writePlainReg s off w) := by
  refine Does.after (a := 34080061652991) ?_ hμ hδ
  clear hδ hμ
  unfold State.writePlainReg
  repeat' first
    | (extract_lets +onlyGivenNames X_; refine Does.cut X_ ?_ ?_; (on_goal 2 => (intro _; clear_value X_)); (on_goal 1 => (dsimp -zeta only [X_]; clear X_)))
    | (extract_lets +onlyGivenNames X_; refine Does.cutOf (Prod.fst (α := State)) X_ ?_ ?_; (on_goal 2 => (intro _; clear_value X_)); (on_goal 1 => (dsimp -zeta only [X_]; clear X_)))
    | extract_lets +onlyGivenNames X_
    | with_reducible assumption
    | with_reducible exact Does.rfl' _ _
    | with_reducible apply State.regWrite_does
    | with_reducible apply State.writeBiasCmd_does
    | with_reducible apply State.writeCommit_does
    | with_reducible apply State.writeDisturb_does
    | with_reducible apply State.writeFarFault_does
    | with_reducible apply State.writeFormat_does
    | with_reducible apply State.writeGaugeCtrl_does
    | with_reducible apply State.writeHostPages_does
    | with_reducible apply State.writeIdleCtrl_does
    | with_reducible apply State.writeLaunch_does
    | with_reducible apply State.writeLoadCtrl_does
    | with_reducible apply State.writeLoadSrc_does
    | with_reducible apply State.writeLookup_does
    | with_reducible apply State.writeLr_does
    | with_reducible apply State.writeMapCtrl_does
    | with_reducible apply State.writeMend_does
    | with_reducible apply State.writeOptSet_does
    | with_reducible apply State.writePwrCtrl_does
    | with_reducible apply State.writePwrMgmt_does
    | with_reducible apply State.writeRegion_does
    | with_reducible apply State.writeRollback_does
    | with_reducible apply State.writeScaleCfg_does
    | with_reducible apply State.writeScaleSet_does
    | with_reducible apply State.writeStepCtrl_does
    | with_reducible apply State.writeStepFlag_does
    | with_reducible apply State.writeSwatch_does
    | with_reducible apply State.writeSyncConfig_does
    | with_reducible apply State.writeSyncCtrl_does
    | with_reducible apply State.writeSyncPlain_does
    | with_reducible apply State.writeTensionCtrl_does
    | with_reducible apply State.writeThermCfg_does
    | with_reducible apply State.writeTierHost_does
    | with_reducible apply State.writeVariant_does
    | with_reducible apply okField_ite
    | exact testBit_all _ (by decide)
    | (with_reducible show Nat.testBit _ _ = true; decide)
    | (with_reducible show subMask _ _ = true; decide)
    | (intro _ _ _; beta_reduce)
    | with_reducible apply Does.ite
    | split
    | apply Does.ite

theorem State.writeReg_does {μ : Nat} {σ : State} (s : State) (off : Nat) (w : Wr) (hμ : subMask 34080061652991 μ = true) (hδ : Does μ σ s) :
    Does μ σ (State.writeReg s off w) := by
  refine Does.after (a := 34080061652991) ?_ hμ hδ
  clear hδ hμ
  unfold State.writeReg
  repeat' first
    | (extract_lets +onlyGivenNames X_; refine Does.cut X_ ?_ ?_; (on_goal 2 => (intro _; clear_value X_)); (on_goal 1 => (dsimp -zeta only [X_]; clear X_)))
    | (extract_lets +onlyGivenNames X_; refine Does.cutOf (Prod.fst (α := State)) X_ ?_ ?_; (on_goal 2 => (intro _; clear_value X_)); (on_goal 1 => (dsimp -zeta only [X_]; clear X_)))
    | extract_lets +onlyGivenNames X_
    | with_reducible assumption
    | with_reducible exact Does.rfl' _ _
    | with_reducible apply State.flushVec_does
    | with_reducible apply State.regWrite_does
    | with_reducible apply State.writeCdpCtrl_does
    | with_reducible apply State.writeLend_does
    | with_reducible apply State.writePlainReg_does
    | with_reducible apply State.writeQueue_does
    | with_reducible apply okField_ite
    | (refine testBit_between (a := 5242880) (b := 5259264) (k := 11) ?_ ?_ (by decide) (by decide) (by decide) <;> omega)
    | (refine testBit_between (a := 2097152) (b := 2195456) (k := 6) ?_ ?_ (by decide) (by decide) (by decide) <;> omega)
    | (refine testBit_between (a := 3153920) (b := 3158016) (k := 7) ?_ ?_ (by decide) (by decide) (by decide) <;> omega)
    | exact testBit_all _ (by decide)
    | (with_reducible show Nat.testBit _ _ = true; decide)
    | (with_reducible show subMask _ _ = true; decide)
    | (intro _ _ _; beta_reduce)
    | with_reducible apply Does.ite
    | split

theorem State.barWrite_does {μ : Nat} {σ : State} (s : State) (m : Master) (off size v : Nat) (hμ : subMask 34080061652991 μ = true) (hδ : Does μ σ s) :
    Does μ σ (State.barWrite s m off size v) := by
  refine Does.after (a := 34080061652991) ?_ hμ hδ
  clear hδ hμ
  unfold State.barWrite
  repeat' first
    | with_reducible assumption
    | with_reducible exact Does.rfl' _ _
    | (extract_lets +onlyGivenNames X_; refine Does.cut X_ ?_ ?_; (on_goal 2 => (intro _; clear_value X_)); (on_goal 1 => (dsimp -zeta only [X_]; clear X_)))
    | (extract_lets +onlyGivenNames X_; refine Does.cutOf (Prod.fst (α := State)) X_ ?_ ?_; (on_goal 2 => (intro _; clear_value X_)); (on_goal 1 => (dsimp -zeta only [X_]; clear X_)))
    | extract_lets +onlyGivenNames X_
    | with_reducible apply State.badArg_does
    | with_reducible apply State.writeReg_does
    | with_reducible apply okField_ite
    | (with_reducible show Nat.testBit _ _ = true; decide)
    | (with_reducible show subMask _ _ = true; decide)
    | (intro _ _ _; beta_reduce)
    | with_reducible apply Does.ite
    | split
    | apply Does.ite
    | dsimp -zeta only
    | refine Does.sndOf (by assumption) ?_
    | refine Does.fstOf (by assumption) ?_

theorem State.afterRead_does {μ : Nat} {σ : State} (s : State) (off : Nat) (hμ : subMask 4 μ = true) (hδ : Does μ σ s) :
    Does μ σ (State.afterRead s off) := by
  refine Does.after (a := 4) ?_ hμ hδ
  clear hδ hμ
  unfold State.afterRead
  repeat' first
    | with_reducible assumption
    | with_reducible exact Does.rfl' _ _
    | (extract_lets +onlyGivenNames X_; refine Does.cut X_ ?_ ?_; (on_goal 2 => (intro _; clear_value X_)); (on_goal 1 => (dsimp -zeta only [X_]; clear X_)))
    | (extract_lets +onlyGivenNames X_; refine Does.cutOf (Prod.fst (α := State)) X_ ?_ ?_; (on_goal 2 => (intro _; clear_value X_)); (on_goal 1 => (dsimp -zeta only [X_]; clear X_)))
    | extract_lets +onlyGivenNames X_
    | with_reducible apply Does.set
    | with_reducible exact ok_PWR_THERM_PEAK_C (by decide)
    | with_reducible apply okField_ite
    | (with_reducible show Nat.testBit _ _ = true; decide)
    | (with_reducible show subMask _ _ = true; decide)
    | (intro _ _ _; beta_reduce)
    | with_reducible apply Does.ite
    | split
    | apply Does.ite
    | dsimp -zeta only
    | refine Does.sndOf (by assumption) ?_
    | refine Does.fstOf (by assumption) ?_

theorem State.barRead_does {μ : Nat} {σ : State} (s : State) (off size : Nat) (hμ : subMask 34900828164 μ = true) (hδ : Does μ σ s) :
    Does μ σ (State.barRead s off size) := by
  refine Does.after (a := 34900828164) ?_ hμ hδ
  clear hδ hμ
  unfold State.barRead
  repeat' first
    | with_reducible assumption
    | with_reducible exact Does.rfl' _ _
    | (extract_lets +onlyGivenNames X_; refine Does.cut X_ ?_ ?_; (on_goal 2 => (intro _; clear_value X_)); (on_goal 1 => (dsimp -zeta only [X_]; clear X_)))
    | (extract_lets +onlyGivenNames X_; refine Does.cutOf (Prod.fst (α := State)) X_ ?_ ?_; (on_goal 2 => (intro _; clear_value X_)); (on_goal 1 => (dsimp -zeta only [X_]; clear X_)))
    | extract_lets +onlyGivenNames X_
    | with_reducible apply State.afterRead_does
    | with_reducible apply State.badArg_does
    | with_reducible apply State.emit_does
    | with_reducible apply State.take_does
    | with_reducible apply okField_ite
    | (with_reducible show Nat.testBit _ _ = true; decide)
    | (with_reducible show subMask _ _ = true; decide)
    | (intro _ _ _; beta_reduce)
    | with_reducible apply Does.ite
    | split
    | apply Does.ite
    | dsimp -zeta only
    | refine Does.sndOf (by assumption) ?_
    | refine Does.fstOf (by assumption) ?_

theorem execRegisterWrite_does (m : Master) (off : BitVec 24) (acc : RegAccess) (v : BitVec 64) (s : State) (τ : State) (hδ : execRegisterWrite m off acc v s = .next τ) : Does 34080061652991 s τ := by
  unfold execRegisterWrite at hδ
  obtain rfl := Host.Outcome.next.inj hδ
  clear hδ
  repeat' first
    | with_reducible assumption
    | with_reducible exact Does.rfl' _ _
    | (extract_lets +onlyGivenNames X_; refine Does.cut X_ ?_ ?_; (on_goal 2 => (intro _; clear_value X_)); (on_goal 1 => (dsimp -zeta only [X_]; clear X_)))
    | (extract_lets +onlyGivenNames X_; refine Does.cutOf (Prod.fst (α := State)) X_ ?_ ?_; (on_goal 2 => (intro _; clear_value X_)); (on_goal 1 => (dsimp -zeta only [X_]; clear X_)))
    | extract_lets +onlyGivenNames X_
    | with_reducible apply State.barRead_does
    | with_reducible apply State.barWrite_does
    | with_reducible apply State.emit_does
    | with_reducible apply okField_ite
    | (with_reducible show Nat.testBit _ _ = true; decide)
    | (with_reducible show subMask _ _ = true; decide)
    | (intro _ _ _; beta_reduce)
    | with_reducible apply Does.ite
    | split
    | apply Does.ite
    | dsimp -zeta only
    | refine Does.sndOf (by assumption) ?_
    | refine Does.fstOf (by assumption) ?_

theorem State.answerReg_does {μ : Nat} {σ : State} (s : State) (off : Nat) (hμ : subMask 4194308 μ = true) (hδ : Does μ σ s) :
    Does μ σ (State.answerReg s off) := by
  refine Does.after (a := 4194308) ?_ hμ hδ
  clear hδ hμ
  unfold State.answerReg
  repeat' first
    | with_reducible assumption
    | with_reducible exact Does.rfl' _ _
    | (extract_lets +onlyGivenNames X_; refine Does.cut X_ ?_ ?_; (on_goal 2 => (intro _; clear_value X_)); (on_goal 1 => (dsimp -zeta only [X_]; clear X_)))
    | (extract_lets +onlyGivenNames X_; refine Does.cutOf (Prod.fst (α := State)) X_ ?_ ?_; (on_goal 2 => (intro _; clear_value X_)); (on_goal 1 => (dsimp -zeta only [X_]; clear X_)))
    | extract_lets +onlyGivenNames X_
    | with_reducible apply State.afterRead_does
    | with_reducible apply State.emit_does
    | with_reducible apply okField_ite
    | (with_reducible show Nat.testBit _ _ = true; decide)
    | (with_reducible show subMask _ _ = true; decide)
    | (intro _ _ _; beta_reduce)
    | with_reducible apply Does.ite
    | split
    | apply Does.ite
    | dsimp -zeta only
    | refine Does.sndOf (by assumption) ?_
    | refine Does.fstOf (by assumption) ?_

theorem execPeakRead_does (s : State) (τ : State) (hδ : execPeakRead s = .next τ) : Does 4194308 s τ := by
  unfold execPeakRead at hδ
  obtain rfl := Host.Outcome.next.inj hδ
  clear hδ
  repeat' first
    | with_reducible assumption
    | with_reducible exact Does.rfl' _ _
    | (extract_lets +onlyGivenNames X_; refine Does.cut X_ ?_ ?_; (on_goal 2 => (intro _; clear_value X_)); (on_goal 1 => (dsimp -zeta only [X_]; clear X_)))
    | (extract_lets +onlyGivenNames X_; refine Does.cutOf (Prod.fst (α := State)) X_ ?_ ?_; (on_goal 2 => (intro _; clear_value X_)); (on_goal 1 => (dsimp -zeta only [X_]; clear X_)))
    | extract_lets +onlyGivenNames X_
    | with_reducible apply State.answerReg_does
    | with_reducible apply okField_ite
    | (with_reducible show Nat.testBit _ _ = true; decide)
    | (with_reducible show subMask _ _ = true; decide)
    | (intro _ _ _; beta_reduce)
    | with_reducible apply Does.ite
    | split
    | apply Does.ite
    | dsimp -zeta only
    | refine Does.sndOf (by assumption) ?_
    | refine Does.fstOf (by assumption) ?_

theorem execMgmtAccess_does (write : Bool) (off : BitVec 24) (data : BitVec 64) (s : State) (τ : State) (hδ : execMgmtAccess write off data s = .next τ) : Does 34080061652991 s τ := by
  unfold execMgmtAccess at hδ
  obtain rfl := Host.Outcome.next.inj hδ
  clear hδ
  repeat' first
    | with_reducible assumption
    | with_reducible exact Does.rfl' _ _
    | (extract_lets +onlyGivenNames X_; refine Does.cut X_ ?_ ?_; (on_goal 2 => (intro _; clear_value X_)); (on_goal 1 => (dsimp -zeta only [X_]; clear X_)))
    | (extract_lets +onlyGivenNames X_; refine Does.cutOf (Prod.fst (α := State)) X_ ?_ ?_; (on_goal 2 => (intro _; clear_value X_)); (on_goal 1 => (dsimp -zeta only [X_]; clear X_)))
    | extract_lets +onlyGivenNames X_
    | with_reducible apply State.answerReg_does
    | with_reducible apply State.badArg_does
    | with_reducible apply State.barWrite_does
    | with_reducible apply State.emit_does
    | with_reducible apply okField_ite
    | (with_reducible show Nat.testBit _ _ = true; decide)
    | (with_reducible show subMask _ _ = true; decide)
    | (intro _ _ _; beta_reduce)
    | with_reducible apply Does.ite
    | split
    | apply Does.ite
    | dsimp -zeta only
    | refine Does.sndOf (by assumption) ?_
    | refine Does.fstOf (by assumption) ?_

end Sys2Proof.Machine
end

