-- ==== Sys2Proof/Laws/Runs.lean ====
section
/-! SUPPORT. Laws/Runs.lean: how a command's frame (Laws/Frame.lean) gives what the statements say of a command that completes. -/

namespace Sys2Proof.Machine

/-- Every part. -/
def Part.all : List Part :=
  [.glbRegs, .bootRegs, .pwrRegs, .chartRegs, .stepRegs, .streamRegs, .hqRegs, .tierRegs, .ftlRegs, .cluRegs, .skeinRegs, .cdpRegs,
   .hbmRegs, .faultRegs, .logRegs, .gaugeRegs, .idleRegs, .tensionRegs, .syncRegs, .row, .memory, .marks, .sent, .free, .flagOut,
   .flagIn, .idleRuns, .tension, .paceBad, .logRound, .chart, .step, .stash, .sync, .fault, .ledgers, .ports, .power, .tier, .streams,
   .barriers, .host, .flash, .update, .clusters, .gauge]

theorem Part.mem_all (p : Part) : p ∈ Part.all := by cases p <;> decide

/-- Whether every part that a mask leaves out of a list is untouched by the mask. -/
def Part.covers (l : List Part) (m : Nat) : Bool := Part.all.all (fun p => l.contains p || !m.testBit p.idx)

/-- A frame by mask gives a frame by parts. -/
theorem Does.only {m : Nat} {s t : State} (h : Does m s t) (l : List Part) (hl : Part.covers l m = true) : OnlyChanges l s t := by
  refine ⟨h.pending, fun p hp => h.frame p ?_⟩
  have := (List.all_eq_true.mp hl) p (Part.mem_all p)
  simp only [Bool.or_eq_true, Bool.not_eq_true'] at this
  rcases this with h1 | h1
  · exact absurd (List.contains_iff_mem.mp h1) hp
  · exact h1

/-- How a completion statement is proved: the next state, the command's frame, and what the next state holds. -/
theorem Runs.of {i : Instr} {s t : State} {m : Nat} {l : List Part} {post : State → Prop} (he : exec i s = .next t) (hd : Does m s t)
    (hl : Part.covers l m = true) (hp : post t) : Runs i s l post := ⟨t, he, hd.only l hl, hp⟩

/-- What follows from a completion follows from a stronger one. -/
theorem Runs.mono {i : Instr} {s : State} {l : List Part} {p q : State → Prop} (h : Runs i s l p) (hpq : ∀ t, p t → q t) : Runs i s l q :=
  let ⟨t, he, hf, hp⟩ := h
  ⟨t, he, hf, hpq t hp⟩

/-- The blocks are numbered 0 to 18. -/
theorem blockOf_le (a : Nat) : blockOf a ≤ 18 := by
  unfold blockOf
  exact List.countP_le_length

/-- A register field of a block that an operation leaves alone reads as before. -/
theorem Does.rf {m : Nat} {s t : State} (h : Does m s t) (f : Fld) (hb : m.testBit f.blk = false) : t.rf f = s.rf f := by
  have hp : ∃ p : Part, p.idx = f.blk ∧ ∀ u v : State, p.same u v = ∀ f : Fld, f.blk = p.idx → v.rf f = u.rf f := by
    have h18 : f.blk ≤ 18 := blockOf_le _
    generalize f.blk = k at h18
    interval_cases k
    exacts [⟨.glbRegs, rfl, fun _ _ => rfl⟩, ⟨.bootRegs, rfl, fun _ _ => rfl⟩, ⟨.pwrRegs, rfl, fun _ _ => rfl⟩,
      ⟨.chartRegs, rfl, fun _ _ => rfl⟩, ⟨.stepRegs, rfl, fun _ _ => rfl⟩, ⟨.streamRegs, rfl, fun _ _ => rfl⟩,
      ⟨.hqRegs, rfl, fun _ _ => rfl⟩, ⟨.tierRegs, rfl, fun _ _ => rfl⟩, ⟨.ftlRegs, rfl, fun _ _ => rfl⟩,
      ⟨.cluRegs, rfl, fun _ _ => rfl⟩, ⟨.skeinRegs, rfl, fun _ _ => rfl⟩, ⟨.cdpRegs, rfl, fun _ _ => rfl⟩,
      ⟨.hbmRegs, rfl, fun _ _ => rfl⟩, ⟨.faultRegs, rfl, fun _ _ => rfl⟩, ⟨.logRegs, rfl, fun _ _ => rfl⟩,
      ⟨.gaugeRegs, rfl, fun _ _ => rfl⟩, ⟨.idleRegs, rfl, fun _ _ => rfl⟩, ⟨.tensionRegs, rfl, fun _ _ => rfl⟩,
      ⟨.syncRegs, rfl, fun _ _ => rfl⟩]
  obtain ⟨p, hi, hs⟩ := hp
  have := h.frame p (by rw [hi]; exact hb)
  rw [hs] at this
  exact this f hi.symm

end Sys2Proof.Machine
end

