-- ==== Sys2Proof/Laws/State.lean ====
section
/-! SUPPORT. Laws/State.lean: what the plain writers leave alone, one lemma for each field of State and each writer, and what each writes. -/

namespace Sys2Proof.Machine

@[simp] theorem State.set_pending (s : State) (f : Fld) (v : Nat) : (s.set f v).pending = s.pending := rfl
@[simp] theorem State.set_row (s : State) (f : Fld) (v : Nat) : (s.set f v).row = s.row := rfl
@[simp] theorem State.set_mem (s : State) (f : Fld) (v : Nat) : (s.set f v).mem = s.mem := rfl
@[simp] theorem State.set_lostHbm (s : State) (f : Fld) (v : Nat) : (s.set f v).lostHbm = s.lostHbm := rfl
@[simp] theorem State.set_hbmKept (s : State) (f : Fld) (v : Nat) : (s.set f v).hbmKept = s.hbmKept := rfl
@[simp] theorem State.set_marks (s : State) (f : Fld) (v : Nat) : (s.set f v).marks = s.marks := rfl
@[simp] theorem State.set_sent (s : State) (f : Fld) (v : Nat) : (s.set f v).sent = s.sent := rfl
@[simp] theorem State.set_free (s : State) (f : Fld) (v : Nat) : (s.set f v).free = s.free := rfl
@[simp] theorem State.set_flagOut (s : State) (f : Fld) (v : Nat) : (s.set f v).flagOut = s.flagOut := rfl
@[simp] theorem State.set_flagIn (s : State) (f : Fld) (v : Nat) : (s.set f v).flagIn = s.flagIn := rfl
@[simp] theorem State.set_idleRun (s : State) (f : Fld) (v : Nat) : (s.set f v).idleRun = s.idleRun := rfl
@[simp] theorem State.set_idleStep (s : State) (f : Fld) (v : Nat) : (s.set f v).idleStep = s.idleStep := rfl
@[simp] theorem State.set_idleFig (s : State) (f : Fld) (v : Nat) : (s.set f v).idleFig = s.idleFig := rfl
@[simp] theorem State.set_tens (s : State) (f : Fld) (v : Nat) : (s.set f v).tens = s.tens := rfl
@[simp] theorem State.set_tensPeak (s : State) (f : Fld) (v : Nat) : (s.set f v).tensPeak = s.tensPeak := rfl
@[simp] theorem State.set_paceBad (s : State) (f : Fld) (v : Nat) : (s.set f v).paceBad = s.paceBad := rfl
@[simp] theorem State.set_logRound (s : State) (f : Fld) (v : Nat) : (s.set f v).logRound = s.logRound := rfl
@[simp] theorem State.set_chart (s : State) (f : Fld) (v : Nat) : (s.set f v).chart = s.chart := rfl
@[simp] theorem State.set_step (s : State) (f : Fld) (v : Nat) : (s.set f v).step = s.step := rfl
@[simp] theorem State.set_stash (s : State) (f : Fld) (v : Nat) : (s.set f v).stash = s.stash := rfl
@[simp] theorem State.set_sync (s : State) (f : Fld) (v : Nat) : (s.set f v).sync = s.sync := rfl
@[simp] theorem State.set_fault (s : State) (f : Fld) (v : Nat) : (s.set f v).fault = s.fault := rfl
@[simp] theorem State.set_led (s : State) (f : Fld) (v : Nat) : (s.set f v).led = s.led := rfl
@[simp] theorem State.set_ports (s : State) (f : Fld) (v : Nat) : (s.set f v).ports = s.ports := rfl
@[simp] theorem State.set_pwr (s : State) (f : Fld) (v : Nat) : (s.set f v).pwr = s.pwr := rfl
@[simp] theorem State.set_tier (s : State) (f : Fld) (v : Nat) : (s.set f v).tier = s.tier := rfl
@[simp] theorem State.set_strs (s : State) (f : Fld) (v : Nat) : (s.set f v).strs = s.strs := rfl
@[simp] theorem State.set_bar (s : State) (f : Fld) (v : Nat) : (s.set f v).bar = s.bar := rfl
@[simp] theorem State.set_host (s : State) (f : Fld) (v : Nat) : (s.set f v).host = s.host := rfl
@[simp] theorem State.set_ftl (s : State) (f : Fld) (v : Nat) : (s.set f v).ftl = s.ftl := rfl
@[simp] theorem State.set_upd (s : State) (f : Fld) (v : Nat) : (s.set f v).upd = s.upd := rfl
@[simp] theorem State.set_clu (s : State) (f : Fld) (v : Nat) : (s.set f v).clu = s.clu := rfl
@[simp] theorem State.set_gauge (s : State) (f : Fld) (v : Nat) : (s.set f v).gauge = s.gauge := rfl

@[simp] theorem State.setStr_pending (s : State) (n : Nat) (x : StreamX) : (s.setStr n x).pending = s.pending := rfl
@[simp] theorem State.setStr_row (s : State) (n : Nat) (x : StreamX) : (s.setStr n x).row = s.row := rfl
@[simp] theorem State.setStr_regs (s : State) (n : Nat) (x : StreamX) : (s.setStr n x).regs = s.regs := rfl
@[simp] theorem State.setStr_mem (s : State) (n : Nat) (x : StreamX) : (s.setStr n x).mem = s.mem := rfl
@[simp] theorem State.setStr_lostHbm (s : State) (n : Nat) (x : StreamX) : (s.setStr n x).lostHbm = s.lostHbm := rfl
@[simp] theorem State.setStr_hbmKept (s : State) (n : Nat) (x : StreamX) : (s.setStr n x).hbmKept = s.hbmKept := rfl
@[simp] theorem State.setStr_marks (s : State) (n : Nat) (x : StreamX) : (s.setStr n x).marks = s.marks := rfl
@[simp] theorem State.setStr_sent (s : State) (n : Nat) (x : StreamX) : (s.setStr n x).sent = s.sent := rfl
@[simp] theorem State.setStr_free (s : State) (n : Nat) (x : StreamX) : (s.setStr n x).free = s.free := rfl
@[simp] theorem State.setStr_flagOut (s : State) (n : Nat) (x : StreamX) : (s.setStr n x).flagOut = s.flagOut := rfl
@[simp] theorem State.setStr_flagIn (s : State) (n : Nat) (x : StreamX) : (s.setStr n x).flagIn = s.flagIn := rfl
@[simp] theorem State.setStr_idleRun (s : State) (n : Nat) (x : StreamX) : (s.setStr n x).idleRun = s.idleRun := rfl
@[simp] theorem State.setStr_idleStep (s : State) (n : Nat) (x : StreamX) : (s.setStr n x).idleStep = s.idleStep := rfl
@[simp] theorem State.setStr_idleFig (s : State) (n : Nat) (x : StreamX) : (s.setStr n x).idleFig = s.idleFig := rfl
@[simp] theorem State.setStr_tens (s : State) (n : Nat) (x : StreamX) : (s.setStr n x).tens = s.tens := rfl
@[simp] theorem State.setStr_tensPeak (s : State) (n : Nat) (x : StreamX) : (s.setStr n x).tensPeak = s.tensPeak := rfl
@[simp] theorem State.setStr_paceBad (s : State) (n : Nat) (x : StreamX) : (s.setStr n x).paceBad = s.paceBad := rfl
@[simp] theorem State.setStr_logRound (s : State) (n : Nat) (x : StreamX) : (s.setStr n x).logRound = s.logRound := rfl
@[simp] theorem State.setStr_chart (s : State) (n : Nat) (x : StreamX) : (s.setStr n x).chart = s.chart := rfl
@[simp] theorem State.setStr_step (s : State) (n : Nat) (x : StreamX) : (s.setStr n x).step = s.step := rfl
@[simp] theorem State.setStr_stash (s : State) (n : Nat) (x : StreamX) : (s.setStr n x).stash = s.stash := rfl
@[simp] theorem State.setStr_sync (s : State) (n : Nat) (x : StreamX) : (s.setStr n x).sync = s.sync := rfl
@[simp] theorem State.setStr_fault (s : State) (n : Nat) (x : StreamX) : (s.setStr n x).fault = s.fault := rfl
@[simp] theorem State.setStr_led (s : State) (n : Nat) (x : StreamX) : (s.setStr n x).led = s.led := rfl
@[simp] theorem State.setStr_ports (s : State) (n : Nat) (x : StreamX) : (s.setStr n x).ports = s.ports := rfl
@[simp] theorem State.setStr_pwr (s : State) (n : Nat) (x : StreamX) : (s.setStr n x).pwr = s.pwr := rfl
@[simp] theorem State.setStr_tier (s : State) (n : Nat) (x : StreamX) : (s.setStr n x).tier = s.tier := rfl
@[simp] theorem State.setStr_bar (s : State) (n : Nat) (x : StreamX) : (s.setStr n x).bar = s.bar := rfl
@[simp] theorem State.setStr_host (s : State) (n : Nat) (x : StreamX) : (s.setStr n x).host = s.host := rfl
@[simp] theorem State.setStr_ftl (s : State) (n : Nat) (x : StreamX) : (s.setStr n x).ftl = s.ftl := rfl
@[simp] theorem State.setStr_upd (s : State) (n : Nat) (x : StreamX) : (s.setStr n x).upd = s.upd := rfl
@[simp] theorem State.setStr_clu (s : State) (n : Nat) (x : StreamX) : (s.setStr n x).clu = s.clu := rfl
@[simp] theorem State.setStr_gauge (s : State) (n : Nat) (x : StreamX) : (s.setStr n x).gauge = s.gauge := rfl
@[simp] theorem State.setStr_rf (s : State) (n : Nat) (x : StreamX) (g : Fld) : (s.setStr n x).rf g = s.rf g := rfl

@[simp] theorem State.emit_pending (s : State) (x : Sent) : (s.emit x).pending = s.pending := rfl
@[simp] theorem State.emit_row (s : State) (x : Sent) : (s.emit x).row = s.row := rfl
@[simp] theorem State.emit_regs (s : State) (x : Sent) : (s.emit x).regs = s.regs := rfl
@[simp] theorem State.emit_mem (s : State) (x : Sent) : (s.emit x).mem = s.mem := rfl
@[simp] theorem State.emit_lostHbm (s : State) (x : Sent) : (s.emit x).lostHbm = s.lostHbm := rfl
@[simp] theorem State.emit_hbmKept (s : State) (x : Sent) : (s.emit x).hbmKept = s.hbmKept := rfl
@[simp] theorem State.emit_marks (s : State) (x : Sent) : (s.emit x).marks = s.marks := rfl
@[simp] theorem State.emit_free (s : State) (x : Sent) : (s.emit x).free = s.free := rfl
@[simp] theorem State.emit_flagOut (s : State) (x : Sent) : (s.emit x).flagOut = s.flagOut := rfl
@[simp] theorem State.emit_flagIn (s : State) (x : Sent) : (s.emit x).flagIn = s.flagIn := rfl
@[simp] theorem State.emit_idleRun (s : State) (x : Sent) : (s.emit x).idleRun = s.idleRun := rfl
@[simp] theorem State.emit_idleStep (s : State) (x : Sent) : (s.emit x).idleStep = s.idleStep := rfl
@[simp] theorem State.emit_idleFig (s : State) (x : Sent) : (s.emit x).idleFig = s.idleFig := rfl
@[simp] theorem State.emit_tens (s : State) (x : Sent) : (s.emit x).tens = s.tens := rfl
@[simp] theorem State.emit_tensPeak (s : State) (x : Sent) : (s.emit x).tensPeak = s.tensPeak := rfl
@[simp] theorem State.emit_paceBad (s : State) (x : Sent) : (s.emit x).paceBad = s.paceBad := rfl
@[simp] theorem State.emit_logRound (s : State) (x : Sent) : (s.emit x).logRound = s.logRound := rfl
@[simp] theorem State.emit_chart (s : State) (x : Sent) : (s.emit x).chart = s.chart := rfl
@[simp] theorem State.emit_step (s : State) (x : Sent) : (s.emit x).step = s.step := rfl
@[simp] theorem State.emit_stash (s : State) (x : Sent) : (s.emit x).stash = s.stash := rfl
@[simp] theorem State.emit_sync (s : State) (x : Sent) : (s.emit x).sync = s.sync := rfl
@[simp] theorem State.emit_fault (s : State) (x : Sent) : (s.emit x).fault = s.fault := rfl
@[simp] theorem State.emit_led (s : State) (x : Sent) : (s.emit x).led = s.led := rfl
@[simp] theorem State.emit_ports (s : State) (x : Sent) : (s.emit x).ports = s.ports := rfl
@[simp] theorem State.emit_pwr (s : State) (x : Sent) : (s.emit x).pwr = s.pwr := rfl
@[simp] theorem State.emit_tier (s : State) (x : Sent) : (s.emit x).tier = s.tier := rfl
@[simp] theorem State.emit_strs (s : State) (x : Sent) : (s.emit x).strs = s.strs := rfl
@[simp] theorem State.emit_bar (s : State) (x : Sent) : (s.emit x).bar = s.bar := rfl
@[simp] theorem State.emit_host (s : State) (x : Sent) : (s.emit x).host = s.host := rfl
@[simp] theorem State.emit_ftl (s : State) (x : Sent) : (s.emit x).ftl = s.ftl := rfl
@[simp] theorem State.emit_upd (s : State) (x : Sent) : (s.emit x).upd = s.upd := rfl
@[simp] theorem State.emit_clu (s : State) (x : Sent) : (s.emit x).clu = s.clu := rfl
@[simp] theorem State.emit_gauge (s : State) (x : Sent) : (s.emit x).gauge = s.gauge := rfl
@[simp] theorem State.emit_rf (s : State) (x : Sent) (g : Fld) : (s.emit x).rf g = s.rf g := rfl

@[simp] theorem State.setPort_pending (s : State) (p : Nat) (x : PortSt) : (s.setPort p x).pending = s.pending := rfl
@[simp] theorem State.setPort_row (s : State) (p : Nat) (x : PortSt) : (s.setPort p x).row = s.row := rfl
@[simp] theorem State.setPort_regs (s : State) (p : Nat) (x : PortSt) : (s.setPort p x).regs = s.regs := rfl
@[simp] theorem State.setPort_mem (s : State) (p : Nat) (x : PortSt) : (s.setPort p x).mem = s.mem := rfl
@[simp] theorem State.setPort_lostHbm (s : State) (p : Nat) (x : PortSt) : (s.setPort p x).lostHbm = s.lostHbm := rfl
@[simp] theorem State.setPort_hbmKept (s : State) (p : Nat) (x : PortSt) : (s.setPort p x).hbmKept = s.hbmKept := rfl
@[simp] theorem State.setPort_marks (s : State) (p : Nat) (x : PortSt) : (s.setPort p x).marks = s.marks := rfl
@[simp] theorem State.setPort_sent (s : State) (p : Nat) (x : PortSt) : (s.setPort p x).sent = s.sent := rfl
@[simp] theorem State.setPort_free (s : State) (p : Nat) (x : PortSt) : (s.setPort p x).free = s.free := rfl
@[simp] theorem State.setPort_flagOut (s : State) (p : Nat) (x : PortSt) : (s.setPort p x).flagOut = s.flagOut := rfl
@[simp] theorem State.setPort_flagIn (s : State) (p : Nat) (x : PortSt) : (s.setPort p x).flagIn = s.flagIn := rfl
@[simp] theorem State.setPort_idleRun (s : State) (p : Nat) (x : PortSt) : (s.setPort p x).idleRun = s.idleRun := rfl
@[simp] theorem State.setPort_idleStep (s : State) (p : Nat) (x : PortSt) : (s.setPort p x).idleStep = s.idleStep := rfl
@[simp] theorem State.setPort_idleFig (s : State) (p : Nat) (x : PortSt) : (s.setPort p x).idleFig = s.idleFig := rfl
@[simp] theorem State.setPort_tens (s : State) (p : Nat) (x : PortSt) : (s.setPort p x).tens = s.tens := rfl
@[simp] theorem State.setPort_tensPeak (s : State) (p : Nat) (x : PortSt) : (s.setPort p x).tensPeak = s.tensPeak := rfl
@[simp] theorem State.setPort_paceBad (s : State) (p : Nat) (x : PortSt) : (s.setPort p x).paceBad = s.paceBad := rfl
@[simp] theorem State.setPort_logRound (s : State) (p : Nat) (x : PortSt) : (s.setPort p x).logRound = s.logRound := rfl
@[simp] theorem State.setPort_chart (s : State) (p : Nat) (x : PortSt) : (s.setPort p x).chart = s.chart := rfl
@[simp] theorem State.setPort_step (s : State) (p : Nat) (x : PortSt) : (s.setPort p x).step = s.step := rfl
@[simp] theorem State.setPort_stash (s : State) (p : Nat) (x : PortSt) : (s.setPort p x).stash = s.stash := rfl
@[simp] theorem State.setPort_sync (s : State) (p : Nat) (x : PortSt) : (s.setPort p x).sync = s.sync := rfl
@[simp] theorem State.setPort_fault (s : State) (p : Nat) (x : PortSt) : (s.setPort p x).fault = s.fault := rfl
@[simp] theorem State.setPort_led (s : State) (p : Nat) (x : PortSt) : (s.setPort p x).led = s.led := rfl
@[simp] theorem State.setPort_pwr (s : State) (p : Nat) (x : PortSt) : (s.setPort p x).pwr = s.pwr := rfl
@[simp] theorem State.setPort_tier (s : State) (p : Nat) (x : PortSt) : (s.setPort p x).tier = s.tier := rfl
@[simp] theorem State.setPort_strs (s : State) (p : Nat) (x : PortSt) : (s.setPort p x).strs = s.strs := rfl
@[simp] theorem State.setPort_bar (s : State) (p : Nat) (x : PortSt) : (s.setPort p x).bar = s.bar := rfl
@[simp] theorem State.setPort_host (s : State) (p : Nat) (x : PortSt) : (s.setPort p x).host = s.host := rfl
@[simp] theorem State.setPort_ftl (s : State) (p : Nat) (x : PortSt) : (s.setPort p x).ftl = s.ftl := rfl
@[simp] theorem State.setPort_upd (s : State) (p : Nat) (x : PortSt) : (s.setPort p x).upd = s.upd := rfl
@[simp] theorem State.setPort_clu (s : State) (p : Nat) (x : PortSt) : (s.setPort p x).clu = s.clu := rfl
@[simp] theorem State.setPort_gauge (s : State) (p : Nat) (x : PortSt) : (s.setPort p x).gauge = s.gauge := rfl
@[simp] theorem State.setPort_rf (s : State) (p : Nat) (x : PortSt) (g : Fld) : (s.setPort p x).rf g = s.rf g := rfl

@[simp] theorem State.setSst_pending (s : State) (n st w : Nat) : (s.setSst n st w).pending = s.pending := rfl
@[simp] theorem State.setSst_row (s : State) (n st w : Nat) : (s.setSst n st w).row = s.row := rfl
@[simp] theorem State.setSst_mem (s : State) (n st w : Nat) : (s.setSst n st w).mem = s.mem := rfl
@[simp] theorem State.setSst_lostHbm (s : State) (n st w : Nat) : (s.setSst n st w).lostHbm = s.lostHbm := rfl
@[simp] theorem State.setSst_hbmKept (s : State) (n st w : Nat) : (s.setSst n st w).hbmKept = s.hbmKept := rfl
@[simp] theorem State.setSst_marks (s : State) (n st w : Nat) : (s.setSst n st w).marks = s.marks := rfl
@[simp] theorem State.setSst_sent (s : State) (n st w : Nat) : (s.setSst n st w).sent = s.sent := rfl
@[simp] theorem State.setSst_free (s : State) (n st w : Nat) : (s.setSst n st w).free = s.free := rfl
@[simp] theorem State.setSst_flagOut (s : State) (n st w : Nat) : (s.setSst n st w).flagOut = s.flagOut := rfl
@[simp] theorem State.setSst_flagIn (s : State) (n st w : Nat) : (s.setSst n st w).flagIn = s.flagIn := rfl
@[simp] theorem State.setSst_idleRun (s : State) (n st w : Nat) : (s.setSst n st w).idleRun = s.idleRun := rfl
@[simp] theorem State.setSst_idleStep (s : State) (n st w : Nat) : (s.setSst n st w).idleStep = s.idleStep := rfl
@[simp] theorem State.setSst_idleFig (s : State) (n st w : Nat) : (s.setSst n st w).idleFig = s.idleFig := rfl
@[simp] theorem State.setSst_tens (s : State) (n st w : Nat) : (s.setSst n st w).tens = s.tens := rfl
@[simp] theorem State.setSst_tensPeak (s : State) (n st w : Nat) : (s.setSst n st w).tensPeak = s.tensPeak := rfl
@[simp] theorem State.setSst_paceBad (s : State) (n st w : Nat) : (s.setSst n st w).paceBad = s.paceBad := rfl
@[simp] theorem State.setSst_logRound (s : State) (n st w : Nat) : (s.setSst n st w).logRound = s.logRound := rfl
@[simp] theorem State.setSst_chart (s : State) (n st w : Nat) : (s.setSst n st w).chart = s.chart := rfl
@[simp] theorem State.setSst_step (s : State) (n st w : Nat) : (s.setSst n st w).step = s.step := rfl
@[simp] theorem State.setSst_stash (s : State) (n st w : Nat) : (s.setSst n st w).stash = s.stash := rfl
@[simp] theorem State.setSst_sync (s : State) (n st w : Nat) : (s.setSst n st w).sync = s.sync := rfl
@[simp] theorem State.setSst_fault (s : State) (n st w : Nat) : (s.setSst n st w).fault = s.fault := rfl
@[simp] theorem State.setSst_led (s : State) (n st w : Nat) : (s.setSst n st w).led = s.led := rfl
@[simp] theorem State.setSst_ports (s : State) (n st w : Nat) : (s.setSst n st w).ports = s.ports := rfl
@[simp] theorem State.setSst_pwr (s : State) (n st w : Nat) : (s.setSst n st w).pwr = s.pwr := rfl
@[simp] theorem State.setSst_tier (s : State) (n st w : Nat) : (s.setSst n st w).tier = s.tier := rfl
@[simp] theorem State.setSst_strs (s : State) (n st w : Nat) : (s.setSst n st w).strs = s.strs := rfl
@[simp] theorem State.setSst_bar (s : State) (n st w : Nat) : (s.setSst n st w).bar = s.bar := rfl
@[simp] theorem State.setSst_host (s : State) (n st w : Nat) : (s.setSst n st w).host = s.host := rfl
@[simp] theorem State.setSst_ftl (s : State) (n st w : Nat) : (s.setSst n st w).ftl = s.ftl := rfl
@[simp] theorem State.setSst_upd (s : State) (n st w : Nat) : (s.setSst n st w).upd = s.upd := rfl
@[simp] theorem State.setSst_clu (s : State) (n st w : Nat) : (s.setSst n st w).clu = s.clu := rfl
@[simp] theorem State.setSst_gauge (s : State) (n st w : Nat) : (s.setSst n st w).gauge = s.gauge := rfl

@[simp] theorem State.setPba_pending (s : State) (v : Nat) (b : Bool) : (s.setPba v b).pending = s.pending := rfl
@[simp] theorem State.setPba_row (s : State) (v : Nat) (b : Bool) : (s.setPba v b).row = s.row := rfl
@[simp] theorem State.setPba_mem (s : State) (v : Nat) (b : Bool) : (s.setPba v b).mem = s.mem := rfl
@[simp] theorem State.setPba_lostHbm (s : State) (v : Nat) (b : Bool) : (s.setPba v b).lostHbm = s.lostHbm := rfl
@[simp] theorem State.setPba_hbmKept (s : State) (v : Nat) (b : Bool) : (s.setPba v b).hbmKept = s.hbmKept := rfl
@[simp] theorem State.setPba_marks (s : State) (v : Nat) (b : Bool) : (s.setPba v b).marks = s.marks := rfl
@[simp] theorem State.setPba_sent (s : State) (v : Nat) (b : Bool) : (s.setPba v b).sent = s.sent := rfl
@[simp] theorem State.setPba_free (s : State) (v : Nat) (b : Bool) : (s.setPba v b).free = s.free := rfl
@[simp] theorem State.setPba_flagOut (s : State) (v : Nat) (b : Bool) : (s.setPba v b).flagOut = s.flagOut := rfl
@[simp] theorem State.setPba_flagIn (s : State) (v : Nat) (b : Bool) : (s.setPba v b).flagIn = s.flagIn := rfl
@[simp] theorem State.setPba_idleRun (s : State) (v : Nat) (b : Bool) : (s.setPba v b).idleRun = s.idleRun := rfl
@[simp] theorem State.setPba_idleStep (s : State) (v : Nat) (b : Bool) : (s.setPba v b).idleStep = s.idleStep := rfl
@[simp] theorem State.setPba_idleFig (s : State) (v : Nat) (b : Bool) : (s.setPba v b).idleFig = s.idleFig := rfl
@[simp] theorem State.setPba_tens (s : State) (v : Nat) (b : Bool) : (s.setPba v b).tens = s.tens := rfl
@[simp] theorem State.setPba_tensPeak (s : State) (v : Nat) (b : Bool) : (s.setPba v b).tensPeak = s.tensPeak := rfl
@[simp] theorem State.setPba_paceBad (s : State) (v : Nat) (b : Bool) : (s.setPba v b).paceBad = s.paceBad := rfl
@[simp] theorem State.setPba_logRound (s : State) (v : Nat) (b : Bool) : (s.setPba v b).logRound = s.logRound := rfl
@[simp] theorem State.setPba_chart (s : State) (v : Nat) (b : Bool) : (s.setPba v b).chart = s.chart := rfl
@[simp] theorem State.setPba_step (s : State) (v : Nat) (b : Bool) : (s.setPba v b).step = s.step := rfl
@[simp] theorem State.setPba_stash (s : State) (v : Nat) (b : Bool) : (s.setPba v b).stash = s.stash := rfl
@[simp] theorem State.setPba_sync (s : State) (v : Nat) (b : Bool) : (s.setPba v b).sync = s.sync := rfl
@[simp] theorem State.setPba_fault (s : State) (v : Nat) (b : Bool) : (s.setPba v b).fault = s.fault := rfl
@[simp] theorem State.setPba_led (s : State) (v : Nat) (b : Bool) : (s.setPba v b).led = s.led := rfl
@[simp] theorem State.setPba_ports (s : State) (v : Nat) (b : Bool) : (s.setPba v b).ports = s.ports := rfl
@[simp] theorem State.setPba_pwr (s : State) (v : Nat) (b : Bool) : (s.setPba v b).pwr = s.pwr := rfl
@[simp] theorem State.setPba_tier (s : State) (v : Nat) (b : Bool) : (s.setPba v b).tier = s.tier := rfl
@[simp] theorem State.setPba_strs (s : State) (v : Nat) (b : Bool) : (s.setPba v b).strs = s.strs := rfl
@[simp] theorem State.setPba_bar (s : State) (v : Nat) (b : Bool) : (s.setPba v b).bar = s.bar := rfl
@[simp] theorem State.setPba_host (s : State) (v : Nat) (b : Bool) : (s.setPba v b).host = s.host := rfl
@[simp] theorem State.setPba_ftl (s : State) (v : Nat) (b : Bool) : (s.setPba v b).ftl = s.ftl := rfl
@[simp] theorem State.setPba_upd (s : State) (v : Nat) (b : Bool) : (s.setPba v b).upd = s.upd := rfl
@[simp] theorem State.setPba_clu (s : State) (v : Nat) (b : Bool) : (s.setPba v b).clu = s.clu := rfl
@[simp] theorem State.setPba_gauge (s : State) (v : Nat) (b : Bool) : (s.setPba v b).gauge = s.gauge := rfl

@[simp] theorem State.setByte_pending (s : State) (da : Nat) (b : Byte) : (s.setByte da b).pending = s.pending := rfl
@[simp] theorem State.setByte_row (s : State) (da : Nat) (b : Byte) : (s.setByte da b).row = s.row := rfl
@[simp] theorem State.setByte_regs (s : State) (da : Nat) (b : Byte) : (s.setByte da b).regs = s.regs := rfl
@[simp] theorem State.setByte_lostHbm (s : State) (da : Nat) (b : Byte) : (s.setByte da b).lostHbm = s.lostHbm := rfl
@[simp] theorem State.setByte_hbmKept (s : State) (da : Nat) (b : Byte) : (s.setByte da b).hbmKept = s.hbmKept := rfl
@[simp] theorem State.setByte_marks (s : State) (da : Nat) (b : Byte) : (s.setByte da b).marks = s.marks := rfl
@[simp] theorem State.setByte_sent (s : State) (da : Nat) (b : Byte) : (s.setByte da b).sent = s.sent := rfl
@[simp] theorem State.setByte_free (s : State) (da : Nat) (b : Byte) : (s.setByte da b).free = s.free := rfl
@[simp] theorem State.setByte_flagOut (s : State) (da : Nat) (b : Byte) : (s.setByte da b).flagOut = s.flagOut := rfl
@[simp] theorem State.setByte_flagIn (s : State) (da : Nat) (b : Byte) : (s.setByte da b).flagIn = s.flagIn := rfl
@[simp] theorem State.setByte_idleRun (s : State) (da : Nat) (b : Byte) : (s.setByte da b).idleRun = s.idleRun := rfl
@[simp] theorem State.setByte_idleStep (s : State) (da : Nat) (b : Byte) : (s.setByte da b).idleStep = s.idleStep := rfl
@[simp] theorem State.setByte_idleFig (s : State) (da : Nat) (b : Byte) : (s.setByte da b).idleFig = s.idleFig := rfl
@[simp] theorem State.setByte_tens (s : State) (da : Nat) (b : Byte) : (s.setByte da b).tens = s.tens := rfl
@[simp] theorem State.setByte_tensPeak (s : State) (da : Nat) (b : Byte) : (s.setByte da b).tensPeak = s.tensPeak := rfl
@[simp] theorem State.setByte_paceBad (s : State) (da : Nat) (b : Byte) : (s.setByte da b).paceBad = s.paceBad := rfl
@[simp] theorem State.setByte_logRound (s : State) (da : Nat) (b : Byte) : (s.setByte da b).logRound = s.logRound := rfl
@[simp] theorem State.setByte_chart (s : State) (da : Nat) (b : Byte) : (s.setByte da b).chart = s.chart := rfl
@[simp] theorem State.setByte_step (s : State) (da : Nat) (b : Byte) : (s.setByte da b).step = s.step := rfl
@[simp] theorem State.setByte_stash (s : State) (da : Nat) (b : Byte) : (s.setByte da b).stash = s.stash := rfl
@[simp] theorem State.setByte_sync (s : State) (da : Nat) (b : Byte) : (s.setByte da b).sync = s.sync := rfl
@[simp] theorem State.setByte_fault (s : State) (da : Nat) (b : Byte) : (s.setByte da b).fault = s.fault := rfl
@[simp] theorem State.setByte_led (s : State) (da : Nat) (b : Byte) : (s.setByte da b).led = s.led := rfl
@[simp] theorem State.setByte_ports (s : State) (da : Nat) (b : Byte) : (s.setByte da b).ports = s.ports := rfl
@[simp] theorem State.setByte_pwr (s : State) (da : Nat) (b : Byte) : (s.setByte da b).pwr = s.pwr := rfl
@[simp] theorem State.setByte_tier (s : State) (da : Nat) (b : Byte) : (s.setByte da b).tier = s.tier := rfl
@[simp] theorem State.setByte_strs (s : State) (da : Nat) (b : Byte) : (s.setByte da b).strs = s.strs := rfl
@[simp] theorem State.setByte_bar (s : State) (da : Nat) (b : Byte) : (s.setByte da b).bar = s.bar := rfl
@[simp] theorem State.setByte_host (s : State) (da : Nat) (b : Byte) : (s.setByte da b).host = s.host := rfl
@[simp] theorem State.setByte_ftl (s : State) (da : Nat) (b : Byte) : (s.setByte da b).ftl = s.ftl := rfl
@[simp] theorem State.setByte_upd (s : State) (da : Nat) (b : Byte) : (s.setByte da b).upd = s.upd := rfl
@[simp] theorem State.setByte_clu (s : State) (da : Nat) (b : Byte) : (s.setByte da b).clu = s.clu := rfl
@[simp] theorem State.setByte_gauge (s : State) (da : Nat) (b : Byte) : (s.setByte da b).gauge = s.gauge := rfl
@[simp] theorem State.setByte_rf (s : State) (da : Nat) (b : Byte) (g : Fld) : (s.setByte da b).rf g = s.rf g := rfl

@[simp] theorem State.bump_pending (s : State) (f : Fld) : (s.bump f).pending = s.pending := rfl
@[simp] theorem State.bump_row (s : State) (f : Fld) : (s.bump f).row = s.row := rfl
@[simp] theorem State.bump_mem (s : State) (f : Fld) : (s.bump f).mem = s.mem := rfl
@[simp] theorem State.bump_lostHbm (s : State) (f : Fld) : (s.bump f).lostHbm = s.lostHbm := rfl
@[simp] theorem State.bump_hbmKept (s : State) (f : Fld) : (s.bump f).hbmKept = s.hbmKept := rfl
@[simp] theorem State.bump_marks (s : State) (f : Fld) : (s.bump f).marks = s.marks := rfl
@[simp] theorem State.bump_sent (s : State) (f : Fld) : (s.bump f).sent = s.sent := rfl
@[simp] theorem State.bump_free (s : State) (f : Fld) : (s.bump f).free = s.free := rfl
@[simp] theorem State.bump_flagOut (s : State) (f : Fld) : (s.bump f).flagOut = s.flagOut := rfl
@[simp] theorem State.bump_flagIn (s : State) (f : Fld) : (s.bump f).flagIn = s.flagIn := rfl
@[simp] theorem State.bump_idleRun (s : State) (f : Fld) : (s.bump f).idleRun = s.idleRun := rfl
@[simp] theorem State.bump_idleStep (s : State) (f : Fld) : (s.bump f).idleStep = s.idleStep := rfl
@[simp] theorem State.bump_idleFig (s : State) (f : Fld) : (s.bump f).idleFig = s.idleFig := rfl
@[simp] theorem State.bump_tens (s : State) (f : Fld) : (s.bump f).tens = s.tens := rfl
@[simp] theorem State.bump_tensPeak (s : State) (f : Fld) : (s.bump f).tensPeak = s.tensPeak := rfl
@[simp] theorem State.bump_paceBad (s : State) (f : Fld) : (s.bump f).paceBad = s.paceBad := rfl
@[simp] theorem State.bump_logRound (s : State) (f : Fld) : (s.bump f).logRound = s.logRound := rfl
@[simp] theorem State.bump_chart (s : State) (f : Fld) : (s.bump f).chart = s.chart := rfl
@[simp] theorem State.bump_step (s : State) (f : Fld) : (s.bump f).step = s.step := rfl
@[simp] theorem State.bump_stash (s : State) (f : Fld) : (s.bump f).stash = s.stash := rfl
@[simp] theorem State.bump_sync (s : State) (f : Fld) : (s.bump f).sync = s.sync := rfl
@[simp] theorem State.bump_fault (s : State) (f : Fld) : (s.bump f).fault = s.fault := rfl
@[simp] theorem State.bump_led (s : State) (f : Fld) : (s.bump f).led = s.led := rfl
@[simp] theorem State.bump_ports (s : State) (f : Fld) : (s.bump f).ports = s.ports := rfl
@[simp] theorem State.bump_pwr (s : State) (f : Fld) : (s.bump f).pwr = s.pwr := rfl
@[simp] theorem State.bump_tier (s : State) (f : Fld) : (s.bump f).tier = s.tier := rfl
@[simp] theorem State.bump_strs (s : State) (f : Fld) : (s.bump f).strs = s.strs := rfl
@[simp] theorem State.bump_bar (s : State) (f : Fld) : (s.bump f).bar = s.bar := rfl
@[simp] theorem State.bump_host (s : State) (f : Fld) : (s.bump f).host = s.host := rfl
@[simp] theorem State.bump_ftl (s : State) (f : Fld) : (s.bump f).ftl = s.ftl := rfl
@[simp] theorem State.bump_upd (s : State) (f : Fld) : (s.bump f).upd = s.upd := rfl
@[simp] theorem State.bump_clu (s : State) (f : Fld) : (s.bump f).clu = s.clu := rfl
@[simp] theorem State.bump_gauge (s : State) (f : Fld) : (s.bump f).gauge = s.gauge := rfl

@[simp] theorem State.addSat_pending (s : State) (f : Fld) (n : Nat) : (s.addSat f n).pending = s.pending := rfl
@[simp] theorem State.addSat_row (s : State) (f : Fld) (n : Nat) : (s.addSat f n).row = s.row := rfl
@[simp] theorem State.addSat_mem (s : State) (f : Fld) (n : Nat) : (s.addSat f n).mem = s.mem := rfl
@[simp] theorem State.addSat_lostHbm (s : State) (f : Fld) (n : Nat) : (s.addSat f n).lostHbm = s.lostHbm := rfl
@[simp] theorem State.addSat_hbmKept (s : State) (f : Fld) (n : Nat) : (s.addSat f n).hbmKept = s.hbmKept := rfl
@[simp] theorem State.addSat_marks (s : State) (f : Fld) (n : Nat) : (s.addSat f n).marks = s.marks := rfl
@[simp] theorem State.addSat_sent (s : State) (f : Fld) (n : Nat) : (s.addSat f n).sent = s.sent := rfl
@[simp] theorem State.addSat_free (s : State) (f : Fld) (n : Nat) : (s.addSat f n).free = s.free := rfl
@[simp] theorem State.addSat_flagOut (s : State) (f : Fld) (n : Nat) : (s.addSat f n).flagOut = s.flagOut := rfl
@[simp] theorem State.addSat_flagIn (s : State) (f : Fld) (n : Nat) : (s.addSat f n).flagIn = s.flagIn := rfl
@[simp] theorem State.addSat_idleRun (s : State) (f : Fld) (n : Nat) : (s.addSat f n).idleRun = s.idleRun := rfl
@[simp] theorem State.addSat_idleStep (s : State) (f : Fld) (n : Nat) : (s.addSat f n).idleStep = s.idleStep := rfl
@[simp] theorem State.addSat_idleFig (s : State) (f : Fld) (n : Nat) : (s.addSat f n).idleFig = s.idleFig := rfl
@[simp] theorem State.addSat_tens (s : State) (f : Fld) (n : Nat) : (s.addSat f n).tens = s.tens := rfl
@[simp] theorem State.addSat_tensPeak (s : State) (f : Fld) (n : Nat) : (s.addSat f n).tensPeak = s.tensPeak := rfl
@[simp] theorem State.addSat_paceBad (s : State) (f : Fld) (n : Nat) : (s.addSat f n).paceBad = s.paceBad := rfl
@[simp] theorem State.addSat_logRound (s : State) (f : Fld) (n : Nat) : (s.addSat f n).logRound = s.logRound := rfl
@[simp] theorem State.addSat_chart (s : State) (f : Fld) (n : Nat) : (s.addSat f n).chart = s.chart := rfl
@[simp] theorem State.addSat_step (s : State) (f : Fld) (n : Nat) : (s.addSat f n).step = s.step := rfl
@[simp] theorem State.addSat_stash (s : State) (f : Fld) (n : Nat) : (s.addSat f n).stash = s.stash := rfl
@[simp] theorem State.addSat_sync (s : State) (f : Fld) (n : Nat) : (s.addSat f n).sync = s.sync := rfl
@[simp] theorem State.addSat_fault (s : State) (f : Fld) (n : Nat) : (s.addSat f n).fault = s.fault := rfl
@[simp] theorem State.addSat_led (s : State) (f : Fld) (n : Nat) : (s.addSat f n).led = s.led := rfl
@[simp] theorem State.addSat_ports (s : State) (f : Fld) (n : Nat) : (s.addSat f n).ports = s.ports := rfl
@[simp] theorem State.addSat_pwr (s : State) (f : Fld) (n : Nat) : (s.addSat f n).pwr = s.pwr := rfl
@[simp] theorem State.addSat_tier (s : State) (f : Fld) (n : Nat) : (s.addSat f n).tier = s.tier := rfl
@[simp] theorem State.addSat_strs (s : State) (f : Fld) (n : Nat) : (s.addSat f n).strs = s.strs := rfl
@[simp] theorem State.addSat_bar (s : State) (f : Fld) (n : Nat) : (s.addSat f n).bar = s.bar := rfl
@[simp] theorem State.addSat_host (s : State) (f : Fld) (n : Nat) : (s.addSat f n).host = s.host := rfl
@[simp] theorem State.addSat_ftl (s : State) (f : Fld) (n : Nat) : (s.addSat f n).ftl = s.ftl := rfl
@[simp] theorem State.addSat_upd (s : State) (f : Fld) (n : Nat) : (s.addSat f n).upd = s.upd := rfl
@[simp] theorem State.addSat_clu (s : State) (f : Fld) (n : Nat) : (s.addSat f n).clu = s.clu := rfl
@[simp] theorem State.addSat_gauge (s : State) (f : Fld) (n : Nat) : (s.addSat f n).gauge = s.gauge := rfl

/-! ## What is written -/

@[simp] theorem State.emit_sent (s : State) (x : Sent) : (s.emit x).sent = s.sent ++ [x] := rfl

@[simp] theorem State.setStr_str (s : State) (n : Nat) (x : StreamX) (k : Nat) : (s.setStr n x).str k = if k = n then x else s.str k :=
  SMap.get_put _ _ _ _ _

@[simp] theorem State.set_str (s : State) (f : Fld) (v k : Nat) : (s.set f v).str k = s.str k := rfl

@[simp] theorem State.emit_str (s : State) (x : Sent) (k : Nat) : (s.emit x).str k = s.str k := rfl

/-- STATE and WAIT of a context after they are written together. -/
theorem State.setSst_sst (s : State) (n st w : Nat) : (s.setSst n st w).sst n = st % 16 := by
  unfold State.setSst State.sst
  rw [State.rf_set_of_ne, State.rf_set_same]
  · rfl
  · simp [Fld.key, R.STREAM_RUN_STATE, R.STREAM_RUN_WAIT]

theorem State.setSst_wait (s : State) (n st w : Nat) : (s.setSst n st w).rf (R.STREAM_RUN_WAIT n) = w % 16 := by
  unfold State.setSst
  rw [State.rf_set_same]
  rfl

theorem State.setSst_of_ne (s : State) (n st w : Nat) (g : Fld) (h1 : g.key ≠ (R.STREAM_RUN_STATE n).key)
    (h2 : g.key ≠ (R.STREAM_RUN_WAIT n).key) : (s.setSst n st w).rf g = s.rf g := by
  unfold State.setSst
  rw [State.rf_set_of_ne _ _ _ _ h2, State.rf_set_of_ne _ _ _ _ h1]

end Sys2Proof.Machine
end

