-- ==== Sys2Proof/Laws/Streams.lean ====
section
/-! SUPPORT. Laws/Streams.lean: what the steps of a stream that its instructions share do to its registers. -/

namespace Sys2Proof.Machine

theorem OnlyWrites.refl (s : State) : OnlyWrites [] s s := fun _ _ => rfl

/-- One more field written. -/
theorem OnlyWrites.set {s₀ s : State} {fs : List Fld} (f : Fld) (v : Nat) (h : OnlyWrites fs s₀ s) : OnlyWrites (fs ++ [f]) s₀ (s.set f v) := by
  intro g hg
  simp only [List.mem_append, List.mem_cons, List.not_mem_nil, or_false] at hg
  rw [State.rf_set_of_ne _ _ _ _ (hg _ (.inr rfl))]
  exact h g (fun f hf => hg f (.inl hf))

/-- The same for a longer list. -/
theorem OnlyWrites.mono {s t : State} {fs gs : List Fld} (h : OnlyWrites fs s t) (hs : ∀ f ∈ fs, f ∈ gs) : OnlyWrites gs s t :=
  fun g hg => h g (fun f hf => hg f (hs f hf))

/-- A field written in the list already. -/
theorem OnlyWrites.set_mem {s₀ s : State} {fs : List Fld} (f : Fld) (v : Nat) (hf : f ∈ fs) (h : OnlyWrites fs s₀ s) :
    OnlyWrites fs s₀ (s.set f v) := (h.set f v).mono (by
    intro g hg
    rcases List.mem_append.mp hg with hg | hg
    · exact hg
    · rw [List.mem_singleton.mp hg]
      exact hf)

/-- Fields beside the registers do not matter. -/
theorem OnlyWrites.of_regs {s₀ s t : State} {fs : List Fld} (h : OnlyWrites fs s₀ s) (hr : t.regs = s.regs) : OnlyWrites fs s₀ t := by
  intro g hg
  rw [← h g hg]
  unfold State.rf
  rw [hr]

theorem State.atOp_op {s : State} {n op : Nat} (h : s.atOp n op = true) : uOp (s.unit n) = op := by
  simp only [State.atOp, Bool.and_eq_true, beq_iff_eq] at h
  exact h.2

theorem State.atOp_sst {s : State} {n op : Nat} (h : s.atOp n op = true) : s.sst n = ssRUN ∨ s.sst n = ssWAIT ∨ s.sst n = ssSEALED := by
  simp only [State.atOp, Bool.and_eq_true, beq_iff_eq, Bool.or_eq_true, or_assoc] at h
  exact h.1.1.2

/-- Every instruction but INLINE is one unit long. -/
theorem unitsOfInstr_one {u : List Byte} (h : uOp u ≠ opINLINE) : unitsOfInstr u = 1 := by simp [unitsOfInstr, h]

/-- The unit a stream stands at depends on its program and its PC only. -/
theorem State.unit_congr {s t : State} {n : Nat} (h1 : t.progOf n = s.progOf n) (h2 : t.rf (R.STREAM_RUN_PC n) = s.rf (R.STREAM_RUN_PC n)) :
    t.unit n = s.unit n := by
  unfold State.unit
  rw [h1, h2]

/-- A write to a field other than CTL.PROGRAM leaves a program. -/
theorem State.set_progOf (s : State) (f : Fld) (v n : Nat) (h : (R.STREAM_CTL_PROGRAM n).key ≠ f.key) : (s.set f v).progOf n = s.progOf n := by
  unfold State.progOf
  rw [State.set_str, State.set_chart, State.rf_set_of_ne _ _ _ _ h]

/-- A stream passes an instruction of one unit. -/
theorem State.passInstr_passed (s₀ s : State) (n : Nat) (h : unitsOfInstr (s.unit n) = 1) (hs : s.sst n = s₀.sst n) :
    Passed n (s.rf (R.STREAM_RUN_PC n) + 1) s₀ (s.passInstr n) := by
  unfold State.passInstr
  rw [h]
  have h0 : (s.set (R.STREAM_RUN_PC n) (s.rf (R.STREAM_RUN_PC n) + 1)).sst n = s₀.sst n := by
    rw [← hs]
    exact State.rf_set_of_ne _ _ _ _ (by simp [Fld.key, R.STREAM_RUN_STATE, R.STREAM_RUN_PC])
  refine ⟨?_, ?_, State.setSst_wait _ _ _ _⟩
  · rw [State.setSst_of_ne _ _ _ _ _ (by simp [Fld.key, R.STREAM_RUN_STATE, R.STREAM_RUN_PC])
      (by simp [Fld.key, R.STREAM_RUN_WAIT, R.STREAM_RUN_PC]), State.rf_set_same]
    rfl
  · rw [State.setSst_sst, h0]
    split <;> rfl

/-- Passing writes the PC, STATE and WAIT of its context only. -/
theorem OnlyWrites.passInstr {s₀ s : State} {n : Nat} {fs : List Fld} (h : OnlyWrites fs s₀ s) :
    OnlyWrites (fs ++ [R.STREAM_RUN_PC n, R.STREAM_RUN_STATE n, R.STREAM_RUN_WAIT n]) s₀ (s.passInstr n) := by
  unfold State.passInstr State.setSst
  exact (((h.set _ _).set _ _).set _ _).mono (by simp)

/-- A stream waits. -/
theorem State.waitOn_waits (s₀ s : State) (n w : Nat) (hw : w < 16) (hs : s.sst n = s₀.sst n)
    (hp : s.rf (R.STREAM_RUN_PC n) = s₀.rf (R.STREAM_RUN_PC n)) : Waits n w s₀ (s.waitOn n w) := by
  unfold State.waitOn
  refine ⟨?_, ?_, ?_⟩
  · rw [State.setSst_of_ne _ _ _ _ _ (by simp [Fld.key, R.STREAM_RUN_STATE, R.STREAM_RUN_PC])
      (by simp [Fld.key, R.STREAM_RUN_WAIT, R.STREAM_RUN_PC]), hp]
  · rw [State.setSst_sst, hs]
    split <;> rfl
  · rw [State.setSst_wait]
    omega

/-- Waiting writes STATE and WAIT of its context only. -/
theorem OnlyWrites.waitOn {s₀ s : State} {n w : Nat} {fs : List Fld} (h : OnlyWrites fs s₀ s) :
    OnlyWrites (fs ++ [R.STREAM_RUN_STATE n, R.STREAM_RUN_WAIT n]) s₀ (s.waitOn n w) := by
  unfold State.waitOn State.setSst
  exact ((h.set _ _).set _ _).mono (by simp)

end Sys2Proof.Machine
end

