-- ==== Sys2Proof/Laws/Time.lean ====
section
/-! SUPPORT. Laws/Time.lean: what moving the row counter to the count of an event does (R16, R37, R404). -/

namespace Sys2Proof.Machine

/-- The row counter after `passTo`. -/
@[simp] theorem State.passTo_row (s : State) (t : Nat) : (s.passTo t).row = max s.row t := by
  unfold State.passTo State.countIdle
  split
  · omega
  · split <;> simp only <;> omega

/-- `passTo` writes no register. -/
@[simp] theorem State.passTo_regs (s : State) (t : Nat) : (s.passTo t).regs = s.regs := by
  unfold State.passTo State.countIdle
  split
  · rfl
  · split <;> rfl

/-- `passTo` reads every field as before. -/
@[simp] theorem State.passTo_rf (s : State) (t : Nat) (f : Fld) : (s.passTo t).rf f = s.rf f := by
  unfold State.rf; rw [State.passTo_regs]

/-- The row counter after `advance`. -/
@[simp] theorem State.advance_row (s : State) (t : Nat) : (s.advance t).row = max s.row t := by
  unfold State.advance
  split
  · rename_i h
    have h2 := h.2.1
    rw [State.passTo_row]
    unfold State.enterReserve
    split
    · rw [State.set_row, State.passTo_row]; omega
    · rw [State.passTo_row]; omega
  · rw [State.passTo_row]

/-- `advance` writes no register but PHASE. -/
theorem State.advance_rf (s : State) (t : Nat) (f : Fld) (h : f.key ≠ R.STEP_STATUS_PHASE.key) : (s.advance t).rf f = s.rf f := by
  unfold State.advance
  split
  · rw [State.passTo_rf]
    unfold State.enterReserve
    split
    · rw [State.rf_set_of_ne _ _ _ _ h, State.passTo_rf]
    · rw [State.passTo_rf]
  · rw [State.passTo_rf]

/-- Outside the tail `advance` leaves the phase. -/
theorem State.advance_phase (s : State) (t : Nat) (h : s.phase ≠ phTAIL) : (s.advance t).phase = s.phase := by
  unfold State.advance
  simp only [h, false_and, if_false]
  exact State.passTo_rf _ _ _

end Sys2Proof.Machine
end

