-- ==== Sys2Proof/Laws/Writes.lean ====
section
/-! SUPPORT. Laws/Writes.lean: the register fields that the step's operations write, field by field. -/

namespace Sys2Proof.Machine

/-- One operation after another. -/
theorem OnlyWrites.trans {s t u : State} {fs gs : List Fld} (h1 : OnlyWrites fs s t) (h2 : OnlyWrites gs t u) : OnlyWrites (fs ++ gs) s u := by
  intro g hg
  rw [h2 g (fun f hf => hg f (List.mem_append_right _ hf)), h1 g (fun f hf => hg f (List.mem_append_left _ hf))]

/-- A field that is none of those written reads as before. -/
theorem OnlyWrites.rf {s t : State} {fs : List Fld} (h : OnlyWrites fs s t) (f : Fld)
    (hf : fs.all (fun g => decide (f.key ≠ g.key)) = true) : t.rf f = s.rf f :=
  h f (fun g hg => by simpa using List.all_eq_true.mp hf g hg)

/-- A state with the same registers. -/
theorem OnlyWrites.same {s t : State} (h : t.regs = s.regs) : OnlyWrites [] s t := fun g _ => by unfold State.rf; rw [h]

/-- One field written. -/
theorem OnlyWrites.one (s : State) (f : Fld) (v : Nat) : OnlyWrites [f] s (s.set f v) := (OnlyWrites.refl s).set f v

/-- Either of two states. -/
theorem OnlyWrites.ite {s a b : State} {c : Prop} [Decidable c] {fs : List Fld} (ha : OnlyWrites fs s a) (hb : OnlyWrites fs s b) :
    OnlyWrites fs s (if c then a else b) := by split <;> assumption

/-- Nothing written is at most anything written. -/
theorem OnlyWrites.nil {s t : State} {fs : List Fld} (h : OnlyWrites [] s t) : OnlyWrites fs s t := h.mono (by simp)

/-- An operation over a list that writes fields of one list only. -/
theorem OnlyWrites.foldl {β : Type} {s u : State} {fs : List Fld} (l : List β) (f : State → β → State) (h : OnlyWrites fs s u)
    (hf : ∀ v x, OnlyWrites fs v (f v x)) : OnlyWrites fs s (l.foldl f u) := by
  induction l generalizing u with
  | nil => exact h
  | cons a l ih => exact ih (fun g hg => (hf u a g hg).trans (h g hg))

theorem State.advance_only (s : State) (t : Nat) : OnlyWrites [R.STEP_STATUS_PHASE] s (s.advance t) :=
  fun g hg => State.advance_rf s t g (hg _ (by simp))

theorem State.raiseFlag_only (s : State) (c : Nat) : OnlyWrites [R.STEP_FLAG_RAISED, R.STEP_FLAG_CAUSE, R.STEP_FLAG_RAISE_AT] s (s.raiseFlag c) := by
  unfold State.raiseFlag
  split
  · exact (((OnlyWrites.refl s).set _ _).set _ _).set _ _
  · exact (OnlyWrites.refl s).nil

theorem State.reraiseUnserved_only (s : State) :
    OnlyWrites [R.STEP_FLAG_RAISED, R.STEP_FLAG_CAUSE, R.STEP_FLAG_RAISE_AT] s s.reraiseUnserved := by
  unfold State.reraiseUnserved
  split
  · exact (OnlyWrites.refl s).nil
  · exact s.raiseFlag_only _

theorem State.raiseTaint_only (s : State) : OnlyWrites [R.STEP_FLAG_RAISED, R.STEP_FLAG_CAUSE, R.STEP_FLAG_RAISE_AT] s s.raiseTaint := by
  unfold State.raiseTaint
  split
  · exact s.raiseFlag_only _
  · exact (OnlyWrites.refl s).nil

theorem State.takeLr_only (s : State) (n : Nat) : OnlyWrites [R.STEP_LR_NOW_VALUE] s (s.takeLr n) :=
  OnlyWrites.foldl _ _ (OnlyWrites.refl s).nil (fun v _ => OnlyWrites.one v _ _)

theorem State.showNext_only (s : State) : OnlyWrites [R.STEP_NEXT_CASTON_VALUE] s s.showNext := by
  unfold State.showNext
  split
  · exact OnlyWrites.one _ _ _
  · refine OnlyWrites.ite (OnlyWrites.one _ _ _) (OnlyWrites.ite (OnlyWrites.one _ _ _) (OnlyWrites.ite ?_ (OnlyWrites.refl s).nil))
    simp only
    split
    · exact OnlyWrites.ite (OnlyWrites.one _ _ _) (OnlyWrites.one _ _ _)
    · exact OnlyWrites.one _ _ _

theorem State.loadScale_only (s : State) : OnlyWrites [R.STEP_SCALE_EXP, R.STEP_SKIP_LAST, R.STEP_SCALE_LAST_GROWTH, R.STEP_SCALE_SET_PENDING,
    R.STEP_OPT_COUNT_COUNT] s s.loadScale := by
  have h1 : OnlyWrites [R.STEP_SCALE_EXP, R.STEP_SKIP_LAST, R.STEP_SCALE_LAST_GROWTH, R.STEP_SCALE_SET_PENDING] s
      (if s.rf R.STEP_SCALE_SET_PENDING = 0 then s else
        (((((s.set R.STEP_SCALE_EXP (max (s.rf R.STEP_SCALE_CFG_MIN) (min (s.rf R.STEP_SCALE_SET_EXP) (s.rf R.STEP_SCALE_CFG_MAX)))).set
          R.STEP_SKIP_LAST (s.rf R.STEP_SCALE_SET_SINCE)).set R.STEP_SCALE_LAST_GROWTH (s.rf R.STEP_SCALE_SET_SINCE))).set
          R.STEP_SCALE_SET_PENDING 0)) :=
    OnlyWrites.ite (OnlyWrites.refl s).nil (((((OnlyWrites.refl s).set _ _).set _ _).set _ _).set _ _)
  unfold State.loadScale
  by_cases h0 : s.rf R.STEP_SCALE_SET_PENDING = 0
  · simp only [h0, if_true]
    exact OnlyWrites.ite ((OnlyWrites.one s _ _).mono (by simp)) (OnlyWrites.refl s).nil
  · simp only [h0, if_false] at h1 ⊢
    exact OnlyWrites.ite ((OnlyWrites.set _ _ h1).mono (by simp)) (h1.mono (by simp))

theorem State.loadLrs_only (s : State) (n : Nat) : OnlyWrites [R.STEP_LR_NOW_APPLY_AT_STEP] s (s.loadLrs n) := by
  unfold State.loadLrs
  cases s.step.lrs.getLast? with
  | none => exact (OnlyWrites.refl s).nil
  | some l =>
    simp only
    by_cases h : l.relative = true
    · simp only [h, if_true]; exact OnlyWrites.one s _ _
    · simp only [h]; exact (OnlyWrites.refl s).nil

theorem State.aimRequests_only (s : State) (n : Nat) : OnlyWrites [R.CHART_COMMIT_APPLY_AT_STEP, R.CHART_VARIANT_APPLY_AT_STEP, R.STEP_SWATCH_AT_STEP,
    R.STEP_CTRL_STOP_AT_STEP, R.FAULT_MEND_APPLY_AT_STEP] s (s.aimRequests n) := by
  unfold State.aimRequests
  extract_lets c1 c2 c3 s1 s2 s3 s4 s5
  have h1 : OnlyWrites [] s s1 := OnlyWrites.same rfl
  have h2 : OnlyWrites [R.CHART_COMMIT_APPLY_AT_STEP] s s2 := OnlyWrites.ite (h1.set _ _) h1.nil
  have h3 : OnlyWrites [R.CHART_COMMIT_APPLY_AT_STEP, R.CHART_VARIANT_APPLY_AT_STEP] s s3 := OnlyWrites.ite (h2.set _ _) (h2.mono (by simp))
  have h4 : OnlyWrites [R.CHART_COMMIT_APPLY_AT_STEP, R.CHART_VARIANT_APPLY_AT_STEP, R.STEP_SWATCH_AT_STEP] s s4 :=
    OnlyWrites.ite (h3.set _ _) (h3.mono (by simp))
  have h5 : OnlyWrites [R.CHART_COMMIT_APPLY_AT_STEP, R.CHART_VARIANT_APPLY_AT_STEP, R.STEP_SWATCH_AT_STEP, R.STEP_CTRL_STOP_AT_STEP] s s5 :=
    OnlyWrites.ite (h4.set _ _) (h4.mono (by simp))
  exact OnlyWrites.ite (h5.set _ _) (h5.mono (by simp))

theorem State.clearStepFigures_only (s : State) (b : List Byte) : OnlyWrites [R.STEP_FLAG_RAISE_AT, R.STEP_FLAG_CAUSE, R.STEP_UPDATE_CHUNKS,
    R.STEP_HANDOFF_SEALED, R.STEP_HANDOFF_EXPECTED, R.FAULT_STATUS_STEP_FAILOVERS] s (s.clearStepFigures b) :=
  OnlyWrites.of_regs (s := (((((s.set R.STEP_FLAG_RAISE_AT 0).set R.STEP_FLAG_CAUSE 0).set R.STEP_UPDATE_CHUNKS 0).set R.STEP_HANDOFF_SEALED 0).set
    R.STEP_HANDOFF_EXPECTED (fieldLe b 7 1)).set R.FAULT_STATUS_STEP_FAILOVERS 0)
    (((((((OnlyWrites.refl s).set _ _).set _ _).set _ _).set _ _).set _ _).set _ _) rfl

theorem State.fixRebase_only (s : State) (b : List Byte) : OnlyWrites [R.STEP_UPDATE_REBASED] s (s.fixRebase b) := OnlyWrites.one _ _ _

theorem State.enterReserve_only (s : State) : OnlyWrites [R.STEP_STATUS_PHASE] s s.enterReserve := by
  unfold State.enterReserve
  exact OnlyWrites.ite (OnlyWrites.one _ _ _) (OnlyWrites.refl s).nil

theorem State.showPending_only (s : State) : OnlyWrites [R.STEP_SWATCH_PENDING] s s.showPending := OnlyWrites.one _ _ _

/-- A field that the error log does not write: neither FAULT_LOG_PTR nor an entry of the log (R433). -/
def Fld.notLog (f : Fld) : Bool := decide (f.key / 64 ≠ 0x600018) && decide (f.blk ≠ 14)

/-- What the error log writes differs from any other field. -/
theorem Fld.notLog_ptr {f : Fld} (h : f.notLog = true) (lo w : Nat) (hlo : lo < 64) : f.key ≠ (⟨0x600018, lo, w⟩ : Fld).key := by
  unfold Fld.notLog at h
  simp only [Bool.and_eq_true, decide_eq_true_eq] at h
  intro hk
  apply h.1
  rw [hk]; show (0x600018 * 64 + lo) / 64 = _; omega

theorem Fld.notLog_elem {f g : Fld} (h : f.notLog = true) (hg : g.blk = 14) : f.key ≠ g.key := by
  unfold Fld.notLog at h
  simp only [Bool.and_eq_true, decide_eq_true_eq] at h
  apply Fld.key_ne_of_blk
  rw [hg]; exact h.2

/-- The blocks of a log entry's words. -/
theorem Fld.blk_log (c i lo w : Nat) (hc : c < 0x20) (hlo : lo < 64) : Fld.blk ⟨0x640000 + c + 0x20 * (i % 4096), lo, w⟩ = 14 := by
  rw [Fld.blk_eq _ _ _ hlo]
  have h1 : blockOf 0x640000 = 14 := by decide
  have h2 : blockOf 0x67FFFF = 14 := by decide
  have hi := Nat.mod_lt i (show 0 < 4096 by decide)
  have := blockOf_mono (show 0x640000 ≤ 0x640000 + c + 0x20 * (i % 4096) by omega)
  have := blockOf_mono (show 0x640000 + c + 0x20 * (i % 4096) ≤ 0x67FFFF by omega)
  omega

/-- The error log writes its own registers only (R433). -/
theorem State.logEv_rf (s : State) (st src unit detail aux : Nat) (f : Fld) (h : f.notLog = true) :
    (s.logEv st src unit detail aux).rf f = s.rf f := by
  have hmr : ∀ u : State, u.makeRoom.rf f = u.rf f := by
    intro u
    unfold State.makeRoom State.addSat
    split
    · exact (State.rf_set_of_ne _ _ _ _ (Fld.notLog_ptr h 32 32 (by decide))).trans (State.rf_set_of_ne _ _ _ _ (Fld.notLog_ptr h 0 12 (by decide)))
    · rfl
  unfold State.logEv
  split
  · exact State.rf_set_of_ne _ _ _ _ (Fld.notLog_elem h (Fld.blk_log 0x10 _ 32 32 (by decide) (by decide)))
  · dsimp only
    refine (State.rf_set_of_ne _ _ _ _ (Fld.notLog_ptr h 16 12 (by decide))).trans ?_
    refine (State.rf_set_of_ne _ _ _ _ (Fld.notLog_elem h (Fld.blk_log 0x18 _ 0 64 (by decide) (by decide)))).trans ?_
    refine (State.rf_set_of_ne _ _ _ _ (Fld.notLog_elem h (Fld.blk_log 0x10 _ 0 32 (by decide) (by decide)))).trans ?_
    refine (State.rf_set_of_ne _ _ _ _ (Fld.notLog_elem h (Fld.blk_log 0x10 _ 32 32 (by decide) (by decide)))).trans ?_
    refine (State.rf_set_of_ne _ _ _ _ (Fld.notLog_elem h (Fld.blk_log 0x8 _ 0 16 (by decide) (by decide)))).trans ?_
    refine (State.rf_set_of_ne _ _ _ _ (Fld.notLog_elem h (Fld.blk_log 0x8 _ 16 8 (by decide) (by decide)))).trans ?_
    refine (State.rf_set_of_ne _ _ _ _ (Fld.notLog_elem h (Fld.blk_log 0x8 _ 24 8 (by decide) (by decide)))).trans ?_
    refine (State.rf_set_of_ne _ _ _ _ (Fld.notLog_elem h (Fld.blk_log 0x8 _ 32 32 (by decide) (by decide)))).trans ?_
    exact (State.rf_set_of_ne _ _ _ _ (Fld.notLog_elem h (Fld.blk_log 0 _ 0 64 (by decide) (by decide)))).trans (hmr s)

/-- A refusal writes only the log's registers (R10, R11). -/
theorem State.refuse_rf (s : State) (off st : Nat) (f : Fld) (h : f.notLog = true) : (s.refuse off st).rf f = s.rf f :=
  State.logEv_rf _ _ _ _ _ _ _ h

end Sys2Proof.Machine
end

