-- ==== Sys2Proof/Laws/RegRow.lean ====
section
/-! SUPPORT. Laws/RegRow.lean: what a 64-bit write of a register leaves in each field (R9, R10, R11). -/

namespace Sys2Proof.Machine

/-- What a field holds after a 64-bit write of its register by a master, from what it held: R9's access codes under R10's owners. -/
def FldRow.after (f : FldRow) (m : Master) (v old : Nat) : Nat :=
  match f.acc with
  | .rw => if mayWrite m f.own then bitsOf v f.lo f.w else old
  | .w1c => if mayWrite m f.own then (old - (old &&& bitsOf v f.lo f.w)) % 2 ^ f.w else old
  | .ro => old
  | .wo => old
  | .rc => old

/-- One field under a 64-bit write. -/
theorem State.writeFld_rf (s : State) (off : Nat) (m : Master) (v : Nat) (f : FldRow) (g : Fld) (hw : 0 < f.w) (h64 : f.lo + f.w ≤ 64)
    (h : g.notLog = true) :
    (s.writeFld off (Wr.full m v) f).rf g = if g.key = off * 64 + f.lo then f.after m v (s.rf g) else s.rf g := by
  have ht : (Wr.full m v).touches f.lo f.w = true := by
    unfold Wr.touches Wr.full
    simp only [Bool.and_eq_true, decide_eq_true_eq]
    omega
  have hkey : ∀ k : Fld, k = ⟨off, f.lo, f.w⟩ → k.key = off * 64 + f.lo := by rintro _ rfl; rfl
  have hrf : g.key = off * 64 + f.lo → s.rf ⟨off, f.lo, f.w⟩ = s.rf g := by
    intro hk; unfold State.rf; rw [hkey _ rfl, hk]
  unfold State.writeFld FldRow.after
  simp only [ht, Bool.not_true, Bool.false_eq_true, if_false]
  have hmg : (Wr.full m v).merge (s.rf ⟨off, f.lo, f.w⟩) f.lo f.w = bitsOf v f.lo f.w := by
    unfold Wr.merge Wr.full
    have : 0 ≤ f.lo ∧ f.lo + f.w ≤ 0 + 64 := by omega
    simp only [this, and_self, if_true]
  have hbm : bitsOf v f.lo f.w % 2 ^ f.w = bitsOf v f.lo f.w := by unfold bitsOf; exact Nat.mod_mod _ _
  have hset : ∀ x : Nat, (s.set ⟨off, f.lo, f.w⟩ x).rf g = if g.key = off * 64 + f.lo then x % 2 ^ f.w else s.rf g := by
    intro x; rw [State.rf_set, hkey _ rfl]
  have hm : (Wr.full m v).m = m := rfl
  have hv : (Wr.full m v).v = v := rfl
  by_cases hb : mayWrite m f.own = true
  · cases f.acc <;> simp only [hm, hv, hb, if_true, ite_self, hmg, hset, hbm]
    split
    · rename_i hk; rw [hrf hk]
    · rfl
  · cases f.acc <;> simp only [hm, hb, if_false, ite_self, Bool.false_eq_true] <;> exact State.refuse_rf _ _ _ _ h

/-- Every field of a register under a 64-bit write. -/
theorem State.regWrite_rf (s : State) (off : Nat) (m : Master) (v : Nat) (r : RegRow) (g : Fld) (hr : findReg off = some r)
    (hm : r.writableBy m = true) (hf : r.fields.all (fun f => decide (0 < f.w ∧ f.lo + f.w ≤ 64)) = true) (h : g.notLog = true) :
    (s.regWrite off (Wr.full m v)).rf g =
      r.fields.foldl (fun a f => if g.key = off * 64 + f.lo then f.after m v a else a) (s.rf g) := by
  have hall : ∀ f ∈ r.fields, 0 < f.w ∧ f.lo + f.w ≤ 64 := by
    intro f hfm; simpa using List.all_eq_true.mp hf f hfm
  have key : ∀ (l : List FldRow) (u : State), (∀ f ∈ l, 0 < f.w ∧ f.lo + f.w ≤ 64) →
      (l.foldl (fun s f => s.writeFld off (Wr.full m v) f) u).rf g =
        l.foldl (fun a f => if g.key = off * 64 + f.lo then f.after m v a else a) (u.rf g) := by
    intro l
    induction l with
    | nil => intro u _; rfl
    | cons f l ih =>
      intro u hl
      simp only [List.foldl_cons]
      rw [ih _ (fun f hf => hl f (List.mem_cons_of_mem _ hf)),
        State.writeFld_rf u off m v f g (hl f (List.mem_cons_self ..)).1 (hl f (List.mem_cons_self ..)).2 h]
  unfold State.regWrite
  have hm' : r.writableBy (Wr.full m v).m = true := hm
  simp only [hr, hm', Bool.not_true, Bool.false_eq_true, if_false]
  split
  · exact key _ _ hall
  · rw [State.refuse_rf _ _ _ _ h]; exact key _ _ hall

end Sys2Proof.Machine
end

