-- ==== Sys2Proof/WellFormed.lean ====
section
/-! DEFINITION. WellFormed.lean: the operands that the outside world can supply with a command. Where the spec gives an out-of-range
value a result of its own (a refusal, a protocol error), the value is well formed and the command's meaning gives that result. -/

namespace Sys2Proof

/-- Whether a command's operands are of the sizes that its rule names:
an entry of a submission queue has 256 bytes (R368); a thermal sample has 64 readings (R461); an image slot at most 16 MiB (R452);
flash devices are read on 32 channels (R285); a CXL.mem request is one aligned line of 64 bytes (R375); a read carries no data;
a codeword needs at least one read (R295); a device key slot is 0 or 1 and its hash has 48 bytes (R454); a link has one of the rates,
widths and Max_Payload_Size codes of R362; a malformed run is of neither 1 nor 8 samples (R387); a PCIe access moves at least a
byte. -/
def Instr.wf : Instr → Bool
  | .registerWrite _ _ acc _ => decide (0 < acc.size)
  | .cmdNop _ e => e.length == 256
  | .cmdOpen _ e => e.length == 256
  | .cmdAbort _ e => e.length == 256
  | .cmdWrite _ e => e.length == 256
  | .cmdFence _ e => e.length == 256
  | .cmdReserved _ e => e.length == 256
  | .thermalSample temps => temps.length == 64
  | .bootImageDone a b => decide (a.length ≤ 2 ^ 24) && decide (b.length ≤ 2 ^ 24)
  | .bootTrainingDone flash => flash.length == 32
  | .cxlMemRequest write addr data _ => addr.toNat % 64 == 0 && data.length == (if write then 64 else 0)
  | .peerRequest req _ _ data _ => req.write || data.isEmpty
  | .bar2Request req _ _ data _ => req.write || data.isEmpty
  | .codewordDecode _ _ outcome => decide (0 < outcome)
  | .deviceKeyFuseBurn slot hash => decide (slot < 2) && hash.length == 48
  | .hostLinkUp rate width mps => [2, 5, 8, 16, 32, 64].contains rate && [1, 2, 4, 8, 16].contains width && decide (mps ≤ 2)
  | .syncRunMalformed len => decide (0 < len) && len != 1 && len != 8
  | .addw _ _ _ _ data marks => marks.length == (data.length + 63) / 64
  | _ => true

end Sys2Proof
end

