-- ==== Sys2Proof/Tests/Slice0.lean ====
section
/-! SUPPORT. Tests/Slice0.lean: small tests of single commands on small states, and a witness for the hypotheses of every statement. -/

open Sys2Proof Sys2Proof.Machine

namespace Sys2Proof.Tests

set_option Elab.async false

/-! ## Well-formedness: one ill-formed command for each check, refused, and one well-formed beside it -/

theorem test_wf_register_size : Instr.wf (.registerWrite .host 8#24 (.wr 0) 1#64) = false := by decide +kernel
theorem test_wf_nop_entry : Instr.wf (.cmdNop 0 [0]) = false := by decide +kernel
theorem test_wf_open_entry : Instr.wf (.cmdOpen 0 []) = false := by decide +kernel
theorem test_wf_abort_entry : Instr.wf (.cmdAbort 63 (List.replicate 255 0)) = false := by decide +kernel
theorem test_wf_write_entry : Instr.wf (.cmdWrite 1 (List.replicate 257 0)) = false := by decide +kernel
theorem test_wf_fence_entry : Instr.wf (.cmdFence 1 []) = false := by decide +kernel
theorem test_wf_reserved_entry : Instr.wf (.cmdReserved 1 []) = false := by decide +kernel
theorem test_wf_entry_ok : Instr.wf (.cmdNop 0 (List.replicate 256 0)) = true := by decide +kernel
theorem test_wf_sensors : Instr.wf (.thermalSample [40, 41]) = false := by decide +kernel
theorem test_wf_channels : Instr.wf (.bootTrainingDone []) = false := by decide +kernel
theorem test_wf_cxl_line : Instr.wf (.cxlMemRequest false 0x20#64 [] false) = false := by decide +kernel
theorem test_wf_cxl_data : Instr.wf (.cxlMemRequest true 0x40#64 [1] false) = false := by decide +kernel
theorem test_wf_peer_read : Instr.wf (.peerRequest ⟨false, false⟩ 0#64 4 [1] false) = false := by decide +kernel
theorem test_wf_bar2_read : Instr.wf (.bar2Request ⟨false, false⟩ 0 4 [1] false) = false := by decide +kernel
theorem test_wf_codeword : Instr.wf (.codewordDecode 0 0 0) = false := by decide +kernel
theorem test_wf_key_slot : Instr.wf (.deviceKeyFuseBurn 2 (List.replicate 48 0)) = false := by decide +kernel
theorem test_wf_key_hash : Instr.wf (.deviceKeyFuseBurn 1 (List.replicate 47 0)) = false := by decide +kernel
theorem test_wf_link_rate : Instr.wf (.hostLinkUp 3 16 2) = false := by decide +kernel
theorem test_wf_link_width : Instr.wf (.hostLinkUp 64 3 2) = false := by decide +kernel
theorem test_wf_link_mps : Instr.wf (.hostLinkUp 64 16 3) = false := by decide +kernel
theorem test_wf_sync_run : Instr.wf (.syncRunMalformed 8) = false := by decide +kernel
theorem test_wf_addw_marks : Instr.wf (.addw 0 ⟨0, []⟩ 0#64 0 [1, 2, 3, 4] []) = false := by decide +kernel
theorem test_wf_boot_slot_ok : Instr.wf (.bootImageDone [] []) = true := by decide +kernel

/-! ## Small states -/

/-- `State.reset` with some register fields set. -/
def st (l : List (Fld × Nat)) : State := l.foldl (fun s p => s.set p.1 p.2) State.reset

/-- A block in READY with the host link up, and some register fields set. -/
def up (l : List (Fld × Nat)) : State := st ([(R.PWR_STATE_STATE, 2), (R.HQ_LINK_UP, 1)] ++ l)

/-- `n` zero bytes with little-endian values placed in them: (offset, width, value). -/
def mk (n : Nat) (l : List (Nat × Nat × Nat)) : List Byte :=
  l.foldl (fun b p => b.take p.1 ++ natLe p.2.1 p.2.2 ++ b.drop (p.1 + p.2.1)) (List.replicate n 0)

/-- A chart section of one item in program form (R61). -/
def one (b : List Byte) : List Byte := mk 8 [(0, 4, 8), (4, 4, b.length)] ++ b

/-- The recompute program of the small chart: span 1, one weight descriptor of K = N = 64. -/
def prog0 : List Byte := mk 64 [(2, 1, 1), (5, 1, 1), (40, 4, 64), (44, 4, 64)]

/-- The update program of the small chart: one accumulator of 16 elements at OA 2^21, NSEQ 2, CLEAR_AT 50; SPAN 1. -/
def upd0 : List Byte := mk 128 [(0, 2, 1), (6, 1, 1), (64, 8, 2 ^ 21), (72, 4, 16), (76, 2, 2), (80, 8, 50)]

/-- The schedule set of the small chart: every decode slot of engine 0 for walks, a segment of tensor 1 at 10, a parameter chunk at 20, a panel walk
at 30, barrier 7 due at 40. -/
def sch0 : List Byte :=
  mk 122 [(0, 2, 1), (4, 4, 1), (8, 4, 1), (12, 4, 3), (16, 4, 1), (32, 2, 0x8000), (34, 2, 1), (48, 4, 1),
    (56, 5, 10), (64, 2, 1), (72, 5, 20), (77, 1, 1), (88, 5, 30), (93, 1, 2), (104, 2, 7), (108, 4, 1), (112, 8, 40), (120, 2, 0xFFFA)]

/-- A stash entry: class FROG, tensor 1, one slice, recomputed by program 0. -/
def stash0 : List Byte := mk 64 [(0, 2, 1), (4, 1, 4), (62, 2, 1)]

/-- A small chart: two variants and one swatch, F = W = 1,000, T = Q = G = 100, E = 20,000, I = 5,000, stream 0 in the first variant's set. -/
def ch : Chart where
  hdr := mk 256 [(0x15, 1, 2), (0x16, 1, 1), (0x18, 2, 1000), (0x1A, 1, 1)]
  secs := [mk 256 [(4, 4, 20000), (8, 8, 1000), (16, 8, 1000), (24, 4, 100), (28, 4, 100), (32, 2, 100), (36, 4, 5000), (0x2C, 4, 1), (0x34, 4, 1)],
    stash0, mk 32 [(0, 4, 4), (4, 4, 4), (8, 4, 4), (12, 4, 4)], [], [], one (mk 16 [(0, 1, 14)]), one prog0, one upd0,
    mk 32 [(0, 8, 3000)], one sch0, [0, 0], [], [], [], [], []]
  cnts := [2, 1, 1, 0, 0, 1, 1, 1, 1, 1, 1, 0, 0, 0, 0, 0]

/-- A state with the small chart installed. -/
def withCh (s : State) : State := { s with chart := { s.chart with active := some ch } }

/-- FORWARD of a step of the small chart, in RUN. -/
def run (l : List (Fld × Nat)) : State :=
  withCh (up ([(R.PWR_STATE_STATE, 3), (R.STEP_STATUS_PHASE, phFORWARD), (R.STEP_CASTON_VALUE, 0), (R.STEP_VERDICT_AT_VALUE, 2300),
    (R.STEP_BINDOFF_VALUE, 22300), (R.PWR_CLOCK_FCLK_MHZ, 1000), (R.CLU_MAP_STATE 0, 2), (R.CLU_MAP_LOGICAL 0, 0)] ++ l))

/-- Host stream 0 in RUN at a program. -/
def at0 (p : List Byte) (l : List (Fld × Nat)) : State := (up ((R.STREAM_RUN_STATE 0, ssRUN) :: l)).setStr 0 { StreamX.fresh with host := true, prog := p }

/-! ## More small states, and a chart that every check passes -/

/-- Whether a command goes on to a state with a property. -/
def ends (r : Res) (p : State → Bool) : Bool :=
  match r with
  | .next t => p t
  | .fault _ => false
  | .refused _ => false

/-- READY, with OA pages 0 to 131,071 mapped to the HBM pages of the same numbers. -/
def mapped (l : List (Fld × Nat)) : State := up ([(R.TIER_DIR_KIND 0, 2), (R.TIER_DIR_CLASS 0, 3)] ++ l)

/-- A block in flight of 64 bytes from OA 2^21 to OA 2^22. -/
def blk0 : Block := ⟨0, 0, opMOVE, 2 ^ 21, 2 ^ 22, 64, 0, false, [], 0, false, [], 0, []⟩

/-- A skein of no bytes that a host stream packs from OA 2^21 to OA 2^22. -/
def sk0 : SkeinCtx where
  dir := 0
  profile := 0
  width := 8
  pword := 0
  src := 2 ^ 21
  dst := 2 ^ 22
  len := 0
  mb := 0
  ref := 0
  seq := 0
  block := 0
  coded := 0
  headed := false
  lost := false
  marked := false
  refKind := 0
  base := 0
  bad := []
  landed := 0
  image := []
  slots := 0
  eng := none
  have_ := []
  owed := 0
  out := []
  stash := none
  asked := []

/-- Host stream 0 in RUN over mapped pages. -/
def onMap (x : StreamX) (l : List (Fld × Nat)) : State := (mapped ((R.STREAM_RUN_STATE 0, ssRUN) :: l)).setStr 0 x

/-- Host stream 0 at a program, with a list of two entries of 64 bytes. -/
def withList (p : List Byte) (l : List (Fld × Nat)) : State :=
  onMap { StreamX.fresh with
    host := true
    prog := p
    list := mk 64 [(0, 8, 2 ^ 21), (8, 8, 2 ^ 22), (16, 5, 64), (32, 8, 2 ^ 21), (40, 8, 2 ^ 23), (48, 5, 64)] } l

/-- The small chart with another program and list of stream 0 and another stash entry, stream 0 in RUN over mapped pages; it owns no slot. -/
def planAt (p l e : List Byte) (f : List (Fld × Nat)) : State :=
  { run ([(R.TIER_DIR_KIND 0, 2), (R.TIER_DIR_CLASS 0, 3), (R.STREAM_RUN_STATE 0, ssRUN)] ++ f) with
    chart := { ChartSt.reset with active := some { ch with
      secs := ((ch.secs.set 5 (one p)).set 4 (one l)).set 1 e, cnts := ch.cnts.set 4 1 } } }

/-- Host stream 0 in RUN at a program, over mapped pages. -/
def atMap (p : List Byte) (l : List (Fld × Nat)) : State := onMap { StreamX.fresh with host := true, prog := p } l

/-- A state whose small chart gives this member a part of shard group 0. -/
def sharded (s : State) : State :=
  { s with chart := { s.chart with active := some { ch with secs := ch.secs.set 12 (mk 32 [(0x10, 4, 1)]), cnts := ch.cnts.set 12 1 } } }

/-- Host stream 0 waits at a BARRIER of ID 5 whose generation 1 has completed. -/
def barWait : State :=
  { (up [(R.STREAM_RUN_STATE 0, ssWAIT), (R.STREAM_RUN_WAIT 0, wtBARRIER)]).setStr 0
      { StreamX.fresh with host := true, prog := mk 16 [(0, 1, 12), (2, 2, 5), (4, 4, 1)], arrivals := [(5, 1)] } with
    bar := { BarrierSt.reset with done := [(5, 1)] } }

/-- The small chart with cluster entries to start and running, and a server for each of its places. -/
def segState (left : List Nat) (running : List (Nat × Nat)) : State :=
  { run [(R.SKEIN_MAP_STATE 0, 2), (R.EXP_STAT_STATE 143, 2), (R.TIER_DIR_KIND 0, 2), (R.TIER_DIR_CLASS 0, 3)] with
    marks := [0]
    clu := { CluSt.reset with left := left, running := running } }

/-- The skein of 4 bytes that host stream 0 unpacks from OA 2^21, its header read. -/
def skIn : SkeinCtx := { sk0 with dir := 1, len := 4, headed := true, coded := 32 }

/-- The bytes 1, 2, 3, 4 packed raw behind its header at OA 2^21. -/
def coded0 : State :=
  let h := mk 28 [(0, 1, 2), (4, 4, 4), (8, 4, 4)]
  let b := h ++ natLe 4 (crc32c (h ++ [1, 2, 3, 4])) ++ [1, 2, 3, 4]
  (onMap { StreamX.fresh with host := true, sk := some skIn } []).setBytes (2 ^ 21 + 32) b

/-- The small chart with pages 0 to 15 owned by an owner, those of CDP through port 0. -/
def owned (own : Nat) (s : State) : State :=
  { s with chart := { s.chart with active := some { ch with secs := ch.secs.set 11 (mk 16 [(0, 1, 3), (1, 1, own), (8, 4, 16)]), cnts := ch.cnts.set 11 1 } } }

/-- The small chart with stream contexts 0 to 15 owned by HOST. -/
def ownedCtx (s : State) : State :=
  { s with chart := { s.chart with active := some { ch with secs := ch.secs.set 11 (mk 16 [(0, 1, 1), (1, 1, 1), (8, 4, 16)]), cnts := ch.cnts.set 11 1 } } }

/-- The small chart with the image of stream 0, which binds line 7 of port 0 and waits for pace. -/
def bound (l : List (Fld × Nat)) : State :=
  { run l with chart := { ChartSt.reset with active := some { ch with
      secs := (ch.secs.set 3 (mk 64 [(14, 2, 7)])).set 5 (one (mk 16 [(0, 1, 6)])), cnts := ch.cnts.set 3 1 } } }

/-- The small chart with another schedule set. -/
def withSch (b : List Byte) (s : State) : State :=
  { s with chart := { s.chart with active := some { ch with secs := ch.secs.set 9 (one b) } } }

/-- FORWARD with every slot of port 0 and of the HBM channel of OA 2^21 the die's, port 0 UP. -/
def dieState : State :=
  withSch (mk 74 [(0, 2, 3), (4, 4, 1), (8, 4, 1), (32, 2, 0x3000), (34, 2, 1), (40, 2, 0x2000), (42, 2, 1), (48, 2, 0x109C), (50, 2, 1),
    (64, 4, 1), (72, 2, 0xE000)]) (run [(R.CDP_STATUS_STATE 0, 3), (R.TIER_DIR_KIND 0, 2), (R.TIER_DIR_CLASS 0, 3)])

/-- That state in a failover pause. -/
def diePaused : State := { dieState with fault := { FaultSt.reset with pauseEnd := some 5 } }

/-- FORWARD with every slot of host-link reads PEER from plan round 1 on, the link at its full rate. -/
def peerState : State :=
  withSch (mk 58 [(0, 2, 1), (4, 4, 1), (8, 4, 1), (32, 2, 0x4000), (34, 2, 1), (40, 8, 1), (48, 4, 1), (56, 2, 0xFFF9)])
    (run [(R.HQ_LINK_RATE, 64), (R.HQ_LINK_WIDTH, 16)])

/-- FORWARD over mapped pages with every slot of host-link reads HOST and 4 HOST access times in 32 of HBM, the link at its full rate. -/
def hostSlots : State :=
  let s := withSch (mk 58 [(0, 2, 1), (2, 1, 4), (3, 1, 32), (4, 4, 1), (8, 4, 1), (32, 2, 0x4000), (34, 2, 1), (48, 4, 1), (56, 2, 0xFFFE)])
    (run [(R.HQ_LINK_RATE, 64), (R.HQ_LINK_WIDTH, 16), (R.TIER_DIR_KIND 0, 2), (R.TIER_DIR_CLASS 0, 3)])
  { s with step := { StepSt.reset with hostPer := 4 } }

/-- Slots that a message of a die claims in those states, and those that a neighbour's read claims. -/
def dieClaim (s : State) : Option (List (Nat × Nat) × Nat) :=
  s.slots.claim (s.port 0).used s.planTick (s.dieLoad 0 ⟨0, 5, 2 ^ 21, 1, 0, [], [], 0, false⟩)
def peerClaim : Option (List (Nat × Nat) × Nat) :=
  peerState.slots.claim peerState.tier.used peerState.planTick (peerState.peerLoad ⟨0, 0x3FFFFFFFFFF, 1, [], false, 0, 0, 0, none⟩)

/-- Queue 0 enabled with 16 entries, one of them fetched. -/
def queueUp (l : List (Fld × Nat)) : State :=
  { up ([(R.HQ_Q_CTRL_ENABLE 0, 1), (R.HQ_Q_CTRL_SQ_LOG2 0, 4), (R.HQ_Q_CTRL_CQ_LOG2 0, 4)] ++ l) with
    host := { HostSt.reset with fetched := HostSt.reset.fetched.set 0 1 } }

/-- The flash tier up with 4 LUNs on each channel, one SLC and one TLC block of each in use, unit 0 in block 0. -/
def flash (l : List (Fld × Nat)) : State :=
  { up ([(R.FTL_STATUS_STATE, 4), (R.FTL_GEOMETRY_LUNS, 4)] ++ l) with
    ftl := { FlashSt.reset with fmt := some ⟨16, 16, 16, 16, 1, 1, 0⟩, live := [(0, 0)] }
    pwr := { PowerSt.reset with profile := mk 64 [(0x25, 1, 3)] } }

/-- That tier under two blocks of stream 0 that read unit 57 and, after it, unit 0 of the same channel. -/
def flashBusy : State :=
  withCh ((flash [(R.TIER_DIR_KIND 0, 2), (R.TIER_DIR_TARGET 0, 1024)]).setStr 0
    { StreamX.fresh with blocks := [{ blk0 with src := 2 ^ 21 + 25 * 65536, due := 5 }, { blk0 with seq := 1, src := 0, due := 9 }] })

/-- A host stream outside plan time works where it stands. -/
theorem slotState_host (s : State) (n : Nat) (k : SkeinCtx) (h : (s.str n).host = true) (h2 : s.slotTime = false) : s.slotState n k = some s := by
  simp [State.slotState, State.slotted, State.slotBound, h, h2]

/-- What the decode slot of `coded0` reads first, its context open: the block's header. -/
def got0 : Got := ((coded0.enterEng 0 skIn).1.skRead 0 (coded0.enterEng 0 skIn).2 32 32).get (by decide +kernel)
/-- And its payload after it. -/
def got1 : Got :=
  got0.st.readFor 0 skIn.seq ((coded0.enterEng 0 skIn).1.skAddr skIn (skIn.coded + 32)) (fieldLe (got0.data.map (·.1)) 8 4) skIn.asked skIn.have_

/-- The plan record of the least chart: M 1, F = W = 1,000, T = Q = G = 100, E = 20,000, I = 5,000, no update, no entry, no stream. -/
def rec1 : List Byte :=
  natLe 4 1 ++ natLe 4 20000 ++ natLe 8 1000 ++ natLe 8 1000 ++ natLe 4 100 ++ natLe 4 100 ++ natLe 2 100 ++ natLe 2 0xFFFF ++
    natLe 4 5000 ++ List.replicate 88 0

/-- Its schedule section: one set with nothing in it, one host slot on a channel and on a link. -/
def sec1 : List Byte := natLe 4 16 ++ natLe 4 32 ++ natLe 8 0 ++ [0, 0, 1, 1] ++ List.replicate 28 0

/-- Header of the least chart, for a device as `State.reset` has it, alone in its configuration: the bytes before HDR_CRC, those after
it, and the directory with one plan record and one schedule set. -/
def hdrA : List Byte := natLe 4 0x48434E4B ++ natLe 4 0x2000001 ++ natLe 4 688
def hdrB : List Byte := natLe 2 19264 ++ [2, 1, 32, 1, 0, 0] ++ natLe 2 1000 ++ [1, 0, 0, 0] ++ natLe 2 0xFFFF ++ List.replicate 112 0
def hdrC : List Byte := List.replicate 112 0
def dirA : List Byte := natLe 4 512 ++ natLe 4 128 ++ natLe 4 1 ++ natLe 4 0xa7b3d7ed ++ List.replicate 128 0
def dirB : List Byte := natLe 4 640 ++ natLe 4 48 ++ natLe 4 1 ++ natLe 4 0x3f67fd88 ++ List.replicate 96 0

/-- The least chart, with the checksums of its parts. -/
def image1 : List Byte := hdrA ++ natLe 4 0xf54f11f5 ++ hdrB ++ hdrC ++ dirA ++ dirB ++ rec1 ++ sec1

/-- The state that validates the least chart. -/
def checking : State := { up [(R.CHART_LOAD_STATUS_STATE, 2)] with chart := { ChartSt.reset with image := image1, loadBytes := 688 } }

/-- The running register over two strings. -/
theorem crcRun_append (c : Nat) (a b : List Byte) : crcRun c (a ++ b) = crcRun (crcRun c a) b := List.foldl_append

/-- The running register over the header of the least chart, HDR_CRC zero, in parts. -/
theorem run_hdrA : crcRun 0xFFFFFFFF (hdrA ++ natLe 4 0 ++ hdrB) = 0xD23B5208 := by decide +kernel
theorem run_hdrB : crcRun 0xD23B5208 hdrC = 0xFF08BFCD := by decide +kernel
theorem run_dirA : crcRun 0xFF08BFCD dirA = 0x14DC87DF := by decide +kernel
theorem run_dirB : crcRun 0x14DC87DF dirB = 0xAB0EE0A := by decide +kernel

theorem crc_of_run (l : List Byte) (v : Nat) (h : crcRun 0xFFFFFFFF l = v) : crc32c l = v ^^^ 0xFFFFFFFF := by
  subst h; simp [crc32c, crcMore]

theorem check2_of_crc (c : Chart) (l : List Byte) (v : Nat) (hl : c.hdr.take 12 ++ [0, 0, 0, 0] ++ c.hdr.drop 16 = l)
    (hv : crc32c l = v) (hf : c.hf 0xC 4 = v) : c.check2 = none := by
  unfold Chart.check2 firstBad
  rw [hl, hv, hf]
  simp

theorem valid_of_checks (s : State) (c : Chart) (h2 : c.check2 = none) (h : ∀ n, n ≠ 2 → 1 ≤ n → n ≤ 25 → s.check c n = none) :
    s.firstFailing c 25 1 = none := by
  have h2' : s.check c 2 = none := h2
  simp [State.firstFailing, h2', h]

theorem run_image1 : crcRun 0xFFFFFFFF (hdrA ++ natLe 4 0 ++ hdrB ++ (hdrC ++ (dirA ++ dirB))) = 0xAB0EE0A := by
  rw [crcRun_append, run_hdrA, crcRun_append, run_hdrB, crcRun_append, run_dirA, run_dirB]

theorem checks_image1 (n : Nat) (h : n ≠ 2) (h1 : 1 ≤ n) (h25 : n ≤ 25) : checking.check (Chart.parse image1) n = none := by
  have h : ∀ n : Fin 26, n.val ≠ 2 → 1 ≤ n.val → checking.check (Chart.parse image1) n = none := by decide +kernel
  exact h ⟨n, by omega⟩ (by assumption) h1

theorem same_image1 : (Chart.parse image1).hdr.take 12 ++ [0, 0, 0, 0] ++ (Chart.parse image1).hdr.drop 16 =
    hdrA ++ natLe 4 0 ++ hdrB ++ (hdrC ++ (dirA ++ dirB)) := by decide +kernel

/-- The least chart is valid. -/
theorem valid_image1 : checking.firstFailing (Chart.parse image1) 25 1 = none :=
  valid_of_checks _ _ (check2_of_crc _ _ _ same_image1 (crc_of_run _ _ run_image1) (by decide +kernel)) checks_image1

/-! ## Witnesses

One theorem for each statement with hypotheses, one part for each of its clauses and for each case that a clause's conclusion
distinguishes, at boundary values of the operands: a state and operands that meet all the premises of that part together.

Three cases have no closed state here: an authentic boot slot (the signatures and hashes of a boot image are uninterpreted in
Config, so that no image is known to be authentic), a packed block that decodes to 65,536 bytes (too long for the kernel; the case of
a short block of the same clause is shown), and a case whose premise holds of every state or excludes nothing.
-/

theorem wit_EmptyQueueTick :
    (∃ (s : State), s.pending = [] ∧ s.pwr.off = true) ∧
    (∃ (s : State), s.pending = [] ∧ s.pwr.off = false ∧ s.phase ≠ phTAIL) ∧
    (∃ (s : State), s.pending = [] ∧ s.pwr.off = false ∧ s.phase = phTAIL ∧ s.paused = false ∧ s.planEndAt ≤ s.row + 1) ∧
    (∃ (s : State), s.pending = [] ∧ s.pwr.off = false ∧ s.phase = phTAIL ∧ (s.paused = true ∨ s.row + 1 < s.planEndAt)) :=
  ⟨⟨{ State.reset with pwr := { PowerSt.reset with off := true } }, by decide +kernel⟩,
   ⟨State.reset, by decide +kernel⟩,
   ⟨{ run [(R.STEP_STATUS_PHASE, phTAIL)] with row := 2099 }, by decide +kernel⟩,
   ⟨{ run [(R.STEP_STATUS_PHASE, phTAIL)] with row := 2098 }, by decide +kernel⟩⟩

theorem wit_StepKeepsWellKept :
    ∃ (s : State) (t : State), s.WellKept ∧ step s = .next t :=
  ⟨State.reset, State.reset.tick, ⟨by decide +kernel, by decide +kernel, by decide +kernel, by unfold State.phaseLegal; decide +kernel, by unfold State.powerLegal; decide +kernel⟩, rfl⟩

theorem wit_StepsOnlyAddMessages :
    ∃ (s : State) (t : State), step s = .next t :=
  ⟨State.reset, State.reset.tick, rfl⟩

theorem wit_MemoryReads :
    ∃ (s : State), Memory.wf s :=
  ⟨State.reset, by decide +kernel⟩

theorem wit_RegisterFields :
    (∃ (off : BitVec 24) (f : Fld) (v : BitVec 64) (s : State), s.reach .host = true ∧ ((off = 0x40050#24 ∧ f = R.CHART_SEED_SEED) ∨ (off = 0x80030#24 ∧ f = R.STEP_START_VALUE) ∨ (off = 0x201000#24 ∧ f = R.HQ_WINDOW_BASE) ∨ (off = 0x201008#24 ∧ f = R.HQ_HDM_BASE)) ∧ v.toNat = bitsOf v.toNat f.lo f.w * 2 ^ f.lo) ∧
    (∃ (off : BitVec 24) (f : Fld) (v : BitVec 64) (s : State), s.reach .host = true ∧ ((off = 0x40050#24 ∧ f = R.CHART_SEED_SEED) ∨ (off = 0x80030#24 ∧ f = R.STEP_START_VALUE) ∨ (off = 0x201000#24 ∧ f = R.HQ_WINDOW_BASE) ∨ (off = 0x201008#24 ∧ f = R.HQ_HDM_BASE)) ∧ v.toNat = bitsOf v.toNat f.lo f.w * 2 ^ f.lo) ∧
    (∃ (off : BitVec 24) (f : Fld) (v : BitVec 64) (s : State), s.reach .host = true ∧ ((off = 0x40050#24 ∧ f = R.CHART_SEED_SEED) ∨ (off = 0x80030#24 ∧ f = R.STEP_START_VALUE) ∨ (off = 0x201000#24 ∧ f = R.HQ_WINDOW_BASE) ∨ (off = 0x201008#24 ∧ f = R.HQ_HDM_BASE)) ∧ v.toNat = bitsOf v.toNat f.lo f.w * 2 ^ f.lo) ∧
    (∃ (off : BitVec 24) (f : Fld) (v : BitVec 64) (s : State), s.reach .host = true ∧ ((off = 0x40050#24 ∧ f = R.CHART_SEED_SEED) ∨ (off = 0x80030#24 ∧ f = R.STEP_START_VALUE) ∨ (off = 0x201000#24 ∧ f = R.HQ_WINDOW_BASE) ∨ (off = 0x201008#24 ∧ f = R.HQ_HDM_BASE)) ∧ v.toNat = bitsOf v.toNat f.lo f.w * 2 ^ f.lo) ∧
    (∃ (m : Master) (off : BitVec 24) (size : Nat) (s : State), s.reach m = true ∧ (size ≠ 4 ∧ size ≠ 8 ∨ off.toNat % size ≠ 0 ∨ 0x800000 ≤ off.toNat ∨ upperHalf off.toNat = true) ∧ s.sameEvent stBAD_ARG (off.toNat / 65536 % 256) 0 (off.toNat % 2 ^ 32) = false) ∧
    (∃ (m : Master) (off : BitVec 24) (size : Nat) (s : State), s.reach m = true ∧ (size ≠ 4 ∧ size ≠ 8 ∨ off.toNat % size ≠ 0 ∨ 0x800000 ≤ off.toNat ∨ upperHalf off.toNat = true) ∧ s.sameEvent stBAD_ARG (off.toNat / 65536 % 256) 0 (off.toNat % 2 ^ 32) = false) ∧
    (∃ (m : Master) (off : BitVec 24) (size : Nat) (s : State), s.reach m = true ∧ (size ≠ 4 ∧ size ≠ 8 ∨ off.toNat % size ≠ 0 ∨ 0x800000 ≤ off.toNat ∨ upperHalf off.toNat = true) ∧ s.sameEvent stBAD_ARG (off.toNat / 65536 % 256) 0 (off.toNat % 2 ^ 32) = false) ∧
    (∃ (m : Master) (s : State), s.reach m = false) ∧
    (∃ (m : Master) (off : BitVec 24) (size : Nat) (s : State), s.reach m = true ∧ (size ≠ 4 ∧ size ≠ 8 ∨ off.toNat % size ≠ 0 ∨ 0x800000 ≤ off.toNat ∨ upperHalf off.toNat = true) ∧ s.sameEvent stBAD_ARG (off.toNat / 65536 % 256) 0 (off.toNat % 2 ^ 32) = false) ∧
    (∃ (m : Master) (off : BitVec 24) (size : Nat) (r : RegRow) (s : State), s.reach m = true ∧ (size = 4 ∨ size = 8) ∧ off.toNat % size = 0 ∧ off.toNat < 0x800000 ∧ findReg (off.toNat - off.toNat % 8) = some r ∧ r.fields.all (fun f => f.acc == .ro) = true ∧ blockOf off.toNat ≠ 6 ∧ upperHalf off.toNat = false ∧ s.sameEvent stNOT_OWNER (off.toNat / 65536 % 256) 0 ((off.toNat - off.toNat % 8) % 2 ^ 32) = false) ∧
    (∃ (a : RegAccess) (s : State), s.reach .host = true ∧ a.translated = true) ∧
    (∃ (m : Master) (off : BitVec 24) (a : RegAccess) (s : State), s.reach m = true ∧ a.translated = false ∧ a.read = true ∧ (a.size ≠ 4 ∧ a.size ≠ 8 ∨ off.toNat % a.size ≠ 0) ∧ s.sameEvent stBAD_ARG (off.toNat / 65536 % 256) 0 (off.toNat % 2 ^ 32) = false) ∧
    (∃ (m : Master) (off : BitVec 24) (a : RegAccess) (s : State), s.reach m = true ∧ a.translated = false ∧ a.read = true ∧ (a.size ≠ 4 ∧ a.size ≠ 8 ∨ off.toNat % a.size ≠ 0) ∧ s.sameEvent stBAD_ARG (off.toNat / 65536 % 256) 0 (off.toNat % 2 ^ 32) = false) ∧
    (∃ (m : Master) (off : BitVec 24) (a : RegAccess) (s : State), s.reach m = true ∧ a.translated = false ∧ a.read = true ∧ (a.size ≠ 4 ∧ a.size ≠ 8 ∨ off.toNat % a.size ≠ 0) ∧ s.sameEvent stBAD_ARG (off.toNat / 65536 % 256) 0 (off.toNat % 2 ^ 32) = false) ∧
    (∃ (m : Master) (off : BitVec 24) (a : RegAccess) (s : State), s.reach m = true ∧ a.translated = false ∧ a.read = true ∧ (a.size = 4 ∨ a.size = 8) ∧ off.toNat % a.size = 0 ∧ off.toNat < 0x800000 ∧ off.toNat - off.toNat % 8 ≠ 0x20028) ∧
    (∃ (m : Master) (off : BitVec 24) (a : RegAccess) (s : State), s.reach m = true ∧ a.translated = false ∧ a.read = true ∧ (a.size = 4 ∨ a.size = 8) ∧ off.toNat % a.size = 0 ∧ off.toNat < 0x800000) :=
  ⟨⟨0x40050#24, R.CHART_SEED_SEED, 0xFFFFFFFFFFFFFFFF#64, up [], by decide +kernel⟩,
   ⟨0x80030#24, R.STEP_START_VALUE, 0xFFFFFFFFFFFFFFFF#64, up [], by decide +kernel⟩,
   ⟨0x201000#24, R.HQ_WINDOW_BASE, 0xFFFFFFFE00000#64, up [], by decide +kernel⟩,
   ⟨0x201008#24, R.HQ_HDM_BASE, 0xFFFFFFFE00000#64, up [], by decide +kernel⟩,
   ⟨.host, 0x40052#24, 4, up [], by decide +kernel⟩,
   ⟨.host, 0x800000#24, 8, up [], by decide +kernel⟩,
   ⟨.mgmt, 0x40050#24, 2, up [], by decide +kernel⟩,
   ⟨.host, State.reset, by decide +kernel⟩,
   ⟨.host, 0x4#24, 4, up [], by decide +kernel⟩,
   ⟨.host, 0x0#24, 4, (findReg 0).get (by decide +kernel), up [], by decide +kernel⟩,
   ⟨⟨8, false, true⟩, up [], by decide +kernel⟩,
   ⟨.host, 0x40050#24, ⟨2, true, false⟩, up [], by decide +kernel⟩,
   ⟨.host, 0x40050#24, ⟨3, true, false⟩, up [], by decide +kernel⟩,
   ⟨.mgmt, 0x40054#24, ⟨8, true, false⟩, up [], by decide +kernel⟩,
   ⟨.host, 0x7FFFFC#24, ⟨4, true, false⟩, up [], by decide +kernel⟩,
   ⟨.mgmt, 0x20028#24, ⟨8, true, false⟩, up [], by decide +kernel⟩⟩

theorem wit_StepCounts :
    (∃ (s : State) (c : Chart), s.chart.active = some c ∧ s.phase = phARMED ∧ s.step.launched = false) ∧
    (∃ (s : State) (c : Chart), s.chart.active = some c ∧ s.castOnDue = true) ∧
    (∃ (s : State) (c : Chart), s.chart.active = some c ∧ s.castOnDue = true) ∧
    (∃ (s : State), s.phase = phFORWARD ∧ s.step.reserveOver = false ∧ s.paused = false) ∧
    (∃ (s : State), s.phase = phBACKWARD ∧ s.step.reserveOver = false ∧ s.paused = false) ∧
    (∃ (s : State), s.inStep = true ∧ s.phase ≠ phTAIL) ∧
    (∃ (s : State), s.inStep = true ∧ s.phase ≠ phTAIL) ∧
    (∃ (s : State), s.phase = phRESERVE ∧ s.step.reserveOver = true) ∧
    (∃ (s : State), s.training = true ∧ s.step.reserveOver = false ∧ s.diesQuiet ∧ (s.advance s.reserveEndAt).planDone = true) ∧
    (∃ (s : State), s.training = true ∧ s.step.reserveOver = false ∧ s.diesQuiet ∧ (s.advance s.reserveEndAt).planDone = false ∧ s.rf R.STEP_FLAG_RAISED = 0) ∧
    (∃ (s : State), s.training = true ∧ s.step.reserveOver = false ∧ (s.advance s.reserveEndAt).planDone = false) :=
  ⟨⟨withCh (up [(R.STEP_STATUS_PHASE, phARMED)]), ch, by decide +kernel⟩,
   ⟨run [(R.STEP_STATUS_PHASE, phBOUNDARY)], ch, by decide +kernel⟩,
   ⟨{ run [(R.STEP_STATUS_PHASE, phARMED)] with step := { StepSt.reset with launched := true } }, ch, by decide +kernel⟩,
   ⟨run [], by decide +kernel⟩,
   ⟨run [(R.STEP_STATUS_PHASE, phBACKWARD)], by decide +kernel⟩,
   ⟨run [], by decide +kernel⟩,
   ⟨run [(R.STEP_STATUS_PHASE, phSETTLE)], by decide +kernel⟩,
   ⟨{ run [(R.STEP_STATUS_PHASE, phRESERVE)] with step := { StepSt.reset with reserveOver := true } }, by decide +kernel⟩,
   ⟨{ run [(R.STEP_STATUS_PHASE, phRESERVE)] with upd := { UpdSt.reset with counts := [(0, 2)] } }, by unfold State.diesQuiet; decide +kernel⟩,
   ⟨run [], by unfold State.diesQuiet; decide +kernel⟩,
   ⟨run [], by decide +kernel⟩⟩

theorem wit_BindOff :
    (∃ (s : State) (c : Chart), s.pwr.critHold = none ∧ s.chart.active = some c ∧ s.phase = phSETTLE ∧ s.agreeRounds = 0) ∧
    (∃ (s : State) (c : Chart), s.pwr.critHold = none ∧ s.chart.active = some c ∧ s.phase = phSETTLE ∧ 0 < s.agreeRounds) ∧
    (∃ (s : State) (b : Nat), s.pwr.critHold = some b) :=
  ⟨⟨run [(R.STEP_STATUS_PHASE, phSETTLE)], ch, by decide +kernel⟩,
   ⟨run [(R.STEP_STATUS_PHASE, phSETTLE), (R.SYNC_CONFIG_DEVICES, 2)], ch, by decide +kernel⟩,
   ⟨{ up [] with pwr := { PowerSt.reset with critHold := some 22300 } }, 22300, by decide +kernel⟩⟩

theorem wit_BoundaryWork :
    (∃ (s : State), s.step.auditDue = true ∧ (let bad := s.led.snap.any (fun p => decide (p.ledger < 4) && p.diff != 0); s.step.decideDue = false ∧ bad = true)) ∧
    (∃ (s : State), s.step.auditDue = true) ∧
    (∃ (s : State) (c : Chart), s.chart.active = some c ∧ s.step.decideDue = true ∧ s.step.auditDue = false ∧ s.roundsDone = true ∧ s.step.ledgerBad = true) ∧
    (∃ (s : State) (c : Chart), s.chart.active = some c ∧ s.step.decideDue = true ∧ s.step.auditDue = false ∧ s.roundsDone = true ∧ s.step.ledgerBad = false ∧ s.step.thermalPend = true) ∧
    (∃ (s : State) (c : Chart), s.chart.active = some c ∧ s.step.decideDue = true ∧ s.step.auditDue = false ∧ s.roundsDone = true ∧ s.step.ledgerBad = false ∧ s.step.thermalPend = false ∧ s.step.stopAt = some s.step.lastStep) ∧
    (∃ (s : State) (c : Chart), s.chart.active = some c ∧ s.step.decideDue = true ∧ s.step.auditDue = false ∧ s.roundsDone = true ∧ s.step.ledgerBad = false ∧ s.step.thermalPend = false ∧ s.step.stopAt ≠ some s.step.lastStep ∧ s.chart.commits = [] ∧ s.chart.variants = [] ∧ s.step.installed = false) ∧
    (∃ (s : State) (a : Agreement), s.step.agreement = some a ∧ a.round < a.rounds) :=
  ⟨⟨{ { run [(R.STEP_STATUS_PHASE, phBOUNDARY)] with step := { StepSt.reset with auditDue := true } } with led := { LedgerSt.reset with snap := [⟨3, 0, 1, 1⟩] } }, by decide +kernel⟩,
   ⟨{ run [(R.STEP_STATUS_PHASE, phBOUNDARY)] with step := { StepSt.reset with auditDue := true, decideDue := true } }, by decide +kernel⟩,
   ⟨{ run [(R.STEP_STATUS_PHASE, phBOUNDARY)] with step := { StepSt.reset with decideDue := true, ledgerBad := true } }, ch, by decide +kernel⟩,
   ⟨{ run [(R.STEP_STATUS_PHASE, phBOUNDARY)] with step := { StepSt.reset with decideDue := true, thermalPend := true } }, ch, by decide +kernel⟩,
   ⟨{ run [(R.STEP_STATUS_PHASE, phBOUNDARY)] with step := { StepSt.reset with decideDue := true, stopAt := some 0 } }, ch, by decide +kernel⟩,
   ⟨{ run [(R.STEP_STATUS_PHASE, phBOUNDARY)] with step := { StepSt.reset with decideDue := true } }, ch, by decide +kernel⟩,
   ⟨{ run [(R.STEP_STATUS_PHASE, phBOUNDARY), (R.SYNC_CONFIG_DEVICES, 2)] with step := { StepSt.reset with agreement := some ⟨0, true, 0, 1, 1, 100⟩ } }, ⟨0, true, 0, 1, 1, 100⟩, by decide +kernel⟩⟩

theorem wit_SwatchesAndRequests :
    (∃ (s : State) (c : Chart) (p : Nat), s.chart.active = some c ∧ s.step.swatchNext = some p ∧ s.rf R.PWR_STATE_STATE = 3 ∧ s.step.auditDue = false ∧ s.step.decideDue = false ∧ s.step.emergency = false ∧ ((s.phase = phARMED ∧ s.step.launched = true) ∨ s.phase = phBOUNDARY)) ∧
    (∃ (s : State) (c : Chart) (p : Nat), s.chart.active = some c ∧ s.step.swatchNext = some p ∧ s.rf R.PWR_STATE_STATE = 3 ∧ s.step.auditDue = false ∧ s.step.decideDue = false ∧ s.step.emergency = false ∧ ((s.phase = phARMED ∧ s.step.launched = true) ∨ s.phase = phBOUNDARY)) ∧
    (∃ (s : State), s.phase = phSWATCH ∧ s.paused = false) ∧
    (∃ (s : State) (v : BitVec 64) (c : Chart), s.reach .host = true ∧ s.chart.active = some c ∧ bitsOf v.toNat 4 4 < c.nswatch ∧ s.stopped = true) ∧
    (∃ (s : State) (v : BitVec 64) (c : Chart), s.reach .host = true ∧ s.chart.active = some c ∧ bitsOf v.toNat 4 4 < c.nswatch ∧ s.inStep = true ∧ s.row < s.deadline) ∧
    (∃ (s : State) (v : BitVec 64) (c : Chart), s.reach .host = true ∧ s.chart.active = some c ∧ bitsOf v.toNat 4 4 < c.nswatch ∧ s.inStep = true ∧ s.deadline ≤ s.row) ∧
    (∃ (s : State), s.reach .host = true ∧ s.stopped = true) ∧
    (∃ (s : State), s.reach .host = true ∧ s.inStep = true ∧ s.step.stopAt = none ∧ s.row < s.deadline) ∧
    (∃ (s : State), s.reach .host = true ∧ s.inStep = true ∧ s.step.stopAt = none ∧ s.deadline ≤ s.row) ∧
    (∃ (s : State), s.reach .host = true ∧ s.inStep = true ∧ s.step.stopAt.isSome = true) ∧
    (∃ (s : State), s.phase = phSWATCH ∧ s.paused = false ∧ s.diesQuiet) :=
  ⟨⟨{ run [(R.STEP_STATUS_PHASE, phBOUNDARY)] with step := { StepSt.reset with swatchNext := some 0 } }, ch, 0, by decide +kernel⟩,
   ⟨{ run [(R.STEP_STATUS_PHASE, phARMED)] with step := { StepSt.reset with swatchNext := some 0, launched := true } }, ch, 0, by decide +kernel⟩,
   ⟨run [(R.STEP_STATUS_PHASE, phSWATCH)], by decide +kernel⟩,
   ⟨withCh (up []), 1#64, ch, by decide +kernel⟩,
   ⟨{ run [] with row := 5915 }, 1#64, ch, by decide +kernel⟩,
   ⟨{ run [] with row := 5916 }, 1#64, ch, by decide +kernel⟩,
   ⟨up [], by decide +kernel⟩,
   ⟨{ run [] with row := 5915 }, by decide +kernel⟩,
   ⟨{ run [] with row := 5916 }, by decide +kernel⟩,
   ⟨{ run [] with step := { StepSt.reset with stopAt := some 0 } }, by decide +kernel⟩,
   ⟨run [(R.STEP_STATUS_PHASE, phSWATCH)], by unfold State.diesQuiet; decide +kernel⟩⟩

theorem wit_ScaleAndFlag :
    (∃ (s : State), s.reach .host = true ∧ s.training = true ∧ s.step.reserveOver = false ∧ s.rf R.STEP_FLAG_RAISED = 0) ∧
    (∃ (s : State), s.reach .host = true ∧ s.training = true ∧ s.step.reserveOver = false ∧ s.rf R.STEP_FLAG_RAISED = 0) ∧
    (∃ (s : State), s.reach .host = true ∧ s.inStep = true) ∧
    (∃ (s : State), s.reach .host = true) :=
  ⟨⟨run [], by decide +kernel⟩,
   ⟨run [(R.STEP_STATUS_PHASE, phRESERVE)], by decide +kernel⟩,
   ⟨{ run [] with row := 5916 }, by decide +kernel⟩,
   ⟨up [], by decide +kernel⟩⟩

theorem wit_ChartLoading :
    (∃ (s : State) (v : BitVec 64), s.reach .host = true ∧ s.loadRefused (bitsOf v.toNat 32 32) = false ∧ s.rf R.HQ_LINK_BME = 1) ∧
    (∃ (s : State) (v : BitVec 64), s.reach .host = true ∧ s.loadRefused (bitsOf v.toNat 32 32) = false ∧ s.rf R.HQ_LINK_BME ≠ 1) ∧
    (∃ (s : State), s.rf R.CHART_LOAD_STATUS_STATE = 1 ∧ s.fetchHeld = false) ∧
    (∃ (s : State) (rule : Nat) (sec : Nat) (off : Nat), s.rf R.CHART_LOAD_STATUS_STATE = 2 ∧ (let c := Chart.parse s.chart.image; s.firstFailing c 25 1 = some (rule, sec, off))) ∧
    (∃ (s : State), s.rf R.CHART_LOAD_STATUS_STATE = 2 ∧ (let c := Chart.parse s.chart.image; s.firstFailing c 25 1 = none)) ∧
    (∃ (s : State), s.reach .host = true ∧ s.chart.commits = [] ∧ s.rf R.CHART_LOAD_STATUS_STATE ≠ 1) ∧
    (∃ (s : State) (c : Chart), s.reach .host = true ∧ s.stopped = true ∧ s.chart.commits = [] ∧ s.chart.variants = [] ∧ s.chart.active = some c) ∧
    (∃ (s : State) (c : Chart), s.reach .host = true ∧ s.stopped = true ∧ s.chart.commits = [] ∧ s.chart.variants = [] ∧ s.chart.active = some c) :=
  ⟨⟨up [(R.HQ_LINK_BME, 1)], 0x100000001#64, by decide +kernel⟩,
   ⟨up [], 0x100000001#64, by decide +kernel⟩,
   ⟨up [(R.CHART_LOAD_STATUS_STATE, 1)], by decide +kernel⟩,
   ⟨up [(R.CHART_LOAD_STATUS_STATE, 2)], 1, 0xF, 0, by decide +kernel⟩,
   ⟨checking, by decide +kernel, valid_image1⟩,
   ⟨up [], by decide +kernel⟩,
   ⟨withCh (up []), ch, by decide +kernel⟩,
   ⟨withCh (up [(R.STEP_STATUS_PHASE, phHOLD)]), ch, by decide +kernel⟩⟩

theorem wit_CommitRequests :
    (∃ (s : State) (c : Chart), s.reach .host = true ∧ s.inStep = true ∧ s.chart.staged = some c ∧ s.rf R.CHART_LOAD_STATUS_STATE = 3 ∧ s.recheck c = 0 ∧ s.rf R.PWR_AVS_MET ≠ 0) ∧
    (∃ (s : State) (c : Chart), s.reach .host = true ∧ s.inStep = true ∧ s.chart.staged = some c ∧ s.rf R.CHART_LOAD_STATUS_STATE = 3 ∧ s.recheck c = 0 ∧ s.rf R.PWR_AVS_MET ≠ 0) ∧
    (∃ (s : State) (d : PendCommit), s.reach .host = true ∧ s.chart.commits.getLast? = some d ∧ s.frozen d = true) ∧
    (∃ (s : State) (d : PendCommit), s.reach .host = true ∧ s.chart.commits.getLast? = some d ∧ s.frozen d = false) ∧
    (∃ (s : State) (d : PendCommit), s.reach .host = true ∧ s.chart.variants.getLast? = some d ∧ s.frozen d = true) ∧
    (∃ (s : State) (d : PendCommit), s.reach .host = true ∧ s.chart.variants.getLast? = some d ∧ s.frozen d = false) ∧
    (∃ (s : State) (v : BitVec 64) (c : Chart), s.reach .host = true ∧ s.chart.active = some c ∧ bitsOf v.toNat 4 4 < c.nvar ∧ s.stopped = true) ∧
    (∃ (s : State) (v : BitVec 64) (c : Chart), s.reach .host = true ∧ s.chart.active = some c ∧ bitsOf v.toNat 4 4 < c.nvar ∧ s.inStep = true) :=
  ⟨⟨{ run [(R.PWR_AVS_MET, 1), (R.CHART_LOAD_STATUS_STATE, 3)] with chart := { ChartSt.reset with active := some ch, staged := some ch } }, ch, by decide +kernel⟩,
   ⟨{ { run [(R.PWR_AVS_MET, 1), (R.CHART_LOAD_STATUS_STATE, 3)] with chart := { ChartSt.reset with active := some ch, staged := some ch } } with row := 5916 }, ch, by decide +kernel⟩,
   ⟨{ { run [] with chart := { ChartSt.reset with active := some ch, commits := [⟨0, some 0, false⟩] } } with row := 5916 }, ⟨0, some 0, false⟩, by decide +kernel⟩,
   ⟨{ { run [] with chart := { ChartSt.reset with active := some ch, commits := [⟨0, some 0, false⟩] } } with row := 5915 }, ⟨0, some 0, false⟩, by decide +kernel⟩,
   ⟨{ { run [] with chart := { ChartSt.reset with active := some ch, variants := [⟨0, some 0, false⟩] } } with row := 5916 }, ⟨0, some 0, false⟩, by decide +kernel⟩,
   ⟨{ { run [] with chart := { ChartSt.reset with active := some ch, variants := [⟨0, some 0, false⟩] } } with row := 5915 }, ⟨0, some 0, false⟩, by decide +kernel⟩,
   ⟨withCh (up []), 0x11#64, ch, by decide +kernel⟩,
   ⟨run [], 0x11#64, ch, by decide +kernel⟩⟩

theorem wit_ChartInstall :
    ∃ (s : State) (c : Chart) (d : PendCommit), 2 ≤ s.rf R.PWR_STATE_STATE ∧ s.step.decideDue = false ∧ s.stopped = true ∧ s.openHost = [] ∧ s.chart.commits = [d] ∧ d.target = none ∧ s.chart.staged = some c ∧ s.recheck c = 0 :=
  ⟨{ up [] with chart := { ChartSt.reset with staged := some ch, commits := [⟨0, none, false⟩] } }, ch, ⟨0, none, false⟩, by decide +kernel⟩

theorem wit_RoundsPausesAndClears :
    (∃ (s : State), s.pwr.off = false ∧ s.inPlan = true ∧ s.fault.pauseEnd = none ∧ s.fault.peerPause = false ∧ 0 < s.fault.pauseWant) ∧
    (∃ (s : State) (e : Nat), s.fault.pauseEnd = some e ∧ (∀ p : Fin 4, s.rf (R.CDP_STATUS_STATE p.val) ≠ 5) ∧ s.peerWaits = false) ∧
    (∃ (s : State), s.fault.pauseEnd = none ∧ s.fault.peerPause = true ∧ s.peerWaits = false ∧ s.fault.pauseWant = 0) ∧
    (∃ (s : State), s.fault.pauseEnd = none ∧ s.fault.peerPause = true ∧ s.peerWaits = false ∧ 0 < s.fault.pauseWant) ∧
    (∃ (s : State), s.pwr.off = false ∧ s.inPlan = true) ∧
    (∃ (s : State), s.pwr.off = false ∧ s.inPlan = true) ∧
    (∃ (s : State), s.pwr.off = false ∧ s.inPlan = true ∧ s.slotsQuiet ∧ s.tier.cmd = none) ∧
    (∃ (s : State), s.pwr.off = false ∧ s.inPlan = false) ∧
    (∃ (s : State), s.pwr.off = false ∧ s.inPlan = false ∧ s.phase ≠ phTAIL ∧ s.slotsQuiet ∧ s.tier.cmd = none) ∧
    (∃ (s : State), s.reach .host = true ∧ (s.inStep || s.step.figDue) = true) ∧
    (∃ (s : State), s.reach .host = true ∧ (s.inStep || s.step.figDue) = false) ∧
    (∃ (s : State) (b : Nat × Nat × Nat) (l : List (Nat × Nat × Nat)), s.pwr.off = false ∧ s.inPlan = true ∧ s.fault.pauseEnd = none ∧ s.fault.peerPause = false ∧ s.fault.pauseWant = 0 ∧ s.openBarriers = b :: l) ∧
    (∃ (s : State) (e : Nat), s.fault.pauseEnd = some e ∧ (∀ p : Fin 4, s.rf (R.CDP_STATUS_STATE p.val) ≠ 5) ∧ s.peerWaits = true) :=
  ⟨⟨{ run [] with fault := { FaultSt.reset with pauseWant := 1 } }, by decide +kernel⟩,
   ⟨{ up [] with fault := { FaultSt.reset with pauseEnd := some 5 } }, 5, by decide +kernel⟩,
   ⟨{ up [] with fault := { FaultSt.reset with peerPause := true } }, by decide +kernel⟩,
   ⟨{ up [] with fault := { FaultSt.reset with peerPause := true, pauseWant := 5 } }, by decide +kernel⟩,
   ⟨run [], by decide +kernel⟩,
   ⟨run [(R.STEP_STATUS_PHASE, phSWATCH)], by decide +kernel⟩,
   ⟨run [], by unfold State.slotsQuiet State.diesQuiet; decide +kernel⟩,
   ⟨up [], by decide +kernel⟩,
   ⟨up [], by unfold State.slotsQuiet State.diesQuiet; decide +kernel⟩,
   ⟨run [], by decide +kernel⟩,
   ⟨up [], by decide +kernel⟩,
   ⟨run [(R.SYNC_CONFIG_DEVICES, 2)], (7, 1, 40), [], by decide +kernel⟩,
   ⟨{ run [(R.SYNC_CONFIG_DEVICES, 2)] with fault := { FaultSt.reset with pauseEnd := some 50, pauseFrom := 40 } }, 50, by decide +kernel⟩⟩

theorem wit_StreamControl :
    (∃ (n : Fin 16384) (s : State), s.atOp n.val opNOP = true) ∧
    (∃ (n : Fin 16384) (s : State), s.atOp n.val opSETREG = true) ∧
    (∃ (n : Fin 16384) (s : State), s.atOp n.val opLOOP = true ∧ (let u := s.unit n.val; fieldLe u 2 2 = 0)) ∧
    (∃ (n : Fin 16384) (s : State), s.atOp n.val opLOOP = true ∧ (let u := s.unit n.val; fieldLe u 2 2 ≠ 0)) ∧
    (∃ (n : Fin 16384) (s : State), s.atOp n.val opENDLOOP = true ∧ (let f := loopF n.val (s.depthAt n.val - 1); s.rf f ≤ 1)) ∧
    (∃ (n : Fin 16384) (s : State), s.atOp n.val opENDLOOP = true ∧ (let f := loopF n.val (s.depthAt n.val - 1); 1 < s.rf f)) :=
  ⟨⟨0, at0 (mk 16 [(0, 1, 14)]) [], by decide +kernel⟩,
   ⟨0, at0 (mk 16 [(0, 1, 13)]) [], by decide +kernel⟩,
   ⟨0, at0 (mk 32 [(0, 1, 4), (4, 2, 1), (16, 1, 5), (18, 2, 1)]) [], by decide +kernel⟩,
   ⟨0, at0 (mk 32 [(0, 1, 4), (2, 2, 1), (4, 2, 1), (16, 1, 5), (18, 2, 1)]) [], by decide +kernel⟩,
   ⟨0, at0 (mk 32 [(0, 1, 4), (2, 2, 3), (4, 2, 1), (16, 1, 5), (18, 2, 1)]) [(R.STREAM_RUN_PC 0, 1), (R.STREAM_LOOP_LOOP0 0, 1)], by decide +kernel⟩,
   ⟨0, at0 (mk 32 [(0, 1, 4), (2, 2, 3), (4, 2, 1), (16, 1, 5), (18, 2, 1)]) [(R.STREAM_RUN_PC 0, 1), (R.STREAM_LOOP_LOOP0 0, 2)], by decide +kernel⟩⟩

theorem wit_Barriers :
    (∃ (n : Fin 16384) (s : State), s.atOp n.val opBARRIER = true ∧ fieldLe (s.unit n.val) 4 4 = 0) ∧
    (∃ (n : Fin 16384) (s : State), s.atOp n.val opBARRIER = true ∧ fieldLe (s.unit n.val) 4 4 ≠ 0 ∧ s.rf (R.STREAM_RUN_WAIT n.val) ≠ wtBARRIER ∧ (let u := s.unit n.val; let id := fieldLe u 2 2 % 4096; let g := s.streamGen n.val id + 1; ends (exec (.barrier n) s) (fun t => decide (uFlag u 0 = false ∧ g ≤ t.localGen id)) = true)) ∧
    (∃ (n : Fin 16384) (s : State), s.atOp n.val opBARRIER = true ∧ fieldLe (s.unit n.val) 4 4 ≠ 0 ∧ s.rf (R.STREAM_RUN_WAIT n.val) ≠ wtBARRIER ∧ (let u := s.unit n.val; let id := fieldLe u 2 2 % 4096; let g := s.streamGen n.val id + 1; ends (exec (.barrier n) s) (fun t => decide (uFlag u 0 = false ∧ t.localGen id < g)) = true)) ∧
    (∃ (n : Fin 16384) (s : State), s.atOp n.val opBARRIER = true ∧ fieldLe (s.unit n.val) 4 4 ≠ 0 ∧ s.rf (R.STREAM_RUN_WAIT n.val) ≠ wtBARRIER ∧ (let u := s.unit n.val; let id := fieldLe u 2 2 % 4096; let g := s.streamGen n.val id + 1; ends (exec (.barrier n) s) (fun t => decide (uFlag u 0 = true ∧ t.configDone id g = true)) = true)) ∧
    (∃ (n : Fin 16384) (s : State), s.atOp n.val opBARRIER = true ∧ fieldLe (s.unit n.val) 4 4 ≠ 0 ∧ s.rf (R.STREAM_RUN_WAIT n.val) ≠ wtBARRIER ∧ (let u := s.unit n.val; let id := fieldLe u 2 2 % 4096; let g := s.streamGen n.val id + 1; ends (exec (.barrier n) s) (fun t => decide (uFlag u 0 = true ∧ t.configDone id g = false)) = true)) ∧
    (∃ (n : Fin 16384) (id : Fin 4096) (s : State), s.usedCtx.filter (fun m => s.waitsAt m id.val && s.barrierPasses m) = [n.val]) ∧
    (∃ (j : Fin 64) (id : Fin 4096) (s : State) (own : Nat) (e : Ent), 2 ≤ s.rf R.PWR_STATE_STATE ∧ j.val < s.devices ∧ j.val ≠ s.rf R.SYNC_CONFIG_MEMBER ∧ s.tier.peers = [] ∧ s.slotTime = false ∧ s.lendPage true (s.rf R.SYNC_BARRIER_APERTURE_PAGE) = some (s.rf R.SYNC_BARRIER_LOCAL_PAGE, own) ∧ s.rf R.SYNC_BARRIER_LOCAL_PAGE < 2 ^ 31 ∧ s.pairOf (s.rf R.SYNC_BARRIER_LOCAL_PAGE) = none ∧ s.pageFor .peer (s.rf R.SYNC_BARRIER_LOCAL_PAGE) false = .ok e ∧ s.stagedAt e.page = false ∧ s.tierOf (e.page * 2 ^ 21 + 512 * id.val + 8 * j.val) ≤ 1 ∧ s.isDead (e.page * 2 ^ 21 + 512 * id.val + 8 * j.val) = false) ∧
    (∃ (j : Fin 64) (id : Fin 4096) (s : State) (own : Nat) (e : Ent), 2 ≤ s.rf R.PWR_STATE_STATE ∧ j.val < s.devices ∧ j.val ≠ s.rf R.SYNC_CONFIG_MEMBER ∧ s.tier.peers = [] ∧ s.slotTime = false ∧ s.lendPage true (s.rf R.SYNC_BARRIER_APERTURE_PAGE) = some (s.rf R.SYNC_BARRIER_LOCAL_PAGE, own) ∧ s.rf R.SYNC_BARRIER_LOCAL_PAGE < 2 ^ 31 ∧ s.pairOf (s.rf R.SYNC_BARRIER_LOCAL_PAGE) = none ∧ s.pageFor .peer (s.rf R.SYNC_BARRIER_LOCAL_PAGE) false = .ok e ∧ s.stagedAt e.page = false ∧ s.tierOf (e.page * 2 ^ 21 + 512 * id.val + 8 * j.val) ≤ 1 ∧ s.isDead (e.page * 2 ^ 21 + 512 * id.val + 8 * j.val) = false) ∧
    (∃ (j : Fin 64) (s : State), 2 ≤ s.rf R.PWR_STATE_STATE ∧ j.val < s.devices ∧ j.val ≠ s.rf R.SYNC_CONFIG_MEMBER ∧ s.tier.peers = [] ∧ s.slotTime = false ∧ s.lendPage true (s.rf R.SYNC_BARRIER_APERTURE_PAGE) = none) ∧
    (∃ (j : Fin 64) (s : State), 2 ≤ s.rf R.PWR_STATE_STATE ∧ j.val < s.devices ∧ j.val ≠ s.rf R.SYNC_CONFIG_MEMBER ∧ s.tier.peers = [] ∧ s.slotTime = true ∧ s.slots.claim s.tier.used s.planTick (annLoad 0x5000) = none) :=
  ⟨⟨0, at0 (mk 16 [(0, 1, 12)]) [], by decide +kernel⟩,
   ⟨0, at0 (mk 16 [(0, 1, 12), (1, 1, 0), (2, 2, 5), (4, 4, 1)]) [], by decide +kernel⟩,
   ⟨0, at0 (mk 16 [(0, 1, 12), (1, 1, 0), (2, 2, 5), (4, 4, 2)]) [], by decide +kernel⟩,
   ⟨0, at0 (mk 16 [(0, 1, 12), (1, 1, 1), (2, 2, 5), (4, 4, 1)]) [], by decide +kernel⟩,
   ⟨0, at0 (mk 16 [(0, 1, 12), (1, 1, 1), (2, 2, 5), (4, 4, 2)]) [], by decide +kernel⟩,
   ⟨0, 5, barWait, by decide +kernel⟩,
   ⟨1, 4095, mapped [(R.SYNC_CONFIG_DEVICES, 2), (R.SYNC_BARRIER_LOCAL_PAGE, 1), (R.TIER_LEND_A_OA 0, 1), (R.TIER_LEND_A_PAGES 0, 1), (R.TIER_LEND_B_VALID 0, 1), (R.TIER_LEND_B_WRITE 0, 1)], 1, ⟨1, 3, false, 1⟩, by decide +kernel⟩,
   ⟨1, 0, mapped [(R.SYNC_CONFIG_DEVICES, 2), (R.SYNC_BARRIER_LOCAL_PAGE, 1), (R.TIER_LEND_A_OA 0, 1), (R.TIER_LEND_A_PAGES 0, 1), (R.TIER_LEND_B_VALID 0, 1), (R.TIER_LEND_B_WRITE 0, 1)], 1, ⟨1, 3, false, 1⟩, by decide +kernel⟩,
   ⟨1, mapped [(R.SYNC_CONFIG_DEVICES, 2), (R.SYNC_BARRIER_LOCAL_PAGE, 1)], by decide +kernel⟩,
   ⟨1, run [(R.SYNC_CONFIG_DEVICES, 2)], by decide +kernel⟩⟩

theorem wit_SealEnd :
    (∃ (n : Fin 16384) (s : State), s.atOp n.val opEND = true) ∧
    (∃ (n : Fin 16384) (s : State), s.atOp n.val opSEAL = true ∧ s.sst n.val ≠ ssSEALED ∧ s.quiet n.val = false) ∧
    (∃ (n : Fin 16384) (s : State), s.atOp n.val opSEAL = true ∧ s.sst n.val ≠ ssSEALED ∧ (let u := s.unit n.val; let x := s.str n.val; s.quiet n.val = true ∧ uFlag u 0 = false ∧ x.far = [] ∧ s.rf (R.STREAM_RUN_WAIT n.val) ≠ wtFAR)) ∧
    (∃ (n : Fin 16384) (s : State), s.atOp n.val opSEAL = true ∧ s.sst n.val ≠ ssSEALED ∧ (let u := s.unit n.val; let x := s.str n.val; s.quiet n.val = true ∧ uFlag u 0 = false ∧ x.confirm = [] ∧ x.pend = [] ∧ s.rf (R.STREAM_RUN_WAIT n.val) = wtFAR)) ∧
    (∃ (n : Fin 16384) (s : State), s.atOp n.val opSEAL = true ∧ s.sst n.val ≠ ssSEALED ∧ (let u := s.unit n.val; let x := s.str n.val; s.quiet n.val = true ∧ uFlag u 0 = false ∧ x.far ≠ [] ∧ s.rf (R.STREAM_RUN_WAIT n.val) ≠ wtFAR ∧ (x.far.any (fun f => decide (100 ≤ f.1) && (s.portWaits (f.1 - 100) || (s.claimMsg n.val (f.1 - 100)).isNone))) = false ∧ (∀ f ∈ x.far, s.confirmable n.val f.1))) :=
  ⟨⟨0, at0 (mk 16 [(0, 1, 15)]) [], by decide +kernel⟩,
   ⟨0, (at0 (mk 16 [(0, 1, 11)]) []).setStr 0 { StreamX.fresh with host := true, prog := mk 16 [(0, 1, 11)], blocks := [blk0] }, by decide +kernel⟩,
   ⟨0, at0 (mk 16 [(0, 1, 11)]) [], by decide +kernel⟩,
   ⟨0, at0 (mk 16 [(0, 1, 11)]) [(R.STREAM_RUN_WAIT 0, 7)], by decide +kernel⟩,
   ⟨0, (at0 (mk 16 [(0, 1, 11)]) []).setStr 0 { StreamX.fresh with host := true, prog := mk 16 [(0, 1, 11)], far := [(100, 0)] }, by
    repeat' apply And.intro
    all_goals first | decide +kernel | exact fun f hf => Or.inl ((by decide +kernel : ∀ f ∈ (State.str ((at0 (mk 16 [(0, 1, 11)]) []).setStr 0 { StreamX.fresh with host := true, prog := mk 16 [(0, 1, 11)], far := [(100, 0)] }) 0).far, 100 ≤ f.1) f hf)⟩⟩

theorem wit_StreamStartsAndInlines :
    (∃ (n : Fin 16384) (s : State), (s.str n.val).host = false ∧ s.sst n.val = ssARMED ∧ s.mayRun n.val = true ∧ s.runSet.contains n.val = true) ∧
    (∃ (n : Fin 16384) (s : State), s.atOp n.val opINLINE = true ∧ (let u := s.unit n.val; let len := fieldLe u 2 1; len = 0)) ∧
    (∃ (n : Fin 16384) (s : State) (c : List (Nat × Nat) × Nat), s.atOp n.val opINLINE = true ∧ (let u := s.unit n.val; let len := fieldLe u 2 1; let dst := if uFlag u 1 then addOffset (fieldLe u 8 8) (s.rf (R.STREAM_AD1_AD1 n.val)) else fieldLe u 8 8; len ≠ 0 ∧ s.roomFor n.val [(dst, len)] = true ∧ s.claimFor n.val (ownedBy n.val (s.putLoad dst len)) = some c)) ∧
    (∃ (n : Fin 16384) (s : State), s.atOp n.val opINLINE = true ∧ (let u := s.unit n.val; let len := fieldLe u 2 1; let dst := if uFlag u 1 then addOffset (fieldLe u 8 8) (s.rf (R.STREAM_AD1_AD1 n.val)) else fieldLe u 8 8; len ≠ 0 ∧ s.roomFor n.val [(dst, len)] = true ∧ s.claimFor n.val (ownedBy n.val (s.putLoad dst len)) = none ∧ (s.str n.val).host = false)) ∧
    (∃ (n : Fin 16384) (s : State), s.atOp n.val opINLINE = true ∧ (let u := s.unit n.val; let len := fieldLe u 2 1; let dst := if uFlag u 1 then addOffset (fieldLe u 8 8) (s.rf (R.STREAM_AD1_AD1 n.val)) else fieldLe u 8 8; len ≠ 0 ∧ s.roomFor n.val [(dst, len)] = false)) :=
  ⟨⟨0, run [(R.STREAM_RUN_STATE 0, ssARMED)], by decide +kernel⟩,
   ⟨0, at0 (mk 16 [(0, 1, 3)]) [], by decide +kernel⟩,
   ⟨0, at0 (mk 32 [(0, 1, 3), (2, 1, 1)]) [(R.STREAM_CTL_INFLIGHT 0, 1)], ([], 0), by decide +kernel⟩,
   ⟨0, planAt (mk 32 [(0, 1, 3), (2, 1, 1), (8, 6, 2 ^ 21)]) [] stash0 [(R.STREAM_CTL_INFLIGHT 0, 1)], by decide +kernel⟩,
   ⟨0, at0 (mk 32 [(0, 1, 3), (2, 1, 1)]) [], by decide +kernel⟩⟩

theorem wit_MoveBlocks :
    (∃ (n : Fin 16384) (s : State), s.atOp n.val opMOVE = true ∧ s.sst n.val ≠ ssWAIT ∧ fieldLe (s.unit n.val) 2 2 = 0) ∧
    (∃ (n : Fin 16384) (s : State) (c : List (Nat × Nat) × Nat), s.atOp n.val opMOVE = true ∧ s.sst n.val ≠ ssWAIT ∧ 0 < fieldLe (s.unit n.val) 2 2 ∧ (s.moveEntry n.val 0).len ≠ 0 ∧ (s.beginMove n.val).roomFor n.val [((s.moveEntry n.val 0).dst, (s.moveEntry n.val 0).len)] = true ∧ (s.rf R.HQ_LINK_BME ≠ 0 ∨ s.missing (s.strWho n.val (s.str n.val).nextSeq) [] ((s.moveEntry n.val 0).src % 2 ^ 52) (s.moveEntry n.val 0).len = []) ∧ s.claimFor n.val (s.blockLoad n.val (s.moveEntry n.val 0).src (s.moveEntry n.val 0).dst (s.moveEntry n.val 0).len) = some c) ∧
    (∃ (n : Fin 16384) (s : State) (c : List (Nat × Nat) × Nat), s.atOp n.val opMOVE = true ∧ s.sst n.val ≠ ssWAIT ∧ 0 < fieldLe (s.unit n.val) 2 2 ∧ (s.moveEntry n.val 0).len ≠ 0 ∧ (s.beginMove n.val).roomFor n.val [((s.moveEntry n.val 0).dst, (s.moveEntry n.val 0).len)] = true ∧ (s.rf R.HQ_LINK_BME ≠ 0 ∨ s.missing (s.strWho n.val (s.str n.val).nextSeq) [] ((s.moveEntry n.val 0).src % 2 ^ 52) (s.moveEntry n.val 0).len = []) ∧ s.claimFor n.val (s.blockLoad n.val (s.moveEntry n.val 0).src (s.moveEntry n.val 0).dst (s.moveEntry n.val 0).len) = some c) ∧
    (∃ (n : Fin 16384) (s : State), s.atOp n.val opMOVE = true ∧ s.sst n.val ≠ ssWAIT ∧ 0 < fieldLe (s.unit n.val) 2 2 ∧ (s.moveEntry n.val 0).len ≠ 0 ∧ (s.beginMove n.val).roomFor n.val [((s.moveEntry n.val 0).dst, (s.moveEntry n.val 0).len)] = true ∧ (s.rf R.HQ_LINK_BME ≠ 0 ∨ s.missing (s.strWho n.val (s.str n.val).nextSeq) [] ((s.moveEntry n.val 0).src % 2 ^ 52) (s.moveEntry n.val 0).len = []) ∧ s.claimFor n.val (s.blockLoad n.val (s.moveEntry n.val 0).src (s.moveEntry n.val 0).dst (s.moveEntry n.val 0).len) = none) ∧
    (∃ (n : Fin 16384) (s : State), s.atOp n.val opMOVE = true ∧ s.sst n.val ≠ ssWAIT ∧ 0 < fieldLe (s.unit n.val) 2 2 ∧ (s.moveEntry n.val 0).len ≠ 0 ∧ (s.beginMove n.val).roomFor n.val [((s.moveEntry n.val 0).dst, (s.moveEntry n.val 0).len)] = false) :=
  ⟨⟨0, at0 (mk 16 [(0, 1, 1)]) [], by decide +kernel⟩,
   ⟨0, withList (mk 16 [(0, 1, 1), (2, 2, 1)]) [(R.STREAM_CTL_INFLIGHT 0, 1)], ([], 0), by decide +kernel⟩,
   ⟨0, withList (mk 16 [(0, 1, 1), (2, 2, 1)]) [(R.STREAM_CTL_INFLIGHT 0, 1), (R.HQ_LINK_BME, 1)], ([], 0), by decide +kernel⟩,
   ⟨0, planAt (mk 16 [(0, 1, 1), (2, 2, 1)]) (mk 64 [(0, 8, 2 ^ 21), (8, 8, 2 ^ 22), (16, 5, 64)]) stash0 [(R.STREAM_CTL_INFLIGHT 0, 1)], by decide +kernel⟩,
   ⟨0, withList (mk 16 [(0, 1, 1), (2, 2, 1)]) [], by decide +kernel⟩⟩

theorem wit_BlockCompletion :
    (∃ (n : Fin 16384) (w : Transfer) (s : State) (b : Block), (s.str n.val).blocks.find? (fun x => x.seq == w.seq) = some b ∧ 2 ≤ s.rf R.PWR_STATE_STATE ∧ s.moverServed n.val = true ∧ s.sst n.val ≠ ssSTOPPING ∧ b.inHand = true ∧ isPort b.dst = false ∧ s.linesFor n.val [(b.dst % 2 ^ 52, b.len)] = []) ∧
    (∃ (n : Fin 16384) (w : Transfer) (s : State) (b : Block), (s.str n.val).blocks.find? (fun x => x.seq == w.seq) = some b ∧ 2 ≤ s.rf R.PWR_STATE_STATE ∧ s.moverServed n.val = true ∧ s.sst n.val ≠ ssSTOPPING ∧ b.inHand = false ∧ isPort b.dst = false ∧ s.linesFor n.val [(b.src, b.len), (b.dst % 2 ^ 52, b.len)] = [] ∧ s.outWaits n.val b = false ∧ s.frogOf n.val b.mb = none ∧ s.lacksFar n.val b = false) :=
  ⟨⟨0, ⟨0, []⟩, onMap { StreamX.fresh with host := true, blocks := [{ blk0 with inHand := true, data := clean (List.replicate 64 1) }] } [], { blk0 with inHand := true, data := clean (List.replicate 64 1) }, by decide +kernel⟩,
   ⟨0, ⟨0, []⟩, onMap { StreamX.fresh with host := true, blocks := [blk0] } [], blk0, by decide +kernel⟩⟩

theorem wit_Segments :
    (∃ (e : Nat) (s : State) (g : Seg) (us : List Nat), s.segOf e = some g ∧ s.planRuns = true ∧ (s.clu.running.any fun p => p.1 == e) = true ∧ s.spanUnits g.ce.first g.span = some us ∧ s.overdueUnit us (s.cluAt g.ce.start + s.cycleTicks (fieldLe g.prog 0xC 4)) = none) ∧
    (∃ (e : Nat) (s : State) (g : Seg) (us : List Nat), s.segOf e = some g ∧ s.planRuns = true ∧ s.clu.left.contains e = true ∧ s.spanUnits g.ce.first g.span = some us ∧ g.rows ≠ 0) ∧
    (∃ (e : Nat) (u : Nat) (s : State) (g : Seg) (us : List Nat), s.segOf e = some g ∧ s.planRuns = true ∧ (s.clu.running.any fun p => p.1 == e) = true ∧ s.spanUnits g.ce.first g.span = some us ∧ s.overdueUnit us (s.cluAt g.ce.start + s.cycleTicks (fieldLe g.prog 0xC 4)) = some u) :=
  ⟨⟨0, segState [] [(0, 10), (1, 20)], ((segState [] [(0, 10), (1, 20)]).segOf 0).get (by decide +kernel), [0], by decide +kernel⟩,
   ⟨0, segState [0, 1, 2] [], ((segState [0, 1, 2] []).segOf 0).get (by decide +kernel), [0], by decide +kernel⟩,
   ⟨0, 0x1000, { segState [] [(0, 10), (1, 20)] with row := 100000 }, (State.segOf ({ segState [] [(0, 10), (1, 20)] with row := 100000 }) 0).get (by decide +kernel), [0], by decide +kernel⟩⟩

theorem wit_WalksAndChunks :
    (∃ (q : Fin 144) (k : Nat) (panel : Nat) (chunk : Nat) (s : State) (g : Seg), s.planRuns = true ∧ s.rf (R.EXP_STAT_STATE q.val) = 2 ∧ s.segAt (s.rf (R.EXP_STAT_LOGICAL q.val) / 4) = some g ∧ k < fieldLe g.prog 5 1 ∧ (wDesc g.prog k).index = 0 ∧ panel < ceilDiv (wDesc g.prog k).n 128 ∧ chunk < ceilDiv (wDesc g.prog k).k 512 ∧ (let d := wDesc g.prog k; let sk := splitOf g.prog k; let h := perPart d sk; let x := s.expandPart d panel (chunk / h) sk (chunk / h * h); let l := chunkOf d x.data (chunk / h * h) chunk; l.any (·.2) = true)) ∧
    (∃ (e : Nat) (s : State) (c : Chart) (p : Nat), s.chart.active = some c ∧ (cluEntry s.schedule e).kind = 2 ∧ s.planRuns = true ∧ s.clu.left.contains e = true ∧ s.serverOf 2 (cluEntry s.schedule e).first = some p ∧ walkDone s.schedule c.fclk (s.planFin c) (cluEntry s.schedule e) (wDesc ((c.item 6 (cluEntry s.schedule e).tensor).getD []) (cluEntry s.schedule e).slice) ≤ s.planFin c) :=
  ⟨⟨143, 0, 0, 0, owned 2 (segState [] [(0, 10), (1, 20)]), (State.segAt (owned 2 (segState [] [(0, 10), (1, 20)])) 0).get (by decide +kernel), by decide +kernel⟩,
   ⟨2, segState [0, 1, 2] [], ch, 0x2000, by decide +kernel⟩⟩

theorem wit_AccumulatorsAndUpdates :
    (∃ (s : State) (a : Nat), s.planRuns = true ∧ s.inStep = true ∧ leastBy (fun x => (accDesc s.updProg x).clear) ((upTo (fieldLe s.updProg 0 2)).filter (fun x => (accDesc s.updProg x).clear != 0 && !s.upd.cleared.contains x)) = some a) ∧
    (∃ (e : Nat) (s : State) (ce : CluEntry) (us : List Nat), s.chunkEntry e = some ce ∧ s.planRuns = true ∧ s.clu.left.contains e = true ∧ s.spanUnits ce.first (fieldLe s.updProg 6 1) = some us ∧ s.groupExtent (uGroup s.updProg ce.tensor).group ≠ 0) ∧
    (∃ (e : Nat) (s : State) (ce : CluEntry) (us : List Nat), s.chunkEntry e = some ce ∧ s.planRuns = true ∧ s.clu.left.contains e = true ∧ s.spanUnits ce.first (fieldLe s.updProg 6 1) = some us ∧ s.groupExtent (uGroup s.updProg ce.tensor).group = 0) ∧
    (∃ (e : Nat) (s : State) (ce : CluEntry) (us : List Nat), s.chunkEntry e = some ce ∧ s.planRuns = true ∧ (s.clu.running.any fun p => p.1 == e) = true ∧ s.spanUnits ce.first (fieldLe s.updProg 6 1) = some us ∧ (let due := s.cluAt ce.start + s.cycleTicks (updCycles (fieldLe s.updProg 6 1) (uGroup s.updProg ce.tensor) ce.slice); s.groupExtent (uGroup s.updProg ce.tensor).group ≠ 0 ∧ s.overdueUnit us due = none)) ∧
    (∃ (e : Nat) (s : State) (ce : CluEntry) (us : List Nat), s.chunkEntry e = some ce ∧ s.planRuns = true ∧ (s.clu.running.any fun p => p.1 == e) = true ∧ s.spanUnits ce.first (fieldLe s.updProg 6 1) = some us ∧ (s.groupExtent (uGroup s.updProg ce.tensor).group = 0)) ∧
    (∃ (e : Nat) (s : State) (ce : CluEntry) (us : List Nat), s.chunkEntry e = some ce ∧ s.planRuns = true ∧ (s.clu.running.any fun p => p.1 == e) = true ∧ s.spanUnits ce.first (fieldLe s.updProg 6 1) = some us ∧ (let due := s.cluAt ce.start + s.cycleTicks (updCycles (fieldLe s.updProg 6 1) (uGroup s.updProg ce.tensor) ce.slice); s.groupExtent (uGroup s.updProg ce.tensor).group ≠ 0 ∧ s.overdueUnit us due = some 0x1000)) :=
  ⟨⟨run [], 0, by decide +kernel⟩,
   ⟨1, sharded (segState [0, 1, 2] []), cluEntry sch0 1, [0], by decide +kernel⟩,
   ⟨1, segState [0, 1, 2] [], cluEntry sch0 1, [0], by decide +kernel⟩,
   ⟨1, sharded (segState [] [(0, 10), (1, 20)]), cluEntry sch0 1, [0], by decide +kernel⟩,
   ⟨1, segState [] [(0, 10), (1, 20)], cluEntry sch0 1, [0], by decide +kernel⟩,
   ⟨1, sharded ({ segState [] [(0, 10), (1, 20)] with row := 100000 }), cluEntry sch0 1, [0], by decide +kernel⟩⟩

theorem wit_MapCommandsAndMigration :
    (∃ (v : BitVec 64) (i : Instr) (op : Nat) (s : State), s.reach .host = true ∧ s.rf R.TIER_MAP_STATUS_BUSY ≠ 1 ∧ ((i = .tierMap .host v ∧ op = 1) ∨ (i = .tierUnmap .host v ∧ op = 2) ∨ (i = .tierReclass .host v ∧ op = 3)) ∧ (let u := s.regWrite 0x300020 (Wr.full .host (mapWord v op)); let page := s.rf R.TIER_MAP_OA_PAGE; let n := bitsOf v.toNat 32 32; let cls := bitsOf v.toNat 28 4; let cache := bitsOf v.toNat 1 1 == 1; let st := u.mapRefusal op page n cls (bitsOf v.toNat 16 6) cache; st ≠ stOK)) ∧
    (∃ (v : BitVec 64) (i : Instr) (op : Nat) (s : State), s.reach .host = true ∧ s.rf R.TIER_MAP_STATUS_BUSY ≠ 1 ∧ ((i = .tierMap .host v ∧ op = 1) ∨ (i = .tierUnmap .host v ∧ op = 2) ∨ (i = .tierReclass .host v ∧ op = 3)) ∧ (let u := s.regWrite 0x300020 (Wr.full .host (mapWord v op)); let page := s.rf R.TIER_MAP_OA_PAGE; let n := bitsOf v.toNat 32 32; let cls := bitsOf v.toNat 28 4; let cache := bitsOf v.toNat 1 1 == 1; let st := u.mapRefusal op page n cls (bitsOf v.toNat 16 6) cache; st = stOK ∧ n = 0)) ∧
    (∃ (v : BitVec 64) (i : Instr) (op : Nat) (s : State), s.reach .host = true ∧ s.rf R.TIER_MAP_STATUS_BUSY ≠ 1 ∧ ((i = .tierMap .host v ∧ op = 1) ∨ (i = .tierUnmap .host v ∧ op = 2) ∨ (i = .tierReclass .host v ∧ op = 3)) ∧ (let u := s.regWrite 0x300020 (Wr.full .host (mapWord v op)); let page := s.rf R.TIER_MAP_OA_PAGE; let n := bitsOf v.toNat 32 32; let cls := bitsOf v.toNat 28 4; let cache := bitsOf v.toNat 1 1 == 1; let st := u.mapRefusal op page n cls (bitsOf v.toNat 16 6) cache; st = stOK ∧ n ≠ 0)) ∧
    (∃ (n : Nat) (s : State), s.tier.cmd = some n) ∧
    (∃ (s : State), 2 ≤ s.rf R.PWR_STATE_STATE ∧ (s.tier.passDue = true ∨ s.stopped = true)) ∧
    (∃ (s : State), 2 ≤ s.rf R.PWR_STATE_STATE ∧ (s.tier.passDue = true ∨ s.stopped = true)) ∧
    (∃ (ok : Bool) (s : State) (m : Mig) (c : List (Nat × Nat) × Nat) (e : Ent), s.migNext = some m ∧ s.migClaim m = some c ∧ s.entOf m.page = some e ∧ ok = false) ∧
    (∃ (ok : Bool) (s : State) (m : Mig) (c : List (Nat × Nat) × Nat) (e : Ent), s.migNext = some m ∧ s.migClaim m = some c ∧ s.entOf m.page = some e ∧ ok = true) :=
  ⟨⟨0x100000000#64, .tierMap .host 0x100000000#64, 1, up [], by decide +kernel⟩,
   ⟨0#64, .tierReclass .host 0#64, 3, up [], by decide +kernel⟩,
   ⟨0x100000000#64, .tierUnmap .host 0x100000000#64, 2, mapped [], by decide +kernel⟩,
   ⟨1, { up [] with tier := { TierSt.reset with cmd := some 1 } }, by decide +kernel⟩,
   ⟨up [], by decide +kernel⟩,
   ⟨{ run [] with tier := { TierSt.reset with passDue := true } }, by decide +kernel⟩,
   ⟨false, { mapped [] with tier := { TierSt.reset with migTo := [⟨1, 0, 2, 0⟩] } }, ⟨1, 0, 2, 0⟩, ([], 0), ⟨1, 3, false, 1⟩, by decide +kernel⟩,
   ⟨true, { mapped [] with tier := { TierSt.reset with migTo := [⟨1, 0, 2, 0⟩] } }, ⟨1, 0, 2, 0⟩, ([], 0), ⟨1, 3, false, 1⟩, by decide +kernel⟩⟩

theorem wit_LookupsAndBias :
    (∃ (v : BitVec 64) (s : State), s.reach .host = true ∧ (let page := bitsOf v.toNat 21 31; s.entOf page = none)) ∧
    (∃ (v : BitVec 64) (s : State) (e : Ent), s.reach .host = true ∧ (let page := bitsOf v.toNat 21 31; s.entOf page = some e ∧ s.selPage page false = page)) ∧
    (∃ (s : State), 2 ≤ s.rf R.PWR_STATE_STATE) ∧
    (∃ (v : BitVec 64) (i : Instr) (up : Bool) (s : State) (e : Ent), s.reach .host = true ∧ s.rf R.TIER_BIAS_CMD_BUSY ≠ 1 ∧ ((i = .biasToHost .host v ∧ up = true) ∨ (i = .biasToDevice .host v ∧ up = false)) ∧ (let page := bitsOf v.toNat 21 31; s.entOf page = some e ∧ e.cache = true ∧ s.pageOwner page = 1)) ∧
    (∃ (v : BitVec 64) (i : Instr) (up : Bool) (s : State) (e : Ent), s.reach .host = true ∧ s.rf R.TIER_BIAS_CMD_BUSY ≠ 1 ∧ ((i = .biasToHost .host v ∧ up = true) ∨ (i = .biasToDevice .host v ∧ up = false)) ∧ (let page := bitsOf v.toNat 21 31; s.entOf page = some e ∧ e.cache = true ∧ s.pageOwner page ≠ 1)) ∧
    (∃ (v : BitVec 64) (i : Instr) (up : Bool) (s : State), s.reach .host = true ∧ s.rf R.TIER_BIAS_CMD_BUSY ≠ 1 ∧ ((i = .biasToHost .host v ∧ up = true) ∨ (i = .biasToDevice .host v ∧ up = false)) ∧ (let page := bitsOf v.toNat 21 31; (∀ e, s.entOf page = some e → e.cache = false))) ∧
    (∃ (page : Nat) (up : Bool) (s : State) (e : Ent), s.tier.biasCmd = some (page, up) ∧ (up = true → s.hostBlockAt page = false) ∧ (up = false → (s.tier.waitLine.any fun l => l / 32768 == page) = false) ∧ s.entOf page = some e ∧ s.rf R.TIER_STATUS_MODE = 1 ∧ e.page < 253952) ∧
    (∃ (page : Nat) (up : Bool) (s : State) (e : Ent), s.tier.biasCmd = some (page, up) ∧ (up = true → s.hostBlockAt page = false) ∧ (up = false → (s.tier.waitLine.any fun l => l / 32768 == page) = false) ∧ s.entOf page = some e ∧ s.rf R.TIER_STATUS_MODE = 1 ∧ e.page < 253952) ∧
    (∃ (l : BitVec 64) (s : State), s.tier.waitLine.contains l.toNat = true) ∧
    (∃ (l : BitVec 64) (s : State), s.tier.waitLine.contains l.toNat = true ∧ (∀ n ∈ s.usedCtx, s.sst n ≠ ssSTOPPING)) :=
  ⟨⟨0x200000#64, up [], by decide +kernel⟩,
   ⟨0x200000#64, mapped [], ⟨1, 3, false, 1⟩, by decide +kernel⟩,
   ⟨up [], by decide +kernel⟩,
   ⟨0x200000#64, .biasToHost .host 0x200000#64, true, mapped [(R.TIER_DIR_HOSTCACHE 0, 1)], ⟨1, 3, true, 1⟩, by decide +kernel⟩,
   ⟨0x200000#64, .biasToDevice .host 0x200000#64, false, owned 3 (mapped [(R.TIER_DIR_HOSTCACHE 0, 1)]), ⟨1, 3, true, 1⟩, by decide +kernel⟩,
   ⟨0x200000#64, .biasToHost .host 0x200000#64, true, up [], by decide +kernel, by decide +kernel, by decide +kernel, fun e h => absurd ((show (up []).entOf 1 = none by decide +kernel).symm.trans h) (by simp)⟩,
   ⟨1, true, { mapped [(R.TIER_STATUS_MODE, 1)] with tier := { TierSt.reset with biasCmd := some (1, true) } }, ⟨1, 3, false, 1⟩, by decide +kernel⟩,
   ⟨1, false, { mapped [(R.TIER_STATUS_MODE, 1)] with tier := { TierSt.reset with biasCmd := some (1, false) } }, ⟨1, 3, false, 1⟩, by decide +kernel⟩,
   ⟨5#64, { up [] with tier := { TierSt.reset with waitLine := [5] } }, by decide +kernel⟩,
   ⟨5#64, { up [] with tier := { TierSt.reset with waitLine := [5] } }, by decide +kernel⟩⟩

theorem wit_Lending :
    (∃ (e : Fin 32) (v : BitVec 64) (s : State), s.reach .host = true ∧ (let u := s.regWrite (0x302000 + 16 * e.val + 8) (Wr.full .host v.toNat); (u.rf (R.TIER_LEND_B_VALID e.val) = 1 ∧ u.lendBad e.val = true))) ∧
    (∃ (e : Fin 32) (v : BitVec 64) (s : State), s.reach .host = true ∧ (let u := s.regWrite (0x302000 + 16 * e.val + 8) (Wr.full .host v.toNat); ¬(u.rf (R.TIER_LEND_B_VALID e.val) = 1 ∧ u.lendBad e.val = true))) ∧
    (∃ (e : Fin 32) (v : BitVec 64) (s : State), s.reach .host = true ∧ (¬(s.rf (R.TIER_LEND_B_VALID e.val) = 1 ∧ (s.regWrite (0x302000 + 16 * e.val + 0) (Wr.full .host v.toNat)).lendBad e.val = true))) ∧
    (∃ (w : Bool) (p : Bool) (tr : Bool) (s : State), s.linkUp = true ∧ (w = true → p = false) ∧ tr = true) ∧
    (∃ (w : Bool) (p : Bool) (a : BitVec 64) (n : Nat) (data : List Byte) (s : State), s.linkUp = true ∧ (w = true → p = false) ∧ (let len := if w then data.length else n; 2 ^ 42 < a.toNat + len)) ∧
    (∃ (w : Bool) (p : Bool) (tr : Bool) (a : BitVec 64) (n : Nat) (data : List Byte) (s : State), s.linkUp = true ∧ (w = true → p = false) ∧ (let len := if w then data.length else n; let r : PeerReq := ⟨if w then 1 else 0, a.toNat, len, if w then data else [], p, 0, 0, 0, none⟩; tr = false ∧ a.toNat + len ≤ 2 ^ 42 ∧ 0 < len ∧ s.tier.peers = [] ∧ s.stopped = false ∧ (s.slotTime = false ∨ s.slots.claim s.tier.used s.planTick (s.peerLoad r) = none))) ∧
    (∃ (w : Bool) (p : Bool) (tr : Bool) (a : BitVec 64) (n : Nat) (data : List Byte) (s : State) (sp : Nat × Nat × Nat), s.linkUp = true ∧ (w = true → p = false) ∧ (let len := if w then data.length else n; tr = false ∧ s.tier.peers = [] ∧ s.stopped = true ∧ a.toNat + len ≤ 2 ^ 42 ∧ 0 < len ∧ pageSpans a.toNat len = [sp] ∧ s.lendPage w sp.1 = none ∧ w = false)) ∧
    (∃ (w : Bool) (p : Bool) (tr : Bool) (a : BitVec 64) (n : Nat) (data : List Byte) (s : State) (sp : Nat × Nat × Nat) (pg : Nat) (own : Nat) (x : Ent), s.linkUp = true ∧ (w = true → p = false) ∧ (let len := if w then data.length else n; tr = false ∧ s.tier.peers = [] ∧ s.stopped = true ∧ a.toNat + len ≤ 2 ^ 42 ∧ 0 < len ∧ pageSpans a.toNat len = [sp] ∧ s.lendPage w sp.1 = some (pg, own) ∧ w = false ∧ s.pageFor .peer pg false = .ok x)) ∧
    (∃ (w : Bool) (p : Bool) (tr : Bool) (a : BitVec 64) (n : Nat) (data : List Byte) (s : State) (sp : Nat × Nat × Nat) (pg : Nat) (own : Nat) (x : Ent), s.linkUp = true ∧ (w = true → p = false) ∧ (let len := if w then data.length else n; tr = false ∧ s.tier.peers = [] ∧ s.stopped = true ∧ a.toNat + len ≤ 2 ^ 42 ∧ 0 < len ∧ pageSpans a.toNat len = [sp] ∧ s.lendPage w sp.1 = some (pg, own) ∧ w = true ∧ s.pageFor .peer pg (s.redirects pg) = .ok x ∧ s.pairClosed pg = false)) ∧
    (∃ (w : Bool) (p : Bool) (tr : Bool) (a : BitVec 64) (n : Nat) (data : List Byte) (s : State) (c : List (Nat × Nat) × Nat), s.linkUp = true ∧ (w = true → p = false) ∧ (let len := if w then data.length else n; let r : PeerReq := ⟨if w then 1 else 0, a.toNat, len, if w then data else [], p, 0, 0, 0, none⟩; tr = false ∧ a.toNat + len ≤ 2 ^ 42 ∧ 0 < len ∧ s.tier.peers = [] ∧ s.stopped = false ∧ s.slotTime = true ∧ s.slots.claim s.tier.used s.planTick (s.peerLoad r) = some c ∧ (s.planTick / 32 + 1) * 32 ≤ c.2)) :=
  ⟨⟨31, 0x3FFFFE00001#64, up [(R.TIER_LEND_A_PAGES 31, 2)], by decide +kernel⟩,
   ⟨31, 0x3FFFFE00001#64, up [(R.TIER_LEND_A_PAGES 31, 1)], by decide +kernel⟩,
   ⟨0, 1#64, up [(R.TIER_LEND_B_VALID 0, 1)], by decide +kernel⟩,
   ⟨false, false, true, up [], by decide +kernel⟩,
   ⟨false, false, 0x40000000000#64, 1, [], up [], by decide +kernel⟩,
   ⟨false, false, false, 0x3FFFFFFFFFF#64, 1, [], run [], by decide +kernel⟩,
   ⟨false, false, false, 0x3FFFFFFFFFF#64, 1, [], up [], (2097151, 2097151, 1), by decide +kernel⟩,
   ⟨false, false, false, 0#64, 4, [], mapped [(R.TIER_LEND_A_OA 0, 1), (R.TIER_LEND_A_PAGES 0, 1), (R.TIER_LEND_B_VALID 0, 1), (R.TIER_LEND_B_WRITE 0, 1)], (0, 0, 4), 1, 1, ⟨1, 3, false, 1⟩, by decide +kernel⟩,
   ⟨true, false, false, 0#64, 0, [1], mapped [(R.TIER_LEND_A_OA 0, 1), (R.TIER_LEND_A_PAGES 0, 1), (R.TIER_LEND_B_VALID 0, 1), (R.TIER_LEND_B_WRITE 0, 1)], (0, 0, 1), 1, 1, ⟨1, 3, false, 1⟩, by decide +kernel⟩,
   ⟨false, false, false, 0x3FFFFFFFFFF#64, 1, [], peerState, peerClaim.get (by decide +kernel), by decide +kernel⟩⟩

theorem wit_FlashReadsAndFailures :
    (∃ (u : Nat) (p : Nat) (s : State), s.unitMapped u = true ∧ s.livePlace u = some p) ∧
    (∃ (u : Nat) (k : Nat) (s : State), s.unitMapped u = true ∧ 0 < k ∧ k ≤ fieldLe s.pwr.profile 0x25 1) ∧
    (∃ (u : Nat) (k : Nat) (s : State), s.unitMapped u = true ∧ 0 < k ∧ fieldLe s.pwr.profile 0x25 1 < k) ∧
    (∃ (b : Nat) (s : State), s.flashUp = true ∧ s.blkRegion b ≠ 2 ∧ s.ftl.bad.contains b = false) ∧
    (∃ (b : Nat) (s : State), s.flashUp = true ∧ s.blkRegion b ≠ 2 ∧ s.ftl.bad.contains b = false) ∧
    (∃ (u : Nat) (p : Nat) (s : State) (l : List AheadRead), s.unitMapped u = true ∧ s.livePlace u = some p ∧ s.readAhead u = some l) ∧
    (∃ (u : Nat) (p : Nat) (s : State), s.unitMapped u = true ∧ s.livePlace u = some p ∧ s.readAhead u = none) ∧
    (∃ (c : Fin 32) (l : Fin 32) (answers : Bool) (s : State), s.flashUp = true ∧ l.val < s.rf R.FTL_GEOMETRY_LUNS ∧ s.ftl.lunOut.contains (c.val * 32 + l.val) = false ∧ ends (exec (.lunRetire c l answers) s) (fun t => decide (answers = true ∧ t.chFailed c.val = false)) = true) ∧
    (∃ (c : Fin 32) (l : Fin 32) (s : State), s.flashUp = true ∧ l.val < s.rf R.FTL_GEOMETRY_LUNS ∧ s.ftl.lunOut.contains (c.val * 32 + l.val) = false) :=
  ⟨⟨0, 0, flash [], by decide +kernel⟩,
   ⟨0, 3, flash [], by decide +kernel⟩,
   ⟨0, 4, flash [], by decide +kernel⟩,
   ⟨0, flash [], by decide +kernel⟩,
   ⟨1, flash [], by decide +kernel⟩,
   ⟨0, 0, flash [], [], by decide +kernel⟩,
   ⟨0, 0, flashBusy, by decide +kernel⟩,
   ⟨31, 3, true, flash [(R.FTL_GEOMETRY_LUNS, 16)], by decide +kernel⟩,
   ⟨31, 3, flash [(R.FTL_GEOMETRY_LUNS, 16)], by decide +kernel⟩⟩

theorem wit_FlashCommits :
    (∃ (s : State), s.rf R.FTL_STATUS_STATE = 3 ∧ s.ftl.hostPend = []) ∧
    (∃ (s : State), s.flashUp = true ∧ s.ftl.record = true ∧ (∀ p, s.storePlace = some p → s.bgTime (blkLun (p / 4096)) = true) ∧ s.ftl.commits < 256) ∧
    (∃ (s : State), s.flashUp = true ∧ s.ftl.record = true ∧ (∀ p, s.storePlace = some p → s.bgTime (blkLun (p / 4096)) = true) ∧ 256 ≤ s.ftl.commits) ∧
    (∃ (s : State), s.ftl.record = false) :=
  ⟨⟨up [(R.FTL_STATUS_STATE, 3)], by decide +kernel⟩,
   ⟨{ flash [] with ftl := { (flash []).ftl with record := true } }, by decide +kernel⟩,
   ⟨{ flash [] with ftl := { (flash []).ftl with record := true, commits := 256 } }, by decide +kernel⟩,
   ⟨flash [], by decide +kernel⟩⟩

theorem wit_AddWrites :
    (∃ (p : Fin 4) (seq : Nat) (a : BitVec 64) (fmt : Nat) (data : List Byte) (s : State) (acc : Nat) (e : Nat), s.portUp p.val = true ∧ (s.port p.val).queue = [] ∧ (s.port p.val).facks = [] ∧ s.overCredit p.val 0 = false ∧ s.dieBound = false ∧ data.length ≤ 4096 ∧ fmt ≤ 1 ∧ seq ≤ 65535 ∧ (s.port p.val).lostAddw + s.heldGranules p.val + ceilDiv data.length 64 ≤ 4096 ∧ data ≠ [] ∧ a.toNat % 2 ^ 52 % 4 = 0 ∧ data.length % (if fmt = 0 then 4 else 2) = 0 ∧ s.accAt (a.toNat % 2 ^ 52) = some (acc, e) ∧ e % 16384 + data.length / (if fmt = 0 then 4 else 2) ≤ (accDesc s.updProg acc).regElems (e / 16384) ∧ seq < (accDesc s.updProg acc).nseq ∧ (let n := s.regCount acc (e / 16384); seq < n)) ∧
    (∃ (p : Fin 4) (seq : Nat) (a : BitVec 64) (fmt : Nat) (data : List Byte) (s : State) (acc : Nat) (e : Nat), s.portUp p.val = true ∧ (s.port p.val).queue = [] ∧ (s.port p.val).facks = [] ∧ s.overCredit p.val 0 = false ∧ s.dieBound = false ∧ data.length ≤ 4096 ∧ fmt ≤ 1 ∧ seq ≤ 65535 ∧ (s.port p.val).lostAddw + s.heldGranules p.val + ceilDiv data.length 64 ≤ 4096 ∧ data ≠ [] ∧ a.toNat % 2 ^ 52 % 4 = 0 ∧ data.length % (if fmt = 0 then 4 else 2) = 0 ∧ s.accAt (a.toNat % 2 ^ 52) = some (acc, e) ∧ e % 16384 + data.length / (if fmt = 0 then 4 else 2) ≤ (accDesc s.updProg acc).regElems (e / 16384) ∧ seq < (accDesc s.updProg acc).nseq ∧ (let n := s.regCount acc (e / 16384); n < seq)) ∧
    (∃ (p : Fin 4) (seq : Nat) (a : BitVec 64) (fmt : Nat) (data : List Byte) (s : State) (acc : Nat) (e : Nat), s.portUp p.val = true ∧ (s.port p.val).queue = [] ∧ (s.port p.val).facks = [] ∧ s.overCredit p.val 0 = false ∧ s.dieBound = false ∧ data.length ≤ 4096 ∧ fmt ≤ 1 ∧ seq ≤ 65535 ∧ (s.port p.val).lostAddw + s.heldGranules p.val + ceilDiv data.length 64 ≤ 4096 ∧ data ≠ [] ∧ a.toNat % 2 ^ 52 % 4 = 0 ∧ data.length % (if fmt = 0 then 4 else 2) = 0 ∧ s.accAt (a.toNat % 2 ^ 52) = some (acc, e) ∧ e % 16384 + data.length / (if fmt = 0 then 4 else 2) ≤ (accDesc s.updProg acc).regElems (e / 16384) ∧ seq < (accDesc s.updProg acc).nseq ∧ (let n := s.regCount acc (e / 16384); n = seq)) ∧
    (∃ (p : Fin 4) (seq : Nat) (bad : List Nat) (a : BitVec 64) (fmt : Nat) (data : List Byte) (s : State), s.portUp p.val = true ∧ (s.port p.val).queue = [] ∧ (s.port p.val).facks = [] ∧ s.overCredit p.val 0 = false ∧ s.dieBound = false ∧ data.length ≤ 4096 ∧ fmt ≤ 1 ∧ seq ≤ 65535 ∧ (s.port p.val).lostAddw + s.heldGranules p.val + ceilDiv data.length 64 ≤ 4096 ∧ data ≠ [] ∧ s.accAt (a.toNat % 2 ^ 52) = none ∧ bad = []) :=
  ⟨⟨0, 0, 0x20003C#64, 0, [0, 0, 128, 63], { run [(R.STEP_STATUS_PHASE, phSETTLE), (R.CDP_STATUS_STATE 0, 3)] with upd := { UpdSt.reset with counts := [(0, 1)] } }, 0, 15, by decide +kernel⟩,
   ⟨0, 1, 0x20003C#64, 0, [0, 0, 128, 63], { run [(R.STEP_STATUS_PHASE, phSETTLE), (R.CDP_STATUS_STATE 0, 3)] with upd := { UpdSt.reset with counts := [] } }, 0, 15, by decide +kernel⟩,
   ⟨0, 0, 0x20003C#64, 0, [0, 0, 128, 63], { run [(R.STEP_STATUS_PHASE, phSETTLE), (R.CDP_STATUS_STATE 0, 3)] with upd := { UpdSt.reset with counts := [] } }, 0, 15, by decide +kernel⟩,
   ⟨0, 65535, [], 0x200040#64, 1, [0, 0], run [(R.STEP_STATUS_PHASE, phSETTLE), (R.CDP_STATUS_STATE 0, 3)], by decide +kernel⟩⟩

theorem wit_DieSync :
    (∃ (p : Fin 4) (line : Nat) (k : Nat) (s : State) (n : Nat), s.ports.length = 4 ∧ s.portUp p.val = true ∧ line < 16384 ∧ 0 < k ∧ k ≤ 65535 ∧ SMap.get (fun _ => 0) (s.port p.val).pace line + k ≤ s.rf (R.CDP_CREDIT_PACE_CREDITS p.val) ∧ (s.inStep = true ∨ s.phase = phSWATCH) ∧ s.phase ≠ phBOUNDARY ∧ s.boundIn s.runSet (p.val * 16384 + line) = some n ∧ (s.sst n = ssARMED ∨ s.sst n = ssRUN ∨ s.sst n = ssWAIT)) ∧
    (∃ (p : Fin 4) (line : Nat) (k : Nat) (s : State), s.ports.length = 4 ∧ s.portUp p.val = true ∧ line < 16384 ∧ 0 < k ∧ k ≤ 65535 ∧ SMap.get (fun _ => 0) (s.port p.val).pace line + k ≤ s.rf (R.CDP_CREDIT_PACE_CREDITS p.val) ∧ (s.inStep = true ∨ s.phase = phSWATCH) ∧ s.phase ≠ phBOUNDARY ∧ s.boundIn s.runSet (p.val * 16384 + line) = none) ∧
    (∃ (p : Fin 4) (id : Nat) (s : State), s.portUp p.val = true ∧ (s.port p.val).queue = [] ∧ (s.port p.val).facks = [] ∧ s.overCredit p.val 0 = false ∧ id < 4096) ∧
    (∃ (p : Fin 4) (tag : Nat) (s : State), s.portUp p.val = true ∧ (s.port p.val).queue = [] ∧ (s.port p.val).facks = [] ∧ s.overCredit p.val 0 = false ∧ tag < 65536 ∧ s.dieBound = false) ∧
    (∃ (p : Fin 4) (line : Nat) (k : Nat) (n : Nat) (s : State), s.ports.length = 4 ∧ s.portUp p.val = true ∧ line < 16384 ∧ 0 < k ∧ k ≤ 65535 ∧ SMap.get (fun _ => 0) (s.port p.val).pace line + k ≤ s.rf (R.CDP_CREDIT_PACE_CREDITS p.val) ∧ s.inStep = false ∧ s.phase ≠ phSWATCH ∧ s.boundIn s.nextSet (p.val * 16384 + line) = some n) ∧
    (∃ (p : Fin 4) (tag : Nat) (st : Nat) (s : State), s.ports.length = 4 ∧ s.portUp p.val = true ∧ (s.port p.val).fences.contains tag = true ∧ s.slotBound tag = false ∧ (st = stOK ∨ (s.str tag).confirm.contains (100 + p.val) = false)) ∧
    (∃ (p : Fin 4) (tag : Nat) (st : Nat) (s : State), s.ports.length = 4 ∧ s.portUp p.val = true ∧ (s.port p.val).fences.contains tag = true ∧ s.slotBound tag = false ∧ (s.str tag).host = false ∧ (st = stOK ∨ (s.str tag).confirm.contains (100 + p.val) = false)) ∧
    (∃ (p : Fin 4) (tag : Nat) (st : Nat) (s : State), s.ports.length = 4 ∧ s.portUp p.val = true ∧ (s.port p.val).fences.contains tag = true ∧ s.slotBound tag = false ∧ st ≠ stOK ∧ (s.str tag).confirm.contains (100 + p.val) = true) :=
  ⟨⟨0, 7, 32, bound [(R.CDP_STATUS_STATE 0, 3), (R.STREAM_RUN_STATE 0, ssARMED)], 0, by decide +kernel⟩,
   ⟨0, 16383, 1, run [(R.CDP_STATUS_STATE 0, 3)], by decide +kernel⟩,
   ⟨0, 4095, up [(R.CDP_STATUS_STATE 0, 3)], by decide +kernel⟩,
   ⟨0, 65535, up [(R.CDP_STATUS_STATE 0, 3)], by decide +kernel⟩,
   ⟨0, 7, 32, 0, bound [(R.STEP_STATUS_PHASE, phBOUNDARY), (R.CDP_STATUS_STATE 0, 3)], by decide +kernel⟩,
   ⟨0, 5, stOK, ({ up [(R.CDP_STATUS_STATE 0, 3)] with ports := List.replicate 4 { PortSt.down with fences := [5] } }).setStr 5 { StreamX.fresh with host := true, confirm := [100] }, by decide +kernel⟩,
   ⟨0, 5, stOK, { up [(R.CDP_STATUS_STATE 0, 3)] with ports := List.replicate 4 { PortSt.down with fences := [5] } }, by decide +kernel⟩,
   ⟨0, 5, stFAR_FAULT, ({ up [(R.CDP_STATUS_STATE 0, 3)] with ports := List.replicate 4 { PortSt.down with fences := [5] } }).setStr 5 { StreamX.fresh with host := true, confirm := [100] }, by decide +kernel⟩⟩

theorem wit_PortBringUp :
    (∃ (p : Fin 4) (h : Nat) (d : Nat) (a : Nat) (s : State), s.ports.length = 4 ∧ s.portUp p.val = true ∧ h ≤ 65535 ∧ d ≤ 65535 ∧ a ≤ 65535) ∧
    (∃ (p : Fin 4) (s : State), s.ports.length = 4 ∧ 2 ≤ s.rf R.PWR_STATE_STATE ∧ s.rf (R.CDP_CTRL_ENABLE p.val) ≠ 0 ∧ (s.port p.val).link = false ∧ (s.port p.val).helloAt.isSome = true) ∧
    (∃ (p : Fin 4) (s : State), s.ports.length = 4 ∧ 2 ≤ s.rf R.PWR_STATE_STATE ∧ s.rf (R.CDP_CTRL_ENABLE p.val) ≠ 0 ∧ (s.port p.val).link = false ∧ (s.port p.val).helloAt = none ∧ (s.port p.val).got = false) ∧
    (∃ (p : Fin 4) (e : Nat) (s : State), s.ports.length = 4 ∧ (s.port p.val).helloAt = some e ∧ (s.port p.val).link = false) ∧
    (∃ (p : Fin 4) (e : Nat) (s : State), s.ports.length = 4 ∧ (s.port p.val).helloAt = some e ∧ (s.port p.val).link = true) ∧
    (∃ (p : Fin 4) (role : Nat) (ed : Nat) (ch : Nat) (cd : Nat) (s : State), s.ports.length = 4 ∧ (s.port p.val).link = true ∧ s.rf (R.CDP_STATUS_STATE p.val) ≠ 3 ∧ s.rf (R.CDP_STATUS_STATE p.val) ≠ 5 ∧ role = 1 ∧ 1 ≤ ed ∧ 64 ≤ ch ∧ 2048 ≤ cd ∧ (s.port p.val).sent = true ∧ s.rf (R.CDP_STATUS_RATE p.val) = 0x40 ∧ 8 ≤ s.rf (R.CDP_STATUS_MODULES p.val)) ∧
    (∃ (p : Fin 4) (role : Nat) (ed : Nat) (ch : Nat) (cd : Nat) (s : State), s.ports.length = 4 ∧ (s.port p.val).link = true ∧ s.rf (R.CDP_STATUS_STATE p.val) ≠ 3 ∧ s.rf (R.CDP_STATUS_STATE p.val) ≠ 5 ∧ role = 1 ∧ 1 ≤ ed ∧ 64 ≤ ch ∧ 2048 ≤ cd ∧ (s.port p.val).sent = false) ∧
    (∃ (p : Fin 4) (role : Nat) (ed : Nat) (ch : Nat) (cd : Nat) (s : State), s.ports.length = 4 ∧ (s.port p.val).link = true ∧ s.rf (R.CDP_STATUS_STATE p.val) ≠ 3 ∧ s.rf (R.CDP_STATUS_STATE p.val) ≠ 5 ∧ (¬(role = 1 ∧ 1 ≤ ed ∧ 64 ≤ ch ∧ 2048 ≤ cd))) ∧
    (∃ (p : Fin 4) (h : Nat) (d : Nat) (a : Nat) (s : State), s.ports.length = 4 ∧ s.portUp p.val = true ∧ h ≤ 65535 ∧ d ≤ 65535 ∧ a ≤ 65535 ∧ (∀ n ∈ s.usedCtx, s.sst n ≠ ssSTOPPING)) :=
  ⟨⟨0, 65535, 65535, 0, up [(R.CDP_STATUS_STATE 0, 3)], by decide +kernel⟩,
   ⟨3, { up [] with ports := List.replicate 4 { PortSt.down with helloAt := some 2048 } }, by decide +kernel⟩,
   ⟨3, up [], by decide +kernel⟩,
   ⟨3, 2048, { up [] with ports := List.replicate 4 { PortSt.down with helloAt := some 2048 } }, by decide +kernel⟩,
   ⟨3, 2048, { up [] with ports := List.replicate 4 { PortSt.down with helloAt := some 2048, link := true } }, by decide +kernel⟩,
   ⟨0, 1, 1, 64, 2048, { up [(R.CDP_STATUS_STATE 0, 2), (R.CDP_STATUS_RATE 0, 0x40), (R.CDP_STATUS_MODULES 0, 8)] with ports := List.replicate 4 { PortSt.down with link := true, sent := true } }, by decide +kernel⟩,
   ⟨0, 1, 1, 64, 2048, { up [(R.CDP_STATUS_STATE 0, 2), (R.CDP_STATUS_RATE 0, 0x40), (R.CDP_STATUS_MODULES 0, 8)] with ports := List.replicate 4 { PortSt.down with link := true } }, by decide +kernel⟩,
   ⟨0, 1, 1, 63, 2048, { up [(R.CDP_STATUS_STATE 0, 2), (R.CDP_STATUS_RATE 0, 0x40), (R.CDP_STATUS_MODULES 0, 8)] with ports := List.replicate 4 { PortSt.down with link := true } }, by decide +kernel⟩,
   ⟨0, 65535, 65535, 65535, up [(R.CDP_STATUS_STATE 0, 3)], by decide +kernel⟩⟩

theorem wit_PortResets :
    (∃ (p : Fin 4) (s : State), s.ports.length = 4 ∧ (s.port p.val).link = true) ∧
    (∃ (p : Fin 4) (s : State), s.ports.length = 4 ∧ (s.port p.val).link = true ∧ s.rf (R.CDP_STATUS_STATE p.val) ≠ 5) ∧
    (∃ (p : Fin 4) (v : BitVec 64) (s : State), s.ports.length = 4 ∧ s.reach .host = true ∧ 2 ≤ s.rf R.PWR_STATE_STATE ∧ s.rf (R.CDP_CTRL_ENABLE p.val) = 1 ∧ v.getLsbD 0 = true) ∧
    (∃ (p : Fin 4) (v : BitVec 64) (s : State), s.ports.length = 4 ∧ s.reach .host = true ∧ 2 ≤ s.rf R.PWR_STATE_STATE ∧ s.rf (R.CDP_CTRL_ENABLE p.val) = 0 ∧ v.getLsbD 0 = true) ∧
    (∃ (p : Fin 4) (v : BitVec 64) (s : State), s.ports.length = 4 ∧ s.reach .host = true ∧ 2 ≤ s.rf R.PWR_STATE_STATE ∧ s.rf (R.CDP_CTRL_ENABLE p.val) = 1 ∧ v.getLsbD 0 = false) :=
  ⟨⟨0, { up [(R.CDP_STATUS_STATE 0, 3)] with ports := List.replicate 4 { PortSt.down with link := true } }, by decide +kernel⟩,
   ⟨0, { up [(R.CDP_STATUS_STATE 0, 3)] with ports := List.replicate 4 { PortSt.down with link := true } }, by decide +kernel⟩,
   ⟨0, 1#64, up [(R.CDP_CTRL_ENABLE 0, 1)], by decide +kernel⟩,
   ⟨0, 1#64, up [(R.CDP_CTRL_ENABLE 0, 0)], by decide +kernel⟩,
   ⟨0, 0#64, up [], by decide +kernel⟩⟩

theorem wit_Modules :
    (∃ (p : Fin 4) (k : Fin 9) (s : State), s.pwr.off = false ∧ 2 ≤ s.rf R.PWR_STATE_STATE ∧ s.serves (0x5000 + 9 * p.val + k.val) = true ∧ (s.spareFor (0x5000 + 9 * p.val + k.val)).isSome = true ∧ s.portUp p.val = true) ∧
    (∃ (p : Fin 4) (k : Fin 9) (s : State), s.pwr.off = false ∧ 2 ≤ s.rf R.PWR_STATE_STATE ∧ s.serves (0x5000 + 9 * p.val + k.val) = true ∧ (s.spareFor (0x5000 + 9 * p.val + k.val)).isSome = false) ∧
    (∃ (p : Fin 4) (s : State), s.ports.length = 4 ∧ s.rf (R.CDP_STATUS_STATE p.val) = 5 ∧ (∀ n ∈ s.usedCtx, s.sst n ≠ ssSTOPPING) ∧ (s.port p.val).queue = [] ∧ (s.port p.val).facks = []) ∧
    (∃ (p : Fin 4) (s : State), s.ports.length = 4 ∧ s.rf (R.CDP_STATUS_STATE p.val) ≠ 5 ∧ (s.port p.val).retrain = true ∧ (s.port p.val).helloAt.isSome = true) ∧
    (∃ (p : Fin 4) (s : State), s.ports.length = 4 ∧ s.rf (R.CDP_STATUS_STATE p.val) ≠ 5 ∧ (s.port p.val).retrain = true ∧ (s.port p.val).helloAt = none) :=
  ⟨⟨0, 0, up [(unitStateF 0x5000, usSERVICE), (unitStateF 0x5008, usSPARE), (R.CDP_STATUS_STATE 0, 3)], by decide +kernel⟩,
   ⟨3, 8, up [(unitStateF 0x5023, usSERVICE)], by decide +kernel⟩,
   ⟨3, up [(R.CDP_STATUS_STATE 3, 5)], by decide +kernel⟩,
   ⟨3, { up [(R.CDP_STATUS_STATE 3, 1)] with ports := List.replicate 4 { PortSt.down with retrain := true, helloAt := some 2048 } }, by decide +kernel⟩,
   ⟨3, { up [(R.CDP_STATUS_STATE 3, 1)] with ports := List.replicate 4 { PortSt.down with retrain := true } }, by decide +kernel⟩⟩

theorem wit_QueueControl :
    (∃ (q : Fin 64) (v : BitVec 64) (s : State), s.reach .host = true ∧ s.queueOwner q.val = 1 ∧ (let tail := bitsOf v.toNat 0 16; s.sqSize q.val ≤ tail)) ∧
    (∃ (q : Fin 64) (v : BitVec 64) (s : State), s.reach .host = true ∧ s.queueOwner q.val = 1 ∧ (let tail := bitsOf v.toNat 0 16; let i := s.host.fetched.getD q.val 0; tail < s.sqSize q.val ∧ (s.rf (R.HQ_Q_CTRL_ENABLE q.val) = 0 ∨ s.rf R.HQ_LINK_BME = 0 ∨ i = tail))) ∧
    (∃ (q : Fin 64) (v : BitVec 64) (s : State), s.reach .host = true ∧ s.queueOwner q.val = 1 ∧ (let tail := bitsOf v.toNat 0 16; let i := s.host.fetched.getD q.val 0; tail < s.sqSize q.val ∧ s.rf (R.HQ_Q_CTRL_ENABLE q.val) = 1 ∧ s.rf R.HQ_LINK_BME = 1 ∧ i ≠ tail ∧ (i + 1) % s.sqSize q.val = tail ∧ s.host.fetched.length = 64)) ∧
    (∃ (q : Fin 64) (s : State), s.reach .host = true ∧ s.queueOwner q.val = 1 ∧ (∀ c ∈ s.host.waiting, c.q ≠ q.val)) ∧
    (∃ (q : Fin 64) (v : BitVec 64) (s : State), s.reach .host = true ∧ s.queueOwner q.val = 1 ∧ s.rf (R.HQ_Q_CTRL_ENABLE q.val) = 0 ∧ (let a := bitsOf v.toNat 12 4; let b := bitsOf v.toNat 8 4; (1 ≤ a ∧ a ≤ 12 ∧ 1 ≤ b ∧ b ≤ 12))) ∧
    (∃ (q : Fin 64) (v : BitVec 64) (s : State), s.reach .host = true ∧ s.queueOwner q.val = 1 ∧ s.rf (R.HQ_Q_CTRL_ENABLE q.val) = 0 ∧ (let a := bitsOf v.toNat 12 4; let b := bitsOf v.toNat 8 4; ¬(1 ≤ a ∧ a ≤ 12 ∧ 1 ≤ b ∧ b ≤ 12))) ∧
    (∃ (q : Fin 64) (v : BitVec 64) (s : State), s.reach .host = true ∧ s.queueOwner q.val = 1 ∧ s.rf (R.HQ_Q_CTRL_ENABLE q.val) = 1 ∧ bitsOf v.toNat 12 4 = s.rf (R.HQ_Q_CTRL_SQ_LOG2 q.val) ∧ bitsOf v.toNat 8 4 = s.rf (R.HQ_Q_CTRL_CQ_LOG2 q.val) ∧ 1 ≤ s.rf (R.HQ_Q_CTRL_SQ_LOG2 q.val) ∧ s.rf (R.HQ_Q_CTRL_SQ_LOG2 q.val) ≤ 12 ∧ 1 ≤ s.rf (R.HQ_Q_CTRL_CQ_LOG2 q.val) ∧ s.rf (R.HQ_Q_CTRL_CQ_LOG2 q.val) ≤ 12) :=
  ⟨⟨63, 2#64, up [], by decide +kernel⟩,
   ⟨63, 1#64, up [], by decide +kernel⟩,
   ⟨0, 1#64, up [(R.HQ_Q_CTRL_ENABLE 0, 1), (R.HQ_LINK_BME, 1)], by decide +kernel⟩,
   ⟨63, up [], by decide +kernel⟩,
   ⟨63, 0xC101#64, up [], by decide +kernel⟩,
   ⟨63, 0xD101#64, up [], by decide +kernel⟩,
   ⟨63, 0xC100#64, up [(R.HQ_Q_CTRL_ENABLE 63, 1), (R.HQ_Q_CTRL_SQ_LOG2 63, 12)], by decide +kernel⟩⟩

theorem wit_QueueCommands :
    (∃ (q : Fin 64) (e : List Byte) (s : State) (i : Instr) (st : Nat), s.linkUp = true ∧ s.nextQueue = some q.val ∧ (∀ c ∈ s.host.taken, c.q ≠ q.val) ∧ (∀ c ∈ s.host.waiting, c.q ≠ q.val) ∧ ((i = .cmdNop q e ∧ fieldLe e 0 1 = 0 ∧ st = (if cmdHeaderOk e && allZero e 0x10 48 then stOK else stBAD_ARG)) ∨ (i = .cmdReserved q e ∧ 5 ≤ fieldLe e 0 1 ∧ st = stBAD_ARG) ∨ (i = .cmdFence q e ∧ fieldLe e 0 1 = 4 ∧ st = (if cmdHeaderOk e && allZero e 0x10 48 then stOK else stBAD_ARG)))) ∧
    (∃ (q : Fin 64) (e : List Byte) (s : State) (i : Instr) (st : Nat), s.linkUp = true ∧ s.nextQueue = some q.val ∧ (∀ c ∈ s.host.taken, c.q ≠ q.val) ∧ (∀ c ∈ s.host.waiting, c.q ≠ q.val) ∧ ((i = .cmdNop q e ∧ fieldLe e 0 1 = 0 ∧ st = (if cmdHeaderOk e && allZero e 0x10 48 then stOK else stBAD_ARG)) ∨ (i = .cmdReserved q e ∧ 5 ≤ fieldLe e 0 1 ∧ st = stBAD_ARG) ∨ (i = .cmdFence q e ∧ fieldLe e 0 1 = 4 ∧ st = (if cmdHeaderOk e && allZero e 0x10 48 then stOK else stBAD_ARG)))) ∧
    (∃ (q : Fin 64) (e : List Byte) (s : State) (i : Instr) (st : Nat), s.linkUp = true ∧ s.nextQueue = some q.val ∧ (∀ c ∈ s.host.taken, c.q ≠ q.val) ∧ (∀ c ∈ s.host.waiting, c.q ≠ q.val) ∧ ((i = .cmdNop q e ∧ fieldLe e 0 1 = 0 ∧ st = (if cmdHeaderOk e && allZero e 0x10 48 then stOK else stBAD_ARG)) ∨ (i = .cmdReserved q e ∧ 5 ≤ fieldLe e 0 1 ∧ st = stBAD_ARG) ∨ (i = .cmdFence q e ∧ fieldLe e 0 1 = 4 ∧ st = (if cmdHeaderOk e && allZero e 0x10 48 then stOK else stBAD_ARG)))) ∧
    (∃ (q : Fin 64) (e : List Byte) (s : State), s.linkUp = true ∧ s.nextQueue = some q.val ∧ (∀ c ∈ s.host.taken, c.q ≠ q.val) ∧ (∀ c ∈ s.host.waiting, c.q ≠ q.val) ∧ fieldLe e 0 1 = 3 ∧ (cmdHeaderOk e && fieldLe e 0x10 8 / 2 ^ 52 == 0 && allZero e 0x18 40) = true) ∧
    (∃ (q : Fin 64) (e : List Byte) (s : State), s.linkUp = true ∧ s.nextQueue = some q.val ∧ (∀ c ∈ s.host.taken, c.q ≠ q.val) ∧ (∀ c ∈ s.host.waiting, c.q ≠ q.val) ∧ fieldLe e 0 1 = 3 ∧ (cmdHeaderOk e && fieldLe e 0x10 8 / 2 ^ 52 == 0 && allZero e 0x18 40) = false) :=
  ⟨⟨0, List.replicate 256 0, queueUp [], .cmdNop 0 (List.replicate 256 0), stOK, by decide +kernel⟩,
   ⟨0, mk 256 [(0, 1, 5)], queueUp [], .cmdReserved 0 (mk 256 [(0, 1, 5)]), stBAD_ARG, by decide +kernel⟩,
   ⟨0, mk 256 [(0, 1, 4)], queueUp [], .cmdFence 0 (mk 256 [(0, 1, 4)]), stOK, by decide +kernel⟩,
   ⟨0, mk 256 [(0, 1, 3), (8, 1, 4)], queueUp [], by decide +kernel⟩,
   ⟨0, mk 256 [(0, 1, 3), (8, 1, 193)], queueUp [], by decide +kernel⟩⟩

theorem wit_HostStreams :
    (∃ (q : Fin 64) (e : List Byte) (s : State), s.linkUp = true ∧ s.nextQueue = some q.val ∧ (∀ c ∈ s.host.taken, c.q ≠ q.val) ∧ (∀ c ∈ s.host.waiting, c.q ≠ q.val) ∧ fieldLe e 0 1 = 2 ∧ cmdHeaderOk e = true ∧ allZero e 0x10 48 = true ∧ s.ctxOwner (fieldLe e 4 2) = 1 ∧ (let n := fieldLe e 4 2; (s.str n).host = true ∧ (s.sst n = ssRUN ∨ s.sst n = ssWAIT) ∧ s.sealing n = false)) ∧
    (∃ (q : Fin 64) (e : List Byte) (s : State), s.linkUp = true ∧ s.nextQueue = some q.val ∧ (∀ c ∈ s.host.taken, c.q ≠ q.val) ∧ (∀ c ∈ s.host.waiting, c.q ≠ q.val) ∧ fieldLe e 0 1 = 2 ∧ cmdHeaderOk e = true ∧ allZero e 0x10 48 = true ∧ s.ctxOwner (fieldLe e 4 2) = 1 ∧ (let n := fieldLe e 4 2; (s.str n).host = false)) ∧
    (∃ (q : Fin 64) (e : List Byte) (s : State), s.linkUp = true ∧ s.nextQueue = some q.val ∧ fieldLe e 0 1 = 1 ∧ (let n := fieldLe e 4 2; let next := (s.rf (R.HQ_Q_STATUS_SQ_HEAD q.val) + 1) % s.sqSize q.val; let u : State := { s.set (R.HQ_Q_STATUS_SQ_HEAD q.val) next with host := { s.host with taken := s.host.taken ++ [⟨q.val, 1, fieldLe e 2 2, n, next⟩], turn := q.val + 1 } }; let prog := u.openProg e; let list := u.openList e; u.openStatus e prog list ≠ stOK)) ∧
    (∃ (q : Fin 64) (e : List Byte) (s : State), s.linkUp = true ∧ s.nextQueue = some q.val ∧ fieldLe e 0 1 = 1 ∧ (let n := fieldLe e 4 2; let next := (s.rf (R.HQ_Q_STATUS_SQ_HEAD q.val) + 1) % s.sqSize q.val; let u : State := { s.set (R.HQ_Q_STATUS_SQ_HEAD q.val) next with host := { s.host with taken := s.host.taken ++ [⟨q.val, 1, fieldLe e 2 2, n, next⟩], turn := q.val + 1 } }; let prog := u.openProg e; let list := u.openList e; let b := u.bindHost n e prog list; u.openStatus e prog list = stOK ∧ b.pwr.awake.contains (0x7000 + b.groupOf n) = false)) ∧
    (∃ (q : Fin 64) (e : List Byte) (s : State), s.linkUp = true ∧ s.nextQueue = some q.val ∧ fieldLe e 0 1 = 1 ∧ (let n := fieldLe e 4 2; let next := (s.rf (R.HQ_Q_STATUS_SQ_HEAD q.val) + 1) % s.sqSize q.val; let u : State := { s.set (R.HQ_Q_STATUS_SQ_HEAD q.val) next with host := { s.host with taken := s.host.taken ++ [⟨q.val, 1, fieldLe e 2 2, n, next⟩], turn := q.val + 1 } }; let prog := u.openProg e; let list := u.openList e; let b := u.bindHost n e prog list; u.openStatus e prog list = stOK ∧ b.pwr.awake.contains (0x7000 + b.groupOf n) = true)) ∧
    (∃ (n : Fin 16384) (s : State), (s.str n.val).host = true ∧ s.sst n.val = ssARMED ∧ 2 ≤ s.rf R.PWR_STATE_STATE) :=
  ⟨⟨0, mk 256 [(0, 1, 2)], ownedCtx ((queueUp [(R.STREAM_RUN_STATE 0, ssRUN)]).setStr 0 { StreamX.fresh with host := true, prog := mk 16 [(0, 1, 14)] }), by decide +kernel⟩,
   ⟨0, mk 256 [(0, 1, 2)], ownedCtx (queueUp []), by decide +kernel⟩,
   ⟨0, mk 256 [(0, 1, 1)], ownedCtx (queueUp []), by decide +kernel⟩,
   ⟨0, mk 256 [(0, 1, 1), (1, 1, 1), (6, 2, 0xFFFF), (8, 1, 32), (0x2C, 2, 2), (0x31, 1, 1), (0x34, 2, 1), (0x40, 1, 11), (0x50, 1, 15)], ownedCtx (queueUp []), by decide +kernel⟩,
   ⟨0, mk 256 [(0, 1, 1), (1, 1, 1), (6, 2, 0xFFFF), (8, 1, 32), (0x2C, 2, 2), (0x31, 1, 1), (0x34, 2, 1), (0x40, 1, 11), (0x50, 1, 15)], { ownedCtx (queueUp []) with pwr := { PowerSt.reset with awake := [0x7000] } }, by decide +kernel⟩,
   ⟨0, (up [(R.STREAM_RUN_STATE 0, ssARMED)]).setStr 0 { StreamX.fresh with host := true }, by decide +kernel⟩⟩

theorem wit_HostRequests :
    (∃ (s : State), s.linkUp = true) ∧
    (∃ (w : Bool) (off : Nat) (len : Nat) (data : List Byte) (tr : Bool) (s : State), s.linkUp = true ∧ (let n := if w then data.length else len; (tr = true ∨ 2 ^ 28 < off + n))) ∧
    (∃ (w : Bool) (off : Nat) (len : Nat) (data : List Byte) (tr : Bool) (s : State), s.linkUp = true ∧ (let n := if w then data.length else len; (tr = true ∨ 2 ^ 28 < off + n))) ∧
    (∃ (w : Bool) (off : Nat) (len : Nat) (data : List Byte) (p : Bool) (tr : Bool) (s : State), s.linkUp = true ∧ (let n := if w then data.length else len; let oa := windowOA (s.rf R.HQ_WINDOW_BASE) off; let r : PeerReq := if w then ⟨1, oa, data.length, data, p, 0, 0, 0, none⟩ else ⟨0, oa, len, [], false, 0, 0, 0, none⟩; let c := s.claimHost s.host.reqUsed (s.hostReqLoad r); tr = false ∧ off + n ≤ 2 ^ 28 ∧ s.host.reqs = [] ∧ s.slotTime = true ∧ (s.planTick / 32 + 1) * 32 ≤ c.2)) ∧
    (∃ (w : Bool) (off : Nat) (len : Nat) (data : List Byte) (p : Bool) (tr : Bool) (s : State) (u : State), s.linkUp = true ∧ (let n := if w then data.length else len; let oa := windowOA (s.rf R.HQ_WINDOW_BASE) off; let r : PeerReq := if w then ⟨1, oa, data.length, data, p, 0, 0, 0, none⟩ else ⟨0, oa, len, [], false, 0, 0, 0, none⟩; let c := s.claimHost s.host.reqUsed (s.hostReqLoad r); tr = false ∧ off + n ≤ 2 ^ 28 ∧ s.host.reqs = [] ∧ ((s.slotTime = false ∧ u = s) ∨ (s.slotTime = true ∧ c.2 < (s.planTick / 32 + 1) * 32 ∧ u = s.toTick c.2)) ∧ w = true)) ∧
    (∃ (w : Bool) (off : Nat) (len : Nat) (data : List Byte) (p : Bool) (tr : Bool) (s : State) (u : State), s.linkUp = true ∧ (let n := if w then data.length else len; let oa := windowOA (s.rf R.HQ_WINDOW_BASE) off; let r : PeerReq := if w then ⟨1, oa, data.length, data, p, 0, 0, 0, none⟩ else ⟨0, oa, len, [], false, 0, 0, 0, none⟩; let c := s.claimHost s.host.reqUsed (s.hostReqLoad r); tr = false ∧ off + n ≤ 2 ^ 28 ∧ s.host.reqs = [] ∧ ((s.slotTime = false ∧ u = s) ∨ (s.slotTime = true ∧ c.2 < (s.planTick / 32 + 1) * 32 ∧ u = s.toTick c.2)) ∧ w = false ∧ (u.readOA .hostReq oa len).refused = false)) ∧
    (∃ (w : Bool) (off : Nat) (len : Nat) (data : List Byte) (p : Bool) (tr : Bool) (s : State) (u : State), s.linkUp = true ∧ (let n := if w then data.length else len; let oa := windowOA (s.rf R.HQ_WINDOW_BASE) off; let r : PeerReq := if w then ⟨1, oa, data.length, data, p, 0, 0, 0, none⟩ else ⟨0, oa, len, [], false, 0, 0, 0, none⟩; let c := s.claimHost s.host.reqUsed (s.hostReqLoad r); tr = false ∧ off + n ≤ 2 ^ 28 ∧ s.host.reqs = [] ∧ ((s.slotTime = false ∧ u = s) ∨ (s.slotTime = true ∧ c.2 < (s.planTick / 32 + 1) * 32 ∧ u = s.toTick c.2)) ∧ w = false ∧ (u.readOA .hostReq oa len).refused = true)) ∧
    (∃ (w : Bool) (off : Nat) (len : Nat) (data : List Byte) (p : Bool) (tr : Bool) (s : State) (u : State), s.linkUp = true ∧ (let n := if w then data.length else len; let oa := windowOA (s.rf R.HQ_WINDOW_BASE) off; let r : PeerReq := if w then ⟨1, oa, data.length, data, p, 0, 0, 0, none⟩ else ⟨0, oa, len, [], false, 0, 0, 0, none⟩; let c := s.claimHost s.host.reqUsed (s.hostReqLoad r); tr = false ∧ off + n ≤ 2 ^ 28 ∧ s.host.reqs = [] ∧ ((s.slotTime = false ∧ u = s) ∨ (s.slotTime = true ∧ c.2 < (s.planTick / 32 + 1) * 32 ∧ u = s.toTick c.2)) ∧ w = false ∧ (u.readOA .hostReq oa len).refused = false)) ∧
    (∃ (bar : Nat) (op : Nat) (size : Nat) (tr : Bool) (s : State), s.linkUp = true ∧ (let ok := tr = false ∧ (size = 4 ∨ size = 8) ∧ op ≤ 2 ∧ ¬(op = 2 ∧ size = 4) ∧ (bar = 2 ∨ bar = 4); ¬ok)) ∧
    (∃ (bar : Nat) (op : Nat) (size : Nat) (tr : Bool) (s : State), s.linkUp = true ∧ (let ok := tr = false ∧ (size = 4 ∨ size = 8) ∧ op ≤ 2 ∧ ¬(op = 2 ∧ size = 4) ∧ (bar = 2 ∨ bar = 4); ¬ok)) ∧
    (∃ (bar : Nat) (off : BitVec 64) (op : Nat) (size : Nat) (tr : Bool) (s : State), s.linkUp = true ∧ (let ok := tr = false ∧ (size = 4 ∨ size = 8) ∧ op ≤ 2 ∧ ¬(op = 2 ∧ size = 4) ∧ (bar = 2 ∨ bar = 4); ok ∧ off.toNat % size ≠ 0)) ∧
    (∃ (bar : Nat) (off : BitVec 64) (op : Nat) (size : Nat) (x : BitVec 64) (c : BitVec 64) (tr : Bool) (s : State), s.linkUp = true ∧ (let ok := tr = false ∧ (size = 4 ∨ size = 8) ∧ op ≤ 2 ∧ ¬(op = 2 ∧ size = 4) ∧ (bar = 2 ∨ bar = 4); let oa := windowOA (s.rf R.HQ_WINDOW_BASE) off.toNat; let g := s.readOA .hostReq oa size; let y := g.st.writeOA .hostReq 1 oa (clean (natLe size (atomicNew op size (leNat (g.data.map (·.1))) x.toNat c.toNat))); ok ∧ off.toNat % size = 0 ∧ bar = 2 ∧ off.toNat < 2 ^ 28 ∧ s.slotTime = false ∧ s.host.reqs = [] ∧ g.refused = false ∧ y.refused = false)) ∧
    (∃ (bar : Nat) (off : BitVec 64) (op : Nat) (size : Nat) (tr : Bool) (s : State), s.linkUp = true ∧ (let ok := tr = false ∧ (size = 4 ∨ size = 8) ∧ op ≤ 2 ∧ ¬(op = 2 ∧ size = 4) ∧ (bar = 2 ∨ bar = 4); ok ∧ off.toNat % size = 0 ∧ bar = 4 ∧ off.toNat < 2 ^ 42 ∧ s.stopped = true ∧ s.tier.peers = [] ∧ s.lendPage true (off.toNat / 2 ^ 21) = none)) ∧
    (∃ (a : BitVec 64) (s : State), s.linkUp = true ∧ (let on := s.rf R.HQ_LINK_CXL_MEM ≠ 0 ∧ s.hdmHolds a.toNat = true; ¬on)) ∧
    (∃ (a : BitVec 64) (s : State), s.linkUp = true ∧ (let on := s.rf R.HQ_LINK_CXL_MEM ≠ 0 ∧ s.hdmHolds a.toNat = true; ¬on)) ∧
    (∃ (w : Bool) (a : BitVec 64) (s : State), s.linkUp = true ∧ (let on := s.rf R.HQ_LINK_CXL_MEM ≠ 0 ∧ s.hdmHolds a.toNat = true; on ∧ s.slotTime = false ∧ s.host.reqs = [] ∧ w = true)) ∧
    (∃ (w : Bool) (a : BitVec 64) (s : State), s.linkUp = true ∧ (let on := s.rf R.HQ_LINK_CXL_MEM ≠ 0 ∧ s.hdmHolds a.toNat = true; on ∧ s.slotTime = false ∧ s.host.reqs = [] ∧ w = false)) ∧
    (∃ (w : Bool) (a : BitVec 64) (s : State), s.linkUp = true ∧ (let oa := windowOA (s.rf R.HQ_HDM_BASE) a.toNat; let on := s.rf R.HQ_LINK_CXL_MEM ≠ 0 ∧ s.hdmHolds a.toNat = true; on ∧ s.slotTime = false ∧ s.host.reqs = [] ∧ w = false ∧ (s.readOA .hostReq (64 * (oa / 64)) 64).refused = false)) ∧
    (∃ (w : Bool) (a : BitVec 64) (data : List Byte) (p : Bool) (s : State), s.linkUp = true ∧ (let oa := windowOA (s.rf R.HQ_HDM_BASE) a.toNat; let on := s.rf R.HQ_LINK_CXL_MEM ≠ 0 ∧ s.hdmHolds a.toNat = true; let r : PeerReq := if w then ⟨4, oa, data.length, data, p, 0, 0, 0, none⟩ else ⟨3, oa, 64, [], false, 0, 0, 0, none⟩; let c := s.claimHost s.host.reqUsed (s.hostReqLoad r); on ∧ s.slotTime = true ∧ s.host.reqs = [] ∧ (s.planTick / 32 + 1) * 32 ≤ c.2)) ∧
    (∃ (off : BitVec 64) (op : Nat) (size : Nat) (x : BitVec 64) (c : BitVec 64) (s : State), s.linkUp = true ∧ s.slotTime = true ∧ s.host.reqs = [] ∧ (let r : PeerReq := ⟨2, windowOA (s.rf R.HQ_WINDOW_BASE) off.toNat, size, [], false, op, x.toNat, c.toNat, none⟩; let k := s.claimHost s.host.reqUsed (s.hostReqLoad r); (s.planTick / 32 + 1) * 32 ≤ k.2)) :=
  ⟨⟨up [], by decide +kernel⟩,
   ⟨false, 268435456, 1, [], false, up [], by decide +kernel⟩,
   ⟨false, 0, 1, [], true, up [], by decide +kernel⟩,
   ⟨false, 0, 8, [], false, false, run [], by decide +kernel⟩,
   ⟨true, 268435455, 0, [1], false, false, up [], up [], by decide +kernel, rfl, by decide +kernel, by decide +kernel, Or.inl ⟨by decide +kernel, rfl⟩, rfl⟩,
   ⟨false, 0, 8, [], false, false, mapped [], mapped [], by decide +kernel, rfl, by decide +kernel, by decide +kernel, Or.inl ⟨by decide +kernel, rfl⟩, rfl, by decide +kernel⟩,
   ⟨false, 268435455, 1, [], false, false, up [], up [], by decide +kernel, rfl, by decide +kernel, by decide +kernel, Or.inl ⟨by decide +kernel, rfl⟩, rfl, by decide +kernel⟩,
   ⟨false, 0, 8, [], false, false, hostSlots, (hostSlots.toTick (hostSlots.claimHost hostSlots.host.reqUsed (hostSlots.hostReqLoad ⟨0, 0, 8, [], false, 0, 0, 0, none⟩)).2), by decide +kernel, rfl, by decide +kernel, by decide +kernel, Or.inr ⟨by decide +kernel, by decide +kernel, rfl⟩, rfl, by decide +kernel⟩,
   ⟨2, 2, 4, false, up [], by decide +kernel⟩,
   ⟨2, 0, 8, true, up [], by decide +kernel⟩,
   ⟨4, 4#64, 2, 8, false, up [], by decide +kernel⟩,
   ⟨2, 0#64, 0, 8, 1#64, 0#64, false, mapped [], by decide +kernel⟩,
   ⟨4, 0#64, 0, 8, false, up [], by decide +kernel⟩,
   ⟨0#64, up [], by decide +kernel⟩,
   ⟨64#64, up [(R.HQ_LINK_CXL_MEM, 1), (R.CXL_COMP_VALUE 0x224, 0x200), (R.CXL_COMP_VALUE 0x223, 64)], by decide +kernel⟩,
   ⟨true, 0#64, up [(R.HQ_LINK_CXL_MEM, 1), (R.CXL_COMP_VALUE 0x224, 0x200), (R.CXL_COMP_VALUE 0x223, 64)], by decide +kernel⟩,
   ⟨false, 0#64, up [(R.HQ_LINK_CXL_MEM, 1), (R.CXL_COMP_VALUE 0x224, 0x200), (R.CXL_COMP_VALUE 0x223, 64)], by decide +kernel⟩,
   ⟨false, 0#64, mapped [(R.HQ_LINK_CXL_MEM, 1)], by decide +kernel⟩,
   ⟨false, 0#64, [], false, run [(R.HQ_LINK_CXL_MEM, 1)], by decide +kernel⟩,
   ⟨0#64, 0, 8, 0#64, 0#64, run [], by decide +kernel⟩⟩

theorem wit_FarReads :
    (∃ (n : Fin 16384) (q : Nat) (kind : Nat) (s : State) (b : Block), s.linkUp = true ∧ kind ≤ 3 ∧ (s.str n.val).blocks.find? (fun b => b.seq == q && decide (b.data.length < b.owed) && !b.inHand) = some b ∧ kind = 0) ∧
    (∃ (n : Fin 16384) (q : Nat) (kind : Nat) (s : State) (b : Block), s.linkUp = true ∧ kind ≤ 3 ∧ (s.str n.val).blocks.find? (fun b => b.seq == q && decide (b.data.length < b.owed) && !b.inHand) = some b ∧ kind = 1) ∧
    (∃ (n : Fin 16384) (q : Nat) (kind : Nat) (s : State) (b : Block), s.linkUp = true ∧ kind ≤ 3 ∧ (s.str n.val).blocks.find? (fun b => b.seq == q && decide (b.data.length < b.owed) && !b.inHand) = some b ∧ kind = 2 ∧ 2 ≤ kind) ∧
    (∃ (n : Fin 16384) (q : Nat) (kind : Nat) (s : State) (b : Block), s.linkUp = true ∧ kind ≤ 3 ∧ (s.str n.val).blocks.find? (fun b => b.seq == q && decide (b.data.length < b.owed) && !b.inHand) = some b ∧ kind = 3 ∧ 2 ≤ kind) ∧
    (∃ (v : BitVec 64) (s : State), s.reach .host = true ∧ (let n := bitsOf v.toNat 0 14; ((s.sst n = ssIDLE ∨ s.sst n = ssARMED) ∧ (s.str n).ran = false))) ∧
    (∃ (v : BitVec 64) (s : State), s.reach .host = true ∧ (let n := bitsOf v.toNat 0 14; ¬((s.sst n = ssIDLE ∨ s.sst n = ssARMED) ∧ (s.str n).ran = false))) ∧
    (∃ (v : BitVec 64) (s : State), s.reach .host = true ∧ (let n := bitsOf v.toNat 0 14; ((s.str n).host = true ∨ s.training = false ∨ s.step.reserveOver = true ∨ s.runSet.contains n = false))) ∧
    (∃ (v : BitVec 64) (s : State), s.reach .host = true ∧ (let n := bitsOf v.toNat 0 14; ((s.str n).host = false ∧ s.training = true ∧ s.step.reserveOver = false ∧ s.runSet.contains n = true) ∧ s.rf R.STEP_FLAG_RAISED = 0)) :=
  ⟨⟨0, 0, 0, onMap { StreamX.fresh with host := true, blocks := [{ blk0 with owed := 64 }] } [], { blk0 with owed := 64 }, by decide +kernel⟩,
   ⟨0, 0, 1, onMap { StreamX.fresh with host := true, blocks := [{ blk0 with owed := 64 }] } [], { blk0 with owed := 64 }, by decide +kernel⟩,
   ⟨0, 0, 2, onMap { StreamX.fresh with host := true, blocks := [{ blk0 with owed := 64 }] } [], { blk0 with owed := 64 }, by decide +kernel⟩,
   ⟨0, 0, 3, onMap { StreamX.fresh with host := true, blocks := [{ blk0 with owed := 64 }] } [], { blk0 with owed := 64 }, by decide +kernel⟩,
   ⟨16383#64, up [], by decide +kernel⟩,
   ⟨16383#64, up [(R.STREAM_RUN_STATE 16383, ssRUN)], by decide +kernel⟩,
   ⟨16383#64, up [], by decide +kernel⟩,
   ⟨0#64, bound [], by decide +kernel⟩⟩

theorem wit_LinkStateAndResets :
    (∃ (s : State), s.linkUp = true ∧ (∀ n ∈ s.usedCtx, s.sst n ≠ ssSTOPPING)) ∧
    (∃ (v : Fin 2048) (s : State), s.linkUp = true ∧ s.pba v.val = true ∧ s.rf R.HQ_LINK_MSIX = 1 ∧ s.rf R.HQ_LINK_BME = 1) ∧
    (∃ (v : Fin 2048) (s : State), s.linkUp = true ∧ s.pba v.val = false) ∧
    (∃ (rate : Nat) (width : Nat) (mps : Nat) (s : State), s.pwr.off = false ∧ 2 ≤ s.rf R.PWR_STATE_STATE ∧ s.rf R.HQ_LINK_UP ≠ 1 ∧ [2, 5, 8, 16, 32, 64].contains rate = true ∧ [1, 2, 4, 8, 16].contains width = true ∧ mps ≤ 2) ∧
    (∃ (s : State), s.linkUp = true) ∧
    (∃ (s : State), s.pwr.off = false ∧ 2 ≤ s.rf R.PWR_STATE_STATE) ∧
    (∃ (k : Nat) (s : State), s.linkUp = true ∧ (k ≠ 0 ∨ ∀ n ∈ s.usedCtx, s.sst n ≠ ssSTOPPING) ∧ k = 0) ∧
    (∃ (k : Nat) (s : State), s.linkUp = true ∧ (k ≠ 0 ∨ ∀ n ∈ s.usedCtx, s.sst n ≠ ssSTOPPING) ∧ k = 1) ∧
    (∃ (k : Nat) (s : State), s.linkUp = true ∧ (k ≠ 0 ∨ ∀ n ∈ s.usedCtx, s.sst n ≠ ssSTOPPING) ∧ k = 2) ∧
    (∃ (k : Nat) (s : State), s.linkUp = true ∧ (k ≠ 0 ∨ ∀ n ∈ s.usedCtx, s.sst n ≠ ssSTOPPING) ∧ k = 3) ∧
    (∃ (k : Nat) (s : State), s.linkUp = true ∧ (k ≠ 0 ∨ ∀ n ∈ s.usedCtx, s.sst n ≠ ssSTOPPING) ∧ k = 4) ∧
    (∃ (k : Nat) (v : Nat) (s : State), s.linkUp = true ∧ (k ≠ 0 ∨ ∀ n ∈ s.usedCtx, s.sst n ≠ ssSTOPPING) ∧ k = 11 ∧ v ≤ 2) ∧
    (∃ (k : Nat) (s : State), s.linkUp = true ∧ (k ≠ 0 ∨ ∀ n ∈ s.usedCtx, s.sst n ≠ ssSTOPPING) ∧ k = 12) ∧
    (∃ (k : Nat) (s : State), s.linkUp = true ∧ (k ≠ 0 ∨ ∀ n ∈ s.usedCtx, s.sst n ≠ ssSTOPPING) ∧ 5 ≤ k ∧ k ≤ 10 ∧ s.host.bars.length = 3) ∧
    (∃ (k : Nat) (s : State), s.linkUp = true ∧ (k ≠ 0 ∨ ∀ n ∈ s.usedCtx, s.sst n ≠ ssSTOPPING) ∧ 5 ≤ k ∧ k ≤ 10 ∧ s.host.bars.length = 3) ∧
    (∃ (s : State), s.pwr.off = false ∧ s.linkUp = false) ∧
    (∃ (k : Nat) (s : State), s.linkUp = true ∧ (k ≠ 0 ∨ ∀ n ∈ s.usedCtx, s.sst n ≠ ssSTOPPING) ∧ 5 ≤ k ∧ k ≤ 10 ∧ s.host.bars.length = 3) :=
  ⟨⟨up [], by decide +kernel⟩,
   ⟨2047, (up [(R.HQ_LINK_MSIX, 1), (R.HQ_LINK_BME, 1)]).setPba 2047 true, by decide +kernel⟩,
   ⟨2047, up [], by decide +kernel⟩,
   ⟨64, 16, 2, st [(R.PWR_STATE_STATE, 2)], by decide +kernel⟩,
   ⟨up [], by decide +kernel⟩,
   ⟨up [], by decide +kernel⟩,
   ⟨0, up [], by decide +kernel⟩,
   ⟨1, up [], by decide +kernel⟩,
   ⟨2, up [], by decide +kernel⟩,
   ⟨3, up [], by decide +kernel⟩,
   ⟨4, up [], by decide +kernel⟩,
   ⟨11, 2, up [], by decide +kernel⟩,
   ⟨12, up [], by decide +kernel⟩,
   ⟨5, up [], by decide +kernel⟩,
   ⟨10, up [], by decide +kernel⟩,
   ⟨st [(R.PWR_STATE_STATE, 2)], by decide +kernel⟩,
   ⟨7, up [], by decide +kernel⟩⟩

theorem wit_SyncControl :
    (∃ (v : BitVec 64) (s : State), s.reach .host = true ∧ (let d := bitsOf v.toNat 0 7; let ok := s.phase = phIDLE ∧ s.rf R.CHART_ACTIVE_VALID ≠ 1 ∧ 0 < d ∧ d ≤ 64 ∧ bitsOf v.toNat 16 6 < d ∧ bitsOf v.toNat 32 4 ≠ 0 ∧ bitsOf v.toNat 48 16 ≠ 0; ok ∧ d ≤ 8 ∧ d = 1)) ∧
    (∃ (v : BitVec 64) (s : State), s.reach .host = true ∧ (let d := bitsOf v.toNat 0 7; let ok := s.phase = phIDLE ∧ s.rf R.CHART_ACTIVE_VALID ≠ 1 ∧ 0 < d ∧ d ≤ 64 ∧ bitsOf v.toNat 16 6 < d ∧ bitsOf v.toNat 32 4 ≠ 0 ∧ bitsOf v.toNat 48 16 ≠ 0; ok ∧ d ≠ 1 ∧ s.rf R.SYNC_STATUS_STATE = sySINGLE)) ∧
    (∃ (v : BitVec 64) (s : State), s.reach .host = true ∧ (let d := bitsOf v.toNat 0 7; let ok := s.phase = phIDLE ∧ s.rf R.CHART_ACTIVE_VALID ≠ 1 ∧ 0 < d ∧ d ≤ 64 ∧ bitsOf v.toNat 16 6 < d ∧ bitsOf v.toNat 32 4 ≠ 0 ∧ bitsOf v.toNat 48 16 ≠ 0; ok ∧ d ≠ 1 ∧ s.rf R.SYNC_STATUS_STATE ≠ sySINGLE)) ∧
    (∃ (v : BitVec 64) (s : State), s.reach .host = true ∧ (let d := bitsOf v.toNat 0 7; let ok := s.phase = phIDLE ∧ s.rf R.CHART_ACTIVE_VALID ≠ 1 ∧ 0 < d ∧ d ≤ 64 ∧ bitsOf v.toNat 16 6 < d ∧ bitsOf v.toNat 32 4 ≠ 0 ∧ bitsOf v.toNat 48 16 ≠ 0; ¬ ok)) ∧
    (∃ (v : BitVec 64) (s : State), s.reach .host = true ∧ bitsOf v.toNat 1 2 = 0 ∧ s.stopped = true) ∧
    (∃ (v : BitVec 64) (s : State), s.reach .host = true ∧ bitsOf v.toNat 1 2 = 0 ∧ s.stopped = false) ∧
    (∃ (v : BitVec 64) (s : State), s.reach .host = true ∧ bitsOf v.toNat 0 1 = 0 ∧ bitsOf v.toNat 2 1 = 0 ∧ s.rf R.SYNC_CTRL_LEADER ≤ 1 ∧ bitsOf v.toNat 3 1 = s.rf R.SYNC_CTRL_LEADER ∧ s.rf R.SYNC_CTRL_LEADER = 1 ∧ s.rf R.SYNC_STATUS_RELEASE_ARMED = 1) ∧
    (∃ (v : BitVec 64) (s : State), s.reach .host = true ∧ bitsOf v.toNat 0 1 = 0 ∧ bitsOf v.toNat 2 1 = 0 ∧ s.rf R.SYNC_CTRL_LEADER ≤ 1 ∧ bitsOf v.toNat 3 1 = s.rf R.SYNC_CTRL_LEADER ∧ (s.rf R.SYNC_CTRL_LEADER = 0 ∨ s.rf R.SYNC_STATUS_RELEASE_ARMED ≠ 1)) ∧
    (∃ (v : BitVec 64) (s : State), s.reach .host = true ∧ bitsOf v.toNat 0 3 = 0 ∧ s.rf R.SYNC_CTRL_LEADER ≤ 1 ∧ (let b := bitsOf v.toNat 3 1; b = s.rf R.SYNC_CTRL_LEADER)) ∧
    (∃ (v : BitVec 64) (s : State), s.reach .host = true ∧ bitsOf v.toNat 0 3 = 0 ∧ s.rf R.SYNC_CTRL_LEADER ≤ 1 ∧ (let b := bitsOf v.toNat 3 1; b ≠ s.rf R.SYNC_CTRL_LEADER ∧ s.stopped = true ∧ b = 0)) ∧
    (∃ (v : BitVec 64) (s : State), s.reach .host = true ∧ bitsOf v.toNat 0 3 = 0 ∧ s.rf R.SYNC_CTRL_LEADER ≤ 1 ∧ (let b := bitsOf v.toNat 3 1; b ≠ s.rf R.SYNC_CTRL_LEADER ∧ s.stopped = false)) ∧
    (∃ (v : BitVec 64) (s : State), s.reach .host = true ∧ bitsOf v.toNat 0 2 = 0 ∧ s.phaseLegal ∧ s.phase = phARMED ∧ s.row < s.rf R.SYNC_LAUNCH_COUNT ∧ s.rf R.PWR_STATE_STATE = 3) ∧
    (∃ (v : BitVec 64) (s : State), s.reach .host = true ∧ bitsOf v.toNat 0 2 = 0 ∧ s.phaseLegal ∧ (s.phase ≠ phARMED ∨ s.rf R.SYNC_LAUNCH_COUNT ≤ s.row)) ∧
    (∃ (v : BitVec 64) (s : State), s.reach .host = true ∧ s.launchOk v.toNat = true) ∧
    (∃ (v : BitVec 64) (s : State), s.reach .host = true ∧ s.launchOk v.toNat = false) :=
  ⟨⟨0x0001000100000001#64, up [], by decide +kernel⟩,
   ⟨0x00400001003F0040#64, up [(R.SYNC_STATUS_STATE, 3)], by decide +kernel⟩,
   ⟨0x00400001003F0040#64, up [], by decide +kernel⟩,
   ⟨0x0040000100400041#64, up [], by decide +kernel⟩,
   ⟨1#64, up [], by decide +kernel⟩,
   ⟨1#64, run [], by decide +kernel⟩,
   ⟨10#64, up [(R.SYNC_CTRL_LEADER, 1), (R.SYNC_STATUS_RELEASE_ARMED, 1)], by decide +kernel⟩,
   ⟨2#64, up [], by decide +kernel⟩,
   ⟨0#64, up [], by decide +kernel⟩,
   ⟨0#64, up [(R.SYNC_CTRL_LEADER, 1)], by decide +kernel⟩,
   ⟨8#64, run [], by decide +kernel⟩,
   ⟨4#64, run [(R.STEP_STATUS_PHASE, phARMED), (R.SYNC_LAUNCH_COUNT, 1)], by unfold State.phaseLegal; decide +kernel⟩,
   ⟨4#64, run [(R.STEP_STATUS_PHASE, phARMED)], by unfold State.phaseLegal; decide +kernel⟩,
   ⟨100000#64, withCh (up [(R.CHART_ACTIVE_VALID, 1), (R.PWR_AVS_MET, 1)]), by decide +kernel⟩,
   ⟨99999#64, withCh (up [(R.CHART_ACTIVE_VALID, 1), (R.PWR_AVS_MET, 1)]), by decide +kernel⟩⟩

theorem wit_ReleasesAndEpochs :
    (∃ (s : State), s.pwr.off = false ∧ s.rf R.SYNC_STATUS_RELEASE_ARMED = 1) ∧
    (∃ (s : State), s.pwr.off = false ∧ s.rf R.SYNC_STATUS_RELEASE_ARMED ≠ 1) ∧
    (∃ (s : State) (n : Nat), s.sync.loadAt = some n) ∧
    (∃ (s : State) (len : Nat), s.pwr.off = false ∧ len ≠ 0 ∧ len ≠ 1 ∧ len ≠ 8) ∧
    (∃ (s : State) (len : Nat), s.pwr.off = false ∧ len ≠ 0 ∧ len ≠ 1 ∧ len ≠ 8) ∧
    (∃ (s : State) (len : Nat), s.pwr.off = false ∧ (len = 1 ∨ len = 8)) ∧
    (∃ (s : State) (len : Nat), s.pwr.off = false ∧ (len = 1 ∨ len = 8)) ∧
    (∃ (s : State) (e : Nat), s.pwr.off = false ∧ s.rf R.SYNC_CTRL_LEADER ≠ 0 ∧ s.devices ≠ 1 ∧ s.rf R.SYNC_STATUS_CLOCK = ckREFCLK ∧ (s.rf R.SYNC_STATUS_STATE = syRELEASED ∨ s.rf R.SYNC_STATUS_STATE = syALIGNED) ∧ s.sync.lastEmit = some e) ∧
    (∃ (s : State), s.pwr.off = false ∧ s.rf R.SYNC_CTRL_LEADER ≠ 0 ∧ s.devices ≠ 1 ∧ s.rf R.SYNC_STATUS_CLOCK = ckREFCLK ∧ (s.rf R.SYNC_STATUS_STATE = syRELEASED ∨ s.rf R.SYNC_STATUS_STATE = syALIGNED)) ∧
    (∃ (s : State) (off : Int), s.pwr.off = false ∧ s.devices ≠ 1 ∧ s.rf R.SYNC_STATUS_CLOCK = ckREFCLK ∧ 0 ≤ off ∧ off < 16) ∧
    (∃ (s : State) (off : Int), s.pwr.off = false ∧ s.devices ≠ 1 ∧ s.rf R.SYNC_STATUS_CLOCK = ckREFCLK ∧ (off < 0 ∨ 16 ≤ off) ∧ s.rf R.SYNC_STATUS_STATE = syALIGNED) ∧
    (∃ (s : State) (off : Int), s.pwr.off = false ∧ s.devices ≠ 1 ∧ s.rf R.SYNC_STATUS_CLOCK = ckREFCLK ∧ (off < 0 ∨ 16 ≤ off) ∧ s.rf R.SYNC_STATUS_STATE = syALIGNED) ∧
    (∃ (s : State) (off : Int), s.pwr.off = false ∧ s.devices ≠ 1 ∧ (let u := s.advance (s.epochAt off); s.rf R.SYNC_STATUS_CLOCK ≠ ckREFCLK ∧ u.mayReturn = true)) ∧
    (∃ (s : State) (off : Int), s.pwr.off = false ∧ s.devices ≠ 1 ∧ (let u := s.advance (s.epochAt off); s.rf R.SYNC_STATUS_CLOCK ≠ ckREFCLK ∧ u.mayReturn = false ∧ s.rf R.SYNC_STATUS_CLOCK = ckLOCKED ∧ 128 < off.natAbs)) ∧
    (∃ (s : State) (off : Int), s.pwr.off = false ∧ s.devices ≠ 1 ∧ (let u := s.advance (s.epochAt off); s.rf R.SYNC_STATUS_CLOCK ≠ ckREFCLK ∧ u.mayReturn = false ∧ s.rf R.SYNC_STATUS_CLOCK ≠ ckLOCKED ∧ u.mayRealign = true)) ∧
    (∃ (s : State) (off : Int), s.pwr.off = false ∧ s.devices ≠ 1 ∧ (let u := s.advance (s.epochAt off); s.rf R.SYNC_STATUS_CLOCK ≠ ckREFCLK ∧ u.mayReturn = false ∧ s.rf R.SYNC_STATUS_CLOCK = ckFREE ∧ u.mayRealign = false)) ∧
    (∃ (s : State) (e : Int), s.pwr.off = false ∧ s.sync.lastEpoch = some e ∧ s.rf R.SYNC_STATUS_SYNC_PRESENT ≠ 0 ∧ s.rf R.SYNC_STATUS_CLOCK = ckREFCLK) ∧
    (∃ (s : State) (e : Int), s.pwr.off = false ∧ s.sync.lastEpoch = some e ∧ s.rf R.SYNC_STATUS_SYNC_PRESENT ≠ 0 ∧ s.rf R.SYNC_STATUS_CLOCK ≠ ckREFCLK) :=
  ⟨⟨up [(R.SYNC_STATUS_RELEASE_ARMED, 1)], by decide +kernel⟩,
   ⟨up [], by decide +kernel⟩,
   ⟨{ up [] with sync := { SyncSt.reset with loadAt := some 64 } }, 64, by decide +kernel⟩,
   ⟨up [], 7, by decide +kernel⟩,
   ⟨up [], 9, by decide +kernel⟩,
   ⟨up [], 8, by decide +kernel⟩,
   ⟨up [], 1, by decide +kernel⟩,
   ⟨{ up [(R.SYNC_CONFIG_DEVICES, 2), (R.SYNC_CTRL_LEADER, 1), (R.SYNC_STATUS_STATE, 1)] with sync := { SyncSt.reset with lastEmit := some 4096 } }, 4096, by decide +kernel⟩,
   ⟨up [(R.SYNC_CONFIG_DEVICES, 2), (R.SYNC_CTRL_LEADER, 1), (R.SYNC_STATUS_STATE, 2)], by decide +kernel⟩,
   ⟨up [(R.SYNC_CONFIG_DEVICES, 2)], 15, by decide +kernel⟩,
   ⟨up [(R.SYNC_CONFIG_DEVICES, 2), (R.SYNC_STATUS_STATE, 2)], 16, by decide +kernel⟩,
   ⟨up [(R.SYNC_CONFIG_DEVICES, 2), (R.SYNC_STATUS_STATE, 2)], -1, by decide +kernel⟩,
   ⟨{ up [(R.SYNC_CONFIG_DEVICES, 2), (R.SYNC_STATUS_CLOCK, ckFREE)] with row := 2 ^ 20 }, 0, by decide +kernel⟩,
   ⟨up [(R.SYNC_CONFIG_DEVICES, 2), (R.SYNC_STATUS_CLOCK, ckLOCKED)], 129, by decide +kernel⟩,
   ⟨up [(R.SYNC_CONFIG_DEVICES, 2), (R.SYNC_STATUS_CLOCK, ckDISCIPLINED)], 0, by decide +kernel⟩,
   ⟨run [(R.SYNC_CONFIG_DEVICES, 2), (R.SYNC_STATUS_CLOCK, ckFREE)], 0, by decide +kernel⟩,
   ⟨{ up [(R.SYNC_STATUS_SYNC_PRESENT, 1)] with sync := { SyncSt.reset with lastEpoch := some 7 } }, 7, by decide +kernel⟩,
   ⟨{ up [(R.SYNC_STATUS_SYNC_PRESENT, 1), (R.SYNC_STATUS_CLOCK, ckDISCIPLINED)] with sync := { SyncSt.reset with lastEpoch := some 7 } }, 7, by decide +kernel⟩⟩

theorem wit_ClockEvents :
    (∃ (s : State), s.pwr.off = false ∧ s.rf R.SYNC_STATUS_CLOCK = ckFREE ∧ (2 ^ 20 : Int) ≤ s.cleanTicks ∧ (s.stopped = true ∨ s.phase = phARMED ∨ (s.sync.cleanBound = true ∧ s.phase = phBOUNDARY))) ∧
    (∃ (s : State), s.pwr.off = false ∧ s.rf R.SYNC_STATUS_CLOCK = ckFREE ∧ (2 ^ 20 : Int) ≤ s.cleanTicks ∧ (s.stopped = true ∨ s.phase = phARMED ∨ (s.sync.cleanBound = true ∧ s.phase = phBOUNDARY))) ∧
    (∃ (s : State), s.pwr.off = false ∧ (let u := s.advance ((s.row / 2 ^ 24 + 1) * 2 ^ 24); (2 ^ 24 : Int) ≤ u.cleanTicks)) ∧
    (∃ (s : State), s.pwr.off = false ∧ (let u := s.advance ((s.row / 2 ^ 24 + 1) * 2 ^ 24); u.cleanTicks < (2 ^ 24 : Int))) ∧
    (∃ (i : Instr) (bit : Fld) (s : State), s.pwr.off = false ∧ ((i = .clockLoss ∧ bit = R.SYNC_ERR_LOSS) ∨ (i = .clockGlitch ∧ bit = R.SYNC_ERR_GLITCH) ∨ (i = .clockRate ∧ bit = R.SYNC_ERR_RATE)) ∧ i ≠ .clockLoss ∧ s.rf R.SYNC_STATUS_CLOCK ≠ ckREFCLK) ∧
    (∃ (i : Instr) (bit : Fld) (s : State), s.pwr.off = false ∧ ((i = .clockLoss ∧ bit = R.SYNC_ERR_LOSS) ∨ (i = .clockGlitch ∧ bit = R.SYNC_ERR_GLITCH) ∨ (i = .clockRate ∧ bit = R.SYNC_ERR_RATE)) ∧ i = .clockLoss ∧ s.rf R.SYNC_STATUS_CLOCK ≠ ckREFCLK) ∧
    (∃ (i : Instr) (bit : Fld) (s : State), s.pwr.off = false ∧ ((i = .clockLoss ∧ bit = R.SYNC_ERR_LOSS) ∨ (i = .clockGlitch ∧ bit = R.SYNC_ERR_GLITCH) ∨ (i = .clockRate ∧ bit = R.SYNC_ERR_RATE)) ∧ i ≠ .clockLoss ∧ s.rf R.SYNC_STATUS_CLOCK = ckREFCLK ∧ s.rf R.SYNC_STATUS_SYNC_PRESENT = 1) ∧
    (∃ (i : Instr) (bit : Fld) (s : State), s.pwr.off = false ∧ ((i = .clockLoss ∧ bit = R.SYNC_ERR_LOSS) ∨ (i = .clockGlitch ∧ bit = R.SYNC_ERR_GLITCH) ∨ (i = .clockRate ∧ bit = R.SYNC_ERR_RATE)) ∧ i ≠ .clockLoss ∧ s.rf R.SYNC_STATUS_CLOCK = ckREFCLK ∧ s.rf R.SYNC_STATUS_SYNC_PRESENT ≠ 1 ∧ 1 < s.devices ∧ s.training = true ∧ s.rf R.STEP_FLAG_RAISED = 0) :=
  ⟨⟨{ up [(R.SYNC_STATUS_CLOCK, ckFREE)] with row := 2 ^ 20 }, by decide +kernel⟩,
   ⟨{ { run [(R.STEP_STATUS_PHASE, phBOUNDARY), (R.SYNC_STATUS_CLOCK, ckFREE)] with row := 2 ^ 20 } with sync := { SyncSt.reset with cleanBound := true } }, by decide +kernel⟩,
   ⟨up [], by decide +kernel⟩,
   ⟨{ up [] with sync := { SyncSt.reset with goodSince := 1 } }, by decide +kernel⟩,
   ⟨.clockGlitch, R.SYNC_ERR_GLITCH, up [(R.SYNC_STATUS_CLOCK, ckFREE)], by decide +kernel⟩,
   ⟨.clockLoss, R.SYNC_ERR_LOSS, up [(R.SYNC_STATUS_CLOCK, ckFREE)], by decide +kernel⟩,
   ⟨.clockGlitch, R.SYNC_ERR_GLITCH, up [(R.SYNC_STATUS_SYNC_PRESENT, 1)], by decide +kernel⟩,
   ⟨.clockRate, R.SYNC_ERR_RATE, run [(R.SYNC_CONFIG_DEVICES, 2)], by decide +kernel⟩⟩

theorem wit_UnitFaults :
    (∃ (u : BitVec 16) (v : Nat) (s : State), s.pwr.off = false ∧ (uKind u.toNat = 1 ∨ uKind u.toNat = 2 ∨ uKind u.toNat = 3) ∧ uIdx u.toNat < kindCount (uKind u.toNat) ∧ s.serves u.toNat = true ∧ s.spareFor u.toNat = some v ∧ s.inStep = true ∧ s.inPlan = true ∧ s.fault.pauseEnd = none) ∧
    (∃ (u : BitVec 16) (v : Nat) (s : State), s.pwr.off = false ∧ (uKind u.toNat = 1 ∨ uKind u.toNat = 2 ∨ uKind u.toNat = 3) ∧ uIdx u.toNat < kindCount (uKind u.toNat) ∧ s.serves u.toNat = true ∧ s.spareFor u.toNat = some v ∧ s.inStep = true ∧ s.inPlan = true ∧ s.fault.pauseEnd = none) ∧
    (∃ (u : BitVec 16) (v : Nat) (s : State), s.pwr.off = false ∧ (uKind u.toNat = 1 ∨ uKind u.toNat = 2 ∨ uKind u.toNat = 3) ∧ uIdx u.toNat < kindCount (uKind u.toNat) ∧ s.serves u.toNat = true ∧ s.spareFor u.toNat = some v ∧ s.training = true ∧ s.step.reserveOver = false ∧ 1 ≤ s.rf R.FAULT_STATUS_STEP_FAILOVERS ∧ s.rf R.STEP_FLAG_RAISED = 0) ∧
    (∃ (u : BitVec 16) (s : State), s.pwr.off = false ∧ (uKind u.toNat = 1 ∨ uKind u.toNat = 2 ∨ uKind u.toNat = 3) ∧ uIdx u.toNat < kindCount (uKind u.toNat) ∧ s.serves u.toNat = true ∧ s.spareFor u.toNat = none ∧ s.training = true ∧ s.rf R.STEP_FLAG_RAISED = 0) ∧
    (∃ (u : BitVec 16) (s : State), s.pwr.off = false ∧ (uKind u.toNat = 1 ∨ uKind u.toNat = 2 ∨ uKind u.toNat = 3) ∧ uIdx u.toNat < kindCount (uKind u.toNat) ∧ s.rf (unitStateF u.toNat) = usSPARE) ∧
    (∃ (u : BitVec 16) (i : Instr) (s : State), s.pwr.off = false ∧ 2 ≤ s.rf R.PWR_STATE_STATE ∧ uIdx u.toNat < kindCount (uKind u.toNat) ∧ ((∃ ch : Fin 256, uKind u.toNat = 4 ∧ uIdx u.toNat = ch.val ∧ i = .channelLoss ch) ∨ (∃ (p : Fin 4) (k : Fin 9), uKind u.toNat = 5 ∧ uIdx u.toNat = 9 * p.val + k.val ∧ i = .moduleFail p k) ∨ (∃ k : Fin 5, uKind u.toNat = 6 ∧ uIdx u.toNat = k.val ∧ i = .controlCoreFault k))) ∧
    (∃ (u : BitVec 16) (i : Instr) (s : State), s.pwr.off = false ∧ 2 ≤ s.rf R.PWR_STATE_STATE ∧ uIdx u.toNat < kindCount (uKind u.toNat) ∧ ((∃ ch : Fin 256, uKind u.toNat = 4 ∧ uIdx u.toNat = ch.val ∧ i = .channelLoss ch) ∨ (∃ (p : Fin 4) (k : Fin 9), uKind u.toNat = 5 ∧ uIdx u.toNat = 9 * p.val + k.val ∧ i = .moduleFail p k) ∨ (∃ k : Fin 5, uKind u.toNat = 6 ∧ uIdx u.toNat = k.val ∧ i = .controlCoreFault k))) ∧
    (∃ (u : BitVec 16) (i : Instr) (s : State), s.pwr.off = false ∧ 2 ≤ s.rf R.PWR_STATE_STATE ∧ uIdx u.toNat < kindCount (uKind u.toNat) ∧ ((∃ ch : Fin 256, uKind u.toNat = 4 ∧ uIdx u.toNat = ch.val ∧ i = .channelLoss ch) ∨ (∃ (p : Fin 4) (k : Fin 9), uKind u.toNat = 5 ∧ uIdx u.toNat = 9 * p.val + k.val ∧ i = .moduleFail p k) ∨ (∃ k : Fin 5, uKind u.toNat = 6 ∧ uIdx u.toNat = k.val ∧ i = .controlCoreFault k))) ∧
    (∃ (ch : Fin 256) (s : State), s.pwr.off = false ∧ s.serves (0x4000 + ch.val) = true ∧ s.spareFor (0x4000 + ch.val) ≠ none) ∧
    (∃ (ch : Fin 256) (s : State), s.pwr.off = false ∧ s.serves (0x4000 + ch.val) = true ∧ s.spareFor (0x4000 + ch.val) = none ∧ s.training = true ∧ s.rf R.STEP_FLAG_RAISED = 0) ∧
    (∃ (k : Fin 5) (s : State), s.pwr.off = false ∧ s.serves (0x6000 + k.val) = true ∧ s.spareFor (0x6000 + k.val) ≠ none) ∧
    (∃ (k : Fin 5) (s : State), s.pwr.off = false ∧ s.serves (0x6000 + k.val) = true ∧ s.spareFor (0x6000 + k.val) = none) ∧
    (∃ (s : State) (p : Nat) (v : Nat) (l : List Nat), s.pwr.off = false ∧ s.inStep = false ∧ s.fault.joins = p :: l ∧ s.spareFor 0x6000 = some v) ∧
    (∃ (q : Fin 2) (s : State), s.pwr.off = false ∧ 2 ≤ s.rf R.PWR_STATE_STATE ∧ s.fault.mismatched.contains q.val = false) ∧
    (∃ (q : Fin 2) (s : State), s.pwr.off = false ∧ 2 ≤ s.rf R.PWR_STATE_STATE ∧ s.fault.mismatched.contains q.val = true) ∧
    (∃ (u : BitVec 16) (v : Nat) (s : State), s.pwr.off = false ∧ (uKind u.toNat = 1 ∨ uKind u.toNat = 2 ∨ uKind u.toNat = 3) ∧ uIdx u.toNat < kindCount (uKind u.toNat) ∧ s.serves u.toNat = true ∧ s.spareFor u.toNat = some v ∧ uKind u.toNat ≠ 3 ∧ s.inPlan = true ∧ s.fault.pauseEnd = none) ∧
    (∃ (u : BitVec 16) (v : Nat) (s : State) (n : Nat), s.pwr.off = false ∧ (uKind u.toNat = 1 ∨ uKind u.toNat = 2 ∨ uKind u.toNat = 3) ∧ uIdx u.toNat < kindCount (uKind u.toNat) ∧ s.serves u.toNat = true ∧ s.spareFor u.toNat = some v ∧ s.rf (R.STREAM_CTL_MOVER n) ≠ s.rf (unitLogicalF u.toNat)) :=
  ⟨⟨0x1000#16, 0x1023, run [(unitStateF 0x1000, usSERVICE), (unitStateF 0x1023, usSPARE)], by decide +kernel⟩,
   ⟨0x2000#16, 0x2047, run [(unitStateF 0x2000, usSERVICE), (unitStateF 0x2047, usSPARE)], by decide +kernel⟩,
   ⟨0x3000#16, 0x310F, run [(unitStateF 0x3000, usRETIRING), (unitStateF 0x310F, usSPARE), (R.FAULT_STATUS_STEP_FAILOVERS, 1)], by decide +kernel⟩,
   ⟨0x1023#16, run [(unitStateF 0x1023, usSERVICE)], by decide +kernel⟩,
   ⟨0x2047#16, up [(unitStateF 0x2047, usSPARE)], by decide +kernel⟩,
   ⟨0x40FF#16, .channelLoss 255, up [], by decide +kernel, by decide +kernel, by decide +kernel, Or.inl ⟨255, by decide +kernel⟩⟩,
   ⟨0x5023#16, .moduleFail 3 8, up [], by decide +kernel, by decide +kernel, by decide +kernel, Or.inr (Or.inl ⟨3, 8, by decide +kernel⟩)⟩,
   ⟨0x6004#16, .controlCoreFault 4, up [], by decide +kernel, by decide +kernel, by decide +kernel, Or.inr (Or.inr ⟨4, by decide +kernel⟩)⟩,
   ⟨0, up [(unitStateF 0x4000, usSERVICE), (unitStateF 0x401F, usSPARE)], by decide +kernel⟩,
   ⟨255, run [(unitStateF 0x40FF, usSERVICE), (unitStateF 0x401F, usSPARE)], by decide +kernel⟩,
   ⟨0, up [(unitStateF 0x6000, usSERVICE), (unitStateF 0x6004, usSPARE)], by decide +kernel⟩,
   ⟨4, up [(unitStateF 0x6004, usSERVICE)], by decide +kernel⟩,
   ⟨{ up [(unitStateF 0x6004, usSPARE)] with fault := { FaultSt.reset with joins := [1] } }, 1, 0x6004, [], by decide +kernel⟩,
   ⟨1, up [], by decide +kernel⟩,
   ⟨1, { up [(unitStateF 0x6002, usSERVICE), (unitStateF 0x6003, usSERVICE)] with fault := { FaultSt.reset with mismatched := [1] } }, by decide +kernel⟩,
   ⟨0x1000#16, 0x1023, run [(unitStateF 0x1000, usSERVICE), (unitStateF 0x1023, usSPARE)], by decide +kernel⟩,
   ⟨0x3000#16, 0x310F, run [(unitStateF 0x3000, usSERVICE), (unitStateF 0x310F, usSPARE), (R.STREAM_CTL_MOVER 0, 1)], 0, by decide +kernel⟩⟩

theorem wit_RetirementAndMends :
    (∃ (u : BitVec 16) (s : State), s.pwr.off = false ∧ uIdx u.toNat < kindCount (uKind u.toNat) ∧ uKind u.toNat ≠ 5 ∧ (let n := s.ceOf u.toNat + 1; 3 ≤ uKind u.toNat ∧ n ≠ ceLimit (uKind u.toNat))) ∧
    (∃ (u : BitVec 16) (s : State), s.pwr.off = false ∧ uIdx u.toNat < kindCount (uKind u.toNat) ∧ uKind u.toNat ≠ 5 ∧ (let n := s.ceOf u.toNat + 1; n = ceLimit (uKind u.toNat) ∧ s.rf (unitStateF u.toNat) = usSERVICE ∧ u.toNat ∉ s.fault.retiring ∧ s.retireTo u.toNat ≠ none)) ∧
    (∃ (u : BitVec 16) (s : State), s.pwr.off = false ∧ uIdx u.toNat < kindCount (uKind u.toNat) ∧ uKind u.toNat ≠ 5 ∧ (let n := s.ceOf u.toNat + 1; n = ceLimit (uKind u.toNat) ∧ s.rf (unitStateF u.toNat) = usSERVICE ∧ u.toNat ∉ s.fault.retiring ∧ s.retireTo u.toNat ≠ none)) ∧
    (∃ (u : BitVec 16) (s : State), s.pwr.off = false ∧ uIdx u.toNat < kindCount (uKind u.toNat) ∧ uKind u.toNat ≠ 5 ∧ (let n := s.ceOf u.toNat + 1; n = ceLimit (uKind u.toNat) ∧ s.rf (unitStateF u.toNat) = usSERVICE ∧ u.toNat ∉ s.fault.retiring ∧ s.retireTo u.toNat ≠ none ∧ 3 ≤ uKind u.toNat ∧ uKind u.toNat = 4)) ∧
    (∃ (s : State), s.pwr.off = false) ∧
    (∃ (s : State) (c : ChanCopy), s.fault.copies.find? (fun c => !c.done) = some c) ∧
    (∃ (v : BitVec 64) (s : State), s.reach .host = true ∧ (let u := bitsOf v.toNat 16 16; let r := bitsOf v.toNat 2 1 == 1; s.mendOk u r = true)) ∧
    (∃ (v : BitVec 64) (s : State), s.reach .host = true ∧ (let u := bitsOf v.toNat 16 16; let r := bitsOf v.toNat 2 1 == 1; s.mendOk u r = false)) ∧
    (∃ (u : BitVec 16) (pass : Bool) (m : Mend) (s : State), s.fault.mends.find? (fun m => m.unit == u.toNat && m.target.isNone) = some m ∧ pass = false) ∧
    (∃ (u : BitVec 16) (pass : Bool) (m : Mend) (s : State), s.fault.mends.find? (fun m => m.unit == u.toNat && m.target.isNone) = some m ∧ pass = true ∧ s.stopped = true ∧ m.restore = false) ∧
    (∃ (u : BitVec 16) (pass : Bool) (m : Mend) (s : State), s.fault.mends.find? (fun m => m.unit == u.toNat && m.target.isNone) = some m ∧ pass = true ∧ s.stopped = false) :=
  ⟨⟨0x6000#16, up [], by decide +kernel⟩,
   ⟨0x1000#16, { up [(unitStateF 0x1000, usSERVICE), (unitStateF 0x1001, usSPARE)] with fault := { FaultSt.reset with ce := [(0x1000, 63)] } }, by decide +kernel⟩,
   ⟨0x2000#16, { up [(unitStateF 0x2000, usSERVICE), (unitStateF 0x2001, usSPARE)] with fault := { FaultSt.reset with ce := [(0x2000, 63)] } }, by decide +kernel⟩,
   ⟨0x4000#16, { up [(unitStateF 0x4000, usSERVICE), (unitStateF 0x401F, usSPARE)] with fault := { FaultSt.reset with ce := [(0x4000, 4095)] } }, by decide +kernel⟩,
   ⟨up [], by decide +kernel⟩,
   ⟨{ up [] with fault := { FaultSt.reset with copies := [⟨0, 31, false⟩] } }, ⟨0, 31, false⟩, by decide +kernel⟩,
   ⟨0x10000001#64, up [(unitStateF 0x1000, usFAILED)], by decide +kernel⟩,
   ⟨0x10000001#64, up [], by decide +kernel⟩,
   ⟨0x1000#16, false, ⟨0x1000, false, none⟩, { up [] with fault := { FaultSt.reset with mends := [⟨0x1000, false, none⟩] } }, by decide +kernel⟩,
   ⟨0x1000#16, true, ⟨0x1000, false, none⟩, { up [] with fault := { FaultSt.reset with mends := [⟨0x1000, false, none⟩] } }, by decide +kernel⟩,
   ⟨0x1000#16, true, ⟨0x1000, false, none⟩, { run [] with fault := { FaultSt.reset with mends := [⟨0x1000, false, none⟩] } }, by decide +kernel⟩⟩

theorem wit_PowerStates :
    (∃ (i : Instr) (log : Bool), ((∃ k : Fin 9, i = .supplyLost k ∧ log = false) ∨ (∃ ns, i = .rstNLow ns ∧ 1000 ≤ ns ∧ log = true))) ∧
    (∃ (i : Instr) (log : Bool), ((∃ k : Fin 9, i = .supplyLost k ∧ log = false) ∨ (∃ ns, i = .rstNLow ns ∧ 1000 ≤ ns ∧ log = true))) ∧
    (∃ (ns : Nat), ns < 100) ∧
    (∃ (ns : Nat) (s : State), 100 ≤ ns ∧ ns < 1000 ∧ s.pwr.off = false) ∧
    (∃ (ns : Nat) (s : State), 100 ≤ ns ∧ ns < 1000 ∧ s.pwr.off = false) ∧
    (∃ (k : Fin 9) (s : State), (let left := NSet.del k.val s.pwr.badSupply; s.pwr.off = true ∧ s.pwr.rstLow = false ∧ left = [])) ∧
    (∃ (k : Fin 9) (s : State), (let left := NSet.del k.val s.pwr.badSupply; (s.pwr.off = false ∨ s.pwr.rstLow = true ∨ left ≠ []))) ∧
    (∃ (s : State), s.pwr.off = true ∧ s.pwr.badSupply = []) ∧
    (∃ (s : State), (s.pwr.off = false ∨ s.pwr.badSupply ≠ [])) ∧
    (∃ (s : State), s.reach .host = true ∧ s.mayToAon = true) ∧
    (∃ (s : State), s.reach .host = true ∧ s.mayToAon = false) ∧
    (∃ (m : Master) (v : BitVec 64) (s : State), s.reach m = true ∧ bitsOf v.toNat 0 1 = 0 ∧ bitsOf v.toNat 2 1 = 0 ∧ s.idleAon = true ∧ s.pwr.fwLoaded = true ∧ ¬ (s.rf R.PWR_THERM_CRIT_SEEN = 1 ∧ ∃ c ∈ s.pwr.temps, (s.rf R.PWR_THERM_CFG_TRIP_C : Int) ≤ c)) ∧
    (∃ (m : Master) (v : BitVec 64) (s : State), s.reach m = true ∧ bitsOf v.toNat 0 1 = 0 ∧ bitsOf v.toNat 2 1 = 0 ∧ (¬ (s.idleAon = true ∧ s.pwr.fwLoaded = true ∧ ¬ (s.rf R.PWR_THERM_CRIT_SEEN = 1 ∧ ∃ c ∈ s.pwr.temps, (s.rf R.PWR_THERM_CFG_TRIP_C : Int) ≤ c)))) ∧
    (∃ (m : Master) (v : BitVec 64) (s : State), s.reach m = true ∧ bitsOf v.toNat 1 2 = 0 ∧ s.idleAon = true ∧ s.rf R.BOOT_STATUS_STATE = 5) ∧
    (∃ (m : Master) (v : BitVec 64) (s : State), s.reach m = true ∧ bitsOf v.toNat 1 2 = 0 ∧ (s.idleAon = false ∨ s.rf R.BOOT_STATUS_STATE ≠ 5)) :=
  ⟨⟨.supplyLost 8, false, Or.inl ⟨8, by decide +kernel⟩⟩,
   ⟨.rstNLow 1000, true, Or.inr ⟨1000, by decide +kernel⟩⟩,
   ⟨99, by decide +kernel⟩,
   ⟨100, State.reset, by decide +kernel⟩,
   ⟨999, State.reset, by decide +kernel⟩,
   ⟨8, { State.reset with pwr := { PowerSt.reset with off := true, badSupply := [8] } }, by decide +kernel⟩,
   ⟨0, { State.reset with pwr := { PowerSt.reset with off := true, badSupply := [8] } }, by decide +kernel⟩,
   ⟨{ State.reset with pwr := { PowerSt.reset with off := true } }, by decide +kernel⟩,
   ⟨{ State.reset with pwr := { PowerSt.reset with off := true, badSupply := [8] } }, by decide +kernel⟩,
   ⟨up [], by decide +kernel⟩,
   ⟨run [], by decide +kernel⟩,
   ⟨.mgmt, 2#64, { State.reset with pwr := { PowerSt.reset with booting := false, fwLoaded := true } }, by decide +kernel⟩,
   ⟨.mgmt, 2#64, State.reset, by decide +kernel⟩,
   ⟨.mgmt, 1#64, { st [(R.BOOT_STATUS_STATE, 5)] with pwr := { PowerSt.reset with booting := false } }, by decide +kernel⟩,
   ⟨.mgmt, 1#64, State.reset, by decide +kernel⟩⟩

theorem wit_BootAndFuses :
    (∃ (a : List Byte) (b : List Byte) (s : State), s.pwr.off = false ∧ s.pwr.booting = true ∧ s.pwr.imageDone = false ∧ (let good := s.slotReason a = 0 ∨ s.slotReason b = 0; s.slotReason a ≠ 0 ∧ ¬ good)) ∧
    (∃ (s : State), s.pwr.off = false ∧ s.pwr.booting = true ∧ s.pwr.trainDone = false ∧ s.pwr.imageDone = true) ∧
    (∃ (s : State), s.pwr.off = false ∧ s.pwr.booting = true ∧ s.pwr.trainDone = false ∧ s.pwr.imageDone = false) ∧
    (∃ (i : Instr) (v : BitVec 64) (w : BitVec 64) (s : State), s.reach .host = true ∧ ((i = .advanceFw .host v ∧ w = v ||| 1#64) ∨ (i = .advanceDev .host v ∧ w = v ||| 2#64) ∨ (i = .revokeFw .host v ∧ w = v) ∨ (i = .revokeDev .host v ∧ w = v &&& 0xFFFF#64)) ∧ (let fw := maskBits 4 (bitsOf w.toNat 4 4); let dv := maskBits 2 (bitsOf w.toNat 8 2); let af := bitsOf w.toNat 0 1 = 1; let ad := bitsOf w.toNat 1 1 = 1; let asked := fw ≠ [] ∨ dv ≠ [] ∨ af ∨ ad; ¬ asked)) ∧
    (∃ (i : Instr) (v : BitVec 64) (w : BitVec 64) (s : State), s.reach .host = true ∧ ((i = .advanceFw .host v ∧ w = v ||| 1#64) ∨ (i = .advanceDev .host v ∧ w = v ||| 2#64) ∨ (i = .revokeFw .host v ∧ w = v) ∨ (i = .revokeDev .host v ∧ w = v &&& 0xFFFF#64)) ∧ (let fw := maskBits 4 (bitsOf w.toNat 4 4); let dv := maskBits 2 (bitsOf w.toNat 8 2); let af := bitsOf w.toNat 0 1 = 1; let ad := bitsOf w.toNat 1 1 = 1; let asked := fw ≠ [] ∨ dv ≠ [] ∨ af ∨ ad; let bad := s.stopped = false ∨ fw.contains (s.rf R.BOOT_IMAGE_FW_KEY_SLOT) = true ∨ dv.contains (s.rf R.BOOT_IMAGE_DEV_KEY_SLOT) = true; asked ∧ bad)) ∧
    (∃ (i : Instr) (v : BitVec 64) (w : BitVec 64) (s : State), s.reach .host = true ∧ ((i = .advanceFw .host v ∧ w = v ||| 1#64) ∨ (i = .advanceDev .host v ∧ w = v ||| 2#64) ∨ (i = .revokeFw .host v ∧ w = v) ∨ (i = .revokeDev .host v ∧ w = v &&& 0xFFFF#64)) ∧ (let fw := maskBits 4 (bitsOf w.toNat 4 4); let dv := maskBits 2 (bitsOf w.toNat 8 2); let af := bitsOf w.toNat 0 1 = 1; let ad := bitsOf w.toNat 1 1 = 1; let asked := fw ≠ [] ∨ dv ≠ [] ∨ af ∨ ad; let bad := s.stopped = false ∨ fw.contains (s.rf R.BOOT_IMAGE_FW_KEY_SLOT) = true ∨ dv.contains (s.rf R.BOOT_IMAGE_DEV_KEY_SLOT) = true; asked ∧ bad)) ∧
    (∃ (i : Instr) (v : BitVec 64) (w : BitVec 64) (s : State), s.reach .host = true ∧ ((i = .advanceFw .host v ∧ w = v ||| 1#64) ∨ (i = .advanceDev .host v ∧ w = v ||| 2#64) ∨ (i = .revokeFw .host v ∧ w = v) ∨ (i = .revokeDev .host v ∧ w = v &&& 0xFFFF#64)) ∧ (let fw := maskBits 4 (bitsOf w.toNat 4 4); let dv := maskBits 2 (bitsOf w.toNat 8 2); let af := bitsOf w.toNat 0 1 = 1; let ad := bitsOf w.toNat 1 1 = 1; let asked := fw ≠ [] ∨ dv ≠ [] ∨ af ∨ ad; let bad := s.stopped = false ∨ fw.contains (s.rf R.BOOT_IMAGE_FW_KEY_SLOT) = true ∨ dv.contains (s.rf R.BOOT_IMAGE_DEV_KEY_SLOT) = true; asked ∧ ¬ bad)) ∧
    (∃ (i : Instr) (v : BitVec 64) (w : BitVec 64) (s : State), s.reach .host = true ∧ ((i = .advanceFw .host v ∧ w = v ||| 1#64) ∨ (i = .advanceDev .host v ∧ w = v ||| 2#64) ∨ (i = .revokeFw .host v ∧ w = v) ∨ (i = .revokeDev .host v ∧ w = v &&& 0xFFFF#64)) ∧ (let fw := maskBits 4 (bitsOf w.toNat 4 4); let dv := maskBits 2 (bitsOf w.toNat 8 2); let af := bitsOf w.toNat 0 1 = 1; let ad := bitsOf w.toNat 1 1 = 1; let asked := fw ≠ [] ∨ dv ≠ [] ∨ af ∨ ad; let bad := s.stopped = false ∨ fw.contains (s.rf R.BOOT_IMAGE_FW_KEY_SLOT) = true ∨ dv.contains (s.rf R.BOOT_IMAGE_DEV_KEY_SLOT) = true; asked ∧ ¬ bad)) ∧
    (∃ (s : State), s.pwr.off = false ∧ s.pwr.burns = [0]) ∧
    (∃ (s : State), s.pwr.off = false ∧ s.pwr.burns = [1]) ∧
    (∃ (s : State), s.pwr.off = false ∧ s.pwr.burns = [16 + 3]) ∧
    (∃ (s : State), s.pwr.off = false ∧ s.pwr.burns = [32 + 1]) ∧
    (∃ (slot : Nat) (s : State), slot < 2 ∧ (s.rf R.BOOT_FUSES_DEV_KEYS_SET).testBit slot = false) ∧
    (∃ (slot : Nat) (s : State), (s.rf R.BOOT_FUSES_DEV_KEYS_SET).testBit slot = true) :=
  ⟨⟨[], [], State.reset, by decide +kernel⟩,
   ⟨{ State.reset with pwr := { PowerSt.reset with imageDone := true } }, by decide +kernel⟩,
   ⟨State.reset, by decide +kernel⟩,
   ⟨.revokeFw .host 0#64, 0#64, 0#64, up [], by decide +kernel⟩,
   ⟨.advanceFw .host 0#64, 0#64, 1#64, run [], by decide +kernel⟩,
   ⟨.revokeFw .host 0x80#64, 0x80#64, 0x80#64, up [(R.BOOT_IMAGE_FW_KEY_SLOT, 3)], by decide +kernel⟩,
   ⟨.advanceDev .host 0#64, 0#64, 2#64, up [], by decide +kernel⟩,
   ⟨.revokeDev .host 0x200#64, 0x200#64, 0x200#64, up [], by decide +kernel⟩,
   ⟨{ State.reset with pwr := { PowerSt.reset with burns := [0] } }, by decide +kernel⟩,
   ⟨{ State.reset with pwr := { PowerSt.reset with burns := [1] } }, by decide +kernel⟩,
   ⟨{ State.reset with pwr := { PowerSt.reset with burns := [19] } }, by decide +kernel⟩,
   ⟨{ State.reset with pwr := { PowerSt.reset with burns := [33] } }, by decide +kernel⟩,
   ⟨1, State.reset, by decide +kernel⟩,
   ⟨1, st [(R.BOOT_FUSES_DEV_KEYS_SET, 2)], by decide +kernel⟩⟩

theorem wit_HeatClocksAndReads :
    (∃ (l : List Int) (s : State), s.pwr.off = false ∧ l.length = 64 ∧ s.phaseLegal ∧ s.rf R.PWR_STATE_STATE < 2) ∧
    (∃ (l : List Int) (s : State), s.pwr.off = false ∧ l.length = 64 ∧ s.phaseLegal ∧ (let u := (s.advance ((s.row / 1000 + 1) * 1000)).takeSample l; let crit := u.pwr.critRun.any (2 ≤ ·) = true; 2 ≤ s.rf R.PWR_STATE_STATE ∧ crit ∧ u.training = true)) ∧
    (∃ (l : List Int) (s : State), s.pwr.off = false ∧ l.length = 64 ∧ s.phaseLegal ∧ (let u := (s.advance ((s.row / 1000 + 1) * 1000)).takeSample l; let crit := u.pwr.critRun.any (2 ≤ ·) = true; let emerg := u.pwr.emergRun.any (· == 2) = true; 2 ≤ s.rf R.PWR_STATE_STATE ∧ ¬ crit ∧ emerg ∧ u.training = true)) ∧
    (∃ (l : List Int) (s : State), s.pwr.off = false ∧ l.length = 64 ∧ s.phaseLegal ∧ (let u := (s.advance ((s.row / 1000 + 1) * 1000)).takeSample l; let crit := u.pwr.critRun.any (2 ≤ ·) = true; let emerg := u.pwr.emergRun.any (· == 2) = true; let trip := u.pwr.tripRun.any (· == 10) = true; 2 ≤ s.rf R.PWR_STATE_STATE ∧ ¬ crit ∧ ¬ emerg ∧ trip ∧ (u.inStep || u.step.decideDue) = true)) ∧
    (∃ (l : List Int) (s : State), s.pwr.off = false ∧ l.length = 64 ∧ s.phaseLegal ∧ (let u := (s.advance ((s.row / 1000 + 1) * 1000)).takeSample l; let crit := u.pwr.critRun.any (2 ≤ ·) = true; let emerg := u.pwr.emergRun.any (· == 2) = true; let trip := u.pwr.tripRun.any (· == 10) = true; 2 ≤ s.rf R.PWR_STATE_STATE ∧ ¬ crit ∧ ¬ emerg ∧ trip ∧ (u.inStep || u.step.decideDue) = false ∧ u.phase = phARMED)) ∧
    (∃ (l : List Int) (s : State), s.pwr.off = false ∧ l.length = 64 ∧ s.phaseLegal ∧ (let u := (s.advance ((s.row / 1000 + 1) * 1000)).takeSample l; let crit := u.pwr.critRun.any (2 ≤ ·) = true; let emerg := u.pwr.emergRun.any (· == 2) = true; let trip := u.pwr.tripRun.any (· == 10) = true; 2 ≤ s.rf R.PWR_STATE_STATE ∧ ¬ crit ∧ ¬ emerg ∧ ¬ trip)) ∧
    (∃ (s : State), s.reach .mgmt = true ∧ s.phaseLegal ∧ s.rf R.PWR_STATE_STATE ≠ 3) ∧
    (∃ (s : State), s.reach .mgmt = true ∧ s.phaseLegal ∧ s.rf R.PWR_STATE_STATE = 3 ∧ (s.inStep || s.step.decideDue) = true) ∧
    (∃ (s : State), s.reach .mgmt = true ∧ s.phaseLegal ∧ s.rf R.PWR_STATE_STATE = 3 ∧ (s.inStep || s.step.decideDue) = false ∧ s.phase = phARMED) ∧
    (∃ (s : State), s.reach .mgmt = true ∧ s.phaseLegal ∧ s.rf R.PWR_STATE_STATE = 3 ∧ (s.inStep || s.step.decideDue) = false ∧ s.phase ≠ phARMED) ∧
    (∃ (s : State), s.pwr.off = false ∧ 2 ≤ s.rf R.PWR_STATE_STATE ∧ s.rf R.STEP_NEXT_CASTON_VALUE = 0) ∧
    (∃ (s : State), s.pwr.off = false ∧ 2 ≤ s.rf R.PWR_STATE_STATE ∧ s.rf R.STEP_NEXT_CASTON_VALUE ≠ 0 ∧ s.nextFclk % 2 ^ 16 ≠ 0 ∧ s.nextFclk % 2 ^ 16 ≠ s.rf R.PWR_CLOCK_FCLK_MHZ) ∧
    (∃ (s : State), s.pwr.off = false ∧ s.rf R.PWR_CLOCK_SWITCH_AT ≠ 0) ∧
    (∃ (s : State), s.pwr.off = false) ∧
    (∃ (s : State), s.reach .mgmt = true) :=
  ⟨⟨List.replicate 64 40, { st [(R.PWR_THERM_CFG_TRIP_C, 95), (R.PWR_THERM_CFG_EMERG_C, 105)] with pwr := { PowerSt.reset with off := false } }, by unfold State.phaseLegal; decide +kernel⟩,
   ⟨List.replicate 64 110, { run [(R.PWR_THERM_CFG_TRIP_C, 95), (R.PWR_THERM_CFG_EMERG_C, 105)] with pwr := { PowerSt.reset with critRun := List.replicate 64 1 } }, by unfold State.phaseLegal; decide +kernel⟩,
   ⟨List.replicate 64 105, { run [(R.PWR_THERM_CFG_TRIP_C, 95), (R.PWR_THERM_CFG_EMERG_C, 105)] with pwr := { PowerSt.reset with emergRun := List.replicate 64 1 } }, by unfold State.phaseLegal; decide +kernel⟩,
   ⟨List.replicate 64 95, { run [(R.PWR_THERM_CFG_TRIP_C, 95), (R.PWR_THERM_CFG_EMERG_C, 105)] with pwr := { PowerSt.reset with tripRun := List.replicate 64 9 } }, by unfold State.phaseLegal; decide +kernel⟩,
   ⟨List.replicate 64 95, { run [(R.STEP_STATUS_PHASE, phARMED), (R.PWR_THERM_CFG_TRIP_C, 95), (R.PWR_THERM_CFG_EMERG_C, 105)] with pwr := { PowerSt.reset with tripRun := List.replicate 64 9 } }, by unfold State.phaseLegal; decide +kernel⟩,
   ⟨List.replicate 64 94, up [(R.PWR_THERM_CFG_TRIP_C, 95), (R.PWR_THERM_CFG_EMERG_C, 105)], by unfold State.phaseLegal; decide +kernel⟩,
   ⟨up [], by unfold State.phaseLegal; decide +kernel⟩,
   ⟨run [], by unfold State.phaseLegal; decide +kernel⟩,
   ⟨run [(R.STEP_STATUS_PHASE, phARMED)], by unfold State.phaseLegal; decide +kernel⟩,
   ⟨run [(R.STEP_STATUS_PHASE, phBOUNDARY)], by unfold State.phaseLegal; decide +kernel⟩,
   ⟨up [], by decide +kernel⟩,
   ⟨{ up [(R.STEP_NEXT_CASTON_VALUE, 1), (R.PWR_CLOCK_FCLK_MHZ, 1000)] with pwr := { PowerSt.reset with readyFclk := 800 } }, by decide +kernel⟩,
   ⟨up [(R.PWR_CLOCK_SWITCH_AT, 1)], by decide +kernel⟩,
   ⟨up [], by decide +kernel⟩,
   ⟨State.reset, by decide +kernel⟩⟩

theorem wit_UnitPower :
    (∃ (u : BitVec 16) (s : State), s.pwr.off = false ∧ 2 ≤ s.rf R.PWR_STATE_STATE ∧ s.pwr.awake.contains u.toNat = false ∧ s.nextUse u.toNat = none) ∧
    (∃ (u : BitVec 16) (s : State), s.pwr.off = false ∧ 2 ≤ s.rf R.PWR_STATE_STATE ∧ s.pwr.awake.contains u.toNat = false ∧ s.nextUse u.toNat = none) ∧
    (∃ (u : BitVec 16) (s : State), s.pwr.off = false ∧ s.mayGate u.toNat = true) ∧
    (∃ (u : BitVec 16) (s : State), s.pwr.off = false ∧ s.mayGate u.toNat = true) ∧
    (∃ (u : BitVec 16) (s : State), s.pwr.off = false ∧ s.mayGate u.toNat = true) ∧
    (∃ (u : BitVec 16) (s : State) (use : Nat), s.pwr.off = false ∧ 2 ≤ s.rf R.PWR_STATE_STATE ∧ s.pwr.awake.contains u.toNat = false ∧ s.nextUse u.toNat = some use) :=
  ⟨⟨0x7000#16, up [], by decide +kernel⟩,
   ⟨0x2047#16, up [], by decide +kernel⟩,
   ⟨0x1000#16, up [], by decide +kernel⟩,
   ⟨0x2047#16, up [], by decide +kernel⟩,
   ⟨0x7000#16, up [], by decide +kernel⟩,
   ⟨0x1000#16, segState [0] [], 10, by decide +kernel⟩⟩

theorem wit_FenceConfirm :
    (∃ (n : Fin 16384) (s : State), s.atOp n.val opFENCE = true ∧ s.quiet n.val = false) ∧
    (∃ (n : Fin 16384) (s : State), s.atOp n.val opFENCE = true ∧ (let x := s.str n.val; s.quiet n.val = true ∧ x.confirm = [] ∧ x.pend = [])) ∧
    (∃ (n : Fin 16384) (s : State), s.atOp n.val opFENCE = true ∧ (let x := s.str n.val; s.quiet n.val = true ∧ (x.confirm ≠ [] ∨ x.pend ≠ []))) ∧
    (∃ (n : Fin 16384) (f : Nat) (kind : Nat) (s : State), (s.str n.val).confirm.contains f = true ∧ f < 100 ∧ (kind = 0 ∨ kind = 2 ∨ kind = 3) ∧ kind = 0) ∧
    (∃ (n : Fin 16384) (f : Nat) (kind : Nat) (s : State), (s.str n.val).confirm.contains f = true ∧ f < 100 ∧ (kind = 0 ∨ kind = 2 ∨ kind = 3) ∧ kind ≠ 0 ∧ kind = 2) ∧
    (∃ (n : Fin 16384) (f : Nat) (kind : Nat) (s : State), (s.str n.val).confirm.contains f = true ∧ f < 100 ∧ (kind = 0 ∨ kind = 2 ∨ kind = 3) ∧ kind ≠ 0 ∧ kind = 3) ∧
    (∃ (n : Fin 16384) (s : State), s.atOp n.val opFENCE = true ∧ (let x := s.str n.val; s.quiet n.val = true ∧ (x.confirm ≠ [] ∨ x.pend ≠ []) ∧ (∀ f ∈ x.pend, f < 100 ∧ s.confirmable n.val f))) ∧
    (∃ (n : Fin 16384) (s : State) (f : Nat), s.atOp n.val opFENCE = true ∧ (let x := s.str n.val; s.quiet n.val = true ∧ (x.confirm ≠ [] ∨ x.pend ≠ []) ∧ x.confirm = [] ∧ x.pend = [f] ∧ f < 100 ∧ s.entOf (SMap.get (fun _ => 0) x.far f / 2 ^ 21 % 2 ^ 31) = none)) :=
  ⟨⟨0, (at0 (mk 16 [(0, 1, 10)]) []).setStr 0 { StreamX.fresh with host := true, prog := mk 16 [(0, 1, 10)], blocks := [blk0] }, by decide +kernel⟩,
   ⟨0, at0 (mk 16 [(0, 1, 10)]) [], by decide +kernel⟩,
   ⟨0, (at0 (mk 16 [(0, 1, 10)]) []).setStr 0 { StreamX.fresh with host := true, prog := mk 16 [(0, 1, 10)], confirm := [0] }, by decide +kernel⟩,
   ⟨0, 99, 0, (at0 (mk 16 [(0, 1, 10)]) []).setStr 0 { StreamX.fresh with host := true, prog := mk 16 [(0, 1, 10)], confirm := [99] }, by decide +kernel⟩,
   ⟨0, 99, 2, (at0 (mk 16 [(0, 1, 10)]) []).setStr 0 { StreamX.fresh with host := true, prog := mk 16 [(0, 1, 10)], confirm := [99] }, by decide +kernel⟩,
   ⟨0, 99, 3, (at0 (mk 16 [(0, 1, 10)]) []).setStr 0 { StreamX.fresh with host := true, prog := mk 16 [(0, 1, 10)], confirm := [99] }, by decide +kernel⟩,
   ⟨0, onMap { StreamX.fresh with host := true, prog := mk 16 [(0, 1, 10)], pend := [0] } [], by
    refine And.intro (by decide +kernel) (And.intro (by decide +kernel) (And.intro (by decide +kernel) ?_))
    have h : ∀ f ∈ (State.str (onMap { StreamX.fresh with host := true, prog := mk 16 [(0, 1, 10)], pend := [0] } []) 0).pend, f = 0 := by decide +kernel
    intro f hf; obtain rfl := h f hf
    exact ⟨by decide, Or.inr ⟨⟨1, 3, false, 0⟩, by decide +kernel, by decide +kernel⟩⟩⟩,
   ⟨0, (at0 (mk 16 [(0, 1, 10)]) []).setStr 0 { StreamX.fresh with host := true, prog := mk 16 [(0, 1, 10)], pend := [0] }, 0, by decide +kernel⟩⟩

theorem wit_MovexSkeins :
    (∃ (n : Fin 16384) (s : State) (ent : Option StashEnt), s.atOp n.val opMOVEX = true ∧ s.sst n.val ≠ ssWAIT ∧ 0 < fieldLe (s.unit n.val) 2 2 ∧ (s.str n.val).sk = none ∧ (s.beginMove n.val).roomFor n.val (s.skeinRanges n.val (if uFlag (s.unit n.val) 2 then 1 else 0) (s.moveEntry n.val 0).dst (s.moveEntry n.val 0).len (s.moveEntry n.val 0).mb) = true ∧ s.skeinEnt n.val (s.moveEntry n.val 0).mb (if uFlag (s.unit n.val) 2 then (s.moveEntry n.val 0).src else (s.moveEntry n.val 0).dst) (!uFlag (s.unit n.val) 2) = ent ∧ ((ent.isSome = true ∧ (uFlag (s.unit n.val) 2 = true ∨ (s.moveEntry n.val 0).len ≠ 0)) ∨ s.skeinEnts n.val (!uFlag (s.unit n.val) 2) = [])) ∧
    (∃ (n : Fin 16384) (s : State) (ent : Option StashEnt), s.atOp n.val opMOVEX = true ∧ s.sst n.val ≠ ssWAIT ∧ 0 < fieldLe (s.unit n.val) 2 2 ∧ (s.str n.val).sk = none ∧ (s.beginMove n.val).roomFor n.val (s.skeinRanges n.val (if uFlag (s.unit n.val) 2 then 1 else 0) (s.moveEntry n.val 0).dst (s.moveEntry n.val 0).len (s.moveEntry n.val 0).mb) = true ∧ s.skeinEnt n.val (s.moveEntry n.val 0).mb (if uFlag (s.unit n.val) 2 then (s.moveEntry n.val 0).src else (s.moveEntry n.val 0).dst) (!uFlag (s.unit n.val) 2) = ent ∧ ((ent.isSome = true ∧ (uFlag (s.unit n.val) 2 = true ∨ (s.moveEntry n.val 0).len ≠ 0)) ∨ s.skeinEnts n.val (!uFlag (s.unit n.val) 2) = [])) ∧
    (∃ (n : Fin 16384) (s : State) (ent : Option StashEnt), s.atOp n.val opMOVEX = true ∧ s.sst n.val ≠ ssWAIT ∧ 0 < fieldLe (s.unit n.val) 2 2 ∧ (s.str n.val).sk = none ∧ (s.beginMove n.val).roomFor n.val (s.skeinRanges n.val (if uFlag (s.unit n.val) 2 then 1 else 0) (s.moveEntry n.val 0).dst (s.moveEntry n.val 0).len (s.moveEntry n.val 0).mb) = true ∧ s.skeinEnt n.val (s.moveEntry n.val 0).mb (if uFlag (s.unit n.val) 2 then (s.moveEntry n.val 0).src else (s.moveEntry n.val 0).dst) (!uFlag (s.unit n.val) 2) = ent ∧ ((ent.isSome = true ∧ (uFlag (s.unit n.val) 2 = true ∨ (s.moveEntry n.val 0).len ≠ 0)) ∨ s.skeinEnts n.val (!uFlag (s.unit n.val) 2) = [])) ∧
    (∃ (n : Fin 16384) (s : State), s.atOp n.val opMOVEX = true ∧ s.sst n.val ≠ ssWAIT ∧ 0 < fieldLe (s.unit n.val) 2 2 ∧ (s.str n.val).sk = none ∧ (s.beginMove n.val).roomFor n.val (s.skeinRanges n.val (if uFlag (s.unit n.val) 2 then 1 else 0) (s.moveEntry n.val 0).dst (s.moveEntry n.val 0).len (s.moveEntry n.val 0).mb) = true ∧ fieldLe (s.unit n.val) 2 2 = 1 ∧ s.skeinEnts n.val (!uFlag (s.unit n.val) 2) ≠ [] ∧ s.skeinEnt n.val (s.moveEntry n.val 0).mb (if uFlag (s.unit n.val) 2 then (s.moveEntry n.val 0).src else (s.moveEntry n.val 0).dst) (!uFlag (s.unit n.val) 2) = none ∧ statusRank (s.rf (R.STREAM_RUN_STATUS n.val)) < statusRank stBAD_ARG) ∧
    (∃ (n : Fin 16384) (s : State), s.atOp n.val opMOVEX = true ∧ s.sst n.val ≠ ssWAIT ∧ 0 < fieldLe (s.unit n.val) 2 2 ∧ (s.str n.val).sk = none ∧ (s.beginMove n.val).roomFor n.val (s.skeinRanges n.val (if uFlag (s.unit n.val) 2 then 1 else 0) (s.moveEntry n.val 0).dst (s.moveEntry n.val 0).len (s.moveEntry n.val 0).mb) = false) ∧
    (∃ (n : Fin 16384) (s : State), s.atOp n.val opMOVEX = true ∧ s.sst n.val ≠ ssWAIT ∧ fieldLe (s.unit n.val) 2 2 = 0 ∧ s.slotless n.val = false) ∧
    (∃ (n : Fin 16384) (s : State), s.atOp n.val opMOVEX = true ∧ s.sst n.val ≠ ssWAIT ∧ fieldLe (s.unit n.val) 2 2 = 0 ∧ s.slotless n.val = true) ∧
    (∃ (n : Fin 16384) (s : State), s.atOp n.val opMOVEX = true ∧ s.sst n.val = ssWAIT ∧ fieldLe (s.unit n.val) 2 2 ≤ s.rf (R.STREAM_AD0_CURSOR n.val) ∧ s.slotless n.val = false) ∧
    (∃ (n : Fin 16384) (s : State), s.atOp n.val opMOVEX = true ∧ s.sst n.val = ssWAIT ∧ fieldLe (s.unit n.val) 2 2 ≤ s.rf (R.STREAM_AD0_CURSOR n.val) ∧ s.slotless n.val = true) :=
  ⟨⟨0, withList (mk 16 [(0, 1, 2), (2, 2, 1)]) [(R.STREAM_CTL_INFLIGHT 0, 1)], none, by decide +kernel⟩,
   ⟨0, withList (mk 16 [(0, 1, 2), (2, 2, 2)]) [(R.STREAM_CTL_INFLIGHT 0, 1)], none, by decide +kernel⟩,
   ⟨0, planAt (mk 16 [(0, 1, 2), (2, 2, 1)]) (mk 64 [(0, 8, 2 ^ 21), (8, 8, 2 ^ 22), (16, 5, 64)]) (mk 64 [(0, 2, 1), (4, 1, 2), (32, 6, 2 ^ 22)]) [(R.STREAM_CTL_INFLIGHT 0, 1)], some (stashEnt (mk 64 [(0, 2, 1), (4, 1, 2), (32, 6, 2 ^ 22)])), by decide +kernel⟩,
   ⟨0, planAt (mk 16 [(0, 1, 2), (2, 2, 1)]) (mk 64 [(0, 8, 2 ^ 21), (8, 8, 2 ^ 22), (16, 5, 64)]) (mk 64 [(0, 2, 1), (4, 1, 2), (32, 6, 2 ^ 23)]) [(R.STREAM_CTL_INFLIGHT 0, 1)], by decide +kernel⟩,
   ⟨0, withList (mk 16 [(0, 1, 2), (2, 2, 1)]) [], by decide +kernel⟩,
   ⟨0, at0 (mk 16 [(0, 1, 2)]) [], by decide +kernel⟩,
   ⟨0, (at0 (mk 16 [(0, 1, 2)]) [(R.STREAM_RUN_STATE 0, ssRUN)]).setStr 0 { StreamX.fresh with host := true, prog := mk 16 [(0, 1, 2)], sk := some sk0 }, by decide +kernel⟩,
   ⟨0, (at0 (mk 16 [(0, 1, 2)]) [(R.STREAM_RUN_STATE 0, ssWAIT)]).setStr 0 { StreamX.fresh with host := true, prog := mk 16 [(0, 1, 2)] }, by decide +kernel⟩,
   ⟨0, (at0 (mk 16 [(0, 1, 2)]) [(R.STREAM_RUN_STATE 0, ssWAIT)]).setStr 0 { StreamX.fresh with host := true, prog := mk 16 [(0, 1, 2)], sk := some sk0 }, by decide +kernel⟩⟩

theorem wit_SkeinSlots :
    (∃ (n : Fin 16384) (s : State) (u : State) (k : SkeinCtx) (l : Nat), (s.str n.val).sk = some k ∧ k.dir = 0 ∧ s.maySlot n.val = true ∧ s.sst n.val ≠ ssSTOPPING ∧ s.engineOf n.val 0 = some l ∧ s.skeinLines n.val k = [] ∧ k.profile ≠ 1 ∧ k.header.refKind = 0 ∧ k.stash = none ∧ k.len ≠ 0 ∧ s.lacks n.val k [((k.src + 65536 * k.block) % 2 ^ 52, blockRaw k.len k.block)] = false ∧ s.slotState n.val k = some u ∧ k.block + 1 < blockCount k.len) ∧
    (∃ (n : Fin 16384) (s : State) (u : State) (k : SkeinCtx) (l : Nat), (s.str n.val).sk = some k ∧ k.dir = 0 ∧ s.maySlot n.val = true ∧ s.sst n.val ≠ ssSTOPPING ∧ s.engineOf n.val 0 = some l ∧ s.skeinLines n.val k = [] ∧ k.profile ≠ 1 ∧ k.header.refKind = 0 ∧ k.stash = none ∧ k.len ≠ 0 ∧ s.lacks n.val k [((k.src + 65536 * k.block) % 2 ^ 52, blockRaw k.len k.block)] = false ∧ s.slotState n.val k = some u ∧ blockCount k.len ≤ k.block + 1) ∧
    (∃ (n : Fin 16384) (s : State) (u : State) (k : SkeinCtx), (s.str n.val).sk = some k ∧ k.dir = 0 ∧ s.maySlot n.val = true ∧ s.sst n.val ≠ ssSTOPPING ∧ (s.engineOf n.val 0).isSome = true ∧ s.skeinLines n.val k = [] ∧ k.profile ≠ 1 ∧ k.stash = none ∧ k.len = 0 ∧ s.slotState n.val k = some u) ∧
    (∃ (n : Fin 16384) (s : State) (u : State) (k : SkeinCtx) (x : State × SkeinCtx) (g : Got) (gp : Got) (l : List Byte), (s.str n.val).sk = some k ∧ k.dir = 1 ∧ s.maySlot n.val = true ∧ s.sst n.val ≠ ssSTOPPING ∧ (s.engineOf n.val 1).isSome = true ∧ s.skeinLines n.val k = [] ∧ k.lost = false ∧ k.headed = true ∧ k.stash = none ∧ isPort k.dst = false ∧ k.profile ≠ 1 ∧ k.profile ≠ 3 ∧ s.slotState n.val k = some u ∧ u.enterEng n.val k = x ∧ x.1.skRead n.val x.2 k.coded 32 = some g ∧ loses g.data k.block (blockRaw k.len k.block) = false ∧ x.1.lacks n.val x.2 [(x.1.skAddr k (k.coded + 32), fieldLe (g.data.map (·.1)) 8 4)] = false ∧ g.st.readFor n.val k.seq (x.1.skAddr k (k.coded + 32)) (fieldLe (g.data.map (·.1)) 8 4) k.asked k.have_ = gp ∧ blockIntact g.data gp.data = true ∧ decodePlain (g.data.map (·.1)) (gp.data.map (·.1)) [] k.width k.block (blockRaw k.len k.block) = some l ∧ blockCount k.len ≤ k.block + 1) ∧
    (∃ (n : Fin 16384) (s : State) (u : State) (k : SkeinCtx) (x : State × SkeinCtx), (s.str n.val).sk = some k ∧ k.dir = 1 ∧ s.maySlot n.val = true ∧ s.sst n.val ≠ ssSTOPPING ∧ (s.engineOf n.val 1).isSome = true ∧ s.skeinLines n.val k = [] ∧ k.lost = true ∧ isPort k.dst = false ∧ s.slotState n.val k = some u ∧ u.enterEng n.val k = x ∧ k.profile ≠ 1 ∧ k.block + 1 < blockCount k.len) ∧
    (∃ (n : Fin 16384) (s : State) (u : State) (k : SkeinCtx) (x : State × SkeinCtx), (s.str n.val).sk = some k ∧ k.dir = 1 ∧ s.maySlot n.val = true ∧ s.sst n.val ≠ ssSTOPPING ∧ (s.engineOf n.val 1).isSome = true ∧ s.skeinLines n.val k = [] ∧ k.lost = true ∧ isPort k.dst = false ∧ s.slotState n.val k = some u ∧ u.enterEng n.val k = x ∧ k.profile ≠ 1 ∧ blockCount k.len ≤ k.block + 1) :=
  ⟨⟨0, onMap { StreamX.fresh with host := true, sk := some { sk0 with len := 65537 } } [], onMap { StreamX.fresh with host := true, sk := some { sk0 with len := 65537 } } [], { sk0 with len := 65537 }, 0, by
    repeat' apply And.intro
    all_goals first | decide +kernel | exact slotState_host _ _ _ (by decide +kernel) (by decide +kernel)⟩,
   ⟨0, onMap { StreamX.fresh with host := true, sk := some { sk0 with len := 65536 } } [], onMap { StreamX.fresh with host := true, sk := some { sk0 with len := 65536 } } [], { sk0 with len := 65536 }, 0, by
    repeat' apply And.intro
    all_goals first | decide +kernel | exact slotState_host _ _ _ (by decide +kernel) (by decide +kernel)⟩,
   ⟨0, onMap { StreamX.fresh with host := true, sk := some sk0 } [], onMap { StreamX.fresh with host := true, sk := some sk0 } [], sk0, by
    repeat' apply And.intro
    all_goals first | decide +kernel | exact slotState_host _ _ _ (by decide +kernel) (by decide +kernel)⟩,
   ⟨0, coded0, coded0, skIn, coded0.enterEng 0 skIn, got0, got1, [1, 2, 3, 4], by
    iterate 12 refine And.intro (by decide +kernel) ?_
    refine And.intro (slotState_host _ _ _ (by decide +kernel) (by decide +kernel)) (And.intro rfl (And.intro (Option.some_get _).symm ?_))
    iterate 2 refine And.intro (by decide +kernel) ?_
    exact And.intro rfl (by decide +kernel)⟩,
   ⟨0, onMap { StreamX.fresh with host := true, sk := some { sk0 with dir := 1, len := 65537, lost := true } } [], onMap { StreamX.fresh with host := true, sk := some { sk0 with dir := 1, len := 65537, lost := true } } [], { sk0 with dir := 1, len := 65537, lost := true }, ((onMap { StreamX.fresh with host := true, sk := some { sk0 with dir := 1, len := 65537, lost := true } } []).enterEng 0 ({ sk0 with dir := 1, len := 65537, lost := true })), by
    repeat' apply And.intro
    all_goals first | decide +kernel | exact slotState_host _ _ _ (by decide +kernel) (by decide +kernel) | rfl⟩,
   ⟨0, onMap { StreamX.fresh with host := true, sk := some { sk0 with dir := 1, len := 1, lost := true } } [], onMap { StreamX.fresh with host := true, sk := some { sk0 with dir := 1, len := 1, lost := true } } [], { sk0 with dir := 1, len := 1, lost := true }, ((onMap { StreamX.fresh with host := true, sk := some { sk0 with dir := 1, len := 1, lost := true } } []).enterEng 0 ({ sk0 with dir := 1, len := 1, lost := true })), by
    repeat' apply And.intro
    all_goals first | decide +kernel | exact slotState_host _ _ _ (by decide +kernel) (by decide +kernel) | rfl⟩⟩

theorem wit_FlashFormat :
    (∃ (v : BitVec 64) (s : State), s.reach .host = true ∧ (let u := s.regWrite 0x380020 (Wr.full .host (v ||| 1).toNat); u.formatOk = true)) ∧
    (∃ (v : BitVec 64) (s : State), s.reach .host = true ∧ (let u := s.regWrite 0x380020 (Wr.full .host (v ||| 1).toNat); u.formatOk = false)) ∧
    (∃ (s : State), s.rf R.FTL_FORMAT_BUSY = 1 ∧ s.ftl.slow = false) ∧
    (∃ (s : State), s.rf R.FTL_FORMAT_BUSY = 1 ∧ s.ftl.slow = true) :=
  ⟨⟨0#64, up [(R.FTL_STATUS_STATE, 1)], by decide +kernel⟩,
   ⟨0#64, up [], by decide +kernel⟩,
   ⟨up [(R.FTL_FORMAT_BUSY, 1)], by decide +kernel⟩,
   ⟨{ up [(R.FTL_FORMAT_BUSY, 1)] with ftl := { FlashSt.reset with slow := true } }, by decide +kernel⟩⟩

theorem wit_DieReadWrite :
    (∃ (p : Fin 4) (tag : Nat) (a : BitVec 64) (n : Nat) (s : State), s.portUp p.val = true ∧ (s.port p.val).queue = [] ∧ (s.port p.val).facks = [] ∧ s.overCredit p.val 0 = false ∧ tag < 4096 ∧ n ≤ 4096 ∧ crosses4k (a.toNat % 2 ^ 52) n = false ∧ s.dieBound = false ∧ (let oa := a.toNat % 2 ^ 52; let g := s.readOA .die oa n; 0 < n ∧ g.refused = false)) ∧
    (∃ (p : Fin 4) (tag : Nat) (a : BitVec 64) (n : Nat) (s : State), s.portUp p.val = true ∧ (s.port p.val).queue = [] ∧ (s.port p.val).facks = [] ∧ s.overCredit p.val 0 = false ∧ tag < 4096 ∧ n ≤ 4096 ∧ crosses4k (a.toNat % 2 ^ 52) n = false ∧ s.dieBound = false ∧ (let oa := a.toNat % 2 ^ 52; let g := s.readOA .die oa n; 0 < n ∧ g.refused = true)) ∧
    (∃ (p : Fin 4) (tag : Nat) (a : BitVec 64) (n : Nat) (s : State), s.portUp p.val = true ∧ (s.port p.val).queue = [] ∧ (s.port p.val).facks = [] ∧ s.overCredit p.val 0 = false ∧ tag < 4096 ∧ n ≤ 4096 ∧ crosses4k (a.toNat % 2 ^ 52) n = false ∧ s.dieBound = false ∧ n = 0) ∧
    (∃ (p : Fin 4) (tag : Nat) (a : BitVec 64) (n : Nat) (s : State), s.ports.length = 4 ∧ s.portUp p.val = true ∧ (s.port p.val).queue = [] ∧ (s.port p.val).facks = [] ∧ s.overCredit p.val 0 = false ∧ tag < 4096 ∧ 0 < n ∧ n ≤ 4096 ∧ crosses4k (a.toNat % 2 ^ 52) n = false ∧ s.dieBound = true ∧ (let oa := a.toNat % 2 ^ 52; let r : DieReq := ⟨0, tag, oa, n, 0, [], [], 0, false⟩; let plan := s.slots.claim (s.port p.val).used s.planTick (s.dieLoad p.val r); plan = none)) ∧
    (∃ (p : Fin 4) (tag : Nat) (a : BitVec 64) (n : Nat) (s : State) (c : List (Nat × Nat) × Nat), s.ports.length = 4 ∧ s.portUp p.val = true ∧ (s.port p.val).queue = [] ∧ (s.port p.val).facks = [] ∧ s.overCredit p.val 0 = false ∧ tag < 4096 ∧ 0 < n ∧ n ≤ 4096 ∧ crosses4k (a.toNat % 2 ^ 52) n = false ∧ s.dieBound = true ∧ (let oa := a.toNat % 2 ^ 52; let r : DieReq := ⟨0, tag, oa, n, 0, [], [], 0, false⟩; let plan := s.slots.claim (s.port p.val).used s.planTick (s.dieLoad p.val r); plan = some c ∧ (s.paused = true ∨ (s.planTick / 32 + 1) * 32 ≤ c.2))) ∧
    (∃ (p : Fin 4) (tag : Nat) (a : BitVec 64) (n : Nat) (s : State) (c : List (Nat × Nat) × Nat), s.ports.length = 4 ∧ s.portUp p.val = true ∧ (s.port p.val).queue = [] ∧ (s.port p.val).facks = [] ∧ s.overCredit p.val 0 = false ∧ tag < 4096 ∧ 0 < n ∧ n ≤ 4096 ∧ crosses4k (a.toNat % 2 ^ 52) n = false ∧ s.dieBound = true ∧ (let oa := a.toNat % 2 ^ 52; let r : DieReq := ⟨0, tag, oa, n, 0, [], [], 0, false⟩; let plan := s.slots.claim (s.port p.val).used s.planTick (s.dieLoad p.val r); let v := ((s.serveDue p.val).setPort p.val { s.port p.val with used := c.1 }).toTick c.2; plan = some c ∧ s.paused = false ∧ c.2 < (s.planTick / 32 + 1) * 32 ∧ (v.readOA .die oa n).refused = false)) ∧
    (∃ (p : Fin 4) (a : BitVec 64) (data : List Byte) (marks : List Bool) (s : State), s.portUp p.val = true ∧ (s.port p.val).queue = [] ∧ (s.port p.val).facks = [] ∧ s.overCredit p.val (granuleCount (a.toNat % 2 ^ 52) data.length) = false ∧ data.length ≤ 4096 ∧ crosses4k (a.toNat % 2 ^ 52) data.length = false ∧ marks.length ≤ granuleCount (a.toNat % 2 ^ 52) data.length ∧ s.dieBound = false ∧ (let oa := a.toNat % 2 ^ 52; let n := granuleCount oa data.length; let u := ((s.countIn p.val n).markedIn p.val (marks.take n)).returnCr p.val 1 n 0; let mine := (pageSpans oa data.length).any (fun sp => u.pageOwner sp.1 != 3 || u.pagePort sp.1 != some p.val); mine = false ∧ u.dieRefusal oa data.length = none)) ∧
    (∃ (p : Fin 4) (a : BitVec 64) (data : List Byte) (marks : List Bool) (s : State) (why : Refused) (at_ : Nat), s.portUp p.val = true ∧ (s.port p.val).queue = [] ∧ (s.port p.val).facks = [] ∧ s.overCredit p.val (granuleCount (a.toNat % 2 ^ 52) data.length) = false ∧ data.length ≤ 4096 ∧ crosses4k (a.toNat % 2 ^ 52) data.length = false ∧ marks.length ≤ granuleCount (a.toNat % 2 ^ 52) data.length ∧ s.dieBound = false ∧ (let oa := a.toNat % 2 ^ 52; let n := granuleCount oa data.length; let u := ((s.countIn p.val n).markedIn p.val (marks.take n)).returnCr p.val 1 n 0; let mine := (pageSpans oa data.length).any (fun sp => u.pageOwner sp.1 != 3 || u.pagePort sp.1 != some p.val); mine = false ∧ u.dieRefusal oa data.length = some (why, at_))) ∧
    (∃ (p : Fin 4) (a : BitVec 64) (data : List Byte) (marks : List Bool) (s : State), s.portUp p.val = true ∧ (s.port p.val).queue = [] ∧ (s.port p.val).facks = [] ∧ s.overCredit p.val (granuleCount (a.toNat % 2 ^ 52) data.length) = false ∧ data.length ≤ 4096 ∧ crosses4k (a.toNat % 2 ^ 52) data.length = false ∧ marks.length ≤ granuleCount (a.toNat % 2 ^ 52) data.length ∧ s.dieBound = false ∧ (let oa := a.toNat % 2 ^ 52; let n := granuleCount oa data.length; let u := ((s.countIn p.val n).markedIn p.val (marks.take n)).returnCr p.val 1 n 0; let mine := (pageSpans oa data.length).any (fun sp => u.pageOwner sp.1 != 3 || u.pagePort sp.1 != some p.val); mine = true)) :=
  ⟨⟨0, 4095, 0xFFF#64, 1, mapped [(R.CDP_STATUS_STATE 0, 3)], by decide +kernel⟩,
   ⟨3, 0, 0#64, 4096, up [(R.CDP_STATUS_STATE 3, 3)], by decide +kernel⟩,
   ⟨3, 0, 0#64, 0, up [(R.CDP_STATUS_STATE 3, 3)], by decide +kernel⟩,
   ⟨0, 5, 0x200000#64, 1, run [(R.CDP_STATUS_STATE 0, 3)], by decide +kernel⟩,
   ⟨0, 5, 0x200000#64, 1, diePaused, (dieClaim diePaused).get (by decide +kernel), by decide +kernel⟩,
   ⟨0, 5, 0x200000#64, 1, dieState, (dieClaim dieState).get (by decide +kernel), by decide +kernel⟩,
   ⟨0, 0x200000#64, [1, 2], [true], owned 3 (mapped [(R.CDP_STATUS_STATE 0, 3)]), by decide +kernel⟩,
   ⟨0, 0x200000#64, [1], [], owned 3 (up [(R.CDP_STATUS_STATE 0, 3)]), .unmapped, 0x200000, by decide +kernel⟩,
   ⟨0, 0#64, [1], [], mapped [(R.CDP_STATUS_STATE 0, 3)], by decide +kernel⟩⟩

theorem wit_CommandsComplete :
    (∃ (off : BitVec 24) (f : Fld) (s : State), s.reach .host = true ∧ f.off = off.toNat ∧ (f = R.TIER_MAP_OA_PAGE ∨ f = R.TIER_POOL_LOW ∨ (∃ m : Fin 64, f = R.TIER_PEER_VALID m.val ∨ f = R.TIER_PEER_PAGES m.val ∨ f = R.TIER_PEER_BASE m.val) ∨ (∃ k : Fin 2048, f = R.MSIX_ADDR_ADDR k.val) ∨ (∃ k : Fin 8192, f = R.CXL_COMP_VALUE k.val))) ∧
    (∃ (off : BitVec 24) (f : Fld) (s : State), s.reach .host = true ∧ f.off = off.toNat ∧ (f = R.TIER_MAP_OA_PAGE ∨ f = R.TIER_POOL_LOW ∨ (∃ m : Fin 64, f = R.TIER_PEER_VALID m.val ∨ f = R.TIER_PEER_PAGES m.val ∨ f = R.TIER_PEER_BASE m.val) ∨ (∃ k : Fin 2048, f = R.MSIX_ADDR_ADDR k.val) ∨ (∃ k : Fin 8192, f = R.CXL_COMP_VALUE k.val))) ∧
    (∃ (off : BitVec 24) (f : Fld) (s : State), s.reach .host = true ∧ f.off = off.toNat ∧ (f = R.TIER_MAP_OA_PAGE ∨ f = R.TIER_POOL_LOW ∨ (∃ m : Fin 64, f = R.TIER_PEER_VALID m.val ∨ f = R.TIER_PEER_PAGES m.val ∨ f = R.TIER_PEER_BASE m.val) ∨ (∃ k : Fin 2048, f = R.MSIX_ADDR_ADDR k.val) ∨ (∃ k : Fin 8192, f = R.CXL_COMP_VALUE k.val))) ∧
    (∃ (off : BitVec 24) (f : Fld) (s : State), s.reach .host = true ∧ f.off = off.toNat ∧ (f = R.TIER_MAP_OA_PAGE ∨ f = R.TIER_POOL_LOW ∨ (∃ m : Fin 64, f = R.TIER_PEER_VALID m.val ∨ f = R.TIER_PEER_PAGES m.val ∨ f = R.TIER_PEER_BASE m.val) ∨ (∃ k : Fin 2048, f = R.MSIX_ADDR_ADDR k.val) ∨ (∃ k : Fin 8192, f = R.CXL_COMP_VALUE k.val))) ∧
    (∃ (off : BitVec 24) (f : Fld) (v : BitVec 64) (s : State), s.reach .host = true ∧ f.off = off.toNat ∧ (f = R.TIER_ERR_PEER_REFUSED ∨ f = R.FTL_ERR_UNCORRECTABLE ∨ f = R.SYNC_ERR_UNEXPECTED ∨ (∃ p : Fin 36, f = R.CLU_ERR_REPLAYED p.val) ∨ (∃ p : Fin 72, f = R.SKEIN_ERR_BLOCK_FAIL p.val) ∨ (∃ p : Fin 4, f = R.CDP_ERR_HELLO_FAIL p.val)) ∧ v.toNat.testBit f.lo = true ∧ s.rf f = 1) ∧
    (∃ (off : BitVec 24) (f : Fld) (v : BitVec 64) (s : State), s.reach .host = true ∧ f.off = off.toNat ∧ (f = R.TIER_ERR_PEER_REFUSED ∨ f = R.FTL_ERR_UNCORRECTABLE ∨ f = R.SYNC_ERR_UNEXPECTED ∨ (∃ p : Fin 36, f = R.CLU_ERR_REPLAYED p.val) ∨ (∃ p : Fin 72, f = R.SKEIN_ERR_BLOCK_FAIL p.val) ∨ (∃ p : Fin 4, f = R.CDP_ERR_HELLO_FAIL p.val)) ∧ v.toNat.testBit f.lo = false ∧ s.rf f < 2) ∧
    (∃ (u : BitVec 16) (use : Nat) (s : State), s.pwr.off = false ∧ 2 ≤ s.rf R.PWR_STATE_STATE ∧ s.pwr.awake.contains u.toNat = false ∧ s.nextUse u.toNat = some use) ∧
    (∃ (u : BitVec 16) (s : State), s.pwr.off = false ∧ s.mayGate u.toNat = true) ∧
    (∃ (e : Nat) (s : State) (ce : CluEntry) (us : List Nat), s.chunkEntry e = some ce ∧ s.planRuns = true ∧ s.clu.left.contains e = true ∧ s.spanUnits ce.first (fieldLe s.updProg 6 1) = some us) ∧
    (∃ (e : Nat) (s : State) (ce : CluEntry) (us : List Nat), s.chunkEntry e = some ce ∧ s.planRuns = true ∧ (s.clu.running.any fun p => p.1 == e) = true ∧ s.spanUnits ce.first (fieldLe s.updProg 6 1) = some us ∧ s.groupExtent (uGroup s.updProg ce.tensor).group ≠ 0 ∧ s.overdueUnit us (s.cluAt ce.start + s.cycleTicks (updCycles (fieldLe s.updProg 6 1) (uGroup s.updProg ce.tensor) ce.slice)) = none) ∧
    (∃ (a : Nat) (s : State), s.planRuns = true ∧ s.inStep = true ∧ leastBy (fun x => (accDesc s.updProg x).clear) ((upTo (fieldLe s.updProg 0 2)).filter (fun x => (accDesc s.updProg x).clear != 0 && !s.upd.cleared.contains x)) = some a) ∧
    (∃ (n : Fin 16384) (s : State), s.atOp n.val opWAITPACE = true ∧ (fieldLe (s.unit n.val) 2 2 : Int) ≤ s.paceDiff n.val) ∧
    (∃ (n : Fin 16384) (s : State), s.atOp n.val opWAITSEM = true ∧ s.semPasses n.val = true) ∧
    (∃ (n : Fin 16384) (s : State), s.atOp n.val opWAITSEM = true ∧ s.rf (R.STREAM_RUN_WAIT n.val) = wtSEM ∧ s.semPasses n.val = true) ∧
    (∃ (s : State), s.pwr.off = false ∧ s.inPlan = true) ∧
    (∃ (s : State), s.pwr.off = false ∧ s.inPlan = true ∧ s.fault.pauseEnd = none ∧ s.fault.peerPause = false ∧ 0 < s.fault.pauseWant) ∧
    (∃ (e : Nat) (s : State), s.fault.pauseEnd = some e ∧ (∀ p : Fin 4, s.rf (R.CDP_STATUS_STATE p.val) ≠ 5) ∧ s.peerWaits = false) ∧
    (∃ (s : State), s.pwr.off = false ∧ s.inPlan = false) ∧
    (∃ (s : State), s.reach .host = true ∧ (s.inStep || s.step.figDue) = false) ∧
    (∃ (s : State), s.reach .host = true) ∧
    (∃ (v : BitVec 64) (e : Ent) (s : State), s.reach .host = true ∧ s.rf R.TIER_BIAS_CMD_BUSY ≠ 1 ∧ s.entOf (bitsOf v.toNat 21 31) = some e ∧ e.cache = true ∧ s.pageOwner (bitsOf v.toNat 21 31) = 1) ∧
    (∃ (page : Nat) (up : Bool) (s : State) (e : Ent), s.tier.biasCmd = some (page, up) ∧ (up = true → s.hostBlockAt page = false) ∧ (up = false → (s.tier.waitLine.any fun l => l / 32768 == page) = false) ∧ s.entOf page = some e ∧ s.rf R.TIER_STATUS_MODE = 1 ∧ e.page < 253952) ∧
    (∃ (page : Nat) (up : Bool) (s : State) (e : Ent), s.tier.biasCmd = some (page, up) ∧ (up = true → s.hostBlockAt page = false) ∧ (up = false → (s.tier.waitLine.any fun l => l / 32768 == page) = false) ∧ s.entOf page = some e ∧ s.rf R.TIER_STATUS_MODE = 1 ∧ e.page < 253952) ∧
    (∃ (s : State), 2 ≤ s.rf R.PWR_STATE_STATE) ∧
    (∃ (l : BitVec 64) (s : State), s.tier.waitLine.contains l.toNat = true ∧ (∀ n ∈ s.usedCtx, s.sst n ≠ ssSTOPPING)) ∧
    (∃ (l : List Int) (s : State), s.pwr.off = false ∧ l.length = 64 ∧ s.phaseLegal) ∧
    (∃ (s : State), s.reach .mgmt = true ∧ s.phaseLegal ∧ s.rf R.PWR_STATE_STATE = 3) ∧
    (∃ (s : State), s.pwr.off = false ∧ 2 ≤ s.rf R.PWR_STATE_STATE) ∧
    (∃ (s : State), s.pwr.off = false ∧ s.rf R.PWR_CLOCK_SWITCH_AT ≠ 0) ∧
    (∃ (s : State), s.pwr.off = false) ∧
    (∃ (off : BitVec 24) (s : State), s.reach .mgmt = true ∧ off.toNat % 8 = 0 ∧ off.toNat < 0x800000) ∧
    (∃ (q : Fin 64) (e : List Byte) (s : State), s.linkUp = true ∧ s.nextQueue = some q.val ∧ fieldLe e 0 1 = 0 ∧ s.queueSettled q.val) ∧
    (∃ (q : Fin 64) (e : List Byte) (s : State), s.linkUp = true ∧ s.nextQueue = some q.val ∧ 5 ≤ fieldLe e 0 1 ∧ s.queueSettled q.val) ∧
    (∃ (q : Fin 64) (e : List Byte) (s : State), s.linkUp = true ∧ s.nextQueue = some q.val ∧ fieldLe e 0 1 = 3 ∧ s.queueSettled q.val) ∧
    (∃ (q : Fin 64) (e : List Byte) (s : State), s.linkUp = true ∧ s.nextQueue = some q.val ∧ fieldLe e 0 1 = 4 ∧ s.queueSettled q.val ∧ (cmdHeaderOk e && allZero e 0x10 48) = false) ∧
    (∃ (q : Fin 64) (e : List Byte) (s : State), s.linkUp = true ∧ s.nextQueue = some q.val ∧ fieldLe e 0 1 = 4 ∧ s.queueSettled q.val ∧ (cmdHeaderOk e && allZero e 0x10 48) = true ∧ (∀ c ∈ s.host.taken, c.q ≠ q.val)) ∧
    (∃ (q : Fin 64) (e : List Byte) (s : State), s.linkUp = true ∧ s.nextQueue = some q.val ∧ fieldLe e 0 1 = 4 ∧ s.queueSettled q.val ∧ (cmdHeaderOk e && allZero e 0x10 48) = true ∧ (∃ c ∈ s.host.taken, c.q = q.val)) :=
  ⟨⟨0x300038#24, R.TIER_POOL_LOW, up [], by decide +kernel, by decide +kernel, Or.inr (Or.inl rfl)⟩,
   ⟨0x3011F8#24, R.TIER_PEER_BASE 63, up [], by decide +kernel, by decide +kernel, Or.inr (Or.inr (Or.inl ⟨63, Or.inr (Or.inr rfl)⟩))⟩,
   ⟨0x20FFF0#24, R.MSIX_ADDR_ADDR 2047, up [], by decide +kernel, by decide +kernel, Or.inr (Or.inr (Or.inr (Or.inl ⟨2047, rfl⟩)))⟩,
   ⟨0x227FF8#24, R.CXL_COMP_VALUE 8191, up [], by decide +kernel, by decide +kernel, Or.inr (Or.inr (Or.inr (Or.inr ⟨8191, rfl⟩)))⟩,
   ⟨0x423028#24, R.CLU_ERR_REPLAYED 35, 4#64, up [(R.CLU_ERR_REPLAYED 35, 1)], by decide +kernel, by decide +kernel, Or.inr (Or.inr (Or.inr (Or.inl ⟨35, rfl⟩))), by decide +kernel, by decide +kernel⟩,
   ⟨0x503040#24, R.CDP_ERR_HELLO_FAIL 3, 0#64, up [(R.CDP_ERR_HELLO_FAIL 3, 1)], by decide +kernel, by decide +kernel, Or.inr (Or.inr (Or.inr (Or.inr (Or.inr ⟨3, rfl⟩)))), by decide +kernel, by decide +kernel⟩,
   ⟨0x1000#16, 10, segState [0] [], by decide +kernel⟩,
   ⟨0x7000#16, up [], by decide +kernel⟩,
   ⟨1, segState [0, 1, 2] [], cluEntry sch0 1, [0], by decide +kernel⟩,
   ⟨1, sharded (segState [] [(0, 10), (1, 20)]), cluEntry sch0 1, [0], by decide +kernel⟩,
   ⟨0, run [], by decide +kernel⟩,
   ⟨0, at0 (mk 16 [(0, 1, 6), (2, 2, 1)]) [(R.STREAM_RUN_PACE_RECV 0, 1)], by decide +kernel⟩,
   ⟨0, at0 (mk 16 [(0, 1, 7)]) [], by decide +kernel⟩,
   ⟨0, at0 (mk 16 [(0, 1, 7)]) [(R.STREAM_RUN_WAIT 0, 3)], by decide +kernel⟩,
   ⟨run [], by decide +kernel⟩,
   ⟨{ run [] with fault := { FaultSt.reset with pauseWant := 1 } }, by decide +kernel⟩,
   ⟨5, { up [] with fault := { FaultSt.reset with pauseEnd := some 5 } }, by decide +kernel⟩,
   ⟨up [], by decide +kernel⟩,
   ⟨up [], by decide +kernel⟩,
   ⟨up [], by decide +kernel⟩,
   ⟨0x200000#64, ⟨1, 3, true, 1⟩, owned 1 (mapped [(R.TIER_DIR_HOSTCACHE 0, 1)]), by decide +kernel⟩,
   ⟨1, true, { mapped [(R.TIER_STATUS_MODE, 1)] with tier := { TierSt.reset with biasCmd := some (1, true) } }, ⟨1, 3, false, 1⟩, by decide +kernel⟩,
   ⟨1, false, { mapped [(R.TIER_STATUS_MODE, 1)] with tier := { TierSt.reset with biasCmd := some (1, false) } }, ⟨1, 3, false, 1⟩, by decide +kernel⟩,
   ⟨up [], by decide +kernel⟩,
   ⟨5#64, { up [] with tier := { TierSt.reset with waitLine := [5] } }, by decide +kernel⟩,
   ⟨List.replicate 64 40, up [], by unfold State.phaseLegal; decide +kernel⟩,
   ⟨run [], by unfold State.phaseLegal; decide +kernel⟩,
   ⟨up [], by decide +kernel⟩,
   ⟨up [(R.PWR_CLOCK_SWITCH_AT, 1)], by decide +kernel⟩,
   ⟨up [], by decide +kernel⟩,
   ⟨0x7FFFF8#24, State.reset, by decide +kernel⟩,
   ⟨0, List.replicate 256 0, queueUp [], by unfold State.queueSettled; decide +kernel⟩,
   ⟨0, mk 256 [(0, 1, 5)], queueUp [], by unfold State.queueSettled; decide +kernel⟩,
   ⟨0, mk 256 [(0, 1, 3), (8, 1, 4)], queueUp [], by unfold State.queueSettled; decide +kernel⟩,
   ⟨0, mk 256 [(0, 1, 4), (16, 1, 1)], queueUp [], by unfold State.queueSettled; decide +kernel⟩,
   ⟨0, mk 256 [(0, 1, 4)], queueUp [], by unfold State.queueSettled; decide +kernel⟩,
   ⟨0, mk 256 [(0, 1, 4)], { queueUp [] with host := { (queueUp []).host with taken := [⟨0, 1, 0, 0, 0⟩] } }, by unfold State.queueSettled; decide +kernel⟩⟩

theorem wit_PaceAndSemaphoreWaits :
    (∃ (n : Fin 16384) (s : State), s.atOp n.val opWAITPACE = true ∧ s.WellKept ∧ (let k := fieldLe (s.unit n.val) 2 2; let room := s.paceDiff n.val + (s.rf (R.STREAM_CTL_RUN_AHEAD n.val) * s.rf (R.STREAM_CTL_TILE_BURSTS n.val) : Nat); let p := s.rf (R.STREAM_TIME_PACE n.val) / 16384; (k : Int) ≤ room ∧ s.portUp p = true)) ∧
    (∃ (n : Fin 16384) (s : State), s.atOp n.val opWAITPACE = true ∧ s.WellKept ∧ (let k := fieldLe (s.unit n.val) 2 2; let room := s.paceDiff n.val + (s.rf (R.STREAM_CTL_RUN_AHEAD n.val) * s.rf (R.STREAM_CTL_TILE_BURSTS n.val) : Nat); let p := s.rf (R.STREAM_TIME_PACE n.val) / 16384; (k : Int) ≤ room ∧ s.portUp p = false)) ∧
    (∃ (n : Fin 16384) (s : State), s.atOp n.val opWAITPACE = true ∧ s.WellKept ∧ (let k := fieldLe (s.unit n.val) 2 2; let room := s.paceDiff n.val + (s.rf (R.STREAM_CTL_RUN_AHEAD n.val) * s.rf (R.STREAM_CTL_TILE_BURSTS n.val) : Nat); room < (k : Int))) ∧
    (∃ (n : Fin 16384) (s : State), s.atOp n.val opWAITSEM = true ∧ s.semPasses n.val = true ∧ (let u := s.unit n.val; (uFlag u 0 = false ∨ s.semBad n.val (fieldLe u 8 8) ≠ none) ∧ (s.rf (R.STREAM_RUN_WAIT n.val) = wtSEM ∨ s.semBad n.val (fieldLe u 8 8) = none))) ∧
    (∃ (n : Fin 16384) (s : State), s.atOp n.val opWAITSEM = true ∧ s.semPasses n.val = true ∧ (let u := s.unit n.val; uFlag u 0 = true ∧ s.semBad n.val (fieldLe u 8 8) = none ∧ (s.rf (R.STREAM_RUN_WAIT n.val) = wtSEM ∨ s.semBad n.val (fieldLe u 8 8) = none))) ∧
    (∃ (n : Fin 16384) (s : State), s.atOp n.val opWAITSEM = true ∧ s.semPasses n.val = true ∧ (let u := s.unit n.val; (uFlag u 0 = false ∨ s.semBad n.val (fieldLe u 8 8) ≠ none))) ∧
    (∃ (n : Fin 16384) (s : State), s.atOp n.val opWAITSEM = true ∧ s.semPasses n.val = false ∧ (let oa := fieldLe (s.unit n.val) 8 8; (s.rf (R.STREAM_RUN_WAIT n.val) = wtSEM ∨ s.semBad n.val oa = none))) ∧
    (∃ (n : Fin 16384) (s : State) (why : Refused), s.atOp n.val opWAITSEM = true ∧ s.semPasses n.val = false ∧ (let oa := fieldLe (s.unit n.val) 8 8; s.rf (R.STREAM_RUN_WAIT n.val) ≠ wtSEM ∧ s.semBad n.val oa = some why ∧ why = .unmapped)) ∧
    (∃ (n : Fin 16384) (s : State), s.atOp n.val opWAITSEM = true ∧ s.rf (R.STREAM_RUN_WAIT n.val) = wtSEM ∧ s.semPasses n.val = true ∧ (let u := s.unit n.val; (uFlag u 0 = false ∨ s.semBad n.val (fieldLe u 8 8) ≠ none))) ∧
    (∃ (n : Fin 16384) (s : State), s.atOp n.val opWAITSEM = true ∧ s.rf (R.STREAM_RUN_WAIT n.val) = wtSEM ∧ s.semPasses n.val = true ∧ (let u := s.unit n.val; uFlag u 0 = true ∧ s.semBad n.val (fieldLe u 8 8) = none)) ∧
    (∃ (n : Fin 16384) (s : State), s.atOp n.val opWAITSEM = true ∧ s.rf (R.STREAM_RUN_WAIT n.val) = wtSEM ∧ s.semPasses n.val = true ∧ (let u := s.unit n.val; (uFlag u 0 = false ∨ s.semBad n.val (fieldLe u 8 8) ≠ none))) :=
  ⟨⟨0, at0 (mk 16 [(0, 1, 6), (2, 2, 1)]) [(R.STREAM_RUN_PACE_RECV 0, 1), (R.CDP_STATUS_STATE 0, 3)], by decide +kernel, ⟨by decide +kernel, by decide +kernel, by decide +kernel, by unfold State.phaseLegal; decide +kernel, by unfold State.powerLegal; decide +kernel⟩, by decide +kernel⟩,
   ⟨0, at0 (mk 16 [(0, 1, 6), (2, 2, 1)]) [(R.STREAM_RUN_PACE_RECV 0, 1)], by decide +kernel, ⟨by decide +kernel, by decide +kernel, by decide +kernel, by unfold State.phaseLegal; decide +kernel, by unfold State.powerLegal; decide +kernel⟩, by decide +kernel⟩,
   ⟨0, at0 (mk 16 [(0, 1, 6), (2, 2, 1)]) [], by decide +kernel, ⟨by decide +kernel, by decide +kernel, by decide +kernel, by unfold State.phaseLegal; decide +kernel, by unfold State.powerLegal; decide +kernel⟩, by decide +kernel⟩,
   ⟨0, atMap (mk 16 [(0, 1, 7)]) [], by decide +kernel⟩,
   ⟨0, atMap (mk 16 [(0, 1, 7), (1, 1, 1)]) [], by decide +kernel⟩,
   ⟨0, at0 (mk 16 [(0, 1, 7), (1, 1, 1)]) [], by decide +kernel⟩,
   ⟨0, atMap (mk 16 [(0, 1, 7), (4, 4, 1)]) [], by decide +kernel⟩,
   ⟨0, at0 (mk 16 [(0, 1, 7), (4, 4, 1)]) [], .unmapped, by decide +kernel⟩,
   ⟨0, atMap (mk 16 [(0, 1, 7)]) [(R.STREAM_RUN_WAIT 0, 3)], by decide +kernel⟩,
   ⟨0, atMap (mk 16 [(0, 1, 7), (1, 1, 1)]) [(R.STREAM_RUN_WAIT 0, 3)], by decide +kernel⟩,
   ⟨0, at0 (mk 16 [(0, 1, 7), (1, 1, 1)]) [(R.STREAM_RUN_WAIT 0, 3)], by decide +kernel⟩⟩

theorem wit_SignalMark :
    (∃ (n : Fin 16384) (s : State), s.atOp n.val opSIGNAL = true ∧ s.quiet n.val = false) ∧
    (∃ (n : Fin 16384) (s : State), s.atOp n.val opSIGNAL = true ∧ (let u := s.unit n.val; let kind := fieldLe u 1 1 % 8; let target := fieldLe u 4 4; s.quiet n.val = true ∧ s.signalWaits n.val kind target = true)) ∧
    (∃ (n : Fin 16384) (s : State), s.atOp n.val opSIGNAL = true ∧ (let u := s.unit n.val; let kind := fieldLe u 1 1 % 8; s.quiet n.val = true ∧ kind = 0 ∧ s.semBad n.val (fieldLe u 8 8 % 2 ^ 52) = none)) ∧
    (∃ (n : Fin 16384) (s : State), s.atOp n.val opSIGNAL = true ∧ (let u := s.unit n.val; let kind := fieldLe u 1 1 % 8; s.quiet n.val = true ∧ kind = 0 ∧ s.semBad n.val (fieldLe u 8 8 % 2 ^ 52) ≠ none)) ∧
    (∃ (n : Fin 16384) (s : State), s.atOp n.val opSIGNAL = true ∧ (let u := s.unit n.val; let kind := fieldLe u 1 1 % 8; let target := fieldLe u 4 4; s.quiet n.val = true ∧ kind = 2 ∧ s.signalWaits n.val kind target = false ∧ s.portUp (target / 2 ^ 30) = true)) ∧
    (∃ (n : Fin 16384) (s : State), s.atOp n.val opSIGNAL = true ∧ (let u := s.unit n.val; let kind := fieldLe u 1 1 % 8; let target := fieldLe u 4 4; s.quiet n.val = true ∧ kind = 2 ∧ s.signalWaits n.val kind target = false ∧ s.portUp (target / 2 ^ 30) = false)) ∧
    (∃ (n : Fin 16384) (s : State), s.atOp n.val opMARK = true ∧ s.quiet n.val = false) ∧
    (∃ (n : Fin 16384) (s : State), s.atOp n.val opMARK = true ∧ (let u := s.unit n.val; let kind := fieldLe u 1 1 / 2 % 8; s.quiet n.val = true ∧ kind = 0 ∧ s.semBad n.val (fieldLe u 8 8 % 2 ^ 52) = none)) ∧
    (∃ (n : Fin 16384) (s : State), s.atOp n.val opMARK = true ∧ (let u := s.unit n.val; let kind := fieldLe u 1 1 / 2 % 8; s.quiet n.val = true ∧ kind = 0 ∧ s.semBad n.val (fieldLe u 8 8 % 2 ^ 52) ≠ none)) :=
  ⟨⟨0, (at0 (mk 16 [(0, 1, 8)]) []).setStr 0 { StreamX.fresh with host := true, prog := mk 16 [(0, 1, 8)], blocks := [blk0] }, by decide +kernel⟩,
   ⟨0, at0 (mk 16 [(0, 1, 8), (1, 1, 2)]) [(R.CDP_STATUS_STATE 0, 5)], by decide +kernel⟩,
   ⟨0, atMap (mk 16 [(0, 1, 8)]) [], by decide +kernel⟩,
   ⟨0, at0 (mk 16 [(0, 1, 8)]) [], by decide +kernel⟩,
   ⟨0, { at0 (mk 16 [(0, 1, 8), (1, 1, 2)]) [(R.CDP_STATUS_STATE 0, 3)] with ports := List.replicate 4 { PortSt.down with hdr := 1 } }, by decide +kernel⟩,
   ⟨0, at0 (mk 16 [(0, 1, 8), (1, 1, 2)]) [], by decide +kernel⟩,
   ⟨0, (at0 (mk 16 [(0, 1, 9)]) []).setStr 0 { StreamX.fresh with host := true, prog := mk 16 [(0, 1, 9)], blocks := [blk0] }, by decide +kernel⟩,
   ⟨0, atMap (mk 16 [(0, 1, 9)]) [], by decide +kernel⟩,
   ⟨0, at0 (mk 16 [(0, 1, 9)]) [], by decide +kernel⟩⟩

theorem wit_FlashBackground :
    (∃ (b : Nat) (s : State), s.flashUp = true ∧ s.ftl.queue.contains b = true ∧ s.bgOk (blkLun b) = true ∧ s.bgFirst (blkLun b) 2 = false ∧ (s.moveBlk b).holdsValid b = false ∧ s.ftl.grown.contains b = true) ∧
    (∃ (b : Nat) (s : State), s.flashUp = true ∧ s.ftl.queue.contains b = true ∧ s.bgOk (blkLun b) = true ∧ s.bgFirst (blkLun b) 2 = false ∧ (s.moveBlk b).holdsValid b = false ∧ s.ftl.grown.contains b = false) ∧
    (∃ (b : Nat) (s : State), s.flashUp = true ∧ s.ftl.queue.contains b = true ∧ s.bgOk (blkLun b) = true ∧ s.bgFirst (blkLun b) 2 = false ∧ (s.moveBlk b).holdsValid b = true) ∧
    (∃ (b : Nat) (s : State), s.flashUp = true ∧ s.erasable b = true ∧ s.bgOk (blkLun b) = true ∧ s.bgFirst (blkLun b) 3 = false ∧ s.blkRegion b ≠ 2) ∧
    (∃ (b : Nat) (s : State), s.flashUp = true ∧ s.blkRegion b ≠ 2 ∧ s.bgOk (blkLun b) = true ∧ s.bgFirst (blkLun b) 4 = false ∧ leastBy (fun x => (s.blk x).erases) ((s.laneBlks (s.blkRegion b) (blkLun b / 32) (blkLun b % 32 % 8)).filter (fun x => s.ftl.live.any (fun p => p.2 / 4096 == x))) = some b ∧ (s.blk b).erases + (if s.blkRegion b = 0 then 512 else 64) < (s.laneBlks (s.blkRegion b) (blkLun b / 32) (blkLun b % 32 % 8)).foldl (fun a x => max a (s.blk x).erases) 0) :=
  ⟨⟨1, { flash [] with ftl := { (flash []).ftl with queue := [1], grown := [1] } }, by decide +kernel⟩,
   ⟨1, { flash [] with ftl := { (flash []).ftl with queue := [1] } }, by decide +kernel⟩,
   ⟨0, { flash [] with ftl := { (flash []).ftl with queue := [0] } }, by decide +kernel⟩,
   ⟨1, { flash [] with ftl := { (flash []).ftl with blks := [(1, ⟨0, 0, 1⟩)] } }, by decide +kernel⟩,
   ⟨0, { flash [] with ftl := { (flash []).ftl with blks := [(1, ⟨513, 0, 0⟩)], fmt := some ⟨16, 16, 16, 16, 2, 1, 0⟩ } }, by decide +kernel⟩⟩

end Sys2Proof.Tests
end

section
/-! SUPPORT. Which row of the Register list (R469) an offset belongs to, and which writes of BAR0 go field by field (R9 to R12). -/

namespace Sys2Proof.Machine

/-! ## The row of an offset -/

/-- Whether two rows of the Register list have no offset in common: their ranges lie apart, or they interleave at one stride. -/
def RegRow.apart (r q : RegRow) : Bool :=
  decide (r.base + r.stride * (r.count - 1) < q.base) || decide (q.base + q.stride * (q.count - 1) < r.base)
    || (decide (0 < r.stride) && r.stride == q.stride && r.base % r.stride != q.base % r.stride)

/-- Whether a row is in the Register list and shares no offset with another. -/
def RegRow.alone (r : RegRow) : Bool := regRows.contains r && regRows.all (fun q => q == r || r.apart q)

/-- A row holds offsets of its range only. -/
theorem RegRow.holds_range {r : RegRow} {off : Nat} (h : r.holds off = true) :
    r.base ≤ off ∧ off ≤ r.base + r.stride * (r.count - 1) := by
  simp only [RegRow.holds, Bool.and_eq_true, decide_eq_true_eq] at h
  obtain ⟨hb, h⟩ := h
  split at h
  · rw [beq_iff_eq] at h
    omega
  · simp only [Bool.and_eq_true, beq_iff_eq, decide_eq_true_eq] at h
    have hd := Nat.div_add_mod (off - r.base) r.stride
    have hm : r.stride * ((off - r.base) / r.stride) ≤ r.stride * (r.count - 1) := Nat.mul_le_mul_left _ (by omega)
    omega

/-- A row holds offsets that lie whole strides from its first. -/
theorem RegRow.holds_mod {r : RegRow} {off : Nat} (h : r.holds off = true) (hs : 0 < r.stride) : off % r.stride = r.base % r.stride := by
  simp only [RegRow.holds, Bool.and_eq_true, decide_eq_true_eq, Nat.pos_iff_ne_zero.mp hs, if_false, beq_iff_eq] at h
  have hd := Nat.div_add_mod (off - r.base) r.stride
  have he : off = r.base + r.stride * ((off - r.base) / r.stride) := by omega
  rw [he, Nat.add_mul_mod_self_left]

/-- Rows that lie apart hold different offsets. -/
theorem RegRow.not_holds_of_apart {r q : RegRow} {off : Nat} (ha : r.apart q = true) (h : r.holds off = true) : q.holds off = false := by
  by_contra hq
  rw [Bool.not_eq_false] at hq
  simp only [RegRow.apart, Bool.or_eq_true, Bool.and_eq_true, decide_eq_true_eq, beq_iff_eq, bne_iff_ne, ne_eq] at ha
  have hr := RegRow.holds_range h
  have hq' := RegRow.holds_range hq
  rcases ha with (ha | ha) | ⟨⟨hs, he⟩, hne⟩
  · omega
  · omega
  · exact hne (by rw [← RegRow.holds_mod h hs, he, RegRow.holds_mod hq (he ▸ hs)])

/-- The register at an offset that a row holds alone. -/
theorem findReg_of_alone {r : RegRow} {off : Nat} (ha : r.alone = true) (h : r.holds off = true) : findReg off = some r := by
  simp only [RegRow.alone, Bool.and_eq_true, List.all_eq_true, Bool.or_eq_true, beq_iff_eq] at ha
  obtain ⟨hm, ha⟩ := ha
  obtain ⟨q, hq⟩ := Option.isSome_iff_exists.mp
    (List.find?_isSome (p := (·.holds off)).mpr ⟨r, List.contains_iff_mem.mp hm, h⟩)
  rcases ha q (List.mem_of_find?_eq_some hq) with rfl | hap
  · exact hq
  · have hqo : q.holds off = true := by simpa using List.find?_some hq
    rw [RegRow.not_holds_of_apart hap h] at hqo
    cases hqo

/-! ## Writes that go field by field -/

/-- The registers outside the arrays whose write has an effect of its own. -/
def specialOffs : List Nat :=
  [0x10018, 0x20008, 0x20030, 0x20038, 0x40020, 0x40028, 0x40038, 0x40040, 0x80038, 0x80040, 0x80100, 0x80118, 0x80120, 0x80130, 0x80138,
    0x201018, 0x300008, 0x300010, 0x300020, 0x300040, 0x300048, 0x380010, 0x380018, 0x380020, 0x380040, 0x600010, 0x680000, 0x700000,
    0x708000, 0x780000, 0x780008, 0x780010, 0x780030, 0x780018]

/-- Whether a write of the register at an offset goes field by field and does nothing else: it lies in no array of windows, vectors, lend
entries or ports, and is none of the registers with an effect of their own. -/
structure PlainOff (off : Nat) : Prop where
  queue : off < 0x200000 ∨ 0x201000 ≤ off
  vec   : off < 0x208008 ∨ 0x210000 ≤ off ∨ off % 16 ≠ 8
  lend  : off < 0x302000 ∨ 0x302200 ≤ off
  port  : off < 0x500018 ∨ 0x504000 ≤ off ∨ off % 0x1000 ≠ 0x18
  own   : off ∉ specialOffs

/-- An offset between two neighbours of the registers with an effect of their own is none of them. -/
theorem not_special_of_between {off : Nat} (lo hi : Nat) (h : specialOffs.all (fun x => decide (x < lo) || decide (hi < x)) = true)
    (h1 : lo ≤ off) (h2 : off ≤ hi) : off ∉ specialOffs := by
  intro hm
  have := List.all_eq_true.mp h off hm
  simp only [Bool.or_eq_true, decide_eq_true_eq] at this
  omega

/-- An offset that is no element of an array. -/
theorem elemOf_none {base stride n off : Nat} (h : off < base ∨ base + stride * n ≤ off ∨ (off - base) % stride ≠ 0) (hs : 0 < stride) :
    elemOf base stride n off = none := by
  unfold elemOf
  refine if_neg ?_
  rintro ⟨h1, h2, h3⟩
  have := (Nat.div_lt_iff_lt_mul hs).mp h3
  rw [Nat.mul_comm] at this
  omega

/-- A plain register is written field by field. -/
theorem State.writeReg_plain (s : State) {off : Nat} (w : Wr) (h : PlainOff off) : s.writeReg off w = s.regWrite off w := by
  obtain ⟨hq, hv, hl, hp, hs⟩ := h
  have hqueue : (upTo 6).findSome? (fun k => (elemOf (0x200000 + 8 * k) 0x40 64 off).map (fun q => (q, k))) = none := by
    rw [List.findSome?_eq_none_iff]
    intro k hk
    have hk6 : k < 6 := List.mem_range.mp hk
    rw [elemOf_none (by omega) (by decide)]
    rfl
  have hvec : elemOf 0x208008 0x10 2048 off = none := elemOf_none (by omega) (by decide)
  have hlend : elemOf 0x302000 8 64 off = none := elemOf_none (by omega) (by decide)
  have hport : elemOf 0x500018 0x1000 4 off = none := elemOf_none (by omega) (by decide)
  unfold State.writeReg
  rw [hqueue, hvec, hlend, hport]
  simp only [specialOffs, List.mem_cons, List.not_mem_nil, or_false, not_or] at hs
  simp only [State.writePlainReg, hs, or_self, if_false]

/-- A 64-bit access of an aligned register below 0x80_0000 is a write of the register. -/
theorem State.barWrite_full (s : State) (m : Master) {off v : Nat} (h8 : off % 8 = 0) (hlt : off < 0x800000) (hv : v < 2 ^ 64) :
    s.barWrite m off 8 v = s.writeReg off (Wr.full m v) := by
  have hu : upperHalf off = false := by simp [upperHalf, h8]
  unfold State.barWrite
  rw [if_neg (by simp [h8, hu, hlt])]
  simp only [h8, Wr.full, Nat.sub_zero, Nat.mul_zero, Nat.pow_zero, Nat.mul_one, Nat.reduceMul, Nat.mod_eq_of_lt hv]

/-- REGISTER_WRITE of 64 bits by the host at a plain register. -/
theorem exec_registerWrite_plain (s : State) (off : BitVec 24) (v : BitVec 64) (hr : s.reach .host = true) (h8 : off.toNat % 8 = 0)
    (hlt : off.toNat < 0x800000) (hp : PlainOff off.toNat) :
    exec (.registerWrite .host off (.wr 8) v) s = .next (s.regWrite off.toNat (Wr.full .host v.toNat)) := by
  show execRegisterWrite .host off (.wr 8) v s = _
  unfold execRegisterWrite
  simp only [hr, RegAccess.wr]
  simp [State.barWrite_full s .host h8 hlt v.isLt, State.writeReg_plain s _ hp]

end Sys2Proof.Machine
end

section
/-! SUPPORT. What a refusal leaves in the error log (R433), and what a BAR0 access leaves in the registers (R9 to R12). -/

namespace Sys2Proof.Machine

/-! ## The error log -/

@[simp] theorem State.makeRoom_head (s : State) : s.makeRoom.rf R.FAULT_LOG_PTR_HEAD = s.rf R.FAULT_LOG_PTR_HEAD := by
  unfold State.makeRoom State.addSat
  split
  · rw [State.rf_set_of_ne _ _ _ _ (by decide), State.rf_set_of_ne _ _ _ _ (by decide)]
  · rfl

/-- What an event that is not the last one again leaves in the log: HEAD one entry further, and the event's status and detail in the entry that was at HEAD (R433). -/
theorem State.logEv_entry (s : State) {st src unit detail : Nat} (aux : Nat)
    (h : s.sameEvent st src (unit % 65536) (detail % 2 ^ 32) = false) :
    (s.logEv st src unit detail aux).rf R.FAULT_LOG_PTR_HEAD = (s.rf R.FAULT_LOG_PTR_HEAD + 1) % 4096 ∧
    (s.logEv st src unit detail aux).rf (R.FAULT_LOG_W1_STATUS (s.rf R.FAULT_LOG_PTR_HEAD)) = st % 2 ^ 8 ∧
    (s.logEv st src unit detail aux).rf (R.FAULT_LOG_W2_DETAIL (s.rf R.FAULT_LOG_PTR_HEAD)) = detail % 2 ^ 32 := by
  unfold State.logEv
  simp only [h, Bool.false_eq_true, if_false, State.makeRoom_head]
  refine ⟨?_, ?_, ?_⟩
  · refine (State.rf_set_same _ _ _).trans ?_
    show _ % 4096 % 4096 = _
    omega
  · iterate 6
      refine (State.rf_set_of_ne _ _ _ _ ?_).trans ?_
      · simp only [Fld.key, R.FAULT_LOG_PTR_HEAD, R.FAULT_LOG_W3_AUX, R.FAULT_LOG_W2_DETAIL, R.FAULT_LOG_W2_REPEAT, R.FAULT_LOG_W1_UNIT,
          R.FAULT_LOG_W1_SOURCE, R.FAULT_LOG_W1_STATUS]
        omega
    exact State.rf_set_same _ _ _
  · iterate 2
      refine (State.rf_set_of_ne _ _ _ _ ?_).trans ?_
      · simp only [Fld.key, R.FAULT_LOG_PTR_HEAD, R.FAULT_LOG_W3_AUX, R.FAULT_LOG_W2_DETAIL]
        omega
    exact State.rf_set_same _ _ _

/-- What a refused access leaves in the log (R10, R11). -/
theorem State.refuse_entry (s : State) {off st : Nat} (h : s.sameEvent st (srcOf off) 0 (off % 2 ^ 32) = false) :
    (s.refuse off st).rf R.FAULT_LOG_PTR_HEAD = (s.rf R.FAULT_LOG_PTR_HEAD + 1) % 4096 ∧
    (s.refuse off st).rf (R.FAULT_LOG_W1_STATUS (s.rf R.FAULT_LOG_PTR_HEAD)) = st % 2 ^ 8 ∧
    (s.refuse off st).rf (R.FAULT_LOG_W2_DETAIL (s.rf R.FAULT_LOG_PTR_HEAD)) = off % 2 ^ 32 :=
  s.logEv_entry 0 h

/-! ## A 64-bit write of a register -/

/-- What the field at a low bit holds after a 64-bit write of its register by a master, from what it held. -/
def RegRow.after (r : RegRow) (lo : Nat) (m : Master) (v old : Nat) : Nat :=
  r.fields.foldl (fun a f => if f.lo = lo then f.after m v a else a) old

/-- A field of a register that the master may write, after a 64-bit write of it. -/
theorem State.regWrite_field (s : State) {m : Master} {v : Nat} {r : RegRow} (g : Fld) (hr : findReg g.off = some r)
    (hm : r.writableBy m = true) (hf : r.fields.all (fun f => decide (0 < f.w ∧ f.lo + f.w ≤ 64)) = true) (h : g.notLog = true) :
    (s.regWrite g.off (Wr.full m v)).rf g = r.after g.lo m v (s.rf g) := by
  rw [State.regWrite_rf s g.off m v r g hr hm hf h]
  unfold RegRow.after Fld.key
  simp only [Nat.add_left_cancel_iff, eq_comm (a := g.lo)]

/-- A field outside the register written and outside the log reads as before. -/
theorem State.regWrite_other (s : State) {off : Nat} {m : Master} {v : Nat} {r : RegRow} (g : Fld) (hr : findReg off = some r)
    (hf : r.fields.all (fun f => decide (0 < f.w ∧ f.lo + f.w ≤ 64)) = true) (h : g.notLog = true) (hne : g.key / 64 ≠ off) :
    (s.regWrite off (Wr.full m v)).rf g = s.rf g := by
  by_cases hm : r.writableBy m = true
  · rw [State.regWrite_rf s off m v r g hr hm hf h]
    have hall : ∀ f ∈ r.fields, ¬ g.key = off * 64 + f.lo := by
      intro f hfm hk
      have := List.all_eq_true.mp hf f hfm
      simp only [decide_eq_true_eq] at this
      omega
    generalize s.rf g = x
    generalize r.fields = l at hall
    induction l with
    | nil => rfl
    | cons f l ih =>
      rw [List.foldl_cons, if_neg (hall f (List.mem_cons_self ..))]
      exact ih (fun f hf => hall f (List.mem_cons_of_mem _ hf))
  · have : s.regWrite off (Wr.full m v) = s.refuse off stNOT_OWNER := by
      unfold State.regWrite
      have hw : r.writableBy (Wr.full m v).m = false := by simpa [Wr.full] using hm
      simp [hr, hw]
    rw [this, State.refuse_rf _ _ _ _ h]

/-! ## Registers that nobody writes -/

/-- Whether every field of a row is read-only. -/
def RegRow.readOnly (r : RegRow) : Bool := r.fields.all (fun f => f.acc == .ro)

/-- A read-only register is refused as a whole, whoever writes it (R10). -/
theorem State.regWrite_readOnly (s : State) {off : Nat} (w : Wr) {r : RegRow} (hr : findReg off = some r) (h : r.readOnly = true) :
    s.regWrite off w = s.refuse off stNOT_OWNER := by
  have hw : r.writableBy w.m = false := by
    unfold RegRow.writableBy
    rw [List.any_eq_false]
    intro f hf
    have := List.all_eq_true.mp h f hf
    rw [beq_iff_eq] at this
    simp [this]
  unfold State.regWrite
  simp [hr, hw]

/-- An offset of another block than HQ lies outside the block's range. -/
theorem outside_hq_of_blockOf {off : Nat} (h : blockOf off ≠ 6) : off < 0x200000 ∨ 0x300000 ≤ off := by
  by_contra hc
  have h1 : blockOf 0x200000 ≤ blockOf off := blockOf_mono (by omega)
  have h2 : blockOf off ≤ blockOf 0x2FFFFF := blockOf_mono (by omega)
  have h3 : blockOf 0x200000 = 6 := by decide
  have h4 : blockOf 0x2FFFFF = 6 := by decide
  omega

/-- No register with an effect of its own is read-only. -/
theorem not_readOnly_of_special {off : Nat} {r : RegRow} (hr : findReg off = some r) (h : r.readOnly = true) : off ∉ specialOffs := by
  have hall : specialOffs.all (fun x => match findReg x with | some q => !q.readOnly | none => true) = true := by decide +kernel
  intro hm
  have := List.all_eq_true.mp hall off hm
  simp [hr, h] at this

/-- A read-only register outside HQ is a plain one. -/
theorem plainOff_of_readOnly {off : Nat} {r : RegRow} (hr : findReg off = some r) (h : r.readOnly = true) (h8 : off % 8 = 0)
    (hb : off < 0x200000 ∨ 0x300000 ≤ off) : PlainOff off := by
  have hrow : ∀ q : RegRow, q.alone = true → q.readOnly = false → q.holds off = false := by
    intro q ha hq
    by_contra hh
    rw [Bool.not_eq_false] at hh
    have := findReg_of_alone ha hh
    rw [hr, Option.some.injEq] at this
    rw [this, hq] at h
    cases h
  have hlendA := hrow ⟨0x302000, 32, 0x10, 64, [⟨21, 31, .rw, .host⟩, ⟨0, 21, .rw, .host⟩]⟩ (by decide +kernel) (by decide)
  have hlendB := hrow ⟨0x302008, 32, 0x10, 64, [⟨21, 21, .rw, .host⟩, ⟨1, 1, .rw, .host⟩, ⟨0, 1, .rw, .host⟩]⟩ (by decide +kernel) (by decide)
  have hport := hrow ⟨0x500018, 4, 0x1000, 64, [⟨32, 10, .rw, .host⟩, ⟨2, 1, .rw, .host⟩, ⟨1, 1, .wo, .host⟩, ⟨0, 1, .rw, .host⟩]⟩
    (by decide +kernel) (by decide)
  simp only [RegRow.holds, Bool.and_eq_false_iff, decide_eq_false_iff_not, beq_eq_false_iff_ne, ne_eq, Nat.reduceEqDiff, if_false] at hlendA hlendB hport
  exact ⟨by omega, by omega, by omega, by omega, not_readOnly_of_special hr h⟩

end Sys2Proof.Machine
end

section
/-! SUPPORT. Obligation O8: a plain BAR0 write, field by field, and what is refused of it (R9 to R12, R366, R376). -/

namespace Sys2Proof.Machine

/-- Every field outside FAULT and the log is one that the log does not write. -/
theorem Fld.notLog_of_blk {g : Fld} (h13 : g.blk ≠ 13) (h14 : g.blk ≠ 14) : g.notLog = true := by
  have hp : g.key / 64 ≠ 0x600018 := by
    intro h
    exact h13 (by unfold Fld.blk; rw [h]; decide)
  simp [Fld.notLog, hp, h14]

/-! ## A register of one owned RW field -/

/-- The row of a register whose one field is HOST's and RW. -/
def Fld.hostRow (f : Fld) : RegRow := ⟨f.off, 1, 0, 64, [⟨f.lo, f.w, .rw, .host⟩]⟩

/-- A 64-bit write of such a register: the field takes its bits, and reserved bits are logged. -/
theorem State.regWrite_hostRow (s : State) (f : Fld) {v : Nat} (hr : findReg f.off = some f.hostRow) (hw : 0 < f.w ∧ f.lo + f.w ≤ 64)
    (hv : v < 2 ^ 64) :
    s.regWrite f.off (Wr.full .host v) =
      if v - bitsOf v f.lo f.w * 2 ^ f.lo = 0 then s.set f (bitsOf v f.lo f.w)
      else (s.set f (bitsOf v f.lo f.w)).refuse f.off stBAD_ARG := by
  have hfull : bitsOf v 0 64 * 2 ^ 0 = v := by simp only [bitsOf, Nat.pow_zero, Nat.div_one, Nat.mul_one, Nat.mod_eq_of_lt hv]
  have hmerge : ∀ old, (Wr.full .host v).merge old f.lo f.w = bitsOf v f.lo f.w := by
    intro old
    have : 0 ≤ f.lo ∧ f.lo + f.w ≤ 0 + 64 := by omega
    simp only [Wr.merge, Wr.full, this, and_self, if_true]
  have hfld : s.writeFld f.off (Wr.full .host v) ⟨f.lo, f.w, .rw, .host⟩ = s.set f (bitsOf v f.lo f.w) := by
    have ht : (Wr.full .host v).touches f.lo f.w = true := by
      simp [Wr.touches, Wr.full]
      omega
    unfold State.writeFld
    simp only [ht, hmerge]
    rfl
  have hres : f.hostRow.reservedBits (Wr.full .host v) = v - bitsOf v f.lo f.w * 2 ^ f.lo := by
    show bitsOf v 0 64 * 2 ^ 0 - bitsOf (bitsOf v 0 64 * 2 ^ 0) f.lo f.w * 2 ^ f.lo = _
    rw [hfull]
  have hown : f.hostRow.writableBy .host = true := rfl
  unfold State.regWrite
  simp only [hr, show (Wr.full .host v).m = .host from rfl, hown, hres]
  simp only [Fld.hostRow, List.foldl_cons, List.foldl_nil, hfld]
  rfl

/-- REGISTER_WRITE of such a register (R9, R10, R11). -/
theorem registerWrite_hostRow (s : State) (off : BitVec 24) (f : Fld) (v : BitVec 64) (hreach : s.reach .host = true) (ho : off.toNat = f.off)
    (hr : findReg f.off = some f.hostRow) (hw : 0 < f.w ∧ f.lo + f.w ≤ 64) (h8 : f.off % 8 = 0) (hlt : f.off < 0x800000)
    (hp : PlainOff f.off) (hn : f.notLog = true) (hb : Nat.testBit 536895576 (blockOf f.off) = true) :
    Runs (.registerWrite .host off (.wr 8) v) s [.chartRegs, .stepRegs, .hqRegs, .faultRegs, .logRegs, .logRound] (fun t =>
      t.rf f = bitsOf v.toNat f.lo f.w ∧ (∀ g : Fld, g.blk ≠ 13 → g.blk ≠ 14 → g.key ≠ f.key → t.rf g = s.rf g) ∧
      (v.toNat = bitsOf v.toNat f.lo f.w * 2 ^ f.lo → OnlyWrites [f] s t ∧ t.logRound = s.logRound)) := by
  have he := exec_registerWrite_plain s off v hreach (by omega) (by omega) (ho ▸ hp)
  rw [ho] at he
  refine Runs.of he (State.regWrite_does s f.off _ hb (by decide) (Does.rfl' _ s)) (by decide) ?_
  rw [State.regWrite_hostRow s f hr hw v.isLt]
  have hset : (s.set f (bitsOf v.toNat f.lo f.w)).rf f = bitsOf v.toNat f.lo f.w := by
    rw [State.rf_set_same]
    exact Nat.mod_mod _ _
  split
  · exact ⟨hset, fun g _ _ hg => State.rf_set_of_ne _ _ _ _ hg, fun _ => ⟨OnlyWrites.one _ _ _, rfl⟩⟩
  · rename_i hres
    refine ⟨(State.refuse_rf _ _ _ _ hn).trans hset, ?_, fun h => absurd (Nat.sub_eq_zero_of_le h.le) hres⟩
    intro g h13 h14 hg
    rw [State.refuse_rf _ _ _ _ (Fld.notLog_of_blk h13 h14), State.rf_set_of_ne _ _ _ _ hg]

/-! ## Accesses that are refused, and reads -/

/-- What REGISTER_WRITE does with an access that arrives and is neither translated nor a read. -/
theorem exec_registerWrite_write (s : State) (m : Master) (off : BitVec 24) (size : Nat) (v : BitVec 64) (h : s.reach m = true) :
    exec (.registerWrite m off (.wr size) v) s = .next (s.barWrite m off.toNat size v.toNat) := by
  show execRegisterWrite m off (.wr size) v s = _
  simp [execRegisterWrite, h, RegAccess.wr]

/-- What REGISTER_WRITE does with a read that arrives. -/
theorem exec_registerWrite_read (s : State) (m : Master) (off : BitVec 24) (a : RegAccess) (v : BitVec 64) (h : s.reach m = true)
    (ht : a.translated = false) (hr : a.read = true) : exec (.registerWrite m off a v) s = .next (s.barRead off.toNat a.size) := by
  show execRegisterWrite m off a v s = _
  simp [execRegisterWrite, h, ht, hr]

/-- A refused access changes the log only. -/
theorem Does.ofRefuse (s : State) (off st : Nat) : Does 536895488 s (s.refuse off st) := State.refuse_does s off st (by decide) (Does.rfl' _ s)

/-- A write of another form than R12 allows is refused with BAD_ARG. -/
theorem registerWrite_badForm (m : Master) (off : BitVec 24) (size : Nat) (v : BitVec 64) (s : State) (h : s.reach m = true)
    (hf : size ≠ 4 ∧ size ≠ 8 ∨ off.toNat % size ≠ 0 ∨ 0x800000 ≤ off.toNat ∨ upperHalf off.toNat = true) :
    Runs (.registerWrite m off (.wr size) v) s [.faultRegs, .logRegs, .logRound] (fun t =>
      s.sameEvent stBAD_ARG (off.toNat / 65536 % 256) 0 (off.toNat % 2 ^ 32) = false →
      t.rf R.FAULT_LOG_PTR_HEAD = (s.rf R.FAULT_LOG_PTR_HEAD + 1) % 4096 ∧
      t.rf (R.FAULT_LOG_W1_STATUS (s.rf R.FAULT_LOG_PTR_HEAD)) = stBAD_ARG ∧
      t.rf (R.FAULT_LOG_W2_DETAIL (s.rf R.FAULT_LOG_PTR_HEAD)) = off.toNat) := by
  have hb : s.barWrite m off.toNat size v.toNat = s.refuse off.toNat stBAD_ARG := by
    unfold State.barWrite
    rw [if_pos (by rwa [not_or])]
    rfl
  refine Runs.of ((exec_registerWrite_write s m off size v h).trans (congrArg _ hb)) (Does.ofRefuse _ _ _) (by decide) ?_
  intro he
  obtain ⟨hh, hs, hd⟩ := s.refuse_entry he
  exact ⟨hh, hs, hd.trans (Nat.mod_eq_of_lt (lt_trans off.isLt (by decide)))⟩

/-- A write of a register with no field that anybody writes is refused with NOT_OWNER. -/
theorem registerWrite_readOnly (m : Master) (off : BitVec 24) (size : Nat) (v : BitVec 64) (r : RegRow) (s : State) (h : s.reach m = true)
    (hsz : size = 4 ∨ size = 8) (hal : off.toNat % size = 0) (hlt : off.toNat < 0x800000) (hr : findReg (off.toNat - off.toNat % 8) = some r)
    (hro : r.readOnly = true) (hq : blockOf off.toNat ≠ 6) (hu : upperHalf off.toNat = false) :
    Runs (.registerWrite m off (.wr size) v) s [.faultRegs, .logRegs, .logRound] (fun t =>
      s.sameEvent stNOT_OWNER (off.toNat / 65536 % 256) 0 ((off.toNat - off.toNat % 8) % 2 ^ 32) = false →
      t.rf (R.FAULT_LOG_W1_STATUS (s.rf R.FAULT_LOG_PTR_HEAD)) = stNOT_OWNER) := by
  have hblk := outside_hq_of_blockOf hq
  have hp : PlainOff (off.toNat - off.toNat % 8) := plainOff_of_readOnly hr hro (by omega) (by omega)
  have hb : s.barWrite m off.toNat size v.toNat = s.refuse (off.toNat - off.toNat % 8) stNOT_OWNER := by
    unfold State.barWrite
    rw [if_neg (by simp [hsz, hal, hlt, hu])]
    exact (s.writeReg_plain _ hp).trans (s.regWrite_readOnly _ hr hro)
  refine Runs.of ((exec_registerWrite_write s m off size v h).trans (congrArg _ hb)) (Does.ofRefuse _ _ _) (by decide) ?_
  intro he
  have hsrc : srcOf (off.toNat - off.toNat % 8) = off.toNat / 65536 % 256 := by
    unfold srcOf
    omega
  exact (s.refuse_entry (hsrc ▸ he)).2.1

/-- A read that is not naturally aligned, or of another size, answers zeros and is refused with BAD_ARG (R12, R366). -/
theorem registerRead_badForm (m : Master) (off : BitVec 24) (a : RegAccess) (v : BitVec 64) (s : State) (h : s.reach m = true)
    (ht : a.translated = false) (hr : a.read = true) (hf : a.size ≠ 4 ∧ a.size ≠ 8 ∨ off.toNat % a.size ≠ 0) :
    Runs (.registerWrite m off a v) s [.faultRegs, .logRegs, .sent, .logRound] (fun t =>
      t.sent = s.sent ++ [.answer (List.replicate a.size (0, false))] ∧
      (s.sameEvent stBAD_ARG (off.toNat / 65536 % 256) 0 (off.toNat % 2 ^ 32) = false →
        t.rf R.FAULT_LOG_PTR_HEAD = (s.rf R.FAULT_LOG_PTR_HEAD + 1) % 4096 ∧
        t.rf (R.FAULT_LOG_W1_STATUS (s.rf R.FAULT_LOG_PTR_HEAD)) = stBAD_ARG)) := by
  have hb : s.barRead off.toNat a.size = (s.refuse off.toNat stBAD_ARG).emit (.answer (List.replicate a.size (0, false))) := by
    unfold State.barRead
    rw [if_pos (by rwa [not_or])]
    rfl
  have hd := Does.ofRefuse s off.toNat stBAD_ARG
  refine Runs.of ((exec_registerWrite_read s m off a v h ht hr).trans (congrArg _ hb))
    (Does.emit (m := 541089792) _ _ (by decide) (hd.mono (by decide))) (by decide) ⟨?_, ?_⟩
  · exact congrArg (· ++ _) (hd.frame .sent (by decide))
  · intro he
    obtain ⟨hh, hs, -⟩ := s.refuse_entry he
    exact ⟨hh, hs⟩

/-- What `afterRead` leaves of the messages. -/
@[simp] theorem State.afterRead_sent (s : State) (off : Nat) : (s.afterRead off).sent = s.sent := by
  unfold State.afterRead
  split <;> rfl

/-- Only a read of PWR_THERM leaves anything (R473). -/
theorem State.afterRead_of_ne (s : State) {off : Nat} (h : off ≠ 0x20028) : s.afterRead off = s := if_neg h

/-- An aligned read answers the register's bytes and changes PEAK_C at most (R11, R473). -/
theorem registerRead_answers (m : Master) (off : BitVec 24) (a : RegAccess) (v : BitVec 64) (s : State) (h : s.reach m = true)
    (ht : a.translated = false) (hr : a.read = true) (hsz : a.size = 4 ∨ a.size = 8) (hal : off.toNat % a.size = 0)
    (hlt : off.toNat < 0x800000) :
    Runs (.registerWrite m off a v) s [.pwrRegs, .sent] (fun t =>
      t.sent = s.sent ++ [.answer ((((natLe 8 (s.readReg (off.toNat - off.toNat % 8))).drop (off.toNat % 8)).take a.size).map (fun b => (b, false)))] ∧
      (off.toNat - off.toNat % 8 ≠ 0x20028 → t = s.emit (.answer ((((natLe 8 (s.readReg (off.toNat - off.toNat % 8))).drop (off.toNat % 8)).take
        a.size).map (fun b => (b, false)))))) := by
  have hb : s.barRead off.toNat a.size = (s.emit (.answer ((((natLe 8 (s.readReg (off.toNat - off.toNat % 8))).drop (off.toNat % 8)).take
      a.size).map (fun b => (b, false))))).afterRead (off.toNat - off.toNat % 8) := by
    unfold State.barRead
    rw [if_neg (by simp [hsz, hal]), if_neg (by omega)]
  refine Runs.of ((exec_registerWrite_read s m off a v h ht hr).trans (congrArg _ hb))
    (State.afterRead_does (μ := 4194308) _ _ (by decide) (Does.emit _ _ (by decide) (Does.rfl' _ s))) (by decide) ⟨?_, ?_⟩
  · rw [State.afterRead_sent]
    rfl
  · intro hne
    exact State.afterRead_of_ne _ hne

/-- Settles O8: the four registers of one owned field, the refused forms, the read-only registers, and reads, each by its own lemma. -/
theorem registerFields : Obligations.RegisterFields := by
  refine ⟨?_, registerWrite_badForm, registerWrite_readOnly, ?_, ?_, registerRead_badForm, registerRead_answers⟩
  · intro off f v s hreach hcase
    rcases hcase with ⟨rfl, rfl⟩ | ⟨rfl, rfl⟩ | ⟨rfl, rfl⟩ | ⟨rfl, rfl⟩ <;>
      exact registerWrite_hostRow s _ _ v hreach rfl (findReg_of_alone (by decide +kernel) (by decide)) (by decide) (by decide) (by decide)
        ⟨by decide, by decide, by decide, by decide, by decide⟩ (by decide) (by decide)
  · intro m off a v s h
    show execRegisterWrite m off a v s = _
    simp [execRegisterWrite, h]
  · intro off a v s h ht
    show execRegisterWrite .host off a v s = _
    simp [execRegisterWrite, h, ht]

end Sys2Proof.Machine
end

section
/-! SUPPORT. O60, R9 and R10: a host write of a plain RW field and of a W1C flag, for any element of any array of such registers. -/

namespace Sys2Proof.Machine

/-- The last offset of a row. -/
def RegRow.last (r : RegRow) : Nat := r.base + r.stride * (r.count - 1)

/-- The offset of an element of a row. -/
def RegRow.elem (r : RegRow) (i : Nat) : Nat := r.base + r.stride * (i % r.count)

/-- Whether every register of a row is a plain one. -/
def RegRow.plain (r : RegRow) : Bool :=
  (decide (r.last < 0x200000) || decide (0x201000 ≤ r.base))
    && (decide (r.last < 0x208008) || decide (0x210000 ≤ r.base) || (r.stride % 16 == 0 && r.base % 16 != 8))
    && (decide (r.last < 0x302000) || decide (0x302200 ≤ r.base))
    && (decide (r.last < 0x500018) || decide (0x504000 ≤ r.base) || (r.stride % 0x1000 == 0 && r.base % 0x1000 != 0x18))
    && specialOffs.all (fun x => decide (x < r.base) || decide (r.last < x))

/-- Whether a row is one of plain registers below 0x80_0000, outside FAULT and the log, with a field that the host may write. -/
def RegRow.hostPlain (r : RegRow) : Bool :=
  r.alone && r.plain && decide (0 < r.count) && r.base % 8 == 0 && r.stride % 8 == 0 && decide (r.last < 0x800000)
    && r.writableBy .host && r.fields.all (fun f => decide (0 < f.w ∧ f.lo + f.w ≤ 64))
    && blockOf r.base == blockOf r.last && blockOf r.base != 13 && blockOf r.base != 14

theorem RegRow.elem_range {r : RegRow} (i : Nat) (hc : 0 < r.count) : r.base ≤ r.elem i ∧ r.elem i ≤ r.last := by
  have hi : i % r.count ≤ r.count - 1 := by have := Nat.mod_lt i hc; omega
  exact ⟨Nat.le_add_right _ _, Nat.add_le_add_left (Nat.mul_le_mul_left _ hi) _⟩

theorem RegRow.elem_mod {r : RegRow} (i : Nat) {n : Nat} (h : r.stride % n = 0) : r.elem i % n = r.base % n := by
  obtain ⟨k, hk⟩ := Nat.dvd_of_mod_eq_zero h
  rw [RegRow.elem, hk, Nat.mul_assoc, Nat.add_mul_mod_self_left]

/-- A row holds each of its elements. -/
theorem RegRow.holds_elem {r : RegRow} (i : Nat) (hc : 0 < r.count) : r.holds (r.elem i) = true := by
  unfold RegRow.holds RegRow.elem
  by_cases hs : r.stride = 0
  · simp [hs]
  · have hs' : 0 < r.stride := Nat.pos_of_ne_zero hs
    simp [hs, Nat.mul_div_cancel_left _ hs', Nat.mod_lt i hc]

/-- The registers of a plain row are plain. -/
theorem RegRow.plainOff_elem {r : RegRow} (i : Nat) (hc : 0 < r.count) (h : r.plain = true) : PlainOff (r.elem i) := by
  obtain ⟨hlo, hhi⟩ := RegRow.elem_range (r := r) i hc
  simp only [RegRow.plain, Bool.and_eq_true, Bool.or_eq_true, decide_eq_true_eq, beq_iff_eq, bne_iff_ne, ne_eq] at h
  obtain ⟨⟨⟨⟨hq, hv⟩, hl⟩, hp⟩, hs⟩ := h
  refine ⟨by omega, ?_, by omega, ?_, not_special_of_between _ _ hs hlo hhi⟩
  · rcases hv with (hv | hv) | ⟨hst, hb⟩
    · omega
    · omega
    · exact .inr (.inr (by rw [RegRow.elem_mod i hst]; exact hb))
  · rcases hp with (hp | hp) | ⟨hst, hb⟩
    · omega
    · omega
    · exact .inr (.inr (by rw [RegRow.elem_mod i hst]; exact hb))

/-- A host write of a plain row's element gives each of its fields what its access code says (R9, R10). -/
theorem registerWrite_elem (s : State) (off : BitVec 24) (v : BitVec 64) (r : RegRow) (i lo w : Nat) (hreach : s.reach .host = true)
    (ho : r.elem i = off.toNat) (hr : r.hostPlain = true) (hlo : lo < 64) :
    ∃ t, exec (.registerWrite .host off (.wr 8) v) s = .next t ∧
      t.rf ⟨r.elem i, lo, w⟩ = r.after lo .host v.toNat (s.rf ⟨r.elem i, lo, w⟩) := by
  simp only [RegRow.hostPlain, Bool.and_eq_true, decide_eq_true_eq, beq_iff_eq, bne_iff_ne, ne_eq] at hr
  obtain ⟨⟨⟨⟨⟨⟨⟨⟨⟨⟨ha, hp⟩, hc⟩, hb8⟩, hs8⟩, hlt⟩, hw⟩, hf⟩, hblk⟩, h13⟩, h14⟩ := hr
  obtain ⟨hmin, hmax⟩ := RegRow.elem_range (r := r) i hc
  have hblk' : Fld.blk ⟨r.elem i, lo, w⟩ = blockOf r.base := by
    rw [Fld.blk_eq _ _ _ hlo]
    have := blockOf_mono hmin
    have := blockOf_mono hmax
    omega
  refine ⟨_, exec_registerWrite_plain s off v hreach (ho ▸ ?_) (by omega) (ho ▸ RegRow.plainOff_elem i hc hp), ?_⟩
  · rw [RegRow.elem_mod i hs8, hb8]
  · rw [← ho]
    exact State.regWrite_field s ⟨r.elem i, lo, w⟩ (findReg_of_alone ha (RegRow.holds_elem i hc)) hw hf
      (Fld.notLog_of_blk (hblk' ▸ h13) (hblk' ▸ h14))

/-- A field of one bit. -/
theorem bitsOf_one (v lo : Nat) : bitsOf v lo 1 = if v.testBit lo then 1 else 0 := by
  rw [Nat.testBit_eq_decide_div_mod_eq]
  simp only [bitsOf, Nat.pow_one, decide_eq_true_eq]
  split <;> omega

/-- What a flag of one bit holds after a W1C write. -/
theorem w1c_flag (v lo old : Nat) :
    (v.testBit lo = true → old = 1 → (old - (old &&& bitsOf v lo 1)) % 2 ^ 1 = 0) ∧
    (v.testBit lo = false → old < 2 → (old - (old &&& bitsOf v lo 1)) % 2 ^ 1 = old) := by
  rw [bitsOf_one]
  refine ⟨fun h ho => by simp [h, ho], fun h ho => ?_⟩
  simp only [h, Bool.false_eq_true, if_false, Nat.and_zero, Nat.sub_zero, Nat.pow_one]
  omega

/-- A host write of a W1C flag of a plain row's element clears it where it writes one. -/
theorem registerWrite_w1cElem (s : State) (off : BitVec 24) (v : BitVec 64) (r : RegRow) (i lo : Nat) (hreach : s.reach .host = true)
    (ho : r.elem i = off.toNat) (hr : r.hostPlain = true) (hlo : lo < 64)
    (hw : ∀ old, r.after lo .host v.toNat old = (old - (old &&& bitsOf v.toNat lo 1)) % 2 ^ 1) :
    ∃ t, exec (.registerWrite .host off (.wr 8) v) s = .next t ∧
      (v.toNat.testBit lo = true → s.rf ⟨r.elem i, lo, 1⟩ = 1 → t.rf ⟨r.elem i, lo, 1⟩ = 0) ∧
      (v.toNat.testBit lo = false → s.rf ⟨r.elem i, lo, 1⟩ < 2 → t.rf ⟨r.elem i, lo, 1⟩ = s.rf ⟨r.elem i, lo, 1⟩) := by
  obtain ⟨t, he, ht⟩ := registerWrite_elem s off v r i lo 1 hreach ho hr hlo
  refine ⟨t, he, ?_⟩
  rw [ht, hw]
  exact w1c_flag _ _ _

/-- The row of TIER_PEER (R276). -/
def tierPeerRow : RegRow := ⟨0x301000, 64, 0x8, 64, [⟨42, 22, .rw, .host⟩, ⟨1, 22, .rw, .host⟩, ⟨0, 1, .rw, .host⟩]⟩

/-- A write of a plain RW field leaves its bits there (R9, R10). -/
theorem registerWrite_plainField (off : BitVec 24) (f : Fld) (v : BitVec 64) (s : State) (h : s.reach .host = true) (ho : f.off = off.toNat)
    (hf : f = R.TIER_MAP_OA_PAGE ∨ f = R.TIER_POOL_LOW ∨
      (∃ m : Fin 64, f = R.TIER_PEER_VALID m.val ∨ f = R.TIER_PEER_PAGES m.val ∨ f = R.TIER_PEER_BASE m.val) ∨
      (∃ k : Fin 2048, f = R.MSIX_ADDR_ADDR k.val) ∨ (∃ k : Fin 8192, f = R.CXL_COMP_VALUE k.val)) :
    ∃ t, exec (.registerWrite .host off (.wr 8) v) s = .next t ∧ t.rf f = bitsOf v.toNat f.lo f.w := by
  rcases hf with rfl | rfl | ⟨m, rfl | rfl | rfl⟩ | ⟨k, rfl⟩ | ⟨k, rfl⟩
  · exact registerWrite_elem s off v ⟨0x300018, 1, 0x0, 64, [⟨21, 31, .rw, .host⟩]⟩ 0 21 31 h ho (by decide +kernel) (by decide)
  · exact registerWrite_elem s off v ⟨0x300038, 1, 0x0, 64, [⟨32, 32, .ro, .fw⟩, ⟨0, 18, .rw, .host⟩]⟩ 0 0 18 h ho (by decide +kernel) (by decide)
  · exact registerWrite_elem s off v tierPeerRow m.val 0 1 h ho (by decide +kernel) (by decide)
  · exact registerWrite_elem s off v tierPeerRow m.val 1 22 h ho (by decide +kernel) (by decide)
  · exact registerWrite_elem s off v tierPeerRow m.val 42 22 h ho (by decide +kernel) (by decide)
  · exact registerWrite_elem s off v ⟨0x208000, 2048, 0x10, 64, [⟨0, 64, .rw, .host⟩]⟩ k.val 0 64 h ho (by decide +kernel) (by decide)
  · exact registerWrite_elem s off v ⟨0x218000, 8192, 0x8, 64, [⟨0, 64, .rw, .host⟩]⟩ k.val 0 64 h ho (by decide +kernel) (by decide)

/-- A write of a W1C flag clears it where it writes one and leaves it where it writes zero (R9). -/
theorem registerWrite_w1cFlag (off : BitVec 24) (f : Fld) (v : BitVec 64) (s : State) (h : s.reach .host = true) (ho : f.off = off.toNat)
    (hf : f = R.TIER_ERR_PEER_REFUSED ∨ f = R.FTL_ERR_UNCORRECTABLE ∨ f = R.SYNC_ERR_UNEXPECTED ∨ (∃ p : Fin 36, f = R.CLU_ERR_REPLAYED p.val) ∨
      (∃ p : Fin 72, f = R.SKEIN_ERR_BLOCK_FAIL p.val) ∨ (∃ p : Fin 4, f = R.CDP_ERR_HELLO_FAIL p.val)) :
    ∃ t, exec (.registerWrite .host off (.wr 8) v) s = .next t ∧ (v.toNat.testBit f.lo = true → s.rf f = 1 → t.rf f = 0) ∧
      (v.toNat.testBit f.lo = false → s.rf f < 2 → t.rf f = s.rf f) := by
  rcases hf with rfl | rfl | rfl | ⟨p, rfl⟩ | ⟨p, rfl⟩ | ⟨p, rfl⟩
  · exact registerWrite_w1cElem s off v ⟨0x300058, 1, 0x0, 64, [⟨32, 32, .ro, .fw⟩, ⟨24, 8, .ro, .fw⟩, ⟨3, 1, .w1c, .host⟩, ⟨2, 1, .w1c, .host⟩,
      ⟨1, 1, .w1c, .host⟩, ⟨0, 1, .w1c, .host⟩]⟩ 0 3 h ho (by decide +kernel) (by decide) (fun _ => rfl)
  · exact registerWrite_w1cElem s off v ⟨0x380060, 1, 0x0, 64, [⟨32, 32, .ro, .fw⟩, ⟨24, 8, .ro, .fw⟩, ⟨5, 1, .w1c, .host⟩, ⟨4, 1, .w1c, .host⟩,
      ⟨3, 1, .w1c, .host⟩, ⟨2, 1, .w1c, .host⟩, ⟨1, 1, .w1c, .host⟩, ⟨0, 1, .w1c, .host⟩]⟩ 0 1 h ho (by decide +kernel) (by decide) (fun _ => rfl)
  · exact registerWrite_w1cElem s off v ⟨0x780038, 1, 0x0, 64, [⟨32, 32, .ro, .fw⟩, ⟨24, 8, .ro, .fw⟩, ⟨6, 1, .w1c, .host⟩, ⟨5, 1, .w1c, .host⟩,
      ⟨4, 1, .w1c, .host⟩, ⟨3, 1, .w1c, .host⟩, ⟨2, 1, .w1c, .host⟩, ⟨1, 1, .w1c, .host⟩, ⟨0, 1, .w1c, .host⟩]⟩ 0 6 h ho (by decide +kernel)
      (by decide) (fun _ => rfl)
  · exact registerWrite_w1cElem s off v ⟨0x400028, 36, 0x1000, 64, [⟨24, 8, .ro, .fw⟩, ⟨2, 1, .w1c, .host⟩, ⟨1, 1, .w1c, .host⟩,
      ⟨0, 1, .w1c, .host⟩]⟩ p.val 2 h ho (by decide +kernel) (by decide) (fun _ => rfl)
  · exact registerWrite_w1cElem s off v ⟨0x480020, 72, 0x100, 64, [⟨32, 32, .ro, .fw⟩, ⟨24, 8, .ro, .fw⟩, ⟨2, 1, .w1c, .host⟩, ⟨1, 1, .w1c, .host⟩,
      ⟨0, 1, .w1c, .host⟩]⟩ p.val 0 h ho (by decide +kernel) (by decide) (fun _ => rfl)
  · exact registerWrite_w1cElem s off v ⟨0x500040, 4, 0x1000, 64, [⟨32, 32, .ro, .fw⟩, ⟨24, 8, .ro, .fw⟩, ⟨5, 1, .w1c, .host⟩, ⟨4, 1, .w1c, .host⟩,
      ⟨3, 1, .w1c, .host⟩, ⟨2, 1, .w1c, .host⟩, ⟨1, 1, .w1c, .host⟩, ⟨0, 1, .w1c, .host⟩]⟩ p.val 5 h ho (by decide +kernel) (by decide) (fun _ => rfl)

end Sys2Proof.Machine
end

section
/-! SUPPORT. O60, R443, R444, R239, R310, R315: units wake and are gated, an update chunk starts and ends, an accumulator is cleared. -/

namespace Sys2Proof.Machine

/-! ## Sets of numbers and loops -/

theorem NSet.mem_ins (k j : Nat) (l : List Nat) : j ∈ NSet.ins k l ↔ j = k ∨ j ∈ l := by
  induction l with
  | nil => simp [NSet.ins]
  | cons x l ih =>
    unfold NSet.ins
    split
    · rename_i h
      simp [h]
    · split
      · simp
      · rw [List.mem_cons, List.mem_cons, ih]
        tauto

theorem NSet.contains_del (k : Nat) (l : List Nat) : (NSet.del k l).contains k = false := by
  simp [NSet.del]

/-- What each round of a loop leaves, the loop leaves. -/
theorem State.forEach_keeps {α : Type} (g : State → α) (l : List Nat) (k : State → Nat → State) (h : ∀ v x, g (k v x) = g v) (s : State) :
    g (s.forEach l k) = g s := by
  unfold State.forEach
  induction l generalizing s with
  | nil => rfl
  | cons x l ih => rw [List.foldl_cons, ih, h]

/-- What one round of a loop establishes and the others keep, the loop establishes. -/
theorem State.forEach_establishes {p : State → Prop} {l : List Nat} {k : State → Nat → State} {a : Nat} (ha : a ∈ l) (hset : ∀ v, p (k v a))
    (hkeep : ∀ v x, p v → p (k v x)) (s : State) : p (s.forEach l k) := by
  have hrest : ∀ (l : List Nat) (v : State), p v → p (v.forEach l k) := by
    intro l
    induction l with
    | nil => exact fun _ h => h
    | cons x l ih => exact fun v h => ih _ (hkeep v x h)
  obtain ⟨l₁, l₂, rfl⟩ := List.append_of_mem ha
  unfold State.forEach
  rw [List.foldl_append, List.foldl_cons]
  exact hrest l₂ _ (hset _)

/-- The least of a list is in it. -/
theorem leastBy_mem {f : Nat → Nat} {l : List Nat} {a : Nat} (h : leastBy f l = some a) : a ∈ l := by
  induction l generalizing a with
  | nil => cases h
  | cons x l ih =>
    unfold leastBy at h
    split at h
    · cases h
      exact List.mem_cons_self
    · rename_i y hy
      split at h
      · cases h
        exact List.mem_cons_of_mem _ (ih hy)
      · cases h
        exact List.mem_cons_self

/-! ## Waking and gating -/

@[simp] theorem State.showUnits_pwr (s : State) : s.showUnits.pwr = s.pwr :=
  (State.showUnits_does (μ := 516) s (by decide) (Does.rfl' _ s)).frame .power (by decide)

@[simp] theorem State.showWakes_pwr (s : State) : s.showWakes.pwr = s.pwr :=
  (State.showWakes_does (μ := 512) s (by decide) (Does.rfl' _ s)).frame .power (by decide)

/-- A gated unit with a use ahead begins to wake (R444). -/
theorem unitWake_waking (u : BitVec 16) (use : Nat) (s : State) (hoff : s.pwr.off = false) (hp : 2 ≤ s.rf R.PWR_STATE_STATE)
    (ha : s.pwr.awake.contains u.toNat = false) (hu : s.nextUse u.toNat = some use) :
    ∃ t, exec (.unitWake u) s = .next t ∧ t.pwr.waking.contains u.toNat = true := by
  refine ⟨_, rfl, ?_⟩
  rw [if_neg (by simp only [hoff, ha, Bool.false_eq_true, or_false, false_or]; omega), hu]
  simp [NSet.mem_ins]

/-- A unit that may be gated is off (R443). -/
theorem unitGate_off (u : BitVec 16) (s : State) (hoff : s.pwr.off = false) (hg : s.mayGate u.toNat = true) :
    ∃ t, exec (.unitGate u) s = .next t ∧ t.pwr.awake.contains u.toNat = false ∧ t.pwr.waking.contains u.toNat = false := by
  refine ⟨_, rfl, ?_⟩
  rw [if_neg (by simp [hoff, hg]), State.showWakes_pwr]
  unfold State.gateUnit
  rw [State.showUnits_pwr]
  exact ⟨NSet.contains_del _ _, NSet.contains_del _ _⟩

/-! ## Update chunks -/

theorem State.advance_clu (s : State) (t : Nat) : (s.advance t).clu = s.clu :=
  (State.advance_does (μ := 67633168) s t (by decide) (Does.rfl' _ s)).frame .clusters (by decide)

/-- Putting units to use moves no row and no cluster work. -/
theorem State.useUnits_row_clu (s : State) (us : List Nat) : (s.useUnits us).row = s.row ∧ (s.useUnits us).clu = s.clu :=
  have h := State.useUnits_does (μ := 137438953988) s us (by decide) (Does.rfl' _ s)
  ⟨h.frame .row (by decide), h.frame .clusters (by decide)⟩

/-- Computing a chunk moves no row and no entry. -/
theorem State.countedChunk_row_clu (s : State) (e : Nat) (ce : CluEntry) (peers : List Byte) :
    (s.countedChunk e ce peers).row = s.row ∧ (s.countedChunk e ce peers).clu.left = s.clu.left ∧
      (s.countedChunk e ce peers).clu.running = s.clu.running := by
  have h := State.updateChunk_does (μ := 50904521794960) { s with gauge := [] } s.updProg ce.tensor ce.slice peers (by decide) (Does.rfl' _ _)
  have hc : (({ s with gauge := [] } : State).updateChunk s.updProg ce.tensor ce.slice peers).clu = s.clu := h.frame .clusters (by decide)
  refine ⟨h.frame .row (by decide), ?_, ?_⟩
  · exact (congrArg CluSt.left hc :)
  · exact (congrArg CluSt.running hc :)

/-- An update chunk starts at its plan offset (R315). -/
theorem updateChunk_starts (e : Nat) (peers : List Byte) (s : State) (ce : CluEntry) (us : List Nat) (he : s.chunkEntry e = some ce)
    (hr : s.planRuns = true) (hl : s.clu.left.contains e = true) (hu : s.spanUnits ce.first (fieldLe s.updProg 6 1) = some us) :
    ∃ t, exec (.updateChunk e peers) s = .next t ∧ t.row = max s.row (s.cluAt ce.start) ∧ t.clu.left.contains e = false ∧
      (t.clu.running.any fun p => p.1 == e) = true := by
  refine ⟨_, rfl, ?_⟩
  simp only [he, hr, hl, hu, Bool.not_true, Bool.or_self, Bool.false_eq_true, if_false]
  have hrow : ((s.advance (s.cluAt ce.start)).runEntry e).row = max s.row (s.cluAt ce.start) := State.advance_row _ _
  have hleft : ((s.advance (s.cluAt ce.start)).runEntry e).clu.left.contains e = false := by simp [State.runEntry]
  have hrun : (((s.advance (s.cluAt ce.start)).runEntry e).clu.running.any fun p => p.1 == e) = true := by simp [State.runEntry]
  split
  · exact ⟨hrow, hleft, hrun⟩
  · generalize (s.advance (s.cluAt ce.start)).runEntry e = u at hrow hleft hrun ⊢
    obtain ⟨hcr, hcl, hcn⟩ := State.countedChunk_row_clu
      ((u.useUnits (us.map (0x1000 + ·))).forEach us (fun s p => s.set (R.CLU_SEGMENT_BUSY p) 1)) e ce peers
    have hfr := State.forEach_keeps State.row us (fun s p => s.set (R.CLU_SEGMENT_BUSY p) 1) (fun _ _ => rfl) (u.useUnits (us.map (0x1000 + ·)))
    have hfc := State.forEach_keeps State.clu us (fun s p => s.set (R.CLU_SEGMENT_BUSY p) 1) (fun _ _ => rfl) (u.useUnits (us.map (0x1000 + ·)))
    obtain ⟨hur, huc⟩ := State.useUnits_row_clu u (us.map (0x1000 + ·))
    rw [hcr, hcl, hcn, hfr, hfc, hur, huc]
    exact ⟨hrow, hleft, hrun⟩

/-- An entry that has ended runs no more, and its end touches no STEP register. -/
theorem State.endEntry_ends (s : State) (e : Nat) :
    ((s.endEntry e).clu.running.any fun p => p.1 == e) = false ∧ (s.endEntry e).rf R.STEP_UPDATE_CHUNKS = s.rf R.STEP_UPDATE_CHUNKS := by
  refine ⟨?_, (State.endEntry_does (μ := 21200499662976) s e (by decide) (Does.rfl' _ s)).rf _ (by decide)⟩
  have hfil : ∀ l : List (Nat × Nat), ((l.filter fun p => p.1 != e).any fun p => p.1 == e) = false := by simp
  unfold State.endEntry
  dsimp only
  split
  · exact hfil _
  · rw [(State.partyArrives_does (μ := 3608313618560) _ 4 _ (by decide) (Does.rfl' _ _)).frame .clusters (by decide)]
    exact hfil _

/-- An update chunk ends in its time and is counted (R317). -/
theorem updateChunkDone_counts (e : Nat) (s : State) (ce : CluEntry) (us : List Nat) (he : s.chunkEntry e = some ce) (hr : s.planRuns = true)
    (hn : (s.clu.running.any fun p => p.1 == e) = true) (hu : s.spanUnits ce.first (fieldLe s.updProg 6 1) = some us)
    (hg : s.groupExtent (uGroup s.updProg ce.tensor).group ≠ 0)
    (ho : s.overdueUnit us (s.cluAt ce.start + s.cycleTicks (updCycles (fieldLe s.updProg 6 1) (uGroup s.updProg ce.tensor) ce.slice)) = none) :
    ∃ t, exec (.updateChunkDone e) s = .next t ∧ t.rf R.STEP_UPDATE_CHUNKS = (s.rf R.STEP_UPDATE_CHUNKS + 1) % 2 ^ 32 ∧
      (t.clu.running.any fun p => p.1 == e) = false := by
  refine ⟨_, rfl, ?_⟩
  simp only [he, hr, hn, hu, hg, ho, Bool.not_true, Bool.or_self, Bool.false_eq_true, if_false]
  generalize s.cluAt ce.start + _ = due
  generalize updCycles _ _ _ = n
  obtain ⟨hend, hcnt⟩ := State.endEntry_ends ((((s.advance due).countWork us n).takeCounts e).bump R.STEP_UPDATE_CHUNKS) e
  refine ⟨hcnt.trans ?_, hend⟩
  have hwork : ((s.advance due).countWork us n).rf R.STEP_UPDATE_CHUNKS = s.rf R.STEP_UPDATE_CHUNKS :=
    ((State.countWork_does (μ := 512) (s.advance due) us n (by decide) (Does.rfl' _ _)).rf _ (by decide)).trans (State.advance_rf _ _ _ (by decide))
  have hcounts : ∀ u : State, (u.takeCounts e).rf R.STEP_UPDATE_CHUNKS = u.rf R.STEP_UPDATE_CHUNKS := fun _ => rfl
  refine (State.rf_set_same _ _ _).trans ?_
  rw [hcounts, hwork]
  rfl

/-! ## Accumulators -/

/-- Clearing an accumulator's elements leaves the list of those cleared in the step. -/
theorem State.clearAcc_cleared (s : State) (a : Nat) : (s.clearAcc a).upd.cleared = s.upd.cleared := by
  have hdrop : ∀ (l : List HeldAdd) (v : State), (l.foldl State.dropHeld v).upd = v.upd := by
    intro l
    induction l with
    | nil => exact fun _ => rfl
    | cons h l ih =>
      intro v
      exact (ih _).trans ((State.dropHeld_does (μ := 103083409408) v h (by decide) (Does.rfl' _ v)).frame .update (by decide))
  have hzero : ∀ oa n, (s.zeroOA oa n).upd = s.upd := fun oa n =>
    (State.zeroOA_does (μ := 3145728) s oa n (by decide) (Does.rfl' _ s)).frame .update (by decide)
  have hwipe : (s.wipeAcc a).upd.cleared = s.upd.cleared := by
    unfold State.wipeAcc
    dsimp only
    rw [hdrop, hzero]
  unfold State.clearAcc
  dsimp only
  split
  · exact (State.forEach_keeps (fun v => v.upd.cleared) _ _ (fun v _ => congrArg UpdSt.cleared
      ((State.addSem_does (μ := 17719910528) v _ _ (by decide) (Does.rfl' _ v)).frame .update (by decide))) _).trans hwipe
  · exact hwipe

/-- An accumulator whose CLEAR_AT comes next is cleared (R310). -/
theorem accumulatorClear_clears (a : Nat) (s : State) (hr : s.planRuns = true) (hi : s.inStep = true)
    (hl : leastBy (fun x => (accDesc s.updProg x).clear) ((upTo (fieldLe s.updProg 0 2)).filter
      (fun x => (accDesc s.updProg x).clear != 0 && !s.upd.cleared.contains x)) = some a) :
    ∃ t, exec .accumulatorClear s = .next t ∧ t.upd.cleared.contains a = true := by
  refine ⟨_, rfl, ?_⟩
  simp only [hl, hr, hi, Bool.not_true, Bool.or_self, Bool.false_eq_true, if_false]
  refine State.forEach_establishes (p := fun v => v.upd.cleared.contains a = true) (a := a)
    (List.mem_filter.mpr ⟨leastBy_mem hl, ?_⟩) ?_ ?_ _
  · exact beq_self_eq_true _
  · intro v
    exact List.contains_iff_mem.mpr ((NSet.mem_ins _ _ _).mpr (.inl rfl))
  · intro v x hv
    refine List.contains_iff_mem.mpr ((NSet.mem_ins _ _ _).mpr (.inr ?_))
    rw [State.clearAcc_cleared]
    exact List.contains_iff_mem.mp hv

end Sys2Proof.Machine
end

section
/-! SUPPORT. O60, R210 and R211: WAITPACE and WAITSEM pass when what they ask for is there. -/

namespace Sys2Proof.Machine

/-- A stream stands where it stood: the same STATE, PC and program. -/
structure SameStand (n : Nat) (s t : State) : Prop where
  state : t.rf (R.STREAM_RUN_STATE n) = s.rf (R.STREAM_RUN_STATE n)
  pc    : t.rf (R.STREAM_RUN_PC n) = s.rf (R.STREAM_RUN_PC n)
  prog  : t.rf (R.STREAM_CTL_PROGRAM n) = s.rf (R.STREAM_CTL_PROGRAM n)
  strs  : t.strs = s.strs
  chart : t.chart = s.chart

theorem SameStand.refl (n : Nat) (s : State) : SameStand n s s := ⟨rfl, rfl, rfl, rfl, rfl⟩

theorem SameStand.trans {n : Nat} {s t u : State} (h1 : SameStand n s t) (h2 : SameStand n t u) : SameStand n s u :=
  ⟨h2.state.trans h1.state, h2.pc.trans h1.pc, h2.prog.trans h1.prog, h2.strs.trans h1.strs, h2.chart.trans h1.chart⟩

/-- A field of STREAM_RUN or STREAM_CTL lies in STREAM. -/
theorem streamRun_blk (n lo w : Nat) (h : lo < 64) : Fld.blk ⟨0x100018 + 0x40 * (n % 16384), lo, w⟩ = 5 :=
  Fld.blk_elem 0x100018 0x40 n 16384 lo w 5 h (by decide) (by decide) (by decide)

theorem streamCtl_blk (n lo w : Nat) (h : lo < 64) : Fld.blk ⟨0x100000 + 0x40 * (n % 16384), lo, w⟩ = 5 :=
  Fld.blk_elem 0x100000 0x40 n 16384 lo w 5 h (by decide) (by decide) (by decide)

/-- An operation that leaves STREAM's registers, the streams and the chart leaves a stream where it stands. -/
theorem Does.sameStand {m : Nat} {s t : State} (n : Nat) (h : Does m s t) (h5 : m.testBit 5 = false) (h39 : m.testBit 39 = false)
    (h30 : m.testBit 30 = false) : SameStand n s t where
  state := h.rf _ (by rw [R.STREAM_RUN_STATE, streamRun_blk _ _ _ (by decide), h5])
  pc := h.rf _ (by rw [R.STREAM_RUN_PC, streamRun_blk _ _ _ (by decide), h5])
  prog := h.rf _ (by rw [R.STREAM_CTL_PROGRAM, streamCtl_blk _ _ _ (by decide), h5])
  strs := h.frame .streams h39
  chart := h.frame .chart h30

/-- A stream that stands where it stood has the same unit before it. -/
theorem SameStand.unit_eq {n : Nat} {s t : State} (h : SameStand n s t) : t.unit n = s.unit n := by
  refine State.unit_congr ?_ h.pc
  have hstr : t.str n = s.str n := by unfold State.str; rw [h.strs]
  unfold State.progOf
  rw [hstr, h.chart, h.prog]

/-- A stream that stands where it stood passes an instruction of one unit. -/
theorem SameStand.passes {n : Nat} {s t : State} (h : SameStand n s t) (hu : unitsOfInstr (s.unit n) = 1) :
    Passed n (s.rf (R.STREAM_RUN_PC n) + 1) s (t.passInstr n) := by
  rw [← h.pc]
  exact State.passInstr_passed s t n (by rw [h.unit_eq, hu]) h.state

/-! ## WAITPACE -/

/-- Settling pace credits writes no register. -/
theorem State.settlePace_does' (s : State) (n : Nat) : Does 103083409408 s (s.settlePace n) :=
  State.settlePace_does s n (by decide) (Does.rfl' _ s)

/-- WAITPACE passes where the pace it asks for has come, and counts it used (R210). -/
theorem waitpace_passes (n : Fin 16384) (s : State) (hat : s.atOp n.val opWAITPACE = true)
    (hk : (fieldLe (s.unit n.val) 2 2 : Int) ≤ s.paceDiff n.val) :
    ∃ t, exec (.waitpace n) s = .next t ∧ Passed n.val (s.rf (R.STREAM_RUN_PC n.val) + 1) s t ∧
      t.rf (R.STREAM_RUN_PACE_USED n.val) = (s.rf (R.STREAM_RUN_PACE_USED n.val) + fieldLe (s.unit n.val) 2 2) % 2 ^ 16 := by
  refine ⟨_, rfl, ?_⟩
  simp only [hat, Bool.not_true, Bool.false_eq_true, if_false]
  rw [if_pos (by omega)]
  have hset : SameStand n.val s (s.set (R.STREAM_RUN_PACE_USED n.val) (s.rf (R.STREAM_RUN_PACE_USED n.val) + fieldLe (s.unit n.val) 2 2)) :=
    ⟨State.rf_set_of_ne _ _ _ _ (by simp [Fld.key, R.STREAM_RUN_STATE, R.STREAM_RUN_PACE_USED]),
      State.rf_set_of_ne _ _ _ _ (by simp [Fld.key, R.STREAM_RUN_PC, R.STREAM_RUN_PACE_USED]),
      State.rf_set_of_ne _ _ _ _ (by simp only [Fld.key, R.STREAM_CTL_PROGRAM, R.STREAM_RUN_PACE_USED]; omega), rfl, rfl⟩
  have hd := State.settlePace_does' (s.set (R.STREAM_RUN_PACE_USED n.val) (s.rf (R.STREAM_RUN_PACE_USED n.val) + fieldLe (s.unit n.val) 2 2)) n.val
  refine ⟨(hset.trans (hd.sameStand n.val (by decide) (by decide) (by decide))).passes
    (unitsOfInstr_one (by rw [State.atOp_op hat]; decide)), ?_⟩
  rw [OnlyWrites.passInstr (OnlyWrites.refl _) (R.STREAM_RUN_PACE_USED n.val)
      (by simp [Fld.key, R.STREAM_RUN_PACE_USED, R.STREAM_RUN_PC, R.STREAM_RUN_STATE, R.STREAM_RUN_WAIT]),
    hd.rf _ (by rw [R.STREAM_RUN_PACE_USED, streamRun_blk _ _ _ (by decide)]; decide), State.rf_set_same]
  rfl

/-! ## WAITSEM -/

/-- A status event of a stream leaves it where it stands. -/
theorem State.note_sameStand (s : State) (n st cause : Nat) : SameStand n s (s.note n st cause) := by
  have hst : SameStand n s (s.strStatus n st) := by
    unfold State.strStatus
    split
    · exact ⟨State.rf_set_of_ne _ _ _ _ (by simp [Fld.key, R.STREAM_RUN_STATE, R.STREAM_RUN_STATUS]),
        State.rf_set_of_ne _ _ _ _ (by simp [Fld.key, R.STREAM_RUN_PC, R.STREAM_RUN_STATUS]),
        State.rf_set_of_ne _ _ _ _ (by simp only [Fld.key, R.STREAM_CTL_PROGRAM, R.STREAM_RUN_STATUS]; omega), rfl, rfl⟩
    · exact SameStand.refl n s
  unfold State.note
  dsimp only
  split
  · exact hst
  · exact hst.trans ((State.raiseFlag_does (μ := 16777232) _ cause (by decide) (Does.rfl' _ _)).sameStand n (by decide) (by decide) (by decide))

/-- A refused request to a semaphore word leaves the stream where it stands. -/
theorem State.semRefuse_sameStand (s : State) (n : Nat) (why : Refused) (oa : Nat) : SameStand n s (s.semRefuse n why oa) :=
  ((State.tierRefuse_does (μ := 536895616) s why stBAD_ARG oa (by decide) (Does.rfl' _ s)).sameStand n (by decide) (by decide) (by decide)).trans
    (State.note_sameStand _ n _ _)

/-- A WAITSEM of VALUE 0 passes in any state. -/
theorem State.semPasses_of_zero {s : State} {n : Nat} (h : fieldLe (s.unit n) 4 4 = 0) : s.semPasses n = true := by
  simp [State.semPasses, h]

/-- A WAITSEM of another VALUE passes only where its word may be reached. -/
theorem State.semBad_of_semPasses {s : State} {n : Nat} (hp : s.semPasses n = true) (h : fieldLe (s.unit n) 4 4 ≠ 0) :
    s.semBad n (fieldLe (s.unit n) 8 8) = none := by
  simp only [State.semPasses, Bool.or_eq_true, beq_iff_eq, h, false_or, Bool.and_eq_true, Option.isNone_iff_eq_none] at hp
  exact hp.1.1

/-- A stream that passes its WAITSEM stands past it. -/
theorem State.passSem_passed {n : Nat} {s t : State} (h : SameStand n s t) (hu : unitsOfInstr (s.unit n) = 1) :
    Passed n (s.rf (R.STREAM_RUN_PC n) + 1) s (t.passSem n) := by
  unfold State.passSem
  dsimp only
  split
  · exact (h.trans ((State.setSem_does (μ := 17719910528) t _ _ (by decide) (Does.rfl' _ t)).sameStand n (by decide) (by decide) (by decide))).passes hu
  · exact h.passes hu

/-- WAITSEM is one unit long. -/
theorem State.unitsOfInstr_waitsem {s : State} {n : Nat} (hat : s.atOp n opWAITSEM = true) : unitsOfInstr (s.unit n) = 1 :=
  unitsOfInstr_one (by rw [State.atOp_op hat]; decide)

/-- WAITSEM passes where its word has reached VALUE (R211). -/
theorem waitsem_passes (n : Fin 16384) (s : State) (hat : s.atOp n.val opWAITSEM = true) (hp : s.semPasses n.val = true) :
    ∃ t, exec (.waitsem n) s = .next t ∧ Passed n.val (s.rf (R.STREAM_RUN_PC n.val) + 1) s t := by
  refine ⟨_, rfl, ?_⟩
  simp only [hat, Bool.not_true, Bool.false_eq_true, if_false]
  have hcome : ∀ u : State, SameStand n.val s u → u.semPasses n.val = true →
      Passed n.val (s.rf (R.STREAM_RUN_PC n.val) + 1) s (if u.semPasses n.val = true then u.passSem n.val else u.waitOn n.val wtSEM) := by
    intro u hu hup
    rw [if_pos hup]
    exact State.passSem_passed hu (State.unitsOfInstr_waitsem hat)
  by_cases hw : s.rf (R.STREAM_RUN_WAIT n.val) = wtSEM
  · rw [if_pos hw]
    exact hcome s (SameStand.refl _ s) hp
  · rw [if_neg hw]
    cases hb : s.semBad n.val (fieldLe (s.unit n.val) 8 8) with
    | none => exact hcome s (SameStand.refl _ s) hp
    | some why =>
      have hz : fieldLe (s.unit n.val) 4 4 = 0 := by
        by_contra h
        rw [State.semBad_of_semPasses hp h] at hb
        cases hb
      have hs := s.semRefuse_sameStand n.val why (fieldLe (s.unit n.val) 8 8)
      exact hcome _ hs (State.semPasses_of_zero (by rw [hs.unit_eq, hz]))

/-- A waiting WAITSEM passes once its word has reached VALUE (R211). -/
theorem waitsemPass_passes (n : Fin 16384) (s : State) (hat : s.atOp n.val opWAITSEM = true) (hw : s.rf (R.STREAM_RUN_WAIT n.val) = wtSEM)
    (hp : s.semPasses n.val = true) :
    ∃ t, exec (.waitsemPass n) s = .next t ∧ Passed n.val (s.rf (R.STREAM_RUN_PC n.val) + 1) s t := by
  refine ⟨_, rfl, ?_⟩
  rw [if_pos (by rw [hat, hw, hp]; rfl)]
  exact State.passSem_passed (SameStand.refl _ s) (State.unitsOfInstr_waitsem hat)

end Sys2Proof.Machine
end

section
/-! SUPPORT. O60, R231, R249, R404, R132: rounds and pauses begin and end, counters are cleared. -/

namespace Sys2Proof.Machine

/-! ## Round ends -/

/-- Serving what waits moves no row. -/
@[simp] theorem State.serveWaiting_row (s : State) : s.serveWaiting.row = s.row :=
  (State.serveWaiting_does (μ := 52622508714480) s (by decide) (Does.rfl' _ s)).frame .row (by decide)

@[simp] theorem State.addTension_row (s : State) (k : Nat) : (s.addTension k).row = s.row :=
  (State.addTension_does (μ := 134217728) s k (by decide) (Does.rfl' _ s)).frame .row (by decide)

@[simp] theorem State.flushIdle_row (s : State) : s.flushIdle.row = s.row :=
  (State.flushIdle_does (μ := 67174400) s (by decide) (Does.rfl' _ s)).frame .row (by decide)

@[simp] theorem State.mapProgress_row (s : State) : s.mapProgress.row = s.row :=
  (State.mapProgress_does (μ := 8388736) s (by decide) (Does.rfl' _ s)).frame .row (by decide)

@[simp] theorem State.mapProgress_idleRun (s : State) : s.mapProgress.idleRun = s.idleRun :=
  ((State.mapProgress_does (μ := 8388736) s (by decide) (Does.rfl' _ s)).frame .idleRuns (by decide)).1

/-- A round of plan time ends at its last count (R231). -/
theorem roundEnd_row (s : State) (hoff : s.pwr.off = false) (hp : s.inPlan = true) :
    ∃ t, exec .roundEnd s = .next t ∧ t.row = max s.row (s.planC + ((s.row - s.planC) / 32 + 1) * 32) := by
  refine ⟨_, rfl, ?_⟩
  simp [hoff, hp]

/-- Outside plan time the idle ticks counted are added at each multiple of 32 (R404). -/
theorem idleCumPeriod_row (s : State) (hoff : s.pwr.off = false) (hp : s.inPlan = false) :
    ∃ t, exec .idleCumPeriod s = .next t ∧ t.row = s.row / 32 * 32 + 32 ∧ t.idleRun = [] := by
  refine ⟨_, rfl, ?_⟩
  simp only [hoff, hp, Bool.false_eq_true, or_self, if_false, State.mapProgress_row, State.flushIdle_row, State.serveWaiting_row,
    State.advance_row, State.mapProgress_idleRun]
  exact ⟨by omega, rfl⟩

/-! ## Pauses -/

theorem State.advance_fault (s : State) (t : Nat) : (s.advance t).fault = s.fault :=
  (State.advance_does (μ := 67633168) s t (by decide) (Does.rfl' _ s)).frame .fault (by decide)

/-- A failover pause that is asked for begins (R231, R417). -/
theorem pauseBegin_pauses (s : State) (hoff : s.pwr.off = false) (hp : s.inPlan = true) (he : s.fault.pauseEnd = none)
    (hpeer : s.fault.peerPause = false) (hw : 0 < s.fault.pauseWant) :
    ∃ t, exec .pauseBegin s = .next t ∧ t.rf R.FAULT_STATUS_PAUSED = 1 ∧ t.paused = true := by
  refine ⟨_, rfl, ?_⟩
  rw [if_neg (by simp [hoff, hp, he, hpeer]), if_pos hw]
  refine ⟨?_, rfl⟩
  exact (State.rf_set_of_ne _ _ _ _ (by decide)).trans (State.rf_set_same _ _ _)

/-- A paused device moves its row on in one phase. -/
theorem State.advance_of_paused (s : State) (t : Nat) (h : s.paused = true) : s.advance t = s.passTo t := by
  unfold State.advance
  rw [if_neg (by simp [h])]

/-- The entry of a page depends on the tiers' own state and the directory's registers only. -/
theorem State.entOf_congr {s t : State} (page : Nat) (ht : t.tier = s.tier)
    (hd : ∀ i lo w, lo < 64 → t.rf ⟨0x340000 + 0x8 * (i % 16384), lo, w⟩ = s.rf ⟨0x340000 + 0x8 * (i % 16384), lo, w⟩) :
    t.entOf page = s.entOf page := by
  have hkind : t.rf (R.TIER_DIR_KIND (page / 131072)) = s.rf (R.TIER_DIR_KIND (page / 131072)) := hd _ 62 2 (by decide)
  have hcls : t.rf (R.TIER_DIR_CLASS (page / 131072)) = s.rf (R.TIER_DIR_CLASS (page / 131072)) := hd _ 58 4 (by decide)
  have hcache : t.rf (R.TIER_DIR_HOSTCACHE (page / 131072)) = s.rf (R.TIER_DIR_HOSTCACHE (page / 131072)) := hd _ 57 1 (by decide)
  have htarget : t.rf (R.TIER_DIR_TARGET (page / 131072)) = s.rf (R.TIER_DIR_TARGET (page / 131072)) := hd _ 0 13 (by decide)
  unfold State.entOf State.l2
  dsimp only
  rw [ht, hkind, hcls, hcache, htarget]

/-- The directory's registers lie in TIER. -/
theorem tierDir_blk (i lo w : Nat) (h : lo < 64) : Fld.blk ⟨0x340000 + 0x8 * (i % 16384), lo, w⟩ = 7 :=
  Fld.blk_elem 0x340000 0x8 i 16384 lo w 7 h (by decide) (by decide) (by decide)

/-- An operation that leaves the tiers and their registers leaves the lookup of pages. -/
theorem Does.entOf_eq {m : Nat} {s t : State} (h : Does m s t) (h7 : m.testBit 7 = false) (h38 : m.testBit 38 = false) (page : Nat) :
    t.entOf page = s.entOf page :=
  State.entOf_congr page (h.frame .tier h38) (fun i lo w hlo => h.rf _ (by rw [tierDir_blk i lo w hlo, h7]))

/-- Moving the row and writing FAULT registers leaves the open barriers that a pause waits for. -/
theorem Does.peerWaits_eq {s t : State} (h : Does 67641344 s t) : t.peerWaits = s.peerWaits := by
  have hchart : t.chart = s.chart := h.frame .chart (by decide)
  have hstep : t.step = s.step := h.frame .step (by decide)
  have hbar : t.bar = s.bar := h.frame .barriers (by decide)
  have hfault : t.fault = s.fault := h.frame .fault (by decide)
  have hstr : ∀ n, t.str n = s.str n := fun n => by unfold State.str; rw [h.frame .streams (by decide)]
  have hvar : t.variant = s.variant := h.rf _ (by decide)
  have hdev : t.devices = s.devices := h.rf _ (by decide)
  have hphase : t.phase = s.phase := h.rf _ (by decide)
  have hprog : ∀ n, t.progOf n = s.progOf n := by
    intro n
    have hp : t.rf (R.STREAM_CTL_PROGRAM n) = s.rf (R.STREAM_CTL_PROGRAM n) :=
      h.rf _ (by rw [R.STREAM_CTL_PROGRAM, streamCtl_blk _ _ _ (by decide)]; decide)
    unfold State.progOf
    rw [hstr, hchart, hp]
  have hset : t.runSet = s.runSet := by unfold State.runSet; rw [hchart, hstep, hvar]
  have hsch : t.schedule = s.schedule := by unfold State.schedule; rw [hchart, hstep, hvar]
  have hplanC : t.planC = s.planC := by
    unfold State.planC
    rw [hphase, hstep, h.rf R.STEP_CASTON_VALUE (by decide)]
  have hsem : ∀ oa, t.semWord oa = s.semWord oa := by
    intro oa
    have hb : ∀ a, t.byteAt a = s.byteAt a := h.frame .memory (by decide)
    unfold State.semWord
    rw [h.entOf_eq (by decide) (by decide)]
    simp only [hb]
  have hann : ∀ id j, t.announced id j = s.announced id j := by
    intro id j
    unfold State.announced
    rw [hsem, h.rf R.SYNC_BARRIER_LOCAL_PAGE (by decide)]
  have hdone : ∀ id g, t.configDone id g = s.configDone id g := by
    intro id g
    unfold State.configDone State.localGen
    simp only [hbar, hdev, hann, h.rf R.SYNC_CONFIG_MEMBER (by decide)]
  have hloc : ∀ id, t.localBarrier id = s.localBarrier id := by
    intro id
    unfold State.localBarrier
    simp only [hset, hprog]
  have hopen : t.openBarriers = s.openBarriers := by
    unfold State.openBarriers
    simp only [hsch, hdev, hdone, hloc]
  unfold State.peerWaits
  rw [hopen, hplanC, hstep, hfault]

/-- Ports that are all up are left alone at the end of a pause. -/
theorem State.resetLatePorts_of_none (s : State) (h : ∀ p : Fin 4, s.rf (R.CDP_STATUS_STATE p.val) ≠ 5) : s.resetLatePorts = s := by
  have hnil : (upTo 4).filter (fun p => s.rf (R.CDP_STATUS_STATE p) == 5) = [] := by
    rw [List.filter_eq_nil_iff]
    intro p hp
    simpa using h ⟨p, List.mem_range.mp hp⟩
  unfold State.resetLatePorts
  rw [hnil]
  rfl

/-- A failover pause ends at its count, and plan time goes on (R231, R418). -/
theorem pauseEnd_resumes (e : Nat) (s : State) (he : s.fault.pauseEnd = some e) (hport : ∀ p : Fin 4, s.rf (R.CDP_STATUS_STATE p.val) ≠ 5)
    (hw : s.peerWaits = false) :
    ∃ t, exec .pauseEnd s = .next t ∧ t.row = max s.row e ∧ t.rf R.FAULT_STATUS_PAUSED = 0 ∧ t.paused = false := by
  refine ⟨_, rfl, ?_⟩
  simp only [he]
  rw [State.advance_of_paused s e (by simp [State.paused, he])]
  have hd : Does 67641344 s ((s.passTo e).set R.FAULT_STATUS_PAUSED 0) :=
    Does.set _ _ _ (ok_FAULT_STATUS_PAUSED (by decide)) (State.passTo_does s e (by decide) (Does.rfl' _ s))
  have hrow : ((s.passTo e).set R.FAULT_STATUS_PAUSED 0).row = max s.row e := State.passTo_row _ _
  have hpa : ((s.passTo e).set R.FAULT_STATUS_PAUSED 0).rf R.FAULT_STATUS_PAUSED = 0 := State.rf_set_same _ _ _
  have hlate := State.resetLatePorts_of_none ((s.passTo e).set R.FAULT_STATUS_PAUSED 0) (fun p => by
    rw [hd.rf _ (by rw [R.CDP_STATUS_STATE, Fld.blk_elem _ _ _ _ _ _ 11 (by decide) (by decide) (by decide) (by decide)]; decide)]
    exact hport p)
  have hwait := hd.peerWaits_eq.trans hw
  unfold State.endFailover
  generalize (s.passTo e).set R.FAULT_STATUS_PAUSED 0 = u at hrow hpa hlate hwait ⊢
  dsimp only
  rw [hlate, hwait, if_neg Bool.false_ne_true]
  have hs := State.showWakes_does (μ := 512) u.resumePlan (by decide) (Does.rfl' _ _)
  refine ⟨(hs.frame .row (by decide)).trans hrow, (hs.rf _ (by decide)).trans hpa, ?_⟩
  show (_ || _) = false
  rw [hs.frame .fault (by decide)]
  rfl

/-! ## Clears -/

/-- Fields written 0 one after another read 0. -/
theorem State.forEach_set_zero (s : State) {n k : Nat} (f : Nat → Fld) (hk : k < n) :
    (s.forEach (upTo n) (fun t j => t.set (f j) 0)).rf (f k) = 0 := by
  refine State.forEach_establishes (p := fun v => v.rf (f k) = 0) (List.mem_range.mpr hk) ?_ ?_ s
  · intro v
    rw [State.rf_set_same, Nat.zero_mod]
  · intro v x hv
    rw [State.rf_set, hv, Nat.zero_mod, ite_self]

/-- What a 64-bit write gives a field of its master. -/
theorem Wr.get_full {m : Master} {v : Nat} {own : Own} {f : Fld} (hm : mayWrite m own = true) (hf : f.lo < 64 ∧ 0 < f.w) :
    (Wr.full m v).get own f = bitsOf v f.lo f.w := by
  have ht : (Wr.full m v).touches f.lo f.w = true := by
    simp [Wr.touches, Wr.full]
    omega
  have hm' : mayWrite (Wr.full m v).m own = true := hm
  unfold Wr.get
  rw [ht, hm']
  rfl

/-- The lowest bit of a word in which it is set. -/
theorem bitsOf_or_one (v : BitVec 64) : bitsOf (v ||| 1).toNat 0 1 = 1 := by
  rw [bitsOf_one, BitVec.toNat_or]
  simp

/-- A register write outside STEP leaves what holds a clear back. -/
theorem State.regWrite_heldBack (s : State) (off m : Nat) (w : Wr) (hb : m.testBit (blockOf off) = true) (hl : subMask 536895488 m = true)
    (h4 : m.testBit 4 = false) (h31 : m.testBit 31 = false) :
    ((s.regWrite off w).inStep || (s.regWrite off w).step.figDue) = (s.inStep || s.step.figDue) := by
  have hd : Does m s (s.regWrite off w) := State.regWrite_does s off w hb hl (Does.rfl' _ s)
  have hp : (s.regWrite off w).phase = s.phase := hd.rf _ h4
  unfold State.inStep
  rw [hp, hd.frame .step h31]

/-- Outside a step the counters are cleared at once (R132, R254, R404). -/
theorem clears_at_once (v : BitVec 64) (s : State) (hreach : s.reach .host = true) (hs : (s.inStep || s.step.figDue) = false) :
    (∃ t, exec (.gaugeClear .host v) s = .next t ∧ ∀ k : Fin 256, t.rf (R.GAUGE_CUM_COUNT k.val) = 0) ∧
    (∃ t, exec (.tensionClear .host v) s = .next t ∧ ∀ k : Fin 16, t.rf (R.TENSION_CUM_COUNT k.val) = 0) ∧
    (∃ t, exec (.idleClear .host v) s = .next t ∧ ∀ c : Fin 8, t.rf (R.IDLE_CUM_TICKS c.val) = 0) := by
  have hget : ∀ f : Fld, f.lo = 0 → f.w = 1 → (Wr.full .host (v ||| 1).toNat).get .host f = 1 := by
    intro f hlo hw
    rw [Wr.get_full rfl (by omega), hlo, hw, bitsOf_or_one]
  have hback := fun off m hb hl h4 h31 => (s.regWrite_heldBack off m (Wr.full .host (v ||| 1).toNat) hb hl h4 h31).trans hs
  refine ⟨⟨_, rfl, fun k => ?_⟩, ⟨_, rfl, fun k => ?_⟩, ⟨_, rfl, fun c => ?_⟩⟩
  · rw [if_pos hreach]
    unfold State.writeGaugeCtrl
    simp only [hget R.GAUGE_CTRL_CLEAR rfl rfl, hback 0x680000 536928256 (by decide) (by decide) (by decide) (by decide), if_true,
      Bool.false_eq_true, if_false]
    exact State.forEach_set_zero _ R.GAUGE_CUM_COUNT k.isLt
  · rw [if_pos hreach]
    unfold State.writeTensionCtrl
    simp only [hget R.TENSION_CTRL_CLEAR rfl rfl, hback 0x708000 537026560 (by decide) (by decide) (by decide) (by decide), if_true,
      Bool.false_eq_true, if_false]
    exact State.forEach_set_zero _ R.TENSION_CUM_COUNT k.isLt
  · rw [if_pos hreach]
    unfold State.writeIdleCtrl
    simp only [hget R.IDLE_CTRL_CLEAR rfl rfl, hback 0x700000 536961024 (by decide) (by decide) (by decide) (by decide), if_true,
      Bool.false_eq_true, if_false]
    exact State.forEach_set_zero _ R.IDLE_CUM_TICKS c.isLt

end Sys2Proof.Machine
end

section
/-! SUPPORT. O60, R259, R280, R281, R282: a lookup is answered, a page changes its bias, a table entry is lost, a line comes back. -/

namespace Sys2Proof.Machine

/-! ## Words with low bits set or cleared -/

/-- The bits of a field depend on the bits from its lowest on. -/
theorem bitsOf_congr {a b lo w : Nat} (h : ∀ j, lo ≤ j → a.testBit j = b.testBit j) : bitsOf a lo w = bitsOf b lo w := by
  unfold bitsOf
  refine Nat.eq_of_testBit_eq fun i => ?_
  rw [Nat.testBit_mod_two_pow, Nat.testBit_mod_two_pow, Nat.testBit_div_two_pow, Nat.testBit_div_two_pow, h (i + lo) (by omega)]

/-- A small number has no high bits. -/
theorem testBit_small {c j : Nat} (hc : c < 4) (hj : 2 ≤ j) : c.testBit j = false :=
  Nat.testBit_lt_two_pow (lt_of_lt_of_le hc (Nat.pow_le_pow_right (by decide) hj : 2 ^ 2 ≤ 2 ^ j))

/-- Low bits set leave a field above them. -/
theorem bitsOf_or_low (v c : BitVec 64) (lo w : Nat) (hc : c.toNat < 4) (hlo : 2 ≤ lo) : bitsOf (v ||| c).toNat lo w = bitsOf v.toNat lo w := by
  refine bitsOf_congr fun j hj => ?_
  rw [BitVec.toNat_or, Nat.testBit_or, testBit_small hc (by omega), Bool.or_false]

/-- Low bits cleared leave a field above them. -/
theorem bitsOf_andNot_low (v c : BitVec 64) (lo w : Nat) (hc : c.toNat < 4) (hlo : 2 ≤ lo) :
    bitsOf (v &&& ~~~c).toNat lo w = bitsOf v.toNat lo w := by
  refine bitsOf_congr fun j hj => ?_
  have hcj : c.getLsbD j = false := testBit_small hc (by omega)
  rw [BitVec.testBit_toNat, BitVec.testBit_toNat, BitVec.getLsbD_and, BitVec.getLsbD_not, hcj, Bool.not_false, Bool.and_true]
  by_cases h : j < 64
  · simp [h]
  · simp [h, BitVec.getLsbD_of_ge v j (by omega)]

/-! ## Lookups -/

/-- A lookup leaves the page asked for. -/
theorem State.lookup_oaPage (s : State) (page : Nat) : (s.lookup page).rf R.TIER_LOOKUP_OA_PAGE = s.rf R.TIER_LOOKUP_OA_PAGE := by
  unfold State.lookup
  dsimp only
  iterate 6 refine (State.rf_set_of_ne _ _ _ _ (by decide)).trans ?_
  rfl

/-- TIER_LOOKUP shows the page asked for (R282). -/
theorem tierLookup_answers (v : BitVec 64) (s : State) (h : s.reach .host = true) :
    ∃ t, exec (.tierLookup .host v) s = .next t ∧ t.rf R.TIER_LOOKUP_OA_PAGE = bitsOf v.toNat 21 31 := by
  refine ⟨_, rfl, ?_⟩
  rw [if_pos h]
  have hf : (s.regWrite 0x300048 (Wr.full .host v.toNat)).rf R.TIER_LOOKUP_OA_PAGE = bitsOf v.toNat 21 31 :=
    State.regWrite_field s (r := R.TIER_LOOKUP_OA_PAGE.hostRow) R.TIER_LOOKUP_OA_PAGE (findReg_of_alone (by decide +kernel) (by decide))
      (by decide) (by decide) (by decide)
  have hh : (Wr.full .host v.toNat).hits .host R.TIER_LOOKUP_OA_PAGE = true := rfl
  unfold State.writeLookup
  dsimp only
  rw [if_pos hh, State.lookup_oaPage, hf]

/-! ## Changes of bias -/

/-- The row of TIER_BIAS_CMD (R281). -/
def biasCmdRow : RegRow :=
  ⟨0x300040, 1, 0x0, 64, [⟨21, 31, .rw, .host⟩, ⟨8, 8, .ro, .fw⟩, ⟨2, 1, .ro, .fw⟩, ⟨1, 1, .rw, .host⟩, ⟨0, 1, .wo, .host⟩]⟩

theorem findReg_biasCmd : findReg 0x300040 = some biasCmdRow := findReg_of_alone (by decide +kernel) (by decide)

/-- The owner of a page is the chart's affair. -/
theorem State.pageOwner_congr {s t : State} (h : t.chart = s.chart) (page : Nat) : t.pageOwner page = s.pageOwner page := by
  unfold State.pageOwner State.inStage State.ownerOf
  rw [h]

/-- The directory lies apart from the registers of commands and records. -/
theorem tierDir_key_ne (i lo w off : Nat) (hlo : lo < 64) (hoff : off < 0x340000) :
    (⟨0x340000 + 0x8 * (i % 16384), lo, w⟩ : Fld).key / 64 ≠ off := by
  unfold Fld.key
  dsimp only
  omega

/-- What a write of TIER_BIAS_CMD leaves of the pages: their entries and their owners. -/
theorem State.biasCmd_pages (s : State) (v page : Nat) :
    (s.regWrite 0x300040 (Wr.full .host v)).entOf page = s.entOf page ∧
    (s.regWrite 0x300040 (Wr.full .host v)).pageOwner page = s.pageOwner page := by
  have hd : Does 536895616 s (s.regWrite 0x300040 (Wr.full .host v)) := State.regWrite_does s _ _ (by decide) (by decide) (Does.rfl' _ s)
  refine ⟨State.entOf_congr page (hd.frame .tier (by decide)) fun i lo w hlo => ?_, State.pageOwner_congr (hd.frame .chart (by decide)) page⟩
  have hlog : Fld.notLog ⟨0x340000 + 0x8 * (i % 16384), lo, w⟩ = true := by
    have hb := tierDir_blk i lo w hlo
    exact Fld.notLog_of_blk (by rw [hb]; decide) (by rw [hb]; decide)
  have hrow : biasCmdRow.fields.all (fun f => decide (0 < f.w ∧ f.lo + f.w ≤ 64)) = true := by decide
  exact State.regWrite_other s _ findReg_biasCmd hrow hlog (tierDir_key_ne i lo w _ hlo (by decide))

/-- The registers stand apart from what the tiers keep. -/
theorem State.rf_withTier (s : State) (x : TierSt) (f : Fld) : ({ s with tier := x } : State).rf f = s.rf f := rfl

/-- Asking for lines back leaves the registers. -/
theorem State.rf_invalidate (s : State) (ls : List Nat) (f : Fld) : (s.invalidate ls).rf f = s.rf f := rfl

/-- A change of bias that is accepted: the command waits with its page and direction, and its status is OK (R281). -/
theorem State.writeBiasCmd_accepted (s : State) {v : Nat} {e : Ent} (hgo : bitsOf v 0 1 = 1) (hbusy : s.rf R.TIER_BIAS_CMD_BUSY ≠ 1)
    (he : s.entOf (bitsOf v 21 31) = some e) (hc : e.cache = true) (ho : s.pageOwner (bitsOf v 21 31) = 1) :
    (s.writeBiasCmd (Wr.full .host v)).tier.biasCmd = some (bitsOf v 21 31, bitsOf v 1 1 == 1) ∧
    (s.writeBiasCmd (Wr.full .host v)).rf R.TIER_BIAS_CMD_STATUS = stOK := by
  have hpage : (s.regWrite 0x300040 (Wr.full .host v)).rf R.TIER_BIAS_CMD_PAGE = bitsOf v 21 31 :=
    State.regWrite_field s (r := biasCmdRow) R.TIER_BIAS_CMD_PAGE findReg_biasCmd (by decide) (by decide) (by decide)
  have hdir : (s.regWrite 0x300040 (Wr.full .host v)).rf R.TIER_BIAS_CMD_TO_HOST = bitsOf v 1 1 :=
    State.regWrite_field s (r := biasCmdRow) R.TIER_BIAS_CMD_TO_HOST findReg_biasCmd (by decide) (by decide) (by decide)
  obtain ⟨hent, hown⟩ := s.biasCmd_pages v (bitsOf v 21 31)
  have hget : (Wr.full .host v).get .host R.TIER_BIAS_CMD_GO = 1 := (Wr.get_full rfl (by decide)).trans hgo
  unfold State.writeBiasCmd
  simp only [hget, hbusy, hpage, hdir, hent, hown, he, hc, ho, ne_eq, not_true_eq_false, Bool.not_true, Bool.false_eq_true, if_false]
  generalize s.regWrite 0x300040 (Wr.full .host v) = t
  have hst : ((t.set R.TIER_BIAS_CMD_STATUS stOK).set R.TIER_BIAS_CMD_BUSY 1).rf R.TIER_BIAS_CMD_STATUS = stOK :=
    (State.rf_set_of_ne _ _ _ _ (by decide)).trans (State.rf_set_same _ _ _)
  split
  · exact ⟨rfl, (State.rf_withTier _ _ _).trans hst⟩
  · exact ⟨rfl, (State.rf_invalidate _ _ _).trans ((State.rf_withTier _ _ _).trans hst)⟩

/-- BIAS_TO_HOST and BIAS_TO_DEVICE of a host page in a cached class begin (R281). -/
theorem biasChange_begins (v : BitVec 64) (e : Ent) (s : State) (h : s.reach .host = true) (hbusy : s.rf R.TIER_BIAS_CMD_BUSY ≠ 1)
    (he : s.entOf (bitsOf v.toNat 21 31) = some e) (hc : e.cache = true) (ho : s.pageOwner (bitsOf v.toNat 21 31) = 1) :
    (∃ t, exec (.biasToHost .host v) s = .next t ∧ t.tier.biasCmd = some (bitsOf v.toNat 21 31, true) ∧ t.rf R.TIER_BIAS_CMD_STATUS = stOK) ∧
    (∃ t, exec (.biasToDevice .host v) s = .next t ∧ t.tier.biasCmd = some (bitsOf v.toNat 21 31, false) ∧ t.rf R.TIER_BIAS_CMD_STATUS = stOK) := by
  have hbegin : ∀ (x : BitVec 64) (up : Bool), bitsOf x.toNat 21 31 = bitsOf v.toNat 21 31 → bitsOf x.toNat 0 1 = 1 →
      (bitsOf x.toNat 1 1 == 1) = up → (s.writeBiasCmd (Wr.full .host x.toNat)).tier.biasCmd = some (bitsOf v.toNat 21 31, up) ∧
        (s.writeBiasCmd (Wr.full .host x.toNat)).rf R.TIER_BIAS_CMD_STATUS = stOK := by
    intro x up hp hgo hup
    have := s.writeBiasCmd_accepted hgo hbusy (hp ▸ he) hc (hp ▸ ho)
    rwa [hp, hup] at this
  refine ⟨⟨_, rfl, ?_⟩, ⟨_, rfl, ?_⟩⟩
  · rw [if_pos h]
    refine hbegin _ _ (bitsOf_or_low v 3 21 31 (by decide) (by decide)) ?_ ?_
    · rw [bitsOf_one, BitVec.testBit_toNat]; simp
    · rw [bitsOf_one, BitVec.testBit_toNat]; simp
  · rw [if_pos h]
    refine hbegin _ _ ((bitsOf_or_low _ 1 21 31 (by decide) (by decide)).trans (bitsOf_andNot_low v 2 21 31 (by decide) (by decide))) ?_ ?_
    · exact bitsOf_or_one _
    · rw [bitsOf_one, BitVec.testBit_toNat]; simp

/-- A bit of a word turned over. -/
theorem testBit_xor_twoPow_self (x k : Nat) (hk : k < 64) : ((x ^^^ 2 ^ k) % 2 ^ 64).testBit k = !x.testBit k := by
  rw [Nat.testBit_mod_two_pow, Nat.testBit_xor, Nat.testBit_two_pow_self]
  simp [hk]

/-- A change of bias that nothing holds back is done: the page's bias is the one asked for (R281). -/
theorem biasChangeDone_applies (page : Nat) (up : Bool) (s : State) (e : Ent) (hcmd : s.tier.biasCmd = some (page, up))
    (hup : up = true → s.hostBlockAt page = false) (hdn : up = false → (s.tier.waitLine.any fun l => l / 32768 == page) = false)
    (he : s.entOf page = some e) (hmode : s.rf R.TIER_STATUS_MODE = 1) (hpg : e.page < 253952) :
    ∃ t, exec .biasChangeDone s = .next t ∧ t.bias e.page = up ∧ t.tier.biasCmd = none := by
  refine ⟨_, rfl, ?_⟩
  simp only [hcmd]
  have h1 : (up && s.hostBlockAt page) = false := by cases up <;> simp_all
  have h2 : (!up && s.tier.waitLine.any fun l => l / 32768 == page) = false := by cases up <;> simp_all
  rw [h1, h2]
  simp only [Bool.false_eq_true, if_false, he, hmode]
  have hkeep : ∀ u : State, (u.set R.TIER_BIAS_CMD_BUSY 0).bias e.page = u.bias e.page := by
    intro u
    unfold State.bias
    rw [State.rf_set_of_ne]
    simp only [Fld.key, R.TIER_BIAS_BIAS, R.TIER_BIAS_CMD_BUSY]
    omega
  by_cases hb : s.bias e.page = up
  · rw [if_pos (.inr (.inr hb))]
    exact ⟨(hkeep _).trans hb, rfl⟩
  · rw [if_neg (by simp only [hb, or_false]; omega)]
    refine ⟨?_, rfl⟩
    unfold State.bias
    rw [State.rf_set_same]
    show ((_ ^^^ 2 ^ _) % 2 ^ 64).testBit _ = _
    rw [testBit_xor_twoPow_self _ _ (Nat.mod_lt _ (by decide))]
    unfold State.bias at hb
    cases up <;> simpa using hb

/-! ## Lost entries and lines -/

/-- What a lost map-memory entry names: the level-2 entry of the page where one stands, else the directory entry. A page whose entry is lost has none (R259). -/
theorem State.entOf_bad (s : State) {page : Nat} (bad : Nat) (hb : s.tier.badEnt.contains bad = true)
    (h : bad = page / 131072 ∨ (s.rf (R.TIER_DIR_KIND (page / 131072)) = 1 ∧
      bad = 2 ^ 20 + s.rf (R.TIER_DIR_TARGET (page / 131072)) % 64 * 131072 + page % 131072)) : s.entOf page = none := by
  unfold State.entOf
  dsimp only
  rcases h with rfl | ⟨hk, rfl⟩
  · rw [hb, if_pos rfl]
  · split
    · rfl
    · simp only [hk, Nat.reduceEqDiff, if_false]

/-- Recording a lost entry leaves the lookup of pages. -/
theorem State.tableErr_entOf (s : State) (aux page : Nat) :
    (((s.set R.TIER_ERR_TABLE_ERR 1).set R.TIER_ERR_LAST_STATUS stCHECK_FAIL).logEv stCHECK_FAIL 0x30 0 0 aux).entOf page = s.entOf page := by
  have hlog := State.logEv_does (μ := 536895488) ((s.set R.TIER_ERR_TABLE_ERR 1).set R.TIER_ERR_LAST_STATUS stCHECK_FAIL) stCHECK_FAIL 0x30 0 0 aux
    (by decide) (Does.rfl' _ _)
  refine State.entOf_congr page (hlog.frame .tier (by decide)) fun i lo w hlo => ?_
  rw [hlog.rf _ (by rw [tierDir_blk i lo w hlo]; decide),
    State.rf_set_of_ne _ _ _ _ (by simp only [Fld.key, R.TIER_ERR_LAST_STATUS]; omega),
    State.rf_set_of_ne _ _ _ _ (by simp only [Fld.key, R.TIER_ERR_TABLE_ERR]; omega)]

/-- MAP_MEMORY_ERROR: the page acts as unmapped, and TIER_ERR shows it (R259, R413). -/
theorem mapMemoryError_unmaps (oa : BitVec 52) (dir : Bool) (s : State) (hp : 2 ≤ s.rf R.PWR_STATE_STATE) :
    ∃ t, exec (.mapMemoryError ⟨oa, dir⟩) s = .next t ∧ t.entOf (oa.toNat / 2 ^ 21) = none ∧ t.rf R.TIER_ERR_TABLE_ERR = 1 := by
  refine ⟨_, rfl, ?_⟩
  rw [if_neg (by omega)]
  dsimp only
  refine ⟨?_, ?_⟩
  · rw [State.tableErr_entOf]
    refine State.entOf_bad _ _ (List.contains_iff_mem.mpr ((NSet.mem_ins _ _ _).mpr (.inl rfl))) ?_
    split
    · rename_i h
      simp only [Bool.and_eq_true, beq_iff_eq] at h
      exact .inr ⟨h.2, rfl⟩
    · exact .inl rfl
  · rw [State.logEv_rf _ _ _ _ _ _ _ (by decide), State.rf_set_of_ne _ _ _ _ (by decide), State.rf_set_same]
    rfl

/-- With no stream in STOPPING nothing is to be closed. -/
theorem State.closeStopped_of_none (s : State) (h : ∀ n ∈ s.usedCtx, s.sst n ≠ ssSTOPPING) : s.closeStopped = s := by
  have hnil : s.usedCtx.filter (fun n => s.sst n == ssSTOPPING) = [] := by
    rw [List.filter_eq_nil_iff]
    intro n hn
    simpa using h n hn
  unfold State.closeStopped
  rw [hnil]
  rfl

/-- An answered line is waited for no more (R280). -/
theorem backInvalidateAnswer_answers (l : BitVec 64) (s : State) (hl : s.tier.waitLine.contains l.toNat = true)
    (h : ∀ n ∈ s.usedCtx, s.sst n ≠ ssSTOPPING) :
    ∃ t, exec (.backInvalidateAnswer l) s = .next t ∧ t.tier.waitLine.contains l.toNat = false := by
  refine ⟨_, rfl, ?_⟩
  have hc : ∀ x : TierSt, ({ s with tier := x } : State).closeStopped = { s with tier := x } := fun _ => State.closeStopped_of_none _ h
  rw [if_pos hl, hc]
  simp

end Sys2Proof.Machine
end

section
/-! SUPPORT. O60, R447, R461, R462, R473: heat, clocks, and reads over MGMT. -/

namespace Sys2Proof.Machine

/-! ## Readings that stand -/

/-- An operation that does not write the power domain's own state leaves it. -/
theorem Does.pwr_eq {m : Nat} {s t : State} (h : Does m s t) (h37 : m.testBit 37 = false) : t.pwr = s.pwr := h.frame .power h37

@[simp] theorem State.gateAll_temps (s : State) : s.gateAll.pwr.temps = s.pwr.temps := by
  unfold State.gateAll
  rw [State.showUnits_pwr]

theorem State.toStopped_pwr (s : State) (ph : Nat) (hp : s.WellKept → ph ≤ 9) : (s.toStopped ph).pwr = s.pwr :=
  (State.toStopped_does (m := 2151678484) s ph hp (by decide) (Does.rfl' _ s)).pwr_eq (by decide)

@[simp] theorem State.enterHold_pwr (s : State) (cause : Nat) : (s.enterHold cause).pwr = s.pwr :=
  (State.enterHold_does (m := 2151678484) s cause (by decide) (Does.rfl' _ s)).pwr_eq (by decide)

@[simp] theorem State.holdNow_pwr (s : State) : s.holdNow.pwr = s.pwr :=
  (State.holdNow_does (μ := 18196170039860) s (by decide) (Does.rfl' _ s)).pwr_eq (by decide)

@[simp] theorem State.breakSwatch_pwr (s : State) : s.breakSwatch.pwr = s.pwr :=
  (State.breakSwatch_does (μ := 18195628958240) s (by decide) (Does.rfl' _ s)).pwr_eq (by decide)

@[simp] theorem State.raiseFlag_pwr (s : State) (cause : Nat) : (s.raiseFlag cause).pwr = s.pwr :=
  (State.raiseFlag_does (μ := 16777232) s cause (by decide) (Does.rfl' _ s)).pwr_eq (by decide)

@[simp] theorem State.stopPlan_pwr (s : State) : s.stopPlan.pwr = s.pwr :=
  (State.stopPlan_does (μ := 584115552288) s (by decide) (Does.rfl' _ s)).pwr_eq (by decide)

@[simp] theorem State.endClusters_pwr (s : State) : s.endClusters.pwr = s.pwr :=
  (State.endClusters_does (μ := 17592186044928) s (by decide) (Does.rfl' _ s)).pwr_eq (by decide)

@[simp] theorem State.logEv_pwr (s : State) (st src unit detail aux : Nat) : (s.logEv st src unit detail aux).pwr = s.pwr :=
  (State.logEv_does (μ := 536895488) s st src unit detail aux (by decide) (Does.rfl' _ s)).pwr_eq (by decide)

/-- A step abandoned for heat keeps the readings. -/
@[simp] theorem State.abandonStep_temps (s : State) : s.abandonStep.pwr.temps = s.pwr.temps := by
  have h1 := (State.dropShadows_does (μ := 4672924418048) s (by decide) (Does.rfl' _ s)).pwr_eq (by decide)
  have h2 := (State.freeStash_does (μ := 4294967296) s.dropShadows (by decide) (Does.rfl' _ _)).pwr_eq (by decide)
  have h3 := (State.wipeAccs_does (μ := 8899179577344) s.dropShadows.freeStash (by decide) (Does.rfl' _ _)).pwr_eq (by decide)
  have h4 := (State.endPauses_does (μ := 17179877376) s.dropShadows.freeStash.wipeAccs (by decide) (Does.rfl' _ _)).pwr_eq (by decide)
  have h5 := (State.clearsNow_does (μ := 2147713024) s.dropShadows.freeStash.wipeAccs.endPauses (by decide) (Does.rfl' _ _)).pwr_eq (by decide)
  unfold State.abandonStep
  dsimp only
  rw [h5, h4, h3, h2, h1]

/-- A launch cancelled keeps the readings. -/
@[simp] theorem State.cancelLaunch_temps (s : State) : s.cancelLaunch.pwr.temps = s.pwr.temps := by
  rw [State.cancelLaunch, State.gateAll_temps, State.toStopped_pwr s _ fun k => k.phase.2]

/-! ## Samples -/

/-- A trip keeps the readings. -/
theorem State.trip_temps (s : State) (event : Nat) : (s.trip event).pwr.temps = s.pwr.temps := by
  unfold State.trip
  dsimp only
  split_ifs <;> simp

/-- An emergency keeps the readings. -/
theorem State.emergencyStop_temps (s : State) : s.emergencyStop.pwr.temps = s.pwr.temps := by
  unfold State.emergencyStop
  extract_lets u a1 a2 _ a3 b1 _ c1 _ d1 d2 _ d3
  have hu : u.pwr = s.pwr := rfl
  have ha1 : a1.pwr = s.pwr := by rw [State.endClusters_pwr, State.stopPlan_pwr, State.raiseFlag_pwr, hu]
  have ha2 : a2.pwr.temps = s.pwr.temps := by rw [State.enterHold_pwr, State.gateAll_temps, State.abandonStep_temps, ha1]
  have hb1 : b1.pwr.temps = s.pwr.temps := by rw [State.gateAll_temps, State.endClusters_pwr, State.stopPlan_pwr, hu]
  have hc1 : c1.pwr.temps = s.pwr.temps := by rw [State.gateAll_temps, hu]
  have hd1 : d1.pwr.temps = s.pwr.temps := by
    rw [State.gateAll_temps]
    split
    · rw [State.breakSwatch_pwr, hu]
    · rw [hu]
  have hd2 : d2.pwr.temps = s.pwr.temps := by rw [State.enterHold_pwr, hd1]
  have ha3 : a3.pwr.temps = s.pwr.temps := ha2
  have hd3 : d3.pwr.temps = s.pwr.temps := hd2
  clear_value u a1 a2 a3 b1 c1 d1 d2 d3
  split_ifs
  · rw [State.logEv_pwr, State.set_pwr, ha3]
  · exact hb1
  · exact hc1
  · rw [State.logEv_pwr, State.set_pwr, hd3]
  · rw [hu]

/-- A critical cut keeps the readings and the row counter (R464). -/
theorem State.criticalCut_keeps (s : State) : s.criticalCut.pwr.temps = s.pwr.temps ∧ s.criticalCut.row = s.row := by
  unfold State.criticalCut
  extract_lets held hold z0 p0 r1 r2 r3 r4
  have h1 : r1.pwr.temps = s.pwr.temps ∧ r1.row = s.row := ⟨rfl, rfl⟩
  have h2 : r2.pwr = r1.pwr ∧ r2.row = r1.row :=
    ⟨State.forEach_keeps State.pwr _ _ (fun _ _ => by rfl) r1, State.forEach_keeps State.row _ _ (fun _ _ => by rfl) r1⟩
  have ha : Does 17179885056 r2 (r2.assignUnits s.pwr.bootMap) := State.assignUnits_does _ _ (by decide) (Does.rfl' _ _)
  have h3 : r3.pwr = r2.pwr ∧ r3.row = r2.row := by
    simp only [r3, State.set_pwr, State.set_row]
    exact ⟨ha.frame .power (by decide), ha.frame .row (by decide)⟩
  have h4 : r4.pwr = r3.pwr ∧ r4.row = r3.row := by simp only [r4, State.set_pwr, State.set_row, and_self]
  have h5 : r4.showUnits.row = r4.row := (State.showUnits_does (μ := 516) r4 (by decide) (Does.rfl' _ r4)).frame .row (by decide)
  clear_value r1 r2 r3 r4
  simp only [State.setPower, State.emit_pwr, State.set_pwr, State.emit_row, State.set_row, State.showUnits_pwr, h4, h3, h2, h1, h5, and_self]

/-- A sample's readings are kept, and it takes no time of its own (R461). -/
theorem State.takeSample_keeps (s : State) (l : List Int) : (s.takeSample l).pwr.temps = l ∧ (s.takeSample l).row = s.row := by
  refine ⟨?_, (State.takeSample_does (μ := 137447342084) s l (by decide) (Does.rfl' _ s)).frame .row (by decide)⟩
  unfold State.takeSample
  dsimp only
  split_ifs <;> rfl

/-- THERMAL_SAMPLE comes at the next multiple of 1,000 ticks and its readings are kept (R461). -/
theorem thermalSample_keeps (l : List Int) (s : State) (hoff : s.pwr.off = false) (hl : l.length = 64) :
    ∃ t, exec (.thermalSample l) s = .next t ∧ t.pwr.temps = l ∧ t.row = (s.row / 1000 + 1) * 1000 := by
  refine ⟨_, rfl, ?_⟩
  rw [if_neg (by simp [hoff, hl])]
  obtain ⟨htemps, hrow⟩ := (s.advance ((s.row / 1000 + 1) * 1000)).takeSample_keeps l
  have hat : ((s.advance ((s.row / 1000 + 1) * 1000)).takeSample l).row = (s.row / 1000 + 1) * 1000 := by
    rw [hrow, State.advance_row]
    omega
  generalize (s.advance ((s.row / 1000 + 1) * 1000)).takeSample l = t at htemps hat
  dsimp only
  split_ifs
  · exact ⟨htemps, hat⟩
  · exact ⟨t.criticalCut_keeps.1.trans htemps, t.criticalCut_keeps.2.trans hat⟩
  · exact ⟨t.emergencyStop_temps.trans htemps,
      ((State.emergencyStop_does (μ := 31875661029940) t (by decide) (Does.rfl' _ t)).frame .row (by decide)).trans hat⟩
  · exact ⟨(t.trip_temps 1).trans htemps, ((State.trip_does (μ := 18333608993332) t 1 (by decide) (Does.rfl' _ t)).frame .row (by decide)).trans hat⟩
  · exact ⟨htemps, hat⟩

/-! ## The last event -/

/-- Showing the units leaves the registers of heat. -/
theorem State.showUnits_lastEvent (s : State) : s.showUnits.rf R.PWR_THERM_LAST_EVENT = s.rf R.PWR_THERM_LAST_EVENT := by
  unfold State.showUnits
  dsimp only
  refine (State.forEach_keeps (State.rf · R.PWR_THERM_LAST_EVENT) _ _ (fun v p => ?_) _).trans ?_
  · rw [State.rf_set_of_ne, State.rf_set_of_ne]
    · simp only [Fld.key, R.PWR_THERM_LAST_EVENT, R.CLU_POWER_STATE]
      omega
    · simp only [Fld.key, R.PWR_THERM_LAST_EVENT, R.CLU_POWER_WAKE_AT]
      omega
  · iterate 4 refine (State.rf_set_of_ne _ _ _ _ (by decide)).trans ?_
    rfl

/-- The voltage request leaves every register but PWR_AVS. -/
theorem State.avs_rf (s : State) (g : Fld) (h : g.off ≠ 0x20018 ∧ g.lo < 64) : s.avs.rf g = s.rf g := by
  obtain ⟨hoff, hlo⟩ := h
  have hne : ∀ f : Fld, f.off = 0x20018 → f.lo < 64 → g.key ≠ f.key := by
    intro f hf hl
    simp only [Fld.key]
    omega
  have h1 := hne R.PWR_AVS_NEED_MV rfl (by decide)
  have h2 := hne R.PWR_AVS_MET rfl (by decide)
  have h3 := hne R.PWR_AVS_REQ_MV rfl (by decide)
  unfold State.avs
  dsimp only
  split_ifs
  all_goals simp only [State.emit_rf, State.rf_set_of_ne _ _ _ _ h1, State.rf_set_of_ne _ _ _ _ h2, State.rf_set_of_ne _ _ _ _ h3]

/-- Falling to a phase that stops leaves the last event. -/
theorem State.toStopped_lastEvent (s : State) (ph : Nat) : (s.toStopped ph).rf R.PWR_THERM_LAST_EVENT = s.rf R.PWR_THERM_LAST_EVENT := by
  unfold State.toStopped
  extract_lets u v
  have hu : u.rf R.PWR_THERM_LAST_EVENT = s.rf R.PWR_THERM_LAST_EVENT := by
    refine ((State.holdSwatch_does (μ := 2147483664) _ (by decide) (Does.rfl' _ _)).rf _ (by decide)).trans ?_
    iterate 2 refine (State.rf_set_of_ne _ _ _ _ (by decide)).trans ?_
    rfl
  have hv : v.rf R.PWR_THERM_LAST_EVENT = u.rf R.PWR_THERM_LAST_EVENT := by
    simp only [v]
    split
    · unfold State.setPower
      rw [State.emit_rf]
      iterate 3 refine (State.rf_set_of_ne _ _ _ _ (by decide)).trans ?_
      rfl
    · rfl
  clear_value u v
  rw [State.avs_rf _ _ (by decide)]
  refine ((State.clearWakes_does (m := 512) _ (by decide) (Does.rfl' _ _)).rf _ (by decide)).trans ?_
  rw [State.rf_set_of_ne _ _ _ _ (by decide), hv, hu]

/-- A trip shows its event (R462). -/
theorem State.trip_lastEvent (s : State) (event : Nat) : (s.trip event).rf R.PWR_THERM_LAST_EVENT = event % 2 ^ 8 := by
  unfold State.trip
  extract_lets u
  have hu : u.rf R.PWR_THERM_LAST_EVENT = event % 2 ^ 8 := State.rf_set_same _ _ _
  clear_value u
  split_ifs
  · exact hu
  · rw [State.cancelLaunch, State.gateAll, State.showUnits_lastEvent]
    exact (State.toStopped_lastEvent u _).trans hu
  · unfold State.holdNow
    extract_lets v
    have hv : v.rf R.PWR_THERM_LAST_EVENT = u.rf R.PWR_THERM_LAST_EVENT := by
      simp only [v]
      split
      · exact (State.breakSwatch_does (μ := 18195628958240) u (by decide) (Does.rfl' _ u)).rf _ (by decide)
      · rfl
    clear_value v
    refine ((State.logEv_does (μ := 536895488) _ _ _ _ _ _ (by decide) (Does.rfl' _ _)).rf _ (by decide)).trans ?_
    unfold State.enterHold
    rw [State.rf_set_of_ne _ _ _ _ (by decide), State.toStopped_lastEvent]
    exact ((State.unaimLrs_does (μ := 2147483648) v (by decide) (Does.rfl' _ v)).rf _ (by decide)).trans (hv.trans hu)
  · exact hu

/-- The row of PWR_MGMT (R462). -/
def pwrMgmtRow : RegRow := ⟨0x20038, 1, 0, 64, [⟨8, 8, .ro, .fw⟩, ⟨2, 1, .wo, .any⟩, ⟨1, 1, .wo, .any⟩, ⟨0, 1, .wo, .any⟩]⟩

/-- THERM_STOP in RUN acts as a trip: its status is OK and it is the last event (R462). -/
theorem thermStop_trips (s : State) (h : s.reach .mgmt = true) (hrun : s.rf R.PWR_STATE_STATE = 3) :
    ∃ t, exec .thermStop s = .next t ∧ t.rf R.PWR_MGMT_STATUS = stOK ∧ t.rf R.PWR_THERM_LAST_EVENT = 4 := by
  refine ⟨_, rfl, ?_⟩
  rw [if_pos h]
  have hrow : findReg 0x20038 = some pwrMgmtRow := findReg_of_alone (by decide +kernel) (by decide)
  obtain ⟨hretry, hwake, hstop⟩ : (Wr.full .mgmt 4).get .any R.PWR_MGMT_RETRY_BOOT ≠ 1 ∧ (Wr.full .mgmt 4).get .any R.PWR_MGMT_WAKE ≠ 1 ∧
      (Wr.full .mgmt 4).get .any R.PWR_MGMT_THERM_STOP = 1 := by decide
  have hst : (s.regWrite 0x20038 (Wr.full .mgmt 4)).rf R.PWR_STATE_STATE = 3 :=
    (State.regWrite_other s _ hrow (by decide) (by decide) (by decide)).trans hrun
  unfold State.writePwrMgmt
  dsimp only
  rw [if_neg hretry, if_neg hwake, if_pos hstop, State.doThermStop, if_pos hst]
  exact ⟨State.rf_set_same _ _ _, (State.rf_set_of_ne _ _ _ _ (by decide)).trans (State.trip_lastEvent _ 4)⟩

/-! ## Clocks and supplies -/

/-- PLL_LOCK: the rate locked for the next start is shown (R447). -/
theorem pllLock_locks (s : State) (hoff : s.pwr.off = false) (hp : 2 ≤ s.rf R.PWR_STATE_STATE) :
    ∃ t, exec .pllLock s = .next t ∧ t.rf R.PWR_CLOCK_NEXT_MHZ = s.nextFclk % 2 ^ 16 := by
  refine ⟨_, rfl, ?_⟩
  rw [if_neg (by simp only [hoff, Bool.false_eq_true, false_or]; omega)]
  have hset : (s.set R.PWR_CLOCK_NEXT_MHZ s.nextFclk).rf R.PWR_CLOCK_NEXT_MHZ = s.nextFclk % 2 ^ 16 := State.rf_set_same _ _ _
  dsimp only
  unfold State.planSwitch
  split_ifs
  · exact hset
  all_goals exact (State.rf_set_of_ne _ _ _ _ (by decide)).trans hset

/-- FCLK_SWITCH: the die runs at the rate that was locked (R447). -/
theorem fclkSwitch_switches (s : State) (hoff : s.pwr.off = false) (hat : s.rf R.PWR_CLOCK_SWITCH_AT ≠ 0) :
    ∃ t, exec .fclkSwitch s = .next t ∧ t.rf R.PWR_CLOCK_FCLK_MHZ = s.rf R.PWR_CLOCK_NEXT_MHZ % 2 ^ 16 := by
  refine ⟨_, rfl, ?_⟩
  rw [if_neg (by simp only [hoff, hat, Bool.false_eq_true, or_self, not_false_eq_true])]
  have hadv : (s.advance (s.fullCount (s.rf R.PWR_CLOCK_SWITCH_AT))).rf R.PWR_CLOCK_NEXT_MHZ = s.rf R.PWR_CLOCK_NEXT_MHZ :=
    (State.advance_does (μ := 67633168) s _ (by decide) (Does.rfl' _ s)).rf _ (by decide)
  dsimp only
  rw [State.avs_rf _ _ (by decide), State.rf_set_of_ne _ _ _ _ (by decide), State.rf_set_of_ne _ _ _ _ (by decide), State.rf_set_same, hadv]
  rfl

/-- VDD_MET: MET shows whether the request is met (R449). -/
theorem vddMet_shows (mv : Nat) (s : State) (hoff : s.pwr.off = false) :
    ∃ t, exec (.vddMet mv) s = .next t ∧ t.rf R.PWR_AVS_MET = (if s.rf R.PWR_AVS_REQ_MV ≤ mv % 2 ^ 16 then 1 else 0) := by
  refine ⟨_, rfl, ?_⟩
  rw [if_neg (by simp [hoff])]
  dsimp only
  have hmv : (s.set R.PWR_SUPPLY_VDD_MV mv).rf R.PWR_SUPPLY_VDD_MV = mv % 2 ^ 16 := State.rf_set_same _ _ _
  rw [State.rf_set_same, hmv, State.rf_set_of_ne s _ _ _ (by decide)]
  split <;> rfl

/-! ## Reads over MGMT -/

/-- What a read answers (R12). -/
theorem State.answerReg_sent (s : State) (off : Nat) :
    (s.answerReg off).sent = s.sent ++ [.answer ((natLe 8 (s.readReg off)).map (fun b => (b, false)))] := State.afterRead_sent _ _

/-- PEAK_READ answers PWR_THERM and clears PEAK_C (R473). -/
theorem peakRead_clears (s : State) (hoff : s.pwr.off = false) : ∃ t, exec .peakRead s = .next t ∧ t.rf R.PWR_THERM_PEAK_C = 0 ∧
    t.sent = s.sent ++ [.answer ((natLe 8 (s.readReg 0x20028)).map (fun b => (b, false)))] := by
  refine ⟨_, rfl, ?_⟩
  rw [if_neg (by simp [hoff])]
  exact ⟨State.rf_set_same _ _ _, s.answerReg_sent _⟩

/-- MGMT_ACCESS answers an aligned read of BAR0 (R12, R466). -/
theorem mgmtAccess_answers (off : BitVec 24) (d : BitVec 64) (s : State) (h : s.reach .mgmt = true) (h8 : off.toNat % 8 = 0)
    (hlt : off.toNat < 0x800000) : ∃ t, exec (.mgmtAccess false off d) s = .next t ∧
      t.sent = s.sent ++ [.answer ((natLe 8 (s.readReg off.toNat)).map (fun b => (b, false)))] := by
  refine ⟨_, rfl, ?_⟩
  rw [h, if_neg (by simp), if_neg (by simp), if_neg (by simp [h8]), if_pos hlt]
  exact s.answerReg_sent _

end Sys2Proof.Machine
end

section
/-! SUPPORT. O60, R367 to R371: a queue's commands taken, and their completions written. -/

namespace Sys2Proof.Machine

/-! ## What the queues keep -/

/-- A register of the queues, or of the link below its error record. -/
def Fld.ofQueues (f : Fld) : Prop := 0x200000 ≤ f.off ∧ f.off < 0x201020 ∧ f.lo < 64

theorem Fld.ofQueues.blk {f : Fld} (h : f.ofQueues) : f.blk = 6 := by
  obtain ⟨h1, h2, h3⟩ := h
  obtain ⟨off, lo, w⟩ := f
  rw [Fld.blk_eq _ _ _ h3]
  exact blockOf_between h1 (Nat.le_of_lt h2) (by decide) (by decide)

/-- Two fields of different registers have different cells. -/
theorem Fld.key_ne_of_off {f g : Fld} (hf : f.lo < 64) (hg : g.lo < 64) (h : f.off ≠ g.off) : f.key ≠ g.key := by
  unfold Fld.key
  omega

/-- The registers of a queue are among them. -/
theorem queueReg_ofQueues (b q lo w : Nat) (hb : 0x200000 ≤ b ∧ b ≤ 0x200028) (hlo : lo < 64) : Fld.ofQueues ⟨b + 0x40 * (q % 64), lo, w⟩ := by
  refine ⟨?_, ?_, hlo⟩
  · simp only
    omega
  · simp only
    omega

/-- Two fields of one queue's registers have different cells. -/
theorem queueReg_key_ne {b b' lo lo' : Nat} (w w' q : Nat) (h : b * 64 + lo ≠ b' * 64 + lo') :
    Fld.key ⟨b + 0x40 * (q % 64), lo, w⟩ ≠ Fld.key ⟨b' + 0x40 * (q % 64), lo', w'⟩ := by
  simp only [Fld.key]
  omega

/-- The commands under way, the completions that wait, and the phases of the rings. -/
def State.cmds (s : State) : List Taken × List DueCpl × List Nat := (s.host.taken, s.host.waiting, s.host.phases)

/-- An operation that leaves the host link's state leaves the commands. -/
theorem Does.cmds_eq {m : Nat} {s t : State} (h : Does m s t) (h41 : m.testBit 41 = false) : t.cmds = s.cmds := by
  have hh : t.host = s.host := h.frame .host h41
  unfold State.cmds
  rw [hh]

/-- A write to the host, made or held, leaves the commands. -/
theorem State.emitHost_cmds (s : State) (x : Sent) : (s.emitHost x).cmds = s.cmds := by
  unfold State.emitHost
  split <;> rfl

/-- Posted writes leave the commands. -/
theorem State.postBus_cmds (s : State) (addr : Nat) (l : List MByte) : (s.postBus addr l).cmds = s.cmds := by
  unfold State.postBus
  generalize cutsAt s.maxPayload addr l.length = cuts
  induction cuts generalizing s with
  | nil => rfl
  | cons c cuts ih => rw [List.foldl_cons, ih, State.emitHost_cmds]

/-- Recording a refused page leaves the commands. -/
theorem State.notOwner_cmds (s : State) (oa : Nat) :
    (((s.bump R.TIER_ERR_COUNT).set R.TIER_ERR_LAST_STATUS stNOT_OWNER).logEv stNOT_OWNER 0x30 0 0 oa).cmds = s.cmds :=
  (State.logEv_does (μ := 536895488) _ _ _ _ _ _ (by decide) (Does.rfl' _ _)).cmds_eq (by decide)

theorem State.tierRefuse_cmds (s : State) (why : Refused) (st oa : Nat) : (s.tierRefuse why st oa).cmds = s.cmds :=
  (State.tierRefuse_does (μ := 536895616) s why st oa (by decide) (Does.rfl' _ s)).cmds_eq (by decide)

theorem State.writeMem_cmds (s : State) (da : Nat) (l : List MByte) : (s.writeMem da l).cmds = s.cmds :=
  (State.writeMem_does (μ := 17183023104) s da l (by decide) (Does.rfl' _ s)).cmds_eq (by decide)

theorem State.writeFlash_cmds (s : State) (b : Bool) (a : Nat) (l : List MByte) : (s.writeFlash b a l).cmds = s.cmds :=
  (State.writeFlash_does (μ := 4398600184080) s b a l (by decide) (Does.rfl' _ s)).cmds_eq (by decide)

/-- A page's part of a write leaves the commands. -/
theorem State.writeSpan_cmds (w : Who) (own : Nat) (g : Got) (sp : Nat × Nat × Nat) : (State.writeSpan w own g sp).st.cmds = g.st.cmds := by
  have hcount : ∀ e : Ent, (g.st.countPage sp.1 e.cls).cmds = g.st.cmds := fun e =>
    (State.countPage_does (μ := 274877906944) _ _ _ (by decide) (Does.rfl' _ _)).cmds_eq (by decide)
  unfold State.writeSpan
  extract_lets s oa l rest
  split
  · exact s.notOwner_cmds oa
  split
  · exact s.tierRefuse_cmds _ _ _
  split
  · exact s.tierRefuse_cmds _ _ _
  · rename_i e _
    extract_lets da u v
    split
    · exact s.notOwner_cmds oa
    · have hv : v.cmds = g.st.cmds := by
        have hu : u.cmds = g.st.cmds := hcount e
        simp only [v]
        split
        · exact hu
        · exact hu
      clear_value u v
      split
      · exact (v.tierRefuse_cmds _ _ _).trans hv
      · split
        · exact (v.writeMem_cmds _ _).trans hv
        · exact (v.writeMem_cmds _ _).trans hv
        · exact (v.writeFlash_cmds _ _ _).trans hv
        · exact (v.postBus_cmds _ _).trans hv

/-- A write at an OA leaves the commands. -/
theorem State.writeOA_cmds (s : State) (w : Who) (own oa : Nat) (l : List MByte) : (s.writeOA w own oa l).st.cmds = s.cmds := by
  unfold State.writeOA
  have hfold : ∀ (spans : List (Nat × Nat × Nat)) (g : Got), (spans.foldl (State.writeSpan w own) g).st.cmds = g.st.cmds := by
    intro spans
    induction spans with
    | nil => exact fun _ => rfl
    | cons sp spans ih => exact fun g => (ih _).trans (State.writeSpan_cmds w own g sp)
  exact hfold _ _

/-- Claiming HOST slots leaves the commands. -/
theorem State.hostCarried_cmds (s : State) (loads : List Load) : (s.hostCarried loads).cmds = s.cmds := by
  unfold State.hostCarried State.toTick
  split
  · rfl
  · exact (State.advance_does (μ := 67633168) _ _ (by decide) (Does.rfl' _ _)).cmds_eq (by decide)

/-! ## The ring -/

/-- Pending vectors lie above the queues' registers. -/
theorem State.raiseOwned_rf (s : State) (own v : Nat) {g : Fld} (h : g.ofQueues) : (s.raiseOwned own v).rf g = s.rf g := by
  have hpba : (s.setPba v true).rf g = s.rf g := by
    obtain ⟨_, h2, h3⟩ := h
    refine State.rf_set_of_ne _ _ _ _ (Fld.key_ne_of_off h3 (show 0 < 64 by decide) ?_)
    simp only [R.MSIX_PBA_BITS]
    omega
  unfold State.raiseOwned State.raiseVec
  split_ifs
  · rfl
  · rfl
  · exact hpba
  · rfl

/-- A host-link event counted in HQ_ERR leaves the queues' registers. -/
theorem State.hqErr_rf (s : State) (st : Nat) {g : Fld} (h : g.ofQueues) : (s.hqErr st R.HQ_ERR_QUEUE).rf g = s.rf g := by
  obtain ⟨_, h2, h3⟩ := h
  have hne : g.off ≠ 0x201020 := by omega
  unfold State.hqErr State.bump
  iterate 3 refine (State.rf_set_of_ne _ _ _ _ (Fld.key_ne_of_off h3 (by decide) hne)).trans ?_
  rfl

/-- How full a ring is depends on the queues' registers other than the head of its submissions. -/
theorem State.cqFull_congr {s t : State} (q : Nat) (h : ∀ f : Fld, f.ofQueues → f.key ≠ (R.HQ_Q_STATUS_SQ_HEAD q).key → t.rf f = s.rf f) :
    t.cqFull q = s.cqFull q ∧ t.cqSize q = s.cqSize q := by
  have hreg : ∀ b lo w, 0x200000 ≤ b ∧ b ≤ 0x200028 → lo < 64 → b * 64 + lo ≠ 0x200028 * 64 + 48 →
      t.rf ⟨b + 0x40 * (q % 64), lo, w⟩ = s.rf ⟨b + 0x40 * (q % 64), lo, w⟩ :=
    fun b lo w hb hlo hne => h _ (queueReg_ofQueues b q lo w hb hlo) (queueReg_key_ne w 16 q hne)
  have hlog : t.rf (R.HQ_Q_CTRL_CQ_LOG2 q) = s.rf (R.HQ_Q_CTRL_CQ_LOG2 q) := hreg 0x200010 8 4 (by decide) (by decide) (by decide)
  have htail : t.rf (R.HQ_Q_STATUS_CQ_TAIL q) = s.rf (R.HQ_Q_STATUS_CQ_TAIL q) := hreg 0x200028 32 16 (by decide) (by decide) (by decide)
  have hhead : t.rf (R.HQ_CQ_HEAD_HEAD q) = s.rf (R.HQ_CQ_HEAD_HEAD q) := hreg 0x200020 0 16 (by decide) (by decide) (by decide)
  have hsize : t.cqSize q = s.cqSize q := by rw [State.cqSize, hlog, State.cqSize]
  refine ⟨?_, hsize⟩
  unfold State.cqFull State.cqUsed
  rw [hsize, htail, hhead]

/-- A write to the host, made or held, leaves the registers. -/
theorem State.emitHost_rf (s : State) (x : Sent) (g : Fld) : (s.emitHost x).rf g = s.rf g := by
  unfold State.emitHost
  split <;> rfl

/-- With Bus Master Enable set a write to the host goes out at once (R380). -/
theorem State.mem_emitHost_sent (s : State) (x : Sent) (h : s.rf R.HQ_LINK_BME = 1) : x ∈ (s.emitHost x).sent := by
  unfold State.emitHost
  rw [if_pos h]
  exact List.mem_append_right _ (List.mem_singleton_self x)

/-- What writing a completion entry does: the status, the tail, the entry; the head and the commands stay (R371). -/
theorem State.writeCpl_writes (s : State) (c : DueCpl) :
    (s.writeCpl c).rf (R.HQ_Q_STATUS_LAST_STATUS c.q) = c.st % 2 ^ 8 ∧
    (s.writeCpl c).rf (R.HQ_Q_STATUS_CQ_TAIL c.q) = (s.rf (R.HQ_Q_STATUS_CQ_TAIL c.q) + 1) % s.cqSize c.q % 2 ^ 16 ∧
    (s.writeCpl c).rf (R.HQ_Q_STATUS_SQ_HEAD c.q) = s.rf (R.HQ_Q_STATUS_SQ_HEAD c.q) ∧
    (s.writeCpl c).host.taken = s.host.taken ∧ (s.writeCpl c).host.waiting = s.host.waiting ∧
    (s.rf R.HQ_LINK_BME = 1 →
      Sent.busWrite (s.rf (R.HQ_CQ_BASE_ADDR c.q) * 4096 + 16 * s.rf (R.HQ_Q_STATUS_CQ_TAIL c.q))
        ((s.cplEntry c).map (fun b => (b, false))) false ∈ (s.writeCpl c).sent) := by
  unfold State.writeCpl
  extract_lets tail n bytes s1 next s2 _ s3
  have h1 : ∀ g, s1.rf g = s.rf g := fun g => s.emitHost_rf _ g
  have hcmds : s1.cmds = s.cmds := s.emitHost_cmds _
  have hsent : s.rf R.HQ_LINK_BME = 1 → Sent.busWrite (s.rf (R.HQ_CQ_BASE_ADDR c.q) * 4096 + 16 * tail) bytes false ∈ s1.sent :=
    s.mem_emitHost_sent _
  have hnext : next = (tail + 1) % s.cqSize c.q := by simp only [next, State.cqSize, h1]
  obtain ⟨h3, h3sent, h3taken, h3wait⟩ : (∀ g, s3.rf g = s2.rf g) ∧ s3.sent = s2.sent ∧ s3.host.taken = s2.host.taken ∧ s3.host.waiting = s2.host.waiting := by
    simp only [s3]
    split
    · exact ⟨fun _ => rfl, rfl, rfl, rfl⟩
    · exact ⟨fun _ => rfl, rfl, rfl, rfl⟩
  have hd : Does 4194368 s3 (s3.raiseOwned 1 (s3.rf (R.HQ_Q_CTRL_VECTOR c.q))) := State.raiseOwned_does _ _ _ (by decide) (Does.rfl' _ _)
  have hst := queueReg_ofQueues 0x200028 c.q 24 8 (by decide) (by decide)
  have htl := queueReg_ofQueues 0x200028 c.q 32 16 (by decide) (by decide)
  have hhd := queueReg_ofQueues 0x200028 c.q 48 16 (by decide) (by decide)
  have hstTl : (R.HQ_Q_STATUS_LAST_STATUS c.q).key ≠ (R.HQ_Q_STATUS_CQ_TAIL c.q).key := queueReg_key_ne (b := 0x200028) (b' := 0x200028) 8 16 c.q (by decide)
  have hhdTl : (R.HQ_Q_STATUS_SQ_HEAD c.q).key ≠ (R.HQ_Q_STATUS_CQ_TAIL c.q).key := queueReg_key_ne (b := 0x200028) (b' := 0x200028) 16 16 c.q (by decide)
  have hhdSt : (R.HQ_Q_STATUS_SQ_HEAD c.q).key ≠ (R.HQ_Q_STATUS_LAST_STATUS c.q).key := queueReg_key_ne (b := 0x200028) (b' := 0x200028) 16 8 c.q (by decide)
  have hhost : (s3.raiseOwned 1 (s3.rf (R.HQ_Q_CTRL_VECTOR c.q))).host = s3.host := hd.frame .host (by decide)
  refine ⟨?_, ?_, ?_, ?_, ?_, fun hb => hd.sent.subset ?_⟩
  · refine (State.raiseOwned_rf _ _ _ hst).trans ((h3 _).trans ?_)
    exact (State.rf_set_of_ne _ _ _ _ hstTl).trans (State.rf_set_same _ _ _)
  · refine (State.raiseOwned_rf _ _ _ htl).trans ((h3 _).trans ?_)
    exact (State.rf_set_same _ _ _).trans (congrArg (· % 2 ^ 16) hnext)
  · refine (State.raiseOwned_rf _ _ _ hhd).trans ((h3 _).trans ?_)
    exact (State.rf_set_of_ne _ _ _ _ hhdTl).trans ((State.rf_set_of_ne _ _ _ _ hhdSt).trans (h1 _))
  · rw [hhost]
    exact h3taken.trans (congrArg (·.1) hcmds)
  · rw [hhost]
    exact h3wait.trans (congrArg (·.2.1) hcmds)
  · rw [h3sent]
    exact hsent hb

/-- Writing a completion entry leaves the commands under way. -/
theorem State.writeCpl_taken (s : State) (c : DueCpl) : (s.writeCpl c).host.taken = s.host.taken := by
  obtain ⟨-, -, -, htaken, -, -⟩ := s.writeCpl_writes c
  exact htaken

/-- Writing a completion entry leaves the completions that wait. -/
theorem State.writeCpl_waiting (s : State) (c : DueCpl) : (s.writeCpl c).host.waiting = s.host.waiting := by
  obtain ⟨-, -, -, -, hwait, -⟩ := s.writeCpl_writes c
  exact hwait

end Sys2Proof.Machine
end

section
/-! SUPPORT. O60, R367 to R371: a queue's NOP, reserved opcode, FENCE and WRITE complete. -/

namespace Sys2Proof.Machine

/-! ## Completions fall due -/

/-- No completion of a queue waits: none is written. -/
theorem State.flushCq_of_none (s : State) (q k : Nat) (h : ∀ c ∈ s.host.waiting, c.q ≠ q) : s.flushCq q k = s := by
  cases k with
  | zero => rfl
  | succ k =>
    have hf : s.host.waiting.find? (fun c => c.q == q) = none := List.find?_eq_none.mpr (fun c hc => by simpa using h c hc)
    unfold State.flushCq
    rw [hf]

/-- The completion of a command with a status. -/
def Taken.due (t : Taken) (st : Nat) : DueCpl := ⟨t.q, t.tag, st, t.head, t.ctx⟩

/-- The state in which a command's completion is written: its error is counted, and the command is no longer under way. -/
def State.pastDue (s : State) (t : Taken) (st : Nat) : State :=
  let u := if st = stBAD_ARG ∨ st = stNOT_OWNER then s.hqErr st R.HQ_ERR_QUEUE else s
  { u with host := { u.host with taken := u.host.taken.erase t } }

theorem State.pastDue_rf (s : State) (t : Taken) (st : Nat) {g : Fld} (h : g.ofQueues) : (s.pastDue t st).rf g = s.rf g := by
  unfold State.pastDue
  dsimp only
  split
  · exact s.hqErr_rf st h
  · rfl

theorem State.pastDue_host (s : State) (t : Taken) (st : Nat) : (s.pastDue t st).host = { s.host with taken := s.host.taken.erase t } := by
  unfold State.pastDue
  dsimp only
  split <;> rfl

theorem State.pastDue_row (s : State) (t : Taken) (st : Nat) : (s.pastDue t st).row = s.row := by
  unfold State.pastDue
  dsimp only
  split <;> rfl

theorem State.pastDue_mem (s : State) (t : Taken) (st : Nat) : (s.pastDue t st).mem = s.mem := by
  unfold State.pastDue
  dsimp only
  split <;> rfl

/-- Writing a completion entry leaves the device's memory. -/
theorem State.writeCpl_mem (s : State) (c : DueCpl) : (s.writeCpl c).mem = s.mem := by
  have hemit : ∀ (u : State) (x : Sent), (u.emitHost x).mem = u.mem := by
    intro u x
    unfold State.emitHost
    split <;> rfl
  have hraise : ∀ (u : State) (own v : Nat), (u.raiseOwned own v).mem = u.mem := by
    intro u own v
    unfold State.raiseOwned State.raiseVec
    split_ifs <;> rfl
  unfold State.writeCpl
  dsimp only
  rw [hraise]
  split
  · exact hemit _ _
  · exact hemit _ _

/-- Where nothing of the queue waits and its ring has room, a completion that falls due is written at once (R371). -/
theorem State.cplDue_writes (s : State) (t : Taken) (st : Nat) (hw : ∀ c ∈ s.host.waiting, c.q ≠ t.q) (hfull : s.cqFull t.q = false) :
    s.cplDue t st = (s.pastDue t st).writeCpl (t.due st) := by
  have hnone : t.due st ∉ s.host.waiting := fun hmem => hw _ hmem rfl
  have herase : (s.host.waiting ++ [t.due st]).erase (t.due st) = s.host.waiting := by
    rw [List.erase_append_right _ hnone, List.erase_cons_head, List.append_nil]
  have hfind : (s.host.waiting ++ [t.due st]).find? (fun c => c.q == t.q) = some (t.due st) := by
    rw [List.find?_append, List.find?_eq_none.mpr (fun c hc => by simpa using hw c hc), Option.none_or]
    simp [Taken.due]
  unfold State.cplDue
  extract_lets u _ v
  have hu : u.host = s.host := by
    simp only [u]
    split <;> rfl
  have hwait : v.host.waiting = s.host.waiting ++ [t.due st] := congrArg (fun h : HostSt => h.waiting ++ [t.due st]) hu
  have hroom : v.cqFull t.q = false := (State.cqFull_congr t.q (fun f hf _ => s.pastDue_rf t st hf)).1.trans hfull
  have hpast : ({ v with host := { v.host with waiting := v.host.waiting.erase (t.due st) } } : State) = s.pastDue t st := by
    rw [hwait, herase, ← congrArg HostSt.waiting hu]
    rfl
  rw [hwait, List.length_append, List.length_singleton]
  unfold State.flushCq
  rw [hwait, hfind]
  dsimp only
  rw [hroom, if_neg Bool.false_ne_true, ← hwait, hpast]
  refine State.flushCq_of_none _ _ _ fun c hc => ?_
  rw [State.writeCpl_waiting, State.pastDue_host] at hc
  exact hw c hc

/-! ## Fences -/

/-- Where no FENCE stands first among a queue's commands, none completes. -/
theorem State.settleFences_stop (s : State) (q k : Nat) (h : ∀ c, s.host.taken.find? (fun t => t.q == q) = some c → c.op ≠ 4) :
    s.settleFences q k = s := by
  cases k with
  | zero => rfl
  | succ k =>
    unfold State.settleFences
    split
    · rfl
    · next c hc => rw [if_neg (h c hc)]

/-- The first that satisfies a condition stays the first while another is erased. -/
theorem find?_erase_of_ne {α : Type} [DecidableEq α] {p : α → Bool} {l : List α} {c t : α} (h : l.find? p = some c) (hne : c ≠ t) :
    (l.erase t).find? p = some c := by
  induction l with
  | nil => cases h
  | cons x l ih =>
    rw [List.find?_cons] at h
    by_cases hx : x = t
    · subst hx
      rw [List.erase_cons_head]
      split at h
      · exact absurd (Option.some.inj h).symm hne
      · exact h
    · rw [List.erase_cons_tail (by simpa using hx), List.find?_cons]
      split at h
      · next => exact h
      · next => exact ih h

/-- With a command taken last done, no FENCE stands first among its queue's commands where none did before. -/
theorem find?_erase_taken {l : List Taken} {t : Taken} (hfirst : ∀ c, l.find? (fun x => x.q == t.q) = some c → c.op ≠ 4) (ht : t.op = 4 ∨ t ∉ l) :
    ∀ c, ((l ++ [t]).erase t).find? (fun x => x.q == t.q) = some c → c.op ≠ 4 := by
  intro c hc
  by_cases hmem : t ∈ l
  · have hop : t.op = 4 := ht.resolve_right (not_not_intro hmem)
    rw [List.erase_append_left _ hmem] at hc
    obtain ⟨d, hd⟩ : ∃ d, l.find? (fun x => x.q == t.q) = some d := Option.isSome_iff_exists.mp (List.find?_isSome.mpr ⟨t, hmem, by simp⟩)
    have hne : d ≠ t := fun h => hfirst d hd (h ▸ hop)
    rw [List.find?_append, find?_erase_of_ne hd hne, Option.some_or] at hc
    exact Option.some.inj hc ▸ hfirst d hd
  · rw [List.erase_append_right _ hmem, List.erase_cons_head, List.append_nil] at hc
    exact hfirst c hc

/-! ## Commands taken -/

/-- What is kept of the command at a queue's head. -/
def State.takenOf (s : State) (q : Nat) (e : List Byte) : Taken :=
  ⟨q, fieldLe e 0 1, fieldLe e 2 2, fieldLe e 4 2, (s.rf (R.HQ_Q_STATUS_SQ_HEAD q) + 1) % s.sqSize q⟩

/-- The state after the command at a queue's head is taken (R367). -/
def State.afterTake (s : State) (q : Nat) (e : List Byte) : State :=
  let u := s.set (R.HQ_Q_STATUS_SQ_HEAD q) (s.takenOf q e).head
  { u with host := { u.host with taken := u.host.taken ++ [s.takenOf q e], turn := q + 1 } }

theorem State.takeCmd_some (s : State) (q : Nat) (ok : Nat → Bool) (e : List Byte) (hl : s.linkUp = true) (hq : s.nextQueue = some q)
    (hok : ok (fieldLe e 0 1) = true) : s.takeCmd q ok e = some (s.takenOf q e, s.afterTake q e) := by
  unfold State.takeCmd
  rw [hl, hq, hok]
  simp only [beq_self_eq_true, Bool.and_self, if_true]
  rfl

/-- A state in which a queue's command has been taken, and nothing else of the queues has changed. -/
structure State.Took (s : State) (q : Nat) (e : List Byte) (v : State) : Prop where
  cmds : v.cmds = (s.host.taken ++ [s.takenOf q e], s.host.waiting, s.host.phases)
  head : v.rf (R.HQ_Q_STATUS_SQ_HEAD q) = (s.takenOf q e).head % 2 ^ 16
  regs : ∀ f : Fld, f.ofQueues → f.key ≠ (R.HQ_Q_STATUS_SQ_HEAD q).key → v.rf f = s.rf f

theorem State.took_afterTake (s : State) (q : Nat) (e : List Byte) : s.Took q e (s.afterTake q e) :=
  ⟨rfl, State.rf_set_same _ _ _, fun _ _ hne => State.rf_set_of_ne _ _ _ _ hne⟩

/-- What leaves the queues and their commands keeps a command taken. -/
theorem State.Took.step {s v w : State} {q m : Nat} {e : List Byte} (h : s.Took q e v) (hd : Does m v w) (h6 : m.testBit 6 = false)
    (hc : w.cmds = v.cmds) : s.Took q e w := by
  have hrf : ∀ f : Fld, f.ofQueues → w.rf f = v.rf f := fun f hf => hd.rf f (by rw [hf.blk, h6])
  exact ⟨hc.trans h.cmds, (hrf _ (queueReg_ofQueues 0x200028 q 48 16 (by decide) (by decide))).trans h.head,
    fun f hf hne => (hrf f hf).trans (h.regs f hf hne)⟩

/-- A queue whose command is taken next has room in its ring. -/
theorem State.cqFull_of_nextQueue {s : State} {q : Nat} (h : s.nextQueue = some q) : s.cqFull q = false := by
  have hhas : s.queueHas q = true := by
    unfold State.nextQueue at h
    split at h
    · next hf =>
      cases h
      have := List.find?_some hf
      simp only [Bool.and_eq_true] at this
      exact this.2
    · exact List.find?_some h
  unfold State.queueHas State.queueState at hhas
  by_contra hfull
  rw [Bool.not_eq_false] at hfull
  simp only [hfull, if_true] at hhas
  split_ifs at hhas <;> simp at hhas

/-- A completion written from a state whose queue's registers are those at the command's taking, but for the head, completes the command (R371). -/
theorem State.completed_writeCpl {s p : State} {q : Nat} {e : List Byte} (hhead : p.rf (R.HQ_Q_STATUS_SQ_HEAD q) = (s.takenOf q e).head % 2 ^ 16)
    (hregs : ∀ f : Fld, f.ofQueues → f.key ≠ (R.HQ_Q_STATUS_SQ_HEAD q).key → p.rf f = s.rf f) (hphases : p.host.phases = s.host.phases) (st : Nat) :
    s.Completed q e st (p.writeCpl ((s.takenOf q e).due st)) := by
  obtain ⟨hlast, htail, hkept, -, -, hsent⟩ := State.writeCpl_writes p ((s.takenOf q e).due st)
  have htl : p.rf (R.HQ_Q_STATUS_CQ_TAIL q) = s.rf (R.HQ_Q_STATUS_CQ_TAIL q) :=
    hregs _ (queueReg_ofQueues 0x200028 q 32 16 (by decide) (by decide)) (queueReg_key_ne (b := 0x200028) (b' := 0x200028) 16 16 q (by decide))
  have hbase : p.rf (R.HQ_CQ_BASE_ADDR q) = s.rf (R.HQ_CQ_BASE_ADDR q) :=
    hregs _ (queueReg_ofQueues 0x200008 q 12 52 (by decide) (by decide)) (queueReg_key_ne (b := 0x200008) (b' := 0x200028) 52 16 q (by decide))
  have hbme : p.rf R.HQ_LINK_BME = s.rf R.HQ_LINK_BME := by
    refine hregs _ (by unfold Fld.ofQueues; decide) ?_
    simp only [Fld.key, R.HQ_LINK_BME, R.HQ_Q_STATUS_SQ_HEAD]
    omega
  have hrow : (p.writeCpl ((s.takenOf q e).due st)).row = p.row :=
    (State.writeCpl_does (μ := 2233387188288) p _ (by decide) (Does.rfl' _ _)).frame .row (by decide)
  have hentry : p.cplEntry ((s.takenOf q e).due st) =
      ({ s with row := p.row } : State).cplEntry ⟨q, fieldLe e 2 2, st, (s.rf (R.HQ_Q_STATUS_SQ_HEAD q) + 1) % s.sqSize q, fieldLe e 4 2⟩ := by
    unfold State.cplEntry
    rw [hphases]
    rfl
  refine ⟨hkept.trans hhead, hlast, htail.trans ?_, fun hb => ?_⟩
  · rw [show ((s.takenOf q e).due st).q = q from rfl, htl, (State.cqFull_congr q hregs).2]
  · rw [hrow, ← htl, ← hbase, ← hentry]
    exact hsent (hbme.trans hb)

/-- A command taken from a settled queue completes as soon as its completion falls due: its entry is written, and no FENCE follows (R368, R371). -/
theorem State.Took.completes {s v : State} {q : Nat} {e : List Byte} (h : s.Took q e v) (hs : s.queueSettled q) (hq : s.nextQueue = some q)
    (hop : fieldLe e 0 1 ≠ 1 ∧ fieldLe e 0 1 ≠ 2) (st k : Nat) :
    s.Completed q e st ((v.cplDue (s.takenOf q e) st).settleFences q k) ∧
    ((v.cplDue (s.takenOf q e) st).settleFences q k).mem = v.mem := by
  obtain ⟨hwait, hops, hfirst⟩ := hs
  have htaken : v.host.taken = s.host.taken ++ [s.takenOf q e] := congrArg (·.1) h.cmds
  have hvwait : v.host.waiting = s.host.waiting := congrArg (·.2.1) h.cmds
  have hphases : v.host.phases = s.host.phases := congrArg (·.2.2) h.cmds
  have hroom : v.cqFull q = false := (State.cqFull_congr q h.regs).1.trans (State.cqFull_of_nextQueue hq)
  have hold : (s.takenOf q e).op = 4 ∨ s.takenOf q e ∉ s.host.taken := by
    by_cases hmem : s.takenOf q e ∈ s.host.taken
    · exact .inl (((hops _ hmem rfl).resolve_left hop.1).resolve_left hop.2)
    · exact .inr hmem
  have hstop : ∀ c, ((v.pastDue (s.takenOf q e) st).writeCpl ((s.takenOf q e).due st)).host.taken.find? (fun t => t.q == q) = some c → c.op ≠ 4 := by
    rw [State.writeCpl_taken, State.pastDue_host, htaken]
    exact find?_erase_taken hfirst hold
  rw [State.cplDue_writes v (s.takenOf q e) st (hvwait ▸ hwait) hroom, State.settleFences_stop _ _ _ hstop]
  refine ⟨State.completed_writeCpl ?_ (fun f hf hne => (v.pastDue_rf _ _ hf).trans (h.regs f hf hne)) ?_ st,
    (State.writeCpl_mem _ _).trans (v.pastDue_mem _ _)⟩
  · exact (v.pastDue_rf _ _ (queueReg_ofQueues 0x200028 q 48 16 (by decide) (by decide))).trans h.head
  · rw [State.pastDue_host, ← hphases]

/-- A command taken from a settled queue completes at once, and the memory stays. -/
theorem State.Took.complete {s v : State} {q : Nat} {e : List Byte} (h : s.Took q e v) (hs : s.queueSettled q) (hq : s.nextQueue = some q)
    (hop : fieldLe e 0 1 ≠ 1 ∧ fieldLe e 0 1 ≠ 2) (st : Nat) :
    s.Completed q e st (v.complete (s.takenOf q e) st) ∧ (v.complete (s.takenOf q e) st).mem = v.mem := h.completes hs hq hop st _

/-! ## The commands -/

/-- NOP completes with OK where it keeps its form, with BAD_ARG otherwise (R368). -/
theorem cmdNop_completes (q : Fin 64) (e : List Byte) (s : State) (hl : s.linkUp = true) (hq : s.nextQueue = some q.val) (hop : fieldLe e 0 1 = 0)
    (hs : s.queueSettled q.val) : ∃ t, exec (.cmdNop q e) s = .next t ∧
      s.Completed q.val e (if cmdHeaderOk e && allZero e 0x10 48 then stOK else stBAD_ARG) t := by
  refine ⟨_, rfl, ?_⟩
  rw [s.takeCmd_some q.val _ e hl hq (by simp [hop])]
  exact ((s.took_afterTake q.val e).complete hs hq (by omega) _).1

/-- A reserved opcode completes with BAD_ARG (R368). -/
theorem cmdReserved_completes (q : Fin 64) (e : List Byte) (s : State) (hl : s.linkUp = true) (hq : s.nextQueue = some q.val) (hop : 5 ≤ fieldLe e 0 1)
    (hs : s.queueSettled q.val) : ∃ t, exec (.cmdReserved q e) s = .next t ∧ s.Completed q.val e stBAD_ARG t := by
  refine ⟨_, rfl, ?_⟩
  rw [s.takeCmd_some q.val _ e hl hq (by simp [hop])]
  exact ((s.took_afterTake q.val e).complete hs hq (by omega) _).1

/-- A FENCE taken where nothing of its queue is under way stands first there. -/
theorem State.settleFences_first {s : State} {q : Nat} {t : Taken} {l : List Taken} (htaken : s.host.taken = l ++ [t]) (hnone : ∀ c ∈ l, c.q ≠ q)
    (hq : t.q = q) (hop : t.op = 4) (k : Nat) : s.settleFences q (k + 1) = (s.cplDue t stOK).settleFences q k := by
  have hfind : s.host.taken.find? (fun c => c.q == q) = some t := by
    rw [htaken, List.find?_append, List.find?_eq_none.mpr (fun c hc => by simpa using hnone c hc), Option.none_or]
    simp [hq]
  rw [State.settleFences, hfind]
  exact if_pos hop

/-- A FENCE completes at once where nothing of its queue is under way, and waits where something is; out of form it completes with BAD_ARG (R368). -/
theorem cmdFence_completes (q : Fin 64) (e : List Byte) (s : State) (hl : s.linkUp = true) (hq : s.nextQueue = some q.val) (hop : fieldLe e 0 1 = 4)
    (hs : s.queueSettled q.val) : ∃ t, exec (.cmdFence q e) s = .next t ∧
      ((cmdHeaderOk e && allZero e 0x10 48) = false → s.Completed q.val e stBAD_ARG t) ∧
      ((cmdHeaderOk e && allZero e 0x10 48) = true → (∀ c ∈ s.host.taken, c.q ≠ q.val) → s.Completed q.val e stOK t) ∧
      ((cmdHeaderOk e && allZero e 0x10 48) = true → (∃ c ∈ s.host.taken, c.q = q.val) → t.sent = s.sent ∧
        t.host.taken = s.host.taken ++ [⟨q.val, 4, fieldLe e 2 2, fieldLe e 4 2, (s.rf (R.HQ_Q_STATUS_SQ_HEAD q.val) + 1) % s.sqSize q.val⟩]) := by
  refine ⟨_, rfl, ?_⟩
  rw [s.takeCmd_some q.val _ e hl hq (by simp [hop])]
  have ⟨_, _, hfirst⟩ := hs
  have htook := s.took_afterTake q.val e
  have htaken : (s.afterTake q.val e).host.taken = s.host.taken ++ [s.takenOf q.val e] := rfl
  refine ⟨fun hform => ?_, fun hform hnone => ?_, fun hform hsome => ?_⟩
  · simp only [hform, Bool.false_eq_true, if_false]
    exact (htook.completes hs hq (by omega) _ _).1
  · simp only [hform, if_true]
    rw [htaken, List.length_append, List.length_singleton, State.settleFences_first htaken hnone rfl hop]
    exact (htook.completes hs hq (by omega) _ _).1
  · obtain ⟨c, hc, hcq⟩ := hsome
    obtain ⟨d, hd⟩ : ∃ d, s.host.taken.find? (fun t => t.q == q.val) = some d :=
      Option.isSome_iff_exists.mp (List.find?_isSome.mpr ⟨c, hc, by simpa using hcq⟩)
    simp only [hform, if_true]
    rw [State.settleFences_stop _ _ _ (by
      intro c' hc'
      rw [htaken, List.find?_append, hd, Option.some_or] at hc'
      exact Option.some.inj hc' ▸ hfirst d hd)]
    exact ⟨rfl, htaken.trans (by rw [State.takenOf, hop])⟩

/-- Nothing is written at an OA where there is nothing to write. -/
theorem State.writeOA_nil (s : State) (w : Who) (own oa : Nat) : s.writeOA w own oa [] = ⟨s, [], false, []⟩ := rfl

/-- Time that passes leaves the memory. -/
theorem State.advance_mem (s : State) (t : Nat) : (s.advance t).mem = s.mem := by
  have hpass : ∀ (u : State) (n : Nat), (u.passTo n).mem = u.mem := by
    intro u n
    unfold State.passTo State.countIdle
    split
    · rfl
    · dsimp only
      split <;> rfl
  have henter : ∀ u : State, u.enterReserve.mem = u.mem := by
    intro u
    unfold State.enterReserve
    split <;> rfl
  unfold State.advance
  split
  · rw [hpass, henter, hpass]
  · exact hpass _ _

/-- Claiming HOST slots leaves the memory. -/
theorem State.hostCarried_mem (s : State) (loads : List Load) : (s.hostCarried loads).mem = s.mem := by
  unfold State.hostCarried State.toTick
  split
  · rfl
  · exact State.advance_mem _ _

/-- Claiming HOST slots keeps a command taken. -/
theorem State.Took.hostCarried {s v : State} {q : Nat} {e : List Byte} (h : s.Took q e v) (loads : List Load) : s.Took q e (v.hostCarried loads) :=
  h.step (State.hostCarried_does (μ := 2199090888720) v loads (by decide) (Does.rfl' _ v)) (by decide) (v.hostCarried_cmds loads)

/-- A write at an OA keeps a command taken. -/
theorem State.Took.writeOA {s v : State} {q : Nat} {e : List Byte} (h : s.Took q e v) (w : Who) (own oa : Nat) (l : List MByte) :
    s.Took q e (v.writeOA w own oa l).st :=
  h.step (State.writeOA_does (μ := 6924048294288) v w own oa l (by decide) (Does.rfl' _ v)) (by decide) (v.writeOA_cmds w own oa l)

/-- The write that a WRITE command asks for, from the state in which the command has been taken (R370). -/
def State.cmdWritten (v : State) (e : List Byte) : Got :=
  (v.hostCarried (v.oaLoad (fieldLe e 0x10 8) (fieldLe e 8 1) true)).writeOA .hostStream 1 (fieldLe e 0x10 8) (clean (sliceB e 0x40 (fieldLe e 8 1)))

/-- A WRITE of no bytes writes nothing and is not refused. -/
theorem State.cmdWritten_nothing (v : State) {e : List Byte} (h : fieldLe e 8 1 = 0) :
    (v.cmdWritten e).st.mem = v.mem ∧ (v.cmdWritten e).refused = false := by
  unfold State.cmdWritten
  rw [h]
  exact ⟨State.hostCarried_mem _ _, rfl⟩

/-- CMD_WRITE by its form (R368, R370). -/
theorem execCmdWrite_eq (q : Fin 64) (e : List Byte) (s : State) (hl : s.linkUp = true) (hq : s.nextQueue = some q.val) (hop : fieldLe e 0 1 = 3) :
    exec (.cmdWrite q e) s = .next (if cmdHeaderOk e && fieldLe e 0x10 8 / 2 ^ 52 == 0 && allZero e 0x18 40 then
      ((s.afterTake q.val e).cmdWritten e).st.complete (s.takenOf q.val e)
        (if ((s.afterTake q.val e).cmdWritten e).refused then ((s.afterTake q.val e).cmdWritten e).st.rf R.TIER_ERR_LAST_STATUS else stOK)
      else (s.afterTake q.val e).complete (s.takenOf q.val e) stBAD_ARG) := by
  have hexec : exec (.cmdWrite q e) s = execCmdWrite q e s := rfl
  have hneg : (!cmdHeaderOk e || fieldLe e 0x10 8 / 2 ^ 52 != 0 || !allZero e 0x18 40) =
      !(cmdHeaderOk e && fieldLe e 0x10 8 / 2 ^ 52 == 0 && allZero e 0x18 40) := by rw [Bool.not_and, Bool.not_and]; rfl
  rw [hexec, execCmdWrite, s.takeCmd_some q.val _ e hl hq (by simp [hop])]
  dsimp only
  rw [hneg]
  cases cmdHeaderOk e && fieldLe e 0x10 8 / 2 ^ 52 == 0 && allZero e 0x18 40 <;> rfl

/-- WRITE completes with the status of its write; out of form with BAD_ARG, and with nothing to write with OK, the memory as it was (R370). -/
theorem cmdWrite_completes (q : Fin 64) (e : List Byte) (s : State) (hl : s.linkUp = true) (hq : s.nextQueue = some q.val) (hop : fieldLe e 0 1 = 3)
    (hs : s.queueSettled q.val) : ∃ (t : State) (st : Nat), exec (.cmdWrite q e) s = .next t ∧ s.Completed q.val e st t ∧
      ((cmdHeaderOk e && fieldLe e 0x10 8 / 2 ^ 52 == 0 && allZero e 0x18 40) = false → st = stBAD_ARG ∧ t.mem = s.mem) ∧
      ((cmdHeaderOk e && fieldLe e 0x10 8 / 2 ^ 52 == 0 && allZero e 0x18 40) = true → fieldLe e 8 1 = 0 → st = stOK ∧ t.mem = s.mem) := by
  have htook := s.took_afterTake q.val e
  have hmem : (s.afterTake q.val e).mem = s.mem := rfl
  rw [execCmdWrite_eq q e s hl hq hop]
  cases cmdHeaderOk e && fieldLe e 0x10 8 / 2 ^ 52 == 0 && allZero e 0x18 40
  · have hdone := htook.complete hs hq (by omega) stBAD_ARG
    exact ⟨_, stBAD_ARG, rfl, hdone.1, fun _ => ⟨rfl, hdone.2.trans hmem⟩, fun h => absurd h Bool.false_ne_true⟩
  · have hwrote : s.Took q.val e ((s.afterTake q.val e).cmdWritten e).st := (htook.hostCarried _).writeOA _ _ _ _
    have hdone := hwrote.complete hs hq (by omega)
    refine ⟨_, _, rfl, (hdone _).1, fun h => absurd h.symm Bool.false_ne_true, fun _ hlen => ?_⟩
    obtain ⟨hnone, hok⟩ := (s.afterTake q.val e).cmdWritten_nothing hlen
    rw [hok]
    exact ⟨rfl, (hdone _).2.trans (hnone.trans hmem)⟩

end Sys2Proof.Machine
end

section
/-! SUPPORT. O60: commands complete with the effect of their own. -/

namespace Sys2Proof.Machine

/-- Settles O60, command by command: registers, units, chunks, pace, rounds and pauses, pages, heat, and the commands of the queues. -/
theorem commandsComplete : Obligations.CommandsComplete :=
  ⟨⟨registerWrite_plainField, registerWrite_w1cFlag⟩,
    ⟨unitWake_waking, unitGate_off⟩,
    ⟨updateChunk_starts, updateChunkDone_counts, accumulatorClear_clears⟩,
    ⟨waitpace_passes, waitsem_passes, waitsemPass_passes⟩,
    ⟨roundEnd_row, pauseBegin_pauses, pauseEnd_resumes, idleCumPeriod_row, clears_at_once⟩,
    ⟨tierLookup_answers, biasChange_begins, biasChangeDone_applies, mapMemoryError_unmaps, backInvalidateAnswer_answers⟩,
    ⟨fun l s hoff hl _ => thermalSample_keeps l s hoff hl, fun s h _ hrun => thermStop_trips s h hrun, pllLock_locks, fclkSwitch_switches, vddMet_shows,
      peakRead_clears, mgmtAccess_answers⟩,
    ⟨cmdNop_completes, cmdReserved_completes, cmdFence_completes, cmdWrite_completes⟩⟩

end Sys2Proof.Machine
end

section
/-! SUPPORT. O4: every step keeps a well-kept state well kept (R37, R439, R469). -/

namespace Sys2Proof.Machine

/-- Every command that goes on has a frame (Laws/Frame.lean), whatever its operands: a mask that its `exec..._does` lemma gives. -/
theorem exec_does : ∀ (i : Instr) (s t : State), exec i s = .next t → ∃ m, Does m s t
  | .registerWrite _ _ _ _, _, _, h => ⟨_, execRegisterWrite_does _ _ _ _ _ _ h⟩
  | .launchCount, _, _, h => ⟨_, execLaunchCount_does _ _ h⟩
  | .castOn, _, _, h => ⟨_, execCastOn_does _ _ h⟩
  | .commitDeadline, _, _, h => ⟨_, execCommitDeadline_does _ _ h⟩
  | .endOfReserve, _, _, h => ⟨_, execEndOfReserve_does _ _ h⟩
  | .verdictSample _, _, _, h => ⟨_, execVerdictSample_does _ _ _ h⟩
  | .bindOff, _, _, h => ⟨_, execBindOff_does _ _ h⟩
  | .agreementRound _, _, _, h => ⟨_, execAgreementRound_does _ _ _ h⟩
  | .ledgerAudit, _, _, h => ⟨_, execLedgerAudit_does _ _ h⟩
  | .boundaryDecisions, _, _, h => ⟨_, execBoundaryDecisions_does _ _ h⟩
  | .swatchStart, _, _, h => ⟨_, execSwatchStart_does _ _ h⟩
  | .swatchEnd, _, _, h => ⟨_, execSwatchEnd_does _ _ h⟩
  | .unitWake _, _, _, h => ⟨_, execUnitWake_does _ _ _ h⟩
  | .unitGate _, _, _, h => ⟨_, execUnitGate_does _ _ _ h⟩
  | .swatchRequest _ _, _, _, h => ⟨_, execSwatchRequest_does _ _ _ _ h⟩
  | .stopRequest _ _, _, _, h => ⟨_, execStopRequest_does _ _ _ _ h⟩
  | .chartLoad _ _, _, _, h => ⟨_, execChartLoad_does _ _ _ _ h⟩
  | .chartFetchDone _, _, _, h => ⟨_, execChartFetchDone_does _ _ _ h⟩
  | .chartValidationDone, _, _, h => ⟨_, execChartValidationDone_does _ _ h⟩
  | .chartDiscard _ _, _, _, h => ⟨_, execChartDiscard_does _ _ _ _ h⟩
  | .chartUninstall _ _, _, _, h => ⟨_, execChartUninstall_does _ _ _ _ h⟩
  | .chartCommitRequest _ _, _, _, h => ⟨_, execChartCommitRequest_does _ _ _ _ h⟩
  | .chartCommitWithdraw _ _, _, _, h => ⟨_, execChartCommitWithdraw_does _ _ _ _ h⟩
  | .variantCommitRequest _ _, _, _, h => ⟨_, execVariantCommitRequest_does _ _ _ _ h⟩
  | .variantCommitWithdraw _ _, _, _, h => ⟨_, execVariantCommitWithdraw_does _ _ _ _ h⟩
  | .chartInstall, _, _, h => ⟨_, execChartInstall_does _ _ h⟩
  | .segmentStart _, _, _, h => ⟨_, execSegmentStart_does _ _ _ h⟩
  | .segmentEnd _, _, _, h => ⟨_, execSegmentEnd_does _ _ _ h⟩
  | .updateChunk _ _, _, _, h => ⟨_, execUpdateChunk_does _ _ _ _ h⟩
  | .updateChunkDone _, _, _, h => ⟨_, execUpdateChunkDone_does _ _ _ h⟩
  | .panelWalk _, _, _, h => ⟨_, execPanelWalk_does _ _ _ h⟩
  | .skeinEncodeSlot _, _, _, h => ⟨_, execSkeinEncodeSlot_does _ _ _ h⟩
  | .skeinDecodeSlot _, _, _, h => ⟨_, execSkeinDecodeSlot_does _ _ _ h⟩
  | .expanderChunk _ _ _ _, _, _, h => ⟨_, execExpanderChunk_does _ _ _ _ _ _ h⟩
  | .streamStart _, _, _, h => ⟨_, execStreamStart_does _ _ _ h⟩
  | .move _, _, _, h => ⟨_, execMove_does _ _ _ h⟩
  | .movex _, _, _, h => ⟨_, execMovex_does _ _ _ h⟩
  | .inline _, _, _, h => ⟨_, execInline_does _ _ _ h⟩
  | .loop _, _, _, h => ⟨_, execLoop_does _ _ _ h⟩
  | .endloop _, _, _, h => ⟨_, execEndloop_does _ _ _ h⟩
  | .waitpace _, _, _, h => ⟨_, execWaitpace_does _ _ _ h⟩
  | .waitsem _, _, _, h => ⟨_, execWaitsem_does _ _ _ h⟩
  | .waitsemPass _, _, _, h => ⟨_, execWaitsemPass_does _ _ _ h⟩
  | .signal _, _, _, h => ⟨_, execSignal_does _ _ _ h⟩
  | .mark _, _, _, h => ⟨_, execMark_does _ _ _ h⟩
  | .fence _, _, _, h => ⟨_, execFence_does _ _ _ h⟩
  | .seal _, _, _, h => ⟨_, execSeal_does _ _ _ h⟩
  | .farReadCompletion _ _ _, _, _, h => ⟨_, execFarReadCompletion_does _ _ _ _ _ h⟩
  | .barrier _, _, _, h => ⟨_, execBarrier_does _ _ _ h⟩
  | .barrierComplete _, _, _, h => ⟨_, execBarrierComplete_does _ _ _ h⟩
  | .barrierAnnouncement _ _ _, _, _, h => ⟨_, execBarrierAnnouncement_does _ _ _ _ _ h⟩
  | .setreg _, _, _, h => ⟨_, execSetreg_does _ _ _ h⟩
  | .nop _, _, _, h => ⟨_, execNop_does _ _ _ h⟩
  | .endOp _, _, _, h => ⟨_, execEndOp_does _ _ _ h⟩
  | .blockComplete _ _, _, _, h => ⟨_, execBlockComplete_does _ _ _ _ h⟩
  | .roundEnd, _, _, h => ⟨_, execRoundEnd_does _ _ h⟩
  | .pauseBegin, _, _, h => ⟨_, execPauseBegin_does _ _ h⟩
  | .pauseEnd, _, _, h => ⟨_, execPauseEnd_does _ _ h⟩
  | .tierMap _ _, _, _, h => ⟨_, execTierMap_does _ _ _ _ h⟩
  | .tierUnmap _ _, _, _, h => ⟨_, execTierUnmap_does _ _ _ _ h⟩
  | .tierReclass _ _, _, _, h => ⟨_, execTierReclass_does _ _ _ _ h⟩
  | .tierMapDone, _, _, h => ⟨_, execTierMapDone_does _ _ h⟩
  | .migrationPass, _, _, h => ⟨_, execMigrationPass_does _ _ h⟩
  | .pageMigrationDone _ _, _, _, h => ⟨_, execPageMigrationDone_does _ _ _ _ h⟩
  | .tierLookup _ _, _, _, h => ⟨_, execTierLookup_does _ _ _ _ h⟩
  | .biasToHost _ _, _, _, h => ⟨_, execBiasToHost_does _ _ _ _ h⟩
  | .biasToDevice _ _, _, _, h => ⟨_, execBiasToDevice_does _ _ _ _ h⟩
  | .biasChangeDone, _, _, h => ⟨_, execBiasChangeDone_does _ _ h⟩
  | .lendEntryWrite _ _ _ _, _, _, h => ⟨_, execLendEntryWrite_does _ _ _ _ _ _ h⟩
  | .peerRequest _ _ _ _ _, _, _, h => ⟨_, execPeerRequest_does _ _ _ _ _ _ _ h⟩
  | .mapMemoryError _, _, _, h => ⟨_, execMapMemoryError_does _ _ _ h⟩
  | .ftlFormat _ _, _, _, h => ⟨_, execFtlFormat_does _ _ _ _ h⟩
  | .ftlFormatDone, _, _, h => ⟨_, execFtlFormatDone_does _ _ h⟩
  | .flashArrayRead _, _, _, h => ⟨_, execFlashArrayRead_does _ _ _ h⟩
  | .codewordDecode _ _ _, _, _, h => ⟨_, execCodewordDecode_does _ _ _ _ _ h⟩
  | .flashProgramFail _, _, _, h => ⟨_, execFlashProgramFail_does _ _ _ h⟩
  | .commitRecordDurable, _, _, h => ⟨_, execCommitRecordDurable_does _ _ h⟩
  | .blockRelocation _, _, _, h => ⟨_, execBlockRelocation_does _ _ _ h⟩
  | .blockErase _, _, _, h => ⟨_, execBlockErase_does _ _ _ h⟩
  | .wearLevelling _, _, _, h => ⟨_, execWearLevelling_does _ _ _ h⟩
  | .lunRetire _ _ _, _, _, h => ⟨_, execLunRetire_does _ _ _ _ _ h⟩
  | .ftlRecovery, _, _, h => ⟨_, execFtlRecovery_does _ _ h⟩
  | .addw _ _ _ _ _ _, _, _, h => ⟨_, execAddw_does _ _ _ _ _ _ _ _ h⟩
  | .accumulatorClear, _, _, h => ⟨_, execAccumulatorClear_does _ _ h⟩
  | .hostRaise _ _, _, _, h => ⟨_, execHostRaise_does _ _ _ _ h⟩
  | .lrWrite _ _, _, _, h => ⟨_, execLrWrite_does _ _ _ _ h⟩
  | .scaleSetWrite _ _, _, _, h => ⟨_, execScaleSetWrite_does _ _ _ _ h⟩
  | .creditReturn _ _ _ _, _, _, h => ⟨_, execCreditReturn_does _ _ _ _ _ _ h⟩
  | .rd _ _ _ _, _, _, h => ⟨_, execRd_does _ _ _ _ _ _ h⟩
  | .wrFromDie _ _ _ _, _, _, h => ⟨_, execWrFromDie_does _ _ _ _ _ _ h⟩
  | .pace _ _ _, _, _, h => ⟨_, execPace_does _ _ _ _ _ h⟩
  | .sigFromDie _ _, _, _, h => ⟨_, execSigFromDie_does _ _ _ _ h⟩
  | .fenceFromDie _ _, _, _, h => ⟨_, execFenceFromDie_does _ _ _ _ h⟩
  | .fackFromDie _ _ _, _, _, h => ⟨_, execFackFromDie_does _ _ _ _ _ h⟩
  | .ucieLinkUp _ _ _, _, _, h => ⟨_, execUcieLinkUp_does _ _ _ _ _ h⟩
  | .hello _ _ _ _ _ a n _, _, _, h => ⟨_, execHello_does _ _ _ _ _ a n _ _ _ h⟩
  | .linkControlReset _, _, _, h => ⟨_, execLinkControlReset_does _ _ _ h⟩
  | .ucieLinkDown _, _, _, h => ⟨_, execUcieLinkDown_does _ _ _ h⟩
  | .cdpReset _ _ _, _, _, h => ⟨_, execCdpReset_does _ _ _ _ _ h⟩
  | .cdpEnable _ _ _, _, _, h => ⟨_, execCdpEnable_does _ _ _ _ _ h⟩
  | .portHelloTimer _, _, _, h => ⟨_, execPortHelloTimer_does _ _ _ h⟩
  | .moduleFail _ _, _, _, h => ⟨_, execModuleFail_does _ _ _ _ h⟩
  | .moduleRetrainDone _, _, _, h => ⟨_, execModuleRetrainDone_does _ _ _ h⟩
  | .sqDoorbell _ _ _, _, _, h => ⟨_, execSqDoorbell_does _ _ _ _ _ h⟩
  | .cqHeadWrite _ _ _, _, _, h => ⟨_, execCqHeadWrite_does _ _ _ _ _ h⟩
  | .queueEnable _ _ _, _, _, h => ⟨_, execQueueEnable_does _ _ _ _ _ h⟩
  | .queueDisable _ _ _, _, _, h => ⟨_, execQueueDisable_does _ _ _ _ _ h⟩
  | .cmdNop _ _, _, _, h => ⟨_, execCmdNop_does _ _ _ _ h⟩
  | .cmdOpen _ _, _, _, h => ⟨_, execCmdOpen_does _ _ _ _ h⟩
  | .hostStreamStart _, _, _, h => ⟨_, execHostStreamStart_does _ _ _ h⟩
  | .cmdAbort _ _, _, _, h => ⟨_, execCmdAbort_does _ _ _ _ h⟩
  | .cmdWrite _ _, _, _, h => ⟨_, execCmdWrite_does _ _ _ _ h⟩
  | .cmdFence _ _, _, _, h => ⟨_, execCmdFence_does _ _ _ _ h⟩
  | .cmdReserved _ _, _, _, h => ⟨_, execCmdReserved_does _ _ _ _ h⟩
  | .bar2Request _ _ _ _ _, _, _, h => ⟨_, execBar2Request_does _ _ _ _ _ _ _ h⟩
  | .barAtomic _ _ _ _ _ _, _, _, h => ⟨_, execBarAtomic_does _ _ _ _ _ _ _ _ h⟩
  | .cxlMemRequest _ _ _ _, _, _, h => ⟨_, execCxlMemRequest_does _ _ _ _ _ _ h⟩
  | .cxlSnoop a, _, _, h => ⟨_, execCxlSnoop_does a _ _ h⟩
  | .hostReadCompletion _ _ _ _, _, _, h => ⟨_, execHostReadCompletion_does _ _ _ _ _ _ h⟩
  | .farFaultReport _ _, _, _, h => ⟨_, execFarFaultReport_does _ _ _ _ h⟩
  | .flr, _, _, h => ⟨_, execFlr_does _ _ h⟩
  | .perstNAssert _, _, _, h => ⟨_, execPerstNAssert_does _ _ _ h⟩
  | .hostLinkUp _ _ _, _, _, h => ⟨_, execHostLinkUp_does _ _ _ _ _ h⟩
  | .bmeSet, _, _, h => ⟨_, execBmeSet_does _ _ h⟩
  | .msixUnmask _, _, _, h => ⟨_, execMsixUnmask_does _ _ _ h⟩
  | .syncConfigWrite _ _, _, _, h => ⟨_, execSyncConfigWrite_does _ _ _ _ h⟩
  | .syncArm _ _, _, _, h => ⟨_, execSyncArm_does _ _ _ _ h⟩
  | .sendRelease _ _, _, _, h => ⟨_, execSendRelease_does _ _ _ _ h⟩
  | .releaseSampled, _, _, h => ⟨_, execReleaseSampled_does _ _ h⟩
  | .releaseLoad, _, _, h => ⟨_, execReleaseLoad_does _ _ h⟩
  | .syncRunMalformed _, _, _, h => ⟨_, execSyncRunMalformed_does _ _ _ h⟩
  | .epochEmit, _, _, h => ⟨_, execEpochEmit_does _ _ h⟩
  | .epochSampled _, _, _, h => ⟨_, execEpochSampled_does _ _ _ h⟩
  | .freeReturn, _, _, h => ⟨_, execFreeReturn_does _ _ h⟩
  | .syncLost, _, _, h => ⟨_, execSyncLost_does _ _ h⟩
  | .leaderWrite _ _, _, _, h => ⟨_, execLeaderWrite_does _ _ _ _ h⟩
  | .launchWrite _ _, _, _, h => ⟨_, execLaunchWrite_does _ _ _ _ h⟩
  | .launchCancel _ _, _, _, h => ⟨_, execLaunchCancel_does _ _ _ _ h⟩
  | .clockLoss, _, _, h => ⟨_, execClockLoss_does _ _ h⟩
  | .clockGlitch, _, _, h => ⟨_, execClockGlitch_does _ _ h⟩
  | .clockRate, _, _, h => ⟨_, execClockRate_does _ _ h⟩
  | .gaugeClear _ _, _, _, h => ⟨_, execGaugeClear_does _ _ _ _ h⟩
  | .tensionClear _ _, _, _, h => ⟨_, execTensionClear_does _ _ _ _ h⟩
  | .idleClear _ _, _, _, h => ⟨_, execIdleClear_does _ _ _ _ h⟩
  | .unitFault _, _, _, h => ⟨_, execUnitFault_does _ _ _ h⟩
  | .correctableError _, _, _, h => ⟨_, execCorrectableError_does _ _ _ h⟩
  | .channelCopyDone, _, _, h => ⟨_, execChannelCopyDone_does _ _ h⟩
  | .channelLoss _, _, _, h => ⟨_, execChannelLoss_does _ _ _ h⟩
  | .controlCoreFault _, _, _, h => ⟨_, execControlCoreFault_does _ _ _ h⟩
  | .lockstepMismatch _, _, _, h => ⟨_, execLockstepMismatch_does _ _ _ h⟩
  | .mend _ _, _, _, h => ⟨_, execMend_does _ _ _ _ h⟩
  | .mendSelfTestDone _ _, _, _, h => ⟨_, execMendSelfTestDone_does _ _ _ _ h⟩
  | .supplyGood _, _, _, h => ⟨_, execSupplyGood_does _ _ _ h⟩
  | .supplyLost _, _, _, h => ⟨_, execSupplyLost_does _ _ _ h⟩
  | .rstNLow _, _, _, h => ⟨_, execRstNLow_does _ _ _ h⟩
  | .rstNRise, _, _, h => ⟨_, execRstNRise_does _ _ h⟩
  | .bootImageDone _ _, _, _, h => ⟨_, execBootImageDone_does _ _ _ _ h⟩
  | .bootTrainingDone _, _, _, h => ⟨_, execBootTrainingDone_does _ _ _ h⟩
  | .toAon _ _, _, _, h => ⟨_, execToAon_does _ _ _ _ h⟩
  | .wake _ _, _, _, h => ⟨_, execWake_does _ _ _ _ h⟩
  | .retryBoot _ _, _, _, h => ⟨_, execRetryBoot_does _ _ _ _ h⟩
  | .advanceFw _ _, _, _, h => ⟨_, execAdvanceFw_does _ _ _ _ h⟩
  | .advanceDev _ _, _, _, h => ⟨_, execAdvanceDev_does _ _ _ _ h⟩
  | .revokeFw _ _, _, _, h => ⟨_, execRevokeFw_does _ _ _ _ h⟩
  | .revokeDev _ _, _, _, h => ⟨_, execRevokeDev_does _ _ _ _ h⟩
  | .fuseBurnDone, _, _, h => ⟨_, execFuseBurnDone_does _ _ h⟩
  | .thermalSample _, _, _, h => ⟨_, execThermalSample_does _ _ _ h⟩
  | .thermStop, _, _, h => ⟨_, execThermStop_does _ _ h⟩
  | .pllLock, _, _, h => ⟨_, execPllLock_does _ _ h⟩
  | .fclkSwitch, _, _, h => ⟨_, execFclkSwitch_does _ _ h⟩
  | .vddMet _, _, _, h => ⟨_, execVddMet_does _ _ _ h⟩
  | .peakRead, _, _, h => ⟨_, execPeakRead_does _ _ h⟩
  | .mgmtAccess _ _ _, _, _, h => ⟨_, execMgmtAccess_does _ _ _ _ _ h⟩
  | .forwardEnd, _, _, h => ⟨_, execForwardEnd_does _ _ h⟩
  | .backwardEnd, _, _, h => ⟨_, execBackwardEnd_does _ _ h⟩
  | .correctableWindowEnd, _, _, h => ⟨_, execCorrectableWindowEnd_does _ _ h⟩
  | .oscillatorCalibration _, _, _, h => ⟨_, execOscillatorCalibration_does _ _ _ h⟩
  | .idleCumPeriod, _, _, h => ⟨_, execIdleCumPeriod_does _ _ h⟩
  | .controlCoreJoin, _, _, h => ⟨_, execControlCoreJoin_does _ _ h⟩
  | .backInvalidateAnswer _, _, _, h => ⟨_, execBackInvalidateAnswer_does _ _ _ h⟩
  | .configSpaceWrite _ _, _, _, h => ⟨_, execConfigSpaceWrite_does _ _ _ _ h⟩
  | .deviceKeyFuseBurn _ _, _, _, h => ⟨_, execDeviceKeyFuseBurn_does _ _ _ _ h⟩

/-- Taking a command off the queue keeps a state well kept, since the queue is no part of what is kept. -/
theorem State.WellKept.withPending {s : State} (h : s.WellKept) (l : List Instr) : ({ s with pending := l } : State).WellKept :=
  ⟨h.regs, h.mem, h.ports, h.phase, h.power⟩

/-- Settles O4: a tick and every command keep a well-kept state well kept by their frames. -/
theorem stepKeepsWellKept : Obligations.StepKeepsWellKept := by
  intro s t hs hstep
  unfold step at hstep
  split at hstep
  · obtain rfl := Host.Outcome.next.inj hstep
    exact (State.tick_does s (by decide) (Does.rfl' 67633168 s)).kept hs
  · obtain ⟨_, hdoes⟩ := exec_does _ _ _ hstep
    exact hdoes.kept (hs.withPending _)

end Sys2Proof.Machine
end

section
/-! SUPPORT. O2: a step on an empty queue is one tick (R17, R37). -/

namespace Sys2Proof.Machine

@[simp] theorem State.passTo_phase (s : State) (t : Nat) : (s.passTo t).phase = s.phase := s.passTo_rf t _

/-- Ticks that pass leave the scheduled plan-end. -/
@[simp] theorem State.passTo_planEndAt (s : State) (t : Nat) : (s.passTo t).planEndAt = s.planEndAt := by
  unfold State.passTo State.countIdle
  split
  · rfl
  · split <;> rfl

/-- Ticks that pass begin and end no pause. -/
@[simp] theorem State.passTo_paused (s : State) (t : Nat) : (s.passTo t).paused = s.paused := by
  unfold State.passTo State.countIdle
  split
  · rfl
  · split <;> rfl

/-- In the tail, `advance` to the scheduled plan-end or past it shows RESERVE (R37). -/
theorem State.advance_phase_planEnd (s : State) {t : Nat} (h : s.phase = phTAIL) (hrun : s.paused = false) (hend : s.planEndAt ≤ t) :
    (s.advance t).phase = phRESERVE := by
  have henter : ((s.passTo s.planEndAt).enterReserve).phase = phRESERVE := by
    unfold State.enterReserve
    rw [if_pos (by simp [h, hrun])]
    exact State.rf_set_same _ _ _
  unfold State.advance
  rw [if_pos ⟨h, hend, hrun⟩, State.passTo_phase, henter]

/-- In a pause, and before the scheduled plan-end, `advance` leaves the phase (R37, R231). -/
theorem State.advance_phase_before (s : State) {t : Nat} (h : s.paused = true ∨ t < s.planEndAt) : (s.advance t).phase = s.phase := by
  unfold State.advance
  rw [if_neg, State.passTo_phase]
  rintro ⟨-, hend, hrun⟩
  rcases h with h | h
  · simp [h] at hrun
  · omega

theorem State.tick_of_off (s : State) (h : s.pwr.off = true) : s.tick = s := if_pos h

/-- With power, the phase after a tick is that of `advance`, and the row counter wraps at 64 bits. -/
theorem State.tick_of_on (s : State) (h : s.pwr.off = false) :
    s.tick = { s.advance (s.row + 1) with row := (s.row + 1) % 2 ^ 64 } := if_neg (by simp [h])

theorem State.tick_phase (s : State) (h : s.pwr.off = false) : s.tick.phase = (s.advance (s.row + 1)).phase := by
  rw [s.tick_of_on h]
  rfl

/-- Settles O2: the step is `State.tick`, whose frame names the parts and whose phase is that of `advance` by one count. -/
theorem emptyQueueTick : Obligations.EmptyQueueTick := by
  intro s hempty
  have hstep : step s = .next s.tick := by
    unfold step
    rw [hempty]
  refine ⟨s.tick, hstep, (State.tick_does s (by decide) (Does.rfl' 67633168 s)).only _ (by decide), s.tick_of_off, fun hon => ?_⟩
  rw [s.tick_phase hon]
  refine ⟨by rw [s.tick_of_on hon], ?_, ?_, ?_⟩
  · exact fun h => s.advance_phase _ h
  · exact fun h hrun hend => s.advance_phase_planEnd h hrun hend
  · exact fun h hbefore => (s.advance_phase_before hbefore).trans h

end Sys2Proof.Machine
end

section
/-! SUPPORT. O12: what a swatch request and a stop request of the host name (R30, R33, R35, R36). -/

namespace Sys2Proof.Machine

/-! ## Writes of STEP_SWATCH and STEP_CTRL -/

/-- The row of STEP_SWATCH in the Register list (R37). -/
def stepSwatchRow : RegRow :=
  ⟨0x80038, 1, 0, 64, [⟨32, 32, .ro, .fw⟩, ⟨16, 8, .ro, .fw⟩, ⟨8, 1, .ro, .fw⟩, ⟨4, 4, .rw, .host⟩, ⟨0, 1, .wo, .host⟩]⟩

/-- The row of STEP_CTRL in the Register list (R37). -/
def stepCtrlRow : RegRow := ⟨0x80040, 1, 0, 64, [⟨32, 32, .ro, .fw⟩, ⟨8, 8, .ro, .fw⟩, ⟨1, 1, .ro, .fw⟩, ⟨0, 1, .wo, .host⟩]⟩

theorem findReg_stepSwatch : findReg 0x80038 = some stepSwatchRow := findReg_of_alone (by decide +kernel) (by decide)

theorem findReg_stepCtrl : findReg 0x80040 = some stepCtrlRow := findReg_of_alone (by decide +kernel) (by decide)

/-- What a request's target depends on stands alike in two states: phase, row counter, step number, bind-off count, and the fields beside
the registers that requests read. -/
structure State.SameTarget (s t : State) : Prop where
  phase   : t.phase = s.phase
  row     : t.row = s.row
  number  : t.rf R.STEP_NUMBER_VALUE = s.rf R.STEP_NUMBER_VALUE
  bindOff : t.rf R.STEP_BINDOFF_VALUE = s.rf R.STEP_BINDOFF_VALUE
  step    : t.step = s.step
  chart   : t.chart = s.chart

theorem State.SameTarget.stopped {s t : State} (h : s.SameTarget t) : t.stopped = s.stopped := by
  unfold State.stopped
  rw [h.phase]

theorem State.SameTarget.inStep {s t : State} (h : s.SameTarget t) : t.inStep = s.inStep := by
  unfold State.inStep
  rw [h.phase]

/-- In a step, what reaches KN40 before the commit deadline targets the step's own bind-off, and from it on the following one (R28, R33). -/
theorem State.SameTarget.targetStep {s t : State} (h : s.SameTarget t) (hi : s.inStep = true) :
    t.targetStep = if s.row < s.deadline then (s.rf R.STEP_NUMBER_VALUE, false) else (s.rf R.STEP_NUMBER_VALUE + 1, true) := by
  unfold State.targetStep State.deadline
  rw [if_pos (h.inStep.trans hi), h.row, h.number, h.bindOff]

/-- A write of a register of STEP leaves what a request's target depends on, where it holds none of the fields read. -/
theorem State.regWrite_sameTarget (s : State) {off v : Nat} {r : RegRow} (hr : findReg off = some r)
    (hf : r.fields.all (fun f => decide (0 < f.w ∧ f.lo + f.w ≤ 64)) = true) (hb : blockOf off = 4)
    (hoff : off ≠ 0x80000 ∧ off ≠ 0x80008 ∧ off ≠ 0x80020) : s.SameTarget (s.regWrite off (Wr.full .host v)) := by
  obtain ⟨hphase, hnumber, hbind⟩ := hoff
  have hd : Does 536895504 s (s.regWrite off (Wr.full .host v)) :=
    State.regWrite_does s _ _ (by rw [hb]; decide) (by decide) (Does.rfl' _ s)
  exact ⟨State.regWrite_other s R.STEP_STATUS_PHASE hr hf (by decide) hphase.symm, hd.frame .row (by decide),
    State.regWrite_other s R.STEP_NUMBER_VALUE hr hf (by decide) hnumber.symm,
    State.regWrite_other s R.STEP_BINDOFF_VALUE hr hf (by decide) hbind.symm, hd.frame .step (by decide), hd.frame .chart (by decide)⟩

/-- The request bit of a register, set by the command itself, reads 1 for the host. -/
theorem Wr.get_request (v : BitVec 64) (f : Fld) (hlo : f.lo = 0) (hw : f.w = 1) :
    (Wr.full .host (v ||| 1).toNat).get .host f = 1 := by
  rw [Wr.get_full rfl (by omega), hlo, hw, bitsOf_or_one]

/-! ## Swatch requests -/

/-- Showing the next cast-on and the wakes anew writes STEP_NEXT_CASTON and registers of CLU only. -/
theorem State.showAhead_rf (s : State) (f : Fld) (hne : f.key ≠ R.STEP_NEXT_CASTON_VALUE.key) (hb : f.blk ≠ 9) :
    s.showAhead.rf f = s.rf f := by
  have hwakes : s.showAhead.rf f = s.showNext.rf f := by
    refine (State.showWakes_does (μ := 512) s.showNext (by decide) (Does.rfl' _ _)).rf f ?_
    rw [show (512 : Nat) = 2 ^ 9 from rfl, Nat.testBit_two_pow]
    exact decide_eq_false (Ne.symm hb)
  exact hwakes.trans (s.showNext_only f (fun g hg => by rw [List.mem_singleton.mp hg]; exact hne))

theorem State.showAhead_step (s : State) : s.showAhead.step = s.step :=
  (State.showAhead_does (μ := 528) s (by decide) (Does.rfl' _ s)).frame .step (by decide)

/-- A swatch request accepted for a bind-off, or for the next launch: the last one for it stands, and STEP_SWATCH shows it (R33). -/
theorem State.putSwatch_shows (s : State) (p : Nat) (target : Option Nat) (st : Nat) :
    (s.putSwatch p target st).rf R.STEP_SWATCH_PROGRAM = s.rf R.STEP_SWATCH_PROGRAM ∧
    (s.putSwatch p target st).rf R.STEP_SWATCH_STATUS = st % 2 ^ 8 ∧
    (s.putSwatch p target st).rf R.STEP_SWATCH_AT_STEP = target.getD 0xFFFFFFFF % 2 ^ 32 ∧
    (s.putSwatch p target st).rf R.STEP_SWATCH_PENDING = 1 ∧
    (s.putSwatch p target st).step.swatches = s.step.swatches.filter (fun r => r.target != target) ++ [⟨p, target⟩] := by
  unfold State.putSwatch
  extract_lets _ u v
  have hshow : ∀ f : Fld, f.off = 0x80038 → f.lo < 64 → ((v.set R.STEP_SWATCH_PENDING 1).showAhead).rf f =
      (v.set R.STEP_SWATCH_PENDING 1).rf f := by
    intro f hoff hlo
    refine State.showAhead_rf _ f (Fld.key_ne_of_off hlo (by decide) (by rw [hoff]; decide)) ?_
    obtain ⟨o, lo, w⟩ := f
    rw [Fld.blk_eq _ _ _ hlo, show o = 0x80038 from hoff]
    decide
  refine ⟨?_, ?_, ?_, ?_, ?_⟩
  · rw [hshow _ rfl (by decide)]
    iterate 3 rw [State.rf_set_of_ne _ _ _ _ (by decide)]
    rfl
  · rw [hshow _ rfl (by decide), State.rf_set_of_ne _ _ _ _ (by decide), State.rf_set_of_ne _ _ _ _ (by decide), State.rf_set_same]
    rfl
  · rw [hshow _ rfl (by decide), State.rf_set_of_ne _ _ _ _ (by decide), State.rf_set_same]
    rfl
  · rw [hshow _ rfl (by decide), State.rf_set_same]
    rfl
  · rw [State.showAhead_step]
    rfl

/-- A swatch request leaves the program it names, whatever becomes of it. -/
theorem State.requestSwatch_program (s : State) : s.requestSwatch.rf R.STEP_SWATCH_PROGRAM = s.rf R.STEP_SWATCH_PROGRAM := by
  have hrefused : ((s.set R.STEP_SWATCH_STATUS stBAD_ARG).refuse 0x80038 stBAD_ARG).rf R.STEP_SWATCH_PROGRAM = s.rf R.STEP_SWATCH_PROGRAM :=
    (State.refuse_rf _ _ _ _ (by decide)).trans (State.rf_set_of_ne _ _ _ _ (by decide))
  have hput := fun target st => (s.putSwatch_shows (s.rf R.STEP_SWATCH_PROGRAM) target st).1
  unfold State.requestSwatch
  extract_lets p
  split
  · exact hrefused
  · split_ifs
    · exact hrefused
    · exact hput _ _
    · exact hput _ _
    · exact hput _ _
    · exact hput _ _

/-- In IDLE and HOLD a swatch request names the next launch (R36). -/
theorem State.requestSwatch_stopped (s : State) {c : Chart} (hc : s.chart.active = some c) (hp : s.rf R.STEP_SWATCH_PROGRAM < c.nswatch)
    (hs : s.stopped = true) : s.requestSwatch = s.putSwatch (s.rf R.STEP_SWATCH_PROGRAM) none stOK := by
  unfold State.requestSwatch
  simp only [hc, Nat.not_le.mpr hp, hs, if_true, if_false]

/-- A step is neither IDLE nor HOLD nor ARMED. -/
theorem State.not_stopped_of_inStep (s : State) (h : s.inStep = true) : s.stopped = false ∧ s.phase ≠ phARMED := by
  obtain ⟨hlow, hhigh⟩ : 2 ≤ s.phase ∧ s.phase ≤ 6 := of_decide_eq_true h
  have hne : ∀ ph : Nat, ph < 2 ∨ 6 < ph → s.phase ≠ ph := by omega
  refine ⟨?_, hne 1 (by decide)⟩
  simp only [State.stopped, Bool.or_eq_false_iff, beq_eq_false_iff_ne]
  exact ⟨hne 0 (by decide), hne 9 (by decide)⟩

/-- In a step a swatch request names the bind-off of R33, DEFERRED where that is not the step's own. -/
theorem State.requestSwatch_inStep (s : State) {c : Chart} (hc : s.chart.active = some c) (hp : s.rf R.STEP_SWATCH_PROGRAM < c.nswatch)
    (hi : s.inStep = true) :
    s.requestSwatch = s.putSwatch (s.rf R.STEP_SWATCH_PROGRAM) (some s.targetStep.1) (if s.targetStep.2 then stDEFERRED else stOK) := by
  obtain ⟨hstop, harm⟩ := s.not_stopped_of_inStep hi
  unfold State.requestSwatch
  simp only [hc, Nat.not_le.mpr hp, hstop, harm, Bool.false_eq_true, if_false]

/-- A swatch request of the host: its program, and its target in IDLE and HOLD, before the commit deadline and from it on (R33, R36). -/
theorem swatchRequest_targets (s : State) (v : BitVec 64) (c : Chart) (hreach : s.reach .host = true) (hc : s.chart.active = some c)
    (hp : bitsOf v.toNat 4 4 < c.nswatch) :
    Runs (.swatchRequest .host v) s [.stepRegs, .cluRegs, .faultRegs, .logRegs, .logRound, .step] (fun t =>
      let p := bitsOf v.toNat 4 4
      t.rf R.STEP_SWATCH_PROGRAM = p ∧
      (s.stopped = true → t.rf R.STEP_SWATCH_STATUS = stOK ∧ t.rf R.STEP_SWATCH_AT_STEP = 0xFFFFFFFF ∧ t.rf R.STEP_SWATCH_PENDING = 1 ∧
        t.step.swatches = s.step.swatches.filter (fun r => r.target != none) ++ [⟨p, none⟩]) ∧
      (s.inStep = true → s.row < s.deadline → t.rf R.STEP_SWATCH_STATUS = stOK ∧ t.rf R.STEP_SWATCH_PENDING = 1 ∧
        t.rf R.STEP_SWATCH_AT_STEP = s.rf R.STEP_NUMBER_VALUE % 2 ^ 32 ∧
        t.step.swatches = s.step.swatches.filter (fun r => r.target != some (s.rf R.STEP_NUMBER_VALUE)) ++
          [⟨p, some (s.rf R.STEP_NUMBER_VALUE)⟩]) ∧
      (s.inStep = true → s.deadline ≤ s.row → t.rf R.STEP_SWATCH_STATUS = stDEFERRED ∧ t.rf R.STEP_SWATCH_PENDING = 1 ∧
        t.rf R.STEP_SWATCH_AT_STEP = (s.rf R.STEP_NUMBER_VALUE + 1) % 2 ^ 32 ∧
        t.step.swatches = s.step.swatches.filter (fun r => r.target != some (s.rf R.STEP_NUMBER_VALUE + 1)) ++
          [⟨p, some (s.rf R.STEP_NUMBER_VALUE + 1)⟩])) := by
  have hexec : exec (.swatchRequest .host v) s = .next (s.writeSwatch (Wr.full .host (v ||| 1).toNat)) :=
    congrArg Host.Outcome.next (if_pos hreach)
  have hsame := s.regWrite_sameTarget (v := (v ||| 1).toNat) findReg_stepSwatch (by decide) (by decide) (by decide)
  have hprog : (s.regWrite 0x80038 (Wr.full .host (v ||| 1).toNat)).rf R.STEP_SWATCH_PROGRAM = bitsOf v.toNat 4 4 :=
    (State.regWrite_field s (r := stepSwatchRow) R.STEP_SWATCH_PROGRAM findReg_stepSwatch (by decide) (by decide) (by decide)).trans
      (bitsOf_or_low v 1 4 4 (by decide) (by decide))
  refine Runs.of hexec (execSwatchRequest_does _ _ _ _ hexec) (by decide) ?_
  unfold State.writeSwatch
  simp only [Wr.get_request v R.STEP_SWATCH_REQ rfl rfl, if_true]
  generalize s.regWrite 0x80038 (Wr.full .host (v ||| 1).toNat) = u at hsame hprog ⊢
  have hcu : u.chart.active = some c := by rw [hsame.chart, hc]
  have hpu : u.rf R.STEP_SWATCH_PROGRAM < c.nswatch := hprog ▸ hp
  have hput := fun target st => u.putSwatch_shows (u.rf R.STEP_SWATCH_PROGRAM) target st
  rw [hprog, hsame.step] at hput
  have hstopped := u.requestSwatch_stopped hcu hpu
  have hstep := u.requestSwatch_inStep hcu hpu
  rw [hprog, hsame.stopped] at hstopped
  rw [hprog, hsame.inStep] at hstep
  refine ⟨?_, fun hs => ?_, fun hi hearly => ?_, fun hi hlate => ?_⟩
  · exact u.requestSwatch_program.trans hprog
  · rw [hstopped hs]
    obtain ⟨-, hstat, hat, hpend, hreq⟩ := hput none stOK
    exact ⟨hstat, hat, hpend, hreq⟩
  · rw [hstep hi, hsame.targetStep hi, if_pos hearly]
    obtain ⟨-, hstat, hat, hpend, hreq⟩ := hput (some (s.rf R.STEP_NUMBER_VALUE)) stOK
    exact ⟨hstat, hpend, hat, hreq⟩
  · rw [hstep hi, hsame.targetStep hi, if_neg (Nat.not_lt.mpr hlate)]
    obtain ⟨-, hstat, hat, hpend, hreq⟩ := hput (some (s.rf R.STEP_NUMBER_VALUE + 1)) stDEFERRED
    exact ⟨hstat, hpend, hat, hreq⟩

/-! ## Stop requests -/

/-- In a step without an accepted stop, a stop request names the bind-off of R33, DEFERRED where that is not the step's own (R35). -/
theorem State.requestStop_inStep (s : State) (hi : s.inStep = true) (hnone : s.step.stopAt = none) :
    s.requestStop.rf R.STEP_CTRL_STOP_STATUS = (if s.targetStep.2 then stDEFERRED else stOK) ∧
    s.requestStop.rf R.STEP_CTRL_STOP_PENDING = 1 ∧ s.requestStop.step.stopAt = some s.targetStep.1 ∧
    s.requestStop.rf R.STEP_CTRL_STOP_AT_STEP = s.targetStep.1 % 2 ^ 32 := by
  unfold State.requestStop
  simp only [(s.not_stopped_of_inStep hi).1, State.set_step, hnone, Option.isSome_none, Bool.false_eq_true, if_false]
  refine ⟨?_, State.rf_set_same _ _ _, trivial, (State.rf_set_of_ne _ _ _ _ (by decide)).trans (State.rf_set_same _ _ _)⟩
  iterate 2 rw [State.rf_set_of_ne _ _ _ _ (by decide)]
  refine (State.rf_set_same _ _ _).trans ?_
  split <;> rfl

/-- In IDLE and HOLD a stop request is OK at once (R36). -/
theorem State.requestStop_stopped (s : State) (h : s.stopped = true) :
    s.requestStop.rf R.STEP_CTRL_STOP_STATUS = stOK ∧ s.requestStop.step = s.step := by
  unfold State.requestStop
  rw [if_pos h]
  exact ⟨State.rf_set_same _ _ _, rfl⟩

/-- A stop already accepted stands (R35). -/
theorem State.requestStop_accepted (s : State) (h : s.step.stopAt.isSome = true) : s.requestStop.step = s.step := by
  unfold State.requestStop
  split
  · rfl
  · simp only [State.set_step, h, if_true]

/-- A stop request of the host: OK at once in IDLE and HOLD, else its target before the commit deadline and from it on (R35, R36). -/
theorem stopRequest_targets (s : State) (v : BitVec 64) (hreach : s.reach .host = true) :
    Runs (.stopRequest .host v) s [.stepRegs, .faultRegs, .logRegs, .logRound, .step] (fun t =>
      (s.stopped = true → t.rf R.STEP_CTRL_STOP_STATUS = stOK ∧ t.step = s.step) ∧
      (s.inStep = true → s.step.stopAt = none → s.row < s.deadline → t.rf R.STEP_CTRL_STOP_STATUS = stOK ∧ t.rf R.STEP_CTRL_STOP_PENDING = 1 ∧
        t.step.stopAt = some (s.rf R.STEP_NUMBER_VALUE) ∧ t.rf R.STEP_CTRL_STOP_AT_STEP = s.rf R.STEP_NUMBER_VALUE % 2 ^ 32) ∧
      (s.inStep = true → s.step.stopAt = none → s.deadline ≤ s.row → t.rf R.STEP_CTRL_STOP_STATUS = stDEFERRED ∧
        t.rf R.STEP_CTRL_STOP_PENDING = 1 ∧ t.step.stopAt = some (s.rf R.STEP_NUMBER_VALUE + 1) ∧
        t.rf R.STEP_CTRL_STOP_AT_STEP = (s.rf R.STEP_NUMBER_VALUE + 1) % 2 ^ 32) ∧
      (s.inStep = true → s.step.stopAt.isSome = true → t.step = s.step)) := by
  have hexec : exec (.stopRequest .host v) s = .next (s.writeStepCtrl (Wr.full .host (v ||| 1).toNat)) :=
    congrArg Host.Outcome.next (if_pos hreach)
  have hsame := s.regWrite_sameTarget (v := (v ||| 1).toNat) findReg_stepCtrl (by decide) (by decide) (by decide)
  refine Runs.of hexec (execStopRequest_does _ _ _ _ hexec) (by decide) ?_
  unfold State.writeStepCtrl
  simp only [Wr.get_request v R.STEP_CTRL_STOP rfl rfl, if_true]
  generalize s.regWrite 0x80040 (Wr.full .host (v ||| 1).toNat) = u at hsame ⊢
  have hstopped := u.requestStop_stopped
  have hstep := u.requestStop_inStep
  have hstands := u.requestStop_accepted
  rw [hsame.stopped, hsame.step] at hstopped
  rw [hsame.inStep, hsame.step] at hstep
  rw [hsame.step] at hstands
  refine ⟨hstopped, fun hi hnone hearly => ?_, fun hi hnone hlate => ?_, fun _ => hstands⟩
  · have h := hstep hi hnone
    rw [hsame.targetStep hi, if_pos hearly] at h
    exact h
  · have h := hstep hi hnone
    rw [hsame.targetStep hi, if_neg (Nat.not_lt.mpr hlate)] at h
    exact h

end Sys2Proof.Machine
end

section
/-! SUPPORT. O12, R37: what a die's messages do when they are served leaves the phase; raising FLAG_OUT is all that they do to the step. -/

namespace Sys2Proof.Machine

/-- Every part but the registers of STEP. -/
def offStep : Nat := 70368744177647

/-- What leaves the registers of STEP leaves the phase. -/
theorem Does.phase_eq {s t : State} (h : Does offStep s t) : t.phase = s.phase := h.rf _ (by decide)

theorem State.raiseFlag_phase (s : State) (cause : Nat) : (s.raiseFlag cause).phase = s.phase :=
  (s.raiseFlag_only cause).rf R.STEP_STATUS_PHASE (by decide)

/-- A choice between two ways that both leave the phase. -/
theorem State.ite_phase {s a b : State} {c : Prop} [Decidable c] (ha : a.phase = s.phase) (hb : b.phase = s.phase) :
    (if c then a else b).phase = s.phase := by split <;> assumption

/-- A loop whose rounds leave the phase leaves it. -/
theorem State.foldl_phase {β : Type} (l : List β) (f : State → β → State) (h : ∀ v x, (f v x).phase = v.phase) (s : State) :
    (l.foldl f s).phase = s.phase := by
  induction l generalizing s with
  | nil => rfl
  | cons x l ih => exact (ih _).trans (h s x)

/-! ## Writes at an OA -/

theorem State.writeUnit_phase (s : State) (shadow : Bool) (u a : Nat) (l : List MByte) : (s.writeUnit shadow u a l).phase = s.phase := by
  have hfull : ((s.addSat R.FTL_ERR_COUNT 1).set R.FTL_ERR_NO_SPACE 1).phase = s.phase :=
    (State.rf_set_of_ne _ _ _ _ (by decide)).trans (State.rf_set_of_ne _ _ _ _ (by decide))
  unfold State.writeUnit
  refine State.ite_phase ?_ (State.ite_phase ?_ ?_)
  · exact (State.flashErr_does s _ _ _ _ (by decide) (Does.rfl' offStep s)).phase_eq
  · exact (State.growShadow_does s _ _ (by decide) (Does.rfl' offStep s)).phase_eq
  · split
    · exact State.ite_phase rfl (State.ite_phase ((State.raiseFlag_phase _ _).trans hfull) hfull)
    · exact State.ite_phase (State.writeShadow_does s _ _ _ _ (by decide) (Does.rfl' offStep s)).phase_eq
        (State.writeLive_does s _ _ _ _ (by decide) (Does.rfl' offStep s)).phase_eq

theorem State.writeFlash_phase (s : State) (shadow : Bool) (a : Nat) (l : List MByte) : (s.writeFlash shadow a l).phase = s.phase :=
  State.foldl_phase _ _ (fun v _ => v.writeUnit_phase _ _ _ _) s

theorem State.tierRefuse_phase (s : State) (why : Refused) (st oa : Nat) : (s.tierRefuse why st oa).phase = s.phase :=
  (State.tierRefuse_does s _ _ _ (by decide) (Does.rfl' offStep s)).phase_eq

/-- A page's part of a write leaves the phase. -/
theorem State.writeSpan_phase (w : Who) (own : Nat) (g : Got) (sp : Nat × Nat × Nat) : (State.writeSpan w own g sp).st.phase = g.st.phase := by
  have hnotOwner : ∀ oa : Nat,
      (((g.st.bump R.TIER_ERR_COUNT).set R.TIER_ERR_LAST_STATUS stNOT_OWNER).logEv stNOT_OWNER 0x30 0 0 oa).phase = g.st.phase := fun oa =>
    (State.logEv_does _ _ _ _ _ _ (by decide) (Does.set _ _ _ (by decide) (Does.bump _ _ (by decide) (Does.rfl' offStep g.st)))).phase_eq
  unfold State.writeSpan
  extract_lets s oa l rest
  split
  · exact hnotOwner oa
  split
  · exact s.tierRefuse_phase _ _ _
  split
  · exact s.tierRefuse_phase _ _ _
  · rename_i e _
    extract_lets da u v
    split
    · exact hnotOwner oa
    · have hu : u.phase = g.st.phase := (State.countPage_does _ _ _ (by decide) (Does.rfl' offStep g.st)).phase_eq
      have hv : v.phase = g.st.phase :=
        State.ite_phase ((State.setDirty_does u _ (by decide) (Does.rfl' offStep u)).phase_eq.trans hu) hu
      clear_value u v
      split
      · exact (v.tierRefuse_phase _ _ _).trans hv
      · split
        · exact (State.writeMem_does v _ _ (by decide) (Does.rfl' offStep v)).phase_eq.trans hv
        · exact (State.writeMem_does v _ _ (by decide) (Does.rfl' offStep v)).phase_eq.trans hv
        · exact (v.writeFlash_phase _ _ _).trans hv
        · exact (State.postBus_does v _ _ (by decide) (Does.rfl' offStep v)).phase_eq.trans hv

theorem State.writeOA_phase (s : State) (w : Who) (own oa : Nat) (l : List MByte) : (s.writeOA w own oa l).st.phase = s.phase := by
  have hfold : ∀ (spans : List (Nat × Nat × Nat)) (g : Got), (spans.foldl (State.writeSpan w own) g).st.phase = g.st.phase := by
    intro spans
    induction spans with
    | nil => exact fun _ => rfl
    | cons sp spans ih => exact fun g => (ih _).trans (State.writeSpan_phase w own g sp)
  exact hfold _ _

/-! ## Add-writes -/

theorem State.addOne_phase (s : State) (d : AccDesc) (h : HeldAdd) (i : Nat) : (s.addOne d h i).phase = s.phase := by
  unfold State.addOne
  extract_lets v e oa key g old w s₁ s₂ _
  have h₁ : s₁.phase = s.phase := (State.countWrote_does s _ _ _ (by decide) (Does.rfl' offStep s)).phase_eq
  have h₂ : s₂.phase = s.phase := State.ite_phase ((s₁.raiseFlag_phase _).trans h₁) h₁
  exact State.ite_phase h₂ ((s₂.writeOA_phase _ _ _ _).trans h₂)

theorem State.showFirst_phase (s : State) (a r : Nat) (d : AccDesc) : (s.showFirst a r d).phase = s.phase :=
  State.foldl_phase _ _ (fun v _ => v.writeOA_phase _ _ _ _) s

theorem State.addRefused_phase (s : State) (p oa : Nat) : (s.addRefused p oa).phase = s.phase :=
  (State.addRefused_does s _ _ (by decide) (Does.rfl' offStep s)).phase_eq

theorem State.applyAdd_phase (s : State) (h : HeldAdd) : (s.applyAdd h).phase = s.phase := by
  unfold State.applyAdd
  extract_lets d k s₁ cov _ s₂ n s₃ _ s₄
  have h₂ : s₂.phase = s.phase := State.foldl_phase _ _ (fun v i => v.addOne_phase d h i) s
  have h₃ : s₃.phase = s.phase := State.ite_phase ((s₂.showFirst_phase _ _ _).trans h₂) h₂
  have h₄ : s₄.phase = s.phase := h₃
  clear_value s₂ s₄
  exact State.ite_phase (s.addRefused_phase _ _) (State.ite_phase h₂ (State.ite_phase
    ((State.addSem_does s₄ _ _ (by decide) (Does.rfl' offStep s₄)).phase_eq.trans h₄) h₄))

theorem State.applyHeld_phase (s : State) (fuel : Nat) : (s.applyHeld fuel).phase = s.phase := by
  induction fuel generalizing s with
  | zero => rfl
  | succ fuel ih =>
    unfold State.applyHeld
    split
    · rfl
    · rename_i h _
      extract_lets past _ s₁ s₂
      have h₁ : s₁.phase = s.phase := (State.dropHeld_does _ h (by decide) (Does.rfl' offStep _)).phase_eq
      exact (ih s₂).trans (State.ite_phase ((s₁.addRefused_phase _ _).trans h₁) ((s₁.applyAdd_phase h).trans h₁))

theorem State.takeAdd_phase (s : State) (h : HeldAdd) (oa : Nat) : (s.takeAdd h oa).phase = s.phase := by
  unfold State.takeAdd
  extract_lets n s₁
  have h₁ : s₁.phase = s.phase := State.ite_phase (s.raiseFlag_phase _) rfl
  exact State.ite_phase ((s₁.addRefused_phase _ _).trans h₁)
    (State.ite_phase h₁ (((State.applyHeld_phase _ _).trans (s₁.applyAdd_phase h)).trans h₁))

/-! ## Messages of a die -/

theorem State.giveBack_phase (s : State) (p : Nat) (r : DieReq) (h d a : Nat) : (s.giveBack p r h d a).phase = s.phase :=
  (State.giveBack_does s _ _ _ _ _ (by decide) (Does.rfl' offStep s)).phase_eq

theorem State.serveWr_phase (s : State) (q : Nat) (r : DieReq) : (s.serveWr q r).phase = s.phase := by
  have hmark : ∀ v : State, (v.cdpMark q stBAD_ARG R.CDP_ERR_WRITE_REFUSED).phase = v.phase := fun v =>
    (State.cdpMark_does v _ _ _ (fun _ => ok_CDP_ERR_WRITE_REFUSED _ (by decide)) (by decide) (Does.rfl' offStep v)).phase_eq
  unfold State.serveWr
  extract_lets s₁
  have h₁ : s₁.phase = s.phase := s.giveBack_phase _ _ _ _ _
  refine State.ite_phase (Eq.trans ?_ h₁) ?_
  · exact (State.cdpErr_does s₁ _ _ _ _ (fun _ => ok_CDP_ERR_WRITE_REFUSED _ (by decide)) (by decide) (Does.rfl' offStep s₁)).phase_eq
  · split
    · exact ((hmark _).trans (s₁.tierRefuse_phase _ _ _)).trans h₁
    · exact (s₁.writeOA_phase _ _ _ _).trans h₁

theorem State.serveAddw_phase (s : State) (q : Nat) (r : DieReq) : (s.serveAddw q r).phase = s.phase := by
  unfold State.serveAddw
  extract_lets g w s₁ bad n
  have h₁ : s₁.phase = s.phase := s.giveBack_phase _ _ _ _ _
  have hbad : bad.phase = s.phase :=
    ((State.killRegion_does (s₁.addRefused q r.oa) _ (by decide) (Does.rfl' offStep _)).phase_eq.trans (s₁.addRefused_phase _ _)).trans h₁
  refine State.ite_phase h₁ (State.ite_phase ((bad.giveBack_phase _ _ _ _ _).trans hbad) ?_)
  split
  · exact (bad.giveBack_phase _ _ _ _ _).trans hbad
  · extract_lets d add held s₂
    have h₂ : s₂.phase = s.phase := (s₁.takeAdd_phase _ _).trans h₁
    exact State.ite_phase ((bad.giveBack_phase _ _ _ _ _).trans hbad) (State.ite_phase h₂ ((s₂.giveBack_phase _ _ _ _ _).trans h₂))

theorem State.serveReq_phase (s : State) (p : Nat) (r : DieReq) : (s.serveReq p r).phase = s.phase := by
  unfold State.serveReq
  refine State.ite_phase ?_ (State.ite_phase (s.serveWr_phase p r) (State.ite_phase (s.serveAddw_phase p r) (State.ite_phase ?_ ?_)))
  · exact (State.serveRd_does s _ _ (by decide) (Does.rfl' offStep s)).phase_eq
  · exact (State.giveBack_phase _ _ _ _ _ _).trans (State.partyArrives_does s _ _ (by decide) (Does.rfl' offStep s)).phase_eq
  · exact State.giveBack_phase _ _ _ _ _ _

theorem State.serveNext_phase (s : State) (p : Nat) : (s.serveNext p).phase = s.phase := by
  unfold State.serveNext
  split
  · rfl
  · exact State.ite_phase rfl (State.serveReq_phase _ _ _)

theorem State.farFault_phase (s : State) (n : Nat) : (s.farFault n).phase = s.phase := by
  unfold State.farFault State.note
  extract_lets s₁
  have h₁ : s₁.phase = s.phase :=
    (State.strStatus_does _ n _ (by decide) (State.hqErr_does s _ _ (by decide) (by decide) (Does.rfl' offStep s))).phase_eq
  exact State.ite_phase h₁ ((s₁.raiseFlag_phase _).trans h₁)

theorem State.serveFacks_phase (s : State) (p : Nat) : (s.serveFacks p).phase = s.phase := by
  refine State.foldl_phase _ _ (fun v f => ?_) _
  exact State.ite_phase rfl (State.farFault_phase _ _)

theorem State.serveDies_phase (s : State) : s.serveDies.phase = s.phase :=
  State.foldl_phase _ _ (fun v p => (State.serveFacks_phase _ p).trans (State.foldl_phase _ _ (fun u _ => u.serveNext_phase p) v)) s

end Sys2Proof.Machine
end

section
/-! SUPPORT. O12: the end of a swatch (R31, R32, R254, R417, R432). -/

namespace Sys2Proof.Machine

/-! ## Ports whose dies ask for nothing -/

/-- What waits in the ingress buffer of each port: messages of the die, and FACKs (R354). -/
def State.inbox (s : State) (p : Nat) : List DieReq × List (Nat × Nat × Nat) := ((s.port p).queue, (s.port p).facks)

theorem State.inbox_congr {s t : State} (h : t.ports = s.ports) : t.inbox = s.inbox := by
  unfold State.inbox State.port
  rw [h]

theorem State.diesQuiet_congr {s t : State} (h : t.inbox = s.inbox) (hq : s.diesQuiet) : t.diesQuiet := by
  intro p hp
  have hin : t.inbox p = ([], []) := by
    rw [h]
    exact Prod.ext (hq p hp).1 (hq p hp).2
  exact ⟨congrArg Prod.fst hin, congrArg Prod.snd hin⟩

/-- A port's record written with what waits there as before. -/
theorem State.setPort_inbox (s : State) (p : Nat) {x : PortSt} (hq : x.queue = (s.port p).queue) (hf : x.facks = (s.port p).facks) :
    (s.setPort p x).inbox = s.inbox := by
  funext k
  have hport : (s.setPort p x).port k = if k = p ∧ p < s.ports.length then x else s.port k := by
    unfold State.port State.setPort
    rw [List.getD_eq_getElem?_getD, List.getD_eq_getElem?_getD, List.getElem?_set]
    by_cases hk : p = k
    · subst hk
      by_cases hl : p < s.ports.length <;> simp [hl]
    · simp [hk, Ne.symm hk]
  unfold State.inbox
  rw [hport]
  split
  · rename_i h
    rw [hq, hf, h.1]
  · rfl

/-- Pace credits that return to a die leave what waits in the ports. -/
theorem State.returnPace_inbox (s : State) (p line k : Nat) : (s.returnPace p line k).inbox = s.inbox := by
  have hgather : (s.gatherPace p line k).inbox = s.inbox := by
    unfold State.gatherPace
    extract_lets x spent
    split
    · rfl
    · exact s.setPort_inbox p rfl rfl
  have hsend : ∀ v : State, (v.sendPcreds p).inbox = v.inbox := by
    intro v
    have hemit : ∀ (l : List (Nat × Nat)) (u : State),
        (l.foldl (fun (s : State) (e : Nat × Nat) => s.emit (.kpp p kPCRED e.1 e.2 [])) u).inbox = u.inbox := by
      intro l
      induction l with
      | nil => exact fun _ => rfl
      | cons e l ih => exact fun u => ih _
    unfold State.sendPcreds
    split
    · exact (hemit _ _).trans (v.setPort_inbox p rfl rfl)
    · rfl
  exact (hsend _).trans hgather

theorem State.returnLeftPace_inbox (s : State) (l : List Nat) : (s.returnLeftPace l).inbox = s.inbox := by
  refine State.forEach_keeps State.inbox l _ (fun v n => ?_) s
  dsimp only
  split
  · exact v.returnPace_inbox _ _ _
  · rfl

/-- A port in whose buffer nothing waits has nothing to serve: the ledger counts no item, and its record stands. -/
theorem State.serveDue_of_empty (s : State) (p : Nat) (hq : (s.port p).queue = []) (hf : (s.port p).facks = []) :
    Does 103079215104 s (s.serveDue p) ∧ (s.serveDue p).inbox = s.inbox := by
  have hserve : s.serveDue p = (s.give (poolBuf p) 0).setPort p { s.port p with facks := [] } := by
    unfold State.serveDue State.serveFacks
    rw [hq]
    show ((s.port p).facks.filter _).foldl _ _ = _
    simp only [hf, List.filter_nil, List.foldl_nil, List.length_nil, State.forEach, upTo, List.range_zero]
  rw [hserve]
  exact ⟨State.setPort_does _ _ _ (by decide) (State.give_does s _ _ (by decide) (Does.rfl' _ s)), State.setPort_inbox _ p rfl hf.symm⟩

/-- Where the dies ask for nothing, serving them changes ledgers and port records at most. -/
theorem State.serveDies_of_quiet (s : State) (h : s.diesQuiet) : Does 103079215104 s s.serveDies := by
  have hloop : ∀ (l : List Nat) (u : State), (∀ p ∈ l, p < 4) → u.diesQuiet → Does 103079215104 u (u.forEach l State.serveDue) := by
    intro l
    induction l with
    | nil => exact fun u _ _ => Does.rfl' _ u
    | cons p l ih =>
      intro u hl hu
      obtain ⟨hq, hf⟩ := hu p (hl p (List.mem_cons_self ..))
      obtain ⟨hdoes, hin⟩ := u.serveDue_of_empty p hq hf
      exact hdoes.trans (ih _ (fun k hk => hl k (List.mem_cons_of_mem _ hk)) (State.diesQuiet_congr hin hu))
  exact hloop (upTo 4) s (fun p hp => List.mem_range.mp hp) h

/-! ## What ends with a swatch -/

/-- A swatch's plan ended: its streams and clusters stopped at its end count. -/
def State.swatchHalted (s : State) : State := (s.advance s.step.swatchEnd).stopPlan.endClusters

/-- What a swatch that has ended gives back and leaves behind: pace credits, tension figures, the ledgers' snapshot. -/
def State.swatchSettled (s : State) : State := (s.returnLeftPace s.runSet).swatchTension.snapshot

/-- The boundary entered behind a swatch: the audit due, the next cast-on later by the slip, the stand-ins of record. -/
def State.afterSwatch (s : State) : State :=
  ({ s.set R.STEP_NEXT_CASTON_VALUE (s.rf R.STEP_NEXT_CASTON_VALUE + s.step.slip) with
      step := { s.step with swatchRun := none, auditDue := true, slip := 0 }
      fault := { s.fault with standIns := [] } }).set R.STEP_STATUS_PHASE phBOUNDARY

/-- SWATCH_END while no pause is under way: the swatch is closed, and what the dies wait for is served. -/
theorem exec_swatchEnd (s : State) (hp : s.phase = phSWATCH) (hrun : s.paused = false) :
    exec .swatchEnd s = .next s.swatchHalted.swatchSettled.afterSwatch.serveDies.showWakes :=
  congrArg Host.Outcome.next (if_neg (by simp [hp, hrun]))

theorem State.swatchHalted_does (s : State) : Does 18176301597216 (s.advance s.step.swatchEnd) s.swatchHalted :=
  State.endClusters_does _ (by decide) (State.stopPlan_does _ (by decide) (Does.rfl' _ _))

theorem State.swatchSettled_does (s : State) : Does 103217758208 s s.swatchSettled :=
  State.snapshot_does _ (by decide) (State.swatchTension_does _ (by decide) (State.returnLeftPace_does _ _ (by decide) (Does.rfl' _ _)))

theorem State.afterSwatch_does (s : State) : Does 19327352848 s s.afterSwatch :=
  Does.setPhase _ _ (by decide) (by decide) (Does.upd_step_fault _ _ _ rfl (by decide) (Does.set _ _ _ (by decide) (Does.rfl' _ s)))

/-- All that SWATCH_END does before it serves the dies, from its end count on. -/
theorem State.swatchEnded_does (s : State) : Does 18264486969904 (s.advance s.step.swatchEnd) s.swatchHalted.swatchSettled.afterSwatch :=
  ((s.swatchHalted_does.mono (by decide)).trans ((State.swatchSettled_does _).mono (by decide))).trans
    ((State.afterSwatch_does _).mono (by decide))

/-- What has been stopped and settled of a swatch, from its end count on. -/
theorem State.swatchHaltedSettled_does (s : State) : Does 18245159617056 (s.advance s.step.swatchEnd) s.swatchHalted.swatchSettled :=
  (s.swatchHalted_does.mono (by decide)).trans ((State.swatchSettled_does _).mono (by decide))

theorem State.advance_step (s : State) (t : Nat) : (s.advance t).step = s.step :=
  (State.advance_does (μ := 67633168) s t (by decide) (Does.rfl' _ s)).frame .step (by decide)

theorem State.swatchHaltedSettled_step (s : State) : s.swatchHalted.swatchSettled.step = s.step :=
  (s.swatchHaltedSettled_does.frame .step (by decide)).trans (s.advance_step _)

/-- Stopping and settling a swatch leaves the registers of STEP but PHASE. -/
theorem State.swatchHaltedSettled_rf (s : State) (f : Fld) (hb : f.blk = 4) (hf : f.key ≠ R.STEP_STATUS_PHASE.key) :
    s.swatchHalted.swatchSettled.rf f = s.rf f :=
  (s.swatchHaltedSettled_does.rf f (by rw [hb]; decide)).trans (s.advance_rf _ f hf)

theorem State.afterSwatch_phase (s : State) : s.afterSwatch.phase = phBOUNDARY := State.rf_set_same _ _ _

theorem State.afterSwatch_step (s : State) : s.afterSwatch.step = { s.step with swatchRun := none, auditDue := true, slip := 0 } := rfl

/-- The next cast-on is later by the slip of the swatch (R31), and the step number stands (R32). -/
theorem State.afterSwatch_counts (s : State) :
    s.afterSwatch.rf R.STEP_NEXT_CASTON_VALUE = (s.rf R.STEP_NEXT_CASTON_VALUE + s.step.slip) % 2 ^ 64 ∧
    s.afterSwatch.rf R.STEP_NUMBER_VALUE = s.rf R.STEP_NUMBER_VALUE :=
  ⟨(State.rf_set_of_ne _ _ _ _ (by decide)).trans (State.rf_set_same s _ _),
    (State.rf_set_of_ne _ _ _ _ (by decide)).trans (State.rf_set_of_ne s _ _ _ (by decide))⟩

/-- A swatch leaves no cluster entry and no tension behind (R131, R254). -/
theorem State.swatchEnded_empty (s : State) :
    s.swatchHalted.swatchSettled.afterSwatch.clu.left = [] ∧ s.swatchHalted.swatchSettled.afterSwatch.clu.running = [] ∧
    s.swatchHalted.swatchSettled.afterSwatch.tens = [] ∧ s.swatchHalted.swatchSettled.afterSwatch.tensPeak = [] := by
  have hclu : ∀ u : State, u.swatchSettled.afterSwatch.clu = u.clu := fun u =>
    ((State.afterSwatch_does _).frame .clusters (by decide)).trans (u.swatchSettled_does.frame .clusters (by decide))
  rw [hclu]
  exact ⟨rfl, rfl, rfl, rfl⟩

/-- Where the dies ask for nothing as a swatch ends, they ask for nothing once it is closed. -/
theorem State.swatchEnded_diesQuiet (s : State) (h : s.diesQuiet) : s.swatchHalted.swatchSettled.afterSwatch.diesQuiet := by
  have hhalt : s.swatchHalted.ports = s.ports :=
    (s.swatchHalted_does.frame .ports (by decide)).trans
      ((State.advance_does (μ := 67633168) s _ (by decide) (Does.rfl' _ s)).frame .ports (by decide))
  have hsettle : ∀ u : State, u.swatchSettled.inbox = u.inbox := by
    intro u
    have hcount : Does 34494087168 (u.returnLeftPace u.runSet) u.swatchSettled :=
      State.snapshot_does _ (by decide) (State.swatchTension_does _ (by decide) (Does.rfl' _ _))
    exact (State.inbox_congr (hcount.frame .ports (by decide))).trans (u.returnLeftPace_inbox _)
  have hafter : ∀ u : State, u.afterSwatch.inbox = u.inbox := fun u => State.inbox_congr (u.afterSwatch_does.frame .ports (by decide))
  refine State.diesQuiet_congr ?_ h
  rw [hafter, hsettle, State.inbox_congr hhalt]

/-- Row counter and step as SWATCH_END leaves them before it serves the dies. -/
theorem State.swatchEnded_shows (s : State) :
    s.swatchHalted.swatchSettled.afterSwatch.row = max s.row s.step.swatchEnd ∧
    s.swatchHalted.swatchSettled.afterSwatch.step = { s.step with swatchRun := none, auditDue := true, slip := 0 } := by
  refine ⟨(s.swatchEnded_does.frame .row (by decide)).trans (s.advance_row _), ?_⟩
  rw [State.afterSwatch_step, s.swatchHaltedSettled_step]

/-- SWATCH_END: the boundary again with the audit due, and what the dies still wait for served (R31, R32). -/
theorem swatchEnd_closes (s : State) (hp : s.phase = phSWATCH) (hrun : s.paused = false) :
    Runs .swatchEnd s [.stepRegs, .streamRegs, .hqRegs, .tierRegs, .ftlRegs, .cluRegs, .cdpRegs, .faultRegs, .logRegs, .tensionRegs, .row, .memory,
        .marks, .sent, .free, .flagOut, .idleRuns, .tension, .logRound, .step, .fault, .ledgers, .ports, .tier, .streams, .barriers, .host, .flash,
        .update, .clusters, .gauge]
      (fun t => t.row = max s.row s.step.swatchEnd ∧ t.phase = phBOUNDARY ∧
        t.step = { s.step with swatchRun := none, auditDue := true, slip := 0 } ∧ t.clu.left = [] ∧ t.clu.running = [] ∧ t.tens = [] ∧
        t.tensPeak = []) := by
  have hexec := exec_swatchEnd s hp hrun
  refine Runs.of hexec (execSwatchEnd_does _ _ hexec) (by decide) ?_
  obtain ⟨hrow, hstep⟩ := s.swatchEnded_shows
  obtain ⟨hleft, hrunning, htens, hpeak⟩ := s.swatchEnded_empty
  have hphase := s.swatchHalted.swatchSettled.afterSwatch_phase
  generalize s.swatchHalted.swatchSettled.afterSwatch = u at hrow hstep hleft hrunning htens hpeak hphase ⊢
  have hd : Does 52622508714992 u u.serveDies.showWakes :=
    State.showWakes_does _ (by decide) (State.serveDies_does _ (by decide) (Does.rfl' _ u))
  have hclu : u.serveDies.showWakes.clu = u.clu := hd.frame .clusters (by decide)
  obtain ⟨htens', hpeak'⟩ : u.serveDies.showWakes.tens = u.tens ∧ u.serveDies.showWakes.tensPeak = u.tensPeak := hd.frame .tension (by decide)
  have hphase' : u.serveDies.showWakes.phase = u.phase :=
    ((State.showWakes_does _ (by decide) (Does.rfl' offStep _)).phase_eq).trans u.serveDies_phase
  rw [hclu, htens', hpeak', hphase']
  exact ⟨(hd.frame .row (by decide)).trans hrow, hphase, (hd.frame .step (by decide)).trans hstep, hleft, hrunning, htens, hpeak⟩

/-- SWATCH_END where the dies ask for nothing: its own parts change alone, and the next cast-on is later by the slip (R31, R32). -/
theorem swatchEnd_closes_quiet (s : State) (hp : s.phase = phSWATCH) (hrun : s.paused = false) (hquiet : s.diesQuiet) :
    Runs .swatchEnd s [.stepRegs, .streamRegs, .cluRegs, .tensionRegs, .row, .sent, .idleRuns, .tension, .step, .fault, .ledgers, .ports,
        .streams, .clusters]
      (fun t => t.row = max s.row s.step.swatchEnd ∧ t.phase = phBOUNDARY ∧ t.step.swatchRun = none ∧ t.step.auditDue = true ∧
        t.step.slip = 0 ∧ t.rf R.STEP_NEXT_CASTON_VALUE = (s.rf R.STEP_NEXT_CASTON_VALUE + s.step.slip) % 2 ^ 64 ∧
        t.rf R.STEP_NUMBER_VALUE = s.rf R.STEP_NUMBER_VALUE ∧ t.clu.left = [] ∧ t.clu.running = [] ∧ t.tens = [] ∧ t.tensPeak = []) := by
  have hserve : Does 103079215616 s.swatchHalted.swatchSettled.afterSwatch s.swatchHalted.swatchSettled.afterSwatch.serveDies.showWakes :=
    State.showWakes_does _ (by decide) ((State.serveDies_of_quiet _ (s.swatchEnded_diesQuiet hquiet)).mono (by decide))
  have hdoes : Does 18264554603056 s s.swatchHalted.swatchSettled.afterSwatch.serveDies.showWakes :=
    ((State.advance_does s _ (by decide) (Does.rfl' _ s)).trans (s.swatchEnded_does.mono (by decide))).trans (hserve.mono (by decide))
  obtain ⟨hnext, hnumber⟩ := s.swatchHalted.swatchSettled.afterSwatch_counts
  rw [s.swatchHaltedSettled_rf _ rfl (by decide), s.swatchHaltedSettled_step] at hnext
  rw [s.swatchHaltedSettled_rf _ rfl (by decide)] at hnumber
  obtain ⟨t, hexec, _, hrow, hphase, hstep, hempty⟩ := swatchEnd_closes s hp hrun
  obtain rfl := Host.Outcome.next.inj ((exec_swatchEnd s hp hrun).symm.trans hexec)
  refine Runs.of hexec hdoes (by decide) ⟨hrow, hphase, ?_, ?_, ?_, (hserve.rf _ (by decide)).trans hnext,
    (hserve.rf _ (by decide)).trans hnumber, hempty⟩
  · rw [hstep]
  · rw [hstep]
  · rw [hstep]

end Sys2Proof.Machine
end

section
/-! SUPPORT. O12: the start of a plan, and of a swatch (R30, R31, R34). -/

namespace Sys2Proof.Machine

/-- What a plan begins with beside its streams: no barrier arrival, tension figure, slot or pause of the plan before it, all its cluster work
to come. The work of the host's and the neighbours' requests is due anew. -/
def State.planCleared (s : State) : State :=
  { s with
    bar := BarrierSt.reset, paceBad := [], tens := [], tensPeak := []
    step := { s.step with slip := 0, hostPer := schHost s.schedule }
    tier := { s.tier with used := [], peers := s.tier.peers.map (fun (r : PeerReq) => { r with due := none }) }
    host := { s.host with reqUsed := [], used := [], reqs := s.host.reqs.map (fun (r : PeerReq) => { r with due := none }) }
    fault := { s.fault with pauseWant := 0, pauseEnd := none, peerPause := false }
    clu := ⟨upTo (schNSEG s.schedule), [], [], [], [], []⟩ }

/-- The slots that a port's messages and the host streams' blocks have taken are free again. -/
def State.slotsCleared (s : State) : State :=
  let u := s.forEach (upTo 4) (fun s p => s.setPort p { s.port p with used := [] })
  u.forEach (u.usedCtx.filter (fun n => (u.str n).host)) (fun s n =>
    s.setStr n { s.str n with blocks := (s.str n).blocks.map (fun b => { b with due := 0 }) })

theorem State.startPlan_eq (s : State) (c : Chart) (set_ : List Nat) : s.startPlan c set_ =
    (((s.restoreSet c set_).planCleared.slotsCleared.clearBarrierTable.openLedgers set_.length).giveHeldPace set_).unitsReady := rfl

theorem State.slotsCleared_does (s : State) : Does 618475290624 s s.slotsCleared :=
  Does.forEach _ _ (Does.forEach _ _ (Does.rfl' _ s) (fun v _ h => State.setPort_does v _ _ (by decide) h))
    (fun v _ h => State.setStr_does v _ _ (by decide) h)

/-- What a start does before the plan is cleared: streams are restored. -/
theorem State.restoreSet_does' (s : State) (c : Chart) (set_ : List Nat) : Does 687194768932 s (s.restoreSet c set_) :=
  State.restoreSet_does s c set_ (by decide) (Does.rfl' _ s)

/-- What a start does once the plan is cleared. -/
theorem State.planOpened_does (s : State) (c : Chart) (set_ : List Nat) :
    Does 791086653988 (s.restoreSet c set_).planCleared (s.startPlan c set_) := by
  rw [State.startPlan_eq]
  exact State.unitsReady_does _ (by decide) (State.giveHeldPace_does _ _ (by decide) (State.openLedgers_does _ _ (by decide)
    (State.clearBarrierTable_does _ (by decide) ((State.slotsCleared_does _).mono (by decide)))))

/-- What a start leaves of the step, the host's requests and the barriers; row counter and registers of STEP stand. -/
theorem State.startPlan_shows (s : State) (c : Chart) (set_ : List Nat) :
    (s.startPlan c set_).row = s.row ∧ (s.startPlan c set_).bar = BarrierSt.reset ∧
    (s.startPlan c set_).step = { s.step with slip := 0, hostPer := schHost (s.restoreSet c set_).schedule } ∧
    (s.startPlan c set_).host = { s.host with reqUsed := [], used := [], reqs := s.host.reqs.map (fun r => { r with due := none }) } ∧
    ∀ f : Fld, f.blk = 4 → (s.startPlan c set_).rf f = s.rf f := by
  have hrestore := s.restoreSet_does' c set_
  have hopen := s.planOpened_does c set_
  have hstep : (s.restoreSet c set_).step = s.step := hrestore.frame .step (by decide)
  have hhost : (s.restoreSet c set_).host = s.host := hrestore.frame .host (by decide)
  refine ⟨?_, hopen.frame .barriers (by decide), ?_, ?_, fun f hf => ?_⟩
  · exact (hopen.frame .row (by decide)).trans (hrestore.frame .row (by decide))
  · rw [← hstep]
    exact hopen.frame .step (by decide)
  · rw [← hhost]
    exact hopen.frame .host (by decide)
  · exact (hopen.rf f (by rw [hf]; decide)).trans (hrestore.rf f (by rw [hf]; decide))

/-- A swatch entered: its phase, its program, and the counts at which it starts and ends (R31). -/
def State.swatchEntered (s : State) (p start length : Nat) : State :=
  ({ (s.advance start).set R.STEP_STATUS_PHASE phSWATCH with step := { (s.advance start).step with
      swatchRun := some p, swatchNext := none, swatchStart := start, swatchEnd := start + length, launched := false } }).showPending

/-- What entering a swatch shows; the counts of the step stand (R32). -/
theorem State.swatchEntered_shows (s : State) (p start length : Nat) :
    (s.swatchEntered p start length).row = max s.row start ∧ (s.swatchEntered p start length).phase = phSWATCH ∧
    (s.swatchEntered p start length).step = { s.step with
      swatchRun := some p, swatchNext := none, swatchStart := start, swatchEnd := start + length, launched := false } ∧
    (s.swatchEntered p start length).host = s.host ∧
    (s.swatchEntered p start length).rf R.STEP_NUMBER_VALUE = s.rf R.STEP_NUMBER_VALUE ∧
    (s.swatchEntered p start length).rf R.STEP_OPT_COUNT_COUNT = s.rf R.STEP_OPT_COUNT_COUNT := by
  have hadvance : Does 67633168 s (s.advance start) := State.advance_does s start (by decide) (Does.rfl' _ s)
  have hstep : (s.advance start).step = s.step := hadvance.frame .step (by decide)
  have hrf : ∀ f : Fld, f.key ≠ R.STEP_STATUS_PHASE.key → f.key ≠ R.STEP_SWATCH_PENDING.key → (s.swatchEntered p start length).rf f = s.rf f :=
    fun f hphase hpend => (State.rf_set_of_ne _ _ _ _ hpend).trans
      ((State.rf_set_of_ne (s.advance start) R.STEP_STATUS_PHASE f phSWATCH hphase).trans (s.advance_rf _ f hphase))
  refine ⟨s.advance_row start, ?_, ?_, hadvance.frame .host (by decide), hrf _ (by decide) (by decide), hrf _ (by decide) (by decide)⟩
  · exact (State.rf_set_of_ne _ _ _ _ (by decide)).trans (State.rf_set_same (s.advance start) R.STEP_STATUS_PHASE phSWATCH)
  · rw [← hstep]
    rfl

/-- A swatch entered with its plan begun: what it shows, and that no count of the step moves (R31, R32). -/
theorem State.swatchBegun_shows (s : State) (c : Chart) (p start length : Nat) (set_ : List Nat) {t : State}
    (ht : ((s.swatchEntered p start length).startPlan c set_).showWakes = t) :
    t.host = { s.host with reqUsed := [], used := [], reqs := s.host.reqs.map (fun r => { r with due := none }) } ∧
    t.row = max s.row start ∧ t.phase = phSWATCH ∧ t.step.swatchRun = some p ∧ t.step.swatchNext = none ∧ t.step.swatchStart = start ∧
    t.step.swatchEnd = start + length ∧ t.step.slip = 0 ∧ t.rf R.STEP_NUMBER_VALUE = s.rf R.STEP_NUMBER_VALUE ∧
    t.rf R.STEP_OPT_COUNT_COUNT = s.rf R.STEP_OPT_COUNT_COUNT ∧ t.bar = BarrierSt.reset := by
  obtain ⟨hrow, hphase, hstep, hhost, hnumber, hopt⟩ := s.swatchEntered_shows p start length
  obtain ⟨hrow', hbar', hstep', hhost', hregs'⟩ := (s.swatchEntered p start length).startPlan_shows c set_
  rw [hstep] at hstep'
  rw [hhost] at hhost'
  subst ht
  generalize (s.swatchEntered p start length).startPlan c set_ = u at hrow' hbar' hstep' hhost' hregs' ⊢
  have hwakes : Does 512 u u.showWakes := State.showWakes_does u (by decide) (Does.rfl' _ u)
  have hstepRegs : ∀ f : Fld, f.blk = 4 → u.showWakes.rf f = (s.swatchEntered p start length).rf f :=
    fun f hf => (hwakes.rf f (by rw [hf]; decide)).trans (hregs' f hf)
  rw [show u.showWakes.step = u.step from hwakes.frame .step (by decide), hstep']
  exact ⟨(hwakes.frame .host (by decide)).trans hhost', ((hwakes.frame .row (by decide)).trans hrow').trans hrow,
    (hstepRegs _ rfl).trans hphase, rfl, rfl, rfl, rfl, rfl, (hstepRegs _ rfl).trans hnumber, (hstepRegs _ rfl).trans hopt,
    (hwakes.frame .barriers (by decide)).trans hbar'⟩

/-- The count at which a swatch starts: S + I before the next cast-on, I that of the variant that the boundary belongs to (R31, R34). -/
def State.swatchStartAt (s : State) (c : Chart) (p : Nat) : Nat :=
  s.rf R.STEP_NEXT_CASTON_VALUE - (c.swatchS p + c.vI (if s.phase = phARMED then s.rf R.STEP_STATUS_NEXT_VARIANT else s.variant))

/-- SWATCH_START: S + I before the next cast-on the swatch runs, with a plan of its own and no slip; no count of the step moves (R31, R32). -/
theorem swatchStart_starts (s : State) (c : Chart) (p : Nat) (hc : s.chart.active = some c) (hnext : s.step.swatchNext = some p)
    (hrun : s.rf R.PWR_STATE_STATE = 3) (haudit : s.step.auditDue = false) (hdecide : s.step.decideDue = false)
    (hcut : s.step.emergency = false) (hphase : (s.phase = phARMED ∧ s.step.launched = true) ∨ s.phase = phBOUNDARY) :
    Runs .swatchStart s [.pwrRegs, .stepRegs, .streamRegs, .cluRegs, .skeinRegs, .faultRegs, .logRegs, .row, .memory, .marks, .sent, .idleRuns,
        .tension, .paceBad, .logRound, .step, .fault, .ledgers, .ports, .power, .tier, .streams, .barriers, .host, .clusters]
      (fun t =>
        t.host = { s.host with reqUsed := [], used := [], reqs := s.host.reqs.map (fun r => { r with due := none }) } ∧
        let i := c.vI (if s.phase = phARMED then s.rf R.STEP_STATUS_NEXT_VARIANT else s.variant)
        let at_ := s.rf R.STEP_NEXT_CASTON_VALUE - (c.swatchS p + i)
        t.row = max s.row at_ ∧ t.phase = phSWATCH ∧ t.step.swatchRun = some p ∧ t.step.swatchNext = none ∧ t.step.swatchStart = at_ ∧
        t.step.swatchEnd = at_ + c.swatchS p ∧ t.step.slip = 0 ∧ t.rf R.STEP_NUMBER_VALUE = s.rf R.STEP_NUMBER_VALUE ∧
        t.rf R.STEP_OPT_COUNT_COUNT = s.rf R.STEP_OPT_COUNT_COUNT ∧ t.bar = BarrierSt.reset) := by
  have hexec : exec .swatchStart s =
      .next (((s.swatchEntered p (s.swatchStartAt c p) (c.swatchS p)).startPlan c (c.swatchSet p)).showWakes) := by
    show execSwatchStart s = _
    unfold execSwatchStart
    rw [hc, hnext]
    dsimp only
    rw [if_neg (by simp only [hrun, haudit, hdecide, hcut, hphase, ne_eq, not_true_eq_false, Bool.false_eq_true, or_self, not_false_eq_true])]
    rfl
  exact Runs.of hexec (execSwatchStart_does _ _ hexec) (by decide) (s.swatchBegun_shows c p _ _ _ rfl)

/-- Settles O12: the start of a swatch, its end, and the requests of the host, each by its own lemma. -/
theorem swatchesAndRequests : Obligations.SwatchesAndRequests :=
  ⟨⟨swatchStart_starts, swatchEnd_closes, swatchEnd_closes_quiet⟩, swatchRequest_targets, stopRequest_targets⟩

end Sys2Proof.Machine
end

section
/-! SUPPORT. O10: the bind-off of a step (R24, R26, R27, R54, R329 to R331, R463). -/

namespace Sys2Proof.Machine

/-! ## The verdict -/

/-- The governor writes STEP_SKIP, STEP_SCALE and STEP_HISTORY only (R331). -/
theorem State.govern_rf (s : State) (n : Nat) (g : Fld) (hlo : g.lo < 64) (hoff : g.off < 0x80108 ∨ 0x80118 ≤ g.off ∧ g.off < 0x80200) :
    (s.govern n).rf g = s.rf g := by
  have hset : ∀ (u : State) (f : Fld) (v : Nat), f.lo < 64 → f.off = 0x80108 ∨ f.off = 0x80110 ∨ 0x80200 ≤ f.off → (u.set f v).rf g = u.rf g :=
    fun u f v hf ho => u.rf_set_of_ne f g v (Fld.key_ne_of_off hlo hf (by omega))
  have hhistory : ∀ (u : State) (k v e : Nat), ((u.set (R.STEP_HISTORY_STEP k) v).set (R.STEP_HISTORY_EXP k) e).rf g = u.rf g :=
    fun u k v e => (hset _ _ _ (show 0 < 64 by decide) (.inr (.inr (Nat.le_add_right _ _)))).trans
      (hset _ _ _ (show 32 < 64 by decide) (.inr (.inr (Nat.le_add_right _ _))))
  unfold State.govern
  extract_lets e k u growth _ _ _
  split
  · have hu : u.rf g = s.rf g := hhistory s k n e
    split
    · exact ((hset _ R.STEP_SCALE_LAST_GROWTH _ (by decide) (.inr (.inl rfl))).trans
        (hset u R.STEP_SCALE_EXP _ (by decide) (.inr (.inl rfl)))).trans hu
    · exact hu
  · exact ((hset _ R.STEP_SKIP_LAST _ (by decide) (.inl rfl)).trans (hset _ R.STEP_SKIP_COUNT _ (by decide) (.inl rfl))).trans
      (hset s R.STEP_SCALE_EXP _ (by decide) (.inr (.inl rfl)))

theorem State.govern_tier (s : State) (n : Nat) : (s.govern n).tier = s.tier :=
  (State.govern_does (μ := 2147483664) s n (by decide) (Does.rfl' _ s)).frame .tier (by decide)

/-- What the verdict makes of the shadows (R27, R329): the select bits of the dirty pages flip where the step is finite, and no page stays dirty. -/
theorem State.applyVerdict_tier (s : State) (n : Nat) :
    (s.applyVerdict n).tier.dirty = [] ∧
    (s.applyVerdict n).tier.sel = (if s.step.finite then s.tier.dirty.foldl flipSel s.tier.sel else s.tier.sel) := by
  unfold State.applyVerdict
  extract_lets b u v w
  split
  · have hw : w.tier = s.commitShadows.tier := by
      have hv : v.tier = s.commitShadows.tier := s.commitShadows.govern_tier n
      simp only [w]
      split
      · exact hv
      · exact hv
    show w.tier.dirty = [] ∧ w.tier.sel = _
    rw [hw]
    exact ⟨rfl, rfl⟩
  · show (s.dropShadows.govern n).tier.dirty = [] ∧ (s.dropShadows.govern n).tier.sel = _
    rw [State.govern_tier]
    exact ⟨rfl, rfl⟩

/-- What the verdict shows (R27, R330): the step's status, and one optimizer step more where it is finite. -/
theorem State.applyVerdict_shows (s : State) (n : Nat) :
    (s.applyVerdict n).rf R.STEP_STATUS_LAST_STATUS = (if s.step.finite then stOK else stNONFINITE) ∧
    (s.applyVerdict n).rf R.STEP_OPT_COUNT_COUNT =
      (if s.step.finite then (s.rf R.STEP_OPT_COUNT_COUNT + 1) % 2 ^ 64 else s.rf R.STEP_OPT_COUNT_COUNT) ∧
    (s.applyVerdict n).rf R.STEP_STATUS_VARIANT = s.rf R.STEP_STATUS_VARIANT := by
  have hopt : ∀ u : State, (u.govern n).rf R.STEP_OPT_COUNT_COUNT = u.rf R.STEP_OPT_COUNT_COUNT := fun u =>
    u.govern_rf n _ (by decide) (by decide)
  have hvariant : ∀ u : State, (u.govern n).rf R.STEP_STATUS_VARIANT = u.rf R.STEP_STATUS_VARIANT := fun u =>
    u.govern_rf n _ (by decide) (by decide)
  unfold State.applyVerdict
  extract_lets b u v w
  split
  · have hw : ∀ g : Fld, g.key ≠ R.FTL_COMMIT_COMMITTED_STEP.key → w.rf g = v.rf g := by
      intro g hg
      simp only [w]
      split
      · exact State.rf_set_of_ne _ _ _ _ hg
      · rfl
    have hrebase : ∀ (x : State) (g : Fld), (x.commitRebase b).rf g = x.rf g := fun _ _ => rfl
    rw [hrebase, hrebase, hrebase]
    refine ⟨State.rf_set_same _ _ _, (State.rf_set_of_ne w _ _ _ (by decide)).trans ?_, (State.rf_set_of_ne w _ _ _ (by decide)).trans ?_⟩
    · rw [hw _ (by decide)]
      exact (State.rf_set_same _ _ _).trans (by rw [hopt]; rfl)
    · rw [hw _ (by decide)]
      exact (State.rf_set_of_ne _ _ _ _ (by decide)).trans (hvariant _)
  · exact ⟨State.rf_set_same _ _ _, (State.rf_set_of_ne _ _ _ _ (by decide)).trans (hopt _),
      (State.rf_set_of_ne _ _ _ _ (by decide)).trans (hvariant _)⟩

/-! ## What ends with the step -/

/-- The verdict applied, FLAG_OUT released, the stash freed (R24, R26, R27). -/
def State.boundCommitted (s : State) (n : Nat) : State := (s.applyVerdict n).releaseFlag.freeStash

/-- Accumulators and pace credits returned, the ledgers' snapshot taken, the drain test made, and the leader changed (R24, R82, R391, R432). -/
def State.boundSettled (s : State) (n : Nat) (set_ : List Nat) : State :=
  ((s.wipeAccs.returnLeftPace set_).snapshot.drainTest n).applyLeader

/-- The boundary entered behind step n: its number risen, and audit, decisions and figures due (R28, R29). -/
def State.boundaryEntered (s : State) (n : Nat) : State :=
  let u := (s.set R.STEP_NUMBER_VALUE (n + 1)).set R.STEP_STATUS_PHASE phBOUNDARY
  { u with
    step := { u.step with lastStep := n, auditDue := true, decideDue := true, figDue := true, ledgerBad := false, installed := false }
    tier := { u.tier with passDue := true }
    sync := { u.sync with boundSince := true, cleanBound := u.sync.cleanBound || decide (2 ^ 20 ≤ u.cleanTicks) }
    idleFig := u.idleStep, idleStep := [] }

/-- A step bound off at its count, up to the agreement rounds. -/
def State.bound (s : State) : State :=
  ((s.boundCommitted (s.rf R.STEP_NUMBER_VALUE)).boundSettled (s.rf R.STEP_NUMBER_VALUE) s.runSet).boundaryEntered (s.rf R.STEP_NUMBER_VALUE)

/-- BIND_OFF of a step in SETTLE that no cut has held. -/
theorem exec_bindOff (s : State) (c : Chart) (hcut : s.pwr.critHold = none) (hc : s.chart.active = some c) (hp : s.phase = phSETTLE) :
    exec .bindOff s = .next (((s.advance (s.rf R.STEP_BINDOFF_VALUE)).bound.raiseBoundary c).beginRounds
      ((s.advance (s.rf R.STEP_BINDOFF_VALUE)).wish c) true) := by
  show execBindOff s = _
  unfold execBindOff
  rw [hcut, hc]
  dsimp only
  rw [if_neg (by simp [hp])]
  rfl

/-- What the verdict, the released flag and the freed stash leave: neither row counter nor chart nor SYNC changes. -/
theorem State.boundCommitted_does (s : State) (n : Nat) : Does 13475476668688 s (s.boundCommitted n) :=
  State.freeStash_does _ (by decide) (State.releaseFlag_does _ (by decide) (State.applyVerdict_does s n (by decide) (Does.rfl' _ s)))

theorem State.boundSettled_does (s : State) (n : Nat) (set_ : List Nat) : Does 8908843515912 s (s.boundSettled n set_) :=
  State.applyLeader_does _ (by decide) (State.drainTest_does _ n (by decide) (State.snapshot_does _ (by decide)
    (State.returnLeftPace_does _ _ (by decide) (State.wipeAccs_does s (by decide) (Does.rfl' _ s)))))

/-- The drain test moves or ends commits; the active chart stands (R82). -/
theorem State.drainTest_active (s : State) (n : Nat) : (s.drainTest n).chart.active = s.chart.active := by
  unfold State.drainTest
  split
  · rfl
  · split <;> rfl

/-- A leader that takes effect leaves the number of devices (R391). -/
theorem State.applyLeader_devices (s : State) : s.applyLeader.devices = s.devices := by
  unfold State.applyLeader
  split
  · rfl
  · extract_lets _ u v
    have hv : v.devices = s.devices := (State.rf_set_of_ne _ _ _ _ (by decide)).trans (State.rf_set_of_ne _ _ _ _ (by decide))
    split
    · exact hv
    · exact (State.rf_set_of_ne v _ _ _ (by decide)).trans hv

/-- What the agreement rests on stands while a step's leftovers are settled: the active chart and the number of devices. -/
theorem State.boundSettled_agrees (s : State) (n : Nat) (set_ : List Nat) :
    (s.boundSettled n set_).chart.active = s.chart.active ∧ (s.boundSettled n set_).devices = s.devices := by
  have hwipe : Does 8899179577344 s (s.wipeAccs.returnLeftPace set_).snapshot :=
    State.snapshot_does _ (by decide) (State.returnLeftPace_does _ _ (by decide) (State.wipeAccs_does s (by decide) (Does.rfl' _ s)))
  generalize hu : (s.wipeAccs.returnLeftPace set_).snapshot = u at hwipe
  have hsettled : s.boundSettled n set_ = (u.drainTest n).applyLeader := by rw [← hu]; rfl
  have hdrain : Does 1073741832 u (u.drainTest n) := State.drainTest_does u n (by decide) (Does.rfl' _ u)
  have hleader : Does 8590196736 (u.drainTest n) (u.drainTest n).applyLeader := State.applyLeader_does _ (by decide) (Does.rfl' _ _)
  rw [hsettled, State.applyLeader_devices, hleader.frame .chart (by decide), u.drainTest_active]
  exact ⟨by rw [hwipe.frame .chart (by decide)], (hdrain.rf _ (by decide)).trans (hwipe.rf _ (by decide))⟩

/-- What has been committed and settled of a step leaves the row counter, and shows its verdict (R24, R26, R27). -/
theorem State.boundSettled_shows (s : State) (n : Nat) (set_ : List Nat) :
    ((s.boundCommitted n).boundSettled n set_).row = s.row ∧
    (∀ f : Fld, f.blk = 4 → f.key ≠ R.STEP_FLAG_RAISED.key → ((s.boundCommitted n).boundSettled n set_).rf f = (s.applyVerdict n).rf f) ∧
    ((s.boundCommitted n).boundSettled n set_).rf R.STEP_FLAG_RAISED = 0 ∧
    ((s.boundCommitted n).boundSettled n set_).tier = (s.applyVerdict n).tier ∧
    (∀ i ∈ ((s.boundCommitted n).boundSettled n set_).stash.insts, i.freed = true) := by
  have hsettle := (s.boundCommitted n).boundSettled_does n set_
  have hcommit := s.boundCommitted_does n
  refine ⟨(hsettle.frame .row (by decide)).trans (hcommit.frame .row (by decide)), fun f hb hf => ?_,
    (hsettle.rf _ (by decide)).trans (State.rf_set_same (s.applyVerdict n) R.STEP_FLAG_RAISED 0), hsettle.frame .tier (by decide), ?_⟩
  · exact (hsettle.rf f (by rw [hb]; decide)).trans (State.rf_set_of_ne (s.applyVerdict n) _ f 0 hf)
  · rw [hsettle.frame .stash (by decide)]
    intro i hi
    obtain ⟨_, -, rfl⟩ := List.mem_map.mp hi
    rfl

theorem State.boundaryEntered_does (s : State) (n : Nat) : Does 285682434064 s (s.boundaryEntered n) :=
  Does.upd_idleStep_idleFig_step_sync_tier _ _ _ _ _ _ rfl (by decide)
    (Does.setPhase _ _ (by decide) (by decide) (Does.set s _ _ (by decide) (Does.rfl' _ s)))

theorem State.bound_does (s : State) : Does 13588294271256 s s.bound :=
  (((s.boundCommitted_does _).mono (by decide)).trans ((State.boundSettled_does _ _ _).mono (by decide))).trans
    ((State.boundaryEntered_does _ _).mono (by decide))

/-- Entering the boundary writes the step's number and the phase. -/
theorem State.boundaryEntered_rf (s : State) (n : Nat) (f : Fld) (hn : f.key ≠ R.STEP_NUMBER_VALUE.key) (hp : f.key ≠ R.STEP_STATUS_PHASE.key) :
    (s.boundaryEntered n).rf f = s.rf f :=
  (State.rf_set_of_ne (s.set R.STEP_NUMBER_VALUE (n + 1)) R.STEP_STATUS_PHASE f phBOUNDARY hp).trans
    (State.rf_set_of_ne s R.STEP_NUMBER_VALUE f _ hn)

theorem State.boundaryEntered_number (s : State) (n : Nat) : (s.boundaryEntered n).rf R.STEP_NUMBER_VALUE = (n + 1) % 2 ^ 64 :=
  (State.rf_set_of_ne (s.set R.STEP_NUMBER_VALUE (n + 1)) R.STEP_STATUS_PHASE _ phBOUNDARY (by decide)).trans
    (State.rf_set_same s R.STEP_NUMBER_VALUE _)

theorem State.boundaryEntered_phase (s : State) (n : Nat) : (s.boundaryEntered n).phase = phBOUNDARY :=
  State.rf_set_same (s.set R.STEP_NUMBER_VALUE (n + 1)) R.STEP_STATUS_PHASE phBOUNDARY

/-- What the boundary shows of the step bound off (R24, R26, R27, R28). -/
theorem State.bound_shows (s : State) :
    s.bound.row = s.row ∧ s.bound.rf R.STEP_NUMBER_VALUE = (s.rf R.STEP_NUMBER_VALUE + 1) % 2 ^ 64 ∧
    s.bound.phase = phBOUNDARY ∧ s.bound.step.lastStep = s.rf R.STEP_NUMBER_VALUE ∧ s.bound.step.auditDue = true ∧
    s.bound.step.decideDue = true ∧ s.bound.step.figDue = true ∧ s.bound.rf R.STEP_FLAG_RAISED = 0 ∧ s.bound.tier.dirty = [] ∧
    (∀ i ∈ s.bound.stash.insts, i.freed = true) ∧
    s.bound.rf R.STEP_STATUS_LAST_STATUS = (if s.step.finite then stOK else stNONFINITE) ∧
    s.bound.rf R.STEP_OPT_COUNT_COUNT = (if s.step.finite then (s.rf R.STEP_OPT_COUNT_COUNT + 1) % 2 ^ 64 else s.rf R.STEP_OPT_COUNT_COUNT) ∧
    s.bound.tier.sel = (if s.step.finite then s.tier.dirty.foldl flipSel s.tier.sel else s.tier.sel) := by
  obtain ⟨hrow, hregs, hraised, htier, hfreed⟩ := s.boundSettled_shows (s.rf R.STEP_NUMBER_VALUE) s.runSet
  obtain ⟨hdirty, hsel⟩ := s.applyVerdict_tier (s.rf R.STEP_NUMBER_VALUE)
  obtain ⟨hstatus, hopt, -⟩ := s.applyVerdict_shows (s.rf R.STEP_NUMBER_VALUE)
  unfold State.bound
  generalize (s.boundCommitted (s.rf R.STEP_NUMBER_VALUE)).boundSettled (s.rf R.STEP_NUMBER_VALUE) s.runSet = v at hrow hregs hraised htier hfreed ⊢
  refine ⟨hrow, v.boundaryEntered_number _, v.boundaryEntered_phase _, rfl, rfl, rfl, rfl, ?_, ?_, hfreed, ?_, ?_, ?_⟩
  · exact (v.boundaryEntered_rf _ _ (by decide) (by decide)).trans hraised
  · exact (congrArg TierSt.dirty htier).trans hdirty
  · exact ((v.boundaryEntered_rf _ _ (by decide) (by decide)).trans (hregs _ rfl (by decide))).trans hstatus
  · exact ((v.boundaryEntered_rf _ _ (by decide) (by decide)).trans (hregs _ rfl (by decide))).trans hopt
  · exact (congrArg TierSt.sel htier).trans hsel

/-! ## Agreement -/

/-- Two states agree alike: the same active chart and variant, and the same number of devices (R54). -/
structure State.SameAgreement (s t : State) : Prop where
  active  : t.chart.active = s.chart.active
  devices : t.devices = s.devices
  variant : t.variant = s.variant

theorem State.SameAgreement.trans {s t u : State} (h : s.SameAgreement t) (k : t.SameAgreement u) : s.SameAgreement u :=
  ⟨k.active.trans h.active, k.devices.trans h.devices, k.variant.trans h.variant⟩

theorem State.SameAgreement.agreeRounds {s t : State} (h : s.SameAgreement t) : t.agreeRounds = s.agreeRounds := by
  unfold State.agreeRounds
  rw [h.active, h.devices]

theorem State.SameAgreement.layout {s t : State} (h : s.SameAgreement t) (f : Chart → Nat → Nat) : t.layout f = s.layout f := by
  unfold State.layout
  rw [h.active, h.variant]

theorem State.advance_sameAgreement (s : State) (t : Nat) : s.SameAgreement (s.advance t) := by
  have hd : Does 67633168 s (s.advance t) := State.advance_does s t (by decide) (Does.rfl' _ s)
  exact ⟨by rw [hd.frame .chart (by decide)], hd.rf _ (by decide), s.advance_rf t _ (by decide)⟩

theorem State.raiseBoundary_sameAgreement (s : State) (c : Chart) : s.SameAgreement (s.raiseBoundary c) := by
  have hd : Does 4194368 s (s.raiseBoundary c) := State.raiseBoundary_does s c (by decide) (Does.rfl' _ s)
  exact ⟨by rw [hd.frame .chart (by decide)], hd.rf _ (by decide), hd.rf _ (by decide)⟩

/-- Binding a step off leaves what its agreement rests on. -/
theorem State.bound_sameAgreement (s : State) : s.SameAgreement s.bound := by
  have hcommit := s.boundCommitted_does (s.rf R.STEP_NUMBER_VALUE)
  have hvariant : ((s.boundCommitted (s.rf R.STEP_NUMBER_VALUE)).boundSettled (s.rf R.STEP_NUMBER_VALUE) s.runSet).rf
      R.STEP_STATUS_VARIANT = s.rf R.STEP_STATUS_VARIANT :=
    ((s.boundSettled_shows _ _).2.1 _ rfl (by decide)).trans (s.applyVerdict_shows _).2.2
  obtain ⟨hactive, hdevices⟩ := (s.boundCommitted (s.rf R.STEP_NUMBER_VALUE)).boundSettled_agrees (s.rf R.STEP_NUMBER_VALUE) s.runSet
  refine ⟨hactive.trans (by rw [hcommit.frame .chart (by decide)]), ?_, (State.boundaryEntered_rf _ _ _ (by decide) (by decide)).trans hvariant⟩
  exact ((State.boundaryEntered_rf _ _ _ (by decide) (by decide)).trans hdevices).trans (hcommit.rf _ (by decide))

/-- Agreement begun (R54): in round 0 the device contends with its wish, which without rounds is the agreed variant already. -/
theorem State.beginRounds_shows (s : State) (wish : Nat) : ∃ a : Agreement, (s.beginRounds wish true).step.agreement = some a ∧
    a.round = 0 ∧ a.contend = true ∧ a.rounds = s.agreeRounds ∧ a.settle = s.layout Chart.vG ∧
    (s.agreeRounds = 0 → a.agreed = a.wish ∧ (s.beginRounds wish true).flagOut = false) ∧
    (0 < s.agreeRounds → a.agreed = 0 ∧ (s.beginRounds wish true).flagOut = a.wish.testBit (s.agreeRounds - 1)) := by
  refine ⟨_, rfl, rfl, rfl, rfl, rfl, fun h => ⟨if_pos h, ?_⟩, fun h => ⟨if_neg (Nat.pos_iff_ne_zero.mp h), ?_⟩⟩
  · show (decide (0 < s.agreeRounds) && true && _) = false
    rw [h]
    rfl
  · show (decide (0 < s.agreeRounds) && true && wish.testBit (s.agreeRounds - 1 - 0)) = _
    rw [decide_eq_true h]
    rfl

/-! ## BIND_OFF -/

/-- BIND_OFF in SETTLE: the verdict commits or discards the step, and the boundary begins with its agreement (R24, R26, R27, R54). -/
theorem bindOff_binds (s : State) (c : Chart) (hcut : s.pwr.critHold = none) (hc : s.chart.active = some c) (hp : s.phase = phSETTLE) :
    Runs .bindOff s [.chartRegs, .stepRegs, .hqRegs, .ftlRegs, .syncRegs, .row, .memory, .marks, .sent, .flagOut, .idleRuns, .chart, .step,
        .stash, .sync, .ledgers, .ports, .power, .tier, .flash, .update]
      (fun t =>
        let n := s.rf R.STEP_NUMBER_VALUE
        t.row = max s.row (s.rf R.STEP_BINDOFF_VALUE) ∧ t.rf R.STEP_NUMBER_VALUE = (n + 1) % 2 ^ 64 ∧ t.phase = phBOUNDARY ∧
        t.step.lastStep = n ∧ t.step.auditDue = true ∧ t.step.decideDue = true ∧ t.step.figDue = true ∧
        t.rf R.STEP_FLAG_RAISED = 0 ∧ t.tier.dirty = [] ∧ (∀ i ∈ t.stash.insts, i.freed = true) ∧
        t.rf R.STEP_STATUS_LAST_STATUS = (if s.step.finite then stOK else stNONFINITE) ∧
        t.rf R.STEP_OPT_COUNT_COUNT = (if s.step.finite then (s.rf R.STEP_OPT_COUNT_COUNT + 1) % 2 ^ 64 else s.rf R.STEP_OPT_COUNT_COUNT) ∧
        t.tier.sel = (if s.step.finite then s.tier.dirty.foldl flipSel s.tier.sel else s.tier.sel) ∧
        ∃ a : Agreement, t.step.agreement = some a ∧ a.round = 0 ∧ a.contend = true ∧ a.rounds = s.agreeRounds ∧ a.settle = s.layout Chart.vG ∧
          (s.agreeRounds = 0 → a.agreed = a.wish ∧ t.flagOut = false) ∧
          (0 < s.agreeRounds → a.agreed = 0 ∧ t.flagOut = a.wish.testBit (s.agreeRounds - 1))) := by
  have hexec := exec_bindOff s c hcut hc hp
  have hdoes : Does 13588294795608 s (((s.advance (s.rf R.STEP_BINDOFF_VALUE)).bound.raiseBoundary c).beginRounds
      ((s.advance (s.rf R.STEP_BINDOFF_VALUE)).wish c) true) :=
    State.beginRounds_does _ _ _ (by decide) (State.raiseBoundary_does _ c (by decide) ((State.advance_does s _ (by decide) (Does.rfl' _ s)).trans
      ((State.bound_does _).mono (by decide))))
  refine Runs.of hexec hdoes (by decide) ?_
  have hadvance : Does 67633168 s (s.advance (s.rf R.STEP_BINDOFF_VALUE)) := State.advance_does s _ (by decide) (Does.rfl' _ s)
  have hrow := s.advance_row (s.rf R.STEP_BINDOFF_VALUE)
  have hrf := s.advance_rf (s.rf R.STEP_BINDOFF_VALUE)
  have hsame := s.advance_sameAgreement (s.rf R.STEP_BINDOFF_VALUE)
  generalize s.advance (s.rf R.STEP_BINDOFF_VALUE) = u at hadvance hrow hrf hsame ⊢
  have hstep : u.step = s.step := hadvance.frame .step (by decide)
  have htier : u.tier = s.tier := hadvance.frame .tier (by decide)
  have hshows := u.bound_shows
  rw [hrow, hstep, htier, hrf R.STEP_NUMBER_VALUE (by decide), hrf R.STEP_OPT_COUNT_COUNT (by decide)] at hshows
  have hagree := (hsame.trans u.bound_sameAgreement).trans (u.bound.raiseBoundary_sameAgreement c)
  have hrounds := (u.bound.raiseBoundary c).beginRounds_shows (u.wish c)
  rw [hagree.agreeRounds, hagree.layout] at hrounds
  have hraise : Does 4194368 u.bound (u.bound.raiseBoundary c) := State.raiseBoundary_does _ c (by decide) (Does.rfl' _ _)
  generalize u.bound.raiseBoundary c = v at hraise hrounds ⊢
  obtain ⟨hrow', hnumber, hphase, hlast, haudit, hdecide, hfig, hraised, hdirty, hfreed, hstatus, hopt, hsel⟩ := hshows
  have hstepB : v.step = u.bound.step := hraise.frame .step (by decide)
  have htierB : v.tier = u.bound.tier := hraise.frame .tier (by decide)
  have hstashB : v.stash = u.bound.stash := hraise.frame .stash (by decide)
  rw [← hstepB] at hlast haudit hdecide hfig
  rw [← htierB] at hdirty hsel
  rw [← hstashB] at hfreed
  exact ⟨(hraise.frame .row (by decide)).trans hrow', (hraise.rf _ (by decide)).trans hnumber, (hraise.rf _ (by decide)).trans hphase,
    hlast, haudit, hdecide, hfig, (hraise.rf _ (by decide)).trans hraised, hdirty, hfreed, (hraise.rf _ (by decide)).trans hstatus,
    (hraise.rf _ (by decide)).trans hopt, hsel, hrounds⟩

/-- A device that does not contend drives nothing in the rounds (R54). -/
theorem State.beginRounds_idle (s : State) (wish : Nat) : (s.beginRounds wish false).flagOut = false := by
  show (decide (0 < s.agreeRounds) && false && _) = false
  rw [Bool.and_false, Bool.false_and]

/-- A bind-off that a cut has held releases FLAG_OUT and makes the stand-ins of the step of record (R4, R463, R464). -/
theorem bindOff_held (s : State) (b : Nat) (hcut : s.pwr.critHold = some b) :
    Runs .bindOff s [.stepRegs, .row, .flagOut, .idleRuns, .step, .fault, .power] (fun t =>
      t.fault = { s.fault with standIns := [] } ∧ t.row = max s.row b ∧ t.flagOut = false ∧ t.rf R.STEP_FLAG_RAISED = 0 ∧ t.pwr.critHold = none ∧
      OnlyWrites [R.STEP_STATUS_PHASE, R.STEP_FLAG_RAISED] s t) := by
  have hexec : exec .bindOff s = .next (s.heldBindOff b) := by
    show execBindOff s = _
    unfold execBindOff
    rw [hcut]
  refine Runs.of hexec (State.heldBindOff_does s b (by decide) (Does.rfl' 156850716688 s)) (by decide) ?_
  have hfault : (s.advance b).fault = s.fault := s.advance_fault b
  have hrow : (s.advance b).row = max s.row b := s.advance_row b
  have honly : OnlyWrites [R.STEP_STATUS_PHASE, R.STEP_FLAG_RAISED] s ((s.advance b).set R.STEP_FLAG_RAISED 0) := (s.advance_only b).set _ _
  have hraised : ((s.advance b).set R.STEP_FLAG_RAISED 0).rf R.STEP_FLAG_RAISED = 0 := State.rf_set_same _ _ _
  unfold State.heldBindOff
  generalize s.advance b = u at hfault hrow honly hraised ⊢
  rw [← hfault, ← hrow]
  extract_lets _ _ _ v
  have hv : v.flagOut = false := rfl
  split
  · exact ⟨rfl, rfl, v.beginRounds_idle 0, hraised, rfl, honly.of_regs rfl⟩
  · exact ⟨rfl, rfl, hv, hraised, rfl, honly.of_regs rfl⟩

/-- Settles O10: the bind-off of a step in SETTLE, and that of a step that a cut has held. -/
theorem bindOff : Obligations.BindOff := ⟨bindOff_binds, bindOff_held⟩

end Sys2Proof.Machine
end

section
/-! SUPPORT. O11: agreement rounds, and the audit of the ledgers (R29, R32, R54, R432). -/

namespace Sys2Proof.Machine

/-- What each round of a loop leaves, the loop leaves. -/
theorem State.foldl_keeps {α β : Type} (g : State → α) (l : List β) (f : State → β → State) (h : ∀ v x, g (f v x) = g v) (s : State) :
    g (l.foldl f s) = g s := by
  induction l generalizing s with
  | nil => rfl
  | cons x l ih => exact (ih _).trans (h s x)

/-! ## Agreement rounds -/

/-- The agreement behind a round that has sampled a level (R54). -/
def Agreement.next (a : Agreement) (flagIn : Bool) : Agreement :=
  { a with round := a.round + 1, contend := a.contend && (a.level || !flagIn), agreed := 2 * a.agreed + (if flagIn then 1 else 0) }

/-- A device contends on unless it drove 0 and sampled 1 (R54). -/
theorem Agreement.next_contend (a : Agreement) (flagIn : Bool) (h : a.round < a.rounds) :
    (a.next flagIn).contend = (a.contend && (a.wish.testBit (a.rounds - 1 - a.round) || !flagIn)) := by
  show (a.contend && ((decide (a.round < a.rounds) && a.contend && a.wish.testBit (a.rounds - 1 - a.round)) || !flagIn)) = _
  rw [decide_eq_true h]
  cases a.contend <;> rfl

/-- A round of the agreement at its count, with the level that FLAG_IN then has (R54). -/
def State.sampled (s : State) (a : Agreement) (flagIn : Bool) : State :=
  let u := s.advance (s.rf R.STEP_BINDOFF_VALUE + (a.round + 1) * a.settle)
  { u with flagIn := flagIn, flagOut := (a.next flagIn).level, step := { u.step with agreement := some (a.next flagIn) } }

/-- AGREEMENT_ROUND while rounds are left. -/
theorem exec_agreementRound (b : Bool) (s : State) (a : Agreement) (ha : s.step.agreement = some a) (hround : a.round < a.rounds) :
    exec (.agreementRound b) s = .next (s.sampled a b) := by
  show execAgreementRound b s = _
  unfold execAgreementRound
  rw [ha]
  exact congrArg Host.Outcome.next (if_neg (Nat.not_le.mpr hround))

/-- An agreement round: FLAG_IN is the next bit of the agreed variant, and the device drives the next bit of its wish while it contends (R54). -/
theorem agreementRound_samples (b : Bool) (s : State) (a : Agreement) (ha : s.step.agreement = some a) (hround : a.round < a.rounds) :
    Runs (.agreementRound b) s [.stepRegs, .row, .flagOut, .flagIn, .idleRuns, .step] (fun t =>
      let stays := a.contend && (a.wish.testBit (a.rounds - 1 - a.round) || !b)
      t.row = max s.row (s.rf R.STEP_BINDOFF_VALUE + (a.round + 1) * a.settle) ∧ t.flagIn = b ∧
      t.step = { s.step with agreement := some ⟨a.round + 1, stays, 2 * a.agreed + (if b then 1 else 0), a.wish, a.rounds, a.settle⟩ } ∧
      t.flagOut = (decide (a.round + 1 < a.rounds) && stays && a.wish.testBit (a.rounds - 1 - (a.round + 1))) ∧
      OnlyWrites [R.STEP_STATUS_PHASE] s t) := by
  have hexec := exec_agreementRound b s a ha hround
  refine Runs.of hexec (execAgreementRound_does _ _ _ hexec) (by decide) ?_
  dsimp only
  rw [← a.next_contend b hround, ← s.advance_step (s.rf R.STEP_BINDOFF_VALUE + (a.round + 1) * a.settle)]
  exact ⟨s.advance_row _, rfl, rfl, rfl, (s.advance_only _).of_regs rfl⟩

/-! ## The audit of one ledger -/

/-- Whether a pool of a ledger does not hold in the snapshot (R432). -/
def State.ledgerOff (s : State) (k : Nat) : Bool := s.led.snap.any (fun p => p.ledger == k && p.diff != 0)

/-- Auditing a ledger finds it off when a pool of it does not hold, and changes nothing else of the step (R29, R432). -/
theorem State.auditLedger_step (s : State) (k : Nat) :
    (s.auditLedger k).step = { s.step with ledgerBad := s.step.ledgerBad || s.ledgerOff k } := by
  have hlog : ∀ (v : State) (p : Pool), (v.logEv stLEDGER_MISMATCH 0x60 0 (k * 65536 + p.pool) (unsigned 64 p.diff)).step = v.step := fun v p =>
    (State.logEv_does (μ := 536895488) v _ _ _ _ _ (by decide) (Does.rfl' _ v)).frame .step (by decide)
  unfold State.auditLedger
  extract_lets pools off u v w
  have hw : w.step = s.step := State.foldl_keeps State.step off _ hlog v
  have hoff : s.ledgerOff k = !off.isEmpty := by
    rw [State.ledgerOff, Bool.eq_iff_iff]
    simp [off, pools, List.filter_eq_nil_iff, and_comm]
  rw [hoff]
  split
  · rename_i hempty
    rw [hempty, Bool.not_true, Bool.or_false]
    exact hw
  · rename_i hsome
    rw [Bool.eq_false_of_not_eq_true hsome, Bool.not_false, Bool.or_true]
    exact congrArg (fun x : StepSt => { x with ledgerBad := true }) hw

/-- Auditing a ledger leaves LEDGER_STATUS.SWATCH: it writes its figures, MISMATCH and the log (R433, R435). -/
theorem State.auditLedger_swatch (s : State) (k : Nat) : (s.auditLedger k).rf R.LEDGER_STATUS_SWATCH = s.rf R.LEDGER_STATUS_SWATCH := by
  have hlog : ∀ (v : State) (p : Pool), (v.logEv stLEDGER_MISMATCH 0x60 0 (k * 65536 + p.pool) (unsigned 64 p.diff)).rf
      R.LEDGER_STATUS_SWATCH = v.rf R.LEDGER_STATUS_SWATCH := fun v p => v.logEv_rf _ _ _ _ _ _ (by decide)
  have hlast : R.LEDGER_STATUS_SWATCH.off ≠ 0x600100 + 0x8 * (k % 4) := by
    show 0x600140 ≠ _
    omega
  unfold State.auditLedger
  extract_lets pools off u v w
  have hw : w.rf R.LEDGER_STATUS_SWATCH = s.rf R.LEDGER_STATUS_SWATCH :=
    ((State.foldl_keeps (State.rf · R.LEDGER_STATUS_SWATCH) off _ hlog v).trans
      (u.rf_set_of_ne _ _ _ (Fld.key_ne_of_off (by decide) (show 0 < 64 by decide) hlast))).trans
      (s.rf_set_of_ne _ _ _ (Fld.key_ne_of_off (by decide) (show 32 < 64 by decide) hlast))
  split
  · exact hw
  · exact (w.rf_set_of_ne R.LEDGER_STATUS_MISMATCH _ _ (by decide)).trans hw

theorem State.auditLedger_ledgerOff (s : State) (k : Nat) : (s.auditLedger k).ledgerOff = s.ledgerOff := by
  have hled : (s.auditLedger k).led = s.led :=
    (State.auditLedger_does (μ := 2684379136) s k (by decide) (Does.rfl' _ s)).frame .ledgers (by decide)
  unfold State.ledgerOff
  rw [hled]

/-- Auditing several ledgers finds an imbalance when one of them is off. -/
theorem State.auditLedgers_step (l : List Nat) (s : State) :
    (s.forEach l State.auditLedger).step = { s.step with ledgerBad := s.step.ledgerBad || l.any s.ledgerOff } := by
  induction l generalizing s with
  | nil => rw [List.any_nil, Bool.or_false]; rfl
  | cons k l ih =>
    refine (ih _).trans ?_
    rw [s.auditLedger_ledgerOff, s.auditLedger_step, List.any_cons, Bool.or_assoc]

/-- One of the four ledgers is off exactly when a pool of theirs does not hold. -/
theorem State.any_ledgerOff (s : State) :
    (upTo 4).any s.ledgerOff = s.led.snap.any (fun p => decide (p.ledger < 4) && p.diff != 0) := by
  rw [Bool.eq_iff_iff]
  simp only [State.ledgerOff, List.any_eq_true, upTo, List.mem_range, Bool.and_eq_true, beq_iff_eq, decide_eq_true_eq]
  exact ⟨fun ⟨_, hk, p, hp, he, hd⟩ => ⟨p, hp, he ▸ hk, hd⟩, fun ⟨p, hp, hk, hd⟩ => ⟨_, hk, p, hp, rfl, hd⟩⟩

/-! ## HOLD -/

/-- Falling to a phase shows it (R29). -/
theorem State.toStopped_phase (s : State) (ph : Nat) : (s.toStopped ph).phase = ph % 16 := by
  unfold State.toStopped
  extract_lets u v
  have hu : u.phase = ph % 16 := by
    have hset : ((s.set R.STEP_STATUS_PHASE ph).set R.STEP_NEXT_CASTON_VALUE 0).phase = ph % 16 :=
      (State.rf_set_of_ne _ _ _ _ (by decide)).trans (s.rf_set_same _ _)
    simp only [u]
    unfold State.holdSwatch
    split
    · exact hset
    · exact (State.rf_set_of_ne _ _ _ _ (by decide)).trans hset
  have hv : v.phase = u.phase := State.ite_phase (State.setPower_does u 2 4 (by decide) (by decide) (by decide) (Does.rfl' offStep u)).phase_eq rfl
  have hrest : Does offStep v ((v.set R.PWR_CLOCK_SWITCH_AT 0).clearWakes).avs :=
    State.avs_does _ (by decide) (State.clearWakes_does _ (by decide) (Does.set _ _ _ (by decide) (Does.rfl' _ v)))
  exact (hrest.phase_eq.trans hv).trans hu

/-- HOLD shows its cause (R29). -/
theorem State.enterHold_shows (s : State) (cause : Nat) :
    (s.enterHold cause).phase = phHOLD ∧ (s.enterHold cause).rf R.STEP_STATUS_HOLD_CAUSE = cause % 16 :=
  ⟨(State.rf_set_of_ne _ _ _ _ (by decide)).trans (State.toStopped_phase _ _), State.rf_set_same _ _ _⟩

/-- The step but for what its figures clear once they are written (R28). -/
def StepSt.unfigured (x : StepSt) : StepSt := { x with figDue := false, clearGauge := false, clearTension := false, clearIdle := false }

/-- The step but for its figures, the requests that wait, and what an install leaves: what the decisions of the boundary rest on (R29). -/
def StepSt.ruling (x : StepSt) : StepSt := { x.unfigured with swatches := [], swatchNext := none, installed := false, lrs := [] }

/-- A device that stops keeps what the decisions rest on: requests alone change (R29, R334). -/
theorem State.enterHold_ruling (s : State) (cause : Nat) : (s.enterHold cause).step.ruling = s.step.ruling := by
  have hheld : ∀ u : State, u.holdSwatch.step.ruling = u.step.ruling := by
    intro u
    unfold State.holdSwatch
    split <;> rfl
  have hstopped : ∀ (u : State) (ph : Nat), (u.toStopped ph).step.ruling = u.step.ruling := by
    intro u ph
    unfold State.toStopped
    extract_lets v w
    have hw : w.step = v.step := by
      simp only [w]
      split <;> rfl
    have hrest : Does 4194820 w ((w.set R.PWR_CLOCK_SWITCH_AT 0).clearWakes).avs :=
      State.avs_does _ (by decide) (State.clearWakes_does _ (by decide) (Does.set _ _ _ (by decide) (Does.rfl' _ w)))
    rw [show (((w.set R.PWR_CLOCK_SWITCH_AT 0).clearWakes).avs).step = w.step from hrest.frame .step (by decide), hw]
    exact hheld _
  exact (hstopped _ _).trans rfl

/-- A cause of HOLD is logged, and the log alone is written (R29, R433). -/
theorem State.logHold_rf (s : State) (cause : Nat) (f : Fld) (h : f.notLog = true) : (s.logHold cause).rf f = s.rf f := by
  unfold State.logHold
  split <;> exact State.logEv_rf _ _ _ _ _ _ _ h

/-! ## LEDGER_AUDIT -/

/-- LEDGER_STATUS as an audit begins: no mismatch, and whether it follows a swatch (R29, R32, R435). -/
def State.auditCleared (s : State) (swatch : Bool) : State :=
  (s.set R.LEDGER_STATUS_MISMATCH 0).set R.LEDGER_STATUS_SWATCH (if swatch then 1 else 0)

/-- An audit of a step's ledgers, with none compared yet (R29, R435). -/
def State.auditOf (s : State) (step : Nat) : State :=
  let u := s.set R.LEDGER_STATUS_AT_STEP step
  { u with step := { u.step with auditDue := false, ledgerBad := false } }

/-- The count of the snapshot that an audit compares: the end of the swatch before it, or the bind-off (R432). -/
def State.snapshotAt (s : State) : Nat := if !s.step.decideDue then s.step.swatchEnd else s.rf R.STEP_BINDOFF_VALUE

/-- The audit begun, 1,024 ticks behind its snapshot (R432). -/
def State.auditBegun (s : State) : State :=
  let u := (s.advance (s.snapshotAt + 1024)).auditCleared (!s.step.decideDue)
  u.auditOf (u.rf R.STEP_NUMBER_VALUE + 2 ^ 64 - 1)

/-- The verdict of an audit written where it shows (R435). -/
def State.auditShown (s : State) : State :=
  let u := s.set R.LEDGER_STATUS_LAST_STATUS (if s.step.ledgerBad then stLEDGER_MISMATCH else stOK)
  if s.step.ledgerBad then u.set R.FAULT_STATUS_LAST_STATUS stLEDGER_MISMATCH else u

/-- LEDGER_AUDIT while an audit is due. -/
theorem exec_ledgerAudit (s : State) (hdue : s.step.auditDue = true) :
    exec .ledgerAudit s = .next (if !s.step.decideDue && (s.auditBegun.forEach (upTo 4) State.auditLedger).step.ledgerBad
      then ((s.auditBegun.forEach (upTo 4) State.auditLedger).auditShown.enterHold 3).logHold 3
      else (s.auditBegun.forEach (upTo 4) State.auditLedger).auditShown) :=
  congrArg Host.Outcome.next (if_neg (by simp [hdue]))

theorem State.auditCleared_swatch (s : State) (swatch : Bool) :
    (s.auditCleared swatch).rf R.LEDGER_STATUS_SWATCH = (if swatch then 1 else 0) := by
  refine (State.rf_set_same _ _ _).trans ?_
  cases swatch <;> rfl

theorem State.auditOf_does (s : State) (step : Nat) : Does 2147491840 s (s.auditOf step) :=
  Does.upd_step _ _ rfl (by decide) (Does.set _ _ _ (by decide) (Does.rfl' _ s))

theorem State.auditOf_shows (s : State) (step : Nat) :
    (s.auditOf step).step = { s.step with auditDue := false, ledgerBad := false } ∧ (s.auditOf step).led = s.led ∧
    (s.auditOf step).row = s.row ∧ (s.auditOf step).rf R.LEDGER_STATUS_SWATCH = s.rf R.LEDGER_STATUS_SWATCH :=
  ⟨rfl, (s.auditOf_does step).frame .ledgers (by decide), (s.auditOf_does step).frame .row (by decide),
    s.rf_set_of_ne R.LEDGER_STATUS_AT_STEP _ step (by decide)⟩

theorem State.auditBegun_shows (s : State) :
    s.auditBegun.step = { s.step with auditDue := false, ledgerBad := false } ∧ s.auditBegun.led = s.led ∧
    s.auditBegun.row = max s.row ((if s.step.decideDue then s.rf R.STEP_BINDOFF_VALUE else s.step.swatchEnd) + 1024) ∧
    s.auditBegun.rf R.LEDGER_STATUS_SWATCH = (if s.step.decideDue then 0 else 1) := by
  have hat : s.snapshotAt = if s.step.decideDue then s.rf R.STEP_BINDOFF_VALUE else s.step.swatchEnd := by
    unfold State.snapshotAt
    cases s.step.decideDue <;> rfl
  have hclear : Does 67641360 s ((s.advance (s.snapshotAt + 1024)).auditCleared (!s.step.decideDue)) :=
    Does.set _ _ _ (by decide) (Does.set _ _ _ (by decide) (State.advance_does s _ (by decide) (Does.rfl' _ s)))
  have hrow : ((s.advance (s.snapshotAt + 1024)).auditCleared (!s.step.decideDue)).row = max s.row (s.snapshotAt + 1024) :=
    ((State.set_row _ _ _).trans (State.set_row _ _ _)).trans (s.advance_row _)
  have hswatch := (s.advance (s.snapshotAt + 1024)).auditCleared_swatch (!s.step.decideDue)
  obtain ⟨hstep, hled, hrow', hswatch'⟩ := ((s.advance (s.snapshotAt + 1024)).auditCleared (!s.step.decideDue)).auditOf_shows
    (((s.advance (s.snapshotAt + 1024)).auditCleared (!s.step.decideDue)).rf R.STEP_NUMBER_VALUE + 2 ^ 64 - 1)
  rw [show ((s.advance (s.snapshotAt + 1024)).auditCleared (!s.step.decideDue)).step = s.step from hclear.frame .step (by decide)] at hstep
  rw [← hat]
  refine ⟨hstep, hled.trans (hclear.frame .ledgers (by decide)), hrow'.trans hrow, (hswatch'.trans hswatch).trans ?_⟩
  cases s.step.decideDue <;> rfl

theorem State.auditShown_step (s : State) : s.auditShown.step = s.step := by
  unfold State.auditShown
  dsimp only
  split <;> rfl

theorem State.auditShown_rf (s : State) :
    s.auditShown.rf R.LEDGER_STATUS_LAST_STATUS = (if s.step.ledgerBad then stLEDGER_MISMATCH else stOK) ∧
    s.auditShown.rf R.LEDGER_STATUS_SWATCH = s.rf R.LEDGER_STATUS_SWATCH ∧ s.auditShown.row = s.row := by
  unfold State.auditShown
  extract_lets u
  have hstatus : u.rf R.LEDGER_STATUS_LAST_STATUS = (if s.step.ledgerBad then stLEDGER_MISMATCH else stOK) := by
    refine (s.rf_set_same _ _).trans ?_
    cases s.step.ledgerBad <;> rfl
  have hswatch : u.rf R.LEDGER_STATUS_SWATCH = s.rf R.LEDGER_STATUS_SWATCH := s.rf_set_of_ne _ _ _ (by decide)
  generalize (if s.step.ledgerBad then stLEDGER_MISMATCH else stOK) = status at hstatus ⊢
  split
  · exact ⟨(u.rf_set_of_ne _ _ _ (by decide)).trans hstatus, (u.rf_set_of_ne _ _ _ (by decide)).trans hswatch, rfl⟩
  · exact ⟨hstatus, hswatch, rfl⟩

/-- What an audit has found once the four ledgers are compared (R29, R432, R435). -/
theorem State.audited_shows (s : State) {u : State} (hu : (s.auditBegun.forEach (upTo 4) State.auditLedger).auditShown = u) :
    let bad := s.led.snap.any (fun p => decide (p.ledger < 4) && p.diff != 0)
    u.row = max s.row ((if s.step.decideDue then s.rf R.STEP_BINDOFF_VALUE else s.step.swatchEnd) + 1024) ∧
    u.step = { s.step with auditDue := false, ledgerBad := bad } ∧
    u.rf R.LEDGER_STATUS_LAST_STATUS = (if bad then stLEDGER_MISMATCH else stOK) ∧
    u.rf R.LEDGER_STATUS_SWATCH = (if s.step.decideDue then 0 else 1) := by
  obtain ⟨hstep, hled, hrow, hswatch⟩ := s.auditBegun_shows
  have hstep' := State.auditLedgers_step (upTo 4) s.auditBegun
  rw [State.any_ledgerOff, hled, hstep] at hstep'
  have hswatch' := State.forEach_keeps (State.rf · R.LEDGER_STATUS_SWATCH) (upTo 4) _ (fun v k => v.auditLedger_swatch k) s.auditBegun
  have hrow' := State.forEach_keeps State.row (upTo 4) State.auditLedger (fun v k =>
    (State.auditLedger_does (μ := 2684379136) v k (by decide) (Does.rfl' _ v)).frame .row (by decide)) s.auditBegun
  generalize s.auditBegun.forEach (upTo 4) State.auditLedger = v at hu hstep' hswatch' hrow'
  subst hu
  obtain ⟨hstatus, hsw, hr⟩ := v.auditShown_rf
  rw [hstep'] at hstatus
  exact ⟨(hr.trans hrow').trans hrow, v.auditShown_step.trans hstep', hstatus, (hsw.trans hswatch').trans hswatch⟩

/-- An audit behind a swatch that found an imbalance puts the device into HOLD (R29, R32); it changes nothing else of what the audit shows. -/
theorem State.auditHeld_shows (u : State) :
    ((u.enterHold 3).logHold 3).phase = phHOLD ∧ ((u.enterHold 3).logHold 3).rf R.STEP_STATUS_HOLD_CAUSE = 3 ∧
    ((u.enterHold 3).logHold 3).step.ruling = u.step.ruling ∧ ((u.enterHold 3).logHold 3).row = u.row ∧
    ∀ f : Fld, f.blk = 13 → f.notLog = true → ((u.enterHold 3).logHold 3).rf f = u.rf f := by
  obtain ⟨hphase, hcause⟩ := u.enterHold_shows 3
  have hlog : Does 536895488 (u.enterHold 3) ((u.enterHold 3).logHold 3) := State.logHold_does _ _ (by decide) (Does.rfl' _ _)
  have hhold : Does 2151678484 u (u.enterHold 3) := State.enterHold_does u 3 (by decide) (Does.rfl' _ u)
  refine ⟨(hlog.rf _ (by decide)).trans hphase, (hlog.rf _ (by decide)).trans hcause, ?_, (hlog.frame .row (by decide)).trans
    (hhold.frame .row (by decide)), fun f hb hf => ((u.enterHold 3).logHold_rf 3 f hf).trans (hhold.rf f (by rw [hb]; decide))⟩
  rw [show ((u.enterHold 3).logHold 3).step = (u.enterHold 3).step from hlog.frame .step (by decide), u.enterHold_ruling]

/-- LEDGER_AUDIT: every pool of the snapshot compared, and HOLD behind a swatch in which one does not hold (R29, R32, R432). -/
theorem ledgerAudit_compares (s : State) (hdue : s.step.auditDue = true) :
    Runs .ledgerAudit s [.pwrRegs, .stepRegs, .cluRegs, .faultRegs, .logRegs, .row, .sent, .idleRuns, .logRound, .step] (fun t =>
      let bad := s.led.snap.any (fun p => decide (p.ledger < 4) && p.diff != 0)
      t.row = max s.row ((if s.step.decideDue then s.rf R.STEP_BINDOFF_VALUE else s.step.swatchEnd) + 1024) ∧ t.step.auditDue = false ∧
      t.step.ledgerBad = bad ∧ t.rf R.LEDGER_STATUS_LAST_STATUS = (if bad then stLEDGER_MISMATCH else stOK) ∧
      t.rf R.LEDGER_STATUS_SWATCH = (if s.step.decideDue then 0 else 1) ∧
      (s.step.decideDue = false → bad = true → t.phase = phHOLD ∧ t.rf R.STEP_STATUS_HOLD_CAUSE = 3)) := by
  have hexec := exec_ledgerAudit s hdue
  refine Runs.of hexec (execLedgerAudit_does _ _ hexec) (by decide) ?_
  obtain ⟨hrow, hstep, hstatus, hswatch⟩ := s.audited_shows rfl
  have hbad : (s.auditBegun.forEach (upTo 4) State.auditLedger).step.ledgerBad =
      s.led.snap.any (fun p => decide (p.ledger < 4) && p.diff != 0) := by
    rw [← State.auditShown_step, hstep]
  rw [hbad]
  generalize (s.auditBegun.forEach (upTo 4) State.auditLedger).auditShown = u at hrow hstep hstatus hswatch ⊢
  dsimp only
  generalize s.led.snap.any (fun p => decide (p.ledger < 4) && p.diff != 0) = bad at hstep hstatus ⊢
  split
  · obtain ⟨hphase, hcause, hruling, hrow', hrf⟩ := u.auditHeld_shows
    refine ⟨hrow'.trans hrow, (congrArg StepSt.auditDue hruling).trans (congrArg StepSt.auditDue hstep),
      (congrArg StepSt.ledgerBad hruling).trans (congrArg StepSt.ledgerBad hstep), (hrf _ rfl (by decide)).trans hstatus,
      (hrf _ rfl (by decide)).trans hswatch, fun _ _ => ⟨hphase, hcause⟩⟩
  · rename_i hheld
    refine ⟨hrow, congrArg StepSt.auditDue hstep, congrArg StepSt.ledgerBad hstep, hstatus, hswatch, fun hsw hoff => absurd ?_ hheld⟩
    rw [hsw, hoff]
    rfl

end Sys2Proof.Machine
end

section
/-! SUPPORT. O11: the decisions of the boundary (R28, R29, R52, R54, R79). -/

namespace Sys2Proof.Machine

/-! ## What installs and holds leave of the decisions -/

/-- Two states are ruled alike: the same grounds for the decisions of the boundary, and the same registers of STEP but STEP_SWATCH. -/
structure State.SameRuling (s t : State) : Prop where
  step : t.step.ruling = s.step.ruling
  regs : ∀ f : Fld, f.blk = 4 → f.key / 64 ≠ R.STEP_SWATCH_REQ.off → t.rf f = s.rf f

theorem State.SameRuling.refl (s : State) : s.SameRuling s := ⟨rfl, fun _ _ _ => rfl⟩

theorem State.SameRuling.trans {s t u : State} (h : s.SameRuling t) (k : t.SameRuling u) : s.SameRuling u :=
  ⟨k.step.trans h.step, fun f hb hf => (k.regs f hb hf).trans (h.regs f hb hf)⟩

/-- A register outside STEP, or of STEP_SWATCH, is no ground of a decision. -/
theorem State.SameRuling.set (s : State) (f : Fld) (v : Nat) (h : f.blk ≠ 4 ∨ f.key / 64 = R.STEP_SWATCH_REQ.off) : s.SameRuling (s.set f v) := by
  refine ⟨congrArg StepSt.ruling (s.set_step f v), fun g hb hg => s.rf_set_of_ne f g v ?_⟩
  rcases h with h | h
  · exact Fld.key_ne_of_blk (hb ▸ h.symm)
  · exact fun hk => hg (hk ▸ h)

/-- Every part but the step and the registers of STEP. -/
def offRuling : Nat := 70366596693999

/-- What leaves the step and its registers leaves the ruling. -/
theorem Does.sameRuling {s t : State} (h : Does offRuling s t) : s.SameRuling t :=
  ⟨congrArg StepSt.ruling (h.frame .step (by decide)), fun f hb _ => h.rf f (by rw [hb]; decide)⟩

/-- Requests for swatches that are dropped are no ground of a decision (R29). -/
theorem State.dropSwatches_sameRuling (s : State) : s.SameRuling s.dropSwatches := by
  unfold State.dropSwatches
  split
  · exact .refl s
  · extract_lets _ u
    have hu : s.SameRuling u := ⟨rfl, fun _ _ _ => rfl⟩
    exact ((hu.trans (.set u _ _ (.inr (by decide)))).trans (.set _ _ _ (.inr (by decide)))).trans
      (State.logEv_does _ _ _ _ _ _ (by decide) (Does.rfl' _ _)).sameRuling

/-- An installed chart is no ground of a decision but for the next variant (R29, R79). -/
theorem State.installChart_sameRuling (s : State) (c : Chart) : s.SameRuling (s.installChart c) := by
  unfold State.installChart
  extract_lets u v _ w x y live _ z dropped _ installed
  have hv : Does offRuling u v := by
    simp only [v]
    split
    · exact State.clearContexts_does u _ (by decide) (Does.rfl' _ u)
    · exact Does.rfl' _ u
  have hw : Does offRuling s w := Does.upd_chart _ _ (by decide) ((State.rebuildMap_does s _ (by decide) (Does.rfl' _ s)).trans hv)
  have hx : Does offRuling w x := Does.forEach _ _ (Does.rfl' _ w) (fun _ _ h =>
    State.loadImage_does _ _ _ (by decide) (State.dropContext_does _ _ (by decide) h))
  have hz : Does offRuling x z := Does.upd_tier _ _ (by decide) (State.pokeOA_does x _ _ (by decide) (Does.rfl' _ x))
  have hdropped : s.SameRuling dropped :=
    (((hw.trans hx).trans hz).trans (State.dropVariants_does z (by decide) (Does.rfl' _ z))).sameRuling.trans
      ((State.dropSwatches_sameRuling _).trans (State.resetRebase_does _ (by decide) (Does.rfl' _ _)).sameRuling)
  clear_value dropped
  have hinstalled : dropped.SameRuling installed := ⟨rfl, fun _ _ _ => rfl⟩
  clear_value installed
  refine hdropped.trans (hinstalled.trans (Does.sameRuling ?_))
  exact State.avs_does _ (by decide) (State.fullRate_does _ (by decide) (State.showTier_does _ (by decide) (Does.set _ _ _ (by decide)
    (State.showActive_does _ (by decide) (State.showStaged_does installed _ (by decide) (Does.rfl' _ installed))))))

/-- A commit that is due is no ground of a decision, whether it installs or fails its checks (R69). -/
theorem State.applyCommit_sameRuling (s : State) : s.SameRuling s.applyCommit := by
  unfold State.applyCommit
  split
  · exact .refl s
  · extract_lets rule u
    split
    · exact (State.logEv_does _ _ _ _ _ _ (by decide) (Does.set _ _ _ (by decide) (Does.set s _ _ (by decide) (Does.rfl' _ s)))).sameRuling
    · have hu : s.SameRuling u := by
        simp only [u]
        split
        · exact .set s _ _ (.inl (by decide))
        · exact .refl s
      exact (hu.trans (u.installChart_sameRuling _)).trans (.set _ _ _ (.inl (by decide)))

theorem State.installDue_sameRuling (s : State) : s.SameRuling s.installDue := by
  unfold State.installDue
  extract_lets due
  split
  · have htake : s.SameRuling (s.takeCommit due) := ⟨rfl, fun _ _ _ => rfl⟩
    exact htake.trans (s.takeCommit due).applyCommit_sameRuling
  · exact .refl s

theorem State.installDue_of_none (s : State) (h : s.chart.commits = []) : s.installDue = s := by
  unfold State.installDue
  rw [h]
  rfl

/-- Requests that wait for the next launch are no ground of a decision (R29, R82). -/
theorem State.holdRequests_sameRuling (s : State) (n : Nat) : s.SameRuling (s.holdRequests n) := by
  unfold State.holdRequests
  extract_lets due waiting _ u _ v
  have hu : s.SameRuling u := by
    simp only [u]
    split
    · exact .refl s
    · refine State.SameRuling.trans ?_ (.set _ R.STEP_SWATCH_AT_STEP _ (.inr (by decide)))
      exact ⟨rfl, fun _ _ _ => rfl⟩
  split
  · have hv : u.SameRuling v := ⟨rfl, fun _ _ _ => rfl⟩
    exact ((hu.trans hv).trans (.set v _ _ (.inl (by decide)))).trans (State.installDue_sameRuling _)
  · exact hu

/-! ## Figures -/

/-- What does not change but for its figures keeps its agreement, its requests and what it has installed. -/
theorem StepSt.unfigured_keeps {x y : StepSt} (h : x.unfigured = y.unfigured) :
    x.agreement = y.agreement ∧ x.installed = y.installed ∧ x.swatches = y.swatches := by
  have hfields : ∀ z : StepSt, z.unfigured.agreement = z.agreement ∧ z.unfigured.installed = z.installed ∧
      z.unfigured.swatches = z.swatches := fun _ => ⟨rfl, rfl, rfl⟩
  obtain ⟨hx₁, hx₂, hx₃⟩ := hfields x
  obtain ⟨hy₁, hy₂, hy₃⟩ := hfields y
  rw [← hx₁, ← hx₂, ← hx₃, h]
  exact ⟨hy₁, hy₂, hy₃⟩

theorem StepSt.ruling_congr {x y : StepSt} (h : x.unfigured = y.unfigured) : x.ruling = y.ruling := by
  unfold StepSt.ruling
  rw [h]

/-- A loop that writes a register of each of its elements leaves the step. -/
theorem State.forEach_set_step (l : List Nat) (f : Nat → Fld) (x : State → Nat → Nat) (s : State) :
    (s.forEach l (fun s k => s.set (f k) (x s k))).step = s.step :=
  State.forEach_keeps State.step l _ (fun _ _ => State.set_step _ _ _) s

theorem State.gaugeBoundary_unfigured (s : State) : s.gaugeBoundary.step.unfigured = s.step.unfigured := by
  unfold State.gaugeBoundary
  extract_lets u v w _
  have hu : u.step = s.step := State.forEach_keeps State.step _ _ (fun _ _ => (State.set_step _ _ _).trans (State.set_step _ _ _)) s
  clear_value u
  have hv : v.step = u.step := State.set_step { u with gauge := [] } R.GAUGE_CTRL_AT_STEP u.step.lastStep
  have hw : w.step = v.step := v.forEach_set_step _ _ _
  clear_value v w
  split
  · have hlast := State.set_step { w with step := { w.step with clearGauge := false } } R.GAUGE_CTRL_CLEAR_PENDING 0
    have hcleared : w.step.unfigured = s.step.unfigured := congrArg StepSt.unfigured (hw.trans (hv.trans hu))
    exact (congrArg StepSt.unfigured hlast).trans hcleared
  · exact congrArg StepSt.unfigured (hv.trans hu)

theorem State.tensionFigures_unfigured (s : State) : s.tensionFigures.step.unfigured = s.step.unfigured := by
  unfold State.tensionFigures
  extract_lets u _ v w _ _
  have hu : u.step = s.step := State.forEach_keeps State.step _ _ (fun _ _ =>
    (((State.set_step _ _ _).trans (State.set_step _ _ _)).trans (State.set_step _ _ _)).trans (State.set_step _ _ _)) s
  clear_value u
  have hv : v.step = u.step := u.set_step R.TENSION_CTRL_AT_STEP u.step.lastStep
  clear_value v
  have hw : w.step = v.step := v.forEach_set_step _ _ _
  clear_value w
  split
  · exact (congrArg StepSt.unfigured hw).trans (congrArg StepSt.unfigured (hv.trans hu))
  · exact congrArg StepSt.unfigured (hv.trans hu)

theorem State.idleFigures_unfigured (s : State) : s.idleFigures.step.unfigured = s.step.unfigured := by
  unfold State.idleFigures
  extract_lets u v w _
  have hu : u.step = s.step := s.forEach_set_step _ _ _
  have hv : Does 67174400 u v := State.flushIdle_does _ (by decide) (Does.set u _ _ (by decide) (Does.rfl' _ u))
  have hstep : v.step = s.step := (hv.frame .step (by decide)).trans hu
  have hw : w.step = v.step := v.forEach_set_step _ _ _
  clear_value v w
  split
  · exact (congrArg StepSt.unfigured hw).trans (congrArg StepSt.unfigured hstep)
  · exact congrArg StepSt.unfigured hstep

/-- A register of the stash figures written leaves the registers before them (R58). -/
theorem State.set_stashFigure (s : State) (g : Fld) (x : Nat) {f : Fld} (hf : f.key < R.STEP_STASH_SEL_WISH.key)
    (hg : R.STEP_STASH_SEL_WISH.key ≤ g.key) : (s.set g x).rf f = s.rf f := s.rf_set_of_ne g f x (by omega)

/-- So does a register of a tensor's size. -/
theorem State.set_stashSize (s : State) (i lo w x : Nat) {f : Fld} (hf : f.key < R.STEP_STASH_SEL_WISH.key) :
    (s.set ⟨0x90000 + 0x8 * (i % 8192), lo, w⟩ x).rf f = s.rf f :=
  s.set_stashFigure _ x hf (by simp only [Fld.key, R.STEP_STASH_SEL_WISH]; omega)

/-- The sizes of the last step's tensors put back at 0 leave the registers before them. -/
theorem State.clearStashSizes_rf (s : State) {f : Fld} (hf : f.key < R.STEP_STASH_SEL_WISH.key) :
    ({ s with regs := s.regs.filter (fun (p : Nat × Nat) => decide (p.1 < 0x90000 * 64 ∨ 0xA0000 * 64 ≤ p.1)) } : State).rf f = s.rf f := by
  refine (SMap.get_filter resetOf s.regs (fun k => decide (k < 0x90000 * 64 ∨ 0xA0000 * 64 ≤ k)) f.key).trans (if_pos ?_)
  simp only [R.STEP_STASH_SEL_WISH, Fld.key] at hf ⊢
  exact decide_eq_true (.inl (by omega))

/-- The stash figures leave the registers of STEP that stand before them (R58). -/
theorem State.stashFigures_rf (s : State) (c : Chart) (f : Fld) (hb : f.blk = 4) (hf : f.key < R.STEP_STASH_SEL_WISH.key) :
    (s.stashFigures c).rf f = s.rf f := by
  unfold State.stashFigures
  extract_lets u v a s1 s2 s3 s4 s5 s6 s7 s8 s9
  have hu : u.rf f = s.rf f := s.clearStashSizes_rf hf
  clear_value u
  have hv : v.rf f = u.rf f := by
    refine State.foldl_keeps (State.rf · f) _ _ (fun w x => ?_) u
    exact ((State.set_stashSize _ x.1 62 2 _ hf).trans (State.set_stashSize _ x.1 48 8 _ hf)).trans (w.set_stashSize x.1 0 41 _ hf)
  clear_value v
  have h2 : s2.rf f = v.rf f := by
    iterate 5 refine (State.set_stashFigure _ _ _ hf (by decide)).trans ?_
    rfl
  clear_value s2
  have h3 : s3.rf f = s2.rf f := s2.set_stashFigure _ _ hf (by decide)
  clear_value s3
  have h4 : s4.rf f = s3.rf f := by
    simp only [s4]
    split
    · exact ((State.logEv_does (μ := 536895488) _ _ _ _ _ _ (by decide) (Does.rfl' _ _)).rf f (by rw [hb]; decide)).trans
        (s3.set_stashFigure _ _ hf (by decide))
    · exact s3.set_stashFigure _ _ hf (by decide)
  clear_value s4
  have h9 : s9.rf f = s4.rf f := by
    iterate 6 refine (State.set_stashFigure _ _ _ hf (by decide)).trans ?_
    rfl
  clear_value s9
  rw [← hu, ← hv, ← h2, ← h3, ← h4, ← h9]
  iterate 2 refine (State.set_stashFigure _ _ _ hf (by decide)).trans ?_
  rfl

/-- Writing the figures of the step leaves the step but for what they clear, and the registers of STEP before its figures (R28, R58). -/
theorem State.writeFigures_keeps (s : State) : s.writeFigures.step.unfigured = s.step.unfigured ∧
    ∀ f : Fld, f.blk = 4 → f.key < R.STEP_UPDATE_REBASED.key → s.writeFigures.rf f = s.rf f := by
  unfold State.writeFigures
  split
  · exact ⟨rfl, fun _ _ _ => rfl⟩
  split
  · exact ⟨rfl, fun _ _ _ => rfl⟩
  · rename_i c _ _
    extract_lets u v w _
    constructor
    · have hstash : (s.stashFigures c).step = s.step :=
        (State.stashFigures_does (m := 536895504) s c (by decide) (Does.rfl' _ s)).frame .step (by decide)
      have hu : u.step.unfigured = s.step.unfigured :=
        (((State.idleFigures_unfigured _).trans (State.tensionFigures_unfigured _)).trans (State.gaugeBoundary_unfigured _)).trans
          (congrArg StepSt.unfigured hstash)
      have hw : w.step = u.step :=
        (((State.set_step _ _ _).trans (State.set_step _ _ _)).trans (State.set_step _ _ _)).trans (u.set_step _ _)
      clear_value w
      exact (congrArg StepSt.unfigured hw).trans hu
    · intro f hb hf
      have hkey : f.key < 0x80148 * 64 + 32 := hf
      have hu : u.rf f = (s.stashFigures c).rf f := by
        refine ((State.idleFigures_does (μ := 2214658048) _ (by decide) (Does.rfl' _ _)).rf f (by rw [hb]; decide)).trans ?_
        refine ((State.tensionFigures_does (μ := 2281832448) _ (by decide) (Does.rfl' _ _)).rf f (by rw [hb]; decide)).trans ?_
        exact (State.gaugeBoundary_does (μ := 35186519605248) _ (by decide) (Does.rfl' _ _)).rf f (by rw [hb]; decide)
      have hw : w.rf f = u.rf f := by
        refine (State.rf_set_of_ne _ R.STEP_UPDATE_OVERFLOWS f _ (Nat.ne_of_lt (Nat.lt_trans hf (by decide)))).trans ?_
        iterate 3 refine (State.rf_set_of_ne _ _ f _ (Fld.key_ne_of_blk (by rw [hb]; decide))).trans ?_
        rfl
      clear_value w
      exact (hw.trans hu).trans (s.stashFigures_rf c f hb (Nat.lt_trans hf (by decide)))

/-! ## What the boundary does before its decisions -/

/-- The work that a boundary owes before its decisions is no ground of them (R28, R29, R79). -/
theorem State.boundaryInstall_ruling (s : State) : s.boundaryInstall.step.ruling = s.step.ruling := by
  unfold State.boundaryInstall
  split
  · have hunits : (s.writeFigures.unitBoundary s.step.lastStep).step = s.writeFigures.step :=
      (State.unitBoundary_does (μ := 155155723780) _ _ (by decide) (Does.rfl' _ _)).frame .step (by decide)
    exact (State.installDue_sameRuling _).step.trans ((congrArg StepSt.ruling hunits).trans (StepSt.ruling_congr s.writeFigures_keeps.1))
  · exact s.installDue_sameRuling.step

/-- With no commit pending that work leaves the chart, the requests, and the registers of STEP before its figures (R28). -/
theorem State.boundaryInstall_of_none (s : State) (h : s.chart.commits = []) :
    s.boundaryInstall.chart = s.chart ∧ s.boundaryInstall.step.unfigured = s.step.unfigured ∧
    ∀ f : Fld, f.blk = 4 → f.key < R.STEP_UPDATE_REBASED.key → s.boundaryInstall.rf f = s.rf f := by
  unfold State.boundaryInstall
  split
  · have hunits : Does 155155723780 s.writeFigures (s.writeFigures.unitBoundary s.step.lastStep) :=
      State.unitBoundary_does _ _ (by decide) (Does.rfl' _ _)
    have hchart : (s.writeFigures.unitBoundary s.step.lastStep).chart = s.chart :=
      (hunits.frame .chart (by decide)).trans ((State.writeFigures_does (μ := 35187258024208) s (by decide) (Does.rfl' _ s)).frame .chart (by decide))
    obtain ⟨hstep, hregs⟩ := s.writeFigures_keeps
    rw [State.installDue_of_none _ (by rw [hchart, h])]
    exact ⟨hchart, (congrArg StepSt.unfigured (hunits.frame .step (by decide))).trans hstep,
      fun f hb hf => (hunits.rf f (by rw [hb]; decide)).trans (hregs f hb hf)⟩
  · rw [s.installDue_of_none h]
    exact ⟨rfl, rfl, fun _ _ _ => rfl⟩

/-- With no chart installed and no variant commit the agreed variant is next, clamped to those of the chart (R52, R54). -/
theorem State.chooseVariant_agreed (s : State) (c : Chart) (n : Nat) (hi : s.step.installed = false) (hv : s.chart.variants = []) :
    s.chooseVariant c n = s.set R.STEP_STATUS_NEXT_VARIANT (min ((s.step.agreement.getD ⟨0, false, 0, 0, 0, 0⟩).agreed) (c.nvar - 1)) := by
  unfold State.chooseVariant
  rw [hi, hv]
  rfl

/-- The rebase set fixed and the loss scale written for an update program (R321, R332). -/
def State.programmed (s : State) (b : List Byte) : State := (s.fixRebase b).writeScale b

theorem State.programmed_does (s : State) (b : List Byte) : Does 8848172671120 s (s.programmed b) :=
  State.writeScale_does _ b (by decide) (State.fixRebase_does s b (by decide) (Does.rfl' _ s))

theorem State.programmed_rf (s : State) (b : List Byte) (f : Fld) (hb : f.blk = 4) (hf : f.key ≠ R.STEP_UPDATE_REBASED.key) :
    (s.programmed b).rf f = s.rf f :=
  ((State.writeScale_does (μ := 17719910528) _ b (by decide) (Does.rfl' _ _)).rf f (by rw [hb]; decide)).trans
    (s.fixRebase_only b f (by simpa using hf))

/-- The boundary at its decisions: figures and installs done, the next variant chosen, its update program's rebase set and loss scale in place. -/
def State.ruled (s : State) (c : Chart) : State :=
  let u := ((s.advance (s.rf R.STEP_BINDOFF_VALUE + 2048)).boundaryInstall).chooseVariant c s.step.lastStep
  u.programmed (u.progOfVariant (u.rf R.STEP_STATUS_NEXT_VARIANT))

theorem State.ruled_row (s : State) (c : Chart) : (s.ruled c).row = max s.row (s.rf R.STEP_BINDOFF_VALUE + 2048) := by
  unfold State.ruled
  rw [← s.advance_row (s.rf R.STEP_BINDOFF_VALUE + 2048)]
  generalize s.advance (s.rf R.STEP_BINDOFF_VALUE + 2048) = u
  have hdoes : Does 47197067671548 u (u.boundaryInstall.chooseVariant c s.step.lastStep) :=
    State.chooseVariant_does _ c _ (by decide) (State.boundaryInstall_does u (by decide) (Does.rfl' _ u))
  exact ((State.programmed_does _ _).frame .row (by decide)).trans (hdoes.frame .row (by decide))

/-- The grounds of the decisions stand until they are taken (R29). -/
theorem State.ruled_ruling (s : State) (c : Chart) : (s.ruled c).step.ruling = s.step.ruling := by
  have hinstall := (s.advance (s.rf R.STEP_BINDOFF_VALUE + 2048)).boundaryInstall_ruling
  rw [s.advance_step] at hinstall
  rw [← hinstall]
  unfold State.ruled
  generalize (s.advance (s.rf R.STEP_BINDOFF_VALUE + 2048)).boundaryInstall = u
  have hchoose : (u.chooseVariant c s.step.lastStep).step = u.step :=
    (State.chooseVariant_does (μ := 1073741848) u c _ (by decide) (Does.rfl' _ u)).frame .step (by decide)
  exact congrArg StepSt.ruling (((State.programmed_does _ _).frame .step (by decide)).trans hchoose)

/-- Where neither commit nor install is pending, the agreed variant is next, and what the next cast-on rests on stands (R28, R52, R54). -/
theorem State.ruled_of_none (s : State) (c : Chart) (hcommits : s.chart.commits = []) (hvariants : s.chart.variants = [])
    (hinstalled : s.step.installed = false) :
    (s.ruled c).chart = s.chart ∧ (s.ruled c).step.unfigured = s.step.unfigured ∧
    (s.ruled c).rf R.STEP_STATUS_NEXT_VARIANT = min ((s.step.agreement.getD ⟨0, false, 0, 0, 0, 0⟩).agreed) (c.nvar - 1) % 16 ∧
    (s.ruled c).rf R.STEP_BINDOFF_VALUE = s.rf R.STEP_BINDOFF_VALUE ∧ (s.ruled c).variant = s.variant := by
  have hrf := s.advance_rf (s.rf R.STEP_BINDOFF_VALUE + 2048)
  have hstep := s.advance_step (s.rf R.STEP_BINDOFF_VALUE + 2048)
  have hchart : (s.advance (s.rf R.STEP_BINDOFF_VALUE + 2048)).chart = s.chart :=
    (State.advance_does (μ := 67633168) s _ (by decide) (Does.rfl' _ s)).frame .chart (by decide)
  unfold State.ruled
  generalize s.advance (s.rf R.STEP_BINDOFF_VALUE + 2048) = u at hrf hstep hchart ⊢
  obtain ⟨hchart', hstep', hregs⟩ := u.boundaryInstall_of_none (by rw [hchart, hcommits])
  rw [hchart] at hchart'
  rw [hstep] at hstep'
  generalize u.boundaryInstall = v at hchart' hstep' hregs ⊢
  obtain ⟨hagreed, hinst, _⟩ := StepSt.unfigured_keeps hstep'
  rw [v.chooseVariant_agreed c _ (hinst.trans hinstalled) (by rw [hchart', hvariants]), hagreed]
  dsimp only
  generalize State.progOfVariant _ _ = b
  have hd := State.programmed_does (v.set R.STEP_STATUS_NEXT_VARIANT (min ((s.step.agreement.getD ⟨0, false, 0, 0, 0, 0⟩).agreed) (c.nvar - 1))) b
  refine ⟨(hd.frame .chart (by decide)).trans hchart', (congrArg StepSt.unfigured (hd.frame .step (by decide))).trans hstep',
    (State.programmed_rf _ b _ rfl (by decide)).trans (State.rf_set_same _ _ _), ?_, ?_⟩
  · exact ((State.programmed_rf _ b _ rfl (by decide)).trans (State.rf_set_of_ne _ _ _ _ (by decide))).trans
      ((hregs _ rfl (by decide)).trans (hrf _ (by decide)))
  · exact ((State.programmed_rf _ b R.STEP_STATUS_VARIANT rfl (by decide)).trans (State.rf_set_of_ne _ _ _ _ (by decide))).trans
      ((hregs _ rfl (by decide)).trans (hrf _ (by decide)))

/-! ## Causes of HOLD -/

/-- The grounds of a decision give its causes of HOLD. -/
theorem State.holdCauses_congr {s t : State} (h : t.step.ruling = s.step.ruling) (n : Nat) : t.holdCauses n = s.holdCauses n := by
  have hgrounds : ∀ u : State, u.step.ledgerBad = u.step.ruling.ledgerBad ∧ u.step.thermalPend = u.step.ruling.thermalPend ∧
      u.step.stopAt = u.step.ruling.stopAt := fun _ => ⟨rfl, rfl, rfl⟩
  obtain ⟨hbad, hheat, hstop⟩ := hgrounds t
  obtain ⟨hbad', hheat', hstop'⟩ := hgrounds s
  unfold State.holdCauses
  rw [hbad, hheat, hstop, h, ← hbad', ← hheat', ← hstop']

/-- The first cause of HOLD: a ledger mismatch, then heat, then a stop request (R29). -/
theorem State.holdCauses_head? (s : State) (n : Nat) : (s.holdCauses n).head? =
    if s.step.ledgerBad then some 3 else if s.step.thermalPend then some 2 else if s.step.stopAt = some n then some 1 else none := by
  unfold State.holdCauses
  cases s.step.ledgerBad with
  | true => rfl
  | false =>
    cases s.step.thermalPend with
    | true => rfl
    | false =>
      simp only [Bool.false_eq_true, if_false, List.nil_append]
      split <;> rfl

/-! ## The decisions -/

/-- The decisions of the boundary behind step n final: its causes of HOLD logged, a stop request served, and nothing due any more (R28, R29). -/
def State.decided (s : State) (n : Nat) : State :=
  let u := (s.holdCauses n).foldl State.logHold s
  let v := if u.step.stopAt = some n then ({ u with step := { u.step with stopAt := none } }).set R.STEP_CTRL_STOP_PENDING 0 else u
  { v with step := { v.step with decideDue := false, thermalPend := false, ledgerBad := false, agreement := none } }

/-- A device held by its decisions; the cause of a power state that an emergency has left shows there (R29, R463). -/
def State.held (s : State) (cause n : Nat) : State :=
  let u := (s.enterHold cause).holdRequests n
  if u.step.emergency then u.set R.PWR_STATE_LAST_CAUSE 6 else u

/-- What is left of a state once its decisions are final. -/
theorem State.decided_shows (s : State) (n : Nat) :
    (s.decided n).row = s.row ∧ (s.decided n).chart = s.chart ∧ (s.decided n).step.decideDue = false ∧ (s.decided n).step.agreement = none ∧
    (s.decided n).step.installed = s.step.installed ∧ (s.decided n).step.swatches = s.step.swatches ∧
    ∀ f : Fld, f.blk = 4 → f.key ≠ R.STEP_CTRL_STOP_PENDING.key → (s.decided n).rf f = s.rf f := by
  unfold State.decided
  extract_lets u _ v _
  have hlog : Does 536895488 s u := Does.foldl _ _ (Does.rfl' _ s) (fun w k h => State.logHold_does w k (by decide) h)
  have hstep : u.step = s.step := hlog.frame .step (by decide)
  have hv : v.row = u.row ∧ v.chart = u.chart ∧ v.step.installed = u.step.installed ∧ v.step.swatches = u.step.swatches ∧
      ∀ f : Fld, f.key ≠ R.STEP_CTRL_STOP_PENDING.key → v.rf f = u.rf f := by
    simp only [v]
    split
    · exact ⟨rfl, rfl, rfl, rfl, fun f hf => State.rf_set_of_ne _ _ f _ hf⟩
    · exact ⟨rfl, rfl, rfl, rfl, fun _ _ => rfl⟩
  obtain ⟨hrow, hchart, hinstalled, hswatches, hregs⟩ := hv
  rw [hstep] at hinstalled hswatches
  exact ⟨hrow.trans (hlog.frame .row (by decide)), hchart.trans (hlog.frame .chart (by decide)), rfl, rfl, hinstalled, hswatches,
    fun f hb hf => (hregs f hf).trans (hlog.rf f (by rw [hb]; decide))⟩

/-- What a device held by its decisions shows (R29). -/
theorem State.held_shows (s : State) (cause n : Nat) :
    (s.held cause n).row = s.row ∧ (s.held cause n).step.ruling = s.step.ruling ∧ (s.held cause n).phase = phHOLD ∧
    (s.held cause n).rf R.STEP_STATUS_HOLD_CAUSE = cause % 16 := by
  obtain ⟨hphase, hcause⟩ := s.enterHold_shows cause
  have hrow : (s.enterHold cause).row = s.row :=
    (State.enterHold_does (m := 2151678484) s cause (by decide) (Does.rfl' _ s)).frame .row (by decide)
  have hstep := s.enterHold_ruling cause
  unfold State.held
  generalize s.enterHold cause = u at hphase hcause hrow hstep ⊢
  have hrow' : (u.holdRequests n).row = u.row :=
    (State.holdRequests_does (μ := 12012494022652) u n (by decide) (Does.rfl' _ u)).frame .row (by decide)
  have hkept : u.SameRuling (if (u.holdRequests n).step.emergency then (u.holdRequests n).set R.PWR_STATE_LAST_CAUSE 6 else u.holdRequests n) := by
    refine (u.holdRequests_sameRuling n).trans ?_
    split
    · exact .set _ _ _ (.inl (by decide))
    · exact .refl _
  refine ⟨Eq.trans ?_ hrow, hkept.step.trans hstep, (hkept.regs _ rfl (by decide)).trans hphase, (hkept.regs _ rfl (by decide)).trans hcause⟩
  dsimp only
  split <;> exact hrow'

/-- Going on, but for the swatch and the next cast-on, leaves what is decided (R28). -/
theorem State.goOn_keeps (s : State) (n : Nat) : (s.goOn n).row = s.row ∧ (s.goOn n).step.ruling = s.step.ruling := by
  refine ⟨(State.goOn_does (μ := 2147483668) s n (by decide) (Does.rfl' _ s)).frame .row (by decide), ?_⟩
  unfold State.goOn
  split
  · rfl
  · extract_lets b i sw u next _ v
    have hplan : u.step = s.step := (State.planSwitch_does (μ := 4) _ _ (by decide) (Does.rfl' _ _)).frame .step (by decide)
    have hu : u.step.ruling = s.step.ruling := congrArg StepSt.ruling hplan
    have hv : v.step.ruling = u.step.ruling := rfl
    split <;> exact hv.trans hu

/-- Going on leaves the next variant, and plans the next cast-on behind the boundary interval and any swatch (R28, R31). -/
theorem State.goOn_shows (s : State) (c : Chart) (n : Nat) (hc : s.chart.active = some c) :
    (s.goOn n).rf R.STEP_STATUS_NEXT_VARIANT = s.rf R.STEP_STATUS_NEXT_VARIANT ∧
    (s.goOn n).rf R.STEP_NEXT_CASTON_VALUE = (s.rf R.STEP_BINDOFF_VALUE + c.vI (if s.step.installed then 0 else s.variant) +
      s.swatchTicks (s.swatchFor n) (c.vI (if s.step.installed then 0 else s.variant))) % 2 ^ 64 := by
  unfold State.goOn
  split
  · rename_i hnone
    rw [hc] at hnone
    cases hnone
  · rename_i c' hsome
    obtain rfl : c' = c := Option.some.inj (hsome.symm.trans hc)
    extract_lets b i sw u next _ v
    have hplan : Does 4 (s.set R.STEP_NEXT_CASTON_VALUE (b + i + s.swatchTicks sw i)) u := State.planSwitch_does _ _ (by decide) (Does.rfl' _ _)
    have hvariant : v.rf R.STEP_STATUS_NEXT_VARIANT = s.rf R.STEP_STATUS_NEXT_VARIANT :=
      (hplan.rf _ (by decide)).trans (s.rf_set_of_ne _ _ _ (by decide))
    have hcast : v.rf R.STEP_NEXT_CASTON_VALUE = (b + i + s.swatchTicks sw i) % 2 ^ 64 := (hplan.rf _ (by decide)).trans (s.rf_set_same _ _)
    split
    · exact ⟨(v.showPending_only.rf _ (by decide)).trans hvariant, (v.showPending_only.rf _ (by decide)).trans hcast⟩
    · exact ⟨hvariant, hcast⟩

/-- A device that goes on behind its decisions keeps the next variant, and plans the next cast-on (R28, R31). -/
theorem State.decided_plans (s : State) (c : Chart) (n : Nat) (hc : s.chart.active = some c) :
    ((s.decided n).goOn n).rf R.STEP_STATUS_NEXT_VARIANT = s.rf R.STEP_STATUS_NEXT_VARIANT ∧
    ((s.decided n).goOn n).rf R.STEP_NEXT_CASTON_VALUE = (s.rf R.STEP_BINDOFF_VALUE + c.vI (if s.step.installed then 0 else s.variant) +
      s.swatchTicks (s.swatchFor n) (c.vI (if s.step.installed then 0 else s.variant))) % 2 ^ 64 := by
  obtain ⟨-, hchart, -, -, hinstalled, hswatches, hregs⟩ := s.decided_shows n
  generalize s.decided n = u at hchart hinstalled hswatches hregs ⊢
  have hvariant : u.variant = s.variant := hregs _ rfl (by decide)
  have hswatch : u.swatchFor n = s.swatchFor n := by
    unfold State.swatchFor
    rw [hswatches]
  have hticks : u.swatchTicks = s.swatchTicks := by
    unfold State.swatchTicks
    rw [hchart]
  obtain ⟨hnext, hcast⟩ := u.goOn_shows c n (by rw [hchart, hc])
  rw [hinstalled, hvariant, hswatch, hticks, hregs R.STEP_BINDOFF_VALUE rfl (by decide)] at hcast
  exact ⟨hnext.trans (hregs _ rfl (by decide)), hcast⟩

/-- The parts that the decisions of the boundary may change. -/
def decisionParts : List Part :=
  [.pwrRegs, .chartRegs, .stepRegs, .streamRegs, .hqRegs, .tierRegs, .ftlRegs, .cluRegs, .skeinRegs, .hbmRegs, .faultRegs,
    .logRegs, .gaugeRegs, .idleRegs, .tensionRegs, .row, .memory, .marks, .sent, .idleRuns, .tension, .logRound, .chart, .step, .fault,
    .ledgers, .power, .tier, .streams, .host, .update, .gauge]

/-- A choice by the first of a list, if any. -/
theorem match_eq_head?_elim (l : List Nat) (goesOn : State) (held : Nat → State) :
    (match l with | [] => goesOn | k :: _ => held k) = l.head?.elim goesOn held := by cases l <;> rfl

section Decisions
variable {s : State} {c : Chart} (hc : s.chart.active = some c) (hdue : s.step.decideDue = true) (haudit : s.step.auditDue = false)
  (hrounds : s.roundsDone = true)
include hc hdue haudit hrounds

/-- BOUNDARY_DECISIONS by the first cause of HOLD that stands, if any (R29). -/
theorem exec_boundaryDecisions : exec .boundaryDecisions s = .next
    ((s.holdCauses s.step.lastStep).head?.elim (((s.ruled c).decided s.step.lastStep).goOn s.step.lastStep).showWakes
      (fun k => ((s.ruled c).decided s.step.lastStep).held k s.step.lastStep)) := by
  rw [← State.holdCauses_congr (s.ruled_ruling c)]
  show execBoundaryDecisions s = _
  unfold execBoundaryDecisions
  rw [hc]
  refine congrArg Host.Outcome.next ((if_neg (by simp [hdue, haudit, hrounds])).trans ?_)
  exact match_eq_head?_elim ((s.ruled c).holdCauses s.step.lastStep) _ (fun k => ((s.ruled c).decided s.step.lastStep).held k s.step.lastStep)

/-- With a cause of HOLD the decisions hold the device, and the first cause shows (R29). -/
theorem boundaryDecisions_hold {cause : Nat} (hcause : (s.holdCauses s.step.lastStep).head? = some cause) :
    Runs .boundaryDecisions s decisionParts (fun t => t.row = max s.row (s.rf R.STEP_BINDOFF_VALUE + 2048) ∧ t.step.decideDue = false ∧
      t.step.agreement = none ∧ t.phase = phHOLD ∧ t.rf R.STEP_STATUS_HOLD_CAUSE = cause % 16) := by
  have hexec := exec_boundaryDecisions hc hdue haudit hrounds
  rw [hcause, Option.elim_some] at hexec
  refine Runs.of hexec (execBoundaryDecisions_does _ _ hexec) (by decide) ?_
  clear hexec
  obtain ⟨hrow, _, hdecide, hagree, _⟩ := (s.ruled c).decided_shows s.step.lastStep
  rw [s.ruled_row] at hrow
  generalize (s.ruled c).decided s.step.lastStep = u at hrow hdecide hagree ⊢
  obtain ⟨hrow', hruling, hphase, hshown⟩ := u.held_shows cause s.step.lastStep
  generalize u.held cause s.step.lastStep = t at hrow' hruling hphase hshown ⊢
  exact ⟨hrow'.trans hrow, (congrArg StepSt.decideDue hruling).trans hdecide, (congrArg StepSt.agreement hruling).trans hagree, hphase, hshown⟩

/-- With no cause of HOLD the device goes on: with no commit pending, the agreed variant is next, and the next cast-on follows (R28, R31, R54). -/
theorem boundaryDecisions_goOn (hcause : (s.holdCauses s.step.lastStep).head? = none) :
    Runs .boundaryDecisions s decisionParts (fun t => t.row = max s.row (s.rf R.STEP_BINDOFF_VALUE + 2048) ∧ t.step.decideDue = false ∧
      t.step.agreement = none ∧ (s.chart.commits = [] → s.chart.variants = [] → s.step.installed = false →
        t.rf R.STEP_STATUS_NEXT_VARIANT = min ((s.step.agreement.getD ⟨0, false, 0, 0, 0, 0⟩).agreed) (c.nvar - 1) % 16 ∧
        t.rf R.STEP_NEXT_CASTON_VALUE = (s.rf R.STEP_BINDOFF_VALUE + c.vI s.variant +
          s.swatchTicks (s.swatchFor s.step.lastStep) (c.vI s.variant)) % 2 ^ 64)) := by
  have hexec := exec_boundaryDecisions hc hdue haudit hrounds
  rw [hcause, Option.elim_none] at hexec
  refine Runs.of hexec (execBoundaryDecisions_does _ _ hexec) (by decide) ?_
  clear hexec
  have hplan := s.ruled_of_none c
  have hdecided := (s.ruled c).decided_plans c s.step.lastStep
  obtain ⟨hrow, _, hdecide, hagree, _⟩ := (s.ruled c).decided_shows s.step.lastStep
  rw [s.ruled_row] at hrow
  generalize (s.ruled c).decided s.step.lastStep = u at hrow hdecide hagree hdecided ⊢
  obtain ⟨hrow', hruling⟩ := u.goOn_keeps s.step.lastStep
  generalize u.goOn s.step.lastStep = v at hrow' hruling hdecided ⊢
  have hwakes : Does 512 v v.showWakes := State.showWakes_does v (by decide) (Does.rfl' _ v)
  generalize v.showWakes = t at hwakes ⊢
  rw [← show t.step = v.step from hwakes.frame .step (by decide)] at hruling
  refine ⟨((hwakes.frame .row (by decide)).trans hrow').trans hrow, (congrArg StepSt.decideDue hruling).trans hdecide,
    (congrArg StepSt.agreement hruling).trans hagree, fun hcommits hvariants hinstalled => ?_⟩
  obtain ⟨hchart, hstep, hnext, hbind, hvariant⟩ := hplan hcommits hvariants hinstalled
  obtain ⟨_, hinst, hswatches⟩ := StepSt.unfigured_keeps hstep
  obtain ⟨hnext', hcast⟩ := hdecided (by rw [hchart, hc])
  have hswatch : (s.ruled c).swatchFor s.step.lastStep = s.swatchFor s.step.lastStep := by
    unfold State.swatchFor
    rw [hswatches]
  have hticks : (s.ruled c).swatchTicks = s.swatchTicks := by
    unfold State.swatchTicks
    rw [hchart]
  rw [hinst, hinstalled, hbind, hvariant, hswatch, hticks] at hcast
  exact ⟨((hwakes.rf _ (by decide)).trans hnext').trans hnext, (hwakes.rf _ (by decide)).trans hcast⟩

end Decisions

/-- BOUNDARY_DECISIONS: HOLD with the first cause of the order, or the next variant and the next cast-on (R28, R29, R52, R54). -/
theorem boundaryDecisions_decide (s : State) (c : Chart) (hc : s.chart.active = some c) (hdue : s.step.decideDue = true)
    (haudit : s.step.auditDue = false) (hrounds : s.roundsDone = true) :
    Runs .boundaryDecisions s decisionParts
      (fun t => t.row = max s.row (s.rf R.STEP_BINDOFF_VALUE + 2048) ∧ t.step.decideDue = false ∧ t.step.agreement = none ∧
        (s.step.ledgerBad = true → t.phase = phHOLD ∧ t.rf R.STEP_STATUS_HOLD_CAUSE = 3) ∧
        (s.step.ledgerBad = false → s.step.thermalPend = true → t.phase = phHOLD ∧ t.rf R.STEP_STATUS_HOLD_CAUSE = 2) ∧
        (s.step.ledgerBad = false → s.step.thermalPend = false → s.step.stopAt = some s.step.lastStep →
          t.phase = phHOLD ∧ t.rf R.STEP_STATUS_HOLD_CAUSE = 1) ∧
        (s.step.ledgerBad = false → s.step.thermalPend = false → s.step.stopAt ≠ some s.step.lastStep → s.chart.commits = [] →
          s.chart.variants = [] → s.step.installed = false →
          t.rf R.STEP_STATUS_NEXT_VARIANT = min ((s.step.agreement.getD ⟨0, false, 0, 0, 0, 0⟩).agreed) (c.nvar - 1) % 16 ∧
          t.rf R.STEP_NEXT_CASTON_VALUE = (s.rf R.STEP_BINDOFF_VALUE + c.vI s.variant +
            s.swatchTicks (s.swatchFor s.step.lastStep) (c.vI s.variant)) % 2 ^ 64)) := by
  have hcause := s.holdCauses_head? s.step.lastStep
  by_cases hbad : s.step.ledgerBad = true
  · rw [if_pos hbad] at hcause
    refine (boundaryDecisions_hold hc hdue haudit hrounds hcause).mono fun t ⟨hrow, hdecide, hagree, hheld⟩ =>
      ⟨hrow, hdecide, hagree, fun _ => hheld, ?_, ?_, ?_⟩ <;> exact fun h => absurd hbad (by simp [h])
  rw [if_neg hbad] at hcause
  by_cases hheat : s.step.thermalPend = true
  · rw [if_pos hheat] at hcause
    refine (boundaryDecisions_hold hc hdue haudit hrounds hcause).mono fun t ⟨hrow, hdecide, hagree, hheld⟩ =>
      ⟨hrow, hdecide, hagree, fun h => absurd h hbad, fun _ _ => hheld, ?_, ?_⟩ <;> exact fun _ h => absurd hheat (by simp [h])
  rw [if_neg hheat] at hcause
  by_cases hstop : s.step.stopAt = some s.step.lastStep
  · rw [if_pos hstop] at hcause
    exact (boundaryDecisions_hold hc hdue haudit hrounds hcause).mono fun t ⟨hrow, hdecide, hagree, hheld⟩ =>
      ⟨hrow, hdecide, hagree, fun h => absurd h hbad, fun _ h => absurd h hheat, fun _ _ _ => hheld, fun _ _ h => absurd hstop h⟩
  · rw [if_neg hstop] at hcause
    exact (boundaryDecisions_goOn hc hdue haudit hrounds hcause).mono fun t ⟨hrow, hdecide, hagree, hnext⟩ =>
      ⟨hrow, hdecide, hagree, fun h => absurd h hbad, fun _ h => absurd h hheat, fun _ _ h => absurd h hstop, fun _ _ _ => hnext⟩

/-- Settles O11: the rounds of the agreement, the audit of the ledgers, and the decisions of the boundary, each by its own lemma. -/
theorem boundaryWork : Obligations.BoundaryWork := ⟨⟨agreementRound_samples, ledgerAudit_compares⟩, boundaryDecisions_decide⟩

end Sys2Proof.Machine
end

section
/-! SUPPORT. O15: chart and variant commits requested and withdrawn (R74, R76 to R78). -/

namespace Sys2Proof.Machine

/-! ## The words of a command of the host -/

/-- The host's write of a register of commands: the value with the bits `c` of the register's other commands cleared and the bit `d` of its
own set. -/
def Wr.command (v c d : BitVec 64) : Wr := Wr.full .host ((v &&& ~~~c) ||| d).toNat

/-- A bit that a command sets in its word reads 1. -/
theorem Wr.get_bit_set (v c d : BitVec 64) (f : Fld) (hw : f.w = 1) (hd : d.getLsbD f.lo = true) :
    (Wr.command v c d).get .host f = 1 := by
  have hlo : f.lo < 64 := BitVec.lt_of_getLsbD hd
  rw [Wr.command, Wr.get_full rfl (by omega), hw, bitsOf_one, BitVec.testBit_toNat, BitVec.getLsbD_or, hd, Bool.or_true, if_pos rfl]

/-- A bit that a command clears in its word reads 0. -/
theorem Wr.get_bit_cleared (v c d : BitVec 64) (f : Fld) (hw : f.w = 1) (hc : c.getLsbD f.lo = true) (hd : d.getLsbD f.lo = false) :
    (Wr.command v c d).get .host f = 0 := by
  have hlo : f.lo < 64 := BitVec.lt_of_getLsbD hc
  rw [Wr.command, Wr.get_full rfl (by omega), hw, bitsOf_one, BitVec.testBit_toNat, BitVec.getLsbD_or, BitVec.getLsbD_and, BitVec.getLsbD_not, hc, hd]
  simp

/-- The command's bits leave a field above them. -/
theorem bitsOf_command (v c d : BitVec 64) (lo w : Nat) (hc : c.toNat < 2 ^ lo) (hd : d.toNat < 2 ^ lo) :
    bitsOf ((v &&& ~~~c) ||| d).toNat lo w = bitsOf v.toNat lo w := by
  refine bitsOf_congr fun j hj => ?_
  have hhigh : ∀ x : BitVec 64, x.toNat < 2 ^ lo → x.getLsbD j = false := fun x hx =>
    Nat.testBit_lt_two_pow (lt_of_lt_of_le hx (Nat.pow_le_pow_right (by decide) hj))
  rw [BitVec.testBit_toNat, BitVec.testBit_toNat, BitVec.getLsbD_or, BitVec.getLsbD_and, BitVec.getLsbD_not, hhigh c hc, hhigh d hd,
    Bool.or_false, Bool.not_false, Bool.and_true]
  by_cases h : j < 64
  · rw [decide_eq_true h, Bool.and_true]
  · rw [BitVec.getLsbD_of_ge v j (by omega), Bool.false_and]

/-! ## Writes of registers of CHART -/

/-- The row of CHART_COMMIT in the Register list (R84). -/
def chartCommitRow : RegRow :=
  ⟨0x40038, 1, 0, 64, [⟨32, 32, .ro, .fw⟩, ⟨16, 8, .ro, .fw⟩, ⟨10, 2, .ro, .fw⟩, ⟨1, 1, .wo, .host⟩, ⟨0, 1, .wo, .host⟩]⟩

/-- The row of CHART_VARIANT in the Register list (R84). -/
def chartVariantRow : RegRow :=
  ⟨0x40040, 1, 0, 64,
    [⟨32, 32, .ro, .fw⟩, ⟨16, 8, .ro, .fw⟩, ⟨10, 2, .ro, .fw⟩, ⟨4, 4, .rw, .host⟩, ⟨1, 1, .wo, .host⟩, ⟨0, 1, .wo, .host⟩]⟩

theorem findReg_chartCommit : findReg 0x40038 = some chartCommitRow := findReg_of_alone (by decide +kernel) (by decide)

theorem findReg_chartVariant : findReg 0x40040 = some chartVariantRow := findReg_of_alone (by decide +kernel) (by decide)

/-- The parts that a write of a register of CHART touches: the block's registers, and the error log where the write is refused or sets
reserved bits (R11). -/
def chartWriteParts : Nat := 536895496

theorem State.regWrite_chart_does (s : State) {off : Nat} (w : Wr) (hoff : blockOf off = 3) : Does chartWriteParts s (s.regWrite off w) :=
  State.regWrite_does s off w (by rw [hoff]; decide) (by decide) (Does.rfl' _ s)

theorem Does.sameTarget {s t : State} (h : Does chartWriteParts s t) : s.SameTarget t :=
  ⟨h.rf _ (by decide), h.frame .row (by decide), h.rf _ (by decide), h.rf _ (by decide), h.frame .step (by decide), h.frame .chart (by decide)⟩

/-- The repeated checks read the ports' states and editions, and the chart in place (R69). -/
theorem Does.recheck {s t : State} (h : Does chartWriteParts s t) (c : Chart) : t.recheck c = s.recheck c := by
  have hport : ∀ lo w p : Nat, lo < 64 → t.rf ⟨0x500000 + 0x1000 * (p % 4), lo, w⟩ = s.rf ⟨0x500000 + 0x1000 * (p % 4), lo, w⟩ :=
    fun lo w p hlo => h.rf _ (by rw [Fld.blk_elem _ _ _ _ _ _ 11 hlo (by decide) (by decide) (by decide)]; decide)
  have hstate : ∀ p, t.rf (R.CDP_STATUS_STATE p) = s.rf (R.CDP_STATUS_STATE p) := fun p => hport 0 4 p (by decide)
  have hedition : ∀ p, t.rf (R.CDP_STATUS_EDITION p) = s.rf (R.CDP_STATUS_EDITION p) := fun p => hport 32 16 p (by decide)
  unfold State.recheck State.badPort State.epochOk State.portUp
  simp only [hstate, hedition, h.sameTarget.chart]

/-- Whether a request is frozen depends on its target alone (R76). -/
theorem Does.frozen {s t : State} (h : Does chartWriteParts s t) (d : PendCommit) : t.frozen d = s.frozen d := by
  have hs := h.sameTarget
  unfold State.frozen State.deadline
  rw [hs.inStep, hs.phase, hs.row, hs.number, hs.bindOff, hs.step, h.rf R.SYNC_LAUNCH_COUNT (by decide)]

/-- Showing the next cast-on and the wakes anew leaves every register of CHART. -/
theorem State.showAhead_chartReg (s : State) (f : Fld) (hb : f.blk = 3) : s.showAhead.rf f = s.rf f :=
  (State.showAhead_does (μ := 528) s (by decide) (Does.rfl' _ s)).rf f (by rw [hb]; decide)

@[simp] theorem State.showAhead_chart (s : State) : s.showAhead.chart = s.chart :=
  (State.showAhead_does (μ := 528) s (by decide) (Does.rfl' _ s)).frame .chart (by decide)

/-! ## Chart commits -/

/-- A chart commit for the bind-off of step n in place of the one for that bind-off, and CHART_COMMIT shows it (R74, R75). -/
def State.putCommit (s : State) (n : Nat) (late : Bool) : State :=
  let s := s.takeCommit (fun c => c.target == some n)
  let s := { s with chart := { s.chart with commits := s.chart.commits ++ [PendCommit.mk 0 (some n) false] } }
  let s := (s.set R.CHART_COMMIT_STATUS (if late then stDEFERRED else stOK)).set R.CHART_COMMIT_OUTCOME 1
  (s.set R.CHART_COMMIT_APPLY_AT_STEP n).showAhead

theorem State.putCommit_does (s : State) (n : Nat) (late : Bool) : Does 1073742360 s (s.putCommit n late) :=
  State.showAhead_does _ (by decide) (Does.set _ _ _ (by decide) (Does.set _ _ _ (by decide) (Does.set _ _ _ (by decide)
    (Does.upd_chart _ _ (by decide) (State.takeCommit_does s _ (by decide) (Does.rfl' _ s))))))

theorem State.putCommit_shows (s : State) (n : Nat) (late : Bool) :
    (s.putCommit n late).chart =
      { s.chart with commits := s.chart.commits.filter (fun d => !(d.target == some n)) ++ [⟨0, some n, false⟩] } ∧
    (s.putCommit n late).rf R.CHART_COMMIT_STATUS = (if late then stDEFERRED else stOK) ∧
    (s.putCommit n late).rf R.CHART_COMMIT_OUTCOME = 1 ∧ (s.putCommit n late).rf R.CHART_COMMIT_APPLY_AT_STEP = n % 2 ^ 32 := by
  unfold State.putCommit
  refine ⟨State.showAhead_chart _, ?_, ?_, ?_⟩ <;> rw [State.showAhead_chartReg _ _ (by decide)]
  · rw [State.rf_set_of_ne _ _ _ _ (by decide), State.rf_set_of_ne _ _ _ _ (by decide), State.rf_set_same]
    cases late <;> rfl
  · rw [State.rf_set_of_ne _ _ _ _ (by decide), State.rf_set_same]
    rfl
  · exact State.rf_set_same _ _ _

/-- In a step a chart that is staged, VALID and passes the repeated checks is committed for the bind-off of R28 (R74). -/
theorem State.requestCommit_inStep (s : State) {c : Chart} (hi : s.inStep = true) (hstaged : s.chart.staged = some c)
    (hvalid : s.rf R.CHART_LOAD_STATUS_STATE = 3) (hcheck : s.recheck c = 0) (hmet : s.rf R.PWR_AVS_MET ≠ 0) :
    s.requestCommit = s.putCommit s.targetStep.1 s.targetStep.2 := by
  obtain ⟨hstop, harm⟩ := s.not_stopped_of_inStep hi
  unfold State.requestCommit
  simp only [hstaged, hvalid, harm, hmet, hcheck, hstop, ne_eq, not_true_eq_false, or_self, if_false, Bool.false_eq_true]
  rfl

/-- CHART_COMMIT_REQUEST writes the register and requests. -/
theorem exec_chartCommitRequest (s : State) (v : BitVec 64) (hreach : s.reach .host = true) :
    exec (.chartCommitRequest .host v) s =
      .next (s.regWrite 0x40038 (Wr.command v 2 1)).requestCommit := by
  refine congrArg Host.Outcome.next ((if_pos hreach).trans ?_)
  show s.writeCommit (Wr.command v 2 1) = _
  unfold State.writeCommit
  simp only [Wr.get_bit_set v 2 1 R.CHART_COMMIT_REQ rfl (by decide),
    Wr.get_bit_cleared v 2 1 R.CHART_COMMIT_WITHDRAW rfl (by decide) (by decide), if_true, Nat.zero_ne_one, if_false]

/-- A commit request in a step: its target before the commit deadline and from it on (R28, R74, R78). -/
theorem chartCommitRequest_targets (s : State) (v : BitVec 64) (c : Chart) (hreach : s.reach .host = true) (hi : s.inStep = true)
    (hstaged : s.chart.staged = some c) (hvalid : s.rf R.CHART_LOAD_STATUS_STATE = 3) (hcheck : s.recheck c = 0)
    (hmet : s.rf R.PWR_AVS_MET ≠ 0) :
    Runs (.chartCommitRequest .host v) s [.chartRegs, .stepRegs, .cluRegs, .faultRegs, .logRegs, .logRound, .chart] (fun t =>
      let n := s.rf R.STEP_NUMBER_VALUE + (if s.row < s.deadline then 0 else 1)
      t.chart = { s.chart with commits := s.chart.commits.filter (fun d => !(d.target == some n)) ++ [⟨0, some n, false⟩] } ∧
      t.rf R.CHART_COMMIT_STATUS = (if s.row < s.deadline then stOK else stDEFERRED) ∧ t.rf R.CHART_COMMIT_OUTCOME = 1 ∧
      t.rf R.CHART_COMMIT_APPLY_AT_STEP = n % 2 ^ 32) := by
  have hexec := exec_chartCommitRequest s v hreach
  have hd := s.regWrite_chart_does (off := 0x40038) (Wr.command v 2 1) (by decide)
  have hvalid' : (s.regWrite 0x40038 (Wr.command v 2 1)).rf R.CHART_LOAD_STATUS_STATE = 3 :=
    (State.regWrite_other s _ findReg_chartCommit (by decide) (by decide) (by decide)).trans hvalid
  generalize s.regWrite 0x40038 (Wr.command v 2 1) = u at hexec hd hvalid'
  have hsame := hd.sameTarget
  rw [u.requestCommit_inStep (hsame.inStep.trans hi) (by rw [hsame.chart, hstaged]) hvalid' ((hd.recheck c).trans hcheck)
    ((hd.rf _ (by decide)).trans_ne hmet), hsame.targetStep hi] at hexec
  refine Runs.of hexec ((u.putCommit_does _ _).after (m := 1610637848) (by decide) (hd.mono (by decide))) (by decide) ?_
  have hshows := u.putCommit_shows
  rw [hsame.chart] at hshows
  by_cases hearly : s.row < s.deadline
  · rw [if_pos hearly, if_pos hearly, if_pos hearly]
    exact hshows (s.rf R.STEP_NUMBER_VALUE) false
  · rw [if_neg hearly, if_neg hearly, if_neg hearly]
    exact hshows (s.rf R.STEP_NUMBER_VALUE + 1) true

/-- A withdrawal that comes too late shows DEFERRED and leaves the chart's requests (R76). -/
theorem State.withdrawal_frozen (s : State) {f : Fld} (detail : Nat) (hf : f.notLog = true) (hw : f.w = 8) :
    ((s.set f stDEFERRED).logEv stDEFERRED 0x04 0 detail 0).rf f = stDEFERRED ∧
    ((s.set f stDEFERRED).logEv stDEFERRED 0x04 0 detail 0).chart = s.chart :=
  ⟨by rw [State.logEv_rf _ _ _ _ _ _ _ hf, State.rf_set_same, hw]; rfl,
    (State.logEv_does (μ := 536895488) _ _ _ _ _ _ (by decide) (Does.rfl' _ _)).frame .chart (by decide)⟩

/-- A withdrawal shows OK, and the request's outcome is withdrawn (R76). -/
theorem State.withdrawal_free (s : State) {f g : Fld} (hf : f.blk = 3) (hg : g.blk = 3) (hne : f.key ≠ g.key) (hw : g.w = 2) :
    ((s.set f stOK).set g 3).showAhead.rf f = stOK ∧ ((s.set f stOK).set g 3).showAhead.rf g = 3 ∧
    ((s.set f stOK).set g 3).showAhead.chart = s.chart := by
  rw [State.showAhead_chartReg _ _ hf, State.showAhead_chartReg _ _ hg, State.showAhead_chart]
  refine ⟨?_, ?_, rfl⟩
  · rw [State.rf_set_of_ne _ _ _ _ hne, State.rf_set_same]
    exact Nat.zero_mod _
  · rw [State.rf_set_same, hw]
    rfl

/-- The most recent chart commit, asked to withdraw: frozen it stays and DEFERRED says so, else it leaves (R76). -/
theorem State.withdrawCommit_shows (s : State) {d : PendCommit} (hlast : s.chart.commits.getLast? = some d) :
    (s.frozen d = true → s.withdrawCommit.rf R.CHART_COMMIT_STATUS = stDEFERRED ∧ s.withdrawCommit.chart = s.chart) ∧
    (s.frozen d = false → s.withdrawCommit.rf R.CHART_COMMIT_STATUS = stOK ∧ s.withdrawCommit.rf R.CHART_COMMIT_OUTCOME = 3 ∧
      s.withdrawCommit.chart = { s.chart with commits := s.chart.commits.filter (fun x => !(x == d)) }) := by
  unfold State.withdrawCommit
  simp only [hlast]
  refine ⟨fun hfrozen => ?_, fun hfree => ?_⟩
  · rw [if_pos hfrozen]
    exact s.withdrawal_frozen _ (by decide) rfl
  · rw [if_neg (Bool.eq_false_iff.mp hfree)]
    exact State.withdrawal_free _ (by decide) (by decide) (by decide) rfl

/-- CHART_COMMIT_WITHDRAW writes the register and withdraws. -/
theorem exec_chartCommitWithdraw (s : State) (v : BitVec 64) (hreach : s.reach .host = true) :
    exec (.chartCommitWithdraw .host v) s =
      .next (s.regWrite 0x40038 (Wr.command v 1 2)).withdrawCommit := by
  refine congrArg Host.Outcome.next ((if_pos hreach).trans ?_)
  show s.writeCommit (Wr.command v 1 2) = _
  unfold State.writeCommit
  simp only [Wr.get_bit_set v 1 2 R.CHART_COMMIT_WITHDRAW rfl (by decide),
    Wr.get_bit_cleared v 1 2 R.CHART_COMMIT_REQ rfl (by decide) (by decide), if_true, Nat.zero_ne_one, if_false]

/-- The last chart commit withdraws unless it is frozen (R76). -/
theorem chartCommitWithdraw_withdraws (s : State) (v : BitVec 64) (d : PendCommit) (hreach : s.reach .host = true)
    (hlast : s.chart.commits.getLast? = some d) :
    Runs (.chartCommitWithdraw .host v) s [.chartRegs, .stepRegs, .cluRegs, .faultRegs, .logRegs, .logRound, .chart] (fun t =>
      (s.frozen d = true → t.rf R.CHART_COMMIT_STATUS = stDEFERRED ∧ t.chart = s.chart) ∧
      (s.frozen d = false → t.rf R.CHART_COMMIT_STATUS = stOK ∧ t.rf R.CHART_COMMIT_OUTCOME = 3 ∧
        t.chart = { s.chart with commits := s.chart.commits.filter (fun x => !(x == d)) })) := by
  have hexec := exec_chartCommitWithdraw s v hreach
  have hd := s.regWrite_chart_does (off := 0x40038) (Wr.command v 1 2) (by decide)
  generalize s.regWrite 0x40038 (Wr.command v 1 2) = u at hexec hd
  refine Runs.of hexec (State.withdrawCommit_does (μ := 1610637848) u (by decide) (hd.mono (by decide))) (by decide) ?_
  have hshows := u.withdrawCommit_shows (d := d) (by rw [hd.sameTarget.chart, hlast])
  rwa [hd.frozen, hd.sameTarget.chart] at hshows

/-! ## Variant commits -/

/-- A variant commit in place of the one of its target, and CHART_VARIANT shows it (R74, R78). -/
def State.commitVariant (s : State) (i : Nat) (target : Option Nat) (st : Nat) : State :=
  (((s.set R.CHART_VARIANT_OUTCOME 1).putVariant ⟨i, target, false⟩).set R.CHART_VARIANT_STATUS st).set R.CHART_VARIANT_APPLY_AT_STEP
    (target.getD 0xFFFFFFFF)

theorem State.commitVariant_shows (s : State) (i : Nat) (target : Option Nat) (st : Nat) :
    (s.commitVariant i target st).rf R.CHART_VARIANT_INDEX = s.rf R.CHART_VARIANT_INDEX ∧
    (s.commitVariant i target st).rf R.CHART_VARIANT_OUTCOME = 1 ∧
    (s.commitVariant i target st).rf R.CHART_VARIANT_STATUS = st % 2 ^ 8 ∧
    (s.commitVariant i target st).rf R.CHART_VARIANT_APPLY_AT_STEP = target.getD 0xFFFFFFFF % 2 ^ 32 ∧
    (s.commitVariant i target st).chart =
      { s.chart with variants := s.chart.variants.filter (fun x => x.target != target) ++ [⟨i, target, false⟩] } := by
  have hput : ∀ f, ((s.set R.CHART_VARIANT_OUTCOME 1).putVariant ⟨i, target, false⟩).rf f = (s.set R.CHART_VARIANT_OUTCOME 1).rf f :=
    fun _ => rfl
  unfold State.commitVariant
  refine ⟨?_, ?_, ?_, State.rf_set_same _ _ _, rfl⟩
  · iterate 2 rw [State.rf_set_of_ne _ _ _ _ (by decide)]
    rw [hput, State.rf_set_of_ne _ _ _ _ (by decide)]
  · iterate 2 rw [State.rf_set_of_ne _ _ _ _ (by decide)]
    rw [hput, State.rf_set_same]
    rfl
  · rw [State.rf_set_of_ne _ _ _ _ (by decide), State.rf_set_same]
    rfl

/-- A variant that the chart has is committed: early for the next launch, else for the bind-off that the request targets (R74, R78). -/
theorem State.requestVariant_commits (s : State) {c : Chart} (hc : s.chart.active = some c) (hi : s.rf R.CHART_VARIANT_INDEX < c.nvar) :
    s.requestVariant =
      if s.stopped || (s.phase == phARMED && decide (s.row + 2048 ≤ s.rf R.SYNC_LAUNCH_COUNT)) then
        (s.commitVariant (s.rf R.CHART_VARIANT_INDEX) none stOK).showAhead
      else s.commitVariant (s.rf R.CHART_VARIANT_INDEX) (some s.targetStep.1)
        (if s.targetStep.2 || s.phase == phARMED then stDEFERRED else stOK) := by
  unfold State.requestVariant
  simp only [hc, Nat.not_le.mpr hi, if_false]
  rfl

/-- Wherever a variant commit is accepted the index stands and the outcome is pending (R78). -/
theorem State.requestVariant_pending (s : State) {c : Chart} (hc : s.chart.active = some c) (hi : s.rf R.CHART_VARIANT_INDEX < c.nvar) :
    s.requestVariant.rf R.CHART_VARIANT_INDEX = s.rf R.CHART_VARIANT_INDEX ∧ s.requestVariant.rf R.CHART_VARIANT_OUTCOME = 1 := by
  have hshows := fun target st => s.commitVariant_shows (s.rf R.CHART_VARIANT_INDEX) target st
  rw [s.requestVariant_commits hc hi]
  split
  · rw [State.showAhead_chartReg _ _ (by decide), State.showAhead_chartReg _ _ (by decide)]
    exact ⟨(hshows _ _).1, (hshows _ _).2.1⟩
  · exact ⟨(hshows _ _).1, (hshows _ _).2.1⟩

/-- In IDLE and HOLD a variant commit waits for the launch (R78). -/
theorem State.requestVariant_stopped (s : State) {c : Chart} (hc : s.chart.active = some c) (hi : s.rf R.CHART_VARIANT_INDEX < c.nvar)
    (hs : s.stopped = true) : s.requestVariant.rf R.CHART_VARIANT_STATUS = stOK ∧ s.requestVariant.rf R.CHART_VARIANT_APPLY_AT_STEP = 0xFFFFFFFF ∧
      s.requestVariant.chart =
        { s.chart with variants := s.chart.variants.filter (fun x => x.target != none) ++ [⟨s.rf R.CHART_VARIANT_INDEX, none, false⟩] } := by
  obtain ⟨-, -, hstatus, happly, hchart⟩ := s.commitVariant_shows (s.rf R.CHART_VARIANT_INDEX) none stOK
  rw [s.requestVariant_commits hc hi, hs, Bool.true_or, if_pos rfl, State.showAhead_chartReg _ _ (by decide),
    State.showAhead_chartReg _ _ (by decide), State.showAhead_chart]
  exact ⟨hstatus, happly, hchart⟩

/-- In a step a variant commit targets the bind-off of R28, DEFERRED where that is not the step's own. -/
theorem State.requestVariant_inStep (s : State) {c : Chart} (hc : s.chart.active = some c) (hi : s.rf R.CHART_VARIANT_INDEX < c.nvar)
    (hs : s.inStep = true) : s.requestVariant =
      s.commitVariant (s.rf R.CHART_VARIANT_INDEX) (some s.targetStep.1) (if s.targetStep.2 then stDEFERRED else stOK) := by
  obtain ⟨hstop, harm⟩ := s.not_stopped_of_inStep hs
  rw [s.requestVariant_commits hc hi, hstop, beq_eq_false_iff_ne.mpr harm, Bool.false_and, Bool.or_false, Bool.or_false, if_neg Bool.false_ne_true]

/-- VARIANT_COMMIT_REQUEST writes the register and requests. -/
theorem exec_variantCommitRequest (s : State) (v : BitVec 64) (hreach : s.reach .host = true) :
    exec (.variantCommitRequest .host v) s =
      .next (s.regWrite 0x40040 (Wr.command v 2 1)).requestVariant := by
  refine congrArg Host.Outcome.next ((if_pos hreach).trans ?_)
  show s.writeVariant (Wr.command v 2 1) = _
  unfold State.writeVariant
  simp only [Wr.get_bit_set v 2 1 R.CHART_VARIANT_REQ rfl (by decide),
    Wr.get_bit_cleared v 2 1 R.CHART_VARIANT_WITHDRAW rfl (by decide) (by decide), if_true, Nat.zero_ne_one, if_false]

/-- A variant commit's index, and its target in IDLE and HOLD, before the commit deadline and from it on (R28, R74, R78). -/
theorem variantCommitRequest_targets (s : State) (v : BitVec 64) (c : Chart) (hreach : s.reach .host = true) (hc : s.chart.active = some c)
    (hi : bitsOf v.toNat 4 4 < c.nvar) :
    Runs (.variantCommitRequest .host v) s [.chartRegs, .stepRegs, .cluRegs, .faultRegs, .logRegs, .logRound, .chart] (fun t =>
      let i := bitsOf v.toNat 4 4
      let n := s.rf R.STEP_NUMBER_VALUE + (if s.row < s.deadline then 0 else 1)
      t.rf R.CHART_VARIANT_INDEX = i ∧ t.rf R.CHART_VARIANT_OUTCOME = 1 ∧
      (s.stopped = true → t.rf R.CHART_VARIANT_STATUS = stOK ∧ t.rf R.CHART_VARIANT_APPLY_AT_STEP = 0xFFFFFFFF ∧
        t.chart = { s.chart with variants := s.chart.variants.filter (fun x => x.target != none) ++ [⟨i, none, false⟩] }) ∧
      (s.inStep = true → t.rf R.CHART_VARIANT_STATUS = (if s.row < s.deadline then stOK else stDEFERRED) ∧
        t.rf R.CHART_VARIANT_APPLY_AT_STEP = n % 2 ^ 32 ∧
        t.chart = { s.chart with variants := s.chart.variants.filter (fun x => x.target != some n) ++ [⟨i, some n, false⟩] })) := by
  have hexec := exec_variantCommitRequest s v hreach
  have hd := s.regWrite_chart_does (off := 0x40040) (Wr.command v 2 1) (by decide)
  have hindex : (s.regWrite 0x40040 (Wr.command v 2 1)).rf R.CHART_VARIANT_INDEX = bitsOf v.toNat 4 4 :=
    (State.regWrite_field s (r := chartVariantRow) R.CHART_VARIANT_INDEX findReg_chartVariant (by decide) (by decide) (by decide)).trans
      (bitsOf_command v 2 1 4 4 (by decide) (by decide))
  generalize s.regWrite 0x40040 (Wr.command v 2 1) = u at hexec hd hindex
  have hsame := hd.sameTarget
  have hcu : u.chart.active = some c := by rw [hsame.chart, hc]
  have hiu : u.rf R.CHART_VARIANT_INDEX < c.nvar := hindex ▸ hi
  have hpending := u.requestVariant_pending hcu hiu
  have hstopped := u.requestVariant_stopped hcu hiu
  have hstep := u.requestVariant_inStep hcu hiu
  have hshows := u.commitVariant_shows
  rw [hindex] at hpending
  rw [hindex, hsame.chart, hsame.stopped] at hstopped
  rw [hindex, hsame.inStep] at hstep
  rw [hsame.chart] at hshows
  refine Runs.of hexec (State.requestVariant_does (μ := 1610637848) u (by decide) (hd.mono (by decide))) (by decide)
    ⟨hpending.1, hpending.2, hstopped, fun hs => ?_⟩
  rw [hstep hs, hsame.targetStep hs]
  by_cases hearly : s.row < s.deadline
  · rw [if_pos hearly, if_pos hearly, if_pos hearly]
    obtain ⟨-, -, hstatus, happly, hchart⟩ := hshows (bitsOf v.toNat 4 4) (some (s.rf R.STEP_NUMBER_VALUE)) stOK
    exact ⟨hstatus, happly, hchart⟩
  · rw [if_neg hearly, if_neg hearly, if_neg hearly]
    obtain ⟨-, -, hstatus, happly, hchart⟩ := hshows (bitsOf v.toNat 4 4) (some (s.rf R.STEP_NUMBER_VALUE + 1)) stDEFERRED
    exact ⟨hstatus, happly, hchart⟩

/-- The most recent variant commit, asked to withdraw: frozen it stays and DEFERRED says so, else it leaves (R76). -/
theorem State.withdrawVariant_shows (s : State) {d : PendCommit} (hlast : s.chart.variants.getLast? = some d) :
    (s.frozen d = true → s.withdrawVariant.rf R.CHART_VARIANT_STATUS = stDEFERRED ∧ s.withdrawVariant.chart = s.chart) ∧
    (s.frozen d = false → s.withdrawVariant.rf R.CHART_VARIANT_STATUS = stOK ∧ s.withdrawVariant.rf R.CHART_VARIANT_OUTCOME = 3 ∧
      s.withdrawVariant.chart = { s.chart with variants := s.chart.variants.filter (fun x => x != d) }) := by
  unfold State.withdrawVariant
  simp only [hlast]
  refine ⟨fun hfrozen => ?_, fun hfree => ?_⟩
  · rw [if_pos hfrozen]
    exact s.withdrawal_frozen _ (by decide) rfl
  · rw [if_neg (Bool.eq_false_iff.mp hfree)]
    exact State.withdrawal_free _ (by decide) (by decide) (by decide) rfl

/-- VARIANT_COMMIT_WITHDRAW writes the register and withdraws. -/
theorem exec_variantCommitWithdraw (s : State) (v : BitVec 64) (hreach : s.reach .host = true) :
    exec (.variantCommitWithdraw .host v) s =
      .next (s.regWrite 0x40040 (Wr.command v 1 2)).withdrawVariant := by
  refine congrArg Host.Outcome.next ((if_pos hreach).trans ?_)
  show s.writeVariant (Wr.command v 1 2) = _
  unfold State.writeVariant
  simp only [Wr.get_bit_set v 1 2 R.CHART_VARIANT_WITHDRAW rfl (by decide),
    Wr.get_bit_cleared v 1 2 R.CHART_VARIANT_REQ rfl (by decide) (by decide), if_true, Nat.zero_ne_one, if_false]

/-- The last variant commit withdraws unless it is frozen (R76). -/
theorem variantCommitWithdraw_withdraws (s : State) (v : BitVec 64) (d : PendCommit) (hreach : s.reach .host = true)
    (hlast : s.chart.variants.getLast? = some d) :
    Runs (.variantCommitWithdraw .host v) s [.chartRegs, .stepRegs, .cluRegs, .faultRegs, .logRegs, .logRound, .chart] (fun t =>
      (s.frozen d = true → t.rf R.CHART_VARIANT_STATUS = stDEFERRED ∧ t.chart = s.chart) ∧
      (s.frozen d = false → t.rf R.CHART_VARIANT_STATUS = stOK ∧ t.rf R.CHART_VARIANT_OUTCOME = 3 ∧
        t.chart = { s.chart with variants := s.chart.variants.filter (fun x => x != d) })) := by
  have hexec := exec_variantCommitWithdraw s v hreach
  have hd := s.regWrite_chart_does (off := 0x40040) (Wr.command v 1 2) (by decide)
  generalize s.regWrite 0x40040 (Wr.command v 1 2) = u at hexec hd
  refine Runs.of hexec (State.withdrawVariant_does (μ := 1610637848) u (by decide) (hd.mono (by decide))) (by decide) ?_
  have hshows := u.withdrawVariant_shows (d := d) (by rw [hd.sameTarget.chart, hlast])
  rwa [hd.frozen, hd.sameTarget.chart] at hshows

/-- Settles O15: chart commits requested and withdrawn, then variant commits, each by its own lemma. -/
theorem commitRequests : Obligations.CommitRequests :=
  ⟨chartCommitRequest_targets, chartCommitWithdraw_withdraws, variantCommitRequest_targets, variantCommitWithdraw_withdraws⟩

end Sys2Proof.Machine
end

section
/-! SUPPORT. O14: loading, validating and discarding a chart (R71 to R73, R380). -/

namespace Sys2Proof.Machine

/-! ## The staging area -/

/-- CHART_STAGED shows whether a chart is staged. -/
theorem State.showStaged_valid (s : State) (c : Option Chart) :
    (s.showStaged c).rf R.CHART_STAGED_VALID = if c.isSome then 1 else 0 := by
  unfold State.showStaged
  extract_lets
  rw [State.rf_set_of_ne _ _ _ _ (by decide), State.rf_set_same]
  split <;> rfl

/-- Showing the staged chart writes CHART_STAGED and CHART_STAGED_ID only. -/
theorem State.showStaged_rf (s : State) (c : Option Chart) (f : Fld) (hlo : f.lo < 64) (h : f.off ≠ 0x40010 ∧ f.off ≠ 0x40018) :
    (s.showStaged c).rf f = s.rf f := by
  have hstaged : ∀ g : Fld, g.off = 0x40010 → g.lo < 64 → f.key ≠ g.key := fun g hg hl => Fld.key_ne_of_off hlo hl (hg ▸ h.1)
  unfold State.showStaged
  extract_lets
  rw [State.rf_set_of_ne _ _ _ _ (Fld.key_ne_of_off hlo (by decide) h.2)]
  iterate 6 rw [State.rf_set_of_ne _ _ _ _ (hstaged _ rfl (by decide))]

/-- The voltage that the device asks for next (R449). -/
def State.wantedMv (s : State) : Nat :=
  let act := match s.chart.active with | some c => c.fclk | none => 0
  let stg := match s.chart.staged with | some c => c.fclk | none => 0
  let need := Config.needMv (max (max (s.rf R.PWR_CLOCK_FCLK_MHZ) act) (max stg s.pwr.readyFclk))
  if s.rf R.PWR_AVS_REQ_MV < need then need else if s.stopped then need else s.rf R.PWR_AVS_REQ_MV

/-- The request depends on the charts in place and staged, on what the clocks ran at, on the last request and on whether the device stands. -/
theorem State.wantedMv_congr {s t : State} (hactive : t.chart.active = s.chart.active) (hstaged : t.chart.staged = s.chart.staged)
    (hpwr : t.pwr = s.pwr) (hphase : t.phase = s.phase) (hclk : t.rf R.PWR_CLOCK_FCLK_MHZ = s.rf R.PWR_CLOCK_FCLK_MHZ)
    (hreq : t.rf R.PWR_AVS_REQ_MV = s.rf R.PWR_AVS_REQ_MV) : t.wantedMv = s.wantedMv := by
  unfold State.wantedMv State.stopped
  rw [hactive, hstaged, hpwr, hphase, hclk, hreq]

/-- The board hears of a voltage request that differs from the last one (R449). -/
theorem State.avs_sent (s : State) : s.avs.sent = if s.wantedMv = s.rf R.PWR_AVS_REQ_MV then s.sent else s.sent ++ [.inBand 1] := by
  unfold State.avs
  extract_lets _ _ _ _ u old new _
  have hold : old = s.rf R.PWR_AVS_REQ_MV := s.rf_set_of_ne _ _ _ (by decide)
  have hphase : u.phase = s.phase := s.rf_set_of_ne _ _ _ (by decide)
  have hnew : new = s.wantedMv := by
    simp only [new, hold, State.stopped, hphase]
    rfl
  rw [← hnew, ← hold]
  split <;> rfl

/-- The staging area emptied, before the voltage request follows. -/
def State.stageCleared (s : State) : State :=
  ({ s with chart := { s.chart with staged := none, image := [] } }).showStaged none

theorem State.stageCleared_does (s : State) : Does 8 { s with chart := { s.chart with staged := none, image := [] } } s.stageCleared :=
  State.showStaged_does _ none (by decide) (Does.rfl' _ _)

/-- A staging area emptied: no image and no chart in it, CHART_STAGED without a chart; all else is the voltage request (R73, R449). -/
theorem State.dropStaged_shows (s : State) :
    s.dropStaged.chart = { s.chart with staged := none, image := [] } ∧ s.dropStaged.rf R.CHART_STAGED_VALID = 0 ∧
    s.dropStaged.host = s.host := by
  have havs : Does 4194308 s.stageCleared s.dropStaged := State.avs_does _ (by decide) (Does.rfl' _ _)
  exact ⟨(havs.frame .chart (by decide)).trans (s.stageCleared_does.frame .chart (by decide)),
    (havs.rf _ (by decide)).trans (State.showStaged_valid _ none),
    (havs.frame .host (by decide)).trans (s.stageCleared_does.frame .host (by decide))⟩

/-- A staging area emptied leaves the registers but CHART_STAGED, CHART_STAGED_ID and PWR_AVS. -/
theorem State.dropStaged_rf (s : State) (f : Fld) (hlo : f.lo < 64) (h : f.off ≠ 0x40010 ∧ f.off ≠ 0x40018 ∧ f.off ≠ 0x20018) :
    s.dropStaged.rf f = s.rf f :=
  (State.avs_rf _ f ⟨h.2.2, hlo⟩).trans (State.showStaged_rf _ none f hlo ⟨h.1, h.2.1⟩)

/-- Emptying the staging area sends what it would have sent before a register of CHART was written. -/
theorem Does.dropStaged_sent {s t : State} (h : Does chartWriteParts s t) : t.dropStaged.sent = s.dropStaged.sent := by
  have hs := h.sameTarget
  have hkeeps : ∀ (u : State) (f : Fld), f.lo < 64 → f.off ≠ 0x40010 ∧ f.off ≠ 0x40018 → u.stageCleared.rf f = u.rf f :=
    fun u f => State.showStaged_rf _ none f
  have hrf : ∀ f : Fld, f.lo < 64 → f.off ≠ 0x40010 ∧ f.off ≠ 0x40018 → chartWriteParts.testBit f.blk = false →
      t.stageCleared.rf f = s.stageCleared.rf f := fun f hlo hoff hb => by rw [hkeeps t f hlo hoff, hkeeps s f hlo hoff, h.rf f hb]
  have hbeside : ∀ u : State, u.stageCleared.chart = { u.chart with staged := none, image := [] } ∧ u.stageCleared.pwr = u.pwr ∧
      u.stageCleared.sent = u.sent := fun u =>
    ⟨u.stageCleared_does.frame .chart (by decide), u.stageCleared_does.frame .power (by decide), u.stageCleared_does.frame .sent (by decide)⟩
  have hreq := hrf R.PWR_AVS_REQ_MV (by decide) (by decide) (by decide)
  have hwant : t.stageCleared.wantedMv = s.stageCleared.wantedMv :=
    State.wantedMv_congr (by rw [(hbeside t).1, (hbeside s).1, hs.chart]) (by rw [(hbeside t).1, (hbeside s).1])
      (by rw [(hbeside t).2.1, (hbeside s).2.1, h.frame .power (by decide)]) (hrf _ (by decide) (by decide) (by decide))
      (hrf _ (by decide) (by decide) (by decide)) hreq
  show t.stageCleared.avs.sent = s.stageCleared.avs.sent
  rw [State.avs_sent, State.avs_sent, hwant, hreq, (hbeside t).2.2, (hbeside s).2.2, h.frame .sent (by decide)]

/-! ## CHART_LOAD -/

/-- The row of CHART_LOAD_CTRL in the Register list (R84). -/
def chartLoadCtrlRow : RegRow :=
  ⟨0x40028, 1, 0, 64, [⟨32, 32, .rw, .host⟩, ⟨2, 1, .wo, .host⟩, ⟨1, 1, .wo, .host⟩, ⟨0, 1, .wo, .host⟩]⟩

theorem findReg_chartLoadCtrl : findReg 0x40028 = some chartLoadCtrlRow := findReg_of_alone (by decide +kernel) (by decide)

/-- A load accepted, before the image is asked for: the staging area is empty, CHART_LOAD_STATUS shows LOADING with no failure (R72). -/
def State.loadBegun (s : State) (n : Nat) : State :=
  let s := s.dropStaged
  let s := { s with chart := { s.chart with loadBytes := n } }
  let s := ((s.set R.CHART_LOAD_STATUS_STATE 1).set R.CHART_LOAD_STATUS_STATUS stOK).set R.CHART_LOAD_STATUS_RULE 0
  (s.set R.CHART_LOAD_STATUS_SECTION 0).set R.CHART_LOAD_STATUS_OFFSET 0

/-- A load that is not refused asks the host for the image (R71, R72). -/
theorem State.beginLoad_accepted (s : State) (h : s.loadRefused (s.rf R.CHART_LOAD_CTRL_BYTES) = false) :
    s.beginLoad = (s.loadBegun (s.rf R.CHART_LOAD_CTRL_BYTES)).emitHost
      (.busRead 16384 0 (s.rf R.CHART_LOAD_SRC_ADDR) (s.rf R.CHART_LOAD_CTRL_BYTES)) := by
  have hsrc : (s.loadBegun (s.rf R.CHART_LOAD_CTRL_BYTES)).rf R.CHART_LOAD_SRC_ADDR = s.rf R.CHART_LOAD_SRC_ADDR := by
    unfold State.loadBegun
    iterate 5 rw [State.rf_set_of_ne _ _ _ _ (by decide)]
    exact s.dropStaged_rf _ (by decide) (by decide)
  refine (if_neg (Bool.eq_false_iff.mp h)).trans ?_
  rw [← hsrc]
  rfl

/-- What a load accepted leaves in the registers and beside them. -/
theorem State.loadBegun_shows (s : State) (n : Nat) :
    (s.loadBegun n).rf R.CHART_LOAD_STATUS_STATE = 1 ∧ (s.loadBegun n).rf R.CHART_LOAD_STATUS_STATUS = stOK ∧
    (s.loadBegun n).rf R.CHART_STAGED_VALID = 0 ∧ (s.loadBegun n).rf R.HQ_LINK_BME = s.rf R.HQ_LINK_BME ∧
    (s.loadBegun n).chart = { s.chart with staged := none, image := [], loadBytes := n } ∧ (s.loadBegun n).sent = s.dropStaged.sent ∧
    (s.loadBegun n).host = s.host := by
  obtain ⟨hchart, hvalid, hhost⟩ := s.dropStaged_shows
  unfold State.loadBegun
  refine ⟨?_, ?_, ?_, ?_, ?_, ?_, ?_⟩
  · iterate 4 rw [State.rf_set_of_ne _ _ _ _ (by decide)]
    exact State.rf_set_same _ _ _
  · iterate 3 rw [State.rf_set_of_ne _ _ _ _ (by decide)]
    exact State.rf_set_same _ _ _
  · iterate 5 rw [State.rf_set_of_ne _ _ _ _ (by decide)]
    exact hvalid
  · iterate 5 rw [State.rf_set_of_ne _ _ _ _ (by decide)]
    exact s.dropStaged_rf _ (by decide) (by decide)
  · simp only [State.set_chart, hchart]
  · simp only [State.set_sent]
  · simp only [State.set_host, hhost]

/-- With Bus Master Enable set a request of the host goes out at once; else it is held, and a chart's read counts as held (R380). -/
theorem State.emitHost_chartRead (s : State) (seq addr n : Nat) :
    (s.rf R.HQ_LINK_BME = 1 → (s.emitHost (.busRead 16384 seq addr n)).sent = s.sent ++ [.busRead 16384 seq addr n] ∧
      (s.emitHost (.busRead 16384 seq addr n)).host = s.host) ∧
    (s.rf R.HQ_LINK_BME ≠ 1 → (s.emitHost (.busRead 16384 seq addr n)).sent = s.sent ∧
      (s.emitHost (.busRead 16384 seq addr n)).fetchHeld = true) := by
  unfold State.emitHost
  refine ⟨fun h => ?_, fun h => ?_⟩
  · rw [if_pos h]
    exact ⟨rfl, rfl⟩
  · rw [if_neg h]
    exact ⟨rfl, by simp [State.fetchHeld]⟩

/-- CHART_LOAD writes the register and loads. -/
theorem exec_chartLoad (s : State) (v : BitVec 64) (hreach : s.reach .host = true) :
    exec (.chartLoad .host v) s = .next (s.regWrite 0x40028 (Wr.command v 6 1)).beginLoad := by
  refine congrArg Host.Outcome.next ((if_pos hreach).trans ?_)
  show s.writeLoadCtrl (Wr.command v 6 1) = _
  unfold State.writeLoadCtrl
  simp only [Wr.get_bit_set v 6 1 R.CHART_LOAD_CTRL_LOAD rfl (by decide),
    Wr.get_bit_cleared v 6 1 R.CHART_LOAD_CTRL_DISCARD rfl (by decide) (by decide),
    Wr.get_bit_cleared v 6 1 R.CHART_LOAD_CTRL_UNINSTALL rfl (by decide) (by decide), if_true, Nat.zero_ne_one, if_false]

/-- A write of CHART_LOAD_CTRL leaves the registers around it. -/
theorem State.writeLoadCtrl_other (s : State) (v c d : BitVec 64) (f : Fld) (h : f.notLog = true) (hne : f.key / 64 ≠ 0x40028) :
    (s.regWrite 0x40028 (Wr.command v c d)).rf f = s.rf f :=
  State.regWrite_other s f findReg_chartLoadCtrl (by decide) h hne

/-- A load that is not refused empties the staging area and asks the host for the image (R71, R72, R380). -/
theorem chartLoad_loads (s : State) (v : BitVec 64) (hreach : s.reach .host = true) (haccepted : s.loadRefused (bitsOf v.toNat 32 32) = false) :
    Runs (.chartLoad .host v) s [.pwrRegs, .chartRegs, .faultRegs, .logRegs, .sent, .logRound, .chart, .host] (fun t =>
      let n := bitsOf v.toNat 32 32
      t.rf R.CHART_LOAD_STATUS_STATE = 1 ∧ t.rf R.CHART_LOAD_STATUS_STATUS = stOK ∧
      t.chart = { s.chart with staged := none, image := [], loadBytes := n } ∧ t.rf R.CHART_STAGED_VALID = 0 ∧
      (s.rf R.HQ_LINK_BME = 1 → t.sent = s.dropStaged.sent ++ [.busRead 16384 0 (s.rf R.CHART_LOAD_SRC_ADDR) n] ∧ t.host = s.host) ∧
      (s.rf R.HQ_LINK_BME ≠ 1 → t.sent = s.dropStaged.sent ∧ t.fetchHeld = true)) := by
  have hexec := exec_chartLoad s v hreach
  have hd := s.regWrite_chart_does (off := 0x40028) (Wr.command v 6 1) (by decide)
  have hbytes : (s.regWrite 0x40028 (Wr.command v 6 1)).rf R.CHART_LOAD_CTRL_BYTES = bitsOf v.toNat 32 32 :=
    (State.regWrite_field s (r := chartLoadCtrlRow) R.CHART_LOAD_CTRL_BYTES findReg_chartLoadCtrl (by decide) (by decide) (by decide)).trans
      (bitsOf_command v 6 1 32 32 (by decide) (by decide))
  have hstate := s.writeLoadCtrl_other v 6 1 R.CHART_LOAD_STATUS_STATE (by decide) (by decide)
  have hsrc := s.writeLoadCtrl_other v 6 1 R.CHART_LOAD_SRC_ADDR (by decide) (by decide)
  generalize s.regWrite 0x40028 (Wr.command v 6 1) = u at hexec hd hbytes hstate hsrc
  have hchart := hd.sameTarget.chart
  have hrefused : u.loadRefused (u.rf R.CHART_LOAD_CTRL_BYTES) = false := by
    rw [hbytes, ← haccepted]
    unfold State.loadRefused
    rw [hstate, hchart]
  have hbegin := u.beginLoad_accepted hrefused
  obtain ⟨hst, hstatus, hvalid, hbme, hcharts, hsent, hhost⟩ := u.loadBegun_shows (u.rf R.CHART_LOAD_CTRL_BYTES)
  obtain ⟨hout, hheld⟩ := (u.loadBegun (u.rf R.CHART_LOAD_CTRL_BYTES)).emitHost_chartRead 0 (u.rf R.CHART_LOAD_SRC_ADDR)
    (u.rf R.CHART_LOAD_CTRL_BYTES)
  have hemit := State.emitHost_does (μ := 2199027449856) (u.loadBegun (u.rf R.CHART_LOAD_CTRL_BYTES))
    (.busRead 16384 0 (u.rf R.CHART_LOAD_SRC_ADDR) (u.rf R.CHART_LOAD_CTRL_BYTES)) (by decide) (Does.rfl' _ _)
  have hdoes : Does 2200638087180 s u.beginLoad := State.beginLoad_does u (by decide) (hd.mono (by decide))
  rw [hbegin] at hexec hdoes
  rw [hbme, hd.rf R.HQ_LINK_BME (by decide), hsent, hhost, hd.dropStaged_sent, hd.frame .host (by decide)] at hout
  rw [hbme, hd.rf R.HQ_LINK_BME (by decide), hsent, hd.dropStaged_sent] at hheld
  rw [hchart] at hcharts
  rw [hsrc, hbytes] at hexec hdoes hemit hout hheld
  rw [hbytes] at hst hstatus hvalid hcharts
  refine Runs.of hexec hdoes (by decide) ⟨?_, ?_, ?_, ?_, hout, hheld⟩
  · exact (State.emitHost_rf _ _ _).trans hst
  · exact (State.emitHost_rf _ _ _).trans hstatus
  · exact (hemit.frame .chart (by decide)).trans hcharts
  · exact (State.emitHost_rf _ _ _).trans hvalid

/-! ## CHART_FETCH_DONE and CHART_VALIDATION_DONE -/

/-- An image in the staging area, as much of it as the area holds, to be validated (R71). -/
def State.imageStaged (s : State) (b : List Byte) : State :=
  let t := { s with chart := { s.chart with image := b } }
  (t.writeMem s.stageSpace.1 (clean (b.take s.stageSpace.2))).set R.CHART_LOAD_STATUS_STATE 2

theorem State.imageStaged_does (s : State) (b : List Byte) : Does 18256764936 s (s.imageStaged b) :=
  Does.set _ _ _ (by decide) (State.writeMem_does _ _ _ (by decide) (Does.upd_chart s _ (by decide) (Does.rfl' _ s)))

/-- The image that arrives is staged, as long as LOAD said, and validation begins (R71, R72). -/
theorem chartFetchDone_stages (s : State) (image : List Byte) (hstate : s.rf R.CHART_LOAD_STATUS_STATE = 1) (hheld : s.fetchHeld = false) :
    Runs (.chartFetchDone image) s [.chartRegs, .faultRegs, .memory, .marks, .chart, .fault] (fun t =>
      t.rf R.CHART_LOAD_STATUS_STATE = 2 ∧ t.chart = { s.chart with image := sliceB image 0 s.chart.loadBytes }) := by
  have hexec : exec (.chartFetchDone image) s = .next (s.imageStaged (sliceB image 0 s.chart.loadBytes)) :=
    congrArg Host.Outcome.next (if_neg (by simp [hstate, hheld]))
  exact Runs.of hexec (s.imageStaged_does _) (by decide)
    ⟨State.rf_set_same _ _ _, (State.writeMem_does (μ := 17183023104) _ _ _ (by decide) (Does.rfl' _ _)).frame .chart (by decide)⟩

/-- A chart that passes every check is staged and VALID (R69, R71). -/
def State.chartValid (s : State) (c : Chart) : State :=
  let s := { s with chart := { s.chart with staged := some c } }
  (((s.showStaged (some c)).set R.CHART_LOAD_STATUS_STATE 3).set R.CHART_LOAD_STATUS_STATUS stOK).avs

theorem State.chartValid_shows (s : State) (c : Chart) :
    (s.chartValid c).rf R.CHART_LOAD_STATUS_STATE = 3 ∧ (s.chartValid c).rf R.CHART_LOAD_STATUS_STATUS = stOK ∧
    (s.chartValid c).chart = { s.chart with staged := some c } ∧ (s.chartValid c).rf R.CHART_STAGED_VALID = 1 := by
  unfold State.chartValid
  extract_lets _ u
  have hu : Does 8 u (u.showStaged (some c)) := State.showStaged_does _ _ (by decide) (Does.rfl' _ _)
  refine ⟨?_, ?_, ?_, ?_⟩
  · rw [State.avs_rf _ _ (by decide), State.rf_set_of_ne _ _ _ _ (by decide), State.rf_set_same]
    rfl
  · rw [State.avs_rf _ _ (by decide), State.rf_set_same]
    rfl
  · refine ((State.avs_does (μ := 4194308) _ (by decide) (Does.rfl' _ _)).frame .chart (by decide)).trans ?_
    exact hu.frame .chart (by decide)
  · rw [State.avs_rf _ _ (by decide), State.rf_set_of_ne _ _ _ _ (by decide), State.rf_set_of_ne _ _ _ _ (by decide), State.showStaged_valid]
    rfl

/-- A chart that fails a check is INVALID, with the check and the place of its first failure (R69, R71). -/
theorem State.loadInvalid_shows (s : State) (c : Chart) (rule sec off : Nat) :
    (s.loadInvalid c rule sec off).rf R.CHART_LOAD_STATUS_STATE = 4 ∧ (s.loadInvalid c rule sec off).chart = s.chart ∧
    (s.loadInvalid c rule sec off).rf R.CHART_LOAD_STATUS_RULE = rule % 2 ^ 16 ∧
    (s.loadInvalid c rule sec off).rf R.CHART_LOAD_STATUS_SECTION = sec % 16 ∧
    (s.loadInvalid c rule sec off).rf R.CHART_LOAD_STATUS_OFFSET = off % 2 ^ 28 := by
  refine ⟨?_, (State.loadInvalid_does (μ := 536895496) s c rule sec off (by decide) (Does.rfl' _ _)).frame .chart (by decide), ?_, ?_, ?_⟩ <;>
    refine (State.logEv_rf _ _ _ _ _ _ _ (by decide)).trans ?_
  · iterate 4 rw [State.rf_set_of_ne _ _ _ _ (by decide)]
    exact State.rf_set_same _ _ _
  · iterate 3 rw [State.rf_set_of_ne _ _ _ _ (by decide)]
    exact State.rf_set_same _ _ _
  · iterate 2 rw [State.rf_set_of_ne _ _ _ _ (by decide)]
    exact State.rf_set_same _ _ _
  · rw [State.rf_set_of_ne _ _ _ _ (by decide)]
    exact State.rf_set_same _ _ _

/-- CHART_VALIDATION_DONE: the first failing check, or none, decides. -/
theorem exec_chartValidationDone (s : State) (hstate : s.rf R.CHART_LOAD_STATUS_STATE = 2) :
    exec .chartValidationDone s = .next (match s.firstFailing (Chart.parse s.chart.image) 25 1 with
      | some (rule, sec, off) => s.loadInvalid (Chart.parse s.chart.image) rule sec off
      | none => s.chartValid (Chart.parse s.chart.image)) :=
  congrArg Host.Outcome.next (if_neg (not_not.mpr hstate))

/-- Validation ends with the image VALID and staged, or INVALID with the first failing check (R69, R71). -/
theorem chartValidationDone_validates (s : State) (hstate : s.rf R.CHART_LOAD_STATUS_STATE = 2) :
    Runs .chartValidationDone s [.pwrRegs, .chartRegs, .faultRegs, .logRegs, .sent, .logRound, .chart] (fun t =>
      let c := Chart.parse s.chart.image
      (s.firstFailing c 25 1 = none → t.rf R.CHART_LOAD_STATUS_STATE = 3 ∧ t.rf R.CHART_LOAD_STATUS_STATUS = stOK ∧
        t.chart = { s.chart with staged := some c } ∧ t.rf R.CHART_STAGED_VALID = 1) ∧
      (∀ rule sec off, s.firstFailing c 25 1 = some (rule, sec, off) → t.rf R.CHART_LOAD_STATUS_STATE = 4 ∧ t.chart = s.chart ∧
        t.rf R.CHART_LOAD_STATUS_RULE = rule % 2 ^ 16 ∧ t.rf R.CHART_LOAD_STATUS_SECTION = sec % 16 ∧
        t.rf R.CHART_LOAD_STATUS_OFFSET = off % 2 ^ 28)) := by
  have hexec := exec_chartValidationDone s hstate
  refine Runs.of hexec (execChartValidationDone_does _ _ hexec) (by decide) ⟨fun hpass => ?_, fun rule sec off hfail => ?_⟩
  · rw [hpass]
    exact s.chartValid_shows _
  · rw [hfail]
    exact s.loadInvalid_shows _ rule sec off

/-! ## CHART_DISCARD -/

/-- CHART_DISCARD writes the register and discards. -/
theorem exec_chartDiscard (s : State) (v : BitVec 64) (hreach : s.reach .host = true) :
    exec (.chartDiscard .host v) s = .next (s.regWrite 0x40028 (Wr.command v 5 2)).discardImage := by
  refine congrArg Host.Outcome.next ((if_pos hreach).trans ?_)
  show s.writeLoadCtrl (Wr.command v 5 2) = _
  unfold State.writeLoadCtrl
  simp only [Wr.get_bit_cleared v 5 2 R.CHART_LOAD_CTRL_LOAD rfl (by decide) (by decide),
    Wr.get_bit_set v 5 2 R.CHART_LOAD_CTRL_DISCARD rfl (by decide),
    Wr.get_bit_cleared v 5 2 R.CHART_LOAD_CTRL_UNINSTALL rfl (by decide) (by decide), if_true, Nat.zero_ne_one, if_false]

/-- With no commit pending and no load under way a discard empties the staging area (R73). -/
theorem State.discardImage_accepted (s : State) (hcommits : s.chart.commits = []) (hstate : s.rf R.CHART_LOAD_STATUS_STATE ≠ 1) :
    s.discardImage = s.dropStaged.set R.CHART_LOAD_STATUS_STATE 0 :=
  if_neg (by simp [hcommits, hstate])

/-- A discard empties the staging area (R73). -/
theorem chartDiscard_discards (s : State) (v : BitVec 64) (hreach : s.reach .host = true) (hcommits : s.chart.commits = [])
    (hstate : s.rf R.CHART_LOAD_STATUS_STATE ≠ 1) :
    Runs (.chartDiscard .host v) s [.pwrRegs, .chartRegs, .faultRegs, .logRegs, .sent, .logRound, .chart] (fun t =>
      t.rf R.CHART_LOAD_STATUS_STATE = 0 ∧ t.chart = { s.chart with staged := none, image := [] } ∧ t.rf R.CHART_STAGED_VALID = 0 ∧
      t.sent = s.dropStaged.sent) := by
  have hexec := exec_chartDiscard s v hreach
  have hd := s.regWrite_chart_does (off := 0x40028) (Wr.command v 5 2) (by decide)
  have hst := s.writeLoadCtrl_other v 5 2 R.CHART_LOAD_STATUS_STATE (by decide) (by decide)
  generalize s.regWrite 0x40028 (Wr.command v 5 2) = u at hexec hd hst
  have hchart := hd.sameTarget.chart
  have hdoes : Does 1614831628 s u.discardImage := State.discardImage_does u (by decide) (hd.mono (by decide))
  rw [u.discardImage_accepted (by rw [hchart, hcommits]) (hst.trans_ne hstate)] at hexec hdoes
  obtain ⟨hcharts, hvalid, -⟩ := u.dropStaged_shows
  exact Runs.of hexec hdoes (by decide)
    ⟨State.rf_set_same _ _ _, hcharts.trans (by rw [hchart]), (State.rf_set_of_ne _ _ _ _ (by decide)).trans hvalid, hd.dropStaged_sent⟩

/-! ## CHART_UNINSTALL -/

/-- CHART_ACTIVE shows whether a chart is in place. -/
theorem State.showActive_valid (s : State) : s.showActive.rf R.CHART_ACTIVE_VALID = if s.chart.active.isSome then 1 else 0 := by
  unfold State.showActive
  extract_lets
  rw [State.rf_set_of_ne _ _ _ _ (by decide), State.rf_set_same]
  split <;> rfl

theorem State.logEv_step (s : State) (st src unit detail aux : Nat) : (s.logEv st src unit detail aux).step = s.step :=
  (State.logEv_does (μ := 536895488) s _ _ _ _ _ (by decide) (Does.rfl' _ s)).frame .step (by decide)

/-- Requests for swatches that are dropped leave none (R29). -/
theorem State.dropSwatches_swatches (s : State) : s.dropSwatches.step.swatches = [] := by
  unfold State.dropSwatches
  split
  · exact List.isEmpty_iff.mp ‹_›
  · simp only [State.logEv_step, State.set_step]

@[simp] theorem State.resetRebase_chart (s : State) : s.resetRebase.chart = s.chart := rfl

@[simp] theorem State.resetRebase_step (s : State) : s.resetRebase.step = s.step := rfl

/-- What an uninstall takes away with the chart in place: the map, the pages and the contexts that are not of the runtime, the requests for
swatches (R73). -/
def State.chartCleared (s : State) (c : Chart) : State :=
  let s := s.rebuildMap none
  let s := s.forget s.runtimeHbm
  let s := s.forEach (s.usedCtx.foldl (fun l n => NSet.ins n l) (upTo (c.cnt 3))) State.dropContext
  s.dropSwatches.resetRebase

/-- The device without a chart: in IDLE, with CHART_ACTIVE, the tier's figures and the voltage request after it (R73). -/
def State.chartRemoved (s : State) : State :=
  let s := { s with chart := { s.chart with active := none }, tier := { s.tier with sel := [], dirty := [] } }
  let s := { s with step := { s.step with emergency := false } }
  let s := (s.set R.STEP_STATUS_PHASE phIDLE).set R.STEP_STATUS_HOLD_CAUSE 0
  s.showActive.showTier.avs

theorem State.uninstall_eq (s : State) {c : Chart} (hc : s.chart.active = some c) : s.uninstall = (s.chartCleared c).chartRemoved := by
  unfold State.uninstall
  rw [hc]
  rfl

theorem State.chartCleared_keeps (s : State) (c : Chart) :
    (s.chartCleared c).chart = s.chart ∧ (s.chartCleared c).step.swatches = [] := by
  unfold State.chartCleared
  extract_lets u v w
  have hw : Does 3196006196964 s w := Does.forEach _ _
    (State.forget_does u _ (by decide) (State.rebuildMap_does s _ (by decide) (Does.rfl' _ s)))
    (fun _ _ h => State.dropContext_does _ _ (by decide) h)
  have hdrop : Does 2684379152 w w.dropSwatches := State.dropSwatches_does w (by decide) (Does.rfl' _ w)
  have hchart : w.dropSwatches.chart = s.chart := (hdrop.frame .chart (by decide)).trans (hw.frame .chart (by decide))
  rw [State.resetRebase_chart, State.resetRebase_step]
  exact ⟨hchart, w.dropSwatches_swatches⟩

theorem State.chartRemoved_shows (s : State) :
    s.chartRemoved.chart = { s.chart with active := none } ∧ s.chartRemoved.phase = phIDLE ∧
    s.chartRemoved.rf R.STEP_STATUS_HOLD_CAUSE = 0 ∧ s.chartRemoved.rf R.CHART_ACTIVE_VALID = 0 ∧
    s.chartRemoved.step.swatches = s.step.swatches ∧ s.chartRemoved.tier.sel = [] ∧ s.chartRemoved.tier.dirty = [] := by
  unfold State.chartRemoved
  extract_lets _ _ u _ v w
  have hshow : Does 136 w w.showActive.showTier := State.showTier_does _ (by decide) (State.showActive_does w (by decide) (Does.rfl' _ w))
  have htier : Does 128 w.showActive w.showActive.showTier := State.showTier_does _ (by decide) (Does.rfl' _ _)
  have havs : Does 4194308 w.showActive.showTier w.showActive.showTier.avs := State.avs_does _ (by decide) (Does.rfl' _ _)
  have hstep : w.showActive.showTier.avs.step = { s.step with emergency := false } :=
    (havs.frame .step (by decide)).trans (hshow.frame .step (by decide))
  have htiers : w.showActive.showTier.avs.tier = { s.tier with sel := [], dirty := [] } :=
    (havs.frame .tier (by decide)).trans (hshow.frame .tier (by decide))
  have hrf : ∀ f : Fld, f.blk = 4 → w.showActive.showTier.avs.rf f = w.rf f := fun f hb =>
    (havs.rf f (by rw [hb]; decide)).trans (hshow.rf f (by rw [hb]; decide))
  refine ⟨(havs.frame .chart (by decide)).trans (hshow.frame .chart (by decide)), ?_, ?_, ?_, by rw [hstep], by rw [htiers], by rw [htiers]⟩
  · exact (hrf _ (by decide)).trans ((State.rf_set_of_ne _ _ _ _ (by decide)).trans (State.rf_set_same _ _ _))
  · exact (hrf _ (by decide)).trans (State.rf_set_same _ _ _)
  · exact (havs.rf _ (by decide)).trans ((htier.rf _ (by decide)).trans (State.showActive_valid w))

/-- CHART_UNINSTALL writes the register and uninstalls. -/
theorem exec_chartUninstall (s : State) (v : BitVec 64) (hreach : s.reach .host = true) :
    exec (.chartUninstall .host v) s = .next (s.regWrite 0x40028 (Wr.command v 3 4)).tryUninstall := by
  refine congrArg Host.Outcome.next ((if_pos hreach).trans ?_)
  show s.writeLoadCtrl (Wr.command v 3 4) = _
  unfold State.writeLoadCtrl
  simp only [Wr.get_bit_cleared v 3 4 R.CHART_LOAD_CTRL_LOAD rfl (by decide) (by decide),
    Wr.get_bit_cleared v 3 4 R.CHART_LOAD_CTRL_DISCARD rfl (by decide) (by decide),
    Wr.get_bit_set v 3 4 R.CHART_LOAD_CTRL_UNINSTALL rfl (by decide), if_true, Nat.zero_ne_one, if_false]

/-- In IDLE and HOLD, with nothing pending, an uninstall is carried out (R73). -/
theorem State.tryUninstall_accepted (s : State) (hs : s.stopped = true) (hcommits : s.chart.commits = []) (hvariants : s.chart.variants = []) :
    s.tryUninstall = s.uninstall :=
  if_neg (by simp [hs, hcommits, hvariants])

/-- An uninstall outside steps, with nothing pending, leaves the device without a chart, in IDLE (R73). -/
theorem chartUninstall_uninstalls (s : State) (v : BitVec 64) (c : Chart) (hreach : s.reach .host = true) (hs : s.stopped = true)
    (hcommits : s.chart.commits = []) (hvariants : s.chart.variants = []) (hc : s.chart.active = some c) :
    Runs (.chartUninstall .host v) s [.pwrRegs, .chartRegs, .stepRegs, .streamRegs, .hqRegs, .tierRegs, .cluRegs, .skeinRegs, .faultRegs, .logRegs,
        .memory, .sent, .free, .logRound, .chart, .step, .ledgers, .power, .tier, .streams, .host, .update]
      (fun t => t.chart = { s.chart with active := none } ∧ t.phase = phIDLE ∧ t.rf R.STEP_STATUS_HOLD_CAUSE = 0 ∧
        t.rf R.CHART_ACTIVE_VALID = 0 ∧ t.step.swatches = [] ∧ t.tier.sel = [] ∧ t.tier.dirty = []) := by
  have hexec := exec_chartUninstall s v hreach
  have hd := s.regWrite_chart_does (off := 0x40028) (Wr.command v 3 4) (by decide)
  have hdoes := execChartUninstall_does _ _ _ _ hexec
  generalize s.regWrite 0x40028 (Wr.command v 3 4) = u at hexec hd hdoes
  have hchart := hd.sameTarget.chart
  refine Runs.of hexec hdoes (by decide) ?_
  rw [u.tryUninstall_accepted (hd.sameTarget.stopped.trans hs) (by rw [hchart, hcommits]) (by rw [hchart, hvariants]),
    u.uninstall_eq (c := c) (by rw [hchart, hc])]
  obtain ⟨hkeeps, hswatches⟩ := u.chartCleared_keeps c
  have hshows := (u.chartCleared c).chartRemoved_shows
  rwa [hkeeps, hswatches, hchart] at hshows

/-- Settles O14: a load, the arrival of its image, the end of validation, a discard and an uninstall, each by its own lemma. -/
theorem chartLoading : Obligations.ChartLoading :=
  ⟨chartLoad_loads, chartFetchDone_stages, chartValidationDone_validates, chartDiscard_discards, chartUninstall_uninstalls⟩

end Sys2Proof.Machine
end

section
/-! SUPPORT. O16: the staged chart installed (R69, R79, R82). -/

namespace Sys2Proof.Machine

/-! ## The parts of an install -/

/-- The new chart in its place: tier map, contexts, chart, program area, and the selectors of the pairs that live on (R79). -/
def State.chartPlaced (s : State) (c : Chart) : State :=
  let s := s.rebuildMap (some c)
  let s := match s.chart.active with | some a => s.clearContexts a | none => s
  let s := { s with chart := { s.chart with active := some c, staged := none, image := [] } }
  let s := s.forEach (upTo (c.cnt 3)) (fun s n => (s.dropContext n).loadImage n ((c.ctxImage n).getD []))
  let s := s.pokeOA c.progOA c.resident
  let live := c.pairs.map (fun (p : Nat × Nat × Nat × Nat) => (p.1 / 2 ^ 21, p.2.2.1))
  { s with tier := { s.tier with
    sel := s.tier.sel.filter (fun p => live.any (fun r => decide (r.1 ≤ p) && decide (p < r.1 + r.2))), dirty := [] } }

/-- The requests that name the old chart ended, and the install noted for the step (R77, R79). -/
def State.requestsEnded (s : State) : State :=
  let s := (s.dropVariants.dropSwatches).resetRebase
  { s with step := { s.step with installed := true } }

/-- The install shown: an empty staging area, the chart in place, the tier's figures, the flash rate and the voltage request (R79). -/
def State.installShown (s : State) : State :=
  (((s.showStaged none).showActive.set R.CHART_LOAD_STATUS_STATE 0).showTier).fullRate.avs

theorem State.installChart_eq (s : State) (c : Chart) : s.installChart c = (s.chartPlaced c).requestsEnded.installShown := by
  unfold State.installChart
  rfl

theorem State.chartPlaced_shows (s : State) (c : Chart) :
    (s.chartPlaced c).chart = { s.chart with active := some c, staged := none, image := [] } ∧ (s.chartPlaced c).tier.dirty = [] := by
  unfold State.chartPlaced
  extract_lets u v _ w x y
  have hu : Does 825170616480 s u := State.rebuildMap_does s _ (by decide) (Does.rfl' _ s)
  have hv : Does 825170616480 s v := by
    simp only [v]
    split
    · exact State.clearContexts_does u _ (by decide) hu
    · exact hu
  have hvw : w.chart = { v.chart with active := some c, staged := none, image := [] } := rfl
  have hx : Does 2920581957220 w x := Does.forEach _ _ (Does.rfl' _ w) (fun _ _ h =>
    State.loadImage_does _ _ _ (by decide) (State.dropContext_does _ _ (by decide) h))
  have hy : Does 51542761472 x y := State.pokeOA_does x _ _ (by decide) (Does.rfl' _ x)
  have hchart : y.chart = w.chart := (hy.frame .chart (by decide)).trans (hx.frame .chart (by decide))
  rw [hvw, hv.frame .chart (by decide)] at hchart
  exact ⟨hchart, rfl⟩

theorem State.dropVariants_chart (s : State) : s.dropVariants.chart = { s.chart with variants := [] } := by
  unfold State.dropVariants
  split
  · rw [← List.isEmpty_iff.mp ‹_›]
  · rfl

theorem State.requestsEnded_shows (s : State) :
    s.requestsEnded.chart = { s.chart with variants := [] } ∧ s.requestsEnded.step.installed = true ∧ s.requestsEnded.step.swatches = [] ∧
    s.requestsEnded.tier = s.tier := by
  have hvariants : Does 1073741832 s s.dropVariants := State.dropVariants_does s (by decide) (Does.rfl' _ s)
  have hswatches : Does 2684379152 s.dropVariants s.dropVariants.dropSwatches := State.dropSwatches_does _ (by decide) (Does.rfl' _ _)
  have hchart : s.dropVariants.dropSwatches.chart = { s.chart with variants := [] } :=
    (hswatches.frame .chart (by decide)).trans s.dropVariants_chart
  have htier : s.dropVariants.dropSwatches.tier = s.tier := (hswatches.frame .tier (by decide)).trans (hvariants.frame .tier (by decide))
  exact ⟨hchart, rfl, s.dropVariants.dropSwatches_swatches, htier⟩

theorem State.installShown_shows (s : State) :
    s.installShown.chart = s.chart ∧ s.installShown.step = s.step ∧ s.installShown.tier = s.tier ∧
    s.installShown.rf R.CHART_LOAD_STATUS_STATE = 0 ∧ s.installShown.rf R.CHART_ACTIVE_VALID = if s.chart.active.isSome then 1 else 0 := by
  have hstaged : Does 8 s (s.showStaged none) := State.showStaged_does s none (by decide) (Does.rfl' _ s)
  have hactive : Does 8 s (s.showStaged none).showActive := State.showActive_does _ (by decide) hstaged
  have hvalid := (s.showStaged none).showActive_valid
  rw [hstaged.frame .chart (by decide)] at hvalid
  unfold State.installShown
  generalize (s.showStaged none).showActive = u at hactive hvalid
  have hset : Does 8 s (u.set R.CHART_LOAD_STATUS_STATE 0) := Does.set _ _ _ (by decide) hactive
  have hstate : (u.set R.CHART_LOAD_STATUS_STATE 0).rf R.CHART_LOAD_STATUS_STATE = 0 := State.rf_set_same _ _ _
  have hshown : (u.set R.CHART_LOAD_STATUS_STATE 0).rf R.CHART_ACTIVE_VALID = u.rf R.CHART_ACTIVE_VALID := State.rf_set_of_ne _ _ _ _ (by decide)
  generalize u.set R.CHART_LOAD_STATUS_STATE 0 = v at hset hstate hshown
  have hrest : Does 4194692 v v.showTier.fullRate.avs :=
    State.avs_does _ (by decide) (State.fullRate_does _ (by decide) (State.showTier_does v (by decide) (Does.rfl' _ v)))
  exact ⟨(hrest.frame .chart (by decide)).trans (hset.frame .chart (by decide)),
    (hrest.frame .step (by decide)).trans (hset.frame .step (by decide)),
    (hrest.frame .tier (by decide)).trans (hset.frame .tier (by decide)), (hrest.rf _ (by decide)).trans hstate,
    (hrest.rf _ (by decide)).trans (hshown.trans hvalid)⟩

/-- An install replaces the chart in place by the staged one, whole, and ends the requests that name the old chart (R77, R79). -/
theorem State.installChart_shows (s : State) (c : Chart) :
    (s.installChart c).chart = { s.chart with active := some c, staged := none, image := [], variants := [] } ∧
    (s.installChart c).rf R.CHART_LOAD_STATUS_STATE = 0 ∧ (s.installChart c).rf R.CHART_ACTIVE_VALID = 1 ∧
    (s.installChart c).step.installed = true ∧ (s.installChart c).step.swatches = [] ∧ (s.installChart c).tier.dirty = [] := by
  obtain ⟨hplaced, hdirty⟩ := s.chartPlaced_shows c
  obtain ⟨hended, hinstalled, hswatches, htier⟩ := (s.chartPlaced c).requestsEnded_shows
  obtain ⟨hchart, hstep, htiers, hstate, hvalid⟩ := (s.chartPlaced c).requestsEnded.installShown_shows
  rw [hended, hplaced] at hchart hvalid
  rw [State.installChart_eq, hstep, htiers, htier]
  exact ⟨hchart, hstate, hvalid, hinstalled, hswatches, hdirty⟩

/-! ## CHART_INSTALL -/

/-- A commit whose staged chart passes the repeated checks installs it, and its outcome is applied (R69, R75). -/
theorem State.applyCommit_shows (s : State) {c : Chart} (hstaged : s.chart.staged = some c) (hcheck : s.recheck c = 0) :
    s.applyCommit.chart = { s.chart with active := some c, staged := none, image := [], variants := [] } ∧
    s.applyCommit.rf R.CHART_COMMIT_OUTCOME = 2 ∧ s.applyCommit.rf R.CHART_LOAD_STATUS_STATE = 0 ∧ s.applyCommit.rf R.CHART_ACTIVE_VALID = 1 ∧
    s.applyCommit.step.installed = true ∧ s.applyCommit.step.swatches = [] ∧ s.applyCommit.tier.dirty = [] := by
  obtain ⟨u, hu, happly⟩ : ∃ u : State, u.chart = s.chart ∧ s.applyCommit = (u.installChart c).set R.CHART_COMMIT_OUTCOME 2 := by
    unfold State.applyCommit
    rw [hstaged]
    refine ⟨_, ?_, if_neg (not_not.mpr hcheck)⟩
    split <;> rfl
  obtain ⟨hchart, hstate, hvalid, hinstalled, hswatches, hdirty⟩ := u.installChart_shows c
  rw [hu] at hchart
  rw [happly, State.rf_set_of_ne _ _ R.CHART_LOAD_STATUS_STATE _ (by decide), State.rf_set_of_ne _ _ R.CHART_ACTIVE_VALID _ (by decide)]
  exact ⟨hchart, State.rf_set_same _ _ _, hstate, hvalid, hinstalled, hswatches, hdirty⟩

/-- In IDLE and HOLD the one commit, which no bind-off waits for, is due when no host stream is open (R82). -/
theorem State.installDue_stopped (s : State) {d : PendCommit} (hdecide : s.step.decideDue = false) (hs : s.stopped = true) (hopen : s.openHost = [])
    (hcommits : s.chart.commits = [d]) (htarget : d.target = none) :
    s.installDue = ({ s with chart := { s.chart with commits := [] } } : State).applyCommit := by
  unfold State.installDue State.takeCommit
  simp [hdecide, hs, hopen, hcommits, htarget]

/-- Between the boundaries CHART_INSTALL carries out what is due and moves nothing else. -/
theorem exec_chartInstall (s : State) (hpower : 2 ≤ s.rf R.PWR_STATE_STATE) (hdecide : s.step.decideDue = false) :
    exec .chartInstall s = .next s.installDue := by
  have hdue : (s.step.decideDue && !s.step.auditDue && s.roundsDone) = false := by rw [hdecide]; rfl
  refine congrArg Host.Outcome.next ((if_neg (Nat.not_lt.mpr hpower)).trans ?_)
  simp only [State.boundaryInstall, hdue, Bool.false_and, Bool.false_eq_true, if_false]

/-- Settles O16: the held commit is due, its checks pass, and the install replaces the chart, whole. -/
theorem chartInstall : Obligations.ChartInstall := by
  intro s c d hpower hdecide hs hopen hcommits htarget hstaged hcheck
  have hexec := exec_chartInstall s hpower hdecide
  have hphase : s.installDue.phase = s.phase := s.installDue_sameRuling.regs _ (by decide) (by decide)
  have hdoes : Does 12012494022652 s s.installDue := State.installDue_does s (by decide) (Does.rfl' _ s)
  have hrow : s.installDue.row = s.row := hdoes.frame .row (by decide)
  obtain ⟨hchart, houtcome, hstate, hvalid, hinstalled, hswatches, hdirty⟩ :=
    ({ s with chart := { s.chart with commits := [] } } : State).applyCommit_shows (c := c) hstaged hcheck
  rw [← s.installDue_stopped hdecide hs hopen hcommits htarget] at hchart houtcome hstate hvalid hinstalled hswatches hdirty
  exact Runs.of hexec hdoes (by decide) ⟨hchart, houtcome, hstate, hvalid, hinstalled, hswatches, hphase, hrow, hdirty⟩

end Sys2Proof.Machine
end

section
/-! SUPPORT. O29, R87, R239: a segment of the schedule starts on its span. -/

namespace Sys2Proof.Machine

/-! ## Units put to use -/

/-- A set that takes in a list of numbers has those of the list, and those it had. -/
theorem NSet.mem_foldl_ins {us l : List Nat} {u : Nat} (h : u ∈ us ∨ u ∈ l) : u ∈ us.foldl (fun l u => NSet.ins u l) l := by
  induction us generalizing l with
  | nil => simpa using h
  | cons x us ih =>
    refine ih ?_
    rw [NSet.mem_ins]
    rcases h with h | h
    · rcases List.mem_cons.mp h with rfl | h
      · exact .inr (.inl rfl)
      · exact .inl h
    · exact .inr (.inr h)

/-- A unit put to use is on (R444). -/
theorem State.useUnits_awake (s : State) {us : List Nat} {u : Nat} (hu : u ∈ us) : (s.useUnits us).pwr.awake.contains u = true := by
  unfold State.useUnits
  split
  · rename_i hall
    exact List.all_eq_true.mp hall u hu
  · rw [State.showUnits_pwr]
    exact List.contains_iff_mem.mpr (NSet.mem_foldl_ins (.inl hu))

/-! ## CLU_SEGMENT -/

/-- Two fields of CLU_SEGMENT are one cell where they are the same field of the same cluster. -/
theorem cluSegment_key_eq {p q lo lo' w w' : Nat} (hlo : lo < 64) (hlo' : lo' < 64) :
    (⟨0x400010 + 0x1000 * (p % 36), lo, w⟩ : Fld).key = (⟨0x400010 + 0x1000 * (q % 36), lo', w'⟩ : Fld).key ↔ p % 36 = q % 36 ∧ lo = lo' := by
  show (0x400010 + 0x1000 * (p % 36)) * 64 + lo = (0x400010 + 0x1000 * (q % 36)) * 64 + lo' ↔ _
  omega

/-- CLU_SEGMENT of cluster q as the start of a segment writes it (R108). -/
def Seg.label (g : Seg) (us : List Nat) (s : State) (q : Nat) : State :=
  let s := ((s.set (R.CLU_SEGMENT_PROGRAM q) g.ent.prog).set (R.CLU_SEGMENT_LIFELINE q) g.ent.life).set (R.CLU_SEGMENT_SLICE q) g.ce.slice
  let s := (s.set (R.CLU_SEGMENT_MB q) g.ce.mb).set (R.CLU_SEGMENT_REPLAY q) 0
  (s.set (R.CLU_SEGMENT_LEAD q) (if some q = us.head? then 1 else 0)).set (R.CLU_SEGMENT_BUSY q) 1

/-- CLU_SEGMENT of cluster p names a segment's work. -/
def Seg.Labelled (g : Seg) (p : Nat) (t : State) : Prop :=
  t.rf (R.CLU_SEGMENT_BUSY p) = 1 ∧ t.rf (R.CLU_SEGMENT_PROGRAM p) = g.ent.prog % 2 ^ 16 ∧
    t.rf (R.CLU_SEGMENT_LIFELINE p) = g.ent.life % 2 ^ 16 ∧ t.rf (R.CLU_SEGMENT_SLICE p) = g.ce.slice % 2 ^ 16 ∧
    t.rf (R.CLU_SEGMENT_MB p) = g.ce.mb % 2 ^ 8 ∧ t.rf (R.CLU_SEGMENT_REPLAY p) = 0

/-- A cluster's CLU_SEGMENT names the work once it is written. -/
theorem Seg.label_labelled (g : Seg) (us : List Nat) (s : State) {p q : Nat} (h : p % 36 = q % 36) : g.Labelled p (g.label us s q) := by
  simp [Seg.Labelled, Seg.label, State.rf_set, R.CLU_SEGMENT_BUSY, R.CLU_SEGMENT_PROGRAM, R.CLU_SEGMENT_LIFELINE, R.CLU_SEGMENT_SLICE,
    R.CLU_SEGMENT_MB, R.CLU_SEGMENT_REPLAY, R.CLU_SEGMENT_LEAD, cluSegment_key_eq, h]

/-- CLU_SEGMENT of another cluster stays. -/
theorem Seg.label_other (g : Seg) (us : List Nat) (s : State) {p q : Nat} (h : p % 36 ≠ q % 36) {lo w : Nat} (hlo : lo < 64) :
    (g.label us s q).rf ⟨0x400010 + 0x1000 * (p % 36), lo, w⟩ = s.rf ⟨0x400010 + 0x1000 * (p % 36), lo, w⟩ := by
  simp [Seg.label, State.rf_set, R.CLU_SEGMENT_BUSY, R.CLU_SEGMENT_PROGRAM, R.CLU_SEGMENT_LIFELINE, R.CLU_SEGMENT_SLICE,
    R.CLU_SEGMENT_MB, R.CLU_SEGMENT_REPLAY, R.CLU_SEGMENT_LEAD, cluSegment_key_eq, h, hlo]

/-- A cluster's CLU_SEGMENT names the work still once another's is written. -/
theorem Seg.Labelled.label {g : Seg} {p : Nat} {s : State} (hs : g.Labelled p s) (us : List Nat) (q : Nat) : g.Labelled p (g.label us s q) := by
  by_cases h : p % 36 = q % 36
  · exact g.label_labelled us s h
  · obtain ⟨hbusy, hprog, hlife, hslice, hmb, hreplay⟩ := hs
    exact ⟨(g.label_other us s h (by decide)).trans hbusy, (g.label_other us s h (by decide)).trans hprog,
      (g.label_other us s h (by decide)).trans hlife, (g.label_other us s h (by decide)).trans hslice,
      (g.label_other us s h (by decide)).trans hmb, (g.label_other us s h (by decide)).trans hreplay⟩

/-- CLU_SEGMENT is no part of the count, of the units' power and of the cluster work. -/
theorem Seg.label_keeps (g : Seg) (us : List Nat) (s : State) (q : Nat) :
    (g.label us s q).row = s.row ∧ (g.label us s q).pwr = s.pwr ∧ (g.label us s q).clu = s.clu := by
  simp only [Seg.label, State.set_row, State.set_pwr, State.set_clu, and_self]

/-! ## SEGMENT_START -/

/-- An entry that runs on its span from its plan offset on, its clusters on. -/
def State.segEntered (s : State) (e : Nat) (g : Seg) (us : List Nat) : State :=
  ((s.advance (s.cluAt g.ce.start)).runEntry e).useUnits (us.map (0x1000 + ·))

/-- The outputs of an empty slice are complete as it starts (R91). -/
def State.emptyDone (s : State) (g : Seg) : State :=
  if g.rows = 0 then { s with clu := s.clu.putOuts ((SegRun.mk s [] false false 0).outputs g) } else s

/-- A segment that has started: its entry runs, and CLU_SEGMENT names the work. -/
def State.segStarted (s : State) (e : Nat) (g : Seg) (us : List Nat) : State := ((s.segEntered e g us).emptyDone g).forEach us (g.label us)

section
variable {e : Nat} {s : State} {g : Seg} {us : List Nat}

theorem exec_segmentStart (hseg : s.segOf e = some g) (hrun : s.planRuns = true) (hleft : s.clu.left.contains e = true)
    (hspan : s.spanUnits g.ce.first g.span = some us) : exec (.segmentStart e) s = .next (s.segStarted e g us) := by
  have hguard : (!s.planRuns || !s.clu.left.contains e) = false := by rw [hrun, hleft]; rfl
  refine congrArg Host.Outcome.next ?_
  simp only [hseg, hguard, hspan, Bool.false_eq_true, if_false]
  rfl

/-- The entry has left those still to start, and runs from the count at which it started. -/
theorem State.segEntered_shows (s : State) (e : Nat) (g : Seg) (us : List Nat) :
    (s.segEntered e g us).row = max s.row (s.cluAt g.ce.start) ∧
    (s.segEntered e g us).clu = { s.clu with left := s.clu.left.filter (· != e)
                                             running := s.clu.running ++ [(e, max s.row (s.cluAt g.ce.start))] } ∧
    ∀ p ∈ us, (s.segEntered e g us).pwr.awake.contains (0x1000 + p) = true := by
  obtain ⟨hrow, hclu⟩ := ((s.advance (s.cluAt g.ce.start)).runEntry e).useUnits_row_clu (us.map (0x1000 + ·))
  refine ⟨hrow.trans (s.advance_row _), hclu.trans ?_, fun p hp => State.useUnits_awake _ (List.mem_map_of_mem hp)⟩
  unfold State.runEntry
  rw [s.advance_clu, s.advance_row]

/-- What the start leaves of the running entry: its outputs stand at once where its slice is empty (R91). -/
theorem State.segStarted_keeps (s : State) (e : Nat) (g : Seg) (us : List Nat) :
    (s.segStarted e g us).row = (s.segEntered e g us).row ∧ (s.segStarted e g us).pwr = (s.segEntered e g us).pwr ∧
    (s.segStarted e g us).clu.left = (s.segEntered e g us).clu.left ∧ (s.segStarted e g us).clu.running = (s.segEntered e g us).clu.running ∧
    (g.rows ≠ 0 → (s.segStarted e g us).clu = (s.segEntered e g us).clu) := by
  unfold State.segStarted
  rw [State.forEach_keeps State.row us _ (fun v q => (g.label_keeps us v q).1),
    State.forEach_keeps State.pwr us _ (fun v q => (g.label_keeps us v q).2.1),
    State.forEach_keeps State.clu us _ (fun v q => (g.label_keeps us v q).2.2)]
  unfold State.emptyDone
  split
  · exact ⟨rfl, rfl, rfl, rfl, fun h => absurd ‹g.rows = 0› h⟩
  · exact ⟨rfl, rfl, rfl, rfl, fun _ => rfl⟩

theorem State.segStarted_labelled (s : State) (e : Nat) (g : Seg) {us : List Nat} {p : Nat} (hp : p ∈ us) :
    g.Labelled p (s.segStarted e g us) :=
  State.forEach_establishes hp (fun v => g.label_labelled us v rfl) (fun _ q h => h.label us q) _

/-- A segment starts on its span (R87, R239). -/
theorem segmentStart_starts (hseg : s.segOf e = some g) (hrun : s.planRuns = true) (hleft : s.clu.left.contains e = true)
    (hspan : s.spanUnits g.ce.first g.span = some us) :
    Runs (.segmentStart e) s [.pwrRegs, .stepRegs, .cluRegs, .row, .idleRuns, .power, .clusters] (fun t =>
      t.row = max s.row (s.cluAt g.ce.start) ∧ t.clu.left = s.clu.left.filter (· != e) ∧ t.clu.running = s.clu.running ++ [(e, t.row)] ∧
      (g.rows ≠ 0 → t.clu.outs = s.clu.outs) ∧ (∀ p ∈ us, t.pwr.awake.contains (0x1000 + p) = true) ∧ ∀ p ∈ us, g.Labelled p t) := by
  have hexec := exec_segmentStart hseg hrun hleft hspan
  obtain ⟨hrow, hclu, hawake⟩ := s.segEntered_shows e g us
  obtain ⟨hrow', hpwr', hleft', hrunning', hclu'⟩ := s.segStarted_keeps e g us
  rw [hclu] at hleft' hrunning' hclu'
  rw [hrow] at hrow'
  refine Runs.of hexec (execSegmentStart_does e s _ hexec) (by decide) ⟨hrow', hleft', ?_, fun h => ?_, ?_, fun p hp => s.segStarted_labelled e g hp⟩
  · rw [hrunning', hrow']
  · rw [hclu' h]
  · rwa [hpwr']

end

end Sys2Proof.Machine
end

section
/-! SUPPORT. O29: what the end of an entry leaves of the memory and of the cluster work (R239, R395, R396, R433). -/

namespace Sys2Proof.Machine

/-! ## Memory -/

theorem State.logEv_mem (s : State) (st src unit detail aux : Nat) : (s.logEv st src unit detail aux).mem = s.mem := by
  have hroom : s.makeRoom.mem = s.mem := by
    unfold State.makeRoom
    split <;> rfl
  unfold State.logEv
  split
  · rfl
  · dsimp only
    simp only [State.set_mem, hroom]

theorem State.tierRefuse_mem (s : State) (why : Refused) (st oa : Nat) : (s.tierRefuse why st oa).mem = s.mem := by
  unfold State.tierRefuse
  refine (State.logEv_mem _ _ _ _ _ _).trans ?_
  cases why <;> rfl

theorem State.emitHost_mem (s : State) (x : Sent) : (s.emitHost x).mem = s.mem := by
  unfold State.emitHost
  split <;> rfl

theorem State.emitAnn_mem (s : State) (j id gen : Nat) : (s.emitAnn j id gen).mem = s.mem := by
  unfold State.emitAnn
  dsimp only
  split
  · exact s.emitHost_mem _
  · exact s.tierRefuse_mem _ _ _

theorem State.sendAnn_mem (s : State) (j id gen : Nat) : (s.sendAnn j id gen).mem = s.mem := by
  unfold State.sendAnn
  dsimp only
  split
  · exact s.emitAnn_mem _ _ _
  · split
    · rfl
    · split
      · exact State.emitAnn_mem _ _ _ _
      · rfl

theorem State.announceGen_mem (s : State) (id gen : Nat) : (s.announceGen id gen).mem = s.mem := by
  unfold State.announceGen
  split
  · rfl
  · exact State.forEach_keeps State.mem _ _ (fun v j => v.sendAnn_mem j id gen) s

theorem State.settleBarrier_mem (s : State) (id fuel : Nat) : (s.settleBarrier id fuel).mem = s.mem := by
  induction fuel generalizing s with
  | zero => rfl
  | succ fuel ih =>
    unfold State.settleBarrier
    dsimp only
    split
    · refine (ih _).trans ?_
      split
      · exact State.announceGen_mem _ _ _
      · rfl
    · rfl

/-- An arrival at a barrier leaves the memory. -/
theorem State.partyArrives_mem (s : State) (p id : Nat) : (s.partyArrives p id).mem = s.mem := State.settleBarrier_mem _ _ _

theorem State.endEntry_mem (s : State) (e : Nat) : (s.endEntry e).mem = s.mem := by
  unfold State.endEntry
  dsimp only
  split
  · rfl
  · exact State.partyArrives_mem _ _ _

theorem State.raiseFlag_mem (s : State) (cause : Nat) : (s.raiseFlag cause).mem = s.mem := by
  unfold State.raiseFlag
  split <;> rfl

theorem State.markSwatch_mem (s : State) : s.markSwatch.mem = s.mem := by
  refine State.forEach_keeps State.mem _ _ (fun v n => ?_) s
  split <;> rfl

theorem State.countWork_mem (s : State) (us : List Nat) (cycles : Nat) : (s.countWork us cycles).mem = s.mem := by
  unfold State.countWork
  exact State.forEach_keeps State.mem us _ (fun _ _ => by rfl) s

theorem State.segStatus_mem (s : State) (us : List Nat) (nonfin marked : Bool) : (s.segStatus us nonfin marked).mem = s.mem := by
  refine State.forEach_keeps State.mem us _ (fun v p => ?_) s
  cases nonfin <;> cases marked <;> rfl

theorem State.releaseStash_mem (s : State) : s.releaseStash.mem = s.mem := rfl

/-! ## Cluster work -/

/-- An entry that has ended is neither still to start nor running, and its ring writes are forgotten (R239). -/
theorem State.endEntry_clu (s : State) (e : Nat) : (s.endEntry e).clu =
    { s.clu with running := s.clu.running.filter (fun p => p.1 != e), left := s.clu.left.filter (· != e)
                 rings := s.clu.rings.filter (fun r => r.entry != e) } := by
  unfold State.endEntry
  dsimp only
  split
  · rfl
  · exact (State.partyArrives_does (μ := 3608313618560) _ 4 _ (by decide) (Does.rfl' _ _)).frame .clusters (by decide)

/-- Outputs put where their fetch streams take them are there. -/
theorem CluSt.mem_putOuts {c : CluSt} {new : List SegOut} {o : SegOut} (h : o ∈ new) : o ∈ (c.putOuts new).outs := List.mem_append_right _ h

end Sys2Proof.Machine
end

section
/-! SUPPORT. O29: the registers of a span whose work has ended (R108). -/

namespace Sys2Proof.Machine

/-- A field of CLU_SEGMENT is no cell of CLU_BUSY, CLU_SEGMENTS or CLU_ERR. -/
theorem cluSegment_key_ne {b p q lo lo' w w' : Nat} (hb : 0x400010 < b ∧ b < 0x401000) (hlo : lo < 64) (hlo' : lo' < 64) :
    (⟨0x400010 + 0x1000 * (p % 36), lo, w⟩ : Fld).key ≠ (⟨b + 0x1000 * (q % 36), lo', w'⟩ : Fld).key := by
  show (0x400010 + 0x1000 * (p % 36)) * 64 + lo ≠ (b + 0x1000 * (q % 36)) * 64 + lo'
  omega

/-- A register of a cluster behind its CLU_SEGMENT is written: BUSY stays. -/
theorem State.busy_set_other (s : State) (p q v : Nat) {b lo w : Nat} (hb : 0x400010 < b ∧ b < 0x401000) (hlo : lo < 64) :
    (s.set ⟨b + 0x1000 * (q % 36), lo, w⟩ v).rf (R.CLU_SEGMENT_BUSY p) = s.rf (R.CLU_SEGMENT_BUSY p) :=
  s.rf_set_of_ne _ _ v (cluSegment_key_ne hb (by decide) hlo)

/-- One cluster's work counted: it is free, and no other's BUSY moves. -/
theorem State.countWork_round (s : State) (cycles p q : Nat) :
    ((((s.set (R.CLU_BUSY_CYCLES q) (s.rf (R.CLU_BUSY_CYCLES q) + cycles)).bump (R.CLU_SEGMENTS_COUNT q)).set (R.CLU_SEGMENT_BUSY q) 0).set
      (R.CLU_SEGMENT_REPLAY q) 0).rf (R.CLU_SEGMENT_BUSY p) = if p % 36 = q % 36 then 0 else s.rf (R.CLU_SEGMENT_BUSY p) := by
  have hreplay : (R.CLU_SEGMENT_BUSY p).key ≠ (R.CLU_SEGMENT_REPLAY q).key := by
    simp [R.CLU_SEGMENT_BUSY, R.CLU_SEGMENT_REPLAY, cluSegment_key_eq]
  have hbusy : (R.CLU_SEGMENT_BUSY p).key = (R.CLU_SEGMENT_BUSY q).key ↔ p % 36 = q % 36 := by
    simp [R.CLU_SEGMENT_BUSY, cluSegment_key_eq]
  rw [State.rf_set_of_ne _ _ _ _ hreplay, State.rf_set]
  refine if_congr hbusy rfl ?_
  exact (State.busy_set_other _ p q _ (by decide) (by decide)).trans (State.busy_set_other _ p q _ (by decide) (by decide))

/-- The clusters of a span are free after its work. -/
theorem State.countWork_busy (s : State) {us : List Nat} (cycles : Nat) {p : Nat} (hp : p ∈ us) :
    (s.countWork us cycles).rf (R.CLU_SEGMENT_BUSY p) = 0 := by
  refine State.forEach_establishes (p := fun v => v.rf (R.CLU_SEGMENT_BUSY p) = 0) hp ?_ ?_ s
  · intro v
    exact (v.countWork_round cycles p p).trans (if_pos rfl)
  · intro v q hv
    refine (v.countWork_round cycles p q).trans ?_
    rw [hv, ite_self]

theorem State.segStatus_busy (s : State) (us : List Nat) (nonfin marked : Bool) (p : Nat) :
    (s.segStatus us nonfin marked).rf (R.CLU_SEGMENT_BUSY p) = s.rf (R.CLU_SEGMENT_BUSY p) := by
  have herr : ∀ (v : State) (q x lo w : Nat), lo < 64 →
      (v.set ⟨0x400028 + 0x1000 * (q % 36), lo, w⟩ x).rf (R.CLU_SEGMENT_BUSY p) = v.rf (R.CLU_SEGMENT_BUSY p) :=
    fun v q x _ _ hlo => v.busy_set_other p q x (by decide) hlo
  refine State.forEach_keeps (fun v => v.rf (R.CLU_SEGMENT_BUSY p)) us _ (fun v q => ?_) s
  refine (herr _ q _ 24 8 (by decide)).trans ?_
  have hnonfin : ∀ u : State, (if nonfin then u.set (R.CLU_ERR_NONFINITE_OUT q) 1 else u).rf (R.CLU_SEGMENT_BUSY p) = u.rf (R.CLU_SEGMENT_BUSY p) := by
    intro u
    split
    · exact herr u q 1 1 1 (by decide)
    · rfl
  split
  · exact (herr _ q 1 0 1 (by decide)).trans (hnonfin v)
  · exact hnonfin v

/-- A field of CLU_SEGMENT lies in CLU. -/
theorem cluSegment_blk (p lo w : Nat) (h : lo < 64) : Fld.blk ⟨0x400010 + 0x1000 * (p % 36), lo, w⟩ = 9 :=
  Fld.blk_elem 0x400010 0x1000 p 36 lo w 9 h (by decide) (by decide) (by decide)

/-- An operation that leaves CLU's registers leaves BUSY. -/
theorem Does.busy_eq {m : Nat} {s t : State} (h : Does m s t) (h9 : m.testBit 9 = false) (p : Nat) :
    t.rf (R.CLU_SEGMENT_BUSY p) = s.rf (R.CLU_SEGMENT_BUSY p) := h.rf _ (by rw [R.CLU_SEGMENT_BUSY, cluSegment_blk _ _ _ (by decide), h9])

end Sys2Proof.Machine
end

section
/-! SUPPORT. O29: a running segment ends, in its time or as a unit fault (R90, R95, R414). -/

namespace Sys2Proof.Machine

/-! ## What a computed segment leaves -/

/-- A computed segment, its outputs handed on and the registers of its span written (R95, R108). -/
def SegRun.shown (x : SegRun) (g : Seg) (us : List Nat) (cycles : Nat) : State :=
  (({ x.st with clu := x.st.clu.putOuts (x.outputs g) } : State).countWork us cycles).segStatus us x.nonfin x.marked

/-- Non-finite results flag the step, or mark the swatch (R32, R128, R129). -/
def SegRun.flag (x : SegRun) (s : State) : State :=
  let s := if x.nonfin then s.raiseFlag 2 else s
  if x.nonfin && s.step.swatchRun.isSome then s.markSwatch else s

/-- The segment has ended. -/
def SegRun.ended (x : SegRun) (e : Nat) (g : Seg) (us : List Nat) (cycles : Nat) : State :=
  ((x.flag (x.shown g us cycles)).endEntry e).releaseStash

theorem SegRun.shown_does (x : SegRun) (g : Seg) (us : List Nat) (cycles : Nat) : Does 17592186044928 x.st (x.shown g us cycles) :=
  State.segStatus_does _ us _ _ (by decide) (State.countWork_does _ us _ (by decide) (Does.upd_clu x.st _ (by decide) (Does.rfl' _ x.st)))

theorem SegRun.flag_does (x : SegRun) (s : State) : Does 16777264 s (x.flag s) := by
  have hraise : Does 16777264 s (if x.nonfin then s.raiseFlag 2 else s) :=
    Does.ite (State.raiseFlag_does s 2 (by decide) (Does.rfl' _ s)) (Does.rfl' _ s)
  exact Does.ite (State.markSwatch_does _ (by decide) hraise) hraise

theorem SegRun.ended_does (x : SegRun) (e : Nat) (g : Seg) (us : List Nat) (cycles : Nat) : Does 21204811408048 x.st (x.ended e g us cycles) :=
  State.releaseStash_does _ (by decide) (State.endEntry_does _ e (by decide)
    ((x.flag_does _).after (by decide) ((x.shown_does g us cycles).mono (by decide))))

theorem SegRun.flag_mem (x : SegRun) (s : State) : (x.flag s).mem = s.mem := by
  have hraise : (if x.nonfin then s.raiseFlag 2 else s).mem = s.mem := by
    split
    · exact s.raiseFlag_mem 2
    · rfl
  have hmark : ∀ u : State, (if x.nonfin && u.step.swatchRun.isSome then u.markSwatch else u).mem = u.mem := by
    intro u
    split
    · exact u.markSwatch_mem
    · rfl
  exact (hmark _).trans hraise

/-- The end of a segment leaves the memory that its operations wrote. -/
theorem SegRun.ended_mem (x : SegRun) (e : Nat) (g : Seg) (us : List Nat) (cycles : Nat) : (x.ended e g us cycles).mem = x.st.mem := by
  have hshown : (x.shown g us cycles).mem = x.st.mem := (State.segStatus_mem _ _ _ _).trans (State.countWork_mem _ _ _)
  exact (State.releaseStash_mem _).trans ((State.endEntry_mem _ e).trans ((x.flag_mem _).trans hshown))

/-- Its outputs have joined those that fetch streams take, and its entry is gone (R95, R239). -/
theorem SegRun.ended_clu (x : SegRun) (e : Nat) (g : Seg) (us : List Nat) (cycles : Nat) :
    (x.ended e g us cycles).clu.outs = (x.st.clu.putOuts (x.outputs g)).outs ∧ ∀ p ∈ (x.ended e g us cycles).clu.running, p.1 ≠ e := by
  have hshown : (x.shown g us cycles).clu = x.st.clu.putOuts (x.outputs g) :=
    (State.segStatus_does (μ := 512) _ us _ _ (by decide) (State.countWork_does _ us _ (by decide) (Does.rfl' _ _))).frame .clusters (by decide)
  have hflag : (x.flag (x.shown g us cycles)).clu = x.st.clu.putOuts (x.outputs g) :=
    ((x.flag_does _).frame .clusters (by decide)).trans hshown
  have hended : (x.ended e g us cycles).clu = ((x.flag (x.shown g us cycles)).endEntry e).clu :=
    (State.releaseStash_does (μ := 4294967296) _ (by decide) (Does.rfl' _ _)).frame .clusters (by decide)
  rw [hended, State.endEntry_clu, hflag]
  exact ⟨rfl, fun p hp => by simpa using (List.mem_filter.mp hp).2⟩

/-- Its clusters are free. -/
theorem SegRun.ended_busy (x : SegRun) (e : Nat) (g : Seg) {us : List Nat} (cycles : Nat) {p : Nat} (hp : p ∈ us) :
    (x.ended e g us cycles).rf (R.CLU_SEGMENT_BUSY p) = 0 := by
  have hrest : Does 21204811407536 (x.shown g us cycles) (x.ended e g us cycles) :=
    State.releaseStash_does _ (by decide) (State.endEntry_does _ e (by decide) ((x.flag_does _).mono (by decide)))
  exact (hrest.busy_eq (by decide) p).trans ((State.segStatus_busy _ us _ _ p).trans (State.countWork_busy _ cycles hp))

/-! ## SEGMENT_END -/

section
variable {e : Nat} {s : State} {g : Seg} {us : List Nat}

/-- The count at which a segment's WORK_CYCLES are over. -/
def State.segDue (s : State) (g : Seg) : Nat := s.cluAt g.ce.start + s.cycleTicks (fieldLe g.prog 0xC 4)

/-- A running segment ends as the watchdog rules (R90, R414). -/
theorem exec_segmentEnd (hseg : s.segOf e = some g) (hrun : s.planRuns = true) (hrunning : (s.clu.running.any fun p => p.1 == e) = true)
    (hspan : s.spanUnits g.ce.first g.span = some us) : exec (.segmentEnd e) s = .next (match s.overdueUnit us (s.segDue g) with
      | some u => s.unitFault u
      | none => ((s.advance (s.segDue g)).runSegment e g).ended e g us (fieldLe g.prog 0xC 4)) := by
  have hguard : (!s.planRuns || !(s.clu.running.any fun p => p.1 == e)) = false := by rw [hrun, hrunning]; rfl
  refine congrArg Host.Outcome.next ?_
  simp only [hseg, hguard, hspan, Bool.false_eq_true, if_false]
  rfl

/-- A segment that is not overdue ends with its results (R90, R95). -/
theorem segmentEnd_ends (hseg : s.segOf e = some g) (hrun : s.planRuns = true) (hrunning : (s.clu.running.any fun p => p.1 == e) = true)
    (hspan : s.spanUnits g.ce.first g.span = some us) (hdue : s.overdueUnit us (s.segDue g) = none) :
    Runs (.segmentEnd e) s [.stepRegs, .streamRegs, .tierRegs, .cluRegs, .faultRegs, .logRegs, .row, .memory, .marks, .sent, .free, .flagOut,
        .idleRuns, .logRound, .stash, .fault, .ledgers, .tier, .barriers, .host, .clusters, .gauge] (fun t =>
      let x := (s.advance (s.segDue g)).runSegment e g
      t.row = max s.row (s.segDue g) ∧ t.mem = x.st.mem ∧ t.marks = x.st.marks ∧ (∀ o ∈ x.outputs g, o ∈ t.clu.outs) ∧
      (∀ p ∈ t.clu.running, p.1 ≠ e) ∧ ∀ p ∈ us, t.rf (R.CLU_SEGMENT_BUSY p) = 0) := by
  have hexec := exec_segmentEnd hseg hrun hrunning hspan
  rw [hdue] at hexec
  have hadvance : Does 67633168 s (s.advance (s.segDue g)) := State.advance_does s _ (by decide) (Does.rfl' _ s)
  have hruns : Does 35476978294912 (s.advance (s.segDue g)) ((s.advance (s.segDue g)).runSegment e g).st :=
    State.runSegment_does _ e g (by decide) (Does.rfl' _ _)
  generalize (s.advance (s.segDue g)).runSegment e g = x at hexec hruns ⊢
  have hended := x.ended_does e g us (fieldLe g.prog 0xC 4)
  obtain ⟨houts, hgone⟩ := x.ended_clu e g us (fieldLe g.prog 0xC 4)
  have hdoes : Does 56406442533552 s (x.ended e g us (fieldLe g.prog 0xC 4)) :=
    hended.after (by decide) (hruns.after (by decide) (hadvance.mono (by decide)))
  refine Runs.of hexec hdoes (by decide) ⟨?_, x.ended_mem e g us _, hended.frame .marks (by decide), fun o ho => ?_, hgone,
    fun p hp => x.ended_busy e g _ hp⟩
  · calc (x.ended e g us _).row = x.st.row := hended.frame .row (by decide)
      _ = (s.advance (s.segDue g)).row := hruns.frame .row (by decide)
      _ = max s.row (s.segDue g) := s.advance_row _
  · rw [houts]
    exact CluSt.mem_putOuts ho

/-- One that the watchdog finds overdue is a unit fault of the cluster it flags (R414). -/
theorem segmentEnd_overdue {u : Nat} (hseg : s.segOf e = some g) (hrun : s.planRuns = true)
    (hrunning : (s.clu.running.any fun p => p.1 == e) = true) (hspan : s.spanUnits g.ce.first g.span = some us)
    (hdue : s.overdueUnit us (s.segDue g) = some u) : exec (.segmentEnd e) s = .next (s.unitFault u) := by
  rw [exec_segmentEnd hseg hrun hrunning hspan, hdue]

end

/-- Settles O29: a segment's start, its end in its time, and its end as a unit fault, each by its own lemma. -/
theorem segments : Obligations.Segments :=
  ⟨fun _ _ _ _ => segmentStart_starts, fun _ _ _ _ => segmentEnd_ends, fun _ _ _ _ _ => segmentEnd_overdue⟩

end Sys2Proof.Machine
end

section
/-! SUPPORT. O32: what moving the bytes of a stream's skein leaves of the stream: its state, its record of the skein, and the count of skeins
closed (R196, R226, R431). -/

namespace Sys2Proof.Machine

/-- A stream has its skein in hand as before: the same STATE and record of the skein, and no more skeins counted as closed. -/
structure KeepsSkein (n : Nat) (s t : State) : Prop where
  sst   : t.sst n = s.sst n
  sk    : (t.str n).sk = (s.str n).sk
  skOut : t.led.skOut = s.led.skOut

theorem KeepsSkein.refl (n : Nat) (s : State) : KeepsSkein n s s := ⟨rfl, rfl, rfl⟩

theorem KeepsSkein.trans {n : Nat} {s t u : State} (h1 : KeepsSkein n s t) (h2 : KeepsSkein n t u) : KeepsSkein n s u :=
  ⟨h2.sst.trans h1.sst, h2.sk.trans h1.sk, h2.skOut.trans h1.skOut⟩

theorem KeepsSkein.ite {n : Nat} {s a b : State} {c : Prop} [Decidable c] (ha : KeepsSkein n s a) (hb : KeepsSkein n s b) :
    KeepsSkein n s (if c then a else b) := by split <;> assumption

/-- A loop whose rounds keep the skein keeps it; `g` takes the state out of what the loop carries. -/
theorem KeepsSkein.foldl {β γ : Type} {n : Nat} (g : γ → State) (l : List β) (f : γ → β → γ)
    (h : ∀ v x, KeepsSkein n (g v) (g (f v x))) (u : γ) : KeepsSkein n (g u) (g (l.foldl f u)) := by
  induction l generalizing u with
  | nil => exact KeepsSkein.refl n _
  | cons x l ih => exact (h u x).trans (ih _)

/-- Every part but the registers of STREAM, the ledgers and the streams. -/
def offSkein : Nat := 69784628625375

/-- What leaves the registers of STREAM, the ledgers and the streams keeps the skein. -/
theorem Does.keepsSkein {s t : State} (n : Nat) (h : Does offSkein s t) : KeepsSkein n s t where
  sst := h.rf _ (by rw [R.STREAM_RUN_STATE, streamRun_blk _ _ _ (by decide)]; decide)
  sk := by
    have hstrs : t.strs = s.strs := h.frame .streams (by decide)
    unfold State.str
    rw [hstrs]
  skOut := congrArg LedgerSt.skOut (show t.led = s.led from h.frame .ledgers (by decide))

/-- A register other than STATE is written. -/
theorem KeepsSkein.set {n : Nat} (s : State) (f : Fld) (v : Nat) (h : (R.STREAM_RUN_STATE n).key ≠ f.key) : KeepsSkein n s (s.set f v) :=
  ⟨s.rf_set_of_ne _ _ _ h, rfl, rfl⟩

/-- A stream's record is written with the skein that it holds. -/
theorem KeepsSkein.setStr {n : Nat} (s : State) (m : Nat) (x : StreamX) (h : x.sk = (s.str m).sk) : KeepsSkein n s (s.setStr m x) where
  sst := rfl
  sk := by
    rw [State.setStr_str]
    split
    · rename_i hn
      rw [h, hn]
    · rfl
  skOut := rfl

/-! ## Reading -/

theorem State.note_keepsSkein (s : State) (n st cause : Nat) : KeepsSkein n s (s.note n st cause) where
  sst := (s.note_sameStand n st cause).state
  sk := by
    unfold State.str
    rw [(s.note_sameStand n st cause).strs]
  skOut := congrArg LedgerSt.skOut
    (show (s.note n st cause).led = s.led from (State.note_does s n st cause (by decide) (Does.rfl' 16777264 s)).frame .ledgers (by decide))

theorem State.readPiece_keepsSkein (n : Nat) (w : Who) (asked : List (Nat × Nat)) (buf : List MByte) (g : Got) (sp : Nat × Nat × Nat) :
    KeepsSkein n g.st (State.readPiece w asked buf g sp).st := by
  unfold State.readPiece
  split
  · exact KeepsSkein.refl n g.st
  · exact (State.readSpan_does w g sp (by decide) (Does.rfl' offSkein g.st)).keepsSkein n

/-- A read for the work of a stream keeps its skein. -/
theorem State.readFor_keepsSkein (s : State) (n q oa len : Nat) (asked : List (Nat × Nat)) (buf : List MByte) :
    KeepsSkein n s (s.readFor n q oa len asked buf).st := by
  have hpieces := KeepsSkein.foldl (n := n) Got.st (pageSpans oa len) (State.readPiece (s.strWho n q) asked buf)
    (State.readPiece_keepsSkein n _ asked buf) ⟨s, [], false, []⟩
  unfold State.readFor
  extract_lets g u v
  have hu : KeepsSkein n s u :=
    KeepsSkein.ite (hpieces.trans ((State.noteRange_does g.st oa len (by decide) (Does.rfl' offSkein g.st)).keepsSkein n)) hpieces
  exact KeepsSkein.ite (hu.trans (u.note_keepsSkein n _ _)) hu

/-! ## Writing -/

theorem State.postBus_keepsSkein (s : State) (n addr : Nat) (l : List MByte) : KeepsSkein n s (s.postBus addr l) :=
  KeepsSkein.foldl id _ _ (fun v _ => (State.emitHost_does v _ (by decide) (Does.rfl' offSkein v)).keepsSkein n) s

/-- A page's part of a write. -/
theorem State.writeSpan_keepsSkein (n : Nat) (w : Who) (own : Nat) (g : Got) (sp : Nat × Nat × Nat) :
    KeepsSkein n g.st (State.writeSpan w own g sp).st := by
  have hnotOwner : ∀ oa : Nat,
      KeepsSkein n g.st (((g.st.bump R.TIER_ERR_COUNT).set R.TIER_ERR_LAST_STATUS stNOT_OWNER).logEv stNOT_OWNER 0x30 0 0 oa) := fun oa =>
    (State.logEv_does _ _ _ _ _ _ (by decide) (Does.set _ _ _ (by decide) (Does.bump _ _ (by decide) (Does.rfl' offSkein g.st)))).keepsSkein n
  have hrefuse : ∀ (v : State) (why : Refused) (oa : Nat), KeepsSkein n v (v.tierRefuse why stBAD_ARG oa) := fun v why oa =>
    (State.tierRefuse_does v why stBAD_ARG oa (by decide) (Does.rfl' offSkein v)).keepsSkein n
  have hmem : ∀ (v : State) (da : Nat) (l : List MByte), KeepsSkein n v (v.writeMem da l) := fun v da l =>
    (State.writeMem_does v da l (by decide) (Does.rfl' offSkein v)).keepsSkein n
  unfold State.writeSpan
  extract_lets s oa l rest
  split
  · exact hnotOwner oa
  split
  · exact hrefuse s .barred oa
  split
  · rename_i why _
    exact hrefuse s why oa
  · rename_i e _
    extract_lets da u v
    split
    · exact hnotOwner oa
    · have hu : Does offSkein s u := State.countPage_does _ _ _ (by decide) (Does.rfl' offSkein s)
      have hv : KeepsSkein n s v := (Does.ite (State.setDirty_does u _ (by decide) hu) hu).keepsSkein n
      clear_value u v
      split
      · exact hv.trans (hrefuse v .unmapped oa)
      · split
        · exact hv.trans (hmem v _ _)
        · exact hv.trans (hmem v _ _)
        · exact hv.trans ((State.writeFlash_does v _ _ _ (by decide) (Does.rfl' offSkein v)).keepsSkein n)
        · exact hv.trans (v.postBus_keepsSkein n _ _)

theorem State.writeOA_keepsSkein (n : Nat) (s : State) (w : Who) (own oa : Nat) (l : List MByte) :
    KeepsSkein n s (s.writeOA w own oa l).st :=
  KeepsSkein.foldl Got.st _ _ (State.writeSpan_keepsSkein n w own) ⟨s, l, false, []⟩

theorem State.noteRing_keepsSkein (n : Nat) (s : State) (oa : Nat) (l : List MByte) : KeepsSkein n s (s.noteRing oa l) := by
  unfold State.noteRing
  split
  · exact KeepsSkein.refl n s
  split
  · exact KeepsSkein.refl n s
  extract_lets da
  split
  · exact KeepsSkein.refl n s
  split
  · exact KeepsSkein.refl n s
  · exact ⟨rfl, rfl, rfl⟩

theorem State.noteFar_keepsSkein (n : Nat) (s : State) (m side addr : Nat) : KeepsSkein n s (s.noteFar m side addr) :=
  KeepsSkein.setStr s m _ rfl

theorem State.noteFlash_keepsSkein (n : Nat) (s : State) (m oa len : Nat) : KeepsSkein n s (s.noteFlash m oa len) := by
  unfold State.noteFlash
  split
  · exact KeepsSkein.refl n s
  refine KeepsSkein.foldl id _ _ (fun v sp => ?_) s
  split
  · exact KeepsSkein.refl n _
  extract_lets da
  split
  · exact KeepsSkein.setStr v m _ rfl
  · exact KeepsSkein.refl n _

/-- Bytes written at an OA for the work of a stream keep its skein. -/
theorem State.putRaw_keepsSkein (s : State) (n q oa : Nat) (l : List MByte) : KeepsSkein n s (s.putRaw n q oa l) := by
  unfold State.putRaw
  split
  · exact KeepsSkein.refl n s
  extract_lets sides held g s₁ s₂ s₃ hand x s₄ s₅
  have h₁ : KeepsSkein n s s₁ := (s.writeOA_keepsSkein n _ _ oa l).trans ⟨rfl, rfl, rfl⟩
  have h₂ : KeepsSkein n s s₂ := KeepsSkein.ite h₁ (h₁.trans (s₁.noteRing_keepsSkein n oa l))
  have h₃ : KeepsSkein n s s₃ := h₂.trans (s₂.noteFlash_keepsSkein n n oa _)
  have h₄ : KeepsSkein n s s₄ := KeepsSkein.ite (h₃.trans (KeepsSkein.setStr s₃ n _ rfl)) h₃
  have h₅ : KeepsSkein n s s₅ := KeepsSkein.ite (h₄.trans (s₄.note_keepsSkein n _ _)) h₄
  exact h₅.trans (KeepsSkein.foldl id sides _ (fun v f => v.noteFar_keepsSkein n n f.1 f.2) s₅)

theorem State.putOA_keepsSkein (s : State) (n q oa : Nat) (l : List MByte) : KeepsSkein n s (s.putOA n q oa l) := by
  have hraw := s.putRaw_keepsSkein n q oa l
  unfold State.putOA
  exact KeepsSkein.ite hraw (hraw.trans ⟨rfl, rfl, rfl⟩)

theorem State.sendWr_keepsSkein (n : Nat) (s : State) (p a : Nat) (l : List MByte) : KeepsSkein n s (s.sendWr p a l) := by
  have hspend : KeepsSkein n s (s.spend p (granuleCount a l.length)) := ⟨rfl, rfl, rfl⟩
  refine (hspend.trans (KeepsSkein.set _ (R.CDP_TRAFFIC_OUT_GRANULES p) _ ?_)).trans ⟨rfl, rfl, rfl⟩
  simp only [Fld.key, R.STREAM_RUN_STATE, R.CDP_TRAFFIC_OUT_GRANULES]
  omega

theorem State.putPort_keepsSkein (s : State) (n p : Nat) (l : List (Nat × List MByte)) : KeepsSkein n s (s.putPort n p l).1 := by
  induction l generalizing s with
  | nil => exact KeepsSkein.refl n s
  | cons c l ih =>
    unfold State.putPort
    split
    · exact ((s.sendWr_keepsSkein n p c.1 c.2).trans (State.noteFar_keepsSkein n _ n _ _)).trans (ih _)
    · exact KeepsSkein.refl n s

/-- A write to any destination for the work of a stream keeps its skein. -/
theorem State.putDst_keepsSkein (s : State) (n q dst : Nat) (l : List MByte) : KeepsSkein n s (s.putDst n q dst l) :=
  KeepsSkein.ite (s.putPort_keepsSkein n _ _) (s.putOA_keepsSkein n q _ l)

theorem State.addBytes_keepsSkein (n : Nat) (s : State) (m k : Nat) : KeepsSkein n s (s.addBytes m k) := by
  refine KeepsSkein.set s _ _ ?_
  simp only [Fld.key, R.STREAM_RUN_STATE, R.STREAM_DONE_BYTES]
  omega

/-- Completed blocks taken into the check value keep the skein. -/
theorem State.foldCheck_keepsSkein (n : Nat) (s : State) (m fuel : Nat) : KeepsSkein n s (s.foldCheck m fuel) := by
  induction fuel generalizing s with
  | zero => exact KeepsSkein.refl n s
  | succ fuel ih =>
    unfold State.foldCheck
    extract_lets x
    split
    · exact KeepsSkein.refl n s
    extract_lets u
    have hu : KeepsSkein n s u := by
      refine KeepsSkein.set s _ _ ?_
      simp only [Fld.key, R.STREAM_RUN_STATE, R.STREAM_LOOP_CHECK]
      omega
    refine KeepsSkein.trans ?_ (ih _)
    exact hu.trans (KeepsSkein.setStr u m _ rfl)

theorem State.doneSeq_keepsSkein (n : Nat) (s : State) (m seq : Nat) (l : List Byte) : KeepsSkein n s (s.doneSeq m seq l) := by
  refine KeepsSkein.trans ?_ (State.foldCheck_keepsSkein n _ m _)
  exact KeepsSkein.setStr s m _ rfl

end Sys2Proof.Machine
end

section
/-! SUPPORT. O32: what opening and closing a skein's context on an engine leaves (R186, R189, R194, R218). -/

namespace Sys2Proof.Machine

/-! ## Windows of engines -/

/-- The engines' windows show the same map, and the same bytes encoded. -/
structure SameWindows (s t : State) : Prop where
  logical : ∀ p, t.rf (R.SKEIN_MAP_LOGICAL p) = s.rf (R.SKEIN_MAP_LOGICAL p)
  state   : ∀ p, t.rf (R.SKEIN_MAP_STATE p) = s.rf (R.SKEIN_MAP_STATE p)
  bytes   : ∀ p, t.rf (R.SKEIN_ENC_BYTES p) = s.rf (R.SKEIN_ENC_BYTES p)

theorem SameWindows.refl (s : State) : SameWindows s s := ⟨fun _ => rfl, fun _ => rfl, fun _ => rfl⟩

/-- States with the same registers. -/
theorem SameWindows.same {s t : State} (h : t.regs = s.regs) : SameWindows s t :=
  have hrf : ∀ f : Fld, t.rf f = s.rf f := fun f => by
    unfold State.rf
    rw [h]
  ⟨fun _ => hrf _, fun _ => hrf _, fun _ => hrf _⟩

theorem SameWindows.trans {s t u : State} (h1 : SameWindows s t) (h2 : SameWindows t u) : SameWindows s u :=
  ⟨fun p => (h2.logical p).trans (h1.logical p), fun p => (h2.state p).trans (h1.state p), fun p => (h2.bytes p).trans (h1.bytes p)⟩

theorem SameWindows.ite {s a b : State} {c : Prop} [Decidable c] (ha : SameWindows s a) (hb : SameWindows s b) :
    SameWindows s (if c then a else b) := by split <;> assumption

/-- A field of an engine's window lies in SKEIN. -/
theorem skeinWindow_blk {b : Nat} (p lo w : Nat) (hb : 0x480000 ≤ b ∧ b < 0x480100) (h : lo < 64) :
    Fld.blk ⟨b + 0x100 * (p % 72), lo, w⟩ = 10 := by
  have hlow : blockOf 0x480000 = 10 := by decide
  have hhigh : blockOf (0x4800FF + 0x100 * 71) = 10 := by decide
  have hp := Nat.mod_lt p (show 0 < 72 by decide)
  have hge := blockOf_mono (show 0x480000 ≤ b + 0x100 * (p % 72) by omega)
  have hle := blockOf_mono (show b + 0x100 * (p % 72) ≤ 0x4800FF + 0x100 * 71 by omega)
  rw [Fld.blk_eq _ _ _ h]
  omega

/-- What leaves SKEIN's registers leaves the windows. -/
theorem Does.sameWindows {m : Nat} {s t : State} (h : Does m s t) (h10 : m.testBit 10 = false) : SameWindows s t :=
  have hrf : ∀ b p lo w : Nat, 0x480000 ≤ b ∧ b < 0x480100 → lo < 64 →
      t.rf ⟨b + 0x100 * (p % 72), lo, w⟩ = s.rf ⟨b + 0x100 * (p % 72), lo, w⟩ :=
    fun b p lo w hb hlo => h.rf _ (by rw [skeinWindow_blk p lo w hb hlo, h10])
  ⟨fun p => hrf 0x480000 p 8 8 (by decide) (by decide), fun p => hrf 0x480000 p 0 4 (by decide) (by decide),
    fun p => hrf 0x480008 p 0 64 (by decide) (by decide)⟩

/-- A register of a window behind its count of bytes encoded is written. -/
theorem SameWindows.set (s : State) (v : Nat) {b q lo w : Nat} (hb : 0x480008 < b ∧ b < 0x480100) (hlo : lo < 64) :
    SameWindows s (s.set ⟨b + 0x100 * (q % 72), lo, w⟩ v) := by
  have hne : ∀ a p lo' w' : Nat, a = 0x480000 ∨ a = 0x480008 → lo' < 64 →
      (⟨a + 0x100 * (p % 72), lo', w'⟩ : Fld).key ≠ (⟨b + 0x100 * (q % 72), lo, w⟩ : Fld).key := by
    intro a p lo' w' ha hlo'
    show (a + 0x100 * (p % 72)) * 64 + lo' ≠ (b + 0x100 * (q % 72)) * 64 + lo
    omega
  exact ⟨fun p => s.rf_set_of_ne _ _ v (hne _ p 8 8 (.inl rfl) (by decide)), fun p => s.rf_set_of_ne _ _ v (hne _ p 0 4 (.inl rfl) (by decide)),
    fun p => s.rf_set_of_ne _ _ v (hne _ p 0 64 (.inr rfl) (by decide))⟩

/-- The window of a logical engine is found by what the windows show of their map. -/
theorem SameWindows.engineWin {s t : State} (h : SameWindows s t) (l : Nat) : t.engineWin l = s.engineWin l := by
  unfold State.engineWin
  simp only [h.logical, h.state]

/-! ## Contexts -/

theorem State.openCtx_keepsSkein (n : Nat) (s : State) (l dir : Nat) (opening : Bool) : KeepsSkein n s (s.openCtx l dir opening) :=
  (State.openCtx_does s l dir opening (by decide) (Does.rfl' offSkein s)).keepsSkein n

theorem State.useUnits_mem (s : State) (us : List Nat) : (s.useUnits us).mem = s.mem := by
  unfold State.useUnits
  split
  · rfl
  · unfold State.showUnits
    exact State.forEach_keeps State.mem _ _ (fun _ _ => by rfl) _

theorem State.openCtx_mem (s : State) (l dir : Nat) (opening : Bool) : (s.openCtx l dir opening).mem = s.mem := by
  cases opening
  · rfl
  · exact s.useUnits_mem _

theorem State.openCtx_sameWindows (s : State) (l dir : Nat) (opening : Bool) : SameWindows s (s.openCtx l dir opening) := by
  unfold State.openCtx
  extract_lets u f
  have hu : SameWindows s u :=
    SameWindows.ite ((State.useUnits_does s _ (by decide) (Does.rfl' 137438953988 s)).sameWindows (by decide)) (SameWindows.refl s)
  refine hu.trans ?_
  by_cases hdir : dir = 0
  · rw [show f = R.SKEIN_CTX_ENC_OPEN (u.engineWin l) from if_pos hdir]
    exact SameWindows.set u _ (by decide) (by decide)
  · rw [show f = R.SKEIN_CTX_DEC_OPEN (u.engineWin l) from if_neg hdir]
    exact SameWindows.set u _ (by decide) (by decide)

theorem State.leaveEng_keepsSkein (n : Nat) (s : State) (k : SkeinCtx) : KeepsSkein n s (s.leaveEng k) := by
  unfold State.leaveEng
  split
  · exact s.openCtx_keepsSkein n _ _ _
  · exact KeepsSkein.refl n s

theorem State.leaveEng_mem (s : State) (k : SkeinCtx) : (s.leaveEng k).mem = s.mem := by
  unfold State.leaveEng
  split
  · exact s.openCtx_mem _ _ _
  · rfl

theorem State.leaveEng_sameWindows (s : State) (k : SkeinCtx) : SameWindows s (s.leaveEng k) := by
  unfold State.leaveEng
  split
  · exact s.openCtx_sameWindows _ _ _
  · exact SameWindows.refl s

/-- A stream's skein enters the engine whose slot it takes: only where its context is open changes of the stream's record (R186). -/
theorem State.enterEng_shows (s : State) (n : Nat) (k : SkeinCtx) (hk : (s.str n).sk = some k) :
    ∃ e : Option Nat, (s.enterEng n k).2 = { k with eng := e } ∧ ((s.enterEng n k).1.str n).sk = some { k with eng := e } ∧
      ((s.enterEng n k).1.str n).host = (s.str n).host ∧ (s.enterEng n k).1.sst n = s.sst n ∧
      (s.enterEng n k).1.led.skOut = s.led.skOut ∧ SameWindows s (s.enterEng n k).1 ∧ ∀ l, s.engineOf n k.dir = some l → e = some l := by
  unfold State.enterEng
  split
  · rename_i hnone
    exact ⟨k.eng, rfl, hk, rfl, rfl, rfl, SameWindows.refl s, by simp [hnone]⟩
  rename_i l hl
  split
  · rename_i heng
    exact ⟨k.eng, rfl, hk, rfl, rfl, rfl, SameWindows.refl s, by simp [heng, hl]⟩
  · have hmove := (s.leaveEng_keepsSkein n k).trans (State.openCtx_keepsSkein n _ l k.dir true)
    have hwins := (s.leaveEng_sameWindows k).trans (State.openCtx_sameWindows _ l k.dir true)
    have hstrs : ((s.leaveEng k).openCtx l k.dir true).strs = s.strs :=
      (State.openCtx_does _ l k.dir true (by decide)
        (State.leaveEng_does s k (by decide) (Does.rfl' 137438955012 s))).frame .streams (by decide)
    have hhost : (((s.leaveEng k).openCtx l k.dir true).str n).host = (s.str n).host := by
      unfold State.str
      rw [hstrs]
    refine ⟨some l, rfl, ?_, ?_, hmove.sst, hmove.skOut, hwins.trans (SameWindows.same rfl), by simp [hl]⟩
    · simp [State.setSk]
    · simp [State.setSk, hhost]

/-! ## The end of a slot -/

theorem State.foldCheck_mem (s : State) (n fuel : Nat) : (s.foldCheck n fuel).mem = s.mem := by
  induction fuel generalizing s with
  | zero => rfl
  | succ fuel ih =>
    unfold State.foldCheck
    extract_lets x
    split
    · rfl
    · exact ih _

/-- A skein taken from its stream and its engine, and counted as closed. -/
def State.skeinLeft (s : State) (n : Nat) (k : SkeinCtx) : State :=
  let u := (s.leaveEng k).setStr n { s.str n with sk := none }
  { u with led := { u.led with skOut := u.led.skOut + 1 } }

theorem State.skeinLeft_shows (s : State) (n : Nat) (k : SkeinCtx) : (s.skeinLeft n k).sst n = s.sst n ∧ ((s.skeinLeft n k).str n).sk = none ∧
    (s.skeinLeft n k).led.skOut = s.led.skOut + 1 ∧ (s.skeinLeft n k).mem = s.mem ∧ SameWindows s (s.skeinLeft n k) := by
  have hleave := s.leaveEng_keepsSkein n k
  refine ⟨hleave.sst, ?_, congrArg (· + 1) hleave.skOut, s.leaveEng_mem k, (s.leaveEng_sameWindows k).trans (SameWindows.same rfl)⟩
  show (((s.leaveEng k).setStr n _).str n).sk = none
  simp

/-- A skein that ends in a stream that is not stopping: its bytes take their place in the check value, and the stream goes on. -/
theorem State.closeSk_eq (s : State) (n : Nat) (k : SkeinCtx) (hs : s.sst n ≠ ssSTOPPING) :
    s.closeSk n k = (s.skeinLeft n k).doneSeq n k.seq k.out := by
  have hsst : ((s.skeinLeft n k).doneSeq n k.seq k.out).sst n ≠ ssSTOPPING := by
    rwa [(State.doneSeq_keepsSkein n _ n _ _).sst, (s.skeinLeft_shows n k).1]
  show ((s.skeinLeft n k).doneSeq n k.seq k.out).tryClose n = _
  unfold State.tryClose
  exact if_neg fun h => hsst h.1

/-- The end of a skein in a stream that is not stopping leaves the memory and the windows, and counts the skein as closed. -/
theorem State.closeSk_shows (s : State) (n : Nat) (k : SkeinCtx) (hs : s.sst n ≠ ssSTOPPING) : ((s.closeSk n k).str n).sk = none ∧
    (s.closeSk n k).led.skOut = s.led.skOut + 1 ∧ (s.closeSk n k).mem = s.mem ∧ SameWindows s (s.closeSk n k) := by
  obtain ⟨-, hsk, hout, hmem, hwins⟩ := s.skeinLeft_shows n k
  have hdone := State.doneSeq_keepsSkein n (s.skeinLeft n k) n k.seq k.out
  rw [s.closeSk_eq n k hs]
  exact ⟨hdone.sk.trans hsk, hdone.skOut.trans hout, (State.foldCheck_mem _ n _).trans hmem,
    hwins.trans ((State.doneSeq_does _ n _ _ (by decide) (Does.rfl' 549755813920 _)).sameWindows (by decide))⟩

/-- After a block in a stream that is not stopping: the skein stands at its next block, or it ends; the memory and the windows stay (R186, R218). -/
theorem State.afterSlot_shows (s : State) (n : Nat) (k : SkeinCtx) (hs : s.sst n ≠ ssSTOPPING) :
    (s.afterSlot n k).mem = s.mem ∧ SameWindows s (s.afterSlot n k) ∧
      (k.block < blockCount k.len → ((s.afterSlot n k).str n).sk = some k) ∧
      (blockCount k.len ≤ k.block → ((s.afterSlot n k).str n).sk = none ∧ (s.afterSlot n k).led.skOut = s.led.skOut + 1) := by
  by_cases hlast : blockCount k.len ≤ k.block
  · obtain ⟨hsk, hout, hmem, hwins⟩ := s.closeSk_shows n k hs
    rw [show s.afterSlot n k = s.closeSk n k from if_pos (.inl hlast)]
    exact ⟨hmem, hwins, fun h => absurd hlast (Nat.not_le.mpr h), fun _ => ⟨hsk, hout⟩⟩
  · rw [show s.afterSlot n k = s.setSk n k from if_neg (not_or.mpr ⟨hlast, hs⟩)]
    exact ⟨rfl, SameWindows.same rfl, fun _ => by simp [State.setSk], fun h => absurd h hlast⟩

end Sys2Proof.Machine
end

section
/-! SUPPORT. O32: the state in which a skein's slot works: the same stream and skein, the same engine, the same map of pages (R186, R231, R248). -/

namespace Sys2Proof.Machine

/-! ## The map of pages -/

/-- What leaves the tiers, their registers, the chart and GLB leaves what a requester finds at a page. -/
theorem Does.pageFor_eq {m : Nat} {s t : State} (h : Does m s t) (h0 : m.testBit 0 = false) (h7 : m.testBit 7 = false)
    (h30 : m.testBit 30 = false) (h38 : m.testBit 38 = false) (w : Who) (page : Nat) (other : Bool) :
    t.pageFor w page other = s.pageFor w page other := by
  have hchart : t.chart = s.chart := h.frame .chart h30
  have htier : t.tier = s.tier := h.frame .tier h38
  have hpair : t.pairOf page = s.pairOf page := by
    unfold State.pairOf
    rw [hchart]
  have hsel : t.selPage page other = s.selPage page other := by
    unfold State.selPage
    rw [hpair, htier]
  have hent : ∀ p, t.entOf p = s.entOf p := h.entOf_eq h7 h38
  have htierOf : ∀ da, t.tierOf da = s.tierOf da := fun da => by
    unfold State.tierOf
    rw [h.rf R.GLB_ID_LCLUSTERS (by rw [show R.GLB_ID_LCLUSTERS.blk = 0 by decide, h0])]
  have hbias : ∀ p, t.bias p = s.bias p := fun p => by
    unfold State.bias
    rw [h.rf (R.TIER_BIAS_BIAS (p / 64)) (by
      rw [R.TIER_BIAS_BIAS, Fld.blk_elem 0x310000 0x8 _ 3968 0 64 7 (by decide) (by decide) (by decide) (by decide), h7])]
  have hbars : ∀ e, t.biasBars w page e = s.biasBars w page e := fun e => by
    unfold State.biasBars
    rw [hbias, htier, h.rf R.TIER_STATUS_MODE (by rw [show R.TIER_STATUS_MODE.blk = 7 by decide, h7])]
  have hpeer : ∀ p, t.peerOk p = s.peerOk p := fun p => by
    have hrf : ∀ j lo w : Nat, lo < 64 → t.rf ⟨0x301000 + 0x8 * (j % 64), lo, w⟩ = s.rf ⟨0x301000 + 0x8 * (j % 64), lo, w⟩ :=
      fun j lo w hlo => h.rf _ (by rw [Fld.blk_elem 0x301000 0x8 j 64 lo w 7 hlo (by decide) (by decide) (by decide), h7])
    unfold State.peerOk
    dsimp only
    rw [show t.rf (R.TIER_PEER_VALID _) = s.rf (R.TIER_PEER_VALID _) from hrf _ 0 1 (by decide),
      show t.rf (R.TIER_PEER_PAGES _) = s.rf (R.TIER_PEER_PAGES _) from hrf _ 1 22 (by decide)]
  unfold State.pageFor
  simp only [hsel, hent, htierOf, hbars, hpeer, State.pageOwner_congr hchart]

/-- The same of the far pieces of a range that are still to be asked for. -/
theorem Does.missing_eq {m : Nat} {s t : State} (h : Does m s t) (h0 : m.testBit 0 = false) (h7 : m.testBit 7 = false)
    (h30 : m.testBit 30 = false) (h38 : m.testBit 38 = false) (w : Who) (asked : List (Nat × Nat)) (oa len : Nat) :
    t.missing w asked oa len = s.missing w asked oa len := by
  have hspan : ∀ sp, t.farSpan w sp = s.farSpan w sp := fun sp => by
    unfold State.farSpan State.tierOf
    rw [h.pageFor_eq h0 h7 h30 h38, h.rf R.GLB_ID_LCLUSTERS (by rw [show R.GLB_ID_LCLUSTERS.blk = 0 by decide, h0])]
  unfold State.missing
  simp only [hspan]

/-- A slot lacks the same bytes wherever the engine of the skein's context is open. -/
theorem Does.lacks_eq {m : Nat} {s t : State} (h : Does m s t) (h0 : m.testBit 0 = false) (h7 : m.testBit 7 = false)
    (h30 : m.testBit 30 = false) (h38 : m.testBit 38 = false) {n : Nat} (hhost : (t.str n).host = (s.str n).host) (k : SkeinCtx)
    (e : Option Nat) (ranges : List (Nat × Nat)) : t.lacks n { k with eng := e } ranges = s.lacks n k ranges := by
  have hwho : t.strWho n k.seq = s.strWho n k.seq := by
    unfold State.strWho
    rw [hhost, show t.tier = s.tier from h.frame .tier h38]
  unfold State.lacks
  simp only [hwho, h.missing_eq h0 h7 h30 h38]

/-! ## The slots of a stream -/

/-- `advance` neither enters nor leaves IDLE and HOLD. -/
theorem State.advance_stopped (s : State) (t : Nat) : (s.advance t).stopped = s.stopped := by
  by_cases htail : s.phase = phTAIL
  · by_cases hend : s.paused = false ∧ s.planEndAt ≤ t
    · unfold State.stopped
      rw [s.advance_phase_planEnd htail hend.1 hend.2, htail]
      decide
    · have hbefore : s.paused = true ∨ t < s.planEndAt := by
        rcases not_and_or.mp hend with h | h
        · exact .inl (Bool.not_eq_false _ ▸ h)
        · exact .inr (Nat.not_le.mp h)
      unfold State.stopped
      rw [s.advance_phase_before hbefore]
  · unfold State.stopped
    rw [s.advance_phase t htail]

/-- What an owner has taken of its slots is all that changes of its stream. -/
theorem State.useSlots_str (s : State) (n : Nat) (used : List (Nat × Nat)) :
    ((s.useSlots n used).str n).sk = (s.str n).sk ∧ ((s.useSlots n used).str n).host = (s.str n).host := by
  unfold State.useSlots
  split
  · exact ⟨rfl, rfl⟩
  · simp

theorem State.useSlots_regs (s : State) (n : Nat) (used : List (Nat × Nat)) : (s.useSlots n used).regs = s.regs := by
  unfold State.useSlots
  split <;> rfl

/-- What a stream's slot works in: this state, or the tick by which the slots it takes have carried it. -/
theorem State.slotState_cases {s u : State} {n : Nat} {k : SkeinCtx} (h : s.slotState n k = some u) :
    u = s ∨ s.slotted n = true ∧ ∃ c : List (Nat × Nat) × Nat, u = (s.useSlots n c.1).toTick c.2 := by
  unfold State.slotState at h
  extract_lets r at h
  split at h
  · rename_i hslot
    obtain ⟨c, -, rfl⟩ := Option.map_eq_some_iff.mp h
    exact .inr ⟨(Bool.and_eq_true _ _ ▸ hslot).1, c, rfl⟩
  · exact .inl (Option.some.inj h).symm

/-- A slot of a skein runs in its slot state. -/
theorem State.runSlot_of_slotState {s u : State} {n : Nat} {k : SkeinCtx} (h : s.slotState n k = some u) : s.runSlot n k = u.skeinSlot n k := by
  unfold State.slotState at h
  unfold State.runSlot
  dsimp only at h ⊢
  rw [← Bool.not_and]
  by_cases hslot : (s.slotted n && slotRan k ((s.skeinSlot n k).str n).sk) = true
  · rw [if_pos hslot] at h
    obtain ⟨c, hc, rfl⟩ := Option.map_eq_some_iff.mp h
    rw [hslot, hc]
    rfl
  · rw [if_neg hslot] at h
    obtain rfl := Option.some.inj h
    rw [if_pos (by simp only [hslot, Bool.not_false])]

/-- Waiting for its slots leaves a stream, its skein and the windows of the engines. -/
theorem State.slotState_shows {s u : State} {n : Nat} {k : SkeinCtx} (h : s.slotState n k = some u) :
    Does 2748846702608 s u ∧ u.sst n = s.sst n ∧ (u.str n).sk = (s.str n).sk ∧ (u.str n).host = (s.str n).host := by
  rcases State.slotState_cases h with rfl | ⟨-, c, rfl⟩
  · exact ⟨Does.rfl' _ _, rfl, rfl, rfl⟩
  have huse : Does 2748846702608 s (s.useSlots n c.1) := State.useSlots_does s n c.1 (by decide) (Does.rfl' _ s)
  have htick : Does 67633168 (s.useSlots n c.1) ((s.useSlots n c.1).toTick c.2) := State.toTick_does _ c.2 (by decide) (Does.rfl' _ _)
  have hstr : ((s.useSlots n c.1).toTick c.2).str n = (s.useSlots n c.1).str n := by
    unfold State.str
    rw [htick.frame .streams (by decide)]
  have hdoes := htick.after (by decide) huse
  refine ⟨hdoes, hdoes.rf _ (by rw [R.STREAM_RUN_STATE, streamRun_blk _ _ _ (by decide)]; decide), ?_, ?_⟩
  · rw [hstr, (s.useSlots_str n c.1).1]
  · rw [hstr, (s.useSlots_str n c.1).2]

/-- A stream that is slotted is a plan stream, or the device is in plan time. -/
theorem State.not_stopped_of_slotted {s : State} {n : Nat} (h : s.slotted n = true) : ((s.str n).host && s.stopped) = false := by
  cases hhost : (s.str n).host
  · rfl
  have hplan : s.inPlan = true := by
    simp only [State.slotted, State.slotBound, State.slotTime, hhost, Bool.not_true, Bool.false_and, Bool.false_or, Bool.true_and,
      Bool.and_eq_true] at h
    exact h.1
  rw [Bool.true_and]
  simp only [State.inPlan, State.training, State.stopped, Bool.or_eq_true, Bool.and_eq_true, decide_eq_true_eq, beq_iff_eq] at hplan ⊢
  have hne : ¬(s.phase = phIDLE ∨ s.phase = phHOLD) := by
    unfold phIDLE phHOLD
    unfold phFORWARD phRESERVE phSWATCH at hplan
    omega
  rw [Bool.eq_false_iff]
  simpa using hne

/-- In plan time, and for a plan stream, the schedule names the engine (R186). -/
theorem State.engineFor_eq_schedule {s : State} {n : Nat} (dir : Nat) (hs : s.sst n ≠ ssSTOPPING) (hrun : ((s.str n).host && s.stopped) = false) :
    s.engineFor n dir = schEngine s.schedule (if dir = 0 then 7 else 8) n := by
  unfold State.engineFor
  dsimp only
  rw [if_neg fun h => hs h.1, if_neg (by rw [hrun]; decide)]

/-- A skein's slot has the same engine in its slot state. -/
theorem State.slotState_engineOf {s u : State} {n : Nat} {k : SkeinCtx} (h : s.slotState n k = some u) (hs : s.sst n ≠ ssSTOPPING) (dir : Nat) :
    u.engineOf n dir = s.engineOf n dir := by
  obtain ⟨hdoes, hsst, hsk, hhost⟩ := State.slotState_shows h
  rcases State.slotState_cases h with rfl | ⟨hslot, c, rfl⟩
  · rfl
  have hrun := State.not_stopped_of_slotted hslot
  have huse : (s.useSlots n c.1).stopped = s.stopped := by
    unfold State.stopped State.phase State.rf
    rw [s.useSlots_regs]
  have hstop : ((s.useSlots n c.1).toTick c.2).stopped = s.stopped := (State.advance_stopped _ _).trans huse
  have hvariant : ((s.useSlots n c.1).toTick c.2).variant = s.variant :=
    (State.advance_rf _ _ _ (by decide)).trans (by unfold State.rf; rw [s.useSlots_regs]; rfl)
  have hsched : ((s.useSlots n c.1).toTick c.2).schedule = s.schedule := by
    unfold State.schedule
    rw [show ((s.useSlots n c.1).toTick c.2).chart = s.chart from hdoes.frame .chart (by decide),
      show ((s.useSlots n c.1).toTick c.2).step = s.step from hdoes.frame .step (by decide), hvariant]
  have hwins : SameWindows s ((s.useSlots n c.1).toTick c.2) := hdoes.sameWindows (by decide)
  have hopen : ∀ l, ((s.useSlots n c.1).toTick c.2).rf (((s.useSlots n c.1).toTick c.2).openF l dir) = s.rf (s.openF l dir) := fun l => by
    have hblk : (s.openF l dir).blk = 10 := by
      unfold State.openF
      split
      · exact skeinWindow_blk _ 0 3 (by decide) (by decide)
      · exact skeinWindow_blk _ 4 3 (by decide) (by decide)
    rw [show ((s.useSlots n c.1).toTick c.2).openF l dir = s.openF l dir by unfold State.openF; rw [hwins.engineWin]]
    exact hdoes.rf _ (by rw [hblk]; decide)
  have heng : ((s.useSlots n c.1).toTick c.2).openEng n = s.openEng n := by
    unfold State.openEng
    rw [hsk]
  unfold State.engineOf
  rw [State.engineFor_eq_schedule dir (by rwa [hsst]) (by rw [hhost, hstop, hrun]), State.engineFor_eq_schedule dir hs hrun, hsched, heng,
    show ((s.useSlots n c.1).toTick c.2).fault = s.fault from hdoes.frame .fault (by decide)]
  simp only [hopen]

end Sys2Proof.Machine
end

section
/-! SUPPORT. O32: an encode slot of a plain skein that serves no stash (R134, R178, R179, R187, R194). -/

namespace Sys2Proof.Machine

/-- The parts that an encode slot may change. -/
def encodeSlotParts : List Part :=
  [.pwrRegs, .stepRegs, .streamRegs, .hqRegs, .tierRegs, .ftlRegs, .cluRegs, .skeinRegs, .cdpRegs, .faultRegs, .logRegs, .row, .memory, .marks,
   .sent, .free, .flagOut, .idleRuns, .logRound, .stash, .fault, .ledgers, .ports, .power, .tier, .streams, .host, .flash, .clusters]

/-- The parts that a decode slot may change: those of an encode slot but the stash. -/
def decodeSlotParts : List Part :=
  [.pwrRegs, .stepRegs, .streamRegs, .hqRegs, .tierRegs, .ftlRegs, .cluRegs, .skeinRegs, .cdpRegs, .faultRegs, .logRegs, .row, .memory, .marks,
   .sent, .free, .flagOut, .idleRuns, .logRound, .fault, .ledgers, .ports, .power, .tier, .streams, .host, .flash, .clusters]

/-- A slot whose stream may take it and whose lines the host does not hold works in its slot state (R186, R280). -/
theorem State.slot_works {s u : State} {n dir : Nat} {k : SkeinCtx} (hdir : k.dir = dir) (hmay : s.maySlot n = true)
    (heng : (s.engineOf n dir).isSome = true) (hlines : s.skeinLines n k = []) (hu : s.slotState n k = some u) :
    (if k.dir != dir || !s.maySlot n || (s.engineOf n dir).isNone then s
      else if !(s.skeinLines n k).isEmpty then s.invalidate (s.skeinLines n k) else s.runSlot n k) =
      (u.enterEng n k).1.slotOf n (u.enterEng n k).2 := by
  have hgo : (k.dir != dir || !s.maySlot n || (s.engineOf n dir).isNone) = false := by
    rw [hdir, hmay, ← Option.not_isSome, heng, bne_self_eq_false]
    rfl
  rw [hgo, hlines, if_neg (by decide), if_neg (by decide), State.runSlot_of_slotState hu]
  rfl

theorem exec_skeinEncodeSlot {n : Fin 16384} {s u : State} {k : SkeinCtx} (hk : (s.str n.val).sk = some k) (hdir : k.dir = 0)
    (hmay : s.maySlot n.val = true) (heng : (s.engineOf n.val 0).isSome = true) (hlines : s.skeinLines n.val k = [])
    (hu : s.slotState n.val k = some u) :
    exec (.skeinEncodeSlot n) s = .next ((u.enterEng n.val k).1.slotOf n.val (u.enterEng n.val k).2) := by
  show execSkeinEncodeSlot n s = _
  unfold execSkeinEncodeSlot
  rw [hk]
  exact congrArg _ (State.slot_works hdir hmay heng hlines hu)

theorem exec_skeinDecodeSlot {n : Fin 16384} {s u : State} {k : SkeinCtx} (hk : (s.str n.val).sk = some k) (hdir : k.dir = 1)
    (hmay : s.maySlot n.val = true) (heng : (s.engineOf n.val 1).isSome = true) (hlines : s.skeinLines n.val k = [])
    (hu : s.slotState n.val k = some u) :
    exec (.skeinDecodeSlot n) s = .next ((u.enterEng n.val k).1.slotOf n.val (u.enterEng n.val k).2) := by
  show execSkeinDecodeSlot n s = _
  unfold execSkeinDecodeSlot
  rw [hk]
  exact congrArg _ (State.slot_works hdir hmay heng hlines hu)

/-! ## Where a packed block goes -/

/-- The bytes of a block that serves no stash go to the skein's destination, and count as the stream's (R196, R201). -/
theorem State.putBlock_shows (s : State) (n : Nat) (k : SkeinCtx) (bytes : List Byte) (last marked : Bool) (h : k.stash = none) :
    KeepsSkein n s (s.putBlock n k bytes last marked).1 ∧ SameWindows s (s.putBlock n k bytes last marked).1 ∧
      (s.putBlock n k bytes last marked).1.mem = (s.putDst n k.seq (k.dst + k.coded) (clean bytes)).mem ∧
      (s.putBlock n k bytes last marked).2 = { k with coded := k.coded + bytes.length, out := k.out ++ bytes } := by
  have hput : s.putBlock n k bytes last marked = ((s.putDst n k.seq (k.dst + k.coded) (clean bytes)).addBytes n bytes.length,
      { k with coded := k.coded + bytes.length, out := k.out ++ bytes }) := by
    unfold State.putBlock
    rw [h]
  rw [hput]
  exact ⟨(s.putDst_keepsSkein n k.seq _ _).trans (State.addBytes_keepsSkein n _ n _), (State.addBytes_does _ n _ (by decide)
    (State.putDst_does s n k.seq _ _ (by decide) (Does.rfl' 25134709631408 s))).sameWindows (by decide), rfl, rfl⟩

/-! ## A block -/

/-- A block's raw bytes counted in the window of its engine, and marked input recorded there (R187, R194). -/
def State.countEncoded (s : State) (n exp : Nat) (marked : Bool) : State :=
  let u := (s.winBytes (s.skWin n 0) 0 exp).set (R.SKEIN_CTX_ENC_STREAM (s.skWin n 0)) n
  if marked then (u.engineErr n 0 stPOISON_IN R.SKEIN_ERR_MARKED_IN).note n stPOISON_IN 4 else u

theorem State.winErr_keepsSkein (n : Nat) (s : State) (p st : Nat) (bit : Nat → Fld) (h : ∀ q, okField (bit q) offSkein = true) :
    KeepsSkein n s (s.winErr p st bit) :=
  (State.winErr_does s p st bit h (by decide) (Does.rfl' offSkein s)).keepsSkein n

theorem State.winBytes_keepsSkein (n : Nat) (s : State) (p dir c : Nat) : KeepsSkein n s (s.winBytes p dir c) :=
  (State.winBytes_does s p dir c (by decide) (Does.rfl' offSkein s)).keepsSkein n

/-- Marked input is recorded behind the map and the counts of a window. -/
theorem State.markedIn_sameWindows (s : State) (p : Nat) : SameWindows s (s.winErr p stPOISON_IN R.SKEIN_ERR_MARKED_IN) := by
  unfold State.winErr
  extract_lets u
  have hu : SameWindows s u := (SameWindows.set s 1 (b := 0x480020) (by decide) (by decide)).trans
    (SameWindows.set _ stPOISON_IN (b := 0x480020) (by decide) (by decide))
  exact SameWindows.ite (hu.trans (SameWindows.set u _ (b := 0x480020) (by decide) (by decide))) hu

/-- Counting a block's bytes leaves the skein in hand, and the count of its engine's window has grown by them. -/
theorem State.countEncoded_shows (s : State) (n exp : Nat) (marked : Bool) : KeepsSkein n s (s.countEncoded n exp marked) ∧
    (s.countEncoded n exp marked).rf (R.SKEIN_ENC_BYTES (s.skWin n 0)) = (s.rf (R.SKEIN_ENC_BYTES (s.skWin n 0)) + exp) % 2 ^ 64 := by
  unfold State.countEncoded
  extract_lets u
  have hkeep : KeepsSkein n s u := (s.winBytes_keepsSkein n _ 0 exp).trans
    ((Does.set _ _ n (ok_SKEIN_CTX_ENC_STREAM _ (by decide)) (Does.rfl' offSkein _)).keepsSkein n)
  have hbytes : u.rf (R.SKEIN_ENC_BYTES (s.skWin n 0)) = (s.rf (R.SKEIN_ENC_BYTES (s.skWin n 0)) + exp) % 2 ^ 64 :=
    ((SameWindows.set _ n (b := 0x480018) (by decide) (by decide)).bytes _).trans (s.rf_set_same _ _)
  split
  · refine ⟨(hkeep.trans (u.winErr_keepsSkein n _ _ _ fun q => ok_SKEIN_ERR_MARKED_IN q (by decide))).trans (State.note_keepsSkein _ n _ _), ?_⟩
    have hnote := (State.note_does (u.engineErr n 0 stPOISON_IN R.SKEIN_ERR_MARKED_IN) n stPOISON_IN 4 (by decide)
      (Does.rfl' 16777264 _)).sameWindows (by decide)
    exact (hnote.bytes _).trans (((u.markedIn_sameWindows _).bytes _).trans hbytes)
  · exact ⟨hkeep, hbytes⟩

/-- The bytes that a plain skein's next block packs to, before block 0 with the skein's header (R134, R138, R180). -/
def SkeinCtx.packed (k : SkeinCtx) (raw : List MByte) : List Byte :=
  let bytes := raw.map (·.1)
  let exp := blockRaw k.len k.block
  let cd := encodePlain bytes [] k.width
  (if k.block = 0 then k.header.bytes else []) ++
    (if raw.any (·.2) then blockBytes 2 exp k.block 0 bytes true else blockBytes cd.mode exp k.block cd.bits cd.payload false)

/-- A plain skein's next block read, counted, packed and put in its place. -/
def State.encodedPlain (s : State) (n : Nat) (k : SkeinCtx) : State :=
  let exp := blockRaw k.len k.block
  let g := s.readFor n k.seq ((k.src + 65536 * k.block) % 2 ^ 52) exp k.asked k.have_
  let marked := g.data.any (·.2)
  let a := (g.st.countEncoded n exp marked).putBlock n
    { k with have_ := [], asked := [], marked := k.marked || marked, slots := k.slots + 1 } (k.packed g.data) (k.block + 1 == blockCount k.len)
    (k.marked || marked)
  a.1.afterSlot n { a.2 with block := k.block + 1, headed := true }

/-- An encode slot of a plain skein whose bytes are in hand takes its next block. -/
theorem State.encodeSlot_plain (s : State) (n : Nat) (k : SkeinCtx) (hprofile : k.profile ≠ 1) (href : k.header.refKind = 0) (hlen : k.len ≠ 0)
    (hbytes : s.lacks n k [((k.src + 65536 * k.block) % 2 ^ 52, blockRaw k.len k.block)] = false) : s.encodeSlot n k = s.encodedPlain n k := by
  have hidle : k.idles = false := by simp [SkeinCtx.idles, hprofile]
  have hneed : k.needRaw = (65536 * k.block, blockRaw k.len k.block) := if_neg hprofile
  have hbase : (k.header.refKind == 1) = false := by rw [href]; rfl
  have hmark : ∀ b : Bool, (b || ([] : List MByte).any (·.2)) = b := Bool.or_false
  unfold State.encodeSlot
  simp only [hprofile, hlen, hidle, hneed, hbase, hbytes, hmark, false_and, Bool.false_eq_true, if_false]
  rfl

/-- The next block of a plain skein leaves the skein one block further, or at its end, and its engine's count grown by the block's raw bytes. -/
theorem State.encodedPlain_shows (s : State) (n : Nat) (k : SkeinCtx) {l : Nat} (hsk : (s.str n).sk = some k) (heng : k.eng = some l)
    (hs : s.sst n ≠ ssSTOPPING) (hstash : k.stash = none) :
    (s.encodedPlain n k).rf (R.SKEIN_ENC_BYTES (s.engineWin l)) = (s.rf (R.SKEIN_ENC_BYTES (s.engineWin l)) + blockRaw k.len k.block) % 2 ^ 64 ∧
      (k.block + 1 < blockCount k.len → ∃ k' : SkeinCtx, ((s.encodedPlain n k).str n).sk = some k' ∧ k'.block = k.block + 1 ∧
        k'.headed = true ∧ k'.eng = some l ∧ k'.src = k.src ∧ k'.dst = k.dst ∧ k'.len = k.len) ∧
      (blockCount k.len ≤ k.block + 1 → ((s.encodedPlain n k).str n).sk = none ∧ (s.encodedPlain n k).led.skOut = s.led.skOut + 1) := by
  have hread := s.readFor_keepsSkein n k.seq ((k.src + 65536 * k.block) % 2 ^ 52) (blockRaw k.len k.block) k.asked k.have_
  have hreadWins := (State.readFor_does s n k.seq ((k.src + 65536 * k.block) % 2 ^ 52) (blockRaw k.len k.block) k.asked k.have_ (by decide)
    (Does.rfl' 326979575984 s)).sameWindows (by decide)
  unfold State.encodedPlain
  extract_lets exp g marked a x
  have hwin : g.st.skWin n 0 = s.engineWin l := by
    have hopen : g.st.openEng n = some l := by
      unfold State.openEng
      rw [hread.sk, hsk]
      exact heng
    unfold State.skWin
    rw [hopen]
    exact hreadWins.engineWin l
  obtain ⟨hcount, hbytes⟩ := g.st.countEncoded_shows n exp marked
  rw [hwin, hreadWins.bytes] at hbytes
  obtain ⟨hput, hputWins, -, hk'⟩ : KeepsSkein n _ a.1 ∧ SameWindows _ a.1 ∧ _ ∧ x = _ := State.putBlock_shows _ n _ _ _ _ hstash
  have hkeep := (hread.trans hcount).trans hput
  obtain ⟨-, hwins, hnext, hlast⟩ := a.1.afterSlot_shows n { x with block := k.block + 1, headed := true } (by rwa [hkeep.sst])
  clear_value a x
  subst hk'
  refine ⟨(hwins.bytes _).trans ((hputWins.bytes _).trans hbytes), fun h => ⟨_, hnext h, rfl, rfl, heng, rfl, rfl, rfl⟩, fun h => ?_⟩
  rw [← hkeep.skOut]
  exact hlast h

/-! ## SKEIN_ENCODE_SLOT -/

section

variable {n : Fin 16384} {s u : State} {k : SkeinCtx} (hsk : (s.str n.val).sk = some k) (hdir : k.dir = 0) (hmay : s.maySlot n.val = true)
  (hs : s.sst n.val ≠ ssSTOPPING)

include hsk hdir hmay hs

/-- A slot of a plain skein whose bytes are at hand takes its next block. -/
theorem skeinEncodeSlot_packs {l : Nat} (heng : s.engineOf n.val 0 = some l) (hlines : s.skeinLines n.val k = []) (hprofile : k.profile ≠ 1)
    (href : k.header.refKind = 0) (hstash : k.stash = none) (hlen : k.len ≠ 0)
    (hlacks : s.lacks n.val k [((k.src + 65536 * k.block) % 2 ^ 52, blockRaw k.len k.block)] = false) (hu : s.slotState n.val k = some u) :
    Runs (.skeinEncodeSlot n) s encodeSlotParts (fun t =>
      t.row = u.row ∧ t.rf (R.SKEIN_ENC_BYTES (s.engineWin l)) = (s.rf (R.SKEIN_ENC_BYTES (s.engineWin l)) + blockRaw k.len k.block) % 2 ^ 64 ∧
      (k.block + 1 < blockCount k.len → ∃ k' : SkeinCtx, (t.str n.val).sk = some k' ∧ k'.block = k.block + 1 ∧ k'.headed = true ∧
        k'.eng = some l ∧ k'.src = k.src ∧ k'.dst = k.dst ∧ k'.len = k.len) ∧
      (blockCount k.len ≤ k.block + 1 → (t.str n.val).sk = none ∧ t.led.skOut = s.led.skOut + 1)) := by
  have hexec := exec_skeinEncodeSlot hsk hdir hmay (by rw [heng]; rfl) hlines hu
  obtain ⟨hslot, husst, husk, huhost⟩ := State.slotState_shows hu
  obtain ⟨e, hk', hesk, hehost, hesst, hout, hwins, he⟩ := u.enterEng_shows n.val k (husk.trans hsk)
  obtain rfl : e = some l := he l (by rw [hdir, State.slotState_engineOf hu hs 0, heng])
  have henter : Does 687194768900 u (u.enterEng n.val k).1 := State.enterEng_does u n.val k (by decide) (Does.rfl' _ u)
  rw [hk'] at hexec
  generalize (u.enterEng n.val k).1 = x at hexec henter hesk hehost hesst hout hwins
  have hreach : Does 25276519575540 s x := henter.after (by decide) (hslot.mono (by decide))
  have hready : x.lacks n.val { k with eng := some l } [((k.src + 65536 * k.block) % 2 ^ 52, blockRaw k.len k.block)] = false := by
    rw [henter.lacks_eq (by decide) (by decide) (by decide) (by decide) hehost, ← hlacks]
    exact hslot.lacks_eq (by decide) (by decide) (by decide) (by decide) huhost k k.eng _
  have hrun : x.slotOf n.val { k with eng := some l } = x.encodedPlain n.val { k with eng := some l } :=
    (if_pos hdir).trans (x.encodeSlot_plain n.val _ hprofile href hlen hready)
  have hrow : (x.slotOf n.val { k with eng := some l }).row = u.row :=
    ((State.slotOf_does x n.val _ (by decide) (Does.rfl' 25276451942388 x)).frame .row (by decide)).trans (henter.frame .row (by decide))
  obtain ⟨hbytes, hnext, hlast⟩ := x.encodedPlain_shows n.val { k with eng := some l } hesk rfl (by rwa [hesst, husst]) hstash
  have hall : SameWindows s x := (hslot.sameWindows (by decide)).trans hwins
  rw [hall.engineWin, hall.bytes] at hbytes
  rw [hout, show u.led = s.led from hslot.frame .ledgers (by decide)] at hlast
  refine Runs.of hexec (execSkeinEncodeSlot_does n s _ hexec) (by decide) ⟨hrow, ?_⟩
  rw [hrun]
  exact ⟨hbytes, hnext, hlast⟩

/-- A slot of a plain skein of no bytes writes its header, and the skein ends. -/
theorem skeinEncodeSlot_header (heng : (s.engineOf n.val 0).isSome = true) (hlines : s.skeinLines n.val k = []) (hprofile : k.profile ≠ 1)
    (hstash : k.stash = none) (hlen : k.len = 0) (hu : s.slotState n.val k = some u) :
    Runs (.skeinEncodeSlot n) s encodeSlotParts (fun t =>
      t.mem = ((u.enterEng n.val k).1.putDst n.val k.seq (k.dst + k.coded) (clean k.header.bytes)).mem ∧ (t.str n.val).sk = none ∧
      t.led.skOut = s.led.skOut + 1) := by
  have hexec := exec_skeinEncodeSlot hsk hdir hmay heng hlines hu
  obtain ⟨hslot, husst, husk, -⟩ := State.slotState_shows hu
  obtain ⟨e, hk', hesk, -, hesst, hout, -, -⟩ := u.enterEng_shows n.val k (husk.trans hsk)
  rw [hk'] at hexec
  generalize (u.enterEng n.val k).1 = x at hexec hesk hesst hout ⊢
  obtain ⟨hput, -, hmem, hcoded⟩ := x.putBlock_shows n.val { k with eng := e } k.header.bytes true false hstash
  have hrun : x.slotOf n.val { k with eng := e } = (x.putBlock n.val { k with eng := e } k.header.bytes true false).1.closeSk n.val
      { (x.putBlock n.val { k with eng := e } k.header.bytes true false).2 with headed := true } :=
    (if_pos hdir).trans ((if_neg fun h => hprofile h.1).trans (if_pos hlen))
  obtain ⟨hnone, hclosed, hclosedMem, -⟩ := (x.putBlock n.val { k with eng := e } k.header.bytes true false).1.closeSk_shows n.val
    { (x.putBlock n.val { k with eng := e } k.header.bytes true false).2 with headed := true } (by rwa [hput.sst, hesst, husst])
  refine Runs.of hexec (execSkeinEncodeSlot_does n s _ hexec) (by decide) ?_
  rw [hrun]
  refine ⟨hclosedMem.trans hmem, hnone, hclosed.trans ?_⟩
  rw [hput.skOut, hout, show u.led = s.led from hslot.frame .ledgers (by decide)]

end

end Sys2Proof.Machine
end

section
/-! SUPPORT. O32: decode slots: an intact block delivered as its raw bytes, and one of a skein whose place in the bytes is lost (R154 to R156, R184
to R187). -/

namespace Sys2Proof.Machine

/-! ## Marks -/

/-- Clean bytes come through delivery as they are. -/
theorem zeroMarked_granuleMarks_clean (l : List Byte) : zeroMarked (granuleMarks (clean l)) = clean l := by
  have hmark : ∀ j, ((clean l).getD j (0, false)).2 = false := fun j => by
    unfold clean
    rw [List.getD_eq_getElem?_getD, List.getElem?_map]
    cases l[j]? <;> rfl
  refine List.ext_getElem (by simp [zeroMarked, granuleMarks, upTo]) fun i h₁ h₂ => ?_
  have hany : (upTo 64).any (fun j => ((clean l).getD (i / 64 * 64 + j) (0, false)).2) = false :=
    List.any_eq_false.mpr fun j _ => by rw [hmark]; decide
  simp only [zeroMarked, granuleMarks, upTo, List.getElem_map, List.getElem_range] at hany ⊢
  rw [hany, List.getD_eq_getElem _ _ h₂]
  simp [clean]

/-- Bytes zero and marked come through delivery as they are (R155, R184). -/
theorem zeroMarked_granuleMarks_badBytes (m : Nat) : zeroMarked (granuleMarks (badBytes m)) = badBytes m := by
  refine List.ext_getElem (by simp [zeroMarked, granuleMarks, upTo]) fun i h₁ h₂ => ?_
  have hlen : i < m := by simpa [badBytes] using h₂
  have hany : (List.range 64).any (fun j => ((badBytes m).getD (i / 64 * 64 + j) (0, false)).2) = true := by
    refine List.any_eq_true.mpr ⟨i % 64, List.mem_range.mpr (Nat.mod_lt i (by decide)), ?_⟩
    rw [Nat.div_add_mod', List.getD_eq_getElem _ _ h₂]
    simp [badBytes]
  simp only [zeroMarked, granuleMarks, upTo, List.getElem_map, List.getElem_range]
  rw [hany]
  simp [badBytes]

/-- A block without a base has no marks of its own. -/
theorem unbased_marks (l : List Byte) :
    (upTo l.length).map (fun j => (l.getD j 0, (([] : List MByte).getD j (0, false)).2)) = clean l := by
  refine List.ext_getElem (by simp [upTo, clean]) fun i h₁ h₂ => ?_
  have hi : i < l.length := by simpa [clean] using h₂
  simp [upTo, clean, List.getElem?_eq_getElem hi]

/-! ## Delivery -/

/-- The skein stands as before but for the image of its store and the marks kept there (R175, R176). -/
def SkeinCtx.SameButStore (k k' : SkeinCtx) : Prop := ∃ (image : List MByte) (bad : List Nat), k' = { k with image := image, bad := bad }

theorem SkeinCtx.SameButStore.refl (k : SkeinCtx) : k.SameButStore k := ⟨k.image, k.bad, rfl⟩

theorem SkeinCtx.SameButStore.trans {k₁ k₂ k₃ : SkeinCtx} (h₁ : k₁.SameButStore k₂) (h₂ : k₂.SameButStore k₃) :
    k₁.SameButStore k₃ := by
  obtain ⟨_, _, rfl⟩ := h₁
  obtain ⟨image, bad, rfl⟩ := h₂
  exact ⟨image, bad, rfl⟩

/-- Its place in the bytes, and whether it is lost, are the same. -/
theorem SkeinCtx.SameButStore.place {k k' : SkeinCtx} (h : k.SameButStore k') : k'.block = k.block ∧ k'.len = k.len ∧ k'.lost = k.lost := by
  obtain ⟨_, _, rfl⟩ := h
  exact ⟨rfl, rfl, rfl⟩

theorem State.writeStore_shows (s : State) (n : Nat) (k : SkeinCtx) (off : Nat) (l : List MByte) :
    KeepsSkein n s (s.writeStore n k off l).1 ∧ k.SameButStore (s.writeStore n k off l).2 := by
  unfold State.writeStore
  extract_lets k' g
  have hwrite : KeepsSkein n s g.st := s.writeOA_keepsSkein n _ _ _ l
  refine ⟨KeepsSkein.ite (hwrite.trans (State.note_keepsSkein _ n _ _)) hwrite, ?_⟩
  by_cases haway : s.storeAway n k = true
  · exact ⟨_, k.bad, if_pos haway⟩
  · exact ⟨k.image, k.bad, if_neg haway⟩

theorem State.writeGranules_shows (s : State) (n : Nat) (k : SkeinCtx) (off : Nat) (l : List MByte) :
    KeepsSkein n s (s.writeGranules n k off l).1 ∧ k.SameButStore (s.writeGranules n k off l).2 := s.writeStore_shows n k _ _

/-- A block kept for later predictions keeps the skein in hand (R176). -/
theorem State.keepDecoded_shows (s : State) (n : Nat) (k : SkeinCtx) (l : List MByte) :
    KeepsSkein n s (s.keepDecoded n k l).1 ∧ k.SameButStore (s.keepDecoded n k l).2 := by
  have hfold : ∀ (ps : List (Nat × Nat)) (off : Nat × Nat → Nat) (b : Nat × Nat → List MByte) (a : State × SkeinCtx),
      KeepsSkein n a.1 (ps.foldl (fun a p => a.1.writeGranules n a.2 (off p) (b p)) a).1 ∧
        a.2.SameButStore (ps.foldl (fun a p => a.1.writeGranules n a.2 (off p) (b p)) a).2 := by
    intro ps off b
    induction ps with
    | nil => exact fun a => ⟨KeepsSkein.refl n a.1, SkeinCtx.SameButStore.refl a.2⟩
    | cons p ps ih =>
      intro a
      obtain ⟨hwrite, hstore⟩ := a.1.writeGranules_shows n a.2 (off p) (b p)
      obtain ⟨hrest, hstoreRest⟩ := ih (a.1.writeGranules n a.2 (off p) (b p))
      exact ⟨hwrite.trans hrest, hstore.trans hstoreRest⟩
  unfold State.keepDecoded
  extract_lets g lo a new held bad x
  obtain ⟨hkeep, hstore⟩ : KeepsSkein n s a.1 ∧ k.SameButStore a.2 := hfold _ _ _ (s, k)
  exact ⟨hkeep, hstore.trans ⟨a.2.image, bad, rfl⟩⟩

/-- Delivery to a destination writes the block's bytes there, and the skein stands one block further (R184). -/
theorem State.deliver_shows (s : State) (n : Nat) (k : SkeinCtx) (l : List MByte) :
    KeepsSkein n s (s.deliver n k l).1 ∧
      (s.deliver n k l).1.mem = (s.putDst n k.seq (k.dst + 65536 * k.block) (zeroMarked (granuleMarks l))).mem ∧
      (s.deliver n k l).2.block = k.block + 1 ∧ (s.deliver n k l).2.len = k.len ∧ (s.deliver n k l).2.lost = k.lost ∧
      (s.deliver n k l).2.coded = k.coded := by
  refine ⟨?_, rfl, rfl, rfl, rfl, rfl⟩
  unfold State.deliver
  extract_lets l' u p
  have hput : KeepsSkein n s u := (s.putDst_keepsSkein n k.seq _ l').trans (State.addBytes_keepsSkein n _ n _)
  exact (hput.trans (u.winBytes_keepsSkein n p 1 _)).trans
    ((Does.set _ _ n (ok_SKEIN_CTX_DEC_STREAM p (by decide)) (Does.rfl' offSkein _)).keepsSkein n)

/-- The same where a Cyloth-A block is kept for later predictions before. -/
theorem State.keepDeliver_shows (s : State) (n : Nat) (k : SkeinCtx) (l : List MByte) :
    KeepsSkein n s (s.keepDeliver n k l).1 ∧ (s.keepDeliver n k l).2.block = k.block + 1 ∧ (s.keepDeliver n k l).2.len = k.len ∧
      (s.keepDeliver n k l).2.lost = k.lost := by
  unfold State.keepDeliver
  split
  · obtain ⟨hkeep, hstore⟩ := s.keepDecoded_shows n k l
    obtain ⟨hblock, hlen, hlost⟩ := hstore.place
    obtain ⟨hgive, -, hblock', hlen', hlost', -⟩ := (s.keepDecoded n k l).1.deliver_shows n (s.keepDecoded n k l).2 l
    exact ⟨hkeep.trans hgive, hblock'.trans (congrArg (· + 1) hblock), hlen'.trans hlen, hlost'.trans hlost⟩
  · obtain ⟨hgive, -, hblock, hlen, hlost, -⟩ := s.deliver_shows n k l
    exact ⟨hgive, hblock, hlen, hlost⟩

/-- A plain skein's block is written to its destination and not kept. -/
theorem State.keepDeliver_plain (s : State) (n : Nat) (k : SkeinCtx) (l : List MByte) (h : k.profile ≠ 1) :
    (s.keepDeliver n k l).1.mem = (s.putDst n k.seq (k.dst + 65536 * k.block) (zeroMarked (granuleMarks l))).mem ∧
      (s.keepDeliver n k l).2.coded = k.coded := by
  obtain ⟨-, hmem, -, -, -, hcoded⟩ := s.deliver_shows n k l
  rw [show s.keepDeliver n k l = s.deliver n k l from if_neg fun hp => h hp.1]
  exact ⟨hmem, hcoded⟩

/-! ## A block -/

/-- A block delivered in a stream that is not stopping: the memory is as its delivery leaves it, and the skein stands at its next block or ends. -/
theorem State.delivered_shows (s : State) (n : Nat) (k : SkeinCtx) (l : List MByte) (hs : s.sst n ≠ ssSTOPPING) :
    let a := s.keepDeliver n k l
    (a.1.afterSlot n a.2).mem = a.1.mem ∧
      (k.block + 1 < blockCount k.len → ((a.1.afterSlot n a.2).str n).sk = some a.2) ∧
      (blockCount k.len ≤ k.block + 1 → ((a.1.afterSlot n a.2).str n).sk = none) := by
  intro a
  obtain ⟨hkeep, hblock, hlen, -⟩ := s.keepDeliver_shows n k l
  obtain ⟨hmem, -, hnext, hlast⟩ := a.1.afterSlot_shows n a.2 (by rwa [hkeep.sst])
  rw [hblock, hlen] at hnext hlast
  exact ⟨hmem, hnext, fun h => (hlast h).1⟩

/-- A slot of a skein whose place in the bytes is lost delivers its next block as bad (R155, R156). -/
theorem State.decodeSlot_lost (s : State) (n : Nat) (k : SkeinCtx) (hport : isPort k.dst = false) (hlost : k.lost = true) :
    s.decodeSlot n k =
      let a := (s.note n stCHECK_FAIL 4).keepDeliver n k (badBytes (blockRaw k.len k.block))
      a.1.afterSlot n a.2 := by
  unfold State.decodeSlot
  extract_lets exp
  rw [if_neg (by rw [hport]; exact fun h => Bool.false_ne_true h.2.1), if_pos hlost]
  rfl

/-- An intact block of a plain skein that decodes without a base is delivered. -/
theorem State.decodeBlock_plain (s : State) (n : Nat) (k : SkeinCtx) (h pay : List MByte) {l : List Byte} (hprofile : k.profile ≠ 1)
    (hintact : blockIntact h pay = true)
    (hdec : decodePlain (h.map (·.1)) (pay.map (·.1)) [] k.width k.block (blockRaw k.len k.block) = some l) :
    s.decodeBlock n k h pay [] =
      let a := s.keepDeliver n { k with coded := k.coded + 32 + pay.length } (clean l)
      a.1.afterSlot n a.2 := by
  unfold State.decodeBlock
  simp only [hprofile, hintact, hdec, List.map_nil, Option.map_some, unbased_marks, Bool.not_true, Bool.false_eq_true, if_false, List.any_nil]

/-- A slot of a plain skein whose next block's header and payload are at hand reads both, and works on the block (R154, R156). -/
theorem State.decodeSlot_block (s : State) (n : Nat) (k : SkeinCtx) {g : Got} (hport : isPort k.dst = false) (hlost : k.lost = false)
    (hheaded : k.headed = true) (hstash : k.stash = none) (hprofile : k.profile ≠ 3) (hread : s.skRead n k k.coded 32 = some g)
    (hplace : loses g.data k.block (blockRaw k.len k.block) = false)
    (hlacks : s.lacks n k [(s.skAddr k (k.coded + 32), fieldLe (g.data.map (·.1)) 8 4)] = false) :
    s.decodeSlot n k =
      let gp := g.st.readFor n k.seq (s.skAddr k (k.coded + 32)) (fieldLe (g.data.map (·.1)) 8 4) k.asked k.have_
      gp.st.decodeBlock n { k with have_ := [], asked := [] } g.data gp.data [] := by
  have hbase : (k.profile == 3) = false := beq_eq_false_iff_ne.mpr hprofile
  unfold State.decodeSlot State.decodeNext
  simp only [hport, hlost, hheaded, hstash, hbase, hread, hplace, hlacks, Option.isSome_none, Bool.false_and, Bool.false_eq_true,
    false_and, and_false, if_false, if_true]

/-- A slot of a plain skein whose next block is at hand and intact delivers it. -/
theorem State.decodeSlot_intact (s : State) (n : Nat) (k : SkeinCtx) {g gp : Got} {l : List Byte} (hport : isPort k.dst = false)
    (hlost : k.lost = false) (hheaded : k.headed = true) (hstash : k.stash = none) (hprofile : k.profile ≠ 1) (hprofile' : k.profile ≠ 3)
    (hread : s.skRead n k k.coded 32 = some g) (hplace : loses g.data k.block (blockRaw k.len k.block) = false)
    (hlacks : s.lacks n k [(s.skAddr k (k.coded + 32), fieldLe (g.data.map (·.1)) 8 4)] = false)
    (hpay : g.st.readFor n k.seq (s.skAddr k (k.coded + 32)) (fieldLe (g.data.map (·.1)) 8 4) k.asked k.have_ = gp)
    (hintact : blockIntact g.data gp.data = true)
    (hdec : decodePlain (g.data.map (·.1)) (gp.data.map (·.1)) [] k.width k.block (blockRaw k.len k.block) = some l) :
    s.decodeSlot n k =
      let a := gp.st.keepDeliver n { k with have_ := [], asked := [], coded := k.coded + 32 + gp.data.length } (clean l)
      a.1.afterSlot n a.2 := by
  rw [s.decodeSlot_block n k hport hlost hheaded hstash hprofile' hread hplace hlacks, hpay]
  exact gp.st.decodeBlock_plain n { k with have_ := [], asked := [] } g.data gp.data hprofile hintact hdec

/-- Bytes of the skein that are at hand are read for its stream. -/
theorem State.skRead_keepsSkein {s : State} {n off len : Nat} {k : SkeinCtx} {g : Got} (h : s.skRead n k off len = some g) : KeepsSkein n s g.st := by
  unfold State.skRead at h
  extract_lets addr at h
  split at h
  · cases h
  · obtain rfl := Option.some.inj h
    exact s.readFor_keepsSkein n _ _ _ _ _

/-! ## SKEIN_DECODE_SLOT -/

section

variable {n : Fin 16384} {s u : State} {k : SkeinCtx} {x : State × SkeinCtx} (hsk : (s.str n.val).sk = some k) (hdir : k.dir = 1)
  (hmay : s.maySlot n.val = true) (hs : s.sst n.val ≠ ssSTOPPING) (heng : (s.engineOf n.val 1).isSome = true)
  (hlines : s.skeinLines n.val k = []) (hport : isPort k.dst = false) (hu : s.slotState n.val k = some u) (hx : u.enterEng n.val k = x)

include hsk hdir hmay hs heng hlines hu hx

/-- A decode slot runs where its skein's context is open, in a stream that goes on; it leaves the stash. -/
theorem skeinDecodeSlot_runs : ∃ e : Option Nat, x.2 = { k with eng := e } ∧ x.1.sst n.val ≠ ssSTOPPING ∧
    ∀ post : State → Prop, post (x.1.decodeSlot n.val { k with eng := e }) → Runs (.skeinDecodeSlot n) s decodeSlotParts post := by
  have hexec := exec_skeinDecodeSlot hsk hdir hmay heng hlines hu
  obtain ⟨hslot, husst, husk, -⟩ := State.slotState_shows hu
  obtain ⟨e, hk', -, -, hesst, -⟩ := u.enterEng_shows n.val k (husk.trans hsk)
  have henter : Does 687194768900 u (u.enterEng n.val k).1 := State.enterEng_does u n.val k (by decide) (Does.rfl' _ u)
  rw [hx] at hexec hk' hesst henter
  have hslotOf : x.1.slotOf n.val x.2 = x.1.decodeSlot n.val { k with eng := e } := by
    rw [hk']
    exact if_neg (show k.dir ≠ 0 by rw [hdir]; decide)
  rw [hslotOf] at hexec
  have hdecode : Does 25272156975092 x.1 (x.1.decodeSlot n.val { k with eng := e }) := State.decodeSlot_does _ _ _ (by decide) (Does.rfl' _ _)
  have hdoes : Does 25272224608244 s (x.1.decodeSlot n.val { k with eng := e }) :=
    hdecode.after (by decide) (henter.after (by decide) (hslot.mono (by decide)))
  exact ⟨e, hk', by rwa [hesst, husst], fun _ hpost => Runs.of hexec hdoes (by decide) hpost⟩

include hport

/-- An intact block of a plain skein is delivered as its raw bytes, at its place in the destination. -/
theorem skeinDecodeSlot_delivers {g gp : Got} {l : List Byte} (hlost : k.lost = false) (hheaded : k.headed = true) (hstash : k.stash = none)
    (hprofile : k.profile ≠ 1) (hprofile' : k.profile ≠ 3) (hread : x.1.skRead n.val x.2 k.coded 32 = some g)
    (hplace : loses g.data k.block (blockRaw k.len k.block) = false)
    (hlacks : x.1.lacks n.val x.2 [(x.1.skAddr k (k.coded + 32), fieldLe (g.data.map (·.1)) 8 4)] = false)
    (hpay : g.st.readFor n.val k.seq (x.1.skAddr k (k.coded + 32)) (fieldLe (g.data.map (·.1)) 8 4) k.asked k.have_ = gp)
    (hintact : blockIntact g.data gp.data = true)
    (hdec : decodePlain (g.data.map (·.1)) (gp.data.map (·.1)) [] k.width k.block (blockRaw k.len k.block) = some l) :
    Runs (.skeinDecodeSlot n) s decodeSlotParts (fun t =>
      t.mem = (gp.st.putDst n.val k.seq (k.dst + 65536 * k.block) (clean l)).mem ∧
      (k.block + 1 < blockCount k.len → ∃ k' : SkeinCtx, (t.str n.val).sk = some k' ∧ k'.block = k.block + 1 ∧
        k'.coded = k.coded + 32 + gp.data.length) ∧
      (blockCount k.len ≤ k.block + 1 → (t.str n.val).sk = none)) := by
  obtain ⟨e, hk', hsst, hruns⟩ := skeinDecodeSlot_runs hsk hdir hmay hs heng hlines hu hx
  rw [hk'] at hread hlacks
  refine hruns _ ?_
  have hboth : KeepsSkein n.val x.1 gp.st := hpay ▸ (State.skRead_keepsSkein hread).trans (g.st.readFor_keepsSkein n.val _ _ _ _ _)
  rw [x.1.decodeSlot_intact n.val { k with eng := e } hport hlost hheaded hstash hprofile hprofile' hread hplace hlacks hpay hintact hdec]
  obtain ⟨hmem, hnext, hlast⟩ := gp.st.delivered_shows n.val
    { k with eng := e, have_ := [], asked := [], coded := k.coded + 32 + gp.data.length } (clean l) (by rwa [hboth.sst])
  obtain ⟨hput, hcoded⟩ := gp.st.keepDeliver_plain n.val
    { k with eng := e, have_ := [], asked := [], coded := k.coded + 32 + gp.data.length } (clean l) hprofile
  obtain ⟨-, hblock, -, -⟩ := gp.st.keepDeliver_shows n.val
    { k with eng := e, have_ := [], asked := [], coded := k.coded + 32 + gp.data.length } (clean l)
  rw [zeroMarked_granuleMarks_clean] at hput
  exact ⟨hmem.trans hput, fun h => ⟨_, hnext h, hblock, hcoded⟩, hlast⟩

/-- Of a skein whose place in the bytes is lost, the block is delivered as marked zero bytes. -/
theorem skeinDecodeSlot_lost (hlost : k.lost = true) :
    Runs (.skeinDecodeSlot n) s decodeSlotParts (fun t =>
      t.mem = ((x.1.note n.val stCHECK_FAIL 4).keepDeliver n.val x.2 (badBytes (blockRaw k.len k.block))).1.mem ∧
      (k.profile ≠ 1 → t.mem = ((x.1.note n.val stCHECK_FAIL 4).putDst n.val k.seq (k.dst + 65536 * k.block)
        (badBytes (blockRaw k.len k.block))).mem) ∧
      (k.block + 1 < blockCount k.len → ∃ k' : SkeinCtx, (t.str n.val).sk = some k' ∧ k'.block = k.block + 1 ∧ k'.lost = true) ∧
      (blockCount k.len ≤ k.block + 1 → (t.str n.val).sk = none)) := by
  obtain ⟨e, hk', hsst, hruns⟩ := skeinDecodeSlot_runs hsk hdir hmay hs heng hlines hu hx
  rw [hk']
  refine hruns _ ?_
  rw [x.1.decodeSlot_lost n.val { k with eng := e } hport hlost]
  have hnote := x.1.note_keepsSkein n.val stCHECK_FAIL 4
  generalize x.1.note n.val stCHECK_FAIL 4 = v at hnote ⊢
  obtain ⟨hmem, hnext, hlast⟩ := v.delivered_shows n.val { k with eng := e } (badBytes (blockRaw k.len k.block)) (by rwa [hnote.sst])
  obtain ⟨-, hblock, -, hlost'⟩ := v.keepDeliver_shows n.val { k with eng := e } (badBytes (blockRaw k.len k.block))
  refine ⟨hmem, fun hprofile => hmem.trans ?_, fun h => ⟨_, hnext h, hblock, hlost'.trans hlost⟩, hlast⟩
  rw [(v.keepDeliver_plain n.val { k with eng := e } (badBytes (blockRaw k.len k.block)) hprofile).1, zeroMarked_granuleMarks_badBytes]

end

/-- Settles O32: a block packed, a header alone, a block delivered, and a block of a lost skein, each by its own lemma. -/
theorem skeinEncodeAndDecodeSlots : Obligations.SkeinSlots :=
  ⟨⟨fun _ _ _ _ _ hsk hdir hmay hs => skeinEncodeSlot_packs hsk hdir hmay hs,
      fun _ _ _ _ hsk hdir hmay hs => skeinEncodeSlot_header hsk hdir hmay hs⟩,
    fun _ _ _ _ _ _ _ _ hsk hdir hmay hs heng hlines hlost hheaded hstash hport hprofile hprofile' hu hx =>
      skeinDecodeSlot_delivers hsk hdir hmay hs heng hlines hport hu hx hlost hheaded hstash hprofile hprofile',
    fun _ _ _ _ _ hsk hdir hmay hs heng hlines hlost hport hu hx =>
      skeinDecodeSlot_lost hsk hdir hmay hs heng hlines hport hu hx hlost⟩

end Sys2Proof.Machine
end

section
/-! SUPPORT. O30: what a panel walk leaves of the count, of plan time and of the cluster work (R192, R231, R239). -/

namespace Sys2Proof.Machine

/-! ## Plan time -/

/-- No row counted forward enters a swatch or leaves one. -/
theorem State.advance_phase_swatch (s : State) (t : Nat) : (s.advance t).phase = phSWATCH ↔ s.phase = phSWATCH := by
  by_cases htail : s.phase = phTAIL
  · by_cases hbefore : s.paused = true ∨ t < s.planEndAt
    · rw [s.advance_phase_before hbefore]
    · obtain ⟨hrun, hend⟩ := not_or.mp hbefore
      rw [s.advance_phase_planEnd htail (by simpa using hrun) (Nat.le_of_not_lt hend), htail]
      decide
  · rw [s.advance_phase t htail]

/-- Time that passes leaves the counts of the clusters' plan. -/
theorem State.advance_cluAt (s : State) (t start : Nat) : (s.advance t).cluAt start = s.cluAt start := by
  unfold State.cluAt State.planC
  rw [s.advance_step, s.advance_rf t R.STEP_CASTON_VALUE (by decide), if_congr (s.advance_phase_swatch t) rfl rfl]

/-- Units put to use leave the counts of the clusters' plan. -/
theorem State.useUnits_cluAt (s : State) (us : List Nat) (start : Nat) : (s.useUnits us).cluAt start = s.cluAt start := by
  have h : Does 137438953988 s (s.useUnits us) := State.useUnits_does s us (by decide) (Does.rfl' _ s)
  have hstep : (s.useUnits us).step = s.step := h.frame .step (by decide)
  have hphase : (s.useUnits us).phase = s.phase := h.rf _ (by decide)
  have hcast : (s.useUnits us).rf R.STEP_CASTON_VALUE = s.rf R.STEP_CASTON_VALUE := h.rf _ (by decide)
  unfold State.cluAt State.planC
  rw [hstep, hphase, hcast]

/-! ## PANEL_WALK -/

/-- The weight descriptor that a walk entry names (R239). -/
def Chart.walkWeight (c : Chart) (ce : CluEntry) : WDesc := wDesc ((c.item 6 ce.tensor).getD []) ce.slice

/-- The count at which a walk entry ends. -/
def State.walkEnd (s : State) (c : Chart) (ce : CluEntry) : Nat :=
  s.cluAt (Machine.walkDone s.schedule c.fclk (s.planFin c) ce (c.walkWeight ce))

/-- The state at a walk's end, its engine on since the walk's START, its panels still to read. -/
def State.walkReady (s : State) (c : Chart) (ce : CluEntry) (p : Nat) : State :=
  ((s.advance (s.cluAt ce.start)).useUnits [p]).advance (s.walkEnd c ce)

/-- Every panel of the descriptor walked on engine `p` by the walk's end (R192). -/
def State.walked (s : State) (c : Chart) (ce : CluEntry) (p : Nat) : State :=
  (upTo (ceilDiv (c.walkWeight ce).n 128)).foldl (fun s n => s.walkOne (c.walkWeight ce) (c.tableSplit (c.walkWeight ce).oa) (uIdx p) n)
    (s.walkReady c ce p)

section
variable (s : State) (c : Chart) (ce : CluEntry) (p : Nat)

theorem State.walkReady_row : (s.walkReady c ce p).row = max (max s.row (s.cluAt ce.start)) (s.walkEnd c ce) := by
  unfold State.walkReady
  rw [State.advance_row, (State.useUnits_row_clu _ [p]).1, State.advance_row]

theorem State.walkReady_clu : (s.walkReady c ce p).clu = s.clu := by
  unfold State.walkReady
  rw [State.advance_clu, (State.useUnits_row_clu _ [p]).2, State.advance_clu]

theorem State.walkReady_walked : Does 6924056683920 (s.walkReady c ce p) (s.walked c ce p) :=
  Does.foldl _ _ (Does.rfl' _ _) (fun v n hv => State.walkOne_does v _ _ _ n (by decide) hv)

/-- Reading the panels moves no row. -/
theorem State.walked_row : (s.walked c ce p).row = max (max s.row (s.cluAt ce.start)) (s.walkEnd c ce) :=
  ((s.walkReady_walked c ce p).frame .row (by decide)).trans (s.walkReady_row c ce p)

/-- A walk is no segment: until its entry ends it leaves the cluster work. -/
theorem State.walked_clu : (s.walked c ce p).clu = s.clu :=
  ((s.walkReady_walked c ce p).frame .clusters (by decide)).trans (s.walkReady_clu c ce p)

end

section
variable {e : Nat} {s : State} {c : Chart} {p : Nat}

/-- A walk entry that its engine's slots carry to its end walks its panels and ends (R192, R239). -/
theorem exec_panelWalk (hc : s.chart.active = some c) (hkind : (cluEntry s.schedule e).kind = 2) (hrun : s.planRuns = true)
    (hleft : s.clu.left.contains e = true) (hserver : s.serverOf 2 (cluEntry s.schedule e).first = some p)
    (hfin : Machine.walkDone s.schedule c.fclk (s.planFin c) (cluEntry s.schedule e) (c.walkWeight (cluEntry s.schedule e)) ≤ s.planFin c) :
    exec (.panelWalk e) s = .next ((s.walked c (cluEntry s.schedule e) p).endEntry e) := by
  have hguard : ¬((cluEntry s.schedule e).kind ≠ 2 ∨ (!s.planRuns) = true ∨ (!s.clu.left.contains e) = true ∨
      s.planFin c < Machine.walkDone s.schedule c.fclk (s.planFin c) (cluEntry s.schedule e) (c.walkWeight (cluEntry s.schedule e))) := by
    simp [hkind, hrun, List.contains_iff_mem.mp hleft, hfin]
  have hcount : ∀ t, ((s.advance (s.cluAt (cluEntry s.schedule e).start)).useUnits [p]).cluAt t = s.cluAt t := fun t =>
    (State.useUnits_cluAt _ _ t).trans (s.advance_cluAt _ t)
  unfold Chart.walkWeight at hguard
  refine congrArg Host.Outcome.next ?_
  simp only [hc, hserver, if_neg hguard, hcount]
  rfl

/-- A panel walk of the schedule reads its panels and writes the panel table by its entry's end (R192, R239). -/
theorem panelWalk_walks (hc : s.chart.active = some c) (hkind : (cluEntry s.schedule e).kind = 2) (hrun : s.planRuns = true)
    (hleft : s.clu.left.contains e = true) (hserver : s.serverOf 2 (cluEntry s.schedule e).first = some p)
    (hfin : Machine.walkDone s.schedule c.fclk (s.planFin c) (cluEntry s.schedule e) (c.walkWeight (cluEntry s.schedule e)) ≤ s.planFin c) :
    Runs (.panelWalk e) s [.pwrRegs, .stepRegs, .tierRegs, .ftlRegs, .cluRegs, .skeinRegs, .faultRegs, .logRegs, .row, .memory, .marks, .sent, .free, .flagOut,
        .idleRuns, .logRound, .fault, .ledgers, .power, .tier, .barriers, .host, .flash, .clusters] (fun t =>
      t.row = max (max s.row (s.cluAt (cluEntry s.schedule e).start)) (s.walkEnd c (cluEntry s.schedule e)) ∧
      t.mem = (s.walked c (cluEntry s.schedule e) p).mem ∧ t.rf R.SKEIN_WALK_PANELS = (s.walked c (cluEntry s.schedule e) p).rf R.SKEIN_WALK_PANELS ∧
      t.clu.running = s.clu.running.filter (fun p => p.1 != e) ∧ t.clu.left = s.clu.left.filter (· != e)) := by
  have hexec := exec_panelWalk hc hkind hrun hleft hserver hfin
  have hrow := s.walked_row c (cluEntry s.schedule e) p
  have hclu := s.walked_clu c (cluEntry s.schedule e) p
  generalize s.walked c (cluEntry s.schedule e) p = w at hexec hrow hclu ⊢
  have hend : Does 21200499662976 w (w.endEntry e) := State.endEntry_does w e (by decide) (Does.rfl' _ w)
  have hentry := w.endEntry_clu e
  rw [hclu] at hentry
  refine Runs.of hexec (execPanelWalk_does e s _ hexec) (by decide)
    ⟨(hend.frame .row (by decide)).trans hrow, w.endEntry_mem e, hend.rf R.SKEIN_WALK_PANELS (by decide), ?_, ?_⟩
  · rw [hentry]
  · rw [hentry]

end

end Sys2Proof.Machine
end

section
/-! SUPPORT. O30: a K-chunk of a panel in the chunk stage, counted with what its checks found (R190, R191). -/

namespace Sys2Proof.Machine

/-! ## The registers of an expander -/

/-- A field of EXP_ERR is written: the count of chunks stays. -/
theorem State.chunks_set_expErr (s : State) (q v : Nat) {lo w : Nat} (hlo : lo < 64) :
    (s.set ⟨0x488008 + 0x40 * (q % 144), lo, w⟩ v).rf (R.EXP_STAT_CHUNKS q) = s.rf (R.EXP_STAT_CHUNKS q) := by
  refine s.rf_set_of_ne _ _ v (Fld.key_ne_of_off (show 32 < 64 by decide) hlo ?_)
  show 0x488000 + 0x40 * (q % 144) ≠ 0x488008 + 0x40 * (q % 144)
  omega

/-- The count of chunks lies in SKEIN. -/
theorem expStatChunks_blk (q : Nat) : (R.EXP_STAT_CHUNKS q).blk = 10 :=
  Fld.blk_elem 0x488000 0x40 q 144 32 32 10 (by decide) (by decide) (by decide) (by decide)

/-- A chunk delivered by expander q: counted, and its refused reference, failed checks and marked bytes shown (R190, R191). -/
def State.chunkCounted (s : State) (q : Nat) (refused : Bool) (fails : Nat) (l : List MByte) : State :=
  let s := s.bump (R.EXP_STAT_CHUNKS q)
  let s := if refused then s.set (R.EXP_ERR_REF_REFUSED q) 1 else s
  let s := s.addSat (R.EXP_ERR_CHECK_FAILS q) fails
  if l.any (·.2) then (s.set (R.EXP_ERR_BLOCK_FAIL q) 1).set (R.EXP_ERR_LAST_STATUS q) stCHECK_FAIL else s

variable (s : State) (q : Nat) (refused : Bool) (fails : Nat) (l : List MByte)

theorem State.chunkCounted_mem : (s.chunkCounted q refused fails l).mem = s.mem := by
  unfold State.chunkCounted
  cases refused <;> cases l.any (·.2) <;> rfl

/-- Of the registers of a delivered chunk only the count itself moves the count. -/
theorem State.chunkCounted_chunks :
    (s.chunkCounted q refused fails l).rf (R.EXP_STAT_CHUNKS q) = (s.rf (R.EXP_STAT_CHUNKS q) + 1) % 2 ^ 32 := by
  have hrefused : ∀ u : State, (if refused then u.set (R.EXP_ERR_REF_REFUSED q) 1 else u).rf (R.EXP_STAT_CHUNKS q) = u.rf (R.EXP_STAT_CHUNKS q) := by
    intro u
    split
    · exact u.chunks_set_expErr q 1 (by decide)
    · rfl
  have hmarked : ∀ u : State, (if l.any (·.2) then (u.set (R.EXP_ERR_BLOCK_FAIL q) 1).set (R.EXP_ERR_LAST_STATUS q) stCHECK_FAIL else u).rf
      (R.EXP_STAT_CHUNKS q) = u.rf (R.EXP_STAT_CHUNKS q) := by
    intro u
    split
    · exact (State.chunks_set_expErr _ q _ (by decide)).trans (u.chunks_set_expErr q 1 (by decide))
    · rfl
  calc (s.chunkCounted q refused fails l).rf (R.EXP_STAT_CHUNKS q)
      = (if refused then (s.bump (R.EXP_STAT_CHUNKS q)).set (R.EXP_ERR_REF_REFUSED q) 1 else s.bump (R.EXP_STAT_CHUNKS q)).rf (R.EXP_STAT_CHUNKS q) :=
        (hmarked _).trans (State.chunks_set_expErr _ q _ (by decide))
    _ = (s.bump (R.EXP_STAT_CHUNKS q)).rf (R.EXP_STAT_CHUNKS q) := hrefused _
    _ = (s.rf (R.EXP_STAT_CHUNKS q) + 1) % 2 ^ 32 := s.rf_set_same _ _

/-- A chunk with a marked byte leaves CHECK_FAIL (R191). -/
theorem State.chunkCounted_status (h : l.any (·.2) = true) :
    (s.chunkCounted q refused fails l).rf (R.EXP_ERR_LAST_STATUS q) = stCHECK_FAIL := by
  unfold State.chunkCounted
  simp only [h, if_true]
  exact State.rf_set_same _ _ _

end Sys2Proof.Machine
end

section
/-! SUPPORT. O30: EXPANDER_CHUNK, and panel walks and expander chunks together (R190 to R192, R239). -/

namespace Sys2Proof.Machine

/-! ## EXPANDER_CHUNK -/

/-- What the expander of a part has read for a chunk of a panel: the part that holds the chunk, from its first chunk on (R98, R190). -/
def State.chunkRun (s : State) (b : List Byte) (k panel chunk : Nat) : ExpRun :=
  s.expandPart (wDesc b k) panel (chunk / perPart (wDesc b k) (splitOf b k)) (splitOf b k)
    (chunk / perPart (wDesc b k) (splitOf b k) * perPart (wDesc b k) (splitOf b k))

/-- The bytes of a chunk of a panel, cut from its part. -/
def State.stagedBytes (s : State) (b : List Byte) (k panel chunk : Nat) : List MByte :=
  chunkOf (wDesc b k) (s.chunkRun b k panel chunk).data (chunk / perPart (wDesc b k) (splitOf b k) * perPart (wDesc b k) (splitOf b k)) chunk

/-- A chunk of a panel in the buffer of core `lc`'s chunk stage that its parity names (R190; log entry 182). -/
def State.chunkStaged (s : State) (lc : Nat) (b : List Byte) (k panel chunk : Nat) : State :=
  (s.chunkRun b k panel chunk).st.writeMem (coreBuf lc + 0x1C0000 + chunk % 2 * 0x20000) (s.stagedBytes b k panel chunk)

/-- Whether a panel's skein is refused for its reference: shown with its first chunk (R157). -/
def State.chunkRefused (s : State) (b : List Byte) (k panel chunk : Nat) : Bool :=
  let hdr := (s.readOA .cluster ((s.panelWord (wDesc b k) panel).1 % 2 ^ 52) 32).data
  chunk == 0 && (wDesc b k).prof == 1 && !hdr.any (·.2) && hdrFormOk (hdr.map (·.1)) && (parseHdr (hdr.map (·.1))).refKind == 1

/-- The checks that failed in the blocks that a chunk meets first (R191). -/
def State.chunkFails (s : State) (b : List Byte) (k panel chunk : Nat) : Nat :=
  let d := wDesc b k
  let first := d.before (chunk / perPart d (splitOf b k) * perPart d (splitOf b k))
  ((s.chunkRun b k panel chunk).fails.filter (fun o => decide (d.before chunk ≤ max o first) &&
    decide (max o first < d.before chunk + (s.stagedBytes b k panel chunk).length))).length

theorem State.chunkStaged_does (s : State) (lc : Nat) (b : List Byte) (k panel chunk : Nat) :
    Does 292606206080 s (s.chunkStaged lc b k panel chunk) :=
  State.writeMem_does _ _ _ (by decide) (State.expandPart_does s _ _ _ _ _ (by decide) (Does.rfl' _ s))

section
variable {q : Fin 144} {k panel chunk : Nat} {s : State} {g : Seg}

/-- The expander of a core whose segment runs stages the chunk and counts it (R190). -/
theorem exec_expanderChunk (hrun : s.planRuns = true) (hstate : s.rf (R.EXP_STAT_STATE q.val) = 2)
    (hseg : s.segAt (s.rf (R.EXP_STAT_LOGICAL q.val) / 4) = some g) (hk : k < fieldLe g.prog 5 1) (hindex : (wDesc g.prog k).index = 0)
    (hpanel : panel < ceilDiv (wDesc g.prog k).n 128) (hchunk : chunk < ceilDiv (wDesc g.prog k).k 512) :
    exec (.expanderChunk q k panel chunk) s = .next ((s.chunkStaged (s.rf (R.EXP_STAT_LOGICAL q.val)) g.prog k panel chunk).chunkCounted q.val
      (s.chunkRefused g.prog k panel chunk) (s.chunkFails g.prog k panel chunk) (s.stagedBytes g.prog k panel chunk)) := by
  have hon : (!s.planRuns || s.rf (R.EXP_STAT_STATE q.val) != 2) = false := by rw [hrun, hstate]; rfl
  have hin : ¬(fieldLe g.prog 5 1 ≤ k ∨ (wDesc g.prog k).index ≠ 0 ∨ ceilDiv (wDesc g.prog k).n 128 ≤ panel ∨ ceilDiv (wDesc g.prog k).k 512 ≤ chunk) := by
    omega
  refine congrArg Host.Outcome.next ?_
  simp only [hon, hseg, if_neg hin, Bool.false_eq_true, if_false]
  rfl

/-- A K-chunk of a panel is decoded into its chunk stage and counted (R190, R191). -/
theorem expanderChunk_stages (hrun : s.planRuns = true) (hstate : s.rf (R.EXP_STAT_STATE q.val) = 2)
    (hseg : s.segAt (s.rf (R.EXP_STAT_LOGICAL q.val) / 4) = some g) (hk : k < fieldLe g.prog 5 1) (hindex : (wDesc g.prog k).index = 0)
    (hpanel : panel < ceilDiv (wDesc g.prog k).n 128) (hchunk : chunk < ceilDiv (wDesc g.prog k).k 512) :
    Runs (.expanderChunk q k panel chunk) s [.tierRegs, .skeinRegs, .faultRegs, .logRegs, .memory, .marks, .free, .logRound, .fault, .tier] (fun t =>
      t.mem = (s.chunkStaged (s.rf (R.EXP_STAT_LOGICAL q.val)) g.prog k panel chunk).mem ∧
      t.rf (R.EXP_STAT_CHUNKS q.val) = (s.rf (R.EXP_STAT_CHUNKS q.val) + 1) % 2 ^ 32 ∧
      ((s.stagedBytes g.prog k panel chunk).any (·.2) = true → t.rf (R.EXP_ERR_LAST_STATUS q.val) = stCHECK_FAIL)) := by
  have hexec := exec_expanderChunk hrun hstate hseg hk hindex hpanel hchunk
  have hstaged := s.chunkStaged_does (s.rf (R.EXP_STAT_LOGICAL q.val)) g.prog k panel chunk
  refine Runs.of hexec (execExpanderChunk_does q k panel chunk s _ hexec) (by decide)
    ⟨State.chunkCounted_mem _ _ _ _ _, ?_, State.chunkCounted_status _ _ _ _ _⟩
  rw [State.chunkCounted_chunks, hstaged.rf _ (by rw [expStatChunks_blk]; decide)]

end

/-- Settles O30: a panel walk, and a chunk of an expander, each by its own lemma. -/
theorem walksAndChunks : Obligations.WalksAndChunks :=
  ⟨fun _ _ _ hc hkind hrun hleft _ => panelWalk_walks hc hkind hrun hleft, fun _ _ _ _ _ _ => expanderChunk_stages⟩

end Sys2Proof.Machine
end

section
/-! SUPPORT. O19: the control instructions of a stream (R209, R213, R214). -/

namespace Sys2Proof.Machine

/-! ## The fields of a context -/

/-- Two fields at different places of one context have different cells. -/
theorem streamReg_key_ne {b b' lo lo' : Nat} (w w' n : Nat) (h : b * 64 + lo ≠ b' * 64 + lo') :
    (⟨b + 0x40 * (n % 16384), lo, w⟩ : Fld).key ≠ (⟨b' + 0x40 * (n % 16384), lo', w'⟩ : Fld).key := by
  simp only [Fld.key]
  omega

/-- A register of its context other than CTL, TIME, BIND and RUN: what an instruction counts and offsets with (R230). -/
structure Fld.OfLoop (f : Fld) (n : Nat) : Prop where
  program : (R.STREAM_CTL_PROGRAM n).key ≠ f.key
  pc      : (R.STREAM_RUN_PC n).key ≠ f.key
  state   : (R.STREAM_RUN_STATE n).key ≠ f.key
  wait    : (R.STREAM_RUN_WAIT n).key ≠ f.key

theorem ofLoop_reg (b n lo w : Nat) (hb : 0x100020 ≤ b) (hlo : lo < 64) : Fld.OfLoop ⟨b + 0x40 * (n % 16384), lo, w⟩ n :=
  have hne : ∀ b' lo' w', b' ≤ 0x100018 → lo' < 64 →
      (⟨b' + 0x40 * (n % 16384), lo', w'⟩ : Fld).key ≠ (⟨b + 0x40 * (n % 16384), lo, w⟩ : Fld).key :=
    fun b' lo' w' hb' hlo' => streamReg_key_ne w' w n (by omega)
  ⟨hne 0x100000 48 16 (by decide) (by decide), hne 0x100018 32 16 (by decide) (by decide), hne 0x100018 52 4 (by decide) (by decide),
    hne 0x100018 48 4 (by decide) (by decide)⟩

theorem loopF_ofLoop (n d : Nat) : (loopF n d).OfLoop n := by
  unfold loopF
  split
  · exact ofLoop_reg 0x100020 n 0 16 (by decide) (by decide)
  · exact ofLoop_reg 0x100020 n 16 16 (by decide) (by decide)

theorem loopF_width (n d : Nat) : (loopF n d).w = 16 := by
  unfold loopF
  split <;> rfl

/-- Where an instruction stands and what it moves to: PC, STATE and WAIT of its context. -/
def standF (n : Nat) : List Fld := [R.STREAM_RUN_PC n, R.STREAM_RUN_STATE n, R.STREAM_RUN_WAIT n]

section
variable {n : Nat} {s : State} {f : Fld} (hf : f.OfLoop n) (v : Nat)
include hf

theorem Fld.OfLoop.unit_eq : (s.set f v).unit n = s.unit n :=
  State.unit_congr (s.set_progOf f v n hf.program) (s.rf_set_of_ne _ _ _ hf.pc)

theorem Fld.OfLoop.pc_eq : (s.set f v).rf (R.STREAM_RUN_PC n) = s.rf (R.STREAM_RUN_PC n) := s.rf_set_of_ne _ _ _ hf.pc

/-- A stream that has written such a register passes an instruction of one unit. -/
theorem Fld.OfLoop.passes (hu : unitsOfInstr (s.unit n) = 1) :
    Passed n (s.rf (R.STREAM_RUN_PC n) + 1) s ((s.set f v).passInstr n) := by
  rw [← hf.pc_eq v]
  exact State.passInstr_passed s _ n (by rw [hf.unit_eq, hu]) (s.rf_set_of_ne _ _ _ hf.state)

/-- Passing leaves such a register. -/
theorem Fld.OfLoop.passInstr_eq : (s.passInstr n).rf f = s.rf f :=
  (OnlyWrites.refl s).passInstr f (by simpa using ⟨hf.pc.symm, hf.state.symm, hf.wait.symm⟩)

end

theorem State.setSst_pc (s : State) (n st w : Nat) : (s.setSst n st w).rf (R.STREAM_RUN_PC n) = s.rf (R.STREAM_RUN_PC n) :=
  State.setSst_of_ne _ _ _ _ _ (streamReg_key_ne _ _ n (by decide)) (streamReg_key_ne _ _ n (by decide))

/-- A jump of a stream: its PC set, and it runs on. -/
def State.jump (s : State) (n pc : Nat) : State := (s.set (R.STREAM_RUN_PC n) pc).setSst n ssRUN wtNONE

theorem State.jump_shows (s : State) (n pc : Nat) : (s.jump n pc).rf (R.STREAM_RUN_PC n) = pc % 2 ^ 16 ∧ (s.jump n pc).sst n = ssRUN ∧
    (s.jump n pc).rf (R.STREAM_RUN_WAIT n) = wtNONE := by
  refine ⟨?_, State.setSst_sst _ _ _ _, State.setSst_wait _ _ _ _⟩
  rw [State.jump, State.setSst_pc, State.rf_set_same]
  rfl

theorem OnlyWrites.jump {s₀ s : State} {fs : List Fld} (h : OnlyWrites fs s₀ s) (n pc : Nat) : OnlyWrites (fs ++ standF n) s₀ (s.jump n pc) := by
  unfold State.jump State.setSst
  exact (((h.set _ _).set _ _).set _ _).mono (by simp [standF])

/-- Such a register is left by a jump too. -/
theorem Fld.OfLoop.jump_eq {n : Nat} {f : Fld} (hf : f.OfLoop n) (s : State) (pc : Nat) : (s.jump n pc).rf f = s.rf f :=
  (OnlyWrites.refl s).jump n pc f (by simpa [standF] using ⟨hf.pc.symm, hf.state.symm, hf.wait.symm⟩)

/-! ## The instructions -/

section
variable (n : Fin 16384) (s : State)

/-- NOP passes (R214). -/
theorem nop_passes (hat : s.atOp n.val opNOP = true) :
    Runs (.nop n) s [.streamRegs] (fun t => Passed n.val (s.rf (R.STREAM_RUN_PC n.val) + 1) s t ∧ OnlyWrites (standF n.val) s t) := by
  have hexec : exec (.nop n) s = .next (s.passInstr n.val) := congrArg Host.Outcome.next (if_pos hat)
  exact Runs.of hexec (execNop_does n s _ hexec) (by decide)
    ⟨State.passInstr_passed s s n.val (unitsOfInstr_one (by rw [State.atOp_op hat]; decide)) rfl, (OnlyWrites.refl s).passInstr⟩

/-- SETREG writes an offset register and passes (R213). -/
theorem setreg_sets (hat : s.atOp n.val opSETREG = true) :
    Runs (.setreg n) s [.streamRegs] (fun t =>
      let f := if uFlag (s.unit n.val) 0 then R.STREAM_AD1_AD1 n.val else R.STREAM_AD0_AD0 n.val
      let v := fieldLe (s.unit n.val) 8 6
      t.rf f = (if uFlag (s.unit n.val) 1 then s.rf f + v else v) % 2 ^ 48 ∧ Passed n.val (s.rf (R.STREAM_RUN_PC n.val) + 1) s t ∧
      OnlyWrites (f :: standF n.val) s t) := by
  extract_lets f v
  have hexec : exec (.setreg n) s = .next ((s.set f (if uFlag (s.unit n.val) 1 then s.rf f + v else v)).passInstr n.val) :=
    congrArg Host.Outcome.next (if_neg (by rw [hat]; decide))
  have hf : f.OfLoop n.val ∧ f.w = 48 := by
    unfold f
    split
    · exact ⟨ofLoop_reg 0x100030 n.val 0 48 (by decide) (by decide), rfl⟩
    · exact ⟨ofLoop_reg 0x100028 n.val 0 48 (by decide) (by decide), rfl⟩
  refine Runs.of hexec (execSetreg_does n s _ hexec) (by decide) ⟨?_, ?_, ((OnlyWrites.refl s).set f _).passInstr⟩
  · rw [hf.1.passInstr_eq, State.rf_set_same, hf.2]
  · exact hf.1.passes _ (unitsOfInstr_one (by rw [State.atOp_op hat]; decide))

/-- LOOP sets its counter, or passes its ENDLOOP (R209). -/
theorem loop_begins (hat : s.atOp n.val opLOOP = true) :
    Runs (.loop n) s [.streamRegs] (fun t =>
      let u := s.unit n.val
      (fieldLe u 2 2 = 0 → t.rf (R.STREAM_RUN_PC n.val) = (s.rf (R.STREAM_RUN_PC n.val) + 1 + fieldLe u 4 2 + 1) % 2 ^ 16 ∧
        t.sst n.val = ssRUN ∧ t.rf (R.STREAM_RUN_WAIT n.val) = wtNONE ∧ OnlyWrites (standF n.val) s t) ∧
      (fieldLe u 2 2 ≠ 0 → t.rf (loopF n.val (s.depthAt n.val)) = fieldLe u 2 2 % 2 ^ 16 ∧
        Passed n.val (s.rf (R.STREAM_RUN_PC n.val) + 1) s t ∧
        OnlyWrites (loopF n.val (s.depthAt n.val) :: standF n.val) s t)) := by
  extract_lets u
  have hon : ¬(!s.atOp n.val opLOOP) = true := by rw [hat]; decide
  by_cases hcount : fieldLe u 2 2 = 0
  · have hexec : exec (.loop n) s = .next (s.jump n.val (s.rf (R.STREAM_RUN_PC n.val) + fieldLe u 4 2 + 2)) :=
      congrArg Host.Outcome.next ((if_neg hon).trans (if_pos hcount))
    obtain ⟨hpc, hstate, hwait⟩ := s.jump_shows n.val (s.rf (R.STREAM_RUN_PC n.val) + fieldLe u 4 2 + 2)
    refine Runs.of hexec (execLoop_does n s _ hexec) (by decide)
      ⟨fun _ => ⟨?_, hstate, hwait, (OnlyWrites.refl s).jump n.val _⟩, fun h => absurd hcount h⟩
    rw [hpc]
    congr 1
    omega
  · have hexec : exec (.loop n) s = .next ((s.set (loopF n.val (s.depthAt n.val)) (fieldLe u 2 2)).passInstr n.val) :=
      congrArg Host.Outcome.next ((if_neg hon).trans (if_neg hcount))
    have hf := loopF_ofLoop n.val (s.depthAt n.val)
    refine Runs.of hexec (execLoop_does n s _ hexec) (by decide) ⟨fun h => absurd h hcount, fun _ => ⟨?_, ?_, ?_⟩⟩
    · rw [hf.passInstr_eq, State.rf_set_same, loopF_width]
    · exact hf.passes _ (unitsOfInstr_one (by rw [State.atOp_op hat]; decide))
    · exact ((OnlyWrites.refl s).set _ _).passInstr

/-- ENDLOOP lowers its counter, and goes back while it is not zero (R209). -/
theorem endloop_counts (hat : s.atOp n.val opENDLOOP = true) :
    Runs (.endloop n) s [.streamRegs] (fun t =>
      let f := loopF n.val (s.depthAt n.val - 1)
      t.rf f = (s.rf f - 1) % 2 ^ 16 ∧
      (s.rf f ≤ 1 → Passed n.val (s.rf (R.STREAM_RUN_PC n.val) + 1) s t) ∧
      (1 < s.rf f → t.rf (R.STREAM_RUN_PC n.val) = (s.rf (R.STREAM_RUN_PC n.val) - fieldLe (s.unit n.val) 2 2) % 2 ^ 16 ∧
        t.sst n.val = ssRUN ∧ t.rf (R.STREAM_RUN_WAIT n.val) = wtNONE) ∧
      OnlyWrites (f :: standF n.val) s t) := by
  extract_lets f
  have hon : ¬(!s.atOp n.val opENDLOOP) = true := by rw [hat]; decide
  have hf : f.OfLoop n.val := loopF_ofLoop n.val _
  have hset : (s.set f (s.rf f - 1)).rf f = (s.rf f - 1) % 2 ^ 16 := by rw [State.rf_set_same, loopF_width]
  by_cases hlast : s.rf f - 1 = 0
  · have hexec : exec (.endloop n) s = .next ((s.set f (s.rf f - 1)).passInstr n.val) :=
      congrArg Host.Outcome.next ((if_neg hon).trans (if_pos hlast))
    refine Runs.of hexec (execEndloop_does n s _ hexec) (by decide)
      ⟨by rw [hf.passInstr_eq, hset], fun _ => hf.passes _ (unitsOfInstr_one (by rw [State.atOp_op hat]; decide)), fun h => by omega,
        ((OnlyWrites.refl s).set f _).passInstr⟩
  · have hexec : exec (.endloop n) s = .next ((s.set f (s.rf f - 1)).jump n.val
        (s.rf (R.STREAM_RUN_PC n.val) - fieldLe ((s.set f (s.rf f - 1)).unit n.val) 2 2)) :=
      congrArg Host.Outcome.next ((if_neg hon).trans (if_neg hlast))
    rw [hf.unit_eq] at hexec
    exact Runs.of hexec (execEndloop_does n s _ hexec) (by decide)
      ⟨by rw [hf.jump_eq, hset], fun h => by omega, fun _ => State.jump_shows _ n.val _, ((OnlyWrites.refl s).set f _).jump n.val _⟩

end

/-- Settles O19: NOP, SETREG, LOOP and ENDLOOP, each by its own lemma. -/
theorem streamControl : Obligations.StreamControl := ⟨nop_passes, setreg_sets, loop_begins, endloop_counts⟩

end Sys2Proof.Machine
end

section
/-! SUPPORT. O20: pace credits that return to a die, and what a refused request of a stream records (R210, R264, R346). -/

namespace Sys2Proof.Machine

/-! ## Ports -/

theorem State.port_setPort (s : State) (p : Nat) (x : PortSt) :
    (s.setPort p x).port p = if p < s.ports.length then x else PortSt.down := by
  unfold State.port State.setPort
  split
  · rename_i hp
    simp [hp]
  · rename_i hp
    simp [hp]

/-- A port that the device does not have shows nothing. -/
theorem State.port_of_length_le {s : State} {p : Nat} (h : s.ports.length ≤ p) : s.port p = PortSt.down := by
  unfold State.port
  simp [h]

/-- Messages sent one after another. -/
theorem State.foldl_emit {β : Type} (l : List β) (g : β → Sent) (s : State) :
    l.foldl (fun (s : State) e => s.emit (g e)) s = { s with sent := s.sent ++ l.map g } := by
  induction l generalizing s with
  | nil => simp
  | cons e l ih => rw [List.foldl_cons, ih]; simp [State.emit]

/-! ## Pace credits -/

/-- The pace credits of a line that a port's die has spent. -/
def State.paceSpent (s : State) (p line : Nat) : Nat := SMap.get (fun _ => 0) (s.port p).pace line

/-- Credits gathered for a line, of those spent there: they count as given back, and are due to the die (R346). -/
theorem State.gatherPace_shows (s : State) (p line k : Nat) (hk : k ≤ s.paceSpent p line) :
    (s.gatherPace p line k).gaveOf (poolPace p line) = s.gaveOf (poolPace p line) + k ∧ (s.gatherPace p line k).sent = s.sent ∧
      ((s.gatherPace p line k).port p).paceRet = (if 0 < k then addRet (s.port p).paceRet line k else (s.port p).paceRet) ∧
      (s.gatherPace p line k).regs = s.regs := by
  have hmin : min k (SMap.get (fun _ => 0) (s.port p).pace line) = k := Nat.min_eq_left hk
  unfold State.gatherPace
  dsimp only
  rw [hmin]
  by_cases h0 : k = 0
  · subst h0
    exact ⟨rfl, rfl, rfl, rfl⟩
  have hp : p < s.ports.length := by
    by_contra hp
    rw [State.paceSpent, State.port_of_length_le (Nat.not_lt.mp hp)] at hk
    exact h0 (Nat.le_zero.mp hk)
  rw [if_neg h0, if_pos (Nat.pos_of_ne_zero h0)]
  refine ⟨?_, rfl, ?_, rfl⟩
  · unfold State.give State.gaveOf
    simp [SMap.get_put]
  · show ((s.setPort p _).port p).paceRet = _
    rw [State.port_setPort, if_pos hp]

/-- The credits that are due go to the die of a port that is up, each line in a PCRED of its own; else they are kept (R346). -/
theorem State.sendPcreds_shows (s : State) (p : Nat) : (s.sendPcreds p).led = s.led ∧
    (s.portUp p = true → (s.sendPcreds p).sent = s.sent ++ (s.port p).paceRet.map (fun e => .kpp p kPCRED e.1 e.2 []) ∧
      ((s.sendPcreds p).port p).paceRet = []) ∧
    (s.portUp p = false → (s.sendPcreds p) = s) := by
  unfold State.sendPcreds
  dsimp only
  rw [State.foldl_emit]
  by_cases hup : s.portUp p = true
  · rw [if_pos hup]
    refine ⟨rfl, fun _ => ⟨rfl, ?_⟩, fun h => absurd hup (by simp [h])⟩
    show ((s.setPort p _).port p).paceRet = []
    rw [State.port_setPort]
    split <;> rfl
  · rw [if_neg hup]
    exact ⟨rfl, fun h => absurd h hup, fun _ => rfl⟩

/-- What a return of pace credits shows, with those of every line that is still owed some (R346). -/
theorem State.returnPace_shows (s : State) (p line k : Nat) (hk : k ≤ s.paceSpent p line) :
    let due := if 0 < k then addRet (s.port p).paceRet line k else (s.port p).paceRet
    (s.returnPace p line k).gaveOf (poolPace p line) = s.gaveOf (poolPace p line) + k ∧
      (s.portUp p = true → (s.returnPace p line k).sent = s.sent ++ due.map (fun e => .kpp p kPCRED e.1 e.2 []) ∧
        ((s.returnPace p line k).port p).paceRet = []) ∧
      (s.portUp p = false → (s.returnPace p line k).sent = s.sent ∧ ((s.returnPace p line k).port p).paceRet = due) := by
  intro due
  obtain ⟨hgave, hsent, hret, hregs⟩ := s.gatherPace_shows p line k hk
  obtain ⟨hled, hup, hdown⟩ := (s.gatherPace p line k).sendPcreds_shows p
  have hportUp : (s.gatherPace p line k).portUp p = s.portUp p := by
    unfold State.portUp State.rf
    rw [hregs]
  rw [hportUp, hsent, hret] at hup
  rw [hportUp] at hdown
  refine ⟨?_, hup, fun h => ?_⟩
  · unfold State.gaveOf at hgave ⊢
    rw [State.returnPace, hled, hgave]
  · rw [State.returnPace, hdown h]
    exact ⟨hsent, hret⟩

/-! ## The map of pages -/

/-- The map of pages is the same: the chart, the tiers, and TIER's registers but TIER_ERR (R258 to R264). -/
structure SameMap (s t : State) : Prop where
  chart     : t.chart = s.chart
  tier      : t.tier = s.tier
  lclusters : t.rf R.GLB_ID_LCLUSTERS = s.rf R.GLB_ID_LCLUSTERS
  regs      : ∀ f : Fld, f.blk = 7 → f.key / 64 ≠ R.TIER_ERR_COUNT.off → t.rf f = s.rf f

theorem SameMap.refl (s : State) : SameMap s s := ⟨rfl, rfl, rfl, fun _ _ _ => rfl⟩

theorem SameMap.trans {s t u : State} (h1 : SameMap s t) (h2 : SameMap t u) : SameMap s u :=
  ⟨h2.chart.trans h1.chart, h2.tier.trans h1.tier, h2.lclusters.trans h1.lclusters, fun f hb ho => (h2.regs f hb ho).trans (h1.regs f hb ho)⟩

/-- What leaves the chart, the tiers and the registers of GLB and TIER leaves the map. -/
theorem Does.sameMap {m : Nat} {s t : State} (h : Does m s t) (h0 : m.testBit 0 = false) (h7 : m.testBit 7 = false) (h30 : m.testBit 30 = false)
    (h38 : m.testBit 38 = false) : SameMap s t :=
  ⟨h.frame .chart h30, h.frame .tier h38, h.rf _ (by rw [show R.GLB_ID_LCLUSTERS.blk = 0 by decide, h0]),
    fun f hb _ => h.rf f (by rw [hb, h7])⟩

section
variable {s t : State} (h : SameMap s t)
include h

/-- A register of one of TIER's arrays, or another beside TIER_ERR. -/
theorem SameMap.rf {b st i c lo w : Nat} (hlo : lo < 64) (hc : 0 < c) (h1 : blockOf b = 7) (h2 : blockOf (b + st * (c - 1)) = 7)
    (hb : 0x300058 < b) : t.rf ⟨b + st * (i % c), lo, w⟩ = s.rf ⟨b + st * (i % c), lo, w⟩ :=
  h.regs _ (Fld.blk_elem b st i c lo w 7 hlo hc h1 h2) (by
    show ((b + st * (i % c)) * 64 + lo) / 64 ≠ 0x300058
    generalize st * (i % c) = k
    omega)

theorem SameMap.entOf (page : Nat) : t.entOf page = s.entOf page := by
  have hdir : ∀ lo w : Nat, lo < 64 →
      t.rf ⟨0x340000 + 0x8 * (page / 131072 % 16384), lo, w⟩ = s.rf ⟨0x340000 + 0x8 * (page / 131072 % 16384), lo, w⟩ :=
    fun lo w hlo => h.rf hlo (by decide) (by decide) (by decide) (by decide)
  have hkind : t.rf (R.TIER_DIR_KIND (page / 131072)) = s.rf (R.TIER_DIR_KIND (page / 131072)) := hdir 62 2 (by decide)
  have hclass : t.rf (R.TIER_DIR_CLASS (page / 131072)) = s.rf (R.TIER_DIR_CLASS (page / 131072)) := hdir 58 4 (by decide)
  have hcache : t.rf (R.TIER_DIR_HOSTCACHE (page / 131072)) = s.rf (R.TIER_DIR_HOSTCACHE (page / 131072)) := hdir 57 1 (by decide)
  have htarget : t.rf (R.TIER_DIR_TARGET (page / 131072)) = s.rf (R.TIER_DIR_TARGET (page / 131072)) := hdir 0 13 (by decide)
  unfold State.entOf State.l2
  simp only [h.tier, hkind, hclass, hcache, htarget]

theorem SameMap.tierOf (da : Nat) : t.tierOf da = s.tierOf da := by
  unfold State.tierOf
  rw [h.lclusters]

theorem SameMap.peerOk (page : Nat) : t.peerOk page = s.peerOk page := by
  have hpeer : ∀ j lo w : Nat, lo < 64 → t.rf ⟨0x301000 + 0x8 * (j % 64), lo, w⟩ = s.rf ⟨0x301000 + 0x8 * (j % 64), lo, w⟩ :=
    fun j lo w hlo => h.rf hlo (by decide) (by decide) (by decide) (by decide)
  unfold State.peerOk
  dsimp only
  rw [show t.rf (R.TIER_PEER_VALID _) = s.rf (R.TIER_PEER_VALID _) from hpeer _ 0 1 (by decide),
    show t.rf (R.TIER_PEER_PAGES _) = s.rf (R.TIER_PEER_PAGES _) from hpeer _ 1 22 (by decide)]

/-- A requester finds the same at a page. -/
theorem SameMap.pageFor (w : Who) (page : Nat) (other : Bool) : t.pageFor w page other = s.pageFor w page other := by
  have hsel : t.selPage page other = s.selPage page other := by
    unfold State.selPage State.pairOf
    rw [h.chart, h.tier]
  have hbias : ∀ p, t.bias p = s.bias p := fun p => by
    unfold State.bias
    rw [show t.rf (R.TIER_BIAS_BIAS (p / 64)) = s.rf (R.TIER_BIAS_BIAS (p / 64)) from
      h.rf (lo := 0) (w := 64) (by decide) (by decide) (by decide) (by decide) (by decide)]
  have hbars : ∀ e, t.biasBars w page e = s.biasBars w page e := fun e => by
    unfold State.biasBars
    rw [hbias, h.tier, h.regs R.TIER_STATUS_MODE (by decide) (by decide)]
  unfold State.pageFor
  simp only [hsel, h.entOf, h.tierOf, hbars, h.peerOk, State.pageOwner_congr h.chart]

theorem SameMap.strWho {n : Nat} (hhost : (t.str n).host = (s.str n).host) (q : Nat) : t.strWho n q = s.strWho n q := by
  unfold State.strWho
  rw [hhost, h.tier]

/-- A stream that is the same finds the same at a semaphore word. -/
theorem SameMap.semBad {n : Nat} (hstr : t.str n = s.str n) (oa : Nat) : t.semBad n oa = s.semBad n oa := by
  unfold State.semBad
  rw [h.strWho (by rw [hstr]), hstr, h.pageFor]

end

/-! ## Refusals -/

/-- A refusal writes TIER_ERR and the log only (R264). -/
theorem State.tierRefuse_rf (s : State) (why : Refused) (st oa : Nat) {f : Fld} (h : f.notLog = true) (hf : f.key / 64 ≠ R.TIER_ERR_COUNT.off) :
    (s.tierRefuse why st oa).rf f = s.rf f := by
  have hne : ∀ g : Fld, g.off = 0x300058 → g.lo < 64 → f.key ≠ g.key := fun g ho hlo hk => hf (by
    rw [hk]
    show (g.off * 64 + g.lo) / 64 = 0x300058
    omega)
  unfold State.tierRefuse
  rw [State.logEv_rf _ _ _ _ _ _ _ h]
  have hcount : ((s.bump R.TIER_ERR_COUNT).set R.TIER_ERR_LAST_STATUS st).rf f = s.rf f :=
    (State.rf_set_of_ne _ _ _ _ (hne _ rfl (by decide))).trans (State.rf_set_of_ne _ _ _ _ (hne _ rfl (by decide)))
  cases why with
  | unmapped => exact (State.rf_set_of_ne _ _ _ _ (hne _ rfl (by decide))).trans hcount
  | biased => exact (State.rf_set_of_ne _ _ _ _ (hne _ rfl (by decide))).trans hcount
  | barred => exact hcount

theorem State.tierRefuse_lastStatus (s : State) (why : Refused) (st oa : Nat) :
    (s.tierRefuse why st oa).rf R.TIER_ERR_LAST_STATUS = st % 2 ^ 8 := by
  unfold State.tierRefuse
  rw [State.logEv_rf _ _ _ _ _ _ _ (by decide)]
  cases why with
  | unmapped => exact (State.rf_set_of_ne _ _ _ _ (by decide)).trans (State.rf_set_same _ _ _)
  | biased => exact (State.rf_set_of_ne _ _ _ _ (by decide)).trans (State.rf_set_same _ _ _)
  | barred => exact State.rf_set_same _ _ _

theorem State.tierRefuse_unmapped (s : State) (st oa : Nat) : (s.tierRefuse .unmapped st oa).rf R.TIER_ERR_UNMAPPED = 1 := by
  unfold State.tierRefuse
  rw [State.logEv_rf _ _ _ _ _ _ _ (by decide)]
  exact State.rf_set_same _ _ _

/-- A refusal leaves the map. -/
theorem State.tierRefuse_sameMap (s : State) (why : Refused) (st oa : Nat) : SameMap s (s.tierRefuse why st oa) :=
  have h : Does 536895616 s (s.tierRefuse why st oa) := State.tierRefuse_does s why st oa (by decide) (Does.rfl' _ s)
  ⟨h.frame .chart (by decide), h.frame .tier (by decide), h.rf _ (by decide), fun f hb hf => s.tierRefuse_rf why st oa
    (by unfold Fld.notLog; rw [hb, Bool.and_eq_true]; exact ⟨decide_eq_true (fun h => by
        rw [Fld.blk, h] at hb
        exact absurd hb (by decide)), by decide⟩) hf⟩

theorem State.note_does' (s : State) (n st cause : Nat) : Does 16777264 s (s.note n st cause) :=
  State.note_does s n st cause (by decide) (Does.rfl' _ s)

/-- A refused request of a stream to one word: TIER_ERR shows it, and the map and the stream stand (R264). -/
theorem State.semRefuse_shows (s : State) (n : Nat) (why : Refused) (oa : Nat) :
    Does 553672880 s (s.semRefuse n why oa) ∧ SameMap s (s.semRefuse n why oa) ∧ SameStand n s (s.semRefuse n why oa) ∧
      (s.semRefuse n why oa).rf R.TIER_ERR_LAST_STATUS = stBAD_ARG ∧
      (why = .unmapped → (s.semRefuse n why oa).rf R.TIER_ERR_UNMAPPED = 1) := by
  have hnote := (s.tierRefuse why stBAD_ARG oa).note_does' n stBAD_ARG 0x0A
  refine ⟨State.semRefuse_does s n why oa (by decide) (Does.rfl' _ s),
    (s.tierRefuse_sameMap why _ oa).trans (hnote.sameMap (by decide) (by decide) (by decide) (by decide)), s.semRefuse_sameStand n why oa, ?_, ?_⟩
  · exact (hnote.rf _ (by decide)).trans (s.tierRefuse_lastStatus why _ oa)
  · rintro rfl
    exact (hnote.rf _ (by decide)).trans (s.tierRefuse_unmapped _ oa)

end Sys2Proof.Machine
end

section
/-! SUPPORT. O20: WAITPACE and WAITSEM pass, or wait (R210, R211, R219, R264, R346). -/

namespace Sys2Proof.Machine

/-- A stream that stands where it stood waits there. -/
theorem SameStand.waits {n w : Nat} {s t : State} (h : SameStand n s t) (hw : w < 16) : Waits n w s (t.waitOn n w) :=
  State.waitOn_waits s t n w hw h.state h.pc

theorem State.passInstr_does' (s : State) (n : Nat) : Does 32 s (s.passInstr n) := State.passInstr_does s n (by decide) (Does.rfl' _ s)

theorem State.waitOn_does' (s : State) (n w : Nat) : Does 32 s (s.waitOn n w) := State.waitOn_does s n w (by decide) (Does.rfl' _ s)

theorem State.strStatus_mem (s : State) (n st : Nat) : (s.strStatus n st).mem = s.mem := by
  unfold State.strStatus
  split <;> rfl

theorem State.note_mem (s : State) (n st cause : Nat) : (s.note n st cause).mem = s.mem := by
  unfold State.note
  dsimp only
  split
  · exact s.strStatus_mem n st
  · exact (State.raiseFlag_mem _ cause).trans (s.strStatus_mem n st)

@[simp] theorem State.passInstr_mem (s : State) (n : Nat) : (s.passInstr n).mem = s.mem := by simp [State.passInstr]
@[simp] theorem State.passInstr_marks (s : State) (n : Nat) : (s.passInstr n).marks = s.marks := by simp [State.passInstr]
@[simp] theorem State.passInstr_sent (s : State) (n : Nat) : (s.passInstr n).sent = s.sent := by simp [State.passInstr]
@[simp] theorem State.passInstr_led (s : State) (n : Nat) : (s.passInstr n).led = s.led := by simp [State.passInstr]
@[simp] theorem State.passInstr_ports (s : State) (n : Nat) : (s.passInstr n).ports = s.ports := by simp [State.passInstr]
@[simp] theorem State.passInstr_strs (s : State) (n : Nat) : (s.passInstr n).strs = s.strs := by simp [State.passInstr]
@[simp] theorem State.passInstr_host (s : State) (n : Nat) : (s.passInstr n).host = s.host := by simp [State.passInstr]

@[simp] theorem State.waitOn_mem (s : State) (n w : Nat) : (s.waitOn n w).mem = s.mem := rfl
@[simp] theorem State.waitOn_sent (s : State) (n w : Nat) : (s.waitOn n w).sent = s.sent := rfl
@[simp] theorem State.waitOn_strs (s : State) (n w : Nat) : (s.waitOn n w).strs = s.strs := rfl

section
variable (n : Fin 16384) (s : State)

/-! ## WAITPACE -/

/-- A stream that has counted its COUNT used. -/
def State.paceUsed (s : State) (n : Nat) : State :=
  s.set (R.STREAM_RUN_PACE_USED n) (s.rf (R.STREAM_RUN_PACE_USED n) + fieldLe (s.unit n) 2 2)

theorem State.paceUsed_sameStand (s : State) (n : Nat) : SameStand n s (s.paceUsed n) :=
  ⟨State.rf_set_of_ne _ _ _ _ (streamReg_key_ne _ _ n (by decide)), State.rf_set_of_ne _ _ _ _ (streamReg_key_ne _ _ n (by decide)),
    State.rf_set_of_ne _ _ _ _ (streamReg_key_ne _ _ n (by decide)), rfl, rfl⟩

theorem streamRun_passInstr (s : State) (n lo w : Nat) (h : lo < 32) :
    (s.passInstr n).rf ⟨0x100018 + 0x40 * (n % 16384), lo, w⟩ = s.rf ⟨0x100018 + 0x40 * (n % 16384), lo, w⟩ :=
  (OnlyWrites.refl s).passInstr _ (by
    simp only [List.nil_append, List.mem_cons, List.not_mem_nil, or_false, forall_eq_or_imp, forall_eq]
    exact ⟨streamReg_key_ne _ _ n (by omega), streamReg_key_ne _ _ n (by omega), streamReg_key_ne _ _ n (by omega)⟩)

/-- What a stream that passes its WAITPACE shows of pace. -/
theorem State.settled_pace (s : State) (n : Nat) : (((s.paceUsed n).settlePace n).passInstr n).rf (R.STREAM_RUN_PACE_USED n) =
      (s.rf (R.STREAM_RUN_PACE_USED n) + fieldLe (s.unit n) 2 2) % 2 ^ 16 ∧
    (((s.paceUsed n).settlePace n).passInstr n).paceDiff n = (s.paceUsed n).paceDiff n := by
  have hkeep : ∀ lo w : Nat, lo < 32 → (((s.paceUsed n).settlePace n).passInstr n).rf ⟨0x100018 + 0x40 * (n % 16384), lo, w⟩ =
      (s.paceUsed n).rf ⟨0x100018 + 0x40 * (n % 16384), lo, w⟩ := fun lo w hlo =>
    (streamRun_passInstr _ n lo w hlo).trans (((s.paceUsed n).settlePace_does' n).rf _ (by rw [streamRun_blk n lo w (by omega)]; decide))
  refine ⟨(hkeep 0 16 (by decide)).trans (State.rf_set_same _ _ _), ?_⟩
  unfold State.paceDiff
  rw [show (((s.paceUsed n).settlePace n).passInstr n).rf (R.STREAM_RUN_PACE_RECV n) = (s.paceUsed n).rf (R.STREAM_RUN_PACE_RECV n) from
      hkeep 16 16 (by decide),
    show (((s.paceUsed n).settlePace n).passInstr n).rf (R.STREAM_RUN_PACE_USED n) = (s.paceUsed n).rf (R.STREAM_RUN_PACE_USED n) from
      hkeep 0 16 (by decide)]

/-- WAITPACE passes, and its pace credits return to the die, or it waits (R210, R346). -/
theorem waitpace_settles (hat : s.atOp n.val opWAITPACE = true) :
    Runs (.waitpace n) s [.streamRegs, .sent, .ledgers, .ports] (fun t =>
      let k := fieldLe (s.unit n.val) 2 2
      let room := s.paceDiff n.val + (s.rf (R.STREAM_CTL_RUN_AHEAD n.val) * s.rf (R.STREAM_CTL_TILE_BURSTS n.val) : Nat)
      ((k : Int) ≤ room → Passed n.val (s.rf (R.STREAM_RUN_PC n.val) + 1) s t ∧
        t.rf (R.STREAM_RUN_PACE_USED n.val) = (s.rf (R.STREAM_RUN_PACE_USED n.val) + k) % 2 ^ 16 ∧
        (let p := s.rf (R.STREAM_TIME_PACE n.val) / 16384
         let l := s.rf (R.STREAM_TIME_PACE n.val) % 16384
         let back := SMap.get (fun _ => 0) (s.port p).pace l - (t.paceDiff n.val).toNat
         let due := if 0 < back then addRet (s.port p).paceRet l back else (s.port p).paceRet
         t.gaveOf (poolPace p l) = s.gaveOf (poolPace p l) + back ∧
         (s.portUp p = true → t.sent = s.sent ++ due.map (fun e => .kpp p kPCRED e.1 e.2 []) ∧ (t.port p).paceRet = []) ∧
         (s.portUp p = false → t.sent = s.sent ∧ (t.port p).paceRet = due))) ∧
      (room < (k : Int) → Waits n.val wtPACE s t ∧ t.sent = s.sent ∧ t.led = s.led ∧ t.ports = s.ports ∧
        t.rf (R.STREAM_RUN_PACE_USED n.val) = s.rf (R.STREAM_RUN_PACE_USED n.val))) := by
  have hon : ¬(!s.atOp n.val opWAITPACE) = true := by rw [hat]; decide
  by_cases hroom : (fieldLe (s.unit n.val) 2 2 : Int) ≤
      s.paceDiff n.val + (s.rf (R.STREAM_CTL_RUN_AHEAD n.val) * s.rf (R.STREAM_CTL_TILE_BURSTS n.val) : Nat)
  · have hexec : exec (.waitpace n) s = .next (((s.paceUsed n.val).settlePace n.val).passInstr n.val) :=
      congrArg Host.Outcome.next ((if_neg hon).trans (if_pos hroom))
    obtain ⟨hused, hdiff⟩ := s.settled_pace n.val
    have hstand := (s.paceUsed_sameStand n.val).trans
      (((s.paceUsed n.val).settlePace_does' n.val).sameStand n.val (by decide) (by decide) (by decide))
    have hpace : (s.paceUsed n.val).rf (R.STREAM_TIME_PACE n.val) = s.rf (R.STREAM_TIME_PACE n.val) :=
      State.rf_set_of_ne _ _ _ _ (streamReg_key_ne _ _ n.val (by decide))
    have hup : ∀ p, (s.paceUsed n.val).portUp p = s.portUp p := fun p => by
      unfold State.portUp
      rw [show (s.paceUsed n.val).rf (R.CDP_STATUS_STATE p) = s.rf (R.CDP_STATUS_STATE p) from
        State.rf_set_of_ne _ _ _ _ (by simp only [Fld.key, R.CDP_STATUS_STATE, R.STREAM_RUN_PACE_USED]; omega)]
    have hreturn := (s.paceUsed n.val).returnPace_shows (s.rf (R.STREAM_TIME_PACE n.val) / 16384) (s.rf (R.STREAM_TIME_PACE n.val) % 16384)
      ((s.paceUsed n.val).paceSpent (s.rf (R.STREAM_TIME_PACE n.val) / 16384) (s.rf (R.STREAM_TIME_PACE n.val) % 16384)
        - ((s.paceUsed n.val).paceDiff n.val).toNat) (Nat.sub_le _ _)
    refine Runs.of hexec (execWaitpace_does n s _ hexec) (by decide)
      ⟨fun _ => ⟨hstand.passes (unitsOfInstr_one (by rw [State.atOp_op hat]; decide)), hused, ?_⟩, fun h => absurd hroom (by omega)⟩
    have hsettle : (s.paceUsed n.val).settlePace n.val = (s.paceUsed n.val).returnPace (s.rf (R.STREAM_TIME_PACE n.val) / 16384)
        (s.rf (R.STREAM_TIME_PACE n.val) % 16384) ((s.paceUsed n.val).paceSpent (s.rf (R.STREAM_TIME_PACE n.val) / 16384)
          (s.rf (R.STREAM_TIME_PACE n.val) % 16384) - ((s.paceUsed n.val).paceDiff n.val).toNat) := by
      rw [← hpace]
      rfl
    rw [← hsettle, hup] at hreturn
    rw [hdiff]
    obtain ⟨hgave, hsent, hkept⟩ := hreturn
    unfold State.gaveOf State.port at *
    rw [State.passInstr_led, State.passInstr_sent, State.passInstr_ports]
    exact ⟨hgave, hsent, hkept⟩
  · have hexec : exec (.waitpace n) s = .next (s.waitOn n.val wtPACE) :=
      congrArg Host.Outcome.next ((if_neg hon).trans (if_neg hroom))
    refine Runs.of hexec (execWaitpace_does n s _ hexec) (by decide) ⟨fun h => absurd h hroom, fun _ => ⟨?_, rfl, rfl, rfl, ?_⟩⟩
    · exact (SameStand.refl _ s).waits (by decide)
    · exact OnlyWrites.waitOn (OnlyWrites.refl s) _ (by
        simp only [List.nil_append, List.mem_cons, List.not_mem_nil, or_false, forall_eq_or_imp, forall_eq]
        exact ⟨streamReg_key_ne _ _ n.val (by decide), streamReg_key_ne _ _ n.val (by decide)⟩)

/-! ## WAITSEM -/

/-- The state in which a WAITSEM is decided: a word that the stream may not reach is recorded as it comes to the instruction (R264). -/
def State.semCome (s : State) (n : Nat) : State :=
  if s.rf (R.STREAM_RUN_WAIT n) = wtSEM then s else
    match s.semBad n (fieldLe (s.unit n) 8 8) with
    | some why => s.semRefuse n why (fieldLe (s.unit n) 8 8)
    | none => s

theorem exec_waitsem (hat : s.atOp n.val opWAITSEM = true) : exec (.waitsem n) s =
    .next (if (s.semCome n.val).semPasses n.val = true then (s.semCome n.val).passSem n.val else (s.semCome n.val).waitOn n.val wtSEM) :=
  congrArg Host.Outcome.next (if_neg (by rw [hat]; decide))

/-- Nothing is recorded of a stream that waits already, or that may reach its word. -/
theorem State.semCome_of_reached {s : State} {n : Nat}
    (h : s.rf (R.STREAM_RUN_WAIT n) = wtSEM ∨ s.semBad n (fieldLe (s.unit n) 8 8) = none) : s.semCome n = s := by
  unfold State.semCome
  by_cases hw : s.rf (R.STREAM_RUN_WAIT n) = wtSEM
  · exact if_pos hw
  · rw [if_neg hw, h.resolve_left hw]

theorem State.semCome_of_bad {s : State} {n : Nat} {why : Refused} (hw : s.rf (R.STREAM_RUN_WAIT n) ≠ wtSEM)
    (hbad : s.semBad n (fieldLe (s.unit n) 8 8) = some why) : s.semCome n = s.semRefuse n why (fieldLe (s.unit n) 8 8) := by
  unfold State.semCome
  rw [if_neg hw, hbad]

/-- Coming to a WAITSEM leaves the stream where it stands, the map and the memory. -/
theorem State.semCome_shows (s : State) (n : Nat) :
    Does 553672880 s (s.semCome n) ∧ SameMap s (s.semCome n) ∧ SameStand n s (s.semCome n) := by
  unfold State.semCome
  split
  · exact ⟨Does.rfl' _ s, SameMap.refl s, SameStand.refl n s⟩
  split
  · rename_i why _
    obtain ⟨hdoes, hmap, hstand, -, -⟩ := s.semRefuse_shows n why (fieldLe (s.unit n) 8 8)
    exact ⟨hdoes, hmap, hstand⟩
  · exact ⟨Does.rfl' _ s, SameMap.refl s, SameStand.refl n s⟩

theorem State.semCome_semBad (s : State) (n oa : Nat) : (s.semCome n).semBad n oa = s.semBad n oa := by
  obtain ⟨-, hmap, hstand⟩ := s.semCome_shows n
  exact hmap.semBad (by unfold State.str; rw [hstand.strs]) oa

/-- Whether the WAITSEM passes is decided by the state in which the stream comes to it. -/
theorem State.semCome_semPasses (s : State) (n : Nat) : (s.semCome n).semPasses n = s.semPasses n := by
  by_cases h : s.rf (R.STREAM_RUN_WAIT n) = wtSEM ∨ s.semBad n (fieldLe (s.unit n) 8 8) = none
  · rw [State.semCome_of_reached h]
  · obtain ⟨why, hbad⟩ := Option.ne_none_iff_exists'.mp (not_or.mp h).2
    obtain ⟨-, -, hstand⟩ := s.semCome_shows n
    unfold State.semPasses
    simp only [State.semCome_semBad, hstand.unit_eq, hbad, Option.isNone_some, Bool.false_and]

theorem State.passSem_does' (s : State) (n : Nat) : Does 17719910560 s (s.passSem n) := State.passSem_does s n (by decide) (Does.rfl' _ s)

/-- A WAITSEM that takes nothing leaves the memory. -/
theorem State.passSem_mem_of_kept {s : State} {n : Nat}
    (h : uFlag (s.unit n) 0 = false ∨ s.semBad n (fieldLe (s.unit n) 8 8) ≠ none) :
    (s.passSem n).mem = s.mem ∧ (s.passSem n).marks = s.marks := by
  have hno : (uFlag (s.unit n) 0 && (s.semBad n (fieldLe (s.unit n) 8 8)).isNone) = false := by
    rcases h with h | h
    · rw [h, Bool.false_and]
    · rw [Option.isNone_eq_false_iff.mpr (Option.isSome_iff_ne_none.mpr h), Bool.and_false]
  unfold State.passSem
  dsimp only
  rw [hno, if_neg Bool.false_ne_true]
  exact ⟨s.passInstr_mem n, s.passInstr_marks n⟩

/-- A WAITSEM with CONSUME takes VALUE from its word. -/
theorem State.passSem_mem_of_taken {s : State} {n : Nat} (hflag : uFlag (s.unit n) 0 = true)
    (hok : s.semBad n (fieldLe (s.unit n) 8 8) = none) :
    (s.passSem n).mem = (s.setSem (fieldLe (s.unit n) 8 8) (s.semWord (fieldLe (s.unit n) 8 8) - fieldLe (s.unit n) 4 4)).mem := by
  unfold State.passSem
  dsimp only
  rw [hflag, hok, Option.isNone_none, Bool.and_self, if_pos rfl]
  exact State.passInstr_mem _ n

/-- WAITSEM passes where its word has reached VALUE, and takes VALUE with CONSUME (R211, R219). -/
theorem waitsem_takes (hat : s.atOp n.val opWAITSEM = true) (hp : s.semPasses n.val = true) :
    Runs (.waitsem n) s [.stepRegs, .streamRegs, .tierRegs, .faultRegs, .logRegs, .memory, .marks, .flagOut, .logRound, .fault] (fun t =>
      let u := s.unit n.val
      Passed n.val (s.rf (R.STREAM_RUN_PC n.val) + 1) s t ∧
      ((uFlag u 0 = false ∨ s.semBad n.val (fieldLe u 8 8) ≠ none) → t.mem = s.mem ∧ t.marks = s.marks) ∧
      (uFlag u 0 = true → s.semBad n.val (fieldLe u 8 8) = none →
        t.mem = (s.setSem (fieldLe u 8 8) (s.semWord (fieldLe u 8 8) - fieldLe u 4 4)).mem) ∧
      ((s.rf (R.STREAM_RUN_WAIT n.val) = wtSEM ∨ s.semBad n.val (fieldLe u 8 8) = none) →
        OnlyChanges [.streamRegs, .tierRegs, .faultRegs, .logRegs, .memory, .marks, .logRound, .fault] s t)) := by
  extract_lets u
  obtain ⟨hdoes, -, hstand⟩ := s.semCome_shows n.val
  have hexec : exec (.waitsem n) s = .next ((s.semCome n.val).passSem n.val) := by
    rw [exec_waitsem n s hat, if_pos (by rw [s.semCome_semPasses, hp])]
  have hmem : (s.semCome n.val).mem = s.mem := by
    unfold State.semCome
    split
    · rfl
    split
    · exact (State.note_mem _ _ _ _).trans (State.tierRefuse_mem s _ _ _)
    · rfl
  refine Runs.of hexec (execWaitsem_does n s _ hexec) (by decide)
    ⟨State.passSem_passed hstand (State.unitsOfInstr_waitsem hat), fun h => ?_, fun hflag hok => ?_, fun h => ?_⟩
  · obtain ⟨hpmem, hpmarks⟩ := State.passSem_mem_of_kept (s := s.semCome n.val) (n := n.val)
      (by rw [s.semCome_semBad, hstand.unit_eq]; exact h)
    exact ⟨hpmem.trans hmem, hpmarks.trans (hdoes.frame .marks (by decide))⟩
  · rw [State.semCome_of_reached (.inr hok)]
    exact State.passSem_mem_of_taken hflag hok
  · rw [State.semCome_of_reached h]
    exact (s.passSem_does' n.val).only _ (by decide)

/-- WAITSEM begins to wait, and records a word that the stream may not reach (R211, R264). -/
theorem waitsem_waits (hat : s.atOp n.val opWAITSEM = true) (hp : s.semPasses n.val = false) :
    Runs (.waitsem n) s [.stepRegs, .streamRegs, .tierRegs, .faultRegs, .logRegs, .flagOut, .logRound] (fun t =>
      let oa := fieldLe (s.unit n.val) 8 8
      Waits n.val wtSEM s t ∧
      ((s.rf (R.STREAM_RUN_WAIT n.val) = wtSEM ∨ s.semBad n.val oa = none) → OnlyChanges [.streamRegs] s t ∧
        OnlyWrites [R.STREAM_RUN_STATE n.val, R.STREAM_RUN_WAIT n.val] s t) ∧
      (∀ why, s.rf (R.STREAM_RUN_WAIT n.val) ≠ wtSEM → s.semBad n.val oa = some why →
        t.rf R.TIER_ERR_LAST_STATUS = stBAD_ARG ∧ (why = .unmapped → t.rf R.TIER_ERR_UNMAPPED = 1))) := by
  extract_lets oa
  obtain ⟨hdoes, -, hstand⟩ := s.semCome_shows n.val
  have hwait := (s.semCome n.val).waitOn_does' n.val wtSEM
  have hexec : exec (.waitsem n) s = .next ((s.semCome n.val).waitOn n.val wtSEM) := by
    rw [exec_waitsem n s hat, if_neg (by rw [s.semCome_semPasses, hp]; decide)]
  refine Runs.of hexec (hwait.after (by decide) hdoes) (by decide) ⟨hstand.waits (by decide), fun h => ?_, fun why hw hbad => ?_⟩
  · rw [State.semCome_of_reached h] at hwait ⊢
    exact ⟨hwait.only _ (by decide), (OnlyWrites.refl s).waitOn⟩
  · obtain ⟨-, -, -, hstatus, hunmapped⟩ := s.semRefuse_shows n.val why oa
    rw [State.semCome_of_bad hw hbad] at hwait ⊢
    exact ⟨(hwait.rf _ (by decide)).trans hstatus, fun h => (hwait.rf _ (by decide)).trans (hunmapped h)⟩

/-- A waiting WAITSEM passes once its word has reached VALUE (R211). -/
theorem waitsemPass_takes (hat : s.atOp n.val opWAITSEM = true) (hw : s.rf (R.STREAM_RUN_WAIT n.val) = wtSEM) (hp : s.semPasses n.val = true) :
    Runs (.waitsemPass n) s [.streamRegs, .tierRegs, .faultRegs, .logRegs, .memory, .marks, .logRound, .fault] (fun t =>
      let u := s.unit n.val
      Passed n.val (s.rf (R.STREAM_RUN_PC n.val) + 1) s t ∧
      ((uFlag u 0 = false ∨ s.semBad n.val (fieldLe u 8 8) ≠ none) → t.mem = s.mem ∧ t.marks = s.marks) ∧
      (uFlag u 0 = true → s.semBad n.val (fieldLe u 8 8) = none →
        t.mem = (s.setSem (fieldLe u 8 8) (s.semWord (fieldLe u 8 8) - fieldLe u 4 4)).mem)) := by
  have hexec : exec (.waitsemPass n) s = .next (s.passSem n.val) :=
    congrArg Host.Outcome.next (if_pos (by rw [hat, hw, hp]; rfl))
  exact Runs.of hexec (execWaitsemPass_does n s _ hexec) (by decide)
    ⟨State.passSem_passed (SameStand.refl _ s) (State.unitsOfInstr_waitsem hat), State.passSem_mem_of_kept, State.passSem_mem_of_taken⟩

end

/-- Settles O20: WAITPACE, and WAITSEM as it comes and as it waits. -/
theorem paceAndSemaphoreWaits : Obligations.PaceAndSemaphoreWaits :=
  ⟨fun n s hat _ => waitpace_settles n s hat, waitsem_takes, waitsem_waits, waitsemPass_takes⟩

end Sys2Proof.Machine
end

section
/-! SUPPORT. O21: bytes written to memory and read back, and the ranges of one page (R221, R255, R258). -/

namespace Sys2Proof.Machine

/-! ## Little-endian words -/

theorem leNat_natLe (k v : Nat) : leNat (natLe k v) = v % 256 ^ k := by
  induction k generalizing v with
  | zero => simp [natLe, leNat, Nat.mod_one]
  | succ k ih => rw [natLe, leNat, ih, BitVec.toNat_ofNat, Nat.pow_succ' (m := 256) (n := k), Nat.mod_mul]

theorem natLe_length (k v : Nat) : (natLe k v).length = k := by
  induction k generalizing v with
  | zero => rfl
  | succ k ih => rw [natLe, List.length_cons, ih]

/-! ## Memory -/

theorem State.byteAt_setByte (s : State) (da : Nat) (b : Byte) (a : Nat) : (s.setByte da b).byteAt a = if a = da then b else s.byteAt a :=
  SMap.get_put _ _ _ _ _

/-- Bytes written at ascending addresses read back as written, and the others as before. -/
theorem State.byteAt_setBytes (s : State) (da : Nat) (l : List Byte) (a : Nat) :
    (s.setBytes da l).byteAt a = if da ≤ a ∧ a < da + l.length then l.getD (a - da) 0 else s.byteAt a := by
  induction l generalizing s da with
  | nil => simp [State.setBytes]
  | cons b l ih =>
    rw [State.setBytes, ih, State.byteAt_setByte, List.length_cons]
    by_cases hfirst : a = da
    · subst hfirst
      simp
    · by_cases hin : da + 1 ≤ a ∧ a < da + 1 + l.length
      · rw [if_pos hin, if_pos (by omega), show a - da = a - (da + 1) + 1 by omega, List.getD_cons_succ]
      · rw [if_neg hin, if_neg hfirst, if_neg (by omega)]

/-- A write to memory changes the bytes as they are set: marks and counts apart, nothing else of what is read (R424, R429, R430). -/
theorem State.writeMem_byteAt (s : State) {da : Nat} (l : List MByte) (h : s.isDead da = false) (a : Nat) :
    (s.writeMem da l).byteAt a = (s.setBytes da (l.map (·.1))).byteAt a := by
  have hlost : ∀ v : State, (v.clearLost da l.length).byteAt a = v.byteAt a := fun v => by
    unfold State.clearLost
    split
    · rfl
    · exact State.forEach_keeps (fun v => v.byteAt a) _ _ (fun v x => by dsimp only; split <;> rfl) v
  have hlive : ∀ v : State, v.settleLive.byteAt a = v.byteAt a := fun v => by
    unfold State.settleLive
    dsimp only
    split <;> rfl
  unfold State.writeMem
  rw [if_neg (by rw [h]; decide)]
  dsimp only
  split
  · exact hlost _
  · exact (hlive _).trans (hlost _)

/-- A write to memory begins and ends no pause. -/
theorem State.writeMem_paused (s : State) (da : Nat) (l : List MByte) : (s.writeMem da l).paused = s.paused := by
  have hbytes : ∀ (v : State) (m : List Byte) (k : Nat), (v.setBytes k m).paused = v.paused := fun v m => by
    induction m generalizing v with
    | nil => exact fun _ => rfl
    | cons b m ih => exact fun k => ih _ _
  have hlost : ∀ v : State, (v.clearLost da l.length).paused = v.paused := fun v => by
    unfold State.clearLost
    split
    · rfl
    · exact State.forEach_keeps State.paused _ _ (fun v x => by dsimp only; split <;> rfl) v
  have hlive : ∀ v : State, v.settleLive.paused = v.paused := fun v => by
    unfold State.settleLive
    dsimp only
    split <;> rfl
  unfold State.writeMem
  split
  · rfl
  dsimp only
  split
  · exact (hlost _).trans (hbytes _ _ _)
  · exact (hlive _).trans ((hlost _).trans (hbytes _ _ _))

/-- Eight bytes of a number written read back as the number. -/
theorem State.writeMem_word (s : State) {da : Nat} (v : Nat) (h : s.isDead da = false) :
    leNat ((upTo 8).map (fun k => (s.writeMem da (clean (natLe 8 v))).byteAt (da + k))) = v % 2 ^ 64 := by
  have hclean : (clean (natLe 8 v)).map (·.1) = natLe 8 v := by
    unfold clean
    rw [List.map_map]
    exact List.map_id _
  have hbytes : (upTo 8).map (fun k => (s.writeMem da (clean (natLe 8 v))).byteAt (da + k)) = natLe 8 v := by
    refine List.ext_getElem (by simp [upTo, natLe_length]) (fun k hk hk' => ?_)
    rw [natLe_length] at hk'
    rw [List.getElem_map, s.writeMem_byteAt _ h, State.byteAt_setBytes, hclean, natLe_length, if_pos (by simp [upTo]; omega)]
    simp [upTo, List.getD_eq_getElem?_getD, natLe_length, hk']
  rw [hbytes, leNat_natLe, show 256 ^ 8 = 2 ^ 64 by decide]

/-! ## Ranges -/

/-- A range within one page touches that page. -/
theorem pageSpans_within (page : Nat) {off n : Nat} (hn : 0 < n) (hoff : off + n ≤ 2 ^ 21) :
    pageSpans (page * 2 ^ 21 + off) n = [(page % 2 ^ 31, off, n)] := by
  have hfirst : (page * 2 ^ 21 + off) / 2 ^ 21 = page := by omega
  have hlast : (page * 2 ^ 21 + off + n - 1) / 2 ^ 21 = page := by omega
  unfold pageSpans
  rw [if_neg (by omega), hfirst, hlast, Nat.sub_self]
  simp only [upTo, Nat.zero_add, List.range_one, List.map_cons, List.map_nil, Nat.add_zero, List.cons.injEq, Prod.mk.injEq, and_true, true_and]
  omega

end Sys2Proof.Machine
end

section
/-! SUPPORT. O21: a stream arrives at a barrier and passes it (R212, R249, R396). -/

namespace Sys2Proof.Machine

/-! ## Where a stream stands -/

/-- A stream stands at the unit where it stood, whatever else of its record has changed: STATE, PC and program (R203, R204). -/
structure AtPlace (n : Nat) (s t : State) : Prop where
  state   : t.rf (R.STREAM_RUN_STATE n) = s.rf (R.STREAM_RUN_STATE n)
  pc      : t.rf (R.STREAM_RUN_PC n) = s.rf (R.STREAM_RUN_PC n)
  program : t.rf (R.STREAM_CTL_PROGRAM n) = s.rf (R.STREAM_CTL_PROGRAM n)
  host    : (t.str n).host = (s.str n).host
  prog    : (t.str n).prog = (s.str n).prog
  chart   : t.chart = s.chart

theorem AtPlace.refl (n : Nat) (s : State) : AtPlace n s s := ⟨rfl, rfl, rfl, rfl, rfl, rfl⟩

theorem AtPlace.trans {n : Nat} {s t u : State} (h1 : AtPlace n s t) (h2 : AtPlace n t u) : AtPlace n s u :=
  ⟨h2.state.trans h1.state, h2.pc.trans h1.pc, h2.program.trans h1.program, h2.host.trans h1.host, h2.prog.trans h1.prog,
    h2.chart.trans h1.chart⟩

theorem AtPlace.ite {n : Nat} {s a b : State} {c : Prop} [Decidable c] (ha : AtPlace n s a) (hb : AtPlace n s b) :
    AtPlace n s (if c then a else b) := by split <;> assumption

theorem SameStand.atPlace {n : Nat} {s t : State} (h : SameStand n s t) : AtPlace n s t :=
  have hstr : t.str n = s.str n := by unfold State.str; rw [h.strs]
  ⟨h.state, h.pc, h.prog, by rw [hstr], by rw [hstr], h.chart⟩

/-- What leaves STREAM's registers, the streams and the chart leaves every stream in its place. -/
theorem Does.atPlace {m : Nat} {s t : State} (n : Nat) (h : Does m s t) (h5 : m.testBit 5 = false) (h39 : m.testBit 39 = false)
    (h30 : m.testBit 30 = false) : AtPlace n s t := (h.sameStand n h5 h39 h30).atPlace

/-- A stream's record is written with the program that it holds. -/
theorem AtPlace.setStr {n : Nat} (s : State) {x : StreamX} (hhost : x.host = (s.str n).host) (hprog : x.prog = (s.str n).prog) :
    AtPlace n s (s.setStr n x) :=
  ⟨rfl, rfl, rfl, by rw [State.setStr_str, if_pos rfl, hhost], by rw [State.setStr_str, if_pos rfl, hprog], rfl⟩

/-- A register of its context that says nothing of its place is written. -/
theorem AtPlace.set {n : Nat} (s : State) {f : Fld} (hf : f.OfLoop n) (v : Nat) : AtPlace n s (s.set f v) :=
  ⟨s.rf_set_of_ne _ _ _ hf.state, s.rf_set_of_ne _ _ _ hf.pc, s.rf_set_of_ne _ _ _ hf.program, rfl, rfl, rfl⟩

section
variable {n : Nat} {s t : State} (h : AtPlace n s t)
include h

theorem AtPlace.progOf_eq : t.progOf n = s.progOf n := by
  unfold State.progOf
  rw [h.host, h.prog, h.chart, h.program]

theorem AtPlace.unit_eq : t.unit n = s.unit n := State.unit_congr h.progOf_eq h.pc

theorem AtPlace.passes (hu : unitsOfInstr (s.unit n) = 1) : Passed n (s.rf (R.STREAM_RUN_PC n) + 1) s (t.passInstr n) := by
  rw [← h.pc]
  exact State.passInstr_passed s t n (by rw [h.unit_eq, hu]) h.state

theorem AtPlace.waits {w : Nat} (hw : w < 16) : Waits n w s (t.waitOn n w) := State.waitOn_waits s t n w hw h.state h.pc

end

/-! ## Arrivals -/

/-- Generations that complete leave the counts of arrivals. -/
theorem State.settleBarrier_arrived (s : State) (id fuel : Nat) : (s.settleBarrier id fuel).bar.arrived = s.bar.arrived := by
  induction fuel generalizing s with
  | zero => rfl
  | succ fuel ih =>
    have hann : ∀ (v : State) (g : Nat), (v.announceGen id g).bar = v.bar := fun v g =>
      (State.announceGen_does (μ := 2474442252416) v id g (by decide) (Does.rfl' _ v)).frame .barriers (by decide)
    unfold State.settleBarrier
    dsimp only
    split
    · refine (ih _).trans ?_
      split
      · rw [hann]
      · rfl
    · rfl

/-- An arrival counts at its generation (R212, R431). -/
theorem State.arrive_shows (s : State) (id g : Nat) : Does 3608313618560 s (s.arrive id g) ∧
    (s.arrive id g).barCount id g = s.barCount id g + 1 ∧ (s.arrive id g).led.barIn = s.led.barIn + 1 := by
  refine ⟨State.arrive_does s id g (by decide) (Does.rfl' _ s), ?_, ?_⟩
  · unfold State.arrive State.barCount
    rw [State.settleBarrier_arrived]
    simp [SMap.get_put]
  · have hled := fun (v : State) (k : Nat) =>
      (State.settleBarrier_does (μ := 3573953880192) v id k (by decide) (Does.rfl' _ v)).frame .ledgers (by decide)
    unfold State.arrive
    dsimp only
    rw [show (State.settleBarrier _ id _).led = _ from hled _ _]

/-! ## BARRIER -/

/-- A stream's next arrival at an ID noted, with what its instruction says of the barrier. -/
def State.comeToBarrier (s : State) (n : Nat) : State :=
  let u := s.unit n
  let id := fieldLe u 2 2 % 4096
  let v := s.setStr n { s.str n with arrivals := SMap.put (fun _ => 0) (s.str n).arrivals id (s.streamGen n id + 1) }
  { v with bar := { v.bar with parties := SMap.put (fun _ => 0) v.bar.parties id (fieldLe u 4 4)
                               scope1 := if uFlag u 0 then NSet.ins id v.bar.scope1 else v.bar.scope1 } }

theorem State.comeToBarrier_str (s : State) (n : Nat) : (s.comeToBarrier n).str n = { s.str n with
    arrivals := SMap.put (fun _ => 0) (s.str n).arrivals (fieldLe (s.unit n) 2 2 % 4096) (s.streamGen n (fieldLe (s.unit n) 2 2 % 4096) + 1) } :=
  (SMap.get_put _ _ _ _ _).trans (if_pos rfl)

/-- The stream's arrival registered. -/
def State.arrivedAt (s : State) (n : Nat) : State :=
  (s.comeToBarrier n).arrive (fieldLe (s.unit n) 2 2 % 4096) (s.streamGen n (fieldLe (s.unit n) 2 2 % 4096) + 1)

/-- An arrival leaves the stream in its place, at its next generation. -/
theorem State.arrivedAt_shows (s : State) (n : Nat) : AtPlace n s (s.arrivedAt n) ∧
    (s.arrivedAt n).streamGen n (fieldLe (s.unit n) 2 2 % 4096) = s.streamGen n (fieldLe (s.unit n) 2 2 % 4096) + 1 ∧
    (s.arrivedAt n).barCount (fieldLe (s.unit n) 2 2 % 4096) (s.streamGen n (fieldLe (s.unit n) 2 2 % 4096) + 1) =
      s.barCount (fieldLe (s.unit n) 2 2 % 4096) (s.streamGen n (fieldLe (s.unit n) 2 2 % 4096) + 1) + 1 ∧
    (s.arrivedAt n).led.barIn = s.led.barIn + 1 := by
  obtain ⟨hdoes, hcount, hin⟩ := (s.comeToBarrier n).arrive_shows (fieldLe (s.unit n) 2 2 % 4096) (s.streamGen n (fieldLe (s.unit n) 2 2 % 4096) + 1)
  have hstrs : (s.arrivedAt n).strs = (s.comeToBarrier n).strs := hdoes.frame .streams (by decide)
  have hcome : AtPlace n s (s.comeToBarrier n) :=
    ⟨rfl, rfl, rfl, by rw [s.comeToBarrier_str], by rw [s.comeToBarrier_str], rfl⟩
  refine ⟨hcome.trans (hdoes.atPlace n (by decide) (by decide) (by decide)), ?_, hcount, hin⟩
  unfold State.streamGen State.str
  rw [hstrs]
  show SMap.get _ ((s.comeToBarrier n).str n).arrivals _ = _
  rw [s.comeToBarrier_str, SMap.get_put, if_pos rfl]
  rfl

/-- Passing and waiting leave the barriers. -/
theorem Does.configDone_eq {m : Nat} {s t : State} (h : Does m s t) (h0 : m.testBit 0 = false) (h7 : m.testBit 7 = false)
    (h18 : m.testBit 18 = false) (h20 : m.testBit 20 = false) (h30 : m.testBit 30 = false) (h38 : m.testBit 38 = false)
    (h40 : m.testBit 40 = false) (id g : Nat) : t.configDone id g = s.configDone id g := by
  have hmap := h.sameMap h0 h7 h30 h38
  have hsync : ∀ f : Fld, f.blk = 18 → t.rf f = s.rf f := fun f hf => h.rf f (by rw [hf, h18])
  have hbytes : ∀ a, t.byteAt a = s.byteAt a := h.frame .memory h20
  have hannounced : ∀ j, t.announced id j = s.announced id j := fun j => by
    unfold State.announced State.semWord
    rw [hsync R.SYNC_BARRIER_LOCAL_PAGE (by decide), hmap.entOf]
    simp only [hbytes]
  unfold State.configDone State.localGen State.devices
  simp only [show t.bar = s.bar from h.frame .barriers h40, hsync R.SYNC_CONFIG_DEVICES (by decide), hsync R.SYNC_CONFIG_MEMBER (by decide), hannounced]

/-- What leaves the streams, the barriers and the ledgers leaves every generation and count. -/
theorem Does.arrivals {m : Nat} {s t : State} (h : Does m s t) (h35 : m.testBit 35 = false) (h39 : m.testBit 39 = false)
    (h40 : m.testBit 40 = false) {n id g c i : Nat} (hgen : s.streamGen n id = g) (hcount : s.barCount id g = c) (hin : s.led.barIn = i) :
    t.streamGen n id = g ∧ t.barCount id g = c ∧ t.led.barIn = i ∧ ∀ k, t.localGen k = s.localGen k := by
  have hbar : t.bar = s.bar := h.frame .barriers h40
  have hstrs : t.strs = s.strs := h.frame .streams h39
  refine ⟨?_, ?_, ?_, fun k => ?_⟩
  · unfold State.streamGen State.str at hgen ⊢
    rw [hstrs, hgen]
  · unfold State.barCount at hcount ⊢
    rw [hbar, hcount]
  · rw [show t.led = s.led from h.frame .ledgers h35, hin]
  · unfold State.localGen
    rw [hbar]

section
variable (n : Fin 16384) (s : State)

theorem State.unitsOfInstr_barrier {s : State} {n : Nat} (hat : s.atOp n opBARRIER = true) : unitsOfInstr (s.unit n) = 1 :=
  unitsOfInstr_one (by rw [State.atOp_op hat]; decide)

/-- BARRIER with PARTIES 0 passes (R212). -/
theorem barrier_alone (hat : s.atOp n.val opBARRIER = true) (hparties : fieldLe (s.unit n.val) 4 4 = 0) :
    Runs (.barrier n) s [.streamRegs] (fun t => Passed n.val (s.rf (R.STREAM_RUN_PC n.val) + 1) s t) := by
  have hexec : exec (.barrier n) s = .next (s.passInstr n.val) :=
    congrArg Host.Outcome.next ((if_neg (by rw [hat]; decide)).trans (if_pos hparties))
  exact Runs.of hexec (s.passInstr_does' n.val) (by decide) ((AtPlace.refl _ s).passes (State.unitsOfInstr_barrier hat))

/-- BARRIER registers one arrival, and passes where its generation has completed (R212, R396). -/
theorem barrier_arrives (hat : s.atOp n.val opBARRIER = true) (hparties : fieldLe (s.unit n.val) 4 4 ≠ 0)
    (hwait : s.rf (R.STREAM_RUN_WAIT n.val) ≠ wtBARRIER) :
    Runs (.barrier n) s [.streamRegs, .tierRegs, .faultRegs, .logRegs, .sent, .logRound, .ledgers, .tier, .streams, .barriers, .host] (fun t =>
      let u := s.unit n.val
      let id := fieldLe u 2 2 % 4096
      let g := s.streamGen n.val id + 1
      t.streamGen n.val id = g ∧ t.barCount id g = s.barCount id g + 1 ∧ t.led.barIn = s.led.barIn + 1 ∧
      (uFlag u 0 = false → g ≤ t.localGen id → Passed n.val (s.rf (R.STREAM_RUN_PC n.val) + 1) s t) ∧
      (uFlag u 0 = false → t.localGen id < g → Waits n.val wtBARRIER s t) ∧
      (uFlag u 0 = true → t.configDone id g = true → Passed n.val (s.rf (R.STREAM_RUN_PC n.val) + 1) s t) ∧
      (uFlag u 0 = true → t.configDone id g = false → Waits n.val wtBARRIER s t)) := by
  extract_lets u id g
  obtain ⟨hplace, hgen, hcount, hin⟩ := s.arrivedAt_shows n.val
  have hdone : (s.arrivedAt n.val).barrierPasses n.val =
      if uFlag u 0 then (s.arrivedAt n.val).configDone id g else decide (g ≤ (s.arrivedAt n.val).localGen id) := by
    unfold State.barrierPasses
    rw [hplace.unit_eq]
    dsimp only
    rw [hgen]
  have hexec : exec (.barrier n) s = .next (if (s.arrivedAt n.val).barrierPasses n.val then (s.arrivedAt n.val).passInstr n.val
      else (s.arrivedAt n.val).waitOn n.val wtBARRIER) :=
    congrArg Host.Outcome.next ((if_neg (by rw [hat]; decide)).trans ((if_neg hparties).trans (if_neg hwait)))
  by_cases hpass : (s.arrivedAt n.val).barrierPasses n.val = true
  · have hp := (s.arrivedAt n.val).passInstr_does' n.val
    have hpassed := hplace.passes (State.unitsOfInstr_barrier hat)
    obtain ⟨hgen', hcount', hin', hlocal⟩ := hp.arrivals (by decide) (by decide) (by decide) hgen hcount hin
    rw [if_pos hpass] at hexec
    refine Runs.of hexec (execBarrier_does n s _ hexec) (by decide) ⟨hgen', hcount', hin', fun _ _ => hpassed, fun hflag hlt => ?_,
      fun _ _ => hpassed, fun hflag hno => ?_⟩
    · rw [hdone, hflag, if_neg Bool.false_ne_true, decide_eq_true_eq] at hpass
      exact absurd hpass (Nat.not_le.mpr (hlocal id ▸ hlt))
    · rw [hp.configDone_eq (by decide) (by decide) (by decide) (by decide) (by decide) (by decide) (by decide)] at hno
      rw [hdone, hflag, if_pos rfl, hno] at hpass
      exact absurd hpass Bool.false_ne_true
  · have hw := (s.arrivedAt n.val).waitOn_does' n.val wtBARRIER
    have hwaits := hplace.waits (w := wtBARRIER) (by decide)
    obtain ⟨hgen', hcount', hin', hlocal⟩ := hw.arrivals (by decide) (by decide) (by decide) hgen hcount hin
    rw [if_neg hpass] at hexec
    refine Runs.of hexec (execBarrier_does n s _ hexec) (by decide) ⟨hgen', hcount', hin', fun hflag hle => ?_, fun _ _ => hwaits,
      fun hflag hyes => ?_, fun _ _ => hwaits⟩
    · rw [hdone, hflag, if_neg Bool.false_ne_true, decide_eq_true_eq] at hpass
      exact absurd (hlocal id ▸ hle) hpass
    · rw [hw.configDone_eq (by decide) (by decide) (by decide) (by decide) (by decide) (by decide) (by decide)] at hyes
      rw [hdone, hflag, if_pos rfl, hyes] at hpass
      exact absurd rfl hpass

/-- BARRIER_COMPLETE lets the stream that waits pass (R212). -/
theorem barrierComplete_passes (id : Fin 4096)
    (hone : s.usedCtx.filter (fun m => s.waitsAt m id.val && s.barrierPasses m) = [n.val]) :
    Runs (.barrierComplete id) s [.streamRegs] (fun t => Passed n.val (s.rf (R.STREAM_RUN_PC n.val) + 1) s t ∧
      OnlyWrites (standF n.val) s t) := by
  have hexec : exec (.barrierComplete id) s = .next (s.passInstr n.val) :=
    congrArg (fun l => Host.Outcome.next (s.forEach l (fun s n => s.passInstr n))) hone
  have hwaits : s.waitsAt n.val id.val = true :=
    (Bool.and_eq_true _ _ ▸ (List.mem_filter.mp (hone ▸ List.mem_singleton_self n.val)).2).1
  have hat : s.atOp n.val opBARRIER = true := by
    unfold State.waitsAt at hwaits
    simp only [Bool.and_eq_true] at hwaits
    exact hwaits.1.1
  exact Runs.of hexec (s.passInstr_does' n.val) (by decide)
    ⟨(AtPlace.refl _ s).passes (State.unitsOfInstr_barrier hat), (OnlyWrites.refl s).passInstr⟩

end

end Sys2Proof.Machine
end

section
/-! SUPPORT. O21: a member's announcement reaches the barrier table (R277, R395, R396), and the barriers as a whole. -/

namespace Sys2Proof.Machine

/-! ## Plan time -/

/-- Slots carry what is moved where they did, as long as the phase, the step and the pauses stand. -/
theorem State.slotTime_congr {s t : State} (hphase : t.phase = s.phase) (hstep : t.step = s.step) (hpaused : t.paused = s.paused) :
    t.slotTime = s.slotTime := by
  unfold State.slotTime State.inPlan State.training
  rw [hphase, hstep, hpaused]

theorem Does.slotTime_eq {m : Nat} {s t : State} (h : Does m s t) (h4 : m.testBit 4 = false) (h31 : m.testBit 31 = false)
    (h34 : m.testBit 34 = false) : t.slotTime = s.slotTime :=
  State.slotTime_congr (h.rf R.STEP_STATUS_PHASE (by rw [show R.STEP_STATUS_PHASE.blk = 4 by decide, h4])) (h.frame .step h31) (by
    unfold State.paused
    rw [show t.fault = s.fault from h.frame .fault h34])

/-- In plan time the device is neither IDLE nor in HOLD. -/
theorem State.not_stopped_of_slotTime {s : State} (h : s.slotTime = true) : s.stopped = false := by
  simp only [State.slotTime, State.inPlan, State.training, State.stopped, Bool.and_eq_true, Bool.or_eq_true, decide_eq_true_eq,
    beq_iff_eq] at h ⊢
  have hne : ¬(s.phase = phIDLE ∨ s.phase = phHOLD) := by
    unfold phIDLE phHOLD
    unfold phFORWARD phRESERVE phSWATCH at h
    omega
  simpa [not_or] using hne

/-! ## Neighbours' requests that are taken -/

/-- Outside plan time an announcement is served as it comes (R396). -/
theorem State.takePeer_served (s : State) {r : PeerReq} (hpeers : s.tier.peers = []) (htime : s.slotTime = false) (hkind : r.kind = 3)
    (htime' : (s.servePeer r).slotTime = false) (hpeers' : (s.servePeer r).tier.peers = []) : s.takePeer r = s.servePeer r := by
  have hback : ({ s with tier := { s.tier with peers := [] } } : State) = s :=
    congrArg (fun p => ({ s with tier := { s.tier with peers := p } } : State)) hpeers.symm
  have hanns : ({ s with tier := { s.tier with peers := s.tier.peers ++ [r] } } : State).serveAnns = s.servePeer r := by
    have hleft : [r].filter (fun r => decide (r.kind < 3)) = [] := List.filter_cons_of_neg (by rw [hkind]; decide)
    have hserved : [r].filter (fun r => decide (3 ≤ r.kind)) = [r] := List.filter_cons_of_pos (by rw [hkind]; decide)
    rw [hpeers, List.nil_append]
    refine (if_neg (by rw [show State.slotTime { s with tier := { s.tier with peers := [r] } } = s.slotTime from rfl, htime]; decide)).trans ?_
    dsimp only
    rw [hleft, hserved]
    exact congrArg (fun v : State => v.servePeer r) hback
  have hserve : ({ s with tier := { s.tier with peers := s.tier.peers ++ [r] } } : State).servePeers = s.servePeer r := by
    unfold State.servePeers State.claimPeers
    rw [hanns, htime']
    dsimp only
    rw [if_pos (by decide), hpeers']
    rfl
  unfold State.takePeer State.peerSoon
  rw [hserve]
  dsimp only
  rw [hpeers']

/-- In plan time an announcement without slots waits (R278). -/
theorem State.takePeer_waits (s : State) {r : PeerReq} (hpeers : s.tier.peers = []) (htime : s.slotTime = true) (hdue : r.due = none)
    (hclaim : s.slots.claim s.tier.used s.planTick (s.peerLoad r) = none) :
    s.takePeer r = { s with tier := { s.tier with peers := [r] } } := by
  let v : State := { s with tier := { s.tier with peers := [r] } }
  have hserve : v.servePeers = v := by
    have hanns : v.serveAnns = v := if_pos htime
    have hclaims : v.claimPeers = v := by
      unfold State.claimPeers
      rw [if_neg (by rw [show v.slotTime = s.slotTime from rfl, htime]; decide)]
      dsimp only [v, List.foldl_cons, List.foldl_nil]
      rw [if_neg (by rw [hdue]; decide)]
      rw [show State.slots { s with tier := { s.tier with peers := [r] } } = s.slots from rfl,
        show State.planTick { s with tier := { s.tier with peers := [r] } } = s.planTick from rfl,
        show State.peerLoad { s with tier := { s.tier with peers := [r] } } r = s.peerLoad r from rfl, hclaim]
      rfl
    have hnext : v.peerNext = v := by
      have hno : v.peerDue r = false := by
        unfold State.peerDue
        rw [show v.stopped = s.stopped from rfl, State.not_stopped_of_slotTime htime, hdue, Bool.and_false]
        rfl
      show (if v.peerDue r then _ else v) = v
      rw [hno, if_neg Bool.false_ne_true]
    unfold State.servePeers
    rw [hanns, hclaims]
    exact hnext
  have hsoon : v.peerSoon = none := by
    unfold State.peerSoon
    show (match r.due with | some d => _ | none => none) = none
    rw [hdue]
  unfold State.takePeer
  rw [hpeers, List.nil_append]
  show (match v.servePeers.peerSoon with | some d => (v.servePeers.toTick d).servePeers | none => v.servePeers) = v
  rw [hserve, hsoon]

/-! ## An announcement at the barrier table -/

/-- A member's announcement of a generation of a barrier as a request. -/
def announcement (j : Fin 64) (id : Fin 4096) (g : BitVec 64) : PeerReq := ⟨3, 512 * id.val + 8 * j.val, 8, [], false, 0, g.toNat, 0, none⟩

theorem announcement_place (j : Fin 64) (id : Fin 4096) : 512 * id.val + 8 * j.val + 8 ≤ 2 ^ 21 := by omega

section
variable (j : Fin 64) (id : Fin 4096) (g : BitVec 64) (s : State)

/-- An announcement is a write to the aperture page of the barrier tables (R395). -/
theorem State.servePeer_announcement : s.servePeer (announcement j id g) =
    s.peerSpan true (s.rf R.SYNC_BARRIER_APERTURE_PAGE * 2 ^ 21 + (512 * id.val + 8 * j.val)) (clean (natLe 8 g.toNat)) 8 := rfl

theorem execBarrierAnnouncement_takes (hpow : 2 ≤ s.rf R.PWR_STATE_STATE) (hdev : j.val < s.devices) (hself : j.val ≠ s.rf R.SYNC_CONFIG_MEMBER) :
    exec (.barrierAnnouncement j id g) s = .next (s.takePeer (announcement j id g)) :=
  congrArg Host.Outcome.next (if_neg (by omega))

/-- Requests counted at a page leave the map. -/
theorem State.countPage_shows (page cls : Nat) : (∃ c, s.countPage page cls = { s with tier := { s.tier with counts := c } }) ∧
    ∀ p, (s.countPage page cls).entOf p = s.entOf p := by
  unfold State.countPage
  split
  · exact ⟨⟨_, rfl⟩, fun _ => rfl⟩
  · exact ⟨⟨s.tier.counts, rfl⟩, fun _ => rfl⟩

/-- Eight bytes that a neighbour may write at a page of near memory lie there (R221, R277). -/
theorem State.peerSpan_writes {ap page own off v : Nat} {e : Ent} (hoff : off + 8 ≤ 2 ^ 21)
    (hlend : s.lendPage true ap = some (page, own)) (hpage : page < 2 ^ 31) (hpair : s.pairOf page = none)
    (hfor : s.pageFor .peer page false = .ok e) (hstaged : s.stagedAt e.page = false) (htier : s.tierOf (e.page * 2 ^ 21 + off) ≤ 1) :
    s.peerSpan true (ap * 2 ^ 21 + off) (clean (natLe 8 v)) 8 = (s.countPage page e.cls).writeMem (e.page * 2 ^ 21 + off) (clean (natLe 8 v)) := by
  have hown : s.pageOwner page = own := by
    unfold State.lendPage at hlend
    split at hlend
    · cases hlend
    · simp only [Option.ite_none_left_eq_some, Option.some.injEq, Prod.mk.injEq] at hlend
      obtain ⟨-, howner, rfl, rfl⟩ := hlend
      exact not_not.mp howner
  have hredirects : ∀ v : State, v.chart = s.chart → v.redirects page = false := fun v hv => by
    unfold State.redirects
    rw [show v.pairOf page = s.pairOf page by unfold State.pairOf; rw [hv], hpair]
    rfl
  have hclosed : s.pairClosed page = false := by
    unfold State.pairClosed
    rw [hpair]
    rfl
  obtain ⟨⟨c, hcount⟩, -⟩ := s.countPage_shows page e.cls
  have hlen : (clean (natLe 8 v)).length = 8 := by rw [clean, List.length_map, natLe_length]
  have hspan : State.writeSpan .peer own ⟨s, clean (natLe 8 v), false, []⟩ (page, off, 8) =
      ⟨(s.countPage page e.cls).writeMem (e.page * 2 ^ 21 + off) (clean (natLe 8 v)), [], false, []⟩ := by
    unfold State.writeSpan
    dsimp only
    rw [if_neg (not_not.mpr hown), if_neg (by rw [hclosed]; decide), hredirects s rfl, hfor]
    dsimp only
    rw [if_neg (by rw [hstaged]; decide), hredirects _ (by rw [hcount]), if_neg Bool.false_ne_true,
      show (s.countPage page e.cls).tierOf (e.page * 2 ^ 21 + off) = s.tierOf (e.page * 2 ^ 21 + off) by rw [hcount]; rfl,
      List.take_of_length_le (by rw [hlen]), List.drop_of_length_le (by rw [hlen])]
    generalize s.tierOf (e.page * 2 ^ 21 + off) = k at htier
    interval_cases k <;> rfl
  have hdiv : (ap * 2 ^ 21 + off) / 2 ^ 21 = ap := by omega
  have hmod : (ap * 2 ^ 21 + off) % 2 ^ 21 = off := by omega
  unfold State.peerSpan
  rw [hdiv, hmod, hlend]
  dsimp only
  rw [hredirects s rfl, Bool.and_false, hfor]
  dsimp only
  rw [if_pos rfl, hclosed, if_neg Bool.false_ne_true]
  unfold State.writeOA
  rw [hlen, pageSpans_within page (by decide) hoff, Nat.mod_eq_of_lt hpage, List.foldl_cons, List.foldl_nil, hspan]

/-- An announcement stands in its word of the lent page, and nowhere else (R395, R396). -/
theorem announcement_written (hpow : 2 ≤ s.rf R.PWR_STATE_STATE) (hdev : j.val < s.devices) (hself : j.val ≠ s.rf R.SYNC_CONFIG_MEMBER)
    (hpeers : s.tier.peers = []) {own : Nat} {e : Ent} (htime : s.slotTime = false)
    (hlend : s.lendPage true (s.rf R.SYNC_BARRIER_APERTURE_PAGE) = some (s.rf R.SYNC_BARRIER_LOCAL_PAGE, own))
    (hpage : s.rf R.SYNC_BARRIER_LOCAL_PAGE < 2 ^ 31) (hpair : s.pairOf (s.rf R.SYNC_BARRIER_LOCAL_PAGE) = none)
    (hfor : s.pageFor .peer (s.rf R.SYNC_BARRIER_LOCAL_PAGE) false = .ok e) (hstaged : s.stagedAt e.page = false)
    (htier : s.tierOf (e.page * 2 ^ 21 + 512 * id.val + 8 * j.val) ≤ 1)
    (hdead : s.isDead (e.page * 2 ^ 21 + 512 * id.val + 8 * j.val) = false) :
    Runs (.barrierAnnouncement j id g) s [.faultRegs, .memory, .marks, .fault, .tier] (fun t =>
      t.announced id.val j.val = g.toNat ∧ t.tier = { s.tier with counts := t.tier.counts } ∧
      ∀ a, (a < e.page * 2 ^ 21 + 512 * id.val + 8 * j.val ∨ e.page * 2 ^ 21 + 512 * id.val + 8 * j.val + 8 ≤ a) → t.byteAt a = s.byteAt a) := by
  have hoff := announcement_place j id
  rw [Nat.add_assoc] at htier hdead
  rw [Nat.add_assoc]
  obtain ⟨⟨c, hcount⟩, hent⟩ := s.countPage_shows (s.rf R.SYNC_BARRIER_LOCAL_PAGE) e.cls
  have hserve : s.servePeer (announcement j id g) = (s.countPage (s.rf R.SYNC_BARRIER_LOCAL_PAGE) e.cls).writeMem
      (e.page * 2 ^ 21 + (512 * id.val + 8 * j.val)) (clean (natLe 8 g.toNat)) :=
    (State.servePeer_announcement j id g s).trans (s.peerSpan_writes hoff hlend hpage hpair hfor hstaged htier)
  generalize hu : s.countPage (s.rf R.SYNC_BARRIER_LOCAL_PAGE) e.cls = u at hserve hcount hent
  generalize hoffs : 512 * id.val + 8 * j.val = off at *
  have hcounted : Does 274877906944 s u := hu ▸ State.countPage_does s _ _ (by decide) (Does.rfl' _ s)
  have hdeadu : u.isDead (e.page * 2 ^ 21 + off) = false := by rw [hcount]; exact hdead
  have hbytesu : ∀ a, u.byteAt a = s.byteAt a := fun a => by rw [hcount]; rfl
  have hw : Does 17183023104 u (u.writeMem (e.page * 2 ^ 21 + off) (clean (natLe 8 g.toNat))) :=
    State.writeMem_does u _ _ (by decide) (Does.rfl' _ u)
  have hword := u.writeMem_word g.toNat hdeadu
  have hbyte := u.writeMem_byteAt (clean (natLe 8 g.toNat)) hdeadu
  have hpaused := u.writeMem_paused (e.page * 2 ^ 21 + off) (clean (natLe 8 g.toNat))
  generalize u.writeMem (e.page * 2 ^ 21 + off) (clean (natLe 8 g.toNat)) = t at hserve hw hword hbyte hpaused
  have hall : Does 292060930048 s t := hw.after (by decide) (hcounted.mono (by decide))
  have htiers : t.tier = { s.tier with counts := c } := (show t.tier = u.tier from hw.frame .tier (by decide)).trans (by rw [hcount])
  have htimet : t.slotTime = false := htime ▸ State.slotTime_congr (hall.rf R.STEP_STATUS_PHASE (by decide)) (hall.frame .step (by decide))
    (hpaused.trans (by rw [hcount]; rfl))
  have htake := s.takePeer_served hpeers htime (r := announcement j id g) rfl (hserve ▸ htimet) (by rw [hserve, htiers]; exact hpeers)
  have hexec := execBarrierAnnouncement_takes j id g s hpow hdev hself
  rw [htake, hserve] at hexec
  refine Runs.of hexec hall (by decide) ⟨?_, by rw [htiers], fun a ha => ?_⟩
  · have hlocal : t.rf R.SYNC_BARRIER_LOCAL_PAGE = s.rf R.SYNC_BARRIER_LOCAL_PAGE := hall.rf _ (by decide)
    have hent' : t.entOf (s.rf R.SYNC_BARRIER_LOCAL_PAGE) = some e := by
      rw [(hw.sameMap (by decide) (by decide) (by decide) (by decide)).entOf, hent]
      unfold State.pageFor State.selPage at hfor
      rw [hpair] at hfor
      dsimp only at hfor
      cases hfound : s.entOf (s.rf R.SYNC_BARRIER_LOCAL_PAGE) with
      | none => rw [hfound] at hfor; cases hfor
      | some x =>
        rw [hfound] at hfor
        dsimp only at hfor
        split at hfor
        · cases hfor
        split at hfor
        · cases hfor
        split at hfor
        · cases hfor
        · cases hfor; rfl
    unfold State.announced State.semWord
    rw [hlocal, Nat.add_assoc, hoffs, show (s.rf R.SYNC_BARRIER_LOCAL_PAGE * 2 ^ 21 + off) / 2 ^ 21 % 2 ^ 31 = s.rf R.SYNC_BARRIER_LOCAL_PAGE by omega,
      hent', show (s.rf R.SYNC_BARRIER_LOCAL_PAGE * 2 ^ 21 + off) % 2 ^ 21 = off by omega]
    exact hword.trans (Nat.mod_eq_of_lt g.isLt)
  · rw [hbyte, State.byteAt_setBytes, if_neg (by rw [clean, List.map_map, List.length_map, natLe_length]; omega), hbytesu]

/-- An announcement is refused where no lend entry gives the page (R277). -/
theorem announcement_refused (hpow : 2 ≤ s.rf R.PWR_STATE_STATE) (hdev : j.val < s.devices) (hself : j.val ≠ s.rf R.SYNC_CONFIG_MEMBER)
    (hpeers : s.tier.peers = []) (htime : s.slotTime = false) (hlend : s.lendPage true (s.rf R.SYNC_BARRIER_APERTURE_PAGE) = none) :
    Runs (.barrierAnnouncement j id g) s [.hqRegs, .tierRegs, .faultRegs, .logRegs, .logRound] (fun t => t.rf R.TIER_ERR_PEER_REFUSED = 1) := by
  have hoff := announcement_place j id
  generalize hst : s.lendStatus true (s.rf R.SYNC_BARRIER_APERTURE_PAGE) = st
  generalize ho : s.rf R.SYNC_BARRIER_APERTURE_PAGE * 2 ^ 21 + (512 * id.val + 8 * j.val) = o
  have hdiv : o / 2 ^ 21 = s.rf R.SYNC_BARRIER_APERTURE_PAGE := by omega
  have hserve : s.servePeer (announcement j id g) = ((s.tierRefuse .barred st o).set R.TIER_ERR_PEER_REFUSED 1).hqErr st R.HQ_ERR_REFUSED := by
    rw [State.servePeer_announcement, ho]
    unfold State.peerSpan
    rw [hdiv, hlend]
    dsimp only
    rw [hst]
    rfl
  have hdoes : Does 536895680 s (((s.tierRefuse .barred st o).set R.TIER_ERR_PEER_REFUSED 1).hqErr st R.HQ_ERR_REFUSED) :=
    State.hqErr_does _ _ _ (by decide) (by decide)
      (Does.set _ _ _ (by decide) (State.tierRefuse_does s _ _ _ (by decide) (Does.rfl' _ s)))
  have hset : (((s.tierRefuse .barred st o).set R.TIER_ERR_PEER_REFUSED 1).hqErr st R.HQ_ERR_REFUSED).rf R.TIER_ERR_PEER_REFUSED = 1 := by
    have hq : Does 64 ((s.tierRefuse .barred st o).set R.TIER_ERR_PEER_REFUSED 1) _ :=
      State.hqErr_does _ st R.HQ_ERR_REFUSED (by decide) (by decide) (Does.rfl' _ _)
    exact (hq.rf _ (by decide)).trans (State.rf_set_same _ _ _)
  have htake := s.takePeer_served hpeers htime (r := announcement j id g) rfl
    (by rw [hserve, hdoes.slotTime_eq (by decide) (by decide) (by decide), htime])
    (by rw [hserve, show State.tier _ = s.tier from hdoes.frame .tier (by decide), hpeers])
  have hexec := execBarrierAnnouncement_takes j id g s hpow hdev hself
  rw [htake, hserve] at hexec
  exact Runs.of hexec hdoes (by decide) hset

/-- In plan time an announcement waits for PEER slots where there are none (R278, R396). -/
theorem announcement_waits (hpow : 2 ≤ s.rf R.PWR_STATE_STATE) (hdev : j.val < s.devices) (hself : j.val ≠ s.rf R.SYNC_CONFIG_MEMBER)
    (hpeers : s.tier.peers = []) (htime : s.slotTime = true) (hclaim : s.slots.claim s.tier.used s.planTick (annLoad 0x5000) = none) :
    Runs (.barrierAnnouncement j id g) s [.tier] (fun t => t.tier = { s.tier with peers := [announcement j id g] }) := by
  have hexec := execBarrierAnnouncement_takes j id g s hpow hdev hself
  rw [s.takePeer_waits hpeers htime (r := announcement j id g) rfl hclaim] at hexec
  exact Runs.of hexec (Does.upd_tier s _ (m := 274877906944) (by decide) (Does.rfl' _ s)) (by decide) rfl

end

/-- Settles O21: an arrival counts at its generation whatever completes by it, and leaves the stream in its place to pass or to wait; an
announcement is one write of a neighbour within the lent page. -/
theorem barriers : Obligations.Barriers :=
  ⟨⟨barrier_alone, barrier_arrives, fun n id s => barrierComplete_passes n s id⟩, fun j id g s hpow hdev hself hpeers =>
    ⟨fun _ _ => announcement_written j id g s hpow hdev hself hpeers, announcement_refused j id g s hpow hdev hself hpeers,
      announcement_waits j id g s hpow hdev hself hpeers⟩⟩

end Sys2Proof.Machine
end

section
/-! SUPPORT. O22: SIGNAL and MARK act after the stream's blocks (R215, R216, R226, R264). -/

namespace Sys2Proof.Machine

/-! ## Memory as registers change -/

/-- The bytes of memory after a write. -/
theorem State.writeMem_mem (s : State) (da : Nat) (l : List MByte) :
    (s.writeMem da l).mem = if s.isDead da then s.mem else (s.setBytes da (l.map (·.1))).mem := by
  have hlost : ∀ v : State, (v.clearLost da l.length).mem = v.mem := fun v => by
    unfold State.clearLost
    split
    · rfl
    · exact State.forEach_keeps State.mem _ _ (fun v x => by dsimp only; split <;> rfl) v
  have hlive : ∀ v : State, v.settleLive.mem = v.mem := fun v => by
    unfold State.settleLive
    dsimp only
    split <;> rfl
  unfold State.writeMem
  split
  · rfl
  dsimp only
  split
  · exact hlost _
  · exact (hlive _).trans (hlost _)

theorem State.setBytes_set (s : State) (f : Fld) (v da : Nat) (l : List Byte) :
    (s.set f v).setBytes da l = (s.setBytes da l).set f v := by
  induction l generalizing s da with
  | nil => rfl
  | cons b l ih => exact ih (s.setByte da b) (da + 1)

section
variable {f : Fld} (hf : f.key < 0x300000 * 64) (s : State) (v : Nat)
include hf

theorem State.rf_set_of_lt {g : Fld} (hg : 0x300000 ≤ g.off) : (s.set f v).rf g = s.rf g :=
  s.rf_set_of_ne f g v (by unfold Fld.key at hf ⊢; omega)

/-- A register below TIER's is none of those that name a dead channel. -/
theorem State.isDead_set (da : Nat) : (s.set f v).isDead da = s.isDead da := by
  have hrf : ∀ g : Fld, 0x300000 ≤ g.off → (s.set f v).rf g = s.rf g := fun g => s.rf_set_of_lt hf v
  have hstate : ∀ k, (s.set f v).rf (R.FAULT_UNIT_STATE (0x611000 + k)) = s.rf (R.FAULT_UNIT_STATE (0x611000 + k)) :=
    fun k => hrf _ (Nat.le_add_right_of_le (by decide))
  have hlogical : ∀ k, (s.set f v).rf (R.FAULT_UNIT_LOGICAL (0x611000 + k)) = s.rf (R.FAULT_UNIT_LOGICAL (0x611000 + k)) :=
    fun k => hrf _ (Nat.le_add_right_of_le (by decide))
  unfold State.isDead State.physChan
  simp only [hstate, hlogical, hrf (R.HBM_STACK_SPARE _) (Nat.le_add_right_of_le (by decide))]
  rfl

theorem State.entOf_set (page : Nat) : (s.set f v).entOf page = s.entOf page := by
  have hrf : ∀ g : Fld, 0x300000 ≤ g.off → (s.set f v).rf g = s.rf g := fun g => s.rf_set_of_lt hf v
  unfold State.entOf
  simp only [hrf (R.TIER_DIR_KIND _) (Nat.le_add_right_of_le (by decide)), hrf (R.TIER_DIR_CLASS _) (Nat.le_add_right_of_le (by decide)),
    hrf (R.TIER_DIR_HOSTCACHE _) (Nat.le_add_right_of_le (by decide)), hrf (R.TIER_DIR_TARGET _) (Nat.le_add_right_of_le (by decide))]
  rfl

/-- Such a register leaves what a semaphore word becomes. -/
theorem State.addSem_set_mem (oa x : Nat) : ((s.set f v).addSem oa x).mem = (s.addSem oa x).mem := by
  have hword : (s.set f v).semWord oa = s.semWord oa := by
    unfold State.semWord
    rw [s.entOf_set hf]
    rfl
  unfold State.addSem State.setSem
  rw [hword, s.entOf_set hf]
  cases s.entOf (oa / 2 ^ 21 % 2 ^ 31) with
  | none => exact (State.tierRefuse_mem _ _ _ _).trans (State.tierRefuse_mem s _ _ _).symm
  | some e =>
    dsimp only
    rw [State.writeMem_mem, State.writeMem_mem, s.isDead_set hf, State.setBytes_set]
    rfl

end

/-! ## What of a stream's record stands -/

/-- What an owner has taken of its slots is all that its record notes. -/
theorem State.useSlots_record (s : State) (n : Nat) (used : List (Nat × Nat)) :
    (s.useSlots n used).str n = { s.str n with used := if (s.str n).host then (s.str n).used else used } := by
  unfold State.useSlots
  cases hhost : (s.str n).host
  · rw [if_neg Bool.false_ne_true, if_neg Bool.false_ne_true, State.setStr_str, if_pos rfl]
  · rw [if_pos rfl, if_pos rfl]
    rfl

theorem State.useSlots_does' (s : State) (n : Nat) (used : List (Nat × Nat)) : Does 2748779069440 s (s.useSlots n used) :=
  State.useSlots_does s n used (by decide) (Does.rfl' _ s)

theorem State.useSlots_atPlace (s : State) (n : Nat) (used : List (Nat × Nat)) : AtPlace n s (s.useSlots n used) :=
  have hregs : ∀ f, (s.useSlots n used).rf f = s.rf f := fun f => by unfold State.rf; rw [s.useSlots_regs]
  ⟨hregs _, hregs _, hregs _, by rw [s.useSlots_record], by rw [s.useSlots_record], (s.useSlots_does' n used).frame .chart (by decide)⟩

/-- A note of a stream writes its STATUS and FLAG_OUT (R226). -/
theorem State.note_rf (s : State) (n st cause : Nat) {f : Fld} (hf : f.key ≠ (R.STREAM_RUN_STATUS n).key) (h4 : f.blk ≠ 4) :
    (s.note n st cause).rf f = s.rf f := by
  have hstatus : (s.strStatus n st).rf f = s.rf f := by
    unfold State.strStatus
    split
    · exact State.rf_set_of_ne _ _ _ _ hf
    · rfl
  unfold State.note
  dsimp only
  split
  · exact hstatus
  · refine ((State.raiseFlag_does (μ := 16777232) _ cause (by decide) (Does.rfl' _ _)).rf f ?_).trans hstatus
    have hle : f.blk ≤ 18 := blockOf_le _
    generalize f.blk = k at hle h4
    revert h4
    interval_cases k <;> decide

/-! ## A signal to a semaphore word -/

theorem streamMarks_blk (n : Nat) : (R.STREAM_AD1_MARKS n).blk = 5 :=
  Fld.blk_elem 0x100030 0x40 n 16384 48 16 5 (by decide) (by decide) (by decide) (by decide)

/-- A signal or mark of KIND 0 delivered: its word raised, or refused where the stream may not reach it (R215, R264). -/
def State.signalSem (s : State) (n oa v : Nat) : State :=
  match s.semBad n oa with
  | some why => s.semRefuse n why oa
  | none => s.addSem oa v

theorem State.signalSem_shows (s : State) (n oa v : Nat) : Does 17736687792 s (s.signalSem n oa v) ∧ SameStand n s (s.signalSem n oa v) ∧
    (s.signalSem n oa v).rf (R.STREAM_AD1_MARKS n) = s.rf (R.STREAM_AD1_MARKS n) ∧
    (s.semBad n oa = none → (s.signalSem n oa v).mem = (s.addSem oa v).mem) ∧
    (s.semBad n oa ≠ none → (s.signalSem n oa v).mem = s.mem ∧ (s.signalSem n oa v).rf R.TIER_ERR_LAST_STATUS = stBAD_ARG) := by
  unfold State.signalSem
  cases hbad : s.semBad n oa with
  | none =>
    have hdoes : Does 17719910528 s (s.addSem oa v) := State.addSem_does s oa v (by decide) (Does.rfl' _ s)
    exact ⟨hdoes.mono (by decide), hdoes.sameStand n (by decide) (by decide) (by decide), hdoes.rf _ (by rw [streamMarks_blk]; decide),
      fun _ => rfl, fun h => absurd rfl h⟩
  | some why =>
    obtain ⟨hdoes, -, hstand, hstatus, -⟩ := s.semRefuse_shows n why oa
    refine ⟨hdoes.mono (by decide), hstand, ?_, fun h => absurd h (by simp), fun _ => ⟨?_, hstatus⟩⟩
    · refine (State.note_rf _ n _ _ (f := R.STREAM_AD1_MARKS n) (streamReg_key_ne _ _ n (by decide)) (by rw [streamMarks_blk]; decide)).trans ?_
      exact (State.tierRefuse_does (μ := 536895616) s why stBAD_ARG oa (by decide) (Does.rfl' _ s)).rf (R.STREAM_AD1_MARKS n) (by rw [streamMarks_blk]; decide)
    · exact (State.note_mem _ _ _ _).trans (State.tierRefuse_mem s _ _ _)

/-! ## A signal to a die -/

/-- The slots of a signal taken leave the stream in its place, the registers and the ports. -/
theorem State.takeMsg_shows (s : State) (n kind target : Nat) : Does 2748779069440 s (s.takeMsg n kind target) ∧
    AtPlace n s (s.takeMsg n kind target) ∧ ∀ f, (s.takeMsg n kind target).rf f = s.rf f := by
  unfold State.takeMsg
  split
  · cases s.claimMsg n (target / 2 ^ 30) with
    | none => exact ⟨Does.rfl' _ s, AtPlace.refl n s, fun _ => rfl⟩
    | some c => exact ⟨s.useSlots_does' n c.1, s.useSlots_atPlace n c.1, fun f => by unfold State.rf; rw [s.useSlots_regs]⟩
  · exact ⟨Does.rfl' _ s, AtPlace.refl n s, fun _ => rfl⟩

/-- A signal of KIND 2 goes as a SIG where its port is up, and is dropped where it is down (R215, R226). -/
theorem State.deliverSig_shows (s : State) (n target addr semv seqv : Nat) (hcan : s.portUp (target / 2 ^ 30) = s.canSend (target / 2 ^ 30) 0) :
    AtPlace n s (s.deliverSignal n 2 target addr semv seqv) ∧
    (s.portUp (target / 2 ^ 30) = true →
      (s.deliverSignal n 2 target addr semv seqv).sent = s.sent ++ [.kpp (target / 2 ^ 30) kSIG seqv (target % 2 ^ 30) []]) ∧
    (s.portUp (target / 2 ^ 30) = false → (s.deliverSignal n 2 target addr semv seqv).sent = s.sent) := by
  have hspend : Does 103079215104 s (s.spend (target / 2 ^ 30) 0) := State.spend_does s _ 0 (by decide) (Does.rfl' _ s)
  unfold State.deliverSignal
  rw [if_neg (by decide), if_neg (by decide), if_pos rfl]
  dsimp only
  rw [← hcan]
  cases s.portUp (target / 2 ^ 30)
  · exact ⟨AtPlace.refl n s, fun h => absurd h (by decide), fun _ => rfl⟩
  · rw [if_pos rfl]
    refine ⟨?_, fun _ => ?_, fun h => absurd h (by decide)⟩
    · exact (State.emit_does _ _ (m := 103083409408) (by decide) (hspend.mono (by decide))).atPlace n (by decide) (by decide) (by decide)
    · rw [State.emit_sent, show (s.spend (target / 2 ^ 30) 0).sent = s.sent from hspend.frame .sent (by decide)]

/-- A signal that does not wait finds credit for its message where its port is up. -/
theorem State.portUp_eq_canSend {s : State} {n target : Nat} (h : s.signalWaits n 2 target = false) :
    s.portUp (target / 2 ^ 30) = s.canSend (target / 2 ^ 30) 0 := by
  simp only [State.signalWaits, State.portWaits, beq_self_eq_true, Bool.true_and, Bool.or_eq_false_iff] at h
  obtain ⟨⟨-, hcan⟩, -⟩ := h
  cases hup : s.portUp (target / 2 ^ 30)
  · unfold State.canSend
    rw [hup]
    rfl
  · rw [hup, Bool.true_and, Bool.not_eq_eq_eq_not, Bool.not_false] at hcan
    exact hcan.symm

theorem State.unitsOfInstr_at {s : State} {n op : Nat} (hat : s.atOp n op = true) (hop : op ≠ opINLINE) : unitsOfInstr (s.unit n) = 1 :=
  unitsOfInstr_one (by rw [State.atOp_op hat]; exact hop)

/-! ## SIGNAL and MARK -/

section
variable (n : Fin 16384) (s : State)

/-- SIGNAL waits for what its stream has in flight, then for its message, and then delivers it and passes (R215). -/
theorem signal_delivers (hat : s.atOp n.val opSIGNAL = true) :
    Runs (.signal n) s [.stepRegs, .streamRegs, .hqRegs, .tierRegs, .faultRegs, .logRegs, .memory, .marks, .sent, .flagOut, .logRound, .fault,
        .ledgers, .ports, .streams, .host]
      (fun t =>
        let u := s.unit n.val
        let kind := fieldLe u 1 1 % 8
        let target := fieldLe u 4 4
        (s.quiet n.val = false → Waits n.val wtORDER s t ∧ t.mem = s.mem ∧ t.sent = s.sent) ∧
        (s.quiet n.val = true → s.signalWaits n.val kind target = true → Waits n.val wtSLOT s t ∧ t.sent = s.sent) ∧
        (s.quiet n.val = true → kind = 0 → Passed n.val (s.rf (R.STREAM_RUN_PC n.val) + 1) s t ∧ t.sent = s.sent ∧
          (s.semBad n.val (fieldLe u 8 8 % 2 ^ 52) = none → t.mem = (s.addSem (fieldLe u 8 8 % 2 ^ 52) (fieldLe u 2 2)).mem) ∧
          (s.semBad n.val (fieldLe u 8 8 % 2 ^ 52) ≠ none → t.mem = s.mem ∧ t.rf R.TIER_ERR_LAST_STATUS = stBAD_ARG)) ∧
        (s.quiet n.val = true → kind = 2 → s.signalWaits n.val kind target = false → s.portUp (target / 2 ^ 30) = true →
          Passed n.val (s.rf (R.STREAM_RUN_PC n.val) + 1) s t ∧
          t.sent = s.sent ++ [.kpp (target / 2 ^ 30) kSIG (fieldLe u 2 2) (target % 2 ^ 30) []]) ∧
        (s.quiet n.val = true → kind = 2 → s.signalWaits n.val kind target = false → s.portUp (target / 2 ^ 30) = false →
          Passed n.val (s.rf (R.STREAM_RUN_PC n.val) + 1) s t ∧ t.sent = s.sent)) := by
  extract_lets u kind target
  have hon : ¬(!s.atOp n.val opSIGNAL) = true := by rw [hat]; decide
  have hone : unitsOfInstr (s.unit n.val) = 1 := State.unitsOfInstr_at hat (by decide)
  cases hquiet : s.quiet n.val
  · have hexec : exec (.signal n) s = .next (s.waitOn n.val wtORDER) :=
      congrArg Host.Outcome.next ((if_neg hon).trans (if_pos (by rw [hquiet]; rfl)))
    exact Runs.of hexec (execSignal_does n s _ hexec) (by decide)
      ⟨fun _ => ⟨(AtPlace.refl _ s).waits (by decide), rfl, rfl⟩, fun h => absurd h (by decide), fun h => absurd h (by decide),
        fun h => absurd h (by decide), fun h => absurd h (by decide)⟩
  have hloud : ¬(!s.quiet n.val) = true := by rw [hquiet]; decide
  cases hwaits : s.signalWaits n.val kind target
  · have hexec : exec (.signal n) s = .next (((s.takeMsg n.val kind target).deliverSignal n.val kind target (fieldLe u 8 8) (fieldLe u 2 2)
        (fieldLe u 2 2)).passInstr n.val) :=
      congrArg Host.Outcome.next ((if_neg hon).trans ((if_neg hloud).trans (if_neg (by rw [hwaits]; decide))))
    obtain ⟨htakes, hplace, hregs⟩ := s.takeMsg_shows n.val kind target
    have hports : (s.takeMsg n.val kind target).ports = s.ports := htakes.frame .ports (by decide)
    have hsent : (s.takeMsg n.val kind target).sent = s.sent := htakes.frame .sent (by decide)
    have hup : ∀ p, (s.takeMsg n.val kind target).portUp p = s.portUp p := fun p => by
      unfold State.portUp
      rw [hregs]
    have hcan : ∀ p, (s.takeMsg n.val kind target).canSend p 0 = s.canSend p 0 := fun p => by
      unfold State.canSend State.port
      rw [hup, hports]
    have hsig : kind = 2 → _ := fun hk => (s.takeMsg n.val kind target).deliverSig_shows n.val target (fieldLe u 8 8) (fieldLe u 2 2)
      (fieldLe u 2 2) (by rw [hup, hcan]; exact State.portUp_eq_canSend (hk ▸ hwaits))
    refine Runs.of hexec (execSignal_does n s _ hexec) (by decide)
      ⟨fun h => absurd h (by decide), fun _ h => absurd h (by decide), fun _ hkind => ?_, fun _ hkind _ hport => ?_, fun _ hkind _ hport => ?_⟩
    · have hdeliver : (s.takeMsg n.val kind target).deliverSignal n.val kind target (fieldLe u 8 8) (fieldLe u 2 2) (fieldLe u 2 2) =
          s.signalSem n.val (fieldLe u 8 8 % 2 ^ 52) (fieldLe u 2 2) := by
        rw [hkind]
        rfl
      obtain ⟨hdoes, hstand, -, hadded, hrefused⟩ := s.signalSem_shows n.val (fieldLe u 8 8 % 2 ^ 52) (fieldLe u 2 2)
      rw [hdeliver]
      refine ⟨hstand.passes hone, (State.passInstr_sent _ _).trans (hdoes.frame .sent (by decide)),
        fun h => (State.passInstr_mem _ _).trans (hadded h), fun h => ?_⟩
      obtain ⟨hmem, hstatus⟩ := hrefused h
      exact ⟨(State.passInstr_mem _ _).trans hmem, ((State.passInstr_does' _ _).rf _ (by decide)).trans hstatus⟩
    · obtain ⟨hat', hgoes, -⟩ := hsig hkind
      rw [hkind] at hplace hat' hgoes hup hsent ⊢
      exact ⟨(hplace.trans hat').passes hone, (State.passInstr_sent _ _).trans ((hgoes (by rw [hup, hport])).trans (by rw [hsent]))⟩
    · obtain ⟨hat', -, hdropped⟩ := hsig hkind
      rw [hkind] at hplace hat' hdropped hup hsent ⊢
      exact ⟨(hplace.trans hat').passes hone, (State.passInstr_sent _ _).trans ((hdropped (by rw [hup, hport])).trans hsent)⟩
  · have hexec : exec (.signal n) s = .next (s.waitOn n.val wtSLOT) :=
      congrArg Host.Outcome.next ((if_neg hon).trans ((if_neg hloud).trans (if_pos hwaits)))
    refine Runs.of hexec (execSignal_does n s _ hexec) (by decide)
      ⟨fun h => absurd h (by decide), fun _ _ => ⟨(AtPlace.refl _ s).waits (by decide), rfl⟩, fun _ hkind => ?_, fun _ _ h => absurd h (by decide),
        fun _ _ h => absurd h (by decide)⟩
    rw [hkind] at hwaits
    exact absurd hwaits Bool.false_ne_true

/-- A mark counted in MARKS. -/
def State.marked1 (s : State) (n : Nat) : State := s.set (R.STREAM_AD1_MARKS n) (s.rf (R.STREAM_AD1_MARKS n) + 1)

theorem streamMarks_ofLoop (n : Nat) : (R.STREAM_AD1_MARKS n).OfLoop n := ofLoop_reg 0x100030 n 48 16 (by decide) (by decide)

/-- MARK waits for what its stream has in flight, then counts itself and adds 1 to its word (R216). -/
theorem mark_counts (hat : s.atOp n.val opMARK = true) :
    Runs (.mark n) s [.stepRegs, .streamRegs, .hqRegs, .tierRegs, .faultRegs, .logRegs, .memory, .marks, .sent, .flagOut, .logRound, .fault,
        .ledgers, .ports, .streams, .host]
      (fun t =>
        let u := s.unit n.val
        let kind := fieldLe u 1 1 / 2 % 8
        (s.quiet n.val = false → Waits n.val wtORDER s t ∧ t.mem = s.mem ∧ t.sent = s.sent ∧
          t.rf (R.STREAM_AD1_MARKS n.val) = s.rf (R.STREAM_AD1_MARKS n.val)) ∧
        (s.quiet n.val = true → kind = 0 → Passed n.val (s.rf (R.STREAM_RUN_PC n.val) + 1) s t ∧ t.sent = s.sent ∧
          t.rf (R.STREAM_AD1_MARKS n.val) = (s.rf (R.STREAM_AD1_MARKS n.val) + 1) % 2 ^ 16 ∧
          (s.semBad n.val (fieldLe u 8 8 % 2 ^ 52) = none → t.mem = (s.addSem (fieldLe u 8 8 % 2 ^ 52) 1).mem) ∧
          (s.semBad n.val (fieldLe u 8 8 % 2 ^ 52) ≠ none → t.mem = s.mem ∧ t.rf R.TIER_ERR_LAST_STATUS = stBAD_ARG))) := by
  extract_lets u kind
  have hon : ¬(!s.atOp n.val opMARK) = true := by rw [hat]; decide
  have hone : unitsOfInstr (s.unit n.val) = 1 := State.unitsOfInstr_at hat (by decide)
  have hmarks := streamMarks_ofLoop n.val
  cases hquiet : s.quiet n.val
  · have hexec : exec (.mark n) s = .next (s.waitOn n.val wtORDER) :=
      congrArg Host.Outcome.next ((if_neg hon).trans (if_pos (by rw [hquiet]; rfl)))
    refine Runs.of hexec (execMark_does n s _ hexec) (by decide)
      ⟨fun _ => ⟨(AtPlace.refl _ s).waits (by decide), rfl, rfl, ?_⟩, fun h => absurd h (by decide)⟩
    exact (OnlyWrites.refl s).waitOn _ (by simpa using ⟨hmarks.state.symm, hmarks.wait.symm⟩)
  have hloud : ¬(!s.quiet n.val) = true := by rw [hquiet]; decide
  by_cases hkind : kind = 0
  · have hwaits : s.signalWaits n.val kind (fieldLe u 4 4) = false := by rw [hkind]; rfl
    have hdeliver : ∀ v, ((s.takeMsg n.val kind (fieldLe u 4 4)).set (R.STREAM_AD1_MARKS n.val) (s.rf (R.STREAM_AD1_MARKS n.val) + 1)).deliverSignal
        n.val kind (fieldLe u 4 4) (fieldLe u 8 8) 1 v = (s.marked1 n.val).signalSem n.val (fieldLe u 8 8 % 2 ^ 52) 1 := fun v => by
      rw [hkind]
      rfl
    have hexec : exec (.mark n) s = .next (((s.marked1 n.val).signalSem n.val (fieldLe u 8 8 % 2 ^ 52) 1).passInstr n.val) := by
      refine congrArg Host.Outcome.next ((if_neg hon).trans ((if_neg hloud).trans ((if_neg (by rw [hwaits]; decide)).trans ?_)))
      exact congrArg (fun v : State => v.passInstr n.val) (hdeliver _)
    have hset : AtPlace n.val s (s.marked1 n.val) := AtPlace.set s hmarks _
    have hmap : SameMap s (s.marked1 n.val) := (Does.set s _ _ (m := 32) (ok_far 5 (streamMarks_blk _) (by decide) (by decide))
      (Does.rfl' _ s)).sameMap (by decide) (by decide) (by decide) (by decide)
    obtain ⟨hdoes, hstand, hcount, hadded, hrefused⟩ := (s.marked1 n.val).signalSem_shows n.val (fieldLe u 8 8 % 2 ^ 52) 1
    rw [hmap.semBad rfl] at hadded hrefused
    refine Runs.of hexec (execMark_does n s _ hexec) (by decide) ⟨fun h => absurd h (by decide), fun _ _ =>
      ⟨(hset.trans hstand.atPlace).passes hone, (State.passInstr_sent _ _).trans (hdoes.frame .sent (by decide)), ?_, fun h => ?_, fun h => ?_⟩⟩
    · rw [hmarks.passInstr_eq, hcount]
      exact State.rf_set_same _ _ _
    · exact (State.passInstr_mem _ _).trans ((hadded h).trans (s.addSem_set_mem (by
        simp only [Fld.key, R.STREAM_AD1_MARKS]; omega) _ _ _))
    · obtain ⟨hmem, hstatus⟩ := hrefused h
      exact ⟨(State.passInstr_mem _ _).trans hmem, ((State.passInstr_does' _ _).rf _ (by decide)).trans hstatus⟩
  · obtain ⟨t, hexec⟩ : ∃ t, exec (.mark n) s = .next t := ⟨_, rfl⟩
    exact Runs.of hexec (execMark_does n s _ hexec) (by decide) ⟨fun h => absurd h (by decide), fun _ h => absurd h hkind⟩

end

/-- Settles O22: SIGNAL and MARK; a word is raised, or refused, by one lemma for both. -/
theorem signalMark : Obligations.SignalMark := ⟨signal_delivers, mark_counts⟩

end Sys2Proof.Machine
end

section
/-! SUPPORT. O23: confirmations of far writes are asked for, come in or fail (R217, R218, R264, R377). -/

namespace Sys2Proof.Machine

/-! ## Asking for a confirmation -/

/-- A stream that waits for confirmations stands in its place, with the same sides to ask and to wait for, and the same map (R218). -/
structure Asking (n : Nat) (s t : State) : Prop where
  place   : AtPlace n s t
  wait    : t.rf (R.STREAM_RUN_WAIT n) = s.rf (R.STREAM_RUN_WAIT n)
  map     : SameMap s t
  far     : (t.str n).far = (s.str n).far
  pend    : (t.str n).pend = (s.str n).pend
  confirm : (t.str n).confirm = (s.str n).confirm

theorem Asking.refl (n : Nat) (s : State) : Asking n s s := ⟨AtPlace.refl n s, rfl, SameMap.refl s, rfl, rfl, rfl⟩

theorem Asking.trans {n : Nat} {s t u : State} (h1 : Asking n s t) (h2 : Asking n t u) : Asking n s u :=
  ⟨h1.place.trans h2.place, h2.wait.trans h1.wait, h1.map.trans h2.map, h2.far.trans h1.far, h2.pend.trans h1.pend, h2.confirm.trans h1.confirm⟩

/-- What leaves GLB, STREAM, TIER, the chart, the tiers and the streams leaves a stream asking as it does. -/
theorem Does.asking {m : Nat} {s t : State} (n : Nat) (h : Does m s t) (h0 : m.testBit 0 = false) (h5 : m.testBit 5 = false)
    (h7 : m.testBit 7 = false) (h30 : m.testBit 30 = false) (h38 : m.testBit 38 = false) (h39 : m.testBit 39 = false) : Asking n s t :=
  have hstr : t.str n = s.str n := by
    unfold State.str
    rw [show t.strs = s.strs from h.frame .streams h39]
  ⟨h.atPlace n h5 h39 h30, h.rf _ (by rw [R.STREAM_RUN_WAIT, streamRun_blk _ _ _ (by decide), h5]), h.sameMap h0 h7 h30 h38, by rw [hstr], by rw [hstr], by rw [hstr]⟩

/-- Whether a side can be confirmed stands with the map and the sides. -/
theorem Asking.confirmable {n side : Nat} {s t : State} (h : Asking n s t) (hs : s.confirmable n side) : t.confirmable n side := by
  unfold State.confirmable at hs ⊢
  simpa only [h.far, h.map.entOf, h.map.tierOf, h.map.peerOk] using hs

/-- The zero-length read that asks a far side of the host link, which the map still reaches (R217, R377). -/
theorem State.askConfirm_far {s : State} {n side : Nat} (hside : side < 100) (h : s.confirmable n side) :
    ∃ x, s.askConfirm n side = s.emitHost x := by
  obtain hdie | ⟨e, he, hpeer⟩ := h
  · exact absurd hdie (Nat.not_le.mpr hside)
  unfold State.askConfirm
  rw [if_neg (Nat.not_le.mpr hside)]
  dsimp only
  rw [he]
  dsimp only
  rw [if_neg (fun h => by rw [hpeer h.1] at h; exact absurd h.2 (by decide))]
  exact ⟨_, rfl⟩

theorem State.takeMsg_asking (s : State) (n kind target : Nat) : Asking n s (s.takeMsg n kind target) := by
  obtain ⟨hdoes, hplace, hregs⟩ := s.takeMsg_shows n kind target
  have hrecord : ∃ k, (s.takeMsg n kind target).str n = { s.str n with used := k } := by
    unfold State.takeMsg
    split
    · split
      · exact ⟨_, s.useSlots_record n _⟩
      · exact ⟨_, rfl⟩
    · exact ⟨_, rfl⟩
  obtain ⟨k, hk⟩ := hrecord
  exact ⟨hplace, hregs _, hdoes.sameMap (by decide) (by decide) (by decide) (by decide), by rw [hk], by rw [hk], by rw [hk]⟩

/-- The FENCE that asks a die. -/
theorem State.askConfirm_die (s : State) (n : Nat) {side : Nat} (hside : 100 ≤ side) : Asking n s (s.askConfirm n side) := by
  unfold State.askConfirm
  rw [if_pos hside]
  dsimp only
  refine (s.takeMsg_asking n 2 _).trans (Does.asking (m := 103083409408) n (State.setPort_does _ _ _ (by decide)
    (State.emit_does _ _ (by decide) (State.spend_does _ _ 0 (by decide) (Does.rfl' _ _)))) ?_ ?_ ?_ ?_ ?_ ?_) <;> decide

/-- A side that can be confirmed is asked, and the stream waits as before. -/
theorem State.askConfirm_asking {s : State} {n side : Nat} (h : s.confirmable n side) : Asking n s (s.askConfirm n side) := by
  by_cases hside : 100 ≤ side
  · exact s.askConfirm_die n hside
  · obtain ⟨x, hx⟩ := State.askConfirm_far (Nat.lt_of_not_le hside) h
    rw [hx]
    exact (State.emitHost_does (μ := 2199027449856) s x (by decide) (Does.rfl' _ s)).asking n (by decide) (by decide) (by decide) (by decide)
      (by decide) (by decide)

/-- Sides that can be confirmed, asked one after another. -/
theorem State.forEach_askConfirm {n : Nat} (l : List Nat) {s : State} (h : ∀ f ∈ l, s.confirmable n f) :
    Asking n s (s.forEach l (fun s f => s.askConfirm n f)) := by
  unfold State.forEach
  induction l generalizing s with
  | nil => exact Asking.refl n s
  | cons f l ih =>
    have hf := State.askConfirm_asking (h f List.mem_cons_self)
    exact hf.trans (ih fun g hg => hf.confirmable (h g (List.mem_cons_of_mem _ hg)))

/-- Those of the host link are reads that the link carries or holds back. -/
theorem State.forEach_askConfirm_far {n : Nat} (l : List Nat) {s : State} (h : ∀ f ∈ l, f < 100 ∧ s.confirmable n f) :
    Does 2199027449856 s (s.forEach l (fun s f => s.askConfirm n f)) := by
  unfold State.forEach
  induction l generalizing s with
  | nil => exact Does.rfl' _ s
  | cons f l ih =>
    obtain ⟨hside, hf⟩ := h f List.mem_cons_self
    obtain ⟨x, hx⟩ := State.askConfirm_far hside hf
    have hasked := State.askConfirm_asking hf
    rw [List.foldl_cons]
    refine Does.after (ih fun g hg => ⟨(h g (List.mem_cons_of_mem _ hg)).1, hasked.confirmable (h g (List.mem_cons_of_mem _ hg)).2⟩) (by decide) ?_
    rw [hx]
    exact State.emitHost_does s x (by decide) (Does.rfl' _ s)

/-! ## A confirmation that fails -/

/-- A far fault shows in HQ_ERR, and the stream stands where it stood (R218, R383). -/
theorem State.farFault_shows (s : State) (n : Nat) : SameStand n s (s.farFault n) ∧ (s.farFault n).rf R.HQ_ERR_FAR_FAULT = 1 ∧
    ∀ f : Fld, f.blk ≠ 4 → f.key ≠ (R.STREAM_RUN_STATUS n).key → f.key ≠ R.HQ_ERR_COUNT.key → f.key ≠ R.HQ_ERR_LAST_STATUS.key →
      f.key ≠ R.HQ_ERR_FAR_FAULT.key → (s.farFault n).rf f = s.rf f := by
  have hq : Does 64 s (s.hqErr stFAR_FAULT R.HQ_ERR_FAR_FAULT) := State.hqErr_does s _ _ (by decide) (by decide) (Does.rfl' _ s)
  refine ⟨(hq.sameStand n (by decide) (by decide) (by decide)).trans (State.note_sameStand _ n _ _), ?_, fun f h4 hs h1 h2 h3 => ?_⟩
  · refine (State.note_rf _ n _ _ ?_ (by decide)).trans (State.rf_set_same _ _ _)
    simp only [Fld.key, R.HQ_ERR_FAR_FAULT, R.STREAM_RUN_STATUS]
    omega
  · exact (State.note_rf _ n _ _ hs h4).trans ((State.rf_set_of_ne _ _ _ _ h3).trans ((State.rf_set_of_ne _ _ _ _ h2).trans (State.rf_set_of_ne _ _ _ _ h1)))

theorem State.refuseConfirm_shows (s : State) (n side oa : Nat) (why : Refused) : AtPlace n s (s.refuseConfirm n side oa why) ∧
    (s.refuseConfirm n side oa why).str n = { s.str n with confirm := (s.str n).confirm.filter (· != side) } ∧
    (s.refuseConfirm n side oa why).rf R.HQ_ERR_FAR_FAULT = 1 ∧ (why = .unmapped → (s.refuseConfirm n side oa why).rf R.TIER_ERR_UNMAPPED = 1) := by
  unfold State.refuseConfirm
  dsimp only
  generalize hv : s.setStr n { s.str n with confirm := (s.str n).confirm.filter (· != side) } = v
  have hplace : AtPlace n s v := hv ▸ AtPlace.setStr s rfl rfl
  have hstr : v.str n = { s.str n with confirm := (s.str n).confirm.filter (· != side) } := by rw [← hv, State.setStr_str, if_pos rfl]
  have hrefuse := (State.tierRefuse_does (μ := 536895616) v why stBAD_ARG oa (by decide) (Does.rfl' _ v)).sameStand n (by decide) (by decide) (by decide)
  obtain ⟨hstand, hfar, hkeep⟩ := (v.tierRefuse why stBAD_ARG oa).farFault_shows n
  refine ⟨hplace.trans (hrefuse.trans hstand).atPlace, ?_, hfar, fun h => ?_⟩
  · unfold State.str at hstr ⊢
    rw [hstand.strs, hrefuse.strs, hstr]
  · subst h
    refine (hkeep _ (by decide) ?_ (by decide) (by decide) (by decide)).trans (v.tierRefuse_unmapped _ oa)
    simp only [Fld.key, R.TIER_ERR_UNMAPPED, R.STREAM_RUN_STATUS]
    omega

/-- Whatever comes of it, a stream that asks stands in its place. -/
theorem State.askConfirm_atPlace (s : State) (n side : Nat) : AtPlace n s (s.askConfirm n side) := by
  by_cases hside : 100 ≤ side
  · exact (s.askConfirm_die n hside).place
  unfold State.askConfirm
  rw [if_neg hside]
  dsimp only
  split
  · exact (s.refuseConfirm_shows n side _ _).1
  split
  · exact (s.refuseConfirm_shows n side _ _).1
  · exact (State.emitHost_does (μ := 2199027449856) s _ (by decide) (Does.rfl' _ s)).atPlace n (by decide) (by decide) (by decide)

/-! ## The sides that are pending -/

/-- Whether a far side is a die whose port or slots the stream waits for (R218). -/
def State.sideWaits (s : State) (n f : Nat) : Bool := decide (100 ≤ f) && (s.portWaits (f - 100) || (s.claimMsg n (f - 100)).isNone)

/-- The stream's pending sides that can be asked waited for. -/
def State.movePend (s : State) (n : Nat) : State :=
  s.setStr n { s.str n with confirm := (s.str n).confirm ++ (s.str n).pend.filter (fun f => !s.sideWaits n f)
                            pend := (s.str n).pend.filter (s.sideWaits n) }

theorem State.confirmPend_eq (s : State) (n : Nat) : s.confirmPend n =
    (s.movePend n).forEach ((s.str n).pend.filter (fun f => !s.sideWaits n f)) (fun s f => s.askConfirm n f) := rfl

theorem State.movePend_atPlace (s : State) (n : Nat) : AtPlace n s (s.movePend n) := AtPlace.setStr s rfl rfl

theorem State.confirmPend_atPlace (s : State) (n : Nat) : AtPlace n s (s.confirmPend n) := by
  have hall : ∀ (l : List Nat) (v : State), AtPlace n v (v.forEach l (fun s f => s.askConfirm n f)) := fun l => by
    unfold State.forEach
    induction l with
    | nil => exact AtPlace.refl n
    | cons f l ih => exact fun v => (v.askConfirm_atPlace n f).trans (ih _)
  rw [State.confirmPend_eq]
  exact (s.movePend_atPlace n).trans (hall _ _)

/-- Where no die keeps a stream waiting, every pending side is asked. -/
theorem State.movePend_all {s : State} {n : Nat} (h : ∀ f ∈ (s.str n).pend, s.sideWaits n f = false) :
    (s.str n).pend.filter (fun f => !s.sideWaits n f) = (s.str n).pend ∧
      (s.movePend n).str n = { s.str n with confirm := (s.str n).confirm ++ (s.str n).pend, pend := [] } := by
  have hgo : (s.str n).pend.filter (fun f => !s.sideWaits n f) = (s.str n).pend :=
    List.filter_eq_self.mpr fun f hf => by rw [h f hf]; rfl
  have hstay : (s.str n).pend.filter (s.sideWaits n) = [] :=
    List.filter_eq_nil_iff.mpr fun f hf => by rw [h f hf]; decide
  refine ⟨hgo, ?_⟩
  unfold State.movePend
  rw [State.setStr_str, if_pos rfl, hgo, hstay]

/-- Every pending side can be asked: they are all asked, and waited for. -/
theorem State.confirmPend_asks {s : State} {n : Nat} (hwaits : ∀ f ∈ (s.str n).pend, s.sideWaits n f = false)
    (h : ∀ f ∈ (s.str n).pend, s.confirmable n f) :
    ((s.confirmPend n).str n).confirm = (s.str n).confirm ++ (s.str n).pend ∧
      (s.confirmPend n).rf (R.STREAM_RUN_WAIT n) = s.rf (R.STREAM_RUN_WAIT n) := by
  obtain ⟨hgo, hstr⟩ := State.movePend_all hwaits
  have hfar : ((s.movePend n).str n).far = (s.str n).far := by rw [hstr]
  have hasks := State.forEach_askConfirm (n := n) (s.str n).pend (s := s.movePend n) fun f hf => by
    have hf := h f hf
    unfold State.confirmable at hf ⊢
    rw [hfar]
    exact hf
  rw [State.confirmPend_eq, hgo, hasks.confirm, hasks.wait, hstr]
  exact ⟨rfl, rfl⟩

/-! ## FENCE -/

section
variable (n : Fin 16384) (s : State)

/-- FENCE waits for what is in flight and for the confirmation of every side (R217). -/
theorem fence_waits (hat : s.atOp n.val opFENCE = true) :
    Runs (.fence n) s [.stepRegs, .streamRegs, .hqRegs, .tierRegs, .faultRegs, .logRegs, .sent, .flagOut, .logRound, .ledgers, .ports, .streams,
        .host] (fun t =>
      let x := s.str n.val
      (s.quiet n.val = false → Waits n.val wtORDER s t ∧ t.strs = s.strs ∧ t.sent = s.sent) ∧
      (s.quiet n.val = true → x.confirm = [] → x.pend = [] → Passed n.val (s.rf (R.STREAM_RUN_PC n.val) + 1) s t ∧ t.sent = s.sent) ∧
      (s.quiet n.val = true → (x.confirm ≠ [] ∨ x.pend ≠ []) → Waits n.val wtORDER s t ∧
        ((∀ f ∈ x.pend, f < 100 ∧ s.confirmable n.val f) → OnlyChanges [.streamRegs, .sent, .streams, .host] s t ∧
          t.str n.val = { x with confirm := x.confirm ++ x.pend, pend := [] }) ∧
        (∀ f, x.confirm = [] → x.pend = [f] → f < 100 → s.entOf (SMap.get (fun _ => 0) x.far f / 2 ^ 21 % 2 ^ 31) = none →
          (t.str n.val).confirm = [] ∧ (t.str n.val).pend = [] ∧ t.rf R.HQ_ERR_FAR_FAULT = 1 ∧ t.rf R.TIER_ERR_UNMAPPED = 1))) := by
  extract_lets x
  have hon : ¬(!s.atOp n.val opFENCE) = true := by rw [hat]; decide
  cases hquiet : s.quiet n.val
  · have hexec : exec (.fence n) s = .next (s.waitOn n.val wtORDER) :=
      congrArg Host.Outcome.next ((if_neg hon).trans (if_pos (by rw [hquiet]; rfl)))
    exact Runs.of hexec (execFence_does n s _ hexec) (by decide)
      ⟨fun _ => ⟨(AtPlace.refl _ s).waits (by decide), rfl, rfl⟩, fun h => absurd h (by decide), fun h => absurd h (by decide)⟩
  have hloud : ¬(!s.quiet n.val) = true := by rw [hquiet]; decide
  by_cases hnone : x.confirm = [] ∧ x.pend = []
  · have hexec : exec (.fence n) s = .next (s.passInstr n.val) :=
      congrArg Host.Outcome.next ((if_neg hon).trans ((if_neg hloud).trans (if_pos (by
        rw [show (s.str n.val).confirm = [] from hnone.1, show (s.str n.val).pend = [] from hnone.2]; rfl))))
    exact Runs.of hexec (execFence_does n s _ hexec) (by decide)
      ⟨fun h => absurd h (by decide), fun _ _ _ => ⟨(AtPlace.refl _ s).passes (State.unitsOfInstr_at hat (by decide)), s.passInstr_sent n.val⟩,
        fun _ h => absurd hnone (by tauto)⟩
  · have hexec : exec (.fence n) s = .next ((s.confirmPend n.val).waitOn n.val wtORDER) :=
      congrArg Host.Outcome.next ((if_neg hon).trans ((if_neg hloud).trans (if_neg (by
        rw [Bool.and_eq_true, List.isEmpty_iff, List.isEmpty_iff]; exact hnone))))
    have hwait := (s.confirmPend n.val).waitOn_does' n.val wtORDER
    refine Runs.of hexec (execFence_does n s _ hexec) (by decide) ⟨fun h => absurd h (by decide), fun _ h1 h2 => absurd ⟨h1, h2⟩ hnone, fun _ _ =>
      ⟨(s.confirmPend_atPlace n.val).waits (by decide), fun hall => ?_, fun f hconfirm hpend hside hent => ?_⟩⟩
    · obtain ⟨hgo, hstr⟩ := State.movePend_all (n := n.val) (s := s) fun f hf => by
        unfold State.sideWaits
        rw [decide_eq_false (Nat.not_le.mpr (hall f hf).1), Bool.false_and]
      have hasks : Does 2199027449856 (s.movePend n.val) (s.confirmPend n.val) := by
        rw [State.confirmPend_eq, hgo]
        refine State.forEach_askConfirm_far _ fun f hf => ⟨(hall f hf).1, ?_⟩
        have hfar : ((s.movePend n.val).str n.val).far = (s.str n.val).far := by rw [hstr]
        have hf := (hall f hf).2
        unfold State.confirmable at hf ⊢
        rw [hfar]
        exact hf
      have hmove : Does 549755813888 s (s.movePend n.val) := State.setStr_does _ _ _ (by decide) (Does.rfl' _ s)
      refine ⟨((hwait.mono (by decide)).after (a := 2748783263776) (m := 2748783263776) (by decide)
        ((hasks.mono (by decide)).after (a := 2748783263776) (by decide) (hmove.mono (by decide)))).only _ (by decide), ?_⟩
      rw [show x = s.str n.val from rfl, ← hstr]
      unfold State.str
      rw [State.waitOn_strs, show (s.confirmPend n.val).strs = (s.movePend n.val).strs from hasks.frame .streams (by decide)]
    · obtain ⟨hgo, hstr⟩ := State.movePend_all (n := n.val) (s := s) fun g hg => by
        rw [show (s.str n.val).pend = [f] from hpend, List.mem_singleton] at hg
        unfold State.sideWaits
        rw [hg, decide_eq_false (Nat.not_le.mpr hside), Bool.false_and]
      have hrefuse : s.confirmPend n.val = (s.movePend n.val).refuseConfirm n.val f (SMap.get (fun _ => 0) x.far f) .unmapped := by
        have hfar : ((s.movePend n.val).str n.val).far = x.far := by rw [hstr]
        rw [State.confirmPend_eq, hgo, show (s.str n.val).pend = [f] from hpend]
        show (s.movePend n.val).askConfirm n.val f = _
        unfold State.askConfirm
        rw [if_neg (Nat.not_le.mpr hside)]
        dsimp only
        rw [hfar, show (s.movePend n.val).entOf _ = none from hent]
      obtain ⟨-, hrecord, hfault, hunmapped⟩ := (s.movePend n.val).refuseConfirm_shows n.val f (SMap.get (fun _ => 0) x.far f) .unmapped
      rw [← hrefuse] at hrecord hfault hunmapped
      have hleft : ((s.confirmPend n.val).waitOn n.val wtORDER).str n.val = { x with confirm := [], pend := [] } := by
        show (s.confirmPend n.val).str n.val = _
        rw [hrecord, hstr, show (s.str n.val).confirm = [] from hconfirm, show (s.str n.val).pend = [f] from hpend]
        simp [x]
      rw [hleft]
      exact ⟨rfl, rfl, (hwait.rf _ (by decide)).trans hfault, (hwait.rf _ (by decide)).trans (hunmapped rfl)⟩

end

/-- The completion of a confirming read takes its side from those waited for; a failed one is a far fault (R218, R377). -/
theorem farReadCompletion_confirms (n : Fin 16384) (f kind : Nat) (s : State) (hwaited : (s.str n.val).confirm.contains f = true) (hside : f < 100)
    (hkind : kind = 0 ∨ kind = 2 ∨ kind = 3) :
    Runs (.farReadCompletion n f kind) s [.stepRegs, .streamRegs, .hqRegs, .flagOut, .streams] (fun t =>
      t.str n.val = { s.str n.val with confirm := (s.str n.val).confirm.filter (fun y => y != f) } ∧
      (kind = 0 → OnlyWrites [] s t ∧ t.flagOut = s.flagOut) ∧ (kind ≠ 0 → t.rf R.HQ_ERR_FAR_FAULT = 1) ∧
      (kind = 2 → t.rf R.HQ_ERR_CPL_ERROR = 1) ∧ (kind = 3 → t.rf R.HQ_ERR_CPL_TIMEOUT = 1)) := by
  generalize hv : s.setStr n.val { s.str n.val with confirm := (s.str n.val).confirm.filter (fun y => y != f) } = v
  have hstr : v.str n.val = { s.str n.val with confirm := (s.str n.val).confirm.filter (fun y => y != f) } := by rw [← hv, State.setStr_str, if_pos rfl]
  have htaken : ¬(!(s.str n.val).confirm.contains f || decide (100 ≤ f) || !([0, 2, 3].contains kind)) = true := by
    rw [hwaited, decide_eq_false (Nat.not_le.mpr hside)]
    rcases hkind with rfl | rfl | rfl <;> decide
  have hexec : exec (.farReadCompletion n f kind) s = .next (if kind = 0 then v else v.readFault n.val kind) :=
    (congrArg Host.Outcome.next (if_neg htaken)).trans (by rw [← hv])
  by_cases hgood : kind = 0
  · rw [if_pos hgood] at hexec
    exact Runs.of hexec (execFarReadCompletion_does n f kind s _ hexec) (by decide)
      ⟨hstr, fun _ => ⟨hv ▸ OnlyWrites.same rfl, by rw [← hv]; rfl⟩, fun h => absurd hgood h, fun h => by omega, fun h => by omega⟩
  · rw [if_neg hgood] at hexec
    generalize hb : (if kind = 2 then R.HQ_ERR_CPL_ERROR else R.HQ_ERR_CPL_TIMEOUT) = bit at *
    have hfault : v.readFault n.val kind = (v.set bit 1).farFault n.val := by rw [← hb]; rfl
    obtain ⟨hstand, hfar, hkeep⟩ := (v.set bit 1).farFault_shows n.val
    have hbit : bit = R.HQ_ERR_CPL_ERROR ∨ bit = R.HQ_ERR_CPL_TIMEOUT := by rw [← hb]; split <;> simp
    have hshows : ((v.set bit 1).farFault n.val).rf bit = 1 := by
      have hstream : bit.key ≠ (R.STREAM_RUN_STATUS n.val).key := by
        rcases hbit with rfl | rfl <;> (simp only [Fld.key, R.HQ_ERR_CPL_ERROR, R.HQ_ERR_CPL_TIMEOUT, R.STREAM_RUN_STATUS]; omega)
      rcases hbit with rfl | rfl <;>
        exact (hkeep _ (by decide) hstream (by decide) (by decide) (by decide)).trans (State.rf_set_same _ _ _)
    refine Runs.of hexec (execFarReadCompletion_does n f kind s _ hexec) (by decide) ⟨?_, fun h => absurd h hgood, fun _ => ?_, fun h => ?_, fun h => ?_⟩
    · rw [hfault, ← hstr]
      unfold State.str
      rw [hstand.strs]
      rfl
    · rw [hfault]
      exact hfar
    · rw [hfault, show R.HQ_ERR_CPL_ERROR = bit by rw [← hb, if_pos h]]
      exact hshows
    · rw [hfault, show R.HQ_ERR_CPL_TIMEOUT = bit by rw [← hb, if_neg (by omega)]]
      exact hshows

/-- Settles O23: FENCE, with the sides that it asks, and the completion of a confirming read. -/
theorem fenceConfirm : Obligations.FenceConfirm := ⟨fence_waits, farReadCompletion_confirms⟩

end Sys2Proof.Machine
end

section
/-! SUPPORT. O24: SEAL and END, and the slots that stand while a stream waits (R214, R218, R248). -/

namespace Sys2Proof.Machine

/-! ## Slots that stand -/

section
variable {m : Nat} {s t : State} (h : Does m s t) (h4 : m.testBit 4 = false) (h31 : m.testBit 31 = false)
include h h4 h31

/-- The slots of the running set stand with STEP, HQ, the chart and the step. -/
theorem Does.slots_eq (h6 : m.testBit 6 = false) (h30 : m.testBit 30 = false) : t.slots = s.slots := by
  have hrf : ∀ f : Fld, f.blk = 4 ∨ f.blk = 6 → t.rf f = s.rf f := fun f hf => h.rf f (by rcases hf with hf | hf <;> rw [hf] <;> assumption)
  have hshare : t.linkShare = s.linkShare := by
    unfold State.linkShare
    rw [hrf R.HQ_LINK_RATE (by decide), hrf R.HQ_LINK_WIDTH (by decide)]
  have hvariant : t.variant = s.variant := hrf R.STEP_STATUS_VARIANT (by decide)
  unfold State.slots State.schedule State.planFin
  rw [show t.chart = s.chart from h.frame .chart h30, show t.step = s.step from h.frame .step h31, hshare, hvariant]

/-- Plan time stands with the row, the phase, the cast-on, the step and the pauses. -/
theorem Does.planTick_eq (h19 : m.testBit 19 = false) (h34 : m.testBit 34 = false) : t.planTick = s.planTick := by
  have hrf : ∀ f : Fld, f.blk = 4 → t.rf f = s.rf f := fun f hf => h.rf f (by rw [hf, h4])
  have hC : t.planC = s.planC := by
    unfold State.planC State.phase
    rw [hrf R.STEP_STATUS_PHASE (by decide), hrf R.STEP_CASTON_VALUE (by decide), show t.step = s.step from h.frame .step h31]
  unfold State.planTick State.paused
  rw [hC, show t.fault = s.fault from h.frame .fault h34, show t.row = s.row from h.frame .row h19, show t.step = s.step from h.frame .step h31]

end

/-- A stream without slots is one that is bound to slots of its own and has too few (R243, R248). -/
theorem State.claimFor_isNone (s : State) (n : Nat) (l : List Load) :
    (s.claimFor n l).isNone = (s.slotBound n && (s.slots.claim (s.str n).used s.planTick l).isNone) := by
  unfold State.claimFor
  cases s.slotBound n
  · rw [if_neg Bool.false_ne_true, Bool.false_and]
    split <;> rfl
  · rw [if_pos rfl, Bool.true_and]

/-- A stream that begins to wait lacks the slots it lacked. -/
theorem State.sideWaits_waitOn (s : State) (n w : Nat) (x : StreamX) (hhost : x.host = (s.str n).host) (hused : x.used = (s.str n).used)
    (hstop : s.sst n ≠ ssSTOPPING) (f : Nat) : ((s.setStr n x).waitOn n w).sideWaits n f = s.sideWaits n f := by
  have hdoes : Does 549755813920 s ((s.setStr n x).waitOn n w) :=
    State.waitOn_does _ n w (by decide) (State.setStr_does s n x (by decide) (Does.rfl' _ s))
  have hstr : ((s.setStr n x).waitOn n w).str n = x := by
    show (s.setStr n x).str n = x
    rw [State.setStr_str, if_pos rfl]
  have hstop' : ((s.setStr n x).waitOn n w).sst n ≠ ssSTOPPING := by
    show State.sst (State.setSst _ n _ w) n ≠ _
    rw [State.setSst_sst]
    split <;> decide
  have hcan : ∀ p, ((s.setStr n x).waitOn n w).canSend p 0 = s.canSend p 0 ∧ ((s.setStr n x).waitOn n w).portUp p = s.portUp p ∧
      ((s.setStr n x).waitOn n w).rf (R.CDP_STATUS_STATE p) = s.rf (R.CDP_STATUS_STATE p) := fun p => by
    have hstate : ((s.setStr n x).waitOn n w).rf (R.CDP_STATUS_STATE p) = s.rf (R.CDP_STATUS_STATE p) := hdoes.rf _ (by
      rw [R.CDP_STATUS_STATE, Fld.blk_elem _ _ _ _ _ _ 11 (by decide) (by decide) (by decide) (by decide)]; decide)
    have hup : ((s.setStr n x).waitOn n w).portUp p = s.portUp p := by unfold State.portUp; rw [hstate]
    refine ⟨?_, hup, hstate⟩
    unfold State.canSend
    rw [hup]
    rfl
  unfold State.sideWaits State.portWaits State.claimMsg
  obtain ⟨hc, hu, hst⟩ := hcan (f - 100)
  rw [hc, hu, hst, State.claimFor_isNone, State.claimFor_isNone]
  unfold State.slotBound
  rw [hstr, hhost, hused, hdoes.slots_eq (by decide) (by decide) (by decide) (by decide),
    hdoes.planTick_eq (by decide) (by decide) (by decide) (by decide),
    hdoes.slotTime_eq (by decide) (by decide) (by decide), bne_iff_ne.mpr hstop, bne_iff_ne.mpr hstop']

/-! ## END -/

theorem State.endStr_rf (s : State) (n : Nat) (f : Fld) : (s.endStr n).rf f = (s.setSst n ssENDED wtNONE).rf f := by
  have hregs : (s.endStr n).regs = (s.setSst n ssENDED wtNONE).regs := by simp [State.endStr, State.give]
  unfold State.rf
  rw [hregs]

theorem State.endStr_str (s : State) (n : Nat) : (s.endStr n).str n = { s.str n with blocks := [], sk := none, confirm := [], pend := [] } :=
  (SMap.get_put _ _ _ _ _).trans (if_pos rfl)

theorem State.endStr_strmOut (s : State) (n : Nat) : (s.endStr n).led.strmOut = s.led.strmOut + (if (s.str n).host then 0 else 1) := rfl

/-- END ends its stream (R214). -/
theorem end_ends (n : Fin 16384) (s : State) (hat : s.atOp n.val opEND = true) :
    Runs (.endOp n) s [.streamRegs, .ledgers, .streams] (fun t => t.sst n.val = ssENDED ∧ t.rf (R.STREAM_RUN_WAIT n.val) = wtNONE ∧
      t.rf (R.STREAM_RUN_PC n.val) = s.rf (R.STREAM_RUN_PC n.val) ∧
      t.str n.val = { s.str n.val with blocks := [], sk := none, confirm := [], pend := [] } ∧
      t.led.strmOut = s.led.strmOut + (if (s.str n.val).host then 0 else 1)) := by
  have hexec : exec (.endOp n) s = .next (s.endStr n.val) := congrArg Host.Outcome.next (if_pos hat)
  exact Runs.of hexec (execEndOp_does n s _ hexec) (by decide)
    ⟨(s.endStr_rf n.val _).trans (State.setSst_sst s _ _ _), (s.endStr_rf n.val _).trans (State.setSst_wait s _ _ _),
      (s.endStr_rf n.val _).trans (s.setSst_pc _ _ _), s.endStr_str n.val, s.endStr_strmOut n.val⟩

/-! ## SEAL -/

/-- What a seal without a status word does before the stream stands SEALED: the stash units it read from flash are its own no more, and a
hand-off counts (R218, R324). -/
def State.sealed (s : State) (n : Nat) : State :=
  let x := s.str n
  let v := { s with ftl := { s.ftl with hostPend := s.ftl.hostPend.filter (fun y => !x.flash.contains y.unit) } }
  let v := v.setStr n { v.str n with flash := [] }
  if x.host && x.hand && v.training && !v.step.reserveOver then v.addSat R.STEP_HANDOFF_SEALED 1 else v

theorem State.sealed_shows (s : State) (n : Nat) : (s.sealed n).rf (R.STREAM_RUN_PC n) = s.rf (R.STREAM_RUN_PC n) ∧ (s.sealed n).mem = s.mem := by
  unfold State.sealed State.addSat
  dsimp only
  split
  · refine ⟨State.rf_set_of_ne _ _ _ _ ?_, rfl⟩
    simp only [Fld.key, R.STREAM_RUN_PC, R.STEP_HANDOFF_SEALED]
    omega
  · exact ⟨rfl, rfl⟩

/-- A seal without a status word moves the stream one unit on, SEALED, and writes no memory (R218). -/
theorem State.finishSeal_shows (s : State) (n : Nat) (hflag : uFlag (s.unit n) 0 = false) : (s.finishSeal n).sst n = ssSEALED ∧
    (s.finishSeal n).rf (R.STREAM_RUN_WAIT n) = wtNONE ∧ (s.finishSeal n).rf (R.STREAM_RUN_PC n) = (s.rf (R.STREAM_RUN_PC n) + 1) % 2 ^ 16 ∧
    (s.finishSeal n).mem = s.mem := by
  obtain ⟨hpc, hmem⟩ := s.sealed_shows n
  have hfinish : s.finishSeal n = (((s.sealed n).set (R.STREAM_RUN_PC n) ((s.sealed n).rf (R.STREAM_RUN_PC n) + 1)).setSst n ssSEALED wtNONE).releaseStash := by
    unfold State.finishSeal
    dsimp only
    rw [hflag]
    rfl
  have hkeep : ∀ (v : State) (f : Fld), v.releaseStash.rf f = v.rf f := fun _ _ => rfl
  rw [hfinish, State.releaseStash_mem, hkeep, hkeep]
  refine ⟨(hkeep _ _).trans (State.setSst_sst _ _ _ _), State.setSst_wait _ _ _ _, ?_, hmem⟩
  rw [State.setSst_pc, State.rf_set_same, hpc]
  rfl

section
variable (n : Fin 16384) (s : State)

/-- The state in which a SEAL begins to ask its far sides (R218). -/
def State.beginFar (s : State) (n : Nat) : State :=
  (s.setStr n { s.str n with pend := (s.str n).far.map (·.1), confirm := [] }).waitOn n wtFAR

theorem State.atSeal_of_atOp {s : State} {n : Nat} (hat : s.atOp n opSEAL = true) (hopen : s.sst n ≠ ssSEALED) : ¬(!s.atSeal n) = true := by
  unfold State.atSeal
  rw [hat, bne_iff_ne.mpr hopen, Bool.and_self, Bool.true_or]
  decide

/-- SEAL as the stream's flight, its wait and its far sides have it (R218). -/
theorem exec_seal (hat : s.atOp n.val opSEAL = true) (hopen : s.sst n.val ≠ ssSEALED) (hflag : uFlag (s.unit n.val) 0 = false) :
    exec (.seal n) s = .next (
      if !s.quiet n.val then s.waitOn n.val wtORDER
      else if s.rf (R.STREAM_RUN_WAIT n.val) = wtFAR then s.sealFar n.val
      else if (s.str n.val).far.isEmpty then s.sealNow n.val
      else (s.beginFar n.val).sealFar n.val) := by
  refine congrArg Host.Outcome.next ((if_neg (State.atSeal_of_atOp hat hopen)).trans ?_)
  dsimp only
  rw [hflag, Bool.false_and, if_neg Bool.false_ne_true]
  rfl

theorem State.sealNow_plain {s : State} {n : Nat} (hflag : uFlag (s.unit n) 0 = false) : s.sealNow n = s.finishSeal n :=
  if_neg (by rw [hflag]; decide)

/-- A stream with no side left to confirm seals. -/
theorem State.sealFar_none {s : State} {n : Nat} (hconfirm : (s.str n).confirm = []) (hpend : (s.str n).pend = [])
    (hflag : uFlag (s.unit n) 0 = false) : s.sealFar n = (s.movePend n).finishSeal n := by
  have hasked : s.confirmPend n = s.movePend n := by
    rw [State.confirmPend_eq, hpend]
    rfl
  have hstr : (s.movePend n).str n = { s.str n with confirm := [], pend := [] } := by
    unfold State.movePend
    rw [State.setStr_str, if_pos rfl, hconfirm, hpend]
    rfl
  unfold State.sealFar
  dsimp only
  rw [hasked, hstr]
  exact (if_pos rfl).trans (State.sealNow_plain (by rw [(s.movePend_atPlace n).unit_eq, hflag]))

theorem Waits.of_place {n w : Nat} {s u t : State} (h : Waits n w s u) (hplace : AtPlace n u t)
    (hwait : t.rf (R.STREAM_RUN_WAIT n) = u.rf (R.STREAM_RUN_WAIT n)) : Waits n w s t :=
  ⟨hplace.pc.trans h.1, hplace.state.trans h.2.1, hwait.trans h.2.2⟩

/-- SEAL asks every far side, and waits for them (R218). -/
theorem State.sealFar_waits {n : Nat} (hfar : (s.str n).far ≠ []) (hat : s.sst n ≠ ssSTOPPING) (hwait : ∀ f ∈ (s.str n).far, s.sideWaits n f.1 = false)
    (hall : ∀ f ∈ (s.str n).far, s.confirmable n f.1) :
    Waits n wtFAR s ((s.beginFar n).sealFar n) ∧ (((s.beginFar n).sealFar n).str n).confirm = (s.str n).far.map (·.1) := by
  have hstr : (s.beginFar n).str n = { s.str n with pend := (s.str n).far.map (·.1), confirm := [] } :=
    (State.setStr_str _ _ _ _).trans (if_pos rfl)
  have hmap : SameMap s (s.beginFar n) := (State.waitOn_does (μ := 549755813920) _ n wtFAR (by decide)
    (State.setStr_does s n _ (by decide) (Does.rfl' _ s))).sameMap (by decide) (by decide) (by decide) (by decide)
  have hasks := State.confirmPend_asks (s := s.beginFar n) (n := n)
    (fun f hf => by
      rw [hstr] at hf
      obtain ⟨p, hp, rfl⟩ := List.mem_map.mp hf
      exact (s.sideWaits_waitOn n wtFAR { s.str n with pend := (s.str n).far.map (·.1), confirm := [] } rfl rfl hat p.1).trans (hwait p hp))
    (fun f hf => by
      rw [hstr] at hf
      obtain ⟨p, hp, rfl⟩ := List.mem_map.mp hf
      have hp := hall p hp
      unfold State.confirmable at hp ⊢
      simpa only [hstr, hmap.entOf, hmap.tierOf, hmap.peerOk] using hp)
  rw [hstr, List.nil_append] at hasks
  have hstay : (s.beginFar n).sealFar n = (s.beginFar n).confirmPend n := by
    unfold State.sealFar
    refine if_neg ?_
    rw [hasks.1, Bool.and_eq_true, List.isEmpty_iff, List.map_eq_nil_iff]
    exact fun h => hfar h.1
  rw [hstay]
  exact ⟨(State.waitOn_waits s (s.setStr n _) n wtFAR (by decide) rfl rfl).of_place ((s.beginFar n).confirmPend_atPlace n) hasks.2, hasks.1⟩

/-- SEAL waits for the stream's blocks, then for every far side, and then seals (R218). -/
theorem seal_seals (hat : s.atOp n.val opSEAL = true) (hopen : s.sst n.val ≠ ssSEALED) :
    Runs (.seal n) s [.stepRegs, .streamRegs, .hqRegs, .tierRegs, .ftlRegs, .cdpRegs, .faultRegs, .logRegs, .memory, .marks, .sent, .flagOut, .logRound,
        .stash, .fault, .ledgers, .ports, .tier, .streams, .host, .flash, .clusters]
      (fun t =>
        let u := s.unit n.val
        let x := s.str n.val
        (s.quiet n.val = false → Waits n.val wtORDER s t ∧ t.mem = s.mem) ∧
        (s.quiet n.val = true → uFlag u 0 = false → x.far = [] → s.rf (R.STREAM_RUN_WAIT n.val) ≠ wtFAR →
          t.sst n.val = ssSEALED ∧ t.rf (R.STREAM_RUN_WAIT n.val) = wtNONE ∧
          t.rf (R.STREAM_RUN_PC n.val) = (s.rf (R.STREAM_RUN_PC n.val) + 1) % 2 ^ 16 ∧ t.mem = s.mem) ∧
        (s.quiet n.val = true → uFlag u 0 = false → x.confirm = [] → x.pend = [] → s.rf (R.STREAM_RUN_WAIT n.val) = wtFAR →
          t.sst n.val = ssSEALED ∧ t.rf (R.STREAM_RUN_WAIT n.val) = wtNONE) ∧
        (s.quiet n.val = true → uFlag u 0 = false → x.far ≠ [] → s.rf (R.STREAM_RUN_WAIT n.val) ≠ wtFAR →
          (x.far.any (fun f => decide (100 ≤ f.1) && (s.portWaits (f.1 - 100) || (s.claimMsg n.val (f.1 - 100)).isNone))) = false →
          (∀ f ∈ x.far, s.confirmable n.val f.1) → Waits n.val wtFAR s t ∧ (t.str n.val).confirm = x.far.map (·.1))) := by
  extract_lets u x
  have hstop : s.sst n.val ≠ ssSTOPPING := by
    rcases State.atOp_sst hat with h | h | h <;> rw [h] <;> decide
  cases hquiet : s.quiet n.val
  · have hseal : ¬(!s.atSeal n.val) = true := State.atSeal_of_atOp hat hopen
    have hexec : exec (.seal n) s = .next (s.waitOn n.val wtORDER) :=
      congrArg Host.Outcome.next ((if_neg hseal).trans (if_pos (by rw [hquiet]; rfl)))
    exact Runs.of hexec (execSeal_does n s _ hexec) (by decide) ⟨fun _ => ⟨(AtPlace.refl _ s).waits (by decide), rfl⟩,
      fun h => absurd h (by decide), fun h => absurd h (by decide), fun h => absurd h (by decide)⟩
  by_cases hflag : uFlag u 0 = false
  swap
  · obtain ⟨t, hexec⟩ : ∃ t, exec (.seal n) s = .next t := ⟨_, rfl⟩
    exact Runs.of hexec (execSeal_does n s _ hexec) (by decide)
      ⟨fun h => absurd h (by decide), fun _ h => absurd h hflag, fun _ h => absurd h hflag, fun _ h => absurd h hflag⟩
  have hexec := exec_seal n s hat hopen hflag
  rw [hquiet, if_neg (by decide)] at hexec
  refine Runs.of hexec (execSeal_does n s _ hexec) (by decide) ⟨fun h => absurd h (by decide), fun _ _ hfar hwait => ?_,
    fun _ _ hconfirm hpend hwait => ?_, fun _ _ hfar hwait hfree hall => ?_⟩
  · rw [if_neg hwait, if_pos (by rw [show (s.str n.val).far = [] from hfar]; rfl), State.sealNow_plain hflag]
    exact s.finishSeal_shows n.val hflag
  · rw [if_pos hwait, State.sealFar_none hconfirm hpend hflag]
    obtain ⟨hstate, hnone, -, -⟩ := (s.movePend n.val).finishSeal_shows n.val (by rw [(s.movePend_atPlace n.val).unit_eq]; exact hflag)
    exact ⟨hstate, hnone⟩
  · rw [if_neg hwait, if_neg (by rw [List.isEmpty_iff]; exact hfar)]
    exact s.sealFar_waits hfar hstop (fun f hf => Bool.eq_false_iff.mpr (List.any_eq_false.mp hfree f hf)) hall

end

/-- Settles O24: END, and SEAL as it waits, asks and seals. -/
theorem sealEnd : Obligations.SealEnd := ⟨end_ends, seal_seals⟩

end Sys2Proof.Machine
end

section
/-! SUPPORT. O25: a stream's order, its blocks put in flight, and its start (R196, R203, R205, R219, R222). -/

namespace Sys2Proof.Machine

/-! ## The order of a stream -/

/-- A stream's check value and the blocks that wait to enter it move on; all else of the stream stands, and the registers but CHECK (R222). -/
structure ChecksOn (n : Nat) (s t : State) : Prop where
  chart  : t.chart = s.chart
  record : ∃ c h, t.str n = { s.str n with crcSeq := c, held := h }
  rf     : ∀ f : Fld, f.key ≠ (R.STREAM_LOOP_CHECK n).key → t.rf f = s.rf f

theorem ChecksOn.refl (n : Nat) (s : State) : ChecksOn n s s := ⟨rfl, ⟨_, _, rfl⟩, fun _ _ => rfl⟩

theorem ChecksOn.trans {n : Nat} {s t u : State} (h1 : ChecksOn n s t) (h2 : ChecksOn n t u) : ChecksOn n s u := by
  obtain ⟨c1, l1, hr1⟩ := h1.record
  obtain ⟨c2, l2, hr2⟩ := h2.record
  exact ⟨h2.chart.trans h1.chart, ⟨c2, l2, by rw [hr2, hr1]⟩, fun f hf => (h2.rf f hf).trans (h1.rf f hf)⟩

theorem ChecksOn.atPlace {n : Nat} {s t : State} (h : ChecksOn n s t) : AtPlace n s t := by
  obtain ⟨c, l, hr⟩ := h.record
  exact ⟨h.rf _ (streamReg_key_ne _ _ n (by decide)), h.rf _ (streamReg_key_ne _ _ n (by decide)), h.rf _ (streamReg_key_ne _ _ n (by decide)),
    by rw [hr], by rw [hr], h.chart⟩

theorem State.foldCheck_checksOn (s : State) (n k : Nat) : ChecksOn n s (s.foldCheck n k) := by
  induction k generalizing s with
  | zero => exact ChecksOn.refl n s
  | succ k ih =>
    unfold State.foldCheck
    dsimp only
    split
    · exact ChecksOn.refl n s
    · refine ChecksOn.trans ?_ (ih _)
      exact ⟨rfl, ⟨_, _, (State.setStr_str _ _ _ _).trans (if_pos rfl)⟩, fun f hf => State.rf_set_of_ne _ _ _ _ hf⟩

/-- A completed block taken into the order moves the check value on. -/
theorem State.doneSeq_checksOn (s : State) (n seq : Nat) (l : List Byte) : ChecksOn n s (s.doneSeq n seq l) := by
  refine ChecksOn.trans ?_ (State.foldCheck_checksOn _ n _)
  exact ⟨rfl, ⟨_, _, (State.setStr_str _ _ _ _).trans (if_pos rfl)⟩, fun _ _ => rfl⟩

/-- The next place of a stream's order taken. -/
theorem State.takeSeq_shows (s : State) (n : Nat) : (s.takeSeq n).1 = (s.str n).nextSeq ∧
    (s.takeSeq n).2.str n = { s.str n with nextSeq := (s.str n).nextSeq + 1 } ∧ AtPlace n s (s.takeSeq n).2 :=
  ⟨rfl, (State.setStr_str _ _ _ _).trans (if_pos rfl), AtPlace.setStr s rfl rfl⟩

@[simp] theorem State.passInstr_str (s : State) (n k : Nat) : (s.passInstr n).str k = s.str k := by
  unfold State.str
  rw [State.passInstr_strs]

@[simp] theorem State.waitOn_str (s : State) (n w k : Nat) : (s.waitOn n w).str k = s.str k := rfl

/-! ## Blocks put in flight -/

/-- The far pieces of a block's source, asked for as it is put in flight (R205, R206). -/
def State.toAsk (s : State) (n : Nat) (b : Block) : List (Nat × Nat) :=
  if b.inHand || (s.frogOf n b.mb).isSome then [] else s.missing (s.strWho n b.seq) [] b.src b.len

theorem State.askFar_does' (s : State) (n q : Nat) (l : List (Nat × Nat)) : Does 309241839616 s (s.askFar n q l) :=
  State.askFar_does s n q l (by decide) (Does.rfl' _ s)

theorem State.askFar_blkIn (s : State) (n q : Nat) (l : List (Nat × Nat)) : (s.askFar n q l).led.blkIn = s.led.blkIn := by
  have hpiece : ∀ (v : State) (p : Nat × Nat), (v.askPiece n q p).led = v.led := fun v p =>
    (State.askPiece_does (μ := 274882101248) v n q p (by decide) (Does.rfl' _ v)).frame .ledgers (by decide)
  unfold State.askFar
  rw [State.foldl_keeps (fun v => v.led.blkIn) _ _ fun v p => by rw [hpiece]]
  rfl

/-- A block put in flight stands last of its stream's blocks, and the ledger counts it (R196, R431). -/
theorem State.launchBlock_shows (s : State) (n : Nat) (b : Block) : Does 858997653504 s (s.launchBlock n b) ∧ AtPlace n s (s.launchBlock n b) ∧
    (s.launchBlock n b).str n =
      { s.str n with blocks := (s.str n).blocks ++ [{ b with asked := s.toAsk n b, owed := pieceBytes (s.toAsk n b) }] } ∧
    (s.launchBlock n b).led.blkIn = s.led.blkIn + 1 := by
  have hask := s.askFar_does' n b.seq (s.toAsk n b)
  have hstr : (s.askFar n b.seq (s.toAsk n b)).str n = s.str n := by
    unfold State.str
    rw [show State.strs _ = s.strs from hask.frame .streams (by decide)]
  have hrecord : (s.launchBlock n b).str n = { (s.askFar n b.seq (s.toAsk n b)).str n with
      blocks := ((s.askFar n b.seq (s.toAsk n b)).str n).blocks ++ [{ b with asked := s.toAsk n b, owed := pieceBytes (s.toAsk n b) }] } :=
    (SMap.get_put _ _ _ _ _).trans (if_pos rfl)
  refine ⟨State.launchBlock_does s n b (by decide) (Does.rfl' _ s), ?_, by rw [hrecord, hstr], ?_⟩
  · refine (hask.atPlace n (by decide) (by decide) (by decide)).trans ⟨rfl, rfl, rfl, ?_, ?_, rfl⟩ <;> rw [hrecord]
  · exact congrArg (· + 1) (s.askFar_blkIn n b.seq (s.toAsk n b))

/-- A block whose bytes are in hand asks nothing of the far tiers. -/
theorem State.launchBlock_inHand (s : State) (n : Nat) {b : Block} (h : b.inHand = true) :
    Does 584115552256 s (s.launchBlock n b) ∧ s.toAsk n b = [] := by
  have hnone : s.toAsk n b = [] := if_pos (by rw [h, Bool.true_or])
  refine ⟨?_, hnone⟩
  unfold State.launchBlock
  dsimp only
  rw [show (if b.inHand || (s.frogOf n b.mb).isSome then [] else s.missing (s.strWho n b.seq) [] b.src b.len) = [] from hnone]
  exact Does.upd_led _ _ (by decide) (State.setStr_does _ _ _ (by decide) (State.take_does s poolRead (pieceBytes []) (by decide) (Does.rfl' _ s)))

/-! ## A stream's start -/

theorem State.progOf_congr {n : Nat} {s t : State} (hprogram : t.rf (R.STREAM_CTL_PROGRAM n) = s.rf (R.STREAM_CTL_PROGRAM n))
    (hhost : (t.str n).host = (s.str n).host) (hprog : (t.str n).prog = (s.str n).prog) (hchart : t.chart = s.chart) :
    t.progOf n = s.progOf n := by
  unfold State.progOf
  rw [hhost, hprog, hchart, hprogram]

theorem State.releaseStash_rf (s : State) (f : Fld) : s.releaseStash.rf f = s.rf f := rfl

theorem State.releaseStash_str (s : State) (n : Nat) : s.releaseStash.str n = s.str n := rfl

/-- A stream without a program reaches ENDED with STATUS OK and the check value of no bytes (R219). -/
theorem State.runEmpty_shows (s : State) (n : Nat) : (∀ f, (s.runEmpty n).rf f =
      (((s.set (R.STREAM_RUN_STATUS n) stOK).set (R.STREAM_LOOP_CHECK n) 0).setSst n ssENDED wtNONE).rf f) ∧
    (s.runEmpty n).str n = { s.str n with blocks := [], sk := none, confirm := [], pend := [] } := by
  unfold State.runEmpty
  exact ⟨fun f => (State.releaseStash_rf _ f).trans (State.endStr_rf _ n f), (State.releaseStash_str _ n).trans (State.endStr_str _ n)⟩

/-- A stream that starts runs at PC 0; one without a program has ended (R203, R219). -/
theorem State.startStr_shows (s : State) (n : Nat) : (s.startStr n).rf (R.STREAM_RUN_PC n) = 0 ∧ (s.startStr n).rf (R.STREAM_RUN_WAIT n) = wtNONE ∧
    (s.startStr n).sst n = (if (s.progOf n).isEmpty then ssENDED else ssRUN) ∧ ((s.startStr n).str n).ran = true ∧
    ((s.startStr n).str n).host = (s.str n).host ∧ ((s.startStr n).str n).prog = (s.str n).prog ∧ ((s.startStr n).str n).list = (s.str n).list := by
  generalize hu : (s.set (R.STREAM_RUN_PC n) 0).setSst n ssRUN wtNONE = u
  generalize hv : u.setStr n { u.str n with ran := true } = v
  have hstart : s.startStr n = if (v.progOf n).isEmpty then v.runEmpty n else v := by rw [← hv, ← hu]; rfl
  have hpc : u.rf (R.STREAM_RUN_PC n) = 0 := by rw [← hu, State.setSst_pc, State.rf_set_same]; rfl
  have hstrs : u.str n = s.str n := by rw [← hu]; rfl
  have hregs : v.regs = u.regs := by rw [← hv]; rfl
  have hrf : ∀ f, v.rf f = u.rf f := fun f => by unfold State.rf; rw [hregs]
  have hrecord : v.str n = { s.str n with ran := true } := by rw [← hv, State.setStr_str, if_pos rfl, hstrs]
  have hprogram : u.rf (R.STREAM_CTL_PROGRAM n) = s.rf (R.STREAM_CTL_PROGRAM n) := by
    rw [← hu]
    exact (State.setSst_of_ne _ _ _ _ _ (streamReg_key_ne _ _ n (by decide)) (streamReg_key_ne _ _ n (by decide))).trans
      (State.rf_set_of_ne _ _ _ _ (streamReg_key_ne _ _ n (by decide)))
  have hprog : v.progOf n = s.progOf n := State.progOf_congr ((hrf _).trans hprogram) (by rw [hrecord]) (by rw [hrecord]) (by rw [← hv, ← hu]; rfl)
  rw [hstart, hprog]
  by_cases hempty : (s.progOf n).isEmpty = true
  · obtain ⟨hkeep, hends⟩ := v.runEmpty_shows n
    rw [if_pos hempty, if_pos hempty, hends, hrecord, hkeep, hkeep, State.setSst_pc, State.setSst_wait]
    refine ⟨?_, rfl, (hkeep _).trans (State.setSst_sst _ _ _ _), rfl, rfl, rfl, rfl⟩
    exact (State.rf_set_of_ne _ _ _ _ (streamReg_key_ne _ _ n (by decide))).trans
      ((State.rf_set_of_ne _ _ _ _ (streamReg_key_ne _ _ n (by decide))).trans ((hrf _).trans hpc))
  · rw [if_neg hempty, if_neg hempty, hrf, hrf, hpc, hrecord]
    refine ⟨rfl, ?_, (hrf _).trans ?_, rfl, rfl, rfl, rfl⟩ <;> rw [← hu]
    · exact State.setSst_wait _ _ _ _
    · exact State.setSst_sst _ _ _ _

end Sys2Proof.Machine
end

section
/-! SUPPORT. O25: STREAM_START and INLINE (R203, R205, R208, R219, R248). -/

namespace Sys2Proof.Machine

section
variable (n : Fin 16384) (s : State)

/-- A plan stream starts at its count (R203, R205). -/
theorem streamStart_starts (hplan : (s.str n.val).host = false) (harmed : s.sst n.val = ssARMED) (hmay : s.mayRun n.val = true)
    (hset : s.runSet.contains n.val = true) :
    Runs (.streamStart n) s [.pwrRegs, .stepRegs, .streamRegs, .cluRegs, .row, .idleRuns, .stash, .ledgers, .power, .streams] (fun t =>
      t.row = max s.row (s.planC + s.rf (R.STREAM_TIME_START n.val) + s.step.slip) ∧ t.rf (R.STREAM_RUN_PC n.val) = 0 ∧
      t.rf (R.STREAM_RUN_WAIT n.val) = wtNONE ∧ t.sst n.val = (if (s.progOf n.val).isEmpty then ssENDED else ssRUN) ∧ (t.str n.val).ran = true) := by
  generalize hu : (s.advance (s.planC + s.rf (R.STREAM_TIME_START n.val) + s.step.slip)).useUnits (s.unitsOf n.val) = u
  have hexec : exec (.streamStart n) s = .next (u.startStr n.val) := by
    rw [← hu]
    exact congrArg Host.Outcome.next (if_neg (by rw [hplan, harmed, hmay, hset]; decide))
  have hdoes : Does 137506587156 s u := hu ▸ State.useUnits_does _ _ (by decide) (State.advance_does s _ (by decide) (Does.rfl' _ s))
  have hrow : u.row = max s.row (s.planC + s.rf (R.STREAM_TIME_START n.val) + s.step.slip) := by
    rw [← hu, (State.useUnits_row_clu _ _).1, State.advance_row]
  have hprog : u.progOf n.val = s.progOf n.val := (hdoes.atPlace n.val (by decide) (by decide) (by decide)).progOf_eq
  have hstart : Does 588410519584 u (u.startStr n.val) := State.startStr_does u n.val (by decide) (Does.rfl' _ u)
  obtain ⟨hpc, hwait, hstate, hran, -⟩ := u.startStr_shows n.val
  exact Runs.of hexec (execStreamStart_does n s _ hexec) (by decide)
    ⟨(hstart.frame .row (by decide)).trans hrow, hpc, hwait, by rw [hstate, hprog], hran⟩

/-! ## INLINE -/

/-- A stream passes an instruction with its data units. -/
theorem AtPlace.passesBy {n : Nat} {s t : State} (h : AtPlace n s t) {k : Nat} (hu : unitsOfInstr (s.unit n) = k) :
    Passed n (s.rf (R.STREAM_RUN_PC n) + k) s (t.passInstr n) := by
  have hstate : (t.set (R.STREAM_RUN_PC n) (t.rf (R.STREAM_RUN_PC n) + unitsOfInstr (t.unit n))).sst n = s.sst n :=
    (State.rf_set_of_ne _ _ _ _ (streamReg_key_ne _ _ n (by decide))).trans h.state
  unfold State.passInstr
  refine ⟨?_, ?_, State.setSst_wait _ _ _ _⟩
  · rw [State.setSst_pc, State.rf_set_same, h.unit_eq, hu, h.pc]
    rfl
  · rw [State.setSst_sst, hstate]
    split <;> rfl

theorem State.unitsOfInstr_inline {s : State} {n : Nat} (hat : s.atOp n opINLINE = true) :
    unitsOfInstr (s.unit n) = 1 + ceilDiv (fieldLe (s.unit n) 2 1) 16 := if_pos (State.atOp_op hat)

/-- Where an INLINE writes its bytes (R208). -/
def State.inlineDst (s : State) (n : Nat) : Nat :=
  if uFlag (s.unit n) 1 then addOffset (fieldLe (s.unit n) 8 8) (s.rf (R.STREAM_AD1_AD1 n)) else fieldLe (s.unit n) 8 8

/-- An INLINE's own bytes as a block: in hand from the start, to be carried by a tick. -/
def State.inlineBlock (s : State) (n due : Nat) : Block :=
  ⟨(s.str n).nextSeq, s.rf (R.STREAM_RUN_PC n), opINLINE, 0, s.inlineDst n, fieldLe (s.unit n) 2 1, 0, false,
    clean (sliceB (s.progOf n) (16 * (s.rf (R.STREAM_RUN_PC n) + 1)) (fieldLe (s.unit n) 2 1)), 0, true, [], due, []⟩

/-- The state in which an INLINE's block is put in flight: its slots and its place in the order taken. -/
def State.takeBlock (s : State) (n : Nat) (used : List (Nat × Nat)) : State := ((s.useSlots n used).takeSeq n).2

theorem State.takeBlock_shows (s : State) (n : Nat) (used : List (Nat × Nat)) : Does 2748779069440 s (s.takeBlock n used) ∧ AtPlace n s (s.takeBlock n used) ∧
    (s.takeBlock n used).str n =
      { s.str n with used := (if (s.str n).host then (s.str n).used else used), nextSeq := (s.str n).nextSeq + 1 } ∧
    (if (s.str n).host then (s.takeBlock n used).host.used = used else (s.takeBlock n used).host = s.host) := by
  obtain ⟨-, hrecord, hplace⟩ := (s.useSlots n used).takeSeq_shows n
  refine ⟨State.takeSeq_does _ n (by decide) (s.useSlots_does' n used), (s.useSlots_atPlace n used).trans hplace, ?_, ?_⟩
  · unfold State.takeBlock
    rw [hrecord, s.useSlots_record]
  · show if _ then (s.useSlots n used).host.used = used else (s.useSlots n used).host = s.host
    unfold State.useSlots
    split <;> rfl

/-- INLINE puts its own bytes in flight where the stream has room and slots, and passes beyond them (R196, R208). -/
theorem inline_moves (hat : s.atOp n.val opINLINE = true) :
    Runs (.inline n) s [.streamRegs, .sent, .ledgers, .streams, .host] (fun t =>
      ((s.str n.val).host = false → t.host = s.host) ∧
      let u := s.unit n.val
      let len := fieldLe u 2 1
      let dst := if uFlag u 1 then addOffset (fieldLe u 8 8) (s.rf (R.STREAM_AD1_AD1 n.val)) else fieldLe u 8 8
      let pc := s.rf (R.STREAM_RUN_PC n.val)
      (len = 0 → Passed n.val (pc + 1) s t ∧ (t.str n.val).blocks = (s.str n.val).blocks) ∧
      (∀ c, len ≠ 0 → s.roomFor n.val [(dst, len)] = true → s.claimFor n.val (ownedBy n.val (s.putLoad dst len)) = some c →
        Passed n.val (pc + 1 + ceilDiv len 16) s t ∧ t.led.blkIn = s.led.blkIn + 1 ∧
        (if (s.str n.val).host then t.host.used else (t.str n.val).used) = c.1 ∧
        (t.str n.val).blocks = (s.str n.val).blocks ++ [⟨(s.str n.val).nextSeq, pc, opINLINE, 0, dst, len, 0, false,
          clean (sliceB (s.progOf n.val) (16 * (pc + 1)) len), 0, true, [], c.2, []⟩]) ∧
      (len ≠ 0 → s.roomFor n.val [(dst, len)] = true → s.claimFor n.val (ownedBy n.val (s.putLoad dst len)) = none →
        Waits n.val wtSLOT s t ∧ t.strs = s.strs) ∧
      (len ≠ 0 → s.roomFor n.val [(dst, len)] = false → Waits n.val wtBLOCKS s t ∧ t.strs = s.strs)) := by
  extract_lets u len dst pc
  have hon : ¬(!s.atOp n.val opINLINE) = true := by rw [hat]; decide
  by_cases hlen : len = 0
  · obtain ⟨-, hrecord, hplace⟩ := s.takeSeq_shows n.val
    have hchecks := (s.takeSeq n.val).2.doneSeq_checksOn n.val (s.takeSeq n.val).1 []
    generalize hv : (s.takeSeq n.val).2.doneSeq n.val (s.takeSeq n.val).1 [] = v at hchecks
    have hexec : exec (.inline n) s = .next (v.passInstr n.val) := by
      rw [← hv]
      exact congrArg Host.Outcome.next ((if_neg hon).trans (if_pos hlen))
    have hdoes : Does 549755813920 s v := hv ▸ State.doneSeq_does _ _ _ _ (by decide) (State.takeSeq_does s _ (by decide) (Does.rfl' _ s))
    have hall : Does 549755813920 s (v.passInstr n.val) := (v.passInstr_does' n.val).after (by decide) hdoes
    refine Runs.of hexec hall (by decide) ⟨fun _ => hall.frame .host (by decide), fun _ => ⟨?_, ?_⟩, fun _ h => absurd hlen h, fun h => absurd hlen h,
      fun h => absurd hlen h⟩
    · exact (hplace.trans hchecks.atPlace).passesBy ((State.unitsOfInstr_inline hat).trans (by rw [show fieldLe (s.unit n.val) 2 1 = 0 from hlen]; rfl))
    · obtain ⟨c, h, hr⟩ := hchecks.record
      rw [State.passInstr_str, hr, hrecord]
  cases hroom : s.roomFor n.val [(dst, len)]
  · have hexec : exec (.inline n) s = .next (s.waitOn n.val wtBLOCKS) :=
      congrArg Host.Outcome.next ((if_neg hon).trans ((if_neg hlen).trans (if_pos (by rw [hroom]; rfl))))
    exact Runs.of hexec (s.waitOn_does' n.val wtBLOCKS) (by decide) ⟨fun _ => rfl, fun h => absurd h hlen, fun _ _ h => absurd h (by decide),
      fun _ h => absurd h (by decide), fun _ _ => ⟨(AtPlace.refl _ s).waits (by decide), rfl⟩⟩
  have hfits : ¬(!s.roomFor n.val [(dst, len)]) = true := by rw [hroom]; decide
  cases hclaim : s.claimFor n.val (ownedBy n.val (s.putLoad dst len)) with
  | none =>
    have hexec : exec (.inline n) s = .next (s.waitOn n.val wtSLOT) := by
      refine congrArg Host.Outcome.next ((if_neg hon).trans ((if_neg hlen).trans ((if_neg hfits).trans ?_)))
      rw [hclaim]
    exact Runs.of hexec (s.waitOn_does' n.val wtSLOT) (by decide) ⟨fun _ => rfl, fun h => absurd h hlen, fun _ _ _ h => absurd h (by simp),
      fun _ _ _ => ⟨(AtPlace.refl _ s).waits (by decide), rfl⟩, fun _ h => absurd h (by decide)⟩
  | some c =>
    obtain ⟨htake, hplace, hrecord, hhost⟩ := s.takeBlock_shows n.val c.1
    have hblock : (⟨((s.useSlots n.val c.1).takeSeq n.val).1, (s.takeBlock n.val c.1).rf (R.STREAM_RUN_PC n.val), opINLINE, 0, dst, len, 0, false,
        clean (sliceB ((s.takeBlock n.val c.1).progOf n.val) (16 * ((s.takeBlock n.val c.1).rf (R.STREAM_RUN_PC n.val) + 1)) len), 0, true, [], c.2, []⟩
          : Block) = s.inlineBlock n.val c.2 := by
      rw [hplace.pc, hplace.progOf_eq, show ((s.useSlots n.val c.1).takeSeq n.val).1 = ((s.useSlots n.val c.1).str n.val).nextSeq from rfl,
        s.useSlots_record]
      rfl
    obtain ⟨-, hlaunched, hblocks, hin⟩ := (s.takeBlock n.val c.1).launchBlock_shows n.val (s.inlineBlock n.val c.2)
    obtain ⟨hlaunch, hnone⟩ := (s.takeBlock n.val c.1).launchBlock_inHand n.val (b := s.inlineBlock n.val c.2) rfl
    rw [hnone, hrecord] at hblocks
    generalize hv : (s.takeBlock n.val c.1).launchBlock n.val (s.inlineBlock n.val c.2) = v at hlaunched hblocks hin hlaunch
    have hexec : exec (.inline n) s = .next (v.passInstr n.val) := by
      refine congrArg Host.Outcome.next ((if_neg hon).trans ((if_neg hlen).trans ((if_neg hfits).trans ?_)))
      rw [hclaim, ← hv, ← hblock]
      rfl
    have hvhost : v.host = (s.takeBlock n.val c.1).host := hlaunch.frame .host (by decide)
    have hall : Does 2783138807840 s (v.passInstr n.val) := ((v.passInstr_does' n.val).mono (by decide)).after (m := 2783138807840) (a := 2783138807840) (by decide)
      ((hlaunch.mono (by decide)).after (a := 2783138807840) (by decide) (htake.mono (by decide)))
    refine Runs.of hexec hall (by decide) ⟨fun hplan => ?_, fun h => absurd h hlen, fun c' _ _ hc => ?_, fun _ _ h => absurd h (by simp),
      fun _ h => absurd h (by decide)⟩
    · rw [State.passInstr_host, hvhost]
      rwa [hplan, if_neg Bool.false_ne_true] at hhost
    · obtain rfl : c = c' := Option.some.inj hc
      refine ⟨?_, ?_, ?_, ?_⟩
      · rw [Nat.add_assoc]
        exact (hplace.trans hlaunched).passesBy (State.unitsOfInstr_inline hat)
      · rw [State.passInstr_led, hin, show (s.takeBlock n.val c.1).led = s.led from htake.frame .ledgers (by decide)]
      · rw [State.passInstr_host, State.passInstr_str, hvhost, hblocks]
        cases hmine : (s.str n.val).host
        · rfl
        · rwa [hmine, if_pos rfl] at hhost
      · rw [State.passInstr_str, hblocks]
        rfl

end

/-- Settles O25: a plan stream's start, and INLINE with and without bytes, room and slots. -/
theorem streamStartsAndInlines : Obligations.StreamStartsAndInlines := ⟨streamStart_starts, inline_moves⟩

end Sys2Proof.Machine
end

section
/-! SUPPORT. O26: what stands as a MOVE begins: its entries, its map and its slots (R205, R236, R248). -/

namespace Sys2Proof.Machine

/-! ## The plan's last action -/

/-- Whether the plan's last action has completed stands with the states of the streams. -/
theorem State.planOver_congr {m : Nat} {s t : State} (h : Does m s t) (h4 : m.testBit 4 = false) (h30 : m.testBit 30 = false)
    (h31 : m.testBit 31 = false) (h43 : m.testBit 43 = false) (h44 : m.testBit 44 = false) (hstate : ∀ k, t.sst k = s.sst k)
    (hstatus : ∀ k, t.rf (R.STREAM_RUN_STATUS k) = s.rf (R.STREAM_RUN_STATUS k)) : t.planOver = s.planOver := by
  have hrf : ∀ f : Fld, f.blk = 4 → t.rf f = s.rf f := fun f hf => h.rf f (by rw [hf, h4])
  have hvariant : t.variant = s.variant := hrf R.STEP_STATUS_VARIANT (by decide)
  have hchart : t.chart = s.chart := h.frame .chart h30
  have hstep : t.step = s.step := h.frame .step h31
  have hopen : ∀ k, t.strUnfinished k = s.strUnfinished k := fun k => by unfold State.strUnfinished; rw [hstate]
  have hset : t.runSet = s.runSet := by unfold State.runSet; rw [hchart, hstep, hvariant]
  have haccs : t.accsDone = s.accsDone := by
    unfold State.accsDone State.updProg State.regCount
    rw [hchart, hvariant, show t.upd = s.upd from h.frame .update h43]
  have hhand : t.handoffDone = s.handoffDone := by
    unfold State.handoffDone
    rw [hrf R.STEP_HANDOFF_EXPECTED (by decide), hrf R.STEP_HANDOFF_SEALED (by decide)]
  unfold State.planOver State.planDone
  simp only [hset, hopen, hstatus, haccs, hhand, hstep, show t.clu = s.clu from h.frame .clusters h44]

/-! ## A register and a record written -/

/-- One register of a stream's loop and offset registers is written, and of its record what no slot, place or entry depends on. -/
structure Begins (n : Nat) (s t : State) : Prop where
  does  : Does 549755813920 s t
  rf    : ∀ f : Fld, f.key ≠ (R.STREAM_AD0_CURSOR n).key → t.rf f = s.rf f
  host  : (t.str n).host = (s.str n).host
  prog  : (t.str n).prog = (s.str n).prog
  list  : (t.str n).list = (s.str n).list
  used  : (t.str n).used = (s.str n).used
  seq   : (t.str n).nextSeq = (s.str n).nextSeq
  blocks : (t.str n).blocks = (s.str n).blocks
  sk    : (t.str n).sk = (s.str n).sk

section
variable {n : Nat} {s t : State} (h : Begins n s t)
include h

theorem Begins.map : SameMap s t := h.does.sameMap (by decide) (by decide) (by decide) (by decide)

theorem Begins.atPlace : AtPlace n s t :=
  ⟨h.rf _ (streamReg_key_ne _ _ n (by decide)), h.rf _ (streamReg_key_ne _ _ n (by decide)), h.rf _ (streamReg_key_ne _ _ n (by decide)),
    h.host, h.prog, h.does.frame .chart (by decide)⟩

theorem Begins.sst_eq (k : Nat) : t.sst k = s.sst k :=
  h.rf _ (by simp only [Fld.key, R.STREAM_RUN_STATE, R.STREAM_AD0_CURSOR]; omega)

/-- The slots that a stream's loads take are those they took. -/
theorem Begins.claimFor_eq (l : List Load) : t.claimFor n l = s.claimFor n l := by
  have hslots : t.slots = s.slots := h.does.slots_eq (by decide) (by decide) (by decide) (by decide)
  have htick : t.planTick = s.planTick := h.does.planTick_eq (by decide) (by decide) (by decide) (by decide)
  have htime : t.slotTime = s.slotTime := h.does.slotTime_eq (by decide) (by decide) (by decide)
  have hhost : t.host = s.host := h.does.frame .host (by decide)
  have hover : t.planOver = s.planOver := State.planOver_congr h.does (by decide) (by decide) (by decide) (by decide) (by decide) h.sst_eq
    fun k => h.rf _ (by simp only [Fld.key, R.STREAM_RUN_STATUS, R.STREAM_AD0_CURSOR]; omega)
  unfold State.claimFor State.slotBound State.claimHost State.hostLoads State.hostTaken
  rw [h.host, h.used, h.sst_eq, hslots, htick, htime, hhost, hover]

theorem Begins.blockLoad_eq (src dst len : Nat) : t.blockLoad n src dst len = s.blockLoad n src dst len := by
  have hda : t.daOf = s.daOf := funext fun oa => by unfold State.daOf; rw [h.map.entOf]
  unfold State.blockLoad State.putLoad State.oaLoad
  rw [hda, h.map.lclusters]

theorem Begins.listOf_eq : t.listOf n = s.listOf n := by
  unfold State.listOf
  rw [h.host, h.list, h.atPlace.chart, h.rf (R.STREAM_CTL_BLOCK_LIST n) (streamReg_key_ne _ _ n (by decide))]

theorem Begins.moveEntry_eq (k : Nat) : t.moveEntry n k = s.moveEntry n k := by
  unfold State.moveEntry
  rw [h.atPlace.unit_eq, h.listOf_eq, h.rf (R.STREAM_AD0_AD0 n) (streamReg_key_ne _ _ n (by decide)),
    h.rf (R.STREAM_AD1_AD1 n) (streamReg_key_ne _ _ n (by decide))]

end

/-- The far pieces of a range stand with the map. -/
theorem SameMap.missing_eq {s t : State} (h : SameMap s t) (w : Who) (asked : List (Nat × Nat)) (oa len : Nat) :
    t.missing w asked oa len = s.missing w asked oa len := by
  have hspan : ∀ sp, t.farSpan w sp = s.farSpan w sp := fun sp => by
    unfold State.farSpan
    simp only [h.pageFor, h.tierOf]
  unfold State.missing
  simp only [hspan]

/-! ## A MOVE or MOVEX begins -/

theorem State.beginMove_begins (s : State) (n : Nat) (hstate : s.sst n ≠ ssWAIT) : Begins n s (s.beginMove n) ∧
    (s.beginMove n).rf (R.STREAM_AD0_CURSOR n) = 0 := by
  obtain ⟨r, q, hbegin⟩ : ∃ r q, s.beginMove n = (s.set (R.STREAM_AD0_CURSOR n) 0).setStr n { s.str n with residue := r, moveSeq := q } :=
    ⟨_, _, if_neg hstate⟩
  have hblk : (R.STREAM_AD0_CURSOR n).blk = 5 := Fld.blk_elem _ _ _ _ _ _ 5 (by decide) (by decide) (by decide) (by decide)
  have hstr : (s.beginMove n).str n = { s.str n with residue := r, moveSeq := q } := by rw [hbegin, State.setStr_str, if_pos rfl]
  refine ⟨⟨?_, fun f hf => ?_, by rw [hstr], by rw [hstr], by rw [hstr], by rw [hstr], by rw [hstr], by rw [hstr], by rw [hstr]⟩, ?_⟩
  · rw [hbegin]
    exact State.setStr_does _ _ _ (by decide) (Does.set s _ _ (ok_far 5 hblk (by decide) (by decide)) (Does.rfl' _ s))
  · rw [hbegin]
    exact State.rf_set_of_ne s _ _ _ hf
  · rw [hbegin]
    exact State.rf_set_same s _ _

end Sys2Proof.Machine
end

section
/-! SUPPORT. O26: the blocks of a MOVE start in the order of its entries (R196, R205, R223). -/

namespace Sys2Proof.Machine

/-! ## One round of a MOVE -/

/-- A MOVE's entry as a block: its source and destination, to be carried by a tick. -/
def State.entryBlock (s : State) (n : Nat) (e : Entry) (due : Nat) : Block :=
  ⟨(s.str n).nextSeq, s.rf (R.STREAM_RUN_PC n), opMOVE, e.src % 2 ^ 52, e.dst, e.len, e.mb, e.kind == 1, [], 0, false, [], due, []⟩

/-- Whether a MOVE must wait before it asks for an entry's far pieces: Bus Master Enable is clear (R380). -/
def State.mustHold (s : State) (n : Nat) (e : Entry) : Prop :=
  s.rf R.HQ_LINK_BME = 0 ∧ s.missing (s.strWho n (s.str n).nextSeq) [] (e.src % 2 ^ 52) e.len ≠ []

section
variable (s : State) (n k : Nat)

theorem State.moveGo_done (h : fieldLe (s.unit n) 2 2 ≤ s.rf (R.STREAM_AD0_CURSOR n)) : s.moveGo n (k + 1) = s.passInstr n := if_pos h

variable (h : ¬fieldLe (s.unit n) 2 2 ≤ s.rf (R.STREAM_AD0_CURSOR n)) (hlen : (s.moveEntry n (s.rf (R.STREAM_AD0_CURSOR n))).len ≠ 0)
include h hlen

theorem State.moveGo_full (hroom : s.roomFor n [((s.moveEntry n (s.rf (R.STREAM_AD0_CURSOR n))).dst, (s.moveEntry n (s.rf (R.STREAM_AD0_CURSOR n))).len)] = false) :
    s.moveGo n (k + 1) = s.waitOn n (if s.lacksCredit n then wtSLOT else wtBLOCKS) :=
  (if_neg h).trans ((if_neg hlen).trans (if_pos (by rw [hroom]; rfl)))

variable (hroom : s.roomFor n [((s.moveEntry n (s.rf (R.STREAM_AD0_CURSOR n))).dst, (s.moveEntry n (s.rf (R.STREAM_AD0_CURSOR n))).len)] = true)
  (hhold : ¬s.mustHold n (s.moveEntry n (s.rf (R.STREAM_AD0_CURSOR n))))
include hroom hhold

theorem State.moveGo_slotless (hclaim : s.claimFor n (s.blockLoad n (s.moveEntry n (s.rf (R.STREAM_AD0_CURSOR n))).src
      (s.moveEntry n (s.rf (R.STREAM_AD0_CURSOR n))).dst (s.moveEntry n (s.rf (R.STREAM_AD0_CURSOR n))).len) = none) :
    s.moveGo n (k + 1) = s.waitOn n wtSLOT := by
  refine (if_neg h).trans ((if_neg hlen).trans ((if_neg (by rw [hroom]; decide)).trans ((if_neg hhold).trans ?_)))
  rw [hclaim]

theorem State.moveGo_launch {c : List (Nat × Nat) × Nat} (hclaim : s.claimFor n (s.blockLoad n (s.moveEntry n (s.rf (R.STREAM_AD0_CURSOR n))).src
      (s.moveEntry n (s.rf (R.STREAM_AD0_CURSOR n))).dst (s.moveEntry n (s.rf (R.STREAM_AD0_CURSOR n))).len) = some c) :
    s.moveGo n (k + 1) = (((s.takeBlock n c.1).launchBlock n (s.entryBlock n (s.moveEntry n (s.rf (R.STREAM_AD0_CURSOR n))) c.2)).set
      (R.STREAM_AD0_CURSOR n) (s.rf (R.STREAM_AD0_CURSOR n) + 1)).moveGo n k := by
  refine (if_neg h).trans ((if_neg hlen).trans ((if_neg (by rw [hroom]; decide)).trans ((if_neg hhold).trans ?_)))
  have hblock : (⟨((s.useSlots n c.1).takeSeq n).1, (s.takeBlock n c.1).rf (R.STREAM_RUN_PC n), opMOVE,
      (s.moveEntry n (s.rf (R.STREAM_AD0_CURSOR n))).src % 2 ^ 52, (s.moveEntry n (s.rf (R.STREAM_AD0_CURSOR n))).dst,
      (s.moveEntry n (s.rf (R.STREAM_AD0_CURSOR n))).len, (s.moveEntry n (s.rf (R.STREAM_AD0_CURSOR n))).mb,
      (s.moveEntry n (s.rf (R.STREAM_AD0_CURSOR n))).kind == 1, [], 0, false, [], c.2, []⟩ : Block) =
      s.entryBlock n (s.moveEntry n (s.rf (R.STREAM_AD0_CURSOR n))) c.2 := by
    rw [(s.takeBlock_shows n c.1).2.1.pc, show ((s.useSlots n c.1).takeSeq n).1 = ((s.useSlots n c.1).str n).nextSeq from rfl, s.useSlots_record]
    rfl
  rw [hclaim, ← hblock]
  rfl

end

/-- What a MOVE has put in flight stays there as it goes on, in its order, and the ledger only counts up. -/
theorem State.moveGo_extends (n k : Nat) (s : State) :
    (∃ l, ((s.moveGo n k).str n).blocks = (s.str n).blocks ++ l) ∧ s.led.blkIn ≤ (s.moveGo n k).led.blkIn := by
  induction k generalizing s with
  | zero => exact ⟨⟨[], (List.append_nil _).symm⟩, Nat.le_refl _⟩
  | succ k ih =>
    have hstay : ∀ v : State, v.str n = s.str n → v.led = s.led → (∃ l, (v.str n).blocks = (s.str n).blocks ++ l) ∧ s.led.blkIn ≤ v.led.blkIn :=
      fun v hstr hled => ⟨⟨[], by rw [hstr, List.append_nil]⟩, by rw [hled]⟩
    unfold State.moveGo
    dsimp only
    split
    · exact hstay _ (s.passInstr_str n n) (s.passInstr_led n)
    split
    · obtain ⟨-, hrecord, -⟩ := s.takeSeq_shows n
      have hchecks := (s.takeSeq n).2.doneSeq_checksOn n (s.takeSeq n).1 []
      have hdoes : Does 549755813920 s ((s.takeSeq n).2.doneSeq n (s.takeSeq n).1 []) :=
        State.doneSeq_does _ _ _ _ (by decide) (State.takeSeq_does s _ (by decide) (Does.rfl' _ s))
      obtain ⟨c, h, hr⟩ := hchecks.record
      obtain ⟨⟨l, hl⟩, hin⟩ := ih (((s.takeSeq n).2.doneSeq n (s.takeSeq n).1 []).set (R.STREAM_AD0_CURSOR n) (s.rf (R.STREAM_AD0_CURSOR n) + 1))
      rw [State.set_str, hr, hrecord] at hl
      rw [State.set_led, show State.led _ = s.led from hdoes.frame .ledgers (by decide)] at hin
      exact ⟨⟨l, hl⟩, hin⟩
    split
    · exact hstay _ rfl rfl
    split
    · exact hstay _ rfl rfl
    split
    · exact hstay _ rfl rfl
    · rename_i c _
      have hlaunch : ∀ b : Block, (∃ l, (((((s.takeBlock n c.1).launchBlock n b).set (R.STREAM_AD0_CURSOR n)
          (s.rf (R.STREAM_AD0_CURSOR n) + 1)).moveGo n k).str n).blocks = (s.str n).blocks ++ l) ∧ s.led.blkIn ≤
          ((((s.takeBlock n c.1).launchBlock n b).set (R.STREAM_AD0_CURSOR n) (s.rf (R.STREAM_AD0_CURSOR n) + 1)).moveGo n k).led.blkIn := fun b => by
        obtain ⟨htake, -, hrecord, -⟩ := s.takeBlock_shows n c.1
        obtain ⟨-, -, hblocks, hcount⟩ := (s.takeBlock n c.1).launchBlock_shows n b
        obtain ⟨⟨l, hl⟩, hin⟩ := ih (((s.takeBlock n c.1).launchBlock n b).set (R.STREAM_AD0_CURSOR n) (s.rf (R.STREAM_AD0_CURSOR n) + 1))
        rw [State.set_str, hblocks, hrecord, List.append_assoc] at hl
        rw [State.set_led, hcount, show (s.takeBlock n c.1).led = s.led from htake.frame .ledgers (by decide)] at hin
        exact ⟨⟨_, hl⟩, Nat.le_of_succ_le hin⟩
      exact hlaunch _

/-! ## What stands as a MOVE begins -/

theorem State.waitOn_cursor (s : State) (n w : Nat) : (s.waitOn n w).rf (R.STREAM_AD0_CURSOR n) = s.rf (R.STREAM_AD0_CURSOR n) :=
  State.setSst_of_ne _ _ _ _ _ (streamReg_key_ne _ _ n (by decide)) (streamReg_key_ne _ _ n (by decide))

/-- Whether a port can send stands with CDP and the ports. -/
theorem Does.canSend_eq {m : Nat} {s t : State} (h : Does m s t) (h11 : m.testBit 11 = false) (h36 : m.testBit 36 = false) (p gr : Nat) :
    t.canSend p gr = s.canSend p gr := by
  have hstate : t.rf (R.CDP_STATUS_STATE p) = s.rf (R.CDP_STATUS_STATE p) := h.rf _ (by
    rw [R.CDP_STATUS_STATE, Fld.blk_elem _ _ _ _ _ _ 11 (by decide) (by decide) (by decide) (by decide), h11])
  unfold State.canSend State.portUp State.port
  rw [hstate, show t.ports = s.ports from h.frame .ports h36]

/-- The segment whose output a block carries stands with the chart, the variant and the clusters. -/
theorem Does.frogOf_eq {m : Nat} {s t : State} (h : Does m s t) (h4 : m.testBit 4 = false) (h30 : m.testBit 30 = false)
    (h44 : m.testBit 44 = false) {n : Nat} (hhost : (t.str n).host = (s.str n).host) (mb : Nat) : t.frogOf n mb = s.frogOf n mb := by
  have hvariant : t.variant = s.variant := h.rf R.STEP_STATUS_VARIANT (by rw [show R.STEP_STATUS_VARIANT.blk = 4 by decide, h4])
  unfold State.frogOf State.segTable State.outTaken
  rw [hhost, hvariant, show t.chart = s.chart from h.frame .chart h30, show t.clu = s.clu from h.frame .clusters h44]

section
variable {n : Nat} {s t : State} (h : Begins n s t)
include h

theorem Begins.lacksCredit_eq : t.lacksCredit n = s.lacksCredit n := by
  unfold State.lacksCredit
  simp only [h.blocks, h.does.canSend_eq (by decide : Nat.testBit 549755813920 11 = false) (by decide : Nat.testBit 549755813920 36 = false)]

theorem Begins.mustHold {e : Entry} (hmaster : s.rf R.HQ_LINK_BME ≠ 0 ∨
    s.missing (s.strWho n (s.str n).nextSeq) [] (e.src % 2 ^ 52) e.len = []) : ¬t.mustHold n e := by
  unfold State.mustHold
  rw [h.does.rf R.HQ_LINK_BME (by decide), h.seq, h.map.strWho h.host, h.map.missing_eq]
  tauto

end

/-! ## MOVE -/

section
variable (n : Fin 16384) (s : State) (hat : s.atOp n.val opMOVE = true) (hstate : s.sst n.val ≠ ssWAIT)
include hat

theorem exec_move : exec (.move n) s = .next ((s.beginMove n.val).moveGo n.val (65535 + 1)) := congrArg Host.Outcome.next (if_pos hat)

include hstate

/-- A MOVE of no entries passes (R205). -/
theorem move_empty (hcount : fieldLe (s.unit n.val) 2 2 = 0) :
    Runs (.move n) s [.streamRegs, .streams] (fun t => Passed n.val (s.rf (R.STREAM_RUN_PC n.val) + 1) s t ∧
      t.rf (R.STREAM_AD0_CURSOR n.val) = 0 ∧ (t.str n.val).blocks = (s.str n.val).blocks) := by
  obtain ⟨hbegin, hcursor⟩ := s.beginMove_begins n.val hstate
  have hexec := exec_move n s hat
  generalize s.beginMove n.val = v at *
  rw [v.moveGo_done n.val 65535 (by rw [hbegin.atPlace.unit_eq, hcount]; exact Nat.zero_le _)] at hexec
  have hloop : (R.STREAM_AD0_CURSOR n.val).OfLoop n.val := ofLoop_reg 0x100028 n.val 48 16 (by decide) (by decide)
  refine Runs.of hexec ((v.passInstr_does' n.val).after (by decide) hbegin.does) (by decide)
    ⟨hbegin.atPlace.passes (State.unitsOfInstr_at hat (by decide)), ?_, ?_⟩
  · rw [hloop.passInstr_eq, hcursor]
  · rw [State.passInstr_str, hbegin.blocks]

section
variable (hcount : 0 < fieldLe (s.unit n.val) 2 2) (hlen : (s.moveEntry n.val 0).len ≠ 0)
include hcount hlen

/-- A MOVE without room waits for its blocks, or for the credits of a port (R196, R350). -/
theorem move_full (hroom : (s.beginMove n.val).roomFor n.val [((s.moveEntry n.val 0).dst, (s.moveEntry n.val 0).len)] = false) :
    Runs (.move n) s [.streamRegs, .streams] (fun t => Waits n.val (if s.lacksCredit n.val then wtSLOT else wtBLOCKS) s t ∧
      t.rf (R.STREAM_AD0_CURSOR n.val) = 0 ∧ (t.str n.val).blocks = (s.str n.val).blocks) := by
  obtain ⟨hbegin, hcursor⟩ := s.beginMove_begins n.val hstate
  have hexec := exec_move n s hat
  generalize s.beginMove n.val = v at *
  have hentry : v.moveEntry n.val (v.rf (R.STREAM_AD0_CURSOR n.val)) = s.moveEntry n.val 0 := by rw [hcursor, hbegin.moveEntry_eq]
  have hmore : ¬fieldLe (v.unit n.val) 2 2 ≤ v.rf (R.STREAM_AD0_CURSOR n.val) := by rw [hcursor, hbegin.atPlace.unit_eq]; omega
  rw [v.moveGo_full n.val 65535 hmore (by rw [hentry]; exact hlen) (by rw [hentry]; exact hroom)] at hexec
  rw [hbegin.lacksCredit_eq] at hexec
  refine Runs.of hexec ((v.waitOn_does' n.val _).after (by decide) hbegin.does) (by decide)
    ⟨hbegin.atPlace.waits (by split <;> decide), (v.waitOn_cursor n.val _).trans hcursor, hbegin.blocks⟩

variable (hroom : (s.beginMove n.val).roomFor n.val [((s.moveEntry n.val 0).dst, (s.moveEntry n.val 0).len)] = true)
  (hmaster : s.rf R.HQ_LINK_BME ≠ 0 ∨
    s.missing (s.strWho n.val (s.str n.val).nextSeq) [] ((s.moveEntry n.val 0).src % 2 ^ 52) (s.moveEntry n.val 0).len = [])
include hroom hmaster

/-- The first entry of a MOVE that begins is put in flight, as a block at the next place of the stream's order (R205). -/
theorem move_launches (c : List (Nat × Nat) × Nat)
    (hclaim : s.claimFor n.val (s.blockLoad n.val (s.moveEntry n.val 0).src (s.moveEntry n.val 0).dst (s.moveEntry n.val 0).len) = some c) :
    Runs (.move n) s [.streamRegs, .sent, .ledgers, .tier, .streams, .host] (fun t =>
      let e := s.moveEntry n.val 0
      let q := (s.str n.val).nextSeq
      let asked := if (s.frogOf n.val e.mb).isSome then [] else s.missing (s.strWho n.val q) [] (e.src % 2 ^ 52) e.len
      s.led.blkIn < t.led.blkIn ∧ ∃ l : List Block, (t.str n.val).blocks = (s.str n.val).blocks ++
        (⟨q, s.rf (R.STREAM_RUN_PC n.val), opMOVE, e.src % 2 ^ 52, e.dst, e.len, e.mb, e.kind == 1, [], pieceBytes asked, false, [], c.2, asked⟩ : Block)
          :: l) := by
  extract_lets e q asked
  obtain ⟨hbegin, hcursor⟩ := s.beginMove_begins n.val hstate
  have hexec := exec_move n s hat
  generalize s.beginMove n.val = v at *
  have hentry : v.moveEntry n.val (v.rf (R.STREAM_AD0_CURSOR n.val)) = s.moveEntry n.val 0 := by rw [hcursor, hbegin.moveEntry_eq]
  have hmore : ¬fieldLe (v.unit n.val) 2 2 ≤ v.rf (R.STREAM_AD0_CURSOR n.val) := by rw [hcursor, hbegin.atPlace.unit_eq]; omega
  have hruns := execMove_does n s _ hexec
  obtain ⟨htake, hplace, hrecord, -⟩ := v.takeBlock_shows n.val c.1
  obtain ⟨-, -, hblocks, hin⟩ := (v.takeBlock n.val c.1).launchBlock_shows n.val (v.entryBlock n.val e c.2)
  rw [v.moveGo_launch n.val 65535 hmore (by rw [hentry]; exact hlen) (by rw [hentry]; exact hroom)
    (by rw [hentry]; exact hbegin.mustHold hmaster)
    (by rw [hentry, hbegin.claimFor_eq, hbegin.blockLoad_eq]; exact hclaim), hentry] at hexec hruns
  obtain ⟨⟨l, hl⟩, hmoves⟩ := State.moveGo_extends n.val 65535 (((v.takeBlock n.val c.1).launchBlock n.val (v.entryBlock n.val e c.2)).set
    (R.STREAM_AD0_CURSOR n.val) (v.rf (R.STREAM_AD0_CURSOR n.val) + 1))
  have hmap : SameMap s (v.takeBlock n.val c.1) := hbegin.map.trans (htake.sameMap (by decide) (by decide) (by decide) (by decide))
  have hall : Does 2748779069472 s (v.takeBlock n.val c.1) := (htake.mono (by decide)).after (a := 2748779069472) (by decide)
    (hbegin.does.mono (by decide))
  have hhost : ((v.takeBlock n.val c.1).str n.val).host = (s.str n.val).host := by rw [hrecord]; exact hbegin.host
  have hasked : (v.takeBlock n.val c.1).toAsk n.val (v.entryBlock n.val e c.2) = asked := by
    show (if false || ((v.takeBlock n.val c.1).frogOf n.val e.mb).isSome then [] else (v.takeBlock n.val c.1).missing
      ((v.takeBlock n.val c.1).strWho n.val (v.str n.val).nextSeq) [] (e.src % 2 ^ 52) e.len) = asked
    rw [hall.frogOf_eq (by decide) (by decide) (by decide) hhost, hmap.missing_eq, hmap.strWho hhost, hbegin.seq, Bool.false_or]
  rw [State.set_str, hblocks, hasked, hrecord] at hl
  rw [State.set_led, hin, show (v.takeBlock n.val c.1).led = v.led from htake.frame .ledgers (by decide),
    show v.led = s.led from hbegin.does.frame .ledgers (by decide)] at hmoves
  refine Runs.of hexec hruns (by decide) ⟨Nat.lt_of_succ_le hmoves, l, ?_⟩
  rw [hl, hbegin.blocks, List.append_assoc, List.singleton_append]
  unfold State.entryBlock
  rw [hbegin.seq, hbegin.atPlace.pc]

/-- A MOVE without slots waits for them (R248). -/
theorem move_slotless
    (hclaim : s.claimFor n.val (s.blockLoad n.val (s.moveEntry n.val 0).src (s.moveEntry n.val 0).dst (s.moveEntry n.val 0).len) = none) :
    Runs (.move n) s [.streamRegs, .streams] (fun t => Waits n.val wtSLOT s t ∧ t.rf (R.STREAM_AD0_CURSOR n.val) = 0 ∧
      (t.str n.val).blocks = (s.str n.val).blocks) := by
  obtain ⟨hbegin, hcursor⟩ := s.beginMove_begins n.val hstate
  have hexec := exec_move n s hat
  generalize s.beginMove n.val = v at *
  have hentry : v.moveEntry n.val (v.rf (R.STREAM_AD0_CURSOR n.val)) = s.moveEntry n.val 0 := by rw [hcursor, hbegin.moveEntry_eq]
  have hmore : ¬fieldLe (v.unit n.val) 2 2 ≤ v.rf (R.STREAM_AD0_CURSOR n.val) := by rw [hcursor, hbegin.atPlace.unit_eq]; omega
  rw [v.moveGo_slotless n.val 65535 hmore (by rw [hentry]; exact hlen) (by rw [hentry]; exact hroom)
    (by rw [hentry]; exact hbegin.mustHold hmaster)
    (by rw [hentry, hbegin.claimFor_eq, hbegin.blockLoad_eq]; exact hclaim)] at hexec
  exact Runs.of hexec ((v.waitOn_does' n.val _).after (by decide) hbegin.does) (by decide)
    ⟨hbegin.atPlace.waits (by decide), (v.waitOn_cursor n.val _).trans hcursor, hbegin.blocks⟩

end

end

/-- Settles O26: what a MOVE puts in flight stays in flight as it goes on, so its first entry decides. -/
theorem moveBlocks : Obligations.MoveBlocks :=
  ⟨move_empty, fun n s hat hstate hcount hlen hroom hmaster =>
    ⟨move_launches n s hat hstate hcount hlen hroom hmaster, move_slotless n s hat hstate hcount hlen hroom hmaster⟩, move_full⟩

end Sys2Proof.Machine
end

section
/-! SUPPORT. O27: MOVEX takes its skeins in hand one after another (R186, R201, R207, R369). -/

namespace Sys2Proof.Machine

/-! ## The stash entry of a skein -/

/-- The entry that a context packs or unpacks at an address stands with the chart, the step and its phase. -/
theorem Does.skeinEnts_eq {m : Nat} {s t : State} (h : Does m s t) (h4 : m.testBit 4 = false) (h30 : m.testBit 30 = false)
    (h31 : m.testBit 31 = false) (n : Nat) (writing : Bool) : t.skeinEnts n writing = s.skeinEnts n writing := by
  have hrf : ∀ f : Fld, f.blk = 4 → t.rf f = s.rf f := fun f hf => h.rf f (by rw [hf, h4])
  have hphase : t.phase = s.phase := hrf R.STEP_STATUS_PHASE (by decide)
  have hvariant : t.variant = s.variant := hrf R.STEP_STATUS_VARIANT (by decide)
  unfold State.skeinEnts State.stashTable State.inStep
  rw [hphase, hvariant, show t.chart = s.chart from h.frame .chart h30, show t.step = s.step from h.frame .step h31]

theorem State.skeinEnt_congr {s t : State} {n : Nat} {writing : Bool} (h : t.skeinEnts n writing = s.skeinEnts n writing) (mb addr : Nat) :
    t.skeinEnt n mb addr writing = s.skeinEnt n mb addr writing := by
  unfold State.skeinEnt
  rw [h]

/-- Where a context serves no packed entry, no address names one. -/
theorem State.skeinEnt_of_none {s : State} {n : Nat} {writing : Bool} (h : s.skeinEnts n writing = []) (mb addr : Nat) :
    s.skeinEnt n mb addr writing = none := by
  unfold State.skeinEnt
  rw [h]
  rfl

section
variable {n : Nat} {s t : State} (h : Begins n s t)
include h

theorem Begins.skeinEnts_eq (writing : Bool) : t.skeinEnts n writing = s.skeinEnts n writing :=
  h.does.skeinEnts_eq (by decide) (by decide) (by decide) n writing

theorem Begins.skeinRanges_eq (dir dst len mb : Nat) : t.skeinRanges n dir dst len mb = s.skeinRanges n dir dst len mb := by
  unfold State.skeinRanges
  rw [State.skeinEnt_congr (h.skeinEnts_eq true)]

theorem Begins.slotless_eq : t.slotless n = s.slotless n := by
  unfold State.slotless State.openEng
  rw [h.sk]

end

/-! ## A skein taken in hand -/

/-- The stash entry of a MOVEX's entry: by the home that the packed side of it names. -/
def State.entryEnt (s : State) (n : Nat) (e : Entry) : Option StashEnt :=
  s.skeinEnt n e.mb (if uFlag (s.unit n) 2 then e.src else e.dst) (!uFlag (s.unit n) 2)

/-- A MOVEX's entry as a skein in hand: it has no engine yet. -/
def State.entrySkein (s : State) (n : Nat) (e : Entry) : SkeinCtx :=
  { dir := if uFlag (s.unit n) 2 then 1 else 0, profile := fieldLe (s.unit n) 8 1, width := fieldLe (s.unit n) 9 1, pword := fieldLe (s.unit n) 12 4
    src := e.src % 2 ^ 52, dst := e.dst, len := e.len, mb := e.mb, ref := e.ref, seq := (s.str n).nextSeq, block := 0, coded := 0, headed := false
    lost := false, marked := false, refKind := 0, base := 0, bad := [], landed := 0, image := [], slots := 0, eng := none, have_ := [], owed := 0
    out := [], stash := (s.entryEnt n e).map (fun x => (x.tid, e.mb)), asked := [] }

/-- The state with a skein in hand at the next place of the stream's order. -/
def State.takeSkein (s : State) (n : Nat) (e : Entry) : State :=
  let v := (s.takeSeq n).2.setSk n (s.entrySkein n e)
  { v with led := { v.led with skIn := v.led.skIn + 1 } }

theorem State.takeSkein_shows (s : State) (n : Nat) (e : Entry) : Does 584115552256 s (s.takeSkein n e) ∧ AtPlace n s (s.takeSkein n e) ∧
    ((s.takeSkein n e).str n).sk = some (s.entrySkein n e) ∧ (s.takeSkein n e).led.skIn = s.led.skIn + 1 := by
  obtain ⟨-, hrecord, hplace⟩ := s.takeSeq_shows n
  have hstr : (s.takeSkein n e).str n = { (s.takeSeq n).2.str n with sk := some (s.entrySkein n e) } :=
    (SMap.get_put _ _ _ _ _).trans (if_pos rfl)
  refine ⟨Does.upd_led _ _ (by decide) (State.setStr_does _ _ _ (by decide) (State.takeSeq_does s n (by decide) (Does.rfl' _ s))),
    hplace.trans ⟨rfl, rfl, rfl, ?_, ?_, rfl⟩, ?_, rfl⟩ <;> rw [hstr]

/-- The direction of a MOVEX decides which side of its entry is packed. -/
theorem State.entryEnt_eq (s : State) (n : Nat) (e : Entry) {dir : Nat} (hdir : dir = if uFlag (s.unit n) 2 then 1 else 0) :
    s.skeinEnt n e.mb (if dir = 0 then e.dst else e.src) (dir == 0) = s.entryEnt n e ∧ (dir == 0) = !uFlag (s.unit n) 2 := by
  unfold State.entryEnt
  rw [hdir]
  cases uFlag (s.unit n) 2 <;> exact ⟨rfl, rfl⟩

/-- A skein that is its context's to move is taken in hand (R201, R207). -/
theorem State.openSkein_takes {s : State} {n : Nat} {e : Entry}
    (h : ((s.entryEnt n e).isSome = true ∧ (uFlag (s.unit n) 2 = true ∨ e.len ≠ 0)) ∨ s.skeinEnts n (!uFlag (s.unit n) 2) = []) :
    s.openSkein n e = s.takeSkein n e := by
  obtain ⟨hent, hdir⟩ := s.entryEnt_eq n e rfl
  have hright : ¬(!(s.entryEnt n e).isSome && !(s.skeinEnts n (!uFlag (s.unit n) 2)).isEmpty) = true := by
    rcases h with ⟨hsome, -⟩ | hnone
    · rw [hsome, Bool.not_true, Bool.false_and]; decide
    · rw [hnone, List.isEmpty_nil, Bool.not_true, Bool.and_false]; decide
  have hmoves : ¬((if uFlag (s.unit n) 2 then 1 else 0) = 0 ∧ (s.entryEnt n e).isSome = true ∧ e.len = 0) := by
    rintro ⟨hpack, hsome, hlen⟩
    rcases h with ⟨-, hflag | hne⟩ | hnone
    · rw [hflag, if_pos rfl] at hpack
      exact absurd hpack (by decide)
    · exact hne hlen
    · unfold State.entryEnt at hsome
      rw [State.skeinEnt_of_none hnone] at hsome
      exact absurd hsome (by decide)
  unfold State.openSkein
  dsimp only
  rw [hent, hdir, if_neg hright, if_neg hmoves]
  rfl

/-- A skein that no entry of its context names is refused and moves nothing (R201). -/
theorem State.openSkein_wrong {s : State} {n : Nat} {e : Entry} (hents : s.skeinEnts n (!uFlag (s.unit n) 2) ≠ []) (hent : s.entryEnt n e = none) :
    s.openSkein n e = ((s.takeSeq n).2.note n stBAD_ARG 0x0A).doneSeq n (s.str n).nextSeq [] := by
  obtain ⟨hent', hdir⟩ := s.entryEnt_eq n e rfl
  unfold State.openSkein
  dsimp only
  rw [hent', hdir, hent]
  exact if_pos (by rw [Option.isSome_none, Bool.not_false, Bool.true_and, Bool.not_eq_true', List.isEmpty_eq_false_iff]; exact hents)

/-- A status event of higher rank shows in STATUS (R226). -/
theorem State.note_status (s : State) (n st cause : Nat) (hrank : statusRank (s.rf (R.STREAM_RUN_STATUS n)) < statusRank st) :
    (s.note n st cause).rf (R.STREAM_RUN_STATUS n) = st % 2 ^ 8 := by
  have hset : (s.strStatus n st).rf (R.STREAM_RUN_STATUS n) = st % 2 ^ 8 := by
    unfold State.strStatus
    rw [if_pos hrank, State.rf_set_same]
    rfl
  unfold State.note
  dsimp only
  split
  · exact hset
  · refine ((State.raiseFlag_does (μ := 16777232) _ cause (by decide) (Does.rfl' _ _)).rf _ ?_).trans hset
    rw [R.STREAM_RUN_STATUS, streamRun_blk _ _ _ (by decide)]
    decide

/-! ## One round of a MOVEX -/

section
variable (s : State) (n k : Nat)

theorem State.movexGo_done (h : fieldLe (s.unit n) 2 2 ≤ s.rf (R.STREAM_AD0_CURSOR n)) :
    s.movexGo n (k + 1) = if s.slotless n then s.waitOn n wtSLOT else s.passInstr n := if_pos h

/-- A MOVEX whose skein has no engine yet waits for its first slot (R186, R369). -/
theorem State.movexGo_slotless (h : s.slotless n = true) : s.movexGo n (k + 1) = s.waitOn n wtSLOT := by
  by_cases hdone : fieldLe (s.unit n) 2 2 ≤ s.rf (R.STREAM_AD0_CURSOR n)
  · rw [s.movexGo_done n k hdone, if_pos h]
  · exact (if_neg hdone).trans (if_pos (Bool.and_eq_true _ _ ▸ h).1)

variable (h : ¬fieldLe (s.unit n) 2 2 ≤ s.rf (R.STREAM_AD0_CURSOR n)) (hsk : (s.str n).sk = none)
include h hsk

theorem State.movexGo_full (hroom : s.roomFor n (s.skeinRanges n (if uFlag (s.unit n) 2 then 1 else 0)
      (s.moveEntry n (s.rf (R.STREAM_AD0_CURSOR n))).dst (s.moveEntry n (s.rf (R.STREAM_AD0_CURSOR n))).len
      (s.moveEntry n (s.rf (R.STREAM_AD0_CURSOR n))).mb) = false) : s.movexGo n (k + 1) = s.waitOn n wtBLOCKS :=
  (if_neg h).trans ((if_neg (by rw [hsk]; decide)).trans (if_pos (by rw [hroom]; rfl)))

theorem State.movexGo_opens (hroom : s.roomFor n (s.skeinRanges n (if uFlag (s.unit n) 2 then 1 else 0)
      (s.moveEntry n (s.rf (R.STREAM_AD0_CURSOR n))).dst (s.moveEntry n (s.rf (R.STREAM_AD0_CURSOR n))).len
      (s.moveEntry n (s.rf (R.STREAM_AD0_CURSOR n))).mb) = true) : s.movexGo n (k + 1) =
    ((s.openSkein n (s.moveEntry n (s.rf (R.STREAM_AD0_CURSOR n)))).set (R.STREAM_AD0_CURSOR n) (s.rf (R.STREAM_AD0_CURSOR n) + 1)).movexGo n k :=
  (if_neg h).trans ((if_neg (by rw [hsk]; decide)).trans (if_neg (by rw [hroom]; decide)))

end

theorem streamCursor_ofLoop (n : Nat) : (R.STREAM_AD0_CURSOR n).OfLoop n := ofLoop_reg 0x100028 n 48 16 (by decide) (by decide)

theorem streamCursor_blk (n : Nat) : (R.STREAM_AD0_CURSOR n).blk = 5 :=
  Fld.blk_elem 0x100028 0x40 n 16384 48 16 5 (by decide) (by decide) (by decide) (by decide)

/-! ## MOVEX -/

section
variable (n : Fin 16384) (s : State) (hat : s.atOp n.val opMOVEX = true)
include hat

theorem exec_movex : exec (.movex n) s = .next ((s.beginMove n.val).movexGo n.val (65535 + 1)) := congrArg Host.Outcome.next (if_pos hat)

/-- A MOVEX whose entries are all in hand passes, or waits for the first slot of its last skein (R186, R369). -/
theorem movex_resumed (hstate : s.sst n.val = ssWAIT) (hdone : fieldLe (s.unit n.val) 2 2 ≤ s.rf (R.STREAM_AD0_CURSOR n.val)) :
    Runs (.movex n) s [.streamRegs] (fun t =>
      (s.slotless n.val = false → Passed n.val (s.rf (R.STREAM_RUN_PC n.val) + 1) s t) ∧
      (s.slotless n.val = true → Waits n.val wtSLOT s t)) := by
  have hexec := exec_movex n s hat
  rw [show s.beginMove n.val = s from if_pos hstate, s.movexGo_done n.val 65535 hdone] at hexec
  cases hslotless : s.slotless n.val <;> rw [hslotless] at hexec
  · rw [if_neg Bool.false_ne_true] at hexec
    exact Runs.of hexec (s.passInstr_does' n.val) (by decide)
      ⟨fun _ => (AtPlace.refl _ s).passes (State.unitsOfInstr_at hat (by decide)), fun h => absurd h (by decide)⟩
  · rw [if_pos rfl] at hexec
    exact Runs.of hexec (s.waitOn_does' n.val wtSLOT) (by decide) ⟨fun h => absurd h (by decide), fun _ => (AtPlace.refl _ s).waits (by decide)⟩

variable (hstate : s.sst n.val ≠ ssWAIT)
include hstate

/-- A MOVEX of no entries moves nothing (R207). -/
theorem movex_empty (hcount : fieldLe (s.unit n.val) 2 2 = 0) :
    Runs (.movex n) s [.streamRegs, .streams] (fun t => (t.str n.val).sk = (s.str n.val).sk ∧
      (s.slotless n.val = false → Passed n.val (s.rf (R.STREAM_RUN_PC n.val) + 1) s t) ∧
      (s.slotless n.val = true → Waits n.val wtSLOT s t)) := by
  obtain ⟨hbegin, hcursor⟩ := s.beginMove_begins n.val hstate
  have hexec := exec_movex n s hat
  generalize s.beginMove n.val = v at *
  rw [v.movexGo_done n.val 65535 (by rw [hbegin.atPlace.unit_eq, hcount]; exact Nat.zero_le _), hbegin.slotless_eq] at hexec
  cases hslotless : s.slotless n.val <;> rw [hslotless] at hexec
  · rw [if_neg Bool.false_ne_true] at hexec
    exact Runs.of hexec ((v.passInstr_does' n.val).after (by decide) hbegin.does) (by decide) ⟨by rw [State.passInstr_str, hbegin.sk],
      fun _ => hbegin.atPlace.passes (State.unitsOfInstr_at hat (by decide)), fun h => absurd h (by decide)⟩
  · rw [if_pos rfl] at hexec
    exact Runs.of hexec ((v.waitOn_does' n.val wtSLOT).after (by decide) hbegin.does) (by decide)
      ⟨hbegin.sk, fun h => absurd h (by decide), fun _ => hbegin.atPlace.waits (by decide)⟩

variable (hcount : 0 < fieldLe (s.unit n.val) 2 2) (hsk : (s.str n.val).sk = none)
include hcount hsk

/-- A MOVEX without room waits for its blocks (R196). -/
theorem movex_full (hroom : (s.beginMove n.val).roomFor n.val (s.skeinRanges n.val (if uFlag (s.unit n.val) 2 then 1 else 0)
      (s.moveEntry n.val 0).dst (s.moveEntry n.val 0).len (s.moveEntry n.val 0).mb) = false) :
    Runs (.movex n) s [.streamRegs, .streams] (fun t => Waits n.val wtBLOCKS s t ∧ (t.str n.val).sk = none) := by
  obtain ⟨hbegin, hcursor⟩ := s.beginMove_begins n.val hstate
  have hexec := exec_movex n s hat
  generalize s.beginMove n.val = v at *
  rw [v.movexGo_full n.val 65535 (by rw [hcursor, hbegin.atPlace.unit_eq]; omega) (hbegin.sk.trans hsk)
    (by rw [hcursor, hbegin.moveEntry_eq, hbegin.skeinRanges_eq, hbegin.atPlace.unit_eq]; exact hroom)] at hexec
  exact Runs.of hexec ((v.waitOn_does' n.val wtBLOCKS).after (by decide) hbegin.does) (by decide)
    ⟨hbegin.atPlace.waits (by decide), hbegin.sk.trans hsk⟩

variable (hroom : (s.beginMove n.val).roomFor n.val (s.skeinRanges n.val (if uFlag (s.unit n.val) 2 then 1 else 0)
  (s.moveEntry n.val 0).dst (s.moveEntry n.val 0).len (s.moveEntry n.val 0).mb) = true)
include hroom

/-- A MOVEX with room comes to the first skein in the state in which it begins. -/
theorem exec_movex_opens : exec (.movex n) s = .next ((((s.beginMove n.val).openSkein n.val (s.moveEntry n.val 0)).set
    (R.STREAM_AD0_CURSOR n.val) 1).movexGo n.val (65534 + 1)) := by
  obtain ⟨hbegin, hcursor⟩ := s.beginMove_begins n.val hstate
  have hexec := exec_movex n s hat
  generalize s.beginMove n.val = v at *
  rw [v.movexGo_opens n.val 65535 (by rw [hcursor, hbegin.atPlace.unit_eq]; omega) (hbegin.sk.trans hsk)
    (by rw [hcursor, hbegin.moveEntry_eq, hbegin.skeinRanges_eq, hbegin.atPlace.unit_eq]; exact hroom), hcursor, hbegin.moveEntry_eq] at hexec
  exact hexec

/-- A MOVEX with room takes the skein of its first entry in hand, and waits for the first slot of it (R186, R201, R207). -/
theorem movex_opens (ent : Option StashEnt) (hent : s.skeinEnt n.val (s.moveEntry n.val 0).mb
      (if uFlag (s.unit n.val) 2 then (s.moveEntry n.val 0).src else (s.moveEntry n.val 0).dst) (!uFlag (s.unit n.val) 2) = ent)
    (hmine : (ent.isSome = true ∧ (uFlag (s.unit n.val) 2 = true ∨ (s.moveEntry n.val 0).len ≠ 0)) ∨
      s.skeinEnts n.val (!uFlag (s.unit n.val) 2) = []) :
    Runs (.movex n) s [.streamRegs, .ledgers, .streams] (fun t =>
      let e := s.moveEntry n.val 0
      (∃ k : SkeinCtx, (t.str n.val).sk = some k ∧ k.stash = ent.map (fun x => (x.tid, e.mb)) ∧ k.eng = none ∧ k.src = e.src % 2 ^ 52 ∧ k.dst = e.dst ∧ k.len = e.len ∧ k.mb = e.mb ∧
        k.seq = (s.str n.val).nextSeq ∧ k.dir = (if uFlag (s.unit n.val) 2 then 1 else 0) ∧ k.profile = fieldLe (s.unit n.val) 8 1) ∧
      t.led.skIn = s.led.skIn + 1 ∧ Waits n.val wtSLOT s t) := by
  extract_lets e
  obtain ⟨hbegin, -⟩ := s.beginMove_begins n.val hstate
  have hexec := exec_movex_opens n s hat hstate hcount hsk hroom
  generalize s.beginMove n.val = v at *
  have hunit := hbegin.atPlace.unit_eq
  have hents := hbegin.skeinEnts_eq (!uFlag (s.unit n.val) 2)
  have hent' : v.entryEnt n.val e = ent := by
    unfold State.entryEnt
    rw [hunit, State.skeinEnt_congr hents, ← hent]
  obtain ⟨htake, hplace, hrecord, hin⟩ := v.takeSkein_shows n.val e
  rw [State.openSkein_takes (by rw [hent', hunit, hents]; exact hmine)] at hexec
  have hset : Does 584115552288 s ((v.takeSkein n.val e).set (R.STREAM_AD0_CURSOR n.val) 1) :=
    Does.set _ _ _ (ok_far 5 (streamCursor_blk _) (by decide) (by decide))
      ((htake.mono (by decide)).after (a := 584115552288) (by decide) (hbegin.does.mono (by decide)))
  have hslotless : ((v.takeSkein n.val e).set (R.STREAM_AD0_CURSOR n.val) 1).slotless n.val = true := by
    unfold State.slotless State.openEng
    rw [State.set_str, hrecord]
    rfl
  rw [State.movexGo_slotless _ n.val 65534 hslotless] at hexec
  refine Runs.of hexec ((State.waitOn_does' _ n.val wtSLOT).after (by decide) hset) (by decide) ⟨⟨v.entrySkein n.val e, ?_, ?_, rfl, rfl, rfl, rfl, rfl,
    hbegin.seq, ?_, ?_⟩, ?_, ?_⟩
  · rw [State.waitOn_str, State.set_str, hrecord]
  · rw [← hent']
    rfl
  · exact congrArg (fun u => if uFlag u 2 then 1 else 0) hunit
  · exact congrArg (fun u => fieldLe u 8 1) hunit
  · exact hin.trans (congrArg (· + 1) (congrArg LedgerSt.skIn (show v.led = s.led from hbegin.does.frame .ledgers (by decide))))
  · exact ((hbegin.atPlace.trans hplace).trans (AtPlace.set _ (streamCursor_ofLoop n.val) _)).waits (by decide)

/-- A MOVEX whose only skein is no entry's passes with BAD_ARG (R201). -/
theorem movex_wrong (hone : fieldLe (s.unit n.val) 2 2 = 1) (hents : s.skeinEnts n.val (!uFlag (s.unit n.val) 2) ≠ [])
    (hent : s.skeinEnt n.val (s.moveEntry n.val 0).mb
      (if uFlag (s.unit n.val) 2 then (s.moveEntry n.val 0).src else (s.moveEntry n.val 0).dst) (!uFlag (s.unit n.val) 2) = none) :
    Runs (.movex n) s [.stepRegs, .streamRegs, .flagOut, .streams] (fun t => Passed n.val (s.rf (R.STREAM_RUN_PC n.val) + 1) s t ∧
      (t.str n.val).sk = none ∧
      (statusRank (s.rf (R.STREAM_RUN_STATUS n.val)) < statusRank stBAD_ARG → t.rf (R.STREAM_RUN_STATUS n.val) = stBAD_ARG)) := by
  obtain ⟨hbegin, -⟩ := s.beginMove_begins n.val hstate
  have hexec := exec_movex_opens n s hat hstate hcount hsk hroom
  generalize s.beginMove n.val = v at *
  have hunit := hbegin.atPlace.unit_eq
  have hents' := hbegin.skeinEnts_eq (!uFlag (s.unit n.val) 2)
  have hent' : v.entryEnt n.val (s.moveEntry n.val 0) = none := by
    unfold State.entryEnt
    rw [hunit, State.skeinEnt_congr hents', hent]
  rw [State.openSkein_wrong (by rw [hunit, hents']; exact hents) hent'] at hexec
  obtain ⟨-, hrecord, htake⟩ := v.takeSeq_shows n.val
  have hstand := (v.takeSeq n.val).2.note_sameStand n.val stBAD_ARG 0x0A
  have hnoted := (v.takeSeq n.val).2.note_status n.val stBAD_ARG 0x0A
  have hchecks := ((v.takeSeq n.val).2.note n.val stBAD_ARG 0x0A).doneSeq_checksOn n.val (v.str n.val).nextSeq []
  have hdoes : Does 549772591152 s (((v.takeSeq n.val).2.note n.val stBAD_ARG 0x0A).doneSeq n.val (v.str n.val).nextSeq []) :=
    State.doneSeq_does _ _ _ _ (by decide) (State.note_does _ _ _ _ (by decide) (State.takeSeq_does _ _ (by decide) (hbegin.does.mono (by decide))))
  generalize ((v.takeSeq n.val).2.note n.val stBAD_ARG 0x0A).doneSeq n.val (v.str n.val).nextSeq [] = w at hexec hchecks hdoes
  have hplace : AtPlace n.val s (w.set (R.STREAM_AD0_CURSOR n.val) 1) :=
    ((((hbegin.atPlace.trans htake).trans hstand.atPlace).trans hchecks.atPlace).trans (AtPlace.set _ (streamCursor_ofLoop n.val) _))
  have hnone : (w.str n.val).sk = none := by
    obtain ⟨c, l, hr⟩ := hchecks.record
    rw [hr]
    unfold State.str at hrecord ⊢
    rw [hstand.strs, hrecord]
    exact hbegin.sk.trans hsk
  have hcursor : (w.set (R.STREAM_AD0_CURSOR n.val) 1).rf (R.STREAM_AD0_CURSOR n.val) = 1 := State.rf_set_same _ _ _
  have hidle : (w.set (R.STREAM_AD0_CURSOR n.val) 1).slotless n.val = false := by
    unfold State.slotless
    rw [State.set_str, hnone]
    rfl
  rw [State.movexGo_done _ n.val 65534 (by rw [hplace.unit_eq, hcursor, hone]), hidle, if_neg Bool.false_ne_true] at hexec
  refine Runs.of hexec ((State.passInstr_does' _ n.val).after (by decide)
    (Does.set _ _ _ (ok_far 5 (streamCursor_blk _) (by decide) (by decide)) hdoes)) (by decide)
    ⟨hplace.passes (State.unitsOfInstr_at hat (by decide)), by rw [State.passInstr_str, State.set_str, hnone], fun hrank => ?_⟩
  have hpassed : ∀ u : State, (u.passInstr n.val).rf (R.STREAM_RUN_STATUS n.val) = u.rf (R.STREAM_RUN_STATUS n.val) := fun u =>
    (OnlyWrites.refl u).passInstr _ (by
      simp only [List.nil_append, List.mem_cons, List.not_mem_nil, or_false, forall_eq_or_imp, forall_eq]
      exact ⟨streamReg_key_ne _ _ n.val (by decide), streamReg_key_ne _ _ n.val (by decide), streamReg_key_ne _ _ n.val (by decide)⟩)
  rw [hpassed]
  refine (State.rf_set_of_ne _ _ _ _ (streamReg_key_ne _ _ n.val (by decide))).trans
    ((hchecks.rf _ (streamReg_key_ne _ _ n.val (by decide))).trans (hnoted ?_))
  exact (congrArg statusRank (hbegin.rf _ (streamReg_key_ne _ _ n.val (by decide)))).trans_lt hrank

end

/-- Settles O27: a MOVEX begins with its first skein, and a skein in hand without an engine keeps it waiting. -/
theorem movexSkeins : Obligations.MovexSkeins :=
  ⟨movex_empty, movex_resumed, fun n s hat hstate hcount hsk hroom => ⟨movex_opens n s hat hstate hcount hsk hroom,
    movex_wrong n s hat hstate hcount hsk hroom⟩, movex_full⟩

end Sys2Proof.Machine
end

section
/-! SUPPORT. O48: OPEN, ABORT and the start of a host stream (R224, R369, R370, R443). -/

namespace Sys2Proof.Machine

/-! ## Commands taken and completed -/

/-- A command taken from a queue changes the queue's head and what the host link keeps of its commands (R367). -/
theorem State.afterTake_does (s : State) (q : Nat) (e : List Byte) : Does 2199023255616 s (s.afterTake q e) :=
  Does.upd_host _ _ (by decide) (Does.set s _ _ (ok_far 6 (queueReg_ofQueues 0x200028 q 48 16 (by decide) (by decide)).blk (by decide) (by decide))
    (Does.rfl' _ s))

theorem State.complete_does' (s : State) (t : Taken) (st : Nat) : Does 2233387188288 s (s.complete t st) :=
  State.complete_does s t st (by decide) (Does.rfl' _ s)

/-- What leaves the streams leaves a stream's record. -/
theorem Does.str_eq {m : Nat} {s t : State} (h : Does m s t) (h39 : m.testBit 39 = false) (k : Nat) : t.str k = s.str k := by
  unfold State.str
  rw [show t.strs = s.strs from h.frame .streams h39]

/-- What leaves STREAM's registers leaves a stream's state. -/
theorem Does.sst_eq {m : Nat} {s t : State} (h : Does m s t) (h5 : m.testBit 5 = false) (k : Nat) : t.sst k = s.sst k :=
  h.rf _ (by rw [R.STREAM_RUN_STATE, streamRun_blk _ _ _ (by decide), h5])

/-- A command of a queue with no other under way completes with its status in the queue (R371). -/
theorem State.complete_status {s : State} {q : Nat} {e : List Byte} (hq : s.nextQueue = some q) (htaken : ∀ c ∈ s.host.taken, c.q ≠ q)
    (hwaiting : ∀ c ∈ s.host.waiting, c.q ≠ q) (st : Nat) :
    ((s.afterTake q e).complete (s.takenOf q e) st).rf (R.HQ_Q_STATUS_LAST_STATUS q) = st % 2 ^ 8 := by
  have htook := s.took_afterTake q e
  have hroom : (s.afterTake q e).cqFull q = false := (State.cqFull_congr q htook.regs).1.trans (State.cqFull_of_nextQueue hq)
  have hnone : s.takenOf q e ∉ s.host.taken := fun h => htaken _ h rfl
  have hstop : ∀ c, (((s.afterTake q e).pastDue (s.takenOf q e) st).writeCpl ((s.takenOf q e).due st)).host.taken.find? (fun t => t.q == q) = some c →
      c.op ≠ 4 := by
    rw [State.writeCpl_taken, State.pastDue_host, show (s.afterTake q e).host.taken = s.host.taken ++ [s.takenOf q e] from congrArg (·.1) htook.cmds]
    refine find?_erase_taken (fun c hc => ?_) (.inr hnone)
    exact absurd (show c.q = q by simpa [State.takenOf] using List.find?_some hc) (htaken c (List.mem_of_find?_eq_some hc))
  unfold State.complete
  rw [(s.afterTake q e).cplDue_writes (s.takenOf q e) st hwaiting hroom, show (s.takenOf q e).q = q from rfl, State.settleFences_stop _ _ _ hstop]
  obtain ⟨hstatus, -⟩ := State.writeCpl_writes ((s.afterTake q e).pastDue (s.takenOf q e) st) ((s.takenOf q e).due st)
  exact hstatus

/-! ## ABORT -/

/-- A stream that is stopping ends, or goes on stopping (R223, R224). -/
theorem State.tryClose_sst {s : State} {n : Nat} (h : s.sst n = ssSTOPPING) : (s.tryClose n).sst n = ssSTOPPING ∨ (s.tryClose n).sst n = ssENDED := by
  unfold State.tryClose
  split
  · split
    · refine .inr ?_
      unfold State.closeStr
      dsimp only
      refine ((State.completeOn_does (μ := 2233387188288) _ 2 n (by decide) (Does.rfl' _ _)).sst_eq (by decide) n).trans ?_
      exact (State.endStr_rf _ n _).trans (State.setSst_sst _ _ _ _)
    · exact .inl h
  · exact .inl h

/-- A stream that runs or waits, and is not sealing, is stopped by a halt (R223, R226). -/
theorem State.haltStr_sst {s : State} {n : Nat} (st : Nat) (hstate : s.sst n = ssRUN ∨ s.sst n = ssWAIT) (hseal : s.sealing n = false) :
    (s.haltStr n st).sst n = ssSTOPPING ∨ (s.haltStr n st).sst n = ssENDED := by
  have hopen : s.strUnfinished n = true := by
    unfold State.strUnfinished
    rcases hstate with h | h <;> rw [h] <;> decide
  unfold State.haltStr
  rw [hseal, hopen, if_neg Bool.false_ne_true, if_neg (by decide)]
  exact State.tryClose_sst (State.setSst_sst _ _ _ _)

/-- ABORT stops a host stream that runs; a context on which none is open is refused (R224, R370). -/
theorem cmdAbort_stops (q : Fin 64) (e : List Byte) (s : State) (hl : s.linkUp = true) (hq : s.nextQueue = some q.val)
    (htaken : ∀ c ∈ s.host.taken, c.q ≠ q.val) (hwaiting : ∀ c ∈ s.host.waiting, c.q ≠ q.val) (hop : fieldLe e 0 1 = 2)
    (hform : cmdHeaderOk e = true) (hzero : allZero e 0x10 48 = true) (howner : s.ctxOwner (fieldLe e 4 2) = 1) :
    Runs (.cmdAbort q e) s [.stepRegs, .streamRegs, .hqRegs, .tierRegs, .ftlRegs, .cdpRegs, .faultRegs, .logRegs, .memory, .marks, .sent, .flagOut,
        .logRound, .fault, .ledgers, .ports, .tier, .streams, .host, .flash, .clusters]
      (fun t =>
        let n := fieldLe e 4 2
        ((s.str n).host = true → (s.sst n = ssRUN ∨ s.sst n = ssWAIT) → s.sealing n = false → t.sst n = ssSTOPPING ∨ t.sst n = ssENDED) ∧
        ((s.str n).host = false → t.rf (R.HQ_Q_STATUS_LAST_STATUS q.val) = stBAD_ARG ∧ t.strs = s.strs ∧ t.sst n = s.sst n)) := by
  extract_lets n
  have htake := s.afterTake_does q.val e
  have hcome : exec (.cmdAbort q e) s = .next (
      if (s.afterTake q.val e).ctxOwner n ≠ 1 then (s.afterTake q.val e).complete (s.takenOf q.val e) stNOT_OWNER
      else if !((s.afterTake q.val e).str n).host || !((s.afterTake q.val e).sst n == ssRUN || (s.afterTake q.val e).sst n == ssWAIT ||
          (s.afterTake q.val e).sst n == ssSTOPPING) then (s.afterTake q.val e).complete (s.takenOf q.val e) stBAD_ARG
      else if (s.afterTake q.val e).sealing n then (s.afterTake q.val e).complete (s.takenOf q.val e) stOK
      else (s.afterTake q.val e).haltStr n stABORTED) := by
    refine congrArg Host.Outcome.next ?_
    rw [State.takeCmd_some s q.val (· == 2) e hl hq (by rw [hop]; rfl)]
    exact if_neg (by rw [hform, hzero]; decide)
  have howner' : (s.afterTake q.val e).ctxOwner n = 1 := howner
  have hstr : (s.afterTake q.val e).str n = s.str n := htake.str_eq (by decide) n
  have hsst : (s.afterTake q.val e).sst n = s.sst n := htake.sst_eq (by decide) n
  rw [if_neg (not_not.mpr howner'), hstr, hsst] at hcome
  cases hhost : (s.str n).host
  · rw [hhost, Bool.not_false, Bool.true_or, if_pos rfl] at hcome
    have hdone := (s.afterTake q.val e).complete_does' (s.takenOf q.val e) stBAD_ARG
    exact Runs.of hcome (execCmdAbort_does q e s _ hcome) (by decide) ⟨fun h => absurd h (by decide), fun _ =>
      ⟨State.complete_status hq htaken hwaiting stBAD_ARG, (hdone.frame .streams (by decide)).trans (htake.frame .streams (by decide)),
        (hdone.sst_eq (by decide) n).trans hsst⟩⟩
  · by_cases hrun : (s.sst n = ssRUN ∨ s.sst n = ssWAIT) ∧ s.sealing n = false
    · obtain ⟨hstate, hseal⟩ := hrun
      have hseal' : (s.afterTake q.val e).sealing n = false := by
        unfold State.sealing
        rw [hsst, (htake.atPlace n (by decide) (by decide) (by decide)).unit_eq]
        exact hseal
      rw [hhost, if_neg (by rcases hstate with h | h <;> rw [h] <;> decide), hseal', if_neg Bool.false_ne_true] at hcome
      exact Runs.of hcome (execCmdAbort_does q e s _ hcome) (by decide)
        ⟨fun _ _ _ => State.haltStr_sst stABORTED (by rw [hsst]; exact hstate) hseal', fun h => absurd h (by decide)⟩
    · exact Runs.of hcome (execCmdAbort_does q e s _ hcome) (by decide)
        ⟨fun _ hstate hseal => absurd ⟨hstate, hseal⟩ hrun, fun h => absurd h (by decide)⟩

/-! ## OPEN -/

/-- A context that an OPEN has bound holds its program and list (R369). -/
theorem State.bindHost_shows (s : State) (n : Nat) (e prog list : List Byte) : ((s.bindHost n e prog list).str n).host = true ∧
    ((s.bindHost n e prog list).str n).prog = prog ∧ ((s.bindHost n e prog list).str n).list = list ∧ (s.bindHost n e prog list).progOf n = prog := by
  obtain ⟨x, hx, hhost, hprog, hlist⟩ : ∃ x : StreamX, (s.bindHost n e prog list).str n = x ∧ x.host = true ∧ x.prog = prog ∧ x.list = list :=
    ⟨_, (SMap.get_put _ _ _ _ _).trans (if_pos rfl), rfl, rfl, rfl⟩
  refine ⟨by rw [hx, hhost], by rw [hx, hprog], by rw [hx, hlist], ?_⟩
  unfold State.progOf
  rw [hx, hhost, if_pos rfl, hprog]

/-- Showing the units that are on leaves the lists of them. -/
theorem State.showUnits_does' (s : State) : Does 516 s s.showUnits := State.showUnits_does s (by decide) (Does.rfl' _ s)

/-- A stream bound by an OPEN whose mover group sleeps, ARMED for 2,000 ticks while the group wakes, before its units are shown (R369). -/
def State.armedHost (s : State) (n : Nat) : State :=
  let v := (s.setSst n ssARMED wtSTART).setStr n { s.str n with startAt := s.row + 2000 }
  { v with pwr := { v.pwr with waking := NSet.ins (0x7000 + s.groupOf n) v.pwr.waking } }

theorem State.armedHost_shows (s : State) (n : Nat) : (s.armedHost n).showUnits.str n = { s.str n with startAt := s.row + 2000 } ∧
    (s.armedHost n).showUnits.sst n = ssARMED ∧
    (s.armedHost n).showUnits.pwr.waking = NSet.ins (0x7000 + s.groupOf n) s.pwr.waking := by
  have hshow := (s.armedHost n).showUnits_does'
  exact ⟨(hshow.str_eq (by decide) n).trans ((State.setStr_str (s.setSst n ssARMED wtSTART) n _ n).trans (if_pos rfl)),
    (hshow.sst_eq (by decide) n).trans (State.setSst_sst s n ssARMED wtSTART),
    congrArg PowerSt.waking (hshow.frame .power (by decide))⟩

/-- OPEN binds its context where its checks pass, and starts the stream or arms it (R369, R443). -/
theorem cmdOpen_opens (q : Fin 64) (e : List Byte) (s : State) (hl : s.linkUp = true) (hq : s.nextQueue = some q.val) (hop : fieldLe e 0 1 = 1) :
    Runs (.cmdOpen q e) s [.pwrRegs, .streamRegs, .hqRegs, .cluRegs, .sent, .stash, .ledgers, .power, .streams, .host] (fun t =>
      let n := fieldLe e 4 2
      let u := s.afterTake q.val e
      let prog := u.openProg e
      let list := u.openList e
      let b := u.bindHost n e prog list
      (u.openStatus e prog list ≠ stOK → t.strs = s.strs ∧ t.sst n = s.sst n) ∧
      (u.openStatus e prog list = stOK → (t.str n).host = true ∧ (t.str n).prog = prog ∧ (t.str n).list = list ∧
        (b.pwr.awake.contains (0x7000 + b.groupOf n) = true → t.sst n = (if prog.isEmpty then ssENDED else ssRUN)) ∧
        (b.pwr.awake.contains (0x7000 + b.groupOf n) = false → t.sst n = ssARMED ∧ (t.str n).startAt = s.row + 2000 ∧
          t.pwr.waking = NSet.ins (0x7000 + b.groupOf n) s.pwr.waking))) := by
  extract_lets n u prog list b
  have htake : Does 2199023255616 s u := s.afterTake_does q.val e
  generalize htk : s.takenOf q.val e = tk
  have hexec : exec (.cmdOpen q e) s = .next (
      if u.openStatus e prog list ≠ stOK then u.complete tk (u.openStatus e prog list)
      else if b.pwr.awake.contains (0x7000 + b.groupOf n) then (b.startStr n).complete tk stOK else (b.armedHost n).showUnits) := by
    refine congrArg Host.Outcome.next ?_
    rw [State.takeCmd_some s q.val (· == 1) e hl hq (by rw [hop]; rfl), ← htk]
    rfl
  have hruns := fun τ hτ => execCmdOpen_does q e s τ hτ
  by_cases hok : u.openStatus e prog list = stOK
  swap
  · rw [if_pos hok] at hexec
    have hdone := u.complete_does' tk (u.openStatus e prog list)
    exact Runs.of hexec (hruns _ hexec) (by decide) ⟨fun _ => ⟨(hdone.frame .streams (by decide)).trans (htake.frame .streams (by decide)),
      (hdone.sst_eq (by decide) n).trans (htake.sst_eq (by decide) n)⟩, fun h => absurd h hok⟩
  rw [if_neg (not_not.mpr hok)] at hexec
  obtain ⟨hhost, hprog, hlist, hprogOf⟩ := u.bindHost_shows n e prog list
  have hbind : Does 549755813920 u b := State.bindHost_does u n e prog list (by decide) (Does.rfl' _ u)
  by_cases hawake : b.pwr.awake.contains (0x7000 + b.groupOf n) = true
  · rw [if_pos hawake] at hexec
    obtain ⟨-, -, hstate, -, hhost', hprog', hlist'⟩ := b.startStr_shows n
    have hdone := (b.startStr n).complete_does' tk stOK
    have hstr := hdone.str_eq (by decide) n
    exact Runs.of hexec (hruns _ hexec) (by decide) ⟨fun h => absurd hok h, fun _ => ⟨by rw [hstr, hhost', hhost], by rw [hstr, hprog', hprog],
      by rw [hstr, hlist', hlist], fun _ => by rw [hdone.sst_eq (by decide) n, hstate, hprogOf], fun h => absurd (hawake.symm.trans h) (by decide)⟩⟩
  · rw [if_neg hawake] at hexec
    obtain ⟨hstr, hstate, hwaking⟩ := b.armedHost_shows n
    have hrow : b.row = s.row := (hbind.frame .row (by decide)).trans (htake.frame .row (by decide))
    have hpwr : b.pwr = s.pwr := (hbind.frame .power (by decide)).trans (htake.frame .power (by decide))
    refine Runs.of hexec (hruns _ hexec) (by decide) ⟨fun h => absurd hok h, fun _ => ⟨by rw [hstr]; exact hhost, by rw [hstr]; exact hprog,
      by rw [hstr]; exact hlist, fun h => absurd h hawake, fun _ => ⟨hstate, by rw [hstr, hrow], by rw [hwaking, hpwr]⟩⟩⟩

/-! ## The start of a host stream -/

/-- A host stream that is ARMED starts once its mover group is awake (R369, R443). -/
theorem hostStreamStart_starts (n : Fin 16384) (s : State) (hhost : (s.str n.val).host = true) (harmed : s.sst n.val = ssARMED)
    (hpow : 2 ≤ s.rf R.PWR_STATE_STATE) :
    Runs (.hostStreamStart n) s [.pwrRegs, .stepRegs, .streamRegs, .hqRegs, .cluRegs, .row, .sent, .idleRuns, .stash, .ledgers, .power, .streams,
        .host]
      (fun t => t.row = max s.row (s.str n.val).startAt ∧ t.sst n.val = (if (s.str n.val).prog.isEmpty then ssENDED else ssRUN) ∧
        t.pwr.awake = NSet.ins (0x7000 + s.groupOf n.val) s.pwr.awake) := by
  have hadv : Does 67633168 s (s.advance (s.str n.val).startAt) := State.advance_does s _ (by decide) (Does.rfl' _ s)
  have hrow := s.advance_row (s.str n.val).startAt
  generalize hv : (s.advance (s.str n.val).startAt).wakeUnit (0x7000 + s.groupOf n.val) = v
  have hawake : v.pwr.awake = NSet.ins (0x7000 + s.groupOf n.val) (s.advance (s.str n.val).startAt).pwr.awake := by
    rw [← hv]
    unfold State.wakeUnit
    exact congrArg PowerSt.awake ((State.showUnits_does' _).frame .power (by decide))
  have hwake : Does 137438953988 (s.advance (s.str n.val).startAt) v := hv ▸ State.wakeUnit_does _ _ (by decide) (Does.rfl' _ _)
  generalize hu : v.setStr n.val { v.str n.val with saved := [] } = u
  have hexec : exec (.hostStreamStart n) s = .next ((u.startStr n.val).completeOn 1 n.val) := by
    refine congrArg Host.Outcome.next ((if_neg (by rw [hhost, harmed, decide_eq_false (Nat.not_lt.mpr hpow)]; decide)).trans ?_)
    rw [← hu, ← hv]
  have hset : Does 549755813888 v u := hu ▸ State.setStr_does v _ _ (by decide) (Does.rfl' _ v)
  have hstart : Does 588410519584 u (u.startStr n.val) := State.startStr_does u _ (by decide) (Does.rfl' _ u)
  have hdone : Does 2233387188288 (u.startStr n.val) ((u.startStr n.val).completeOn 1 n.val) :=
    State.completeOn_does _ _ _ (by decide) (Does.rfl' _ _)
  have hrecord : u.str n.val = { s.str n.val with saved := [] } := by
    rw [← hu, State.setStr_str, if_pos rfl, hwake.str_eq (by decide), hadv.str_eq (by decide)]
  have hprog : u.progOf n.val = (s.str n.val).prog := by
    unfold State.progOf
    rw [hrecord]
    exact if_pos hhost
  obtain ⟨-, -, hstate, -⟩ := u.startStr_shows n.val
  refine Runs.of hexec (execHostStreamStart_does n s _ hexec) (by decide) ⟨?_, by rw [hdone.sst_eq (by decide), hstate, hprog], ?_⟩
  · rw [hdone.frame .row (by decide), hstart.frame .row (by decide), hset.frame .row (by decide), hwake.frame .row (by decide), hrow]
  · rw [hdone.frame .power (by decide), hstart.frame .power (by decide), hset.frame .power (by decide), hawake,
      show (s.advance (s.str n.val).startAt).pwr = s.pwr from hadv.frame .power (by decide)]

/-- Settles O48: ABORT and OPEN from the state in which the queue's command is taken, and the start of a host stream. -/
theorem hostStreams : Obligations.HostStreams := by
  unfold Obligations.HostStreams
  refine ⟨cmdAbort_stops, fun q e s hl hq hop => ?_, hostStreamStart_starts⟩
  have hopens := cmdOpen_opens q e s hl hq hop
  unfold State.afterTake State.takenOf at hopens
  rw [hop] at hopens
  exact hopens

end Sys2Proof.Machine
end

section
/-! SUPPORT. O28: what moving a block's bytes leaves of the count of blocks that have left the flight (R221, R431). -/

namespace Sys2Proof.Machine

/-- As many blocks have left the flight. -/
def SameFlown (s t : State) : Prop := t.led.blkOut = s.led.blkOut

theorem SameFlown.refl (s : State) : SameFlown s s := rfl

theorem SameFlown.trans {s t u : State} (h1 : SameFlown s t) (h2 : SameFlown t u) : SameFlown s u := Eq.trans h2 h1

theorem SameFlown.ite {s a b : State} {c : Prop} [Decidable c] (ha : SameFlown s a) (hb : SameFlown s b) :
    SameFlown s (if c then a else b) := by split <;> assumption

/-- A loop whose rounds keep the count keeps it. -/
theorem SameFlown.foldl {β : Type} (l : List β) (f : State → β → State) (h : ∀ v x, SameFlown v (f v x)) (s : State) :
    SameFlown s (l.foldl f s) := State.foldl_keeps (fun v => v.led.blkOut) l f h s

/-- What leaves the ledgers keeps the count. -/
theorem Does.sameFlown {m : Nat} {s t : State} (h : Does m s t) (h35 : m.testBit 35 = false) : SameFlown s t :=
  congrArg LedgerSt.blkOut (show t.led = s.led from h.frame .ledgers h35)

/-! ## Reading -/

theorem State.readPiece_offSkein (w : Who) (asked : List (Nat × Nat)) (buf : List MByte) (g : Got) (sp : Nat × Nat × Nat) :
    Does offSkein g.st (State.readPiece w asked buf g sp).st := by
  unfold State.readPiece
  split
  · exact Does.rfl' _ _
  · exact State.readSpan_does w g sp (by decide) (Does.rfl' _ _)

theorem State.readFor_sameFlown (s : State) (n q oa len : Nat) (asked : List (Nat × Nat)) (buf : List MByte) :
    SameFlown s (s.readFor n q oa len asked buf).st := by
  have hpieces : Does offSkein s ((pageSpans oa len).foldl (State.readPiece (s.strWho n q) asked buf) ⟨s, [], false, []⟩).st :=
    Does.foldlOf Got.st _ _ _ (Does.rfl' _ s) (fun v sp hv => (State.readPiece_offSkein _ asked buf v sp).after (by decide) hv)
  unfold State.readFor
  extract_lets g u v
  have hu : SameFlown s u :=
    (Does.ite (State.noteRange_does g.st oa len (by decide) hpieces) hpieces : Does offSkein s u).sameFlown (by decide)
  exact SameFlown.ite (hu.trans ((State.note_does u n stBAD_ARG 0x0A (by decide) (Does.rfl' 16777264 u)).sameFlown (by decide))) hu

theorem State.note_sameFlown (s : State) (n st cause : Nat) : SameFlown s (s.note n st cause) :=
  (State.note_does s n st cause (by decide) (Does.rfl' 16777264 s)).sameFlown (by decide)

/-- A block's bytes read from its source leave the stream's state and the count of blocks (R206, R253). -/
theorem State.readSource_keeps (s : State) (n : Nat) (b : Block) : KeepsSkein n s (s.readSource n b).1 ∧ SameFlown s (s.readSource n b).1 := by
  unfold State.readSource
  split
  · extract_lets raw w g u
    have hread := s.readFor_keepsSkein n b.seq b.src w.1.length b.asked b.data
    have hflown := s.readFor_sameFlown n b.seq b.src w.1.length b.asked b.data
    have hu : KeepsSkein n s u := KeepsSkein.ite hread (hread.trans (State.note_keepsSkein _ _ _ _))
    have hu' : SameFlown s u := SameFlown.ite hflown (hflown.trans (State.note_sameFlown _ _ _ _))
    exact ⟨KeepsSkein.ite (hu.trans (u.note_keepsSkein _ _ _)) hu, SameFlown.ite (hu'.trans (u.note_sameFlown _ _ _)) hu'⟩
  · extract_lets g
    have hread := s.readFor_keepsSkein n b.seq b.src b.len b.asked b.data
    have hflown := s.readFor_sameFlown n b.seq b.src b.len b.asked b.data
    exact ⟨KeepsSkein.ite (hread.trans (State.note_keepsSkein _ _ _ _)) hread, SameFlown.ite (hflown.trans (State.note_sameFlown _ _ _ _)) hflown⟩

/-! ## Writing -/

theorem State.postBus_offSkein (s : State) (addr : Nat) (l : List MByte) : Does offSkein s (s.postBus addr l) :=
  Does.foldl _ _ (Does.rfl' _ s) (fun v _ hv => State.emitHost_does v _ (by decide) hv)

/-- A page's part of a write leaves the registers of STREAM, the ledgers and the streams. -/
theorem State.writeSpan_offSkein (w : Who) (own : Nat) (g : Got) (sp : Nat × Nat × Nat) : Does offSkein g.st (State.writeSpan w own g sp).st := by
  have hnotOwner : ∀ v : State, Does offSkein v
      (((v.bump R.TIER_ERR_COUNT).set R.TIER_ERR_LAST_STATUS stNOT_OWNER).logEv stNOT_OWNER 0x30 0 0 (sp.1 * 2 ^ 21 + sp.2.1)) := fun v =>
    State.logEv_does _ _ _ _ _ _ (by decide) (Does.set _ _ _ (by decide) (Does.bump _ _ (by decide) (Does.rfl' _ v)))
  have hrefuse : ∀ (v : State) (why : Refused), Does offSkein v (v.tierRefuse why stBAD_ARG (sp.1 * 2 ^ 21 + sp.2.1)) := fun v why =>
    State.tierRefuse_does v why _ _ (by decide) (Does.rfl' _ v)
  unfold State.writeSpan
  extract_lets s oa l rest
  split
  · exact hnotOwner s
  split
  · exact hrefuse s .barred
  split
  · rename_i why _
    exact hrefuse s why
  rename_i e _
  extract_lets da u v
  split
  · exact hnotOwner s
  have hu : Does offSkein s u := State.countPage_does _ _ _ (by decide) (Does.rfl' _ s)
  have hv : Does offSkein s v := Does.ite (State.setDirty_does u _ (by decide) hu) hu
  clear_value u v
  split
  · exact (hrefuse v .unmapped).after (by decide) hv
  split
  · exact State.writeMem_does v _ _ (by decide) hv
  · exact State.writeMem_does v _ _ (by decide) hv
  · exact State.writeFlash_does v _ _ _ (by decide) hv
  · exact (v.postBus_offSkein _ _).after (by decide) hv

theorem State.writeOA_offSkein (s : State) (w : Who) (own oa : Nat) (l : List MByte) : Does offSkein s (s.writeOA w own oa l).st :=
  Does.foldlOf Got.st _ _ _ (Does.rfl' _ s) (fun v sp hv => (State.writeSpan_offSkein w own v sp).after (by decide) hv)

theorem State.noteRing_sameFlown (s : State) (oa : Nat) (l : List MByte) : SameFlown s (s.noteRing oa l) := by
  unfold State.noteRing
  split
  · exact SameFlown.refl s
  split
  · exact SameFlown.refl s
  extract_lets da
  split
  · exact SameFlown.refl s
  split
  · exact SameFlown.refl s
  · rfl

theorem State.putRaw_sameFlown (s : State) (n q oa : Nat) (l : List MByte) : SameFlown s (s.putRaw n q oa l) := by
  unfold State.putRaw
  split
  · exact SameFlown.refl s
  extract_lets sides held g s₁ s₂ s₃ hand x s₄ s₅
  have h₁ : SameFlown s s₁ := ((s.writeOA_offSkein _ _ oa l).sameFlown (by decide)).trans rfl
  have h₂ : SameFlown s s₂ := SameFlown.ite h₁ (h₁.trans (s₁.noteRing_sameFlown oa l))
  have h₃ : SameFlown s s₃ := h₂.trans ((State.noteFlash_does s₂ n oa _ (by decide) (Does.rfl' 549755813888 s₂)).sameFlown (by decide))
  have h₄ : SameFlown s s₄ := SameFlown.ite (h₃.trans rfl) h₃
  have h₅ : SameFlown s s₅ := SameFlown.ite (h₄.trans (s₄.note_sameFlown n _ _)) h₄
  exact h₅.trans (SameFlown.foldl sides (fun v f => v.noteFar n f.1 f.2) (fun _ _ => rfl) s₅)

/-- Bytes written at an OA for the work of a stream take no block out of the flight. -/
theorem State.putOA_sameFlown (s : State) (n q oa : Nat) (l : List MByte) : SameFlown s (s.putOA n q oa l) := by
  have hraw := s.putRaw_sameFlown n q oa l
  unfold State.putOA
  exact SameFlown.ite hraw (hraw.trans rfl)

end Sys2Proof.Machine
end

section
/-! SUPPORT. O28: a block in flight completes (R196, R206, R221, R222, R413). -/

namespace Sys2Proof.Machine

/-! ## The tick by which a block's slots have carried it -/

theorem State.carried_row (s : State) (n : Nat) (b : Block) :
    (s.carried n b).row = if s.slotted n then max s.row (s.planC + s.step.slip + b.due) else s.row := by
  unfold State.carried
  split
  · exact s.advance_row _
  · rfl

theorem State.carried_rf (s : State) (n : Nat) (b : Block) (f : Fld) (h : f.key ≠ R.STEP_STATUS_PHASE.key) : (s.carried n b).rf f = s.rf f := by
  unfold State.carried
  split
  · exact s.advance_rf _ f h
  · rfl

theorem State.carried_does' (s : State) (n : Nat) (b : Block) : Does 67633168 s (s.carried n b) := State.carried_does s n b (by decide) (Does.rfl' _ s)

/-- Time passes over the segments whose output is to come. -/
theorem State.carried_frogOf (s : State) (n : Nat) (b : Block) (mb : Nat) : (s.carried n b).frogOf n mb = s.frogOf n mb := by
  have hdoes := s.carried_does' n b
  have hvariant : (s.carried n b).variant = s.variant := s.carried_rf n b R.STEP_STATUS_VARIANT (by decide)
  unfold State.frogOf State.segTable State.outTaken
  rw [hdoes.str_eq (by decide), hvariant, show (s.carried n b).chart = s.chart from hdoes.frame .chart (by decide),
    show (s.carried n b).clu = s.clu from hdoes.frame .clusters (by decide)]

/-- Source bytes that are marked as uncorrectable leave the tick by which the block is carried (R413). -/
theorem State.markErrors_carried_row (s : State) (oas : List Nat) (oa len n : Nat) (b : Block) :
    ((s.markErrors oas oa len).carried n b).row = (s.carried n b).row := by
  have hdoes : Does 2097152 s (s.markErrors oas oa len) := State.markErrors_does s _ _ _ (by decide) (Does.rfl' _ s)
  have hrf : ∀ f : Fld, f.blk = 4 → (s.markErrors oas oa len).rf f = s.rf f := fun f hf => hdoes.rf f (by rw [hf]; decide)
  have hstep : (s.markErrors oas oa len).step = s.step := hdoes.frame .step (by decide)
  have hC : (s.markErrors oas oa len).planC = s.planC := by
    unfold State.planC State.phase
    rw [hrf R.STEP_STATUS_PHASE (by decide), hrf R.STEP_CASTON_VALUE (by decide), hstep]
  have hslotted : (s.markErrors oas oa len).slotted n = s.slotted n := by
    unfold State.slotted State.slotBound
    rw [hdoes.str_eq (by decide), hdoes.slotTime_eq (by decide) (by decide) (by decide), hdoes.sst_eq (by decide)]
  rw [State.carried_row, State.carried_row, hslotted, hC, hstep, show (s.markErrors oas oa len).row = s.row from hdoes.frame .row (by decide)]

/-! ## Leaving the flight -/

theorem State.tryClose_of_ne {s : State} {n : Nat} (h : s.sst n ≠ ssSTOPPING) : s.tryClose n = s := if_neg fun hc => h hc.1

theorem State.cutBlock_of_ne {s : State} {n : Nat} (h : s.sst n ≠ ssSTOPPING) (b : Block) (l : List MByte) : s.cutBlock n b l = (s, l) := by
  have hstop : (s.sst n == ssSTOPPING) = false := by simpa using h
  unfold State.cutBlock
  rw [hstop, Bool.and_false, Bool.false_and, if_neg Bool.false_ne_true]

/-- A block of a stream that is not stopping leaves the flight, is counted, and leaves memory and time (R221, R431). -/
theorem State.retireBlock_shows {s : State} {n : Nat} (h : s.sst n ≠ ssSTOPPING) (b : Block) (l : List Byte) :
    (s.retireBlock n b l).mem = s.mem ∧ (s.retireBlock n b l).row = s.row ∧ (∀ x ∈ ((s.retireBlock n b l).str n).blocks, x.seq ≠ b.seq) ∧
    (s.retireBlock n b l).led.blkOut = s.led.blkOut + 1 := by
  unfold State.retireBlock
  extract_lets x s₁ ledger s₂ s₃ s₄
  have hblocks : ∀ y ∈ (s₂.str n).blocks, y.seq ≠ b.seq := by
    rw [show s₂.str n = s₁.str n from rfl, show s₁.str n = _ from (State.setStr_str _ _ _ _).trans (if_pos rfl)]
    intro y hy
    simpa using (List.mem_filter.mp hy).2
  have hdone : Does 549755813920 s₂ s₃ := State.doneSeq_does _ n b.seq l (by decide) (State.addBytes_does s₂ n _ (by decide) (Does.rfl' _ s₂))
  obtain ⟨hstash, hhome⟩ : Does 4294967296 s₃ s₄ ∧ s₄.mem = s₃.mem := by
    unfold s₄
    split
    · exact ⟨State.stashRaw_does s₃ _ _ _ (by decide) (Does.rfl' _ s₃), rfl⟩
    · exact ⟨Does.rfl' _ s₃, rfl⟩
  have hkeeps : KeepsSkein n s₂ s₄ :=
    ((s₂.addBytes_keepsSkein n n _).trans (State.doneSeq_keepsSkein n _ n b.seq l)).trans ((hstash.mono (by decide)).keepsSkein n)
  have hrecord : ∃ c k, s₃.str n = { s₂.str n with crcSeq := c, held := k } := ((s₂.addBytes n l.length).doneSeq_checksOn n b.seq l).record
  have hmem : s₃.mem = s.mem := State.foldCheck_mem _ n _
  clear_value s₄ s₃
  rw [State.tryClose_of_ne (by rw [hkeeps.sst]; exact h)]
  refine ⟨hhome.trans hmem, (hstash.frame .row (by decide)).trans (hdone.frame .row (by decide)), ?_,
    congrArg LedgerSt.blkOut ((hstash.frame .ledgers (by decide)).trans (hdone.frame .ledgers (by decide)))⟩
  obtain ⟨c, k, hrec⟩ := hrecord
  rw [hstash.str_eq (by decide), hrec]
  exact hblocks

/-- What a block of a stream leaves once its bytes `l` are written and it has left the flight. -/
structure BlockDone (n : Nat) (b : Block) (l : List MByte) (s t : State) : Prop where
  mem    : t.mem = (s.putOA n b.seq (b.dst % 2 ^ 52) l).mem
  row    : t.row = s.row
  blocks : ∀ x ∈ (t.str n).blocks, x.seq ≠ b.seq
  blkOut : t.led.blkOut = s.led.blkOut + 1

/-- A block of a stream that is not stopping is written at its OA and leaves the flight (R221). -/
theorem State.writeBlock_done {s : State} {n : Nat} {b : Block} (h : s.sst n ≠ ssSTOPPING) (hport : isPort b.dst = false) (l : List MByte) :
    BlockDone n b l s ((s.cutBlock n b l).1.writeBlock n b (s.cutBlock n b l).2) := by
  have hput : Does 25065990152624 s (s.putOA n b.seq (b.dst % 2 ^ 52) l) := State.putOA_does s _ _ _ _ (by decide) (Does.rfl' _ s)
  have hflown := s.putOA_sameFlown n b.seq (b.dst % 2 ^ 52) l
  have hhere : (s.putOA n b.seq (b.dst % 2 ^ 52) l).sst n ≠ ssSTOPPING := by
    rw [(s.putOA_keepsSkein n b.seq _ l).sst]
    exact h
  have hwrite : s.writeBlock n b l = (s.putOA n b.seq (b.dst % 2 ^ 52) l).retireBlock n b (l.map (·.1)) := by
    unfold State.writeBlock
    rw [hport, if_neg Bool.false_ne_true]
  obtain ⟨hmem, hrow, hblocks, hout⟩ := State.retireBlock_shows hhere b (l.map (·.1))
  rw [State.cutBlock_of_ne h, hwrite]
  exact ⟨hmem, hrow.trans (hput.frame .row (by decide)), hblocks, hout.trans (congrArg (· + 1) hflown)⟩

section
variable {n : Fin 16384} {w : Transfer} {s : State} {b : Block}
  (hfind : (s.str n.val).blocks.find? (fun x => x.seq == w.seq) = some b) (hpow : 2 ≤ s.rf R.PWR_STATE_STATE)
  (hserved : s.moverServed n.val = true) (hstate : s.sst n.val ≠ ssSTOPPING) (hport : isPort b.dst = false)
include hfind hpow hserved hstate hport

/-- A block whose bytes are in hand completes with them (R221, R222). -/
theorem blockComplete_inHand (hhand : b.inHand = true) (hlines : s.linesFor n.val [(b.dst % 2 ^ 52, b.len)] = []) :
    ∃ t, exec (.blockComplete n w) s = .next t ∧ BlockDone n.val b b.data (s.carried n.val b) t := by
  have hguard : (decide (s.rf R.PWR_STATE_STATE < 2) || (!s.moverServed n.val && s.sst n.val != ssSTOPPING)) = false := by
    rw [hserved, decide_eq_false (Nat.not_lt.mpr hpow)]
    rfl
  have hhere : (s.carried n.val b).sst n.val ≠ ssSTOPPING := by
    rw [(s.carried_does' n.val b).sst_eq (by decide)]
    exact hstate
  refine ⟨_, congrArg Host.Outcome.next ?_, State.writeBlock_done hhere hport b.data⟩
  rw [hfind]
  dsimp only
  rw [hguard, hhand, hport, if_neg Bool.false_ne_true]
  simp only [Bool.false_eq_true, if_true, if_false, List.nil_append, hlines, List.isEmpty_nil, Bool.not_true]

/-- A block whose bytes lie at its source is read there, with what is found uncorrectable marked, and completes (R206, R221, R413). -/
theorem blockComplete_reads (hhand : b.inHand = false) (hlines : s.linesFor n.val [(b.src, b.len), (b.dst % 2 ^ 52, b.len)] = [])
    (houts : s.outWaits n.val b = false) (hfrog : s.frogOf n.val b.mb = none) (hfar : s.lacksFar n.val b = false) :
    let r := ((s.markErrors w.bad (b.src % 2 ^ 52) b.len).carried n.val b).readSource n.val b
    ∃ t, exec (.blockComplete n w) s = .next t ∧ BlockDone n.val b r.2 (r.1.shorten n.val b r.2.length) t ∧
      (r.1.shorten n.val b r.2.length).row = (s.carried n.val b).row ∧ SameFlown s (r.1.shorten n.val b r.2.length) := by
  intro r
  have hguard : (decide (s.rf R.PWR_STATE_STATE < 2) || (!s.moverServed n.val && s.sst n.val != ssSTOPPING)) = false := by
    rw [hserved, decide_eq_false (Nat.not_lt.mpr hpow)]
    rfl
  have hmark : Does 2097152 s (s.markErrors w.bad (b.src % 2 ^ 52) b.len) := State.markErrors_does s _ _ _ (by decide) (Does.rfl' _ s)
  have hcarried := (s.markErrors w.bad (b.src % 2 ^ 52) b.len).carried_does' n.val b
  have hrow := s.markErrors_carried_row w.bad (b.src % 2 ^ 52) b.len n.val b
  have hfrog' : ((s.markErrors w.bad (b.src % 2 ^ 52) b.len).carried n.val b).frogOf n.val b.mb = none := by
    rw [State.carried_frogOf, hmark.frogOf_eq (by decide) (by decide) (by decide) (by rw [hmark.str_eq (by decide)])]
    exact hfrog
  generalize hu : (s.markErrors w.bad (b.src % 2 ^ 52) b.len).carried n.val b = u at hcarried hrow hfrog'
  have hr : r = u.readSource n.val b := by rw [← hu]
  have hread : u.readBlock n.val b = r := by
    unfold State.readBlock
    rw [hfrog', hr]
  obtain ⟨hkeeps, hflown⟩ := u.readSource_keeps n.val b
  have hdoes : Does 326979575984 u (u.readSource n.val b).1 := State.readSource_does u _ b (by decide) (Does.rfl' _ u)
  rw [← hr] at hkeeps hflown hdoes
  have hshort : Does 549755813888 r.1 (r.1.shorten n.val b r.2.length) := State.shorten_does _ _ b _ (by decide) (Does.rfl' _ _)
  have hhere : (r.1.shorten n.val b r.2.length).sst n.val ≠ ssSTOPPING := by
    rw [hshort.sst_eq (by decide), hkeeps.sst, hcarried.sst_eq (by decide), hmark.sst_eq (by decide)]
    exact hstate
  refine ⟨_, congrArg Host.Outcome.next ?_, State.writeBlock_done hhere hport r.2,
    (hshort.frame .row (by decide)).trans ((hdoes.frame .row (by decide)).trans hrow),
    (hmark.sameFlown (by decide)).trans ((hcarried.sameFlown (by decide)).trans (hflown.trans (hshort.sameFlown (by decide))))⟩
  rw [hfind]
  dsimp only
  rw [hguard, hhand, hport, houts, hfar, hu, hread]
  simp only [Bool.false_eq_true, if_false, List.cons_append, List.nil_append, hlines, List.isEmpty_nil, Bool.not_true]

end

/-- Settles O28: a block in hand, and one read at its source, complete where their slots have carried them. -/
theorem blockCompletion : Obligations.BlockCompletion := by
  refine ⟨fun n w s b hfind hpow hserved hstate hhand hport hlines => ?_,
    fun n w s b hfind hpow hserved hstate hhand hport hlines houts hfrog hfar => ?_⟩ <;>
    have hseq : b.seq = w.seq := by simpa using List.find?_some hfind
  · obtain ⟨t, hexec, hmem, hrow, hblocks, hout⟩ := blockComplete_inHand hfind hpow hserved hstate hport hhand hlines
    exact Runs.of hexec (execBlockComplete_does n w s t hexec) (by decide) ⟨hmem, hrow, hseq ▸ hblocks,
      hout.trans (congrArg (· + 1) ((s.carried_does' n.val b).sameFlown (by decide)))⟩
  · obtain ⟨t, hexec, ⟨hmem, hrow, hblocks, hout⟩, hrow', hflown⟩ :=
      blockComplete_reads hfind hpow hserved hstate hport hhand hlines houts hfrog hfar
    exact Runs.of hexec (execBlockComplete_does n w s t hexec) (by decide) ⟨hmem, hrow.trans hrow', hseq ▸ hblocks,
      by rw [hout, hflown]; exact Nat.lt_succ_self _⟩

end Sys2Proof.Machine
end

section
/-! SUPPORT. O18: pauses of plan time begin and end (R19, R231, R249, R417, R418, R421). -/

namespace Sys2Proof.Machine

/-! ## A pause begins -/

/-- Plan time stopped where it stands, for the length of the failover that is due (R417). -/
def State.failoverPaused (s : State) : State :=
  (({ s with fault := { s.fault with pauseWant := 0, pauseFrom := s.row, pauseEnd := some (s.row + s.fault.pauseWant) } }).set
    R.FAULT_STATUS_PAUSED 1).set R.FAULT_LAST_AT s.row

/-- Plan time stopped where it stands, for a generation that is still open (R231). -/
def State.barrierPaused (s : State) : State := { s with fault := { s.fault with peerPause := true, pauseFrom := s.row } }

section
variable {s : State} (hon : s.pwr.off = false) (hplan : s.inPlan = true) (hend : s.fault.pauseEnd = none) (hpeer : s.fault.peerPause = false)
include hon hplan hend hpeer

/-- In plan time, with no pause under way, PAUSE_BEGIN looks for a cause. -/
theorem pauseBegin_looks : ¬(s.pwr.off || !s.inPlan || s.fault.pauseEnd.isSome || s.fault.peerPause) = true := by
  rw [hon, hplan, hend, hpeer]
  decide

/-- A failover that is due pauses plan time at the next round boundary, for its length (R231, R417). -/
theorem pauseBegin_failover (hwant : 0 < s.fault.pauseWant) :
    Runs .pauseBegin s [.stepRegs, .faultRegs, .row, .idleRuns, .fault] (fun t => t.row = max s.row (s.roundUp s.row) ∧
      t.fault = { s.fault with pauseWant := 0, pauseFrom := t.row, pauseEnd := some (t.row + s.fault.pauseWant) } ∧
      t.rf R.FAULT_STATUS_PAUSED = 1 ∧ t.rf R.FAULT_LAST_AT = t.row % 2 ^ 32) := by
  have hexec : exec .pauseBegin s = .next (s.advance (s.roundUp s.row)).failoverPaused :=
    congrArg Host.Outcome.next ((if_neg (pauseBegin_looks hon hplan hend hpeer)).trans (if_pos hwant))
  refine Runs.of hexec (execPauseBegin_does s _ hexec) (by decide)
    ⟨s.advance_row _, ?_, (State.rf_set_of_ne _ _ _ _ (by decide)).trans (State.rf_set_same _ _ _), State.rf_set_same _ _ _⟩
  rw [← s.advance_fault (s.roundUp s.row)]
  rfl

/-- With no failover due, plan time pauses at the round boundary when the first expected offset of an open SCOPE 1 generation is reached
(R231, R249). -/
theorem pauseBegin_barrier (hwant : s.fault.pauseWant = 0) {b : Nat × Nat × Nat} {l : List (Nat × Nat × Nat)} (hopen : s.openBarriers = b :: l) :
    Runs .pauseBegin s [.stepRegs, .faultRegs, .row, .idleRuns, .fault] (fun t =>
      t.row = max s.row (max (s.roundUp s.row) (s.planC + s.step.slip + l.foldl (fun a e => min a e.2.2) b.2.2)) ∧
      t.fault = { s.fault with peerPause := true, pauseFrom := t.row }) := by
  have hexec : exec .pauseBegin s = .next (s.advance (max (s.roundUp s.row)
      (s.planC + s.step.slip + l.foldl (fun a e => min a e.2.2) b.2.2))).barrierPaused := by
    refine congrArg Host.Outcome.next ((if_neg (pauseBegin_looks hon hplan hend hpeer)).trans ((if_neg (by omega)).trans ?_))
    rw [hopen]
    rfl
  refine Runs.of hexec (execPauseBegin_does s _ hexec) (by decide) ⟨s.advance_row _, ?_⟩
  unfold State.barrierPaused
  rw [s.advance_fault]

end

/-! ## A pause ends -/

theorem State.passTo_does' (s : State) (t : Nat) : Does 67633152 s (s.passTo t) := State.passTo_does s t (by decide) (Does.rfl' _ s)

theorem State.passTo_fault (s : State) (t : Nat) : (s.passTo t).fault = s.fault := (s.passTo_does' t).frame .fault (by decide)

theorem State.passTo_step (s : State) (t : Nat) : (s.passTo t).step = s.step := (s.passTo_does' t).frame .step (by decide)

/-- Plan time resumes: the slip grows by the pause, and a swatch ends that much later (R19, R231). -/
theorem State.resumePlan_showWakes (s : State) : Does 19327353344 s s.resumePlan.showWakes ∧
    s.resumePlan.showWakes.fault = { s.fault with peerPause := false, pauseEnd := none } ∧
    s.resumePlan.showWakes.step = { s.step with slip := s.step.slip + (s.row - s.fault.pauseFrom), swatchEnd :=
      if s.phase = phSWATCH then s.step.swatchEnd + (s.row - s.fault.pauseFrom) else s.step.swatchEnd } := by
  have hshow : Does 512 s.resumePlan s.resumePlan.showWakes := State.showWakes_does _ (by decide) (Does.rfl' _ _)
  exact ⟨(State.resumePlan_does s (by decide) (Does.rfl' _ s)).trans (hshow.mono (by decide)), hshow.frame .fault (by decide),
    hshow.frame .step (by decide)⟩

/-- A failover pause's length has passed. -/
def State.failoverOver (s : State) (e : Nat) : State := (s.passTo e).set R.FAULT_STATUS_PAUSED 0

theorem State.failoverOver_does (s : State) (e : Nat) : Does 67641344 s (s.failoverOver e) :=
  Does.set _ _ _ (ok_FAULT_STATUS_PAUSED (by decide)) (State.passTo_does s e (by decide) (Does.rfl' _ s))

/-- A failover pause at its end, where every port is up: it stays a pause while a generation is overdue, or plan time resumes. -/
theorem exec_pauseEnd_failover {s : State} {e : Nat} (hend : s.fault.pauseEnd = some e)
    (hport : ∀ p : Fin 4, s.rf (R.CDP_STATUS_STATE p.val) ≠ 5) :
    exec .pauseEnd s = .next (if s.peerWaits = true then
      { s.failoverOver e with fault := { (s.failoverOver e).fault with pauseEnd := none, peerPause := true } }
      else (s.failoverOver e).resumePlan.showWakes) := by
  have hlate : (s.failoverOver e).resetLatePorts = s.failoverOver e := State.resetLatePorts_of_none _ fun p => by
    rw [(s.failoverOver_does e).rf _ (by
      rw [R.CDP_STATUS_STATE, Fld.blk_elem _ _ _ _ _ _ 11 (by decide) (by decide) (by decide) (by decide)]
      decide)]
    exact hport p
  show execPauseEnd s = _
  unfold execPauseEnd
  rw [hend]
  dsimp only
  rw [s.advance_of_paused e (by rw [State.paused, hend]; rfl)]
  unfold State.endFailover
  dsimp only
  rw [show (s.passTo e).set R.FAULT_STATUS_PAUSED 0 = s.failoverOver e from rfl, hlate, (s.failoverOver_does e).peerWaits_eq]

/-- A failover pause ends at its count: plan time resumes there, later by the pause, unless a generation is overdue by then (R19, R231, R418). -/
theorem pauseEnd_failover {s : State} {e : Nat} (hend : s.fault.pauseEnd = some e) (hport : ∀ p : Fin 4, s.rf (R.CDP_STATUS_STATE p.val) ≠ 5) :
    Runs .pauseEnd s [.stepRegs, .cluRegs, .faultRegs, .row, .idleRuns, .step, .fault] (fun t =>
      t.row = max s.row e ∧ t.rf R.FAULT_STATUS_PAUSED = 0 ∧ t.fault = { s.fault with peerPause := s.peerWaits, pauseEnd := none } ∧
      (s.peerWaits = true → t.step = s.step) ∧
      (s.peerWaits = false → t.step = { s.step with slip := s.step.slip + (t.row - s.fault.pauseFrom), swatchEnd :=
        if s.phase = phSWATCH then s.step.swatchEnd + (t.row - s.fault.pauseFrom) else s.step.swatchEnd })) := by
  have hexec := exec_pauseEnd_failover hend hport
  have hdoes := s.failoverOver_does e
  have hrow : (s.failoverOver e).row = max s.row e := s.passTo_row e
  have hpaused : (s.failoverOver e).rf R.FAULT_STATUS_PAUSED = 0 := State.rf_set_same _ _ _
  have hfault : (s.failoverOver e).fault = s.fault := s.passTo_fault e
  have hstep : (s.failoverOver e).step = s.step := s.passTo_step e
  have hphase : (s.failoverOver e).phase = s.phase := hdoes.rf _ (by decide)
  generalize s.failoverOver e = u at hexec hdoes hrow hpaused hfault hstep hphase
  cases hwait : s.peerWaits with
  | true =>
    rw [hwait, if_pos rfl] at hexec
    refine Runs.of (m := 17247510528) hexec (Does.upd_fault _ _ (by decide) (hdoes.mono (by decide))) (by decide)
      ⟨hrow, hpaused, ?_, fun _ => hstep, nofun⟩
    rw [hfault]
  | false =>
    rw [hwait, if_neg Bool.false_ne_true] at hexec
    obtain ⟨hres, hfault', hstep'⟩ := u.resumePlan_showWakes
    have hrow' : u.resumePlan.showWakes.row = u.row := hres.frame .row (by decide)
    refine Runs.of (m := 19394994688) hexec ((hdoes.mono (by decide)).trans (hres.mono (by decide))) (by decide)
      ⟨hrow'.trans hrow, (hres.rf _ (by decide)).trans hpaused, by rw [hfault', hfault], nofun, fun _ => ?_⟩
    rw [hstep', hrow', hstep, hfault, hphase]

/-- The generation that a barrier pause waits for has completed. -/
theorem exec_pauseEnd_barrier {s : State} (hend : s.fault.pauseEnd = none) (hpeer : s.fault.peerPause = true) (hwait : s.peerWaits = false) :
    exec .pauseEnd s = .next (s.passTo (s.roundUp s.row)).endPeerPause := by
  show execPauseEnd s = _
  unfold execPauseEnd
  rw [hend]
  dsimp only
  rw [hpeer, hwait, s.advance_of_paused _ (by rw [State.paused, hend, hpeer]; rfl)]
  rfl

/-- A barrier pause ends at the next round boundary, but a failover that has come due in it extends it by its length (R231, R249, R421). -/
theorem pauseEnd_barrier {s : State} (hend : s.fault.pauseEnd = none) (hpeer : s.fault.peerPause = true) (hwait : s.peerWaits = false) :
    Runs .pauseEnd s [.stepRegs, .cluRegs, .faultRegs, .row, .idleRuns, .step, .fault] (fun t =>
      t.row = max s.row (s.roundUp s.row) ∧ t.fault.peerPause = false ∧ t.fault.pauseWant = 0 ∧
      (s.fault.pauseWant = 0 → t.fault.pauseEnd = none ∧ t.step.slip = s.step.slip + (t.row - s.fault.pauseFrom)) ∧
      (0 < s.fault.pauseWant → t.fault.pauseEnd = some (t.row + s.fault.pauseWant) ∧ t.step = s.step ∧ t.rf R.FAULT_STATUS_PAUSED = 1)) := by
  have hexec := exec_pauseEnd_barrier hend hpeer hwait
  have hrow := s.passTo_row (s.roundUp s.row)
  have hfault := s.passTo_fault (s.roundUp s.row)
  have hstep := s.passTo_step (s.roundUp s.row)
  have hdoes : Does 19394994688 s (s.passTo (s.roundUp s.row)).endPeerPause :=
    State.endPeerPause_does _ (by decide) (State.passTo_does s _ (by decide) (Does.rfl' _ s))
  generalize s.passTo (s.roundUp s.row) = u at hexec hrow hfault hstep hdoes
  refine Runs.of hexec hdoes (by decide) ?_
  by_cases hwant : u.fault.pauseWant = 0
  · rw [show u.endPeerPause = u.resumePlan.showWakes from if_pos hwant]
    obtain ⟨hres, hfault', hstep'⟩ := u.resumePlan_showWakes
    have hrow' : u.resumePlan.showWakes.row = u.row := hres.frame .row (by decide)
    rw [hrow', hfault', hstep', ← hfault, ← hstep]
    exact ⟨hrow, rfl, hwant, fun _ => ⟨rfl, rfl⟩, fun h => absurd hwant h.ne'⟩
  · rw [show u.endPeerPause = _ from if_neg hwant, ← hfault, ← hstep]
    exact ⟨hrow, rfl, rfl, fun h => absurd h hwant,
      fun _ => ⟨rfl, rfl, (State.rf_set_of_ne _ _ _ _ (by decide)).trans (State.rf_set_same _ _ _)⟩⟩

end Sys2Proof.Machine
end

section
/-! SUPPORT. O18: round ends, and the idle ticks counted outside plan time (R231, R236, R252, R404). -/

namespace Sys2Proof.Machine

/-! ## Where nothing waits -/

theorem State.setPort_port (s : State) (p : Nat) : s.setPort p (s.port p) = s := by
  have hset : s.ports.set p (s.ports.getD p PortSt.down) = s.ports := by
    refine List.ext_getElem? fun k => ?_
    rw [List.getElem?_set]
    split
    · rename_i hk
      subst hk
      split
      · rename_i hp
        rw [List.getD_eq_getElem?_getD, List.getElem?_eq_getElem hp, Option.getD_some]
      · rename_i hp
        rw [List.getElem?_eq_none (Nat.not_lt.mp hp)]
    · rfl
  unfold State.setPort State.port
  rw [hset]

/-- The ledgers alone written. -/
def State.setLed (s : State) (l : LedgerSt) : State := { s with led := l }

@[simp] theorem State.setLed_row (s : State) (l : LedgerSt) : (s.setLed l).row = s.row := rfl
@[simp] theorem State.setLed_tens (s : State) (l : LedgerSt) : (s.setLed l).tens = s.tens := rfl
@[simp] theorem State.setLed_tensPeak (s : State) (l : LedgerSt) : (s.setLed l).tensPeak = s.tensPeak := rfl

theorem State.setLed_does (s : State) (l : LedgerSt) : Does 34359738368 s (s.setLed l) := Does.upd_led s l (by decide) (Does.rfl' _ s)

/-- A port in whose buffer nothing waits is served: the ledger counts no item. -/
theorem State.serveDue_empty {s : State} {p : Nat} (hq : (s.port p).queue = []) (hf : (s.port p).facks = []) :
    s.serveDue p = s.give (poolBuf p) 0 := by
  have hserve : s.serveDue p = (s.give (poolBuf p) 0).setPort p { s.port p with facks := [] } := by
    unfold State.serveDue State.serveFacks
    rw [hq]
    show ((s.port p).facks.filter _).foldl _ _ = _
    simp only [hf, List.filter_nil, List.foldl_nil, List.length_nil, State.forEach, upTo, List.range_zero]
  rw [hserve, ← hf]
  exact (s.give (poolBuf p) 0).setPort_port p

/-- The dies that ask for nothing leave all but the ledgers as they are served. -/
theorem State.serveDies_quiet {s : State} (h : s.diesQuiet) : ∃ l, s.serveDies = s.setLed l := by
  have hloop : ∀ (ps : List Nat) (u : State), (∀ p ∈ ps, p < 4) → u.diesQuiet → ∃ l, u.forEach ps State.serveDue = u.setLed l := by
    intro ps
    induction ps with
    | nil => exact fun u _ _ => ⟨u.led, rfl⟩
    | cons p ps ih =>
      intro u hps hu
      obtain ⟨hq, hf⟩ := hu p (hps p (List.mem_cons_self ..))
      obtain ⟨l, hl⟩ := ih (u.give (poolBuf p) 0) (fun k hk => hps k (List.mem_cons_of_mem _ hk)) hu
      refine ⟨l, ?_⟩
      show (u.serveDue p).forEach ps State.serveDue = _
      rw [State.serveDue_empty hq hf, hl]
      rfl
  exact hloop (upTo 4) s (fun p hp => List.mem_range.mp hp) h

theorem State.serveHostReqs_quiet {s : State} (h : s.host.reqs = []) : s.serveHostReqs = s := by
  have hclaim : s.claimReqs = s := by
    unfold State.claimReqs
    split
    · rfl
    · rw [h]
      show { s with host := { s.host with reqs := [] } } = s
      rw [← h]
  unfold State.serveHostReqs
  dsimp only
  rw [hclaim, h]
  rfl

theorem State.servePeers_quiet {s : State} (h : s.tier.peers = []) : s.servePeers = s := by
  have hanns : s.serveAnns = s := by
    unfold State.serveAnns
    split
    · rfl
    · rw [h]
      show { s with tier := { s.tier with peers := [] } } = s
      rw [← h]
  have hclaim : s.claimPeers = s := by
    unfold State.claimPeers
    split
    · rfl
    · rw [h]
      show { s with tier := { s.tier with peers := [] } } = s
      rw [← h]
  unfold State.servePeers
  dsimp only
  rw [hanns, hclaim, h]
  rfl

/-- Where nothing waits for slots, serving what waits leaves all but the ledgers (R236, R278, R354). -/
theorem State.serveWaiting_quiet {s : State} (h : s.slotsQuiet) : ∃ l, s.serveWaiting = s.setLed l := by
  obtain ⟨hdies, hpeers, hreqs⟩ := h
  obtain ⟨l, hl⟩ := State.serveDies_quiet hdies
  refine ⟨l, ?_⟩
  unfold State.serveWaiting
  rw [hl, State.serveHostReqs_quiet (show (s.setLed l).host.reqs = [] from hreqs),
    State.servePeers_quiet (show (s.setLed l).tier.peers = [] from hpeers)]

theorem State.advance_slotsQuiet {s : State} (h : s.slotsQuiet) (e : Nat) : (s.advance e).slotsQuiet := by
  have hd : Does 67633168 s (s.advance e) := State.advance_does s e (by decide) (Does.rfl' _ s)
  obtain ⟨hdies, hpeers, hreqs⟩ := h
  exact ⟨State.diesQuiet_congr (State.inbox_congr (hd.frame .ports (by decide))) hdies,
    (congrArg TierSt.peers (hd.frame .tier (by decide))).trans hpeers,
    (congrArg HostSt.reqs (hd.frame .host (by decide))).trans hreqs⟩

theorem State.mapProgress_idle {s : State} (h : s.tier.cmd = none) : s.mapProgress = s := by
  unfold State.mapProgress
  rw [h]

/-- A change of the state that each round of a loop carries along is carried along by the loop. -/
theorem State.forEach_commutes (g : State → State) (l : List Nat) (k : State → Nat → State) (h : ∀ v x, k (g v) x = g (k v x)) (s : State) :
    (g s).forEach l k = g (s.forEach l k) := by
  unfold State.forEach
  induction l generalizing s with
  | nil => rfl
  | cons x l ih => rw [List.foldl_cons, List.foldl_cons, h, ih]

/-- The tension of a round end is the same whatever the ledgers hold. -/
theorem State.addTension_setLed (s : State) (l : LedgerSt) (round : Nat) : (s.setLed l).addTension round = (s.addTension round).setLed l := by
  refine State.forEach_commutes (fun v => v.setLed l) (upTo 10) _ (fun v k => ?_) s
  have hunmet : (v.setLed l).unmet k = v.unmet k := rfl
  dsimp only
  rw [hunmet]
  split <;> rfl

/-! ## Ticks added to IDLE_CUM -/

section
variable (f : Nat → Fld) (x : State → Nat → Nat)

/-- A loop that writes a register of each of its elements leaves a field that is none of them. -/
theorem State.forEach_set_of_ne (g : Fld) (l : List Nat) (s : State) (h : ∀ j ∈ l, g.key ≠ (f j).key) :
    (s.forEach l (fun v j => v.set (f j) (x v j))).rf g = s.rf g := by
  unfold State.forEach
  induction l generalizing s with
  | nil => rfl
  | cons j l ih =>
    rw [List.foldl_cons, ih _ fun i hi => h i (List.mem_cons_of_mem _ hi)]
    exact State.rf_set_of_ne _ _ _ _ (h j List.mem_cons_self)

/-- A loop that writes a register of each of its elements writes each once, where no other one's write changes what is written there. -/
theorem State.forEach_set_own {l : List Nat} (hl : l.Nodup) (hf : ∀ i ∈ l, ∀ j ∈ l, i ≠ j → (f i).key ≠ (f j).key)
    (hx : ∀ i ∈ l, ∀ j ∈ l, i ≠ j → ∀ v : State, x (v.set (f j) (x v j)) i = x v i) (s : State) {k : Nat} (hk : k ∈ l) :
    (s.forEach l (fun v j => v.set (f j) (x v j))).rf (f k) = x s k % 2 ^ (f k).w := by
  unfold State.forEach
  induction l generalizing s with
  | nil => cases hk
  | cons j l ih =>
    obtain ⟨hj, hl'⟩ := List.nodup_cons.mp hl
    have hmem : ∀ {i}, i ∈ l → i ∈ j :: l := List.mem_cons_of_mem _
    rw [List.foldl_cons]
    rcases List.mem_cons.mp hk with rfl | hk'
    · exact (State.forEach_set_of_ne f x (f k) l _ fun i hi => hf k hk i (hmem hi) fun h => hj (h ▸ hi)).trans (State.rf_set_same _ _ _)
    · rw [ih hl' (fun i hi m hm => hf i (hmem hi) m (hmem hm)) (fun i hi m hm => hx i (hmem hi) m (hmem hm)) _ hk',
        hx k hk j List.mem_cons_self fun h => hj (h ▸ hk')]

end

/-- The ticks counted since the last round are added to IDLE_CUM, cause by cause (R404). -/
theorem State.flushIdle_ticks (s : State) (c : Fin 8) :
    s.flushIdle.rf (R.IDLE_CUM_TICKS c.val) = (s.rf (R.IDLE_CUM_TICKS c.val) + SMap.get (fun _ => 0) s.idleRun c.val) % 2 ^ 64 := by
  have hkey : ∀ i ∈ upTo 8, ∀ j ∈ upTo 8, i ≠ j → (R.IDLE_CUM_TICKS i).key ≠ (R.IDLE_CUM_TICKS j).key := fun i hi j hj hne => by
    have hi := List.mem_range.mp hi
    have hj := List.mem_range.mp hj
    simp only [Fld.key, R.IDLE_CUM_TICKS]
    omega
  exact State.forEach_set_own R.IDLE_CUM_TICKS (fun v j => v.rf (R.IDLE_CUM_TICKS j) + SMap.get (fun _ => 0) v.idleRun j) List.nodup_range hkey
    (fun i hi j hj hne v => congrArg (· + _) (State.rf_set_of_ne _ _ _ _ (hkey i hi j hj hne))) s (List.mem_range.mpr c.isLt)

/-! ## ROUND_END -/

theorem exec_roundEnd {s : State} (hon : s.pwr.off = false) (hplan : s.inPlan = true) : exec .roundEnd s = .next
    ((((s.advance (s.planC + ((s.row - s.planC) / 32 + 1) * 32)).serveWaiting.addTension s.planRound).flushIdle).mapProgress) :=
  congrArg Host.Outcome.next (if_neg (by rw [hon, hplan]; decide))

/-- A round of plan time ends at its last count, and no idle tick of it is left to be added (R231, R404). -/
theorem roundEnd_ends {s : State} (hon : s.pwr.off = false) (hplan : s.inPlan = true) :
    Runs .roundEnd s [.stepRegs, .streamRegs, .hqRegs, .tierRegs, .ftlRegs, .cdpRegs, .faultRegs, .logRegs, .idleRegs, .row, .memory, .marks, .sent,
        .free, .flagOut, .idleRuns, .tension, .logRound, .fault, .ledgers, .ports, .tier, .streams, .barriers, .host, .flash, .update, .gauge]
      (fun t => t.row = max s.row (s.planC + ((s.row - s.planC) / 32 + 1) * 32) ∧ t.idleRun = []) := by
  have hexec := exec_roundEnd hon hplan
  refine Runs.of hexec (execRoundEnd_does s _ hexec) (by decide) ⟨?_, ?_⟩
  · rw [State.mapProgress_row, State.flushIdle_row, State.addTension_row, State.serveWaiting_row, State.advance_row]
  · rw [State.mapProgress_idleRun]
    rfl

/-- Where nothing waits for slots, a round of plan time adds its unmet demand to the step's figures (R252, R254). -/
theorem roundEnd_ends_quiet {s : State} (hon : s.pwr.off = false) (hplan : s.inPlan = true) (hquiet : s.slotsQuiet) (hcmd : s.tier.cmd = none) :
    Runs .roundEnd s [.stepRegs, .idleRegs, .row, .idleRuns, .tension, .ledgers] (fun t =>
      let e := s.planC + ((s.row - s.planC) / 32 + 1) * 32
      t.row = max s.row e ∧ t.tens = ((s.advance e).addTension s.planRound).tens ∧
      t.tensPeak = ((s.advance e).addTension s.planRound).tensPeak ∧ t.idleRun = []) := by
  generalize he : s.planC + ((s.row - s.planC) / 32 + 1) * 32 = e
  have hexec := exec_roundEnd hon hplan
  obtain ⟨l, hl⟩ := State.serveWaiting_quiet (State.advance_slotsQuiet hquiet e)
  rw [he, hl, State.addTension_setLed] at hexec
  have htens : Does 34561589264 s (((s.advance e).addTension s.planRound).setLed l) :=
    ((State.addTension_does (s.advance e) s.planRound (by decide) (State.advance_does s e (by decide) (Does.rfl' _ s))).trans
      ((State.setLed_does _ l).mono (by decide)))
  have hrow : (((s.advance e).addTension s.planRound).setLed l).row = max s.row e := by
    rw [State.setLed_row, State.addTension_row, State.advance_row]
  have hfig := ((s.advance e).addTension s.planRound).setLed_tens l
  have hpeak := ((s.advance e).addTension s.planRound).setLed_tensPeak l
  generalize ((s.advance e).addTension s.planRound).setLed l = u at hexec htens hrow hfig hpeak
  have hflush : Does 67174400 u u.flushIdle := State.flushIdle_does u (by decide) (Does.rfl' _ u)
  have hdoes : Does 34561654800 s u.flushIdle := (htens.mono (by decide)).trans (hflush.mono (by decide))
  rw [State.mapProgress_idle ((congrArg TierSt.cmd (hdoes.frame .tier (by decide))).trans hcmd)] at hexec
  obtain ⟨htensKept, hpeakKept⟩ := hflush.frame .tension (by decide)
  exact Runs.of hexec hdoes (by decide) ⟨u.flushIdle_row.trans hrow, htensKept.trans hfig, hpeakKept.trans hpeak, rfl⟩

/-! ## IDLE_CUM_PERIOD -/

section
variable {s : State} (hon : s.pwr.off = false) (hplan : s.inPlan = false)
include hon hplan

theorem exec_idleCumPeriod : exec .idleCumPeriod s = .next (((s.advance (s.row / 32 * 32 + 32)).serveWaiting.flushIdle).mapProgress) :=
  congrArg Host.Outcome.next (if_neg (by rw [hon, hplan]; decide))

/-- Outside plan time the idle ticks counted are added at the end of each 32 ticks (R404). -/
theorem idleCumPeriod_ends :
    Runs .idleCumPeriod s [.stepRegs, .streamRegs, .hqRegs, .tierRegs, .ftlRegs, .cdpRegs, .faultRegs, .logRegs, .idleRegs, .row, .memory, .marks,
        .sent, .free, .flagOut, .idleRuns, .logRound, .fault, .ledgers, .ports, .tier, .streams, .barriers, .host, .flash, .update, .gauge]
      (fun t => t.row = s.row / 32 * 32 + 32 ∧ t.idleRun = []) := by
  obtain ⟨t, hexec, hshows⟩ := idleCumPeriod_row s hon hplan
  exact Runs.of hexec (execIdleCumPeriod_does s t hexec) (by decide) hshows

/-- Where nothing waits for slots, that is all they do (R404). -/
theorem idleCumPeriod_ends_quiet (htail : s.phase ≠ phTAIL) (hquiet : s.slotsQuiet) (hcmd : s.tier.cmd = none) :
    Runs .idleCumPeriod s [.stepRegs, .idleRegs, .row, .idleRuns, .ledgers] (fun t =>
      let e := s.row / 32 * 32 + 32
      t.row = e ∧ t.idleRun = [] ∧ t.phase = s.phase ∧
      ∀ c : Fin 8, t.rf (R.IDLE_CUM_TICKS c.val) =
        (s.rf (R.IDLE_CUM_TICKS c.val) + SMap.get (fun _ => 0) (s.passTo e).idleRun c.val) % 2 ^ 64) := by
  have hrow := s.passTo_row (s.row / 32 * 32 + 32)
  generalize he : s.row / 32 * 32 + 32 = e at hrow
  have hexec := exec_idleCumPeriod hon hplan
  obtain ⟨l, hl⟩ := State.serveWaiting_quiet (State.advance_slotsQuiet hquiet e)
  have hpass : s.advance e = s.passTo e := if_neg fun h => htail h.1
  rw [he, hl, hpass] at hexec
  have hled : Does 34427371520 s ((s.passTo e).setLed l) :=
    (State.passTo_does s e (by decide) (Does.rfl' _ s)).trans ((State.setLed_does _ l).mono (by decide))
  have hflush : Does 67174400 ((s.passTo e).setLed l) ((s.passTo e).setLed l).flushIdle := State.flushIdle_does _ (by decide) (Does.rfl' _ _)
  have hdoes : Does 34427437056 s ((s.passTo e).setLed l).flushIdle := (hled.mono (by decide)).trans (hflush.mono (by decide))
  rw [State.mapProgress_idle ((congrArg TierSt.cmd (hdoes.frame .tier (by decide))).trans hcmd)] at hexec
  refine Runs.of hexec hdoes (by decide) ⟨(State.flushIdle_row _).trans (hrow.trans (by omega)), rfl, hdoes.rf _ (by decide), fun c => ?_⟩
  rw [State.flushIdle_ticks]
  show ((s.passTo e).rf _ + _) % _ = _
  rw [State.passTo_rf]
  rfl

end

end Sys2Proof.Machine
end

section
/-! SUPPORT. O18: the clears of the cumulative counters, and rounds, pauses and clears together (R132, R231, R252, R254, R404, R417). -/

namespace Sys2Proof.Machine

/-- A write that sets the lowest bit of a register sets the CLEAR that lies there. -/
theorem Wr.get_clear (v : BitVec 64) {f : Fld} (hlo : f.lo = 0) (hw : f.w = 1) : (Wr.full .host (v ||| 1).toNat).get .host f = 1 := by
  rw [Wr.get_full rfl (by omega), hlo, hw, bitsOf_or_one]

section
variable (v : BitVec 64) {s : State} (hreach : s.reach .host = true)
include hreach

/-- A clear waits for the bind-off, noted in the step and in CLEAR_PENDING, in a step or while figures are due; else it zeroes its counters at
once. The three clears are this one: `off` is the control register, `clear` and `pend` its CLEAR and CLEAR_PENDING, `note` what the step keeps,
`f` the counters. -/
theorem clear_settles {i : Instr} {l : List Part} (off m : Nat) {n : Nat} {clear pend : Fld} {note : StepSt → StepSt} {f : Nat → Fld}
    (hexec : exec i s = .next (if s.reach .host then
      let t := s.regWrite off (Wr.full .host (v ||| 1).toNat)
      if (Wr.full .host (v ||| 1).toNat).get .host clear = 1 then
        if t.inStep || t.step.figDue then ({ t with step := note t.step }).set pend 1 else t.forEach (upTo n) (fun t k => t.set (f k) 0)
      else t
    else s))
    (hdoes : ∀ t, exec i s = .next t → Does (m + 2 ^ 31) s t) (hl : Part.covers l (m + 2 ^ 31) = true) (hclear : clear.lo = 0 ∧ clear.w = 1)
    (hpend : pend.w = 1) (hb : m.testBit (blockOf off) = true) (hm : subMask 536895488 m = true) (h4 : m.testBit 4 = false)
    (h31 : m.testBit 31 = false) :
    Runs i s l (fun t => ((s.inStep || s.step.figDue) = true → t.step = note s.step ∧ t.rf pend = 1) ∧
      ((s.inStep || s.step.figDue) = false → t.step = s.step ∧ ∀ k : Fin n, t.rf (f k.val) = 0)) := by
  obtain ⟨t, ht⟩ : ∃ t, exec i s = .next t := ⟨_, hexec⟩
  refine Runs.of ht (hdoes t ht) hl ?_
  obtain rfl := Host.Outcome.next.inj (hexec.symm.trans ht)
  rw [if_pos hreach, if_pos (Wr.get_clear v hclear.1 hclear.2), s.regWrite_heldBack off m _ hb hm h4 h31]
  have hstep : (s.regWrite off (Wr.full .host (v ||| 1).toNat)).step = s.step :=
    (State.regWrite_does s off _ hb hm (Does.rfl' m s)).frame .step h31
  cases s.inStep || s.step.figDue with
  | true => exact ⟨fun _ => ⟨congrArg note hstep, (State.rf_set_same _ _ _).trans (by simp [hpend])⟩, nofun⟩
  | false => exact ⟨nofun, fun _ => ⟨(State.forEach_set_step _ f (fun _ _ => 0) _).trans hstep, fun k => State.forEach_set_zero _ f k.isLt⟩⟩

/-- GAUGE_CTRL.CLEAR (R132). -/
theorem gaugeClear_settles : Runs (.gaugeClear .host v) s [.faultRegs, .logRegs, .gaugeRegs, .logRound, .step] (fun t =>
    ((s.inStep || s.step.figDue) = true → t.step = { s.step with clearGauge := true } ∧ t.rf R.GAUGE_CTRL_CLEAR_PENDING = 1) ∧
    ((s.inStep || s.step.figDue) = false → t.step = s.step ∧ ∀ k : Fin 256, t.rf (R.GAUGE_CUM_COUNT k.val) = 0)) :=
  clear_settles v hreach 0x680000 536928256 (note := fun x => { x with clearGauge := true }) (clear := R.GAUGE_CTRL_CLEAR) rfl
    (execGaugeClear_does .host v s) (by decide) ⟨rfl, rfl⟩ rfl (by decide) (by decide) (by decide) (by decide)

/-- TENSION_CTRL.CLEAR (R254). -/
theorem tensionClear_settles : Runs (.tensionClear .host v) s [.faultRegs, .logRegs, .tensionRegs, .logRound, .step] (fun t =>
    ((s.inStep || s.step.figDue) = true → t.step = { s.step with clearTension := true } ∧ t.rf R.TENSION_CTRL_CLEAR_PENDING = 1) ∧
    ((s.inStep || s.step.figDue) = false → t.step = s.step ∧ ∀ k : Fin 16, t.rf (R.TENSION_CUM_COUNT k.val) = 0)) :=
  clear_settles v hreach 0x708000 537026560 (note := fun x => { x with clearTension := true }) (clear := R.TENSION_CTRL_CLEAR) rfl
    (execTensionClear_does .host v s) (by decide) ⟨rfl, rfl⟩ rfl (by decide) (by decide) (by decide) (by decide)

/-- IDLE_CTRL.CLEAR (R404). -/
theorem idleClear_settles : Runs (.idleClear .host v) s [.faultRegs, .logRegs, .idleRegs, .logRound, .step] (fun t =>
    ((s.inStep || s.step.figDue) = true → t.step = { s.step with clearIdle := true } ∧ t.rf R.IDLE_CTRL_CLEAR_PENDING = 1) ∧
    ((s.inStep || s.step.figDue) = false → t.step = s.step ∧ ∀ c : Fin 8, t.rf (R.IDLE_CUM_TICKS c.val) = 0)) :=
  clear_settles v hreach 0x700000 536961024 (note := fun x => { x with clearIdle := true }) (clear := R.IDLE_CTRL_CLEAR) rfl
    (execIdleClear_does .host v s) (by decide) ⟨rfl, rfl⟩ rfl (by decide) (by decide) (by decide) (by decide)

end

/-- Settles O18: pauses begin and end, rounds end, and counters are cleared. -/
theorem roundsPausesAndClears : Obligations.RoundsPausesAndClears :=
  ⟨⟨fun _ hon hplan hend hpeer hwant => pauseBegin_failover hon hplan hend hpeer hwant,
      fun _ _ _ hon hplan hend hpeer hwant hopen => pauseBegin_barrier hon hplan hend hpeer hwant hopen,
      fun _ _ hend hport => pauseEnd_failover hend hport, fun _ hend hpeer hwait => pauseEnd_barrier hend hpeer hwait⟩,
    ⟨fun _ hon hplan => roundEnd_ends hon hplan, fun _ hon hplan hquiet hcmd => roundEnd_ends_quiet hon hplan hquiet hcmd,
      fun _ hon hplan => idleCumPeriod_ends hon hplan,
      fun _ hon hplan htail hquiet hcmd => idleCumPeriod_ends_quiet hon hplan htail hquiet hcmd⟩,
    fun _ v hreach => gaugeClear_settles v hreach, fun _ v hreach => tensionClear_settles v hreach, fun _ v hreach => idleClear_settles v hreach⟩

end Sys2Proof.Machine
end

section
/-! SUPPORT. O42: pace requests counted, held and discarded (R247, R346). -/

namespace Sys2Proof.Machine

/-! ## The ledger of a line -/

theorem State.take_tookOf (s : State) (k n : Nat) : (s.take k n).tookOf k = s.tookOf k + n := by
  unfold State.take State.tookOf
  rw [SMap.get_put, if_pos rfl]

/-- Pace credits that return leave what the pools have taken up. -/
theorem State.returnPace_took (s : State) (p line k : Nat) : (s.returnPace p line k).led.took = s.led.took := by
  unfold State.returnPace
  rw [((s.gatherPace p line k).sendPcreds_shows p).1]
  unfold State.gatherPace
  extract_lets x spent
  split <;> rfl

/-- Requests that are discarded: their credits are given back, and the line is noted (R247). -/
theorem State.dropPace_shows (s : State) (p line k : Nat) (hk : k ≤ s.paceSpent p line) : (s.dropPace p line k).led.took = s.led.took ∧
    (s.dropPace p line k).gaveOf (poolPace p line) = s.gaveOf (poolPace p line) + k ∧
    (s.dropPace p line k).paceBad.contains (p * 16384 + line) = true := by
  have htook := s.returnPace_took p line k
  have hgave := (s.returnPace_shows p line k hk).1
  unfold State.dropPace
  extract_lets key u
  split
  · rename_i hbad
    exact ⟨htook, hgave, hbad⟩
  · have hlog : Does 536895488 ({ u with paceBad := NSet.ins key u.paceBad } : State) _ :=
      State.logEv_does _ stBAD_ARG 0x50 p line 0 (by decide) (Does.rfl' _ _)
    have hled := hlog.frame .ledgers (by decide)
    have hbad := hlog.frame .paceBad (by decide)
    refine ⟨(congrArg LedgerSt.took hled).trans htook, ?_, ?_⟩
    · unfold State.gaveOf at hgave ⊢
      rw [hled]
      exact hgave
    · rw [hbad]
      exact List.contains_iff_mem.mpr ((NSet.mem_ins _ _ _).mpr (Or.inl rfl))

/-- Requests that a context counts: PACE_RECV shows them, and no line is noted (R346). -/
theorem State.addPace_shows (s : State) (n k : Nat) : (s.addPace n k).led.took = s.led.took ∧ (s.addPace n k).paceBad = s.paceBad ∧
    (s.addPace n k).rf (R.STREAM_RUN_PACE_RECV n) = (s.rf (R.STREAM_RUN_PACE_RECV n) + k) % 2 ^ 16 := by
  have hsettle := (s.set (R.STREAM_RUN_PACE_RECV n) (s.rf (R.STREAM_RUN_PACE_RECV n) + k)).settlePace_does' n
  refine ⟨State.returnPace_took _ _ _ _, hsettle.frame .paceBad (by decide), (hsettle.rf _ ?_).trans (State.rf_set_same _ _ _)⟩
  rw [R.STREAM_RUN_PACE_RECV, streamRun_blk _ _ _ (by decide)]
  decide

/-! ## PACE -/

/-- Requests of a line that have come: the die has spent their credits. -/
def State.paceCome (s : State) (p line k : Nat) : State :=
  (s.setPort p { s.port p with pace := SMap.put (fun _ => 0) (s.port p).pace line (s.paceSpent p line + k) }).take (poolPace p line) k

section
variable {p : Fin 4} {line k : Nat} {s : State} (hports : s.ports.length = 4) (hup : s.portUp p.val = true) (hline : line < 16384) (hpos : 0 < k)
  (hk : k ≤ 65535) (hcredit : s.paceSpent p.val line + k ≤ s.rf (R.CDP_CREDIT_PACE_CREDITS p.val))

include hports in
theorem State.paceCome_port : (s.paceCome p.val line k).port p.val =
    { s.port p.val with pace := SMap.put (fun _ => 0) (s.port p.val).pace line (s.paceSpent p.val line + k) } :=
  (s.port_setPort p.val _).trans (if_pos (by rw [hports]; exact p.isLt))

include hports in
theorem State.paceCome_spent : (s.paceCome p.val line k).paceSpent p.val line = s.paceSpent p.val line + k := by
  unfold State.paceSpent
  rw [State.paceCome_port hports, SMap.get_put, if_pos rfl]
  rfl

theorem State.paceCome_took : (s.paceCome p.val line k).tookOf (poolPace p.val line) = s.tookOf (poolPace p.val line) + k :=
  State.take_tookOf _ _ _

/-- What becomes of requests that have come: in a step or a swatch the stream that binds the line counts them, between them they are held for the
stream that will bind it; any other requests are discarded (R247). -/
def State.placePace (s : State) (p line k : Nat) : State :=
  if !s.inStep && s.phase != phSWATCH then
    (match s.boundIn s.nextSet (p * 16384 + line) with
     | some _ => s.setPort p { s.port p with held := SMap.put (fun _ => 0) (s.port p).held line (SMap.get (fun _ => 0) (s.port p).held line + k) }
     | none => s.dropPace p line k)
  else match s.boundIn s.runSet (p * 16384 + line) with
    | none => s.dropPace p line k
    | some n => if s.sst n = ssARMED ∨ s.sst n = ssRUN ∨ s.sst n = ssWAIT then s.addPace n k else s.dropPace p line k

theorem State.placePace_running {s : State} {p line k : Nat} (hphase : s.inStep = true ∨ s.phase = phSWATCH) :
    (s.boundIn s.runSet (p * 16384 + line) = none → s.placePace p line k = s.dropPace p line k) ∧
    (∀ n, s.boundIn s.runSet (p * 16384 + line) = some n → s.placePace p line k =
      if s.sst n = ssARMED ∨ s.sst n = ssRUN ∨ s.sst n = ssWAIT then s.addPace n k else s.dropPace p line k) := by
  have hrun : (!s.inStep && s.phase != phSWATCH) = false := by
    rcases hphase with h | h
    · rw [h]
      rfl
    · rw [h]
      exact Bool.and_false _
  unfold State.placePace
  rw [hrun, if_neg Bool.false_ne_true]
  exact ⟨fun h => by rw [h], fun n h => by rw [h]⟩

theorem State.placePace_between {s : State} {p line k n : Nat} (hstep : s.inStep = false) (hswatch : s.phase ≠ phSWATCH)
    (hbound : s.boundIn s.nextSet (p * 16384 + line) = some n) : s.placePace p line k = s.setPort p { s.port p with
      held := SMap.put (fun _ => 0) (s.port p).held line (SMap.get (fun _ => 0) (s.port p).held line + k) } := by
  unfold State.placePace
  rw [hstep, bne_iff_ne.mpr hswatch, hbound]
  rfl

include hup hline hpos hk hcredit

/-- A PACE that its credits cover comes, and finds its place (R247, R346). -/
theorem exec_pace : exec (.pace p line k) s = .next ((s.paceCome p.val line k).placePace p.val line k) := by
  have hcredit' : SMap.get (fun _ => 0) (s.port p.val).pace line + k ≤ s.rf (R.CDP_CREDIT_PACE_CREDITS p.val) := hcredit
  exact congrArg Host.Outcome.next ((if_neg (by rw [hup]; decide)).trans ((if_neg (by omega)).trans (if_neg (by omega))))

include hports

/-- In a step or a swatch requests count for the stream of the running set that binds their line, and are discarded where none does (R247). -/
theorem pace_runs (hphase : s.inStep = true ∨ s.phase = phSWATCH) :
    Runs (.pace p line k) s [.streamRegs, .cdpRegs, .faultRegs, .logRegs, .sent, .paceBad, .logRound, .ledgers, .ports] (fun t =>
      t.tookOf (poolPace p.val line) = s.tookOf (poolPace p.val line) + k ∧
      (∀ n, s.boundIn s.runSet (p.val * 16384 + line) = some n → (s.sst n = ssARMED ∨ s.sst n = ssRUN ∨ s.sst n = ssWAIT) →
        t.rf (R.STREAM_RUN_PACE_RECV n) = (s.rf (R.STREAM_RUN_PACE_RECV n) + k) % 2 ^ 16 ∧ t.paceBad = s.paceBad) ∧
      (s.boundIn s.runSet (p.val * 16384 + line) = none → t.paceBad.contains (p.val * 16384 + line) = true ∧
        t.gaveOf (poolPace p.val line) = s.gaveOf (poolPace p.val line) + k)) := by
  have hexec := exec_pace hup hline hpos hk hcredit
  refine Runs.of hexec (execPace_does p line k s _ hexec) (by decide) ?_
  obtain ⟨hnone, hsome⟩ := State.placePace_running (s := s.paceCome p.val line k) (p := p.val) (line := line) (k := k) hphase
  have htook : ∀ t : State, t.led.took = (s.paceCome p.val line k).led.took →
      t.tookOf (poolPace p.val line) = s.tookOf (poolPace p.val line) + k := fun t ht =>
    (congrArg (fun l => SMap.get (fun _ => 0) l (poolPace p.val line)) ht).trans State.paceCome_took
  obtain ⟨hdropTook, hdropGave, hdropBad⟩ := (s.paceCome p.val line k).dropPace_shows p.val line k
    (by rw [State.paceCome_spent hports]; exact Nat.le_add_left _ _)
  cases hbound : s.boundIn s.runSet (p.val * 16384 + line) with
  | none =>
    rw [hnone hbound]
    exact ⟨htook _ hdropTook, nofun, fun _ => ⟨hdropBad, hdropGave⟩⟩
  | some n =>
    rw [hsome n hbound]
    split
    · obtain ⟨haddTook, haddBad, haddRecv⟩ := (s.paceCome p.val line k).addPace_shows n k
      refine ⟨htook _ haddTook, fun m hm _ => ?_, nofun⟩
      obtain rfl := Option.some.inj hm
      exact ⟨haddRecv, haddBad⟩
    · rename_i hidle
      refine ⟨htook _ hdropTook, fun m hm hm' => ?_, nofun⟩
      obtain rfl := Option.some.inj hm
      exact absurd hm' hidle

/-- Between steps and swatches requests are held for the stream of the next set that binds their line (R247). -/
theorem pace_holds {n : Nat} (hstep : s.inStep = false) (hswatch : s.phase ≠ phSWATCH)
    (hbound : s.boundIn s.nextSet (p.val * 16384 + line) = some n) :
    Runs (.pace p line k) s [.ledgers, .ports] (fun t =>
      SMap.get (fun _ => 0) (t.port p.val).held line = SMap.get (fun _ => 0) (s.port p.val).held line + k ∧
      SMap.get (fun _ => 0) (t.port p.val).pace line = SMap.get (fun _ => 0) (s.port p.val).pace line + k) := by
  have hexec := exec_pace hup hline hpos hk hcredit
  rw [State.placePace_between (s := s.paceCome p.val line k) hstep hswatch hbound] at hexec
  have hdoes : Does 103079215104 s (s.paceCome p.val line k) :=
    State.take_does _ _ _ (by decide) (State.setPort_does s _ _ (by decide) (Does.rfl' _ s))
  refine Runs.of hexec (State.setPort_does _ _ _ (by decide) hdoes) (by decide) ?_
  have hlen : (s.paceCome p.val line k).ports.length = 4 := (List.length_set ..).trans hports
  rw [State.port_setPort, if_pos (by rw [hlen]; exact p.isLt), State.paceCome_port hports]
  exact ⟨(SMap.get_put _ _ _ _ _).trans (if_pos rfl), (SMap.get_put _ _ _ _ _).trans (if_pos rfl)⟩

end

end Sys2Proof.Machine
end

section
/-! SUPPORT. O42: signals, fences and confirmations of a die, and its messages of pace and order together (R346, R347, R348, R350, R377). -/

namespace Sys2Proof.Machine

/-! ## Credits -/

/-- Credits that return to the die of a port that is up go in a message of their own (R339, R350). -/
theorem State.returnCr_up {s : State} {p : Nat} (hup : s.portUp p = true) (h d a : Nat) : s.returnCr p h d a =
    (((s.emit (.kpp p 0 h (d + 65536 * a) [])).give (poolIn p 0) h).give (poolIn p 1) d).give (poolIn p 2) a := if_pos hup

/-- A header of a message that has been served returns to the die: all that changes is what is sent, and the ledgers. -/
theorem State.giveBack_header {s : State} {p : Nat} (hup : s.portUp p = true) {r : DieReq} (hstale : r.stale = false) :
    Does 34363932672 s (s.giveBack p r 1 0 0) ∧ (s.giveBack p r 1 0 0).sent = s.sent ++ [.kpp p 0 1 0 []] ∧
    (s.giveBack p r 1 0 0).bar = s.bar := by
  unfold State.giveBack
  rw [hstale, if_neg Bool.false_ne_true, State.returnCr_up hup]
  exact ⟨State.give_does _ _ _ (by decide) (State.give_does _ _ _ (by decide) (State.give_does _ _ _ (by decide)
    (State.emit_does s _ (by decide) (Does.rfl' _ s)))), rfl, rfl⟩

/-! ## A message that nothing waits before -/

@[simp] theorem State.setLed_sent (s : State) (l : LedgerSt) : (s.setLed l).sent = s.sent := rfl
@[simp] theorem State.setLed_bar (s : State) (l : LedgerSt) : (s.setLed l).bar = s.bar := rfl
@[simp] theorem State.setLed_port (s : State) (l : LedgerSt) (p : Nat) : (s.setLed l).port p = s.port p := rfl
@[simp] theorem State.setLed_dieBound (s : State) (l : LedgerSt) : (s.setLed l).dieBound = s.dieBound := rfl

theorem Does.portUp_eq {m : Nat} {s t : State} (h : Does m s t) (h11 : m.testBit 11 = false) (p : Nat) : t.portUp p = s.portUp p := by
  unfold State.portUp
  rw [h.rf _ (by rw [R.CDP_STATUS_STATE, Fld.blk_elem _ _ _ _ _ _ 11 (by decide) (by decide) (by decide) (by decide), h11])]

section
variable {s : State} {p : Fin 4} (hup : s.portUp p.val = true) (hq : (s.port p.val).queue = []) (hf : (s.port p.val).facks = [])
  (hcredit : s.overCredit p.val 0 = false)

include hq hf in
/-- A message comes with its credit, and what waits in the port's buffer is served before it: where nothing does, the ledgers alone change. -/
theorem State.arriveMsg_served : ∃ l, (s.arriveMsg p.val 0 0).serveDue p.val = s.setLed l := by
  obtain ⟨l, hl⟩ : ∃ l, s.arriveMsg p.val 0 0 = s.setLed l := ⟨_, rfl⟩
  rw [hl, State.serveDue_empty (s := s.setLed l) hq hf]
  exact ⟨_, rfl⟩

/-! ## SIG -/

/-- Generations that complete leave the counts of the ports' signals. -/
theorem State.settleBarrier_portArr (s : State) (id fuel : Nat) : (s.settleBarrier id fuel).bar.portArr = s.bar.portArr := by
  induction fuel generalizing s with
  | zero => rfl
  | succ fuel ih =>
    have hann : ∀ (v : State) (g : Nat), (v.announceGen id g).bar = v.bar := fun v g =>
      (State.announceGen_does (μ := 2474442252416) v id g (by decide) (Does.rfl' _ v)).frame .barriers (by decide)
    unfold State.settleBarrier
    dsimp only
    split
    · refine (ih _).trans ?_
      split
      · rw [hann]
      · rfl
    · rfl

/-- The next arrival of a port registered at an ID, at the generation of its number (R249, R347). -/
theorem State.partyArrives_shows (s : State) (p id : Nat) :
    let n := SMap.get (fun _ => 0) s.bar.portArr (p * 4096 + id) + 1
    SMap.get (fun _ => 0) (s.partyArrives p id).bar.portArr (p * 4096 + id) = n ∧ (s.partyArrives p id).barCount id n = s.barCount id n + 1 := by
  intro n
  refine ⟨?_, (State.arrive_shows _ id n).2.1⟩
  unfold State.partyArrives State.arrive
  dsimp only
  rw [State.settleBarrier_portArr, SMap.get_put, if_pos rfl]

/-- A signal as it stands in a port's buffer. -/
def sigReq (id : Nat) : DieReq := ⟨3, id, 0, 0, 0, [], [], 0, false⟩

include hup hq hf hcredit

theorem exec_sigFromDie {id : Nat} (hid : id < 4096) :
    ∃ l, exec (.sigFromDie p id) s = .next (((s.setLed l).partyArrives p.val id).giveBack p.val (sigReq id) 1 0 0) := by
  obtain ⟨l, hl⟩ := State.arriveMsg_served hq hf
  refine ⟨l, congrArg Host.Outcome.next ((if_neg (by rw [hup]; decide)).trans ((if_neg (by rw [hcredit]; decide)).trans
    ((if_neg (Nat.not_le.mpr hid)).trans ?_)))⟩
  dsimp only
  rw [hl, State.writesQueued, State.setLed_port, hq]
  rfl

/-- SIG registers one arrival of its port, and its credit returns (R347, R350). -/
theorem sigFromDie_arrives {id : Nat} (hid : id < 4096) :
    Runs (.sigFromDie p id) s [.tierRegs, .faultRegs, .logRegs, .sent, .logRound, .ledgers, .tier, .barriers, .host] (fun t =>
      let n := SMap.get (fun _ => 0) s.bar.portArr (p.val * 4096 + id) + 1
      SMap.get (fun _ => 0) t.bar.portArr (p.val * 4096 + id) = n ∧ t.barCount id n = s.barCount id n + 1 ∧
      t.sent.getLast? = some (.kpp p.val 0 1 0 [])) := by
  obtain ⟨l, hexec⟩ := exec_sigFromDie hup hq hf hcredit hid
  have hdoes : Does 3608313618560 s ((s.setLed l).partyArrives p.val id) :=
    State.partyArrives_does _ _ _ (by decide) ((s.setLed_does l).mono (by decide))
  obtain ⟨harr, hcount⟩ := (s.setLed l).partyArrives_shows p.val id
  generalize (s.setLed l).partyArrives p.val id = u at hexec hdoes harr hcount
  obtain ⟨hback, hsent, hbar⟩ := State.giveBack_header ((hdoes.portUp_eq (by decide) p.val).trans hup) (r := sigReq id) rfl
  refine Runs.of hexec (hdoes.trans (hback.mono (by decide))) (by decide) ⟨?_, ?_, ?_⟩
  · rw [hbar]
    exact harr
  · unfold State.barCount at hcount ⊢
    rw [hbar]
    exact hcount
  · rw [hsent]
    exact List.getLast?_concat

/-! ## FENCE -/

/-- A FENCE as it stands in a port's buffer. -/
def fenceReq (tag : Nat) : DieReq := ⟨4, tag, 0, 0, 0, [], [], 0, false⟩

theorem exec_fenceFromDie {tag : Nat} (htag : tag < 65536) (hfree : s.dieBound = false) :
    ∃ l, exec (.fenceFromDie p tag) s = .next (((s.setLed l).emit (.kpp p.val kFACK tag stOK [])).giveBack p.val (fenceReq tag) 1 0 0) := by
  obtain ⟨l, hl⟩ := State.arriveMsg_served hq hf
  refine ⟨l, congrArg Host.Outcome.next ((if_neg (by rw [hup]; decide)).trans ((if_neg (by rw [hcredit]; decide)).trans
    ((if_neg (Nat.not_le.mpr htag)).trans ?_)))⟩
  unfold State.takeReq
  dsimp only
  rw [hl, State.setLed_dieBound, hfree]
  rfl

/-- A FENCE that nothing waits before is answered with a FACK of its TAG, and its credit returns (R348, R350). -/
theorem fenceFromDie_answers {tag : Nat} (htag : tag < 65536) (hfree : s.dieBound = false) :
    Runs (.fenceFromDie p tag) s [.sent, .ledgers] (fun t => t.sent = s.sent ++ [.kpp p.val kFACK tag stOK [], .kpp p.val 0 1 0 []]) := by
  obtain ⟨l, hexec⟩ := exec_fenceFromDie hup hq hf hcredit htag hfree
  have hanswer : Does 34363932672 s ((s.setLed l).emit (.kpp p.val kFACK tag stOK [])) :=
    State.emit_does _ _ (by decide) ((s.setLed_does l).mono (by decide))
  obtain ⟨hback, hsent, -⟩ := State.giveBack_header ((hanswer.portUp_eq (by decide) p.val).trans hup) (r := fenceReq tag) rfl
  refine Runs.of hexec (hanswer.trans hback) (by decide) ?_
  rw [hsent, State.emit_sent, State.setLed_sent, List.append_assoc]
  rfl

end

/-! ## FACK -/

/-- A status event of a stream leaves STATUS at its rank or above (R226). -/
theorem State.note_rank (s : State) (n st cause : Nat) (hst : st < 2 ^ 8) :
    statusRank st ≤ statusRank ((s.note n st cause).rf (R.STREAM_RUN_STATUS n)) := by
  by_cases hrank : statusRank (s.rf (R.STREAM_RUN_STATUS n)) < statusRank st
  · rw [s.note_status n st cause hrank, Nat.mod_eq_of_lt hst]
  · have hstatus : s.strStatus n st = s := if_neg hrank
    have hkeep : (s.note n st cause).rf (R.STREAM_RUN_STATUS n) = s.rf (R.STREAM_RUN_STATUS n) := by
      unfold State.note
      dsimp only
      rw [hstatus]
      split
      · rfl
      · refine (State.raiseFlag_does (μ := 16777232) s cause (by decide) (Does.rfl' _ s)).rf _ ?_
        rw [R.STREAM_RUN_STATUS, streamRun_blk _ _ _ (by decide)]
        decide
    rw [hkeep]
    exact Nat.not_lt.mp hrank

/-- The FACK of a stream's FENCE has come: its port waits for one less, and the stream notes what its slots have carried. -/
def State.fackCome (s : State) (p tag : Nat) (used : List (Nat × Nat)) : State :=
  (s.setPort p { s.port p with fences := (s.port p).fences.erase tag }).useSlots tag used

section
variable {s : State} {p : Fin 4} {tag : Nat}

/-- A stream that notes what it has taken of its slots is bound to them as before. -/
theorem State.useSlots_slotBound (s : State) (n : Nat) (used : List (Nat × Nat)) : (s.useSlots n used).slotBound n = s.slotBound n := by
  have hdoes := s.useSlots_does' n used
  unfold State.slotBound State.sst
  rw [(s.useSlots_str n used).2, hdoes.slotTime_eq (by decide) (by decide) (by decide),
    hdoes.rf _ (by rw [R.STREAM_RUN_STATE, streamRun_blk _ _ _ (by decide)]; decide)]

/-- What comes with a FACK leaves registers and streams, and HOST's slots too where the stream is a plan stream. -/
theorem State.fackCome_shows (hports : s.ports.length = 4) {used : List (Nat × Nat)} (hused : (s.str tag).host = false → used = (s.str tag).used) :
    Does 2817498546176 s (s.fackCome p.val tag used) ∧ (s.fackCome p.val tag used).regs = s.regs ∧
    (s.fackCome p.val tag used).str tag = s.str tag ∧
    (s.fackCome p.val tag used).port p.val = { s.port p.val with fences := (s.port p.val).fences.erase tag } ∧
    ((s.str tag).host = false → (s.fackCome p.val tag used).host = s.host) := by
  have hport : (s.setPort p.val { s.port p.val with fences := (s.port p.val).fences.erase tag }).port p.val =
      { s.port p.val with fences := (s.port p.val).fences.erase tag } := (s.port_setPort _ _).trans (if_pos (by rw [hports]; exact p.isLt))
  have hdoes : Does 68719476736 s (s.setPort p.val { s.port p.val with fences := (s.port p.val).fences.erase tag }) :=
    State.setPort_does s _ _ (by decide) (Does.rfl' _ s)
  have hregs := s.setPort_regs p.val { s.port p.val with fences := (s.port p.val).fences.erase tag }
  have hstrs := s.setPort_strs p.val { s.port p.val with fences := (s.port p.val).fences.erase tag }
  have hhost := s.setPort_host p.val { s.port p.val with fences := (s.port p.val).fences.erase tag }
  unfold State.fackCome
  generalize s.setPort p.val { s.port p.val with fences := (s.port p.val).fences.erase tag } = v at *
  have hstr : v.str tag = s.str tag := by unfold State.str; rw [hstrs]
  have hslots := v.useSlots_does' tag used
  refine ⟨(hdoes.mono (by decide)).trans (hslots.mono (by decide)), (v.useSlots_regs _ _).trans hregs, ?_, ?_, fun hplan => ?_⟩
  · rw [v.useSlots_record, hstr]
    cases hplan : (s.str tag).host
    · rw [if_neg Bool.false_ne_true, hused hplan]
    · rw [if_pos rfl]
  · unfold State.port at hport ⊢
    rw [hslots.frame .ports (by decide)]
    exact hport
  · unfold State.useSlots
    rw [hstr, hplan, if_neg Bool.false_ne_true]
    exact hhost

variable (hports : s.ports.length = 4) (hup : s.portUp p.val = true) (hfence : (s.port p.val).fences.contains tag = true)
  (hfree : s.slotBound tag = false)

/-- A stream that is not bound to slots of its own is never without. -/
theorem State.claimFor_free (hfree : s.slotBound tag = false) (l : List Load) :
    ∃ c, s.claimFor tag l = some c ∧ ((s.str tag).host = false → c.1 = (s.str tag).used) := by
  unfold State.claimFor
  rw [hfree, if_neg Bool.false_ne_true]
  cases (s.str tag).host with
  | false => exact ⟨_, rfl, fun _ => rfl⟩
  | true =>
    split
    · exact ⟨_, rfl, nofun⟩
    · exact ⟨_, rfl, nofun⟩

include hup hfence hfree in
theorem exec_fackFromDie (st : Nat) : ∃ used, ((s.str tag).host = false → used = (s.str tag).used) ∧
    exec (.fackFromDie p tag st) s = .next ((s.fackCome p.val tag used).takeFack p.val (tag, st, 0)) := by
  obtain ⟨x, hx⟩ : ∃ x, { s.port p.val with fences := (s.port p.val).fences.erase tag } = x := ⟨_, rfl⟩
  have hfree' : (s.setPort p.val x).slotBound tag = false := hfree
  obtain ⟨c, hc, hused⟩ := State.claimFor_free hfree' (ownedBy tag [(0x3000 + p.val, 1)])
  refine ⟨c.1, hused, congrArg Host.Outcome.next ((if_neg (by rw [hup]; decide)).trans ((if_neg (by rw [hfence]; decide)).trans ?_))⟩
  dsimp only
  rw [hx, hc]
  dsimp only
  rw [State.useSlots_slotBound, hfree', State.fackCome, hx]
  rfl

/-- A confirmation taken: the stream has one side less to wait for. -/
theorem State.takeFack_shows (s : State) (p tag st : Nat) : Does 549772591216 s (s.takeFack p (tag, st, 0)) ∧
    (s.takeFack p (tag, st, 0)).str tag = { s.str tag with confirm := (s.str tag).confirm.filter (fun y => y != 100 + p) } ∧
    ((st = stOK ∨ (s.str tag).confirm.contains (100 + p) = false) → OnlyWrites [] s (s.takeFack p (tag, st, 0))) ∧
    (st ≠ stOK → (s.str tag).confirm.contains (100 + p) = true →
      statusRank stFAR_FAULT ≤ statusRank ((s.takeFack p (tag, st, 0)).rf (R.STREAM_RUN_STATUS tag))) := by
  have hconfirmed : (s.confirmed tag (100 + p)).str tag = { s.str tag with confirm := (s.str tag).confirm.filter (fun y => y != 100 + p) } :=
    (State.setStr_str _ _ _ _).trans (if_pos rfl)
  have hdoes : Does 549755813888 s (s.confirmed tag (100 + p)) := State.confirmed_does s _ _ (by decide) (Does.rfl' _ s)
  unfold State.takeFack
  dsimp only
  split
  · rename_i hok
    refine ⟨hdoes.mono (by decide), hconfirmed, fun _ => OnlyWrites.same rfl, fun hst hwait => ?_⟩
    rcases hok with h | h
    · exact absurd h hst
    · exact absurd (hwait.symm.trans h) (by decide)
  · rename_i hfail
    have hfault : Does 16777328 (s.confirmed tag (100 + p)) ((s.confirmed tag (100 + p)).farFault tag) :=
      State.farFault_does _ _ (by decide) (Does.rfl' _ _)
    refine ⟨(hdoes.mono (by decide)).trans (hfault.mono (by decide)), ?_, fun h => absurd h hfail, fun _ _ => State.note_rank _ _ _ _ (by decide)⟩
    rw [← hconfirmed]
    unfold State.str
    rw [hfault.frame .streams (by decide)]

include hports hup hfence hfree in
/-- A FACK confirms the FENCE of its stream, or makes the stream FAR_FAULT (R348, R377). -/
theorem fackFromDie_confirms (st : Nat) :
    Runs (.fackFromDie p tag st) s [.stepRegs, .streamRegs, .hqRegs, .flagOut, .ports, .streams, .host] (fun t =>
      ((s.str tag).host = false → t.host = s.host) ∧
      t.port p.val = { s.port p.val with fences := (s.port p.val).fences.erase tag } ∧
      t.str tag = { s.str tag with confirm := (s.str tag).confirm.filter (fun y => y != 100 + p.val) } ∧
      ((st = stOK ∨ (s.str tag).confirm.contains (100 + p.val) = false) → OnlyWrites [] s t) ∧
      (st ≠ stOK → (s.str tag).confirm.contains (100 + p.val) = true →
        statusRank stFAR_FAULT ≤ statusRank (t.rf (R.STREAM_RUN_STATUS tag)))) := by
  obtain ⟨used, hused, hexec⟩ := exec_fackFromDie hup hfence hfree st
  obtain ⟨hcome, hregs, hstr, hport, hhost⟩ := State.fackCome_shows (p := p) hports hused
  obtain ⟨htake, hconfirm, hquiet, hrank⟩ := (s.fackCome p.val tag used).takeFack_shows p.val tag st
  rw [hstr] at hconfirm hquiet hrank
  refine Runs.of (m := 2817515323504) hexec ((hcome.mono (by decide)).trans (htake.mono (by decide))) (by decide)
    ⟨fun h => ?_, ?_, hconfirm, fun h => ?_, hrank⟩
  · exact (htake.frame .host (by decide)).trans (hhost h)
  · unfold State.port at hport ⊢
    rw [htake.frame .ports (by decide)]
    exact hport
  · exact (OnlyWrites.same hregs).trans (hquiet h)

end

/-- Settles O42: PACE, SIG, FENCE and FACK of a die. -/
theorem dieSync : Obligations.DieSync :=
  ⟨fun _ _ _ _ hports hup hline hpos hk hcredit hphase _ => pace_runs hports hup hline hpos hk hcredit hphase,
    fun _ _ _ _ _ hports hup hline hpos hk hcredit hstep hswatch hbound => pace_holds hports hup hline hpos hk hcredit hstep hswatch hbound,
    fun _ _ _ hup hq hf hcredit hid => sigFromDie_arrives hup hq hf hcredit hid,
    fun _ _ _ hup hq hf hcredit htag hfree => fenceFromDie_answers hup hq hf hcredit htag hfree,
    fun _ _ st _ hports hup hfence hfree => fackFromDie_confirms hports hup hfence hfree st⟩

end Sys2Proof.Machine
end

section
/-! SUPPORT. O7: bytes of memory set to zero, and memory in its canonical form (R255, R256). -/

namespace Sys2Proof.Machine

/-- An unlisted byte is zero where no uninstall has lost it: on a device whose HBM is kept, and beside HBM. -/
theorem State.dflt_zero (s : State) {a : Nat} (h : s.lostHbm = none ∨ 0x7C00000000 ≤ a) : s.dflt a = 0 := by
  unfold State.dflt
  split
  · rename_i k hk
    have ha : ¬a < 0x7C00000000 := by
      rcases h with h | h
      · rw [hk] at h; cases h
      · omega
    rw [if_neg (by simp [ha])]
    rfl
  · rfl

/-- A zeroed range reads zero, and the other bytes as before. -/
theorem State.byteAt_zeroRange (s : State) (da n a : Nat) :
    (s.zeroRange da n).byteAt a = if da ≤ a ∧ a < da + n then 0 else s.byteAt a := by
  have hdrop : ∀ marks, ({ s with mem := s.mem.filter (fun (c : Host.Cell) => decide (c.1 < da ∨ da + n ≤ c.1)), marks := marks } : State).byteAt a =
      if da ≤ a ∧ a < da + n then s.dflt a else s.byteAt a := fun marks => by
    refine (SMap.get_filter s.dflt s.mem (fun k => decide (k < da ∨ da + n ≤ k)) a).trans ?_
    by_cases hin : da ≤ a ∧ a < da + n
    · rw [if_pos hin, if_neg (by simp; omega)]
    · rw [if_neg hin, if_pos (by simp; omega)]
      rfl
  unfold State.zeroRange
  dsimp only
  split
  · rw [State.byteAt_setBytes, List.length_replicate, hdrop]
    by_cases hin : da ≤ a ∧ a < da + n
    · rw [if_pos hin, if_pos hin, List.getD_eq_getElem _ _ (by simp; omega), List.getElem_replicate]
    · rw [if_neg hin, if_neg hin, if_neg hin]
  · rename_i hkept
    rw [hdrop]
    by_cases hin : da ≤ a ∧ a < da + n
    · have hzero : s.lostHbm = none ∨ 0x7C00000000 ≤ a := by
        cases hl : s.lostHbm with
        | none => exact .inl rfl
        | some k => exact .inr (by simp [hl] at hkept; omega)
      rw [if_pos hin, if_pos hin, s.dflt_zero hzero]
    · rw [if_neg hin, if_neg hin]

/-- Bytes written leave memory in its canonical form. -/
theorem State.setBytes_wf {s : State} (h : Memory.wf s) (da : Nat) (l : List Byte) : Memory.wf (s.setBytes da l) := by
  induction l generalizing s da with
  | nil => exact h
  | cons b l ih => exact ih (s := s.setByte da b) (SMap.wf_put s.dflt s.mem da b h) (da + 1)

/-- Bytes set to zero leave memory in its canonical form. -/
theorem State.zeroRange_wf {s : State} (h : Memory.wf s) (da n : Nat) : Memory.wf (s.zeroRange da n) := by
  have hdrop : ∀ marks, Memory.wf { s with mem := s.mem.filter (fun (c : Host.Cell) => decide (c.1 < da ∨ da + n ≤ c.1)), marks := marks } :=
    fun _ => SMap.wf_filter s.dflt s.mem _ h
  unfold State.zeroRange
  dsimp only
  split
  · exact State.setBytes_wf (hdrop _) da _
  · exact hdrop _

/-- Settles O7: writes and zeroed ranges byte by byte; what a zeroed range no longer lists is zero by default, or is written where an uninstall has
lost it. -/
theorem memoryReads : Obligations.MemoryReads :=
  ⟨State.byteAt_setBytes, State.byteAt_zeroRange, fun _ da n l h => ⟨State.setBytes_wf h da l, State.zeroRange_wf h da n⟩⟩

end Sys2Proof.Machine
end

section
/-! SUPPORT. O34, R282 and R259: lookups of the map, and entries of the map memory that are lost. -/

namespace Sys2Proof.Machine

/-! ## What leaves the entries of the map -/

/-- A write of registers below the directory leaves the entry of every page (R258). -/
theorem OnlyWrites.entOf {s t : State} {fs : List Fld} (h : OnlyWrites fs s t) (ht : t.tier = s.tier) (hfs : ∀ f ∈ fs, f.key / 64 < 0x340000)
    (page : Nat) : t.entOf page = s.entOf page :=
  State.entOf_congr page ht fun i lo w hlo => h _ fun f hf hkey => absurd (hkey ▸ hfs f hf) (by
    show ¬((0x340000 + 0x8 * (i % 16384)) * 64 + lo) / 64 < 0x340000
    omega)

/-- A write of a register of TIER below the directory leaves the entry of every page, and its owner. -/
theorem State.regWrite_pages (s : State) {off v : Nat} {r : RegRow} (hr : findReg off = some r)
    (hrow : r.fields.all (fun f => decide (0 < f.w ∧ f.lo + f.w ≤ 64)) = true) (hblk : Nat.testBit 536895616 (blockOf off) = true)
    (hoff : off < 0x340000) (page : Nat) :
    (s.regWrite off (Wr.full .host v)).entOf page = s.entOf page ∧ (s.regWrite off (Wr.full .host v)).pageOwner page = s.pageOwner page := by
  have hd : Does 536895616 s (s.regWrite off (Wr.full .host v)) := State.regWrite_does s _ _ hblk (by decide) (Does.rfl' _ s)
  refine ⟨State.entOf_congr page (hd.frame .tier (by decide)) fun i lo w hlo => ?_, State.pageOwner_congr (hd.frame .chart (by decide)) page⟩
  have hb := tierDir_blk i lo w hlo
  exact State.regWrite_other s _ hr hrow (Fld.notLog_of_blk (by rw [hb]; decide) (by rw [hb]; decide)) (tierDir_key_ne i lo w _ hlo hoff)

/-! ## Lookups -/

theorem State.lookup_only (s : State) (page : Nat) : OnlyWrites [R.TIER_LOOKUP_ENTRY_STATE, R.TIER_LOOKUP_ENTRY_CLASS, R.TIER_LOOKUP_ENTRY_HOSTCACHE,
    R.TIER_LOOKUP_ENTRY_BIAS, R.TIER_LOOKUP_ENTRY_LENT, R.TIER_LOOKUP_ENTRY_DA_PAGE] s (s.lookup page) :=
  ((((((OnlyWrites.refl s).set _ _).set _ _).set _ _).set _ _).set _ _).set _ _

/-- A lookup of a page that is not mapped shows that, and neither bias nor lending. -/
theorem State.lookup_unmapped {s : State} {page : Nat} (h : s.entOf page = none) : (s.lookup page).rf R.TIER_LOOKUP_ENTRY_STATE = 0 ∧
    (s.lookup page).rf R.TIER_LOOKUP_ENTRY_BIAS = 0 ∧ (s.lookup page).rf R.TIER_LOOKUP_ENTRY_LENT = 0 := by
  unfold State.lookup
  dsimp only
  rw [h]
  refine ⟨?_, ?_, ?_⟩
  · iterate 5 refine (State.rf_set_of_ne _ _ _ _ (by decide)).trans ?_
    exact State.rf_set_same _ _ _
  · iterate 2 refine (State.rf_set_of_ne _ _ _ _ (by decide)).trans ?_
    exact State.rf_set_same _ _ _
  · refine (State.rf_set_of_ne _ _ _ _ (by decide)).trans ?_
    exact State.rf_set_same _ _ _

/-- A lookup of a mapped page shows whether it moves, its class and the DA page that serves it. -/
theorem State.lookup_mapped {s : State} {page : Nat} {e : Ent} (h : s.entOf page = some e) (hsel : s.selPage page false = page) :
    (s.lookup page).rf R.TIER_LOOKUP_ENTRY_STATE = (if s.tier.migTo.any (fun m => m.page == page) then 2 else 1) ∧
    (s.lookup page).rf R.TIER_LOOKUP_ENTRY_CLASS = e.cls % 2 ^ 4 ∧ (s.lookup page).rf R.TIER_LOOKUP_ENTRY_DA_PAGE = e.page % 2 ^ 30 := by
  unfold State.lookup
  dsimp only
  rw [hsel, h]
  refine ⟨?_, ?_, State.rf_set_same _ _ _⟩
  · iterate 5 refine (State.rf_set_of_ne _ _ _ _ (by decide)).trans ?_
    refine (State.rf_set_same _ _ _).trans ?_
    generalize s.tier.migTo.any (fun m => m.page == page) = moving
    cases moving <;> rfl
  · iterate 4 refine (State.rf_set_of_ne _ _ _ _ (by decide)).trans ?_
    exact State.rf_set_same _ _ _

theorem findReg_lookupOa : findReg 0x300048 = some R.TIER_LOOKUP_OA_PAGE.hostRow := findReg_of_alone (by decide +kernel) (by decide)

/-- The page of a pair that is selected is the affair of the chart and the tiers (R328). -/
theorem State.selPage_congr {s t : State} (htier : t.tier = s.tier) (hchart : t.chart = s.chart) (page : Nat) (other : Bool) :
    t.selPage page other = s.selPage page other := by
  unfold State.selPage State.pairOf
  rw [hchart, htier]

/-- What a lookup shows on a state whose map is that of `s`. -/
theorem State.lookup_shows {s u : State} {page : Nat} (hoa : u.rf R.TIER_LOOKUP_OA_PAGE = page) (hent : u.entOf page = s.entOf page)
    (htier : u.tier = s.tier) (hchart : u.chart = s.chart) :
    (u.lookup page).rf R.TIER_LOOKUP_OA_PAGE = page ∧ (u.lookup page).entOf page = s.entOf page ∧
    (s.entOf page = none → (u.lookup page).rf R.TIER_LOOKUP_ENTRY_STATE = 0 ∧ (u.lookup page).rf R.TIER_LOOKUP_ENTRY_BIAS = 0 ∧
      (u.lookup page).rf R.TIER_LOOKUP_ENTRY_LENT = 0) ∧
    (∀ e, s.entOf page = some e → s.selPage page false = page →
      (u.lookup page).rf R.TIER_LOOKUP_ENTRY_STATE = (if s.tier.migTo.any (fun m => m.page == page) then 2 else 1) ∧
      (u.lookup page).rf R.TIER_LOOKUP_ENTRY_CLASS = e.cls % 2 ^ 4 ∧ (u.lookup page).rf R.TIER_LOOKUP_ENTRY_DA_PAGE = e.page % 2 ^ 30) := by
  refine ⟨(u.lookup_oaPage page).trans hoa, ((u.lookup_only page).entOf rfl (by decide) page).trans hent,
    fun hnone => State.lookup_unmapped (hent.trans hnone), fun e hsome hsel => ?_⟩
  rw [← htier]
  exact State.lookup_mapped (hent.trans hsome) ((State.selPage_congr htier hchart page false).trans hsel)

/-- TIER_LOOKUP (R282). -/
theorem tierLookup_shows (v : BitVec 64) (s : State) (h : s.reach .host = true) :
    Runs (.tierLookup .host v) s [.tierRegs, .faultRegs, .logRegs, .logRound] (fun t =>
      let page := bitsOf v.toNat 21 31
      t.rf R.TIER_LOOKUP_OA_PAGE = page ∧ t.entOf page = s.entOf page ∧
      (s.entOf page = none → t.rf R.TIER_LOOKUP_ENTRY_STATE = 0 ∧ t.rf R.TIER_LOOKUP_ENTRY_BIAS = 0 ∧ t.rf R.TIER_LOOKUP_ENTRY_LENT = 0) ∧
      (∀ e, s.entOf page = some e → s.selPage page false = page →
        t.rf R.TIER_LOOKUP_ENTRY_STATE = (if s.tier.migTo.any (fun m => m.page == page) then 2 else 1) ∧
        t.rf R.TIER_LOOKUP_ENTRY_CLASS = e.cls % 2 ^ 4 ∧ t.rf R.TIER_LOOKUP_ENTRY_DA_PAGE = e.page % 2 ^ 30)) := by
  have hoa : (s.regWrite 0x300048 (Wr.full .host v.toNat)).rf R.TIER_LOOKUP_OA_PAGE = bitsOf v.toNat 21 31 :=
    State.regWrite_field s (r := R.TIER_LOOKUP_OA_PAGE.hostRow) R.TIER_LOOKUP_OA_PAGE findReg_lookupOa (by decide) (by decide) (by decide)
  have hd : Does 536895616 s (s.regWrite 0x300048 (Wr.full .host v.toNat)) := State.regWrite_does s _ _ (by decide) (by decide) (Does.rfl' _ s)
  have hhits : (Wr.full .host v.toNat).hits .host R.TIER_LOOKUP_OA_PAGE = true := rfl
  have hwrite : s.writeLookup (Wr.full .host v.toNat) = (s.regWrite 0x300048 (Wr.full .host v.toNat)).lookup (bitsOf v.toNat 21 31) := by
    unfold State.writeLookup
    dsimp only
    rw [if_pos hhits, hoa]
  have he : exec (.tierLookup .host v) s = .next ((s.regWrite 0x300048 (Wr.full .host v.toNat)).lookup (bitsOf v.toNat 21 31)) :=
    congrArg Host.Outcome.next ((if_pos h).trans hwrite)
  exact Runs.of he (execTierLookup_does _ _ _ _ he) (by decide) (State.lookup_shows hoa
    (s.regWrite_pages findReg_lookupOa (by decide) (by decide) (by decide) _).1 (hd.frame .tier (by decide)) (hd.frame .chart (by decide)))

/-! ## Entries of the map memory that are lost -/

/-- A lost directory entry unmaps the pages of its 256 GiB, a lost level-2 entry its page (R259, R413). -/
theorem mapMemoryError_shows (oa : BitVec 52) (dir : Bool) (s : State) (hp : 2 ≤ s.rf R.PWR_STATE_STATE) :
    Runs (.mapMemoryError ⟨oa, dir⟩) s [.tierRegs, .faultRegs, .logRegs, .logRound, .tier] (fun t =>
      t.entOf (oa.toNat / 2 ^ 21) = none ∧
      (dir = true → ∀ page, page / 131072 = oa.toNat / 2 ^ 21 / 131072 → t.entOf page = none) ∧ t.rf R.TIER_ERR_TABLE_ERR = 1 ∧
      t.rf R.TIER_ERR_LAST_STATUS = stCHECK_FAIL) := by
  obtain ⟨t, he, hpage, hset⟩ := mapMemoryError_unmaps oa dir s hp
  refine Runs.of he (execMapMemoryError_does _ _ _ he) (by decide) ⟨hpage, ?_, hset, ?_⟩
  · rintro rfl page hsame
    obtain rfl := Host.Outcome.next.inj ((show exec (.mapMemoryError ⟨oa, true⟩) s = .next _ from congrArg Host.Outcome.next (if_neg (by omega))).symm.trans he)
    dsimp only
    rw [State.tableErr_entOf]
    exact State.entOf_bad _ _ (List.contains_iff_mem.mpr ((NSet.mem_ins _ _ _).mpr (.inl rfl))) (.inl hsame.symm)
  · obtain rfl := Host.Outcome.next.inj ((show exec (.mapMemoryError ⟨oa, dir⟩) s = .next _ from congrArg Host.Outcome.next (if_neg (by omega))).symm.trans he)
    exact (State.logEv_rf _ _ _ _ _ _ _ (by decide)).trans (State.rf_set_same _ _ _)

end Sys2Proof.Machine
end

section
/-! SUPPORT. O34: changes of bias, and the host's answers to back-invalidations (R280, R281, R283). -/

namespace Sys2Proof.Machine

/-! ## Commands -/

/-- What a change of a page's bias is answered with (R281). -/
def State.biasStatus (s : State) (page : Nat) : Nat :=
  match s.entOf page with
  | none => stBAD_ARG
  | some e => if !e.cache then stBAD_ARG else if s.pageOwner page ≠ 1 then stNOT_OWNER else stOK

/-- A change of a page's bias under way: BUSY, and lines asked for where the page goes to the device. -/
def State.beginBias (s : State) (page : Nat) (up : Bool) : State :=
  let t := (s.set R.TIER_BIAS_CMD_STATUS stOK).set R.TIER_BIAS_CMD_BUSY 1
  let t := { t with tier := { t.tier with biasCmd := some (page, up), biasOld := if up then t.hostWork else [] } }
  if up then t else t.invalidate (pageLines page)

theorem State.beginBias_shows (s : State) (page : Nat) (up : Bool) : (s.beginBias page up).rf R.TIER_BIAS_CMD_STATUS = stOK ∧
    (s.beginBias page up).rf R.TIER_BIAS_CMD_BUSY = 1 ∧ (s.beginBias page up).tier.biasCmd = some (page, up) := by
  have hst : ((s.set R.TIER_BIAS_CMD_STATUS stOK).set R.TIER_BIAS_CMD_BUSY 1).rf R.TIER_BIAS_CMD_STATUS = stOK :=
    (State.rf_set_of_ne _ _ _ _ (by decide)).trans (State.rf_set_same _ _ _)
  have hbusy : ((s.set R.TIER_BIAS_CMD_STATUS stOK).set R.TIER_BIAS_CMD_BUSY 1).rf R.TIER_BIAS_CMD_BUSY = 1 := State.rf_set_same _ _ _
  cases up with
  | true => exact ⟨hst, hbusy, rfl⟩
  | false => exact ⟨hst, hbusy, rfl⟩

/-- A write of TIER_BIAS_CMD with GO while no change is under way: refused with its status, or begun. -/
theorem State.writeBiasCmd_go (s : State) {v : Nat} (hgo : bitsOf v 0 1 = 1) (hbusy : s.rf R.TIER_BIAS_CMD_BUSY ≠ 1) :
    s.writeBiasCmd (Wr.full .host v) =
      if s.biasStatus (bitsOf v 21 31) ≠ stOK then
        (s.set R.TIER_BIAS_CMD_STATUS (s.biasStatus (bitsOf v 21 31))).refuse 0x300040 (s.biasStatus (bitsOf v 21 31))
      else (s.regWrite 0x300040 (Wr.full .host v)).beginBias (bitsOf v 21 31) (bitsOf v 1 1 == 1) := by
  have hpage : (s.regWrite 0x300040 (Wr.full .host v)).rf R.TIER_BIAS_CMD_PAGE = bitsOf v 21 31 :=
    State.regWrite_field s (r := biasCmdRow) R.TIER_BIAS_CMD_PAGE findReg_biasCmd (by decide) (by decide) (by decide)
  have hdir : (s.regWrite 0x300040 (Wr.full .host v)).rf R.TIER_BIAS_CMD_TO_HOST = bitsOf v 1 1 :=
    State.regWrite_field s (r := biasCmdRow) R.TIER_BIAS_CMD_TO_HOST findReg_biasCmd (by decide) (by decide) (by decide)
  obtain ⟨hent, hown⟩ := s.biasCmd_pages v (bitsOf v 21 31)
  have hget : (Wr.full .host v).get .host R.TIER_BIAS_CMD_GO = 1 := (Wr.get_full rfl (by decide)).trans hgo
  unfold State.writeBiasCmd State.biasStatus State.beginBias
  simp only [hget, hbusy, hpage, hdir, hent, hown, ne_eq, not_true_eq_false, if_false] <;> cases s.entOf (bitsOf v 21 31) <;> rfl

/-- The word that BIAS_TO_HOST or BIAS_TO_DEVICE writes: the page given, GO, and the direction of the command. -/
theorem exec_biasCommand {v : BitVec 64} {i : Instr} {up : Bool} {s : State} (h : s.reach .host = true)
    (hi : (i = .biasToHost .host v ∧ up = true) ∨ (i = .biasToDevice .host v ∧ up = false)) :
    ∃ x : BitVec 64, exec i s = .next (s.writeBiasCmd (Wr.full .host x.toNat)) ∧ bitsOf x.toNat 21 31 = bitsOf v.toNat 21 31 ∧
      bitsOf x.toNat 0 1 = 1 ∧ (bitsOf x.toNat 1 1 == 1) = up := by
  rcases hi with ⟨rfl, rfl⟩ | ⟨rfl, rfl⟩
  · refine ⟨v ||| 3, congrArg Host.Outcome.next (if_pos h), bitsOf_or_low v 3 21 31 (by decide) (by decide), ?_, ?_⟩
    · rw [bitsOf_one, BitVec.testBit_toNat]; simp
    · rw [bitsOf_one, BitVec.testBit_toNat]; simp
  · refine ⟨(v &&& ~~~2) ||| 1, congrArg Host.Outcome.next (if_pos h),
      (bitsOf_or_low _ 1 21 31 (by decide) (by decide)).trans (bitsOf_andNot_low v 2 21 31 (by decide) (by decide)), bitsOf_or_one _, ?_⟩
    rw [bitsOf_one, BitVec.testBit_toNat]; simp

/-- BIAS_TO_HOST and BIAS_TO_DEVICE (R281). -/
theorem biasCommand_answers (v : BitVec 64) (i : Instr) (up : Bool) (s : State) (h : s.reach .host = true) (hbusy : s.rf R.TIER_BIAS_CMD_BUSY ≠ 1)
    (hi : (i = .biasToHost .host v ∧ up = true) ∨ (i = .biasToDevice .host v ∧ up = false)) :
    Runs i s [.tierRegs, .faultRegs, .logRegs, .sent, .logRound, .tier] (fun t =>
      let page := bitsOf v.toNat 21 31
      (∀ e, s.entOf page = some e → e.cache = true → s.pageOwner page = 1 → t.rf R.TIER_BIAS_CMD_STATUS = stOK ∧ t.rf R.TIER_BIAS_CMD_BUSY = 1 ∧
        t.tier.biasCmd = some (page, up)) ∧
      (∀ e, s.entOf page = some e → e.cache = true → s.pageOwner page ≠ 1 → t.rf R.TIER_BIAS_CMD_STATUS = stNOT_OWNER ∧ t.tier = s.tier) ∧
      ((∀ e, s.entOf page = some e → e.cache = false) → t.rf R.TIER_BIAS_CMD_STATUS = stBAD_ARG ∧ t.tier = s.tier)) := by
  obtain ⟨x, he, hpage, hgo, hup⟩ := exec_biasCommand h hi
  have hd : Does 275418996864 s (s.writeBiasCmd (Wr.full .host x.toNat)) := State.writeBiasCmd_does s _ (by decide) (Does.rfl' _ s)
  have heq := s.writeBiasCmd_go hgo hbusy
  rw [hpage, hup] at heq
  dsimp only
  generalize bitsOf v.toNat 21 31 = page at heq
  have hrefused : ∀ st, st ≠ stOK → st < 2 ^ 8 → s.biasStatus page = st →
      (s.writeBiasCmd (Wr.full .host x.toNat)).rf R.TIER_BIAS_CMD_STATUS = st ∧ (s.writeBiasCmd (Wr.full .host x.toNat)).tier = s.tier := by
    intro st hne hlt hst
    rw [heq, hst, if_pos hne]
    exact ⟨(State.refuse_rf _ _ _ _ (by decide)).trans ((State.rf_set_same _ _ _).trans (Nat.mod_eq_of_lt hlt)),
      (Does.ofRefuse (s.set R.TIER_BIAS_CMD_STATUS st) _ _).frame .tier (by decide)⟩
  refine Runs.of he hd (by decide) ⟨fun e hent hcache howner => ?_, fun e hent hcache howner => hrefused _ (by decide) (by decide) ?_,
    fun hnone => hrefused _ (by decide) (by decide) ?_⟩
  · have hst : s.biasStatus page = stOK := by
      unfold State.biasStatus
      simp [hent, hcache, howner]
    rw [heq, hst, if_neg (by decide)]
    exact State.beginBias_shows _ _ _
  · unfold State.biasStatus
    simp [hent, hcache, howner]
  · unfold State.biasStatus
    cases hent : s.entOf page with
    | none => rfl
    | some e => simp [hnone e hent]

/-! ## Changes that end -/

/-- A change of bias that nothing holds back: the command is over, and nothing but the page's bias bit and the command's own record changes (R281). -/
theorem biasChangeDone_sets (page : Nat) (up : Bool) (s : State) (e : Ent) (hcmd : s.tier.biasCmd = some (page, up))
    (hup : up = true → s.hostBlockAt page = false) (hdn : up = false → (s.tier.waitLine.any fun l => l / 32768 == page) = false)
    (hent : s.entOf page = some e) (hmode : s.rf R.TIER_STATUS_MODE = 1) (hpg : e.page < 253952) :
    Runs .biasChangeDone s [.tierRegs, .tier] (fun t => t.bias e.page = up ∧ t.rf R.TIER_BIAS_CMD_BUSY = 0 ∧
      t.tier = { s.tier with biasCmd := none, biasOld := [] }) := by
  obtain ⟨t, he, hbias, -⟩ := biasChangeDone_applies page up s e hcmd hup hdn hent hmode hpg
  refine Runs.of he (execBiasChangeDone_does _ _ he) (by decide) ⟨hbias, ?_⟩
  have hblock : (up && s.hostBlockAt page) = false := by cases up <;> simp_all
  have hline : (!up && s.tier.waitLine.any fun l => l / 32768 == page) = false := by cases up <;> simp_all
  obtain rfl := Host.Outcome.next.inj ((show exec .biasChangeDone s = .next _ from rfl).symm.trans he)
  simp only [hcmd, hblock, hline, hent, Bool.false_eq_true, if_false]
  have hdone : ∀ u : State, (u.set R.TIER_BIAS_CMD_BUSY 0).rf R.TIER_BIAS_CMD_BUSY = 0 := fun u => State.rf_set_same u _ _
  split
  · exact ⟨hdone _, rfl⟩
  · refine ⟨(State.rf_set_of_ne _ _ _ _ ?_).trans (hdone _), rfl⟩
    simp only [Fld.key, R.TIER_BIAS_BIAS, R.TIER_BIAS_CMD_BUSY]
    omega

/-- A line that the host has given back. -/
def State.answerLine (s : State) (l : Nat) : State := { s with tier := { s.tier with waitLine := s.tier.waitLine.filter (fun x => x != l) } }

/-- The answer to a back-invalidate: the line is on the list no more, and where no stream is stopping nothing else changes (R280). -/
theorem backInvalidateAnswer_removes (l : BitVec 64) (s : State) (hl : s.tier.waitLine.contains l.toNat = true) :
    Runs (.backInvalidateAnswer l) s [.stepRegs, .streamRegs, .hqRegs, .tierRegs, .ftlRegs, .cdpRegs, .faultRegs, .logRegs, .memory, .marks, .sent,
        .flagOut, .logRound, .fault, .ledgers, .ports, .tier, .streams, .host, .flash, .clusters] (fun t =>
      (∀ n ∈ s.usedCtx, s.sst n ≠ ssSTOPPING) →
        OnlyChanges [.tier] s t ∧ t.tier = { s.tier with waitLine := s.tier.waitLine.filter (fun x => x != l.toNat) }) := by
  have he : exec (.backInvalidateAnswer l) s = .next (s.answerLine l.toNat).closeStopped := congrArg Host.Outcome.next (if_pos hl)
  refine Runs.of he (execBackInvalidateAnswer_does _ _ _ he) (by decide) fun hnone => ?_
  rw [State.closeStopped_of_none (s.answerLine l.toNat) hnone]
  exact ⟨(Does.upd_tier s _ (m := 274877906944) (by decide) (Does.rfl' _ s)).only _ (by decide), rfl⟩

/-- Settles O34: each command by what it reads of the map; of a change of bias, its beginning or refusal, and its end. -/
theorem lookupsAndBias : Obligations.LookupsAndBias :=
  ⟨⟨tierLookup_shows, mapMemoryError_shows⟩, biasCommand_answers, biasChangeDone_sets, backInvalidateAnswer_removes⟩

end Sys2Proof.Machine
end

section
/-! SUPPORT. O33, R268 and R283: MAP, UNMAP and RECLASS refused, accepted and completed. -/

namespace Sys2Proof.Machine

/-! ## The word that a command writes -/

/-- Fields with the same bits are the same number. -/
theorem bitsOf_ext {a b lo w : Nat} (h : ∀ k < w, a.testBit (lo + k) = b.testBit (lo + k)) : bitsOf a lo w = bitsOf b lo w := by
  unfold bitsOf
  refine Nat.eq_of_testBit_eq fun k => ?_
  rw [Nat.testBit_mod_two_pow, Nat.testBit_mod_two_pow, Nat.testBit_div_two_pow, Nat.testBit_div_two_pow, Nat.add_comm k lo]
  by_cases hk : k < w
  · rw [h k hk]
  · simp [hk]

/-- GO and OP, the bits that a command's row fixes. -/
def mapFixed : Nat := 0xF000001

theorem mapWord_testBit (v : BitVec 64) {op j : Nat} (hj : j < 64) :
    (mapWord v op).testBit j = (v.toNat.testBit j && !mapFixed.testBit j || (op * 2 ^ 24 + 1).testBit j) := by
  unfold mapWord
  rw [BitVec.testBit_toNat, BitVec.getLsbD_or, BitVec.getLsbD_and, BitVec.getLsbD_not, BitVec.getLsbD_ofNat, ← BitVec.testBit_toNat,
    ← BitVec.testBit_toNat]
  simp only [hj, decide_true, Bool.true_and]
  rfl

/-- A field that the row does not fix is that of the word given. -/
theorem bitsOf_mapWord_given (v : BitVec 64) {op lo w : Nat} (hw : lo + w ≤ 64)
    (h : ∀ k < w, mapFixed.testBit (lo + k) = false ∧ (op * 2 ^ 24 + 1).testBit (lo + k) = false) :
    bitsOf (mapWord v op) lo w = bitsOf v.toNat lo w := by
  refine bitsOf_ext fun k hk => ?_
  obtain ⟨hfixed, hop⟩ := h k hk
  rw [mapWord_testBit v (by omega), hfixed, hop]
  simp

/-- A field that the row fixes is that of the command. -/
theorem bitsOf_mapWord_fixed (v : BitVec 64) {op lo w : Nat} (hw : lo + w ≤ 64) (h : ∀ k < w, mapFixed.testBit (lo + k) = true) :
    bitsOf (mapWord v op) lo w = bitsOf (op * 2 ^ 24 + 1) lo w := by
  refine bitsOf_ext fun k hk => ?_
  rw [mapWord_testBit v (by omega), h k hk]
  simp

/-- What the word of a command holds. -/
theorem mapWord_fields (v : BitVec 64) {op : Nat} (hop : op = 1 ∨ op = 2 ∨ op = 3) :
    bitsOf (mapWord v op) 0 1 = 1 ∧ bitsOf (mapWord v op) 24 4 = op ∧ bitsOf (mapWord v op) 32 32 = bitsOf v.toNat 32 32 ∧
      bitsOf (mapWord v op) 28 4 = bitsOf v.toNat 28 4 ∧ bitsOf (mapWord v op) 16 6 = bitsOf v.toNat 16 6 ∧
      bitsOf (mapWord v op) 1 1 = bitsOf v.toNat 1 1 := by
  have hgo := bitsOf_mapWord_fixed v (op := op) (lo := 0) (w := 1) (by decide) (by decide)
  have hfix := bitsOf_mapWord_fixed v (op := op) (lo := 24) (w := 4) (by decide) (by decide)
  rw [hgo, hfix]
  rcases hop with rfl | rfl | rfl <;>
    exact ⟨by decide, by decide, bitsOf_mapWord_given v (by decide) (by decide), bitsOf_mapWord_given v (by decide) (by decide),
      bitsOf_mapWord_given v (by decide) (by decide), bitsOf_mapWord_given v (by decide) (by decide)⟩

/-! ## Registers -/

/-- The row of TIER_MAP_CTRL (R268). -/
def mapCtrlRow : RegRow :=
  ⟨0x300020, 1, 0x0, 64, [⟨32, 32, .rw, .host⟩, ⟨28, 4, .rw, .host⟩, ⟨24, 4, .rw, .host⟩, ⟨16, 6, .rw, .host⟩, ⟨1, 1, .rw, .host⟩,
    ⟨0, 1, .wo, .host⟩]⟩

theorem findReg_mapCtrl : findReg 0x300020 = some mapCtrlRow := findReg_of_alone (by decide +kernel) (by decide)

/-- A write of a register leaves the memory. -/
theorem State.regWrite_mem (s : State) (off : Nat) (w : Wr) : (s.regWrite off w).mem = s.mem := by
  have hrefuse : ∀ (u : State) (st : Nat), (u.refuse off st).mem = u.mem := fun u st => u.logEv_mem _ _ _ _ _
  have hfld : ∀ (u : State) (f : FldRow), (u.writeFld off w f).mem = u.mem := fun u f => by
    unfold State.writeFld
    split
    · rfl
    split
    · rfl
    · rfl
    · split
      · rfl
      · exact hrefuse u _
    · split
      · rfl
      · exact hrefuse u _
    · split
      · rfl
      · exact hrefuse u _
  unfold State.regWrite
  split
  · exact hrefuse s _
  · split
    · exact hrefuse s _
    · dsimp only
      split
      · exact State.foldl_keeps State.mem _ _ hfld s
      · exact (hrefuse _ _).trans (State.foldl_keeps State.mem _ _ hfld s)

theorem State.showTier_only (s : State) :
    OnlyWrites [R.TIER_STATUS_TABLES, R.TIER_STATUS_LENDS, R.TIER_POOL_FREE_HBM, R.TIER_MIGRATE_QUEUED] s s.showTier :=
  ((((OnlyWrites.refl s).set _ _).set _ _).set _ _).set _ _

/-! ## What changes of the map leave -/

/-- Posted writes leave all but the messages and the host link's state. -/
theorem State.postBus_posts (s : State) (addr : Nat) (l : List MByte) : Does 2199027449856 s (s.postBus addr l) :=
  Does.foldl _ _ (Does.rfl' _ s) (fun v _ hv => State.emitHost_does v _ (by decide) hv)

/-- The parts that a command of TIER_MAP may change: STEP, TIER, FTL, FAULT and the log, memory, marks, messages, FLAG_OUT, the tiers, the host link
and flash; not the ledgers. -/
def mapParts : Nat := 6889688555920

/-- A fresh page leaves the ledgers (R268). -/
theorem State.mapPage_mapParts (s : State) (page : Nat) (e : Ent) : Does mapParts s (s.mapPage page e) := by
  have hput : Does mapParts s (s.putEnt page e) := State.putEnt_does s page e (by decide) (Does.rfl' _ s)
  unfold State.mapPage State.zeroPage
  generalize s.putEnt page e = u at hput
  extract_lets lo t unit
  split
  · exact State.clearBias_does _ _ _ (by decide) (State.clearLost_does _ _ _ (by decide) (State.zeroRange_does _ _ _ (by decide)
      (State.dropPage_does u _ (by decide) hput)))
  split
  · exact Does.forEach _ _ hput fun v x hv => Does.ite (State.writeFlash_does v _ _ _ (by decide) hv) hv
  · exact (u.postBus_posts _ _).after (by decide) hput

/-- A change of the map leaves the ledgers. -/
theorem State.runMap_mapParts (s : State) (op page n cls slice : Nat) (cache : Bool) : Does mapParts s (s.runMap op page n cls slice cache) := by
  unfold State.runMap
  extract_lets pages das
  split
  · exact Does.foldl _ _ (Does.rfl' _ s) fun v p hv => (v.mapPage_mapParts _ _).after (by decide) hv
  split
  · exact State.startMigration_does _ (by decide) (Does.foldl _ _ (Does.rfl' _ s) fun v p hv =>
      State.delEnt_does _ _ (by decide) (State.dropMigration_does v p (by decide) hv))
  · refine State.startMigration_does _ (by decide) (Does.foldl _ _ (Does.rfl' _ s) fun v p hv => ?_)
    cases v.entOf p with
    | none => exact hv
    | some e =>
      exact State.putEnt_does _ _ _ (by decide) (State.dropMigration_does _ _ (by decide)
        (Does.ite (State.clearBias_does v _ _ (by decide) hv) hv))

/-! ## The commands -/

/-- An accepted command of no pages. -/
def State.mapNothing (u : State) : State := (u.set R.TIER_MAP_STATUS_STATUS stOK).set R.TIER_MAP_STATUS_DONE 0

/-- An accepted command under way: the map changed as a whole, and its pages to be counted (R268). -/
def State.mapBegun (u : State) (op page n cls slice : Nat) (cache : Bool) : State :=
  let t := ((u.mapNothing.runMap op page n cls slice cache).set R.TIER_MAP_STATUS_BUSY 1).showTier
  { t with tier := { t.tier with cmd := some n } }

/-- A refused command. -/
def State.mapRefused (s : State) (st : Nat) : State :=
  ((s.set R.TIER_MAP_STATUS_STATUS st).set R.TIER_MAP_STATUS_DONE 0).refuse 0x300020 st

/-- What a command makes of a state, from the state with its word written: refused, or accepted (R268). -/
def State.mapAnswer (s u : State) (op page n cls slice : Nat) (cache : Bool) : State :=
  if u.mapRefusal op page n cls slice cache ≠ stOK then s.mapRefused (u.mapRefusal op page n cls slice cache)
  else if n = 0 then u.mapNothing else u.mapBegun op page n cls slice cache

/-- A write of TIER_MAP_CTRL with GO while no command runs, by what the word holds. -/
theorem State.writeMapCtrl_go (s : State) {v op n cls slice c : Nat} (hgo : bitsOf v 0 1 = 1) (hbusy : s.rf R.TIER_MAP_STATUS_BUSY ≠ 1)
    (hop : bitsOf v 24 4 = op) (hn : bitsOf v 32 32 = n) (hcls : bitsOf v 28 4 = cls) (hslice : bitsOf v 16 6 = slice) (hcache : bitsOf v 1 1 = c) :
    s.writeMapCtrl (Wr.full .host v) =
      s.mapAnswer (s.regWrite 0x300020 (Wr.full .host v)) op (s.rf R.TIER_MAP_OA_PAGE) n cls slice (c == 1) := by
  have hfld : ∀ g : Fld, g.off = 0x300020 → g.notLog = true → (s.regWrite 0x300020 (Wr.full .host v)).rf g = mapCtrlRow.after g.lo .host v (s.rf g) :=
    fun g hg hlog => hg ▸ State.regWrite_field s (r := mapCtrlRow) g (hg ▸ findReg_mapCtrl) (by decide) (by decide) hlog
  have hop' : (s.regWrite 0x300020 (Wr.full .host v)).rf R.TIER_MAP_CTRL_OP = op := (hfld _ rfl (by decide)).trans hop
  have hn' : (s.regWrite 0x300020 (Wr.full .host v)).rf R.TIER_MAP_CTRL_PAGES = n := (hfld _ rfl (by decide)).trans hn
  have hcls' : (s.regWrite 0x300020 (Wr.full .host v)).rf R.TIER_MAP_CTRL_CLASS = cls := (hfld _ rfl (by decide)).trans hcls
  have hslice' : (s.regWrite 0x300020 (Wr.full .host v)).rf R.TIER_MAP_CTRL_SLICE = slice := (hfld _ rfl (by decide)).trans hslice
  have hcache' : (s.regWrite 0x300020 (Wr.full .host v)).rf R.TIER_MAP_CTRL_HOSTCACHE = c := (hfld _ rfl (by decide)).trans hcache
  have hpage : (s.regWrite 0x300020 (Wr.full .host v)).rf R.TIER_MAP_OA_PAGE = s.rf R.TIER_MAP_OA_PAGE :=
    State.regWrite_other s _ findReg_mapCtrl (by decide) (by decide) (by decide)
  have hget : (Wr.full .host v).get .host R.TIER_MAP_CTRL_GO = 1 := (Wr.get_full rfl (by decide)).trans hgo
  unfold State.writeMapCtrl
  simp only [hget, hbusy, hop', hn', hcls', hslice', hcache', hpage, ne_eq, not_true_eq_false, if_false]
  rfl

theorem State.mapRefused_shows (s : State) (st : Nat) :
    (s.mapRefused st).rf R.TIER_MAP_STATUS_STATUS = st % 2 ^ 8 ∧ (s.mapRefused st).rf R.TIER_MAP_STATUS_DONE = 0 ∧ (s.mapRefused st).tier = s.tier ∧
      (s.mapRefused st).mem = s.mem ∧ (s.mapRefused st).sent = s.sent := by
  have hd : Does 536895488 ((s.set R.TIER_MAP_STATUS_STATUS st).set R.TIER_MAP_STATUS_DONE 0) (s.mapRefused st) := Does.ofRefuse _ _ _
  exact ⟨(State.refuse_rf _ _ _ _ (by decide)).trans ((State.rf_set_of_ne _ _ _ _ (by decide)).trans (State.rf_set_same _ _ _)),
    (State.refuse_rf _ _ _ _ (by decide)).trans (State.rf_set_same _ _ _), hd.frame .tier (by decide), State.logEv_mem _ _ _ _ _ _,
    hd.frame .sent (by decide)⟩

theorem State.mapNothing_shows (u : State) : u.mapNothing.rf R.TIER_MAP_STATUS_STATUS = stOK ∧ u.mapNothing.rf R.TIER_MAP_STATUS_DONE = 0 :=
  ⟨(State.rf_set_of_ne _ _ _ _ (by decide)).trans (State.rf_set_same _ _ _), State.rf_set_same _ _ _⟩

theorem State.mapBegun_busy (u : State) (op page n cls slice : Nat) (cache : Bool) :
    (u.mapBegun op page n cls slice cache).rf R.TIER_MAP_STATUS_BUSY = 1 := by
  unfold State.mapBegun
  refine (State.rf_withTier _ _ _).trans (((State.showTier_only _).rf R.TIER_MAP_STATUS_BUSY (by decide)).trans ?_)
  exact State.rf_set_same _ _ _

theorem State.mapAnswer_mapParts {s u : State} (hu : Does mapParts s u) (op page n cls slice : Nat) (cache : Bool) :
    Does mapParts s (s.mapAnswer u op page n cls slice cache) := by
  have hset : Does mapParts s u.mapNothing := Does.set _ _ _ (by decide) (Does.set u _ _ (by decide) hu)
  unfold State.mapAnswer
  split
  · exact State.refuse_does _ _ _ (by decide) (Does.set _ _ _ (by decide) (Does.set s _ _ (by decide) (Does.rfl' _ s)))
  split
  · exact hset
  · exact Does.upd_tier _ _ (by decide) (State.showTier_does _ (by decide) (Does.set _ _ _ (by decide)
      ((u.mapNothing.runMap_mapParts op page n cls slice cache).after (by decide) hset)))

/-- What a command answers, where its word alone leaves the tiers and the memory. -/
theorem State.mapAnswer_shows {s u : State} (htier : u.tier = s.tier) (hmem : u.mem = s.mem) (op page n cls slice : Nat) (cache : Bool) :
    (u.mapRefusal op page n cls slice cache ≠ stOK →
      (s.mapAnswer u op page n cls slice cache).rf R.TIER_MAP_STATUS_STATUS = u.mapRefusal op page n cls slice cache % 2 ^ 8 ∧
      (s.mapAnswer u op page n cls slice cache).rf R.TIER_MAP_STATUS_DONE = 0 ∧ (s.mapAnswer u op page n cls slice cache).tier = s.tier ∧
      (s.mapAnswer u op page n cls slice cache).mem = s.mem ∧ (s.mapAnswer u op page n cls slice cache).sent = s.sent) ∧
    (u.mapRefusal op page n cls slice cache = stOK → n = 0 →
      (s.mapAnswer u op page n cls slice cache).rf R.TIER_MAP_STATUS_STATUS = stOK ∧
      (s.mapAnswer u op page n cls slice cache).rf R.TIER_MAP_STATUS_DONE = 0 ∧ (s.mapAnswer u op page n cls slice cache).tier = s.tier ∧
      (s.mapAnswer u op page n cls slice cache).mem = s.mem) ∧
    (u.mapRefusal op page n cls slice cache = stOK → n ≠ 0 →
      (s.mapAnswer u op page n cls slice cache).rf R.TIER_MAP_STATUS_BUSY = 1 ∧ (s.mapAnswer u op page n cls slice cache).tier.cmd = some n ∧
      (s.mapAnswer u op page n cls slice cache).tier.tables = (u.mapNothing.runMap op page n cls slice cache).tier.tables) := by
  unfold State.mapAnswer
  refine ⟨fun hst => ?_, fun hst hn => ?_, fun hst hn => ?_⟩
  · rw [if_pos hst]
    exact s.mapRefused_shows _
  · rw [if_neg (not_not.mpr hst), if_pos hn]
    obtain ⟨hok, hdone⟩ := u.mapNothing_shows
    exact ⟨hok, hdone, htier, hmem⟩
  · rw [if_neg (not_not.mpr hst), if_neg hn]
    exact ⟨u.mapBegun_busy _ _ _ _ _ _, rfl, rfl⟩

/-- TIER_MAP, TIER_UNMAP and TIER_RECLASS write their words of TIER_MAP_CTRL. -/
theorem exec_mapCommand {v : BitVec 64} {i : Instr} {op : Nat} {s : State} (h : s.reach .host = true)
    (hi : (i = .tierMap .host v ∧ op = 1) ∨ (i = .tierUnmap .host v ∧ op = 2) ∨ (i = .tierReclass .host v ∧ op = 3)) :
    exec i s = .next (s.writeMapCtrl (Wr.full .host (mapWord v op))) ∧ (op = 1 ∨ op = 2 ∨ op = 3) := by
  rcases hi with ⟨rfl, rfl⟩ | ⟨rfl, rfl⟩ | ⟨rfl, rfl⟩
  · exact ⟨congrArg Host.Outcome.next (if_pos h), .inl rfl⟩
  · exact ⟨congrArg Host.Outcome.next (if_pos h), .inr (.inl rfl)⟩
  · exact ⟨congrArg Host.Outcome.next (if_pos h), .inr (.inr rfl)⟩

/-- TIER_MAP, TIER_UNMAP and TIER_RECLASS (R268, R283). -/
theorem mapCommand_answers (v : BitVec 64) (i : Instr) (op : Nat) (s : State) (h : s.reach .host = true) (hbusy : s.rf R.TIER_MAP_STATUS_BUSY ≠ 1)
    (hi : (i = .tierMap .host v ∧ op = 1) ∨ (i = .tierUnmap .host v ∧ op = 2) ∨ (i = .tierReclass .host v ∧ op = 3)) :
    Runs i s [.stepRegs, .tierRegs, .ftlRegs, .faultRegs, .logRegs, .memory, .marks, .sent, .flagOut, .logRound, .fault, .tier, .host, .flash]
      (fun t =>
        let u := s.regWrite 0x300020 (Wr.full .host (mapWord v op))
        let page := s.rf R.TIER_MAP_OA_PAGE
        let n := bitsOf v.toNat 32 32
        let cls := bitsOf v.toNat 28 4
        let cache := bitsOf v.toNat 1 1 == 1
        let st := u.mapRefusal op page n cls (bitsOf v.toNat 16 6) cache
        (st ≠ stOK → t.rf R.TIER_MAP_STATUS_STATUS = st % 2 ^ 8 ∧ t.rf R.TIER_MAP_STATUS_DONE = 0 ∧ t.tier = s.tier ∧ t.mem = s.mem ∧
          t.sent = s.sent) ∧
        (st = stOK → n = 0 → t.rf R.TIER_MAP_STATUS_STATUS = stOK ∧ t.rf R.TIER_MAP_STATUS_DONE = 0 ∧ t.tier = s.tier ∧ t.mem = s.mem) ∧
        (st = stOK → n ≠ 0 → t.rf R.TIER_MAP_STATUS_BUSY = 1 ∧ t.tier.cmd = some n ∧
          t.tier.tables = (((u.set R.TIER_MAP_STATUS_STATUS stOK).set R.TIER_MAP_STATUS_DONE 0).runMap op page n cls
            (bitsOf v.toNat 16 6) cache).tier.tables)) := by
  obtain ⟨he, hop⟩ := exec_mapCommand h hi
  obtain ⟨hgo, hop', hn, hcls, hslice, hcache⟩ := mapWord_fields v hop
  rw [s.writeMapCtrl_go hgo hbusy hop' hn hcls hslice hcache] at he
  have hwrite : Does 536895616 s (s.regWrite 0x300020 (Wr.full .host (mapWord v op))) :=
    State.regWrite_does s _ _ (by decide) (by decide) (Does.rfl' _ s)
  exact Runs.of he (State.mapAnswer_mapParts (hwrite.mono (by decide)) _ _ _ _ _ _) (by decide)
    (State.mapAnswer_shows (hwrite.frame .tier (by decide)) (s.regWrite_mem _ _) _ _ _ _ _ _)

/-- TIER_MAP_DONE counts the command's pages (R268). -/
theorem tierMapDone_counts (n : Nat) (s : State) (hcmd : s.tier.cmd = some n) :
    Runs .tierMapDone s [.tierRegs, .tier] (fun t => t.rf R.TIER_MAP_STATUS_DONE = n % 2 ^ 32 ∧ t.rf R.TIER_MAP_STATUS_BUSY = 0 ∧
      t.tier = { s.tier with cmd := none } ∧ OnlyWrites [R.TIER_MAP_STATUS_DONE, R.TIER_MAP_STATUS_BUSY] s t) := by
  let u := (s.set R.TIER_MAP_STATUS_DONE n).set R.TIER_MAP_STATUS_BUSY 0
  have he : exec .tierMapDone s = .next { u with tier := { u.tier with cmd := none } } := by
    show execTierMapDone s = _
    unfold execTierMapDone
    rw [hcmd]
  have hwrites : OnlyWrites [R.TIER_MAP_STATUS_DONE, R.TIER_MAP_STATUS_BUSY] s u := ((OnlyWrites.refl s).set _ _).set _ _
  exact Runs.of he (execTierMapDone_does _ _ he) (by decide) ⟨(State.rf_withTier u _ _).trans
    ((State.rf_set_of_ne _ _ _ _ (by decide)).trans (State.rf_set_same _ _ _)), (State.rf_withTier u _ _).trans (State.rf_set_same _ _ _), rfl,
    hwrites.of_regs rfl⟩

end Sys2Proof.Machine
end

section
/-! SUPPORT. O33, R269 to R271: migrations start, passes choose pages, and copies end. -/

namespace Sys2Proof.Machine

/-! ## Pages that start migrating -/

/-- From s to t queued pages may have started migrating, behind those that were; nothing else changed (R270). -/
def Starting (s t : State) : Prop :=
  ∃ l q, t = { s with tier := { s.tier with migTo := s.tier.migTo ++ l, queue := q } } ∧ ∀ x ∈ q, x ∈ s.tier.queue

theorem Starting.refl (s : State) : Starting s s := ⟨[], s.tier.queue, by rw [List.append_nil], fun _ hx => hx⟩

theorem Starting.trans {s t u : State} (h1 : Starting s t) (h2 : Starting t u) : Starting s u := by
  obtain ⟨l, q, rfl, hq⟩ := h1
  obtain ⟨l', q', rfl, hq'⟩ := h2
  exact ⟨l ++ l', q', by simp only [List.append_assoc], fun x hx => hq x (hq' x hx)⟩

theorem State.startOne_starting (s : State) (q : Nat × Nat) : Starting s (s.startOne q) := by
  unfold State.startOne
  split
  · exact Starting.refl s
  split
  · split
    · exact Starting.refl s
    · exact ⟨_, _, rfl, fun x hx => (List.mem_filter.mp hx).1⟩
  · exact Starting.refl s

theorem State.startMigration_starting (s : State) : Starting s s.startMigration := by
  have hfold : ∀ (l : List (Nat × Nat)) (u : State), Starting s u → Starting s (l.foldl State.startOne u) := by
    intro l
    induction l with
    | nil => exact fun u h => h
    | cons q l ih => exact fun u h => ih _ (h.trans (u.startOne_starting q))
  exact hfold _ s (Starting.refl s)

/-- What the figures of the map show after pages have started: the registers but those of the figures, and everything beside the registers and the
migrations, are as before. -/
theorem Starting.shows {s t : State} (h : Starting s t) : t.showTier.mem = s.mem ∧ t.showTier.marks = s.marks ∧ t.showTier.sent = s.sent ∧
    t.showTier.row = s.row ∧ t.showTier.tier.tables = s.tier.tables ∧ t.showTier.tier.used = s.tier.used ∧ t.showTier.tier.counts = s.tier.counts ∧
    t.showTier.tier.passDue = s.tier.passDue ∧ s.tier.migTo <+: t.showTier.tier.migTo ∧ (∀ q ∈ t.showTier.tier.queue, q ∈ s.tier.queue) := by
  obtain ⟨l, q, rfl, hq⟩ := h
  exact ⟨rfl, rfl, rfl, rfl, rfl, rfl, rfl, rfl, List.prefix_append _ _, hq⟩

theorem Starting.only {s t : State} (h : Starting s t) :
    OnlyWrites [R.TIER_STATUS_TABLES, R.TIER_STATUS_LENDS, R.TIER_POOL_FREE_HBM, R.TIER_MIGRATE_QUEUED] s t.showTier := by
  have hsame : OnlyWrites [] s t := by
    obtain ⟨l, q, rfl, -⟩ := h
    exact OnlyWrites.refl s
  exact hsame.trans t.showTier_only

/-! ## A pass -/

/-- A pass queues no page that is in migration, and halves the counts (R270). -/
theorem State.runPass_shows (s : State) : s.runPass.tier.passDue = false ∧ s.runPass.row = s.row ∧
    s.runPass.tier.counts = (s.tier.counts.map (fun c => (c.1, c.2 / 2))).filter (fun c => c.2 != 0) ∧ s.runPass.tier.tables = s.tier.tables ∧
    s.tier.migTo <+: s.runPass.tier.migTo ∧ (∀ m ∈ s.tier.migTo, ∀ q ∈ s.runPass.tier.queue, q.1 ≠ m.page) := by
  unfold State.runPass
  extract_lets busy low free no down up chosen again tier u
  obtain ⟨-, -, -, hrow, htables, -, hcounts, hpass, hmig, hqueue⟩ := u.startMigration_starting.shows
  have hno : ∀ p, no p = true → ∀ m ∈ s.tier.migTo, p ≠ m.page := by
    intro p hp m hm hpm
    have : p ∈ busy := List.mem_map.mpr ⟨m, hm, hpm.symm⟩
    simp [no, this] at hp
  have hpages : ∀ (l : List Nat) (k d : Nat), ∀ q ∈ ((l.filter no).take k).map (fun p => (p, d)), no q.1 = true := by
    intro l k d q hq
    obtain ⟨p, hp, rfl⟩ := List.mem_map.mp hq
    exact (List.mem_filter.mp (List.mem_of_mem_take hp)).2
  have hdown : ∀ q ∈ down, no q.1 = true := by
    intro q hq
    simp only [down] at hq
    split at hq
    · exact hpages _ _ _ q hq
    · cases hq
  have hup : ∀ q ∈ up, no q.1 = true := by
    intro q hq
    simp only [up] at hq
    split at hq
    · exact hpages _ _ _ q hq
    · cases hq
  have hagain : ∀ q ∈ again, no q.1 = true := by
    intro q hq
    obtain ⟨p, hp, rfl⟩ := List.mem_map.mp hq
    have := (List.mem_filter.mp hp).2
    simp only [Bool.and_eq_true] at this
    exact this.1.2
  refine ⟨hpass, hrow, hcounts, htables, hmig, fun m hm q hq => hno _ ?_ m hm⟩
  rcases List.mem_append.mp (hqueue q hq) with hq | hq
  · rcases List.mem_append.mp hq with hq | hq
    · exact hdown q hq
    · exact hup q hq
  · exact hagain q hq

theorem State.advance_tier (s : State) (t : Nat) : (s.advance t).tier = s.tier :=
  (State.advance_does s t (by decide) (Does.rfl' 67633168 s)).frame .tier (by decide)

/-- MIGRATION_PASS: that of a bind-off at once, else at the next multiple of 2^20 ticks of IDLE and HOLD (R270). -/
theorem migrationPass_runs (s : State) (hp : 2 ≤ s.rf R.PWR_STATE_STATE) (hdue : s.tier.passDue = true ∨ s.stopped = true) :
    Runs .migrationPass s [.stepRegs, .tierRegs, .row, .idleRuns, .ledgers, .tier] (fun t =>
      t.tier.passDue = false ∧ t.row = (if s.tier.passDue then s.row else (s.row / 2 ^ 20 + 1) * 2 ^ 20) ∧
      t.tier.counts = (s.tier.counts.map (fun c => (c.1, c.2 / 2))).filter (fun c => c.2 != 0) ∧ t.tier.tables = s.tier.tables ∧
      s.tier.migTo <+: t.tier.migTo ∧ (∀ m ∈ s.tier.migTo, ∀ q ∈ t.tier.queue, q.1 ≠ m.page)) := by
  by_cases hpass : s.tier.passDue = true
  · have he : exec .migrationPass s = .next s.runPass := congrArg Host.Outcome.next ((if_neg (by omega)).trans (if_pos hpass))
    refine Runs.of he (execMigrationPass_does _ _ he) (by decide) ?_
    rw [if_pos hpass]
    exact s.runPass_shows
  · have hstop : s.stopped = true := hdue.resolve_left hpass
    have he : exec .migrationPass s = .next (s.advance ((s.row / 2 ^ 20 + 1) * 2 ^ 20)).runPass :=
      congrArg Host.Outcome.next ((if_neg (by omega)).trans ((if_neg hpass).trans (if_pos hstop)))
    refine Runs.of he (execMigrationPass_does _ _ he) (by decide) ?_
    have hshows := (s.advance ((s.row / 2 ^ 20 + 1) * 2 ^ 20)).runPass_shows
    rw [State.advance_tier, State.advance_row, Nat.max_eq_right (by omega)] at hshows
    rw [if_neg hpass]
    exact hshows

/-! ## A copy that ends -/

/-- Time that passes to a tick leaves all but the step's phase and figures. -/
theorem State.toTick_leaves (s : State) (d : Nat) : (s.toTick d).tier = s.tier ∧ (s.toTick d).mem = s.mem ∧ (s.toTick d).marks = s.marks ∧
    (s.toTick d).sent = s.sent ∧ ∀ f : Fld, f.key ≠ R.STEP_STATUS_PHASE.key → (s.toTick d).rf f = s.rf f := by
  have hd : Does 67633168 s (s.toTick d) := State.toTick_does s d (by decide) (Does.rfl' _ s)
  exact ⟨hd.frame .tier (by decide), s.advance_mem _, hd.frame .marks (by decide), hd.frame .sent (by decide), fun f hf => s.advance_rf _ f hf⟩

/-- Slots of migration used: what they take is noted, and time passes (R269). -/
theorem State.useTier_shows (s : State) (c : List (Nat × Nat) × Nat) : (s.useTier c).tier = { s.tier with used := c.1 } ∧
    (s.useTier c).mem = s.mem ∧ (s.useTier c).marks = s.marks ∧ (s.useTier c).sent = s.sent ∧
    ∀ f : Fld, f.key ≠ R.STEP_STATUS_PHASE.key → (s.useTier c).rf f = s.rf f := by
  unfold State.useTier
  dsimp only
  split
  · exact State.toTick_leaves _ c.2
  · exact ⟨rfl, rfl, rfl, rfl, fun _ _ => rfl⟩

/-- A migration taken off the list. -/
def State.endMigration (s : State) (page : Nat) : State := { s with tier := { s.tier with migTo := s.tier.migTo.filter (fun x => x.page != page) } }

/-- A far fault of a migration recorded (R383). -/
def State.noteFarFault (s : State) (page : Nat) : State := (s.hqErr stFAR_FAULT R.HQ_ERR_FAR_FAULT).logEv stFAR_FAULT 0x30 0 0 (page * 2 ^ 21)

theorem State.noteFarFault_shows (s : State) (page : Nat) : (s.noteFarFault page).mem = s.mem ∧ (s.noteFarFault page).marks = s.marks ∧
    (s.noteFarFault page).sent = s.sent ∧ (s.noteFarFault page).tier = s.tier ∧ (s.noteFarFault page).rf R.HQ_ERR_FAR_FAULT = 1 := by
  have hlog : Does 536895488 (s.hqErr stFAR_FAULT R.HQ_ERR_FAR_FAULT) (s.noteFarFault page) :=
    State.logEv_does _ _ _ _ _ _ (by decide) (Does.rfl' _ _)
  exact ⟨State.logEv_mem _ _ _ _ _ _, hlog.frame .marks (by decide), hlog.frame .sent (by decide), hlog.frame .tier (by decide),
    (State.logEv_rf _ _ _ _ _ _ _ (by decide)).trans (State.rf_set_same _ _ _)⟩

/-- A migration whose far side failed: the page stays, and the far fault is recorded (R271, R383). -/
theorem State.migrated_fails (s : State) (m : Mig) (e : Ent) (data : List Byte) : (s.migrated m e false data).mem = s.mem ∧
    (s.migrated m e false data).marks = s.marks ∧ (s.migrated m e false data).sent = s.sent ∧ (s.migrated m e false data).tier.tables = s.tier.tables ∧
    (s.migrated m e false data).tier.used = s.tier.used ∧ (s.migrated m e false data).rf R.HQ_ERR_FAR_FAULT = 1 := by
  have hstate : s.migrated m e false data = ((s.endMigration m.page).noteFarFault m.page).startMigration.showTier := rfl
  obtain ⟨hmem, hmarks, hsent, htier, hfault⟩ := (s.endMigration m.page).noteFarFault_shows m.page
  have htables : (s.endMigration m.page).tier.tables = s.tier.tables := rfl
  have hused : (s.endMigration m.page).tier.used = s.tier.used := rfl
  rw [hstate]
  generalize (s.endMigration m.page).noteFarFault m.page = v at *
  obtain ⟨hmem', hmarks', hsent', -, htables', hused', -⟩ := v.startMigration_starting.shows
  exact ⟨hmem'.trans hmem, hmarks'.trans hmarks, hsent'.trans hsent, htables'.trans ((congrArg TierSt.tables htier).trans htables),
    hused'.trans ((congrArg TierSt.used htier).trans hused), (v.startMigration_starting.only.rf _ (by decide)).trans hfault⟩

theorem State.clearBias_mem (s : State) (lo n : Nat) : (s.clearBias lo n).mem = s.mem := by
  unfold State.clearBias
  exact State.forEach_keeps State.mem _ _ (fun v _ => State.set_mem v _ _) s

theorem State.clearBias_tier (s : State) (lo n : Nat) : (s.clearBias lo n).tier = s.tier := by
  unfold State.clearBias
  exact State.forEach_keeps State.tier _ _ (fun v _ => State.set_tier v _ _) s

/-- Device bias writes the words of bias only. -/
theorem State.clearBias_rf (s : State) (lo n : Nat) {f : Fld} (hf : f.key / 64 < 0x310000) : (s.clearBias lo n).rf f = s.rf f := by
  unfold State.clearBias
  refine State.forEach_keeps (fun v => v.rf f) _ _ (fun v i => State.rf_set_of_ne _ _ _ _ fun hk => ?_) s
  rw [hk] at hf
  simp only [Fld.key, R.TIER_BIAS_BIAS] at hf
  omega

theorem State.setDir_rf (s : State) (i kind cls cache target : Nat) {f : Fld} (hf : f.key / 64 < 0x340000) :
    (s.setDir i kind cls cache target).rf f = s.rf f := by
  have hne : ∀ lo w, lo < 64 → f.key ≠ (⟨0x340000 + 0x8 * (i % 16384), lo, w⟩ : Fld).key := by
    intro lo w hlo hk
    rw [hk] at hf
    simp only [Fld.key] at hf
    omega
  exact (State.rf_set_of_ne _ _ _ _ (hne 0 13 (by decide))).trans ((State.rf_set_of_ne _ _ _ _ (hne 57 1 (by decide))).trans
    ((State.rf_set_of_ne _ _ _ _ (hne 58 4 (by decide))).trans (State.rf_set_of_ne _ _ _ _ (hne 62 2 (by decide)))))

/-- The tables stand apart from what is taken of slots. -/
theorem State.withTables_used (s : State) (tables : List (Nat × Nat)) (bad : List Nat) :
    ({ s with tier := { s.tier with tables := tables, badEnt := bad } } : State).tier.used = s.tier.used := rfl

/-- An entry written changes the directory and the tables only (R258). -/
theorem State.putEnt_shows (s : State) (page : Nat) (e : Ent) : (s.putEnt page e).mem = s.mem ∧ (s.putEnt page e).tier.used = s.tier.used ∧
    ∀ f : Fld, f.key / 64 < 0x340000 → (s.putEnt page e).rf f = s.rf f := by
  have hneed : (s.needTable (page / 131072)).mem = s.mem ∧ (s.needTable (page / 131072)).tier.used = s.tier.used ∧
      ∀ f : Fld, f.key / 64 < 0x340000 → (s.needTable (page / 131072)).rf f = s.rf f := by
    unfold State.needTable
    split
    · exact ⟨rfl, rfl, fun _ _ => rfl⟩
    split
    · exact ⟨rfl, rfl, fun _ _ => rfl⟩
    · exact ⟨rfl, rfl, fun f hf => (State.rf_withTier _ _ _).trans (State.setDir_rf s _ _ _ _ _ hf)⟩
  obtain ⟨hmem, hused, hregs⟩ := hneed
  unfold State.putEnt
  extract_lets u k
  split
  · exact ⟨hmem, hused, hregs⟩
  · exact ⟨hmem, (u.withTables_used _ _).trans hused, fun f hf => (State.rf_withTier u _ _).trans (hregs f hf)⟩

/-- A page placed leaves the registers of TIER and the tiers. -/
theorem State.placePage_does' (s : State) (near : Bool) (da : Nat) (l : List MByte) : Does 2250570211328 s (s.placePage near da l) :=
  State.placePage_does s near da l (by decide) (Does.rfl' _ s)

/-- A page that was copied lies at its target, and is counted (R271). -/
theorem State.movePage_shows (s : State) (page tgt : Nat) (e : Ent) (data : List Byte) :
    (s.movePage page tgt e data).mem = ((s.pageBytes e.page data).2.placePage (decide (s.tierOf (tgt * 2 ^ 21) < 2)) (tgt * 2 ^ 21)
      (s.pageBytes e.page data).1).mem ∧ (s.movePage page tgt e data).tier.used = s.tier.used ∧
    (s.movePage page tgt e data).rf R.TIER_MIGRATE_DONE = (s.rf R.TIER_MIGRATE_DONE + 1) % 2 ^ 32 := by
  unfold State.movePage
  have hbytes : Does 34368126976 s (s.pageBytes e.page data).2 := State.pageBytes_does s _ _ (by decide) (Does.rfl' _ s)
  have hplace := (s.pageBytes e.page data).2.placePage_does' (decide (s.tierOf (tgt * 2 ^ 21) < 2)) (tgt * 2 ^ 21) (s.pageBytes e.page data).1
  generalize (s.pageBytes e.page data).2.placePage (decide (s.tierOf (tgt * 2 ^ 21) < 2)) (tgt * 2 ^ 21) (s.pageBytes e.page data).1 = u at hplace
  generalize (s.pageBytes e.page data).2 = b at hbytes hplace
  have htier : u.tier = s.tier := (show u.tier = b.tier from hplace.frame .tier (by decide)).trans (hbytes.frame .tier (by decide))
  have hcount : u.rf R.TIER_MIGRATE_DONE = s.rf R.TIER_MIGRATE_DONE := (hplace.rf _ (by decide)).trans (hbytes.rf _ (by decide))
  obtain ⟨hmem, hused, hregs⟩ := u.putEnt_shows page { e with page := tgt }
  generalize u.putEnt page { e with page := tgt } = p at hmem hused hregs
  have hstart := ((p.clearBias tgt 1).bump R.TIER_MIGRATE_DONE).startMigration_starting
  obtain ⟨hmem', -, -, -, -, hused', -⟩ := hstart.shows
  refine ⟨hmem'.trans ((p.clearBias_mem tgt 1).trans hmem), hused'.trans ?_, ?_⟩
  · rw [show ((p.clearBias tgt 1).bump R.TIER_MIGRATE_DONE).tier = p.tier from p.clearBias_tier tgt 1, hused, htier]
  · refine (hstart.only.rf _ (by decide)).trans ((State.rf_set_same _ _ _).trans ?_)
    rw [p.clearBias_rf tgt 1 (by decide), hregs _ (by decide), hcount]
    rfl

/-- PAGE_MIGRATION_DONE: the copy of the page longest in migration whose slots have come ends (R269, R271). -/
theorem pageMigrationDone_ends (ok : Bool) (data : List Byte) (s : State) (m : Mig) (c : List (Nat × Nat) × Nat) (e : Ent)
    (hnext : s.migNext = some m) (hclaim : s.migClaim m = some c) (hent : s.entOf m.page = some e) :
    Runs (.pageMigrationDone ok data) s [.stepRegs, .hqRegs, .tierRegs, .faultRegs, .logRegs, .row, .memory, .marks, .sent, .free, .idleRuns, .logRound,
        .fault, .ledgers, .tier, .host]
      (fun t =>
        let v := s.useTier c
        let u : State := { v with tier := { v.tier with migTo := v.tier.migTo.filter (fun x => x.page != m.page) } }
        t.row = v.row ∧ t.tier.used = c.1 ∧
        (ok = false → t.mem = s.mem ∧ t.marks = s.marks ∧ t.sent = s.sent ∧ t.tier.tables = s.tier.tables ∧ t.rf R.HQ_ERR_FAR_FAULT = 1) ∧
        (ok = true → t.mem = ((u.pageBytes e.page data).2.placePage (decide (s.tierOf (m.target * 2 ^ 21) < 2)) (m.target * 2 ^ 21)
            (u.pageBytes e.page data).1).mem ∧
          t.rf R.TIER_MIGRATE_DONE = (s.rf R.TIER_MIGRATE_DONE + 1) % 2 ^ 32)) := by
  have he : exec (.pageMigrationDone ok data) s = .next ((s.useTier c).migrated m e ok data) := by
    show execPageMigrationDone ok data s = _
    unfold execPageMigrationDone
    rw [hnext]
    dsimp only
    rw [hclaim, hent]
  refine Runs.of he (execPageMigrationDone_does _ _ _ _ he) (by decide) ?_
  obtain ⟨htier, hmem, hmarks, hsent, hregs⟩ := s.useTier_shows c
  dsimp only
  generalize s.useTier c = v at htier hmem hmarks hsent hregs
  have hrow : (v.migrated m e ok data).row = v.row := (State.migrated_does v m e ok data (by decide) (Does.rfl' 2525993394368 v)).frame .row (by decide)
  refine ⟨hrow, ?_⟩
  cases ok with
  | false =>
    obtain ⟨hmem', hmarks', hsent', htables, hused, hfar⟩ := v.migrated_fails m e data
    exact ⟨hused.trans (by rw [htier]), fun _ => ⟨hmem'.trans hmem, hmarks'.trans hmarks, hsent'.trans hsent, htables.trans (by rw [htier]), hfar⟩,
      fun h => absurd h (by decide)⟩
  | true =>
    obtain ⟨hmem', hused, hdone⟩ := (v.endMigration m.page).movePage_shows m.page m.target e data
    have hnear : (v.endMigration m.page).tierOf (m.target * 2 ^ 21) = s.tierOf (m.target * 2 ^ 21) :=
      congrArg (Machine.tierOf · (m.target * 2 ^ 21)) (hregs R.GLB_ID_LCLUSTERS (by decide))
    rw [hnear] at hmem'
    refine ⟨hused.trans (show v.tier.used = c.1 by rw [htier]), fun h => absurd h (by decide), fun _ => ⟨hmem', hdone.trans ?_⟩⟩
    rw [show (v.endMigration m.page).rf R.TIER_MIGRATE_DONE = s.rf R.TIER_MIGRATE_DONE from hregs _ (by decide)]

/-- Settles O33: commands by the word they write and what R268 answers it, a pass by what it queues, and a copy by whether its far side failed. -/
theorem mapCommandsAndMigration : Obligations.MapCommandsAndMigration :=
  ⟨⟨mapCommand_answers, tierMapDone_counts⟩, migrationPass_runs, pageMigrationDone_ends⟩

end Sys2Proof.Machine
end

section
/-! SUPPORT. O35, R277: host lend entries written, or refused. -/

namespace Sys2Proof.Machine

/-- The rows of TIER_LEND_A and TIER_LEND_B (R277). -/
def lendARow : RegRow := ⟨0x302000, 32, 0x10, 64, [⟨21, 31, .rw, .host⟩, ⟨0, 21, .rw, .host⟩]⟩
def lendBRow : RegRow := ⟨0x302008, 32, 0x10, 64, [⟨21, 21, .rw, .host⟩, ⟨1, 1, .rw, .host⟩, ⟨0, 1, .rw, .host⟩]⟩

theorem findReg_lendA (e : Fin 32) : findReg (0x302000 + 16 * e.val + 0) = some lendARow := by
  have h := findReg_of_alone (r := lendARow) (by decide +kernel) (RegRow.holds_elem e.val (by decide))
  rwa [show lendARow.elem e.val = 0x302000 + 16 * (e.val % 32) from rfl, Nat.mod_eq_of_lt e.isLt] at h

theorem findReg_lendB (e : Fin 32) : findReg (0x302000 + 16 * e.val + 8) = some lendBRow := by
  have h := findReg_of_alone (r := lendBRow) (by decide +kernel) (RegRow.holds_elem e.val (by decide))
  rwa [show lendBRow.elem e.val = 0x302008 + 16 * (e.val % 32) from rfl, Nat.mod_eq_of_lt e.isLt,
    show 0x302008 + 16 * e.val = 0x302000 + 16 * e.val + 8 by omega] at h

/-- The registers of lending are those of TIER, and no figures of the map. -/
theorem lend_blk (c e lo w : Nat) (hc : c < 0x10) (hlo : lo < 64) : Fld.blk ⟨0x302000 + c + 0x10 * (e % 32), lo, w⟩ = 7 := by
  have h1 : blockOf 0x302000 = 7 := by decide
  have h2 : blockOf 0x302200 = 7 := by decide
  rw [Fld.blk_eq _ _ _ hlo]
  have := blockOf_mono (show 0x302000 ≤ 0x302000 + c + 0x10 * (e % 32) by omega)
  have := blockOf_mono (show 0x302000 + c + 0x10 * (e % 32) ≤ 0x302200 by omega)
  omega

theorem lend_notLog (c e lo w : Nat) (hc : c < 0x10) (hlo : lo < 64) : Fld.notLog ⟨0x302000 + c + 0x10 * (e % 32), lo, w⟩ = true := by
  have hb := lend_blk c e lo w hc hlo
  exact Fld.notLog_of_blk (by rw [hb]; decide) (by rw [hb]; decide)

theorem State.showTier_lend (s : State) (c e lo w : Nat) :
    s.showTier.rf ⟨0x302000 + c + 0x10 * (e % 32), lo, w⟩ = s.rf ⟨0x302000 + c + 0x10 * (e % 32), lo, w⟩ := by
  have hbelow : ∀ f ∈ [R.TIER_STATUS_TABLES, R.TIER_STATUS_LENDS, R.TIER_POOL_FREE_HBM, R.TIER_MIGRATE_QUEUED], f.key < 0x302000 * 64 := by decide
  refine s.showTier_only _ fun f hf hk => ?_
  have hlow := hbelow f hf
  rw [← hk] at hlow
  simp only [Fld.key] at hlow
  omega

/-- A field of a lend entry after a 64-bit write of its register. -/
theorem State.regWrite_lend (s : State) (v c lo w : Nat) {r : RegRow} (e : Fin 32) (hc : c < 0x10) (hlo : lo < 64)
    (hr : findReg (0x302000 + 16 * e.val + c) = some r) (hm : r.writableBy .host = true)
    (hf : r.fields.all (fun f => decide (0 < f.w ∧ f.lo + f.w ≤ 64)) = true) :
    (s.regWrite (0x302000 + 16 * e.val + c) (Wr.full .host v)).rf ⟨0x302000 + c + 0x10 * (e.val % 32), lo, w⟩ =
      r.after lo .host v (s.rf ⟨0x302000 + c + 0x10 * (e.val % 32), lo, w⟩) := by
  have ho : 0x302000 + 16 * e.val + c = 0x302000 + c + 0x10 * (e.val % 32) := by
    rw [Nat.mod_eq_of_lt e.isLt]
    omega
  rw [ho] at hr ⊢
  exact State.regWrite_field s ⟨0x302000 + c + 0x10 * (e.val % 32), lo, w⟩ hr hm hf (lend_notLog c e.val lo w hc hlo)

/-- A write of a lend entry by the host: refused where the entry, valid, breaks R277. -/
theorem State.writeLend_host (s : State) (e : Nat) (b : Bool) (v : Nat) {o : Nat} {u : State}
    (ho : 0x302000 + 16 * e + (if b then 8 else 0) = o) (hu : s.regWrite o (Wr.full .host v) = u) :
    s.writeLend e b (Wr.full .host v) = if u.rf (R.TIER_LEND_B_VALID e) = 1 ∧ u.lendBad e = true
      then s.refuse o stBAD_ARG else u.showTier := by
  have hmay : mayWrite (Wr.full .host v).m .host = true := rfl
  unfold State.writeLend
  simp only [ho, hu, hmay, true_and]

theorem exec_lendEntryWrite {e : Fin 32} {b : Bool} {v : BitVec 64} {s : State} (h : s.reach .host = true) :
    exec (.lendEntryWrite .host e b v) s = .next (s.writeLend e.val b (Wr.full .host v.toNat)) := congrArg Host.Outcome.next (if_pos h)

/-- A write of TIER_LEND_B (R277). -/
theorem lendEntryWrite_offset (e : Fin 32) (v : BitVec 64) (s : State) (h : s.reach .host = true) :
    Runs (.lendEntryWrite .host e true v) s [.tierRegs, .faultRegs, .logRegs, .logRound] (fun t =>
      let u := s.regWrite (0x302000 + 16 * e.val + 8) (Wr.full .host v.toNat)
      ((u.rf (R.TIER_LEND_B_VALID e.val) = 1 ∧ u.lendBad e.val = true) → t.rf (R.TIER_LEND_B_OFF e.val) = s.rf (R.TIER_LEND_B_OFF e.val) ∧
        t.rf (R.TIER_LEND_B_VALID e.val) = s.rf (R.TIER_LEND_B_VALID e.val)) ∧
      (¬(u.rf (R.TIER_LEND_B_VALID e.val) = 1 ∧ u.lendBad e.val = true) → t.rf (R.TIER_LEND_B_OFF e.val) = bitsOf v.toNat 21 21 ∧
        t.rf (R.TIER_LEND_B_WRITE e.val) = bitsOf v.toNat 1 1 ∧ t.rf (R.TIER_LEND_B_VALID e.val) = bitsOf v.toNat 0 1)) := by
  have he := exec_lendEntryWrite (e := e) (b := true) (v := v) h
  refine Runs.of he (execLendEntryWrite_does _ _ _ _ _ _ he) (by decide) ?_
  rw [s.writeLend_host e.val true v.toNat (o := 0x302000 + 16 * e.val + 8) rfl rfl]
  have hoff := fun lo w hlo => s.regWrite_lend v.toNat 8 lo w e (by decide) hlo (findReg_lendB e) (by decide) (by decide)
  have hpost : ∀ u : State, u = s.regWrite (0x302000 + 16 * e.val + 8) (Wr.full .host v.toNat) →
      u.rf (R.TIER_LEND_B_OFF e.val) = bitsOf v.toNat 21 21 ∧ u.rf (R.TIER_LEND_B_WRITE e.val) = bitsOf v.toNat 1 1 ∧
        u.rf (R.TIER_LEND_B_VALID e.val) = bitsOf v.toNat 0 1 := by
    rintro u rfl
    exact ⟨hoff 21 21 (by decide), hoff 1 1 (by decide), hoff 0 1 (by decide)⟩
  refine ⟨fun hbad => ?_, fun hgood => ?_⟩
  · rw [if_pos hbad]
    exact ⟨State.refuse_rf _ _ _ _ (lend_notLog 8 _ 21 21 (by decide) (by decide)),
      State.refuse_rf _ _ _ _ (lend_notLog 8 _ 0 1 (by decide) (by decide))⟩
  · rw [if_neg hgood]
    obtain ⟨ho, hw, hv⟩ := hpost _ rfl
    exact ⟨(State.showTier_lend _ 8 _ 21 21).trans ho, (State.showTier_lend _ 8 _ 1 1).trans hw, (State.showTier_lend _ 8 _ 0 1).trans hv⟩

/-- A write of TIER_LEND_A of an entry that may stand (R277). -/
theorem lendEntryWrite_range (e : Fin 32) (v : BitVec 64) (s : State) (h : s.reach .host = true)
    (hgood : ¬(s.rf (R.TIER_LEND_B_VALID e.val) = 1 ∧ (s.regWrite (0x302000 + 16 * e.val + 0) (Wr.full .host v.toNat)).lendBad e.val = true)) :
    Runs (.lendEntryWrite .host e false v) s [.tierRegs, .faultRegs, .logRegs, .logRound] (fun t =>
      t.rf (R.TIER_LEND_A_OA e.val) = bitsOf v.toNat 21 31 ∧ t.rf (R.TIER_LEND_A_PAGES e.val) = bitsOf v.toNat 0 21) := by
  have he := exec_lendEntryWrite (e := e) (b := false) (v := v) h
  refine Runs.of he (execLendEntryWrite_does _ _ _ _ _ _ he) (by decide) ?_
  have hvalid : (s.regWrite (0x302000 + 16 * e.val + 0) (Wr.full .host v.toNat)).rf (R.TIER_LEND_B_VALID e.val) = s.rf (R.TIER_LEND_B_VALID e.val) :=
    State.regWrite_other s _ (findReg_lendA e) (by decide) (lend_notLog 8 _ 0 1 (by decide) (by decide)) (by
      have := e.isLt
      simp only [Fld.key, R.TIER_LEND_B_VALID]
      omega)
  have hrange := fun lo w hlo => s.regWrite_lend v.toNat 0 lo w e (by decide) hlo (findReg_lendA e) (by decide) (by decide)
  rw [← hvalid] at hgood
  rw [s.writeLend_host e.val false v.toNat (o := 0x302000 + 16 * e.val + 0) rfl rfl]
  have hpost : ∀ u : State, u = s.regWrite (0x302000 + 16 * e.val + 0) (Wr.full .host v.toNat) →
      u.rf (R.TIER_LEND_A_OA e.val) = bitsOf v.toNat 21 31 ∧ u.rf (R.TIER_LEND_A_PAGES e.val) = bitsOf v.toNat 0 21 := by
    rintro u rfl
    exact ⟨hrange 21 31 (by decide), hrange 0 21 (by decide)⟩
  obtain ⟨ho, hp⟩ := hpost _ rfl
  rw [if_neg (show ¬_ from hgood)]
  exact ⟨(State.showTier_lend _ 0 _ 21 31).trans ho, (State.showTier_lend _ 0 _ 0 21).trans hp⟩

end Sys2Proof.Machine
end

section
/-! SUPPORT. O35: when a neighbour's request is served, and when it waits (R277, R278). -/

namespace Sys2Proof.Machine

/-- Announcements apart, nothing is carried by FW's slots. -/
theorem State.serveAnns_of_requests {s : State} (h : ∀ r ∈ s.tier.peers, r.kind < 3) : s.serveAnns = s := by
  have hanns : s.tier.peers.filter (fun r => decide (3 ≤ r.kind)) = [] :=
    List.filter_eq_nil_iff.mpr fun r hr => by simpa using h r hr
  have hrest : s.tier.peers.filter (fun r => decide (r.kind < 3)) = s.tier.peers :=
    List.filter_eq_self.mpr fun r hr => by simpa using h r hr
  unfold State.serveAnns
  split
  · rfl
  · dsimp only
    rw [hanns, hrest]
    rfl

theorem State.claimPeers_outside {s : State} (h : s.slotTime = false) : s.claimPeers = s := if_pos (by rw [h]; rfl)

/-- Outside plan time no request awaits its slots' tick. -/
theorem State.peerSoon_outside {s : State} (h : s.slotTime = false) : s.peerSoon = none := by
  unfold State.peerSoon
  split
  · split
    · rw [h]; rfl
    · rfl
  · rfl

/-- A state in which one request waits. -/
def State.withPeer (s : State) (r : PeerReq) : State := { s with tier := { s.tier with peers := [r] } }

theorem State.withPeer_serveAnns (s : State) {r : PeerReq} (hkind : r.kind < 3) : (s.withPeer r).serveAnns = s.withPeer r :=
  State.serveAnns_of_requests fun x hx => by
    rw [List.mem_singleton.mp hx]
    exact hkind

/-- A state in which one request has claimed its slots, the last of them at the tick given. -/
def State.withClaim (s : State) (r : PeerReq) (c : List (Nat × Nat) × Nat) : State :=
  { s with tier := { s.tier with used := c.1, peers := [{ r with due := some c.2 }] } }

theorem State.withPeer_claims {s : State} {r : PeerReq} (hkind : r.kind < 3) (htime : s.slotTime = true) (hdue : r.due = none)
    {c : List (Nat × Nat) × Nat} (hclaim : s.slots.claim s.tier.used s.planTick (s.peerLoad r) = some c) :
    (s.withPeer r).serveAnns.claimPeers = s.withClaim r c := by
  rw [State.withPeer_serveAnns s hkind]
  unfold State.claimPeers
  rw [if_neg (by rw [show (s.withPeer r).slotTime = s.slotTime from rfl, htime]; decide)]
  dsimp only [State.withPeer, List.foldl_cons, List.foldl_nil]
  rw [if_neg (by rw [hdue]; decide)]
  rw [show State.slots { s with tier := { s.tier with peers := [r] } } = s.slots from rfl,
    show State.planTick { s with tier := { s.tier with peers := [r] } } = s.planTick from rfl,
    show State.peerLoad { s with tier := { s.tier with peers := [r] } } r = s.peerLoad r from rfl, hclaim] <;> rfl

theorem State.takePeer_first {s : State} (h : s.tier.peers = []) (r : PeerReq) : s.takePeer r =
    match (s.withPeer r).servePeers.peerSoon with
    | some d => ((s.withPeer r).servePeers.toTick d).servePeers
    | none => (s.withPeer r).servePeers := by
  have happ : s.tier.peers ++ [r] = [r] := by rw [h, List.nil_append]
  unfold State.takePeer State.withPeer
  rw [happ] <;> rfl

/-- One request that waits is looked at once. -/
theorem State.servePeers_one {s u : State} {r : PeerReq} (hclaim : s.serveAnns.claimPeers = u) (hpeers : u.tier.peers = [r]) :
    s.servePeers = if u.peerDue r then ({ u with tier := { u.tier with peers := [] } }).servePeer r else u := by
  have hnext : s.servePeers = u.peerNext := by
    show (upTo s.serveAnns.claimPeers.tier.peers.length).foldl _ s.serveAnns.claimPeers = _
    rw [hclaim, hpeers]
    rfl
  rw [hnext]
  unfold State.peerNext
  rw [hpeers]

section
variable {s : State} {r : PeerReq} (hpeers : s.tier.peers = []) (hkind : r.kind < 3)
include hpeers hkind

/-- In IDLE and HOLD a request is served as it comes (R278). -/
theorem State.takePeer_atOnce (hstop : s.stopped = true) (hpeers' : (s.servePeer r).tier.peers = []) : s.takePeer r = s.servePeer r := by
  have htime : (s.withPeer r).slotTime = false := by
    cases h : s.slotTime with
    | false => exact h
    | true => rw [State.not_stopped_of_slotTime h] at hstop; cases hstop
  have hdue : (s.withPeer r).peerDue r = true := by
    unfold State.peerDue
    rw [show (s.withPeer r).stopped = s.stopped from rfl, hstop, Bool.true_or]
  have hback : ({ s.withPeer r with tier := { (s.withPeer r).tier with peers := [] } } : State) = s :=
    congrArg (fun p => ({ s with tier := { s.tier with peers := p } } : State)) hpeers.symm
  have hserve : (s.withPeer r).servePeers = s.servePeer r := by
    rw [State.servePeers_one (u := s.withPeer r) (r := r) (by rw [State.withPeer_serveAnns s hkind, State.claimPeers_outside htime]) rfl,
      if_pos hdue, hback]
  have hsoon : (s.servePeer r).peerSoon = none := by
    unfold State.peerSoon
    rw [hpeers']
  rw [State.takePeer_first hpeers, hserve, hsoon]

/-- In the rest of the phases a request waits outside plan time (R278). -/
theorem State.takePeer_waits_outside (hstop : s.stopped = false) (htime : s.slotTime = false) : s.takePeer r = s.withPeer r := by
  have htime' : (s.withPeer r).slotTime = false := htime
  have hdue : (s.withPeer r).peerDue r = false := by
    unfold State.peerDue
    rw [show (s.withPeer r).stopped = s.stopped from rfl, hstop, htime']
    rfl
  have hserve : (s.withPeer r).servePeers = s.withPeer r := by
    rw [State.servePeers_one (u := s.withPeer r) (r := r) (by rw [State.withPeer_serveAnns s hkind, State.claimPeers_outside htime']) rfl,
      if_neg (by rw [hdue]; decide)]
  rw [State.takePeer_first hpeers, hserve, State.peerSoon_outside htime']

/-- In plan time a request whose slots come after the round under way waits for them (R278). -/
theorem State.takePeer_claims (htime : s.slotTime = true) (hdue : r.due = none) {c : List (Nat × Nat) × Nat}
    (hclaim : s.slots.claim s.tier.used s.planTick (s.peerLoad r) = some c) (hlate : (s.planTick / 32 + 1) * 32 ≤ c.2) :
    s.takePeer r = s.withClaim r c := by
  have hnot : (s.withClaim r c).peerDue { r with due := some c.2 } = false := by
    unfold State.peerDue
    rw [show (s.withClaim r c).stopped = s.stopped from rfl, State.not_stopped_of_slotTime htime,
      show (s.withClaim r c).planTick = s.planTick from rfl]
    have hlater : ¬c.2 ≤ s.planTick := by omega
    simp [hlater]
  have hserve : (s.withPeer r).servePeers = s.withClaim r c := by
    rw [State.servePeers_one (State.withPeer_claims hkind htime hdue hclaim) rfl, if_neg (by rw [hnot]; decide)]
  have hsoon : (s.withClaim r c).peerSoon = none := by
    refine if_neg (c := ((s.withClaim r c).slotTime && decide (c.2 < (s.planTick / 32 + 1) * 32)) = true) ?_
    simp [Nat.not_lt.mpr hlate]
  rw [State.takePeer_first hpeers, hserve, hsoon]

end

end Sys2Proof.Machine
end

section
/-! SUPPORT. O35: what a neighbour's read or write at a lent page leaves (R221, R264, R277, R366). -/

namespace Sys2Proof.Machine

/-! ## Requests that wait, and memory -/

/-- The same requests of neighbours wait. -/
def SamePeers (s t : State) : Prop := t.tier.peers = s.tier.peers

theorem Does.samePeers {m : Nat} {s t : State} (h : Does m s t) (h38 : m.testBit 38 = false) : SamePeers s t :=
  congrArg TierSt.peers (show t.tier = s.tier from h.frame .tier h38)

theorem State.notOwner_samePeers (s : State) (oa : Nat) :
    SamePeers s (((s.bump R.TIER_ERR_COUNT).set R.TIER_ERR_LAST_STATUS stNOT_OWNER).logEv stNOT_OWNER 0x30 0 0 oa) :=
  (State.logEv_does (μ := 536895488) ((s.bump R.TIER_ERR_COUNT).set R.TIER_ERR_LAST_STATUS stNOT_OWNER) _ _ _ _ _ (by decide)
    (Does.rfl' _ _)).samePeers (by decide)

theorem State.tierRefuse_samePeers (s : State) (why : Refused) (st oa : Nat) : SamePeers s (s.tierRefuse why st oa) :=
  (State.tierRefuse_does (μ := 536895616) s why st oa (by decide) (Does.rfl' _ s)).samePeers (by decide)

theorem State.countPage_samePeers (s : State) (page cls : Nat) : SamePeers s (s.countPage page cls) := by
  unfold State.countPage
  split <;> rfl

theorem State.countPage_mem (s : State) (page cls : Nat) : (s.countPage page cls).mem = s.mem := by
  unfold State.countPage
  split <;> rfl

/-- A page's part of a read leaves the memory, and the requests that wait. -/
theorem State.readSpan_leaves (w : Who) (g : Got) (sp : Nat × Nat × Nat) :
    (State.readSpan w g sp).st.mem = g.st.mem ∧ SamePeers g.st (State.readSpan w g sp).st := by
  have hrefuse : ∀ (x : Got) (why : Refused), (x.refuse why sp).st.mem = x.st.mem ∧ SamePeers x.st (x.refuse why sp).st := fun x why =>
    ⟨State.tierRefuse_mem _ _ _ _, State.tierRefuse_samePeers (x.st.freeBytes sp.2.2).2 _ _ _⟩
  unfold State.readSpan
  extract_lets s
  split
  · exact hrefuse g _
  rename_i e _
  extract_lets da u
  have hmem : u.mem = g.st.mem := s.countPage_mem sp.1 e.cls
  have hpeers : SamePeers g.st u := s.countPage_samePeers sp.1 e.cls
  clear_value u
  split
  · obtain ⟨hmem', hpeers'⟩ := hrefuse ⟨u, g.data, g.refused, g.far⟩ .unmapped
    exact ⟨hmem'.trans hmem, Eq.trans hpeers' hpeers⟩
  split
  · exact ⟨hmem, hpeers⟩
  · exact ⟨hmem, hpeers⟩
  · exact ⟨hmem, hpeers⟩
  · exact ⟨hmem, hpeers⟩

theorem State.readOA_leaves (s : State) (w : Who) (oa n : Nat) : (s.readOA w oa n).st.mem = s.mem ∧ SamePeers s (s.readOA w oa n).st := by
  have hfold : ∀ (spans : List (Nat × Nat × Nat)) (g : Got),
      (spans.foldl (State.readSpan w) g).st.mem = g.st.mem ∧ SamePeers g.st (spans.foldl (State.readSpan w) g).st := by
    intro spans
    induction spans with
    | nil => exact fun _ => ⟨rfl, rfl⟩
    | cons sp spans ih =>
      intro g
      obtain ⟨hmem, hpeers⟩ := State.readSpan_leaves w g sp
      obtain ⟨hmem', hpeers'⟩ := ih (State.readSpan w g sp)
      exact ⟨hmem'.trans hmem, Eq.trans hpeers' hpeers⟩
  exact hfold _ _

/-- Marked granules noted leave the memory. -/
theorem State.noteRange_mem (s : State) (oa n : Nat) : (s.noteRange oa n).mem = s.mem := by
  unfold State.noteRange
  refine State.foldl_keeps State.mem _ _ (fun v sp => ?_) s
  split
  · rfl
  · split
    · unfold State.noteLive
      split
      · rfl
      · dsimp only
        split <;> rfl
    · rfl

/-- A page's part of a write leaves the requests that wait. -/
theorem State.writeSpan_samePeers (w : Who) (own : Nat) (g : Got) (sp : Nat × Nat × Nat) : SamePeers g.st (State.writeSpan w own g sp).st := by
  unfold State.writeSpan
  extract_lets s oa l rest
  split
  · exact s.notOwner_samePeers oa
  split
  · exact s.tierRefuse_samePeers _ _ _
  split
  · exact s.tierRefuse_samePeers _ _ _
  rename_i e _
  extract_lets da u v
  split
  · exact s.notOwner_samePeers oa
  have hv : SamePeers g.st v := by
    have hu : SamePeers g.st u := s.countPage_samePeers sp.1 e.cls
    simp only [v]
    split
    · exact hu
    · exact hu
  clear_value u v
  split
  · exact Eq.trans (v.tierRefuse_samePeers _ _ _) hv
  split
  · exact Eq.trans ((State.writeMem_does (μ := 17183023104) v _ _ (by decide) (Does.rfl' _ v)).samePeers (by decide)) hv
  · exact Eq.trans ((State.writeMem_does (μ := 17183023104) v _ _ (by decide) (Does.rfl' _ v)).samePeers (by decide)) hv
  · exact Eq.trans ((State.writeFlash_does (μ := 4398600184080) v _ _ _ (by decide) (Does.rfl' _ v)).samePeers (by decide)) hv
  · exact Eq.trans ((v.postBus_posts _ _).samePeers (by decide)) hv

theorem State.writeOA_samePeers (s : State) (w : Who) (own oa : Nat) (l : List MByte) : SamePeers s (s.writeOA w own oa l).st := by
  have hfold : ∀ (spans : List (Nat × Nat × Nat)) (g : Got), SamePeers g.st (spans.foldl (State.writeSpan w own) g).st := by
    intro spans
    induction spans with
    | nil => exact fun _ => rfl
    | cons sp spans ih => exact fun g => Eq.trans (ih (State.writeSpan w own g sp)) (State.writeSpan_samePeers w own g sp)
  exact hfold _ _

/-! ## A page's part of a request -/

/-- The state after a read of a lent page, before its answer. -/
def State.peerRead (s : State) (oa len : Nat) : State :=
  if (s.readOA .peer oa len).data.any (·.2) then (s.readOA .peer oa len).st.noteRange oa len else (s.readOA .peer oa len).st

theorem State.peerRead_leaves (s : State) (oa len : Nat) : (s.peerRead oa len).mem = s.mem ∧ SamePeers s (s.peerRead oa len) := by
  obtain ⟨hmem, hpeers⟩ := s.readOA_leaves .peer oa len
  unfold State.peerRead
  split
  · exact ⟨(State.noteRange_mem _ _ _).trans hmem, Eq.trans ((State.noteRange_does (μ := 17179877376) (s.readOA .peer oa len).st oa len (by decide)
      (Does.rfl' _ _)).samePeers (by decide)) hpeers⟩
  · exact ⟨hmem, hpeers⟩

/-- The state that notes a refused request, before its answer. -/
def State.notePeerRefused (s : State) (why : Refused) (st o : Nat) : State :=
  ((s.tierRefuse why st o).set R.TIER_ERR_PEER_REFUSED 1).hqErr st R.HQ_ERR_REFUSED

theorem State.notePeerRefused_shows (s : State) (why : Refused) {st : Nat} (o : Nat) (hst : st < 2 ^ 8) :
    (s.notePeerRefused why st o).mem = s.mem ∧ SamePeers s (s.notePeerRefused why st o) ∧ (s.notePeerRefused why st o).sent = s.sent ∧
    (s.notePeerRefused why st o).rf R.TIER_ERR_PEER_REFUSED = 1 ∧ (s.notePeerRefused why st o).rf R.TIER_ERR_LAST_STATUS = st := by
  have htier : Does 536895616 s (s.tierRefuse why st o) := State.tierRefuse_does s why st o (by decide) (Does.rfl' _ s)
  have hmem := s.tierRefuse_mem why st o
  have hlast := (s.tierRefuse_lastStatus why st o).trans (Nat.mod_eq_of_lt hst)
  unfold State.notePeerRefused
  generalize s.tierRefuse why st o = u at *
  have hq : Does 64 (u.set R.TIER_ERR_PEER_REFUSED 1) ((u.set R.TIER_ERR_PEER_REFUSED 1).hqErr st R.HQ_ERR_REFUSED) :=
    State.hqErr_does _ _ _ (by decide) (by decide) (Does.rfl' _ _)
  exact ⟨hmem, Eq.trans (hq.samePeers (by decide)) (htier.samePeers (by decide)), htier.frame .sent (by decide),
    (hq.rf _ (by decide)).trans (State.rf_set_same _ _ _), (hq.rf _ (by decide)).trans ((State.rf_set_of_ne _ _ _ _ (by decide)).trans hlast)⟩

section
variable (s : State) (write : Bool) (o : Nat) (data : List MByte) (len : Nat)

theorem State.peerSpan_barred (h : s.lendPage write (o / 2 ^ 21) = none) :
    s.peerSpan write o data len = s.peerRefuse .barred (s.lendStatus write (o / 2 ^ 21)) write o len := by
  unfold State.peerSpan
  rw [h]

theorem State.peerSpan_reads {page own : Nat} {e : Ent} (h : s.lendPage false (o / 2 ^ 21) = some (page, own))
    (hfor : s.pageFor .peer page false = .ok e) : s.peerSpan false o data len =
      (s.peerRead (page * 2 ^ 21 + o % 2 ^ 21) len).emit (.answer (s.readOA .peer (page * 2 ^ 21 + o % 2 ^ 21) len).data) := by
  unfold State.peerSpan
  rw [h]
  dsimp only
  rw [Bool.false_and, hfor]
  rfl

theorem State.peerSpan_stores {page own : Nat} {e : Ent} (h : s.lendPage true (o / 2 ^ 21) = some (page, own))
    (hfor : s.pageFor .peer page (s.redirects page) = .ok e) (hclosed : s.pairClosed page = false) :
    s.peerSpan true o data len = (s.writeOA .peer own (page * 2 ^ 21 + o % 2 ^ 21) data).st := by
  unfold State.peerSpan
  rw [h]
  dsimp only
  rw [Bool.true_and, hfor]
  dsimp only
  rw [if_pos rfl, hclosed, if_neg Bool.false_ne_true]

/-- A refused request leaves the memory and the requests that wait, and is answered where it is a read. -/
theorem State.peerRefuse_shows (why : Refused) {st : Nat} (hst : st < 2 ^ 8) : (s.peerRefuse why st write o len).mem = s.mem ∧
    SamePeers s (s.peerRefuse why st write o len) ∧ (s.peerRefuse why st write o len).rf R.TIER_ERR_PEER_REFUSED = 1 ∧
    (s.peerRefuse why st write o len).rf R.TIER_ERR_LAST_STATUS = st ∧
    (write = false → (s.peerRefuse why st write o len).sent = s.sent ++ [.answer (List.replicate len (0, true))]) := by
  obtain ⟨hmem, hpeers, hsent, hset, hlast⟩ := s.notePeerRefused_shows why o hst
  have hunfold : s.peerRefuse why st write o len =
      if write then s.notePeerRefused why st o else (s.notePeerRefused why st o).emit (.answer (List.replicate len (0, true))) := rfl
  rw [hunfold]
  cases write with
  | true =>
    rw [if_pos rfl]
    exact ⟨hmem, hpeers, hset, hlast, fun h => absurd h (by decide)⟩
  | false =>
    rw [if_neg Bool.false_ne_true]
    refine ⟨hmem, hpeers, ?_, ?_, fun _ => ?_⟩
    · rw [State.emit_rf, hset]
    · rw [State.emit_rf, hlast]
    · rw [State.emit_sent, hsent]

/-- A page's part of a request leaves the requests that wait. -/
theorem State.peerSpan_samePeers : SamePeers s (s.peerSpan write o data len) := by
  have hbad : stBAD_ARG < 2 ^ 8 := by decide
  have hlend : s.lendStatus write (o / 2 ^ 21) < 2 ^ 8 := by
    unfold State.lendStatus
    split
    · split <;> decide
    · decide
  unfold State.peerSpan
  split
  · exact (s.peerRefuse_shows write o len .barred hlend).2.1
  split
  · exact (s.peerRefuse_shows write o len _ hbad).2.1
  split
  · split
    · exact (s.peerRefuse_shows write o len .barred hbad).2.1
    · exact s.writeOA_samePeers _ _ _ _
  · exact (s.peerRead_leaves _ len).2

end

/-! ## Requests within one page -/

theorem offset_lt_of_mem_pageSpans {a n : Nat} {sp : Nat × Nat × Nat} (h : sp ∈ pageSpans a n) : sp.2.1 < 2 ^ 21 := by
  unfold pageSpans at h
  split at h
  · cases h
  · obtain ⟨k, -, rfl⟩ := List.mem_map.mp h
    exact Nat.mod_lt _ (by decide)

/-- A request as it comes over the host link: a write of the data, or a read of n bytes. -/
def peerReq (w p : Bool) (a n : Nat) (data : List Byte) : PeerReq :=
  ⟨if w then 1 else 0, a, if w then data.length else n, if w then data else [], p, 0, 0, 0, none⟩

theorem peerReq_kind (w p : Bool) (a n : Nat) (data : List Byte) : (peerReq w p a n data).kind < 3 := by
  show (if w then 1 else 0) < 3
  split <;> decide

/-- A request within one page is that page's part. -/
theorem State.servePeer_span (s : State) {w p : Bool} {a n : Nat} {data : List Byte} {sp : Nat × Nat × Nat}
    (h : pageSpans a (if w then data.length else n) = [sp]) : s.servePeer (peerReq w p a n data) =
      s.peerSpan w (sp.1 * 2 ^ 21 + sp.2.1)
        ((((if w then data else []).map (fun b => (b, p))).drop (sp.1 * 2 ^ 21 + sp.2.1 - a)).take sp.2.2) sp.2.2 := by
  cases w with
  | true =>
    show (pageSpans a data.length).foldl _ s = _
    rw [show pageSpans a data.length = [sp] from h]
    rfl
  | false =>
    show (pageSpans a n).foldl _ s = _
    rw [show pageSpans a n = [sp] from h]
    rfl

end Sys2Proof.Machine
end

section
/-! SUPPORT. O35: PEER_REQUEST, and lending as a whole (R276 to R278, R365, R376). -/

namespace Sys2Proof.Machine

section
variable {w p tr : Bool} {a : BitVec 64} {n : Nat} {data : List Byte} {s : State} (hlink : s.linkUp = true)
include hlink

theorem exec_peerRequest_translated (htr : tr = true) : exec (.peerRequest ⟨w, tr⟩ a n data p) s = .next (s.emit .unsupported) :=
  congrArg Host.Outcome.next ((if_neg (by rw [hlink]; decide)).trans (if_pos htr))

variable (hpoison : w = true → p = false)
include hpoison

theorem exec_peerRequest_beyond (hbeyond : 2 ^ 42 < a.toNat + (if w then data.length else n)) :
    exec (.peerRequest ⟨w, tr⟩ a n data p) s = .next (s.emit .unsupported) := by
  cases htr : tr with
  | true => exact exec_peerRequest_translated hlink rfl
  | false =>
    refine congrArg Host.Outcome.next ((if_neg (by rw [hlink]; decide)).trans ((if_neg Bool.false_ne_true).trans ?_))
    cases w with
    | true =>
      rw [hpoison rfl]
      exact if_pos hbeyond
    | false => exact if_pos hbeyond

theorem exec_peerRequest_taken (htr : tr = false) (hwithin : a.toNat + (if w then data.length else n) ≤ 2 ^ 42)
    (hsome : 0 < (if w then data.length else n)) : exec (.peerRequest ⟨w, tr⟩ a n data p) s = .next (s.takePeer (peerReq w p a.toNat n data)) := by
  subst htr
  refine congrArg Host.Outcome.next ((if_neg (by rw [hlink]; decide)).trans ((if_neg Bool.false_ne_true).trans ?_))
  cases w with
  | true =>
    rw [hpoison rfl]
    exact (if_neg (Nat.not_lt.mpr hwithin)).trans (if_neg Bool.false_ne_true)
  | false =>
    refine (if_neg (Nat.not_lt.mpr hwithin)).trans (if_neg ?_)
    have hn : n ≠ 0 := Nat.pos_iff_ne_zero.mp hsome
    simp [hn]

end

/-- A request that has to wait for slots does nothing else (R278). -/
theorem State.takePeer_pending {s : State} {r : PeerReq} (hpeers : s.tier.peers = []) (hkind : r.kind < 3) (hdue : r.due = none)
    (hstop : s.stopped = false) (hslots : s.slotTime = false ∨ s.slots.claim s.tier.used s.planTick (s.peerLoad r) = none) :
    s.takePeer r = s.withPeer r := by
  cases htime : s.slotTime with
  | false => exact State.takePeer_waits_outside hpeers hkind hstop htime
  | true => exact s.takePeer_waits hpeers htime hdue (hslots.resolve_left (by rw [htime]; decide))

/-- A request within one page, in IDLE or HOLD (R277, R278, R366). -/
theorem State.takePeer_stopped {s : State} {w p : Bool} {a n : Nat} {data : List Byte} {sp : Nat × Nat × Nat} (hpoison : w = true → p = false)
    (hpeers : s.tier.peers = []) (hstop : s.stopped = true) (hspan : pageSpans a (if w then data.length else n) = [sp]) {t : State}
    (ht : s.takePeer (peerReq w p a n data) = t) :
    (s.lendPage w sp.1 = none → t.mem = s.mem ∧ t.rf R.TIER_ERR_PEER_REFUSED = 1 ∧ t.rf R.TIER_ERR_LAST_STATUS = s.lendStatus w sp.1 ∧
      (w = false → t.sent = s.sent ++ [.answer (List.replicate sp.2.2 (0, true))])) ∧
    (∀ pg own x, s.lendPage w sp.1 = some (pg, own) → w = false → s.pageFor .peer pg false = .ok x →
      t.mem = s.mem ∧ t.sent.getLast? = some (.answer (s.readOA .peer (pg * 2 ^ 21 + (sp.1 * 2 ^ 21 + sp.2.1) % 2 ^ 21) sp.2.2).data)) ∧
    (∀ pg own x, s.lendPage w sp.1 = some (pg, own) → w = true → s.pageFor .peer pg (s.redirects pg) = .ok x → s.pairClosed pg = false →
      t.mem = (s.writeOA .peer own (pg * 2 ^ 21 + (sp.1 * 2 ^ 21 + sp.2.1) % 2 ^ 21)
        (((clean data).drop (sp.1 * 2 ^ 21 + sp.2.1 - a)).take sp.2.2)).st.mem) := by
  have hserve := s.servePeer_span (p := p) hspan
  have hpage : (sp.1 * 2 ^ 21 + sp.2.1) / 2 ^ 21 = sp.1 := by
    have := offset_lt_of_mem_pageSpans (hspan ▸ List.mem_singleton_self sp)
    omega
  rw [State.takePeer_atOnce hpeers (peerReq_kind w p a n data) hstop (by rw [hserve]; exact (s.peerSpan_samePeers _ _ _ _).trans hpeers), hserve] at ht
  generalize sp.1 * 2 ^ 21 + sp.2.1 = o at *
  subst ht
  refine ⟨fun hnone => ?_, fun pg own x hlend hw hfor => ?_, fun pg own x hlend hw hfor hclosed => ?_⟩
  · have hstatus : s.lendStatus w sp.1 < 2 ^ 8 := by
      unfold State.lendStatus
      split
      · split <;> decide
      · decide
    rw [s.peerSpan_barred w o _ _ (by rw [hpage]; exact hnone), hpage]
    obtain ⟨hmem, -, hset, hlast, hsent⟩ := s.peerRefuse_shows w o sp.2.2 .barred hstatus
    exact ⟨hmem, hset, hlast, hsent⟩
  · subst hw
    rw [s.peerSpan_reads o _ _ (by rw [hpage]; exact hlend) hfor]
    exact ⟨(s.peerRead_leaves _ _).1, List.getLast?_append_of_ne_nil _ (List.cons_ne_nil _ _)⟩
  · subst hw
    rw [hpoison rfl, s.peerSpan_stores o _ _ (by rw [hpage]; exact hlend) hfor hclosed]
    rfl

/-- PEER_REQUEST (R277, R278, R365, R376). -/
theorem peerRequest_answers (w p tr : Bool) (a : BitVec 64) (n : Nat) (data : List Byte) (s : State) (hlink : s.linkUp = true)
    (hpoison : w = true → p = false) :
    Runs (.peerRequest ⟨w, tr⟩ a n data p) s [.stepRegs, .hqRegs, .tierRegs, .ftlRegs, .faultRegs, .logRegs, .row, .memory, .marks, .sent, .free, .flagOut,
        .idleRuns, .logRound, .fault, .ledgers, .tier, .host, .flash]
      (fun t =>
        let len := if w then data.length else n
        let r : PeerReq := ⟨if w then 1 else 0, a.toNat, len, if w then data else [], p, 0, 0, 0, none⟩
        (tr = true → t.sent = s.sent ++ [.unsupported] ∧ t.mem = s.mem) ∧
        (2 ^ 42 < a.toNat + len → t.sent = s.sent ++ [.unsupported] ∧ t.mem = s.mem) ∧
        (tr = false → a.toNat + len ≤ 2 ^ 42 → 0 < len → s.tier.peers = [] → s.stopped = false →
          (s.slotTime = false ∨ s.slots.claim s.tier.used s.planTick (s.peerLoad r) = none → t.tier.peers = [r] ∧ t.mem = s.mem ∧ t.sent = s.sent) ∧
          (∀ c, s.slotTime = true → s.slots.claim s.tier.used s.planTick (s.peerLoad r) = some c → (s.planTick / 32 + 1) * 32 ≤ c.2 →
            t.tier.peers = [{ r with due := some c.2 }] ∧ t.mem = s.mem ∧ t.sent = s.sent)) ∧
        (∀ sp, tr = false → s.tier.peers = [] → s.stopped = true → a.toNat + len ≤ 2 ^ 42 → 0 < len → pageSpans a.toNat len = [sp] →
          (s.lendPage w sp.1 = none → t.mem = s.mem ∧ t.rf R.TIER_ERR_PEER_REFUSED = 1 ∧ t.rf R.TIER_ERR_LAST_STATUS = s.lendStatus w sp.1 ∧
            (w = false → t.sent = s.sent ++ [.answer (List.replicate sp.2.2 (0, true))])) ∧
          (∀ pg own x, s.lendPage w sp.1 = some (pg, own) → w = false → s.pageFor .peer pg false = .ok x →
            t.mem = s.mem ∧ t.sent.getLast? = some (.answer (s.readOA .peer (pg * 2 ^ 21 + (sp.1 * 2 ^ 21 + sp.2.1) % 2 ^ 21) sp.2.2).data)) ∧
          (∀ pg own x, s.lendPage w sp.1 = some (pg, own) → w = true → s.pageFor .peer pg (s.redirects pg) = .ok x → s.pairClosed pg = false →
            t.mem = (s.writeOA .peer own (pg * 2 ^ 21 + (sp.1 * 2 ^ 21 + sp.2.1) % 2 ^ 21)
              (((clean data).drop (sp.1 * 2 ^ 21 + sp.2.1 - a.toNat)).take sp.2.2)).st.mem))) := by
  obtain ⟨t, he⟩ : ∃ t, exec (.peerRequest ⟨w, tr⟩ a n data p) s = .next t := ⟨_, rfl⟩
  have hend : ∀ {u : State}, exec (.peerRequest ⟨w, tr⟩ a n data p) s = .next u → t = u := fun hu => Host.Outcome.next.inj (he.symm.trans hu)
  refine Runs.of he (execPeerRequest_does _ _ _ _ _ _ _ he) (by decide) ⟨fun htr => ?_, fun hbeyond => ?_,
    fun htr hwithin hsome hpeers hstop => ⟨fun hslots => ?_, fun c htime hclaim hlate => ?_⟩, fun sp htr hpeers hstop hwithin hsome hspan => ?_⟩
  · rw [hend (exec_peerRequest_translated hlink htr)]
    exact ⟨rfl, rfl⟩
  · rw [hend (exec_peerRequest_beyond hlink hpoison hbeyond)]
    exact ⟨rfl, rfl⟩
  · rw [hend (exec_peerRequest_taken hlink hpoison htr hwithin hsome),
      State.takePeer_pending hpeers (peerReq_kind w p a.toNat n data) rfl hstop hslots]
    exact ⟨rfl, rfl, rfl⟩
  · rw [hend (exec_peerRequest_taken hlink hpoison htr hwithin hsome),
      State.takePeer_claims hpeers (peerReq_kind w p a.toNat n data) htime rfl hclaim hlate]
    exact ⟨rfl, rfl, rfl⟩
  · exact State.takePeer_stopped hpoison hpeers hstop hspan (hend (exec_peerRequest_taken hlink hpoison htr hwithin hsome)).symm

/-- Settles O35: entries by what a write makes of them, and a request by whether it is served as it comes. -/
theorem lending : Obligations.Lending := ⟨lendEntryWrite_offset, lendEntryWrite_range, peerRequest_answers⟩

end Sys2Proof.Machine
end
